-- ==== Sys2Proof/Word.lean ====
section
/-!
DEFINITION. The word types and the sparse tables every other file is written over: a table is a list of
(key, value) pairs with rising keys, read through `Tbl.get`, which answers a default for a key that is not listed.
-/

namespace Sys2Proof

/-- A 64-bit word. -/
abbrev Word := BitVec 64
/-- A byte. -/
abbrev Byte := BitVec 8

/-- A finite table: pairs of a key and a value, keys rising. -/
abbrev Tbl (α : Type) := List (Nat × α)

/-- The value listed for a key, if any. -/
def Tbl.find? {α : Type} : Tbl α → Nat → Option α
  | [], _ => none
  | (k, v) :: r, i => if k = i then some v else Tbl.find? r i

/-- The value of a key, the default where the key is not listed. -/
def Tbl.get {α : Type} (t : Tbl α) (d : α) (i : Nat) : α := (Tbl.find? t i).getD d

/-- The table with the value of one key replaced. -/
def Tbl.set {α : Type} : Tbl α → Nat → α → Tbl α
  | [], i, v => [(i, v)]
  | (k, w) :: r, i, v =>
    if i = k then (i, v) :: r else if i < k then (i, v) :: (k, w) :: r else (k, w) :: Tbl.set r i v

/-- The table without a key. -/
def Tbl.del {α : Type} (t : Tbl α) (i : Nat) : Tbl α := t.filter fun p => decide (p.1 ≠ i)

/-- Bits `hi:lo` of a natural number. -/
def bits (w hi lo : Nat) : Nat := w / 2 ^ lo % 2 ^ (hi + 1 - lo)

/-- Bit `k` of a natural number. -/
def bit (w k : Nat) : Bool := w.testBit k

end Sys2Proof
end

