-- ==== Sys2Proof/Config.lean ====
section
/-!
DEFINITION. What is fixed for the device: the sizes and codes the spec gives as constants, and the free values, which are
opaque constants without a body. Each free value names the rule that leaves it open and its entry in the assumption log.
-/

namespace Sys2Proof.Config

/-- Cores of the package (01 R14). -/
def numCores : Nat := 32
/-- The firmware context's number among a core's contexts (08 R175). -/
def fwCtx : Nat := 4
/-- Granules a lot table maps (03 R65). -/
def tableEntries : Nat := 32768
/-- Lines of 64 bytes a commit buffer holds (04 R86). -/
def commitLines : Nat := 8192
/-- Commands an engine queue holds (02 R49). -/
def queueDepth : Nat := 16
/-- Words of an engine program's body (02 R50). -/
def bodyWords : Nat := 1024
/-- Result vectors a chain link holds (01 R26). -/
def linkDepth : Nat := 64
/-- Messages a gate FIFO holds (15 R288). -/
def gateDepth : Nat := 4
/-- First frame of host memory (03 R64). -/
def hostFrame : Nat := 2 ^ 18
/-- Frames of physical memory (03 R64). -/
def numFrames : Nat := 2 ^ 20
/-- Owner of a frame nobody owns (03 R67). -/
def ownerNone : Nat := 0x7F
/-- Owner ID of firmware (03 R67). -/
def ownerFirmware : Nat := 0
/-- Owner ID of the scheduling processor (03 R67). -/
def ownerScheduler : Nat := 0x7E
/-- Cycles after which a yielded slot is ready again (09 R200). -/
def yieldCycles : Nat := 64
/-- Ticks before firmware reissues a Market word after MK_FULL (10 R214). -/
def mkRetryTicks : Nat := 10000
/-- Ticks before an unacknowledged split is withdrawn (23 R385). -/
def stealTicks : Nat := 20000

/-- FREE VALUE (05 R113, log 5): the FP32 or BF16 bit pattern that the special-function unit `op` (0 EXP2, 1 LOG2, 2 RCP, 3 RSQ)
gives for the operand pattern; the model takes it only where it meets the accuracy R113 states. -/
opaque approx : Nat → BitVec 32 → BitVec 32

/-- FREE VALUE (13 R251, 01 R20, log 5): a byte whose value no rule states, by the state's counter of free values. -/
opaque freeByte : Nat → BitVec 8

/-- FREE VALUE (log 5): a 64-bit value whose number no rule states, by the state's counter of free values. -/
opaque freeWord : Nat → BitVec 64

/-- FREE VALUE (log 5): a choice between two outcomes the spec allows, by the state's counter of free values. -/
opaque freeBool : Nat → Bool

/-- FREE VALUE (22 R372, log 80): what a word of W reads as under a key (VF, W generation) other than the one it was written under: the
word's place, the two keys, the word. -/
opaque otherKey : Nat → Nat × Nat → Nat × Nat → BitVec 64 → BitVec 64

/-- FREE VALUE (22 R368, log 13): an AES-256 key from the security processor's random generator: the number of the draw, the VF, the
generation, and whether it is the integrity key. -/
opaque sealKey : Nat → Nat → Nat → Bool → BitVec 256

/-- FREE VALUE (27 R417, log 102): the 256-bit fuse seed of the device. -/
opaque fuseSeed : BitVec 256

/-- FREE VALUE (27 R417, log 102): the ML-DSA-65 key pair that SHAKE256 and the key generation derive from a seed: public and private key. -/
opaque identityKeys : BitVec 256 → BitVec 15616 × BitVec 32256

/-- FREE VALUE (27 R417, log 102): a certificate of the device's chain, as words, by its place in it. -/
opaque certificate : Nat → List (BitVec 64)
/-- FREE VALUE (27 R417, log 102): whether the chain has a certificate, beyond its first, at a place. -/
opaque certified : Nat → Bool
/-- The certificate chain: at most three certificates (27 R417). -/
def certChain : List (List (BitVec 64)) := certificate 0 :: ((List.range 2).filter certified).map fun i => certificate (i + 1)
/-- FREE VALUE (27 R419, log 102): the digest of a certificate chain. -/
opaque chainDigest : List (List (BitVec 64)) → BitVec 512

/-- FREE VALUE (26 R411, log 16): the AES-256 migration key of a secure session, by the number of its key exchange. -/
opaque migrationKey : Nat → BitVec 256

/-- FREE VALUE (24 R399, log 104): the fabric port that carries the traffic to and from a package. -/
opaque packagePort : Nat → Fin 18
/-- FREE VALUE (24 R399, log 104): the fabric port that carries the traffic to and from a crossing group. -/
opaque groupPort : Nat → Fin 18

/-- FREE VALUE (26 R416, log 106): the sixteen payload bytes of an event of a TYPE, by the fields that R416 lists for it. -/
opaque eventPayload : Nat → List Nat → BitVec 128

/-- FREE VALUE (15 R298, log 5): the Rink cycles an instruction of a Rink core takes, beyond the first. -/
opaque rinkCycles : Nat → Nat

/-- FREE VALUE (27 R420, log 5): the SHAKE256 digest of the firmware image a number stands for. -/
opaque imageDigest : Nat → BitVec 512

/-- FREE VALUE (27 R425, log 5): the measured package power in watts at a step of the arithmetic clock, by evaluation. -/
opaque packagePower : Nat → Nat → Nat

/-- FREE VALUE (27 R425, log 5): the measured junction temperature in degrees, by evaluation. -/
opaque junction : Nat → Nat

end Sys2Proof.Config
end

