-- ==== Sys2Proof/Machine/Numeric.lean ====
section
/-!
DEFINITION. Number formats, rounding, conversion, the Q4 blocks and the Plaza sum, as 05 (R102 to R118) states them. A bit
pattern is a natural number; a finite value is held exactly as a sign, a magnitude and a power of two. Every rounding takes
the generator state of R109 and returns it, changed where a stochastic draw was made.
-/

namespace Sys2Proof.Machine

/-! ## Formats (R102) and element types (R150) -/

/-- A floating-point format: width, fraction bits, bias, whether it has infinities. -/
structure FFmt where
  width : Nat
  frac : Nat
  bias : Nat
  inf : Bool
  deriving DecidableEq, Repr

def fp32 : FFmt := ⟨32, 23, 127, true⟩
def fp16 : FFmt := ⟨16, 10, 15, true⟩
def bf16 : FFmt := ⟨16, 7, 127, true⟩
def e5m2 : FFmt := ⟨8, 2, 15, true⟩
def e4m3 : FFmt := ⟨8, 3, 7, false⟩

/-- Bits of an element type code: 0 i8, 1 i16, 2 i32, 3 n8, 4 n16, 5 n32, 6 h, 7 bf, 8 f, 9 e4, 10 e5 (R150), 11 i64, 12 n64
(R217). -/
def typeBits (t : Nat) : Nat :=
  if t = 11 ∨ t = 12 then 64
  else if t = 0 ∨ t = 3 ∨ t = 9 ∨ t = 10 then 8 else if t = 1 ∨ t = 4 ∨ t = 6 ∨ t = 7 then 16 else 32
def typeFmt (t : Nat) : Option FFmt :=
  if t = 6 then some fp16 else if t = 7 then some bf16 else if t = 8 then some fp32
  else if t = 9 then some e4m3 else if t = 10 then some e5m2 else none
def typeSigned (t : Nat) : Bool := decide (t < 3) || decide (t = 11)

/-! ## Exact values -/

/-- An exact value: NaN, an infinity, or (-1)^neg × mag × 2^exp. -/
inductive Num where
  | nan
  | inf (neg : Bool)
  | fin (neg : Bool) (mag : Nat) (exp : Int)
  deriving DecidableEq, Repr

def Num.zero : Num := .fin false 0 0

/-- The canonical NaN of a format (R102, R103). -/
def FFmt.canonNaN (f : FFmt) : Nat :=
  if f.inf then 2 ^ (f.width - 1) - 2 ^ f.frac + 2 ^ (f.frac - 1) else 0x7F
def FFmt.expMax (f : FFmt) : Nat := 2 ^ (f.width - 1 - f.frac) - 1
/-- Largest finite pattern without its sign. -/
def FFmt.maxFinite (f : FFmt) : Nat :=
  if f.inf then f.expMax * 2 ^ f.frac - 1 else 2 ^ (f.width - 1) - 2
def FFmt.infPat (f : FFmt) (neg : Bool) : Nat :=
  (if neg then 2 ^ (f.width - 1) else 0) + (if f.inf then f.expMax * 2 ^ f.frac else f.maxFinite)

/-- The value of a pattern (R102). -/
def FFmt.decode (f : FFmt) (bitsV : Nat) : Num :=
  let neg := bitsV.testBit (f.width - 1)
  let e := bits bitsV (f.width - 2) f.frac
  let m := bitsV % 2 ^ f.frac
  if e = f.expMax ∧ f.inf then (if m = 0 then .inf neg else .nan)
  else if e = f.expMax ∧ m = 2 ^ f.frac - 1 then .nan
  else if e = 0 then .fin neg m (1 - (f.bias : Int) - f.frac)
  else .fin neg (2 ^ f.frac + m) ((e : Int) - f.bias - f.frac)

/-- A shift that also divides. -/
def scale2 (m : Nat) (k : Int) : Nat := if 0 ≤ k then m * 2 ^ k.toNat else m / 2 ^ (-k).toNat

/-! ## Rounding (R107 to R109) -/

/-- `sr_bits` of R109: the 16 bits drawn and the generator's next state. -/
def srStep (g : BitVec 32) : BitVec 32 :=
  let x := g ^^^ (g <<< 13)
  let x := x ^^^ (x >>> 17)
  x ^^^ (x <<< 5)
def srBits (g : BitVec 32) : Nat := (srStep g).toNat / 2 ^ 16

/-- Whether a magnitude between grid points lo and lo + 1 unit goes up: r of 2^k is its fraction of the unit, `odd` whether lo's
last bit is one. -/
def roundUp (mode : Nat) (neg odd : Bool) (r den : Nat) (g : BitVec 32) : Bool :=
  if mode = 0 then decide (den < 2 * r) || (decide (den = 2 * r) && odd)
  else if mode = 1 then false
  else if mode = 2 then !neg
  else if mode = 3 then neg
  else decide (2 ^ 16 ≤ r * 2 ^ 16 / den + srBits g)

/-- `round_to` of R108 into a floating-point format. Whether an infinity that becomes 448 in E4M3 under SR draws a value is left open by
R109: the model draws none (log 78). -/
def FFmt.round (f : FFmt) (x : Num) (mode : Nat) (g : BitVec 32) : Nat × BitVec 32 :=
  match x with
  | .nan => (f.canonNaN, g)
  | .inf neg => (f.infPat neg, g)
  | .fin neg m e =>
    let sgn := if neg then 2 ^ (f.width - 1) else 0
    if m = 0 then (sgn, g) else
    let top : Int := (Nat.log2 m : Int) + e
    let emin : Int := 1 - f.bias
    let qe : Int := (if top < emin then emin else top) - f.frac
    let exact : Bool := decide (qe ≤ e) || decide (m % 2 ^ (qe - e).toNat = 0)
    let lo := scale2 m (e - qe)
    let den := 2 ^ (qe - e).toNat
    let up := !exact && roundUp mode neg (decide (lo % 2 = 1)) (m % den) den g
    let mant := if up then lo + 1 else lo
    -- pattern of mant × 2^qe on the unbounded grid
    let pat : Nat :=
      if qe = emin - f.frac ∧ mant < 2 ^ f.frac then mant
      else (qe + f.frac + f.bias - 1).toNat * 2 ^ f.frac + mant
    let big : Bool := decide (f.maxFinite < pat)
    let g' := if mode = 4 ∧ (!exact ∨ big) then srStep g else g
    if big then
      let toMax : Bool := !f.inf || decide (mode = 1) || (decide (mode = 2) && neg) || (decide (mode = 3) && !neg)
      (sgn + (if toMax then f.maxFinite else f.infPat false), g')
    else (sgn + pat, g')

/-- A result rounded to nearest even, which draws no random bits. -/
def FFmt.rne (f : FFmt) (x : Num) : Nat := (f.round x 0 1).1

/-! ## Exact arithmetic with the special values of R111 -/

def Num.neg : Num → Num
  | .nan => .nan
  | .inf s => .inf (!s)
  | .fin s m e => .fin (!s) m e
def Num.abs : Num → Num
  | .nan => .nan
  | .inf _ => .inf false
  | .fin _ m e => .fin false m e
def Num.isZero : Num → Bool
  | .fin _ 0 _ => true
  | _ => false
/-- The signed magnitude of a finite value in units of 2^k, for k at most its exponent. -/
def Num.units (k : Int) : Num → Int
  | .fin s m e => let v : Int := (m * 2 ^ (e - k).toNat : Nat); if s then -v else v
  | _ => 0
def Num.expOf : Num → Int
  | .fin _ _ e => e
  | _ => 0
def Num.ofInt (z : Int) (k : Int) : Num := .fin (decide (z < 0)) z.natAbs k

/-- A sum, its zero signed as R108 and R111 say for the mode. -/
def Num.add (mode : Nat) (a b : Num) : Num :=
  match a, b with
  | .nan, _ => .nan
  | _, .nan => .nan
  | .inf s, .inf t => if s = t then .inf s else .nan
  | .inf s, _ => .inf s
  | _, .inf t => .inf t
  | .fin s m e, .fin t n f =>
    if m = 0 ∧ n = 0 then .fin (if s = t then s else decide (mode = 3)) 0 0
    else
      let k := if e < f then e else f
      let z := (Num.fin s m e).units k + (Num.fin t n f).units k
      if z = 0 then .fin (decide (mode = 3)) 0 0 else .ofInt z k
def Num.mul (a b : Num) : Num :=
  match a, b with
  | .nan, _ => .nan
  | _, .nan => .nan
  | .inf s, .inf t => .inf (s != t)
  | .inf s, .fin t m _ => if m = 0 then .nan else .inf (s != t)
  | .fin s m _, .inf t => if m = 0 then .nan else .inf (s != t)
  | .fin s m e, .fin t n f => .fin (s != t) (m * n) (e + f)
def Num.fma (mode : Nat) (a b c : Num) : Num := Num.add mode (Num.mul a b) c

/-- Less than, on values that are not NaN; zeros of either sign are equal. -/
def Num.lt (a b : Num) : Bool :=
  match a, b with
  | .nan, _ => false
  | _, .nan => false
  | .inf s, .inf t => s && !t
  | .inf s, _ => s
  | _, .inf t => !t
  | .fin s m e, .fin t n f =>
    let k := if e < f then e else f
    decide ((Num.fin s m e).units k < (Num.fin t n f).units k)
def Num.eq (a b : Num) : Bool :=
  match a, b with
  | .nan, _ => false
  | _, .nan => false
  | a, b => !a.lt b && !b.lt a
def Num.isNeg : Num → Bool
  | .nan => false
  | .inf s => s
  | .fin s _ _ => s
def Num.isNaN : Num → Bool
  | .nan => true
  | _ => false

/-- MIN and MAX of R111. -/
def Num.minMax (isMin : Bool) (a b : Num) : Num :=
  if a.isNaN then b else if b.isNaN then a
  else if a.eq b then (if isMin then (if a.isNeg then a else b) else (if a.isNeg then b else a))
  else if a.lt b == isMin then a else b

/-! ## Integers (R104) -/

/-- The integer a pattern of an integer type stands for. -/
def intOf (t w : Nat) : Int :=
  let k := typeBits t
  let w := w % 2 ^ k
  if typeSigned t ∧ w.testBit (k - 1) then (w : Int) - 2 ^ k else w
/-- The pattern of an integer in a type, wrapped. -/
def wrapTo (t : Nat) (z : Int) : Nat := (z % (2 ^ typeBits t : Int)).toNat
def typeMin (t : Nat) : Int := if typeSigned t then -(2 ^ (typeBits t - 1)) else 0
def typeMax (t : Nat) : Int := if typeSigned t then 2 ^ (typeBits t - 1) - 1 else 2 ^ typeBits t - 1
def satTo (t : Nat) (z : Int) : Nat :=
  wrapTo t (if z < typeMin t then typeMin t else if typeMax t < z then typeMax t else z)

/-- A value rounded to an integer by a mode. -/
def Num.toInt (x : Num) (mode : Nat) (g : BitVec 32) : Int × BitVec 32 :=
  match x with
  | .fin neg m e =>
    let exact : Bool := decide (0 ≤ e) || decide (m % 2 ^ (-e).toNat = 0)
    let lo := scale2 m e
    let den := 2 ^ (-e).toNat
    let up := !exact && roundUp mode neg (decide (lo % 2 = 1)) (m % den) den g
    let v : Int := if up then lo + 1 else lo
    (if neg then -v else v, if mode = 4 ∧ !exact then srStep g else g)
  | _ => (0, g)

/-- The exact value of an element. -/
def elemNum (t w : Nat) : Num :=
  match typeFmt t with
  | some f => f.decode w
  | none => .ofInt (intOf t w) 0

/-- `cvt` of R112 between element types. -/
def convert (src dst w mode : Nat) (g : BitVec 32) : Nat × BitVec 32 :=
  match typeFmt dst with
  | some f => f.round (elemNum src w) mode g
  | none =>
    match elemNum src w with
    | .nan => (0, g)
    | .inf neg => (satTo dst (if neg then typeMin dst else typeMax dst), g)
    | x => let (z, g) := x.toInt mode g; (satTo dst z, g)

/-! ## Q4 blocks (R105, R106, R117, R118) -/

/-- Eight times the value of a code, so that every entry of R106 is an integer: types 0 INT4, 1 E2M1, 2 POW2, 3 HYB. -/
def q4mag8 (t c : Nat) : Nat :=
  if t = 0 then 8 * c
  else if t = 1 then [0, 4, 8, 12, 16, 24, 32, 48].getD c 0
  else if t = 2 then [0, 1, 2, 4, 8, 16, 32, 64].getD c 0
  else [0, 8, 16, 24, 32, 48, 64, 128].getD c 0
/-- Eight times `q4val` of R106. -/
def q4val8 (t code : Nat) : Int :=
  if code % 16 < 8 then (q4mag8 t (code % 16) : Int)
  else if t = 0 then (if code % 16 = 8 then -56 else ((code % 16 : Nat) : Int) * 8 - 128)
  else if code % 16 = 8 then 0 else -(q4mag8 t (code % 16 - 8) : Int)
/-- The value of a code under a scale byte (R105). -/
def q4num (scale code : Nat) : Num := .ofInt (q4val8 (scale / 64 % 4) code) ((scale % 64 : Nat) - 35)

def q4max (t : Nat) : Nat := q4mag8 t 7
def q4min (t : Nat) : Nat := q4mag8 t 1

/-- Compare a magnitude m × 2^e with n × 2^k. -/
def magLe (m : Nat) (e : Int) (n : Nat) (k : Int) : Bool :=
  let b := if e < k then e else k
  decide (m * 2 ^ (e - b).toNat ≤ n * 2 ^ (k - b).toNat)

/-- The largest magnitude of a block, NaN read as 0, none for an infinity. -/
def blockMax (xs : List Num) : Option (Nat × Int) :=
  xs.foldl (fun acc x =>
    match acc, x with
    | none, _ => none
    | _, .inf _ => none
    | some (m, e), .fin _ n f => if magLe m e n f then some (n, f) else some (m, e)
    | acc, .nan => acc) (some (0, 0))

/-- The smallest e of R117 with m ≤ maxcode × 2^(e-32), 63 when none is. -/
def q4exp (t m : Nat) (k : Int) : Nat → Nat → Nat
  | 0, _ => 63
  | n + 1, e => if magLe m k (q4max t) ((e : Int) - 35) then e else q4exp t m k n (e + 1)

/-- The grid interval [lo, lo + 1] in code numbers that holds a magnitude y = m × 2^k in eighths; the largest code not above it. -/
def q4floor (t m : Nat) (k : Int) : Nat :=
  ([1, 2, 3, 4, 5, 6, 7].filter fun c => magLe (q4mag8 t c) (-3) m k).length

/-- The code of one element (R117) for a scale exponent e. -/
def q4code (t e mode : Nat) (x : Num) (g : BitVec 32) : Nat × BitVec 32 :=
  match x with
  | .nan => (0, g)
  | .inf neg => (if neg then (if t = 0 then 9 else 15) else 7, g)
  | .fin neg m f =>
    let k : Int := f - ((e : Int) - 32)            -- y = m × 2^k
    let code (c : Nat) : Nat := if c = 0 then 0 else if neg then (if t = 0 then 16 - c else 8 + c) else c
    if m = 0 then (0, g)
    else if !magLe (q4min t) (-4) m k then (0, g)
    else if magLe (q4max t) (-3) m k then (code 7, g)
    else
      let lo := q4floor t m k
      let a := q4mag8 t lo
      let b := q4mag8 t (lo + 1)
      -- d = (8y - a)/(b - a) as r/den
      let z : Int := k + 3
      let num := if 0 ≤ z then m * 2 ^ z.toNat - a else m - a * 2 ^ (-z).toNat
      let den := (b - a) * (if 0 ≤ z then 1 else 2 ^ (-z).toNat)
      if num = 0 then (code lo, g)
      else
        let even : Bool := decide (code lo % 2 = 0)
        let up := roundUp mode neg (!even) num den g
        (code (if up then lo + 1 else lo), if mode = 4 then srStep g else g)

def q4codes (t e mode : Nat) : List Num → BitVec 32 → List Nat × BitVec 32
  | [], g => ([], g)
  | x :: xs, g =>
    let (c, g) := q4code t e mode x g
    let (cs, g) := q4codes t e mode xs g
    (c :: cs, g)

/-- `q4_encode` of R117: codes and scale byte. -/
def q4encode (xs : List Num) (t mode : Nat) (g : BitVec 32) : List Nat × Nat × BitVec 32 :=
  let e := match blockMax xs with
    | none => 63
    | some (m, k) => if m = 0 then 0 else q4exp t m k 64 0
  let (cs, g) := q4codes t e mode xs g
  (cs, t * 64 + e, g)

/-! ## Transcendentals (R113) -/

/-- The value of a pattern as a magnitude for the accuracy test, an infinity standing for 2^128. -/
def accVal (w : Nat) : Num :=
  match fp32.decode w with
  | .inf s => .fin s 1 128
  | x => x

/-- |y - x| ≤ bound, all finite. -/
def within (x y bound : Num) : Bool :=
  let d := (Num.add 0 x y.neg).abs
  match d, bound with
  | .fin _ m e, .fin _ n k => magLe m e n k
  | _, _ => false

/-- The ulp in FP32 of a magnitude whose top bit has weight 2^top. -/
def ulp32 (top : Int) : Int := (if top < -126 then -126 else top) - 23

/-- Fixed-point working precision of the enclosures. -/
def fixBits : Nat := 96
/-- ln 2 in units of 2^-96. -/
def ln2Fix : Nat := 54916777467707473351141471128

/-- e^t for t in units of 2^-96, by its Taylor sum from term n. -/
def expFix (t : Nat) : Nat → Nat → Nat → Nat
  | 0, _, _ => 0
  | k + 1, n, term => term + expFix t k (n + 1) (term * t / 2 ^ fixBits / n)

/-- 2^x for a finite x, as an approximation in the enclosure's precision. -/
def exp2Approx (x : Num) : Num :=
  match x with
  | .fin neg m e =>
    let z : Int := if 0 ≤ e then (m * 2 ^ e.toNat * 2 ^ fixBits : Nat) else (m * 2 ^ fixBits / 2 ^ (-e).toNat : Nat)
    let z := if neg then -z else z
    let n := z / 2 ^ fixBits
    let f := (z % 2 ^ fixBits).toNat
    .fin false (expFix (f * ln2Fix / 2 ^ fixBits) 40 1 (2 ^ fixBits)) (n - fixBits)
  | x => x

/-- The bits of log2 of a mantissa in [1, 2), in units of 2^-96, by squaring. -/
def log2Fix : Nat → Nat → Nat → Nat
  | 0, _, acc => acc
  | k + 1, y, acc =>
    let y2 := y * y / 2 ^ fixBits
    if 2 ^ (fixBits + 1) ≤ y2 then log2Fix k (y2 / 2) (acc * 2 + 1) else log2Fix k y2 (acc * 2)

/-- log2 of a positive finite value, as an approximation in the enclosure's precision (64 bits of fraction). -/
def log2Approx (m : Nat) (e : Int) : Num :=
  let l := Nat.log2 m
  let y := m * 2 ^ fixBits / 2 ^ l
  .ofInt (((l : Int) + e) * 2 ^ 64 + log2Fix 64 y 0) (-64)

/-- The reciprocal of a positive value in the enclosure's precision. -/
def rcpApprox (m : Nat) (e : Int) : Num := .fin false (2 ^ (2 * fixBits + 32) / m) (-e - (2 * fixBits + 32))

def isqrtStep (n : Nat) : Nat → Nat → Nat
  | 0, r => r
  | k + 1, r => let r' := r + 2 ^ k; isqrtStep n k (if r' * r' ≤ n then r' else r)
/-- Integer square root of numbers below 2^(2k). -/
def isqrt (k n : Nat) : Nat := isqrtStep n k 0

/-- The reciprocal square root of a positive value in the enclosure's precision. -/
def rsqApprox (m : Nat) (e : Int) : Num :=
  let m' := if e % 2 = 0 then m else 2 * m
  let e' := if e % 2 = 0 then e else e - 1
  .fin false (isqrt 160 (2 ^ 300 / m')) (-(e' / 2) - 150)

/-- The accuracy test of R113: the approximation of the exact result, the candidate, the number of ulps allowed, and half a
2^-40 of an ulp for the enclosure's own error. -/
def accurate (x : Num) (cand ulps : Nat) : Bool :=
  match x with
  | .fin _ m e =>
    if m = 0 then false else
    let u := ulp32 ((Nat.log2 m : Int) + e)
    within x (accVal cand) (.fin false (ulps * 2 ^ 40 + 1) (u - 40))
  | _ => false

/-- A free value of `op`, where it meets the accuracy; the rounded exact result where it does not (R113). -/
def approxOr (op w ulps : Nat) (x : Num) : Nat :=
  let cand := (Config.approx op (BitVec.ofNat 32 w)).toNat
  if accurate x cand ulps then cand else fp32.rne x

/-- RCP on FP32 patterns. -/
def rcp32 (w : Nat) : Nat :=
  match fp32.decode w with
  | .nan => fp32.canonNaN
  | .inf s => if s then 2 ^ 31 else 0
  | .fin s m e =>
    if m = 0 then fp32.infPat s
    else approxOr 2 w 1 (match rcpApprox m e with | .fin _ n k => .fin s n k | x => x)
/-- RSQ on FP32 patterns. -/
def rsq32 (w : Nat) : Nat :=
  match fp32.decode w with
  | .nan => fp32.canonNaN
  | .inf s => if s then fp32.canonNaN else 0
  | .fin s m e =>
    if m = 0 then fp32.infPat s else if s then fp32.canonNaN else approxOr 3 w 1 (rsqApprox m e)
/-- EXP2 on FP32 patterns. -/
def exp2f32 (w : Nat) : Nat :=
  match fp32.decode w with
  | .nan => fp32.canonNaN
  | .inf s => if s then 0 else fp32.infPat false
  | .fin s m e =>
    if m = 0 then 0x3F800000
    else if !s ∧ magLe 128 0 m e then fp32.infPat false
    else if s ∧ !magLe m e 150 0 then 0
    else if (0 ≤ e ∨ m % 2 ^ (-e).toNat = 0) ∧ (!s ∨ magLe m e 149 0) then
      fp32.rne (.fin false 1 (if s then -(scale2 m e : Int) else scale2 m e))
    else approxOr 0 w 2 (exp2Approx (.fin s m e))
/-- LOG2 on FP32 patterns. -/
def log2f32 (w : Nat) : Nat :=
  match fp32.decode w with
  | .nan => fp32.canonNaN
  | .inf s => if s then fp32.canonNaN else fp32.infPat false
  | .fin s m e =>
    if m = 0 then fp32.infPat true else if s then fp32.canonNaN
    else if m = 2 ^ Nat.log2 m then fp32.rne (.ofInt ((Nat.log2 m : Int) + e) 0)
    else
      let x := log2Approx m e
      let top := (Nat.log2 m : Int) + e
      if top = -1 ∨ top = 0 then
        let cand := (Config.approx 1 (BitVec.ofNat 32 w)).toNat
        if within x (accVal cand) (.fin false (2 ^ 40 + 1) (-62)) then cand else fp32.rne x
      else approxOr 1 w 2 x

/-- A transcendental on an element of FP32, BF16 or FP16 (R113): 0 EXP2, 1 LOG2, 2 RCP, 3 RSQ. -/
def transcendental (op t w : Nat) : Nat :=
  match typeFmt t with
  | some f =>
    let x := fp32.rne (f.decode w)
    let r := if op = 0 then exp2f32 x else if op = 1 then log2f32 x else if op = 2 then rcp32 x else rsq32 x
    f.rne (fp32.decode r)
  | none => 0

/-! ## The Plaza (R114, R115) -/

/-- What one pass adds to a slab element: a special result, an exact total, or the FP32 running sum of the 16-bit class. -/
inductive PSum where
  | special (x : Num)
  | exact (x : Num)
  | run (pattern : Nat)
  deriving DecidableEq, Repr

/-- `special_sum` of R115. -/
def specialSum (ps : List Num) : Option Num :=
  if ps.any Num.isNaN then some .nan
  else if ps.contains (.inf false) ∧ ps.contains (.inf true) then some .nan
  else if ps.contains (.inf false) then some (.inf false)
  else if ps.contains (.inf true) then some (.inf true)
  else none

/-- An exact sum of finite values, its zero +0. -/
def sumExact (ps : List Num) : Num :=
  let k := ps.foldl (fun k p => if p.expOf < k then p.expOf else k) 0
  .ofInt (ps.foldl (fun a p => a + p.units k) 0) k

/-- The truncated group sum of the 16-bit class (R115). -/
def groupSum (ps : List Num) : Num :=
  let nz := ps.filter fun p => !p.isZero
  match nz with
  | [] => .zero
  | _ =>
    let top := fun p => match p with | Num.fin _ m e => (Nat.log2 m : Int) + e | _ => 0
    let E := nz.foldl (fun a p => if a < top p then top p else a) (-100000)
    let q := E - 28
    .ofInt (nz.foldl (fun a p => match p with
      | .fin s m e => let v : Int := scale2 m (e - q); a + (if s then -v else v)
      | _ => a) 0) q

def groupsRun : Nat → List Num → Nat → Nat
  | 0, _, run => run
  | n + 1, ps, run => groupsRun n (ps.drop 16) (fp32.rne (Num.add 0 (fp32.decode run) (groupSum (ps.take 16))))

/-- The products of one column as the sum a pass adds; `wide` is the 16-bit class (R114). -/
def plazaSum (wide : Bool) (ps : List Num) : PSum :=
  match specialSum ps with
  | some x => .special x
  | none => if wide then .run (groupsRun ((ps.length + 15) / 16) ps 0) else .exact (sumExact ps)

/-- `plaza_pass`'s last rounding: the slab element after the pass. Every zero sum of the Plaza is +0, that of two zeros below zero too
(log 79). -/
def plazaAdd (slab : Nat) (p : PSum) : Nat :=
  let x := match p with
    | .special x => x
    | .exact x => x
    | .run w => fp32.decode w
  let y := Num.add 0 (fp32.decode slab) x
  fp32.rne (if y.isZero then .zero else y)

end Sys2Proof.Machine
end

