-- ==== Sys2Proof/Syntax.lean ====
section
/-!
DEFINITION. The one inductive `Instr`: a constructor for each row of spec/opcode_table.json. The first 218 rows
and CLDM are words of the five instruction sets (07 R145-R156); their arguments are the fields of the word, each as
wide as the field. The other rows are the indivisible steps without a word (95); their arguments name the unit that steps
and carry the value written, where the step is a register write.
XFER_L and XFER_R also carry NEG and ALW (R148), which the table's rows leave out, and CHALT has a second constructor for its word with S
(R154, R155), of which the table's row says nothing.
-/

namespace Sys2Proof

/-- The instructions, steps and events of the device, one constructor per row of the opcode table. -/
inductive Instr where
  /-- ADD (R158): Writes rs + rt, wrapping, to rd. -/
  | add (d s t : BitVec 5)
  /-- SUB (R158): Writes rs - rt, wrapping, to rd. -/
  | sub (d s t : BitVec 5)
  /-- AND (R158): Writes rs AND rt to rd. -/
  | and (d s t : BitVec 5)
  /-- OR (R158): Writes rs OR rt to rd. -/
  | or (d s t : BitVec 5)
  /-- XOR (R158): Writes rs XOR rt to rd. -/
  | xor (d s t : BitVec 5)
  /-- ANDN (R158): Writes rs AND NOT rt to rd. -/
  | andn (d s t : BitVec 5)
  /-- SLL (R158): Shifts rs left by rt bits 5:0. -/
  | sll (d s t : BitVec 5)
  /-- SRL (R158): Shifts rs logically right by rt bits 5:0. -/
  | srl (d s t : BitVec 5)
  /-- SRA (R158): Shifts rs arithmetically right by rt bits 5:0. -/
  | sra (d s t : BitVec 5)
  /-- ROR (R158): Rotates rs right by rt bits 5:0. -/
  | ror (d s t : BitVec 5)
  /-- MUL (R158): Writes the low 64 bits of rs x rt. -/
  | mul (d s t : BitVec 5)
  /-- MULH (R158): Writes the high 64 bits of the signed product. -/
  | mulh (d s t : BitVec 5)
  /-- MULHU (R158): Writes the high 64 bits of the unsigned product. -/
  | mulhu (d s t : BitVec 5)
  /-- DIV (R159): Signed division rounded toward zero, never trapping. -/
  | div (d s t : BitVec 5)
  /-- DIVU (R159): Unsigned division, never trapping. -/
  | divu (d s t : BitVec 5)
  /-- REM (R159): Signed remainder with the dividend's sign. -/
  | rem (d s t : BitVec 5)
  /-- REMU (R159): Unsigned remainder. -/
  | remu (d s t : BitVec 5)
  /-- MIN (R158): Signed minimum of rs and rt. -/
  | min (d s t : BitVec 5)
  /-- MAX (R158): Signed maximum of rs and rt. -/
  | max (d s t : BitVec 5)
  /-- MINU (R158): Unsigned minimum of rs and rt. -/
  | minu (d s t : BitVec 5)
  /-- MAXU (R158): Unsigned maximum of rs and rt. -/
  | maxu (d s t : BitVec 5)
  /-- ADDS (R158): Signed sum saturated to .i64. -/
  | adds (d s t : BitVec 5)
  /-- SUBS (R158): Signed difference saturated to .i64. -/
  | subs (d s t : BitVec 5)
  /-- CLZ (R158): Counts leading zero bits of rs. -/
  | clz (d s : BitVec 5)
  /-- CTZ (R158): Counts trailing zero bits of rs. -/
  | ctz (d s : BitVec 5)
  /-- POPC (R158): Counts one bits of rs. -/
  | popc (d s : BitVec 5)
  /-- SEXT8 (R158): Sign-extends the low 8 bits of rs. -/
  | sext8 (d s : BitVec 5)
  /-- SEXT16 (R158): Sign-extends the low 16 bits of rs. -/
  | sext16 (d s : BitVec 5)
  /-- SEXT32 (R158): Sign-extends the low 32 bits of rs. -/
  | sext32 (d s : BitVec 5)
  /-- ZEXT32 (R158): Zero-extends the low 32 bits of rs. -/
  | zext32 (d s : BitVec 5)
  /-- MOVF (R158): Writes 1 to rd if the named flag is set, else 0. -/
  | movf (d : BitVec 5) (f : BitVec 3)
  /-- MOVB (R158): Writes the contents of a branch register to rd. -/
  | movb (d : BitVec 5) (b : BitVec 3)
  /-- ADDI (R160): Adds a sign-extended 16-bit immediate. -/
  | addi (d s : BitVec 5) (i : BitVec 16)
  /-- ANDI (R160): ANDs a zero-extended 16-bit immediate. -/
  | andi (d s : BitVec 5) (i : BitVec 16)
  /-- ORI (R160): ORs a zero-extended 16-bit immediate. -/
  | ori (d s : BitVec 5) (i : BitVec 16)
  /-- XORI (R160): XORs a zero-extended 16-bit immediate. -/
  | xori (d s : BitVec 5) (i : BitVec 16)
  /-- SLLI (R160): Shifts left by an immediate count. -/
  | slli (d s : BitVec 5) (h : BitVec 6)
  /-- SRLI (R160): Shifts logically right by an immediate count. -/
  | srli (d s : BitVec 5) (h : BitVec 6)
  /-- SRAI (R160): Shifts arithmetically right by an immediate count. -/
  | srai (d s : BitVec 5) (h : BitVec 6)
  /-- RORI (R160): Rotates right by an immediate count. -/
  | rori (d s : BitVec 5) (h : BitVec 6)
  /-- LI (R160): Loads a zero-extended 16-bit immediate. -/
  | li (d : BitVec 5) (i : BitVec 16)
  /-- LIH (R160): Inserts a 16-bit immediate into bits 31:16 of rd, clearing bits 63:32. -/
  | lih (d : BitVec 5) (i : BitVec 16)
  /-- MULI (R160): Multiplies by a sign-extended 16-bit immediate. -/
  | muli (d s : BitVec 5) (i : BitVec 16)
  /-- CMP (R161): Sets a flag from a comparison of two registers. -/
  | cmp (f : BitVec 3) (c : BitVec 4) (s t : BitVec 5)
  /-- CMPI (R161): Sets a flag from a comparison with a signed 14-bit immediate. -/
  | cmpi (f : BitVec 3) (c : BitVec 4) (s : BitVec 5) (i : BitVec 14)
  /-- PREP (R163): Loads a PC-relative target into a branch register. -/
  | prep (b : BitVec 3) (o : BitVec 23)
  /-- XFER (R164): Transfers to a branch register when a flag is set, after two delay slots. -/
  | xfer (b f : BitVec 3)
  /-- XFER_N (R164): Transfers to a branch register when a flag is clear, after two delay slots. -/
  | xferN (b f : BitVec 3)
  /-- XFER_A (R164): Always transfers to a branch register after two delay slots. -/
  | xferA (b : BitVec 3)
  /-- XFER_L (R164): Conditional transfer that writes a link into s[rt]. -/
  | xferL (b f : BitVec 3) (n a : BitVec 1) (t : BitVec 5)
  /-- XFER_R (R164): Conditional transfer to the address in s[rt]. -/
  | xferR (f : BitVec 3) (n a : BitVec 1) (t : BitVec 5)
  /-- VANY (R166): Waits for the vector context to go idle, then sets a flag if any predicate bit is set. -/
  | vany (f p : BitVec 3)
  /-- VALL (R166): Waits for the vector context to go idle, then sets a flag if all predicate bits are set. -/
  | vall (f p : BitVec 3)
  /-- FAND (R162): Sets fd to fa AND fb. -/
  | flagAnd (d a b : BitVec 3)
  /-- FOR (R162): Sets fd to fa OR fb. -/
  | flagOr (d a b : BitVec 3)
  /-- FXOR (R162): Sets fd to fa XOR fb. -/
  | flagXor (d a b : BitVec 3)
  /-- FANDN (R162): Sets fd to fa AND NOT fb. -/
  | flagAndn (d a b : BitVec 3)
  /-- FNOT (R162): Sets fd to NOT fa. -/
  | flagNot (d a : BitVec 3)
  /-- FSET (R162): Sets fd to an immediate bit. -/
  | flagSet (d : BitVec 3) (v : BitVec 1)
  /-- LD (R168): Loads 1-8 bytes from G through the lot view, zero-extended. -/
  | ld (d b : BitVec 5) (z : BitVec 2) (o : BitVec 14)
  /-- ST (R168): Places 1-8 bytes in the commit buffer for G. -/
  | st (d b : BitVec 5) (z : BitVec 2) (o : BitVec 14)
  /-- LDL (R167): Loads from the context's L window. -/
  | ldl (d b : BitVec 5) (z : BitVec 2) (o : BitVec 14)
  /-- STL (R167): Stores to the context's L window. -/
  | stl (d b : BitVec 5) (z : BitVec 2) (o : BitVec 14)
  /-- LDA (R167): Loads from the slot's A window in frame slot 1 or 5. -/
  | lda (d b : BitVec 5) (z : BitVec 2) (o : BitVec 14)
  /-- STA (R170): Stores to the slot's A window, setting the granule's live bit. -/
  | sta (d b : BitVec 5) (z : BitVec 2) (o : BitVec 14)
  /-- LDC (R171): Interlocked 4-byte read of a C slab after its pending count reaches zero. -/
  | ldc (d b : BitVec 5) (o : BitVec 14)
  /-- LDC_NOWAIT (R171): Immediate 4-byte read of a C slab, setting f0 when writes are pending. -/
  | ldcNowait (d b : BitVec 5) (o : BitVec 14)
  /-- PREF (R172): Asks for a 64-byte G line to be brought into the far cache, never trapping. -/
  | pref (b : BitVec 5) (z : BitVec 2) (o : BitVec 14)
  /-- ATOM (R206): Near or far read-modify-write of a 4- or 8-byte G word. -/
  | atom (d b t : BitVec 5) (o : BitVec 4) (w f : BitVec 1) (r : BitVec 2) (s : BitVec 3)
  /-- ACAS (R205): Near or far compare-and-swap of a G word. -/
  | acas (d b t : BitVec 5) (w f : BitVec 1) (r : BitVec 2) (s : BitVec 3)
  /-- MKDEP (R213): Commits the phase and deposits an 8-field tuple in the Market as a release. -/
  | mkdep (g : BitVec 2) (b : BitVec 5)
  /-- MKRD_T (R213): Copies the oldest matching tuple into registers, setting a flag, without parking. -/
  | mkrdT (g : BitVec 2) (b : BitVec 5) (m : BitVec 8) (f : BitVec 3)
  /-- MKRD_W (R213): Waiting read of a matching tuple that parks until one is deposited. -/
  | mkrdW (b : BitVec 5) (m : BitVec 8) (r : BitVec 5)
  /-- MKTAKE_T (R213): Removes the oldest matching tuple into registers, setting a flag, without parking. -/
  | mktakeT (g : BitVec 2) (b : BitVec 5) (m : BitVec 8) (f : BitVec 3)
  /-- MKTAKE_W (R213): Waiting take of a matching tuple that parks until one is deposited. -/
  | mktakeW (b : BitVec 5) (m : BitVec 8) (r : BitVec 5)
  /-- GETS (R173): Reads a system register into rd. -/
  | gets (d : BitVec 5) (n : BitVec 16)
  /-- SETS (R173): Writes a system register from rs. -/
  | sets (s : BitVec 5) (n : BitVec 16)
  /-- FORK_VEC (R184): Places a vector program command in the slot's vector queue. -/
  | forkVec (h : BitVec 1) (e : BitVec 18)
  /-- FORK_MAT (R184): Places a fragment program command in each leased fragment's queue. -/
  | forkMat (h : BitVec 1) (k : BitVec 5) (e : BitVec 18)
  /-- FORK_COPY (R184): Places a copy program command in each leased copy engine's queue and reserves its tags. -/
  | forkCopy (h : BitVec 1) (k : BitVec 5) (e : BitVec 18)
  /-- MARK (R185): Places a marker, or a NOTIFY marker, in each named engine queue. -/
  | mark (s : BitVec 5) (n : BitVec 1) (q : BitVec 13)
  /-- RDV_SET (R186): Sets a rendezvous register's queue mask and marker. -/
  | rdvSet (v : BitVec 3) (s : BitVec 5) (q : BitVec 13)
  /-- RDV_WAIT (R186): Stalls until a rendezvous register fires. -/
  | rdvWait (v : BitVec 3)
  /-- RDV_TEST (R186): Sets a flag to whether a rendezvous register has fired. -/
  | rdvTest (v f : BitVec 3)
  /-- QDROP (R187): Removes unstarted commands placed after a marker from the named queues. -/
  | qdrop (s : BitVec 5) (q : BitVec 13)
  /-- TWAIT_ANY (R188): Stalls until any masked tag is done. -/
  | twaitAny (s : BitVec 5)
  /-- TWAIT_ALL (R188): Stalls until every masked tag is done. -/
  | twaitAll (s : BitVec 5)
  /-- TFFR (R188): Returns the lowest done tag of a mask, or 64. -/
  | tffr (d s : BitVec 5)
  /-- TCANCEL (R188): Cancels queued and in-flight copy commands of the masked tags. -/
  | tcancel (s : BitVec 5)
  /-- RSET (R189): Writes a ring-table entry and resets its counters. -/
  | rset (c : BitVec 6) (s : BitVec 5)
  /-- RCLAIM (R189): Claims ring slots, stalling while too few are free. -/
  | rclaim (c : BitVec 6) (d s : BitVec 5)
  /-- RDONE (R189): Marks a claimed ring slot filled once earlier STAs are performed. -/
  | rdone (c : BitVec 6) (s : BitVec 5)
  /-- RWAITF (R189): Stalls until a ring holds enough filled slots. -/
  | rwaitf (c : BitVec 6) (s : BitVec 5)
  /-- RWAITE (R189): Stalls until a ring has enough free slots. -/
  | rwaite (c : BitVec 6) (s : BitVec 5)
  /-- RADV (R189): Releases filled ring slots as consumer. -/
  | radv (c : BitVec 6) (s : BitVec 5)
  /-- RGET (R189): Reads a ring counter or the entry's writable fields. -/
  | rget (c : BitVec 6) (d s : BitVec 5)
  /-- PHASE (R190): Commits held stores and takes a checkpoint with a register mask. -/
  | phase (r : BitVec 5)
  /-- FENCE_X (R96): Orders accesses of one path set before accesses of another at a scope. -/
  | fenceX (x y : BitVec 6) (s : BitVec 3)
  /-- WAITC (R192): Waiting instruction that registers a watch on a signal word and frees the slot. -/
  | waitc (s t m : BitVec 5) (c : BitVec 3)
  /-- SIGNAL_SET (R193): Commits the phase and writes a signal word at its home slice as a release. -/
  | signalSet (s t : BitVec 5)
  /-- SIGNAL_ADD (R193): Commits the phase and adds to a signal word at its home slice as a release. -/
  | signalAdd (s t : BitVec 5)
  /-- LEASE_W (R194): Waiting fragment lease request that ages in the allocator. -/
  | leaseW (d m q : BitVec 5)
  /-- LEASE_T (R194): Fragment lease request that takes part in one allocator decision only. -/
  | leaseT (d q : BitVec 5)
  /-- LEASEC_W (R194): Waiting copy-engine lease request. -/
  | leasecW (d m : BitVec 5) (c : BitVec 2)
  /-- LEASEC_T (R194): Copy-engine lease request for one allocator decision only. -/
  | leasecT (d : BitVec 5) (c : BitVec 2)
  /-- UNLEASE (R194): Returns the units of a current handle, to FREE or DRAINING. -/
  | unlease (s : BitVec 5)
  /-- SPLIT (R195): Stalls until the affected fragments are FREE, then changes the split plan. -/
  | split (p : BitVec 3)
  /-- KICK (R196): Commits the phase and rings a user queue as a release. -/
  | kick (s : BitVec 5)
  /-- MBACT (R197): Commits the phase and appends an action message to a gate. -/
  | mbact (s t : BitVec 5)
  /-- MBOBS_W (R197): Waiting instruction that takes the next observation of a gate. -/
  | mbobsW (s t m : BitVec 5)
  /-- MBOBS_T (R197): Takes an observation if present, else returns 0. -/
  | mbobsT (d s t : BitVec 5)
  /-- STRM (R198): Reads and checks a stream record into a stream register. -/
  | strm (q : BitVec 4) (s : BitVec 5)
  /-- TXSET (R198): Writes one part of a transfer shape from a register. -/
  | txset (t : BitVec 4) (s : BitVec 5) (p : BitVec 2)
  /-- TXSET_M (R198): Reads all four parts of a transfer shape from G. -/
  | txsetM (t : BitVec 4) (s : BitVec 5)
  /-- CVSET (R198): Reads and checks a convolution shape record from G. -/
  | cvset (v : BitVec 3) (s : BitVec 5)
  /-- DEAD_A (R199): Clears the live bits of A-window granules. -/
  | deadA (s : BitVec 5) (c : BitVec 9)
  /-- DEAD_W (R199): Clears the live bits of W-window granules. -/
  | deadW (s : BitVec 5) (c : BitVec 9)
  /-- YIELD (R200): Makes the slot not ready until other ready slots issue or 64 cycles pass. -/
  | yield
  /-- EXIT (R201): Commits the phase, releases held commands and retires the control program. -/
  | exit
  /-- TRAP (R202): Raises TRAP_CALL with a 16-bit code. -/
  | trap (c : BitVec 16)
  /-- ERET (R379): Firmware releases a trapped slot to retry, resume, kill or abort. -/
  | eret (s t : BitVec 5)
  /-- CTXSV (R379): Firmware pre-empts a slot and writes its context area. -/
  | ctxsv (d s t : BitVec 5)
  /-- CTXLD (R379): Firmware restores a context area into a free slot and re-registers its leases. -/
  | ctxld (d s t : BitVec 5)
  /-- ACCSPILL (R379): Firmware spills or fills a slab and sets its owner code. -/
  | accspill (d s t : BitVec 5)
  /-- KEYLD (R379): Firmware loads a VF's PRINCE key into a weight-die key slot. -/
  | keyld (d s t : BitVec 5)
  /-- WDOG (R379): Firmware re-arms or disarms its watchdog. -/
  | wdog (s : BitVec 5)
  /-- VADD (R224): Element-wise add. -/
  | vadd (d a b : BitVec 7) (x y : BitVec 1) (g : BitVec 3)
  /-- VSUB (R224): Element-wise subtract. -/
  | vsub (d a b : BitVec 7) (x y : BitVec 1) (g : BitVec 3)
  /-- VMUL (R224): Element-wise multiply. -/
  | vmul (d a b : BitVec 7) (x y : BitVec 1) (g : BitVec 3)
  /-- VFMA (R224): Element-wise fused multiply-add into vd. -/
  | vfma (d a b : BitVec 7) (x y : BitVec 1) (g : BitVec 3)
  /-- VADDS (R224): Saturating integer add. -/
  | vadds (d a b : BitVec 7) (x y : BitVec 1) (g : BitVec 3)
  /-- VSUBS (R224): Saturating integer subtract. -/
  | vsubs (d a b : BitVec 7) (x y : BitVec 1) (g : BitVec 3)
  /-- VMIN (R224): Element-wise minimum. -/
  | vmin (d a b : BitVec 7) (x y : BitVec 1) (g : BitVec 3)
  /-- VMAX (R224): Element-wise maximum. -/
  | vmax (d a b : BitVec 7) (x y : BitVec 1) (g : BitVec 3)
  /-- VMULH (R224): High half of the integer product. -/
  | vmulh (d a b : BitVec 7) (x y : BitVec 1) (g : BitVec 3)
  /-- VAND (R226): Bitwise AND of patterns. -/
  | vand (d a b : BitVec 7) (x y : BitVec 1) (g : BitVec 3)
  /-- VOR (R226): Bitwise OR of patterns. -/
  | vor (d a b : BitVec 7) (x y : BitVec 1) (g : BitVec 3)
  /-- VXOR (R226): Bitwise XOR of patterns. -/
  | vxor (d a b : BitVec 7) (x y : BitVec 1) (g : BitVec 3)
  /-- VSHL (R226): Shifts elements left by a register count. -/
  | vshl (d a b : BitVec 7) (x y : BitVec 1) (g : BitVec 3)
  /-- VSHR (R226): Shifts elements right by a register count. -/
  | vshr (d a b : BitVec 7) (x y : BitVec 1) (g : BitVec 3)
  /-- VHASH (R227): Multiplicative hash of 32-bit elements. -/
  | vhash (d a b : BitVec 7) (x y : BitVec 1) (g : BitVec 3)
  /-- VCEQ (R228): Compare equal into a predicate. -/
  | vceq (d : BitVec 3) (a b : BitVec 7) (x y : BitVec 1) (g : BitVec 3)
  /-- VCNE (R228): Compare not equal into a predicate. -/
  | vcne (d : BitVec 3) (a b : BitVec 7) (x y : BitVec 1) (g : BitVec 3)
  /-- VCLT (R228): Compare less than into a predicate. -/
  | vclt (d : BitVec 3) (a b : BitVec 7) (x y : BitVec 1) (g : BitVec 3)
  /-- VCLE (R228): Compare less or equal into a predicate. -/
  | vcle (d : BitVec 3) (a b : BitVec 7) (x y : BitVec 1) (g : BitVec 3)
  /-- VCGT (R228): Compare greater than into a predicate. -/
  | vcgt (d : BitVec 3) (a b : BitVec 7) (x y : BitVec 1) (g : BitVec 3)
  /-- VCGE (R228): Compare greater or equal into a predicate. -/
  | vcge (d : BitVec 3) (a b : BitVec 7) (x y : BitVec 1) (g : BitVec 3)
  /-- VSEL (R228): Selects va or vb per lane by a predicate. -/
  | vsel (d a b : BitVec 7) (x y : BitVec 1) (g : BitVec 3)
  /-- VMOV (R228): Copies active elements of va. -/
  | vmov (d a : BitVec 7) (x : BitVec 1) (g : BitVec 3)
  /-- VCVT (R230): Converts elements to a destination type with a rounding mode. -/
  | vcvt (d a : BitVec 7) (m : BitVec 3) (t : BitVec 4) (x : BitVec 1) (g : BitVec 3)
  /-- VQNT (R231): Encodes FP32 or BF16 elements as Q4 blocks. -/
  | vqnt (d a : BitVec 7) (m : BitVec 3) (t : BitVec 2) (x : BitVec 1) (g : BitVec 3)
  /-- VDQ (R232): Decodes Q4 codes and scales into values. -/
  | vdq (d a b : BitVec 7) (x y : BitVec 1) (g : BitVec 3)
  /-- VADDI (R225): Adds a signed immediate to each element. -/
  | vaddi (d a : BitVec 7) (i : BitVec 9) (g : BitVec 3)
  /-- VMULI (R225): Multiplies each element by a signed immediate. -/
  | vmuli (d a : BitVec 7) (i : BitVec 9) (g : BitVec 3)
  /-- VANDI (R225): ANDs each element with an unsigned immediate pattern. -/
  | vandi (d a : BitVec 7) (i : BitVec 9) (g : BitVec 3)
  /-- VORI (R225): ORs each element with an unsigned immediate pattern. -/
  | vori (d a : BitVec 7) (i : BitVec 9) (g : BitVec 3)
  /-- VXORI (R225): XORs each element with an unsigned immediate pattern. -/
  | vxori (d a : BitVec 7) (i : BitVec 9) (g : BitVec 3)
  /-- VSHLI (R225): Shifts elements left by an immediate count. -/
  | vshli (d a : BitVec 7) (i : BitVec 9) (g : BitVec 3)
  /-- VSHRI (R225): Shifts elements right by an immediate count. -/
  | vshri (d a : BitVec 7) (i : BitVec 9) (g : BitVec 3)
  /-- VSPLAT (R225): Writes a signed immediate to each active element. -/
  | vsplat (d : BitVec 7) (i : BitVec 9) (g : BitVec 3)
  /-- VMINI (R225): Minimum with a signed immediate. -/
  | vmini (d a : BitVec 7) (i : BitVec 9) (g : BitVec 3)
  /-- VMAXI (R225): Maximum with a signed immediate. -/
  | vmaxi (d a : BitVec 7) (i : BitVec 9) (g : BitVec 3)
  /-- VLDA (R235): Loads a contiguous run from the A window. -/
  | vlda (d : BitVec 7) (a : BitVec 6) (o : BitVec 7) (g : BitVec 3)
  /-- VSTA (R235): Stores active elements to the A window. -/
  | vsta (d : BitVec 6) (a o : BitVec 7) (x : BitVec 1) (g : BitVec 3)
  /-- VLDC (R236): Loads from C after the touched slabs' pending counts reach zero. -/
  | vldc (d : BitVec 7) (a : BitVec 6) (o : BitVec 7) (g : BitVec 3)
  /-- VLDC_NOWAIT (R236): Loads from C at once, setting f0 when writes are pending. -/
  | vldcNowait (d : BitVec 7) (a : BitVec 6) (o : BitVec 7) (g : BitVec 3)
  /-- VSTC (R236): Stores active elements to C after pending writes retire. -/
  | vstc (d : BitVec 6) (a o : BitVec 7) (x : BitVec 1) (g : BitVec 3)
  /-- VGATH (R238): Gathers G elements through the lot view. -/
  | vgath (d : BitVec 7) (a b : BitVec 6) (g : BitVec 3)
  /-- VSCAT (R238): Scatters elements to G as held stores. -/
  | vscat (d : BitVec 6) (a : BitVec 7) (b : BitVec 6) (x : BitVec 1) (g : BitVec 3)
  /-- VATOM (R239): Applies one near or far atomic per active lane. -/
  | vatom (d a : BitVec 6) (o : BitVec 4) (f : BitVec 1) (g : BitVec 3)
  /-- VPERM (R241): Permutes elements by an index vector. -/
  | vperm (d a b : BitVec 7) (x y : BitVec 1) (g : BitVec 3)
  /-- VSHUF (R241): Zips, unzips, rotates or reverses elements. -/
  | vshuf (d : BitVec 6) (a : BitVec 7) (k : BitVec 3) (h : BitVec 6) (g : BitVec 3)
  /-- VRED (R242): Folds active elements into element 0. -/
  | vred (d a : BitVec 7) (p : BitVec 3) (x : BitVec 1) (g : BitVec 3)
  /-- VSCAN (R242): Writes running folds of active elements. -/
  | vscan (d a : BitVec 7) (p : BitVec 3) (x : BitVec 1) (g : BitVec 3)
  /-- VPLOG (R243): Combines predicates bit by bit. -/
  | vplog (d a o b g : BitVec 3)
  /-- VHALT (R244): Ends the vector program body. -/
  | vhalt
  /-- VFL (R151): Loop-flag prefix applying first/last rules to the next vector word. -/
  | vfl (f l : BitVec 1) (v : BitVec 3)
  /-- EXP2 (R229): Base-2 exponential of FP elements. -/
  | exp2 (d a : BitVec 7) (x : BitVec 1) (g : BitVec 3)
  /-- LOG2 (R229): Base-2 logarithm of FP elements. -/
  | log2 (d a : BitVec 7) (x : BitVec 1) (g : BitVec 3)
  /-- RCP (R229): Reciprocal of FP elements. -/
  | rcp (d a : BitVec 7) (x : BitVec 1) (g : BitVec 3)
  /-- RSQ (R229): Reciprocal square root of FP elements. -/
  | rsq (d a : BitVec 7) (x : BitVec 1) (g : BitVec 3)
  /-- VABS (R229): Absolute value of elements. -/
  | vabs (d a : BitVec 7) (x : BitVec 1) (g : BitVec 3)
  /-- VNEG (R229): Negation of elements. -/
  | vneg (d a : BitVec 7) (x : BitVec 1) (g : BitVec 3)
  /-- VCLZ (R229): Leading zero count per element. -/
  | vclz (d a : BitVec 7) (x : BitVec 1) (g : BitVec 3)
  /-- VPOPC (R229): Population count per element. -/
  | vpopc (d a : BitVec 7) (x : BitVec 1) (g : BitVec 3)
  /-- MMA (R252): One matrix pass of a ring or link tile against W weights into slabs. -/
  | mma (f l h : BitVec 1) (v : BitVec 3) (a b : BitVec 4) (s : BitVec 11) (m : BitVec 2)
  /-- CONV (R255): One matrix pass with activations gathered from an input map. -/
  | conv (f l h : BitVec 1) (v c : BitVec 3) (a b : BitVec 4) (m : BitVec 2) (k : BitVec 8)
  /-- ACCZ (R256): Zeroes a run of slabs. -/
  | accz (f l : BitVec 1) (v : BitVec 3) (n : BitVec 8) (s : BitVec 11)
  /-- ACCMV (R256): Moves a slab into a ring slot, optionally through the link stages. -/
  | accmv (f l : BitVec 1) (v : BitVec 3) (q : BitVec 4) (c : BitVec 1) (s : BitVec 11)
  /-- SWAIT (R248): Waits for filled slots of a stream's ring. -/
  | swait (f l : BitVec 1) (v : BitVec 3) (q : BitVec 4) (n : BitVec 13)
  /-- SADV (R248): Releases ring slots of a stream and moves its cursor back. -/
  | sadv (f l : BitVec 1) (v : BitVec 3) (q : BitVec 4) (n : BitVec 13)
  /-- SMARK (R260): Step marker that retires after earlier steps, optionally as NOTIFY. -/
  | smark (f l : BitVec 1) (v : BitVec 3) (n : BitVec 1) (m : BitVec 16)
  /-- LINKCFG (R257): Configures an outgoing chain link's scale, bias, clamp and format. -/
  | linkcfg (f l : BitVec 1) (v k : BitVec 3) (c : BitVec 1) (m : BitVec 3) (q : BitVec 4)
  /-- WLD (R251): Loads a W tile into the inactive weight registers. -/
  | wld (f l : BitVec 1) (v : BitVec 3) (b : BitVec 4)
  /-- ACCLD (R256): Loads a slab from a ring slot. -/
  | accld (f l : BitVec 1) (v : BitVec 3) (q : BitVec 4) (s : BitVec 11)
  /-- SRST (R248): Resets a stream's cursor to zero. -/
  | srst (f l : BitVec 1) (v : BitVec 3) (q : BitVec 4)
  /-- NOP (R260): Matrix step with no effect. -/
  | matNop (f l : BitVec 1) (v : BitVec 3)
  /-- HALT (R260): Ends the fragment program body. -/
  | matHalt
  /-- CLD (R269): Copies a G shape into an A, C or W shape. -/
  | cld (f l e t : BitVec 1) (x : BitVec 6) (v : BitVec 3) (g b : BitVec 4)
  /-- CLD_RING (R269): Copies a G shape into a claimed ring slot. -/
  | cldRing (f l e t : BitVec 1) (x : BitVec 6) (v : BitVec 3) (g : BitVec 4) (c : BitVec 6)
  /-- CST (R269): Copies an A, C or W shape to a G shape. -/
  | cst (f l e t : BitVec 1) (x : BitVec 6) (v : BitVec 3) (g b : BitVec 4)
  /-- CST_RING (R269): Copies a filled ring slot to a G shape and advances the ring. -/
  | cstRing (f l e t : BitVec 1) (x : BitVec 6) (v : BitVec 3) (g : BitVec 4) (c : BitVec 6)
  /-- CSTQ (R270): Requantises a buffer shape into Q4 codes and scales in G. -/
  | cstq (e t : BitVec 1) (x : BitVec 6) (g b : BitVec 4) (m : BitVec 3) (y : BitVec 2)
  /-- CMC (R271): Multicasts a source to the windows of named cores of the die. -/
  | cmc (e t : BitVec 1) (x : BitVec 6) (a b : BitVec 4) (k : BitVec 8)
  /-- CGA (R272): Gathers indexed G elements into a buffer shape. -/
  | cga (e t : BitVec 1) (x : BitVec 6) (g i b : BitVec 4)
  /-- CSC (R272): Scatters buffer elements to indexed G addresses. -/
  | csc (e t : BitVec 1) (x : BitVec 6) (g i b : BitVec 4)
  /-- CRW (R273): Sends bytes as one message to a ring on another package. -/
  | crw (e t : BitVec 1) (x : BitVec 6) (a b : BitVec 4)
  /-- CRED (R274): Contributes source elements to reduction-window words. -/
  | cred (e t : BitVec 1) (x : BitVec 6) (a b : BitVec 4)
  /-- CLDM (R275): Two-word command: loads into a ring, then places its follow-on matrix word in a sequencer queue. -/
  | cldm (e t : BitVec 1) (x : BitVec 6) (g : BitVec 4) (c : BitVec 6) (k : BitVec 2) (follow : BitVec 32)
  /-- CWT (R276): Copy-engine wait for filled ring slots. -/
  | cwt (f l e : BitVec 1) (v : BitVec 3) (c : BitVec 6) (n : BitVec 8)
  /-- CADV (R276): Copy-engine release of ring slots. -/
  | cadv (f l e : BitVec 1) (v : BitVec 3) (c : BitVec 6) (n : BitVec 8)
  /-- CMARK (R276): Copy marker retiring after earlier steps complete, optionally NOTIFY. -/
  | cmark (e n : BitVec 1) (m : BitVec 16)
  /-- CNOP (R276): Copy step with no effect. -/
  | cnop (f l e : BitVec 1) (v : BitVec 3)
  /-- CHALT (R276): Ends the copy program body. -/
  | chalt
  /-- CHALT with S (R154, R155): ends the copy program body once every earlier step has completed. -/
  | chaltS
  /-- MB_RECV (R293): Episode receives one action, blocking and testing generation lag. -/
  | mbRecv (s d : BitVec 5)
  /-- MB_SEND (R295): Episode appends an observation and ends its step. -/
  | mbSend (t s : BitVec 5)
  /-- MB_POLL (R294): Episode reads its gate's FIFO counts and stale status. -/
  | mbPoll (d : BitVec 5)
  /-- EP_STEP (R296): Episode ends a step without sending. -/
  | epStep
  /-- EP_EXIT (R296): Episode ends with reason EXIT and a value. -/
  | epExit (s : BitVec 5)
  /-- RV64GC_INSTRUCTION (R281): A standard RV64GC instruction run by an episode on a Rink core. -/
  | rv64gc (w : BitVec 32)
  /-- STEP_BUDGET (R299): The step counter reaches STEPB: the episode ends STEP or is suspended. -/
  | stepBudget (vf ep : Nat)
  /-- QUANTUM_EXPIRY (R286): An episode current for 2^16 Rink cycles is switched out at the next boundary. -/
  | quantumExpiry (rink : Nat)
  /-- EPISODE_ARM (R285): A write of 1 to a descriptor's word 0 checks and arms an episode. -/
  | episodeArm (vf ep : Nat)
  /-- EPISODE_CANCEL (R285): A write of 4 to word 0 ends an ARMED or RUNNING episode CANCELLED. -/
  | episodeCancel (vf ep : Nat)
  /-- EPISODE_PLACE (R286): An ARMED episode is placed on the least-loaded Rink core of its gate's die. -/
  | episodePlace (die : Nat)
  /-- EPRES (R299): Host resumes or cancels a suspended episode. -/
  | epres (vf : Nat) (value : Word)
  /-- EPTBASE_WRITE (R285): Sets the episode table base and records its frames. -/
  | eptbaseWrite (vf : Nat) (value : Word)
  /-- EPTCNT_WRITE (R285): Sets the episode table count and records its frames. -/
  | eptcntWrite (vf : Nat) (value : Word)
  /-- POLUPD (R300): Host increments the VF's POLGEN as a release. -/
  | polupd (vf : Nat) (value : Word)
  /-- TASK_DISPATCH (R36): An idle slot takes a continuation, range task or split from the pool and starts it. -/
  | taskDispatch (core slot : Nat)
  /-- STEAL_ACK (R37): The asker acknowledges a split and the owner's range shrinks. -/
  | stealAck (task : Nat)
  /-- STEAL_WITHDRAW (R37): The asker withdraws and the owner's range is restored. -/
  | stealWithdraw (task : Nat)
  /-- STEAL_TIMEOUT (R385): An unacknowledged split is withdrawn after 20,000 ticks. -/
  | stealTimeout (task : Nat)
  /-- STEAL_RECOVERY (R385): The front end reissues the shadow range of a lost owner. -/
  | stealRecovery (core slot : Nat)
  /-- LOT_COMPLETE (R52): The completion combiner raises a lot's completion and the next lot starts. -/
  | lotComplete (core slot : Nat)
  /-- CONTINUATION_ENQUEUE (R41): A satisfied wait enqueues its continuation in the partition pool. -/
  | continuationEnqueue (task : Nat)
  /-- POSTED_ABORT (R386): A posted cancel abort is taken at the next boundary and the lot discarded. -/
  | postedAbort (core slot : Nat)
  /-- NODE_KILL (R42): A kill is posted to the other lots of a killed launch node. -/
  | nodeKill (node : Nat)
  /-- POSTED_FAULT (R376): A posted engine fault is taken at the slot's next instruction boundary. -/
  | postedFault (core slot : Nat)
  /-- STALL_LIMIT (R38): A stall reaching the context's limit traps at the stalled instruction. -/
  | stallLimit (core slot : Nat)
  /-- YIELD_EXPIRY (R200): A yielded slot becomes ready again after 64 cycles. -/
  | yieldExpiry (core slot : Nat)
  /-- ALLOCATOR_DECISION (R54): Each cycle the allocator grants or accepts one fragment and one copy-engine request. -/
  | allocatorDecision (core : Nat)
  /-- CLASS_AGING (R54): A waiting request's effective class rises after each 2^AGE cycles. -/
  | classAging (core : Nat)
  /-- WHOLE_HOLD (R54): A WHOLE request waiting HOLD cycles starts the hold on other fragment grants. -/
  | wholeHold (core : Nat)
  /-- PLAN_CHANGE (R56): A pending plan change takes effect once every affected fragment is FREE. -/
  | planChange (core : Nat)
  /-- FRAGMENT_DRAINED (R55): A DRAINING fragment whose work has retired becomes FREE. -/
  | fragmentDrained (core seq : Nat)
  /-- ENGINE_COMMAND_START (R49): An engine starts the command at its queue head. -/
  | engineCommandStart (core engine : Nat)
  /-- PASS_RETIRE (R332): A pass's accumulate writes retire at the end of the pass. -/
  | passRetire (core seq : Nat)
  /-- WEIGHT_LOAD_COMPLETE (R251): A weight load completes and the swap may proceed. -/
  | weightLoadComplete (core seq : Nat)
  /-- COPY_STEP_COMPLETE (R266): A copy step completes, updating its tag and ring. -/
  | copyStepComplete (core eng idx : Nat)
  /-- CLDM_FOLLOW_ON (R275): A CLDM places its follow-on word in a sequencer queue when its slot fills. -/
  | cldmFollowOn (core eng idx : Nat)
  /-- PROGRAM_RETIRE (R184): An engine program retires after its halt word and every step it started. -/
  | programRetire (core engine : Nat)
  /-- MARKER_RETIRE (R51): A marker retires once earlier commands retire, updating rendezvous state. -/
  | markerRetire (core engine : Nat)
  /-- ACC_FOREIGN (R383): Firmware spills the holder's slab and gives it to the toucher. -/
  | accForeign (core slab slot : Nat)
  /-- ACCREL (R383): The hypervisor releases a held accumulator spill. -/
  | accrel (value : Word)
  /-- FAULTRES (R374): The host retries or kills a held fault. -/
  | faultres (vf : Nat) (value : Word)
  /-- MK_FULL_RETRY (R214): Firmware reissues a Market word 10,000 ticks after MK_FULL. -/
  | mkFullRetry (core slot : Nat)
  /-- WRITEBACK (R71): A far-cache tile is written back whole, with read-modify-write if partly dirty. -/
  | writeback (tile : Nat)
  /-- HOST_MEM_ACCESS (R343): A host CXL.mem access to device memory, checked for owner and seal. -/
  | hostMemAccess (wr : Bool) (pa size : Nat) (value : Word)
  /-- QKICK (R347): A queue doorbell makes the front end read the write index. -/
  | queueKick (vf q : Nat)
  /-- QCANCEL (R352): Cancels a queue's unstarted packets, graphs and tasks. -/
  | queueCancel (vf q : Nat) (value : Word)
  /-- QCTL_WRITE (R349): Writes a queue's control register, enabling or disabling it. -/
  | queueCtlWrite (vf q : Nat) (value : Word)
  /-- VERSEL_WRITE (R357): Sets the interface versions a driver speaks. -/
  | verselWrite (vf : Nat) (value : Word)
  /-- NODEREL (R353): The host releases a graph node in host-assisted decrement mode. -/
  | noderel (vf : Nat) (value : Word)
  /-- REGISTER_WRITE (R344): Write to a register with no behaviour of its own. -/
  | registerWrite (bar off : Nat) (value : Word) (wide : Bool)
  /-- PACKET_ACCEPT (R350): A front end accepts one packet per slice cycle from the chosen queue. -/
  | packetAccept (fe : Nat)
  /-- LAUNCH_GRAPH (R353): Packet that checks a graph table and starts its nodes. -/
  | packetLaunchGraph (vf q idx : Nat) (gtab csig cval : Word)
  /-- SIGNAL (R351): Packet that sets or adds to a signal word as a release. -/
  | packetSignal (vf q idx : Nat) (addr val : Word) (add : Bool)
  /-- WAIT (R351): Packet that registers a watch and holds later packets. -/
  | packetWait (vf q idx : Nat) (addr val : Word) (cond : BitVec 2)
  /-- COPY (R351): Packet that copies bytes through the front end's copy unit. -/
  | packetCopy (vf q idx : Nat) (src dst len : Word)
  /-- MARKER (R351): Packet that writes a value and the time. -/
  | packetMarker (vf q idx : Nat) (addr val : Word)
  /-- NODE_LAUNCH (R353): The front end launches the head of a graph's ready queue. -/
  | nodeLaunch (graph : Nat)
  /-- NODE_COMPLETE (R353): A node completes and its successors' counters are decremented. -/
  | nodeComplete (node : Nat)
  /-- SLICE_TURN_END (R409): A VF's time-slice turn ends at the slice bound. -/
  | sliceTurnEnd (part : Nat)
  /-- TABLE_LOAD (R360): Loader checks, resolves and installs a whole translation table. -/
  | tableLoad (value : Word)
  /-- TABLE_ENTRY (R360): Loader replaces one translation entry. -/
  | tableEntry (value : Word)
  /-- TABLE_CLEAR (R360): Loader installs a table with every entry invalid. -/
  | tableClear (value : Word)
  /-- TABLE_MIGRATE (R367): Loader moves an entry's frames to new host frames. -/
  | tableMigrate (value : Word)
  /-- OWNCMD (R366): Sets the owner of a range of frames, zero-sealing reassigned frames. -/
  | owncmd (value : Word)
  /-- ROTATE (R371): Creates the next key generation of a VF. -/
  | sealRotate (value : Word)
  /-- RESEAL (R371): Re-seals every tile of a frame under the next generation. -/
  | sealReseal (value : Word)
  /-- RETIRE (R371): Discards a VF's old key generation. -/
  | sealRetire (value : Word)
  /-- SEAL_ZERO (R370): Rewrites every tile of a frame as zero tiles. -/
  | sealZero (value : Word)
  /-- BIND (R355): Binds an UNBOUND gate to a VF. -/
  | gateBind (value : Word)
  /-- UNBIND (R355): Ends a gate's episode, discards its FIFOs and unbinds it. -/
  | gateUnbind (value : Word)
  /-- GATE_READ (R355): Writes a gate's state into GATESTAT. -/
  | gateRead (value : Word)
  /-- TBL_READ (R390): Reads an import or export record into TBLDATA. -/
  | tblRead (value : Word)
  /-- TBL_WRITE (R390): Writes TBLDATA into an import or export record. -/
  | tblWrite (value : Word)
  /-- RW_SET (R395): Installs a reduction window at a crossing group. -/
  | rwSet (value : Word)
  /-- RW_CLEAR (R395): Removes a reduction window, closing open rounds INCOMPLETE. -/
  | rwClear (value : Word)
  /-- REPOINT (R395): Changes a reduction window's home after migration. -/
  | rwRepoint (value : Word)
  /-- REMOTE_ACCESS (R393): A fabric request arrives at an export and is served or refused. -/
  | remoteAccess (src exp off : Nat) (wr : Bool) (size : Nat) (value : Word)
  /-- REMOTE_ACCESS of a far ATOM, by its operation, or of an ACAS, with the value it compares (R207, R393). -/
  | remoteAtom (src exp off op size : Nat) (value : Word) (cmp : Option Word)
  /-- CRW_ARRIVAL (R394): A CRW message is placed in a receiving slot's ring. -/
  | crwArrival (src exp : Nat) (msg : List Byte)
  /-- REDUCTION_CONTRIBUTION (R396): A contribution opens or joins a round, merging when the mask completes. -/
  | reductionContribution (group win cidx off : Nat) (value : BitVec 32)
  /-- ROUND_TIMEOUT (R396): A reduction round's timeout closes it INCOMPLETE. -/
  | roundTimeout (group win off : Nat)
  /-- MEMBER_LOST (R396): Loss of a member's package or link closes its rounds INCOMPLETE. -/
  | memberLost (group win cidx : Nat)
  /-- FABRIC_TIMEOUT (R393): A fabric request with no reply within TMO takes FAB_TIMEOUT. -/
  | fabricTimeout (req : Nat)
  /-- MOVED_REPLY (R398): An arrival answered MOVED is held at the requesting port. -/
  | movedReply (req : Nat)
  /-- LINK_UP (R399): A fabric port exchanges protocol versions with its crossing. -/
  | linkUp (port : Nat) (versions : Word)
  /-- CORECFG_WRITE (R408): Moves a core between partitions or out of service. -/
  | corecfgWrite (core : Nat) (value : Word)
  /-- VFBIND_WRITE (R407): Binds a VF to a partition. -/
  | vfbindWrite (vf : Nat) (value : Word)
  /-- TRACK (R412): Starts dirty tracking of a VF's frames. -/
  | migTrack (value : Word)
  /-- FREEZE (R412): Stops a VF's packets and saves its running tasks. -/
  | migFreeze (value : Word)
  /-- MIG_COPY (R412): Exports a range of a VF's frames. -/
  | migCopy (value : Word)
  /-- SAVE (R412): Sets MOVED and exports a frozen VF's state. -/
  | migSave (value : Word)
  /-- MIG_LOAD (R412): Imports a SAVE record on the destination. -/
  | migLoad (value : Word)
  /-- RESUME (R412): Re-tests watches, re-parks requests and re-enables a loaded VF. -/
  | migResume (value : Word)
  /-- ABORT (R412): Stops tracking and lets the VF run again. -/
  | migAbort (value : Word)
  /-- EVCTL_WRITE (R416): Configures the event stream, resetting its counts on enable. -/
  | evctlWrite (part : Nat) (value : Word)
  /-- PC_SAMPLE (R414): Each interval a core samples a slot and writes a SAMPLE event. -/
  | pcSample (core : Nat)
  /-- FWUCTL_GO (R421): Verifies a firmware image and writes it to the inactive bank. -/
  | fwuctlGo (value : Word)
  /-- GET_VERSION (R419): SPDM version request. -/
  | spdmGetVersion (mbox : Nat)
  /-- GET_CAPABILITIES (R419): SPDM capabilities request. -/
  | spdmGetCapabilities (mbox : Nat)
  /-- NEGOTIATE_ALGORITHMS (R419): SPDM algorithm negotiation. -/
  | spdmNegotiateAlgorithms (mbox : Nat) (algs : Word)
  /-- GET_DIGESTS (R419): SPDM certificate digests request. -/
  | spdmGetDigests (mbox : Nat)
  /-- GET_CERTIFICATE (R419): SPDM certificate chain request. -/
  | spdmGetCertificate (mbox slot : Nat)
  /-- CHALLENGE (R419): SPDM challenge signed by the device identity key. -/
  | spdmChallenge (mbox : Nat) (nonce : Word)
  /-- GET_MEASUREMENTS (R420): Returns measurement blocks read at one instant. -/
  | spdmGetMeasurements (mbox idx : Nat)
  /-- KEY_EXCHANGE (R419): SPDM ML-KEM key exchange opening a secure session. -/
  | spdmKeyExchange (mbox : Nat) (both : Bool)
  /-- FINISH (R419): SPDM session finish. -/
  | spdmFinish (mbox : Nat)
  /-- END_SESSION (R419): SPDM session end. -/
  | spdmEndSession (mbox : Nat)
  /-- UNSUPPORTED_REQUEST (R419): Any other SPDM request is answered ERROR. -/
  | spdmUnsupported (mbox code : Nat)
  /-- TAG_PARITY (R389): A far-cache tag parity error holds the set and may kill VFs. -/
  | tagParity (slice set line : Nat) (dirty : Bool)
  /-- MEM_UE (R422): An uncorrectable memory error refuses a fill, kills a VF or stops the device. -/
  | memUe (place addr who : Nat) (dirty : Bool)
  /-- WATCHDOG (R387): A watchdog expiry resets its agent alone. -/
  | watchdog (agent : Nat)
  /-- GOVERNOR_EVALUATION (R425): Every 1,000,000 ticks the governor sets the arithmetic clock. -/
  | governorEvaluation
  /-- THERMAL_TRIP (R424): Junction temperature at 115 C holds the package in reset. -/
  | thermalTrip
  /-- PACKAGE_RESET (R418): Reset runs the signed firmware boot chain. -/
  | packageReset
  /-- PACKET_COMPLETE (R351): A queue packet whose effect takes time, such as a COPY of up to 4 GiB, completes once its effect is performed, raising its IRQ and releasing BARRIER, SIGNAL and MARKER packets behind it. -/
  | packetComplete (vf q idx : Nat)
  deriving DecidableEq, Repr

end Sys2Proof
end

