-- ==== Sys2Proof/Machine/State.lean ====
section
/-!
DEFINITION. The state of the package as plain data, the reasons a step can stop, and the state after reset. Each unit of R14
and R30 has one record type; the package holds one table per kind of unit, keyed by the unit's number. A table that lists
nothing for a unit stands for that unit as reset leaves it. INVENTORY.md names the rule behind every field.
-/

namespace Sys2Proof.Machine

/-- Why the machine stops. -/
inductive Fault where
  /-- Raised by `step` when it runs an event of a unit the package does not have (R30); safe: no such unit exists. -/
  | noSuchUnit
  deriving DecidableEq, Repr

/-- Why a step has no meaning. -/
inductive Refusal where
  /-- Raised by `exec` for an instruction that has no meaning in the model yet; safe. -/
  | notModelled (mnemonic : String)
  deriving DecidableEq, Repr

/-! ## Control-core contexts (R15) -/

/-- A ring-table entry (R75): the writable word, the three counters, the filled bits of R76 by slot number mod SCOUNT, and for each
slot a copy engine filled the bytes of G it had written before, which a wait for the slot orders (R94): by line, the mask of its bytes,
for the control core and for the vector engine. -/
structure Ring where
  entry : Word := 0
  claim : BitVec 32 := 0
  tail : BitVec 32 := 0
  head : BitVec 32 := 0
  filled : List Nat := []
  marks : Tbl (Tbl Nat) := []
  vmarks : Tbl (Tbl Nat) := []
  deriving DecidableEq, Repr

/-- A rendezvous register (R51, R186). -/
structure Rv where
  mask : BitVec 13 := 0
  marker : BitVec 16 := 0
  deriving DecidableEq, Repr

/-- A slot's fault record (R377); TAGCAUSE is the context's own table. -/
structure FaultRec where
  cause : Nat := 0
  fatal : Bool := false
  held : Bool := false
  src : Nat := 0
  pc : Word := 0
  upc : Nat := 0
  detail : Word := 0
  fcause : Nat := 0
  tcode : Nat := 0
  time : Nat := 0
  deriving DecidableEq, Repr

/-- A pending near-atomic combine on an aligned word of G (R97): its operation, width in bytes, combined operand and the value
of the word that the lot's loads see under R87: the control core's, and the vector engine's. -/
structure Comb where
  op : Nat
  width : Nat
  operand : Word
  base : Word
  vbase : Word := base
  deriving DecidableEq, Repr

/-- A fence in force (R96): the engines still to be waited for, by engine number of the core, each with the number below which
its commands are before-accesses; the paths before and behind it; whether it has been released, and the lines the lot's stores held then. -/
structure Fence where
  id : Nat
  x : BitVec 6
  y : BitVec 6 := 0
  waits : List (Nat × Nat)
  lines : List Nat
  released : Bool := false
  deriving DecidableEq, Repr

/-- A checkpoint or continuation record (R325). -/
structure Checkpoint where
  pc : Word := 0
  npc : Word := 0
  mask : Word := 0
  pslots : Nat := 0
  kind : Nat := 0
  s : Tbl Word := []
  b : Tbl Word := []
  f : Tbl Bool := []
  deriving DecidableEq, Repr

/-! ## Engine commands and programs (R48 to R52, R184) -/

/-- A placed program (R184): its words, the loop counts of R34, the registers bound at its placement, and the bytes of G whose writes
a tag wait had ordered before it (R95). A CLDM follow-on carries its words itself (R275). -/
structure Prog where
  base : Word := 0
  entry : Nat := 0
  len : Nat := 0
  body : Option (List (BitVec 32)) := none
  loops : List Nat := []
  vshape : Word := 0
  q : Tbl (BitVec 128) := []
  cv : Tbl (BitVec 256) := []
  tx : Tbl (BitVec 256) := []
  tags : List Nat := []
  cancelled : Word := 0
  after : Tbl Nat := []
  deriving DecidableEq, Repr

/-- What an engine queue holds (R49, R51, R177, R96). -/
inductive CmdKind where
  | program (p : Prog)
  | marker (m : BitVec 16) (notify : Bool)
  | vshape (v : Word)
  | fence (id : Nat)
  deriving DecidableEq, Repr

/-- A command, with its place in the lot's order of placements and whether it is held (R184). -/
structure Cmd where
  id : Nat
  held : Bool := false
  kind : CmdKind
  deriving DecidableEq, Repr

/-- A running program (R50): micro-PC, the six loop indices, the stream or ring cursors and pixel cursors (R248, R269), a loop
prefix waiting for its word (R151), the words fetched so far by micro-PC (R426), the ring and bytes of a vector push that waits
for a free slot (R221), whether its halt word has run, and what its event tells (R416): the time of its start, its passes, the bytes moved. -/
structure Run where
  id : Nat := 0
  prog : Prog := {}
  upc : Nat := 0
  idx : List Nat := [0, 0, 0, 0, 0, 0]
  cur : Tbl Nat := []
  pix : Tbl Nat := []
  vfl : Option (Bool × Bool × Nat) := none
  words : Tbl Nat := []
  pend : Option (Nat × List (Nat × Byte)) := none
  halted : Bool := false
  start : Nat := 0
  passes : Nat := 0
  moved : Nat := 0
  deriving DecidableEq, Repr

/-- The part every engine of a core has: command queue, running program, last retired marker, its generator (R110), the slot it
serves, the order numbers of the markers placed in it (R187), whether its last retired command was a NOTIFY, whether the lot
has issued commands to it, whether it has stopped on a fault, the G lines a fence lets it read through the lot view (R96), and the lot
(task and LOTNO) that placed its markers (R186). -/
structure Eng where
  queue : List Cmd := []
  run : Option Run := none
  last : Option (BitVec 16) := none
  notified : Bool := false
  used : Bool := false
  placed : Tbl Nat := []
  gen : BitVec 32 := 1
  stopped : Bool := false
  view : List Nat := []
  forLot : Option (Nat × Nat) := none
  deriving DecidableEq, Repr

/-- What a step of a copy engine does, with its shape and ring numbers (R155): CLD and CST with a shape or a ring, CSTQ (codes,
source, mode, TYPE), CMC (source, destination, cores), CGA and CSC (G, index, buffer), CRW, CRED, CLDM. -/
inductive CopyOp where
  | cld (g b : Nat)
  | cldRing (g c : Nat)
  | cst (g b : Nat)
  | cstRing (g c : Nat)
  | cstq (g b mode ty : Nat)
  | cmc (a b mask : Nat)
  | cga (g i b : Nat)
  | csc (g i b : Nat)
  | crw (a b : Nat)
  | cred (a b : Nat)
  | cldm (g c k : Nat) (follow : BitVec 32)
  deriving DecidableEq, Repr

/-- A step of a copy engine in flight (R266): its number, operation and tag, the order number of its program and the registers
bound to it, its micro-PC, the ring slot it claimed or reads, the answers to its contributions by element (R274), and whether a
CLDM has filled its slot. -/
structure CopyStep where
  idx : Nat
  op : CopyOp
  tag : Option Nat := none
  prog : Nat := 0
  upc : Nat := 0
  bound : Prog := {}
  slotNo : Nat := 0
  answers : Tbl Nat := []
  filled : Bool := false
  deriving DecidableEq, Repr

/-- A set of weight registers (R251): the stream record and tile index it was loaded from with the stream's number, none when
empty; for each tile column its words and, for Q4, the scale byte of each block of 32 rows; whether its load has completed. -/
structure Weights where
  src : Option (Nat × Nat) := none
  record : BitVec 128 := 0
  cols : List (List Word) := []
  scales : List (List Nat) := []
  pending : Bool := false
  ready : Bool := true
  deriving DecidableEq, Repr

/-- A write a pass retires into a slab element: its partial sum (R115), added or put in place of the element. -/
structure PassWrite where
  slab : Nat
  elem : Nat
  sum : PSum
  accumulate : Bool
  deriving DecidableEq, Repr

/-- What a mode-2 pass sends (R253): the link, the first slab index within its group, the vectors, the tile's columns. A CONV
counts its vectors by pixel: `k0` is then 32 times the slab index plus the first pixel, and `limit` where the pixels end. -/
structure Chain where
  link : Nat
  k0 : Nat
  vectors : Nat
  wcol : Nat
  nt : Nat
  limit : Option Nat := none
  deriving DecidableEq, Repr

/-- The program and the weight sets of a fragment as they stood before a step (R44). -/
structure Redo where
  run : Run := {}
  act : Weights := {}
  nxt : Weights := {}
  linked : Bool := false
  deriving DecidableEq, Repr

/-- A pass in flight (R332): the writes it retires, what it sends, the converted vectors that have not entered the link
queue yet, each with its tile's vector count and its format, what its fragment was before its step, and its link's generator before
it drew (R110). -/
structure Pass where
  writes : List PassWrite := []
  chain : Option Chain := none
  applied : Bool := false
  vectors : List (Nat × Nat × List Nat) := []
  redo : Redo := {}
  genBefore : Option (BitVec 32) := none
  deriving DecidableEq, Repr

/-- A fragment sequencer (R20, R55): lease state 0 FREE, 1 LEASED, 2 DRAINING, 3 FAULTED; slot; recorded generation; the task
whose lot holds it or has returned it, none once that lot is over; the weight sets; the passes in flight; the fault waiting for them; whether its program has run a
LINKCFG; whether a link-input pass waits, and whether its producer became FREE meanwhile (R259). -/
structure Frag where
  state : Nat := 0
  slot : Nat := 0
  gen : Nat := 0
  lot : Option Nat := none
  act : Weights := {}
  nxt : Weights := {}
  passes : List Pass := []
  faulting : Option FaultRec := none
  linked : Bool := false
  waitsLink : Bool := false
  linkLost : Bool := false
  deriving DecidableEq, Repr

/-- A chain link (R24 to R26, R257): the parameters LINKCFG loads and the queue of result vectors as output patterns (for Q4,
code + 16 * scale), each with the vector count of its tile and its format. -/
structure Link where
  scale : List (BitVec 32) := []
  bias : List (BitVec 32) := []
  bound : BitVec 32 := 0
  clamp : Bool := false
  mode : Nat := 0
  fmt : Nat := 0
  qtype : Nat := 0
  queue : List (Nat × Nat × List Nat) := []
  gen : BitVec 32 := 1
  deriving DecidableEq, Repr

/-- The snapshot of R44: ring table, tag bitmaps, rendezvous, stream, transfer and convolution registers, the engines serving
the lot by engine number of the core, with the copy steps in flight and the copy engines the lot has returned, the fences whose
tokens the queues hold (R191), and the generators of links the lot does not hold (R110). -/
structure Snap where
  rings : Tbl Ring := []
  tagdone : Word := 0
  tagerr : Word := 0
  tagcause : Tbl Nat := []
  rv : Tbl Rv := []
  q : Tbl (BitVec 128) := []
  tx : Tbl (BitVec 256) := []
  cv : Tbl (BitVec 256) := []
  engs : Tbl Eng := []
  steps : Tbl (List CopyStep) := []
  frags : Tbl Frag := []
  links : Tbl Link := []
  out : Tbl Nat := []
  res : Tbl Nat := []
  drains : List Nat := []
  fences : List Fence := []
  linkGens : Tbl (BitVec 32) := []
  lease : Nat := 0
  gens : Tbl Nat := []
  plan : Nat := 0
  deriving DecidableEq, Repr

/-- Why the context of a slot waits to be saved (R57): CTXSV, before and after the word at the boundary has had its trap (R376), a
pre-emption, a fault the host is asked about (R374), the migration of its VF (R412), the removal of its core (R384). -/
inductive Stop where
  | ctxsv | tried | preempt | held | freeze | remove
  deriving DecidableEq, Repr

/-- One hardware context of a control core (R15). -/
structure Ctx where
  s : Tbl Word := []
  b : Tbl Word := []
  f : Tbl Bool := []
  pc : Word := 0
  pslots : Nat := 0
  npc : Word := 0
  rings : Tbl Ring := []
  q : Tbl (BitVec 128) := []
  tx : Tbl (BitVec 256) := []
  cv : Tbl (BitVec 256) := []
  rv : Tbl Rv := []
  tagdone : Word := BitVec.allOnes 64
  tagerr : Word := 0
  out : Tbl Nat := []
  res : Tbl Nat := []
  tagcause : Tbl Nat := []
  /-- Bytes of G that copy commands have written and nothing has ordered yet (R95), by 65 * engine + tag, where tag 64 stands for untagged
  steps: by line, the mask of its bytes. -/
  tagLines : Tbl (Tbl Nat) := []
  /-- The same for the vector engine, and the bytes whose writes the next programs placed are behind (R95). -/
  vTagLines : Tbl (Tbl Nat) := []
  after : Tbl Nat := []
  vshape : Word := 0x1008
  accsel : Word := 0
  stallLim : Nat := 2 ^ 24
  stall : Nat := 0
  lotno : Word := 0
  wid : Word := 0
  srseed : BitVec 32 := 0
  asize : Nat := 0
  wsize : Nat := 0
  abase : Nat := 0
  wbase : Nat := 0
  liveA : List Nat := []
  liveW : List Nat := []
  lmem : Tbl Byte := []
  held : Tbl Byte := []
  combs : Tbl Comb := []
  /-- Bytes of G read in the phase: as the control core and as the vector engine see them (R87). -/
  seen : Tbl Byte := []
  vseen : Tbl Byte := []
  lines : List Nat := []
  /-- The lines of the lot's address space these were written at, each with its line of memory (R363, R377). -/
  lineVas : Tbl Nat := []
  fences : List Fence := []
  fenceWait : Option Nat := none
  cmdNo : Nat := 0
  check : Checkpoint := {}
  snap : Snap := {}
  fault : FaultRec := {}
  /-- The task the slot holds (R35), none when the slot is free. -/
  task : Option Nat := none
  /-- Stopped by a trap until firmware releases it (R376), with the cause. -/
  stopped : Option Nat := none
  posted : List FaultRec := []
  postedAbort : Option Nat := none
  postedKill : Option Nat := none
  exited : Bool := false
  /-- The lot's last phase has committed, and the lot runs again from its last checkpoint: no commit performs anything more (R47). -/
  committed : Bool := false
  yieldTo : Option (Nat × List Nat) := none
  /-- The waiting instruction whose R39 step 1 the slot stands in has released its held commands. -/
  draining : Bool := false
  retryAt : Option Nat := none
  halted : Bool := false
  /-- A save of the context is pending: no word of it and no step of its engines begins (R57, R381). -/
  stopping : Option Stop := none
  /-- The gate whose action FIFO the slot's MBACT waits on, and whether its episode has ended meanwhile (R289). -/
  gateStall : Option (Nat × Bool) := none
  /-- The generators of the links the lot has returned, by link: a later lease of them in the lot goes on from there (R110). -/
  linkGens : Tbl (BitVec 32) := []
  deriving DecidableEq, Repr

/-! ## Engines' own state -/

/-- A vector context (R28): v0-v63 as 8192-bit registers of 1 KiB, p1-p7 as 1024-bit predicates, the shape in force (R177). -/
structure VecCtx where
  v : Tbl (BitVec 8192) := []
  p : Tbl (BitVec 1024) := []
  vshape : Word := 0x1008
  deriving DecidableEq, Repr

/-- A copy engine (R29): lease, the task whose lot holds it or has returned it (none once that lot is over), recorded generation, the
steps in flight and the number of the next step. -/
structure CopyEng where
  leased : Bool := false
  draining : Bool := false
  holder : Option Nat := none
  slot : Nat := 0
  gen : Nat := 0
  steps : List CopyStep := []
  nextStep : Nat := 0
  deriving DecidableEq, Repr

/-- A pending lease request (R54): fragments or copy engine, shape, class, effective class, the cycle it joined, the waiting task, the
sequencers a saved or aborted task must get again with their generation, and whether a WHOLE request has begun its hold. -/
structure LeaseReq where
  copy : Bool := false
  shape : Nat := 0
  cls : Nat := 0
  eff : Nat := 0
  since : Nat := 0
  task : Nat := 0
  want : Nat := 0
  gens : Tbl Nat := []
  plan : Nat := 0
  rd : Nat := 0
  holds : Bool := false
  deriving DecidableEq, Repr

/-- What a core holds beside its contexts and engines (R14). -/
structure Core where
  lastUser : Nat := 3
  /-- The user slots that the selection of this cycle found ready (R16, R200). -/
  ready : List Nat := []
  plan : Nat := 0
  pend : Nat := 0
  pendv : Bool := false
  pendReq : Option LeaseReq := none
  fragGen : BitVec 16 := 0
  copyGen : BitVec 16 := 0
  reqs : List LeaseReq := []
  hold : Bool := false
  /-- The cycles, plus one, in which the last fragment and copy-engine decisions were made (R54). -/
  fragCycle : Nat := 0
  copyCycle : Nat := 0
  fwshare : Word := 2
  fwIssues : List Nat := []
  events : List (Nat × Nat) := []
  waitingEvents : List (Nat × Nat) := []
  /-- The slice and set of the last TAG_PARITY told to the core's firmware: slice + 2^16 * set (R389). -/
  parityAt : Option Nat := none
  allocctl : Word := 0x1214
  wdogAt : Option Nat := none
  /-- ACC_FOREIGN touches being served, slab and slot, and whether the hypervisor is awaited (R354, R383). -/
  foreign : List (Nat × Nat × Bool) := []
  /-- A program runs in the firmware context and reads the events itself; otherwise the service the spec describes reads each event
  as it is raised. Whether it has read one and not yet given way. -/
  fwProgram : Bool := false
  fwAwake : Bool := false
  keys : Tbl (Nat × Nat) := []
  vecLast : Nat := 3
  part : Option Nat := none
  enabled : Bool := true
  /-- The core is being removed, with the CORECFG that follows (R384, R408). -/
  leaving : Option Word := none
  /-- The slot the last PC sample took, and the context whose word issued last with the cycle of it (R414). -/
  sampled : Nat := 3
  issued : Option (Nat × Nat) := none
  deriving DecidableEq, Repr

/-! ## Tasks and nodes (R32 to R47) -/

/-- The states of R42. -/
inductive TaskState where
  | pooled | running | waiting | aborting | saved | done | cancelled | cancelledRunning | killed
  deriving DecidableEq, Repr

/-- A gate message (R290): the header word and the payload bytes. -/
structure Msg where
  hdr : Word
  data : List Byte
  deriving DecidableEq, Repr

/-- A saved context or continuation: the area of R382 as far as R39, R45 or R57 fills it. -/
structure Area where
  ctx : Ctx := {}
  whole : Bool := false
  vec : VecCtx := {}
  engs : Tbl Eng := []
  frags : Tbl Frag := []
  copies : Tbl CopyEng := []
  links : Tbl Link := []
  aBytes : Tbl Byte := []
  wWords : Tbl Nat := []
  deliver : Tbl Word := []
  deliverA : List (Nat × Byte) := []
  /-- The region and tuple a parked take was served with (R215). -/
  took : Option (Nat × List Word) := none
  /-- The gate and message a waiting MBOBS has received (R289). -/
  msg : Option (Nat × Msg) := none
  lease : Nat := 0
  gens : Tbl Nat := []
  plan : Nat := 0
  /-- For a context moved to another core, whose units are asked for by shape: the recorded unit that a granted one stands for, by engine
  number (R384). -/
  byShape : Bool := false
  moved : Tbl Nat := []
  /-- The request whose grant a continuation of LEASE.W holds (R194). -/
  asked : Option LeaseReq := none
  deriving DecidableEq, Repr

/-- A task (R35, R42): its node, the remainder [next, hi), the split proposed on it (split point, asking core and slot, tick of
the proposal), its continuation, the core it is bound to, and what it waits for (a page, with whether
it is COW's; a gate, a lease). -/
structure Task where
  node : Nat := 0
  state : TaskState := .pooled
  next : Nat := 0
  hi : Nat := 0
  split : Option (Nat × Nat × Nat × Nat) := none
  cont : Option Area := none
  core : Option Nat := none
  slot : Nat := 0
  page : Option (Word × Bool) := none
  lot : Nat := 0
  heldFault : Bool := false
  /-- The lot of a finished EXIT has completed and the next has not started (R37). -/
  between : Bool := false
  /-- Copies of slabs spilled to the context area (R383). -/
  spilled : Tbl (List (BitVec 32)) := []
  /-- Address a CTXSV saved the context at (R379). -/
  areaAt : Option Nat := none
  ctxId : Option Nat := none
  deriving DecidableEq, Repr

/-- A launch node (R32, R318): the header's fields, the queue it came from, its place in a graph, and its progress. -/
structure Node where
  vf : Nat := 0
  queue : Nat := 0
  prio : Nat := 0
  ctl : Word := 0
  vec : Word := 0
  mat : Word := 0
  xfer : Word := 0
  veclen : Nat := 0
  matlen : Nat := 0
  xferlen : Nat := 0
  entry : Nat := 0
  extm1 : List Word := []
  width : List Nat := []
  lotb : Nat := 0
  agran : Nat := 0
  wrows : Nat := 0
  srseed : BitVec 32 := 0
  lots : Nat := 0
  done : Nat := 0
  killed : Bool := false
  cancelled : Bool := false
  cause : Nat := 0
  detail : Word := 0
  graph : Option Nat := none
  index : Nat := 0
  finished : Bool := false
  counted : Bool := false
  deriving DecidableEq, Repr

/-! ## Memory side -/

/-- What the ciphertext of a tile was sealed under (R369): owner, key generation and the draw of its keys, version era, version. -/
structure Cipher where
  owner : Nat
  gen : Nat
  draw : Nat
  era : Nat
  ver : Nat
  deriving DecidableEq, Repr

/-- What the far cache and the metadata hold of a 4 KiB tile (R69 to R73, R365): version, key generation, zero flag, a tag that
does not verify, with its value as stored, what the ciphertext in memory is sealed under where the metadata say otherwise, whether that
ciphertext is damaged (R422), the sectors present, the owner recorded with its lines (R67), and whether a refused writeback holds it (R72). -/
structure Tile where
  ver : Nat := 0
  kgen : Nat := 0
  z : Bool := false
  bad : Bool := false
  tag : Word := 0
  under : Option Cipher := none
  spoiled : Bool := false
  present : List Nat := []
  owner : Option Nat := none
  exhausted : Bool := false
  deriving DecidableEq, Repr

/-- A frame's owner record (R365). -/
structure Frame where
  owner : Nat := 0x7F
  era : Nat := 0
  gframe : Nat := 0
  kg7 : Nat := 0
  deriving DecidableEq, Repr

/-- A watch on a signal word (R192). -/
structure Watch where
  pa : Nat
  cond : Nat
  value : Word
  task : Option Nat := none
  packet : Option (Nat × Nat × Nat) := none
  deriving DecidableEq, Repr

/-- A stored tuple of the Market (R209, R212, R215): place 0 index, 1 spill area, 2 parked-request entry; for a spilled one, where in the
area it lies, in units of 128 bytes. -/
structure Tuple where
  frame : Nat
  fields : List Word
  seq : Nat
  place : Nat := 0
  spill : Nat := 0
  deriving DecidableEq, Repr

/-- A parked request of the Market (R212). -/
structure Parked where
  frame : Nat
  mask : BitVec 8
  fields : List Word
  take : Bool
  seq : Nat
  task : Nat
  deriving DecidableEq, Repr

/-- A Market slice (R210, R212). -/
structure MkSlice where
  tuples : List Tuple := []
  parked : List Parked := []
  seq : Nat := 0
  deriving DecidableEq, Repr

/-- A translation table (R360): its valid bit, granule and entries, and the guest frame an entry was resolved from (R361). -/
structure Table where
  valid : Bool := false
  gran : Nat := 0
  entries : Tbl (BitVec 32) := []
  guest : Tbl Nat := []
  deriving DecidableEq, Repr

/-! ## Gates and the Rink -/

/-- A gate (R288, R289): state 0 UNBOUND, 1 FREE, 2 OPEN, 3 ENDING. -/
structure Gate where
  state : Nat := 0
  vf : Nat := 0
  episode : Nat := 0
  acts : List Msg := []
  obs : List Msg := []
  seqAct : Nat := 0
  seqObs : Nat := 0
  waiters : List (Nat × Word) := []
  deriving DecidableEq, Repr

/-- The registers of an episode's hart (R281), and its load reservation. -/
structure Hart where
  x : Tbl Word := []
  f : Tbl Word := []
  pc : Word := 0
  fcsr : BitVec 8 := 0
  res : Option (Nat × Nat) := none
  instret : Nat := 0
  deriving DecidableEq, Repr

/-- An episode (R284 to R303): the descriptor's copied fields, its state 0 none, 1 ARMED, 2 RUNNING, 3 ENDED, and its counts.
`blocked` is 0 running, 1 in MB.RECV, 2 in MB.SEND; `armWait` an arming whose descriptor is not resident; `armed` its place in arming
order; `owed` the words of the descriptor that the device has yet to rewrite, each with its value and width. -/
structure Episode where
  state : Nat := 0
  kind : Nat := 0
  maxlag : Nat := 0
  stepb : Nat := 0
  totb : Nat := 0
  wbase : Word := 0
  wsize : Nat := 0
  entry : Word := 0
  arg : Word := 0
  gate : Nat := 0
  armed : Nat := 0
  armWait : Bool := false
  rink : Nat := 0
  hart : Hart := {}
  steps : Nat := 0
  stepCyc : Nat := 0
  quantum : Nat := 0
  blocked : Nat := 0
  suspended : Bool := false
  lastGen : Nat := 0
  received : Bool := false
  pin : Nat := 0
  owed : Tbl (Nat × Nat) := []
  deriving DecidableEq, Repr

/-- A line of 64 bytes in a Rink core's SRAM (R283): the episode it is tagged with, its physical line, its bytes, and which of them are
dirty. -/
structure RLine where
  ep : Nat
  line : Nat
  data : BitVec 512 := 0
  dirty : BitVec 64 := 0
  deriving DecidableEq, Repr

/-- A Rink core (R281, R283, R286): resident episodes in round-robin order, the current one, the Rink cycle at which the cycles of its
last word are over, its cache, the window registers, the mode, the registers of machine mode, and the monitor's: its hart's registers, its
64 KiB of SRAM, and whether a program runs there; otherwise the service the spec describes of the monitor acts within the step. -/
structure Rink where
  resident : List Nat := []
  current : Option Nat := none
  cycle : Nat := 0
  lines : List RLine := []
  wbase : Word := 0
  wsize : Nat := 0
  machine : Bool := true
  program : Bool := false
  hart : Hart := {}
  sram : Tbl Byte := []
  mstatus : Word := 0x200200000
  mie : Word := 0
  mip : Word := 0
  mcounteren : Word := 7
  mepc : Word := 0
  mcause : Word := 0
  mtval : Word := 0
  mtvec : Word := 0
  mscratch : Word := 0
  deriving DecidableEq, Repr

/-! ## Queues, graphs, fabric -/

/-- A packet in flight in a queue (R348 to R351): its index, words, whether its effect is under way or done. -/
structure Packet where
  idx : Nat
  words : List Word
  state : Nat := 0
  node : Option Nat := none
  graph : Option Nat := none
  left : Nat := 0
  deriving DecidableEq, Repr

/-- A copy of a queue's control block (R388). -/
structure QCopy where
  seq : Nat := 0
  ridx : Nat := 0
  graph : Nat := 0
  halted : Bool := false
  en : Bool := false
  deriving DecidableEq, Repr

/-- A user queue beside its register block (R346 to R352, R388): packets in flight, the write index last read, a cancel whose notice
waits for the queue's lots to end, the read index, HALTED and EN, a kick whose write index has not been read, an enabling that waits
for it, and the control block's selector and copies. -/
structure Queue where
  packets : List Packet := []
  windex : Nat := 0
  cancelAt : Option Nat := none
  ridx : Nat := 0
  halted : Bool := false
  en : Bool := false
  kick : Bool := false
  start : Bool := false
  sel : Nat := 0
  seq : Nat := 0
  copies : Tbl QCopy := []
  deriving DecidableEq, Repr

/-- The time-slice turn of a partition (R409): the VF in turn (0 before the first), when its turn ends, the outgoing VF while its
tasks hold the partition, the time each VF has overrun, and whether the VF in turn runs past its end (R340). -/
structure Turn where
  vf : Nat := 0
  ends : Nat := 0
  prev : Option Nat := none
  overrun : Tbl Nat := []
  late : Bool := false
  deriving DecidableEq, Repr

/-- A graph in flight (R353): queue, packet, table address, the completion signal, whether the host decrements, the nodes' launch
headers, counters and successors, ready queue and ends. -/
structure Graph where
  vf : Nat := 0
  queue : Nat := 0
  packet : Nat := 0
  gtab : Word := 0
  csig : Word := 0
  cval : Word := 0
  assisted : Bool := false
  nodes : Nat := 0
  hdrs : Tbl (List Word) := []
  counts : Tbl Nat := []
  succ : Tbl (List Nat) := []
  prio : Tbl Nat := []
  launched : Tbl Nat := []
  done : List Nat := []
  ready : List Nat := []
  stopped : Bool := false
  cancelled : Bool := false
  finished : Bool := false
  deriving DecidableEq, Repr

/-- An access a fabric port has sent and not seen answered (R393, R398), or a contribution of a reduction member (R396): who
asked, when it expires, whether a MOVED reply holds it, and the answer once there is one (0 accepted, 1 refused, 2 INCOMPLETE,
3 timed out). -/
structure FabReq where
  id : Nat
  core : Nat
  slot : Nat
  engine : Option Nat := none
  va : Word := 0
  deadline : Nat
  held : Bool := false
  entry : Nat := 0
  /-- Window key and offset, contributor index, of a contribution. -/
  round : Option (Nat × Nat) := none
  cidx : Nat := 0
  answer : Option Nat := none
  /-- The import record it was sent by (R390). -/
  record : List Word := []
  /-- The task whose committed store it carries (R101). -/
  store : Option Nat := none
  deriving DecidableEq, Repr

/-- An access of another package that waits for its entry to be resident (R393): sending package, export record, offset, whether it is a
write, bytes and value; of an atomic the operation's code and, of an ACAS, the value to compare (R207). -/
structure Arrival where
  src : Nat
  exp : Nat
  off : Nat
  wr : Bool
  size : Nat
  v : Word
  atom : Option (Nat × Option Word) := none
  deriving DecidableEq, Repr

/-- An open round (R396): the tick it opened and the contributions by contributor index. -/
structure Round where
  opened : Nat := 0
  got : Tbl (BitVec 32) := []
  deriving DecidableEq, Repr

/-- A reduction window (R395, R396): operation, mask of contributors, timeout, home export; the open rounds by offset, the repeat
contributions waiting, the merged writes held with the tick their round opened, the offsets of those that a MOVED answer holds, and the
counts of R397. -/
structure RedWin where
  live : Bool := false
  oper : Nat := 0
  mask : Nat := 0
  tmo : Nat := 0
  expNo : Nat := 0
  lost : Bool := false
  rounds : Tbl Round := []
  waiting : List (Nat × Nat × BitVec 32) := []
  heldMerge : Tbl (Nat × BitVec 32) := []
  moved : List Nat := []
  incomplete : Nat := 0
  deriving DecidableEq, Repr

/-- An SPDM mailbox session (R419). -/
structure Spdm where
  phase : Nat := 0
  session : Bool := false
  bothKeys : Bool := false
  resp : Nat := 0
  algs : Word := 0
  data : List Word := []
  /-- The number of the session's key exchange. -/
  keyNo : Nat := 0
  deriving DecidableEq, Repr

/-- A flash bank (R418): the image's security version, a number that stands for the image in its digest, and whether its signature
verifies. -/
structure Bank where
  svn : Nat := 0
  image : Nat := 0
  signed : Bool := true
  deriving DecidableEq, Repr

/-- What SAVE exports of a VF (R412): registers, queues and graph states, nodes and tasks with their context areas, pool order,
watches, Market tuples and parked requests by slice, gate and lease registrations, POLGEN, and the tables. -/
structure MigRec where
  vf : Nat := 0
  regs : Tbl Word := []
  queues : Tbl Queue := []
  graphs : Tbl Graph := []
  nodes : Tbl Node := []
  tasks : Tbl Task := []
  pool : List Nat := []
  watches : List Watch := []
  market : Tbl MkSlice := []
  waiters : Tbl (List (Nat × Word)) := []
  reqs : List LeaseReq := []
  polgen : Nat := 0
  tables : Tbl Table := []
  deriving DecidableEq, Repr

/-- The steps without a word that the package itself brings about, with the arguments their constructor of `Instr` has: what
a step before them, or the time, has made due (95). -/
inductive Due where
  | continuationEnqueue (task : Nat)
  | lotComplete (core slot : Nat)
  | nodeKill (node : Nat)
  | stallLimit (core slot : Nat)
  | postedFault (core slot : Nat)
  | postedAbort (core slot : Nat)
  | yieldExpiry (core slot : Nat)
  | mkFullRetry (core slot : Nat)
  | taskDispatch (core slot : Nat)
  | stealAck (task : Nat)
  | stealTimeout (task : Nat)
  | accForeign (core slab slot : Nat)
  | engineCommandStart (core engine : Nat)
  | programRetire (core engine : Nat)
  | markerRetire (core engine : Nat)
  | passRetire (core seq : Nat)
  | weightLoadComplete (core seq : Nat)
  | fragmentDrained (core seq : Nat)
  | copyStepComplete (core eng idx : Nat)
  | cldmFollowOn (core eng idx : Nat)
  | allocatorDecision (core : Nat)
  | classAging (core : Nat)
  | wholeHold (core : Nat)
  | planChange (core : Nat)
  | pcSample (core : Nat)
  | stepBudget (vf ep : Nat)
  | quantumExpiry (rink : Nat)
  | episodeArm (vf ep : Nat)
  | episodeCancel (vf ep : Nat)
  | episodePlace (die : Nat)
  | queueKick (vf q : Nat)
  | packetAccept (fe : Nat)
  | packetLaunchGraph (vf q idx : Nat) (gtab csig cval : Word)
  | packetSignal (vf q idx : Nat) (addr val : Word) (add : Bool)
  | packetWait (vf q idx : Nat) (addr val : Word) (cond : BitVec 2)
  | packetCopy (vf q idx : Nat) (src dst len : Word)
  | packetMarker (vf q idx : Nat) (addr val : Word)
  | packetComplete (vf q idx : Nat)
  | nodeLaunch (graph : Nat)
  | nodeComplete (node : Nat)
  | sliceTurnEnd (part : Nat)
  | roundTimeout (group win off : Nat)
  | fabricTimeout (req : Nat)
  | watchdog (agent : Nat)
  | writeback (tile : Nat)
  | governorEvaluation
  | packageReset
  deriving DecidableEq, Repr

/-- What an engine's word has done that takes effect at the start of the next cycle, before anything of that cycle looks at it: a
slot of a slot's ring is filled (R77), or a step marker has retired (R186). -/
inductive Landing where
  | fill (core slot ring idx : Nat)
  | mark (core slot eng : Nat) (m : BitVec 16) (notify : Bool)
  deriving DecidableEq, Repr

/-- Who performs a step of the agenda: the issue of a core's control core or vector engine chooses its context (R16, R28); a context, an
engine or a Rink core runs its next word; a step that has become due; or a step that the outside brings about (a register write, an access of
the host or of the fabric, a failure). -/
inductive Act where
  | select (core : Nat)
  | selectVec (core : Nat)
  | ctl (core ctx : Nat)
  | vec (core slot : Nat)
  | mat (core seq : Nat)
  | copy (core eng : Nat)
  | rink (n : Nat)
  | due (d : Due)
  | event (i : Instr)
  deriving DecidableEq, Repr

/-- The package. -/
structure State where
  /-- Arithmetic cycles since reset, and the time since reset in parts of a tick (R8, R425). -/
  cycle : Nat := 0
  clock : Nat := 0
  /-- The model's own: which agents move before the cycle ends, the acting agent, the count of free values read. -/
  agenda : List Act := []
  core : Nat := 0
  ctx : Nat := 0
  eng : Nat := 0
  rinkNo : Nat := 0
  fresh : Nat := 0
  /-- What engines' words of the cycle have filled and marked. -/
  landing : List Landing := []
  /-- 0 RUN, 1 RECOVERY, 2 FATAL, 3 HELD (R418, R423, R424). -/
  condition : Nat := 0
  /-- Contexts by core * 8 + context. -/
  ctxs : Tbl Ctx := []
  /-- Engines by core * 16 + engine: 0-3 vector contexts, 4-7 s0-s3, 8-15 copy engines. -/
  engs : Tbl Eng := []
  vecs : Tbl VecCtx := []
  frags : Tbl Frag := []
  links : Tbl Link := []
  copies : Tbl CopyEng := []
  cores : Tbl Core := []
  /-- A-buffer bytes by core * 2^24 + byte, C-buffer elements by core * 2^21 + element, W words by core * 2^22 + row * 256 + column. -/
  abuf : Tbl Byte := []
  cbuf : Tbl (BitVec 32) := []
  wbuf : Tbl Word := []
  /-- The key each word of W was written under: VF and W generation (R19, R372). -/
  wkeys : Tbl (Nat × Nat) := []
  /-- Accumulator owner codes and holders by core * 2048 + slab (R58, R383). -/
  accown : Tbl Nat := []
  holder : Tbl Nat := []
  tasks : Tbl Task := []
  nodes : Tbl Node := []
  pool : List Nat := []
  nextTask : Nat := 0
  nextNode : Nat := 0
  nextGraph : Nat := 0
  /-- Physical memory, what the far cache holds dirty of it, and the tiles' and frames' records. -/
  mem : List Host.Cell := []
  fcache : Tbl Byte := []
  tiles : Tbl Tile := []
  frames : Tbl Frame := []
  /-- HBM frames that hold the metadata of host frames (R366). -/
  metaFrames : List Nat := []
  kgens : Tbl (List Nat) := []
  /-- The draw of the keys of a generation, by 256 times the VF plus the generation, and the draw that stands for all others (R368). -/
  sealDraws : Tbl Nat := []
  sealDraw : Nat := 0
  watches : List Watch := []
  market : Tbl MkSlice := []
  /-- Translation tables by vf * 4 + kind: 0 lot, 1 queue, 2 Rink (R360). -/
  tables : Tbl Table := []
  /-- BAR registers by bar * 2^24 + offset: bar 0 the PF, 1 to 64 the VFs (R344, R358). -/
  bar : Tbl Word := []
  queues : Tbl Queue := []
  graphs : Tbl Graph := []
  gates : Tbl Gate := []
  episodes : Tbl Episode := []
  /-- Where the descriptors of each VF's episode table lie: first episode number, how many, physical address (R285). -/
  eptMap : Tbl (List (Nat × Nat × Nat)) := []
  nextArm : Nat := 0
  rinks : Tbl Rink := []
  /-- POLGEN of each VF (R300), migration state of each VF: 0 NORMAL, 1 TRACKING, 2 FROZEN, 3 MOVED, 4 LOADED (R412). -/
  polgen : Tbl Nat := []
  frozen : Tbl Nat := []
  areas : Tbl (List Nat) := []
  /-- Where the dirty bitmap of a tracked VF lies, and the records SAVE has exported, whose bytes this device knows (R412, log 16). -/
  trackAt : Tbl Nat := []
  migRecs : List MigRec := []
  /-- The number of each VF's PRINCE key, whose low 8 bits are the W generation, and whether the VF has one (R372, R373). -/
  princeKey : Tbl (Nat × Bool) := []
  imports : Tbl (List Word) := []
  exports : Tbl (List Word) := []
  redwins : Tbl RedWin := []
  /-- INCOMPLETE rounds a member's status word has counted, by import record (R397). -/
  memberCount : Tbl Nat := []
  fabReqs : List FabReq := []
  /-- Messages that wait for their ring: export record, bytes, the tick at which their time is over (R273, R394). -/
  crwWaiting : List (Nat × List Byte × Nat) := []
  /-- A loader command that waits for the accesses already translated, with the LDSRC it was started with (R363). -/
  loading : Option (Word × Word) := none
  arrivals : List Arrival := []
  portUp : Tbl Nat := []
  feTurn : Tbl Nat := []
  partTurn : Tbl Turn := []
  /-- Notices written by ring: 0 the hypervisor's, 1 to 64 the VFs', 100 + p the event streams (R345, R358, R416). -/
  nwrite : Tbl Nat := []
  /-- Entries for which PAGE_WANTED has been posted since their last switch, by VF, kind and index (R367). -/
  pageWanted : List (Nat × Nat × Nat) := []
  /-- MSI-X vectors raised, by VF. -/
  irqs : List (Nat × Nat) := []
  /-- BAR4 (R344): the MSI-X table's words of 32 bits by function * 256 + 4 * vector + word, and the pending bits by function * 64 + vector. -/
  msix : Tbl (BitVec 32) := []
  msixPending : Tbl Bool := []
  /-- The size of the HDM-DB range over HBM, in units of 2 MiB (R343). -/
  hdmSize : Nat := 2 ^ 18
  /-- Events dropped since the last one written, by partition (R416). -/
  evGap : Tbl Nat := []
  spdm : Tbl Spdm := []
  /-- The security processor's own (R417): the fuse seed, the device identity key pair derived from it at reset, and the certificate chain. -/
  fuseSeed : BitVec 256 := Config.fuseSeed
  identity : BitVec 15616 × BitVec 32256 := Config.identityKeys Config.fuseSeed
  certs : List (List Word) := Config.certChain
  /-- Errors that SECDED has corrected (R422). -/
  corrected : Nat := 0
  /-- Flash banks by stage * 2 + bank, the active bank of a stage, and an image written but not booted, with its COMMIT; fused
  minimum and fuses raised by stage (R418, R421). -/
  banks : Tbl Bank := []
  activeBank : Tbl Nat := []
  fwuNew : Tbl Bool := []
  svnMin : Tbl Nat := []
  fuses : Tbl Nat := []
  /-- Steps of 100 MHz of the arithmetic clock (R425). -/
  arithClk : Nat := 30
  wdogs : Tbl Nat := []
  errors : List (Nat × Nat) := []
  deriving DecidableEq, Repr

/-- The package right after reset: every unit as its record's defaults say, with the reset values INVENTORY.md lists under
'## State'; nothing runs and nothing is listed in memory. -/
def State.reset : State := {}

end Sys2Proof.Machine
end

