-- ==== Sys2Proof/Machine/Base.lean ====
section
/-!
DEFINITION. How the units of the package are named, read and replaced: contexts and their registers (R15, R157), cores,
engines, tasks and nodes, and the notes, events and times every later operation uses.
-/

namespace Sys2Proof.Machine

/-- What an instruction or a step ends in. -/
abbrev Out := Host.Outcome State Fault Refusal

/-! ## Contexts -/

/-- A context of a core. -/
def State.ctxOf (σ : State) (core ctx : Nat) : Ctx := Tbl.get σ.ctxs {} (core * 8 + ctx)
def State.setCtx (σ : State) (core ctx : Nat) (c : Ctx) : State :=
  { σ with ctxs := Tbl.set σ.ctxs (core * 8 + ctx) c }
/-- The acting context. -/
def State.cx (σ : State) : Ctx := σ.ctxOf σ.core σ.ctx
def State.setCx (σ : State) (c : Ctx) : State := σ.setCtx σ.core σ.ctx c

/-- s0 reads zero (R157). -/
def Ctx.sreg (c : Ctx) (r : Nat) : Word := if r = 0 then 0 else Tbl.get c.s 0 r
/-- A write to s0 is discarded (R157). -/
def Ctx.setS (c : Ctx) (r : Nat) (v : Word) : Ctx := if r = 0 then c else { c with s := Tbl.set c.s r v }
def Ctx.breg (c : Ctx) (r : Nat) : Word := Tbl.get c.b 0 r
def Ctx.setB (c : Ctx) (r : Nat) (v : Word) : Ctx := { c with b := Tbl.set c.b r v }
def Ctx.flag (c : Ctx) (r : Nat) : Bool := Tbl.get c.f false r
def Ctx.setF (c : Ctx) (r : Nat) (v : Bool) : Ctx := { c with f := Tbl.set c.f r v }
def Ctx.ring (c : Ctx) (r : Nat) : Ring := Tbl.get c.rings {} r
def Ctx.setRing (c : Ctx) (r : Nat) (v : Ring) : Ctx := { c with rings := Tbl.set c.rings r v }
def Ctx.qreg (c : Ctx) (r : Nat) : BitVec 128 := Tbl.get c.q 0 r
def Ctx.txreg (c : Ctx) (r : Nat) : BitVec 256 := Tbl.get c.tx 0 r
def Ctx.cvreg (c : Ctx) (r : Nat) : BitVec 256 := Tbl.get c.cv 0 r
def Ctx.rvreg (c : Ctx) (r : Nat) : Rv := Tbl.get c.rv {} r

/-- The address of the word after the one that issues, with the pending transfer of R165. -/
def Ctx.advance (c : Ctx) : Ctx :=
  if c.pslots = 0 then { c with pc := c.pc + 4, stall := 0 }
  else if c.pslots = 1 then { c with pc := c.npc, pslots := 0, stall := 0 }
  else { c with pc := c.pc + 4, pslots := c.pslots - 1, stall := 0 }

/-- The scalar operand a field names. -/
def State.rs (σ : State) (r : BitVec 5) : Word := σ.cx.sreg r.toNat

/-- The word retires and the context goes on after it. -/
def State.retire (σ : State) (c : Ctx) : Out := .next (σ.setCx c.advance)

/-- The word writes its result to rd and retires. -/
def State.retireS (σ : State) (d : BitVec 5) (v : Word) : Out := σ.retire (σ.cx.setS d.toNat v)

/-! ## Times, events, free values -/

/-- Parts of a tick the clock counts: a multiple of every step of the arithmetic clock (R425). -/
def tickParts : Nat := 2329089562800
/-- The package time base in ticks (R8), which no step of the arithmetic clock changes (R425). -/
def State.time (σ : State) : Nat := σ.clock / tickParts

/-- Put a step behind those that are due before the cycle ends. -/
def State.push (σ : State) (d : Due) : State := { σ with agenda := σ.agenda ++ [.due d] }
def State.pushAll (σ : State) (l : List Due) : State := { σ with agenda := σ.agenda ++ l.map Act.due }

/-- The next free value's number is used up. -/
def State.tickFresh (σ : State) : State := { σ with fresh := σ.fresh + 1 }

/-- A stall of R180: the word has not issued; the cycle counts toward the stall limit of R38. -/
def State.stallHere (σ : State) : Out :=
  let c := σ.cx
  let σ := σ.setCx { c with stall := c.stall + 1 }
  .next (if c.stall + 1 ≥ c.stallLim ∧ σ.ctx < 4 then σ.push (.stallLimit σ.core σ.ctx) else σ)

/-- An interlock of R16: the word has not issued, and nothing counts toward the stall limit. -/
def State.interlock (σ : State) : Out := .next σ

/-! ## Cores, engines, tasks -/

def State.coreOf (σ : State) (n : Nat) : Core := Tbl.get σ.cores {} n
def State.setCore (σ : State) (n : Nat) (c : Core) : State := { σ with cores := Tbl.set σ.cores n c }
def State.engOf (σ : State) (core e : Nat) : Eng := Tbl.get σ.engs {} (core * 16 + e)
def State.setEng (σ : State) (core e : Nat) (v : Eng) : State := { σ with engs := Tbl.set σ.engs (core * 16 + e) v }
def State.vecOf (σ : State) (core k : Nat) : VecCtx := Tbl.get σ.vecs {} (core * 4 + k)
def State.setVec (σ : State) (core k : Nat) (v : VecCtx) : State := { σ with vecs := Tbl.set σ.vecs (core * 4 + k) v }
def State.fragOf (σ : State) (core k : Nat) : Frag := Tbl.get σ.frags {} (core * 4 + k)
def State.setFrag (σ : State) (core k : Nat) (v : Frag) : State := { σ with frags := Tbl.set σ.frags (core * 4 + k) v }
def State.linkOf (σ : State) (core k : Nat) : Link := Tbl.get σ.links {} (core * 4 + k)
def State.setLink (σ : State) (core k : Nat) (v : Link) : State := { σ with links := Tbl.set σ.links (core * 4 + k) v }
def State.copyOf (σ : State) (core n : Nat) : CopyEng := Tbl.get σ.copies {} (core * 8 + n)
def State.setCopy (σ : State) (core n : Nat) (v : CopyEng) : State := { σ with copies := Tbl.set σ.copies (core * 8 + n) v }
def State.taskOf (σ : State) (t : Nat) : Task := Tbl.get σ.tasks {} t
def State.setTask (σ : State) (t : Nat) (v : Task) : State := { σ with tasks := Tbl.set σ.tasks t v }
def State.nodeOf (σ : State) (n : Nat) : Node := Tbl.get σ.nodes {} n
def State.setNode (σ : State) (n : Nat) (v : Node) : State := { σ with nodes := Tbl.set σ.nodes n v }

/-- The owner ID of a context (R67, R175): the VF of its lot's launch, 0x00 for firmware. -/
def State.vfOf (σ : State) (core ctx : Nat) : Nat :=
  if ctx = 4 then 0 else
  match (σ.ctxOf core ctx).task with
  | none => 0x7F
  | some t => (σ.nodeOf (σ.taskOf t).node).vf

/-- The launch node of the lot on a slot. -/
def State.nodeAt (σ : State) (core ctx : Nat) : Node :=
  match (σ.ctxOf core ctx).task with
  | none => {}
  | some t => σ.nodeOf (σ.taskOf t).node

/-- The partition a core belongs to: its CORECFG, the core's own number at reset (R407). -/
def State.partOf (σ : State) (core : Nat) : Nat := (σ.coreOf core).part.getD core

/-- The fragments and the copy engines a slot holds (R53, R183). -/
def State.fragsOf (σ : State) (core slot : Nat) : List Nat :=
  [0, 1, 2, 3].filter fun k => let f := σ.fragOf core k; (f.state = 1 ∨ f.state = 3) ∧ f.slot = slot
def State.copiesOf (σ : State) (core slot : Nat) : List Nat :=
  [0, 1, 2, 3, 4, 5, 6, 7].filter fun n => let e := σ.copyOf core n; e.leased ∧ e.slot = slot
/-- Engines of the core that the lot can name in a queue mask (R185): its vector context and the units its slot holds. -/
def State.enginesHeld (σ : State) (core slot : Nat) : List Nat :=
  (if slot < 4 then [slot] else []) ++ (σ.fragsOf core slot).map (· + 4) ++ (σ.copiesOf core slot).map (· + 8)

/-- The lot on a slot has returned the unit, which still runs the lot's commands (R55). -/
def State.servesStill (σ : State) (core slot unitSlot : Nat) (task : Option Nat) : Bool :=
  decide (unitSlot = slot) && task.isSome && decide (task = (σ.ctxOf core slot).task)
/-- The fragments and copy engines that have commands of the lot: those its slot holds and those it has returned that still drain. -/
def State.fragsWith (σ : State) (core slot : Nat) : List Nat :=
  [0, 1, 2, 3].filter fun k =>
    let f := σ.fragOf core k
    ((decide (f.state = 1) || decide (f.state = 3)) && decide (f.slot = slot)) || (decide (f.state = 2) && σ.servesStill core slot f.slot f.lot)
def State.copiesWith (σ : State) (core slot : Nat) : List Nat :=
  [0, 1, 2, 3, 4, 5, 6, 7].filter fun n =>
    let e := σ.copyOf core n
    (e.leased && decide (e.slot = slot)) || (e.draining && σ.servesStill core slot e.slot e.holder)
/-- The engines serving the lot on a slot, by engine number of the core (R39, R44, R52, R184): its vector context, and every fragment
and copy engine that has commands of it. -/
def State.enginesOf (σ : State) (core slot : Nat) : List Nat :=
  (if slot < 4 then [slot] else []) ++ (σ.fragsWith core slot).map (· + 4) ++ (σ.copiesWith core slot).map (· + 8)

/-- Bit e of a queue mask names engine `qEngine slot e` of the core (R148). -/
def qEngine (slot e : Nat) : Nat := if e = 0 then slot else e + 3

/-- The mask of the units that serve the lot on a slot: fragments in bits 3:0, copy engines in bits 11:4. -/
def State.leaseMask (σ : State) (core slot : Nat) : Nat :=
  (σ.fragsWith core slot).foldl (fun a k => a + 2 ^ k) 0 + (σ.copiesWith core slot).foldl (fun a n => a + 2 ^ (n + 4)) 0

/-! ## Import records (R391) -/

def State.importRec (σ : State) (i : Nat) : List Word := Tbl.get σ.imports [] i
def impWord (r : List Word) (k : Nat) : Nat := (r.getD k 0).toNat
def impValid (r : List Word) : Bool := (impWord r 0).testBit 0
def impKind (r : List Word) : Nat := bits (impWord r 0) 2 1
def impVf (r : List Word) : Nat := bits (impWord r 0) 15 8
/-- The window timeout in ticks. -/
def impTmo (r : List Word) : Nat := (if bits (impWord r 0) 63 32 = 0 then 100000 else bits (impWord r 0) 63 32) * 1000

end Sys2Proof.Machine
end

