-- ==== Sys2Proof/Machine/Seal.lean ====
section
/-!
DEFINITION. The cipher of sealed memory (22 R368, R369): AES-256, the counter blocks of a tile, and the GHASH-based TAG of its metadata.
R369 names AES and GHASH; their own definitions and the order of bytes in a block are those of FIPS 197 and of NIST SP 800-38D, the
first byte of a block its highest (log 82).
-/

namespace Sys2Proof.Machine

/-! ## AES-256 -/

/-- Multiplication by x in GF(2^8). -/
def gfDouble (a : Nat) : Nat := let b := 2 * a; if 256 ≤ b then b ^^^ 0x11B else b
/-- The product in GF(2^8), over the bits of the second factor. -/
def gfMul (a b : Nat) : Nat :=
  ((List.range 8).foldl (fun (p : Nat × Nat) i => (if b.testBit i then p.1 ^^^ p.2 else p.1, gfDouble p.2)) (0, a)).1
/-- The inverse, a to the power 254; zero has itself. -/
def gfInv (a : Nat) : Nat := (List.range 7).foldl (fun (p : Nat × Nat) _ => let s := gfMul p.1 p.1; (s, gfMul p.2 s)) (a, 1) |>.2
def sboxOf (a : Nat) : Nat :=
  let b := gfInv a
  let rot (n : Nat) : Nat := (b * 2 ^ n % 256) + b / 2 ^ (8 - n)
  b ^^^ rot 1 ^^^ rot 2 ^^^ rot 3 ^^^ rot 4 ^^^ 0x63
def sboxTable : Array Nat := ((List.range 256).map sboxOf).toArray
def sbox (a : Nat) : Nat := sboxTable.getD a 0

/-- The bytes of an n-byte block, the highest first, and back. -/
def blockBytes (n v : Nat) : List Nat := (List.range n).map fun i => v / 256 ^ (n - 1 - i) % 256
def bytesBlock (l : List Nat) : Nat := l.foldl (fun a b => a * 256 + b) 0
def xorBytes (a b : List Nat) : List Nat := List.zipWith (· ^^^ ·) a b

/-- One more word of the key schedule: word i from the words before it, the last first. -/
def keyWord (i rcon : Nat) (ws : List (List Nat)) : List Nat :=
  let t := ws.headD []
  let t := if i % 8 = 0 then xorBytes ((t.drop 1 ++ t.take 1).map sbox) [rcon, 0, 0, 0] else if i % 8 = 4 then t.map sbox else t
  xorBytes (ws.getD 7 []) t
def keyWords : Nat → Nat → Nat → List (List Nat) → List (List Nat)
  | 0, _, _, ws => ws
  | n + 1, i, rcon, ws => keyWords n (i + 1) (if i % 8 = 0 then gfDouble rcon else rcon) (keyWord i rcon ws :: ws)
/-- The 15 round keys of a 256-bit key. -/
def roundKeys (key : BitVec 256) : List (List Nat) :=
  let bs := blockBytes 32 key.toNat
  let ws := (keyWords 52 8 1 ((List.range 8).map fun i => (bs.drop (4 * i)).take 4).reverse).reverse
  (List.range 15).map fun r => ((ws.drop (4 * r)).take 4).flatten

/-- SubBytes with ShiftRows: row r of column c comes from column c + r. -/
def subShift (s : List Nat) : List Nat := (List.range 16).map fun i => sbox (s.getD (4 * ((i / 4 + i % 4) % 4) + i % 4) 0)
def mixColumns (s : List Nat) : List Nat :=
  (List.range 16).map fun i =>
    let a (k : Nat) : Nat := s.getD (4 * (i / 4) + (i + k) % 4) 0
    gfMul (a 0) 2 ^^^ gfMul (a 1) 3 ^^^ a 2 ^^^ a 3
def aesRounds : List (List Nat) → List Nat → List Nat
  | [], s => s
  | [k], s => xorBytes (subShift s) k
  | k :: ks, s => aesRounds ks (xorBytes (mixColumns (subShift s)) k)
/-- AES-256 of a 128-bit block under a schedule of round keys. -/
def aesWith (ks : List (List Nat)) (b : BitVec 128) : BitVec 128 :=
  BitVec.ofNat 128 (bytesBlock (aesRounds (ks.drop 1) (xorBytes (blockBytes 16 b.toNat) (ks.headD []))))
def aes256 (key : BitVec 256) (b : BitVec 128) : BitVec 128 := aesWith (roundKeys key) b

/-! ## GHASH -/

/-- The product of GHASH's field, the highest bit of a block first. -/
def ghashMul (x y : BitVec 128) : BitVec 128 :=
  BitVec.ofNat 128 ((List.range 128).foldl (fun (p : Nat × Nat) i =>
    (if x.toNat.testBit (127 - i) then p.1 ^^^ p.2 else p.1, if p.2.testBit 0 then p.2 / 2 ^^^ 0xE1 * 2 ^ 120 else p.2 / 2)) (0, y.toNat)).1
def ghash (h : BitVec 128) (bs : List (BitVec 128)) : BitVec 128 := bs.foldl (fun y b => ghashMul (y ^^^ b) h) 0

/-! ## A tile's counter blocks, ciphertext and TAG (R369) -/

/-- The counter block j of a tile: host frame, tile index, VER, ERA. -/
def sealCtr (f t ver era j : Nat) : BitVec 128 := BitVec.ofNat 128 (f * 2 ^ 108 + t % 512 * 2 ^ 99 + ver % 2 ^ 56 * 2 ^ 43 + era % 8 * 2 ^ 40 + j)
/-- The metadata block. -/
def sealMeta (f t ver era kgen : Nat) (z : Bool) : BitVec 128 :=
  BitVec.ofNat 128 (f * 2 ^ 108 + t % 512 * 2 ^ 99 + ver % 2 ^ 56 * 2 ^ 43 + era % 8 * 2 ^ 40 + kgen % 128 * 2 + if z then 1 else 0)
/-- The 256 blocks of a tile's ciphertext, of its plaintext bytes. -/
def sealData (kd : BitVec 256) (f t ver era : Nat) (data : List (BitVec 8)) : List (BitVec 128) :=
  let ks := roundKeys kd
  (List.range 256).map fun j =>
    BitVec.ofNat 128 (bytesBlock (((data.drop (16 * j)).take 16).map BitVec.toNat)) ^^^ aesWith ks (sealCtr f t ver era j)
/-- The TAG over a metadata block and a ciphertext. -/
def sealTag (ki : BitVec 256) (f t ver era kgen : Nat) (z : Bool) (cipher : List (BitVec 128)) : BitVec 64 :=
  let ks := roundKeys ki
  (ghash (aesWith ks 0) (sealMeta f t ver era kgen z :: cipher) ^^^ aesWith ks (sealCtr f t ver era 0)).extractLsb' 64 64

/-! ## AES-256-GCM of migration records (26 R411) -/

/-- The blocks of a string of bytes, the last filled up with zeros. -/
def gcmBlocks (l : List (BitVec 8)) : List (BitVec 128) :=
  (List.range ((l.length + 15) / 16)).map fun j =>
    let b := ((l.drop (16 * j)).take 16).map BitVec.toNat
    BitVec.ofNat 128 (bytesBlock (b ++ List.replicate (16 - b.length) 0))
/-- The counter block i of a nonce. -/
def gcmCtr (nonce : BitVec 96) (i : Nat) : BitVec 128 := BitVec.ofNat 128 (nonce.toNat * 2 ^ 32 + i % 2 ^ 32)
/-- Byte i of the key stream under a schedule of round keys. -/
def gcmByte (ks : List (List Nat)) (nonce : BitVec 96) (i : Nat) : BitVec 8 :=
  (aesWith ks (gcmCtr nonce (i / 16 + 2))).extractLsb' (8 * (15 - i % 16)) 8
/-- Encryption, and decryption, of bytes. -/
def gcmCrypt (ks : List (List Nat)) (nonce : BitVec 96) (l : List (BitVec 8)) : List (BitVec 8) :=
  l.zipIdx.map fun p => p.1 ^^^ gcmByte ks nonce p.2
/-- The tag of a ciphertext without further data. -/
def gcmTag (ks : List (List Nat)) (nonce : BitVec 96) (c : List (BitVec 8)) : BitVec 128 :=
  ghash (aesWith ks 0) (gcmBlocks c ++ [BitVec.ofNat 128 (8 * c.length)]) ^^^ aesWith ks (gcmCtr nonce 1)

end Sys2Proof.Machine
end

