-- ==== Sys2Proof/Machine/Memory.lean ====
section
/-!
DEFINITION. The five spaces: translation in the order of its checks (R65, R66), owners and seal checks at the home slice (R67,
R70), bytes of G through the far cache (R71), the lot view and the commit buffer (R85 to R88, R97), the A, C, W and L buffers
(R60 to R63), the accumulator owner touch (R58), and the rings (R75, R76).
-/

namespace Sys2Proof.Machine

/-! ## Causes (R374) -/

def causeIllegal : Nat := 1
def causePriv : Nat := 2
def causeAlign : Nat := 3
def causeOutside : Nat := 4
def causeNonresident : Nat := 5
def causeCow : Nat := 6
def causeWritePerm : Nat := 7
def causeOwner : Nat := 8
def causeSealFail : Nat := 9
def causeAccForeign : Nat := 10
def causeFragFault : Nat := 11
def causeStepIllegal : Nat := 12
def causeMkFull : Nat := 14
def causeGateClosed : Nat := 15
def causeFabTimeout : Nat := 16
def causeStallLimit : Nat := 17
def causeCommitFull : Nat := 18
def causeLeaseBad : Nat := 19
def causeTrapCall : Nat := 20
def causeSealExhaust : Nat := 32
def causeWatchdog : Nat := 33
def causeTagParity : Nat := 34
def causeCancelled : Nat := 255

/-- A trap on its way to the fault record (R377): cause, DETAIL, TCODE. -/
structure Tr where
  cause : Nat
  detail : Word := 0
  tcode : Nat := 0
  deriving DecidableEq, Repr

/-- A value, or the trap an access raises. -/
abbrev Chk (α : Type) := Except Tr α

def failWith {α : Type} (cause : Nat) (detail : Word := 0) : Chk α := .error { cause := cause, detail := detail }

/-! ## Translation (R64 to R66) -/

/-- The kinds of access `translate` tells apart. -/
inductive Kind where
  | read | write | rmw | fetch
  deriving DecidableEq, Repr

/-- The operations the class rules of R66 tell apart: accesses every class but Market takes, Market operations, reduction
contributions, and accesses that only normal and host regions take. -/
inductive GOp where
  | plain | market | cred | near
  deriving DecidableEq, Repr

def entV (e : BitVec 32) : Bool := e.getLsbD 8
def entClass (e : BitVec 32) : Nat := (e.extractLsb' 6 2).toNat
def entCow (e : BitVec 32) : Bool := e.getLsbD 5
def entRes (e : BitVec 32) : Bool := e.getLsbD 4
def entEx (e : BitVec 32) : Bool := e.getLsbD 3
def entWr (e : BitVec 32) : Bool := e.getLsbD 2
def entRd (e : BitVec 32) : Bool := e.getLsbD 1
def entFrame (e : BitVec 32) : Nat := (e.extractLsb' 12 20).toNat

/-- R66: the class does not take the operation. -/
def classMismatch (op : GOp) (cls : Nat) : Bool :=
  match op with
  | .plain => decide (cls = 1)
  | .market => decide (cls ≠ 1)
  | .cred => decide (cls ≠ 2)
  | .near => decide (cls = 1) || decide (cls = 2)

/-- GRANLOG2 of a table's granule code (R65, R360). -/
def granLog (t : Table) : Nat := if t.gran = 0 then 21 else if t.gran = 1 then 25 else 29

/-- A translated address: the physical address and the region's class. -/
structure Xl where
  pa : Nat
  cls : Nat
  /-- The entry's FRAME, which names an import record in a fabric window and the region in a Market one, and the offset within
  the granule. -/
  frame : Nat := 0
  off : Nat := 0
  deriving DecidableEq, Repr

/-- `translate` of R65 on a table. -/
def xlate (t : Table) (va : Word) (kind : Kind) (op : GOp) : Chk Xl :=
  let g := granLog t
  let i := va.toNat / 2 ^ g
  if Config.tableEntries ≤ i then failWith causeOutside va else
  let e := Tbl.get t.entries 0 i
  if !t.valid || !entV e then failWith causeOutside va
  else if classMismatch op (entClass e) then failWith causeOutside va
  else if (kind = .read ∨ kind = .rmw) ∧ !entRd e then failWith causeOutside va
  else if kind = .fetch ∧ !entEx e then failWith causeOutside va
  else if !entRes e then failWith causeNonresident va
  else if (kind = .write ∨ kind = .rmw) ∧ !entWr e then failWith causeWritePerm va
  else if (kind = .write ∨ kind = .rmw) ∧ entCow e then failWith causeCow va
  else .ok { pa := entFrame e * 2 ^ 21 + va.toNat % 2 ^ g, cls := entClass e, frame := entFrame e, off := va.toNat % 2 ^ g }

/-- The lot table of a VF (R360). -/
def State.lotTable (σ : State) (vf : Nat) : Table := Tbl.get σ.tables {} (vf * 4)

/-- Bytes of physical address space (R64). -/
def physLimit : Nat := Config.numFrames * 2 ^ 21

/-- The translation of a context's G access; the firmware context has no table, and its addresses are physical (log 3). -/
def State.translate (σ : State) (core ctx : Nat) (va : Word) (kind : Kind) (op : GOp) : Chk Xl :=
  if ctx = Config.fwCtx then
    if va.toNat < physLimit then .ok { pa := va.toNat, cls := 0, frame := va.toNat / 2 ^ 21, off := va.toNat % 2 ^ 21 } else failWith causeOutside va
  else xlate (σ.lotTable (σ.vfOf core ctx)) va kind op

/-! ## Owners, tiles and bytes of G (R67 to R71) -/

/-- The owner record of a frame: the carve-out's is firmware's at reset, every other frame is owned by none (R365). -/
def State.frameRec (σ : State) (f : Nat) : Frame :=
  Tbl.get σ.frames (if Config.hostFrame - 1024 ≤ f ∧ f < Config.hostFrame then { owner := 0 } else ({} : Frame)) f
def frameOf (pa : Nat) : Nat := pa / 2 ^ 21
def tileOf (pa : Nat) : Nat := pa / 4096
def sectorOf (pa : Nat) : Nat := pa / 64 % 64
/-- `home_slice` of R68. -/
def homeSlice (pa : Nat) : Nat := ((pa / 2 ^ 12) ^^^ (pa / 2 ^ 18) ^^^ (pa / 2 ^ 24)) % 64

/-- R67: firmware's 0x00 matches every frame; 0x7F matches no request of any other. -/
def ownerMatches (req owner : Nat) : Bool := decide (req = 0) || (decide (req = owner) && decide (owner ≠ Config.ownerNone))

def State.tile (σ : State) (t : Nat) : Tile := Tbl.get σ.tiles {} t

def State.setTile (σ : State) (t : Nat) (v : Tile) : State := { σ with tiles := Tbl.set σ.tiles t v }

/-- A byte of sealed memory. -/
def memFind (l : List Host.Cell) (a : Nat) : Byte :=
  match l with
  | [] => 0
  | (k, v) :: r => if k = a then v else memFind r a
/-- The canonical form of sealed memory: addresses rise, and no entry equals what an unlisted address reads as, zero. -/
def memWf : List Host.Cell → Bool
  | [] => true
  | [(_, v)] => decide (v ≠ 0)
  | (a, v) :: (b, w) :: r => decide (v ≠ 0) && decide (a < b) && memWf ((b, w) :: r)
/-- A byte of sealed memory replaced. -/
def memSet : List Host.Cell → Nat → Byte → List Host.Cell
  | [], a, v => if v = 0 then [] else [(a, v)]
  | (k, w) :: r, a, v =>
    if a = k then (if v = 0 then r else (a, v) :: r)
    else if a < k then (if v = 0 then (k, w) :: r else (a, v) :: (k, w) :: r)
    else (k, w) :: memSet r a v
/-- Sealed memory without the bytes of a range. -/
def memDrop (l : List Host.Cell) (lo hi : Nat) : List Host.Cell := l.filter fun c => !(decide (lo ≤ c.1) && decide (c.1 < hi))

/-- The byte an address reads as: the far cache's dirty byte, else the sealed tile's; a tile with Z = 1 reads as zeros (R70). -/
def State.memByte (σ : State) (pa : Nat) : Byte :=
  match Tbl.find? σ.fcache pa with
  | some b => b
  | none =>
    let b := memFind σ.mem pa
    if b ≠ 0 ∧ (σ.tile (tileOf pa)).z then 0 else b

/-- The sector is served without a fill: present, or written whole and dirty (R70). -/
def State.sectorHeld (σ : State) (pa : Nat) : Bool :=
  (σ.tile (tileOf pa)).present.contains (sectorOf pa)
    || (List.range 64).all fun i => (Tbl.find? σ.fcache (pa / 64 * 64 + i)).isSome

/-- The checks of R67 and R70 on one line: OWNER, then SEAL_FAIL where a fill is needed. -/
def State.lineCheck (σ : State) (req pa : Nat) : Option Nat :=
  let t := σ.tile (tileOf pa)
  if physLimit ≤ pa then some causeOwner
  else if !ownerMatches req (σ.frameRec (frameOf pa)).owner then some causeOwner
  else if σ.sectorHeld pa then
    match t.owner with
    | some o => if ownerMatches req o then none else some causeOwner
    | none => none
  else if t.bad then some causeSealFail else none

/-- The fill of a line: the whole tile's sectors are present under the frame's owner (R67, R71). -/
def State.fill (σ : State) (pa : Nat) : State :=
  if σ.sectorHeld pa then σ else
  let t := σ.tile (tileOf pa)
  let t' : Tile := { t with present := List.range 64, owner := some (σ.frameRec (frameOf pa)).owner }
  { σ with tiles := Tbl.set σ.tiles (tileOf pa) t' }

/-! ## Seal metadata (R69, R368, R369) -/

/-- Live key generations of a VF, the newest first (R368, R371). -/
def State.liveGens (σ : State) (vf : Nat) : List Nat := Tbl.get σ.kgens [0] vf
def State.newGen (σ : State) (vf : Nat) : Nat := (σ.liveGens vf).headD 0
/-- The generation in use: during a re-seal the older of the two (R366, R368). -/
def State.curGen (σ : State) (vf : Nat) : Nat := (σ.liveGens vf).getLastD 0

/-- What a frame's tile is sealed under, under a version and a generation of its owner. -/
def State.cipherAt (σ : State) (t ver gen : Nat) : Cipher :=
  let fr := σ.frameRec (t / 512)
  { owner := fr.owner, gen := gen, draw := Tbl.get σ.sealDraws σ.sealDraw (fr.owner * 256 + gen), era := fr.era, ver := ver }
/-- What the ciphertext of a tile in memory is sealed under. -/
def State.cipherOf (σ : State) (t : Nat) : Cipher := (σ.tile t).under.getD (σ.cipherAt t (σ.tile t).ver (σ.tile t).kgen)
/-- The ciphertext of a tile as memory holds it; the model keeps its plaintext (log 13). -/
def State.cipherText (σ : State) (t : Nat) : List (BitVec 128) :=
  let c := σ.cipherOf t
  let mine := σ.mem.filter fun x => decide (t * 4096 ≤ x.1) && decide (x.1 < t * 4096 + 4096)
  sealData (Config.sealKey c.draw c.owner c.gen false) (t / 512) t c.ver c.era ((List.range 4096).map fun i => memFind mine (t * 4096 + i))
/-- The TAG of a tile's metadata over what memory holds; of a zero tile, over no ciphertext (R69, R369). -/
def State.tagOf (σ : State) (t ver gen : Nat) (z : Bool) : BitVec 64 :=
  let c := σ.cipherAt t ver gen
  sealTag (Config.sealKey c.draw c.owner gen true) (t / 512) t ver c.era gen z (if z then [] else σ.cipherText t)

/-- The metadata words of HBM's tiles (R368): where they lie in the carve-out, and the tile a byte of it belongs to. -/
def metaBase : Nat := 0x7F80000000
def metaTile (pa : Nat) : Option Nat :=
  if metaBase ≤ pa ∧ (pa - metaBase) / 16 < (Config.hostFrame - 1024) * 512 then some ((pa - metaBase) / 16) else none
/-- A tile's metadata word (R69): TAG, VER, the low 7 bits of its generation, Z. -/
def State.metaWord (σ : State) (t : Nat) : Nat :=
  let x := σ.tile t
  (if x.bad then x.tag else σ.tagOf t x.ver x.kgen x.z).toNat * 2 ^ 64 + x.ver % 2 ^ 56 * 256 + x.kgen % 128 * 2 + (if x.z then 1 else 0)
/-- A metadata word replaced. The generation is the live one with its 7 bits (R368); the tile verifies where TAG is that of its ciphertext,
which stays as it was sealed (R69), and no line of it is in the far cache but dirty ones (log 82). -/
def State.setMeta (σ : State) (t w : Nat) : State :=
  let x := σ.tile t
  let live := (σ.liveGens (σ.frameRec (t / 512)).owner).find? fun g => decide (g % 128 = bits w 7 1)
  let gen := live.getD (bits w 7 1)
  let ver := bits w 63 8
  let z := w.testBit 0
  let tag := BitVec.ofNat 64 (w / 2 ^ 64)
  let c := σ.cipherOf t
  σ.setTile t { x with ver := ver, kgen := gen, z := z, tag := tag, present := [],
                       bad := !(live.isSome && decide (tag = σ.tagOf t ver gen z) && (z || !x.spoiled)),
                       under := if c = σ.cipherAt t ver gen then none else some c }
/-- n bytes of metadata words from an address, read and replaced. -/
def State.metaRead (σ : State) (pa n : Nat) : Nat :=
  let t := (pa - metaBase) / 16
  (List.range ((pa % 16 + n + 15) / 16)).foldr (fun k a => σ.metaWord (t + k) + 2 ^ 128 * a) 0 / 256 ^ (pa % 16) % 256 ^ n
def State.metaWrite (σ : State) (pa n v : Nat) : State :=
  let t := (pa - metaBase) / 16
  (List.range ((pa % 16 + n + 15) / 16)).foldl (fun (σ : State) k =>
    let w := σ.metaWord (t + k)
    let lo := if k = 0 then pa % 16 else 0
    let hi := min 16 (pa % 16 + n - 16 * k)
    let part := v * 256 ^ (pa % 16) / 2 ^ (128 * k) % 256 ^ hi / 256 ^ lo
    σ.setMeta (t + k) (w / 256 ^ hi * 256 ^ hi + part * 256 ^ lo + w % 256 ^ lo)) σ

/-- n bytes from an address, the first lowest (R6). -/
def State.memNat (σ : State) (pa n : Nat) : Nat :=
  (List.range n).foldr (fun i a => (σ.memByte (pa + i)).toNat + 256 * a) 0

/-- The lines n bytes at an address touch. -/
def linesOf (pa n : Nat) : List Nat :=
  if n = 0 then [] else (List.range ((pa + n - 1) / 64 - pa / 64 + 1)).map fun i => (pa / 64 + i) * 64

/-- The checks of R67 and R70 on n bytes. -/
def State.accessCheck (σ : State) (req pa n : Nat) (va : Word) : Chk Unit :=
  match (linesOf pa n).filterMap (σ.lineCheck req) with
  | [] => .ok ()
  | c :: _ => failWith c va

/-! ## Writes -/

/-- The condition of a watch (R192): 0 EQ, 1 NE, 2 GEU, 3 LTU. -/
def watchHolds (cond : Nat) (mem value : Nat) : Bool :=
  if cond = 0 then decide (mem = value) else if cond = 1 then decide (mem ≠ value)
  else if cond = 2 then decide (value ≤ mem) else decide (mem < value)

def watchEvent (w : Watch) : Due :=
  match w.packet with
  | some (vf, q, idx) => .packetComplete vf q idx
  | none => .continuationEnqueue (w.task.getD 0)

/-- The home slice re-tests every watch whose word was written (R192). -/
def State.retest (σ : State) (addrs : List Nat) : State :=
  let hit (w : Watch) : Bool :=
    addrs.any (fun a => decide (a / 8 = w.pa / 8)) && watchHolds w.cond (σ.memNat w.pa 8) w.value.toNat
  ({ σ with watches := σ.watches.filter fun w => !hit w }).pushAll ((σ.watches.filter hit).map watchEvent)

/-- A load reservation on a written byte is lost (R281, R83). -/
def Hart.unreserve (h : Hart) (addrs : List Nat) : Hart :=
  match h.res with
  | some (a, n) => if addrs.any (fun x => decide (a ≤ x ∧ x < a + n)) then { h with res := none } else h
  | none => h

def State.pokeByte (σ : State) (pa : Nat) (b : Byte) : State := { σ with fcache := Tbl.set σ.fcache pa b }

/-- A writeback, copy write or re-seal of a frame of a tracked VF sets its bit in the dirty bitmap (R412). -/
def State.markDirty (σ : State) (f : Nat) : State :=
  match Tbl.find? σ.trackAt (σ.frameRec f).owner with
  | none => σ
  | some a => σ.pokeByte (a + f / 8) (σ.memByte (a + f / 8) ||| BitVec.ofNat 8 (2 ^ (f % 8)))

/-- Bytes performed at their home slices, with what a write brings about: watches and reservations. -/
def State.writeQuiet (σ : State) (l : List (Nat × Byte)) : State :=
  let σ' := l.foldl (fun σ p => σ.pokeByte p.1 p.2) σ
  let addrs := l.map (·.1)
  ({ σ' with episodes := σ'.episodes.map fun (p : Nat × Episode) => (p.1, { p.2 with hart := p.2.hart.unreserve addrs }) }).retest addrs

/-- The home slices report a write performed to byte 0 of a descriptor's word 0 (R285): 1 arms, 4 cancels. -/
def armReport (vf : Nat) (l : List (Nat × Nat × Nat)) (a : Nat) (v : Byte) : List Due :=
  (l.filter fun r => decide (r.2.2 ≤ a) && decide (a < r.2.2 + 64 * r.2.1) && decide ((a - r.2.2) % 64 = 0)).filterMap fun r =>
    let ep := r.1 + (a - r.2.2) / 64
    if v = 1 then some (.episodeArm vf ep) else if v = 4 then some (.episodeCancel vf ep) else none

/-- Bytes performed at their home slices by anyone but the Rink's own rewriting of a descriptor. -/
def State.writeList (σ : State) (l : List (Nat × Byte)) : State :=
  (σ.writeQuiet l).pushAll (σ.eptMap.flatMap fun (m : Nat × List (Nat × Nat × Nat)) =>
    l.flatMap fun (p : Nat × Byte) => armReport m.1 m.2 p.1 p.2)

/-- The n bytes of a number, lowest first, at an address. -/
def bytesAt (pa n v : Nat) : List (Nat × Byte) :=
  (List.range n).map fun i => (pa + i, BitVec.ofNat 8 (v / 256 ^ i))
def State.writeNat (σ : State) (pa n v : Nat) : State := σ.writeList (bytesAt pa n v)

/-! ## The lot view (R85 to R88, R97) -/

/-- The arithmetic of R205 on n-bit words: 0 ADD, 1 AND, 2 OR, 3 XOR, 4 MIN, 5 MAX, 6 MINU, 7 MAXU, 8 SWAP. -/
def atomicInt (op n old v : Nat) : Nat :=
  let sg (x : Nat) : Int := if x.testBit (n - 1) then (x : Int) - 2 ^ n else x
  if op = 0 then (old + v) % 2 ^ n
  else if op = 1 then old &&& v
  else if op = 2 then old ||| v
  else if op = 3 then old ^^^ v
  else if op = 4 then (if sg old ≤ sg v then old else v)
  else if op = 5 then (if sg old ≤ sg v then v else old)
  else if op = 6 then (if old ≤ v then old else v)
  else if op = 7 then (if old ≤ v then v else old)
  else v

/-- The combine that covers a byte, with its word's address. -/
def Ctx.combAt (c : Ctx) (pa : Nat) : Option (Nat × Comb) :=
  match Tbl.find? c.combs (pa / 8 * 8) with
  | some k => if k.width = 8 ∨ pa / 4 * 4 = pa / 8 * 8 then some (pa / 8 * 8, k)
              else (Tbl.find? c.combs (pa / 4 * 4)).map fun k => (pa / 4 * 4, k)
  | none => (Tbl.find? c.combs (pa / 4 * 4)).map fun k => (pa / 4 * 4, k)

/-- A byte of G in the lot view: held store, pending combine, byte already read in the phase, memory. `f` gives a combine's
value in the lot view. -/
def State.lotByte (σ : State) (c : Ctx) (f : Comb → Nat) (pa : Nat) : Byte :=
  match Tbl.find? c.held pa with
  | some b => b
  | none =>
    match c.combAt pa with
    | some (a, k) => BitVec.ofNat 8 (f k / 256 ^ (pa - a))
    | none =>
      match Tbl.find? c.seen pa with
      | some b => b
      | none => σ.memByte pa

/-- A byte the lot view gives without reading memory. -/
def Ctx.hasByte (c : Ctx) (pa : Nat) : Bool :=
  (Tbl.find? c.held pa).isSome || (c.combAt pa).isSome || (Tbl.find? c.seen pa).isSome

/-- n bytes that the lot view gives without reading memory. -/
def Ctx.hasAll (c : Ctx) (pa n : Nat) : Bool := (List.range n).all fun i => c.hasByte (pa + i)

/-! ## Writes on other paths (R87, R94 to R97) -/

/-- Bytes of G by line and mask. -/
def maskHas (t : Tbl Nat) (pa : Nat) : Bool := (Tbl.get t 0 (pa / 64)).testBit (pa % 64)
def maskPut (t : Tbl Nat) (pa : Nat) : Tbl Nat := Tbl.set t (pa / 64) (Tbl.get t 0 (pa / 64) ||| 2 ^ (pa % 64))
def maskJoin (t u : Tbl Nat) : Tbl Nat := u.foldl (fun t p => Tbl.set t p.1 (Tbl.get t 0 p.1 ||| p.2)) t
def maskLess (t u : Tbl Nat) : Tbl Nat :=
  (t.map fun p => (p.1, p.2 ^^^ (p.2 &&& Tbl.get u 0 p.1))).filter fun p => decide (p.2 ≠ 0)

/-- Writes of these bytes on another path are ordered before the slot's next access (R87): a byte the lot has read is read anew, a
pending combine acts on what memory then holds (R97), and no other wait orders the same writes again. -/
def State.orderBytes (σ : State) (core slot : Nat) (ls : List (Tbl Nat)) : State :=
  let u := ls.foldl maskJoin []
  if u.isEmpty then σ else
  let c := σ.ctxOf core slot
  let base (a : Nat) (k : Comb) : Word :=
    BitVec.ofNat 64 ((List.range k.width).foldr (fun i v =>
      (if maskHas u (a + i) then (σ.memByte (a + i)).toNat else k.base.toNat / 256 ^ i % 256) + 256 * v) 0)
  let less (l : Tbl (Tbl Nat)) : Tbl (Tbl Nat) := (l.map fun p => (p.1, maskLess p.2 u)).filter fun p => !p.2.isEmpty
  σ.setCtx core slot
    { c with seen := c.seen.filter fun p => !maskHas u p.1, combs := c.combs.map fun p => (p.1, { p.2 with base := base p.1 p.2 }),
             tagLines := less c.tagLines, rings := c.rings.map fun p => (p.1, { p.2 with marks := less p.2.marks }) }

/-- The same context as the vector engine sees it (R87): its reads, the combines' words it sees, the writes that nothing has ordered before
it yet. -/
def Ctx.swapViews (c : Ctx) : Ctx :=
  { c with seen := c.vseen, vseen := c.seen, combs := c.combs.map fun p => (p.1, { p.2 with base := p.2.vbase, vbase := p.2.base }),
           tagLines := c.vTagLines, vTagLines := c.tagLines, rings := c.rings.map fun p => (p.1, { p.2 with marks := p.2.vmarks, vmarks := p.2.marks }) }
def State.swapViews (σ : State) (core slot : Nat) : State := σ.setCtx core slot (σ.ctxOf core slot).swapViews

/-- A new phase begins without a commit (R91, R92): every byte is read anew, and a pending combine acts on what memory holds. -/
def State.newPhase (σ : State) (core slot : Nat) : State :=
  let c := σ.ctxOf core slot
  let base (a : Nat) (k : Comb) : Word := BitVec.ofNat 64 (σ.memNat a k.width)
  σ.setCtx core slot { c with seen := [], vseen := [], combs := c.combs.map fun p => (p.1, { p.2 with base := base p.1 p.2, vbase := base p.1 p.2 }) }

/-- The line is counted against R86, with the virtual address it is written at; none when it would be line 8193. -/
def Ctx.addLine (c : Ctx) (pa : Nat) (va : Word) : Option Ctx :=
  let l := pa / 64
  let c := { c with lineVas := Tbl.set c.lineVas (va.toNat / 64) l }
  if c.lines.contains l then some c
  else if Config.commitLines ≤ c.lines.length then none
  else some { c with lines := l :: c.lines }
/-- A virtual address of a byte of a held line (R377). -/
def Ctx.heldVa (c : Ctx) (pa : Nat) : Word :=
  match List.find? (fun (p : Nat × Nat) => decide (p.2 = pa / 64)) c.lineVas with
  | some p => BitVec.ofNat 64 (p.1 * 64 + pa % 64)
  | none => 0

/-! ## A, C, W and L (R60 to R63) -/

def insertNat (l : List Nat) (x : Nat) : List Nat := if l.contains x then l else x :: l

def aKey (core : Nat) (c : Ctx) (off : Nat) : Nat := core * 2 ^ 24 + (c.abase + off) % 2 ^ 24
def wKey (core : Nat) (c : Ctx) (row col : Nat) : Nat := core * 2 ^ 22 + (c.wbase + row) % 2 ^ 14 * 256 + col
def cKey (core off : Nat) : Nat := core * 2 ^ 21 + off / 4

/-- A byte of a slot's A window. -/
def State.aByte (σ : State) (core slot off : Nat) : Byte := Tbl.get σ.abuf 0 (aKey core (σ.ctxOf core slot) off)
def State.aNat (σ : State) (core slot off n : Nat) : Nat :=
  (List.range n).foldr (fun i a => (σ.aByte core slot (off + i)).toNat + 256 * a) 0
/-- A write of bytes into a slot's A window sets the live bit of each granule it touches (R63). -/
def State.aWrite (σ : State) (core slot off : Nat) (bs : List Byte) : State :=
  let c := σ.ctxOf core slot
  let l : List (Nat × Byte) := bs.zipIdx.map fun p => (off + p.2, p.1)
  let σ := { σ with abuf := l.foldl (fun (t : Tbl Byte) (p : Nat × Byte) => Tbl.set t (aKey core c p.1) p.2) σ.abuf }
  σ.setCtx core slot { c with liveA := l.foldl (fun (g : List Nat) (p : Nat × Byte) => insertNat g (p.1 / 65536)) c.liveA }
def natBytes (n v : Nat) : List Byte := (List.range n).map fun i => BitVec.ofNat 8 (v / 256 ^ i)

/-- A VF's W generation, 8 bits (R372); it steps with each PRINCE key that is drawn (log 88). -/
def State.wGen (σ : State) (vf : Nat) : BitVec 8 := BitVec.ofNat 8 (Tbl.get σ.princeKey (0, true) vf).1
/-- The key in a slot's key slot, by its VF and its number, with which its W generation goes (R19, R372); 0, 0 where none is loaded. -/
def State.slotKey (σ : State) (core slot : Nat) : Nat × Nat := Tbl.get (σ.coreOf core).keys (0, 0) slot

/-- A word of a slot's W window, read under the key of the slot: what was written under the same key; under another a free value
(log 80). A cleared word is zero. -/
def State.wWord (σ : State) (core slot row col : Nat) : Word :=
  let i := wKey core (σ.ctxOf core slot) row col
  match Tbl.find? σ.wbuf i with
  | none => 0
  | some v =>
    let k := Tbl.get σ.wkeys (0, 0) i
    if k = σ.slotKey core slot then v else Config.otherKey i k (σ.slotKey core slot) v
/-- A write of a word of a slot's W window, under the key of the slot, sets the granule's live bit. -/
def State.wWrite (σ : State) (core slot row col : Nat) (v : Word) : State :=
  let c := σ.ctxOf core slot
  let i := wKey core c row col
  let σ := { σ with wbuf := Tbl.set σ.wbuf i v, wkeys := Tbl.set σ.wkeys i (σ.slotKey core slot) }
  σ.setCtx core slot { c with liveW := insertNat c.liveW (row / 32) }

/-- A C element by its byte offset. -/
def State.cElem (σ : State) (core off : Nat) : BitVec 32 := Tbl.get σ.cbuf 0 (cKey core off)
def State.cWrite (σ : State) (core off : Nat) (v : BitVec 32) : State :=
  { σ with cbuf := Tbl.set σ.cbuf (cKey core off) v }

/-- Bytes of the context's L window. -/
def Ctx.lNat (c : Ctx) (off n : Nat) : Nat :=
  (List.range n).foldr (fun i a => (Tbl.get c.lmem 0 (off + i)).toNat + 256 * a) 0
def Ctx.lWrite (c : Ctx) (off n v : Nat) : Ctx :=
  { c with lmem := (bytesAt off n v).foldl (fun t p => Tbl.set t p.1 p.2) c.lmem }

/-! ## The accumulator owner table (R58) -/

def State.accCode (σ : State) (core slab : Nat) : Nat := Tbl.get σ.accown 7 (core * 2048 + slab)
def State.setCode (σ : State) (core slab code : Nat) : State :=
  { σ with accown := Tbl.set σ.accown (core * 2048 + slab) code }
/-- A slab's 1024 elements set to +0.0. -/
def State.zeroSlab (σ : State) (core slab : Nat) : State :=
  { σ with cbuf := σ.cbuf.filter fun p => decide (p.1 / 1024 ≠ core * 2048 + slab) }

/-- `owner_touch`: the claim of a free slab, or ACC_FOREIGN. -/
def State.ownerTouch (σ : State) (core slot slab : Nat) : Chk State :=
  let code := σ.accCode core slab
  if code = slot then .ok σ
  else if code = 7 then .ok ((σ.zeroSlab core slab).setCode core slab slot)
  else failWith causeAccForeign (BitVec.ofNat 64 slab)

def State.touchAll (σ : State) (core slot : Nat) : List Nat → Chk State
  | [] => .ok σ
  | j :: r =>
    match σ.ownerTouch core slot j with
    | .ok σ => State.touchAll σ core slot r
    | .error e => .error e

/-! ## Rings (R75, R76) -/

def Ring.scount (r : Ring) : Nat := bits r.entry.toNat 48 36
def Ring.ssz (r : Ring) : Nat := bits r.entry.toNat 35 24
def Ring.base (r : Ring) : Nat := bits r.entry.toNat 23 0
def Ring.configured (r : Ring) : Bool := decide (r.scount ≠ 0)
/-- Byte offset of slot i in the A window. -/
def Ring.slotAt (r : Ring) (i : Nat) : Nat := r.base + i % r.scount * (64 * r.ssz)
def Ring.free (r : Ring) : Nat := r.scount - (r.claim - r.head).toNat
def Ring.full (r : Ring) : Nat := (r.tail - r.head).toNat
def Ring.doClaim (r : Ring) (n : Nat) : Ring := { r with claim := r.claim + BitVec.ofNat 32 n }
/-- The loop of `fill_done`. -/
def Ring.settle : Nat → Ring → Ring
  | 0, r => r
  | n + 1, r =>
    if r.filled.contains (r.tail.toNat % r.scount) ∧ r.tail ≠ r.claim then
      Ring.settle n { r with filled := r.filled.filter (fun i => decide (i ≠ r.tail.toNat % r.scount)), tail := r.tail + 1 }
    else r
/-- `fill_done`, with the bytes of G its producer wrote before. -/
def Ring.fillWith (r : Ring) (i : Nat) (m : Tbl Nat) : Ring :=
  let k := i % r.scount
  let put (t : Tbl (Tbl Nat)) : Tbl (Tbl Nat) := if m.isEmpty then Tbl.del t k else Tbl.set t k m
  Ring.settle r.scount { r with filled := insertNat r.filled k, marks := put r.marks, vmarks := put r.vmarks }
def Ring.fillDone (r : Ring) (i : Nat) : Ring := r.fillWith i []
/-- What filled the next n full slots had written of G before (R94). -/
def Ring.marked (r : Ring) (n : Nat) : List (Tbl Nat) :=
  (List.range n).map fun i => Tbl.get r.marks [] ((r.head + BitVec.ofNat 32 i).toNat % r.scount)
/-- A satisfied wait for n slots of a ring orders what their producers had written (R94). -/
def State.orderRing (σ : State) (core slot c n : Nat) : State := σ.orderBytes core slot (((σ.ctxOf core slot).ring c).marked n)
def Ring.doAdvance (r : Ring) (n : Nat) : Ring := { r with head := r.head + BitVec.ofNat 32 n }

/-- The checks of R75 on a written entry. A count beyond the field's range 1 to 4096 traps as zero does (log 81). -/
def ringEntryOk (e asize : Nat) : Bool :=
  decide (bits e 63 49 = 0) && decide (bits e 48 36 ≠ 0) && decide (bits e 48 36 ≤ 4096) && decide (bits e 35 24 ≠ 0)
    && decide (bits e 5 0 = 0) && decide (bits e 23 0 + bits e 48 36 * 64 * bits e 35 24 ≤ asize)

end Sys2Proof.Machine
end

