-- ==== Sys2Proof/Machine/Notices.lean ====
section
/-!
DEFINITION. The registers of the BARs (21 R344, 22 R358) as one table, with their reset values, and the notice rings of the VFs
and of the hypervisor (R345, R358).
-/

namespace Sys2Proof.Machine

/-- A register's value at reset: the fields of its own table in the spec, zero elsewhere (INVENTORY.md). -/
def barReset (b off : Nat) : Word :=
  if b = 0 then
    if off = 0x3060 then BitVec.ofNat 64 (0x7F * 2 ^ 40)
    else if 0x5000 ≤ off ∧ off < 0x5100 then BitVec.ofNat 64 ((off - 0x5000) / 8 * 256 + 1)
    else if 0x5300 ≤ off ∧ off < 0x5400 then 1
    else if 0x5500 ≤ off ∧ off < 0x5D00 ∧ off % 64 = 0 then 16
    else if off = 0x6100 then BitVec.ofNat 64 (30 * 2 ^ 24 + 3600)
    else 0
  else if off = 0 then BitVec.ofNat 64 (2000000 * 2 ^ 32 + 64 * 2 ^ 24 + 64 * 2 ^ 16)
  else if off = 0x48 then BitVec.ofNat 64 0x0000101010101010
  else 0

/-- A BAR register: bar 0 is the PF's BAR0, bar n that of VF n. -/
def State.reg (σ : State) (b off : Nat) : Word := Tbl.get σ.bar (barReset b off) (b * 2 ^ 24 + off)

/-- The bits of a register that are not reserved (R10): those of its own table in the spec. The model keeps QCTL's HALTED with its queue
and GO bits nowhere. -/
def regBits (b off : Nat) : Nat :=
  if b = 0 then
    if 0x2000 ≤ off ∧ off < 0x2200 then 0xFF
    else if off = 0x2400 then 0xF000000000FF3FFF
    else if off = 0x3008 then 0x0000FFFE00FF03C6
    else if off = 0x3048 then 0xFFFFFFFF0003F01F
    else if off = 0x3060 then 0x8000FFFFFFFFFFFF
    else if off = 0x3070 then 0x800000FF003FFFFF
    else if off = 0x4000 then 0xFFFF
    else if off = 0x4008 then 0x800000000000FFFF
    else if off = 0x4030 then 0xF003FC0F0FFFFFFF
    else if 0x5000 ≤ off ∧ off < 0x5100 then 0x8000000000001F01
    else if 0x5100 ≤ off ∧ off < 0x5300 then 0x11F
    else if off = 0x5400 then 0xF000000000FF000F
    else if 0x5500 ≤ off ∧ off < 0x5D00 ∧ off % 64 = 0 then 0x11F
    else if 0x5500 ≤ off ∧ off < 0x5D00 ∧ off % 64 = 0x10 then 0x000000FFFFFF001F
    else if off = 0x6010 then 0xF00000000000010E
    else if off = 0x6100 then 0xFF000FFF
    else if 0x8000 ≤ off ∧ off % 1024 < 512 then 0x8000000001FF01FF
    else 2 ^ 64 - 1
  else if off = 8 then 2 ^ 48 - 1
  else if off = 0x18 then 0xFFFFFFFF0003F01F
  else if 0x1000 ≤ off ∧ off < 0x2000 ∧ off % 64 = 8 then 0x3FFFF
  else 2 ^ 64 - 1

/-- A register takes a value; its reserved bits stay zero (R10). -/
def State.setReg (σ : State) (b off : Nat) (v : Word) : State :=
  { σ with bar := Tbl.set σ.bar (b * 2 ^ 24 + off) (v &&& BitVec.ofNat 64 (regBits b off)) }

/-- FMODE bit n of a VF: the host-assisted mode of function n (R354). -/
def State.hostMode (σ : State) (vf n : Nat) : Bool := (σ.reg 0 (0x2000 + 8 * (vf - 1))).getLsbD n

/-- One more notice dropped, saturating (R345). -/
def dropCount (nctl : Word) : Word :=
  if nctl.toNat / 2 ^ 32 = 2 ^ 32 - 1 then nctl else nctl + BitVec.ofNat 64 (2 ^ 32)

/-- The queue table of a VF (R344). -/
def State.queueTable (σ : State) (vf : Nat) : Table := Tbl.get σ.tables {} (vf * 4 + 1)

/-- A G address of the front end for a VF: queue table, owner and seal checks (R344, R345). -/
def State.feAddr (σ : State) (vf : Nat) (va : Word) (n : Nat) (kind : Kind) : Chk Nat :=
  match xlate (σ.queueTable vf) va kind .near with
  | .error e => .error e
  | .ok x =>
    match σ.accessCheck vf x.pa n va with
    | .error e => .error e
    | .ok _ => .ok x.pa

/-- A word of 32 bits of a function's MSI-X table, in the standard layout: address low, address high, data, vector control, whose bit 0
masks the vector, as it does after reset. -/
def State.msixWord (σ : State) (vf i : Nat) : BitVec 32 := Tbl.get σ.msix (if i % 4 = 3 then 1 else 0) (vf * 256 + i)
def State.msixMasked (σ : State) (vf v : Nat) : Bool := (σ.msixWord vf (4 * v + 3)).getLsbD 0
/-- An MSI-X vector is raised; a masked one is withheld, and pending (R344, R345, log 98). -/
def State.raiseIrq (σ : State) (vf v : Nat) : State :=
  if σ.msixMasked vf v then { σ with msixPending := Tbl.set σ.msixPending (vf * 64 + v) true } else { σ with irqs := σ.irqs ++ [(vf, v)] }

/-- A notice entry (R345): CODE, QUEUE, bytes 4-5, DETAIL and TIME. -/
def noticeWord (code queue node detail time : Nat) : Nat :=
  code % 2 ^ 16 + queue % 2 ^ 8 * 2 ^ 16 + node % 2 ^ 16 * 2 ^ 32 + detail % 2 ^ 64 * 2 ^ 64 + time % 2 ^ 64 * 2 ^ 128

/-- Write one entry to the ring whose registers lie at `base` of a BAR, at the address `place` gives it. -/
def State.ringPost (σ : State) (b base rk : Nat) (place : Word → Chk Nat) (entry : Nat) (vf : Nat) : State :=
  let nctl := σ.reg b (base + 8)
  let n := bits nctl.toNat 4 1
  if !nctl.getLsbD 0 ∨ n < 4 then σ else
  let w := Tbl.get σ.nwrite 0 rk
  if (σ.reg b (base + 16)).toNat + 2 ^ n < w + 1 then σ.setReg b (base + 8) (dropCount nctl) else
  match place (σ.reg b base + BitVec.ofNat 64 (32 * (w % 2 ^ n))) with
  | .error _ => σ.setReg b (base + 8) (dropCount nctl)
  | .ok pa =>
    let σ := σ.writeNat pa 32 entry
    ({ σ with nwrite := Tbl.set σ.nwrite rk (w + 1) } : State).raiseIrq vf (bits nctl.toNat 17 12)

/-- A notice to the hypervisor ring; bytes 4-5 name the VF, and its addresses are host-physical (R358, log 6). -/
def State.hyperNotice (σ : State) (code vf detail : Nat) : State :=
  σ.ringPost 0 0x3040 0
    (fun pa => if pa.toNat + 32 ≤ physLimit then .ok pa.toNat else failWith causeOutside pa)
    (noticeWord code 0xFF vf detail σ.time) 0

/-- A notice to a VF's ring, without the SEAL_FAIL that the ring's own entry may meet. -/
def State.vfNotice (σ : State) (vf code queue node detail : Nat) : State :=
  if 1 ≤ vf ∧ vf ≤ 64 then
    σ.ringPost vf 0x10 vf (fun va => σ.feAddr vf va 32 .write) (noticeWord code queue node detail σ.time) vf
  else σ

/-- SEAL_FAIL to both rings (R370): hypervisor with the tile's physical address, owner with its guest address. -/
def State.sealNotice (σ : State) (pa : Nat) : State :=
  let f := σ.frameRec (frameOf pa)
  let σ := σ.hyperNotice 18 f.owner (pa / 4096 * 4096)
  σ.vfNotice f.owner 18 0xFF 0xFFFF (f.gframe * 2 ^ 21 + pa / 4096 % 512 * 4096)

/-- The refused fills of a list of lines, one SEAL_FAIL for each tile that fails (R70, R370). -/
def State.sealNotices (σ : State) (pas : List Nat) : State :=
  ((pas.filter fun pa => (σ.tile (tileOf pa)).bad && !σ.sectorHeld pa).map fun pa => tileOf pa * 4096).eraseDups.foldl
    (fun σ pa => σ.sealNotice pa) σ

/-- Where an entry of a table maps an address, whatever the entry allows. -/
def Table.placeOf (t : Table) (va : Word) : List Nat :=
  let e := Tbl.get t.entries 0 (va.toNat / 2 ^ granLog t)
  if entV e ∧ entClass e ≠ 2 then [entFrame e * 2 ^ 21 + va.toNat % 2 ^ granLog t] else []

/-- SEAL_FAIL for the fill a lot's or firmware's access at an address was refused (R370). -/
def State.sealNoticeAt (σ : State) (core ctx : Nat) (va : Word) : State :=
  σ.sealNotices (if ctx = Config.fwCtx then [va.toNat] else (σ.lotTable (σ.vfOf core ctx)).placeOf va)
/-- The same for an access of the front end or the Rink through the queue table. -/
def State.feSealNotice (σ : State) (vf : Nat) (va : Word) : State := σ.sealNotices ((σ.queueTable vf).placeOf va)

/-- The address of a ring's next entry. -/
def State.ringNext (σ : State) (vf : Nat) : Word :=
  σ.reg vf 0x10 + BitVec.ofNat 64 (32 * (Tbl.get σ.nwrite 0 vf % 2 ^ bits (σ.reg vf 0x18).toNat 4 1))

/-- A notice to a VF's ring. One dropped on its entry's seal check is a failed fill of its own (R345, R370); the notice of that
failure to the same ring is dropped with it. -/
def State.notice (σ : State) (vf code queue node detail : Nat) : State :=
  let n := bits (σ.reg vf 0x18).toNat 4 1
  let full : Bool := decide ((σ.reg vf 0x20).toNat + 2 ^ n < Tbl.get σ.nwrite 0 vf + 1)
  let va := σ.ringNext vf
  let σ' := σ.vfNotice vf code queue node detail
  if vf = 0 ∨ 64 < vf ∨ !(σ.reg vf 0x18).getLsbD 0 ∨ n < 4 ∨ full then σ' else
  match σ.feAddr vf va 32 .write with
  | .error e => if e.cause = causeSealFail then σ'.feSealNotice vf va else σ'
  | .ok _ => σ'

/-- PAGE_WANTED for the entry an address of a lot goes through, once per entry until its next switch (R367). -/
def State.pageWant (σ : State) (vf kind : Nat) (va : Word) (cow : Bool) : State :=
  let t := Tbl.get σ.tables {} (vf * 4 + kind)
  let i := va.toNat / 2 ^ granLog t
  if σ.pageWanted.contains (vf, kind, i) then σ
  else
    let σ := σ.notice vf 19 0xFF 0xFFFF (i % 2 ^ 15 + kind * 2 ^ 16 + (if cow then 2 ^ 20 else 0))
    { σ with pageWanted := (vf, kind, i) :: σ.pageWanted }

end Sys2Proof.Machine
end

