-- ==== Sys2Proof/Machine/Areas.lean ====
section
/-!
DEFINITION. A context area as bytes of memory: where it lies (23 R381), what its layout puts there (R382), the fault record (R377),
the checkpoint record (19 R325) and the copies of spilled slabs (23 R383). Where the layout fixes no bytes, none are written (log 28).
-/

namespace Sys2Proof.Machine

/-! ## Where it lies (R381) -/

/-- Area i of a VF's pool: CTXBASE + i × size. -/
def State.areaPa (σ : State) (vf i : Nat) : Nat :=
  (σ.reg 0 (0x3800 + 16 * (vf - 1))).toNat + i * (bits (σ.reg 0 (0x3808 + 16 * (vf - 1))).toNat 47 32 * 65536)

/-- The context area of a task, if it has one: where CTXSV was told to put it, else the pool's. -/
def State.areaOf (σ : State) (t : Nat) : Option Nat :=
  let tk := σ.taskOf t
  match tk.areaAt with
  | some a => some a
  | none => tk.ctxId.map fun i => σ.areaPa (σ.nodeOf tk.node).vf i
/-- The area of the task a slot holds. -/
def State.slotArea (σ : State) (core slot : Nat) : Option Nat := (σ.ctxOf core slot).task.bind σ.areaOf

/-- Firmware's writes to an area, of the bytes that change. -/
def State.areaPut (σ : State) (l : List (Nat × Byte)) : State :=
  σ.writeList (l.filter fun p => decide (p.1 < physLimit) && decide (σ.memByte p.1 ≠ p.2))

/-! ## What it holds -/

/-- Fields at an address: offset, bytes and value of each. -/
def fieldBytes (base : Nat) (l : List (Nat × Nat × Nat)) : List (Nat × Byte) := l.flatMap fun f => bytesAt (base + f.1) f.2.1 f.2.2

/-- The fault record (R377) without TAGCAUSE. -/
def faultFields (r : FaultRec) : List (Nat × Nat × Nat) :=
  [(0x100, 8, r.cause % 256 + (if r.fatal then 2 ^ 8 else 0) + (if r.held then 2 ^ 9 else 0) + r.src % 256 * 2 ^ 16),
   (0x108, 8, r.pc.toNat), (0x110, 8, r.upc % 1024), (0x118, 8, r.detail.toNat), (0x120, 2, r.fcause), (0x122, 2, r.tcode), (0x124, 4, 0),
   (0x128, 8, r.time), (0x130, 16, 0)]
/-- TAGCAUSE (R377), one byte a tag. -/
def tagFields (c : Ctx) : List (Nat × Nat × Nat) := (List.range 64).map fun t => (0x140 + t, 1, Tbl.get c.tagcause 0 t)

/-- The registers of a checkpoint record, each a word: the scalar and branch registers of the mask, ascending, then the flags. -/
def Checkpoint.words (k : Checkpoint) : List Nat :=
  let flags := (List.range 8).foldl (fun n i => n + (if k.mask.getLsbD (40 + i) && Tbl.get k.f false i then 2 ^ i else 0)) 0
  ((List.range 32).filter fun i => decide (1 ≤ i) && k.mask.getLsbD i).map (fun i => (Tbl.get k.s 0 i).toNat)
    ++ ((List.range 8).filter fun i => k.mask.getLsbD (32 + i)).map (fun i => (Tbl.get k.b 0 i).toNat)
    ++ (if bits k.mask.toNat 47 40 = 0 then [] else [flags])
/-- A checkpoint or continuation record (R325). -/
def checkFields (k : Checkpoint) : List (Nat × Nat × Nat) :=
  [(0x180, 8, k.pc.toNat), (0x188, 8, k.npc.toNat), (0x190, 8, k.mask.toNat), (0x198, 1, k.pslots), (0x199, 1, k.kind), (0x19A, 6, 0)]
    ++ k.words.zipIdx.map fun p => (0x1A0 + 8 * p.2, 8, p.1)

/-- The registers at 0x300, in the order R382 names them; which words they take is the model's choice (log 28). -/
def regFields (c : Ctx) : List (Nat × Nat × Nat) :=
  (List.range 32).map (fun i => (0x300 + 8 * i, 8, (if i = 0 then (0 : Word) else Tbl.get c.s 0 i).toNat))
    ++ (List.range 8).map (fun i => (0x400 + 8 * i, 8, (Tbl.get c.b 0 i).toNat))
    ++ [(0x440, 8, (List.range 8).foldl (fun n i => n + if Tbl.get c.f false i then 2 ^ i else 0) 0), (0x448, 8, c.pc.toNat),
        (0x450, 8, c.npc.toNat), (0x458, 8, c.pslots), (0x460, 8, c.vshape.toNat), (0x468, 8, c.accsel.toNat)]

/-- The part of a context, or of its snapshot, that has one layout at 0x700 and at 0x1300. -/
structure AreaBlock where
  rings : Tbl Ring := []
  q : Tbl (BitVec 128) := []
  tx : Tbl (BitVec 256) := []
  cv : Tbl (BitVec 256) := []
  rv : Tbl Rv := []
  tagdone : Word := 0
  tagerr : Word := 0
  out : Tbl Nat := []
  res : Tbl Nat := []
def Ctx.block (c : Ctx) : AreaBlock :=
  { rings := c.rings, q := c.q, tx := c.tx, cv := c.cv, rv := c.rv, tagdone := c.tagdone, tagerr := c.tagerr, out := c.out, res := c.res }
def Snap.block (c : Snap) : AreaBlock :=
  { rings := c.rings, q := c.q, tx := c.tx, cv := c.cv, rv := c.rv, tagdone := c.tagdone, tagerr := c.tagerr, out := c.out, res := c.res }
def Ctx.withBlock (c : Ctx) (b : AreaBlock) : Ctx :=
  { c with rings := b.rings, q := b.q, tx := b.tx, cv := b.cv, rv := b.rv, tagdone := b.tagdone, tagerr := b.tagerr, out := b.out, res := b.res }
def Snap.withBlock (c : Snap) (b : AreaBlock) : Snap :=
  { c with rings := b.rings, q := b.q, tx := b.tx, cv := b.cv, rv := b.rv, tagdone := b.tagdone, tagerr := b.tagerr, out := b.out, res := b.res }
/-- Its fields, in the order R382 names them: entry and counters of a ring in 24 bytes, the other registers as wide as they are, each
tag's two counters in a byte each (log 28). -/
def AreaBlock.fields (b : AreaBlock) (o : Nat) : List (Nat × Nat × Nat) :=
  (List.range 64).flatMap (fun i =>
      let r := Tbl.get b.rings {} i
      [(o + 24 * i, 8, r.entry.toNat), (o + 24 * i + 8, 4, r.claim.toNat), (o + 24 * i + 12, 4, r.tail.toNat), (o + 24 * i + 16, 4, r.head.toNat)])
    ++ (List.range 16).map (fun i => (o + 1536 + 16 * i, 16, (Tbl.get b.q 0 i).toNat))
    ++ (List.range 16).map (fun i => (o + 1792 + 32 * i, 32, (Tbl.get b.tx 0 i).toNat))
    ++ (List.range 8).map (fun i => (o + 2304 + 32 * i, 32, (Tbl.get b.cv 0 i).toNat))
    ++ (List.range 8).map (fun i => (o + 2560 + 8 * i, 8, let r := Tbl.get b.rv {} i; r.mask.toNat + r.marker.toNat * 2 ^ 16))
    ++ [(o + 2624, 8, b.tagdone.toNat), (o + 2632, 8, b.tagerr.toNat)]
    ++ (List.range 64).map fun t => (o + 2640 + 2 * t, 2, Tbl.get b.out 0 t + Tbl.get b.res 0 t * 256)

/-- The header (log 28): format 1.0, the window sizes, the saved lease masks with the plan that gives their shapes, and the live
granules. -/
def Area.headerFields (a : Area) : List (Nat × Nat × Nat) :=
  let bitsOf (l : List Nat) : Nat := l.eraseDups.foldl (fun n g => n + 2 ^ g) 0
  [(0, 8, 0x10), (8, 8, a.ctx.asize), (16, 8, a.ctx.wsize), (24, 8, a.lease), (32, 8, a.plan), (64, 32, bitsOf a.ctx.liveA), (96, 64, bitsOf a.ctx.liveW)]

/-- A weight set's reference: its stream's number plus 1, and the tile's index above. -/
def Weights.ref (w : Weights) : Nat := (w.src.map fun p => p.1 + 1 + p.2 * 2 ^ 32).getD 0
/-- An engine's record (log 28): micro-PC, loop indices, the cursors of slots and of pixels, generator, weight references and the
parameters of its links with their generators, the registers bound to its program, its cancelled tags, and its queue. -/
def engFields (o : Nat) (v : Eng) (f : Frag) (l : Link) (gen3 : BitVec 32) : List (Nat × Nat × Nat) :=
  let r := v.run.getD {}
  [(o, 8, r.upc)] ++ (List.range 6).map (fun k => (o + 8 + 8 * k, 8, r.idx.getD k 0)) ++ (List.range 16).map (fun k => (o + 64 + 8 * k, 8, Tbl.get r.pix 0 k))
    ++ [(o + 192, 8, v.gen.toNat), (o + 200, 8, f.act.ref), (o + 208, 8, f.nxt.ref), (o + 216, 8, l.bound.toNat),
        (o + 224, 8, l.mode + l.fmt * 2 ^ 8 + l.qtype * 2 ^ 16 + (if l.clamp then 2 ^ 24 else 0)), (o + 232, 4, l.gen.toNat), (o + 236, 4, gen3.toNat),
        (o + 240, 8, r.prog.vshape.toNat), (o + 248, 8, r.prog.cancelled.toNat)]
    ++ (List.range 64).map (fun k => (o + 3840 + 4 * k, 4, Tbl.get r.cur 0 k))
    ++ (l.scale.zipIdx.take 256).map (fun p => (o + 256 + 4 * p.2, 4, p.1.toNat)) ++ (l.bias.zipIdx.take 256).map (fun p => (o + 1280 + 4 * p.2, 4, p.1.toNat))
    ++ (List.range 16).map (fun i => (o + 2304 + 16 * i, 16, (Tbl.get r.prog.q 0 i).toNat))
    ++ (List.range 16).map (fun i => (o + 2560 + 32 * i, 32, (Tbl.get r.prog.tx 0 i).toNat))
    ++ (List.range 8).map (fun i => (o + 3072 + 32 * i, 32, (Tbl.get r.prog.cv 0 i).toNat))
    ++ (v.queue.zipIdx.take 32).flatMap fun p =>
      let k := match p.1.kind with
        | .program g => (1, g.base.toNat + 4 * g.entry)
        | .marker m n => (if n then 3 else 2, m.toNat)
        | .vshape x => (4, x.toNat)
        | .fence i => (5, i)
      [(o + 3328 + 16 * p.2, 8, k.1 + (if p.1.held then 2 ^ 8 else 0) + p.1.id * 2 ^ 16), (o + 3336 + 16 * p.2, 8, k.2)]
/-- The 13 engine records of an area, in the order R382 names the engines. -/
def Area.engineFields (a : Area) (slot : Nat) : List (Nat × Nat × Nat) :=
  let link (k : Nat) : Link := if k = 3 then {} else Tbl.get a.links {} k
  let gen3 (k : Nat) : BitVec 32 := if k = 1 then (Tbl.get a.links {} 3).gen else 0
  engFields 0x23000 (Tbl.get a.engs {} slot) {} {} 0
    ++ [0, 1, 2, 3].flatMap (fun k => engFields (0x24000 + 4096 * k) (Tbl.get a.engs {} (k + 4)) (Tbl.get a.frags {} k) (link k) (gen3 k))
    ++ (List.range 8).flatMap fun n => engFields (0x28000 + 4096 * n) (Tbl.get a.engs {} (n + 8)) {} {} 0

/-- The commit buffer (R382): lines in the order in which they were first written, then their addresses. -/
def Ctx.commitFields (c : Ctx) : List (Nat × Nat × Nat) :=
  c.lines.reverse.zipIdx.flatMap fun p =>
    (0x8B0000 + 8 * p.2, 8, 64 * p.1) :: (c.held.filter fun h => decide (h.1 / 64 = p.1)).map fun h => (0x830000 + 64 * p.2 + h.1 % 64, 1, h.2.toNat)

/-- The spill bitmap: a bit for each slab whose copy the area holds. -/
def spillFields (l : Tbl (List (BitVec 32))) : List (Nat × Nat × Nat) :=
  (List.range 256).map fun i =>
    (0x1F00 + i, 1, (List.range 8).foldl (fun n k => n + if (Tbl.find? l (8 * i + k)).isSome then 2 ^ k else 0) 0)
/-- The copy of a spilled slab. -/
def slabBytes (base slab : Nat) (l : List (BitVec 32)) : List (Nat × Byte) :=
  l.zipIdx.flatMap fun p => bytesAt (base + 0x30000 + 4096 * slab + 4 * p.2) 4 p.1.toNat

/-- Everything of a record that the layout gives a place (R382). A continuation of a wait fills the header, the fault and checkpoint
records, the masked registers and the live granules (R39, R324); that of an abort has the snapshot and the engines it records as well. -/
def Area.cells (a : Area) (base slot : Nat) (spilled : Tbl (List (BitVec 32))) : List (Nat × Byte) :=
  let snap := a.whole || decide (a.ctx.check.kind = 4)
  fieldBytes base (a.headerFields ++ faultFields a.ctx.fault ++ tagFields a.ctx ++ checkFields a.ctx.check ++ regFields a.ctx ++ spillFields spilled
      ++ (if a.whole then a.ctx.block.fields 0x700 ++ a.ctx.commitFields else [])
      ++ (if snap then a.ctx.snap.block.fields 0x1300 ++ a.engineFields slot else []))
    ++ (if a.whole then
          a.vec.v.flatMap (fun p => bytesAt (base + 0x2000 + 1024 * p.1) 1024 p.2.toNat)
            ++ bytesAt (base + 0x12000) 128 (2 ^ 1024 - 1)
            ++ (a.vec.p.filter fun p => decide (p.1 ≠ 0)).flatMap (fun p => bytesAt (base + 0x12000 + 128 * p.1) 128 p.2.toNat)
            ++ a.ctx.lmem.map fun p => (base + 0x13000 + p.1, p.2)
        else [])
    ++ spilled.flatMap (fun p => slabBytes base p.1 p.2)
    ++ a.aBytes.map (fun p => (base + 0x8C0000 + p.1, p.2))
    ++ a.wWords.flatMap fun p => bytesAt (base + 0x8C0000 + a.ctx.asize + 8 * p.1) 8 p.2
/-- The stretches a record fills whole, where a byte it does not list is zero: offset and length. -/
def Area.stretches (a : Area) : List (Nat × Nat) :=
  (0, 0x700) :: (0x1F00, 0x100)
    :: (if a.whole then [(0x700, 0xC00), (0x2000, 0x10400), (0x13000, 0x10000), (0x830000, 0x90000)] else [])
    ++ (if a.whole || decide (a.ctx.check.kind = 4) then [(0x1300, 0xC00), (0x23000, 0xD000)] else [])
    ++ a.ctx.liveA.map (fun g => (0x8C0000 + 65536 * g, 65536))
    ++ a.ctx.liveW.map fun g => (0x8C0000 + a.ctx.asize + 65536 * g, 65536)

/-- The bytes of memory between two addresses that may be other than zero. -/
def State.cellsIn (σ : State) (lo hi : Nat) : List (Nat × Byte) :=
  let near (p : Nat × Byte) : Bool := decide (lo ≤ p.1) && decide (p.1 < hi)
  σ.fcache.filter near ++ (σ.mem.filter fun (p : Host.Cell) => decide (lo ≤ p.1) && decide (p.1 < hi) && (Tbl.find? σ.fcache p.1).isNone)

/-- Firmware writes the area of a task whose state is recorded (R39, R45, R57). -/
def State.writeArea (σ : State) (t : Nat) : State :=
  match σ.areaOf t, (σ.taskOf t).cont with
  | some base, some a =>
    let cells := a.cells base (σ.taskOf t).slot (σ.taskOf t).spilled
    let top := base + 0x8C0000 + a.ctx.asize + 2048 * a.ctx.wsize
    let whole := a.stretches ++ (σ.taskOf t).spilled.map fun p => (0x30000 + 4096 * p.1, 4096)
    let live := cells.filter fun c => decide (c.2 ≠ 0)
    let stale := (σ.cellsIn base top).filter fun x =>
      (whole.any fun s => decide (base + s.1 ≤ x.1) && decide (x.1 < base + s.1 + s.2)) && !live.any fun c => decide (c.1 = x.1)
    σ.areaPut (stale.map (fun x => (x.1, 0)) ++ live)
  | _, _ => σ

/-! ## What a reload reads (R379) -/

/-- A field of an area, of the bytes that may be other than zero. -/
def fieldAt (cs : List (Nat × Byte)) (lo n : Nat) : Nat :=
  cs.foldl (fun v c => if lo ≤ c.1 ∧ c.1 < lo + n then v + c.2.toNat * 256 ^ (c.1 - lo) else v) 0
def wordAt (cs : List (Nat × Byte)) (lo : Nat) : Word := BitVec.ofNat 64 (fieldAt cs lo 8)

/-- A checkpoint record as its bytes stand. -/
def readCheck (cs : List (Nat × Byte)) (base : Nat) : Checkpoint :=
  let mask := wordAt cs (base + 0x190)
  let ss := (List.range 32).filter fun i => decide (1 ≤ i) && mask.getLsbD i
  let bs := (List.range 8).filter fun i => mask.getLsbD (32 + i)
  let flags := fieldAt cs (base + 0x1A0 + 8 * (ss.length + bs.length)) 8
  { pc := wordAt cs (base + 0x180), npc := wordAt cs (base + 0x188), mask := mask, pslots := fieldAt cs (base + 0x198) 1,
    kind := fieldAt cs (base + 0x199) 1, s := ss.zipIdx.map fun p => (p.1, wordAt cs (base + 0x1A0 + 8 * p.2)),
    b := bs.zipIdx.map fun p => (p.1, wordAt cs (base + 0x1A0 + 8 * (ss.length + p.2))),
    f := ((List.range 8).filter fun i => mask.getLsbD (40 + i)).map fun i => (i, flags.testBit i) }

/-- A block as its bytes stand; of a ring, what the layout does not hold is the record's. -/
def readBlock (cs : List (Nat × Byte)) (o : Nat) (old : AreaBlock) : AreaBlock :=
  { rings := (List.range 64).map (fun i => (i, { Tbl.get old.rings {} i with
      entry := wordAt cs (o + 24 * i), claim := BitVec.ofNat 32 (fieldAt cs (o + 24 * i + 8) 4), tail := BitVec.ofNat 32 (fieldAt cs (o + 24 * i + 12) 4),
      head := BitVec.ofNat 32 (fieldAt cs (o + 24 * i + 16) 4) })) |>.filter fun p => decide (p.2 ≠ ({} : Ring))
    q := (List.range 16).map fun i => (i, BitVec.ofNat 128 (fieldAt cs (o + 1536 + 16 * i) 16))
    tx := (List.range 16).map fun i => (i, BitVec.ofNat 256 (fieldAt cs (o + 1792 + 32 * i) 32))
    cv := (List.range 8).map fun i => (i, BitVec.ofNat 256 (fieldAt cs (o + 2304 + 32 * i) 32))
    rv := (List.range 8).map fun i =>
      (i, { mask := BitVec.ofNat 13 (fieldAt cs (o + 2560 + 8 * i) 2), marker := BitVec.ofNat 16 (fieldAt cs (o + 2562 + 8 * i) 2) })
    tagdone := wordAt cs (o + 2624), tagerr := wordAt cs (o + 2632)
    out := (List.range 64).map fun t => (t, fieldAt cs (o + 2640 + 2 * t) 1)
    res := (List.range 64).map fun t => (t, fieldAt cs (o + 2641 + 2 * t) 1) }

/-- The registers at 0x300 as their bytes stand. -/
def readRegs (cs : List (Nat × Byte)) (base : Nat) (c : Ctx) : Ctx :=
  { c with s := (List.range 31).map fun i => (i + 1, wordAt cs (base + 0x308 + 8 * i)), b := (List.range 8).map fun i => (i, wordAt cs (base + 0x400 + 8 * i)),
           f := (List.range 8).map fun i => (i, (fieldAt cs (base + 0x440) 1).testBit i), pc := wordAt cs (base + 0x448), npc := wordAt cs (base + 0x450),
           pslots := fieldAt cs (base + 0x458) 1, vshape := wordAt cs (base + 0x460), accsel := wordAt cs (base + 0x468) }

/-- A tile that the reload of an area reads does not verify (R70, R379): the first one, with a fill in a sector it reads. -/
def State.areaBad (σ : State) (base : Nat) (a : Area) : Option Nat :=
  let reads (x : Nat) : Bool := a.stretches.any fun s => decide (base + s.1 < x + 64) && decide (x < base + s.1 + s.2)
  (List.find? (fun (p : Nat × Tile) => p.2.bad && (List.range 64).any fun i => reads (4096 * p.1 + 64 * i) && !σ.sectorHeld (4096 * p.1 + 64 * i)) σ.tiles).map (·.1)

/-- A command of a queue as its bytes stand: what kind it is, and of a program which, is the record's. -/
def readCmd (cs : List (Nat × Byte)) (o : Nat) (c : Cmd) : Cmd :=
  let v := fieldAt cs (o + 8) 8
  { c with held := (fieldAt cs o 8).testBit 8,
           kind := match c.kind with
             | .marker _ n => .marker (BitVec.ofNat 16 v) n
             | .vshape _ => .vshape (BitVec.ofNat 64 v)
             | k => k }
/-- An engine as its record's bytes stand; whether it runs, its program's place, its markers and what it has fetched are the record's. -/
def readEng (cs : List (Nat × Byte)) (o : Nat) (v : Eng) : Eng :=
  let cs := cs.filter fun c => decide (o ≤ c.1) && decide (c.1 < o + 4096)
  let p (r : Run) : Prog := { r.prog with
    q := (List.range 16).map (fun i => (i, BitVec.ofNat 128 (fieldAt cs (o + 2304 + 16 * i) 16))),
    tx := (List.range 16).map (fun i => (i, BitVec.ofNat 256 (fieldAt cs (o + 2560 + 32 * i) 32))),
    cv := (List.range 8).map (fun i => (i, BitVec.ofNat 256 (fieldAt cs (o + 3072 + 32 * i) 32))),
    vshape := wordAt cs (o + 240), cancelled := wordAt cs (o + 248) }
  { v with
    gen := BitVec.ofNat 32 (fieldAt cs (o + 192) 4)
    run := v.run.map fun r => { r with
      upc := fieldAt cs o 2 % 1024, idx := (List.range r.idx.length).map fun k => fieldAt cs (o + 8 + 8 * k) 8,
      pix := (List.range 16).map fun k => (k, fieldAt cs (o + 64 + 8 * k) 8), cur := (List.range 64).map fun k => (k, fieldAt cs (o + 3840 + 4 * k) 4),
      prog := p r }
    queue := v.queue.zipIdx.map fun q => if q.2 < 32 then readCmd cs (o + 3328 + 16 * q.2) q.1 else q.1 }
/-- A weight reference as its bytes stand. -/
def readRef (cs : List (Nat × Byte)) (o : Nat) (w : Weights) : Weights :=
  let v := fieldAt cs o 8
  { w with src := if v = 0 then none else some (v % 2 ^ 32 - 1, v / 2 ^ 32) }
def readFrag (cs : List (Nat × Byte)) (o : Nat) (f : Frag) : Frag := { f with act := readRef cs (o + 200) f.act, nxt := readRef cs (o + 208) f.nxt }
/-- A link's parameters as the bytes of its fragment's record stand, with its generator at g. -/
def readLink (cs : List (Nat × Byte)) (o g : Nat) (l : Link) : Link :=
  let cs := cs.filter fun c => decide (o ≤ c.1) && decide (c.1 < o + 2304)
  let m := fieldAt cs (o + 224) 8
  { l with bound := BitVec.ofNat 32 (fieldAt cs (o + 216) 4), mode := m % 256, fmt := bits m 15 8, qtype := bits m 23 16, clamp := m.testBit 24,
           gen := BitVec.ofNat 32 (fieldAt cs g 4), scale := (List.range l.scale.length).map (fun i => BitVec.ofNat 32 (fieldAt cs (o + 256 + 4 * i) 4)),
           bias := (List.range l.bias.length).map fun i => BitVec.ofNat 32 (fieldAt cs (o + 1280 + 4 * i) 4) }
/-- The engines of a record as their records' bytes stand. -/
def Area.readEngines (a : Area) (cs : List (Nat × Byte)) (base slot : Nat) : Area :=
  let at' (e : Nat) : Nat := base + 0x23000 + 4096 * (if e = slot then 0 else e - 3)
  let from' (l : Nat) : Nat := base + 0x24000 + 4096 * (if l = 3 then 1 else l)
  { a with
    engs := a.engs.map fun (p : Nat × Eng) => (p.1, readEng cs (at' p.1) p.2)
    frags := a.frags.map fun (p : Nat × Frag) => (p.1, readFrag cs (base + 0x24000 + 4096 * p.1) p.2)
    links := a.links.map fun (p : Nat × Link) => (p.1, readLink cs (from' p.1) (from' p.1 + if p.1 = 3 then 236 else 232) p.2) }
/-- The commit buffer as its bytes stand: the lines' addresses, and the bytes that the record holds stores of. -/
def readCommit (cs : List (Nat × Byte)) (base : Nat) (c : Ctx) : Ctx :=
  let old := c.lines.reverse
  let now := (List.range old.length).map fun i => fieldAt cs (base + 0x8B0000 + 8 * i) 8 / 64
  let line (l : Nat) : Nat := now.getD (old.idxOf l) l
  { c with
    lines := now.reverse, lineVas := c.lineVas.map fun p => (p.1, line p.2)
    held := c.held.map fun p => (64 * line (p.1 / 64) + p.1 % 64, BitVec.ofNat 8 (fieldAt cs (base + 0x830000 + 64 * old.idxOf (p.1 / 64) + p.1 % 64) 1)) }
/-- TAGCAUSE as its bytes stand. -/
def readTags (cs : List (Nat × Byte)) (base : Nat) : Tbl Nat :=
  ((List.range 64).map fun t => (t, fieldAt cs (base + 0x140 + t) 1)).filter fun p => decide (p.2 ≠ 0)

/-- The record of a task as its area's bytes have it: what firmware or another agent has stored there since is read back. What R382 gives
no place is the record's own (log 28). An area that does not lie in physical memory is not read. -/
def State.readArea (σ : State) (t : Nat) : Area :=
  let a := (σ.taskOf t).cont.getD {}
  match σ.areaOf t with
  | none => a
  | some base =>
    let top := base + 0x8C0000 + a.ctx.asize + 2048 * a.ctx.wsize
    if physLimit < top then a else
    let cs := σ.cellsIn base (base + 0x13000)
    let live (o n : Nat) : List Nat := let v := fieldAt cs (base + o) n; (List.range (8 * n)).filter fun g => v.testBit g
    let liveA := (live 64 32).filter fun g => decide (65536 * g < a.ctx.asize)
    let liveW := (live 96 64).filter fun g => decide (32 * g < a.ctx.wsize)
    let k := readCheck cs base
    let c := { a.ctx with check := k, liveA := liveA, liveW := liveW }
    let c := if a.whole then (readRegs cs base c).withBlock (readBlock cs (base + 0x700) c.block)
      else { c with pc := k.pc, npc := k.npc, pslots := k.pslots, s := k.s, b := k.b, f := k.f }
    let c := { c with tagcause := readTags cs base }
    let c := if a.whole then readCommit (σ.cellsIn (base + 0x830000) (base + 0x8C0000)) base c else c
    let a := if a.whole ∨ k.kind = 4 then a.readEngines (σ.cellsIn (base + 0x23000) (base + 0x30000)) base (σ.taskOf t).slot else a
    let snap := a.ctx.snap.withBlock (readBlock cs (base + 0x1300) a.ctx.snap.block)
    let c := if a.whole ∨ k.kind = 4 then { c with snap := snap } else c
    let c := if !a.whole ∧ k.kind = 4 then c.withBlock snap.block else c
    let wide := σ.cellsIn (base + 0x13000) (base + 0x23000)
    let gran := σ.cellsIn (base + 0x8C0000) top
    let w := base + 0x8C0000 + a.ctx.asize
    { a with
      ctx := if a.whole then { c with lmem := wide.map fun p => (p.1 - (base + 0x13000), p.2) } else c
      vec := if !a.whole then a.vec else
        { a.vec with v := ((List.range 64).map fun i => (i, BitVec.ofNat 8192 (fieldAt cs (base + 0x2000 + 1024 * i) 1024))).filter fun p => decide (p.2 ≠ 0)
                     p := ((List.range 7).map fun i => (i + 1, BitVec.ofNat 1024 (fieldAt cs (base + 0x12080 + 128 * i) 128))).filter fun p => decide (p.2 ≠ 0) }
      aBytes := (gran.filter fun p => decide (p.1 < w) && liveA.contains ((p.1 - (base + 0x8C0000)) / 65536)).map fun p => (p.1 - (base + 0x8C0000), p.2)
      wWords := ((gran.filter fun p => decide (w ≤ p.1) && liveW.contains ((p.1 - w) / 65536)).map fun p => (p.1 - w) / 8).eraseDups.map fun j =>
        (j, fieldAt gran (w + 8 * j) 8) }

/-- The context of a slot takes another value; where its TAGCAUSE changes, so do the bytes of its fault record (R377). -/
def State.putTags (σ : State) (core slot : Nat) (c : Ctx) : State :=
  let old := σ.ctxOf core slot
  let σ := σ.setCtx core slot c
  if c.tagcause = old.tagcause then σ else
  match σ.slotArea core slot with
  | some base => σ.areaPut (fieldBytes base (tagFields c))
  | none => σ

/-- The fault record of the task a slot holds is written to its area, if it has one (R377); its PC is not known before the boundary
where the fault is an engine's, just posted. -/
def State.writeFault (σ : State) (core slot : Nat) (r : FaultRec) (withPc : Bool) : State :=
  match σ.slotArea core slot with
  | some base =>
    σ.areaPut (fieldBytes base ((faultFields r).filter (fun f => withPc || decide (f.1 ≠ 0x108)) ++ tagFields (σ.ctxOf core slot)))
  | none => σ

/-! ## Spilled slabs (R383) -/

/-- A slab's contents become the copy of a task, and stand in its area where it has one. -/
def State.spillTo (σ : State) (t slab : Nat) (l : List (BitVec 32)) : State :=
  let sp := Tbl.set (σ.taskOf t).spilled slab l
  let σ := σ.setTask t { σ.taskOf t with spilled := sp }
  match σ.areaOf t with
  | some base => σ.areaPut (fieldBytes base (spillFields sp) ++ slabBytes base slab l)
  | none => σ
/-- The copy of a slab is no longer a task's. -/
def State.unspill (σ : State) (t slab : Nat) : State :=
  let sp := Tbl.del (σ.taskOf t).spilled slab
  let σ := σ.setTask t { σ.taskOf t with spilled := sp }
  match σ.areaOf t with
  | some base => σ.areaPut (fieldBytes base (spillFields sp))
  | none => σ
/-- The copies an area's bytes hold, which firmware's own stores may have changed. -/
def State.spillsIn (σ : State) (base : Nat) : Tbl (List (BitVec 32)) :=
  (List.range 256).flatMap fun i =>
    let b := σ.memByte (base + 0x1F00 + i)
    ((List.range 8).filter fun k => b.getLsbD k).map fun k =>
      (8 * i + k, (List.range 1024).map fun e => BitVec.ofNat 32 (σ.memNat (base + 0x30000 + 4096 * (8 * i + k) + 4 * e) 4))

end Sys2Proof.Machine
end

