-- ==== Sys2Proof/Machine/Tasks.lean ====
section
/-!
DEFINITION. The life of a task: the start of a lot (R33, R320), checkpoints (R43, R44, R325), the commit of a phase (R85, R97),
the return of leases (R53, R55), the idempotent abort (R45), the end of a lot by completion, kill or cancel (R42, R308), and
the saving of a context (R39, R57, R382).
-/

namespace Sys2Proof.Machine

/-! ## Lot start -/

/-- The work ID of lot n (R33): the digits of n over the lot fields, each at its place. -/
def lotWid (widths : List Nat) (exts : List Nat) (lotb n : Nat) : Nat :=
  (List.range lotb).foldl (fun acc i =>
    let below := ((exts.take lotb).drop (i + 1)).foldl (· * ·) 1
    let place := (widths.drop (i + 1)).foldl (· + ·) 0
    acc + n / below % (exts.getD i 1) * 2 ^ place) 0

def Node.exts (nd : Node) : List Nat := nd.extm1.map fun e => e.toNat + 1

/-- The loop counts a FORK gives its programs (R34). -/
def Node.loops (nd : Node) : List Nat := (nd.exts.drop nd.lotb ++ [1, 1, 1, 1, 1, 1]).take 6

/-- The seed of a generator (R110). -/
def seedOf (srseed : BitVec 32) (lotno : Word) (id : Nat) : BitVec 32 :=
  let g := srseed ^^^ BitVec.ofNat 32 lotno.toNat ^^^ BitVec.ofNat 32 (id * 0x9E3779B9)
  if g = 0 then 1 else g

/-- The context at lot start (R320); the window bases and the stall limit are the slot's. -/
def lotCtx (old : Ctx) (nd : Node) (t n : Nat) : Ctx :=
  { pc := nd.ctl + BitVec.ofNat 64 (4 * nd.entry), lotno := BitVec.ofNat 64 n,
    wid := BitVec.ofNat 64 (lotWid nd.width nd.exts nd.lotb n), srseed := nd.srseed,
    asize := nd.agran * 65536, wsize := nd.wrows, abase := old.abase, wbase := old.wbase, stallLim := old.stallLim,
    task := some t, fault := old.fault,
    check := { pc := nd.ctl + BitVec.ofNat 64 (4 * nd.entry) } }

/-! ## Windows (R62, R63) -/

/-- The first base at which n units fit beside the windows of the core's other tasks, below the limit. -/
def firstFit (used : List (Nat × Nat)) (n limit : Nat) : Option Nat :=
  let fits (b : Nat) : Bool := decide (b + n ≤ limit) && used.all fun u => decide (u.1 + u.2 ≤ b) || decide (b + n ≤ u.1)
  (0 :: used.map (fun u => u.1 + u.2)).find? fits

def State.windowsOf (σ : State) (core slot : Nat) : List Ctx :=
  ([0, 1, 2, 3].filter (· ≠ slot)).filterMap fun k =>
    let c := σ.ctxOf core k
    if c.task.isSome then some c else none

/-- The bases at which the windows of a task fit on a slot, if they do. -/
def State.placeWindows (σ : State) (core slot asize wsize : Nat) : Option (Nat × Nat) :=
  let cs := σ.windowsOf core slot
  match firstFit (cs.map fun c => (c.abase, c.asize)) asize (2 ^ 24), firstFit (cs.map fun c => (c.wbase, c.wsize)) wsize (2 ^ 14) with
  | some a, some w => some (a, w)
  | _, _ => none

/-- Every byte of a slot's A and W windows is zero again. -/
def State.clearWindows (σ : State) (core slot : Nat) : State :=
  let c := σ.ctxOf core slot
  let a := core * 2 ^ 24 + c.abase
  let w := core * 2 ^ 22 + c.wbase * 256
  { σ with abuf := σ.abuf.filter fun p => !(decide (a ≤ p.1) && decide (p.1 < a + c.asize)),
           wbuf := σ.wbuf.filter fun p => !(decide (w ≤ p.1) && decide (p.1 < w + c.wsize * 256)),
           wkeys := σ.wkeys.filter fun p => !(decide (w ≤ p.1) && decide (p.1 < w + c.wsize * 256)) }

/-- The live granules of a slot's windows, by window offset; W is deciphered at the bonds (R372). -/
def State.liveBytes (σ : State) (core slot : Nat) : Tbl Byte :=
  let c := σ.ctxOf core slot
  let a := core * 2 ^ 24 + c.abase
  (σ.abuf.filter fun p => decide (a ≤ p.1) && decide (p.1 < a + c.asize) && c.liveA.contains ((p.1 - a) / 65536)).map
    fun p => (p.1 - a, p.2)
def State.liveWords (σ : State) (core slot : Nat) : Tbl Nat :=
  let c := σ.ctxOf core slot
  let w := core * 2 ^ 22 + c.wbase * 256
  (σ.wbuf.filter fun p => decide (w ≤ p.1) && decide (p.1 < w + c.wsize * 256) && c.liveW.contains ((p.1 - w) / 8192)).map
    fun p => (p.1 - w, (σ.wWord core slot ((p.1 - w) / 256) ((p.1 - w) % 256)).toNat)

/-- The saved granules put back into a slot's windows; every other byte is zero (R40, R63). -/
def State.restoreWindows (σ : State) (core slot : Nat) (as : Tbl Byte) (ws : Tbl Nat) : State :=
  let σ := σ.clearWindows core slot
  let c := σ.ctxOf core slot
  { σ with abuf := as.foldl (fun t p => Tbl.set t (aKey core c p.1) p.2) σ.abuf,
           wbuf := ws.foldl (fun t p => Tbl.set t (wKey core c (p.1 / 256) (p.1 % 256)) (BitVec.ofNat 64 p.2)) σ.wbuf,
           wkeys := ws.foldl (fun t p => Tbl.set t (wKey core c (p.1 / 256) (p.1 % 256)) (σ.slotKey core slot)) σ.wkeys }

/-! ## Commit (R85 to R89, R97) -/

/-- An atomic's value on n-bit words, FADD included (R205). -/
def atomicVal (op n old v : Nat) : Nat :=
  if op = 9 then fp32.rne (Num.add 0 (fp32.decode old) (fp32.decode v)) else atomicInt op n old v

/-- A combine's word in the lot view (R97). -/
def combView (k : Comb) : Nat := atomicVal k.op (k.width * 8) k.base.toNat k.operand.toNat

/-- A combine performs at its home slice, as a far operation on the word memory holds; OWNER is found here (R208). -/
def State.applyComb (σ : State) (req : Nat) (pa : Nat) (k : Comb) : State :=
  if ownerMatches req (σ.frameRec (frameOf pa)).owner then
    σ.writeNat pa k.width (atomicVal k.op (k.width * 8) (σ.memNat pa k.width) k.operand.toNat)
  else σ

/-- The held stores that go to memory: an address at or beyond physical memory is a fabric window's, carried by its port (R101). -/
def heldHere (held : Tbl Byte) : Tbl Byte := held.filter fun p => decide (p.1 < physLimit)

/-- A fault is posted to a slot: it joins its posted faults, and its record is written, but for the PC (R376, R377). -/
def State.addPosted (σ : State) (core slot : Nat) (r : FaultRec) : State :=
  let c := σ.ctxOf core slot
  (σ.setCtx core slot { c with posted := c.posted ++ [r] }).writeFault core slot r false

/-- A line of committed stores to a fabric window, as its port has accepted it, under the record as it stands (R101, R390, R393). -/
def State.storeReq (σ : State) (core slot : Nat) (c : Ctx) (line id : Nat) : FabReq :=
  let i := (line * 64 - physLimit) / 2 ^ 29
  let r := σ.importRec i
  let first := (List.find? (fun (p : Nat × Byte) => decide (p.1 / 64 = line)) c.held).map Prod.fst
  { id := id, core := core, slot := slot, engine := some (7 + 16 * id), va := c.heldVa (first.getD (64 * line)), entry := i, record := r,
    deadline := σ.time + impTmo r, answer := if impValid r ∧ impKind r = 0 then none else some 1, store := c.task }

/-- The commit of a phase: every held byte and every combine is performed where the frame's owner is the lot's, OWNER being posted for
each other line (R67, R208), and the lot view is memory again (R85 to R87); no
line is then held for the engines that a fence let see the lot view (R96). The stores to fabric windows go to their port (R101). A lot
that runs again after its last phase has committed commits nothing more (R47, log 99). -/
def State.commit (σ : State) (core ctx : Nat) : State :=
  let c := σ.ctxOf core ctx
  let c := if c.committed then { c with held := [], combs := [] } else c
  let req := σ.vfOf core ctx
  let mine (p : Nat × Byte) : Bool := ownerMatches req (σ.frameRec (frameOf p.1)).owner
  let bad := ((heldHere c.held).filter (fun (p : Nat × Byte) => !mine p)).map (·.1)
    ++ (c.combs.filter fun p => !ownerMatches req (σ.frameRec (frameOf p.1)).owner).map (·.1)
  let lines := ((c.held.filter fun (p : Nat × Byte) => decide (physLimit ≤ p.1)).map fun p => p.1 / 64).eraseDups
  let σ := σ.writeList ((heldHere c.held).filter mine)
  let σ := c.combs.foldl (fun σ p => σ.applyComb req p.1 p.2) σ
  let σ := { σ with fresh := σ.fresh + lines.length, fabReqs := σ.fabReqs ++ lines.zipIdx.map fun (p : Nat × Nat) => σ.storeReq core ctx c p.1 (σ.fresh + p.2) }
  let es := σ.enginesOf core ctx
  let σ := { σ with engs := σ.engs.map fun (p : Nat × Eng) =>
    if p.1 / 16 = core ∧ es.contains (p.1 % 16) then (p.1, { p.2 with view := [] }) else p }
  let σ := σ.setCtx core ctx
    { σ.ctxOf core ctx with
      held := [], combs := [], seen := [], vseen := [], after := [], lines := [], lineVas := [],
      fences := ((σ.ctxOf core ctx).fences.filter fun f => !f.released || es.any fun e => (σ.engOf core e).queue.any fun q => decide (q.kind = .fence f.id)).map
        fun f => { f with lines := [] } }
  let faults : List FaultRec := (bad.map fun a => a / 64).eraseDups.map fun l =>
    { cause := causeOwner, src := ctx, pc := c.pc, time := σ.time, detail := c.heldVa ((bad.find? fun a => decide (a / 64 = l)).getD (64 * l)) }
  faults.foldl (fun σ r => σ.addPosted core ctx r) σ

/-! ## Checkpoints (R43, R44, R181, R325) -/

/-- The mask with every field set (R206, R326). -/
def fullMask : Word := 0x0000FFFFFFFFFFFE

/-- The registers a mask names, as the record holds them. -/
def Ctx.record (c : Ctx) (mask : Word) (kind : Nat) : Checkpoint :=
  { pc := c.pc, npc := c.npc, mask := mask, pslots := c.pslots, kind := kind,
    s := c.s.filter fun p => decide (1 ≤ p.1) && mask.getLsbD p.1 && decide (p.1 < 32),
    b := c.b.filter fun p => mask.getLsbD (32 + p.1) && decide (p.1 < 8),
    f := c.f.filter fun p => mask.getLsbD (40 + p.1) && decide (p.1 < 8) }

def maskOk (mask : Word) : Bool := decide (mask.toNat < 2 ^ 48)

/-- A unit granted to a task that is on no slot is recorded with slot 7. A context moved from another core has its unit's record
under another number (R384). -/
def noSlot : Nat := 7

/-- The links out of and into a sequencer (R24): 0 s0→s1, 1 s1→s2, 2 s2→s3, 3 s1→s3. -/
def linksOut (k : Nat) : List Nat := if k = 0 then [0] else if k = 1 then [1, 3] else if k = 2 then [2] else []
def linksIn (k : Nat) : List Nat := if k = 1 then [0] else if k = 2 then [1] else if k = 3 then [2, 3] else []
def linkTo (l : Nat) : Nat := if l = 0 then 1 else if l = 1 then 2 else 3
def linkFrom (l : Nat) : Nat := if l = 0 then 0 else if l = 2 then 2 else 1

/-- The generations of the units that serve the lot on a slot, by engine number of the core. -/
def State.genList (σ : State) (core slot : Nat) : Tbl Nat :=
  (σ.fragsWith core slot).map (fun k => (k + 4, (σ.fragOf core k).gen))
    ++ (σ.copiesWith core slot).map (fun n => (n + 8, (σ.copyOf core n).gen))

/-- A fragment before the oldest step it has in flight, which the snapshot has run again whole (R44, R45, R264): the fragment itself, and
its engine. -/
def State.fragBefore (σ : State) (core k : Nat) : Frag :=
  let f := σ.fragOf core k
  match f.passes with
  | [] => { f with faulting := none }
  | p :: _ => { f with passes := [], faulting := none, act := p.redo.act, nxt := p.redo.nxt, linked := p.redo.linked, waitsLink := false, linkLost := false }
/-- The engine of a fragment before that step; a vector word that has popped and waits to push keeps its bytes (log 108). -/
def State.engBefore (σ : State) (core e : Nat) : Eng :=
  let v := σ.engOf core e
  if e < 4 ∨ 8 ≤ e then v else
  match (σ.fragOf core (e - 4)).passes with
  | [] => v
  | p :: _ => { v with run := some p.redo.run }

/-- A link before the oldest step that has drawn from its generator and runs again whole (R110). -/
def State.linkBefore (σ : State) (core l : Nat) : Link :=
  match (σ.fragOf core (linkFrom l)).passes with
  | p :: _ => (match p.genBefore, p.chain.map Chain.link with
    | some g, some j => if j = l then { σ.linkOf core l with gen := g } else σ.linkOf core l
    | _, _ => σ.linkOf core l)
  | [] => σ.linkOf core l

/-- The snapshot of R44. -/
def State.snapshot (σ : State) (core slot : Nat) : Snap :=
  let c := σ.ctxOf core slot
  { rings := c.rings, tagdone := c.tagdone, tagerr := c.tagerr, tagcause := c.tagcause, rv := c.rv, q := c.q, tx := c.tx, cv := c.cv,
    engs := (σ.enginesOf core slot).map fun e => (e, σ.engBefore core e),
    steps := (σ.copiesWith core slot).map fun n => (n, (σ.copyOf core n).steps),
    frags := (σ.fragsWith core slot).map fun k => (k, σ.fragBefore core k),
    links := ((σ.fragsWith core slot).flatMap linksOut).map fun l => (l, σ.linkBefore core l), out := c.out, res := c.res,
    linkGens := c.linkGens, drains := (σ.copiesWith core slot).filter fun n => (σ.copyOf core n).draining, fences := c.fences,
    lease := σ.leaseMask core slot, gens := σ.genList core slot, plan := (σ.coreOf core).plan }

/-- The snapshot is taken, the last checkpoint's record being the one that stands. -/
def State.takeSnapshot (σ : State) (core slot : Nat) : State :=
  σ.setCtx core slot { σ.ctxOf core slot with snap := σ.snapshot core slot }

/-- The checkpoint record of a slot's lot stands in its task's context area, where it has one (R325). -/
def State.writeCheck (σ : State) (core slot : Nat) : State :=
  match σ.slotArea core slot with
  | some base => σ.areaPut (fieldBytes base (checkFields (σ.ctxOf core slot).check))
  | none => σ

/-- Lot n of a task starts on a slot: context, vector context and its generator, and the checkpoint of a lot's start (R36, R43, R110,
R320). -/
def State.startLot (σ : State) (core slot t n : Nat) : State :=
  let tk := σ.taskOf t
  let nd := σ.nodeOf tk.node
  let c := lotCtx (σ.ctxOf core slot) nd t n
  let σ := σ.setCtx core slot c
  let σ := σ.setVec core slot {}
  let σ := σ.setEng core slot { gen := seedOf nd.srseed c.lotno 0 }
  let σ := σ.setTask t { tk with state := .running, next := n + 1, core := some core, slot := slot, lot := n }
  (σ.takeSnapshot core slot).writeCheck core slot

/-- A checkpoint is taken as the context stands: record and snapshot. -/
def State.checkpoint (σ : State) (core slot : Nat) (mask : Word) (kind : Nat) : State :=
  let c := σ.ctxOf core slot
  (σ.setCtx core slot { c with check := c.record mask kind, snap := σ.snapshot core slot }).writeCheck core slot

/-! ## Leases (R53, R55) -/

/-- R55: idle sequencer, every accumulate write retired, link queues empty. -/
def State.drained (σ : State) (core k : Nat) : Bool :=
  let e := σ.engOf core (k + 4)
  e.queue.isEmpty && e.run.isNone && (σ.fragOf core k).passes.isEmpty
    && (linksOut k ++ linksIn k).all fun l => (σ.linkOf core l).queue.isEmpty

def State.emptyLink (σ : State) (core l : Nat) : State := σ.setLink core l { σ.linkOf core l with queue := [] }

/-- The links of a plan (R24), and the link into and out of a sequencer under it. -/
def planLinks (plan : Nat) : List Nat := if plan = 0 then [] else if plan = 1 then [0] else if plan = 2 then [0, 3] else [0, 1, 2]
def linkInto (plan k : Nat) : Option Nat := (planLinks plan).find? fun l => decide (linkTo l = k)
def linkOutOf (plan k : Nat) : Option Nat := (planLinks plan).find? fun l => decide (linkFrom l = k)

/-- A consumer that waits in a link-input pass on an empty queue has lost its producer (R259). -/
def State.loseLink (σ : State) (core k : Nat) : State :=
  match linkOutOf (σ.coreOf core).plan k with
  | some l =>
    let f := σ.fragOf core (linkTo l)
    if f.waitsLink ∧ (σ.linkOf core l).queue.isEmpty then σ.setFrag core (linkTo l) { f with linkLost := true } else σ
  | none => σ

/-- The engine of a unit that becomes free: its queue and its run are gone; which markers its lot placed in it and which retired last is
kept for that lot (R186, R187). -/
def Eng.emptied (v : Eng) : Eng := { last := v.last, placed := v.placed, forLot := v.forLot }
/-- The engine of a unit granted to a lot, which forgets the markers of any other (R186). -/
def Eng.forGrant (v : Eng) (lot : Option (Nat × Nat)) : Eng :=
  if v.forLot = lot then { last := v.last, placed := v.placed, forLot := v.forLot } else {}
/-- The lot on a slot: its task and number. -/
def State.lotName (σ : State) (core slot : Nat) : Option (Nat × Nat) :=
  let c := σ.ctxOf core slot
  c.task.map fun t => (t, c.lotno.toNat)

/-- The generators of the links out of a unit that its lot returns are kept for the lot (R110). -/
def State.keepLinks (σ : State) (core k : Nat) : State :=
  let f := σ.fragOf core k
  let c := σ.ctxOf core f.slot
  if f.slot < 4 ∧ c.task.isSome ∧ (f.state ≠ 2 ∨ f.lot = c.task) then
    σ.setCtx core f.slot { c with linkGens := (linksOut k).foldl (fun g l => Tbl.set g l (σ.linkOf core l).gen) c.linkGens }
  else σ
/-- A fragment becomes FREE; its queue, its run and its weight sets are gone. -/
def State.fragFree (σ : State) (core k : Nat) (dropLinks : Bool) : State :=
  let σ := σ.keepLinks core k
  let σ := σ.setEng core (k + 4) (σ.engOf core (k + 4)).emptied
  let σ := if dropLinks then (linksOut k ++ linksIn k).foldl (fun σ l => σ.emptyLink core l) σ else σ
  (σ.setFrag core k { gen := (σ.fragOf core k).gen }).loseLink core k

/-- UNLEASE or lease return of a fragment (R55). -/
def State.returnFrag (σ : State) (core k : Nat) : State :=
  let f := σ.fragOf core k
  if f.state = 3 then σ.fragFree core k true
  else if f.state = 1 then
    if σ.drained core k then σ.fragFree core k false
    else σ.setFrag core k { f with state := 2, lot := (σ.ctxOf core f.slot).task }
  else σ

/-- A copy engine has nothing left to do, or has stopped on a fault. -/
def State.copyIdle (σ : State) (core n : Nat) : Bool :=
  let e := σ.engOf core (n + 8)
  e.stopped || (e.queue.isEmpty && e.run.isNone && (σ.copyOf core n).steps.isEmpty)
def State.copyFree (σ : State) (core n : Nat) : State :=
  let x := σ.copyOf core n
  (σ.setEng core (n + 8) (σ.engOf core (n + 8)).emptied).setCopy core n { gen := x.gen, nextStep := x.nextStep }

/-- Return of a copy engine's lease (R55, R279): an engine still at work drains until it is idle. -/
def State.returnCopy (σ : State) (core n : Nat) : State :=
  let x := σ.copyOf core n
  if !x.leased then σ
  else if σ.copyIdle core n then σ.copyFree core n
  else σ.setCopy core n { x with leased := false, draining := true, holder := (σ.ctxOf core x.slot).task }
/-- A draining copy engine that is idle is free. -/
def State.drainCopy (σ : State) (core n : Nat) : State :=
  if (σ.copyOf core n).draining ∧ σ.copyIdle core n then σ.copyFree core n else σ

/-- The units of a slot that still drain are its lot's no longer. -/
def State.detach (σ : State) (core slot : Nat) : State :=
  let σ := [0, 1, 2, 3].foldl (fun (σ : State) k =>
    let f := σ.fragOf core k
    if f.state = 2 ∧ f.slot = slot then (if σ.drained core k then σ.fragFree core k false else σ.setFrag core k { f with lot := none }) else σ) σ
  (List.range 8).foldl (fun (σ : State) n =>
    let x := σ.copyOf core n
    if x.draining ∧ x.slot = slot then (σ.setCopy core n { x with holder := none }).drainCopy core n else σ) σ

/-- The return of a lot's leases where the lot ends, waits, is aborted or is saved (R53). -/
def State.returnLeases (σ : State) (core slot : Nat) : State :=
  let fs := σ.fragsOf core slot
  let ns := σ.copiesOf core slot
  (ns.foldl (fun σ n => σ.returnCopy core n) (fs.foldl (fun σ k => σ.returnFrag core k) σ)).detach core slot
/-- The units granted to a task that is on no slot go back (R53). -/
def State.returnHeld (σ : State) (t : Nat) : State :=
  let σ := σ.frags.foldl (fun (σ : State) (p : Nat × Frag) =>
    if p.2.state = 1 ∧ p.2.slot = noSlot ∧ p.2.lot = some t then σ.fragFree (p.1 / 4) (p.1 % 4) false else σ) σ
  σ.copies.foldl (fun (σ : State) (p : Nat × CopyEng) =>
    if p.2.leased ∧ p.2.slot = noSlot ∧ p.2.holder = some t then σ.copyFree (p.1 / 8) (p.1 % 8) else σ) σ
/-- A core's pending requests change; the hold stands while a WHOLE request that has begun it does (R54). -/
def Core.withReqs (k : Core) (l : List LeaseReq) : Core := { k with reqs := l, hold := l.any LeaseReq.holds }
/-- Every request of a task is withdrawn, and what it was granted goes back. -/
def State.withdrawLeases (σ : State) (t : Nat) : State :=
  ({ σ with cores := σ.cores.map fun (p : Nat × Core) => (p.1, p.2.withReqs (p.2.reqs.filter fun r => decide (r.task ≠ t))) } : State).returnHeld t

/-! ## Accumulator codes at the end of a lot (R58, R308) -/

/-- Every entry that names the slot takes another code; held entries record their task. -/
def State.recode (σ : State) (core slot code : Nat) (holder : Option Nat) : State :=
  let mine := σ.accown.filter fun p => decide (p.1 / 2048 = core) && decide (p.2 = slot)
  mine.foldl (fun σ p =>
    let σ := { σ with accown := Tbl.set σ.accown p.1 code }
    match holder with
    | some t => { σ with holder := Tbl.set σ.holder p.1 t }
    | none => σ) σ

/-- Every slab held for a task becomes free (R42, R308). -/
def State.freeHeld (σ : State) (t : Nat) : State :=
  let mine := σ.holder.filter fun p => decide (p.2 = t)
  let σ := mine.foldl (fun σ p =>
    if Tbl.get σ.accown 7 p.1 = 5 then { σ with accown := Tbl.set σ.accown p.1 7 } else σ) σ
  { σ with holder := σ.holder.filter fun p => decide (p.2 ≠ t) }

/-- The slabs held for a task, which are its pin set (R40). -/
def State.pinSet (σ : State) (core t : Nat) : List Nat :=
  (σ.holder.filter fun p => decide (p.2 = t) && decide (p.1 / 2048 = core) && decide (Tbl.get σ.accown 7 p.1 = 5)).map
    fun p => p.1 % 2048

/-! ## Engines of a lot that ends or is aborted (R45) -/

/-- The steps in flight of an engine are cancelled and its queue emptied. -/
def State.haltEngine (σ : State) (core e : Nat) : State :=
  let v := σ.engOf core e
  let σ := σ.setEng core e { gen := v.gen }
  let σ : State := { σ with landing := σ.landing.filter fun x => match x with
    | .fill _ _ _ _ => true
    | .mark c _ g _ _ => !(decide (c = core) && decide (g = e)) }
  if e < 4 then σ
  else if e < 8 then
    let f := σ.fragOf core (e - 4)
    let σ := (linksOut (e - 4) ++ linksIn (e - 4)).foldl (fun σ l => σ.emptyLink core l) σ
    σ.setFrag core (e - 4) { f with passes := [], act := {}, nxt := {}, faulting := none }
  else
    let x := σ.copyOf core (e - 8)
    σ.setCopy core (e - 8) { x with steps := [] }

def State.haltEngines (σ : State) (core slot : Nat) : State :=
  let σ := (σ.enginesOf core slot).foldl (fun σ e => σ.haltEngine core e) σ
  { σ with landing := σ.landing.filter fun x => match x with
    | .fill c k _ _ => !(decide (c = core) && decide (k = slot))
    | .mark _ _ _ _ _ => true }

/-- The slot holds no task and is not stopped. Its registers, its window bases, its stall limit and its fault record stay as they are:
the next lot's start clears them (R320). -/
def freeCtx (c : Ctx) : Ctx :=
  { c with task := none, stopped := none, posted := [], postedAbort := none, postedKill := none, exited := false, yieldTo := none,
           draining := false, retryAt := none, stall := 0, held := [], combs := [], seen := [], vseen := [], lines := [], lineVas := [], fences := [],
           fenceWait := none, tagLines := [], vTagLines := [], after := [], committed := false, stopping := none, gateStall := none, check := {}, snap := {} }
/-- The slot is free. Of what it has sent, the stores are still carried (R101), and a contribution in a round keeps its place in it, with the
status word that its member may be due (R397). -/
def State.freeSlot (σ : State) (core slot : Nat) : State :=
  let σ := { σ with fabReqs := σ.fabReqs.filterMap fun (q : FabReq) =>
    if q.core ≠ core ∨ q.slot ≠ slot ∨ q.store.isSome then some q
    else if q.round.isSome ∧ q.answer = none then some { q with slot := noSlot } else none }
  σ.setCtx core slot (freeCtx (σ.ctxOf core slot))

/-! ## Context areas (R381) -/

/-- The lowest area of a VF's pool that no context holds. -/
def State.freeArea (σ : State) (vf : Nat) : Option Nat :=
  let n := (σ.reg 0 (0x3808 + 16 * (vf - 1))).toNat % 2 ^ 16
  (List.range n).find? fun i => !(Tbl.get σ.areas [] vf).contains i
def State.takeArea (σ : State) (vf i : Nat) : State := { σ with areas := Tbl.set σ.areas vf (i :: Tbl.get σ.areas [] vf) }
def State.dropArea (σ : State) (vf i : Nat) : State :=
  { σ with areas := Tbl.set σ.areas vf ((Tbl.get σ.areas [] vf).filter (· ≠ i)) }
/-- The area of a task is released when its context completes. -/
def State.releaseArea (σ : State) (t : Nat) : State :=
  let tk := σ.taskOf t
  match tk.ctxId with
  | some i => (σ.dropArea (σ.nodeOf tk.node).vf i).setTask t { tk with ctxId := none, areaAt := none, cont := none }
  | none => σ.setTask t { tk with areaAt := none, cont := none }

/-! ## The pool (R35, R36) -/

def State.poolAdd (σ : State) (t : Nat) : State := { σ with pool := σ.pool ++ [t] }
def State.poolDel (σ : State) (t : Nat) : State := { σ with pool := σ.pool.filter (· ≠ t) }

/-- The remainder of a task re-enters the pool as a range task of its own (R42, R45). -/
def State.repool (σ : State) (t : Nat) : State :=
  let tk := σ.taskOf t
  if tk.next < tk.hi then
    let σ := σ.setTask σ.nextTask { node := tk.node, next := tk.next, hi := tk.hi }
    let σ := (σ.setTask t { tk with hi := tk.next, split := none }).poolAdd σ.nextTask
    { σ with nextTask := σ.nextTask + 1 }
  else σ.setTask t { tk with split := none }

/-! ## Saving a context (R39, R57, R382) -/

/-- The area of a pre-empted context: everything (R57). -/
def State.areaWhole (σ : State) (core slot : Nat) : Area :=
  let c := σ.ctxOf core slot
  { ctx := c, whole := true, vec := σ.vecOf core slot,
    engs := (σ.enginesOf core slot).map fun e => (e, σ.engOf core e),
    frags := (σ.fragsWith core slot).map fun k => (k, σ.fragOf core k),
    copies := (σ.copiesWith core slot).map fun n => (n, σ.copyOf core n),
    links := ((σ.fragsWith core slot).flatMap linksOut).map fun l => (l, σ.linkOf core l),
    aBytes := σ.liveBytes core slot, wWords := σ.liveWords core slot,
    lease := σ.leaseMask core slot, gens := σ.genList core slot, plan := (σ.coreOf core).plan }

/-- The lot-start registers with those of a record reloaded (R40). A link's generator starts again from the lot's seed after a waiting
instruction: no rule names it (log 34). -/
def resumeCtx (c : Ctx) (k : Checkpoint) : Ctx :=
  { pc := k.pc, npc := k.npc, pslots := k.pslots, s := k.s, b := k.b, f := k.f,
    lotno := c.lotno, wid := c.wid, srseed := c.srseed, asize := c.asize, wsize := c.wsize, abase := c.abase,
    wbase := c.wbase, stallLim := c.stallLim, liveA := c.liveA, liveW := c.liveW, task := c.task, fault := c.fault, check := k,
    committed := c.committed }

/-- The continuation of a waiting instruction (R39 steps 4 and 5): record and live granules. -/
def State.areaWait (σ : State) (core slot : Nat) (k : Checkpoint) : Area :=
  { ctx := resumeCtx (σ.ctxOf core slot) k, aBytes := σ.liveBytes core slot, wWords := σ.liveWords core slot }

/-- The continuation of an idempotent abort (R45): the last checkpoint, with the snapshot of R44 over the lot-start values. -/
def abortArea (c : Ctx) (aBytes : Tbl Byte) (wWords : Tbl Nat) : Area :=
  let n := c.snap
  let r := resumeCtx c c.check
  { ctx := { r with rings := n.rings, tagdone := n.tagdone, tagerr := n.tagerr, rv := n.rv, q := n.q, tx := n.tx,
                    cv := n.cv, snap := n, cmdNo := c.cmdNo, out := n.out, res := n.res, fences := n.fences,
                    linkGens := n.linkGens, tagcause := n.tagcause, committed := c.committed || c.exited, check := { c.check with kind := 4 } },
    engs := n.engs, copies := n.steps.map fun (p : Nat × List CopyStep) =>
      (p.1, { draining := n.drains.contains p.1, steps := p.2, nextStep := p.2.foldl (fun a s => if a ≤ s.idx then s.idx + 1 else a) 0 }),
    frags := n.frags, links := n.links.map fun (p : Nat × Link) => (p.1, { p.2 with queue := [] }),
    aBytes := aBytes, wWords := wWords,
    lease := n.lease, gens := n.gens, plan := n.plan }
def State.areaAbort (σ : State) (core slot : Nat) : Area :=
  abortArea (σ.ctxOf core slot) (σ.liveBytes core slot) (σ.liveWords core slot)

/-- The slot holds a task that runs: one that CTXLD has put there is SAVED until its grants arrive (R57, R379). -/
def State.slotRuns (σ : State) (core slot : Nat) : Bool := (σ.ctxOf core slot).task.any fun t => decide ((σ.taskOf t).state = .running)

/-! ## Ends of a lot -/

/-- Steps 1 to 3 and 5 of R45 for a lot: held stores and combines discarded, engines stopped and emptied, leases returned. -/
def State.dropLot (σ : State) (core slot : Nat) : State :=
  let c := σ.ctxOf core slot
  let σ := σ.setCtx core slot { c with held := [], combs := [], seen := [], vseen := [], lines := [], lineVas := [], fences := [], fenceWait := none }
  (σ.haltEngines core slot).returnLeases core slot

/-- The lot on a slot is discarded without a continuation and the slot freed; its task ends in the given state (R42, R308). -/
def State.discardLot (σ : State) (core slot : Nat) (st : TaskState) : State :=
  match (σ.ctxOf core slot).task with
  | none => σ
  | some t =>
    let σ := (σ.dropLot core slot).recode core slot 7 none
    let σ := (σ.releaseArea t).freeHeld t
    let σ := σ.setTask t { σ.taskOf t with state := st, split := none }
    σ.freeSlot core slot

/-- Whether every task of a node has ended. -/
def State.nodeEnded (σ : State) (n : Nat) : Bool :=
  σ.tasks.all fun p => decide (p.2.node ≠ n) || decide (p.2.state = .done) || decide (p.2.state = .cancelled)
    || decide (p.2.state = .cancelledRunning) || decide (p.2.state = .killed)

/-- The queue identifier and node index a notice about a node carries. -/
def Node.qnotice (nd : Node) (σ : State) (code detail : Nat) : State := σ.notice nd.vf code nd.queue nd.index detail

/-- The update of a queue's control block (R388): the other copy is stored whole, then selected. -/
def Queue.update (q : Queue) (graph : Nat) : Queue :=
  let c := 1 - q.sel
  { q with copies := Tbl.set q.copies c { seq := q.seq + 1, ridx := q.ridx, graph := graph, halted := q.halted, en := q.en },
           sel := c, seq := q.seq + 1 }
/-- The recovery of a queue from its control block (R388). -/
def Queue.recover (q : Queue) : Queue :=
  match Tbl.find? q.copies q.sel with
  | some c => { q with seq := c.seq, ridx := c.ridx, halted := c.halted, en := c.en }
  | none => q

/-- A graph stops and its queue halts (R353), except that a cancel halts nothing. -/
def State.stopGraph (σ : State) (g : Nat) : State :=
  let gr := Tbl.get σ.graphs {} g
  let q := Tbl.get σ.queues {} (gr.vf * 64 + gr.queue)
  { σ with graphs := Tbl.set σ.graphs g { gr with stopped := true, ready := [] },
           queues := Tbl.set σ.queues (gr.vf * 64 + gr.queue) (({ q with halted := true } : Queue).update g) }

/-- A launch node is killed (R42): KILLED with the cause to the queue's VF, once; the graph stops; a kill goes to its lots. -/
def State.killNode (σ : State) (n cause : Nat) : State :=
  let nd := σ.nodeOf n
  if nd.killed then σ else
  let σ := σ.setNode n { nd with killed := true, cause := cause }
  let σ := nd.qnotice σ 9 cause
  let σ := match nd.graph with
    | some g => σ.stopGraph g
    | none => σ
  σ.push (.nodeKill n)

/-- The lot on a slot ends and its launch node is killed (R42, R374 fatal). -/
def State.killLot (σ : State) (core slot cause : Nat) : State :=
  match (σ.ctxOf core slot).task with
  | none => σ
  | some t =>
    let n := (σ.taskOf t).node
    (σ.discardLot core slot .killed).killNode n cause

/-- The idempotent abort of R45. The continuation waits for its page, for a lot without an area in the slot itself (R381). -/
def State.abortLot (σ : State) (core slot : Nat) (page : Option (Word × Bool)) : State :=
  match (σ.ctxOf core slot).task with
  | none => σ
  | some t =>
    let area := σ.areaAbort core slot
    let vf := σ.vfOf core slot
    let σ := if σ.slotRuns core slot then σ else σ.withdrawLeases t
    let σ := (σ.dropLot core slot).recode core slot 5 (some t)
    let σ := σ.repool t
    let tk := σ.taskOf t
    let tk := { tk with state := .aborting, page := page, core := some core, slot := slot, cont := some area }
    match tk.ctxId with
    | some _ => ((σ.setTask t tk).writeArea t).freeSlot core slot
    | none =>
      match σ.freeArea vf with
      | some i => (((σ.takeArea vf i).setTask t { tk with ctxId := some i }).writeArea t).freeSlot core slot
      | none =>
        let c := σ.ctxOf core slot
        (σ.setTask t tk).setCtx core slot { c with stopped := some causeNonresident, stopping := none }

/-- The idempotent abort of a lot whose context is saved (R45, R57): what it held is discarded, and it goes back to its checkpoint. -/
def State.abortSaved (σ : State) (t : Nat) (page : Option (Word × Bool)) : State :=
  let σ := σ.withdrawLeases t
  let σ := (σ.poolDel t).repool t
  let tk := σ.taskOf t
  let a := tk.cont.getD {}
  (σ.setTask t { tk with state := .aborting, page := page, heldFault := false, cont := some (abortArea a.ctx a.aBytes a.wWords) }).writeArea t

/-- A fault of the host-assisted service, or a pre-emption: the context is saved whole and the slot freed (R57, R374). One whose grants
have not arrived is saved as it was loaded. -/
def State.saveLot (σ : State) (core slot : Nat) (heldFault : Bool) : State :=
  match (σ.ctxOf core slot).task with
  | none => σ
  | some t =>
    let area := if σ.slotRuns core slot then σ.areaWhole core slot else (σ.taskOf t).cont.getD {}
    let vf := σ.vfOf core slot
    let σ := if σ.slotRuns core slot then σ else σ.withdrawLeases t
    let c := σ.ctxOf core slot
    let σ := σ.setCtx core slot { c with fences := [], fenceWait := none }
    let σ := ((σ.haltEngines core slot).returnLeases core slot).recode core slot 5 (some t)
    let tk := σ.taskOf t
    let i := σ.freeArea vf
    let σ := match tk.ctxId, i with
      | none, some i => σ.takeArea vf i
      | _, _ => σ
    ((σ.setTask t { tk with state := .saved, core := some core, slot := slot, cont := some area, heldFault := heldFault,
                            ctxId := tk.ctxId.orElse fun _ => i }).writeArea t).freeSlot core slot

/-- Whether a pre-emption or a held fault finds an area (R381). -/
def State.areaReady (σ : State) (core slot : Nat) : Bool :=
  match (σ.ctxOf core slot).task with
  | none => false
  | some t => (σ.taskOf t).ctxId.isSome || (σ.freeArea (σ.vfOf core slot)).isSome

/-- A word of the slot or of one of its engines has been sent to another package, or contributed, and is in progress (R208, R240). -/
def State.wordSent (σ : State) (core slot : Nat) : Bool :=
  σ.fabReqs.any fun q => decide (q.core = core) && decide (q.slot = slot) && q.store.isNone

/-- Every engine serving the slot has completed the step in progress (R57, R233, R264, R280): no vector word that has popped waits, no
copy step is in flight, no word of the control core or the vector engine waits for another package (R208, R240), and no pass is, but one that cannot go on before its link has room. Where a vector push finds no free slot in
its ring, nothing of the lot can make one any more, and the word is saved with what it has popped (log 83). -/
def State.stepsDone (σ : State) (core slot : Nat) : Bool :=
  (σ.enginesOf core slot).all (fun e =>
    if e < 4 then
      match (σ.engOf core e).run.bind Run.pend with
      | none => true
      | some p => decide (((σ.ctxOf core slot).ring p.1).free = 0)
    else if e < 8 then
      let f := σ.fragOf core (e - 4)
      (!f.nxt.pending || f.nxt.ready) && f.faulting.isNone &&
      match f.passes with
      | [] => true
      | p :: _ => p.applied && (p.chain.any fun c => decide (Config.linkDepth ≤ (σ.linkOf core c.link).queue.length))
    else (σ.copyOf core (e - 8)).steps.isEmpty)
  && !σ.wordSent core slot
  && σ.landing.all fun x => match x with
    | .fill c k _ _ => !(decide (c = core) && decide (k = slot))
    | .mark c k _ _ _ => !(decide (c = core) && decide (k = slot))

/-- A fault whose context the host is asked about (R374): the context is saved once the steps in progress are complete and an area is
free (R57, R381), and FAULT_HELD is posted. A posted end of the lot goes before it (R422). -/
def State.saveHeld (σ : State) (core slot : Nat) : State :=
  let c := σ.ctxOf core slot
  if c.stopping ≠ some .held ∨ c.postedAbort.isSome ∨ c.postedKill.isSome ∨ !σ.stepsDone core slot ∨ !σ.areaReady core slot then σ else
  let t := c.task.getD 0
  let nd := σ.nodeOf (σ.taskOf t).node
  let σ := (σ.setCtx core slot { c with fault := { c.fault with held := true }, stopping := none }).saveLot core slot true
  σ.notice nd.vf 23 nd.queue nd.index (c.fault.cause + (σ.taskOf t).ctxId.getD 0 * 2 ^ 16)

/-- A satisfied wait puts its continuation into the pool within the step that satisfied it or at once after it (R41); a gate
whose end message the continuation received becomes FREE (R289). -/
def State.enqueueCont (σ : State) (t : Nat) : State :=
  let tk := σ.taskOf t
  if tk.state = .waiting ∨ tk.state = .aborting then
    let σ := match tk.cont.bind Area.msg with
      | some (g, m) =>
        let gt := Tbl.get σ.gates {} g
        if bits m.hdr.toNat 23 20 ≠ 1 ∧ gt.state = 3 then
          { σ with gates := Tbl.set σ.gates g { gt with state := 1, acts := [], obs := [] } }
        else σ
      | none => σ
    (σ.setTask t { tk with state := .pooled, page := none, cont := tk.cont.map fun a => { a with msg := none, took := none } }).poolAdd t
  else σ

/-- A task that is not running ends: its registrations and lease requests are withdrawn, its held slabs and its area freed
(R42 cancel and kill rows; R192, R194, R215, R289). A taken tuple goes back by the Market's own rule. -/
def State.endTask (σ : State) (t : Nat) (st : TaskState) : State :=
  let σ := { σ with watches := σ.watches.filter fun w => decide (w.task ≠ some t) }
  let σ := σ.withdrawLeases t
  let back : Option (Nat × Msg) := (σ.taskOf t).cont.bind Area.msg
  let σ := { σ with gates := σ.gates.map fun (p : Nat × Gate) =>
    (p.1, { p.2 with waiters := p.2.waiters.filter (fun (w : Nat × Word) => decide (w.1 ≠ t)),
                     obs := match back with
                       | some (g, m) => if g = p.1 then m :: p.2.obs else p.2.obs
                       | none => p.2.obs }) }
  let σ := ((σ.poolDel t).freeHeld t).releaseArea t
  σ.setTask t { σ.taskOf t with state := st, split := none, page := none }

end Sys2Proof.Machine
end

