-- ==== Sys2Proof/Machine/Gates.lean ====
section
/-!
DEFINITION. The gates and the ends of episodes (15 R285 to R290, R299 to R303): messages, observations delivered to waiting
MBOBS, the end of an episode with its message and its descriptor, and the policy generation.
-/

namespace Sys2Proof.Machine

def State.gateOf (σ : State) (g : Nat) : Gate := Tbl.get σ.gates {} g
def State.setGate (σ : State) (g : Nat) (v : Gate) : State := { σ with gates := Tbl.set σ.gates g v }
def State.epOf (σ : State) (vf ep : Nat) : Episode := Tbl.get σ.episodes {} (vf * 4096 + ep)
def State.setEp (σ : State) (vf ep : Nat) (v : Episode) : State := { σ with episodes := Tbl.set σ.episodes (vf * 4096 + ep) v }
def State.rinkOf (σ : State) (n : Nat) : Rink := Tbl.get σ.rinks {} n
def State.setRink (σ : State) (n : Nat) (v : Rink) : State := { σ with rinks := Tbl.set σ.rinks n v }

/-- A message header (R290) of format 1.0 (R291). -/
def msgHeader (gen seq kind reason : Nat) (ptr : Bool) (len : Nat) : Word :=
  BitVec.ofNat 64 (gen % 2 ^ 24 * 2 ^ 40 + seq % 256 * 2 ^ 32 + 2 ^ 28 + kind * 2 ^ 20 + reason * 2 ^ 16
    + (if ptr then 2 ^ 15 else 0) + len)
def Msg.kind (m : Msg) : Nat := bits m.hdr.toNat 23 20
def Msg.gen (m : Msg) : Nat := bits m.hdr.toNat 63 40
/-- LEN and OFF of a message descriptor (R197). -/
def descLen (d : Word) : Nat := bits d.toNat 40 32
def descOff (d : Word) : Nat := bits d.toNat 23 0

/-- A waiting MBOBS receives a message (R197): the header in s8, the payload's first LEN bytes in A after the restore. -/
def State.deliverMsg (σ : State) (g t : Nat) (desc : Word) (m : Msg) : State :=
  let tk := σ.taskOf t
  let put (a : Area) : Area :=
    { a with deliver := Tbl.set a.deliver 8 m.hdr, msg := some (g, m),
             deliverA := ((m.data.take (descLen desc)).zipIdx).map fun p => (descOff desc + p.2, p.1) }
  σ.setTask t { tk with cont := tk.cont.map put }

/-- Registered MBOBS are served in registration order while observations are queued (R288, R289). -/
def State.serveGate (σ : State) (g : Nat) : State :=
  (σ.gateOf g).waiters.foldl (fun σ w =>
    let gt := σ.gateOf g
    match gt.obs with
    | [] => σ
    | m :: r =>
      ((σ.setGate g { gt with obs := r, waiters := gt.waiters.filter fun (x : Nat × Word) => decide (x.1 ≠ w.1) }).deliverMsg g w.1 w.2 m).push
        (.continuationEnqueue w.1)) σ

/-- Generation stamp of an episode's observations (R295, R302). -/
def Episode.stamp (e : Episode) : Nat := if e.kind = 1 ∧ e.received then e.lastGen else e.pin % 2 ^ 24

/-- The lag of an environment exceeds its MAXLAG (R301). -/
def State.stale (σ : State) (vf : Nat) (e : Episode) : Bool :=
  decide (e.kind = 0) && decide (e.maxlag ≠ 255)
    && decide (e.maxlag < (Tbl.get σ.polgen 0 vf + 2 ^ 32 - e.pin % 2 ^ 32) % 2 ^ 32)

/-- Words of an episode's descriptor are rewritten by the device (R285), through the queue table. Where the entry is not resident the
word is owed, and is written once it is, as a Rink access waits under R282; a word that fails otherwise is not written. -/
def State.descWrite (σ : State) (vf ep word : Nat) (v : Nat) (n : Nat) : State :=
  let va := σ.reg vf 0x30 + BitVec.ofNat 64 (64 * ep + 8 * word)
  let e := σ.epOf vf ep
  match σ.feAddr vf va n .write with
  | .ok pa => (σ.setEp vf ep { e with owed := Tbl.del e.owed word }).writeQuiet (bytesAt pa n v)
  | .error t =>
    if t.cause = causeNonresident ∨ t.cause = causeCow then
      (σ.setEp vf ep { e with owed := Tbl.set e.owed word (v, n) }).pageWant vf 1 t.detail (t.cause = causeCow)
    else σ.setEp vf ep { e with owed := Tbl.del e.owed word }
/-- The words a descriptor is owed are tried again. -/
def State.descRetry (σ : State) (vf ep : Nat) : State :=
  (σ.epOf vf ep).owed.foldl (fun σ p => σ.descWrite vf ep p.1 p.2.1 p.2.2) σ

/-! ## The cache of a Rink core (R283) -/

/-- Lines of 64 bytes a Rink core's cache of 448 KiB holds (log 39). -/
def rinkLines : Nat := 448 * 1024 / 64

def RLine.byte (l : RLine) (i : Nat) : Byte := l.data.extractLsb' (8 * i) 8
/-- A byte of a line replaced; a store's byte is dirty. -/
def RLine.put (l : RLine) (i : Nat) (b : Byte) (dirty : Bool) : RLine :=
  { l with data := (l.data &&& ~~~(BitVec.ofNat 512 (255 * 2 ^ (8 * i)))) ||| BitVec.ofNat 512 (b.toNat * 2 ^ (8 * i)),
           dirty := if dirty then l.dirty ||| BitVec.ofNat 64 (2 ^ i) else l.dirty }
/-- The dirty bytes of a line, with their addresses. -/
def RLine.dirtyBytes (l : RLine) : List (Nat × Byte) :=
  ((List.range 64).filter fun i => l.dirty.getLsbD i).map fun i => (64 * l.line + i, l.byte i)
/-- A line takes bytes that another agent has written, except where it is dirty itself. -/
def RLine.snoop (l : RLine) (ws : List (Nat × Byte)) : RLine :=
  ws.foldl (fun (l : RLine) p => if p.1 / 64 = l.line ∧ !l.dirty.getLsbD (p.1 % 64) then l.put (p.1 % 64) p.2 false else l) l

/-- Whether an episode's line holds an address: a line never hits for another episode. -/
def RLine.hits (id pa : Nat) (l : RLine) : Bool := decide (l.ep = id) && decide (l.line = pa / 64)
def State.rinkLine (σ : State) (n id pa : Nat) : Option RLine := (σ.rinkOf n).lines.find? (RLine.hits id pa)

/-- Dirty bytes of an episode are performed at their home slices, where its VF owns the frame (R282); other Rink cores' lines follow, as
RVWMO among them asks (R83, R281). -/
def State.rinkPerform (σ : State) (vf : Nat) (ws : List (Nat × Byte)) : State :=
  let ws := ws.filter fun p => ownerMatches vf (σ.frameRec (frameOf p.1)).owner
  if ws.isEmpty then σ else
  ({ σ with rinks := σ.rinks.map fun (p : Nat × Rink) => (p.1, { p.2 with lines := p.2.lines.map fun l => l.snoop ws }) } : State).writeList ws

/-- An episode's dirty lines are written back; then its lines stay, clean, or leave the cache. -/
def State.rinkFlush (σ : State) (n id : Nat) (keep : Bool) : State :=
  let k := σ.rinkOf n
  let mine := k.lines.filter fun l => decide (l.ep = id)
  let rest := k.lines.filter fun l => decide (l.ep ≠ id)
  if mine.isEmpty then σ else
  let σ := σ.setRink n { k with lines := if keep then (mine.map fun l => { l with dirty := 0 }) ++ rest else rest }
  σ.rinkPerform (id / 4096) (mine.flatMap RLine.dirtyBytes)

/-- A full cache writes back a line and gives its place to another: which is a free value (log 39). -/
def State.rinkRoom (σ : State) (n : Nat) : State :=
  let k := σ.rinkOf n
  if k.lines.length < rinkLines then σ else
  let i := (Config.freeWord σ.fresh).toNat % k.lines.length
  match k.lines[i]? with
  | none => σ
  | some l => (σ.tickFresh.setRink n { k with lines := k.lines.eraseIdx i }).rinkPerform (l.ep / 4096) l.dirtyBytes

/-- A line of an episode is in the cache, filled from memory where it was not. -/
def State.rinkFill (σ : State) (n id pa : Nat) : State :=
  if (σ.rinkLine n id pa).isSome then σ else
  let σ := σ.rinkRoom n
  let k := σ.rinkOf n
  σ.setRink n { k with lines := { ep := id, line := pa / 64, data := BitVec.ofNat 512 (σ.memNat (pa / 64 * 64) 64) } :: k.lines }

/-- A byte as the episode reads it. -/
def State.rinkByte (σ : State) (n id pa : Nat) : Byte :=
  match σ.rinkLine n id pa with
  | some l => l.byte (pa % 64)
  | none => σ.memByte pa
/-- Stores of an episode into its lines. -/
def State.rinkStore (σ : State) (n id : Nat) (ws : List (Nat × Byte)) : State :=
  ws.foldl (fun σ p =>
    let σ := σ.rinkFill n id p.1
    let k := σ.rinkOf n
    σ.setRink n { k with lines := k.lines.map fun l => if l.hits id p.1 then l.put (p.1 % 64) p.2 true else l }) σ
/-- The lines of a frame leave every Rink core's cache, written back where they are dirty. -/
def State.rinkDrain (σ : State) (f : Nat) : State :=
  let here (l : RLine) : Bool := decide (l.line / 2 ^ 15 = f)
  let out := σ.rinks.flatMap fun (p : Nat × Rink) => p.2.lines.filter here
  if out.isEmpty then σ else
  out.foldl (fun (σ : State) l => σ.rinkPerform (l.ep / 4096) l.dirtyBytes)
    ({ σ with rinks := σ.rinks.map fun (p : Nat × Rink) => (p.1, { p.2 with lines := p.2.lines.filter fun l => !here l }) } : State)

/-- Die a gate is homed on (R288). -/
def gateDie (g : Nat) : Nat := g / 1024

/-- The round-robin goes on behind an episode that leaves it (R286). -/
def Rink.behind (k : Rink) (id : Nat) : Rink :=
  let i := k.resident.idxOf id
  { k with resident := k.resident.drop (i + 1) ++ k.resident.take i, current := none }

/-- An episode ends (R287, R303): it stops, its dirty lines are written back (R283), its actions are discarded, the end message is placed
after the queued observations, RESULT, STATUS and STATE are written, and the die's placement queue moves on (R286). Reason 3 is STALE.
An MBACT stalled on the gate completes (R289). -/
def State.endEpisode (σ : State) (vf ep reason value : Nat) : State :=
  let e := σ.epOf vf ep
  if e.state ≠ 1 ∧ e.state ≠ 2 then σ else
  let id := vf * 4096 + ep
  let σ := if e.state = 2 then σ.rinkFlush e.rink id false else σ
  let gt := σ.gateOf e.gate
  let kind := if reason = 3 then 3 else 2
  let first := if reason = 3 then Tbl.get σ.polgen 0 vf else value
  let second := if reason = 3 then e.pin else e.steps
  let m : Msg := { hdr := msgHeader e.stamp gt.seqObs kind reason false 16, data := natBytes 8 first ++ natBytes 8 second }
  let σ := σ.setGate e.gate { gt with state := 3, acts := [], obs := gt.obs ++ [m], seqObs := (gt.seqObs + 1) % 256 }
  let σ := σ.setEp vf ep { e with state := 3, suspended := false, blocked := 0 }
  let k := σ.rinkOf e.rink
  let σ := if e.state ≠ 2 then σ else
    σ.setRink e.rink (if k.current = some id then k.behind id else { k with resident := k.resident.filter fun x => decide (x ≠ id) })
  let σ := (σ.descWrite vf ep 7 first 8).descWrite vf ep 0 (3 + reason * 256) 2
  let ended (c : Ctx) : Ctx := if c.gateStall = some (e.gate, false) then { c with gateStall := some (e.gate, true) } else c
  let σ : State := { σ with ctxs := σ.ctxs.map fun (p : Nat × Ctx) => (p.1, ended p.2) }
  (σ.serveGate e.gate).push (.episodePlace (gateDie e.gate))

/-- POLGEN of a VF rises by one, as a release (R300), and every blocked MB.RECV of the VF tests its lag again (R293, R301). -/
def State.bumpPolgen (σ : State) (vf : Nat) : State :=
  let σ := { σ with polgen := Tbl.set σ.polgen vf ((Tbl.get σ.polgen 0 vf + 1) % 2 ^ 32) }
  (σ.episodes.filter fun (p : Nat × Episode) =>
      decide (p.1 / 4096 = vf) && decide (p.2.state = 2) && decide (p.2.blocked = 1) && σ.stale vf p.2).foldl
    (fun σ p => σ.endEpisode vf (p.1 % 4096) 3 0) σ

end Sys2Proof.Machine
end

