-- ==== Sys2Proof/Machine/Ops.lean ====
section
/-!
DEFINITION. Taking a trap and returning from one (23 R374 to R377, R379), and the operations the control-core instructions
share: loads and stores of each space, phase boundaries and effect instructions (R43, R85), system-register access (R173).
-/

namespace Sys2Proof.Machine

/-! ## Traps (R374 to R377) -/

/-- The causes whose disposition R374 gives as fault service. -/
def isFaultService (cause : Nat) : Bool :=
  [causeWritePerm, causeOwner, causeSealFail, causeFabTimeout, causeStallLimit].contains cause
/-- The causes R374 marks fatal. -/
def isFatal (cause : Nat) : Bool :=
  [causeIllegal, causePriv, causeAlign, causeOutside, causeFragFault, causeStepIllegal, causeGateClosed, causeCommitFull,
   causeLeaseBad].contains cause

/-- Slots that firmware was pre-empting go on when its program is gone. -/
def State.unstop (σ : State) (core : Nat) : State :=
  [0, 1, 2, 3].foldl (fun (σ : State) k =>
    let c := σ.ctxOf core k
    if c.stopping = some .ctxsv ∨ c.stopping = some .tried then σ.setCtx core k { c with stopping := none } else σ) σ

/-- Firmware's own trap halts its context and raises WATCHDOG to the management controller (R379). -/
def State.haltFirmware (σ : State) (core : Nat) : State :=
  let c := σ.ctxOf core 4
  ({ σ.setCtx core 4 { c with halted := true } with errors := σ.errors ++ [(causeWatchdog, core)] } : State).unstop core

/-- Fault service of R374: as a fatal cause in hardware mode; saved with HELD and reported in host-assisted mode, once the steps in
progress are complete and an area is free (R57, R381). -/
def State.faultService (σ : State) (core slot cause : Nat) : State :=
  let vf := σ.vfOf core slot
  let c := σ.ctxOf core slot
  if !σ.hostMode vf 2 then
    ((σ.setCtx core slot { c with fault := { c.fault with fatal := true } }).writeFault core slot { c.fault with fatal := true } true).killLot core slot
      cause
  else (σ.setCtx core slot { c with stopping := some .held }).saveHeld core slot

/-- What TRAP_CALL asks for by code (R375): 1 commits the phase and increments POLGEN, 2 posts TRAP_NOTE. -/
def State.trapService (σ : State) (core slot tcode : Nat) : State :=
  if tcode = 1 then (σ.commit core slot).bumpPolgen (σ.vfOf core slot)
  else if tcode = 2 then
    let nd := σ.nodeAt core slot
    σ.notice (σ.vfOf core slot) 26 nd.queue nd.index ((σ.ctxOf core slot).sreg 1).toNat
  else σ
/-- The service of a TRAP_CALL (R375): the lot resumes after the TRAP; any other code is fatal. -/
def State.trapCall (σ : State) (core slot tcode : Nat) : State :=
  if tcode = 1 ∨ tcode = 2 then
    let σ := σ.trapService core slot tcode
    σ.setCtx core slot { (σ.ctxOf core slot).advance with stopped := none }
  else
    let c := σ.ctxOf core slot
    ((σ.setCtx core slot { c with fault := { c.fault with fatal := true } }).writeFault core slot { c.fault with fatal := true } true).killLot core slot
      causeTrapCall

/-- An event for firmware (R378): each source holds one pending event, a further one waits at the source. Where no program runs in the
firmware context, the service of the cause, which the model performs itself, has read it. -/
def State.raiseEvent (σ : State) (core src cause : Nat) : State :=
  let k := σ.coreOf core
  if !k.fwProgram then σ
  else if k.events.any fun e => decide (e.1 = src) then
    σ.setCore core { k with waitingEvents := k.waitingEvents ++ [(src, cause)] }
  else σ.setCore core { k with events := k.events ++ [(src, cause)] }

/-- A slot touches a foreign slab (R383): in host-assisted mode the hypervisor is asked first, by the mode of the time of the touch
(R354). A touch that is being served already is not noted again; one that a program in the firmware context serves ends with its ACCSPILL. -/
def State.wantSlab (σ : State) (core slot slab : Nat) : State :=
  let k := σ.coreOf core
  if k.foreign.any fun f => decide (f.1 = slab) && decide (f.2.1 = slot) then σ else
  let ask := σ.hostMode (σ.vfOf core slot) 7
  let σ := σ.setCore core { k with foreign := k.foreign ++ [(slab, slot, ask || k.fwProgram)] }
  if ask then σ.hyperNotice 24 (σ.vfOf core slot) (slab + core * 2 ^ 16 + slot * 2 ^ 24)
  else if k.fwProgram then σ
  else σ.push (.accForeign core slab slot)

/-- The services of a trap that need no release of the slot, where a program in the firmware context releases it (R376): PAGE_WANTED, what a
TRAP_CALL asks for, ACC_WANTED (log 66). -/
def State.noteFault (σ : State) (core ctx : Nat) (r : FaultRec) : State :=
  if r.cause = causeNonresident ∨ r.cause = causeCow then σ.pageWant (σ.vfOf core ctx) 0 r.detail (r.cause = causeCow)
  else if r.cause = causeTrapCall then σ.trapService core ctx r.tcode
  else if r.cause = causeAccForeign then σ.wantSlab core ctx r.detail.toNat
  else σ

/-- The fault record is written and the slot stops (R376). A program in the firmware context, told by an event, releases it with ERET; where
none runs, the cause's disposition follows (R374, log 66). -/
def State.enterFault (σ : State) (core ctx : Nat) (r : FaultRec) : State :=
  let c := σ.ctxOf core ctx
  let r := { r with fatal := isFatal r.cause || (decide (r.cause = causeTrapCall) && decide (r.tcode ≠ 1) && decide (r.tcode ≠ 2)) }
  let σ := σ.setCtx core ctx { c with fault := r, stopped := some r.cause, stall := 0 }
  let σ := (σ.writeFault core ctx r true).raiseEvent core r.src r.cause
  if (σ.coreOf core).fwProgram then σ.noteFault core ctx r
  else if r.cause = causeNonresident ∨ r.cause = causeCow then
    (σ.pageWant (σ.vfOf core ctx) 0 r.detail (r.cause = causeCow)).abortLot core ctx (some (r.detail, decide (r.cause = causeCow)))
  else if isFaultService r.cause then σ.faultService core ctx r.cause
  else if r.cause = causeAccForeign then
    σ.wantSlab core ctx r.detail.toNat
  else if r.cause = causeMkFull then
    σ.setCtx core ctx { σ.ctxOf core ctx with retryAt := some (σ.time + Config.mkRetryTicks) }
  else if r.cause = causeTrapCall then σ.trapCall core ctx r.tcode
  else σ.killLot core ctx r.cause

/-- Taking a trap: the one entry of every precise trap. Firmware's own halts its context. -/
def State.takeTrap (σ : State) (core ctx : Nat) (tr : Tr) : State :=
  let σ := if tr.cause = causeSealFail then σ.sealNoticeAt core ctx tr.detail else σ
  if ctx = Config.fwCtx then σ.haltFirmware core
  else σ.enterFault core ctx
    { cause := tr.cause, src := ctx, pc := (σ.ctxOf core ctx).pc, detail := tr.detail, tcode := tr.tcode, time := σ.time }

/-- The acting context's word traps. -/
def State.trap (σ : State) (tr : Tr) : Out := .next (σ.takeTrap σ.core σ.ctx tr)
def State.trapWith (σ : State) (cause : Nat) (detail : Word := 0) : Out := σ.trap { cause := cause, detail := detail }

/-- The return from a trap (R379): 0 issue the word again, 1 resume after it, 2 kill the node, 3 abort as NONRESIDENT. -/
def State.returnTrap (σ : State) (core slot action : Nat) : State :=
  let c := σ.ctxOf core slot
  if action = 0 then σ.setCtx core slot { c with stopped := none, retryAt := none }
  else if action = 1 then σ.setCtx core slot { c.advance with stopped := none, retryAt := none, gateStall := none, fenceWait := none }
  else if action = 2 then σ.killLot core slot (c.stopped.getD 0)
  else
    let paged : Bool := decide (c.stopped = some causeNonresident) || decide (c.stopped = some causeCow)
    σ.abortLot core slot (if paged then some (c.fault.detail, decide (c.stopped = some causeCow)) else none)

/-- A fault of an engine, posted to the slot it serves with its source and micro-PC, taken at the next boundary (R60, R376). -/
def State.postFault (σ : State) (core slot src cause upc fcause : Nat) (detail : Word := 0) : State :=
  let c := σ.ctxOf core slot
  let r : FaultRec := { cause := cause, src := src, upc := upc, fcause := fcause, detail := detail, time := σ.time,
                        fatal := isFatal cause }
  ((σ.setCtx core slot { c with posted := c.posted ++ [r] }).writeFault core slot r false).push (.postedFault core slot)

/-! ## The Avenue (24 R391, R393, R398) -/

/-- What a port has of an access it sent: an answer, a refusal, nothing yet, or nothing in time. -/
inductive FabAns where
  | reply (σ : State)
  | refused (σ : State)
  | wait (σ : State)
  | timeout (σ : State)


/-- The port that carries a record's traffic, to its package or to a member's crossing group, is up: its LINK_UP has found a common major
(R399). -/
def State.portOk (σ : State) (r : List Word) : Bool :=
  let n := bits (impWord r 1) 15 0
  decide (Tbl.get σ.portUp 0 (if impKind r = 1 then Config.groupPort n else Config.packagePort n).val = 1)

/-- The access that a slot, or one of its engines, has sent and not seen answered. -/
def State.sentBy (σ : State) (core slot : Nat) (eng : Option Nat) : Option FabReq :=
  σ.fabReqs.find? fun q => decide (q.core = core) && decide (q.slot = slot) && decide (q.engine = eng)

/-- An access through an import record can be sent: a valid record of KIND 0 (R391, R393). -/
def State.windowOk (σ : State) (i : Nat) : Bool := impValid (σ.importRec i) && decide (impKind (σ.importRec i) = 0)

/-- An access of a slot, or of one of its engines, to a remote window. The first attempt sends it under the record as it stands (R390);
what the remote package answers, and when, is a free value (log 5). -/
def State.fabricAsk (σ : State) (core slot : Nat) (eng : Option Nat) (i : Nat) (va : Word) : FabAns :=
  let r := σ.importRec i
  match σ.sentBy core slot eng with
  | none =>
    if !σ.windowOk i then .refused σ else
    .wait { σ.tickFresh with
      fabReqs := σ.fabReqs ++ [{ id := σ.fresh, core := core, slot := slot, engine := eng, va := va, deadline := σ.time + impTmo r, entry := i,
                                 record := r }] }
  | some q =>
    if q.answer = some 3 then .timeout { σ with fabReqs := σ.fabReqs.filter fun x => decide (x.id ≠ q.id) }
    else if q.answer = some 1 then .refused { σ with fabReqs := σ.fabReqs.filter fun x => decide (x.id ≠ q.id) }
    else if q.held ∨ !σ.portOk q.record then .wait σ else
    let σ' := { σ.tickFresh with fabReqs := σ.fabReqs.filter fun x => decide (x.id ≠ q.id) }
    let n := (Config.freeWord σ.fresh).toNat % 4
    if n = 1 then .refused σ' else if n = 2 then .wait σ.tickFresh else .reply σ'

/-- The name of access j of step idx of an engine to a remote window. -/
def askName (eng idx j : Nat) : Nat := eng + 16 * (idx * 2 ^ 20 + j + 1)

/-- What a port has of accesses it sent together: every one answered, and those that were not in time; one refused, with its address;
or not all answered yet. -/
inductive FabAll where
  | reply (σ : State) (late : List Nat)
  | refused (σ : State) (va : Word)
  | wait (σ : State)

/-- A look at the accesses of a list of names: each one in flight may find its answer (0 a reply, 1 a refusal). -/
def State.fabricLook (σ : State) (core slot : Nat) : List Nat → State
  | [] => σ
  | n :: l =>
    let σ : State := match σ.sentBy core slot (some n) with
      | none => σ
      | some q =>
        if q.answer.isSome ∨ q.held ∨ !σ.portOk q.record then σ else
        let a := (Config.freeWord σ.fresh).toNat % 4
        { σ.tickFresh with fabReqs := σ.fabReqs.map fun (x : FabReq) =>
            if x.id = q.id ∧ a ≠ 2 then { x with answer := some (if a = 1 then 1 else 0) } else x }
    State.fabricLook σ core slot l

/-- The accesses of an engine's word or step to remote windows, each by its name, import record and address. All are sent at the first
attempt; the word goes on once every one is answered or out of time (R393). -/
def State.fabricAskAll (σ : State) (core slot : Nat) (l : List (Nat × Nat × Word)) : FabAll :=
  let of (σ : State) (p : Nat × Nat × Word) : Option FabReq := σ.sentBy core slot (some p.1)
  if l.isEmpty then .reply σ []
  else if !l.any (fun p => (of σ p).isSome) then
    match l.find? fun p => !σ.windowOk p.2.1 with
    | some p => .refused σ p.2.2
    | none =>
      let req (σ : State) (p : Nat × Nat × Word) : FabReq :=
        { id := σ.fresh, core := core, slot := slot, engine := some p.1, va := p.2.2, deadline := σ.time + impTmo (σ.importRec p.2.1),
          entry := p.2.1, record := σ.importRec p.2.1 }
      .wait (l.foldl (fun (σ : State) p => { σ.tickFresh with fabReqs := σ.fabReqs ++ [req σ p] }) σ)
  else
    let σ := σ.fabricLook core slot (l.map (·.1))
    let has (a : Nat) (p : Nat × Nat × Word) : Bool := decide ((of σ p).bind FabReq.answer = some a)
    if l.any fun p => (of σ p).any fun q => q.answer.isNone then .wait σ
    else
      let σ' := { σ with fabReqs := σ.fabReqs.filter fun x =>
        !(decide (x.core = core) && decide (x.slot = slot) && l.any fun p => decide (x.engine = some p.1)) }
      match l.find? (has 1) with
      | some p => .refused σ' p.2.2
      | none => .reply σ' ((l.filter (has 3)).map (·.1))

/-! ## Loads of G (R87, R167, R168) -/

/-- Whether a physical address is a fabric window's. -/
def Xl.remote (x : Xl) : Bool := decide (x.cls = 2)

/-- The key of a byte in the commit buffer: a fabric window's bytes lie beyond physical memory, those of each import record by themselves. -/
def Xl.key (x : Xl) : Nat := if x.cls = 2 then physLimit + x.frame * 2 ^ 29 + x.off else x.pa

/-- A byte read from memory in the phase is what later reads of the lot find (R87): those of the control core and of the vector engine, but
for one that already has another value of it. -/
def Ctx.noteRead (c : Ctx) (pa : Nat) (b : Byte) : Ctx :=
  if c.hasByte pa then c
  else { c with seen := Tbl.set c.seen pa b, vseen := if (Tbl.find? c.vseen pa).isSome then c.vseen else Tbl.set c.vseen pa b }

/-- The value of n bytes in the lot view of a context, and the context that has read them (R87). -/
def State.lotRead (σ : State) (c : Ctx) (pa n : Nat) : Nat × Ctx :=
  let b := fun i => σ.lotByte c combView (pa + i)
  ((List.range n).foldr (fun i a => (b i).toNat + 256 * a) 0, (List.range n).foldl (fun c i => c.noteRead (pa + i) (b i)) c)

/-- n bytes of a remote window in the lot view: what the lot holds or has read in the phase; of the others free values (log 5), which the
phase keeps (R87). -/
def State.remoteRead (σ : State) (core ctx key n : Nat) : Nat × State :=
  let c := σ.ctxOf core ctx
  let b := fun i => if c.hasByte (key + i) then σ.lotByte c combView (key + i) else Config.freeByte (σ.fresh + i)
  ((List.range n).foldr (fun i a => (b i).toNat + 256 * a) 0,
    ({ σ with fresh := σ.fresh + n } : State).setCtx core ctx ((List.range n).foldl (fun c i => c.noteRead (key + i) (b i)) c))

/-- What a load comes to: its value, or a wait of the slot for its port (an interlock). -/
inductive Loaded where
  | value (v : Nat) (σ : State)
  | waiting (σ : State)

/-- A core-path load of n bytes of G through the lot view, with the checks of R167: translation, then OWNER and SEAL_FAIL where
memory is read. The state has the fill and the bytes read. Firmware finds the tiles' metadata in the carve-out (R69, R368). -/
def State.loadG (σ : State) (core ctx : Nat) (va : Word) (n : Nat) : Chk Loaded :=
  match σ.translate core ctx va .read .plain with
  | .error e => .error e
  | .ok x =>
    let c := σ.ctxOf core ctx
    if ctx = Config.fwCtx ∧ (metaTile x.pa).isSome then .ok (.value (σ.metaRead x.pa n) σ)
    else if c.hasAll x.key n then .ok (.value (σ.lotRead c x.key n).1 σ)
    else if x.remote then
      match σ.fabricAsk core ctx none x.frame va with
      | .refused _ => failWith causeOutside va
      | .timeout _ => failWith causeFabTimeout va
      | .wait σ => .ok (.waiting σ)
      | .reply σ => .ok (.value (σ.remoteRead core ctx x.key n).1 (σ.remoteRead core ctx x.key n).2)
    else
      match σ.accessCheck (σ.vfOf core ctx) x.pa n va with
      | .error e => .error e
      | .ok _ =>
        let r := σ.lotRead c x.pa n
        .ok (.value r.1 ((σ.fill x.pa).setCtx core ctx (if ctx = Config.fwCtx then c else r.2)))

/-- A word with a pending combine becomes a plain store of its lot view (R97). -/
def Ctx.plainWord (c : Ctx) (pa : Nat) : Ctx :=
  match c.combAt pa with
  | none => c
  | some (a, k) =>
    { c with combs := Tbl.del c.combs a,
             held := (bytesAt a (if k.width = 8 then 8 else 4) (combView k)).foldl
               (fun t p => if (Tbl.find? t p.1).isSome then t else Tbl.set t p.1 p.2) c.held }
def Ctx.holdBytes (c : Ctx) (l : List (Nat × Byte)) : Ctx :=
  l.foldl (fun c p => let c := c.plainWord p.1; { c with held := Tbl.set c.held p.1 p.2 }) c

/-- A core-path store of n bytes of G into the commit buffer (R85, R86, R168), with the checks of R167; a store to a tile that is not in
the far cache fills it (R71). Firmware's are performed at once (R15). -/
def State.storeG (σ : State) (core ctx : Nat) (va : Word) (n v : Nat) : Chk State :=
  match σ.translate core ctx va .write .plain with
  | .error e => .error e
  | .ok x =>
    if ctx = Config.fwCtx ∧ (metaTile x.pa).isSome then .ok (σ.metaWrite x.pa n v)
    else if ctx = Config.fwCtx then
      match σ.accessCheck 0 x.pa n va with
      | .error e => .error e
      | .ok _ => .ok (σ.writeNat x.pa n v)
    else if x.remote ∧ !σ.windowOk x.frame then failWith causeOutside va
    else
      match (if x.remote then .ok () else σ.accessCheck (σ.vfOf core ctx) x.pa n va) with
      | .error e => .error e
      | .ok _ =>
        match (σ.ctxOf core ctx).addLine x.key va with
        | none => failWith causeCommitFull va
        | some c => .ok ((if x.remote then σ else σ.fill x.pa).setCtx core ctx (c.holdBytes (bytesAt x.key n v)))

/-! ## Phase boundaries and effect instructions (R43, R85) -/

/-- The checkpoint after an effect instruction: every register that R181 can name, the context as it goes on (R326). -/
def State.effectDone (σ : State) (c : Ctx) : Out :=
  let σ := σ.setCx c.advance
  .next (if σ.ctx = Config.fwCtx then σ else σ.checkpoint σ.core σ.ctx fullMask 2)

/-- The commit of the acting context; firmware holds no stores (R15). -/
def State.commitHere (σ : State) : State := if σ.ctx = Config.fwCtx then σ else σ.commit σ.core σ.ctx

/-! ## Who may issue a word (R142, R143) -/

/-- The acting context stands in a delay slot of an XFER. -/
def State.inSlot (σ : State) : Bool := decide (σ.cx.pslots ≠ 0)

/-- A firmware word: PRIV in a user slot, ILLEGAL in a delay slot (R142, R143). -/
def State.privileged (σ : State) (k : Out) : Out :=
  if σ.ctx ≠ Config.fwCtx then σ.trapWith causePriv
  else if σ.inSlot then σ.trapWith causeIllegal
  else k

/-! ## Placing commands (R49, R184, R185) -/

/-- A command behind a NOTIFY makes it a plain marker (R185). -/
def plainMarkers (q : List Cmd) : List Cmd := q.map fun c =>
  match c.kind with
  | .marker m _ => { c with kind := .marker m false }
  | _ => c

/-- A command of the slot's lot is placed behind an engine's queue. -/
def State.place (σ : State) (core slot e : Nat) (held : Bool) (k : CmdKind) : State :=
  let c := σ.ctxOf core slot
  let v := σ.engOf core e
  let σ := σ.setCtx core slot { c with cmdNo := c.cmdNo + 1 }
  σ.setEng core e
    { v with queue := plainMarkers v.queue ++ [{ id := c.cmdNo, held := held, kind := k }], used := true, notified := false,
             forLot := σ.lotName core slot,
             placed := match k with
               | .marker m _ => Tbl.set v.placed m.toNat c.cmdNo
               | _ => v.placed }

def State.queueFull (σ : State) (core e : Nat) : Bool := decide (Config.queueDepth ≤ (σ.engOf core e).queue.length)

/-! ## Releasing held commands (R184) -/

def releaseCmds (q : List Cmd) : List Cmd := q.map fun c => { c with held := false }
def State.releaseHeld (σ : State) (core slot : Nat) : State :=
  (σ.enginesOf core slot).foldl (fun σ e =>
    let v := σ.engOf core e
    σ.setEng core e { v with queue := releaseCmds v.queue }) σ

/-! ## Waiting instructions (R39) -/

/-- R39 step 1's condition: queues empty, sequencers idle, tagged copies complete. -/
def State.lotQuiet (σ : State) (core slot : Nat) : Bool :=
  (σ.enginesOf core slot).all (fun e =>
    let v := σ.engOf core e
    v.queue.isEmpty && v.run.isNone
      && (if e < 4 then true else if e < 8 then (σ.fragOf core (e - 4)).passes.isEmpty
          else (σ.copyOf core (e - 8)).steps.isEmpty))
    && decide ((σ.ctxOf core slot).tagdone = BitVec.allOnes 64)

/-- R39 steps 2 to 6 for the acting context, whose lot is quiet and whose task is t: commit; return the leases; record the continuation
at the next word with the registers of the mask; hold the slabs; re-pool the remainder; free the slot. -/
def State.suspend (σ : State) (mask : Word) (t : Nat) : State :=
  let core := σ.core
  let slot := σ.ctx
  let σ := σ.commit core slot
  let vf := σ.vfOf core slot
  let σ := σ.returnLeases core slot
  let c := (σ.ctxOf core slot).advance
  let area := (σ.setCtx core slot c).areaWait core slot (c.record mask 3)
  let σ := σ.recode core slot 5 (some t)
  let σ := σ.repool t
  let tk := σ.taskOf t
  let i := tk.ctxId.getD ((σ.freeArea vf).getD 0)
  let σ := if tk.ctxId.isSome then σ else σ.takeArea vf i
  let pinned : Bool := !(σ.pinSet core t).isEmpty
  let σ := σ.setTask t { tk with state := .waiting, cont := some area, ctxId := some i,
                                 core := if pinned then some core else none, slot := slot }
  (σ.writeArea t).freeSlot core slot

/-- A waiting instruction of the acting context, once its own checks have passed: stall until the lot, its held commands released, is
quiet and an area is free; then R39. `go` sees the state with the task WAITING and does the registration. The firmware context has
no task to end, and the word is ILLEGAL there (log 7). -/
def State.waitTask (σ : State) (mask : Word) (go : State → Nat → Out) : Out :=
  match σ.cx.task with
  | none => σ.trapWith causeIllegal
  | some t =>
    let σ := σ.releaseHeld σ.core σ.ctx
    if !σ.lotQuiet σ.core σ.ctx ∨ !σ.areaReady σ.core σ.ctx then σ.stallHere
    else go (σ.suspend mask t) t

end Sys2Proof.Machine
end

