-- ==== Sys2Proof/Machine/Operands.lean ====
section
/-!
DEFINITION. The operand forms: immediates and effective addresses of the control core (R145, R157, R167), bit-field readers of
stream, transfer and convolution records (R78, R80, R254), vector operands (R149, R217 to R222), lease handles and masks
(R148, R183).
-/

namespace Sys2Proof.Machine

/-! ## Control core -/

/-- `sext(x, k)` of R157. -/
def sext {k : Nat} (x : BitVec k) : Word := x.signExtend 64
def zext {k : Nat} (x : BitVec k) : Word := x.zeroExtend 64
/-- Bytes of a size field. -/
def sizeBytes (z : BitVec 2) : Nat := 2 ^ z.toNat
/-- The effective address of format M (R145, R167). -/
def State.effAddr (σ : State) (b : BitVec 5) (z : BitVec 2) (o : BitVec 14) : Word :=
  σ.rs b + sext o * BitVec.ofNat 64 (sizeBytes z)
def aligned (a : Word) (n : Nat) : Bool := decide (a.toNat % n = 0)
/-- The low n bytes of a register, as the number stored. -/
def lowBytes (v : Word) (n : Nat) : Nat := v.toNat % 256 ^ n

/-! ## Lease handles (R183) -/

structure Handle where
  copy : Bool
  mask : Nat
  gen : Nat
  deriving DecidableEq, Repr

def handleOf (v : Word) : Handle :=
  { copy := v.getLsbD 24, mask := bits v.toNat 23 16, gen := v.toNat % 2 ^ 16 }
def handleWord (copy : Bool) (mask gen : Nat) : Word :=
  BitVec.ofNat 64 ((if copy then 2 ^ 24 else 0) + mask * 2 ^ 16 + gen % 2 ^ 16)
/-- The units a mask names. -/
def Handle.units (h : Handle) : List Nat := (List.range 8).filter fun i => h.mask.testBit i
/-- A current handle (R183): every unit in a non-empty mask held by the slot and recording GEN; reserved bits are not read (R10). -/
def State.current (σ : State) (core slot : Nat) (h : Handle) : Bool :=
  decide (h.mask ≠ 0) && h.units.all fun i =>
    if h.copy then
      let e := σ.copyOf core i
      e.leased && decide (e.slot = slot) && decide (e.gen = h.gen)
    else
      let f := σ.fragOf core i
      decide (i < 4) && (decide (f.state = 1) || decide (f.state = 3)) && decide (f.slot = slot) && decide (f.gen = h.gen)

/-- The engines a queue mask names, by engine number of the core; none where one is not leased to the slot (LEASE_BAD, R185). -/
def State.qmaskEngines (σ : State) (core slot : Nat) (q : BitVec 13) : Option (List Nat) :=
  let es := ((List.range 13).filter fun i => q.getLsbD i).map (qEngine slot)
  if es.all fun e => (σ.enginesHeld core slot).contains e then some es else none

/-! ## Stream records (R78) -/

def q_fmt (q : BitVec 128) : Nat := bits q.toNat 3 0
def q_w (q : BitVec 128) : Bool := q.getLsbD 4
def q_bg (q : BitVec 128) : Nat := bits q.toNat 6 5
def q_ch (q : BitVec 128) : Nat := bits q.toNat 13 8
def q_wrow (q : BitVec 128) : Nat := bits q.toNat 29 16
def q_wcol (q : BitVec 128) : Nat := bits q.toNat 37 30
def q_kt (q : BitVec 128) : Nat := bits q.toNat 45 38 + 1
def q_nt (q : BitVec 128) : Nat := bits q.toNat 53 46 + 1
def q_sbase (q : BitVec 128) : Nat := bits q.toNat 87 64
def q_sstride (q : BitVec 128) : Nat := bits q.toNat 103 88
/-- Bits of an element of a stream format: 0 BF16, 1 FP16, 2 E4M3, 3 E5M2, 4 INT8, 5 Q4. -/
def streamBits (f : Nat) : Nat := if f < 2 then 16 else if f < 5 then 8 else 4
/-- The element type code of a stream format, for the formats that have one. -/
def streamType (f : Nat) : Nat := if f = 0 then 7 else if f = 1 then 6 else if f = 2 then 9 else if f = 3 then 10 else 0
def streamNum (f w : Nat) : Num := elemNum (streamType f) w
/-- Words per column of a W tile (R250). -/
def q_rw (q : BitVec 128) : Nat := (q_kt q * streamBits (q_fmt q) + 63) / 64

/-- The checks of R79 on a record, for the slot that writes it. R78 asks software for zero in the fields that are not of the record's
kind, and R79's list traps none of them. -/
def State.streamOk (c : Ctx) (q : BitVec 128) : Bool :=
  let w := q.toNat
  decide (bits w 127 104 = 0) && decide (bits w 63 54 = 0) && decide (bits w 15 14 = 0) && decide (bits w 7 7 = 0)
    && decide (q_fmt q ≤ 5) && decide (q_bg q ≤ 1)
    && decide ((q_fmt q = 5) = (q_bg q = 1))
    && (decide (q_bg q ≠ 1) || decide (q_kt q % 32 = 0))
    && (if q_w q then
          decide (q_wcol q + q_nt q - 1 ≤ 255) && decide (q_wrow q + q_rw q ≤ c.wsize)
            && (decide (q_fmt q ≠ 5) || decide (q_sbase q + q_sstride q * ((q_kt q / 32 - 1) / 8) < c.wsize))
        else (c.ring (q_ch q)).configured)

/-! ## Transfer shapes (R80, R267) -/

structure Shape where
  base : Word
  n : List Nat
  s1 : Int
  s2 : Int
  s3 : Int
  space : Nat
  esz : Nat
  reserved : Bool
  deriving DecidableEq, Repr

def sint (w k : Nat) : Int := if w.testBit (k - 1) then (w : Int) - 2 ^ k else w
def shapeOf (t : BitVec 256) : Shape :=
  let w := t.toNat
  { base := BitVec.ofNat 64 w, n := [bits w 79 64, bits w 95 80, bits w 111 96, bits w 127 112],
    s1 := sint (bits w 159 128) 32, s2 := sint (bits w 191 160) 32, s3 := sint (bits w 223 192) 32,
    space := bits w 227 226, esz := 2 ^ bits w 225 224, reserved := decide (bits w 255 228 ≠ 0) }
def Shape.count (t : Shape) : Nat := t.n.foldl (· * ·) 1
/-- A zero count or a reserved field (R80). -/
def Shape.bad (t : Shape) : Bool := t.reserved || t.n.contains 0
/-- `elem_addr` of R267: the address of element j, modulo 2^64 in G. -/
def Shape.elem (t : Shape) (j : Nat) : Int :=
  let n0 := t.n.getD 0 1
  let n1 := t.n.getD 1 1
  let n2 := t.n.getD 2 1
  let u : Int := if t.space = 3 then 1 else t.esz
  (t.base.toNat : Int) + (j % n0 : Nat) * u + (j / n0 % n1 : Nat) * t.s1 + (j / (n0 * n1) % n2 : Nat) * t.s2
    + (j / (n0 * n1 * n2) : Nat) * t.s3
def Shape.elems (t : Shape) : List Int := (List.range t.count).map t.elem
/-- A G element's address, modulo 2^64. -/
def gAddr (z : Int) : Word := BitVec.ofInt 64 z

/-! ## Vector shape (R217) and operands (R149) -/

/-- Element type and element count of a VSHAPE value. -/
def vsType (v : Word) : Nat := v.toNat % 16

end Sys2Proof.Machine
end

