-- ==== Sys2Proof/Machine/Flags.lean ====
section
/-!
DEFINITION. Every flag the control core computes: the conditions of CMP and CMPI (R147, R161) and the flag operations (R162).
-/

namespace Sys2Proof.Machine

/-- The test of a condition code on two 64-bit values (R147): EQ, NE, LT, LE, GT, GE, LTU, LEU, GTU, GEU, TST. -/
def condHolds (cond : Nat) (a b : Word) : Bool :=
  if cond = 0 then decide (a = b)
  else if cond = 1 then decide (a ≠ b)
  else if cond = 2 then a.slt b
  else if cond = 3 then a.sle b
  else if cond = 4 then b.slt a
  else if cond = 5 then b.sle a
  else if cond = 6 then a.ult b
  else if cond = 7 then a.ule b
  else if cond = 8 then b.ult a
  else if cond = 9 then b.ule a
  else decide (a &&& b ≠ 0)

/-- The word sets one flag and retires (R161, R162). -/
def State.retireF (σ : State) (d : BitVec 3) (v : Bool) : Out := σ.retire (σ.cx.setF d.toNat v)

/-- A flag operand. -/
def State.fl (σ : State) (f : BitVec 3) : Bool := σ.cx.flag f.toNat

end Sys2Proof.Machine
end

