-- ==== Sys2Proof/Machine/ScalarMem.lean ====
section
/-!
DEFINITION. The votes, the loads and stores of the five spaces and the system registers of the control core: 08 (R166 to R178),
with the firmware registers of 23 (R378, R380).
-/

namespace Sys2Proof.Machine

/-! ## Votes (R166) -/

/-- Bit i of predicate p; p0 reads all ones (R28). -/
def VecCtx.pred (v : VecCtx) (p : Nat) : BitVec 1024 := if p = 0 then BitVec.allOnes 1024 else Tbl.get v.p 0 p
/-- LEN of a shape (R217). -/
def vsLen (v : Word) : Nat := bits v.toNat 14 4
def vsRm (v : Word) : Nat := bits v.toNat 18 16

/-- A vote over the first elements of a predicate, once the slot's vector context is idle. The firmware context has no vector
context, and its vote traps ILLEGAL (log 7). -/
def State.vote (σ : State) (f p : BitVec 3) (all : Bool) : Out :=
  if σ.ctx = Config.fwCtx then σ.trapWith causeIllegal else
  let e := σ.engOf σ.core σ.ctx
  if !e.queue.isEmpty ∨ e.run.isSome then σ.stallHere else
  let v := σ.vecOf σ.core σ.ctx
  let bs := (List.range (vsLen v.vshape)).map fun i => (v.pred p.toNat).getLsbD i
  σ.retireF f (if all then bs.all id else bs.any id)

/-- VANY (R166). -/
def execVany (f p : BitVec 3) (σ : State) : Out := σ.vote f p false
/-- VALL (R166). -/
def execVall (f p : BitVec 3) (σ : State) : Out := σ.vote f p true

/-! ## Loads and stores (R167 to R172) -/

/-- LD (R168): the checks of R167 in order, then the lot view's bytes, zero-extended. -/
def execLd (d b : BitVec 5) (z : BitVec 2) (o : BitVec 14) (σ : State) : Out :=
  let a := σ.effAddr b z o
  if !aligned a (sizeBytes z) then σ.trapWith causeAlign a else
  match σ.loadG σ.core σ.ctx a (sizeBytes z) with
  | .error e => σ.trap e
  | .ok (.waiting σ') => σ'.interlock
  | .ok (.value v σ') => σ'.retireS d (BitVec.ofNat 64 v)

/-- ST (R168): the low bytes of rd into the commit buffer. -/
def execSt (d b : BitVec 5) (z : BitVec 2) (o : BitVec 14) (σ : State) : Out :=
  let a := σ.effAddr b z o
  if !aligned a (sizeBytes z) then σ.trapWith causeAlign a else
  match σ.storeG σ.core σ.ctx a (sizeBytes z) (lowBytes (σ.rs d) (sizeBytes z)) with
  | .error e => σ.trap e
  | .ok σ' => σ'.retire σ'.cx

/-- The window test of L: OUTSIDE beyond 65,535 (R60). -/
def lRange (a : Word) (n : Nat) : Bool := decide (a.toNat + n ≤ 65536)

/-- LDL (R167). -/
def execLdl (d b : BitVec 5) (z : BitVec 2) (o : BitVec 14) (σ : State) : Out :=
  let a := σ.effAddr b z o
  if !aligned a (sizeBytes z) then σ.trapWith causeAlign a
  else if !lRange a (sizeBytes z) then σ.trapWith causeOutside a
  else σ.retireS d (BitVec.ofNat 64 (σ.cx.lNat a.toNat (sizeBytes z)))

/-- STL (R167). -/
def execStl (d b : BitVec 5) (z : BitVec 2) (o : BitVec 14) (σ : State) : Out :=
  let a := σ.effAddr b z o
  if !aligned a (sizeBytes z) then σ.trapWith causeAlign a
  else if !lRange a (sizeBytes z) then σ.trapWith causeOutside a
  else σ.retire (σ.cx.lWrite a.toNat (sizeBytes z) (lowBytes (σ.rs d) (sizeBytes z)))

/-- The window test of A: OUTSIDE beyond ASIZE (R60). -/
def State.aRange (σ : State) (a : Word) (n : Nat) : Bool := decide (a.toNat + n ≤ σ.cx.asize)

/-- LDA (R167). -/
def execLda (d b : BitVec 5) (z : BitVec 2) (o : BitVec 14) (σ : State) : Out :=
  let a := σ.effAddr b z o
  if !aligned a (sizeBytes z) then σ.trapWith causeAlign a
  else if !σ.aRange a (sizeBytes z) then σ.trapWith causeOutside a
  else σ.retireS d (BitVec.ofNat 64 (σ.aNat σ.core σ.ctx a.toNat (sizeBytes z)))

/-- STA (R170): the bytes and the live bit of their granule. -/
def execSta (d b : BitVec 5) (z : BitVec 2) (o : BitVec 14) (σ : State) : Out :=
  let a := σ.effAddr b z o
  if !aligned a (sizeBytes z) then σ.trapWith causeAlign a
  else if !σ.aRange a (sizeBytes z) then σ.trapWith causeOutside a
  else
    let σ := σ.aWrite σ.core σ.ctx a.toNat (natBytes (sizeBytes z) (σ.rs d).toNat)
    σ.retire σ.cx

/-! ### C (R171) -/

/-- Rows and columns of a fragment under a plan (R20): first row, first column, depth, width; none where the plan lacks it. -/
def cells (plan k : Nat) : Option (Nat × Nat × Nat × Nat) :=
  if plan = 0 then (if k = 0 then some (0, 0, 256, 256) else none)
  else if plan = 1 then (if k = 0 then some (0, 0, 256, 128) else if k = 1 then some (0, 128, 256, 128) else none)
  else if plan = 2 then
    (if k = 0 then some (0, 0, 256, 128) else if k = 1 then some (0, 128, 128, 128)
     else if k = 3 then some (128, 128, 128, 128) else none)
  else if plan = 3 then some (k / 2 * 128, k % 2 * 128, 128, 128)
  else some (0, 64 * k, 256, 64)

/-- Whether a fragment owns a slab under a plan (R20): its column groups, and the half of the slabs its rows are. -/
def ownsSlab (plan k slab : Nat) : Bool :=
  match cells plan k with
  | none => false
  | some (r0, c0, d, w) =>
    let g := slab / 256
    let i := slab % 256
    decide (c0 / 32 ≤ g) && decide (g < (c0 + w) / 32)
      && (if d = 256 then true else if r0 = 0 then decide (i < 128) else decide (128 ≤ i))

/-- Fragment programs of the lot placed before an order number that have not retired (R171). -/
def State.progsBefore (σ : State) (core k upto : Nat) : Nat :=
  let e := σ.engOf core (k + 4)
  (e.queue.filter fun c => decide (c.id < upto) && (match c.kind with | .program _ => true | _ => false)).length
    + (match e.run with
       | some r => if r.id < upto then 1 else 0
       | none => 0)

/-- The fragments whose programs count: those that serve the lot, DRAINING ones included; a fragment's programs leave the count as it becomes
FAULTED (R171, R236). -/
def State.fragsAll (σ : State) (core slot : Nat) : List Nat :=
  (σ.fragsWith core slot).filter fun k => decide ((σ.fragOf core k).state ≠ 3)

/-- A slab's pending count (R171) for a read placed at an order number of the lot. -/
def State.pendingAt (σ : State) (core slot slab upto : Nat) : Nat :=
  ((σ.fragsAll core slot).filter fun k => ownsSlab (σ.coreOf core).plan k slab).foldl
    (fun a k => a + σ.progsBefore core k upto) 0

/-- The largest C byte offset a 4-byte read may start at is 8 MiB - 4 (R171). -/
def cRange (a : Word) : Bool := decide (a.toNat + 4 ≤ 2 ^ 23)

/-- LDC and LDC.NOWAIT share their checks: ALIGN, OUTSIDE, the owner touch. -/
def State.ldcWith (σ : State) (d b : BitVec 5) (o : BitVec 14) (nowait : Bool) : Out :=
  let a := σ.rs b + sext o * 4
  if !aligned a 4 then σ.trapWith causeAlign a
  else if !cRange a then σ.trapWith causeOutside a
  else
    let slab := a.toNat / 4096
    match σ.ownerTouch σ.core σ.ctx slab with
    | .error e => σ.trap e
    | .ok σ =>
      let pend := σ.pendingAt σ.core σ.ctx slab σ.cx.cmdNo
      if nowait then
        σ.retire ((σ.cx.setF 0 (decide (pend ≠ 0))).setS d.toNat (zext (σ.cElem σ.core a.toNat)))
      else if pend ≠ 0 then σ.stallHere
      else σ.retireS d (zext (σ.cElem σ.core a.toNat))

/-- LDC (R171): waits for the slab's pending count. -/
def execLdc (d b : BitVec 5) (o : BitVec 14) (σ : State) : Out := σ.ldcWith d b o false
/-- LDC.NOWAIT (R171): f0 tells whether writes were pending. -/
def execLdcNowait (d b : BitVec 5) (o : BitVec 14) (σ : State) : Out := σ.ldcWith d b o true

/-- PREF (R172): brings the line into the far cache where every check passes, and does nothing else. -/
def execPref (b : BitVec 5) (z : BitVec 2) (o : BitVec 14) (σ : State) : Out :=
  let a := σ.effAddr b z o
  let line : Word := a &&& ~~~63
  let σ' := match σ.translate σ.core σ.ctx line .read .plain with
    | .error _ => σ
    | .ok x =>
      if x.remote then σ else
      match σ.accessCheck (σ.vfOf σ.core σ.ctx) x.pa 64 line with
      | .error _ => σ
      | .ok _ => σ.fill x.pa
  σ'.retire σ'.cx

/-! ## System registers (R173 to R177, R378, R380) -/

/-- SPLITPLAN (R23). -/
def State.splitplan (σ : State) (core : Nat) : Word :=
  let k := σ.coreOf core
  let leased := ([0, 1, 2, 3].filter fun i => let f := σ.fragOf core i; decide (f.state = 1) || decide (f.state = 3)).foldl
    (fun a i => a + 2 ^ i) 0
  BitVec.ofNat 64 (k.plan + leased * 16 + (if k.pendv then k.pend * 2 ^ 12 + 2 ^ 15 else 0))

/-- COREID (R175). -/
def State.coreid (σ : State) : Word :=
  BitVec.ofNat 64 (σ.vfOf σ.core σ.ctx * 2 ^ 16 + σ.partOf σ.core * 2 ^ 11 + σ.core * 2 ^ 6 + σ.ctx)

/-- ACCOWN (R176): the owner codes of the sixteen slabs of the window ACCSEL selects. -/
def State.accownReg (σ : State) : Word :=
  let win := σ.cx.accsel.toNat % 128
  BitVec.ofNat 64 ((List.range 16).foldl (fun a i => a + σ.accCode σ.core (16 * win + i) * 16 ^ i) 0)

/-- ALLOCSTAT (R380). -/
def State.allocstat (σ : State) (core : Nat) : Word :=
  let fs := (List.range 4).foldl (fun a k =>
    let f := σ.fragOf core k
    let st := if (cells (σ.coreOf core).plan k).isNone then 4 else f.state
    a + (st * 32 + (if f.state = 0 then 7 else f.slot)) * 256 ^ k) 0
  let cs := (List.range 8).foldl (fun a n =>
    let e := σ.copyOf core n
    a + (if e.leased then (8 + (if e.slot < 4 then e.slot else 0)) * 2 ^ (32 + 4 * n) else 0)) 0
  BitVec.ofNat 64 (fs + cs)

/-- The oldest pending event, with the next of its source moved up (R378). -/
def State.popEvent (σ : State) (core : Nat) : Word × State :=
  let k := σ.coreOf core
  match k.events with
  | [] => (0, σ)
  | (src, cause) :: r =>
    let nxt := k.waitingEvents.find? fun e => decide (e.1 = src)
    let k := match nxt with
      | some e => { k with events := r ++ [e], waitingEvents := k.waitingEvents.erase e }
      | none => { k with events := r }
    (BitVec.ofNat 64 (2 ^ 63 + cause * 2 ^ 16 + src), σ.setCore core k)

/-- The value of a user register (R174), none for a number it does not assign. POLGEN in the firmware context, which has no lot, is the
counter of VF 0 (log 107). -/
def State.userReg (σ : State) (n : Nat) : Option Word :=
  let c := σ.cx
  if n = 0 then some c.wid
  else if n = 1 then some c.lotno
  else if n = 2 then some (σ.splitplan σ.core)
  else if n = 3 then some c.tagdone
  else if n = 4 then some c.tagerr
  else if n = 5 then some c.vshape
  else if n = 6 then some (BitVec.ofNat 64 σ.time)
  else if n = 7 then some σ.coreid
  else if n = 8 then some (BitVec.ofNat 64 c.stallLim)
  else if n = 9 then some (BitVec.ofNat 64 c.asize)
  else if n = 10 then some (BitVec.ofNat 64 c.wsize)
  else if n = 11 then some (zext c.srseed)
  else if n = 12 then some c.accsel
  else if n = 13 then some σ.accownReg
  else if n = 14 then some (BitVec.ofNat 64 (Tbl.get σ.polgen 0 (σ.vfOf σ.core σ.ctx)))
  else none

/-- The value of a firmware register other than FWEVENT (R378). -/
def State.fwReg (σ : State) (n : Nat) : Option Word :=
  let k := σ.coreOf σ.core
  if n = 0x8000 then some k.fwshare
  else if 0x8002 ≤ n ∧ n ≤ 0x8005 then some (BitVec.ofNat 64 (σ.ctxOf σ.core (n - 0x8002)).stallLim)
  else if n = 0x8006 then some k.allocctl
  else if n = 0x8007 then some (σ.allocstat σ.core)
  else none

/-- GETS (R173): PRIV before ILLEGAL; FWEVENT's read removes the event. -/
def execGets (d : BitVec 5) (n : BitVec 16) (σ : State) : Out :=
  if 0x8000 ≤ n.toNat ∧ σ.ctx ≠ Config.fwCtx then σ.trapWith causePriv
  else if n.toNat = 0x8001 then
    let r := σ.popEvent σ.core
    r.2.retireS d r.1
  else
    match (if n.toNat < 0x8000 then σ.userReg n.toNat else σ.fwReg n.toNat) with
    | some v => σ.retireS d v
    | none => σ.trapWith causeIllegal

/-- A legal VSHAPE value (R217). -/
def vshapeOk (v : Word) : Bool :=
  let z := typeBits (vsType v) / 8
  decide (vsType v ≤ 12) && decide (vsLen v ≠ 0) && decide (vsLen v ≤ 1024 / z) && decide (vsRm v ≤ 4)
    && decide (2 ^ 19 > v.toNat) && !v.getLsbD 15

/-- The reserved bits of a written ALLOCCTL read zero (R10, R380). -/
def allocctlOk (v : Word) : Bool :=
  decide (10 ≤ bits v.toNat 12 8) && decide (bits v.toNat 12 8 ≤ 24) && decide (10 ≤ bits v.toNat 4 0) && decide (bits v.toNat 4 0 ≤ 30)

/-- SETS of VSHAPE (R177): a command of the slot's vector queue. -/
def State.setVshape (σ : State) (v : Word) : Out :=
  if σ.ctx = Config.fwCtx ∨ !vshapeOk v then σ.trapWith causeIllegal
  else if σ.queueFull σ.core σ.ctx then σ.stallHere
  else
    let σ := σ.place σ.core σ.ctx σ.ctx false (.vshape v)
    σ.retire { σ.cx with vshape := v }

/-- SETS (R173): PRIV, then the registers a context may write, else ILLEGAL. -/
def execSets (s : BitVec 5) (n : BitVec 16) (σ : State) : Out :=
  let v := σ.rs s
  let k := σ.coreOf σ.core
  if 0x8000 ≤ n.toNat ∧ σ.ctx ≠ Config.fwCtx then σ.trapWith causePriv
  else if n.toNat = 5 then σ.setVshape v
  else if n.toNat = 12 then σ.retire { σ.cx with accsel := v &&& 0x7F }
  else if n.toNat = 0x8000 then
    if v.toNat % 64 ≤ 32 then
      let σ := σ.setCore σ.core { k with fwshare := v &&& 0x3F }
      σ.retire σ.cx
    else σ.trapWith causeIllegal
  else if 0x8002 ≤ n.toNat ∧ n.toNat ≤ 0x8005 then
    if 1 ≤ v.toNat ∧ v.toNat < 2 ^ 40 then
      let σ := σ.setCtx σ.core (n.toNat - 0x8002) { σ.ctxOf σ.core (n.toNat - 0x8002) with stallLim := v.toNat }
      σ.retire σ.cx
    else σ.trapWith causeIllegal
  else if n.toNat = 0x8006 then
    if allocctlOk v then
      let σ := σ.setCore σ.core { k with allocctl := v &&& 0x11F1F }
      σ.retire σ.cx
    else σ.trapWith causeIllegal
  else σ.trapWith causeIllegal

end Sys2Proof.Machine
end

