-- ==== Sys2Proof/Machine/Resume.lean ====
section
/-!
DEFINITION. How a task gets its slot and its units back: the reload of weight tiles (13 R250, R264), the binding of granted units
(R45, R57), the re-request of recorded leases, and the restoring of a context into a slot (R39, R40, R57, R404).
-/

namespace Sys2Proof.Machine

/-! ## Weight tiles (R250, R251) -/

/-- Words of one column of a tile, and its Q4 scale bytes. -/
def State.tileColumn (σ : State) (core slot : Nat) (q : BitVec 128) (t c : Nat) : List Word :=
  (List.range (q_rw q)).map fun r => σ.wWord core slot (q_wrow q + t * q_rw q + r) c
def State.tileScales (σ : State) (core slot : Nat) (q : BitVec 128) (t c : Nat) : List Nat :=
  if q_fmt q ≠ 5 then [] else
  (List.range (q_kt q / 32)).map fun j =>
    let b := t * q_kt q / 32 + j
    (σ.wWord core slot (q_sbase q + q_sstride q * (b / 8)) c).toNat / 256 ^ (b % 8) % 256
/-- Tile t of a W stream as a set of weight registers. -/
def State.readTile (σ : State) (core slot b : Nat) (q : BitVec 128) (t : Nat) : Weights :=
  let cs := (List.range (q_nt q)).map fun j => q_wcol q + j
  { src := some (b, t), record := q, cols := cs.map (σ.tileColumn core slot q t), scales := cs.map (σ.tileScales core slot q t) }
/-- A recorded set is loaded again from its tile in the restored window (R264). -/
def State.reloadSet (σ : State) (core slot : Nat) (w : Weights) : Weights :=
  match w.src with
  | some (b, t) => { σ.readTile core slot b w.record t with pending := w.pending }
  | none => {}

/-! ## Units -/

/-- The generator of a link of a lot (R110). -/
def linkSeed (c : Ctx) (l : Nat) : BitVec 32 := seedOf c.srseed c.lotno (l + 1)

/-- A link's generator in a lot: seeded at the lot's start, it goes on from where an earlier lease of the lot left it (R110, log 9). -/
def Ctx.linkGen (c : Ctx) (l : Nat) : BitVec 32 := Tbl.get c.linkGens (linkSeed c l) l
/-- The links out of newly leased sequencers take the lot's generators. -/
def State.seedLinks (σ : State) (core slot mask : Nat) : State :=
  let c := σ.ctxOf core slot
  ([0, 1, 2, 3].filter fun l => mask.testBit (linkFrom l)).foldl (fun σ l => σ.setLink core l { gen := c.linkGen l }) σ

/-- An engine that had stopped on a fault goes on at the faulting word when its context does (R245, R374). -/
def Eng.revive (e : Eng) : Eng := { e with stopped := false }

/-- A fragment granted to a task becomes its slot's, in the state its area recorded: LEASED, DRAINING or FAULTED (R55). -/
def State.bindFrag (σ : State) (core slot t : Nat) (a : Area) (k : Nat) : State :=
  let f := σ.fragOf core k
  let c := σ.ctxOf core slot
  if f.state = 1 ∧ f.slot = noSlot ∧ f.lot = some t then
    let j := Tbl.get a.moved (k + 4) (k + 4) - 4
    let old := Tbl.get a.frags {} j
    let state := if old.state = 2 ∨ old.state = 3 then old.state else 1
    let n : Frag := { old with state := state, slot := slot, gen := f.gen, lot := some t, act := σ.reloadSet core slot old.act, nxt := σ.reloadSet core slot old.nxt }
    let v := Tbl.get a.engs {} (j + 4)
    let σ := (σ.setFrag core k n).setEng core (k + 4) (if state = 3 then v else v.revive)
    (linksOut k).foldl (fun σ l => σ.setLink core l (Tbl.get a.links { gen := c.linkGen l } l)) σ
  else σ
def State.bindCopy (σ : State) (core slot t : Nat) (a : Area) (n : Nat) : State :=
  let x := σ.copyOf core n
  let c := σ.ctxOf core slot
  if x.leased ∧ x.slot = noSlot ∧ x.holder = some t then
    let j := Tbl.get a.moved (n + 8) (n + 8) - 8
    let old := Tbl.get a.copies {} j
    let y : CopyEng := { old with leased := !old.draining, holder := some t, slot := slot, gen := x.gen }
    (σ.setCopy core n y).setEng core (n + 8) (Tbl.get a.engs { gen := seedOf c.srseed c.lotno (8 + n) } (j + 8)).revive
  else σ
/-- The units granted to a task become its slot's, in the state its area recorded. -/
def State.bindUnits (σ : State) (core slot t : Nat) (a : Area) : State :=
  (List.range 8).foldl (fun σ n => σ.bindCopy core slot t a n) ([0, 1, 2, 3].foldl (fun σ k => σ.bindFrag core slot t a k) σ)

/-- The shape of the fragments a mask names under a plan (R53): one fragment's own, CHAIN2 for two. -/
def maskShape (plan mask : Nat) : Nat :=
  let ks := [0, 1, 2, 3].filter fun k => mask.testBit k
  match ks with
  | [k] =>
    match cells plan k with
    | some (_, _, d, w) => if w = 256 then 0 else if d = 256 ∧ w = 128 then 1 else if d = 128 then 2 else 3
    | none => 0
  | _ => 4
/-- The masks of a record's fragments, one for each lease: the units of a lease have its generation (R183). -/
def Area.fragLeases (a : Area) : List Nat :=
  let ks := [0, 1, 2, 3].filter fun k => a.lease.testBit k
  let gen (k : Nat) : Nat := Tbl.get a.gens 0 (k + 4)
  (ks.map gen).eraseDups.map fun g => (ks.filter fun k => decide (gen k = g)).foldl (fun m k => m + 2 ^ k) 0
def Area.copyLeases (a : Area) : List Nat := (List.range 8).filter fun n => a.lease.testBit (n + 4)
/-- The recorded leases of a saved or aborted task are requested again, a fragment lease as a whole and each copy engine by itself (R45,
R53, R57); of a context moved to another core, by shape (R384). Their class is 0 (log 10). -/
def leaseReqs (t : Nat) (a : Area) (cycle : Nat) : List LeaseReq :=
  let some' (es : List Nat) : Tbl Nat := a.gens.filter fun p => es.contains p.1
  let frag (m : Nat) : LeaseReq :=
    { shape := maskShape a.plan m, since := cycle + 1, task := t, want := if a.byShape then 0 else m, plan := a.plan,
      gens := some' (([0, 1, 2, 3].filter fun k => m.testBit k).map (· + 4)) }
  let copy (n : Nat) : LeaseReq :=
    { copy := true, since := cycle + 1, task := t, want := if a.byShape then 0 else 2 ^ n, plan := a.plan, gens := some' [n + 8] }
  a.fragLeases.map frag ++ a.copyLeases.map copy
def State.reLease (σ : State) (core t : Nat) : State :=
  let a := (σ.taskOf t).cont.getD {}
  let k := σ.coreOf core
  σ.setCore core { k with reqs := k.reqs ++ leaseReqs t a σ.cycle }
/-- A task with no recorded leases needs no grant. -/
def Area.leaseless (a : Area) : Bool := decide (a.lease = 0)

/-- A saved task is ready for a slot of its core: at once, or when its grants arrive (R57). -/
def State.reSave (σ : State) (core t : Nat) : State :=
  if ((σ.taskOf t).cont.getD {}).leaseless then (if σ.pool.contains t then σ else σ.poolAdd t) else σ.reLease core t

/-! ## Restoring a context -/

/-- Slabs coded 5 for a task take the slot's code (R404). -/
def State.reclaim (σ : State) (core slot t : Nat) : State :=
  (σ.pinSet core t).foldl (fun σ j => σ.setCode core j slot) σ

/-- Free slabs whose copy a task spilled are held for it (R379, R404). -/
def State.holdSpilled (σ : State) (core t : Nat) : State :=
  (σ.taskOf t).spilled.foldl (fun σ p =>
    if σ.accCode core p.1 = 7 then { σ.setCode core p.1 5 with holder := Tbl.set σ.holder (core * 2048 + p.1) t } else σ) σ

/-- A register that a wait delivers enters the context and the checkpoint's record (R43, R213). -/
def Ctx.deliverReg (c : Ctx) (r : Nat) (v : Word) : Ctx :=
  let c := c.setS r v
  if r = 0 then c else
  { c with check := { c.check with mask := c.check.mask ||| BitVec.ofNat 64 (2 ^ r), s := Tbl.set c.check.s r v } }
/-- The registers of the slot as an area holds them, at the new window bases and with what the wait delivered. -/
def Area.ctxAt (a : Area) (old : Ctx) (t abase wbase : Nat) : Ctx :=
  let c : Ctx := { a.ctx with abase := abase, wbase := wbase, task := some t, stopped := none, retryAt := none, stall := 0, fault := old.fault,
                              stallLim := old.stallLim, stopping := none, gateStall := none }
  a.deliver.foldl (fun c p => c.deliverReg p.1 p.2) c

/-- The context of a task goes into a slot whose windows are placed: registers, windows, delivered bytes, vector context,
engines' records, slabs. Its units follow (`bindUnits`). -/
def State.loadArea (σ : State) (core slot t abase wbase : Nat) (a : Area) : State :=
  let c := a.ctxAt (σ.ctxOf core slot) t abase wbase
  let σ := (σ.setCtx core slot c).restoreWindows core slot a.aBytes a.wWords
  let σ := σ.setCtx core slot { σ.ctxOf core slot with liveA := a.ctx.liveA, liveW := a.ctx.liveW }
  let σ := a.deliverA.foldl (fun σ p => σ.aWrite core slot p.1 [p.2]) σ
  let σ := σ.setVec core slot (if a.whole then a.vec else {})
  let tk := σ.taskOf t
  let seed := seedOf c.srseed c.lotno 0
  let σ := σ.setEng core slot (Tbl.get a.engs { gen := seed } tk.slot).revive
  (σ.reclaim core slot t).holdSpilled core t

/-- The engines a restored fence waits for, by their numbers in the slot's new place (R191, R384). -/
def State.moveWaits (σ : State) (core slot old : Nat) (a : Area) : State :=
  let now (e : Nat) : Nat :=
    if e < 4 then (if e = old then slot else e)
    else ((List.find? (fun (p : Nat × Nat) => decide (p.2 = e)) a.moved).map (·.1)).getD e
  let c := σ.ctxOf core slot
  σ.setCtx core slot { c with fences := c.fences.map fun f => { f with waits := f.waits.map fun w => (now w.1, w.2) } }

/-- The copies of slabs that a task's area holds (R383). -/
def State.readSpilled (σ : State) (t : Nat) : Tbl (List (BitVec 32)) :=
  match σ.areaOf t with
  | some base => if base + 0x830000 ≤ physLimit then σ.spillsIn base else (σ.taskOf t).spilled
  | none => (σ.taskOf t).spilled

/-- The reload of an area meets a tile that does not verify (R370, R379): SEAL_FAIL goes to both rings, FAULT_HELD with cause 9 to the VF
whatever the mode, and the context waits for the host's answer. -/
def State.reloadFails (σ : State) (t : Nat) : State :=
  let tk := σ.taskOf t
  let nd := σ.nodeOf tk.node
  let σ := match (σ.areaOf t).bind fun base => σ.areaBad base (tk.cont.getD {}) with
    | some tile => σ.sealNotice (4096 * tile)
    | none => σ
  let σ := (σ.withdrawLeases t).poolDel t
  let σ := σ.setTask t { σ.taskOf t with heldFault := true, state := .saved }
  σ.notice nd.vf 23 nd.queue nd.index (causeSealFail + tk.ctxId.getD 0 * 2 ^ 16)

/-- A task resumes on a slot (R36, R40, R57). A continuation that a wait left is a checkpoint with its snapshot, in which nothing is
pending (R43, R44). -/
def State.resume (σ : State) (core slot t abase wbase : Nat) : State :=
  let a := σ.readArea t
  let σ := σ.setTask t { σ.taskOf t with spilled := σ.readSpilled t }
  let σ := ((σ.loadArea core slot t abase wbase a).bindUnits core slot t a).moveWaits core slot (σ.taskOf t).slot a
  let σ := if a.ctx.check.kind = 3 ∧ !a.whole then (σ.takeSnapshot core slot).writeCheck core slot else σ
  σ.setTask t { σ.taskOf t with state := .running, core := some core, slot := slot, cont := none, heldFault := false, page := none }

end Sys2Proof.Machine
end

