-- ==== Sys2Proof/Machine/Alloc.lean ====
section
/-!
DEFINITION. The fragment allocator of a core: order of the requests, grants, accepted plan changes and the WHOLE hold (02 R53,
R54, R56), and the steps ALLOCATOR_DECISION, CLASS_AGING, WHOLE_HOLD, PLAN_CHANGE and FRAGMENT_DRAINED.
-/

namespace Sys2Proof.Machine

/-- The plans that provide a shape, with the sequencers of that plan that satisfy it, in the order of R53: 0 WHOLE, 1 HALF,
2 QUARTER, 3 STRIP, 4 CHAIN2. -/
def shapePlans (shape : Nat) : List (Nat × List Nat) :=
  if shape = 0 then [(0, [0])]
  else if shape = 1 then [(1, [0, 1]), (2, [0])]
  else if shape = 2 then [(3, [0, 1, 2, 3]), (2, [1, 3])]
  else if shape = 3 then [(4, [0, 1, 2, 3])]
  else [(1, [0, 1])]

/-- ALLOCCTL's fields (R380). -/
def Core.age (k : Core) : Nat := bits k.allocctl.toNat 12 8
def Core.holdCycles (k : Core) : Nat := 2 ^ bits k.allocctl.toNat 4 0
def Core.freeze (k : Core) : Bool := k.allocctl.getLsbD 16

/-- The effective class a request has reached by a cycle (R54). -/
def LeaseReq.reached (r : LeaseReq) (cycle age : Nat) : Nat :=
  let c := r.cls + (cycle - r.since) / 2 ^ age
  if c ≤ 3 then c else 3

/-- r goes before q: higher effective class, on a tie the older (R54). -/
def reqBefore (r q : LeaseReq) : Bool := decide (q.eff < r.eff) || (decide (r.eff = q.eff) && decide (r.since < q.since))

def insertReq (r : LeaseReq) : List LeaseReq → List LeaseReq
  | [] => [r]
  | q :: l => if reqBefore r q then r :: q :: l else q :: insertReq r l
/-- The requests in the allocator's order. -/
def orderReqs (l : List LeaseReq) : List LeaseReq := l.foldl (fun acc r => insertReq r acc) []

def State.fragState (σ : State) (core k : Nat) : Nat := (σ.fragOf core k).state

/-- The sequencers a request is granted under the current plan, none where it cannot be: lowest-numbered FREE ones of the shape;
for a saved or aborted task its recorded sequencers, where they drive the same cells (R45, R57). -/
def State.grantable (σ : State) (core : Nat) (r : LeaseReq) : Option (List Nat) :=
  let k := σ.coreOf core
  if k.freeze ∨ k.pendv ∨ (k.hold ∧ r.shape ≠ 0) then none
  else if r.want ≠ 0 then
    let ss := [0, 1, 2, 3].filter fun i => r.want.testBit i
    if ss.all fun i => decide (cells k.plan i = cells r.plan i) && decide (σ.fragState core i = 0) then some ss else none
  else
    match (shapePlans r.shape).find? fun p => decide (p.1 = k.plan) with
    | none => none
    | some p =>
      let free := p.2.filter fun i => decide (σ.fragState core i = 0)
      if r.shape = 4 then (if free.length = 2 then some free else none)
      else match free with
        | [] => none
        | i :: _ => some [i]

/-- The fragments whose cells a change of plan alters (R54, R56). -/
def changed (p q : Nat) : List Nat := [0, 1, 2, 3].filter fun i => decide (cells p i ≠ cells q i)

/-- The plan a request would have accepted as PEND, none where no change can be accepted. R54 says of the hold that no other grant
happens; that no plan change is accepted for another shape either is the model's choice (log 84). -/
def State.acceptable (σ : State) (core : Nat) (r : LeaseReq) : Option Nat :=
  let k := σ.coreOf core
  let p := if r.want ≠ 0 then r.plan else ((shapePlans r.shape).head?.map (·.1)).getD 0
  if k.freeze ∨ k.pendv ∨ (k.hold ∧ r.shape ≠ 0) ∨ p = k.plan then none
  else if (changed k.plan p).all fun i => decide (σ.fragState core i = 0) || decide (σ.fragState core i = 2) then some p
  else none

/-- A grant: each sequencer LEASED, recording the new generation, or the recorded one of a saved or aborted task (R183). A slot
of 7 means that the grant is held for a task that is on no slot. -/
def State.grantFrags (σ : State) (core slot : Nat) (task : Option Nat) (r : LeaseReq) (ss : List Nat) : Nat × State :=
  let k := σ.coreOf core
  let gen := k.fragGen + 1
  let σ := if r.want = 0 then σ.setCore core { k with fragGen := gen } else σ
  let σ := ss.foldl (fun σ i =>
    let σ := σ.setEng core (i + 4) ((σ.engOf core (i + 4)).forGrant (σ.lotName core slot))
    σ.setFrag core i { state := 1, slot := slot, gen := if r.want = 0 then gen.toNat else Tbl.get r.gens 0 (i + 4), lot := task }) σ
  ((handleWord false (ss.foldl (fun a i => a + 2 ^ i) 0) gen.toNat).toNat, σ)

/-- The copy engines a request is granted: the lowest-numbered free one, or the recorded ones. -/
def State.copyGrantable (σ : State) (core : Nat) (r : LeaseReq) : Option (List Nat) :=
  let free (n : Nat) : Bool := let e := σ.copyOf core n; !e.leased && !e.draining
  if (σ.coreOf core).freeze then none
  else if r.want ≠ 0 then
    let ns := (List.range 8).filter fun n => r.want.testBit n
    if ns.all free then some ns else none
  else match (List.range 8).find? free with
    | some n => some [n]
    | none => none
def State.grantCopies (σ : State) (core slot : Nat) (task : Option Nat) (r : LeaseReq) (ns : List Nat) : Nat × State :=
  let k := σ.coreOf core
  let gen := k.copyGen + 1
  let σ := if r.want = 0 then σ.setCore core { k with copyGen := gen } else σ
  let c := σ.ctxOf core slot
  let σ := ns.foldl (fun σ n =>
    let σ := σ.setCopy core n { leased := true, slot := slot, gen := if r.want = 0 then gen.toNat else Tbl.get r.gens 0 (n + 8),
                                holder := task, nextStep := (σ.copyOf core n).nextStep }
    σ.setEng core (n + 8) { (σ.engOf core (n + 8)).forGrant (σ.lotName core slot) with gen := seedOf c.srseed c.lotno (8 + n) }) σ
  ((handleWord true (ns.foldl (fun a n => a + 2 ^ n) 0) gen.toNat).toNat, σ)

/-- Two entries are the same request: a task waits with one request of a kind for each set of units it wants. -/
def LeaseReq.same (r q : LeaseReq) : Bool :=
  decide (q.task = r.task) && decide (q.copy = r.copy) && decide (q.want = r.want) && decide (q.gens = r.gens)
def State.dropReq (σ : State) (core : Nat) (r : LeaseReq) : State :=
  let k := σ.coreOf core
  σ.setCore core (k.withReqs (k.reqs.filter fun q => !r.same q))

/-- The recorded units of a moved context, by engine number, that the units of a handle's mask stand for (R384). -/
def movedUnits (r : LeaseReq) (mask : Nat) (t : Tbl Nat) : Tbl Nat :=
  let new := ((List.range 8).filter fun i => mask.testBit i).map fun i => if r.copy then i + 8 else i + 4
  (new.zip (r.gens.map (·.1))).foldl (fun t p => Tbl.set t p.1 p.2) t
/-- A task's grant is complete: a LEASE.W continuation receives its handle in rd; a saved or aborted task goes on once none of
its requests is pending (R57, R194), in the slot into which CTXLD has loaded it, or from the pool. -/
def State.granted (σ : State) (core : Nat) (r : LeaseReq) (handle : Nat) : State :=
  let tk := σ.taskOf r.task
  if tk.state = .waiting then
    (σ.setTask r.task { tk with core := some core, cont := tk.cont.map fun a =>
      { a with deliver := Tbl.set a.deliver r.rd (BitVec.ofNat 64 handle), asked := some r } }).enqueueCont r.task
  else
    let tk := if r.want ≠ 0 then tk else { tk with core := some core, cont := tk.cont.map fun a =>
      { a with moved := movedUnits r (bits handle 23 16) a.moved } }
    let σ := σ.setTask r.task tk
    if ((σ.coreOf core).reqs.any fun q => decide (q.task = r.task)) ∨ σ.pool.contains r.task then σ
    else if tk.state = .saved then
      match [0, 1, 2, 3].find? fun k => decide ((σ.ctxOf core k).task = some r.task) with
      | some k =>
        let a := tk.cont.getD {}
        let σ := (σ.bindUnits core k r.task a).moveWaits core k k a
        σ.setTask r.task { σ.taskOf r.task with state := .running, slot := k, cont := none }
      | none => σ.poolAdd r.task
    else σ.enqueueCont r.task

/-- One fragment decision (R54): the first request in order that can be granted, or for which a plan change can be accepted. -/
def State.fragDecide (σ : State) (core : Nat) : List LeaseReq → State
  | [] => σ
  | r :: l =>
    match σ.grantable core r with
    | some ss =>
      let g := (σ.dropReq core r).grantFrags core noSlot (some r.task) r ss
      g.2.granted core r g.1
    | none =>
      match σ.acceptable core r with
      | some p => σ.setCore core { σ.coreOf core with pend := p, pendv := true, pendReq := some r }
      | none => State.fragDecide σ core l

def State.copyDecide (σ : State) (core : Nat) : List LeaseReq → State
  | [] => σ
  | r :: l =>
    match σ.copyGrantable core r with
    | some ns =>
      let g := (σ.dropReq core r).grantCopies core noSlot (some r.task) r ns
      g.2.granted core r g.1
    | none => State.copyDecide σ core l

/-- The requests of a kind in order, those that join in a later cycle left out. -/
def State.reqsNow (σ : State) (core : Nat) (copy : Bool) : List LeaseReq :=
  let k := σ.coreOf core
  orderReqs (k.reqs.filter fun r => decide (r.copy = copy) && decide (r.since ≤ σ.cycle))

/-- The decisions of a cycle (R54): one for fragments and one for copy engines, each once a cycle. -/
def State.allocate (σ : State) (core : Nat) : State :=
  let σ := if (σ.coreOf core).fragCycle = σ.cycle + 1 then σ
    else (σ.setCore core { σ.coreOf core with fragCycle := σ.cycle + 1 }).fragDecide core (σ.reqsNow core false)
  if (σ.coreOf core).copyCycle = σ.cycle + 1 then σ
  else (σ.setCore core { σ.coreOf core with copyCycle := σ.cycle + 1 }).copyDecide core (σ.reqsNow core true)
/-- ALLOCATOR_DECISION (R54). -/
def execAllocatorDecision (core : Nat) (σ : State) : Out := .next (σ.allocate core)

/-- CLASS_AGING (R54): the effective class of every waiting request takes the value its waiting time has earned; it never falls,
whatever AGE has become since (R380). -/
def execClassAging (core : Nat) (σ : State) : Out :=
  let k := σ.coreOf core
  let age (r : LeaseReq) : LeaseReq :=
    if r.eff < r.reached σ.cycle k.age then { r with eff := r.reached σ.cycle k.age } else r
  .next (σ.setCore core { k with reqs := k.reqs.map age })

/-- WHOLE_HOLD (R54): a WHOLE request that joined HOLD cycles ago or more starts the hold on other fragment grants, until it is served. -/
def execWholeHold (core : Nat) (σ : State) : Out :=
  let k := σ.coreOf core
  let due (r : LeaseReq) : Bool := !r.copy && decide (r.shape = 0) && decide (r.since + k.holdCycles ≤ σ.cycle)
  .next (σ.setCore core (k.withReqs (k.reqs.map fun r => if due r then { r with holds := true } else r)))

/-- The plan takes the value of PEND once every fragment whose cells change is FREE (R56), and not while FREEZE stands (R380); the request
that asked for it is then granted. This grant is not the one decision of its cycle: the spec does not say that it is (log 101). -/
def State.planChange (σ : State) (core : Nat) : State :=
  let k := σ.coreOf core
  if k.pendv ∧ !k.freeze ∧ (changed k.plan k.pend).all fun i => decide (σ.fragState core i = 0) then
    let σ := σ.setCore core { k with plan := k.pend, pendv := false, pend := 0, pendReq := none }
    match k.pendReq with
    | none => σ
    | some r =>
      if k.reqs.any r.same then
        match σ.grantable core r with
        | some ss =>
          let g := (σ.dropReq core r).grantFrags core noSlot (some r.task) r ss
          g.2.granted core r g.1
        | none => σ
      else σ
  else σ
/-- PLAN_CHANGE (R56). -/
def execPlanChange (core : Nat) (σ : State) : Out := .next (σ.planChange core)

/-- FRAGMENT_DRAINED (R55): a DRAINING fragment that is drained becomes FREE. -/
def execFragmentDrained (core seq : Nat) (σ : State) : Out :=
  .next (if σ.fragState core seq = 2 ∧ σ.drained core seq then σ.fragFree core seq false else σ)

end Sys2Proof.Machine
end

