-- ==== Sys2Proof/Machine/ScalarArith.lean ====
section
/-!
DEFINITION. The register and immediate arithmetic of the control core, compares, flag operations and branches: 08 (R158 to
R165). Every result is taken modulo 2^64, no instruction here reads memory, and only a misaligned taken transfer traps.
-/

namespace Sys2Proof.Machine

/-! ## Results (R158, R159) -/

/-- DIV of R159. -/
def divS (a b : Word) : Word :=
  if b = 0 then BitVec.allOnes 64 else if a = BitVec.intMin 64 ∧ b = BitVec.allOnes 64 then BitVec.intMin 64
  else BitVec.ofInt 64 (a.toInt.tdiv b.toInt)
/-- REM of R159. -/
def remS (a b : Word) : Word :=
  if b = 0 then a else if a = BitVec.intMin 64 ∧ b = BitVec.allOnes 64 then 0
  else BitVec.ofInt 64 (a.toInt.tmod b.toInt)
def divU (a b : Word) : Word := if b = 0 then BitVec.allOnes 64 else BitVec.ofNat 64 (a.toNat / b.toNat)
def remU (a b : Word) : Word := if b = 0 then a else BitVec.ofNat 64 (a.toNat % b.toNat)
/-- `sat` to .i64 (R104). -/
def satI64 (z : Int) : Word :=
  if z < -(2 ^ 63) then BitVec.intMin 64 else if 2 ^ 63 - 1 < z then BitVec.intMax 64 else BitVec.ofInt 64 z
/-- Leading zero bits of the low k bits of a number; k when they are all zero. -/
def leadZeros (k n : Nat) : Nat := if n % 2 ^ k = 0 then k else k - 1 - Nat.log2 (n % 2 ^ k)
/-- Trailing zero bits, at most k. -/
def trailZeros : Nat → Nat → Nat
  | 0, _ => 0
  | k + 1, n => if n % 2 = 1 then 0 else trailZeros k (n / 2) + 1
/-- One bits among the low k. -/
def popCount : Nat → Nat → Nat
  | 0, _ => 0
  | k + 1, n => n % 2 + popCount k (n / 2)
def shamt (b : Word) : Nat := b.toNat % 64
def mulhS (a b : Word) : Word := BitVec.ofInt 64 (a.toInt * b.toInt / 2 ^ 64)
def mulhU (a b : Word) : Word := BitVec.ofNat 64 (a.toNat * b.toNat / 2 ^ 64)

/-! ## Major 0x01 (R158) -/

/-- ADD (R158): rd := rs + rt. -/
def execAdd (d s t : BitVec 5) (σ : State) : Out := σ.retireS d (σ.rs s + σ.rs t)
/-- SUB (R158): rd := rs - rt. -/
def execSub (d s t : BitVec 5) (σ : State) : Out := σ.retireS d (σ.rs s - σ.rs t)
/-- AND (R158): rd := rs AND rt. -/
def execAnd (d s t : BitVec 5) (σ : State) : Out := σ.retireS d (σ.rs s &&& σ.rs t)
/-- OR (R158): rd := rs OR rt. -/
def execOr (d s t : BitVec 5) (σ : State) : Out := σ.retireS d (σ.rs s ||| σ.rs t)
/-- XOR (R158): rd := rs XOR rt. -/
def execXor (d s t : BitVec 5) (σ : State) : Out := σ.retireS d (σ.rs s ^^^ σ.rs t)
/-- ANDN (R158): rd := rs AND NOT rt. -/
def execAndn (d s t : BitVec 5) (σ : State) : Out := σ.retireS d (σ.rs s &&& ~~~(σ.rs t))
/-- SLL (R158): rd := rs shifted left by rt bits 5:0. -/
def execSll (d s t : BitVec 5) (σ : State) : Out := σ.retireS d (σ.rs s <<< shamt (σ.rs t))
/-- SRL (R158): rd := rs shifted logically right by rt bits 5:0. -/
def execSrl (d s t : BitVec 5) (σ : State) : Out := σ.retireS d (σ.rs s >>> shamt (σ.rs t))
/-- SRA (R158): rd := rs shifted arithmetically right by rt bits 5:0. -/
def execSra (d s t : BitVec 5) (σ : State) : Out := σ.retireS d ((σ.rs s).sshiftRight (shamt (σ.rs t)))
/-- ROR (R158): rd := rs rotated right by rt bits 5:0. -/
def execRor (d s t : BitVec 5) (σ : State) : Out := σ.retireS d ((σ.rs s).rotateRight (shamt (σ.rs t)))
/-- MUL (R158): rd := the low 64 bits of the product. -/
def execMul (d s t : BitVec 5) (σ : State) : Out := σ.retireS d (σ.rs s * σ.rs t)
/-- MULH (R158): rd := the high 64 bits of the signed product. -/
def execMulh (d s t : BitVec 5) (σ : State) : Out := σ.retireS d (mulhS (σ.rs s) (σ.rs t))
/-- MULHU (R158): rd := the high 64 bits of the unsigned product. -/
def execMulhu (d s t : BitVec 5) (σ : State) : Out := σ.retireS d (mulhU (σ.rs s) (σ.rs t))
/-- DIV (R158): rd := the signed quotient of R159. -/
def execDiv (d s t : BitVec 5) (σ : State) : Out := σ.retireS d (divS (σ.rs s) (σ.rs t))
/-- DIVU (R158): rd := the unsigned quotient of R159. -/
def execDivu (d s t : BitVec 5) (σ : State) : Out := σ.retireS d (divU (σ.rs s) (σ.rs t))
/-- REM (R158): rd := the signed remainder of R159. -/
def execRem (d s t : BitVec 5) (σ : State) : Out := σ.retireS d (remS (σ.rs s) (σ.rs t))
/-- REMU (R158): rd := the unsigned remainder of R159. -/
def execRemu (d s t : BitVec 5) (σ : State) : Out := σ.retireS d (remU (σ.rs s) (σ.rs t))
/-- MIN (R158): rd := the signed minimum. -/
def execMin (d s t : BitVec 5) (σ : State) : Out := σ.retireS d ((if (σ.rs s).sle (σ.rs t) then σ.rs s else σ.rs t))
/-- MAX (R158): rd := the signed maximum. -/
def execMax (d s t : BitVec 5) (σ : State) : Out := σ.retireS d ((if (σ.rs s).sle (σ.rs t) then σ.rs t else σ.rs s))
/-- MINU (R158): rd := the unsigned minimum. -/
def execMinu (d s t : BitVec 5) (σ : State) : Out := σ.retireS d ((if (σ.rs s).ule (σ.rs t) then σ.rs s else σ.rs t))
/-- MAXU (R158): rd := the unsigned maximum. -/
def execMaxu (d s t : BitVec 5) (σ : State) : Out := σ.retireS d ((if (σ.rs s).ule (σ.rs t) then σ.rs t else σ.rs s))
/-- ADDS (R158): rd := the signed sum saturated to .i64. -/
def execAdds (d s t : BitVec 5) (σ : State) : Out := σ.retireS d (satI64 ((σ.rs s).toInt + (σ.rs t).toInt))
/-- SUBS (R158): rd := the signed difference saturated to .i64. -/
def execSubs (d s t : BitVec 5) (σ : State) : Out := σ.retireS d (satI64 ((σ.rs s).toInt - (σ.rs t).toInt))
/-- CLZ (R158): rd := the count of leading zero bits of rs. -/
def execClz (d s : BitVec 5) (σ : State) : Out := σ.retireS d (BitVec.ofNat 64 (leadZeros 64 (σ.rs s).toNat))
/-- CTZ (R158): rd := the count of trailing zero bits of rs. -/
def execCtz (d s : BitVec 5) (σ : State) : Out := σ.retireS d (BitVec.ofNat 64 (trailZeros 64 (σ.rs s).toNat))
/-- POPC (R158): rd := the count of one bits of rs. -/
def execPopc (d s : BitVec 5) (σ : State) : Out := σ.retireS d (BitVec.ofNat 64 (popCount 64 (σ.rs s).toNat))
/-- SEXT8 (R158): rd := sext(rs, 8). -/
def execSext8 (d s : BitVec 5) (σ : State) : Out := σ.retireS d (sext ((σ.rs s).extractLsb' 0 8))
/-- SEXT16 (R158): rd := sext(rs, 16). -/
def execSext16 (d s : BitVec 5) (σ : State) : Out := σ.retireS d (sext ((σ.rs s).extractLsb' 0 16))
/-- SEXT32 (R158): rd := sext(rs, 32). -/
def execSext32 (d s : BitVec 5) (σ : State) : Out := σ.retireS d (sext ((σ.rs s).extractLsb' 0 32))
/-- ZEXT32 (R158): rd := zext(rs, 32). -/
def execZext32 (d s : BitVec 5) (σ : State) : Out := σ.retireS d (zext ((σ.rs s).extractLsb' 0 32))
/-- MOVF (R158): rd := 1 if flag f is set, else 0. -/
def execMovf (d : BitVec 5) (f : BitVec 3) (σ : State) : Out := σ.retireS d (if σ.fl f then 1 else 0)
/-- MOVB (R158): rd := the contents of b. -/
def execMovb (d : BitVec 5) (b : BitVec 3) (σ : State) : Out := σ.retireS d (σ.cx.breg b.toNat)

/-! ## Immediates (R160) -/

/-- ADDI (R160): rd := rs + sext(imm16). -/
def execAddi (d s : BitVec 5) (i : BitVec 16) (σ : State) : Out := σ.retireS d (σ.rs s + sext i)
/-- ANDI (R160): rd := rs AND zext(imm16). -/
def execAndi (d s : BitVec 5) (i : BitVec 16) (σ : State) : Out := σ.retireS d (σ.rs s &&& zext i)
/-- ORI (R160): rd := rs OR zext(imm16). -/
def execOri (d s : BitVec 5) (i : BitVec 16) (σ : State) : Out := σ.retireS d (σ.rs s ||| zext i)
/-- XORI (R160): rd := rs XOR zext(imm16). -/
def execXori (d s : BitVec 5) (i : BitVec 16) (σ : State) : Out := σ.retireS d (σ.rs s ^^^ zext i)
/-- MULI (R160): rd := the low 64 bits of rs x sext(imm16). -/
def execMuli (d s : BitVec 5) (i : BitVec 16) (σ : State) : Out := σ.retireS d (σ.rs s * sext i)
/-- SLLI (R160): rd := rs shifted left by shamt. -/
def execSlli (d s : BitVec 5) (h : BitVec 6) (σ : State) : Out := σ.retireS d (σ.rs s <<< h.toNat)
/-- SRLI (R160): rd := rs shifted logically right by shamt. -/
def execSrli (d s : BitVec 5) (h : BitVec 6) (σ : State) : Out := σ.retireS d (σ.rs s >>> h.toNat)
/-- SRAI (R160): rd := rs shifted arithmetically right by shamt. -/
def execSrai (d s : BitVec 5) (h : BitVec 6) (σ : State) : Out := σ.retireS d ((σ.rs s).sshiftRight h.toNat)
/-- RORI (R160): rd := rs rotated right by shamt. -/
def execRori (d s : BitVec 5) (h : BitVec 6) (σ : State) : Out := σ.retireS d ((σ.rs s).rotateRight h.toNat)
/-- LI (R160): rd := zext(imm16). -/
def execLi (d : BitVec 5) (i : BitVec 16) (σ : State) : Out := σ.retireS d (zext i)
/-- LIH (R160): rd := (rd AND 0xFFFF) OR (imm16 << 16); bits 63:32 become 0. -/
def execLih (d : BitVec 5) (i : BitVec 16) (σ : State) : Out := σ.retireS d (σ.rs d &&& 0xFFFF ||| zext i <<< 16)

/-! ## Compare and flags (R161, R162) -/

/-- CMP (R161): f[fd] := the test of rs and rt. -/
def execCmp (f : BitVec 3) (c : BitVec 4) (s t : BitVec 5) (σ : State) : Out :=
  σ.retireF f (condHolds c.toNat (σ.rs s) (σ.rs t))
/-- CMPI (R161): f[fd] := the test of rs and sext(imm14). -/
def execCmpi (f : BitVec 3) (c : BitVec 4) (s : BitVec 5) (i : BitVec 14) (σ : State) : Out :=
  σ.retireF f (condHolds c.toNat (σ.rs s) (sext i))
/-- FAND (R162). -/
def execFlagAnd (d a b : BitVec 3) (σ : State) : Out := σ.retireF d (σ.fl a && σ.fl b)
/-- FOR (R162). -/
def execFlagOr (d a b : BitVec 3) (σ : State) : Out := σ.retireF d (σ.fl a || σ.fl b)
/-- FXOR (R162). -/
def execFlagXor (d a b : BitVec 3) (σ : State) : Out := σ.retireF d (σ.fl a ^^ σ.fl b)
/-- FANDN (R162). -/
def execFlagAndn (d a b : BitVec 3) (σ : State) : Out := σ.retireF d (σ.fl a && !σ.fl b)
/-- FNOT (R162). -/
def execFlagNot (d a : BitVec 3) (σ : State) : Out := σ.retireF d (!σ.fl a)
/-- FSET (R162). -/
def execFlagSet (d : BitVec 3) (v : BitVec 1) (σ : State) : Out := σ.retireF d (decide (v = 1))

/-! ## Branches (R163 to R165) -/

/-- PREP (R163): b[b] := the address of the word + 4 x sext(off23). -/
def execPrep (b : BitVec 3) (o : BitVec 23) (σ : State) : Out :=
  σ.retire (σ.cx.setB b.toNat (σ.cx.pc + sext o * 4))

/-- XFER of R164, its decision taken: ILLEGAL in a delay slot (R143); ALIGN for a misaligned taken target, before any effect; else the link, and two delay slots
before the decided PC. -/
def State.transfer (σ : State) (take : Bool) (tgt : Word) (link : Option (BitVec 5)) : Out :=
  if σ.inSlot then σ.trapWith causeIllegal
  else if take ∧ !aligned tgt 4 then σ.trapWith causeAlign tgt else
  let c := σ.cx
  let c := match link with
    | some t => c.setS t.toNat (c.pc + 12)
    | none => c
  .next (σ.setCx { c with pc := c.pc + 4, npc := if take then tgt else c.pc + 12, pslots := 2, stall := 0 })

/-- XFER (R164). -/
def execXfer (b f : BitVec 3) (σ : State) : Out := σ.transfer (σ.fl f) (σ.cx.breg b.toNat) none
/-- XFER with NEG (R164). -/
def execXferN (b f : BitVec 3) (σ : State) : Out := σ.transfer (!σ.fl f) (σ.cx.breg b.toNat) none
/-- XFER with ALW (R164). -/
def execXferA (b : BitVec 3) (σ : State) : Out := σ.transfer true (σ.cx.breg b.toNat) none
/-- XFER of KIND 1 (R164): the link is written whether or not the transfer is taken. -/
def execXferL (b f : BitVec 3) (n a : BitVec 1) (t : BitVec 5) (σ : State) : Out :=
  σ.transfer (decide (a = 1) || (σ.fl f ^^ decide (n = 1))) (σ.cx.breg b.toNat) (some t)
/-- XFER of KIND 2 (R164): the target is s[rt]. -/
def execXferR (f : BitVec 3) (n a : BitVec 1) (t : BitVec 5) (σ : State) : Out :=
  σ.transfer (decide (a = 1) || (σ.fl f ^^ decide (n = 1))) (σ.rs t) none

end Sys2Proof.Machine
end

