-- ==== Sys2Proof/Machine/Engines.lean ====
section
/-!
DEFINITION. The control core's dealings with its engines, tags and rings: FORK, MARK, RDV, QDROP, the tag operations and the ring
operations (09 R183 to R189, 14 R278), and the fences (04 R96, 09 R191).
-/

namespace Sys2Proof.Machine

/-! ## Tags (R81, R278) -/

def Ctx.outOf (c : Ctx) (t : Nat) : Nat := Tbl.get c.out 0 t
def Ctx.resOf (c : Ctx) (t : Nat) : Nat := Tbl.get c.res 0 t
def setBit (w : Word) (t : Nat) (v : Bool) : Word :=
  if v then w ||| BitVec.ofNat 64 (2 ^ t) else w &&& ~~~(BitVec.ofNat 64 (2 ^ t))
/-- TAGDONE[t] = 1 exactly when out[t] = 0 and res[t] = 0. -/
def Ctx.settleTag (c : Ctx) (t : Nat) : Ctx :=
  { c with tagdone := setBit c.tagdone t (decide (c.outOf t = 0) && decide (c.resOf t = 0)) }
/-- The reservation of a tag by a placed copy program. -/
def Ctx.reserveTag (c : Ctx) (t : Nat) : Ctx :=
  let c := if c.outOf t = 0 ∧ c.resOf t = 0 then { c with tagerr := setBit c.tagerr t false, tagcause := Tbl.set c.tagcause t 0 } else c
  ({ c with res := Tbl.set c.res t (c.resOf t + 1) }).settleTag t
def Ctx.unreserveTag (c : Ctx) (t : Nat) : Ctx := ({ c with res := Tbl.set c.res t (c.resOf t - 1) }).settleTag t
/-- An accepted tagged step counts in out[t]; a loop takes it past 255 too (log 113). -/
def Ctx.acceptTag (c : Ctx) (t : Nat) : Ctx := ({ c with out := Tbl.set c.out t (c.outOf t + 1) }).settleTag t
/-- The completion of R81: the first error cause is kept. -/
def Ctx.completeTag (c : Ctx) (t : Nat) (err : Option Nat) : Ctx :=
  let c := match err with
    | some e => { c with tagerr := setBit c.tagerr t true,
                         tagcause := if Tbl.get c.tagcause 0 t = 0 then Tbl.set c.tagcause t e else c.tagcause }
    | none => c
  ({ c with out := Tbl.set c.out t (c.outOf t - 1) }).settleTag t

/-- A tag wait orders the completed commands of its tags before the control core's later accesses, and before the programs that are placed
from then on (R95). -/
def State.orderTags (σ : State) (core slot : Nat) (ts : List Nat) : State :=
  let c := σ.ctxOf core slot
  let now (l : Tbl (Tbl Nat)) : List (Tbl Nat) := (l.filter fun p => ts.contains (p.1 % 65)).map (·.2)
  let σ := σ.setCtx core slot { c with after := (now c.vTagLines).foldl maskJoin c.after }
  σ.orderBytes core slot (now c.tagLines)
/-- A fence from the copy path to the core path orders every copy write of the commands before it (R96): where the core waits, of all. -/
def State.orderCopies (σ : State) (core slot : Nat) : State := σ.orderBytes core slot ((σ.ctxOf core slot).tagLines.map (·.2))

def tagsOf (mask : Word) : List Nat := (List.range 64).filter fun t => mask.getLsbD t

/-! ## Section words (R426) -/

/-- The word of a lot's program at a G address, for the checks that are made at a FORK; none where it cannot be fetched. -/
def State.peekWord (σ : State) (core slot : Nat) (va : Word) : Option Nat :=
  match σ.translate core slot va .fetch .near with
  | .ok x => if x.pa + 4 ≤ physLimit then some (σ.memNat x.pa 4) else none
  | .error _ => none

/-- The tags of the tagged steps of a copy program's body (R278): words up to CHALT, a CLDM's second word passed over, and none from a word on
that cannot be fetched (log 113). -/
def State.scanTags (σ : State) (core slot : Nat) : Nat → Word → List Nat
  | 0, _ => []
  | n + 1, va =>
    match σ.peekWord core slot va with
    | none => []
    | some w =>
      let op := w / 2 ^ 27
      if op = 0x1F then [] else
      let rest := State.scanTags σ core slot n (va + (if op = 9 then 8 else 4))
      if 1 ≤ op ∧ op ≤ 9 ∧ w.testBit 23 then insertNat rest (bits w 22 17) else rest

/-! ## FORK (R184) -/

/-- The program a FORK places, with the registers bound by value. -/
def State.progAt (σ : State) (core slot : Nat) (base : Word) (len entry : Nat) (tags : List Nat) : Prog :=
  let c := σ.ctxOf core slot
  { base := base, entry := entry, len := len, loops := (σ.nodeAt core slot).loops, vshape := c.vshape, q := c.q, cv := c.cv,
    tx := c.tx, tags := tags, after := c.after }

/-- The commands of a FORK on engines whose queues all have room; without HOLD every held command of the lot is released. -/
def State.forkOn (σ : State) (es : List Nat) (hold : Bool) (p : Prog) : Out :=
  let core := σ.core
  let slot := σ.ctx
  let c := σ.cx
  let n := es.length
  if es.any (σ.queueFull core) ∨ p.tags.any (fun t => decide (255 < c.outOf t + c.resOf t + n)) then σ.stallHere else
  let c := (List.range n).foldl (fun c _ => p.tags.foldl Ctx.reserveTag c) c
  let σ := σ.putTags core slot c
  let σ := es.foldl (fun σ e => σ.place core slot e hold (.program p)) σ
  let σ := if hold then σ else σ.releaseHeld core slot
  σ.retire σ.cx

/-- FORK of the slot's vector context (R184). -/
def execForkVec (h : BitVec 1) (e : BitVec 18) (σ : State) : Out :=
  let nd := σ.nodeAt σ.core σ.ctx
  if σ.ctx = Config.fwCtx ∨ nd.veclen ≤ e.toNat then σ.trapWith causeIllegal
  else σ.forkOn [σ.ctx] (decide (h = 1)) (σ.progAt σ.core σ.ctx nd.vec nd.veclen e.toNat [])

/-- The engines a handle of a kind names, none where R184 traps LEASE_BAD. -/
def State.handleEngines (σ : State) (v : Word) (copy : Bool) : Option (List Nat) :=
  let h := handleOf v
  if decide (h.copy = copy) && σ.current σ.core σ.ctx h then some (h.units.map (· + (if copy then 8 else 4))) else none

/-- FORK of leased fragments (R184). -/
def execForkMat (h : BitVec 1) (k : BitVec 5) (e : BitVec 18) (σ : State) : Out :=
  let nd := σ.nodeAt σ.core σ.ctx
  match σ.handleEngines (σ.rs k) false with
  | none => σ.trapWith causeLeaseBad
  | some es =>
    if nd.matlen ≤ e.toNat then σ.trapWith causeIllegal
    else σ.forkOn es (decide (h = 1)) (σ.progAt σ.core σ.ctx nd.mat nd.matlen e.toNat [])

/-- FORK of leased copy engines (R184), which reserves the program's tags (R278). -/
def execForkCopy (h : BitVec 1) (k : BitVec 5) (e : BitVec 18) (σ : State) : Out :=
  let nd := σ.nodeAt σ.core σ.ctx
  match σ.handleEngines (σ.rs k) true with
  | none => σ.trapWith causeLeaseBad
  | some es =>
    if nd.xferlen ≤ e.toNat then σ.trapWith causeIllegal
    else
      let n := if nd.xferlen - e.toNat ≤ Config.bodyWords then nd.xferlen - e.toNat else Config.bodyWords
      let tags := σ.scanTags σ.core σ.ctx n (nd.xfer + BitVec.ofNat 64 (4 * e.toNat))
      σ.forkOn es (decide (h = 1)) (σ.progAt σ.core σ.ctx nd.xfer nd.xferlen e.toNat tags)

/-! ## Markers and rendezvous (R185 to R187) -/

/-- MARK (R185). -/
def execMark (s : BitVec 5) (n : BitVec 1) (q : BitVec 13) (σ : State) : Out :=
  match σ.qmaskEngines σ.core σ.ctx q with
  | none => σ.trapWith causeLeaseBad
  | some es =>
    if es.any (σ.queueFull σ.core) then σ.stallHere
    else
      let m : BitVec 16 := BitVec.ofNat 16 (σ.rs s).toNat
      let σ := es.foldl (fun σ' e => σ'.place σ.core σ.ctx e false (.marker m (decide (n = 1)))) σ
      σ.retire σ.cx

/-- RDV.SET (R186). -/
def execRdvSet (v : BitVec 3) (s : BitVec 5) (q : BitVec 13) (σ : State) : Out :=
  match σ.qmaskEngines σ.core σ.ctx q with
  | none => σ.trapWith causeLeaseBad
  | some _ =>
    let c := σ.cx
    σ.retire { c with rv := Tbl.set c.rv v.toNat { mask := q, marker := BitVec.ofNat 16 (σ.rs s).toNat } }

/-- An engine has passed a rendezvous' marker, is not the lot's any more, or is FAULTED (R186). -/
def State.passed (σ : State) (core slot e : Nat) (m : BitVec 16) : Bool :=
  !(σ.enginesHeld core slot).contains e
    || (decide (4 ≤ e) && decide (e < 8) && decide (σ.fragState core (e - 4) = 3))
    || (match (σ.engOf core e).last with
        | none => false
        | some l => decide ((l - m).toNat < 2 ^ 15))

/-- `fired` of R186. -/
def State.fired (σ : State) (core slot : Nat) (r : Rv) : Bool :=
  (((List.range 13).filter fun i => r.mask.getLsbD i).map (qEngine slot)).all fun e => σ.passed core slot e r.marker

/-- RDV.WAIT (R186). -/
def execRdvWait (v : BitVec 3) (σ : State) : Out :=
  if σ.fired σ.core σ.ctx (σ.cx.rvreg v.toNat) then σ.retire σ.cx else σ.stallHere
/-- RDV.TEST (R186). -/
def execRdvTest (v f : BitVec 3) (σ : State) : Out := σ.retireF f (σ.fired σ.core σ.ctx (σ.cx.rvreg v.toNat))

/-- Whether QDROP removes a command (R187): a program or marker placed after the marker's latest placement. -/
def dropped (after : Nat) (c : Cmd) : Bool :=
  decide (after < c.id) && (match c.kind with | .program _ => true | .marker _ _ => true | _ => false)
/-- The tags the removed programs had reserved. -/
def droppedTags (after : Nat) (q : List Cmd) : List Nat :=
  (q.filter (dropped after)).flatMap fun c => match c.kind with | .program p => p.tags | _ => []
def State.dropAfter (σ : State) (core slot e : Nat) (m : BitVec 16) : State :=
  let v := σ.engOf core e
  match Tbl.find? v.placed m.toNat with
  | none => σ
  | some n =>
    let σ := σ.setCtx core slot ((droppedTags n v.queue).foldl Ctx.unreserveTag (σ.ctxOf core slot))
    σ.setEng core e { v with queue := v.queue.filter fun c => !dropped n c }

/-- QDROP (R187). -/
def execQdrop (s : BitVec 5) (q : BitVec 13) (σ : State) : Out :=
  match σ.qmaskEngines σ.core σ.ctx q with
  | none => σ.trapWith causeLeaseBad
  | some es =>
    let m : BitVec 16 := BitVec.ofNat 16 (σ.rs s).toNat
    let σ := es.foldl (fun σ' e => σ'.dropAfter σ.core σ.ctx e m) σ
    σ.retire σ.cx

/-! ## Tag operations (R188) -/

/-- TWAIT.ANY (R188). -/
def execTwaitAny (s : BitVec 5) (σ : State) : Out :=
  let done := σ.cx.tagdone &&& σ.rs s
  if σ.rs s = 0 then σ.trapWith causeIllegal
  else if done ≠ 0 then let σ := σ.orderTags σ.core σ.ctx (tagsOf done); σ.retire σ.cx
  else σ.stallHere
/-- TWAIT.ALL (R188). -/
def execTwaitAll (s : BitVec 5) (σ : State) : Out :=
  let done := σ.cx.tagdone &&& σ.rs s
  if done = σ.rs s then let σ := σ.orderTags σ.core σ.ctx (tagsOf done); σ.retire σ.cx else σ.stallHere
/-- TFFR (R188). -/
def execTffr (d s : BitVec 5) (σ : State) : Out :=
  let done := σ.cx.tagdone &&& σ.rs s
  if done = 0 then σ.retireS d 64
  else (σ.orderTags σ.core σ.ctx (tagsOf done)).retireS d (BitVec.ofNat 64 (trailZeros 64 done.toNat))

/-- The steps in flight of a copy engine whose tag a mask names complete with cause CANCELLED; its programs are marked (R82,
R188). -/
def Prog.cancel (mask : Word) (p : Prog) : Prog := { p with cancelled := p.cancelled ||| mask }
def Cmd.cancel (mask : Word) (c : Cmd) : Cmd :=
  match c.kind with
  | .program p => { c with kind := .program (p.cancel mask) }
  | _ => c
def CopyStep.hit (mask : Word) (s : CopyStep) : Bool :=
  match s.tag with
  | some t => mask.getLsbD t
  | none => false
def State.cancelEngine (σ : State) (core slot n : Nat) (mask : Word) : State :=
  let v := σ.engOf core (n + 8)
  let x := σ.copyOf core n
  let σ := σ.setEng core (n + 8)
    { v with queue := v.queue.map (Cmd.cancel mask), run := v.run.map fun r => { r with prog := r.prog.cancel mask } }
  let hits := x.steps.filter (CopyStep.hit mask)
  let c := hits.foldl (fun c s => c.completeTag (s.tag.getD 0) (some causeCancelled)) (σ.ctxOf core slot)
  (σ.putTags core slot c).setCopy core n { x with steps := x.steps.filter fun s => !s.hit mask }

/-- TCANCEL (R188). -/
def execTcancel (s : BitVec 5) (σ : State) : Out :=
  let mask := σ.rs s
  let σ := (σ.copiesWith σ.core σ.ctx).foldl (fun σ' n => σ'.cancelEngine σ.core σ.ctx n mask) σ
  σ.retire σ.cx

/-! ## Rings from the control core (R189) -/

def count32 (v : Word) : Nat := v.toNat % 2 ^ 32
/-- The checks every ring operation with a count makes: a configured entry and a count from 1 to SCOUNT. -/
def ringCountOk (r : Ring) (n : Nat) : Bool := r.configured && decide (1 ≤ n) && decide (n ≤ r.scount)

/-- RSET (R189, R75): the entry is written and its counters are reset. -/
def execRset (c : BitVec 6) (s : BitVec 5) (σ : State) : Out :=
  if ringEntryOk (σ.rs s).toNat σ.cx.asize then σ.retire (σ.cx.setRing c.toNat { entry := σ.rs s })
  else σ.trapWith causeIllegal
/-- RCLAIM (R189). -/
def execRclaim (c : BitVec 6) (d s : BitVec 5) (σ : State) : Out :=
  let r := σ.cx.ring c.toNat
  let n := count32 (σ.rs s)
  if !ringCountOk r n then σ.trapWith causeIllegal
  else if r.free < n then σ.stallHere
  else σ.retire ((σ.cx.setRing c.toNat (r.doClaim n)).setS d.toNat (zext r.claim))
/-- RDONE (R189). -/
def execRdone (c : BitVec 6) (s : BitVec 5) (σ : State) : Out :=
  let r := σ.cx.ring c.toNat
  let i : BitVec 32 := BitVec.ofNat 32 (count32 (σ.rs s))
  if !r.configured ∨ (r.claim - r.tail).toNat ≤ (i - r.tail).toNat ∨ r.filled.contains (i.toNat % r.scount) then
    σ.trapWith causeIllegal
  else σ.retire (σ.cx.setRing c.toNat (r.fillDone i.toNat))
/-- RWAITF (R189): a met wait orders what the producers of its slots wrote (R94). -/
def execRwaitf (c : BitVec 6) (s : BitVec 5) (σ : State) : Out :=
  let r := σ.cx.ring c.toNat
  let n := count32 (σ.rs s)
  if !ringCountOk r n then σ.trapWith causeIllegal
  else if r.full < n then σ.stallHere
  else let σ := σ.orderRing σ.core σ.ctx c.toNat n; σ.retire σ.cx
/-- RWAITE (R189). -/
def execRwaite (c : BitVec 6) (s : BitVec 5) (σ : State) : Out :=
  let r := σ.cx.ring c.toNat
  let n := count32 (σ.rs s)
  if !ringCountOk r n then σ.trapWith causeIllegal
  else if r.free < n then σ.stallHere
  else σ.retire σ.cx
/-- RADV (R189). -/
def execRadv (c : BitVec 6) (s : BitVec 5) (σ : State) : Out :=
  let r := σ.cx.ring c.toNat
  let n := count32 (σ.rs s)
  if !ringCountOk r n ∨ r.full < n then σ.trapWith causeIllegal
  else σ.retire (σ.cx.setRing c.toNat (r.doAdvance n))
/-- RGET (R189): CLAIM, TAIL, HEAD or the writable fields. -/
def execRget (c : BitVec 6) (d s : BitVec 5) (σ : State) : Out :=
  let r := σ.cx.ring c.toNat
  if !r.configured then σ.trapWith causeIllegal
  else if σ.rs s = 0 then σ.retireS d (zext r.claim)
  else if σ.rs s = 1 then σ.retireS d (zext r.tail)
  else if σ.rs s = 2 then σ.retireS d (zext r.head)
  else if σ.rs s = 3 then σ.retireS d r.entry
  else σ.trapWith causeIllegal

/-! ## FENCE.X (R96, R191) -/

/-- The path set of an engine (R191), by engine number of the core: bit 0 core, 1 copy, 2 matrix, 3 Market, 4 fabric. -/
def enginePaths (e : Nat) : List Nat := if e < 4 then [0, 4] else if e < 8 then [2] else [1, 4]
def meets (m : BitVec 6) (ps : List Nat) : Bool := ps.any fun i => m.getLsbD i

/-- The engine still has a command with a number below the bound: queued, running, or in flight. -/
def State.hasBefore (σ : State) (core e bound : Nat) : Bool :=
  let v := σ.engOf core e
  (v.queue.any fun c => decide (c.id < bound))
    || (match v.run with
        | some r => decide (r.id < bound)
        | none => false)
    || (if e < 4 then false
        else if e < 8 then (σ.fragOf core (e - 4)).passes.any fun p => decide (p.redo.run.id < bound)
        else (σ.copyOf core (e - 8)).steps.any fun s => decide (s.prog < bound))

/-- The release condition of R96: every before-access on a path of X is performed, the stores to other packages among them where it names
the fabric (R101). A unit that is the lot's no longer has none left. -/
def State.fenceFree (σ : State) (core slot : Nat) (f : Fence) : Bool :=
  (f.waits.all fun w => !(σ.enginesOf core slot).contains w.1 || !σ.hasBefore core w.1 w.2)
    && (!f.x.getLsbD 4 || !σ.fabReqs.any fun q => decide (q.core = core) && decide (q.slot = slot) && q.store.isSome
          && decide (q.store = (σ.ctxOf core slot).task))
/-- A fence that finds its condition met is released: where the core path is before it, the lines the lot's stores hold then are marked. -/
def State.releaseFence (σ : State) (core slot id : Nat) : State :=
  let c := σ.ctxOf core slot
  let mark (f : Fence) : Fence :=
    if f.id = id ∧ !f.released ∧ σ.fenceFree core slot f then { f with released := true, lines := if f.x.getLsbD 0 then c.lines else [] } else f
  σ.setCtx core slot { c with fences := c.fences.map mark }
/-- Every fence of a slot is looked at. -/
def State.releaseFences (σ : State) (core slot : Nat) : State :=
  (((σ.ctxOf core slot).fences.filter fun f => !f.released).map Fence.id).foldl (fun σ id => σ.releaseFence core slot id) σ

def State.fenceById (σ : State) (core slot id : Nat) : Option Fence := (σ.ctxOf core slot).fences.find? fun f => decide (f.id = id)

/-- Fences whose tokens every engine has passed need no record, but for the engines that the lot may still be granted (R96). -/
def State.pruneFences (σ : State) (core slot : Nat) : State :=
  let c := σ.ctxOf core slot
  let inUse (id : Nat) : Bool := (σ.enginesOf core slot).any fun e =>
    (σ.engOf core e).queue.any fun k => decide (k.kind = .fence id)
  σ.setCtx core slot { c with fences := c.fences.filter fun f => inUse f.id || meets f.y [1, 2, 4] }

/-- An engine granted to a lot stands behind the fences of the phase that name its path: it waits for those that are not released, and
reads the lines the others have marked (R96). -/
def State.fenceGrant (σ : State) (core slot e : Nat) : State :=
  let fs := (σ.ctxOf core slot).fences.filter fun f => meets f.y (enginePaths e)
  if fs.isEmpty then σ else
  let v := σ.engOf core e
  σ.setEng core e { v with queue := (fs.filter fun f => !f.released).map (fun f => { id := f.id, kind := .fence f.id }) ++ v.queue,
                           view := (fs.filter Fence.released).foldl (fun l f => f.lines.foldl insertNat l) v.view }

/-- Whether the fence of a number is released, or its record is gone because every token of it has passed. -/
def State.fenceOver (σ : State) (core slot id : Nat) : Bool := (σ.fenceById core slot id).all Fence.released
/-- The control core behind a fence: it goes on once the fence is released, and sees what the copy path wrote before it (R87, R96). -/
def State.fenceCore (σ : State) (x y : BitVec 6) (id : Nat) : Out :=
  let σ := σ.releaseFence σ.core σ.ctx id
  if !σ.fenceOver σ.core σ.ctx id then (σ.setCx { σ.cx with fenceWait := some id }).stallHere
  else
    let σ := if x.getLsbD 1 ∧ y.getLsbD 0 then σ.orderCopies σ.core σ.ctx else σ
    σ.retire { σ.cx with fenceWait := none }

/-- FENCE.X (R96, R191): tokens in the queues of the engines on Y; where the control core is on Y it stalls until the release. -/
def execFenceX (x y : BitVec 6) (_s : BitVec 3) (σ : State) : Out :=
  let core := σ.core
  let slot := σ.ctx
  match σ.cx.fenceWait with
  | some id => σ.fenceCore x y id
  | none =>
    let es := σ.enginesOf core slot
    let dest := es.filter fun e => meets y (enginePaths e)
    if dest.any (σ.queueFull core) then σ.stallHere else
    let σ := σ.pruneFences core slot
    let c := σ.cx
    let id := c.cmdNo
    let f : Fence := { id := id, x := x, y := y, waits := (es.filter fun e => meets x (enginePaths e)).map fun e => (e, id), lines := [] }
    let σ := σ.setCx { c with fences := (c.fences.filter fun g => decide (g.id ≠ id)) ++ [f], cmdNo := id + 1 }
    let σ := dest.foldl (fun σ e => σ.place core slot e false (.fence id)) σ
    if meets y [0, 3, 4] then σ.fenceCore x y id
    else
      let σ := σ.releaseFence core slot id
      σ.retire σ.cx

end Sys2Proof.Machine
end

