-- ==== Sys2Proof/Machine/Sync.lean ====
section
/-!
DEFINITION. The rest of 09: phases (R190), signal words and watches (R192, R193), leases and the split plan (R194, R195), queues
and gates (R196, R197), records and granules (R198, R199), and giving way, ending and trapping (R200 to R202).
-/

namespace Sys2Proof.Machine

/-- A write is refused at the home slice only by the owner check (R67): it needs no fill (R71). -/
def State.ownerOk (σ : State) (req pa : Nat) : Bool := decide (pa < physLimit) && ownerMatches req (σ.frameRec (frameOf pa)).owner

/-- PHASE (R190): commit, then the checkpoint with the mask of s[rm]. -/
def execPhase (r : BitVec 5) (σ : State) : Out :=
  let mask := σ.rs r
  if !maskOk mask then σ.trapWith causeIllegal else
  let σ := σ.commitHere
  let σ := σ.setCx σ.cx.advance
  .next (if σ.ctx = Config.fwCtx then σ else σ.checkpoint σ.core σ.ctx mask 1)

/-- WAITC (R192). -/
def execWaitc (s t m : BitVec 5) (c : BitVec 3) (σ : State) : Out :=
  let a := σ.rs s
  let v := σ.rs t
  if σ.inSlot ∨ 4 ≤ c.toNat ∨ !maskOk (σ.rs m) then σ.trapWith causeIllegal
  else if !aligned a 8 then σ.trapWith causeAlign a else
  match σ.translate σ.core σ.ctx a .read .near with
  | .error e => σ.trap e
  | .ok x =>
    match σ.accessCheck (σ.vfOf σ.core σ.ctx) x.pa 8 a with
    | .error e => σ.trap e
    | .ok _ =>
      σ.waitTask (σ.rs m) fun σ k =>
        let σ := σ.fill x.pa
        if watchHolds c.toNat (σ.memNat x.pa 8) v.toNat then .next (σ.enqueueCont k)
        else .next { σ with watches := σ.watches ++ [{ pa := x.pa, cond := c.toNat, value := v, task := some k }] }

/-- SIGNAL's common part (R193): commit, then the word at its home slice; OWNER traps after the commit. -/
def State.signal (σ : State) (s t : BitVec 5) (add : Bool) : Out :=
  let a := σ.rs s
  let v := σ.rs t
  if !aligned a 8 then σ.trapWith causeAlign a else
  match σ.translate σ.core σ.ctx a (if add then .rmw else .write) .near with
  | .error e => σ.trap e
  | .ok x =>
    let vf := σ.vfOf σ.core σ.ctx
    let σ := σ.commitHere
    if add then
      match σ.accessCheck vf x.pa 8 a with
      | .error e => σ.trap e
      | .ok _ =>
        let σ := (σ.fill x.pa).writeNat x.pa 8 ((σ.memNat x.pa 8 + v.toNat) % 2 ^ 64)
        σ.effectDone σ.cx
    else if !σ.ownerOk vf x.pa then σ.trapWith causeOwner a
    else
      let σ := σ.writeNat x.pa 8 v.toNat
      σ.effectDone σ.cx

/-- SIGNAL.SET (R193). -/
def execSignalSet (s t : BitVec 5) (σ : State) : Out := σ.signal s t false
/-- SIGNAL.ADD (R193). -/
def execSignalAdd (s t : BitVec 5) (σ : State) : Out := σ.signal s t true

/-! ## Leases (R194) -/

/-- The shape and class of a req field (R148, R194). -/
def reqShape (q : BitVec 5) : Nat := q.toNat % 8
def reqClass (q : BitVec 5) : Nat := q.toNat / 8

/-- A waiting lease request (R194): it joins the allocator's decisions in the next cycle. -/
def State.leaseWait (σ : State) (d m : BitVec 5) (copy : Bool) (shape cls : Nat) : Out :=
  let core := σ.core
  if σ.inSlot ∨ !maskOk (σ.rs m) ∨ 4 < shape then σ.trapWith causeIllegal else
  σ.waitTask (σ.rs m) fun σ k =>
    let r : LeaseReq := { copy := copy, shape := shape, cls := cls, eff := cls, since := σ.cycle + 1, task := k, rd := d.toNat }
    let σ := σ.setCore core { σ.coreOf core with reqs := (σ.coreOf core).reqs ++ [r] }
    .next (σ.setTask k { σ.taskOf k with core := some core })

/-- LEASE.W (R194). -/
def execLeaseW (d m q : BitVec 5) (σ : State) : Out := σ.leaseWait d m false (reqShape q) (reqClass q)
/-- LEASEC.W (R194). -/
def execLeasecW (d m : BitVec 5) (c : BitVec 2) (σ : State) : Out := σ.leaseWait d m true 0 c.toNat

/-- This cycle's fragment decision with a request of age zero taking part (R54, R194): the handle granted to it, or zero. -/
def State.fragTry (σ : State) (core slot : Nat) (mine : LeaseReq) : List LeaseReq → Nat × State
  | [] => (0, σ)
  | r :: l =>
    if r = mine then
      match σ.grantable core r with
      | some ss =>
        let g := σ.grantFrags core slot ((σ.ctxOf core slot).task) r ss
        let σ := g.2.seedLinks core slot (ss.foldl (fun a i => a + 2 ^ i) 0)
        (g.1, ss.foldl (fun σ i => σ.fenceGrant core slot (i + 4)) σ)
      | none => State.fragTry σ core slot mine l
    else
      match σ.grantable core r, σ.acceptable core r with
      | none, none => State.fragTry σ core slot mine l
      | _, _ => (0, σ.fragDecide core [r])
def State.copyTry (σ : State) (core slot : Nat) (mine : LeaseReq) : List LeaseReq → Nat × State
  | [] => (0, σ)
  | r :: l =>
    match σ.copyGrantable core r with
    | some ns =>
      if r = mine then
        let g := σ.grantCopies core slot ((σ.ctxOf core slot).task) r ns
        (g.1, ns.foldl (fun σ n => σ.fenceGrant core slot (n + 8)) g.2)
      else (0, σ.copyDecide core [r])
    | none => State.copyTry σ core slot mine l

/-- LEASE.T (R194). -/
def execLeaseT (d q : BitVec 5) (σ : State) : Out :=
  let core := σ.core
  let k := σ.coreOf core
  let mine : LeaseReq :=
    { shape := reqShape q, cls := reqClass q, eff := reqClass q, since := σ.cycle, task := (σ.cx.task.getD 0) }
  if 4 < reqShape q ∨ σ.ctx = Config.fwCtx then σ.trapWith causeIllegal
  else if k.fragCycle = σ.cycle + 1 then σ.retireS d 0
  else
    let r := (σ.setCore core { k with fragCycle := σ.cycle + 1 }).fragTry core σ.ctx mine (insertReq mine (σ.reqsNow core false))
    r.2.retireS d (BitVec.ofNat 64 r.1)

/-- LEASEC.T (R194). -/
def execLeasecT (d : BitVec 5) (c : BitVec 2) (σ : State) : Out :=
  let core := σ.core
  let k := σ.coreOf core
  let mine : LeaseReq := { copy := true, cls := c.toNat, eff := c.toNat, since := σ.cycle, task := (σ.cx.task.getD 0) }
  if σ.ctx = Config.fwCtx then σ.trapWith causeIllegal
  else if k.copyCycle = σ.cycle + 1 then σ.retireS d 0
  else
    let r := (σ.setCore core { k with copyCycle := σ.cycle + 1 }).copyTry core σ.ctx mine (insertReq mine (σ.reqsNow core true))
    r.2.retireS d (BitVec.ofNat 64 r.1)

/-- UNLEASE (R194, R55). -/
def execUnlease (s : BitVec 5) (σ : State) : Out :=
  let h := handleOf (σ.rs s)
  if !σ.current σ.core σ.ctx h then σ.trapWith causeLeaseBad
  else
    let σ := h.units.foldl (fun σ' i => if h.copy then σ'.returnCopy σ.core i else σ'.returnFrag σ.core i) σ
    σ.retire σ.cx

/-- SPLIT (R195): the allocator, which makes this cycle's decision and change of plan, acts first; then the plan changes once every fragment
it alters is FREE, and not while FREEZE stands (R380). A SPLIT that stalls, or whose plan stands, leaves the decision to its place in the
cycle. -/
def execSplit (p : BitVec 3) (σ : State) : Out :=
  if 4 < p.toNat then σ.trapWith causeIllegal else
  let τ := (σ.allocate σ.core).planChange σ.core
  let k := τ.coreOf τ.core
  if k.plan = p.toNat then (if (σ.coreOf σ.core).plan = p.toNat then σ.retire σ.cx else τ.retire τ.cx)
  else if !k.pendv ∧ !k.freeze ∧ (changed k.plan p.toNat).all fun i => decide (τ.fragState τ.core i = 0) then
    let τ := τ.setCore τ.core { k with plan := p.toNat }
    τ.retire τ.cx
  else σ.stallHere

/-! ## Queues and gates (R196, R197) -/

def State.queueOf (σ : State) (vf q : Nat) : Queue := Tbl.get σ.queues {} (vf * 64 + q)
def State.setQueue (σ : State) (vf q : Nat) (v : Queue) : State := { σ with queues := Tbl.set σ.queues (vf * 64 + q) v }

/-- The message filter's answer (R356). -/
def State.kickAllowed (σ : State) (vf to' q : Nat) : Bool :=
  decide (vf = to') || ((σ.reg 0 (0x2600 + 8 * (vf - 1))).getLsbD (to' - 1) && (σ.reg 0 (0x2800 + 8 * (to' - 1))).getLsbD q)

/-- KICK (R196). -/
def execKick (s : BitVec 5) (σ : State) : Out :=
  let id := (σ.rs s).toNat
  let vf := id % 256
  let q := bits id 13 8
  if 2 ^ 14 ≤ id ∨ vf = 0 ∨ 0x40 < vf then σ.trapWith causeIllegal (σ.rs s) else
  let own := σ.vfOf σ.core σ.ctx
  let σ := σ.commitHere
  let σ := if σ.kickAllowed own vf q ∧ (σ.queueOf vf q).en then σ.push (.queueKick vf q)
    else (σ.nodeAt σ.core σ.ctx).qnotice σ 5 id
  σ.effectDone σ.cx

/-- The checks of R197 on a gate and a descriptor: ILLEGAL, OUTSIDE, GATE_CLOSED. Bits 30:24 are reserved and not read (R10). -/
def State.gateCheck (σ : State) (g d : Word) (act : Bool) : Chk Unit :=
  let gt := σ.gateOf g.toNat
  if 4095 < g.toNat ∨ bits d.toNat 63 41 ≠ 0 ∨ 256 < descLen d ∨ descOff d % 64 ≠ 0 then failWith causeIllegal
  else if d.getLsbD 31 ∧ (!act ∨ descLen d ≠ 8) then failWith causeIllegal
  else if σ.cx.asize < descOff d + descLen d then failWith causeOutside d
  else if gt.state < 2 ∨ gt.vf ≠ σ.vfOf σ.core σ.ctx then failWith causeGateClosed g
  else .ok ()

/-- MBACT past its checks and its commit: it waits for room, appends the action, and is done; once the episode of its gate has ended, it
is done without the action (R289). -/
def State.sendAction (σ : State) (g : Nat) (d : Word) : Out :=
  let gt := σ.gateOf g
  if gt.state = 3 ∨ σ.cx.gateStall = some (g, true) then σ.effectDone { σ.cx with gateStall := none }
  else if Config.gateDepth ≤ gt.acts.length then (σ.setCx { σ.cx with gateStall := some (g, false) }).stallHere
  else
    let m : Msg :=
      { hdr := msgHeader (Tbl.get σ.polgen 0 (σ.vfOf σ.core σ.ctx)) gt.seqAct 1 0 (d.getLsbD 31) (descLen d),
        data := (List.range (descLen d)).map fun i => σ.aByte σ.core σ.ctx (descOff d + i) }
    let σ := σ.setGate g { gt with acts := gt.acts ++ [m], seqAct := (gt.seqAct + 1) % 256 }
    σ.effectDone { σ.cx with gateStall := none }
/-- MBACT (R197): a release that appends one action; a gate whose episode has ended discards it (R289). -/
def execMbact (s t : BitVec 5) (σ : State) : Out :=
  let g := (σ.rs s).toNat
  let d := σ.rs t
  if σ.cx.gateStall.isSome then σ.sendAction g d else
  match σ.gateCheck (σ.rs s) d true with
  | .error e => σ.trap e
  | .ok _ => σ.commitHere.sendAction g d

/-- MBOBS.W (R197): a waiting instruction served at once where an observation is queued. -/
def execMbobsW (s t m : BitVec 5) (σ : State) : Out :=
  let g := (σ.rs s).toNat
  let d := σ.rs t
  if σ.inSlot ∨ !maskOk (σ.rs m) then σ.trapWith causeIllegal else
  match σ.gateCheck (σ.rs s) d false with
  | .error e => σ.trap e
  | .ok _ =>
    σ.waitTask (σ.rs m) fun σ k =>
      let gt := σ.gateOf g
      match gt.obs with
      | m :: r => .next (((σ.setGate g { gt with obs := r }).deliverMsg g k d m).enqueueCont k)
      | [] => .next (σ.setGate g { gt with waiters := gt.waiters ++ [(k, d)] })

/-- MBOBS.T (R197): the message, its header in rd and an acquire; zero where none is queued. -/
def execMbobsT (d s t : BitVec 5) (σ : State) : Out :=
  let g := (σ.rs s).toNat
  let ds := σ.rs t
  match σ.gateCheck (σ.rs s) ds false with
  | .error e => σ.trap e
  | .ok _ =>
    let gt := σ.gateOf g
    match gt.obs with
    | [] => σ.retireS d 0
    | m :: r =>
      let gt := { gt with obs := r }
      let σ := σ.setGate g (if m.kind ≠ 1 then { gt with state := 1, acts := [], obs := [] } else gt)
      let σ := σ.aWrite σ.core σ.ctx (descOff ds) (m.data.take (descLen ds))
      (if σ.ctx = Config.fwCtx then σ else σ.newPhase σ.core σ.ctx).retireS d m.hdr

/-! ## Records and granules (R198, R199) -/

/-- A record of n bytes through the lot view, with the checks of LD (R198). -/
def State.recordAt (σ : State) (a : Word) (n : Nat) (k : State → Nat → Out) : Out :=
  if !aligned a n then σ.trapWith causeAlign a else
  match σ.loadG σ.core σ.ctx a n with
  | .error e => σ.trap e
  | .ok (.waiting σ') => σ'.interlock
  | .ok (.value v σ') => k σ' v

/-- STRM (R198). -/
def execStrm (q : BitVec 4) (s : BitVec 5) (σ : State) : Out :=
  σ.recordAt (σ.rs s) 16 fun σ v =>
    let c := σ.cx
    if State.streamOk c (BitVec.ofNat 128 v) then σ.retire { c with q := Tbl.set c.q q.toNat (BitVec.ofNat 128 v) }
    else σ.trapWith causeIllegal

/-- TXSET of one part (R198). -/
def execTxset (t : BitVec 4) (s : BitVec 5) (p : BitVec 2) (σ : State) : Out :=
  let c := σ.cx
  let old := (c.txreg t.toNat).toNat
  let sh := 2 ^ (64 * p.toNat)
  let new := old - old / sh % 2 ^ 64 * sh + (σ.rs s).toNat * sh
  σ.retire { c with tx := Tbl.set c.tx t.toNat (BitVec.ofNat 256 new) }

/-- TXSET.M (R198). -/
def execTxsetM (t : BitVec 4) (s : BitVec 5) (σ : State) : Out :=
  σ.recordAt (σ.rs s) 32 fun σ v =>
    let c := σ.cx
    σ.retire { c with tx := Tbl.set c.tx t.toNat (BitVec.ofNat 256 v) }

/-- Fields of a convolution record (R254). -/
def cv_ih (v : Nat) : Nat := bits v 15 0
def cv_iw (v : Nat) : Nat := bits v 31 16
def cv_ic (v : Nat) : Nat := bits v 44 32
def cv_kh (v : Nat) : Nat := bits v 51 48 + 1
def cv_kw (v : Nat) : Nat := bits v 55 52 + 1
def cv_sh (v : Nat) : Nat := bits v 58 56 + 1
def cv_sw (v : Nat) : Nat := bits v 62 60 + 1
def cv_ph (v : Nat) : Nat := bits v 67 64
def cv_pw (v : Nat) : Nat := bits v 71 68
def cv_dh (v : Nat) : Nat := bits v 74 72 + 1
def cv_dw (v : Nat) : Nat := bits v 78 76 + 1

/-- The limits of R139 and the field rules of R254. -/
def cvOk (v : Nat) : Bool :=
  decide (bits v 255 79 = 0) && !v.testBit 75 && !v.testBit 63 && !v.testBit 59 && decide (bits v 47 45 = 0)
    && decide (cv_ih v ≠ 0) && decide (cv_iw v ≠ 0) && decide (1 ≤ cv_ic v) && decide (cv_ic v ≤ 4096)
    && decide (cv_dh v * (cv_kh v - 1) + 1 ≤ cv_ih v + 2 * cv_ph v) && decide (cv_dw v * (cv_kw v - 1) + 1 ≤ cv_iw v + 2 * cv_pw v)

/-- CVSET (R198). -/
def execCvset (v : BitVec 3) (s : BitVec 5) (σ : State) : Out :=
  σ.recordAt (σ.rs s) 32 fun σ w =>
    let c := σ.cx
    if cvOk w then σ.retire { c with cv := Tbl.set c.cv v.toNat (BitVec.ofNat 256 w) } else σ.trapWith causeIllegal

/-- The granules of a DEAD: the field holds the count less one (R148, R199). -/
def State.deadRange (σ : State) (s : BitVec 5) (c : BitVec 9) (limit : Nat) (k : List Nat → Ctx) : Out :=
  let first := (σ.rs s).toNat
  let n := c.toNat + 1
  if limit < first + n then σ.trapWith causeOutside (σ.rs s)
  else σ.retire (k ((List.range n).map (first + ·)))

/-- DEAD.A (R199). -/
def execDeadA (s : BitVec 5) (c : BitVec 9) (σ : State) : Out :=
  σ.deadRange s c (σ.cx.asize / 65536) fun l => { σ.cx with liveA := σ.cx.liveA.filter fun x => !l.contains x }
/-- DEAD.W (R199). -/
def execDeadW (s : BitVec 5) (c : BitVec 9) (σ : State) : Out :=
  σ.deadRange s c (σ.cx.wsize / 32) fun l => { σ.cx with liveW := σ.cx.liveW.filter fun x => !l.contains x }

/-! ## Giving way, ending, trapping (R200 to R202) -/

/-- Firmware gives way until its next event (log 12). -/
def State.fwSleep (σ : State) : Out :=
  let σ := σ.setCore σ.core { σ.coreOf σ.core with fwAwake := false }
  σ.retire σ.cx

/-- YIELD (R200): it waits for the other slots that this cycle's selection found ready. -/
def execYield (σ : State) : Out :=
  if σ.inSlot then σ.trapWith causeIllegal else
  let others := (σ.coreOf σ.core).ready.filter (· ≠ σ.ctx)
  let c := σ.cx
  if σ.ctx = Config.fwCtx then σ.fwSleep
  else if others = [] then σ.retire c
  else σ.retire { c with yieldTo := some (σ.cycle + Config.yieldCycles, others) }

/-- EXIT (R201): commit, release of held commands; the slot stays with the lot until its completion (R52). -/
def execExit (σ : State) : Out :=
  if σ.inSlot then σ.trapWith causeIllegal else
  if σ.ctx = Config.fwCtx then σ.fwSleep else
  let σ := σ.commitHere
  let σ := σ.releaseHeld σ.core σ.ctx
  let c := σ.cx
  .next (σ.setCx { c with exited := true, stall := 0 })

/-- TRAP (R202). -/
def execTrap (c : BitVec 16) (σ : State) : Out := σ.trap { cause := causeTrapCall, tcode := c.toNat }

end Sys2Proof.Machine
end

