-- ==== Sys2Proof/Machine/Fabric.lean ====
section
/-!
DEFINITION. The Avenue fabric (24): the import and export records, reduction windows and their rounds (04 R99, R395 to R397),
arrivals from other packages (R393, R394), MOVED replies and timeouts (R398), link-up (R399).
-/

namespace Sys2Proof.Machine

/-! ## Records -/

def State.exportRec' (σ : State) (i : Nat) : List Word := Tbl.get σ.exports [] i
def expValid (r : List Word) : Bool := (impWord r 0).testBit 0
def expKind (r : List Word) : Nat := bits (impWord r 0) 2 1
def expMoved (r : List Word) : Bool := (impWord r 0).testBit 3
def expVf (r : List Word) : Nat := bits (impWord r 0) 15 8
def expSrc (r : List Word) : Nat := bits (impWord r 0) 31 16

/-- Reserved fields of an import record, and its KIND (R391). -/
def importOk (r : List Word) : Bool :=
  let w0 := impWord r 0
  let w1 := impWord r 1
  decide (bits w0 31 17 = 0) && decide (bits w0 7 3 = 0) && decide (impKind r ≤ 1) && decide (impWord r 3 = 0)
    && (if impKind r = 0 then decide (bits w1 63 28 = 0)
        else decide (bits w1 63 30 = 0) && decide (bits w1 23 22 = 0))
/-- Reserved fields of an export record, and its KIND (R392). -/
def exportOk (r : List Word) : Bool :=
  let w0 := impWord r 0
  let w1 := impWord r 1
  decide (bits w0 63 32 = 0) && decide (bits w0 7 4 = 0) && decide (expKind r ≤ 2)
    && (if expKind r = 1 then decide (bits w1 63 14 = 0) && decide (bits w1 7 5 = 0) && decide (impWord r 2 = 0)
        else decide (w1 % 4096 = 0) && decide (impWord r 2 % 4096 = 0))
    && (if expKind r = 2 then decide (impWord r 3 % 64 = 0) else decide (impWord r 3 = 0))

/-- An access held for a record is sent again under the record as now written (R398): refused where it can go nowhere by it (R393). -/
def FabReq.resend (q : FabReq) (r : List Word) : FabReq :=
  { q with held := false, record := r, answer := if impValid r ∧ impKind r = 0 then q.answer else some 1 }

/-- The write of a record (R390, R391): HELD is the device's. Accesses held for it are sent again, in their order (R398). -/
def State.tblStore (σ : State) (v : Word) : State :=
  let i := v.toNat % 4096
  let d := [σ.reg 0 0x4010, σ.reg 0 0x4018, σ.reg 0 0x4020, σ.reg 0 0x4028]
  if bits v.toNat 15 14 = 0 then
    let d := [(σ.reg 0 0x4010) &&& ~~~(BitVec.ofNat 64 (2 ^ 16)), σ.reg 0 0x4018, σ.reg 0 0x4020, σ.reg 0 0x4028]
    if importOk d then
      { σ with imports := Tbl.set σ.imports i d,
               fabReqs := σ.fabReqs.map fun q => if q.entry = i ∧ q.held then q.resend d else q }
    else σ
  else if bits v.toNat 15 14 = 1 then (if exportOk d then { σ with exports := Tbl.set σ.exports i d } else σ)
  else σ

/-- TBL_READ (R390). -/
def execTblRead (v : Word) (σ : State) : Out :=
  let i := v.toNat % 4096
  let t := bits v.toNat 15 14
  let r := if t = 0 then σ.importRec i else σ.exportRec' i
  let heldBit : Word := if t = 0 ∧ σ.fabReqs.any (fun q => decide (q.entry = i) && q.held) then BitVec.ofNat 64 (2 ^ 16) else 0
  let σ := σ.setReg 0 0x4008 (v &&& 0xFFFF)
  if bits v.toNat 13 12 ≠ 0 ∨ 2 ≤ t then .next σ else
  .next ((((σ.setReg 0 0x4010 (r.getD 0 0 ||| heldBit)).setReg 0 0x4018 (r.getD 1 0)).setReg 0 0x4020 (r.getD 2 0)).setReg 0 0x4028 (r.getD 3 0))

/-- TBL_WRITE (R390, R391, R398): a written import record releases the accesses held for it. -/
def execTblWrite (v : Word) (σ : State) : Out :=
  let σ := σ.setReg 0 0x4008 (v &&& 0xFFFF)
  .next (if bits v.toNat 13 12 = 1 then σ.tblStore v else σ)

/-! ## Reduction windows -/

def State.winOf (σ : State) (k : Nat) : RedWin := Tbl.get σ.redwins {} k
def State.setWin (σ : State) (k : Nat) (w : RedWin) : State := { σ with redwins := Tbl.set σ.redwins k w }
def winKey (group win : Nat) : Nat := group * 64 + win

/-- The window operation an atomic's code matches (R207): FADD, ADD, MIN, MAX, MINU, MAXU, AND, OR. -/
def operOf (op : Nat) : Option Nat :=
  if op = 9 then some 0 else if op = 0 then some 2 else if op = 4 then some 3 else if op = 5 then some 4
  else if op = 6 then some 5 else if op = 7 then some 6 else if op = 1 then some 7 else if op = 2 then some 8 else none

/-- One application of a window's operation (R99): FP adds round RNE at each step. -/
def redOp (oper a b : Nat) : Nat :=
  if oper = 0 then fp32.rne (Num.add 0 (fp32.decode a) (fp32.decode b))
  else if oper = 1 then bf16.rne (Num.add 0 (bf16.decode (a % 2 ^ 16)) (bf16.decode (b % 2 ^ 16)))
  else if oper = 2 then atomicInt 0 32 a b
  else if oper = 3 then atomicInt 4 32 a b
  else if oper = 4 then atomicInt 5 32 a b
  else if oper = 5 then atomicInt 6 32 a b
  else if oper = 6 then atomicInt 7 32 a b
  else if oper = 7 then atomicInt 1 32 a b
  else atomicInt 2 32 a b

/-- The merge in ascending contributor index. -/
def mergeOf (oper : Nat) : Tbl (BitVec 32) → Nat
  | [] => 0
  | p :: l => l.foldl (fun a q => redOp oper a q.2.toNat) p.2.toNat

/-- The port to a crossing group is up (R399). -/
def State.groupUp (σ : State) (group : Nat) : Bool := decide (Tbl.get σ.portUp 0 (Config.groupPort group).val = 1)

/-- The outcome of delivering a merged value: applied, refused, answered MOVED, or held, its entry not resident or its port down. -/
inductive Delivery where
  | done (σ : State)
  | refused
  | moved
  | notResident

def RedWin.esize (w : RedWin) : Nat := if w.oper = 1 then 2 else 4

/-- The home applies the merged value to BASE + o in one operation (R99, R396). -/
def State.deliverMerge (σ : State) (group : Nat) (w : RedWin) (off merged : Nat) : Delivery :=
  let r := σ.exportRec' w.expNo
  if expMoved r then .moved
  else if !expValid r ∨ expKind r ≠ 2 ∨ impWord r 2 ≤ off then .refused
  else if !σ.groupUp group then .notResident
  else
    let va := BitVec.ofNat 64 (impWord r 1 + off)
    match xlate (σ.lotTable (expVf r)) va .rmw .near with
    | .error e => if e.cause = causeNonresident ∨ e.cause = causeCow then .notResident else .refused
    | .ok x =>
      match σ.accessCheck (expVf r) x.pa w.esize va with
      | .error _ => .refused
      | .ok _ => .done ((σ.fill x.pa).writeNat x.pa w.esize (redOp w.oper (σ.memNat x.pa w.esize) merged))

/-- A saturating 32-bit count. -/
def satCount (n : Nat) : Nat := if n < 2 ^ 32 - 1 then n + 1 else 2 ^ 32 - 1

/-- A word the front end writes through a VF's queue table; nothing where it does not translate. -/
def State.feWrite (σ : State) (vf : Nat) (va : Word) (n v : Nat) : State :=
  match σ.feAddr vf va n .write with
  | .ok pa => σ.writeNat pa n v
  | .error _ => σ

/-- A member's status word, by the record the contribution was sent by (R390, R397). -/
def State.memberFail (σ : State) (entry : Nat) (r : List Word) (reason : Nat) : State :=
  let n := satCount (Tbl.get σ.memberCount 0 entry)
  let σ := { σ with memberCount := Tbl.set σ.memberCount entry n }
  if impWord r 2 = 0 then σ else σ.feWrite (impVf r) (r.getD 2 0) 8 (causeFabTimeout + reason * 256 + n * 2 ^ 32)

/-- The oldest unanswered local contribution of a member in a round is answered (R396); one whose lot has gone from its slot has its
status word alone (R397). -/
def State.answer (σ : State) (key off cidx code reason : Nat) : State :=
  match σ.fabReqs.find? fun q => decide (q.round = some (key, off)) && decide (q.cidx = cidx) && decide (q.answer = none) with
  | none => σ
  | some q =>
    let σ := if code = 2 then σ.memberFail q.entry q.record reason else σ
    if q.slot = noSlot then { σ with fabReqs := σ.fabReqs.filter fun x => decide (x.id ≠ q.id) }
    else { σ with fabReqs := σ.fabReqs.map fun x => if x.id = q.id then { x with answer := some code } else x }

/-- The INCOMPLETE close of a round (R397): fault record, notice, the members' status words and answers. -/
def State.failRound (σ : State) (key off : Nat) (got : Tbl (BitVec 32)) (partial' reason : Nat) : State :=
  let w := σ.winOf key
  let n := satCount w.incomplete
  let r := σ.exportRec' w.expNo
  let σ := σ.setWin key { w with incomplete := n }
  let arrived := got.foldl (fun a p => a + 2 ^ p.1) 0
  let frec := 1 + reason * 256 + n * 2 ^ 32 + off * 2 ^ 64 + partial' % 2 ^ 64 * 2 ^ 128 + arrived % 2 ^ 64 * 2 ^ 192
    + σ.time % 2 ^ 64 * 2 ^ 256
  let σ := σ.feWrite (expVf r) (r.getD 3 0) 64 frec
  let σ := σ.notice (expVf r) 27 0xFF 0xFFFF off
  got.foldl (fun σ p => σ.answer key off p.1 2 reason) σ

/-- A round closes with its merge delivered, or INCOMPLETE. -/
def State.closeRound (σ : State) (key off reason : Nat) : State :=
  let w := σ.winOf key
  let r := Tbl.get w.rounds {} off
  let merged := mergeOf w.oper r.got
  let σ := σ.setWin key { w with rounds := Tbl.del w.rounds off }
  if reason ≠ 0 then σ.failRound key off r.got merged reason else
  let hold (moved : List Nat) : State :=
    let h : Nat × BitVec 32 := (r.opened, BitVec.ofNat 32 merged)
    σ.setWin key { σ.winOf key with heldMerge := Tbl.set (σ.winOf key).heldMerge off h, rounds := Tbl.set (σ.winOf key).rounds off r, moved := moved }
  match σ.deliverMerge (key / 64) w off merged with
  | .done σ => r.got.foldl (fun σ p => σ.answer key off p.1 0 0) σ
  | .refused => σ.failRound key off r.got merged 4
  | .moved => hold (off :: w.moved)
  | .notResident => hold w.moved

/-- A contribution opens or joins a round; a full mask merges; a repeat waits for the next round (R396). -/
def State.joinRound (σ : State) (key cidx off : Nat) (v : BitVec 32) : State :=
  let w := σ.winOf key
  match Tbl.find? w.rounds off with
  | some r =>
    if (Tbl.find? r.got cidx).isSome ∨ (Tbl.find? w.heldMerge off).isSome then
      σ.setWin key { w with waiting := w.waiting ++ [(off, cidx, v)] }
    else
      let r' : Round := { r with got := Tbl.set r.got cidx v }
      let σ := σ.setWin key { w with rounds := Tbl.set w.rounds off r' }
      if (List.range 64).all fun i => !w.mask.testBit i || (Tbl.find? r'.got i).isSome then σ.closeRound key off 0 else σ
  | none =>
    let r' : Round := { opened := σ.time, got := [(cidx, v)] }
    let σ := σ.setWin key { w with rounds := Tbl.set w.rounds off r' }
    if w.lost then σ.closeRound key off 2
    else if (List.range 64).all fun i => !w.mask.testBit i || decide (i = cidx) then σ.closeRound key off 0 else σ

/-- Waiting contributions whose offset has no open round any more join the next one, in order. -/
def State.settleWin (σ : State) (key : Nat) : State :=
  let w := σ.winOf key
  let σ := σ.setWin key { w with waiting := [] }
  w.waiting.foldl (fun σ p => σ.joinRound key p.2.1 p.1 p.2.2) σ

/-- A contribution (R396): refused from outside the mask, beyond the home's SIZE, or to a window not set. -/
def State.contribute (σ : State) (key cidx off : Nat) (v : BitVec 32) : State :=
  let w := σ.winOf key
  if !w.live ∨ !w.mask.testBit cidx ∨ impWord (σ.exportRec' w.expNo) 2 ≤ off then σ.answer key off cidx 1 0
  else (σ.joinRound key cidx off v).settleWin key

/-- REDUCTION_CONTRIBUTION (R396): a contribution of another package's member reaches the crossing. -/
def execReductionContribution (group win cidx off : Nat) (v : BitVec 32) (σ : State) : Out :=
  .next (σ.contribute (winKey group win) cidx off v)

/-- TMO of a window in ticks. -/
def RedWin.ticks (w : RedWin) : Nat := (if w.tmo = 0 then 100000 else w.tmo) * 1000

/-- ROUND_TIMEOUT (R396, R398): an open round, or a merge held on MOVED, closes INCOMPLETE once its time is over. -/
def execRoundTimeout (group win off : Nat) (σ : State) : Out :=
  let key := winKey group win
  let w := σ.winOf key
  match Tbl.find? w.heldMerge off with
  | some h =>
    if σ.time < h.1 + w.ticks then .next σ else
    let moved := w.moved.contains off
    let σ := σ.setWin key { w with heldMerge := Tbl.del w.heldMerge off, moved := w.moved.filter (· ≠ off) }
    .next ((σ.closeRound key off (if moved then 3 else 1)).settleWin key)
  | none =>
    match Tbl.find? w.rounds off with
    | some r => .next (if r.opened + w.ticks ≤ σ.time then (σ.closeRound key off 1).settleWin key else σ)
    | none => .next σ

/-- MEMBER_LOST (R396): where a member of the mask is lost, open rounds close INCOMPLETE, and so does every later one at its first
contribution. -/
def execMemberLost (group win cidx : Nat) (σ : State) : Out :=
  let key := winKey group win
  let w := σ.winOf key
  if !w.live ∨ !w.mask.testBit cidx then .next σ else
  let σ := σ.setWin key { w with lost := true, heldMerge := [], moved := [] }
  .next ((w.rounds.foldl (fun σ p => σ.closeRound key p.1 2) σ).settleWin key)

/-! ### RWCMD (R395) -/

def rwWin (v : Word) : Nat := winKey (bits v.toNat 15 0) (bits v.toNat 47 42)
def rwStatus (v : Word) (s : Nat) : Word := (v &&& BitVec.ofNat 64 (2 ^ 60 - 1)) ||| BitVec.ofNat 64 (s * 2 ^ 60)
/-- A bad field: OPER 9 to 15. -/
def rwBad (v : Word) : Bool := decide (9 ≤ bits v.toNat 35 32)

/-- The crossing group's answer to a command: 0 done, 1 in use by another home, 2 no reply; what a window that this package does
not hold answers is a free value (log 5). -/
def State.rwAnswer (σ : State) (v : Word) : Nat :=
  if (σ.winOf (rwWin v)).live then 0 else (Config.freeWord σ.fresh).toNat % 3

/-- RWCMD is busy: a SET waits for open rounds to close, and a write is ignored (R395). -/
def State.rwBusy (σ : State) : Bool := (σ.reg 0 0x4030).getLsbD 63

/-- A SET of RWCMD (R395): a window this home holds is replaced once its rounds have closed. -/
def State.rwSet (σ : State) (v : Word) : Out :=
  let k := rwWin v
  let w := σ.winOf k
  if rwBad v ∨ bits v.toNat 49 48 ≠ 0 then .next (σ.setReg 0 0x4030 (rwStatus v 3))
  else if σ.rwAnswer v ≠ 0 then .next ((σ.tickFresh).setReg 0 0x4030 (rwStatus v (σ.rwAnswer v)))
  else if w.live ∧ w.rounds ≠ [] then .next (σ.setReg 0 0x4030 (v ||| BitVec.ofNat 64 (2 ^ 63)))
  else
    let n : RedWin := { live := true, oper := bits v.toNat 35 32, mask := (σ.reg 0 0x4038).toNat, tmo := (σ.reg 0 0x4040).toNat % 2 ^ 32,
                        expNo := bits v.toNat 27 16, incomplete := w.incomplete }
    .next (((if w.live then σ else σ.tickFresh).setWin k n).setReg 0 0x4030 (rwStatus v 0))

/-- RW_SET (R395). -/
def execRwSet (v : Word) (σ : State) : Out := if σ.rwBusy then .next σ else σ.rwSet v
/-- A SET that waits is tried again. -/
def State.rwRetry (σ : State) : State :=
  if !σ.rwBusy then σ else
  match σ.rwSet (σ.reg 0 0x4030 &&& BitVec.ofNat 64 (2 ^ 63 - 1)) with
  | .next τ => τ
  | _ => σ

/-- RW_CLEAR (R395, R397). -/
def execRwClear (v : Word) (σ : State) : Out :=
  let k := rwWin v
  let w := σ.winOf k
  if σ.rwBusy then .next σ
  else if rwBad v ∨ bits v.toNat 49 48 ≠ 1 then .next (σ.setReg 0 0x4030 (rwStatus v 3))
  else if !w.live then .next ((σ.tickFresh).setReg 0 0x4030 (rwStatus v (σ.rwAnswer v)))
  else
    let σ := σ.setWin k { w with heldMerge := [], moved := [] }
    let σ := w.rounds.foldl (fun σ p => σ.closeRound k p.1 5) σ
    let σ := w.waiting.foldl (fun σ p => σ.answer k p.1 p.2.1 1 0) σ
    .next ((σ.setWin k { incomplete := (σ.winOf k).incomplete }).setReg 0 0x4030 (rwStatus v 0))

/-- A merged write that is held is tried again. -/
def State.retryMerge (σ : State) (key off : Nat) : State :=
  let w := σ.winOf key
  (σ.setWin key { w with heldMerge := Tbl.del w.heldMerge off, moved := w.moved.filter (· ≠ off) }).closeRound key off 0
/-- The merged writes that wait for their entry or their port are tried again, not those that a MOVED answer holds until REPOINT (R398);
then the repeats of the rounds that have closed join the next ones (R396). -/
def State.retryMerges (σ : State) (key : Nat) : State :=
  let w := σ.winOf key
  ((w.heldMerge.filter fun p => !w.moved.contains p.1).foldl (fun σ p => σ.retryMerge key p.1) σ).settleWin key

/-- A window that another package was home of, as this one becomes it (R395). What the crossing holds of it is not in this package, and is
free values (log 5): its operation, mask and timeout, and the merged writes held on MOVED, each with its offset, which are delivered here. -/
def State.adopt (σ : State) (k exp : Nat) : State :=
  let f (i : Nat) : Nat := (Config.freeWord (σ.fresh + i)).toNat
  let w : RedWin := { live := true, oper := f 1 % 9, mask := f 2, tmo := f 3 % 2 ^ 32, expNo := exp }
  let n := f 4
  let size := impWord (σ.exportRec' exp) 2
  (List.range n).foldl (fun (σ : State) i =>
    match σ.deliverMerge (k / 64) w (f (5 + 2 * i) % (size / w.esize) * w.esize) (f (6 + 2 * i) % 256 ^ w.esize) with
    | .done σ => σ
    | _ => σ) (({ σ with fresh := σ.fresh + 5 + 2 * n } : State).setWin k w)

/-- REPOINT (R395, R398): only the home changes, to this package where it was another; merged writes held on MOVED are released to it. -/
def execRwRepoint (v : Word) (σ : State) : Out :=
  let k := rwWin v
  let w := σ.winOf k
  if σ.rwBusy then .next σ
  else if rwBad v ∨ bits v.toNat 49 48 ≠ 2 then .next (σ.setReg 0 0x4030 (rwStatus v 3))
  else if !w.live then
    let a := σ.rwAnswer v
    .next ((if a = 0 then σ.adopt k (bits v.toNat 27 16) else σ.tickFresh).setReg 0 0x4030 (rwStatus v a))
  else
    let σ := σ.setWin k { w with expNo := bits v.toNat 27 16, moved := [] }
    .next ((σ.retryMerges k).setReg 0 0x4030 (rwStatus v 0))

/-! ## A member's contribution from this package -/

/-- What a contribution of a slot or engine through a KIND 1 record comes to: sent and waiting, then the round's answer. A window
this package's driver has not set belongs to another home, whose answer is a free value (log 5). -/
def State.contributeAsk (σ : State) (core slot : Nat) (eng : Option Nat) (entry off : Nat) (va : Word) (v : BitVec 32) :
    Option Nat × State :=
  let r := σ.importRec entry
  match σ.fabReqs.find? fun q => decide (q.core = core) && decide (q.slot = slot) && decide (q.engine = eng) && q.round.isSome with
  | none =>
    let key := winKey (bits (impWord r 1) 15 0) (bits (impWord r 1) 21 16)
    let cidx := bits (impWord r 1) 29 24
    let q : FabReq := { id := σ.fresh, core := core, slot := slot, engine := eng, va := va, deadline := 0, entry := entry,
                        round := some (key, off), cidx := cidx, record := r }
    if !σ.portOk r then (none, σ) else
    let σ := { σ.tickFresh with fabReqs := σ.fabReqs ++ [q] }
    (none, if (σ.winOf key).live then σ.contribute key cidx off v else σ)
  | some q =>
    match q.answer with
    | some a => (some a, { σ with fabReqs := σ.fabReqs.filter fun x => decide (x.id ≠ q.id) })
    | none =>
      if (q.round.any fun k => (σ.winOf k.1).live) ∨ !σ.portOk q.record then (none, σ) else
      let n := (Config.freeWord σ.fresh).toNat % 4
      if n = 3 then (none, σ.tickFresh)
      else
        let σ := if n = 2 then σ.memberFail q.entry q.record (1 + (Config.freeWord (σ.fresh + 1)).toNat % 5) else σ
        (some n, { σ with fresh := σ.fresh + 2, fabReqs := σ.fabReqs.filter fun x => decide (x.id ≠ q.id) })

/-- The operation of the window behind a record, where this package holds it. -/
def State.windowOper (σ : State) (entry : Nat) : Option Nat :=
  let r := σ.importRec entry
  let w := σ.winOf (winKey (bits (impWord r 1) 15 0) (bits (impWord r 1) 21 16))
  if w.live then some w.oper else none

/-! ## Arrivals (R392 to R394) -/

/-- What an arrival asks of its entry. -/
def Arrival.kind (a : Arrival) : Kind := if a.atom.isSome then .rmw else if a.wr then .write else .read
/-- A far ATOM or ACAS of another package at its home slice here (R207). -/
def State.arrivedAtom (σ : State) (a : Arrival) (pa : Nat) : State :=
  let old := σ.memNat pa a.size
  let v := a.v.toNat % 256 ^ a.size
  match a.atom with
  | some (_, some c) => if c.toNat % 256 ^ a.size = old then σ.writeNat pa a.size v else σ
  | some (op, none) => σ.writeNat pa a.size (atomicVal op (8 * a.size) old v)
  | none => σ

/-- An access of another package (R393), served through the export's VF where every check passes; one that is refused or answered MOVED
changes nothing here. None where it is held until its entry is resident. Reads fill; writes are performed. -/
def State.serveRemote (σ : State) (a : Arrival) : Option State :=
  let r := σ.exportRec' a.exp
  if expMoved r ∨ !expValid r ∨ expKind r ≠ 0 ∨ (expSrc r ≠ 0xFFFF ∧ expSrc r ≠ a.src) ∨ impWord r 2 ≤ a.off then some σ else
  let va := BitVec.ofNat 64 (impWord r 1 + a.off)
  match xlate (σ.lotTable (expVf r)) va a.kind .near with
  | .error e => if e.cause = causeNonresident ∨ e.cause = causeCow then none else some σ
  | .ok x =>
    if a.atom.isSome then
      match σ.accessCheck (expVf r) x.pa a.size va with
      | .ok _ => some ((σ.fill x.pa).arrivedAtom a x.pa)
      | .error e => some (if e.cause = causeSealFail then σ.sealNotices (linesOf x.pa a.size) else σ)
    else if a.wr then some (if σ.ownerOk (expVf r) x.pa then σ.writeNat x.pa a.size (a.v.toNat % 256 ^ a.size) else σ)
    else match σ.accessCheck (expVf r) x.pa a.size va with
      | .ok _ => some (σ.fill x.pa)
      | .error e => some (if e.cause = causeSealFail then σ.sealNotices (linesOf x.pa a.size) else σ)

/-- The port to a package is up (R399). -/
def State.packageUp (σ : State) (pkg : Nat) : Bool := decide (Tbl.get σ.portUp 0 (Config.packagePort pkg).val = 1)
/-- An arrival (R393): served, or held for its page behind what its package has sent before. A port that is down brings none (R399). -/
def State.arrive (σ : State) (a : Arrival) : Out :=
  if !σ.packageUp a.src then .next σ else
  if σ.arrivals.any fun b => decide (b.src = a.src) && decide (b.exp = a.exp) then .next { σ with arrivals := σ.arrivals ++ [a] } else
  match σ.serveRemote a with
  | some τ => .next τ
  | none =>
    let r := σ.exportRec' a.exp
    let va := BitVec.ofNat 64 (impWord r 1 + a.off)
    let cow : Bool := match xlate (σ.lotTable (expVf r)) va a.kind .near with
      | .error e => decide (e.cause = causeCow)
      | .ok _ => false
    .next ({ σ with arrivals := σ.arrivals ++ [a] } |>.pageWant (expVf r) 0 va cow)

/-- REMOTE_ACCESS (R393): a load or a store of another package. -/
def execRemoteAccess (src exp off : Nat) (wr : Bool) (size : Nat) (v : Word) (σ : State) : Out :=
  σ.arrive { src := src, exp := exp, off := off, wr := wr, size := size, v := v }
/-- REMOTE_ACCESS (R207, R393): a far ATOM of another package, or an ACAS with the value it compares. -/
def execRemoteAtom (src exp off op size : Nat) (v : Word) (cmp : Option Word) (σ : State) : Out :=
  σ.arrive { src := src, exp := exp, off := off, wr := true, size := size, v := v, atom := some (op, cmp) }

/-- Held arrivals are tried again, in order for each sender and export. -/
def State.arrivalRetry (σ : State) : State :=
  (σ.arrivals.foldl (fun (x : State × List Arrival) a =>
    if x.2.any fun b => decide (b.src = a.src) && decide (b.exp = a.exp) then (x.1, x.2 ++ [a]) else
    match x.1.serveRemote a with
    | some τ => (τ, x.2)
    | none => (x.1, x.2 ++ [a])) (σ, [])) |> fun x => { x.1 with arrivals := x.2 }

/-- The slot a CRW message goes to (R394): the lowest slot of the core whose lot is the export VF's and whose ring is configured. -/
def State.crwSlot (σ : State) (r : List Word) : Option Nat :=
  let core := bits (impWord r 1) 4 0
  [0, 1, 2, 3].find? fun k => decide (σ.vfOf core k = expVf r) && ((σ.ctxOf core k).ring (bits (impWord r 1) 13 8)).configured

/-- A message is placed in a ring where one slot is free: claimed, written and filled (R273); none where it waits, false where the
slot is too small (refused). -/
def State.crwPlace (σ : State) (exp : Nat) (msg : List Byte) : Option (Bool × State) :=
  let r := σ.exportRec' exp
  let core := bits (impWord r 1) 4 0
  let ring := bits (impWord r 1) 13 8
  match σ.crwSlot r with
  | none => none
  | some k =>
    let c := σ.ctxOf core k
    let g := c.ring ring
    if 64 * g.ssz < msg.length then some (false, σ)
    else if g.free = 0 then none
    else
      let i := g.claim.toNat
      let σ := σ.aWrite core k (g.slotAt i) msg
      let c := σ.ctxOf core k
      some (true, σ.setCtx core k (c.setRing ring ((g.doClaim 1).fillDone i)))

/-- When the window's timeout of a message that another package has sent is over: the sender's record, which is not here, gives it, so it
is a free value (log 5). -/
def State.crwDeadline (σ : State) : Nat :=
  let n := (Config.freeWord σ.fresh).toNat % 2 ^ 32
  σ.time + (if n = 0 then 100000 else n) * 1000

/-- CRW_ARRIVAL (R394): placed, refused, answered MOVED, or waiting in the crossing behind earlier messages of its endpoint. -/
def execCrwArrival (src exp : Nat) (msg : List Byte) (σ : State) : Out :=
  let r := σ.exportRec' exp
  let wait : State := { σ.tickFresh with crwWaiting := σ.crwWaiting ++ [(exp, msg, σ.crwDeadline)] }
  if !σ.packageUp src ∨ expMoved r ∨ !expValid r ∨ expKind r ≠ 1 ∨ (expSrc r ≠ 0xFFFF ∧ expSrc r ≠ src) then .next σ
  else if σ.crwWaiting.any fun p => decide (p.1 = exp) then .next wait
  else
    match σ.crwPlace exp msg with
    | some p => .next p.2
    | none => .next wait

/-- A message that waits is given up: its time is over and nothing is written (R273), or its export is answered MOVED or is gone. -/
def State.crwOver (σ : State) (p : Nat × List Byte × Nat) : Bool :=
  let r := σ.exportRec' p.1
  decide (p.2.2 ≤ σ.time) || expMoved r || !expValid r || decide (expKind r ≠ 1)

/-- Messages waiting in the crossing are tried again in order (R273, R394). -/
def State.crwRetry (σ : State) : State :=
  (σ.crwWaiting.foldl (fun (x : State × List (Nat × List Byte × Nat)) p =>
    if x.1.crwOver p then x
    else if x.2.any fun q => decide (q.1 = p.1) then (x.1, x.2 ++ [p])
    else match x.1.crwPlace p.1 p.2.1 with
      | some r => (r.2, x.2)
      | none => (x.1, x.2 ++ [p])) (σ, [])) |> fun x => { x.1 with crwWaiting := x.2 }

/-! ## Timeouts, MOVED, links -/

/-- A committed store's access is over (R101, R393): what it failed with is posted to the lot that has stored, while that is on its slot
(log 105). -/
def State.storeDone (σ : State) (q : FabReq) (cause : Option Nat) : State :=
  let σ := { σ with fabReqs := σ.fabReqs.filter fun x => decide (x.id ≠ q.id) }
  let c := σ.ctxOf q.core q.slot
  match cause with
  | none => σ
  | some k =>
    if c.task ≠ q.store then σ
    else σ.addPosted q.core q.slot { cause := k, src := q.slot, pc := c.pc, time := σ.time, fatal := isFatal k, detail := q.va }
/-- A look at the stores in flight and at contributions whose lots have gone: what other packages answer, and when, is a free value
(log 5). -/
def State.fabricLate (σ : State) : State :=
  (σ.fabReqs.filter fun q => (q.store.isSome && !q.held) || (decide (q.slot = noSlot) && q.round.any fun k => !(σ.winOf k.1).live)).foldl
    (fun (σ : State) q =>
      let n := (Config.freeWord σ.fresh).toNat % 4
      let gone : State := { σ.tickFresh with fabReqs := σ.fabReqs.filter fun x => decide (x.id ≠ q.id) }
      if q.answer = some 1 then σ.storeDone q (some causeOutside)
      else if !σ.portOk q.record then σ
      else if q.store.isNone then
        (if n = 3 then σ.tickFresh else if n = 2 then gone.tickFresh.memberFail q.entry q.record (1 + (Config.freeWord (σ.fresh + 1)).toNat % 5)
         else gone)
      else if n = 1 then σ.tickFresh.storeDone q (some causeOutside)
      else if n = 2 then σ.tickFresh
      else σ.tickFresh.storeDone q none) σ

/-- FABRIC_TIMEOUT (R393, R398): no reply within TMO; the control core traps, an engine finds FAB_TIMEOUT at its step, and a committed
store's is posted. -/
def execFabricTimeout (id : Nat) (σ : State) : Out :=
  match σ.fabReqs.find? fun q => decide (q.id = id) with
  | none => .next σ
  | some q =>
    if q.round.isSome ∨ σ.time < q.deadline then .next σ
    else if q.store.isSome then .next (σ.storeDone q (some causeFabTimeout))
    else match q.engine with
      | none =>
        let σ := { σ with fabReqs := σ.fabReqs.filter fun (x : FabReq) => decide (x.id ≠ id) }
        .next (σ.takeTrap q.core q.slot { cause := causeFabTimeout, detail := q.va })
      | some _ =>
        .next { σ with fabReqs := σ.fabReqs.map fun (x : FabReq) => if x.id = id then { x with answer := some 3, held := false } else x }

/-- MOVED_REPLY (R398): the port holds the access and posts FAB_MOVED. -/
def execMovedReply (id : Nat) (σ : State) : Out :=
  match σ.fabReqs.find? fun q => decide (q.id = id) with
  | none => .next σ
  | some q =>
    let σ := { σ with fabReqs := σ.fabReqs.map fun (x : FabReq) => if x.id = id then { x with held := true } else x }
    .next (σ.hyperNotice 28 (impVf (σ.importRec q.entry)) q.entry)

/-- LINK_UP (R399): the port carries traffic where a common major exists; the device's is fabric protocol 1.0 (R357). The
partner's versions stand one per byte, a major in bits 7:4. -/
def execLinkUp (port : Nat) (versions : Word) (σ : State) : Out :=
  if 18 ≤ port then .fault .noSuchUnit else
  let common := (List.range 8).any fun i => decide (bits versions.toNat (8 * i + 7) (8 * i + 4) = 1)
  .next { σ with portUp := Tbl.set σ.portUp port (if common then 1 else 0) }

end Sys2Proof.Machine
end

