-- ==== Sys2Proof/Machine/Atomics.lean ====
section
/-!
DEFINITION. ATOM and ACAS (10 R204 to R208, 04 R97 to R99) and the Market (R209 to R216).
-/

namespace Sys2Proof.Machine

/-! ## Near operations on the lot view (R97) -/

/-- Whether the lot already holds plain stores or another combine on the word. -/
def Ctx.plainAt (c : Ctx) (pa n : Nat) : Bool :=
  (List.range n).any fun i => (Tbl.find? c.held (pa + i)).isSome || (c.combAt (pa + i)).isSome

/-- A near atomic of n bytes: the lot view before it, and the commit buffer after it, none at line 8193 (R86). `cmp` is ACAS's
compare value; codes are those of R205, 8 for SWAP and ACAS. -/
def State.nearOp (σ : State) (c : Ctx) (pa : Nat) (va : Word) (n op v : Nat) (cmp : Option Nat) : Nat × Option Ctx :=
  let r := σ.lotRead c pa n
  let old := r.1
  if cmp.isSome ∧ cmp ≠ some old then (old, some r.2) else
  match r.2.addLine pa va with
  | none => (old, none)
  | some c =>
    let plain := c.holdBytes (bytesAt pa n (if cmp.isSome then v else atomicVal op (8 * n) old v))
    match Tbl.find? c.combs pa with
    | some k =>
      if k.op = op ∧ k.width = n ∧ cmp = none then
        let k' : Comb := { k with operand := BitVec.ofNat 64 (atomicVal op (8 * n) k.operand.toNat v) }
        (old, some { c with combs := Tbl.set c.combs pa k' })
      else (old, some plain)
    | none =>
      if op = 8 ∨ cmp.isSome ∨ c.plainAt pa n then (old, some plain)
      else
        let other := (List.range n).foldr (fun i a => ((Tbl.find? c.vseen (pa + i)).getD (σ.memByte (pa + i))).toNat + 256 * a) 0
        let k : Comb := { op := op, width := n, operand := BitVec.ofNat 64 v, base := BitVec.ofNat 64 old, vbase := BitVec.ofNat 64 other }
        (old, some { c with combs := Tbl.set c.combs pa k })

/-- Bytes of a frame another owner holds deliver no data (R67); what a near operation then returns is a free value (log 5), and
OWNER is taken at the commit (R208). -/
def State.foreignBytes (σ : State) (req : Nat) (c : Ctx) (pa n : Nat) : State × Ctx :=
  if σ.ownerOk req pa then (σ, c) else
  ({ σ with fresh := σ.fresh + n }, (List.range n).foldl (fun c i => c.noteRead (pa + i) (Config.freeByte (σ.fresh + i))) c)

/-- SEAL_FAIL where a fill is needed and the line does not verify (R70). -/
def State.sealOk (σ : State) (pa : Nat) : Bool := σ.sectorHeld pa || !(σ.tile (tileOf pa)).bad

/-- A near ATOM or ACAS of a user slot (R206): the lot view, then with an ordering the commit. -/
def State.nearAtom (σ : State) (d : BitVec 5) (a : Word) (n op v ord : Nat) (cmp : Option Nat) : Out :=
  match σ.translate σ.core σ.ctx a .rmw .near with
  | .error e => σ.trap e
  | .ok x =>
    let vf := σ.vfOf σ.core σ.ctx
    if σ.ctx = Config.fwCtx then
      match σ.accessCheck vf x.pa n a with
      | .error e => σ.trap e
      | .ok _ =>
        let old := σ.memNat x.pa n
        let σ := if cmp.isSome ∧ cmp ≠ some old then σ
          else σ.writeNat x.pa n (if cmp.isSome then v else atomicVal op (8 * n) old v)
        σ.retireS d (BitVec.ofNat 64 old)
    else if σ.ownerOk vf x.pa ∧ !σ.sealOk x.pa ∧ !σ.cx.hasAll x.pa n then
      σ.trapWith causeSealFail a
    else
      let p := σ.foreignBytes vf σ.cx x.pa n
      let σ := if σ.ownerOk vf x.pa && !σ.cx.hasAll x.pa n then p.1.fill x.pa else p.1
      match σ.nearOp p.2 x.pa a n op v cmp with
      | (_, none) => σ.trapWith causeCommitFull a
      | (old, some c) =>
        let σ := σ.setCx (c.setS d.toNat (BitVec.ofNat 64 old))
        let σ := if ord = 0 then σ else σ.commitHere
        σ.retire σ.cx

/-! ## Far operations (R98, R206, R207) -/

/-- A far atomic's contribution to a reduction window, whose answer holds the word as an interlock (R207). -/
def State.farReduce (σ : State) (d : BitVec 5) (a : Word) (x : Xl) (v : Nat) : Out :=
  match σ.contributeAsk σ.core σ.ctx none x.frame x.off a (BitVec.ofNat 32 v) with
  | (none, σ) => σ.interlock
  | (some 1, σ) => σ.trapWith causeOutside a
  | (some _, σ) => σ.effectDone (σ.cx.setS d.toNat 0)
/-- A far atomic at a slice of another package; the value it returns is free (log 5). -/
def State.farRemote (σ : State) (d : BitVec 5) (a : Word) (x : Xl) (n : Nat) : Out :=
  match σ.fabricAsk σ.core σ.ctx none x.frame a with
  | .refused σ => σ.trapWith causeOutside a
  | .timeout σ => σ.trapWith causeFabTimeout a
  | .wait σ => σ.interlock
  | .reply σ => σ.tickFresh.effectDone (σ.cx.setS d.toNat (BitVec.ofNat 64 ((Config.freeWord σ.fresh).toNat % 256 ^ n)))

/-- A far ATOM or ACAS: commit, then the word's home slice, a remote slice, or the crossing. OWNER and SEAL_FAIL are found after
the commit. One already sent completes under the record it was sent by (R390). -/
def State.farAtom (σ : State) (d : BitVec 5) (a : Word) (n op v : Nat) (cmp : Option Nat) : Out :=
  match σ.translate σ.core σ.ctx a .rmw .plain with
  | .error e => σ.trap e
  | .ok x =>
    if x.remote then
      let rec' := σ.importRec x.frame
      match σ.sentBy σ.core σ.ctx none with
      | some q => if q.round.isSome then σ.farReduce d a x v else σ.farRemote d a x n
      | none =>
        if !impValid rec' then σ.trapWith causeOutside a
        else if impKind rec' = 1 then
          match (if cmp.isSome ∨ n = 8 then none else operOf op) with
          | none => σ.trapWith causeOutside a
          | some oper =>
            if (σ.windowOper x.frame).isSome ∧ σ.windowOper x.frame ≠ some oper then σ.trapWith causeOutside a
            else σ.commitHere.farReduce d a x v
        else σ.commitHere.farRemote d a x n
    else
      let vf := σ.vfOf σ.core σ.ctx
      let σ := σ.commitHere
      match σ.accessCheck vf x.pa n a with
      | .error e => σ.trap e
      | .ok _ =>
        let σ := σ.fill x.pa
        let old := σ.memNat x.pa n
        let σ := if cmp.isSome ∧ cmp ≠ some old then σ
          else σ.writeNat x.pa n (if cmp.isSome then v else atomicVal op (8 * n) old v)
        σ.effectDone (σ.cx.setS d.toNat (BitVec.ofNat 64 old))

/-- ATOM (R204 to R208). -/
def execAtom (d b t : BitVec 5) (o : BitVec 4) (w f : BitVec 1) (r : BitVec 2) (s : BitVec 3) (σ : State) : Out :=
  let n := 4 * (w.toNat + 1)
  let a := σ.rs b
  let v := lowBytes (σ.rs t) n
  if 9 < o.toNat ∨ 5 < s.toNat ∨ (o.toNat = 9 ∧ w = 1) then σ.trapWith causeIllegal
  else if !aligned a n then σ.trapWith causeAlign a
  else if f = 1 then σ.farAtom d a n o.toNat v none
  else σ.nearAtom d a n o.toNat v r.toNat none

/-- ACAS (R204 to R208). -/
def execAcas (d b t : BitVec 5) (w f : BitVec 1) (r : BitVec 2) (s : BitVec 3) (σ : State) : Out :=
  let n := 4 * (w.toNat + 1)
  let a := σ.rs b
  let v := lowBytes (σ.rs t) n
  let c := lowBytes (σ.rs d) n
  if 5 < s.toNat then σ.trapWith causeIllegal
  else if !aligned a n then σ.trapWith causeAlign a
  else if f = 1 then σ.farAtom d a n 8 v (some c)
  else σ.nearAtom d a n 8 v r.toNat (some c)

/-! ## The Market (R209 to R216) -/

/-- `mk_slice` of R210. -/
def mkSlice (frame : Nat) (key : Word) : Nat :=
  let h := key.toNat ^^^ frame
  (List.range 11).foldl (fun s j => s ^^^ (h / 2 ^ (6 * j) % 64)) 0

def State.sliceOf (σ : State) (n : Nat) : MkSlice := Tbl.get σ.market {} n
def State.setSlice (σ : State) (n : Nat) (m : MkSlice) : State := { σ with market := Tbl.set σ.market n m }

/-- A pattern matches a tuple (R212). -/
def mkMatch (frame : Nat) (mask : BitVec 8) (vals : List Word) (t : Tuple) : Bool :=
  decide (t.frame = frame) && (List.range 8).all fun i => !mask.getLsbD i || decide (vals.getD i 0 = t.fields.getD i 0)

/-- Tuples the spill area of a region holds: its granule at 128 bytes a tuple (R214). -/
def State.spillCap (σ : State) (vf : Nat) : Nat := 2 ^ granLog (σ.lotTable vf) / 128

/-- Where a tuple not taken is kept: 0 the index, 1 the spill area, none where both are full (R214). -/
def State.mkPlace (σ : State) (n frame vf : Nat) : Option Nat :=
  let m := σ.sliceOf n
  if (m.tuples.filter fun t => decide (t.place = 0)).length < 65536 then some 0
  else if σ.hostMode vf 5 then none
  else
    let used := σ.market.foldl (fun a (p : Nat × MkSlice) =>
      a + (p.2.tuples.filter fun t => decide (t.place = 1) && decide (t.frame = frame)).length) 0
    if used < σ.spillCap vf then some 1 else none

/-- A served parked request: the tuple goes to s8-s15 of its continuation, which is enqueued (R213). -/
def State.deliverTuple (σ : State) (r : Parked) (t : List Word) : State :=
  let tk := σ.taskOf r.task
  let put (a : Area) : Area :=
    { a with deliver := (t.zipIdx).foldl (fun d p => Tbl.set d (8 + p.2) p.1) a.deliver,
             took := if r.take then some (r.frame, t) else none }
  (σ.setTask r.task { tk with cont := tk.cont.map put }).push (.continuationEnqueue r.task)

/-- `deposit` of R212: every matching parked reader is served, then the oldest matching taker, else the tuple is stored at the
place given. Where in the spill area a spilled tuple lies is a free value (log 86). -/
def State.mkDeposit (σ : State) (n frame : Nat) (fields : List Word) (place : Nat) : State :=
  let m := σ.sliceOf n
  let t : Tuple := { frame := frame, fields := fields, seq := m.seq, place := place }
  let hit (p : Parked) : Bool := decide (p.frame = frame) && mkMatch frame p.mask p.fields t
  let readers := m.parked.filter fun p => !p.take && hit p
  let σ := readers.foldl (fun σ p => σ.deliverTuple p fields) σ
  let parked := m.parked.filter fun p => p.take || !hit p
  match parked.find? fun p => p.take && hit p with
  | some k => (σ.deliverTuple k fields).setSlice n { m with parked := parked.erase k }
  | none =>
    let t : Tuple := if place = 1 then { t with spill := (Config.freeWord σ.fresh).toNat } else t
    (if place = 1 then σ.tickFresh else σ).setSlice n { m with parked := parked, tuples := m.tuples ++ [t], seq := m.seq + 1 }

/-- Tuples in the parked-request entries of a slice move, oldest first, to the index or the spill area where either has room (R215). -/
def State.mkCompact (σ : State) (n : Nat) : State :=
  ((σ.sliceOf n).tuples.filter fun t => decide (t.place = 2)).foldl (fun σ t =>
    match σ.mkPlace n t.frame (σ.frameRec t.frame).owner with
    | none => σ
    | some p =>
      let m := σ.sliceOf n
      let u : Tuple := { t with place := p, spill := if p = 1 then (Config.freeWord σ.fresh).toNat else 0 }
      (if p = 1 then σ.tickFresh else σ).setSlice n { m with tuples := m.tuples.map fun x => if x = t then u else x }) σ

/-- The oldest stored tuple a pattern matches. -/
def MkSlice.find (m : MkSlice) (frame : Nat) (mask : BitVec 8) (vals : List Word) : Option Tuple :=
  m.tuples.find? fun t => mkMatch frame mask vals t

/-- Registers of a group (R211). -/
def State.group (σ : State) (g : BitVec 2) : List Word := (List.range 8).map fun i => σ.cx.sreg (8 * g.toNat + i)

/-- A returned tuple (R215): deposited again, in the first place that has room. -/
def State.mkReturn (σ : State) (frame vf : Nat) (fields : List Word) : State :=
  let n := mkSlice frame (fields.getD 0 0)
  σ.mkDeposit n frame fields ((σ.mkPlace n frame vf).getD 2)

/-- MARKET_WITHDRAW (R215): a parked request of a task that ends is withdrawn; a tuple already taken for it goes back. -/
def State.mkWithdraw (σ : State) (t : Nat) : State :=
  let vf := (σ.nodeOf (σ.taskOf t).node).vf
  let back := (σ.taskOf t).cont.bind Area.took
  let σ := { σ with market := σ.market.map fun (p : Nat × MkSlice) =>
    (p.1, { p.2 with parked := p.2.parked.filter fun r => decide (r.task ≠ t) }) }
  match back with
  | some (frame, fields) => σ.mkReturn frame vf fields
  | none => σ

/-- The front of every Market instruction (R213): field checks, translation, then the commit; OWNER at the slice. -/
def State.mkBegin (σ : State) (b : BitVec 5) (kind : Kind) (k : State → Xl → Out) : Out :=
  let a := σ.rs b
  if σ.ctx = Config.fwCtx then σ.trapWith causeOutside a else
  match σ.translate σ.core σ.ctx a kind .market with
  | .error e => σ.trap e
  | .ok x => k σ x

/-- The slice's owner check (R67, R213) on the region. -/
def State.mkOwner (σ : State) (x : Xl) : Bool := σ.ownerOk (σ.vfOf σ.core σ.ctx) (x.frame * 2 ^ 21)
/-- A match that reads the spill area is refused where the spilled tuple's tile does not verify (R209, R216). -/
def State.mkSeal (σ : State) (t : Tuple) : Bool :=
  decide (t.place ≠ 1)
    || !(σ.tile (tileOf (t.frame * 2 ^ 21 + t.spill % σ.spillCap (σ.vfOf σ.core σ.ctx) * 128))).bad

/-- MKDEP (R213, R214). -/
def execMkdep (g : BitVec 2) (b : BitVec 5) (σ : State) : Out :=
  if g = 0 then σ.trapWith causeIllegal else
  σ.mkBegin b .rmw fun σ x =>
    let σ := σ.commitHere
    let vf := σ.vfOf σ.core σ.ctx
    let fields := σ.group g
    let n := mkSlice x.frame (fields.getD 0 0)
    if !σ.mkOwner x then σ.trapWith causeOwner (σ.rs b) else
    let m := σ.sliceOf n
    let t : Tuple := { frame := x.frame, fields := fields, seq := 0 }
    let taken := m.parked.any fun p => p.take && decide (p.frame = x.frame) && mkMatch x.frame p.mask p.fields t
    match (if taken then some 0 else σ.mkPlace n x.frame vf) with
    | none => σ.trapWith causeMkFull (σ.rs b)
    | some pl =>
      let σ := σ.mkDeposit n x.frame fields pl
      σ.effectDone σ.cx

/-- MKRD.T and MKTAKE.T (R213). -/
def State.mkTry (σ : State) (g : BitVec 2) (b : BitVec 5) (m : BitVec 8) (f : BitVec 3) (take : Bool) : Out :=
  if g = 0 ∨ !m.getLsbD 0 then σ.trapWith causeIllegal else
  σ.mkBegin b (if take then .rmw else .read) fun σ x =>
    let σ := σ.commitHere
    if !σ.mkOwner x then σ.trapWith causeOwner (σ.rs b) else
    let vals := σ.group g
    let n := mkSlice x.frame (vals.getD 0 0)
    let sl := σ.sliceOf n
    match sl.find x.frame m vals with
    | none => σ.effectDone (σ.cx.setF f.toNat false)
    | some t =>
      if !σ.mkSeal t then σ.trapWith causeSealFail (σ.rs b) else
      let σ := if take then σ.setSlice n { sl with tuples := sl.tuples.erase t } else σ
      let c := (t.fields.zipIdx).foldl (fun c p => c.setS (8 * g.toNat + p.2) p.1) σ.cx
      σ.effectDone (c.setF f.toNat true)

/-- MKRD.T (R213). -/
def execMkrdT (g : BitVec 2) (b : BitVec 5) (m : BitVec 8) (f : BitVec 3) (σ : State) : Out := σ.mkTry g b m f false
/-- MKTAKE.T (R213). -/
def execMktakeT (g : BitVec 2) (b : BitVec 5) (m : BitVec 8) (f : BitVec 3) (σ : State) : Out := σ.mkTry g b m f true

/-- MKRD.W and MKTAKE.W (R213, R214): served at once, or parked; OWNER and a full table trap after R39 steps 1 to 3. -/
def State.mkWait (σ : State) (b : BitVec 5) (m : BitVec 8) (r : BitVec 5) (take : Bool) : Out :=
  if σ.inSlot ∨ !m.getLsbD 0 ∨ !maskOk (σ.rs r) then σ.trapWith causeIllegal else
  σ.mkBegin b (if take then .rmw else .read) fun σ x =>
    let vals := σ.group 1
    let n := mkSlice x.frame (vals.getD 0 0)
    let a := σ.rs b
    let fail (cause : Nat) : Out :=
      let σ := σ.releaseHeld σ.core σ.ctx
      if !σ.lotQuiet σ.core σ.ctx ∨ !σ.areaReady σ.core σ.ctx then σ.stallHere
      else ((σ.commitHere).returnLeases σ.core σ.ctx).trapWith cause a
    let sl := σ.sliceOf n
    match sl.find x.frame m vals with
    | some t =>
      if !σ.mkOwner x then fail causeOwner
      else if !σ.mkSeal t then fail causeSealFail
      else
        σ.waitTask (σ.rs r) fun σ k =>
          let sl := σ.sliceOf n
          let σ := if take then σ.setSlice n { sl with tuples := sl.tuples.erase t } else σ
          let p : Parked := { frame := x.frame, mask := m, fields := vals, take := take, seq := 0, task := k }
          let tk := (σ.deliverTuple p t.fields).taskOf k
          .next ((σ.setTask k tk).enqueueCont k)
    | none =>
      if !σ.mkOwner x then fail causeOwner
      else if 1024 ≤ (sl.parked.length + (sl.tuples.filter fun t => decide (t.place = 2)).length) then fail causeMkFull
      else
        σ.waitTask (σ.rs r) fun σ k =>
          let sl := σ.sliceOf n
          let p : Parked := { frame := x.frame, mask := m, fields := vals, take := take, seq := sl.seq, task := k }
          .next (σ.setSlice n { sl with parked := sl.parked ++ [p], seq := sl.seq + 1 })

/-- MKRD.W (R213). -/
def execMkrdW (b : BitVec 5) (m : BitVec 8) (r : BitVec 5) (σ : State) : Out := σ.mkWait b m r false
/-- MKTAKE.W (R213). -/
def execMktakeW (b : BitVec 5) (m : BitVec 8) (r : BitVec 5) (σ : State) : Out := σ.mkWait b m r true

/-- MK_FULL_RETRY (R214): firmware runs the word again after the delay. -/
def execMkFullRetry (core slot : Nat) (σ : State) : Out :=
  let c := σ.ctxOf core slot
  .next (match c.retryAt with
    | some t => if t ≤ σ.time ∧ c.stopped = some causeMkFull then σ.returnTrap core slot 0 else σ
    | none => σ)

end Sys2Proof.Machine
end

