-- ==== Sys2Proof/WellFormed.lean ====
section
/-!
DEFINITION. The well-formed instructions: the limits that 07 (R142 steps 3 to 5, R144, R147 to R156) sets on the fields of a
word beyond the bits that are fixed. A word outside them is no instruction, and its decoder refuses it. A step without a word is
well formed when its arguments name units the package has.
-/

namespace Sys2Proof

/-- The five instruction sets, and the steps without a word. -/
inductive Cls where
  | ctl | vec | mat | copy | rink | event
  deriving DecidableEq, Repr

/-- The level rule of R152 and R154: level 0 to 5 with F or L set, level 0 with both clear. -/
def levelOk (f l : BitVec 1) (v : BitVec 3) : Bool :=
  if f = 0 ∧ l = 0 then decide (v = 0) else decide (v.toNat ≤ 5)

/-- R149: PA or PB only with a channel operand. -/
def popOk (operand : BitVec 7) (pop : BitVec 1) : Bool := decide (pop = 0) || operand.getLsbD 6

/-- R154: the tag is zero in an untagged word. -/
def tagOk (t : BitVec 1) (x : BitVec 6) : Bool := decide (t = 1) || decide (x = 0)

/-- The instruction set an instruction belongs to. -/
def Instr.cls : Instr → Cls
  | .add .. | .sub .. | .and .. | .or .. | .xor .. | .andn .. | .sll .. | .srl .. | .sra .. | .ror .. | .mul ..
  | .mulh .. | .mulhu .. | .div .. | .divu .. | .rem .. | .remu .. | .min .. | .max .. | .minu .. | .maxu ..
  | .adds .. | .subs .. | .clz .. | .ctz .. | .popc .. | .sext8 .. | .sext16 .. | .sext32 .. | .zext32 .. | .movf ..
  | .movb .. | .addi .. | .andi .. | .ori .. | .xori .. | .slli .. | .srli .. | .srai .. | .rori .. | .li .. | .lih ..
  | .muli .. | .cmp .. | .cmpi .. | .prep .. | .xfer .. | .xferN .. | .xferA .. | .xferL .. | .xferR .. | .vany ..
  | .vall .. | .flagAnd .. | .flagOr .. | .flagXor .. | .flagAndn .. | .flagNot .. | .flagSet .. | .ld .. | .st ..
  | .ldl .. | .stl .. | .lda .. | .sta .. | .ldc .. | .ldcNowait .. | .pref .. | .atom .. | .acas .. | .mkdep ..
  | .mkrdT .. | .mkrdW .. | .mktakeT .. | .mktakeW .. | .gets .. | .sets .. | .forkVec .. | .forkMat .. | .forkCopy ..
  | .mark .. | .rdvSet .. | .rdvWait .. | .rdvTest .. | .qdrop .. | .twaitAny .. | .twaitAll .. | .tffr .. | .tcancel ..
  | .rset .. | .rclaim .. | .rdone .. | .rwaitf .. | .rwaite .. | .radv .. | .rget .. | .phase .. | .fenceX .. | .waitc ..
  | .signalSet .. | .signalAdd .. | .leaseW .. | .leaseT .. | .leasecW .. | .leasecT .. | .unlease .. | .split ..
  | .kick .. | .mbact .. | .mbobsW .. | .mbobsT .. | .strm .. | .txset .. | .txsetM .. | .cvset .. | .deadA .. | .deadW ..
  | .yield | .exit | .trap .. | .eret .. | .ctxsv .. | .ctxld .. | .accspill .. | .keyld .. | .wdog .. => .ctl
  | .vadd .. | .vsub .. | .vmul .. | .vfma .. | .vadds .. | .vsubs .. | .vmin .. | .vmax .. | .vmulh .. | .vand ..
  | .vor .. | .vxor .. | .vshl .. | .vshr .. | .vhash .. | .vceq .. | .vcne .. | .vclt .. | .vcle .. | .vcgt .. | .vcge ..
  | .vsel .. | .vmov .. | .vcvt .. | .vqnt .. | .vdq .. | .vaddi .. | .vmuli .. | .vandi .. | .vori .. | .vxori ..
  | .vshli .. | .vshri .. | .vsplat .. | .vmini .. | .vmaxi .. | .vlda .. | .vsta .. | .vldc .. | .vldcNowait ..
  | .vstc .. | .vgath .. | .vscat .. | .vatom .. | .vperm .. | .vshuf .. | .vred .. | .vscan .. | .vplog .. | .vhalt
  | .vfl .. | .exp2 .. | .log2 .. | .rcp .. | .rsq .. | .vabs .. | .vneg .. | .vclz .. | .vpopc .. => .vec
  | .mma .. | .conv .. | .accz .. | .accmv .. | .swait .. | .sadv .. | .smark .. | .linkcfg .. | .wld .. | .accld ..
  | .srst .. | .matNop .. | .matHalt => .mat
  | .cld .. | .cldRing .. | .cst .. | .cstRing .. | .cstq .. | .cmc .. | .cga .. | .csc .. | .crw .. | .cred .. | .cldm ..
  | .cwt .. | .cadv .. | .cmark .. | .cnop .. | .chalt | .chaltS => .copy
  | .mbRecv .. | .mbSend .. | .mbPoll .. | .epStep | .epExit .. | .rv64gc .. => .rink
  | _ => .event

/-- The field limits of 07 for each instruction. -/
def Instr.wf : Instr → Bool
  -- control core: R147, R148
  | .cmp _ c _ _ => decide (c.toNat ≤ 10)
  | .cmpi _ c _ _ => decide (c.toNat ≤ 10)
  | .xferL _ f n a _ => decide (a = 0) || (decide (f = 0) && decide (n = 0))
  | .xferR f n a _ => decide (a = 0) || (decide (f = 0) && decide (n = 0))
  | .atom _ _ _ o w _ _ s => decide (o.toNat ≤ 9) && (decide (o.toNat ≠ 9) || decide (w = 0)) && decide (s.toNat ≤ 5)
  | .acas _ _ _ _ _ _ s => decide (s.toNat ≤ 5)
  | .mkdep g _ => decide (g ≠ 0)
  | .mkrdT g _ m _ => decide (g ≠ 0) && m.getLsbD 0
  | .mkrdW _ m _ => m.getLsbD 0
  | .mktakeT g _ m _ => decide (g ≠ 0) && m.getLsbD 0
  | .mktakeW _ m _ => m.getLsbD 0
  | .mark _ _ q => decide (q ≠ 0)
  | .rdvSet _ _ q => decide (q ≠ 0)
  | .qdrop _ q => decide (q ≠ 0)
  | .fenceX x y s => decide (x ≠ 0) && decide (y ≠ 0) && decide (s.toNat ≤ 5)
  | .leaseW _ _ q => decide ((q.extractLsb' 0 3).toNat ≤ 4)
  | .leaseT _ q => decide ((q.extractLsb' 0 3).toNat ≤ 4)
  | .split p => decide (p.toNat ≤ 4)
  | .waitc _ _ _ c => decide (c.toNat ≤ 3)
  -- vector engine: R149 to R151
  | .vadd _ a b x y _ | .vsub _ a b x y _ | .vmul _ a b x y _ | .vfma _ a b x y _ | .vadds _ a b x y _
  | .vsubs _ a b x y _ | .vmin _ a b x y _ | .vmax _ a b x y _ | .vmulh _ a b x y _ | .vand _ a b x y _
  | .vor _ a b x y _ | .vxor _ a b x y _ | .vshl _ a b x y _ | .vshr _ a b x y _ | .vhash _ a b x y _
  | .vsel _ a b x y _ | .vdq _ a b x y _ | .vperm _ a b x y _ => popOk a x && popOk b y
  | .vceq d a b x y _ | .vcne d a b x y _ | .vclt d a b x y _ | .vcle d a b x y _ | .vcgt d a b x y _
  | .vcge d a b x y _ => decide (d ≠ 0) && popOk a x && popOk b y
  | .vmov _ a x _ => popOk a x
  | .vcvt _ a m t x _ => decide (m.toNat ≤ 4) && decide (t.toNat ≤ 10) && popOk a x
  | .vqnt _ a m _ x _ => decide (m.toNat ≤ 4) && popOk a x
  | .vshli _ _ i _ => decide (i.toNat ≤ 31)
  | .vshri _ _ i _ => decide (i.toNat ≤ 31)
  | .vsta _ a _ x _ => popOk a x
  | .vstc _ a _ x _ => popOk a x
  | .vscat _ a _ x _ => popOk a x
  | .vatom _ _ o _ _ => decide (o.toNat ≤ 9)
  | .vshuf _ _ k h _ => decide (k.toNat ≤ 5) && (decide (k.toNat = 4) || decide (h = 0))
  | .vred _ a p x _ => decide (p.toNat ≤ 5) && popOk a x
  | .vscan _ a p x _ => decide (p.toNat ≤ 5) && popOk a x
  | .vplog d _ o b _ => decide (d ≠ 0) && decide (o.toNat ≤ 4) && (decide (o.toNat ≠ 4) || decide (b = 0))
  | .vfl f l v => (decide (f = 1) || decide (l = 1)) && decide (v.toNat ≤ 5)
  | .exp2 _ a x _ | .log2 _ a x _ | .rcp _ a x _ | .rsq _ a x _ | .vabs _ a x _ | .vneg _ a x _ | .vclz _ a x _
  | .vpopc _ a x _ => popOk a x
  -- fragments: R152, R153
  | .mma f l _ v _ _ _ m => levelOk f l v && decide (m.toNat ≤ 2)
  | .conv f l _ v _ _ _ m _ => levelOk f l v && decide (m.toNat ≤ 2)
  | .accz f l v _ _ | .accmv f l v _ _ _ | .smark f l v _ _ | .wld f l v _ | .accld f l v _ _ | .srst f l v _
  | .matNop f l v => levelOk f l v
  | .swait f l v _ n | .sadv f l v _ n => levelOk f l v && decide (1 ≤ n.toNat) && decide (n.toNat ≤ 4096)
  | .linkcfg f l v k _ m _ => levelOk f l v && decide (k.toNat ≤ 3) && decide (m.toNat ≤ 4)
  -- copy engines: R154, R155
  | .cld f l _ t x v _ _ | .cldRing f l _ t x v _ _ | .cst f l _ t x v _ _ | .cstRing f l _ t x v _ _ =>
    levelOk f l v && tagOk t x
  | .cstq _ t x _ _ m _ => tagOk t x && decide (m.toNat ≤ 4)
  | .cmc _ t x _ _ k => tagOk t x && decide (k ≠ 0)
  | .cga _ t x _ _ _ | .csc _ t x _ _ _ => tagOk t x
  | .crw _ t x _ _ | .cred _ t x _ _ => tagOk t x
  | .cldm _ t x _ _ _ _ => tagOk t x
  | .cwt f l _ v _ n | .cadv f l _ v _ n => levelOk f l v && decide (n ≠ 0)
  | .cnop f l _ v => levelOk f l v
  -- Rink: R156; a word whose major is custom-0 is no standard instruction
  | .rv64gc w => decide (w.toNat % 128 ≠ 11)
  -- steps without a word: the units of R14, R30
  | .stepBudget vf _ | .episodeArm vf _ | .episodeCancel vf _ => decide (1 ≤ vf ∧ vf ≤ 64)
  | .quantumExpiry n => decide (n < 128)
  | .episodePlace d => decide (d < 4)
  | .taskDispatch c k | .stealRecovery c k | .lotComplete c k | .postedAbort c k | .postedFault c k | .stallLimit c k
  | .yieldExpiry c k | .mkFullRetry c k => decide (c < 32 ∧ k < 4)
  | .allocatorDecision c | .classAging c | .wholeHold c | .planChange c | .pcSample c => decide (c < 32)
  | .fragmentDrained c k | .passRetire c k | .weightLoadComplete c k => decide (c < 32 ∧ k < 4)
  | .engineCommandStart c e | .programRetire c e | .markerRetire c e => decide (c < 32 ∧ e < 16)
  | .copyStepComplete c n _ | .cldmFollowOn c n _ => decide (c < 32 ∧ n < 8)
  | .accForeign c j k => decide (c < 32 ∧ j < 2048 ∧ k < 4)
  | .hostMemAccess _ _ n _ => decide (n = 1 ∨ n = 2 ∨ n = 4 ∨ n = 8)
  | .remoteAtom _ _ _ op n _ _ => decide (n = 4 ∨ n = 8) && decide (op ≤ 8 ∨ (op = 9 ∧ n = 4))
  | .queueKick vf q | .queueCancel vf q _ | .queueCtlWrite vf q _ => decide (1 ≤ vf ∧ vf ≤ 64 ∧ q < 64)
  | .packetAccept fe => decide (fe < 4)
  | .epres vf _ | .eptbaseWrite vf _ | .eptcntWrite vf _ | .polupd vf _ | .faultres vf _ | .verselWrite vf _
  | .noderel vf _ | .vfbindWrite vf _ => decide (1 ≤ vf ∧ vf ≤ 64)
  | .corecfgWrite c _ => decide (c < 32)
  | .sliceTurnEnd p | .evctlWrite p _ => decide (p < 32)
  | .linkUp p _ => decide (p < 18)
  | .tagParity sl row _ _ => decide (sl < 64 ∧ row < 2048)
  | .memUe p _ _ _ => decide (p ≤ 7)
  | .watchdog a => decide (a < 34)
  | .spdmGetVersion m | .spdmGetCapabilities m | .spdmNegotiateAlgorithms m _ | .spdmGetDigests m | .spdmGetCertificate m _
  | .spdmChallenge m _ | .spdmGetMeasurements m _ | .spdmKeyExchange m _ | .spdmFinish m | .spdmEndSession m
  | .spdmUnsupported m _ => decide (m ≤ 64)
  | _ => true

end Sys2Proof
end

