-- ==== Sys2Proof/Decode.lean ====
section
/-!
DEFINITION. The decoders of the five instruction sets and the encoder, both from the fields of 07 (R145-R156).
`decode c w` reads the word `w` as a unit of class `c` reads it (R142, R144): a word that has no row, a reserved bit set or a
field value outside its limits answers `none`. A CLDM is two words: its follow-on word is bits 63:32. After the decoders
stands the encoder, written from the same tables, and the order in which `decodeTableWord` asks the decoders.
-/

namespace Sys2Proof

/-- The field of width `k` whose lowest bit is bit `lo` of the word. -/
def fld (k lo w : Nat) : BitVec k := BitVec.ofNat k (w / 2 ^ lo)

/-- The ctl words of opcode 0x1. -/
def decodeCtl01 (w : Nat) : Option Instr :=
  if bits w 10 0 = 0 then some (.add (fld 5 21 w) (fld 5 16 w) (fld 5 11 w))
  else if bits w 10 0 = 1 then some (.sub (fld 5 21 w) (fld 5 16 w) (fld 5 11 w))
  else if bits w 10 0 = 2 then some (.and (fld 5 21 w) (fld 5 16 w) (fld 5 11 w))
  else if bits w 10 0 = 3 then some (.or (fld 5 21 w) (fld 5 16 w) (fld 5 11 w))
  else if bits w 10 0 = 4 then some (.xor (fld 5 21 w) (fld 5 16 w) (fld 5 11 w))
  else if bits w 10 0 = 5 then some (.andn (fld 5 21 w) (fld 5 16 w) (fld 5 11 w))
  else if bits w 10 0 = 6 then some (.sll (fld 5 21 w) (fld 5 16 w) (fld 5 11 w))
  else if bits w 10 0 = 7 then some (.srl (fld 5 21 w) (fld 5 16 w) (fld 5 11 w))
  else if bits w 10 0 = 8 then some (.sra (fld 5 21 w) (fld 5 16 w) (fld 5 11 w))
  else if bits w 10 0 = 9 then some (.ror (fld 5 21 w) (fld 5 16 w) (fld 5 11 w))
  else if bits w 10 0 = 10 then some (.mul (fld 5 21 w) (fld 5 16 w) (fld 5 11 w))
  else if bits w 10 0 = 11 then some (.mulh (fld 5 21 w) (fld 5 16 w) (fld 5 11 w))
  else if bits w 10 0 = 12 then some (.mulhu (fld 5 21 w) (fld 5 16 w) (fld 5 11 w))
  else if bits w 10 0 = 13 then some (.div (fld 5 21 w) (fld 5 16 w) (fld 5 11 w))
  else if bits w 10 0 = 14 then some (.divu (fld 5 21 w) (fld 5 16 w) (fld 5 11 w))
  else if bits w 10 0 = 15 then some (.rem (fld 5 21 w) (fld 5 16 w) (fld 5 11 w))
  else if bits w 10 0 = 16 then some (.remu (fld 5 21 w) (fld 5 16 w) (fld 5 11 w))
  else if bits w 10 0 = 17 then some (.min (fld 5 21 w) (fld 5 16 w) (fld 5 11 w))
  else if bits w 10 0 = 18 then some (.max (fld 5 21 w) (fld 5 16 w) (fld 5 11 w))
  else if bits w 10 0 = 19 then some (.minu (fld 5 21 w) (fld 5 16 w) (fld 5 11 w))
  else if bits w 10 0 = 20 then some (.maxu (fld 5 21 w) (fld 5 16 w) (fld 5 11 w))
  else if bits w 10 0 = 21 then some (.adds (fld 5 21 w) (fld 5 16 w) (fld 5 11 w))
  else if bits w 10 0 = 22 then some (.subs (fld 5 21 w) (fld 5 16 w) (fld 5 11 w))
  else if bits w 15 0 = 23 then some (.clz (fld 5 21 w) (fld 5 16 w))
  else if bits w 15 0 = 24 then some (.ctz (fld 5 21 w) (fld 5 16 w))
  else if bits w 15 0 = 25 then some (.popc (fld 5 21 w) (fld 5 16 w))
  else if bits w 15 0 = 26 then some (.sext8 (fld 5 21 w) (fld 5 16 w))
  else if bits w 15 0 = 27 then some (.sext16 (fld 5 21 w) (fld 5 16 w))
  else if bits w 15 0 = 28 then some (.sext32 (fld 5 21 w) (fld 5 16 w))
  else if bits w 15 0 = 29 then some (.zext32 (fld 5 21 w) (fld 5 16 w))
  else if bits w 20 14 = 0 ∧ bits w 10 0 = 30 then some (.movf (fld 5 21 w) (fld 3 11 w))
  else if bits w 20 14 = 0 ∧ bits w 10 0 = 31 then some (.movb (fld 5 21 w) (fld 3 11 w))
  else none

/-- The ctl words of opcode 0x6. -/
def decodeCtl06 (w : Nat) : Option Instr :=
  if bits w 15 6 = 0 then some (.slli (fld 5 21 w) (fld 5 16 w) (fld 6 0 w))
  else if bits w 15 6 = 256 then some (.srli (fld 5 21 w) (fld 5 16 w) (fld 6 0 w))
  else if bits w 15 6 = 512 then some (.srai (fld 5 21 w) (fld 5 16 w) (fld 6 0 w))
  else if bits w 15 6 = 768 then some (.rori (fld 5 21 w) (fld 5 16 w) (fld 6 0 w))
  else none

/-- The ctl words of opcode 0xd. -/
def decodeCtl0D (w : Nat) : Option Instr :=
  if bits w 19 0 = 0 then some (.xfer (fld 3 23 w) (fld 3 20 w))
  else if bits w 19 0 = 524288 then some (.xferN (fld 3 23 w) (fld 3 20 w))
  else if bits w 22 0 = 262144 then some (.xferA (fld 3 23 w))
  else if bits w 17 16 = 1 ∧ bits w 10 0 = 0 then some (.xferL (fld 3 23 w) (fld 3 20 w) (fld 1 19 w) (fld 1 18 w) (fld 5 11 w))
  else if bits w 25 23 = 0 ∧ bits w 17 16 = 2 ∧ bits w 10 0 = 0 then some (.xferR (fld 3 20 w) (fld 1 19 w) (fld 1 18 w) (fld 5 11 w))
  else none

/-- The ctl words of opcode 0xe. -/
def decodeCtl0E (w : Nat) : Option Instr :=
  if bits w 22 22 = 0 ∧ bits w 18 0 = 0 then some (.vany (fld 3 23 w) (fld 3 19 w))
  else if bits w 22 22 = 1 ∧ bits w 18 0 = 0 then some (.vall (fld 3 23 w) (fld 3 19 w))
  else none

/-- The ctl words of opcode 0xf. -/
def decodeCtl0F (w : Nat) : Option Instr :=
  if bits w 16 0 = 0 then some (.flagAnd (fld 3 23 w) (fld 3 20 w) (fld 3 17 w))
  else if bits w 16 0 = 1 then some (.flagOr (fld 3 23 w) (fld 3 20 w) (fld 3 17 w))
  else if bits w 16 0 = 2 then some (.flagXor (fld 3 23 w) (fld 3 20 w) (fld 3 17 w))
  else if bits w 16 0 = 3 then some (.flagAndn (fld 3 23 w) (fld 3 20 w) (fld 3 17 w))
  else if bits w 19 0 = 4 then some (.flagNot (fld 3 23 w) (fld 3 20 w))
  else if bits w 22 17 = 0 ∧ bits w 15 0 = 5 then some (.flagSet (fld 3 23 w) (fld 1 16 w))
  else none

/-- The ctl words of opcode 0x16. -/
def decodeCtl16 (w : Nat) : Option Instr :=
  if bits w 15 14 = 2 then some (.ldc (fld 5 21 w) (fld 5 16 w) (fld 14 0 w))
  else if bits w 15 14 = 3 then some (.ldcNowait (fld 5 21 w) (fld 5 16 w) (fld 14 0 w))
  else none

/-- The ctl words of opcode 0x1a. -/
def decodeCtl1A (w : Nat) : Option Instr :=
  if bits w 25 23 = 0 ∧ bits w 15 0 = 0 then some (.mkdep (fld 2 21 w) (fld 5 16 w))
  else if bits w 25 23 = 1 ∧ bits w 4 0 = 0 then some (.mkrdT (fld 2 21 w) (fld 5 16 w) (fld 8 8 w) (fld 3 5 w))
  else if bits w 25 21 = 9 ∧ bits w 7 5 = 0 then some (.mkrdW (fld 5 16 w) (fld 8 8 w) (fld 5 0 w))
  else if bits w 25 23 = 3 ∧ bits w 4 0 = 0 then some (.mktakeT (fld 2 21 w) (fld 5 16 w) (fld 8 8 w) (fld 3 5 w))
  else if bits w 25 21 = 17 ∧ bits w 7 5 = 0 then some (.mktakeW (fld 5 16 w) (fld 8 8 w) (fld 5 0 w))
  else none

/-- The ctl words of opcode 0x20. -/
def decodeCtl20 (w : Nat) : Option Instr :=
  if bits w 25 24 = 0 ∧ bits w 22 18 = 0 then some (.forkVec (fld 1 23 w) (fld 18 0 w))
  else if bits w 25 24 = 1 then some (.forkMat (fld 1 23 w) (fld 5 18 w) (fld 18 0 w))
  else if bits w 25 24 = 2 then some (.forkCopy (fld 1 23 w) (fld 5 18 w) (fld 18 0 w))
  else none

/-- The ctl words of opcode 0x22. -/
def decodeCtl22 (w : Nat) : Option Instr :=
  if bits w 25 24 = 0 ∧ bits w 15 13 = 0 then some (.rdvSet (fld 3 21 w) (fld 5 16 w) (fld 13 0 w))
  else if bits w 25 24 = 1 ∧ bits w 20 0 = 0 then some (.rdvWait (fld 3 21 w))
  else if bits w 25 24 = 2 ∧ bits w 20 16 = 0 ∧ bits w 12 0 = 0 then some (.rdvTest (fld 3 21 w) (fld 3 13 w))
  else none

/-- The ctl words of opcode 0x24. -/
def decodeCtl24 (w : Nat) : Option Instr :=
  if bits w 25 18 = 0 ∧ bits w 12 0 = 0 then some (.twaitAny (fld 5 13 w))
  else if bits w 25 18 = 32 ∧ bits w 12 0 = 0 then some (.twaitAll (fld 5 13 w))
  else if bits w 25 23 = 2 ∧ bits w 12 0 = 0 then some (.tffr (fld 5 18 w) (fld 5 13 w))
  else if bits w 25 18 = 96 ∧ bits w 12 0 = 0 then some (.tcancel (fld 5 13 w))
  else none

/-- The ctl words of opcode 0x25. -/
def decodeCtl25 (w : Nat) : Option Instr :=
  if bits w 25 22 = 0 ∧ bits w 15 11 = 0 ∧ bits w 5 0 = 0 then some (.rset (fld 6 16 w) (fld 5 6 w))
  else if bits w 25 22 = 1 ∧ bits w 5 0 = 0 then some (.rclaim (fld 6 16 w) (fld 5 11 w) (fld 5 6 w))
  else if bits w 25 22 = 2 ∧ bits w 15 11 = 0 ∧ bits w 5 0 = 0 then some (.rdone (fld 6 16 w) (fld 5 6 w))
  else if bits w 25 22 = 3 ∧ bits w 15 11 = 0 ∧ bits w 5 0 = 0 then some (.rwaitf (fld 6 16 w) (fld 5 6 w))
  else if bits w 25 22 = 4 ∧ bits w 15 11 = 0 ∧ bits w 5 0 = 0 then some (.rwaite (fld 6 16 w) (fld 5 6 w))
  else if bits w 25 22 = 5 ∧ bits w 15 11 = 0 ∧ bits w 5 0 = 0 then some (.radv (fld 6 16 w) (fld 5 6 w))
  else if bits w 25 22 = 6 ∧ bits w 5 0 = 0 then some (.rget (fld 6 16 w) (fld 5 11 w) (fld 5 6 w))
  else none

/-- The ctl words of opcode 0x29. -/
def decodeCtl29 (w : Nat) : Option Instr :=
  if bits w 25 21 = 0 ∧ bits w 10 0 = 0 then some (.signalSet (fld 5 16 w) (fld 5 11 w))
  else if bits w 25 21 = 0 ∧ bits w 10 0 = 1 then some (.signalAdd (fld 5 16 w) (fld 5 11 w))
  else none

/-- The ctl words of opcode 0x2a. -/
def decodeCtl2A (w : Nat) : Option Instr :=
  if bits w 25 23 = 0 ∧ bits w 12 5 = 0 then some (.leaseW (fld 5 18 w) (fld 5 13 w) (fld 5 0 w))
  else if bits w 25 23 = 1 ∧ bits w 17 5 = 0 then some (.leaseT (fld 5 18 w) (fld 5 0 w))
  else if bits w 25 23 = 2 ∧ bits w 12 5 = 0 ∧ bits w 2 0 = 0 then some (.leasecW (fld 5 18 w) (fld 5 13 w) (fld 2 3 w))
  else if bits w 25 23 = 3 ∧ bits w 17 5 = 0 ∧ bits w 2 0 = 0 then some (.leasecT (fld 5 18 w) (fld 2 3 w))
  else if bits w 25 18 = 128 ∧ bits w 12 0 = 0 then some (.unlease (fld 5 13 w))
  else none

/-- The ctl words of opcode 0x2d. -/
def decodeCtl2D (w : Nat) : Option Instr :=
  if bits w 25 19 = 0 ∧ bits w 8 0 = 0 then some (.mbact (fld 5 14 w) (fld 5 9 w))
  else if bits w 25 19 = 32 ∧ bits w 3 0 = 0 then some (.mbobsW (fld 5 14 w) (fld 5 9 w) (fld 5 4 w))
  else if bits w 25 24 = 2 ∧ bits w 8 0 = 0 then some (.mbobsT (fld 5 19 w) (fld 5 14 w) (fld 5 9 w))
  else none

/-- The ctl words of opcode 0x2f. -/
def decodeCtl2F (w : Nat) : Option Instr :=
  if bits w 21 21 = 0 ∧ bits w 15 2 = 0 then some (.txset (fld 4 22 w) (fld 5 16 w) (fld 2 0 w))
  else if bits w 21 21 = 0 ∧ bits w 15 0 = 32768 then some (.txsetM (fld 4 22 w) (fld 5 16 w))
  else none

/-- The ctl words of opcode 0x31. -/
def decodeCtl31 (w : Nat) : Option Instr :=
  if bits w 25 21 = 0 ∧ bits w 15 9 = 0 then some (.deadA (fld 5 16 w) (fld 9 0 w))
  else if bits w 25 21 = 16 ∧ bits w 15 9 = 0 then some (.deadW (fld 5 16 w) (fld 9 0 w))
  else none

/-- The ctl words of opcode 0x32. -/
def decodeCtl32 (w : Nat) : Option Instr :=
  if bits w 25 0 = 0 then some .yield
  else if bits w 25 0 = 1 then some .exit
  else none

/-- The ctl words of opcode 0x3e. -/
def decodeCtl3E (w : Nat) : Option Instr :=
  if bits w 25 21 = 0 ∧ bits w 10 0 = 0 then some (.eret (fld 5 16 w) (fld 5 11 w))
  else if bits w 10 0 = 1 then some (.ctxsv (fld 5 21 w) (fld 5 16 w) (fld 5 11 w))
  else if bits w 10 0 = 2 then some (.ctxld (fld 5 21 w) (fld 5 16 w) (fld 5 11 w))
  else if bits w 10 0 = 3 then some (.accspill (fld 5 21 w) (fld 5 16 w) (fld 5 11 w))
  else if bits w 10 0 = 4 then some (.keyld (fld 5 21 w) (fld 5 16 w) (fld 5 11 w))
  else if bits w 25 21 = 0 ∧ bits w 15 0 = 5 then some (.wdog (fld 5 16 w))
  else none

/-- The decoder of the control-core words (R145-R148), before the limits of `Instr.wf`. -/
def decodeCtlRaw (w : Nat) : Option Instr :=
  match bits w 31 26 with
  | 1 => decodeCtl01 w
  | 2 => some (.addi (fld 5 21 w) (fld 5 16 w) (fld 16 0 w))
  | 3 => some (.andi (fld 5 21 w) (fld 5 16 w) (fld 16 0 w))
  | 4 => some (.ori (fld 5 21 w) (fld 5 16 w) (fld 16 0 w))
  | 5 => some (.xori (fld 5 21 w) (fld 5 16 w) (fld 16 0 w))
  | 6 => decodeCtl06 w
  | 7 => if bits w 20 16 = 0 then some (.li (fld 5 21 w) (fld 16 0 w)) else none
  | 8 => if bits w 20 16 = 0 then some (.lih (fld 5 21 w) (fld 16 0 w)) else none
  | 9 => some (.muli (fld 5 21 w) (fld 5 16 w) (fld 16 0 w))
  | 10 => if bits w 8 0 = 0 then some (.cmp (fld 3 23 w) (fld 4 19 w) (fld 5 14 w) (fld 5 9 w)) else none
  | 11 => some (.cmpi (fld 3 23 w) (fld 4 19 w) (fld 5 14 w) (fld 14 0 w))
  | 12 => some (.prep (fld 3 23 w) (fld 23 0 w))
  | 13 => decodeCtl0D w
  | 14 => decodeCtl0E w
  | 15 => decodeCtl0F w
  | 16 => some (.ld (fld 5 21 w) (fld 5 16 w) (fld 2 14 w) (fld 14 0 w))
  | 17 => some (.st (fld 5 21 w) (fld 5 16 w) (fld 2 14 w) (fld 14 0 w))
  | 18 => some (.ldl (fld 5 21 w) (fld 5 16 w) (fld 2 14 w) (fld 14 0 w))
  | 19 => some (.stl (fld 5 21 w) (fld 5 16 w) (fld 2 14 w) (fld 14 0 w))
  | 20 => some (.lda (fld 5 21 w) (fld 5 16 w) (fld 2 14 w) (fld 14 0 w))
  | 21 => some (.sta (fld 5 21 w) (fld 5 16 w) (fld 2 14 w) (fld 14 0 w))
  | 22 => decodeCtl16 w
  | 23 => if bits w 25 21 = 0 then some (.pref (fld 5 16 w) (fld 2 14 w) (fld 14 0 w)) else none
  | 24 => some (.atom (fld 5 21 w) (fld 5 16 w) (fld 5 11 w) (fld 4 7 w) (fld 1 6 w) (fld 1 5 w) (fld 2 3 w) (fld 3 0 w))
  | 25 => if bits w 10 7 = 0 then some (.acas (fld 5 21 w) (fld 5 16 w) (fld 5 11 w) (fld 1 6 w) (fld 1 5 w) (fld 2 3 w) (fld 3 0 w)) else none
  | 26 => decodeCtl1A w
  | 27 => if bits w 20 16 = 0 then some (.gets (fld 5 21 w) (fld 16 0 w)) else none
  | 28 => if bits w 25 21 = 0 then some (.sets (fld 5 16 w) (fld 16 0 w)) else none
  | 32 => decodeCtl20 w
  | 33 => if bits w 19 13 = 0 then some (.mark (fld 5 21 w) (fld 1 20 w) (fld 13 0 w)) else none
  | 34 => decodeCtl22 w
  | 35 => if bits w 20 13 = 0 then some (.qdrop (fld 5 21 w) (fld 13 0 w)) else none
  | 36 => decodeCtl24 w
  | 37 => decodeCtl25 w
  | 38 => if bits w 25 21 = 0 ∧ bits w 15 0 = 0 then some (.phase (fld 5 16 w)) else none
  | 39 => if bits w 10 0 = 0 then some (.fenceX (fld 6 20 w) (fld 6 14 w) (fld 3 11 w)) else none
  | 40 => if bits w 25 21 = 0 ∧ bits w 5 3 = 0 then some (.waitc (fld 5 16 w) (fld 5 11 w) (fld 5 6 w) (fld 3 0 w)) else none
  | 41 => decodeCtl29 w
  | 42 => decodeCtl2A w
  | 43 => if bits w 25 3 = 0 then some (.split (fld 3 0 w)) else none
  | 44 => if bits w 25 21 = 0 ∧ bits w 15 0 = 0 then some (.kick (fld 5 16 w)) else none
  | 45 => decodeCtl2D w
  | 46 => if bits w 21 21 = 0 ∧ bits w 15 0 = 0 then some (.strm (fld 4 22 w) (fld 5 16 w)) else none
  | 47 => decodeCtl2F w
  | 48 => if bits w 22 21 = 0 ∧ bits w 15 0 = 0 then some (.cvset (fld 3 23 w) (fld 5 16 w)) else none
  | 49 => decodeCtl31 w
  | 50 => decodeCtl32 w
  | 51 => if bits w 25 16 = 0 then some (.trap (fld 16 0 w)) else none
  | 62 => decodeCtl3E w
  | _ => none

/-- The vec words of opcode 0x32. -/
def decodeVec32 (w : Nat) : Option Instr :=
  if bits w 18 18 = 0 ∧ bits w 4 3 = 0 then some (.vldc (fld 7 19 w) (fld 6 12 w) (fld 7 5 w) (fld 3 0 w))
  else if bits w 18 18 = 0 ∧ bits w 4 3 = 1 then some (.vldcNowait (fld 7 19 w) (fld 6 12 w) (fld 7 5 w) (fld 3 0 w))
  else none

/-- The vec words of opcode 0x3f. -/
def decodeVec3F (w : Nat) : Option Instr :=
  if bits w 11 5 = 0 ∧ bits w 3 3 = 0 then some (.exp2 (fld 7 19 w) (fld 7 12 w) (fld 1 4 w) (fld 3 0 w))
  else if bits w 11 5 = 1 ∧ bits w 3 3 = 0 then some (.log2 (fld 7 19 w) (fld 7 12 w) (fld 1 4 w) (fld 3 0 w))
  else if bits w 11 5 = 2 ∧ bits w 3 3 = 0 then some (.rcp (fld 7 19 w) (fld 7 12 w) (fld 1 4 w) (fld 3 0 w))
  else if bits w 11 5 = 3 ∧ bits w 3 3 = 0 then some (.rsq (fld 7 19 w) (fld 7 12 w) (fld 1 4 w) (fld 3 0 w))
  else if bits w 11 5 = 4 ∧ bits w 3 3 = 0 then some (.vabs (fld 7 19 w) (fld 7 12 w) (fld 1 4 w) (fld 3 0 w))
  else if bits w 11 5 = 5 ∧ bits w 3 3 = 0 then some (.vneg (fld 7 19 w) (fld 7 12 w) (fld 1 4 w) (fld 3 0 w))
  else if bits w 11 5 = 6 ∧ bits w 3 3 = 0 then some (.vclz (fld 7 19 w) (fld 7 12 w) (fld 1 4 w) (fld 3 0 w))
  else if bits w 11 5 = 7 ∧ bits w 3 3 = 0 then some (.vpopc (fld 7 19 w) (fld 7 12 w) (fld 1 4 w) (fld 3 0 w))
  else none

/-- The decoder of the vector words (R149-R151), before the limits of `Instr.wf`. -/
def decodeVecRaw (w : Nat) : Option Instr :=
  match bits w 31 26 with
  | 1 => some (.vadd (fld 7 19 w) (fld 7 12 w) (fld 7 5 w) (fld 1 4 w) (fld 1 3 w) (fld 3 0 w))
  | 2 => some (.vsub (fld 7 19 w) (fld 7 12 w) (fld 7 5 w) (fld 1 4 w) (fld 1 3 w) (fld 3 0 w))
  | 3 => some (.vmul (fld 7 19 w) (fld 7 12 w) (fld 7 5 w) (fld 1 4 w) (fld 1 3 w) (fld 3 0 w))
  | 4 => some (.vfma (fld 7 19 w) (fld 7 12 w) (fld 7 5 w) (fld 1 4 w) (fld 1 3 w) (fld 3 0 w))
  | 5 => some (.vadds (fld 7 19 w) (fld 7 12 w) (fld 7 5 w) (fld 1 4 w) (fld 1 3 w) (fld 3 0 w))
  | 6 => some (.vsubs (fld 7 19 w) (fld 7 12 w) (fld 7 5 w) (fld 1 4 w) (fld 1 3 w) (fld 3 0 w))
  | 7 => some (.vmin (fld 7 19 w) (fld 7 12 w) (fld 7 5 w) (fld 1 4 w) (fld 1 3 w) (fld 3 0 w))
  | 8 => some (.vmax (fld 7 19 w) (fld 7 12 w) (fld 7 5 w) (fld 1 4 w) (fld 1 3 w) (fld 3 0 w))
  | 9 => some (.vmulh (fld 7 19 w) (fld 7 12 w) (fld 7 5 w) (fld 1 4 w) (fld 1 3 w) (fld 3 0 w))
  | 10 => some (.vand (fld 7 19 w) (fld 7 12 w) (fld 7 5 w) (fld 1 4 w) (fld 1 3 w) (fld 3 0 w))
  | 11 => some (.vor (fld 7 19 w) (fld 7 12 w) (fld 7 5 w) (fld 1 4 w) (fld 1 3 w) (fld 3 0 w))
  | 12 => some (.vxor (fld 7 19 w) (fld 7 12 w) (fld 7 5 w) (fld 1 4 w) (fld 1 3 w) (fld 3 0 w))
  | 13 => some (.vshl (fld 7 19 w) (fld 7 12 w) (fld 7 5 w) (fld 1 4 w) (fld 1 3 w) (fld 3 0 w))
  | 14 => some (.vshr (fld 7 19 w) (fld 7 12 w) (fld 7 5 w) (fld 1 4 w) (fld 1 3 w) (fld 3 0 w))
  | 15 => some (.vhash (fld 7 19 w) (fld 7 12 w) (fld 7 5 w) (fld 1 4 w) (fld 1 3 w) (fld 3 0 w))
  | 16 => if bits w 25 22 = 0 then some (.vceq (fld 3 19 w) (fld 7 12 w) (fld 7 5 w) (fld 1 4 w) (fld 1 3 w) (fld 3 0 w)) else none
  | 17 => if bits w 25 22 = 0 then some (.vcne (fld 3 19 w) (fld 7 12 w) (fld 7 5 w) (fld 1 4 w) (fld 1 3 w) (fld 3 0 w)) else none
  | 18 => if bits w 25 22 = 0 then some (.vclt (fld 3 19 w) (fld 7 12 w) (fld 7 5 w) (fld 1 4 w) (fld 1 3 w) (fld 3 0 w)) else none
  | 19 => if bits w 25 22 = 0 then some (.vcle (fld 3 19 w) (fld 7 12 w) (fld 7 5 w) (fld 1 4 w) (fld 1 3 w) (fld 3 0 w)) else none
  | 20 => if bits w 25 22 = 0 then some (.vcgt (fld 3 19 w) (fld 7 12 w) (fld 7 5 w) (fld 1 4 w) (fld 1 3 w) (fld 3 0 w)) else none
  | 21 => if bits w 25 22 = 0 then some (.vcge (fld 3 19 w) (fld 7 12 w) (fld 7 5 w) (fld 1 4 w) (fld 1 3 w) (fld 3 0 w)) else none
  | 22 => some (.vsel (fld 7 19 w) (fld 7 12 w) (fld 7 5 w) (fld 1 4 w) (fld 1 3 w) (fld 3 0 w))
  | 23 => if bits w 11 5 = 0 ∧ bits w 3 3 = 0 then some (.vmov (fld 7 19 w) (fld 7 12 w) (fld 1 4 w) (fld 3 0 w)) else none
  | 24 => if bits w 3 3 = 0 then some (.vcvt (fld 7 19 w) (fld 7 12 w) (fld 3 9 w) (fld 4 5 w) (fld 1 4 w) (fld 3 0 w)) else none
  | 25 => if bits w 8 7 = 0 ∧ bits w 3 3 = 0 then some (.vqnt (fld 7 19 w) (fld 7 12 w) (fld 3 9 w) (fld 2 5 w) (fld 1 4 w) (fld 3 0 w)) else none
  | 26 => some (.vdq (fld 7 19 w) (fld 7 12 w) (fld 7 5 w) (fld 1 4 w) (fld 1 3 w) (fld 3 0 w))
  | 32 => some (.vaddi (fld 7 19 w) (fld 7 12 w) (fld 9 3 w) (fld 3 0 w))
  | 33 => some (.vmuli (fld 7 19 w) (fld 7 12 w) (fld 9 3 w) (fld 3 0 w))
  | 34 => some (.vandi (fld 7 19 w) (fld 7 12 w) (fld 9 3 w) (fld 3 0 w))
  | 35 => some (.vori (fld 7 19 w) (fld 7 12 w) (fld 9 3 w) (fld 3 0 w))
  | 36 => some (.vxori (fld 7 19 w) (fld 7 12 w) (fld 9 3 w) (fld 3 0 w))
  | 37 => some (.vshli (fld 7 19 w) (fld 7 12 w) (fld 9 3 w) (fld 3 0 w))
  | 38 => some (.vshri (fld 7 19 w) (fld 7 12 w) (fld 9 3 w) (fld 3 0 w))
  | 39 => if bits w 18 12 = 0 then some (.vsplat (fld 7 19 w) (fld 9 3 w) (fld 3 0 w)) else none
  | 40 => some (.vmini (fld 7 19 w) (fld 7 12 w) (fld 9 3 w) (fld 3 0 w))
  | 41 => some (.vmaxi (fld 7 19 w) (fld 7 12 w) (fld 9 3 w) (fld 3 0 w))
  | 48 => if bits w 18 18 = 0 ∧ bits w 4 3 = 0 then some (.vlda (fld 7 19 w) (fld 6 12 w) (fld 7 5 w) (fld 3 0 w)) else none
  | 49 => if bits w 25 25 = 0 ∧ bits w 3 3 = 0 then some (.vsta (fld 6 19 w) (fld 7 12 w) (fld 7 5 w) (fld 1 4 w) (fld 3 0 w)) else none
  | 50 => decodeVec32 w
  | 51 => if bits w 25 25 = 0 ∧ bits w 3 3 = 0 then some (.vstc (fld 6 19 w) (fld 7 12 w) (fld 7 5 w) (fld 1 4 w) (fld 3 0 w)) else none
  | 52 => if bits w 18 18 = 0 ∧ bits w 11 11 = 0 ∧ bits w 4 3 = 0 then some (.vgath (fld 7 19 w) (fld 6 12 w) (fld 6 5 w) (fld 3 0 w)) else none
  | 53 => if bits w 25 25 = 0 ∧ bits w 11 11 = 0 ∧ bits w 3 3 = 0 then some (.vscat (fld 6 19 w) (fld 7 12 w) (fld 6 5 w) (fld 1 4 w) (fld 3 0 w)) else none
  | 54 => if bits w 25 25 = 0 ∧ bits w 18 18 = 0 ∧ bits w 6 3 = 0 then some (.vatom (fld 6 19 w) (fld 6 12 w) (fld 4 8 w) (fld 1 7 w) (fld 3 0 w)) else none
  | 55 => some (.vperm (fld 7 19 w) (fld 7 12 w) (fld 7 5 w) (fld 1 4 w) (fld 1 3 w) (fld 3 0 w))
  | 56 => if bits w 25 25 = 0 then some (.vshuf (fld 6 19 w) (fld 7 12 w) (fld 3 9 w) (fld 6 3 w) (fld 3 0 w)) else none
  | 57 => if bits w 8 5 = 0 ∧ bits w 3 3 = 0 then some (.vred (fld 7 19 w) (fld 7 12 w) (fld 3 9 w) (fld 1 4 w) (fld 3 0 w)) else none
  | 58 => if bits w 8 5 = 0 ∧ bits w 3 3 = 0 then some (.vscan (fld 7 19 w) (fld 7 12 w) (fld 3 9 w) (fld 1 4 w) (fld 3 0 w)) else none
  | 59 => if bits w 25 22 = 0 ∧ bits w 18 15 = 0 ∧ bits w 8 8 = 0 ∧ bits w 4 3 = 0 then some (.vplog (fld 3 19 w) (fld 3 12 w) (fld 3 9 w) (fld 3 5 w) (fld 3 0 w)) else none
  | 60 => if bits w 25 0 = 0 then some .vhalt else none
  | 61 => if bits w 20 0 = 0 then some (.vfl (fld 1 25 w) (fld 1 24 w) (fld 3 21 w)) else none
  | 63 => decodeVec3F w
  | _ => none

/-- The decoder of the matrix step words (R152, R153), before the limits of `Instr.wf`. -/
def decodeMatRaw (w : Nat) : Option Instr :=
  match bits w 31 27 with
  | 1 => some (.mma (fld 1 26 w) (fld 1 25 w) (fld 1 24 w) (fld 3 21 w) (fld 4 17 w) (fld 4 13 w) (fld 11 2 w) (fld 2 0 w))
  | 2 => some (.conv (fld 1 26 w) (fld 1 25 w) (fld 1 24 w) (fld 3 21 w) (fld 3 18 w) (fld 4 14 w) (fld 4 10 w) (fld 2 8 w) (fld 8 0 w))
  | 3 => if bits w 24 24 = 0 ∧ bits w 1 0 = 0 then some (.accz (fld 1 26 w) (fld 1 25 w) (fld 3 21 w) (fld 8 13 w) (fld 11 2 w)) else none
  | 4 => if bits w 24 24 = 0 ∧ bits w 15 13 = 0 ∧ bits w 1 0 = 0 then some (.accmv (fld 1 26 w) (fld 1 25 w) (fld 3 21 w) (fld 4 17 w) (fld 1 16 w) (fld 11 2 w)) else none
  | 5 => if bits w 24 24 = 0 ∧ bits w 16 13 = 0 then some (.swait (fld 1 26 w) (fld 1 25 w) (fld 3 21 w) (fld 4 17 w) (fld 13 0 w)) else none
  | 6 => if bits w 24 24 = 0 ∧ bits w 16 13 = 0 then some (.sadv (fld 1 26 w) (fld 1 25 w) (fld 3 21 w) (fld 4 17 w) (fld 13 0 w)) else none
  | 7 => if bits w 24 24 = 0 ∧ bits w 20 17 = 0 then some (.smark (fld 1 26 w) (fld 1 25 w) (fld 3 21 w) (fld 1 16 w) (fld 16 0 w)) else none
  | 8 => if bits w 24 24 = 0 ∧ bits w 9 0 = 0 then some (.linkcfg (fld 1 26 w) (fld 1 25 w) (fld 3 21 w) (fld 3 18 w) (fld 1 17 w) (fld 3 14 w) (fld 4 10 w)) else none
  | 9 => if bits w 24 24 = 0 ∧ bits w 20 17 = 0 ∧ bits w 12 0 = 0 then some (.wld (fld 1 26 w) (fld 1 25 w) (fld 3 21 w) (fld 4 13 w)) else none
  | 10 => if bits w 24 24 = 0 ∧ bits w 16 13 = 0 ∧ bits w 1 0 = 0 then some (.accld (fld 1 26 w) (fld 1 25 w) (fld 3 21 w) (fld 4 17 w) (fld 11 2 w)) else none
  | 11 => if bits w 24 24 = 0 ∧ bits w 16 0 = 0 then some (.srst (fld 1 26 w) (fld 1 25 w) (fld 3 21 w) (fld 4 17 w)) else none
  | 30 => if bits w 24 24 = 0 ∧ bits w 20 0 = 0 then some (.matNop (fld 1 26 w) (fld 1 25 w) (fld 3 21 w)) else none
  | 31 => if bits w 26 0 = 0 then some .matHalt else none
  | _ => none

/-- The copy words of opcode 0x1. -/
def decodeCopy01 (w : Nat) : Option Instr :=
  if bits w 9 7 = 0 ∧ bits w 2 0 = 0 then some (.cld (fld 1 26 w) (fld 1 25 w) (fld 1 24 w) (fld 1 23 w) (fld 6 17 w) (fld 3 14 w) (fld 4 10 w) (fld 4 3 w))
  else if bits w 9 9 = 1 ∧ bits w 2 0 = 0 then some (.cldRing (fld 1 26 w) (fld 1 25 w) (fld 1 24 w) (fld 1 23 w) (fld 6 17 w) (fld 3 14 w) (fld 4 10 w) (fld 6 3 w))
  else none

/-- The copy words of opcode 0x2. -/
def decodeCopy02 (w : Nat) : Option Instr :=
  if bits w 9 7 = 0 ∧ bits w 2 0 = 0 then some (.cst (fld 1 26 w) (fld 1 25 w) (fld 1 24 w) (fld 1 23 w) (fld 6 17 w) (fld 3 14 w) (fld 4 10 w) (fld 4 3 w))
  else if bits w 9 9 = 1 ∧ bits w 2 0 = 0 then some (.cstRing (fld 1 26 w) (fld 1 25 w) (fld 1 24 w) (fld 1 23 w) (fld 6 17 w) (fld 3 14 w) (fld 4 10 w) (fld 6 3 w))
  else none

/-- The decoder of the copy step words (R154, R155), before the limits of `Instr.wf`. -/
def decodeCopyRaw (w : Nat) : Option Instr :=
  match bits w 31 27 with
  | 1 => decodeCopy01 w
  | 2 => decodeCopy02 w
  | 3 => if bits w 26 25 = 0 ∧ bits w 3 0 = 0 then some (.cstq (fld 1 24 w) (fld 1 23 w) (fld 6 17 w) (fld 4 13 w) (fld 4 9 w) (fld 3 6 w) (fld 2 4 w)) else none
  | 4 => if bits w 26 25 = 0 ∧ bits w 0 0 = 0 then some (.cmc (fld 1 24 w) (fld 1 23 w) (fld 6 17 w) (fld 4 13 w) (fld 4 9 w) (fld 8 1 w)) else none
  | 5 => if bits w 26 25 = 0 ∧ bits w 4 0 = 0 then some (.cga (fld 1 24 w) (fld 1 23 w) (fld 6 17 w) (fld 4 13 w) (fld 4 9 w) (fld 4 5 w)) else none
  | 6 => if bits w 26 25 = 0 ∧ bits w 4 0 = 0 then some (.csc (fld 1 24 w) (fld 1 23 w) (fld 6 17 w) (fld 4 13 w) (fld 4 9 w) (fld 4 5 w)) else none
  | 7 => if bits w 26 25 = 0 ∧ bits w 8 0 = 0 then some (.crw (fld 1 24 w) (fld 1 23 w) (fld 6 17 w) (fld 4 13 w) (fld 4 9 w)) else none
  | 8 => if bits w 26 25 = 0 ∧ bits w 8 0 = 0 then some (.cred (fld 1 24 w) (fld 1 23 w) (fld 6 17 w) (fld 4 13 w) (fld 4 9 w)) else none
  | 9 => if bits w 26 25 = 0 ∧ bits w 4 0 = 0 then some (.cldm (fld 1 24 w) (fld 1 23 w) (fld 6 17 w) (fld 4 13 w) (fld 6 7 w) (fld 2 5 w) (fld 32 32 w)) else none
  | 10 => if bits w 23 17 = 0 then some (.cwt (fld 1 26 w) (fld 1 25 w) (fld 1 24 w) (fld 3 14 w) (fld 6 8 w) (fld 8 0 w)) else none
  | 11 => if bits w 23 17 = 0 then some (.cadv (fld 1 26 w) (fld 1 25 w) (fld 1 24 w) (fld 3 14 w) (fld 6 8 w) (fld 8 0 w)) else none
  | 12 => if bits w 26 25 = 0 ∧ bits w 23 17 = 0 then some (.cmark (fld 1 24 w) (fld 1 16 w) (fld 16 0 w)) else none
  | 30 => if bits w 23 17 = 0 ∧ bits w 13 0 = 0 then some (.cnop (fld 1 26 w) (fld 1 25 w) (fld 1 24 w) (fld 3 14 w)) else none
  | 31 => if bits w 26 25 = 0 ∧ bits w 23 0 = 0 then some (if bits w 24 24 = 1 then .chaltS else .chalt) else none
  | _ => none

/-- The decoder of the Rink core: the custom-0 words (R156) and every other RV64GC word (R281). -/
def decodeRinkRaw (w : Nat) : Option Instr :=
  if bits w 6 0 = 11 then
    match bits w 14 12 with
    | 0 => if bits w 31 25 = 0 ∧ bits w 24 20 = 0 then some (.mbRecv (fld 5 15 w) (fld 5 7 w)) else none
    | 1 => if bits w 31 25 = 0 ∧ bits w 11 7 = 0 then some (.mbSend (fld 5 20 w) (fld 5 15 w)) else none
    | 2 => if bits w 31 25 = 0 ∧ bits w 24 20 = 0 ∧ bits w 19 15 = 0 then some (.mbPoll (fld 5 7 w)) else none
    | 3 => if bits w 31 25 = 0 ∧ bits w 24 20 = 0 ∧ bits w 19 15 = 0 ∧ bits w 11 7 = 0 then some .epStep else none
    | 4 => if bits w 31 25 = 0 ∧ bits w 24 20 = 0 ∧ bits w 11 7 = 0 then some (.epExit (fld 5 15 w)) else none
    | _ => none
  else some (.rv64gc (fld 32 0 w))

/-- The word `w` as a unit of class `c` decodes it. -/
def decode (c : Cls) (w : Nat) : Option Instr :=
  (match c with
    | .ctl => decodeCtlRaw w
    | .vec => decodeVecRaw w
    | .mat => decodeMatRaw w
    | .copy => decodeCopyRaw w
    | .rink => decodeRinkRaw w
    | .event => none).filter Instr.wf

/-- The value `v` of a field placed at bit `lo`. -/
def put {k : Nat} (v : BitVec k) (lo : Nat) : Nat := v.toNat * 2 ^ lo

/-- The word of an instruction, from the tables of R145-R156; a step without a word has none. -/
def encode (i : Instr) : Option Nat :=
  match i with
  | .add d s t => some (0x4000000 + put d 21 + put s 16 + put t 11)
  | .sub d s t => some (0x4000001 + put d 21 + put s 16 + put t 11)
  | .and d s t => some (0x4000002 + put d 21 + put s 16 + put t 11)
  | .or d s t => some (0x4000003 + put d 21 + put s 16 + put t 11)
  | .xor d s t => some (0x4000004 + put d 21 + put s 16 + put t 11)
  | .andn d s t => some (0x4000005 + put d 21 + put s 16 + put t 11)
  | .sll d s t => some (0x4000006 + put d 21 + put s 16 + put t 11)
  | .srl d s t => some (0x4000007 + put d 21 + put s 16 + put t 11)
  | .sra d s t => some (0x4000008 + put d 21 + put s 16 + put t 11)
  | .ror d s t => some (0x4000009 + put d 21 + put s 16 + put t 11)
  | .mul d s t => some (0x400000a + put d 21 + put s 16 + put t 11)
  | .mulh d s t => some (0x400000b + put d 21 + put s 16 + put t 11)
  | .mulhu d s t => some (0x400000c + put d 21 + put s 16 + put t 11)
  | .div d s t => some (0x400000d + put d 21 + put s 16 + put t 11)
  | .divu d s t => some (0x400000e + put d 21 + put s 16 + put t 11)
  | .rem d s t => some (0x400000f + put d 21 + put s 16 + put t 11)
  | .remu d s t => some (0x4000010 + put d 21 + put s 16 + put t 11)
  | .min d s t => some (0x4000011 + put d 21 + put s 16 + put t 11)
  | .max d s t => some (0x4000012 + put d 21 + put s 16 + put t 11)
  | .minu d s t => some (0x4000013 + put d 21 + put s 16 + put t 11)
  | .maxu d s t => some (0x4000014 + put d 21 + put s 16 + put t 11)
  | .adds d s t => some (0x4000015 + put d 21 + put s 16 + put t 11)
  | .subs d s t => some (0x4000016 + put d 21 + put s 16 + put t 11)
  | .clz d s => some (0x4000017 + put d 21 + put s 16)
  | .ctz d s => some (0x4000018 + put d 21 + put s 16)
  | .popc d s => some (0x4000019 + put d 21 + put s 16)
  | .sext8 d s => some (0x400001a + put d 21 + put s 16)
  | .sext16 d s => some (0x400001b + put d 21 + put s 16)
  | .sext32 d s => some (0x400001c + put d 21 + put s 16)
  | .zext32 d s => some (0x400001d + put d 21 + put s 16)
  | .movf d f => some (0x400001e + put d 21 + put f 11)
  | .movb d b => some (0x400001f + put d 21 + put b 11)
  | .addi d s i => some (0x8000000 + put d 21 + put s 16 + put i 0)
  | .andi d s i => some (0xc000000 + put d 21 + put s 16 + put i 0)
  | .ori d s i => some (0x10000000 + put d 21 + put s 16 + put i 0)
  | .xori d s i => some (0x14000000 + put d 21 + put s 16 + put i 0)
  | .slli d s h => some (0x18000000 + put d 21 + put s 16 + put h 0)
  | .srli d s h => some (0x18004000 + put d 21 + put s 16 + put h 0)
  | .srai d s h => some (0x18008000 + put d 21 + put s 16 + put h 0)
  | .rori d s h => some (0x1800c000 + put d 21 + put s 16 + put h 0)
  | .li d i => some (0x1c000000 + put d 21 + put i 0)
  | .lih d i => some (0x20000000 + put d 21 + put i 0)
  | .muli d s i => some (0x24000000 + put d 21 + put s 16 + put i 0)
  | .cmp f c s t => some (0x28000000 + put f 23 + put c 19 + put s 14 + put t 9)
  | .cmpi f c s i => some (0x2c000000 + put f 23 + put c 19 + put s 14 + put i 0)
  | .prep b o => some (0x30000000 + put b 23 + put o 0)
  | .xfer b f => some (0x34000000 + put b 23 + put f 20)
  | .xferN b f => some (0x34080000 + put b 23 + put f 20)
  | .xferA b => some (0x34040000 + put b 23)
  | .xferL b f n a t => some (0x34010000 + put b 23 + put f 20 + put n 19 + put a 18 + put t 11)
  | .xferR f n a t => some (0x34020000 + put f 20 + put n 19 + put a 18 + put t 11)
  | .vany f p => some (0x38000000 + put f 23 + put p 19)
  | .vall f p => some (0x38400000 + put f 23 + put p 19)
  | .flagAnd d a b => some (0x3c000000 + put d 23 + put a 20 + put b 17)
  | .flagOr d a b => some (0x3c000001 + put d 23 + put a 20 + put b 17)
  | .flagXor d a b => some (0x3c000002 + put d 23 + put a 20 + put b 17)
  | .flagAndn d a b => some (0x3c000003 + put d 23 + put a 20 + put b 17)
  | .flagNot d a => some (0x3c000004 + put d 23 + put a 20)
  | .flagSet d v => some (0x3c000005 + put d 23 + put v 16)
  | .ld d b z o => some (0x40000000 + put d 21 + put b 16 + put z 14 + put o 0)
  | .st d b z o => some (0x44000000 + put d 21 + put b 16 + put z 14 + put o 0)
  | .ldl d b z o => some (0x48000000 + put d 21 + put b 16 + put z 14 + put o 0)
  | .stl d b z o => some (0x4c000000 + put d 21 + put b 16 + put z 14 + put o 0)
  | .lda d b z o => some (0x50000000 + put d 21 + put b 16 + put z 14 + put o 0)
  | .sta d b z o => some (0x54000000 + put d 21 + put b 16 + put z 14 + put o 0)
  | .ldc d b o => some (0x58008000 + put d 21 + put b 16 + put o 0)
  | .ldcNowait d b o => some (0x5800c000 + put d 21 + put b 16 + put o 0)
  | .pref b z o => some (0x5c000000 + put b 16 + put z 14 + put o 0)
  | .atom d b t o w f r s => some (0x60000000 + put d 21 + put b 16 + put t 11 + put o 7 + put w 6 + put f 5 + put r 3 + put s 0)
  | .acas d b t w f r s => some (0x64000000 + put d 21 + put b 16 + put t 11 + put w 6 + put f 5 + put r 3 + put s 0)
  | .mkdep g b => some (0x68000000 + put g 21 + put b 16)
  | .mkrdT g b m f => some (0x68800000 + put g 21 + put b 16 + put m 8 + put f 5)
  | .mkrdW b m r => some (0x69200000 + put b 16 + put m 8 + put r 0)
  | .mktakeT g b m f => some (0x69800000 + put g 21 + put b 16 + put m 8 + put f 5)
  | .mktakeW b m r => some (0x6a200000 + put b 16 + put m 8 + put r 0)
  | .gets d n => some (0x6c000000 + put d 21 + put n 0)
  | .sets s n => some (0x70000000 + put s 16 + put n 0)
  | .forkVec h e => some (0x80000000 + put h 23 + put e 0)
  | .forkMat h k e => some (0x81000000 + put h 23 + put k 18 + put e 0)
  | .forkCopy h k e => some (0x82000000 + put h 23 + put k 18 + put e 0)
  | .mark s n q => some (0x84000000 + put s 21 + put n 20 + put q 0)
  | .rdvSet v s q => some (0x88000000 + put v 21 + put s 16 + put q 0)
  | .rdvWait v => some (0x89000000 + put v 21)
  | .rdvTest v f => some (0x8a000000 + put v 21 + put f 13)
  | .qdrop s q => some (0x8c000000 + put s 21 + put q 0)
  | .twaitAny s => some (0x90000000 + put s 13)
  | .twaitAll s => some (0x90800000 + put s 13)
  | .tffr d s => some (0x91000000 + put d 18 + put s 13)
  | .tcancel s => some (0x91800000 + put s 13)
  | .rset c s => some (0x94000000 + put c 16 + put s 6)
  | .rclaim c d s => some (0x94400000 + put c 16 + put d 11 + put s 6)
  | .rdone c s => some (0x94800000 + put c 16 + put s 6)
  | .rwaitf c s => some (0x94c00000 + put c 16 + put s 6)
  | .rwaite c s => some (0x95000000 + put c 16 + put s 6)
  | .radv c s => some (0x95400000 + put c 16 + put s 6)
  | .rget c d s => some (0x95800000 + put c 16 + put d 11 + put s 6)
  | .phase r => some (0x98000000 + put r 16)
  | .fenceX x y s => some (0x9c000000 + put x 20 + put y 14 + put s 11)
  | .waitc s t m c => some (0xa0000000 + put s 16 + put t 11 + put m 6 + put c 0)
  | .signalSet s t => some (0xa4000000 + put s 16 + put t 11)
  | .signalAdd s t => some (0xa4000001 + put s 16 + put t 11)
  | .leaseW d m q => some (0xa8000000 + put d 18 + put m 13 + put q 0)
  | .leaseT d q => some (0xa8800000 + put d 18 + put q 0)
  | .leasecW d m c => some (0xa9000000 + put d 18 + put m 13 + put c 3)
  | .leasecT d c => some (0xa9800000 + put d 18 + put c 3)
  | .unlease s => some (0xaa000000 + put s 13)
  | .split p => some (0xac000000 + put p 0)
  | .kick s => some (0xb0000000 + put s 16)
  | .mbact s t => some (0xb4000000 + put s 14 + put t 9)
  | .mbobsW s t m => some (0xb5000000 + put s 14 + put t 9 + put m 4)
  | .mbobsT d s t => some (0xb6000000 + put d 19 + put s 14 + put t 9)
  | .strm q s => some (0xb8000000 + put q 22 + put s 16)
  | .txset t s p => some (0xbc000000 + put t 22 + put s 16 + put p 0)
  | .txsetM t s => some (0xbc008000 + put t 22 + put s 16)
  | .cvset v s => some (0xc0000000 + put v 23 + put s 16)
  | .deadA s c => some (0xc4000000 + put s 16 + put c 0)
  | .deadW s c => some (0xc6000000 + put s 16 + put c 0)
  | .yield => some (0xc8000000)
  | .exit => some (0xc8000001)
  | .trap c => some (0xcc000000 + put c 0)
  | .eret s t => some (0xf8000000 + put s 16 + put t 11)
  | .ctxsv d s t => some (0xf8000001 + put d 21 + put s 16 + put t 11)
  | .ctxld d s t => some (0xf8000002 + put d 21 + put s 16 + put t 11)
  | .accspill d s t => some (0xf8000003 + put d 21 + put s 16 + put t 11)
  | .keyld d s t => some (0xf8000004 + put d 21 + put s 16 + put t 11)
  | .wdog s => some (0xf8000005 + put s 16)
  | .vadd d a b x y g => some (0x4000000 + put d 19 + put a 12 + put b 5 + put x 4 + put y 3 + put g 0)
  | .vsub d a b x y g => some (0x8000000 + put d 19 + put a 12 + put b 5 + put x 4 + put y 3 + put g 0)
  | .vmul d a b x y g => some (0xc000000 + put d 19 + put a 12 + put b 5 + put x 4 + put y 3 + put g 0)
  | .vfma d a b x y g => some (0x10000000 + put d 19 + put a 12 + put b 5 + put x 4 + put y 3 + put g 0)
  | .vadds d a b x y g => some (0x14000000 + put d 19 + put a 12 + put b 5 + put x 4 + put y 3 + put g 0)
  | .vsubs d a b x y g => some (0x18000000 + put d 19 + put a 12 + put b 5 + put x 4 + put y 3 + put g 0)
  | .vmin d a b x y g => some (0x1c000000 + put d 19 + put a 12 + put b 5 + put x 4 + put y 3 + put g 0)
  | .vmax d a b x y g => some (0x20000000 + put d 19 + put a 12 + put b 5 + put x 4 + put y 3 + put g 0)
  | .vmulh d a b x y g => some (0x24000000 + put d 19 + put a 12 + put b 5 + put x 4 + put y 3 + put g 0)
  | .vand d a b x y g => some (0x28000000 + put d 19 + put a 12 + put b 5 + put x 4 + put y 3 + put g 0)
  | .vor d a b x y g => some (0x2c000000 + put d 19 + put a 12 + put b 5 + put x 4 + put y 3 + put g 0)
  | .vxor d a b x y g => some (0x30000000 + put d 19 + put a 12 + put b 5 + put x 4 + put y 3 + put g 0)
  | .vshl d a b x y g => some (0x34000000 + put d 19 + put a 12 + put b 5 + put x 4 + put y 3 + put g 0)
  | .vshr d a b x y g => some (0x38000000 + put d 19 + put a 12 + put b 5 + put x 4 + put y 3 + put g 0)
  | .vhash d a b x y g => some (0x3c000000 + put d 19 + put a 12 + put b 5 + put x 4 + put y 3 + put g 0)
  | .vceq d a b x y g => some (0x40000000 + put d 19 + put a 12 + put b 5 + put x 4 + put y 3 + put g 0)
  | .vcne d a b x y g => some (0x44000000 + put d 19 + put a 12 + put b 5 + put x 4 + put y 3 + put g 0)
  | .vclt d a b x y g => some (0x48000000 + put d 19 + put a 12 + put b 5 + put x 4 + put y 3 + put g 0)
  | .vcle d a b x y g => some (0x4c000000 + put d 19 + put a 12 + put b 5 + put x 4 + put y 3 + put g 0)
  | .vcgt d a b x y g => some (0x50000000 + put d 19 + put a 12 + put b 5 + put x 4 + put y 3 + put g 0)
  | .vcge d a b x y g => some (0x54000000 + put d 19 + put a 12 + put b 5 + put x 4 + put y 3 + put g 0)
  | .vsel d a b x y g => some (0x58000000 + put d 19 + put a 12 + put b 5 + put x 4 + put y 3 + put g 0)
  | .vmov d a x g => some (0x5c000000 + put d 19 + put a 12 + put x 4 + put g 0)
  | .vcvt d a m t x g => some (0x60000000 + put d 19 + put a 12 + put m 9 + put t 5 + put x 4 + put g 0)
  | .vqnt d a m t x g => some (0x64000000 + put d 19 + put a 12 + put m 9 + put t 5 + put x 4 + put g 0)
  | .vdq d a b x y g => some (0x68000000 + put d 19 + put a 12 + put b 5 + put x 4 + put y 3 + put g 0)
  | .vaddi d a i g => some (0x80000000 + put d 19 + put a 12 + put i 3 + put g 0)
  | .vmuli d a i g => some (0x84000000 + put d 19 + put a 12 + put i 3 + put g 0)
  | .vandi d a i g => some (0x88000000 + put d 19 + put a 12 + put i 3 + put g 0)
  | .vori d a i g => some (0x8c000000 + put d 19 + put a 12 + put i 3 + put g 0)
  | .vxori d a i g => some (0x90000000 + put d 19 + put a 12 + put i 3 + put g 0)
  | .vshli d a i g => some (0x94000000 + put d 19 + put a 12 + put i 3 + put g 0)
  | .vshri d a i g => some (0x98000000 + put d 19 + put a 12 + put i 3 + put g 0)
  | .vsplat d i g => some (0x9c000000 + put d 19 + put i 3 + put g 0)
  | .vmini d a i g => some (0xa0000000 + put d 19 + put a 12 + put i 3 + put g 0)
  | .vmaxi d a i g => some (0xa4000000 + put d 19 + put a 12 + put i 3 + put g 0)
  | .vlda d a o g => some (0xc0000000 + put d 19 + put a 12 + put o 5 + put g 0)
  | .vsta d a o x g => some (0xc4000000 + put d 19 + put a 12 + put o 5 + put x 4 + put g 0)
  | .vldc d a o g => some (0xc8000000 + put d 19 + put a 12 + put o 5 + put g 0)
  | .vldcNowait d a o g => some (0xc8000008 + put d 19 + put a 12 + put o 5 + put g 0)
  | .vstc d a o x g => some (0xcc000000 + put d 19 + put a 12 + put o 5 + put x 4 + put g 0)
  | .vgath d a b g => some (0xd0000000 + put d 19 + put a 12 + put b 5 + put g 0)
  | .vscat d a b x g => some (0xd4000000 + put d 19 + put a 12 + put b 5 + put x 4 + put g 0)
  | .vatom d a o f g => some (0xd8000000 + put d 19 + put a 12 + put o 8 + put f 7 + put g 0)
  | .vperm d a b x y g => some (0xdc000000 + put d 19 + put a 12 + put b 5 + put x 4 + put y 3 + put g 0)
  | .vshuf d a k h g => some (0xe0000000 + put d 19 + put a 12 + put k 9 + put h 3 + put g 0)
  | .vred d a p x g => some (0xe4000000 + put d 19 + put a 12 + put p 9 + put x 4 + put g 0)
  | .vscan d a p x g => some (0xe8000000 + put d 19 + put a 12 + put p 9 + put x 4 + put g 0)
  | .vplog d a o b g => some (0xec000000 + put d 19 + put a 12 + put o 9 + put b 5 + put g 0)
  | .vhalt => some (0xf0000000)
  | .vfl f l v => some (0xf4000000 + put f 25 + put l 24 + put v 21)
  | .exp2 d a x g => some (0xfc000000 + put d 19 + put a 12 + put x 4 + put g 0)
  | .log2 d a x g => some (0xfc000020 + put d 19 + put a 12 + put x 4 + put g 0)
  | .rcp d a x g => some (0xfc000040 + put d 19 + put a 12 + put x 4 + put g 0)
  | .rsq d a x g => some (0xfc000060 + put d 19 + put a 12 + put x 4 + put g 0)
  | .vabs d a x g => some (0xfc000080 + put d 19 + put a 12 + put x 4 + put g 0)
  | .vneg d a x g => some (0xfc0000a0 + put d 19 + put a 12 + put x 4 + put g 0)
  | .vclz d a x g => some (0xfc0000c0 + put d 19 + put a 12 + put x 4 + put g 0)
  | .vpopc d a x g => some (0xfc0000e0 + put d 19 + put a 12 + put x 4 + put g 0)
  | .mma f l h v a b s m => some (0x8000000 + put f 26 + put l 25 + put h 24 + put v 21 + put a 17 + put b 13 + put s 2 + put m 0)
  | .conv f l h v c a b m k => some (0x10000000 + put f 26 + put l 25 + put h 24 + put v 21 + put c 18 + put a 14 + put b 10 + put m 8 + put k 0)
  | .accz f l v n s => some (0x18000000 + put f 26 + put l 25 + put v 21 + put n 13 + put s 2)
  | .accmv f l v q c s => some (0x20000000 + put f 26 + put l 25 + put v 21 + put q 17 + put c 16 + put s 2)
  | .swait f l v q n => some (0x28000000 + put f 26 + put l 25 + put v 21 + put q 17 + put n 0)
  | .sadv f l v q n => some (0x30000000 + put f 26 + put l 25 + put v 21 + put q 17 + put n 0)
  | .smark f l v n m => some (0x38000000 + put f 26 + put l 25 + put v 21 + put n 16 + put m 0)
  | .linkcfg f l v k c m q => some (0x40000000 + put f 26 + put l 25 + put v 21 + put k 18 + put c 17 + put m 14 + put q 10)
  | .wld f l v b => some (0x48000000 + put f 26 + put l 25 + put v 21 + put b 13)
  | .accld f l v q s => some (0x50000000 + put f 26 + put l 25 + put v 21 + put q 17 + put s 2)
  | .srst f l v q => some (0x58000000 + put f 26 + put l 25 + put v 21 + put q 17)
  | .matNop f l v => some (0xf0000000 + put f 26 + put l 25 + put v 21)
  | .matHalt => some (0xf8000000)
  | .cld f l e t x v g b => some (0x8000000 + put f 26 + put l 25 + put e 24 + put t 23 + put x 17 + put v 14 + put g 10 + put b 3)
  | .cldRing f l e t x v g c => some (0x8000200 + put f 26 + put l 25 + put e 24 + put t 23 + put x 17 + put v 14 + put g 10 + put c 3)
  | .cst f l e t x v g b => some (0x10000000 + put f 26 + put l 25 + put e 24 + put t 23 + put x 17 + put v 14 + put g 10 + put b 3)
  | .cstRing f l e t x v g c => some (0x10000200 + put f 26 + put l 25 + put e 24 + put t 23 + put x 17 + put v 14 + put g 10 + put c 3)
  | .cstq e t x g b m y => some (0x18000000 + put e 24 + put t 23 + put x 17 + put g 13 + put b 9 + put m 6 + put y 4)
  | .cmc e t x a b k => some (0x20000000 + put e 24 + put t 23 + put x 17 + put a 13 + put b 9 + put k 1)
  | .cga e t x g i b => some (0x28000000 + put e 24 + put t 23 + put x 17 + put g 13 + put i 9 + put b 5)
  | .csc e t x g i b => some (0x30000000 + put e 24 + put t 23 + put x 17 + put g 13 + put i 9 + put b 5)
  | .crw e t x a b => some (0x38000000 + put e 24 + put t 23 + put x 17 + put a 13 + put b 9)
  | .cred e t x a b => some (0x40000000 + put e 24 + put t 23 + put x 17 + put a 13 + put b 9)
  | .cldm e t x g c k follow => some (0x48000000 + put e 24 + put t 23 + put x 17 + put g 13 + put c 7 + put k 5 + put follow 32)
  | .cwt f l e v c n => some (0x50000000 + put f 26 + put l 25 + put e 24 + put v 14 + put c 8 + put n 0)
  | .cadv f l e v c n => some (0x58000000 + put f 26 + put l 25 + put e 24 + put v 14 + put c 8 + put n 0)
  | .cmark e n m => some (0x60000000 + put e 24 + put n 16 + put m 0)
  | .cnop f l e v => some (0xf0000000 + put f 26 + put l 25 + put e 24 + put v 14)
  | .chalt => some 0xf8000000
  | .chaltS => some 0xf9000000
  | .mbRecv s d => some (0xb + put s 15 + put d 7)
  | .mbSend t s => some (0x100b + put t 20 + put s 15)
  | .mbPoll d => some (0x200b + put d 7)
  | .epStep => some (0x300b)
  | .epExit s => some (0x400b + put s 15)
  | .rv64gc w => some w.toNat
  | .stepBudget _ _ => none
  | .quantumExpiry _ => none
  | .episodeArm _ _ => none
  | .episodeCancel _ _ => none
  | .episodePlace _ => none
  | .epres _ _ => none
  | .eptbaseWrite _ _ => none
  | .eptcntWrite _ _ => none
  | .polupd _ _ => none
  | .taskDispatch _ _ => none
  | .stealAck _ => none
  | .stealWithdraw _ => none
  | .stealTimeout _ => none
  | .stealRecovery _ _ => none
  | .lotComplete _ _ => none
  | .continuationEnqueue _ => none
  | .postedAbort _ _ => none
  | .nodeKill _ => none
  | .postedFault _ _ => none
  | .stallLimit _ _ => none
  | .yieldExpiry _ _ => none
  | .allocatorDecision _ => none
  | .classAging _ => none
  | .wholeHold _ => none
  | .planChange _ => none
  | .fragmentDrained _ _ => none
  | .engineCommandStart _ _ => none
  | .passRetire _ _ => none
  | .weightLoadComplete _ _ => none
  | .copyStepComplete _ _ _ => none
  | .cldmFollowOn _ _ _ => none
  | .programRetire _ _ => none
  | .markerRetire _ _ => none
  | .accForeign _ _ _ => none
  | .accrel _ => none
  | .faultres _ _ => none
  | .mkFullRetry _ _ => none
  | .writeback _ => none
  | .hostMemAccess _ _ _ _ => none
  | .queueKick _ _ => none
  | .queueCancel _ _ _ => none
  | .queueCtlWrite _ _ _ => none
  | .verselWrite _ _ => none
  | .noderel _ _ => none
  | .registerWrite _ _ _ _ => none
  | .packetAccept _ => none
  | .packetLaunchGraph _ _ _ _ _ _ => none
  | .packetSignal _ _ _ _ _ _ => none
  | .packetWait _ _ _ _ _ _ => none
  | .packetCopy _ _ _ _ _ _ => none
  | .packetMarker _ _ _ _ _ => none
  | .nodeLaunch _ => none
  | .nodeComplete _ => none
  | .sliceTurnEnd _ => none
  | .tableLoad _ => none
  | .tableEntry _ => none
  | .tableClear _ => none
  | .tableMigrate _ => none
  | .owncmd _ => none
  | .sealRotate _ => none
  | .sealReseal _ => none
  | .sealRetire _ => none
  | .sealZero _ => none
  | .gateBind _ => none
  | .gateUnbind _ => none
  | .gateRead _ => none
  | .tblRead _ => none
  | .tblWrite _ => none
  | .rwSet _ => none
  | .rwClear _ => none
  | .rwRepoint _ => none
  | .remoteAccess _ _ _ _ _ _ => none
  | .remoteAtom _ _ _ _ _ _ _ => none
  | .crwArrival _ _ _ => none
  | .reductionContribution _ _ _ _ _ => none
  | .roundTimeout _ _ _ => none
  | .memberLost _ _ _ => none
  | .fabricTimeout _ => none
  | .movedReply _ => none
  | .linkUp _ _ => none
  | .corecfgWrite _ _ => none
  | .vfbindWrite _ _ => none
  | .migTrack _ => none
  | .migFreeze _ => none
  | .migCopy _ => none
  | .migSave _ => none
  | .migLoad _ => none
  | .migResume _ => none
  | .migAbort _ => none
  | .evctlWrite _ _ => none
  | .pcSample _ => none
  | .fwuctlGo _ => none
  | .spdmGetVersion _ => none
  | .spdmGetCapabilities _ => none
  | .spdmNegotiateAlgorithms _ _ => none
  | .spdmGetDigests _ => none
  | .spdmGetCertificate _ _ => none
  | .spdmChallenge _ _ => none
  | .spdmGetMeasurements _ _ => none
  | .spdmKeyExchange _ _ => none
  | .spdmFinish _ => none
  | .spdmEndSession _ => none
  | .spdmUnsupported _ _ => none
  | .tagParity _ _ _ _ => none
  | .memUe _ _ _ _ => none
  | .watchdog _ => none
  | .governorEvaluation => none
  | .thermalTrip => none
  | .packageReset => none
  | .packetComplete _ _ _ => none

/-- The class whose decoder `decodeTableWord` asks for a word: the first of control core, vector engine, fragment, copy engine and
Rink core that decodes it. The instruction sets share their words (07), so this order decides where several decode it. -/
def tableClass (w : Nat) : Option Cls :=
  [Cls.ctl, .vec, .mat, .copy, .rink].find? fun c => (decode c w).isSome

/-- The instruction read from a word numbered as the opcode table numbers it: the words of the device are 32 bits, little-endian
(00 R6), so bits 31:0 are the first word and bits 63:32 the second (of a CLDM). -/
def decodeTableWord (nbits w : Nat) : Option Instr :=
  if nbits ≤ 64 ∧ w < 2 ^ 64 then
    match tableClass w with
    | some c => decode c w
    | none => none
  else none

end Sys2Proof
end

