-- ==== Sys2Proof/Machine/Life.lean ====
section
/-!
DEFINITION. The steps of a task's life without a word of their own: dispatch and splits (02 R36, R37, 23 R385), completion of a lot
(R52), continuations (R41), aborts, kills and faults taken at a boundary (R42, R376, R386), stall limits and yields (R38, R200).
-/

namespace Sys2Proof.Machine

/-! ## Ends of tasks, nodes and cancels -/

def TaskState.ended (s : TaskState) : Bool :=
  decide (s = .done) || decide (s = .cancelled) || decide (s = .cancelledRunning) || decide (s = .killed)

/-- A node whose tasks have all ended completes, once (R52); its front end counts the completion for its graph (R353). -/
def State.nodeTick (σ : State) (n : Nat) : State :=
  let nd := σ.nodeOf n
  if nd.finished ∨ !σ.nodeEnded n then σ else σ.setNode n { nd with finished := true }

/-- The CANCELLED notice of a queue, once every lot of the queue has ended (R352). -/
def State.settleQueue (σ : State) (vf q : Nat) : State :=
  let x := σ.queueOf vf q
  match x.cancelAt with
  | none => σ
  | some idx =>
    if σ.tasks.all fun (p : Nat × Task) =>
        let nd := σ.nodeOf p.2.node
        decide (nd.vf ≠ vf) || decide (nd.queue ≠ q) || p.2.state.ended
    then (σ.setQueue vf q { x with cancelAt := none }).notice vf 6 q 0xFFFF idx
    else σ

/-- What follows the end of a task: its node and its queue. -/
def State.afterTask (σ : State) (t : Nat) : State :=
  let n := (σ.taskOf t).node
  let σ := σ.nodeTick n
  σ.settleQueue (σ.nodeOf n).vf (σ.nodeOf n).queue

/-- The slot a task stands in, if it stands in one. -/
def State.slotOf (σ : State) (t : Nat) : Option (Nat × Nat) :=
  (List.find? (fun (p : Nat × Ctx) => decide (p.2.task = some t)) σ.ctxs).map fun p => (p.1 / 8, p.1 % 8)

/-- The end of a task that is not running (R42): a tuple taken for it goes back, its registrations are withdrawn, a message that goes back
to its gate is for the next that waits there (R289); a slot it still stands in is freed, with its units and its slabs (R308). -/
def State.dropTask (σ : State) (t : Nat) (st : TaskState) : State :=
  let gate := ((σ.taskOf t).cont.bind Area.msg).map (·.1)
  let σ := (σ.mkWithdraw t).endTask t st
  let σ := match gate with
    | some g => σ.serveGate g
    | none => σ
  let σ := match σ.slotOf t with
    | some (c, k) => (((σ.haltEngines c k).returnLeases c k).recode c k 7 none).freeSlot c k
    | none => σ
  σ.afterTask t

/-- A kill or cancel reaches a task in whatever state it holds (R42): for a running one it is posted, and acts at the slot's next boundary
(R376). -/
def State.endAny (σ : State) (t : Nat) (other : TaskState) (post : Ctx → Ctx) : State :=
  let tk := σ.taskOf t
  if tk.state.ended then σ
  else if tk.state = .running then
    match σ.slotOf t with
    | some (c, k) => (σ.setCtx c k (post (σ.ctxOf c k))).push (.postedAbort c k)
    | none => σ.dropTask t other
  else σ.dropTask t other

/-- NODE_KILL (R42): every other task of a killed node ends KILLED; a parked Market request is withdrawn (R215). -/
def execNodeKill (n : Nat) (σ : State) : Out :=
  let nd := σ.nodeOf n
  let mine := (σ.tasks.filter fun (p : Nat × Task) => decide (p.2.node = n)).map (·.1)
  let σ := mine.foldl (fun σ t => σ.endAny t .killed fun x => { x with postedKill := some nd.cause }) σ
  .next ((σ.nodeTick n).settleQueue nd.vf nd.queue)

/-- A posted abort or kill can act: no trap holds the slot, and no posted fault goes before it (R376). A trap that the host is to be asked
about is never released. -/
def Ctx.endNow (c : Ctx) : Bool :=
  (c.postedAbort.isSome || c.postedKill.isSome) && (c.stopping = some .held || (c.stopped.isNone && c.posted.isEmpty))
/-- POSTED_ABORT (R42, R376, R386): at the boundary the lot on the slot is discarded: of a killed node KILLED, of a cancelled queue
CANCELLED_RUNNING. -/
def execPostedAbort (core slot : Nat) (σ : State) : Out :=
  let c := σ.ctxOf core slot
  match c.task with
  | some t =>
    .next (if c.endNow then (σ.discardLot core slot (if c.postedKill.isSome then .killed else .cancelledRunning)).afterTask t else σ)
  | none => .next σ

/-! ## Dispatch (R36) -/

/-- The partition a VF is bound to (R407). -/
def State.vfPart (σ : State) (vf : Nat) : Option Nat :=
  let v := (σ.reg 0 (0x5100 + 8 * (vf - 1))).toNat
  if vf ≠ 0 ∧ v.testBit 8 then some (v % 32) else none
def State.boundVfs (σ : State) (p : Nat) : List Nat := (List.range 64).filterMap fun i => if σ.vfPart (i + 1) = some p then some (i + 1) else none
def State.turnOf (σ : State) (p : Nat) : Turn := Tbl.get σ.partTurn {} p

/-- A VF runs on a core: its partition holds the core in service (R407). -/
def State.mayRun (σ : State) (core vf : Nat) : Bool :=
  (σ.coreOf core).enabled && decide (σ.vfPart vf = some (σ.partOf core))

/-- A continuation of a VF that is not in turn stays pooled (R409); a frozen VF's tasks stay too (R412). -/
def State.inTurn (σ : State) (p vf : Nat) : Bool :=
  decide ((σ.boundVfs p).length ≤ 1) || decide ((σ.turnOf p).vf = vf)

/-- The bases at which a slot can take a pooled task, none where it cannot. -/
def State.canTake (σ : State) (core slot t : Nat) (cont : Bool) : Option (Nat × Nat) :=
  let tk := σ.taskOf t
  let nd := σ.nodeOf tk.node
  let ok := σ.mayRun core nd.vf && decide (Tbl.get σ.frozen 0 nd.vf < 2) && decide (tk.cont.isSome = cont)
    && (decide (tk.core = none) || decide (tk.core = some core) || !cont)
    && (!cont || decide (tk.state = .saved) || σ.inTurn (σ.partOf core) nd.vf)
  if ok then σ.placeWindows core slot (nd.agran * 65536) nd.wrows else none

def State.firstTake (σ : State) (core slot : Nat) (cont : Bool) : List Nat → Option (Nat × Nat × Nat)
  | [] => none
  | t :: r =>
    match σ.canTake core slot t cont with
    | some (a, w) => some (t, a, w)
    | none => State.firstTake σ core slot cont r

/-- The first lot of a range task starts on a slot whose windows are placed; no byte of another node is left in them (R320). The
slot's weight key is its VF's (R372). -/
def State.startTask (σ : State) (core slot t a w : Nat) : State :=
  let nd := σ.nodeOf (σ.taskOf t).node
  let c := σ.ctxOf core slot
  let σ := σ.setCtx core slot { c with abase := a, wbase := w, asize := nd.agran * 65536, wsize := nd.wrows }
  (σ.clearWindows core slot).startLot core slot t (σ.taskOf t).next

def State.loadKey (σ : State) (core slot vf : Nat) : State :=
  let p := Tbl.get σ.princeKey (0, true) vf
  let k := σ.coreOf core
  σ.setCore core { k with keys := if p.2 then Tbl.set k.keys slot (vf, p.1) else Tbl.del k.keys slot }

/-- Lots of a running task's remainder that can be split off: at least two, no split proposed. -/
def State.splittable (σ : State) (core : Nat) : List (Nat × Nat × Nat) :=
  σ.tasks.filterMap fun (p : Nat × Task) =>
    let tk := p.2
    let nd := σ.nodeOf tk.node
    if tk.state = .running ∧ tk.split = none ∧ tk.next + 2 ≤ tk.hi ∧ !nd.killed ∧ !nd.cancelled ∧ σ.mayRun core nd.vf
      ∧ (tk.core.map (σ.partOf ·)) = some (σ.partOf core) then
      some (p.1, tk.hi - tk.next, (tk.core.getD 0) * 4 + tk.slot)
    else none
/-- The largest remainder, on a tie the lowest core, then slot. -/
def bestSplit : List (Nat × Nat × Nat) → Option (Nat × Nat × Nat)
  | [] => none
  | x :: r =>
    match bestSplit r with
    | none => some x
    | some y => if y.2.1 < x.2.1 ∨ (y.2.1 = x.2.1 ∧ x.2.2 ≤ y.2.2) then some x else some y

/-- A dispatch that meets a cancel wins, and the abort is posted (R42, R386). -/
def State.cancelPosted (σ : State) (core slot t : Nat) : State :=
  if (σ.nodeOf (σ.taskOf t).node).cancelled then
    (σ.setCtx core slot { σ.ctxOf core slot with postedAbort := some 0 }).push (.postedAbort core slot)
  else σ

/-- TASK_DISPATCH (R36): the oldest continuation, the oldest range task, or a split that is proposed to its owner (R37). -/
def execTaskDispatch (core slot : Nat) (σ : State) : Out :=
  if 32 ≤ core ∨ 4 ≤ slot then .fault .noSuchUnit else
  if (σ.ctxOf core slot).task.isSome ∨ !(σ.coreOf core).enabled ∨ (σ.coreOf core).leaving.isSome then .next σ else
  match σ.firstTake core slot true σ.pool with
  | some (t, a, w) =>
    if ((σ.areaOf t).bind fun base => σ.areaBad base ((σ.taskOf t).cont.getD {})).isSome then .next (σ.reloadFails t) else
    let σ := ((σ.poolDel t).loadKey core slot (σ.nodeOf (σ.taskOf t).node).vf).resume core slot t a w
    .next (σ.cancelPosted core slot t)
  | none =>
    match σ.firstTake core slot false σ.pool with
    | some (t, a, w) =>
      let σ := ((σ.poolDel t).startTask core slot t a w).loadKey core slot (σ.nodeOf (σ.taskOf t).node).vf
      .next (σ.cancelPosted core slot t)
    | none =>
      match bestSplit (σ.splittable core) with
      | none => .next σ
      | some (t, m, _) =>
        let tk := σ.taskOf t
        .next ((σ.setTask t { tk with split := some (tk.next + (m + 1) / 2, core, slot, σ.time) }).push (.stealAck t))

/-- STEAL_ACK (R37, R385): the asker acknowledges; the owner keeps [next, s) and the asker starts [s, hi). Where the asking slot has taken
other work by then, has no room for the windows, or may no longer run the VF (R384, R407, R412), the range goes into the pool as a range
task (log 85). -/
def execStealAck (t : Nat) (σ : State) : Out :=
  let tk := σ.taskOf t
  match tk.split with
  | none => .next σ
  | some (s, core, slot, _) =>
    let n := σ.nextTask
    let σ := σ.setTask n { node := tk.node, next := s, hi := tk.hi }
    let σ := { σ.setTask t { tk with hi := s, split := none } with nextTask := n + 1 }
    let nd := σ.nodeOf tk.node
    let may : Bool := (σ.ctxOf core slot).task.isNone && (σ.coreOf core).leaving.isNone && σ.mayRun core nd.vf && decide (Tbl.get σ.frozen (0 : Nat) nd.vf < 2)
    match (if !may then none else σ.placeWindows core slot (nd.agran * 65536) nd.wrows) with
    | some (a, w) => .next ((σ.startTask core slot n a w).loadKey core slot nd.vf)
    | none => .next (σ.poolAdd n)

/-- STEAL_WITHDRAW (R37): the asker withdraws, and the owner has its whole remainder again. -/
def execStealWithdraw (t : Nat) (σ : State) : Out :=
  .next (σ.setTask t { σ.taskOf t with split := none })

/-- STEAL_TIMEOUT (R385): a split not acknowledged after 20,000 ticks is withdrawn. -/
def execStealTimeout (t : Nat) (σ : State) : Out :=
  let tk := σ.taskOf t
  match tk.split with
  | some (_, _, _, at') => .next (if at' + Config.stealTicks ≤ σ.time then σ.setTask t { tk with split := none } else σ)
  | none => .next σ

/-! ## Completion of a lot (R52, R201) -/

/-- An engine of the lot holds up the completion: it has had commands, its last is no retired NOTIFY, and it is not idle. -/
def State.engineBusy (σ : State) (core e : Nat) : Bool :=
  let v := σ.engOf core e
  v.used && !v.notified
    && !(v.queue.isEmpty && v.run.isNone
      && (if e < 4 then true else if e < 8 then (σ.fragOf core (e - 4)).passes.isEmpty else (σ.copyOf core (e - 8)).steps.isEmpty))

/-- The slot's lot is over: its leases return, its slabs are free, its area is released; the lot counts for its node (R52, R308,
R381). A store or a combine that a vector program has made after the commit of EXIT comes to no commit: it is dropped when the slot's
next lot starts or the slot is freed (log 87). -/
def State.closeLot (σ : State) (core slot t : Nat) : State :=
  let σ := (σ.returnLeases core slot).recode core slot 7 none
  let σ := (σ.releaseArea t).freeHeld t
  let σ := σ.setTask t { σ.taskOf t with between := true, spilled := [] }
  let n := (σ.taskOf t).node
  σ.setNode n { σ.nodeOf n with done := (σ.nodeOf n).done + 1 }

/-- LOT_COMPLETE (R42, R52): the completion combiner's step; then the next lot, or the task's end. An owner whose next lot lies at
or above a proposed split holds back (R37). -/
def execLotComplete (core slot : Nat) (σ : State) : Out :=
  let c := σ.ctxOf core slot
  match c.task with
  | none => .next σ
  | some t =>
    if !σ.slotRuns core slot ∨ !c.exited ∨ c.stopped.isSome ∨ c.stopping.isSome ∨ c.posted ≠ [] ∨ (σ.enginesOf core slot).any (σ.engineBusy core) then .next σ else
    let σ := if (σ.taskOf t).between then σ else σ.closeLot core slot t
    let tk := σ.taskOf t
    let limit := match tk.split with
      | some (s, _, _, _) => s
      | none => tk.hi
    if tk.next < limit then .next ((σ.setTask t { tk with between := false }).startLot core slot t tk.next)
    else if tk.split.isSome then .next σ
    else .next (((σ.setTask t { tk with state := .done }).freeSlot core slot).afterTask t)

/-- STEAL_RECOVERY (R385): the owner is lost: its unstarted range is reissued, and the running lot resumes from its last checkpoint. A lot
whose last phase has committed is not run again (R47): it is over. -/
def execStealRecovery (core slot : Nat) (σ : State) : Out :=
  let c := σ.ctxOf core slot
  match c.task with
  | none => .next σ
  | some t =>
    if c.exited then
      let σ := σ.dropLot core slot
      let σ := (if (σ.taskOf t).between then σ else σ.closeLot core slot t).repool t
      .next (((σ.setTask t { σ.taskOf t with state := .done }).freeSlot core slot).afterTask t)
    else .next ((σ.abortLot core slot none).push (.continuationEnqueue t))

/-! ## Continuations (R41, R45) -/

/-- A continuation an abort left in its slot takes an area once one is free (R381). -/
def State.areaAtLast (σ : State) (t : Nat) : Option State :=
  let tk := σ.taskOf t
  let vf := (σ.nodeOf tk.node).vf
  match tk.ctxId, σ.freeArea vf with
  | some _, _ => some σ
  | none, none => none
  | none, some i =>
    let σ := ((σ.takeArea vf i).setTask t { tk with ctxId := some i }).writeArea t
    match σ.slotOf t with
    | some (c, k) => some (σ.freeSlot c k)
    | none => some σ

/-- CONTINUATION_ENQUEUE (R41, R45): a satisfied wait's continuation enters the pool; that of an abort once its page is resident and
an area holds it, and, where its snapshot records leases, once they are granted again. -/
def execContinuationEnqueue (t : Nat) (σ : State) : Out :=
  let tk := σ.taskOf t
  if tk.state = .aborting then
    let vf := (σ.nodeOf tk.node).vf
    if 2 ≤ Tbl.get σ.frozen 0 vf then .next σ else
    let away := match tk.page with
      | none => false
      | some (va, cow) =>
        let e := Tbl.get (σ.lotTable vf).entries 0 (va.toNat / 2 ^ granLog (σ.lotTable vf))
        !(entV e && entRes e && !(cow && entCow e))
    if away then .next σ else
    match σ.areaAtLast t with
    | none => .next σ
    | some σ =>
      let core := (tk.core.orElse fun _ => (List.range 32).find? fun c => σ.mayRun c vf).getD 32
      let a := tk.cont.getD {}
      if a.leaseless then .next ((σ.setTask t { σ.taskOf t with core := if (σ.pinSet core t).isEmpty then none else some core }).enqueueCont t)
      else if 32 ≤ core then .next σ
      else if (σ.coreOf core).reqs.any fun r => decide (r.task = t) then .next σ
      else .next (σ.reLease core t)
  else .next (σ.enqueueCont t)

/-! ## Faults and limits at a boundary -/

/-- The lowest source of a list of posted faults goes first (R376). -/
def firstFault : List FaultRec → Option FaultRec
  | [] => none
  | r :: l =>
    match firstFault l with
    | none => some r
    | some x => if x.src < r.src then some x else some r

/-- POSTED_FAULT (R201, R376): a posted engine fault is taken at the boundary, in SRC order, with the PC of the boundary's word. -/
def execPostedFault (core slot : Nat) (σ : State) : Out :=
  let c := σ.ctxOf core slot
  match firstFault c.posted with
  | none => .next σ
  | some r =>
    if c.stopped.isSome ∨ !σ.slotRuns core slot then .next σ else
    let σ := σ.setCtx core slot { c with posted := c.posted.erase r }
    .next (σ.enterFault core slot { r with pc := c.pc })

/-- STALL_LIMIT (R38, R180): a stall that has reached its limit traps at the stalled instruction. -/
def execStallLimit (core slot : Nat) (σ : State) : Out :=
  let c := σ.ctxOf core slot
  .next (if c.stallLim ≤ c.stall ∧ c.task.isSome ∧ c.stopped.isNone then σ.takeTrap core slot { cause := causeStallLimit } else σ)

/-- YIELD_EXPIRY (R200): the slot is ready again once every slot it waits for has issued a word, or after 64 cycles. -/
def execYieldExpiry (core slot : Nat) (σ : State) : Out :=
  let c := σ.ctxOf core slot
  match c.yieldTo with
  | some (at', l) => .next (if at' ≤ σ.cycle ∨ l = [] then σ.setCtx core slot { c with yieldTo := none } else σ)
  | none => .next σ

end Sys2Proof.Machine
end

