-- ==== Sys2Proof/Machine/Firmware.lean ====
section
/-!
DEFINITION. The firmware words and the services of firmware (23 R374 to R389): ERET, CTXSV, CTXLD, ACCSPILL, KEYLD, WDOG, pre-emption
(02 R57), ACC_FOREIGN with ACCREL (R383), the answer to a held fault (R374), core removal (R384) and the watchdogs (R387).
-/

namespace Sys2Proof.Machine

/-- ERET (R379): a slot stopped by a trap goes on as the action says. -/
def execEret (s t : BitVec 5) (σ : State) : Out :=
  σ.privileged <|
  let slot := (σ.rs s).toNat
  let act := (σ.rs t).toNat
  if 4 ≤ slot ∨ 4 ≤ act ∨ (σ.ctxOf σ.core slot).stopped.isNone then σ.trapWith causeIllegal
  else
    let σ := σ.returnTrap σ.core slot act
    σ.retire σ.cx

/-! ## Pre-emption (R57) -/

/-- A pending save of a slot comes to its boundary once no trap and no posted fault or end holds the slot, every step in progress is
complete and, but for CTXSV's own, an area is free (R57, R376, R381, R422). -/
def State.saveDue (σ : State) (core slot : Nat) : Bool :=
  let c := σ.ctxOf core slot
  (match c.stopping with
   | some .held => false
   | some .tried => false
   | some .ctxsv => true
   | some _ => σ.areaReady core slot
   | none => false)
    && c.task.isSome && c.stopped.isNone && c.posted.isEmpty && !c.endNow && σ.stepsDone core slot

/-- A pending save is carried out. The task of a pre-emption waits for its core and its units; that of a core that is being removed for the
end of the removal. CTXSV saves its slot itself. -/
def State.settleSlot (σ : State) (core slot : Nat) : State :=
  let c := σ.ctxOf core slot
  match c.stopping, c.task with
  | some k, some t =>
    if k = .ctxsv then σ.setCtx core slot { c with stopping := some .tried }
    else
      let σ := (σ.setCtx core slot { c with stopping := none }).saveLot core slot false
      if k = .remove then σ else σ.reSave core t
  | _, _ => σ

/-- The slot is to be pre-empted: it stops at its boundary and its engines at theirs (R57). -/
def State.preemptLot (σ : State) (core slot : Nat) (why : Stop) : State :=
  let c := σ.ctxOf core slot
  if c.task.isNone ∨ c.stopping = some .held then σ
  else σ.setCtx core slot { c with stopping := some why }

/-- The area CTXSV and CTXLD name: its pool index where the address is one of the VF's areas (R381). -/
def State.areaIndex (σ : State) (vf pa : Nat) : Option Nat :=
  let base := (σ.reg 0 (0x3800 + 16 * (vf - 1))).toNat
  let cnt := (σ.reg 0 (0x3808 + 16 * (vf - 1))).toNat
  let size := bits cnt 47 32 * 65536
  if size ≠ 0 ∧ base ≤ pa ∧ (pa - base) % size = 0 ∧ (pa - base) / size < cnt % 65536 then some ((pa - base) / size) else none

/-- The slot's context can be saved by CTXSV (R376, R379): every step in progress is complete, and the word at the boundary has had its
trap, or there is none to try: a trap holds the slot, EXIT has retired, or the task is still SAVED. -/
def State.ctxsvReady (σ : State) (core slot : Nat) : Bool :=
  let c := σ.ctxOf core slot
  σ.stepsDone core slot && (decide (c.stopping = some .tried) || c.stopped.isSome || c.exited || !σ.slotRuns core slot)

/-- CTXSV (R379): pre-empts a slot into the area at s[rt]; rd := 0 where the slot holds no task. It is an interlock until the steps in
progress are complete and the boundary's word has been tried, and no step begins meanwhile. A context whose fault the host is to be asked
about is reported as held (R374). How many bytes it writes is a free value (log 5). -/
def execCtxsv (d s t : BitVec 5) (σ : State) : Out :=
  σ.privileged <|
  let slot := (σ.rs s).toNat
  let a := σ.rs t
  if 4 ≤ slot ∨ !aligned a 65536 then σ.trapWith causeIllegal else
  match (σ.ctxOf σ.core slot).task with
  | none => σ.retireS d 0
  | some k =>
    let c := σ.ctxOf σ.core slot
    if c.stopping = some .held ∨ c.endNow then σ.interlock
    else if !σ.ctxsvReady σ.core slot then
      (σ.setCtx σ.core slot { c with stopping := some (c.stopping.getD .ctxsv) }).interlock
    else
    let vf := σ.vfOf σ.core slot
    let held : Bool := c.stopped.any isFaultService && σ.hostMode vf 2
    let σ := σ.setCtx σ.core slot { c with stopping := none, fault := { c.fault with held := c.fault.held || held } }
    let σ := match (σ.taskOf k).ctxId, σ.areaIndex vf a.toNat with
      | none, some i => (σ.takeArea vf i).setTask k { σ.taskOf k with ctxId := some i }
      | _, _ => σ
    let σ := (σ.setTask k { σ.taskOf k with areaAt := some a.toNat }).saveLot σ.core slot held
    let nd := σ.nodeOf (σ.taskOf k).node
    let σ := if held then σ.notice vf 23 nd.queue nd.index (c.fault.cause + (σ.taskOf k).ctxId.getD 0 * 2 ^ 16) else σ
    σ.tickFresh.retireS d (Config.freeWord σ.fresh)

/-- The task whose context an area holds: saved there by CTXSV, or in the pool area at that address. -/
def State.taskInArea (σ : State) (pa : Nat) : Option Nat :=
  (List.find? (fun (p : Nat × Task) =>
    let tk := p.2
    decide (tk.state = .saved) && (decide (tk.areaAt = some pa)
      || (decide (tk.areaAt = none) && tk.ctxId.isSome && decide (σ.areaIndex (σ.nodeOf tk.node).vf pa = tk.ctxId)))) σ.tasks).map (·.1)

/-- CTXLD (R379, R404): restores a saved context into a free slot and asks for its leases again; rd := 1 where the slot is busy. An
area that holds no saved context is an operand outside its limit (log 11). -/
def execCtxld (d s t : BitVec 5) (σ : State) : Out :=
  σ.privileged <|
  let slot := (σ.rs s).toNat
  let a := σ.rs t
  if 4 ≤ slot ∨ !aligned a 65536 then σ.trapWith causeIllegal
  else if (σ.ctxOf σ.core slot).task.isSome then σ.retireS d 1
  else
    match σ.taskInArea a.toNat with
    | none => σ.trapWith causeIllegal
    | some k =>
      let core := σ.core
      let tk := σ.taskOf k
      let nd := σ.nodeOf tk.node
      let ar := σ.readArea k
      if (σ.areaBad a.toNat ar).isSome then
        let σ := σ.reloadFails k
        σ.retireS d 0
      else
        match σ.placeWindows core slot (nd.agran * 65536) nd.wrows with
        | none => σ.retireS d 1
        | some (ab, wb) =>
          let σ := (σ.setTask k { tk with spilled := σ.readSpilled k, cont := some ar }).poolDel k
          let σ := (σ.loadArea core slot k ab wb ar).moveWaits core slot tk.slot { ar with moved := [] }
          let σ := σ.setTask k { σ.taskOf k with core := some core, slot := slot, areaAt := none, heldFault := false }
          let σ := if tk.core = some core ∨ ar.leaseless then σ
            else (σ.withdrawLeases k).setTask k { σ.taskOf k with cont := some { ar with byShape := true, moved := [] } }
          let mine := (σ.coreOf core).reqs.any fun r => decide (r.task = k)
          let σ := if ar.leaseless ∨ (σ.fragsOf core noSlot).any (fun j => decide ((σ.fragOf core j).lot = some k)) ∨
              (σ.copiesOf core noSlot).any (fun j => decide ((σ.copyOf core j).holder = some k)) then
              let now := (σ.taskOf k).cont.getD {}
              let σ := (σ.bindUnits core slot k now).moveWaits core slot slot now
              if mine then σ else σ.setTask k { σ.taskOf k with state := .running, cont := none }
            else if mine then σ else σ.reLease core k
          σ.retireS d 0

/-! ## Accumulators (R383) -/

/-- A pass in flight on the core writes the slab (R379). -/
def State.passWrites (σ : State) (core slab : Nat) : Bool :=
  [0, 1, 2, 3].any fun k => (σ.fragOf core k).passes.any fun p => !p.applied && p.writes.any fun w => decide (w.slab = slab)

def State.slabData (σ : State) (core slab : Nat) : List (BitVec 32) :=
  (List.range 1024).map fun i => σ.cElem core (slab * 4096 + 4 * i)
def State.fillSlab (σ : State) (core slab : Nat) (l : List (BitVec 32)) : State :=
  (l.zipIdx).foldl (fun σ p => σ.cWrite core (slab * 4096 + 4 * p.2) p.1) (σ.zeroSlab core slab)

/-- ACCSPILL (R379): the slab to memory or from it, or +0.0, then the new code; rd is the old one. The touches of the slab that a
program in the firmware context serves so are over, but while the code is firmware's own (R383). -/
def execAccspill (d s t : BitVec 5) (σ : State) : Out :=
  σ.privileged <|
  let v := (σ.rs s).toNat
  let a := σ.rs t
  let slab := v % 2048
  let code := bits v 18 16
  let load := v.testBit 20
  if 2 ^ 21 ≤ v ∨ bits v 15 11 ≠ 0 ∨ v.testBit 19 ∨ code = 6 ∨ !aligned a 4096 then σ.trapWith causeIllegal
  else if σ.passWrites σ.core slab then σ.interlock
  else
    let old := σ.accCode σ.core slab
    let done (σ : State) : Out :=
      let σ := σ.setCode σ.core slab code
      let k := σ.coreOf σ.core
      let σ := if k.fwProgram ∧ code ≠ 4 then σ.setCore σ.core { k with foreign := k.foreign.filter fun f => decide (f.1 ≠ slab) } else σ
      σ.retireS d (BitVec.ofNat 64 old)
    if a = 0 then done (if load then σ.zeroSlab σ.core slab else σ)
    else
      match σ.translate σ.core Config.fwCtx a (if load then .read else .write) .plain with
      | .error e => σ.trap e
      | .ok x =>
        if (metaTile x.pa).isSome then
          if load then done (σ.fillSlab σ.core slab ((List.range 1024).map fun i => BitVec.ofNat 32 (σ.metaRead x.pa 4096 / 2 ^ (32 * i))))
          else done (σ.metaWrite x.pa 4096 ((σ.slabData σ.core slab).foldr (fun v n => v.toNat + 2 ^ 32 * n) 0))
        else if load then
          match σ.accessCheck 0 x.pa 4096 a with
          | .error e => σ.trap e
          | .ok _ => done ((σ.fill x.pa).fillSlab σ.core slab ((List.range 1024).map fun i => BitVec.ofNat 32 (σ.memNat (x.pa + 4 * i) 4)))
        else
          done (σ.writeList ((σ.slabData σ.core slab).zipIdx.flatMap fun p => bytesAt (x.pa + 4 * p.2) 4 p.1.toNat))

/-- The task that holds a slab: the one on the slot its code names, or its recorded holder. -/
def State.slabTask (σ : State) (core slab : Nat) : Option Nat :=
  let h := σ.accCode core slab
  if h < 4 then (σ.ctxOf core h).task else if h = 5 then Tbl.find? σ.holder (core * 2048 + slab) else none

/-- The service of ACC_FOREIGN on a slab touched by a slot (R383, R404): the holder's slab is spilled to its area, the toucher's
own copy or +0.0 takes its place, the code changes, and a slot stopped at its word goes on. -/
def State.serveForeign (σ : State) (core slab slot : Nat) : State :=
  let h := σ.accCode core slab
  let k := σ.coreOf core
  let done := σ.setCore core { k with foreign := k.foreign.filter fun f => !(decide (f.1 = slab) && decide (f.2.1 = slot)) }
  match (σ.ctxOf core slot).task with
  | none => done
  | some t =>
    if h = 4 ∨ σ.passWrites core slab then σ else
    let σ := done
    let x := σ.slabTask core slab
    let σ := match x with
      | some y => if y ≠ t then σ.spillTo y slab (σ.slabData core slab) else σ
      | none => σ
    let σ := if h = slot then σ else
      match Tbl.find? (σ.taskOf t).spilled slab with
      | some l => (σ.fillSlab core slab l).unspill t slab
      | none => σ.zeroSlab core slab
    let σ : State := { σ.setCode core slab slot with holder := Tbl.del σ.holder (core * 2048 + slab) }
    let c := σ.ctxOf core slot
    if c.stopped = some causeAccForeign ∧ c.fault.detail.toNat = slab then σ.returnTrap core slot 0 else σ

/-- ACC_FOREIGN (R383): a touch is served at once in hardware mode; one for which the hypervisor has been asked waits for its answer. The
mode is that of the time of the touch (R354). -/
def execAccForeign (core slab slot : Nat) (σ : State) : Out :=
  .next (if (σ.coreOf core).foreign.contains (slab, slot, false) then σ.serveForeign core slab slot
    else if (σ.coreOf core).foreign.contains (slab, slot, true) then σ
    else (σ.wantSlab core slot slab))

/-- ACCREL (R383): the hypervisor lets the service of a slab go on: now, or once firmware's own use of it and the passes that write it
are over. -/
def execAccrel (v : Word) (σ : State) : Out :=
  let slab := v.toNat % 2048
  let core := bits v.toNat 20 16
  let slot := bits v.toNat 26 24
  let σ := σ.setReg 0 0x3080 v
  let k := σ.coreOf core
  let go (f : Nat × Nat × Bool) : Nat × Nat × Bool := if f.1 = slab ∧ f.2.1 = slot then (slab, slot, false) else f
  .next (if k.foreign.contains (slab, slot, true) then (σ.setCore core { k with foreign := k.foreign.map go }).serveForeign core slab slot else σ)

/-! ## Held faults (R374) -/

/-- FAULTRES (R374): the host answers a held fault by retry, which restores the context and issues the word again, or by a kill. -/
def execFaultres (vf : Nat) (v : Word) (σ : State) : Out :=
  let id := v.toNat % 2 ^ 16
  match List.find? (fun (p : Nat × Task) => p.2.heldFault && decide (p.2.ctxId = some id) && decide ((σ.nodeOf p.2.node).vf = vf)) σ.tasks with
  | none => .next σ
  | some (t, tk) =>
    if v.getLsbD 16 then
      .next ((σ.setTask t { tk with heldFault := false }).reSave (tk.core.getD 0) t)
    else
      let cause := (tk.cont.map fun a => a.ctx.fault.cause).getD 0
      .next ((σ.dropTask t .killed).killNode tk.node cause)

/-! ## Keys and watchdogs (R372, R379, R387) -/

/-- KEYLD (R379): the security processor loads a VF's weight key into a key slot; 1 where the VF has none. -/
def execKeyld (d s t : BitVec 5) (σ : State) : Out :=
  σ.privileged <|
  let slot := (σ.rs s).toNat
  let vf := (σ.rs t).toNat
  if 4 ≤ slot ∨ vf = 0 ∨ 64 < vf then σ.trapWith causeIllegal
  else if !(Tbl.get σ.princeKey (0, true) vf).2 then σ.retireS d 1
  else
    let σ := σ.loadKey σ.core slot vf
    σ.retireS d 0

/-- WDOG (R379): the context's watchdog expires s[rs] ticks from now; 0 disarms it. Agents 32 and 33 are the scheduling and the security
processor, which arm their own with it (R387). -/
def execWdog (s : BitVec 5) (σ : State) : Out :=
  σ.privileged <|
  let n := (σ.rs s).toNat
  if 2 ^ 32 ≤ n then σ.trapWith causeIllegal
  else
    let k := σ.coreOf σ.core
    let σ := if Config.numCores ≤ σ.core then { σ with wdogs := if n = 0 then Tbl.del σ.wdogs σ.core else Tbl.set σ.wdogs σ.core (σ.time + n) }
      else σ.setCore σ.core { k with wdogAt := if n = 0 then none else some (σ.time + n) }
    σ.retire σ.cx

/-- WATCHDOG (R387): an expired watchdog is reported and its agent alone restarts: a core's firmware context (agent 0 to 31) with its
events still pending; the scheduling processor (32), which goes on from its control blocks (R388); the security processor (33). -/
def execWatchdog (agent : Nat) (σ : State) : Out :=
  let σ := { σ with errors := σ.errors ++ [(causeWatchdog, agent)] }
  if agent < 32 then
    let k := σ.coreOf agent
    let σ := (σ.setCore agent { k with wdogAt := none, fwAwake := false }).raiseEvent agent 33 causeWatchdog
    .next ((σ.unstop agent).setCtx agent 4 {})
  else if agent = 32 then
    .next { σ with wdogs := Tbl.del σ.wdogs agent, queues := σ.queues.map fun (p : Nat × Queue) => (p.1, p.2.recover) }
  else if agent = 33 then .next { σ with wdogs := Tbl.del σ.wdogs agent }
  else .fault .noSuchUnit

/-! ## Core removal (R384) -/

/-- The cores of a partition in service, but one. -/
def State.coresOf (σ : State) (part but : Nat) : List Nat :=
  (List.range 32).filter fun c =>
    decide (c ≠ but) && (σ.coreOf c).enabled && (σ.coreOf c).leaving.isNone && decide (σ.partOf c = part)

/-- A saved or aborted context that has lost its core, or that comes from another device, goes to a core of its partition, where it asks for
its units by shape (R384); what it had been granted goes back. One that needs no units may go anywhere. -/
def State.moveTask (σ : State) (part but t : Nat) : State :=
  let σ := ((σ.withdrawLeases t).repool t).poolDel t
  let tk := σ.taskOf t
  let a := tk.cont.getD {}
  let state : TaskState := if tk.state = .pooled ∧ !a.leaseless then .aborting else tk.state
  let core := if a.leaseless then none else (σ.coresOf part but).head?
  let σ := σ.setTask t { tk with state := state, core := if a.leaseless then none else some (core.getD but), page := if tk.state = .aborting then tk.page else none,
                                 cont := some { a with byShape := true, moved := [] } }
  if a.leaseless then (if tk.state = .aborting ∨ tk.heldFault then σ else σ.poolAdd t)
  else if tk.state = .saved ∧ !tk.heldFault ∧ core.isSome then σ.reLease (core.getD 0) t
  else σ

/-- A waiting task whose lease request, or whose grant, was the lost core's asks another core of the partition again. -/
def State.moveRequest (σ : State) (part but t : Nat) (r : LeaseReq) : State :=
  let σ := (σ.withdrawLeases t).poolDel t
  let tk := σ.taskOf t
  match (σ.coresOf part but).head? with
  | none => σ.setTask t { tk with state := .waiting, core := some but, cont := tk.cont.map fun a => { a with asked := some r } }
  | some c =>
    let k := σ.coreOf c
    (σ.setTask t { tk with state := .waiting, core := some c, cont := tk.cont.map fun a => { a with asked := none } }).setCore c
      { k with reqs := k.reqs ++ [{ r with since := σ.cycle + 1, holds := false }] }

/-- A task that is bound to a lost core, or whose request stands there, goes to another. -/
def State.rebind (σ : State) (part but t : Nat) : State :=
  let tk := σ.taskOf t
  match ((σ.coreOf but).reqs.find? fun r => decide (r.task = t) && decide (tk.state = .waiting)).orElse fun _ => tk.cont.bind Area.asked with
  | some r => σ.moveRequest part but t r
  | none =>
    if tk.state = .saved ∨ ((tk.state = .aborting ∨ tk.state = .pooled) ∧ tk.cont.isSome) then σ.moveTask part but t
    else if tk.state = .waiting then σ.setTask t { tk with core := none }
    else σ

/-- Nothing of a core is at work any more: no slot holds a task, and every unit is free of work. -/
def State.coreQuiet (σ : State) (core : Nat) : Bool :=
  [0, 1, 2, 3].all (fun s => (σ.ctxOf core s).task.isNone) && [0, 1, 2, 3].all (fun k => decide (σ.fragState core k ≠ 2))
    && (List.range 8).all fun n => !(σ.copyOf core n).draining

/-- The slabs of a core go into their holders' areas and every owner code becomes 7 (R384, R408). -/
def State.spillCore (σ : State) (core : Nat) : State :=
  let slabs := (σ.accown.filter fun p => decide (p.1 / 2048 = core) && (decide (p.2 < 4) || decide (p.2 = 5))).map fun p => p.1 % 2048
  let σ := slabs.foldl (fun σ j =>
    let σ : State := match σ.slabTask core j with
      | some y => σ.spillTo y j (σ.slabData core j)
      | none => σ
    ({ σ.setCode core j 7 with holder := Tbl.del σ.holder (core * 2048 + j) } : State)) σ
  { σ with accown := σ.accown.filter fun p => decide (p.1 / 2048 ≠ core) }

/-- The removal of a core ends: its slabs are spilled, its contexts and requests go to the partition's other cores, and the core takes the
partition and the state of the CORECFG that removed it, its allocator as it was. RESIZE_DONE is posted (R384, R408). -/
def State.moveCore (σ : State) (core : Nat) (v : Word) : State :=
  let part := σ.partOf core
  let σ := σ.spillCore core
  let bound := (σ.tasks.filter fun (p : Nat × Task) => decide (p.2.core = some core) && !p.2.state.ended && decide (p.2.state ≠ .running)).map (·.1)
  let σ := bound.foldl (fun σ t => σ.rebind part core t) σ
  let k := σ.coreOf core
  let σ := σ.setCore core { k with part := some (bits v.toNat 12 8), enabled := v.getLsbD 0, leaving := none, reqs := [], hold := false,
                                   allocctl := k.allocctl &&& ~~~(0x10000 : Word) }
  σ.hyperNotice 30 0 core

/-- A core that is being removed: its removal ends once it is quiet, its slots saved. -/
def State.settleCore (σ : State) (core : Nat) : State :=
  match (σ.coreOf core).leaving with
  | none => σ
  | some v =>
    if σ.coreQuiet core then σ.moveCore core v else σ

/-- The removal of a core begins (R384): no further grant, and every slot is to be saved. -/
def State.removeCore (σ : State) (core : Nat) (v : Word) : State :=
  let k := σ.coreOf core
  let σ := σ.setCore core { k with allocctl := k.allocctl ||| 0x10000, leaving := some v }
  ([0, 1, 2, 3].foldl (fun σ s => σ.preemptLot core s .remove) σ).settleCore core

end Sys2Proof.Machine
end

