-- ==== Sys2Proof/Machine/Sequencer.lean ====
section
/-!
DEFINITION. What the sequencers of the vector contexts, the fragments and the copy engines share: the running program, its loop
space and the F and L flags (02 R50), the fetch of its words (R426), engine faults (R60, R144, R376), the start and the retirement
of commands and markers (R49, R51, R184).
-/

namespace Sys2Proof.Machine

/-! ## The running program -/

def State.eHere (σ : State) : Eng := σ.engOf σ.core σ.eng
def State.runHere (σ : State) : Run := σ.eHere.run.getD {}
def State.setRun (σ : State) (r : Run) : State := σ.setEng σ.core σ.eng { σ.eHere with run := some r }
/-- The slot an engine of a core serves. -/
def State.slotOfEng (σ : State) (core e : Nat) : Nat :=
  if e < 4 then e else if e < 8 then (σ.fragOf core (e - 4)).slot else (σ.copyOf core (e - 8)).slot
def State.eSlot (σ : State) : Nat := σ.slotOfEng σ.core σ.eng
/-- SRC of an engine's events (R378). -/
def engSrc (e : Nat) : Nat := if e < 4 then 24 else if e < 8 then e + 4 else e + 8

/-- The next point of the loop space, level 5 fastest, and whether the last point was passed (R50). -/
def stepIdx : List Nat → List Nat → List Nat × Bool
  | i :: is, n :: ns =>
    let r := stepIdx is ns
    if r.2 then (if i + 1 < n then ((i + 1) :: r.1, false) else (0 :: r.1, true)) else (i :: r.1, false)
  | _, _ => ([], true)

/-- Whether F and L issue a word at a point (R50). -/
def Run.flagsIssue (r : Run) (f l : Bool) (v : Nat) : Bool :=
  (!f && !l) || (f && decide (r.idx.getD v 0 = 0)) || (l && decide (r.idx.getD v 0 + 1 = r.prog.loops.getD v 1))
/-- The body is passed for the first time: every word is reached first in it. -/
def Run.firstPass (r : Run) : Bool := r.idx.all fun i => decide (i = 0)
/-- The micro-PC after n words. -/
def Run.after (r : Run) (n : Nat) : Run := { r with upc := r.upc + n, vfl := none, pend := none }
/-- The halt word ends the body: the next point from micro-PC 0, or the program's end. -/
def Run.endBody (r : Run) : Run :=
  let n := stepIdx r.idx r.prog.loops
  { r with upc := if n.2 then r.upc else 0, idx := n.1, vfl := none, halted := n.2 }

/-- The word has issued, or its flags did not issue it: the engine goes on at the next word. -/
def State.wordDone (σ : State) (n : Nat := 1) : Out := .next (σ.setRun (σ.runHere.after n))

/-! ## Faults of engines (R60, R376) -/

/-- A vector context or a copy engine stops at the word in progress, which has no effect; the fault is posted to the slot with the
micro-PC (R376). -/
def State.engineFault (σ : State) (cause : Nat) (detail : Word := 0) : Out :=
  let core := σ.core
  let slot := σ.eSlot
  let upc := σ.runHere.upc
  let σ := σ.setEng core σ.eng { σ.eHere with stopped := true }
  let σ := if cause = causeSealFail then σ.sealNoticeAt core slot detail else σ
  .next (σ.postFault core slot (engSrc σ.eng) cause upc 0 detail)

/-! ### Copy engines (R279) -/

def State.cNo (σ : State) : Nat := σ.eng - 8
def State.copyHere (σ : State) : CopyEng := σ.copyOf σ.core σ.cNo
def State.setCopyHere (σ : State) (x : CopyEng) : State := σ.setCopy σ.core σ.cNo x
def State.tagDone (σ : State) (t err : Option Nat) : State :=
  let slot := σ.eSlot
  match t with
  | some k => σ.putTags σ.core slot ((σ.ctxOf σ.core slot).completeTag k err)
  | none => σ

/-- Every step in flight of the engine completes with cause CANCELLED. -/
def State.cancelSteps (σ : State) : State :=
  let x := σ.copyHere
  let σ := x.steps.foldl (fun (σ : State) s => σ.tagDone s.tag (some causeCancelled)) σ
  σ.setCopyHere { x with steps := [] }
/-- The reservations of the queued programs are released, and not given back twice. -/
def State.releaseQueued (σ : State) : State :=
  let e := σ.eHere
  let tags := e.queue.flatMap fun (c : Cmd) => match c.kind with | .program p => p.tags | _ => []
  let slot := σ.eSlot
  let σ := σ.setCtx σ.core slot (tags.foldl Ctx.unreserveTag (σ.ctxOf σ.core slot))
  σ.setEng σ.core σ.eng { e with queue := e.queue.map fun (c : Cmd) => match c.kind with
    | .program p => { c with kind := .program { p with tags := [] } }
    | _ => c }

/-- A fault of rows 1 to 3 of R279: an engine that stops cancels its steps in flight and releases its queue's reservations; an entry
that is not resident aborts the region. -/
def State.copyFault (σ : State) (cause : Nat) (detail : Word := 0) : Out :=
  if cause = causeNonresident ∨ cause = causeCow then σ.engineFault cause detail
  else (σ.cancelSteps.releaseQueued).engineFault cause detail

/-- FCAUSE of a fragment's fault (R377); 0 for STEP_ILLEGAL. -/
def State.fragFault (σ : State) (cause fcause : Nat) (detail : Word := 0) : Out :=
  let k := σ.eng - 4
  let f := σ.fragOf σ.core k
  let rec' : FaultRec := { cause := cause, src := engSrc σ.eng, upc := σ.runHere.upc, fcause := fcause, detail := detail }
  let σ := σ.setEng σ.core σ.eng { σ.eHere with stopped := true }
  if f.faulting.isSome then .next σ
  else .next ((σ.setFrag σ.core k { f with faulting := some rec' }).push (.passRetire σ.core k))

/-! ## Fetch (R426) -/

/-- The words a program's body can have: to the end of its section, at most 1024; a follow-on word is its whole body. -/
def Prog.bodyLen (p : Prog) : Nat :=
  match p.body with
  | some l => l.length
  | none => if p.len - p.entry ≤ Config.bodyWords then p.len - p.entry else Config.bodyWords
def Prog.wordAt (p : Prog) (i : Nat) : Word := p.base + BitVec.ofNat 64 (4 * (p.entry + i))

/-- A fetched word, or the end the failed fetch comes to. -/
inductive Fetched where
  | word (w : Nat) (σ : State)
  | stop (o : Out)

/-- A word that is past its body, or that no row of its tables fits: STEP_ILLEGAL (R144, R279). -/
def State.badWord (σ : State) : Out :=
  if σ.eng < 4 then σ.engineFault causeStepIllegal
  else if σ.eng < 8 then σ.fragFault causeStepIllegal 0
  else σ.copyFault causeStepIllegal

/-- The word i of the running program: fetched when it is first decoded, with kind fetch through the slot's table and with the
owner and seal checks; beyond the body the sequencer faults STEP_ILLEGAL (log 21). -/
def State.fetchWord (σ : State) (i : Nat) : Fetched :=
  let r := σ.runHere
  let frag : Bool := decide (4 ≤ σ.eng) && decide (σ.eng < 8)
  if r.prog.bodyLen ≤ i then .stop σ.badWord
  else match r.prog.body with
  | some l => .word (l.getD i 0).toNat σ
  | none =>
    match Tbl.find? r.words i with
    | some w => .word w σ
    | none =>
      let va := r.prog.wordAt i
      match σ.translate σ.core σ.eSlot va .fetch .near with
      | .error e =>
        if e.cause = causeNonresident ∨ e.cause = causeCow then .stop (σ.engineFault e.cause va)
        else .stop (if frag then σ.fragFault causeFragFault 10 va else σ.engineFault causeOutside va)
      | .ok x =>
        match σ.accessCheck (σ.vfOf σ.core σ.eSlot) x.pa 4 va with
        | .error e => .stop (σ.engineFault e.cause va)
        | .ok _ =>
          let w := σ.memNat x.pa 4
          .word w ((σ.fill x.pa).setRun { r with words := Tbl.set r.words i w })

/-! ## Commands (R49, R184) -/

/-- A CLDM of the slot whose data has landed waits for room in its fragment's queue (R275). -/
def State.cldmWaits (σ : State) (core slot : Nat) : Bool :=
  (σ.copiesWith core slot).any fun n => (σ.copyOf core n).steps.any fun s => s.filled

/-- A word of a vector context waits for another package. -/
def State.vecSent (σ : State) (core slot : Nat) : Bool :=
  σ.fabReqs.any fun q => decide (q.core = core) && decide (q.slot = slot) && q.engine.any fun n => decide (n % 16 = slot)

/-- The engine stands at its boundary for a save of the context it serves (R57): it begins no step. A vector word that has popped, or that
waits for another package, goes on to its end (R233, R240), and so do the engines while a step in flight waits for room in a fragment's queue (R280). -/
def State.engHeld (σ : State) (core e : Nat) : Bool :=
  let slot := σ.slotOfEng core e
  (σ.ctxOf core slot).stopping.isSome && (σ.enginesOf core slot).contains e && !((σ.engOf core e).run.any fun r => r.pend.isSome)
    && !σ.cldmWaits core slot && !(decide (e < 4) && σ.vecSent core e)

/-- The engine may start commands and words: it has not stopped on a fault or for a save, the vector context's task runs, and a fragment is
LEASED or DRAINING. -/
def State.engLive (σ : State) (core e : Nat) : Bool :=
  !(σ.engOf core e).stopped && !σ.engHeld core e
    && (if e < 4 then σ.slotRuns core e
        else if e < 8 then
          let f := σ.fragOf core (e - 4)
          (decide (f.state = 1) || decide (f.state = 2)) && f.faulting.isNone
        else let x := σ.copyOf core (e - 8); x.leased || x.draining)

/-- The engine has finished every step it started (R184). -/
def State.stepsIdle (σ : State) (core e : Nat) : Bool :=
  if e < 4 then true
  else if e < 8 then
    let f := σ.fragOf core (e - 4)
    f.passes.isEmpty && (!f.nxt.pending || f.nxt.ready)
  else (σ.copyOf core (e - 8)).steps.isEmpty

/-- Whether the program of an engine may retire. -/
def State.canRetire (σ : State) (core e : Nat) : Bool :=
  match (σ.engOf core e).run with
  | some r => r.halted && σ.stepsIdle core e
  | none => false

/-- The tags a placed copy program had reserved are accepted or given back when it ends (R278). -/
def State.unreserve (σ : State) (core slot : Nat) (p : Prog) : State :=
  σ.setCtx core slot (p.tags.foldl Ctx.unreserveTag (σ.ctxOf core slot))

/-- A marker of an engine's queue retires (R51, R185): the last marker is recorded, and a NOTIFY is noted. -/
def State.markRetired (σ : State) (core e : Nat) (m : BitVec 16) (notify : Bool) : State :=
  let v := σ.engOf core e
  σ.setEng core e { v with last := some m, notified := notify }

/-- What the words of the last cycle have filled and marked takes effect, the fills first (R77, R186). A NOTIFY behind which a command
has been placed is a plain marker (R185). -/
def State.land (σ : State) : State :=
  let l := σ.landing
  let σ := l.foldl (fun (σ : State) x => match x with
    | .fill c k r i => let x := σ.ctxOf c k
                       σ.setCtx c k (x.setRing r ((x.ring r).fillDone i))
    | .mark _ _ _ _ _ => σ) { σ with landing := [] }
  l.foldl (fun (σ : State) x => match x with
    | .fill _ _ _ _ => σ
    | .mark c _ e m n => σ.markRetired c e m (n && (σ.engOf c e).queue.isEmpty)) σ

/-- The head of an engine's queue is a marker, and nothing before it is still at work. -/
def State.markerDue (σ : State) (core e : Nat) : Bool :=
  let v := σ.engOf core e
  match v.queue with
  | c :: _ => (match c.kind with | .marker _ _ => true | _ => false) && v.run.isNone && σ.stepsIdle core e && !v.stopped
    && (4 ≤ e || σ.slotRuns core e)
  | [] => false

/-- MARKER_RETIRE (R51, R185, R186): the head marker of a queue retires once every earlier command of it has. -/
def execMarkerRetire (core e : Nat) (σ : State) : Out :=
  let v := σ.engOf core e
  if !σ.markerDue core e then .next σ else
  match v.queue with
  | ⟨_, _, .marker m n⟩ :: r => .next ((σ.setEng core e { v with queue := r }).markRetired core e m n)
  | _ => .next σ

/-- The lines a released fence lets an engine see through the lot view: those the lot's stores held at its release (R96). A vector context
behind a fence with the copy path before it finds what that path wrote. -/
def State.fencePassed (σ : State) (core slot e id : Nat) : State :=
  match σ.fenceById core slot id with
  | some f =>
    let v := σ.engOf core e
    let σ := if e < 4 ∧ f.x.getLsbD 1 then ((σ.swapViews core slot).orderCopies core slot).swapViews core slot else σ
    σ.setEng core e { v with view := f.lines.foldl insertNat v.view }
  | none => σ

/-- A vector program begins behind the writes that a tag wait had ordered before its placement (R95). -/
def State.orderAfter (σ : State) (core slot : Nat) (p : Prog) : State :=
  if p.after.isEmpty then σ else
  let open' := ((σ.ctxOf core slot).vTagLines.map (·.2)).foldl maskJoin []
  ((σ.swapViews core slot).orderBytes core slot [maskLess p.after (maskLess p.after open')]).swapViews core slot

/-- The head of an engine's queue can start: a released program on an idle sequencer, a shape, or a fence that is released. -/
def State.startDue (σ : State) (core e : Nat) : Bool :=
  let v := σ.engOf core e
  σ.engLive core e && v.run.isNone &&
  (match v.queue with
   | [] => false
   | c :: _ =>
     match c.kind with
     | .program _ => !c.held
     | .vshape _ => true
     | .fence id => σ.fenceOver core (σ.slotOfEng core e) id
     | .marker _ _ => false)

/-- ENGINE_COMMAND_START (R49, R184, R96, R177): the head of the queue is taken. A program starts at its micro-PC 0 with its loop
frame, a fragment's with empty weight sets (R251); a shape becomes the vector context's; a released fence lets the commands behind it go on. -/
def execEngineCommandStart (core e : Nat) (σ : State) : Out :=
  if !σ.startDue core e then .next σ else
  let v := σ.engOf core e
  match v.queue with
  | ⟨id, _, .program p⟩ :: r =>
    let σ := σ.setEng core e { v with queue := r, run := some { id := id, prog := p, idx := p.loops.map fun _ => 0, start := σ.time } }
    let k := e - 4
    .next (if 4 ≤ e ∧ e < 8 then
        σ.setFrag core k { σ.fragOf core k with act := {}, nxt := {}, linked := false, waitsLink := false, linkLost := false }
      else if e < 4 then σ.orderAfter core e p
      else σ)
  | ⟨_, _, .vshape x⟩ :: r =>
    let σ := σ.setEng core e { v with queue := r }
    .next (σ.setVec core e { σ.vecOf core e with vshape := x })
  | ⟨_, _, .fence id⟩ :: r => .next ((σ.setEng core e { v with queue := r }).fencePassed core (σ.slotOfEng core e) e id)
  | _ => .next σ

/-- PROGRAM_RETIRE (R184): a program whose halt word has run and whose steps are complete leaves its engine; the tags a copy
program had reserved and not given back are free of it (R278). -/
def execProgramRetire (core e : Nat) (σ : State) : Out :=
  if !σ.canRetire core e then .next σ else
  let v := σ.engOf core e
  let p : Prog := (v.run.map fun r => r.prog).getD {}
  let σ := σ.setEng core e { v with run := none }
  .next (if 8 ≤ e then σ.unreserve core (σ.slotOfEng core e) p else σ)

end Sys2Proof.Machine
end

