-- ==== Sys2Proof/Machine/VectorOps.lean ====
section
/-!
DEFINITION. How a vector word runs: the bound shape, operands and channels, the order of its checks, waits, pops and push, and the
writing of its results (07 R149, 11 R217 to R223, 12 R233 to R235).
-/

namespace Sys2Proof.Machine

/-! ## The bound shape (R217, R218) -/

def State.vShape (σ : State) : Word := σ.runHere.prog.vshape
def State.vT (σ : State) : Nat := vsType σ.vShape
def State.vN (σ : State) : Nat := vsLen σ.vShape
/-- Bytes of an element. -/
def State.vZ (σ : State) : Nat := typeBits σ.vT / 8
def State.vRm (σ : State) : Nat := vsRm σ.vShape
/-- The acting vector context. -/
def State.vHere (σ : State) : VecCtx := σ.vecOf σ.core σ.eng

/-- `size` bytes at byte `off` of a register's content. -/
def getBytes (w off size : Nat) : Nat := w / 256 ^ off % 256 ^ size
def putBytes (w off size v : Nat) : Nat := w - getBytes w off size * 256 ^ off + v % 256 ^ size * 256 ^ off
/-- Element i of a content whose elements have z bytes. -/
def elemAt (w z i : Nat) : Nat := getBytes w (i * z) z

def VecCtx.reg (v : VecCtx) (k : Nat) : Nat := (Tbl.get v.v 0 k).toNat
def VecCtx.setReg (v : VecCtx) (k w : Nat) : VecCtx := { v with v := Tbl.set v.v k (BitVec.ofNat 8192 w) }
/-- A write to p0 is no write: p0 reads all ones (R28). -/
def VecCtx.setPred (v : VecCtx) (k w : Nat) : VecCtx := if k = 0 then v else { v with p := Tbl.set v.p k (BitVec.ofNat 1024 w) }

/-- The active elements under a governing predicate, ascending (R219). -/
def State.actives (σ : State) (g : BitVec 3) : List Nat :=
  (List.range σ.vN).filter fun i => (σ.vHere.pred g.toNat).getLsbD i

/-! ## Operands (R149, R221) -/

/-- A register or a channel operand: the bytes its role reads or writes from byte 0 of the slot, and whether it pops. -/
structure Opnd where
  chan : Bool
  idx : Nat
  pop : Bool := false
  need : Nat := 0
  deriving DecidableEq, Repr

def opnd (f : BitVec 7) (pop : BitVec 1) (need : Nat) : Opnd :=
  { chan := f.getLsbD 6, idx := f.toNat % 64, pop := decide (pop = 1), need := need }
def regOpnd (f : BitVec 6) : Opnd := { chan := false, idx := f.toNat }

/-- The entry is configured and its slots hold the bytes of the role (R223). -/
def Opnd.slotOk (o : Opnd) (c : Ctx) : Bool :=
  !o.chan || ((c.ring o.idx).configured && decide (o.need ≤ 64 * (c.ring o.idx).ssz))

/-- Pops of a ring by the sources before one. -/
def popsOf (l : List Opnd) (ring : Nat) : Nat := (l.filter fun o => o.chan && o.pop && decide (o.idx = ring)).length

/-- The channel sources in order, each with the slot beyond HEAD that it reads. -/
def srcSlots : List Opnd → List Opnd → List (Opnd × Nat)
  | _, [] => []
  | before, o :: r => (o, popsOf before o.idx) :: srcSlots (before ++ [o]) r

/-- Every slot the word reads is filled (R221). -/
def srcsFull (c : Ctx) (srcs : List Opnd) : Bool :=
  (srcSlots [] srcs).all fun p => !p.1.chan || decide (p.2 < (c.ring p.1.idx).full)

/-- A ring has not as many slots as the word reads of it: the wait can never be met (R76). -/
def srcsBeyond (c : Ctx) (srcs : List Opnd) : Bool :=
  (srcSlots [] srcs).any fun p => p.1.chan && decide ((c.ring p.1.idx).scount < p.2 + 1)

/-- The content a source delivers: a register's, or the bytes of the slot at HEAD + u, modulo 2^32. -/
def State.srcContent (σ : State) (p : Opnd × Nat) : Nat :=
  if p.1.chan then
    let r := (σ.ctxOf σ.core σ.eng).ring p.1.idx
    σ.aNat σ.core σ.eng (r.slotAt (r.head + BitVec.ofNat 32 p.2).toNat) p.1.need
  else σ.vHere.reg p.1.idx

/-- The advance of every ring the word popped (R221). -/
def popRings (c : Ctx) (srcs : List Opnd) : Ctx :=
  srcs.foldl (fun c o => if o.chan && o.pop then c.setRing o.idx ((c.ring o.idx).doAdvance 1) else c) c

/-! ## The course of a word (R219, R221) -/

/-- The sources' rings at retirement: what producers had written before the slots that the word waited for is ordered before the slot's
next accesses (R94), and the popped slots are released. -/
def State.takeSources (σ : State) (srcs : List Opnd) : State :=
  let σ' := if srcs.any Opnd.chan then
      ((srcSlots [] srcs).foldl (fun (s : State) p => if p.1.chan then s.orderRing σ.core σ.eng p.1.idx (p.2 + 1) else s)
        (σ.swapViews σ.core σ.eng)).swapViews σ.core σ.eng
    else σ
  σ'.setCtx σ.core σ.eng (popRings (σ'.ctxOf σ.core σ.eng) srcs)

/-- Claim and write of one slot of the destination ring; none where no slot is free. It is filled before anything of the next cycle
waits (R77). Where the entry has changed since the word's checks, the slot takes the bytes it has room for. -/
def State.pushSlot (σ : State) (core slot ring : Nat) (bs : List (Nat × Byte)) : Option State :=
  let r := (σ.ctxOf core slot).ring ring
  if r.free = 0 then none else
  let i := r.claim.toNat
  let σ := σ.setCtx core slot ((σ.ctxOf core slot).setRing ring (r.doClaim 1))
  let σ := (bs.filter fun p => decide (p.1 < 64 * r.ssz)).foldl (fun (σ : State) (p : Nat × Byte) => σ.aWrite core slot (r.slotAt i + p.1) [p.2]) σ
  some { σ with landing := σ.landing ++ [.fill core slot ring i] }

/-- The word's results wait for a free slot of ring `ring`, or are pushed, and the word is done. -/
def State.vecPush (σ : State) (ring : Nat) (bs : List (Nat × Byte)) : Out :=
  match σ.pushSlot σ.core σ.eng ring bs with
  | some σ => σ.wordDone
  | none => .next (σ.setRun { σ.runHere with pend := some (ring, bs) })

/-- The flags of a prefix that waits (R151) let the word issue. -/
def Run.vflIssues (r : Run) : Bool :=
  match r.vfl with
  | some (f, l, v) => r.flagsIssue f l v
  | none => true

/-- The common course: a word whose pops have been made only waits to push; else legality under the bound shape, the prefix, the wait
for the sources; `go` gets the sources' contents. A word that waits leaves the context where it is. -/
def State.vecWord (σ : State) (legal : Bool) (srcs : List Opnd) (dst : Option Opnd) (go : List Nat → Out) : Out :=
  let c := σ.ctxOf σ.core σ.eng
  let r := σ.runHere
  let chans : Bool := srcs.all (fun o => o.slotOk c) && (match dst with | some d => d.slotOk c | none => true)
  match r.pend with
  | some (ring, bs) => σ.vecPush ring bs
  | none =>
    if !legal then σ.engineFault causeStepIllegal
    else if !r.vflIssues then (if r.firstPass && !chans then σ.engineFault causeStepIllegal else σ.wordDone)
    else if !chans ∨ srcsBeyond c srcs then σ.engineFault causeStepIllegal
    else if srcsFull c srcs then go ((srcSlots [] srcs).map σ.srcContent)
    else .next σ

/-- A part of a result: byte offset, size, and the bytes, none where an inactive element leaves a register as it is and fills a
pushed slot with zero bits. -/
abbrev VPart := Nat × Nat × Option Nat

/-- Retirement: pops, then the destination (R219, R221); the context's generator goes on from its last draw. -/
def State.vecRetire (σ : State) (srcs : List Opnd) (dst : Opnd) (parts : List VPart) (g : BitVec 32) : Out :=
  let slot := σ.eng
  let σ := σ.takeSources srcs
  let σ := σ.setEng σ.core slot { σ.eHere with gen := g }
  if dst.chan then
    σ.vecPush dst.idx (parts.flatMap fun p => (natBytes p.2.1 (p.2.2.getD 0)).zipIdx.map fun b => (p.1 + b.2, b.1))
  else
    let v := σ.vHere
    let w := parts.foldl (fun w p => match p.2.2 with | some x => putBytes w p.1 p.2.1 x | none => w) (v.reg dst.idx)
    (σ.setVec σ.core slot (v.setReg dst.idx w)).wordDone

/-- Retirement of a predicate destination: bit i of every listed element, zero elsewhere. -/
def State.vecRetireP (σ : State) (srcs : List Opnd) (d : Nat) (on : List Nat) : Out :=
  let slot := σ.eng
  let σ := σ.takeSources srcs
  (σ.setVec σ.core slot (σ.vHere.setPred d (on.foldl (fun a i => a + 2 ^ i) 0))).wordDone

/-- A function over the active elements in ascending order, threading the generator. -/
def overActive (f : Nat → BitVec 32 → Nat × BitVec 32) : List Nat → BitVec 32 → List (Nat × Nat) × BitVec 32
  | [], g => ([], g)
  | i :: r, g =>
    let x := f i g
    let rest := overActive f r x.2
    ((i, x.1) :: rest.1, rest.2)

/-- The n parts of element results of z bytes. -/
def elemParts (n z : Nat) (res : List (Nat × Nat)) : List VPart :=
  (List.range n).map fun i => (i * z, z, Tbl.find? res i)

/-- An element-wise word with two sources and old destination: `f t rm a b d g`. -/
def State.vElem (σ : State) (legal : Bool) (d a b : BitVec 7) (x y : BitVec 1) (g : BitVec 3)
    (f : Nat → Nat → Nat → BitVec 32 → Nat × BitVec 32) : Out :=
  let z := σ.vZ
  let n := σ.vN
  let srcs := [opnd a x (n * z), opnd b y (n * z)]
  let dst := opnd d 0 (n * z)
  σ.vecWord legal srcs (some dst) fun cs =>
    let A := cs.getD 0 0
    let B := cs.getD 1 0
    let D := if dst.chan then 0 else σ.vHere.reg dst.idx
    let r := overActive (fun i gen => f (elemAt A z i) (elemAt B z i) (elemAt D z i) gen) (σ.actives g) σ.eHere.gen
    σ.vecRetire srcs dst (elemParts n z r.1) r.2

/-- An element-wise word with one source. -/
def State.vElem1 (σ : State) (legal : Bool) (d a : BitVec 7) (x : BitVec 1) (g : BitVec 3)
    (f : Nat → BitVec 32 → Nat × BitVec 32) : Out :=
  let z := σ.vZ
  let n := σ.vN
  let srcs := [opnd a x (n * z)]
  let dst := opnd d 0 (n * z)
  σ.vecWord legal srcs (some dst) fun cs =>
    let r := overActive (fun i gen => f (elemAt (cs.getD 0 0) z i) gen) (σ.actives g) σ.eHere.gen
    σ.vecRetire srcs dst (elemParts n z r.1) r.2

/-- Types the legality table of R223 groups. -/
def isInt (t : Nat) : Bool := (typeFmt t).isNone
def isFloat (t : Nat) : Bool := decide (t = 6) || decide (t = 7) || decide (t = 8)

end Sys2Proof.Machine
end

