-- ==== Sys2Proof/Machine/VectorArith.lean ====
section
/-!
DEFINITION. The arithmetic, comparison and conversion words of the vector engine: 11 (R223 to R232).
-/

namespace Sys2Proof.Machine

/-! ## Elements (R224, R226, R227) -/

/-- A rounded or wrapped result of exact arithmetic. -/
def roundElem (t rm : Nat) (x : Num) (g : BitVec 32) : Nat × BitVec 32 :=
  match typeFmt t with
  | some f => f.round x rm g
  | none => (0, g)

/-- VADD and VSUB on elements. -/
def addElem (sub : Bool) (t rm a b : Nat) (g : BitVec 32) : Nat × BitVec 32 :=
  if isInt t then (wrapTo t (if sub then intOf t a - intOf t b else intOf t a + intOf t b), g)
  else roundElem t rm (Num.add rm (elemNum t a) (if sub then (elemNum t b).neg else elemNum t b)) g
def mulElem (t rm a b : Nat) (g : BitVec 32) : Nat × BitVec 32 :=
  if isInt t then (wrapTo t (intOf t a * intOf t b), g) else roundElem t rm (Num.mul (elemNum t a) (elemNum t b)) g
def fmaElem (t rm a b d : Nat) (g : BitVec 32) : Nat × BitVec 32 :=
  if isInt t then (wrapTo t (intOf t a * intOf t b + intOf t d), g)
  else roundElem t rm (Num.fma rm (elemNum t a) (elemNum t b) (elemNum t d)) g
/-- VMIN and VMAX: no rounding and no draw (R111). -/
def minMaxElem (isMin : Bool) (t a b : Nat) : Nat :=
  match typeFmt t with
  | some f => f.rne (Num.minMax isMin (f.decode a) (f.decode b))
  | none => if decide (intOf t a ≤ intOf t b) == isMin then a else b
/-- The element shifted, by patterns (R226). -/
def shlElem (t a s : Nat) : Nat := if typeBits t ≤ s then 0 else a * 2 ^ s % 2 ^ typeBits t
def shrElem (t a s : Nat) : Nat := if typeSigned t then wrapTo t (intOf t a / 2 ^ s) else a / 2 ^ s
/-- `vhash` of R227. -/
def hashElem (a b : Nat) : Nat := (a * b / 2 ^ 32) ^^^ (a * b % 2 ^ 32)

/-- VADD (R224). -/
def execVadd (d a b : BitVec 7) (x y : BitVec 1) (g : BitVec 3) (σ : State) : Out :=
  σ.vElem true d a b x y g fun p q _ => addElem false σ.vT σ.vRm p q
/-- VSUB (R224). -/
def execVsub (d a b : BitVec 7) (x y : BitVec 1) (g : BitVec 3) (σ : State) : Out :=
  σ.vElem true d a b x y g fun p q _ => addElem true σ.vT σ.vRm p q
/-- VMUL (R224). -/
def execVmul (d a b : BitVec 7) (x y : BitVec 1) (g : BitVec 3) (σ : State) : Out :=
  σ.vElem true d a b x y g fun p q _ => mulElem σ.vT σ.vRm p q
/-- VFMA (R224): vd is also a source, and no channel. -/
def execVfma (d a b : BitVec 7) (x y : BitVec 1) (g : BitVec 3) (σ : State) : Out :=
  σ.vElem (!d.getLsbD 6) d a b x y g fun p q o => fmaElem σ.vT σ.vRm p q o
/-- VADDS (R224): saturating, integer types. -/
def execVadds (d a b : BitVec 7) (x y : BitVec 1) (g : BitVec 3) (σ : State) : Out :=
  σ.vElem (isInt σ.vT) d a b x y g fun p q _ gen => (satTo σ.vT (intOf σ.vT p + intOf σ.vT q), gen)
/-- VSUBS (R224). -/
def execVsubs (d a b : BitVec 7) (x y : BitVec 1) (g : BitVec 3) (σ : State) : Out :=
  σ.vElem (isInt σ.vT) d a b x y g fun p q _ gen => (satTo σ.vT (intOf σ.vT p - intOf σ.vT q), gen)
/-- VMIN (R224). -/
def execVmin (d a b : BitVec 7) (x y : BitVec 1) (g : BitVec 3) (σ : State) : Out :=
  σ.vElem true d a b x y g fun p q _ gen => (minMaxElem true σ.vT p q, gen)
/-- VMAX (R224). -/
def execVmax (d a b : BitVec 7) (x y : BitVec 1) (g : BitVec 3) (σ : State) : Out :=
  σ.vElem true d a b x y g fun p q _ gen => (minMaxElem false σ.vT p q, gen)
/-- VMULH (R224): the upper half of the exact product. -/
def execVmulh (d a b : BitVec 7) (x y : BitVec 1) (g : BitVec 3) (σ : State) : Out :=
  σ.vElem (isInt σ.vT) d a b x y g fun p q _ gen =>
    (wrapTo σ.vT (intOf σ.vT p * intOf σ.vT q / 2 ^ typeBits σ.vT), gen)
/-- VAND (R226). -/
def execVand (d a b : BitVec 7) (x y : BitVec 1) (g : BitVec 3) (σ : State) : Out :=
  σ.vElem true d a b x y g fun p q _ gen => (p &&& q, gen)
/-- VOR (R226). -/
def execVor (d a b : BitVec 7) (x y : BitVec 1) (g : BitVec 3) (σ : State) : Out :=
  σ.vElem true d a b x y g fun p q _ gen => (p ||| q, gen)
/-- VXOR (R226). -/
def execVxor (d a b : BitVec 7) (x y : BitVec 1) (g : BitVec 3) (σ : State) : Out :=
  σ.vElem true d a b x y g fun p q _ gen => (p ^^^ q, gen)
/-- VSHL (R226): bits 5:0 of b. -/
def execVshl (d a b : BitVec 7) (x y : BitVec 1) (g : BitVec 3) (σ : State) : Out :=
  σ.vElem true d a b x y g fun p q _ gen => (shlElem σ.vT p (q % 64), gen)
/-- VSHR (R226). -/
def execVshr (d a b : BitVec 7) (x y : BitVec 1) (g : BitVec 3) (σ : State) : Out :=
  σ.vElem true d a b x y g fun p q _ gen => (shrElem σ.vT p (q % 64), gen)
/-- VHASH (R227): `.i32` and `.n32`. -/
def execVhash (d a b : BitVec 7) (x y : BitVec 1) (g : BitVec 3) (σ : State) : Out :=
  σ.vElem (decide (σ.vT = 2) || decide (σ.vT = 5)) d a b x y g fun p q _ gen => (hashElem p q, gen)

/-! ## Compare and select (R228) -/

/-- A compare into a predicate: 0 EQ, 1 NE, 2 LT, 3 LE, 4 GT, 5 GE. -/
def cmpNum (op : Nat) (a b : Num) : Bool :=
  if op = 0 then a.eq b else if op = 1 then !a.eq b
  else if op = 2 then a.lt b else if op = 3 then a.lt b || a.eq b
  else if op = 4 then b.lt a else b.lt a || a.eq b
def State.vCmp (σ : State) (op : Nat) (d : BitVec 3) (a b : BitVec 7) (x y : BitVec 1) (g : BitVec 3) : Out :=
  let z := σ.vZ
  let srcs := [opnd a x (σ.vN * z), opnd b y (σ.vN * z)]
  σ.vecWord (decide (d ≠ 0)) srcs none fun cs =>
    σ.vecRetireP srcs d.toNat ((σ.actives g).filter fun i =>
      cmpNum op (elemNum σ.vT (elemAt (cs.getD 0 0) z i)) (elemNum σ.vT (elemAt (cs.getD 1 0) z i)))

/-- VCEQ (R228). -/
def execVceq (d : BitVec 3) (a b : BitVec 7) (x y : BitVec 1) (g : BitVec 3) (σ : State) : Out := σ.vCmp 0 d a b x y g
/-- VCNE (R228). -/
def execVcne (d : BitVec 3) (a b : BitVec 7) (x y : BitVec 1) (g : BitVec 3) (σ : State) : Out := σ.vCmp 1 d a b x y g
/-- VCLT (R228). -/
def execVclt (d : BitVec 3) (a b : BitVec 7) (x y : BitVec 1) (g : BitVec 3) (σ : State) : Out := σ.vCmp 2 d a b x y g
/-- VCLE (R228). -/
def execVcle (d : BitVec 3) (a b : BitVec 7) (x y : BitVec 1) (g : BitVec 3) (σ : State) : Out := σ.vCmp 3 d a b x y g
/-- VCGT (R228). -/
def execVcgt (d : BitVec 3) (a b : BitVec 7) (x y : BitVec 1) (g : BitVec 3) (σ : State) : Out := σ.vCmp 4 d a b x y g
/-- VCGE (R228). -/
def execVcge (d : BitVec 3) (a b : BitVec 7) (x y : BitVec 1) (g : BitVec 3) (σ : State) : Out := σ.vCmp 5 d a b x y g

/-- VSEL (R228): the predicate selects, for every element below n. -/
def execVsel (d a b : BitVec 7) (x y : BitVec 1) (g : BitVec 3) (σ : State) : Out :=
  let z := σ.vZ
  let n := σ.vN
  let srcs := [opnd a x (n * z), opnd b y (n * z)]
  let dst := opnd d 0 (n * z)
  σ.vecWord true srcs (some dst) fun cs =>
    σ.vecRetire srcs dst ((List.range n).map fun i =>
      (i * z, z, some (elemAt (if (σ.vHere.pred g.toNat).getLsbD i then cs.getD 0 0 else cs.getD 1 0) z i))) σ.eHere.gen
/-- VMOV (R228). -/
def execVmov (d a : BitVec 7) (x : BitVec 1) (g : BitVec 3) (σ : State) : Out := σ.vElem1 true d a x g fun p gen => (p, gen)

/-! ## Immediate forms (R225) -/

/-- `imm_value` of R225 for the signed words; rounded to nearest even where the type is floating. -/
def immSigned (t : Nat) (i : BitVec 9) : Nat :=
  match typeFmt t with
  | some f => f.rne (.ofInt i.toInt 0)
  | none => wrapTo t i.toInt
def immPattern (t : Nat) (i : BitVec 9) : Nat := i.toNat % 2 ^ typeBits t

/-- VADDI (R225). -/
def execVaddi (d a : BitVec 7) (i : BitVec 9) (g : BitVec 3) (σ : State) : Out :=
  σ.vElem1 true d a 0 g fun p => addElem false σ.vT σ.vRm p (immSigned σ.vT i)
/-- VMULI (R225). -/
def execVmuli (d a : BitVec 7) (i : BitVec 9) (g : BitVec 3) (σ : State) : Out :=
  σ.vElem1 true d a 0 g fun p => mulElem σ.vT σ.vRm p (immSigned σ.vT i)
/-- VANDI (R225). -/
def execVandi (d a : BitVec 7) (i : BitVec 9) (g : BitVec 3) (σ : State) : Out :=
  σ.vElem1 true d a 0 g fun p gen => (p &&& immPattern σ.vT i, gen)
/-- VORI (R225). -/
def execVori (d a : BitVec 7) (i : BitVec 9) (g : BitVec 3) (σ : State) : Out :=
  σ.vElem1 true d a 0 g fun p gen => (p ||| immPattern σ.vT i, gen)
/-- VXORI (R225). -/
def execVxori (d a : BitVec 7) (i : BitVec 9) (g : BitVec 3) (σ : State) : Out :=
  σ.vElem1 true d a 0 g fun p gen => (p ^^^ immPattern σ.vT i, gen)
/-- VSHLI (R225, R226): a count above 31 faults (R223). -/
def execVshli (d a : BitVec 7) (i : BitVec 9) (g : BitVec 3) (σ : State) : Out :=
  σ.vElem1 (decide (i.toNat ≤ 31)) d a 0 g fun p gen => (shlElem σ.vT p i.toNat, gen)
/-- VSHRI (R225, R226). -/
def execVshri (d a : BitVec 7) (i : BitVec 9) (g : BitVec 3) (σ : State) : Out :=
  σ.vElem1 (decide (i.toNat ≤ 31)) d a 0 g fun p gen => (shrElem σ.vT p i.toNat, gen)
/-- VSPLAT (R225): no source. -/
def execVsplat (d : BitVec 7) (i : BitVec 9) (g : BitVec 3) (σ : State) : Out :=
  let z := σ.vZ
  let dst := opnd d 0 (σ.vN * z)
  σ.vecWord true [] (some dst) fun _ =>
    σ.vecRetire [] dst (elemParts σ.vN z ((σ.actives g).map fun j => (j, immSigned σ.vT i))) σ.eHere.gen
/-- VMINI (R225). -/
def execVmini (d a : BitVec 7) (i : BitVec 9) (g : BitVec 3) (σ : State) : Out :=
  σ.vElem1 true d a 0 g fun p gen => (minMaxElem true σ.vT p (immSigned σ.vT i), gen)
/-- VMAXI (R225). -/
def execVmaxi (d a : BitVec 7) (i : BitVec 9) (g : BitVec 3) (σ : State) : Out :=
  σ.vElem1 true d a 0 g fun p gen => (minMaxElem false σ.vT p (immSigned σ.vT i), gen)

/-! ## Extended words (R229) -/

def State.vTrans (σ : State) (op : Nat) (d a : BitVec 7) (x : BitVec 1) (g : BitVec 3) : Out :=
  σ.vElem1 (isFloat σ.vT) d a x g fun p gen => (transcendental op σ.vT p, gen)
/-- EXP2 (R229, R113). -/
def execExp2 (d a : BitVec 7) (x : BitVec 1) (g : BitVec 3) (σ : State) : Out := σ.vTrans 0 d a x g
/-- LOG2 (R229, R113). -/
def execLog2 (d a : BitVec 7) (x : BitVec 1) (g : BitVec 3) (σ : State) : Out := σ.vTrans 1 d a x g
/-- RCP (R229, R113). -/
def execRcp (d a : BitVec 7) (x : BitVec 1) (g : BitVec 3) (σ : State) : Out := σ.vTrans 2 d a x g
/-- RSQ (R229, R113). -/
def execRsq (d a : BitVec 7) (x : BitVec 1) (g : BitVec 3) (σ : State) : Out := σ.vTrans 3 d a x g

/-- The sign bit of a floating element cleared or inverted; a NaN becomes canonical. -/
def signElem (negate : Bool) (t a : Nat) : Nat :=
  match typeFmt t with
  | some f =>
    if (f.decode a).isNaN then f.canonNaN
    else if negate then a ^^^ 2 ^ (f.width - 1) else a % 2 ^ (f.width - 1)
  | none => wrapTo t (if negate then -(intOf t a) else ((intOf t a).natAbs : Int))
/-- Leading zero bits of a k-bit pattern. -/
def clzBits (k a : Nat) : Nat := if a = 0 then k else k - 1 - Nat.log2 a
def popBits (k a : Nat) : Nat := ((List.range k).filter fun i => a.testBit i).length

/-- VABS (R229): signed integers and floating types. -/
def execVabs (d a : BitVec 7) (x : BitVec 1) (g : BitVec 3) (σ : State) : Out :=
  σ.vElem1 (typeSigned σ.vT || !isInt σ.vT) d a x g fun p gen => (signElem false σ.vT p, gen)
/-- VNEG (R229). -/
def execVneg (d a : BitVec 7) (x : BitVec 1) (g : BitVec 3) (σ : State) : Out :=
  σ.vElem1 (typeSigned σ.vT || !isInt σ.vT) d a x g fun p gen => (signElem true σ.vT p, gen)
/-- VCLZ (R229): integer types. -/
def execVclz (d a : BitVec 7) (x : BitVec 1) (g : BitVec 3) (σ : State) : Out :=
  σ.vElem1 (isInt σ.vT) d a x g fun p gen => (clzBits (typeBits σ.vT) p, gen)
/-- VPOPC (R229): integer types. -/
def execVpopc (d a : BitVec 7) (x : BitVec 1) (g : BitVec 3) (σ : State) : Out :=
  σ.vElem1 (isInt σ.vT) d a x g fun p gen => (popBits (typeBits σ.vT) p, gen)

/-! ## Conversion (R230 to R232) -/

/-- VCVT (R230): from the bound type to type code t. -/
def execVcvt (d a : BitVec 7) (m : BitVec 3) (t : BitVec 4) (x : BitVec 1) (g : BitVec 3) (σ : State) : Out :=
  let n := σ.vN
  let z := σ.vZ
  let zd := typeBits t.toNat / 8
  let srcs := [opnd a x (n * z)]
  let dst := opnd d 0 (n * zd)
  σ.vecWord (decide (m.toNat ≤ 4) && decide (t.toNat ≤ 10) && decide (n * zd ≤ 1024)) srcs (some dst) fun cs =>
    let r := overActive (fun i gen => convert σ.vT t.toNat (elemAt (cs.getD 0 0) z i) m.toNat gen) (σ.actives g) σ.eHere.gen
    σ.vecRetire srcs dst (elemParts n zd r.1) r.2

/-- VQNT and VDQ take `.f` and `.bf` in multiples of 32 elements (R223). -/
def State.blockOk (σ : State) : Bool := (decide (σ.vT = 8) || decide (σ.vT = 7)) && decide (σ.vN % 32 = 0)

/-- The encoded blocks of VQNT in ascending order, threading the generator: the code bytes and the scale byte of each. -/
def qntBlocks (t z A q mode : Nat) : List Nat → BitVec 32 → List (Nat × Nat × Nat) × BitVec 32
  | [], g => ([], g)
  | j :: r, g =>
    let e := q4encode ((List.range 32).map fun i => elemNum t (elemAt A z (32 * j + i))) q mode g
    let codes := (e.1.zipIdx).foldl (fun a p => a + p.1 * 16 ^ p.2) 0
    let rest := qntBlocks t z A q mode r e.2.2
    ((j, codes, e.2.1) :: rest.1, rest.2)

/-- VQNT (R231): a block is encoded where the predicate's bit of its first element is set. -/
def execVqnt (d a : BitVec 7) (m : BitVec 3) (t : BitVec 2) (x : BitVec 1) (g : BitVec 3) (σ : State) : Out :=
  let n := σ.vN
  let z := σ.vZ
  let srcs := [opnd a x (n * z)]
  let dst := opnd d 0 (512 + n / 32)
  σ.vecWord (σ.blockOk && decide (m.toNat ≤ 4)) srcs (some dst) fun cs =>
    let on := (List.range (n / 32)).filter fun j => (σ.vHere.pred g.toNat).getLsbD (32 * j)
    let r := qntBlocks σ.vT z (cs.getD 0 0) t.toNat m.toNat on σ.eHere.gen
    let parts : List VPart := (List.range (n / 32)).flatMap fun j =>
      match Tbl.find? r.1 j with
      | some (codes, s) => [(16 * j, 16, some codes), (512 + j, 1, some s)]
      | none => [(16 * j, 16, none), (512 + j, 1, none)]
    σ.vecRetire srcs dst parts r.2

/-- VDQ (R232): exact values of codes and scales. -/
def execVdq (d a b : BitVec 7) (x y : BitVec 1) (g : BitVec 3) (σ : State) : Out :=
  let n := σ.vN
  let z := σ.vZ
  let srcs := [opnd a x (n / 2), opnd b y (512 + n / 32)]
  let dst := opnd d 0 (n * z)
  σ.vecWord σ.blockOk srcs (some dst) fun cs =>
    let value (i : Nat) : Nat :=
      let code := cs.getD 0 0 / 16 ^ i % 16
      let s := getBytes (cs.getD 1 0) (512 + i / 32) 1
      match typeFmt σ.vT with
      | some f => f.rne (q4num s code)
      | none => 0
    σ.vecRetire srcs dst (elemParts n z ((σ.actives g).map fun i => (i, value i))) σ.eHere.gen

end Sys2Proof.Machine
end

