-- ==== Sys2Proof/Machine/VectorMove.lean ====
section
/-!
DEFINITION. The vector words that move data, the vector atomics, permutes, reductions and predicate logic: 12 (R234 to R245), and
the loop prefix (07 R151).
-/

namespace Sys2Proof.Machine

/-- A word without a vector destination retires: its pops, then the next word. -/
def State.vecPopDone (σ : State) (srcs : List Opnd) : Out :=
  (σ.takeSources srcs).wordDone

/-! ## A and C (R235, R236) -/

/-- The start of the run: bytes 0 to 3 of the address register plus 64 * off7. -/
def State.vBufAddr (σ : State) (a : BitVec 6) (o : BitVec 7) : Int := (getBytes (σ.vHere.reg a.toNat) 0 4 : Nat) + 64 * o.toInt
/-- The fault of a run of n * z bytes below a limit, if any. -/
def State.vBufFault (σ : State) (a : Int) (limit : Nat) : Option Nat :=
  if a % 64 ≠ 0 then some causeStepIllegal
  else if a < 0 ∨ limit < a + (σ.vN * σ.vZ : Nat) then some causeOutside
  else none

/-- A C byte and its write. -/
def State.cByte (σ : State) (core off : Nat) : Nat := (σ.cElem core (off / 4 * 4)).toNat / 256 ^ (off % 4) % 256
def State.cNat (σ : State) (core off n : Nat) : Nat :=
  (List.range n).foldr (fun i a => σ.cByte core (off + i) + 256 * a) 0
def State.cPoke (σ : State) (core off v : Nat) : State :=
  let w := (σ.cElem core (off / 4 * 4)).toNat
  σ.cWrite core (off / 4 * 4) (BitVec.ofNat 32 (putBytes w (off % 4) 1 v))
def State.cPut (σ : State) (core off n v : Nat) : State :=
  (List.range n).foldl (fun σ i => σ.cPoke core (off + i) (v / 256 ^ i)) σ

/-- The slabs a run touches, ascending. -/
def slabsOf (a n : Nat) : List Nat := (List.range ((a + n - 1) / 4096 - a / 4096 + 1)).map fun i => a / 4096 + i

/-- The touches of R58 in order: those made, and the first slab that is foreign. -/
def State.touchRun (σ : State) (core slot : Nat) : List Nat → State × Option Nat
  | [] => (σ, none)
  | j :: r =>
    match σ.ownerTouch core slot j with
    | .ok σ => State.touchRun σ core slot r
    | .error _ => (σ, some j)

/-- An engine's step waits until firmware has reassigned a slab; the service is asked for once (R235, R261, R269, R383). -/
def State.foreignWait (σ : State) (core slot slab : Nat) : Out :=
  if (σ.coreOf core).foreign.any fun f => decide (f.1 = slab) && decide (f.2.1 = slot) then .next σ
  else .next ((σ.raiseEvent core (engSrc σ.eng) causeAccForeign).wantSlab core slot slab)

/-- Whether a touched slab has writes pending for the word's program (R236). -/
def State.vPending (σ : State) (js : List Nat) : Bool :=
  js.any fun j => decide (σ.pendingAt σ.core σ.eng j σ.runHere.id ≠ 0)

/-- VLDA (R235). -/
def execVlda (d : BitVec 7) (a : BitVec 6) (o : BitVec 7) (g : BitVec 3) (σ : State) : Out :=
  let z := σ.vZ
  let n := σ.vN
  let dst := opnd d 0 (n * z)
  let at' := σ.vBufAddr a o
  σ.vecWord true [] (some dst) fun _ =>
    match σ.vBufFault at' (σ.ctxOf σ.core σ.eng).asize with
    | some c => σ.engineFault c (BitVec.ofInt 64 at')
    | none =>
      σ.vecRetire [] dst (elemParts n z ((σ.actives g).map fun i => (i, σ.aNat σ.core σ.eng (at'.toNat + i * z) z))) σ.eHere.gen

/-- VSTA (R235): only active elements are written. -/
def execVsta (d : BitVec 6) (a o : BitVec 7) (x : BitVec 1) (g : BitVec 3) (σ : State) : Out :=
  let z := σ.vZ
  let srcs := [opnd a x (σ.vN * z)]
  let at' := σ.vBufAddr d o
  σ.vecWord true srcs none fun cs =>
    match σ.vBufFault at' (σ.ctxOf σ.core σ.eng).asize with
    | some c => σ.engineFault c (BitVec.ofInt 64 at')
    | none =>
      let core := σ.core
      let slot := σ.eng
      let w := cs.getD 0 0
      let σ := (σ.actives g).foldl (fun (σ : State) i => σ.aWrite core slot (at'.toNat + i * z) (natBytes z (elemAt w z i))) σ
      σ.vecPopDone srcs

/-- VLDC in both forms (R235, R236): `nowait` sets f0. -/
def State.vLoadC (σ : State) (nowait : Bool) (d : BitVec 7) (a : BitVec 6) (o : BitVec 7) (g : BitVec 3) : Out :=
  let z := σ.vZ
  let n := σ.vN
  let dst := opnd d 0 (n * z)
  let at' := σ.vBufAddr a o
  σ.vecWord true [] (some dst) fun _ =>
    match σ.vBufFault at' (2 ^ 23) with
    | some c => σ.engineFault c (BitVec.ofInt 64 at')
    | none =>
      let js := slabsOf at'.toNat (n * z)
      match σ.touchRun σ.core σ.eng js with
      | (σ, some j) => σ.foreignWait σ.core σ.eng j
      | (σ, none) =>
        let pend := σ.vPending js
        if pend ∧ !nowait then .next σ
        else
          let c := σ.ctxOf σ.core σ.eng
          let σ := if nowait then σ.setCtx σ.core σ.eng (c.setF 0 pend) else σ
          σ.vecRetire [] dst (elemParts n z ((σ.actives g).map fun i => (i, σ.cNat σ.core (at'.toNat + i * z) z))) σ.eHere.gen

/-- VLDC (R236): waits for the touched slabs' pending counts. -/
def execVldc (d : BitVec 7) (a : BitVec 6) (o : BitVec 7) (g : BitVec 3) (σ : State) : Out := σ.vLoadC false d a o g
/-- VLDC.NOWAIT (R236). -/
def execVldcNowait (d : BitVec 7) (a : BitVec 6) (o : BitVec 7) (g : BitVec 3) (σ : State) : Out := σ.vLoadC true d a o g

/-- VSTC (R236). -/
def execVstc (d : BitVec 6) (a o : BitVec 7) (x : BitVec 1) (g : BitVec 3) (σ : State) : Out :=
  let z := σ.vZ
  let n := σ.vN
  let srcs := [opnd a x (n * z)]
  let at' := σ.vBufAddr d o
  σ.vecWord true srcs none fun cs =>
    match σ.vBufFault at' (2 ^ 23) with
    | some c => σ.engineFault c (BitVec.ofInt 64 at')
    | none =>
      let js := slabsOf at'.toNat (n * z)
      match σ.touchRun σ.core σ.eng js with
      | (σ, some j) => σ.foreignWait σ.core σ.eng j
      | (σ, none) =>
        if σ.vPending js then .next σ
        else
          let core := σ.core
          let w := cs.getD 0 0
          let σ := (σ.actives g).foldl (fun (σ : State) i => σ.cPut core (at'.toNat + i * z) z (elemAt w z i)) σ
          σ.vecPopDone srcs

/-! ## Gather and scatter (R238) -/

/-- Element i's address: base + index * z modulo 2^64. -/
def State.vAddr (σ : State) (idx base : BitVec 6) (i : Nat) : Word :=
  BitVec.ofNat 64 (getBytes (σ.vHere.reg base.toNat) 0 8 + elemAt (σ.vHere.reg idx.toNat) 4 i * σ.vZ)

/-- The name of the access of element i of a vector word to a remote window. -/
def State.laneName (σ : State) (i : Nat) : Nat := askName σ.eng 0 i

/-- The checks of the active elements in ascending order: alignment, translation, and a window the access may go to, unless it has been
sent (R390). The first failing one decides the fault. -/
def State.vXlate (σ : State) (align : Nat) (kind : Kind) (op : GOp) : List (Nat × Word) → Chk (List (Nat × Word × Xl))
  | [] => .ok []
  | (i, va) :: r =>
    if !aligned va align then failWith causeStepIllegal va else
    match σ.translate σ.core σ.eng va kind op with
    | .error e => .error { e with detail := va }
    | .ok x =>
      if x.remote ∧ !σ.windowOk x.frame ∧ (σ.sentBy σ.core σ.eng (some (σ.laneName i))).isNone then failWith causeOutside va else
      match State.vXlate σ align kind op r with
      | .error e => .error e
      | .ok l => .ok ((i, va, x) :: l)

/-- The slot's context as its vector engine sees it (R87). -/
def State.vCtx (σ : State) : Ctx := (σ.ctxOf σ.core σ.eng).swapViews
/-- The bytes of an element are all in the vector engine's view without a read of memory. -/
def State.vHas (σ : State) (n : Nat) (x : Xl) : Bool := σ.vCtx.hasAll x.key n

/-- The owner and seal checks of the elements that reach memory. -/
def State.vAccess (σ : State) (n : Nat) : List (Nat × Word × Xl) → Chk Unit
  | [] => .ok ()
  | (_, va, x) :: r =>
    if x.remote then State.vAccess σ n r
    else
      match σ.accessCheck (σ.vfOf σ.core σ.eng) x.pa n va with
      | .error e => .error e
      | .ok _ => State.vAccess σ n r

/-- A word's accesses to remote windows: each carried, and all answered, before the word goes on. -/
def State.vRemote (σ : State) (l : List (Nat × Word × Xl)) : Chk Loaded :=
  let rem := l.filter fun p => p.2.2.remote
  match σ.fabricAskAll σ.core σ.eng (rem.map fun p => (σ.laneName p.1, p.2.2.frame, p.2.1)) with
  | .refused _ va => failWith causeOutside va
  | .wait σ => .ok (.waiting σ)
  | .reply σ late =>
    match rem.find? fun p => late.contains (σ.laneName p.1) with
    | some p => failWith causeFabTimeout p.2.1
    | none => .ok (.value 0 σ)

/-- The elements' values through the lot view, ascending; an element that reads memory fills its line (R71). -/
def State.vReadIn (σ : State) (z : Nat) : List (Nat × Word × Xl) → State × List (Nat × Nat)
  | [] => (σ, [])
  | (i, _, x) :: r =>
    let core := σ.core
    let slot := σ.eng
    let c := σ.ctxOf core slot
    let q := if x.remote then σ.remoteRead core slot x.key z
      else
        let q := σ.lotRead c x.pa z
        (q.1, (if c.hasAll x.pa z then σ else σ.fill x.pa).setCtx core slot q.2)
    let p := State.vReadIn q.2 z r
    (p.1, (i, q.1) :: p.2)
/-- The elements' values through the lot view as the vector engine sees it (R87). -/
def State.vRead (σ : State) (z : Nat) (l : List (Nat × Word × Xl)) : State × List (Nat × Nat) :=
  let r := (σ.swapViews σ.core σ.eng).vReadIn z l
  (r.1.swapViews σ.core σ.eng, r.2)

/-- VGATH (R238). -/
def execVgath (d : BitVec 7) (a b : BitVec 6) (g : BitVec 3) (σ : State) : Out :=
  let z := σ.vZ
  let n := σ.vN
  let dst := opnd d 0 (n * z)
  σ.vecWord (decide (n ≤ 256)) [] (some dst) fun _ =>
    match σ.vXlate z .read .plain ((σ.actives g).map fun i => (i, σ.vAddr a b i)) with
    | .error e => σ.engineFault e.cause e.detail
    | .ok l =>
      let far := l.filter fun p => !σ.vHas z p.2.2
      match σ.vAccess z far with
      | .error e => σ.engineFault e.cause e.detail
      | .ok _ =>
        match σ.vRemote far with
        | .error e => σ.engineFault e.cause e.detail
        | .ok (.waiting σ) => .next σ
        | .ok (.value _ σ) =>
          let r := σ.vRead z l
          r.1.vecRetire [] dst (elemParts n z r.2) r.1.eHere.gen

/-- The held stores of a scatter in ascending order; the address of the element that needs line 8193 (R86). -/
def holdElems (z w : Nat) : List (Nat × Word × Xl) → Ctx → Except Word Ctx
  | [], c => .ok c
  | (i, va, x) :: r, c =>
    match c.addLine x.key va with
    | none => .error va
    | some c => holdElems z w r (c.holdBytes (bytesAt x.key z (elemAt w z i)))

/-- The lines of the elements in memory are in the far cache (R71). -/
def State.vFill (σ : State) (l : List (Nat × Word × Xl)) : State :=
  l.foldl (fun (σ : State) p => if p.2.2.remote then σ else σ.fill p.2.2.pa) σ

/-- VSCAT (R238). -/
def execVscat (d : BitVec 6) (a : BitVec 7) (b : BitVec 6) (x : BitVec 1) (g : BitVec 3) (σ : State) : Out :=
  let z := σ.vZ
  let n := σ.vN
  let srcs := [opnd a x (n * z)]
  σ.vecWord (decide (n ≤ 256)) srcs none fun cs =>
    match σ.vXlate z .write .plain ((σ.actives g).map fun i => (i, σ.vAddr d b i)) with
    | .error e => σ.engineFault e.cause e.detail
    | .ok l =>
      match σ.vAccess z l with
      | .error e => σ.engineFault e.cause e.detail
      | .ok _ =>
        match holdElems z (cs.getD 0 0) l σ.vCtx with
        | .error va => σ.engineFault causeCommitFull va
        | .ok c => ((σ.vFill l).setCtx σ.core σ.eng c.swapViews).vecPopDone srcs

/-! ## Vector atomics (R239, R240) -/

/-- Near lanes on the lot view in ascending order; the address of the lane that needs line 8193. -/
def State.nearLanes (req n op D z : Nat) : List (Nat × Word × Xl) → State → Ctx → Except Word (List (Nat × Nat) × State × Ctx)
  | [], σ, c => .ok ([], σ, c)
  | (i, va, x) :: r, σ, c =>
    let p := σ.foreignBytes req c x.pa n
    let σ := if σ.ownerOk req x.pa && !c.hasAll x.pa n then p.1.fill x.pa else p.1
    match σ.nearOp p.2 x.pa va n op (elemAt D z i) none with
    | (_, none) => .error va
    | (old, some c) =>
      match State.nearLanes req n op D z r σ c with
      | .error va => .error va
      | .ok q => .ok ((i, old) :: q.1, q.2.1, q.2.2)

/-- Far lanes at their home slices in ascending order; what a remote slice answers is a free value (log 5). -/
def State.farLanes (n op D z : Nat) : List (Nat × Word × Xl) → State → List (Nat × Nat) × State
  | [], σ => ([], σ)
  | (i, _, x) :: r, σ =>
    if x.remote then
      let q := State.farLanes n op D z r σ.tickFresh
      ((i, (Config.freeWord σ.fresh).toNat % 256 ^ n) :: q.1, q.2)
    else
      let σ := σ.fill x.pa
      let old := σ.memNat x.pa n
      let q := State.farLanes n op D z r (σ.writeNat x.pa n (atomicVal op (8 * n) old (elemAt D z i)))
      ((i, old) :: q.1, q.2)

/-- The pairings of R239. -/
def vatomOk (t n op : Nat) : Bool :=
  decide (n ≤ 128) && (if t = 8 then decide (op = 9) else ([2, 5, 11, 12].contains t) && decide (op ≤ 8))

/-- VATOM (R239). -/
def execVatom (d a : BitVec 6) (o : BitVec 4) (f : BitVec 1) (g : BitVec 3) (σ : State) : Out :=
  let z := σ.vZ
  let n := σ.vN
  let dst := regOpnd d
  let D := σ.vHere.reg d.toNat
  let req := σ.vfOf σ.core σ.eng
  σ.vecWord (vatomOk σ.vT n o.toNat) [] none fun _ =>
    let lanes := (σ.actives g).map fun i => (i, BitVec.ofNat 64 (elemAt (σ.vHere.reg a.toNat) 8 i))
    match σ.vXlate z .rmw (if f = 1 then .plain else .near) lanes with
    | .error e => σ.engineFault e.cause e.detail
    | .ok l =>
      if f = 1 then
        match σ.vAccess z l with
        | .error e => σ.engineFault e.cause e.detail
        | .ok _ =>
          match σ.vRemote l with
          | .error e => σ.engineFault e.cause e.detail
          | .ok (.waiting σ) => .next σ
          | .ok (.value _ σ) =>
            let r := State.farLanes z o.toNat D z l σ
            r.2.vecRetire [] dst (elemParts n z r.1) r.2.eHere.gen
      else
        match l.find? fun p => σ.ownerOk req p.2.2.pa && !σ.sealOk p.2.2.pa && !σ.vHas z p.2.2 with
        | some p => σ.engineFault causeSealFail p.2.1
        | none =>
          match State.nearLanes req z o.toNat D z l σ σ.vCtx with
          | .error va => σ.engineFault causeCommitFull va
          | .ok r => (r.2.1.setCtx σ.core σ.eng r.2.2.swapViews).vecRetire [] dst (elemParts n z r.1) σ.eHere.gen

/-! ## Permutes and shuffles (R241) -/

/-- VPERM (R241). -/
def execVperm (d a b : BitVec 7) (x y : BitVec 1) (g : BitVec 3) (σ : State) : Out :=
  let z := σ.vZ
  let n := σ.vN
  let srcs := [opnd a x (n * z), opnd b y (n * z)]
  let dst := opnd d 0 (n * z)
  σ.vecWord true srcs (some dst) fun cs =>
    let pick (i : Nat) : Nat :=
      let k := elemAt (cs.getD 1 0) z i
      if k < n then elemAt (cs.getD 0 0) z k else 0
    σ.vecRetire srcs dst (elemParts n z ((σ.actives g).map fun i => (i, pick i))) σ.eHere.gen

/-- Element i of a shuffle: 0 ziplo, 1 ziphi, 2 uzpev, 3 uzpod, 4 rotdn, 5 rev. -/
def shufElem (kind amt n z A D i : Nat) : Nat :=
  if kind = 0 then (if i % 2 = 0 then elemAt A z (i / 2) else elemAt D z (i / 2))
  else if kind = 1 then (if i % 2 = 0 then elemAt A z (n / 2 + i / 2) else elemAt D z (n / 2 + i / 2))
  else if kind = 2 then (if i < n / 2 then elemAt A z (2 * i) else elemAt D z (2 * i - n))
  else if kind = 3 then (if i < n / 2 then elemAt A z (2 * i + 1) else elemAt D z (2 * i - n + 1))
  else if kind = 4 then elemAt A z ((i + amt) % n)
  else elemAt A z (n - 1 - i)

/-- VSHUF (R241): vd is also read; a channel va is peeked. -/
def execVshuf (d : BitVec 6) (a : BitVec 7) (k : BitVec 3) (h : BitVec 6) (g : BitVec 3) (σ : State) : Out :=
  let z := σ.vZ
  let n := σ.vN
  let srcs := [opnd a 0 (n * z)]
  let dst := regOpnd d
  σ.vecWord (decide (k.toNat ≤ 5) && (decide (4 ≤ k.toNat) || decide (n % 2 = 0)) && (decide (k.toNat = 4) || decide (h = 0))) srcs
    none fun cs =>
    let D := σ.vHere.reg d.toNat
    σ.vecRetire srcs dst
      (elemParts n z ((σ.actives g).map fun i => (i, shufElem k.toNat h.toNat n z (cs.getD 0 0) D i))) σ.eHere.gen

/-! ## Reductions and scans (R242) -/

/-- acc ⊕ a: 0 ADD, 1 MIN, 2 MAX, 3 AND, 4 OR, 5 XOR. -/
def foldOp (op t rm acc a : Nat) (g : BitVec 32) : Nat × BitVec 32 :=
  if op = 0 then addElem false t rm acc a g
  else if op = 1 then (minMaxElem true t acc a, g)
  else if op = 2 then (minMaxElem false t acc a, g)
  else if op = 3 then (acc &&& a, g)
  else if op = 4 then (acc ||| a, g)
  else (acc ^^^ a, g)
/-- The identity of a fold. -/
def foldUnit (op t : Nat) : Nat :=
  match typeFmt t with
  | some f =>
    if op = 1 then f.infPat false else if op = 2 then f.infPat true else if op = 3 then 2 ^ f.width - 1 else 0
  | none =>
    if op = 1 then wrapTo t (typeMax t) else if op = 2 then wrapTo t (typeMin t)
    else if op = 3 then 2 ^ typeBits t - 1 else 0
/-- The running folds over a list of elements in order; the last is the fold of all. -/
def runFolds (op t rm : Nat) : List (Nat × Nat) → Option Nat → BitVec 32 → List (Nat × Nat) × BitVec 32
  | [], _, g => ([], g)
  | (i, a) :: r, acc, g =>
    let x := match acc with | none => (a, g) | some acc => foldOp op t rm acc a g
    let rest := runFolds op t rm r (some x.1) x.2
    ((i, x.1) :: rest.1, rest.2)

/-- VRED (R242): element 0, whatever bit 0 of the predicate; a pushed slot's other elements are zero. -/
def execVred (d a : BitVec 7) (p : BitVec 3) (x : BitVec 1) (g : BitVec 3) (σ : State) : Out :=
  let z := σ.vZ
  let n := σ.vN
  let srcs := [opnd a x (n * z)]
  let dst := opnd d 0 (n * z)
  σ.vecWord (decide (p.toNat ≤ 5)) srcs (some dst) fun cs =>
    let r := runFolds p.toNat σ.vT σ.vRm ((σ.actives g).map fun i => (i, elemAt (cs.getD 0 0) z i)) none σ.eHere.gen
    let v := (r.1.getLast?.map fun q => q.2).getD (foldUnit p.toNat σ.vT)
    σ.vecRetire srcs dst (elemParts n z [(0, v)]) r.2

/-- VSCAN (R242). -/
def execVscan (d a : BitVec 7) (p : BitVec 3) (x : BitVec 1) (g : BitVec 3) (σ : State) : Out :=
  let z := σ.vZ
  let n := σ.vN
  let srcs := [opnd a x (n * z)]
  let dst := opnd d 0 (n * z)
  σ.vecWord (decide (p.toNat ≤ 5)) srcs (some dst) fun cs =>
    let r := runFolds p.toNat σ.vT σ.vRm ((σ.actives g).map fun i => (i, elemAt (cs.getD 0 0) z i)) none σ.eHere.gen
    σ.vecRetire srcs dst (elemParts n z r.1) r.2

/-! ## Predicates, halt and prefix (R243, R244, R151) -/

def plogBit (op : Nat) (a b : Bool) : Bool :=
  if op = 0 then a && b else if op = 1 then a || b else if op = 2 then a != b else if op = 3 then a && !b else !a

/-- VPLOG (R243): 0 AND, 1 OR, 2 XOR, 3 ANDN, 4 NOT. -/
def execVplog (d a o b g : BitVec 3) (σ : State) : Out :=
  let v := σ.vHere
  σ.vecWord (decide (d ≠ 0) && decide (o.toNat ≤ 4) && (decide (o.toNat ≠ 4) || decide (b = 0))) [] none fun _ =>
    σ.vecRetireP [] d.toNat ((σ.actives g).filter fun i =>
      plogBit o.toNat ((v.pred a.toNat).getLsbD i) ((v.pred b.toNat).getLsbD i))

/-- VHALT (R244): the body ends at this point of the loop space; at the last point the program may retire. -/
def execVhalt (σ : State) : Out :=
  let r := σ.runHere.endBody
  let σ := σ.setRun r
  .next (if r.halted then σ.push (.programRetire σ.core σ.eng) else σ)

/-- The word after a prefix may follow it: it exists in the body and is no prefix and no VHALT. A word that cannot be fetched
is left to its own fetch. -/
def State.prefixOk (σ : State) : Bool :=
  let r := σ.runHere
  if r.prog.bodyLen ≤ r.upc + 1 then false else
  match σ.fetchWord (r.upc + 1) with
  | .word w _ => decide (w / 2 ^ 26 ≠ 0x3C) && decide (w / 2 ^ 26 ≠ 0x3D)
  | .stop _ => true

/-- VFL (R151): the prefix and the vector word after it issue as one, so that word is the very next step. -/
def execVfl (f l : BitVec 1) (v : BitVec 3) (σ : State) : Out :=
  if (f = 0 ∧ l = 0) ∨ 6 ≤ v.toNat ∨ !σ.prefixOk then σ.engineFault causeStepIllegal
  else
    let r := σ.runHere
    let σ := σ.setRun { r with upc := r.upc + 1, vfl := some (decide (f = 1), decide (l = 1), v.toNat) }
    .next { σ with agenda := .vec σ.core σ.eng :: σ.agenda }

end Sys2Proof.Machine
end

