-- ==== Sys2Proof/Machine/Matrix.lean ====
section
/-!
DEFINITION. The step words of the fragments: 13 (R246 to R264), the Plaza's passes (05 R114, R115) and the link units (01 R24 to R26,
05 R116).
-/

namespace Sys2Proof.Machine

/-! ## The acting fragment -/

def State.mK (σ : State) : Nat := σ.eng - 4
def State.mFrag (σ : State) : Frag := σ.fragOf σ.core σ.mK
def State.setMFrag (σ : State) (f : Frag) : State := σ.setFrag σ.core σ.mK f
def State.mPlan (σ : State) : Nat := (σ.coreOf σ.core).plan
/-- First row, first column, depth and width of the fragment (R20). -/
def State.mCells (σ : State) : Nat × Nat × Nat × Nat := (cells σ.mPlan σ.mK).getD (0, 0, 0, 0)
def State.mCol (σ : State) : Nat := σ.mCells.2.1
def State.mDepth (σ : State) : Nat := σ.mCells.2.2.1
def State.mWidth (σ : State) : Nat := σ.mCells.2.2.2
/-- A stream or convolution record bound at the FORK (R184). -/
def Run.q (r : Run) (k : Nat) : BitVec 128 := Tbl.get r.prog.q 0 k
def Run.cv (r : Run) (k : Nat) : Nat := (Tbl.get r.prog.cv 0 k).toNat
/-- CUR of a stream and PIX of a convolution record (R248). -/
def Run.curOf (r : Run) (k : Nat) : Nat := Tbl.get r.cur 0 k
def Run.setCur (r : Run) (k v : Nat) : Run := { r with cur := Tbl.set r.cur k v }
def Run.pixOf (r : Run) (k : Nat) : Nat := Tbl.get r.pix 0 k
def State.mRing (σ : State) (q : BitVec 128) : Ring := (σ.ctxOf σ.core σ.eSlot).ring (q_ch q)

/-- A fault of a step: cause, FCAUSE, slab. -/
abbrev MFault := Nat × Nat × Nat
def State.mFault (σ : State) (f : MFault) : Out := σ.fragFault f.1 f.2.1 (BitVec.ofNat 64 f.2.2)
def stepIllegal : MFault := (causeStepIllegal, 0, 0)
def fragCause (n : Nat) : MFault := (causeFragFault, n, 0)
/-- The first condition that holds decides (R263). -/
def firstOf (l : List (Bool × MFault)) : Option MFault := (l.find? fun p => p.1).map fun p => p.2

/-- The producer's last vectors wait for room in the link's queue, which holds the sequencer (R26). -/
def State.mBlocked (σ : State) : Bool :=
  match σ.mFrag.passes with
  | p :: _ => p.applied && !p.vectors.isEmpty
  | [] => false

/-- The common course of a step word: the decode rules when the word is first reached, F and L, the checks of R263, then the
step, held while the link queue is full. -/
def State.matWord (σ : State) (f l : BitVec 1) (v : BitVec 3) (decodeOk : Bool) (check : Option MFault) (go : Out) : Out :=
  let r := σ.runHere
  let issue := r.flagsIssue (decide (f = 1)) (decide (l = 1)) v.toNat
  if ((f = 1 ∨ l = 1) ∧ 6 ≤ v.toNat) ∨ ((r.firstPass ∨ issue) ∧ !decodeOk) then σ.mFault stepIllegal
  else if !issue then σ.wordDone
  else match check with
  | some e => σ.mFault e
  | none => if σ.mBlocked then .next σ else go

/-- R247: a ring stream whose entry is configured. -/
def State.ringStream (σ : State) (q : BitVec 128) : Bool := !q_w q && (σ.mRing q).configured
/-- The touches of R261; a foreign slab holds the step. -/
def State.mTouch (σ : State) (js : List Nat) (go : State → Out) : Out :=
  match σ.touchRun σ.core σ.eSlot js with
  | (σ, some j) => σ.foreignWait σ.core σ.eSlot j
  | (σ, none) => go σ
/-- The first slab of a list that the fragment does not own (R21). -/
def State.mForeign (σ : State) (js : List Nat) : Option Nat :=
  js.find? fun j => decide (2048 ≤ j) || !ownsSlab σ.mPlan σ.mK j

/-! ## Operands (R249, R250) -/

/-- Bytes of a vector of n elements of a stream format, in 64-byte steps. -/
def pitch (fmt n : Nat) : Nat := (n * streamBits fmt + 511) / 512 * 64
/-- Element i of the vector at byte `off` of a slot's content; `scale b` is the scale byte of block b. -/
def actElem (fmt w off i : Nat) (scale : Nat → Nat) : Num :=
  if fmt = 5 then q4num (scale (i / 32)) (w / 2 ^ (8 * off + 4 * i) % 16)
  else let b := streamBits fmt / 8; streamNum fmt (getBytes w (off + i * b) b)
/-- The content of the slot at HEAD + CUR. -/
def State.slotContent (σ : State) (q : BitVec 128) (cur : Nat) : Nat :=
  let r := σ.mRing q
  σ.aNat σ.core σ.eSlot (r.slotAt (r.head + BitVec.ofNat 32 cur).toNat) (64 * r.ssz)
/-- The M vectors of an activation tile (R249). -/
def tileVectors (q : BitVec 128) (w : Nat) : List (List Num) :=
  let p := pitch (q_fmt q) (q_kt q)
  (List.range (q_nt q)).map fun m => (List.range (q_kt q)).map fun i =>
    actElem (q_fmt q) w (m * p) i fun b => getBytes w (q_sbase q + b * q_sstride q + m) 1
/-- Bytes a slot must have for an activation tile. -/
def tileBytes (q : BitVec 128) : Nat :=
  let n := q_nt q * pitch (q_fmt q) (q_kt q)
  if q_fmt q = 5 then max n (q_sbase q + (q_kt q / 32 - 1) * q_sstride q + q_nt q) else n

/-- A tile of a W stream lies in the slot's window (R250). -/
def wTileOk (wsize : Nat) (q : BitVec 128) (t : Nat) : Bool :=
  decide (q_wrow q + t * q_rw q + q_rw q ≤ wsize)
    && (decide (q_fmt q ≠ 5) || decide (q_sbase q + q_sstride q * ((t * q_kt q / 32 + q_kt q / 32 - 1) / 8) < wsize))
/-- Weight i of column j of a loaded tile. -/
def Weights.elem (w : Weights) (j i : Nat) : Num :=
  let f := q_fmt w.record
  let b := streamBits f
  let e := 64 / b
  let word := ((w.cols.getD j []).getD (i / e) 0).toNat
  let v := word / 2 ^ (b * (i % e)) % 2 ^ b
  if f = 5 then q4num ((w.scales.getD j []).getD (i / 32) 0) v else streamNum f v
/-- The weight of row i in column c of the fragment: rows and columns outside the loaded tile hold zero (R251). -/
def Weights.cell (w : Weights) (c i : Nat) : Num :=
  let q := w.record
  if w.src.isSome ∧ q_wcol q ≤ c ∧ c < q_wcol q + q_nt q ∧ i < q_kt q then w.elem (c - q_wcol q) i else .zero
def Weights.stream (w : Weights) : Option Nat := w.src.map fun p => p.1
def Weights.tile (w : Weights) : Nat := (w.src.map fun p => p.2).getD 0

/-- Format pairs of R114. -/
def pairOk (fa fb : Nat) : Bool :=
  (decide (fa = fb) && decide (fa ≤ 1)) || ((fa = 2 || fa = 3) && (fb = 2 || fb = 3)) || (decide (fa = fb) && (fa = 4 || fa = 5))

/-! ## Weight registers (R251) -/

/-- A load of tile CUR of stream b into NXT. -/
def State.startLoad (σ : State) (b : Nat) : State :=
  let r := σ.runHere
  let t := r.curOf b
  let w := { σ.readTile σ.core σ.eSlot b (r.q b) t with pending := true, ready := false }
  (σ.setMFrag { σ.mFrag with nxt := w }).setRun (r.setCur b (t + 1))

/-- An implicit load is needed at the select of a pass. -/
def State.needsLoad (σ : State) (b : Nat) (hold : Bool) : Bool :=
  !hold && !σ.mFrag.nxt.pending && decide (σ.mFrag.act.stream ≠ some b)

/-- `select` of R251, then the pass: a swap waits for the load and for every earlier pass. -/
def State.selectThen (σ : State) (b : Nat) (hold : Bool) (go : State → Out) : Out :=
  let f := σ.mFrag
  if hold then go σ
  else if f.nxt.pending then
    if f.nxt.ready ∧ f.passes.isEmpty then go (σ.setMFrag { f with act := { f.nxt with pending := false }, nxt := {} })
    else .next σ
  else if f.act.stream = some b then go σ
  else .next (σ.startLoad b)

/-- WLD (R251): a pending tile not yet swapped in is replaced. -/
def execWld (f l : BitVec 1) (v : BitVec 3) (b : BitVec 4) (σ : State) : Out :=
  let r := σ.runHere
  let q := r.q b.toNat
  let check := firstOf [
    (!wTileOk (σ.ctxOf σ.core σ.eSlot).wsize q (r.curOf b.toNat), fragCause 10),
    (decide (q_wcol q < σ.mCol) || decide (σ.mCol + σ.mWidth < q_wcol q + q_nt q), fragCause 1),
    (decide (σ.mDepth < q_kt q), fragCause 2)]
  σ.matWord f l v (q_w q) check (σ.startLoad b.toNat).wordDone

/-- WEIGHT_LOAD_COMPLETE (R251): the load into NXT has completed. -/
def execWeightLoadComplete (core seq : Nat) (σ : State) : Out :=
  let f := σ.fragOf core seq
  .next (if f.nxt.pending then σ.setFrag core seq { f with nxt := { f.nxt with ready := true } } else σ)

/-! ## Passes (R252, R253, R258) -/

/-- A pass of vectors x over the weights in ACT: the slab index and element that vector m writes in column c is `place m c`. Rows beyond
a vector's elements read zero and leave their weights without effect (R25, R252). -/
def writesOf (w : Weights) (wide : Bool) (wcol nt : Nat) (acc : Bool) (xs : List (Nat × List Num)) (place : Nat → Nat → Nat × Nat) :
    List PassWrite :=
  xs.flatMap fun x => (List.range nt).map fun j =>
    let p := place x.1 (wcol + j)
    { slab := p.1, elem := p.2, accumulate := acc,
      sum := plazaSum wide (x.2.zipIdx.map fun a => Num.mul a.1 (w.cell (wcol + j) a.2)) }

/-- The fragment as it stands before a step: from there the step runs again whole (R44, R264). -/
def State.redoHere (σ : State) : Redo :=
  let f := σ.mFrag
  { run := σ.runHere, act := f.act, nxt := f.nxt, linked := f.linked }
/-- The pass joins the fragment's passes in flight. -/
def State.issuePass (σ : State) (p : Pass) : State :=
  let σ := σ.setRun { σ.runHere with passes := σ.runHere.passes + 1 }
  let f := σ.mFrag
  σ.setMFrag { f with passes := f.passes ++ [p], waitsLink := false, linkLost := false }
/-- One streaming and one waiting pass (R332). -/
def State.passRoom (σ : State) : Bool := decide (σ.mFrag.passes.length < 2)

/-- A link tile as the consumer takes it: its vectors in the queue, the rest as the producer delivers them. -/
def State.takeTile (σ : State) (core l : Nat) : Option (Nat × List (List Nat) × State) :=
  let k := σ.linkOf core l
  match k.queue with
  | [] => none
  | (m, fmt, _) :: _ =>
    let now := (k.queue.take m).map fun x => x.2.2
    let p := linkFrom l
    let f := σ.fragOf core p
    match f.passes with
    | h :: rest =>
      let more := if h.applied then (h.vectors.take (m - now.length)).map (fun x => x.2.2) else []
      let h' : Pass := { h with vectors := h.vectors.drop more.length }
      some (fmt, now ++ more, (σ.setLink core l { k with queue := k.queue.drop m }).setFrag core p { f with passes := h' :: rest })
    | [] => some (fmt, now, σ.setLink core l { k with queue := k.queue.drop m })
def linkNum (fmt p : Nat) : Num := if fmt = 5 then q4num (p / 16) (p % 16) else streamNum fmt p

/-- The slabs an MMA writes: vectors in steps of 32, then the tile's column groups. -/
def mmaSlabs (wcol nt k0 m : Nat) : List Nat :=
  (List.range ((m - 1) / 32 + 1)).flatMap fun i =>
    (List.range ((wcol + nt - 1) / 32 - wcol / 32 + 1)).map fun g => 256 * (wcol / 32 + g) + k0 + i

/-- Checks 2 to 8 of R263 that an MMA makes with its activation tile's format fa, vector count m and, from a ring, K. -/
def State.mmaCheck (σ : State) (b : Nat) (m fa : Nat) (ka : Option Nat) (s0 mode : Nat) (hold : Bool) : Option MFault :=
  let r := σ.runHere
  let q := r.q b
  let f := σ.mFrag
  let k0 := s0 % 256
  firstOf [
    (σ.needsLoad b hold && !wTileOk (σ.ctxOf σ.core σ.eSlot).wsize q (r.curOf b), fragCause 10),
    (decide (q_wcol q < σ.mCol) || decide (σ.mCol + σ.mWidth < q_wcol q + q_nt q), fragCause 1),
    ((match ka with | some k => decide (k ≠ q_kt q) | none => false) || decide (σ.mDepth < q_kt q) || decide (256 < m)
      || decide (s0 / 256 ≠ q_wcol q / 32) || decide (255 < k0 + (m - 1) / 32), fragCause 2),
    (!pairOk fa (q_fmt q), fragCause 3),
    (hold && decide (f.act.stream ≠ some b), fragCause 5),
    (decide (mode = 2) && !f.linked, fragCause 6)]
/-- Check 10: the first slab the pass would write outside ownership. -/
def State.ownerCheck (σ : State) (js : List Nat) : Option MFault := (σ.mForeign js).map fun j => (causeFragFault, 8, j)

/-- The pass of an MMA over vectors xs (R252), mode 2 sending them on (R253). -/
def State.mmaPass (σ : State) (before : Redo) (b s0 mode : Nat) (fa : Nat) (xs : List (List Num)) : State :=
  let q := σ.runHere.q b
  let k0 := s0 % 256
  let ws := writesOf σ.mFrag.act (decide (fa < 2)) (q_wcol q) (q_nt q) (decide (mode ≠ 1)) (xs.zipIdx.map fun p => (p.2, p.1))
    fun m c => (256 * (c / 32) + k0 + m / 32, 32 * (m % 32) + c % 32)
  let chain : Option Chain := if mode = 2 then
      (linkOutOf σ.mPlan σ.mK).map fun l => { link := l, k0 := k0, vectors := xs.length, wcol := q_wcol q, nt := q_nt q }
    else none
  σ.issuePass { writes := ws, chain := chain, redo := before }

/-- An MMA whose activations come from a ring. -/
def State.mmaRing (σ : State) (f l : BitVec 1) (v : BitVec 3) (a b : Nat) (s0 mode : Nat) (hold : Bool) : Out :=
  let r := σ.runHere
  let qa := r.q a
  let qb := r.q b
  let ring := σ.mRing qa
  let m := q_nt qa
  let before := σ.redoHere
  let js := mmaSlabs (q_wcol qb) (q_nt qb) (s0 % 256) m
  let check := if ring.scount ≤ r.curOf a then some stepIllegal
    else match σ.mmaCheck b m (q_fmt qa) (some (q_kt qa)) s0 mode hold with
      | some e => some e
      | none => if 64 * ring.ssz < tileBytes qa then some (fragCause 7) else σ.ownerCheck js
  σ.matWord f l v (σ.ringStream qa && q_w qb && decide (mode ≤ 2)) check <|
    if ring.full ≤ r.curOf a ∨ !σ.passRoom then .next σ
    else σ.mTouch js fun σ => σ.selectThen b hold fun σ =>
      let w := σ.slotContent qa (r.curOf a)
      let σ := σ.mmaPass before b s0 mode (q_fmt qa) (tileVectors qa w)
      (σ.setRun (σ.runHere.setCur a (r.curOf a + 1))).wordDone

/-- A link-input pass (R258, R259). The lease of the link's source is tested once, before the pass first waits. -/
def State.mmaLink (σ : State) (f l : BitVec 1) (v : BitVec 3) (b : Nat) (s0 mode : Nat) (hold : Bool) : Out :=
  let qb := σ.runHere.q b
  let fr := σ.mFrag
  let before := σ.redoHere
  σ.matWord f l v (q_w qb && decide (mode ≤ 2)) none <|
    if fr.linkLost then σ.mFault (fragCause 9) else
    match linkInto σ.mPlan σ.mK with
    | none => σ.mFault (fragCause 6)
    | some k =>
      let p := σ.fragOf σ.core (linkFrom k)
      if !fr.waitsLink ∧ ¬((p.state = 1 ∨ p.state = 3) ∧ p.slot = fr.slot) then σ.mFault (fragCause 6)
      else
        let σ := σ.setMFrag { fr with waitsLink := true }
        match (σ.linkOf σ.core k).queue with
        | [] => .next σ
        | (m, fa, _) :: _ =>
          let js := mmaSlabs (q_wcol qb) (q_nt qb) (s0 % 256) m
          match σ.mmaCheck b m fa none s0 mode hold with
          | some e => σ.mFault e
          | none =>
            match σ.ownerCheck js with
            | some e => σ.mFault e
            | none =>
              if !σ.passRoom then .next σ else
              σ.mTouch js fun σ => σ.selectThen b hold fun σ =>
                match σ.takeTile σ.core k with
                | none => .next σ
                | some (fa, vs, σ) =>
                  (σ.mmaPass before b s0 mode fa (vs.map fun x => (x.take (q_kt qb)).map (linkNum fa))).wordDone

/-- MMA (R252): the A field equal to the B field makes a link-input pass. -/
def execMma (f l h : BitVec 1) (v : BitVec 3) (a b : BitVec 4) (s : BitVec 11) (m : BitVec 2) (σ : State) : Out :=
  if a = b then σ.mmaLink f l v b.toNat s.toNat m.toNat (decide (h = 1))
  else σ.mmaRing f l v a.toNat b.toNat s.toNat m.toNat (decide (h = 1))

/-! ## CONV (R254, R255) -/

def cv_oh (v : Nat) : Nat := (cv_ih v + 2 * cv_ph v - cv_dh v * (cv_kh v - 1) - 1) / cv_sh v + 1
def cv_ow (v : Nat) : Nat := (cv_iw v + 2 * cv_pw v - cv_dw v * (cv_kw v - 1) - 1) / cv_sw v + 1
def cv_o (v : Nat) : Nat := cv_oh v * cv_ow v
/-- Element i of the vector of pixel p for K-chunk t (R255). -/
def convElem (cv : Nat) (q : BitVec 128) (w kt t p i : Nat) : Num :=
  let kap := t * kt + i
  let ch := kap % cv_ic cv
  let kx := kap / cv_ic cv % cv_kw cv
  let ky := kap / (cv_ic cv * cv_kw cv)
  let y : Int := (p / cv_ow cv * cv_sh cv : Nat) - (cv_ph cv : Int) + (ky * cv_dh cv : Nat)
  let x : Int := (p % cv_ow cv * cv_sw cv : Nat) - (cv_pw cv : Int) + (kx * cv_dw cv : Nat)
  if cv_kh cv * cv_kw cv * cv_ic cv ≤ kap ∨ y < 0 ∨ x < 0 ∨ (cv_ih cv : Int) ≤ y ∨ (cv_iw cv : Int) ≤ x then .zero
  else
    let pix := y.toNat * cv_iw cv + x.toNat
    actElem (q_fmt q) w (pix * pitch (q_fmt q) (cv_ic cv)) ch fun b => getBytes w (q_sbase q + b * q_sstride q + pix) 1
/-- Bytes a slot must have for the input map. -/
def mapBytes (cv : Nat) (q : BitVec 128) : Nat :=
  let n := cv_ih cv * cv_iw cv * pitch (q_fmt q) (cv_ic cv)
  if q_fmt q = 5 then max n (q_sbase q + (cv_ic cv / 32 - 1) * q_sstride q + cv_ih cv * cv_iw cv) else n

/-- CONV (R255). -/
def execConv (f l h : BitVec 1) (v c : BitVec 3) (a b : BitVec 4) (m : BitVec 2) (k : BitVec 8) (σ : State) : Out :=
  let r := σ.runHere
  let qa := r.q a.toNat
  let qb := r.q b.toNat
  let cv := r.cv c.toNat
  let ring := σ.mRing qa
  let mm := q_nt qa
  let before := σ.redoHere
  let hold : Bool := decide (h = 1)
  let ps := ((List.range mm).map fun i => mm * r.pixOf c.toNat + i).filter fun p => decide (p < cv_o cv)
  let groups := (List.range ((q_wcol qb + q_nt qb - 1) / 32 - q_wcol qb / 32 + 1)).map fun g => q_wcol qb / 32 + g
  let js := (ps.map fun p => p / 32).eraseDups.flatMap fun i => groups.map fun g => 256 * g + k.toNat + i
  let check :=
    if ring.scount ≤ r.curOf a.toNat then some stepIllegal
    else firstOf [
      (σ.needsLoad b.toNat hold && !wTileOk (σ.ctxOf σ.core σ.eSlot).wsize qb (r.curOf b.toNat), fragCause 10),
      (decide (q_wcol qb < σ.mCol) || decide (σ.mCol + σ.mWidth < q_wcol qb + q_nt qb), fragCause 1),
      (decide (σ.mDepth < q_kt qb) || decide (256 < mm) || decide (255 < k.toNat + (mm - 1) / 32), fragCause 2),
      (!pairOk (q_fmt qa) (q_fmt qb), fragCause 3),
      (decide (q_fmt qa = 5) && decide (cv_ic cv % 32 ≠ 0), fragCause 4),
      (hold && decide (σ.mFrag.act.stream ≠ some b.toNat), fragCause 5),
      (decide (m = 2) && !σ.mFrag.linked, fragCause 6),
      (decide (64 * ring.ssz < mapBytes cv qa), fragCause 7)] <|> σ.ownerCheck js
  σ.matWord f l v (σ.ringStream qa && q_w qb && decide (m.toNat ≤ 2) && decide (cv_ih cv ≠ 0)) check <|
    if ring.full ≤ r.curOf a.toNat ∨ !σ.passRoom then .next σ
    else σ.mTouch js fun σ => σ.selectThen b.toNat hold fun σ =>
      let w := σ.slotContent qa (r.curOf a.toNat)
      let t := σ.mFrag.act.tile
      let xs := ps.map fun p => (p, (List.range (q_kt qb)).map fun i => convElem cv qa w (q_kt qb) t p i)
      let ws := writesOf σ.mFrag.act (decide (q_fmt qa < 2)) (q_wcol qb) (q_nt qb) (decide (m.toNat ≠ 1)) xs
        fun p cc => (256 * (cc / 32) + k.toNat + p / 32, 32 * (p % 32) + cc % 32)
      let first := mm * r.pixOf c.toNat
      let chain : Option Chain := if m.toNat = 2 then
          (linkOutOf σ.mPlan σ.mK).map fun lk =>
            { link := lk, k0 := k.toNat * 32 + first, vectors := mm, wcol := q_wcol qb, nt := q_nt qb }
        else none
      let n := r.pixOf c.toNat + 1
      let σ := σ.issuePass { writes := ws, chain := chain.map fun x => { x with limit := some (k.toNat * 32 + cv_o cv) }, redo := before }
      let r := σ.runHere
      (σ.setRun { r with pix := Tbl.set r.pix c.toNat (if cv_o cv ≤ mm * n then 0 else n) }).wordDone

/-! ## Link units (R25, R116) -/

/-- Stages 1 to 3 on a producer result: scale and bias in one rounding, clamp-ReLU. -/
def Link.stage (k : Link) (j x : Nat) : Num :=
  let y := fp32.decode (fp32.rne (Num.fma 0 (fp32.decode x) (fp32.decode (k.scale.getD j 0).toNat) (fp32.decode (k.bias.getD j 0).toNat)))
  if k.clamp then Num.minMax true (Num.minMax false y .zero) (fp32.decode k.bound.toNat) else y

/-- Conversion of a row to a stream format, threading the generator; for Q4 each pattern is code + 16 * scale byte. -/
def convertRow (fmt qtype mode : Nat) : List Num → BitVec 32 → List Nat × BitVec 32
  | [], g => ([], g)
  | x :: xs, g =>
    let y := if fmt = 4 then convert 8 0 (fp32.rne x) mode g
      else match typeFmt (streamType fmt) with
        | some f => f.round x mode g
        | none => (0, g)
    let rest := convertRow fmt qtype mode xs y.2
    (y.1 :: rest.1, rest.2)
def convertBlocks (qtype mode : Nat) : Nat → List Num → BitVec 32 → List Nat × BitVec 32
  | 0, _, g => ([], g)
  | n + 1, xs, g =>
    let e := q4encode (xs.take 32) qtype mode g
    let rest := convertBlocks qtype mode n (xs.drop 32) e.2.2
    (e.1.map (fun c => c + 16 * e.2.1) ++ rest.1, rest.2)
def convertTo (fmt qtype mode : Nat) (xs : List Num) (g : BitVec 32) : List Nat × BitVec 32 :=
  if fmt = 5 then convertBlocks qtype mode ((xs.length + 31) / 32) xs g else convertRow fmt qtype mode xs g

/-- Vector m of a pass that is sent, before the link's stages (R253): the slab elements under the tile, +0.0 elsewhere; of a CONV's vectors
behind the last pixel too, for which the spec gives no value (log 109). -/
def State.chainVector (σ : State) (core : Nat) (c : Chain) (col0 width m : Nat) : List Nat :=
  (List.range width).map fun j =>
    let cc := col0 + j
    let i := match c.limit with
      | none => c.k0 * 32 + m
      | some _ => c.k0 + m
    let beyond : Bool := match c.limit with
      | none => false
      | some n => decide (n ≤ i)
    if c.wcol ≤ cc ∧ cc < c.wcol + c.nt ∧ !beyond then
      (σ.cElem core ((256 * (cc / 32) + i / 32) * 4096 + 4 * (32 * (i % 32) + cc % 32))).toNat
    else 0

/-- The vectors of a pass through the link's stages in order, each with its tile's count and format. -/
def State.sendVectors (σ : State) (core : Nat) (c : Chain) (col0 width : Nat) :
    List Nat → BitVec 32 → List (Nat × Nat × List Nat) × BitVec 32
  | [], g => ([], g)
  | m :: ms, g =>
    let k := σ.linkOf core c.link
    let row := ((σ.chainVector core c col0 width m).zipIdx).map fun p => k.stage p.2 p.1
    let x := convertTo k.fmt k.qtype k.mode row g
    let rest := State.sendVectors σ core c col0 width ms x.2
    ((c.vectors, k.fmt, x.1) :: rest.1, rest.2)

/-! ## Retirement of passes (R26, R55, R252, R253) -/

/-- The writes of a pass, in its order (R115). -/
def State.applyWrites (σ : State) (core : Nat) (ws : List PassWrite) : State :=
  ws.foldl (fun σ w =>
    let off := w.slab * 4096 + 4 * w.elem
    let old := if w.accumulate then (σ.cElem core off).toNat else 0
    σ.cWrite core off (BitVec.ofNat 32 (plazaAdd old w.sum))) σ

/-- Vectors enter the link queue while it has room. -/
def State.feedLink (σ : State) (core l : Nat) (vs : List (Nat × Nat × List Nat)) : State × List (Nat × Nat × List Nat) :=
  let k := σ.linkOf core l
  let room := Config.linkDepth - k.queue.length
  (σ.setLink core l { k with queue := k.queue ++ vs.take room }, vs.drop room)

/-- The oldest pass retires its writes, and leaves once its last vector has entered the link queue. -/
def State.retirePass (σ : State) (core seq : Nat) (p : Pass) (rest : List Pass) : State :=
  let σ := if p.applied then σ else σ.applyWrites core p.writes
  match p.chain with
  | none => σ.setFrag core seq { σ.fragOf core seq with passes := rest }
  | some c =>
    let cs := (cells (σ.coreOf core).plan seq).getD (0, 0, 0, 0)
    let made := if p.applied then (p.vectors, (σ.linkOf core c.link).gen)
      else σ.sendVectors core c cs.2.1 cs.2.2.2 (List.range c.vectors) (σ.linkOf core c.link).gen
    let p := if p.applied then p else { p with genBefore := some (σ.linkOf core c.link).gen }
    let σ := σ.setLink core c.link { σ.linkOf core c.link with gen := made.2 }
    let fed := σ.feedLink core c.link made.1
    let f := fed.1.fragOf core seq
    if fed.2.isEmpty then fed.1.setFrag core seq { f with passes := rest }
    else fed.1.setFrag core seq { f with passes := { p with applied := true, vectors := fed.2 } :: rest }

/-- The fault of a fragment whose earlier passes have retired (R55, R309). -/
def State.fragFaulted (σ : State) (core seq : Nat) (r : FaultRec) : State :=
  let f := σ.fragOf core seq
  if f.state = 2 then
    let σ := σ.fragFree core seq true
    if f.lot.isSome ∧ (σ.ctxOf core f.slot).task = f.lot then σ.postFault core f.slot r.src r.cause r.upc r.fcause r.detail else σ
  else (σ.setFrag core seq { f with state := 3, faulting := none }).postFault core f.slot r.src r.cause r.upc r.fcause r.detail

/-- PASS_RETIRE: the oldest pass in flight retires (R252, R253); a faulting fragment whose passes have retired becomes FAULTED or,
from DRAINING, FREE (R55). -/
def execPassRetire (core seq : Nat) (σ : State) : Out :=
  let f := σ.fragOf core seq
  match f.passes with
  | p :: rest => .next (σ.retirePass core seq p rest)
  | [] =>
    match f.faulting with
    | some r => .next (σ.fragFaulted core seq r)
    | none => .next σ

/-! ## Accumulator steps (R256) -/

/-- Every earlier pass of the fragment has retired (R261). -/
def State.passesDone (σ : State) : Bool := σ.mFrag.passes.isEmpty

/-- ACCZ (R256). -/
def execAccz (f l : BitVec 1) (v : BitVec 3) (n : BitVec 8) (s : BitVec 11) (σ : State) : Out :=
  let js := (List.range (n.toNat + 1)).map fun i => s.toNat + i
  σ.matWord f l v true (σ.ownerCheck js) <|
    if !σ.passesDone then .next σ
    else σ.mTouch js fun σ => (js.foldl (fun (σ : State) j => σ.zeroSlab σ.core j) σ).wordDone

/-- ACCLD (R256). -/
def execAccld (f l : BitVec 1) (v : BitVec 3) (q : BitVec 4) (s : BitVec 11) (σ : State) : Out :=
  let r := σ.runHere
  let qa := r.q q.toNat
  let ring := σ.mRing qa
  let cur := r.curOf q.toNat
  let check := if ring.scount ≤ cur then some stepIllegal
    else if 64 * ring.ssz < 4096 then some (fragCause 7) else σ.ownerCheck [s.toNat]
  σ.matWord f l v (σ.ringStream qa) check <|
    if ring.full ≤ cur ∨ !σ.passesDone then .next σ
    else σ.mTouch [s.toNat] fun σ =>
      let w := σ.slotContent qa cur
      let σ := (List.range 1024).foldl (fun (σ : State) e => σ.cWrite σ.core (s.toNat * 4096 + 4 * e) (BitVec.ofNat 32 (getBytes w (4 * e) 4))) σ
      (σ.setRun (σ.runHere.setCur q.toNat (cur + 1))).wordDone

/-- Row r of a slab through the link's stages (R116): patterns, and the generator. -/
def State.cvtRow (σ : State) (k : Link) (slab r : Nat) (fmt : Nat) (g : BitVec 32) : List Nat × BitVec 32 :=
  let xs := (List.range 32).map fun i =>
    k.stage (32 * (slab / 256) + i - σ.mCol) (σ.cElem σ.core (slab * 4096 + 4 * (32 * r + i))).toNat
  convertTo fmt k.qtype k.mode xs g
/-- Bytes of a converted row at a pitch of 64 bytes, with its scale byte for Q4. -/
def rowBytes (fmt sbase r : Nat) (ps : List Nat) : List (Nat × Byte) :=
  if fmt = 5 then
    let codes := (ps.zipIdx).foldl (fun a p => a + p.1 % 16 * 16 ^ p.2) 0
    bytesAt (64 * r) 16 codes ++ [(sbase + r, BitVec.ofNat 8 (ps.getD 0 0 / 16))]
  else (ps.zipIdx).flatMap fun p => bytesAt (64 * r + p.2 * (streamBits fmt / 8)) (streamBits fmt / 8) p.1
def State.cvtRows (σ : State) (k : Link) (slab : Nat) (fmt sbase : Nat) : List Nat → BitVec 32 → List (Nat × Byte) × BitVec 32
  | [], g => ([], g)
  | r :: rs, g =>
    let x := σ.cvtRow k slab r fmt g
    let rest := State.cvtRows σ k slab fmt sbase rs x.2
    (rowBytes fmt sbase r x.1 ++ rest.1, rest.2)

/-- ACCMV (R256). -/
def execAccmv (f l : BitVec 1) (v : BitVec 3) (q : BitVec 4) (c : BitVec 1) (s : BitVec 11) (σ : State) : Out :=
  let qa := σ.runHere.q q.toNat
  let ring := σ.mRing qa
  let fmt := q_fmt qa
  let need := if c = 0 then 4096 else if fmt = 5 then max (31 * 64 + 16) (q_sbase qa + 32) else 31 * 64 + 4 * streamBits fmt
  let check := firstOf [
    (decide (c = 1) && !σ.mFrag.linked, fragCause 6),
    (decide (64 * ring.ssz < need), fragCause 7)] <|> σ.ownerCheck [s.toNat]
  σ.matWord f l v (σ.ringStream qa) check <|
    if ring.free = 0 ∨ !σ.passesDone then .next σ
    else σ.mTouch [s.toNat] fun σ =>
      let li := (linkOutOf σ.mPlan σ.mK).getD 0
      let k := σ.linkOf σ.core li
      let out := if c = 0 then
          ((List.range 1024).flatMap fun e => bytesAt (4 * e) 4 (σ.cElem σ.core (s.toNat * 4096 + 4 * e)).toNat, k.gen)
        else σ.cvtRows k s.toNat fmt (q_sbase qa) (List.range 32) k.gen
      let σ := if c = 0 then σ else σ.setLink σ.core li { k with gen := out.2 }
      match σ.pushSlot σ.core σ.eSlot (q_ch qa) out.1 with
      | some σ => σ.wordDone
      | none => .next σ

/-! ## Streams, links and markers (R248, R257, R260) -/

/-- SWAIT (R248). -/
def execSwait (f l : BitVec 1) (v : BitVec 3) (q : BitVec 4) (n : BitVec 13) (σ : State) : Out :=
  let qa := σ.runHere.q q.toNat
  let ring := σ.mRing qa
  σ.matWord f l v (σ.ringStream qa && decide (n ≠ 0)) (if ring.scount < n.toNat then some stepIllegal else none) <|
    if ring.full < n.toNat then .next σ else σ.wordDone

/-- SADV (R248): the advance of R76, and the cursor moves back, once the passes that have read the slots are over: a step in flight can
always run again whole (R264). -/
def execSadv (f l : BitVec 1) (v : BitVec 3) (q : BitVec 4) (n : BitVec 13) (σ : State) : Out :=
  let r := σ.runHere
  let qa := r.q q.toNat
  let ring := σ.mRing qa
  σ.matWord f l v (σ.ringStream qa && decide (n ≠ 0)) (if ring.full < n.toNat then some stepIllegal else none) <|
    if !σ.passesDone then .next σ else
    let slot := σ.eSlot
    let σ := σ.setCtx σ.core slot ((σ.ctxOf σ.core slot).setRing (q_ch qa) (ring.doAdvance n.toNat))
    (σ.setRun (r.setCur q.toNat (r.curOf q.toNat - n.toNat))).wordDone

/-- SRST (R248). -/
def execSrst (f l : BitVec 1) (v : BitVec 3) (q : BitVec 4) (σ : State) : Out :=
  let r := σ.runHere
  let qa := r.q q.toNat
  σ.matWord f l v (q_w qa || σ.ringStream qa) none (σ.setRun (r.setCur q.toNat 0)).wordDone

/-- The parameters of a fragment's latest LINKCFG are those of whichever link leaves it under the plan in force (R253, R256). -/
def State.linkParams (σ : State) (core k : Nat) (p : Link) : State :=
  (linksOut k).foldl (fun σ l => σ.setLink core l { p with queue := (σ.linkOf core l).queue, gen := (σ.linkOf core l).gen }) σ

/-- LINKCFG (R257): passes that use the parameters in force retire first. -/
def execLinkcfg (f l : BitVec 1) (v k : BitVec 3) (c : BitVec 1) (m : BitVec 3) (q : BitVec 4) (σ : State) : Out :=
  let r := σ.runHere
  let qa := r.q q.toNat
  let ring := σ.mRing qa
  let cur := r.curOf q.toNat
  let w := σ.mWidth
  let to' := σ.fragOf σ.core (linkTo k.toNat)
  let check := if ring.scount ≤ cur then some stepIllegal
    else firstOf [
      (decide (linkFrom k.toNat ≠ σ.mK) || !(planLinks σ.mPlan).contains k.toNat
        || !((decide (to'.state = 1) || decide (to'.state = 3)) && decide (to'.slot = σ.mFrag.slot)), fragCause 6),
      (decide (64 * ring.ssz < 8 * w + 5), fragCause 7)]
  σ.matWord f l v (σ.ringStream qa && decide (k.toNat ≤ 3) && decide (m.toNat ≤ 4)) check <|
    if ring.full ≤ cur ∨ !σ.passesDone then .next σ
    else
      let x := σ.slotContent qa cur
      let word (o : Nat) : BitVec 32 := BitVec.ofNat 32 (getBytes x o 4)
      let σ := σ.linkParams σ.core (linkFrom k.toNat)
        { scale := (List.range w).map fun j => word (4 * j), bias := (List.range w).map fun j => word (4 * w + 4 * j),
          bound := word (8 * w), clamp := decide (c = 1), mode := m.toNat, fmt := q_fmt qa, qtype := getBytes x (8 * w + 4) 1 % 4 }
      let σ := σ.setMFrag { σ.mFrag with linked := true }
      (σ.setRun (r.setCur q.toNat (cur + 1))).wordDone

/-- SMARK (R260): retires once every earlier step has, before anything of the next cycle looks (R186), and is the queue's NOTIFY when
nothing stands behind the program. -/
def execSmark (f l : BitVec 1) (v : BitVec 3) (n : BitVec 1) (m : BitVec 16) (σ : State) : Out :=
  σ.matWord f l v true none <|
    if !σ.stepsIdle σ.core σ.eng then .next σ
    else ({ σ with landing := σ.landing ++ [.mark σ.core σ.eSlot σ.eng m (decide (n = 1))] } : State).wordDone

/-- NOP (R260). -/
def execMatNop (f l : BitVec 1) (v : BitVec 3) (σ : State) : Out := σ.matWord f l v true none σ.wordDone

/-- HALT (R260): the body ends at this point of the loop space. -/
def execMatHalt (σ : State) : Out :=
  if σ.mBlocked then .next σ else
  let r := σ.runHere.endBody
  let σ := σ.setRun r
  .next (if r.halted ∧ σ.canRetire σ.core σ.eng then σ.push (.programRetire σ.core σ.eng) else σ)

end Sys2Proof.Machine
end

