-- ==== Sys2Proof/Machine/Copy.lean ====
section
/-!
DEFINITION. The step words of the copy engines: 14 (R265 to R280), the transfer shapes (03 R80) and the copy tags (R81, R278).
-/

namespace Sys2Proof.Machine

/-! ## The acting engine -/

/-- A transfer shape bound at the FORK. -/
def Prog.shape (p : Prog) (k : Nat) : Shape := shapeOf (Tbl.get p.tx 0 k)

/-- The common course of a copy word: decode rules, F and L, S. -/
def State.copyWord (σ : State) (f l : BitVec 1) (v : BitVec 3) (ser : BitVec 1) (decodeOk : Bool) (go : Out) : Out :=
  let r := σ.runHere
  let issue := r.flagsIssue (decide (f = 1)) (decide (l = 1)) v.toNat
  if ((f = 1 ∨ l = 1) ∧ 6 ≤ v.toNat) ∨ ((r.firstPass ∨ issue) ∧ !decodeOk) then σ.copyFault causeStepIllegal
  else if !issue then σ.wordDone
  else if ser = 1 ∧ !σ.copyHere.steps.isEmpty then .next σ
  else go

/-! ## Elements of the buffers (R267 to R269) -/

/-- The range of an element of A, C or W (R60). -/
def State.bufRange (σ : State) (core slot space esz : Nat) (a : Int) : Bool :=
  let c := σ.ctxOf core slot
  if a < 0 then false
  else if space = 1 then decide (a.toNat + esz ≤ c.asize)
  else if space = 2 then decide (a.toNat + esz ≤ 2 ^ 23)
  else decide (a.toNat / 256 < c.wsize)
def State.bufRead (σ : State) (core slot space esz : Nat) (a : Int) : Nat :=
  if space = 1 then σ.aNat core slot a.toNat esz
  else if space = 2 then σ.cNat core a.toNat esz
  else (σ.wWord core slot (a.toNat / 256) (a.toNat % 256)).toNat
def State.bufWrite (σ : State) (core slot space esz : Nat) (a : Int) (v : Nat) : State :=
  if space = 1 then σ.aWrite core slot a.toNat (natBytes esz v)
  else if space = 2 then σ.cPut core a.toNat esz v
  else σ.wWrite core slot (a.toNat / 256) (a.toNat % 256) (BitVec.ofNat 64 v)
/-- Values into elements, none where a line delivered nothing. -/
def State.bufWriteAll (σ : State) (core slot space esz : Nat) (as : List Int) (vs : List (Option Nat)) : State :=
  (as.zip vs).foldl (fun (σ : State) p => match p.2 with
    | some v => σ.bufWrite core slot space esz p.1 v
    | none => σ) σ
/-- The slabs of a C shape, ascending in shape order. -/
def slabsOfElems (as : List Int) : List Nat := (as.map fun a => a.toNat / 4096).eraseDups

/-! ## The G side (R269, R277) -/

/-- The translations of a step's elements. -/
def State.gXlate (σ : State) (slot : Nat) (kind : Kind) (op : GOp) (vas : List Word) : List (Word × Chk Xl) :=
  vas.map fun va => (va, σ.translate σ.core slot va kind op)
/-- The element size a contribution needs (R274): 2 bytes in a BF16 window, 4 in every other. -/
def State.credType (σ : State) (esz : Nat) (x : Xl) : Bool :=
  match σ.windowOper x.frame with
  | some o => decide (esz = if o = 1 then 2 else 4)
  | none => decide (esz = 2) || decide (esz = 4)
/-- The translations with what the class rules ask of a remote window before the step starts (R66, R274, R393). -/
def State.gClass (σ : State) (op : GOp) (esz : Nat) (l : List (Word × Chk Xl)) : List (Word × Chk Xl) :=
  l.map fun p => (p.1, match p.2 with
    | .error e => .error e
    | .ok x =>
      let r := σ.importRec x.frame
      if x.remote ∧ (!impValid r ∨ decide (impKind r = 0) = decide (op = .cred) ∨ (op = .cred ∧ !σ.credType esz x)) then failWith causeOutside p.1
      else .ok x)
/-- The fault of a step's translations: that of the first failing element in shape order (R65, R272). -/
def xlateFault (l : List (Word × Chk Xl)) : Option (Nat × Word) :=
  l.findSome? fun p => match p.2 with
    | .error e => some (e.cause, p.1)
    | .ok _ => none
def xlOk (l : List (Word × Chk Xl)) : List Xl := l.filterMap fun p => match p.2 with
  | .ok x => some x
  | .error _ => none

/-- A byte a copy engine reads of G: memory through the far cache, but the lot's held stores and combines on the lines that a fence
has ordered before it (R96, R277). -/
def State.copyByte (σ : State) (slot pa : Nat) : Byte :=
  let c := σ.ctxOf σ.core slot
  if σ.eHere.view.contains (pa / 64) then
    match Tbl.find? c.held pa with
    | some b => b
    | none =>
      match c.combAt pa with
      | some (a, k) => BitVec.ofNat 8 (combView k / 256 ^ (pa - a))
      | none => σ.memByte pa
  else σ.memByte pa

/-- Element values of G: none on a line that OWNER or SEAL_FAIL refuses; a remote value is free (log 5). -/
def State.gElems (σ : State) (slot esz : Nat) (xs : List Xl) : List (Option Nat) :=
  (xs.zipIdx).map fun p =>
    if p.1.remote then some ((List.range esz).foldr (fun i a => (Config.freeByte (σ.fresh + 8 * p.2 + i)).toNat + 256 * a) 0)
    else match σ.lineCheck (σ.vfOf σ.core slot) p.1.pa with
      | some _ => none
      | none => some ((List.range esz).foldr (fun i a => (σ.copyByte slot (p.1.pa + i)).toNat + 256 * a) 0)
/-- The first line error of a read or, for a write, the first OWNER, with its address. -/
def State.gReadErr (σ : State) (slot : Nat) (xs : List (Word × Xl)) : Option (Nat × Word) :=
  xs.findSome? fun p => if p.2.remote then none else (σ.lineCheck (σ.vfOf σ.core slot) p.2.pa).map fun c => (c, p.1)
def State.gWriteErr (σ : State) (slot : Nat) (xs : List (Word × Xl)) : Option (Nat × Word) :=
  xs.findSome? fun p => if p.2.remote ∨ σ.ownerOk (σ.vfOf σ.core slot) p.2.pa then none else some (causeOwner, p.1)
/-- Elements written at their home slices in order, refused lines left out; the bytes written, those of remote windows among
them, are noted under the step's tag (R95). -/
def State.gWrite (σ : State) (slot esz : Nat) (tag : Option Nat) (xs : List Xl) (vs : List (Option Nat)) : State :=
  let ok := (xs.zip vs).filter fun p => !p.1.remote && p.2.isSome && σ.ownerOk (σ.vfOf σ.core slot) p.1.pa
  let σ := σ.writeList (ok.flatMap fun p => bytesAt p.1.pa esz (p.2.getD 0))
  let σ := (ok.map fun p => frameOf p.1.pa).eraseDups.foldl (fun σ f => σ.markDirty f) σ
  let c := σ.ctxOf σ.core slot
  let k := 65 * σ.eng + tag.getD 64
  let out := (xs.zip vs).filter fun p => p.1.remote && p.2.isSome
  let note (t : Tbl (Tbl Nat)) : Tbl (Tbl Nat) :=
    if ok.isEmpty ∧ out.isEmpty then t else
    Tbl.set t k ((ok ++ out).foldl (fun m p => (List.range esz).foldl (fun m i => maskPut m (p.1.key + i)) m) (Tbl.get t [] k))
  σ.setCtx σ.core slot { c with tagLines := note c.tagLines, vTagLines := note c.vTagLines }

/-- The lines of a step in remote windows, each with its first element's number and address. -/
def remoteLines (l : List (Word × Xl)) : List (Nat × Word × Xl) :=
  (l.zipIdx).foldl (fun (a : List (Nat × Word × Xl)) p =>
    if p.1.2.remote ∧ !a.any (fun q => decide (q.2.2.frame = p.1.2.frame) && decide (q.2.2.off / 64 = p.1.2.off / 64)) then a ++ [(p.2, p.1)] else a) []
/-- The accesses of a step to remote windows, one for each line. -/
def State.gRemote (σ : State) (slot idx : Nat) (l : List (Word × Xl)) : FabAll :=
  σ.fabricAskAll σ.core slot ((remoteLines l).map fun p => (askName σ.eng idx p.1, p.2.2.frame, p.2.1))
/-- A remote element whose line got no reply in time (R279). -/
def lateElem (eng idx : Nat) (late : List Nat) (lines : List (Nat × Word × Xl)) (x : Xl) : Bool :=
  x.remote && lines.any fun q => decide (q.2.2.frame = x.frame) && decide (q.2.2.off / 64 = x.off / 64) && late.contains (askName eng idx q.1)

/-! ## The steps' operands (R268) -/

/-- The operands of an operation as its checks see them: G addresses with element size, access and class rule; buffer elements. -/
structure Operands where
  legal : Bool
  kind : Kind := .read
  gop : GOp := .plain
  gSize : Nat := 1
  gAddrs : List Word := []
  bSpace : Nat := 1
  bSize : Nat := 1
  bElems : List Int := []
  aSpace : Nat := 1
  aSize : Nat := 1
  aElems : List Int := []
  deriving Repr

def Shape.gAddrs (t : Shape) : List Word := t.elems.map gAddr
def spaceIn (t : Shape) (l : List Nat) : Bool := l.contains t.space && !t.bad && (decide (t.space ≠ 3) || decide (t.esz = 8))
/-- Alignment of elements to their size; W is counted in words (R61). -/
def elemsAligned (space esz : Nat) (as : List Int) : Bool := decide (space = 3) || as.all fun a => decide (a % (esz : Int) = 0)
def wordsAligned (esz : Nat) (as : List Word) : Bool := as.all fun a => aligned a esz

/-- Bytes of a ring's slot hold the paired shape. -/
def ringHolds (c : Ctx) (ring : Nat) (t : Shape) : Bool := decide (t.count * t.esz ≤ 64 * (c.ring ring).ssz)

/-- The index values of CGA and CSC. -/
def State.indices (σ : State) (slot : Nat) (t : Shape) : List Nat := t.elems.map fun a => σ.bufRead σ.core slot 1 4 a
def State.idxAddrs (σ : State) (slot : Nat) (g i : Shape) : List Word :=
  (σ.indices slot i).map fun k => g.base + BitVec.ofNat 64 (k * g.esz)

def pairCheck (g b : Shape) : Bool := decide (g.count = b.count) && decide (g.esz = b.esz)

/-- The operands of a step, with the checks of row 1 of R279 as `legal`. CRED translates its window addresses as read and write (log 112). -/
def State.operands (σ : State) (slot : Nat) (p : Prog) (op : CopyOp) : Operands :=
  let c := σ.ctxOf σ.core slot
  match op with
  | .cld g b | .cst g b =>
    let G := p.shape g
    let B := p.shape b
    { legal := spaceIn G [0] && spaceIn B [1, 2, 3] && pairCheck G B && wordsAligned G.esz G.gAddrs && elemsAligned B.space B.esz B.elems,
      kind := (match op with | .cst _ _ => .write | _ => .read), gSize := G.esz, gAddrs := G.gAddrs, bSpace := B.space, bSize := B.esz,
      bElems := B.elems }
  | .cldRing g r | .cstRing g r =>
    let G := p.shape g
    { legal := spaceIn G [0] && (c.ring r).configured && ringHolds c r G && wordsAligned G.esz G.gAddrs,
      kind := (match op with | .cstRing _ _ => .write | _ => .read), gSize := G.esz, gAddrs := G.gAddrs }
  | .cldm g r k follow =>
    let G := p.shape g
    { legal := spaceIn G [0] && (c.ring r).configured && ringHolds c r G && wordsAligned G.esz G.gAddrs
        && (σ.fragsOf σ.core slot).contains k && (match decode .mat follow.toNat with | some i => decide (i ≠ .matHalt) | none => false),
      gSize := G.esz, gAddrs := G.gAddrs }
  | .cstq g b mode _ =>
    let G := p.shape g
    let S := p.shape ((g + 1) % 16)
    let B := p.shape b
    { legal := spaceIn G [0] && spaceIn S [0] && spaceIn B [1, 2] && decide (G.esz = 1) && decide (S.esz = 1) && (B.esz = 4 || B.esz = 2)
        && decide (B.count % 32 = 0) && decide (G.count = B.count / 2) && decide (S.count = B.count / 32) && decide (mode ≤ 4)
        && elemsAligned B.space B.esz B.elems,
      kind := .write, gop := .near, gAddrs := G.gAddrs ++ S.gAddrs, bSpace := B.space, bSize := B.esz, bElems := B.elems }
  | .cmc a b mask =>
    let A := p.shape a
    let B := p.shape b
    { legal := spaceIn A [0, 1] && spaceIn B [1, 3] && pairCheck A B && decide (mask ≠ 0)
        && (if A.space = 0 then wordsAligned A.esz A.gAddrs else elemsAligned 1 A.esz A.elems) && elemsAligned B.space B.esz B.elems,
      gop := .near, gSize := A.esz, gAddrs := if A.space = 0 then A.gAddrs else [], bSpace := B.space, bSize := B.esz, bElems := B.elems,
      aSize := A.esz, aElems := if A.space = 1 then A.elems else [] }
  | .cga g i b | .csc g i b =>
    let G := p.shape g
    let I := p.shape i
    let B := p.shape b
    { legal := decide (G.space = 0) && !G.reserved && spaceIn I [1] && decide (I.esz = 4) && spaceIn B [1, 2] && decide (I.count = B.count)
        && decide (G.esz = B.esz) && aligned G.base G.esz && elemsAligned 1 4 I.elems && elemsAligned B.space B.esz B.elems,
      kind := (match op with | .csc _ _ _ => .write | _ => .read), gop := .near, gSize := G.esz,
      gAddrs := if I.elems.all (σ.bufRange σ.core slot 1 4) then σ.idxAddrs slot G I else [],
      bSpace := B.space, bSize := B.esz, bElems := B.elems, aSize := 4, aElems := I.elems }
  | .crw a b =>
    let A := p.shape a
    let d := (Tbl.get p.tx 0 b).toNat
    { legal := spaceIn A [0, 1] && decide (A.count * A.esz ≤ 4096) && decide (bits d 63 16 = 0) && decide (bits d 255 192 = 0)
        && (if A.space = 0 then wordsAligned A.esz A.gAddrs else elemsAligned 1 A.esz A.elems),
      gop := .near, gSize := A.esz, gAddrs := if A.space = 0 then A.gAddrs else [], aSize := A.esz,
      aElems := if A.space = 1 then A.elems else [] }
  | .cred a b =>
    let A := p.shape a
    let W := p.shape b
    { legal := spaceIn W [0] && spaceIn A [1, 2] && pairCheck W A && wordsAligned W.esz W.gAddrs && elemsAligned A.space A.esz A.elems,
      kind := .rmw, gop := .cred, gSize := W.esz, gAddrs := W.gAddrs, bSpace := A.space, bSize := A.esz, bElems := A.elems }

/-- Rows 1 to 3 of R279. -/
def State.stepFault (σ : State) (slot : Nat) (o : Operands) : Option (Nat × Word) :=
  if !o.legal then some (causeStepIllegal, 0)
  else
    match (o.aElems.filter fun a => !σ.bufRange σ.core slot o.aSpace o.aSize a)
        ++ (o.bElems.filter fun a => !σ.bufRange σ.core slot o.bSpace o.bSize a) with
    | a :: _ => some (causeOutside, BitVec.ofInt 64 a)
    | [] =>
      xlateFault (σ.gClass o.gop o.gSize (σ.gXlate slot o.kind o.gop o.gAddrs))

/-! ## Starting a step (R266, R278) -/

/-- A step begins: its tag is accepted; a program with the cancelled mark of its tag completes it at once with cause CANCELLED. -/
def State.beginStep (σ : State) (t : BitVec 1) (x : BitVec 6) (op : CopyOp) (slotNo : Nat) (words : Nat) : Out :=
  let core := σ.core
  let slot := σ.eSlot
  let r := σ.runHere
  let tag : Option Nat := if t = 1 then some x.toNat else none
  let σ : State := match tag with
    | some k => σ.setCtx core slot ((σ.ctxOf core slot).acceptTag k)
    | none => σ
  let e := σ.copyHere
  let s : CopyStep := { idx := e.nextStep, op := op, tag := tag, prog := r.id, upc := r.upc, bound := { r.prog with body := none, tags := [] },
                        slotNo := slotNo }
  let σ := σ.setCopyHere { e with nextStep := e.nextStep + 1, steps := e.steps ++ [s] }
  σ.wordDone words

/-- The step is cancelled before it starts. -/
def Run.cancelledTag (r : Run) (t : BitVec 1) (x : BitVec 6) : Bool := decide (t = 1) && r.prog.cancelled.getLsbD x.toNat
def State.cancelledStep (σ : State) (x : BitVec 6) (words : Nat) : Out :=
  let slot := σ.eSlot
  let c := σ.ctxOf σ.core slot
  (σ.putTags σ.core slot ((c.acceptTag x.toNat).completeTag x.toNat (some causeCancelled))).wordDone words

/-- A loader command for the slot's VF waits for the steps in flight: no further one starts before its switch point (R363). -/
def State.loadHolds (σ : State) (slot : Nat) : Bool := σ.loading.any fun p => decide (bits p.1.toNat 23 16 = σ.vfOf σ.core slot)

/-- A step without a ring starts: its checks, then the touches of the slabs it names and the wait for their pending counts. -/
def State.startStep (σ : State) (t : BitVec 1) (x : BitVec 6) (op : CopyOp) : Out :=
  let slot := σ.eSlot
  let r := σ.runHere
  let o := σ.operands slot r.prog op
  if r.cancelledTag t x then σ.cancelledStep x 1 else
  if σ.loadHolds slot then .next σ else
  match σ.stepFault slot o with
  | some e => σ.copyFault e.1 e.2
  | none =>
    let js := (if o.bSpace = 2 then slabsOfElems o.bElems else []) ++ (if o.aSpace = 2 then slabsOfElems o.aElems else [])
    match σ.touchRun σ.core slot js with
    | (σ, some j) => σ.foreignWait σ.core slot j
    | (σ, none) =>
      if js.any fun j => decide (σ.pendingAt σ.core slot j r.id ≠ 0) then .next σ
      else σ.beginStep t x op 0 1

/-- A step that fills a ring starts: it claims its slot. -/
def State.startFill (σ : State) (t : BitVec 1) (x : BitVec 6) (op : CopyOp) (ring words : Nat) : Out :=
  let slot := σ.eSlot
  let r := σ.runHere
  if r.cancelledTag t x then σ.cancelledStep x words else
  if σ.loadHolds slot then .next σ else
  match σ.stepFault slot (σ.operands slot r.prog op) with
  | some e => σ.copyFault e.1 e.2
  | none =>
    let c := σ.ctxOf σ.core slot
    let g := c.ring ring
    if g.free = 0 then .next σ
    else (σ.setCtx σ.core slot (c.setRing ring (g.doClaim 1))).beginStep t x op g.claim.toNat words

/-- A step that drains a ring starts: it takes the slot at HEAD + CUR. -/
def State.startDrain (σ : State) (t : BitVec 1) (x : BitVec 6) (op : CopyOp) (ring : Nat) : Out :=
  let slot := σ.eSlot
  let r := σ.runHere
  if r.cancelledTag t x then σ.cancelledStep x 1 else
  if σ.loadHolds slot then .next σ else
  match σ.stepFault slot (σ.operands slot r.prog op) with
  | some e => σ.copyFault e.1 e.2
  | none =>
    let g := (σ.ctxOf σ.core slot).ring ring
    let cur := r.curOf ring
    if g.full ≤ cur then .next σ
    else (σ.setRun (r.setCur ring (cur + 1))).beginStep t x op (g.head + BitVec.ofNat 32 cur).toNat 1

/-- CLD (R269). -/
def execCld (f l e t : BitVec 1) (x : BitVec 6) (v : BitVec 3) (g b : BitVec 4) (σ : State) : Out :=
  σ.copyWord f l v e true (σ.startStep t x (.cld g.toNat b.toNat))
def State.ringOk (σ : State) (c : BitVec 6) : Bool := ((σ.ctxOf σ.core σ.eSlot).ring c.toNat).configured
/-- CLD with a ring (R269). -/
def execCldRing (f l e t : BitVec 1) (x : BitVec 6) (v : BitVec 3) (g : BitVec 4) (c : BitVec 6) (σ : State) : Out :=
  σ.copyWord f l v e (σ.ringOk c) (σ.startFill t x (.cldRing g.toNat c.toNat) c.toNat 1)
/-- CST (R269). -/
def execCst (f l e t : BitVec 1) (x : BitVec 6) (v : BitVec 3) (g b : BitVec 4) (σ : State) : Out :=
  σ.copyWord f l v e true (σ.startStep t x (.cst g.toNat b.toNat))
/-- CST with a ring (R269). -/
def execCstRing (f l e t : BitVec 1) (x : BitVec 6) (v : BitVec 3) (g : BitVec 4) (c : BitVec 6) (σ : State) : Out :=
  σ.copyWord f l v e (σ.ringOk c) (σ.startDrain t x (.cstRing g.toNat c.toNat) c.toNat)
/-- CSTQ (R270). -/
def execCstq (e t : BitVec 1) (x : BitVec 6) (g b : BitVec 4) (m : BitVec 3) (y : BitVec 2) (σ : State) : Out :=
  σ.copyWord 0 0 0 e (decide (m.toNat ≤ 4)) (σ.startStep t x (.cstq g.toNat b.toNat m.toNat y.toNat))
/-- CMC (R271). -/
def execCmc (e t : BitVec 1) (x : BitVec 6) (a b : BitVec 4) (k : BitVec 8) (σ : State) : Out :=
  σ.copyWord 0 0 0 e (decide (k ≠ 0)) (σ.startStep t x (.cmc a.toNat b.toNat k.toNat))
/-- CGA (R272). -/
def execCga (e t : BitVec 1) (x : BitVec 6) (g i b : BitVec 4) (σ : State) : Out :=
  σ.copyWord 0 0 0 e true (σ.startStep t x (.cga g.toNat i.toNat b.toNat))
/-- CSC (R272). -/
def execCsc (e t : BitVec 1) (x : BitVec 6) (g i b : BitVec 4) (σ : State) : Out :=
  σ.copyWord 0 0 0 e true (σ.startStep t x (.csc g.toNat i.toNat b.toNat))
/-- CRW (R273). -/
def execCrw (e t : BitVec 1) (x : BitVec 6) (a b : BitVec 4) (σ : State) : Out :=
  σ.copyWord 0 0 0 e true (σ.startStep t x (.crw a.toNat b.toNat))
/-- CRED (R274). -/
def execCred (e t : BitVec 1) (x : BitVec 6) (a b : BitVec 4) (σ : State) : Out :=
  σ.copyWord 0 0 0 e true (σ.startStep t x (.cred a.toNat b.toNat))
/-- CLDM (R275): the follow-on word is the second word; a CLDM that is the last word of its body faults (R155). -/
def execCldm (e t : BitVec 1) (x : BitVec 6) (g : BitVec 4) (c : BitVec 6) (k : BitVec 2) (follow : BitVec 32) (σ : State) : Out :=
  let r := σ.runHere
  let followOk : Bool := match decode .mat follow.toNat with
    | some i => decide (i ≠ .matHalt)
    | none => false
  σ.copyWord 0 0 0 e (σ.ringOk c && followOk && decide (r.upc + 1 < r.prog.bodyLen))
    (σ.startFill t x (.cldm g.toNat c.toNat k.toNat follow) c.toNat 2)

/-! ## Words that move nothing (R276) -/

/-- CWT (R276). -/
def execCwt (f l e : BitVec 1) (v : BitVec 3) (c : BitVec 6) (n : BitVec 8) (σ : State) : Out :=
  let g := (σ.ctxOf σ.core σ.eSlot).ring c.toNat
  σ.copyWord f l v e (σ.ringOk c && decide (n ≠ 0)) <|
    if g.scount < n.toNat then σ.copyFault causeStepIllegal
    else if g.full < n.toNat then .next σ
    else σ.wordDone
/-- CADV (R276). -/
def execCadv (f l e : BitVec 1) (v : BitVec 3) (c : BitVec 6) (n : BitVec 8) (σ : State) : Out :=
  let slot := σ.eSlot
  let r := σ.runHere
  let g := (σ.ctxOf σ.core slot).ring c.toNat
  σ.copyWord f l v e (σ.ringOk c && decide (n ≠ 0)) <|
    if g.full < n.toNat then σ.copyFault causeStepIllegal
    else
      let σ := σ.setCtx σ.core slot ((σ.ctxOf σ.core slot).setRing c.toNat (g.doAdvance n.toNat))
      (σ.setRun (r.setCur c.toNat (r.curOf c.toNat - n.toNat))).wordDone
/-- CMARK (R276): retires once every earlier step of the engine has completed, before anything of the next cycle looks (R186). The words
behind it wait with it (log 114). -/
def execCmark (e n : BitVec 1) (m : BitVec 16) (σ : State) : Out :=
  σ.copyWord 0 0 0 e true <|
    if !σ.copyHere.steps.isEmpty then .next σ
    else ({ σ with landing := σ.landing ++ [.mark σ.core σ.eSlot σ.eng m (decide (n = 1))] } : State).wordDone
/-- CNOP (R276). -/
def execCnop (f l e : BitVec 1) (v : BitVec 3) (σ : State) : Out := σ.copyWord f l v e true σ.wordDone
/-- The end of a copy program's body (R276). -/
def State.copyEnd (σ : State) : Out :=
  let r := σ.runHere.endBody
  let σ := σ.setRun r
  .next (if r.halted ∧ σ.canRetire σ.core σ.eng then σ.push (.programRetire σ.core σ.eng) else σ)
/-- CHALT (R276). -/
def execChalt (σ : State) : Out := σ.copyEnd
/-- CHALT with S (R276): once every earlier step of the engine has completed (R154). -/
def execChaltS (σ : State) : Out := if σ.copyHere.steps.isEmpty then σ.copyEnd else .next σ

/-! ## Completion (R269 to R275, R278) -/

/-- What a step in flight comes to when it is looked at: done, with an error and its address or none, not yet, or a fault of rows 1 to 3. -/
inductive StepEnd where
  | done (σ : State) (err : Option (Nat × Word))
  | wait (σ : State)
  | fault (cause : Nat) (detail : Word)

/-- G elements read: translated, carried, checked line by line; `k` gets the state and the values. -/
def State.readSide (σ : State) (slot idx esz : Nat) (op : GOp) (vas : List Word)
    (k : State → List (Option Nat) → Option (Nat × Word) → StepEnd) : StepEnd :=
  let l := σ.gXlate slot .read op vas
  match xlateFault l with
  | some e => .fault e.1 e.2
  | none =>
    let xs := xlOk l
    let ps := vas.zip xs
    match σ.gRemote slot idx ps with
    | .refused _ va => .fault causeOutside va
    | .wait σ => .wait σ
    | .reply σ late =>
      let lost := lateElem σ.eng idx late (remoteLines ps)
      let vs := ((σ.gElems slot esz xs).zip xs).map fun p => if lost p.2 then none else p.1
      let err := (σ.gReadErr slot ps).orElse fun _ => (ps.find? fun p => lost p.2).map fun p => (causeFabTimeout, p.1)
      let σ := σ.sealNotices ((xs.filter fun x => !x.remote && decide (σ.lineCheck (σ.vfOf σ.core slot) x.pa = some causeSealFail)).map (·.pa))
      k (if xs.any Xl.remote then { σ with fresh := σ.fresh + 8 * xs.length } else σ) vs err
/-- G elements written. -/
def State.writeSide (σ : State) (slot idx esz : Nat) (op : GOp) (tag : Option Nat) (vas : List Word) (vs : List (Option Nat)) : StepEnd :=
  let l := σ.gXlate slot .write op vas
  match xlateFault l with
  | some e => .fault e.1 e.2
  | none =>
    let xs := xlOk l
    let ps := vas.zip xs
    match σ.gRemote slot idx ps with
    | .refused _ va => .fault causeOutside va
    | .wait σ => .wait σ
    | .reply σ late =>
      let lost := (ps.find? fun p => lateElem σ.eng idx late (remoteLines ps) p.2).map fun p => (causeFabTimeout, p.1)
      .done (σ.gWrite slot esz tag xs vs) ((σ.gWriteErr slot ps).orElse fun _ => lost)

/-- The bytes of a step's values into the ring slot it claimed, from byte 0 in shape order. -/
def State.fillSlot (σ : State) (slot ring i esz : Nat) (vs : List (Option Nat)) : State :=
  let r := (σ.ctxOf σ.core slot).ring ring
  (vs.zipIdx).foldl (fun (σ : State) p => match p.1 with
    | some v => σ.aWrite σ.core slot (r.slotAt i + p.2 * esz) (natBytes esz v)
    | none => σ) σ
/-- `fill_done` of a copy engine: what the engine has written of G before it is ordered before whoever waits for the slot (R94). -/
def State.fillRing (σ : State) (slot ring i : Nat) : State :=
  let c := σ.ctxOf σ.core slot
  let mine := ((c.tagLines ++ c.vTagLines).filter fun p => decide (p.1 / 65 = σ.eng)).foldl (fun m p => maskJoin m p.2) []
  σ.setCtx σ.core slot (c.setRing ring ((c.ring ring).fillWith i mine))

/-- Blocks of CSTQ in shape order, threading the engine's generator: code bytes and scale byte of each. -/
def quantBlocks (t mode : Nat) : Nat → List Num → BitVec 32 → List (List Nat × Nat) × BitVec 32
  | 0, _, g => ([], g)
  | n + 1, xs, g =>
    let e := q4encode (xs.take 32) t mode g
    let rest := quantBlocks t mode n (xs.drop 32) e.2.2
    (((List.range 16).map fun k => e.1.getD (2 * k) 0 + 16 * e.1.getD (2 * k + 1) 0, e.2.1) :: rest.1, rest.2)

/-- The slots of a named core whose lot belongs to a launch node (R271). -/
def State.nodeSlots (σ : State) (core node : Nat) : List Nat :=
  [0, 1, 2, 3].filter fun k => match (σ.ctxOf core k).task with
    | some t => decide ((σ.taskOf t).node = node)
    | none => false

/-- Values into the destination shape on every named core of the die; OWNER where a core has no slot of the node. -/
def State.multicast (σ : State) (slot mask : Nat) (B : Shape) (vs : List (Option Nat)) : State × Option (Nat × Word) :=
  let node := match (σ.ctxOf σ.core slot).task with
    | some t => (σ.taskOf t).node
    | none => 0
  let cores := ((List.range 8).filter fun i => mask.testBit i).map fun i => σ.core / 8 * 8 + i
  let σ' := cores.foldl (fun (s : State) c => (s.nodeSlots c node).foldl (fun (s : State) k => s.bufWriteAll c k B.space B.esz B.elems vs) s) σ
  (σ', if cores.any fun c => (σ.nodeSlots c node).isEmpty then some (causeOwner, 0) else none)

/-- The source values of CMC and CRW: a G or an A shape. -/
def State.sourceSide (σ : State) (slot idx : Nat) (A : Shape) (k : State → List (Option Nat) → Option (Nat × Word) → StepEnd) : StepEnd :=
  if A.space = 0 then σ.readSide slot idx A.esz .near A.gAddrs k
  else k σ (A.elems.map fun a => some (σ.bufRead σ.core slot 1 A.esz a)) none

/-- A message to a remote ring (R273, R394): its endpoint must name a valid record of KIND 0 bound to the VF when it is sent (R390);
otherwise, and where it is refused, OWNER. -/
def State.sendMessage (σ : State) (slot idx ep : Nat) : StepEnd :=
  let r := σ.importRec ep
  if (σ.sentBy σ.core slot (some (askName σ.eng idx 1))).isNone ∧ (!impValid r ∨ impKind r ≠ 0 ∨ impVf r ≠ σ.vfOf σ.core slot) then
    .done σ (some (causeOwner, 0))
  else match σ.fabricAsk σ.core slot (some (askName σ.eng idx 1)) ep 0 with
    | .refused σ => .done σ (some (causeOwner, 0))
    | .timeout σ => .done σ (some (causeFabTimeout, 0))
    | .wait σ => .wait σ
    | .reply σ => .done σ none

/-- Contributions of a step's elements in order, each sent once (R274); the answers by element: 0 accepted, 1 refused, 2 INCOMPLETE. -/
def State.contributeAll (σ : State) (slot idx : Nat) : List (Nat × Xl × Nat) → Tbl Nat → State × Tbl Nat
  | [], a => (σ, a)
  | (j, x, v) :: r, a =>
    if (Tbl.find? a j).isSome then State.contributeAll σ slot idx r a else
    match σ.contributeAsk σ.core slot (some (askName σ.eng idx j)) x.frame x.off 0 (BitVec.ofNat 32 v) with
    | (some c, σ) => State.contributeAll σ slot idx r (Tbl.set a j c)
    | (none, σ) => State.contributeAll σ slot idx r a

/-- The step record after a look that found answers. -/
def State.keepAnswers (σ : State) (idx : Nat) (a : Tbl Nat) : State :=
  let e := σ.copyHere
  σ.setCopyHere { e with steps := e.steps.map fun s => if s.idx = idx then { s with answers := a } else s }

/-- An earlier step of the engine in flight drains the same ring (R269). -/
def State.earlierDrain (σ : State) (s : CopyStep) (ring : Nat) : Bool :=
  σ.copyHere.steps.any fun q => decide (q.idx < s.idx) && (match q.op with | .cstRing _ c => decide (c = ring) | _ => false)

/-- The movement of a step. A CRW with a source line that fails its check sends no message (log 111). -/
def State.moveStep (σ : State) (slot : Nat) (s : CopyStep) : StepEnd :=
  let p := s.bound
  let core := σ.core
  match s.op with
  | .cld g b =>
    let G := p.shape g
    let B := p.shape b
    σ.readSide slot s.idx G.esz .plain G.gAddrs fun σ vs err => .done (σ.bufWriteAll core slot B.space B.esz B.elems vs) err
  | .cldRing g c =>
    let G := p.shape g
    σ.readSide slot s.idx G.esz .plain G.gAddrs fun σ vs err => .done ((σ.fillSlot slot c s.slotNo G.esz vs).fillRing slot c s.slotNo) err
  | .cst g b =>
    let G := p.shape g
    let B := p.shape b
    σ.writeSide slot s.idx G.esz .plain s.tag G.gAddrs (B.elems.map fun a => some (σ.bufRead core slot B.space B.esz a))
  | .cstRing g c =>
    if σ.earlierDrain s c then .wait σ else
    let G := p.shape g
    let ring := (σ.ctxOf core slot).ring c
    if ring.full = 0 then .fault causeStepIllegal 0 else
    let vs := (List.range G.count).map fun j => some (σ.aNat core slot (ring.slotAt s.slotNo + j * G.esz) G.esz)
    match σ.writeSide slot s.idx G.esz .plain s.tag G.gAddrs vs with
    | .done σ err =>
      let σ := σ.setCtx core slot ((σ.ctxOf core slot).setRing c (((σ.ctxOf core slot).ring c).doAdvance 1))
      let σ : State := match σ.eHere.run with
        | some r => σ.setRun (r.setCur c (r.curOf c - 1))
        | none => σ
      .done σ err
    | o => o
  | .cstq g b mode ty =>
    let G := p.shape g
    let S := p.shape ((g + 1) % 16)
    let B := p.shape b
    let f := if B.esz = 4 then fp32 else bf16
    let xs := B.elems.map fun a => f.decode (σ.bufRead core slot B.space B.esz a)
    let q := quantBlocks ty mode (B.count / 32) xs σ.eHere.gen
    let vs := (q.1.flatMap fun e => e.1).map some ++ (q.1.map fun e => some e.2)
    match σ.writeSide slot s.idx 1 .near s.tag (G.gAddrs ++ S.gAddrs) vs with
    | .done σ err => .done (σ.setEng core σ.eng { σ.eHere with gen := q.2 }) err
    | o => o
  | .cmc a b mask =>
    σ.sourceSide slot s.idx (p.shape a) fun σ vs err =>
      let r := σ.multicast slot mask (p.shape b) vs
      .done r.1 (err <|> r.2)
  | .cga g i b =>
    let G := p.shape g
    let B := p.shape b
    σ.readSide slot s.idx G.esz .near (σ.idxAddrs slot G (p.shape i)) fun σ vs err =>
      .done (σ.bufWriteAll core slot B.space B.esz B.elems vs) err
  | .csc g i b =>
    let G := p.shape g
    let B := p.shape b
    σ.writeSide slot s.idx G.esz .near s.tag (σ.idxAddrs slot G (p.shape i)) (B.elems.map fun a => some (σ.bufRead core slot B.space B.esz a))
  | .crw a b =>
    σ.sourceSide slot s.idx (p.shape a) fun σ _ err =>
      match err with
      | some e => .done σ (some e)
      | none => σ.sendMessage slot s.idx ((Tbl.get p.tx 0 b).toNat % 2 ^ 16)
  | .cred a b =>
    let A := p.shape a
    let W := p.shape b
    let l := σ.gXlate slot .rmw .cred W.gAddrs
    match xlateFault l with
    | some e => .fault e.1 e.2
    | none =>
      let vs := A.elems.map fun x => σ.bufRead core slot A.space A.esz x
      let r := σ.contributeAll slot s.idx (((xlOk l).zip vs).zipIdx.map fun q => (q.2, q.1)) s.answers
      let first (n : Nat) : Option Word := (List.find? (fun (q : Nat × Nat) => decide (q.2 = n)) r.2).map fun q => W.gAddrs.getD q.1 0
      match first 1 with
      | some va => .fault causeOutside va
      | none =>
        if r.2.length < vs.length then .wait (r.1.keepAnswers s.idx r.2)
        else .done r.1 ((first 2).map fun va => (causeFabTimeout, va))
  | .cldm g c _ _ =>
    let G := p.shape g
    if s.filled then .wait σ
    else σ.readSide slot s.idx G.esz .plain G.gAddrs fun σ vs err => .done (σ.fillSlot slot c s.slotNo G.esz vs) err

/-- The bytes a step moves: those of its source elements (R416). -/
def CopyStep.bytes (s : CopyStep) : Nat :=
  let size (k : Nat) : Nat := (s.bound.shape k).count * (s.bound.shape k).esz
  match s.op with
  | .cld g _ => size g
  | .cldRing g _ => size g
  | .cst _ b => size b
  | .cstRing g _ => size g
  | .cstq _ b _ _ => size b
  | .cmc a _ _ => size a
  | .cga _ _ b => size b
  | .csc _ _ b => size b
  | .crw a _ => size a
  | .cred a _ => size a
  | .cldm g _ _ _ => size g

/-- The step leaves its engine: its tag completes, or its error is posted to the slot with its address (R81, R278, R377). -/
def State.endStep (σ : State) (slot : Nat) (s : CopyStep) (err : Option (Nat × Word)) : State :=
  let σ : State := match σ.eHere.run with
    | some r => if err.isNone then σ.setRun { r with moved := r.moved + s.bytes } else σ
    | none => σ
  let e := σ.copyHere
  let σ := σ.setCopyHere { e with steps := e.steps.filter fun q => decide (q.idx ≠ s.idx) }
  match s.tag, err with
  | some _, _ => σ.tagDone s.tag (err.map (·.1))
  | none, some e => σ.postFault σ.core slot (engSrc σ.eng) e.1 s.upc 0 e.2
  | none, none => σ

/-- The follow-on program of a CLDM (R275): the word and HALT, every loop count 1, with the registers bound at the copy program's
FORK. -/
def followProg (p : Prog) (follow : BitVec 32) : Prog :=
  { body := some [follow, BitVec.ofNat 32 0xF8000000], loops := [1, 1, 1, 1, 1, 1], vshape := p.vshape, q := p.q, cv := p.cv, tx := p.tx }

/-- A CLDM whose data has landed performs its `fill_done` and places its follow-on word, once the sequencer's queue has room; with an
error it only fills its slot. That the `fill_done` waits for the room, and that nothing is placed on a fragment whose lease was returned
meanwhile, is the model's choice (log 110). -/
def State.followOn (σ : State) (slot : Nat) (s : CopyStep) (ring k : Nat) (follow : BitVec 32) (err : Option (Nat × Word)) : State :=
  if err.isSome then (σ.fillRing slot ring s.slotNo).endStep slot s err
  else if σ.queueFull σ.core (k + 4) then
    let e := σ.copyHere
    σ.setCopyHere { e with steps := e.steps.map fun q => if q.idx = s.idx then { q with filled := true } else q }
  else
    let σ := σ.fillRing slot ring s.slotNo
    let σ := if (σ.fragsOf σ.core slot).contains k then σ.place σ.core slot (k + 4) false (.program (followProg s.bound follow)) else σ
    σ.endStep slot s none

/-- The view of engine n of a core as the acting one. -/
def State.asEngine (σ : State) (core e : Nat) : State := { σ with core := core, eng := e }

/-- COPY_STEP_COMPLETE (R266, R269): a step in flight moves its data and completes, unless something it waits for has not come. -/
def execCopyStepComplete (core n idx : Nat) (σ : State) : Out :=
  let σ := σ.asEngine core (n + 8)
  let slot := σ.eSlot
  match σ.copyHere.steps.find? fun s => decide (s.idx = idx) with
  | none => .next σ
  | some s =>
    match σ.moveStep slot s with
    | .wait σ => .next σ
    | .fault c d => (σ.setRun { σ.runHere with upc := s.upc }).copyFault c d
    | .done σ err =>
      match s.op with
      | .cldm _ ring k follow => .next (σ.followOn slot s ring k follow err)
      | _ => .next (σ.endStep slot s err)

/-- CLDM_FOLLOW_ON (R275): a CLDM whose data has landed places its follow-on word once the queue has room. -/
def execCldmFollowOn (core n idx : Nat) (σ : State) : Out :=
  let σ := σ.asEngine core (n + 8)
  let slot := σ.eSlot
  match σ.copyHere.steps.find? fun s => decide (s.idx = idx) with
  | none => .next σ
  | some s =>
    match s.op with
    | .cldm _ ring k follow => .next (if s.filled then σ.followOn slot s ring k follow none else σ)
    | _ => .next σ

end Sys2Proof.Machine
end

