-- ==== Sys2Proof/Machine/RvFloat.lean ====
section
/-!
DEFINITION. Floating-point arithmetic of the Rink cores: the F and D extensions of RISC-V, with their rounding modes, NaN boxing
and exception flags (15 R281). What R281 takes from the RISC-V specifications is PRESUMED (log 30).
-/

namespace Sys2Proof.Machine

def fp64 : FFmt := ⟨64, 52, 1023, true⟩

/-- Flags of fflags: NX 1, UF 2, OF 4, DZ 8, NV 16. -/
def fNX : Nat := 1
def fUF : Nat := 2
def fOF : Nat := 4
def fDZ : Nat := 8
def fNV : Nat := 16

/-- Rounding up from the grid point below: 0 RNE, 1 RTZ, 2 RDN, 3 RUP, 4 RMM. -/
def rvUp (rm : Nat) (neg odd : Bool) (r den : Nat) : Bool :=
  if rm = 0 then decide (den < 2 * r) || (decide (den = 2 * r) && odd)
  else if rm = 1 then false
  else if rm = 2 then neg && decide (r ≠ 0)
  else if rm = 3 then !neg && decide (r ≠ 0)
  else decide (den ≤ 2 * r)

/-- A magnitude on the grid 2^q: its grid point after rounding, and whether it was exact. -/
def rvGrid (rm : Nat) (neg : Bool) (m : Nat) (e q : Int) : Nat × Bool :=
  let lo := scale2 m (e - q)
  let den := 2 ^ (q - e).toNat
  let exact : Bool := decide (q ≤ e) || decide (m % den = 0)
  (if !exact && rvUp rm neg (decide (lo % 2 = 1)) (m % den) den then lo + 1 else lo, exact)

/-- Rounding into a format with flags; tininess is detected after rounding. -/
def FFmt.rvRound (f : FFmt) (rm : Nat) (x : Num) : Nat × Nat :=
  match x with
  | .nan => (f.canonNaN, 0)
  | .inf neg => (f.infPat neg, 0)
  | .fin neg m e =>
    let sgn := if neg then 2 ^ (f.width - 1) else 0
    if m = 0 then (sgn, 0) else
    let top : Int := (Nat.log2 m : Int) + e
    let emin : Int := 1 - f.bias
    let q : Int := (if top < emin then emin else top) - f.frac
    let g := rvGrid rm neg m e q
    let pat : Nat := if q = emin - f.frac ∧ g.1 < 2 ^ f.frac then g.1 else (q + f.frac + f.bias - 1).toNat * 2 ^ f.frac + g.1
    if f.maxFinite < pat then
      let toMax : Bool := decide (rm = 1) || (decide (rm = 2) && !neg) || (decide (rm = 3) && neg)
      (sgn + (if toMax then f.maxFinite else f.infPat false), fOF + fNX)
    else
      let carries : Bool := decide ((rvGrid rm neg m e (top - f.frac)).1 = 2 ^ (f.frac + 1))
      let tiny : Bool := decide (top < emin) && !(decide (top = emin - 1) && carries)
      (sgn + pat, if g.2 then 0 else if tiny then fNX + fUF else fNX)

/-- The mode for the sign of an exact zero sum, in the numbering of R107. -/
def rvZeroMode (rm : Nat) : Nat := if rm = 2 then 3 else 0

def FFmt.isNaN (f : FFmt) (w : Nat) : Bool := (f.decode w).isNaN
/-- A signalling NaN: the highest fraction bit is zero. -/
def FFmt.isSNaN (f : FFmt) (w : Nat) : Bool := f.isNaN w && !w.testBit (f.frac - 1)
def nvIf (b : Bool) : Nat := if b then fNV else 0

/-- A result of an operation whose exact value is x; an invalid operation gives NaN and NV. -/
def FFmt.rvResult (f : FFmt) (rm : Nat) (x : Num) (ws : List Nat) : Nat × Nat :=
  let anyNaN := ws.any f.isNaN
  let r := f.rvRound rm x
  (r.1, r.2 ||| nvIf (ws.any f.isSNaN || (x.isNaN && !anyNaN)))

def FFmt.rvAdd (f : FFmt) (rm a b : Nat) : Nat × Nat :=
  f.rvResult rm (Num.add (rvZeroMode rm) (f.decode a) (f.decode b)) [a, b]
/-- The sign bit inverted, which keeps a NaN a NaN of its kind. -/
def FFmt.flip (f : FFmt) (w : Nat) : Nat := w ^^^ 2 ^ (f.width - 1)
def FFmt.rvSub (f : FFmt) (rm a b : Nat) : Nat × Nat := f.rvAdd rm a (f.flip b)
def FFmt.rvMul (f : FFmt) (rm a b : Nat) : Nat × Nat := f.rvResult rm (Num.mul (f.decode a) (f.decode b)) [a, b]
/-- a * b + c with one rounding; infinity times zero is invalid even with a quiet NaN as addend. -/
def FFmt.rvFma (f : FFmt) (rm a b c : Nat) : Nat × Nat :=
  let p := Num.mul (f.decode a) (f.decode b)
  let bad : Bool := p.isNaN && !f.isNaN a && !f.isNaN b
  let r := f.rvResult rm (Num.add (rvZeroMode rm) p (f.decode c)) [a, b, c]
  (r.1, r.2 ||| nvIf bad)

/-- A positive quotient of magnitudes, with a sticky last bit. -/
def quotient (m n : Nat) : Nat × Int :=
  let s := 140 + Nat.log2 n
  (2 * (m * 2 ^ s / n) + (if m * 2 ^ s % n = 0 then 0 else 1), -(s : Int) - 1)
def FFmt.rvDiv (f : FFmt) (rm a b : Nat) : Nat × Nat :=
  match f.decode a, f.decode b with
  | .fin s m e, .fin t n k =>
    if n = 0 then (if m = 0 then (f.canonNaN, fNV) else (f.infPat (s != t), fDZ))
    else if m = 0 then (f.rvRound rm (.fin (s != t) 0 0))
    else let q := quotient m n; f.rvRound rm (.fin (s != t) q.1 (q.2 + e - k))
  | .inf s, .fin t _ _ => (f.infPat (s != t), 0)
  | .fin s _ _, .inf t => f.rvRound rm (.fin (s != t) 0 0)
  | .inf _, .inf _ => (f.canonNaN, fNV)
  | _, _ => (f.canonNaN, nvIf (f.isSNaN a || f.isSNaN b))
/-- A square root with a sticky last bit. -/
def FFmt.rvSqrt (f : FFmt) (rm a : Nat) : Nat × Nat :=
  match f.decode a with
  | .fin s m e =>
    if m = 0 then (a, 0) else if s then (f.canonNaN, fNV)
    else
      let m' := if e % 2 = 0 then m else 2 * m
      let e' := if e % 2 = 0 then e else e - 1
      let r := isqrt 160 (m' * 2 ^ 200)
      f.rvRound rm (.fin false (2 * r + (if r * r = m' * 2 ^ 200 then 0 else 1)) (e' / 2 - 101))
  | .inf s => if s then (f.canonNaN, fNV) else (f.infPat false, 0)
  | .nan => (f.canonNaN, nvIf (f.isSNaN a))

/-- minimumNumber and maximumNumber. -/
def FFmt.rvMinMax (f : FFmt) (isMin : Bool) (a b : Nat) : Nat × Nat :=
  let nv := nvIf (f.isSNaN a || f.isSNaN b)
  if f.isNaN a ∧ f.isNaN b then (f.canonNaN, nv)
  else if f.isNaN a then (b, nv) else if f.isNaN b then (a, nv)
  else
    let x := f.decode a
    let y := f.decode b
    let aFirst : Bool := if x.eq y then x.isNeg else x.lt y
    (if aFirst == isMin then a else b, nv)
/-- 0 FLE, 1 FLT, 2 FEQ. -/
def FFmt.rvCmp (f : FFmt) (op a b : Nat) : Bool × Nat :=
  let x := f.decode a
  let y := f.decode b
  if f.isNaN a ∨ f.isNaN b then (false, nvIf (decide (op ≠ 2) || f.isSNaN a || f.isSNaN b))
  else (if op = 0 then x.lt y || x.eq y else if op = 1 then x.lt y else x.eq y, 0)
/-- FCLASS. -/
def FFmt.rvClass (f : FFmt) (w : Nat) : Nat :=
  match f.decode w with
  | .nan => if f.isSNaN w then 256 else 512
  | .inf s => if s then 1 else 128
  | .fin s m _ =>
    if m = 0 then (if s then 8 else 16)
    else if m < 2 ^ f.frac then (if s then 4 else 32)
    else (if s then 2 else 64)
/-- FSGNJ, FSGNJN, FSGNJX. -/
def FFmt.rvSgnj (f : FFmt) (op a b : Nat) : Nat :=
  let sa := a / 2 ^ (f.width - 1) % 2
  let sb := b / 2 ^ (f.width - 1) % 2
  let s := if op = 0 then sb else if op = 1 then 1 - sb else (sa + sb) % 2
  a % 2 ^ (f.width - 1) + s * 2 ^ (f.width - 1)

/-- A value rounded to an integer, and whether it was exact. -/
def Num.rvInt (x : Num) (rm : Nat) : Int × Bool :=
  match x with
  | .fin neg m e => let g := rvGrid rm neg m e 0; (if neg then -(g.1 : Int) else g.1, g.2)
  | _ => (0, true)
/-- FCVT to an integer of k bits: out of range saturates with NV. -/
def FFmt.rvToInt (f : FFmt) (rm k : Nat) (signed : Bool) (w : Nat) : Int × Nat :=
  let hi : Int := if signed then 2 ^ (k - 1) - 1 else 2 ^ k - 1
  let lo : Int := if signed then -(2 ^ (k - 1)) else 0
  match f.decode w with
  | .nan => (hi, fNV)
  | .inf s => (if s then lo else hi, fNV)
  | x =>
    let r := x.rvInt rm
    if hi < r.1 then (hi, fNV) else if r.1 < lo then (lo, fNV) else (r.1, if r.2 then 0 else fNX)
/-- FCVT between the two formats. -/
def rvConvert (src dst : FFmt) (rm w : Nat) : Nat × Nat :=
  let r := dst.rvRound rm (src.decode w)
  (r.1, r.2 ||| nvIf (src.isSNaN w))

/-- A single in a 64-bit register is NaN-boxed; a register that is not reads as the canonical NaN. -/
def boxed (w : Nat) : Word := BitVec.ofNat 64 ((2 ^ 32 - 1) * 2 ^ 32 + w % 2 ^ 32)
def unbox (v : Word) : Nat := if v.toNat / 2 ^ 32 = 2 ^ 32 - 1 then v.toNat % 2 ^ 32 else fp32.canonNaN

end Sys2Proof.Machine
end

