-- ==== Sys2Proof/Machine/RvCore.lean ====
section
/-!
DEFINITION. An episode's hart: user memory (15 R282), and one RV64GC instruction (R281). What R281 takes from the RISC-V
specifications (encodings, results, exception causes, CSRs) is PRESUMED (log 30).
-/

namespace Sys2Proof.Machine

/-- What an access or an instruction of a hart comes to: a value, an exception with its mcause, or a wait for residency. -/
inductive RvOut (α : Type) where
  | ok (v : α) (σ : State)
  | exc (mcause : Nat) (σ : State)
  | wait (σ : State)

/-- The access-fault exception of an access kind. -/
def accessFault (kind : Kind) : Nat :=
  match kind with
  | .fetch => 1
  | .read => 5
  | .write | .rmw => 7

/-- The Rink translation table of a VF (R282). -/
def State.rinkTable (σ : State) (vf : Nat) : Table := Tbl.get σ.tables {} (vf * 4 + 2)

/-- Physical addresses of n bytes of the window in the acting core's window registers (R283); only class normal is taken. -/
def State.rvPlace (σ : State) (vf : Nat) (kind : Kind) (a : Nat) : Nat → Chk (List Nat)
  | 0 => .ok []
  | n + 1 =>
    let va := (σ.rinkOf σ.rinkNo).wbase + BitVec.ofNat 64 a
    let t := σ.rinkTable vf
    if entClass (Tbl.get t.entries 0 (va.toNat / 2 ^ granLog t)) ≠ 0 then failWith causeOutside va else
    match xlate t va kind .near with
    | .error x => .error x
    | .ok x =>
      match State.rvPlace σ vf kind (a + 1) n with
      | .error y => .error y
      | .ok l => .ok (x.pa :: l)

/-- The episode that runs on the acting Rink core, by its ID. -/
def State.rinkId (σ : State) : Nat := (σ.rinkOf σ.rinkNo).current.getD 0
/-- A byte is in the acting core's cache under the episode's ID (R283). -/
def State.rinkHit (σ : State) (pa : Nat) : Bool := (σ.rinkLine σ.rinkNo σ.rinkId pa).isSome

/-- The checks of an access of n bytes at user address a (R282), with the far cache's fills; a line in the core's own cache has passed its
owner and seal checks when it was filled. -/
def State.rvAccess (σ : State) (vf : Nat) (kind : Kind) (a n : Nat) : RvOut (List Nat) :=
  if (σ.rinkOf σ.rinkNo).wsize < a + n then .exc (accessFault kind) σ else
  match σ.rvPlace vf kind a n with
  | .error t =>
    if t.cause = causeNonresident ∨ t.cause = causeCow then .wait (σ.pageWant vf 2 t.detail (t.cause = causeCow))
    else .exc (accessFault kind) σ
  | .ok l =>
    match l.find? fun pa => !σ.rinkHit pa && (σ.lineCheck vf pa).isSome with
    | some pa => .exc (accessFault kind) (if σ.lineCheck vf pa = some causeSealFail then σ.sealNotices [pa] else σ)
    | none => .ok l (l.foldl (fun σ pa => if σ.rinkHit pa then σ else σ.fill pa) σ)

/-- An access of the acting core goes to the monitor's SRAM: in machine mode, but for data where MPRV stands with MPP user (R281, R283). -/
def State.rvMonitor (σ : State) (kind : Kind) : Bool :=
  let k := σ.rinkOf σ.rinkNo
  k.machine && (decide (kind = .fetch) || !k.mstatus.getLsbD 17 || decide (bits k.mstatus.toNat 12 11 ≠ 0))
/-- The size of a monitor's SRAM (R283). -/
def monitorBytes : Nat := 65536
def Rink.sramNat (k : Rink) (a n : Nat) : Nat := (List.range n).foldr (fun i v => (Tbl.get k.sram 0 (a + i)).toNat + 256 * v) 0
def Rink.sramWrite (k : Rink) (a : Nat) (bs : List Byte) : Rink :=
  { k with sram := (bs.zipIdx).foldl (fun t p => Tbl.set t (a + p.2) p.1) k.sram }

/-- A read of n bytes through the core's cache, or of the monitor's SRAM, the first lowest. -/
def State.rvRead (σ : State) (vf : Nat) (kind : Kind) (a n : Nat) : RvOut Nat :=
  if σ.rvMonitor kind then
    (if monitorBytes < a + n then .exc (accessFault kind) σ else .ok ((σ.rinkOf σ.rinkNo).sramNat a n) σ)
  else
  match σ.rvAccess vf kind a n with
  | .ok l σ =>
    let σ := l.foldl (fun (σ : State) pa => σ.rinkFill σ.rinkNo σ.rinkId pa) σ
    .ok (l.foldr (fun pa v => (σ.rinkByte σ.rinkNo σ.rinkId pa).toNat + 256 * v) 0) σ
  | .exc c σ => .exc c σ
  | .wait σ => .wait σ

/-- A write of bytes into the core's cache, or into the monitor's SRAM. -/
def State.rvWrite (σ : State) (vf : Nat) (kind : Kind) (a : Nat) (bs : List Byte) : RvOut Unit :=
  if σ.rvMonitor kind then
    (if monitorBytes < a + bs.length then .exc (accessFault kind) σ
     else .ok () (σ.setRink σ.rinkNo ((σ.rinkOf σ.rinkNo).sramWrite a bs)))
  else
  match σ.rvAccess vf kind a bs.length with
  | .ok l σ => .ok () (σ.rinkStore σ.rinkNo σ.rinkId (l.zip bs))
  | .exc c σ => .exc c σ
  | .wait σ => .wait σ

/-- What the episode has stored reaches memory, and its next reads find what memory holds (R83, R281). -/
def State.rvSync (σ : State) : State := σ.rinkFlush σ.rinkNo σ.rinkId false

/-- An atomic access of n bytes at its home slice, past the core's cache: every one is checked as a miss is (R282), and its write reaches the
lines of the other Rink cores (R83, R281). `f` gives what it writes, by the place and the old value; the answer is both. In the
monitor's SRAM, whose places are told from those of memory, the same. -/
def State.rvAtom (σ : State) (vf : Nat) (kind : Kind) (a n : Nat) (f : Nat → Nat → Option Nat) : RvOut (Nat × Nat) :=
  if σ.rvMonitor kind then
    if monitorBytes < a + n then .exc (accessFault kind) σ else
    let k := σ.rinkOf σ.rinkNo
    let old := k.sramNat a n
    .ok (2 ^ 60 + a, old) (match f (2 ^ 60 + a) old with
      | some v => σ.setRink σ.rinkNo (k.sramWrite a (natBytes n v))
      | none => σ)
  else
  match σ.rvSync.rvAccess vf kind a n with
  | .ok l σ =>
    let pa := l.headD 0
    let old := σ.memNat pa n
    .ok (pa, old) (match f pa old with
      | some v => σ.rinkPerform vf (bytesAt pa n v)
      | none => σ)
  | .exc c σ => .exc c σ
  | .wait σ => .wait σ

/-! ## Registers -/

/-- x0 reads zero and takes no write. -/
def Hart.xr (h : Hart) (r : Nat) : Word := if r = 0 then 0 else Tbl.get h.x 0 r
def Hart.setX (h : Hart) (r : Nat) (v : Word) : Hart := if r = 0 then h else { h with x := Tbl.set h.x r v }
def Hart.fr (h : Hart) (r : Nat) : Word := Tbl.get h.f 0 r
def Hart.setFr (h : Hart) (r : Nat) (v : Word) : Hart := { h with f := Tbl.set h.f r v }
/-- Accrued flags. -/
def Hart.accrue (h : Hart) (fl : Nat) : Hart := { h with fcsr := h.fcsr ||| BitVec.ofNat 8 (fl % 32) }
/-- The rounding mode a word names, if it is one. -/
def Hart.rmode (h : Hart) (rm : Nat) : Option Nat :=
  let m := if rm = 7 then h.fcsr.toNat / 32 else rm
  if m < 5 then some m else none

/-- The low k bits, sign-extended. -/
def rvSext (k v : Nat) : Word := (BitVec.ofNat k v).signExtend 64

/-! ## Fields -/

def rvRd (w : Nat) : Nat := bits w 11 7
def rvRs1 (w : Nat) : Nat := bits w 19 15
def rvRs2 (w : Nat) : Nat := bits w 24 20
def rvF3 (w : Nat) : Nat := bits w 14 12
def rvImmI (w : Nat) : Word := rvSext 12 (bits w 31 20)
def rvImmS (w : Nat) : Word := rvSext 12 (bits w 31 25 * 32 + bits w 11 7)
def rvImmB (w : Nat) : Word := rvSext 13 (bits w 31 31 * 4096 + bits w 7 7 * 2048 + bits w 30 25 * 32 + bits w 11 8 * 2)
def rvImmU (w : Nat) : Word := rvSext 32 (bits w 31 12 * 4096)
def rvImmJ (w : Nat) : Word :=
  rvSext 21 (bits w 31 31 * 2 ^ 20 + bits w 19 12 * 4096 + bits w 20 20 * 2048 + bits w 30 21 * 2)

/-! ## Integer arithmetic -/

/-- The register-register operations of I and M on k-bit values (k = 64, or 32 for the W forms), by funct7 and funct3. -/
def rvAlu {k : Nat} (f7 f3 : Nat) (a b : BitVec k) : Option (BitVec k) :=
  let sh := b.toNat % k
  if f7 = 0 then
    if f3 = 0 then some (a + b) else if f3 = 1 then some (a <<< sh)
    else if f3 = 2 then some (if a.slt b then 1 else 0) else if f3 = 3 then some (if a.ult b then 1 else 0)
    else if f3 = 4 then some (a ^^^ b) else if f3 = 5 then some (a >>> sh)
    else if f3 = 6 then some (a ||| b) else some (a &&& b)
  else if f7 = 32 then
    if f3 = 0 then some (a - b) else if f3 = 5 then some (a.sshiftRight sh) else none
  else if f7 = 1 then
    if f3 = 0 then some (a * b)
    else if f3 = 1 then some (BitVec.ofInt k (a.toInt * b.toInt / 2 ^ k))
    else if f3 = 2 then some (BitVec.ofInt k (a.toInt * (b.toNat : Int) / 2 ^ k))
    else if f3 = 3 then some (BitVec.ofNat k (a.toNat * b.toNat / 2 ^ k))
    else if f3 = 4 then some (if b = 0 then BitVec.allOnes k else a.sdiv b)
    else if f3 = 5 then some (if b = 0 then BitVec.allOnes k else a / b)
    else if f3 = 6 then some (if b = 0 then a else a.srem b)
    else some (if b = 0 then a else a % b)
  else none

def rvBranch (f3 : Nat) (a b : Word) : Option Bool :=
  if f3 = 0 then some (a == b) else if f3 = 1 then some (a != b)
  else if f3 = 4 then some (a.slt b) else if f3 = 5 then some (!a.slt b)
  else if f3 = 6 then some (a.ult b) else if f3 = 7 then some (!a.ult b) else none

/-! ## One instruction -/

/-- The hart goes on after the word. -/
def Hart.step (h : Hart) (len : Nat) : Hart := { h with pc := h.pc + BitVec.ofNat 64 len }
/-- Illegal instruction. -/
def rvIllegal (σ : State) : RvOut Hart := .exc 2 σ
def rvDone (σ : State) (h : Hart) : RvOut Hart := .ok h σ
def rvSetX (σ : State) (h : Hart) (len w : Nat) : Option Word → RvOut Hart
  | some v => .ok ((h.setX (rvRd w) v).step len) σ
  | none => rvIllegal σ

/-- OP-IMM and OP-IMM-32: the shifts name their amount in 6 or 5 bits. -/
def rvOpImm (w k : Nat) (a : BitVec k) : Option (BitVec k) :=
  let f3 := rvF3 w
  let imm : BitVec k := BitVec.ofInt k (rvImmI w).toInt
  if f3 = 1 ∨ f3 = 5 then
    let top := if k = 64 then bits w 31 26 * 2 else bits w 31 25
    let sh := if k = 64 then bits w 25 20 else bits w 24 20
    if top = 0 ∨ (top = 32 ∧ f3 = 5) then rvAlu top f3 a (BitVec.ofNat k sh) else none
  else if k = 64 ∨ f3 = 0 then rvAlu 0 f3 a imm
  else none

def rvOp (w k : Nat) (a b : BitVec k) : Option (BitVec k) :=
  let f7 := bits w 31 25
  let f3 := rvF3 w
  if k = 32 ∧ ((f7 = 0 ∧ f3 ≠ 0 ∧ f3 ≠ 1 ∧ f3 ≠ 5) ∨ (f7 = 1 ∧ (f3 = 1 ∨ f3 = 2 ∨ f3 = 3))) then none
  else rvAlu f7 f3 a b

/-- Loads of the I extension: width and sign by funct3. -/
def rvLoad (σ : State) (vf : Nat) (h : Hart) (w len : Nat) : RvOut Hart :=
  let f3 := rvF3 w
  if f3 = 7 then rvIllegal σ else
  let n := 2 ^ (f3 % 4)
  match σ.rvRead vf .read (h.xr (rvRs1 w) + rvImmI w).toNat n with
  | .ok v σ => rvDone σ ((h.setX (rvRd w) (if f3 < 4 then rvSext (8 * n) v else BitVec.ofNat 64 v)).step len)
  | .exc c σ => .exc c σ
  | .wait σ => .wait σ

def rvStore (σ : State) (vf : Nat) (h : Hart) (a n : Nat) (v : Word) (len : Nat) : RvOut Hart :=
  match σ.rvWrite vf .write a (natBytes n v.toNat) with
  | .ok _ σ => rvDone σ (h.step len)
  | .exc c σ => .exc c σ
  | .wait σ => .wait σ

/-- The operation of R205 an AMO's funct5 names. -/
def amoOp (f5 : Nat) : Option Nat :=
  if f5 = 0 then some 0 else if f5 = 1 then some 8 else if f5 = 4 then some 3 else if f5 = 8 then some 2
  else if f5 = 12 then some 1 else if f5 = 16 then some 4 else if f5 = 20 then some 5 else if f5 = 24 then some 6
  else if f5 = 28 then some 7 else none

/-- LR, SC and the AMOs, which act at the home slices; a misaligned address raises the misaligned exception of its kind (R281). -/
def rvAmo (σ : State) (vf : Nat) (h : Hart) (w len : Nat) : RvOut Hart :=
  let f5 := bits w 31 27
  let a := (h.xr (rvRs1 w)).toNat
  let b := (h.xr (rvRs2 w)).toNat
  if rvF3 w ≠ 2 ∧ rvF3 w ≠ 3 then rvIllegal σ else
  let n := if rvF3 w = 2 then 4 else 8
  let put (h : Hart) (v : Nat) : Hart := (h.setX (rvRd w) (rvSext (8 * n) v)).step len
  if f5 = 2 then
    if rvRs2 w ≠ 0 then rvIllegal σ else
    if a % n ≠ 0 then .exc 4 σ else
    match σ.rvAtom vf .read a n (fun _ _ => none) with
    | .ok r σ => rvDone σ { put h r.2 with res := some (r.1, n) }
    | .exc c σ => .exc c σ
    | .wait σ => .wait σ
  else if f5 = 3 then
    if a % n ≠ 0 then .exc 6 σ else
    match σ.rvAtom vf .write a n (fun pa _ => if h.res = some (pa, n) then some b else none) with
    | .ok r σ => rvDone σ { put h (if h.res = some (r.1, n) then 0 else 1) with res := none }
    | .exc c σ => .exc c σ
    | .wait σ => .wait σ
  else
    match amoOp f5 with
    | none => rvIllegal σ
    | some op =>
      if a % n ≠ 0 then .exc 6 σ else
      match σ.rvAtom vf .rmw a n (fun _ old => some (atomicInt op (8 * n) old (b % 2 ^ (8 * n)))) with
      | .ok r σ => rvDone σ (put h r.2)
      | .exc c σ => .exc c σ
      | .wait σ => .wait σ

/-! ## CSRs and modes (R281, log 30) -/

/-- mstatus.FS: 0 Off, 1 Initial, 2 Clean, 3 Dirty. -/
def Rink.fs (k : Rink) : Nat := bits k.mstatus.toNat 14 13
def setFs (m : Word) (v : Nat) : Word := (m &&& ~~~0x6000) ||| BitVec.ofNat 64 (v * 2 ^ 13)
/-- mstatus as it is read: SD stands where FS is Dirty. -/
def Rink.mstatusRead (k : Rink) : Word := if k.fs = 3 then k.mstatus ||| BitVec.ofNat 64 (2 ^ 63) else k.mstatus
/-- mstatus after a write: MIE, MPIE, FS, MPRV and TW as written, MPP where it names a mode. -/
def mstatusWrite (m v : Word) : Word :=
  let mask : Word := if bits v.toNat 12 11 = 0 ∨ bits v.toNat 12 11 = 3 then 0x227888 else 0x226088
  (m &&& ~~~mask) ||| (v &&& mask)
/-- mstatus after a trap: MPIE takes MIE, MIE is 0, MPP is the mode it was taken in. -/
def mstatusTrap (fromMachine : Bool) (m : Word) : Word :=
  (m &&& ~~~0x1888) ||| (if m.getLsbD 3 then 0x80 else 0) ||| (if fromMachine then 0x1800 else 0)
/-- mstatus after MRET: MIE takes MPIE, MPIE is 1, MPP is user mode, and MPRV is 0 where it goes to user mode. -/
def mstatusRet (m : Word) : Word :=
  let user : Bool := decide (bits m.toNat 12 11 ≠ 3)
  (m &&& ~~~(if user then 0x21808 else 0x1808)) ||| (if m.getLsbD 7 then 8 else 0) ||| 0x80
/-- misa: RV64 with A, C, D, F, I, M and user mode. -/
def misa : Word := 0x800000000010112D

/-- An exception takes the core to machine mode at mtvec. -/
def Rink.trap (k : Rink) (pc mcause : Word) : Rink :=
  { k with mepc := pc, mcause := mcause, mtval := 0, mstatus := mstatusTrap k.machine k.mstatus, machine := true,
           hart := { k.hart with pc := k.mtvec &&& ~~~3 } }
/-- MRET: the mode is the one in MPP. -/
def Rink.mret (k : Rink) : Rink := { k with machine := decide (bits k.mstatus.toNat 12 11 = 3), mstatus := mstatusRet k.mstatus }

/-- A counter that user mode may read, or the core is in machine mode. -/
def Rink.counts (k : Rink) (i : Nat) : Bool := k.machine || k.mcounteren.getLsbD i

/-- A CSR: fflags, frm, fcsr where FS is not Off, cycle, time and instret; in machine mode the machine CSRs. -/
def rvCsr (σ : State) (h : Hart) (cycle n : Nat) : Option Word :=
  let f := h.fcsr.toNat
  let k := σ.rinkOf σ.rinkNo
  if n = 1 ∧ k.fs ≠ 0 then some (BitVec.ofNat 64 (f % 32)) else if n = 2 ∧ k.fs ≠ 0 then some (BitVec.ofNat 64 (f / 32))
  else if n = 3 ∧ k.fs ≠ 0 then some (BitVec.ofNat 64 f) else if n = 0xC00 ∧ k.counts 0 then some (BitVec.ofNat 64 cycle)
  else if n = 0xC01 ∧ k.counts 1 then some (BitVec.ofNat 64 σ.time)
  else if n = 0xC02 ∧ k.counts 2 then some (BitVec.ofNat 64 h.instret)
  else if !k.machine then none
  else
    match n with
    | 0x300 => some k.mstatusRead
    | 0x301 => some misa
    | 0x304 => some k.mie
    | 0x305 => some k.mtvec
    | 0x306 => some k.mcounteren
    | 0x340 => some k.mscratch
    | 0x341 => some k.mepc
    | 0x342 => some k.mcause
    | 0x343 => some k.mtval
    | 0x344 => some k.mip
    | 0xB00 => some (BitVec.ofNat 64 cycle)
    | 0xB02 => some (BitVec.ofNat 64 h.instret)
    | 0xF11 => some 0
    | 0xF12 => some 0
    | 0xF13 => some 0
    | 0xF14 => some (BitVec.ofNat 64 σ.rinkNo)
    | 0xF15 => some 0
    | _ => none
/-- A write of a CSR that was readable; none where it is read-only. -/
def rvSetCsr (σ : State) (h : Hart) (n : Nat) (w : Word) : Option (Hart × State) :=
  let f := h.fcsr.toNat
  let v := w.toNat
  let k := σ.rinkOf σ.rinkNo
  let mach (k : Rink) : Option (Hart × State) := some (h, σ.setRink σ.rinkNo k)
  match n with
  | 1 => some ({ h with fcsr := BitVec.ofNat 8 (f / 32 * 32 + v % 32) }, σ)
  | 2 => some ({ h with fcsr := BitVec.ofNat 8 (v % 8 * 32 + f % 32) }, σ)
  | 3 => some ({ h with fcsr := BitVec.ofNat 8 v }, σ)
  | 0x300 => mach { k with mstatus := mstatusWrite k.mstatus w }
  | 0x301 => mach k
  | 0x304 => mach { k with mie := w &&& 0x888 }
  | 0x305 => mach { k with mtvec := w &&& ~~~2 }
  | 0x306 => mach { k with mcounteren := w &&& 7 }
  | 0x340 => mach { k with mscratch := w }
  | 0x341 => mach { k with mepc := w &&& ~~~1 }
  | 0x342 => mach { k with mcause := w }
  | 0x343 => mach { k with mtval := w }
  | 0x344 => mach k
  | 0xB00 => mach k
  | 0xB02 => mach k
  | _ => none

/-- SYSTEM: ECALL and EBREAK raise their exceptions, the CSR words read and write; MRET returns and WFI goes on in machine mode, and both are
illegal in user mode, where mstatus.TW stands (R281). -/
def rvSystem (σ : State) (h : Hart) (cycle w len : Nat) : RvOut Hart :=
  let f3 := rvF3 w
  let k := σ.rinkOf σ.rinkNo
  if w = 0x73 then .exc (if k.machine then 11 else 8) σ else if w = 0x100073 then .exc 3 σ
  else if w = 0x30200073 ∧ k.machine then rvDone (σ.setRink σ.rinkNo k.mret) { h with pc := k.mepc }
  else if w = 0x10500073 ∧ (k.machine ∨ !k.mstatus.getLsbD 21) then rvDone σ (h.step len)
  else if f3 = 0 ∨ f3 = 4 then rvIllegal σ else
  let n := bits w 31 20
  match rvCsr σ h cycle n with
  | none => rvIllegal σ
  | some old =>
    let src : Word := if 4 < f3 then BitVec.ofNat 64 (rvRs1 w) else h.xr (rvRs1 w)
    let writes : Bool := decide (f3 % 4 = 1) || decide (rvRs1 w ≠ 0)
    let new := if f3 % 4 = 1 then src else if f3 % 4 = 2 then old ||| src else old &&& ~~~src
    match (if writes then rvSetCsr σ h n new else some (h, σ)) with
    | none => rvIllegal σ
    | some (h, σ) => rvDone σ ((h.setX (rvRd w) old).step len)

/-! ## F and D -/

/-- A floating-point operand of a format, and a result back in a register. -/
def Hart.fval (h : Hart) (dbl : Bool) (r : Nat) : Nat := if dbl then (h.fr r).toNat else unbox (h.fr r)
def fput (dbl : Bool) (v : Nat) : Word := if dbl then BitVec.ofNat 64 v else boxed v
def rvFmt (dbl : Bool) : FFmt := if dbl then fp64 else fp32

/-- A floating-point result, its flags accrued. -/
def rvSetF (σ : State) (h : Hart) (len w : Nat) (dbl : Bool) (r : Nat × Nat) : RvOut Hart :=
  rvDone σ (((h.setFr (rvRd w) (fput dbl r.1)).accrue r.2).step len)
def rvFlagX (σ : State) (h : Hart) (len w : Nat) (r : Word × Nat) : RvOut Hart :=
  rvDone σ (((h.setX (rvRd w) r.1).accrue r.2).step len)

/-- FMADD 0, FMSUB 1, FNMSUB 2, FNMADD 3. -/
def rvFmaOp (σ : State) (h : Hart) (w len op : Nat) : RvOut Hart :=
  if 1 < bits w 26 25 then rvIllegal σ else
  let dbl : Bool := decide (bits w 26 25 = 1)
  let f := rvFmt dbl
  match h.rmode (rvF3 w) with
  | none => rvIllegal σ
  | some rm =>
    let a := h.fval dbl (rvRs1 w)
    let b := h.fval dbl (rvRs2 w)
    let c := h.fval dbl (bits w 31 27)
    rvSetF σ h len w dbl
      (f.rvFma rm (if 2 ≤ op then f.flip a else a) b (if op = 1 ∨ op = 3 then f.flip c else c))

/-- FCVT from an integer: 0 W, 1 WU, 2 L, 3 LU. -/
def rvFromInt (k : Nat) (x : Word) : Num :=
  let i : Int := if k = 0 then (x.truncate 32).toInt else if k = 1 then ((x.truncate 32).toNat : Int)
    else if k = 2 then x.toInt else (x.toNat : Int)
  .fin (decide (i < 0)) i.natAbs 0

/-- OP-FP. -/
def rvOpFp (σ : State) (h : Hart) (w len : Nat) : RvOut Hart :=
  if 1 < bits w 26 25 then rvIllegal σ else
  let dbl : Bool := decide (bits w 26 25 = 1)
  let f := rvFmt dbl
  let op := bits w 31 27
  let r2 := rvRs2 w
  let f3 := rvF3 w
  let a := h.fval dbl (rvRs1 w)
  let b := h.fval dbl r2
  let sfp (r : Nat × Nat) : RvOut Hart := rvSetF σ h len w dbl r
  let rounded (g : Nat → RvOut Hart) : RvOut Hart :=
    match h.rmode f3 with
    | some rm => g rm
    | none => rvIllegal σ
  if op = 0 then rounded fun rm => sfp (f.rvAdd rm a b)
  else if op = 1 then rounded fun rm => sfp (f.rvSub rm a b)
  else if op = 2 then rounded fun rm => sfp (f.rvMul rm a b)
  else if op = 3 then rounded fun rm => sfp (f.rvDiv rm a b)
  else if op = 11 ∧ r2 = 0 then rounded fun rm => sfp (f.rvSqrt rm a)
  else if op = 4 ∧ f3 < 3 then sfp (f.rvSgnj f3 a b, 0)
  else if op = 5 ∧ f3 < 2 then sfp (f.rvMinMax (f3 = 0) a b)
  else if op = 8 ∧ r2 = (if dbl then 0 else 1) then
    rounded fun rm => sfp (rvConvert (rvFmt !dbl) f rm (h.fval (!dbl) (rvRs1 w)))
  else if op = 20 ∧ f3 < 3 then
    let r := f.rvCmp f3 a b
    rvFlagX σ h len w (if r.1 then 1 else 0, r.2)
  else if op = 24 ∧ r2 < 4 then
    rounded fun rm =>
      let r := f.rvToInt rm (if r2 < 2 then 32 else 64) (r2 % 2 = 0) a
      rvFlagX σ h len w (if r2 < 2 then (BitVec.ofInt 32 r.1).signExtend 64 else BitVec.ofInt 64 r.1, r.2)
  else if op = 26 ∧ r2 < 4 then rounded fun rm => sfp (f.rvRound rm (rvFromInt r2 (h.xr (rvRs1 w))))
  else if op = 28 ∧ r2 = 0 ∧ f3 = 0 then
    rvFlagX σ h len w (if dbl then h.fr (rvRs1 w) else ((h.fr (rvRs1 w)).truncate 32).signExtend 64, 0)
  else if op = 28 ∧ r2 = 0 ∧ f3 = 1 then rvFlagX σ h len w (BitVec.ofNat 64 (f.rvClass a), 0)
  else if op = 30 ∧ r2 = 0 ∧ f3 = 0 then sfp (if dbl then (h.xr (rvRs1 w)).toNat else (h.xr (rvRs1 w)).toNat % 2 ^ 32, 0)
  else rvIllegal σ

/-- FLW and FLD. -/
def rvFload (σ : State) (vf : Nat) (h : Hart) (w len : Nat) : RvOut Hart :=
  if rvF3 w ≠ 2 ∧ rvF3 w ≠ 3 then rvIllegal σ else
  let dbl : Bool := decide (rvF3 w = 3)
  match σ.rvRead vf .read (h.xr (rvRs1 w) + rvImmI w).toNat (if dbl then 8 else 4) with
  | .ok v σ => rvDone σ ((h.setFr (rvRd w) (fput dbl v)).step len)
  | .exc c σ => .exc c σ
  | .wait σ => .wait σ

/-! ## Compressed words -/

def encR (f7 rs2 rs1 f3 rd op : Nat) : Nat := f7 * 2 ^ 25 + rs2 * 2 ^ 20 + rs1 * 2 ^ 15 + f3 * 2 ^ 12 + rd * 2 ^ 7 + op
def encI (imm rs1 f3 rd op : Nat) : Nat := imm % 4096 * 2 ^ 20 + rs1 * 2 ^ 15 + f3 * 2 ^ 12 + rd * 2 ^ 7 + op
def encS (imm rs2 rs1 f3 op : Nat) : Nat := encR (imm / 32 % 128) rs2 rs1 f3 (imm % 32) op
def encB (imm rs1 f3 : Nat) : Nat :=
  encR (bits imm 12 12 * 64 + bits imm 10 5) 0 rs1 f3 (bits imm 4 1 * 2 + bits imm 11 11) 0x63
def encJ (imm rd : Nat) : Nat :=
  bits imm 20 20 * 2 ^ 31 + bits imm 10 1 * 2 ^ 21 + bits imm 11 11 * 2 ^ 20 + bits imm 19 12 * 2 ^ 12 + rd * 2 ^ 7 + 0x6F
/-- A k-bit immediate sign-extended to 21 bits. -/
def sx21 (k v : Nat) : Nat := ((BitVec.ofNat k v).signExtend 21).toNat

def expandQ0 (h : Nat) : Option Nat :=
  let rd := 8 + bits h 4 2
  let rs := 8 + bits h 9 7
  let uw := bits h 12 10 * 8 + bits h 6 6 * 4 + bits h 5 5 * 64
  let ud := bits h 12 10 * 8 + bits h 6 5 * 64
  match bits h 15 13 with
  | 0 =>
    let imm := bits h 12 11 * 16 + bits h 10 7 * 64 + bits h 6 6 * 4 + bits h 5 5 * 8
    if imm = 0 then none else some (encI imm 2 0 rd 0x13)
  | 1 => some (encI ud rs 3 rd 0x07)
  | 2 => some (encI uw rs 2 rd 0x03)
  | 3 => some (encI ud rs 3 rd 0x03)
  | 5 => some (encS ud rd rs 3 0x27)
  | 6 => some (encS uw rd rs 2 0x23)
  | 7 => some (encS ud rd rs 3 0x23)
  | _ => none

def expandQ1 (h : Nat) : Option Nat :=
  let rd := bits h 11 7
  let i6 := bits h 12 12 * 32 + bits h 6 2
  let imm := sx21 6 i6
  let rc := 8 + bits h 9 7
  let rt := 8 + bits h 4 2
  let jo := sx21 12 (bits h 12 12 * 2048 + bits h 11 11 * 16 + bits h 10 9 * 256 + bits h 8 8 * 1024 + bits h 7 7 * 64
    + bits h 6 6 * 128 + bits h 5 3 * 2 + bits h 2 2 * 32)
  let bo := sx21 9 (bits h 12 12 * 256 + bits h 11 10 * 8 + bits h 6 5 * 64 + bits h 4 3 * 2 + bits h 2 2 * 32)
  match bits h 15 13 with
  | 0 => some (encI imm rd 0 rd 0x13)
  | 1 => if rd = 0 then none else some (encI imm rd 0 rd 0x1B)
  | 2 => some (encI imm 0 0 rd 0x13)
  | 3 =>
    if rd = 2 then
      let v := sx21 10 (bits h 12 12 * 512 + bits h 6 6 * 16 + bits h 5 5 * 64 + bits h 4 3 * 128 + bits h 2 2 * 32)
      if v = 0 then none else some (encI v 2 0 2 0x13)
    else if i6 = 0 then none else some (imm % 2 ^ 20 * 2 ^ 12 + rd * 2 ^ 7 + 0x37)
  | 4 =>
    match bits h 11 10 with
    | 0 => some (encI i6 rc 5 rc 0x13)
    | 1 => some (encI (1024 + i6) rc 5 rc 0x13)
    | 2 => some (encI imm rc 7 rc 0x13)
    | _ =>
      match bits h 12 12 * 4 + bits h 6 5 with
      | 0 => some (encR 32 rt rc 0 rc 0x33)
      | 1 => some (encR 0 rt rc 4 rc 0x33)
      | 2 => some (encR 0 rt rc 6 rc 0x33)
      | 3 => some (encR 0 rt rc 7 rc 0x33)
      | 4 => some (encR 32 rt rc 0 rc 0x3B)
      | 5 => some (encR 0 rt rc 0 rc 0x3B)
      | _ => none
  | 5 => some (encJ jo 0)
  | 6 => some (encB bo rc 0)
  | _ => some (encB bo rc 1)

def expandQ2 (h : Nat) : Option Nat :=
  let rd := bits h 11 7
  let rs2 := bits h 6 2
  let i6 := bits h 12 12 * 32 + bits h 6 2
  let ld := bits h 12 12 * 32 + bits h 6 5 * 8 + bits h 4 2 * 64
  let lw := bits h 12 12 * 32 + bits h 6 4 * 4 + bits h 3 2 * 64
  let sd := bits h 12 10 * 8 + bits h 9 7 * 64
  let sw := bits h 12 9 * 4 + bits h 8 7 * 64
  match bits h 15 13 with
  | 0 => some (encI i6 rd 1 rd 0x13)
  | 1 => some (encI ld 2 3 rd 0x07)
  | 2 => if rd = 0 then none else some (encI lw 2 2 rd 0x03)
  | 3 => if rd = 0 then none else some (encI ld 2 3 rd 0x03)
  | 4 =>
    if bits h 12 12 = 0 then
      if rs2 = 0 then (if rd = 0 then none else some (encI 0 rd 0 0 0x67))
      else some (encR 0 rs2 0 0 rd 0x33)
    else if rs2 = 0 then (if rd = 0 then some 0x100073 else some (encI 0 rd 0 1 0x67))
    else some (encR 0 rs2 rd 0 rd 0x33)
  | 5 => some (encS sd rs2 2 3 0x27)
  | 6 => some (encS sw rs2 2 2 0x23)
  | _ => some (encS sd rs2 2 3 0x23)

/-- The 32-bit word a compressed word stands for. -/
def expandC (h : Nat) : Option Nat :=
  match h % 4 with
  | 0 => expandQ0 h
  | 1 => expandQ1 h
  | 2 => expandQ2 h
  | _ => none

/-! ## Execution -/

/-- A 32-bit instruction word of the hart; `len` is the length of the word it stands for. -/
def rvExec32 (σ : State) (vf : Nat) (h : Hart) (cycle w len : Nat) : RvOut Hart :=
  let a := h.xr (rvRs1 w)
  let b := h.xr (rvRs2 w)
  let f3 := rvF3 w
  let link := h.pc + BitVec.ofNat 64 len
  match w % 128 with
  | 0x37 => rvSetX σ h len w (some (rvImmU w))
  | 0x17 => rvSetX σ h len w (some (h.pc + rvImmU w))
  | 0x6F => rvDone σ { h.setX (rvRd w) link with pc := h.pc + rvImmJ w }
  | 0x67 => if f3 = 0 then rvDone σ { h.setX (rvRd w) link with pc := (a + rvImmI w) &&& ~~~1 } else rvIllegal σ
  | 0x63 =>
    match rvBranch f3 a b with
    | some true => rvDone σ { h with pc := h.pc + rvImmB w }
    | some false => rvDone σ (h.step len)
    | none => rvIllegal σ
  | 0x03 => rvLoad σ vf h w len
  | 0x23 => if f3 < 4 then rvStore σ vf h (a + rvImmS w).toNat (2 ^ f3) b len else rvIllegal σ
  | 0x13 => rvSetX σ h len w (rvOpImm w 64 a)
  | 0x1B => rvSetX σ h len w ((rvOpImm w 32 (a.truncate 32)).map fun v => v.signExtend 64)
  | 0x33 => rvSetX σ h len w (rvOp w 64 a b)
  | 0x3B => rvSetX σ h len w ((rvOp w 32 (a.truncate 32) (b.truncate 32)).map fun v => v.signExtend 64)
  | 0x0F => if f3 < 2 then rvDone σ.rvSync (h.step len) else rvIllegal σ
  | 0x73 => rvSystem σ h cycle w len
  | 0x2F => rvAmo σ vf h w len
  | 0x07 => rvFload σ vf h w len
  | 0x27 =>
    if f3 = 2 ∨ f3 = 3 then rvStore σ vf h (a + rvImmS w).toNat (2 ^ f3) (h.fr (rvRs2 w)) len else rvIllegal σ
  | 0x43 => rvFmaOp σ h w len 0
  | 0x47 => rvFmaOp σ h w len 1
  | 0x4B => rvFmaOp σ h w len 2
  | 0x4F => rvFmaOp σ h w len 3
  | 0x53 => rvOpFp σ h w len
  | _ => rvIllegal σ

/-- A word of the F and D extensions. -/
def rvIsFp (w : Nat) : Bool := [0x07, 0x27, 0x43, 0x47, 0x4B, 0x4F, 0x53].contains (w % 128)
/-- mstatus.FS is Dirty once the floating-point registers or fcsr have changed. -/
def State.fsDirty (σ : State) : State :=
  let k := σ.rinkOf σ.rinkNo
  σ.setRink σ.rinkNo { k with mstatus := setFs k.mstatus 3 }

/-- A word of a length: with FS Off the words of F and D are illegal. -/
def rvExecLen (σ : State) (vf : Nat) (h : Hart) (cycle w len : Nat) : RvOut Hart :=
  if rvIsFp w ∧ (σ.rinkOf σ.rinkNo).fs = 0 then rvIllegal σ else
  match rvExec32 σ vf h cycle w len with
  | .ok h' σ' => .ok h' (if h'.f = h.f ∧ h'.fcsr = h.fcsr then σ' else σ'.fsDirty)
  | .exc c σ' => .exc c σ'
  | .wait σ' => .wait σ'

/-- An RV64GC word: a word whose low two bits are not 3 is a compressed one in bits 15:0. -/
def rvExec (σ : State) (vf : Nat) (h : Hart) (cycle w : Nat) : RvOut Hart :=
  if w % 4 = 3 then rvExecLen σ vf h cycle w 4 else
  match expandC (w % 2 ^ 16) with
  | some x => rvExecLen σ vf h cycle x 2
  | none => rvIllegal σ

end Sys2Proof.Machine
end

