-- ==== Sys2Proof/Machine/Rink.lean ====
section
/-!
DEFINITION. Episodes on the Rink cores: the custom instructions (15 R292 to R296), RV64GC words, the watchdogs (R298, R299),
round-robin switching (R286), and the arming, placement, cancelling and answering of episodes (R285, R299, R300). How many Rink
cycles an instruction takes is a free value (R298, log 5).
-/

namespace Sys2Proof.Machine

/-! ## Machine mode (R281, R283, R312, log 30) -/

/-- The monitor goes to an episode by MRET: user mode at its pc, FS Initial, the window registers the episode's. -/
def Rink.enter (k : Rink) (e : Episode) : Rink :=
  let k : Rink := { k with mepc := e.hart.pc, mstatus := k.mstatus &&& ~~~0x1800, wbase := e.wbase, wsize := e.wsize }
  { k.mret with mstatus := setFs k.mret.mstatus 1 }

/-! ## Round-robin -/

/-- A resident episode the monitor can run (R286): not suspended, and what it was blocked on has come. -/
def State.epReady (σ : State) (id : Nat) : Bool :=
  let e := Tbl.get σ.episodes {} id
  let gt := σ.gateOf e.gate
  !e.suspended && (decide (e.blocked = 0) || (decide (e.blocked = 1) && !gt.acts.isEmpty)
    || (decide (e.blocked = 2) && decide (gt.obs.length < Config.gateDepth)))

/-- EPISODE_SWITCH: the current episode goes behind the others, and the first ready one becomes current (R286). -/
def State.rinkSwitch (σ : State) (n : Nat) : State :=
  let k := σ.rinkOf n
  let order := match k.current with
    | some c => let i := k.resident.idxOf c; k.resident.drop (i + 1) ++ k.resident.take (i + 1)
    | none => k.resident
  match order.find? σ.epReady with
  | none => σ.setRink n { k with resident := order, current := none, machine := true }
  | some id =>
    let e := Tbl.get σ.episodes {} id
    { σ.setRink n ({ k with resident := order, current := some id }.enter e) with
      episodes := Tbl.set σ.episodes id { e with quantum := 0 } }

/-- A Rink core that runs no episode takes its next ready one (R286); a monitor's program does so when it returns. -/
def State.settleRink (σ : State) (n : Nat) : State :=
  let k := σ.rinkOf n
  if k.current = none ∧ !(k.machine && k.program) then σ.rinkSwitch n else σ

/-! ## One word of an episode -/

/-- What a word does to its episode: it retires, with or without a reset of the step counter; it blocks; it waits for a page;
it raises an exception; it ends the episode. -/
inductive RkOut where
  | done (e : Episode) (reset : Bool) (σ : State)
  | blocked (why : Nat) (σ : State)
  | wait (σ : State)
  | exc (mcause : Nat) (σ : State)
  | ended (σ : State)

/-- The episode ends by an exception (R281, R287). -/
def State.epFault (σ : State) (vf ep mcause : Nat) : State :=
  let e := σ.epOf vf ep
  (σ.setRink e.rink ((σ.rinkOf e.rink).trap e.hart.pc (BitVec.ofNat 64 mcause))).endEpisode vf ep 4 mcause

/-- Rink cycles of the next instruction (R298): at least one. -/
def State.rinkCost (σ : State) : Nat := 1 + Config.rinkCycles σ.fresh
/-- The Rink cycle of the present moment: two to a tick (R8). -/
def State.rinkTime (σ : State) : Nat := 2 * σ.clock / tickParts

/-- The first Rink cycle that the present cycle of the arithmetic clock has brought: its own clock never changes (R425). -/
def State.rinkFrom (σ : State) : Nat := min σ.rinkTime (2 * (σ.clock - 10 * tickParts / σ.arithClk) / tickParts + 1)
/-- The Rink cycle at which the acting core's word begins: where the last one ended, or now. -/
def State.rinkNow (σ : State) : Nat := max σ.rinkFrom (σ.rinkOf σ.rinkNo).cycle

/-- The acting core is at work for k cycles more. -/
def State.rinkTick (σ : State) (k : Nat) : State :=
  σ.setRink σ.rinkNo { σ.rinkOf σ.rinkNo with cycle := σ.rinkNow + k }

/-- A retired word: counters of steps, quantum and retired instructions (R286, R298). A word that retires as the counter reaches STEPB
does not set it back. -/
def State.rinkRetire (σ : State) (vf ep k : Nat) (e : Episode) (reset : Bool) : State :=
  let cyc := if reset ∧ e.stepCyc + k < e.stepb then 0 else e.stepCyc + k
  let σ := σ.rinkTick k
  let σ := σ.setEp vf ep
    { e with stepCyc := cyc, quantum := e.quantum + k, blocked := 0, hart := { e.hart with instret := e.hart.instret + 1 } }
  let σ := if e.stepb ≤ cyc then σ.push (.stepBudget vf ep) else σ
  if 2 ^ 16 ≤ e.quantum + k then σ.push (.quantumExpiry σ.rinkNo) else σ

/-- A word of the monitor's program: an exception goes to mtvec; after an MRET to user mode the current episode goes on at mepc, and where
there is none the core takes its next ready one. -/
def State.monitorWord (σ : State) (go : State → Nat → Hart → RvOut Hart) : Out :=
  let n := σ.rinkNo
  let k := σ.rinkOf n
  let cost := σ.rinkCost
  let σ := σ.tickFresh
  match go σ (k.current.getD 0 / 4096) k.hart with
  | .ok h σ =>
    let σ := σ.rinkTick cost
    let r := σ.rinkOf n
    let σ := σ.setRink n { r with hart := { h with instret := h.instret + 1 } }
    .next (if r.machine then σ
      else match r.current with
        | some id =>
          let e := Tbl.get σ.episodes {} id
          { σ with episodes := Tbl.set σ.episodes id { e with hart := { e.hart with pc := h.pc } } }
        | none => σ.settleRink n)
  | .exc c σ =>
    let σ := σ.rinkTick cost
    .next (σ.setRink n ((σ.rinkOf n).trap k.hart.pc (BitVec.ofNat 64 c)))
  | .wait σ => .next (σ.rinkTick 1)
/-- A monitor's program runs on the acting core, in machine mode. -/
def State.inMonitor (σ : State) : Bool := (σ.rinkOf σ.rinkNo).machine && (σ.rinkOf σ.rinkNo).program

/-- An episode's word runs, and is illegal in a monitor's program: where its cycles would take the step counter past STEPB it has no effect
(R298, R299, log 41). -/
def State.rinkWord (σ : State) (go : State → Nat → Nat → Episode → RkOut) : Out :=
  if σ.inMonitor then σ.monitorWord fun σ _ _ => .exc 2 σ else
  match (σ.rinkOf σ.rinkNo).current with
  | none => .next σ
  | some id =>
    let vf := id / 4096
    let ep := id % 4096
    let e := σ.epOf vf ep
    let k := σ.rinkCost
    let σ := σ.tickFresh
    let late : Bool := decide (e.stepb < e.stepCyc + k)
    let spent : Out := .next (((σ.rinkTick k).setEp vf ep { e with stepCyc := e.stepb }).push (.stepBudget vf ep))
    match go σ vf ep e with
    | .wait σ => .next (σ.rinkTick 1)
    | .blocked why σ =>
      let σ := (σ.rinkTick 1).setEp vf ep { e with blocked := why }
      .next (σ.rinkSwitch σ.rinkNo)
    | .exc c σ => if late then spent else .next (((σ.rinkTick k).epFault vf ep c).settleRink σ.rinkNo)
    | .ended σ => if late then spent else .next ((σ.rinkTick k).settleRink σ.rinkNo)
    | .done e' reset σ' =>
      if late then spent
      else
        let σ := σ'.rinkRetire vf ep k e' reset
        .next (if reset ∧ e'.totb ≠ 0 ∧ e'.steps = e'.totb ∧ e'.steps ≠ e.steps then (σ.endEpisode vf ep 2 e'.totb).settleRink σ.rinkNo else σ)

/-- The hart goes on after a custom word. -/
def Episode.next (e : Episode) (h : Hart) : Episode := { e with hart := h.step 4 }

/-- The `end_step` of R296. -/
def Episode.endStep (e : Episode) : Episode := { e with steps := e.steps + 1 }

/-- MB.RECV (R293). -/
def execMbRecv (s d : BitVec 5) (σ : State) : Out :=
  σ.rinkWord fun σ vf ep e =>
    let a := (e.hart.xr s.toNat).toNat
    if a % 8 ≠ 0 then .exc 2 σ else
    match σ.rvAccess vf .write a 256 with
    | .exc c σ => .exc c σ
    | .wait σ => .wait σ
    | .ok l σ =>
      if σ.stale vf e then .ended (σ.endEpisode vf ep 3 0) else
      let gt := σ.gateOf e.gate
      match gt.acts with
      | [] => .blocked 1 σ
      | m :: r =>
        let σ := ((σ.setGate e.gate { gt with acts := r }).rinkStore σ.rinkNo σ.rinkId (l.zip m.data)).rvSync
        .done ({ e with lastGen := m.gen, received := true }.next (e.hart.setX d.toNat m.hdr)) true σ

/-- MB.SEND (R295). -/
def execMbSend (t s : BitVec 5) (σ : State) : Out :=
  σ.rinkWord fun σ vf _ e =>
    let v := (e.hart.xr t.toNat).toNat
    let len := bits v 8 0
    let ptr := bit v 15
    let a := e.hart.xr s.toNat
    if v ≠ len + (if ptr then 2 ^ 15 else 0) ∨ 256 < len ∨ (ptr ∧ len ≠ 8) then .exc 2 σ else
    match (if ptr then .ok a.toNat σ else σ.rvRead vf .read a.toNat len) with
    | .exc c σ => .exc c σ
    | .wait σ => .wait σ
    | .ok v σ =>
      let data := natBytes len v
      let σ := σ.rinkFlush σ.rinkNo σ.rinkId true
      let gt := σ.gateOf e.gate
      if Config.gateDepth ≤ gt.obs.length then .blocked 2 σ else
      let m : Msg := { hdr := msgHeader e.stamp gt.seqObs 1 0 ptr len, data := data }
      let σ := (σ.setGate e.gate { gt with obs := gt.obs ++ [m], seqObs := (gt.seqObs + 1) % 256 }).serveGate e.gate
      .done (e.endStep.next e.hart) true σ

/-- MB.POLL (R294). -/
def execMbPoll (d : BitVec 5) (σ : State) : Out :=
  σ.rinkWord fun σ vf _ e =>
    let gt := σ.gateOf e.gate
    let v := gt.acts.length + (Config.gateDepth - gt.obs.length) * 8 + (if σ.stale vf e then 64 else 0)
    .done (e.next (e.hart.setX d.toNat (BitVec.ofNat 64 v))) false σ

/-- EP.STEP (R296). -/
def execEpStep (σ : State) : Out :=
  σ.rinkWord fun σ _ _ e => .done (e.endStep.next e.hart) true σ

/-- EP.EXIT (R296). -/
def execEpExit (s : BitVec 5) (σ : State) : Out :=
  σ.rinkWord fun σ vf ep e => .ended (σ.endEpisode vf ep 0 (e.hart.xr s.toNat).toNat)

/-- An RV64GC word (R281), of an episode or of a monitor's program. -/
def execRv64gc (w : BitVec 32) (σ : State) : Out :=
  if σ.inMonitor then σ.monitorWord fun σ vf h => rvExec σ vf h σ.rinkNow w.toNat else
  σ.rinkWord fun σ vf _ e =>
    match rvExec σ vf e.hart σ.rinkNow w.toNat with
    | .ok h σ => .done { e with hart := h } false σ
    | .exc c σ => .exc c σ
    | .wait σ => .wait σ

/-- A word that raises an exception by itself. -/
def State.rinkExc (σ : State) (mcause : Nat) : Out :=
  if σ.inMonitor then (σ.monitorWord fun σ _ _ => .exc mcause σ) else σ.rinkWord fun σ _ _ _ => .exc mcause σ
/-- A word no decoder of the Rink takes: the illegal-instruction exception (R156). -/
def State.rinkIllegal (σ : State) : Out := σ.rinkExc 2

/-- The fetch of the acting core's next word: a halfword, and the second one of a 32-bit word. -/
def State.rinkFetchAt (σ : State) (vf pc : Nat) : RvOut Nat :=
  match σ.rvRead vf .fetch pc 2 with
  | .ok lo σ =>
    if lo % 4 ≠ 3 then .ok lo σ else
    match σ.rvRead vf .fetch (pc + 2) 2 with
    | .ok hi σ => .ok (lo + 65536 * hi) σ
    | .exc c σ => .exc c σ
    | .wait σ => .wait σ
  | .exc c σ => .exc c σ
  | .wait σ => .wait σ
/-- The fetch of the current episode's next word, or of the monitor's program. -/
def State.rinkFetch (σ : State) (n : Nat) : RvOut Nat :=
  if σ.inMonitor then σ.rinkFetchAt 0 (σ.rinkOf n).hart.pc.toNat else
  match (σ.rinkOf n).current with
  | none => .wait σ
  | some id => σ.rinkFetchAt (id / 4096) (Tbl.get σ.episodes {} id).hart.pc.toNat

/-! ## Watchdogs and switching -/

/-- STEP_BUDGET (R299): the episode ends STEP, or is suspended in host-assisted mode. -/
def execStepBudget (vf ep : Nat) (σ : State) : Out :=
  let e := σ.epOf vf ep
  if e.state ≠ 2 ∨ e.suspended ∨ e.stepCyc < e.stepb then .next σ
  else if σ.hostMode vf 6 then
    let k := σ.rinkOf e.rink
    let σ := σ.setEp vf ep { e with suspended := true }
    let id := vf * 4096 + ep
    let σ := σ.setRink e.rink (if k.current = some id then { k.behind id with resident := (k.behind id).resident ++ [id] } else k)
    .next ((σ.notice vf 32 0xFF 0xFFFF (ep + e.gate * 2 ^ 16)).settleRink e.rink)
  else .next ((σ.endEpisode vf ep 1 e.stepb).settleRink e.rink)

/-- QUANTUM_EXPIRY (R286). -/
def execQuantumExpiry (rink : Nat) (σ : State) : Out :=
  match (σ.rinkOf rink).current with
  | none => .next σ
  | some id => .next (if 2 ^ 16 ≤ (Tbl.get σ.episodes {} id).quantum then σ.rinkSwitch rink else σ)

/-! ## Arming and placement (R284 to R286) -/

/-- Where the descriptors lie (R285): for each granule of the episode table with a valid entry, the first episode number, how
many, and the physical address. -/
def State.recordEpt (σ : State) (vf : Nat) : State :=
  let base := (σ.reg vf 0x30).toNat
  let top := base + 64 * (σ.reg vf 0x38).toNat
  let t := σ.queueTable vf
  let g := granLog t
  let runs := (List.range ((top - 1) / 2 ^ g + 1 - base / 2 ^ g)).filterMap fun i =>
    let j := base / 2 ^ g + i
    let ent := Tbl.get t.entries 0 j
    let lo := max base (j * 2 ^ g)
    let hi := min top ((j + 1) * 2 ^ g)
    if t.valid && entV ent && decide (j < Config.tableEntries) && decide (lo < hi) then
      some ((lo - base) / 64, (hi - lo) / 64, entFrame ent * 2 ^ 21 + lo % 2 ^ g)
    else none
  { σ with eptMap := Tbl.set σ.eptMap vf runs }

/-- EPTBASE (R285, R344): a value that is no multiple of 64 is written as zero. -/
def execEptbaseWrite (vf : Nat) (value : Word) (σ : State) : Out :=
  .next ((σ.setReg vf 0x30 (if value.toNat % 64 = 0 then value else 0)).recordEpt vf)
/-- EPTCNT (R285, R344): a count above 4096 is written as zero. -/
def execEptcntWrite (vf : Nat) (value : Word) (σ : State) : Out :=
  .next ((σ.setReg vf 0x38 (if value.toNat ≤ 4096 then value else 0)).recordEpt vf)

/-- The fields of an episode's descriptor (R284). -/
def descEpisode (w : Nat → Nat) : Episode :=
  { kind := bits (w 5) 12 12, maxlag := bits (w 5) 23 16, stepb := bits (w 4) 31 0, totb := bits (w 4) 63 32,
    wbase := BitVec.ofNat 64 (w 1), wsize := w 2, entry := BitVec.ofNat 64 (w 3), arg := BitVec.ofNat 64 (w 6),
    gate := bits (w 5) 11 0 }

/-- Check 2 of R285. -/
def descOk (w : Nat → Nat) : Bool :=
  decide (bits (w 5) 63 48 = 0) && decide (bits (w 5) 31 24 = 0) && decide (bits (w 5) 15 13 = 0)
    && decide (w 1 % 4096 = 0) && decide (w 2 % 4096 = 0) && decide (4096 ≤ w 2) && decide (w 2 ≤ 2 ^ 32)
    && decide (w 3 % 2 = 0) && decide (w 3 < w 2) && decide (bits (w 4) 31 0 ≠ 0)

/-- Check 4 of R285: another ARMED or RUNNING episode of the VF has a window that overlaps. -/
def State.windowOverlaps (σ : State) (vf ep : Nat) (e : Episode) : Bool :=
  σ.episodes.any fun p => decide (p.1 / 4096 = vf) && decide (p.1 % 4096 ≠ ep)
    && (decide (p.2.state = 1) || decide (p.2.state = 2))
    && decide (e.wbase.toNat < p.2.wbase.toNat + p.2.wsize) && decide (p.2.wbase.toNat < e.wbase.toNat + e.wsize)

/-- Check 5 of R285: every granule of the window has a valid entry with RD, WR and EX and class normal. -/
def State.windowMapped (σ : State) (vf : Nat) (e : Episode) : Bool :=
  let t := σ.rinkTable vf
  let g := granLog t
  let lo := e.wbase.toNat / 2 ^ g
  t.valid && (List.range ((e.wbase.toNat + e.wsize - 1) / 2 ^ g + 1 - lo)).all fun i =>
    let ent := Tbl.get t.entries 0 (lo + i)
    decide (lo + i < Config.tableEntries) && entV ent && entRd ent && entWr ent && entEx ent && decide (entClass ent = 0)

/-- The first check of R285 that fails, by its STATUS code. -/
def State.armRefusal (σ : State) (vf ep : Nat) (w : Nat → Nat) : Option Nat :=
  let e := descEpisode w
  let gt := σ.gateOf e.gate
  if bits (w 5) 39 32 ≠ 1 then some 9
  else if !descOk w then some 8
  else if gt.vf ≠ vf ∨ gt.state ≠ 1 then some 10
  else if σ.windowOverlaps vf ep e then some 11
  else if !σ.windowMapped vf e then some 12
  else none

/-- EPISODE_ARM (R285); a descriptor whose entry is not resident is waited for as a Rink access is, with PAGE_WANTED (R282, R367). -/
def execEpisodeArm (vf ep : Nat) (σ : State) : Out :=
  let old := σ.epOf vf ep
  if old.state = 1 ∨ old.state = 2 ∨ (σ.reg vf 0x38).toNat ≤ ep then .next σ else
  let σ := σ.descRetry vf ep
  let old := σ.epOf vf ep
  match σ.feAddr vf (σ.reg vf 0x30 + BitVec.ofNat 64 (64 * ep)) 64 .read with
  | .error t =>
    .next (if t.cause = causeNonresident then (σ.pageWant vf 1 t.detail false).setEp vf ep { old with armWait := true }
      else if t.cause = causeOwner ∨ t.cause = causeSealFail then
        ((if t.cause = causeSealFail then σ.feSealNotice vf t.detail else σ).setEp vf ep { old with armWait := false }).notice vf 34 0xFF 0xFFFF ep
      else σ.setEp vf ep { old with armWait := false })
  | .ok pa =>
    let σ := σ.fill pa
    let w := fun i => σ.memNat (pa + 8 * i) 8
    match σ.armRefusal vf ep w with
    | some c => .next ((σ.setEp vf ep { state := 3, owed := old.owed }).descWrite vf ep 0 (3 + c * 256) 2)
    | none =>
      let e := descEpisode w
      let gt := σ.gateOf e.gate
      let σ := σ.setGate e.gate
        { gt with state := 2, episode := ep, acts := [], obs := [], seqAct := 1, seqObs := 1 }
      let σ := σ.setEp vf ep { e with state := 1, armed := σ.nextArm, pin := Tbl.get σ.polgen 0 vf, owed := old.owed }
      let σ := { σ with nextArm := σ.nextArm + 1 }
      .next ((σ.descWrite vf ep 0 1 1).push (.episodePlace (gateDie e.gate)))

/-- EPISODE_CANCEL (R285): an ARMED or RUNNING episode ends CANCELLED. -/
def execEpisodeCancel (vf ep : Nat) (σ : State) : Out :=
  .next (if (σ.epOf vf ep).state = 2 then (σ.endEpisode vf ep 5 0).settleRink (σ.epOf vf ep).rink else σ.endEpisode vf ep 5 0)

/-- The registers at entry (R286). -/
def Episode.entryHart (e : Episode) : Hart :=
  { pc := e.entry, x := [(2, BitVec.ofNat 64 e.wsize), (10, e.arg), (11, BitVec.ofNat 64 e.wsize)] }

/-- The Rink core of a die with the fewest resident episodes, the lowest-numbered on a tie, if it has room. -/
def State.placeCore (σ : State) (die : Nat) : Option Nat :=
  let load (n : Nat) : Nat := (σ.rinkOf n).resident.length
  let n := (List.range 32).foldl (fun b i => if load (die * 32 + i) < load b then die * 32 + i else b) (die * 32)
  if load n < 8 then some n else none

/-- The oldest ARMED episode of a die's gates. -/
def State.oldestArmed (σ : State) (die : Nat) : Option (Nat × Episode) :=
  (σ.episodes.filter fun (p : Nat × Episode) => decide (p.2.state = 1) && decide (gateDie p.2.gate = die)).foldl
    (fun (b : Option (Nat × Episode)) p =>
      match b with
      | some q => if p.2.armed < q.2.armed then some p else some q
      | none => some p) none

/-- EPISODE_PLACE (R286). -/
def execEpisodePlace (die : Nat) (σ : State) : Out :=
  match σ.oldestArmed die, σ.placeCore die with
  | some (id, e), some n =>
    let k := σ.rinkOf n
    let σ := σ.setEp (id / 4096) (id % 4096) { e with state := 2, rink := n, hart := e.entryHart }
    let σ := σ.setRink n { k with resident := k.resident ++ [id] }
    .next ((σ.descWrite (id / 4096) (id % 4096) 0 2 1).settleRink n)
  | _, _ => .next σ

/-- EPRES (R299): the answer about a suspended episode. -/
def execEpres (vf : Nat) (value : Word) (σ : State) : Out :=
  let ep := value.toNat % 4096
  let e := σ.epOf vf ep
  if e.state ≠ 2 ∨ !e.suspended then .next σ
  else if value.getLsbD 16 then .next (σ.setEp vf ep { e with suspended := false, stepCyc := 0 })
  else .next (σ.endEpisode vf ep 1 e.stepb)

/-- POLUPD (R300, R344). -/
def execPolupd (vf : Nat) (value : Word) (σ : State) : Out :=
  .next (if value.getLsbD 0 then σ.bumpPolgen vf else σ)

end Sys2Proof.Machine
end

