-- ==== Sys2Proof/Machine/Host.lean ====
section
/-!
DEFINITION. The host link (21): register writes of a VF (R344), kicks and queues (R346 to R350), packets (R351), cancels (R352),
launch graphs and node launch (R353, R319), gates' binding (R355), and host accesses to device memory (R343).
-/

namespace Sys2Proof.Machine

/-! ## Addresses of the front end -/

/-- What an access of the front end comes to: physical addresses, a wait for residency, or a failure with its cause. -/
inductive FeOut where
  | ok (l : List Nat)
  | wait (σ : State)
  | bad (cause : Nat) (σ : State)

/-- The physical addresses of n units of 8 bytes at a G address of a VF's queue table. -/
def State.fePlace (σ : State) (vf : Nat) (kind : Kind) (va : Word) : Nat → Chk (List Nat)
  | 0 => .ok []
  | n + 1 =>
    match σ.feAddr vf va 8 kind with
    | .error e => .error e
    | .ok pa =>
      match State.fePlace σ vf kind (va + 8) n with
      | .error e => .error e
      | .ok l => .ok (pa :: l)

/-- An access whose entry is not resident, or is COW for a write, waits; PAGE_WANTED is posted for it (R351, R367). -/
def State.feAsk (σ : State) (vf : Nat) (kind : Kind) (va : Word) (n : Nat) : FeOut :=
  match σ.fePlace vf kind va n with
  | .ok l => .ok l
  | .error e =>
    if e.cause = causeNonresident ∨ e.cause = causeCow then .wait (σ.pageWant vf 1 e.detail (e.cause = causeCow))
    else .bad e.cause (if e.cause = causeSealFail then σ.feSealNotice vf e.detail else σ)

def State.feFill (σ : State) (l : List Nat) : State := l.foldl (fun σ pa => σ.fill pa) σ
def State.feWords (σ : State) (l : List Nat) : List Word := l.map fun pa => BitVec.ofNat 64 (σ.memNat pa 8)

/-! ## Queues (R346 to R350) -/

def qReg (q off : Nat) : Nat := 0x1000 + 64 * q + off
def State.qctl (σ : State) (vf q : Nat) : Nat := (σ.reg vf (qReg q 8)).toNat
def State.qLog (σ : State) (vf q : Nat) : Nat := bits (σ.qctl vf q) 5 1
def State.qPrio (σ : State) (vf q : Nat) : Nat := bits (σ.qctl vf q) 7 6
def State.qWeight (σ : State) (vf q : Nat) : Nat := bits (σ.qctl vf q) 11 8
def State.qVec (σ : State) (vf q : Nat) : Nat := bits (σ.qctl vf q) 17 12

/-- The control block of a queue is updated with it (R388). -/
def State.putQueue (σ : State) (vf q : Nat) (v : Queue) : State := σ.setQueue vf q (v.update σ.nextGraph)

/-- QUEUE_FAULT's DETAIL (R345). -/
def queueFault (cause place idx : Nat) : Nat := cause + place * 256 + idx % 2 ^ 48 * 2 ^ 16

/-- A queue halts with a notice (R345, R347, R351). -/
def State.haltQueue (σ : State) (vf q code detail : Nat) : State :=
  (σ.putQueue vf q { σ.queueOf vf q with halted := true }).notice vf code q 0xFFFF detail

/-- The read of a queue's write index (R347, R349): for an enabling that waits for it, else for a kick. -/
def State.readIndex (σ : State) (vf q : Nat) : State :=
  let x := σ.queueOf vf q
  if !x.en then σ else
  match σ.feAsk vf .read (σ.reg vf (qReg q 0x10)) 1 with
  | .wait σ => σ.setQueue vf q { x with kick := true }
  | .bad c σ =>
    if x.start then
      (σ.putQueue vf q { x with en := false, start := false, kick := false }).notice vf 11 q 0xFFFF (queueFault c 1 x.ridx)
    else (σ.setQueue vf q { x with kick := false }).haltQueue vf q 11 (queueFault c 1 x.ridx)
  | .ok l =>
    let σ := σ.feFill l
    let w := (σ.feWords l).headD 0 |>.toNat
    let x := { x with kick := false }
    if x.start then σ.putQueue vf q { x with start := false, ridx := w, windex := w }
    else if w < x.ridx ∨ x.ridx + 2 ^ σ.qLog vf q < w then (σ.setQueue vf q x).haltQueue vf q 4 x.ridx
    else σ.setQueue vf q { x with windex := w }

/-- QKICK (R347): the front end reads the write index. -/
def execQueueKick (vf q : Nat) (σ : State) : Out := .next (σ.readIndex vf q)

/-- The lowest interface whose version the driver speaks is not the device's (R357). -/
def versionFails (versel : Word) : List Nat := [0, 1, 2, 3, 4, 5].filter fun b => decide (bits versel.toNat (8 * b + 7) (8 * b + 4) ≠ 1)

/-- VERSEL (R357): ignored while a queue of the VF is enabled; one VERSION notice for each interface that fails. -/
def execVerselWrite (vf : Nat) (value : Word) (σ : State) : Out :=
  if (List.range 64).any fun q => (σ.queueOf vf q).en then .next σ
  else .next ((versionFails value).foldl (fun σ b => σ.notice vf 8 0xFF 0xFFFF b) (σ.setReg vf 8 value))

/-- QCTL (R349): the fields are stored; HALTED clears where a one is written; EN takes effect where LOG2N and VERSEL allow it. Each attempt
to set EN while VERSEL does not agree posts a VERSION notice, whatever LOG2N is (R357). -/
def execQueueCtlWrite (vf q : Nat) (value : Word) (σ : State) : Out :=
  let x := σ.queueOf vf q
  let σ := σ.setReg vf (qReg q 8) (value &&& ~~~0x80001)
  let x := { x with halted := x.halted && !value.getLsbD 19 }
  let lg := bits value.toNat 5 1
  let off : Queue := { x with en := false, start := false, kick := false }
  if !value.getLsbD 0 then .next (σ.putQueue vf q off)
  else
    match versionFails (σ.reg vf 8) with
    | b :: _ => .next ((σ.putQueue vf q off).notice vf 8 q 0xFFFF b)
    | [] =>
      if lg < 4 ∨ 16 < lg then .next (σ.putQueue vf q off)
      else if x.en then .next (σ.putQueue vf q x)
      else .next ((σ.putQueue vf q { x with en := true, start := true }).readIndex vf q)

/-! ## Acceptance (R348, R350) -/

/-- Packet fields (R351). -/
def pktType (w : Word) : Nat := bits w.toNat 7 0
def pktBarrier (w : Word) : Bool := w.getLsbD 16
def pktIrq (w : Word) : Bool := w.getLsbD 17

/-- The packet at the read index, if it may start now: its slot is readable, and what it waits for has completed (R348). A slot that
fails its checks starts too, and halts the queue. -/
def State.nextPacket (σ : State) (vf q : Nat) : Option (FeOut × List Word) :=
  let x := σ.queueOf vf q
  if !x.en ∨ x.halted ∨ x.start ∨ x.windex ≤ x.ridx ∨ 2 ≤ Tbl.get σ.frozen 0 vf then none
  else if x.packets.any fun p => decide (pktType (p.words.headD 0) = 3) then none
  else
    match σ.feAsk vf .read (σ.reg vf (qReg q 0) + BitVec.ofNat 64 (64 * (x.ridx % 2 ^ σ.qLog vf q))) 8 with
    | .wait σ' => some (.wait σ', [])
    | .bad c σ' => some (.bad c σ', [])
    | .ok l =>
      let ws := σ.feWords l
      let t := pktType (ws.headD 0)
      let alone : Bool := decide (t = 2) || decide (t = 5) || ((decide (t = 1) || decide (t = 4)) && pktBarrier (ws.headD 0))
      if alone && !x.packets.isEmpty then none else some (.ok l, ws)

/-- Queues of a front end (R350): of every VF bound to a partition p with p mod 4 = f, in queue order. -/
def State.feQueues (σ : State) (f : Nat) : List (Nat × Nat) :=
  (List.range 64).flatMap fun v =>
    match σ.vfPart (v + 1) with
    | some p => if p % 4 = f then (List.range 64).map fun q => (v + 1, q) else []
    | none => []

/-- A queue that is ready to accept: its next packet may start, and does not wait for its own slot. -/
def State.packetReady (σ : State) (vf q : Nat) : Bool :=
  match σ.nextPacket vf q with
  | some (.wait _, _) => false
  | some _ => true
  | none => false

/-- The queue of the turn (R350): highest priority level; within it the queue of the last turn while its weight lasts, else the next in
queue order. The turn of a level is 1 + queue * 32 + packets taken. -/
def State.feChoice (σ : State) (f : Nat) : Option ((Nat × Nat) × Nat) :=
  let ready := (σ.feQueues f).filter fun x => σ.packetReady x.1 x.2
  let top := ready.foldl (fun a x => max a (σ.qPrio x.1 x.2)) 0
  let level := ready.filter fun x => decide (σ.qPrio x.1 x.2 = top)
  let turn := Tbl.get σ.feTurn 0 (f * 4 + top)
  let id (x : Nat × Nat) : Nat := x.1 * 64 + x.2
  let cur := level.find? fun x => decide (turn ≠ 0) && decide (id x = (turn - 1) / 32) && decide ((turn - 1) % 32 ≤ σ.qWeight x.1 x.2)
  match cur with
  | some x => some (x, (turn - 1) % 32 + 1)
  | none =>
    match level.find? fun x => decide (turn = 0) || decide ((turn - 1) / 32 < id x) with
    | some x => some (x, 1)
    | none => level.head?.map fun x => (x, 1)

/-- Checks of a packet before it has any effect (R351). -/
def packetOk (ws : List Word) : Bool :=
  let w (i : Nat) : Nat := (ws.getD i 0).toNat
  let t := bits (w 0) 7 0
  let head := decide (bits (w 0) 63 18 = 0) && decide (bits (w 0) 15 12 = 1)
  let rest (n : Nat) : Bool := (List.range (8 - n)).all fun i => decide (w (n + i) = 0)
  head &&
    (if t = 1 then decide (w 1 % 64 = 0) && decide (w 2 % 8 = 0) && rest 4
     else if t = 2 then decide (w 1 % 8 = 0) && decide (w 3 ≤ 1) && rest 4
     else if t = 3 then decide (w 1 % 8 = 0) && decide (w 3 ≤ 3) && rest 4
     else if t = 4 then
       decide (w 1 % 8 = 0) && decide (w 2 % 8 = 0) && decide (w 3 % 64 = 0) && decide (64 ≤ w 3) && decide (w 3 ≤ 2 ^ 32) && rest 4
     else decide (t = 5) && decide (w 1 % 8 = 0) && rest 3)

/-- The effect of a packet, as the step that brings it about. -/
def packetDue (vf q idx : Nat) (ws : List Word) : Due :=
  let w (i : Nat) : Word := ws.getD i 0
  let t := pktType (w 0)
  if t = 1 then .packetLaunchGraph vf q idx (w 1) (w 2) (w 3)
  else if t = 2 then .packetSignal vf q idx (w 1) (w 2) ((w 3).getLsbD 0)
  else if t = 3 then .packetWait vf q idx (w 1) (w 2) ((w 3).truncate 2)
  else if t = 4 then .packetCopy vf q idx (w 1) (w 2) (w 3)
  else .packetMarker vf q idx (w 1) (w 2)

/-- The number a packet in flight has: its index, and above bit 64 what tells it from an earlier packet of that index that still runs, where
the queue has been enabled again at a lower index (R349). -/
def Queue.packetNo (x : Queue) : Nat :=
  (((List.range (x.packets.length + 1)).map fun k => x.ridx + 2 ^ 64 * k).find? fun n => !x.packets.any fun p => decide (p.idx = n)).getD x.ridx

/-- PACKET_ACCEPT (R350): at most one packet of the highest ready level; QRIDX passes it, and it starts. -/
def execPacketAccept (fe : Nat) (σ : State) : Out :=
  match σ.feChoice fe with
  | none => .next σ
  | some ((vf, q), n) =>
    let x := σ.queueOf vf q
    let σ := { σ with feTurn := Tbl.set σ.feTurn (fe * 4 + σ.qPrio vf q) (1 + (vf * 64 + q) * 32 + n) }
    match σ.nextPacket vf q with
    | some (.ok l, ws) =>
      let σ := σ.feFill l
      let idx := x.packetNo
      if !packetOk ws then .next ((σ.setQueue vf q { x with ridx := x.ridx + 1 }).haltQueue vf q 4 x.ridx)
      else
        let σ := σ.putQueue vf q { x with ridx := x.ridx + 1, packets := x.packets ++ [{ idx := idx, words := ws }] }
        .next (σ.push (packetDue vf q idx ws))
    | some (.bad c σ, _) =>
      .next ((σ.setQueue vf q { x with ridx := x.ridx + 1 }).haltQueue vf q 11 (queueFault c 2 x.ridx))
    | _ => .next σ

/-! ## Packets (R351) -/

def State.packetOf (σ : State) (vf q idx : Nat) : Option Packet := (σ.queueOf vf q).packets.find? fun p => decide (p.idx = idx)
def State.setPacket (σ : State) (vf q : Nat) (p : Packet) : State :=
  let x := σ.queueOf vf q
  σ.setQueue vf q { x with packets := x.packets.map fun y => if y.idx = p.idx then p else y }
def State.dropPacket (σ : State) (vf q idx : Nat) : State :=
  let x := σ.queueOf vf q
  σ.setQueue vf q { x with packets := x.packets.filter fun y => decide (y.idx ≠ idx) }

/-- A packet whose address fails: the packet is gone and its queue halts (R351). -/
def State.packetFault (σ : State) (vf q idx cause : Nat) : State :=
  (σ.dropPacket vf q idx).haltQueue vf q 11 (queueFault cause 0 idx)

/-- A packet in flight runs its effect once; `state` 0 is not performed, 1 performed, 2 under way. -/
def State.withPacket (σ : State) (vf q idx : Nat) (k : Packet → Out) : Out :=
  match σ.packetOf vf q idx with
  | some p => if p.state = 0 then k p else .next σ
  | none => .next σ

/-- The effect of a packet is performed; it completes (R351). -/
def State.packetDone (σ : State) (vf q : Nat) (p : Packet) : State :=
  (σ.setPacket vf q { p with state := 1 }).push (.packetComplete vf q p.idx)

/-- SIGNAL: the word is set or added to, at its home slice, as a release at host scope (R193, R351). -/
def execPacketSignal (vf q idx : Nat) (addr val : Word) (add : Bool) (σ : State) : Out :=
  σ.withPacket vf q idx fun p =>
    match σ.feAsk vf (if add then .rmw else .write) addr 1 with
    | .wait σ => .next σ
    | .bad c σ => .next (σ.packetFault vf q idx c)
    | .ok l =>
      let pa := l.headD 0
      let v := if add then (σ.memNat pa 8 + val.toNat) % 2 ^ 64 else val.toNat
      .next ((σ.writeNat pa 8 v).packetDone vf q p)

/-- WAIT: a watch is registered; the packet completes once its condition holds (R192, R351). -/
def execPacketWait (vf q idx : Nat) (addr val : Word) (cond : BitVec 2) (σ : State) : Out :=
  σ.withPacket vf q idx fun p =>
    match σ.feAsk vf .read addr 1 with
    | .wait σ => .next σ
    | .bad c σ => .next (σ.packetFault vf q idx c)
    | .ok l =>
      let σ := σ.feFill l
      let pa := l.headD 0
      if watchHolds cond.toNat (σ.memNat pa 8) val.toNat then .next (σ.packetDone vf q p)
      else
        let σ := σ.setPacket vf q { p with state := 1 }
        .next { σ with watches := σ.watches ++ [{ pa := pa, cond := cond.toNat, value := val, packet := some (vf, q, idx) }] }

/-- MARKER: VAL at ADDR, TIME at ADDR + 8 (R351). -/
def execPacketMarker (vf q idx : Nat) (addr val : Word) (σ : State) : Out :=
  σ.withPacket vf q idx fun p =>
    match σ.feAsk vf .write addr 2 with
    | .wait σ => .next σ
    | .bad c σ => .next (σ.packetFault vf q idx c)
    | .ok l =>
      let σ := σ.writeNat (l.headD 0) 8 val.toNat
      .next ((σ.writeNat (l.getD 1 0) 8 σ.time).packetDone vf q p)

/-- Cause codes of COPY_FAULT (R345). -/
def copyFault (cause : Nat) : Nat := if cause = causeOwner then 1 else if cause = causeSealFail then 2 else 3

/-- A word a COPY writes: translated, and checked against the frame's owner. The write fills nothing: a tile that it leaves partly dirty is
completed, with its seal check, when it is written back (R71); that this holds of part of a sector too is log 115. -/
def State.feWord (σ : State) (vf : Nat) (va : Word) : FeOut :=
  match xlate (σ.queueTable vf) va .write .near with
  | .error e =>
    if e.cause = causeNonresident ∨ e.cause = causeCow then .wait (σ.pageWant vf 1 e.detail (e.cause = causeCow)) else .bad e.cause σ
  | .ok x => if σ.ownerOk vf x.pa then .ok [x.pa] else .bad causeOwner σ
/-- The words a COPY writes from an address on, n of them: those that pass, and what stops the next one. -/
def State.feLine (σ : State) (vf : Nat) (va : Word) : Nat → List Nat × Option FeOut
  | 0 => ([], none)
  | n + 1 =>
    match σ.feWord vf va with
    | .ok l =>
      let r := State.feLine σ vf (va + 8) n
      (l ++ r.1, r.2)
    | o => ([], some o)

/-- The lines of a COPY, n of them: how far it comes before a line fails or waits. -/
def State.copyLines (σ : State) (vf : Nat) (src dst : Word) (done : Nat) : Nat → State × Nat × Option Nat × Bool
  | 0 => (σ, done, none, false)
  | n + 1 =>
    match σ.feAsk vf .read (src + BitVec.ofNat 64 done) 8 with
    | .wait σ => (σ, done, none, true)
    | .bad c σ => (σ, done, some c, false)
    | .ok from' =>
      let σ := σ.feFill from'
      let r := σ.feLine vf (dst + BitVec.ofNat 64 done) 8
      let write (l : List Nat) : State :=
        let σ := σ.writeList ((l.zip (σ.feWords from')).flatMap fun p => bytesAt p.1 8 p.2.toNat)
        (l.map frameOf).eraseDups.foldl (fun σ f => σ.markDirty f) σ
      match r.2 with
      | some (.wait σ) => (σ, done, none, true)
      | some (.bad c _) => (write r.1, done, some c, false)
      | _ => State.copyLines (write r.1) vf src dst (done + 64) n

/-- COPY: lines are read and written in order; a failing line posts COPY_FAULT and halts the queue, and lines already written stay
(R351). -/
def execPacketCopy (vf q idx : Nat) (src dst len : Word) (σ : State) : Out :=
  σ.withPacket vf q idx fun p =>
    let r := σ.copyLines vf src dst p.left ((len.toNat - p.left) / 64)
    match r.2.2.1 with
    | some c => .next ((r.1.dropPacket vf q idx).haltQueue vf q 10 (copyFault c))
    | none =>
      if r.2.2.2 then .next (r.1.setPacket vf q { p with left := r.2.1 })
      else .next (r.1.packetDone vf q { p with left := r.2.1 })

/-- PACKET_COMPLETE (R351): a packet whose effect is performed leaves the queue, with its interrupt. -/
def execPacketComplete (vf q idx : Nat) (σ : State) : Out :=
  match σ.packetOf vf q idx with
  | none => .next σ
  | some p =>
    if p.state ≠ 1 ∨ (σ.watches.any fun w => decide (w.packet = some (vf, q, idx))) then .next σ
    else
      let σ := σ.dropPacket vf q idx
      .next (if pktIrq (p.words.headD 0) then σ.raiseIrq vf (σ.qVec vf q) else σ)

/-! ## Launch graphs (R353) -/

def State.graphOf (σ : State) (g : Nat) : Graph := Tbl.get σ.graphs {} g
def State.setGraph (σ : State) (g : Nat) (v : Graph) : State := { σ with graphs := Tbl.set σ.graphs g v }

/-- Node i's words in a graph table. -/
def nodeWord (ws : List Word) (i k : Nat) : Nat := (ws.getD (8 + 32 * i + k) 0).toNat
def nodePred (ws : List Word) (i : Nat) : Nat := bits (nodeWord ws i 16) 15 0
def nodeNsucc (ws : List Word) (i : Nat) : Nat := bits (nodeWord ws i 16) 19 16
def nodePrio (ws : List Word) (i : Nat) : Nat := bits (nodeWord ws i 16) 21 20
/-- SUCC[j] lies at byte 136 + 2 j. -/
def nodeSucc (ws : List Word) (i j : Nat) : Nat := bits (nodeWord ws i (17 + j / 4)) (16 * (j % 4) + 15) (16 * (j % 4))

/-- The offset in a node of its first failing field (R353). -/
def nodeBad (ws : List Word) (nodes i : Nat) : Option Nat :=
  if 8 < nodeNsucc ws i ∨ bits (nodeWord ws i 16) 23 22 ≠ 0 then some 130
  else if bits (nodeWord ws i 16) 63 24 ≠ 0 then some 131
  else
    match (List.range (nodeNsucc ws i)).find? fun j => decide (nodes ≤ nodeSucc ws i j) with
    | some j => some (136 + 2 * j)
    | none => if (List.range 13).any fun k => decide (nodeWord ws i (19 + k) ≠ 0) then some 152 else none

/-- The first failing field of a graph table's header. -/
def graphHeadBad (w : Nat → Nat) : Option Nat :=
  if bits (w 0) 7 4 ≠ 1 then some 0
  else if bits (w 0) 15 8 ≠ 0 then some 1
  else if bits (w 0) 31 16 = 0 ∨ 4096 < bits (w 0) 31 16 then some 2
  else if bits (w 0) 63 32 ≠ 0 ∨ (List.range 7).any fun k => decide (w (k + 1) ≠ 0) then some 4
  else none

def graphBad (ws : List Word) (nodes : Nat) : Option Nat :=
  match (List.range nodes).findSome? fun i => (nodeBad ws nodes i).map fun o => 64 + 256 * i + o with
  | some o => some o
  | none => if (List.range nodes).all fun i => decide (nodePred ws i ≠ 0) then some 192 else none

/-- The graph a table describes, as its front end keeps it. -/
def makeGraph (vf q idx : Nat) (gtab csig cval : Word) (assisted : Bool) (ws : List Word) (nodes : Nat) : Graph :=
  let all := List.range nodes
  { vf := vf, queue := q, packet := idx, gtab := gtab, csig := csig, cval := cval, assisted := assisted, nodes := nodes,
    hdrs := all.map fun i => (i, (List.range 16).map fun k => BitVec.ofNat 64 (nodeWord ws i k)),
    counts := all.map fun i => (i, nodePred ws i),
    succ := all.map fun i => (i, (List.range (nodeNsucc ws i)).map (nodeSucc ws i)),
    prio := all.map fun i => (i, nodePrio ws i),
    ready := all.filter fun i => decide (nodePred ws i = 0) }

/-- GRAPH_BAD: the queue halts and no node launches. -/
def State.graphRefused (σ : State) (vf q idx off : Nat) : State := (σ.dropPacket vf q idx).haltQueue vf q 2 off

/-- A graph completes (R353): every node has, with CSIG signalled; or it has stopped and its running nodes have ended. -/
def State.graphEnd (σ : State) (g : Nat) : State :=
  let gr := σ.graphOf g
  let all : Bool := decide (gr.done.length = gr.nodes)
  if gr.finished ∨ !(all || (gr.stopped && decide (gr.done.length = gr.launched.length))) then σ else
  let close (σ : State) : State :=
    let σ := σ.setGraph g { gr with finished := true }
    match σ.packetOf gr.vf gr.queue gr.packet with
    | some p => if p.graph = some g then σ.packetDone gr.vf gr.queue p else σ
    | none => σ
  if gr.csig = 0 ∨ !all ∨ gr.stopped then close σ else
  match σ.feAsk gr.vf .write gr.csig 1 with
  | .wait σ => σ
  | .bad c σ => (close σ).haltQueue gr.vf gr.queue 11 (queueFault c 0 gr.packet)
  | .ok l => close (σ.writeNat (l.headD 0) 8 gr.cval.toNat)

/-- LAUNCH_GRAPH (R353): the table is read and checked in full, then its nodes run. -/
def execPacketLaunchGraph (vf q idx : Nat) (gtab csig cval : Word) (σ : State) : Out :=
  σ.withPacket vf q idx fun p =>
    match (if csig = 0 then .ok [] else σ.feAsk vf .write csig 1) with
    | .wait σ => .next σ
    | .bad c σ => .next (σ.packetFault vf q idx c)
    | .ok _ =>
    match σ.feAsk vf .read gtab 8 with
    | .wait σ => .next σ
    | .bad c σ => .next (σ.packetFault vf q idx c)
    | .ok l =>
      let σ := σ.feFill l
      let hd := σ.feWords l
      match graphHeadBad fun k => (hd.getD k 0).toNat with
      | some o => .next (σ.graphRefused vf q idx o)
      | none =>
        let n := bits (hd.headD 0).toNat 31 16
        match σ.feAsk vf .read gtab (8 + 32 * n) with
        | .wait σ => .next σ
        | .bad c σ => .next (σ.packetFault vf q idx c)
        | .ok l =>
          let σ := σ.feFill l
          let ws := σ.feWords l
          match graphBad ws n with
          | some o => .next (σ.graphRefused vf q idx o)
          | none =>
            let g := σ.nextGraph
            let σ := (σ.setPacket vf q { p with state := 2, graph := some g }).setGraph g
              (makeGraph vf q idx gtab csig cval (σ.hostMode vf 3) ws n)
            .next (({ σ with nextGraph := g + 1 } : State).graphEnd g)

/-- A launch header's fields (R318) from its 16 words. -/
def headerNode (ws : List Word) : Node :=
  let w (k : Nat) : Nat := (ws.getD k 0).toNat
  { ctl := ws.getD 0 0, vec := ws.getD 1 0, mat := ws.getD 2 0, xfer := ws.getD 3 0,
    veclen := bits (w 4) 31 0, matlen := bits (w 4) 63 32, xferlen := bits (w 5) 31 0, entry := bits (w 5) 63 32,
    extm1 := (List.range 6).map fun i => ws.getD (6 + i) 0,
    width := (List.range 6).map fun i => bits (w 12) (8 * i + 7) (8 * i),
    lotb := bits (w 12) 55 48, agran := bits (w 13) 15 0, wrows := bits (w 13) 31 16,
    srseed := BitVec.ofNat 32 (bits (w 13) 63 32) }

/-- The lot count of a header (R32). -/
def Node.lotCount (nd : Node) : Nat := (nd.exts.take nd.lotb).foldl (· * ·) 1

/-- A code address refused at launch: it fails `translate` for a reason other than residency (R319). -/
def State.codeBad (σ : State) (vf : Nat) (va : Word) : Bool :=
  match xlate (σ.lotTable vf) va .fetch .near with
  | .ok _ => false
  | .error e => decide (e.cause ≠ causeNonresident)

/-- The offset HEADER_BAD reports (R319): HVER first, then the lowest offset among the failing fields. -/
def State.headerBad (σ : State) (vf : Nat) (ws : List Word) : Option Nat :=
  let nd := headerNode ws
  let w12 := (ws.getD 12 0).toNat
  let exts := nd.exts
  let total := nd.width.foldl (· + ·) 0
  if bits w12 63 60 ≠ 1 then some 0x67
  else if nd.ctl.toNat % 4 ≠ 0 ∨ σ.codeBad vf nd.ctl then some 0
  else if σ.codeBad vf (nd.ctl + BitVec.ofNat 64 (4 * nd.entry)) then some 0x2C
  else
    let wide (i : Nat) : Bool := decide (2 ^ (nd.width.getD i 0) < exts.getD i 1)
    if wide 0 ∨ 2 ^ 48 < nd.lotCount then some 0x30
    else
      match [1, 2, 3, 4, 5].find? wide with
      | some i => some (0x30 + 8 * i)
      | none =>
        if 64 < total then some 0x60
        else if 6 < nd.lotb then some 0x66
        else if 256 < nd.agran then some 0x68
        else if 16384 < nd.wrows ∨ nd.wrows % 32 ≠ 0 then some 0x6A
        else none

/-- A graph stops with a notice, and its queue halts (R353). -/
def State.graphStop (σ : State) (g code node detail : Nat) : State :=
  let gr := σ.graphOf g
  (σ.stopGraph g).notice gr.vf code gr.queue node detail

/-- The head of a graph's ready queue: highest PRIO, then lowest index (R353). -/
def Graph.head (gr : Graph) : Option Nat :=
  gr.ready.foldl (fun (b : Option Nat) i =>
    match b with
    | none => some i
    | some j =>
      let a := Tbl.get gr.prio 0 i
      let c := Tbl.get gr.prio 0 j
      if c < a ∨ (a = c ∧ i < j) then some i else some j) none

/-- Tasks of a VF that hold a partition (R409). -/
def State.vfHolds (σ : State) (vf : Nat) : Bool :=
  σ.tasks.any fun p => decide ((σ.nodeOf p.2.node).vf = vf) && (decide (p.2.state = .running) || decide (p.2.state = .saved))

/-- A VF's nodes may launch (R409, R412): it is not frozen; where several VFs share its partition it is in a turn that has not ended, and no
task of the outgoing VF runs or is saved. -/
def State.mayLaunch (σ : State) (vf : Nat) : Bool :=
  decide (Tbl.get σ.frozen 0 vf < 2) &&
    match σ.vfPart vf with
    | none => false
    | some p =>
      decide ((σ.boundVfs p).length ≤ 1) ||
        (decide ((σ.turnOf p).vf = vf) && decide (σ.time < (σ.turnOf p).ends) && match (σ.turnOf p).prev with
          | some o => !σ.vfHolds o
          | none => true)

/-- NODE_LAUNCH (R353): the head of a graph's ready queue becomes one range task (R35), or is refused with HEADER_BAD. -/
def execNodeLaunch (g : Nat) (σ : State) : Out :=
  let gr := σ.graphOf g
  if gr.stopped ∨ gr.finished ∨ !σ.mayLaunch gr.vf then .next σ else
  match gr.head with
  | none => .next σ
  | some i =>
    let ws := Tbl.get gr.hdrs [] i
    let gr := { gr with ready := gr.ready.filter fun j => decide (j ≠ i) }
    match σ.headerBad gr.vf ws with
    | some off => .next (((σ.setGraph g gr).graphStop g 1 i off).graphEnd g)
    | none =>
      let n := σ.nextNode
      let t := σ.nextTask
      let nd := { headerNode ws with vf := gr.vf, queue := gr.queue, prio := Tbl.get gr.prio 0 i, graph := some g, index := i }
      let nd := { nd with lots := nd.lotCount }
      let σ := (σ.setGraph g { gr with launched := Tbl.set gr.launched i n }).setNode n nd
      let σ := (σ.setTask t { node := n, hi := nd.lots }).poolAdd t
      .next { σ with nextNode := n + 1, nextTask := t + 1 }

/-- One decrement (R353): the counter is zero already, or falls, and the node becomes ready at zero. -/
def Graph.decrement (gr : Graph) (s : Nat) : Option Graph :=
  match Tbl.get gr.counts 0 s with
  | 0 => none
  | k + 1 => some { gr with counts := Tbl.set gr.counts s k, ready := if k = 0 then gr.ready ++ [s] else gr.ready }
/-- The decrements of a completion in SUCC order, up to the first that underflows, which is named (R401). -/
def Graph.decrements (gr : Graph) : List Nat → Graph × Option Nat
  | [] => (gr, none)
  | s :: l => match gr.decrement s with
    | none => (gr, some s)
    | some gr => gr.decrements l

/-- NODE_COMPLETE (R353, R401): a completion that decrements each listed successor once; COUNT_UNDERFLOW, which names the node whose
counter underflowed and the completing node, stops the graph; in host-assisted mode NODE_DONE is posted instead. A stopped graph decrements nothing. -/
def execNodeComplete (node : Nat) (σ : State) : Out :=
  let nd := σ.nodeOf node
  if !nd.finished ∨ nd.counted then .next σ else
  let σ := σ.setNode node { nd with counted := true }
  match nd.graph with
  | none => .next σ
  | some g =>
    let gr := σ.graphOf g
    let gr := { gr with done := gr.done ++ [nd.index] }
    let σ := σ.setGraph g gr
    if gr.stopped ∨ nd.killed then .next (σ.graphEnd g)
    else if gr.assisted then .next ((σ.notice gr.vf 7 gr.queue nd.index gr.packet).graphEnd g)
    else
      match gr.decrements (Tbl.get gr.succ [] nd.index) with
      | (gr, none) => .next ((σ.setGraph g gr).graphEnd g)
      | (gr, some s) => .next (((σ.setGraph g gr).graphStop g 3 s nd.index).graphEnd g)

/-- NODEREL (R353): the host releases a node of a graph accepted in host-assisted mode. What DETAIL a GRAPH_BAD carries here is a free
value (log 5). -/
def execNoderel (vf : Nat) (value : Word) (σ : State) : Out :=
  let n := bits value.toNat 15 0
  let q := bits value.toNat 21 16
  let k := bits value.toNat 63 32
  match List.find? (fun (p : Nat × Graph) => decide (p.2.vf = vf) && decide (p.2.queue = q) && decide (p.2.packet % 2 ^ 32 = k)
      && p.2.assisted && !p.2.finished && !p.2.stopped) σ.graphs with
  | none => .next σ
  | some (g, gr) =>
    if gr.nodes ≤ n ∨ (Tbl.find? gr.launched n).isSome ∨ gr.ready.contains n then
      .next ((σ.tickFresh.graphStop g 2 0xFFFF (Config.freeWord σ.fresh).toNat).graphEnd g)
    else .next (σ.setGraph g { gr with ready := gr.ready ++ [n] })

/-! ## Cancels (R352) -/

/-- A dispatch of this cycle is still to come. -/
def State.dispatchDue (σ : State) : Bool := σ.agenda.any fun a => match a with
  | .due d => match d with
    | .taskDispatch _ _ => true
    | _ => false
  | _ => false

/-- A task of a cancelled queue ends (R42): CANCELLED, or by a posted abort where it runs. A pooled one that a dispatch of this cycle may
still take stays pooled until the cycle is over: the dispatch wins (R386). -/
def State.cancelTask (σ : State) (t : Nat) : State :=
  if (σ.taskOf t).state = .pooled ∧ σ.dispatchDue then σ
  else σ.endAny t .cancelled fun x => { x with postedAbort := some 0 }

/-- A packet that a cancel leaves: a WAIT is withdrawn, and a LAUNCH_GRAPH whose table is not read yet is a graph that has stopped. -/
def Packet.afterCancel (p : Packet) : Option Packet :=
  let t := pktType (p.words.headD 0)
  if t = 3 then none else some (if t = 1 ∧ p.state = 0 then { p with state := 1 } else p)

/-- The cancel of a queue (R352): packets that have not started are dropped and QRIDX is set to the write index, graphs are stopped, tasks
ended or aborted, waits withdrawn; the notice follows the end of the queue's lots. A write index that is not resident is read once it is
(log 91). -/
def State.cancelQueue (σ : State) (vf q : Nat) : State :=
  let x := σ.queueOf vf q
  let w := match σ.fePlace vf .read (σ.reg vf (qReg q 0x10)) 1 with
    | .ok l => some ((σ.feWords l).headD 0).toNat
    | .error e => if e.cause = causeNonresident ∧ x.en then none else some x.windex
  let waits := x.packets.filter fun p => decide (pktType (p.words.headD 0) = 3)
  let σ := σ.putQueue vf q
    { x with ridx := w.getD x.ridx, windex := w.getD x.ridx, kick := false, start := x.start || w.isNone, cancelAt := some x.ridx,
             packets := x.packets.filterMap Packet.afterCancel }
  let σ := { σ with watches := σ.watches.filter fun v => !(waits.any fun p => decide (v.packet = some (vf, q, p.idx))) }
  let σ := { σ with graphs := σ.graphs.map fun (p : Nat × Graph) =>
    if p.2.vf = vf ∧ p.2.queue = q ∧ !p.2.finished then (p.1, { p.2 with stopped := true, cancelled := true, ready := [] }) else p }
  let ns := (σ.nodes.filter fun (p : Nat × Node) => decide (p.2.vf = vf) && decide (p.2.queue = q) && !p.2.finished).map (·.1)
  let σ := ns.foldl (fun σ n => σ.setNode n { σ.nodeOf n with cancelled := true }) σ
  let ts := (σ.tasks.filter fun (p : Nat × Task) => ns.contains p.2.node && !p.2.state.ended).map (·.1)
  (ts.foldl (fun σ t => σ.cancelTask t) σ).settleQueue vf q

/-- QCANCEL (R352). -/
def execQueueCancel (vf q : Nat) (value : Word) (σ : State) : Out :=
  .next (if value.getLsbD 0 then σ.cancelQueue vf q else σ)

/-- A VF is killed (R389, R422): every queue is cancelled as QCANCEL does, its episodes end CANCELLED, and VF_KILLED is posted. -/
def State.killVf (σ : State) (vf detail : Nat) (episodes : Bool) : State :=
  let σ := (List.range 64).foldl (fun σ q =>
    if (Tbl.find? σ.queues (vf * 64 + q)).isSome then σ.cancelQueue vf q else σ) σ
  let eps := if episodes then (σ.episodes.filter fun (p : Nat × Episode) => decide (p.1 / 4096 = vf)).map (·.1) else []
  let σ := eps.foldl (fun σ i => σ.endEpisode vf (i % 4096) 5 0) σ
  σ.hyperNotice 25 vf detail

/-! ## Registers without a behaviour of their own (R344, R358) -/

/-- The VF's registers a write only stores: NBASE, NRIDX, QBASE, QWADDR. -/
def vfPlain (off : Nat) : Bool :=
  decide (off = 0x10) || decide (off = 0x20) || (decide (0x1000 ≤ off) && decide (off < 0x2000) && (decide (off % 64 = 0) || decide (off % 64 = 0x10)))

/-- The PF's registers a write only stores: FMODE, KFILT, KOPEN, LDSRC, the hypervisor ring's base and index, S2BASE, S2CNT, the
context pools, TBLDATA, RWMASK, RWTMO, MEMWT, MIGADDR, MIGARG, SAMPCTL, EVBASE, EVRIDX, counter selects and values, FWUADDR, FWULEN. -/
def pfPlain (off : Nat) : Bool :=
  let within (a b : Nat) : Bool := decide (a ≤ off) && decide (off < b)
  within 0x2000 0x2200 || within 0x2600 0x2A00 || decide (off = 0x3000) || decide (off = 0x3040) || decide (off = 0x3050)
    || within 0x3400 0x3C00 || (within 0x4000 0x4048 && !decide (off = 0x4008) && !decide (off = 0x4030)) || within 0x5300 0x5400 || decide (off = 0x5408) || decide (off = 0x5410)
    || (within 0x5500 0x5D00 && (decide (off % 64 = 0) || decide (off % 64 = 8) || decide (off % 64 = 0x18)))
    || decide (off = 0x6000) || decide (off = 0x6008) || within 0x8000 0x10000

/-- NCTL and HNCTL (R345): DROPS is kept, and setting EN starts the write count at zero. -/
def State.writeNctl (σ : State) (b off rk : Nat) (v : Word) : State :=
  let old := σ.reg b off
  let σ := if v.getLsbD 0 && !old.getLsbD 0 then { σ with nwrite := Tbl.set σ.nwrite rk 0 } else σ
  σ.setReg b off (BitVec.ofNat 64 (old.toNat / 2 ^ 32 * 2 ^ 32 + v.toNat % 2 ^ 32))

/-- What a counter's select register keeps: OVF clears where a one is written (R415). -/
def selectWrite (old v : Word) : Word :=
  BitVec.ofNat 64 (v.toNat % 2 ^ 63 + (if old.getLsbD 63 && !v.getLsbD 63 then 2 ^ 63 else 0))

/-- A command register after its command: STATUS in bits 62:60, BUSY 0. -/
def statusWord (v : Word) (code : Nat) : Word := BitVec.ofNat 64 (v.toNat % 2 ^ 60 + code * 2 ^ 60)

/-- Where a VF stands in a migration (R412). -/
def State.migState (σ : State) (vf : Nat) : Nat := Tbl.get σ.frozen 0 vf
/-- A FREEZE is in progress: running tasks of its VF have not all been saved (R411). -/
def State.migBusy (σ : State) : Bool :=
  let v := (σ.reg 0 0x5400).toNat
  decide (v % 16 = 1) && decide (bits v 62 60 = 0) && decide (σ.migState (bits v 23 16) = 2)
    && σ.ctxs.any fun (p : Nat × Ctx) => p.2.task.any fun t => decide ((σ.nodeOf (σ.taskOf t).node).vf = bits v 23 16)

/-- A write that a PF register only stores, within its own field rules: SAMPCTL's EN stays 0 for an interval outside 10 to 20 (R413),
a counter's value has 48 bits (R415), PWRCAP's WATTS (R425), and an operation a command register does not define: STATUS 3 for GATECMD
(R355) and RWCMD (R395), STATUS 1 for MIGCTL (R411), nothing for TBLSEL (R390). -/
def State.writePf (σ : State) (off : Nat) (v : Word) : State :=
  if off = 0x3048 then σ.writeNctl 0 off 0 v
  else if off = 0x6100 then
    let w := v.toNat % 4096
    let w := if 1000 ≤ w ∧ w ≤ 3600 then w else 3600
    σ.setReg 0 off (BitVec.ofNat 64 (bits (σ.reg 0 off).toNat 31 24 * 2 ^ 24 + w))
  else if off = 0x2400 ∧ bits v.toNat 13 12 = 3 then σ.setReg 0 off (statusWord v 3)
  else if off = 0x4008 ∧ (2 ≤ bits v.toNat 13 12 ∨ 2 ≤ bits v.toNat 15 14) then σ.setReg 0 off (v &&& 0xFFFF)
  else if off = 0x4030 ∧ bits v.toNat 49 48 = 3 then (if σ.rwBusy then σ else σ.setReg 0 off (statusWord v 3))
  else if off = 0x5400 ∧ 7 ≤ v.toNat % 16 then (if σ.migBusy then σ else σ.setReg 0 off (statusWord v 1))
  else if !pfPlain off then σ
  else if 0x8000 ≤ off ∧ off % 1024 < 512 then σ.setReg 0 off (selectWrite (σ.reg 0 off) v)
  else if 0x8000 ≤ off then σ.setReg 0 off (BitVec.ofNat 64 (v.toNat % 2 ^ 48))
  else if 0x5500 ≤ off ∧ off < 0x5D00 ∧ off % 64 = 0 ∧ (v.toNat % 32 < 10 ∨ 20 < v.toNat % 32) then σ.setReg 0 off (v &&& ~~~0x100)
  else σ.setReg 0 off v

/-! ## Keys of a VF (R368, R373) -/

/-- The tiles of a frame. -/
def frameTiles (f : Nat) : List Nat := (List.range 512).map (f * 512 + ·)

/-- Frames a VF owns. -/
def State.ownedFrames (σ : State) (vf : Nat) : List Nat :=
  (σ.frames.filter fun (p : Nat × Frame) => decide (p.2.owner = vf)).map (·.1)

/-- Step 4 of a VF's teardown (R373): the security processor discards every seal key and the PRINCE key of a VF. Its tiles fail every later
fill, and no key slot holds its key. -/
def State.discardKeys (σ : State) (vf : Nat) : State :=
  let tags := ((σ.ownedFrames vf).flatMap frameTiles).map fun t => (t, BitVec.ofNat 64 (σ.metaWord t / 2 ^ 64))
  let σ : State :=
    { σ with kgens := Tbl.set σ.kgens vf [], princeKey := Tbl.set σ.princeKey vf ((Tbl.get σ.princeKey (0, true) vf).1 + 1, false),
             cores := σ.cores.map fun (p : Nat × Core) => (p.1, { p.2 with keys := p.2.keys.filter fun k => decide (k.2.1 ≠ vf) }) }
  tags.foldl (fun (σ : State) p =>
    σ.setTile p.1 { σ.tile p.1 with bad := true, tag := p.2, under := some (σ.cipherOf p.1), present := [], owner := none }) σ

/-- A word of 32 bits of a function's MSI-X table takes a value (R344); a vector that is unmasked while it is pending is raised. -/
def State.writeMsix (σ : State) (vf i : Nat) (v : BitVec 32) : State :=
  let σ : State := { σ with msix := Tbl.set σ.msix (vf * 256 + i) v }
  if i % 4 = 3 ∧ !v.getLsbD 0 ∧ Tbl.get σ.msixPending false (vf * 64 + i / 4) then
    ({ σ with msixPending := Tbl.del σ.msixPending (vf * 64 + i / 4) } : State).raiseIrq vf (i / 4)
  else σ

/-- A write into a function's BAR4: its table has 64 vectors of 16 bytes; the pending bits after it are read-only. -/
def State.writeBar4 (σ : State) (vf off : Nat) (v : Word) (wide : Bool) : State :=
  if 1024 ≤ off ∨ off % 4 ≠ 0 then σ
  else
    let σ := σ.writeMsix vf (off / 4) (v.truncate 32)
    if wide ∧ off % 8 = 0 then σ.writeMsix vf (off / 4 + 1) ((v >>> 32).truncate 32) else σ

/-- REGISTER_WRITE (R344, R358): a 32-bit access has no effect; registers not listed, read-only ones and ones with a step of their own
ignore it. Bars from 128 are the model's numbers for BAR4 of the PF and of the VFs, which takes 32-bit accesses; 193 is the size
the PF gives the HDM-DB range, in bytes (R343), and 194 its request to the security processor to discard the keys of VF `off` (R373): the
spec gives neither a place (log 88). -/
def execRegisterWrite (bar off : Nat) (value : Word) (wide : Bool) (σ : State) : Out :=
  if 128 ≤ bar ∧ bar ≤ 192 then .next (σ.writeBar4 (bar - 128) off value wide)
  else if bar = 193 then .next { σ with hdmSize := min (value.toNat / 2 ^ 21) Config.hostFrame }
  else if bar = 194 then .next (if 1 ≤ off ∧ off ≤ 64 then σ.discardKeys off else σ)
  else if !wide ∨ 64 < bar ∨ off % 8 ≠ 0 then .next σ
  else if bar = 0 then .next (σ.writePf off value)
  else if off = 0x18 then .next (σ.writeNctl bar off bar value)
  else if vfPlain off then .next (σ.setReg bar off value)
  else .next σ

/-! ## Gates' binding (R355) -/

def State.gateStatus (σ : State) (value : Word) (code : Nat) : State := σ.setReg 0 0x2400 (statusWord value code)

/-- BIND: an UNBOUND gate becomes FREE, bound to the VF. -/
def execGateBind (value : Word) (σ : State) : Out :=
  let g := value.toNat % 4096
  let vf := bits value.toNat 23 16
  if vf = 0 ∨ 64 < vf then .next (σ.gateStatus value 3)
  else if (σ.gateOf g).state ≠ 0 then .next (σ.gateStatus value 1)
  else .next ((σ.setGate g { state := 1, vf := vf }).gateStatus value 0)

/-- UNBIND: the gate's episode ends CANCELLED, its FIFOs are discarded, and the launch node of every lot waiting on it is killed. -/
def execGateUnbind (value : Word) (σ : State) : Out :=
  let g := value.toNat % 4096
  let gt := σ.gateOf g
  if gt.state = 0 then .next (σ.gateStatus value 2) else
  let waiting := gt.waiters.map (·.1)
  let σ := σ.setGate g { gt with waiters := [] }
  let σ := if gt.state = 2 then σ.endEpisode gt.vf gt.episode 5 0 else σ
  let σ := σ.setGate g {}
  let σ := waiting.foldl (fun σ t => σ.killNode (σ.taskOf t).node causeGateClosed) σ
  .next (σ.gateStatus value 0)

/-- READ: the gate's state in GATESTAT. -/
def execGateRead (value : Word) (σ : State) : Out :=
  let gt := σ.gateOf (value.toNat % 4096)
  let v := gt.state + gt.acts.length * 16 + gt.obs.length * 256 + (if gt.state = 0 then 0 else gt.vf) * 2 ^ 16
  .next ((σ.setReg 0 0x2408 (BitVec.ofNat 64 v)).gateStatus value 0)

/-! ## Host accesses to device memory (R343) -/

/-- A CXL.mem access within the HDM-DB range, whose size the PF sets, under the owner of its frame: OWNER refuses a frame nobody owns, and a fill that fails its
seal check posts SEAL_FAIL (R67, R70, R343). A write is performed at its home slice, or replaces a metadata word (R368); a read leaves its fill. -/
def execHostMemAccess (wr : Bool) (pa size : Nat) (value : Word) (σ : State) : Out :=
  if min σ.hdmSize Config.hostFrame * 2 ^ 21 < pa + size ∨ 8 < size then .next σ else
  match (linesOf pa size).findSome? fun l => (σ.lineCheck (σ.frameRec (frameOf l)).owner l) with
  | some c => .next (if c = causeSealFail then σ.sealNotices (linesOf pa size) else σ)
  | none => .next (
      if (metaTile pa).isSome then (if wr then σ.metaWrite pa size value.toNat else σ)
      else if wr then (σ.fill pa).writeNat pa size value.toNat else σ.fill pa)

end Sys2Proof.Machine
end

