-- ==== Sys2Proof/Machine/Loader.lean ====
section
/-!
DEFINITION. Translation tables, owners and seals (22): the loader's commands (R359 to R364), OWNCMD (R365, R366), MIGRATE (R367),
re-sealing (R370, R371), and the writeback of a tile (03 R71 to R73). A tile's data is held as plaintext, with what its ciphertext is
sealed under (log 13).
-/

namespace Sys2Proof.Machine

/-! ## Tiles and frames -/

/-- The largest version of a tile (R72). -/
def maxVer : Nat := 2 ^ 56 - 1

def State.setFrameRec (σ : State) (f : Nat) (v : Frame) : State := { σ with frames := Tbl.set σ.frames f v }

/-- Far-cache lines of a range of bytes are dropped, dirty ones without writeback. -/
def State.dropDirty (σ : State) (lo hi : Nat) : State :=
  { σ with fcache := σ.fcache.filter fun p => !(decide (lo ≤ p.1) && decide (p.1 < hi)) }

/-- No byte of a tile is other than zero. -/
def zeroIn (mem : List Host.Cell) (t : Nat) : Bool := mem.all fun c => !(decide (t * 4096 ≤ c.1) && decide (c.1 < t * 4096 + 4096))
/-- Sealed memory with the dirty bytes of a tile merged into what the tile reads as. -/
def State.merged (σ : State) (t : Nat) : List Host.Cell :=
  let lo := t * 4096
  (σ.fcache.filter fun p => decide (lo ≤ p.1) && decide (p.1 < lo + 4096)).foldl (fun m (p : Nat × Byte) => memSet m p.1 p.2)
    (if (σ.tile t).z then memDrop σ.mem lo (lo + 4096) else σ.mem)

/-- A tile sealed as a zero tile: no data is written, and the ciphertext in memory stays (R73). -/
def State.sealZero (σ : State) (t ver kgen : Nat) : State :=
  σ.setTile t { ver := ver, kgen := kgen, z := true, under := some (σ.cipherOf t), spoiled := (σ.tile t).spoiled }
/-- A tile is written whole under a version and a generation, its dirty bytes merged; one that is all zero as a zero tile (R71, R73). -/
def State.sealTile (σ : State) (t ver kgen : Nat) : State :=
  let mem := σ.merged t
  let σ := if zeroIn mem t then σ.sealZero t ver kgen else ({ σ with mem := mem } : State).setTile t { ver := ver, kgen := kgen }
  σ.dropDirty (t * 4096) (t * 4096 + 4096)

/-! ## Writeback (R71 to R73) -/

/-- A RESEAL of a frame under the newest generation of its VF (R371): worn frames are left and reported. -/
def State.reseal (σ : State) (vf f : Nat) : State :=
  let g := σ.newGen vf
  let fr := σ.frameRec f
  let wraps : Bool := (frameTiles f).any fun t => decide (maxVer ≤ (σ.tile t).ver)
  if wraps ∧ fr.era = 7 then σ.hyperNotice 33 vf f
  else
    let σ := (frameTiles f).foldl (fun σ t =>
      let x := σ.tile t
      if x.bad ∨ (!wraps && decide (x.kgen = g)) then σ
      else σ.sealTile t (if wraps then 0 else x.ver + 1) g) σ
    (σ.setFrameRec f { fr with era := if wraps then fr.era + 1 else fr.era, kg7 := g / 128 }).markDirty f

/-- ROTATE of a VF: the next generation, with new keys, unless two are live. -/
def State.rotate (σ : State) (vf : Nat) : State :=
  match σ.liveGens vf with
  | [g] => { σ.tickFresh with kgens := Tbl.set σ.kgens vf [(g + 1) % 256, g],
                              sealDraws := Tbl.set σ.sealDraws (vf * 256 + (g + 1) % 256) (σ.fresh + 1) }
  | _ => σ

/-- RETIRE of a VF: the old generation is gone, unless a tile of the VF is still under it. -/
def State.retireGen (σ : State) (vf : Nat) : State :=
  match σ.liveGens vf with
  | [g, old] =>
    if (σ.ownedFrames vf).any fun f => (frameTiles f).any fun t => decide ((σ.tile t).kgen = old) then σ
    else { σ with kgens := Tbl.set σ.kgens vf [g] }
  | _ => σ

/-- SEAL_EXHAUST (R72, R371): firmware's sweep over the VF in hardware mode, a notice in host-assisted mode. -/
def State.sealExhaust (σ : State) (t : Nat) : State :=
  let f := t / 512
  let vf := (σ.frameRec f).owner
  let σ := σ.raiseEvent (homeSlice (t * 4096) / 16 * 8) 32 causeSealExhaust
  if σ.hostMode vf 4 then σ.hyperNotice 21 vf f
  else ((σ.ownedFrames vf).foldl (fun σ f => σ.reseal vf f) (σ.rotate vf)).retireGen vf

/-- The tile leaves the far cache clean. -/
def State.evict (σ : State) (t : Nat) : State := σ.setTile t { σ.tile t with present := [], owner := none }

/-- WRITEBACK (R71 to R73): a dirty tile is written back whole under VER + 1; one that is not dirty throughout is read and checked
first, and a failing check discards its dirty sectors; a tile whose version would wrap stays dirty until it is re-sealed. -/
def execWriteback (tile : Nat) (σ : State) : Out :=
  let lo := tile * 4096
  let f := tile / 512
  let x := σ.tile tile
  let dirty := (σ.fcache.filter fun p => decide (lo ≤ p.1) && decide (p.1 < lo + 4096)).length
  if dirty = 0 then .next (σ.evict tile)
  else if dirty < 4096 ∧ x.bad then .next (((σ.dropDirty lo (lo + 4096)).evict tile).sealNotice lo)
  else if maxVer ≤ x.ver then
    if x.exhausted then .next σ else .next ((σ.setTile tile { x with exhausted := true }).sealExhaust tile)
  else
    .next ((σ.sealTile tile (x.ver + 1) (σ.newGen (σ.frameRec f).owner)).markDirty f)

/-! ## Frame ownership (R365, R366) -/

/-- The dirty bytes of a tile. -/
def State.dirtyOf (σ : State) (t : Nat) : Nat :=
  (σ.fcache.filter fun p => decide (t * 4096 ≤ p.1) && decide (p.1 < t * 4096 + 4096)).length
/-- The writeback of a source tile of a migration (R71, R367): VER + 1; a partly dirty tile that fails its check loses its dirty sectors;
the dirty lines of a worn tile stay, and go along without one. -/
def State.flushTile (σ : State) (t : Nat) : State :=
  let lo := t * 4096
  let x := σ.tile t
  let d := σ.dirtyOf t
  if d = 0 then σ
  else if d < 4096 ∧ x.bad then ((σ.dropDirty lo (lo + 4096)).evict t).sealNotice lo
  else if maxVer ≤ x.ver then σ
  else (σ.sealTile t (x.ver + 1) x.kgen).markDirty (t / 512)
def State.flushFrame (σ : State) (f : Nat) : State := (frameTiles f).foldl (fun σ t => σ.flushTile t) σ
/-- The version a source tile has after its writeback. -/
def State.flushVer (σ : State) (t : Nat) : Nat :=
  let x := σ.tile t
  let d := σ.dirtyOf t
  if d = 0 ∨ (d < 4096 ∧ x.bad) ∨ maxVer ≤ x.ver then x.ver else x.ver + 1

/-- Metadata of host frames (R366): one HBM frame for 256 of them, taken from the unowned ones; none left refuses the frame. Which
unowned frame firmware takes is open; the model takes the highest (log 14). -/
def State.metaRoom (σ : State) (f new : Nat) : Option State :=
  if f < Config.hostFrame ∨ new = Config.ownerNone then some σ else
  let n := (σ.frames.filter fun (p : Nat × Frame) =>
    decide (Config.hostFrame ≤ p.1) && decide (p.1 ≠ f) && decide (p.2.owner ≠ Config.ownerNone)).length
  if n < 256 * σ.metaFrames.length then some σ else
  let top := Config.hostFrame - 1025
  match ((List.range (min (σ.frames.length + 1) (top + 1))).map (top - ·)).find? fun m => decide ((σ.frameRec m).owner = Config.ownerNone) with
  | none => none
  | some m => some { σ.setFrameRec m { σ.frameRec m with owner := 0 } with metaFrames := m :: σ.metaFrames }

/-- A frame's tiles are rewritten as zero tiles: VER + 1, or VER 0 under the next era where one would wrap (R366). -/
def State.zeroFrame (σ : State) (f gen era : Nat) (wraps : Bool) : State :=
  let σ := σ.dropDirty (f * 2 ^ 21) ((f + 1) * 2 ^ 21)
  let σ := (frameTiles f).foldl (fun σ t => σ.sealZero t (if wraps then 0 else (σ.tile t).ver + 1) gen) σ
  σ.setFrameRec f { σ.frameRec f with era := era, kg7 := gen / 128 }

def State.frameWraps (σ : State) (f : Nat) : Bool := (frameTiles f).any fun t => decide (maxVer ≤ (σ.tile t).ver)

/-- OWN_REFUSED to the hypervisor ring; its DETAIL is not stated, and is a free value (log 5). -/
def State.ownRefused (σ : State) : State := σ.tickFresh.hyperNotice 20 0 (Config.freeWord σ.fresh).toNat

/-- A VF whose keys were discarded draws new ones when it is next given a frame (R368, R373, log 88). -/
def State.drawKeys (σ : State) (vf : Nat) : State :=
  if Tbl.find? σ.kgens vf = some [] then
    { σ.tickFresh with kgens := Tbl.set σ.kgens vf [0], princeKey := Tbl.set σ.princeKey vf ((Tbl.get σ.princeKey (0, true) vf).1, true),
                       sealDraws := Tbl.set σ.sealDraws (vf * 256) (σ.fresh + 1) }
  else σ

/-- One frame takes a new owner (R366). -/
def State.giveFrame (σ : State) (f new : Nat) : State :=
  let fr := σ.frameRec f
  if fr.owner = new then σ
  else
    let wraps := σ.frameWraps f
    if wraps ∧ fr.era = 7 then σ.ownRefused
    else
      match σ.metaRoom f new with
      | none => σ.ownRefused
      | some σ =>
        let σ := σ.drawKeys new
        let σ := σ.zeroFrame f (σ.curGen new) (if wraps then fr.era + 1 else fr.era) wraps
        σ.setFrameRec f { σ.frameRec f with owner := new, gframe := 0 }

/-- GFRAME of a VF's frames: the lowest guest frame through which one of its tables maps the frame, else 0 (R365). -/
def State.gframeOf (σ : State) (vf f : Nat) : Nat :=
  let hits := [0, 1, 2].flatMap fun k =>
    let t := Tbl.get σ.tables ({} : Table) (vf * 4 + k)
    let n := 2 ^ (granLog t - 21)
    t.entries.filterMap fun (p : Nat × BitVec 32) =>
      if entV p.2 ∧ entClass p.2 ≠ 2 ∧ entFrame p.2 ≤ f ∧ f < entFrame p.2 + n then
        some (Tbl.get t.guest 0 p.1 + (f - entFrame p.2)) else none
  hits.foldl min (hits.headD 0)
def State.refreshGframes (σ : State) (vf : Nat) : State :=
  { σ with frames := σ.frames.map fun (p : Nat × Frame) => if p.2.owner = vf then (p.1, { p.2 with gframe := σ.gframeOf vf p.1 }) else p }

/-- OWNCMD (R365, R366). -/
def execOwncmd (value : Word) (σ : State) : Out :=
  let v := value.toNat
  let new := bits v 47 40
  let n := bits v 39 20 + 1
  let f := bits v 19 0
  let σ := σ.setReg 0 0x3060 (value &&& ~~~(BitVec.ofNat 64 (2 ^ 63)))
  let listed := decide (new ≤ 64) || decide (new = 0x7E) || decide (new = 0x7F)
  let carve := decide (f < Config.hostFrame) && decide (Config.hostFrame - 1024 < f + n)
  if bits v 62 48 ≠ 0 ∨ !listed ∨ carve ∨ Config.numFrames < f + n then .next σ.ownRefused
  else .next (((List.range n).foldl (fun σ i => σ.giveFrame (f + i) new) σ).refreshGframes new)

/-! ## Tables (R359 to R364) -/

def ldVf (v : Nat) : Nat := bits v 23 16
def ldKind (v : Nat) : Nat := bits v 7 6
def ldGran (v : Nat) : Nat := bits v 9 8
def ldIndex (v : Nat) : Nat := bits v 47 33
def State.tableOf (σ : State) (vf kind : Nat) : Table := Tbl.get σ.tables {} (vf * 4 + kind)
/-- Frames of 2 MiB a granule covers. -/
def granFrames (g : Nat) : Nat := if g = 0 then 1 else if g = 1 then 16 else 256

/-- The host frame of a guest frame by the stage-two map (R361). -/
def State.stage2 (σ : State) (vf guest : Nat) : Option Nat :=
  let base := (σ.reg 0 (0x3400 + 16 * (vf - 1))).toNat
  let cnt := (σ.reg 0 (0x3408 + 16 * (vf - 1))).toNat
  if cnt ≤ guest then none
  else
    let e := σ.memNat (base + 4 * guest) 4
    if e.testBit 31 then some (e % 2 ^ 20) else none

/-- A run of guest frames: its first host frame, or the failing guest frame (R361). -/
def State.stageRun (σ : State) (vf guest n : Nat) : Except Nat Nat :=
  match σ.stage2 vf guest with
  | none => .error guest
  | some h =>
    match (List.range n).find? fun i => decide (σ.stage2 vf (guest + i) ≠ some (h + i)) with
    | some i => .error (guest + i)
    | none => .ok h

/-- Refusal of a command: REASON, and the guest-physical address of a stage-two failure. -/
structure LdFail where
  reason : Nat
  guest : Option Nat := none

/-- The checks of R362 on one valid entry, and of R391 on one that names an import record; the resolved entry and its guest frame. -/
def State.resolveEntry (σ : State) (vf g : Nat) (assisted : Bool) (e : Nat) : Except LdFail (BitVec 32 × Nat) :=
  let n := granFrames g
  let cls := bits e 7 6
  let guest := e / 4096
  if bits e 11 9 ≠ 0 ∨ e % 2 = 1 then .error { reason := 5 }
  else if cls = 2 then
    let r := Tbl.get σ.imports [] guest
    if 4096 ≤ guest ∨ !(r.headD 0).getLsbD 0 ∨ impVf r ≠ vf then .error { reason := 3 } else .ok (BitVec.ofNat 32 e, guest)
  else
    match (if assisted then .ok guest else σ.stageRun vf guest n) with
    | .error f => .error { reason := 1, guest := some (f * 2 ^ 21) }
    | .ok h =>
      if h % n ≠ 0 then .error { reason := 2 }
      else if (cls = 3 ∧ h < Config.hostFrame) ∨ (cls ≠ 3 ∧ Config.hostFrame ≤ h) then .error { reason := 3 }
      else if (List.range n).any fun i => decide ((σ.frameRec (h + i)).owner ≠ vf) then .error { reason := 4 }
      else .ok (BitVec.ofNat 32 (h * 4096 + e % 4096), guest)

/-- An image resolved entry by entry, in index order; the first failure has its index. -/
def State.resolveImage (σ : State) (vf g : Nat) (assisted : Bool) :
    List (Nat × Nat) → Except (Nat × LdFail) (List (Nat × BitVec 32 × Nat))
  | [] => .ok []
  | (i, e) :: r =>
    if !e.testBit 8 then State.resolveImage σ vf g assisted r
    else
      match σ.resolveEntry vf g assisted e with
      | .error x => .error (i, x)
      | .ok v =>
        match State.resolveImage σ vf g assisted r with
        | .error x => .error x
        | .ok l => .ok ((i, v) :: l)

/-- LDSTAT and the notices of a refusal (R360, R364). -/
def State.ldRefused (σ : State) (value : Word) (index : Nat) (x : LdFail) : State :=
  let v := value.toNat
  let σ := σ.setReg 0 0x3010 (BitVec.ofNat 64 (2 + x.reason * 256 + index * 2 ^ 33))
  let σ := match x.guest with
    | some a => σ.hyperNotice 17 (ldVf v) a
    | none => σ
  σ.notice (ldVf v) 16 0xFF 0xFFFF (index + x.reason * 2 ^ 16 + ldKind v * 2 ^ 20)

/-- LDSTAT and the notice of a command that is done; INDEX keeps the last refused command's (R359, R364). -/
def State.ldDone (σ : State) (value : Word) (index op : Nat) : State :=
  let σ := σ.setReg 0 0x3010 (BitVec.ofNat 64 (bits (σ.reg 0 0x3010).toNat 47 33 * 2 ^ 33))
  σ.notice (ldVf value.toNat) 22 0xFF 0xFFFF (index + ldKind value.toNat * 2 ^ 20 + op * 2 ^ 24)

/-- The copy steps and the words of a VF's lots that have been translated are over: no step of its copy engines is in flight, but one that
only waits to place its follow-on, and no word of its slots waits for another package (R363). -/
def State.past (σ : State) (vf : Nat) : Bool :=
  (σ.copies.all fun (p : Nat × CopyEng) => p.2.steps.all (fun s => s.filled) || decide (σ.vfOf (p.1 / 8) p.2.slot ≠ vf))
    && σ.fabReqs.all fun q => q.store.isSome || decide (q.slot = noSlot) || decide (σ.vfOf q.core q.slot ≠ vf)

/-- A command is stored; while one is in progress a write with GO is ignored. A lot table's command waits, BUSY, for the accesses that have
been translated (R363). Without GO it starts nothing, with a VF outside 0x01 to 0x40 it is refused without a notice, and a KIND or
GRAN of 3 is refused (R359, R362). -/
def State.ldStart (σ : State) (value : Word) (gran : Bool) (k : State → Out) : Out :=
  let v := value.toNat
  if (σ.reg 0 0x3010).getLsbD 0 ∧ value.getLsbD 0 then .next σ else
  let σ := σ.setReg 0 0x3008 (value &&& ~~~1)
  if !value.getLsbD 0 then .next σ
  else if ldVf v = 0 ∨ 64 < ldVf v then .next (σ.setReg 0 0x3010 (BitVec.ofNat 64 (2 + 5 * 256)))
  else if ldKind v = 3 ∨ (gran ∧ ldGran v = 3) then .next (σ.ldRefused value 0 { reason := 5 })
  else if ldKind v = 0 ∧ !σ.past (ldVf v) then
    .next { σ.setReg 0 0x3010 (σ.reg 0 0x3010 ||| 1) with loading := some (value, σ.reg 0 0x3000) }
  else k σ

/-! ## Switch points (R363, R367) -/

/-- Of the entries named, the lowest through which a context's commit buffer holds a store or near combine: one whose address it was
written at lies in it. -/
def heldThrough (t : Table) (named : Nat → Bool) (c : Ctx) : Option Nat :=
  (c.lineVas.map fun p => p.1 * 64 / 2 ^ granLog t).foldl (fun b i =>
    if named i && entV (Tbl.get t.entries 0 i) then (match b with
      | some j => some (min i j)
      | none => some i) else b) none

/-- Lots aborted at a narrowing switch of a lot table, a pre-empted one's saved commit buffer included: those that hold a store or near
combine translated through a changed entry, as though they had taken NONRESIDENT through it (R363, R367). `old` is the table before the
switch. -/
def State.abortHolders (σ : State) (vf : Nat) (old : Table) (named : Nat → Bool) : State :=
  let page (i : Nat) : Word := BitVec.ofNat 64 (i * 2 ^ granLog old)
  let want (σ : State) (i : Nat) : State := σ.pageWant vf 0 (page i) false
  let slots := (List.range 32).flatMap fun c => [0, 1, 2, 3].map fun k => (c, k)
  let σ := slots.foldl (fun σ x =>
    let c := σ.ctxOf x.1 x.2
    match c.task with
    | none => σ
    | some t =>
      if σ.vfOf x.1 x.2 = vf ∧ (σ.taskOf t).state = .running then
        match heldThrough old named c with
        | some i => want ((σ.abortLot x.1 x.2 (some (page i, false))).push (.continuationEnqueue t)) i
        | none => σ
      else σ) σ
  (σ.tasks.map (·.1)).foldl (fun σ t =>
    let tk := σ.taskOf t
    if (σ.nodeOf tk.node).vf = vf ∧ tk.state = .saved then
      match heldThrough old named (tk.cont.getD {}).ctx with
      | some i => want ((σ.abortSaved t (some (page i, false))).push (.continuationEnqueue t)) i
      | none => σ
    else σ) σ

/-- A table is in force (R363): entries' PAGE_WANTED may be posted again (R367), and a queue table's descriptors are recorded again
(R285). -/
def State.install (σ : State) (vf kind : Nat) (t : Table) (changed : Nat → Bool) : State :=
  let σ := { σ with tables := Tbl.set σ.tables (vf * 4 + kind) t,
                    pageWanted := σ.pageWanted.filter fun w => !(decide (w.1 = vf) && decide (w.2.1 = kind) && changed w.2.2) }
  let σ := σ.refreshGframes vf
  if kind = 1 then σ.recordEpt vf else σ

/-- A whole table's switch: every entry counts as changed and narrowing. -/
def State.switchAll (σ : State) (vf kind : Nat) (t : Table) : State :=
  let old := σ.tableOf vf kind
  let σ := σ.install vf kind t fun _ => true
  if kind = 0 then σ.abortHolders vf old fun _ => true else σ

/-- An ENTRY is narrowing (R363). -/
def narrowing (old new : BitVec 32) : Bool :=
  (entV old && !entV new) || (entRes old && !entRes new) || (entWr old && !entWr new) || (!entCow old && entCow new)
    || decide (entFrame old ≠ entFrame new)

/-- One entry's switch. -/
def State.switchEntry (σ : State) (vf kind i : Nat) (e : BitVec 32) (guest : Nat) : State :=
  let t := σ.tableOf vf kind
  let old := Tbl.get t.entries 0 i
  let σ := σ.install vf kind { t with valid := true, entries := Tbl.set t.entries i e, guest := Tbl.set t.guest i guest } fun j => decide (j = i)
  if kind = 0 ∧ narrowing old e then σ.abortHolders vf t fun j => decide (j = i) else σ

/-- Pages of a table image (R361): the physical address of each 4 KiB page, or the first page that fails, with its guest-physical
address where stage two fails, or its lines. -/
def State.imagePages (σ : State) (vf : Nat) (assisted : Bool) (src : Nat) : List Nat → Except (Nat × Option Nat × List Nat) (List Nat)
  | [] => .ok []
  | p :: r =>
    let a := src + 4096 * p
    let pa : Option Nat := if assisted then some a else (σ.stage2 vf (a / 2 ^ 21)).map fun h => h * 2 ^ 21 + a % 2 ^ 21
    match pa with
    | none => .error (p, some a, [])
    | some pa =>
      if (linesOf pa 4096).any fun l => (σ.lineCheck 0 l).isSome then .error (p, none, linesOf pa 4096)
      else
        match State.imagePages σ vf assisted src r with
        | .ok l => .ok (pa :: l)
        | .error x => .error x

/-- TABLE_LOAD (R360 to R363): the image is checked and resolved as a whole, then installed. -/
def execTableLoad (value : Word) (σ : State) : Out :=
  σ.ldStart value true fun σ =>
    let v := value.toNat
    let vf := ldVf v
    let src := (σ.reg 0 0x3000).toNat
    let assisted := σ.hostMode vf 0
    if src % 4096 ≠ 0 then .next (σ.ldRefused value 0 { reason := 6 })
    else
      match σ.imagePages vf assisted src (List.range 32) with
      | .error (p, a, ls) => .next ((σ.sealNotices ls).ldRefused value (1024 * p) { reason := 6, guest := a })
      | .ok pages =>
        let image := (pages.zipIdx).flatMap fun x => (List.range 1024).map fun j => (x.2 * 1024 + j, σ.memNat (x.1 + 4 * j) 4)
        let σ := pages.foldl (fun σ pa => σ.fill pa) σ
        match σ.resolveImage vf (ldGran v) assisted image with
        | .error (i, x) => .next (σ.ldRefused value i x)
        | .ok l =>
          let t : Table := { valid := true, gran := ldGran v, entries := l.map fun x => (x.1, x.2.1), guest := l.map fun x => (x.1, x.2.2) }
          .next ((σ.switchAll vf (ldKind v) t).ldDone value 0 0)

/-- TABLE_ENTRY (R360): one entry replaced, under the same checks. -/
def execTableEntry (value : Word) (σ : State) : Out :=
  σ.ldStart value false fun σ =>
    let v := value.toNat
    let vf := ldVf v
    let i := ldIndex v
    let e := (σ.reg 0 0x3000).toNat % 2 ^ 32
    if !e.testBit 8 then .next ((σ.switchEntry vf (ldKind v) i (BitVec.ofNat 32 e) 0).ldDone value i 1)
    else
      match σ.resolveEntry vf (σ.tableOf vf (ldKind v)).gran (σ.hostMode vf 0) e with
      | .error x => .next (σ.ldRefused value i x)
      | .ok (e, guest) => .next ((σ.switchEntry vf (ldKind v) i e guest).ldDone value i 1)

/-- TABLE_CLEAR (R360): every entry invalid; the granule stays. -/
def execTableClear (value : Word) (σ : State) : Out :=
  σ.ldStart value false fun σ =>
    let vf := ldVf value.toNat
    let kind := ldKind value.toNat
    .next ((σ.switchAll vf kind { valid := true, gran := (σ.tableOf vf kind).gran }).ldDone value 0 2)

/-! ## Migration of a page (R367) -/

/-- The data of a tile is sealed in another, a zero tile's as metadata only (R367 step 4). One that does not verify takes its TAG along. -/
def State.copyTile (σ : State) (s d ver gen : Nat) : State :=
  let x := σ.tile s
  let mine := (σ.merged s).filter fun c => decide (s * 4096 ≤ c.1) && decide (c.1 < s * 4096 + 4096)
  let σ := σ.setTile s { x with present := [], owner := none, exhausted := false }
  if mine.isEmpty then
    let σ := σ.sealZero d ver gen
    σ.setTile d { σ.tile d with bad := x.bad, tag := x.tag }
  else
    ({ σ with mem := mine.foldl (fun m c => memSet m (d * 4096 + (c.1 - s * 4096)) c.2) (memDrop σ.mem (d * 4096) (d * 4096 + 4096)) } : State).setTile d
      { ver := ver, kgen := gen, bad := x.bad, tag := x.tag, spoiled := x.bad }

/-- A frame's dirty lines are written back, and its data goes to another frame, where each tile takes a version above both (R367 steps 3
and 4). -/
def State.copyFrame (σ : State) (vf src dst : Nat) : State :=
  let lo := src * 2 ^ 21
  let σ := σ.flushFrame src
  let wraps : Bool := (List.range 512).any fun i => decide (maxVer ≤ max (σ.tile (src * 512 + i)).ver (σ.tile (dst * 512 + i)).ver)
  let σ := σ.dropDirty (dst * 2 ^ 21) ((dst + 1) * 2 ^ 21)
  let g := σ.newGen vf
  let σ := (List.range 512).foldl (fun σ i =>
    σ.copyTile (src * 512 + i) (dst * 512 + i) (if wraps then 0 else max (σ.tile (src * 512 + i)).ver (σ.tile (dst * 512 + i)).ver + 1) g) σ
  let σ := σ.dropDirty lo (lo + 2 ^ 21)
  let fr := σ.frameRec dst
  σ.setFrameRec dst { fr with era := if wraps then fr.era + 1 else fr.era, kg7 := g / 128 }

/-- The destination is worn: a version would wrap in a frame whose ERA is 7. -/
def State.destWorn (σ : State) (src dst : Nat) : Bool :=
  decide ((σ.frameRec dst).era = 7)
    && (List.range 512).any fun i => decide (maxVer ≤ max (σ.flushVer (src * 512 + i)) (σ.tile (dst * 512 + i)).ver)

/-- TABLE_MIGRATE (R367): an entry's frames move to new host frames, with what the Rink cores' caches hold of them (R283). An entry that maps no frame is refused (log 15). -/
def execTableMigrate (value : Word) (σ : State) : Out :=
  σ.ldStart value false fun σ =>
    let v := value.toNat
    let vf := ldVf v
    let i := ldIndex v
    let t := σ.tableOf vf (ldKind v)
    let e := Tbl.get t.entries 0 i
    let n := granFrames t.gran
    let dst := (σ.reg 0 0x3000).toNat % 2 ^ 20
    let σ := if entV e then (List.range n).foldl (fun (σ : State) k => σ.rinkDrain (entFrame e + k)) σ else σ
    if σ.hostMode vf 1 then .next (σ.ldRefused value 0 { reason := 7 })
    else if !entV e ∨ entClass e = 2 then .next (σ.ldRefused value i { reason := 5 })
    else if dst % n ≠ 0 then .next (σ.ldRefused value i { reason := 2 })
    else if (List.range n).any fun k => decide ((σ.frameRec (dst + k)).owner ≠ vf) || σ.destWorn (entFrame e + k) (dst + k) then
      .next (σ.ldRefused value i { reason := 4 })
    else
      let guest := Tbl.get t.guest 0 i
      let σ := σ.switchEntry vf (ldKind v) i (e &&& ~~~0x10) guest
      let σ := (List.range n).foldl (fun σ k => σ.copyFrame vf (entFrame e + k) (dst + k)) σ
      let e' := BitVec.ofNat 32 (dst * 4096 + e.toNat % 4096) ||| 0x10
      .next ((σ.switchEntry vf (ldKind v) i e' guest).ldDone value i 3)

/-- A loader command that waits goes on once the accesses it waits for are over (R363). -/
def State.loadRetry (σ : State) : State :=
  match σ.loading with
  | none => σ
  | some (value, src) =>
    if !σ.past (ldVf value.toNat) then σ else
    let τ := (({ σ with loading := none } : State).setReg 0 0x3010 (σ.reg 0 0x3010 &&& ~~~1)).setReg 0 0x3000 src
    let op := bits value.toNat 2 1
    match (if op = 0 then execTableLoad value τ else if op = 1 then execTableEntry value τ else if op = 2 then execTableClear value τ
           else execTableMigrate value τ) with
    | .next υ => υ.setReg 0 0x3000 (σ.reg 0 0x3000)
    | _ => σ

/-! ## SEALCMD (R370, R371) -/

def sealVf (v : Nat) : Nat := bits v 39 32
/-- The command is stored; a VF outside 0x01 to 0x40 does nothing. -/
def State.sealStart (σ : State) (value : Word) (k : State → Nat → Nat → State) : Out :=
  let σ := σ.setReg 0 0x3070 (value &&& ~~~(BitVec.ofNat 64 (2 ^ 63)))
  let vf := sealVf value.toNat
  if vf = 0 ∨ 64 < vf then .next σ else .next (k σ vf (value.toNat % 2 ^ 20))

/-- ROTATE (R371). -/
def execSealRotate (value : Word) (σ : State) : Out := σ.sealStart value fun σ vf _ => σ.rotate vf
/-- RESEAL (R371): of a frame the VF owns. -/
def execSealReseal (value : Word) (σ : State) : Out :=
  σ.sealStart value fun σ vf f => if (σ.frameRec f).owner = vf then σ.reseal vf f else σ
/-- RETIRE (R371). -/
def execSealRetire (value : Word) (σ : State) : Out := σ.sealStart value fun σ vf _ => σ.retireGen vf
/-- ZERO (R370): every tile of a frame the VF owns becomes a zero tile. -/
def execSealZero (value : Word) (σ : State) : Out :=
  σ.sealStart value fun σ vf f =>
    let fr := σ.frameRec f
    if fr.owner ≠ vf then σ
    else if σ.frameWraps f ∧ fr.era = 7 then σ.hyperNotice 33 vf f
    else σ.zeroFrame f (σ.newGen vf) (if σ.frameWraps f then fr.era + 1 else fr.era) (σ.frameWraps f)

end Sys2Proof.Machine
end

