-- ==== Sys2Proof/Machine/Fleet.lean ====
section
/-!
DEFINITION. Partitions and VFs (26 R407, R408), time slices (R409), live migration (R411, R412), PC samples, counters and the event
stream (R413 to R416). The layout of an exported record is opaque to the host (R411, log 16).
-/

namespace Sys2Proof

/-- FREE VALUE (26 R411, log 16): the bytes of a SAVE record. -/
opaque Config.recordBytes : Machine.MigRec → List Byte
/-- FREE VALUE (26 R411, log 16): the record that bytes of another device stand for, none where they are no record. -/
opaque Config.recordOf : List Byte → Option Machine.MigRec

end Sys2Proof

namespace Sys2Proof.Machine

/-! ## Partitions (R407, R408) -/

def coreReg (c : Nat) : Nat := 0x5000 + 8 * c
def bindReg (vf : Nat) : Nat := 0x5100 + 8 * (vf - 1)

/-- CORECFG (R407, R408): a change of PART or EN moves the core, by the removal of R384, and a write before the move is done is ignored; one
that would leave a partition with a bound VF without a core in service is refused. -/
def execCorecfgWrite (core : Nat) (value : Word) (σ : State) : Out :=
  if 32 ≤ core then .fault .noSuchUnit else
  let k := σ.coreOf core
  if k.leaving.isSome then .next σ else
  let old := σ.partOf core
  let part := bits value.toNat 12 8
  let en := value.getLsbD 0
  let moves : Bool := decide (part ≠ old) || (en != k.enabled)
  let leaves : Bool := k.enabled && (decide (part ≠ old) || !en)
  let last := leaves && !(σ.boundVfs old).isEmpty
    && (σ.coresOf old core).isEmpty
  if last then .next (σ.hyperNotice 29 0 (coreReg core))
  else
    let σ := σ.setReg 0 (coreReg core) (value &&& ~~~(BitVec.ofNat 64 (2 ^ 63)))
    if !moves then .next σ
    else if k.enabled then .next (σ.removeCore core value)
    else .next ((σ.setCore core { k with part := some part, enabled := en }).hyperNotice 30 0 core)

/-- VFBIND (R407): ignored while a queue of the VF is enabled. -/
def execVfbindWrite (vf : Nat) (value : Word) (σ : State) : Out :=
  if vf = 0 ∨ 64 < vf then .fault .noSuchUnit
  else if (List.range 64).any fun q => (σ.queueOf vf q).en then .next (σ.hyperNotice 29 vf (bindReg vf))
  else .next (σ.setReg 0 (bindReg vf) value)

/-! ## Time slices (R409) -/

/-- A VF has work for a turn: a ready node of a graph that runs, or a pooled task (log 17). -/
def State.hasReady (σ : State) (vf : Nat) : Bool :=
  decide (Tbl.get σ.frozen 0 vf < 2) &&
    (σ.graphs.any (fun p => decide (p.2.vf = vf) && !p.2.stopped && !p.2.finished && !p.2.ready.isEmpty)
      || σ.pool.any fun t => decide ((σ.nodeOf (σ.taskOf t).node).vf = vf))

/-- SLICEB of a VF's CAP, in ticks (R344). -/
def State.sliceBound (σ : State) (vf : Nat) : Nat := bits (σ.reg vf 0).toNat 63 32

/-- The VF after another in VF order, among those that have work. -/
def State.nextVf (σ : State) (p vf : Nat) : Option Nat :=
  let l := (σ.boundVfs p).filter σ.hasReady
  match l.find? fun v => decide (vf < v) with
  | some v => some v
  | none => l.head?

/-- The end of the turn's time is reached, or its VF has nothing left to run. -/
def State.turnDue (σ : State) (p : Nat) : Bool :=
  let u := σ.turnOf p
  decide (2 ≤ (σ.boundVfs p).length) && u.prev.isNone
    && (decide (u.vf = 0) || decide (u.ends ≤ σ.time) || (!σ.hasReady u.vf && !σ.vfHolds u.vf))
    && (σ.nextVf p u.vf).isSome

def State.setTurn (σ : State) (p : Nat) (u : Turn) : State := { σ with partTurn := Tbl.set σ.partTurn p u }

/-- A turn starts: its length is the slice bound, less what the VF has overrun (R340, R409). -/
def State.startTurn (σ : State) (p vf : Nat) : State :=
  let u := σ.turnOf p
  let b := σ.sliceBound vf
  let o := Tbl.get u.overrun 0 vf
  σ.setTurn p { vf := vf, ends := σ.time + (b - o), prev := none, overrun := Tbl.set u.overrun vf (o - b) }

/-- A turn with the time its VF has run past the end noted, up to now. -/
def Turn.charge (u : Turn) (vf now : Nat) : Turn :=
  { u with overrun := Tbl.set u.overrun vf (Tbl.get u.overrun 0 vf + (now - u.ends)), ends := max u.ends now, late := false }

/-- SLICE_TURN_END (R409): the next VF in order is in turn; while tasks of the outgoing one run or are saved, its nodes wait. A VF
that has run past its end is charged as it leaves (R340). -/
def execSliceTurnEnd (part : Nat) (σ : State) : Out :=
  if !σ.turnDue part then .next σ else
  let u := σ.turnOf part
  match σ.nextVf part u.vf with
  | none => .next σ
  | some v =>
    if u.vf ≠ 0 ∧ σ.vfHolds u.vf then .next (σ.setTurn part { u with vf := v, prev := some u.vf })
    else .next ((if u.late then σ.setTurn part (u.charge u.vf σ.time) else σ).startTurn part v)

/-- The outgoing VF's tasks have ended: its overrun is noted, and the incoming VF's time begins. A node that runs past the end while no VF is
ready is charged as it completes (R340). -/
def State.settleTurn (σ : State) (p : Nat) : State :=
  let u := σ.turnOf p
  match u.prev with
  | some o => if σ.vfHolds o then σ else (σ.setTurn p (u.charge o σ.time)).startTurn p u.vf
  | none =>
    if u.vf = 0 ∨ σ.time < u.ends then σ
    else if σ.vfHolds u.vf then (if u.late then σ else σ.setTurn p { u with late := true })
    else if u.late then σ.setTurn p (u.charge u.vf σ.time)
    else σ

/-! ## Migration (R411, R412) -/

def State.setMig (σ : State) (vf st : Nat) : State := { σ with frozen := Tbl.set σ.frozen vf st }
def State.migAddr (σ : State) : Nat := (σ.reg 0 0x5408).toNat
/-- A migration key is agreed: a secure session with mutual authentication on the PF's mailbox (R411, R419). -/
def State.migKey (σ : State) : Bool := let s := Tbl.get σ.spdm {} 0; s.session && s.bothKeys

def State.migStatus (σ : State) (value : Word) (code : Nat) : State :=
  σ.setReg 0 0x5400 (BitVec.ofNat 64 (value.toNat % 2 ^ 60 + code * 2 ^ 60))
/-- MIGLEN: the bytes the command wrote or read. -/
def State.setMigLen (σ : State) (n : Nat) : State := σ.setReg 0 0x5418 (BitVec.ofNat 64 n)
/-- A byte string sealed under a migration key, as it stands at MIGADDR: the length and the nonce, the ciphertext, the tag (log 16). -/
def sealRecord (key : BitVec 256) (nonce : BitVec 96) (p : List Byte) : List Byte :=
  let ks := roundKeys key
  let c := gcmCrypt ks nonce p
  natBytes 8 c.length ++ natBytes 12 nonce.toNat ++ c ++ natBytes 16 (gcmTag ks nonce c).toNat
/-- The byte string that stands sealed at an address: its length there, and the bytes, none where the tag fails (R411). -/
def State.openRecord (σ : State) (key : BitVec 256) (a : Nat) : Nat × Option (List Byte) :=
  let ks := roundKeys key
  let n := σ.memNat a 8
  let nonce := BitVec.ofNat 96 (σ.memNat (a + 8) 12)
  let c := (List.range n).map fun i => σ.memByte (a + 20 + i)
  (n + 36, if gcmTag ks nonce c = BitVec.ofNat 128 (σ.memNat (a + 20 + n) 16) then some (gcmCrypt ks nonce c) else none)
def State.migrationKey (σ : State) : BitVec 256 := Config.migrationKey (Tbl.get σ.spdm {} 0).keyNo
/-- A byte string is exported at MIGADDR under the migration key, with a nonce that is a free value (log 5). -/
def State.exportBytes (σ : State) (p : List Byte) : State :=
  let nonce : BitVec 96 := (Config.freeWord σ.fresh ++ Config.freeWord (σ.fresh + 1)).truncate 96
  let bs := sealRecord σ.migrationKey nonce p
  (({ σ with fresh := σ.fresh + 2 } : State).writeQuiet (bs.zipIdx.map fun x => (σ.migAddr + x.2, x.1))).setMigLen bs.length

/-- An operation runs in the states that list it, else STATUS 1 (R412); a command while one is in progress is ignored. -/
def State.migStart (σ : State) (value : Word) (states : List Nat) (key : Bool) (k : State → Nat → Out) : Out :=
  let vf := bits value.toNat 23 16
  if σ.migBusy then .next σ else
  let σ := σ.setMigLen 0
  if vf = 0 ∨ 64 < vf ∨ !states.contains (σ.migState vf) then .next (σ.migStatus value 1)
  else if key ∧ !σ.migKey then .next (σ.migStatus value 2)
  else k (σ.migStatus value 0) vf

/-- TRACK (R412): the dirty bitmap of 128 KiB is cleared, and writebacks, copy writes and re-seals set bits in it. -/
def execMigTrack (value : Word) (σ : State) : Out :=
  σ.migStart value [0] false fun σ vf =>
    let a := σ.migAddr
    let σ := (σ.writeQuiet ((σ.cellsIn a (a + 131072)).map fun p => (p.1, 0))).setMigLen 131072
    .next (({ σ with trackAt := Tbl.set σ.trackAt vf a } : State).setMig vf 1)

/-- FREEZE (R412): packets and launches stop, running tasks are saved at their boundaries, episodes end CANCELLED. -/
def execMigFreeze (value : Word) (σ : State) : Out :=
  σ.migStart value [0, 1] false fun σ vf =>
    let σ := σ.setMig vf 2
    let slots := ((List.range 32).flatMap fun c => [0, 1, 2, 3].map fun k => (c, k)).filter fun x => decide (σ.vfOf x.1 x.2 = vf)
    let σ := slots.foldl (fun σ x => σ.preemptLot x.1 x.2 .freeze) σ
    let eps := (σ.episodes.filter fun (p : Nat × Episode) => decide (p.1 / 4096 = vf)).map (·.1)
    .next (eps.foldl (fun σ i => σ.endEpisode vf (i % 4096) 5 0) σ)

/-- A tile as COPY exports it: its number, whether it is a zero tile, and its data where it is none. One that does not verify is left out
(R70, R412, log 16). -/
def State.tileRecord (σ : State) (t : Nat) : List Byte :=
  if (σ.tile t).bad then []
  else if (σ.tile t).z ∧ !σ.fcache.any (fun p => decide (tileOf p.1 = t)) then natBytes 8 t ++ [1]
  else natBytes 8 t ++ [0] ++ (List.range 4096).map fun i => σ.memByte (t * 4096 + i)
/-- What COPY exports of a range of frames: those of the VF, tile by tile (R412). -/
def State.copyRecord (σ : State) (vf first n : Nat) : List Byte :=
  (((List.range n).map (first + ·)).filter fun f => decide ((σ.frameRec f).owner = vf)).flatMap fun f => (frameTiles f).flatMap σ.tileRecord

/-- COPY (R412): the VF's frames of the range that MIGARG names are exported at MIGADDR. -/
def execMigCopy (value : Word) (σ : State) : Out :=
  σ.migStart value [1, 2] true fun σ vf =>
    let g := (σ.reg 0 0x5410).toNat
    .next (σ.exportBytes (1 :: σ.copyRecord vf (g % 2 ^ 20) (bits g 39 20 + 1)))

/-- The tasks of a VF with their slabs spilled into their areas. -/
def State.spillHeld (σ : State) (ts : List Nat) : State :=
  (σ.holder.filter fun (p : Nat × Nat) => ts.contains p.2 && decide (Tbl.get σ.accown 7 p.1 = 5)).foldl (fun σ p =>
    let σ := σ.spillTo p.2 (p.1 % 2048) (σ.slabData (p.1 / 2048) (p.1 % 2048))
    (({ σ with holder := Tbl.del σ.holder p.1 } : State).setCode (p.1 / 2048) (p.1 % 2048) 7)) σ

/-- The state of a VF that SAVE exports. -/
def State.migRecord (σ : State) (vf : Nat) : MigRec :=
  let nodes := σ.nodes.filter fun (p : Nat × Node) => decide (p.2.vf = vf)
  let tasks := σ.tasks.filter fun (p : Nat × Task) => decide ((σ.nodeOf p.2.node).vf = vf)
  let mine (t : Nat) : Bool := tasks.any fun p => decide (p.1 = t)
  { vf := vf, regs := σ.bar.filter fun (p : Nat × Word) => decide (p.1 / 2 ^ 24 = vf),
    queues := σ.queues.filter fun (p : Nat × Queue) => decide (p.1 / 64 = vf),
    graphs := σ.graphs.filter fun (p : Nat × Graph) => decide (p.2.vf = vf),
    nodes := nodes, tasks := tasks, pool := σ.pool.filter mine,
    watches := σ.watches.filter fun w =>
      (match w.task with
       | some t => mine t
       | none => false) || (match w.packet with
       | some (v, _, _) => decide (v = vf)
       | none => false),
    market := σ.market.map fun (p : Nat × MkSlice) =>
      (p.1, { p.2 with tuples := p.2.tuples.filter fun t => decide ((σ.frameRec t.frame).owner = vf),
                       parked := p.2.parked.filter fun r => mine r.task }),
    waiters := σ.gates.map fun (p : Nat × Gate) => (p.1, p.2.waiters.filter fun w => mine w.1),
    reqs := σ.cores.flatMap fun (p : Nat × Core) => p.2.reqs.filter fun r => mine r.task && decide ((σ.taskOf r.task).state = .waiting),
    polgen := Tbl.get σ.polgen 0 vf,
    tables := σ.tables.filter fun (p : Nat × Table) => decide (p.1 / 4 = vf) }

/-- SAVE (R412): MOVED in every export record of the VF (R398), then its state is exported. -/
def execMigSave (value : Word) (σ : State) : Out :=
  σ.migStart value [2] true fun σ vf =>
    let moved (r : List Word) : List Word := if expVf r = vf then (r.headD 0 ||| 8) :: r.tail else r
    let σ : State := { σ with exports := σ.exports.map fun (p : Nat × List Word) => (p.1, moved p.2) }
    let mine := (σ.tasks.filter fun (p : Nat × Task) => decide ((σ.nodeOf p.2.node).vf = vf)).map (·.1)
    let σ := σ.spillHeld mine
    let r := σ.migRecord vf
    let σ : State := { σ with migRecs := σ.migRecs ++ [r], trackAt := Tbl.del σ.trackAt vf }
    let σ := mine.foldl (fun σ t => σ.withdrawLeases t) σ
    .next ((σ.setMig vf 3).exportBytes (0 :: Config.recordBytes r))

/-- ABORT (R412): tracking stops and the VF runs again. -/
def execMigAbort (value : Word) (σ : State) : Out :=
  σ.migStart value [1, 2] false fun σ vf => .next ({ σ with trackAt := Tbl.del σ.trackAt vf }.setMig vf 0)

/-- A record's numbers of tasks, nodes and graphs behind those in use. -/
def MigRec.shift (r : MigRec) (dt dn dg : Nat) : MigRec :=
  { r with
    graphs := r.graphs.map fun (p : Nat × Graph) => (p.1 + dg, { p.2 with launched := p.2.launched.map fun (x : Nat × Nat) => (x.1, x.2 + dn) }),
    nodes := r.nodes.map fun (p : Nat × Node) => (p.1 + dn, { p.2 with graph := p.2.graph.map (· + dg) }),
    queues := r.queues.map fun (p : Nat × Queue) =>
      (p.1, { p.2 with packets := p.2.packets.map fun k => { k with graph := k.graph.map (· + dg) } }),
    tasks := r.tasks.map fun (p : Nat × Task) => (p.1 + dt, { p.2 with node := p.2.node + dn, core := none, ctxId := none, areaAt := none }),
    pool := r.pool.map (· + dt),
    watches := r.watches.map fun w => { w with task := w.task.map (· + dt) },
    market := r.market.map fun (p : Nat × MkSlice) => (p.1, { p.2 with parked := p.2.parked.map fun x => { x with task := x.task + dt } }),
    waiters := r.waiters.map fun (p : Nat × List (Nat × Word)) => (p.1, p.2.map fun w => (w.1 + dt, w.2)),
    reqs := r.reqs.map fun q => { q with task := q.task + dt } }

def mergeTbl {α : Type} (a b : Tbl α) : Tbl α := b.foldl (fun t p => Tbl.set t p.1 p.2) a

/-- A context area for a task that arrives with its state in one. -/
def State.giveArea (σ : State) (vf t : Nat) : State :=
  match (σ.taskOf t).cont, σ.freeArea vf with
  | some _, some i => ((σ.takeArea vf i).setTask t { σ.taskOf t with ctxId := some i }).writeArea t
  | _, _ => σ

/-- The record that imported bytes stand for: one that this device exported, else what another device's bytes are. -/
def State.recordFrom (σ : State) (p : List Byte) : Option MigRec :=
  (σ.migRecs.find? fun r => decide (Config.recordBytes r = p)).orElse fun _ => Config.recordOf p

/-- The state of a SAVE record becomes this device's (R412). A slice's tuples and parked requests follow those it holds, in their recorded
order. -/
def State.importRecord (σ : State) (vf : Nat) (r : MigRec) : State :=
  let top {α : Type} (l : Tbl α) : Nat := l.foldl (fun a p => max a (p.1 + 1)) 0
  let r := r.shift (max σ.nextTask (top σ.tasks)) (max σ.nextNode (top σ.nodes)) (max σ.nextGraph (top σ.graphs))
  let market := r.market.foldl (fun (m : Tbl MkSlice) p =>
    let s := Tbl.get m {} p.1
    let n := p.2.tuples.foldl (fun a t => max a (t.seq + 1)) (p.2.parked.foldl (fun a x => max a (x.seq + 1)) 0)
    Tbl.set m p.1
      { tuples := s.tuples ++ p.2.tuples.map fun t => { t with seq := t.seq + s.seq },
        parked := s.parked ++ p.2.parked.map fun x => { x with seq := x.seq + s.seq }, seq := s.seq + n }) σ.market
  let σ : State :=
    { σ with
      bar := mergeTbl σ.bar r.regs, queues := mergeTbl σ.queues r.queues, graphs := mergeTbl σ.graphs r.graphs,
      nodes := mergeTbl σ.nodes r.nodes, tasks := mergeTbl σ.tasks r.tasks, pool := σ.pool ++ r.pool,
      nextTask := max σ.nextTask (top r.tasks), nextNode := max σ.nextNode (top r.nodes), nextGraph := max σ.nextGraph (top r.graphs),
      watches := σ.watches ++ r.watches, market := market, polgen := Tbl.set σ.polgen vf r.polgen,
      gates := r.waiters.foldl (fun (g : Tbl Gate) p =>
        let x := Tbl.get g {} p.1
        if p.2.isEmpty then g else Tbl.set g p.1 { x with waiters := x.waiters ++ p.2 }) σ.gates,
      tables := mergeTbl σ.tables r.tables }
  let σ := r.tasks.foldl (fun σ p => σ.giveArea vf p.1) σ
  r.reqs.foldl (fun (σ : State) (q : LeaseReq) =>
    let tk := σ.taskOf q.task
    σ.setTask q.task { tk with cont := tk.cont.map fun a => { a with asked := some q } }) σ

/-- The tiles of a COPY record go into the VF's frames of the same numbers: their data, or a zero tile (R412, log 16). -/
def State.importTiles (σ : State) (vf : Nat) : Nat → List Byte → State
  | 0, _ => σ
  | n + 1, l =>
    if l.length < 9 then σ else
    let t := ((l.take 8).foldr (fun b a => b.toNat + 256 * a) 0)
    let z := (l.getD 8 0).getLsbD 0
    let mine := decide ((σ.frameRec (t / 512)).owner = vf)
    if z then
      State.importTiles (if mine then (σ.dropDirty (t * 4096) (t * 4096 + 4096)).sealZero t ((σ.tile t).ver + 1) (σ.newGen vf) else σ) vf n (l.drop 9)
    else
      State.importTiles (if mine then σ.writeQuiet (((l.drop 9).take 4096).zipIdx.map fun x => (t * 4096 + x.2, x.1)) else σ) vf n (l.drop 4105)

/-- LOAD (R412): a COPY record's tiles, or a SAVE record, is imported from MIGADDR; one whose tag fails, or that is no record of the VF, is
refused with STATUS 3 (R411). The VF is LOADED once its SAVE record is. -/
def execMigLoad (value : Word) (σ : State) : Out :=
  σ.migStart value [0] true fun σ vf =>
    let x := σ.openRecord σ.migrationKey σ.migAddr
    let σ := σ.setMigLen x.1
    match x.2 with
    | some (k :: p) =>
      if k = 1 then .next (σ.importTiles vf p.length p) else
      (match σ.recordFrom p with
       | some r => .next (if r.vf = vf then (σ.importRecord vf r).setMig vf 4 else σ.migStatus value 3)
       | none => .next (σ.migStatus value 3))
    | _ => .next (σ.migStatus value 3)

/-- RESUME (R412): imported watches are tested again, saved contexts and lease requests go to cores of the VF's partition, and the queues are
served. Parked requests stand in their slices in the recorded order. -/
def execMigResume (value : Word) (σ : State) : Out :=
  σ.migStart value [4] false fun σ vf =>
    let σ := σ.setMig vf 0
    let σ := σ.retest (σ.watches.map (·.pa))
    let mine := (σ.tasks.filter fun (p : Nat × Task) => decide ((σ.nodeOf p.2.node).vf = vf) && !p.2.state.ended).map (·.1)
    match σ.vfPart vf with
    | none => .next σ
    | some part => .next (mine.foldl (fun σ t => σ.rebind part 32 t) σ)

/-! ## The event stream and counters (R415, R416) -/

def tlmReg (p off : Nat) : Nat := 0x5500 + 64 * p + off

/-- EVCTL (R416): setting EN sets EVWIDX and EVDROPS to 0. -/
def execEvctlWrite (part : Nat) (value : Word) (σ : State) : Out :=
  if 32 ≤ part then .fault .noSuchUnit else
  let old := σ.reg 0 (tlmReg part 0x10)
  let σ := if value.getLsbD 0 && !old.getLsbD 0 then
      ({ (σ.setReg 0 (tlmReg part 0x20) 0).setReg 0 (tlmReg part 0x28) 0 with evGap := Tbl.del σ.evGap part } : State)
    else σ
  .next (σ.setReg 0 (tlmReg part 0x10) value)

/-- A partition's counters of an event rise by n, wrapping modulo 2^48 with OVF (R415). -/
def State.count (σ : State) (part vf event n : Nat) : State :=
  (List.range 64).foldl (fun σ i =>
    let so := 0x8000 + 1024 * part + 8 * i
    let sel := (σ.reg 0 so).toNat
    if sel.testBit 8 ∧ sel % 256 = event ∧ (!sel.testBit 24 ∨ bits sel 23 16 = vf) then
      let v := (σ.reg 0 (so + 0x200)).toNat + n
      let σ := σ.setReg 0 (so + 0x200) (BitVec.ofNat 64 (v % 2 ^ 48))
      if 2 ^ 48 ≤ v then σ.setReg 0 so (BitVec.ofNat 64 (sel % 2 ^ 63 + 2 ^ 63)) else σ
    else σ) σ

/-- One event is written, or dropped and counted (R416). -/
def State.evWrite (σ : State) (part : Nat) (entry : Nat) : State :=
  let ctl := (σ.reg 0 (tlmReg part 0x10)).toNat
  let w := (σ.reg 0 (tlmReg part 0x20)).toNat
  let n := bits ctl 4 1
  let drop (σ : State) : State :=
    let d := (σ.reg 0 (tlmReg part 0x28)).toNat
    let σ := σ.setReg 0 (tlmReg part 0x28) (BitVec.ofNat 64 (if 2 ^ 48 - 1 ≤ d then d else d + 1))
    ({ σ.count part 0 16 1 with evGap := Tbl.set σ.evGap part (Tbl.get σ.evGap 0 part + 1) } : State)
  if (σ.reg 0 (tlmReg part 0x18)).toNat + 2 ^ n < w + 1 then drop σ
  else
    match σ.feAddr (bits ctl 39 32) (σ.reg 0 (tlmReg part 8) + BitVec.ofNat 64 (32 * (w % 2 ^ n))) 32 .write with
    | .error _ => drop σ
    | .ok pa => (σ.writeNat pa 32 entry).setReg 0 (tlmReg part 0x20) (BitVec.ofNat 64 (w + 1))

/-- The 32 bytes of an event (R416). -/
def eventWord (time type src core slot vf payload : Nat) : Nat :=
  time % 2 ^ 64 + type % 256 * 2 ^ 64 + src % 256 * 2 ^ 72 + core % 256 * 2 ^ 80 + slot % 256 * 2 ^ 88 + vf % 256 * 2 ^ 96
    + payload % 2 ^ 128 * 2 ^ 128

/-- An event of a partition whose stream takes its type; a DROPS event goes before the first one after drops. -/
def State.event (σ : State) (part type src core slot vf payload : Nat) : State :=
  let ctl := (σ.reg 0 (tlmReg part 0x10)).toNat
  if !ctl.testBit 0 ∨ !ctl.testBit (16 + type) ∨ bits ctl 4 1 < 6 then σ else
  let gap := Tbl.get σ.evGap 0 part
  let room := decide ((σ.reg 0 (tlmReg part 0x20)).toNat + 2 ≤ (σ.reg 0 (tlmReg part 0x18)).toNat + 2 ^ bits ctl 4 1)
  let σ := if gap ≠ 0 ∧ room then
      let σ : State := { σ with evGap := Tbl.del σ.evGap part }
      σ.evWrite part (eventWord σ.time 7 src core slot vf gap)
    else σ
  if gap ≠ 0 ∧ !room then
    let d := (σ.reg 0 (tlmReg part 0x28)).toNat
    let σ := σ.setReg 0 (tlmReg part 0x28) (BitVec.ofNat 64 (if 2 ^ 48 - 1 ≤ d then d else d + 1))
    { σ.count part 0 16 1 with evGap := Tbl.set σ.evGap part (gap + 1) }
  else σ.evWrite part (eventWord σ.time type src core slot vf payload)

/-- The word at a context's PC, as its lot sees it. -/
def State.wordHere (σ : State) (core slot : Nat) : Option Instr :=
  let c := σ.ctxOf core slot
  match σ.translate core slot c.pc .fetch .near with
  | .ok x => if x.pa + 4 ≤ physLimit then decode .ctl (σ.lotRead c x.pa 4).1 else none
  | .error _ => none

/-- What a word that does not issue waits for, by the codes of R414; none where no code names it. -/
def State.waitCode (σ : State) (i : Instr) : Option Nat :=
  let full (l : Option (List Nat)) : Option Nat := if (l.getD []).any (σ.queueFull σ.core) then some 6 else none
  match i with
  | .ld _ _ _ _ => some 3
  | .atom _ _ _ _ _ _ _ _ => some 4
  | .acas _ _ _ _ _ _ _ => some 4
  | .mkdep _ _ => some 4
  | .mkrdT _ _ _ _ => some 4
  | .mktakeT _ _ _ _ => some 4
  | .forkVec _ _ => full (some [σ.ctx])
  | .forkMat _ k _ => full (σ.handleEngines (σ.rs k) false)
  | .forkCopy _ k _ => full (σ.handleEngines (σ.rs k) true)
  | .mark _ _ q => full (σ.qmaskEngines σ.core σ.ctx q)
  | .sets _ _ => full (some [σ.ctx])
  | .rclaim _ _ _ => some 7
  | .rwaitf _ _ => some 7
  | .rwaite _ _ => some 7
  | .twaitAny _ => some 8
  | .twaitAll _ => some 8
  | .rdvWait _ => some 9
  | .vany _ _ => some 10
  | .vall _ _ => some 10
  | .fenceX _ y _ =>
    if σ.cx.fenceWait.isSome then some 11 else full (some ((σ.enginesOf σ.core σ.ctx).filter fun e => meets y (enginePaths e)))
  | .ldc _ _ _ => some 12
  | .split _ => some 14
  | .mbact _ _ => some 15
  | _ => none

/-- The stall reason of a slot (R414): the first code that applies in the cycle. A word waits neither for its fetch (2) nor for a commit (5)
or the divider (13), which take no time in the model; where no code names what a word waits for, the reason is a free value (log 106). -/
def State.stallReason (σ : State) (core slot : Nat) : Nat :=
  let k := σ.coreOf core
  let c := σ.ctxOf core slot
  let z : State := { σ with core := core, ctx := slot }
  if k.issued = some (slot, σ.cycle) then 0
  else if c.stopped.isSome then 1
  else if c.yieldTo.isSome then 16
  else if k.ready.contains slot then (if k.issued = some (Config.fwCtx, σ.cycle) then 17 else 18)
  else ((σ.wordHere core slot).bind z.waitCode).getD ((Config.freeWord σ.fresh).toNat % 19)

/-- The engines of a slot that have work, as a queue mask (R148). -/
def State.busyMask (σ : State) (core slot : Nat) : Nat :=
  (σ.enginesOf core slot).foldl (fun a e =>
    let v := σ.engOf core e
    if v.queue.isEmpty ∧ v.run.isNone then a else a ||| 2 ^ (if e < 4 then 0 else e - 3)) 0

/-- PC_SAMPLE (R413, R414): the next slot after the last sampled one that holds a task. -/
def execPcSample (core : Nat) (σ : State) : Out :=
  if 32 ≤ core then .fault .noSuchUnit else
  let k := σ.coreOf core
  let p := σ.partOf core
  if !(σ.reg 0 (tlmReg p 0)).getLsbD 8 then .next σ else
  match ([1, 2, 3, 4].map fun i => (k.sampled + i) % 4).find? fun s => (σ.ctxOf core s).task.isSome with
  | none => .next σ
  | some s =>
    let c := σ.ctxOf core s
    let upc := match (σ.engOf core s).run with
      | some r => r.upc
      | none => 0
    let payload := c.pc.toNat + (upc % 1024 + σ.stallReason core s * 2 ^ 16 + σ.busyMask core s * 2 ^ 32) * 2 ^ 64
    let σ := σ.tickFresh.setCore core { k with sampled := s }
    .next (σ.event p 1 s core s (σ.vfOf core s) payload)

/-! ## Reads of registers (R344, R349, R358) -/

/-- A bit as a word's bit n. -/
def flagAt (b : Bool) (n : Nat) : Word := if b then BitVec.ofNat 64 (2 ^ n) else 0

/-- A VF's register as a 64-bit read finds it: the counters of its partition (R415), a queue's HALTED, EN and QRIDX, which stand in its
queue, and every other register's own value. -/
def State.readVf (σ : State) (vf off : Nat) : Word :=
  let q := (off - 0x1000) / 64
  if 0x800 ≤ off ∧ off < 0xA00 then
    match σ.vfPart vf with
    | some p => σ.reg 0 (0x8000 + 1024 * p + 0x200 + (off - 0x800))
    | none => 0
  else if 0x1000 ≤ off ∧ off < 0x2000 ∧ off % 64 = 8 then
    σ.reg vf off ||| flagAt (σ.queueOf vf q).halted 19 ||| flagAt (σ.queueOf vf q).en 0
  else if 0x1000 ≤ off ∧ off < 0x2000 ∧ off % 64 = 0x18 then BitVec.ofNat 64 (σ.queueOf vf q).ridx
  else σ.reg vf off

/-- A read of a register: a 32-bit access, an offset that is not listed and a write-only register read zero. CORECFG's and MIGCTL's BUSY
stand while their work goes on; BAR4's pending bits follow its table (log 88). -/
def State.readReg (σ : State) (bar off : Nat) (wide : Bool) : Word :=
  if 128 ≤ bar ∧ bar ≤ 192 then
    let w (i : Nat) : Nat :=
      if i < 256 then (σ.msixWord (bar - 128) i).toNat
      else if i = 512 ∨ i = 513 then
        ((List.range 32).filter fun b => Tbl.get σ.msixPending false ((bar - 128) * 64 + (i - 512) * 32 + b)).foldl (fun n b => n + 2 ^ b) 0
      else 0
    if off % 4 ≠ 0 then 0 else BitVec.ofNat 64 (w (off / 4) + if wide then w (off / 4 + 1) * 2 ^ 32 else 0)
  else if !wide ∨ off % 8 ≠ 0 ∨ 64 < bar then 0
  else if bar = 0 then
    σ.reg 0 off ||| flagAt (decide (0x5000 ≤ off) && decide (off < 0x5100) && (σ.coreOf ((off - 0x5000) / 8)).leaving.isSome) 63
      ||| flagAt (decide (off = 0x5400) && σ.migBusy) 63
  else σ.readVf bar off

end Sys2Proof.Machine
end

