-- ==== Sys2Proof/Machine/Security.lean ====
section
/-!
DEFINITION. Signed firmware and its update (27 R418, R421), the SPDM responder (R419, R420), errors (R389, R422, R423), power and
cooling (R424, R425), and package reset. Signatures, digests, keys and the layout of an image are free values (log 5, log 102); response
codes and the order of SPDM requests are those of the DMTF specification (PRESUMED, log 18).
-/

namespace Sys2Proof.Machine

/-! ## Fatal errors (R423) -/

/-- A fatal device error: every agent stops, and the management controller reports it. -/
def State.fatal (σ : State) (code : Nat) : State :=
  { σ with condition := 2, agenda := [], errors := σ.errors ++ [(code, 32)] }

/-! ## Firmware update (R421) -/

def State.bankOf (σ : State) (stage bank : Nat) : Bank := Tbl.get σ.banks { image := stage } (stage * 2 + bank)
def State.activeOf (σ : State) (stage : Nat) : Nat := Tbl.get σ.activeBank 0 stage

def State.fwuStatus (σ : State) (value : Word) (code : Nat) : State :=
  σ.setReg 0 0x6010 (BitVec.ofNat 64 (value.toNat % 2 ^ 60 / 2 * 2 + code * 2 ^ 60))

/-- A write of FWUCTL (R421); with GO the image is checked, then written to the inactive bank of its stage. Whether its signature verifies,
which SVN it carries and whether the flash takes it are free values; a bank that did not take it whole need not verify (log 77). A COMMIT
past the fuses is refused before the image is looked at (log 77). -/
def execFwuctlGo (value : Word) (σ : State) : Out :=
  let stage := bits value.toNat 3 1
  let len := (σ.reg 0 0x6008).toNat
  let inactive := stage * 2 + (1 - σ.activeOf stage)
  if !value.getLsbD 0 then
    .next (σ.setReg 0 0x6010 (BitVec.ofNat 64 (value.toNat % 2 ^ 60 + bits (σ.reg 0 0x6010).toNat 62 60 * 2 ^ 60)))
  else if stage = 0 ∨ stage = 7 ∨ len < 4096 ∨ 2 ^ 26 < len then .next (σ.fwuStatus value 3)
  else if value.getLsbD 8 ∧ 64 ≤ Tbl.get σ.fuses 0 stage then .next (σ.fwuStatus value 4)
  else
    let ok := Config.freeBool σ.fresh
    let svn := (Config.freeWord σ.fresh).toNat % 2 ^ 32
    let image := σ.fresh + 8
    let σ := σ.tickFresh
    if !ok then .next (σ.fwuStatus value 1)
    else if svn < Tbl.get σ.svnMin 0 stage then .next (σ.fwuStatus value 2)
    else if Config.freeBool σ.fresh then
      .next (({ σ.tickFresh with banks := Tbl.set σ.banks inactive { svn := svn, image := image, signed := Config.freeBool (σ.fresh + 1) } } : State).fwuStatus
        value 4)
    else
      let σ := { σ with banks := Tbl.set σ.banks inactive { svn := svn, image := image },
                        fwuNew := Tbl.set σ.fwuNew stage (value.getLsbD 8) }
      .next (σ.fwuStatus value 0)

/-! ## Reset and boot (R418) -/

/-- One stage boots (R418): the bank written by the last update first, else the active one; an image whose signature fails or that is below
the fused minimum is not run, and the other bank is tried. A committed update raises the minimum. The answer says whether the stage runs. -/
def State.bootStage (σ : State) (stage : Nat) : State × Bool :=
  let low := Tbl.get σ.svnMin 0 stage
  let act := σ.activeOf stage
  let new := Tbl.find? σ.fwuNew stage
  let first := if new.isSome then 1 - act else act
  let runs (b : Nat) : Bool := (σ.bankOf stage b).signed && decide (low ≤ (σ.bankOf stage b).svn)
  let σ' : State := { σ with fwuNew := Tbl.del σ.fwuNew stage }
  if runs first then
    let σ' : State := { σ' with activeBank := Tbl.set σ.activeBank stage first }
    if new = some true then
      ({ σ' with svnMin := Tbl.set σ.svnMin stage (σ.bankOf stage first).svn, fuses := Tbl.set σ.fuses stage (Tbl.get σ.fuses 0 stage + 1) }, true)
    else (σ', true)
  else if runs (1 - first) then ({ σ' with activeBank := Tbl.set σ.activeBank stage (1 - first) }, true)
  else (σ', false)

/-- The boot chain: each stage runs only where the one before it does; otherwise the package stays in recovery. -/
def State.boot : List Nat → State → State
  | [], σ => σ
  | s :: l, σ =>
    let r := σ.bootStage s
    if r.2 then State.boot l r.1 else { r.1 with condition := 1 }

/-- PACKAGE_RESET (R418): every unit as reset leaves it; flash, fuses and the host's own memory stay, and the boot chain runs. Nothing of the
far cache is written any more (R423). The identity keys are derived from the fuse seed again (R417), and every seal key is new (R365). -/
def execPackageReset (σ : State) : Out :=
  let host := Config.hostFrame * 2 ^ 21
  let σ' : State :=
    { State.reset with
      fresh := σ.fresh + 1, mem := σ.mem.filter fun c => decide (host ≤ c.1), sealDraw := σ.fresh + 1,
      fuseSeed := σ.fuseSeed, identity := Config.identityKeys σ.fuseSeed, certs := σ.certs,
      banks := σ.banks, activeBank := σ.activeBank, fwuNew := σ.fwuNew, svnMin := σ.svnMin, fuses := σ.fuses, errors := σ.errors }
  .next (State.boot [1, 2, 3, 4, 5, 6] σ')

/-! ## SPDM (R419, R420) -/

def State.spdmOf (σ : State) (m : Nat) : Spdm := Tbl.get σ.spdm {} m
def State.setSpdm (σ : State) (m : Nat) (v : Spdm) : State := { σ with spdm := Tbl.set σ.spdm m v }

/-- A response that carries n words whose values are free. -/
def State.spdmFree (σ : State) (m : Nat) (s : Spdm) (resp n : Nat) : Out :=
  let data := (List.range n).map fun i => Config.freeWord (σ.fresh + i)
  .next (({ σ with fresh := σ.fresh + n } : State).setSpdm m { s with resp := resp, data := data })

/-- ERROR with its code. -/
def State.spdmError (σ : State) (m code : Nat) : Out :=
  .next (σ.setSpdm m { σ.spdmOf m with resp := 0x7F, data := [BitVec.ofNat 64 code] })

/-- A request on a mailbox the package has (PF 0, VFs 1 to 64), once the requests before it have been answered. -/
def State.spdmAt (σ : State) (m phase : Nat) (k : Spdm → Out) : Out :=
  if 64 < m then .fault .noSuchUnit
  else if (σ.spdmOf m).phase < phase then σ.spdmError m 4 else k (σ.spdmOf m)

/-- GET_VERSION: the negotiation starts again, at version 1.4. -/
def execSpdmGetVersion (m : Nat) (σ : State) : Out :=
  σ.spdmAt m 0 fun _ => .next (σ.setSpdm m { phase := 1, resp := 0x04, data := [0x1400] })
/-- The capabilities of R419 by the flags of the DMTF specification (log 18): certificates, challenge, signed measurements, encryption, MAC,
mutual authentication, key exchange. -/
def spdmCaps : Word := 0x3D6
/-- What the device offers (R419), one bit each (log 18): ML-DSA-65, SHAKE256, ML-KEM-768, AES-256-GCM. -/
def spdmAlgs : Word := 0xF
/-- GET_CAPABILITIES. -/
def execSpdmGetCapabilities (m : Nat) (σ : State) : Out :=
  σ.spdmAt m 1 fun s => .next (σ.setSpdm m { s with phase := max s.phase 2, resp := 0x61, data := [spdmCaps] })
/-- NEGOTIATE_ALGORITHMS: the device selects what it offers; a requester that does not take one of them has no selection in common. -/
def execSpdmNegotiateAlgorithms (m : Nat) (algs : Word) (σ : State) : Out :=
  σ.spdmAt m 2 fun s =>
    if algs &&& spdmAlgs ≠ spdmAlgs then σ.spdmError m 1
    else .next (σ.setSpdm m { s with phase := max s.phase 3, algs := spdmAlgs, resp := 0x63, data := [spdmAlgs] })
/-- The eight words of a 512-bit digest, the lowest first. -/
def digestWords (d : BitVec 512) : List Word := (List.range 8).map fun i => BitVec.ofNat 64 (d.toNat / 2 ^ (64 * i))
/-- GET_DIGESTS: of the one certificate chain (R417). -/
def execSpdmGetDigests (m : Nat) (σ : State) : Out :=
  σ.spdmAt m 3 fun s => .next (σ.setSpdm m { s with resp := 0x01, data := digestWords (Config.chainDigest σ.certs) })
/-- GET_CERTIFICATE: the chain of R417 in slot 0; no other slot has one. -/
def execSpdmGetCertificate (m slot : Nat) (σ : State) : Out :=
  σ.spdmAt m 3 fun s => if slot = 0 then .next (σ.setSpdm m { s with resp := 0x02, data := σ.certs.flatten }) else σ.spdmError m 1
/-- CHALLENGE: signed with the device identity key. -/
def execSpdmChallenge (m : Nat) (_nonce : Word) (σ : State) : Out :=
  σ.spdmAt m 3 fun s => σ.spdmFree m s 0x03 8

/-- The words of a measurement block for a mailbox (R420), none where the mailbox does not return the block. -/
def State.measurement (σ : State) (m idx : Nat) : Option (List Word) :=
  if 1 ≤ idx ∧ idx ≤ 6 then
    some (digestWords (Config.imageDigest (σ.bankOf idx (σ.activeOf idx)).image))
  else if idx = 7 then some ([1, 2, 3, 4, 5, 6].map fun s => BitVec.ofNat 64 (Tbl.get σ.svnMin 0 s))
  else if idx = 8 ∧ m = 0 then
    some ((List.range 32).map (fun c => σ.reg 0 (coreReg c)) ++ (List.range 64).map (fun v => σ.reg 0 (bindReg (v + 1)))
      ++ (List.range 64).map fun v => σ.reg 0 (0x2000 + 8 * v))
  else if idx = 16 ∧ m ≠ 0 then
    let cores := match σ.vfPart m with
      | some p => (List.range 32).filter fun c => (σ.coreOf c).enabled && decide (σ.partOf c = p)
      | none => []
    some ([σ.reg 0 (bindReg m), σ.reg 0 (0x2000 + 8 * (m - 1)), σ.reg m 8] ++ cores.map fun c => σ.reg 0 (coreReg c))
  else none

/-- GET_MEASUREMENTS (R420): one block, or every block of the mailbox (255), read at one instant. -/
def execSpdmGetMeasurements (m idx : Nat) (σ : State) : Out :=
  σ.spdmAt m 3 fun s =>
    if idx = 255 then
      .next (σ.setSpdm m { s with resp := 0x60, data := ([1, 2, 3, 4, 5, 6, 7, 8, 16].filterMap (σ.measurement m)).flatten })
    else
      match σ.measurement m idx with
      | some l => .next (σ.setSpdm m { s with resp := 0x60, data := l })
      | none => σ.spdmError m 1

/-- KEY_EXCHANGE: a handshake opens; `both` says whether the requester authenticates itself too. -/
def execSpdmKeyExchange (m : Nat) (both : Bool) (σ : State) : Out :=
  σ.spdmAt m 3 fun s =>
    if s.session ∨ 4 ≤ s.phase then σ.spdmError m 4 else σ.spdmFree m { s with phase := 4, bothKeys := both, keyNo := σ.fresh } 0x64 8
/-- FINISH: the session is open. -/
def execSpdmFinish (m : Nat) (σ : State) : Out :=
  σ.spdmAt m 4 fun s => if s.session then σ.spdmError m 4 else .next (σ.setSpdm m { s with session := true, resp := 0x65, data := [] })
/-- END_SESSION. -/
def execSpdmEndSession (m : Nat) (σ : State) : Out :=
  σ.spdmAt m 4 fun s =>
    if s.session then .next (σ.setSpdm m { s with phase := 3, session := false, bothKeys := false, resp := 0x6C, data := [] })
    else σ.spdmError m 4
/-- Every other request: ERROR with UnsupportedRequest and the request's code. -/
def execSpdmUnsupported (m code : Nat) (σ : State) : Out := σ.spdmAt m 0 fun _ => σ.spdmError m (7 + code % 256 * 256)

/-! ## Errors (R389, R422) -/

/-- A line leaves the far cache, a dirty one with its data. -/
def State.dropLine (σ : State) (pa : Nat) : State :=
  let σ := σ.dropDirty (pa / 64 * 64) (pa / 64 * 64 + 64)
  let t := σ.tile (tileOf pa)
  σ.setTile (tileOf pa) { t with present := t.present.filter fun s => decide (s ≠ sectorOf pa) }

/-- VFs that own a frame f with f mod 64 = k, and whether firmware does (R389). -/
def State.classOwners (σ : State) (k : Nat) : List Nat :=
  (List.range 64).filterMap fun v =>
    if σ.frames.any fun p => decide (p.2.owner = v + 1) && decide (p.1 % 64 = k) then some (v + 1) else none
def State.classFirmware (σ : State) (k : Nat) : Bool :=
  (σ.frames.any fun p => decide (p.2.owner = 0) && decide (p.1 % 64 = k))
    || (List.range 16).any fun i => decide ((σ.frameRec (Config.hostFrame - 1024 + 64 * i + k)).owner = 0)

/-- Data lost in a set (R389): every VF that owns a frame of the class is killed; a firmware frame there is a fatal error. -/
def State.lostSet (σ : State) (slice set : Nat) : State :=
  let k := set / 32
  let σ' := (σ.classOwners k).foldl (fun σ v => σ.killVf v (slice % 64 + set % 2048 * 2 ^ 16) true) σ
  if σ.classFirmware k then σ'.fatal causeTagParity else σ'

/-- A line is dirty in the far cache. -/
def State.lineDirty (σ : State) (pa : Nat) : Bool := σ.fcache.any fun p => decide (p.1 / 64 = pa / 64)

/-- TAG_PARITY (R389): `line` is the address of the line whose tag failed, and `dirty` says that its dirty state fails parity too. A clean
line is invalidated; a dirty one is lost. Firmware is told the slice and set, the hypervisor of the error (R422); firmware releases the
set within the step, its service done (log 103). -/
def execTagParity (slice set line : Nat) (dirty : Bool) (σ : State) : Out :=
  if 64 ≤ slice ∨ 2048 ≤ set then .fault .noSuchUnit else
  let core := slice / 16 * 8
  let lost := dirty || σ.lineDirty line
  let σ := σ.raiseEvent core 32 causeTagParity
  let σ := σ.setCore core { σ.coreOf core with parityAt := some (slice + set * 2 ^ 16) }
  let σ := (σ.hyperNotice 31 (σ.frameRec (frameOf line)).owner line).dropLine line
  .next (if lost then σ.lostSet slice set else σ)

/-- The far-cache set of an address (R389). -/
def setOf (pa : Nat) : Nat := 32 * (pa / 2 ^ 21 % 64) + pa / 64 % 32

/-- A VF is killed for an error in a buffer, with its unit and word index (R422). -/
def State.killFor (σ : State) (vf unit addr : Nat) : State :=
  if 1 ≤ vf ∧ vf ≤ 64 then σ.killVf vf (unit + addr % 2 ^ 32 * 2 ^ 16) true else σ

/-- MEM_UE (R422). Places: 0 HBM tile data or metadata at address `addr`; 1 far-cache data at `addr`; 2 to 5 a word of A, W, C or L of the
context `who` = core * 8 + slot; 6 Rink SRAM of the VF `who`; 7 firmware memory, hub-die state or the Rink monitor; 8 any of them, where
SECDED corrects the error, which is counted and raises nothing (log 50). `dirty` says that the dirty state of the line fails too. -/
def execMemUe (place addr who : Nat) (dirty : Bool) (σ : State) : Out :=
  let vf := if place ≤ 1 then (σ.frameRec (frameOf addr)).owner else if place ≤ 5 then σ.vfOf (who / 8) (who % 8) else if place = 6 then who else 0
  if 8 < place then .fault .noSuchUnit
  else if place = 8 then .next { σ with corrected := σ.corrected + 1 } else
  let lost := dirty || σ.lineDirty addr
  let σ := σ.hyperNotice 31 vf addr
  .next
    (if place = 0 then
       let t := tileOf addr
       σ.setTile t { σ.tile t with bad := true, spoiled := true, tag := BitVec.ofNat 64 (σ.metaWord t / 2 ^ 64) }
     else if place = 1 then
       let σ := σ.dropLine addr
       if lost then σ.lostSet (homeSlice addr) (setOf addr) else σ
     else if place ≤ 6 then σ.killFor vf (place - 1) addr
     else σ.fatal 0)

/-! ## Power and cooling (R424, R425) -/

/-- The package is held in reset: what is fused or in flash stays, and the host's own memory. -/
def State.heldReset (σ : State) : State :=
  { State.reset with
    condition := 3, fresh := σ.fresh + 1, cycle := σ.cycle, clock := σ.clock, mem := σ.mem.filter (fun c => decide (Config.hostFrame * 2 ^ 21 ≤ c.1)),
    sealDraw := σ.fresh + 1, fuseSeed := σ.fuseSeed, identity := Config.identityKeys σ.fuseSeed, certs := σ.certs,
    banks := σ.banks, activeBank := σ.activeBank, fwuNew := σ.fwuNew, svnMin := σ.svnMin, fuses := σ.fuses, errors := σ.errors }
/-- THERMAL_TRIP (R424): the package is held in reset. -/
def execThermalTrip (σ : State) : Out := .next σ.heldReset

/-- The highest step of the arithmetic clock, 1.0 to 3.0 GHz, whose measured power is within the cap and whose junction temperature is
below 105 degrees; the lowest where there is none (R425, log 19). -/
def governorStep (power : Nat → Nat) (temp cap : Nat) : Nat :=
  if temp < 105 then
    match ((List.range 21).map fun i => 30 - i).find? fun f => decide (power f ≤ cap) with
    | some f => f
    | none => 10
  else 10

/-- GOVERNOR_EVALUATION (R425): the arithmetic clock takes its step; nothing else changes. A junction at the trip point holds the package in
reset (R424). -/
def execGovernorEvaluation (σ : State) : Out :=
  if 115 ≤ Config.junction σ.fresh then .next σ.heldReset else
  let cap := (σ.reg 0 0x6100).toNat % 4096
  let f := governorStep (fun s => Config.packagePower s σ.fresh) (Config.junction σ.fresh) cap
  let v := (σ.reg 0 0x6100).toNat
  let σ := σ.tickFresh.setReg 0 0x6100 (BitVec.ofNat 64 (f * 2 ^ 24 + v % 2 ^ 24))
  .next { σ with arithClk := f }

end Sys2Proof.Machine
end

