-- ==== Sys2Proof/Machine/Dispatch.lean ====
section
/-!
DEFINITION. One arm per constructor of `Instr`: the meaning of the instruction or step.
-/

namespace Sys2Proof.Machine

def exec (i : Instr) (s : State) : Host.Outcome State Fault Refusal :=
  match i with
  | .add d rs t => Sys2Proof.Machine.execAdd d rs t s
  | .sub d rs t => Sys2Proof.Machine.execSub d rs t s
  | .and d rs t => Sys2Proof.Machine.execAnd d rs t s
  | .or d rs t => Sys2Proof.Machine.execOr d rs t s
  | .xor d rs t => Sys2Proof.Machine.execXor d rs t s
  | .andn d rs t => Sys2Proof.Machine.execAndn d rs t s
  | .sll d rs t => Sys2Proof.Machine.execSll d rs t s
  | .srl d rs t => Sys2Proof.Machine.execSrl d rs t s
  | .sra d rs t => Sys2Proof.Machine.execSra d rs t s
  | .ror d rs t => Sys2Proof.Machine.execRor d rs t s
  | .mul d rs t => Sys2Proof.Machine.execMul d rs t s
  | .mulh d rs t => Sys2Proof.Machine.execMulh d rs t s
  | .mulhu d rs t => Sys2Proof.Machine.execMulhu d rs t s
  | .div d rs t => Sys2Proof.Machine.execDiv d rs t s
  | .divu d rs t => Sys2Proof.Machine.execDivu d rs t s
  | .rem d rs t => Sys2Proof.Machine.execRem d rs t s
  | .remu d rs t => Sys2Proof.Machine.execRemu d rs t s
  | .min d rs t => Sys2Proof.Machine.execMin d rs t s
  | .max d rs t => Sys2Proof.Machine.execMax d rs t s
  | .minu d rs t => Sys2Proof.Machine.execMinu d rs t s
  | .maxu d rs t => Sys2Proof.Machine.execMaxu d rs t s
  | .adds d rs t => Sys2Proof.Machine.execAdds d rs t s
  | .subs d rs t => Sys2Proof.Machine.execSubs d rs t s
  | .clz d rs => Sys2Proof.Machine.execClz d rs s
  | .ctz d rs => Sys2Proof.Machine.execCtz d rs s
  | .popc d rs => Sys2Proof.Machine.execPopc d rs s
  | .sext8 d rs => Sys2Proof.Machine.execSext8 d rs s
  | .sext16 d rs => Sys2Proof.Machine.execSext16 d rs s
  | .sext32 d rs => Sys2Proof.Machine.execSext32 d rs s
  | .zext32 d rs => Sys2Proof.Machine.execZext32 d rs s
  | .movf d f => Sys2Proof.Machine.execMovf d f s
  | .movb d b => Sys2Proof.Machine.execMovb d b s
  | .addi d rs ix => Sys2Proof.Machine.execAddi d rs ix s
  | .andi d rs ix => Sys2Proof.Machine.execAndi d rs ix s
  | .ori d rs ix => Sys2Proof.Machine.execOri d rs ix s
  | .xori d rs ix => Sys2Proof.Machine.execXori d rs ix s
  | .slli d rs h => Sys2Proof.Machine.execSlli d rs h s
  | .srli d rs h => Sys2Proof.Machine.execSrli d rs h s
  | .srai d rs h => Sys2Proof.Machine.execSrai d rs h s
  | .rori d rs h => Sys2Proof.Machine.execRori d rs h s
  | .li d ix => Sys2Proof.Machine.execLi d ix s
  | .lih d ix => Sys2Proof.Machine.execLih d ix s
  | .muli d rs ix => Sys2Proof.Machine.execMuli d rs ix s
  | .cmp f c rs t => Sys2Proof.Machine.execCmp f c rs t s
  | .cmpi f c rs ix => Sys2Proof.Machine.execCmpi f c rs ix s
  | .prep b o => Sys2Proof.Machine.execPrep b o s
  | .xfer b f => Sys2Proof.Machine.execXfer b f s
  | .xferN b f => Sys2Proof.Machine.execXferN b f s
  | .xferA b => Sys2Proof.Machine.execXferA b s
  | .xferL b f n a t => Sys2Proof.Machine.execXferL b f n a t s
  | .xferR f n a t => Sys2Proof.Machine.execXferR f n a t s
  | .vany f p => Sys2Proof.Machine.execVany f p s
  | .vall f p => Sys2Proof.Machine.execVall f p s
  | .flagAnd d a b => Sys2Proof.Machine.execFlagAnd d a b s
  | .flagOr d a b => Sys2Proof.Machine.execFlagOr d a b s
  | .flagXor d a b => Sys2Proof.Machine.execFlagXor d a b s
  | .flagAndn d a b => Sys2Proof.Machine.execFlagAndn d a b s
  | .flagNot d a => Sys2Proof.Machine.execFlagNot d a s
  | .flagSet d v => Sys2Proof.Machine.execFlagSet d v s
  | .ld d b z o => Sys2Proof.Machine.execLd d b z o s
  | .st d b z o => Sys2Proof.Machine.execSt d b z o s
  | .ldl d b z o => Sys2Proof.Machine.execLdl d b z o s
  | .stl d b z o => Sys2Proof.Machine.execStl d b z o s
  | .lda d b z o => Sys2Proof.Machine.execLda d b z o s
  | .sta d b z o => Sys2Proof.Machine.execSta d b z o s
  | .ldc d b o => Sys2Proof.Machine.execLdc d b o s
  | .ldcNowait d b o => Sys2Proof.Machine.execLdcNowait d b o s
  | .pref b z o => Sys2Proof.Machine.execPref b z o s
  | .atom d b t o w f r rs => Sys2Proof.Machine.execAtom d b t o w f r rs s
  | .acas d b t w f r rs => Sys2Proof.Machine.execAcas d b t w f r rs s
  | .mkdep g b => Sys2Proof.Machine.execMkdep g b s
  | .mkrdT g b m f => Sys2Proof.Machine.execMkrdT g b m f s
  | .mkrdW b m r => Sys2Proof.Machine.execMkrdW b m r s
  | .mktakeT g b m f => Sys2Proof.Machine.execMktakeT g b m f s
  | .mktakeW b m r => Sys2Proof.Machine.execMktakeW b m r s
  | .gets d n => Sys2Proof.Machine.execGets d n s
  | .sets rs n => Sys2Proof.Machine.execSets rs n s
  | .forkVec h e => Sys2Proof.Machine.execForkVec h e s
  | .forkMat h k e => Sys2Proof.Machine.execForkMat h k e s
  | .forkCopy h k e => Sys2Proof.Machine.execForkCopy h k e s
  | .mark rs n q => Sys2Proof.Machine.execMark rs n q s
  | .rdvSet v rs q => Sys2Proof.Machine.execRdvSet v rs q s
  | .rdvWait v => Sys2Proof.Machine.execRdvWait v s
  | .rdvTest v f => Sys2Proof.Machine.execRdvTest v f s
  | .qdrop rs q => Sys2Proof.Machine.execQdrop rs q s
  | .twaitAny rs => Sys2Proof.Machine.execTwaitAny rs s
  | .twaitAll rs => Sys2Proof.Machine.execTwaitAll rs s
  | .tffr d rs => Sys2Proof.Machine.execTffr d rs s
  | .tcancel rs => Sys2Proof.Machine.execTcancel rs s
  | .rset c rs => Sys2Proof.Machine.execRset c rs s
  | .rclaim c d rs => Sys2Proof.Machine.execRclaim c d rs s
  | .rdone c rs => Sys2Proof.Machine.execRdone c rs s
  | .rwaitf c rs => Sys2Proof.Machine.execRwaitf c rs s
  | .rwaite c rs => Sys2Proof.Machine.execRwaite c rs s
  | .radv c rs => Sys2Proof.Machine.execRadv c rs s
  | .rget c d rs => Sys2Proof.Machine.execRget c d rs s
  | .phase r => Sys2Proof.Machine.execPhase r s
  | .fenceX x y rs => Sys2Proof.Machine.execFenceX x y rs s
  | .waitc rs t m c => Sys2Proof.Machine.execWaitc rs t m c s
  | .signalSet rs t => Sys2Proof.Machine.execSignalSet rs t s
  | .signalAdd rs t => Sys2Proof.Machine.execSignalAdd rs t s
  | .leaseW d m q => Sys2Proof.Machine.execLeaseW d m q s
  | .leaseT d q => Sys2Proof.Machine.execLeaseT d q s
  | .leasecW d m c => Sys2Proof.Machine.execLeasecW d m c s
  | .leasecT d c => Sys2Proof.Machine.execLeasecT d c s
  | .unlease rs => Sys2Proof.Machine.execUnlease rs s
  | .split p => Sys2Proof.Machine.execSplit p s
  | .kick rs => Sys2Proof.Machine.execKick rs s
  | .mbact rs t => Sys2Proof.Machine.execMbact rs t s
  | .mbobsW rs t m => Sys2Proof.Machine.execMbobsW rs t m s
  | .mbobsT d rs t => Sys2Proof.Machine.execMbobsT d rs t s
  | .strm q rs => Sys2Proof.Machine.execStrm q rs s
  | .txset t rs p => Sys2Proof.Machine.execTxset t rs p s
  | .txsetM t rs => Sys2Proof.Machine.execTxsetM t rs s
  | .cvset v rs => Sys2Proof.Machine.execCvset v rs s
  | .deadA rs c => Sys2Proof.Machine.execDeadA rs c s
  | .deadW rs c => Sys2Proof.Machine.execDeadW rs c s
  | .yield => Sys2Proof.Machine.execYield s
  | .exit => Sys2Proof.Machine.execExit s
  | .trap c => Sys2Proof.Machine.execTrap c s
  | .eret rs t => Sys2Proof.Machine.execEret rs t s
  | .ctxsv d rs t => Sys2Proof.Machine.execCtxsv d rs t s
  | .ctxld d rs t => Sys2Proof.Machine.execCtxld d rs t s
  | .accspill d rs t => Sys2Proof.Machine.execAccspill d rs t s
  | .keyld d rs t => Sys2Proof.Machine.execKeyld d rs t s
  | .wdog rs => Sys2Proof.Machine.execWdog rs s
  | .vadd d a b x y g => Sys2Proof.Machine.execVadd d a b x y g s
  | .vsub d a b x y g => Sys2Proof.Machine.execVsub d a b x y g s
  | .vmul d a b x y g => Sys2Proof.Machine.execVmul d a b x y g s
  | .vfma d a b x y g => Sys2Proof.Machine.execVfma d a b x y g s
  | .vadds d a b x y g => Sys2Proof.Machine.execVadds d a b x y g s
  | .vsubs d a b x y g => Sys2Proof.Machine.execVsubs d a b x y g s
  | .vmin d a b x y g => Sys2Proof.Machine.execVmin d a b x y g s
  | .vmax d a b x y g => Sys2Proof.Machine.execVmax d a b x y g s
  | .vmulh d a b x y g => Sys2Proof.Machine.execVmulh d a b x y g s
  | .vand d a b x y g => Sys2Proof.Machine.execVand d a b x y g s
  | .vor d a b x y g => Sys2Proof.Machine.execVor d a b x y g s
  | .vxor d a b x y g => Sys2Proof.Machine.execVxor d a b x y g s
  | .vshl d a b x y g => Sys2Proof.Machine.execVshl d a b x y g s
  | .vshr d a b x y g => Sys2Proof.Machine.execVshr d a b x y g s
  | .vhash d a b x y g => Sys2Proof.Machine.execVhash d a b x y g s
  | .vceq d a b x y g => Sys2Proof.Machine.execVceq d a b x y g s
  | .vcne d a b x y g => Sys2Proof.Machine.execVcne d a b x y g s
  | .vclt d a b x y g => Sys2Proof.Machine.execVclt d a b x y g s
  | .vcle d a b x y g => Sys2Proof.Machine.execVcle d a b x y g s
  | .vcgt d a b x y g => Sys2Proof.Machine.execVcgt d a b x y g s
  | .vcge d a b x y g => Sys2Proof.Machine.execVcge d a b x y g s
  | .vsel d a b x y g => Sys2Proof.Machine.execVsel d a b x y g s
  | .vmov d a x g => Sys2Proof.Machine.execVmov d a x g s
  | .vcvt d a m t x g => Sys2Proof.Machine.execVcvt d a m t x g s
  | .vqnt d a m t x g => Sys2Proof.Machine.execVqnt d a m t x g s
  | .vdq d a b x y g => Sys2Proof.Machine.execVdq d a b x y g s
  | .vaddi d a ix g => Sys2Proof.Machine.execVaddi d a ix g s
  | .vmuli d a ix g => Sys2Proof.Machine.execVmuli d a ix g s
  | .vandi d a ix g => Sys2Proof.Machine.execVandi d a ix g s
  | .vori d a ix g => Sys2Proof.Machine.execVori d a ix g s
  | .vxori d a ix g => Sys2Proof.Machine.execVxori d a ix g s
  | .vshli d a ix g => Sys2Proof.Machine.execVshli d a ix g s
  | .vshri d a ix g => Sys2Proof.Machine.execVshri d a ix g s
  | .vsplat d ix g => Sys2Proof.Machine.execVsplat d ix g s
  | .vmini d a ix g => Sys2Proof.Machine.execVmini d a ix g s
  | .vmaxi d a ix g => Sys2Proof.Machine.execVmaxi d a ix g s
  | .vlda d a o g => Sys2Proof.Machine.execVlda d a o g s
  | .vsta d a o x g => Sys2Proof.Machine.execVsta d a o x g s
  | .vldc d a o g => Sys2Proof.Machine.execVldc d a o g s
  | .vldcNowait d a o g => Sys2Proof.Machine.execVldcNowait d a o g s
  | .vstc d a o x g => Sys2Proof.Machine.execVstc d a o x g s
  | .vgath d a b g => Sys2Proof.Machine.execVgath d a b g s
  | .vscat d a b x g => Sys2Proof.Machine.execVscat d a b x g s
  | .vatom d a o f g => Sys2Proof.Machine.execVatom d a o f g s
  | .vperm d a b x y g => Sys2Proof.Machine.execVperm d a b x y g s
  | .vshuf d a k h g => Sys2Proof.Machine.execVshuf d a k h g s
  | .vred d a p x g => Sys2Proof.Machine.execVred d a p x g s
  | .vscan d a p x g => Sys2Proof.Machine.execVscan d a p x g s
  | .vplog d a o b g => Sys2Proof.Machine.execVplog d a o b g s
  | .vhalt => Sys2Proof.Machine.execVhalt s
  | .vfl f l v => Sys2Proof.Machine.execVfl f l v s
  | .exp2 d a x g => Sys2Proof.Machine.execExp2 d a x g s
  | .log2 d a x g => Sys2Proof.Machine.execLog2 d a x g s
  | .rcp d a x g => Sys2Proof.Machine.execRcp d a x g s
  | .rsq d a x g => Sys2Proof.Machine.execRsq d a x g s
  | .vabs d a x g => Sys2Proof.Machine.execVabs d a x g s
  | .vneg d a x g => Sys2Proof.Machine.execVneg d a x g s
  | .vclz d a x g => Sys2Proof.Machine.execVclz d a x g s
  | .vpopc d a x g => Sys2Proof.Machine.execVpopc d a x g s
  | .mma f l h v a b rs m => Sys2Proof.Machine.execMma f l h v a b rs m s
  | .conv f l h v c a b m k => Sys2Proof.Machine.execConv f l h v c a b m k s
  | .accz f l v n rs => Sys2Proof.Machine.execAccz f l v n rs s
  | .accmv f l v q c rs => Sys2Proof.Machine.execAccmv f l v q c rs s
  | .swait f l v q n => Sys2Proof.Machine.execSwait f l v q n s
  | .sadv f l v q n => Sys2Proof.Machine.execSadv f l v q n s
  | .smark f l v n m => Sys2Proof.Machine.execSmark f l v n m s
  | .linkcfg f l v k c m q => Sys2Proof.Machine.execLinkcfg f l v k c m q s
  | .wld f l v b => Sys2Proof.Machine.execWld f l v b s
  | .accld f l v q rs => Sys2Proof.Machine.execAccld f l v q rs s
  | .srst f l v q => Sys2Proof.Machine.execSrst f l v q s
  | .matNop f l v => Sys2Proof.Machine.execMatNop f l v s
  | .matHalt => Sys2Proof.Machine.execMatHalt s
  | .cld f l e t x v g b => Sys2Proof.Machine.execCld f l e t x v g b s
  | .cldRing f l e t x v g c => Sys2Proof.Machine.execCldRing f l e t x v g c s
  | .cst f l e t x v g b => Sys2Proof.Machine.execCst f l e t x v g b s
  | .cstRing f l e t x v g c => Sys2Proof.Machine.execCstRing f l e t x v g c s
  | .cstq e t x g b m y => Sys2Proof.Machine.execCstq e t x g b m y s
  | .cmc e t x a b k => Sys2Proof.Machine.execCmc e t x a b k s
  | .cga e t x g ix b => Sys2Proof.Machine.execCga e t x g ix b s
  | .csc e t x g ix b => Sys2Proof.Machine.execCsc e t x g ix b s
  | .crw e t x a b => Sys2Proof.Machine.execCrw e t x a b s
  | .cred e t x a b => Sys2Proof.Machine.execCred e t x a b s
  | .cldm e t x g c k follow => Sys2Proof.Machine.execCldm e t x g c k follow s
  | .cwt f l e v c n => Sys2Proof.Machine.execCwt f l e v c n s
  | .cadv f l e v c n => Sys2Proof.Machine.execCadv f l e v c n s
  | .cmark e n m => Sys2Proof.Machine.execCmark e n m s
  | .cnop f l e v => Sys2Proof.Machine.execCnop f l e v s
  | .chalt => Sys2Proof.Machine.execChalt s
  | .chaltS => Sys2Proof.Machine.execChaltS s
  | .mbRecv rs d => Sys2Proof.Machine.execMbRecv rs d s
  | .mbSend t rs => Sys2Proof.Machine.execMbSend t rs s
  | .mbPoll d => Sys2Proof.Machine.execMbPoll d s
  | .epStep => Sys2Proof.Machine.execEpStep s
  | .epExit rs => Sys2Proof.Machine.execEpExit rs s
  | .rv64gc w => Sys2Proof.Machine.execRv64gc w s
  | .stepBudget vf ep => Sys2Proof.Machine.execStepBudget vf ep s
  | .quantumExpiry rink => Sys2Proof.Machine.execQuantumExpiry rink s
  | .episodeArm vf ep => Sys2Proof.Machine.execEpisodeArm vf ep s
  | .episodeCancel vf ep => Sys2Proof.Machine.execEpisodeCancel vf ep s
  | .episodePlace die => Sys2Proof.Machine.execEpisodePlace die s
  | .epres vf value => Sys2Proof.Machine.execEpres vf value s
  | .eptbaseWrite vf value => Sys2Proof.Machine.execEptbaseWrite vf value s
  | .eptcntWrite vf value => Sys2Proof.Machine.execEptcntWrite vf value s
  | .polupd vf value => Sys2Proof.Machine.execPolupd vf value s
  | .taskDispatch core slot => Sys2Proof.Machine.execTaskDispatch core slot s
  | .stealAck task => Sys2Proof.Machine.execStealAck task s
  | .stealWithdraw task => Sys2Proof.Machine.execStealWithdraw task s
  | .stealTimeout task => Sys2Proof.Machine.execStealTimeout task s
  | .stealRecovery core slot => Sys2Proof.Machine.execStealRecovery core slot s
  | .lotComplete core slot => Sys2Proof.Machine.execLotComplete core slot s
  | .continuationEnqueue task => Sys2Proof.Machine.execContinuationEnqueue task s
  | .postedAbort core slot => Sys2Proof.Machine.execPostedAbort core slot s
  | .nodeKill node => Sys2Proof.Machine.execNodeKill node s
  | .postedFault core slot => Sys2Proof.Machine.execPostedFault core slot s
  | .stallLimit core slot => Sys2Proof.Machine.execStallLimit core slot s
  | .yieldExpiry core slot => Sys2Proof.Machine.execYieldExpiry core slot s
  | .allocatorDecision core => Sys2Proof.Machine.execAllocatorDecision core s
  | .classAging core => Sys2Proof.Machine.execClassAging core s
  | .wholeHold core => Sys2Proof.Machine.execWholeHold core s
  | .planChange core => Sys2Proof.Machine.execPlanChange core s
  | .fragmentDrained core seq => Sys2Proof.Machine.execFragmentDrained core seq s
  | .engineCommandStart core engine => Sys2Proof.Machine.execEngineCommandStart core engine s
  | .passRetire core seq => Sys2Proof.Machine.execPassRetire core seq s
  | .weightLoadComplete core seq => Sys2Proof.Machine.execWeightLoadComplete core seq s
  | .copyStepComplete core eng idx => Sys2Proof.Machine.execCopyStepComplete core eng idx s
  | .cldmFollowOn core eng idx => Sys2Proof.Machine.execCldmFollowOn core eng idx s
  | .programRetire core engine => Sys2Proof.Machine.execProgramRetire core engine s
  | .markerRetire core engine => Sys2Proof.Machine.execMarkerRetire core engine s
  | .accForeign core slab slot => Sys2Proof.Machine.execAccForeign core slab slot s
  | .accrel value => Sys2Proof.Machine.execAccrel value s
  | .faultres vf value => Sys2Proof.Machine.execFaultres vf value s
  | .mkFullRetry core slot => Sys2Proof.Machine.execMkFullRetry core slot s
  | .writeback tile => Sys2Proof.Machine.execWriteback tile s
  | .hostMemAccess wr pa size value => Sys2Proof.Machine.execHostMemAccess wr pa size value s
  | .queueKick vf q => Sys2Proof.Machine.execQueueKick vf q s
  | .queueCancel vf q value => Sys2Proof.Machine.execQueueCancel vf q value s
  | .queueCtlWrite vf q value => Sys2Proof.Machine.execQueueCtlWrite vf q value s
  | .verselWrite vf value => Sys2Proof.Machine.execVerselWrite vf value s
  | .noderel vf value => Sys2Proof.Machine.execNoderel vf value s
  | .registerWrite bar off value wide => Sys2Proof.Machine.execRegisterWrite bar off value wide s
  | .packetAccept fe => Sys2Proof.Machine.execPacketAccept fe s
  | .packetLaunchGraph vf q idx gtab csig cval => Sys2Proof.Machine.execPacketLaunchGraph vf q idx gtab csig cval s
  | .packetSignal vf q idx addr val add => Sys2Proof.Machine.execPacketSignal vf q idx addr val add s
  | .packetWait vf q idx addr val cond => Sys2Proof.Machine.execPacketWait vf q idx addr val cond s
  | .packetCopy vf q idx src dst len => Sys2Proof.Machine.execPacketCopy vf q idx src dst len s
  | .packetMarker vf q idx addr val => Sys2Proof.Machine.execPacketMarker vf q idx addr val s
  | .nodeLaunch graph => Sys2Proof.Machine.execNodeLaunch graph s
  | .nodeComplete node => Sys2Proof.Machine.execNodeComplete node s
  | .sliceTurnEnd part => Sys2Proof.Machine.execSliceTurnEnd part s
  | .tableLoad value => Sys2Proof.Machine.execTableLoad value s
  | .tableEntry value => Sys2Proof.Machine.execTableEntry value s
  | .tableClear value => Sys2Proof.Machine.execTableClear value s
  | .tableMigrate value => Sys2Proof.Machine.execTableMigrate value s
  | .owncmd value => Sys2Proof.Machine.execOwncmd value s
  | .sealRotate value => Sys2Proof.Machine.execSealRotate value s
  | .sealReseal value => Sys2Proof.Machine.execSealReseal value s
  | .sealRetire value => Sys2Proof.Machine.execSealRetire value s
  | .sealZero value => Sys2Proof.Machine.execSealZero value s
  | .gateBind value => Sys2Proof.Machine.execGateBind value s
  | .gateUnbind value => Sys2Proof.Machine.execGateUnbind value s
  | .gateRead value => Sys2Proof.Machine.execGateRead value s
  | .tblRead value => Sys2Proof.Machine.execTblRead value s
  | .tblWrite value => Sys2Proof.Machine.execTblWrite value s
  | .rwSet value => Sys2Proof.Machine.execRwSet value s
  | .rwClear value => Sys2Proof.Machine.execRwClear value s
  | .rwRepoint value => Sys2Proof.Machine.execRwRepoint value s
  | .remoteAccess src exp off wr size value => Sys2Proof.Machine.execRemoteAccess src exp off wr size value s
  | .remoteAtom src exp off op size value cmp => Sys2Proof.Machine.execRemoteAtom src exp off op size value cmp s
  | .crwArrival src exp msg => Sys2Proof.Machine.execCrwArrival src exp msg s
  | .reductionContribution group win cidx off value => Sys2Proof.Machine.execReductionContribution group win cidx off value s
  | .roundTimeout group win off => Sys2Proof.Machine.execRoundTimeout group win off s
  | .memberLost group win cidx => Sys2Proof.Machine.execMemberLost group win cidx s
  | .fabricTimeout req => Sys2Proof.Machine.execFabricTimeout req s
  | .movedReply req => Sys2Proof.Machine.execMovedReply req s
  | .linkUp port versions => Sys2Proof.Machine.execLinkUp port versions s
  | .corecfgWrite core value => Sys2Proof.Machine.execCorecfgWrite core value s
  | .vfbindWrite vf value => Sys2Proof.Machine.execVfbindWrite vf value s
  | .migTrack value => Sys2Proof.Machine.execMigTrack value s
  | .migFreeze value => Sys2Proof.Machine.execMigFreeze value s
  | .migCopy value => Sys2Proof.Machine.execMigCopy value s
  | .migSave value => Sys2Proof.Machine.execMigSave value s
  | .migLoad value => Sys2Proof.Machine.execMigLoad value s
  | .migResume value => Sys2Proof.Machine.execMigResume value s
  | .migAbort value => Sys2Proof.Machine.execMigAbort value s
  | .evctlWrite part value => Sys2Proof.Machine.execEvctlWrite part value s
  | .pcSample core => Sys2Proof.Machine.execPcSample core s
  | .fwuctlGo value => Sys2Proof.Machine.execFwuctlGo value s
  | .spdmGetVersion mbox => Sys2Proof.Machine.execSpdmGetVersion mbox s
  | .spdmGetCapabilities mbox => Sys2Proof.Machine.execSpdmGetCapabilities mbox s
  | .spdmNegotiateAlgorithms mbox algs => Sys2Proof.Machine.execSpdmNegotiateAlgorithms mbox algs s
  | .spdmGetDigests mbox => Sys2Proof.Machine.execSpdmGetDigests mbox s
  | .spdmGetCertificate mbox slot => Sys2Proof.Machine.execSpdmGetCertificate mbox slot s
  | .spdmChallenge mbox nonce => Sys2Proof.Machine.execSpdmChallenge mbox nonce s
  | .spdmGetMeasurements mbox idx => Sys2Proof.Machine.execSpdmGetMeasurements mbox idx s
  | .spdmKeyExchange mbox both => Sys2Proof.Machine.execSpdmKeyExchange mbox both s
  | .spdmFinish mbox => Sys2Proof.Machine.execSpdmFinish mbox s
  | .spdmEndSession mbox => Sys2Proof.Machine.execSpdmEndSession mbox s
  | .spdmUnsupported mbox code => Sys2Proof.Machine.execSpdmUnsupported mbox code s
  | .tagParity slice set line dirty => Sys2Proof.Machine.execTagParity slice set line dirty s
  | .memUe place addr who dirty => Sys2Proof.Machine.execMemUe place addr who dirty s
  | .watchdog agent => Sys2Proof.Machine.execWatchdog agent s
  | .governorEvaluation => Sys2Proof.Machine.execGovernorEvaluation s
  | .thermalTrip => Sys2Proof.Machine.execThermalTrip s
  | .packageReset => Sys2Proof.Machine.execPackageReset s
  | .packetComplete vf q idx => Sys2Proof.Machine.execPacketComplete vf q idx s

end Sys2Proof.Machine
end

