-- ==== Sys2Proof/Machine/Due.lean ====
section
/-!
DEFINITION. The steps that the package brings about itself, each as its meaning (95).
-/

namespace Sys2Proof.Machine

/-- A step of the agenda that has become due, as its meaning. -/
def perform (d : Due) (σ : State) : Out :=
  match d with
  | .continuationEnqueue task => execContinuationEnqueue task σ
  | .lotComplete core slot => execLotComplete core slot σ
  | .nodeKill node => execNodeKill node σ
  | .stallLimit core slot => execStallLimit core slot σ
  | .postedFault core slot => execPostedFault core slot σ
  | .postedAbort core slot => execPostedAbort core slot σ
  | .yieldExpiry core slot => execYieldExpiry core slot σ
  | .mkFullRetry core slot => execMkFullRetry core slot σ
  | .taskDispatch core slot => execTaskDispatch core slot σ
  | .stealAck task => execStealAck task σ
  | .stealTimeout task => execStealTimeout task σ
  | .accForeign core slab slot => execAccForeign core slab slot σ
  | .engineCommandStart core engine => execEngineCommandStart core engine σ
  | .programRetire core engine => execProgramRetire core engine σ
  | .markerRetire core engine => execMarkerRetire core engine σ
  | .passRetire core seq => execPassRetire core seq σ
  | .weightLoadComplete core seq => execWeightLoadComplete core seq σ
  | .fragmentDrained core seq => execFragmentDrained core seq σ
  | .copyStepComplete core eng idx => execCopyStepComplete core eng idx σ
  | .cldmFollowOn core eng idx => execCldmFollowOn core eng idx σ
  | .allocatorDecision core => execAllocatorDecision core σ
  | .classAging core => execClassAging core σ
  | .wholeHold core => execWholeHold core σ
  | .planChange core => execPlanChange core σ
  | .pcSample core => execPcSample core σ
  | .stepBudget vf ep => execStepBudget vf ep σ
  | .quantumExpiry rink => execQuantumExpiry rink σ
  | .episodeArm vf ep => execEpisodeArm vf ep σ
  | .episodeCancel vf ep => execEpisodeCancel vf ep σ
  | .episodePlace die => execEpisodePlace die σ
  | .queueKick vf q => execQueueKick vf q σ
  | .packetAccept fe => execPacketAccept fe σ
  | .packetLaunchGraph vf q idx gtab csig cval => execPacketLaunchGraph vf q idx gtab csig cval σ
  | .packetSignal vf q idx addr val add => execPacketSignal vf q idx addr val add σ
  | .packetWait vf q idx addr val cond => execPacketWait vf q idx addr val cond σ
  | .packetCopy vf q idx src dst len => execPacketCopy vf q idx src dst len σ
  | .packetMarker vf q idx addr val => execPacketMarker vf q idx addr val σ
  | .packetComplete vf q idx => execPacketComplete vf q idx σ
  | .nodeLaunch graph => execNodeLaunch graph σ
  | .nodeComplete node => execNodeComplete node σ
  | .sliceTurnEnd part => execSliceTurnEnd part σ
  | .roundTimeout group win off => execRoundTimeout group win off σ
  | .fabricTimeout req => execFabricTimeout req σ
  | .watchdog agent => execWatchdog agent σ
  | .writeback tile => execWriteback tile σ
  | .governorEvaluation => execGovernorEvaluation σ
  | .packageReset => execPackageReset σ

end Sys2Proof.Machine
end

