-- ==== Sys2Proof/Machine/Cycle.lean ====
section
/-!
DEFINITION. How the package goes on: a word of each kind of unit is fetched, decoded and run (R142, R144, R156, R426); a core chooses
whose word issues (R16, R28); and a cycle that has run out of steps is followed by the next, with every step that has become due by
then and the agents that have work, in the order of R77. The agenda, which puts the steps of one cycle behind each other, is the
model's own (log 4).
-/

namespace Sys2Proof.Machine

/-! ## Words -/

/-- The fetch of a control core's word, with kind fetch and the owner and seal checks (R62, R65, R67, R70, R426), through the data cache:
a slot's word that its lot view holds is fetched from there, and one read from memory stays as it is until the phase ends (R87, R328,
log 90). -/
def State.fetchCtl (σ : State) (core ctx : Nat) : Chk (Nat × State) :=
  let c := σ.ctxOf core ctx
  match σ.translate core ctx c.pc .fetch .near with
  | .error e => .error e
  | .ok x =>
    if (List.range 4).all fun i => c.hasByte (x.pa + i) then .ok ((σ.lotRead c x.pa 4).1, σ)
    else
      match σ.accessCheck (σ.vfOf core ctx) x.pa 4 c.pc with
      | .error e => .error e
      | .ok _ =>
        let r := σ.lotRead c x.pa 4
        .ok (r.1, (σ.fill x.pa).setCtx core ctx (if ctx = Config.fwCtx then c else r.2))

/-- The trap of a word that no row of the control core's tables fits (R142 steps 1 to 5): PRIV before a reserved or undefined field in
a user slot's major 0x3E, and in its GETS or SETS of a number from 0x8000; else ILLEGAL. -/
def badCtlCause (ctx w : Nat) : Nat :=
  let major := w / 2 ^ 26
  if ctx ≠ Config.fwCtx ∧ (major = 0x3E ∨ ((major = 0x1B ∨ major = 0x1C) ∧ 0x8000 ≤ w % 2 ^ 16)) then causePriv else causeIllegal

/-- A context that can run a word: firmware unless it is halted; a slot whose task runs, is not stopped, by a trap or for a save (but for
a word that has been sent, R208), and has not retired EXIT. -/
def State.ctxLive (σ : State) (core ctx : Nat) : Bool :=
  let c := σ.ctxOf core ctx
  if ctx = Config.fwCtx then (σ.coreOf core).fwProgram && !c.halted
  else decide (ctx < 4) && σ.slotRuns core ctx && c.stopped.isNone && (c.stopping.isNone || (σ.sentBy core ctx none).isSome) && !c.exited

/-- The next word of a control core's context. -/
def State.ctlWord (σ : State) (core ctx : Nat) : Out :=
  let σ := { σ with core := core, ctx := ctx }
  if !σ.ctxLive core ctx then .next σ else
  match σ.fetchCtl core ctx with
  | .error e => σ.trap e
  | .ok (w, σ') =>
    match decode .ctl w with
    | some i => exec i σ'
    | none => σ'.trapWith (badCtlCause ctx w)

/-- The trap of a slot's word where it has one to take: a word that waits, or that issues, is none (R180, R376). -/
def State.wordTraps (σ : State) (core k : Nat) : Option State :=
  let bare := σ.setCore core { σ.coreOf core with fwProgram := true, events := [] }
  match bare.ctlWord core k with
  | .next τ =>
    if (τ.coreOf core).events.any fun e => decide (e.1 = k) then (match σ.ctlWord core k with
      | .next σ' => some σ'
      | _ => none) else none
  | _ => none
/-- A slot whose save is pending: at its boundary the trap of the boundary's own word goes first (R376), and the save stays pending while
it holds the slot. -/
def State.settleSave (σ : State) (core slot : Nat) : State :=
  let c := σ.ctxOf core slot
  if c.stopping = some .held then σ.saveHeld core slot
  else if !σ.saveDue core slot then σ
  else
    match (σ.setCtx core slot { c with stopping := none }).wordTraps core slot with
    | some σ' =>
      let n := σ'.ctxOf core slot
      if n.task = c.task ∧ n.stopping.isNone then σ'.setCtx core slot { n with stopping := c.stopping } else σ'
    | none => σ.settleSlot core slot

/-- A word that a vector context, fragment or copy engine has fetched: decoded and run, or STEP_ILLEGAL (R144). -/
def State.runStep (σ : State) (c : Cls) (w : Nat) : Out :=
  match decode c w with
  | some i => exec i σ
  | none => σ.badWord

/-- The next word of the program of an engine of a core, by its number; a CLDM and its follow-on are two words (R155). -/
def State.engWord (σ : State) (c : Cls) (core e : Nat) : Out :=
  let σ := { σ with core := core, eng := e }
  match (σ.engOf core e).run with
  | none => .next σ
  | some r =>
    if r.halted ∨ !σ.engLive core e then .next σ else
    match σ.fetchWord r.upc with
    | .stop o => o
    | .word w σ' =>
      if c = .copy ∧ w / 2 ^ 27 = 9 then
        match σ'.fetchWord (r.upc + 1) with
        | .stop o => o
        | .word f σ'' => σ''.runStep c (w + 2 ^ 32 * f)
      else σ'.runStep c w

/-- The next word of a Rink core's current episode; a fetch that fails ends the episode (R281). -/
def State.rinkStep (σ : State) (n : Nat) : Out :=
  let σ := ({ σ with rinkNo := n } : State).settleRink n
  match σ.rinkFetch n with
  | .wait σ' => .next (σ'.rinkTick 1)
  | .exc m σ' => σ'.rinkExc m
  | .ok w σ' =>
    match decode .rink w with
    | some i => exec i σ'
    | none => σ'.rinkIllegal

/-! ## Issue (R16, R28) -/

/-- What every word that issues changes in its context: the PC or the pending transfer, or that the context goes on at all. -/
def issueMark (c : Ctx) : (Word × Nat × Bool) × (Option Nat × Option Nat × Bool) :=
  ((c.pc, c.pslots, c.halted), (c.stopped, c.task, c.exited))

/-- Whether a context's word would issue now; a word that waits leaves what its waiting counts. -/
def State.tryCtl (σ : State) (core ctx : Nat) : Bool × State :=
  match σ.ctlWord core ctx with
  | .next σ' => if issueMark (σ'.ctxOf core ctx) = issueMark (σ.ctxOf core ctx) then (false, σ') else (true, σ)
  | _ => (true, σ)

/-- A slot that may have a word to issue: it can run one, and does not give way (R200). -/
def State.slotReady (σ : State) (core k : Nat) : Bool := σ.ctxLive core k && (σ.ctxOf core k).yieldTo.isNone

/-- The user slots that are ready, in the order of R16, with what the waiting of the others counts. -/
def State.readySlots (σ : State) (core : Nat) : List Nat × State :=
  let last := (σ.coreOf core).lastUser
  ([1, 2, 3, 4].map fun i => (last + i) % 4).foldl
    (fun (a : List Nat × State) k =>
      if a.2.slotReady core k then
        let t := a.2.tryCtl core k
        (if t.1 then a.1 ++ [k] else a.1, t.2)
      else a) ([], σ)

/-- Firmware is ready while an event is pending, and until it has given way after one (R378, log 12). -/
def State.fwReady (σ : State) (core : Nat) : Bool :=
  let k := σ.coreOf core
  σ.ctxLive core Config.fwCtx && (!k.events.isEmpty || k.fwAwake)

/-- The word of a context issues next: last_user, the share count, and the slots that yielded to it take notice (R16, R200). -/
def State.issue (σ : State) (core ctx : Nat) (counted : Bool) : State :=
  let k := σ.coreOf core
  let k := if ctx = Config.fwCtx then { k with fwAwake := true } else { k with lastUser := ctx }
  let k := if counted then { k with fwIssues := σ.cycle :: k.fwIssues.filter fun c => decide (σ.cycle < c + 63) } else k
  let σ := σ.setCore core { k with issued := some (ctx, σ.cycle) }
  let σ := [0, 1, 2, 3].foldl (fun (σ : State) j =>
    match (σ.ctxOf core j).yieldTo with
    | some (t, l) => if ctx < 4 then σ.setCtx core j { σ.ctxOf core j with yieldTo := some (t, l.filter (· ≠ ctx)) } else σ
    | none => σ) σ
  { σ with agenda := .ctl core ctx :: σ.agenda }

/-- The selection of R16, evaluated every cycle; what it found ready is kept for a YIELD (R200). -/
def State.select (σ : State) (core : Nat) : State :=
  let k := σ.coreOf core
  let used := (k.fwIssues.filter fun c => decide (σ.cycle < c + 64)).length
  let r := σ.readySlots core
  let r := (r.1, r.2.setCore core { r.2.coreOf core with ready := r.1 })
  let f := if r.2.fwReady core then r.2.tryCtl core Config.fwCtx else (false, r.2)
  let σ := f.2
  if f.1 ∧ used < k.fwshare.toNat % 64 then σ.issue core Config.fwCtx true
  else
    match r.1 with
    | j :: _ => σ.issue core j false
    | [] => if f.1 then σ.issue core Config.fwCtx false else σ

/-- What every vector word that issues changes: the place in the program, the prefix in force, or that the engine goes on. -/
def stepMark (v : Eng) : Option (Nat × List Nat × Bool × Bool) × Bool :=
  (v.run.map fun r => (r.upc, r.idx, r.halted, r.vfl.isSome), v.stopped)

/-- The first vector context, in the order given, whose word issues now (R28). -/
def State.vecChoice (σ : State) (core : Nat) : List Nat → Option Nat × State
  | [] => (none, σ)
  | j :: l =>
    match σ.engWord .vec core j with
    | .next σ' =>
      if stepMark (σ'.engOf core j) = stepMark (σ.engOf core j) then State.vecChoice σ' core l else (some j, σ)
    | _ => (some j, σ)

/-- The vector engine's choice: round-robin after the context that issued last (R28). -/
def State.selectVec (σ : State) (core : Nat) : State :=
  let last := (σ.coreOf core).vecLast
  let r := σ.vecChoice core ([1, 2, 3, 4].map fun i => (last + i) % 4)
  match r.1 with
  | none => r.2
  | some j =>
    let σ := r.2.setCore core { r.2.coreOf core with vecLast := j }
    { σ with agenda := .vec core j :: σ.agenda }

/-! ## Steps that have become due -/

/-- Of a task slot: limits, posted faults and ends, in the order they take it at its boundary (R38, R200, R214, R376, R42, R52). -/
def State.dueSlot (σ : State) (core k : Nat) (c : Ctx) : List Due :=
  let free := c.stopped.isNone && σ.slotRuns core k
  let going := free && c.stopping.isNone
  let sent := (σ.sentBy core k none).isSome
  (if c.posted ≠ [] ∧ free ∧ !sent ∧ c.task.isSome then [Due.postedFault core k] else [])
    ++ (if c.stallLim ≤ c.stall ∧ going ∧ c.task.isSome then [Due.stallLimit core k] else [])
    ++ (match c.yieldTo with
        | some (t, l) => if t ≤ σ.cycle ∨ l = [] then [Due.yieldExpiry core k] else []
        | none => [])
    ++ (match c.retryAt with
        | some t => if t ≤ σ.time then [Due.mkFullRetry core k] else []
        | none => [])
    ++ (if c.endNow ∧ !sent ∧ c.task.isSome then [Due.postedAbort core k] else [])
    ++ (if c.exited ∧ going then [Due.lotComplete core k] else [])
def State.dueSlots (σ : State) : List Due :=
  σ.ctxs.flatMap fun (p : Nat × Ctx) => if p.1 % 8 < 4 then σ.dueSlot (p.1 / 8) (p.1 % 8) p.2 else []

/-- Of the engines: retired programs and markers, and the commands that can start. -/
def State.dueEngines (σ : State) : List Due :=
  σ.engs.flatMap fun (p : Nat × Eng) =>
    let c := p.1 / 16
    let e := p.1 % 16
    (if σ.canRetire c e then [Due.programRetire c e] else []) ++ (if σ.markerDue c e then [Due.markerRetire c e] else [])
      ++ (if σ.startDue c e then [Due.engineCommandStart c e] else [])
/-- Of the fragments: the oldest pass, a load of weights, the end of draining. A pass or load takes a cycle (log 40). -/
def State.dueFrags (σ : State) : List Due :=
  σ.frags.flatMap fun (p : Nat × Frag) =>
    let c := p.1 / 4
    let k := p.1 % 4
    (if !p.2.passes.isEmpty || p.2.faulting.isSome then [Due.passRetire c k] else [])
      ++ (if p.2.nxt.pending ∧ !p.2.nxt.ready then [Due.weightLoadComplete c k] else [])
      ++ (if p.2.state = 2 ∧ σ.drained c k then [Due.fragmentDrained c k] else [])
/-- A step's completion advances a ring: its engine does so in its place among the cycle's agents (R77). -/
def CopyStep.advances (s : CopyStep) : Bool := match s.op with
  | .cstRing _ _ => true
  | _ => false
/-- Of the copy engines: every step in flight is looked at, and a CLDM that has filled its slot starts its follow-on. -/
def State.dueCopies (σ : State) : List Due :=
  σ.copies.flatMap fun (p : Nat × CopyEng) => (p.2.steps.filter fun s => !s.advances).map fun s =>
    if s.filled then Due.cldmFollowOn (p.1 / 8) (p.1 % 8) s.idx else Due.copyStepComplete (p.1 / 8) (p.1 % 8) s.idx
/-- Of a core: slabs to be reassigned, the WHOLE hold and the ages of its requests (R54), the plan, a watchdog. -/
def State.dueCores (σ : State) : List Due :=
  σ.cores.flatMap fun (p : Nat × Core) =>
    ((p.2.foreign.filter fun x => !x.2.2).map fun x => Due.accForeign p.1 x.1 x.2.1)
      ++ (if p.2.reqs = [] then [] else [Due.classAging p.1, Due.wholeHold p.1]) ++ (if p.2.pendv then [Due.planChange p.1] else [])
      ++ (match p.2.wdogAt with
          | some t => if t ≤ σ.time then [Due.watchdog p.1] else []
          | none => [])
def State.dueTasks (σ : State) : List Due :=
  σ.tasks.flatMap fun (p : Nat × Task) =>
    (if p.2.state = .aborting then [Due.continuationEnqueue p.1] else []) ++ (if p.2.split.isSome then [Due.stealTimeout p.1] else [])
/-- Completions, those of one graph in the order of their nodes' indices (R353). -/
def insertNode (x : Nat × Node) : List (Nat × Node) → List (Nat × Node)
  | [] => [x]
  | y :: l => if x.2.index ≤ y.2.index then x :: y :: l else y :: insertNode x l
def State.dueNodes (σ : State) : List Due :=
  ((σ.nodes.filter fun (p : Nat × Node) => p.2.finished && !p.2.counted).foldr insertNode []).map fun p => Due.nodeComplete p.1
/-- A round or a held merge whose time is over (R396, R398). -/
def State.dueRounds (σ : State) : List Due :=
  σ.redwins.flatMap fun (p : Nat × RedWin) =>
    let due (off t : Nat) : List Due := if t + p.2.ticks ≤ σ.time then [Due.roundTimeout (p.1 / 64) (p.1 % 64) off] else []
    (p.2.rounds.flatMap fun (r : Nat × Round) => due r.1 r.2.opened) ++ (p.2.heldMerge.flatMap fun h => due h.1 h.2.1)
def State.dueFabric (σ : State) : List Due :=
  (σ.fabReqs.filter fun q => decide (q.deadline ≤ σ.time) && q.answer.isNone).map fun q => Due.fabricTimeout q.id
/-- The time's own: watchdogs, and the governor every 1,000,000 ticks (R387, R425). -/
def State.dueTimes (σ : State) (before : Nat) : List Due :=
  (σ.wdogs.flatMap fun p => if p.2 ≤ σ.time then [Due.watchdog p.1] else [])
    ++ (if before / 1000000 ≠ σ.time / 1000000 then [Due.governorEvaluation] else [])
/-- A dirty tile may be written back whenever the far cache chooses (R71): which, and whether now, is free (log 5). -/
def State.dueWriteback (σ : State) : List Due :=
  match σ.fcache with
  | [] => []
  | p :: l =>
    if Config.freeBool σ.fresh then
      let i := (Config.freeWord (σ.fresh + 1)).toNat % (l.length + 1)
      [Due.writeback (((p :: l).getD i p).1 / 4096)]
    else []
/-- Of the front ends: queues to read, packets in flight, a packet to accept. -/
def State.dueQueues (σ : State) : List Due :=
  (σ.queues.flatMap fun (p : Nat × Queue) =>
    (if p.2.kick ∨ p.2.start then [Due.queueKick (p.1 / 64) (p.1 % 64)] else [])
      ++ p.2.packets.flatMap fun k =>
        if k.state = 0 then [packetDue (p.1 / 64) (p.1 % 64) k.idx k.words]
        else if k.state = 1 then [Due.packetComplete (p.1 / 64) (p.1 % 64) k.idx] else [])
    ++ (if σ.queues.isEmpty then [] else ([0, 1, 2, 3].filter fun f => (σ.feChoice f).isSome).map Due.packetAccept)
/-- One launch for each graph that goes on, after every completion and whatever else may stop it in the cycle (R353). -/
def State.dueGraphs (σ : State) : List Due :=
  σ.graphs.flatMap fun (p : Nat × Graph) => if !p.2.finished ∧ !p.2.stopped then [Due.nodeLaunch p.1] else []
def State.dueTurns (σ : State) : List Due :=
  if σ.graphs.isEmpty && σ.pool.isEmpty then [] else ((List.range 32).filter σ.turnDue).map Due.sliceTurnEnd
/-- Idle slots ask for work while there is any (R36). -/
def State.dueDispatch (σ : State) : List Due :=
  if σ.pool.isEmpty && σ.tasks.all (fun (p : Nat × Task) => decide (p.2.hi < p.2.next + 2)) then []
  else (List.range Config.numCores).flatMap fun c =>
    ([0, 1, 2, 3].filter fun k => (σ.ctxOf c k).task.isNone && (σ.coreOf c).enabled && (σ.coreOf c).leaving.isNone).map (Due.taskDispatch c)
/-- The allocators' decisions (R54), after the words of the cycle: a LEASE.T of the cycle takes part in them. -/
def State.dueLeases (σ : State) : List Due :=
  σ.cores.flatMap fun (p : Nat × Core) =>
    if p.2.reqs = [] then [] else [Due.allocatorDecision p.1]
/-- Of the Rink: armings that wait for a page, and episodes that can be placed (R285, R286). -/
def State.dueEpisodes (σ : State) : List Due :=
  (σ.episodes.flatMap fun (p : Nat × Episode) => if p.2.armWait then [Due.episodeArm (p.1 / 4096) (p.1 % 4096)] else [])
    ++ (([0, 1, 2, 3].filter fun d => (σ.oldestArmed d).isSome && (σ.placeCore d).isSome).map Due.episodePlace)
/-- Samples are taken every 2^LOG2I cycles where the partition's EN stands (R413, R414). -/
def State.dueSamples (σ : State) : List Due :=
  if σ.bar.isEmpty then [] else
  ((List.range Config.numCores).filter fun c =>
    let r := (σ.reg 0 (tlmReg (σ.partOf c) 0)).toNat
    r.testBit 8 && decide (σ.cycle % 2 ^ (r % 32) = 0)).map Due.pcSample

/-! ## The next cycle -/

/-- Cores with a context that may issue. -/
def State.busyCores (σ : State) : List Nat :=
  (List.range Config.numCores).filter fun c =>
    (σ.coreOf c).fwProgram || [0, 1, 2, 3].any fun k => (σ.ctxOf c k).task.isSome
/-- The agents that have work: the Rink cores first (R288), then those of R77 in its order, a copy engine with the steps that advance a
ring. A Rink core at work on a word has no other before its cycles are over; a slow arithmetic cycle brings several of the Rink (R425). -/
def State.agents (σ : State) : List Act :=
  let on := σ.engs.filter fun (p : Nat × Eng) => match p.2.run with
    | some r => !r.halted && σ.engLive (p.1 / 16) (p.1 % 16)
    | none => false
  let vecs := (List.range Config.numCores).filter fun c => on.any fun (p : Nat × Eng) => decide (p.1 / 16 = c) && decide (p.1 % 16 < 4)
  ((σ.rinks.filter fun (p : Nat × Rink) => (!p.2.resident.isEmpty || (p.2.machine && p.2.program)) && decide (p.2.cycle ≤ σ.rinkTime)).flatMap
      fun (p : Nat × Rink) => List.replicate (σ.rinkTime + 1 - σ.rinkFrom) (Act.rink p.1))
    ++ σ.busyCores.map Act.select ++ vecs.map Act.selectVec
    ++ ((on.filter fun p => decide (4 ≤ p.1 % 16) && decide (p.1 % 16 < 8)).map fun p => Act.mat (p.1 / 16) (p.1 % 16 - 4))
    ++ σ.copies.flatMap fun (p : Nat × CopyEng) =>
      (if on.any fun q => decide (q.1 = p.1 / 8 * 16 + 8 + p.1 % 8) then [Act.copy (p.1 / 8) (p.1 % 8)] else [])
        ++ (p.2.steps.filter CopyStep.advances).map fun s => Act.due (.copyStepComplete (p.1 / 8) (p.1 % 8) s.idx)

/-- Tasks of a cancelled or killed node that ended in no other way end so: the pooled ones a cancel left to the dispatches of its cycle, and
one that a trap of its own took off its slot before the posted end (R42, R376, R386). -/
def State.endLeft (σ : State) : State :=
  (σ.tasks.filter fun (p : Nat × Task) =>
      let nd := σ.nodeOf p.2.node
      (nd.cancelled || nd.killed) && !p.2.state.ended && decide (p.2.state ≠ .running)).foldl
    (fun (σ : State) p => σ.dropTask p.1 (if (σ.nodeOf p.2.node).killed then .killed else .cancelled)) σ

/-- What goes on without a step of its own in units and contexts: arrivals of the fabric, reads of reduction windows, tuples that find
room, engines that have drained, fences, saves that wait, cores that leave, areas that have become free. -/
def State.settleUnits (σ : State) : State :=
  let σ := if σ.arrivals.isEmpty then σ else σ.arrivalRetry
  let σ := σ.loadRetry.rwRetry
  let σ := (σ.market.filter fun (p : Nat × MkSlice) => p.2.tuples.any fun t => decide (t.place = 2)).foldl (fun (σ : State) p => σ.mkCompact p.1) σ
  let σ := (σ.copies.filter fun (p : Nat × CopyEng) => p.2.draining).foldl (fun (σ : State) p => σ.drainCopy (p.1 / 8) (p.1 % 8)) σ
  let σ := (σ.ctxs.filter fun (p : Nat × Ctx) => !p.2.fences.isEmpty).foldl (fun (σ : State) p => σ.releaseFences (p.1 / 8) (p.1 % 8)) σ
  let σ := (σ.ctxs.filter fun (p : Nat × Ctx) => p.2.stopping.isSome).foldl (fun (σ : State) p => σ.settleSave (p.1 / 8) (p.1 % 8)) σ
  let σ := (σ.cores.filter fun (p : Nat × Core) => p.2.leaving.isSome).foldl (fun (σ : State) p => σ.settleCore p.1) σ
  (σ.tasks.filter fun (p : Nat × Task) => decide (p.2.state = .aborting) && p.2.ctxId.isNone).foldl
    (fun (σ : State) p => (σ.areaAtLast p.1).getD σ) σ

/-- The same in the package's other parts: turns that wait for the outgoing VF, words a descriptor is owed, merges held in the crossing,
and the ends of graphs. -/
def State.settle (σ : State) : State :=
  let σ := σ.endLeft.settleUnits
  let σ := (σ.episodes.filter fun (p : Nat × Episode) => !p.2.owed.isEmpty).foldl (fun (σ : State) p => σ.descRetry (p.1 / 4096) (p.1 % 4096)) σ
  let σ := σ.partTurn.foldl (fun (σ : State) p => σ.settleTurn p.1) σ
  let σ := σ.redwins.foldl (fun (σ : State) p => if p.2.heldMerge.isEmpty then σ else σ.retryMerges p.1) σ
  let σ := if σ.fabReqs.isEmpty then σ else σ.fabricLate
  σ.graphs.foldl (fun (σ : State) p => σ.graphEnd p.1) σ

/-- The cycle is over: the fabric has its turn last (R77), and time goes on by one cycle of the arithmetic clock (R425). -/
def State.nextCycle (σ : State) : State :=
  let σ := if σ.crwWaiting.isEmpty ∨ σ.condition ≠ 0 then σ else σ.crwRetry
  { σ with cycle := σ.cycle + 1, clock := σ.clock + 10 * tickParts / σ.arithClk }

/-- The next cycle: what the last one's words filled and marked takes effect, and the steps of this one are due. While the package is
not in service nothing happens but the passing of time (R418, R423, R424). -/
def State.refill (σ : State) : State :=
  let before := σ.time
  let σ := σ.nextCycle
  if σ.condition ≠ 0 then σ else
  let σ := σ.land.settle
  let early := σ.dueCopies ++ σ.dueFrags ++ σ.dueEngines ++ σ.dueSlots ++ σ.dueCores ++ σ.dueTimes before
  let late := σ.dueLeases ++ σ.dueTasks ++ σ.dueNodes ++ σ.dueRounds ++ σ.dueFabric ++ σ.dueQueues ++ σ.dueTurns
    ++ σ.dueDispatch ++ σ.dueEpisodes ++ σ.dueSamples ++ σ.dueWriteback ++ σ.dueGraphs
  { σ with agenda := σ.agenda ++ early.map Act.due ++ σ.agents ++ late.map Act.due,
           fresh := if σ.fcache.isEmpty then σ.fresh else σ.fresh + 2 }

/-! ## One step -/

/-- The steps of the mailboxes (R419). -/
def Act.spdm : Act → Bool
  | .event (.spdmGetVersion _) => true
  | .event (.spdmGetCapabilities _) => true
  | .event (.spdmNegotiateAlgorithms _ _) => true
  | .event (.spdmGetDigests _) => true
  | .event (.spdmGetCertificate _ _) => true
  | .event (.spdmChallenge _ _) => true
  | .event (.spdmGetMeasurements _ _) => true
  | .event (.spdmKeyExchange _ _) => true
  | .event (.spdmFinish _) => true
  | .event (.spdmEndSession _) => true
  | .event (.spdmUnsupported _ _) => true
  | _ => false
/-- The steps of an update (R421): the loading of an image, and the registers that name it. -/
def Act.update : Act → Bool
  | .event (.fwuctlGo _) => true
  | .event (.registerWrite bar off _ _) => decide (bar = 0) && (decide (off = 0x6000) || decide (off = 0x6008))
  | _ => false
/-- A reset of the package, or what holds it in one. -/
def Act.reset : Act → Bool
  | .due .packageReset => true
  | .event .packageReset => true
  | .event .thermalTrip => true
  | _ => false
/-- The steps a package that is not in service still takes: its reset and its trip; in recovery, SPDM and the update (R418); after a fatal
error the mailboxes alone, and held in reset nothing else (R423, R424). -/
def State.serves (σ : State) (a : Act) : Bool :=
  a.reset || (decide (σ.condition ≤ 2) && a.spdm) || (decide (σ.condition ≤ 1) && a.update)

/-- What comes to a slot's boundary by itself acts after the trap of the boundary's own word (R376); a word that has been sent to another
package is in progress, and its slot at no boundary (R208). -/
def State.atBoundary (σ : State) (core k : Nat) (d : Due) : Out :=
  if (σ.sentBy core k none).isSome then .next σ else
  match σ.wordTraps core k with
  | some σ' => .next σ'
  | none => perform d σ

/-- A graph's launch, which goes behind everything else that the cycle still brings: a kill or a completion raised in it (R353). -/
def Act.launch : Act → Bool
  | .due (.nodeLaunch _) => true
  | _ => false

/-- A step of the agenda, taken off it. -/
def State.act (σ : State) (a : Act) : Out :=
  if σ.condition ≠ 0 ∧ !σ.serves a then .next σ
  else if a.launch ∧ σ.agenda.any (fun b => !b.launch) then .next { σ with agenda := σ.agenda ++ [a] } else
  match a with
  | .select c => .next (σ.select c)
  | .selectVec c => .next (σ.selectVec c)
  | .ctl c k => σ.ctlWord c k
  | .vec c k => σ.engWord .vec c k
  | .mat c k => σ.engWord .mat c (k + 4)
  | .copy c n => σ.engWord .copy c (n + 8)
  | .rink n => if σ.rinkTime < (σ.rinkOf n).cycle then .next σ else σ.rinkStep n
  | .due (.postedFault c k) => σ.atBoundary c k (.postedFault c k)
  | .due (.postedAbort c k) => σ.atBoundary c k (.postedAbort c k)
  | .due d => perform d σ
  | .event i => exec i σ

/-- A next state, seen through f. -/
def mapNext (f : State → State) : Out → Out
  | .next σ => .next (f σ)
  | .fault e => .fault e
  | .refused r => .refused r

end Sys2Proof.Machine
end

