-- ==== Sys2Proof/Machine/Telemetry.lean ====
section
/-!
DEFINITION. Counters and events (26 R415, R416): what a step adds to the counters, and what it writes to the event streams, both read off
the states before and after it. What the rules leave open of it - what counts as one miss or one request served, how bytes are rounded to
units, which slot an event of a lease or a node names - is the model's choice (log 106).
-/

namespace Sys2Proof.Machine

/-- Partitions that count or write events. -/
def State.observed (σ : State) : List Nat :=
  (σ.bar.filterMap fun (p : Nat × Word) =>
    let o := p.1
    if 0x8000 ≤ o ∧ o < 0x10000 ∧ (o - 0x8000) % 1024 < 512 ∧ p.2.getLsbD 8 then some ((o - 0x8000) / 1024)
    else if 0x5500 ≤ o ∧ o < 0x5D00 ∧ (o - 0x5500) % 64 = 0x10 ∧ p.2.getLsbD 0 then some ((o - 0x5500) / 64)
    else none).eraseDups

/-! ## Counters (R415) -/

/-- What a step counts: the partition, the VF, the event, how many. -/
structure Tally where
  part : Nat
  vf : Nat
  event : Nat
  n : Nat := 1
  deriving DecidableEq, Repr

/-- A count of something on a core, for a VF. -/
def State.onCore (σ : State) (core vf event n : Nat) : Tally := { part := σ.partOf core, vf := vf, event := event, n := n }
/-- A count of a VF's request, for the partition it is bound to; none where it is bound to none. -/
def State.ofVf (σ : State) (vf event n : Nat) : List Tally := (σ.vfPart vf).toList.map fun p => { part := p, vf := vf, event := event, n := n }

/-- A Market instruction. -/
def Instr.market (i : Instr) : Bool :=
  match i with
  | .mkdep _ _ => true
  | .mkrdT _ _ _ _ => true
  | .mktakeT _ _ _ _ => true
  | .mkrdW _ _ _ => true
  | .mktakeW _ _ _ => true
  | _ => false

/-- A Market word that has run was served, unless it trapped or its request has been parked. -/
def State.servedHere (old new : State) (core k : Nat) : Bool :=
  let t := (old.ctxOf core k).task
  (old.wordHere core k).any Instr.market && (new.ctxOf core k).stopped.isNone
    && !new.market.any fun (p : Nat × MkSlice) => p.2.parked.any fun r => decide (some r.task = t)

/-- What the agent of a step counts: the word it ran, the passes that retired, the bytes a copy step moved, a partly dirty tile completed. -/
def Act.tally (old new : State) : Act → List Tally
  | .ctl c k =>
    if issueMark (new.ctxOf c k) = issueMark (old.ctxOf c k) then []
    else old.onCore c (old.vfOf c k) 2 1 :: (if old.servedHere new c k then old.ofVf (old.vfOf c k) 13 1 else [])
  | .vec c k => if stepMark (new.engOf c k) = stepMark (old.engOf c k) then [] else [old.onCore c (old.vfOf c k) 3 1]
  | .due (.passRetire c k) =>
    [old.onCore c (old.vfOf c (old.fragOf c k).slot) 4 ((old.fragOf c k).passes.length - (new.fragOf c k).passes.length)]
  | .due (.copyStepComplete c n _) =>
    let moved (σ : State) : Nat := ((σ.engOf c (n + 8)).run.map Run.moved).getD 0
    [old.onCore c (old.vfOf c (old.copyOf c n).slot) 6 ((moved new - moved old + 63) / 64)]
  | .due (.writeback t) =>
    let x := old.tile t
    let d := old.dirtyOf t
    if d ≠ 0 ∧ d < 4096 ∧ (x.bad ∨ x.ver < maxVer) then old.ofVf (old.frameRec (t / 512)).owner 9 1 else []
  | _ => []

/-- Tasks that have come into a state, by VF. -/
def State.became (old new : State) (s : TaskState) (event : Nat) : List Tally :=
  (new.tasks.filter fun (p : Nat × Task) => decide (p.2.state = s) && decide ((old.taskOf p.1).state ≠ s)).flatMap fun p =>
    new.ofVf (new.nodeOf p.2.node).vf event 1

/-- Parked requests of the Market that a tuple has reached. -/
def State.delivered (old new : State) : List Tally :=
  let got (σ : State) (t : Nat) : Option (Tbl Word) := (σ.taskOf t).cont.map Area.deliver
  old.market.flatMap fun (p : Nat × MkSlice) =>
    (p.2.parked.filter fun r => !(Tbl.get new.market {} p.1).parked.contains r && decide (got new r.task ≠ got old r.task)).flatMap fun r =>
      old.ofVf (old.nodeOf (old.taskOf r.task).node).vf 13 1

/-- What a step counts whoever takes it: ACC_FOREIGN traps, aborts, pre-emptions, parked requests served, gate messages, tiles filled. -/
def State.tally (old new : State) : List Tally :=
  let foreign (c : Ctx) : Bool := decide (c.stopped = some causeAccForeign)
  ((new.ctxs.filter fun (p : Nat × Ctx) => foreign p.2 && !foreign (Tbl.get old.ctxs {} p.1)).map fun p =>
      old.onCore (p.1 / 8) (old.vfOf (p.1 / 8) (p.1 % 8)) 10 1)
    ++ old.became new .aborting 11 ++ old.became new .saved 12 ++ old.delivered new
    ++ (new.gates.flatMap fun (p : Nat × Gate) =>
      let g := old.gateOf p.1
      old.ofVf p.2.vf 14 ((p.2.seqAct + 256 - g.seqAct) % 256 + (p.2.seqObs + 256 - g.seqObs) % 256))
    ++ (new.tiles.filter fun (p : Nat × Tile) =>
        decide (p.2.present = List.range 64) && decide ((old.tile p.1).present.length < 64)).flatMap fun p =>
      old.ofVf (old.frameRec (p.1 / 512)).owner 15 1

/-- The counters take what a step has counted. -/
def State.addTally (σ : State) (l : List Tally) : State :=
  l.foldl (fun (σ : State) x => if x.n = 0 then σ else σ.count x.part x.vf x.event x.n) σ

/-- A cycle of the counting partitions: 1 counts it; of busy cells (5) and lines of HBM read and written (7, 8) the spec does not give how
many a cycle brings, and they are free values (log 106). -/
def State.countCycle (σ : State) : State :=
  σ.observed.foldl (fun (σ : State) p =>
    [5, 7, 8].foldl (fun (σ : State) e => σ.tickFresh.count p 0 e (Config.freeWord σ.fresh).toNat) (σ.count p 0 1 1)) σ

/-! ## Events (R416) -/

/-- An event of a step, with the fields that R416 lists for its TYPE. -/
structure Note where
  part : Nat
  type : Nat
  src : Nat
  core : Nat := 0xFF
  slot : Nat := 0xFF
  vf : Nat := 0
  fields : List Nat
  deriving DecidableEq, Repr

/-- A program that has left its engine: COPYPROG with its entry word, the bytes moved and the tags of it that hold an error; FRAGPROG with
its entry word, its passes and its start. -/
def Act.programs (old new : State) : Act → List Note
  | .due (.programRetire c e) =>
    let k := old.slotOfEng c e
    match (old.engOf c e).run with
    | some r =>
      if (new.engOf c e).run.isSome ∨ e < 4 then []
      else
        let mine := r.prog.tags.foldl (fun (w : Word) t => setBit w t true) 0
        [{ part := old.partOf c, type := if 8 ≤ e then 2 else 3, src := engSrc e, core := c, slot := k, vf := old.vfOf c k,
           fields := r.prog.entry :: (if 8 ≤ e then [r.moved, ((old.ctxOf c k).tagerr &&& mine).toNat] else [r.passes, r.start]) }]
    | none => []
  | _ => []

/-- Units that changed hands together, by their slot and generation: one event for each handle. -/
def handleNotes (σ : State) (c : Nat) (copy grant : Bool) (units : List (Nat × Nat × Nat)) : List Note :=
  ((units.map fun u => u.2).eraseDups).map fun h =>
    let ks := (units.filter fun u => decide (u.2 = h)).map fun u => u.1
    { part := σ.partOf c, type := 4, src := engSrc (ks.headD 0 + if copy then 8 else 4), core := c, slot := h.1, vf := σ.vfOf c h.1,
      fields := [if grant then 0 else 1, (handleWord copy (ks.foldl (fun m k => m + 2 ^ k) 0) h.2).toNat, (σ.coreOf c).plan] }

/-- LEASE: the fragments and copy engines of a core that a step has granted or returned. -/
def State.leaseNotes (old new : State) : List Note :=
  (List.range Config.numCores).flatMap fun c =>
    let held (σ : State) (k : Nat) : Bool := decide ((σ.fragOf c k).state = 1) || decide ((σ.fragOf c k).state = 3)
    let frags (a b : State) : List (Nat × Nat × Nat) :=
      ([0, 1, 2, 3].filter fun k => held a k && !held b k).map fun k => (k, (a.fragOf c k).slot, (a.fragOf c k).gen)
    let copies (a b : State) : List (Nat × Nat × Nat) :=
      ([0, 1, 2, 3, 4, 5, 6, 7].filter fun n => (a.copyOf c n).leased && !(b.copyOf c n).leased).map fun n =>
        (n, (a.copyOf c n).slot, (a.copyOf c n).gen)
    handleNotes old c false false (frags old new) ++ handleNotes old c true false (copies old new)
      ++ handleNotes new c false true (frags new old) ++ handleNotes new c true true (copies new old)

/-- NODE: a launch, or a completion, with the packet of its graph and the node's index in it. -/
def State.nodeNotes (old new : State) : List Note :=
  let note (σ : State) (nd : Node) (done : Nat) : List Note :=
    let packet := match nd.graph with
      | some g => (Tbl.get σ.graphs {} g).packet
      | none => nd.index
    (σ.vfPart nd.vf).toList.map fun p =>
      { part := p, type := 5, src := 40, vf := nd.vf, fields := [done, packet, if nd.graph.isSome then nd.index else 0] }
  ((new.nodes.filter fun (p : Nat × Node) => decide (old.nextNode ≤ p.1)).flatMap fun p => note new p.2 0)
    ++ (new.nodes.filter fun (p : Nat × Node) => p.2.finished && !(old.nodeOf p.1).finished).flatMap fun p => note new p.2 1

/-- TASK: what has become of a task (0 dispatch, 1 wait, 2 resume, 3 abort, 4 pre-emption), with the LOTNO of its slot. -/
def State.taskNotes (old new : State) : List Note :=
  (new.tasks.filter fun (p : Nat × Task) => decide (p.2.state ≠ (old.taskOf p.1).state)).flatMap fun p =>
    let was := old.taskOf p.1
    let code : Option Nat :=
      if p.2.state = .running then some (if was.cont.isSome then 2 else 0)
      else if p.2.state = .waiting ∨ (p.2.state = .pooled ∧ was.state = .running) then some 1
      else if p.2.state = .aborting then some 3
      else if p.2.state = .saved then some 4
      else none
    let σ := if p.2.state = .running then new else old
    match code, σ.slotOf p.1 with
    | some n, some (c, k) =>
      [{ part := σ.partOf c, type := 6, src := k, core := c, slot := k, vf := σ.vfOf c k, fields := [n, (σ.ctxOf c k).lotno.toNat] }]
    | _, _ => []

/-- The events of a step. -/
def Act.notes (old new : State) (a : Act) : List Note := a.programs old new ++ old.leaseNotes new ++ old.nodeNotes new ++ old.taskNotes new

/-- A stream takes an event. -/
def State.addNotes (σ : State) (l : List Note) : State :=
  l.foldl (fun (σ : State) x => σ.event x.part x.type x.src x.core x.slot x.vf (Config.eventPayload x.type x.fields).toNat) σ

/-! ## What a step tells -/

/-- What the telemetry of the partitions makes of a step; nothing of a package that is not in service (R423). -/
def State.observe (old : State) (a : Act) (new : State) : State :=
  if new.condition ≠ 0 ∨ new.observed = [] then new
  else (new.addTally (a.tally old new ++ old.tally new)).addNotes (a.notes old new)

/-- The same of the step that begins a cycle. -/
def State.observeCycle (old new : State) : State :=
  if new.condition ≠ 0 ∨ new.observed = [] then new
  else (new.countCycle.addTally (old.tally new)).addNotes (old.leaseNotes new ++ old.nodeNotes new ++ old.taskNotes new)

end Sys2Proof.Machine
end

