-- ==== Sys2Proof/Machine/Place.lean ====
section
/-!
DEFINITION. How a given word comes to be the next that runs. A program reaches a unit from outside the package or through the units
that load it: a lot through a queue, a graph and a dispatch (R36, R318, R350), an engine's program through a FORK, an episode through
its descriptor (R285), firmware through the boot chain (R418). `placeWord` stands for that load (log 4).
-/

namespace Sys2Proof.Machine

/-- The bytes of a word at a physical address. -/
def State.pokeWord (σ : State) (pa n w : Nat) : State := (bytesAt pa n w).foldl (fun σ p => σ.pokeByte p.1 p.2) σ

/-- The frame the placed code lies in. -/
def placeFrame : Nat := 1

/-- A table whose granule at an address is a normal region of the placed frame, with every right. -/
def Table.mapped (t : Table) (va : Nat) : Table :=
  { t with valid := true, entries := Tbl.set t.entries (va / 2 ^ granLog t) (BitVec.ofNat 32 (placeFrame * 2 ^ 12 + 0x11E)) }

/-- A VF's table of a kind maps an address to the placed frame, which is the VF's. -/
def State.mapFrame (σ : State) (vf kind va : Nat) : State :=
  { σ with tables := Tbl.set σ.tables (vf * 4 + kind) ((Tbl.get σ.tables {} (vf * 4 + kind)).mapped va),
           frames := Tbl.set σ.frames placeFrame { owner := vf, gframe := placeFrame } }

/-- Slot 0 of core 0 holds the lot of a task of VF 1. -/
def State.holdLot (σ : State) : State :=
  if (σ.ctxOf 0 0).task.isSome then σ else
  let t := σ.nextTask
  let n := σ.nextNode
  let σ := { σ with nextTask := t + 1, nextNode := n + 1 }
  let σ := (σ.setNode n { vf := 1, lots := 1 }).setTask t { node := n, state := .running, next := 1, hi := 1, core := some 0 }
  σ.setCtx 0 0 { σ.ctxOf 0 0 with task := some t, stopped := none, exited := false }

/-- An engine that serves slot 0 runs a program whose first word lies at address 0 of its lot's table. -/
def State.runProgram (σ : State) (e : Nat) : State :=
  σ.setEng 0 e { σ.engOf 0 e with
    stopped := false, run := some { prog := { len := 2, loops := [1, 1, 1, 1, 1, 1], vshape := 0x1008 } } }

/-- Slot 0 runs the word at its PC: it is not stopped, its lot goes on, and its lot view does not hide the word. -/
def State.openSlot (σ : State) : State :=
  let c := σ.ctxOf 0 0
  let pa := placeFrame * 2 ^ 21 + c.pc.toNat % 2 ^ granLog (σ.lotTable (σ.vfOf 0 0))
  let off (a : Nat) : Bool := !(decide (pa ≤ a + 7) && decide (a < pa + 4))
  σ.setCtx 0 0
    { c with stopped := none, stopping := none, exited := false, held := c.held.filter fun p => off p.1,
             combs := c.combs.filter fun p => off p.1, seen := c.seen.filter fun p => off p.1 }

/-- A word stands where the next step finds it. -/
def State.placeWord (σ : State) (w : Nat) : State :=
  let ready (σ : State) (a : Act) : State := { σ with condition := 0, agenda := a :: σ.agenda }
  let code (σ : State) (n : Nat) (va : Nat) : State :=
    (σ.mapFrame (σ.vfOf 0 0) 0 va).pokeWord (placeFrame * 2 ^ 21 + va % 2 ^ granLog (σ.lotTable (σ.vfOf 0 0))) n w
  match tableClass w with
  | some .ctl =>
    if w / 2 ^ 26 = 0x3E then
      let σ := (σ.setCore 0 { σ.coreOf 0 with fwProgram := true, fwAwake := true }).setCtx 0 4 { σ.ctxOf 0 4 with halted := false }
      ready (σ.pokeWord (σ.ctxOf 0 4).pc.toNat 4 w) (.ctl 0 4)
    else
      let σ := σ.holdLot
      ready (code σ 4 (σ.ctxOf 0 0).pc.toNat).openSlot (.ctl 0 0)
  | some .vec => ready (code (σ.holdLot.runProgram 0) 4 0).openSlot (.vec 0 0)
  | some .mat =>
    let σ := σ.holdLot.runProgram 4
    ready (code (σ.setFrag 0 0 { σ.fragOf 0 0 with state := 1, slot := 0, faulting := none }) 4 0).openSlot (.mat 0 0)
  | some .copy =>
    let σ := σ.holdLot.runProgram 8
    ready (code (σ.setCopy 0 0 { σ.copyOf 0 0 with leased := true, slot := 0 }) 8 0).openSlot (.copy 0 0)
  | some .rink =>
    let ep : Episode := { state := 2, stepb := 2 ^ 32 - 1, wsize := 2 ^ 21 }
    let σ := (σ.setEp 1 0 ep).setRink 0 (({ resident := [4096], current := some 4096 } : Rink).enter ep)
    ready ((σ.mapFrame 1 2 0).pokeWord (placeFrame * 2 ^ 21) 4 w) (.rink 0)
  | _ => σ

end Sys2Proof.Machine
end

