-- ==== Sys2Proof/Machine/Step.lean ====
section
/-!
DEFINITION. One step of the package: the head of the agenda, seen through the telemetry of its partition; with nothing left in the
cycle, the next cycle. And the state in which a given word is the next to run.
-/

namespace Sys2Proof.Machine

/-- One step. -/
def step (s : State) : Host.Outcome State Fault Refusal :=
  match s.agenda with
  | [] => .next (s.observeCycle s.refill)
  | a :: rest => mapNext (State.observe s a) (({ s with agenda := rest } : State).act a)

/-- `s` with the instruction whose bits are `w` stored where the next step fetches: in a unit whose decoder takes it, with the task,
program or episode that makes the unit run (log 4). -/
def State.withFetchWord (s : State) (_nbits w : Nat) : State := s.placeWord w

end Sys2Proof.Machine
end

