-- ==== Sys2Proof/Laws/PerInstr.lean ====
section
/-!
SUPPORT. For each instruction: a well-formed one is read back from its own word. One lemma per constructor; a step without a
word has nothing to read.
-/

set_option linter.all false

namespace Sys2Proof.Laws.Encodes

/-- The instruction is read back from its word by the decoder of its class. -/
def Statement (i : Instr) : Prop := i.wf = true → ∀ w, encode i = some w → decode i.cls w = some i

theorem fld_of {k lo w : Nat} {v : BitVec k} (h : w / 2 ^ lo % 2 ^ k = v.toNat) : fld k lo w = v := by
  apply BitVec.eq_of_toNat_eq
  simpa [fld] using h

/-- The lowest field of what is left of a word, and what is left above it. -/
theorem peel {w lo k v q : Nat} (h : w / 2 ^ lo = v + 2 ^ k * q) (hv : v < 2 ^ k) :
    w / 2 ^ lo % 2 ^ k = v ∧ w / 2 ^ (lo + k) = q := by
  constructor
  · rw [h, Nat.add_mul_mod_self_left, Nat.mod_eq_of_lt hv]
  · rw [Nat.pow_add, ← Nat.div_div_eq_div_mul, h, Nat.add_mul_div_left _ _ (Nat.two_pow_pos k), Nat.div_eq_of_lt hv, Nat.zero_add]

/-- A field inside another one has the other's bits there. -/
theorem apart {w h l sl sk a b : Nat} (hh : bits w h l = a) (h1 : l ≤ sl) (h2 : sl + sk ≤ h + 1) (hb : a / 2 ^ (sl - l) % 2 ^ sk ≠ b) :
    ¬ w / 2 ^ sl % 2 ^ sk = b := by
  intro e
  apply hb
  subst hh
  subst e
  unfold bits
  have e1 : h + 1 - l = (sl - l) + (h + 1 - sl) := by omega
  rw [e1, Nat.pow_add, Nat.mod_mul_right_div_self, Nat.div_div_eq_div_mul, ← Nat.pow_add]
  have e2 : l + (sl - l) = sl := by omega
  rw [e2]
  have e3 : h + 1 - sl = sk + (h + 1 - sl - sk) := by omega
  rw [e3, Nat.pow_add, Nat.mod_mul_right_mod]

theorem filter_wf {i : Instr} (h : i.wf = true) : Option.filter Instr.wf (some i) = some i := by
  simp [Option.filter, h]

theorem decodeCtlRaw_1 {w : Nat} (h : bits w 31 26 = 1) : decodeCtlRaw w =
    decodeCtl01 w := by
  delta decodeCtlRaw
  rw [h]
  rfl

theorem decodeCtlRaw_2 {w : Nat} (h : bits w 31 26 = 2) : decodeCtlRaw w =
    some (.addi (fld 5 21 w) (fld 5 16 w) (fld 16 0 w)) := by
  delta decodeCtlRaw
  rw [h]
  rfl

theorem decodeCtlRaw_3 {w : Nat} (h : bits w 31 26 = 3) : decodeCtlRaw w =
    some (.andi (fld 5 21 w) (fld 5 16 w) (fld 16 0 w)) := by
  delta decodeCtlRaw
  rw [h]
  rfl

theorem decodeCtlRaw_4 {w : Nat} (h : bits w 31 26 = 4) : decodeCtlRaw w =
    some (.ori (fld 5 21 w) (fld 5 16 w) (fld 16 0 w)) := by
  delta decodeCtlRaw
  rw [h]
  rfl

theorem decodeCtlRaw_5 {w : Nat} (h : bits w 31 26 = 5) : decodeCtlRaw w =
    some (.xori (fld 5 21 w) (fld 5 16 w) (fld 16 0 w)) := by
  delta decodeCtlRaw
  rw [h]
  rfl

theorem decodeCtlRaw_6 {w : Nat} (h : bits w 31 26 = 6) : decodeCtlRaw w =
    decodeCtl06 w := by
  delta decodeCtlRaw
  rw [h]
  rfl

theorem decodeCtlRaw_7 {w : Nat} (h : bits w 31 26 = 7) : decodeCtlRaw w =
    (if bits w 20 16 = 0 then some (.li (fld 5 21 w) (fld 16 0 w)) else none) := by
  delta decodeCtlRaw
  rw [h]
  rfl

theorem decodeCtlRaw_8 {w : Nat} (h : bits w 31 26 = 8) : decodeCtlRaw w =
    (if bits w 20 16 = 0 then some (.lih (fld 5 21 w) (fld 16 0 w)) else none) := by
  delta decodeCtlRaw
  rw [h]
  rfl

theorem decodeCtlRaw_9 {w : Nat} (h : bits w 31 26 = 9) : decodeCtlRaw w =
    some (.muli (fld 5 21 w) (fld 5 16 w) (fld 16 0 w)) := by
  delta decodeCtlRaw
  rw [h]
  rfl

theorem decodeCtlRaw_10 {w : Nat} (h : bits w 31 26 = 10) : decodeCtlRaw w =
    (if bits w 8 0 = 0 then some (.cmp (fld 3 23 w) (fld 4 19 w) (fld 5 14 w) (fld 5 9 w)) else none) := by
  delta decodeCtlRaw
  rw [h]
  rfl

theorem decodeCtlRaw_11 {w : Nat} (h : bits w 31 26 = 11) : decodeCtlRaw w =
    some (.cmpi (fld 3 23 w) (fld 4 19 w) (fld 5 14 w) (fld 14 0 w)) := by
  delta decodeCtlRaw
  rw [h]
  rfl

theorem decodeCtlRaw_12 {w : Nat} (h : bits w 31 26 = 12) : decodeCtlRaw w =
    some (.prep (fld 3 23 w) (fld 23 0 w)) := by
  delta decodeCtlRaw
  rw [h]
  rfl

theorem decodeCtlRaw_13 {w : Nat} (h : bits w 31 26 = 13) : decodeCtlRaw w =
    decodeCtl0D w := by
  delta decodeCtlRaw
  rw [h]
  rfl

theorem decodeCtlRaw_14 {w : Nat} (h : bits w 31 26 = 14) : decodeCtlRaw w =
    decodeCtl0E w := by
  delta decodeCtlRaw
  rw [h]
  rfl

theorem decodeCtlRaw_15 {w : Nat} (h : bits w 31 26 = 15) : decodeCtlRaw w =
    decodeCtl0F w := by
  delta decodeCtlRaw
  rw [h]
  rfl

theorem decodeCtlRaw_16 {w : Nat} (h : bits w 31 26 = 16) : decodeCtlRaw w =
    some (.ld (fld 5 21 w) (fld 5 16 w) (fld 2 14 w) (fld 14 0 w)) := by
  delta decodeCtlRaw
  rw [h]
  rfl

theorem decodeCtlRaw_17 {w : Nat} (h : bits w 31 26 = 17) : decodeCtlRaw w =
    some (.st (fld 5 21 w) (fld 5 16 w) (fld 2 14 w) (fld 14 0 w)) := by
  delta decodeCtlRaw
  rw [h]
  rfl

theorem decodeCtlRaw_18 {w : Nat} (h : bits w 31 26 = 18) : decodeCtlRaw w =
    some (.ldl (fld 5 21 w) (fld 5 16 w) (fld 2 14 w) (fld 14 0 w)) := by
  delta decodeCtlRaw
  rw [h]
  rfl

theorem decodeCtlRaw_19 {w : Nat} (h : bits w 31 26 = 19) : decodeCtlRaw w =
    some (.stl (fld 5 21 w) (fld 5 16 w) (fld 2 14 w) (fld 14 0 w)) := by
  delta decodeCtlRaw
  rw [h]
  rfl

theorem decodeCtlRaw_20 {w : Nat} (h : bits w 31 26 = 20) : decodeCtlRaw w =
    some (.lda (fld 5 21 w) (fld 5 16 w) (fld 2 14 w) (fld 14 0 w)) := by
  delta decodeCtlRaw
  rw [h]
  rfl

theorem decodeCtlRaw_21 {w : Nat} (h : bits w 31 26 = 21) : decodeCtlRaw w =
    some (.sta (fld 5 21 w) (fld 5 16 w) (fld 2 14 w) (fld 14 0 w)) := by
  delta decodeCtlRaw
  rw [h]
  rfl

theorem decodeCtlRaw_22 {w : Nat} (h : bits w 31 26 = 22) : decodeCtlRaw w =
    decodeCtl16 w := by
  delta decodeCtlRaw
  rw [h]
  rfl

theorem decodeCtlRaw_23 {w : Nat} (h : bits w 31 26 = 23) : decodeCtlRaw w =
    (if bits w 25 21 = 0 then some (.pref (fld 5 16 w) (fld 2 14 w) (fld 14 0 w)) else none) := by
  delta decodeCtlRaw
  rw [h]
  rfl

theorem decodeCtlRaw_24 {w : Nat} (h : bits w 31 26 = 24) : decodeCtlRaw w =
    some (.atom (fld 5 21 w) (fld 5 16 w) (fld 5 11 w) (fld 4 7 w) (fld 1 6 w) (fld 1 5 w) (fld 2 3 w) (fld 3 0 w)) := by
  delta decodeCtlRaw
  rw [h]
  rfl

theorem decodeCtlRaw_25 {w : Nat} (h : bits w 31 26 = 25) : decodeCtlRaw w =
    (if bits w 10 7 = 0 then some (.acas (fld 5 21 w) (fld 5 16 w) (fld 5 11 w) (fld 1 6 w) (fld 1 5 w) (fld 2 3 w) (fld 3 0 w)) else none) := by
  delta decodeCtlRaw
  rw [h]
  rfl

theorem decodeCtlRaw_26 {w : Nat} (h : bits w 31 26 = 26) : decodeCtlRaw w =
    decodeCtl1A w := by
  delta decodeCtlRaw
  rw [h]
  rfl

theorem decodeCtlRaw_27 {w : Nat} (h : bits w 31 26 = 27) : decodeCtlRaw w =
    (if bits w 20 16 = 0 then some (.gets (fld 5 21 w) (fld 16 0 w)) else none) := by
  delta decodeCtlRaw
  rw [h]
  rfl

theorem decodeCtlRaw_28 {w : Nat} (h : bits w 31 26 = 28) : decodeCtlRaw w =
    (if bits w 25 21 = 0 then some (.sets (fld 5 16 w) (fld 16 0 w)) else none) := by
  delta decodeCtlRaw
  rw [h]
  rfl

theorem decodeCtlRaw_32 {w : Nat} (h : bits w 31 26 = 32) : decodeCtlRaw w =
    decodeCtl20 w := by
  delta decodeCtlRaw
  rw [h]
  rfl

theorem decodeCtlRaw_33 {w : Nat} (h : bits w 31 26 = 33) : decodeCtlRaw w =
    (if bits w 19 13 = 0 then some (.mark (fld 5 21 w) (fld 1 20 w) (fld 13 0 w)) else none) := by
  delta decodeCtlRaw
  rw [h]
  rfl

theorem decodeCtlRaw_34 {w : Nat} (h : bits w 31 26 = 34) : decodeCtlRaw w =
    decodeCtl22 w := by
  delta decodeCtlRaw
  rw [h]
  rfl

theorem decodeCtlRaw_35 {w : Nat} (h : bits w 31 26 = 35) : decodeCtlRaw w =
    (if bits w 20 13 = 0 then some (.qdrop (fld 5 21 w) (fld 13 0 w)) else none) := by
  delta decodeCtlRaw
  rw [h]
  rfl

theorem decodeCtlRaw_36 {w : Nat} (h : bits w 31 26 = 36) : decodeCtlRaw w =
    decodeCtl24 w := by
  delta decodeCtlRaw
  rw [h]
  rfl

theorem decodeCtlRaw_37 {w : Nat} (h : bits w 31 26 = 37) : decodeCtlRaw w =
    decodeCtl25 w := by
  delta decodeCtlRaw
  rw [h]
  rfl

theorem decodeCtlRaw_38 {w : Nat} (h : bits w 31 26 = 38) : decodeCtlRaw w =
    (if bits w 25 21 = 0 ∧ bits w 15 0 = 0 then some (.phase (fld 5 16 w)) else none) := by
  delta decodeCtlRaw
  rw [h]
  rfl

theorem decodeCtlRaw_39 {w : Nat} (h : bits w 31 26 = 39) : decodeCtlRaw w =
    (if bits w 10 0 = 0 then some (.fenceX (fld 6 20 w) (fld 6 14 w) (fld 3 11 w)) else none) := by
  delta decodeCtlRaw
  rw [h]
  rfl

theorem decodeCtlRaw_40 {w : Nat} (h : bits w 31 26 = 40) : decodeCtlRaw w =
    (if bits w 25 21 = 0 ∧ bits w 5 3 = 0 then some (.waitc (fld 5 16 w) (fld 5 11 w) (fld 5 6 w) (fld 3 0 w)) else none) := by
  delta decodeCtlRaw
  rw [h]
  rfl

theorem decodeCtlRaw_41 {w : Nat} (h : bits w 31 26 = 41) : decodeCtlRaw w =
    decodeCtl29 w := by
  delta decodeCtlRaw
  rw [h]
  rfl

theorem decodeCtlRaw_42 {w : Nat} (h : bits w 31 26 = 42) : decodeCtlRaw w =
    decodeCtl2A w := by
  delta decodeCtlRaw
  rw [h]
  rfl

theorem decodeCtlRaw_43 {w : Nat} (h : bits w 31 26 = 43) : decodeCtlRaw w =
    (if bits w 25 3 = 0 then some (.split (fld 3 0 w)) else none) := by
  delta decodeCtlRaw
  rw [h]
  rfl

theorem decodeCtlRaw_44 {w : Nat} (h : bits w 31 26 = 44) : decodeCtlRaw w =
    (if bits w 25 21 = 0 ∧ bits w 15 0 = 0 then some (.kick (fld 5 16 w)) else none) := by
  delta decodeCtlRaw
  rw [h]
  rfl

theorem decodeCtlRaw_45 {w : Nat} (h : bits w 31 26 = 45) : decodeCtlRaw w =
    decodeCtl2D w := by
  delta decodeCtlRaw
  rw [h]
  rfl

theorem decodeCtlRaw_46 {w : Nat} (h : bits w 31 26 = 46) : decodeCtlRaw w =
    (if bits w 21 21 = 0 ∧ bits w 15 0 = 0 then some (.strm (fld 4 22 w) (fld 5 16 w)) else none) := by
  delta decodeCtlRaw
  rw [h]
  rfl

theorem decodeCtlRaw_47 {w : Nat} (h : bits w 31 26 = 47) : decodeCtlRaw w =
    decodeCtl2F w := by
  delta decodeCtlRaw
  rw [h]
  rfl

theorem decodeCtlRaw_48 {w : Nat} (h : bits w 31 26 = 48) : decodeCtlRaw w =
    (if bits w 22 21 = 0 ∧ bits w 15 0 = 0 then some (.cvset (fld 3 23 w) (fld 5 16 w)) else none) := by
  delta decodeCtlRaw
  rw [h]
  rfl

theorem decodeCtlRaw_49 {w : Nat} (h : bits w 31 26 = 49) : decodeCtlRaw w =
    decodeCtl31 w := by
  delta decodeCtlRaw
  rw [h]
  rfl

theorem decodeCtlRaw_50 {w : Nat} (h : bits w 31 26 = 50) : decodeCtlRaw w =
    decodeCtl32 w := by
  delta decodeCtlRaw
  rw [h]
  rfl

theorem decodeCtlRaw_51 {w : Nat} (h : bits w 31 26 = 51) : decodeCtlRaw w =
    (if bits w 25 16 = 0 then some (.trap (fld 16 0 w)) else none) := by
  delta decodeCtlRaw
  rw [h]
  rfl

theorem decodeCtlRaw_62 {w : Nat} (h : bits w 31 26 = 62) : decodeCtlRaw w =
    decodeCtl3E w := by
  delta decodeCtlRaw
  rw [h]
  rfl

theorem decodeVecRaw_1 {w : Nat} (h : bits w 31 26 = 1) : decodeVecRaw w =
    some (.vadd (fld 7 19 w) (fld 7 12 w) (fld 7 5 w) (fld 1 4 w) (fld 1 3 w) (fld 3 0 w)) := by
  delta decodeVecRaw
  rw [h]
  rfl

theorem decodeVecRaw_2 {w : Nat} (h : bits w 31 26 = 2) : decodeVecRaw w =
    some (.vsub (fld 7 19 w) (fld 7 12 w) (fld 7 5 w) (fld 1 4 w) (fld 1 3 w) (fld 3 0 w)) := by
  delta decodeVecRaw
  rw [h]
  rfl

theorem decodeVecRaw_3 {w : Nat} (h : bits w 31 26 = 3) : decodeVecRaw w =
    some (.vmul (fld 7 19 w) (fld 7 12 w) (fld 7 5 w) (fld 1 4 w) (fld 1 3 w) (fld 3 0 w)) := by
  delta decodeVecRaw
  rw [h]
  rfl

theorem decodeVecRaw_4 {w : Nat} (h : bits w 31 26 = 4) : decodeVecRaw w =
    some (.vfma (fld 7 19 w) (fld 7 12 w) (fld 7 5 w) (fld 1 4 w) (fld 1 3 w) (fld 3 0 w)) := by
  delta decodeVecRaw
  rw [h]
  rfl

theorem decodeVecRaw_5 {w : Nat} (h : bits w 31 26 = 5) : decodeVecRaw w =
    some (.vadds (fld 7 19 w) (fld 7 12 w) (fld 7 5 w) (fld 1 4 w) (fld 1 3 w) (fld 3 0 w)) := by
  delta decodeVecRaw
  rw [h]
  rfl

theorem decodeVecRaw_6 {w : Nat} (h : bits w 31 26 = 6) : decodeVecRaw w =
    some (.vsubs (fld 7 19 w) (fld 7 12 w) (fld 7 5 w) (fld 1 4 w) (fld 1 3 w) (fld 3 0 w)) := by
  delta decodeVecRaw
  rw [h]
  rfl

theorem decodeVecRaw_7 {w : Nat} (h : bits w 31 26 = 7) : decodeVecRaw w =
    some (.vmin (fld 7 19 w) (fld 7 12 w) (fld 7 5 w) (fld 1 4 w) (fld 1 3 w) (fld 3 0 w)) := by
  delta decodeVecRaw
  rw [h]
  rfl

theorem decodeVecRaw_8 {w : Nat} (h : bits w 31 26 = 8) : decodeVecRaw w =
    some (.vmax (fld 7 19 w) (fld 7 12 w) (fld 7 5 w) (fld 1 4 w) (fld 1 3 w) (fld 3 0 w)) := by
  delta decodeVecRaw
  rw [h]
  rfl

theorem decodeVecRaw_9 {w : Nat} (h : bits w 31 26 = 9) : decodeVecRaw w =
    some (.vmulh (fld 7 19 w) (fld 7 12 w) (fld 7 5 w) (fld 1 4 w) (fld 1 3 w) (fld 3 0 w)) := by
  delta decodeVecRaw
  rw [h]
  rfl

theorem decodeVecRaw_10 {w : Nat} (h : bits w 31 26 = 10) : decodeVecRaw w =
    some (.vand (fld 7 19 w) (fld 7 12 w) (fld 7 5 w) (fld 1 4 w) (fld 1 3 w) (fld 3 0 w)) := by
  delta decodeVecRaw
  rw [h]
  rfl

theorem decodeVecRaw_11 {w : Nat} (h : bits w 31 26 = 11) : decodeVecRaw w =
    some (.vor (fld 7 19 w) (fld 7 12 w) (fld 7 5 w) (fld 1 4 w) (fld 1 3 w) (fld 3 0 w)) := by
  delta decodeVecRaw
  rw [h]
  rfl

theorem decodeVecRaw_12 {w : Nat} (h : bits w 31 26 = 12) : decodeVecRaw w =
    some (.vxor (fld 7 19 w) (fld 7 12 w) (fld 7 5 w) (fld 1 4 w) (fld 1 3 w) (fld 3 0 w)) := by
  delta decodeVecRaw
  rw [h]
  rfl

theorem decodeVecRaw_13 {w : Nat} (h : bits w 31 26 = 13) : decodeVecRaw w =
    some (.vshl (fld 7 19 w) (fld 7 12 w) (fld 7 5 w) (fld 1 4 w) (fld 1 3 w) (fld 3 0 w)) := by
  delta decodeVecRaw
  rw [h]
  rfl

theorem decodeVecRaw_14 {w : Nat} (h : bits w 31 26 = 14) : decodeVecRaw w =
    some (.vshr (fld 7 19 w) (fld 7 12 w) (fld 7 5 w) (fld 1 4 w) (fld 1 3 w) (fld 3 0 w)) := by
  delta decodeVecRaw
  rw [h]
  rfl

theorem decodeVecRaw_15 {w : Nat} (h : bits w 31 26 = 15) : decodeVecRaw w =
    some (.vhash (fld 7 19 w) (fld 7 12 w) (fld 7 5 w) (fld 1 4 w) (fld 1 3 w) (fld 3 0 w)) := by
  delta decodeVecRaw
  rw [h]
  rfl

theorem decodeVecRaw_16 {w : Nat} (h : bits w 31 26 = 16) : decodeVecRaw w =
    (if bits w 25 22 = 0 then some (.vceq (fld 3 19 w) (fld 7 12 w) (fld 7 5 w) (fld 1 4 w) (fld 1 3 w) (fld 3 0 w)) else none) := by
  delta decodeVecRaw
  rw [h]
  rfl

theorem decodeVecRaw_17 {w : Nat} (h : bits w 31 26 = 17) : decodeVecRaw w =
    (if bits w 25 22 = 0 then some (.vcne (fld 3 19 w) (fld 7 12 w) (fld 7 5 w) (fld 1 4 w) (fld 1 3 w) (fld 3 0 w)) else none) := by
  delta decodeVecRaw
  rw [h]
  rfl

theorem decodeVecRaw_18 {w : Nat} (h : bits w 31 26 = 18) : decodeVecRaw w =
    (if bits w 25 22 = 0 then some (.vclt (fld 3 19 w) (fld 7 12 w) (fld 7 5 w) (fld 1 4 w) (fld 1 3 w) (fld 3 0 w)) else none) := by
  delta decodeVecRaw
  rw [h]
  rfl

theorem decodeVecRaw_19 {w : Nat} (h : bits w 31 26 = 19) : decodeVecRaw w =
    (if bits w 25 22 = 0 then some (.vcle (fld 3 19 w) (fld 7 12 w) (fld 7 5 w) (fld 1 4 w) (fld 1 3 w) (fld 3 0 w)) else none) := by
  delta decodeVecRaw
  rw [h]
  rfl

theorem decodeVecRaw_20 {w : Nat} (h : bits w 31 26 = 20) : decodeVecRaw w =
    (if bits w 25 22 = 0 then some (.vcgt (fld 3 19 w) (fld 7 12 w) (fld 7 5 w) (fld 1 4 w) (fld 1 3 w) (fld 3 0 w)) else none) := by
  delta decodeVecRaw
  rw [h]
  rfl

theorem decodeVecRaw_21 {w : Nat} (h : bits w 31 26 = 21) : decodeVecRaw w =
    (if bits w 25 22 = 0 then some (.vcge (fld 3 19 w) (fld 7 12 w) (fld 7 5 w) (fld 1 4 w) (fld 1 3 w) (fld 3 0 w)) else none) := by
  delta decodeVecRaw
  rw [h]
  rfl

theorem decodeVecRaw_22 {w : Nat} (h : bits w 31 26 = 22) : decodeVecRaw w =
    some (.vsel (fld 7 19 w) (fld 7 12 w) (fld 7 5 w) (fld 1 4 w) (fld 1 3 w) (fld 3 0 w)) := by
  delta decodeVecRaw
  rw [h]
  rfl

theorem decodeVecRaw_23 {w : Nat} (h : bits w 31 26 = 23) : decodeVecRaw w =
    (if bits w 11 5 = 0 ∧ bits w 3 3 = 0 then some (.vmov (fld 7 19 w) (fld 7 12 w) (fld 1 4 w) (fld 3 0 w)) else none) := by
  delta decodeVecRaw
  rw [h]
  rfl

theorem decodeVecRaw_24 {w : Nat} (h : bits w 31 26 = 24) : decodeVecRaw w =
    (if bits w 3 3 = 0 then some (.vcvt (fld 7 19 w) (fld 7 12 w) (fld 3 9 w) (fld 4 5 w) (fld 1 4 w) (fld 3 0 w)) else none) := by
  delta decodeVecRaw
  rw [h]
  rfl

theorem decodeVecRaw_25 {w : Nat} (h : bits w 31 26 = 25) : decodeVecRaw w =
    (if bits w 8 7 = 0 ∧ bits w 3 3 = 0 then some (.vqnt (fld 7 19 w) (fld 7 12 w) (fld 3 9 w) (fld 2 5 w) (fld 1 4 w) (fld 3 0 w)) else none) := by
  delta decodeVecRaw
  rw [h]
  rfl

theorem decodeVecRaw_26 {w : Nat} (h : bits w 31 26 = 26) : decodeVecRaw w =
    some (.vdq (fld 7 19 w) (fld 7 12 w) (fld 7 5 w) (fld 1 4 w) (fld 1 3 w) (fld 3 0 w)) := by
  delta decodeVecRaw
  rw [h]
  rfl

theorem decodeVecRaw_32 {w : Nat} (h : bits w 31 26 = 32) : decodeVecRaw w =
    some (.vaddi (fld 7 19 w) (fld 7 12 w) (fld 9 3 w) (fld 3 0 w)) := by
  delta decodeVecRaw
  rw [h]
  rfl

theorem decodeVecRaw_33 {w : Nat} (h : bits w 31 26 = 33) : decodeVecRaw w =
    some (.vmuli (fld 7 19 w) (fld 7 12 w) (fld 9 3 w) (fld 3 0 w)) := by
  delta decodeVecRaw
  rw [h]
  rfl

theorem decodeVecRaw_34 {w : Nat} (h : bits w 31 26 = 34) : decodeVecRaw w =
    some (.vandi (fld 7 19 w) (fld 7 12 w) (fld 9 3 w) (fld 3 0 w)) := by
  delta decodeVecRaw
  rw [h]
  rfl

theorem decodeVecRaw_35 {w : Nat} (h : bits w 31 26 = 35) : decodeVecRaw w =
    some (.vori (fld 7 19 w) (fld 7 12 w) (fld 9 3 w) (fld 3 0 w)) := by
  delta decodeVecRaw
  rw [h]
  rfl

theorem decodeVecRaw_36 {w : Nat} (h : bits w 31 26 = 36) : decodeVecRaw w =
    some (.vxori (fld 7 19 w) (fld 7 12 w) (fld 9 3 w) (fld 3 0 w)) := by
  delta decodeVecRaw
  rw [h]
  rfl

theorem decodeVecRaw_37 {w : Nat} (h : bits w 31 26 = 37) : decodeVecRaw w =
    some (.vshli (fld 7 19 w) (fld 7 12 w) (fld 9 3 w) (fld 3 0 w)) := by
  delta decodeVecRaw
  rw [h]
  rfl

theorem decodeVecRaw_38 {w : Nat} (h : bits w 31 26 = 38) : decodeVecRaw w =
    some (.vshri (fld 7 19 w) (fld 7 12 w) (fld 9 3 w) (fld 3 0 w)) := by
  delta decodeVecRaw
  rw [h]
  rfl

theorem decodeVecRaw_39 {w : Nat} (h : bits w 31 26 = 39) : decodeVecRaw w =
    (if bits w 18 12 = 0 then some (.vsplat (fld 7 19 w) (fld 9 3 w) (fld 3 0 w)) else none) := by
  delta decodeVecRaw
  rw [h]
  rfl

theorem decodeVecRaw_40 {w : Nat} (h : bits w 31 26 = 40) : decodeVecRaw w =
    some (.vmini (fld 7 19 w) (fld 7 12 w) (fld 9 3 w) (fld 3 0 w)) := by
  delta decodeVecRaw
  rw [h]
  rfl

theorem decodeVecRaw_41 {w : Nat} (h : bits w 31 26 = 41) : decodeVecRaw w =
    some (.vmaxi (fld 7 19 w) (fld 7 12 w) (fld 9 3 w) (fld 3 0 w)) := by
  delta decodeVecRaw
  rw [h]
  rfl

theorem decodeVecRaw_48 {w : Nat} (h : bits w 31 26 = 48) : decodeVecRaw w =
    (if bits w 18 18 = 0 ∧ bits w 4 3 = 0 then some (.vlda (fld 7 19 w) (fld 6 12 w) (fld 7 5 w) (fld 3 0 w)) else none) := by
  delta decodeVecRaw
  rw [h]
  rfl

theorem decodeVecRaw_49 {w : Nat} (h : bits w 31 26 = 49) : decodeVecRaw w =
    (if bits w 25 25 = 0 ∧ bits w 3 3 = 0 then some (.vsta (fld 6 19 w) (fld 7 12 w) (fld 7 5 w) (fld 1 4 w) (fld 3 0 w)) else none) := by
  delta decodeVecRaw
  rw [h]
  rfl

theorem decodeVecRaw_50 {w : Nat} (h : bits w 31 26 = 50) : decodeVecRaw w =
    decodeVec32 w := by
  delta decodeVecRaw
  rw [h]
  rfl

theorem decodeVecRaw_51 {w : Nat} (h : bits w 31 26 = 51) : decodeVecRaw w =
    (if bits w 25 25 = 0 ∧ bits w 3 3 = 0 then some (.vstc (fld 6 19 w) (fld 7 12 w) (fld 7 5 w) (fld 1 4 w) (fld 3 0 w)) else none) := by
  delta decodeVecRaw
  rw [h]
  rfl

theorem decodeVecRaw_52 {w : Nat} (h : bits w 31 26 = 52) : decodeVecRaw w =
    (if bits w 18 18 = 0 ∧ bits w 11 11 = 0 ∧ bits w 4 3 = 0 then some (.vgath (fld 7 19 w) (fld 6 12 w) (fld 6 5 w) (fld 3 0 w)) else none) := by
  delta decodeVecRaw
  rw [h]
  rfl

theorem decodeVecRaw_53 {w : Nat} (h : bits w 31 26 = 53) : decodeVecRaw w =
    (if bits w 25 25 = 0 ∧ bits w 11 11 = 0 ∧ bits w 3 3 = 0 then some (.vscat (fld 6 19 w) (fld 7 12 w) (fld 6 5 w) (fld 1 4 w) (fld 3 0 w)) else none) := by
  delta decodeVecRaw
  rw [h]
  rfl

theorem decodeVecRaw_54 {w : Nat} (h : bits w 31 26 = 54) : decodeVecRaw w =
    (if bits w 25 25 = 0 ∧ bits w 18 18 = 0 ∧ bits w 6 3 = 0 then some (.vatom (fld 6 19 w) (fld 6 12 w) (fld 4 8 w) (fld 1 7 w) (fld 3 0 w)) else none) := by
  delta decodeVecRaw
  rw [h]
  rfl

theorem decodeVecRaw_55 {w : Nat} (h : bits w 31 26 = 55) : decodeVecRaw w =
    some (.vperm (fld 7 19 w) (fld 7 12 w) (fld 7 5 w) (fld 1 4 w) (fld 1 3 w) (fld 3 0 w)) := by
  delta decodeVecRaw
  rw [h]
  rfl

theorem decodeVecRaw_56 {w : Nat} (h : bits w 31 26 = 56) : decodeVecRaw w =
    (if bits w 25 25 = 0 then some (.vshuf (fld 6 19 w) (fld 7 12 w) (fld 3 9 w) (fld 6 3 w) (fld 3 0 w)) else none) := by
  delta decodeVecRaw
  rw [h]
  rfl

theorem decodeVecRaw_57 {w : Nat} (h : bits w 31 26 = 57) : decodeVecRaw w =
    (if bits w 8 5 = 0 ∧ bits w 3 3 = 0 then some (.vred (fld 7 19 w) (fld 7 12 w) (fld 3 9 w) (fld 1 4 w) (fld 3 0 w)) else none) := by
  delta decodeVecRaw
  rw [h]
  rfl

theorem decodeVecRaw_58 {w : Nat} (h : bits w 31 26 = 58) : decodeVecRaw w =
    (if bits w 8 5 = 0 ∧ bits w 3 3 = 0 then some (.vscan (fld 7 19 w) (fld 7 12 w) (fld 3 9 w) (fld 1 4 w) (fld 3 0 w)) else none) := by
  delta decodeVecRaw
  rw [h]
  rfl

theorem decodeVecRaw_59 {w : Nat} (h : bits w 31 26 = 59) : decodeVecRaw w =
    (if bits w 25 22 = 0 ∧ bits w 18 15 = 0 ∧ bits w 8 8 = 0 ∧ bits w 4 3 = 0 then some (.vplog (fld 3 19 w) (fld 3 12 w) (fld 3 9 w) (fld 3 5 w) (fld 3 0 w)) else none) := by
  delta decodeVecRaw
  rw [h]
  rfl

theorem decodeVecRaw_60 {w : Nat} (h : bits w 31 26 = 60) : decodeVecRaw w =
    (if bits w 25 0 = 0 then some .vhalt else none) := by
  delta decodeVecRaw
  rw [h]
  rfl

theorem decodeVecRaw_61 {w : Nat} (h : bits w 31 26 = 61) : decodeVecRaw w =
    (if bits w 20 0 = 0 then some (.vfl (fld 1 25 w) (fld 1 24 w) (fld 3 21 w)) else none) := by
  delta decodeVecRaw
  rw [h]
  rfl

theorem decodeVecRaw_63 {w : Nat} (h : bits w 31 26 = 63) : decodeVecRaw w =
    decodeVec3F w := by
  delta decodeVecRaw
  rw [h]
  rfl

theorem decodeMatRaw_1 {w : Nat} (h : bits w 31 27 = 1) : decodeMatRaw w =
    some (.mma (fld 1 26 w) (fld 1 25 w) (fld 1 24 w) (fld 3 21 w) (fld 4 17 w) (fld 4 13 w) (fld 11 2 w) (fld 2 0 w)) := by
  delta decodeMatRaw
  rw [h]
  rfl

theorem decodeMatRaw_2 {w : Nat} (h : bits w 31 27 = 2) : decodeMatRaw w =
    some (.conv (fld 1 26 w) (fld 1 25 w) (fld 1 24 w) (fld 3 21 w) (fld 3 18 w) (fld 4 14 w) (fld 4 10 w) (fld 2 8 w) (fld 8 0 w)) := by
  delta decodeMatRaw
  rw [h]
  rfl

theorem decodeMatRaw_3 {w : Nat} (h : bits w 31 27 = 3) : decodeMatRaw w =
    (if bits w 24 24 = 0 ∧ bits w 1 0 = 0 then some (.accz (fld 1 26 w) (fld 1 25 w) (fld 3 21 w) (fld 8 13 w) (fld 11 2 w)) else none) := by
  delta decodeMatRaw
  rw [h]
  rfl

theorem decodeMatRaw_4 {w : Nat} (h : bits w 31 27 = 4) : decodeMatRaw w =
    (if bits w 24 24 = 0 ∧ bits w 15 13 = 0 ∧ bits w 1 0 = 0 then some (.accmv (fld 1 26 w) (fld 1 25 w) (fld 3 21 w) (fld 4 17 w) (fld 1 16 w) (fld 11 2 w)) else none) := by
  delta decodeMatRaw
  rw [h]
  rfl

theorem decodeMatRaw_5 {w : Nat} (h : bits w 31 27 = 5) : decodeMatRaw w =
    (if bits w 24 24 = 0 ∧ bits w 16 13 = 0 then some (.swait (fld 1 26 w) (fld 1 25 w) (fld 3 21 w) (fld 4 17 w) (fld 13 0 w)) else none) := by
  delta decodeMatRaw
  rw [h]
  rfl

theorem decodeMatRaw_6 {w : Nat} (h : bits w 31 27 = 6) : decodeMatRaw w =
    (if bits w 24 24 = 0 ∧ bits w 16 13 = 0 then some (.sadv (fld 1 26 w) (fld 1 25 w) (fld 3 21 w) (fld 4 17 w) (fld 13 0 w)) else none) := by
  delta decodeMatRaw
  rw [h]
  rfl

theorem decodeMatRaw_7 {w : Nat} (h : bits w 31 27 = 7) : decodeMatRaw w =
    (if bits w 24 24 = 0 ∧ bits w 20 17 = 0 then some (.smark (fld 1 26 w) (fld 1 25 w) (fld 3 21 w) (fld 1 16 w) (fld 16 0 w)) else none) := by
  delta decodeMatRaw
  rw [h]
  rfl

theorem decodeMatRaw_8 {w : Nat} (h : bits w 31 27 = 8) : decodeMatRaw w =
    (if bits w 24 24 = 0 ∧ bits w 9 0 = 0 then some (.linkcfg (fld 1 26 w) (fld 1 25 w) (fld 3 21 w) (fld 3 18 w) (fld 1 17 w) (fld 3 14 w) (fld 4 10 w)) else none) := by
  delta decodeMatRaw
  rw [h]
  rfl

theorem decodeMatRaw_9 {w : Nat} (h : bits w 31 27 = 9) : decodeMatRaw w =
    (if bits w 24 24 = 0 ∧ bits w 20 17 = 0 ∧ bits w 12 0 = 0 then some (.wld (fld 1 26 w) (fld 1 25 w) (fld 3 21 w) (fld 4 13 w)) else none) := by
  delta decodeMatRaw
  rw [h]
  rfl

theorem decodeMatRaw_10 {w : Nat} (h : bits w 31 27 = 10) : decodeMatRaw w =
    (if bits w 24 24 = 0 ∧ bits w 16 13 = 0 ∧ bits w 1 0 = 0 then some (.accld (fld 1 26 w) (fld 1 25 w) (fld 3 21 w) (fld 4 17 w) (fld 11 2 w)) else none) := by
  delta decodeMatRaw
  rw [h]
  rfl

theorem decodeMatRaw_11 {w : Nat} (h : bits w 31 27 = 11) : decodeMatRaw w =
    (if bits w 24 24 = 0 ∧ bits w 16 0 = 0 then some (.srst (fld 1 26 w) (fld 1 25 w) (fld 3 21 w) (fld 4 17 w)) else none) := by
  delta decodeMatRaw
  rw [h]
  rfl

theorem decodeMatRaw_30 {w : Nat} (h : bits w 31 27 = 30) : decodeMatRaw w =
    (if bits w 24 24 = 0 ∧ bits w 20 0 = 0 then some (.matNop (fld 1 26 w) (fld 1 25 w) (fld 3 21 w)) else none) := by
  delta decodeMatRaw
  rw [h]
  rfl

theorem decodeMatRaw_31 {w : Nat} (h : bits w 31 27 = 31) : decodeMatRaw w =
    (if bits w 26 0 = 0 then some .matHalt else none) := by
  delta decodeMatRaw
  rw [h]
  rfl

theorem decodeCopyRaw_1 {w : Nat} (h : bits w 31 27 = 1) : decodeCopyRaw w =
    decodeCopy01 w := by
  delta decodeCopyRaw
  rw [h]
  rfl

theorem decodeCopyRaw_2 {w : Nat} (h : bits w 31 27 = 2) : decodeCopyRaw w =
    decodeCopy02 w := by
  delta decodeCopyRaw
  rw [h]
  rfl

theorem decodeCopyRaw_3 {w : Nat} (h : bits w 31 27 = 3) : decodeCopyRaw w =
    (if bits w 26 25 = 0 ∧ bits w 3 0 = 0 then some (.cstq (fld 1 24 w) (fld 1 23 w) (fld 6 17 w) (fld 4 13 w) (fld 4 9 w) (fld 3 6 w) (fld 2 4 w)) else none) := by
  delta decodeCopyRaw
  rw [h]
  rfl

theorem decodeCopyRaw_4 {w : Nat} (h : bits w 31 27 = 4) : decodeCopyRaw w =
    (if bits w 26 25 = 0 ∧ bits w 0 0 = 0 then some (.cmc (fld 1 24 w) (fld 1 23 w) (fld 6 17 w) (fld 4 13 w) (fld 4 9 w) (fld 8 1 w)) else none) := by
  delta decodeCopyRaw
  rw [h]
  rfl

theorem decodeCopyRaw_5 {w : Nat} (h : bits w 31 27 = 5) : decodeCopyRaw w =
    (if bits w 26 25 = 0 ∧ bits w 4 0 = 0 then some (.cga (fld 1 24 w) (fld 1 23 w) (fld 6 17 w) (fld 4 13 w) (fld 4 9 w) (fld 4 5 w)) else none) := by
  delta decodeCopyRaw
  rw [h]
  rfl

theorem decodeCopyRaw_6 {w : Nat} (h : bits w 31 27 = 6) : decodeCopyRaw w =
    (if bits w 26 25 = 0 ∧ bits w 4 0 = 0 then some (.csc (fld 1 24 w) (fld 1 23 w) (fld 6 17 w) (fld 4 13 w) (fld 4 9 w) (fld 4 5 w)) else none) := by
  delta decodeCopyRaw
  rw [h]
  rfl

theorem decodeCopyRaw_7 {w : Nat} (h : bits w 31 27 = 7) : decodeCopyRaw w =
    (if bits w 26 25 = 0 ∧ bits w 8 0 = 0 then some (.crw (fld 1 24 w) (fld 1 23 w) (fld 6 17 w) (fld 4 13 w) (fld 4 9 w)) else none) := by
  delta decodeCopyRaw
  rw [h]
  rfl

theorem decodeCopyRaw_8 {w : Nat} (h : bits w 31 27 = 8) : decodeCopyRaw w =
    (if bits w 26 25 = 0 ∧ bits w 8 0 = 0 then some (.cred (fld 1 24 w) (fld 1 23 w) (fld 6 17 w) (fld 4 13 w) (fld 4 9 w)) else none) := by
  delta decodeCopyRaw
  rw [h]
  rfl

theorem decodeCopyRaw_9 {w : Nat} (h : bits w 31 27 = 9) : decodeCopyRaw w =
    (if bits w 26 25 = 0 ∧ bits w 4 0 = 0 then some (.cldm (fld 1 24 w) (fld 1 23 w) (fld 6 17 w) (fld 4 13 w) (fld 6 7 w) (fld 2 5 w) (fld 32 32 w)) else none) := by
  delta decodeCopyRaw
  rw [h]
  rfl

theorem decodeCopyRaw_10 {w : Nat} (h : bits w 31 27 = 10) : decodeCopyRaw w =
    (if bits w 23 17 = 0 then some (.cwt (fld 1 26 w) (fld 1 25 w) (fld 1 24 w) (fld 3 14 w) (fld 6 8 w) (fld 8 0 w)) else none) := by
  delta decodeCopyRaw
  rw [h]
  rfl

theorem decodeCopyRaw_11 {w : Nat} (h : bits w 31 27 = 11) : decodeCopyRaw w =
    (if bits w 23 17 = 0 then some (.cadv (fld 1 26 w) (fld 1 25 w) (fld 1 24 w) (fld 3 14 w) (fld 6 8 w) (fld 8 0 w)) else none) := by
  delta decodeCopyRaw
  rw [h]
  rfl

theorem decodeCopyRaw_12 {w : Nat} (h : bits w 31 27 = 12) : decodeCopyRaw w =
    (if bits w 26 25 = 0 ∧ bits w 23 17 = 0 then some (.cmark (fld 1 24 w) (fld 1 16 w) (fld 16 0 w)) else none) := by
  delta decodeCopyRaw
  rw [h]
  rfl

theorem decodeCopyRaw_30 {w : Nat} (h : bits w 31 27 = 30) : decodeCopyRaw w =
    (if bits w 23 17 = 0 ∧ bits w 13 0 = 0 then some (.cnop (fld 1 26 w) (fld 1 25 w) (fld 1 24 w) (fld 3 14 w)) else none) := by
  delta decodeCopyRaw
  rw [h]
  rfl

theorem decodeCopyRaw_31 {w : Nat} (h : bits w 31 27 = 31) : decodeCopyRaw w =
    (if bits w 26 25 = 0 ∧ bits w 23 0 = 0 then some (if bits w 24 24 = 1 then .chaltS else .chalt) else none) := by
  delta decodeCopyRaw
  rw [h]
  rfl

theorem add (d : BitVec 5) (s : BitVec 5) (t : BitVec 5) : Statement (.add d s t) := by
  intro hwf w he
  have he : 67108864 + d.toNat * 2097152 + s.toNat * 65536 + t.toNat * 2048 = w := Option.some.inj he
  have r0 : w / 2 ^ 0 = 0 + 2 ^ 11 * (t.toNat + 2 ^ 5 * (s.toNat + 2 ^ 5 * (d.toNat + 2 ^ 5 * (1 + 2 ^ 6 * (0))))) := by rw [← he, Nat.pow_zero, Nat.div_one]; ring
  obtain ⟨c0, r1⟩ := peel r0 (by decide)
  obtain ⟨g1, r2⟩ := peel r1 t.isLt
  obtain ⟨g2, r3⟩ := peel r2 s.isLt
  obtain ⟨g3, r4⟩ := peel r3 d.isLt
  obtain ⟨c4, -⟩ := peel r4 (by decide)
  have f0 : bits w 10 0 = 0 := c0
  have f1 : bits w 31 26 = 1 := c4
  have k1 : fld 5 11 w = t := fld_of g1
  have k2 : fld 5 16 w = s := fld_of g2
  have k3 : fld 5 21 w = d := fld_of g3
  show Option.filter Instr.wf (decodeCtlRaw w) = _
  rw [decodeCtlRaw_1 f1]
  delta decodeCtl01
  simp only [f0, k1, k2, k3, and_self, reduceIte, and_true, true_and, and_false, false_and, Nat.reduceEqDiff]
  exact filter_wf hwf

theorem sub (d : BitVec 5) (s : BitVec 5) (t : BitVec 5) : Statement (.sub d s t) := by
  intro hwf w he
  have he : 67108865 + d.toNat * 2097152 + s.toNat * 65536 + t.toNat * 2048 = w := Option.some.inj he
  have r0 : w / 2 ^ 0 = 1 + 2 ^ 11 * (t.toNat + 2 ^ 5 * (s.toNat + 2 ^ 5 * (d.toNat + 2 ^ 5 * (1 + 2 ^ 6 * (0))))) := by rw [← he, Nat.pow_zero, Nat.div_one]; ring
  obtain ⟨c0, r1⟩ := peel r0 (by decide)
  obtain ⟨g1, r2⟩ := peel r1 t.isLt
  obtain ⟨g2, r3⟩ := peel r2 s.isLt
  obtain ⟨g3, r4⟩ := peel r3 d.isLt
  obtain ⟨c4, -⟩ := peel r4 (by decide)
  have f0 : bits w 10 0 = 1 := c0
  have f1 : bits w 31 26 = 1 := c4
  have k1 : fld 5 11 w = t := fld_of g1
  have k2 : fld 5 16 w = s := fld_of g2
  have k3 : fld 5 21 w = d := fld_of g3
  show Option.filter Instr.wf (decodeCtlRaw w) = _
  rw [decodeCtlRaw_1 f1]
  delta decodeCtl01
  simp only [f0, k1, k2, k3, and_self, reduceIte, and_true, true_and, and_false, false_and, Nat.reduceEqDiff]
  exact filter_wf hwf

theorem and (d : BitVec 5) (s : BitVec 5) (t : BitVec 5) : Statement (.and d s t) := by
  intro hwf w he
  have he : 67108866 + d.toNat * 2097152 + s.toNat * 65536 + t.toNat * 2048 = w := Option.some.inj he
  have r0 : w / 2 ^ 0 = 2 + 2 ^ 11 * (t.toNat + 2 ^ 5 * (s.toNat + 2 ^ 5 * (d.toNat + 2 ^ 5 * (1 + 2 ^ 6 * (0))))) := by rw [← he, Nat.pow_zero, Nat.div_one]; ring
  obtain ⟨c0, r1⟩ := peel r0 (by decide)
  obtain ⟨g1, r2⟩ := peel r1 t.isLt
  obtain ⟨g2, r3⟩ := peel r2 s.isLt
  obtain ⟨g3, r4⟩ := peel r3 d.isLt
  obtain ⟨c4, -⟩ := peel r4 (by decide)
  have f0 : bits w 10 0 = 2 := c0
  have f1 : bits w 31 26 = 1 := c4
  have k1 : fld 5 11 w = t := fld_of g1
  have k2 : fld 5 16 w = s := fld_of g2
  have k3 : fld 5 21 w = d := fld_of g3
  show Option.filter Instr.wf (decodeCtlRaw w) = _
  rw [decodeCtlRaw_1 f1]
  delta decodeCtl01
  simp only [f0, k1, k2, k3, and_self, reduceIte, and_true, true_and, and_false, false_and, Nat.reduceEqDiff]
  exact filter_wf hwf

theorem or (d : BitVec 5) (s : BitVec 5) (t : BitVec 5) : Statement (.or d s t) := by
  intro hwf w he
  have he : 67108867 + d.toNat * 2097152 + s.toNat * 65536 + t.toNat * 2048 = w := Option.some.inj he
  have r0 : w / 2 ^ 0 = 3 + 2 ^ 11 * (t.toNat + 2 ^ 5 * (s.toNat + 2 ^ 5 * (d.toNat + 2 ^ 5 * (1 + 2 ^ 6 * (0))))) := by rw [← he, Nat.pow_zero, Nat.div_one]; ring
  obtain ⟨c0, r1⟩ := peel r0 (by decide)
  obtain ⟨g1, r2⟩ := peel r1 t.isLt
  obtain ⟨g2, r3⟩ := peel r2 s.isLt
  obtain ⟨g3, r4⟩ := peel r3 d.isLt
  obtain ⟨c4, -⟩ := peel r4 (by decide)
  have f0 : bits w 10 0 = 3 := c0
  have f1 : bits w 31 26 = 1 := c4
  have k1 : fld 5 11 w = t := fld_of g1
  have k2 : fld 5 16 w = s := fld_of g2
  have k3 : fld 5 21 w = d := fld_of g3
  show Option.filter Instr.wf (decodeCtlRaw w) = _
  rw [decodeCtlRaw_1 f1]
  delta decodeCtl01
  simp only [f0, k1, k2, k3, and_self, reduceIte, and_true, true_and, and_false, false_and, Nat.reduceEqDiff]
  exact filter_wf hwf

theorem xor (d : BitVec 5) (s : BitVec 5) (t : BitVec 5) : Statement (.xor d s t) := by
  intro hwf w he
  have he : 67108868 + d.toNat * 2097152 + s.toNat * 65536 + t.toNat * 2048 = w := Option.some.inj he
  have r0 : w / 2 ^ 0 = 4 + 2 ^ 11 * (t.toNat + 2 ^ 5 * (s.toNat + 2 ^ 5 * (d.toNat + 2 ^ 5 * (1 + 2 ^ 6 * (0))))) := by rw [← he, Nat.pow_zero, Nat.div_one]; ring
  obtain ⟨c0, r1⟩ := peel r0 (by decide)
  obtain ⟨g1, r2⟩ := peel r1 t.isLt
  obtain ⟨g2, r3⟩ := peel r2 s.isLt
  obtain ⟨g3, r4⟩ := peel r3 d.isLt
  obtain ⟨c4, -⟩ := peel r4 (by decide)
  have f0 : bits w 10 0 = 4 := c0
  have f1 : bits w 31 26 = 1 := c4
  have k1 : fld 5 11 w = t := fld_of g1
  have k2 : fld 5 16 w = s := fld_of g2
  have k3 : fld 5 21 w = d := fld_of g3
  show Option.filter Instr.wf (decodeCtlRaw w) = _
  rw [decodeCtlRaw_1 f1]
  delta decodeCtl01
  simp only [f0, k1, k2, k3, and_self, reduceIte, and_true, true_and, and_false, false_and, Nat.reduceEqDiff]
  exact filter_wf hwf

theorem andn (d : BitVec 5) (s : BitVec 5) (t : BitVec 5) : Statement (.andn d s t) := by
  intro hwf w he
  have he : 67108869 + d.toNat * 2097152 + s.toNat * 65536 + t.toNat * 2048 = w := Option.some.inj he
  have r0 : w / 2 ^ 0 = 5 + 2 ^ 11 * (t.toNat + 2 ^ 5 * (s.toNat + 2 ^ 5 * (d.toNat + 2 ^ 5 * (1 + 2 ^ 6 * (0))))) := by rw [← he, Nat.pow_zero, Nat.div_one]; ring
  obtain ⟨c0, r1⟩ := peel r0 (by decide)
  obtain ⟨g1, r2⟩ := peel r1 t.isLt
  obtain ⟨g2, r3⟩ := peel r2 s.isLt
  obtain ⟨g3, r4⟩ := peel r3 d.isLt
  obtain ⟨c4, -⟩ := peel r4 (by decide)
  have f0 : bits w 10 0 = 5 := c0
  have f1 : bits w 31 26 = 1 := c4
  have k1 : fld 5 11 w = t := fld_of g1
  have k2 : fld 5 16 w = s := fld_of g2
  have k3 : fld 5 21 w = d := fld_of g3
  show Option.filter Instr.wf (decodeCtlRaw w) = _
  rw [decodeCtlRaw_1 f1]
  delta decodeCtl01
  simp only [f0, k1, k2, k3, and_self, reduceIte, and_true, true_and, and_false, false_and, Nat.reduceEqDiff]
  exact filter_wf hwf

theorem sll (d : BitVec 5) (s : BitVec 5) (t : BitVec 5) : Statement (.sll d s t) := by
  intro hwf w he
  have he : 67108870 + d.toNat * 2097152 + s.toNat * 65536 + t.toNat * 2048 = w := Option.some.inj he
  have r0 : w / 2 ^ 0 = 6 + 2 ^ 11 * (t.toNat + 2 ^ 5 * (s.toNat + 2 ^ 5 * (d.toNat + 2 ^ 5 * (1 + 2 ^ 6 * (0))))) := by rw [← he, Nat.pow_zero, Nat.div_one]; ring
  obtain ⟨c0, r1⟩ := peel r0 (by decide)
  obtain ⟨g1, r2⟩ := peel r1 t.isLt
  obtain ⟨g2, r3⟩ := peel r2 s.isLt
  obtain ⟨g3, r4⟩ := peel r3 d.isLt
  obtain ⟨c4, -⟩ := peel r4 (by decide)
  have f0 : bits w 10 0 = 6 := c0
  have f1 : bits w 31 26 = 1 := c4
  have k1 : fld 5 11 w = t := fld_of g1
  have k2 : fld 5 16 w = s := fld_of g2
  have k3 : fld 5 21 w = d := fld_of g3
  show Option.filter Instr.wf (decodeCtlRaw w) = _
  rw [decodeCtlRaw_1 f1]
  delta decodeCtl01
  simp only [f0, k1, k2, k3, and_self, reduceIte, and_true, true_and, and_false, false_and, Nat.reduceEqDiff]
  exact filter_wf hwf

theorem srl (d : BitVec 5) (s : BitVec 5) (t : BitVec 5) : Statement (.srl d s t) := by
  intro hwf w he
  have he : 67108871 + d.toNat * 2097152 + s.toNat * 65536 + t.toNat * 2048 = w := Option.some.inj he
  have r0 : w / 2 ^ 0 = 7 + 2 ^ 11 * (t.toNat + 2 ^ 5 * (s.toNat + 2 ^ 5 * (d.toNat + 2 ^ 5 * (1 + 2 ^ 6 * (0))))) := by rw [← he, Nat.pow_zero, Nat.div_one]; ring
  obtain ⟨c0, r1⟩ := peel r0 (by decide)
  obtain ⟨g1, r2⟩ := peel r1 t.isLt
  obtain ⟨g2, r3⟩ := peel r2 s.isLt
  obtain ⟨g3, r4⟩ := peel r3 d.isLt
  obtain ⟨c4, -⟩ := peel r4 (by decide)
  have f0 : bits w 10 0 = 7 := c0
  have f1 : bits w 31 26 = 1 := c4
  have k1 : fld 5 11 w = t := fld_of g1
  have k2 : fld 5 16 w = s := fld_of g2
  have k3 : fld 5 21 w = d := fld_of g3
  show Option.filter Instr.wf (decodeCtlRaw w) = _
  rw [decodeCtlRaw_1 f1]
  delta decodeCtl01
  simp only [f0, k1, k2, k3, and_self, reduceIte, and_true, true_and, and_false, false_and, Nat.reduceEqDiff]
  exact filter_wf hwf

theorem sra (d : BitVec 5) (s : BitVec 5) (t : BitVec 5) : Statement (.sra d s t) := by
  intro hwf w he
  have he : 67108872 + d.toNat * 2097152 + s.toNat * 65536 + t.toNat * 2048 = w := Option.some.inj he
  have r0 : w / 2 ^ 0 = 8 + 2 ^ 11 * (t.toNat + 2 ^ 5 * (s.toNat + 2 ^ 5 * (d.toNat + 2 ^ 5 * (1 + 2 ^ 6 * (0))))) := by rw [← he, Nat.pow_zero, Nat.div_one]; ring
  obtain ⟨c0, r1⟩ := peel r0 (by decide)
  obtain ⟨g1, r2⟩ := peel r1 t.isLt
  obtain ⟨g2, r3⟩ := peel r2 s.isLt
  obtain ⟨g3, r4⟩ := peel r3 d.isLt
  obtain ⟨c4, -⟩ := peel r4 (by decide)
  have f0 : bits w 10 0 = 8 := c0
  have f1 : bits w 31 26 = 1 := c4
  have k1 : fld 5 11 w = t := fld_of g1
  have k2 : fld 5 16 w = s := fld_of g2
  have k3 : fld 5 21 w = d := fld_of g3
  show Option.filter Instr.wf (decodeCtlRaw w) = _
  rw [decodeCtlRaw_1 f1]
  delta decodeCtl01
  simp only [f0, k1, k2, k3, and_self, reduceIte, and_true, true_and, and_false, false_and, Nat.reduceEqDiff]
  exact filter_wf hwf

theorem ror (d : BitVec 5) (s : BitVec 5) (t : BitVec 5) : Statement (.ror d s t) := by
  intro hwf w he
  have he : 67108873 + d.toNat * 2097152 + s.toNat * 65536 + t.toNat * 2048 = w := Option.some.inj he
  have r0 : w / 2 ^ 0 = 9 + 2 ^ 11 * (t.toNat + 2 ^ 5 * (s.toNat + 2 ^ 5 * (d.toNat + 2 ^ 5 * (1 + 2 ^ 6 * (0))))) := by rw [← he, Nat.pow_zero, Nat.div_one]; ring
  obtain ⟨c0, r1⟩ := peel r0 (by decide)
  obtain ⟨g1, r2⟩ := peel r1 t.isLt
  obtain ⟨g2, r3⟩ := peel r2 s.isLt
  obtain ⟨g3, r4⟩ := peel r3 d.isLt
  obtain ⟨c4, -⟩ := peel r4 (by decide)
  have f0 : bits w 10 0 = 9 := c0
  have f1 : bits w 31 26 = 1 := c4
  have k1 : fld 5 11 w = t := fld_of g1
  have k2 : fld 5 16 w = s := fld_of g2
  have k3 : fld 5 21 w = d := fld_of g3
  show Option.filter Instr.wf (decodeCtlRaw w) = _
  rw [decodeCtlRaw_1 f1]
  delta decodeCtl01
  simp only [f0, k1, k2, k3, and_self, reduceIte, and_true, true_and, and_false, false_and, Nat.reduceEqDiff]
  exact filter_wf hwf

theorem mul (d : BitVec 5) (s : BitVec 5) (t : BitVec 5) : Statement (.mul d s t) := by
  intro hwf w he
  have he : 67108874 + d.toNat * 2097152 + s.toNat * 65536 + t.toNat * 2048 = w := Option.some.inj he
  have r0 : w / 2 ^ 0 = 10 + 2 ^ 11 * (t.toNat + 2 ^ 5 * (s.toNat + 2 ^ 5 * (d.toNat + 2 ^ 5 * (1 + 2 ^ 6 * (0))))) := by rw [← he, Nat.pow_zero, Nat.div_one]; ring
  obtain ⟨c0, r1⟩ := peel r0 (by decide)
  obtain ⟨g1, r2⟩ := peel r1 t.isLt
  obtain ⟨g2, r3⟩ := peel r2 s.isLt
  obtain ⟨g3, r4⟩ := peel r3 d.isLt
  obtain ⟨c4, -⟩ := peel r4 (by decide)
  have f0 : bits w 10 0 = 10 := c0
  have f1 : bits w 31 26 = 1 := c4
  have k1 : fld 5 11 w = t := fld_of g1
  have k2 : fld 5 16 w = s := fld_of g2
  have k3 : fld 5 21 w = d := fld_of g3
  show Option.filter Instr.wf (decodeCtlRaw w) = _
  rw [decodeCtlRaw_1 f1]
  delta decodeCtl01
  simp only [f0, k1, k2, k3, and_self, reduceIte, and_true, true_and, and_false, false_and, Nat.reduceEqDiff]
  exact filter_wf hwf

theorem mulh (d : BitVec 5) (s : BitVec 5) (t : BitVec 5) : Statement (.mulh d s t) := by
  intro hwf w he
  have he : 67108875 + d.toNat * 2097152 + s.toNat * 65536 + t.toNat * 2048 = w := Option.some.inj he
  have r0 : w / 2 ^ 0 = 11 + 2 ^ 11 * (t.toNat + 2 ^ 5 * (s.toNat + 2 ^ 5 * (d.toNat + 2 ^ 5 * (1 + 2 ^ 6 * (0))))) := by rw [← he, Nat.pow_zero, Nat.div_one]; ring
  obtain ⟨c0, r1⟩ := peel r0 (by decide)
  obtain ⟨g1, r2⟩ := peel r1 t.isLt
  obtain ⟨g2, r3⟩ := peel r2 s.isLt
  obtain ⟨g3, r4⟩ := peel r3 d.isLt
  obtain ⟨c4, -⟩ := peel r4 (by decide)
  have f0 : bits w 10 0 = 11 := c0
  have f1 : bits w 31 26 = 1 := c4
  have k1 : fld 5 11 w = t := fld_of g1
  have k2 : fld 5 16 w = s := fld_of g2
  have k3 : fld 5 21 w = d := fld_of g3
  show Option.filter Instr.wf (decodeCtlRaw w) = _
  rw [decodeCtlRaw_1 f1]
  delta decodeCtl01
  simp only [f0, k1, k2, k3, and_self, reduceIte, and_true, true_and, and_false, false_and, Nat.reduceEqDiff]
  exact filter_wf hwf

theorem mulhu (d : BitVec 5) (s : BitVec 5) (t : BitVec 5) : Statement (.mulhu d s t) := by
  intro hwf w he
  have he : 67108876 + d.toNat * 2097152 + s.toNat * 65536 + t.toNat * 2048 = w := Option.some.inj he
  have r0 : w / 2 ^ 0 = 12 + 2 ^ 11 * (t.toNat + 2 ^ 5 * (s.toNat + 2 ^ 5 * (d.toNat + 2 ^ 5 * (1 + 2 ^ 6 * (0))))) := by rw [← he, Nat.pow_zero, Nat.div_one]; ring
  obtain ⟨c0, r1⟩ := peel r0 (by decide)
  obtain ⟨g1, r2⟩ := peel r1 t.isLt
  obtain ⟨g2, r3⟩ := peel r2 s.isLt
  obtain ⟨g3, r4⟩ := peel r3 d.isLt
  obtain ⟨c4, -⟩ := peel r4 (by decide)
  have f0 : bits w 10 0 = 12 := c0
  have f1 : bits w 31 26 = 1 := c4
  have k1 : fld 5 11 w = t := fld_of g1
  have k2 : fld 5 16 w = s := fld_of g2
  have k3 : fld 5 21 w = d := fld_of g3
  show Option.filter Instr.wf (decodeCtlRaw w) = _
  rw [decodeCtlRaw_1 f1]
  delta decodeCtl01
  simp only [f0, k1, k2, k3, and_self, reduceIte, and_true, true_and, and_false, false_and, Nat.reduceEqDiff]
  exact filter_wf hwf

theorem div (d : BitVec 5) (s : BitVec 5) (t : BitVec 5) : Statement (.div d s t) := by
  intro hwf w he
  have he : 67108877 + d.toNat * 2097152 + s.toNat * 65536 + t.toNat * 2048 = w := Option.some.inj he
  have r0 : w / 2 ^ 0 = 13 + 2 ^ 11 * (t.toNat + 2 ^ 5 * (s.toNat + 2 ^ 5 * (d.toNat + 2 ^ 5 * (1 + 2 ^ 6 * (0))))) := by rw [← he, Nat.pow_zero, Nat.div_one]; ring
  obtain ⟨c0, r1⟩ := peel r0 (by decide)
  obtain ⟨g1, r2⟩ := peel r1 t.isLt
  obtain ⟨g2, r3⟩ := peel r2 s.isLt
  obtain ⟨g3, r4⟩ := peel r3 d.isLt
  obtain ⟨c4, -⟩ := peel r4 (by decide)
  have f0 : bits w 10 0 = 13 := c0
  have f1 : bits w 31 26 = 1 := c4
  have k1 : fld 5 11 w = t := fld_of g1
  have k2 : fld 5 16 w = s := fld_of g2
  have k3 : fld 5 21 w = d := fld_of g3
  show Option.filter Instr.wf (decodeCtlRaw w) = _
  rw [decodeCtlRaw_1 f1]
  delta decodeCtl01
  simp only [f0, k1, k2, k3, and_self, reduceIte, and_true, true_and, and_false, false_and, Nat.reduceEqDiff]
  exact filter_wf hwf

theorem divu (d : BitVec 5) (s : BitVec 5) (t : BitVec 5) : Statement (.divu d s t) := by
  intro hwf w he
  have he : 67108878 + d.toNat * 2097152 + s.toNat * 65536 + t.toNat * 2048 = w := Option.some.inj he
  have r0 : w / 2 ^ 0 = 14 + 2 ^ 11 * (t.toNat + 2 ^ 5 * (s.toNat + 2 ^ 5 * (d.toNat + 2 ^ 5 * (1 + 2 ^ 6 * (0))))) := by rw [← he, Nat.pow_zero, Nat.div_one]; ring
  obtain ⟨c0, r1⟩ := peel r0 (by decide)
  obtain ⟨g1, r2⟩ := peel r1 t.isLt
  obtain ⟨g2, r3⟩ := peel r2 s.isLt
  obtain ⟨g3, r4⟩ := peel r3 d.isLt
  obtain ⟨c4, -⟩ := peel r4 (by decide)
  have f0 : bits w 10 0 = 14 := c0
  have f1 : bits w 31 26 = 1 := c4
  have k1 : fld 5 11 w = t := fld_of g1
  have k2 : fld 5 16 w = s := fld_of g2
  have k3 : fld 5 21 w = d := fld_of g3
  show Option.filter Instr.wf (decodeCtlRaw w) = _
  rw [decodeCtlRaw_1 f1]
  delta decodeCtl01
  simp only [f0, k1, k2, k3, and_self, reduceIte, and_true, true_and, and_false, false_and, Nat.reduceEqDiff]
  exact filter_wf hwf

theorem rem (d : BitVec 5) (s : BitVec 5) (t : BitVec 5) : Statement (.rem d s t) := by
  intro hwf w he
  have he : 67108879 + d.toNat * 2097152 + s.toNat * 65536 + t.toNat * 2048 = w := Option.some.inj he
  have r0 : w / 2 ^ 0 = 15 + 2 ^ 11 * (t.toNat + 2 ^ 5 * (s.toNat + 2 ^ 5 * (d.toNat + 2 ^ 5 * (1 + 2 ^ 6 * (0))))) := by rw [← he, Nat.pow_zero, Nat.div_one]; ring
  obtain ⟨c0, r1⟩ := peel r0 (by decide)
  obtain ⟨g1, r2⟩ := peel r1 t.isLt
  obtain ⟨g2, r3⟩ := peel r2 s.isLt
  obtain ⟨g3, r4⟩ := peel r3 d.isLt
  obtain ⟨c4, -⟩ := peel r4 (by decide)
  have f0 : bits w 10 0 = 15 := c0
  have f1 : bits w 31 26 = 1 := c4
  have k1 : fld 5 11 w = t := fld_of g1
  have k2 : fld 5 16 w = s := fld_of g2
  have k3 : fld 5 21 w = d := fld_of g3
  show Option.filter Instr.wf (decodeCtlRaw w) = _
  rw [decodeCtlRaw_1 f1]
  delta decodeCtl01
  simp only [f0, k1, k2, k3, and_self, reduceIte, and_true, true_and, and_false, false_and, Nat.reduceEqDiff]
  exact filter_wf hwf

theorem remu (d : BitVec 5) (s : BitVec 5) (t : BitVec 5) : Statement (.remu d s t) := by
  intro hwf w he
  have he : 67108880 + d.toNat * 2097152 + s.toNat * 65536 + t.toNat * 2048 = w := Option.some.inj he
  have r0 : w / 2 ^ 0 = 16 + 2 ^ 11 * (t.toNat + 2 ^ 5 * (s.toNat + 2 ^ 5 * (d.toNat + 2 ^ 5 * (1 + 2 ^ 6 * (0))))) := by rw [← he, Nat.pow_zero, Nat.div_one]; ring
  obtain ⟨c0, r1⟩ := peel r0 (by decide)
  obtain ⟨g1, r2⟩ := peel r1 t.isLt
  obtain ⟨g2, r3⟩ := peel r2 s.isLt
  obtain ⟨g3, r4⟩ := peel r3 d.isLt
  obtain ⟨c4, -⟩ := peel r4 (by decide)
  have f0 : bits w 10 0 = 16 := c0
  have f1 : bits w 31 26 = 1 := c4
  have k1 : fld 5 11 w = t := fld_of g1
  have k2 : fld 5 16 w = s := fld_of g2
  have k3 : fld 5 21 w = d := fld_of g3
  show Option.filter Instr.wf (decodeCtlRaw w) = _
  rw [decodeCtlRaw_1 f1]
  delta decodeCtl01
  simp only [f0, k1, k2, k3, and_self, reduceIte, and_true, true_and, and_false, false_and, Nat.reduceEqDiff]
  exact filter_wf hwf

theorem min (d : BitVec 5) (s : BitVec 5) (t : BitVec 5) : Statement (.min d s t) := by
  intro hwf w he
  have he : 67108881 + d.toNat * 2097152 + s.toNat * 65536 + t.toNat * 2048 = w := Option.some.inj he
  have r0 : w / 2 ^ 0 = 17 + 2 ^ 11 * (t.toNat + 2 ^ 5 * (s.toNat + 2 ^ 5 * (d.toNat + 2 ^ 5 * (1 + 2 ^ 6 * (0))))) := by rw [← he, Nat.pow_zero, Nat.div_one]; ring
  obtain ⟨c0, r1⟩ := peel r0 (by decide)
  obtain ⟨g1, r2⟩ := peel r1 t.isLt
  obtain ⟨g2, r3⟩ := peel r2 s.isLt
  obtain ⟨g3, r4⟩ := peel r3 d.isLt
  obtain ⟨c4, -⟩ := peel r4 (by decide)
  have f0 : bits w 10 0 = 17 := c0
  have f1 : bits w 31 26 = 1 := c4
  have k1 : fld 5 11 w = t := fld_of g1
  have k2 : fld 5 16 w = s := fld_of g2
  have k3 : fld 5 21 w = d := fld_of g3
  show Option.filter Instr.wf (decodeCtlRaw w) = _
  rw [decodeCtlRaw_1 f1]
  delta decodeCtl01
  simp only [f0, k1, k2, k3, and_self, reduceIte, and_true, true_and, and_false, false_and, Nat.reduceEqDiff]
  exact filter_wf hwf

theorem max (d : BitVec 5) (s : BitVec 5) (t : BitVec 5) : Statement (.max d s t) := by
  intro hwf w he
  have he : 67108882 + d.toNat * 2097152 + s.toNat * 65536 + t.toNat * 2048 = w := Option.some.inj he
  have r0 : w / 2 ^ 0 = 18 + 2 ^ 11 * (t.toNat + 2 ^ 5 * (s.toNat + 2 ^ 5 * (d.toNat + 2 ^ 5 * (1 + 2 ^ 6 * (0))))) := by rw [← he, Nat.pow_zero, Nat.div_one]; ring
  obtain ⟨c0, r1⟩ := peel r0 (by decide)
  obtain ⟨g1, r2⟩ := peel r1 t.isLt
  obtain ⟨g2, r3⟩ := peel r2 s.isLt
  obtain ⟨g3, r4⟩ := peel r3 d.isLt
  obtain ⟨c4, -⟩ := peel r4 (by decide)
  have f0 : bits w 10 0 = 18 := c0
  have f1 : bits w 31 26 = 1 := c4
  have k1 : fld 5 11 w = t := fld_of g1
  have k2 : fld 5 16 w = s := fld_of g2
  have k3 : fld 5 21 w = d := fld_of g3
  show Option.filter Instr.wf (decodeCtlRaw w) = _
  rw [decodeCtlRaw_1 f1]
  delta decodeCtl01
  simp only [f0, k1, k2, k3, and_self, reduceIte, and_true, true_and, and_false, false_and, Nat.reduceEqDiff]
  exact filter_wf hwf

theorem minu (d : BitVec 5) (s : BitVec 5) (t : BitVec 5) : Statement (.minu d s t) := by
  intro hwf w he
  have he : 67108883 + d.toNat * 2097152 + s.toNat * 65536 + t.toNat * 2048 = w := Option.some.inj he
  have r0 : w / 2 ^ 0 = 19 + 2 ^ 11 * (t.toNat + 2 ^ 5 * (s.toNat + 2 ^ 5 * (d.toNat + 2 ^ 5 * (1 + 2 ^ 6 * (0))))) := by rw [← he, Nat.pow_zero, Nat.div_one]; ring
  obtain ⟨c0, r1⟩ := peel r0 (by decide)
  obtain ⟨g1, r2⟩ := peel r1 t.isLt
  obtain ⟨g2, r3⟩ := peel r2 s.isLt
  obtain ⟨g3, r4⟩ := peel r3 d.isLt
  obtain ⟨c4, -⟩ := peel r4 (by decide)
  have f0 : bits w 10 0 = 19 := c0
  have f1 : bits w 31 26 = 1 := c4
  have k1 : fld 5 11 w = t := fld_of g1
  have k2 : fld 5 16 w = s := fld_of g2
  have k3 : fld 5 21 w = d := fld_of g3
  show Option.filter Instr.wf (decodeCtlRaw w) = _
  rw [decodeCtlRaw_1 f1]
  delta decodeCtl01
  simp only [f0, k1, k2, k3, and_self, reduceIte, and_true, true_and, and_false, false_and, Nat.reduceEqDiff]
  exact filter_wf hwf

theorem maxu (d : BitVec 5) (s : BitVec 5) (t : BitVec 5) : Statement (.maxu d s t) := by
  intro hwf w he
  have he : 67108884 + d.toNat * 2097152 + s.toNat * 65536 + t.toNat * 2048 = w := Option.some.inj he
  have r0 : w / 2 ^ 0 = 20 + 2 ^ 11 * (t.toNat + 2 ^ 5 * (s.toNat + 2 ^ 5 * (d.toNat + 2 ^ 5 * (1 + 2 ^ 6 * (0))))) := by rw [← he, Nat.pow_zero, Nat.div_one]; ring
  obtain ⟨c0, r1⟩ := peel r0 (by decide)
  obtain ⟨g1, r2⟩ := peel r1 t.isLt
  obtain ⟨g2, r3⟩ := peel r2 s.isLt
  obtain ⟨g3, r4⟩ := peel r3 d.isLt
  obtain ⟨c4, -⟩ := peel r4 (by decide)
  have f0 : bits w 10 0 = 20 := c0
  have f1 : bits w 31 26 = 1 := c4
  have k1 : fld 5 11 w = t := fld_of g1
  have k2 : fld 5 16 w = s := fld_of g2
  have k3 : fld 5 21 w = d := fld_of g3
  show Option.filter Instr.wf (decodeCtlRaw w) = _
  rw [decodeCtlRaw_1 f1]
  delta decodeCtl01
  simp only [f0, k1, k2, k3, and_self, reduceIte, and_true, true_and, and_false, false_and, Nat.reduceEqDiff]
  exact filter_wf hwf

theorem adds (d : BitVec 5) (s : BitVec 5) (t : BitVec 5) : Statement (.adds d s t) := by
  intro hwf w he
  have he : 67108885 + d.toNat * 2097152 + s.toNat * 65536 + t.toNat * 2048 = w := Option.some.inj he
  have r0 : w / 2 ^ 0 = 21 + 2 ^ 11 * (t.toNat + 2 ^ 5 * (s.toNat + 2 ^ 5 * (d.toNat + 2 ^ 5 * (1 + 2 ^ 6 * (0))))) := by rw [← he, Nat.pow_zero, Nat.div_one]; ring
  obtain ⟨c0, r1⟩ := peel r0 (by decide)
  obtain ⟨g1, r2⟩ := peel r1 t.isLt
  obtain ⟨g2, r3⟩ := peel r2 s.isLt
  obtain ⟨g3, r4⟩ := peel r3 d.isLt
  obtain ⟨c4, -⟩ := peel r4 (by decide)
  have f0 : bits w 10 0 = 21 := c0
  have f1 : bits w 31 26 = 1 := c4
  have k1 : fld 5 11 w = t := fld_of g1
  have k2 : fld 5 16 w = s := fld_of g2
  have k3 : fld 5 21 w = d := fld_of g3
  show Option.filter Instr.wf (decodeCtlRaw w) = _
  rw [decodeCtlRaw_1 f1]
  delta decodeCtl01
  simp only [f0, k1, k2, k3, and_self, reduceIte, and_true, true_and, and_false, false_and, Nat.reduceEqDiff]
  exact filter_wf hwf

theorem subs (d : BitVec 5) (s : BitVec 5) (t : BitVec 5) : Statement (.subs d s t) := by
  intro hwf w he
  have he : 67108886 + d.toNat * 2097152 + s.toNat * 65536 + t.toNat * 2048 = w := Option.some.inj he
  have r0 : w / 2 ^ 0 = 22 + 2 ^ 11 * (t.toNat + 2 ^ 5 * (s.toNat + 2 ^ 5 * (d.toNat + 2 ^ 5 * (1 + 2 ^ 6 * (0))))) := by rw [← he, Nat.pow_zero, Nat.div_one]; ring
  obtain ⟨c0, r1⟩ := peel r0 (by decide)
  obtain ⟨g1, r2⟩ := peel r1 t.isLt
  obtain ⟨g2, r3⟩ := peel r2 s.isLt
  obtain ⟨g3, r4⟩ := peel r3 d.isLt
  obtain ⟨c4, -⟩ := peel r4 (by decide)
  have f0 : bits w 10 0 = 22 := c0
  have f1 : bits w 31 26 = 1 := c4
  have k1 : fld 5 11 w = t := fld_of g1
  have k2 : fld 5 16 w = s := fld_of g2
  have k3 : fld 5 21 w = d := fld_of g3
  show Option.filter Instr.wf (decodeCtlRaw w) = _
  rw [decodeCtlRaw_1 f1]
  delta decodeCtl01
  simp only [f0, k1, k2, k3, and_self, reduceIte, and_true, true_and, and_false, false_and, Nat.reduceEqDiff]
  exact filter_wf hwf

theorem clz (d : BitVec 5) (s : BitVec 5) : Statement (.clz d s) := by
  intro hwf w he
  have he : 67108887 + d.toNat * 2097152 + s.toNat * 65536 = w := Option.some.inj he
  have r0 : w / 2 ^ 0 = 23 + 2 ^ 11 * (0 + 2 ^ 5 * (s.toNat + 2 ^ 5 * (d.toNat + 2 ^ 5 * (1 + 2 ^ 6 * (0))))) := by rw [← he, Nat.pow_zero, Nat.div_one]; ring
  obtain ⟨c0, r1⟩ := peel r0 (by decide)
  obtain ⟨c1, r2⟩ := peel r1 (by decide)
  obtain ⟨g2, r3⟩ := peel r2 s.isLt
  obtain ⟨g3, r4⟩ := peel r3 d.isLt
  obtain ⟨c4, -⟩ := peel r4 (by decide)
  have f0 : bits w 10 0 = 23 := c0
  have f1 : bits w 15 0 = 23 := by
    clear he r0
    have := c0
    have := c1
    show w / 1 % 65536 = 23
    omega
  have f2 : bits w 31 26 = 1 := c4
  have k2 : fld 5 16 w = s := fld_of g2
  have k3 : fld 5 21 w = d := fld_of g3
  show Option.filter Instr.wf (decodeCtlRaw w) = _
  rw [decodeCtlRaw_1 f2]
  delta decodeCtl01
  simp only [f0, f1, k2, k3, and_self, reduceIte, and_true, true_and, and_false, false_and, Nat.reduceEqDiff]
  exact filter_wf hwf

theorem ctz (d : BitVec 5) (s : BitVec 5) : Statement (.ctz d s) := by
  intro hwf w he
  have he : 67108888 + d.toNat * 2097152 + s.toNat * 65536 = w := Option.some.inj he
  have r0 : w / 2 ^ 0 = 24 + 2 ^ 11 * (0 + 2 ^ 5 * (s.toNat + 2 ^ 5 * (d.toNat + 2 ^ 5 * (1 + 2 ^ 6 * (0))))) := by rw [← he, Nat.pow_zero, Nat.div_one]; ring
  obtain ⟨c0, r1⟩ := peel r0 (by decide)
  obtain ⟨c1, r2⟩ := peel r1 (by decide)
  obtain ⟨g2, r3⟩ := peel r2 s.isLt
  obtain ⟨g3, r4⟩ := peel r3 d.isLt
  obtain ⟨c4, -⟩ := peel r4 (by decide)
  have f0 : bits w 10 0 = 24 := c0
  have f1 : bits w 15 0 = 24 := by
    clear he r0
    have := c0
    have := c1
    show w / 1 % 65536 = 24
    omega
  have f2 : bits w 31 26 = 1 := c4
  have k2 : fld 5 16 w = s := fld_of g2
  have k3 : fld 5 21 w = d := fld_of g3
  show Option.filter Instr.wf (decodeCtlRaw w) = _
  rw [decodeCtlRaw_1 f2]
  delta decodeCtl01
  simp only [f0, f1, k2, k3, and_self, reduceIte, and_true, true_and, and_false, false_and, Nat.reduceEqDiff]
  exact filter_wf hwf

theorem popc (d : BitVec 5) (s : BitVec 5) : Statement (.popc d s) := by
  intro hwf w he
  have he : 67108889 + d.toNat * 2097152 + s.toNat * 65536 = w := Option.some.inj he
  have r0 : w / 2 ^ 0 = 25 + 2 ^ 11 * (0 + 2 ^ 5 * (s.toNat + 2 ^ 5 * (d.toNat + 2 ^ 5 * (1 + 2 ^ 6 * (0))))) := by rw [← he, Nat.pow_zero, Nat.div_one]; ring
  obtain ⟨c0, r1⟩ := peel r0 (by decide)
  obtain ⟨c1, r2⟩ := peel r1 (by decide)
  obtain ⟨g2, r3⟩ := peel r2 s.isLt
  obtain ⟨g3, r4⟩ := peel r3 d.isLt
  obtain ⟨c4, -⟩ := peel r4 (by decide)
  have f0 : bits w 10 0 = 25 := c0
  have f1 : bits w 15 0 = 25 := by
    clear he r0
    have := c0
    have := c1
    show w / 1 % 65536 = 25
    omega
  have f2 : bits w 31 26 = 1 := c4
  have k2 : fld 5 16 w = s := fld_of g2
  have k3 : fld 5 21 w = d := fld_of g3
  show Option.filter Instr.wf (decodeCtlRaw w) = _
  rw [decodeCtlRaw_1 f2]
  delta decodeCtl01
  simp only [f0, f1, k2, k3, and_self, reduceIte, and_true, true_and, and_false, false_and, Nat.reduceEqDiff]
  exact filter_wf hwf

theorem sext8 (d : BitVec 5) (s : BitVec 5) : Statement (.sext8 d s) := by
  intro hwf w he
  have he : 67108890 + d.toNat * 2097152 + s.toNat * 65536 = w := Option.some.inj he
  have r0 : w / 2 ^ 0 = 26 + 2 ^ 11 * (0 + 2 ^ 5 * (s.toNat + 2 ^ 5 * (d.toNat + 2 ^ 5 * (1 + 2 ^ 6 * (0))))) := by rw [← he, Nat.pow_zero, Nat.div_one]; ring
  obtain ⟨c0, r1⟩ := peel r0 (by decide)
  obtain ⟨c1, r2⟩ := peel r1 (by decide)
  obtain ⟨g2, r3⟩ := peel r2 s.isLt
  obtain ⟨g3, r4⟩ := peel r3 d.isLt
  obtain ⟨c4, -⟩ := peel r4 (by decide)
  have f0 : bits w 10 0 = 26 := c0
  have f1 : bits w 15 0 = 26 := by
    clear he r0
    have := c0
    have := c1
    show w / 1 % 65536 = 26
    omega
  have f2 : bits w 31 26 = 1 := c4
  have k2 : fld 5 16 w = s := fld_of g2
  have k3 : fld 5 21 w = d := fld_of g3
  show Option.filter Instr.wf (decodeCtlRaw w) = _
  rw [decodeCtlRaw_1 f2]
  delta decodeCtl01
  simp only [f0, f1, k2, k3, and_self, reduceIte, and_true, true_and, and_false, false_and, Nat.reduceEqDiff]
  exact filter_wf hwf

theorem sext16 (d : BitVec 5) (s : BitVec 5) : Statement (.sext16 d s) := by
  intro hwf w he
  have he : 67108891 + d.toNat * 2097152 + s.toNat * 65536 = w := Option.some.inj he
  have r0 : w / 2 ^ 0 = 27 + 2 ^ 11 * (0 + 2 ^ 5 * (s.toNat + 2 ^ 5 * (d.toNat + 2 ^ 5 * (1 + 2 ^ 6 * (0))))) := by rw [← he, Nat.pow_zero, Nat.div_one]; ring
  obtain ⟨c0, r1⟩ := peel r0 (by decide)
  obtain ⟨c1, r2⟩ := peel r1 (by decide)
  obtain ⟨g2, r3⟩ := peel r2 s.isLt
  obtain ⟨g3, r4⟩ := peel r3 d.isLt
  obtain ⟨c4, -⟩ := peel r4 (by decide)
  have f0 : bits w 10 0 = 27 := c0
  have f1 : bits w 15 0 = 27 := by
    clear he r0
    have := c0
    have := c1
    show w / 1 % 65536 = 27
    omega
  have f2 : bits w 31 26 = 1 := c4
  have k2 : fld 5 16 w = s := fld_of g2
  have k3 : fld 5 21 w = d := fld_of g3
  show Option.filter Instr.wf (decodeCtlRaw w) = _
  rw [decodeCtlRaw_1 f2]
  delta decodeCtl01
  simp only [f0, f1, k2, k3, and_self, reduceIte, and_true, true_and, and_false, false_and, Nat.reduceEqDiff]
  exact filter_wf hwf

theorem sext32 (d : BitVec 5) (s : BitVec 5) : Statement (.sext32 d s) := by
  intro hwf w he
  have he : 67108892 + d.toNat * 2097152 + s.toNat * 65536 = w := Option.some.inj he
  have r0 : w / 2 ^ 0 = 28 + 2 ^ 11 * (0 + 2 ^ 5 * (s.toNat + 2 ^ 5 * (d.toNat + 2 ^ 5 * (1 + 2 ^ 6 * (0))))) := by rw [← he, Nat.pow_zero, Nat.div_one]; ring
  obtain ⟨c0, r1⟩ := peel r0 (by decide)
  obtain ⟨c1, r2⟩ := peel r1 (by decide)
  obtain ⟨g2, r3⟩ := peel r2 s.isLt
  obtain ⟨g3, r4⟩ := peel r3 d.isLt
  obtain ⟨c4, -⟩ := peel r4 (by decide)
  have f0 : bits w 10 0 = 28 := c0
  have f1 : bits w 15 0 = 28 := by
    clear he r0
    have := c0
    have := c1
    show w / 1 % 65536 = 28
    omega
  have f2 : bits w 31 26 = 1 := c4
  have k2 : fld 5 16 w = s := fld_of g2
  have k3 : fld 5 21 w = d := fld_of g3
  show Option.filter Instr.wf (decodeCtlRaw w) = _
  rw [decodeCtlRaw_1 f2]
  delta decodeCtl01
  simp only [f0, f1, k2, k3, and_self, reduceIte, and_true, true_and, and_false, false_and, Nat.reduceEqDiff]
  exact filter_wf hwf

theorem zext32 (d : BitVec 5) (s : BitVec 5) : Statement (.zext32 d s) := by
  intro hwf w he
  have he : 67108893 + d.toNat * 2097152 + s.toNat * 65536 = w := Option.some.inj he
  have r0 : w / 2 ^ 0 = 29 + 2 ^ 11 * (0 + 2 ^ 5 * (s.toNat + 2 ^ 5 * (d.toNat + 2 ^ 5 * (1 + 2 ^ 6 * (0))))) := by rw [← he, Nat.pow_zero, Nat.div_one]; ring
  obtain ⟨c0, r1⟩ := peel r0 (by decide)
  obtain ⟨c1, r2⟩ := peel r1 (by decide)
  obtain ⟨g2, r3⟩ := peel r2 s.isLt
  obtain ⟨g3, r4⟩ := peel r3 d.isLt
  obtain ⟨c4, -⟩ := peel r4 (by decide)
  have f0 : bits w 10 0 = 29 := c0
  have f1 : bits w 15 0 = 29 := by
    clear he r0
    have := c0
    have := c1
    show w / 1 % 65536 = 29
    omega
  have f2 : bits w 31 26 = 1 := c4
  have k2 : fld 5 16 w = s := fld_of g2
  have k3 : fld 5 21 w = d := fld_of g3
  show Option.filter Instr.wf (decodeCtlRaw w) = _
  rw [decodeCtlRaw_1 f2]
  delta decodeCtl01
  simp only [f0, f1, k2, k3, and_self, reduceIte, and_true, true_and, and_false, false_and, Nat.reduceEqDiff]
  exact filter_wf hwf

theorem movf (d : BitVec 5) (f : BitVec 3) : Statement (.movf d f) := by
  intro hwf w he
  have he : 67108894 + d.toNat * 2097152 + f.toNat * 2048 = w := Option.some.inj he
  have r0 : w / 2 ^ 0 = 30 + 2 ^ 11 * (f.toNat + 2 ^ 3 * (0 + 2 ^ 7 * (d.toNat + 2 ^ 5 * (1 + 2 ^ 6 * (0))))) := by rw [← he, Nat.pow_zero, Nat.div_one]; ring
  obtain ⟨c0, r1⟩ := peel r0 (by decide)
  obtain ⟨g1, r2⟩ := peel r1 f.isLt
  obtain ⟨c2, r3⟩ := peel r2 (by decide)
  obtain ⟨g3, r4⟩ := peel r3 d.isLt
  obtain ⟨c4, -⟩ := peel r4 (by decide)
  have f0 : bits w 10 0 = 30 := c0
  have f1 : bits w 20 14 = 0 := c2
  have f2 : bits w 31 26 = 1 := c4
  have n0 : ¬ bits w 15 0 = 23 := by
    intro hh
    exact absurd c0 (apart hh (by decide) (by decide) (by decide))
  have n1 : ¬ bits w 15 0 = 24 := by
    intro hh
    exact absurd c0 (apart hh (by decide) (by decide) (by decide))
  have n2 : ¬ bits w 15 0 = 25 := by
    intro hh
    exact absurd c0 (apart hh (by decide) (by decide) (by decide))
  have n3 : ¬ bits w 15 0 = 26 := by
    intro hh
    exact absurd c0 (apart hh (by decide) (by decide) (by decide))
  have n4 : ¬ bits w 15 0 = 27 := by
    intro hh
    exact absurd c0 (apart hh (by decide) (by decide) (by decide))
  have n5 : ¬ bits w 15 0 = 28 := by
    intro hh
    exact absurd c0 (apart hh (by decide) (by decide) (by decide))
  have n6 : ¬ bits w 15 0 = 29 := by
    intro hh
    exact absurd c0 (apart hh (by decide) (by decide) (by decide))
  have k1 : fld 3 11 w = f := fld_of g1
  have k3 : fld 5 21 w = d := fld_of g3
  show Option.filter Instr.wf (decodeCtlRaw w) = _
  rw [decodeCtlRaw_1 f2]
  delta decodeCtl01
  simp only [f0, f1, n0, n1, n2, n3, n4, n5, n6, k1, k3, and_self, reduceIte, and_true, true_and, and_false, false_and, Nat.reduceEqDiff]
  exact filter_wf hwf

theorem movb (d : BitVec 5) (b : BitVec 3) : Statement (.movb d b) := by
  intro hwf w he
  have he : 67108895 + d.toNat * 2097152 + b.toNat * 2048 = w := Option.some.inj he
  have r0 : w / 2 ^ 0 = 31 + 2 ^ 11 * (b.toNat + 2 ^ 3 * (0 + 2 ^ 7 * (d.toNat + 2 ^ 5 * (1 + 2 ^ 6 * (0))))) := by rw [← he, Nat.pow_zero, Nat.div_one]; ring
  obtain ⟨c0, r1⟩ := peel r0 (by decide)
  obtain ⟨g1, r2⟩ := peel r1 b.isLt
  obtain ⟨c2, r3⟩ := peel r2 (by decide)
  obtain ⟨g3, r4⟩ := peel r3 d.isLt
  obtain ⟨c4, -⟩ := peel r4 (by decide)
  have f0 : bits w 10 0 = 31 := c0
  have f1 : bits w 20 14 = 0 := c2
  have f2 : bits w 31 26 = 1 := c4
  have n0 : ¬ bits w 15 0 = 23 := by
    intro hh
    exact absurd c0 (apart hh (by decide) (by decide) (by decide))
  have n1 : ¬ bits w 15 0 = 24 := by
    intro hh
    exact absurd c0 (apart hh (by decide) (by decide) (by decide))
  have n2 : ¬ bits w 15 0 = 25 := by
    intro hh
    exact absurd c0 (apart hh (by decide) (by decide) (by decide))
  have n3 : ¬ bits w 15 0 = 26 := by
    intro hh
    exact absurd c0 (apart hh (by decide) (by decide) (by decide))
  have n4 : ¬ bits w 15 0 = 27 := by
    intro hh
    exact absurd c0 (apart hh (by decide) (by decide) (by decide))
  have n5 : ¬ bits w 15 0 = 28 := by
    intro hh
    exact absurd c0 (apart hh (by decide) (by decide) (by decide))
  have n6 : ¬ bits w 15 0 = 29 := by
    intro hh
    exact absurd c0 (apart hh (by decide) (by decide) (by decide))
  have k1 : fld 3 11 w = b := fld_of g1
  have k3 : fld 5 21 w = d := fld_of g3
  show Option.filter Instr.wf (decodeCtlRaw w) = _
  rw [decodeCtlRaw_1 f2]
  delta decodeCtl01
  simp only [f0, f1, n0, n1, n2, n3, n4, n5, n6, k1, k3, and_self, reduceIte, and_true, true_and, and_false, false_and, Nat.reduceEqDiff]
  exact filter_wf hwf

theorem addi (d : BitVec 5) (s : BitVec 5) (i : BitVec 16) : Statement (.addi d s i) := by
  intro hwf w he
  have he : 134217728 + d.toNat * 2097152 + s.toNat * 65536 + i.toNat * 1 = w := Option.some.inj he
  have r0 : w / 2 ^ 0 = i.toNat + 2 ^ 16 * (s.toNat + 2 ^ 5 * (d.toNat + 2 ^ 5 * (2 + 2 ^ 6 * (0)))) := by rw [← he, Nat.pow_zero, Nat.div_one]; ring
  obtain ⟨g0, r1⟩ := peel r0 i.isLt
  obtain ⟨g1, r2⟩ := peel r1 s.isLt
  obtain ⟨g2, r3⟩ := peel r2 d.isLt
  obtain ⟨c3, -⟩ := peel r3 (by decide)
  have f0 : bits w 31 26 = 2 := c3
  have k0 : fld 16 0 w = i := fld_of g0
  have k1 : fld 5 16 w = s := fld_of g1
  have k2 : fld 5 21 w = d := fld_of g2
  show Option.filter Instr.wf (decodeCtlRaw w) = _
  rw [decodeCtlRaw_2 f0]
  simp only [k0, k1, k2]
  exact filter_wf hwf

theorem andi (d : BitVec 5) (s : BitVec 5) (i : BitVec 16) : Statement (.andi d s i) := by
  intro hwf w he
  have he : 201326592 + d.toNat * 2097152 + s.toNat * 65536 + i.toNat * 1 = w := Option.some.inj he
  have r0 : w / 2 ^ 0 = i.toNat + 2 ^ 16 * (s.toNat + 2 ^ 5 * (d.toNat + 2 ^ 5 * (3 + 2 ^ 6 * (0)))) := by rw [← he, Nat.pow_zero, Nat.div_one]; ring
  obtain ⟨g0, r1⟩ := peel r0 i.isLt
  obtain ⟨g1, r2⟩ := peel r1 s.isLt
  obtain ⟨g2, r3⟩ := peel r2 d.isLt
  obtain ⟨c3, -⟩ := peel r3 (by decide)
  have f0 : bits w 31 26 = 3 := c3
  have k0 : fld 16 0 w = i := fld_of g0
  have k1 : fld 5 16 w = s := fld_of g1
  have k2 : fld 5 21 w = d := fld_of g2
  show Option.filter Instr.wf (decodeCtlRaw w) = _
  rw [decodeCtlRaw_3 f0]
  simp only [k0, k1, k2]
  exact filter_wf hwf

theorem ori (d : BitVec 5) (s : BitVec 5) (i : BitVec 16) : Statement (.ori d s i) := by
  intro hwf w he
  have he : 268435456 + d.toNat * 2097152 + s.toNat * 65536 + i.toNat * 1 = w := Option.some.inj he
  have r0 : w / 2 ^ 0 = i.toNat + 2 ^ 16 * (s.toNat + 2 ^ 5 * (d.toNat + 2 ^ 5 * (4 + 2 ^ 6 * (0)))) := by rw [← he, Nat.pow_zero, Nat.div_one]; ring
  obtain ⟨g0, r1⟩ := peel r0 i.isLt
  obtain ⟨g1, r2⟩ := peel r1 s.isLt
  obtain ⟨g2, r3⟩ := peel r2 d.isLt
  obtain ⟨c3, -⟩ := peel r3 (by decide)
  have f0 : bits w 31 26 = 4 := c3
  have k0 : fld 16 0 w = i := fld_of g0
  have k1 : fld 5 16 w = s := fld_of g1
  have k2 : fld 5 21 w = d := fld_of g2
  show Option.filter Instr.wf (decodeCtlRaw w) = _
  rw [decodeCtlRaw_4 f0]
  simp only [k0, k1, k2]
  exact filter_wf hwf

theorem xori (d : BitVec 5) (s : BitVec 5) (i : BitVec 16) : Statement (.xori d s i) := by
  intro hwf w he
  have he : 335544320 + d.toNat * 2097152 + s.toNat * 65536 + i.toNat * 1 = w := Option.some.inj he
  have r0 : w / 2 ^ 0 = i.toNat + 2 ^ 16 * (s.toNat + 2 ^ 5 * (d.toNat + 2 ^ 5 * (5 + 2 ^ 6 * (0)))) := by rw [← he, Nat.pow_zero, Nat.div_one]; ring
  obtain ⟨g0, r1⟩ := peel r0 i.isLt
  obtain ⟨g1, r2⟩ := peel r1 s.isLt
  obtain ⟨g2, r3⟩ := peel r2 d.isLt
  obtain ⟨c3, -⟩ := peel r3 (by decide)
  have f0 : bits w 31 26 = 5 := c3
  have k0 : fld 16 0 w = i := fld_of g0
  have k1 : fld 5 16 w = s := fld_of g1
  have k2 : fld 5 21 w = d := fld_of g2
  show Option.filter Instr.wf (decodeCtlRaw w) = _
  rw [decodeCtlRaw_5 f0]
  simp only [k0, k1, k2]
  exact filter_wf hwf

theorem slli (d : BitVec 5) (s : BitVec 5) (h : BitVec 6) : Statement (.slli d s h) := by
  intro hwf w he
  have he : 402653184 + d.toNat * 2097152 + s.toNat * 65536 + h.toNat * 1 = w := Option.some.inj he
  have r0 : w / 2 ^ 0 = h.toNat + 2 ^ 6 * (0 + 2 ^ 10 * (s.toNat + 2 ^ 5 * (d.toNat + 2 ^ 5 * (6 + 2 ^ 6 * (0))))) := by rw [← he, Nat.pow_zero, Nat.div_one]; ring
  obtain ⟨g0, r1⟩ := peel r0 h.isLt
  obtain ⟨c1, r2⟩ := peel r1 (by decide)
  obtain ⟨g2, r3⟩ := peel r2 s.isLt
  obtain ⟨g3, r4⟩ := peel r3 d.isLt
  obtain ⟨c4, -⟩ := peel r4 (by decide)
  have f0 : bits w 15 6 = 0 := c1
  have f1 : bits w 31 26 = 6 := c4
  have k0 : fld 6 0 w = h := fld_of g0
  have k2 : fld 5 16 w = s := fld_of g2
  have k3 : fld 5 21 w = d := fld_of g3
  show Option.filter Instr.wf (decodeCtlRaw w) = _
  rw [decodeCtlRaw_6 f1]
  delta decodeCtl06
  simp only [f0, k0, k2, k3, and_self, reduceIte, and_true, true_and, and_false, false_and, Nat.reduceEqDiff]
  exact filter_wf hwf

theorem srli (d : BitVec 5) (s : BitVec 5) (h : BitVec 6) : Statement (.srli d s h) := by
  intro hwf w he
  have he : 402669568 + d.toNat * 2097152 + s.toNat * 65536 + h.toNat * 1 = w := Option.some.inj he
  have r0 : w / 2 ^ 0 = h.toNat + 2 ^ 6 * (256 + 2 ^ 10 * (s.toNat + 2 ^ 5 * (d.toNat + 2 ^ 5 * (6 + 2 ^ 6 * (0))))) := by rw [← he, Nat.pow_zero, Nat.div_one]; ring
  obtain ⟨g0, r1⟩ := peel r0 h.isLt
  obtain ⟨c1, r2⟩ := peel r1 (by decide)
  obtain ⟨g2, r3⟩ := peel r2 s.isLt
  obtain ⟨g3, r4⟩ := peel r3 d.isLt
  obtain ⟨c4, -⟩ := peel r4 (by decide)
  have f0 : bits w 15 6 = 256 := c1
  have f1 : bits w 31 26 = 6 := c4
  have k0 : fld 6 0 w = h := fld_of g0
  have k2 : fld 5 16 w = s := fld_of g2
  have k3 : fld 5 21 w = d := fld_of g3
  show Option.filter Instr.wf (decodeCtlRaw w) = _
  rw [decodeCtlRaw_6 f1]
  delta decodeCtl06
  simp only [f0, k0, k2, k3, and_self, reduceIte, and_true, true_and, and_false, false_and, Nat.reduceEqDiff]
  exact filter_wf hwf

theorem srai (d : BitVec 5) (s : BitVec 5) (h : BitVec 6) : Statement (.srai d s h) := by
  intro hwf w he
  have he : 402685952 + d.toNat * 2097152 + s.toNat * 65536 + h.toNat * 1 = w := Option.some.inj he
  have r0 : w / 2 ^ 0 = h.toNat + 2 ^ 6 * (512 + 2 ^ 10 * (s.toNat + 2 ^ 5 * (d.toNat + 2 ^ 5 * (6 + 2 ^ 6 * (0))))) := by rw [← he, Nat.pow_zero, Nat.div_one]; ring
  obtain ⟨g0, r1⟩ := peel r0 h.isLt
  obtain ⟨c1, r2⟩ := peel r1 (by decide)
  obtain ⟨g2, r3⟩ := peel r2 s.isLt
  obtain ⟨g3, r4⟩ := peel r3 d.isLt
  obtain ⟨c4, -⟩ := peel r4 (by decide)
  have f0 : bits w 15 6 = 512 := c1
  have f1 : bits w 31 26 = 6 := c4
  have k0 : fld 6 0 w = h := fld_of g0
  have k2 : fld 5 16 w = s := fld_of g2
  have k3 : fld 5 21 w = d := fld_of g3
  show Option.filter Instr.wf (decodeCtlRaw w) = _
  rw [decodeCtlRaw_6 f1]
  delta decodeCtl06
  simp only [f0, k0, k2, k3, and_self, reduceIte, and_true, true_and, and_false, false_and, Nat.reduceEqDiff]
  exact filter_wf hwf

theorem rori (d : BitVec 5) (s : BitVec 5) (h : BitVec 6) : Statement (.rori d s h) := by
  intro hwf w he
  have he : 402702336 + d.toNat * 2097152 + s.toNat * 65536 + h.toNat * 1 = w := Option.some.inj he
  have r0 : w / 2 ^ 0 = h.toNat + 2 ^ 6 * (768 + 2 ^ 10 * (s.toNat + 2 ^ 5 * (d.toNat + 2 ^ 5 * (6 + 2 ^ 6 * (0))))) := by rw [← he, Nat.pow_zero, Nat.div_one]; ring
  obtain ⟨g0, r1⟩ := peel r0 h.isLt
  obtain ⟨c1, r2⟩ := peel r1 (by decide)
  obtain ⟨g2, r3⟩ := peel r2 s.isLt
  obtain ⟨g3, r4⟩ := peel r3 d.isLt
  obtain ⟨c4, -⟩ := peel r4 (by decide)
  have f0 : bits w 15 6 = 768 := c1
  have f1 : bits w 31 26 = 6 := c4
  have k0 : fld 6 0 w = h := fld_of g0
  have k2 : fld 5 16 w = s := fld_of g2
  have k3 : fld 5 21 w = d := fld_of g3
  show Option.filter Instr.wf (decodeCtlRaw w) = _
  rw [decodeCtlRaw_6 f1]
  delta decodeCtl06
  simp only [f0, k0, k2, k3, and_self, reduceIte, and_true, true_and, and_false, false_and, Nat.reduceEqDiff]
  exact filter_wf hwf

theorem li (d : BitVec 5) (i : BitVec 16) : Statement (.li d i) := by
  intro hwf w he
  have he : 469762048 + d.toNat * 2097152 + i.toNat * 1 = w := Option.some.inj he
  have r0 : w / 2 ^ 0 = i.toNat + 2 ^ 16 * (0 + 2 ^ 5 * (d.toNat + 2 ^ 5 * (7 + 2 ^ 6 * (0)))) := by rw [← he, Nat.pow_zero, Nat.div_one]; ring
  obtain ⟨g0, r1⟩ := peel r0 i.isLt
  obtain ⟨c1, r2⟩ := peel r1 (by decide)
  obtain ⟨g2, r3⟩ := peel r2 d.isLt
  obtain ⟨c3, -⟩ := peel r3 (by decide)
  have f0 : bits w 20 16 = 0 := c1
  have f1 : bits w 31 26 = 7 := c3
  have k0 : fld 16 0 w = i := fld_of g0
  have k2 : fld 5 21 w = d := fld_of g2
  show Option.filter Instr.wf (decodeCtlRaw w) = _
  rw [decodeCtlRaw_7 f1]
  simp only [f0, k0, k2, and_self, reduceIte, and_true, true_and, and_false, false_and, Nat.reduceEqDiff]
  exact filter_wf hwf

theorem lih (d : BitVec 5) (i : BitVec 16) : Statement (.lih d i) := by
  intro hwf w he
  have he : 536870912 + d.toNat * 2097152 + i.toNat * 1 = w := Option.some.inj he
  have r0 : w / 2 ^ 0 = i.toNat + 2 ^ 16 * (0 + 2 ^ 5 * (d.toNat + 2 ^ 5 * (8 + 2 ^ 6 * (0)))) := by rw [← he, Nat.pow_zero, Nat.div_one]; ring
  obtain ⟨g0, r1⟩ := peel r0 i.isLt
  obtain ⟨c1, r2⟩ := peel r1 (by decide)
  obtain ⟨g2, r3⟩ := peel r2 d.isLt
  obtain ⟨c3, -⟩ := peel r3 (by decide)
  have f0 : bits w 20 16 = 0 := c1
  have f1 : bits w 31 26 = 8 := c3
  have k0 : fld 16 0 w = i := fld_of g0
  have k2 : fld 5 21 w = d := fld_of g2
  show Option.filter Instr.wf (decodeCtlRaw w) = _
  rw [decodeCtlRaw_8 f1]
  simp only [f0, k0, k2, and_self, reduceIte, and_true, true_and, and_false, false_and, Nat.reduceEqDiff]
  exact filter_wf hwf

theorem muli (d : BitVec 5) (s : BitVec 5) (i : BitVec 16) : Statement (.muli d s i) := by
  intro hwf w he
  have he : 603979776 + d.toNat * 2097152 + s.toNat * 65536 + i.toNat * 1 = w := Option.some.inj he
  have r0 : w / 2 ^ 0 = i.toNat + 2 ^ 16 * (s.toNat + 2 ^ 5 * (d.toNat + 2 ^ 5 * (9 + 2 ^ 6 * (0)))) := by rw [← he, Nat.pow_zero, Nat.div_one]; ring
  obtain ⟨g0, r1⟩ := peel r0 i.isLt
  obtain ⟨g1, r2⟩ := peel r1 s.isLt
  obtain ⟨g2, r3⟩ := peel r2 d.isLt
  obtain ⟨c3, -⟩ := peel r3 (by decide)
  have f0 : bits w 31 26 = 9 := c3
  have k0 : fld 16 0 w = i := fld_of g0
  have k1 : fld 5 16 w = s := fld_of g1
  have k2 : fld 5 21 w = d := fld_of g2
  show Option.filter Instr.wf (decodeCtlRaw w) = _
  rw [decodeCtlRaw_9 f0]
  simp only [k0, k1, k2]
  exact filter_wf hwf

theorem cmp (f : BitVec 3) (c : BitVec 4) (s : BitVec 5) (t : BitVec 5) : Statement (.cmp f c s t) := by
  intro hwf w he
  have he : 671088640 + f.toNat * 8388608 + c.toNat * 524288 + s.toNat * 16384 + t.toNat * 512 = w := Option.some.inj he
  have r0 : w / 2 ^ 0 = 0 + 2 ^ 9 * (t.toNat + 2 ^ 5 * (s.toNat + 2 ^ 5 * (c.toNat + 2 ^ 4 * (f.toNat + 2 ^ 3 * (10 + 2 ^ 6 * (0)))))) := by rw [← he, Nat.pow_zero, Nat.div_one]; ring
  obtain ⟨c0, r1⟩ := peel r0 (by decide)
  obtain ⟨g1, r2⟩ := peel r1 t.isLt
  obtain ⟨g2, r3⟩ := peel r2 s.isLt
  obtain ⟨g3, r4⟩ := peel r3 c.isLt
  obtain ⟨g4, r5⟩ := peel r4 f.isLt
  obtain ⟨c5, -⟩ := peel r5 (by decide)
  have f0 : bits w 8 0 = 0 := c0
  have f1 : bits w 31 26 = 10 := c5
  have k1 : fld 5 9 w = t := fld_of g1
  have k2 : fld 5 14 w = s := fld_of g2
  have k3 : fld 4 19 w = c := fld_of g3
  have k4 : fld 3 23 w = f := fld_of g4
  show Option.filter Instr.wf (decodeCtlRaw w) = _
  rw [decodeCtlRaw_10 f1]
  simp only [f0, k1, k2, k3, k4, and_self, reduceIte, and_true, true_and, and_false, false_and, Nat.reduceEqDiff]
  exact filter_wf hwf

theorem cmpi (f : BitVec 3) (c : BitVec 4) (s : BitVec 5) (i : BitVec 14) : Statement (.cmpi f c s i) := by
  intro hwf w he
  have he : 738197504 + f.toNat * 8388608 + c.toNat * 524288 + s.toNat * 16384 + i.toNat * 1 = w := Option.some.inj he
  have r0 : w / 2 ^ 0 = i.toNat + 2 ^ 14 * (s.toNat + 2 ^ 5 * (c.toNat + 2 ^ 4 * (f.toNat + 2 ^ 3 * (11 + 2 ^ 6 * (0))))) := by rw [← he, Nat.pow_zero, Nat.div_one]; ring
  obtain ⟨g0, r1⟩ := peel r0 i.isLt
  obtain ⟨g1, r2⟩ := peel r1 s.isLt
  obtain ⟨g2, r3⟩ := peel r2 c.isLt
  obtain ⟨g3, r4⟩ := peel r3 f.isLt
  obtain ⟨c4, -⟩ := peel r4 (by decide)
  have f0 : bits w 31 26 = 11 := c4
  have k0 : fld 14 0 w = i := fld_of g0
  have k1 : fld 5 14 w = s := fld_of g1
  have k2 : fld 4 19 w = c := fld_of g2
  have k3 : fld 3 23 w = f := fld_of g3
  show Option.filter Instr.wf (decodeCtlRaw w) = _
  rw [decodeCtlRaw_11 f0]
  simp only [k0, k1, k2, k3]
  exact filter_wf hwf

theorem prep (b : BitVec 3) (o : BitVec 23) : Statement (.prep b o) := by
  intro hwf w he
  have he : 805306368 + b.toNat * 8388608 + o.toNat * 1 = w := Option.some.inj he
  have r0 : w / 2 ^ 0 = o.toNat + 2 ^ 23 * (b.toNat + 2 ^ 3 * (12 + 2 ^ 6 * (0))) := by rw [← he, Nat.pow_zero, Nat.div_one]; ring
  obtain ⟨g0, r1⟩ := peel r0 o.isLt
  obtain ⟨g1, r2⟩ := peel r1 b.isLt
  obtain ⟨c2, -⟩ := peel r2 (by decide)
  have f0 : bits w 31 26 = 12 := c2
  have k0 : fld 23 0 w = o := fld_of g0
  have k1 : fld 3 23 w = b := fld_of g1
  show Option.filter Instr.wf (decodeCtlRaw w) = _
  rw [decodeCtlRaw_12 f0]
  simp only [k0, k1]
  exact filter_wf hwf

theorem xfer (b : BitVec 3) (f : BitVec 3) : Statement (.xfer b f) := by
  intro hwf w he
  have he : 872415232 + b.toNat * 8388608 + f.toNat * 1048576 = w := Option.some.inj he
  have r0 : w / 2 ^ 0 = 0 + 2 ^ 20 * (f.toNat + 2 ^ 3 * (b.toNat + 2 ^ 3 * (13 + 2 ^ 6 * (0)))) := by rw [← he, Nat.pow_zero, Nat.div_one]; ring
  obtain ⟨c0, r1⟩ := peel r0 (by decide)
  obtain ⟨g1, r2⟩ := peel r1 f.isLt
  obtain ⟨g2, r3⟩ := peel r2 b.isLt
  obtain ⟨c3, -⟩ := peel r3 (by decide)
  have f0 : bits w 19 0 = 0 := c0
  have f1 : bits w 31 26 = 13 := c3
  have k1 : fld 3 20 w = f := fld_of g1
  have k2 : fld 3 23 w = b := fld_of g2
  show Option.filter Instr.wf (decodeCtlRaw w) = _
  rw [decodeCtlRaw_13 f1]
  delta decodeCtl0D
  simp only [f0, k1, k2, and_self, reduceIte, and_true, true_and, and_false, false_and, Nat.reduceEqDiff]
  exact filter_wf hwf

theorem xferN (b : BitVec 3) (f : BitVec 3) : Statement (.xferN b f) := by
  intro hwf w he
  have he : 872939520 + b.toNat * 8388608 + f.toNat * 1048576 = w := Option.some.inj he
  have r0 : w / 2 ^ 0 = 524288 + 2 ^ 20 * (f.toNat + 2 ^ 3 * (b.toNat + 2 ^ 3 * (13 + 2 ^ 6 * (0)))) := by rw [← he, Nat.pow_zero, Nat.div_one]; ring
  obtain ⟨c0, r1⟩ := peel r0 (by decide)
  obtain ⟨g1, r2⟩ := peel r1 f.isLt
  obtain ⟨g2, r3⟩ := peel r2 b.isLt
  obtain ⟨c3, -⟩ := peel r3 (by decide)
  have f0 : bits w 19 0 = 524288 := c0
  have f1 : bits w 31 26 = 13 := c3
  have k1 : fld 3 20 w = f := fld_of g1
  have k2 : fld 3 23 w = b := fld_of g2
  show Option.filter Instr.wf (decodeCtlRaw w) = _
  rw [decodeCtlRaw_13 f1]
  delta decodeCtl0D
  simp only [f0, k1, k2, and_self, reduceIte, and_true, true_and, and_false, false_and, Nat.reduceEqDiff]
  exact filter_wf hwf

theorem xferA (b : BitVec 3) : Statement (.xferA b) := by
  intro hwf w he
  have he : 872677376 + b.toNat * 8388608 = w := Option.some.inj he
  have r0 : w / 2 ^ 0 = 262144 + 2 ^ 20 * (0 + 2 ^ 3 * (b.toNat + 2 ^ 3 * (13 + 2 ^ 6 * (0)))) := by rw [← he, Nat.pow_zero, Nat.div_one]; ring
  obtain ⟨c0, r1⟩ := peel r0 (by decide)
  obtain ⟨c1, r2⟩ := peel r1 (by decide)
  obtain ⟨g2, r3⟩ := peel r2 b.isLt
  obtain ⟨c3, -⟩ := peel r3 (by decide)
  have f0 : bits w 19 0 = 262144 := c0
  have f1 : bits w 22 0 = 262144 := by
    clear he r0
    have := c0
    have := c1
    show w / 1 % 8388608 = 262144
    omega
  have f2 : bits w 31 26 = 13 := c3
  have k2 : fld 3 23 w = b := fld_of g2
  show Option.filter Instr.wf (decodeCtlRaw w) = _
  rw [decodeCtlRaw_13 f2]
  delta decodeCtl0D
  simp only [f0, f1, k2, and_self, reduceIte, and_true, true_and, and_false, false_and, Nat.reduceEqDiff]
  exact filter_wf hwf

theorem xferL (b : BitVec 3) (f : BitVec 3) (n : BitVec 1) (a : BitVec 1) (t : BitVec 5) : Statement (.xferL b f n a t) := by
  intro hwf w he
  have he : 872480768 + b.toNat * 8388608 + f.toNat * 1048576 + n.toNat * 524288 + a.toNat * 262144 + t.toNat * 2048 = w := Option.some.inj he
  have r0 : w / 2 ^ 0 = 0 + 2 ^ 11 * (t.toNat + 2 ^ 5 * (1 + 2 ^ 2 * (a.toNat + 2 ^ 1 * (n.toNat + 2 ^ 1 * (f.toNat + 2 ^ 3 * (b.toNat + 2 ^ 3 * (13 + 2 ^ 6 * (0)))))))) := by rw [← he, Nat.pow_zero, Nat.div_one]; ring
  obtain ⟨c0, r1⟩ := peel r0 (by decide)
  obtain ⟨g1, r2⟩ := peel r1 t.isLt
  obtain ⟨c2, r3⟩ := peel r2 (by decide)
  obtain ⟨g3, r4⟩ := peel r3 a.isLt
  obtain ⟨g4, r5⟩ := peel r4 n.isLt
  obtain ⟨g5, r6⟩ := peel r5 f.isLt
  obtain ⟨g6, r7⟩ := peel r6 b.isLt
  obtain ⟨c7, -⟩ := peel r7 (by decide)
  have f0 : bits w 10 0 = 0 := c0
  have f1 : bits w 17 16 = 1 := c2
  have f2 : bits w 31 26 = 13 := c7
  have n0 : ¬ bits w 19 0 = 0 := by
    intro hh
    exact absurd c2 (apart hh (by decide) (by decide) (by decide))
  have n1 : ¬ bits w 19 0 = 524288 := by
    intro hh
    exact absurd c2 (apart hh (by decide) (by decide) (by decide))
  have n2 : ¬ bits w 22 0 = 262144 := by
    intro hh
    exact absurd c2 (apart hh (by decide) (by decide) (by decide))
  have k1 : fld 5 11 w = t := fld_of g1
  have k3 : fld 1 18 w = a := fld_of g3
  have k4 : fld 1 19 w = n := fld_of g4
  have k5 : fld 3 20 w = f := fld_of g5
  have k6 : fld 3 23 w = b := fld_of g6
  show Option.filter Instr.wf (decodeCtlRaw w) = _
  rw [decodeCtlRaw_13 f2]
  delta decodeCtl0D
  simp only [f0, f1, n0, n1, n2, k1, k3, k4, k5, k6, and_self, reduceIte, and_true, true_and, and_false, false_and, Nat.reduceEqDiff]
  exact filter_wf hwf

theorem xferR (f : BitVec 3) (n : BitVec 1) (a : BitVec 1) (t : BitVec 5) : Statement (.xferR f n a t) := by
  intro hwf w he
  have he : 872546304 + f.toNat * 1048576 + n.toNat * 524288 + a.toNat * 262144 + t.toNat * 2048 = w := Option.some.inj he
  have r0 : w / 2 ^ 0 = 0 + 2 ^ 11 * (t.toNat + 2 ^ 5 * (2 + 2 ^ 2 * (a.toNat + 2 ^ 1 * (n.toNat + 2 ^ 1 * (f.toNat + 2 ^ 3 * (0 + 2 ^ 3 * (13 + 2 ^ 6 * (0)))))))) := by rw [← he, Nat.pow_zero, Nat.div_one]; ring
  obtain ⟨c0, r1⟩ := peel r0 (by decide)
  obtain ⟨g1, r2⟩ := peel r1 t.isLt
  obtain ⟨c2, r3⟩ := peel r2 (by decide)
  obtain ⟨g3, r4⟩ := peel r3 a.isLt
  obtain ⟨g4, r5⟩ := peel r4 n.isLt
  obtain ⟨g5, r6⟩ := peel r5 f.isLt
  obtain ⟨c6, r7⟩ := peel r6 (by decide)
  obtain ⟨c7, -⟩ := peel r7 (by decide)
  have f0 : bits w 10 0 = 0 := c0
  have f1 : bits w 17 16 = 2 := c2
  have f2 : bits w 25 23 = 0 := c6
  have f3 : bits w 31 26 = 13 := c7
  have n0 : ¬ bits w 19 0 = 0 := by
    intro hh
    exact absurd c2 (apart hh (by decide) (by decide) (by decide))
  have n1 : ¬ bits w 19 0 = 524288 := by
    intro hh
    exact absurd c2 (apart hh (by decide) (by decide) (by decide))
  have n2 : ¬ bits w 22 0 = 262144 := by
    intro hh
    exact absurd c2 (apart hh (by decide) (by decide) (by decide))
  have k1 : fld 5 11 w = t := fld_of g1
  have k3 : fld 1 18 w = a := fld_of g3
  have k4 : fld 1 19 w = n := fld_of g4
  have k5 : fld 3 20 w = f := fld_of g5
  show Option.filter Instr.wf (decodeCtlRaw w) = _
  rw [decodeCtlRaw_13 f3]
  delta decodeCtl0D
  simp only [f0, f1, f2, n0, n1, n2, k1, k3, k4, k5, and_self, reduceIte, and_true, true_and, and_false, false_and, Nat.reduceEqDiff]
  exact filter_wf hwf

theorem vany (f : BitVec 3) (p : BitVec 3) : Statement (.vany f p) := by
  intro hwf w he
  have he : 939524096 + f.toNat * 8388608 + p.toNat * 524288 = w := Option.some.inj he
  have r0 : w / 2 ^ 0 = 0 + 2 ^ 19 * (p.toNat + 2 ^ 3 * (0 + 2 ^ 1 * (f.toNat + 2 ^ 3 * (14 + 2 ^ 6 * (0))))) := by rw [← he, Nat.pow_zero, Nat.div_one]; ring
  obtain ⟨c0, r1⟩ := peel r0 (by decide)
  obtain ⟨g1, r2⟩ := peel r1 p.isLt
  obtain ⟨c2, r3⟩ := peel r2 (by decide)
  obtain ⟨g3, r4⟩ := peel r3 f.isLt
  obtain ⟨c4, -⟩ := peel r4 (by decide)
  have f0 : bits w 18 0 = 0 := c0
  have f1 : bits w 22 22 = 0 := c2
  have f2 : bits w 31 26 = 14 := c4
  have k1 : fld 3 19 w = p := fld_of g1
  have k3 : fld 3 23 w = f := fld_of g3
  show Option.filter Instr.wf (decodeCtlRaw w) = _
  rw [decodeCtlRaw_14 f2]
  delta decodeCtl0E
  simp only [f0, f1, k1, k3, and_self, reduceIte, and_true, true_and, and_false, false_and, Nat.reduceEqDiff]
  exact filter_wf hwf

theorem vall (f : BitVec 3) (p : BitVec 3) : Statement (.vall f p) := by
  intro hwf w he
  have he : 943718400 + f.toNat * 8388608 + p.toNat * 524288 = w := Option.some.inj he
  have r0 : w / 2 ^ 0 = 0 + 2 ^ 19 * (p.toNat + 2 ^ 3 * (1 + 2 ^ 1 * (f.toNat + 2 ^ 3 * (14 + 2 ^ 6 * (0))))) := by rw [← he, Nat.pow_zero, Nat.div_one]; ring
  obtain ⟨c0, r1⟩ := peel r0 (by decide)
  obtain ⟨g1, r2⟩ := peel r1 p.isLt
  obtain ⟨c2, r3⟩ := peel r2 (by decide)
  obtain ⟨g3, r4⟩ := peel r3 f.isLt
  obtain ⟨c4, -⟩ := peel r4 (by decide)
  have f0 : bits w 18 0 = 0 := c0
  have f1 : bits w 22 22 = 1 := c2
  have f2 : bits w 31 26 = 14 := c4
  have k1 : fld 3 19 w = p := fld_of g1
  have k3 : fld 3 23 w = f := fld_of g3
  show Option.filter Instr.wf (decodeCtlRaw w) = _
  rw [decodeCtlRaw_14 f2]
  delta decodeCtl0E
  simp only [f0, f1, k1, k3, and_self, reduceIte, and_true, true_and, and_false, false_and, Nat.reduceEqDiff]
  exact filter_wf hwf

theorem flagAnd (d : BitVec 3) (a : BitVec 3) (b : BitVec 3) : Statement (.flagAnd d a b) := by
  intro hwf w he
  have he : 1006632960 + d.toNat * 8388608 + a.toNat * 1048576 + b.toNat * 131072 = w := Option.some.inj he
  have r0 : w / 2 ^ 0 = 0 + 2 ^ 17 * (b.toNat + 2 ^ 3 * (a.toNat + 2 ^ 3 * (d.toNat + 2 ^ 3 * (15 + 2 ^ 6 * (0))))) := by rw [← he, Nat.pow_zero, Nat.div_one]; ring
  obtain ⟨c0, r1⟩ := peel r0 (by decide)
  obtain ⟨g1, r2⟩ := peel r1 b.isLt
  obtain ⟨g2, r3⟩ := peel r2 a.isLt
  obtain ⟨g3, r4⟩ := peel r3 d.isLt
  obtain ⟨c4, -⟩ := peel r4 (by decide)
  have f0 : bits w 16 0 = 0 := c0
  have f1 : bits w 31 26 = 15 := c4
  have k1 : fld 3 17 w = b := fld_of g1
  have k2 : fld 3 20 w = a := fld_of g2
  have k3 : fld 3 23 w = d := fld_of g3
  show Option.filter Instr.wf (decodeCtlRaw w) = _
  rw [decodeCtlRaw_15 f1]
  delta decodeCtl0F
  simp only [f0, k1, k2, k3, and_self, reduceIte, and_true, true_and, and_false, false_and, Nat.reduceEqDiff]
  exact filter_wf hwf

theorem flagOr (d : BitVec 3) (a : BitVec 3) (b : BitVec 3) : Statement (.flagOr d a b) := by
  intro hwf w he
  have he : 1006632961 + d.toNat * 8388608 + a.toNat * 1048576 + b.toNat * 131072 = w := Option.some.inj he
  have r0 : w / 2 ^ 0 = 1 + 2 ^ 17 * (b.toNat + 2 ^ 3 * (a.toNat + 2 ^ 3 * (d.toNat + 2 ^ 3 * (15 + 2 ^ 6 * (0))))) := by rw [← he, Nat.pow_zero, Nat.div_one]; ring
  obtain ⟨c0, r1⟩ := peel r0 (by decide)
  obtain ⟨g1, r2⟩ := peel r1 b.isLt
  obtain ⟨g2, r3⟩ := peel r2 a.isLt
  obtain ⟨g3, r4⟩ := peel r3 d.isLt
  obtain ⟨c4, -⟩ := peel r4 (by decide)
  have f0 : bits w 16 0 = 1 := c0
  have f1 : bits w 31 26 = 15 := c4
  have k1 : fld 3 17 w = b := fld_of g1
  have k2 : fld 3 20 w = a := fld_of g2
  have k3 : fld 3 23 w = d := fld_of g3
  show Option.filter Instr.wf (decodeCtlRaw w) = _
  rw [decodeCtlRaw_15 f1]
  delta decodeCtl0F
  simp only [f0, k1, k2, k3, and_self, reduceIte, and_true, true_and, and_false, false_and, Nat.reduceEqDiff]
  exact filter_wf hwf

theorem flagXor (d : BitVec 3) (a : BitVec 3) (b : BitVec 3) : Statement (.flagXor d a b) := by
  intro hwf w he
  have he : 1006632962 + d.toNat * 8388608 + a.toNat * 1048576 + b.toNat * 131072 = w := Option.some.inj he
  have r0 : w / 2 ^ 0 = 2 + 2 ^ 17 * (b.toNat + 2 ^ 3 * (a.toNat + 2 ^ 3 * (d.toNat + 2 ^ 3 * (15 + 2 ^ 6 * (0))))) := by rw [← he, Nat.pow_zero, Nat.div_one]; ring
  obtain ⟨c0, r1⟩ := peel r0 (by decide)
  obtain ⟨g1, r2⟩ := peel r1 b.isLt
  obtain ⟨g2, r3⟩ := peel r2 a.isLt
  obtain ⟨g3, r4⟩ := peel r3 d.isLt
  obtain ⟨c4, -⟩ := peel r4 (by decide)
  have f0 : bits w 16 0 = 2 := c0
  have f1 : bits w 31 26 = 15 := c4
  have k1 : fld 3 17 w = b := fld_of g1
  have k2 : fld 3 20 w = a := fld_of g2
  have k3 : fld 3 23 w = d := fld_of g3
  show Option.filter Instr.wf (decodeCtlRaw w) = _
  rw [decodeCtlRaw_15 f1]
  delta decodeCtl0F
  simp only [f0, k1, k2, k3, and_self, reduceIte, and_true, true_and, and_false, false_and, Nat.reduceEqDiff]
  exact filter_wf hwf

theorem flagAndn (d : BitVec 3) (a : BitVec 3) (b : BitVec 3) : Statement (.flagAndn d a b) := by
  intro hwf w he
  have he : 1006632963 + d.toNat * 8388608 + a.toNat * 1048576 + b.toNat * 131072 = w := Option.some.inj he
  have r0 : w / 2 ^ 0 = 3 + 2 ^ 17 * (b.toNat + 2 ^ 3 * (a.toNat + 2 ^ 3 * (d.toNat + 2 ^ 3 * (15 + 2 ^ 6 * (0))))) := by rw [← he, Nat.pow_zero, Nat.div_one]; ring
  obtain ⟨c0, r1⟩ := peel r0 (by decide)
  obtain ⟨g1, r2⟩ := peel r1 b.isLt
  obtain ⟨g2, r3⟩ := peel r2 a.isLt
  obtain ⟨g3, r4⟩ := peel r3 d.isLt
  obtain ⟨c4, -⟩ := peel r4 (by decide)
  have f0 : bits w 16 0 = 3 := c0
  have f1 : bits w 31 26 = 15 := c4
  have k1 : fld 3 17 w = b := fld_of g1
  have k2 : fld 3 20 w = a := fld_of g2
  have k3 : fld 3 23 w = d := fld_of g3
  show Option.filter Instr.wf (decodeCtlRaw w) = _
  rw [decodeCtlRaw_15 f1]
  delta decodeCtl0F
  simp only [f0, k1, k2, k3, and_self, reduceIte, and_true, true_and, and_false, false_and, Nat.reduceEqDiff]
  exact filter_wf hwf

theorem flagNot (d : BitVec 3) (a : BitVec 3) : Statement (.flagNot d a) := by
  intro hwf w he
  have he : 1006632964 + d.toNat * 8388608 + a.toNat * 1048576 = w := Option.some.inj he
  have r0 : w / 2 ^ 0 = 4 + 2 ^ 17 * (0 + 2 ^ 3 * (a.toNat + 2 ^ 3 * (d.toNat + 2 ^ 3 * (15 + 2 ^ 6 * (0))))) := by rw [← he, Nat.pow_zero, Nat.div_one]; ring
  obtain ⟨c0, r1⟩ := peel r0 (by decide)
  obtain ⟨c1, r2⟩ := peel r1 (by decide)
  obtain ⟨g2, r3⟩ := peel r2 a.isLt
  obtain ⟨g3, r4⟩ := peel r3 d.isLt
  obtain ⟨c4, -⟩ := peel r4 (by decide)
  have f0 : bits w 16 0 = 4 := c0
  have f1 : bits w 19 0 = 4 := by
    clear he r0
    have := c0
    have := c1
    show w / 1 % 1048576 = 4
    omega
  have f2 : bits w 31 26 = 15 := c4
  have k2 : fld 3 20 w = a := fld_of g2
  have k3 : fld 3 23 w = d := fld_of g3
  show Option.filter Instr.wf (decodeCtlRaw w) = _
  rw [decodeCtlRaw_15 f2]
  delta decodeCtl0F
  simp only [f0, f1, k2, k3, and_self, reduceIte, and_true, true_and, and_false, false_and, Nat.reduceEqDiff]
  exact filter_wf hwf

theorem flagSet (d : BitVec 3) (v : BitVec 1) : Statement (.flagSet d v) := by
  intro hwf w he
  have he : 1006632965 + d.toNat * 8388608 + v.toNat * 65536 = w := Option.some.inj he
  have r0 : w / 2 ^ 0 = 5 + 2 ^ 16 * (v.toNat + 2 ^ 1 * (0 + 2 ^ 6 * (d.toNat + 2 ^ 3 * (15 + 2 ^ 6 * (0))))) := by rw [← he, Nat.pow_zero, Nat.div_one]; ring
  obtain ⟨c0, r1⟩ := peel r0 (by decide)
  obtain ⟨g1, r2⟩ := peel r1 v.isLt
  obtain ⟨c2, r3⟩ := peel r2 (by decide)
  obtain ⟨g3, r4⟩ := peel r3 d.isLt
  obtain ⟨c4, -⟩ := peel r4 (by decide)
  have f0 : bits w 15 0 = 5 := c0
  have f1 : bits w 22 17 = 0 := c2
  have f2 : bits w 31 26 = 15 := c4
  have n0 : ¬ bits w 16 0 = 0 := by
    intro hh
    exact absurd c0 (apart hh (by decide) (by decide) (by decide))
  have n1 : ¬ bits w 16 0 = 1 := by
    intro hh
    exact absurd c0 (apart hh (by decide) (by decide) (by decide))
  have n2 : ¬ bits w 16 0 = 2 := by
    intro hh
    exact absurd c0 (apart hh (by decide) (by decide) (by decide))
  have n3 : ¬ bits w 16 0 = 3 := by
    intro hh
    exact absurd c0 (apart hh (by decide) (by decide) (by decide))
  have n4 : ¬ bits w 19 0 = 4 := by
    intro hh
    exact absurd c0 (apart hh (by decide) (by decide) (by decide))
  have k1 : fld 1 16 w = v := fld_of g1
  have k3 : fld 3 23 w = d := fld_of g3
  show Option.filter Instr.wf (decodeCtlRaw w) = _
  rw [decodeCtlRaw_15 f2]
  delta decodeCtl0F
  simp only [f0, f1, n0, n1, n2, n3, n4, k1, k3, and_self, reduceIte, and_true, true_and, and_false, false_and, Nat.reduceEqDiff]
  exact filter_wf hwf

theorem ld (d : BitVec 5) (b : BitVec 5) (z : BitVec 2) (o : BitVec 14) : Statement (.ld d b z o) := by
  intro hwf w he
  have he : 1073741824 + d.toNat * 2097152 + b.toNat * 65536 + z.toNat * 16384 + o.toNat * 1 = w := Option.some.inj he
  have r0 : w / 2 ^ 0 = o.toNat + 2 ^ 14 * (z.toNat + 2 ^ 2 * (b.toNat + 2 ^ 5 * (d.toNat + 2 ^ 5 * (16 + 2 ^ 6 * (0))))) := by rw [← he, Nat.pow_zero, Nat.div_one]; ring
  obtain ⟨g0, r1⟩ := peel r0 o.isLt
  obtain ⟨g1, r2⟩ := peel r1 z.isLt
  obtain ⟨g2, r3⟩ := peel r2 b.isLt
  obtain ⟨g3, r4⟩ := peel r3 d.isLt
  obtain ⟨c4, -⟩ := peel r4 (by decide)
  have f0 : bits w 31 26 = 16 := c4
  have k0 : fld 14 0 w = o := fld_of g0
  have k1 : fld 2 14 w = z := fld_of g1
  have k2 : fld 5 16 w = b := fld_of g2
  have k3 : fld 5 21 w = d := fld_of g3
  show Option.filter Instr.wf (decodeCtlRaw w) = _
  rw [decodeCtlRaw_16 f0]
  simp only [k0, k1, k2, k3]
  exact filter_wf hwf

theorem st (d : BitVec 5) (b : BitVec 5) (z : BitVec 2) (o : BitVec 14) : Statement (.st d b z o) := by
  intro hwf w he
  have he : 1140850688 + d.toNat * 2097152 + b.toNat * 65536 + z.toNat * 16384 + o.toNat * 1 = w := Option.some.inj he
  have r0 : w / 2 ^ 0 = o.toNat + 2 ^ 14 * (z.toNat + 2 ^ 2 * (b.toNat + 2 ^ 5 * (d.toNat + 2 ^ 5 * (17 + 2 ^ 6 * (0))))) := by rw [← he, Nat.pow_zero, Nat.div_one]; ring
  obtain ⟨g0, r1⟩ := peel r0 o.isLt
  obtain ⟨g1, r2⟩ := peel r1 z.isLt
  obtain ⟨g2, r3⟩ := peel r2 b.isLt
  obtain ⟨g3, r4⟩ := peel r3 d.isLt
  obtain ⟨c4, -⟩ := peel r4 (by decide)
  have f0 : bits w 31 26 = 17 := c4
  have k0 : fld 14 0 w = o := fld_of g0
  have k1 : fld 2 14 w = z := fld_of g1
  have k2 : fld 5 16 w = b := fld_of g2
  have k3 : fld 5 21 w = d := fld_of g3
  show Option.filter Instr.wf (decodeCtlRaw w) = _
  rw [decodeCtlRaw_17 f0]
  simp only [k0, k1, k2, k3]
  exact filter_wf hwf

theorem ldl (d : BitVec 5) (b : BitVec 5) (z : BitVec 2) (o : BitVec 14) : Statement (.ldl d b z o) := by
  intro hwf w he
  have he : 1207959552 + d.toNat * 2097152 + b.toNat * 65536 + z.toNat * 16384 + o.toNat * 1 = w := Option.some.inj he
  have r0 : w / 2 ^ 0 = o.toNat + 2 ^ 14 * (z.toNat + 2 ^ 2 * (b.toNat + 2 ^ 5 * (d.toNat + 2 ^ 5 * (18 + 2 ^ 6 * (0))))) := by rw [← he, Nat.pow_zero, Nat.div_one]; ring
  obtain ⟨g0, r1⟩ := peel r0 o.isLt
  obtain ⟨g1, r2⟩ := peel r1 z.isLt
  obtain ⟨g2, r3⟩ := peel r2 b.isLt
  obtain ⟨g3, r4⟩ := peel r3 d.isLt
  obtain ⟨c4, -⟩ := peel r4 (by decide)
  have f0 : bits w 31 26 = 18 := c4
  have k0 : fld 14 0 w = o := fld_of g0
  have k1 : fld 2 14 w = z := fld_of g1
  have k2 : fld 5 16 w = b := fld_of g2
  have k3 : fld 5 21 w = d := fld_of g3
  show Option.filter Instr.wf (decodeCtlRaw w) = _
  rw [decodeCtlRaw_18 f0]
  simp only [k0, k1, k2, k3]
  exact filter_wf hwf

theorem stl (d : BitVec 5) (b : BitVec 5) (z : BitVec 2) (o : BitVec 14) : Statement (.stl d b z o) := by
  intro hwf w he
  have he : 1275068416 + d.toNat * 2097152 + b.toNat * 65536 + z.toNat * 16384 + o.toNat * 1 = w := Option.some.inj he
  have r0 : w / 2 ^ 0 = o.toNat + 2 ^ 14 * (z.toNat + 2 ^ 2 * (b.toNat + 2 ^ 5 * (d.toNat + 2 ^ 5 * (19 + 2 ^ 6 * (0))))) := by rw [← he, Nat.pow_zero, Nat.div_one]; ring
  obtain ⟨g0, r1⟩ := peel r0 o.isLt
  obtain ⟨g1, r2⟩ := peel r1 z.isLt
  obtain ⟨g2, r3⟩ := peel r2 b.isLt
  obtain ⟨g3, r4⟩ := peel r3 d.isLt
  obtain ⟨c4, -⟩ := peel r4 (by decide)
  have f0 : bits w 31 26 = 19 := c4
  have k0 : fld 14 0 w = o := fld_of g0
  have k1 : fld 2 14 w = z := fld_of g1
  have k2 : fld 5 16 w = b := fld_of g2
  have k3 : fld 5 21 w = d := fld_of g3
  show Option.filter Instr.wf (decodeCtlRaw w) = _
  rw [decodeCtlRaw_19 f0]
  simp only [k0, k1, k2, k3]
  exact filter_wf hwf

theorem lda (d : BitVec 5) (b : BitVec 5) (z : BitVec 2) (o : BitVec 14) : Statement (.lda d b z o) := by
  intro hwf w he
  have he : 1342177280 + d.toNat * 2097152 + b.toNat * 65536 + z.toNat * 16384 + o.toNat * 1 = w := Option.some.inj he
  have r0 : w / 2 ^ 0 = o.toNat + 2 ^ 14 * (z.toNat + 2 ^ 2 * (b.toNat + 2 ^ 5 * (d.toNat + 2 ^ 5 * (20 + 2 ^ 6 * (0))))) := by rw [← he, Nat.pow_zero, Nat.div_one]; ring
  obtain ⟨g0, r1⟩ := peel r0 o.isLt
  obtain ⟨g1, r2⟩ := peel r1 z.isLt
  obtain ⟨g2, r3⟩ := peel r2 b.isLt
  obtain ⟨g3, r4⟩ := peel r3 d.isLt
  obtain ⟨c4, -⟩ := peel r4 (by decide)
  have f0 : bits w 31 26 = 20 := c4
  have k0 : fld 14 0 w = o := fld_of g0
  have k1 : fld 2 14 w = z := fld_of g1
  have k2 : fld 5 16 w = b := fld_of g2
  have k3 : fld 5 21 w = d := fld_of g3
  show Option.filter Instr.wf (decodeCtlRaw w) = _
  rw [decodeCtlRaw_20 f0]
  simp only [k0, k1, k2, k3]
  exact filter_wf hwf

theorem sta (d : BitVec 5) (b : BitVec 5) (z : BitVec 2) (o : BitVec 14) : Statement (.sta d b z o) := by
  intro hwf w he
  have he : 1409286144 + d.toNat * 2097152 + b.toNat * 65536 + z.toNat * 16384 + o.toNat * 1 = w := Option.some.inj he
  have r0 : w / 2 ^ 0 = o.toNat + 2 ^ 14 * (z.toNat + 2 ^ 2 * (b.toNat + 2 ^ 5 * (d.toNat + 2 ^ 5 * (21 + 2 ^ 6 * (0))))) := by rw [← he, Nat.pow_zero, Nat.div_one]; ring
  obtain ⟨g0, r1⟩ := peel r0 o.isLt
  obtain ⟨g1, r2⟩ := peel r1 z.isLt
  obtain ⟨g2, r3⟩ := peel r2 b.isLt
  obtain ⟨g3, r4⟩ := peel r3 d.isLt
  obtain ⟨c4, -⟩ := peel r4 (by decide)
  have f0 : bits w 31 26 = 21 := c4
  have k0 : fld 14 0 w = o := fld_of g0
  have k1 : fld 2 14 w = z := fld_of g1
  have k2 : fld 5 16 w = b := fld_of g2
  have k3 : fld 5 21 w = d := fld_of g3
  show Option.filter Instr.wf (decodeCtlRaw w) = _
  rw [decodeCtlRaw_21 f0]
  simp only [k0, k1, k2, k3]
  exact filter_wf hwf

theorem ldc (d : BitVec 5) (b : BitVec 5) (o : BitVec 14) : Statement (.ldc d b o) := by
  intro hwf w he
  have he : 1476427776 + d.toNat * 2097152 + b.toNat * 65536 + o.toNat * 1 = w := Option.some.inj he
  have r0 : w / 2 ^ 0 = o.toNat + 2 ^ 14 * (2 + 2 ^ 2 * (b.toNat + 2 ^ 5 * (d.toNat + 2 ^ 5 * (22 + 2 ^ 6 * (0))))) := by rw [← he, Nat.pow_zero, Nat.div_one]; ring
  obtain ⟨g0, r1⟩ := peel r0 o.isLt
  obtain ⟨c1, r2⟩ := peel r1 (by decide)
  obtain ⟨g2, r3⟩ := peel r2 b.isLt
  obtain ⟨g3, r4⟩ := peel r3 d.isLt
  obtain ⟨c4, -⟩ := peel r4 (by decide)
  have f0 : bits w 15 14 = 2 := c1
  have f1 : bits w 31 26 = 22 := c4
  have k0 : fld 14 0 w = o := fld_of g0
  have k2 : fld 5 16 w = b := fld_of g2
  have k3 : fld 5 21 w = d := fld_of g3
  show Option.filter Instr.wf (decodeCtlRaw w) = _
  rw [decodeCtlRaw_22 f1]
  delta decodeCtl16
  simp only [f0, k0, k2, k3, and_self, reduceIte, and_true, true_and, and_false, false_and, Nat.reduceEqDiff]
  exact filter_wf hwf

theorem ldcNowait (d : BitVec 5) (b : BitVec 5) (o : BitVec 14) : Statement (.ldcNowait d b o) := by
  intro hwf w he
  have he : 1476444160 + d.toNat * 2097152 + b.toNat * 65536 + o.toNat * 1 = w := Option.some.inj he
  have r0 : w / 2 ^ 0 = o.toNat + 2 ^ 14 * (3 + 2 ^ 2 * (b.toNat + 2 ^ 5 * (d.toNat + 2 ^ 5 * (22 + 2 ^ 6 * (0))))) := by rw [← he, Nat.pow_zero, Nat.div_one]; ring
  obtain ⟨g0, r1⟩ := peel r0 o.isLt
  obtain ⟨c1, r2⟩ := peel r1 (by decide)
  obtain ⟨g2, r3⟩ := peel r2 b.isLt
  obtain ⟨g3, r4⟩ := peel r3 d.isLt
  obtain ⟨c4, -⟩ := peel r4 (by decide)
  have f0 : bits w 15 14 = 3 := c1
  have f1 : bits w 31 26 = 22 := c4
  have k0 : fld 14 0 w = o := fld_of g0
  have k2 : fld 5 16 w = b := fld_of g2
  have k3 : fld 5 21 w = d := fld_of g3
  show Option.filter Instr.wf (decodeCtlRaw w) = _
  rw [decodeCtlRaw_22 f1]
  delta decodeCtl16
  simp only [f0, k0, k2, k3, and_self, reduceIte, and_true, true_and, and_false, false_and, Nat.reduceEqDiff]
  exact filter_wf hwf

theorem pref (b : BitVec 5) (z : BitVec 2) (o : BitVec 14) : Statement (.pref b z o) := by
  intro hwf w he
  have he : 1543503872 + b.toNat * 65536 + z.toNat * 16384 + o.toNat * 1 = w := Option.some.inj he
  have r0 : w / 2 ^ 0 = o.toNat + 2 ^ 14 * (z.toNat + 2 ^ 2 * (b.toNat + 2 ^ 5 * (0 + 2 ^ 5 * (23 + 2 ^ 6 * (0))))) := by rw [← he, Nat.pow_zero, Nat.div_one]; ring
  obtain ⟨g0, r1⟩ := peel r0 o.isLt
  obtain ⟨g1, r2⟩ := peel r1 z.isLt
  obtain ⟨g2, r3⟩ := peel r2 b.isLt
  obtain ⟨c3, r4⟩ := peel r3 (by decide)
  obtain ⟨c4, -⟩ := peel r4 (by decide)
  have f0 : bits w 25 21 = 0 := c3
  have f1 : bits w 31 26 = 23 := c4
  have k0 : fld 14 0 w = o := fld_of g0
  have k1 : fld 2 14 w = z := fld_of g1
  have k2 : fld 5 16 w = b := fld_of g2
  show Option.filter Instr.wf (decodeCtlRaw w) = _
  rw [decodeCtlRaw_23 f1]
  simp only [f0, k0, k1, k2, and_self, reduceIte, and_true, true_and, and_false, false_and, Nat.reduceEqDiff]
  exact filter_wf hwf

theorem atom (d : BitVec 5) (b : BitVec 5) (t : BitVec 5) (o : BitVec 4) (wd : BitVec 1) (f : BitVec 1) (r : BitVec 2) (s : BitVec 3) : Statement (.atom d b t o wd f r s) := by
  intro hwf w he
  have he : 1610612736 + d.toNat * 2097152 + b.toNat * 65536 + t.toNat * 2048 + o.toNat * 128 + wd.toNat * 64 + f.toNat * 32 + r.toNat * 8 + s.toNat * 1 = w := Option.some.inj he
  have r0 : w / 2 ^ 0 = s.toNat + 2 ^ 3 * (r.toNat + 2 ^ 2 * (f.toNat + 2 ^ 1 * (wd.toNat + 2 ^ 1 * (o.toNat + 2 ^ 4 * (t.toNat + 2 ^ 5 * (b.toNat + 2 ^ 5 * (d.toNat + 2 ^ 5 * (24 + 2 ^ 6 * (0))))))))) := by rw [← he, Nat.pow_zero, Nat.div_one]; ring
  obtain ⟨g0, r1⟩ := peel r0 s.isLt
  obtain ⟨g1, r2⟩ := peel r1 r.isLt
  obtain ⟨g2, r3⟩ := peel r2 f.isLt
  obtain ⟨g3, r4⟩ := peel r3 wd.isLt
  obtain ⟨g4, r5⟩ := peel r4 o.isLt
  obtain ⟨g5, r6⟩ := peel r5 t.isLt
  obtain ⟨g6, r7⟩ := peel r6 b.isLt
  obtain ⟨g7, r8⟩ := peel r7 d.isLt
  obtain ⟨c8, -⟩ := peel r8 (by decide)
  have f0 : bits w 31 26 = 24 := c8
  have k0 : fld 3 0 w = s := fld_of g0
  have k1 : fld 2 3 w = r := fld_of g1
  have k2 : fld 1 5 w = f := fld_of g2
  have k3 : fld 1 6 w = wd := fld_of g3
  have k4 : fld 4 7 w = o := fld_of g4
  have k5 : fld 5 11 w = t := fld_of g5
  have k6 : fld 5 16 w = b := fld_of g6
  have k7 : fld 5 21 w = d := fld_of g7
  show Option.filter Instr.wf (decodeCtlRaw w) = _
  rw [decodeCtlRaw_24 f0]
  simp only [k0, k1, k2, k3, k4, k5, k6, k7]
  exact filter_wf hwf

theorem acas (d : BitVec 5) (b : BitVec 5) (t : BitVec 5) (wd : BitVec 1) (f : BitVec 1) (r : BitVec 2) (s : BitVec 3) : Statement (.acas d b t wd f r s) := by
  intro hwf w he
  have he : 1677721600 + d.toNat * 2097152 + b.toNat * 65536 + t.toNat * 2048 + wd.toNat * 64 + f.toNat * 32 + r.toNat * 8 + s.toNat * 1 = w := Option.some.inj he
  have r0 : w / 2 ^ 0 = s.toNat + 2 ^ 3 * (r.toNat + 2 ^ 2 * (f.toNat + 2 ^ 1 * (wd.toNat + 2 ^ 1 * (0 + 2 ^ 4 * (t.toNat + 2 ^ 5 * (b.toNat + 2 ^ 5 * (d.toNat + 2 ^ 5 * (25 + 2 ^ 6 * (0))))))))) := by rw [← he, Nat.pow_zero, Nat.div_one]; ring
  obtain ⟨g0, r1⟩ := peel r0 s.isLt
  obtain ⟨g1, r2⟩ := peel r1 r.isLt
  obtain ⟨g2, r3⟩ := peel r2 f.isLt
  obtain ⟨g3, r4⟩ := peel r3 wd.isLt
  obtain ⟨c4, r5⟩ := peel r4 (by decide)
  obtain ⟨g5, r6⟩ := peel r5 t.isLt
  obtain ⟨g6, r7⟩ := peel r6 b.isLt
  obtain ⟨g7, r8⟩ := peel r7 d.isLt
  obtain ⟨c8, -⟩ := peel r8 (by decide)
  have f0 : bits w 10 7 = 0 := c4
  have f1 : bits w 31 26 = 25 := c8
  have k0 : fld 3 0 w = s := fld_of g0
  have k1 : fld 2 3 w = r := fld_of g1
  have k2 : fld 1 5 w = f := fld_of g2
  have k3 : fld 1 6 w = wd := fld_of g3
  have k5 : fld 5 11 w = t := fld_of g5
  have k6 : fld 5 16 w = b := fld_of g6
  have k7 : fld 5 21 w = d := fld_of g7
  show Option.filter Instr.wf (decodeCtlRaw w) = _
  rw [decodeCtlRaw_25 f1]
  simp only [f0, k0, k1, k2, k3, k5, k6, k7, and_self, reduceIte, and_true, true_and, and_false, false_and, Nat.reduceEqDiff]
  exact filter_wf hwf

theorem mkdep (g : BitVec 2) (b : BitVec 5) : Statement (.mkdep g b) := by
  intro hwf w he
  have he : 1744830464 + g.toNat * 2097152 + b.toNat * 65536 = w := Option.some.inj he
  have r0 : w / 2 ^ 0 = 0 + 2 ^ 16 * (b.toNat + 2 ^ 5 * (g.toNat + 2 ^ 2 * (0 + 2 ^ 3 * (26 + 2 ^ 6 * (0))))) := by rw [← he, Nat.pow_zero, Nat.div_one]; ring
  obtain ⟨c0, r1⟩ := peel r0 (by decide)
  obtain ⟨g1, r2⟩ := peel r1 b.isLt
  obtain ⟨g2, r3⟩ := peel r2 g.isLt
  obtain ⟨c3, r4⟩ := peel r3 (by decide)
  obtain ⟨c4, -⟩ := peel r4 (by decide)
  have f0 : bits w 15 0 = 0 := c0
  have f1 : bits w 25 23 = 0 := c3
  have f2 : bits w 31 26 = 26 := c4
  have k1 : fld 5 16 w = b := fld_of g1
  have k2 : fld 2 21 w = g := fld_of g2
  show Option.filter Instr.wf (decodeCtlRaw w) = _
  rw [decodeCtlRaw_26 f2]
  delta decodeCtl1A
  simp only [f0, f1, k1, k2, and_self, reduceIte, and_true, true_and, and_false, false_and, Nat.reduceEqDiff]
  exact filter_wf hwf

theorem mkrdT (g : BitVec 2) (b : BitVec 5) (m : BitVec 8) (f : BitVec 3) : Statement (.mkrdT g b m f) := by
  intro hwf w he
  have he : 1753219072 + g.toNat * 2097152 + b.toNat * 65536 + m.toNat * 256 + f.toNat * 32 = w := Option.some.inj he
  have r0 : w / 2 ^ 0 = 0 + 2 ^ 5 * (f.toNat + 2 ^ 3 * (m.toNat + 2 ^ 8 * (b.toNat + 2 ^ 5 * (g.toNat + 2 ^ 2 * (1 + 2 ^ 3 * (26 + 2 ^ 6 * (0))))))) := by rw [← he, Nat.pow_zero, Nat.div_one]; ring
  obtain ⟨c0, r1⟩ := peel r0 (by decide)
  obtain ⟨g1, r2⟩ := peel r1 f.isLt
  obtain ⟨g2, r3⟩ := peel r2 m.isLt
  obtain ⟨g3, r4⟩ := peel r3 b.isLt
  obtain ⟨g4, r5⟩ := peel r4 g.isLt
  obtain ⟨c5, r6⟩ := peel r5 (by decide)
  obtain ⟨c6, -⟩ := peel r6 (by decide)
  have f0 : bits w 4 0 = 0 := c0
  have f1 : bits w 25 23 = 1 := c5
  have f2 : bits w 31 26 = 26 := c6
  have k1 : fld 3 5 w = f := fld_of g1
  have k2 : fld 8 8 w = m := fld_of g2
  have k3 : fld 5 16 w = b := fld_of g3
  have k4 : fld 2 21 w = g := fld_of g4
  show Option.filter Instr.wf (decodeCtlRaw w) = _
  rw [decodeCtlRaw_26 f2]
  delta decodeCtl1A
  simp only [f0, f1, k1, k2, k3, k4, and_self, reduceIte, and_true, true_and, and_false, false_and, Nat.reduceEqDiff]
  exact filter_wf hwf

theorem mkrdW (b : BitVec 5) (m : BitVec 8) (r : BitVec 5) : Statement (.mkrdW b m r) := by
  intro hwf w he
  have he : 1763704832 + b.toNat * 65536 + m.toNat * 256 + r.toNat * 1 = w := Option.some.inj he
  have r0 : w / 2 ^ 0 = r.toNat + 2 ^ 5 * (0 + 2 ^ 3 * (m.toNat + 2 ^ 8 * (b.toNat + 2 ^ 5 * (1 + 2 ^ 2 * (2 + 2 ^ 3 * (26 + 2 ^ 6 * (0))))))) := by rw [← he, Nat.pow_zero, Nat.div_one]; ring
  obtain ⟨g0, r1⟩ := peel r0 r.isLt
  obtain ⟨c1, r2⟩ := peel r1 (by decide)
  obtain ⟨g2, r3⟩ := peel r2 m.isLt
  obtain ⟨g3, r4⟩ := peel r3 b.isLt
  obtain ⟨c4, r5⟩ := peel r4 (by decide)
  obtain ⟨c5, r6⟩ := peel r5 (by decide)
  obtain ⟨c6, -⟩ := peel r6 (by decide)
  have f0 : bits w 7 5 = 0 := c1
  have f1 : bits w 25 21 = 9 := by
    clear he r0
    have := c4
    have := c5
    show w / 2097152 % 32 = 9
    omega
  have f2 : bits w 25 23 = 2 := c5
  have f3 : bits w 31 26 = 26 := c6
  have k0 : fld 5 0 w = r := fld_of g0
  have k2 : fld 8 8 w = m := fld_of g2
  have k3 : fld 5 16 w = b := fld_of g3
  show Option.filter Instr.wf (decodeCtlRaw w) = _
  rw [decodeCtlRaw_26 f3]
  delta decodeCtl1A
  simp only [f0, f1, f2, k0, k2, k3, and_self, reduceIte, and_true, true_and, and_false, false_and, Nat.reduceEqDiff]
  exact filter_wf hwf

theorem mktakeT (g : BitVec 2) (b : BitVec 5) (m : BitVec 8) (f : BitVec 3) : Statement (.mktakeT g b m f) := by
  intro hwf w he
  have he : 1769996288 + g.toNat * 2097152 + b.toNat * 65536 + m.toNat * 256 + f.toNat * 32 = w := Option.some.inj he
  have r0 : w / 2 ^ 0 = 0 + 2 ^ 5 * (f.toNat + 2 ^ 3 * (m.toNat + 2 ^ 8 * (b.toNat + 2 ^ 5 * (g.toNat + 2 ^ 2 * (3 + 2 ^ 3 * (26 + 2 ^ 6 * (0))))))) := by rw [← he, Nat.pow_zero, Nat.div_one]; ring
  obtain ⟨c0, r1⟩ := peel r0 (by decide)
  obtain ⟨g1, r2⟩ := peel r1 f.isLt
  obtain ⟨g2, r3⟩ := peel r2 m.isLt
  obtain ⟨g3, r4⟩ := peel r3 b.isLt
  obtain ⟨g4, r5⟩ := peel r4 g.isLt
  obtain ⟨c5, r6⟩ := peel r5 (by decide)
  obtain ⟨c6, -⟩ := peel r6 (by decide)
  have f0 : bits w 4 0 = 0 := c0
  have f1 : bits w 25 23 = 3 := c5
  have f2 : bits w 31 26 = 26 := c6
  have n0 : ¬ bits w 25 21 = 9 := by
    intro hh
    exact absurd c5 (apart hh (by decide) (by decide) (by decide))
  have k1 : fld 3 5 w = f := fld_of g1
  have k2 : fld 8 8 w = m := fld_of g2
  have k3 : fld 5 16 w = b := fld_of g3
  have k4 : fld 2 21 w = g := fld_of g4
  show Option.filter Instr.wf (decodeCtlRaw w) = _
  rw [decodeCtlRaw_26 f2]
  delta decodeCtl1A
  simp only [f0, f1, n0, k1, k2, k3, k4, and_self, reduceIte, and_true, true_and, and_false, false_and, Nat.reduceEqDiff]
  exact filter_wf hwf

theorem mktakeW (b : BitVec 5) (m : BitVec 8) (r : BitVec 5) : Statement (.mktakeW b m r) := by
  intro hwf w he
  have he : 1780482048 + b.toNat * 65536 + m.toNat * 256 + r.toNat * 1 = w := Option.some.inj he
  have r0 : w / 2 ^ 0 = r.toNat + 2 ^ 5 * (0 + 2 ^ 3 * (m.toNat + 2 ^ 8 * (b.toNat + 2 ^ 5 * (1 + 2 ^ 2 * (4 + 2 ^ 3 * (26 + 2 ^ 6 * (0))))))) := by rw [← he, Nat.pow_zero, Nat.div_one]; ring
  obtain ⟨g0, r1⟩ := peel r0 r.isLt
  obtain ⟨c1, r2⟩ := peel r1 (by decide)
  obtain ⟨g2, r3⟩ := peel r2 m.isLt
  obtain ⟨g3, r4⟩ := peel r3 b.isLt
  obtain ⟨c4, r5⟩ := peel r4 (by decide)
  obtain ⟨c5, r6⟩ := peel r5 (by decide)
  obtain ⟨c6, -⟩ := peel r6 (by decide)
  have f0 : bits w 7 5 = 0 := c1
  have f1 : bits w 25 21 = 17 := by
    clear he r0
    have := c4
    have := c5
    show w / 2097152 % 32 = 17
    omega
  have f2 : bits w 25 23 = 4 := c5
  have f3 : bits w 31 26 = 26 := c6
  have k0 : fld 5 0 w = r := fld_of g0
  have k2 : fld 8 8 w = m := fld_of g2
  have k3 : fld 5 16 w = b := fld_of g3
  show Option.filter Instr.wf (decodeCtlRaw w) = _
  rw [decodeCtlRaw_26 f3]
  delta decodeCtl1A
  simp only [f0, f1, f2, k0, k2, k3, and_self, reduceIte, and_true, true_and, and_false, false_and, Nat.reduceEqDiff]
  exact filter_wf hwf

theorem gets (d : BitVec 5) (n : BitVec 16) : Statement (.gets d n) := by
  intro hwf w he
  have he : 1811939328 + d.toNat * 2097152 + n.toNat * 1 = w := Option.some.inj he
  have r0 : w / 2 ^ 0 = n.toNat + 2 ^ 16 * (0 + 2 ^ 5 * (d.toNat + 2 ^ 5 * (27 + 2 ^ 6 * (0)))) := by rw [← he, Nat.pow_zero, Nat.div_one]; ring
  obtain ⟨g0, r1⟩ := peel r0 n.isLt
  obtain ⟨c1, r2⟩ := peel r1 (by decide)
  obtain ⟨g2, r3⟩ := peel r2 d.isLt
  obtain ⟨c3, -⟩ := peel r3 (by decide)
  have f0 : bits w 20 16 = 0 := c1
  have f1 : bits w 31 26 = 27 := c3
  have k0 : fld 16 0 w = n := fld_of g0
  have k2 : fld 5 21 w = d := fld_of g2
  show Option.filter Instr.wf (decodeCtlRaw w) = _
  rw [decodeCtlRaw_27 f1]
  simp only [f0, k0, k2, and_self, reduceIte, and_true, true_and, and_false, false_and, Nat.reduceEqDiff]
  exact filter_wf hwf

theorem sets (s : BitVec 5) (n : BitVec 16) : Statement (.sets s n) := by
  intro hwf w he
  have he : 1879048192 + s.toNat * 65536 + n.toNat * 1 = w := Option.some.inj he
  have r0 : w / 2 ^ 0 = n.toNat + 2 ^ 16 * (s.toNat + 2 ^ 5 * (0 + 2 ^ 5 * (28 + 2 ^ 6 * (0)))) := by rw [← he, Nat.pow_zero, Nat.div_one]; ring
  obtain ⟨g0, r1⟩ := peel r0 n.isLt
  obtain ⟨g1, r2⟩ := peel r1 s.isLt
  obtain ⟨c2, r3⟩ := peel r2 (by decide)
  obtain ⟨c3, -⟩ := peel r3 (by decide)
  have f0 : bits w 25 21 = 0 := c2
  have f1 : bits w 31 26 = 28 := c3
  have k0 : fld 16 0 w = n := fld_of g0
  have k1 : fld 5 16 w = s := fld_of g1
  show Option.filter Instr.wf (decodeCtlRaw w) = _
  rw [decodeCtlRaw_28 f1]
  simp only [f0, k0, k1, and_self, reduceIte, and_true, true_and, and_false, false_and, Nat.reduceEqDiff]
  exact filter_wf hwf

theorem forkVec (h : BitVec 1) (e : BitVec 18) : Statement (.forkVec h e) := by
  intro hwf w he
  have he : 2147483648 + h.toNat * 8388608 + e.toNat * 1 = w := Option.some.inj he
  have r0 : w / 2 ^ 0 = e.toNat + 2 ^ 18 * (0 + 2 ^ 5 * (h.toNat + 2 ^ 1 * (0 + 2 ^ 2 * (32 + 2 ^ 6 * (0))))) := by rw [← he, Nat.pow_zero, Nat.div_one]; ring
  obtain ⟨g0, r1⟩ := peel r0 e.isLt
  obtain ⟨c1, r2⟩ := peel r1 (by decide)
  obtain ⟨g2, r3⟩ := peel r2 h.isLt
  obtain ⟨c3, r4⟩ := peel r3 (by decide)
  obtain ⟨c4, -⟩ := peel r4 (by decide)
  have f0 : bits w 22 18 = 0 := c1
  have f1 : bits w 25 24 = 0 := c3
  have f2 : bits w 31 26 = 32 := c4
  have k0 : fld 18 0 w = e := fld_of g0
  have k2 : fld 1 23 w = h := fld_of g2
  show Option.filter Instr.wf (decodeCtlRaw w) = _
  rw [decodeCtlRaw_32 f2]
  delta decodeCtl20
  simp only [f0, f1, k0, k2, and_self, reduceIte, and_true, true_and, and_false, false_and, Nat.reduceEqDiff]
  exact filter_wf hwf

theorem forkMat (h : BitVec 1) (k : BitVec 5) (e : BitVec 18) : Statement (.forkMat h k e) := by
  intro hwf w he
  have he : 2164260864 + h.toNat * 8388608 + k.toNat * 262144 + e.toNat * 1 = w := Option.some.inj he
  have r0 : w / 2 ^ 0 = e.toNat + 2 ^ 18 * (k.toNat + 2 ^ 5 * (h.toNat + 2 ^ 1 * (1 + 2 ^ 2 * (32 + 2 ^ 6 * (0))))) := by rw [← he, Nat.pow_zero, Nat.div_one]; ring
  obtain ⟨g0, r1⟩ := peel r0 e.isLt
  obtain ⟨g1, r2⟩ := peel r1 k.isLt
  obtain ⟨g2, r3⟩ := peel r2 h.isLt
  obtain ⟨c3, r4⟩ := peel r3 (by decide)
  obtain ⟨c4, -⟩ := peel r4 (by decide)
  have f0 : bits w 25 24 = 1 := c3
  have f1 : bits w 31 26 = 32 := c4
  have k0 : fld 18 0 w = e := fld_of g0
  have k1 : fld 5 18 w = k := fld_of g1
  have k2 : fld 1 23 w = h := fld_of g2
  show Option.filter Instr.wf (decodeCtlRaw w) = _
  rw [decodeCtlRaw_32 f1]
  delta decodeCtl20
  simp only [f0, k0, k1, k2, and_self, reduceIte, and_true, true_and, and_false, false_and, Nat.reduceEqDiff]
  exact filter_wf hwf

theorem forkCopy (h : BitVec 1) (k : BitVec 5) (e : BitVec 18) : Statement (.forkCopy h k e) := by
  intro hwf w he
  have he : 2181038080 + h.toNat * 8388608 + k.toNat * 262144 + e.toNat * 1 = w := Option.some.inj he
  have r0 : w / 2 ^ 0 = e.toNat + 2 ^ 18 * (k.toNat + 2 ^ 5 * (h.toNat + 2 ^ 1 * (2 + 2 ^ 2 * (32 + 2 ^ 6 * (0))))) := by rw [← he, Nat.pow_zero, Nat.div_one]; ring
  obtain ⟨g0, r1⟩ := peel r0 e.isLt
  obtain ⟨g1, r2⟩ := peel r1 k.isLt
  obtain ⟨g2, r3⟩ := peel r2 h.isLt
  obtain ⟨c3, r4⟩ := peel r3 (by decide)
  obtain ⟨c4, -⟩ := peel r4 (by decide)
  have f0 : bits w 25 24 = 2 := c3
  have f1 : bits w 31 26 = 32 := c4
  have k0 : fld 18 0 w = e := fld_of g0
  have k1 : fld 5 18 w = k := fld_of g1
  have k2 : fld 1 23 w = h := fld_of g2
  show Option.filter Instr.wf (decodeCtlRaw w) = _
  rw [decodeCtlRaw_32 f1]
  delta decodeCtl20
  simp only [f0, k0, k1, k2, and_self, reduceIte, and_true, true_and, and_false, false_and, Nat.reduceEqDiff]
  exact filter_wf hwf

theorem mark (s : BitVec 5) (n : BitVec 1) (q : BitVec 13) : Statement (.mark s n q) := by
  intro hwf w he
  have he : 2214592512 + s.toNat * 2097152 + n.toNat * 1048576 + q.toNat * 1 = w := Option.some.inj he
  have r0 : w / 2 ^ 0 = q.toNat + 2 ^ 13 * (0 + 2 ^ 7 * (n.toNat + 2 ^ 1 * (s.toNat + 2 ^ 5 * (33 + 2 ^ 6 * (0))))) := by rw [← he, Nat.pow_zero, Nat.div_one]; ring
  obtain ⟨g0, r1⟩ := peel r0 q.isLt
  obtain ⟨c1, r2⟩ := peel r1 (by decide)
  obtain ⟨g2, r3⟩ := peel r2 n.isLt
  obtain ⟨g3, r4⟩ := peel r3 s.isLt
  obtain ⟨c4, -⟩ := peel r4 (by decide)
  have f0 : bits w 19 13 = 0 := c1
  have f1 : bits w 31 26 = 33 := c4
  have k0 : fld 13 0 w = q := fld_of g0
  have k2 : fld 1 20 w = n := fld_of g2
  have k3 : fld 5 21 w = s := fld_of g3
  show Option.filter Instr.wf (decodeCtlRaw w) = _
  rw [decodeCtlRaw_33 f1]
  simp only [f0, k0, k2, k3, and_self, reduceIte, and_true, true_and, and_false, false_and, Nat.reduceEqDiff]
  exact filter_wf hwf

theorem rdvSet (v : BitVec 3) (s : BitVec 5) (q : BitVec 13) : Statement (.rdvSet v s q) := by
  intro hwf w he
  have he : 2281701376 + v.toNat * 2097152 + s.toNat * 65536 + q.toNat * 1 = w := Option.some.inj he
  have r0 : w / 2 ^ 0 = q.toNat + 2 ^ 13 * (0 + 2 ^ 3 * (s.toNat + 2 ^ 5 * (v.toNat + 2 ^ 3 * (0 + 2 ^ 2 * (34 + 2 ^ 6 * (0)))))) := by rw [← he, Nat.pow_zero, Nat.div_one]; ring
  obtain ⟨g0, r1⟩ := peel r0 q.isLt
  obtain ⟨c1, r2⟩ := peel r1 (by decide)
  obtain ⟨g2, r3⟩ := peel r2 s.isLt
  obtain ⟨g3, r4⟩ := peel r3 v.isLt
  obtain ⟨c4, r5⟩ := peel r4 (by decide)
  obtain ⟨c5, -⟩ := peel r5 (by decide)
  have f0 : bits w 15 13 = 0 := c1
  have f1 : bits w 25 24 = 0 := c4
  have f2 : bits w 31 26 = 34 := c5
  have k0 : fld 13 0 w = q := fld_of g0
  have k2 : fld 5 16 w = s := fld_of g2
  have k3 : fld 3 21 w = v := fld_of g3
  show Option.filter Instr.wf (decodeCtlRaw w) = _
  rw [decodeCtlRaw_34 f2]
  delta decodeCtl22
  simp only [f0, f1, k0, k2, k3, and_self, reduceIte, and_true, true_and, and_false, false_and, Nat.reduceEqDiff]
  exact filter_wf hwf

theorem rdvWait (v : BitVec 3) : Statement (.rdvWait v) := by
  intro hwf w he
  have he : 2298478592 + v.toNat * 2097152 = w := Option.some.inj he
  have r0 : w / 2 ^ 0 = 0 + 2 ^ 21 * (v.toNat + 2 ^ 3 * (1 + 2 ^ 2 * (34 + 2 ^ 6 * (0)))) := by rw [← he, Nat.pow_zero, Nat.div_one]; ring
  obtain ⟨c0, r1⟩ := peel r0 (by decide)
  obtain ⟨g1, r2⟩ := peel r1 v.isLt
  obtain ⟨c2, r3⟩ := peel r2 (by decide)
  obtain ⟨c3, -⟩ := peel r3 (by decide)
  have f0 : bits w 20 0 = 0 := c0
  have f1 : bits w 25 24 = 1 := c2
  have f2 : bits w 31 26 = 34 := c3
  have k1 : fld 3 21 w = v := fld_of g1
  show Option.filter Instr.wf (decodeCtlRaw w) = _
  rw [decodeCtlRaw_34 f2]
  delta decodeCtl22
  simp only [f0, f1, k1, and_self, reduceIte, and_true, true_and, and_false, false_and, Nat.reduceEqDiff]
  exact filter_wf hwf

theorem rdvTest (v : BitVec 3) (f : BitVec 3) : Statement (.rdvTest v f) := by
  intro hwf w he
  have he : 2315255808 + v.toNat * 2097152 + f.toNat * 8192 = w := Option.some.inj he
  have r0 : w / 2 ^ 0 = 0 + 2 ^ 13 * (f.toNat + 2 ^ 3 * (0 + 2 ^ 5 * (v.toNat + 2 ^ 3 * (2 + 2 ^ 2 * (34 + 2 ^ 6 * (0)))))) := by rw [← he, Nat.pow_zero, Nat.div_one]; ring
  obtain ⟨c0, r1⟩ := peel r0 (by decide)
  obtain ⟨g1, r2⟩ := peel r1 f.isLt
  obtain ⟨c2, r3⟩ := peel r2 (by decide)
  obtain ⟨g3, r4⟩ := peel r3 v.isLt
  obtain ⟨c4, r5⟩ := peel r4 (by decide)
  obtain ⟨c5, -⟩ := peel r5 (by decide)
  have f0 : bits w 12 0 = 0 := c0
  have f1 : bits w 20 16 = 0 := c2
  have f2 : bits w 25 24 = 2 := c4
  have f3 : bits w 31 26 = 34 := c5
  have k1 : fld 3 13 w = f := fld_of g1
  have k3 : fld 3 21 w = v := fld_of g3
  show Option.filter Instr.wf (decodeCtlRaw w) = _
  rw [decodeCtlRaw_34 f3]
  delta decodeCtl22
  simp only [f0, f1, f2, k1, k3, and_self, reduceIte, and_true, true_and, and_false, false_and, Nat.reduceEqDiff]
  exact filter_wf hwf

theorem qdrop (s : BitVec 5) (q : BitVec 13) : Statement (.qdrop s q) := by
  intro hwf w he
  have he : 2348810240 + s.toNat * 2097152 + q.toNat * 1 = w := Option.some.inj he
  have r0 : w / 2 ^ 0 = q.toNat + 2 ^ 13 * (0 + 2 ^ 8 * (s.toNat + 2 ^ 5 * (35 + 2 ^ 6 * (0)))) := by rw [← he, Nat.pow_zero, Nat.div_one]; ring
  obtain ⟨g0, r1⟩ := peel r0 q.isLt
  obtain ⟨c1, r2⟩ := peel r1 (by decide)
  obtain ⟨g2, r3⟩ := peel r2 s.isLt
  obtain ⟨c3, -⟩ := peel r3 (by decide)
  have f0 : bits w 20 13 = 0 := c1
  have f1 : bits w 31 26 = 35 := c3
  have k0 : fld 13 0 w = q := fld_of g0
  have k2 : fld 5 21 w = s := fld_of g2
  show Option.filter Instr.wf (decodeCtlRaw w) = _
  rw [decodeCtlRaw_35 f1]
  simp only [f0, k0, k2, and_self, reduceIte, and_true, true_and, and_false, false_and, Nat.reduceEqDiff]
  exact filter_wf hwf

theorem twaitAny (s : BitVec 5) : Statement (.twaitAny s) := by
  intro hwf w he
  have he : 2415919104 + s.toNat * 8192 = w := Option.some.inj he
  have r0 : w / 2 ^ 0 = 0 + 2 ^ 13 * (s.toNat + 2 ^ 5 * (0 + 2 ^ 8 * (36 + 2 ^ 6 * (0)))) := by rw [← he, Nat.pow_zero, Nat.div_one]; ring
  obtain ⟨c0, r1⟩ := peel r0 (by decide)
  obtain ⟨g1, r2⟩ := peel r1 s.isLt
  obtain ⟨c2, r3⟩ := peel r2 (by decide)
  obtain ⟨c3, -⟩ := peel r3 (by decide)
  have f0 : bits w 12 0 = 0 := c0
  have f1 : bits w 25 18 = 0 := c2
  have f2 : bits w 31 26 = 36 := c3
  have k1 : fld 5 13 w = s := fld_of g1
  show Option.filter Instr.wf (decodeCtlRaw w) = _
  rw [decodeCtlRaw_36 f2]
  delta decodeCtl24
  simp only [f0, f1, k1, and_self, reduceIte, and_true, true_and, and_false, false_and, Nat.reduceEqDiff]
  exact filter_wf hwf

theorem twaitAll (s : BitVec 5) : Statement (.twaitAll s) := by
  intro hwf w he
  have he : 2424307712 + s.toNat * 8192 = w := Option.some.inj he
  have r0 : w / 2 ^ 0 = 0 + 2 ^ 13 * (s.toNat + 2 ^ 5 * (32 + 2 ^ 8 * (36 + 2 ^ 6 * (0)))) := by rw [← he, Nat.pow_zero, Nat.div_one]; ring
  obtain ⟨c0, r1⟩ := peel r0 (by decide)
  obtain ⟨g1, r2⟩ := peel r1 s.isLt
  obtain ⟨c2, r3⟩ := peel r2 (by decide)
  obtain ⟨c3, -⟩ := peel r3 (by decide)
  have f0 : bits w 12 0 = 0 := c0
  have f1 : bits w 25 18 = 32 := c2
  have f2 : bits w 31 26 = 36 := c3
  have k1 : fld 5 13 w = s := fld_of g1
  show Option.filter Instr.wf (decodeCtlRaw w) = _
  rw [decodeCtlRaw_36 f2]
  delta decodeCtl24
  simp only [f0, f1, k1, and_self, reduceIte, and_true, true_and, and_false, false_and, Nat.reduceEqDiff]
  exact filter_wf hwf

theorem tffr (d : BitVec 5) (s : BitVec 5) : Statement (.tffr d s) := by
  intro hwf w he
  have he : 2432696320 + d.toNat * 262144 + s.toNat * 8192 = w := Option.some.inj he
  have r0 : w / 2 ^ 0 = 0 + 2 ^ 13 * (s.toNat + 2 ^ 5 * (d.toNat + 2 ^ 5 * (2 + 2 ^ 3 * (36 + 2 ^ 6 * (0))))) := by rw [← he, Nat.pow_zero, Nat.div_one]; ring
  obtain ⟨c0, r1⟩ := peel r0 (by decide)
  obtain ⟨g1, r2⟩ := peel r1 s.isLt
  obtain ⟨g2, r3⟩ := peel r2 d.isLt
  obtain ⟨c3, r4⟩ := peel r3 (by decide)
  obtain ⟨c4, -⟩ := peel r4 (by decide)
  have f0 : bits w 12 0 = 0 := c0
  have f1 : bits w 25 23 = 2 := c3
  have f2 : bits w 31 26 = 36 := c4
  have n0 : ¬ bits w 25 18 = 0 := by
    intro hh
    exact absurd c3 (apart hh (by decide) (by decide) (by decide))
  have n1 : ¬ bits w 25 18 = 32 := by
    intro hh
    exact absurd c3 (apart hh (by decide) (by decide) (by decide))
  have k1 : fld 5 13 w = s := fld_of g1
  have k2 : fld 5 18 w = d := fld_of g2
  show Option.filter Instr.wf (decodeCtlRaw w) = _
  rw [decodeCtlRaw_36 f2]
  delta decodeCtl24
  simp only [f0, f1, n0, n1, k1, k2, and_self, reduceIte, and_true, true_and, and_false, false_and, Nat.reduceEqDiff]
  exact filter_wf hwf

theorem tcancel (s : BitVec 5) : Statement (.tcancel s) := by
  intro hwf w he
  have he : 2441084928 + s.toNat * 8192 = w := Option.some.inj he
  have r0 : w / 2 ^ 0 = 0 + 2 ^ 13 * (s.toNat + 2 ^ 5 * (0 + 2 ^ 5 * (3 + 2 ^ 3 * (36 + 2 ^ 6 * (0))))) := by rw [← he, Nat.pow_zero, Nat.div_one]; ring
  obtain ⟨c0, r1⟩ := peel r0 (by decide)
  obtain ⟨g1, r2⟩ := peel r1 s.isLt
  obtain ⟨c2, r3⟩ := peel r2 (by decide)
  obtain ⟨c3, r4⟩ := peel r3 (by decide)
  obtain ⟨c4, -⟩ := peel r4 (by decide)
  have f0 : bits w 12 0 = 0 := c0
  have f1 : bits w 25 18 = 96 := by
    clear he r0
    have := c2
    have := c3
    show w / 262144 % 256 = 96
    omega
  have f2 : bits w 25 23 = 3 := c3
  have f3 : bits w 31 26 = 36 := c4
  have k1 : fld 5 13 w = s := fld_of g1
  show Option.filter Instr.wf (decodeCtlRaw w) = _
  rw [decodeCtlRaw_36 f3]
  delta decodeCtl24
  simp only [f0, f1, f2, k1, and_self, reduceIte, and_true, true_and, and_false, false_and, Nat.reduceEqDiff]
  exact filter_wf hwf

theorem rset (c : BitVec 6) (s : BitVec 5) : Statement (.rset c s) := by
  intro hwf w he
  have he : 2483027968 + c.toNat * 65536 + s.toNat * 64 = w := Option.some.inj he
  have r0 : w / 2 ^ 0 = 0 + 2 ^ 6 * (s.toNat + 2 ^ 5 * (0 + 2 ^ 5 * (c.toNat + 2 ^ 6 * (0 + 2 ^ 4 * (37 + 2 ^ 6 * (0)))))) := by rw [← he, Nat.pow_zero, Nat.div_one]; ring
  obtain ⟨c0, r1⟩ := peel r0 (by decide)
  obtain ⟨g1, r2⟩ := peel r1 s.isLt
  obtain ⟨c2, r3⟩ := peel r2 (by decide)
  obtain ⟨g3, r4⟩ := peel r3 c.isLt
  obtain ⟨c4, r5⟩ := peel r4 (by decide)
  obtain ⟨c5, -⟩ := peel r5 (by decide)
  have f0 : bits w 5 0 = 0 := c0
  have f1 : bits w 15 11 = 0 := c2
  have f2 : bits w 25 22 = 0 := c4
  have f3 : bits w 31 26 = 37 := c5
  have k1 : fld 5 6 w = s := fld_of g1
  have k3 : fld 6 16 w = c := fld_of g3
  show Option.filter Instr.wf (decodeCtlRaw w) = _
  rw [decodeCtlRaw_37 f3]
  delta decodeCtl25
  simp only [f0, f1, f2, k1, k3, and_self, reduceIte, and_true, true_and, and_false, false_and, Nat.reduceEqDiff]
  exact filter_wf hwf

theorem rclaim (c : BitVec 6) (d : BitVec 5) (s : BitVec 5) : Statement (.rclaim c d s) := by
  intro hwf w he
  have he : 2487222272 + c.toNat * 65536 + d.toNat * 2048 + s.toNat * 64 = w := Option.some.inj he
  have r0 : w / 2 ^ 0 = 0 + 2 ^ 6 * (s.toNat + 2 ^ 5 * (d.toNat + 2 ^ 5 * (c.toNat + 2 ^ 6 * (1 + 2 ^ 4 * (37 + 2 ^ 6 * (0)))))) := by rw [← he, Nat.pow_zero, Nat.div_one]; ring
  obtain ⟨c0, r1⟩ := peel r0 (by decide)
  obtain ⟨g1, r2⟩ := peel r1 s.isLt
  obtain ⟨g2, r3⟩ := peel r2 d.isLt
  obtain ⟨g3, r4⟩ := peel r3 c.isLt
  obtain ⟨c4, r5⟩ := peel r4 (by decide)
  obtain ⟨c5, -⟩ := peel r5 (by decide)
  have f0 : bits w 5 0 = 0 := c0
  have f1 : bits w 25 22 = 1 := c4
  have f2 : bits w 31 26 = 37 := c5
  have k1 : fld 5 6 w = s := fld_of g1
  have k2 : fld 5 11 w = d := fld_of g2
  have k3 : fld 6 16 w = c := fld_of g3
  show Option.filter Instr.wf (decodeCtlRaw w) = _
  rw [decodeCtlRaw_37 f2]
  delta decodeCtl25
  simp only [f0, f1, k1, k2, k3, and_self, reduceIte, and_true, true_and, and_false, false_and, Nat.reduceEqDiff]
  exact filter_wf hwf

theorem rdone (c : BitVec 6) (s : BitVec 5) : Statement (.rdone c s) := by
  intro hwf w he
  have he : 2491416576 + c.toNat * 65536 + s.toNat * 64 = w := Option.some.inj he
  have r0 : w / 2 ^ 0 = 0 + 2 ^ 6 * (s.toNat + 2 ^ 5 * (0 + 2 ^ 5 * (c.toNat + 2 ^ 6 * (2 + 2 ^ 4 * (37 + 2 ^ 6 * (0)))))) := by rw [← he, Nat.pow_zero, Nat.div_one]; ring
  obtain ⟨c0, r1⟩ := peel r0 (by decide)
  obtain ⟨g1, r2⟩ := peel r1 s.isLt
  obtain ⟨c2, r3⟩ := peel r2 (by decide)
  obtain ⟨g3, r4⟩ := peel r3 c.isLt
  obtain ⟨c4, r5⟩ := peel r4 (by decide)
  obtain ⟨c5, -⟩ := peel r5 (by decide)
  have f0 : bits w 5 0 = 0 := c0
  have f1 : bits w 15 11 = 0 := c2
  have f2 : bits w 25 22 = 2 := c4
  have f3 : bits w 31 26 = 37 := c5
  have k1 : fld 5 6 w = s := fld_of g1
  have k3 : fld 6 16 w = c := fld_of g3
  show Option.filter Instr.wf (decodeCtlRaw w) = _
  rw [decodeCtlRaw_37 f3]
  delta decodeCtl25
  simp only [f0, f1, f2, k1, k3, and_self, reduceIte, and_true, true_and, and_false, false_and, Nat.reduceEqDiff]
  exact filter_wf hwf

theorem rwaitf (c : BitVec 6) (s : BitVec 5) : Statement (.rwaitf c s) := by
  intro hwf w he
  have he : 2495610880 + c.toNat * 65536 + s.toNat * 64 = w := Option.some.inj he
  have r0 : w / 2 ^ 0 = 0 + 2 ^ 6 * (s.toNat + 2 ^ 5 * (0 + 2 ^ 5 * (c.toNat + 2 ^ 6 * (3 + 2 ^ 4 * (37 + 2 ^ 6 * (0)))))) := by rw [← he, Nat.pow_zero, Nat.div_one]; ring
  obtain ⟨c0, r1⟩ := peel r0 (by decide)
  obtain ⟨g1, r2⟩ := peel r1 s.isLt
  obtain ⟨c2, r3⟩ := peel r2 (by decide)
  obtain ⟨g3, r4⟩ := peel r3 c.isLt
  obtain ⟨c4, r5⟩ := peel r4 (by decide)
  obtain ⟨c5, -⟩ := peel r5 (by decide)
  have f0 : bits w 5 0 = 0 := c0
  have f1 : bits w 15 11 = 0 := c2
  have f2 : bits w 25 22 = 3 := c4
  have f3 : bits w 31 26 = 37 := c5
  have k1 : fld 5 6 w = s := fld_of g1
  have k3 : fld 6 16 w = c := fld_of g3
  show Option.filter Instr.wf (decodeCtlRaw w) = _
  rw [decodeCtlRaw_37 f3]
  delta decodeCtl25
  simp only [f0, f1, f2, k1, k3, and_self, reduceIte, and_true, true_and, and_false, false_and, Nat.reduceEqDiff]
  exact filter_wf hwf

theorem rwaite (c : BitVec 6) (s : BitVec 5) : Statement (.rwaite c s) := by
  intro hwf w he
  have he : 2499805184 + c.toNat * 65536 + s.toNat * 64 = w := Option.some.inj he
  have r0 : w / 2 ^ 0 = 0 + 2 ^ 6 * (s.toNat + 2 ^ 5 * (0 + 2 ^ 5 * (c.toNat + 2 ^ 6 * (4 + 2 ^ 4 * (37 + 2 ^ 6 * (0)))))) := by rw [← he, Nat.pow_zero, Nat.div_one]; ring
  obtain ⟨c0, r1⟩ := peel r0 (by decide)
  obtain ⟨g1, r2⟩ := peel r1 s.isLt
  obtain ⟨c2, r3⟩ := peel r2 (by decide)
  obtain ⟨g3, r4⟩ := peel r3 c.isLt
  obtain ⟨c4, r5⟩ := peel r4 (by decide)
  obtain ⟨c5, -⟩ := peel r5 (by decide)
  have f0 : bits w 5 0 = 0 := c0
  have f1 : bits w 15 11 = 0 := c2
  have f2 : bits w 25 22 = 4 := c4
  have f3 : bits w 31 26 = 37 := c5
  have k1 : fld 5 6 w = s := fld_of g1
  have k3 : fld 6 16 w = c := fld_of g3
  show Option.filter Instr.wf (decodeCtlRaw w) = _
  rw [decodeCtlRaw_37 f3]
  delta decodeCtl25
  simp only [f0, f1, f2, k1, k3, and_self, reduceIte, and_true, true_and, and_false, false_and, Nat.reduceEqDiff]
  exact filter_wf hwf

theorem radv (c : BitVec 6) (s : BitVec 5) : Statement (.radv c s) := by
  intro hwf w he
  have he : 2503999488 + c.toNat * 65536 + s.toNat * 64 = w := Option.some.inj he
  have r0 : w / 2 ^ 0 = 0 + 2 ^ 6 * (s.toNat + 2 ^ 5 * (0 + 2 ^ 5 * (c.toNat + 2 ^ 6 * (5 + 2 ^ 4 * (37 + 2 ^ 6 * (0)))))) := by rw [← he, Nat.pow_zero, Nat.div_one]; ring
  obtain ⟨c0, r1⟩ := peel r0 (by decide)
  obtain ⟨g1, r2⟩ := peel r1 s.isLt
  obtain ⟨c2, r3⟩ := peel r2 (by decide)
  obtain ⟨g3, r4⟩ := peel r3 c.isLt
  obtain ⟨c4, r5⟩ := peel r4 (by decide)
  obtain ⟨c5, -⟩ := peel r5 (by decide)
  have f0 : bits w 5 0 = 0 := c0
  have f1 : bits w 15 11 = 0 := c2
  have f2 : bits w 25 22 = 5 := c4
  have f3 : bits w 31 26 = 37 := c5
  have k1 : fld 5 6 w = s := fld_of g1
  have k3 : fld 6 16 w = c := fld_of g3
  show Option.filter Instr.wf (decodeCtlRaw w) = _
  rw [decodeCtlRaw_37 f3]
  delta decodeCtl25
  simp only [f0, f1, f2, k1, k3, and_self, reduceIte, and_true, true_and, and_false, false_and, Nat.reduceEqDiff]
  exact filter_wf hwf

theorem rget (c : BitVec 6) (d : BitVec 5) (s : BitVec 5) : Statement (.rget c d s) := by
  intro hwf w he
  have he : 2508193792 + c.toNat * 65536 + d.toNat * 2048 + s.toNat * 64 = w := Option.some.inj he
  have r0 : w / 2 ^ 0 = 0 + 2 ^ 6 * (s.toNat + 2 ^ 5 * (d.toNat + 2 ^ 5 * (c.toNat + 2 ^ 6 * (6 + 2 ^ 4 * (37 + 2 ^ 6 * (0)))))) := by rw [← he, Nat.pow_zero, Nat.div_one]; ring
  obtain ⟨c0, r1⟩ := peel r0 (by decide)
  obtain ⟨g1, r2⟩ := peel r1 s.isLt
  obtain ⟨g2, r3⟩ := peel r2 d.isLt
  obtain ⟨g3, r4⟩ := peel r3 c.isLt
  obtain ⟨c4, r5⟩ := peel r4 (by decide)
  obtain ⟨c5, -⟩ := peel r5 (by decide)
  have f0 : bits w 5 0 = 0 := c0
  have f1 : bits w 25 22 = 6 := c4
  have f2 : bits w 31 26 = 37 := c5
  have k1 : fld 5 6 w = s := fld_of g1
  have k2 : fld 5 11 w = d := fld_of g2
  have k3 : fld 6 16 w = c := fld_of g3
  show Option.filter Instr.wf (decodeCtlRaw w) = _
  rw [decodeCtlRaw_37 f2]
  delta decodeCtl25
  simp only [f0, f1, k1, k2, k3, and_self, reduceIte, and_true, true_and, and_false, false_and, Nat.reduceEqDiff]
  exact filter_wf hwf

theorem phase (r : BitVec 5) : Statement (.phase r) := by
  intro hwf w he
  have he : 2550136832 + r.toNat * 65536 = w := Option.some.inj he
  have r0 : w / 2 ^ 0 = 0 + 2 ^ 16 * (r.toNat + 2 ^ 5 * (0 + 2 ^ 5 * (38 + 2 ^ 6 * (0)))) := by rw [← he, Nat.pow_zero, Nat.div_one]; ring
  obtain ⟨c0, r1⟩ := peel r0 (by decide)
  obtain ⟨g1, r2⟩ := peel r1 r.isLt
  obtain ⟨c2, r3⟩ := peel r2 (by decide)
  obtain ⟨c3, -⟩ := peel r3 (by decide)
  have f0 : bits w 15 0 = 0 := c0
  have f1 : bits w 25 21 = 0 := c2
  have f2 : bits w 31 26 = 38 := c3
  have k1 : fld 5 16 w = r := fld_of g1
  show Option.filter Instr.wf (decodeCtlRaw w) = _
  rw [decodeCtlRaw_38 f2]
  simp only [f0, f1, k1, and_self, reduceIte, and_true, true_and, and_false, false_and, Nat.reduceEqDiff]
  exact filter_wf hwf

theorem fenceX (x : BitVec 6) (y : BitVec 6) (s : BitVec 3) : Statement (.fenceX x y s) := by
  intro hwf w he
  have he : 2617245696 + x.toNat * 1048576 + y.toNat * 16384 + s.toNat * 2048 = w := Option.some.inj he
  have r0 : w / 2 ^ 0 = 0 + 2 ^ 11 * (s.toNat + 2 ^ 3 * (y.toNat + 2 ^ 6 * (x.toNat + 2 ^ 6 * (39 + 2 ^ 6 * (0))))) := by rw [← he, Nat.pow_zero, Nat.div_one]; ring
  obtain ⟨c0, r1⟩ := peel r0 (by decide)
  obtain ⟨g1, r2⟩ := peel r1 s.isLt
  obtain ⟨g2, r3⟩ := peel r2 y.isLt
  obtain ⟨g3, r4⟩ := peel r3 x.isLt
  obtain ⟨c4, -⟩ := peel r4 (by decide)
  have f0 : bits w 10 0 = 0 := c0
  have f1 : bits w 31 26 = 39 := c4
  have k1 : fld 3 11 w = s := fld_of g1
  have k2 : fld 6 14 w = y := fld_of g2
  have k3 : fld 6 20 w = x := fld_of g3
  show Option.filter Instr.wf (decodeCtlRaw w) = _
  rw [decodeCtlRaw_39 f1]
  simp only [f0, k1, k2, k3, and_self, reduceIte, and_true, true_and, and_false, false_and, Nat.reduceEqDiff]
  exact filter_wf hwf

theorem waitc (s : BitVec 5) (t : BitVec 5) (m : BitVec 5) (c : BitVec 3) : Statement (.waitc s t m c) := by
  intro hwf w he
  have he : 2684354560 + s.toNat * 65536 + t.toNat * 2048 + m.toNat * 64 + c.toNat * 1 = w := Option.some.inj he
  have r0 : w / 2 ^ 0 = c.toNat + 2 ^ 3 * (0 + 2 ^ 3 * (m.toNat + 2 ^ 5 * (t.toNat + 2 ^ 5 * (s.toNat + 2 ^ 5 * (0 + 2 ^ 5 * (40 + 2 ^ 6 * (0))))))) := by rw [← he, Nat.pow_zero, Nat.div_one]; ring
  obtain ⟨g0, r1⟩ := peel r0 c.isLt
  obtain ⟨c1, r2⟩ := peel r1 (by decide)
  obtain ⟨g2, r3⟩ := peel r2 m.isLt
  obtain ⟨g3, r4⟩ := peel r3 t.isLt
  obtain ⟨g4, r5⟩ := peel r4 s.isLt
  obtain ⟨c5, r6⟩ := peel r5 (by decide)
  obtain ⟨c6, -⟩ := peel r6 (by decide)
  have f0 : bits w 5 3 = 0 := c1
  have f1 : bits w 25 21 = 0 := c5
  have f2 : bits w 31 26 = 40 := c6
  have k0 : fld 3 0 w = c := fld_of g0
  have k2 : fld 5 6 w = m := fld_of g2
  have k3 : fld 5 11 w = t := fld_of g3
  have k4 : fld 5 16 w = s := fld_of g4
  show Option.filter Instr.wf (decodeCtlRaw w) = _
  rw [decodeCtlRaw_40 f2]
  simp only [f0, f1, k0, k2, k3, k4, and_self, reduceIte, and_true, true_and, and_false, false_and, Nat.reduceEqDiff]
  exact filter_wf hwf

theorem signalSet (s : BitVec 5) (t : BitVec 5) : Statement (.signalSet s t) := by
  intro hwf w he
  have he : 2751463424 + s.toNat * 65536 + t.toNat * 2048 = w := Option.some.inj he
  have r0 : w / 2 ^ 0 = 0 + 2 ^ 11 * (t.toNat + 2 ^ 5 * (s.toNat + 2 ^ 5 * (0 + 2 ^ 5 * (41 + 2 ^ 6 * (0))))) := by rw [← he, Nat.pow_zero, Nat.div_one]; ring
  obtain ⟨c0, r1⟩ := peel r0 (by decide)
  obtain ⟨g1, r2⟩ := peel r1 t.isLt
  obtain ⟨g2, r3⟩ := peel r2 s.isLt
  obtain ⟨c3, r4⟩ := peel r3 (by decide)
  obtain ⟨c4, -⟩ := peel r4 (by decide)
  have f0 : bits w 10 0 = 0 := c0
  have f1 : bits w 25 21 = 0 := c3
  have f2 : bits w 31 26 = 41 := c4
  have k1 : fld 5 11 w = t := fld_of g1
  have k2 : fld 5 16 w = s := fld_of g2
  show Option.filter Instr.wf (decodeCtlRaw w) = _
  rw [decodeCtlRaw_41 f2]
  delta decodeCtl29
  simp only [f0, f1, k1, k2, and_self, reduceIte, and_true, true_and, and_false, false_and, Nat.reduceEqDiff]
  exact filter_wf hwf

theorem signalAdd (s : BitVec 5) (t : BitVec 5) : Statement (.signalAdd s t) := by
  intro hwf w he
  have he : 2751463425 + s.toNat * 65536 + t.toNat * 2048 = w := Option.some.inj he
  have r0 : w / 2 ^ 0 = 1 + 2 ^ 11 * (t.toNat + 2 ^ 5 * (s.toNat + 2 ^ 5 * (0 + 2 ^ 5 * (41 + 2 ^ 6 * (0))))) := by rw [← he, Nat.pow_zero, Nat.div_one]; ring
  obtain ⟨c0, r1⟩ := peel r0 (by decide)
  obtain ⟨g1, r2⟩ := peel r1 t.isLt
  obtain ⟨g2, r3⟩ := peel r2 s.isLt
  obtain ⟨c3, r4⟩ := peel r3 (by decide)
  obtain ⟨c4, -⟩ := peel r4 (by decide)
  have f0 : bits w 10 0 = 1 := c0
  have f1 : bits w 25 21 = 0 := c3
  have f2 : bits w 31 26 = 41 := c4
  have k1 : fld 5 11 w = t := fld_of g1
  have k2 : fld 5 16 w = s := fld_of g2
  show Option.filter Instr.wf (decodeCtlRaw w) = _
  rw [decodeCtlRaw_41 f2]
  delta decodeCtl29
  simp only [f0, f1, k1, k2, and_self, reduceIte, and_true, true_and, and_false, false_and, Nat.reduceEqDiff]
  exact filter_wf hwf

theorem leaseW (d : BitVec 5) (m : BitVec 5) (q : BitVec 5) : Statement (.leaseW d m q) := by
  intro hwf w he
  have he : 2818572288 + d.toNat * 262144 + m.toNat * 8192 + q.toNat * 1 = w := Option.some.inj he
  have r0 : w / 2 ^ 0 = q.toNat + 2 ^ 5 * (0 + 2 ^ 8 * (m.toNat + 2 ^ 5 * (d.toNat + 2 ^ 5 * (0 + 2 ^ 3 * (42 + 2 ^ 6 * (0)))))) := by rw [← he, Nat.pow_zero, Nat.div_one]; ring
  obtain ⟨g0, r1⟩ := peel r0 q.isLt
  obtain ⟨c1, r2⟩ := peel r1 (by decide)
  obtain ⟨g2, r3⟩ := peel r2 m.isLt
  obtain ⟨g3, r4⟩ := peel r3 d.isLt
  obtain ⟨c4, r5⟩ := peel r4 (by decide)
  obtain ⟨c5, -⟩ := peel r5 (by decide)
  have f0 : bits w 12 5 = 0 := c1
  have f1 : bits w 25 23 = 0 := c4
  have f2 : bits w 31 26 = 42 := c5
  have k0 : fld 5 0 w = q := fld_of g0
  have k2 : fld 5 13 w = m := fld_of g2
  have k3 : fld 5 18 w = d := fld_of g3
  show Option.filter Instr.wf (decodeCtlRaw w) = _
  rw [decodeCtlRaw_42 f2]
  delta decodeCtl2A
  simp only [f0, f1, k0, k2, k3, and_self, reduceIte, and_true, true_and, and_false, false_and, Nat.reduceEqDiff]
  exact filter_wf hwf

theorem leaseT (d : BitVec 5) (q : BitVec 5) : Statement (.leaseT d q) := by
  intro hwf w he
  have he : 2826960896 + d.toNat * 262144 + q.toNat * 1 = w := Option.some.inj he
  have r0 : w / 2 ^ 0 = q.toNat + 2 ^ 5 * (0 + 2 ^ 13 * (d.toNat + 2 ^ 5 * (1 + 2 ^ 3 * (42 + 2 ^ 6 * (0))))) := by rw [← he, Nat.pow_zero, Nat.div_one]; ring
  obtain ⟨g0, r1⟩ := peel r0 q.isLt
  obtain ⟨c1, r2⟩ := peel r1 (by decide)
  obtain ⟨g2, r3⟩ := peel r2 d.isLt
  obtain ⟨c3, r4⟩ := peel r3 (by decide)
  obtain ⟨c4, -⟩ := peel r4 (by decide)
  have f0 : bits w 17 5 = 0 := c1
  have f1 : bits w 25 23 = 1 := c3
  have f2 : bits w 31 26 = 42 := c4
  have k0 : fld 5 0 w = q := fld_of g0
  have k2 : fld 5 18 w = d := fld_of g2
  show Option.filter Instr.wf (decodeCtlRaw w) = _
  rw [decodeCtlRaw_42 f2]
  delta decodeCtl2A
  simp only [f0, f1, k0, k2, and_self, reduceIte, and_true, true_and, and_false, false_and, Nat.reduceEqDiff]
  exact filter_wf hwf

theorem leasecW (d : BitVec 5) (m : BitVec 5) (c : BitVec 2) : Statement (.leasecW d m c) := by
  intro hwf w he
  have he : 2835349504 + d.toNat * 262144 + m.toNat * 8192 + c.toNat * 8 = w := Option.some.inj he
  have r0 : w / 2 ^ 0 = 0 + 2 ^ 3 * (c.toNat + 2 ^ 2 * (0 + 2 ^ 8 * (m.toNat + 2 ^ 5 * (d.toNat + 2 ^ 5 * (2 + 2 ^ 3 * (42 + 2 ^ 6 * (0))))))) := by rw [← he, Nat.pow_zero, Nat.div_one]; ring
  obtain ⟨c0, r1⟩ := peel r0 (by decide)
  obtain ⟨g1, r2⟩ := peel r1 c.isLt
  obtain ⟨c2, r3⟩ := peel r2 (by decide)
  obtain ⟨g3, r4⟩ := peel r3 m.isLt
  obtain ⟨g4, r5⟩ := peel r4 d.isLt
  obtain ⟨c5, r6⟩ := peel r5 (by decide)
  obtain ⟨c6, -⟩ := peel r6 (by decide)
  have f0 : bits w 2 0 = 0 := c0
  have f1 : bits w 12 5 = 0 := c2
  have f2 : bits w 25 23 = 2 := c5
  have f3 : bits w 31 26 = 42 := c6
  have k1 : fld 2 3 w = c := fld_of g1
  have k3 : fld 5 13 w = m := fld_of g3
  have k4 : fld 5 18 w = d := fld_of g4
  show Option.filter Instr.wf (decodeCtlRaw w) = _
  rw [decodeCtlRaw_42 f3]
  delta decodeCtl2A
  simp only [f0, f1, f2, k1, k3, k4, and_self, reduceIte, and_true, true_and, and_false, false_and, Nat.reduceEqDiff]
  exact filter_wf hwf

theorem leasecT (d : BitVec 5) (c : BitVec 2) : Statement (.leasecT d c) := by
  intro hwf w he
  have he : 2843738112 + d.toNat * 262144 + c.toNat * 8 = w := Option.some.inj he
  have r0 : w / 2 ^ 0 = 0 + 2 ^ 3 * (c.toNat + 2 ^ 2 * (0 + 2 ^ 13 * (d.toNat + 2 ^ 5 * (3 + 2 ^ 3 * (42 + 2 ^ 6 * (0)))))) := by rw [← he, Nat.pow_zero, Nat.div_one]; ring
  obtain ⟨c0, r1⟩ := peel r0 (by decide)
  obtain ⟨g1, r2⟩ := peel r1 c.isLt
  obtain ⟨c2, r3⟩ := peel r2 (by decide)
  obtain ⟨g3, r4⟩ := peel r3 d.isLt
  obtain ⟨c4, r5⟩ := peel r4 (by decide)
  obtain ⟨c5, -⟩ := peel r5 (by decide)
  have f0 : bits w 2 0 = 0 := c0
  have f1 : bits w 17 5 = 0 := c2
  have f2 : bits w 25 23 = 3 := c4
  have f3 : bits w 31 26 = 42 := c5
  have k1 : fld 2 3 w = c := fld_of g1
  have k3 : fld 5 18 w = d := fld_of g3
  show Option.filter Instr.wf (decodeCtlRaw w) = _
  rw [decodeCtlRaw_42 f3]
  delta decodeCtl2A
  simp only [f0, f1, f2, k1, k3, and_self, reduceIte, and_true, true_and, and_false, false_and, Nat.reduceEqDiff]
  exact filter_wf hwf

theorem unlease (s : BitVec 5) : Statement (.unlease s) := by
  intro hwf w he
  have he : 2852126720 + s.toNat * 8192 = w := Option.some.inj he
  have r0 : w / 2 ^ 0 = 0 + 2 ^ 13 * (s.toNat + 2 ^ 5 * (0 + 2 ^ 5 * (4 + 2 ^ 3 * (42 + 2 ^ 6 * (0))))) := by rw [← he, Nat.pow_zero, Nat.div_one]; ring
  obtain ⟨c0, r1⟩ := peel r0 (by decide)
  obtain ⟨g1, r2⟩ := peel r1 s.isLt
  obtain ⟨c2, r3⟩ := peel r2 (by decide)
  obtain ⟨c3, r4⟩ := peel r3 (by decide)
  obtain ⟨c4, -⟩ := peel r4 (by decide)
  have f0 : bits w 12 0 = 0 := c0
  have f1 : bits w 25 18 = 128 := by
    clear he r0
    have := c2
    have := c3
    show w / 262144 % 256 = 128
    omega
  have f2 : bits w 25 23 = 4 := c3
  have f3 : bits w 31 26 = 42 := c4
  have k1 : fld 5 13 w = s := fld_of g1
  show Option.filter Instr.wf (decodeCtlRaw w) = _
  rw [decodeCtlRaw_42 f3]
  delta decodeCtl2A
  simp only [f0, f1, f2, k1, and_self, reduceIte, and_true, true_and, and_false, false_and, Nat.reduceEqDiff]
  exact filter_wf hwf

theorem split (p : BitVec 3) : Statement (.split p) := by
  intro hwf w he
  have he : 2885681152 + p.toNat * 1 = w := Option.some.inj he
  have r0 : w / 2 ^ 0 = p.toNat + 2 ^ 3 * (0 + 2 ^ 23 * (43 + 2 ^ 6 * (0))) := by rw [← he, Nat.pow_zero, Nat.div_one]; ring
  obtain ⟨g0, r1⟩ := peel r0 p.isLt
  obtain ⟨c1, r2⟩ := peel r1 (by decide)
  obtain ⟨c2, -⟩ := peel r2 (by decide)
  have f0 : bits w 25 3 = 0 := c1
  have f1 : bits w 31 26 = 43 := c2
  have k0 : fld 3 0 w = p := fld_of g0
  show Option.filter Instr.wf (decodeCtlRaw w) = _
  rw [decodeCtlRaw_43 f1]
  simp only [f0, k0, and_self, reduceIte, and_true, true_and, and_false, false_and, Nat.reduceEqDiff]
  exact filter_wf hwf

theorem kick (s : BitVec 5) : Statement (.kick s) := by
  intro hwf w he
  have he : 2952790016 + s.toNat * 65536 = w := Option.some.inj he
  have r0 : w / 2 ^ 0 = 0 + 2 ^ 16 * (s.toNat + 2 ^ 5 * (0 + 2 ^ 5 * (44 + 2 ^ 6 * (0)))) := by rw [← he, Nat.pow_zero, Nat.div_one]; ring
  obtain ⟨c0, r1⟩ := peel r0 (by decide)
  obtain ⟨g1, r2⟩ := peel r1 s.isLt
  obtain ⟨c2, r3⟩ := peel r2 (by decide)
  obtain ⟨c3, -⟩ := peel r3 (by decide)
  have f0 : bits w 15 0 = 0 := c0
  have f1 : bits w 25 21 = 0 := c2
  have f2 : bits w 31 26 = 44 := c3
  have k1 : fld 5 16 w = s := fld_of g1
  show Option.filter Instr.wf (decodeCtlRaw w) = _
  rw [decodeCtlRaw_44 f2]
  simp only [f0, f1, k1, and_self, reduceIte, and_true, true_and, and_false, false_and, Nat.reduceEqDiff]
  exact filter_wf hwf

theorem mbact (s : BitVec 5) (t : BitVec 5) : Statement (.mbact s t) := by
  intro hwf w he
  have he : 3019898880 + s.toNat * 16384 + t.toNat * 512 = w := Option.some.inj he
  have r0 : w / 2 ^ 0 = 0 + 2 ^ 9 * (t.toNat + 2 ^ 5 * (s.toNat + 2 ^ 5 * (0 + 2 ^ 7 * (45 + 2 ^ 6 * (0))))) := by rw [← he, Nat.pow_zero, Nat.div_one]; ring
  obtain ⟨c0, r1⟩ := peel r0 (by decide)
  obtain ⟨g1, r2⟩ := peel r1 t.isLt
  obtain ⟨g2, r3⟩ := peel r2 s.isLt
  obtain ⟨c3, r4⟩ := peel r3 (by decide)
  obtain ⟨c4, -⟩ := peel r4 (by decide)
  have f0 : bits w 8 0 = 0 := c0
  have f1 : bits w 25 19 = 0 := c3
  have f2 : bits w 31 26 = 45 := c4
  have k1 : fld 5 9 w = t := fld_of g1
  have k2 : fld 5 14 w = s := fld_of g2
  show Option.filter Instr.wf (decodeCtlRaw w) = _
  rw [decodeCtlRaw_45 f2]
  delta decodeCtl2D
  simp only [f0, f1, k1, k2, and_self, reduceIte, and_true, true_and, and_false, false_and, Nat.reduceEqDiff]
  exact filter_wf hwf

theorem mbobsW (s : BitVec 5) (t : BitVec 5) (m : BitVec 5) : Statement (.mbobsW s t m) := by
  intro hwf w he
  have he : 3036676096 + s.toNat * 16384 + t.toNat * 512 + m.toNat * 16 = w := Option.some.inj he
  have r0 : w / 2 ^ 0 = 0 + 2 ^ 4 * (m.toNat + 2 ^ 5 * (t.toNat + 2 ^ 5 * (s.toNat + 2 ^ 5 * (32 + 2 ^ 7 * (45 + 2 ^ 6 * (0)))))) := by rw [← he, Nat.pow_zero, Nat.div_one]; ring
  obtain ⟨c0, r1⟩ := peel r0 (by decide)
  obtain ⟨g1, r2⟩ := peel r1 m.isLt
  obtain ⟨g2, r3⟩ := peel r2 t.isLt
  obtain ⟨g3, r4⟩ := peel r3 s.isLt
  obtain ⟨c4, r5⟩ := peel r4 (by decide)
  obtain ⟨c5, -⟩ := peel r5 (by decide)
  have f0 : bits w 3 0 = 0 := c0
  have f1 : bits w 25 19 = 32 := c4
  have f2 : bits w 31 26 = 45 := c5
  have k1 : fld 5 4 w = m := fld_of g1
  have k2 : fld 5 9 w = t := fld_of g2
  have k3 : fld 5 14 w = s := fld_of g3
  show Option.filter Instr.wf (decodeCtlRaw w) = _
  rw [decodeCtlRaw_45 f2]
  delta decodeCtl2D
  simp only [f0, f1, k1, k2, k3, and_self, reduceIte, and_true, true_and, and_false, false_and, Nat.reduceEqDiff]
  exact filter_wf hwf

theorem mbobsT (d : BitVec 5) (s : BitVec 5) (t : BitVec 5) : Statement (.mbobsT d s t) := by
  intro hwf w he
  have he : 3053453312 + d.toNat * 524288 + s.toNat * 16384 + t.toNat * 512 = w := Option.some.inj he
  have r0 : w / 2 ^ 0 = 0 + 2 ^ 9 * (t.toNat + 2 ^ 5 * (s.toNat + 2 ^ 5 * (d.toNat + 2 ^ 5 * (2 + 2 ^ 2 * (45 + 2 ^ 6 * (0)))))) := by rw [← he, Nat.pow_zero, Nat.div_one]; ring
  obtain ⟨c0, r1⟩ := peel r0 (by decide)
  obtain ⟨g1, r2⟩ := peel r1 t.isLt
  obtain ⟨g2, r3⟩ := peel r2 s.isLt
  obtain ⟨g3, r4⟩ := peel r3 d.isLt
  obtain ⟨c4, r5⟩ := peel r4 (by decide)
  obtain ⟨c5, -⟩ := peel r5 (by decide)
  have f0 : bits w 8 0 = 0 := c0
  have f1 : bits w 25 24 = 2 := c4
  have f2 : bits w 31 26 = 45 := c5
  have n0 : ¬ bits w 25 19 = 0 := by
    intro hh
    exact absurd c4 (apart hh (by decide) (by decide) (by decide))
  have n1 : ¬ bits w 25 19 = 32 := by
    intro hh
    exact absurd c4 (apart hh (by decide) (by decide) (by decide))
  have k1 : fld 5 9 w = t := fld_of g1
  have k2 : fld 5 14 w = s := fld_of g2
  have k3 : fld 5 19 w = d := fld_of g3
  show Option.filter Instr.wf (decodeCtlRaw w) = _
  rw [decodeCtlRaw_45 f2]
  delta decodeCtl2D
  simp only [f0, f1, n0, n1, k1, k2, k3, and_self, reduceIte, and_true, true_and, and_false, false_and, Nat.reduceEqDiff]
  exact filter_wf hwf

theorem strm (q : BitVec 4) (s : BitVec 5) : Statement (.strm q s) := by
  intro hwf w he
  have he : 3087007744 + q.toNat * 4194304 + s.toNat * 65536 = w := Option.some.inj he
  have r0 : w / 2 ^ 0 = 0 + 2 ^ 16 * (s.toNat + 2 ^ 5 * (0 + 2 ^ 1 * (q.toNat + 2 ^ 4 * (46 + 2 ^ 6 * (0))))) := by rw [← he, Nat.pow_zero, Nat.div_one]; ring
  obtain ⟨c0, r1⟩ := peel r0 (by decide)
  obtain ⟨g1, r2⟩ := peel r1 s.isLt
  obtain ⟨c2, r3⟩ := peel r2 (by decide)
  obtain ⟨g3, r4⟩ := peel r3 q.isLt
  obtain ⟨c4, -⟩ := peel r4 (by decide)
  have f0 : bits w 15 0 = 0 := c0
  have f1 : bits w 21 21 = 0 := c2
  have f2 : bits w 31 26 = 46 := c4
  have k1 : fld 5 16 w = s := fld_of g1
  have k3 : fld 4 22 w = q := fld_of g3
  show Option.filter Instr.wf (decodeCtlRaw w) = _
  rw [decodeCtlRaw_46 f2]
  simp only [f0, f1, k1, k3, and_self, reduceIte, and_true, true_and, and_false, false_and, Nat.reduceEqDiff]
  exact filter_wf hwf

theorem txset (t : BitVec 4) (s : BitVec 5) (p : BitVec 2) : Statement (.txset t s p) := by
  intro hwf w he
  have he : 3154116608 + t.toNat * 4194304 + s.toNat * 65536 + p.toNat * 1 = w := Option.some.inj he
  have r0 : w / 2 ^ 0 = p.toNat + 2 ^ 2 * (0 + 2 ^ 14 * (s.toNat + 2 ^ 5 * (0 + 2 ^ 1 * (t.toNat + 2 ^ 4 * (47 + 2 ^ 6 * (0)))))) := by rw [← he, Nat.pow_zero, Nat.div_one]; ring
  obtain ⟨g0, r1⟩ := peel r0 p.isLt
  obtain ⟨c1, r2⟩ := peel r1 (by decide)
  obtain ⟨g2, r3⟩ := peel r2 s.isLt
  obtain ⟨c3, r4⟩ := peel r3 (by decide)
  obtain ⟨g4, r5⟩ := peel r4 t.isLt
  obtain ⟨c5, -⟩ := peel r5 (by decide)
  have f0 : bits w 15 2 = 0 := c1
  have f1 : bits w 21 21 = 0 := c3
  have f2 : bits w 31 26 = 47 := c5
  have k0 : fld 2 0 w = p := fld_of g0
  have k2 : fld 5 16 w = s := fld_of g2
  have k4 : fld 4 22 w = t := fld_of g4
  show Option.filter Instr.wf (decodeCtlRaw w) = _
  rw [decodeCtlRaw_47 f2]
  delta decodeCtl2F
  simp only [f0, f1, k0, k2, k4, and_self, reduceIte, and_true, true_and, and_false, false_and, Nat.reduceEqDiff]
  exact filter_wf hwf

theorem txsetM (t : BitVec 4) (s : BitVec 5) : Statement (.txsetM t s) := by
  intro hwf w he
  have he : 3154149376 + t.toNat * 4194304 + s.toNat * 65536 = w := Option.some.inj he
  have r0 : w / 2 ^ 0 = 0 + 2 ^ 2 * (8192 + 2 ^ 14 * (s.toNat + 2 ^ 5 * (0 + 2 ^ 1 * (t.toNat + 2 ^ 4 * (47 + 2 ^ 6 * (0)))))) := by rw [← he, Nat.pow_zero, Nat.div_one]; ring
  obtain ⟨c0, r1⟩ := peel r0 (by decide)
  obtain ⟨c1, r2⟩ := peel r1 (by decide)
  obtain ⟨g2, r3⟩ := peel r2 s.isLt
  obtain ⟨c3, r4⟩ := peel r3 (by decide)
  obtain ⟨g4, r5⟩ := peel r4 t.isLt
  obtain ⟨c5, -⟩ := peel r5 (by decide)
  have f0 : bits w 15 0 = 32768 := by
    clear he r0
    have := c0
    have := c1
    show w / 1 % 65536 = 32768
    omega
  have f1 : bits w 15 2 = 8192 := c1
  have f2 : bits w 21 21 = 0 := c3
  have f3 : bits w 31 26 = 47 := c5
  have k2 : fld 5 16 w = s := fld_of g2
  have k4 : fld 4 22 w = t := fld_of g4
  show Option.filter Instr.wf (decodeCtlRaw w) = _
  rw [decodeCtlRaw_47 f3]
  delta decodeCtl2F
  simp only [f0, f1, f2, k2, k4, and_self, reduceIte, and_true, true_and, and_false, false_and, Nat.reduceEqDiff]
  exact filter_wf hwf

theorem cvset (v : BitVec 3) (s : BitVec 5) : Statement (.cvset v s) := by
  intro hwf w he
  have he : 3221225472 + v.toNat * 8388608 + s.toNat * 65536 = w := Option.some.inj he
  have r0 : w / 2 ^ 0 = 0 + 2 ^ 16 * (s.toNat + 2 ^ 5 * (0 + 2 ^ 2 * (v.toNat + 2 ^ 3 * (48 + 2 ^ 6 * (0))))) := by rw [← he, Nat.pow_zero, Nat.div_one]; ring
  obtain ⟨c0, r1⟩ := peel r0 (by decide)
  obtain ⟨g1, r2⟩ := peel r1 s.isLt
  obtain ⟨c2, r3⟩ := peel r2 (by decide)
  obtain ⟨g3, r4⟩ := peel r3 v.isLt
  obtain ⟨c4, -⟩ := peel r4 (by decide)
  have f0 : bits w 15 0 = 0 := c0
  have f1 : bits w 22 21 = 0 := c2
  have f2 : bits w 31 26 = 48 := c4
  have k1 : fld 5 16 w = s := fld_of g1
  have k3 : fld 3 23 w = v := fld_of g3
  show Option.filter Instr.wf (decodeCtlRaw w) = _
  rw [decodeCtlRaw_48 f2]
  simp only [f0, f1, k1, k3, and_self, reduceIte, and_true, true_and, and_false, false_and, Nat.reduceEqDiff]
  exact filter_wf hwf

theorem deadA (s : BitVec 5) (c : BitVec 9) : Statement (.deadA s c) := by
  intro hwf w he
  have he : 3288334336 + s.toNat * 65536 + c.toNat * 1 = w := Option.some.inj he
  have r0 : w / 2 ^ 0 = c.toNat + 2 ^ 9 * (0 + 2 ^ 7 * (s.toNat + 2 ^ 5 * (0 + 2 ^ 5 * (49 + 2 ^ 6 * (0))))) := by rw [← he, Nat.pow_zero, Nat.div_one]; ring
  obtain ⟨g0, r1⟩ := peel r0 c.isLt
  obtain ⟨c1, r2⟩ := peel r1 (by decide)
  obtain ⟨g2, r3⟩ := peel r2 s.isLt
  obtain ⟨c3, r4⟩ := peel r3 (by decide)
  obtain ⟨c4, -⟩ := peel r4 (by decide)
  have f0 : bits w 15 9 = 0 := c1
  have f1 : bits w 25 21 = 0 := c3
  have f2 : bits w 31 26 = 49 := c4
  have k0 : fld 9 0 w = c := fld_of g0
  have k2 : fld 5 16 w = s := fld_of g2
  show Option.filter Instr.wf (decodeCtlRaw w) = _
  rw [decodeCtlRaw_49 f2]
  delta decodeCtl31
  simp only [f0, f1, k0, k2, and_self, reduceIte, and_true, true_and, and_false, false_and, Nat.reduceEqDiff]
  exact filter_wf hwf

theorem deadW (s : BitVec 5) (c : BitVec 9) : Statement (.deadW s c) := by
  intro hwf w he
  have he : 3321888768 + s.toNat * 65536 + c.toNat * 1 = w := Option.some.inj he
  have r0 : w / 2 ^ 0 = c.toNat + 2 ^ 9 * (0 + 2 ^ 7 * (s.toNat + 2 ^ 5 * (16 + 2 ^ 5 * (49 + 2 ^ 6 * (0))))) := by rw [← he, Nat.pow_zero, Nat.div_one]; ring
  obtain ⟨g0, r1⟩ := peel r0 c.isLt
  obtain ⟨c1, r2⟩ := peel r1 (by decide)
  obtain ⟨g2, r3⟩ := peel r2 s.isLt
  obtain ⟨c3, r4⟩ := peel r3 (by decide)
  obtain ⟨c4, -⟩ := peel r4 (by decide)
  have f0 : bits w 15 9 = 0 := c1
  have f1 : bits w 25 21 = 16 := c3
  have f2 : bits w 31 26 = 49 := c4
  have k0 : fld 9 0 w = c := fld_of g0
  have k2 : fld 5 16 w = s := fld_of g2
  show Option.filter Instr.wf (decodeCtlRaw w) = _
  rw [decodeCtlRaw_49 f2]
  delta decodeCtl31
  simp only [f0, f1, k0, k2, and_self, reduceIte, and_true, true_and, and_false, false_and, Nat.reduceEqDiff]
  exact filter_wf hwf

theorem yield : Statement (.yield) := by
  intro hwf w he
  have he : 3355443200 = w := Option.some.inj he
  have r0 : w / 2 ^ 0 = 0 + 2 ^ 26 * (50 + 2 ^ 6 * (0)) := by rw [← he, Nat.pow_zero, Nat.div_one]; ring
  obtain ⟨c0, r1⟩ := peel r0 (by decide)
  obtain ⟨c1, -⟩ := peel r1 (by decide)
  have f0 : bits w 25 0 = 0 := c0
  have f1 : bits w 31 26 = 50 := c1
  show Option.filter Instr.wf (decodeCtlRaw w) = _
  rw [decodeCtlRaw_50 f1]
  delta decodeCtl32
  simp only [f0, and_self, reduceIte, and_true, true_and, and_false, false_and, Nat.reduceEqDiff]
  exact filter_wf hwf

theorem exit : Statement (.exit) := by
  intro hwf w he
  have he : 3355443201 = w := Option.some.inj he
  have r0 : w / 2 ^ 0 = 1 + 2 ^ 26 * (50 + 2 ^ 6 * (0)) := by rw [← he, Nat.pow_zero, Nat.div_one]; ring
  obtain ⟨c0, r1⟩ := peel r0 (by decide)
  obtain ⟨c1, -⟩ := peel r1 (by decide)
  have f0 : bits w 25 0 = 1 := c0
  have f1 : bits w 31 26 = 50 := c1
  show Option.filter Instr.wf (decodeCtlRaw w) = _
  rw [decodeCtlRaw_50 f1]
  delta decodeCtl32
  simp only [f0, and_self, reduceIte, and_true, true_and, and_false, false_and, Nat.reduceEqDiff]
  exact filter_wf hwf

theorem trap (c : BitVec 16) : Statement (.trap c) := by
  intro hwf w he
  have he : 3422552064 + c.toNat * 1 = w := Option.some.inj he
  have r0 : w / 2 ^ 0 = c.toNat + 2 ^ 16 * (0 + 2 ^ 10 * (51 + 2 ^ 6 * (0))) := by rw [← he, Nat.pow_zero, Nat.div_one]; ring
  obtain ⟨g0, r1⟩ := peel r0 c.isLt
  obtain ⟨c1, r2⟩ := peel r1 (by decide)
  obtain ⟨c2, -⟩ := peel r2 (by decide)
  have f0 : bits w 25 16 = 0 := c1
  have f1 : bits w 31 26 = 51 := c2
  have k0 : fld 16 0 w = c := fld_of g0
  show Option.filter Instr.wf (decodeCtlRaw w) = _
  rw [decodeCtlRaw_51 f1]
  simp only [f0, k0, and_self, reduceIte, and_true, true_and, and_false, false_and, Nat.reduceEqDiff]
  exact filter_wf hwf

theorem eret (s : BitVec 5) (t : BitVec 5) : Statement (.eret s t) := by
  intro hwf w he
  have he : 4160749568 + s.toNat * 65536 + t.toNat * 2048 = w := Option.some.inj he
  have r0 : w / 2 ^ 0 = 0 + 2 ^ 11 * (t.toNat + 2 ^ 5 * (s.toNat + 2 ^ 5 * (0 + 2 ^ 5 * (62 + 2 ^ 6 * (0))))) := by rw [← he, Nat.pow_zero, Nat.div_one]; ring
  obtain ⟨c0, r1⟩ := peel r0 (by decide)
  obtain ⟨g1, r2⟩ := peel r1 t.isLt
  obtain ⟨g2, r3⟩ := peel r2 s.isLt
  obtain ⟨c3, r4⟩ := peel r3 (by decide)
  obtain ⟨c4, -⟩ := peel r4 (by decide)
  have f0 : bits w 10 0 = 0 := c0
  have f1 : bits w 25 21 = 0 := c3
  have f2 : bits w 31 26 = 62 := c4
  have k1 : fld 5 11 w = t := fld_of g1
  have k2 : fld 5 16 w = s := fld_of g2
  show Option.filter Instr.wf (decodeCtlRaw w) = _
  rw [decodeCtlRaw_62 f2]
  delta decodeCtl3E
  simp only [f0, f1, k1, k2, and_self, reduceIte, and_true, true_and, and_false, false_and, Nat.reduceEqDiff]
  exact filter_wf hwf

theorem ctxsv (d : BitVec 5) (s : BitVec 5) (t : BitVec 5) : Statement (.ctxsv d s t) := by
  intro hwf w he
  have he : 4160749569 + d.toNat * 2097152 + s.toNat * 65536 + t.toNat * 2048 = w := Option.some.inj he
  have r0 : w / 2 ^ 0 = 1 + 2 ^ 11 * (t.toNat + 2 ^ 5 * (s.toNat + 2 ^ 5 * (d.toNat + 2 ^ 5 * (62 + 2 ^ 6 * (0))))) := by rw [← he, Nat.pow_zero, Nat.div_one]; ring
  obtain ⟨c0, r1⟩ := peel r0 (by decide)
  obtain ⟨g1, r2⟩ := peel r1 t.isLt
  obtain ⟨g2, r3⟩ := peel r2 s.isLt
  obtain ⟨g3, r4⟩ := peel r3 d.isLt
  obtain ⟨c4, -⟩ := peel r4 (by decide)
  have f0 : bits w 10 0 = 1 := c0
  have f1 : bits w 31 26 = 62 := c4
  have k1 : fld 5 11 w = t := fld_of g1
  have k2 : fld 5 16 w = s := fld_of g2
  have k3 : fld 5 21 w = d := fld_of g3
  show Option.filter Instr.wf (decodeCtlRaw w) = _
  rw [decodeCtlRaw_62 f1]
  delta decodeCtl3E
  simp only [f0, k1, k2, k3, and_self, reduceIte, and_true, true_and, and_false, false_and, Nat.reduceEqDiff]
  exact filter_wf hwf

theorem ctxld (d : BitVec 5) (s : BitVec 5) (t : BitVec 5) : Statement (.ctxld d s t) := by
  intro hwf w he
  have he : 4160749570 + d.toNat * 2097152 + s.toNat * 65536 + t.toNat * 2048 = w := Option.some.inj he
  have r0 : w / 2 ^ 0 = 2 + 2 ^ 11 * (t.toNat + 2 ^ 5 * (s.toNat + 2 ^ 5 * (d.toNat + 2 ^ 5 * (62 + 2 ^ 6 * (0))))) := by rw [← he, Nat.pow_zero, Nat.div_one]; ring
  obtain ⟨c0, r1⟩ := peel r0 (by decide)
  obtain ⟨g1, r2⟩ := peel r1 t.isLt
  obtain ⟨g2, r3⟩ := peel r2 s.isLt
  obtain ⟨g3, r4⟩ := peel r3 d.isLt
  obtain ⟨c4, -⟩ := peel r4 (by decide)
  have f0 : bits w 10 0 = 2 := c0
  have f1 : bits w 31 26 = 62 := c4
  have k1 : fld 5 11 w = t := fld_of g1
  have k2 : fld 5 16 w = s := fld_of g2
  have k3 : fld 5 21 w = d := fld_of g3
  show Option.filter Instr.wf (decodeCtlRaw w) = _
  rw [decodeCtlRaw_62 f1]
  delta decodeCtl3E
  simp only [f0, k1, k2, k3, and_self, reduceIte, and_true, true_and, and_false, false_and, Nat.reduceEqDiff]
  exact filter_wf hwf

theorem accspill (d : BitVec 5) (s : BitVec 5) (t : BitVec 5) : Statement (.accspill d s t) := by
  intro hwf w he
  have he : 4160749571 + d.toNat * 2097152 + s.toNat * 65536 + t.toNat * 2048 = w := Option.some.inj he
  have r0 : w / 2 ^ 0 = 3 + 2 ^ 11 * (t.toNat + 2 ^ 5 * (s.toNat + 2 ^ 5 * (d.toNat + 2 ^ 5 * (62 + 2 ^ 6 * (0))))) := by rw [← he, Nat.pow_zero, Nat.div_one]; ring
  obtain ⟨c0, r1⟩ := peel r0 (by decide)
  obtain ⟨g1, r2⟩ := peel r1 t.isLt
  obtain ⟨g2, r3⟩ := peel r2 s.isLt
  obtain ⟨g3, r4⟩ := peel r3 d.isLt
  obtain ⟨c4, -⟩ := peel r4 (by decide)
  have f0 : bits w 10 0 = 3 := c0
  have f1 : bits w 31 26 = 62 := c4
  have k1 : fld 5 11 w = t := fld_of g1
  have k2 : fld 5 16 w = s := fld_of g2
  have k3 : fld 5 21 w = d := fld_of g3
  show Option.filter Instr.wf (decodeCtlRaw w) = _
  rw [decodeCtlRaw_62 f1]
  delta decodeCtl3E
  simp only [f0, k1, k2, k3, and_self, reduceIte, and_true, true_and, and_false, false_and, Nat.reduceEqDiff]
  exact filter_wf hwf

theorem keyld (d : BitVec 5) (s : BitVec 5) (t : BitVec 5) : Statement (.keyld d s t) := by
  intro hwf w he
  have he : 4160749572 + d.toNat * 2097152 + s.toNat * 65536 + t.toNat * 2048 = w := Option.some.inj he
  have r0 : w / 2 ^ 0 = 4 + 2 ^ 11 * (t.toNat + 2 ^ 5 * (s.toNat + 2 ^ 5 * (d.toNat + 2 ^ 5 * (62 + 2 ^ 6 * (0))))) := by rw [← he, Nat.pow_zero, Nat.div_one]; ring
  obtain ⟨c0, r1⟩ := peel r0 (by decide)
  obtain ⟨g1, r2⟩ := peel r1 t.isLt
  obtain ⟨g2, r3⟩ := peel r2 s.isLt
  obtain ⟨g3, r4⟩ := peel r3 d.isLt
  obtain ⟨c4, -⟩ := peel r4 (by decide)
  have f0 : bits w 10 0 = 4 := c0
  have f1 : bits w 31 26 = 62 := c4
  have k1 : fld 5 11 w = t := fld_of g1
  have k2 : fld 5 16 w = s := fld_of g2
  have k3 : fld 5 21 w = d := fld_of g3
  show Option.filter Instr.wf (decodeCtlRaw w) = _
  rw [decodeCtlRaw_62 f1]
  delta decodeCtl3E
  simp only [f0, k1, k2, k3, and_self, reduceIte, and_true, true_and, and_false, false_and, Nat.reduceEqDiff]
  exact filter_wf hwf

theorem wdog (s : BitVec 5) : Statement (.wdog s) := by
  intro hwf w he
  have he : 4160749573 + s.toNat * 65536 = w := Option.some.inj he
  have r0 : w / 2 ^ 0 = 5 + 2 ^ 11 * (0 + 2 ^ 5 * (s.toNat + 2 ^ 5 * (0 + 2 ^ 5 * (62 + 2 ^ 6 * (0))))) := by rw [← he, Nat.pow_zero, Nat.div_one]; ring
  obtain ⟨c0, r1⟩ := peel r0 (by decide)
  obtain ⟨c1, r2⟩ := peel r1 (by decide)
  obtain ⟨g2, r3⟩ := peel r2 s.isLt
  obtain ⟨c3, r4⟩ := peel r3 (by decide)
  obtain ⟨c4, -⟩ := peel r4 (by decide)
  have f0 : bits w 10 0 = 5 := c0
  have f1 : bits w 15 0 = 5 := by
    clear he r0
    have := c0
    have := c1
    show w / 1 % 65536 = 5
    omega
  have f2 : bits w 25 21 = 0 := c3
  have f3 : bits w 31 26 = 62 := c4
  have k2 : fld 5 16 w = s := fld_of g2
  show Option.filter Instr.wf (decodeCtlRaw w) = _
  rw [decodeCtlRaw_62 f3]
  delta decodeCtl3E
  simp only [f0, f1, f2, k2, and_self, reduceIte, and_true, true_and, and_false, false_and, Nat.reduceEqDiff]
  exact filter_wf hwf

theorem vadd (d : BitVec 7) (a : BitVec 7) (b : BitVec 7) (x : BitVec 1) (y : BitVec 1) (g : BitVec 3) : Statement (.vadd d a b x y g) := by
  intro hwf w he
  have he : 67108864 + d.toNat * 524288 + a.toNat * 4096 + b.toNat * 32 + x.toNat * 16 + y.toNat * 8 + g.toNat * 1 = w := Option.some.inj he
  have r0 : w / 2 ^ 0 = g.toNat + 2 ^ 3 * (y.toNat + 2 ^ 1 * (x.toNat + 2 ^ 1 * (b.toNat + 2 ^ 7 * (a.toNat + 2 ^ 7 * (d.toNat + 2 ^ 7 * (1 + 2 ^ 6 * (0))))))) := by rw [← he, Nat.pow_zero, Nat.div_one]; ring
  obtain ⟨g0, r1⟩ := peel r0 g.isLt
  obtain ⟨g1, r2⟩ := peel r1 y.isLt
  obtain ⟨g2, r3⟩ := peel r2 x.isLt
  obtain ⟨g3, r4⟩ := peel r3 b.isLt
  obtain ⟨g4, r5⟩ := peel r4 a.isLt
  obtain ⟨g5, r6⟩ := peel r5 d.isLt
  obtain ⟨c6, -⟩ := peel r6 (by decide)
  have f0 : bits w 31 26 = 1 := c6
  have k0 : fld 3 0 w = g := fld_of g0
  have k1 : fld 1 3 w = y := fld_of g1
  have k2 : fld 1 4 w = x := fld_of g2
  have k3 : fld 7 5 w = b := fld_of g3
  have k4 : fld 7 12 w = a := fld_of g4
  have k5 : fld 7 19 w = d := fld_of g5
  show Option.filter Instr.wf (decodeVecRaw w) = _
  rw [decodeVecRaw_1 f0]
  simp only [k0, k1, k2, k3, k4, k5]
  exact filter_wf hwf

theorem vsub (d : BitVec 7) (a : BitVec 7) (b : BitVec 7) (x : BitVec 1) (y : BitVec 1) (g : BitVec 3) : Statement (.vsub d a b x y g) := by
  intro hwf w he
  have he : 134217728 + d.toNat * 524288 + a.toNat * 4096 + b.toNat * 32 + x.toNat * 16 + y.toNat * 8 + g.toNat * 1 = w := Option.some.inj he
  have r0 : w / 2 ^ 0 = g.toNat + 2 ^ 3 * (y.toNat + 2 ^ 1 * (x.toNat + 2 ^ 1 * (b.toNat + 2 ^ 7 * (a.toNat + 2 ^ 7 * (d.toNat + 2 ^ 7 * (2 + 2 ^ 6 * (0))))))) := by rw [← he, Nat.pow_zero, Nat.div_one]; ring
  obtain ⟨g0, r1⟩ := peel r0 g.isLt
  obtain ⟨g1, r2⟩ := peel r1 y.isLt
  obtain ⟨g2, r3⟩ := peel r2 x.isLt
  obtain ⟨g3, r4⟩ := peel r3 b.isLt
  obtain ⟨g4, r5⟩ := peel r4 a.isLt
  obtain ⟨g5, r6⟩ := peel r5 d.isLt
  obtain ⟨c6, -⟩ := peel r6 (by decide)
  have f0 : bits w 31 26 = 2 := c6
  have k0 : fld 3 0 w = g := fld_of g0
  have k1 : fld 1 3 w = y := fld_of g1
  have k2 : fld 1 4 w = x := fld_of g2
  have k3 : fld 7 5 w = b := fld_of g3
  have k4 : fld 7 12 w = a := fld_of g4
  have k5 : fld 7 19 w = d := fld_of g5
  show Option.filter Instr.wf (decodeVecRaw w) = _
  rw [decodeVecRaw_2 f0]
  simp only [k0, k1, k2, k3, k4, k5]
  exact filter_wf hwf

theorem vmul (d : BitVec 7) (a : BitVec 7) (b : BitVec 7) (x : BitVec 1) (y : BitVec 1) (g : BitVec 3) : Statement (.vmul d a b x y g) := by
  intro hwf w he
  have he : 201326592 + d.toNat * 524288 + a.toNat * 4096 + b.toNat * 32 + x.toNat * 16 + y.toNat * 8 + g.toNat * 1 = w := Option.some.inj he
  have r0 : w / 2 ^ 0 = g.toNat + 2 ^ 3 * (y.toNat + 2 ^ 1 * (x.toNat + 2 ^ 1 * (b.toNat + 2 ^ 7 * (a.toNat + 2 ^ 7 * (d.toNat + 2 ^ 7 * (3 + 2 ^ 6 * (0))))))) := by rw [← he, Nat.pow_zero, Nat.div_one]; ring
  obtain ⟨g0, r1⟩ := peel r0 g.isLt
  obtain ⟨g1, r2⟩ := peel r1 y.isLt
  obtain ⟨g2, r3⟩ := peel r2 x.isLt
  obtain ⟨g3, r4⟩ := peel r3 b.isLt
  obtain ⟨g4, r5⟩ := peel r4 a.isLt
  obtain ⟨g5, r6⟩ := peel r5 d.isLt
  obtain ⟨c6, -⟩ := peel r6 (by decide)
  have f0 : bits w 31 26 = 3 := c6
  have k0 : fld 3 0 w = g := fld_of g0
  have k1 : fld 1 3 w = y := fld_of g1
  have k2 : fld 1 4 w = x := fld_of g2
  have k3 : fld 7 5 w = b := fld_of g3
  have k4 : fld 7 12 w = a := fld_of g4
  have k5 : fld 7 19 w = d := fld_of g5
  show Option.filter Instr.wf (decodeVecRaw w) = _
  rw [decodeVecRaw_3 f0]
  simp only [k0, k1, k2, k3, k4, k5]
  exact filter_wf hwf

theorem vfma (d : BitVec 7) (a : BitVec 7) (b : BitVec 7) (x : BitVec 1) (y : BitVec 1) (g : BitVec 3) : Statement (.vfma d a b x y g) := by
  intro hwf w he
  have he : 268435456 + d.toNat * 524288 + a.toNat * 4096 + b.toNat * 32 + x.toNat * 16 + y.toNat * 8 + g.toNat * 1 = w := Option.some.inj he
  have r0 : w / 2 ^ 0 = g.toNat + 2 ^ 3 * (y.toNat + 2 ^ 1 * (x.toNat + 2 ^ 1 * (b.toNat + 2 ^ 7 * (a.toNat + 2 ^ 7 * (d.toNat + 2 ^ 7 * (4 + 2 ^ 6 * (0))))))) := by rw [← he, Nat.pow_zero, Nat.div_one]; ring
  obtain ⟨g0, r1⟩ := peel r0 g.isLt
  obtain ⟨g1, r2⟩ := peel r1 y.isLt
  obtain ⟨g2, r3⟩ := peel r2 x.isLt
  obtain ⟨g3, r4⟩ := peel r3 b.isLt
  obtain ⟨g4, r5⟩ := peel r4 a.isLt
  obtain ⟨g5, r6⟩ := peel r5 d.isLt
  obtain ⟨c6, -⟩ := peel r6 (by decide)
  have f0 : bits w 31 26 = 4 := c6
  have k0 : fld 3 0 w = g := fld_of g0
  have k1 : fld 1 3 w = y := fld_of g1
  have k2 : fld 1 4 w = x := fld_of g2
  have k3 : fld 7 5 w = b := fld_of g3
  have k4 : fld 7 12 w = a := fld_of g4
  have k5 : fld 7 19 w = d := fld_of g5
  show Option.filter Instr.wf (decodeVecRaw w) = _
  rw [decodeVecRaw_4 f0]
  simp only [k0, k1, k2, k3, k4, k5]
  exact filter_wf hwf

theorem vadds (d : BitVec 7) (a : BitVec 7) (b : BitVec 7) (x : BitVec 1) (y : BitVec 1) (g : BitVec 3) : Statement (.vadds d a b x y g) := by
  intro hwf w he
  have he : 335544320 + d.toNat * 524288 + a.toNat * 4096 + b.toNat * 32 + x.toNat * 16 + y.toNat * 8 + g.toNat * 1 = w := Option.some.inj he
  have r0 : w / 2 ^ 0 = g.toNat + 2 ^ 3 * (y.toNat + 2 ^ 1 * (x.toNat + 2 ^ 1 * (b.toNat + 2 ^ 7 * (a.toNat + 2 ^ 7 * (d.toNat + 2 ^ 7 * (5 + 2 ^ 6 * (0))))))) := by rw [← he, Nat.pow_zero, Nat.div_one]; ring
  obtain ⟨g0, r1⟩ := peel r0 g.isLt
  obtain ⟨g1, r2⟩ := peel r1 y.isLt
  obtain ⟨g2, r3⟩ := peel r2 x.isLt
  obtain ⟨g3, r4⟩ := peel r3 b.isLt
  obtain ⟨g4, r5⟩ := peel r4 a.isLt
  obtain ⟨g5, r6⟩ := peel r5 d.isLt
  obtain ⟨c6, -⟩ := peel r6 (by decide)
  have f0 : bits w 31 26 = 5 := c6
  have k0 : fld 3 0 w = g := fld_of g0
  have k1 : fld 1 3 w = y := fld_of g1
  have k2 : fld 1 4 w = x := fld_of g2
  have k3 : fld 7 5 w = b := fld_of g3
  have k4 : fld 7 12 w = a := fld_of g4
  have k5 : fld 7 19 w = d := fld_of g5
  show Option.filter Instr.wf (decodeVecRaw w) = _
  rw [decodeVecRaw_5 f0]
  simp only [k0, k1, k2, k3, k4, k5]
  exact filter_wf hwf

theorem vsubs (d : BitVec 7) (a : BitVec 7) (b : BitVec 7) (x : BitVec 1) (y : BitVec 1) (g : BitVec 3) : Statement (.vsubs d a b x y g) := by
  intro hwf w he
  have he : 402653184 + d.toNat * 524288 + a.toNat * 4096 + b.toNat * 32 + x.toNat * 16 + y.toNat * 8 + g.toNat * 1 = w := Option.some.inj he
  have r0 : w / 2 ^ 0 = g.toNat + 2 ^ 3 * (y.toNat + 2 ^ 1 * (x.toNat + 2 ^ 1 * (b.toNat + 2 ^ 7 * (a.toNat + 2 ^ 7 * (d.toNat + 2 ^ 7 * (6 + 2 ^ 6 * (0))))))) := by rw [← he, Nat.pow_zero, Nat.div_one]; ring
  obtain ⟨g0, r1⟩ := peel r0 g.isLt
  obtain ⟨g1, r2⟩ := peel r1 y.isLt
  obtain ⟨g2, r3⟩ := peel r2 x.isLt
  obtain ⟨g3, r4⟩ := peel r3 b.isLt
  obtain ⟨g4, r5⟩ := peel r4 a.isLt
  obtain ⟨g5, r6⟩ := peel r5 d.isLt
  obtain ⟨c6, -⟩ := peel r6 (by decide)
  have f0 : bits w 31 26 = 6 := c6
  have k0 : fld 3 0 w = g := fld_of g0
  have k1 : fld 1 3 w = y := fld_of g1
  have k2 : fld 1 4 w = x := fld_of g2
  have k3 : fld 7 5 w = b := fld_of g3
  have k4 : fld 7 12 w = a := fld_of g4
  have k5 : fld 7 19 w = d := fld_of g5
  show Option.filter Instr.wf (decodeVecRaw w) = _
  rw [decodeVecRaw_6 f0]
  simp only [k0, k1, k2, k3, k4, k5]
  exact filter_wf hwf

theorem vmin (d : BitVec 7) (a : BitVec 7) (b : BitVec 7) (x : BitVec 1) (y : BitVec 1) (g : BitVec 3) : Statement (.vmin d a b x y g) := by
  intro hwf w he
  have he : 469762048 + d.toNat * 524288 + a.toNat * 4096 + b.toNat * 32 + x.toNat * 16 + y.toNat * 8 + g.toNat * 1 = w := Option.some.inj he
  have r0 : w / 2 ^ 0 = g.toNat + 2 ^ 3 * (y.toNat + 2 ^ 1 * (x.toNat + 2 ^ 1 * (b.toNat + 2 ^ 7 * (a.toNat + 2 ^ 7 * (d.toNat + 2 ^ 7 * (7 + 2 ^ 6 * (0))))))) := by rw [← he, Nat.pow_zero, Nat.div_one]; ring
  obtain ⟨g0, r1⟩ := peel r0 g.isLt
  obtain ⟨g1, r2⟩ := peel r1 y.isLt
  obtain ⟨g2, r3⟩ := peel r2 x.isLt
  obtain ⟨g3, r4⟩ := peel r3 b.isLt
  obtain ⟨g4, r5⟩ := peel r4 a.isLt
  obtain ⟨g5, r6⟩ := peel r5 d.isLt
  obtain ⟨c6, -⟩ := peel r6 (by decide)
  have f0 : bits w 31 26 = 7 := c6
  have k0 : fld 3 0 w = g := fld_of g0
  have k1 : fld 1 3 w = y := fld_of g1
  have k2 : fld 1 4 w = x := fld_of g2
  have k3 : fld 7 5 w = b := fld_of g3
  have k4 : fld 7 12 w = a := fld_of g4
  have k5 : fld 7 19 w = d := fld_of g5
  show Option.filter Instr.wf (decodeVecRaw w) = _
  rw [decodeVecRaw_7 f0]
  simp only [k0, k1, k2, k3, k4, k5]
  exact filter_wf hwf

theorem vmax (d : BitVec 7) (a : BitVec 7) (b : BitVec 7) (x : BitVec 1) (y : BitVec 1) (g : BitVec 3) : Statement (.vmax d a b x y g) := by
  intro hwf w he
  have he : 536870912 + d.toNat * 524288 + a.toNat * 4096 + b.toNat * 32 + x.toNat * 16 + y.toNat * 8 + g.toNat * 1 = w := Option.some.inj he
  have r0 : w / 2 ^ 0 = g.toNat + 2 ^ 3 * (y.toNat + 2 ^ 1 * (x.toNat + 2 ^ 1 * (b.toNat + 2 ^ 7 * (a.toNat + 2 ^ 7 * (d.toNat + 2 ^ 7 * (8 + 2 ^ 6 * (0))))))) := by rw [← he, Nat.pow_zero, Nat.div_one]; ring
  obtain ⟨g0, r1⟩ := peel r0 g.isLt
  obtain ⟨g1, r2⟩ := peel r1 y.isLt
  obtain ⟨g2, r3⟩ := peel r2 x.isLt
  obtain ⟨g3, r4⟩ := peel r3 b.isLt
  obtain ⟨g4, r5⟩ := peel r4 a.isLt
  obtain ⟨g5, r6⟩ := peel r5 d.isLt
  obtain ⟨c6, -⟩ := peel r6 (by decide)
  have f0 : bits w 31 26 = 8 := c6
  have k0 : fld 3 0 w = g := fld_of g0
  have k1 : fld 1 3 w = y := fld_of g1
  have k2 : fld 1 4 w = x := fld_of g2
  have k3 : fld 7 5 w = b := fld_of g3
  have k4 : fld 7 12 w = a := fld_of g4
  have k5 : fld 7 19 w = d := fld_of g5
  show Option.filter Instr.wf (decodeVecRaw w) = _
  rw [decodeVecRaw_8 f0]
  simp only [k0, k1, k2, k3, k4, k5]
  exact filter_wf hwf

theorem vmulh (d : BitVec 7) (a : BitVec 7) (b : BitVec 7) (x : BitVec 1) (y : BitVec 1) (g : BitVec 3) : Statement (.vmulh d a b x y g) := by
  intro hwf w he
  have he : 603979776 + d.toNat * 524288 + a.toNat * 4096 + b.toNat * 32 + x.toNat * 16 + y.toNat * 8 + g.toNat * 1 = w := Option.some.inj he
  have r0 : w / 2 ^ 0 = g.toNat + 2 ^ 3 * (y.toNat + 2 ^ 1 * (x.toNat + 2 ^ 1 * (b.toNat + 2 ^ 7 * (a.toNat + 2 ^ 7 * (d.toNat + 2 ^ 7 * (9 + 2 ^ 6 * (0))))))) := by rw [← he, Nat.pow_zero, Nat.div_one]; ring
  obtain ⟨g0, r1⟩ := peel r0 g.isLt
  obtain ⟨g1, r2⟩ := peel r1 y.isLt
  obtain ⟨g2, r3⟩ := peel r2 x.isLt
  obtain ⟨g3, r4⟩ := peel r3 b.isLt
  obtain ⟨g4, r5⟩ := peel r4 a.isLt
  obtain ⟨g5, r6⟩ := peel r5 d.isLt
  obtain ⟨c6, -⟩ := peel r6 (by decide)
  have f0 : bits w 31 26 = 9 := c6
  have k0 : fld 3 0 w = g := fld_of g0
  have k1 : fld 1 3 w = y := fld_of g1
  have k2 : fld 1 4 w = x := fld_of g2
  have k3 : fld 7 5 w = b := fld_of g3
  have k4 : fld 7 12 w = a := fld_of g4
  have k5 : fld 7 19 w = d := fld_of g5
  show Option.filter Instr.wf (decodeVecRaw w) = _
  rw [decodeVecRaw_9 f0]
  simp only [k0, k1, k2, k3, k4, k5]
  exact filter_wf hwf

theorem vand (d : BitVec 7) (a : BitVec 7) (b : BitVec 7) (x : BitVec 1) (y : BitVec 1) (g : BitVec 3) : Statement (.vand d a b x y g) := by
  intro hwf w he
  have he : 671088640 + d.toNat * 524288 + a.toNat * 4096 + b.toNat * 32 + x.toNat * 16 + y.toNat * 8 + g.toNat * 1 = w := Option.some.inj he
  have r0 : w / 2 ^ 0 = g.toNat + 2 ^ 3 * (y.toNat + 2 ^ 1 * (x.toNat + 2 ^ 1 * (b.toNat + 2 ^ 7 * (a.toNat + 2 ^ 7 * (d.toNat + 2 ^ 7 * (10 + 2 ^ 6 * (0))))))) := by rw [← he, Nat.pow_zero, Nat.div_one]; ring
  obtain ⟨g0, r1⟩ := peel r0 g.isLt
  obtain ⟨g1, r2⟩ := peel r1 y.isLt
  obtain ⟨g2, r3⟩ := peel r2 x.isLt
  obtain ⟨g3, r4⟩ := peel r3 b.isLt
  obtain ⟨g4, r5⟩ := peel r4 a.isLt
  obtain ⟨g5, r6⟩ := peel r5 d.isLt
  obtain ⟨c6, -⟩ := peel r6 (by decide)
  have f0 : bits w 31 26 = 10 := c6
  have k0 : fld 3 0 w = g := fld_of g0
  have k1 : fld 1 3 w = y := fld_of g1
  have k2 : fld 1 4 w = x := fld_of g2
  have k3 : fld 7 5 w = b := fld_of g3
  have k4 : fld 7 12 w = a := fld_of g4
  have k5 : fld 7 19 w = d := fld_of g5
  show Option.filter Instr.wf (decodeVecRaw w) = _
  rw [decodeVecRaw_10 f0]
  simp only [k0, k1, k2, k3, k4, k5]
  exact filter_wf hwf

theorem vor (d : BitVec 7) (a : BitVec 7) (b : BitVec 7) (x : BitVec 1) (y : BitVec 1) (g : BitVec 3) : Statement (.vor d a b x y g) := by
  intro hwf w he
  have he : 738197504 + d.toNat * 524288 + a.toNat * 4096 + b.toNat * 32 + x.toNat * 16 + y.toNat * 8 + g.toNat * 1 = w := Option.some.inj he
  have r0 : w / 2 ^ 0 = g.toNat + 2 ^ 3 * (y.toNat + 2 ^ 1 * (x.toNat + 2 ^ 1 * (b.toNat + 2 ^ 7 * (a.toNat + 2 ^ 7 * (d.toNat + 2 ^ 7 * (11 + 2 ^ 6 * (0))))))) := by rw [← he, Nat.pow_zero, Nat.div_one]; ring
  obtain ⟨g0, r1⟩ := peel r0 g.isLt
  obtain ⟨g1, r2⟩ := peel r1 y.isLt
  obtain ⟨g2, r3⟩ := peel r2 x.isLt
  obtain ⟨g3, r4⟩ := peel r3 b.isLt
  obtain ⟨g4, r5⟩ := peel r4 a.isLt
  obtain ⟨g5, r6⟩ := peel r5 d.isLt
  obtain ⟨c6, -⟩ := peel r6 (by decide)
  have f0 : bits w 31 26 = 11 := c6
  have k0 : fld 3 0 w = g := fld_of g0
  have k1 : fld 1 3 w = y := fld_of g1
  have k2 : fld 1 4 w = x := fld_of g2
  have k3 : fld 7 5 w = b := fld_of g3
  have k4 : fld 7 12 w = a := fld_of g4
  have k5 : fld 7 19 w = d := fld_of g5
  show Option.filter Instr.wf (decodeVecRaw w) = _
  rw [decodeVecRaw_11 f0]
  simp only [k0, k1, k2, k3, k4, k5]
  exact filter_wf hwf

theorem vxor (d : BitVec 7) (a : BitVec 7) (b : BitVec 7) (x : BitVec 1) (y : BitVec 1) (g : BitVec 3) : Statement (.vxor d a b x y g) := by
  intro hwf w he
  have he : 805306368 + d.toNat * 524288 + a.toNat * 4096 + b.toNat * 32 + x.toNat * 16 + y.toNat * 8 + g.toNat * 1 = w := Option.some.inj he
  have r0 : w / 2 ^ 0 = g.toNat + 2 ^ 3 * (y.toNat + 2 ^ 1 * (x.toNat + 2 ^ 1 * (b.toNat + 2 ^ 7 * (a.toNat + 2 ^ 7 * (d.toNat + 2 ^ 7 * (12 + 2 ^ 6 * (0))))))) := by rw [← he, Nat.pow_zero, Nat.div_one]; ring
  obtain ⟨g0, r1⟩ := peel r0 g.isLt
  obtain ⟨g1, r2⟩ := peel r1 y.isLt
  obtain ⟨g2, r3⟩ := peel r2 x.isLt
  obtain ⟨g3, r4⟩ := peel r3 b.isLt
  obtain ⟨g4, r5⟩ := peel r4 a.isLt
  obtain ⟨g5, r6⟩ := peel r5 d.isLt
  obtain ⟨c6, -⟩ := peel r6 (by decide)
  have f0 : bits w 31 26 = 12 := c6
  have k0 : fld 3 0 w = g := fld_of g0
  have k1 : fld 1 3 w = y := fld_of g1
  have k2 : fld 1 4 w = x := fld_of g2
  have k3 : fld 7 5 w = b := fld_of g3
  have k4 : fld 7 12 w = a := fld_of g4
  have k5 : fld 7 19 w = d := fld_of g5
  show Option.filter Instr.wf (decodeVecRaw w) = _
  rw [decodeVecRaw_12 f0]
  simp only [k0, k1, k2, k3, k4, k5]
  exact filter_wf hwf

theorem vshl (d : BitVec 7) (a : BitVec 7) (b : BitVec 7) (x : BitVec 1) (y : BitVec 1) (g : BitVec 3) : Statement (.vshl d a b x y g) := by
  intro hwf w he
  have he : 872415232 + d.toNat * 524288 + a.toNat * 4096 + b.toNat * 32 + x.toNat * 16 + y.toNat * 8 + g.toNat * 1 = w := Option.some.inj he
  have r0 : w / 2 ^ 0 = g.toNat + 2 ^ 3 * (y.toNat + 2 ^ 1 * (x.toNat + 2 ^ 1 * (b.toNat + 2 ^ 7 * (a.toNat + 2 ^ 7 * (d.toNat + 2 ^ 7 * (13 + 2 ^ 6 * (0))))))) := by rw [← he, Nat.pow_zero, Nat.div_one]; ring
  obtain ⟨g0, r1⟩ := peel r0 g.isLt
  obtain ⟨g1, r2⟩ := peel r1 y.isLt
  obtain ⟨g2, r3⟩ := peel r2 x.isLt
  obtain ⟨g3, r4⟩ := peel r3 b.isLt
  obtain ⟨g4, r5⟩ := peel r4 a.isLt
  obtain ⟨g5, r6⟩ := peel r5 d.isLt
  obtain ⟨c6, -⟩ := peel r6 (by decide)
  have f0 : bits w 31 26 = 13 := c6
  have k0 : fld 3 0 w = g := fld_of g0
  have k1 : fld 1 3 w = y := fld_of g1
  have k2 : fld 1 4 w = x := fld_of g2
  have k3 : fld 7 5 w = b := fld_of g3
  have k4 : fld 7 12 w = a := fld_of g4
  have k5 : fld 7 19 w = d := fld_of g5
  show Option.filter Instr.wf (decodeVecRaw w) = _
  rw [decodeVecRaw_13 f0]
  simp only [k0, k1, k2, k3, k4, k5]
  exact filter_wf hwf

theorem vshr (d : BitVec 7) (a : BitVec 7) (b : BitVec 7) (x : BitVec 1) (y : BitVec 1) (g : BitVec 3) : Statement (.vshr d a b x y g) := by
  intro hwf w he
  have he : 939524096 + d.toNat * 524288 + a.toNat * 4096 + b.toNat * 32 + x.toNat * 16 + y.toNat * 8 + g.toNat * 1 = w := Option.some.inj he
  have r0 : w / 2 ^ 0 = g.toNat + 2 ^ 3 * (y.toNat + 2 ^ 1 * (x.toNat + 2 ^ 1 * (b.toNat + 2 ^ 7 * (a.toNat + 2 ^ 7 * (d.toNat + 2 ^ 7 * (14 + 2 ^ 6 * (0))))))) := by rw [← he, Nat.pow_zero, Nat.div_one]; ring
  obtain ⟨g0, r1⟩ := peel r0 g.isLt
  obtain ⟨g1, r2⟩ := peel r1 y.isLt
  obtain ⟨g2, r3⟩ := peel r2 x.isLt
  obtain ⟨g3, r4⟩ := peel r3 b.isLt
  obtain ⟨g4, r5⟩ := peel r4 a.isLt
  obtain ⟨g5, r6⟩ := peel r5 d.isLt
  obtain ⟨c6, -⟩ := peel r6 (by decide)
  have f0 : bits w 31 26 = 14 := c6
  have k0 : fld 3 0 w = g := fld_of g0
  have k1 : fld 1 3 w = y := fld_of g1
  have k2 : fld 1 4 w = x := fld_of g2
  have k3 : fld 7 5 w = b := fld_of g3
  have k4 : fld 7 12 w = a := fld_of g4
  have k5 : fld 7 19 w = d := fld_of g5
  show Option.filter Instr.wf (decodeVecRaw w) = _
  rw [decodeVecRaw_14 f0]
  simp only [k0, k1, k2, k3, k4, k5]
  exact filter_wf hwf

theorem vhash (d : BitVec 7) (a : BitVec 7) (b : BitVec 7) (x : BitVec 1) (y : BitVec 1) (g : BitVec 3) : Statement (.vhash d a b x y g) := by
  intro hwf w he
  have he : 1006632960 + d.toNat * 524288 + a.toNat * 4096 + b.toNat * 32 + x.toNat * 16 + y.toNat * 8 + g.toNat * 1 = w := Option.some.inj he
  have r0 : w / 2 ^ 0 = g.toNat + 2 ^ 3 * (y.toNat + 2 ^ 1 * (x.toNat + 2 ^ 1 * (b.toNat + 2 ^ 7 * (a.toNat + 2 ^ 7 * (d.toNat + 2 ^ 7 * (15 + 2 ^ 6 * (0))))))) := by rw [← he, Nat.pow_zero, Nat.div_one]; ring
  obtain ⟨g0, r1⟩ := peel r0 g.isLt
  obtain ⟨g1, r2⟩ := peel r1 y.isLt
  obtain ⟨g2, r3⟩ := peel r2 x.isLt
  obtain ⟨g3, r4⟩ := peel r3 b.isLt
  obtain ⟨g4, r5⟩ := peel r4 a.isLt
  obtain ⟨g5, r6⟩ := peel r5 d.isLt
  obtain ⟨c6, -⟩ := peel r6 (by decide)
  have f0 : bits w 31 26 = 15 := c6
  have k0 : fld 3 0 w = g := fld_of g0
  have k1 : fld 1 3 w = y := fld_of g1
  have k2 : fld 1 4 w = x := fld_of g2
  have k3 : fld 7 5 w = b := fld_of g3
  have k4 : fld 7 12 w = a := fld_of g4
  have k5 : fld 7 19 w = d := fld_of g5
  show Option.filter Instr.wf (decodeVecRaw w) = _
  rw [decodeVecRaw_15 f0]
  simp only [k0, k1, k2, k3, k4, k5]
  exact filter_wf hwf

theorem vceq (d : BitVec 3) (a : BitVec 7) (b : BitVec 7) (x : BitVec 1) (y : BitVec 1) (g : BitVec 3) : Statement (.vceq d a b x y g) := by
  intro hwf w he
  have he : 1073741824 + d.toNat * 524288 + a.toNat * 4096 + b.toNat * 32 + x.toNat * 16 + y.toNat * 8 + g.toNat * 1 = w := Option.some.inj he
  have r0 : w / 2 ^ 0 = g.toNat + 2 ^ 3 * (y.toNat + 2 ^ 1 * (x.toNat + 2 ^ 1 * (b.toNat + 2 ^ 7 * (a.toNat + 2 ^ 7 * (d.toNat + 2 ^ 3 * (0 + 2 ^ 4 * (16 + 2 ^ 6 * (0)))))))) := by rw [← he, Nat.pow_zero, Nat.div_one]; ring
  obtain ⟨g0, r1⟩ := peel r0 g.isLt
  obtain ⟨g1, r2⟩ := peel r1 y.isLt
  obtain ⟨g2, r3⟩ := peel r2 x.isLt
  obtain ⟨g3, r4⟩ := peel r3 b.isLt
  obtain ⟨g4, r5⟩ := peel r4 a.isLt
  obtain ⟨g5, r6⟩ := peel r5 d.isLt
  obtain ⟨c6, r7⟩ := peel r6 (by decide)
  obtain ⟨c7, -⟩ := peel r7 (by decide)
  have f0 : bits w 25 22 = 0 := c6
  have f1 : bits w 31 26 = 16 := c7
  have k0 : fld 3 0 w = g := fld_of g0
  have k1 : fld 1 3 w = y := fld_of g1
  have k2 : fld 1 4 w = x := fld_of g2
  have k3 : fld 7 5 w = b := fld_of g3
  have k4 : fld 7 12 w = a := fld_of g4
  have k5 : fld 3 19 w = d := fld_of g5
  show Option.filter Instr.wf (decodeVecRaw w) = _
  rw [decodeVecRaw_16 f1]
  simp only [f0, k0, k1, k2, k3, k4, k5, and_self, reduceIte, and_true, true_and, and_false, false_and, Nat.reduceEqDiff]
  exact filter_wf hwf

theorem vcne (d : BitVec 3) (a : BitVec 7) (b : BitVec 7) (x : BitVec 1) (y : BitVec 1) (g : BitVec 3) : Statement (.vcne d a b x y g) := by
  intro hwf w he
  have he : 1140850688 + d.toNat * 524288 + a.toNat * 4096 + b.toNat * 32 + x.toNat * 16 + y.toNat * 8 + g.toNat * 1 = w := Option.some.inj he
  have r0 : w / 2 ^ 0 = g.toNat + 2 ^ 3 * (y.toNat + 2 ^ 1 * (x.toNat + 2 ^ 1 * (b.toNat + 2 ^ 7 * (a.toNat + 2 ^ 7 * (d.toNat + 2 ^ 3 * (0 + 2 ^ 4 * (17 + 2 ^ 6 * (0)))))))) := by rw [← he, Nat.pow_zero, Nat.div_one]; ring
  obtain ⟨g0, r1⟩ := peel r0 g.isLt
  obtain ⟨g1, r2⟩ := peel r1 y.isLt
  obtain ⟨g2, r3⟩ := peel r2 x.isLt
  obtain ⟨g3, r4⟩ := peel r3 b.isLt
  obtain ⟨g4, r5⟩ := peel r4 a.isLt
  obtain ⟨g5, r6⟩ := peel r5 d.isLt
  obtain ⟨c6, r7⟩ := peel r6 (by decide)
  obtain ⟨c7, -⟩ := peel r7 (by decide)
  have f0 : bits w 25 22 = 0 := c6
  have f1 : bits w 31 26 = 17 := c7
  have k0 : fld 3 0 w = g := fld_of g0
  have k1 : fld 1 3 w = y := fld_of g1
  have k2 : fld 1 4 w = x := fld_of g2
  have k3 : fld 7 5 w = b := fld_of g3
  have k4 : fld 7 12 w = a := fld_of g4
  have k5 : fld 3 19 w = d := fld_of g5
  show Option.filter Instr.wf (decodeVecRaw w) = _
  rw [decodeVecRaw_17 f1]
  simp only [f0, k0, k1, k2, k3, k4, k5, and_self, reduceIte, and_true, true_and, and_false, false_and, Nat.reduceEqDiff]
  exact filter_wf hwf

theorem vclt (d : BitVec 3) (a : BitVec 7) (b : BitVec 7) (x : BitVec 1) (y : BitVec 1) (g : BitVec 3) : Statement (.vclt d a b x y g) := by
  intro hwf w he
  have he : 1207959552 + d.toNat * 524288 + a.toNat * 4096 + b.toNat * 32 + x.toNat * 16 + y.toNat * 8 + g.toNat * 1 = w := Option.some.inj he
  have r0 : w / 2 ^ 0 = g.toNat + 2 ^ 3 * (y.toNat + 2 ^ 1 * (x.toNat + 2 ^ 1 * (b.toNat + 2 ^ 7 * (a.toNat + 2 ^ 7 * (d.toNat + 2 ^ 3 * (0 + 2 ^ 4 * (18 + 2 ^ 6 * (0)))))))) := by rw [← he, Nat.pow_zero, Nat.div_one]; ring
  obtain ⟨g0, r1⟩ := peel r0 g.isLt
  obtain ⟨g1, r2⟩ := peel r1 y.isLt
  obtain ⟨g2, r3⟩ := peel r2 x.isLt
  obtain ⟨g3, r4⟩ := peel r3 b.isLt
  obtain ⟨g4, r5⟩ := peel r4 a.isLt
  obtain ⟨g5, r6⟩ := peel r5 d.isLt
  obtain ⟨c6, r7⟩ := peel r6 (by decide)
  obtain ⟨c7, -⟩ := peel r7 (by decide)
  have f0 : bits w 25 22 = 0 := c6
  have f1 : bits w 31 26 = 18 := c7
  have k0 : fld 3 0 w = g := fld_of g0
  have k1 : fld 1 3 w = y := fld_of g1
  have k2 : fld 1 4 w = x := fld_of g2
  have k3 : fld 7 5 w = b := fld_of g3
  have k4 : fld 7 12 w = a := fld_of g4
  have k5 : fld 3 19 w = d := fld_of g5
  show Option.filter Instr.wf (decodeVecRaw w) = _
  rw [decodeVecRaw_18 f1]
  simp only [f0, k0, k1, k2, k3, k4, k5, and_self, reduceIte, and_true, true_and, and_false, false_and, Nat.reduceEqDiff]
  exact filter_wf hwf

theorem vcle (d : BitVec 3) (a : BitVec 7) (b : BitVec 7) (x : BitVec 1) (y : BitVec 1) (g : BitVec 3) : Statement (.vcle d a b x y g) := by
  intro hwf w he
  have he : 1275068416 + d.toNat * 524288 + a.toNat * 4096 + b.toNat * 32 + x.toNat * 16 + y.toNat * 8 + g.toNat * 1 = w := Option.some.inj he
  have r0 : w / 2 ^ 0 = g.toNat + 2 ^ 3 * (y.toNat + 2 ^ 1 * (x.toNat + 2 ^ 1 * (b.toNat + 2 ^ 7 * (a.toNat + 2 ^ 7 * (d.toNat + 2 ^ 3 * (0 + 2 ^ 4 * (19 + 2 ^ 6 * (0)))))))) := by rw [← he, Nat.pow_zero, Nat.div_one]; ring
  obtain ⟨g0, r1⟩ := peel r0 g.isLt
  obtain ⟨g1, r2⟩ := peel r1 y.isLt
  obtain ⟨g2, r3⟩ := peel r2 x.isLt
  obtain ⟨g3, r4⟩ := peel r3 b.isLt
  obtain ⟨g4, r5⟩ := peel r4 a.isLt
  obtain ⟨g5, r6⟩ := peel r5 d.isLt
  obtain ⟨c6, r7⟩ := peel r6 (by decide)
  obtain ⟨c7, -⟩ := peel r7 (by decide)
  have f0 : bits w 25 22 = 0 := c6
  have f1 : bits w 31 26 = 19 := c7
  have k0 : fld 3 0 w = g := fld_of g0
  have k1 : fld 1 3 w = y := fld_of g1
  have k2 : fld 1 4 w = x := fld_of g2
  have k3 : fld 7 5 w = b := fld_of g3
  have k4 : fld 7 12 w = a := fld_of g4
  have k5 : fld 3 19 w = d := fld_of g5
  show Option.filter Instr.wf (decodeVecRaw w) = _
  rw [decodeVecRaw_19 f1]
  simp only [f0, k0, k1, k2, k3, k4, k5, and_self, reduceIte, and_true, true_and, and_false, false_and, Nat.reduceEqDiff]
  exact filter_wf hwf

theorem vcgt (d : BitVec 3) (a : BitVec 7) (b : BitVec 7) (x : BitVec 1) (y : BitVec 1) (g : BitVec 3) : Statement (.vcgt d a b x y g) := by
  intro hwf w he
  have he : 1342177280 + d.toNat * 524288 + a.toNat * 4096 + b.toNat * 32 + x.toNat * 16 + y.toNat * 8 + g.toNat * 1 = w := Option.some.inj he
  have r0 : w / 2 ^ 0 = g.toNat + 2 ^ 3 * (y.toNat + 2 ^ 1 * (x.toNat + 2 ^ 1 * (b.toNat + 2 ^ 7 * (a.toNat + 2 ^ 7 * (d.toNat + 2 ^ 3 * (0 + 2 ^ 4 * (20 + 2 ^ 6 * (0)))))))) := by rw [← he, Nat.pow_zero, Nat.div_one]; ring
  obtain ⟨g0, r1⟩ := peel r0 g.isLt
  obtain ⟨g1, r2⟩ := peel r1 y.isLt
  obtain ⟨g2, r3⟩ := peel r2 x.isLt
  obtain ⟨g3, r4⟩ := peel r3 b.isLt
  obtain ⟨g4, r5⟩ := peel r4 a.isLt
  obtain ⟨g5, r6⟩ := peel r5 d.isLt
  obtain ⟨c6, r7⟩ := peel r6 (by decide)
  obtain ⟨c7, -⟩ := peel r7 (by decide)
  have f0 : bits w 25 22 = 0 := c6
  have f1 : bits w 31 26 = 20 := c7
  have k0 : fld 3 0 w = g := fld_of g0
  have k1 : fld 1 3 w = y := fld_of g1
  have k2 : fld 1 4 w = x := fld_of g2
  have k3 : fld 7 5 w = b := fld_of g3
  have k4 : fld 7 12 w = a := fld_of g4
  have k5 : fld 3 19 w = d := fld_of g5
  show Option.filter Instr.wf (decodeVecRaw w) = _
  rw [decodeVecRaw_20 f1]
  simp only [f0, k0, k1, k2, k3, k4, k5, and_self, reduceIte, and_true, true_and, and_false, false_and, Nat.reduceEqDiff]
  exact filter_wf hwf

theorem vcge (d : BitVec 3) (a : BitVec 7) (b : BitVec 7) (x : BitVec 1) (y : BitVec 1) (g : BitVec 3) : Statement (.vcge d a b x y g) := by
  intro hwf w he
  have he : 1409286144 + d.toNat * 524288 + a.toNat * 4096 + b.toNat * 32 + x.toNat * 16 + y.toNat * 8 + g.toNat * 1 = w := Option.some.inj he
  have r0 : w / 2 ^ 0 = g.toNat + 2 ^ 3 * (y.toNat + 2 ^ 1 * (x.toNat + 2 ^ 1 * (b.toNat + 2 ^ 7 * (a.toNat + 2 ^ 7 * (d.toNat + 2 ^ 3 * (0 + 2 ^ 4 * (21 + 2 ^ 6 * (0)))))))) := by rw [← he, Nat.pow_zero, Nat.div_one]; ring
  obtain ⟨g0, r1⟩ := peel r0 g.isLt
  obtain ⟨g1, r2⟩ := peel r1 y.isLt
  obtain ⟨g2, r3⟩ := peel r2 x.isLt
  obtain ⟨g3, r4⟩ := peel r3 b.isLt
  obtain ⟨g4, r5⟩ := peel r4 a.isLt
  obtain ⟨g5, r6⟩ := peel r5 d.isLt
  obtain ⟨c6, r7⟩ := peel r6 (by decide)
  obtain ⟨c7, -⟩ := peel r7 (by decide)
  have f0 : bits w 25 22 = 0 := c6
  have f1 : bits w 31 26 = 21 := c7
  have k0 : fld 3 0 w = g := fld_of g0
  have k1 : fld 1 3 w = y := fld_of g1
  have k2 : fld 1 4 w = x := fld_of g2
  have k3 : fld 7 5 w = b := fld_of g3
  have k4 : fld 7 12 w = a := fld_of g4
  have k5 : fld 3 19 w = d := fld_of g5
  show Option.filter Instr.wf (decodeVecRaw w) = _
  rw [decodeVecRaw_21 f1]
  simp only [f0, k0, k1, k2, k3, k4, k5, and_self, reduceIte, and_true, true_and, and_false, false_and, Nat.reduceEqDiff]
  exact filter_wf hwf

theorem vsel (d : BitVec 7) (a : BitVec 7) (b : BitVec 7) (x : BitVec 1) (y : BitVec 1) (g : BitVec 3) : Statement (.vsel d a b x y g) := by
  intro hwf w he
  have he : 1476395008 + d.toNat * 524288 + a.toNat * 4096 + b.toNat * 32 + x.toNat * 16 + y.toNat * 8 + g.toNat * 1 = w := Option.some.inj he
  have r0 : w / 2 ^ 0 = g.toNat + 2 ^ 3 * (y.toNat + 2 ^ 1 * (x.toNat + 2 ^ 1 * (b.toNat + 2 ^ 7 * (a.toNat + 2 ^ 7 * (d.toNat + 2 ^ 7 * (22 + 2 ^ 6 * (0))))))) := by rw [← he, Nat.pow_zero, Nat.div_one]; ring
  obtain ⟨g0, r1⟩ := peel r0 g.isLt
  obtain ⟨g1, r2⟩ := peel r1 y.isLt
  obtain ⟨g2, r3⟩ := peel r2 x.isLt
  obtain ⟨g3, r4⟩ := peel r3 b.isLt
  obtain ⟨g4, r5⟩ := peel r4 a.isLt
  obtain ⟨g5, r6⟩ := peel r5 d.isLt
  obtain ⟨c6, -⟩ := peel r6 (by decide)
  have f0 : bits w 31 26 = 22 := c6
  have k0 : fld 3 0 w = g := fld_of g0
  have k1 : fld 1 3 w = y := fld_of g1
  have k2 : fld 1 4 w = x := fld_of g2
  have k3 : fld 7 5 w = b := fld_of g3
  have k4 : fld 7 12 w = a := fld_of g4
  have k5 : fld 7 19 w = d := fld_of g5
  show Option.filter Instr.wf (decodeVecRaw w) = _
  rw [decodeVecRaw_22 f0]
  simp only [k0, k1, k2, k3, k4, k5]
  exact filter_wf hwf

theorem vmov (d : BitVec 7) (a : BitVec 7) (x : BitVec 1) (g : BitVec 3) : Statement (.vmov d a x g) := by
  intro hwf w he
  have he : 1543503872 + d.toNat * 524288 + a.toNat * 4096 + x.toNat * 16 + g.toNat * 1 = w := Option.some.inj he
  have r0 : w / 2 ^ 0 = g.toNat + 2 ^ 3 * (0 + 2 ^ 1 * (x.toNat + 2 ^ 1 * (0 + 2 ^ 7 * (a.toNat + 2 ^ 7 * (d.toNat + 2 ^ 7 * (23 + 2 ^ 6 * (0))))))) := by rw [← he, Nat.pow_zero, Nat.div_one]; ring
  obtain ⟨g0, r1⟩ := peel r0 g.isLt
  obtain ⟨c1, r2⟩ := peel r1 (by decide)
  obtain ⟨g2, r3⟩ := peel r2 x.isLt
  obtain ⟨c3, r4⟩ := peel r3 (by decide)
  obtain ⟨g4, r5⟩ := peel r4 a.isLt
  obtain ⟨g5, r6⟩ := peel r5 d.isLt
  obtain ⟨c6, -⟩ := peel r6 (by decide)
  have f0 : bits w 3 3 = 0 := c1
  have f1 : bits w 11 5 = 0 := c3
  have f2 : bits w 31 26 = 23 := c6
  have k0 : fld 3 0 w = g := fld_of g0
  have k2 : fld 1 4 w = x := fld_of g2
  have k4 : fld 7 12 w = a := fld_of g4
  have k5 : fld 7 19 w = d := fld_of g5
  show Option.filter Instr.wf (decodeVecRaw w) = _
  rw [decodeVecRaw_23 f2]
  simp only [f0, f1, k0, k2, k4, k5, and_self, reduceIte, and_true, true_and, and_false, false_and, Nat.reduceEqDiff]
  exact filter_wf hwf

theorem vcvt (d : BitVec 7) (a : BitVec 7) (m : BitVec 3) (t : BitVec 4) (x : BitVec 1) (g : BitVec 3) : Statement (.vcvt d a m t x g) := by
  intro hwf w he
  have he : 1610612736 + d.toNat * 524288 + a.toNat * 4096 + m.toNat * 512 + t.toNat * 32 + x.toNat * 16 + g.toNat * 1 = w := Option.some.inj he
  have r0 : w / 2 ^ 0 = g.toNat + 2 ^ 3 * (0 + 2 ^ 1 * (x.toNat + 2 ^ 1 * (t.toNat + 2 ^ 4 * (m.toNat + 2 ^ 3 * (a.toNat + 2 ^ 7 * (d.toNat + 2 ^ 7 * (24 + 2 ^ 6 * (0)))))))) := by rw [← he, Nat.pow_zero, Nat.div_one]; ring
  obtain ⟨g0, r1⟩ := peel r0 g.isLt
  obtain ⟨c1, r2⟩ := peel r1 (by decide)
  obtain ⟨g2, r3⟩ := peel r2 x.isLt
  obtain ⟨g3, r4⟩ := peel r3 t.isLt
  obtain ⟨g4, r5⟩ := peel r4 m.isLt
  obtain ⟨g5, r6⟩ := peel r5 a.isLt
  obtain ⟨g6, r7⟩ := peel r6 d.isLt
  obtain ⟨c7, -⟩ := peel r7 (by decide)
  have f0 : bits w 3 3 = 0 := c1
  have f1 : bits w 31 26 = 24 := c7
  have k0 : fld 3 0 w = g := fld_of g0
  have k2 : fld 1 4 w = x := fld_of g2
  have k3 : fld 4 5 w = t := fld_of g3
  have k4 : fld 3 9 w = m := fld_of g4
  have k5 : fld 7 12 w = a := fld_of g5
  have k6 : fld 7 19 w = d := fld_of g6
  show Option.filter Instr.wf (decodeVecRaw w) = _
  rw [decodeVecRaw_24 f1]
  simp only [f0, k0, k2, k3, k4, k5, k6, and_self, reduceIte, and_true, true_and, and_false, false_and, Nat.reduceEqDiff]
  exact filter_wf hwf

theorem vqnt (d : BitVec 7) (a : BitVec 7) (m : BitVec 3) (t : BitVec 2) (x : BitVec 1) (g : BitVec 3) : Statement (.vqnt d a m t x g) := by
  intro hwf w he
  have he : 1677721600 + d.toNat * 524288 + a.toNat * 4096 + m.toNat * 512 + t.toNat * 32 + x.toNat * 16 + g.toNat * 1 = w := Option.some.inj he
  have r0 : w / 2 ^ 0 = g.toNat + 2 ^ 3 * (0 + 2 ^ 1 * (x.toNat + 2 ^ 1 * (t.toNat + 2 ^ 2 * (0 + 2 ^ 2 * (m.toNat + 2 ^ 3 * (a.toNat + 2 ^ 7 * (d.toNat + 2 ^ 7 * (25 + 2 ^ 6 * (0))))))))) := by rw [← he, Nat.pow_zero, Nat.div_one]; ring
  obtain ⟨g0, r1⟩ := peel r0 g.isLt
  obtain ⟨c1, r2⟩ := peel r1 (by decide)
  obtain ⟨g2, r3⟩ := peel r2 x.isLt
  obtain ⟨g3, r4⟩ := peel r3 t.isLt
  obtain ⟨c4, r5⟩ := peel r4 (by decide)
  obtain ⟨g5, r6⟩ := peel r5 m.isLt
  obtain ⟨g6, r7⟩ := peel r6 a.isLt
  obtain ⟨g7, r8⟩ := peel r7 d.isLt
  obtain ⟨c8, -⟩ := peel r8 (by decide)
  have f0 : bits w 3 3 = 0 := c1
  have f1 : bits w 8 7 = 0 := c4
  have f2 : bits w 31 26 = 25 := c8
  have k0 : fld 3 0 w = g := fld_of g0
  have k2 : fld 1 4 w = x := fld_of g2
  have k3 : fld 2 5 w = t := fld_of g3
  have k5 : fld 3 9 w = m := fld_of g5
  have k6 : fld 7 12 w = a := fld_of g6
  have k7 : fld 7 19 w = d := fld_of g7
  show Option.filter Instr.wf (decodeVecRaw w) = _
  rw [decodeVecRaw_25 f2]
  simp only [f0, f1, k0, k2, k3, k5, k6, k7, and_self, reduceIte, and_true, true_and, and_false, false_and, Nat.reduceEqDiff]
  exact filter_wf hwf

theorem vdq (d : BitVec 7) (a : BitVec 7) (b : BitVec 7) (x : BitVec 1) (y : BitVec 1) (g : BitVec 3) : Statement (.vdq d a b x y g) := by
  intro hwf w he
  have he : 1744830464 + d.toNat * 524288 + a.toNat * 4096 + b.toNat * 32 + x.toNat * 16 + y.toNat * 8 + g.toNat * 1 = w := Option.some.inj he
  have r0 : w / 2 ^ 0 = g.toNat + 2 ^ 3 * (y.toNat + 2 ^ 1 * (x.toNat + 2 ^ 1 * (b.toNat + 2 ^ 7 * (a.toNat + 2 ^ 7 * (d.toNat + 2 ^ 7 * (26 + 2 ^ 6 * (0))))))) := by rw [← he, Nat.pow_zero, Nat.div_one]; ring
  obtain ⟨g0, r1⟩ := peel r0 g.isLt
  obtain ⟨g1, r2⟩ := peel r1 y.isLt
  obtain ⟨g2, r3⟩ := peel r2 x.isLt
  obtain ⟨g3, r4⟩ := peel r3 b.isLt
  obtain ⟨g4, r5⟩ := peel r4 a.isLt
  obtain ⟨g5, r6⟩ := peel r5 d.isLt
  obtain ⟨c6, -⟩ := peel r6 (by decide)
  have f0 : bits w 31 26 = 26 := c6
  have k0 : fld 3 0 w = g := fld_of g0
  have k1 : fld 1 3 w = y := fld_of g1
  have k2 : fld 1 4 w = x := fld_of g2
  have k3 : fld 7 5 w = b := fld_of g3
  have k4 : fld 7 12 w = a := fld_of g4
  have k5 : fld 7 19 w = d := fld_of g5
  show Option.filter Instr.wf (decodeVecRaw w) = _
  rw [decodeVecRaw_26 f0]
  simp only [k0, k1, k2, k3, k4, k5]
  exact filter_wf hwf

theorem vaddi (d : BitVec 7) (a : BitVec 7) (i : BitVec 9) (g : BitVec 3) : Statement (.vaddi d a i g) := by
  intro hwf w he
  have he : 2147483648 + d.toNat * 524288 + a.toNat * 4096 + i.toNat * 8 + g.toNat * 1 = w := Option.some.inj he
  have r0 : w / 2 ^ 0 = g.toNat + 2 ^ 3 * (i.toNat + 2 ^ 9 * (a.toNat + 2 ^ 7 * (d.toNat + 2 ^ 7 * (32 + 2 ^ 6 * (0))))) := by rw [← he, Nat.pow_zero, Nat.div_one]; ring
  obtain ⟨g0, r1⟩ := peel r0 g.isLt
  obtain ⟨g1, r2⟩ := peel r1 i.isLt
  obtain ⟨g2, r3⟩ := peel r2 a.isLt
  obtain ⟨g3, r4⟩ := peel r3 d.isLt
  obtain ⟨c4, -⟩ := peel r4 (by decide)
  have f0 : bits w 31 26 = 32 := c4
  have k0 : fld 3 0 w = g := fld_of g0
  have k1 : fld 9 3 w = i := fld_of g1
  have k2 : fld 7 12 w = a := fld_of g2
  have k3 : fld 7 19 w = d := fld_of g3
  show Option.filter Instr.wf (decodeVecRaw w) = _
  rw [decodeVecRaw_32 f0]
  simp only [k0, k1, k2, k3]
  exact filter_wf hwf

theorem vmuli (d : BitVec 7) (a : BitVec 7) (i : BitVec 9) (g : BitVec 3) : Statement (.vmuli d a i g) := by
  intro hwf w he
  have he : 2214592512 + d.toNat * 524288 + a.toNat * 4096 + i.toNat * 8 + g.toNat * 1 = w := Option.some.inj he
  have r0 : w / 2 ^ 0 = g.toNat + 2 ^ 3 * (i.toNat + 2 ^ 9 * (a.toNat + 2 ^ 7 * (d.toNat + 2 ^ 7 * (33 + 2 ^ 6 * (0))))) := by rw [← he, Nat.pow_zero, Nat.div_one]; ring
  obtain ⟨g0, r1⟩ := peel r0 g.isLt
  obtain ⟨g1, r2⟩ := peel r1 i.isLt
  obtain ⟨g2, r3⟩ := peel r2 a.isLt
  obtain ⟨g3, r4⟩ := peel r3 d.isLt
  obtain ⟨c4, -⟩ := peel r4 (by decide)
  have f0 : bits w 31 26 = 33 := c4
  have k0 : fld 3 0 w = g := fld_of g0
  have k1 : fld 9 3 w = i := fld_of g1
  have k2 : fld 7 12 w = a := fld_of g2
  have k3 : fld 7 19 w = d := fld_of g3
  show Option.filter Instr.wf (decodeVecRaw w) = _
  rw [decodeVecRaw_33 f0]
  simp only [k0, k1, k2, k3]
  exact filter_wf hwf

theorem vandi (d : BitVec 7) (a : BitVec 7) (i : BitVec 9) (g : BitVec 3) : Statement (.vandi d a i g) := by
  intro hwf w he
  have he : 2281701376 + d.toNat * 524288 + a.toNat * 4096 + i.toNat * 8 + g.toNat * 1 = w := Option.some.inj he
  have r0 : w / 2 ^ 0 = g.toNat + 2 ^ 3 * (i.toNat + 2 ^ 9 * (a.toNat + 2 ^ 7 * (d.toNat + 2 ^ 7 * (34 + 2 ^ 6 * (0))))) := by rw [← he, Nat.pow_zero, Nat.div_one]; ring
  obtain ⟨g0, r1⟩ := peel r0 g.isLt
  obtain ⟨g1, r2⟩ := peel r1 i.isLt
  obtain ⟨g2, r3⟩ := peel r2 a.isLt
  obtain ⟨g3, r4⟩ := peel r3 d.isLt
  obtain ⟨c4, -⟩ := peel r4 (by decide)
  have f0 : bits w 31 26 = 34 := c4
  have k0 : fld 3 0 w = g := fld_of g0
  have k1 : fld 9 3 w = i := fld_of g1
  have k2 : fld 7 12 w = a := fld_of g2
  have k3 : fld 7 19 w = d := fld_of g3
  show Option.filter Instr.wf (decodeVecRaw w) = _
  rw [decodeVecRaw_34 f0]
  simp only [k0, k1, k2, k3]
  exact filter_wf hwf

theorem vori (d : BitVec 7) (a : BitVec 7) (i : BitVec 9) (g : BitVec 3) : Statement (.vori d a i g) := by
  intro hwf w he
  have he : 2348810240 + d.toNat * 524288 + a.toNat * 4096 + i.toNat * 8 + g.toNat * 1 = w := Option.some.inj he
  have r0 : w / 2 ^ 0 = g.toNat + 2 ^ 3 * (i.toNat + 2 ^ 9 * (a.toNat + 2 ^ 7 * (d.toNat + 2 ^ 7 * (35 + 2 ^ 6 * (0))))) := by rw [← he, Nat.pow_zero, Nat.div_one]; ring
  obtain ⟨g0, r1⟩ := peel r0 g.isLt
  obtain ⟨g1, r2⟩ := peel r1 i.isLt
  obtain ⟨g2, r3⟩ := peel r2 a.isLt
  obtain ⟨g3, r4⟩ := peel r3 d.isLt
  obtain ⟨c4, -⟩ := peel r4 (by decide)
  have f0 : bits w 31 26 = 35 := c4
  have k0 : fld 3 0 w = g := fld_of g0
  have k1 : fld 9 3 w = i := fld_of g1
  have k2 : fld 7 12 w = a := fld_of g2
  have k3 : fld 7 19 w = d := fld_of g3
  show Option.filter Instr.wf (decodeVecRaw w) = _
  rw [decodeVecRaw_35 f0]
  simp only [k0, k1, k2, k3]
  exact filter_wf hwf

theorem vxori (d : BitVec 7) (a : BitVec 7) (i : BitVec 9) (g : BitVec 3) : Statement (.vxori d a i g) := by
  intro hwf w he
  have he : 2415919104 + d.toNat * 524288 + a.toNat * 4096 + i.toNat * 8 + g.toNat * 1 = w := Option.some.inj he
  have r0 : w / 2 ^ 0 = g.toNat + 2 ^ 3 * (i.toNat + 2 ^ 9 * (a.toNat + 2 ^ 7 * (d.toNat + 2 ^ 7 * (36 + 2 ^ 6 * (0))))) := by rw [← he, Nat.pow_zero, Nat.div_one]; ring
  obtain ⟨g0, r1⟩ := peel r0 g.isLt
  obtain ⟨g1, r2⟩ := peel r1 i.isLt
  obtain ⟨g2, r3⟩ := peel r2 a.isLt
  obtain ⟨g3, r4⟩ := peel r3 d.isLt
  obtain ⟨c4, -⟩ := peel r4 (by decide)
  have f0 : bits w 31 26 = 36 := c4
  have k0 : fld 3 0 w = g := fld_of g0
  have k1 : fld 9 3 w = i := fld_of g1
  have k2 : fld 7 12 w = a := fld_of g2
  have k3 : fld 7 19 w = d := fld_of g3
  show Option.filter Instr.wf (decodeVecRaw w) = _
  rw [decodeVecRaw_36 f0]
  simp only [k0, k1, k2, k3]
  exact filter_wf hwf

theorem vshli (d : BitVec 7) (a : BitVec 7) (i : BitVec 9) (g : BitVec 3) : Statement (.vshli d a i g) := by
  intro hwf w he
  have he : 2483027968 + d.toNat * 524288 + a.toNat * 4096 + i.toNat * 8 + g.toNat * 1 = w := Option.some.inj he
  have r0 : w / 2 ^ 0 = g.toNat + 2 ^ 3 * (i.toNat + 2 ^ 9 * (a.toNat + 2 ^ 7 * (d.toNat + 2 ^ 7 * (37 + 2 ^ 6 * (0))))) := by rw [← he, Nat.pow_zero, Nat.div_one]; ring
  obtain ⟨g0, r1⟩ := peel r0 g.isLt
  obtain ⟨g1, r2⟩ := peel r1 i.isLt
  obtain ⟨g2, r3⟩ := peel r2 a.isLt
  obtain ⟨g3, r4⟩ := peel r3 d.isLt
  obtain ⟨c4, -⟩ := peel r4 (by decide)
  have f0 : bits w 31 26 = 37 := c4
  have k0 : fld 3 0 w = g := fld_of g0
  have k1 : fld 9 3 w = i := fld_of g1
  have k2 : fld 7 12 w = a := fld_of g2
  have k3 : fld 7 19 w = d := fld_of g3
  show Option.filter Instr.wf (decodeVecRaw w) = _
  rw [decodeVecRaw_37 f0]
  simp only [k0, k1, k2, k3]
  exact filter_wf hwf

theorem vshri (d : BitVec 7) (a : BitVec 7) (i : BitVec 9) (g : BitVec 3) : Statement (.vshri d a i g) := by
  intro hwf w he
  have he : 2550136832 + d.toNat * 524288 + a.toNat * 4096 + i.toNat * 8 + g.toNat * 1 = w := Option.some.inj he
  have r0 : w / 2 ^ 0 = g.toNat + 2 ^ 3 * (i.toNat + 2 ^ 9 * (a.toNat + 2 ^ 7 * (d.toNat + 2 ^ 7 * (38 + 2 ^ 6 * (0))))) := by rw [← he, Nat.pow_zero, Nat.div_one]; ring
  obtain ⟨g0, r1⟩ := peel r0 g.isLt
  obtain ⟨g1, r2⟩ := peel r1 i.isLt
  obtain ⟨g2, r3⟩ := peel r2 a.isLt
  obtain ⟨g3, r4⟩ := peel r3 d.isLt
  obtain ⟨c4, -⟩ := peel r4 (by decide)
  have f0 : bits w 31 26 = 38 := c4
  have k0 : fld 3 0 w = g := fld_of g0
  have k1 : fld 9 3 w = i := fld_of g1
  have k2 : fld 7 12 w = a := fld_of g2
  have k3 : fld 7 19 w = d := fld_of g3
  show Option.filter Instr.wf (decodeVecRaw w) = _
  rw [decodeVecRaw_38 f0]
  simp only [k0, k1, k2, k3]
  exact filter_wf hwf

theorem vsplat (d : BitVec 7) (i : BitVec 9) (g : BitVec 3) : Statement (.vsplat d i g) := by
  intro hwf w he
  have he : 2617245696 + d.toNat * 524288 + i.toNat * 8 + g.toNat * 1 = w := Option.some.inj he
  have r0 : w / 2 ^ 0 = g.toNat + 2 ^ 3 * (i.toNat + 2 ^ 9 * (0 + 2 ^ 7 * (d.toNat + 2 ^ 7 * (39 + 2 ^ 6 * (0))))) := by rw [← he, Nat.pow_zero, Nat.div_one]; ring
  obtain ⟨g0, r1⟩ := peel r0 g.isLt
  obtain ⟨g1, r2⟩ := peel r1 i.isLt
  obtain ⟨c2, r3⟩ := peel r2 (by decide)
  obtain ⟨g3, r4⟩ := peel r3 d.isLt
  obtain ⟨c4, -⟩ := peel r4 (by decide)
  have f0 : bits w 18 12 = 0 := c2
  have f1 : bits w 31 26 = 39 := c4
  have k0 : fld 3 0 w = g := fld_of g0
  have k1 : fld 9 3 w = i := fld_of g1
  have k3 : fld 7 19 w = d := fld_of g3
  show Option.filter Instr.wf (decodeVecRaw w) = _
  rw [decodeVecRaw_39 f1]
  simp only [f0, k0, k1, k3, and_self, reduceIte, and_true, true_and, and_false, false_and, Nat.reduceEqDiff]
  exact filter_wf hwf

theorem vmini (d : BitVec 7) (a : BitVec 7) (i : BitVec 9) (g : BitVec 3) : Statement (.vmini d a i g) := by
  intro hwf w he
  have he : 2684354560 + d.toNat * 524288 + a.toNat * 4096 + i.toNat * 8 + g.toNat * 1 = w := Option.some.inj he
  have r0 : w / 2 ^ 0 = g.toNat + 2 ^ 3 * (i.toNat + 2 ^ 9 * (a.toNat + 2 ^ 7 * (d.toNat + 2 ^ 7 * (40 + 2 ^ 6 * (0))))) := by rw [← he, Nat.pow_zero, Nat.div_one]; ring
  obtain ⟨g0, r1⟩ := peel r0 g.isLt
  obtain ⟨g1, r2⟩ := peel r1 i.isLt
  obtain ⟨g2, r3⟩ := peel r2 a.isLt
  obtain ⟨g3, r4⟩ := peel r3 d.isLt
  obtain ⟨c4, -⟩ := peel r4 (by decide)
  have f0 : bits w 31 26 = 40 := c4
  have k0 : fld 3 0 w = g := fld_of g0
  have k1 : fld 9 3 w = i := fld_of g1
  have k2 : fld 7 12 w = a := fld_of g2
  have k3 : fld 7 19 w = d := fld_of g3
  show Option.filter Instr.wf (decodeVecRaw w) = _
  rw [decodeVecRaw_40 f0]
  simp only [k0, k1, k2, k3]
  exact filter_wf hwf

theorem vmaxi (d : BitVec 7) (a : BitVec 7) (i : BitVec 9) (g : BitVec 3) : Statement (.vmaxi d a i g) := by
  intro hwf w he
  have he : 2751463424 + d.toNat * 524288 + a.toNat * 4096 + i.toNat * 8 + g.toNat * 1 = w := Option.some.inj he
  have r0 : w / 2 ^ 0 = g.toNat + 2 ^ 3 * (i.toNat + 2 ^ 9 * (a.toNat + 2 ^ 7 * (d.toNat + 2 ^ 7 * (41 + 2 ^ 6 * (0))))) := by rw [← he, Nat.pow_zero, Nat.div_one]; ring
  obtain ⟨g0, r1⟩ := peel r0 g.isLt
  obtain ⟨g1, r2⟩ := peel r1 i.isLt
  obtain ⟨g2, r3⟩ := peel r2 a.isLt
  obtain ⟨g3, r4⟩ := peel r3 d.isLt
  obtain ⟨c4, -⟩ := peel r4 (by decide)
  have f0 : bits w 31 26 = 41 := c4
  have k0 : fld 3 0 w = g := fld_of g0
  have k1 : fld 9 3 w = i := fld_of g1
  have k2 : fld 7 12 w = a := fld_of g2
  have k3 : fld 7 19 w = d := fld_of g3
  show Option.filter Instr.wf (decodeVecRaw w) = _
  rw [decodeVecRaw_41 f0]
  simp only [k0, k1, k2, k3]
  exact filter_wf hwf

theorem vlda (d : BitVec 7) (a : BitVec 6) (o : BitVec 7) (g : BitVec 3) : Statement (.vlda d a o g) := by
  intro hwf w he
  have he : 3221225472 + d.toNat * 524288 + a.toNat * 4096 + o.toNat * 32 + g.toNat * 1 = w := Option.some.inj he
  have r0 : w / 2 ^ 0 = g.toNat + 2 ^ 3 * (0 + 2 ^ 2 * (o.toNat + 2 ^ 7 * (a.toNat + 2 ^ 6 * (0 + 2 ^ 1 * (d.toNat + 2 ^ 7 * (48 + 2 ^ 6 * (0))))))) := by rw [← he, Nat.pow_zero, Nat.div_one]; ring
  obtain ⟨g0, r1⟩ := peel r0 g.isLt
  obtain ⟨c1, r2⟩ := peel r1 (by decide)
  obtain ⟨g2, r3⟩ := peel r2 o.isLt
  obtain ⟨g3, r4⟩ := peel r3 a.isLt
  obtain ⟨c4, r5⟩ := peel r4 (by decide)
  obtain ⟨g5, r6⟩ := peel r5 d.isLt
  obtain ⟨c6, -⟩ := peel r6 (by decide)
  have f0 : bits w 4 3 = 0 := c1
  have f1 : bits w 18 18 = 0 := c4
  have f2 : bits w 31 26 = 48 := c6
  have k0 : fld 3 0 w = g := fld_of g0
  have k2 : fld 7 5 w = o := fld_of g2
  have k3 : fld 6 12 w = a := fld_of g3
  have k5 : fld 7 19 w = d := fld_of g5
  show Option.filter Instr.wf (decodeVecRaw w) = _
  rw [decodeVecRaw_48 f2]
  simp only [f0, f1, k0, k2, k3, k5, and_self, reduceIte, and_true, true_and, and_false, false_and, Nat.reduceEqDiff]
  exact filter_wf hwf

theorem vsta (d : BitVec 6) (a : BitVec 7) (o : BitVec 7) (x : BitVec 1) (g : BitVec 3) : Statement (.vsta d a o x g) := by
  intro hwf w he
  have he : 3288334336 + d.toNat * 524288 + a.toNat * 4096 + o.toNat * 32 + x.toNat * 16 + g.toNat * 1 = w := Option.some.inj he
  have r0 : w / 2 ^ 0 = g.toNat + 2 ^ 3 * (0 + 2 ^ 1 * (x.toNat + 2 ^ 1 * (o.toNat + 2 ^ 7 * (a.toNat + 2 ^ 7 * (d.toNat + 2 ^ 6 * (0 + 2 ^ 1 * (49 + 2 ^ 6 * (0)))))))) := by rw [← he, Nat.pow_zero, Nat.div_one]; ring
  obtain ⟨g0, r1⟩ := peel r0 g.isLt
  obtain ⟨c1, r2⟩ := peel r1 (by decide)
  obtain ⟨g2, r3⟩ := peel r2 x.isLt
  obtain ⟨g3, r4⟩ := peel r3 o.isLt
  obtain ⟨g4, r5⟩ := peel r4 a.isLt
  obtain ⟨g5, r6⟩ := peel r5 d.isLt
  obtain ⟨c6, r7⟩ := peel r6 (by decide)
  obtain ⟨c7, -⟩ := peel r7 (by decide)
  have f0 : bits w 3 3 = 0 := c1
  have f1 : bits w 25 25 = 0 := c6
  have f2 : bits w 31 26 = 49 := c7
  have k0 : fld 3 0 w = g := fld_of g0
  have k2 : fld 1 4 w = x := fld_of g2
  have k3 : fld 7 5 w = o := fld_of g3
  have k4 : fld 7 12 w = a := fld_of g4
  have k5 : fld 6 19 w = d := fld_of g5
  show Option.filter Instr.wf (decodeVecRaw w) = _
  rw [decodeVecRaw_49 f2]
  simp only [f0, f1, k0, k2, k3, k4, k5, and_self, reduceIte, and_true, true_and, and_false, false_and, Nat.reduceEqDiff]
  exact filter_wf hwf

theorem vldc (d : BitVec 7) (a : BitVec 6) (o : BitVec 7) (g : BitVec 3) : Statement (.vldc d a o g) := by
  intro hwf w he
  have he : 3355443200 + d.toNat * 524288 + a.toNat * 4096 + o.toNat * 32 + g.toNat * 1 = w := Option.some.inj he
  have r0 : w / 2 ^ 0 = g.toNat + 2 ^ 3 * (0 + 2 ^ 2 * (o.toNat + 2 ^ 7 * (a.toNat + 2 ^ 6 * (0 + 2 ^ 1 * (d.toNat + 2 ^ 7 * (50 + 2 ^ 6 * (0))))))) := by rw [← he, Nat.pow_zero, Nat.div_one]; ring
  obtain ⟨g0, r1⟩ := peel r0 g.isLt
  obtain ⟨c1, r2⟩ := peel r1 (by decide)
  obtain ⟨g2, r3⟩ := peel r2 o.isLt
  obtain ⟨g3, r4⟩ := peel r3 a.isLt
  obtain ⟨c4, r5⟩ := peel r4 (by decide)
  obtain ⟨g5, r6⟩ := peel r5 d.isLt
  obtain ⟨c6, -⟩ := peel r6 (by decide)
  have f0 : bits w 4 3 = 0 := c1
  have f1 : bits w 18 18 = 0 := c4
  have f2 : bits w 31 26 = 50 := c6
  have k0 : fld 3 0 w = g := fld_of g0
  have k2 : fld 7 5 w = o := fld_of g2
  have k3 : fld 6 12 w = a := fld_of g3
  have k5 : fld 7 19 w = d := fld_of g5
  show Option.filter Instr.wf (decodeVecRaw w) = _
  rw [decodeVecRaw_50 f2]
  delta decodeVec32
  simp only [f0, f1, k0, k2, k3, k5, and_self, reduceIte, and_true, true_and, and_false, false_and, Nat.reduceEqDiff]
  exact filter_wf hwf

theorem vldcNowait (d : BitVec 7) (a : BitVec 6) (o : BitVec 7) (g : BitVec 3) : Statement (.vldcNowait d a o g) := by
  intro hwf w he
  have he : 3355443208 + d.toNat * 524288 + a.toNat * 4096 + o.toNat * 32 + g.toNat * 1 = w := Option.some.inj he
  have r0 : w / 2 ^ 0 = g.toNat + 2 ^ 3 * (1 + 2 ^ 2 * (o.toNat + 2 ^ 7 * (a.toNat + 2 ^ 6 * (0 + 2 ^ 1 * (d.toNat + 2 ^ 7 * (50 + 2 ^ 6 * (0))))))) := by rw [← he, Nat.pow_zero, Nat.div_one]; ring
  obtain ⟨g0, r1⟩ := peel r0 g.isLt
  obtain ⟨c1, r2⟩ := peel r1 (by decide)
  obtain ⟨g2, r3⟩ := peel r2 o.isLt
  obtain ⟨g3, r4⟩ := peel r3 a.isLt
  obtain ⟨c4, r5⟩ := peel r4 (by decide)
  obtain ⟨g5, r6⟩ := peel r5 d.isLt
  obtain ⟨c6, -⟩ := peel r6 (by decide)
  have f0 : bits w 4 3 = 1 := c1
  have f1 : bits w 18 18 = 0 := c4
  have f2 : bits w 31 26 = 50 := c6
  have k0 : fld 3 0 w = g := fld_of g0
  have k2 : fld 7 5 w = o := fld_of g2
  have k3 : fld 6 12 w = a := fld_of g3
  have k5 : fld 7 19 w = d := fld_of g5
  show Option.filter Instr.wf (decodeVecRaw w) = _
  rw [decodeVecRaw_50 f2]
  delta decodeVec32
  simp only [f0, f1, k0, k2, k3, k5, and_self, reduceIte, and_true, true_and, and_false, false_and, Nat.reduceEqDiff]
  exact filter_wf hwf

theorem vstc (d : BitVec 6) (a : BitVec 7) (o : BitVec 7) (x : BitVec 1) (g : BitVec 3) : Statement (.vstc d a o x g) := by
  intro hwf w he
  have he : 3422552064 + d.toNat * 524288 + a.toNat * 4096 + o.toNat * 32 + x.toNat * 16 + g.toNat * 1 = w := Option.some.inj he
  have r0 : w / 2 ^ 0 = g.toNat + 2 ^ 3 * (0 + 2 ^ 1 * (x.toNat + 2 ^ 1 * (o.toNat + 2 ^ 7 * (a.toNat + 2 ^ 7 * (d.toNat + 2 ^ 6 * (0 + 2 ^ 1 * (51 + 2 ^ 6 * (0)))))))) := by rw [← he, Nat.pow_zero, Nat.div_one]; ring
  obtain ⟨g0, r1⟩ := peel r0 g.isLt
  obtain ⟨c1, r2⟩ := peel r1 (by decide)
  obtain ⟨g2, r3⟩ := peel r2 x.isLt
  obtain ⟨g3, r4⟩ := peel r3 o.isLt
  obtain ⟨g4, r5⟩ := peel r4 a.isLt
  obtain ⟨g5, r6⟩ := peel r5 d.isLt
  obtain ⟨c6, r7⟩ := peel r6 (by decide)
  obtain ⟨c7, -⟩ := peel r7 (by decide)
  have f0 : bits w 3 3 = 0 := c1
  have f1 : bits w 25 25 = 0 := c6
  have f2 : bits w 31 26 = 51 := c7
  have k0 : fld 3 0 w = g := fld_of g0
  have k2 : fld 1 4 w = x := fld_of g2
  have k3 : fld 7 5 w = o := fld_of g3
  have k4 : fld 7 12 w = a := fld_of g4
  have k5 : fld 6 19 w = d := fld_of g5
  show Option.filter Instr.wf (decodeVecRaw w) = _
  rw [decodeVecRaw_51 f2]
  simp only [f0, f1, k0, k2, k3, k4, k5, and_self, reduceIte, and_true, true_and, and_false, false_and, Nat.reduceEqDiff]
  exact filter_wf hwf

theorem vgath (d : BitVec 7) (a : BitVec 6) (b : BitVec 6) (g : BitVec 3) : Statement (.vgath d a b g) := by
  intro hwf w he
  have he : 3489660928 + d.toNat * 524288 + a.toNat * 4096 + b.toNat * 32 + g.toNat * 1 = w := Option.some.inj he
  have r0 : w / 2 ^ 0 = g.toNat + 2 ^ 3 * (0 + 2 ^ 2 * (b.toNat + 2 ^ 6 * (0 + 2 ^ 1 * (a.toNat + 2 ^ 6 * (0 + 2 ^ 1 * (d.toNat + 2 ^ 7 * (52 + 2 ^ 6 * (0)))))))) := by rw [← he, Nat.pow_zero, Nat.div_one]; ring
  obtain ⟨g0, r1⟩ := peel r0 g.isLt
  obtain ⟨c1, r2⟩ := peel r1 (by decide)
  obtain ⟨g2, r3⟩ := peel r2 b.isLt
  obtain ⟨c3, r4⟩ := peel r3 (by decide)
  obtain ⟨g4, r5⟩ := peel r4 a.isLt
  obtain ⟨c5, r6⟩ := peel r5 (by decide)
  obtain ⟨g6, r7⟩ := peel r6 d.isLt
  obtain ⟨c7, -⟩ := peel r7 (by decide)
  have f0 : bits w 4 3 = 0 := c1
  have f1 : bits w 11 11 = 0 := c3
  have f2 : bits w 18 18 = 0 := c5
  have f3 : bits w 31 26 = 52 := c7
  have k0 : fld 3 0 w = g := fld_of g0
  have k2 : fld 6 5 w = b := fld_of g2
  have k4 : fld 6 12 w = a := fld_of g4
  have k6 : fld 7 19 w = d := fld_of g6
  show Option.filter Instr.wf (decodeVecRaw w) = _
  rw [decodeVecRaw_52 f3]
  simp only [f0, f1, f2, k0, k2, k4, k6, and_self, reduceIte, and_true, true_and, and_false, false_and, Nat.reduceEqDiff]
  exact filter_wf hwf

theorem vscat (d : BitVec 6) (a : BitVec 7) (b : BitVec 6) (x : BitVec 1) (g : BitVec 3) : Statement (.vscat d a b x g) := by
  intro hwf w he
  have he : 3556769792 + d.toNat * 524288 + a.toNat * 4096 + b.toNat * 32 + x.toNat * 16 + g.toNat * 1 = w := Option.some.inj he
  have r0 : w / 2 ^ 0 = g.toNat + 2 ^ 3 * (0 + 2 ^ 1 * (x.toNat + 2 ^ 1 * (b.toNat + 2 ^ 6 * (0 + 2 ^ 1 * (a.toNat + 2 ^ 7 * (d.toNat + 2 ^ 6 * (0 + 2 ^ 1 * (53 + 2 ^ 6 * (0))))))))) := by rw [← he, Nat.pow_zero, Nat.div_one]; ring
  obtain ⟨g0, r1⟩ := peel r0 g.isLt
  obtain ⟨c1, r2⟩ := peel r1 (by decide)
  obtain ⟨g2, r3⟩ := peel r2 x.isLt
  obtain ⟨g3, r4⟩ := peel r3 b.isLt
  obtain ⟨c4, r5⟩ := peel r4 (by decide)
  obtain ⟨g5, r6⟩ := peel r5 a.isLt
  obtain ⟨g6, r7⟩ := peel r6 d.isLt
  obtain ⟨c7, r8⟩ := peel r7 (by decide)
  obtain ⟨c8, -⟩ := peel r8 (by decide)
  have f0 : bits w 3 3 = 0 := c1
  have f1 : bits w 11 11 = 0 := c4
  have f2 : bits w 25 25 = 0 := c7
  have f3 : bits w 31 26 = 53 := c8
  have k0 : fld 3 0 w = g := fld_of g0
  have k2 : fld 1 4 w = x := fld_of g2
  have k3 : fld 6 5 w = b := fld_of g3
  have k5 : fld 7 12 w = a := fld_of g5
  have k6 : fld 6 19 w = d := fld_of g6
  show Option.filter Instr.wf (decodeVecRaw w) = _
  rw [decodeVecRaw_53 f3]
  simp only [f0, f1, f2, k0, k2, k3, k5, k6, and_self, reduceIte, and_true, true_and, and_false, false_and, Nat.reduceEqDiff]
  exact filter_wf hwf

theorem vatom (d : BitVec 6) (a : BitVec 6) (o : BitVec 4) (f : BitVec 1) (g : BitVec 3) : Statement (.vatom d a o f g) := by
  intro hwf w he
  have he : 3623878656 + d.toNat * 524288 + a.toNat * 4096 + o.toNat * 256 + f.toNat * 128 + g.toNat * 1 = w := Option.some.inj he
  have r0 : w / 2 ^ 0 = g.toNat + 2 ^ 3 * (0 + 2 ^ 4 * (f.toNat + 2 ^ 1 * (o.toNat + 2 ^ 4 * (a.toNat + 2 ^ 6 * (0 + 2 ^ 1 * (d.toNat + 2 ^ 6 * (0 + 2 ^ 1 * (54 + 2 ^ 6 * (0))))))))) := by rw [← he, Nat.pow_zero, Nat.div_one]; ring
  obtain ⟨g0, r1⟩ := peel r0 g.isLt
  obtain ⟨c1, r2⟩ := peel r1 (by decide)
  obtain ⟨g2, r3⟩ := peel r2 f.isLt
  obtain ⟨g3, r4⟩ := peel r3 o.isLt
  obtain ⟨g4, r5⟩ := peel r4 a.isLt
  obtain ⟨c5, r6⟩ := peel r5 (by decide)
  obtain ⟨g6, r7⟩ := peel r6 d.isLt
  obtain ⟨c7, r8⟩ := peel r7 (by decide)
  obtain ⟨c8, -⟩ := peel r8 (by decide)
  have f0 : bits w 6 3 = 0 := c1
  have f1 : bits w 18 18 = 0 := c5
  have f2 : bits w 25 25 = 0 := c7
  have f3 : bits w 31 26 = 54 := c8
  have k0 : fld 3 0 w = g := fld_of g0
  have k2 : fld 1 7 w = f := fld_of g2
  have k3 : fld 4 8 w = o := fld_of g3
  have k4 : fld 6 12 w = a := fld_of g4
  have k6 : fld 6 19 w = d := fld_of g6
  show Option.filter Instr.wf (decodeVecRaw w) = _
  rw [decodeVecRaw_54 f3]
  simp only [f0, f1, f2, k0, k2, k3, k4, k6, and_self, reduceIte, and_true, true_and, and_false, false_and, Nat.reduceEqDiff]
  exact filter_wf hwf

theorem vperm (d : BitVec 7) (a : BitVec 7) (b : BitVec 7) (x : BitVec 1) (y : BitVec 1) (g : BitVec 3) : Statement (.vperm d a b x y g) := by
  intro hwf w he
  have he : 3690987520 + d.toNat * 524288 + a.toNat * 4096 + b.toNat * 32 + x.toNat * 16 + y.toNat * 8 + g.toNat * 1 = w := Option.some.inj he
  have r0 : w / 2 ^ 0 = g.toNat + 2 ^ 3 * (y.toNat + 2 ^ 1 * (x.toNat + 2 ^ 1 * (b.toNat + 2 ^ 7 * (a.toNat + 2 ^ 7 * (d.toNat + 2 ^ 7 * (55 + 2 ^ 6 * (0))))))) := by rw [← he, Nat.pow_zero, Nat.div_one]; ring
  obtain ⟨g0, r1⟩ := peel r0 g.isLt
  obtain ⟨g1, r2⟩ := peel r1 y.isLt
  obtain ⟨g2, r3⟩ := peel r2 x.isLt
  obtain ⟨g3, r4⟩ := peel r3 b.isLt
  obtain ⟨g4, r5⟩ := peel r4 a.isLt
  obtain ⟨g5, r6⟩ := peel r5 d.isLt
  obtain ⟨c6, -⟩ := peel r6 (by decide)
  have f0 : bits w 31 26 = 55 := c6
  have k0 : fld 3 0 w = g := fld_of g0
  have k1 : fld 1 3 w = y := fld_of g1
  have k2 : fld 1 4 w = x := fld_of g2
  have k3 : fld 7 5 w = b := fld_of g3
  have k4 : fld 7 12 w = a := fld_of g4
  have k5 : fld 7 19 w = d := fld_of g5
  show Option.filter Instr.wf (decodeVecRaw w) = _
  rw [decodeVecRaw_55 f0]
  simp only [k0, k1, k2, k3, k4, k5]
  exact filter_wf hwf

theorem vshuf (d : BitVec 6) (a : BitVec 7) (k : BitVec 3) (h : BitVec 6) (g : BitVec 3) : Statement (.vshuf d a k h g) := by
  intro hwf w he
  have he : 3758096384 + d.toNat * 524288 + a.toNat * 4096 + k.toNat * 512 + h.toNat * 8 + g.toNat * 1 = w := Option.some.inj he
  have r0 : w / 2 ^ 0 = g.toNat + 2 ^ 3 * (h.toNat + 2 ^ 6 * (k.toNat + 2 ^ 3 * (a.toNat + 2 ^ 7 * (d.toNat + 2 ^ 6 * (0 + 2 ^ 1 * (56 + 2 ^ 6 * (0))))))) := by rw [← he, Nat.pow_zero, Nat.div_one]; ring
  obtain ⟨g0, r1⟩ := peel r0 g.isLt
  obtain ⟨g1, r2⟩ := peel r1 h.isLt
  obtain ⟨g2, r3⟩ := peel r2 k.isLt
  obtain ⟨g3, r4⟩ := peel r3 a.isLt
  obtain ⟨g4, r5⟩ := peel r4 d.isLt
  obtain ⟨c5, r6⟩ := peel r5 (by decide)
  obtain ⟨c6, -⟩ := peel r6 (by decide)
  have f0 : bits w 25 25 = 0 := c5
  have f1 : bits w 31 26 = 56 := c6
  have k0 : fld 3 0 w = g := fld_of g0
  have k1 : fld 6 3 w = h := fld_of g1
  have k2 : fld 3 9 w = k := fld_of g2
  have k3 : fld 7 12 w = a := fld_of g3
  have k4 : fld 6 19 w = d := fld_of g4
  show Option.filter Instr.wf (decodeVecRaw w) = _
  rw [decodeVecRaw_56 f1]
  simp only [f0, k0, k1, k2, k3, k4, and_self, reduceIte, and_true, true_and, and_false, false_and, Nat.reduceEqDiff]
  exact filter_wf hwf

theorem vred (d : BitVec 7) (a : BitVec 7) (p : BitVec 3) (x : BitVec 1) (g : BitVec 3) : Statement (.vred d a p x g) := by
  intro hwf w he
  have he : 3825205248 + d.toNat * 524288 + a.toNat * 4096 + p.toNat * 512 + x.toNat * 16 + g.toNat * 1 = w := Option.some.inj he
  have r0 : w / 2 ^ 0 = g.toNat + 2 ^ 3 * (0 + 2 ^ 1 * (x.toNat + 2 ^ 1 * (0 + 2 ^ 4 * (p.toNat + 2 ^ 3 * (a.toNat + 2 ^ 7 * (d.toNat + 2 ^ 7 * (57 + 2 ^ 6 * (0)))))))) := by rw [← he, Nat.pow_zero, Nat.div_one]; ring
  obtain ⟨g0, r1⟩ := peel r0 g.isLt
  obtain ⟨c1, r2⟩ := peel r1 (by decide)
  obtain ⟨g2, r3⟩ := peel r2 x.isLt
  obtain ⟨c3, r4⟩ := peel r3 (by decide)
  obtain ⟨g4, r5⟩ := peel r4 p.isLt
  obtain ⟨g5, r6⟩ := peel r5 a.isLt
  obtain ⟨g6, r7⟩ := peel r6 d.isLt
  obtain ⟨c7, -⟩ := peel r7 (by decide)
  have f0 : bits w 3 3 = 0 := c1
  have f1 : bits w 8 5 = 0 := c3
  have f2 : bits w 31 26 = 57 := c7
  have k0 : fld 3 0 w = g := fld_of g0
  have k2 : fld 1 4 w = x := fld_of g2
  have k4 : fld 3 9 w = p := fld_of g4
  have k5 : fld 7 12 w = a := fld_of g5
  have k6 : fld 7 19 w = d := fld_of g6
  show Option.filter Instr.wf (decodeVecRaw w) = _
  rw [decodeVecRaw_57 f2]
  simp only [f0, f1, k0, k2, k4, k5, k6, and_self, reduceIte, and_true, true_and, and_false, false_and, Nat.reduceEqDiff]
  exact filter_wf hwf

theorem vscan (d : BitVec 7) (a : BitVec 7) (p : BitVec 3) (x : BitVec 1) (g : BitVec 3) : Statement (.vscan d a p x g) := by
  intro hwf w he
  have he : 3892314112 + d.toNat * 524288 + a.toNat * 4096 + p.toNat * 512 + x.toNat * 16 + g.toNat * 1 = w := Option.some.inj he
  have r0 : w / 2 ^ 0 = g.toNat + 2 ^ 3 * (0 + 2 ^ 1 * (x.toNat + 2 ^ 1 * (0 + 2 ^ 4 * (p.toNat + 2 ^ 3 * (a.toNat + 2 ^ 7 * (d.toNat + 2 ^ 7 * (58 + 2 ^ 6 * (0)))))))) := by rw [← he, Nat.pow_zero, Nat.div_one]; ring
  obtain ⟨g0, r1⟩ := peel r0 g.isLt
  obtain ⟨c1, r2⟩ := peel r1 (by decide)
  obtain ⟨g2, r3⟩ := peel r2 x.isLt
  obtain ⟨c3, r4⟩ := peel r3 (by decide)
  obtain ⟨g4, r5⟩ := peel r4 p.isLt
  obtain ⟨g5, r6⟩ := peel r5 a.isLt
  obtain ⟨g6, r7⟩ := peel r6 d.isLt
  obtain ⟨c7, -⟩ := peel r7 (by decide)
  have f0 : bits w 3 3 = 0 := c1
  have f1 : bits w 8 5 = 0 := c3
  have f2 : bits w 31 26 = 58 := c7
  have k0 : fld 3 0 w = g := fld_of g0
  have k2 : fld 1 4 w = x := fld_of g2
  have k4 : fld 3 9 w = p := fld_of g4
  have k5 : fld 7 12 w = a := fld_of g5
  have k6 : fld 7 19 w = d := fld_of g6
  show Option.filter Instr.wf (decodeVecRaw w) = _
  rw [decodeVecRaw_58 f2]
  simp only [f0, f1, k0, k2, k4, k5, k6, and_self, reduceIte, and_true, true_and, and_false, false_and, Nat.reduceEqDiff]
  exact filter_wf hwf

theorem vplog (d : BitVec 3) (a : BitVec 3) (o : BitVec 3) (b : BitVec 3) (g : BitVec 3) : Statement (.vplog d a o b g) := by
  intro hwf w he
  have he : 3959422976 + d.toNat * 524288 + a.toNat * 4096 + o.toNat * 512 + b.toNat * 32 + g.toNat * 1 = w := Option.some.inj he
  have r0 : w / 2 ^ 0 = g.toNat + 2 ^ 3 * (0 + 2 ^ 2 * (b.toNat + 2 ^ 3 * (0 + 2 ^ 1 * (o.toNat + 2 ^ 3 * (a.toNat + 2 ^ 3 * (0 + 2 ^ 4 * (d.toNat + 2 ^ 3 * (0 + 2 ^ 4 * (59 + 2 ^ 6 * (0)))))))))) := by rw [← he, Nat.pow_zero, Nat.div_one]; ring
  obtain ⟨g0, r1⟩ := peel r0 g.isLt
  obtain ⟨c1, r2⟩ := peel r1 (by decide)
  obtain ⟨g2, r3⟩ := peel r2 b.isLt
  obtain ⟨c3, r4⟩ := peel r3 (by decide)
  obtain ⟨g4, r5⟩ := peel r4 o.isLt
  obtain ⟨g5, r6⟩ := peel r5 a.isLt
  obtain ⟨c6, r7⟩ := peel r6 (by decide)
  obtain ⟨g7, r8⟩ := peel r7 d.isLt
  obtain ⟨c8, r9⟩ := peel r8 (by decide)
  obtain ⟨c9, -⟩ := peel r9 (by decide)
  have f0 : bits w 4 3 = 0 := c1
  have f1 : bits w 8 8 = 0 := c3
  have f2 : bits w 18 15 = 0 := c6
  have f3 : bits w 25 22 = 0 := c8
  have f4 : bits w 31 26 = 59 := c9
  have k0 : fld 3 0 w = g := fld_of g0
  have k2 : fld 3 5 w = b := fld_of g2
  have k4 : fld 3 9 w = o := fld_of g4
  have k5 : fld 3 12 w = a := fld_of g5
  have k7 : fld 3 19 w = d := fld_of g7
  show Option.filter Instr.wf (decodeVecRaw w) = _
  rw [decodeVecRaw_59 f4]
  simp only [f0, f1, f2, f3, k0, k2, k4, k5, k7, and_self, reduceIte, and_true, true_and, and_false, false_and, Nat.reduceEqDiff]
  exact filter_wf hwf

theorem vhalt : Statement (.vhalt) := by
  intro hwf w he
  have he : 4026531840 = w := Option.some.inj he
  have r0 : w / 2 ^ 0 = 0 + 2 ^ 26 * (60 + 2 ^ 6 * (0)) := by rw [← he, Nat.pow_zero, Nat.div_one]; ring
  obtain ⟨c0, r1⟩ := peel r0 (by decide)
  obtain ⟨c1, -⟩ := peel r1 (by decide)
  have f0 : bits w 25 0 = 0 := c0
  have f1 : bits w 31 26 = 60 := c1
  show Option.filter Instr.wf (decodeVecRaw w) = _
  rw [decodeVecRaw_60 f1]
  simp only [f0, and_self, reduceIte, and_true, true_and, and_false, false_and, Nat.reduceEqDiff]
  exact filter_wf hwf

theorem vfl (f : BitVec 1) (l : BitVec 1) (v : BitVec 3) : Statement (.vfl f l v) := by
  intro hwf w he
  have he : 4093640704 + f.toNat * 33554432 + l.toNat * 16777216 + v.toNat * 2097152 = w := Option.some.inj he
  have r0 : w / 2 ^ 0 = 0 + 2 ^ 21 * (v.toNat + 2 ^ 3 * (l.toNat + 2 ^ 1 * (f.toNat + 2 ^ 1 * (61 + 2 ^ 6 * (0))))) := by rw [← he, Nat.pow_zero, Nat.div_one]; ring
  obtain ⟨c0, r1⟩ := peel r0 (by decide)
  obtain ⟨g1, r2⟩ := peel r1 v.isLt
  obtain ⟨g2, r3⟩ := peel r2 l.isLt
  obtain ⟨g3, r4⟩ := peel r3 f.isLt
  obtain ⟨c4, -⟩ := peel r4 (by decide)
  have f0 : bits w 20 0 = 0 := c0
  have f1 : bits w 31 26 = 61 := c4
  have k1 : fld 3 21 w = v := fld_of g1
  have k2 : fld 1 24 w = l := fld_of g2
  have k3 : fld 1 25 w = f := fld_of g3
  show Option.filter Instr.wf (decodeVecRaw w) = _
  rw [decodeVecRaw_61 f1]
  simp only [f0, k1, k2, k3, and_self, reduceIte, and_true, true_and, and_false, false_and, Nat.reduceEqDiff]
  exact filter_wf hwf

theorem exp2 (d : BitVec 7) (a : BitVec 7) (x : BitVec 1) (g : BitVec 3) : Statement (.exp2 d a x g) := by
  intro hwf w he
  have he : 4227858432 + d.toNat * 524288 + a.toNat * 4096 + x.toNat * 16 + g.toNat * 1 = w := Option.some.inj he
  have r0 : w / 2 ^ 0 = g.toNat + 2 ^ 3 * (0 + 2 ^ 1 * (x.toNat + 2 ^ 1 * (0 + 2 ^ 7 * (a.toNat + 2 ^ 7 * (d.toNat + 2 ^ 7 * (63 + 2 ^ 6 * (0))))))) := by rw [← he, Nat.pow_zero, Nat.div_one]; ring
  obtain ⟨g0, r1⟩ := peel r0 g.isLt
  obtain ⟨c1, r2⟩ := peel r1 (by decide)
  obtain ⟨g2, r3⟩ := peel r2 x.isLt
  obtain ⟨c3, r4⟩ := peel r3 (by decide)
  obtain ⟨g4, r5⟩ := peel r4 a.isLt
  obtain ⟨g5, r6⟩ := peel r5 d.isLt
  obtain ⟨c6, -⟩ := peel r6 (by decide)
  have f0 : bits w 3 3 = 0 := c1
  have f1 : bits w 11 5 = 0 := c3
  have f2 : bits w 31 26 = 63 := c6
  have k0 : fld 3 0 w = g := fld_of g0
  have k2 : fld 1 4 w = x := fld_of g2
  have k4 : fld 7 12 w = a := fld_of g4
  have k5 : fld 7 19 w = d := fld_of g5
  show Option.filter Instr.wf (decodeVecRaw w) = _
  rw [decodeVecRaw_63 f2]
  delta decodeVec3F
  simp only [f0, f1, k0, k2, k4, k5, and_self, reduceIte, and_true, true_and, and_false, false_and, Nat.reduceEqDiff]
  exact filter_wf hwf

theorem log2 (d : BitVec 7) (a : BitVec 7) (x : BitVec 1) (g : BitVec 3) : Statement (.log2 d a x g) := by
  intro hwf w he
  have he : 4227858464 + d.toNat * 524288 + a.toNat * 4096 + x.toNat * 16 + g.toNat * 1 = w := Option.some.inj he
  have r0 : w / 2 ^ 0 = g.toNat + 2 ^ 3 * (0 + 2 ^ 1 * (x.toNat + 2 ^ 1 * (1 + 2 ^ 7 * (a.toNat + 2 ^ 7 * (d.toNat + 2 ^ 7 * (63 + 2 ^ 6 * (0))))))) := by rw [← he, Nat.pow_zero, Nat.div_one]; ring
  obtain ⟨g0, r1⟩ := peel r0 g.isLt
  obtain ⟨c1, r2⟩ := peel r1 (by decide)
  obtain ⟨g2, r3⟩ := peel r2 x.isLt
  obtain ⟨c3, r4⟩ := peel r3 (by decide)
  obtain ⟨g4, r5⟩ := peel r4 a.isLt
  obtain ⟨g5, r6⟩ := peel r5 d.isLt
  obtain ⟨c6, -⟩ := peel r6 (by decide)
  have f0 : bits w 3 3 = 0 := c1
  have f1 : bits w 11 5 = 1 := c3
  have f2 : bits w 31 26 = 63 := c6
  have k0 : fld 3 0 w = g := fld_of g0
  have k2 : fld 1 4 w = x := fld_of g2
  have k4 : fld 7 12 w = a := fld_of g4
  have k5 : fld 7 19 w = d := fld_of g5
  show Option.filter Instr.wf (decodeVecRaw w) = _
  rw [decodeVecRaw_63 f2]
  delta decodeVec3F
  simp only [f0, f1, k0, k2, k4, k5, and_self, reduceIte, and_true, true_and, and_false, false_and, Nat.reduceEqDiff]
  exact filter_wf hwf

theorem rcp (d : BitVec 7) (a : BitVec 7) (x : BitVec 1) (g : BitVec 3) : Statement (.rcp d a x g) := by
  intro hwf w he
  have he : 4227858496 + d.toNat * 524288 + a.toNat * 4096 + x.toNat * 16 + g.toNat * 1 = w := Option.some.inj he
  have r0 : w / 2 ^ 0 = g.toNat + 2 ^ 3 * (0 + 2 ^ 1 * (x.toNat + 2 ^ 1 * (2 + 2 ^ 7 * (a.toNat + 2 ^ 7 * (d.toNat + 2 ^ 7 * (63 + 2 ^ 6 * (0))))))) := by rw [← he, Nat.pow_zero, Nat.div_one]; ring
  obtain ⟨g0, r1⟩ := peel r0 g.isLt
  obtain ⟨c1, r2⟩ := peel r1 (by decide)
  obtain ⟨g2, r3⟩ := peel r2 x.isLt
  obtain ⟨c3, r4⟩ := peel r3 (by decide)
  obtain ⟨g4, r5⟩ := peel r4 a.isLt
  obtain ⟨g5, r6⟩ := peel r5 d.isLt
  obtain ⟨c6, -⟩ := peel r6 (by decide)
  have f0 : bits w 3 3 = 0 := c1
  have f1 : bits w 11 5 = 2 := c3
  have f2 : bits w 31 26 = 63 := c6
  have k0 : fld 3 0 w = g := fld_of g0
  have k2 : fld 1 4 w = x := fld_of g2
  have k4 : fld 7 12 w = a := fld_of g4
  have k5 : fld 7 19 w = d := fld_of g5
  show Option.filter Instr.wf (decodeVecRaw w) = _
  rw [decodeVecRaw_63 f2]
  delta decodeVec3F
  simp only [f0, f1, k0, k2, k4, k5, and_self, reduceIte, and_true, true_and, and_false, false_and, Nat.reduceEqDiff]
  exact filter_wf hwf

theorem rsq (d : BitVec 7) (a : BitVec 7) (x : BitVec 1) (g : BitVec 3) : Statement (.rsq d a x g) := by
  intro hwf w he
  have he : 4227858528 + d.toNat * 524288 + a.toNat * 4096 + x.toNat * 16 + g.toNat * 1 = w := Option.some.inj he
  have r0 : w / 2 ^ 0 = g.toNat + 2 ^ 3 * (0 + 2 ^ 1 * (x.toNat + 2 ^ 1 * (3 + 2 ^ 7 * (a.toNat + 2 ^ 7 * (d.toNat + 2 ^ 7 * (63 + 2 ^ 6 * (0))))))) := by rw [← he, Nat.pow_zero, Nat.div_one]; ring
  obtain ⟨g0, r1⟩ := peel r0 g.isLt
  obtain ⟨c1, r2⟩ := peel r1 (by decide)
  obtain ⟨g2, r3⟩ := peel r2 x.isLt
  obtain ⟨c3, r4⟩ := peel r3 (by decide)
  obtain ⟨g4, r5⟩ := peel r4 a.isLt
  obtain ⟨g5, r6⟩ := peel r5 d.isLt
  obtain ⟨c6, -⟩ := peel r6 (by decide)
  have f0 : bits w 3 3 = 0 := c1
  have f1 : bits w 11 5 = 3 := c3
  have f2 : bits w 31 26 = 63 := c6
  have k0 : fld 3 0 w = g := fld_of g0
  have k2 : fld 1 4 w = x := fld_of g2
  have k4 : fld 7 12 w = a := fld_of g4
  have k5 : fld 7 19 w = d := fld_of g5
  show Option.filter Instr.wf (decodeVecRaw w) = _
  rw [decodeVecRaw_63 f2]
  delta decodeVec3F
  simp only [f0, f1, k0, k2, k4, k5, and_self, reduceIte, and_true, true_and, and_false, false_and, Nat.reduceEqDiff]
  exact filter_wf hwf

theorem vabs (d : BitVec 7) (a : BitVec 7) (x : BitVec 1) (g : BitVec 3) : Statement (.vabs d a x g) := by
  intro hwf w he
  have he : 4227858560 + d.toNat * 524288 + a.toNat * 4096 + x.toNat * 16 + g.toNat * 1 = w := Option.some.inj he
  have r0 : w / 2 ^ 0 = g.toNat + 2 ^ 3 * (0 + 2 ^ 1 * (x.toNat + 2 ^ 1 * (4 + 2 ^ 7 * (a.toNat + 2 ^ 7 * (d.toNat + 2 ^ 7 * (63 + 2 ^ 6 * (0))))))) := by rw [← he, Nat.pow_zero, Nat.div_one]; ring
  obtain ⟨g0, r1⟩ := peel r0 g.isLt
  obtain ⟨c1, r2⟩ := peel r1 (by decide)
  obtain ⟨g2, r3⟩ := peel r2 x.isLt
  obtain ⟨c3, r4⟩ := peel r3 (by decide)
  obtain ⟨g4, r5⟩ := peel r4 a.isLt
  obtain ⟨g5, r6⟩ := peel r5 d.isLt
  obtain ⟨c6, -⟩ := peel r6 (by decide)
  have f0 : bits w 3 3 = 0 := c1
  have f1 : bits w 11 5 = 4 := c3
  have f2 : bits w 31 26 = 63 := c6
  have k0 : fld 3 0 w = g := fld_of g0
  have k2 : fld 1 4 w = x := fld_of g2
  have k4 : fld 7 12 w = a := fld_of g4
  have k5 : fld 7 19 w = d := fld_of g5
  show Option.filter Instr.wf (decodeVecRaw w) = _
  rw [decodeVecRaw_63 f2]
  delta decodeVec3F
  simp only [f0, f1, k0, k2, k4, k5, and_self, reduceIte, and_true, true_and, and_false, false_and, Nat.reduceEqDiff]
  exact filter_wf hwf

theorem vneg (d : BitVec 7) (a : BitVec 7) (x : BitVec 1) (g : BitVec 3) : Statement (.vneg d a x g) := by
  intro hwf w he
  have he : 4227858592 + d.toNat * 524288 + a.toNat * 4096 + x.toNat * 16 + g.toNat * 1 = w := Option.some.inj he
  have r0 : w / 2 ^ 0 = g.toNat + 2 ^ 3 * (0 + 2 ^ 1 * (x.toNat + 2 ^ 1 * (5 + 2 ^ 7 * (a.toNat + 2 ^ 7 * (d.toNat + 2 ^ 7 * (63 + 2 ^ 6 * (0))))))) := by rw [← he, Nat.pow_zero, Nat.div_one]; ring
  obtain ⟨g0, r1⟩ := peel r0 g.isLt
  obtain ⟨c1, r2⟩ := peel r1 (by decide)
  obtain ⟨g2, r3⟩ := peel r2 x.isLt
  obtain ⟨c3, r4⟩ := peel r3 (by decide)
  obtain ⟨g4, r5⟩ := peel r4 a.isLt
  obtain ⟨g5, r6⟩ := peel r5 d.isLt
  obtain ⟨c6, -⟩ := peel r6 (by decide)
  have f0 : bits w 3 3 = 0 := c1
  have f1 : bits w 11 5 = 5 := c3
  have f2 : bits w 31 26 = 63 := c6
  have k0 : fld 3 0 w = g := fld_of g0
  have k2 : fld 1 4 w = x := fld_of g2
  have k4 : fld 7 12 w = a := fld_of g4
  have k5 : fld 7 19 w = d := fld_of g5
  show Option.filter Instr.wf (decodeVecRaw w) = _
  rw [decodeVecRaw_63 f2]
  delta decodeVec3F
  simp only [f0, f1, k0, k2, k4, k5, and_self, reduceIte, and_true, true_and, and_false, false_and, Nat.reduceEqDiff]
  exact filter_wf hwf

theorem vclz (d : BitVec 7) (a : BitVec 7) (x : BitVec 1) (g : BitVec 3) : Statement (.vclz d a x g) := by
  intro hwf w he
  have he : 4227858624 + d.toNat * 524288 + a.toNat * 4096 + x.toNat * 16 + g.toNat * 1 = w := Option.some.inj he
  have r0 : w / 2 ^ 0 = g.toNat + 2 ^ 3 * (0 + 2 ^ 1 * (x.toNat + 2 ^ 1 * (6 + 2 ^ 7 * (a.toNat + 2 ^ 7 * (d.toNat + 2 ^ 7 * (63 + 2 ^ 6 * (0))))))) := by rw [← he, Nat.pow_zero, Nat.div_one]; ring
  obtain ⟨g0, r1⟩ := peel r0 g.isLt
  obtain ⟨c1, r2⟩ := peel r1 (by decide)
  obtain ⟨g2, r3⟩ := peel r2 x.isLt
  obtain ⟨c3, r4⟩ := peel r3 (by decide)
  obtain ⟨g4, r5⟩ := peel r4 a.isLt
  obtain ⟨g5, r6⟩ := peel r5 d.isLt
  obtain ⟨c6, -⟩ := peel r6 (by decide)
  have f0 : bits w 3 3 = 0 := c1
  have f1 : bits w 11 5 = 6 := c3
  have f2 : bits w 31 26 = 63 := c6
  have k0 : fld 3 0 w = g := fld_of g0
  have k2 : fld 1 4 w = x := fld_of g2
  have k4 : fld 7 12 w = a := fld_of g4
  have k5 : fld 7 19 w = d := fld_of g5
  show Option.filter Instr.wf (decodeVecRaw w) = _
  rw [decodeVecRaw_63 f2]
  delta decodeVec3F
  simp only [f0, f1, k0, k2, k4, k5, and_self, reduceIte, and_true, true_and, and_false, false_and, Nat.reduceEqDiff]
  exact filter_wf hwf

theorem vpopc (d : BitVec 7) (a : BitVec 7) (x : BitVec 1) (g : BitVec 3) : Statement (.vpopc d a x g) := by
  intro hwf w he
  have he : 4227858656 + d.toNat * 524288 + a.toNat * 4096 + x.toNat * 16 + g.toNat * 1 = w := Option.some.inj he
  have r0 : w / 2 ^ 0 = g.toNat + 2 ^ 3 * (0 + 2 ^ 1 * (x.toNat + 2 ^ 1 * (7 + 2 ^ 7 * (a.toNat + 2 ^ 7 * (d.toNat + 2 ^ 7 * (63 + 2 ^ 6 * (0))))))) := by rw [← he, Nat.pow_zero, Nat.div_one]; ring
  obtain ⟨g0, r1⟩ := peel r0 g.isLt
  obtain ⟨c1, r2⟩ := peel r1 (by decide)
  obtain ⟨g2, r3⟩ := peel r2 x.isLt
  obtain ⟨c3, r4⟩ := peel r3 (by decide)
  obtain ⟨g4, r5⟩ := peel r4 a.isLt
  obtain ⟨g5, r6⟩ := peel r5 d.isLt
  obtain ⟨c6, -⟩ := peel r6 (by decide)
  have f0 : bits w 3 3 = 0 := c1
  have f1 : bits w 11 5 = 7 := c3
  have f2 : bits w 31 26 = 63 := c6
  have k0 : fld 3 0 w = g := fld_of g0
  have k2 : fld 1 4 w = x := fld_of g2
  have k4 : fld 7 12 w = a := fld_of g4
  have k5 : fld 7 19 w = d := fld_of g5
  show Option.filter Instr.wf (decodeVecRaw w) = _
  rw [decodeVecRaw_63 f2]
  delta decodeVec3F
  simp only [f0, f1, k0, k2, k4, k5, and_self, reduceIte, and_true, true_and, and_false, false_and, Nat.reduceEqDiff]
  exact filter_wf hwf

theorem mma (f : BitVec 1) (l : BitVec 1) (h : BitVec 1) (v : BitVec 3) (a : BitVec 4) (b : BitVec 4) (s : BitVec 11) (m : BitVec 2) : Statement (.mma f l h v a b s m) := by
  intro hwf w he
  have he : 134217728 + f.toNat * 67108864 + l.toNat * 33554432 + h.toNat * 16777216 + v.toNat * 2097152 + a.toNat * 131072 + b.toNat * 8192 + s.toNat * 4 + m.toNat * 1 = w := Option.some.inj he
  have r0 : w / 2 ^ 0 = m.toNat + 2 ^ 2 * (s.toNat + 2 ^ 11 * (b.toNat + 2 ^ 4 * (a.toNat + 2 ^ 4 * (v.toNat + 2 ^ 3 * (h.toNat + 2 ^ 1 * (l.toNat + 2 ^ 1 * (f.toNat + 2 ^ 1 * (1 + 2 ^ 5 * (0))))))))) := by rw [← he, Nat.pow_zero, Nat.div_one]; ring
  obtain ⟨g0, r1⟩ := peel r0 m.isLt
  obtain ⟨g1, r2⟩ := peel r1 s.isLt
  obtain ⟨g2, r3⟩ := peel r2 b.isLt
  obtain ⟨g3, r4⟩ := peel r3 a.isLt
  obtain ⟨g4, r5⟩ := peel r4 v.isLt
  obtain ⟨g5, r6⟩ := peel r5 h.isLt
  obtain ⟨g6, r7⟩ := peel r6 l.isLt
  obtain ⟨g7, r8⟩ := peel r7 f.isLt
  obtain ⟨c8, -⟩ := peel r8 (by decide)
  have f0 : bits w 31 27 = 1 := c8
  have k0 : fld 2 0 w = m := fld_of g0
  have k1 : fld 11 2 w = s := fld_of g1
  have k2 : fld 4 13 w = b := fld_of g2
  have k3 : fld 4 17 w = a := fld_of g3
  have k4 : fld 3 21 w = v := fld_of g4
  have k5 : fld 1 24 w = h := fld_of g5
  have k6 : fld 1 25 w = l := fld_of g6
  have k7 : fld 1 26 w = f := fld_of g7
  show Option.filter Instr.wf (decodeMatRaw w) = _
  rw [decodeMatRaw_1 f0]
  simp only [k0, k1, k2, k3, k4, k5, k6, k7]
  exact filter_wf hwf

theorem conv (f : BitVec 1) (l : BitVec 1) (h : BitVec 1) (v : BitVec 3) (c : BitVec 3) (a : BitVec 4) (b : BitVec 4) (m : BitVec 2) (k : BitVec 8) : Statement (.conv f l h v c a b m k) := by
  intro hwf w he
  have he : 268435456 + f.toNat * 67108864 + l.toNat * 33554432 + h.toNat * 16777216 + v.toNat * 2097152 + c.toNat * 262144 + a.toNat * 16384 + b.toNat * 1024 + m.toNat * 256 + k.toNat * 1 = w := Option.some.inj he
  have r0 : w / 2 ^ 0 = k.toNat + 2 ^ 8 * (m.toNat + 2 ^ 2 * (b.toNat + 2 ^ 4 * (a.toNat + 2 ^ 4 * (c.toNat + 2 ^ 3 * (v.toNat + 2 ^ 3 * (h.toNat + 2 ^ 1 * (l.toNat + 2 ^ 1 * (f.toNat + 2 ^ 1 * (2 + 2 ^ 5 * (0)))))))))) := by rw [← he, Nat.pow_zero, Nat.div_one]; ring
  obtain ⟨g0, r1⟩ := peel r0 k.isLt
  obtain ⟨g1, r2⟩ := peel r1 m.isLt
  obtain ⟨g2, r3⟩ := peel r2 b.isLt
  obtain ⟨g3, r4⟩ := peel r3 a.isLt
  obtain ⟨g4, r5⟩ := peel r4 c.isLt
  obtain ⟨g5, r6⟩ := peel r5 v.isLt
  obtain ⟨g6, r7⟩ := peel r6 h.isLt
  obtain ⟨g7, r8⟩ := peel r7 l.isLt
  obtain ⟨g8, r9⟩ := peel r8 f.isLt
  obtain ⟨c9, -⟩ := peel r9 (by decide)
  have f0 : bits w 31 27 = 2 := c9
  have k0 : fld 8 0 w = k := fld_of g0
  have k1 : fld 2 8 w = m := fld_of g1
  have k2 : fld 4 10 w = b := fld_of g2
  have k3 : fld 4 14 w = a := fld_of g3
  have k4 : fld 3 18 w = c := fld_of g4
  have k5 : fld 3 21 w = v := fld_of g5
  have k6 : fld 1 24 w = h := fld_of g6
  have k7 : fld 1 25 w = l := fld_of g7
  have k8 : fld 1 26 w = f := fld_of g8
  show Option.filter Instr.wf (decodeMatRaw w) = _
  rw [decodeMatRaw_2 f0]
  simp only [k0, k1, k2, k3, k4, k5, k6, k7, k8]
  exact filter_wf hwf

theorem accz (f : BitVec 1) (l : BitVec 1) (v : BitVec 3) (n : BitVec 8) (s : BitVec 11) : Statement (.accz f l v n s) := by
  intro hwf w he
  have he : 402653184 + f.toNat * 67108864 + l.toNat * 33554432 + v.toNat * 2097152 + n.toNat * 8192 + s.toNat * 4 = w := Option.some.inj he
  have r0 : w / 2 ^ 0 = 0 + 2 ^ 2 * (s.toNat + 2 ^ 11 * (n.toNat + 2 ^ 8 * (v.toNat + 2 ^ 3 * (0 + 2 ^ 1 * (l.toNat + 2 ^ 1 * (f.toNat + 2 ^ 1 * (3 + 2 ^ 5 * (0)))))))) := by rw [← he, Nat.pow_zero, Nat.div_one]; ring
  obtain ⟨c0, r1⟩ := peel r0 (by decide)
  obtain ⟨g1, r2⟩ := peel r1 s.isLt
  obtain ⟨g2, r3⟩ := peel r2 n.isLt
  obtain ⟨g3, r4⟩ := peel r3 v.isLt
  obtain ⟨c4, r5⟩ := peel r4 (by decide)
  obtain ⟨g5, r6⟩ := peel r5 l.isLt
  obtain ⟨g6, r7⟩ := peel r6 f.isLt
  obtain ⟨c7, -⟩ := peel r7 (by decide)
  have f0 : bits w 1 0 = 0 := c0
  have f1 : bits w 24 24 = 0 := c4
  have f2 : bits w 31 27 = 3 := c7
  have k1 : fld 11 2 w = s := fld_of g1
  have k2 : fld 8 13 w = n := fld_of g2
  have k3 : fld 3 21 w = v := fld_of g3
  have k5 : fld 1 25 w = l := fld_of g5
  have k6 : fld 1 26 w = f := fld_of g6
  show Option.filter Instr.wf (decodeMatRaw w) = _
  rw [decodeMatRaw_3 f2]
  simp only [f0, f1, k1, k2, k3, k5, k6, and_self, reduceIte, and_true, true_and, and_false, false_and, Nat.reduceEqDiff]
  exact filter_wf hwf

theorem accmv (f : BitVec 1) (l : BitVec 1) (v : BitVec 3) (q : BitVec 4) (c : BitVec 1) (s : BitVec 11) : Statement (.accmv f l v q c s) := by
  intro hwf w he
  have he : 536870912 + f.toNat * 67108864 + l.toNat * 33554432 + v.toNat * 2097152 + q.toNat * 131072 + c.toNat * 65536 + s.toNat * 4 = w := Option.some.inj he
  have r0 : w / 2 ^ 0 = 0 + 2 ^ 2 * (s.toNat + 2 ^ 11 * (0 + 2 ^ 3 * (c.toNat + 2 ^ 1 * (q.toNat + 2 ^ 4 * (v.toNat + 2 ^ 3 * (0 + 2 ^ 1 * (l.toNat + 2 ^ 1 * (f.toNat + 2 ^ 1 * (4 + 2 ^ 5 * (0)))))))))) := by rw [← he, Nat.pow_zero, Nat.div_one]; ring
  obtain ⟨c0, r1⟩ := peel r0 (by decide)
  obtain ⟨g1, r2⟩ := peel r1 s.isLt
  obtain ⟨c2, r3⟩ := peel r2 (by decide)
  obtain ⟨g3, r4⟩ := peel r3 c.isLt
  obtain ⟨g4, r5⟩ := peel r4 q.isLt
  obtain ⟨g5, r6⟩ := peel r5 v.isLt
  obtain ⟨c6, r7⟩ := peel r6 (by decide)
  obtain ⟨g7, r8⟩ := peel r7 l.isLt
  obtain ⟨g8, r9⟩ := peel r8 f.isLt
  obtain ⟨c9, -⟩ := peel r9 (by decide)
  have f0 : bits w 1 0 = 0 := c0
  have f1 : bits w 15 13 = 0 := c2
  have f2 : bits w 24 24 = 0 := c6
  have f3 : bits w 31 27 = 4 := c9
  have k1 : fld 11 2 w = s := fld_of g1
  have k3 : fld 1 16 w = c := fld_of g3
  have k4 : fld 4 17 w = q := fld_of g4
  have k5 : fld 3 21 w = v := fld_of g5
  have k7 : fld 1 25 w = l := fld_of g7
  have k8 : fld 1 26 w = f := fld_of g8
  show Option.filter Instr.wf (decodeMatRaw w) = _
  rw [decodeMatRaw_4 f3]
  simp only [f0, f1, f2, k1, k3, k4, k5, k7, k8, and_self, reduceIte, and_true, true_and, and_false, false_and, Nat.reduceEqDiff]
  exact filter_wf hwf

theorem swait (f : BitVec 1) (l : BitVec 1) (v : BitVec 3) (q : BitVec 4) (n : BitVec 13) : Statement (.swait f l v q n) := by
  intro hwf w he
  have he : 671088640 + f.toNat * 67108864 + l.toNat * 33554432 + v.toNat * 2097152 + q.toNat * 131072 + n.toNat * 1 = w := Option.some.inj he
  have r0 : w / 2 ^ 0 = n.toNat + 2 ^ 13 * (0 + 2 ^ 4 * (q.toNat + 2 ^ 4 * (v.toNat + 2 ^ 3 * (0 + 2 ^ 1 * (l.toNat + 2 ^ 1 * (f.toNat + 2 ^ 1 * (5 + 2 ^ 5 * (0)))))))) := by rw [← he, Nat.pow_zero, Nat.div_one]; ring
  obtain ⟨g0, r1⟩ := peel r0 n.isLt
  obtain ⟨c1, r2⟩ := peel r1 (by decide)
  obtain ⟨g2, r3⟩ := peel r2 q.isLt
  obtain ⟨g3, r4⟩ := peel r3 v.isLt
  obtain ⟨c4, r5⟩ := peel r4 (by decide)
  obtain ⟨g5, r6⟩ := peel r5 l.isLt
  obtain ⟨g6, r7⟩ := peel r6 f.isLt
  obtain ⟨c7, -⟩ := peel r7 (by decide)
  have f0 : bits w 16 13 = 0 := c1
  have f1 : bits w 24 24 = 0 := c4
  have f2 : bits w 31 27 = 5 := c7
  have k0 : fld 13 0 w = n := fld_of g0
  have k2 : fld 4 17 w = q := fld_of g2
  have k3 : fld 3 21 w = v := fld_of g3
  have k5 : fld 1 25 w = l := fld_of g5
  have k6 : fld 1 26 w = f := fld_of g6
  show Option.filter Instr.wf (decodeMatRaw w) = _
  rw [decodeMatRaw_5 f2]
  simp only [f0, f1, k0, k2, k3, k5, k6, and_self, reduceIte, and_true, true_and, and_false, false_and, Nat.reduceEqDiff]
  exact filter_wf hwf

theorem sadv (f : BitVec 1) (l : BitVec 1) (v : BitVec 3) (q : BitVec 4) (n : BitVec 13) : Statement (.sadv f l v q n) := by
  intro hwf w he
  have he : 805306368 + f.toNat * 67108864 + l.toNat * 33554432 + v.toNat * 2097152 + q.toNat * 131072 + n.toNat * 1 = w := Option.some.inj he
  have r0 : w / 2 ^ 0 = n.toNat + 2 ^ 13 * (0 + 2 ^ 4 * (q.toNat + 2 ^ 4 * (v.toNat + 2 ^ 3 * (0 + 2 ^ 1 * (l.toNat + 2 ^ 1 * (f.toNat + 2 ^ 1 * (6 + 2 ^ 5 * (0)))))))) := by rw [← he, Nat.pow_zero, Nat.div_one]; ring
  obtain ⟨g0, r1⟩ := peel r0 n.isLt
  obtain ⟨c1, r2⟩ := peel r1 (by decide)
  obtain ⟨g2, r3⟩ := peel r2 q.isLt
  obtain ⟨g3, r4⟩ := peel r3 v.isLt
  obtain ⟨c4, r5⟩ := peel r4 (by decide)
  obtain ⟨g5, r6⟩ := peel r5 l.isLt
  obtain ⟨g6, r7⟩ := peel r6 f.isLt
  obtain ⟨c7, -⟩ := peel r7 (by decide)
  have f0 : bits w 16 13 = 0 := c1
  have f1 : bits w 24 24 = 0 := c4
  have f2 : bits w 31 27 = 6 := c7
  have k0 : fld 13 0 w = n := fld_of g0
  have k2 : fld 4 17 w = q := fld_of g2
  have k3 : fld 3 21 w = v := fld_of g3
  have k5 : fld 1 25 w = l := fld_of g5
  have k6 : fld 1 26 w = f := fld_of g6
  show Option.filter Instr.wf (decodeMatRaw w) = _
  rw [decodeMatRaw_6 f2]
  simp only [f0, f1, k0, k2, k3, k5, k6, and_self, reduceIte, and_true, true_and, and_false, false_and, Nat.reduceEqDiff]
  exact filter_wf hwf

theorem smark (f : BitVec 1) (l : BitVec 1) (v : BitVec 3) (n : BitVec 1) (m : BitVec 16) : Statement (.smark f l v n m) := by
  intro hwf w he
  have he : 939524096 + f.toNat * 67108864 + l.toNat * 33554432 + v.toNat * 2097152 + n.toNat * 65536 + m.toNat * 1 = w := Option.some.inj he
  have r0 : w / 2 ^ 0 = m.toNat + 2 ^ 16 * (n.toNat + 2 ^ 1 * (0 + 2 ^ 4 * (v.toNat + 2 ^ 3 * (0 + 2 ^ 1 * (l.toNat + 2 ^ 1 * (f.toNat + 2 ^ 1 * (7 + 2 ^ 5 * (0)))))))) := by rw [← he, Nat.pow_zero, Nat.div_one]; ring
  obtain ⟨g0, r1⟩ := peel r0 m.isLt
  obtain ⟨g1, r2⟩ := peel r1 n.isLt
  obtain ⟨c2, r3⟩ := peel r2 (by decide)
  obtain ⟨g3, r4⟩ := peel r3 v.isLt
  obtain ⟨c4, r5⟩ := peel r4 (by decide)
  obtain ⟨g5, r6⟩ := peel r5 l.isLt
  obtain ⟨g6, r7⟩ := peel r6 f.isLt
  obtain ⟨c7, -⟩ := peel r7 (by decide)
  have f0 : bits w 20 17 = 0 := c2
  have f1 : bits w 24 24 = 0 := c4
  have f2 : bits w 31 27 = 7 := c7
  have k0 : fld 16 0 w = m := fld_of g0
  have k1 : fld 1 16 w = n := fld_of g1
  have k3 : fld 3 21 w = v := fld_of g3
  have k5 : fld 1 25 w = l := fld_of g5
  have k6 : fld 1 26 w = f := fld_of g6
  show Option.filter Instr.wf (decodeMatRaw w) = _
  rw [decodeMatRaw_7 f2]
  simp only [f0, f1, k0, k1, k3, k5, k6, and_self, reduceIte, and_true, true_and, and_false, false_and, Nat.reduceEqDiff]
  exact filter_wf hwf

theorem linkcfg (f : BitVec 1) (l : BitVec 1) (v : BitVec 3) (k : BitVec 3) (c : BitVec 1) (m : BitVec 3) (q : BitVec 4) : Statement (.linkcfg f l v k c m q) := by
  intro hwf w he
  have he : 1073741824 + f.toNat * 67108864 + l.toNat * 33554432 + v.toNat * 2097152 + k.toNat * 262144 + c.toNat * 131072 + m.toNat * 16384 + q.toNat * 1024 = w := Option.some.inj he
  have r0 : w / 2 ^ 0 = 0 + 2 ^ 10 * (q.toNat + 2 ^ 4 * (m.toNat + 2 ^ 3 * (c.toNat + 2 ^ 1 * (k.toNat + 2 ^ 3 * (v.toNat + 2 ^ 3 * (0 + 2 ^ 1 * (l.toNat + 2 ^ 1 * (f.toNat + 2 ^ 1 * (8 + 2 ^ 5 * (0)))))))))) := by rw [← he, Nat.pow_zero, Nat.div_one]; ring
  obtain ⟨c0, r1⟩ := peel r0 (by decide)
  obtain ⟨g1, r2⟩ := peel r1 q.isLt
  obtain ⟨g2, r3⟩ := peel r2 m.isLt
  obtain ⟨g3, r4⟩ := peel r3 c.isLt
  obtain ⟨g4, r5⟩ := peel r4 k.isLt
  obtain ⟨g5, r6⟩ := peel r5 v.isLt
  obtain ⟨c6, r7⟩ := peel r6 (by decide)
  obtain ⟨g7, r8⟩ := peel r7 l.isLt
  obtain ⟨g8, r9⟩ := peel r8 f.isLt
  obtain ⟨c9, -⟩ := peel r9 (by decide)
  have f0 : bits w 9 0 = 0 := c0
  have f1 : bits w 24 24 = 0 := c6
  have f2 : bits w 31 27 = 8 := c9
  have k1 : fld 4 10 w = q := fld_of g1
  have k2 : fld 3 14 w = m := fld_of g2
  have k3 : fld 1 17 w = c := fld_of g3
  have k4 : fld 3 18 w = k := fld_of g4
  have k5 : fld 3 21 w = v := fld_of g5
  have k7 : fld 1 25 w = l := fld_of g7
  have k8 : fld 1 26 w = f := fld_of g8
  show Option.filter Instr.wf (decodeMatRaw w) = _
  rw [decodeMatRaw_8 f2]
  simp only [f0, f1, k1, k2, k3, k4, k5, k7, k8, and_self, reduceIte, and_true, true_and, and_false, false_and, Nat.reduceEqDiff]
  exact filter_wf hwf

theorem wld (f : BitVec 1) (l : BitVec 1) (v : BitVec 3) (b : BitVec 4) : Statement (.wld f l v b) := by
  intro hwf w he
  have he : 1207959552 + f.toNat * 67108864 + l.toNat * 33554432 + v.toNat * 2097152 + b.toNat * 8192 = w := Option.some.inj he
  have r0 : w / 2 ^ 0 = 0 + 2 ^ 13 * (b.toNat + 2 ^ 4 * (0 + 2 ^ 4 * (v.toNat + 2 ^ 3 * (0 + 2 ^ 1 * (l.toNat + 2 ^ 1 * (f.toNat + 2 ^ 1 * (9 + 2 ^ 5 * (0)))))))) := by rw [← he, Nat.pow_zero, Nat.div_one]; ring
  obtain ⟨c0, r1⟩ := peel r0 (by decide)
  obtain ⟨g1, r2⟩ := peel r1 b.isLt
  obtain ⟨c2, r3⟩ := peel r2 (by decide)
  obtain ⟨g3, r4⟩ := peel r3 v.isLt
  obtain ⟨c4, r5⟩ := peel r4 (by decide)
  obtain ⟨g5, r6⟩ := peel r5 l.isLt
  obtain ⟨g6, r7⟩ := peel r6 f.isLt
  obtain ⟨c7, -⟩ := peel r7 (by decide)
  have f0 : bits w 12 0 = 0 := c0
  have f1 : bits w 20 17 = 0 := c2
  have f2 : bits w 24 24 = 0 := c4
  have f3 : bits w 31 27 = 9 := c7
  have k1 : fld 4 13 w = b := fld_of g1
  have k3 : fld 3 21 w = v := fld_of g3
  have k5 : fld 1 25 w = l := fld_of g5
  have k6 : fld 1 26 w = f := fld_of g6
  show Option.filter Instr.wf (decodeMatRaw w) = _
  rw [decodeMatRaw_9 f3]
  simp only [f0, f1, f2, k1, k3, k5, k6, and_self, reduceIte, and_true, true_and, and_false, false_and, Nat.reduceEqDiff]
  exact filter_wf hwf

theorem accld (f : BitVec 1) (l : BitVec 1) (v : BitVec 3) (q : BitVec 4) (s : BitVec 11) : Statement (.accld f l v q s) := by
  intro hwf w he
  have he : 1342177280 + f.toNat * 67108864 + l.toNat * 33554432 + v.toNat * 2097152 + q.toNat * 131072 + s.toNat * 4 = w := Option.some.inj he
  have r0 : w / 2 ^ 0 = 0 + 2 ^ 2 * (s.toNat + 2 ^ 11 * (0 + 2 ^ 4 * (q.toNat + 2 ^ 4 * (v.toNat + 2 ^ 3 * (0 + 2 ^ 1 * (l.toNat + 2 ^ 1 * (f.toNat + 2 ^ 1 * (10 + 2 ^ 5 * (0))))))))) := by rw [← he, Nat.pow_zero, Nat.div_one]; ring
  obtain ⟨c0, r1⟩ := peel r0 (by decide)
  obtain ⟨g1, r2⟩ := peel r1 s.isLt
  obtain ⟨c2, r3⟩ := peel r2 (by decide)
  obtain ⟨g3, r4⟩ := peel r3 q.isLt
  obtain ⟨g4, r5⟩ := peel r4 v.isLt
  obtain ⟨c5, r6⟩ := peel r5 (by decide)
  obtain ⟨g6, r7⟩ := peel r6 l.isLt
  obtain ⟨g7, r8⟩ := peel r7 f.isLt
  obtain ⟨c8, -⟩ := peel r8 (by decide)
  have f0 : bits w 1 0 = 0 := c0
  have f1 : bits w 16 13 = 0 := c2
  have f2 : bits w 24 24 = 0 := c5
  have f3 : bits w 31 27 = 10 := c8
  have k1 : fld 11 2 w = s := fld_of g1
  have k3 : fld 4 17 w = q := fld_of g3
  have k4 : fld 3 21 w = v := fld_of g4
  have k6 : fld 1 25 w = l := fld_of g6
  have k7 : fld 1 26 w = f := fld_of g7
  show Option.filter Instr.wf (decodeMatRaw w) = _
  rw [decodeMatRaw_10 f3]
  simp only [f0, f1, f2, k1, k3, k4, k6, k7, and_self, reduceIte, and_true, true_and, and_false, false_and, Nat.reduceEqDiff]
  exact filter_wf hwf

theorem srst (f : BitVec 1) (l : BitVec 1) (v : BitVec 3) (q : BitVec 4) : Statement (.srst f l v q) := by
  intro hwf w he
  have he : 1476395008 + f.toNat * 67108864 + l.toNat * 33554432 + v.toNat * 2097152 + q.toNat * 131072 = w := Option.some.inj he
  have r0 : w / 2 ^ 0 = 0 + 2 ^ 17 * (q.toNat + 2 ^ 4 * (v.toNat + 2 ^ 3 * (0 + 2 ^ 1 * (l.toNat + 2 ^ 1 * (f.toNat + 2 ^ 1 * (11 + 2 ^ 5 * (0))))))) := by rw [← he, Nat.pow_zero, Nat.div_one]; ring
  obtain ⟨c0, r1⟩ := peel r0 (by decide)
  obtain ⟨g1, r2⟩ := peel r1 q.isLt
  obtain ⟨g2, r3⟩ := peel r2 v.isLt
  obtain ⟨c3, r4⟩ := peel r3 (by decide)
  obtain ⟨g4, r5⟩ := peel r4 l.isLt
  obtain ⟨g5, r6⟩ := peel r5 f.isLt
  obtain ⟨c6, -⟩ := peel r6 (by decide)
  have f0 : bits w 16 0 = 0 := c0
  have f1 : bits w 24 24 = 0 := c3
  have f2 : bits w 31 27 = 11 := c6
  have k1 : fld 4 17 w = q := fld_of g1
  have k2 : fld 3 21 w = v := fld_of g2
  have k4 : fld 1 25 w = l := fld_of g4
  have k5 : fld 1 26 w = f := fld_of g5
  show Option.filter Instr.wf (decodeMatRaw w) = _
  rw [decodeMatRaw_11 f2]
  simp only [f0, f1, k1, k2, k4, k5, and_self, reduceIte, and_true, true_and, and_false, false_and, Nat.reduceEqDiff]
  exact filter_wf hwf

theorem matNop (f : BitVec 1) (l : BitVec 1) (v : BitVec 3) : Statement (.matNop f l v) := by
  intro hwf w he
  have he : 4026531840 + f.toNat * 67108864 + l.toNat * 33554432 + v.toNat * 2097152 = w := Option.some.inj he
  have r0 : w / 2 ^ 0 = 0 + 2 ^ 21 * (v.toNat + 2 ^ 3 * (0 + 2 ^ 1 * (l.toNat + 2 ^ 1 * (f.toNat + 2 ^ 1 * (30 + 2 ^ 5 * (0)))))) := by rw [← he, Nat.pow_zero, Nat.div_one]; ring
  obtain ⟨c0, r1⟩ := peel r0 (by decide)
  obtain ⟨g1, r2⟩ := peel r1 v.isLt
  obtain ⟨c2, r3⟩ := peel r2 (by decide)
  obtain ⟨g3, r4⟩ := peel r3 l.isLt
  obtain ⟨g4, r5⟩ := peel r4 f.isLt
  obtain ⟨c5, -⟩ := peel r5 (by decide)
  have f0 : bits w 20 0 = 0 := c0
  have f1 : bits w 24 24 = 0 := c2
  have f2 : bits w 31 27 = 30 := c5
  have k1 : fld 3 21 w = v := fld_of g1
  have k3 : fld 1 25 w = l := fld_of g3
  have k4 : fld 1 26 w = f := fld_of g4
  show Option.filter Instr.wf (decodeMatRaw w) = _
  rw [decodeMatRaw_30 f2]
  simp only [f0, f1, k1, k3, k4, and_self, reduceIte, and_true, true_and, and_false, false_and, Nat.reduceEqDiff]
  exact filter_wf hwf

theorem matHalt : Statement (.matHalt) := by
  intro hwf w he
  have he : 4160749568 = w := Option.some.inj he
  have r0 : w / 2 ^ 0 = 0 + 2 ^ 27 * (31 + 2 ^ 5 * (0)) := by rw [← he, Nat.pow_zero, Nat.div_one]; ring
  obtain ⟨c0, r1⟩ := peel r0 (by decide)
  obtain ⟨c1, -⟩ := peel r1 (by decide)
  have f0 : bits w 26 0 = 0 := c0
  have f1 : bits w 31 27 = 31 := c1
  show Option.filter Instr.wf (decodeMatRaw w) = _
  rw [decodeMatRaw_31 f1]
  simp only [f0, and_self, reduceIte, and_true, true_and, and_false, false_and, Nat.reduceEqDiff]
  exact filter_wf hwf

theorem cld (f : BitVec 1) (l : BitVec 1) (e : BitVec 1) (t : BitVec 1) (x : BitVec 6) (v : BitVec 3) (g : BitVec 4) (b : BitVec 4) : Statement (.cld f l e t x v g b) := by
  intro hwf w he
  have he : 134217728 + f.toNat * 67108864 + l.toNat * 33554432 + e.toNat * 16777216 + t.toNat * 8388608 + x.toNat * 131072 + v.toNat * 16384 + g.toNat * 1024 + b.toNat * 8 = w := Option.some.inj he
  have r0 : w / 2 ^ 0 = 0 + 2 ^ 3 * (b.toNat + 2 ^ 4 * (0 + 2 ^ 3 * (g.toNat + 2 ^ 4 * (v.toNat + 2 ^ 3 * (x.toNat + 2 ^ 6 * (t.toNat + 2 ^ 1 * (e.toNat + 2 ^ 1 * (l.toNat + 2 ^ 1 * (f.toNat + 2 ^ 1 * (1 + 2 ^ 5 * (0))))))))))) := by rw [← he, Nat.pow_zero, Nat.div_one]; ring
  obtain ⟨c0, r1⟩ := peel r0 (by decide)
  obtain ⟨g1, r2⟩ := peel r1 b.isLt
  obtain ⟨c2, r3⟩ := peel r2 (by decide)
  obtain ⟨g3, r4⟩ := peel r3 g.isLt
  obtain ⟨g4, r5⟩ := peel r4 v.isLt
  obtain ⟨g5, r6⟩ := peel r5 x.isLt
  obtain ⟨g6, r7⟩ := peel r6 t.isLt
  obtain ⟨g7, r8⟩ := peel r7 e.isLt
  obtain ⟨g8, r9⟩ := peel r8 l.isLt
  obtain ⟨g9, r10⟩ := peel r9 f.isLt
  obtain ⟨c10, -⟩ := peel r10 (by decide)
  have f0 : bits w 2 0 = 0 := c0
  have f1 : bits w 9 7 = 0 := c2
  have f2 : bits w 31 27 = 1 := c10
  have k1 : fld 4 3 w = b := fld_of g1
  have k3 : fld 4 10 w = g := fld_of g3
  have k4 : fld 3 14 w = v := fld_of g4
  have k5 : fld 6 17 w = x := fld_of g5
  have k6 : fld 1 23 w = t := fld_of g6
  have k7 : fld 1 24 w = e := fld_of g7
  have k8 : fld 1 25 w = l := fld_of g8
  have k9 : fld 1 26 w = f := fld_of g9
  show Option.filter Instr.wf (decodeCopyRaw w) = _
  rw [decodeCopyRaw_1 f2]
  delta decodeCopy01
  simp only [f0, f1, k1, k3, k4, k5, k6, k7, k8, k9, and_self, reduceIte, and_true, true_and, and_false, false_and, Nat.reduceEqDiff]
  exact filter_wf hwf

theorem cldRing (f : BitVec 1) (l : BitVec 1) (e : BitVec 1) (t : BitVec 1) (x : BitVec 6) (v : BitVec 3) (g : BitVec 4) (c : BitVec 6) : Statement (.cldRing f l e t x v g c) := by
  intro hwf w he
  have he : 134218240 + f.toNat * 67108864 + l.toNat * 33554432 + e.toNat * 16777216 + t.toNat * 8388608 + x.toNat * 131072 + v.toNat * 16384 + g.toNat * 1024 + c.toNat * 8 = w := Option.some.inj he
  have r0 : w / 2 ^ 0 = 0 + 2 ^ 3 * (c.toNat + 2 ^ 6 * (1 + 2 ^ 1 * (g.toNat + 2 ^ 4 * (v.toNat + 2 ^ 3 * (x.toNat + 2 ^ 6 * (t.toNat + 2 ^ 1 * (e.toNat + 2 ^ 1 * (l.toNat + 2 ^ 1 * (f.toNat + 2 ^ 1 * (1 + 2 ^ 5 * (0))))))))))) := by rw [← he, Nat.pow_zero, Nat.div_one]; ring
  obtain ⟨c0, r1⟩ := peel r0 (by decide)
  obtain ⟨g1, r2⟩ := peel r1 c.isLt
  obtain ⟨c2, r3⟩ := peel r2 (by decide)
  obtain ⟨g3, r4⟩ := peel r3 g.isLt
  obtain ⟨g4, r5⟩ := peel r4 v.isLt
  obtain ⟨g5, r6⟩ := peel r5 x.isLt
  obtain ⟨g6, r7⟩ := peel r6 t.isLt
  obtain ⟨g7, r8⟩ := peel r7 e.isLt
  obtain ⟨g8, r9⟩ := peel r8 l.isLt
  obtain ⟨g9, r10⟩ := peel r9 f.isLt
  obtain ⟨c10, -⟩ := peel r10 (by decide)
  have f0 : bits w 2 0 = 0 := c0
  have f1 : bits w 9 9 = 1 := c2
  have f2 : bits w 31 27 = 1 := c10
  have n0 : ¬ bits w 9 7 = 0 := by
    intro hh
    exact absurd c2 (apart hh (by decide) (by decide) (by decide))
  have k1 : fld 6 3 w = c := fld_of g1
  have k3 : fld 4 10 w = g := fld_of g3
  have k4 : fld 3 14 w = v := fld_of g4
  have k5 : fld 6 17 w = x := fld_of g5
  have k6 : fld 1 23 w = t := fld_of g6
  have k7 : fld 1 24 w = e := fld_of g7
  have k8 : fld 1 25 w = l := fld_of g8
  have k9 : fld 1 26 w = f := fld_of g9
  show Option.filter Instr.wf (decodeCopyRaw w) = _
  rw [decodeCopyRaw_1 f2]
  delta decodeCopy01
  simp only [f0, f1, n0, k1, k3, k4, k5, k6, k7, k8, k9, and_self, reduceIte, and_true, true_and, and_false, false_and, Nat.reduceEqDiff]
  exact filter_wf hwf

theorem cst (f : BitVec 1) (l : BitVec 1) (e : BitVec 1) (t : BitVec 1) (x : BitVec 6) (v : BitVec 3) (g : BitVec 4) (b : BitVec 4) : Statement (.cst f l e t x v g b) := by
  intro hwf w he
  have he : 268435456 + f.toNat * 67108864 + l.toNat * 33554432 + e.toNat * 16777216 + t.toNat * 8388608 + x.toNat * 131072 + v.toNat * 16384 + g.toNat * 1024 + b.toNat * 8 = w := Option.some.inj he
  have r0 : w / 2 ^ 0 = 0 + 2 ^ 3 * (b.toNat + 2 ^ 4 * (0 + 2 ^ 3 * (g.toNat + 2 ^ 4 * (v.toNat + 2 ^ 3 * (x.toNat + 2 ^ 6 * (t.toNat + 2 ^ 1 * (e.toNat + 2 ^ 1 * (l.toNat + 2 ^ 1 * (f.toNat + 2 ^ 1 * (2 + 2 ^ 5 * (0))))))))))) := by rw [← he, Nat.pow_zero, Nat.div_one]; ring
  obtain ⟨c0, r1⟩ := peel r0 (by decide)
  obtain ⟨g1, r2⟩ := peel r1 b.isLt
  obtain ⟨c2, r3⟩ := peel r2 (by decide)
  obtain ⟨g3, r4⟩ := peel r3 g.isLt
  obtain ⟨g4, r5⟩ := peel r4 v.isLt
  obtain ⟨g5, r6⟩ := peel r5 x.isLt
  obtain ⟨g6, r7⟩ := peel r6 t.isLt
  obtain ⟨g7, r8⟩ := peel r7 e.isLt
  obtain ⟨g8, r9⟩ := peel r8 l.isLt
  obtain ⟨g9, r10⟩ := peel r9 f.isLt
  obtain ⟨c10, -⟩ := peel r10 (by decide)
  have f0 : bits w 2 0 = 0 := c0
  have f1 : bits w 9 7 = 0 := c2
  have f2 : bits w 31 27 = 2 := c10
  have k1 : fld 4 3 w = b := fld_of g1
  have k3 : fld 4 10 w = g := fld_of g3
  have k4 : fld 3 14 w = v := fld_of g4
  have k5 : fld 6 17 w = x := fld_of g5
  have k6 : fld 1 23 w = t := fld_of g6
  have k7 : fld 1 24 w = e := fld_of g7
  have k8 : fld 1 25 w = l := fld_of g8
  have k9 : fld 1 26 w = f := fld_of g9
  show Option.filter Instr.wf (decodeCopyRaw w) = _
  rw [decodeCopyRaw_2 f2]
  delta decodeCopy02
  simp only [f0, f1, k1, k3, k4, k5, k6, k7, k8, k9, and_self, reduceIte, and_true, true_and, and_false, false_and, Nat.reduceEqDiff]
  exact filter_wf hwf

theorem cstRing (f : BitVec 1) (l : BitVec 1) (e : BitVec 1) (t : BitVec 1) (x : BitVec 6) (v : BitVec 3) (g : BitVec 4) (c : BitVec 6) : Statement (.cstRing f l e t x v g c) := by
  intro hwf w he
  have he : 268435968 + f.toNat * 67108864 + l.toNat * 33554432 + e.toNat * 16777216 + t.toNat * 8388608 + x.toNat * 131072 + v.toNat * 16384 + g.toNat * 1024 + c.toNat * 8 = w := Option.some.inj he
  have r0 : w / 2 ^ 0 = 0 + 2 ^ 3 * (c.toNat + 2 ^ 6 * (1 + 2 ^ 1 * (g.toNat + 2 ^ 4 * (v.toNat + 2 ^ 3 * (x.toNat + 2 ^ 6 * (t.toNat + 2 ^ 1 * (e.toNat + 2 ^ 1 * (l.toNat + 2 ^ 1 * (f.toNat + 2 ^ 1 * (2 + 2 ^ 5 * (0))))))))))) := by rw [← he, Nat.pow_zero, Nat.div_one]; ring
  obtain ⟨c0, r1⟩ := peel r0 (by decide)
  obtain ⟨g1, r2⟩ := peel r1 c.isLt
  obtain ⟨c2, r3⟩ := peel r2 (by decide)
  obtain ⟨g3, r4⟩ := peel r3 g.isLt
  obtain ⟨g4, r5⟩ := peel r4 v.isLt
  obtain ⟨g5, r6⟩ := peel r5 x.isLt
  obtain ⟨g6, r7⟩ := peel r6 t.isLt
  obtain ⟨g7, r8⟩ := peel r7 e.isLt
  obtain ⟨g8, r9⟩ := peel r8 l.isLt
  obtain ⟨g9, r10⟩ := peel r9 f.isLt
  obtain ⟨c10, -⟩ := peel r10 (by decide)
  have f0 : bits w 2 0 = 0 := c0
  have f1 : bits w 9 9 = 1 := c2
  have f2 : bits w 31 27 = 2 := c10
  have n0 : ¬ bits w 9 7 = 0 := by
    intro hh
    exact absurd c2 (apart hh (by decide) (by decide) (by decide))
  have k1 : fld 6 3 w = c := fld_of g1
  have k3 : fld 4 10 w = g := fld_of g3
  have k4 : fld 3 14 w = v := fld_of g4
  have k5 : fld 6 17 w = x := fld_of g5
  have k6 : fld 1 23 w = t := fld_of g6
  have k7 : fld 1 24 w = e := fld_of g7
  have k8 : fld 1 25 w = l := fld_of g8
  have k9 : fld 1 26 w = f := fld_of g9
  show Option.filter Instr.wf (decodeCopyRaw w) = _
  rw [decodeCopyRaw_2 f2]
  delta decodeCopy02
  simp only [f0, f1, n0, k1, k3, k4, k5, k6, k7, k8, k9, and_self, reduceIte, and_true, true_and, and_false, false_and, Nat.reduceEqDiff]
  exact filter_wf hwf

theorem cstq (e : BitVec 1) (t : BitVec 1) (x : BitVec 6) (g : BitVec 4) (b : BitVec 4) (m : BitVec 3) (y : BitVec 2) : Statement (.cstq e t x g b m y) := by
  intro hwf w he
  have he : 402653184 + e.toNat * 16777216 + t.toNat * 8388608 + x.toNat * 131072 + g.toNat * 8192 + b.toNat * 512 + m.toNat * 64 + y.toNat * 16 = w := Option.some.inj he
  have r0 : w / 2 ^ 0 = 0 + 2 ^ 4 * (y.toNat + 2 ^ 2 * (m.toNat + 2 ^ 3 * (b.toNat + 2 ^ 4 * (g.toNat + 2 ^ 4 * (x.toNat + 2 ^ 6 * (t.toNat + 2 ^ 1 * (e.toNat + 2 ^ 1 * (0 + 2 ^ 2 * (3 + 2 ^ 5 * (0)))))))))) := by rw [← he, Nat.pow_zero, Nat.div_one]; ring
  obtain ⟨c0, r1⟩ := peel r0 (by decide)
  obtain ⟨g1, r2⟩ := peel r1 y.isLt
  obtain ⟨g2, r3⟩ := peel r2 m.isLt
  obtain ⟨g3, r4⟩ := peel r3 b.isLt
  obtain ⟨g4, r5⟩ := peel r4 g.isLt
  obtain ⟨g5, r6⟩ := peel r5 x.isLt
  obtain ⟨g6, r7⟩ := peel r6 t.isLt
  obtain ⟨g7, r8⟩ := peel r7 e.isLt
  obtain ⟨c8, r9⟩ := peel r8 (by decide)
  obtain ⟨c9, -⟩ := peel r9 (by decide)
  have f0 : bits w 3 0 = 0 := c0
  have f1 : bits w 26 25 = 0 := c8
  have f2 : bits w 31 27 = 3 := c9
  have k1 : fld 2 4 w = y := fld_of g1
  have k2 : fld 3 6 w = m := fld_of g2
  have k3 : fld 4 9 w = b := fld_of g3
  have k4 : fld 4 13 w = g := fld_of g4
  have k5 : fld 6 17 w = x := fld_of g5
  have k6 : fld 1 23 w = t := fld_of g6
  have k7 : fld 1 24 w = e := fld_of g7
  show Option.filter Instr.wf (decodeCopyRaw w) = _
  rw [decodeCopyRaw_3 f2]
  simp only [f0, f1, k1, k2, k3, k4, k5, k6, k7, and_self, reduceIte, and_true, true_and, and_false, false_and, Nat.reduceEqDiff]
  exact filter_wf hwf

theorem cmc (e : BitVec 1) (t : BitVec 1) (x : BitVec 6) (a : BitVec 4) (b : BitVec 4) (k : BitVec 8) : Statement (.cmc e t x a b k) := by
  intro hwf w he
  have he : 536870912 + e.toNat * 16777216 + t.toNat * 8388608 + x.toNat * 131072 + a.toNat * 8192 + b.toNat * 512 + k.toNat * 2 = w := Option.some.inj he
  have r0 : w / 2 ^ 0 = 0 + 2 ^ 1 * (k.toNat + 2 ^ 8 * (b.toNat + 2 ^ 4 * (a.toNat + 2 ^ 4 * (x.toNat + 2 ^ 6 * (t.toNat + 2 ^ 1 * (e.toNat + 2 ^ 1 * (0 + 2 ^ 2 * (4 + 2 ^ 5 * (0))))))))) := by rw [← he, Nat.pow_zero, Nat.div_one]; ring
  obtain ⟨c0, r1⟩ := peel r0 (by decide)
  obtain ⟨g1, r2⟩ := peel r1 k.isLt
  obtain ⟨g2, r3⟩ := peel r2 b.isLt
  obtain ⟨g3, r4⟩ := peel r3 a.isLt
  obtain ⟨g4, r5⟩ := peel r4 x.isLt
  obtain ⟨g5, r6⟩ := peel r5 t.isLt
  obtain ⟨g6, r7⟩ := peel r6 e.isLt
  obtain ⟨c7, r8⟩ := peel r7 (by decide)
  obtain ⟨c8, -⟩ := peel r8 (by decide)
  have f0 : bits w 0 0 = 0 := c0
  have f1 : bits w 26 25 = 0 := c7
  have f2 : bits w 31 27 = 4 := c8
  have k1 : fld 8 1 w = k := fld_of g1
  have k2 : fld 4 9 w = b := fld_of g2
  have k3 : fld 4 13 w = a := fld_of g3
  have k4 : fld 6 17 w = x := fld_of g4
  have k5 : fld 1 23 w = t := fld_of g5
  have k6 : fld 1 24 w = e := fld_of g6
  show Option.filter Instr.wf (decodeCopyRaw w) = _
  rw [decodeCopyRaw_4 f2]
  simp only [f0, f1, k1, k2, k3, k4, k5, k6, and_self, reduceIte, and_true, true_and, and_false, false_and, Nat.reduceEqDiff]
  exact filter_wf hwf

theorem cga (e : BitVec 1) (t : BitVec 1) (x : BitVec 6) (g : BitVec 4) (i : BitVec 4) (b : BitVec 4) : Statement (.cga e t x g i b) := by
  intro hwf w he
  have he : 671088640 + e.toNat * 16777216 + t.toNat * 8388608 + x.toNat * 131072 + g.toNat * 8192 + i.toNat * 512 + b.toNat * 32 = w := Option.some.inj he
  have r0 : w / 2 ^ 0 = 0 + 2 ^ 5 * (b.toNat + 2 ^ 4 * (i.toNat + 2 ^ 4 * (g.toNat + 2 ^ 4 * (x.toNat + 2 ^ 6 * (t.toNat + 2 ^ 1 * (e.toNat + 2 ^ 1 * (0 + 2 ^ 2 * (5 + 2 ^ 5 * (0))))))))) := by rw [← he, Nat.pow_zero, Nat.div_one]; ring
  obtain ⟨c0, r1⟩ := peel r0 (by decide)
  obtain ⟨g1, r2⟩ := peel r1 b.isLt
  obtain ⟨g2, r3⟩ := peel r2 i.isLt
  obtain ⟨g3, r4⟩ := peel r3 g.isLt
  obtain ⟨g4, r5⟩ := peel r4 x.isLt
  obtain ⟨g5, r6⟩ := peel r5 t.isLt
  obtain ⟨g6, r7⟩ := peel r6 e.isLt
  obtain ⟨c7, r8⟩ := peel r7 (by decide)
  obtain ⟨c8, -⟩ := peel r8 (by decide)
  have f0 : bits w 4 0 = 0 := c0
  have f1 : bits w 26 25 = 0 := c7
  have f2 : bits w 31 27 = 5 := c8
  have k1 : fld 4 5 w = b := fld_of g1
  have k2 : fld 4 9 w = i := fld_of g2
  have k3 : fld 4 13 w = g := fld_of g3
  have k4 : fld 6 17 w = x := fld_of g4
  have k5 : fld 1 23 w = t := fld_of g5
  have k6 : fld 1 24 w = e := fld_of g6
  show Option.filter Instr.wf (decodeCopyRaw w) = _
  rw [decodeCopyRaw_5 f2]
  simp only [f0, f1, k1, k2, k3, k4, k5, k6, and_self, reduceIte, and_true, true_and, and_false, false_and, Nat.reduceEqDiff]
  exact filter_wf hwf

theorem csc (e : BitVec 1) (t : BitVec 1) (x : BitVec 6) (g : BitVec 4) (i : BitVec 4) (b : BitVec 4) : Statement (.csc e t x g i b) := by
  intro hwf w he
  have he : 805306368 + e.toNat * 16777216 + t.toNat * 8388608 + x.toNat * 131072 + g.toNat * 8192 + i.toNat * 512 + b.toNat * 32 = w := Option.some.inj he
  have r0 : w / 2 ^ 0 = 0 + 2 ^ 5 * (b.toNat + 2 ^ 4 * (i.toNat + 2 ^ 4 * (g.toNat + 2 ^ 4 * (x.toNat + 2 ^ 6 * (t.toNat + 2 ^ 1 * (e.toNat + 2 ^ 1 * (0 + 2 ^ 2 * (6 + 2 ^ 5 * (0))))))))) := by rw [← he, Nat.pow_zero, Nat.div_one]; ring
  obtain ⟨c0, r1⟩ := peel r0 (by decide)
  obtain ⟨g1, r2⟩ := peel r1 b.isLt
  obtain ⟨g2, r3⟩ := peel r2 i.isLt
  obtain ⟨g3, r4⟩ := peel r3 g.isLt
  obtain ⟨g4, r5⟩ := peel r4 x.isLt
  obtain ⟨g5, r6⟩ := peel r5 t.isLt
  obtain ⟨g6, r7⟩ := peel r6 e.isLt
  obtain ⟨c7, r8⟩ := peel r7 (by decide)
  obtain ⟨c8, -⟩ := peel r8 (by decide)
  have f0 : bits w 4 0 = 0 := c0
  have f1 : bits w 26 25 = 0 := c7
  have f2 : bits w 31 27 = 6 := c8
  have k1 : fld 4 5 w = b := fld_of g1
  have k2 : fld 4 9 w = i := fld_of g2
  have k3 : fld 4 13 w = g := fld_of g3
  have k4 : fld 6 17 w = x := fld_of g4
  have k5 : fld 1 23 w = t := fld_of g5
  have k6 : fld 1 24 w = e := fld_of g6
  show Option.filter Instr.wf (decodeCopyRaw w) = _
  rw [decodeCopyRaw_6 f2]
  simp only [f0, f1, k1, k2, k3, k4, k5, k6, and_self, reduceIte, and_true, true_and, and_false, false_and, Nat.reduceEqDiff]
  exact filter_wf hwf

theorem crw (e : BitVec 1) (t : BitVec 1) (x : BitVec 6) (a : BitVec 4) (b : BitVec 4) : Statement (.crw e t x a b) := by
  intro hwf w he
  have he : 939524096 + e.toNat * 16777216 + t.toNat * 8388608 + x.toNat * 131072 + a.toNat * 8192 + b.toNat * 512 = w := Option.some.inj he
  have r0 : w / 2 ^ 0 = 0 + 2 ^ 9 * (b.toNat + 2 ^ 4 * (a.toNat + 2 ^ 4 * (x.toNat + 2 ^ 6 * (t.toNat + 2 ^ 1 * (e.toNat + 2 ^ 1 * (0 + 2 ^ 2 * (7 + 2 ^ 5 * (0)))))))) := by rw [← he, Nat.pow_zero, Nat.div_one]; ring
  obtain ⟨c0, r1⟩ := peel r0 (by decide)
  obtain ⟨g1, r2⟩ := peel r1 b.isLt
  obtain ⟨g2, r3⟩ := peel r2 a.isLt
  obtain ⟨g3, r4⟩ := peel r3 x.isLt
  obtain ⟨g4, r5⟩ := peel r4 t.isLt
  obtain ⟨g5, r6⟩ := peel r5 e.isLt
  obtain ⟨c6, r7⟩ := peel r6 (by decide)
  obtain ⟨c7, -⟩ := peel r7 (by decide)
  have f0 : bits w 8 0 = 0 := c0
  have f1 : bits w 26 25 = 0 := c6
  have f2 : bits w 31 27 = 7 := c7
  have k1 : fld 4 9 w = b := fld_of g1
  have k2 : fld 4 13 w = a := fld_of g2
  have k3 : fld 6 17 w = x := fld_of g3
  have k4 : fld 1 23 w = t := fld_of g4
  have k5 : fld 1 24 w = e := fld_of g5
  show Option.filter Instr.wf (decodeCopyRaw w) = _
  rw [decodeCopyRaw_7 f2]
  simp only [f0, f1, k1, k2, k3, k4, k5, and_self, reduceIte, and_true, true_and, and_false, false_and, Nat.reduceEqDiff]
  exact filter_wf hwf

theorem cred (e : BitVec 1) (t : BitVec 1) (x : BitVec 6) (a : BitVec 4) (b : BitVec 4) : Statement (.cred e t x a b) := by
  intro hwf w he
  have he : 1073741824 + e.toNat * 16777216 + t.toNat * 8388608 + x.toNat * 131072 + a.toNat * 8192 + b.toNat * 512 = w := Option.some.inj he
  have r0 : w / 2 ^ 0 = 0 + 2 ^ 9 * (b.toNat + 2 ^ 4 * (a.toNat + 2 ^ 4 * (x.toNat + 2 ^ 6 * (t.toNat + 2 ^ 1 * (e.toNat + 2 ^ 1 * (0 + 2 ^ 2 * (8 + 2 ^ 5 * (0)))))))) := by rw [← he, Nat.pow_zero, Nat.div_one]; ring
  obtain ⟨c0, r1⟩ := peel r0 (by decide)
  obtain ⟨g1, r2⟩ := peel r1 b.isLt
  obtain ⟨g2, r3⟩ := peel r2 a.isLt
  obtain ⟨g3, r4⟩ := peel r3 x.isLt
  obtain ⟨g4, r5⟩ := peel r4 t.isLt
  obtain ⟨g5, r6⟩ := peel r5 e.isLt
  obtain ⟨c6, r7⟩ := peel r6 (by decide)
  obtain ⟨c7, -⟩ := peel r7 (by decide)
  have f0 : bits w 8 0 = 0 := c0
  have f1 : bits w 26 25 = 0 := c6
  have f2 : bits w 31 27 = 8 := c7
  have k1 : fld 4 9 w = b := fld_of g1
  have k2 : fld 4 13 w = a := fld_of g2
  have k3 : fld 6 17 w = x := fld_of g3
  have k4 : fld 1 23 w = t := fld_of g4
  have k5 : fld 1 24 w = e := fld_of g5
  show Option.filter Instr.wf (decodeCopyRaw w) = _
  rw [decodeCopyRaw_8 f2]
  simp only [f0, f1, k1, k2, k3, k4, k5, and_self, reduceIte, and_true, true_and, and_false, false_and, Nat.reduceEqDiff]
  exact filter_wf hwf

theorem cldm (e : BitVec 1) (t : BitVec 1) (x : BitVec 6) (g : BitVec 4) (c : BitVec 6) (k : BitVec 2) (follow : BitVec 32) : Statement (.cldm e t x g c k follow) := by
  intro hwf w he
  have he : 1207959552 + e.toNat * 16777216 + t.toNat * 8388608 + x.toNat * 131072 + g.toNat * 8192 + c.toNat * 128 + k.toNat * 32 + follow.toNat * 4294967296 = w := Option.some.inj he
  have r0 : w / 2 ^ 0 = 0 + 2 ^ 5 * (k.toNat + 2 ^ 2 * (c.toNat + 2 ^ 6 * (g.toNat + 2 ^ 4 * (x.toNat + 2 ^ 6 * (t.toNat + 2 ^ 1 * (e.toNat + 2 ^ 1 * (0 + 2 ^ 2 * (9 + 2 ^ 5 * (follow.toNat + 2 ^ 32 * (0)))))))))) := by rw [← he, Nat.pow_zero, Nat.div_one]; ring
  obtain ⟨c0, r1⟩ := peel r0 (by decide)
  obtain ⟨g1, r2⟩ := peel r1 k.isLt
  obtain ⟨g2, r3⟩ := peel r2 c.isLt
  obtain ⟨g3, r4⟩ := peel r3 g.isLt
  obtain ⟨g4, r5⟩ := peel r4 x.isLt
  obtain ⟨g5, r6⟩ := peel r5 t.isLt
  obtain ⟨g6, r7⟩ := peel r6 e.isLt
  obtain ⟨c7, r8⟩ := peel r7 (by decide)
  obtain ⟨c8, r9⟩ := peel r8 (by decide)
  obtain ⟨g9, -⟩ := peel r9 follow.isLt
  have f0 : bits w 4 0 = 0 := c0
  have f1 : bits w 26 25 = 0 := c7
  have f2 : bits w 31 27 = 9 := c8
  have k1 : fld 2 5 w = k := fld_of g1
  have k2 : fld 6 7 w = c := fld_of g2
  have k3 : fld 4 13 w = g := fld_of g3
  have k4 : fld 6 17 w = x := fld_of g4
  have k5 : fld 1 23 w = t := fld_of g5
  have k6 : fld 1 24 w = e := fld_of g6
  have k9 : fld 32 32 w = follow := fld_of g9
  show Option.filter Instr.wf (decodeCopyRaw w) = _
  rw [decodeCopyRaw_9 f2]
  simp only [f0, f1, k1, k2, k3, k4, k5, k6, k9, and_self, reduceIte, and_true, true_and, and_false, false_and, Nat.reduceEqDiff]
  exact filter_wf hwf

theorem cwt (f : BitVec 1) (l : BitVec 1) (e : BitVec 1) (v : BitVec 3) (c : BitVec 6) (n : BitVec 8) : Statement (.cwt f l e v c n) := by
  intro hwf w he
  have he : 1342177280 + f.toNat * 67108864 + l.toNat * 33554432 + e.toNat * 16777216 + v.toNat * 16384 + c.toNat * 256 + n.toNat * 1 = w := Option.some.inj he
  have r0 : w / 2 ^ 0 = n.toNat + 2 ^ 8 * (c.toNat + 2 ^ 6 * (v.toNat + 2 ^ 3 * (0 + 2 ^ 7 * (e.toNat + 2 ^ 1 * (l.toNat + 2 ^ 1 * (f.toNat + 2 ^ 1 * (10 + 2 ^ 5 * (0)))))))) := by rw [← he, Nat.pow_zero, Nat.div_one]; ring
  obtain ⟨g0, r1⟩ := peel r0 n.isLt
  obtain ⟨g1, r2⟩ := peel r1 c.isLt
  obtain ⟨g2, r3⟩ := peel r2 v.isLt
  obtain ⟨c3, r4⟩ := peel r3 (by decide)
  obtain ⟨g4, r5⟩ := peel r4 e.isLt
  obtain ⟨g5, r6⟩ := peel r5 l.isLt
  obtain ⟨g6, r7⟩ := peel r6 f.isLt
  obtain ⟨c7, -⟩ := peel r7 (by decide)
  have f0 : bits w 23 17 = 0 := c3
  have f1 : bits w 31 27 = 10 := c7
  have k0 : fld 8 0 w = n := fld_of g0
  have k1 : fld 6 8 w = c := fld_of g1
  have k2 : fld 3 14 w = v := fld_of g2
  have k4 : fld 1 24 w = e := fld_of g4
  have k5 : fld 1 25 w = l := fld_of g5
  have k6 : fld 1 26 w = f := fld_of g6
  show Option.filter Instr.wf (decodeCopyRaw w) = _
  rw [decodeCopyRaw_10 f1]
  simp only [f0, k0, k1, k2, k4, k5, k6, and_self, reduceIte, and_true, true_and, and_false, false_and, Nat.reduceEqDiff]
  exact filter_wf hwf

theorem cadv (f : BitVec 1) (l : BitVec 1) (e : BitVec 1) (v : BitVec 3) (c : BitVec 6) (n : BitVec 8) : Statement (.cadv f l e v c n) := by
  intro hwf w he
  have he : 1476395008 + f.toNat * 67108864 + l.toNat * 33554432 + e.toNat * 16777216 + v.toNat * 16384 + c.toNat * 256 + n.toNat * 1 = w := Option.some.inj he
  have r0 : w / 2 ^ 0 = n.toNat + 2 ^ 8 * (c.toNat + 2 ^ 6 * (v.toNat + 2 ^ 3 * (0 + 2 ^ 7 * (e.toNat + 2 ^ 1 * (l.toNat + 2 ^ 1 * (f.toNat + 2 ^ 1 * (11 + 2 ^ 5 * (0)))))))) := by rw [← he, Nat.pow_zero, Nat.div_one]; ring
  obtain ⟨g0, r1⟩ := peel r0 n.isLt
  obtain ⟨g1, r2⟩ := peel r1 c.isLt
  obtain ⟨g2, r3⟩ := peel r2 v.isLt
  obtain ⟨c3, r4⟩ := peel r3 (by decide)
  obtain ⟨g4, r5⟩ := peel r4 e.isLt
  obtain ⟨g5, r6⟩ := peel r5 l.isLt
  obtain ⟨g6, r7⟩ := peel r6 f.isLt
  obtain ⟨c7, -⟩ := peel r7 (by decide)
  have f0 : bits w 23 17 = 0 := c3
  have f1 : bits w 31 27 = 11 := c7
  have k0 : fld 8 0 w = n := fld_of g0
  have k1 : fld 6 8 w = c := fld_of g1
  have k2 : fld 3 14 w = v := fld_of g2
  have k4 : fld 1 24 w = e := fld_of g4
  have k5 : fld 1 25 w = l := fld_of g5
  have k6 : fld 1 26 w = f := fld_of g6
  show Option.filter Instr.wf (decodeCopyRaw w) = _
  rw [decodeCopyRaw_11 f1]
  simp only [f0, k0, k1, k2, k4, k5, k6, and_self, reduceIte, and_true, true_and, and_false, false_and, Nat.reduceEqDiff]
  exact filter_wf hwf

theorem cmark (e : BitVec 1) (n : BitVec 1) (m : BitVec 16) : Statement (.cmark e n m) := by
  intro hwf w he
  have he : 1610612736 + e.toNat * 16777216 + n.toNat * 65536 + m.toNat * 1 = w := Option.some.inj he
  have r0 : w / 2 ^ 0 = m.toNat + 2 ^ 16 * (n.toNat + 2 ^ 1 * (0 + 2 ^ 7 * (e.toNat + 2 ^ 1 * (0 + 2 ^ 2 * (12 + 2 ^ 5 * (0)))))) := by rw [← he, Nat.pow_zero, Nat.div_one]; ring
  obtain ⟨g0, r1⟩ := peel r0 m.isLt
  obtain ⟨g1, r2⟩ := peel r1 n.isLt
  obtain ⟨c2, r3⟩ := peel r2 (by decide)
  obtain ⟨g3, r4⟩ := peel r3 e.isLt
  obtain ⟨c4, r5⟩ := peel r4 (by decide)
  obtain ⟨c5, -⟩ := peel r5 (by decide)
  have f0 : bits w 23 17 = 0 := c2
  have f1 : bits w 26 25 = 0 := c4
  have f2 : bits w 31 27 = 12 := c5
  have k0 : fld 16 0 w = m := fld_of g0
  have k1 : fld 1 16 w = n := fld_of g1
  have k3 : fld 1 24 w = e := fld_of g3
  show Option.filter Instr.wf (decodeCopyRaw w) = _
  rw [decodeCopyRaw_12 f2]
  simp only [f0, f1, k0, k1, k3, and_self, reduceIte, and_true, true_and, and_false, false_and, Nat.reduceEqDiff]
  exact filter_wf hwf

theorem cnop (f : BitVec 1) (l : BitVec 1) (e : BitVec 1) (v : BitVec 3) : Statement (.cnop f l e v) := by
  intro hwf w he
  have he : 4026531840 + f.toNat * 67108864 + l.toNat * 33554432 + e.toNat * 16777216 + v.toNat * 16384 = w := Option.some.inj he
  have r0 : w / 2 ^ 0 = 0 + 2 ^ 14 * (v.toNat + 2 ^ 3 * (0 + 2 ^ 7 * (e.toNat + 2 ^ 1 * (l.toNat + 2 ^ 1 * (f.toNat + 2 ^ 1 * (30 + 2 ^ 5 * (0))))))) := by rw [← he, Nat.pow_zero, Nat.div_one]; ring
  obtain ⟨c0, r1⟩ := peel r0 (by decide)
  obtain ⟨g1, r2⟩ := peel r1 v.isLt
  obtain ⟨c2, r3⟩ := peel r2 (by decide)
  obtain ⟨g3, r4⟩ := peel r3 e.isLt
  obtain ⟨g4, r5⟩ := peel r4 l.isLt
  obtain ⟨g5, r6⟩ := peel r5 f.isLt
  obtain ⟨c6, -⟩ := peel r6 (by decide)
  have f0 : bits w 13 0 = 0 := c0
  have f1 : bits w 23 17 = 0 := c2
  have f2 : bits w 31 27 = 30 := c6
  have k1 : fld 3 14 w = v := fld_of g1
  have k3 : fld 1 24 w = e := fld_of g3
  have k4 : fld 1 25 w = l := fld_of g4
  have k5 : fld 1 26 w = f := fld_of g5
  show Option.filter Instr.wf (decodeCopyRaw w) = _
  rw [decodeCopyRaw_30 f2]
  simp only [f0, f1, k1, k3, k4, k5, and_self, reduceIte, and_true, true_and, and_false, false_and, Nat.reduceEqDiff]
  exact filter_wf hwf

theorem chalt : Statement (.chalt) := by
  intro hwf w he
  have he : 4160749568 = w := Option.some.inj he
  have r0 : w / 2 ^ 0 = 0 + 2 ^ 24 * (0 + 2 ^ 1 * (0 + 2 ^ 2 * (31 + 2 ^ 5 * (0)))) := by rw [← he, Nat.pow_zero, Nat.div_one]; ring
  obtain ⟨c0, r1⟩ := peel r0 (by decide)
  obtain ⟨c1, r2⟩ := peel r1 (by decide)
  obtain ⟨c2, r3⟩ := peel r2 (by decide)
  obtain ⟨c3, -⟩ := peel r3 (by decide)
  have f0 : bits w 23 0 = 0 := c0
  have f1 : bits w 24 24 = 0 := c1
  have f2 : bits w 26 25 = 0 := c2
  have f3 : bits w 31 27 = 31 := c3
  show Option.filter Instr.wf (decodeCopyRaw w) = _
  rw [decodeCopyRaw_31 f3]
  simp only [f0, f1, f2, and_self, reduceIte, and_true, true_and, and_false, false_and, Nat.reduceEqDiff]
  exact filter_wf hwf

theorem chaltS : Statement (.chaltS) := by
  intro hwf w he
  have he : 4177526784 = w := Option.some.inj he
  have r0 : w / 2 ^ 0 = 0 + 2 ^ 24 * (1 + 2 ^ 1 * (0 + 2 ^ 2 * (31 + 2 ^ 5 * (0)))) := by rw [← he, Nat.pow_zero, Nat.div_one]; ring
  obtain ⟨c0, r1⟩ := peel r0 (by decide)
  obtain ⟨c1, r2⟩ := peel r1 (by decide)
  obtain ⟨c2, r3⟩ := peel r2 (by decide)
  obtain ⟨c3, -⟩ := peel r3 (by decide)
  have f0 : bits w 23 0 = 0 := c0
  have f1 : bits w 24 24 = 1 := c1
  have f2 : bits w 26 25 = 0 := c2
  have f3 : bits w 31 27 = 31 := c3
  show Option.filter Instr.wf (decodeCopyRaw w) = _
  rw [decodeCopyRaw_31 f3]
  simp only [f0, f1, f2, and_self, reduceIte, and_true, true_and, and_false, false_and, Nat.reduceEqDiff]
  exact filter_wf hwf

theorem mbRecv (s : BitVec 5) (d : BitVec 5) : Statement (.mbRecv s d) := by
  intro hwf w he
  have he : 11 + s.toNat * 32768 + d.toNat * 128 = w := Option.some.inj he
  have r0 : w / 2 ^ 0 = 11 + 2 ^ 7 * (d.toNat + 2 ^ 5 * (0 + 2 ^ 3 * (s.toNat + 2 ^ 5 * (0 + 2 ^ 5 * (0 + 2 ^ 7 * (0)))))) := by rw [← he, Nat.pow_zero, Nat.div_one]; ring
  obtain ⟨c0, r1⟩ := peel r0 (by decide)
  obtain ⟨g1, r2⟩ := peel r1 d.isLt
  obtain ⟨c2, r3⟩ := peel r2 (by decide)
  obtain ⟨g3, r4⟩ := peel r3 s.isLt
  obtain ⟨c4, r5⟩ := peel r4 (by decide)
  obtain ⟨c5, -⟩ := peel r5 (by decide)
  have f0 : bits w 6 0 = 11 := c0
  have f1 : bits w 14 12 = 0 := c2
  have f2 : bits w 24 20 = 0 := c4
  have f3 : bits w 31 25 = 0 := c5
  have k1 : fld 5 7 w = d := fld_of g1
  have k3 : fld 5 15 w = s := fld_of g3
  show Option.filter Instr.wf (decodeRinkRaw w) = _
  delta decodeRinkRaw
  simp only [f0, f1, f2, f3, k1, k3, and_self, reduceIte]
  exact filter_wf hwf

theorem mbSend (t : BitVec 5) (s : BitVec 5) : Statement (.mbSend t s) := by
  intro hwf w he
  have he : 4107 + t.toNat * 1048576 + s.toNat * 32768 = w := Option.some.inj he
  have r0 : w / 2 ^ 0 = 11 + 2 ^ 7 * (0 + 2 ^ 5 * (1 + 2 ^ 3 * (s.toNat + 2 ^ 5 * (t.toNat + 2 ^ 5 * (0 + 2 ^ 7 * (0)))))) := by rw [← he, Nat.pow_zero, Nat.div_one]; ring
  obtain ⟨c0, r1⟩ := peel r0 (by decide)
  obtain ⟨c1, r2⟩ := peel r1 (by decide)
  obtain ⟨c2, r3⟩ := peel r2 (by decide)
  obtain ⟨g3, r4⟩ := peel r3 s.isLt
  obtain ⟨g4, r5⟩ := peel r4 t.isLt
  obtain ⟨c5, -⟩ := peel r5 (by decide)
  have f0 : bits w 6 0 = 11 := c0
  have f1 : bits w 11 7 = 0 := c1
  have f2 : bits w 14 12 = 1 := c2
  have f3 : bits w 31 25 = 0 := c5
  have k3 : fld 5 15 w = s := fld_of g3
  have k4 : fld 5 20 w = t := fld_of g4
  show Option.filter Instr.wf (decodeRinkRaw w) = _
  delta decodeRinkRaw
  simp only [f0, f1, f2, f3, k3, k4, and_self, reduceIte]
  exact filter_wf hwf

theorem mbPoll (d : BitVec 5) : Statement (.mbPoll d) := by
  intro hwf w he
  have he : 8203 + d.toNat * 128 = w := Option.some.inj he
  have r0 : w / 2 ^ 0 = 11 + 2 ^ 7 * (d.toNat + 2 ^ 5 * (2 + 2 ^ 3 * (0 + 2 ^ 5 * (0 + 2 ^ 5 * (0 + 2 ^ 7 * (0)))))) := by rw [← he, Nat.pow_zero, Nat.div_one]; ring
  obtain ⟨c0, r1⟩ := peel r0 (by decide)
  obtain ⟨g1, r2⟩ := peel r1 d.isLt
  obtain ⟨c2, r3⟩ := peel r2 (by decide)
  obtain ⟨c3, r4⟩ := peel r3 (by decide)
  obtain ⟨c4, r5⟩ := peel r4 (by decide)
  obtain ⟨c5, -⟩ := peel r5 (by decide)
  have f0 : bits w 6 0 = 11 := c0
  have f1 : bits w 14 12 = 2 := c2
  have f2 : bits w 19 15 = 0 := c3
  have f3 : bits w 24 20 = 0 := c4
  have f4 : bits w 31 25 = 0 := c5
  have k1 : fld 5 7 w = d := fld_of g1
  show Option.filter Instr.wf (decodeRinkRaw w) = _
  delta decodeRinkRaw
  simp only [f0, f1, f2, f3, f4, k1, and_self, reduceIte]
  exact filter_wf hwf

theorem epStep : Statement (.epStep) := by
  intro hwf w he
  have he : 12299 = w := Option.some.inj he
  have r0 : w / 2 ^ 0 = 11 + 2 ^ 7 * (0 + 2 ^ 5 * (3 + 2 ^ 3 * (0 + 2 ^ 5 * (0 + 2 ^ 5 * (0 + 2 ^ 7 * (0)))))) := by rw [← he, Nat.pow_zero, Nat.div_one]; ring
  obtain ⟨c0, r1⟩ := peel r0 (by decide)
  obtain ⟨c1, r2⟩ := peel r1 (by decide)
  obtain ⟨c2, r3⟩ := peel r2 (by decide)
  obtain ⟨c3, r4⟩ := peel r3 (by decide)
  obtain ⟨c4, r5⟩ := peel r4 (by decide)
  obtain ⟨c5, -⟩ := peel r5 (by decide)
  have f0 : bits w 6 0 = 11 := c0
  have f1 : bits w 11 7 = 0 := c1
  have f2 : bits w 14 12 = 3 := c2
  have f3 : bits w 19 15 = 0 := c3
  have f4 : bits w 24 20 = 0 := c4
  have f5 : bits w 31 25 = 0 := c5
  show Option.filter Instr.wf (decodeRinkRaw w) = _
  delta decodeRinkRaw
  simp only [f0, f1, f2, f3, f4, f5, and_self, reduceIte]
  exact filter_wf hwf

theorem epExit (s : BitVec 5) : Statement (.epExit s) := by
  intro hwf w he
  have he : 16395 + s.toNat * 32768 = w := Option.some.inj he
  have r0 : w / 2 ^ 0 = 11 + 2 ^ 7 * (0 + 2 ^ 5 * (4 + 2 ^ 3 * (s.toNat + 2 ^ 5 * (0 + 2 ^ 5 * (0 + 2 ^ 7 * (0)))))) := by rw [← he, Nat.pow_zero, Nat.div_one]; ring
  obtain ⟨c0, r1⟩ := peel r0 (by decide)
  obtain ⟨c1, r2⟩ := peel r1 (by decide)
  obtain ⟨c2, r3⟩ := peel r2 (by decide)
  obtain ⟨g3, r4⟩ := peel r3 s.isLt
  obtain ⟨c4, r5⟩ := peel r4 (by decide)
  obtain ⟨c5, -⟩ := peel r5 (by decide)
  have f0 : bits w 6 0 = 11 := c0
  have f1 : bits w 11 7 = 0 := c1
  have f2 : bits w 14 12 = 4 := c2
  have f3 : bits w 24 20 = 0 := c4
  have f4 : bits w 31 25 = 0 := c5
  have k3 : fld 5 15 w = s := fld_of g3
  show Option.filter Instr.wf (decodeRinkRaw w) = _
  delta decodeRinkRaw
  simp only [f0, f1, f2, f3, f4, k3, and_self, reduceIte]
  exact filter_wf hwf

theorem rv64gc (w : BitVec 32) : Statement (.rv64gc w) := by
  intro hwf v he
  have he : w.toNat = v := Option.some.inj he
  have h := w.isLt
  have hm : ¬ bits v 6 0 = 11 := by
    have := of_decide_eq_true hwf
    show ¬ v / 1 % 128 = 11
    omega
  have g : fld 32 0 v = w := fld_of (by show v / 1 % 4294967296 = w.toNat; omega)
  show Option.filter Instr.wf (decodeRinkRaw v) = _
  delta decodeRinkRaw
  rw [if_neg hm, g]
  exact filter_wf hwf

theorem stepBudget (vf : Nat) (ep : Nat) : Statement (.stepBudget vf ep) := by
  intro _ w h; cases h

theorem quantumExpiry (rink : Nat) : Statement (.quantumExpiry rink) := by
  intro _ w h; cases h

theorem episodeArm (vf : Nat) (ep : Nat) : Statement (.episodeArm vf ep) := by
  intro _ w h; cases h

theorem episodeCancel (vf : Nat) (ep : Nat) : Statement (.episodeCancel vf ep) := by
  intro _ w h; cases h

theorem episodePlace (die : Nat) : Statement (.episodePlace die) := by
  intro _ w h; cases h

theorem epres (vf : Nat) (value : Word) : Statement (.epres vf value) := by
  intro _ w h; cases h

theorem eptbaseWrite (vf : Nat) (value : Word) : Statement (.eptbaseWrite vf value) := by
  intro _ w h; cases h

theorem eptcntWrite (vf : Nat) (value : Word) : Statement (.eptcntWrite vf value) := by
  intro _ w h; cases h

theorem polupd (vf : Nat) (value : Word) : Statement (.polupd vf value) := by
  intro _ w h; cases h

theorem taskDispatch (core : Nat) (slot : Nat) : Statement (.taskDispatch core slot) := by
  intro _ w h; cases h

theorem stealAck (task : Nat) : Statement (.stealAck task) := by
  intro _ w h; cases h

theorem stealWithdraw (task : Nat) : Statement (.stealWithdraw task) := by
  intro _ w h; cases h

theorem stealTimeout (task : Nat) : Statement (.stealTimeout task) := by
  intro _ w h; cases h

theorem stealRecovery (core : Nat) (slot : Nat) : Statement (.stealRecovery core slot) := by
  intro _ w h; cases h

theorem lotComplete (core : Nat) (slot : Nat) : Statement (.lotComplete core slot) := by
  intro _ w h; cases h

theorem continuationEnqueue (task : Nat) : Statement (.continuationEnqueue task) := by
  intro _ w h; cases h

theorem postedAbort (core : Nat) (slot : Nat) : Statement (.postedAbort core slot) := by
  intro _ w h; cases h

theorem nodeKill (node : Nat) : Statement (.nodeKill node) := by
  intro _ w h; cases h

theorem postedFault (core : Nat) (slot : Nat) : Statement (.postedFault core slot) := by
  intro _ w h; cases h

theorem stallLimit (core : Nat) (slot : Nat) : Statement (.stallLimit core slot) := by
  intro _ w h; cases h

theorem yieldExpiry (core : Nat) (slot : Nat) : Statement (.yieldExpiry core slot) := by
  intro _ w h; cases h

theorem allocatorDecision (core : Nat) : Statement (.allocatorDecision core) := by
  intro _ w h; cases h

theorem classAging (core : Nat) : Statement (.classAging core) := by
  intro _ w h; cases h

theorem wholeHold (core : Nat) : Statement (.wholeHold core) := by
  intro _ w h; cases h

theorem planChange (core : Nat) : Statement (.planChange core) := by
  intro _ w h; cases h

theorem fragmentDrained (core : Nat) (seq : Nat) : Statement (.fragmentDrained core seq) := by
  intro _ w h; cases h

theorem engineCommandStart (core : Nat) (engine : Nat) : Statement (.engineCommandStart core engine) := by
  intro _ w h; cases h

theorem passRetire (core : Nat) (seq : Nat) : Statement (.passRetire core seq) := by
  intro _ w h; cases h

theorem weightLoadComplete (core : Nat) (seq : Nat) : Statement (.weightLoadComplete core seq) := by
  intro _ w h; cases h

theorem copyStepComplete (core : Nat) (eng : Nat) (idx : Nat) : Statement (.copyStepComplete core eng idx) := by
  intro _ w h; cases h

theorem cldmFollowOn (core : Nat) (eng : Nat) (idx : Nat) : Statement (.cldmFollowOn core eng idx) := by
  intro _ w h; cases h

theorem programRetire (core : Nat) (engine : Nat) : Statement (.programRetire core engine) := by
  intro _ w h; cases h

theorem markerRetire (core : Nat) (engine : Nat) : Statement (.markerRetire core engine) := by
  intro _ w h; cases h

theorem accForeign (core : Nat) (slab : Nat) (slot : Nat) : Statement (.accForeign core slab slot) := by
  intro _ w h; cases h

theorem accrel (value : Word) : Statement (.accrel value) := by
  intro _ w h; cases h

theorem faultres (vf : Nat) (value : Word) : Statement (.faultres vf value) := by
  intro _ w h; cases h

theorem mkFullRetry (core : Nat) (slot : Nat) : Statement (.mkFullRetry core slot) := by
  intro _ w h; cases h

theorem writeback (tile : Nat) : Statement (.writeback tile) := by
  intro _ w h; cases h

theorem hostMemAccess (wr : Bool) (pa : Nat) (size : Nat) (value : Word) : Statement (.hostMemAccess wr pa size value) := by
  intro _ w h; cases h

theorem queueKick (vf : Nat) (q : Nat) : Statement (.queueKick vf q) := by
  intro _ w h; cases h

theorem queueCancel (vf : Nat) (q : Nat) (value : Word) : Statement (.queueCancel vf q value) := by
  intro _ w h; cases h

theorem queueCtlWrite (vf : Nat) (q : Nat) (value : Word) : Statement (.queueCtlWrite vf q value) := by
  intro _ w h; cases h

theorem verselWrite (vf : Nat) (value : Word) : Statement (.verselWrite vf value) := by
  intro _ w h; cases h

theorem noderel (vf : Nat) (value : Word) : Statement (.noderel vf value) := by
  intro _ w h; cases h

theorem registerWrite (bar : Nat) (off : Nat) (value : Word) (wide : Bool) : Statement (.registerWrite bar off value wide) := by
  intro _ w h; cases h

theorem packetAccept (fe : Nat) : Statement (.packetAccept fe) := by
  intro _ w h; cases h

theorem packetLaunchGraph (vf : Nat) (q : Nat) (idx : Nat) (gtab : Word) (csig : Word) (cval : Word) : Statement (.packetLaunchGraph vf q idx gtab csig cval) := by
  intro _ w h; cases h

theorem packetSignal (vf : Nat) (q : Nat) (idx : Nat) (addr : Word) (val : Word) (add : Bool) : Statement (.packetSignal vf q idx addr val add) := by
  intro _ w h; cases h

theorem packetWait (vf : Nat) (q : Nat) (idx : Nat) (addr : Word) (val : Word) (cond : BitVec 2) : Statement (.packetWait vf q idx addr val cond) := by
  intro _ w h; cases h

theorem packetCopy (vf : Nat) (q : Nat) (idx : Nat) (src : Word) (dst : Word) (len : Word) : Statement (.packetCopy vf q idx src dst len) := by
  intro _ w h; cases h

theorem packetMarker (vf : Nat) (q : Nat) (idx : Nat) (addr : Word) (val : Word) : Statement (.packetMarker vf q idx addr val) := by
  intro _ w h; cases h

theorem nodeLaunch (graph : Nat) : Statement (.nodeLaunch graph) := by
  intro _ w h; cases h

theorem nodeComplete (node : Nat) : Statement (.nodeComplete node) := by
  intro _ w h; cases h

theorem sliceTurnEnd (part : Nat) : Statement (.sliceTurnEnd part) := by
  intro _ w h; cases h

theorem tableLoad (value : Word) : Statement (.tableLoad value) := by
  intro _ w h; cases h

theorem tableEntry (value : Word) : Statement (.tableEntry value) := by
  intro _ w h; cases h

theorem tableClear (value : Word) : Statement (.tableClear value) := by
  intro _ w h; cases h

theorem tableMigrate (value : Word) : Statement (.tableMigrate value) := by
  intro _ w h; cases h

theorem owncmd (value : Word) : Statement (.owncmd value) := by
  intro _ w h; cases h

theorem sealRotate (value : Word) : Statement (.sealRotate value) := by
  intro _ w h; cases h

theorem sealReseal (value : Word) : Statement (.sealReseal value) := by
  intro _ w h; cases h

theorem sealRetire (value : Word) : Statement (.sealRetire value) := by
  intro _ w h; cases h

theorem sealZero (value : Word) : Statement (.sealZero value) := by
  intro _ w h; cases h

theorem gateBind (value : Word) : Statement (.gateBind value) := by
  intro _ w h; cases h

theorem gateUnbind (value : Word) : Statement (.gateUnbind value) := by
  intro _ w h; cases h

theorem gateRead (value : Word) : Statement (.gateRead value) := by
  intro _ w h; cases h

theorem tblRead (value : Word) : Statement (.tblRead value) := by
  intro _ w h; cases h

theorem tblWrite (value : Word) : Statement (.tblWrite value) := by
  intro _ w h; cases h

theorem rwSet (value : Word) : Statement (.rwSet value) := by
  intro _ w h; cases h

theorem rwClear (value : Word) : Statement (.rwClear value) := by
  intro _ w h; cases h

theorem rwRepoint (value : Word) : Statement (.rwRepoint value) := by
  intro _ w h; cases h

theorem remoteAccess (src : Nat) (exp : Nat) (off : Nat) (wr : Bool) (size : Nat) (value : Word) : Statement (.remoteAccess src exp off wr size value) := by
  intro _ w h; cases h

theorem remoteAtom (src exp off op size : Nat) (value : Word) (cmp : Option Word) : Statement (.remoteAtom src exp off op size value cmp) := by
  intro _ w h; cases h

theorem crwArrival (src : Nat) (exp : Nat) (msg : List Byte) : Statement (.crwArrival src exp msg) := by
  intro _ w h; cases h

theorem reductionContribution (group : Nat) (win : Nat) (cidx : Nat) (off : Nat) (value : BitVec 32) : Statement (.reductionContribution group win cidx off value) := by
  intro _ w h; cases h

theorem roundTimeout (group : Nat) (win : Nat) (off : Nat) : Statement (.roundTimeout group win off) := by
  intro _ w h; cases h

theorem memberLost (group : Nat) (win : Nat) (cidx : Nat) : Statement (.memberLost group win cidx) := by
  intro _ w h; cases h

theorem fabricTimeout (req : Nat) : Statement (.fabricTimeout req) := by
  intro _ w h; cases h

theorem movedReply (req : Nat) : Statement (.movedReply req) := by
  intro _ w h; cases h

theorem linkUp (port : Nat) (versions : Word) : Statement (.linkUp port versions) := by
  intro _ w h; cases h

theorem corecfgWrite (core : Nat) (value : Word) : Statement (.corecfgWrite core value) := by
  intro _ w h; cases h

theorem vfbindWrite (vf : Nat) (value : Word) : Statement (.vfbindWrite vf value) := by
  intro _ w h; cases h

theorem migTrack (value : Word) : Statement (.migTrack value) := by
  intro _ w h; cases h

theorem migFreeze (value : Word) : Statement (.migFreeze value) := by
  intro _ w h; cases h

theorem migCopy (value : Word) : Statement (.migCopy value) := by
  intro _ w h; cases h

theorem migSave (value : Word) : Statement (.migSave value) := by
  intro _ w h; cases h

theorem migLoad (value : Word) : Statement (.migLoad value) := by
  intro _ w h; cases h

theorem migResume (value : Word) : Statement (.migResume value) := by
  intro _ w h; cases h

theorem migAbort (value : Word) : Statement (.migAbort value) := by
  intro _ w h; cases h

theorem evctlWrite (part : Nat) (value : Word) : Statement (.evctlWrite part value) := by
  intro _ w h; cases h

theorem pcSample (core : Nat) : Statement (.pcSample core) := by
  intro _ w h; cases h

theorem fwuctlGo (value : Word) : Statement (.fwuctlGo value) := by
  intro _ w h; cases h

theorem spdmGetVersion (mbox : Nat) : Statement (.spdmGetVersion mbox) := by
  intro _ w h; cases h

theorem spdmGetCapabilities (mbox : Nat) : Statement (.spdmGetCapabilities mbox) := by
  intro _ w h; cases h

theorem spdmNegotiateAlgorithms (mbox : Nat) (algs : Word) : Statement (.spdmNegotiateAlgorithms mbox algs) := by
  intro _ w h; cases h

theorem spdmGetDigests (mbox : Nat) : Statement (.spdmGetDigests mbox) := by
  intro _ w h; cases h

theorem spdmGetCertificate (mbox : Nat) (slot : Nat) : Statement (.spdmGetCertificate mbox slot) := by
  intro _ w h; cases h

theorem spdmChallenge (mbox : Nat) (nonce : Word) : Statement (.spdmChallenge mbox nonce) := by
  intro _ w h; cases h

theorem spdmGetMeasurements (mbox : Nat) (idx : Nat) : Statement (.spdmGetMeasurements mbox idx) := by
  intro _ w h; cases h

theorem spdmKeyExchange (mbox : Nat) (both : Bool) : Statement (.spdmKeyExchange mbox both) := by
  intro _ w h; cases h

theorem spdmFinish (mbox : Nat) : Statement (.spdmFinish mbox) := by
  intro _ w h; cases h

theorem spdmEndSession (mbox : Nat) : Statement (.spdmEndSession mbox) := by
  intro _ w h; cases h

theorem spdmUnsupported (mbox : Nat) (code : Nat) : Statement (.spdmUnsupported mbox code) := by
  intro _ w h; cases h

theorem tagParity (slice : Nat) (set : Nat) (line : Nat) (dirty : Bool) : Statement (.tagParity slice set line dirty) := by
  intro _ w h; cases h

theorem memUe (place : Nat) (addr : Nat) (who : Nat) (dirty : Bool) : Statement (.memUe place addr who dirty) := by
  intro _ w h; cases h

theorem watchdog (agent : Nat) : Statement (.watchdog agent) := by
  intro _ w h; cases h

theorem governorEvaluation : Statement (.governorEvaluation) := by
  intro _ w h; cases h

theorem thermalTrip : Statement (.thermalTrip) := by
  intro _ w h; cases h

theorem packageReset : Statement (.packageReset) := by
  intro _ w h; cases h

theorem packetComplete (vf : Nat) (q : Nat) (idx : Nat) : Statement (.packetComplete vf q idx) := by
  intro _ w h; cases h

end Sys2Proof.Laws.Encodes
end

