-- ==== Sys2Proof/Safety.lean ====
section
/-!
DEFINITION. The terms the claims use: that a step completes, what a word leaves when it retires or traps, what a step leaves
unchanged, and what every state of the machine keeps.
-/

namespace Sys2Proof.Machine

/-- The step goes on in a next state. -/
def Completes (o : Out) : Prop := ∃ σ, o = .next σ

/-! ## What a control-core word leaves -/

/-- The acting word retires and changes nothing else. -/
def State.retired (s : State) : State := s.setCx s.cx.advance
/-- The acting word writes rd, where s0 takes nothing (R157), and retires. -/
def State.wrote (s : State) (d : BitVec 5) (v : Word) : State := s.setCx (s.cx.setS d.toNat v).advance
/-- The acting word writes a flag and retires. -/
def State.flagged (s : State) (f : BitVec 3) (v : Bool) : State := s.setCx (s.cx.setF f.toNat v).advance
/-- The acting word takes a trap. -/
def State.trapped (s : State) (cause : Nat) (detail : Word) : State := s.takeTrap s.core s.ctx { cause := cause, detail := detail }
/-- The acting word has not issued: a stall of R180. -/
def State.stalled (s : State) : State :=
  let t := s.setCx { s.cx with stall := s.cx.stall + 1 }
  if s.cx.stallLim ≤ s.cx.stall + 1 ∧ s.ctx < 4 then t.push (.stallLimit s.core s.ctx) else t
/-- The acting effect instruction retires with the context c, and a user slot's checkpoint is taken (R43, R85). -/
def State.effected (s : State) (c : Ctx) : State :=
  if s.ctx = Config.fwCtx then s.setCx c.advance else (s.setCx c.advance).checkpoint s.core s.ctx fullMask 2

/-- The number n bytes make, the first lowest (R6). -/
def leNat (f : Nat → Byte) (n : Nat) : Nat := (List.range n).foldr (fun i a => (f i).toNat + 256 * a) 0

/-! ## Frames -/

/-- Every byte of memory reads as before. -/
def SameMemory (s t : State) : Prop := ∀ a, t.memByte a = s.memByte a

/-- Every register of a context but those listed by number is as before: scalar, branch-target and flag registers listed, the ring table,
the record registers, tags, special registers, accumulator window, held stores, checkpoint and fault record not. -/
def Ctx.SameBut (c d : Ctx) (rs bs fs : List Nat) : Prop :=
  (∀ r, r ∉ rs → d.sreg r = c.sreg r) ∧ (∀ r, r ∉ bs → d.breg r = c.breg r) ∧ (∀ f, f ∉ fs → d.flag f = c.flag f)
  ∧ (d.rings = c.rings ∧ d.q = c.q ∧ d.tx = c.tx ∧ d.cv = c.cv ∧ d.rv = c.rv ∧ d.tagdone = c.tagdone ∧ d.tagerr = c.tagerr)
  ∧ (d.vshape = c.vshape ∧ d.accsel = c.accsel ∧ d.lotno = c.lotno ∧ d.wid = c.wid ∧ d.srseed = c.srseed ∧ d.stallLim = c.stallLim)
  ∧ (d.lmem = c.lmem ∧ d.held = c.held ∧ d.combs = c.combs ∧ d.lines = c.lines ∧ d.check = c.check ∧ d.fault = c.fault)
  ∧ (d.task = c.task ∧ d.stopped = c.stopped ∧ d.posted = c.posted ∧ d.exited = c.exited)

/-- Everything outside the acting context is as before: the other contexts, engines, leases, buffers, accumulators and their owners,
tasks, memory, tables, registers of the host link, gates and episodes. -/
def State.SameElse (s t : State) : Prop :=
  (∀ k, k ≠ s.core * 8 + s.ctx → Tbl.get t.ctxs {} k = Tbl.get s.ctxs {} k)
  ∧ (t.core = s.core ∧ t.ctx = s.ctx ∧ t.agenda = s.agenda ∧ t.cycle = s.cycle ∧ t.clock = s.clock)
  ∧ (t.engs = s.engs ∧ t.vecs = s.vecs ∧ t.frags = s.frags ∧ t.links = s.links ∧ t.copies = s.copies ∧ t.cores = s.cores)
  ∧ (t.abuf = s.abuf ∧ t.cbuf = s.cbuf ∧ t.wbuf = s.wbuf ∧ t.accown = s.accown ∧ t.holder = s.holder)
  ∧ (t.tasks = s.tasks ∧ t.nodes = s.nodes ∧ t.pool = s.pool ∧ t.watches = s.watches ∧ t.market = s.market)
  ∧ (t.mem = s.mem ∧ t.fcache = s.fcache ∧ t.frames = s.frames ∧ t.tables = s.tables ∧ t.bar = s.bar)
  ∧ (t.queues = s.queues ∧ t.graphs = s.graphs ∧ t.gates = s.gates ∧ t.episodes = s.episodes ∧ t.polgen = s.polgen)

/-- Sealed memory is in its canonical form: strictly rising addresses, no entry zero, the value an unlisted address reads as. -/
def State.Inv (σ : State) : Prop := memWf σ.mem = true

/-- The instruction whose meaning a step that has become due is: the constructor of its own name, with its own fields. -/
def Due.Names (d : Due) (i : Instr) : Prop :=
  match d with
  | .continuationEnqueue task => i = .continuationEnqueue task
  | .lotComplete core slot => i = .lotComplete core slot
  | .nodeKill node => i = .nodeKill node
  | .stallLimit core slot => i = .stallLimit core slot
  | .postedFault core slot => i = .postedFault core slot
  | .postedAbort core slot => i = .postedAbort core slot
  | .yieldExpiry core slot => i = .yieldExpiry core slot
  | .mkFullRetry core slot => i = .mkFullRetry core slot
  | .taskDispatch core slot => i = .taskDispatch core slot
  | .stealAck task => i = .stealAck task
  | .stealTimeout task => i = .stealTimeout task
  | .accForeign core slab slot => i = .accForeign core slab slot
  | .engineCommandStart core engine => i = .engineCommandStart core engine
  | .programRetire core engine => i = .programRetire core engine
  | .markerRetire core engine => i = .markerRetire core engine
  | .passRetire core seq => i = .passRetire core seq
  | .weightLoadComplete core seq => i = .weightLoadComplete core seq
  | .fragmentDrained core seq => i = .fragmentDrained core seq
  | .copyStepComplete core eng idx => i = .copyStepComplete core eng idx
  | .cldmFollowOn core eng idx => i = .cldmFollowOn core eng idx
  | .allocatorDecision core => i = .allocatorDecision core
  | .classAging core => i = .classAging core
  | .wholeHold core => i = .wholeHold core
  | .planChange core => i = .planChange core
  | .pcSample core => i = .pcSample core
  | .stepBudget vf ep => i = .stepBudget vf ep
  | .quantumExpiry rink => i = .quantumExpiry rink
  | .episodeArm vf ep => i = .episodeArm vf ep
  | .episodeCancel vf ep => i = .episodeCancel vf ep
  | .episodePlace die => i = .episodePlace die
  | .queueKick vf q => i = .queueKick vf q
  | .packetAccept fe => i = .packetAccept fe
  | .packetLaunchGraph vf q idx gtab csig cval => i = .packetLaunchGraph vf q idx gtab csig cval
  | .packetSignal vf q idx addr val add => i = .packetSignal vf q idx addr val add
  | .packetWait vf q idx addr val cond => i = .packetWait vf q idx addr val cond
  | .packetCopy vf q idx src dst len => i = .packetCopy vf q idx src dst len
  | .packetMarker vf q idx addr val => i = .packetMarker vf q idx addr val
  | .packetComplete vf q idx => i = .packetComplete vf q idx
  | .nodeLaunch graph => i = .nodeLaunch graph
  | .nodeComplete node => i = .nodeComplete node
  | .sliceTurnEnd part => i = .sliceTurnEnd part
  | .roundTimeout group win off => i = .roundTimeout group win off
  | .fabricTimeout req => i = .fabricTimeout req
  | .watchdog agent => i = .watchdog agent
  | .writeback tile => i = .writeback tile
  | .governorEvaluation => i = .governorEvaluation
  | .packageReset => i = .packageReset

end Sys2Proof.Machine
end

