-- ==== Sys2Proof/Certificates/Slice0/Obligations.lean ====
section
/-!
DEFINITION. The statements for the provers, in the order of the spec's chapters, with the shorthands they use.
-/

open Sys2Proof Sys2Proof.Machine

/-! ## 08: register arithmetic, immediates, flags, branches -/

/-- R158 with R159 and R104: every instruction of major 0x01 completes with the result its table row gives, in every state; a write to
s0 is discarded (R157), and nothing else of the machine changes.

Completion (under the conditions on state and operands named, and no others, exec i s = next t with the t described) of add, sub, and, or,
xor, andn, sll, srl, sra, ror, mul, mulh, mulhu, div, divu, rem, remu, min, max, minu, maxu, adds, subs, clz, ctz, popc, sext8, sext16,
sext32, zext32, movf, movb. -/
def Obligations.RegisterArithmetic : Prop := ∀ (s : State) (d a b : BitVec 5) (f g : BitVec 3),
  let x := s.cx.sreg a.toNat
  let y := s.cx.sreg b.toNat
  let n := y.toNat % 64
  exec (.add d a b) s = .next (s.wrote d (x + y)) ∧ exec (.sub d a b) s = .next (s.wrote d (x - y))
  ∧ exec (.and d a b) s = .next (s.wrote d (x &&& y)) ∧ exec (.or d a b) s = .next (s.wrote d (x ||| y))
  ∧ exec (.xor d a b) s = .next (s.wrote d (x ^^^ y)) ∧ exec (.andn d a b) s = .next (s.wrote d (x &&& ~~~y))
  ∧ exec (.sll d a b) s = .next (s.wrote d (BitVec.ofNat 64 (x.toNat * 2 ^ n)))
  ∧ exec (.srl d a b) s = .next (s.wrote d (BitVec.ofNat 64 (x.toNat / 2 ^ n)))
  ∧ exec (.sra d a b) s = .next (s.wrote d (BitVec.ofInt 64 (x.toInt / 2 ^ n)))
  ∧ exec (.ror d a b) s = .next (s.wrote d (x >>> n ||| x <<< (64 - n)))
  ∧ exec (.mul d a b) s = .next (s.wrote d (BitVec.ofNat 64 (x.toNat * y.toNat)))
  ∧ exec (.mulh d a b) s = .next (s.wrote d (BitVec.ofInt 64 (x.toInt * y.toInt / 2 ^ 64)))
  ∧ exec (.mulhu d a b) s = .next (s.wrote d (BitVec.ofNat 64 (x.toNat * y.toNat / 2 ^ 64)))
  ∧ exec (.div d a b) s = .next (s.wrote d (if y.toInt = 0 then -1 else BitVec.ofInt 64 (x.toInt.tdiv y.toInt)))
  ∧ exec (.divu d a b) s = .next (s.wrote d (if y.toNat = 0 then BitVec.ofNat 64 (2 ^ 64 - 1) else BitVec.ofNat 64 (x.toNat / y.toNat)))
  ∧ exec (.rem d a b) s = .next (s.wrote d (if y.toInt = 0 then x else BitVec.ofInt 64 (x.toInt.tmod y.toInt)))
  ∧ exec (.remu d a b) s = .next (s.wrote d (if y.toNat = 0 then x else BitVec.ofNat 64 (x.toNat % y.toNat)))
  ∧ exec (.min d a b) s = .next (s.wrote d (BitVec.ofInt 64 (min x.toInt y.toInt)))
  ∧ exec (.max d a b) s = .next (s.wrote d (BitVec.ofInt 64 (max x.toInt y.toInt)))
  ∧ exec (.minu d a b) s = .next (s.wrote d (BitVec.ofNat 64 (min x.toNat y.toNat)))
  ∧ exec (.maxu d a b) s = .next (s.wrote d (BitVec.ofNat 64 (max x.toNat y.toNat)))
  ∧ exec (.adds d a b) s = .next (s.wrote d (BitVec.ofInt 64 (max (-(2 ^ 63)) (min (2 ^ 63 - 1) (x.toInt + y.toInt)))))
  ∧ exec (.subs d a b) s = .next (s.wrote d (BitVec.ofInt 64 (max (-(2 ^ 63)) (min (2 ^ 63 - 1) (x.toInt - y.toInt)))))
  ∧ (∃ c, exec (.clz d a) s = .next (s.wrote d (BitVec.ofNat 64 c)) ∧ c ≤ 64 ∧ x.toNat < 2 ^ (64 - c) ∧ (c < 64 → 2 ^ (63 - c) ≤ x.toNat))
  ∧ (∃ c, exec (.ctz d a) s = .next (s.wrote d (BitVec.ofNat 64 c)) ∧ c ≤ 64 ∧ x.toNat % 2 ^ c = 0 ∧ (c < 64 → x.getLsbD c = true))
  ∧ exec (.popc d a) s = .next (s.wrote d (BitVec.ofNat 64 ((List.range 64).countP fun i => x.getLsbD i)))
  ∧ exec (.sext8 d a) s = .next (s.wrote d ((x.setWidth 8).signExtend 64))
  ∧ exec (.sext16 d a) s = .next (s.wrote d ((x.setWidth 16).signExtend 64))
  ∧ exec (.sext32 d a) s = .next (s.wrote d ((x.setWidth 32).signExtend 64))
  ∧ exec (.zext32 d a) s = .next (s.wrote d (BitVec.ofNat 64 (x.toNat % 2 ^ 32)))
  ∧ exec (.movf d f) s = .next (s.wrote d (if s.cx.flag f.toNat then 1 else 0))
  ∧ exec (.movb d g) s = .next (s.wrote d (s.cx.breg g.toNat))

/-- R160: every immediate instruction completes with the result its table row gives, in every state.

Completion (under the conditions on state and operands named, and no others, exec i s = next t with the t described) of addi, andi, ori,
xori, muli, slli, srli, srai, rori, li, lih. -/
def Obligations.ImmediateArithmetic : Prop := ∀ (s : State) (d a : BitVec 5) (i : BitVec 16) (h : BitVec 6),
  let x := s.cx.sreg a.toNat
  exec (.addi d a i) s = .next (s.wrote d (x + i.signExtend 64))
  ∧ exec (.andi d a i) s = .next (s.wrote d (x &&& BitVec.ofNat 64 i.toNat))
  ∧ exec (.ori d a i) s = .next (s.wrote d (x ||| BitVec.ofNat 64 i.toNat))
  ∧ exec (.xori d a i) s = .next (s.wrote d (x ^^^ BitVec.ofNat 64 i.toNat))
  ∧ exec (.muli d a i) s = .next (s.wrote d (BitVec.ofInt 64 (x.toInt * i.toInt)))
  ∧ exec (.slli d a h) s = .next (s.wrote d (BitVec.ofNat 64 (x.toNat * 2 ^ h.toNat)))
  ∧ exec (.srli d a h) s = .next (s.wrote d (BitVec.ofNat 64 (x.toNat / 2 ^ h.toNat)))
  ∧ exec (.srai d a h) s = .next (s.wrote d (BitVec.ofInt 64 (x.toInt / 2 ^ h.toNat)))
  ∧ exec (.rori d a h) s = .next (s.wrote d (x >>> h.toNat ||| x <<< (64 - h.toNat)))
  ∧ exec (.li d i) s = .next (s.wrote d (BitVec.ofNat 64 i.toNat))
  ∧ exec (.lih d i) s = .next (s.wrote d (BitVec.ofNat 64 ((s.cx.sreg d.toNat).toNat % 2 ^ 16 + i.toNat * 2 ^ 16)))

/-- The condition of a code of R147 on two values. -/
def condOf (c : BitVec 4) (x y : Word) : Bool :=
  match c.toNat with
  | 0 => decide (x = y)
  | 1 => decide (x ≠ y)
  | 2 => decide (x.toInt < y.toInt)
  | 3 => decide (x.toInt ≤ y.toInt)
  | 4 => decide (y.toInt < x.toInt)
  | 5 => decide (y.toInt ≤ x.toInt)
  | 6 => decide (x.toNat < y.toNat)
  | 7 => decide (x.toNat ≤ y.toNat)
  | 8 => decide (y.toNat < x.toNat)
  | 9 => decide (y.toNat ≤ x.toNat)
  | _ => decide (x &&& y ≠ 0)

/-- What a transfer that may issue leaves (R164, R165): the next word follows, two delay slots, and the decided address after them. -/
def branched (s : State) (link : Option (BitVec 5)) (take : Bool) (target : Word) : State :=
  let c := match link with
    | some r => s.cx.setS r.toNat (s.cx.pc + 12)
    | none => s.cx
  s.setCx { c with pc := s.cx.pc + 4, npc := if take then target else s.cx.pc + 12, pslots := 2, stall := 0 }

/-- R163 and R164: PREP prepares the address of its own word plus 4 times its signed offset; an XFER outside a delay slot whose target,
where it is taken, is a multiple of 4 decides by its flag, NEG and ALW, and leaves two delay slots before the decided address; KIND 1
writes the link, KIND 2 takes its target from a register.

R143 and R164: every form of XFER traps ILLEGAL in a delay slot, and ALIGN, with the target as DETAIL and before any effect, when it
is taken to an address that is no multiple of 4.

R165: the two words behind a transfer run, the first at the next address and the second last before the decided address; a word that
is in no delay slot is followed by the word after it.

Completion (under the conditions on state and operands named, and no others, exec i s = next t with the t described) of prep, xfer, xferN,
xferA, xferL, xferR. -/
def Obligations.TransfersOfControl : Prop :=
  (∀ (s : State) (b f : BitVec 3) (o : BitVec 23) (n a : BitVec 1) (t : BitVec 5),
    let fl := s.cx.flag f.toNat
    let take := a == 1 || (fl != (n == 1))
    let tb := s.cx.breg b.toNat
    let tr := s.cx.sreg t.toNat
    exec (.prep b o) s = .next (s.setCx ((s.cx.setB b.toNat (s.cx.pc + BitVec.ofInt 64 (4 * o.toInt))).advance))
    ∧ (s.cx.pslots = 0 → (fl = true → tb.toNat % 4 = 0) → exec (.xfer b f) s = .next (branched s none fl tb))
    ∧ (s.cx.pslots = 0 → (fl = false → tb.toNat % 4 = 0) → exec (.xferN b f) s = .next (branched s none (!fl) tb))
    ∧ (s.cx.pslots = 0 → tb.toNat % 4 = 0 → exec (.xferA b) s = .next (branched s none true tb))
    ∧ (s.cx.pslots = 0 → (take = true → tb.toNat % 4 = 0) → exec (.xferL b f n a t) s = .next (branched s (some t) take tb))
    ∧ (s.cx.pslots = 0 → (take = true → tr.toNat % 4 = 0) → exec (.xferR f n a t) s = .next (branched s none take tr)))
  ∧ (∀ (s : State) (b f : BitVec 3) (n a : BitVec 1) (t : BitVec 5),
    let fl := s.cx.flag f.toNat
    let take := a == 1 || (fl != (n == 1))
    let tb := s.cx.breg b.toNat
    let tr := s.cx.sreg t.toNat
    (s.cx.pslots ≠ 0 → exec (.xfer b f) s = .next (s.trapped 1 0) ∧ exec (.xferN b f) s = .next (s.trapped 1 0)
      ∧ exec (.xferA b) s = .next (s.trapped 1 0) ∧ exec (.xferL b f n a t) s = .next (s.trapped 1 0)
      ∧ exec (.xferR f n a t) s = .next (s.trapped 1 0))
    ∧ (s.cx.pslots = 0 → tb.toNat % 4 ≠ 0 →
      (fl = true → exec (.xfer b f) s = .next (s.trapped 3 tb)) ∧ (fl = false → exec (.xferN b f) s = .next (s.trapped 3 tb))
      ∧ exec (.xferA b) s = .next (s.trapped 3 tb) ∧ (take = true → exec (.xferL b f n a t) s = .next (s.trapped 3 tb)))
    ∧ (s.cx.pslots = 0 → tr.toNat % 4 ≠ 0 → take = true → exec (.xferR f n a t) s = .next (s.trapped 3 tr)))
  ∧ (∀ (s : State) (d a b : BitVec 5) (t : State), exec (.add d a b) s = .next t →
    (s.cx.pslots = 2 → t.cx.pc = s.cx.pc + 4 ∧ t.cx.pslots = 1 ∧ t.cx.npc = s.cx.npc)
    ∧ (s.cx.pslots = 1 → t.cx.pc = s.cx.npc ∧ t.cx.pslots = 0)
    ∧ (s.cx.pslots = 0 → t.cx.pc = s.cx.pc + 4 ∧ t.cx.pslots = 0))

/-- R161 and R162: CMP and CMPI complete in every state and set their flag to the test of their condition code, for each of the eleven
codes (the decoder refuses the others); FAND, FOR, FXOR, FANDN, FNOT and FSET complete in every state and set theirs to the function of
their operands. Each changes one flag and the PC only.

R166: VANY and VALL of a user slot whose vector context is idle complete, and set their flag to the test over the first LEN elements
of the predicate, where p0 reads all ones; while the vector context is at work they stall.

Completion (under the conditions on state and operands named, and no others, exec i s = next t with the t described) of cmp, cmpi, flagAnd,
flagOr, flagXor, flagAndn, flagNot, flagSet, vany, vall. -/
def Obligations.FlagsAndVotes : Prop :=
  (∀ (s : State) (d p q : BitVec 3) (c : BitVec 4) (a b : BitVec 5) (i : BitVec 14) (v : BitVec 1),
    let x := s.cx.sreg a.toNat
    let fp := s.cx.flag p.toNat
    let fq := s.cx.flag q.toNat
    exec (.cmp d c a b) s = .next (s.flagged d (condOf c x (s.cx.sreg b.toNat)))
    ∧ exec (.cmpi d c a i) s = .next (s.flagged d (condOf c x (i.signExtend 64)))
    ∧ exec (.flagAnd d p q) s = .next (s.flagged d (fp && fq)) ∧ exec (.flagOr d p q) s = .next (s.flagged d (fp || fq))
    ∧ exec (.flagXor d p q) s = .next (s.flagged d (fp != fq)) ∧ exec (.flagAndn d p q) s = .next (s.flagged d (fp && !fq))
    ∧ exec (.flagNot d p) s = .next (s.flagged d (!fp)) ∧ exec (.flagSet d v) s = .next (s.flagged d (v == 1)))
  ∧ (∀ (s : State) (f p : BitVec 3), s.ctx < 4 →
    let e := s.engOf s.core s.ctx
    let v := s.vecOf s.core s.ctx
    let bit (i : Nat) : Bool := decide (i < 1024) && (p == 0 || (Tbl.get v.p 0 p.toNat).getLsbD i)
    let n := v.vshape.toNat / 16 % 2 ^ 11
    (e.queue = [] → e.run = none → exec (.vany f p) s = .next (s.flagged f ((List.range n).any bit)))
    ∧ (e.queue = [] → e.run = none → exec (.vall f p) s = .next (s.flagged f ((List.range n).all bit)))
    ∧ (e.queue ≠ [] ∨ e.run.isSome = true → exec (.vany f p) s = .next s.stalled ∧ exec (.vall f p) s = .next s.stalled))

/-! ## 08: loads and stores of the five spaces -/

/-- The effective address of format M (R145, R167). -/
def addrM (s : State) (b : BitVec 5) (z : BitVec 2) (o : BitVec 14) : Word :=
  s.cx.sreg b.toNat + o.signExtend 64 * BitVec.ofNat 64 (2 ^ z.toNat)

/-- The model's place of a translated byte in the lot view: a fabric window's bytes lie beyond physical memory, those of each import
record by themselves. -/
def lotKey (x : Xl) : Nat := if x.cls = 2 then 2 ^ 41 + x.frame * 2 ^ 29 + x.off else x.pa

/-- R167 and R168, LD: an aligned load that translates to memory and passes the owner and seal checks completes: rd takes the bytes of the
lot view, the lowest first and zero-extended, s0 nothing; and no byte of memory, no byte of the lot view and no other register changes.

R87 and R168 with R391, R393 and R398, LD of a user slot where the lot view has every byte already: it completes with them and no
check follows. LD of a fabric window whose bytes it has not all: with nothing sent the load traps OUTSIDE where the import record is
not one of a window, and else sends its request, which holds the record as it stands and the deadline by its TMO, and waits; once sent it
traps FAB_TIMEOUT where no answer came in time and OUTSIDE where it was refused, waits while its entry is held or its port down, and
takes the answer when it comes: what the remote package answers is a free value (log 5), a wait, a refusal or the bytes, which the phase
then keeps; every other byte of the lot view, memory and every other register are as before.

Completion (under the conditions on state and operands named, and no others, exec i s = next t with the t described) of ld. -/
def Obligations.LoadFromG : Prop :=
  (∀ (s : State) (d b : BitVec 5) (z : BitVec 2) (o : BitVec 14) (x : Xl),
    let n := 2 ^ z.toNat
    let a := addrM s b z o
    a.toNat % n = 0 → s.translate s.core s.ctx a .read .plain = .ok x → x.cls ≠ 2 →
    s.accessCheck (s.vfOf s.core s.ctx) x.pa n a = .ok () → (s.ctx = 4 → metaTile x.pa = none) →
    ∃ t, exec (.ld d b z o) s = .next t
      ∧ t.cx.sreg d.toNat = (if d = 0 then 0 else BitVec.ofNat 64 (leNat (fun i => s.lotByte s.cx combView (x.pa + i)) n))
      ∧ t.cx.pc = s.cx.advance.pc ∧ Ctx.SameBut s.cx t.cx [d.toNat] [] [] ∧ State.SameElse s t ∧ SameMemory s t
      ∧ ∀ pa, t.lotByte t.cx combView pa = s.lotByte s.cx combView pa)
  ∧ (∀ (s : State) (d b : BitVec 5) (z : BitVec 2) (o : BitVec 14) (x : Xl),
    let n := 2 ^ z.toNat
    let a := addrM s b z o
    let free := (Config.freeWord s.fresh).toNat % 4
    s.ctx < 4 → a.toNat % n = 0 → s.translate s.core s.ctx a .read .plain = .ok x →
    (s.cx.hasAll (lotKey x) n = true →
      exec (.ld d b z o) s = .next (s.wrote d (BitVec.ofNat 64 (leNat (fun i => s.lotByte s.cx combView (lotKey x + i)) n))))
    ∧ (s.cx.hasAll (lotKey x) n = false → x.cls = 2 →
      (s.sentBy s.core s.ctx none = none →
        (s.windowOk x.frame = false → exec (.ld d b z o) s = .next (s.trapped 4 a))
        ∧ (s.windowOk x.frame = true → exec (.ld d b z o) s = .next { s with fresh := s.fresh + 1, fabReqs := s.fabReqs ++
            [{ id := s.fresh, core := s.core, slot := s.ctx, va := a, deadline := s.time + impTmo (s.importRec x.frame), entry := x.frame,
               record := s.importRec x.frame }] }))
      ∧ ∀ q, s.sentBy s.core s.ctx none = some q →
        (q.answer = some 3 → exec (.ld d b z o) s = .next (s.trapped 16 a))
        ∧ (q.answer = some 1 → exec (.ld d b z o) s = .next (s.trapped 4 a))
        ∧ (q.answer ≠ some 3 → q.answer ≠ some 1 →
          (q.held = true ∨ s.portOk q.record = false → exec (.ld d b z o) s = .next s)
          ∧ (q.held = false → s.portOk q.record = true →
            (free = 1 → exec (.ld d b z o) s = .next (s.trapped 4 a))
            ∧ (free = 2 → exec (.ld d b z o) s = .next { s with fresh := s.fresh + 1 })
            ∧ (free ≠ 1 → free ≠ 2 → ∃ t, exec (.ld d b z o) s = .next t
              ∧ t.cx.sreg d.toNat = (if d = 0 then 0 else BitVec.ofNat 64 (leNat (fun i => t.lotByte t.cx combView (lotKey x + i)) n))
              ∧ (∀ pa, s.cx.hasByte pa = true ∨ pa < lotKey x ∨ lotKey x + n ≤ pa → t.lotByte t.cx combView pa = s.lotByte s.cx combView pa)
              ∧ t.cx.hasAll (lotKey x) n = true ∧ (∀ r ∈ t.fabReqs, r.id ≠ q.id) ∧ t.cx.pc = s.cx.advance.pc
              ∧ Ctx.SameBut s.cx t.cx [d.toNat] [] [] ∧ State.SameElse s t ∧ SameMemory s t)))))

/-- R85, R86 and R168, ST in a user slot: an aligned store that translates to memory and passes the owner and seal checks (R71: a tile that
is not in the far cache is filled), or to a fabric window with a valid import record (R391), and whose line the commit buffer has or has
room for, completes: the lot view of the n stored bytes is the low bytes of rd, every other byte of the lot view is as before, no byte of
memory changes, and no register. Where the buffer has 8,192 other lines it traps COMMIT_FULL; to a window without a valid record,
OUTSIDE.

The model's choice on firmware's addresses (assumption 3), with R15 and R168: a store of the firmware context goes to physical memory at
once; the n bytes at the address are the low bytes of rd and every other byte of memory is as before.

R69, R70 and R368, with the same choice: a store of the firmware context into the metadata of a tile changes those bytes of the tile's word
and no other; a load of them answers them; a tile whose word then says Z reads as zeros but for its dirty bytes, and nothing else of
memory changes.

Completion (under the conditions on state and operands named, and no others, exec i s = next t with the t described) of st. -/
def Obligations.StoreToMemory : Prop :=
  (∀ (s : State) (d b : BitVec 5) (z : BitVec 2) (o : BitVec 14) (x : Xl),
    let n := 2 ^ z.toNat
    let a := addrM s b z o
    let k := lotKey x
    let room := k / 64 ∈ s.cx.lines ∨ s.cx.lines.length < 8192
    s.ctx < 4 → a.toNat % n = 0 → s.translate s.core s.ctx a .write .plain = .ok x →
    (x.cls = 2 → s.windowOk x.frame = false → exec (.st d b z o) s = .next (s.trapped 4 a))
    ∧ ((x.cls = 2 → s.windowOk x.frame = true) → (x.cls ≠ 2 → s.accessCheck (s.vfOf s.core s.ctx) x.pa n a = .ok ()) →
      (¬room → exec (.st d b z o) s = .next (s.trapped 18 a))
      ∧ (room → ∃ t, exec (.st d b z o) s = .next t
        ∧ (∀ i < n, t.lotByte t.cx combView (k + i) = BitVec.ofNat 8 ((s.cx.sreg d.toNat).toNat / 256 ^ i))
        ∧ (∀ pa, pa < k ∨ k + n ≤ pa → t.lotByte t.cx combView pa = s.lotByte s.cx combView pa)
        ∧ SameMemory s t ∧ State.SameElse s t ∧ t.cx.pc = s.cx.advance.pc
        ∧ (∀ r, t.cx.sreg r = s.cx.sreg r) ∧ (∀ r, t.cx.breg r = s.cx.breg r) ∧ (∀ f, t.cx.flag f = s.cx.flag f))))
  ∧ (∀ (s : State) (d b : BitVec 5) (z : BitVec 2) (o : BitVec 14),
    let n := 2 ^ z.toNat
    let a := addrM s b z o
    s.ctx = 4 → a.toNat % n = 0 → a.toNat < 2 ^ 41 →
    (metaTile a.toNat = none → s.accessCheck 0 a.toNat n a = .ok () → ∃ t, exec (.st d b z o) s = .next t ∧ t.cx = s.cx.advance
      ∧ (∀ i < n, t.memByte (a.toNat + i) = BitVec.ofNat 8 ((s.cx.sreg d.toNat).toNat / 256 ^ i))
      ∧ (∀ pa, pa < a.toNat ∨ a.toNat + n ≤ pa → t.memByte pa = s.memByte pa))
    ∧ (∀ m, metaTile a.toNat = some m →
      exec (.ld d b z o) s = .next (s.wrote d (BitVec.ofNat 64 (s.metaWord m / 256 ^ (a.toNat % 16) % 256 ^ n)))
      ∧ ∃ t, exec (.st d b z o) s = .next t ∧ t.cx = s.cx.advance ∧ t.mem = s.mem ∧ t.fcache = s.fcache ∧ t.frames = s.frames
        ∧ t.metaWord m / 256 ^ (a.toNat % 16) % 256 ^ n = (s.cx.sreg d.toNat).toNat % 256 ^ n
        ∧ (∀ j < 16, j < a.toNat % 16 ∨ a.toNat % 16 + n ≤ j → t.metaWord m / 256 ^ j % 256 = s.metaWord m / 256 ^ j % 256)
        ∧ (∀ j, j ≠ m → t.tile j = s.tile j) ∧ (∀ pa, pa / 4096 ≠ m → t.memByte pa = s.memByte pa)
        ∧ ∀ pa, pa / 4096 = m → Tbl.find? s.fcache pa = none → t.memByte pa = if (t.metaWord m).testBit 0 then 0 else memFind s.mem pa))

/-- R60 and R167, LDL and STL: an aligned access that ends within the 65,536 bytes of L completes: the load gives the window's bytes,
the store puts the low bytes of rd there and leaves every other byte of L, and memory and every other register are as before.

R60, R63, R167 and R170, LDA and STA: an aligned access below ASIZE completes; the store sets the live bit of the 64 KiB granule it
touches and changes no other byte of the window, no register and no byte of memory.

R58 and R171, LDC and LDC.NOWAIT: an aligned read below 8 MiB - 3 of a slab that the slot owns completes with the element,
zero-extended; LDC only when no write is pending to the slab; LDC.NOWAIT always, and its f0 tells whether one is. A read of a free slab,
by either, makes it the slot's, with every element +0.0.

Completion (under the conditions on state and operands named, and no others, exec i s = next t with the t described) of ldl, stl, lda, sta,
ldc, ldcNowait. -/
def Obligations.BufferAccess : Prop :=
  (∀ (s : State) (d b : BitVec 5) (z : BitVec 2) (o : BitVec 14),
    let n := 2 ^ z.toNat
    let a := (addrM s b z o).toNat
    a % n = 0 → a + n ≤ 65536 →
    exec (.ldl d b z o) s = .next (s.wrote d (BitVec.ofNat 64 (leNat (fun i => Tbl.get s.cx.lmem 0 (a + i)) n)))
    ∧ ∃ t, exec (.stl d b z o) s = .next t ∧ t.cx.pc = s.cx.advance.pc
      ∧ (∀ i < n, Tbl.get t.cx.lmem 0 (a + i) = BitVec.ofNat 8 ((s.cx.sreg d.toNat).toNat / 256 ^ i))
      ∧ (∀ p, p < a ∨ a + n ≤ p → Tbl.get t.cx.lmem 0 p = Tbl.get s.cx.lmem 0 p)
      ∧ (∀ r, t.cx.sreg r = s.cx.sreg r) ∧ (∀ f, t.cx.flag f = s.cx.flag f) ∧ State.SameElse s t ∧ SameMemory s t)
  ∧ (∀ (s : State) (d b : BitVec 5) (z : BitVec 2) (o : BitVec 14),
    let n := 2 ^ z.toNat
    let a := (addrM s b z o).toNat
    a % n = 0 → a + n ≤ s.cx.asize →
    exec (.lda d b z o) s = .next (s.wrote d (BitVec.ofNat 64 (leNat (fun i => s.aByte s.core s.ctx (a + i)) n)))
    ∧ (s.cx.asize ≤ 2 ^ 24 → ∃ t, exec (.sta d b z o) s = .next t ∧ t.cx.pc = s.cx.advance.pc
      ∧ (∀ i < n, t.aByte s.core s.ctx (a + i) = BitVec.ofNat 8 ((s.cx.sreg d.toNat).toNat / 256 ^ i))
      ∧ (∀ p < 2 ^ 24, p < a ∨ a + n ≤ p → t.aByte s.core s.ctx p = s.aByte s.core s.ctx p)
      ∧ a / 65536 ∈ t.cx.liveA ∧ (∀ g, g ≠ a / 65536 → (g ∈ t.cx.liveA ↔ g ∈ s.cx.liveA))
      ∧ (∀ r, t.cx.sreg r = s.cx.sreg r) ∧ (∀ f, t.cx.flag f = s.cx.flag f) ∧ SameMemory s t ∧ t.cbuf = s.cbuf ∧ t.wbuf = s.wbuf))
  ∧ (∀ (s : State) (d b : BitVec 5) (o : BitVec 14),
    let a := (s.cx.sreg b.toNat + o.signExtend 64 * 4).toNat
    let slab := a / 4096
    let pend := s.pendingAt s.core s.ctx slab s.cx.cmdNo
    let v : Word := (Tbl.get s.cbuf 0 (s.core * 2 ^ 21 + a / 4)).zeroExtend 64
    a % 4 = 0 → a + 4 ≤ 2 ^ 23 →
    (Tbl.get s.accown 7 (s.core * 2048 + slab) = s.ctx → pend = 0 → exec (.ldc d b o) s = .next (s.wrote d v))
    ∧ (Tbl.get s.accown 7 (s.core * 2048 + slab) = s.ctx → pend ≠ 0 → exec (.ldc d b o) s = .next s.stalled)
    ∧ (Tbl.get s.accown 7 (s.core * 2048 + slab) = s.ctx →
        exec (.ldcNowait d b o) s = .next (s.setCx ((s.cx.setF 0 (decide (pend ≠ 0))).setS d.toNat v).advance))
    ∧ (Tbl.get s.accown 7 (s.core * 2048 + slab) = 7 → s.ctx < 4 → pend = 0 → ∃ t, exec (.ldc d b o) s = .next t
        ∧ t.cx = (s.cx.setS d.toNat 0).advance ∧ Tbl.get t.accown 7 (s.core * 2048 + slab) = s.ctx
        ∧ ∀ e < 1024, Tbl.get t.cbuf 0 (s.core * 2 ^ 21 + slab * 1024 + e) = 0)
    ∧ (Tbl.get s.accown 7 (s.core * 2048 + slab) = 7 → s.ctx < 4 → ∃ t, exec (.ldcNowait d b o) s = .next t
        ∧ t.cx = ((s.cx.setF 0 (decide (pend ≠ 0))).setS d.toNat 0).advance ∧ Tbl.get t.accown 7 (s.core * 2048 + slab) = s.ctx
        ∧ ∀ e < 1024, Tbl.get t.cbuf 0 (s.core * 2 ^ 21 + slab * 1024 + e) = 0))

/-- R65: translation refuses in this order, with the address as DETAIL: OUTSIDE for an index of 32,768 or more, an invalid entry, a class
that does not take the operation, or a missing RD or EX; NONRESIDENT for RES = 0; WRITE_PERM for a write without WR; COW for a write to a
COW entry; otherwise the physical address is the entry's frame with the offset in the granule.

R167, R168, R170 and R171: an access whose address is no multiple of its size traps ALIGN, before any other check and with the address
as DETAIL; an aligned one beyond its window traps OUTSIDE; a load or store of G traps with the cause that translation gives, and a user
slot's store with the cause that the owner and seal checks give: OWNER where another VF owns the frame. -/
def Obligations.AccessChecks : Prop :=
  (∀ (t : Table) (va : Word) (k : Kind) (op : GOp),
    let g := if t.gran = 0 then 21 else if t.gran = 1 then 25 else 29
    let i := va.toNat / 2 ^ g
    let e := Tbl.get t.entries 0 i
    let bad := 32768 ≤ i ∨ t.valid = false ∨ e.getLsbD 8 = false ∨ classMismatch op ((e.toNat / 64) % 4) = true
      ∨ ((k = .read ∨ k = .rmw) ∧ e.getLsbD 1 = false) ∨ (k = .fetch ∧ e.getLsbD 3 = false)
    let write := k = .write ∨ k = .rmw
    (bad → xlate t va k op = failWith 4 va)
    ∧ (¬bad → e.getLsbD 4 = false → xlate t va k op = failWith 5 va)
    ∧ (¬bad → e.getLsbD 4 = true → write → e.getLsbD 2 = false → xlate t va k op = failWith 7 va)
    ∧ (¬bad → e.getLsbD 4 = true → write → e.getLsbD 2 = true → e.getLsbD 5 = true → xlate t va k op = failWith 6 va)
    ∧ (¬bad → e.getLsbD 4 = true → (write → e.getLsbD 2 = true ∧ e.getLsbD 5 = false) →
        xlate t va k op = .ok { pa := e.toNat / 4096 * 2 ^ 21 + va.toNat % 2 ^ g, cls := e.toNat / 64 % 4, frame := e.toNat / 4096,
                                off := va.toNat % 2 ^ g }))
  ∧ (∀ (s : State) (d b : BitVec 5) (z : BitVec 2) (o : BitVec 14),
    let n := 2 ^ z.toNat
    let a := addrM s b z o
    let c := s.cx.sreg b.toNat + o.signExtend 64 * 4
    (a.toNat % n ≠ 0 → exec (.ld d b z o) s = .next (s.trapped 3 a) ∧ exec (.st d b z o) s = .next (s.trapped 3 a)
      ∧ exec (.ldl d b z o) s = .next (s.trapped 3 a) ∧ exec (.stl d b z o) s = .next (s.trapped 3 a)
      ∧ exec (.lda d b z o) s = .next (s.trapped 3 a) ∧ exec (.sta d b z o) s = .next (s.trapped 3 a))
    ∧ (c.toNat % 4 ≠ 0 → exec (.ldc d b o) s = .next (s.trapped 3 c) ∧ exec (.ldcNowait d b o) s = .next (s.trapped 3 c))
    ∧ (a.toNat % n = 0 → 65536 < a.toNat + n → exec (.ldl d b z o) s = .next (s.trapped 4 a) ∧ exec (.stl d b z o) s = .next (s.trapped 4 a))
    ∧ (a.toNat % n = 0 → s.cx.asize < a.toNat + n → exec (.lda d b z o) s = .next (s.trapped 4 a) ∧ exec (.sta d b z o) s = .next (s.trapped 4 a))
    ∧ (c.toNat % 4 = 0 → 2 ^ 23 < c.toNat + 4 → exec (.ldc d b o) s = .next (s.trapped 4 c) ∧ exec (.ldcNowait d b o) s = .next (s.trapped 4 c))
    ∧ (a.toNat % n = 0 → ∀ e, s.translate s.core s.ctx a .read .plain = .error e → exec (.ld d b z o) s = .next (s.takeTrap s.core s.ctx e))
    ∧ (a.toNat % n = 0 → ∀ e, s.translate s.core s.ctx a .write .plain = .error e → exec (.st d b z o) s = .next (s.takeTrap s.core s.ctx e))
    ∧ (a.toNat % n = 0 → s.ctx < 4 → ∀ x, s.translate s.core s.ctx a .write .plain = .ok x → x.cls ≠ 2 →
        (∀ e, s.accessCheck (s.vfOf s.core s.ctx) x.pa n a = .error e → exec (.st d b z o) s = .next (s.takeTrap s.core s.ctx e))
        ∧ (ownerMatches (s.vfOf s.core s.ctx) (s.frameRec (x.pa / 2 ^ 21)).owner = false → exec (.st d b z o) s = .next (s.trapped 8 a))))

/-! ## 08 and 23: system registers -/

/-- R173 to R176 and R378: GETS of every register completes in the context that may read it, with the value the register's own row gives;
the fields of SPLITPLAN and ACCOWN are stated bit by bit; a read of FWEVENT removes the oldest event; every other number traps. POLGEN in
the firmware context, which has no lot, reads the counter of VF 0: the model's choice (log 107).

R173, R176, R177, R378 and R380: SETS writes the registers that a context may write, a legal VSHAPE as a command of the slot's own
vector queue; an illegal value, and a register that SETS cannot write, trap ILLEGAL, and a firmware register traps PRIV in a user slot.
By the model's reading SETS of VSHAPE traps ILLEGAL in the firmware context, which has no vector context (log 7), and a value of STALLSET
outside its range does (log 24).

Completion (under the conditions on state and operands named, and no others, exec i s = next t with the t described) of gets, sets. -/
def Obligations.SystemRegisters : Prop :=
  (∀ (s : State) (d : BitVec 5) (n : BitVec 16),
    let c := s.cx
    let k := s.coreOf s.core
    let vf := s.vfOf s.core s.ctx
    (n.toNat = 0 → exec (.gets d n) s = .next (s.wrote d c.wid)) ∧ (n.toNat = 1 → exec (.gets d n) s = .next (s.wrote d c.lotno))
    ∧ (n.toNat = 2 → k.plan < 16 → k.pend < 8 → ∃ v, exec (.gets d n) s = .next (s.wrote d v) ∧ v.toNat % 16 = k.plan
        ∧ (∀ i < 4, v.getLsbD (4 + i) = true ↔ (s.fragOf s.core i).state = 1 ∨ (s.fragOf s.core i).state = 3)
        ∧ v.getLsbD 15 = k.pendv ∧ (k.pendv = true → v.toNat / 2 ^ 12 % 8 = k.pend) ∧ v.toNat < 2 ^ 16)
    ∧ (n.toNat = 3 → exec (.gets d n) s = .next (s.wrote d c.tagdone)) ∧ (n.toNat = 4 → exec (.gets d n) s = .next (s.wrote d c.tagerr))
    ∧ (n.toNat = 5 → exec (.gets d n) s = .next (s.wrote d c.vshape))
    ∧ (n.toNat = 6 → exec (.gets d n) s = .next (s.wrote d (BitVec.ofNat 64 s.time)))
    ∧ (n.toNat = 7 → exec (.gets d n) s =
        .next (s.wrote d (BitVec.ofNat 64 (vf * 2 ^ 16 + s.partOf s.core * 2 ^ 11 + s.core * 2 ^ 6 + s.ctx))))
    ∧ (n.toNat = 8 → exec (.gets d n) s = .next (s.wrote d (BitVec.ofNat 64 c.stallLim)))
    ∧ (n.toNat = 9 → exec (.gets d n) s = .next (s.wrote d (BitVec.ofNat 64 c.asize)))
    ∧ (n.toNat = 10 → exec (.gets d n) s = .next (s.wrote d (BitVec.ofNat 64 c.wsize)))
    ∧ (n.toNat = 11 → exec (.gets d n) s = .next (s.wrote d (c.srseed.zeroExtend 64)))
    ∧ (n.toNat = 12 → exec (.gets d n) s = .next (s.wrote d c.accsel))
    ∧ (n.toNat = 13 → ∃ v, exec (.gets d n) s = .next (s.wrote d v)
        ∧ ∀ i < 16, (∀ j < 16, s.accCode s.core (16 * (c.accsel.toNat % 128) + j) < 16) →
            v.toNat / 16 ^ i % 16 = s.accCode s.core (16 * (c.accsel.toNat % 128) + i))
    ∧ (n.toNat = 14 → exec (.gets d n) s = .next (s.wrote d (BitVec.ofNat 64 (Tbl.get s.polgen 0 vf))))
    ∧ (s.ctx = 4 → n.toNat = 0x8000 → exec (.gets d n) s = .next (s.wrote d k.fwshare))
    ∧ (s.ctx = 4 → n.toNat = 0x8001 → k.events = [] → exec (.gets d n) s = .next (s.wrote d 0))
    ∧ (s.ctx = 4 → n.toNat = 0x8001 → ∀ src cause r, k.events = (src, cause) :: r → ∃ t, exec (.gets d n) s = .next t
        ∧ t.cx = (s.wrote d (BitVec.ofNat 64 (2 ^ 63 + cause * 2 ^ 16 + src))).cx ∧ ∃ l, (t.coreOf s.core).events = r ++ l)
    ∧ (∀ i < 4, s.ctx = 4 → n.toNat = 0x8002 + i → exec (.gets d n) s = .next (s.wrote d (BitVec.ofNat 64 (s.ctxOf s.core i).stallLim)))
    ∧ (s.ctx = 4 → n.toNat = 0x8006 → exec (.gets d n) s = .next (s.wrote d k.allocctl))
    ∧ (s.ctx = 4 → n.toNat = 0x8007 → exec (.gets d n) s = .next (s.wrote d (s.allocstat s.core)))
    ∧ (s.ctx ≠ 4 → 0x8000 ≤ n.toNat → exec (.gets d n) s = .next (s.trapped 2 0))
    ∧ (14 < n.toNat → n.toNat < 0x8000 → exec (.gets d n) s = .next (s.trapped 1 0))
    ∧ (s.ctx = 4 → 0x8007 < n.toNat → exec (.gets d n) s = .next (s.trapped 1 0)))
  ∧ (∀ (s : State) (r : BitVec 5) (n : BitVec 16),
    let v := s.cx.sreg r.toNat
    let k := s.coreOf s.core
    let bytes := typeBits (v.toNat % 16) / 8
    let len := v.toNat / 16 % 2 ^ 11
    let shapeOk := v.toNat % 16 ≤ 12 ∧ len ≠ 0 ∧ len ≤ 1024 / bytes ∧ v.getLsbD 15 = false ∧ v.toNat / 2 ^ 16 ≤ 4
    (n.toNat = 12 → exec (.sets r n) s = .next (s.setCx { s.cx with accsel := v &&& 0x7F }.advance))
    ∧ (n.toNat = 5 → s.ctx < 4 → shapeOk → (s.engOf s.core s.ctx).queue.length < 16 → ∃ t, exec (.sets r n) s = .next t
        ∧ t.cx = { s.cx with cmdNo := s.cx.cmdNo + 1, vshape := v }.advance
        ∧ ∃ q, (t.engOf s.core s.ctx).queue = q ++ [{ id := s.cx.cmdNo, held := false, kind := .vshape v }] ∧ q.length = (s.engOf s.core s.ctx).queue.length)
    ∧ (n.toNat = 5 → s.ctx < 4 → shapeOk → 16 ≤ (s.engOf s.core s.ctx).queue.length → exec (.sets r n) s = .next s.stalled)
    ∧ (n.toNat = 5 → s.ctx < 4 → ¬shapeOk → exec (.sets r n) s = .next (s.trapped 1 0))
    ∧ (n.toNat = 5 → s.ctx = 4 → exec (.sets r n) s = .next (s.trapped 1 0))
    ∧ (s.ctx = 4 → n.toNat = 0x8000 → v.toNat % 64 ≤ 32 →
        exec (.sets r n) s = .next ((s.setCore s.core { k with fwshare := v &&& 0x3F }).retired))
    ∧ (s.ctx = 4 → n.toNat = 0x8000 → 32 < v.toNat % 64 → exec (.sets r n) s = .next (s.trapped 1 0))
    ∧ (∀ i < 4, s.ctx = 4 → n.toNat = 0x8002 + i → 1 ≤ v.toNat → v.toNat < 2 ^ 40 → ∃ t, exec (.sets r n) s = .next t
        ∧ (t.ctxOf s.core i).stallLim = v.toNat ∧ t.cx = s.cx.advance)
    ∧ (s.ctx = 4 → n.toNat = 0x8006 → 10 ≤ v.toNat / 2 ^ 8 % 32 → v.toNat / 2 ^ 8 % 32 ≤ 24 → 10 ≤ v.toNat % 32 → v.toNat % 32 ≤ 30 →
        exec (.sets r n) s = .next ((s.setCore s.core { k with allocctl := v &&& 0x11F1F }).retired))
    ∧ (s.ctx = 4 → n.toNat = 0x8006 → v.toNat / 2 ^ 8 % 32 < 10 ∨ 24 < v.toNat / 2 ^ 8 % 32 ∨ v.toNat % 32 < 10 ∨ 30 < v.toNat % 32 →
        exec (.sets r n) s = .next (s.trapped 1 0))
    ∧ (∀ i < 4, s.ctx = 4 → n.toNat = 0x8002 + i → v.toNat = 0 ∨ 2 ^ 40 ≤ v.toNat → exec (.sets r n) s = .next (s.trapped 1 0))
    ∧ (s.ctx = 4 → n.toNat = 0x8001 ∨ 0x8007 ≤ n.toNat → exec (.sets r n) s = .next (s.trapped 1 0))
    ∧ (s.ctx ≠ 4 → 0x8000 ≤ n.toNat → exec (.sets r n) s = .next (s.trapped 2 0))
    ∧ (n.toNat < 0x8000 → n.toNat ≠ 5 → n.toNat ≠ 12 → exec (.sets r n) s = .next (s.trapped 1 0)))

/-! ## 10: atomics -/

/-- The operation table of R205 on words of some bits: ADD, AND, OR, XOR, MIN, MAX, MINU, MAXU, SWAP, FADD. -/
def atomResult (op bits old v : Nat) : Nat :=
  match op with
  | 0 => (old + v) % 2 ^ bits
  | 1 => old &&& v
  | 2 => old ||| v
  | 3 => old ^^^ v
  | 4 => if (BitVec.ofNat bits old).toInt ≤ (BitVec.ofNat bits v).toInt then old else v
  | 5 => if (BitVec.ofNat bits old).toInt ≤ (BitVec.ofNat bits v).toInt then v else old
  | 6 => min old v
  | 7 => max old v
  | 8 => v
  | _ => fp32.rne (Machine.Num.add 0 (fp32.decode old) (fp32.decode v))

/-- An address outside the checkpoint record of the context area of the acting slot's task (R325), which a checkpoint writes. -/
def offRecord (s : State) (pa : Nat) : Prop := ∀ b, s.slotArea s.core s.ctx = some b → pa < b + 0x180 ∨ b + 0x300 ≤ pa

/-- R97, R205 and R206: a near ATOM or ACAS of a user slot, aligned, on a normal or host region whose frame the slot's VF owns and whose
line can be read and is, or can be, in the commit buffer, completes; rd takes the lot view from before. Without an ordering no byte of
memory changes, nor the lot view of any other byte; the word's own is the operation's result by the table of R205, and where a combine of
its operation and width is pending, what the commit of the combined operand would leave: the word read under R87, combined with it; an ACAS leaves its new value where the compare holds and the old value where it fails. One that does not translate, of a fabric or
Market region too (R207), takes its translation's trap.

R98, R206 and R207: a far ATOM or ACAS on the package's own memory, aligned, commits the phase, then performs at its slice: rd
takes the word from before it, memory the operation's result (an ACAS whose compare fails writes nothing), no other byte of the committed
memory changes, but for the checkpoint record of the slot's context area, and a checkpoint is taken at the next word. An access that does not
translate takes its translation's trap before the commit.

R99, R206 to R208, R390, R391, R393 and R396: a far ATOM or ACAS of a user slot on a fabric window or a reduction window. With nothing
sent it traps OUTSIDE where the import record is not valid, or on a reduction window it is an ACAS, a SWAP, an XOR or 64 bits
wide, or not the window's operation; else the phase commits, and its request goes to the remote slice with the deadline of the record's
TMO, or to the crossing, whose port must be up; then it waits. A remote slice's answer is a free value (log 5);
FAB_TIMEOUT and OUTSIDE are taken where there is none in time, or a refusal; rd is what the slice returns, or zero
once the crossing has answered, with a checkpoint.

Completion (under the conditions on state and operands named, and no others, exec i s = next t with the t described) of atom, acas. -/
def Obligations.Atomics : Prop :=
  (∀ (s : State) (d b u : BitVec 5) (o : BitVec 4) (w : BitVec 1) (r : BitVec 2) (sc : BitVec 3) (x : Xl),
    let n := 4 * (w.toNat + 1)
    let a := s.cx.sreg b.toNat
    let v := (s.cx.sreg u.toNat).toNat % 256 ^ n
    let cmp := (s.cx.sreg d.toNat).toNat % 256 ^ n
    let old := leNat (fun i => s.lotByte s.cx combView (x.pa + i)) n
    let new := atomResult o.toNat (8 * n) old v
    let rd : Word := if d = 0 then 0 else BitVec.ofNat 64 old
    s.ctx < 4 → sc.toNat ≤ 5 → a.toNat % n = 0 →
    (∀ e, s.translate s.core s.ctx a .rmw .near = .error e → exec (.acas d b u w 0 r sc) s = .next (s.takeTrap s.core s.ctx e)
      ∧ (o.toNat ≤ 9 → ¬(o.toNat = 9 ∧ w = 1) → exec (.atom d b u o w 0 r sc) s = .next (s.takeTrap s.core s.ctx e)))
    ∧ (s.translate s.core s.ctx a .rmw .near = .ok x → x.pa + n ≤ 2 ^ 41 →
    ownerMatches (s.vfOf s.core s.ctx) (s.frameRec (x.pa / 2 ^ 21)).owner = true → s.sealOk x.pa = true →
    (x.pa / 64 ∈ s.cx.lines ∨ s.cx.lines.length < 8192) →
    (o.toNat ≤ 9 → ¬(o.toNat = 9 ∧ w = 1) → ∃ t, exec (.atom d b u o w 0 r sc) s = .next t ∧ t.cx.sreg d.toNat = rd
      ∧ (r = 0 → SameMemory s t ∧ (∀ pa, pa < x.pa ∨ x.pa + n ≤ pa → t.lotByte t.cx combView pa = s.lotByte s.cx combView pa)
          ∧ t.cx.pc = s.cx.advance.pc ∧ (∀ q, q ≠ d.toNat → t.cx.sreg q = s.cx.sreg q) ∧ (∀ q, t.cx.flag q = s.cx.flag q)
          ∧ ((∀ k, Tbl.find? s.cx.combs x.pa = some k → k.op ≠ o.toNat ∨ k.width ≠ n) →
              ∀ i < n, t.lotByte t.cx combView (x.pa + i) = BitVec.ofNat 8 (new / 256 ^ i))
          ∧ ∀ k, (∀ i < n, s.cx.combAt (x.pa + i) = some (x.pa, k) ∧ Tbl.find? s.cx.held (x.pa + i) = none) → k.op = o.toNat → k.width = n →
              k.base.toNat < 256 ^ n → k.operand.toNat < 256 ^ n → ∀ i < n, t.lotByte t.cx combView (x.pa + i) =
                BitVec.ofNat 8 (atomResult k.op (8 * n) k.base.toNat (atomResult k.op (8 * n) k.operand.toNat v) / 256 ^ i)))
    ∧ ∃ t, exec (.acas d b u w 0 r sc) s = .next t ∧ t.cx.sreg d.toNat = rd
      ∧ (r = 0 → SameMemory s t ∧ (∀ pa, pa < x.pa ∨ x.pa + n ≤ pa → t.lotByte t.cx combView pa = s.lotByte s.cx combView pa)
          ∧ (∀ i < n, t.lotByte t.cx combView (x.pa + i) =
              if old = cmp then BitVec.ofNat 8 (v / 256 ^ i) else s.lotByte s.cx combView (x.pa + i)))))
  ∧ (∀ (s : State) (d b u : BitVec 5) (o : BitVec 4) (w : BitVec 1) (r : BitVec 2) (sc : BitVec 3) (x : Xl),
    let n := 4 * (w.toNat + 1)
    let a := s.cx.sreg b.toNat
    let v := (s.cx.sreg u.toNat).toNat % 256 ^ n
    let cmp := (s.cx.sreg d.toNat).toNat % 256 ^ n
    let c := s.commitHere
    let old := leNat (fun i => c.memByte (x.pa + i)) n
    let new := atomResult o.toNat (8 * n) old v
    let rd : Word := if d = 0 then 0 else BitVec.ofNat 64 old
    sc.toNat ≤ 5 → a.toNat % n = 0 →
    (∀ e, s.translate s.core s.ctx a .rmw .plain = .error e → exec (.acas d b u w 1 r sc) s = .next (s.takeTrap s.core s.ctx e)
      ∧ (o.toNat ≤ 9 → ¬(o.toNat = 9 ∧ w = 1) → exec (.atom d b u o w 1 r sc) s = .next (s.takeTrap s.core s.ctx e)))
    ∧ (s.translate s.core s.ctx a .rmw .plain = .ok x → x.cls ≠ 2 → c.accessCheck (s.vfOf s.core s.ctx) x.pa n a = .ok () →
    (o.toNat ≤ 9 → ¬(o.toNat = 9 ∧ w = 1) → ∃ t, exec (.atom d b u o w 1 r sc) s = .next t ∧ t.cx.sreg d.toNat = rd
      ∧ t.cx.pc = s.cx.advance.pc ∧ (s.ctx < 4 → t.cx.check.pc = s.cx.advance.pc) ∧ (∀ q, q ≠ d.toNat → t.cx.sreg q = s.cx.sreg q)
      ∧ (∀ i < n, offRecord s (x.pa + i) → t.memByte (x.pa + i) = BitVec.ofNat 8 (new / 256 ^ i))
      ∧ (∀ pa, pa < x.pa ∨ x.pa + n ≤ pa → offRecord s pa → t.memByte pa = c.memByte pa))
    ∧ ∃ t, exec (.acas d b u w 1 r sc) s = .next t ∧ t.cx.sreg d.toNat = rd
      ∧ (∀ i < n, offRecord s (x.pa + i) →
          t.memByte (x.pa + i) = if old = cmp then BitVec.ofNat 8 (v / 256 ^ i) else c.memByte (x.pa + i))
      ∧ (∀ pa, pa < x.pa ∨ x.pa + n ≤ pa → offRecord s pa → t.memByte pa = c.memByte pa)))
  ∧ (∀ (s : State) (d b u : BitVec 5) (o : BitVec 4) (w : BitVec 1) (r : BitVec 2) (sc : BitVec 3) (x : Xl),
    let n := 4 * (w.toNat + 1)
    let a := s.cx.sreg b.toNat
    let v := (s.cx.sreg u.toNat).toNat % 256 ^ n
    let c := s.commitHere
    let rec' := s.importRec x.frame
    let kind := (rec'.getD 0 0).toNat / 2 % 4
    let free := (Config.freeWord s.fresh).toNat % 4
    let atom : Instr := .atom d b u o w 1 r sc
    let acas : Instr := .acas d b u w 1 r sc
    let matching := [(9, 0), (0, 2), (4, 3), (5, 4), (6, 5), (7, 6), (1, 7), (2, 8)]
    s.ctx < 4 → sc.toNat ≤ 5 → a.toNat % n = 0 → s.translate s.core s.ctx a .rmw .plain = .ok x → x.cls = 2 → o.toNat ≤ 9 → ¬(o.toNat = 9 ∧ w = 1) →
    (s.sentBy s.core s.ctx none = none →
      (impValid rec' = false → exec atom s = .next (s.trapped 4 a) ∧ exec acas s = .next (s.trapped 4 a))
      ∧ (impValid rec' = true → kind = 0 → ∀ i ∈ [atom, acas], exec i s = .next { c with fresh := c.fresh + 1, fabReqs := c.fabReqs ++
          [{ id := c.fresh, core := s.core, slot := s.ctx, va := a, deadline := c.time + impTmo rec', entry := x.frame, record := rec' }] })
      ∧ (impValid rec' = true → kind = 1 → exec acas s = .next (s.trapped 4 a)
        ∧ (o.toNat = 3 ∨ o.toNat = 8 ∨ w = 1 → exec atom s = .next (s.trapped 4 a))
        ∧ (w = 0 → ∀ oper, (o.toNat, oper) ∈ matching →
          (∀ m, s.windowOper x.frame = some m → m ≠ oper → exec atom s = .next (s.trapped 4 a))
          ∧ ((∀ m, s.windowOper x.frame = some m → m = oper) →
            (s.portOk rec' = false → exec atom s = .next c)
            ∧ (s.portOk rec' = true →
              let key := winKey ((rec'.getD 1 0).toNat % 2 ^ 16) ((rec'.getD 1 0).toNat / 2 ^ 16 % 64)
              let cidx := (rec'.getD 1 0).toNat / 2 ^ 24 % 64
              let t : State := { c with fresh := c.fresh + 1, fabReqs := c.fabReqs ++
                [{ id := c.fresh, core := s.core, slot := s.ctx, va := a, deadline := 0, entry := x.frame, round := some (key, x.off), cidx := cidx, record := rec' }] }
              exec atom s = .next (if (t.winOf key).live then t.contribute key cidx x.off (BitVec.ofNat 32 v) else t))))))
    ∧ ∀ q, s.sentBy s.core s.ctx none = some q →
      let gone : State := { s with fabReqs := s.fabReqs.filter fun y => decide (y.id ≠ q.id) }
      (q.round = none → ∀ i ∈ [atom, acas],
        (q.answer = some 3 → exec i s = .next (gone.trapped 16 a))
        ∧ (q.answer = some 1 → exec i s = .next (gone.trapped 4 a))
        ∧ (q.answer ≠ some 3 → q.answer ≠ some 1 →
          (q.held = true ∨ s.portOk q.record = false → exec i s = .next s)
          ∧ (q.held = false → s.portOk q.record = true →
            let t : State := { gone with fresh := s.fresh + 1 }
            (free = 1 → exec i s = .next (t.trapped 4 a)) ∧ (free = 2 → exec i s = .next { s with fresh := s.fresh + 1 })
            ∧ (free ≠ 1 → free ≠ 2 → exec i s = .next (State.effected { t with fresh := s.fresh + 2 }
                (s.cx.setS d.toNat (BitVec.ofNat 64 ((Config.freeWord (s.fresh + 1)).toNat % 256 ^ n))))))))
      ∧ (q.round ≠ none → q.answer = some 1 → exec atom s = .next (gone.trapped 4 a))
      ∧ (∀ m, q.round ≠ none → q.answer = some m → m ≠ 1 → exec atom s = .next (gone.effected (s.cx.setS d.toNat 0)))
      ∧ (∀ k, q.round = some k → q.answer = none → (s.winOf k.1).live = true ∨ s.portOk q.record = false → exec atom s = .next s))

/-! ## 09 and 04: effects, phases and the commit -/

/-- R85 to R87 and R208: a commit performs the held bytes: a byte of the package's memory that the lot holds, whose frame its VF owns, and
that no combine of the lot covers, is in memory afterwards; a held byte of a frame of another owner is not performed, and OWNER is posted
to the slot; every byte that is neither held nor covered by a combine is as before, but for the fault record of the slot's context area;
the lot then holds nothing, so the lot view of each byte is memory. R97, R99, R101 and R390: a single pending combine is applied to the word in
memory, by the table of R205; a held byte of a fabric window is in a request of its line to the window's port, under the record as it
stands, with the deadline by its TMO. R47: a lot whose last phase has been committed commits nothing more.

R43, R190, R193, R196 and R197: PHASE, SIGNAL.SET, SIGNAL.ADD, KICK and MBACT complete where their checks pass: the phase is committed,
then the effect happens, and a user slot's checkpoint is taken at the next word. PHASE's is the one with the mask it names; SIGNAL writes
the whole word, or adds to it modulo 2^64; KICK tells the front end of the queue; MBACT appends one message to an open gate, with the bytes
the descriptor names, and nothing to a gate that is ending; while the gate's four places are taken it stalls.

Completion (under the conditions on state and operands named, and no others, exec i s = next t with the t described) of phase, signalSet,
signalAdd, kick, mbact. -/
def Obligations.CommitAndEffects : Prop :=
  (∀ (s : State) (core ctx : Nat),
    let c := s.ctxOf core ctx
    let t := s.commit core ctx
    let clear (a : Nat) : Prop := ∀ p ∈ c.combs, a < p.1 ∨ p.1 + p.2.width ≤ a
    let off (a : Nat) : Prop := ∀ p, s.slotArea core ctx = some p → a < p + 0x100 ∨ p + 0x180 ≤ a
    let mine (a : Nat) : Bool := ownerMatches (s.vfOf core ctx) (s.frameRec (a / 2 ^ 21)).owner
    (c.committed = false →
      (∀ a b, (a, b) ∈ c.held → (∀ b', (a, b') ∈ c.held → b' = b) → a < 2 ^ 41 → mine a = true → clear a → off a → t.memByte a = b)
      ∧ (∀ a b, (a, b) ∈ c.held → a < 2 ^ 41 → mine a = false →
          (clear a → off a → t.memByte a = s.memByte a) ∧ ∃ r ∈ (t.ctxOf core ctx).posted, r.cause = 8 ∧ r.src = ctx)
      ∧ (∀ p k, c.combs = [(p, k)] → c.held = [] → mine p = true → k.width = 4 ∨ k.width = 8 → k.op ≤ 7 ∨ k.op = 9 ∧ k.width = 4 →
          k.operand.toNat < 256 ^ k.width → (∀ i < k.width, off (p + i)) → ∀ i < k.width, t.memByte (p + i) =
            BitVec.ofNat 8 (atomResult k.op (8 * k.width) (leNat (fun j => s.memByte (p + j)) k.width) k.operand.toNat / 256 ^ i))
      ∧ (∀ a b, (a, b) ∈ c.held → 2 ^ 41 ≤ a → ∃ r ∈ t.fabReqs, r.core = core ∧ r.slot = ctx ∧ r.store = c.task ∧ r.entry = (a - 2 ^ 41) / 2 ^ 29
          ∧ r.record = s.importRec r.entry ∧ r.deadline = s.time + impTmo r.record))
    ∧ (c.committed = true → ∀ a, off a → t.memByte a = s.memByte a)
    ∧ (∀ a, (∀ b, (a, b) ∉ c.held) → clear a → off a → t.memByte a = s.memByte a)
    ∧ (t.ctxOf core ctx).held = [] ∧ (t.ctxOf core ctx).combs = [] ∧ (t.ctxOf core ctx).lines = []
    ∧ (∀ a, t.lotByte (t.ctxOf core ctx) combView a = t.memByte a)
    ∧ (∀ r, (t.ctxOf core ctx).sreg r = c.sreg r) ∧ (t.ctxOf core ctx).pc = c.pc)
  ∧ (∀ (s : State) (a b : BitVec 5) (x : Xl),
    let c := s.commitHere
    let va := s.cx.sreg a.toNat
    let v := s.cx.sreg b.toNat
    let vf := s.vfOf s.core s.ctx
    let old := leNat (fun i => c.memByte (x.pa + i)) 8
    let gt := c.gateOf va.toNat
    let len := v.toNat / 2 ^ 32 % 2 ^ 9
    let off := v.toNat % 2 ^ 24
    (va.toNat < 2 ^ 48 → s.ctx < 4 → exec (.phase a) s = .next ((c.setCx c.cx.advance).checkpoint s.core s.ctx va 1))
    ∧ (va.toNat % 8 = 0 → s.translate s.core s.ctx va .write .near = .ok x → x.pa < 2 ^ 41 →
        ownerMatches vf (c.frameRec (x.pa / 2 ^ 21)).owner = true → ∃ t : State, exec (.signalSet a b) s = .next (t.effected t.cx) ∧ t.cx = c.cx
        ∧ (∀ i < 8, t.memByte (x.pa + i) = BitVec.ofNat 8 (v.toNat / 256 ^ i))
        ∧ (∀ pa, pa < x.pa ∨ x.pa + 8 ≤ pa → t.memByte pa = c.memByte pa))
    ∧ (va.toNat % 8 = 0 → s.translate s.core s.ctx va .rmw .near = .ok x → c.accessCheck vf x.pa 8 va = .ok () →
        ∃ t : State, exec (.signalAdd a b) s = .next (t.effected t.cx) ∧ t.cx = c.cx
        ∧ (∀ i < 8, t.memByte (x.pa + i) = BitVec.ofNat 8 ((old + v.toNat) / 256 ^ i))
        ∧ (∀ pa, pa < x.pa ∨ x.pa + 8 ≤ pa → t.memByte pa = c.memByte pa))
    ∧ (va.toNat < 2 ^ 14 → va.toNat % 256 ≠ 0 → va.toNat % 256 ≤ 64 →
        c.kickAllowed vf (va.toNat % 256) (va.toNat / 256 % 64) = true → (c.queueOf (va.toNat % 256) (va.toNat / 256 % 64)).en = true →
        exec (.kick a) s = .next ((c.push (.queueKick (va.toNat % 256) (va.toNat / 256 % 64))).effected c.cx))
    ∧ (s.cx.gateStall = none → s.gateCheck va v true = .ok () → gt.state = 2 → gt.acts.length < 4 → ∃ (m : Msg) (t : State), exec (.mbact a b) s = .next (t.effected t.cx)
        ∧ t.cx = c.cx ∧ t.gateOf va.toNat = { gt with acts := gt.acts ++ [m], seqAct := (gt.seqAct + 1) % 256 }
        ∧ m.data = (List.range len).map (fun i => c.aByte s.core s.ctx (off + i)))
    ∧ (s.cx.gateStall = none → s.gateCheck va v true = .ok () → gt.state = 3 → exec (.mbact a b) s = .next (c.effected c.cx))
    ∧ (s.cx.gateStall = none → s.gateCheck va v true = .ok () → gt.state = 2 → 4 ≤ gt.acts.length →
        exec (.mbact a b) s = .next (c.setCx { c.cx with gateStall := some (va.toNat, false) }).stalled))

/-! ## 02 and 09: waiting words -/

/-- R39 and R40: what R39 leaves of a lot that suspends: the task waits, in a context area, its slot is free, and its continuation stands at
the next word with exactly the scalar, branch-target and flag registers that the mask names, the others as at lot start; the area holds the record
(R325): PC, MASK and KIND at offsets 0x180, 0x190 and 0x199.

R39, R192, R194, R197 and R213: each waiting word, outside a delay slot, with a legal mask and its own checks passed, first releases the
lot's held commands; it stalls until the lot is quiet and an area is free; then the lot suspends, and the word registers: WAITC, whose
condition is 0 to 3 (4 to 7 trap ILLEGAL, R148), a watch on the word, LEASE.W and LEASEC.W a request of their core's allocator from the next cycle on, MBOBS.W with the gate, MKRD.W and MKTAKE.W at
the Market slice of the key. A WAITC whose condition holds, an MBOBS.W with an observation queued and a Market word with a match are
served at once, and their continuation is in the pool.

Completion (under the conditions on state and operands named, and no others, exec i s = next t with the t described) of waitc, leaseW,
leasecW, mbobsW, mkrdW, mktakeW. -/
def Obligations.WaitingInstructions : Prop :=
  (∀ (s : State) (mask : Word) (k : Nat), s.cx.task = some k →
    let t := s.suspend mask k
    (t.taskOf k).state = .waiting ∧ (t.taskOf k).ctxId.isSome = true ∧ t.cx.task = none
    ∧ ∃ ar, (t.taskOf k).cont = some ar ∧ ar.ctx.pc = s.cx.advance.pc
      ∧ (∀ r < 32, ar.ctx.sreg r = if mask.getLsbD r then s.cx.sreg r else 0)
      ∧ (∀ b < 8, ar.ctx.breg b = if mask.getLsbD (32 + b) then s.cx.breg b else 0)
      ∧ (∀ f < 8, ar.ctx.flag f = if mask.getLsbD (40 + f) then s.cx.flag f else false)
      ∧ ∀ p, t.areaOf k = some p → p + 0x300 ≤ physLimit →
        t.memNat (p + 0x180) 8 = s.cx.advance.pc.toNat ∧ t.memNat (p + 0x190) 8 = mask.toNat ∧ t.memNat (p + 0x199) 1 = 3)
  ∧ (∀ (s : State) (a b d m : BitVec 5) (c : BitVec 3) (c2 : BitVec 2) (q : BitVec 5) (fm : BitVec 8) (x : Xl) (k : Nat),
    let h := s.releaseHeld s.core s.ctx
    let va := s.cx.sreg a.toNat
    let v := s.cx.sreg b.toNat
    let mask := s.cx.sreg m.toNat
    let u := h.suspend mask k
    let filled := u.fill x.pa
    let ready := h.lotQuiet s.core s.ctx = true ∧ h.areaReady s.core s.ctx = true
    let waits (i : Instr) (pre : Prop) (go : Prop) : Prop :=
      pre → (¬ready → exec i s = .next h.stalled) ∧ (ready → go)
    let key := (List.range 8).map fun i => s.cx.sreg (8 + i)
    let n := mkSlice x.frame (key.getD 0 0)
    let found : Prop := ∃ tp, (s.sliceOf n).find x.frame fm key = some tp ∧ s.mkSeal tp = true
    let mkPre (kind : Kind) : Prop := s.ctx < 4 ∧ fm.getLsbD 0 = true ∧ s.translate s.core s.ctx va kind .market = .ok x ∧ s.mkOwner x = true
    let room : Prop := (s.sliceOf n).parked.length + ((s.sliceOf n).tuples.filter fun t => decide (t.place = 2)).length < 1024
    let parkedAs (take : Bool) (t : State) : Prop := (t.sliceOf n).parked =
      (u.sliceOf n).parked ++ [{ frame := x.frame, mask := fm, fields := key, take := take, seq := (u.sliceOf n).seq, task := k }]
      ∧ (t.taskOf k).state = .waiting
    s.cx.task = some k → s.cx.pslots = 0 → mask.toNat < 2 ^ 48 →
    (4 ≤ c.toNat → exec (.waitc a b m c) s = .next (s.trapped 1 0))
    ∧ waits (.waitc a b m c) (c.toNat < 4 ∧ va.toNat % 8 = 0 ∧ s.translate s.core s.ctx va .read .near = .ok x ∧ s.accessCheck (s.vfOf s.core s.ctx) x.pa 8 va = .ok ())
        ((watchHolds c.toNat (filled.memNat x.pa 8) v.toNat = true → exec (.waitc a b m c) s = .next (filled.enqueueCont k))
          ∧ (watchHolds c.toNat (filled.memNat x.pa 8) v.toNat = false → exec (.waitc a b m c) s =
              .next { filled with watches := filled.watches ++ [{ pa := x.pa, cond := c.toNat, value := v, task := some k }] }))
    ∧ waits (.leaseW d m q) (q.toNat % 8 ≤ 4)
        (∃ t r, exec (.leaseW d m q) s = .next t ∧ (t.coreOf s.core).reqs = (u.coreOf s.core).reqs ++ [r] ∧ r.copy = false ∧ r.shape = q.toNat % 8
          ∧ r.cls = q.toNat / 8 ∧ r.since = s.cycle + 1 ∧ r.task = k ∧ (t.taskOf k).state = .waiting ∧ (t.taskOf k).core = some s.core)
    ∧ waits (.leasecW d m c2) True
        (∃ t r, exec (.leasecW d m c2) s = .next t ∧ (t.coreOf s.core).reqs = (u.coreOf s.core).reqs ++ [r] ∧ r.copy = true
          ∧ r.cls = c2.toNat ∧ r.since = s.cycle + 1 ∧ r.task = k ∧ (t.taskOf k).state = .waiting)
    ∧ waits (.mbobsW a b m) (s.gateCheck va v false = .ok ())
        (((u.gateOf va.toNat).obs = [] → exec (.mbobsW a b m) s =
            .next (u.setGate va.toNat { u.gateOf va.toNat with waiters := (u.gateOf va.toNat).waiters ++ [(k, v)] }))
          ∧ ∀ msg r, (u.gateOf va.toNat).obs = msg :: r → exec (.mbobsW a b m) s =
            .next (((u.setGate va.toNat { u.gateOf va.toNat with obs := r }).deliverMsg va.toNat k v msg).enqueueCont k))
    ∧ waits (.mkrdW a fm m) (mkPre .read ∧ (s.sliceOf n).find x.frame fm key = none ∧ room) (∃ t, exec (.mkrdW a fm m) s = .next t ∧ parkedAs false t)
    ∧ waits (.mktakeW a fm m) (mkPre .rmw ∧ (s.sliceOf n).find x.frame fm key = none ∧ room) (∃ t, exec (.mktakeW a fm m) s = .next t ∧ parkedAs true t)
    ∧ waits (.mkrdW a fm m) (mkPre .read ∧ found)
        (∃ t, exec (.mkrdW a fm m) s = .next t ∧ (t.taskOf k).state = .pooled ∧ k ∈ t.pool)
    ∧ waits (.mktakeW a fm m) (mkPre .rmw ∧ found)
        (∃ t, exec (.mktakeW a fm m) s = .next t ∧ (t.taskOf k).state = .pooled ∧ k ∈ t.pool))

/-! ## 09: engine commands, tags, rings, fences -/

/-- An address outside the fault record of the context area of the acting slot's task (R377), where TAGCAUSE stands. -/
def offFault (s : State) (pa : Nat) : Prop := ∀ b, s.slotArea s.core s.ctx = some b → pa < b + 0x100 ∨ b + 0x180 ≤ pa

/-- The lot's queues after a command is placed behind each engine of a list: one command more, the older ones in their order. -/
def placedOn (s t : State) (es : List Nat) (ok : Cmd → Prop) : Prop :=
  ∀ e ∈ es, ∃ q k, (t.engOf s.core e).queue = q ++ [k] ∧ q.length = (s.engOf s.core e).queue.length ∧ ok k

/-- R184, R185, R186 and R187: FORK, MARK, RDV.SET, RDV.WAIT, RDV.TEST and QDROP complete where the handle or the mask names only engines of
the slot and the queues have room. FORK places a program of the section at the entry the word names, with the VSHAPE and the records of the
moment bound by value, and of a copy program with its tags reserved, whose causes are cleared in the fault record (R81, R377); MARK a marker with the low 16 bits of its register; a word without room stalls; RDV.SET records mask and
marker; RDV.TEST tells whether each engine of the mask has passed it and RDV.WAIT waits for that; QDROP leaves no program or marker placed
after the marker.

Completion (under the conditions on state and operands named, and no others, exec i s = next t with the t described) of forkVec, forkMat,
forkCopy, mark, rdvSet, rdvTest, rdvWait, qdrop. -/
def Obligations.EngineCommands : Prop := ∀ (s : State) (h : BitVec 1) (e : BitVec 18) (r : BitVec 5) (q : BitVec 13) (nf : BitVec 1) (v f : BitVec 3),
  let nd := s.nodeAt s.core s.ctx
  let es := ((List.range 13).filter fun i => q.getLsbD i).map (qEngine s.ctx)
  let mine := ∀ x ∈ es, x ∈ s.enginesHeld s.core s.ctx
  let room (l : List Nat) := ∀ x ∈ l, (s.engOf s.core x).queue.length < 16
  let hd := handleOf (s.cx.sreg r.toNat)
  let units (base : Nat) := hd.units.map (· + base)
  let m : BitVec 16 := BitVec.ofNat 16 (s.cx.sreg r.toNat).toNat
  let prog (base : Word) (len : Nat) (k : Cmd) : Prop := ∃ p, k.kind = .program p ∧ p.base = base ∧ p.len = len ∧ p.entry = e.toNat
    ∧ p.vshape = s.cx.vshape ∧ p.q = s.cx.q ∧ p.cv = s.cx.cv ∧ p.tx = s.cx.tx ∧ k.held = (h == 1)
  (s.ctx < 4 → e.toNat < nd.veclen → room [s.ctx] → ∃ t, exec (.forkVec h e) s = .next t ∧ placedOn s t [s.ctx] (prog nd.vec nd.veclen)
      ∧ t.cx.pc = s.cx.advance.pc ∧ SameMemory s t)
  ∧ (hd.copy = false → s.current s.core s.ctx hd = true → e.toNat < nd.matlen → room (units 4) → ∃ t, exec (.forkMat h r e) s = .next t
      ∧ placedOn s t (units 4) (prog nd.mat nd.matlen) ∧ t.cx.pc = s.cx.advance.pc ∧ SameMemory s t)
  ∧ (hd.copy = true → s.current s.core s.ctx hd = true → e.toNat < nd.xferlen → room (units 8) →
      (∀ g < 64, s.cx.outOf g + s.cx.resOf g + hd.units.length ≤ 255) → ∃ t, exec (.forkCopy h r e) s = .next t
      ∧ placedOn s t (units 8) (prog nd.xfer nd.xferlen) ∧ t.cx.pc = s.cx.advance.pc ∧ ∀ pa, offFault s pa → t.memByte pa = s.memByte pa)
  ∧ (s.ctx < 4 → e.toNat < nd.veclen → 16 ≤ (s.engOf s.core s.ctx).queue.length → exec (.forkVec h e) s = .next s.stalled)
  ∧ (s.ctx < 4 → mine → room es → ∃ t, exec (.mark r nf q) s = .next t ∧ placedOn s t es (fun k => k.kind = .marker m (nf == 1) ∧ k.held = false)
      ∧ t.cx.pc = s.cx.advance.pc ∧ SameMemory s t)
  ∧ (mine → ∃ t, exec (.rdvSet v r q) s = .next t ∧ t.cx.rvreg v.toNat = { mask := q, marker := m } ∧ t.cx.pc = s.cx.advance.pc
      ∧ (∀ i, i ≠ v.toNat → t.cx.rvreg i = s.cx.rvreg i) ∧ SameMemory s t)
  ∧ exec (.rdvTest v f) s = .next (s.flagged f (s.fired s.core s.ctx (s.cx.rvreg v.toNat)))
  ∧ (s.fired s.core s.ctx (s.cx.rvreg v.toNat) = true → exec (.rdvWait v) s = .next s.retired)
  ∧ (s.fired s.core s.ctx (s.cx.rvreg v.toNat) = false → exec (.rdvWait v) s = .next s.stalled)
  ∧ (mine → ∃ t, exec (.qdrop r q) s = .next t ∧ t.cx.pc = s.cx.advance.pc ∧ SameMemory s t
      ∧ ∀ x ∈ es, ∀ n, Tbl.find? (s.engOf s.core x).placed m.toNat = some n → ∀ k ∈ (t.engOf s.core x).queue,
          n < k.id → (∀ p, k.kind ≠ .program p) ∧ (∀ m' b, k.kind ≠ .marker m' b))
  ∧ (¬mine → exec (.mark r nf q) s = .next (s.trapped 19 0) ∧ exec (.rdvSet v r q) s = .next (s.trapped 19 0)
      ∧ exec (.qdrop r q) s = .next (s.trapped 19 0))

/-- R188: the tag operations. TWAIT.ANY waits for one complete tag of its mask, and traps ILLEGAL on an empty mask; TWAIT.ALL waits for all of
them; TFFR gives the lowest complete tag of its mask, or 64, and never waits; TCANCEL completes, and leaves no step in flight of a tag of its
mask on an engine that has commands of the lot; of memory it changes the causes in the slot's fault record at most (R377). The others write
no memory.

R75, R76 and R189: the ring operations of a context, on a configured entry, complete with these counters; a count of 0 or above SCOUNT, an
entry that breaks a rule of R75, an RADV beyond the full slots and an RGET of a number above 3 trap ILLEGAL; RCLAIM and RWAITE stall for
free slots, RWAITF for full ones. That RSET traps ILLEGAL for SCOUNT 4,097 to 8,191, which R75 does not list, is the model's choice (log 81).

Completion (under the conditions on state and operands named, and no others, exec i s = next t with the t described) of twaitAny, twaitAll,
tffr, tcancel, rset, rclaim, rdone, rwaitf, rwaite, radv, rget. -/
def Obligations.TagsAndRings : Prop :=
  (∀ (s : State) (d a : BitVec 5),
    let m := s.cx.sreg a.toNat
    let done := s.cx.tagdone &&& m
    (done ≠ 0 → ∃ t, exec (.twaitAny a) s = .next t ∧ t.cx.pc = s.cx.advance.pc ∧ SameMemory s t ∧ (∀ r, t.cx.sreg r = s.cx.sreg r) ∧ t.cx.tagdone = s.cx.tagdone)
    ∧ (m ≠ 0 → done = 0 → exec (.twaitAny a) s = .next s.stalled) ∧ (m = 0 → exec (.twaitAny a) s = .next (s.trapped 1 0))
    ∧ (done = m → ∃ t, exec (.twaitAll a) s = .next t ∧ t.cx.pc = s.cx.advance.pc ∧ SameMemory s t ∧ (∀ r, t.cx.sreg r = s.cx.sreg r) ∧ t.cx.tagdone = s.cx.tagdone)
    ∧ (done ≠ m → exec (.twaitAll a) s = .next s.stalled)
    ∧ (done = 0 → exec (.tffr d a) s = .next (s.wrote d 64))
    ∧ (done ≠ 0 → ∃ t g, exec (.tffr d a) s = .next t ∧ done.getLsbD g = true ∧ (∀ i < g, done.getLsbD i = false)
        ∧ t.cx.sreg d.toNat = (if d = 0 then 0 else BitVec.ofNat 64 g) ∧ (∀ r, r ≠ d.toNat → t.cx.sreg r = s.cx.sreg r) ∧ SameMemory s t)
    ∧ (∃ t, exec (.tcancel a) s = .next t ∧ t.cx.pc = s.cx.advance.pc ∧ (∀ pa, offFault s pa → t.memByte pa = s.memByte pa) ∧ (∀ r, t.cx.sreg r = s.cx.sreg r)
        ∧ ∀ n ∈ s.copiesWith s.core s.ctx, ∀ st ∈ (t.copyOf s.core n).steps, ∀ g, st.tag = some g → m.getLsbD g = false))
  ∧ (∀ (s : State) (g : BitVec 6) (d a : BitVec 5),
    let r := s.cx.ring g.toNat
    let v := s.cx.sreg a.toNat
    let n := v.toNat % 2 ^ 32
    let cnt := r.scount
    let full := (r.tail - r.head).toNat
    let used := (r.claim - r.head).toNat
    let ok := cnt ≠ 0 ∧ 1 ≤ n ∧ n ≤ cnt
    let entryOk := v.toNat / 2 ^ 36 ≠ 0 ∧ v.toNat / 2 ^ 36 ≤ 4096 ∧ v.toNat / 2 ^ 24 % 2 ^ 12 ≠ 0 ∧ v.toNat % 64 = 0
      ∧ v.toNat % 2 ^ 24 + v.toNat / 2 ^ 36 * 64 * (v.toNat / 2 ^ 24 % 2 ^ 12) ≤ s.cx.asize
    (entryOk → exec (.rset g a) s = .next (s.setCx (s.cx.setRing g.toNat { entry := v }).advance))
    ∧ (¬entryOk → exec (.rset g a) s = .next (s.trapped 1 0))
    ∧ (ok → used + n ≤ cnt → exec (.rclaim g d a) s =
        .next (s.setCx ((s.cx.setRing g.toNat { r with claim := r.claim + BitVec.ofNat 32 n }).setS d.toNat (r.claim.zeroExtend 64)).advance))
    ∧ (ok → cnt < used + n → exec (.rclaim g d a) s = .next s.stalled)
    ∧ (cnt ≠ 0 → (BitVec.ofNat 32 n - r.tail).toNat < (r.claim - r.tail).toNat → n % cnt ∉ r.filled → ∃ t r', exec (.rdone g a) s = .next t
        ∧ t.cx.ring g.toNat = r' ∧ r'.claim = r.claim ∧ r'.head = r.head ∧ r'.entry = r.entry ∧ (n % cnt ∈ r'.filled ∨ r'.tail ≠ r.tail)
        ∧ t.cx.pc = s.cx.advance.pc ∧ SameMemory s t ∧ ∀ q, t.cx.sreg q = s.cx.sreg q)
    ∧ (ok → n ≤ full → ∃ t, exec (.rwaitf g a) s = .next t ∧ t.cx.pc = s.cx.advance.pc ∧ (∀ i, { t.cx.ring i with marks := [] } = { s.cx.ring i with marks := [] }) ∧ SameMemory s t ∧ ∀ q, t.cx.sreg q = s.cx.sreg q)
    ∧ (ok → full < n → exec (.rwaitf g a) s = .next s.stalled)
    ∧ (ok → used + n ≤ cnt → exec (.rwaite g a) s = .next s.retired) ∧ (ok → cnt < used + n → exec (.rwaite g a) s = .next s.stalled)
    ∧ (ok → n ≤ full → exec (.radv g a) s = .next (s.setCx (s.cx.setRing g.toNat { r with head := r.head + BitVec.ofNat 32 n }).advance))
    ∧ (ok → full < n → exec (.radv g a) s = .next (s.trapped 1 0))
    ∧ (cnt ≠ 0 → v = 0 → exec (.rget g d a) s = .next (s.wrote d (r.claim.zeroExtend 64)))
    ∧ (cnt ≠ 0 → v = 1 → exec (.rget g d a) s = .next (s.wrote d (r.tail.zeroExtend 64)))
    ∧ (cnt ≠ 0 → v = 2 → exec (.rget g d a) s = .next (s.wrote d (r.head.zeroExtend 64)))
    ∧ (cnt ≠ 0 → v = 3 → exec (.rget g d a) s = .next (s.wrote d r.entry))
    ∧ (cnt = 0 ∨ 3 < v.toNat → exec (.rget g d a) s = .next (s.trapped 1 0))
    ∧ (¬ok → exec (.rclaim g d a) s = .next (s.trapped 1 0) ∧ exec (.rwaitf g a) s = .next (s.trapped 1 0)
        ∧ exec (.rwaite g a) s = .next (s.trapped 1 0) ∧ exec (.radv g a) s = .next (s.trapped 1 0)))

/-- R96, R101 and R191: a fence that its context does not wait in yet puts a token behind the queue of each engine of the lot on a path of Y;
where Y names no path of the control core it completes at once; where it does, it completes when no engine on a path of X has a command
before it and, with X containing the fabric, no committed store of the lot is still under way to another package, and otherwise stalls. It
writes no memory. That the control core waits where Y names the core, Market or fabric path, and that the scope adds nothing in one
package, is the model's reading (log 25).

Completion (under the conditions on state and operands named, and no others, exec i s = next t with the t described) of fenceX. -/
def Obligations.Fences : Prop := ∀ (s : State) (x y : BitVec 6) (c : BitVec 3),
  let es := s.enginesOf s.core s.ctx
  let dest := es.filter fun e => meets y (enginePaths e)
  let src := es.filter fun e => meets x (enginePaths e)
  let onCore := y.getLsbD 0 ∨ y.getLsbD 3 ∨ y.getLsbD 4
  let sent := x.getLsbD 4 = true ∧ ∃ q ∈ s.fabReqs, q.core = s.core ∧ q.slot = s.ctx ∧ q.store.isSome = true ∧ q.store = s.cx.task
  s.cx.fenceWait = none → (∀ e ∈ dest, (s.engOf s.core e).queue.length < 16) →
  ∃ t, exec (.fenceX x y c) s = .next t ∧ SameMemory s t ∧ (∀ r, t.cx.sreg r = s.cx.sreg r)
    ∧ placedOn s t dest (fun k => k.kind = .fence s.cx.cmdNo ∧ k.held = false)
    ∧ (¬onCore → t.cx.pc = s.cx.advance.pc)
    ∧ (onCore → (∀ e ∈ src, s.hasBefore s.core e s.cx.cmdNo = false) → ¬sent → t.cx.pc = s.cx.advance.pc ∧ t.cx.fenceWait = none)
    ∧ (onCore → (∃ e ∈ src, s.hasBefore s.core e s.cx.cmdNo = true) ∨ sent → t.cx.pc = s.cx.pc ∧ t.cx.fenceWait = some s.cx.cmdNo)

/-! ## 09: leases, records, granules, gates, giving way -/

/-- R183, R194 and R195: LEASE.T and LEASEC.T always complete in a user slot with a legal shape, and rd holds 0 or a handle that is current
for the slot at once; a second fragment decision of the cycle gives 0 and changes nothing else. UNLEASE of a current handle completes, and
the handle is current no more; of any other value it traps LEASE_BAD. SPLIT is tested against the plan that the allocator leaves in its
cycle: it completes where that is its own, stalls where a change is then pending, and, where no request and no change is pending, FREEZE
is 0 and every fragment is FREE, changes the plan to another one; while FREEZE is 1 it stalls; a plan above 4 traps ILLEGAL.

Completion (under the conditions on state and operands named, and no others, exec i s = next t with the t described) of leaseT, leasecT,
unlease, split. -/
def Obligations.LeaseWords : Prop := ∀ (s : State) (d a q : BitVec 5) (c : BitVec 2) (p : BitVec 3),
  let hd := handleOf (s.cx.sreg a.toNat)
  let k := s.coreOf s.core
  let made := (s.allocate s.core).planChange s.core
  let leased (t : State) (copy : Bool) : Prop := t.cx.pc = s.cx.advance.pc ∧ SameMemory s t
    ∧ (∀ r, r ≠ d.toNat → t.cx.sreg r = s.cx.sreg r)
    ∧ (d ≠ 0 → t.cx.sreg d.toNat ≠ 0 → t.current s.core s.ctx (handleOf (t.cx.sreg d.toNat)) = true ∧ (handleOf (t.cx.sreg d.toNat)).copy = copy)
  (s.ctx < 4 → q.toNat % 8 ≤ 4 → ∃ t, exec (.leaseT d q) s = .next t ∧ leased t false)
  ∧ (s.ctx < 4 → ∃ t, exec (.leasecT d c) s = .next t ∧ leased t true)
  ∧ (s.ctx < 4 → q.toNat % 8 ≤ 4 → k.fragCycle = s.cycle + 1 → exec (.leaseT d q) s = .next (s.wrote d 0))
  ∧ (s.ctx < 4 → k.copyCycle = s.cycle + 1 → exec (.leasecT d c) s = .next (s.wrote d 0))
  ∧ (s.current s.core s.ctx hd = true → ∃ t, exec (.unlease a) s = .next t ∧ t.current s.core s.ctx hd = false
      ∧ t.cx.pc = s.cx.advance.pc ∧ Ctx.SameBut s.cx t.cx [] [] [] ∧ SameMemory s t)
  ∧ (s.current s.core s.ctx hd = false → exec (.unlease a) s = .next (s.trapped 19 0))
  ∧ (k.plan = p.toNat → p.toNat ≤ 4 → k.reqs = [] → k.pendv = false → exec (.split p) s = .next s.retired)
  ∧ (p.toNat ≤ 4 → (made.coreOf s.core).plan = p.toNat → exec (.split p) s = .next (if k.plan = p.toNat then s.retired else made.retired))
  ∧ (p.toNat ≤ 4 → (made.coreOf s.core).plan ≠ p.toNat → (made.coreOf s.core).pendv = true → exec (.split p) s = .next s.stalled)
  ∧ (k.plan ≠ p.toNat → p.toNat ≤ 4 → k.reqs = [] → k.pendv = false → k.freeze = false → (∀ i < 4, (s.fragOf s.core i).state = 0) →
      ∃ t, exec (.split p) s = .next t ∧ t.cx = s.cx.advance ∧ (t.coreOf s.core).plan = p.toNat ∧ (t.coreOf s.core).pendv = false
        ∧ (∀ i < 4, (t.fragOf s.core i).state = 0) ∧ SameMemory s t)
  ∧ (k.plan ≠ p.toNat → p.toNat ≤ 4 → k.freeze = true → exec (.split p) s = .next s.stalled)
  ∧ (4 < p.toNat → exec (.split p) s = .next (s.trapped 1 0))

/-- R78 to R80, R198, R254: STRM, TXSET.M and CVSET complete where the aligned record can be read as LD reads it and, for STRM and CVSET, passes
the checks of its format: the register named takes the record's bytes, lowest first; TXSET replaces one 64-bit part of its register and
leaves the other three. A record that fails its checks traps ILLEGAL, one at an address that is no multiple of its size ALIGN.

R63 and R199: DEAD.A and DEAD.W clear the live bits of the granules from the register's number on, one more than the count field holds,
where they lie in the window, and change nothing else; otherwise they trap OUTSIDE.

Completion (under the conditions on state and operands named, and no others, exec i s = next t with the t described) of strm, txsetM, cvset,
txset, deadA, deadW. -/
def Obligations.RecordsAndGranules : Prop :=
  (∀ (s : State) (a : BitVec 5) (b u : BitVec 4) (cv : BitVec 3) (p : BitVec 2) (x : Xl),
    let va := s.cx.sreg a.toNat
    let ok (n : Nat) : Prop := va.toNat % n = 0 ∧ s.translate s.core s.ctx va .read .plain = .ok x ∧ x.cls ≠ 2
      ∧ s.accessCheck (s.vfOf s.core s.ctx) x.pa n va = .ok () ∧ (s.ctx = 4 → metaTile x.pa = none)
    let rec' (n : Nat) := leNat (fun i => s.lotByte s.cx combView (x.pa + i)) n
    let same (t : State) : Prop := t.cx.pc = s.cx.advance.pc ∧ SameMemory s t ∧ (∀ r, t.cx.sreg r = s.cx.sreg r) ∧ (∀ f, t.cx.flag f = s.cx.flag f)
    let refused (t : State) : Prop := t.core = s.core ∧ t.ctx = s.ctx ∧ t.cx.pc = s.cx.pc ∧ SameMemory s t
      ∧ (∀ i, t.cx.qreg i = s.cx.qreg i) ∧ ∀ i, t.cx.cvreg i = s.cx.cvreg i
    (ok 16 → State.streamOk s.cx (BitVec.ofNat 128 (rec' 16)) = true → ∃ t, exec (.strm b a) s = .next t ∧ same t
        ∧ t.cx.qreg b.toNat = BitVec.ofNat 128 (rec' 16) ∧ ∀ i, i ≠ b.toNat → t.cx.qreg i = s.cx.qreg i)
    ∧ (ok 32 → ∃ t, exec (.txsetM u a) s = .next t ∧ same t ∧ t.cx.txreg u.toNat = BitVec.ofNat 256 (rec' 32)
        ∧ ∀ i, i ≠ u.toNat → t.cx.txreg i = s.cx.txreg i)
    ∧ (ok 32 → cvOk (rec' 32) = true → ∃ t, exec (.cvset cv a) s = .next t ∧ same t ∧ t.cx.cvreg cv.toNat = BitVec.ofNat 256 (rec' 32)
        ∧ ∀ i, i ≠ cv.toNat → t.cx.cvreg i = s.cx.cvreg i)
    ∧ (∃ t, exec (.txset u a p) s = .next t ∧ same t
        ∧ (∀ j < 4, (t.cx.txreg u.toNat).toNat / 2 ^ (64 * j) % 2 ^ 64 =
            if j = p.toNat then va.toNat else (s.cx.txreg u.toNat).toNat / 2 ^ (64 * j) % 2 ^ 64)
        ∧ ∀ i, i ≠ u.toNat → t.cx.txreg i = s.cx.txreg i)
    ∧ (ok 16 → State.streamOk s.cx (BitVec.ofNat 128 (rec' 16)) = false → ∃ t : State, exec (.strm b a) s = .next (t.trapped 1 0) ∧ refused t)
    ∧ (ok 32 → cvOk (rec' 32) = false → ∃ t : State, exec (.cvset cv a) s = .next (t.trapped 1 0) ∧ refused t)
    ∧ (va.toNat % 16 ≠ 0 → exec (.strm b a) s = .next (s.trapped 3 va))
    ∧ (va.toNat % 32 ≠ 0 → exec (.txsetM u a) s = .next (s.trapped 3 va) ∧ exec (.cvset cv a) s = .next (s.trapped 3 va)))
  ∧ (∀ (s : State) (a : BitVec 5) (c : BitVec 9),
    let g := (s.cx.sreg a.toNat).toNat
    let n := c.toNat + 1
    (g + n ≤ s.cx.asize / 65536 → exec (.deadA a c) s =
        .next (s.setCx { s.cx with liveA := s.cx.liveA.filter fun x => decide (x < g ∨ g + n ≤ x) }.advance))
    ∧ (g + n ≤ s.cx.wsize / 32 → exec (.deadW a c) s =
        .next (s.setCx { s.cx with liveW := s.cx.liveW.filter fun x => decide (x < g ∨ g + n ≤ x) }.advance))
    ∧ (s.cx.asize / 65536 < g + n → exec (.deadA a c) s = .next (s.trapped 4 (s.cx.sreg a.toNat)))
    ∧ (s.cx.wsize / 32 < g + n → exec (.deadW a c) s = .next (s.trapped 4 (s.cx.sreg a.toNat))))

/-- R212 and R213, MKRD.T and MKTAKE.T on a Market region the slot's VF owns: after the commit, where a tuple of the region matches, its
eight fields go to the register group, the flag is set, and a take removes exactly that tuple from its slice, the others staying in their
order; where none matches, the flag is clear and no slice changes. Of memory, only the checkpoint record of the slot's context area changes.

R212 and R213, MKDEP on a Market region the slot's VF owns, where the slice has room, completes: the phase is committed, and of memory
only the checkpoint record of the slot's context area changes after that, and no register. With no parked take of the region that matches,
the tuple of the register group is stored last in its slice, and exactly the readers that match leave their places; of the parked takes
that match, with no reader that does, the first leaves its place and receives the tuple, which is then stored nowhere: its continuation
has the eight fields for s8 to s15 and is due to be enqueued.

R197 and R289: MBOBS.T whose checks pass takes the oldest queued observation: rd holds its header, the first bytes of its payload stand in
the A window at the descriptor's offset, and the gate is FREE and empty after an end message; with none queued rd is 0. R91 and R92: a
message taken is an acquire: the lot view of every byte that the slot neither holds nor combines into is memory.

Completion (under the conditions on state and operands named, and no others, exec i s = next t with the t described) of mkrdT, mktakeT,
mkdep, mbobsT. -/
def Obligations.MarketAndObservations : Prop :=
  (∀ (s : State) (g : BitVec 2) (b : BitVec 5) (m : BitVec 8) (f : BitVec 3) (x : Xl),
    let c := s.commitHere
    let key := (List.range 8).map fun i => s.cx.sreg (8 * g.toNat + i)
    let n := mkSlice x.frame (key.getD 0 0)
    let hit (t : Tuple) : Prop := t.frame = x.frame ∧ ∀ i < 8, m.getLsbD i = true → key.getD i 0 = t.fields.getD i 0
    let ok (kind : Kind) : Prop := s.ctx < 4 ∧ g ≠ 0 ∧ m.getLsbD 0 = true ∧ s.translate s.core s.ctx (s.cx.sreg b.toNat) kind .market = .ok x ∧ c.mkOwner x = true
    let kept (t : State) : Prop := ∀ pa, offRecord s pa → t.memByte pa = c.memByte pa
    let got (t : State) (tp : Tuple) : Prop := t.cx.flag f.toNat = true ∧ t.cx.pc = s.cx.advance.pc ∧ kept t
      ∧ (tp.fields.length = 8 → ∀ i < 8, t.cx.sreg (8 * g.toNat + i) = tp.fields.getD i 0)
      ∧ (tp.fields.length = 8 → ∀ r, (r < 8 * g.toNat ∨ 8 * g.toNat + 8 ≤ r) → t.cx.sreg r = s.cx.sreg r)
    let missed (t : State) : Prop := t.cx.flag f.toNat = false ∧ t.cx.pc = s.cx.advance.pc ∧ (∀ r, t.cx.sreg r = s.cx.sreg r) ∧ t.market = c.market ∧ kept t
    (ok .read → (∀ tp ∈ (c.sliceOf n).tuples, ¬hit tp) → ∃ t, exec (.mkrdT g b m f) s = .next t ∧ missed t)
    ∧ (ok .rmw → (∀ tp ∈ (c.sliceOf n).tuples, ¬hit tp) → ∃ t, exec (.mktakeT g b m f) s = .next t ∧ missed t)
    ∧ (∀ l tp r, (c.sliceOf n).tuples = l ++ tp :: r → (∀ u ∈ l, ¬hit u) → hit tp → c.mkSeal tp = true →
        (ok .read → ∃ t, exec (.mkrdT g b m f) s = .next t ∧ got t tp ∧ t.market = c.market)
        ∧ (ok .rmw → ∃ t, exec (.mktakeT g b m f) s = .next t ∧ got t tp ∧ t.sliceOf n = { c.sliceOf n with tuples := l ++ r }
            ∧ (∀ j, j ≠ n → t.sliceOf j = c.sliceOf j))))
  ∧ (∀ (s : State) (g : BitVec 2) (b : BitVec 5) (x : Xl),
    let c := s.commitHere
    let key := (List.range 8).map fun i => s.cx.sreg (8 * g.toNat + i)
    let n := mkSlice x.frame (key.getD 0 0)
    let hit (p : Parked) : Prop := p.frame = x.frame ∧ ∀ i < 8, p.mask.getLsbD i = true → p.fields.getD i 0 = key.getD i 0
    s.ctx < 4 → g ≠ 0 → s.translate s.core s.ctx (s.cx.sreg b.toNat) .rmw .market = .ok x → c.mkOwner x = true →
    ((c.sliceOf n).tuples.filter fun t => decide (t.place = 0)).length < 65536 →
    ∃ t, exec (.mkdep g b) s = .next t ∧ t.cx.pc = s.cx.advance.pc ∧ (∀ r, t.cx.sreg r = s.cx.sreg r)
      ∧ (∀ pa, offRecord s pa → t.memByte pa = c.memByte pa) ∧ (∀ j, j ≠ n → t.sliceOf j = c.sliceOf j)
      ∧ ((∀ p ∈ (c.sliceOf n).parked, hit p → p.take = false) → (∃ tp, (t.sliceOf n).tuples = (c.sliceOf n).tuples ++ [tp]
          ∧ tp.frame = x.frame ∧ tp.fields = key)
        ∧ (∀ p, p ∈ (t.sliceOf n).parked ↔ p ∈ (c.sliceOf n).parked ∧ ¬hit p)
        ∧ ((∀ p ∈ (c.sliceOf n).parked, ¬hit p) → (t.sliceOf n).parked = (c.sliceOf n).parked))
      ∧ (∀ l p r, (c.sliceOf n).parked = l ++ p :: r → hit p → p.take = true → (∀ q ∈ l, ¬hit q) → (∀ q ∈ r, hit q → q.take = true) →
        (t.sliceOf n).tuples = (c.sliceOf n).tuples ∧ (t.sliceOf n).parked = l ++ r ∧ .due (.continuationEnqueue p.task) ∈ t.agenda
        ∧ ∀ ar, (c.taskOf p.task).cont = some ar → ∃ ar', (t.taskOf p.task).cont = some ar' ∧ ∀ i < 8, Tbl.get ar'.deliver 0 (8 + i) = key.getD i 0))
  ∧ (∀ (s : State) (d a b : BitVec 5),
    let g := (s.cx.sreg a.toNat)
    let v := s.cx.sreg b.toNat
    let gt := s.gateOf g.toNat
    let len := v.toNat / 2 ^ 32 % 2 ^ 9
    let off := v.toNat % 2 ^ 24
    s.gateCheck g v false = .ok () →
    (gt.obs = [] → exec (.mbobsT d a b) s = .next (s.wrote d 0))
    ∧ ∀ m r, gt.obs = m :: r → ∃ t, exec (.mbobsT d a b) s = .next t ∧ t.cx.sreg d.toNat = (if d = 0 then 0 else m.hdr)
        ∧ t.cx.pc = s.cx.advance.pc ∧ SameMemory s t ∧ (∀ q, q ≠ d.toNat → t.cx.sreg q = s.cx.sreg q)
        ∧ (s.cx.asize ≤ 2 ^ 24 → ∀ i < m.data.length, i < len → t.aByte s.core s.ctx (off + i) = m.data.getD i 0)
        ∧ (s.ctx < 4 → ∀ pa, Tbl.find? s.cx.held pa = none → s.cx.combAt pa = none → t.lotByte t.cx combView pa = s.memByte pa)
        ∧ (Msg.kind m = 1 → t.gateOf g.toNat = { gt with obs := r })
        ∧ (Msg.kind m ≠ 1 → t.gateOf g.toNat = { gt with state := 1, acts := [], obs := [] }))

/-- R143, R200, R201 and R202: outside a delay slot YIELD completes at once where the selection of its cycle found no other slot ready, and
otherwise its slot gives way for 64 cycles to the others that were; EXIT commits, releases the lot's held commands and marks the lot as ended; TRAP takes TRAP_CALL with its
code. In a delay slot YIELD and EXIT trap ILLEGAL.

Completion (under the conditions on state and operands named, and no others, exec i s = next t with the t described) of yield, exit, trap. -/
def Obligations.GivingWay : Prop := ∀ (s : State) (c : BitVec 16),
  let others := (s.coreOf s.core).ready.filter (· ≠ s.ctx)
  (s.cx.pslots = 0 → s.ctx < 4 → others = [] → exec .yield s = .next s.retired)
  ∧ (s.cx.pslots = 0 → s.ctx < 4 → others ≠ [] → exec .yield s =
      .next (s.setCx { s.cx with yieldTo := some (s.cycle + 64, others) }.advance))
  ∧ (s.cx.pslots = 0 → s.ctx < 4 → let u := s.commitHere.releaseHeld s.core s.ctx
      exec .exit s = .next (u.setCx { u.cx with exited := true, stall := 0 }))
  ∧ exec (.trap c) s = .next (s.takeTrap s.core s.ctx { cause := 20, tcode := c.toNat })
  ∧ (s.cx.pslots ≠ 0 → exec .yield s = .next (s.trapped 1 0) ∧ exec .exit s = .next (s.trapped 1 0))

/-! ## 23: traps and firmware -/

/-- Memory outside the fault record of the context area of a slot's task is as before (R377). -/
def sameButRecord (s t : State) (core slot : Nat) : Prop :=
  ∀ pa, (∀ b, s.slotArea core slot = some b → pa < b + 0x100 ∨ b + 0x180 ≤ pa) → t.memByte pa = s.memByte pa

/-- R374 to R377: a trap of a user slot whose cause is not SEAL_FAIL or one that is resolved within the step stops the slot at its word
with the record of the trap: cause, source, PC, DETAIL, time, and whether the cause is fatal. Where its task has a context area, the record's
STATUS, PC, DETAIL and TIME stand at offset 0x100 of it (R377), and no other memory changes, where the hypervisor is not asked. While a
program runs in the firmware context, which releases the slot with ERET, every such trap stops the slot so, with its task. Where none
runs, the model performs the service of R374 in the step that takes the trap (log 66: its reading): after a fatal trap the slot has no
task; TRAP_CALL 1 and 2 resume after the word, and 1 raises POLGEN. Firmware's own trap halts its context, and nothing of another changes,
but that a pre-emption which firmware had begun ends. -/
def Obligations.TrapEntry : Prop := ∀ (s : State) (core ctx : Nat) (tr : Tr), tr.cause ≠ 9 →
  let c := s.ctxOf core ctx
  let t := s.takeTrap core ctx tr
  (ctx < 4 → (tr.cause = 10 ∨ tr.cause = 14) → let f := (t.ctxOf core ctx).fault
      (t.ctxOf core ctx).stopped = some tr.cause ∧ (t.ctxOf core ctx).pc = c.pc ∧ f.cause = tr.cause ∧ f.src = ctx ∧ f.pc = c.pc ∧ f.detail = tr.detail
        ∧ f.time = s.time ∧ f.fatal = false
        ∧ ((tr.cause = 10 → s.hostMode (s.vfOf core ctx) 7 = false) → sameButRecord s t core ctx
        ∧ ∀ b, s.slotArea core ctx = some b → b + 0x180 ≤ physLimit → t.memNat (b + 0x100) 8 = tr.cause + ctx * 2 ^ 16
          ∧ t.memNat (b + 0x108) 8 = c.pc.toNat ∧ t.memNat (b + 0x118) 8 = tr.detail.toNat ∧ t.memNat (b + 0x128) 8 = s.time % 2 ^ 64))
  ∧ (ctx < 4 → (s.coreOf core).fwProgram = true → let f := (t.ctxOf core ctx).fault
      (t.ctxOf core ctx).stopped = some tr.cause ∧ (t.ctxOf core ctx).pc = c.pc ∧ (t.ctxOf core ctx).task = c.task ∧ f.cause = tr.cause ∧ f.src = ctx
        ∧ f.pc = c.pc ∧ f.detail = tr.detail ∧ f.time = s.time)
  ∧ (ctx < 4 → (s.coreOf core).fwProgram = false → isFatal tr.cause = true → (t.ctxOf core ctx).fault =
      { cause := tr.cause, fatal := true, src := ctx, pc := c.pc, detail := tr.detail, tcode := tr.tcode, time := s.time }
      ∧ (c.task.isSome = true → (t.ctxOf core ctx).task = none))
  ∧ (ctx < 4 → (s.coreOf core).fwProgram = false → tr.cause = 20 → (tr.tcode = 1 ∨ tr.tcode = 2) → (t.ctxOf core ctx).stopped = none ∧ (t.ctxOf core ctx).pc = c.advance.pc
      ∧ (tr.tcode = 1 → Tbl.get t.polgen 0 (s.vfOf core ctx) = (Tbl.get s.polgen 0 (s.vfOf core ctx) + 1) % 2 ^ 32))
  ∧ (ctx = 4 → (t.ctxOf core 4).halted = true ∧ t.errors = s.errors ++ [(33, core)]
      ∧ (∀ j, j ≠ core * 8 + 4 → { Tbl.get t.ctxs {} j with stopping := none } = { Tbl.get s.ctxs {} j with stopping := none }) ∧ SameMemory s t)

/-- R142, R143 and R379: every firmware word traps PRIV in a user slot and ILLEGAL in a delay slot of the firmware context.

R379, the firmware words in the firmware context, outside a delay slot: ERET releases a stopped slot as its action says (0 at the word
that trapped, 1 after it, 2 kills the node, 3 aborts); CTXSV saves a lot whose steps are done and whose word at the boundary has been tried
(R376), freeing its slot, waits otherwise, and answers 0 where the slot holds none; CTXLD answers 1 where the slot is busy; ACCSPILL with
address 0 gives a slab +0.0 and a code, answering the old code, and stores one slab at an address or loads it from there, tile metadata
included (R368), an address that the model takes as a physical one (log 3: its choice); KEYLD answers 1 where the VF has no key; WDOG sets and clears the watchdog of its
core, or of the scheduling or security processor (R387).

R379: CTXLD brings a saved context that an area holds back into a free slot whose windows fit, where every tile it reads verifies: the
slot holds the task again, with the registers and the PC that the area's bytes give, and rd is 0. Where these bytes stand in the area, but
for the places R325, R377 and R382 name, is the model's choice (log 28).

Completion (under the conditions on state and operands named, and no others, exec i s = next t with the t described) of ctxsv, ctxld,
accspill, keyld, wdog, eret. -/
def Obligations.FirmwareInstructions : Prop :=
  (∀ (s : State) (d a b : BitVec 5), ∀ i ∈ [Instr.eret a b, .ctxsv d a b, .ctxld d a b, .accspill d a b, .keyld d a b, .wdog a],
    (s.ctx ≠ 4 → exec i s = .next (s.trapped 2 0)) ∧ (s.ctx = 4 → s.cx.pslots ≠ 0 → exec i s = .next (s.trapped 1 0)))
  ∧ (∀ (s : State) (d a b : BitVec 5),
    let x := (s.cx.sreg a.toNat).toNat
    let y := (s.cx.sreg b.toNat).toNat
    let slab := x % 2048
    let code := x / 2 ^ 16 % 8
    let cs := s.ctxOf s.core x
    let saves := s.stepsDone s.core x = true
      ∧ (cs.stopping = some .tried ∨ cs.stopped.isSome = true ∨ cs.exited = true ∨ s.slotRuns s.core x = false)
    let codeOk := x < 2 ^ 21 ∧ x / 2 ^ 11 % 32 = 0 ∧ x / 2 ^ 19 % 2 = 0 ∧ code ≠ 6
    s.ctx = 4 → s.cx.pslots = 0 →
    (x < 4 → y < 4 → (s.ctxOf s.core x).stopped.isSome = true → exec (.eret a b) s = .next ((s.returnTrap s.core x y).retired))
    ∧ (x < 4 → y % 65536 = 0 → (s.ctxOf s.core x).task = none → exec (.ctxsv d a b) s = .next (s.wrote d 0))
    ∧ (x < 4 → y % 65536 = 0 → cs.task.isSome = true → cs.stopping ≠ some .held → cs.endNow = false → saves →
        ∃ t, exec (.ctxsv d a b) s = .next t
        ∧ (t.ctxOf s.core x).task = none ∧ t.cx.pc = s.cx.advance.pc
        ∧ ∀ k, (s.ctxOf s.core x).task = some k → (t.taskOf k).state = .saved ∧ (t.taskOf k).areaAt = some y)
    ∧ (x < 4 → y % 65536 = 0 → cs.task.isSome = true → cs.stopping ≠ some .held → cs.endNow = false → ¬saves →
        exec (.ctxsv d a b) s = .next (s.setCtx s.core x { cs with stopping := some (cs.stopping.getD .ctxsv) }))
    ∧ (x < 4 → y % 65536 = 0 → cs.task.isSome = true → cs.stopping = some .held ∨ cs.endNow = true → exec (.ctxsv d a b) s = .next s)
    ∧ (x < 4 → y % 65536 = 0 → (s.ctxOf s.core x).task.isSome = true → exec (.ctxld d a b) s = .next (s.wrote d 1))
    ∧ (codeOk → y = 0 → s.passWrites s.core slab = false → ∃ t, exec (.accspill d a b) s = .next t ∧ t.accCode s.core slab = code
        ∧ t.cx = (s.cx.setS d.toNat (BitVec.ofNat 64 (s.accCode s.core slab))).advance ∧ SameMemory s t
        ∧ (x / 2 ^ 20 % 2 = 1 → ∀ e < 1024, t.cElem s.core (slab * 4096 + 4 * e) = 0)
        ∧ (x / 2 ^ 20 % 2 = 0 → t.cbuf = s.cbuf))
    ∧ (codeOk → y ≠ 0 → y % 4096 = 0 → y < 2 ^ 41 → metaTile y = none → x / 2 ^ 20 % 2 = 1 → s.passWrites s.core slab = false →
        s.accessCheck 0 y 4096 (s.cx.sreg b.toNat) = .ok () → ∃ t, exec (.accspill d a b) s = .next t ∧ t.accCode s.core slab = code
        ∧ SameMemory s t ∧ ∀ e < 1024, t.cElem s.core (slab * 4096 + 4 * e) = BitVec.ofNat 32 (leNat (fun i => s.memByte (y + 4 * e + i)) 4))
    ∧ (codeOk → y ≠ 0 → y % 4096 = 0 → y < 2 ^ 41 → metaTile y = none → x / 2 ^ 20 % 2 = 0 → s.passWrites s.core slab = false → ∃ t, exec (.accspill d a b) s = .next t
        ∧ t.accCode s.core slab = code ∧ t.cbuf = s.cbuf
        ∧ (∀ e < 1024, ∀ i < 4, t.memByte (y + 4 * e + i) = BitVec.ofNat 8 ((s.cElem s.core (slab * 4096 + 4 * e)).toNat / 256 ^ i))
        ∧ (∀ pa, pa < y ∨ y + 4096 ≤ pa → t.memByte pa = s.memByte pa))
    ∧ (codeOk → y ≠ 0 → y % 4096 = 0 → y < 2 ^ 41 → (metaTile y).isSome = true → s.passWrites s.core slab = false → ∃ t, exec (.accspill d a b) s = .next t
        ∧ t.accCode s.core slab = code
        ∧ (x / 2 ^ 20 % 2 = 1 → t.tiles = s.tiles ∧ ∀ e < 1024, t.cElem s.core (slab * 4096 + 4 * e) = BitVec.ofNat 32 (s.metaRead y 4096 / 2 ^ (32 * e)))
        ∧ (x / 2 ^ 20 % 2 = 0 → t.cbuf = s.cbuf
            ∧ t.tiles = (s.metaWrite y 4096 ((s.slabData s.core slab).foldr (fun v n => v.toNat + 2 ^ 32 * n) 0)).tiles))
    ∧ (x < 4 → 1 ≤ y → y ≤ 64 → (Tbl.get s.princeKey (0, true) y).2 = false → exec (.keyld d a b) s = .next (s.wrote d 1))
    ∧ (x < 4 → 1 ≤ y → y ≤ 64 → (Tbl.get s.princeKey (0, true) y).2 = true → ∃ t, exec (.keyld d a b) s = .next t
        ∧ Tbl.get (t.coreOf s.core).keys (0, 0) x = (y, (Tbl.get s.princeKey (0, true) y).1) ∧ t.cx = (s.cx.setS d.toNat 0).advance)
    ∧ (x < 2 ^ 32 → 32 ≤ s.core → exec (.wdog a) s =
        .next (State.retired { s with wdogs := if x = 0 then Tbl.del s.wdogs s.core else Tbl.set s.wdogs s.core (s.time + x) }))
    ∧ (x < 2 ^ 32 → s.core < 32 → exec (.wdog a) s = .next ((s.setCore s.core { s.coreOf s.core with wdogAt := if x = 0 then none else some (s.time + x) }).retired)))
  ∧ (∀ (s : State) (d a b : BitVec 5) (k : Nat) (w : Nat × Nat),
    let x := (s.cx.sreg a.toNat).toNat
    let y := (s.cx.sreg b.toNat).toNat
    let nd := s.nodeOf (s.taskOf k).node
    s.ctx = 4 → s.cx.pslots = 0 → x < 4 → y % 65536 = 0 → (s.ctxOf s.core x).task = none → s.taskInArea y = some k →
    s.areaBad y (s.readArea k) = none → s.placeWindows s.core x (nd.agran * 65536) nd.wrows = some w →
    ∃ t, exec (.ctxld d a b) s = .next t ∧ (t.ctxOf s.core x).task = some k ∧ t.cx.sreg d.toNat = 0 ∧ t.cx.pc = s.cx.advance.pc
      ∧ ((s.readArea k).deliver = [] → (t.ctxOf s.core x).pc = (s.readArea k).ctx.pc
          ∧ ∀ r, (t.ctxOf s.core x).sreg r = (s.readArea k).ctx.sreg r))

/-! ## 11 and 12: vector words -/

/-- What a vector word of the acting engine needs to issue (R151, R219, R221, R223): no prefix that skips it, no push of its own waiting,
channel operands with slots that hold their bytes, sources that ask no ring for more slots than it has, and every source slot filled. -/
def vecGo (s : State) (srcs : List Opnd) (dst : List Opnd) : Prop :=
  let c := s.ctxOf s.core s.eng
  s.eng < 4 ∧ s.runHere.vflIssues = true ∧ s.runHere.pend = none ∧ (∀ o ∈ srcs ++ dst, o.slotOk c = true)
    ∧ srcsBeyond c srcs = false ∧ srcsFull c srcs = true

/-- Element i of a source: of its register, or of the slot at HEAD, beyond the pops of earlier sources. -/
def srcElem (s : State) (srcs : List Opnd) (k z i : Nat) : Nat := elemAt (((srcSlots [] srcs).map s.srcContent).getD k 0) z i

/-- The active elements of a word (R219): the first LEN with their bit of the predicate, where p0 is all ones. -/
def activeAt (s : State) (g : BitVec 3) (i : Nat) : Bool := g == 0 || (Tbl.get s.vHere.p 0 g.toNat).getLsbD i

/-- The context after a word has taken its sources: its pops are made, and of its rings only the marks that the vector engine has not met
may have changed beside, with what it has read of memory (R94). -/
def tookSources (s : State) (srcs : List Opnd) (c : Ctx) : Prop :=
  c = (s.takeSources srcs).ctxOf s.core s.eng
  ∧ ∀ i, { c.ring i with vmarks := [] } = { (popRings (s.ctxOf s.core s.eng) srcs).ring i with vmarks := [] }

/-- What a vector word leaves of elements of z bytes in its destination, whose n elements P describes (the first with its old value): in a
register the elements P describes and every byte above them as before, with every other register and predicate; in a channel with a free
slot the slot at CLAIM, claimed and written, whose fill lands with the cycle; without a free slot the word keeps its bytes and waits. The
word is done, its pops are made, and no byte of memory changes. -/
def vecLeaves (s t : State) (srcs : List Opnd) (d : BitVec 7) (n z : Nat) (P : Nat → Nat → Nat → Prop) : Prop :=
  let c := (s.takeSources srcs).ctxOf s.core s.eng
  let v := s.vHere
  let w := t.vecOf s.core s.eng
  let k := d.toNat % 64
  let r := c.ring k
  SameMemory s t ∧ tookSources s srcs c
  ∧ (d.getLsbD 6 = false → t.ctxOf s.core s.eng = c ∧ w.p = v.p ∧ w.vshape = v.vshape ∧ (∀ j, j ≠ k → w.reg j = v.reg j)
      ∧ (∀ i < n, i * z + z ≤ 1024 → P i (elemAt (v.reg k) z i) (elemAt (w.reg k) z i))
      ∧ (∀ b, n * z ≤ b → getBytes (w.reg k) b 1 = getBytes (v.reg k) b 1)
      ∧ ∃ u, (t.engOf s.core s.eng).run = some u ∧ u.upc = s.runHere.upc + 1)
  ∧ (d.getLsbD 6 = true → r.free ≠ 0 → w = v ∧ ((t.ctxOf s.core s.eng).ring k).claim = r.claim + 1
      ∧ ((t.ctxOf s.core s.eng).ring k).head = r.head ∧ t.landing = s.landing ++ [.fill s.core s.eng k r.claim.toNat] ∧ (∃ u, (t.engOf s.core s.eng).run = some u ∧ u.upc = s.runHere.upc + 1)
      ∧ (n * z ≤ 1024 → ∀ i < n, ∃ x, P i 0 x ∧ ∀ j < z, t.aByte s.core s.eng (r.slotAt r.claim.toNat + i * z + j) = BitVec.ofNat 8 (x / 256 ^ j)))
  ∧ (d.getLsbD 6 = true → r.free = 0 → w = v ∧ t.ctxOf s.core s.eng = c ∧ ∃ u, (t.engOf s.core s.eng).run = some u ∧ u.upc = s.runHere.upc ∧ u.pend.isSome = true)

/-- An element-wise result: the value where the element is active, the old element (in a slot zero bits) where it is not. -/
def onActive (s : State) (g : BitVec 3) (z : Nat) (f : Nat → Nat → Nat → Prop) (i old new : Nat) : Prop :=
  if activeAt s g i then ∃ x, f i old x ∧ new = x % 256 ^ z else new = old

/-- R219, R221, R224, R226 and R227, for register and channel operands alike: each element-wise word of two sources that can issue, on a
type that its row allows, completes and leaves in its destination: on integer types the wrapped, saturated, upper-half, minimum or maximum
value of the exact result, on floating types the value rounded by the bound mode (with some state of the generator), the bitwise
results, the shifts by the low six bits of b, the hash of R227.

Completion (under the conditions on state and operands named, and no others, exec i s = next t with the t described) of vadd, vsub, vmul,
vadds, vsubs, vmulh, vmin, vmax, vfma, vand, vor, vxor, vshl, vshr, vhash. -/
def Obligations.VectorArithmetic : Prop := ∀ (s : State) (d a b : BitVec 7) (x y : BitVec 1) (g : BitVec 3),
  let z := s.vZ
  let n := s.vN
  let T := s.vT
  let srcs := [opnd a x (n * z), opnd b y (n * z)]
  let A (i : Nat) := srcElem s srcs 0 z i
  let B (i : Nat) := srcElem s srcs 1 z i
  let gives (i : Instr) (f : Nat → Nat → Nat → Prop) : Prop := ∃ t, exec i s = .next t ∧ vecLeaves s t srcs d n z (onActive s g z f)
  let int (f : Int → Int → Int) (i _old v : Nat) : Prop := v = wrapTo T (f (intOf T (A i)) (intOf T (B i)))
  vecGo s srcs [opnd d 0 (n * z)] →
  (isInt T = true → gives (.vadd d a b x y g) (int (· + ·)) ∧ gives (.vsub d a b x y g) (int (· - ·)) ∧ gives (.vmul d a b x y g) (int (· * ·))
    ∧ gives (.vadds d a b x y g) (fun i _ v => v = satTo T (intOf T (A i) + intOf T (B i)))
    ∧ gives (.vsubs d a b x y g) (fun i _ v => v = satTo T (intOf T (A i) - intOf T (B i)))
    ∧ gives (.vmulh d a b x y g) (fun i _ v => v = wrapTo T (intOf T (A i) * intOf T (B i) / 2 ^ typeBits T))
    ∧ gives (.vmin d a b x y g) (fun i _ v => v = if intOf T (A i) ≤ intOf T (B i) then A i else B i)
    ∧ gives (.vmax d a b x y g) (fun i _ v => v = if intOf T (A i) ≤ intOf T (B i) then B i else A i)
    ∧ (d.getLsbD 6 = false → gives (.vfma d a b x y g) (fun i old v => v = wrapTo T (intOf T (A i) * intOf T (B i) + intOf T old))))
  ∧ (∀ fm, typeFmt T = some fm →
    gives (.vadd d a b x y g) (fun i _ v => ∃ k, v = (fm.round (Machine.Num.add s.vRm (fm.decode (A i)) (fm.decode (B i))) s.vRm k).1)
    ∧ gives (.vsub d a b x y g) (fun i _ v => ∃ k, v = (fm.round (Machine.Num.add s.vRm (fm.decode (A i)) (fm.decode (B i)).neg) s.vRm k).1)
    ∧ gives (.vmul d a b x y g) (fun i _ v => ∃ k, v = (fm.round (Machine.Num.mul (fm.decode (A i)) (fm.decode (B i))) s.vRm k).1)
    ∧ gives (.vmin d a b x y g) (fun i _ v => v = fm.rne (Machine.Num.minMax true (fm.decode (A i)) (fm.decode (B i))))
    ∧ gives (.vmax d a b x y g) (fun i _ v => v = fm.rne (Machine.Num.minMax false (fm.decode (A i)) (fm.decode (B i))))
    ∧ (d.getLsbD 6 = false → gives (.vfma d a b x y g) (fun i old v =>
        ∃ k, v = (fm.round (Machine.Num.fma s.vRm (fm.decode (A i)) (fm.decode (B i)) (fm.decode old)) s.vRm k).1)))
  ∧ gives (.vand d a b x y g) (fun i _ v => v = A i &&& B i) ∧ gives (.vor d a b x y g) (fun i _ v => v = A i ||| B i)
  ∧ gives (.vxor d a b x y g) (fun i _ v => v = A i ^^^ B i)
  ∧ gives (.vshl d a b x y g) (fun i _ v => v = if typeBits T ≤ B i % 64 then 0 else A i * 2 ^ (B i % 64) % 2 ^ typeBits T)
  ∧ gives (.vshr d a b x y g) (fun i _ v => v = if typeSigned T then wrapTo T (intOf T (A i) / 2 ^ (B i % 64)) else A i / 2 ^ (B i % 64))
  ∧ (T = 2 ∨ T = 5 → gives (.vhash d a b x y g) (fun i _ v => v = A i * B i / 2 ^ 32 ^^^ A i * B i % 2 ^ 32))

/-- R219, R225, R228, R229 and R241: the one-source words, the immediate forms, VSPLAT, VSEL and VPERM that can issue, on a type that their row
allows, complete with the results of their rows; VABS and VNEG clear and invert the sign, with wrap on integers and the canonical NaN for
NaNs; VPERM takes element b of a, or 0 beyond LEN; VSEL takes a or b by the predicate for every element.

R228 and R243: a compare or a predicate operation that can issue, whose destination is not p0, completes: bit i of the destination holds
the test of element i where i is active, and every other bit of it is 0; no other predicate and no vector register changes.

Completion (under the conditions on state and operands named, and no others, exec i s = next t with the t described) of vmov, exp2, log2,
rcp, rsq, vabs, vneg, vclz, vpopc, vaddi, vmuli, vmini, vmaxi, vsplat, vandi, vori, vxori, vshli, vshri, vperm, vsel, vceq, vcne, vclt,
vcle, vcgt, vcge, vplog. -/
def Obligations.VectorSinglesAndPredicates : Prop :=
  (∀ (s : State) (d a b : BitVec 7) (x y : BitVec 1) (g : BitVec 3) (m : BitVec 9),
    let z := s.vZ
    let n := s.vN
    let T := s.vT
    let one := [opnd a x (n * z)]
    let imm := [opnd a 0 (n * z)]
    let two := [opnd a x (n * z), opnd b y (n * z)]
    let A (i : Nat) := srcElem s one 0 z i
    let I (i : Nat) := srcElem s imm 0 z i
    let A2 (i : Nat) := srcElem s two 0 z i
    let B2 (i : Nat) := srcElem s two 1 z i
    let gives (srcs : List Opnd) (i : Instr) (f : Nat → Nat → Prop) : Prop :=
      vecGo s srcs [opnd d 0 (n * z)] → ∃ t, exec i s = .next t ∧ vecLeaves s t srcs d n z (onActive s g z (fun i _ v => f i v))
    let k (t : BitVec 9) : Int := t.toInt
    gives one (.vmov d a x g) (fun i v => v = A i)
    ∧ (isFloat T = true → gives one (.exp2 d a x g) (fun i v => v = transcendental 0 T (A i)) ∧ gives one (.log2 d a x g) (fun i v => v = transcendental 1 T (A i))
        ∧ gives one (.rcp d a x g) (fun i v => v = transcendental 2 T (A i)) ∧ gives one (.rsq d a x g) (fun i v => v = transcendental 3 T (A i)))
    ∧ (isInt T = true → typeSigned T = true → gives one (.vabs d a x g) (fun i v => v = wrapTo T ((intOf T (A i)).natAbs : Int))
        ∧ gives one (.vneg d a x g) (fun i v => v = wrapTo T (-intOf T (A i))))
    ∧ (∀ fm, typeFmt T = some fm →
        gives one (.vabs d a x g) (fun i v => v = if (fm.decode (A i)).isNaN then fm.canonNaN else A i % 2 ^ (fm.width - 1))
        ∧ gives one (.vneg d a x g) (fun i v => v = if (fm.decode (A i)).isNaN then fm.canonNaN else A i ^^^ 2 ^ (fm.width - 1)))
    ∧ (isInt T = true → gives one (.vclz d a x g) (fun i v => v ≤ typeBits T ∧ (A i < 2 ^ typeBits T → A i < 2 ^ (typeBits T - v) ∧ (v < typeBits T → 2 ^ (typeBits T - v - 1) ≤ A i)))
        ∧ gives one (.vpopc d a x g) (fun i v => v = (List.range (typeBits T)).countP fun j => (A i).testBit j)
        ∧ gives imm (.vaddi d a m g) (fun i v => v = wrapTo T (intOf T (I i) + intOf T (wrapTo T (k m))))
        ∧ gives imm (.vmuli d a m g) (fun i v => v = wrapTo T (intOf T (I i) * intOf T (wrapTo T (k m))))
        ∧ gives imm (.vmini d a m g) (fun i v => v = if intOf T (I i) ≤ intOf T (wrapTo T (k m)) then I i else wrapTo T (k m))
        ∧ gives imm (.vmaxi d a m g) (fun i v => v = if intOf T (I i) ≤ intOf T (wrapTo T (k m)) then wrapTo T (k m) else I i)
        ∧ gives [] (.vsplat d m g) (fun _ v => v = wrapTo T (k m)))
    ∧ (∀ fm, typeFmt T = some fm → let q := fm.rne (.ofInt (k m) 0)
        gives imm (.vaddi d a m g) (fun i v => ∃ r, v = (fm.round (Machine.Num.add s.vRm (fm.decode (I i)) (fm.decode q)) s.vRm r).1)
        ∧ gives imm (.vmuli d a m g) (fun i v => ∃ r, v = (fm.round (Machine.Num.mul (fm.decode (I i)) (fm.decode q)) s.vRm r).1)
        ∧ gives imm (.vmini d a m g) (fun i v => v = fm.rne (Machine.Num.minMax true (fm.decode (I i)) (fm.decode q)))
        ∧ gives imm (.vmaxi d a m g) (fun i v => v = fm.rne (Machine.Num.minMax false (fm.decode (I i)) (fm.decode q)))
        ∧ gives [] (.vsplat d m g) (fun _ v => v = q))
    ∧ gives imm (.vandi d a m g) (fun i v => v = I i &&& m.toNat % 2 ^ typeBits T) ∧ gives imm (.vori d a m g) (fun i v => v = I i ||| m.toNat % 2 ^ typeBits T)
    ∧ gives imm (.vxori d a m g) (fun i v => v = I i ^^^ m.toNat % 2 ^ typeBits T)
    ∧ (m.toNat ≤ 31 → gives imm (.vshli d a m g) (fun i v => v = if typeBits T ≤ m.toNat then 0 else I i * 2 ^ m.toNat % 2 ^ typeBits T)
        ∧ gives imm (.vshri d a m g) (fun i v => v = if typeSigned T then wrapTo T (intOf T (I i) / 2 ^ m.toNat) else I i / 2 ^ m.toNat))
    ∧ gives two (.vperm d a b x y g) (fun i v => v = if B2 i < n then A2 (B2 i) else 0)
    ∧ (vecGo s two [opnd d 0 (n * z)] → ∃ t, exec (.vsel d a b x y g) s = .next t
        ∧ vecLeaves s t two d n z (fun i _ v => v = if activeAt s g i then A2 i else B2 i)))
  ∧ (∀ (s : State) (d p q g : BitVec 3) (a b : BitVec 7) (x y : BitVec 1),
    let z := s.vZ
    let n := s.vN
    let T := s.vT
    let srcs := [opnd a x (n * z), opnd b y (n * z)]
    let A (i : Nat) := elemNum T (srcElem s srcs 0 z i)
    let B (i : Nat) := elemNum T (srcElem s srcs 1 z i)
    let pb (r : BitVec 3) (i : Nat) : Bool := activeAt s r i
    let sets (l : List Opnd) (i : Instr) (f : Nat → Bool) : Prop := ∃ t, exec i s = .next t ∧ SameMemory s t
      ∧ tookSources s l (t.ctxOf s.core s.eng) ∧ (t.vecOf s.core s.eng).v = s.vHere.v
      ∧ (∀ j < 1024, (Tbl.get (t.vecOf s.core s.eng).p 0 d.toNat).getLsbD j = (decide (j < n) && activeAt s g j && f j))
      ∧ (∀ r, r ≠ d.toNat → Tbl.get (t.vecOf s.core s.eng).p 0 r = Tbl.get s.vHere.p 0 r)
      ∧ ∃ u, (t.engOf s.core s.eng).run = some u ∧ u.upc = s.runHere.upc + 1
    d ≠ 0 →
    (vecGo s srcs [] → sets srcs (.vceq d a b x y g) (fun i => Machine.Num.eq (A i) (B i)) ∧ sets srcs (.vcne d a b x y g) (fun i => !Machine.Num.eq (A i) (B i))
      ∧ sets srcs (.vclt d a b x y g) (fun i => Machine.Num.lt (A i) (B i)) ∧ sets srcs (.vcle d a b x y g) (fun i => Machine.Num.lt (A i) (B i) || Machine.Num.eq (A i) (B i))
      ∧ sets srcs (.vcgt d a b x y g) (fun i => Machine.Num.lt (B i) (A i)) ∧ sets srcs (.vcge d a b x y g) (fun i => Machine.Num.lt (B i) (A i) || Machine.Num.eq (A i) (B i)))
    ∧ (vecGo s [] [] → sets [] (.vplog d p 0 q g) (fun i => pb p i && pb q i) ∧ sets [] (.vplog d p 1 q g) (fun i => pb p i || pb q i)
      ∧ sets [] (.vplog d p 2 q g) (fun i => pb p i != pb q i) ∧ sets [] (.vplog d p 3 q g) (fun i => pb p i && !pb q i)
      ∧ sets [] (.vplog d p 4 0 g) (fun i => !pb p i)))

/-- One step of a fold on values of the bound type (R242): 0 ADD, wrapped or rounded by the bound mode with some state of the generator, 1
MIN, 2 MAX, 3 AND, 4 OR, 5 XOR. -/
def foldsTo (s : State) (p acc a v : Nat) : Prop :=
  match p with
  | 0 => match typeFmt s.vT with
    | none => v = wrapTo s.vT (intOf s.vT acc + intOf s.vT a)
    | some fm => ∃ r, v = (fm.round (Machine.Num.add s.vRm (fm.decode acc) (fm.decode a)) s.vRm r).1
  | 1 => match typeFmt s.vT with
    | none => v = if intOf s.vT acc ≤ intOf s.vT a then acc else a
    | some fm => v = fm.rne (Machine.Num.minMax true (fm.decode acc) (fm.decode a))
  | 2 => match typeFmt s.vT with
    | none => v = if intOf s.vT acc ≤ intOf s.vT a then a else acc
    | some fm => v = fm.rne (Machine.Num.minMax false (fm.decode acc) (fm.decode a))
  | 3 => v = acc &&& a
  | 4 => v = acc ||| a
  | _ => v = acc ^^^ a
/-- The running values of a fold over a list: the first element, then a step for each later one. -/
def foldsOver (s : State) (p : Nat) (l : List Nat) (run : Nat → Nat) : Prop :=
  run 0 = l.getD 0 0 ∧ ∀ k, k + 1 < l.length → foldsTo s p (run k) (l.getD (k + 1) 0) (run (k + 1))
/-- The identity that a fold of no element gives (R242). -/
def foldNone (T p : Nat) : Nat :=
  match p with
  | 1 => match typeFmt T with
    | none => wrapTo T (typeMax T)
    | some fm => fm.infPat false
  | 2 => match typeFmt T with
    | none => wrapTo T (typeMin T)
    | some fm => fm.infPat true
  | 3 => 2 ^ typeBits T - 1
  | _ => 0

/-- R230 to R232, R241 and R242: the conversions, shuffles, reductions and scans that can issue complete. VCVT gives each active element
converted to the destination type by the word's mode; VQNT and VDQ encode and decode the Q4 blocks, VDQ exactly; VSHUF takes the element its kind
names; VRED puts the fold of the active elements, in ascending order and by each of the six operations, into element 0 and leaves the others
of a register and clears those of a slot, and the identity where none is active; VSCAN puts the running fold into each active element.

Completion (under the conditions on state and operands named, and no others, exec i s = next t with the t described) of vcvt, vqnt, vdq,
vshuf, vred, vscan. -/
def Obligations.VectorConversions : Prop := ∀ (s : State) (d a b : BitVec 7) (d6 h : BitVec 6) (x y : BitVec 1) (g p : BitVec 3) (m : BitVec 3) (ty : BitVec 4) (q : BitVec 2),
  let z := s.vZ
  let n := s.vN
  let T := s.vT
  let zd := typeBits ty.toNat / 8
  let one := [opnd a x (n * z)]
  let peek := [opnd a 0 (n * z)]
  let codes := [opnd a x (n / 2), opnd b y (512 + n / 32)]
  let A (i : Nat) := srcElem s one 0 z i
  let reg : BitVec 7 := d6.zeroExtend 7
  let D (i : Nat) := elemAt (s.vHere.reg d6.toNat) z i
  let act := (List.range n).filter fun i => activeAt s g i
  let int := isInt T = true
  let fold (l : List Nat) : Int := match p.toNat with
    | 0 => (l.map fun i => intOf T (A i)).sum
    | 1 => (l.map fun i => intOf T (A i)).foldl min (typeMax T)
    | _ => (l.map fun i => intOf T (A i)).foldl max (typeMin T)
  (m.toNat ≤ 4 → ty.toNat ≤ 10 → n * zd ≤ 1024 → vecGo s one [opnd d 0 (n * zd)] → ∃ t, exec (.vcvt d a m ty x g) s = .next t
      ∧ vecLeaves s t one d n zd (onActive s g zd (fun i _ v => ∃ k, v = (convert T ty.toNat (A i) m.toNat k).1)))
  ∧ ((T = 7 ∨ T = 8) → n % 32 = 0 → n ≤ 1024 → m.toNat ≤ 4 → vecGo s one [opnd d 0 (512 + n / 32)] → ∃ t, exec (.vqnt d a m q x g) s = .next t ∧ SameMemory s t
      ∧ (d.getLsbD 6 = true → let c := (s.takeSources one).ctxOf s.core s.eng
          let r := c.ring (d.toNat % 64)
          let at' (i : Nat) := t.aByte s.core s.eng (r.slotAt r.claim.toNat + i)
          r.free ≠ 0 → ((t.ctxOf s.core s.eng).ring (d.toNat % 64)).claim = r.claim + 1
            ∧ t.landing = s.landing ++ [.fill s.core s.eng (d.toNat % 64) r.claim.toNat] ∧ t.vecOf s.core s.eng = s.vHere
            ∧ ∀ j < n / 32, (activeAt s g (32 * j) = false → at' (512 + j) = 0 ∧ ∀ i < 16, at' (16 * j + i) = 0)
              ∧ (activeAt s g (32 * j) = true → ∃ k, let e := q4encode ((List.range 32).map fun i => elemNum T (A (32 * j + i))) q.toNat m.toNat k
                at' (512 + j) = BitVec.ofNat 8 e.2.1
                  ∧ ∀ i < 16, at' (16 * j + i) = BitVec.ofNat 8 (e.1.getD (2 * i) 0 % 16 + 16 * (e.1.getD (2 * i + 1) 0 % 16))))
      ∧ (d.getLsbD 6 = false → ∀ j < n / 32, activeAt s g (32 * j) = true → ∃ k, let e := q4encode ((List.range 32).map fun i => elemNum T (A (32 * j + i))) q.toNat m.toNat k
          let w := (t.vecOf s.core s.eng).reg d.toNat
          getBytes w (512 + j) 1 = e.2.1 % 256 ∧ ∀ i < 32, w / 16 ^ (32 * j + i) % 16 = e.1.getD i 0 % 16))
  ∧ ((T = 7 ∨ T = 8) → n % 32 = 0 → vecGo s codes [opnd d 0 (n * z)] → ∃ t, exec (.vdq d a b x y g) s = .next t
      ∧ vecLeaves s t codes d n z (onActive s g z (fun i _ v => ∃ f, typeFmt T = some f
          ∧ v = f.rne (q4num (getBytes (((srcSlots [] codes).map s.srcContent).getD 1 0) (512 + i / 32) 1) (((srcSlots [] codes).map s.srcContent).getD 0 0 / 16 ^ i % 16)))))
  ∧ (∀ k : BitVec 3, k.toNat ≤ 5 → (4 ≤ k.toNat ∨ n % 2 = 0) → (k.toNat = 4 ∨ h = 0) → vecGo s peek [] → ∃ t, exec (.vshuf d6 a k h g) s = .next t
      ∧ vecLeaves s t peek reg n z (onActive s g z (fun i _ v => v =
          let P (j : Nat) := srcElem s peek 0 z j
          if k.toNat = 0 then (if i % 2 = 0 then P (i / 2) else D (i / 2))
          else if k.toNat = 1 then (if i % 2 = 0 then P (n / 2 + i / 2) else D (n / 2 + i / 2))
          else if k.toNat = 2 then (if i < n / 2 then P (2 * i) else D (2 * i - n))
          else if k.toNat = 3 then (if i < n / 2 then P (2 * i + 1) else D (2 * i + 1 - n))
          else if k.toNat = 4 then P ((i + h.toNat) % n)
          else P (n - 1 - i))))
  ∧ (p.toNat ≤ 2 → int → vecGo s one [opnd d 0 (n * z)] → d.getLsbD 6 = false → 0 < n → n * z ≤ 1024 → ∃ t, exec (.vred d a p x g) s = .next t ∧ SameMemory s t
      ∧ elemAt ((t.vecOf s.core s.eng).reg d.toNat) z 0 = wrapTo T (fold act)
      ∧ ∀ i, 0 < i → elemAt ((t.vecOf s.core s.eng).reg d.toNat) z i = elemAt (s.vHere.reg d.toNat) z i)
  ∧ (p.toNat ≤ 5 → n ≤ 1024 → vecGo s one [opnd d 0 (n * z)] → ∃ t run, exec (.vred d a p x g) s = .next t ∧ foldsOver s p.toNat (act.map A) run
      ∧ vecLeaves s t one d n z (fun i old v =>
          v = if i = 0 then (if act = [] then foldNone T p.toNat else run (act.length - 1)) % 256 ^ z else old))
  ∧ (p.toNat ≤ 5 → n ≤ 1024 → vecGo s one [opnd d 0 (n * z)] → ∃ t run, exec (.vscan d a p x g) s = .next t ∧ foldsOver s p.toNat (act.map A) run
      ∧ vecLeaves s t one d n z (onActive s g z (fun i _ v => v = run (act.filter (· < i)).length)))
  ∧ (p.toNat ≤ 2 → int → vecGo s one [opnd d 0 (n * z)] → ∃ t, exec (.vscan d a p x g) s = .next t
      ∧ vecLeaves s t one d n z (onActive s g z (fun i _ v => v % 256 ^ z = wrapTo T (fold (act.filter (· ≤ i))))))

/-- R235 and R236, VLDA, VSTA, VLDC, VLDC.NOWAIT and VSTC: a run that starts at a multiple of 64 bytes and ends within its window, on C whose
slabs are the slot's and, where the word waits, have no write pending, completes: a load leaves the run's elements in its destination, a
store writes its active elements and no other byte of the window; VLDC.NOWAIT, which does not wait, sets f0 to whether writes are pending.

R238 to R240, VGATH, VSCAT and VATOM on normal memory: where every active element's address translates, without a remote window, and its
checks pass, the word completes: a gather leaves the lot view of each active element in its destination, a register or the slot it claims;
a scatter to distinct elements holds each in the commit buffer, and, where its source is a register, changes the lot view of no other
byte; a near atomic leaves memory as it is and answers each lane's lot view, which then holds the operation's result by the table of R205,
where no combine of the same operation was pending on the lane, and no other byte's lot view changes; a far one performs at the home
slice and answers what stood there. The lot view is that of the vector engine, which has its own reads of the phase (R87).

Completion (under the conditions on state and operands named, and no others, exec i s = next t with the t described) of vlda, vsta, vldc,
vldcNowait, vstc, vgath, vscat, vatom. -/
def Obligations.VectorMemory : Prop :=
  (∀ (s : State) (d a : BitVec 7) (b : BitVec 6) (o : BitVec 7) (x : BitVec 1) (g : BitVec 3) (p : Nat),
    let z := s.vZ
    let n := s.vN
    let src := [opnd a x (n * z)]
    let c := s.ctxOf s.core s.eng
    let w := ((srcSlots [] src).map s.srcContent).getD 0 0
    let js := slabsOf p (n * z)
    let own := ∀ j ∈ js, Tbl.get s.accown 7 (s.core * 2048 + j) = s.eng
    let cAt (t : State) (q : Nat) : Nat := (Tbl.get t.cbuf 0 (s.core * 2 ^ 21 + q / 4)).toNat / 256 ^ (q % 4) % 256
    let cElems (i : Nat) := leNat (fun k => BitVec.ofNat 8 (cAt s (p + i * z + k))) z
    (p : Int) = (getBytes (s.vHere.reg b.toNat) 0 4 : Int) + 64 * o.toInt → p % 64 = 0 → 0 < n * z → n * z ≤ 1024 →
    (p + n * z ≤ c.asize → vecGo s [] [opnd d 0 (n * z)] → ∃ t, exec (.vlda d b o g) s = .next t
        ∧ vecLeaves s t [] d n z (onActive s g z (fun i _ v => v = leNat (fun k => s.aByte s.core s.eng (p + i * z + k)) z)))
    ∧ (p + n * z ≤ c.asize → c.asize ≤ 2 ^ 24 → vecGo s src [] → ∃ t, exec (.vsta b a o x g) s = .next t ∧ SameMemory s t ∧ t.cbuf = s.cbuf
        ∧ (∀ i < n, ∀ k < z, t.aByte s.core s.eng (p + i * z + k) =
            if activeAt s g i then BitVec.ofNat 8 (elemAt w z i / 256 ^ k) else s.aByte s.core s.eng (p + i * z + k))
        ∧ (∀ q < 2 ^ 24, q < p ∨ p + n * z ≤ q → t.aByte s.core s.eng q = s.aByte s.core s.eng q))
    ∧ (p + n * z ≤ 2 ^ 23 → own → s.vPending js = false → vecGo s [] [opnd d 0 (n * z)] → ∃ t, exec (.vldc d b o g) s = .next t
        ∧ vecLeaves s t [] d n z (onActive s g z (fun i _ v => v = cElems i)))
    ∧ (p + n * z ≤ 2 ^ 23 → own → s.vPending js = true → vecGo s [] [opnd d 0 (n * z)] → exec (.vldc d b o g) s = .next s)
    ∧ (p + n * z ≤ 2 ^ 23 → own → vecGo s [] [opnd d 0 (n * z)] → ∃ t, exec (.vldcNowait d b o g) s = .next t
        ∧ (t.ctxOf s.core s.eng).flag 0 = s.vPending js
        ∧ vecLeaves (s.setCtx s.core s.eng (c.setF 0 (s.vPending js))) t [] d n z (onActive s g z (fun i _ v => v = cElems i)))
    ∧ (p + n * z ≤ 2 ^ 23 → own → s.vPending js = false → vecGo s src [] → ∃ t, exec (.vstc b a o x g) s = .next t ∧ SameMemory s t ∧ t.abuf = s.abuf
        ∧ (∀ i < n, ∀ k < z, cAt t (p + i * z + k) = if activeAt s g i then elemAt w z i / 256 ^ k % 256 else cAt s (p + i * z + k))
        ∧ (∀ q < 2 ^ 23, q < p ∨ p + n * z ≤ q → cAt t q = cAt s q)))
  ∧ (∀ (s : State) (d a : BitVec 7) (b e : BitVec 6) (o : BitVec 4) (x : BitVec 1) (g : BitVec 3) (l : List (Nat × Word × Xl)),
    let z := s.vZ
    let n := s.vN
    let src := [opnd a x (n * z)]
    let c := s.vCtx
    let after (t : State) : Ctx := (t.ctxOf s.core s.eng).swapViews
    let w := ((srcSlots [] src).map s.srcContent).getD 0 0
    let act := (List.range n).filter fun i => activeAt s g i
    let req := s.vfOf s.core s.eng
    let here := ∀ p ∈ l, p.2.2.cls ≠ 2
    let open' := ∀ p ∈ l, s.accessCheck req p.2.2.pa z p.2.1 = .ok ()
    let apart := ∀ p ∈ l, ∀ q ∈ l, p.1 ≠ q.1 → p.2.2.pa + z ≤ q.2.2.pa ∨ q.2.2.pa + z ≤ p.2.2.pa
    let lanes := act.map fun i => (i, BitVec.ofNat 64 (elemAt (s.vHere.reg b.toNat) 8 i))
    n * z ≤ 1024 → n ≤ 256 → here →
    (vecGo s [] [opnd d 0 (n * z)] → s.vXlate z .read .plain (act.map fun i => (i, s.vAddr b e i)) = .ok l → open' →
        ∃ t, exec (.vgath d b e g) s = .next t ∧ SameMemory s t
        ∧ (d.getLsbD 6 = false → ∀ p ∈ l, elemAt ((t.vecOf s.core s.eng).reg d.toNat) z p.1 = leNat (fun k => s.lotByte c combView (p.2.2.pa + k)) z)
        ∧ (d.getLsbD 6 = false → ∀ i < n, activeAt s g i = false → elemAt ((t.vecOf s.core s.eng).reg d.toNat) z i = elemAt (s.vHere.reg d.toNat) z i)
        ∧ (d.getLsbD 6 = true → let r := c.ring (d.toNat % 64)
            (r.free = 0 → t.vecOf s.core s.eng = s.vHere ∧ ∃ u, (t.engOf s.core s.eng).run = some u ∧ u.upc = s.runHere.upc ∧ u.pend.isSome = true)
            ∧ (r.free ≠ 0 → ((t.ctxOf s.core s.eng).ring (d.toNat % 64)).claim = r.claim + 1
              ∧ t.landing = s.landing ++ [.fill s.core s.eng (d.toNat % 64) r.claim.toNat]
              ∧ (∀ p ∈ l, ∀ j < z, t.aByte s.core s.eng (r.slotAt r.claim.toNat + p.1 * z + j) = s.lotByte c combView (p.2.2.pa + j))
              ∧ ∀ i < n, activeAt s g i = false → ∀ j < z, t.aByte s.core s.eng (r.slotAt r.claim.toNat + i * z + j) = 0)))
    ∧ (vecGo s src [] → s.vXlate z .write .plain (act.map fun i => (i, s.vAddr b e i)) = .ok l →
        open' → c.lines.length + l.length ≤ 8192 → apart →
        ∃ t, exec (.vscat b a e x g) s = .next t ∧ SameMemory s t
        ∧ (∀ p ∈ l, ∀ k < z, t.lotByte (after t) combView (p.2.2.pa + k) = BitVec.ofNat 8 (elemAt w z p.1 / 256 ^ k))
        ∧ (a.getLsbD 6 = false → ∀ pa, (∀ p ∈ l, pa < p.2.2.pa ∨ p.2.2.pa + z ≤ pa) → t.lotByte (after t) combView pa = s.lotByte c combView pa))
    ∧ (vecGo s [] [] → vatomOk s.vT n o.toNat = true → s.vXlate z .rmw .near lanes = .ok l → open' → c.lines.length + l.length ≤ 8192 →
        (∀ p ∈ l, s.sealOk p.2.2.pa = true) → ∃ t, exec (.vatom e b o 0 g) s = .next t ∧ SameMemory s t
        ∧ (∀ pa, (∀ p ∈ l, pa < p.2.2.pa ∨ p.2.2.pa + z ≤ pa) → t.lotByte (after t) combView pa = s.lotByte c combView pa)
        ∧ (apart → ∀ p ∈ l, let old := leNat (fun k => s.lotByte c combView (p.2.2.pa + k)) z
            elemAt ((t.vecOf s.core s.eng).reg e.toNat) z p.1 = old
            ∧ ((∀ k, Tbl.find? c.combs p.2.2.pa = some k → k.op ≠ o.toNat ∨ k.width ≠ z) → ∀ i < z, t.lotByte (after t) combView (p.2.2.pa + i) =
                BitVec.ofNat 8 (atomResult o.toNat (8 * z) old (elemAt (s.vHere.reg e.toNat) z p.1) / 256 ^ i))))
    ∧ (vecGo s [] [] → vatomOk s.vT n o.toNat = true → s.vXlate z .rmw .plain lanes = .ok l → open' → ∃ t, exec (.vatom e b o 1 g) s = .next t
        ∧ (apart → ∀ p ∈ l, elemAt ((t.vecOf s.core s.eng).reg e.toNat) z p.1 = leNat (fun k => s.memByte (p.2.2.pa + k)) z
            ∧ ∀ k < z, t.memByte (p.2.2.pa + k) =
              BitVec.ofNat 8 (atomResult o.toNat (8 * z) (leNat (fun k => s.memByte (p.2.2.pa + k)) z) (elemAt (s.vHere.reg e.toNat) z p.1) / 256 ^ k))
        ∧ (∀ pa, (∀ p ∈ l, pa < p.2.2.pa ∨ p.2.2.pa + z ≤ pa) → t.memByte pa = s.memByte pa)))

/-- R50, R151 and R244, VHALT and VFL: the halt word takes the loop space to its next point, level 5 fastest, and the body begins again at its first
word; after the last point the program stands halted and may retire; a prefix with F or L set, a level below 6 and a word after it that is
no prefix and no halt takes hold of that word, which issues next; any other prefix faults.

R60, R144, R223 and R376: an operation that its bound type does not allow stops the vector context at the word, without effect, and the
fault is posted to its slot with cause STEP_ILLEGAL, source and micro-PC; memory outside the fault record of the slot's area (R377), the vector registers and the predicates are as before.

Completion (under the conditions on state and operands named, and no others, exec i s = next t with the t described) of vhalt, vfl. -/
def Obligations.VectorControlAndFaults : Prop :=
  (∀ (s : State) (f l : BitVec 1) (v : BitVec 3) (r : Run),
    (s.engOf s.core s.eng).run = some r → s.eng < 4 →
    let n := stepIdx r.idx r.prog.loops
    let run (t : State) := (t.engOf s.core s.eng).run
    (∃ t, exec .vhalt s = .next t ∧ SameMemory s t ∧ ∃ u, run t = some u ∧ u.idx = n.1 ∧ u.halted = n.2 ∧ (n.2 = false → u.upc = 0 ∧ t.agenda = s.agenda)
        ∧ (n.2 = true → u.upc = r.upc ∧ t.agenda = s.agenda ++ [.due (.programRetire s.core s.eng)]))
    ∧ ((f = 1 ∨ l = 1) → v.toNat < 6 → s.prefixOk = true → ∃ t, exec (.vfl f l v) s = .next t ∧ SameMemory s t
        ∧ t.agenda = .vec s.core s.eng :: s.agenda ∧ ∃ u, run t = some u ∧ u.upc = r.upc + 1 ∧ u.vfl = some (f == 1, l == 1, v.toNat))
    ∧ (¬((f = 1 ∨ l = 1) ∧ v.toNat < 6 ∧ s.prefixOk = true) → exec (.vfl f l v) s = s.engineFault 12))
  ∧ (∀ (s : State) (d a b : BitVec 7) (x y : BitVec 1) (g : BitVec 3), s.eng < 4 → s.runHere.pend = none →
    let stops (i : Instr) : Prop := ∃ t fr, exec i s = .next t ∧ (t.engOf s.core s.eng).stopped = true ∧ sameButRecord s t s.core s.eng ∧ t.vecs = s.vecs
      ∧ (t.ctxOf s.core s.eng).posted = (s.ctxOf s.core s.eng).posted ++ [fr] ∧ fr.cause = 12 ∧ fr.src = 24 ∧ fr.upc = s.runHere.upc ∧ fr.fatal = true
    (isInt s.vT = false → stops (.vadds d a b x y g) ∧ stops (.vsubs d a b x y g) ∧ stops (.vmulh d a b x y g) ∧ stops (.vhash d a b x y g)
      ∧ stops (.vclz d a x g) ∧ stops (.vpopc d a x g))
    ∧ (isInt s.vT = true → stops (.exp2 d a x g) ∧ stops (.log2 d a x g) ∧ stops (.rcp d a x g) ∧ stops (.rsq d a x g)
      ∧ stops (.vdq d a b x y g))
    ∧ (isInt s.vT = true → typeSigned s.vT = false → stops (.vabs d a x g) ∧ stops (.vneg d a x g))
    ∧ (d.getLsbD 6 = true → stops (.vfma d a b x y g))
    ∧ (stops (.vceq 0 a b x y g) ∧ stops (.vcne 0 a b x y g) ∧ stops (.vclt 0 a b x y g) ∧ stops (.vcle 0 a b x y g) ∧ stops (.vcgt 0 a b x y g)
      ∧ stops (.vcge 0 a b x y g))
    ∧ (256 < s.vN → ∀ b6 e6 : BitVec 6, stops (.vgath d b6 e6 g) ∧ stops (.vscat b6 a e6 x g)))

/-! ## 13: step words of the fragments -/

/-- What a step word of the acting fragment needs to take effect: its F and L flags issue it at this point of the loop space (R50), and the
vectors of its last pass are in the link queue (R26). -/
def matGo (s : State) (f l : BitVec 1) (v : BitVec 3) : Prop :=
  4 ≤ s.eng ∧ s.eng < 8 ∧ ¬((f = 1 ∨ l = 1) ∧ 6 ≤ v.toNat) ∧ s.runHere.flagsIssue (f == 1) (l == 1) v.toNat = true ∧ s.mBlocked = false

/-- The word is behind the acting engine: its program stands at the word after it. -/
def wordBehind (s t : State) : Prop := ∃ u, (t.engOf s.core s.eng).run = some u ∧ u.upc = s.runHere.upc + 1 ∧ u.idx = s.runHere.idx
/-- An element of a slab, by slab and place. -/
def slabElem (s : State) (slab e : Nat) : BitVec 32 := Tbl.get s.cbuf 0 (s.core * 2 ^ 21 + slab * 1024 + e)
/-- The slot owns each slab of a list, which the acting fragment may write. -/
def ownsAll (s : State) (js : List Nat) : Prop := s.mForeign js = none ∧ ∀ j ∈ js, Tbl.get s.accown 7 (s.core * 2048 + j) = s.eSlot

/-- R50, R248, R250, R251, R257 and R260: the step words without a pass complete. WLD starts the load of the stream's next tile into NXT; SWAIT waits
for n full slots; SADV frees n slots and moves the cursor back once the fragment's passes have retired (the model's reading, log 92); SRST takes the cursor to 0; LINKCFG loads the link's row
parameters; SMARK records its marker, for the next cycle, once every step before it has completed; NOP has no effect; HALT ends the body at this point; a word that
its flags do not issue has no effect.

R256 and R261: the accumulator steps, once the fragment's passes have retired and on slabs that are the slot's and the fragment's: ACCZ gives
its slabs +0.0; ACCLD a slab the 1024 words of the slot at its cursor; ACCMV without conversion claims a slot, writes the slab's 1024 words into it,
element 0 lowest, and its fill is done for the next cycle (R77). No other element of C changes.

Completion (under the conditions on state and operands named, and no others, exec i s = next t with the t described) of matNop, wld, swait,
sadv, srst, smark, linkcfg, matHalt, accz, accld, accmv. -/
def Obligations.FragmentSteps : Prop :=
  (∀ (s : State) (f l : BitVec 1) (v : BitVec 3) (b : BitVec 4) (n : BitVec 13) (nf c : BitVec 1) (m : BitVec 16) (k md : BitVec 3),
    let r := s.runHere
    let q := r.q b.toNat
    let ring := s.mRing q
    let cur := r.curOf b.toNat
    let fr := s.mFrag
    let fits := wTileOk (s.ctxOf s.core s.eSlot).wsize q cur = true ∧ s.mCol ≤ q_wcol q ∧ q_wcol q + q_nt q ≤ s.mCol + s.mWidth ∧ q_kt q ≤ s.mDepth
    let to' := s.fragOf s.core (linkTo k.toNat)
    let word (o : Nat) : BitVec 32 := BitVec.ofNat 32 (getBytes (s.slotContent q cur) o 4)
    let w := s.mWidth
    let isRing := q_w q = false ∧ ring.scount ≠ 0
    (matGo s f l v → exec (.matNop f l v) s = .next (s.setRun (s.runHere.after 1)))
    ∧ (matGo s f l v → q_w q = true → fits → ∃ t, exec (.wld f l v b) s = .next t ∧ SameMemory s t ∧ wordBehind s t
        ∧ (t.fragOf s.core s.mK).nxt.src = some (b.toNat, cur) ∧ (t.fragOf s.core s.mK).nxt.pending = true ∧ (t.fragOf s.core s.mK).act = fr.act
        ∧ (t.fragOf s.core s.mK).nxt.cols = (List.range (q_nt q)).map (fun j => (List.range (q_rw q)).map fun i => s.wWord s.core s.eSlot (q_wrow q + cur * q_rw q + i) (q_wcol q + j))
        ∧ t.runHere.curOf b.toNat = cur + 1)
    ∧ (matGo s f l v → isRing → n ≠ 0 → n.toNat ≤ ring.scount → (n.toNat ≤ ring.full → exec (.swait f l v b n) s = .next (s.setRun (s.runHere.after 1)))
        ∧ (ring.full < n.toNat → exec (.swait f l v b n) s = .next s))
    ∧ (matGo s f l v → isRing → n ≠ 0 → n.toNat ≤ ring.full → fr.passes = [] → ∃ t, exec (.sadv f l v b n) s = .next t ∧ SameMemory s t ∧ wordBehind s t
        ∧ (t.ctxOf s.core s.eSlot).ring (q_ch q) = { ring with head := ring.head + BitVec.ofNat 32 n.toNat } ∧ t.runHere.curOf b.toNat = cur - n.toNat)
    ∧ (matGo s f l v → (q_w q = true ∨ isRing) → ∃ t, exec (.srst f l v b) s = .next t ∧ SameMemory s t ∧ wordBehind s t ∧ t.runHere.curOf b.toNat = 0)
    ∧ (matGo s f l v → s.stepsIdle s.core s.eng = true → ∃ t, exec (.smark f l v nf m) s = .next t ∧ SameMemory s t ∧ wordBehind s t
        ∧ t = ({ s with landing := s.landing ++ [.mark s.core s.eSlot s.eng m (nf == 1)] } : State).setRun (r.after 1)
        ∧ (s.landing = [] → (t.land.engOf s.core s.eng).last = some m ∧ (t.land.engOf s.core s.eng).notified = (nf == 1 && s.eHere.queue.isEmpty)))
    ∧ (matGo s f l v → s.stepsIdle s.core s.eng = false → exec (.smark f l v nf m) s = .next s)
    ∧ (matGo s f l v → isRing → k.toNat ≤ 3 → md.toNat ≤ 4 → cur < ring.scount → linkFrom k.toNat = s.mK → k.toNat ∈ planLinks s.mPlan
        → (to'.state = 1 ∨ to'.state = 3) → to'.slot = fr.slot → 8 * w + 5 ≤ 64 * ring.ssz → cur < ring.full → fr.passes = []
        → ∃ t, exec (.linkcfg f l v k c md b) s = .next t ∧ SameMemory s t ∧ wordBehind s t ∧ (t.fragOf s.core s.mK).linked = true
          ∧ (t.linkOf s.core k.toNat).scale = (List.range w).map (fun j => word (4 * j)) ∧ (t.linkOf s.core k.toNat).bias = (List.range w).map (fun j => word (4 * w + 4 * j))
          ∧ (t.linkOf s.core k.toNat).bound = word (8 * w) ∧ (t.linkOf s.core k.toNat).clamp = (c == 1) ∧ (t.linkOf s.core k.toNat).mode = md.toNat
          ∧ (t.linkOf s.core k.toNat).fmt = q_fmt q ∧ t.runHere.curOf b.toNat = cur + 1)
    ∧ (4 ≤ s.eng → s.eng < 8 → s.mBlocked = false → ∃ t u, exec .matHalt s = .next t ∧ SameMemory s t ∧ (t.engOf s.core s.eng).run = some u
        ∧ u.idx = (stepIdx r.idx r.prog.loops).1 ∧ u.halted = (stepIdx r.idx r.prog.loops).2 ∧ ((stepIdx r.idx r.prog.loops).2 = false → u.upc = 0))
    ∧ (s.runHere.firstPass = false → s.runHere.flagsIssue (f == 1) (l == 1) v.toNat = false → v.toNat < 6 →
        exec (.wld f l v b) s = .next (s.setRun (s.runHere.after 1)) ∧ exec (.swait f l v b n) s = .next (s.setRun (s.runHere.after 1))
        ∧ exec (.smark f l v nf m) s = .next (s.setRun (s.runHere.after 1))))
  ∧ (∀ (s : State) (f l : BitVec 1) (v : BitVec 3) (n : BitVec 8) (b : BitVec 4) (j : BitVec 11),
    let q := s.runHere.q b.toNat
    let ring := s.mRing q
    let cur := s.runHere.curOf b.toNat
    let js := (List.range (n.toNat + 1)).map fun i => j.toNat + i
    let isRing := q_w q = false ∧ ring.scount ≠ 0
    matGo s f l v → s.mFrag.passes = [] →
    (ownsAll s js → ∃ t, exec (.accz f l v n j) s = .next t ∧ SameMemory s t ∧ wordBehind s t ∧ (∀ i ∈ js, ∀ e < 1024, slabElem t i e = 0)
        ∧ (∀ i < 2048, i ∉ js → ∀ e < 1024, slabElem t i e = slabElem s i e))
    ∧ (isRing → ownsAll s [j.toNat] → cur < ring.scount → 4096 ≤ 64 * ring.ssz → cur < ring.full → ∃ t, exec (.accld f l v b j) s = .next t ∧ SameMemory s t
        ∧ wordBehind s t ∧ t.runHere.curOf b.toNat = cur + 1
        ∧ (∀ e < 1024, slabElem t j.toNat e = BitVec.ofNat 32 (leNat (fun i => s.aByte s.core s.eSlot (ring.slotAt (ring.head + BitVec.ofNat 32 cur).toNat + 4 * e + i)) 4))
        ∧ (∀ i < 2048, i ≠ j.toNat → ∀ e < 1024, slabElem t i e = slabElem s i e))
    ∧ (isRing → ownsAll s [j.toNat] → 4096 ≤ 64 * ring.ssz → ring.free ≠ 0 → ∃ t, exec (.accmv f l v b 0 j) s = .next t ∧ SameMemory s t ∧ wordBehind s t
        ∧ t.cbuf = s.cbuf ∧ (t.ctxOf s.core s.eSlot).ring (q_ch q) = { ring with claim := ring.claim + 1 }
        ∧ t.landing = s.landing ++ [.fill s.core s.eSlot (q_ch q) ring.claim.toNat]
        ∧ (∀ e < 1024, ∀ i < 4, t.aByte s.core s.eSlot (ring.slotAt ring.claim.toNat + 4 * e + i) = BitVec.ofNat 8 ((slabElem s j.toNat e).toNat / 256 ^ i))))

/-- R254 and R255, CONV: a pass over the pixels of a convolution whose checks hold joins the passes of its fragment; the element of pixel p and a
column of the tile gets the Plaza's sum over the tile's K-chunk of the input elements R255 maps to it, zero where the map lies outside the image
or beyond the channels; the pixel cursor moves on, and back to 0 after the last pixel.

Completion (under the conditions on state and operands named, and no others, exec i s = next t with the t described) of conv. -/
def Obligations.Convolutions : Prop := ∀ (s : State) (f l h : BitVec 1) (v c : BitVec 3) (a b : BitVec 4) (md : BitVec 2) (k : BitVec 8),
  let r := s.runHere
  let qa := r.q a.toNat
  let qb := r.q b.toNat
  let cv := r.cv c.toNat
  let ring := s.mRing qa
  let cur := r.curOf a.toNat
  let fr := s.mFrag
  let mm := q_nt qa
  let p0 := mm * r.pixOf c.toNat
  let px := (List.range mm).map (fun i => p0 + i) |>.filter fun p => decide (p < cv_o cv)
  let js := (px.map fun p => p / 32).eraseDups.flatMap fun i =>
    ((List.range ((q_wcol qb + q_nt qb - 1) / 32 - q_wcol qb / 32 + 1)).map fun g => q_wcol qb / 32 + g).map fun g => 256 * g + k.toNat + i
  let sel := h = 1 ∨ (fr.nxt.pending = false ∧ fr.act.stream = some b.toNat)
  matGo s f l v → md.toNat ≤ 1 → q_w qb = true → q_w qa = false → ring.scount ≠ 0 → cv_ih cv ≠ 0 → cur < ring.scount → cur < ring.full → fr.passes.length < 2 → sel →
  (h = 1 → fr.act.stream = some b.toNat) → (h = 0 → fr.act.stream = some b.toNat) → s.mCol ≤ q_wcol qb → q_wcol qb + q_nt qb ≤ s.mCol + s.mWidth → q_kt qb ≤ s.mDepth → mm ≤ 256 →
  k.toNat + (mm - 1) / 32 ≤ 255 → pairOk (q_fmt qa) (q_fmt qb) = true → (q_fmt qa = 5 → cv_ic cv % 32 = 0) → mapBytes cv qa ≤ 64 * ring.ssz → ownsAll s js →
  ∃ t p, exec (.conv f l h v c a b md k) s = .next t ∧ SameMemory s t ∧ wordBehind s t ∧ t.cbuf = s.cbuf ∧ (t.fragOf s.core s.mK).passes = fr.passes ++ [p]
    ∧ t.runHere.pixOf c.toNat = (if cv_o cv ≤ mm * (r.pixOf c.toNat + 1) then 0 else r.pixOf c.toNat + 1)
    ∧ ∀ i < mm, p0 + i < cv_o cv → ∀ cc < q_nt qb, ∃ w ∈ p.writes, w.slab = 256 * ((q_wcol qb + cc) / 32) + k.toNat + (p0 + i) / 32
      ∧ w.elem = 32 * ((p0 + i) % 32) + (q_wcol qb + cc) % 32 ∧ w.accumulate = decide (md ≠ 1)
      ∧ w.sum = plazaSum (decide (q_fmt qa < 2)) (((List.range (q_kt qb)).map fun e => convElem cv qa (s.slotContent qa cur) (q_kt qb) fr.act.tile (p0 + i) e).zipIdx.map
          fun e => Machine.Num.mul e.1 (fr.act.cell (q_wcol qb + cc) e.2))

/-- R114, R115, R252, R254, R255 and R258: a pass whose checks of R263 hold, whose activations are there and whose weights are in ACT joins the passes of its
fragment, two at most: for each vector of the activation tile and each column of the weight tile it will write one element of the slab the
word names, the element of row and column, with the Plaza's sum of the products of the vector with that column, added in modes 0 and 2 and put
in place of the element in mode 1. A ring MMA moves the activation cursor on; a link-input pass takes its tile from the link's queue,
and waits where the queue is empty; that a pass which waits already is not held to R263's check of the producing fragment is log 54's
reading.

R26, R55, R115, R251 to R253 and R332, PASS_RETIRE and WEIGHT_LOAD_COMPLETE: the oldest pass retires: an element that one write of it names becomes the Plaza's addition of
the write's sum to the old element, or to +0.0 where the write replaces it (the sign of a zero sum, −0 + −0 to +0, is log 79: the model's choice), every other element of C stays, and a pass without a link leaves; a pass
with one sends its vectors, as many as the link's queue has room for. A fragment that faults becomes FAULTED when no pass is left, and its fault is
posted to its slot. A completed load is ready.

Completion (under the conditions on state and operands named, and no others, exec i s = next t with the t described) of mma, passRetire,
weightLoadComplete. -/
def Obligations.MatrixPasses : Prop :=
  (∀ (s : State) (f l h : BitVec 1) (v : BitVec 3) (a b : BitVec 4) (j : BitVec 11) (md : BitVec 2),
    let r := s.runHere
    let qa := r.q a.toNat
    let qb := r.q b.toNat
    let ring := s.mRing qa
    let cur := r.curOf a.toNat
    let fr := s.mFrag
    let k0 := j.toNat % 256
    let vs := tileVectors qa (s.slotContent qa cur)
    let js (m : Nat) := mmaSlabs (q_wcol qb) (q_nt qb) k0 m
    let sel := h = 1 ∨ (fr.nxt.pending = false ∧ fr.act.stream = some b.toNat)
    let full (t : State) (m : Nat) (wide : Bool) (x : Nat → List Machine.Num) : Prop := ∃ p, (t.fragOf s.core s.mK).passes = fr.passes ++ [p] ∧ p.applied = false
      ∧ ∀ i < m, ∀ cc < q_nt qb, ∃ w ∈ p.writes, w.slab = 256 * ((q_wcol qb + cc) / 32) + k0 + i / 32 ∧ w.elem = 32 * (i % 32) + (q_wcol qb + cc) % 32
        ∧ w.accumulate = decide (md ≠ 1) ∧ w.sum = plazaSum wide ((x i).zipIdx.map fun e => Machine.Num.mul e.1 (fr.act.cell (q_wcol qb + cc) e.2))
    matGo s f l v → md.toNat ≤ 2 → q_w qb = true → fr.passes.length < 2 → sel →
    (a ≠ b → q_w qa = false → ring.scount ≠ 0 → cur < ring.scount → s.mmaCheck b.toNat (q_nt qa) (q_fmt qa) (some (q_kt qa)) j.toNat md.toNat (h == 1) = none
        → tileBytes qa ≤ 64 * ring.ssz → ownsAll s (js (q_nt qa)) → cur < ring.full →
        ∃ t, exec (.mma f l h v a b j md) s = .next t ∧ SameMemory s t ∧ wordBehind s t ∧ t.cbuf = s.cbuf ∧ t.runHere.curOf a.toNat = cur + 1
          ∧ full t (q_nt qa) (decide (q_fmt qa < 2)) (fun i => vs.getD i []))
    ∧ (fr.linkLost = false → ∀ i, linkInto s.mPlan s.mK = some i →
        (fr.waitsLink = true ∨ (((s.fragOf s.core (linkFrom i)).state = 1 ∨ (s.fragOf s.core (linkFrom i)).state = 3) ∧ (s.fragOf s.core (linkFrom i)).slot = fr.slot)) →
        ((s.linkOf s.core i).queue = [] → exec (.mma f l h v b b j md) s = .next (s.setMFrag { fr with waitsLink := true }))
        ∧ ∀ m fa x rest, (s.linkOf s.core i).queue = (m, fa, x) :: rest → s.mmaCheck b.toNat m fa none j.toNat md.toNat (h == 1) = none → ownsAll s (js m)
            → m ≤ (s.linkOf s.core i).queue.length → linkFrom i ≠ s.mK → ∃ t, exec (.mma f l h v b b j md) s = .next t ∧ SameMemory s t ∧ wordBehind s t ∧ t.cbuf = s.cbuf
              ∧ (t.linkOf s.core i).queue = (s.linkOf s.core i).queue.drop m
              ∧ full t m (decide (fa < 2)) (fun i' => ((((s.linkOf s.core i).queue.map fun y => y.2.2).getD i' []).take (q_kt qb)).map (linkNum fa))))
  ∧ (∀ (s : State) (core seq : Nat),
    let fr := s.fragOf core seq
    let at' (t : State) (q : Nat) : BitVec 32 := Tbl.get t.cbuf 0 (core * 2 ^ 21 + q)
    (∀ p rest, fr.passes = p :: rest → p.applied = false → ∃ t, exec (.passRetire core seq) s = .next t ∧ SameMemory s t
        ∧ (∀ l w r, p.writes = l ++ w :: r → (∀ w' ∈ l ++ r, w'.slab * 1024 + w'.elem ≠ w.slab * 1024 + w.elem) →
            at' t (w.slab * 1024 + w.elem) = BitVec.ofNat 32 (plazaAdd (if w.accumulate then (at' s (w.slab * 1024 + w.elem)).toNat else 0) w.sum))
        ∧ (∀ q, (∀ w ∈ p.writes, w.slab * 1024 + w.elem ≠ q) → at' t q = at' s q)
        ∧ (p.chain = none → (t.fragOf core seq).passes = rest ∧ t.links = s.links)
        ∧ (∀ c, p.chain = some c → (∃ vs, (t.linkOf core c.link).queue = (s.linkOf core c.link).queue ++ vs
              ∧ vs.length = min c.vectors (64 - (s.linkOf core c.link).queue.length))
            ∧ (c.vectors ≤ 64 - (s.linkOf core c.link).queue.length → (t.fragOf core seq).passes = rest)))
    ∧ (fr.passes = [] → fr.faulting = none → exec (.passRetire core seq) s = .next s)
    ∧ (fr.passes = [] → fr.state = 1 → ∀ r, fr.faulting = some r → ∃ t, exec (.passRetire core seq) s = .next t ∧ (t.fragOf core seq).state = 3 ∧ (t.fragOf core seq).faulting = none
        ∧ ∃ p, (t.ctxOf core fr.slot).posted = (s.ctxOf core fr.slot).posted ++ [p] ∧ p.cause = r.cause ∧ p.fcause = r.fcause ∧ p.upc = r.upc ∧ p.detail = r.detail)
    ∧ (fr.nxt.pending = true → exec (.weightLoadComplete core seq) s = .next (s.setFrag core seq { fr with nxt := { fr.nxt with ready := true } })))

/-! ## 14: step words of the copy engines -/

/-- What a step word of the acting copy engine needs to be looked at: its flags issue it (R50), and with SER no step of the engine is in
flight. -/
def copyGo (s : State) (f l e : BitVec 1) (v : BitVec 3) : Prop :=
  8 ≤ s.eng ∧ s.eng < 16 ∧ ¬((f = 1 ∨ l = 1) ∧ 6 ≤ v.toNat) ∧ s.runHere.flagsIssue (f == 1) (l == 1) v.toNat = true ∧ (e = 0 ∨ s.copyHere.steps = [])

/-- R363: no loader command for the slot's VF waits for the steps in flight to be done. -/
def noLoad (s : State) : Prop := s.loadHolds s.eSlot = false

/-- What the start of a step leaves (R266, R278): the step in flight with its operation and tag, behind the older ones; an accepted tag that is
not done; the engine at the next word; no byte of memory and no byte of A changed. -/
def stepStarted (s t : State) (tg : BitVec 1) (x : BitVec 6) (op : CopyOp) (slotNo words : Nat) : Prop :=
  let c := s.ctxOf s.core s.eSlot
  let d := t.ctxOf s.core s.eSlot
  (∃ st, (t.copyOf s.core s.cNo).steps = s.copyHere.steps ++ [st] ∧ st.op = op ∧ st.tag = (if tg = 1 then some x.toNat else none)
      ∧ st.upc = s.runHere.upc ∧ st.slotNo = slotNo)
  ∧ (tg = 1 → d.outOf x.toNat = c.outOf x.toNat + 1 ∧ d.tagdone.getLsbD x.toNat = false)
  ∧ (∀ g < 64, (tg = 0 ∨ g ≠ x.toNat) → d.outOf g = c.outOf g ∧ d.tagdone.getLsbD g = c.tagdone.getLsbD g)
  ∧ (∃ u, (t.engOf s.core s.eng).run = some u ∧ u.upc = s.runHere.upc + words) ∧ SameMemory s t ∧ t.abuf = s.abuf

/-- R266 to R276, the start of a step: each word that moves data, whose flags issue it, whose tag is not cancelled and whose checks of R279
hold, starts its step and does not wait for it: at once where its C slabs are the slot's and no write is pending to them; a fill when its
ring has a free slot, which it claims; a drain when the slot at its cursor is full. While a loader command for the VF waits for the steps in
flight, no step starts (R363).

R50, R276: the copy words that move nothing complete: CWT when n slots are full, CADV frees n slots and moves the cursor back, CMARK records its
marker, for the next cycle, when no step is in flight, CNOP has no effect, CHALT ends the body at this point of the loop space, and CHALT with S does so once no step is in flight.

Completion (under the conditions on state and operands named, and no others, exec i s = next t with the t described) of cld, cst, cstq, cmc,
cga, csc, crw, cred, cldRing, cstRing, cldm, cnop, cwt, cadv, cmark, chalt, chaltS. -/
def Obligations.CopyWords : Prop :=
  (∀ (s : State) (f l e tg : BitVec 1) (x : BitVec 6) (v : BitVec 3) (a b d : BitVec 4) (c : BitVec 6) (k : BitVec 8) (m : BitVec 3)
      (y fr : BitVec 2) (w : BitVec 32),
    let r := s.runHere
    let slot := s.eSlot
    let ring := (s.ctxOf s.core slot).ring c.toNat
    let cur := r.curOf c.toNat
    let checks (op : CopyOp) : Prop := noLoad s ∧ r.cancelledTag tg x = false ∧ s.stepFault slot (s.operands slot r.prog op) = none
    let ready (op : CopyOp) : Prop := checks op ∧ let o := s.operands slot r.prog op
      ∀ j ∈ (if o.bSpace = 2 then slabsOfElems o.bElems else []) ++ (if o.aSpace = 2 then slabsOfElems o.aElems else []),
        Tbl.get s.accown 7 (s.core * 2048 + j) = slot ∧ s.pendingAt s.core slot j r.id = 0
    let starts (i : Instr) (op : CopyOp) : Prop := ready op → ∃ t, exec i s = .next t ∧ stepStarted s t tg x op 0 1 ∧ t.cbuf = s.cbuf
    (copyGo s f l e v → starts (.cld f l e tg x v a b) (.cld a.toNat b.toNat) ∧ starts (.cst f l e tg x v a b) (.cst a.toNat b.toNat))
    ∧ (copyGo s 0 0 e 0 →
        (m.toNat ≤ 4 → starts (.cstq e tg x a b m y) (.cstq a.toNat b.toNat m.toNat y.toNat)) ∧ (k ≠ 0 → starts (.cmc e tg x a b k) (.cmc a.toNat b.toNat k.toNat))
        ∧ starts (.cga e tg x a d b) (.cga a.toNat d.toNat b.toNat) ∧ starts (.csc e tg x a d b) (.csc a.toNat d.toNat b.toNat)
        ∧ starts (.crw e tg x a b) (.crw a.toNat b.toNat) ∧ starts (.cred e tg x a b) (.cred a.toNat b.toNat))
    ∧ (copyGo s f l e v → ring.scount ≠ 0 → ring.free ≠ 0 → checks (.cldRing a.toNat c.toNat) → ∃ t, exec (.cldRing f l e tg x v a c) s = .next t
        ∧ stepStarted s t tg x (.cldRing a.toNat c.toNat) ring.claim.toNat 1 ∧ ((t.ctxOf s.core slot).ring c.toNat) = { ring with claim := ring.claim + 1 })
    ∧ (copyGo s f l e v → ring.scount ≠ 0 → ring.free = 0 → checks (.cldRing a.toNat c.toNat) → exec (.cldRing f l e tg x v a c) s = .next s)
    ∧ (copyGo s f l e v → ring.scount ≠ 0 → cur < ring.full → checks (.cstRing a.toNat c.toNat) → ∃ t, exec (.cstRing f l e tg x v a c) s = .next t
        ∧ stepStarted s t tg x (.cstRing a.toNat c.toNat) (ring.head + BitVec.ofNat 32 cur).toNat 1 ∧ t.runHere.curOf c.toNat = cur + 1)
    ∧ (copyGo s 0 0 e 0 → ring.scount ≠ 0 → ring.free ≠ 0 → (∃ i, decode .mat w.toNat = some i ∧ i ≠ .matHalt) → r.upc + 1 < r.prog.bodyLen
        → checks (.cldm a.toNat c.toNat fr.toNat w) → ∃ t, exec (.cldm e tg x a c fr w) s = .next t
          ∧ stepStarted s t tg x (.cldm a.toNat c.toNat fr.toNat w) ring.claim.toNat 2)
    ∧ (copyGo s f l e v → s.loadHolds slot = true → r.cancelledTag tg x = false → s.stepFault slot (s.operands slot r.prog (.cld a.toNat b.toNat)) = none
        → exec (.cld f l e tg x v a b) s = .next s))
  ∧ (∀ (s : State) (f l e nf : BitVec 1) (v : BitVec 3) (c : BitVec 6) (n : BitVec 8) (m : BitVec 16),
    let r := s.runHere
    let ring := (s.ctxOf s.core s.eSlot).ring c.toNat
    let done := Host.Outcome.next (s.setRun (r.after 1))
    let ends (i : Instr) : Prop := ∃ t u, exec i s = .next t ∧ SameMemory s t ∧ (t.engOf s.core s.eng).run = some u
      ∧ u.idx = (stepIdx r.idx r.prog.loops).1 ∧ u.halted = (stepIdx r.idx r.prog.loops).2 ∧ ((stepIdx r.idx r.prog.loops).2 = false → u.upc = 0)
    (copyGo s f l e v → exec (.cnop f l e v) s = done)
    ∧ (copyGo s f l e v → ring.scount ≠ 0 → n ≠ 0 → n.toNat ≤ ring.scount → (n.toNat ≤ ring.full → exec (.cwt f l e v c n) s = done)
        ∧ (ring.full < n.toNat → exec (.cwt f l e v c n) s = .next s))
    ∧ (copyGo s f l e v → ring.scount ≠ 0 → n ≠ 0 → n.toNat ≤ ring.full → ∃ t, exec (.cadv f l e v c n) s = .next t ∧ SameMemory s t ∧ wordBehind s t
        ∧ (t.ctxOf s.core s.eSlot).ring c.toNat = { ring with head := ring.head + BitVec.ofNat 32 n.toNat } ∧ t.runHere.curOf c.toNat = r.curOf c.toNat - n.toNat)
    ∧ (copyGo s 0 0 e 0 → s.copyHere.steps = [] → ∃ t, exec (.cmark e nf m) s = .next t ∧ SameMemory s t ∧ wordBehind s t
        ∧ t = ({ s with landing := s.landing ++ [.mark s.core s.eSlot s.eng m (nf == 1)] } : State).setRun (r.after 1)
        ∧ (s.landing = [] → (t.land.engOf s.core s.eng).last = some m ∧ (t.land.engOf s.core s.eng).notified = (nf == 1 && s.eHere.queue.isEmpty)))
    ∧ (copyGo s 0 0 e 0 → s.copyHere.steps ≠ [] → exec (.cmark e nf m) s = .next s)
    ∧ (8 ≤ s.eng → s.eng < 16 → ends .chalt ∧ (s.copyHere.steps = [] → ends .chaltS))
    ∧ (s.copyHere.steps ≠ [] → exec .chaltS s = .next s))

/-- R81, R96, R267, R269 and R278, COPY_STEP_COMPLETE of a CLD into A and of a CST from A on memory that translates and passes its line checks: each
element of the buffer shape takes the bytes of its element of the G shape, through what a fence lets the engine see, or gives it them; no other
byte of the window, or of memory, changes; the step is no longer in flight.

R155 and R275, CLDM_FOLLOW_ON: a CLDM whose data has landed and whose follow-on word did not find room places it, with the registers of its own
program and a HALT behind it, once the sequencer's queue has room, fills its slot, and completes; it waits while the queue is full, its slot
unfilled, and a fragment that is no longer the lot's gets no word (log 110: the model's choice).

Completion (under the conditions on state and operands named, and no others, exec i s = next t with the t described) of copyStepComplete,
cldmFollowOn. -/
def Obligations.CopyCompletion : Prop :=
  (∀ (s : State) (core n idx : Nat) (st : CopyStep) (g b : Nat) (X : Nat → Xl), n < 8 →
    let e := s.asEngine core (n + 8)
    let slot := (s.copyOf core n).slot
    let G := st.bound.shape g
    let B := st.bound.shape b
    let at' (j : Nat) : Nat := (B.elem j).toNat
    let xl (k : Kind) : Prop := ∀ j < G.count, s.translate core slot (gAddr (G.elem j)) k .plain = .ok (X j) ∧ (X j).cls ≠ 2 ∧ (X j).pa + G.esz ≤ 2 ^ 41
    let gone (t : State) : Prop := ∀ q ∈ (t.copyOf core n).steps, q.idx ≠ idx
    (s.copyOf core n).steps.find? (fun q => decide (q.idx = idx)) = some st → B.space = 1 → B.count = G.count → B.esz = G.esz →
    (∀ j < G.count, 0 ≤ B.elem j ∧ B.elem j + G.esz ≤ 2 ^ 24) →
    (st.op = .cld g b → xl .read → (∀ j < G.count, s.lineCheck (s.vfOf core slot) (X j).pa = none)
        → (∀ i < G.count, ∀ j < G.count, i ≠ j → at' i + G.esz ≤ at' j ∨ at' j + G.esz ≤ at' i) →
        ∃ t, exec (.copyStepComplete core n idx) s = .next t ∧ gone t ∧ SameMemory s t
        ∧ (∀ j < G.count, ∀ i < G.esz, t.aByte core slot (at' j + i) = e.copyByte slot ((X j).pa + i))
        ∧ (∀ p < 2 ^ 24, (∀ j < G.count, p < at' j ∨ at' j + G.esz ≤ p) → t.aByte core slot p = s.aByte core slot p))
    ∧ (st.op = .cst g b → xl .write → (∀ j < G.count, s.ownerOk (s.vfOf core slot) (X j).pa = true) → s.trackAt = []
        → (∀ i < G.count, ∀ j < G.count, i ≠ j → (X i).pa + G.esz ≤ (X j).pa ∨ (X j).pa + G.esz ≤ (X i).pa) →
        ∃ t, exec (.copyStepComplete core n idx) s = .next t ∧ gone t ∧ t.abuf = s.abuf
        ∧ (∀ j < G.count, ∀ i < G.esz, t.memByte ((X j).pa + i) = s.aByte core slot (at' j + i))
        ∧ (∀ pa, (∀ j < G.count, pa < (X j).pa ∨ (X j).pa + G.esz ≤ pa) → t.memByte pa = s.memByte pa)))
  ∧ (∀ (s : State) (core n idx g c k : Nat) (w : BitVec 32) (st : CopyStep), n < 8 → k < 4 →
    let slot := (s.copyOf core n).slot
    (s.copyOf core n).steps.find? (fun q => decide (q.idx = idx)) = some st → st.op = .cldm g c k w → st.filled = true →
    (s.engOf core (k + 4)).queue.length < 16 → (s.fragsOf core slot).contains k = true → ∃ t q cmd p, exec (.cldmFollowOn core n idx) s = .next t
      ∧ (t.engOf core (k + 4)).queue = q ++ [cmd] ∧ q.length = (s.engOf core (k + 4)).queue.length ∧ cmd.held = false ∧ cmd.kind = .program p
      ∧ p.body = some [w, 0xF8000000] ∧ p.q = st.bound.q ∧ p.cv = st.bound.cv ∧ (∀ x ∈ (t.copyOf core n).steps, x.idx ≠ idx) ∧ SameMemory s t
      ∧ ((t.ctxOf core slot).ring c).claim = ((s.ctxOf core slot).ring c).claim)

/-! ## 02: commands and programs -/

/-- R49, R51, R96, R177 and R184 to R186, ENGINE_COMMAND_START, MARKER_RETIRE and PROGRAM_RETIRE: the head of an engine's queue that can start is taken, in the order of the queue: a
program becomes the engine's run at its first word and with loop indices zero, a shape becomes the vector context's; a marker is the engine's
last one when it retires; a program whose halt word has run and whose steps have completed leaves the engine idle. A head that cannot go
yet leaves everything as it is.

Completion (under the conditions on state and operands named, and no others, exec i s = next t with the t described) of engineCommandStart,
markerRetire, programRetire. -/
def Obligations.CommandsStart : Prop := ∀ (s : State) (core e : Nat) (c : Cmd) (rest : List Cmd),
  let v := s.engOf core e
  (v.queue = c :: rest → s.startDue core e = true → ∀ p, c.kind = .program p → ∃ t u, exec (.engineCommandStart core e) s = .next t
      ∧ (t.engOf core e).queue = rest ∧ (t.engOf core e).run = some u ∧ u.prog = p ∧ u.id = c.id ∧ u.upc = 0 ∧ u.idx = p.loops.map (fun _ => 0)
      ∧ u.halted = false ∧ SameMemory s t)
  ∧ (v.queue = c :: rest → s.startDue core e = true → ∀ x, c.kind = .vshape x → ∃ t, exec (.engineCommandStart core e) s = .next t
      ∧ (t.engOf core e).queue = rest ∧ (t.vecOf core e).vshape = x ∧ (t.vecOf core e).v = (s.vecOf core e).v)
  ∧ (s.startDue core e = false → exec (.engineCommandStart core e) s = .next s)
  ∧ (v.queue = c :: rest → s.markerDue core e = true → ∀ m nf, c.kind = .marker m nf → ∃ t, exec (.markerRetire core e) s = .next t
      ∧ (t.engOf core e).queue = rest ∧ (t.engOf core e).last = some m ∧ (t.engOf core e).notified = nf ∧ SameMemory s t)
  ∧ (s.canRetire core e = true → ∃ t, exec (.programRetire core e) s = .next t ∧ (t.engOf core e).run = none ∧ (t.engOf core e).queue = v.queue ∧ SameMemory s t)
  ∧ (s.canRetire core e = false → exec (.programRetire core e) s = .next s)

/-! ## 15: the Rink -/

/-- R281, R293 to R298: a word of the current episode of the acting Rink core, whose cycles fit into the step counter, completes and retires: MB.POLL
gives the queued actions, 8 times the free observation entries and 64 where the lag exceeds MAXLAG; EP.STEP counts a step; MB.RECV takes the
oldest action, its payload into the buffer and its header into rd, and no line of the episode stays in the core's cache; MB.SEND appends an
observation to its gate, of the bytes or of the pointer itself, and counts a step; EP.EXIT ends the episode; an RV64GC word leaves the hart as
its execution gives it, ADDI among them. Every one but EP.EXIT counts one retired instruction. A word whose cycles would pass STEPB has no
effect (log 41). The effect of RV64GC words is the RISC-V specification's (log 30), the lines of the cache and what MB.RECV writes back before it
invalidates log 39's: both the model's choice.

Completion (under the conditions on state and operands named, and no others, exec i s = next t with the t described) of mbPoll, epStep,
epExit, mbRecv, mbSend, rv64gc. -/
def Obligations.RinkWords : Prop := ∀ (s : State) (d r1 r2 : BitVec 5) (w : BitVec 32) (imm : BitVec 12) (id : Nat),
  let vf := id / 4096
  let ep := id % 4096
  let e := s.epOf vf ep
  let gt := s.gateOf e.gate
  let u := s.tickFresh
  let fits := e.stepCyc + s.rinkCost ≤ e.stepb
  let goes := e.totb = 0 ∨ e.steps + 1 ≠ e.totb
  let x (r : BitVec 5) := e.hart.xr r.toNat
  let after (t : State) := t.epOf vf ep
  let moved (t : State) : Prop := (after t).hart.pc = e.hart.pc + 4 ∧ (after t).hart.instret = e.hart.instret + 1 ∧ (after t).state = e.state
  let same (t : State) (ds : List Nat) : Prop := ∀ r, r ∉ ds → (after t).hart.xr r = e.hart.xr r
  let v := (x r2).toNat
  let len := v % 2 ^ 9
  let cut := e.stepCyc + s.rinkCost < e.stepb
  let room := (s.rinkOf s.rinkNo).lines.length + 256 ≤ rinkLines
  let clean := ∀ k ∈ (s.rinkOf s.rinkNo).lines, k.ep = id → k.dirty = 0
  let owned (l : List Nat) := ∀ a ∈ l, ownerMatches vf (s.frameRec (frameOf a)).owner = true
  (s.rinkOf s.rinkNo).current = some id → (s.rinkOf s.rinkNo).machine = false →
  (fits → ∃ t, exec (.mbPoll d) s = .next t ∧ moved t ∧ same t [d.toNat] ∧ SameMemory s t ∧ (after t).steps = e.steps
      ∧ (d ≠ 0 → (after t).hart.xr d.toNat = BitVec.ofNat 64 (gt.acts.length + (4 - gt.obs.length) * 8 + if s.stale vf e then 64 else 0)))
  ∧ (fits → goes → ∃ t, exec .epStep s = .next t ∧ moved t ∧ same t [] ∧ SameMemory s t ∧ (after t).steps = e.steps + 1 ∧ (cut → (after t).stepCyc = 0))
  ∧ (¬ fits → exec .epStep s = .next (((u.rinkTick s.rinkCost).setEp vf ep { e with stepCyc := e.stepb }).push (.stepBudget vf ep)))
  ∧ (fits → e.state = 2 → ∃ t, exec (.epExit r1) s = .next t ∧ (after t).state = 3 ∧ (t.gateOf e.gate).state = 3 ∧ (t.gateOf e.gate).acts = [])
  ∧ (fits → (x r1).toNat % 8 = 0 → ∀ l u', u.rvAccess vf .write (x r1).toNat 256 = .ok l u' → s.stale vf e = false → ∀ m rest, gt.acts = m :: rest →
      ∃ t, exec (.mbRecv r1 d) s = .next t ∧ moved t ∧ same t [d.toNat] ∧ (d ≠ 0 → (after t).hart.xr d.toNat = m.hdr) ∧ (cut → (after t).stepCyc = 0)
      ∧ t.gateOf e.gate = { gt with acts := rest } ∧ (∀ k ∈ (t.rinkOf s.rinkNo).lines, k.ep ≠ id)
      ∧ (room → clean → l.Nodup → owned l → (∀ i < l.length, i < m.data.length → t.rinkByte s.rinkNo id (l.getD i 0) = m.data.getD i 0
            ∧ t.memByte (l.getD i 0) = m.data.getD i 0)
          ∧ ∀ a, a ∉ l.take m.data.length → t.memByte a = s.memByte a))
  ∧ (fits → goes → gt.obs.length < 4 → v = len → len ≤ 256 → ∀ l u', u.rvAccess vf .read (x r1).toNat len = .ok l u' → ∃ t m, exec (.mbSend r2 r1) s = .next t
      ∧ moved t ∧ same t [] ∧ (after t).steps = e.steps + 1 ∧ (room → m.data = l.map (s.rinkByte s.rinkNo id) ∧ (clean → SameMemory s t))
      ∧ (gt.waiters = [] → (t.gateOf e.gate).obs = gt.obs ++ [m]))
  ∧ (fits → goes → gt.obs.length < 4 → v = 2 ^ 15 + 8 → ∃ t m, exec (.mbSend r2 r1) s = .next t ∧ moved t ∧ m.data = natBytes 8 (x r1).toNat
      ∧ (gt.waiters = [] → (t.gateOf e.gate).obs = gt.obs ++ [m]))
  ∧ (fits → ∀ h u', rvExec u vf e.hart u.rinkNow w.toNat = .ok h u' → ∃ t, exec (.rv64gc w) s = .next t ∧ (after t).steps = e.steps
      ∧ (after t).hart = { h with instret := h.instret + 1 })
  ∧ (fits → w = imm ++ r1 ++ (0 : BitVec 3) ++ d ++ (0x13 : BitVec 7) → ∃ t, exec (.rv64gc w) s = .next t ∧ moved t ∧ same t [d.toNat] ∧ SameMemory s t
      ∧ (d ≠ 0 → (after t).hart.xr d.toNat = x r1 + imm.signExtend 64))

/-- R284 to R286, R299 and R300: arming of a descriptor that passes the checks opens the gate and leaves the episode ARMED with its fields and the policy
generation of the moment; a descriptor that is not resident waits, and PAGE_WANTED of KIND 1 reports
its entry (the model's reading of R367, which says KIND of a lot's granule alone: log 42); placing makes the oldest ARMED episode of a die RUNNING on the emptiest core with the entry registers of R286;
a cancel, and a step budget used up in hardware mode, end it, and in host-assisted mode it is suspended until EPRES answers; a used-up
quantum gives the core to a ready episode; EPTBASE and EPTCNT refuse a value outside their rule; POLUPD with bit 0 raises POLGEN.

Completion (under the conditions on state and operands named, and no others, exec i s = next t with the t described) of episodeArm,
episodePlace, episodeCancel, stepBudget, quantumExpiry, epres, eptbaseWrite, eptcntWrite, polupd. -/
def Obligations.EpisodeLife : Prop := ∀ (s : State) (vf ep die n id : Nat) (v : Word), 1 ≤ vf → vf ≤ 64 → ep < 4096 →
  let e := s.epOf vf ep
  let fresh := e.state ≠ 1 ∧ e.state ≠ 2 ∧ e.owed = [] ∧ ep < (s.reg vf 0x38).toNat
  let after (t : State) := t.epOf vf ep
  (fresh → ∀ pa, s.feAddr vf (s.reg vf 0x30 + BitVec.ofNat 64 (64 * ep)) 64 .read = .ok pa →
      let w := fun i => s.memNat (pa + 8 * i) 8
      s.armRefusal vf ep w = none → ∃ t, exec (.episodeArm vf ep) s = .next t
      ∧ (∃ o, after t = { descEpisode w with state := 1, armed := s.nextArm, pin := Tbl.get s.polgen 0 vf, owed := o })
      ∧ (t.gateOf (descEpisode w).gate).state = 2 ∧ (t.gateOf (descEpisode w).gate).episode = ep ∧ (t.gateOf (descEpisode w).gate).acts = []
      ∧ (t.gateOf (descEpisode w).gate).obs = [])
  ∧ (fresh → ∀ pa c, s.feAddr vf (s.reg vf 0x30 + BitVec.ofNat 64 (64 * ep)) 64 .read = .ok pa →
      s.armRefusal vf ep (fun i => s.memNat (pa + 8 * i) 8) = some c → ∃ t, exec (.episodeArm vf ep) s = .next t ∧ (after t).state = 3 ∧ t.gates = s.gates)
  ∧ (fresh → ∀ r, s.feAddr vf (s.reg vf 0x30 + BitVec.ofNat 64 (64 * ep)) 64 .read = .error r → r.cause = 5 →
      ∃ t, exec (.episodeArm vf ep) s = .next t ∧ after t = { e with armWait := true } ∧ (vf, 1, r.detail.toNat / 2 ^ granLog (s.queueTable vf)) ∈ t.pageWanted)
  ∧ (∀ q, s.oldestArmed die = some (id, q) → s.placeCore die = some n → ∃ t, exec (.episodePlace die) s = .next t
      ∧ (Tbl.get t.episodes {} id).state = 2 ∧ (Tbl.get t.episodes {} id).rink = n ∧ (Tbl.get t.episodes {} id).hart.pc = q.entry
      ∧ (Tbl.get t.episodes {} id).hart.xr 2 = BitVec.ofNat 64 q.wsize ∧ (Tbl.get t.episodes {} id).hart.xr 10 = q.arg
      ∧ (Tbl.get t.episodes {} id).hart.xr 11 = BitVec.ofNat 64 q.wsize ∧ (t.rinkOf n).resident = (s.rinkOf n).resident ++ [id])
  ∧ (e.state = 1 ∨ e.state = 2 → ∃ t, exec (.episodeCancel vf ep) s = .next t ∧ (after t).state = 3 ∧ (t.gateOf e.gate).state = 3)
  ∧ (e.state = 2 → e.suspended = false → e.stepb ≤ e.stepCyc → ∃ t, exec (.stepBudget vf ep) s = .next t
      ∧ (s.hostMode vf 6 = false → (after t).state = 3) ∧ (s.hostMode vf 6 = true → (after t).suspended = true ∧ (after t).state = 2))
  ∧ (∀ c, (s.rinkOf n).current = some c → 2 ^ 16 ≤ (Tbl.get s.episodes {} c).quantum → ∃ t, exec (.quantumExpiry n) s = .next t ∧ SameMemory s t
      ∧ (∀ c', (t.rinkOf n).current = some c' → s.epReady c' = true ∧ (Tbl.get t.episodes {} c').quantum = 0 ∧ c' ∈ (s.rinkOf n).resident))
  ∧ (e.state = 2 → e.suspended = true → v.toNat % 4096 = ep → (v.getLsbD 16 = true → exec (.epres vf v) s = .next (s.setEp vf ep { e with suspended := false, stepCyc := 0 }))
      ∧ (v.getLsbD 16 = false → ∃ t, exec (.epres vf v) s = .next t ∧ (after t).state = 3))
  ∧ (∃ t, exec (.eptbaseWrite vf v) s = .next t ∧ t.reg vf 0x30 = (if v.toNat % 64 = 0 then v else 0) ∧ SameMemory s t)
  ∧ (∃ t, exec (.eptcntWrite vf v) s = .next t ∧ t.reg vf 0x38 = (if v.toNat ≤ 4096 then v else 0) ∧ SameMemory s t)
  ∧ (v.getLsbD 0 = true → ∃ t, exec (.polupd vf v) s = .next t ∧ Tbl.get t.polgen 0 vf = (Tbl.get s.polgen 0 vf + 1) % 2 ^ 32)
  ∧ (v.getLsbD 0 = false → exec (.polupd vf v) s = .next s)

/-! ## 02: the allocator -/

/-- R22, R53 to R56 and R380, the allocator's steps: a decision that finds no request changes nothing but the cycle's mark, and one whose first request can be
granted leases its sequencers with the next generation; the class of a waiting request rises by one each 2^AGE cycles, up to 3; a WHOLE
request that has waited HOLD cycles starts the hold, which stands until it is served; a pending plan comes into force when every fragment it
changes is FREE, and the request that asked for it is granted then, beside the cycle's decision (log 101: the model's choice); otherwise, and
under FREEZE, it waits; a DRAINING fragment that is drained becomes FREE.

Completion (under the conditions on state and operands named, and no others, exec i s = next t with the t described) of allocatorDecision,
classAging, wholeHold, planChange, fragmentDrained. -/
def Obligations.AllocatorSteps : Prop := ∀ (s : State) (core seq : Nat) (p : Nat),
  let k := s.coreOf core
  let marked := s.setCore core { k with fragCycle := s.cycle + 1, copyCycle := s.cycle + 1 }
  (k.fragCycle ≠ s.cycle + 1 → k.copyCycle ≠ s.cycle + 1 → k.reqs = [] → exec (.allocatorDecision core) s = .next (marked))
  ∧ (k.fragCycle ≠ s.cycle + 1 → k.copyCycle = s.cycle + 1 → ∀ r rest ss, s.reqsNow core false = r :: rest → r.want = 0 → (s.taskOf r.task).state = .waiting → s.grantable core r = some ss →
      ∃ t, exec (.allocatorDecision core) s = .next t ∧ SameMemory s t ∧ (t.coreOf core).fragGen = k.fragGen + 1 ∧ (t.coreOf core).fragCycle = s.cycle + 1
        ∧ ∀ i ∈ ss, (t.fragOf core i).state = 1 ∧ (t.fragOf core i).gen = (k.fragGen + 1).toNat ∧ (t.fragOf core i).lot = some r.task)
  ∧ (∃ t, exec (.classAging core) s = .next t ∧ (t.coreOf core).reqs.length = k.reqs.length ∧ SameMemory s t
      ∧ ∀ i (h : i < k.reqs.length), ∃ r, (t.coreOf core).reqs[i]? = some r ∧ r.task = k.reqs[i].task
          ∧ r.eff = max k.reqs[i].eff (min 3 (k.reqs[i].cls + (s.cycle - k.reqs[i].since) / 2 ^ (k.allocctl.toNat / 256 % 32))))
  ∧ (∃ t, exec (.wholeHold core) s = .next t ∧ SameMemory s t ∧ (t.coreOf core).plan = k.plan ∧ (t.coreOf core).fragGen = k.fragGen
      ∧ ((t.coreOf core).hold = true ↔ ∃ r ∈ k.reqs, r.holds = true ∨ (r.copy = false ∧ r.shape = 0 ∧ r.since + 2 ^ (k.allocctl.toNat % 32) ≤ s.cycle))
      ∧ (t.coreOf core).reqs.length = k.reqs.length ∧ ∀ i (h : i < k.reqs.length), ∃ b, (t.coreOf core).reqs[i]? = some { k.reqs[i] with holds := b })
  ∧ (k.pendv = true → k.freeze = false → k.pendReq = none → (∀ i < 4, cells k.plan i ≠ cells k.pend i → (s.fragOf core i).state = 0) →
      exec (.planChange core) s = .next (s.setCore core { k with plan := k.pend, pendv := false, pend := 0, pendReq := none }))
  ∧ (∀ r ss, k.pendv = true → k.freeze = false → k.pendReq = some r → (∀ i < 4, cells k.plan i ≠ cells k.pend i → (s.fragOf core i).state = 0) →
      k.reqs.any r.same = true → r.want = 0 → (s.taskOf r.task).state = .waiting →
      (s.setCore core { k with plan := k.pend, pendv := false, pend := 0, pendReq := none }).grantable core r = some ss →
      ∃ t, exec (.planChange core) s = .next t ∧ (t.coreOf core).plan = k.pend ∧ (t.coreOf core).pendv = false
        ∧ ∀ i ∈ ss, (t.fragOf core i).state = 1 ∧ (t.fragOf core i).gen = (k.fragGen + 1).toNat ∧ (t.fragOf core i).lot = some r.task)
  ∧ (k.pendv = false ∨ k.freeze = true → exec (.planChange core) s = .next s)
  ∧ (∀ i < 4, k.pendv = true → cells k.plan i ≠ cells k.pend i → (s.fragOf core i).state ≠ 0 → exec (.planChange core) s = .next s)
  ∧ ((s.fragOf core seq).state = 2 → s.drained core seq = true → ∃ t, exec (.fragmentDrained core seq) s = .next t ∧ (t.fragOf core seq).state = 0
      ∧ (t.fragOf core seq).gen = (s.fragOf core seq).gen ∧ SameMemory s t)
  ∧ ((s.fragOf core seq).state = 2 → s.drained core seq = false → exec (.fragmentDrained core seq) s = .next s)

/-! ## 02 and 23: the life of a task -/

/-- R33, R36, R37, R320 and R385, dispatch and splits: a free slot of a core in service takes the oldest continuation it can, else the oldest range task it can, whose
first lot starts at the kernel's entry with the lot's number and with every register of the context at its lot-start value; with neither, a split of the
largest remainder is proposed to its owner at the middle. An acknowledged split leaves the owner the lower part and gives the asker
the upper one; where the asker's slot has other work by then, has no room for the windows, or may no longer run the VF, the upper part goes into the pool
(log 85: the model's choice); a withdrawn one, and one not acknowledged after 20,000 ticks, leaves the owner its whole range.

Completion (under the conditions on state and operands named, and no others, exec i s = next t with the t described) of taskDispatch,
stealAck, stealWithdraw, stealTimeout. -/
def Obligations.TaskDispatch : Prop := ∀ (s : State) (core slot t a w : Nat), core < 32 → slot < 4 →
  let tk := s.taskOf t
  let nd := s.nodeOf tk.node
  let free := (s.ctxOf core slot).task = none ∧ (s.coreOf core).enabled = true ∧ (s.coreOf core).leaving = none
  let bad (t : Nat) : Bool := ((s.areaOf t).bind fun base => s.areaBad base ((s.taskOf t).cont.getD {})).isSome
  ((s.ctxOf core slot).task.isSome = true → exec (.taskDispatch core slot) s = .next s)
  ∧ (free → s.firstTake core slot true s.pool = some (t, a, w) → bad t = true → exec (.taskDispatch core slot) s = .next (s.reloadFails t))
  ∧ (free → s.firstTake core slot true s.pool = some (t, a, w) → bad t = false → ∃ u, exec (.taskDispatch core slot) s = .next u ∧ (u.ctxOf core slot).task = some t
      ∧ (u.taskOf t).state = .running ∧ t ∉ u.pool ∧ (u.taskOf t).cont = none)
  ∧ (free → s.firstTake core slot true s.pool = none → s.firstTake core slot false s.pool = some (t, a, w) → ∃ u, exec (.taskDispatch core slot) s = .next u
      ∧ (let c := u.ctxOf core slot
         c.task = some t ∧ c.pc = nd.ctl + BitVec.ofNat 64 (4 * nd.entry) ∧ c.lotno = BitVec.ofNat 64 tk.next ∧ c.asize = nd.agran * 65536 ∧ c.wsize = nd.wrows
           ∧ (∀ r, c.sreg r = 0) ∧ (∀ r, c.breg r = 0) ∧ (∀ f, c.flag f = false) ∧ c.tagdone = BitVec.allOnes 64 ∧ c.vshape = 0x1008 ∧ c.held = [])
      ∧ (u.taskOf t).state = .running ∧ (u.taskOf t).next = tk.next + 1 ∧ (u.taskOf t).hi = tk.hi ∧ t ∉ u.pool)
  ∧ (free → s.firstTake core slot true s.pool = none → s.firstTake core slot false s.pool = none → bestSplit (s.splittable core) = none →
      exec (.taskDispatch core slot) s = .next s)
  ∧ (free → s.firstTake core slot true s.pool = none → s.firstTake core slot false s.pool = none → ∀ m o, bestSplit (s.splittable core) = some (t, m, o) →
      exec (.taskDispatch core slot) s = .next ((s.setTask t { tk with split := some (tk.next + (m + 1) / 2, core, slot, s.time) }).push (.stealAck t)))
  ∧ (∀ q tm, tk.split = some (q, core, slot, tm) → t ≠ s.nextTask → ∃ u, exec (.stealAck t) s = .next u ∧ (u.taskOf t).hi = q ∧ (u.taskOf t).split = none
      ∧ (u.taskOf s.nextTask).node = tk.node ∧ (u.taskOf s.nextTask).hi = tk.hi ∧ u.nextTask = s.nextTask + 1
      ∧ (let takes := (s.ctxOf core slot).task = none ∧ (s.coreOf core).leaving = none ∧ s.mayRun core nd.vf = true ∧ Tbl.get s.frozen 0 nd.vf < 2
            ∧ (s.placeWindows core slot (nd.agran * 65536) nd.wrows).isSome = true
         (takes → (u.ctxOf core slot).task = some s.nextTask ∧ (u.taskOf s.nextTask).next = q + 1 ∧ (u.ctxOf core slot).lotno = BitVec.ofNat 64 q)
         ∧ (¬ takes → s.nextTask ∈ u.pool ∧ (u.taskOf s.nextTask).next = q)))
  ∧ exec (.stealWithdraw t) s = .next (s.setTask t { tk with split := none })
  ∧ (∀ q c k at', tk.split = some (q, c, k, at') → (at' + 20000 ≤ s.time → exec (.stealTimeout t) s = .next (s.setTask t { tk with split := none }))
      ∧ (s.time < at' + 20000 → exec (.stealTimeout t) s = .next s))

/-- R41, R42, R45, R52, R308, R376, R385 and R386, the ends of lots and tasks: a lot whose context has exited and whose engines are idle counts for its node and is followed
by the next lot of its task, or ends the task and frees the slot; a satisfied wait's continuation enters the pool; a lost owner's lot goes
back to its checkpoint, or is over where its last phase has committed (R47), and the lots of its range that have not begun become a range task of the pool;
a kill ends a task of the node in whatever state it holds, a running
one at its slot's boundary, once no trap holds it and no fault is posted; so does the posted abort of a cancelled queue; a posted engine fault is taken,
the lowest source first; a stall at its limit traps; a yield ends.

Completion (under the conditions on state and operands named, and no others, exec i s = next t with the t described) of lotComplete,
continuationEnqueue, stealRecovery, nodeKill, postedAbort, postedFault, stallLimit, yieldExpiry. -/
def Obligations.TaskEnds : Prop := ∀ (s : State) (core slot t n : Nat), slot < 4 →
  let c := s.ctxOf core slot
  let tk := s.taskOf t
  let isOver := c.task = some t ∧ c.exited = true ∧ c.stopped = none ∧ c.posted = [] ∧ c.stopping = none ∧ (∀ e ∈ s.enginesOf core slot, s.engineBusy core e = false)
    ∧ tk.state = .running ∧ tk.split = none ∧ tk.between = false
  let rest (u : State) : Prop := tk.next < tk.hi → t ≠ s.nextTask → s.nextTask ∈ u.pool ∧ (u.taskOf s.nextTask).node = tk.node
    ∧ (u.taskOf s.nextTask).next = tk.next ∧ (u.taskOf s.nextTask).hi = tk.hi ∧ (u.taskOf t).hi = tk.next ∧ (u.taskOf t).split = none
  (isOver → tk.next < tk.hi → ∃ u, exec (.lotComplete core slot) s = .next u ∧ (u.ctxOf core slot).task = some t ∧ (u.ctxOf core slot).lotno = BitVec.ofNat 64 tk.next
      ∧ (u.ctxOf core slot).exited = false ∧ (u.taskOf t).next = tk.next + 1 ∧ (u.nodeOf tk.node).done = (s.nodeOf tk.node).done + 1
      ∧ (u.ctxOf core slot).pc = (s.nodeOf tk.node).ctl + BitVec.ofNat 64 (4 * (s.nodeOf tk.node).entry))
  ∧ (isOver → tk.hi ≤ tk.next → ∃ u, exec (.lotComplete core slot) s = .next u ∧ (u.ctxOf core slot).task = none ∧ (u.taskOf t).state = .done)
  ∧ (c.task = some t → c.exited = false → exec (.lotComplete core slot) s = .next s)
  ∧ (tk.state = .waiting → ∃ u, exec (.continuationEnqueue t) s = .next u ∧ (u.taskOf t).state = .pooled ∧ t ∈ u.pool ∧ SameMemory s u)
  ∧ (tk.state = .running → exec (.continuationEnqueue t) s = .next s)
  ∧ (c.task = some t → c.exited = true → ∃ u, exec (.stealRecovery core slot) s = .next u ∧ (u.taskOf t).state = .done ∧ (u.ctxOf core slot).task = none
      ∧ rest u)
  ∧ (c.task = some t → c.exited = false → ∃ u, exec (.stealRecovery core slot) s = .next u ∧ (u.taskOf t).state = .aborting
      ∧ (∃ ar, (u.taskOf t).cont = some ar ∧ ar.ctx.pc = c.check.pc) ∧ rest u)
  ∧ (((s.tasks.filter fun p => decide (p.2.node = n)).map (·.1)) = [t] → tk.state.ended = false →
      (tk.state ≠ .running → ∃ u, exec (.nodeKill n) s = .next u ∧ (u.taskOf t).state = .killed)
      ∧ (tk.state = .running → s.slotOf t = some (core, slot) → c.task = some t →
          ∃ u, exec (.nodeKill n) s = .next u ∧ (u.ctxOf core slot).postedKill = some (s.nodeOf n).cause ∧ (u.taskOf t).state = .running))
  ∧ (c.task = some t → c.endNow = true → ∃ u, exec (.postedAbort core slot) s = .next u ∧ (u.ctxOf core slot).task = none
      ∧ (u.taskOf t).state = (if c.postedKill.isSome then .killed else .cancelledRunning))
  ∧ (c.task = some t → c.endNow = false → exec (.postedAbort core slot) s = .next s)
  ∧ (∀ r, firstFault c.posted = some r → c.stopped = none → c.task = some t → tk.state = .running → exec (.postedFault core slot) s =
      .next ((s.setCtx core slot { c with posted := c.posted.erase r }).enterFault core slot { r with pc := c.pc }))
  ∧ (c.stallLim ≤ c.stall → c.task = some t → c.stopped = none → exec (.stallLimit core slot) s = .next (s.takeTrap core slot { cause := 17 }))
  ∧ (c.stall < c.stallLim → exec (.stallLimit core slot) s = .next s)
  ∧ (∀ at' l, c.yieldTo = some (at', l) → (at' ≤ s.cycle ∨ l = []) → exec (.yieldExpiry core slot) s = .next (s.setCtx core slot { c with yieldTo := none }))

/-! ## 23: services of firmware -/

/-- R374, R383, R387, R388, R404 and R214, firmware's services: a touch of a slab another task holds spills the holder's 4096 bytes for its task, into its context area where it has one,
with the slab's bit of the spill bitmap (no other memory changes but the toucher's bitmap), gives the toucher its own
copy or +0.0, and the code, at once in hardware mode and after the hypervisor's ACCREL in host-assisted mode, by the mode of the time of the touch, and
where a program runs in the firmware context it is left to that program; the host's answer to a held
fault restores the task or kills its node; a Market word that found its index full is issued again when its time has come; a watchdog's
expiry is reported and restarts its agent alone: a firmware context, with its event 33, or the scheduling processor, whose queues take what their control
blocks hold.

Completion (under the conditions on state and operands named, and no others, exec i s = next t with the t described) of accForeign, accrel,
faultres, mkFullRetry, watchdog. -/
def Obligations.FirmwareServices : Prop := ∀ (s : State) (core slab slot vf : Nat) (v : Word),
  let k := s.coreOf core
  let asks := s.hostMode (s.vfOf core slot) 7
  let h := s.accCode core slab
  (∀ t y, k.foreign.contains (slab, slot, false) = true → (s.ctxOf core slot).task = some t → s.slabTask core slab = some y → y ≠ t → h ≠ slot → h ≠ 4 → s.passWrites core slab = false → slot < 4 →
      ∃ u, exec (.accForeign core slab slot) s = .next u ∧ u.accCode core slab = slot
        ∧ Tbl.get (u.taskOf y).spilled [] slab = s.slabData core slab
        ∧ (Tbl.find? (s.taskOf t).spilled slab = none → slab < 2048 → ∀ i < 1024, u.cElem core (slab * 4096 + 4 * i) = 0)
        ∧ (∀ l, Tbl.find? (s.taskOf t).spilled slab = some l → l.length = 1024 → slab < 2048 → ∀ i < 1024, u.cElem core (slab * 4096 + 4 * i) = l.getD i 0)
        ∧ (∀ j, j ≠ slab → u.accCode core j = s.accCode core j)
        ∧ (∀ pa, (∀ x b, (x = y ∨ x = t) → s.areaOf x = some b → (pa < b + 0x1F00 ∨ b + 0x2000 ≤ pa)
            ∧ (pa < b + 0x30000 + 4096 * slab ∨ b + 0x31000 + 4096 * slab ≤ pa)) → u.memByte pa = s.memByte pa)
        ∧ (∀ b, s.areaOf y = some b → (∀ b', s.areaOf t = some b' → b' + 0x2000 ≤ b ∨ b + 0x830000 ≤ b') → slab < 2048 → b + 0x830000 ≤ physLimit →
            (u.memByte (b + 0x1F00 + slab / 8)).getLsbD (slab % 8) = true
            ∧ ∀ e < 1024, ∀ i < 4, u.memByte (b + 0x30000 + 4096 * slab + 4 * e + i) =
                BitVec.ofNat 8 ((s.cElem core (slab * 4096 + 4 * e)).toNat / 256 ^ i)))
  ∧ ((∀ f ∈ k.foreign, f.1 ≠ slab ∨ f.2.1 ≠ slot) →
      let noted := s.setCore core { k with foreign := k.foreign ++ [(slab, slot, asks || k.fwProgram)] }
      (asks = true → exec (.accForeign core slab slot) s = .next (noted.hyperNotice 24 (s.vfOf core slot) (slab + core * 2 ^ 16 + slot * 2 ^ 24)))
      ∧ (asks = false → k.fwProgram = true → exec (.accForeign core slab slot) s = .next noted)
      ∧ (asks = false → k.fwProgram = false → exec (.accForeign core slab slot) s = .next (noted.push (.accForeign core slab slot))))
  ∧ (k.foreign.contains (slab, slot, false) = false → k.foreign.contains (slab, slot, true) = true → exec (.accForeign core slab slot) s = .next s)
  ∧ (let c := v.toNat / 2 ^ 16 % 32
     let j := v.toNat % 2048
     let x := v.toNat / 2 ^ 24 % 8
     ((s.coreOf c).foreign.contains (j, x, true) = true → exec (.accrel v) s = .next (((s.setReg 0 0x3080 v).setCore c
       { s.coreOf c with foreign := (s.coreOf c).foreign.map fun f => if f.1 = j ∧ f.2.1 = x then (j, x, false) else f }).serveForeign c j x))
     ∧ ((s.coreOf c).foreign.contains (j, x, true) = false → exec (.accrel v) s = .next (s.setReg 0 0x3080 v)))
  ∧ (let held := List.find? (fun (p : Nat × Task) => p.2.heldFault && decide (p.2.ctxId = some (v.toNat % 2 ^ 16)) && decide ((s.nodeOf p.2.node).vf = vf)) s.tasks
     (held = none → exec (.faultres vf v) s = .next s)
     ∧ (∀ t tk, held = some (t, tk) →
        (v.getLsbD 16 = true → (∃ a, tk.cont = some a ∧ a.lease = 0) →
          ∃ u, exec (.faultres vf v) s = .next u ∧ t ∈ u.pool ∧ (u.taskOf t).heldFault = false ∧ (u.taskOf t).cont = tk.cont ∧ SameMemory s u)
        ∧ (v.getLsbD 16 = false → ∃ u, exec (.faultres vf v) s = .next u ∧ (u.taskOf t).state = .killed ∧ (u.nodeOf tk.node).killed = true)))
  ∧ (∀ tm, (s.ctxOf core slot).retryAt = some tm →
      (tm ≤ s.time → (s.ctxOf core slot).stopped = some 14 → exec (.mkFullRetry core slot) s =
        .next (s.setCtx core slot { s.ctxOf core slot with stopped := none, retryAt := none }))
      ∧ (s.time < tm → exec (.mkFullRetry core slot) s = .next s))
  ∧ (let told : State := { s with errors := s.errors ++ [(33, core)] }
     (core < 32 → exec (.watchdog core) s =
        .next ((((told.setCore core { k with wdogAt := none, fwAwake := false }).raiseEvent core 33 33).unstop core).setCtx core 4 {}))
     ∧ (core = 32 → exec (.watchdog core) s = .next { told with wdogs := Tbl.del s.wdogs 32, queues := s.queues.map fun p => (p.1, p.2.recover) })
     ∧ (core = 33 → exec (.watchdog core) s = .next { told with wdogs := Tbl.del s.wdogs 33 }))

/-! ## 03 and 21: the home slice -/

/-- R67, R70 to R73, R343, R368 and R370, the home slice: a dirty tile is written back under its next version and its owner's newest key generation (log 48: the
model's choice), with Z exactly where all its bytes are zero (R73), and every byte reads as before (where
nobody tracks the frame's writes); a tile that is not dirty throughout and does not verify loses its dirty bytes, and SEAL_FAIL goes to the hypervisor with the
tile's address and to the owner with its guest address; one whose version would
wrap stays dirty; a tile that is not dirty leaves the far cache. A host access to device memory within the HDM range that the owner and seal checks pass is
performed, on tile metadata too, and one they refuse changes no memory.

Completion (under the conditions on state and operands named, and no others, exec i s = next t with the t described) of writeback,
hostMemAccess. -/
def Obligations.HomeSlice : Prop := ∀ (s : State) (tile pa size : Nat) (v : Word),
  let lo := tile * 4096
  let f := tile / 512
  let x := s.tile tile
  let dirty := (s.fcache.filter fun p => decide (lo ≤ p.1) && decide (p.1 < lo + 4096)).length
  (0 < dirty → (dirty = 4096 ∨ 4096 ≤ dirty ∨ x.bad = false) → x.ver < maxVer → Tbl.find? s.trackAt (s.frameRec f).owner = none → s.Inv → (s.fcache.map (·.1)).Nodup →
      ∃ u, exec (.writeback tile) s = .next u ∧ SameMemory s u ∧ u.Inv
        ∧ (u.tile tile).ver = x.ver + 1 ∧ (u.tile tile).kgen = s.newGen (s.frameRec f).owner ∧ (u.tile tile).bad = false
        ∧ ((u.tile tile).z = true ↔ ∀ a, lo ≤ a → a < lo + 4096 → s.memByte a = 0)
        ∧ ∀ a, lo ≤ a → a < lo + 4096 → Tbl.find? u.fcache a = none)
  ∧ (dirty = 0 → exec (.writeback tile) s = .next (s.setTile tile { x with present := [], owner := none }))
  ∧ (0 < dirty → dirty < 4096 → x.bad = true → exec (.writeback tile) s =
      .next ((((s.dropDirty lo (lo + 4096)).evict tile).hyperNotice 18 (s.frameRec f).owner lo).vfNotice (s.frameRec f).owner 18 0xFF 0xFFFF
        ((s.frameRec f).gframe * 2 ^ 21 + tile % 512 * 4096)))
  ∧ (0 < dirty → (4096 ≤ dirty ∨ x.bad = false) → maxVer ≤ x.ver → x.exhausted = true → exec (.writeback tile) s = .next s)
  ∧ (0 < dirty → (4096 ≤ dirty ∨ x.bad = false) → maxVer ≤ x.ver → x.exhausted = false →
      exec (.writeback tile) s = .next ((s.setTile tile { x with exhausted := true }).sealExhaust tile))
  ∧ (let refusal := (linesOf pa size).findSome? fun l => s.lineCheck (s.frameRec (frameOf l)).owner l
     ((8 < size ∨ min s.hdmSize (2 ^ 18) * 2 ^ 21 < pa + size) → ∀ w, exec (.hostMemAccess w pa size v) s = .next s)
     ∧ (pa + size ≤ min s.hdmSize (2 ^ 18) * 2 ^ 21 → size ≤ 8 →
      (refusal = none → (metaTile pa).isSome = true → exec (.hostMemAccess true pa size v) s = .next (s.metaWrite pa size v.toNat)
          ∧ exec (.hostMemAccess false pa size v) s = .next s)
      ∧ (refusal = none → ∀ m, metaTile pa = some m → pa % 16 + size ≤ 16 → (s.metaWrite pa size v.toNat).metaWord m / 256 ^ (pa % 16) % 256 ^ size = v.toNat % 256 ^ size
          ∧ ∀ j, j ≠ m → (s.metaWrite pa size v.toNat).tile j = s.tile j)
      ∧ (refusal = none → metaTile pa = none → (∃ u, exec (.hostMemAccess true pa size v) s = .next u
          ∧ (∀ i < size, u.memByte (pa + i) = BitVec.ofNat 8 (v.toNat / 256 ^ i)) ∧ ∀ a, (a < pa ∨ pa + size ≤ a) → u.memByte a = s.memByte a)
        ∧ ∃ u, exec (.hostMemAccess false pa size v) s = .next u ∧ SameMemory s u)
      ∧ (∀ w c, refusal = some c → c ≠ 9 → exec (.hostMemAccess w pa size v) s = .next s)
      ∧ (∀ w, refusal = some 9 → exec (.hostMemAccess w pa size v) s = .next (s.sealNotices (linesOf pa size)))))

/-! ## 21: queues and packets -/

/-- R347, R349, R352 and R357, the queues: a kick reads the write index, which an enabling takes as the read index too, and which halts the queue with PACKET_BAD where it
lies behind the read index or further ahead than the ring is long; an access that waits keeps the kick; one that fails halts the queue, or
leaves an enabling undone. QCTL stores the fields, clears HALTED where a one is written and disables with EN 0, with a bad LOG2N or where a
version fails, with a VERSION notice at each attempt (R357); VERSEL is ignored while a queue is enabled. QCANCEL without GO does nothing; with it, packets
that have not started and waits are gone, the read index is the write index, and the queue's graphs have stopped.

Completion (under the conditions on state and operands named, and no others, exec i s = next t with the t described) of queueKick,
queueCtlWrite, verselWrite, queueCancel. -/
def Obligations.Queues : Prop := ∀ (s : State) (vf q : Nat) (v : Word), 1 ≤ vf → vf ≤ 64 → q < 64 →
  let x := s.queueOf vf q
  let ask := s.feAsk vf .read (s.reg vf (0x1000 + 64 * q + 0x10)) 1
  (x.en = false → exec (.queueKick vf q) s = .next s)
  ∧ (∀ l w, x.en = true → ask = .ok l → w = ((s.feWords l).headD 0).toNat →
      (x.start = false → x.ridx ≤ w → w ≤ x.ridx + 2 ^ s.qLog vf q → ∃ u, exec (.queueKick vf q) s = .next u ∧ (u.queueOf vf q).windex = w
          ∧ (u.queueOf vf q).ridx = x.ridx ∧ (u.queueOf vf q).halted = x.halted ∧ (u.queueOf vf q).kick = false ∧ SameMemory s u)
      ∧ (x.start = false → (w < x.ridx ∨ x.ridx + 2 ^ s.qLog vf q < w) → ∃ u, exec (.queueKick vf q) s = .next u ∧ (u.queueOf vf q).halted = true
          ∧ (u.queueOf vf q).windex = x.windex)
      ∧ (x.start = true → ∃ u, exec (.queueKick vf q) s = .next u ∧ (u.queueOf vf q).windex = w ∧ (u.queueOf vf q).ridx = w
          ∧ (u.queueOf vf q).start = false ∧ SameMemory s u))
  ∧ (∀ u, x.en = true → ask = .wait u → exec (.queueKick vf q) s = .next (u.setQueue vf q { x with kick := true }))
  ∧ (∀ c u, x.en = true → ask = .bad c u → ∃ t, exec (.queueKick vf q) s = .next t
      ∧ (if x.start then (t.queueOf vf q).en = false else (t.queueOf vf q).halted = true))
  ∧ (let n := v.toNat / 2 % 32
     let agree := versionFails (s.reg vf 8) = []
     (v.getLsbD 0 = false ∨ ((n < 4 ∨ 16 < n) ∧ agree) → ∃ u, exec (.queueCtlWrite vf q v) s = .next u ∧ (u.queueOf vf q).en = false
        ∧ (u.queueOf vf q).halted = (x.halted && !v.getLsbD 19) ∧ SameMemory s u)
     ∧ (v.getLsbD 0 = true → 4 ≤ n → n ≤ 16 → agree → x.en = true → ∃ u, exec (.queueCtlWrite vf q v) s = .next u ∧ (u.queueOf vf q).en = true
        ∧ (u.queueOf vf q).halted = (x.halted && !v.getLsbD 19) ∧ (u.queueOf vf q).ridx = x.ridx ∧ SameMemory s u)
     ∧ (∀ b r, v.getLsbD 0 = true → versionFails (s.reg vf 8) = b :: r → ∃ u w, exec (.queueCtlWrite vf q v) s = .next u
        ∧ (u.queueOf vf q).en = false ∧ u = w.notice vf 8 q 0xFFFF b ∧ SameMemory s w)
     ∧ (∀ l, v.getLsbD 0 = true → 4 ≤ n → n ≤ 16 → x.en = false → agree → ask = .ok l →
        ∃ u, exec (.queueCtlWrite vf q v) s = .next u ∧ (u.queueOf vf q).en = true ∧ (u.queueOf vf q).start = false
          ∧ (u.queueOf vf q).ridx = ((s.feWords l).headD 0).toNat ∧ (u.queueOf vf q).windex = ((s.feWords l).headD 0).toNat))
  ∧ ((∃ j < 64, (s.queueOf vf j).en = true) → exec (.verselWrite vf v) s = .next s)
  ∧ ((∀ j < 64, (s.queueOf vf j).en = false) → exec (.verselWrite vf v) s =
      .next ((versionFails v).foldl (fun σ b => σ.notice vf 8 0xFF 0xFFFF b) (s.setReg vf 8 v)))
  ∧ (v.getLsbD 0 = false → exec (.queueCancel vf q v) s = .next s)
  ∧ (v.getLsbD 0 = true → ∃ u, exec (.queueCancel vf q v) s = .next u
      ∧ (u.queueOf vf q).windex = (u.queueOf vf q).ridx ∧ (u.queueOf vf q).kick = false
      ∧ (∀ l, s.fePlace vf .read (s.reg vf (0x1000 + 64 * q + 0x10)) 1 = .ok l → (u.queueOf vf q).ridx = ((s.feWords l).headD 0).toNat)
      ∧ (∀ p ∈ (u.queueOf vf q).packets, pktType (p.words.headD 0) ≠ 3 ∧ ∃ y ∈ x.packets, y.idx = p.idx ∧ y.words = p.words ∧ (pktType (p.words.headD 0) ≠ 1 → y = p))
      ∧ (∀ p ∈ u.graphs, p.2.vf = vf → p.2.queue = q → p.2.finished = false → p.2.stopped = true ∧ p.2.ready = []))

/-- R348, R350 and R351, packets: a front end accepts one packet a step, of the queue its turn chooses: the read index passes it and its effect starts; a slot that fails its
checks halts the queue. SIGNAL sets or adds to its word; WAIT completes at once or leaves a watch; MARKER writes its value and then the
time; COPY goes on line by line; an effect performed completes the packet, which leaves the queue with its interrupt, which is withheld and pending where its
vector is masked (log 98: the model's choice, PCI Express's). A packet's number is its index, told from that of an earlier packet that still runs (R349). An access that
waits leaves the packet as it is, and one that fails drops it and halts the queue.

Completion (under the conditions on state and operands named, and no others, exec i s = next t with the t described) of packetAccept,
packetSignal, packetComplete, packetWait, packetMarker, packetCopy. -/
def Obligations.Packets : Prop := ∀ (s : State) (fe vf q idx : Nat) (a v c : Word),
  (s.feChoice fe = none → exec (.packetAccept fe) s = .next s)
  ∧ (∀ n l ws, s.feChoice fe = some ((vf, q), n) → s.nextPacket vf q = some (.ok l, ws) →
      (packetOk ws = true → ∃ u, exec (.packetAccept fe) s = .next u ∧ (u.queueOf vf q).ridx = (s.queueOf vf q).ridx + 1
          ∧ (let no := (s.queueOf vf q).packetNo
             (u.queueOf vf q).packets = (s.queueOf vf q).packets ++ [{ idx := no, words := ws }] ∧ u.agenda = s.agenda ++ [.due (packetDue vf q no ws)]
             ∧ no % 2 ^ 64 = (s.queueOf vf q).ridx % 2 ^ 64 ∧ ∀ p ∈ (s.queueOf vf q).packets, p.idx ≠ no) ∧ SameMemory s u)
      ∧ (packetOk ws = false → ∃ u, exec (.packetAccept fe) s = .next u ∧ (u.queueOf vf q).ridx = (s.queueOf vf q).ridx + 1
          ∧ (u.queueOf vf q).halted = true ∧ (u.queueOf vf q).packets = (s.queueOf vf q).packets))
  ∧ (∀ p, s.packetOf vf q idx = some p → p.state = 0 →
      (∀ add l, s.feAsk vf (if add then .rmw else .write) a 1 = .ok l →
          ∃ u, exec (.packetSignal vf q idx a v add) s = .next u
            ∧ u.memNat (l.headD 0) 8 = (if add then (s.memNat (l.headD 0) 8 + v.toNat) % 2 ^ 64 else v.toNat)
            ∧ (∀ b, (b < l.headD 0 ∨ l.headD 0 + 8 ≤ b) → u.memByte b = s.memByte b)
            ∧ u.packetOf vf q idx = some { p with state := 1 } ∧ Act.due (.packetComplete vf q idx) ∈ u.agenda)
      ∧ (∀ cond l, s.feAsk vf .read a 1 = .ok l →
          (watchHolds cond.toNat (s.memNat (l.headD 0) 8) v.toNat = true → ∃ u, exec (.packetWait vf q idx a v cond) s = .next u
            ∧ u.packetOf vf q idx = some { p with state := 1 } ∧ Act.due (.packetComplete vf q idx) ∈ u.agenda ∧ u.watches = s.watches ∧ SameMemory s u)
          ∧ (watchHolds cond.toNat (s.memNat (l.headD 0) 8) v.toNat = false → ∃ u, exec (.packetWait vf q idx a v cond) s = .next u
            ∧ u.watches = s.watches ++ [{ pa := l.headD 0, cond := cond.toNat, value := v, packet := some (vf, q, idx) }] ∧ SameMemory s u))
      ∧ (∀ l, s.feAsk vf .write a 2 = .ok l → exec (.packetMarker vf q idx a v) s =
          .next (((s.writeNat (l.headD 0) 8 v.toNat).writeNat (l.getD 1 0) 8 s.time).packetDone vf q p))
      ∧ (let r := s.copyLines vf a v p.left ((c.toNat - p.left) / 64)
         (r.2.2.1 = none → r.2.2.2 = false → exec (.packetCopy vf q idx a v c) s = .next (r.1.packetDone vf q { p with left := r.2.1 }))
         ∧ (r.2.2.1 = none → r.2.2.2 = true → exec (.packetCopy vf q idx a v c) s = .next (r.1.setPacket vf q { p with left := r.2.1 }))
         ∧ ∀ x, r.2.2.1 = some x → exec (.packetCopy vf q idx a v c) s = .next ((r.1.dropPacket vf q idx).haltQueue vf q 10 (copyFault x)))
      ∧ (∀ add u, s.feAsk vf (if add then .rmw else .write) a 1 = .wait u → exec (.packetSignal vf q idx a v add) s = .next u ∧ u.packetOf vf q idx = some p)
      ∧ (∀ cond u, s.feAsk vf .read a 1 = .wait u → exec (.packetWait vf q idx a v cond) s = .next u ∧ u.packetOf vf q idx = some p ∧ u.watches = s.watches)
      ∧ (∀ u, s.feAsk vf .write a 2 = .wait u → exec (.packetMarker vf q idx a v) s = .next u ∧ u.packetOf vf q idx = some p)
      ∧ (∀ x u, s.feAsk vf .write a 1 = .bad x u → exec (.packetSignal vf q idx a v false) s = .next (u.packetFault vf q idx x)))
  ∧ (∀ p, s.packetOf vf q idx = some p → p.state ≠ 1 → exec (.packetComplete vf q idx) s = .next s)
  ∧ (∀ p, s.packetOf vf q idx = some p → p.state = 1 → (∀ w ∈ s.watches, w.packet ≠ some (vf, q, idx)) →
      ∃ u, exec (.packetComplete vf q idx) s = .next u ∧ u.packetOf vf q idx = none
        ∧ u.irqs = (if pktIrq (p.words.headD 0) && !s.msixMasked vf (s.qVec vf q) then s.irqs ++ [(vf, s.qVec vf q)] else s.irqs) ∧ SameMemory s u
        ∧ (pktIrq (p.words.headD 0) = true → s.msixMasked vf (s.qVec vf q) = true → Tbl.get u.msixPending false (vf * 64 + s.qVec vf q) = true))

/-! ## 21: graphs -/

/-- R32, R35, R319, R353 and R401, launch graphs: an accepted table becomes a graph whose nodes without predecessors are ready; the head of the ready queue becomes one range task
of all its lots, or stops the graph with HEADER_BAD; a completion lowers each successor's counter once and readies those at zero, or, in
host-assisted mode, is posted for the host, which releases the nodes.

Completion (under the conditions on state and operands named, and no others, exec i s = next t with the t described) of packetLaunchGraph,
nodeLaunch, nodeComplete, noderel. -/
def Obligations.Graphs : Prop := ∀ (s : State) (vf q idx g n : Nat) (gtab csig cval v : Word),
  let gr := s.graphOf g
  let nd := s.nodeOf n
  (∀ p l l', s.packetOf vf q idx = some p → p.state = 0 → (csig = 0 ∨ ∃ k, s.feAsk vf .write csig 1 = .ok k) → s.feAsk vf .read gtab 8 = .ok l →
      graphHeadBad (fun k => ((s.feWords l).getD k 0).toNat) = none →
      (s.feFill l).feAsk vf .read gtab (8 + 32 * bits ((s.feWords l).headD 0).toNat 31 16) = .ok l' →
      graphBad (s.feWords l') (bits ((s.feWords l).headD 0).toNat 31 16) = none →
      ∃ u, exec (.packetLaunchGraph vf q idx gtab csig cval) s = .next u ∧ u.nextGraph = s.nextGraph + 1 ∧ SameMemory s u
        ∧ (u.packetOf vf q idx) = some { p with state := 2, graph := some s.nextGraph }
        ∧ u.graphOf s.nextGraph = makeGraph vf q idx gtab csig cval (s.hostMode vf 3) (s.feWords l') (bits ((s.feWords l).headD 0).toNat 31 16))
  ∧ (∀ i, gr.stopped = false → gr.finished = false → s.mayLaunch gr.vf = true → gr.head = some i → s.headerBad gr.vf (Tbl.get gr.hdrs [] i) = none →
      ∃ u, exec (.nodeLaunch g) s = .next u ∧ s.nextTask ∈ u.pool ∧ (u.taskOf s.nextTask).node = s.nextNode ∧ (u.taskOf s.nextTask).next = 0
        ∧ (u.taskOf s.nextTask).hi = (headerNode (Tbl.get gr.hdrs [] i)).lotCount ∧ (u.nodeOf s.nextNode).graph = some g ∧ (u.nodeOf s.nextNode).index = i
        ∧ (u.nodeOf s.nextNode).vf = gr.vf ∧ i ∉ (u.graphOf g).ready ∧ u.nextTask = s.nextTask + 1 ∧ u.nextNode = s.nextNode + 1 ∧ SameMemory s u)
  ∧ (∀ i off, gr.stopped = false → gr.finished = false → s.mayLaunch gr.vf = true → gr.head = some i → s.headerBad gr.vf (Tbl.get gr.hdrs [] i) = some off →
      ∃ u, exec (.nodeLaunch g) s = .next u ∧ (u.graphOf g).stopped = true ∧ u.nextTask = s.nextTask)
  ∧ ((gr.stopped = true ∨ gr.finished = true ∨ s.mayLaunch gr.vf = false ∨ gr.head = none) → exec (.nodeLaunch g) s = .next s)
  ∧ ((nd.finished = false ∨ nd.counted = true) → exec (.nodeComplete n) s = .next s)
  ∧ (∀ gr', nd.finished = true → nd.counted = false → nd.killed = false → nd.graph = some g → gr.stopped = false → gr.finished = false → gr.assisted = false →
      ({ gr with done := gr.done ++ [nd.index] } : Graph).decrements (Tbl.get gr.succ [] nd.index) = (gr', none) → gr'.done.length ≠ gr'.nodes →
      ∃ u, exec (.nodeComplete n) s = .next u ∧ u.graphOf g = gr' ∧ (u.nodeOf n).counted = true ∧ SameMemory s u)
  ∧ (∀ k, Tbl.get gr.counts 0 k = 1 → ∃ x, gr.decrement k = some x ∧ k ∈ x.ready ∧ Tbl.get x.counts 0 k = 0)
  ∧ (∀ k m, Tbl.get gr.counts 0 k = m + 2 → ∃ x, gr.decrement k = some x ∧ x.ready = gr.ready ∧ Tbl.get x.counts 0 k = m + 1)
  ∧ (let w := v.toNat % 2 ^ 16
     let hit := List.find? (fun (p : Nat × Graph) => decide (p.2.vf = vf) && decide (p.2.queue = v.toNat / 2 ^ 16 % 64) && decide (p.2.packet % 2 ^ 32 = v.toNat / 2 ^ 32 % 2 ^ 32)
        && p.2.assisted && !p.2.finished && !p.2.stopped) s.graphs
     (hit = none → exec (.noderel vf v) s = .next s)
     ∧ ∀ gn x, hit = some (gn, x) → w < x.nodes → Tbl.find? x.launched w = none → w ∉ x.ready →
        exec (.noderel vf v) s = .next (s.setGraph gn { x with ready := x.ready ++ [w] }))

/-! ## 21: registers and gates -/

/-- R10, R344, R345, R355 and R358, registers and gates: a register without a behaviour of its own takes the value written, its reserved bits zero; a 32-bit access, a
register that is not listed and a read-only one change nothing, and a 32-bit access reads zero; BAR4 (bars 128 to 192 by log 88) takes 32-bit writes into its MSI-X table; NCTL keeps DROPS, and setting EN starts the write count at zero. BIND binds an
unbound gate; UNBIND leaves it unbound and kills the launch node of every lot that waits on it; READ reports a gate's state.

Completion (under the conditions on state and operands named, and no others, exec i s = next t with the t described) of registerWrite,
gateBind, gateUnbind, gateRead. -/
def Obligations.RegistersAndGates : Prop := ∀ (s : State) (bar off : Nat) (v : Word),
  ((bar < 128 ∨ 194 < bar) → exec (.registerWrite bar off v false) s = .next s)
  ∧ (bar ≤ 64 → s.readReg bar off false = 0) ∧ (bar ≤ 64 → off % 8 ≠ 0 → s.readReg bar off true = 0)
  ∧ (1 ≤ bar → bar ≤ 64 → (s.setReg bar 0x10 v).readReg bar 0x10 true = v)
  ∧ (bar ≤ 64 → off < 1024 → off % 4 = 0 → exec (.registerWrite (128 + bar) off v false) s = .next (s.writeMsix bar (off / 4) (v.truncate 32)))
  ∧ (1 ≤ bar → bar ≤ 64 → off % 8 = 0 → off ≠ 0x18 → vfPlain off = true → exec (.registerWrite bar off v true) s = .next (s.setReg bar off v))
  ∧ (1 ≤ bar → bar ≤ 64 → off ≠ 0x18 → vfPlain off = false → exec (.registerWrite bar off v true) s = .next s)
  ∧ (off % 8 = 0 → off < 0x8000 → pfPlain off = true → ¬ (0x5500 ≤ off ∧ off < 0x5D00 ∧ off % 64 = 0) → exec (.registerWrite 0 off v true) s = .next (s.setReg 0 off v))
  ∧ (off = 0x3010 ∨ off = 0x2408 → exec (.registerWrite 0 off v true) s = .next s)
  ∧ ((s.setReg bar off v).reg bar off = v &&& BitVec.ofNat 64 (regBits bar off))
  ∧ (1 ≤ bar → bar ≤ 64 → ∃ t, exec (.registerWrite bar 0x18 v true) s = .next t
      ∧ (t.reg bar 0x18).toNat / 2 ^ 32 = (s.reg bar 0x18).toNat / 2 ^ 32
      ∧ (t.reg bar 0x18).getLsbD 0 = v.getLsbD 0
      ∧ Tbl.get t.nwrite 0 bar = if v.getLsbD 0 && !(s.reg bar 0x18).getLsbD 0 then 0 else Tbl.get s.nwrite 0 bar)
  ∧ (let g := v.toNat % 4096
     let vf := v.toNat / 2 ^ 16 % 256
     let gt := s.gateOf g
     (1 ≤ vf → vf ≤ 64 → gt.state = 0 → exec (.gateBind v) s = .next ((s.setGate g { state := 1, vf := vf }).gateStatus v 0))
     ∧ (1 ≤ vf → vf ≤ 64 → gt.state ≠ 0 → exec (.gateBind v) s = .next (s.gateStatus v 1))
     ∧ ((vf = 0 ∨ 64 < vf) → exec (.gateBind v) s = .next (s.gateStatus v 3))
     ∧ (gt.state = 0 → exec (.gateUnbind v) s = .next (s.gateStatus v 2))
     ∧ (gt.state ≠ 0 → ∃ t, exec (.gateUnbind v) s = .next t ∧ t.gateOf g = {} ∧ ∀ w ∈ gt.waiters, (t.nodeOf (s.taskOf w.1).node).killed = true)
     ∧ (∃ t, exec (.gateRead v) s = .next t ∧ t.reg 0 0x2408 = BitVec.ofNat 64 (gt.state + gt.acts.length * 16 + gt.obs.length * 256
          + (if gt.state = 0 then 0 else gt.vf) * 2 ^ 16) ∧ SameMemory s t))

/-! ## 22: tables, owners and seals -/

/-- R359 to R363 and R367, the loader: a command without GO is stored and starts nothing, one that comes while another is in progress is ignored, one for a VF
the package does not have is refused, and one for a lot table waits, BUSY, for the accesses of the VF's lots that have been translated; a load installs an image that resolves as a
whole, and an entry, a clear and a migration change what they name, the migration after the Rink cores' caches have given up its frames' lines (R283); a
misaligned image (reason SOURCE by log 47), an entry that does not resolve and a
migration of an entry that maps no frame (log 15), both the model's choice, are refused with the table as it was.

Completion (under the conditions on state and operands named, and no others, exec i s = next t with the t described) of tableLoad,
tableEntry, tableClear, tableMigrate. -/
def Obligations.TableCommands : Prop := ∀ (s : State) (v : Word),
  let n := v.toNat
  let vf := ldVf n
  let kind := ldKind n
  let i := ldIndex n
  let z := s.setReg 0 0x3008 (v &&& ~~~1)
  let idle := (s.reg 0 0x3010).getLsbD 0 = false
  let named := v.getLsbD 0 = true ∧ idle ∧ 1 ≤ vf ∧ vf ≤ 64 ∧ kind ≠ 3
  let go := named ∧ (kind = 0 → s.past vf = true)
  let held : State := { z.setReg 0 0x3010 (z.reg 0 0x3010 ||| 1) with loading := some (v, z.reg 0 0x3000) }
  (v.getLsbD 0 = false → exec (.tableLoad v) s = .next z ∧ exec (.tableEntry v) s = .next z ∧ exec (.tableClear v) s = .next z ∧ exec (.tableMigrate v) s = .next z)
  ∧ (v.getLsbD 0 = true → ¬ idle → exec (.tableLoad v) s = .next s ∧ exec (.tableEntry v) s = .next s ∧ exec (.tableClear v) s = .next s ∧ exec (.tableMigrate v) s = .next s)
  ∧ (named → kind = 0 → s.past vf = false → (ldGran n ≠ 3 → exec (.tableLoad v) s = .next held) ∧ exec (.tableEntry v) s = .next held
      ∧ exec (.tableClear v) s = .next held ∧ exec (.tableMigrate v) s = .next held)
  ∧ (v.getLsbD 0 = true → idle → (vf = 0 ∨ 64 < vf) → exec (.tableClear v) s = .next (z.setReg 0 0x3010 (BitVec.ofNat 64 (2 + 5 * 256))))
  ∧ (go → ∃ t, exec (.tableClear v) s = .next t ∧ t.tableOf vf kind = { valid := true, gran := (s.tableOf vf kind).gran }
      ∧ ∀ k, k < 4 → k ≠ kind → t.tableOf vf k = s.tableOf vf k)
  ∧ (let e := (s.reg 0 0x3000).toNat % 2 ^ 32
     go → (e.testBit 8 = false → ∃ t, exec (.tableEntry v) s = .next t ∧ Tbl.get (t.tableOf vf kind).entries 0 i = BitVec.ofNat 32 e
          ∧ ∀ j, j ≠ i → Tbl.get (t.tableOf vf kind).entries 0 j = Tbl.get (s.tableOf vf kind).entries 0 j)
       ∧ (∀ e' gu, e.testBit 8 = true → z.resolveEntry vf (s.tableOf vf kind).gran (s.hostMode vf 0) e = .ok (e', gu) →
          ∃ t, exec (.tableEntry v) s = .next t ∧ Tbl.get (t.tableOf vf kind).entries 0 i = e' ∧ Tbl.get (t.tableOf vf kind).guest 0 i = gu
          ∧ ∀ j, j ≠ i → Tbl.get (t.tableOf vf kind).entries 0 j = Tbl.get (s.tableOf vf kind).entries 0 j)
       ∧ (∀ x, e.testBit 8 = true → z.resolveEntry vf (s.tableOf vf kind).gran (s.hostMode vf 0) e = .error x → exec (.tableEntry v) s = .next (z.ldRefused v i x)))
  ∧ (let src := (s.reg 0 0x3000).toNat
     go → ldGran n ≠ 3 →
       (src % 4096 ≠ 0 → exec (.tableLoad v) s = .next (z.ldRefused v 0 { reason := 6 }))
       ∧ (∀ pages l, src % 4096 = 0 → z.imagePages vf (s.hostMode vf 0) src (List.range 32) = .ok pages →
          (pages.foldl (fun σ pa => σ.fill pa) z).resolveImage vf (ldGran n) (s.hostMode vf 0)
            ((pages.zipIdx).flatMap fun x => (List.range 1024).map fun j => (x.2 * 1024 + j, s.memNat (x.1 + 4 * j) 4)) = .ok l →
          ∃ t, exec (.tableLoad v) s = .next t ∧ t.tableOf vf kind =
            { valid := true, gran := ldGran n, entries := l.map fun x => (x.1, x.2.1), guest := l.map fun x => (x.1, x.2.2) }))
  ∧ (let e := Tbl.get (s.tableOf vf kind).entries 0 i
     let c := granFrames (s.tableOf vf kind).gran
     let dst := (s.reg 0 0x3000).toNat % 2 ^ 20
     let drained := (List.range c).foldl (fun (σ : State) k => σ.rinkDrain (entFrame e + k)) z
     go → s.hostMode vf 1 = false →
       (entV e = false → exec (.tableMigrate v) s = .next (z.ldRefused v i { reason := 5 }))
       ∧ (entV e = true → entClass e ≠ 2 → dst % c = 0 → (∀ k < c, (s.frameRec (dst + k)).owner = vf ∧ drained.destWorn (entFrame e + k) (dst + k) = false) →
          ∃ t, exec (.tableMigrate v) s = .next t ∧ Tbl.get (t.tableOf vf kind).entries 0 i = BitVec.ofNat 32 (dst * 4096 + e.toNat % 4096) ||| 0x10
            ∧ ∀ j, j ≠ i → Tbl.get (t.tableOf vf kind).entries 0 j = Tbl.get (s.tableOf vf kind).entries 0 j))

/-- R365, R366, R370 and R371, owners and seals: a frame of device memory that takes a new owner reads as zeros everywhere, its tiles under their next version and the owner's current
generation, its GFRAME where a table of the owner maps it, and no byte outside it changes; a command with an owner or frames that are not listed is refused. ROTATE makes the next generation, with keys of its own, where one is
live, RETIRE drops the old one where no tile uses it, RESEAL seals the tiles of a frame of the VF under the newest one, and ZERO makes them
zero.

Completion (under the conditions on state and operands named, and no others, exec i s = next t with the t described) of owncmd, sealRotate,
sealRetire, sealReseal, sealZero. -/
def Obligations.OwnersAndSeals : Prop := ∀ (s : State) (v : Word),
  (let n := v.toNat
   let new := n / 2 ^ 40 % 256
   let f := n % 2 ^ 20
   let z := s.setReg 0 0x3060 (v &&& ~~~(BitVec.ofNat 64 (2 ^ 63)))
   let listed := new ≤ 64 ∨ new = 0x7E ∨ new = 0x7F
   (n / 2 ^ 48 % 2 ^ 15 = 0 → listed → n / 2 ^ 20 % 2 ^ 20 = 0 → f < 2 ^ 18 - 1024 → (s.frameRec f).owner ≠ new → s.frameWraps f = false →
      ∃ t, exec (.owncmd v) s = .next t ∧ (t.frameRec f).owner = new ∧ (t.frameRec f).gframe = s.gframeOf new f
        ∧ (∀ a, a / 2 ^ 21 = f → t.memByte a = 0) ∧ (∀ a, a / 2 ^ 21 ≠ f → t.memByte a = s.memByte a)
        ∧ (∀ i < 512, (t.tile (f * 512 + i)).ver = (s.tile (f * 512 + i)).ver + 1 ∧ (t.tile (f * 512 + i)).kgen = (s.drawKeys new).curGen new ∧ (t.tile (f * 512 + i)).z = true)
        ∧ ∀ g, g ≠ f → t.frameRec g = { s.frameRec g with gframe := (t.frameRec g).gframe } ∧ ((s.frameRec g).owner ≠ new → t.frameRec g = s.frameRec g))
   ∧ (¬ listed → exec (.owncmd v) s = .next z.ownRefused)
   ∧ (n / 2 ^ 20 % 2 ^ 20 = 0 → 2 ^ 18 - 1024 ≤ f → f < 2 ^ 18 → exec (.owncmd v) s = .next z.ownRefused))
  ∧ (let vf := sealVf v.toNat
     let f := v.toNat % 2 ^ 20
     let z := s.setReg 0 0x3070 (v &&& ~~~(BitVec.ofNat 64 (2 ^ 63)))
     1 ≤ vf → vf ≤ 64 →
       (∀ g, s.liveGens vf = [g] → exec (.sealRotate v) s = .next { z.tickFresh with kgens := Tbl.set s.kgens vf [(g + 1) % 256, g],
                                                                                             sealDraws := Tbl.set s.sealDraws (vf * 256 + (g + 1) % 256) (s.fresh + 1) })
       ∧ (∀ g h, s.liveGens vf = [g, h] → exec (.sealRotate v) s = .next z
          ∧ ((∀ k ∈ s.ownedFrames vf, ∀ t ∈ frameTiles k, (s.tile t).kgen ≠ h) → exec (.sealRetire v) s = .next { z with kgens := Tbl.set s.kgens vf [g] })
          ∧ (∀ k t, k ∈ s.ownedFrames vf → t ∈ frameTiles k → (s.tile t).kgen = h → exec (.sealRetire v) s = .next z))
       ∧ (∀ g, s.liveGens vf = [g] → exec (.sealRetire v) s = .next z)
       ∧ ((s.frameRec f).owner = vf → s.frameWraps f = false → ∃ t, exec (.sealReseal v) s = .next t
          ∧ ∀ i < 512, (s.tile (f * 512 + i)).bad = false → (t.tile (f * 512 + i)).kgen = s.newGen vf
              ∧ ((s.tile (f * 512 + i)).kgen ≠ s.newGen vf → (t.tile (f * 512 + i)).ver = (s.tile (f * 512 + i)).ver + 1))
       ∧ ((s.frameRec f).owner ≠ vf → exec (.sealReseal v) s = .next z ∧ exec (.sealZero v) s = .next z)
       ∧ ((s.frameRec f).owner = vf → s.frameWraps f = false → ∃ t, exec (.sealZero v) s = .next t ∧ (∀ a, a / 2 ^ 21 = f → t.memByte a = 0)
          ∧ (∀ a, a / 2 ^ 21 ≠ f → t.memByte a = s.memByte a) ∧ ∀ i < 512, (t.tile (f * 512 + i)).ver = (s.tile (f * 512 + i)).ver + 1))

/-! ## 24: the fabric -/

/-- R390, R391, R395, R397 and R398, the fabric's records and windows: a read of a record fills TBLDATA and a write stores it where its fields are allowed, releasing
the accesses held for it, each sent again under it; RW_SET installs a window this home holds once its rounds have closed, RW_CLEAR removes it, and REPOINT
changes its home alone, to this package where it was another's; a command is ignored while RWCMD is busy, a bad field answers STATUS 3, and what a window of
another home answers is a free value (log 5).

Completion (under the conditions on state and operands named, and no others, exec i s = next t with the t described) of tblRead, tblWrite,
rwSet, rwClear, rwRepoint. -/
def Obligations.FabricRecords : Prop := ∀ (s : State) (v : Word),
  let n := v.toNat
  let i := n % 4096
  let d := [s.reg 0 0x4010, s.reg 0 0x4018, s.reg 0 0x4020, s.reg 0 0x4028]
  let d0 := [(s.reg 0 0x4010) &&& ~~~(BitVec.ofNat 64 (2 ^ 16)), s.reg 0 0x4018, s.reg 0 0x4020, s.reg 0 0x4028]
  (n / 2 ^ 12 % 4 = 0 → n / 2 ^ 14 % 4 = 1 → ∃ t, exec (.tblRead v) s = .next t
      ∧ [t.reg 0 0x4010, t.reg 0 0x4018, t.reg 0 0x4020, t.reg 0 0x4028] = [0, 1, 2, 3].map (fun j => (s.exportRec' i).getD j 0) ∧ SameMemory s t)
  ∧ (n / 2 ^ 12 % 4 = 0 → n / 2 ^ 14 % 4 = 0 → (∀ q ∈ s.fabReqs, q.entry = i → q.held = false) → ∃ t, exec (.tblRead v) s = .next t
      ∧ [t.reg 0 0x4010, t.reg 0 0x4018, t.reg 0 0x4020, t.reg 0 0x4028] = [0, 1, 2, 3].map (fun j => (s.importRec i).getD j 0))
  ∧ (n / 2 ^ 12 % 4 = 1 → n / 2 ^ 14 % 4 = 0 → importOk d0 = true → ∃ t, exec (.tblWrite v) s = .next t ∧ t.importRec i = d0
      ∧ (∀ q ∈ t.fabReqs, q.entry = i → q.held = false) ∧ (∀ q ∈ s.fabReqs, q.entry = i → q.held = true → q.resend d0 ∈ t.fabReqs) ∧ (∀ j, j ≠ i → t.importRec j = s.importRec j) ∧ t.exports = s.exports)
  ∧ (n / 2 ^ 12 % 4 = 1 → n / 2 ^ 14 % 4 = 1 → exportOk d = true → ∃ t, exec (.tblWrite v) s = .next t ∧ t.exportRec' i = d
      ∧ (∀ j, j ≠ i → t.exportRec' j = s.exportRec' j) ∧ t.imports = s.imports)
  ∧ (n / 2 ^ 12 % 4 = 1 → (n / 2 ^ 14 % 4 = 0 ∧ importOk d0 = false ∨ n / 2 ^ 14 % 4 = 1 ∧ exportOk d = false ∨ 2 ≤ n / 2 ^ 14 % 4) →
      ∃ t, exec (.tblWrite v) s = .next t ∧ t.imports = s.imports ∧ t.exports = s.exports)
  ∧ (let k := rwWin v
     let w := s.winOf k
     let op := n / 2 ^ 48 % 4
     (s.rwBusy = true → exec (.rwSet v) s = .next s ∧ exec (.rwClear v) s = .next s ∧ exec (.rwRepoint v) s = .next s)
     ∧ (s.rwBusy = false → (rwBad v = true → exec (.rwSet v) s = .next (s.setReg 0 0x4030 (rwStatus v 3)) ∧ exec (.rwClear v) s = .next (s.setReg 0 0x4030 (rwStatus v 3))
        ∧ exec (.rwRepoint v) s = .next (s.setReg 0 0x4030 (rwStatus v 3)))
     ∧ (rwBad v = false → op = 0 → w.live = true → w.rounds = [] → ∃ t, exec (.rwSet v) s = .next t ∧ t.winOf k =
          { live := true, oper := n / 2 ^ 32 % 16, mask := (s.reg 0 0x4038).toNat, tmo := (s.reg 0 0x4040).toNat % 2 ^ 32, expNo := n / 2 ^ 16 % 4096,
            incomplete := w.incomplete })
     ∧ (rwBad v = false → op = 0 → w.live = true → w.rounds ≠ [] → exec (.rwSet v) s = .next (s.setReg 0 0x4030 (v ||| BitVec.ofNat 64 (2 ^ 63))))
     ∧ (rwBad v = false → op = 1 → w.live = true → ∃ t, exec (.rwClear v) s = .next t ∧ (t.winOf k).live = false ∧ (t.winOf k).rounds = [])
     ∧ (rwBad v = false → op = 2 → w.live = true → ∃ t, exec (.rwRepoint v) s = .next t ∧ (t.winOf k).live = true ∧ (t.winOf k).expNo = n / 2 ^ 16 % 4096
          ∧ (t.winOf k).oper = w.oper ∧ (t.winOf k).mask = w.mask)
     ∧ (rwBad v = false → op = 2 → w.live = false → (s.rwAnswer v ≠ 0 → exec (.rwRepoint v) s = .next ((s.tickFresh).setReg 0 0x4030 (rwStatus v (s.rwAnswer v))))
        ∧ (s.rwAnswer v = 0 → ∃ t, exec (.rwRepoint v) s = .next t ∧ (t.winOf k).live = true ∧ (t.winOf k).expNo = n / 2 ^ 16 % 4096
            ∧ t.reg 0 0x4030 = (s.setReg 0 0x4030 (rwStatus v 0)).reg 0 0x4030 ∧ ∀ j, j ≠ k → t.winOf j = s.winOf j))
     ∧ (rwBad v = false → op = 1 → w.live = false → exec (.rwClear v) s = .next ((s.tickFresh).setReg 0 0x4030 (rwStatus v (s.rwAnswer v))))))

/-- R207, R393, R394, R396 to R399, what arrives over the fabric, by a port that is up: an access that its export allows is performed for the export's VF, a
far ATOM or ACAS too, any other changes no memory, and one
whose entry is not resident waits, with the later ones of its sender behind it; a message takes
the next slot of its ring, is refused where it does not fit, and waits where no slot is free; a contribution opens a round or joins it, and
the one that completes the mask merges into the home's word; a round whose time is over closes INCOMPLETE; so does every open round of a window that loses a
member of its mask, and every waiting contribution's: each counts as INCOMPLETE, none stays open, no merge is held, and a member that waits for its round is
answered; an access unanswered in its time is a FAB_TIMEOUT for its context or engine, and one posted to the lot for a committed store (log 105: the model's
choice); MOVED holds an access; a link carries traffic where a common major exists, and one that is down brings none.

Completion (under the conditions on state and operands named, and no others, exec i s = next t with the t described) of remoteAccess,
remoteAtom, crwArrival, reductionContribution, roundTimeout, memberLost, fabricTimeout, movedReply, linkUp. -/
def Obligations.FabricArrivals : Prop := ∀ (s : State) (src ex off size g w cidx id port op : Nat) (v vs : Word) (x : BitVec 32) (msg : List Byte),
  (s.packageUp src = false → (∀ b, exec (.remoteAccess src ex off b size v) s = .next s) ∧ (∀ c, exec (.remoteAtom src ex off op size v c) s = .next s)
    ∧ exec (.crwArrival src ex msg) s = .next s) ∧
  (let r := s.exportRec' ex
   let va := BitVec.ofNat 64 (impWord r 1 + off)
   let first := ∀ b ∈ s.arrivals, b.src ≠ src ∨ b.exp ≠ ex
   let ok := expValid r = true ∧ expKind r = 0 ∧ expMoved r = false ∧ (expSrc r = 0xFFFF ∨ expSrc r = src) ∧ off < impWord r 2
   s.packageUp src = true →
   (∀ p, first → ok → xlate (s.lotTable (expVf r)) va .write .near = .ok p → s.ownerOk (expVf r) p.pa = true →
      ∃ t, exec (.remoteAccess src ex off true size v) s = .next t ∧ (∀ i < size, t.memByte (p.pa + i) = BitVec.ofNat 8 (v.toNat / 256 ^ i))
        ∧ ∀ a, (a < p.pa ∨ p.pa + size ≤ a) → t.memByte a = s.memByte a)
   ∧ (∀ p, first → ok → xlate (s.lotTable (expVf r)) va .read .near = .ok p → s.accessCheck (expVf r) p.pa size va = .ok () →
      ∃ t, exec (.remoteAccess src ex off false size v) s = .next t ∧ SameMemory s t)
   ∧ (∀ c p, first → ok → xlate (s.lotTable (expVf r)) va .rmw .near = .ok p → s.accessCheck (expVf r) p.pa size va = .ok () →
      ∃ t, exec (.remoteAtom src ex off op size v c) s = .next t ∧ (∀ a, (a < p.pa ∨ p.pa + size ≤ a) → t.memByte a = s.memByte a)
        ∧ (let old := s.memNat p.pa size
           (c = none → t.memNat p.pa size = atomicVal op (8 * size) old (v.toNat % 256 ^ size) % 256 ^ size)
           ∧ ∀ y : Word, c = some y → t.memNat p.pa size = if y.toNat % 256 ^ size = old then v.toNat % 256 ^ size else old))
   ∧ (∀ c e, first → ok → xlate (s.lotTable (expVf r)) va .rmw .near = .error e → e.cause = 5 → ∃ t, exec (.remoteAtom src ex off op size v c) s = .next t
        ∧ t.arrivals = s.arrivals ++ [{ src := src, exp := ex, off := off, wr := true, size := size, v := v, atom := some (op, c) }])
   ∧ (∀ b c, first → ¬ ok → exec (.remoteAccess src ex off b size v) s = .next s ∧ exec (.remoteAtom src ex off op size v c) s = .next s)
   ∧ (∀ b e, first → ok → xlate (s.lotTable (expVf r)) va (if b then .write else .read) .near = .error e → e.cause = 5 →
      ∃ t, exec (.remoteAccess src ex off b size v) s = .next t ∧ t.arrivals = s.arrivals ++ [{ src := src, exp := ex, off := off, wr := b, size := size, v := v }])
   ∧ (∀ b, ¬ first → exec (.remoteAccess src ex off b size v) s =
      .next { s with arrivals := s.arrivals ++ [{ src := src, exp := ex, off := off, wr := b, size := size, v := v }] }))
  ∧ (let r := s.exportRec' ex
     let core := impWord r 1 % 32
     let ring := impWord r 1 / 2 ^ 8 % 64
     s.packageUp src = true → expValid r = true → expKind r = 1 → (expSrc r = 0xFFFF ∨ expSrc r = src) → expMoved r = false → (∀ p ∈ s.crwWaiting, p.1 ≠ ex) →
       (∀ k, s.crwSlot r = some k →
          let q := (s.ctxOf core k).ring ring
          let t := s.aWrite core k (q.slotAt q.claim.toNat) msg
          (msg.length ≤ 64 * q.ssz → q.free ≠ 0 → exec (.crwArrival src ex msg) s =
              .next (t.setCtx core k ((t.ctxOf core k).setRing ring ((q.doClaim 1).fillDone q.claim.toNat))))
          ∧ (64 * q.ssz < msg.length → exec (.crwArrival src ex msg) s = .next s)
          ∧ (msg.length ≤ 64 * q.ssz → q.free = 0 → exec (.crwArrival src ex msg) s = .next { s.tickFresh with crwWaiting := s.crwWaiting ++ [(ex, msg, s.crwDeadline)] }))
       ∧ (s.crwSlot r = none → exec (.crwArrival src ex msg) s = .next { s.tickFresh with crwWaiting := s.crwWaiting ++ [(ex, msg, s.crwDeadline)] }))
  ∧ (let key := winKey g w
     let win := s.winOf key
     let may := win.live = true ∧ win.mask.testBit cidx = true ∧ off < impWord (s.exportRec' win.expNo) 2
     (¬ may → exec (.reductionContribution g w cidx off x) s = .next (s.answer key off cidx 1 0))
     ∧ (may → win.waiting = [] → win.lost = false → Tbl.find? win.rounds off = none → (∃ i < 64, i ≠ cidx ∧ win.mask.testBit i = true) →
        ∃ t, exec (.reductionContribution g w cidx off x) s = .next t ∧ SameMemory s t
          ∧ Tbl.find? (t.winOf key).rounds off = some { opened := s.time, got := [(cidx, x)] })
     ∧ (∀ r d, may → win.waiting = [] → Tbl.find? win.rounds off = some r → Tbl.find? r.got cidx = none → Tbl.find? win.heldMerge off = none →
        (∀ i < 64, win.mask.testBit i = true → i = cidx ∨ (Tbl.find? r.got i).isSome = true) →
        s.deliverMerge (key / 64) win off (mergeOf win.oper (Tbl.set r.got cidx x)) = .done d →
        ∃ t, exec (.reductionContribution g w cidx off x) s = .next t ∧ SameMemory d t ∧ Tbl.find? (t.winOf key).rounds off = none)
     ∧ (∀ r, win.waiting = [] → Tbl.find? win.heldMerge off = none → Tbl.find? win.rounds off = some r →
        (r.opened + win.ticks ≤ s.time → ∃ t, exec (.roundTimeout g w off) s = .next t ∧ Tbl.find? (t.winOf key).rounds off = none
            ∧ (t.winOf key).incomplete = satCount win.incomplete)
        ∧ (s.time < r.opened + win.ticks → exec (.roundTimeout g w off) s = .next s))
     ∧ (∀ h, win.waiting = [] → Tbl.find? win.heldMerge off = some h →
        (h.1 + win.ticks ≤ s.time → ∃ t, exec (.roundTimeout g w off) s = .next t ∧ Tbl.find? (t.winOf key).rounds off = none
            ∧ Tbl.find? (t.winOf key).heldMerge off = none ∧ (t.winOf key).incomplete = satCount win.incomplete)
        ∧ (s.time < h.1 + win.ticks → exec (.roundTimeout g w off) s = .next s))
     ∧ (win.live = false ∨ win.mask.testBit cidx = false → exec (.memberLost g w cidx) s = .next s)
     ∧ (win.live = true → win.mask.testBit cidx = true → ∃ t, exec (.memberLost g w cidx) s = .next t
        ∧ (let u := t.winOf key
           u.lost = true ∧ u.rounds = [] ∧ u.heldMerge = [] ∧ u.waiting = []
           ∧ u.incomplete = (List.range (win.rounds.length + win.waiting.length)).foldl (fun n _ => satCount n) win.incomplete)
        ∧ ∀ q r o, q ∈ s.fabReqs → q.round = some (key, o) → q.answer = none → q.slot ≠ noSlot → Tbl.find? win.rounds o = some r →
            (Tbl.find? r.got q.cidx).isSome = true → (∀ y ∈ s.fabReqs, y.id = q.id ∨ (y.round = q.round ∧ y.cidx = q.cidx ∧ y.answer = none) → y = q) →
            ∃ y ∈ t.fabReqs, y.id = q.id ∧ y.answer = some 2))
  ∧ (∀ q, s.fabReqs.find? (fun q => decide (q.id = id)) = some q →
      (q.round = none → q.deadline ≤ s.time → q.store = none → q.engine = none → exec (.fabricTimeout id) s =
        .next (({ s with fabReqs := s.fabReqs.filter fun y => decide (y.id ≠ id) } : State).takeTrap q.core q.slot { cause := 16, detail := q.va }))
      ∧ (∀ k, q.round = none → q.deadline ≤ s.time → q.store = some k → ∃ t, exec (.fabricTimeout id) s = .next t ∧ (∀ y ∈ t.fabReqs, y.id ≠ id)
          ∧ ((s.ctxOf q.core q.slot).task = some k → ∃ f, (t.ctxOf q.core q.slot).posted = (s.ctxOf q.core q.slot).posted ++ [f] ∧ f.cause = 16
              ∧ f.detail = q.va ∧ f.src = q.slot)
          ∧ ((s.ctxOf q.core q.slot).task ≠ some k → (t.ctxOf q.core q.slot).posted = (s.ctxOf q.core q.slot).posted ∧ SameMemory s t))
      ∧ (∀ e, q.round = none → q.deadline ≤ s.time → q.store = none → q.engine = some e → exec (.fabricTimeout id) s =
        .next { s with fabReqs := s.fabReqs.map fun y => if y.id = id then { y with answer := some 3, held := false } else y })
      ∧ (s.time < q.deadline ∨ q.round.isSome = true → exec (.fabricTimeout id) s = .next s)
      ∧ exec (.movedReply id) s =
        .next (({ s with fabReqs := s.fabReqs.map fun y => if y.id = id then { y with held := true } else y } : State).hyperNotice 28 (impVf (s.importRec q.entry)) q.entry))
  ∧ (s.fabReqs.find? (fun q => decide (q.id = id)) = none → exec (.fabricTimeout id) s = .next s ∧ exec (.movedReply id) s = .next s)
  ∧ (port < 18 → exec (.linkUp port vs) s = .next { s with portUp := Tbl.set s.portUp port (if (List.range 8).any (fun i => decide (vs.toNat / 2 ^ (8 * i + 4) % 16 = 1)) then 1 else 0) })

/-! ## 26: partitions, slices, migration, telemetry -/

/-- R407 to R409 and R413 to R416, partitions and telemetry: CORECFG moves a core that its partition can spare, at once where the core is quiet and else
once its slots are saved, which a second write does not disturb, and is refused with a notice where a bound VF would be left without
a core in service; VFBIND is refused while a queue of the VF is enabled; a turn that is not due goes on, and the next VF with work takes its
turn for its slice bound less its overrun, the time that the VF it follows has run past its end noted before (R340); EVCTL's EN, set, clears the stream's counts; a sample takes the first slot after the
last one sampled that holds a task, where the partition samples.

Completion (under the conditions on state and operands named, and no others, exec i s = next t with the t described) of corecfgWrite,
vfbindWrite, sliceTurnEnd, evctlWrite, pcSample. -/
def Obligations.PartitionsAndTelemetry : Prop := ∀ (s : State) (core part vf : Nat) (v : Word), core < 32 → part < 32 → 1 ≤ vf → vf ≤ 64 →
  (let k := s.coreOf core
   let dest := v.toNat / 2 ^ 8 % 32
   let en := v.getLsbD 0
   let z := s.setReg 0 (0x5000 + 8 * core) (v &&& ~~~(BitVec.ofNat 64 (2 ^ 63)))
   let spare := (dest = s.partOf core ∧ en = true) ∨ k.enabled = false ∨ s.boundVfs (s.partOf core) = []
      ∨ ∃ c < 32, c ≠ core ∧ (s.coreOf c).enabled = true ∧ (s.coreOf c).leaving = none ∧ s.partOf c = s.partOf core
   (k.leaving.isSome = true → exec (.corecfgWrite core v) s = .next s)
   ∧ (k.leaving = none → (spare → dest = s.partOf core → en = k.enabled → exec (.corecfgWrite core v) s = .next z)
   ∧ (spare → (dest ≠ s.partOf core ∨ en ≠ k.enabled) → ∃ t, exec (.corecfgWrite core v) s = .next t
        ∧ ((t.coreOf core).leaving = some v ∨ (t.coreOf core).leaving = none ∧ t.partOf core = dest ∧ (t.coreOf core).enabled = en)
        ∧ (k.enabled = false ∨ s.coreQuiet core = true → (t.coreOf core).leaving = none ∧ t.partOf core = dest ∧ (t.coreOf core).enabled = en))
   ∧ (¬ spare → exec (.corecfgWrite core v) s = .next (s.hyperNotice 29 0 (0x5000 + 8 * core)))))
  ∧ ((∃ q < 64, (s.queueOf vf q).en = true) → exec (.vfbindWrite vf v) s = .next (s.hyperNotice 29 vf (0x5100 + 8 * (vf - 1))))
  ∧ ((∀ q < 64, (s.queueOf vf q).en = false) → exec (.vfbindWrite vf v) s = .next (s.setReg 0 (0x5100 + 8 * (vf - 1)) v))
  ∧ (let u := s.turnOf part
     (s.turnDue part = false → exec (.sliceTurnEnd part) s = .next s)
     ∧ (∀ n, s.turnDue part = true → s.nextVf part u.vf = some n → (n = u.vf ∨ u.vf = 0 ∨ s.vfHolds u.vf = false) →
        ∃ t, exec (.sliceTurnEnd part) s = .next t ∧ (t.turnOf part).vf = n ∧ (t.turnOf part).prev = none
          ∧ (t.turnOf part).ends = s.time + (s.sliceBound n - (Tbl.get u.overrun 0 n + if u.late = true ∧ n = u.vf then s.time - u.ends else 0))
          ∧ (n ≠ u.vf → Tbl.get (t.turnOf part).overrun 0 u.vf = Tbl.get u.overrun 0 u.vf + if u.late then s.time - u.ends else 0))
     ∧ (∀ n, s.turnDue part = true → s.nextVf part u.vf = some n → n ≠ u.vf → u.vf ≠ 0 → s.vfHolds u.vf = true →
        exec (.sliceTurnEnd part) s = .next (s.setTurn part { u with vf := n, prev := some u.vf })))
  ∧ (let b := 0x5500 + 64 * part
     ∃ t, exec (.evctlWrite part v) s = .next t ∧ t.reg 0 (b + 0x10) = v &&& 0x000000FFFFFF001F
       ∧ (v.getLsbD 0 = true → (s.reg 0 (b + 0x10)).getLsbD 0 = false → t.reg 0 (b + 0x20) = 0 ∧ t.reg 0 (b + 0x28) = 0)
       ∧ ((v.getLsbD 0 = false ∨ (s.reg 0 (b + 0x10)).getLsbD 0 = true) → t.reg 0 (b + 0x20) = s.reg 0 (b + 0x20) ∧ t.reg 0 (b + 0x28) = s.reg 0 (b + 0x28)))
  ∧ ((s.reg 0 (0x5500 + 64 * s.partOf core)).getLsbD 8 = false → exec (.pcSample core) s = .next s)
  ∧ (let smp := (s.coreOf core).sampled
     (s.reg 0 (0x5500 + 64 * s.partOf core)).getLsbD 8 = true → (∃ k < 4, (s.ctxOf core k).task.isSome = true) →
      ∃ t d, exec (.pcSample core) s = .next t ∧ d < 4 ∧ (s.ctxOf core ((smp + 1 + d) % 4)).task.isSome = true
        ∧ (∀ e < d, (s.ctxOf core ((smp + 1 + e) % 4)).task = none) ∧ (t.coreOf core).sampled = (smp + 1 + d) % 4)

/-- R411, R412, migration: each operation runs in the states that list it and answers STATUS 1 in any other, and STATUS 2 where it needs a migration key that
is not agreed. TRACK clears the dirty bitmap, FREEZE stops the VF and saves its tasks, COPY and SAVE write a record at MIGADDR that opens under the migration
key, LOAD imports the tiles of a COPY record, or the state of a SAVE record of the VF, and refuses one that does not open or that is none, RESUME and ABORT let
the VF run; MIGLEN is the number of bytes written or read; a command while a FREEZE is in progress is ignored. The layout of the bytes, which R411 calls opaque,
is the model's choice (log 16).

Completion (under the conditions on state and operands named, and no others, exec i s = next t with the t described) of migTrack, migFreeze,
migCopy, migSave, migLoad, migResume, migAbort. -/
def Obligations.Migration : Prop := ∀ (s : State) (v : Word),
  let vf := v.toNat / 2 ^ 16 % 256
  let st := s.migState vf
  let y := s.setMigLen 0
  let z := y.migStatus v 0
  let keyed := s.migKey = true
  let at' := s.migAddr
  let x := s.openRecord s.migrationKey at'
  let holds (t : State) (p : List Byte) : Prop := t.openRecord s.migrationKey at' = (p.length + 36, some p) ∧ t.reg 0 0x5418 = BitVec.ofNat 64 (p.length + 36)
  let outside (t : State) (n : Nat) : Prop := ∀ a, (a < at' ∨ at' + n ≤ a) → t.memByte a = s.memByte a
  (s.migBusy = true → exec (.migTrack v) s = .next s ∧ exec (.migFreeze v) s = .next s ∧ exec (.migCopy v) s = .next s ∧ exec (.migSave v) s = .next s
      ∧ exec (.migLoad v) s = .next s ∧ exec (.migResume v) s = .next s ∧ exec (.migAbort v) s = .next s)
  ∧ (s.migBusy = false → (vf = 0 ∨ 64 < vf) → exec (.migTrack v) s = .next (y.migStatus v 1) ∧ exec (.migFreeze v) s = .next (y.migStatus v 1))
  ∧ (s.migBusy = false → 1 ≤ vf → vf ≤ 64 →
      (st ≠ 0 → exec (.migTrack v) s = .next (y.migStatus v 1) ∧ exec (.migLoad v) s = .next (y.migStatus v 1))
      ∧ (st ≠ 1 → st ≠ 2 → exec (.migCopy v) s = .next (y.migStatus v 1) ∧ exec (.migAbort v) s = .next (y.migStatus v 1))
      ∧ (st ≠ 2 → exec (.migSave v) s = .next (y.migStatus v 1)) ∧ (st ≠ 4 → exec (.migResume v) s = .next (y.migStatus v 1))
      ∧ (¬ keyed → (st = 2 → exec (.migSave v) s = .next (y.migStatus v 2)) ∧ (st = 0 → exec (.migLoad v) s = .next (y.migStatus v 2)))
      ∧ (st = 0 → ∃ t, exec (.migTrack v) s = .next t ∧ t.migState vf = 1 ∧ Tbl.get t.trackAt 0 vf = at' ∧ t.reg 0 0x5418 = 131072
          ∧ (∀ a, at' ≤ a → a < at' + 131072 → t.memByte a = 0) ∧ outside t 131072)
      ∧ ((st = 0 ∨ st = 1) → ∃ t, exec (.migFreeze v) s = .next t ∧ t.migState vf = 2)
      ∧ ((st = 1 ∨ st = 2) → keyed →
          let g := (s.reg 0 0x5410).toNat
          let p := 1 :: s.copyRecord vf (g % 2 ^ 20) (g / 2 ^ 20 % 2 ^ 20 + 1)
          ∃ t, exec (.migCopy v) s = .next t ∧ holds t p ∧ outside t (p.length + 36) ∧ t.migState vf = st)
      ∧ (st = 2 → keyed → ∃ t r, exec (.migSave v) s = .next t ∧ t.migState vf = 3 ∧ (∀ p ∈ t.exports, expVf p.2 = vf → expMoved p.2 = true)
          ∧ t.migRecs = s.migRecs ++ [r] ∧ r.vf = vf ∧ r.polgen = Tbl.get s.polgen 0 vf
          ∧ (let p := 0 :: Config.recordBytes r
             p.length < 2 ^ 60 → holds t p ∧ (s.holder = [] → outside t (p.length + 36))))
      ∧ (st = 0 → keyed →
          let w := z.setMigLen x.1
          ((x.2 = none ∨ x.2 = some []) → exec (.migLoad v) s = .next (w.migStatus v 3))
          ∧ (∀ p, x.2 = some (0 :: p) → (∀ r, s.recordFrom p = some r → r.vf ≠ vf) → exec (.migLoad v) s = .next (w.migStatus v 3))
          ∧ (∀ p r, x.2 = some (0 :: p) → s.recordFrom p = some r → r.vf = vf → ∃ t, exec (.migLoad v) s = .next t ∧ t.migState vf = 4
              ∧ Tbl.get t.polgen 0 vf = r.polgen ∧ (r.tasks = [] → SameMemory s t))
          ∧ (∀ n d, x.2 = some (1 :: (natBytes 8 n ++ 0 :: d)) → n < 2 ^ 64 → d.length = 4096 → (s.frameRec (n / 512)).owner = vf →
              ∃ t, exec (.migLoad v) s = .next t ∧ t.migState vf = 0 ∧ (∀ i < 4096, t.memByte (n * 4096 + i) = d.getD i 0)
              ∧ ∀ a, a / 4096 ≠ n → t.memByte a = s.memByte a)
          ∧ (∀ n, x.2 = some (1 :: (natBytes 8 n ++ [1])) → n < 2 ^ 64 → (s.frameRec (n / 512)).owner = vf →
              ∃ t, exec (.migLoad v) s = .next t ∧ t.migState vf = 0 ∧ (t.tile n).z = true ∧ (∀ i < 4096, t.memByte (n * 4096 + i) = 0)
              ∧ ∀ a, a / 4096 ≠ n → t.memByte a = s.memByte a))
      ∧ (st = 4 → ∃ t, exec (.migResume v) s = .next t ∧ t.migState vf = 0 ∧ SameMemory s t)
      ∧ ((st = 1 ∨ st = 2) → exec (.migAbort v) s = .next ({ z with trackAt := Tbl.del s.trackAt vf }.setMig vf 0)))

/-! ## 27: firmware update, attestation, errors, power -/

/-- R417, R419 and R420, the responder: each request of an order that has been followed gets its response (the codes, their order and the bits of the capabilities
and algorithms are PRESUMED, log 18), one before its turn is answered UnexpectedRequest, one for another slot or without the device's algorithms InvalidRequest, and
one the device does not have UnsupportedRequest; the device has one certificate chain, whose digest is a free value of the chain (log 102); measurements are those of the running images, the fused minima, the
configuration and the VF's own; a session opens with KEY_EXCHANGE and FINISH, and ends.

Completion (under the conditions on state and operands named, and no others, exec i s = next t with the t described) of spdmGetVersion,
spdmGetCapabilities, spdmNegotiateAlgorithms, spdmGetDigests, spdmGetCertificate, spdmChallenge, spdmGetMeasurements, spdmKeyExchange,
spdmFinish, spdmEndSession, spdmUnsupported. -/
def Obligations.Attestation : Prop := ∀ (s : State) (m idx code : Nat) (algs nonce : Word) (both : Bool), m ≤ 64 →
  let p := s.spdmOf m
  let turn (i : Instr) (t : State) (resp words : Nat) := exec i s = .next t ∧ (t.spdmOf m).resp = resp ∧ (t.spdmOf m).data.length = words
  let early (i : Instr) := ∃ t, exec i s = .next t ∧ (t.spdmOf m).resp = 0x7F ∧ (t.spdmOf m).data = [4] ∧ (t.spdmOf m).phase = p.phase
  (∃ t, turn (.spdmGetVersion m) t 0x04 1 ∧ (t.spdmOf m).phase = 1 ∧ (t.spdmOf m).session = false ∧ (t.spdmOf m).data = [0x1400])
  ∧ (p.phase < 1 → early (.spdmGetCapabilities m)) ∧ (p.phase < 2 → early (.spdmNegotiateAlgorithms m algs))
  ∧ (p.phase < 3 → early (.spdmGetDigests m) ∧ early (.spdmGetCertificate m idx) ∧ early (.spdmChallenge m nonce) ∧ early (.spdmGetMeasurements m idx)
      ∧ early (.spdmKeyExchange m both))
  ∧ (p.phase < 4 → early (.spdmFinish m) ∧ early (.spdmEndSession m))
  ∧ (1 ≤ p.phase → ∃ t, turn (.spdmGetCapabilities m) t 0x61 1 ∧ 2 ≤ (t.spdmOf m).phase ∧ (t.spdmOf m).data = [0x3D6])
  ∧ (2 ≤ p.phase → (algs.toNat % 16 = 15 → ∃ t, turn (.spdmNegotiateAlgorithms m algs) t 0x63 1 ∧ 3 ≤ (t.spdmOf m).phase ∧ (t.spdmOf m).data = [15]
        ∧ (t.spdmOf m).algs = 15)
      ∧ (algs.toNat % 16 ≠ 15 → ∃ t, turn (.spdmNegotiateAlgorithms m algs) t 0x7F 1 ∧ (t.spdmOf m).data = [1] ∧ (t.spdmOf m).phase = p.phase))
  ∧ (3 ≤ p.phase → (∃ t, turn (.spdmGetDigests m) t 0x01 8 ∧ ∀ i < 8, (t.spdmOf m).data.getD i 0 = BitVec.ofNat 64 ((Config.chainDigest s.certs).toNat / 2 ^ (64 * i)))
      ∧ (∃ t, exec (.spdmGetCertificate m 0) s = .next t ∧ (t.spdmOf m).resp = 0x02 ∧ (t.spdmOf m).data = s.certs.flatten)
      ∧ (idx ≠ 0 → ∃ t, turn (.spdmGetCertificate m idx) t 0x7F 1 ∧ (t.spdmOf m).data = [1])
      ∧ (∃ t, turn (.spdmChallenge m nonce) t 0x03 8)
      ∧ (∀ l, idx ≠ 255 → s.measurement m idx = some l → ∃ t, exec (.spdmGetMeasurements m idx) s = .next t ∧ (t.spdmOf m).resp = 0x60 ∧ (t.spdmOf m).data = l)
      ∧ (idx = 255 → ∃ t, exec (.spdmGetMeasurements m idx) s = .next t ∧ (t.spdmOf m).resp = 0x60)
      ∧ (idx ≠ 255 → s.measurement m idx = none → ∃ t, exec (.spdmGetMeasurements m idx) s = .next t ∧ (t.spdmOf m).resp = 0x7F))
  ∧ s.measurement m 7 = some ([1, 2, 3, 4, 5, 6].map fun i => BitVec.ofNat 64 (Tbl.get s.svnMin 0 i))
  ∧ (m ≠ 0 → s.measurement m 8 = none) ∧ (m = 0 → s.measurement m 16 = none)
  ∧ (∀ pt, m ≠ 0 → s.vfPart m = some pt → s.measurement m 16 = some ([s.reg 0 (0x5100 + 8 * (m - 1)), s.reg 0 (0x2000 + 8 * (m - 1)), s.reg m 8]
      ++ ((List.range 32).filter fun c => (s.coreOf c).enabled && decide (s.partOf c = pt)).map fun c => s.reg 0 (0x5000 + 8 * c)))
  ∧ (p.phase = 3 → p.session = false → ∃ t, turn (.spdmKeyExchange m both) t 0x64 8 ∧ (t.spdmOf m).phase = 4 ∧ (t.spdmOf m).bothKeys = both ∧ (t.spdmOf m).session = false)
  ∧ (4 ≤ p.phase → p.session = false → ∃ t, turn (.spdmFinish m) t 0x65 0 ∧ (t.spdmOf m).session = true ∧ (t.spdmOf m).bothKeys = p.bothKeys)
  ∧ (4 ≤ p.phase → p.session = true → ∃ t, turn (.spdmEndSession m) t 0x6C 0 ∧ (t.spdmOf m).session = false ∧ (t.spdmOf m).bothKeys = false)
  ∧ (∃ t, exec (.spdmUnsupported m code) s = .next t ∧ (t.spdmOf m).resp = 0x7F ∧ (t.spdmOf m).data = [BitVec.ofNat 64 (7 + code % 256 * 256)])

/-- R389, R417, R418 and R421 to R425, firmware, errors and power: an image with a bad stage or length, or no fuse left, is refused, and any other is written to the inactive bank where its
signature and security version allow it, or ends in STATUS 4 where the flash does not take it; a reset leaves every unit as reset does, with what the host's own memory,
the fuses, the flash and the certificates hold, and boots
each stage whose image is signed and not below its minimum; a tag error is reported and drops its line, and a dirty one kills every VF with a frame of the class, or stops the
device where firmware has one; a memory error that SECDED corrects is counted, and any other is reported and marks its tile, drops its line, kills the VF it hit or stops the
device; the governor sets the highest step its measurements allow (they are free values) and changes nothing else; a thermal trip, and a junction at the trip point, holds the package.
The model's choices: the lowest step where none fits (log 19), the numbers of the places (log 50), zero for memory after a reset (log 2), what an image and a bank are, whether a bank
takes it, and STATUS 4 for want of a fuse before the image is looked at (log 77), the release of a set within the step (log 103).

Completion (under the conditions on state and operands named, and no others, exec i s = next t with the t described) of fwuctlGo,
packageReset, thermalTrip, governorEvaluation, tagParity, memUe. -/
def Obligations.ErrorsAndPower : Prop := ∀ (s : State) (v : Word) (sl row line addr who place : Nat) (dirty : Bool), sl < 64 → row < 2048 →
  (let stage := v.toNat / 2 % 8
   let len := (s.reg 0 0x6008).toNat
   let good := 1 ≤ stage ∧ stage ≤ 6 ∧ 4096 ≤ len ∧ len ≤ 2 ^ 26
   let svn := (Config.freeWord s.fresh).toNat % 2 ^ 32
   let room := v.getLsbD 8 = true → Tbl.get s.fuses 0 stage < 64
   let inactive := 1 - s.activeOf stage
   let kept (t : State) : Prop := s.activeOf stage ≤ 1 → t.bankOf stage (s.activeOf stage) = s.bankOf stage (s.activeOf stage)
   (v.getLsbD 0 = false → ∃ t, exec (.fwuctlGo v) s = .next t ∧ t.banks = s.banks ∧ t.fwuNew = s.fwuNew
      ∧ (t.reg 0 0x6010).toNat / 2 ^ 60 % 8 = (s.reg 0 0x6010).toNat / 2 ^ 60 % 8)
   ∧ (v.getLsbD 0 = true → ¬ good → exec (.fwuctlGo v) s = .next (s.fwuStatus v 3))
   ∧ (v.getLsbD 0 = true → good → ¬ room → exec (.fwuctlGo v) s = .next (s.fwuStatus v 4))
   ∧ (v.getLsbD 0 = true → good → room → Config.freeBool s.fresh = false → exec (.fwuctlGo v) s = .next (s.tickFresh.fwuStatus v 1))
   ∧ (v.getLsbD 0 = true → good → room → Config.freeBool s.fresh = true → svn < Tbl.get s.svnMin 0 stage → exec (.fwuctlGo v) s = .next (s.tickFresh.fwuStatus v 2))
   ∧ (v.getLsbD 0 = true → good → room → Config.freeBool s.fresh = true → Tbl.get s.svnMin 0 stage ≤ svn → Config.freeBool (s.fresh + 1) = true → ∃ t,
        exec (.fwuctlGo v) s = .next t ∧ (t.reg 0 0x6010).toNat / 2 ^ 60 % 8 = 4 ∧ kept t ∧ t.fwuNew = s.fwuNew ∧ t.svnMin = s.svnMin ∧ t.fuses = s.fuses)
   ∧ (v.getLsbD 0 = true → good → room → Config.freeBool s.fresh = true → Tbl.get s.svnMin 0 stage ≤ svn → Config.freeBool (s.fresh + 1) = false → ∃ t,
        exec (.fwuctlGo v) s = .next t ∧ (t.bankOf stage inactive).svn = svn ∧ (t.bankOf stage inactive).signed = true ∧ kept t
        ∧ (t.reg 0 0x6010).toNat / 2 ^ 60 % 8 = 0 ∧ Tbl.find? t.fwuNew stage = some (v.getLsbD 8) ∧ t.svnMin = s.svnMin ∧ t.fuses = s.fuses))
  ∧ (∃ t, exec .packageReset s = .next t ∧ t.ctxs = [] ∧ t.tasks = [] ∧ t.tables = [] ∧ t.bar = [] ∧ t.agenda = [] ∧ t.clock = 0
      ∧ (∀ a, a < 2 ^ 39 → t.memByte a = 0) ∧ (∀ a, 2 ^ 39 ≤ a → t.memByte a = memFind s.mem a)
      ∧ t.fuseSeed = s.fuseSeed ∧ t.identity = Config.identityKeys s.fuseSeed ∧ t.certs = s.certs ∧ t.banks = s.banks
      ∧ (t.condition = 0 ∨ t.condition = 1)
      ∧ ((∃ i, 1 ≤ i ∧ i ≤ 6 ∧ ∀ b, (s.bankOf i b).signed = false) → t.condition = 1)
      ∧ ((∀ i, 1 ≤ i → i ≤ 6 → (s.bankOf i 0).signed = true ∧ (s.bankOf i 1).signed = true ∧ Tbl.get s.svnMin 0 i ≤ (s.bankOf i 0).svn ∧ Tbl.get s.svnMin 0 i ≤ (s.bankOf i 1).svn ∧ s.activeOf i ≤ 1) → t.condition = 0))
  ∧ (∃ t, exec .thermalTrip s = .next t ∧ t.condition = 3 ∧ t.ctxs = [] ∧ t.tasks = [] ∧ t.agenda = [] ∧ t.clock = s.clock)
  ∧ (115 ≤ Config.junction s.fresh → exec .governorEvaluation s = exec .thermalTrip s)
  ∧ (Config.junction s.fresh < 115 → ∃ t, exec .governorEvaluation s = .next t ∧ 10 ≤ t.arithClk ∧ t.arithClk ≤ 30 ∧ (t.reg 0 0x6100).toNat / 2 ^ 24 % 2 ^ 8 = t.arithClk
      ∧ (105 ≤ Config.junction s.fresh → t.arithClk = 10)
      ∧ (Config.junction s.fresh < 105 → Config.packagePower t.arithClk s.fresh ≤ (s.reg 0 0x6100).toNat % 4096 ∨ t.arithClk = 10)
      ∧ (Config.junction s.fresh < 105 → ∀ i, i ≤ 30 → t.arithClk < i → (s.reg 0 0x6100).toNat % 4096 < Config.packagePower i s.fresh)
      ∧ t.ctxs = s.ctxs ∧ t.tasks = s.tasks ∧ t.clock = s.clock ∧ SameMemory s t)
  ∧ (let core := sl / 16 * 8
     let z := s.raiseEvent core 32 34
     let told := (z.setCore core { z.coreOf core with parityAt := some (sl + row * 2 ^ 16) }).hyperNotice 31 (s.frameRec (frameOf line)).owner line
     let lost := dirty = true ∨ s.lineDirty line = true
     let gone (t : State) : Prop := ∀ a, a / 64 = line / 64 → Tbl.find? t.fcache a = none
     (¬ lost → ∃ t, exec (.tagParity sl row line dirty) s = .next t ∧ (sectorOf line ∉ (t.tile (tileOf line)).present) ∧ gone t
        ∧ (∀ a, a / 64 ≠ line / 64 → t.memByte a = told.memByte a) ∧ t.condition = s.condition)
     ∧ (lost → s.classFirmware (row / 32) = true → ∃ t, exec (.tagParity sl row line dirty) s = .next t ∧ t.condition = 2 ∧ t.agenda = [])
     ∧ (lost → s.classFirmware (row / 32) = false → s.classOwners (row / 32) = [] → ∃ t, exec (.tagParity sl row line dirty) s = .next t ∧ gone t
        ∧ t.condition = s.condition)
     ∧ (∀ w, lost → s.classFirmware (row / 32) = false → s.classOwners (row / 32) = [w] → exec (.tagParity sl row line dirty) s =
        .next ((told.dropLine line).killVf w (sl + row * 2 ^ 16) true)))
  ∧ (∃ t, exec (.memUe 0 addr who dirty) s = .next t ∧ (t.tile (tileOf addr)).bad = true)
  ∧ (s.lineDirty addr = false → exec (.memUe 1 addr who false) s = .next ((s.hyperNotice 31 (s.frameRec (frameOf addr)).owner addr).dropLine addr))
  ∧ (∃ t, exec (.memUe 7 addr who dirty) s = .next t ∧ t.condition = 2 ∧ t.agenda = [])
  ∧ (2 ≤ place → place ≤ 5 → exec (.memUe place addr who dirty) s =
      .next ((s.hyperNotice 31 (s.vfOf (who / 8) (who % 8)) addr).killFor (s.vfOf (who / 8) (who % 8)) (place - 1) addr))
  ∧ exec (.memUe 8 addr who dirty) s = .next { s with corrected := s.corrected + 1 }

/-! ## 01 and 10: hashes and the Rink's small words -/

/-- R163 and R172: PREP writes the address of its word plus four times its signed offset, and reads no memory; PREF completes in every state, changes no
register, flag or byte of memory, takes no trap, and is not a load for R87 (nothing of the context changes but the next word's address);
where every check of a load passes, the line is held by the far cache.

Completion (under the conditions on state and operands named, and no others, exec i s = next t with the t described) of prep, pref. -/
def Obligations.PrepAndPref : Prop := ∀ (s : State) (r : BitVec 3) (k : BitVec 23) (b : BitVec 5) (z : BitVec 2) (o : BitVec 14),
  let a := addrM s b z o
  exec (.prep r k) s = .next (s.setCx (s.cx.setB r.toNat (s.cx.pc + BitVec.ofInt 64 (4 * k.toInt))).advance)
  ∧ ∃ t, exec (.pref b z o) s = .next t ∧ t.cx = s.cx.advance ∧ SameMemory s t ∧ State.SameElse s t
    ∧ ∀ x, s.translate s.core s.ctx (a &&& ~~~63) .read .plain = .ok x → x.cls ≠ 2 →
        s.accessCheck (s.vfOf s.core s.ctx) x.pa 64 (a &&& ~~~63) = .ok () → t.sectorHeld x.pa = true

/-- R210: the slice a key's tuples live at, with the spec's own example. -/
def Obligations.MarketSlice : Prop := (∀ (f : Nat) (k : Word), mkSlice f k =
    ((List.range 11).foldl (fun s j => s ^^^ ((k.toNat ^^^ f) / 2 ^ (6 * j) % 64)) 0))
  ∧ mkSlice 0x12345 3 = 25 ∧ mkSlice 0x12345 3 / 16 = 1

/-! ## The whole machine -/

/-- R142, R144, R156 and R426 with the model's agenda (log 4): where the step at its head is a word's, and the bytes its unit fetches decode to an
instruction, the step is that instruction's meaning in the state after the fetch, seen through the telemetry of R415 and R416; a word that
is no instruction traps ILLEGAL, or PRIV in a user slot for the encodings R142 names, or faults its engine with STEP_ILLEGAL, or its episode; a step that has become due is the meaning of
the constructor of its own name (Due.Names gives the pairs), one that comes from outside that of its constructor, but that a graph's
launch goes behind everything else that the cycle still brings (R353), that a Rink core whose word is not over takes no other, and that
what is posted to a boundary comes after the trap of the boundary's own word (R376) and waits while a word of the slot has been sent to
another package (R208); and an agenda that has run out starts the next cycle. -/
def Obligations.StepRunsDecodedInstruction : Prop := ∀ (s : State) (rest : List Act), s.condition = 0 →
  (∀ core ctx w s', s.agenda = .ctl core ctx :: rest →
    (let z : State := { s with agenda := rest, core := core, ctx := ctx }
     z.ctxLive core ctx = true → z.fetchCtl core ctx = .ok (w, s') →
      (∀ i, decode .ctl w = some i → step s = mapNext (State.observe s (.ctl core ctx)) (exec i s'))
      ∧ (decode .ctl w = none → step s = mapNext (State.observe s (.ctl core ctx)) (.next (s'.takeTrap s'.core s'.ctx { cause :=
          (if ctx ≠ 4 ∧ (w / 2 ^ 26 = 0x3E ∨ ((w / 2 ^ 26 = 0x1B ∨ w / 2 ^ 26 = 0x1C) ∧ 0x8000 ≤ w % 2 ^ 16)) then 2 else 1) })))))
  ∧ (∀ core e w s' c a r, (c = .vec ∧ a = Act.vec core e ∨ c = .mat ∧ 4 ≤ e ∧ a = Act.mat core (e - 4) ∨ c = .copy ∧ 8 ≤ e ∧ a = Act.copy core (e - 8)) →
      s.agenda = a :: rest →
      (let z : State := { s with agenda := rest, core := core, eng := e }
       (z.engOf core e).run = some r → r.halted = false → z.engLive core e = true → z.fetchWord r.upc = .word w s' →
        (∀ i, ¬ (c = .copy ∧ w / 2 ^ 27 = 9) → decode c w = some i → step s = mapNext (State.observe s a) (exec i s'))
        ∧ (¬ (c = .copy ∧ w / 2 ^ 27 = 9) → decode c w = none →
            step s = mapNext (State.observe s a) (if s'.eng < 4 then s'.engineFault 12 else if s'.eng < 8 then s'.fragFault 12 0 else s'.copyFault 12))
        ∧ (∀ i f s'', c = .copy → w / 2 ^ 27 = 9 → s'.fetchWord (r.upc + 1) = .word f s'' → decode .copy (w + 2 ^ 32 * f) = some i →
            step s = mapNext (State.observe s a) (exec i s''))))
  ∧ (∀ n w s', s.agenda = .rink n :: rest → (s.rinkOf n).cycle ≤ s.rinkTime →
      (({ s with agenda := rest, rinkNo := n } : State).settleRink n).rinkFetch n = .ok w s' →
      (∀ i, decode .rink w = some i → step s = mapNext (State.observe s (.rink n)) (exec i s'))
      ∧ (decode .rink w = none → step s = mapNext (State.observe s (.rink n)) s'.rinkIllegal))
  ∧ (∀ d i, d.Names i → s.agenda = .due d :: rest → (∀ c k, d ≠ .postedFault c k ∧ d ≠ .postedAbort c k) →
      (Act.launch (.due d) = true → ∀ a ∈ rest, a.launch = true) →
      step s = mapNext (State.observe s (.due d)) (exec i { s with agenda := rest }))
  ∧ (∀ g, s.agenda = .due (.nodeLaunch g) :: rest → (∃ a ∈ rest, a.launch = false) →
      step s = .next (State.observe s (.due (.nodeLaunch g)) { s with agenda := rest ++ [.due (.nodeLaunch g)] }))
  ∧ (∀ d i c k, d.Names i → d = .postedFault c k ∨ d = .postedAbort c k → s.agenda = .due d :: rest →
      let z : State := { s with agenda := rest }
      let see := State.observe s (.due d)
      (z.sentBy c k none ≠ none → step s = .next (see z))
      ∧ (z.sentBy c k none = none →
        (z.wordTraps c k = none → step s = mapNext see (exec i z)) ∧ ∀ t, z.wordTraps c k = some t → step s = .next (see t)))
  ∧ (∀ i, s.agenda = .event i :: rest → step s = mapNext (State.observe s (.event i)) (exec i { s with agenda := rest }))
  ∧ (s.agenda = [] → step s = .next (s.observeCycle s.refill))

/-- What reset leaves, by the rules that say so (R15 and R378: no task, no trap, the stall limit of 2^24; R75 and R78: empty tables; R176, R217; R23 and R58: plan
WHOLE, no request, every slab free; R55: every fragment free; R244, R288: no gate is bound; R344, R349, R360, R365, R380, R407, R410, R425),
and that sealed memory has its canonical form. The window bases, the data registers and the bytes of memory that read zero are the model's choice (logs 1 and 2). -/
def Obligations.ResetState : Prop := let s := State.reset
  s.Inv ∧ s.condition = 0
  ∧ (∀ core ctx, (s.ctxOf core ctx).task = none ∧ (s.ctxOf core ctx).stopped = none ∧ (s.ctxOf core ctx).stallLim = 2 ^ 24 ∧ (s.ctxOf core ctx).vshape = 0x1008
      ∧ (s.ctxOf core ctx).accsel = 0 ∧ (∀ c, ((s.ctxOf core ctx).ring c).scount = 0) ∧ (∀ q, (s.ctxOf core ctx).qreg q = 0) ∧ (s.ctxOf core ctx).held = [])
  ∧ (∀ core, (s.coreOf core).plan = 0 ∧ (s.coreOf core).pendv = false ∧ (s.coreOf core).reqs = [] ∧ (s.coreOf core).fwshare = 2
      ∧ (s.coreOf core).allocctl = BitVec.ofNat 64 (18 * 2 ^ 8 + 20) ∧ s.partOf core = core ∧ (s.coreOf core).enabled = true)
  ∧ (∀ core j, s.accCode core j = 7) ∧ (∀ core k, (s.fragOf core k).state = 0) ∧ (∀ core e, (s.engOf core e).queue = [] ∧ (s.engOf core e).run = none)
  ∧ (∀ g, (s.gateOf g).state = 0) ∧ (∀ vf k va kind op, xlate (s.tableOf vf k) va kind op = failWith 4 va)
  ∧ (∀ f, (s.frameRec f).owner = if 2 ^ 18 - 1024 ≤ f ∧ f < 2 ^ 18 then 0 else 0x7F)
  ∧ (∀ vf q, (s.queueOf vf q).en = false ∧ (s.queueOf vf q).halted = false)
  ∧ (∀ vf, 1 ≤ vf → s.reg vf 0 = BitVec.ofNat 64 (2000000 * 2 ^ 32 + 64 * 2 ^ 24 + 64 * 2 ^ 16) ∧ s.reg vf 0x48 = 0x0000101010101010 ∧ s.reg vf 8 = 0)
  ∧ (∀ c, c < 32 → s.reg 0 (0x5000 + 8 * c) = BitVec.ofNat 64 (c * 256 + 1)) ∧ (∀ i, i < 32 → s.reg 0 (0x5300 + 8 * i) = 1)
  ∧ s.reg 0 0x6100 = BitVec.ofNat 64 (30 * 2 ^ 24 + 3600) ∧ s.reg 0 0x3060 = BitVec.ofNat 64 (0x7F * 2 ^ 40) ∧ s.arithClk = 30 ∧ s.pool = [] ∧ s.watches = []

/-- R145 to R156: words the spec works out itself, read by the decoder of their unit; a word it says is no instruction is refused. -/
def Obligations.DecodeWords : Prop := decode .ctl 0x0862FFFB = some (.addi 3 2 0xFFFB) ∧ decode .ctl 0x4086C005 = some (.ld 4 6 3 5) ∧ decode .ctl 0x2CA08001 = some (.cmpi 1 4 2 1)
  ∧ decode .ctl 0x3472F800 = some (.xferR 7 0 0 31) ∧ decode .ctl 0x37F1F800 = some (.xferL 7 7 0 0 31) ∧ decode .ctl 0x9805_0000 = some (.phase 5)
  ∧ decode .vec 0x040828A8 = some (.vadd 1 2 0x45 0 1 0) ∧ decode .mat 0x0C2244B0 = some (.mma 1 0 0 1 1 2 300 0)
  ∧ decode .copy 0x08920A28 = some (.cldRing 0 0 0 1 9 0 2 5) ∧ decode .rink 0x00B5100B = some (.mbSend 11 10)
  ∧ decode .ctl 0x8862FFFB = none ∧ decode .ctl 0 = none ∧ decode .vec 0 = none ∧ decode .mat 0 = none ∧ decode .copy 0 = none
  ∧ decode .mat (0x0C2244B0 + 3) = none

/-- Every well-formed instruction is read back from the word the encoder gives it, with every operand at every value its encoding admits; and the encoder
gives a word to every well-formed instruction but a step without one. -/
def Obligations.DecodeAfterEncode : Prop := (∀ i : Instr, Laws.Encodes.Statement i) ∧ ∀ i : Instr, i.wf = true → i.cls ≠ .event → ∃ w, encode i = some w

/-- Every instruction whose fields name units the package has goes on in a next state, from every state: nothing ends a run. -/
def Obligations.WellFormedGoesOn : Prop := ∀ (i : Instr) (s : State), i.wf = true → Completes (exec i s)

/-- Every step keeps the canonical form of sealed memory: strictly rising addresses, and no entry that equals what an unlisted address reads as. -/
def Obligations.StepKeepsMemory : Prop := ∀ s t : State, s.Inv → step s = .next t → t.Inv
end

