-- ==== Sys2Proof/Laws/State.lean ====
section
/-!
SUPPORT. What each plain update of the state leaves of every other field: one lemma per field per update, so that no proof unfolds a
record update.
-/

set_option linter.all false

namespace Sys2Proof.Machine

@[simp] theorem State.setCtx_cycle (s : State) (a b : Nat) (v : Ctx) : (s.setCtx a b v).cycle = s.cycle := rfl
@[simp] theorem State.setCtx_clock (s : State) (a b : Nat) (v : Ctx) : (s.setCtx a b v).clock = s.clock := rfl
@[simp] theorem State.setCtx_agenda (s : State) (a b : Nat) (v : Ctx) : (s.setCtx a b v).agenda = s.agenda := rfl
@[simp] theorem State.setCtx_core (s : State) (a b : Nat) (v : Ctx) : (s.setCtx a b v).core = s.core := rfl
@[simp] theorem State.setCtx_ctx (s : State) (a b : Nat) (v : Ctx) : (s.setCtx a b v).ctx = s.ctx := rfl
@[simp] theorem State.setCtx_eng (s : State) (a b : Nat) (v : Ctx) : (s.setCtx a b v).eng = s.eng := rfl
@[simp] theorem State.setCtx_rinkNo (s : State) (a b : Nat) (v : Ctx) : (s.setCtx a b v).rinkNo = s.rinkNo := rfl
@[simp] theorem State.setCtx_fresh (s : State) (a b : Nat) (v : Ctx) : (s.setCtx a b v).fresh = s.fresh := rfl
@[simp] theorem State.setCtx_landing (s : State) (a b : Nat) (v : Ctx) : (s.setCtx a b v).landing = s.landing := rfl
@[simp] theorem State.setCtx_condition (s : State) (a b : Nat) (v : Ctx) : (s.setCtx a b v).condition = s.condition := rfl
@[simp] theorem State.setCtx_engs (s : State) (a b : Nat) (v : Ctx) : (s.setCtx a b v).engs = s.engs := rfl
@[simp] theorem State.setCtx_vecs (s : State) (a b : Nat) (v : Ctx) : (s.setCtx a b v).vecs = s.vecs := rfl
@[simp] theorem State.setCtx_frags (s : State) (a b : Nat) (v : Ctx) : (s.setCtx a b v).frags = s.frags := rfl
@[simp] theorem State.setCtx_links (s : State) (a b : Nat) (v : Ctx) : (s.setCtx a b v).links = s.links := rfl
@[simp] theorem State.setCtx_copies (s : State) (a b : Nat) (v : Ctx) : (s.setCtx a b v).copies = s.copies := rfl
@[simp] theorem State.setCtx_cores (s : State) (a b : Nat) (v : Ctx) : (s.setCtx a b v).cores = s.cores := rfl
@[simp] theorem State.setCtx_abuf (s : State) (a b : Nat) (v : Ctx) : (s.setCtx a b v).abuf = s.abuf := rfl
@[simp] theorem State.setCtx_cbuf (s : State) (a b : Nat) (v : Ctx) : (s.setCtx a b v).cbuf = s.cbuf := rfl
@[simp] theorem State.setCtx_wbuf (s : State) (a b : Nat) (v : Ctx) : (s.setCtx a b v).wbuf = s.wbuf := rfl
@[simp] theorem State.setCtx_wkeys (s : State) (a b : Nat) (v : Ctx) : (s.setCtx a b v).wkeys = s.wkeys := rfl
@[simp] theorem State.setCtx_accown (s : State) (a b : Nat) (v : Ctx) : (s.setCtx a b v).accown = s.accown := rfl
@[simp] theorem State.setCtx_holder (s : State) (a b : Nat) (v : Ctx) : (s.setCtx a b v).holder = s.holder := rfl
@[simp] theorem State.setCtx_tasks (s : State) (a b : Nat) (v : Ctx) : (s.setCtx a b v).tasks = s.tasks := rfl
@[simp] theorem State.setCtx_nodes (s : State) (a b : Nat) (v : Ctx) : (s.setCtx a b v).nodes = s.nodes := rfl
@[simp] theorem State.setCtx_pool (s : State) (a b : Nat) (v : Ctx) : (s.setCtx a b v).pool = s.pool := rfl
@[simp] theorem State.setCtx_nextTask (s : State) (a b : Nat) (v : Ctx) : (s.setCtx a b v).nextTask = s.nextTask := rfl
@[simp] theorem State.setCtx_nextNode (s : State) (a b : Nat) (v : Ctx) : (s.setCtx a b v).nextNode = s.nextNode := rfl
@[simp] theorem State.setCtx_nextGraph (s : State) (a b : Nat) (v : Ctx) : (s.setCtx a b v).nextGraph = s.nextGraph := rfl
@[simp] theorem State.setCtx_mem (s : State) (a b : Nat) (v : Ctx) : (s.setCtx a b v).mem = s.mem := rfl
@[simp] theorem State.setCtx_fcache (s : State) (a b : Nat) (v : Ctx) : (s.setCtx a b v).fcache = s.fcache := rfl
@[simp] theorem State.setCtx_tiles (s : State) (a b : Nat) (v : Ctx) : (s.setCtx a b v).tiles = s.tiles := rfl
@[simp] theorem State.setCtx_frames (s : State) (a b : Nat) (v : Ctx) : (s.setCtx a b v).frames = s.frames := rfl
@[simp] theorem State.setCtx_metaFrames (s : State) (a b : Nat) (v : Ctx) : (s.setCtx a b v).metaFrames = s.metaFrames := rfl
@[simp] theorem State.setCtx_kgens (s : State) (a b : Nat) (v : Ctx) : (s.setCtx a b v).kgens = s.kgens := rfl
@[simp] theorem State.setCtx_sealDraws (s : State) (a b : Nat) (v : Ctx) : (s.setCtx a b v).sealDraws = s.sealDraws := rfl
@[simp] theorem State.setCtx_sealDraw (s : State) (a b : Nat) (v : Ctx) : (s.setCtx a b v).sealDraw = s.sealDraw := rfl
@[simp] theorem State.setCtx_watches (s : State) (a b : Nat) (v : Ctx) : (s.setCtx a b v).watches = s.watches := rfl
@[simp] theorem State.setCtx_market (s : State) (a b : Nat) (v : Ctx) : (s.setCtx a b v).market = s.market := rfl
@[simp] theorem State.setCtx_tables (s : State) (a b : Nat) (v : Ctx) : (s.setCtx a b v).tables = s.tables := rfl
@[simp] theorem State.setCtx_bar (s : State) (a b : Nat) (v : Ctx) : (s.setCtx a b v).bar = s.bar := rfl
@[simp] theorem State.setCtx_queues (s : State) (a b : Nat) (v : Ctx) : (s.setCtx a b v).queues = s.queues := rfl
@[simp] theorem State.setCtx_graphs (s : State) (a b : Nat) (v : Ctx) : (s.setCtx a b v).graphs = s.graphs := rfl
@[simp] theorem State.setCtx_gates (s : State) (a b : Nat) (v : Ctx) : (s.setCtx a b v).gates = s.gates := rfl
@[simp] theorem State.setCtx_episodes (s : State) (a b : Nat) (v : Ctx) : (s.setCtx a b v).episodes = s.episodes := rfl
@[simp] theorem State.setCtx_eptMap (s : State) (a b : Nat) (v : Ctx) : (s.setCtx a b v).eptMap = s.eptMap := rfl
@[simp] theorem State.setCtx_nextArm (s : State) (a b : Nat) (v : Ctx) : (s.setCtx a b v).nextArm = s.nextArm := rfl
@[simp] theorem State.setCtx_rinks (s : State) (a b : Nat) (v : Ctx) : (s.setCtx a b v).rinks = s.rinks := rfl
@[simp] theorem State.setCtx_polgen (s : State) (a b : Nat) (v : Ctx) : (s.setCtx a b v).polgen = s.polgen := rfl
@[simp] theorem State.setCtx_frozen (s : State) (a b : Nat) (v : Ctx) : (s.setCtx a b v).frozen = s.frozen := rfl
@[simp] theorem State.setCtx_areas (s : State) (a b : Nat) (v : Ctx) : (s.setCtx a b v).areas = s.areas := rfl
@[simp] theorem State.setCtx_trackAt (s : State) (a b : Nat) (v : Ctx) : (s.setCtx a b v).trackAt = s.trackAt := rfl
@[simp] theorem State.setCtx_migRecs (s : State) (a b : Nat) (v : Ctx) : (s.setCtx a b v).migRecs = s.migRecs := rfl
@[simp] theorem State.setCtx_princeKey (s : State) (a b : Nat) (v : Ctx) : (s.setCtx a b v).princeKey = s.princeKey := rfl
@[simp] theorem State.setCtx_imports (s : State) (a b : Nat) (v : Ctx) : (s.setCtx a b v).imports = s.imports := rfl
@[simp] theorem State.setCtx_exports (s : State) (a b : Nat) (v : Ctx) : (s.setCtx a b v).exports = s.exports := rfl
@[simp] theorem State.setCtx_redwins (s : State) (a b : Nat) (v : Ctx) : (s.setCtx a b v).redwins = s.redwins := rfl
@[simp] theorem State.setCtx_memberCount (s : State) (a b : Nat) (v : Ctx) : (s.setCtx a b v).memberCount = s.memberCount := rfl
@[simp] theorem State.setCtx_fabReqs (s : State) (a b : Nat) (v : Ctx) : (s.setCtx a b v).fabReqs = s.fabReqs := rfl
@[simp] theorem State.setCtx_crwWaiting (s : State) (a b : Nat) (v : Ctx) : (s.setCtx a b v).crwWaiting = s.crwWaiting := rfl
@[simp] theorem State.setCtx_loading (s : State) (a b : Nat) (v : Ctx) : (s.setCtx a b v).loading = s.loading := rfl
@[simp] theorem State.setCtx_arrivals (s : State) (a b : Nat) (v : Ctx) : (s.setCtx a b v).arrivals = s.arrivals := rfl
@[simp] theorem State.setCtx_portUp (s : State) (a b : Nat) (v : Ctx) : (s.setCtx a b v).portUp = s.portUp := rfl
@[simp] theorem State.setCtx_feTurn (s : State) (a b : Nat) (v : Ctx) : (s.setCtx a b v).feTurn = s.feTurn := rfl
@[simp] theorem State.setCtx_partTurn (s : State) (a b : Nat) (v : Ctx) : (s.setCtx a b v).partTurn = s.partTurn := rfl
@[simp] theorem State.setCtx_nwrite (s : State) (a b : Nat) (v : Ctx) : (s.setCtx a b v).nwrite = s.nwrite := rfl
@[simp] theorem State.setCtx_pageWanted (s : State) (a b : Nat) (v : Ctx) : (s.setCtx a b v).pageWanted = s.pageWanted := rfl
@[simp] theorem State.setCtx_irqs (s : State) (a b : Nat) (v : Ctx) : (s.setCtx a b v).irqs = s.irqs := rfl
@[simp] theorem State.setCtx_msix (s : State) (a b : Nat) (v : Ctx) : (s.setCtx a b v).msix = s.msix := rfl
@[simp] theorem State.setCtx_msixPending (s : State) (a b : Nat) (v : Ctx) : (s.setCtx a b v).msixPending = s.msixPending := rfl
@[simp] theorem State.setCtx_hdmSize (s : State) (a b : Nat) (v : Ctx) : (s.setCtx a b v).hdmSize = s.hdmSize := rfl
@[simp] theorem State.setCtx_evGap (s : State) (a b : Nat) (v : Ctx) : (s.setCtx a b v).evGap = s.evGap := rfl
@[simp] theorem State.setCtx_spdm (s : State) (a b : Nat) (v : Ctx) : (s.setCtx a b v).spdm = s.spdm := rfl
@[simp] theorem State.setCtx_fuseSeed (s : State) (a b : Nat) (v : Ctx) : (s.setCtx a b v).fuseSeed = s.fuseSeed := rfl
@[simp] theorem State.setCtx_identity (s : State) (a b : Nat) (v : Ctx) : (s.setCtx a b v).identity = s.identity := rfl
@[simp] theorem State.setCtx_certs (s : State) (a b : Nat) (v : Ctx) : (s.setCtx a b v).certs = s.certs := rfl
@[simp] theorem State.setCtx_corrected (s : State) (a b : Nat) (v : Ctx) : (s.setCtx a b v).corrected = s.corrected := rfl
@[simp] theorem State.setCtx_banks (s : State) (a b : Nat) (v : Ctx) : (s.setCtx a b v).banks = s.banks := rfl
@[simp] theorem State.setCtx_activeBank (s : State) (a b : Nat) (v : Ctx) : (s.setCtx a b v).activeBank = s.activeBank := rfl
@[simp] theorem State.setCtx_fwuNew (s : State) (a b : Nat) (v : Ctx) : (s.setCtx a b v).fwuNew = s.fwuNew := rfl
@[simp] theorem State.setCtx_svnMin (s : State) (a b : Nat) (v : Ctx) : (s.setCtx a b v).svnMin = s.svnMin := rfl
@[simp] theorem State.setCtx_fuses (s : State) (a b : Nat) (v : Ctx) : (s.setCtx a b v).fuses = s.fuses := rfl
@[simp] theorem State.setCtx_arithClk (s : State) (a b : Nat) (v : Ctx) : (s.setCtx a b v).arithClk = s.arithClk := rfl
@[simp] theorem State.setCtx_wdogs (s : State) (a b : Nat) (v : Ctx) : (s.setCtx a b v).wdogs = s.wdogs := rfl
@[simp] theorem State.setCtx_errors (s : State) (a b : Nat) (v : Ctx) : (s.setCtx a b v).errors = s.errors := rfl

@[simp] theorem State.setCx_cycle (s : State) (v : Ctx) : (s.setCx v).cycle = s.cycle := rfl
@[simp] theorem State.setCx_clock (s : State) (v : Ctx) : (s.setCx v).clock = s.clock := rfl
@[simp] theorem State.setCx_agenda (s : State) (v : Ctx) : (s.setCx v).agenda = s.agenda := rfl
@[simp] theorem State.setCx_core (s : State) (v : Ctx) : (s.setCx v).core = s.core := rfl
@[simp] theorem State.setCx_ctx (s : State) (v : Ctx) : (s.setCx v).ctx = s.ctx := rfl
@[simp] theorem State.setCx_eng (s : State) (v : Ctx) : (s.setCx v).eng = s.eng := rfl
@[simp] theorem State.setCx_rinkNo (s : State) (v : Ctx) : (s.setCx v).rinkNo = s.rinkNo := rfl
@[simp] theorem State.setCx_fresh (s : State) (v : Ctx) : (s.setCx v).fresh = s.fresh := rfl
@[simp] theorem State.setCx_landing (s : State) (v : Ctx) : (s.setCx v).landing = s.landing := rfl
@[simp] theorem State.setCx_condition (s : State) (v : Ctx) : (s.setCx v).condition = s.condition := rfl
@[simp] theorem State.setCx_engs (s : State) (v : Ctx) : (s.setCx v).engs = s.engs := rfl
@[simp] theorem State.setCx_vecs (s : State) (v : Ctx) : (s.setCx v).vecs = s.vecs := rfl
@[simp] theorem State.setCx_frags (s : State) (v : Ctx) : (s.setCx v).frags = s.frags := rfl
@[simp] theorem State.setCx_links (s : State) (v : Ctx) : (s.setCx v).links = s.links := rfl
@[simp] theorem State.setCx_copies (s : State) (v : Ctx) : (s.setCx v).copies = s.copies := rfl
@[simp] theorem State.setCx_cores (s : State) (v : Ctx) : (s.setCx v).cores = s.cores := rfl
@[simp] theorem State.setCx_abuf (s : State) (v : Ctx) : (s.setCx v).abuf = s.abuf := rfl
@[simp] theorem State.setCx_cbuf (s : State) (v : Ctx) : (s.setCx v).cbuf = s.cbuf := rfl
@[simp] theorem State.setCx_wbuf (s : State) (v : Ctx) : (s.setCx v).wbuf = s.wbuf := rfl
@[simp] theorem State.setCx_wkeys (s : State) (v : Ctx) : (s.setCx v).wkeys = s.wkeys := rfl
@[simp] theorem State.setCx_accown (s : State) (v : Ctx) : (s.setCx v).accown = s.accown := rfl
@[simp] theorem State.setCx_holder (s : State) (v : Ctx) : (s.setCx v).holder = s.holder := rfl
@[simp] theorem State.setCx_tasks (s : State) (v : Ctx) : (s.setCx v).tasks = s.tasks := rfl
@[simp] theorem State.setCx_nodes (s : State) (v : Ctx) : (s.setCx v).nodes = s.nodes := rfl
@[simp] theorem State.setCx_pool (s : State) (v : Ctx) : (s.setCx v).pool = s.pool := rfl
@[simp] theorem State.setCx_nextTask (s : State) (v : Ctx) : (s.setCx v).nextTask = s.nextTask := rfl
@[simp] theorem State.setCx_nextNode (s : State) (v : Ctx) : (s.setCx v).nextNode = s.nextNode := rfl
@[simp] theorem State.setCx_nextGraph (s : State) (v : Ctx) : (s.setCx v).nextGraph = s.nextGraph := rfl
@[simp] theorem State.setCx_mem (s : State) (v : Ctx) : (s.setCx v).mem = s.mem := rfl
@[simp] theorem State.setCx_fcache (s : State) (v : Ctx) : (s.setCx v).fcache = s.fcache := rfl
@[simp] theorem State.setCx_tiles (s : State) (v : Ctx) : (s.setCx v).tiles = s.tiles := rfl
@[simp] theorem State.setCx_frames (s : State) (v : Ctx) : (s.setCx v).frames = s.frames := rfl
@[simp] theorem State.setCx_metaFrames (s : State) (v : Ctx) : (s.setCx v).metaFrames = s.metaFrames := rfl
@[simp] theorem State.setCx_kgens (s : State) (v : Ctx) : (s.setCx v).kgens = s.kgens := rfl
@[simp] theorem State.setCx_sealDraws (s : State) (v : Ctx) : (s.setCx v).sealDraws = s.sealDraws := rfl
@[simp] theorem State.setCx_sealDraw (s : State) (v : Ctx) : (s.setCx v).sealDraw = s.sealDraw := rfl
@[simp] theorem State.setCx_watches (s : State) (v : Ctx) : (s.setCx v).watches = s.watches := rfl
@[simp] theorem State.setCx_market (s : State) (v : Ctx) : (s.setCx v).market = s.market := rfl
@[simp] theorem State.setCx_tables (s : State) (v : Ctx) : (s.setCx v).tables = s.tables := rfl
@[simp] theorem State.setCx_bar (s : State) (v : Ctx) : (s.setCx v).bar = s.bar := rfl
@[simp] theorem State.setCx_queues (s : State) (v : Ctx) : (s.setCx v).queues = s.queues := rfl
@[simp] theorem State.setCx_graphs (s : State) (v : Ctx) : (s.setCx v).graphs = s.graphs := rfl
@[simp] theorem State.setCx_gates (s : State) (v : Ctx) : (s.setCx v).gates = s.gates := rfl
@[simp] theorem State.setCx_episodes (s : State) (v : Ctx) : (s.setCx v).episodes = s.episodes := rfl
@[simp] theorem State.setCx_eptMap (s : State) (v : Ctx) : (s.setCx v).eptMap = s.eptMap := rfl
@[simp] theorem State.setCx_nextArm (s : State) (v : Ctx) : (s.setCx v).nextArm = s.nextArm := rfl
@[simp] theorem State.setCx_rinks (s : State) (v : Ctx) : (s.setCx v).rinks = s.rinks := rfl
@[simp] theorem State.setCx_polgen (s : State) (v : Ctx) : (s.setCx v).polgen = s.polgen := rfl
@[simp] theorem State.setCx_frozen (s : State) (v : Ctx) : (s.setCx v).frozen = s.frozen := rfl
@[simp] theorem State.setCx_areas (s : State) (v : Ctx) : (s.setCx v).areas = s.areas := rfl
@[simp] theorem State.setCx_trackAt (s : State) (v : Ctx) : (s.setCx v).trackAt = s.trackAt := rfl
@[simp] theorem State.setCx_migRecs (s : State) (v : Ctx) : (s.setCx v).migRecs = s.migRecs := rfl
@[simp] theorem State.setCx_princeKey (s : State) (v : Ctx) : (s.setCx v).princeKey = s.princeKey := rfl
@[simp] theorem State.setCx_imports (s : State) (v : Ctx) : (s.setCx v).imports = s.imports := rfl
@[simp] theorem State.setCx_exports (s : State) (v : Ctx) : (s.setCx v).exports = s.exports := rfl
@[simp] theorem State.setCx_redwins (s : State) (v : Ctx) : (s.setCx v).redwins = s.redwins := rfl
@[simp] theorem State.setCx_memberCount (s : State) (v : Ctx) : (s.setCx v).memberCount = s.memberCount := rfl
@[simp] theorem State.setCx_fabReqs (s : State) (v : Ctx) : (s.setCx v).fabReqs = s.fabReqs := rfl
@[simp] theorem State.setCx_crwWaiting (s : State) (v : Ctx) : (s.setCx v).crwWaiting = s.crwWaiting := rfl
@[simp] theorem State.setCx_loading (s : State) (v : Ctx) : (s.setCx v).loading = s.loading := rfl
@[simp] theorem State.setCx_arrivals (s : State) (v : Ctx) : (s.setCx v).arrivals = s.arrivals := rfl
@[simp] theorem State.setCx_portUp (s : State) (v : Ctx) : (s.setCx v).portUp = s.portUp := rfl
@[simp] theorem State.setCx_feTurn (s : State) (v : Ctx) : (s.setCx v).feTurn = s.feTurn := rfl
@[simp] theorem State.setCx_partTurn (s : State) (v : Ctx) : (s.setCx v).partTurn = s.partTurn := rfl
@[simp] theorem State.setCx_nwrite (s : State) (v : Ctx) : (s.setCx v).nwrite = s.nwrite := rfl
@[simp] theorem State.setCx_pageWanted (s : State) (v : Ctx) : (s.setCx v).pageWanted = s.pageWanted := rfl
@[simp] theorem State.setCx_irqs (s : State) (v : Ctx) : (s.setCx v).irqs = s.irqs := rfl
@[simp] theorem State.setCx_msix (s : State) (v : Ctx) : (s.setCx v).msix = s.msix := rfl
@[simp] theorem State.setCx_msixPending (s : State) (v : Ctx) : (s.setCx v).msixPending = s.msixPending := rfl
@[simp] theorem State.setCx_hdmSize (s : State) (v : Ctx) : (s.setCx v).hdmSize = s.hdmSize := rfl
@[simp] theorem State.setCx_evGap (s : State) (v : Ctx) : (s.setCx v).evGap = s.evGap := rfl
@[simp] theorem State.setCx_spdm (s : State) (v : Ctx) : (s.setCx v).spdm = s.spdm := rfl
@[simp] theorem State.setCx_fuseSeed (s : State) (v : Ctx) : (s.setCx v).fuseSeed = s.fuseSeed := rfl
@[simp] theorem State.setCx_identity (s : State) (v : Ctx) : (s.setCx v).identity = s.identity := rfl
@[simp] theorem State.setCx_certs (s : State) (v : Ctx) : (s.setCx v).certs = s.certs := rfl
@[simp] theorem State.setCx_corrected (s : State) (v : Ctx) : (s.setCx v).corrected = s.corrected := rfl
@[simp] theorem State.setCx_banks (s : State) (v : Ctx) : (s.setCx v).banks = s.banks := rfl
@[simp] theorem State.setCx_activeBank (s : State) (v : Ctx) : (s.setCx v).activeBank = s.activeBank := rfl
@[simp] theorem State.setCx_fwuNew (s : State) (v : Ctx) : (s.setCx v).fwuNew = s.fwuNew := rfl
@[simp] theorem State.setCx_svnMin (s : State) (v : Ctx) : (s.setCx v).svnMin = s.svnMin := rfl
@[simp] theorem State.setCx_fuses (s : State) (v : Ctx) : (s.setCx v).fuses = s.fuses := rfl
@[simp] theorem State.setCx_arithClk (s : State) (v : Ctx) : (s.setCx v).arithClk = s.arithClk := rfl
@[simp] theorem State.setCx_wdogs (s : State) (v : Ctx) : (s.setCx v).wdogs = s.wdogs := rfl
@[simp] theorem State.setCx_errors (s : State) (v : Ctx) : (s.setCx v).errors = s.errors := rfl

@[simp] theorem State.setEng_cycle (s : State) (a b : Nat) (v : Eng) : (s.setEng a b v).cycle = s.cycle := rfl
@[simp] theorem State.setEng_clock (s : State) (a b : Nat) (v : Eng) : (s.setEng a b v).clock = s.clock := rfl
@[simp] theorem State.setEng_agenda (s : State) (a b : Nat) (v : Eng) : (s.setEng a b v).agenda = s.agenda := rfl
@[simp] theorem State.setEng_core (s : State) (a b : Nat) (v : Eng) : (s.setEng a b v).core = s.core := rfl
@[simp] theorem State.setEng_ctx (s : State) (a b : Nat) (v : Eng) : (s.setEng a b v).ctx = s.ctx := rfl
@[simp] theorem State.setEng_eng (s : State) (a b : Nat) (v : Eng) : (s.setEng a b v).eng = s.eng := rfl
@[simp] theorem State.setEng_rinkNo (s : State) (a b : Nat) (v : Eng) : (s.setEng a b v).rinkNo = s.rinkNo := rfl
@[simp] theorem State.setEng_fresh (s : State) (a b : Nat) (v : Eng) : (s.setEng a b v).fresh = s.fresh := rfl
@[simp] theorem State.setEng_landing (s : State) (a b : Nat) (v : Eng) : (s.setEng a b v).landing = s.landing := rfl
@[simp] theorem State.setEng_condition (s : State) (a b : Nat) (v : Eng) : (s.setEng a b v).condition = s.condition := rfl
@[simp] theorem State.setEng_ctxs (s : State) (a b : Nat) (v : Eng) : (s.setEng a b v).ctxs = s.ctxs := rfl
@[simp] theorem State.setEng_vecs (s : State) (a b : Nat) (v : Eng) : (s.setEng a b v).vecs = s.vecs := rfl
@[simp] theorem State.setEng_frags (s : State) (a b : Nat) (v : Eng) : (s.setEng a b v).frags = s.frags := rfl
@[simp] theorem State.setEng_links (s : State) (a b : Nat) (v : Eng) : (s.setEng a b v).links = s.links := rfl
@[simp] theorem State.setEng_copies (s : State) (a b : Nat) (v : Eng) : (s.setEng a b v).copies = s.copies := rfl
@[simp] theorem State.setEng_cores (s : State) (a b : Nat) (v : Eng) : (s.setEng a b v).cores = s.cores := rfl
@[simp] theorem State.setEng_abuf (s : State) (a b : Nat) (v : Eng) : (s.setEng a b v).abuf = s.abuf := rfl
@[simp] theorem State.setEng_cbuf (s : State) (a b : Nat) (v : Eng) : (s.setEng a b v).cbuf = s.cbuf := rfl
@[simp] theorem State.setEng_wbuf (s : State) (a b : Nat) (v : Eng) : (s.setEng a b v).wbuf = s.wbuf := rfl
@[simp] theorem State.setEng_wkeys (s : State) (a b : Nat) (v : Eng) : (s.setEng a b v).wkeys = s.wkeys := rfl
@[simp] theorem State.setEng_accown (s : State) (a b : Nat) (v : Eng) : (s.setEng a b v).accown = s.accown := rfl
@[simp] theorem State.setEng_holder (s : State) (a b : Nat) (v : Eng) : (s.setEng a b v).holder = s.holder := rfl
@[simp] theorem State.setEng_tasks (s : State) (a b : Nat) (v : Eng) : (s.setEng a b v).tasks = s.tasks := rfl
@[simp] theorem State.setEng_nodes (s : State) (a b : Nat) (v : Eng) : (s.setEng a b v).nodes = s.nodes := rfl
@[simp] theorem State.setEng_pool (s : State) (a b : Nat) (v : Eng) : (s.setEng a b v).pool = s.pool := rfl
@[simp] theorem State.setEng_nextTask (s : State) (a b : Nat) (v : Eng) : (s.setEng a b v).nextTask = s.nextTask := rfl
@[simp] theorem State.setEng_nextNode (s : State) (a b : Nat) (v : Eng) : (s.setEng a b v).nextNode = s.nextNode := rfl
@[simp] theorem State.setEng_nextGraph (s : State) (a b : Nat) (v : Eng) : (s.setEng a b v).nextGraph = s.nextGraph := rfl
@[simp] theorem State.setEng_mem (s : State) (a b : Nat) (v : Eng) : (s.setEng a b v).mem = s.mem := rfl
@[simp] theorem State.setEng_fcache (s : State) (a b : Nat) (v : Eng) : (s.setEng a b v).fcache = s.fcache := rfl
@[simp] theorem State.setEng_tiles (s : State) (a b : Nat) (v : Eng) : (s.setEng a b v).tiles = s.tiles := rfl
@[simp] theorem State.setEng_frames (s : State) (a b : Nat) (v : Eng) : (s.setEng a b v).frames = s.frames := rfl
@[simp] theorem State.setEng_metaFrames (s : State) (a b : Nat) (v : Eng) : (s.setEng a b v).metaFrames = s.metaFrames := rfl
@[simp] theorem State.setEng_kgens (s : State) (a b : Nat) (v : Eng) : (s.setEng a b v).kgens = s.kgens := rfl
@[simp] theorem State.setEng_sealDraws (s : State) (a b : Nat) (v : Eng) : (s.setEng a b v).sealDraws = s.sealDraws := rfl
@[simp] theorem State.setEng_sealDraw (s : State) (a b : Nat) (v : Eng) : (s.setEng a b v).sealDraw = s.sealDraw := rfl
@[simp] theorem State.setEng_watches (s : State) (a b : Nat) (v : Eng) : (s.setEng a b v).watches = s.watches := rfl
@[simp] theorem State.setEng_market (s : State) (a b : Nat) (v : Eng) : (s.setEng a b v).market = s.market := rfl
@[simp] theorem State.setEng_tables (s : State) (a b : Nat) (v : Eng) : (s.setEng a b v).tables = s.tables := rfl
@[simp] theorem State.setEng_bar (s : State) (a b : Nat) (v : Eng) : (s.setEng a b v).bar = s.bar := rfl
@[simp] theorem State.setEng_queues (s : State) (a b : Nat) (v : Eng) : (s.setEng a b v).queues = s.queues := rfl
@[simp] theorem State.setEng_graphs (s : State) (a b : Nat) (v : Eng) : (s.setEng a b v).graphs = s.graphs := rfl
@[simp] theorem State.setEng_gates (s : State) (a b : Nat) (v : Eng) : (s.setEng a b v).gates = s.gates := rfl
@[simp] theorem State.setEng_episodes (s : State) (a b : Nat) (v : Eng) : (s.setEng a b v).episodes = s.episodes := rfl
@[simp] theorem State.setEng_eptMap (s : State) (a b : Nat) (v : Eng) : (s.setEng a b v).eptMap = s.eptMap := rfl
@[simp] theorem State.setEng_nextArm (s : State) (a b : Nat) (v : Eng) : (s.setEng a b v).nextArm = s.nextArm := rfl
@[simp] theorem State.setEng_rinks (s : State) (a b : Nat) (v : Eng) : (s.setEng a b v).rinks = s.rinks := rfl
@[simp] theorem State.setEng_polgen (s : State) (a b : Nat) (v : Eng) : (s.setEng a b v).polgen = s.polgen := rfl
@[simp] theorem State.setEng_frozen (s : State) (a b : Nat) (v : Eng) : (s.setEng a b v).frozen = s.frozen := rfl
@[simp] theorem State.setEng_areas (s : State) (a b : Nat) (v : Eng) : (s.setEng a b v).areas = s.areas := rfl
@[simp] theorem State.setEng_trackAt (s : State) (a b : Nat) (v : Eng) : (s.setEng a b v).trackAt = s.trackAt := rfl
@[simp] theorem State.setEng_migRecs (s : State) (a b : Nat) (v : Eng) : (s.setEng a b v).migRecs = s.migRecs := rfl
@[simp] theorem State.setEng_princeKey (s : State) (a b : Nat) (v : Eng) : (s.setEng a b v).princeKey = s.princeKey := rfl
@[simp] theorem State.setEng_imports (s : State) (a b : Nat) (v : Eng) : (s.setEng a b v).imports = s.imports := rfl
@[simp] theorem State.setEng_exports (s : State) (a b : Nat) (v : Eng) : (s.setEng a b v).exports = s.exports := rfl
@[simp] theorem State.setEng_redwins (s : State) (a b : Nat) (v : Eng) : (s.setEng a b v).redwins = s.redwins := rfl
@[simp] theorem State.setEng_memberCount (s : State) (a b : Nat) (v : Eng) : (s.setEng a b v).memberCount = s.memberCount := rfl
@[simp] theorem State.setEng_fabReqs (s : State) (a b : Nat) (v : Eng) : (s.setEng a b v).fabReqs = s.fabReqs := rfl
@[simp] theorem State.setEng_crwWaiting (s : State) (a b : Nat) (v : Eng) : (s.setEng a b v).crwWaiting = s.crwWaiting := rfl
@[simp] theorem State.setEng_loading (s : State) (a b : Nat) (v : Eng) : (s.setEng a b v).loading = s.loading := rfl
@[simp] theorem State.setEng_arrivals (s : State) (a b : Nat) (v : Eng) : (s.setEng a b v).arrivals = s.arrivals := rfl
@[simp] theorem State.setEng_portUp (s : State) (a b : Nat) (v : Eng) : (s.setEng a b v).portUp = s.portUp := rfl
@[simp] theorem State.setEng_feTurn (s : State) (a b : Nat) (v : Eng) : (s.setEng a b v).feTurn = s.feTurn := rfl
@[simp] theorem State.setEng_partTurn (s : State) (a b : Nat) (v : Eng) : (s.setEng a b v).partTurn = s.partTurn := rfl
@[simp] theorem State.setEng_nwrite (s : State) (a b : Nat) (v : Eng) : (s.setEng a b v).nwrite = s.nwrite := rfl
@[simp] theorem State.setEng_pageWanted (s : State) (a b : Nat) (v : Eng) : (s.setEng a b v).pageWanted = s.pageWanted := rfl
@[simp] theorem State.setEng_irqs (s : State) (a b : Nat) (v : Eng) : (s.setEng a b v).irqs = s.irqs := rfl
@[simp] theorem State.setEng_msix (s : State) (a b : Nat) (v : Eng) : (s.setEng a b v).msix = s.msix := rfl
@[simp] theorem State.setEng_msixPending (s : State) (a b : Nat) (v : Eng) : (s.setEng a b v).msixPending = s.msixPending := rfl
@[simp] theorem State.setEng_hdmSize (s : State) (a b : Nat) (v : Eng) : (s.setEng a b v).hdmSize = s.hdmSize := rfl
@[simp] theorem State.setEng_evGap (s : State) (a b : Nat) (v : Eng) : (s.setEng a b v).evGap = s.evGap := rfl
@[simp] theorem State.setEng_spdm (s : State) (a b : Nat) (v : Eng) : (s.setEng a b v).spdm = s.spdm := rfl
@[simp] theorem State.setEng_fuseSeed (s : State) (a b : Nat) (v : Eng) : (s.setEng a b v).fuseSeed = s.fuseSeed := rfl
@[simp] theorem State.setEng_identity (s : State) (a b : Nat) (v : Eng) : (s.setEng a b v).identity = s.identity := rfl
@[simp] theorem State.setEng_certs (s : State) (a b : Nat) (v : Eng) : (s.setEng a b v).certs = s.certs := rfl
@[simp] theorem State.setEng_corrected (s : State) (a b : Nat) (v : Eng) : (s.setEng a b v).corrected = s.corrected := rfl
@[simp] theorem State.setEng_banks (s : State) (a b : Nat) (v : Eng) : (s.setEng a b v).banks = s.banks := rfl
@[simp] theorem State.setEng_activeBank (s : State) (a b : Nat) (v : Eng) : (s.setEng a b v).activeBank = s.activeBank := rfl
@[simp] theorem State.setEng_fwuNew (s : State) (a b : Nat) (v : Eng) : (s.setEng a b v).fwuNew = s.fwuNew := rfl
@[simp] theorem State.setEng_svnMin (s : State) (a b : Nat) (v : Eng) : (s.setEng a b v).svnMin = s.svnMin := rfl
@[simp] theorem State.setEng_fuses (s : State) (a b : Nat) (v : Eng) : (s.setEng a b v).fuses = s.fuses := rfl
@[simp] theorem State.setEng_arithClk (s : State) (a b : Nat) (v : Eng) : (s.setEng a b v).arithClk = s.arithClk := rfl
@[simp] theorem State.setEng_wdogs (s : State) (a b : Nat) (v : Eng) : (s.setEng a b v).wdogs = s.wdogs := rfl
@[simp] theorem State.setEng_errors (s : State) (a b : Nat) (v : Eng) : (s.setEng a b v).errors = s.errors := rfl

@[simp] theorem State.setVec_cycle (s : State) (a b : Nat) (v : VecCtx) : (s.setVec a b v).cycle = s.cycle := rfl
@[simp] theorem State.setVec_clock (s : State) (a b : Nat) (v : VecCtx) : (s.setVec a b v).clock = s.clock := rfl
@[simp] theorem State.setVec_agenda (s : State) (a b : Nat) (v : VecCtx) : (s.setVec a b v).agenda = s.agenda := rfl
@[simp] theorem State.setVec_core (s : State) (a b : Nat) (v : VecCtx) : (s.setVec a b v).core = s.core := rfl
@[simp] theorem State.setVec_ctx (s : State) (a b : Nat) (v : VecCtx) : (s.setVec a b v).ctx = s.ctx := rfl
@[simp] theorem State.setVec_eng (s : State) (a b : Nat) (v : VecCtx) : (s.setVec a b v).eng = s.eng := rfl
@[simp] theorem State.setVec_rinkNo (s : State) (a b : Nat) (v : VecCtx) : (s.setVec a b v).rinkNo = s.rinkNo := rfl
@[simp] theorem State.setVec_fresh (s : State) (a b : Nat) (v : VecCtx) : (s.setVec a b v).fresh = s.fresh := rfl
@[simp] theorem State.setVec_landing (s : State) (a b : Nat) (v : VecCtx) : (s.setVec a b v).landing = s.landing := rfl
@[simp] theorem State.setVec_condition (s : State) (a b : Nat) (v : VecCtx) : (s.setVec a b v).condition = s.condition := rfl
@[simp] theorem State.setVec_ctxs (s : State) (a b : Nat) (v : VecCtx) : (s.setVec a b v).ctxs = s.ctxs := rfl
@[simp] theorem State.setVec_engs (s : State) (a b : Nat) (v : VecCtx) : (s.setVec a b v).engs = s.engs := rfl
@[simp] theorem State.setVec_frags (s : State) (a b : Nat) (v : VecCtx) : (s.setVec a b v).frags = s.frags := rfl
@[simp] theorem State.setVec_links (s : State) (a b : Nat) (v : VecCtx) : (s.setVec a b v).links = s.links := rfl
@[simp] theorem State.setVec_copies (s : State) (a b : Nat) (v : VecCtx) : (s.setVec a b v).copies = s.copies := rfl
@[simp] theorem State.setVec_cores (s : State) (a b : Nat) (v : VecCtx) : (s.setVec a b v).cores = s.cores := rfl
@[simp] theorem State.setVec_abuf (s : State) (a b : Nat) (v : VecCtx) : (s.setVec a b v).abuf = s.abuf := rfl
@[simp] theorem State.setVec_cbuf (s : State) (a b : Nat) (v : VecCtx) : (s.setVec a b v).cbuf = s.cbuf := rfl
@[simp] theorem State.setVec_wbuf (s : State) (a b : Nat) (v : VecCtx) : (s.setVec a b v).wbuf = s.wbuf := rfl
@[simp] theorem State.setVec_wkeys (s : State) (a b : Nat) (v : VecCtx) : (s.setVec a b v).wkeys = s.wkeys := rfl
@[simp] theorem State.setVec_accown (s : State) (a b : Nat) (v : VecCtx) : (s.setVec a b v).accown = s.accown := rfl
@[simp] theorem State.setVec_holder (s : State) (a b : Nat) (v : VecCtx) : (s.setVec a b v).holder = s.holder := rfl
@[simp] theorem State.setVec_tasks (s : State) (a b : Nat) (v : VecCtx) : (s.setVec a b v).tasks = s.tasks := rfl
@[simp] theorem State.setVec_nodes (s : State) (a b : Nat) (v : VecCtx) : (s.setVec a b v).nodes = s.nodes := rfl
@[simp] theorem State.setVec_pool (s : State) (a b : Nat) (v : VecCtx) : (s.setVec a b v).pool = s.pool := rfl
@[simp] theorem State.setVec_nextTask (s : State) (a b : Nat) (v : VecCtx) : (s.setVec a b v).nextTask = s.nextTask := rfl
@[simp] theorem State.setVec_nextNode (s : State) (a b : Nat) (v : VecCtx) : (s.setVec a b v).nextNode = s.nextNode := rfl
@[simp] theorem State.setVec_nextGraph (s : State) (a b : Nat) (v : VecCtx) : (s.setVec a b v).nextGraph = s.nextGraph := rfl
@[simp] theorem State.setVec_mem (s : State) (a b : Nat) (v : VecCtx) : (s.setVec a b v).mem = s.mem := rfl
@[simp] theorem State.setVec_fcache (s : State) (a b : Nat) (v : VecCtx) : (s.setVec a b v).fcache = s.fcache := rfl
@[simp] theorem State.setVec_tiles (s : State) (a b : Nat) (v : VecCtx) : (s.setVec a b v).tiles = s.tiles := rfl
@[simp] theorem State.setVec_frames (s : State) (a b : Nat) (v : VecCtx) : (s.setVec a b v).frames = s.frames := rfl
@[simp] theorem State.setVec_metaFrames (s : State) (a b : Nat) (v : VecCtx) : (s.setVec a b v).metaFrames = s.metaFrames := rfl
@[simp] theorem State.setVec_kgens (s : State) (a b : Nat) (v : VecCtx) : (s.setVec a b v).kgens = s.kgens := rfl
@[simp] theorem State.setVec_sealDraws (s : State) (a b : Nat) (v : VecCtx) : (s.setVec a b v).sealDraws = s.sealDraws := rfl
@[simp] theorem State.setVec_sealDraw (s : State) (a b : Nat) (v : VecCtx) : (s.setVec a b v).sealDraw = s.sealDraw := rfl
@[simp] theorem State.setVec_watches (s : State) (a b : Nat) (v : VecCtx) : (s.setVec a b v).watches = s.watches := rfl
@[simp] theorem State.setVec_market (s : State) (a b : Nat) (v : VecCtx) : (s.setVec a b v).market = s.market := rfl
@[simp] theorem State.setVec_tables (s : State) (a b : Nat) (v : VecCtx) : (s.setVec a b v).tables = s.tables := rfl
@[simp] theorem State.setVec_bar (s : State) (a b : Nat) (v : VecCtx) : (s.setVec a b v).bar = s.bar := rfl
@[simp] theorem State.setVec_queues (s : State) (a b : Nat) (v : VecCtx) : (s.setVec a b v).queues = s.queues := rfl
@[simp] theorem State.setVec_graphs (s : State) (a b : Nat) (v : VecCtx) : (s.setVec a b v).graphs = s.graphs := rfl
@[simp] theorem State.setVec_gates (s : State) (a b : Nat) (v : VecCtx) : (s.setVec a b v).gates = s.gates := rfl
@[simp] theorem State.setVec_episodes (s : State) (a b : Nat) (v : VecCtx) : (s.setVec a b v).episodes = s.episodes := rfl
@[simp] theorem State.setVec_eptMap (s : State) (a b : Nat) (v : VecCtx) : (s.setVec a b v).eptMap = s.eptMap := rfl
@[simp] theorem State.setVec_nextArm (s : State) (a b : Nat) (v : VecCtx) : (s.setVec a b v).nextArm = s.nextArm := rfl
@[simp] theorem State.setVec_rinks (s : State) (a b : Nat) (v : VecCtx) : (s.setVec a b v).rinks = s.rinks := rfl
@[simp] theorem State.setVec_polgen (s : State) (a b : Nat) (v : VecCtx) : (s.setVec a b v).polgen = s.polgen := rfl
@[simp] theorem State.setVec_frozen (s : State) (a b : Nat) (v : VecCtx) : (s.setVec a b v).frozen = s.frozen := rfl
@[simp] theorem State.setVec_areas (s : State) (a b : Nat) (v : VecCtx) : (s.setVec a b v).areas = s.areas := rfl
@[simp] theorem State.setVec_trackAt (s : State) (a b : Nat) (v : VecCtx) : (s.setVec a b v).trackAt = s.trackAt := rfl
@[simp] theorem State.setVec_migRecs (s : State) (a b : Nat) (v : VecCtx) : (s.setVec a b v).migRecs = s.migRecs := rfl
@[simp] theorem State.setVec_princeKey (s : State) (a b : Nat) (v : VecCtx) : (s.setVec a b v).princeKey = s.princeKey := rfl
@[simp] theorem State.setVec_imports (s : State) (a b : Nat) (v : VecCtx) : (s.setVec a b v).imports = s.imports := rfl
@[simp] theorem State.setVec_exports (s : State) (a b : Nat) (v : VecCtx) : (s.setVec a b v).exports = s.exports := rfl
@[simp] theorem State.setVec_redwins (s : State) (a b : Nat) (v : VecCtx) : (s.setVec a b v).redwins = s.redwins := rfl
@[simp] theorem State.setVec_memberCount (s : State) (a b : Nat) (v : VecCtx) : (s.setVec a b v).memberCount = s.memberCount := rfl
@[simp] theorem State.setVec_fabReqs (s : State) (a b : Nat) (v : VecCtx) : (s.setVec a b v).fabReqs = s.fabReqs := rfl
@[simp] theorem State.setVec_crwWaiting (s : State) (a b : Nat) (v : VecCtx) : (s.setVec a b v).crwWaiting = s.crwWaiting := rfl
@[simp] theorem State.setVec_loading (s : State) (a b : Nat) (v : VecCtx) : (s.setVec a b v).loading = s.loading := rfl
@[simp] theorem State.setVec_arrivals (s : State) (a b : Nat) (v : VecCtx) : (s.setVec a b v).arrivals = s.arrivals := rfl
@[simp] theorem State.setVec_portUp (s : State) (a b : Nat) (v : VecCtx) : (s.setVec a b v).portUp = s.portUp := rfl
@[simp] theorem State.setVec_feTurn (s : State) (a b : Nat) (v : VecCtx) : (s.setVec a b v).feTurn = s.feTurn := rfl
@[simp] theorem State.setVec_partTurn (s : State) (a b : Nat) (v : VecCtx) : (s.setVec a b v).partTurn = s.partTurn := rfl
@[simp] theorem State.setVec_nwrite (s : State) (a b : Nat) (v : VecCtx) : (s.setVec a b v).nwrite = s.nwrite := rfl
@[simp] theorem State.setVec_pageWanted (s : State) (a b : Nat) (v : VecCtx) : (s.setVec a b v).pageWanted = s.pageWanted := rfl
@[simp] theorem State.setVec_irqs (s : State) (a b : Nat) (v : VecCtx) : (s.setVec a b v).irqs = s.irqs := rfl
@[simp] theorem State.setVec_msix (s : State) (a b : Nat) (v : VecCtx) : (s.setVec a b v).msix = s.msix := rfl
@[simp] theorem State.setVec_msixPending (s : State) (a b : Nat) (v : VecCtx) : (s.setVec a b v).msixPending = s.msixPending := rfl
@[simp] theorem State.setVec_hdmSize (s : State) (a b : Nat) (v : VecCtx) : (s.setVec a b v).hdmSize = s.hdmSize := rfl
@[simp] theorem State.setVec_evGap (s : State) (a b : Nat) (v : VecCtx) : (s.setVec a b v).evGap = s.evGap := rfl
@[simp] theorem State.setVec_spdm (s : State) (a b : Nat) (v : VecCtx) : (s.setVec a b v).spdm = s.spdm := rfl
@[simp] theorem State.setVec_fuseSeed (s : State) (a b : Nat) (v : VecCtx) : (s.setVec a b v).fuseSeed = s.fuseSeed := rfl
@[simp] theorem State.setVec_identity (s : State) (a b : Nat) (v : VecCtx) : (s.setVec a b v).identity = s.identity := rfl
@[simp] theorem State.setVec_certs (s : State) (a b : Nat) (v : VecCtx) : (s.setVec a b v).certs = s.certs := rfl
@[simp] theorem State.setVec_corrected (s : State) (a b : Nat) (v : VecCtx) : (s.setVec a b v).corrected = s.corrected := rfl
@[simp] theorem State.setVec_banks (s : State) (a b : Nat) (v : VecCtx) : (s.setVec a b v).banks = s.banks := rfl
@[simp] theorem State.setVec_activeBank (s : State) (a b : Nat) (v : VecCtx) : (s.setVec a b v).activeBank = s.activeBank := rfl
@[simp] theorem State.setVec_fwuNew (s : State) (a b : Nat) (v : VecCtx) : (s.setVec a b v).fwuNew = s.fwuNew := rfl
@[simp] theorem State.setVec_svnMin (s : State) (a b : Nat) (v : VecCtx) : (s.setVec a b v).svnMin = s.svnMin := rfl
@[simp] theorem State.setVec_fuses (s : State) (a b : Nat) (v : VecCtx) : (s.setVec a b v).fuses = s.fuses := rfl
@[simp] theorem State.setVec_arithClk (s : State) (a b : Nat) (v : VecCtx) : (s.setVec a b v).arithClk = s.arithClk := rfl
@[simp] theorem State.setVec_wdogs (s : State) (a b : Nat) (v : VecCtx) : (s.setVec a b v).wdogs = s.wdogs := rfl
@[simp] theorem State.setVec_errors (s : State) (a b : Nat) (v : VecCtx) : (s.setVec a b v).errors = s.errors := rfl

@[simp] theorem State.setFrag_cycle (s : State) (a b : Nat) (v : Frag) : (s.setFrag a b v).cycle = s.cycle := rfl
@[simp] theorem State.setFrag_clock (s : State) (a b : Nat) (v : Frag) : (s.setFrag a b v).clock = s.clock := rfl
@[simp] theorem State.setFrag_agenda (s : State) (a b : Nat) (v : Frag) : (s.setFrag a b v).agenda = s.agenda := rfl
@[simp] theorem State.setFrag_core (s : State) (a b : Nat) (v : Frag) : (s.setFrag a b v).core = s.core := rfl
@[simp] theorem State.setFrag_ctx (s : State) (a b : Nat) (v : Frag) : (s.setFrag a b v).ctx = s.ctx := rfl
@[simp] theorem State.setFrag_eng (s : State) (a b : Nat) (v : Frag) : (s.setFrag a b v).eng = s.eng := rfl
@[simp] theorem State.setFrag_rinkNo (s : State) (a b : Nat) (v : Frag) : (s.setFrag a b v).rinkNo = s.rinkNo := rfl
@[simp] theorem State.setFrag_fresh (s : State) (a b : Nat) (v : Frag) : (s.setFrag a b v).fresh = s.fresh := rfl
@[simp] theorem State.setFrag_landing (s : State) (a b : Nat) (v : Frag) : (s.setFrag a b v).landing = s.landing := rfl
@[simp] theorem State.setFrag_condition (s : State) (a b : Nat) (v : Frag) : (s.setFrag a b v).condition = s.condition := rfl
@[simp] theorem State.setFrag_ctxs (s : State) (a b : Nat) (v : Frag) : (s.setFrag a b v).ctxs = s.ctxs := rfl
@[simp] theorem State.setFrag_engs (s : State) (a b : Nat) (v : Frag) : (s.setFrag a b v).engs = s.engs := rfl
@[simp] theorem State.setFrag_vecs (s : State) (a b : Nat) (v : Frag) : (s.setFrag a b v).vecs = s.vecs := rfl
@[simp] theorem State.setFrag_links (s : State) (a b : Nat) (v : Frag) : (s.setFrag a b v).links = s.links := rfl
@[simp] theorem State.setFrag_copies (s : State) (a b : Nat) (v : Frag) : (s.setFrag a b v).copies = s.copies := rfl
@[simp] theorem State.setFrag_cores (s : State) (a b : Nat) (v : Frag) : (s.setFrag a b v).cores = s.cores := rfl
@[simp] theorem State.setFrag_abuf (s : State) (a b : Nat) (v : Frag) : (s.setFrag a b v).abuf = s.abuf := rfl
@[simp] theorem State.setFrag_cbuf (s : State) (a b : Nat) (v : Frag) : (s.setFrag a b v).cbuf = s.cbuf := rfl
@[simp] theorem State.setFrag_wbuf (s : State) (a b : Nat) (v : Frag) : (s.setFrag a b v).wbuf = s.wbuf := rfl
@[simp] theorem State.setFrag_wkeys (s : State) (a b : Nat) (v : Frag) : (s.setFrag a b v).wkeys = s.wkeys := rfl
@[simp] theorem State.setFrag_accown (s : State) (a b : Nat) (v : Frag) : (s.setFrag a b v).accown = s.accown := rfl
@[simp] theorem State.setFrag_holder (s : State) (a b : Nat) (v : Frag) : (s.setFrag a b v).holder = s.holder := rfl
@[simp] theorem State.setFrag_tasks (s : State) (a b : Nat) (v : Frag) : (s.setFrag a b v).tasks = s.tasks := rfl
@[simp] theorem State.setFrag_nodes (s : State) (a b : Nat) (v : Frag) : (s.setFrag a b v).nodes = s.nodes := rfl
@[simp] theorem State.setFrag_pool (s : State) (a b : Nat) (v : Frag) : (s.setFrag a b v).pool = s.pool := rfl
@[simp] theorem State.setFrag_nextTask (s : State) (a b : Nat) (v : Frag) : (s.setFrag a b v).nextTask = s.nextTask := rfl
@[simp] theorem State.setFrag_nextNode (s : State) (a b : Nat) (v : Frag) : (s.setFrag a b v).nextNode = s.nextNode := rfl
@[simp] theorem State.setFrag_nextGraph (s : State) (a b : Nat) (v : Frag) : (s.setFrag a b v).nextGraph = s.nextGraph := rfl
@[simp] theorem State.setFrag_mem (s : State) (a b : Nat) (v : Frag) : (s.setFrag a b v).mem = s.mem := rfl
@[simp] theorem State.setFrag_fcache (s : State) (a b : Nat) (v : Frag) : (s.setFrag a b v).fcache = s.fcache := rfl
@[simp] theorem State.setFrag_tiles (s : State) (a b : Nat) (v : Frag) : (s.setFrag a b v).tiles = s.tiles := rfl
@[simp] theorem State.setFrag_frames (s : State) (a b : Nat) (v : Frag) : (s.setFrag a b v).frames = s.frames := rfl
@[simp] theorem State.setFrag_metaFrames (s : State) (a b : Nat) (v : Frag) : (s.setFrag a b v).metaFrames = s.metaFrames := rfl
@[simp] theorem State.setFrag_kgens (s : State) (a b : Nat) (v : Frag) : (s.setFrag a b v).kgens = s.kgens := rfl
@[simp] theorem State.setFrag_sealDraws (s : State) (a b : Nat) (v : Frag) : (s.setFrag a b v).sealDraws = s.sealDraws := rfl
@[simp] theorem State.setFrag_sealDraw (s : State) (a b : Nat) (v : Frag) : (s.setFrag a b v).sealDraw = s.sealDraw := rfl
@[simp] theorem State.setFrag_watches (s : State) (a b : Nat) (v : Frag) : (s.setFrag a b v).watches = s.watches := rfl
@[simp] theorem State.setFrag_market (s : State) (a b : Nat) (v : Frag) : (s.setFrag a b v).market = s.market := rfl
@[simp] theorem State.setFrag_tables (s : State) (a b : Nat) (v : Frag) : (s.setFrag a b v).tables = s.tables := rfl
@[simp] theorem State.setFrag_bar (s : State) (a b : Nat) (v : Frag) : (s.setFrag a b v).bar = s.bar := rfl
@[simp] theorem State.setFrag_queues (s : State) (a b : Nat) (v : Frag) : (s.setFrag a b v).queues = s.queues := rfl
@[simp] theorem State.setFrag_graphs (s : State) (a b : Nat) (v : Frag) : (s.setFrag a b v).graphs = s.graphs := rfl
@[simp] theorem State.setFrag_gates (s : State) (a b : Nat) (v : Frag) : (s.setFrag a b v).gates = s.gates := rfl
@[simp] theorem State.setFrag_episodes (s : State) (a b : Nat) (v : Frag) : (s.setFrag a b v).episodes = s.episodes := rfl
@[simp] theorem State.setFrag_eptMap (s : State) (a b : Nat) (v : Frag) : (s.setFrag a b v).eptMap = s.eptMap := rfl
@[simp] theorem State.setFrag_nextArm (s : State) (a b : Nat) (v : Frag) : (s.setFrag a b v).nextArm = s.nextArm := rfl
@[simp] theorem State.setFrag_rinks (s : State) (a b : Nat) (v : Frag) : (s.setFrag a b v).rinks = s.rinks := rfl
@[simp] theorem State.setFrag_polgen (s : State) (a b : Nat) (v : Frag) : (s.setFrag a b v).polgen = s.polgen := rfl
@[simp] theorem State.setFrag_frozen (s : State) (a b : Nat) (v : Frag) : (s.setFrag a b v).frozen = s.frozen := rfl
@[simp] theorem State.setFrag_areas (s : State) (a b : Nat) (v : Frag) : (s.setFrag a b v).areas = s.areas := rfl
@[simp] theorem State.setFrag_trackAt (s : State) (a b : Nat) (v : Frag) : (s.setFrag a b v).trackAt = s.trackAt := rfl
@[simp] theorem State.setFrag_migRecs (s : State) (a b : Nat) (v : Frag) : (s.setFrag a b v).migRecs = s.migRecs := rfl
@[simp] theorem State.setFrag_princeKey (s : State) (a b : Nat) (v : Frag) : (s.setFrag a b v).princeKey = s.princeKey := rfl
@[simp] theorem State.setFrag_imports (s : State) (a b : Nat) (v : Frag) : (s.setFrag a b v).imports = s.imports := rfl
@[simp] theorem State.setFrag_exports (s : State) (a b : Nat) (v : Frag) : (s.setFrag a b v).exports = s.exports := rfl
@[simp] theorem State.setFrag_redwins (s : State) (a b : Nat) (v : Frag) : (s.setFrag a b v).redwins = s.redwins := rfl
@[simp] theorem State.setFrag_memberCount (s : State) (a b : Nat) (v : Frag) : (s.setFrag a b v).memberCount = s.memberCount := rfl
@[simp] theorem State.setFrag_fabReqs (s : State) (a b : Nat) (v : Frag) : (s.setFrag a b v).fabReqs = s.fabReqs := rfl
@[simp] theorem State.setFrag_crwWaiting (s : State) (a b : Nat) (v : Frag) : (s.setFrag a b v).crwWaiting = s.crwWaiting := rfl
@[simp] theorem State.setFrag_loading (s : State) (a b : Nat) (v : Frag) : (s.setFrag a b v).loading = s.loading := rfl
@[simp] theorem State.setFrag_arrivals (s : State) (a b : Nat) (v : Frag) : (s.setFrag a b v).arrivals = s.arrivals := rfl
@[simp] theorem State.setFrag_portUp (s : State) (a b : Nat) (v : Frag) : (s.setFrag a b v).portUp = s.portUp := rfl
@[simp] theorem State.setFrag_feTurn (s : State) (a b : Nat) (v : Frag) : (s.setFrag a b v).feTurn = s.feTurn := rfl
@[simp] theorem State.setFrag_partTurn (s : State) (a b : Nat) (v : Frag) : (s.setFrag a b v).partTurn = s.partTurn := rfl
@[simp] theorem State.setFrag_nwrite (s : State) (a b : Nat) (v : Frag) : (s.setFrag a b v).nwrite = s.nwrite := rfl
@[simp] theorem State.setFrag_pageWanted (s : State) (a b : Nat) (v : Frag) : (s.setFrag a b v).pageWanted = s.pageWanted := rfl
@[simp] theorem State.setFrag_irqs (s : State) (a b : Nat) (v : Frag) : (s.setFrag a b v).irqs = s.irqs := rfl
@[simp] theorem State.setFrag_msix (s : State) (a b : Nat) (v : Frag) : (s.setFrag a b v).msix = s.msix := rfl
@[simp] theorem State.setFrag_msixPending (s : State) (a b : Nat) (v : Frag) : (s.setFrag a b v).msixPending = s.msixPending := rfl
@[simp] theorem State.setFrag_hdmSize (s : State) (a b : Nat) (v : Frag) : (s.setFrag a b v).hdmSize = s.hdmSize := rfl
@[simp] theorem State.setFrag_evGap (s : State) (a b : Nat) (v : Frag) : (s.setFrag a b v).evGap = s.evGap := rfl
@[simp] theorem State.setFrag_spdm (s : State) (a b : Nat) (v : Frag) : (s.setFrag a b v).spdm = s.spdm := rfl
@[simp] theorem State.setFrag_fuseSeed (s : State) (a b : Nat) (v : Frag) : (s.setFrag a b v).fuseSeed = s.fuseSeed := rfl
@[simp] theorem State.setFrag_identity (s : State) (a b : Nat) (v : Frag) : (s.setFrag a b v).identity = s.identity := rfl
@[simp] theorem State.setFrag_certs (s : State) (a b : Nat) (v : Frag) : (s.setFrag a b v).certs = s.certs := rfl
@[simp] theorem State.setFrag_corrected (s : State) (a b : Nat) (v : Frag) : (s.setFrag a b v).corrected = s.corrected := rfl
@[simp] theorem State.setFrag_banks (s : State) (a b : Nat) (v : Frag) : (s.setFrag a b v).banks = s.banks := rfl
@[simp] theorem State.setFrag_activeBank (s : State) (a b : Nat) (v : Frag) : (s.setFrag a b v).activeBank = s.activeBank := rfl
@[simp] theorem State.setFrag_fwuNew (s : State) (a b : Nat) (v : Frag) : (s.setFrag a b v).fwuNew = s.fwuNew := rfl
@[simp] theorem State.setFrag_svnMin (s : State) (a b : Nat) (v : Frag) : (s.setFrag a b v).svnMin = s.svnMin := rfl
@[simp] theorem State.setFrag_fuses (s : State) (a b : Nat) (v : Frag) : (s.setFrag a b v).fuses = s.fuses := rfl
@[simp] theorem State.setFrag_arithClk (s : State) (a b : Nat) (v : Frag) : (s.setFrag a b v).arithClk = s.arithClk := rfl
@[simp] theorem State.setFrag_wdogs (s : State) (a b : Nat) (v : Frag) : (s.setFrag a b v).wdogs = s.wdogs := rfl
@[simp] theorem State.setFrag_errors (s : State) (a b : Nat) (v : Frag) : (s.setFrag a b v).errors = s.errors := rfl

@[simp] theorem State.setLink_cycle (s : State) (a b : Nat) (v : Link) : (s.setLink a b v).cycle = s.cycle := rfl
@[simp] theorem State.setLink_clock (s : State) (a b : Nat) (v : Link) : (s.setLink a b v).clock = s.clock := rfl
@[simp] theorem State.setLink_agenda (s : State) (a b : Nat) (v : Link) : (s.setLink a b v).agenda = s.agenda := rfl
@[simp] theorem State.setLink_core (s : State) (a b : Nat) (v : Link) : (s.setLink a b v).core = s.core := rfl
@[simp] theorem State.setLink_ctx (s : State) (a b : Nat) (v : Link) : (s.setLink a b v).ctx = s.ctx := rfl
@[simp] theorem State.setLink_eng (s : State) (a b : Nat) (v : Link) : (s.setLink a b v).eng = s.eng := rfl
@[simp] theorem State.setLink_rinkNo (s : State) (a b : Nat) (v : Link) : (s.setLink a b v).rinkNo = s.rinkNo := rfl
@[simp] theorem State.setLink_fresh (s : State) (a b : Nat) (v : Link) : (s.setLink a b v).fresh = s.fresh := rfl
@[simp] theorem State.setLink_landing (s : State) (a b : Nat) (v : Link) : (s.setLink a b v).landing = s.landing := rfl
@[simp] theorem State.setLink_condition (s : State) (a b : Nat) (v : Link) : (s.setLink a b v).condition = s.condition := rfl
@[simp] theorem State.setLink_ctxs (s : State) (a b : Nat) (v : Link) : (s.setLink a b v).ctxs = s.ctxs := rfl
@[simp] theorem State.setLink_engs (s : State) (a b : Nat) (v : Link) : (s.setLink a b v).engs = s.engs := rfl
@[simp] theorem State.setLink_vecs (s : State) (a b : Nat) (v : Link) : (s.setLink a b v).vecs = s.vecs := rfl
@[simp] theorem State.setLink_frags (s : State) (a b : Nat) (v : Link) : (s.setLink a b v).frags = s.frags := rfl
@[simp] theorem State.setLink_copies (s : State) (a b : Nat) (v : Link) : (s.setLink a b v).copies = s.copies := rfl
@[simp] theorem State.setLink_cores (s : State) (a b : Nat) (v : Link) : (s.setLink a b v).cores = s.cores := rfl
@[simp] theorem State.setLink_abuf (s : State) (a b : Nat) (v : Link) : (s.setLink a b v).abuf = s.abuf := rfl
@[simp] theorem State.setLink_cbuf (s : State) (a b : Nat) (v : Link) : (s.setLink a b v).cbuf = s.cbuf := rfl
@[simp] theorem State.setLink_wbuf (s : State) (a b : Nat) (v : Link) : (s.setLink a b v).wbuf = s.wbuf := rfl
@[simp] theorem State.setLink_wkeys (s : State) (a b : Nat) (v : Link) : (s.setLink a b v).wkeys = s.wkeys := rfl
@[simp] theorem State.setLink_accown (s : State) (a b : Nat) (v : Link) : (s.setLink a b v).accown = s.accown := rfl
@[simp] theorem State.setLink_holder (s : State) (a b : Nat) (v : Link) : (s.setLink a b v).holder = s.holder := rfl
@[simp] theorem State.setLink_tasks (s : State) (a b : Nat) (v : Link) : (s.setLink a b v).tasks = s.tasks := rfl
@[simp] theorem State.setLink_nodes (s : State) (a b : Nat) (v : Link) : (s.setLink a b v).nodes = s.nodes := rfl
@[simp] theorem State.setLink_pool (s : State) (a b : Nat) (v : Link) : (s.setLink a b v).pool = s.pool := rfl
@[simp] theorem State.setLink_nextTask (s : State) (a b : Nat) (v : Link) : (s.setLink a b v).nextTask = s.nextTask := rfl
@[simp] theorem State.setLink_nextNode (s : State) (a b : Nat) (v : Link) : (s.setLink a b v).nextNode = s.nextNode := rfl
@[simp] theorem State.setLink_nextGraph (s : State) (a b : Nat) (v : Link) : (s.setLink a b v).nextGraph = s.nextGraph := rfl
@[simp] theorem State.setLink_mem (s : State) (a b : Nat) (v : Link) : (s.setLink a b v).mem = s.mem := rfl
@[simp] theorem State.setLink_fcache (s : State) (a b : Nat) (v : Link) : (s.setLink a b v).fcache = s.fcache := rfl
@[simp] theorem State.setLink_tiles (s : State) (a b : Nat) (v : Link) : (s.setLink a b v).tiles = s.tiles := rfl
@[simp] theorem State.setLink_frames (s : State) (a b : Nat) (v : Link) : (s.setLink a b v).frames = s.frames := rfl
@[simp] theorem State.setLink_metaFrames (s : State) (a b : Nat) (v : Link) : (s.setLink a b v).metaFrames = s.metaFrames := rfl
@[simp] theorem State.setLink_kgens (s : State) (a b : Nat) (v : Link) : (s.setLink a b v).kgens = s.kgens := rfl
@[simp] theorem State.setLink_sealDraws (s : State) (a b : Nat) (v : Link) : (s.setLink a b v).sealDraws = s.sealDraws := rfl
@[simp] theorem State.setLink_sealDraw (s : State) (a b : Nat) (v : Link) : (s.setLink a b v).sealDraw = s.sealDraw := rfl
@[simp] theorem State.setLink_watches (s : State) (a b : Nat) (v : Link) : (s.setLink a b v).watches = s.watches := rfl
@[simp] theorem State.setLink_market (s : State) (a b : Nat) (v : Link) : (s.setLink a b v).market = s.market := rfl
@[simp] theorem State.setLink_tables (s : State) (a b : Nat) (v : Link) : (s.setLink a b v).tables = s.tables := rfl
@[simp] theorem State.setLink_bar (s : State) (a b : Nat) (v : Link) : (s.setLink a b v).bar = s.bar := rfl
@[simp] theorem State.setLink_queues (s : State) (a b : Nat) (v : Link) : (s.setLink a b v).queues = s.queues := rfl
@[simp] theorem State.setLink_graphs (s : State) (a b : Nat) (v : Link) : (s.setLink a b v).graphs = s.graphs := rfl
@[simp] theorem State.setLink_gates (s : State) (a b : Nat) (v : Link) : (s.setLink a b v).gates = s.gates := rfl
@[simp] theorem State.setLink_episodes (s : State) (a b : Nat) (v : Link) : (s.setLink a b v).episodes = s.episodes := rfl
@[simp] theorem State.setLink_eptMap (s : State) (a b : Nat) (v : Link) : (s.setLink a b v).eptMap = s.eptMap := rfl
@[simp] theorem State.setLink_nextArm (s : State) (a b : Nat) (v : Link) : (s.setLink a b v).nextArm = s.nextArm := rfl
@[simp] theorem State.setLink_rinks (s : State) (a b : Nat) (v : Link) : (s.setLink a b v).rinks = s.rinks := rfl
@[simp] theorem State.setLink_polgen (s : State) (a b : Nat) (v : Link) : (s.setLink a b v).polgen = s.polgen := rfl
@[simp] theorem State.setLink_frozen (s : State) (a b : Nat) (v : Link) : (s.setLink a b v).frozen = s.frozen := rfl
@[simp] theorem State.setLink_areas (s : State) (a b : Nat) (v : Link) : (s.setLink a b v).areas = s.areas := rfl
@[simp] theorem State.setLink_trackAt (s : State) (a b : Nat) (v : Link) : (s.setLink a b v).trackAt = s.trackAt := rfl
@[simp] theorem State.setLink_migRecs (s : State) (a b : Nat) (v : Link) : (s.setLink a b v).migRecs = s.migRecs := rfl
@[simp] theorem State.setLink_princeKey (s : State) (a b : Nat) (v : Link) : (s.setLink a b v).princeKey = s.princeKey := rfl
@[simp] theorem State.setLink_imports (s : State) (a b : Nat) (v : Link) : (s.setLink a b v).imports = s.imports := rfl
@[simp] theorem State.setLink_exports (s : State) (a b : Nat) (v : Link) : (s.setLink a b v).exports = s.exports := rfl
@[simp] theorem State.setLink_redwins (s : State) (a b : Nat) (v : Link) : (s.setLink a b v).redwins = s.redwins := rfl
@[simp] theorem State.setLink_memberCount (s : State) (a b : Nat) (v : Link) : (s.setLink a b v).memberCount = s.memberCount := rfl
@[simp] theorem State.setLink_fabReqs (s : State) (a b : Nat) (v : Link) : (s.setLink a b v).fabReqs = s.fabReqs := rfl
@[simp] theorem State.setLink_crwWaiting (s : State) (a b : Nat) (v : Link) : (s.setLink a b v).crwWaiting = s.crwWaiting := rfl
@[simp] theorem State.setLink_loading (s : State) (a b : Nat) (v : Link) : (s.setLink a b v).loading = s.loading := rfl
@[simp] theorem State.setLink_arrivals (s : State) (a b : Nat) (v : Link) : (s.setLink a b v).arrivals = s.arrivals := rfl
@[simp] theorem State.setLink_portUp (s : State) (a b : Nat) (v : Link) : (s.setLink a b v).portUp = s.portUp := rfl
@[simp] theorem State.setLink_feTurn (s : State) (a b : Nat) (v : Link) : (s.setLink a b v).feTurn = s.feTurn := rfl
@[simp] theorem State.setLink_partTurn (s : State) (a b : Nat) (v : Link) : (s.setLink a b v).partTurn = s.partTurn := rfl
@[simp] theorem State.setLink_nwrite (s : State) (a b : Nat) (v : Link) : (s.setLink a b v).nwrite = s.nwrite := rfl
@[simp] theorem State.setLink_pageWanted (s : State) (a b : Nat) (v : Link) : (s.setLink a b v).pageWanted = s.pageWanted := rfl
@[simp] theorem State.setLink_irqs (s : State) (a b : Nat) (v : Link) : (s.setLink a b v).irqs = s.irqs := rfl
@[simp] theorem State.setLink_msix (s : State) (a b : Nat) (v : Link) : (s.setLink a b v).msix = s.msix := rfl
@[simp] theorem State.setLink_msixPending (s : State) (a b : Nat) (v : Link) : (s.setLink a b v).msixPending = s.msixPending := rfl
@[simp] theorem State.setLink_hdmSize (s : State) (a b : Nat) (v : Link) : (s.setLink a b v).hdmSize = s.hdmSize := rfl
@[simp] theorem State.setLink_evGap (s : State) (a b : Nat) (v : Link) : (s.setLink a b v).evGap = s.evGap := rfl
@[simp] theorem State.setLink_spdm (s : State) (a b : Nat) (v : Link) : (s.setLink a b v).spdm = s.spdm := rfl
@[simp] theorem State.setLink_fuseSeed (s : State) (a b : Nat) (v : Link) : (s.setLink a b v).fuseSeed = s.fuseSeed := rfl
@[simp] theorem State.setLink_identity (s : State) (a b : Nat) (v : Link) : (s.setLink a b v).identity = s.identity := rfl
@[simp] theorem State.setLink_certs (s : State) (a b : Nat) (v : Link) : (s.setLink a b v).certs = s.certs := rfl
@[simp] theorem State.setLink_corrected (s : State) (a b : Nat) (v : Link) : (s.setLink a b v).corrected = s.corrected := rfl
@[simp] theorem State.setLink_banks (s : State) (a b : Nat) (v : Link) : (s.setLink a b v).banks = s.banks := rfl
@[simp] theorem State.setLink_activeBank (s : State) (a b : Nat) (v : Link) : (s.setLink a b v).activeBank = s.activeBank := rfl
@[simp] theorem State.setLink_fwuNew (s : State) (a b : Nat) (v : Link) : (s.setLink a b v).fwuNew = s.fwuNew := rfl
@[simp] theorem State.setLink_svnMin (s : State) (a b : Nat) (v : Link) : (s.setLink a b v).svnMin = s.svnMin := rfl
@[simp] theorem State.setLink_fuses (s : State) (a b : Nat) (v : Link) : (s.setLink a b v).fuses = s.fuses := rfl
@[simp] theorem State.setLink_arithClk (s : State) (a b : Nat) (v : Link) : (s.setLink a b v).arithClk = s.arithClk := rfl
@[simp] theorem State.setLink_wdogs (s : State) (a b : Nat) (v : Link) : (s.setLink a b v).wdogs = s.wdogs := rfl
@[simp] theorem State.setLink_errors (s : State) (a b : Nat) (v : Link) : (s.setLink a b v).errors = s.errors := rfl

@[simp] theorem State.setCopy_cycle (s : State) (a b : Nat) (v : CopyEng) : (s.setCopy a b v).cycle = s.cycle := rfl
@[simp] theorem State.setCopy_clock (s : State) (a b : Nat) (v : CopyEng) : (s.setCopy a b v).clock = s.clock := rfl
@[simp] theorem State.setCopy_agenda (s : State) (a b : Nat) (v : CopyEng) : (s.setCopy a b v).agenda = s.agenda := rfl
@[simp] theorem State.setCopy_core (s : State) (a b : Nat) (v : CopyEng) : (s.setCopy a b v).core = s.core := rfl
@[simp] theorem State.setCopy_ctx (s : State) (a b : Nat) (v : CopyEng) : (s.setCopy a b v).ctx = s.ctx := rfl
@[simp] theorem State.setCopy_eng (s : State) (a b : Nat) (v : CopyEng) : (s.setCopy a b v).eng = s.eng := rfl
@[simp] theorem State.setCopy_rinkNo (s : State) (a b : Nat) (v : CopyEng) : (s.setCopy a b v).rinkNo = s.rinkNo := rfl
@[simp] theorem State.setCopy_fresh (s : State) (a b : Nat) (v : CopyEng) : (s.setCopy a b v).fresh = s.fresh := rfl
@[simp] theorem State.setCopy_landing (s : State) (a b : Nat) (v : CopyEng) : (s.setCopy a b v).landing = s.landing := rfl
@[simp] theorem State.setCopy_condition (s : State) (a b : Nat) (v : CopyEng) : (s.setCopy a b v).condition = s.condition := rfl
@[simp] theorem State.setCopy_ctxs (s : State) (a b : Nat) (v : CopyEng) : (s.setCopy a b v).ctxs = s.ctxs := rfl
@[simp] theorem State.setCopy_engs (s : State) (a b : Nat) (v : CopyEng) : (s.setCopy a b v).engs = s.engs := rfl
@[simp] theorem State.setCopy_vecs (s : State) (a b : Nat) (v : CopyEng) : (s.setCopy a b v).vecs = s.vecs := rfl
@[simp] theorem State.setCopy_frags (s : State) (a b : Nat) (v : CopyEng) : (s.setCopy a b v).frags = s.frags := rfl
@[simp] theorem State.setCopy_links (s : State) (a b : Nat) (v : CopyEng) : (s.setCopy a b v).links = s.links := rfl
@[simp] theorem State.setCopy_cores (s : State) (a b : Nat) (v : CopyEng) : (s.setCopy a b v).cores = s.cores := rfl
@[simp] theorem State.setCopy_abuf (s : State) (a b : Nat) (v : CopyEng) : (s.setCopy a b v).abuf = s.abuf := rfl
@[simp] theorem State.setCopy_cbuf (s : State) (a b : Nat) (v : CopyEng) : (s.setCopy a b v).cbuf = s.cbuf := rfl
@[simp] theorem State.setCopy_wbuf (s : State) (a b : Nat) (v : CopyEng) : (s.setCopy a b v).wbuf = s.wbuf := rfl
@[simp] theorem State.setCopy_wkeys (s : State) (a b : Nat) (v : CopyEng) : (s.setCopy a b v).wkeys = s.wkeys := rfl
@[simp] theorem State.setCopy_accown (s : State) (a b : Nat) (v : CopyEng) : (s.setCopy a b v).accown = s.accown := rfl
@[simp] theorem State.setCopy_holder (s : State) (a b : Nat) (v : CopyEng) : (s.setCopy a b v).holder = s.holder := rfl
@[simp] theorem State.setCopy_tasks (s : State) (a b : Nat) (v : CopyEng) : (s.setCopy a b v).tasks = s.tasks := rfl
@[simp] theorem State.setCopy_nodes (s : State) (a b : Nat) (v : CopyEng) : (s.setCopy a b v).nodes = s.nodes := rfl
@[simp] theorem State.setCopy_pool (s : State) (a b : Nat) (v : CopyEng) : (s.setCopy a b v).pool = s.pool := rfl
@[simp] theorem State.setCopy_nextTask (s : State) (a b : Nat) (v : CopyEng) : (s.setCopy a b v).nextTask = s.nextTask := rfl
@[simp] theorem State.setCopy_nextNode (s : State) (a b : Nat) (v : CopyEng) : (s.setCopy a b v).nextNode = s.nextNode := rfl
@[simp] theorem State.setCopy_nextGraph (s : State) (a b : Nat) (v : CopyEng) : (s.setCopy a b v).nextGraph = s.nextGraph := rfl
@[simp] theorem State.setCopy_mem (s : State) (a b : Nat) (v : CopyEng) : (s.setCopy a b v).mem = s.mem := rfl
@[simp] theorem State.setCopy_fcache (s : State) (a b : Nat) (v : CopyEng) : (s.setCopy a b v).fcache = s.fcache := rfl
@[simp] theorem State.setCopy_tiles (s : State) (a b : Nat) (v : CopyEng) : (s.setCopy a b v).tiles = s.tiles := rfl
@[simp] theorem State.setCopy_frames (s : State) (a b : Nat) (v : CopyEng) : (s.setCopy a b v).frames = s.frames := rfl
@[simp] theorem State.setCopy_metaFrames (s : State) (a b : Nat) (v : CopyEng) : (s.setCopy a b v).metaFrames = s.metaFrames := rfl
@[simp] theorem State.setCopy_kgens (s : State) (a b : Nat) (v : CopyEng) : (s.setCopy a b v).kgens = s.kgens := rfl
@[simp] theorem State.setCopy_sealDraws (s : State) (a b : Nat) (v : CopyEng) : (s.setCopy a b v).sealDraws = s.sealDraws := rfl
@[simp] theorem State.setCopy_sealDraw (s : State) (a b : Nat) (v : CopyEng) : (s.setCopy a b v).sealDraw = s.sealDraw := rfl
@[simp] theorem State.setCopy_watches (s : State) (a b : Nat) (v : CopyEng) : (s.setCopy a b v).watches = s.watches := rfl
@[simp] theorem State.setCopy_market (s : State) (a b : Nat) (v : CopyEng) : (s.setCopy a b v).market = s.market := rfl
@[simp] theorem State.setCopy_tables (s : State) (a b : Nat) (v : CopyEng) : (s.setCopy a b v).tables = s.tables := rfl
@[simp] theorem State.setCopy_bar (s : State) (a b : Nat) (v : CopyEng) : (s.setCopy a b v).bar = s.bar := rfl
@[simp] theorem State.setCopy_queues (s : State) (a b : Nat) (v : CopyEng) : (s.setCopy a b v).queues = s.queues := rfl
@[simp] theorem State.setCopy_graphs (s : State) (a b : Nat) (v : CopyEng) : (s.setCopy a b v).graphs = s.graphs := rfl
@[simp] theorem State.setCopy_gates (s : State) (a b : Nat) (v : CopyEng) : (s.setCopy a b v).gates = s.gates := rfl
@[simp] theorem State.setCopy_episodes (s : State) (a b : Nat) (v : CopyEng) : (s.setCopy a b v).episodes = s.episodes := rfl
@[simp] theorem State.setCopy_eptMap (s : State) (a b : Nat) (v : CopyEng) : (s.setCopy a b v).eptMap = s.eptMap := rfl
@[simp] theorem State.setCopy_nextArm (s : State) (a b : Nat) (v : CopyEng) : (s.setCopy a b v).nextArm = s.nextArm := rfl
@[simp] theorem State.setCopy_rinks (s : State) (a b : Nat) (v : CopyEng) : (s.setCopy a b v).rinks = s.rinks := rfl
@[simp] theorem State.setCopy_polgen (s : State) (a b : Nat) (v : CopyEng) : (s.setCopy a b v).polgen = s.polgen := rfl
@[simp] theorem State.setCopy_frozen (s : State) (a b : Nat) (v : CopyEng) : (s.setCopy a b v).frozen = s.frozen := rfl
@[simp] theorem State.setCopy_areas (s : State) (a b : Nat) (v : CopyEng) : (s.setCopy a b v).areas = s.areas := rfl
@[simp] theorem State.setCopy_trackAt (s : State) (a b : Nat) (v : CopyEng) : (s.setCopy a b v).trackAt = s.trackAt := rfl
@[simp] theorem State.setCopy_migRecs (s : State) (a b : Nat) (v : CopyEng) : (s.setCopy a b v).migRecs = s.migRecs := rfl
@[simp] theorem State.setCopy_princeKey (s : State) (a b : Nat) (v : CopyEng) : (s.setCopy a b v).princeKey = s.princeKey := rfl
@[simp] theorem State.setCopy_imports (s : State) (a b : Nat) (v : CopyEng) : (s.setCopy a b v).imports = s.imports := rfl
@[simp] theorem State.setCopy_exports (s : State) (a b : Nat) (v : CopyEng) : (s.setCopy a b v).exports = s.exports := rfl
@[simp] theorem State.setCopy_redwins (s : State) (a b : Nat) (v : CopyEng) : (s.setCopy a b v).redwins = s.redwins := rfl
@[simp] theorem State.setCopy_memberCount (s : State) (a b : Nat) (v : CopyEng) : (s.setCopy a b v).memberCount = s.memberCount := rfl
@[simp] theorem State.setCopy_fabReqs (s : State) (a b : Nat) (v : CopyEng) : (s.setCopy a b v).fabReqs = s.fabReqs := rfl
@[simp] theorem State.setCopy_crwWaiting (s : State) (a b : Nat) (v : CopyEng) : (s.setCopy a b v).crwWaiting = s.crwWaiting := rfl
@[simp] theorem State.setCopy_loading (s : State) (a b : Nat) (v : CopyEng) : (s.setCopy a b v).loading = s.loading := rfl
@[simp] theorem State.setCopy_arrivals (s : State) (a b : Nat) (v : CopyEng) : (s.setCopy a b v).arrivals = s.arrivals := rfl
@[simp] theorem State.setCopy_portUp (s : State) (a b : Nat) (v : CopyEng) : (s.setCopy a b v).portUp = s.portUp := rfl
@[simp] theorem State.setCopy_feTurn (s : State) (a b : Nat) (v : CopyEng) : (s.setCopy a b v).feTurn = s.feTurn := rfl
@[simp] theorem State.setCopy_partTurn (s : State) (a b : Nat) (v : CopyEng) : (s.setCopy a b v).partTurn = s.partTurn := rfl
@[simp] theorem State.setCopy_nwrite (s : State) (a b : Nat) (v : CopyEng) : (s.setCopy a b v).nwrite = s.nwrite := rfl
@[simp] theorem State.setCopy_pageWanted (s : State) (a b : Nat) (v : CopyEng) : (s.setCopy a b v).pageWanted = s.pageWanted := rfl
@[simp] theorem State.setCopy_irqs (s : State) (a b : Nat) (v : CopyEng) : (s.setCopy a b v).irqs = s.irqs := rfl
@[simp] theorem State.setCopy_msix (s : State) (a b : Nat) (v : CopyEng) : (s.setCopy a b v).msix = s.msix := rfl
@[simp] theorem State.setCopy_msixPending (s : State) (a b : Nat) (v : CopyEng) : (s.setCopy a b v).msixPending = s.msixPending := rfl
@[simp] theorem State.setCopy_hdmSize (s : State) (a b : Nat) (v : CopyEng) : (s.setCopy a b v).hdmSize = s.hdmSize := rfl
@[simp] theorem State.setCopy_evGap (s : State) (a b : Nat) (v : CopyEng) : (s.setCopy a b v).evGap = s.evGap := rfl
@[simp] theorem State.setCopy_spdm (s : State) (a b : Nat) (v : CopyEng) : (s.setCopy a b v).spdm = s.spdm := rfl
@[simp] theorem State.setCopy_fuseSeed (s : State) (a b : Nat) (v : CopyEng) : (s.setCopy a b v).fuseSeed = s.fuseSeed := rfl
@[simp] theorem State.setCopy_identity (s : State) (a b : Nat) (v : CopyEng) : (s.setCopy a b v).identity = s.identity := rfl
@[simp] theorem State.setCopy_certs (s : State) (a b : Nat) (v : CopyEng) : (s.setCopy a b v).certs = s.certs := rfl
@[simp] theorem State.setCopy_corrected (s : State) (a b : Nat) (v : CopyEng) : (s.setCopy a b v).corrected = s.corrected := rfl
@[simp] theorem State.setCopy_banks (s : State) (a b : Nat) (v : CopyEng) : (s.setCopy a b v).banks = s.banks := rfl
@[simp] theorem State.setCopy_activeBank (s : State) (a b : Nat) (v : CopyEng) : (s.setCopy a b v).activeBank = s.activeBank := rfl
@[simp] theorem State.setCopy_fwuNew (s : State) (a b : Nat) (v : CopyEng) : (s.setCopy a b v).fwuNew = s.fwuNew := rfl
@[simp] theorem State.setCopy_svnMin (s : State) (a b : Nat) (v : CopyEng) : (s.setCopy a b v).svnMin = s.svnMin := rfl
@[simp] theorem State.setCopy_fuses (s : State) (a b : Nat) (v : CopyEng) : (s.setCopy a b v).fuses = s.fuses := rfl
@[simp] theorem State.setCopy_arithClk (s : State) (a b : Nat) (v : CopyEng) : (s.setCopy a b v).arithClk = s.arithClk := rfl
@[simp] theorem State.setCopy_wdogs (s : State) (a b : Nat) (v : CopyEng) : (s.setCopy a b v).wdogs = s.wdogs := rfl
@[simp] theorem State.setCopy_errors (s : State) (a b : Nat) (v : CopyEng) : (s.setCopy a b v).errors = s.errors := rfl

@[simp] theorem State.setCore_cycle (s : State) (a : Nat) (v : Core) : (s.setCore a v).cycle = s.cycle := rfl
@[simp] theorem State.setCore_clock (s : State) (a : Nat) (v : Core) : (s.setCore a v).clock = s.clock := rfl
@[simp] theorem State.setCore_agenda (s : State) (a : Nat) (v : Core) : (s.setCore a v).agenda = s.agenda := rfl
@[simp] theorem State.setCore_core (s : State) (a : Nat) (v : Core) : (s.setCore a v).core = s.core := rfl
@[simp] theorem State.setCore_ctx (s : State) (a : Nat) (v : Core) : (s.setCore a v).ctx = s.ctx := rfl
@[simp] theorem State.setCore_eng (s : State) (a : Nat) (v : Core) : (s.setCore a v).eng = s.eng := rfl
@[simp] theorem State.setCore_rinkNo (s : State) (a : Nat) (v : Core) : (s.setCore a v).rinkNo = s.rinkNo := rfl
@[simp] theorem State.setCore_fresh (s : State) (a : Nat) (v : Core) : (s.setCore a v).fresh = s.fresh := rfl
@[simp] theorem State.setCore_landing (s : State) (a : Nat) (v : Core) : (s.setCore a v).landing = s.landing := rfl
@[simp] theorem State.setCore_condition (s : State) (a : Nat) (v : Core) : (s.setCore a v).condition = s.condition := rfl
@[simp] theorem State.setCore_ctxs (s : State) (a : Nat) (v : Core) : (s.setCore a v).ctxs = s.ctxs := rfl
@[simp] theorem State.setCore_engs (s : State) (a : Nat) (v : Core) : (s.setCore a v).engs = s.engs := rfl
@[simp] theorem State.setCore_vecs (s : State) (a : Nat) (v : Core) : (s.setCore a v).vecs = s.vecs := rfl
@[simp] theorem State.setCore_frags (s : State) (a : Nat) (v : Core) : (s.setCore a v).frags = s.frags := rfl
@[simp] theorem State.setCore_links (s : State) (a : Nat) (v : Core) : (s.setCore a v).links = s.links := rfl
@[simp] theorem State.setCore_copies (s : State) (a : Nat) (v : Core) : (s.setCore a v).copies = s.copies := rfl
@[simp] theorem State.setCore_abuf (s : State) (a : Nat) (v : Core) : (s.setCore a v).abuf = s.abuf := rfl
@[simp] theorem State.setCore_cbuf (s : State) (a : Nat) (v : Core) : (s.setCore a v).cbuf = s.cbuf := rfl
@[simp] theorem State.setCore_wbuf (s : State) (a : Nat) (v : Core) : (s.setCore a v).wbuf = s.wbuf := rfl
@[simp] theorem State.setCore_wkeys (s : State) (a : Nat) (v : Core) : (s.setCore a v).wkeys = s.wkeys := rfl
@[simp] theorem State.setCore_accown (s : State) (a : Nat) (v : Core) : (s.setCore a v).accown = s.accown := rfl
@[simp] theorem State.setCore_holder (s : State) (a : Nat) (v : Core) : (s.setCore a v).holder = s.holder := rfl
@[simp] theorem State.setCore_tasks (s : State) (a : Nat) (v : Core) : (s.setCore a v).tasks = s.tasks := rfl
@[simp] theorem State.setCore_nodes (s : State) (a : Nat) (v : Core) : (s.setCore a v).nodes = s.nodes := rfl
@[simp] theorem State.setCore_pool (s : State) (a : Nat) (v : Core) : (s.setCore a v).pool = s.pool := rfl
@[simp] theorem State.setCore_nextTask (s : State) (a : Nat) (v : Core) : (s.setCore a v).nextTask = s.nextTask := rfl
@[simp] theorem State.setCore_nextNode (s : State) (a : Nat) (v : Core) : (s.setCore a v).nextNode = s.nextNode := rfl
@[simp] theorem State.setCore_nextGraph (s : State) (a : Nat) (v : Core) : (s.setCore a v).nextGraph = s.nextGraph := rfl
@[simp] theorem State.setCore_mem (s : State) (a : Nat) (v : Core) : (s.setCore a v).mem = s.mem := rfl
@[simp] theorem State.setCore_fcache (s : State) (a : Nat) (v : Core) : (s.setCore a v).fcache = s.fcache := rfl
@[simp] theorem State.setCore_tiles (s : State) (a : Nat) (v : Core) : (s.setCore a v).tiles = s.tiles := rfl
@[simp] theorem State.setCore_frames (s : State) (a : Nat) (v : Core) : (s.setCore a v).frames = s.frames := rfl
@[simp] theorem State.setCore_metaFrames (s : State) (a : Nat) (v : Core) : (s.setCore a v).metaFrames = s.metaFrames := rfl
@[simp] theorem State.setCore_kgens (s : State) (a : Nat) (v : Core) : (s.setCore a v).kgens = s.kgens := rfl
@[simp] theorem State.setCore_sealDraws (s : State) (a : Nat) (v : Core) : (s.setCore a v).sealDraws = s.sealDraws := rfl
@[simp] theorem State.setCore_sealDraw (s : State) (a : Nat) (v : Core) : (s.setCore a v).sealDraw = s.sealDraw := rfl
@[simp] theorem State.setCore_watches (s : State) (a : Nat) (v : Core) : (s.setCore a v).watches = s.watches := rfl
@[simp] theorem State.setCore_market (s : State) (a : Nat) (v : Core) : (s.setCore a v).market = s.market := rfl
@[simp] theorem State.setCore_tables (s : State) (a : Nat) (v : Core) : (s.setCore a v).tables = s.tables := rfl
@[simp] theorem State.setCore_bar (s : State) (a : Nat) (v : Core) : (s.setCore a v).bar = s.bar := rfl
@[simp] theorem State.setCore_queues (s : State) (a : Nat) (v : Core) : (s.setCore a v).queues = s.queues := rfl
@[simp] theorem State.setCore_graphs (s : State) (a : Nat) (v : Core) : (s.setCore a v).graphs = s.graphs := rfl
@[simp] theorem State.setCore_gates (s : State) (a : Nat) (v : Core) : (s.setCore a v).gates = s.gates := rfl
@[simp] theorem State.setCore_episodes (s : State) (a : Nat) (v : Core) : (s.setCore a v).episodes = s.episodes := rfl
@[simp] theorem State.setCore_eptMap (s : State) (a : Nat) (v : Core) : (s.setCore a v).eptMap = s.eptMap := rfl
@[simp] theorem State.setCore_nextArm (s : State) (a : Nat) (v : Core) : (s.setCore a v).nextArm = s.nextArm := rfl
@[simp] theorem State.setCore_rinks (s : State) (a : Nat) (v : Core) : (s.setCore a v).rinks = s.rinks := rfl
@[simp] theorem State.setCore_polgen (s : State) (a : Nat) (v : Core) : (s.setCore a v).polgen = s.polgen := rfl
@[simp] theorem State.setCore_frozen (s : State) (a : Nat) (v : Core) : (s.setCore a v).frozen = s.frozen := rfl
@[simp] theorem State.setCore_areas (s : State) (a : Nat) (v : Core) : (s.setCore a v).areas = s.areas := rfl
@[simp] theorem State.setCore_trackAt (s : State) (a : Nat) (v : Core) : (s.setCore a v).trackAt = s.trackAt := rfl
@[simp] theorem State.setCore_migRecs (s : State) (a : Nat) (v : Core) : (s.setCore a v).migRecs = s.migRecs := rfl
@[simp] theorem State.setCore_princeKey (s : State) (a : Nat) (v : Core) : (s.setCore a v).princeKey = s.princeKey := rfl
@[simp] theorem State.setCore_imports (s : State) (a : Nat) (v : Core) : (s.setCore a v).imports = s.imports := rfl
@[simp] theorem State.setCore_exports (s : State) (a : Nat) (v : Core) : (s.setCore a v).exports = s.exports := rfl
@[simp] theorem State.setCore_redwins (s : State) (a : Nat) (v : Core) : (s.setCore a v).redwins = s.redwins := rfl
@[simp] theorem State.setCore_memberCount (s : State) (a : Nat) (v : Core) : (s.setCore a v).memberCount = s.memberCount := rfl
@[simp] theorem State.setCore_fabReqs (s : State) (a : Nat) (v : Core) : (s.setCore a v).fabReqs = s.fabReqs := rfl
@[simp] theorem State.setCore_crwWaiting (s : State) (a : Nat) (v : Core) : (s.setCore a v).crwWaiting = s.crwWaiting := rfl
@[simp] theorem State.setCore_loading (s : State) (a : Nat) (v : Core) : (s.setCore a v).loading = s.loading := rfl
@[simp] theorem State.setCore_arrivals (s : State) (a : Nat) (v : Core) : (s.setCore a v).arrivals = s.arrivals := rfl
@[simp] theorem State.setCore_portUp (s : State) (a : Nat) (v : Core) : (s.setCore a v).portUp = s.portUp := rfl
@[simp] theorem State.setCore_feTurn (s : State) (a : Nat) (v : Core) : (s.setCore a v).feTurn = s.feTurn := rfl
@[simp] theorem State.setCore_partTurn (s : State) (a : Nat) (v : Core) : (s.setCore a v).partTurn = s.partTurn := rfl
@[simp] theorem State.setCore_nwrite (s : State) (a : Nat) (v : Core) : (s.setCore a v).nwrite = s.nwrite := rfl
@[simp] theorem State.setCore_pageWanted (s : State) (a : Nat) (v : Core) : (s.setCore a v).pageWanted = s.pageWanted := rfl
@[simp] theorem State.setCore_irqs (s : State) (a : Nat) (v : Core) : (s.setCore a v).irqs = s.irqs := rfl
@[simp] theorem State.setCore_msix (s : State) (a : Nat) (v : Core) : (s.setCore a v).msix = s.msix := rfl
@[simp] theorem State.setCore_msixPending (s : State) (a : Nat) (v : Core) : (s.setCore a v).msixPending = s.msixPending := rfl
@[simp] theorem State.setCore_hdmSize (s : State) (a : Nat) (v : Core) : (s.setCore a v).hdmSize = s.hdmSize := rfl
@[simp] theorem State.setCore_evGap (s : State) (a : Nat) (v : Core) : (s.setCore a v).evGap = s.evGap := rfl
@[simp] theorem State.setCore_spdm (s : State) (a : Nat) (v : Core) : (s.setCore a v).spdm = s.spdm := rfl
@[simp] theorem State.setCore_fuseSeed (s : State) (a : Nat) (v : Core) : (s.setCore a v).fuseSeed = s.fuseSeed := rfl
@[simp] theorem State.setCore_identity (s : State) (a : Nat) (v : Core) : (s.setCore a v).identity = s.identity := rfl
@[simp] theorem State.setCore_certs (s : State) (a : Nat) (v : Core) : (s.setCore a v).certs = s.certs := rfl
@[simp] theorem State.setCore_corrected (s : State) (a : Nat) (v : Core) : (s.setCore a v).corrected = s.corrected := rfl
@[simp] theorem State.setCore_banks (s : State) (a : Nat) (v : Core) : (s.setCore a v).banks = s.banks := rfl
@[simp] theorem State.setCore_activeBank (s : State) (a : Nat) (v : Core) : (s.setCore a v).activeBank = s.activeBank := rfl
@[simp] theorem State.setCore_fwuNew (s : State) (a : Nat) (v : Core) : (s.setCore a v).fwuNew = s.fwuNew := rfl
@[simp] theorem State.setCore_svnMin (s : State) (a : Nat) (v : Core) : (s.setCore a v).svnMin = s.svnMin := rfl
@[simp] theorem State.setCore_fuses (s : State) (a : Nat) (v : Core) : (s.setCore a v).fuses = s.fuses := rfl
@[simp] theorem State.setCore_arithClk (s : State) (a : Nat) (v : Core) : (s.setCore a v).arithClk = s.arithClk := rfl
@[simp] theorem State.setCore_wdogs (s : State) (a : Nat) (v : Core) : (s.setCore a v).wdogs = s.wdogs := rfl
@[simp] theorem State.setCore_errors (s : State) (a : Nat) (v : Core) : (s.setCore a v).errors = s.errors := rfl

@[simp] theorem State.setTask_cycle (s : State) (a : Nat) (v : Task) : (s.setTask a v).cycle = s.cycle := rfl
@[simp] theorem State.setTask_clock (s : State) (a : Nat) (v : Task) : (s.setTask a v).clock = s.clock := rfl
@[simp] theorem State.setTask_agenda (s : State) (a : Nat) (v : Task) : (s.setTask a v).agenda = s.agenda := rfl
@[simp] theorem State.setTask_core (s : State) (a : Nat) (v : Task) : (s.setTask a v).core = s.core := rfl
@[simp] theorem State.setTask_ctx (s : State) (a : Nat) (v : Task) : (s.setTask a v).ctx = s.ctx := rfl
@[simp] theorem State.setTask_eng (s : State) (a : Nat) (v : Task) : (s.setTask a v).eng = s.eng := rfl
@[simp] theorem State.setTask_rinkNo (s : State) (a : Nat) (v : Task) : (s.setTask a v).rinkNo = s.rinkNo := rfl
@[simp] theorem State.setTask_fresh (s : State) (a : Nat) (v : Task) : (s.setTask a v).fresh = s.fresh := rfl
@[simp] theorem State.setTask_landing (s : State) (a : Nat) (v : Task) : (s.setTask a v).landing = s.landing := rfl
@[simp] theorem State.setTask_condition (s : State) (a : Nat) (v : Task) : (s.setTask a v).condition = s.condition := rfl
@[simp] theorem State.setTask_ctxs (s : State) (a : Nat) (v : Task) : (s.setTask a v).ctxs = s.ctxs := rfl
@[simp] theorem State.setTask_engs (s : State) (a : Nat) (v : Task) : (s.setTask a v).engs = s.engs := rfl
@[simp] theorem State.setTask_vecs (s : State) (a : Nat) (v : Task) : (s.setTask a v).vecs = s.vecs := rfl
@[simp] theorem State.setTask_frags (s : State) (a : Nat) (v : Task) : (s.setTask a v).frags = s.frags := rfl
@[simp] theorem State.setTask_links (s : State) (a : Nat) (v : Task) : (s.setTask a v).links = s.links := rfl
@[simp] theorem State.setTask_copies (s : State) (a : Nat) (v : Task) : (s.setTask a v).copies = s.copies := rfl
@[simp] theorem State.setTask_cores (s : State) (a : Nat) (v : Task) : (s.setTask a v).cores = s.cores := rfl
@[simp] theorem State.setTask_abuf (s : State) (a : Nat) (v : Task) : (s.setTask a v).abuf = s.abuf := rfl
@[simp] theorem State.setTask_cbuf (s : State) (a : Nat) (v : Task) : (s.setTask a v).cbuf = s.cbuf := rfl
@[simp] theorem State.setTask_wbuf (s : State) (a : Nat) (v : Task) : (s.setTask a v).wbuf = s.wbuf := rfl
@[simp] theorem State.setTask_wkeys (s : State) (a : Nat) (v : Task) : (s.setTask a v).wkeys = s.wkeys := rfl
@[simp] theorem State.setTask_accown (s : State) (a : Nat) (v : Task) : (s.setTask a v).accown = s.accown := rfl
@[simp] theorem State.setTask_holder (s : State) (a : Nat) (v : Task) : (s.setTask a v).holder = s.holder := rfl
@[simp] theorem State.setTask_nodes (s : State) (a : Nat) (v : Task) : (s.setTask a v).nodes = s.nodes := rfl
@[simp] theorem State.setTask_pool (s : State) (a : Nat) (v : Task) : (s.setTask a v).pool = s.pool := rfl
@[simp] theorem State.setTask_nextTask (s : State) (a : Nat) (v : Task) : (s.setTask a v).nextTask = s.nextTask := rfl
@[simp] theorem State.setTask_nextNode (s : State) (a : Nat) (v : Task) : (s.setTask a v).nextNode = s.nextNode := rfl
@[simp] theorem State.setTask_nextGraph (s : State) (a : Nat) (v : Task) : (s.setTask a v).nextGraph = s.nextGraph := rfl
@[simp] theorem State.setTask_mem (s : State) (a : Nat) (v : Task) : (s.setTask a v).mem = s.mem := rfl
@[simp] theorem State.setTask_fcache (s : State) (a : Nat) (v : Task) : (s.setTask a v).fcache = s.fcache := rfl
@[simp] theorem State.setTask_tiles (s : State) (a : Nat) (v : Task) : (s.setTask a v).tiles = s.tiles := rfl
@[simp] theorem State.setTask_frames (s : State) (a : Nat) (v : Task) : (s.setTask a v).frames = s.frames := rfl
@[simp] theorem State.setTask_metaFrames (s : State) (a : Nat) (v : Task) : (s.setTask a v).metaFrames = s.metaFrames := rfl
@[simp] theorem State.setTask_kgens (s : State) (a : Nat) (v : Task) : (s.setTask a v).kgens = s.kgens := rfl
@[simp] theorem State.setTask_sealDraws (s : State) (a : Nat) (v : Task) : (s.setTask a v).sealDraws = s.sealDraws := rfl
@[simp] theorem State.setTask_sealDraw (s : State) (a : Nat) (v : Task) : (s.setTask a v).sealDraw = s.sealDraw := rfl
@[simp] theorem State.setTask_watches (s : State) (a : Nat) (v : Task) : (s.setTask a v).watches = s.watches := rfl
@[simp] theorem State.setTask_market (s : State) (a : Nat) (v : Task) : (s.setTask a v).market = s.market := rfl
@[simp] theorem State.setTask_tables (s : State) (a : Nat) (v : Task) : (s.setTask a v).tables = s.tables := rfl
@[simp] theorem State.setTask_bar (s : State) (a : Nat) (v : Task) : (s.setTask a v).bar = s.bar := rfl
@[simp] theorem State.setTask_queues (s : State) (a : Nat) (v : Task) : (s.setTask a v).queues = s.queues := rfl
@[simp] theorem State.setTask_graphs (s : State) (a : Nat) (v : Task) : (s.setTask a v).graphs = s.graphs := rfl
@[simp] theorem State.setTask_gates (s : State) (a : Nat) (v : Task) : (s.setTask a v).gates = s.gates := rfl
@[simp] theorem State.setTask_episodes (s : State) (a : Nat) (v : Task) : (s.setTask a v).episodes = s.episodes := rfl
@[simp] theorem State.setTask_eptMap (s : State) (a : Nat) (v : Task) : (s.setTask a v).eptMap = s.eptMap := rfl
@[simp] theorem State.setTask_nextArm (s : State) (a : Nat) (v : Task) : (s.setTask a v).nextArm = s.nextArm := rfl
@[simp] theorem State.setTask_rinks (s : State) (a : Nat) (v : Task) : (s.setTask a v).rinks = s.rinks := rfl
@[simp] theorem State.setTask_polgen (s : State) (a : Nat) (v : Task) : (s.setTask a v).polgen = s.polgen := rfl
@[simp] theorem State.setTask_frozen (s : State) (a : Nat) (v : Task) : (s.setTask a v).frozen = s.frozen := rfl
@[simp] theorem State.setTask_areas (s : State) (a : Nat) (v : Task) : (s.setTask a v).areas = s.areas := rfl
@[simp] theorem State.setTask_trackAt (s : State) (a : Nat) (v : Task) : (s.setTask a v).trackAt = s.trackAt := rfl
@[simp] theorem State.setTask_migRecs (s : State) (a : Nat) (v : Task) : (s.setTask a v).migRecs = s.migRecs := rfl
@[simp] theorem State.setTask_princeKey (s : State) (a : Nat) (v : Task) : (s.setTask a v).princeKey = s.princeKey := rfl
@[simp] theorem State.setTask_imports (s : State) (a : Nat) (v : Task) : (s.setTask a v).imports = s.imports := rfl
@[simp] theorem State.setTask_exports (s : State) (a : Nat) (v : Task) : (s.setTask a v).exports = s.exports := rfl
@[simp] theorem State.setTask_redwins (s : State) (a : Nat) (v : Task) : (s.setTask a v).redwins = s.redwins := rfl
@[simp] theorem State.setTask_memberCount (s : State) (a : Nat) (v : Task) : (s.setTask a v).memberCount = s.memberCount := rfl
@[simp] theorem State.setTask_fabReqs (s : State) (a : Nat) (v : Task) : (s.setTask a v).fabReqs = s.fabReqs := rfl
@[simp] theorem State.setTask_crwWaiting (s : State) (a : Nat) (v : Task) : (s.setTask a v).crwWaiting = s.crwWaiting := rfl
@[simp] theorem State.setTask_loading (s : State) (a : Nat) (v : Task) : (s.setTask a v).loading = s.loading := rfl
@[simp] theorem State.setTask_arrivals (s : State) (a : Nat) (v : Task) : (s.setTask a v).arrivals = s.arrivals := rfl
@[simp] theorem State.setTask_portUp (s : State) (a : Nat) (v : Task) : (s.setTask a v).portUp = s.portUp := rfl
@[simp] theorem State.setTask_feTurn (s : State) (a : Nat) (v : Task) : (s.setTask a v).feTurn = s.feTurn := rfl
@[simp] theorem State.setTask_partTurn (s : State) (a : Nat) (v : Task) : (s.setTask a v).partTurn = s.partTurn := rfl
@[simp] theorem State.setTask_nwrite (s : State) (a : Nat) (v : Task) : (s.setTask a v).nwrite = s.nwrite := rfl
@[simp] theorem State.setTask_pageWanted (s : State) (a : Nat) (v : Task) : (s.setTask a v).pageWanted = s.pageWanted := rfl
@[simp] theorem State.setTask_irqs (s : State) (a : Nat) (v : Task) : (s.setTask a v).irqs = s.irqs := rfl
@[simp] theorem State.setTask_msix (s : State) (a : Nat) (v : Task) : (s.setTask a v).msix = s.msix := rfl
@[simp] theorem State.setTask_msixPending (s : State) (a : Nat) (v : Task) : (s.setTask a v).msixPending = s.msixPending := rfl
@[simp] theorem State.setTask_hdmSize (s : State) (a : Nat) (v : Task) : (s.setTask a v).hdmSize = s.hdmSize := rfl
@[simp] theorem State.setTask_evGap (s : State) (a : Nat) (v : Task) : (s.setTask a v).evGap = s.evGap := rfl
@[simp] theorem State.setTask_spdm (s : State) (a : Nat) (v : Task) : (s.setTask a v).spdm = s.spdm := rfl
@[simp] theorem State.setTask_fuseSeed (s : State) (a : Nat) (v : Task) : (s.setTask a v).fuseSeed = s.fuseSeed := rfl
@[simp] theorem State.setTask_identity (s : State) (a : Nat) (v : Task) : (s.setTask a v).identity = s.identity := rfl
@[simp] theorem State.setTask_certs (s : State) (a : Nat) (v : Task) : (s.setTask a v).certs = s.certs := rfl
@[simp] theorem State.setTask_corrected (s : State) (a : Nat) (v : Task) : (s.setTask a v).corrected = s.corrected := rfl
@[simp] theorem State.setTask_banks (s : State) (a : Nat) (v : Task) : (s.setTask a v).banks = s.banks := rfl
@[simp] theorem State.setTask_activeBank (s : State) (a : Nat) (v : Task) : (s.setTask a v).activeBank = s.activeBank := rfl
@[simp] theorem State.setTask_fwuNew (s : State) (a : Nat) (v : Task) : (s.setTask a v).fwuNew = s.fwuNew := rfl
@[simp] theorem State.setTask_svnMin (s : State) (a : Nat) (v : Task) : (s.setTask a v).svnMin = s.svnMin := rfl
@[simp] theorem State.setTask_fuses (s : State) (a : Nat) (v : Task) : (s.setTask a v).fuses = s.fuses := rfl
@[simp] theorem State.setTask_arithClk (s : State) (a : Nat) (v : Task) : (s.setTask a v).arithClk = s.arithClk := rfl
@[simp] theorem State.setTask_wdogs (s : State) (a : Nat) (v : Task) : (s.setTask a v).wdogs = s.wdogs := rfl
@[simp] theorem State.setTask_errors (s : State) (a : Nat) (v : Task) : (s.setTask a v).errors = s.errors := rfl

@[simp] theorem State.setNode_cycle (s : State) (a : Nat) (v : Node) : (s.setNode a v).cycle = s.cycle := rfl
@[simp] theorem State.setNode_clock (s : State) (a : Nat) (v : Node) : (s.setNode a v).clock = s.clock := rfl
@[simp] theorem State.setNode_agenda (s : State) (a : Nat) (v : Node) : (s.setNode a v).agenda = s.agenda := rfl
@[simp] theorem State.setNode_core (s : State) (a : Nat) (v : Node) : (s.setNode a v).core = s.core := rfl
@[simp] theorem State.setNode_ctx (s : State) (a : Nat) (v : Node) : (s.setNode a v).ctx = s.ctx := rfl
@[simp] theorem State.setNode_eng (s : State) (a : Nat) (v : Node) : (s.setNode a v).eng = s.eng := rfl
@[simp] theorem State.setNode_rinkNo (s : State) (a : Nat) (v : Node) : (s.setNode a v).rinkNo = s.rinkNo := rfl
@[simp] theorem State.setNode_fresh (s : State) (a : Nat) (v : Node) : (s.setNode a v).fresh = s.fresh := rfl
@[simp] theorem State.setNode_landing (s : State) (a : Nat) (v : Node) : (s.setNode a v).landing = s.landing := rfl
@[simp] theorem State.setNode_condition (s : State) (a : Nat) (v : Node) : (s.setNode a v).condition = s.condition := rfl
@[simp] theorem State.setNode_ctxs (s : State) (a : Nat) (v : Node) : (s.setNode a v).ctxs = s.ctxs := rfl
@[simp] theorem State.setNode_engs (s : State) (a : Nat) (v : Node) : (s.setNode a v).engs = s.engs := rfl
@[simp] theorem State.setNode_vecs (s : State) (a : Nat) (v : Node) : (s.setNode a v).vecs = s.vecs := rfl
@[simp] theorem State.setNode_frags (s : State) (a : Nat) (v : Node) : (s.setNode a v).frags = s.frags := rfl
@[simp] theorem State.setNode_links (s : State) (a : Nat) (v : Node) : (s.setNode a v).links = s.links := rfl
@[simp] theorem State.setNode_copies (s : State) (a : Nat) (v : Node) : (s.setNode a v).copies = s.copies := rfl
@[simp] theorem State.setNode_cores (s : State) (a : Nat) (v : Node) : (s.setNode a v).cores = s.cores := rfl
@[simp] theorem State.setNode_abuf (s : State) (a : Nat) (v : Node) : (s.setNode a v).abuf = s.abuf := rfl
@[simp] theorem State.setNode_cbuf (s : State) (a : Nat) (v : Node) : (s.setNode a v).cbuf = s.cbuf := rfl
@[simp] theorem State.setNode_wbuf (s : State) (a : Nat) (v : Node) : (s.setNode a v).wbuf = s.wbuf := rfl
@[simp] theorem State.setNode_wkeys (s : State) (a : Nat) (v : Node) : (s.setNode a v).wkeys = s.wkeys := rfl
@[simp] theorem State.setNode_accown (s : State) (a : Nat) (v : Node) : (s.setNode a v).accown = s.accown := rfl
@[simp] theorem State.setNode_holder (s : State) (a : Nat) (v : Node) : (s.setNode a v).holder = s.holder := rfl
@[simp] theorem State.setNode_tasks (s : State) (a : Nat) (v : Node) : (s.setNode a v).tasks = s.tasks := rfl
@[simp] theorem State.setNode_pool (s : State) (a : Nat) (v : Node) : (s.setNode a v).pool = s.pool := rfl
@[simp] theorem State.setNode_nextTask (s : State) (a : Nat) (v : Node) : (s.setNode a v).nextTask = s.nextTask := rfl
@[simp] theorem State.setNode_nextNode (s : State) (a : Nat) (v : Node) : (s.setNode a v).nextNode = s.nextNode := rfl
@[simp] theorem State.setNode_nextGraph (s : State) (a : Nat) (v : Node) : (s.setNode a v).nextGraph = s.nextGraph := rfl
@[simp] theorem State.setNode_mem (s : State) (a : Nat) (v : Node) : (s.setNode a v).mem = s.mem := rfl
@[simp] theorem State.setNode_fcache (s : State) (a : Nat) (v : Node) : (s.setNode a v).fcache = s.fcache := rfl
@[simp] theorem State.setNode_tiles (s : State) (a : Nat) (v : Node) : (s.setNode a v).tiles = s.tiles := rfl
@[simp] theorem State.setNode_frames (s : State) (a : Nat) (v : Node) : (s.setNode a v).frames = s.frames := rfl
@[simp] theorem State.setNode_metaFrames (s : State) (a : Nat) (v : Node) : (s.setNode a v).metaFrames = s.metaFrames := rfl
@[simp] theorem State.setNode_kgens (s : State) (a : Nat) (v : Node) : (s.setNode a v).kgens = s.kgens := rfl
@[simp] theorem State.setNode_sealDraws (s : State) (a : Nat) (v : Node) : (s.setNode a v).sealDraws = s.sealDraws := rfl
@[simp] theorem State.setNode_sealDraw (s : State) (a : Nat) (v : Node) : (s.setNode a v).sealDraw = s.sealDraw := rfl
@[simp] theorem State.setNode_watches (s : State) (a : Nat) (v : Node) : (s.setNode a v).watches = s.watches := rfl
@[simp] theorem State.setNode_market (s : State) (a : Nat) (v : Node) : (s.setNode a v).market = s.market := rfl
@[simp] theorem State.setNode_tables (s : State) (a : Nat) (v : Node) : (s.setNode a v).tables = s.tables := rfl
@[simp] theorem State.setNode_bar (s : State) (a : Nat) (v : Node) : (s.setNode a v).bar = s.bar := rfl
@[simp] theorem State.setNode_queues (s : State) (a : Nat) (v : Node) : (s.setNode a v).queues = s.queues := rfl
@[simp] theorem State.setNode_graphs (s : State) (a : Nat) (v : Node) : (s.setNode a v).graphs = s.graphs := rfl
@[simp] theorem State.setNode_gates (s : State) (a : Nat) (v : Node) : (s.setNode a v).gates = s.gates := rfl
@[simp] theorem State.setNode_episodes (s : State) (a : Nat) (v : Node) : (s.setNode a v).episodes = s.episodes := rfl
@[simp] theorem State.setNode_eptMap (s : State) (a : Nat) (v : Node) : (s.setNode a v).eptMap = s.eptMap := rfl
@[simp] theorem State.setNode_nextArm (s : State) (a : Nat) (v : Node) : (s.setNode a v).nextArm = s.nextArm := rfl
@[simp] theorem State.setNode_rinks (s : State) (a : Nat) (v : Node) : (s.setNode a v).rinks = s.rinks := rfl
@[simp] theorem State.setNode_polgen (s : State) (a : Nat) (v : Node) : (s.setNode a v).polgen = s.polgen := rfl
@[simp] theorem State.setNode_frozen (s : State) (a : Nat) (v : Node) : (s.setNode a v).frozen = s.frozen := rfl
@[simp] theorem State.setNode_areas (s : State) (a : Nat) (v : Node) : (s.setNode a v).areas = s.areas := rfl
@[simp] theorem State.setNode_trackAt (s : State) (a : Nat) (v : Node) : (s.setNode a v).trackAt = s.trackAt := rfl
@[simp] theorem State.setNode_migRecs (s : State) (a : Nat) (v : Node) : (s.setNode a v).migRecs = s.migRecs := rfl
@[simp] theorem State.setNode_princeKey (s : State) (a : Nat) (v : Node) : (s.setNode a v).princeKey = s.princeKey := rfl
@[simp] theorem State.setNode_imports (s : State) (a : Nat) (v : Node) : (s.setNode a v).imports = s.imports := rfl
@[simp] theorem State.setNode_exports (s : State) (a : Nat) (v : Node) : (s.setNode a v).exports = s.exports := rfl
@[simp] theorem State.setNode_redwins (s : State) (a : Nat) (v : Node) : (s.setNode a v).redwins = s.redwins := rfl
@[simp] theorem State.setNode_memberCount (s : State) (a : Nat) (v : Node) : (s.setNode a v).memberCount = s.memberCount := rfl
@[simp] theorem State.setNode_fabReqs (s : State) (a : Nat) (v : Node) : (s.setNode a v).fabReqs = s.fabReqs := rfl
@[simp] theorem State.setNode_crwWaiting (s : State) (a : Nat) (v : Node) : (s.setNode a v).crwWaiting = s.crwWaiting := rfl
@[simp] theorem State.setNode_loading (s : State) (a : Nat) (v : Node) : (s.setNode a v).loading = s.loading := rfl
@[simp] theorem State.setNode_arrivals (s : State) (a : Nat) (v : Node) : (s.setNode a v).arrivals = s.arrivals := rfl
@[simp] theorem State.setNode_portUp (s : State) (a : Nat) (v : Node) : (s.setNode a v).portUp = s.portUp := rfl
@[simp] theorem State.setNode_feTurn (s : State) (a : Nat) (v : Node) : (s.setNode a v).feTurn = s.feTurn := rfl
@[simp] theorem State.setNode_partTurn (s : State) (a : Nat) (v : Node) : (s.setNode a v).partTurn = s.partTurn := rfl
@[simp] theorem State.setNode_nwrite (s : State) (a : Nat) (v : Node) : (s.setNode a v).nwrite = s.nwrite := rfl
@[simp] theorem State.setNode_pageWanted (s : State) (a : Nat) (v : Node) : (s.setNode a v).pageWanted = s.pageWanted := rfl
@[simp] theorem State.setNode_irqs (s : State) (a : Nat) (v : Node) : (s.setNode a v).irqs = s.irqs := rfl
@[simp] theorem State.setNode_msix (s : State) (a : Nat) (v : Node) : (s.setNode a v).msix = s.msix := rfl
@[simp] theorem State.setNode_msixPending (s : State) (a : Nat) (v : Node) : (s.setNode a v).msixPending = s.msixPending := rfl
@[simp] theorem State.setNode_hdmSize (s : State) (a : Nat) (v : Node) : (s.setNode a v).hdmSize = s.hdmSize := rfl
@[simp] theorem State.setNode_evGap (s : State) (a : Nat) (v : Node) : (s.setNode a v).evGap = s.evGap := rfl
@[simp] theorem State.setNode_spdm (s : State) (a : Nat) (v : Node) : (s.setNode a v).spdm = s.spdm := rfl
@[simp] theorem State.setNode_fuseSeed (s : State) (a : Nat) (v : Node) : (s.setNode a v).fuseSeed = s.fuseSeed := rfl
@[simp] theorem State.setNode_identity (s : State) (a : Nat) (v : Node) : (s.setNode a v).identity = s.identity := rfl
@[simp] theorem State.setNode_certs (s : State) (a : Nat) (v : Node) : (s.setNode a v).certs = s.certs := rfl
@[simp] theorem State.setNode_corrected (s : State) (a : Nat) (v : Node) : (s.setNode a v).corrected = s.corrected := rfl
@[simp] theorem State.setNode_banks (s : State) (a : Nat) (v : Node) : (s.setNode a v).banks = s.banks := rfl
@[simp] theorem State.setNode_activeBank (s : State) (a : Nat) (v : Node) : (s.setNode a v).activeBank = s.activeBank := rfl
@[simp] theorem State.setNode_fwuNew (s : State) (a : Nat) (v : Node) : (s.setNode a v).fwuNew = s.fwuNew := rfl
@[simp] theorem State.setNode_svnMin (s : State) (a : Nat) (v : Node) : (s.setNode a v).svnMin = s.svnMin := rfl
@[simp] theorem State.setNode_fuses (s : State) (a : Nat) (v : Node) : (s.setNode a v).fuses = s.fuses := rfl
@[simp] theorem State.setNode_arithClk (s : State) (a : Nat) (v : Node) : (s.setNode a v).arithClk = s.arithClk := rfl
@[simp] theorem State.setNode_wdogs (s : State) (a : Nat) (v : Node) : (s.setNode a v).wdogs = s.wdogs := rfl
@[simp] theorem State.setNode_errors (s : State) (a : Nat) (v : Node) : (s.setNode a v).errors = s.errors := rfl

@[simp] theorem State.setReg_cycle (s : State) (a b : Nat) (v : Word) : (s.setReg a b v).cycle = s.cycle := rfl
@[simp] theorem State.setReg_clock (s : State) (a b : Nat) (v : Word) : (s.setReg a b v).clock = s.clock := rfl
@[simp] theorem State.setReg_agenda (s : State) (a b : Nat) (v : Word) : (s.setReg a b v).agenda = s.agenda := rfl
@[simp] theorem State.setReg_core (s : State) (a b : Nat) (v : Word) : (s.setReg a b v).core = s.core := rfl
@[simp] theorem State.setReg_ctx (s : State) (a b : Nat) (v : Word) : (s.setReg a b v).ctx = s.ctx := rfl
@[simp] theorem State.setReg_eng (s : State) (a b : Nat) (v : Word) : (s.setReg a b v).eng = s.eng := rfl
@[simp] theorem State.setReg_rinkNo (s : State) (a b : Nat) (v : Word) : (s.setReg a b v).rinkNo = s.rinkNo := rfl
@[simp] theorem State.setReg_fresh (s : State) (a b : Nat) (v : Word) : (s.setReg a b v).fresh = s.fresh := rfl
@[simp] theorem State.setReg_landing (s : State) (a b : Nat) (v : Word) : (s.setReg a b v).landing = s.landing := rfl
@[simp] theorem State.setReg_condition (s : State) (a b : Nat) (v : Word) : (s.setReg a b v).condition = s.condition := rfl
@[simp] theorem State.setReg_ctxs (s : State) (a b : Nat) (v : Word) : (s.setReg a b v).ctxs = s.ctxs := rfl
@[simp] theorem State.setReg_engs (s : State) (a b : Nat) (v : Word) : (s.setReg a b v).engs = s.engs := rfl
@[simp] theorem State.setReg_vecs (s : State) (a b : Nat) (v : Word) : (s.setReg a b v).vecs = s.vecs := rfl
@[simp] theorem State.setReg_frags (s : State) (a b : Nat) (v : Word) : (s.setReg a b v).frags = s.frags := rfl
@[simp] theorem State.setReg_links (s : State) (a b : Nat) (v : Word) : (s.setReg a b v).links = s.links := rfl
@[simp] theorem State.setReg_copies (s : State) (a b : Nat) (v : Word) : (s.setReg a b v).copies = s.copies := rfl
@[simp] theorem State.setReg_cores (s : State) (a b : Nat) (v : Word) : (s.setReg a b v).cores = s.cores := rfl
@[simp] theorem State.setReg_abuf (s : State) (a b : Nat) (v : Word) : (s.setReg a b v).abuf = s.abuf := rfl
@[simp] theorem State.setReg_cbuf (s : State) (a b : Nat) (v : Word) : (s.setReg a b v).cbuf = s.cbuf := rfl
@[simp] theorem State.setReg_wbuf (s : State) (a b : Nat) (v : Word) : (s.setReg a b v).wbuf = s.wbuf := rfl
@[simp] theorem State.setReg_wkeys (s : State) (a b : Nat) (v : Word) : (s.setReg a b v).wkeys = s.wkeys := rfl
@[simp] theorem State.setReg_accown (s : State) (a b : Nat) (v : Word) : (s.setReg a b v).accown = s.accown := rfl
@[simp] theorem State.setReg_holder (s : State) (a b : Nat) (v : Word) : (s.setReg a b v).holder = s.holder := rfl
@[simp] theorem State.setReg_tasks (s : State) (a b : Nat) (v : Word) : (s.setReg a b v).tasks = s.tasks := rfl
@[simp] theorem State.setReg_nodes (s : State) (a b : Nat) (v : Word) : (s.setReg a b v).nodes = s.nodes := rfl
@[simp] theorem State.setReg_pool (s : State) (a b : Nat) (v : Word) : (s.setReg a b v).pool = s.pool := rfl
@[simp] theorem State.setReg_nextTask (s : State) (a b : Nat) (v : Word) : (s.setReg a b v).nextTask = s.nextTask := rfl
@[simp] theorem State.setReg_nextNode (s : State) (a b : Nat) (v : Word) : (s.setReg a b v).nextNode = s.nextNode := rfl
@[simp] theorem State.setReg_nextGraph (s : State) (a b : Nat) (v : Word) : (s.setReg a b v).nextGraph = s.nextGraph := rfl
@[simp] theorem State.setReg_mem (s : State) (a b : Nat) (v : Word) : (s.setReg a b v).mem = s.mem := rfl
@[simp] theorem State.setReg_fcache (s : State) (a b : Nat) (v : Word) : (s.setReg a b v).fcache = s.fcache := rfl
@[simp] theorem State.setReg_tiles (s : State) (a b : Nat) (v : Word) : (s.setReg a b v).tiles = s.tiles := rfl
@[simp] theorem State.setReg_frames (s : State) (a b : Nat) (v : Word) : (s.setReg a b v).frames = s.frames := rfl
@[simp] theorem State.setReg_metaFrames (s : State) (a b : Nat) (v : Word) : (s.setReg a b v).metaFrames = s.metaFrames := rfl
@[simp] theorem State.setReg_kgens (s : State) (a b : Nat) (v : Word) : (s.setReg a b v).kgens = s.kgens := rfl
@[simp] theorem State.setReg_sealDraws (s : State) (a b : Nat) (v : Word) : (s.setReg a b v).sealDraws = s.sealDraws := rfl
@[simp] theorem State.setReg_sealDraw (s : State) (a b : Nat) (v : Word) : (s.setReg a b v).sealDraw = s.sealDraw := rfl
@[simp] theorem State.setReg_watches (s : State) (a b : Nat) (v : Word) : (s.setReg a b v).watches = s.watches := rfl
@[simp] theorem State.setReg_market (s : State) (a b : Nat) (v : Word) : (s.setReg a b v).market = s.market := rfl
@[simp] theorem State.setReg_tables (s : State) (a b : Nat) (v : Word) : (s.setReg a b v).tables = s.tables := rfl
@[simp] theorem State.setReg_queues (s : State) (a b : Nat) (v : Word) : (s.setReg a b v).queues = s.queues := rfl
@[simp] theorem State.setReg_graphs (s : State) (a b : Nat) (v : Word) : (s.setReg a b v).graphs = s.graphs := rfl
@[simp] theorem State.setReg_gates (s : State) (a b : Nat) (v : Word) : (s.setReg a b v).gates = s.gates := rfl
@[simp] theorem State.setReg_episodes (s : State) (a b : Nat) (v : Word) : (s.setReg a b v).episodes = s.episodes := rfl
@[simp] theorem State.setReg_eptMap (s : State) (a b : Nat) (v : Word) : (s.setReg a b v).eptMap = s.eptMap := rfl
@[simp] theorem State.setReg_nextArm (s : State) (a b : Nat) (v : Word) : (s.setReg a b v).nextArm = s.nextArm := rfl
@[simp] theorem State.setReg_rinks (s : State) (a b : Nat) (v : Word) : (s.setReg a b v).rinks = s.rinks := rfl
@[simp] theorem State.setReg_polgen (s : State) (a b : Nat) (v : Word) : (s.setReg a b v).polgen = s.polgen := rfl
@[simp] theorem State.setReg_frozen (s : State) (a b : Nat) (v : Word) : (s.setReg a b v).frozen = s.frozen := rfl
@[simp] theorem State.setReg_areas (s : State) (a b : Nat) (v : Word) : (s.setReg a b v).areas = s.areas := rfl
@[simp] theorem State.setReg_trackAt (s : State) (a b : Nat) (v : Word) : (s.setReg a b v).trackAt = s.trackAt := rfl
@[simp] theorem State.setReg_migRecs (s : State) (a b : Nat) (v : Word) : (s.setReg a b v).migRecs = s.migRecs := rfl
@[simp] theorem State.setReg_princeKey (s : State) (a b : Nat) (v : Word) : (s.setReg a b v).princeKey = s.princeKey := rfl
@[simp] theorem State.setReg_imports (s : State) (a b : Nat) (v : Word) : (s.setReg a b v).imports = s.imports := rfl
@[simp] theorem State.setReg_exports (s : State) (a b : Nat) (v : Word) : (s.setReg a b v).exports = s.exports := rfl
@[simp] theorem State.setReg_redwins (s : State) (a b : Nat) (v : Word) : (s.setReg a b v).redwins = s.redwins := rfl
@[simp] theorem State.setReg_memberCount (s : State) (a b : Nat) (v : Word) : (s.setReg a b v).memberCount = s.memberCount := rfl
@[simp] theorem State.setReg_fabReqs (s : State) (a b : Nat) (v : Word) : (s.setReg a b v).fabReqs = s.fabReqs := rfl
@[simp] theorem State.setReg_crwWaiting (s : State) (a b : Nat) (v : Word) : (s.setReg a b v).crwWaiting = s.crwWaiting := rfl
@[simp] theorem State.setReg_loading (s : State) (a b : Nat) (v : Word) : (s.setReg a b v).loading = s.loading := rfl
@[simp] theorem State.setReg_arrivals (s : State) (a b : Nat) (v : Word) : (s.setReg a b v).arrivals = s.arrivals := rfl
@[simp] theorem State.setReg_portUp (s : State) (a b : Nat) (v : Word) : (s.setReg a b v).portUp = s.portUp := rfl
@[simp] theorem State.setReg_feTurn (s : State) (a b : Nat) (v : Word) : (s.setReg a b v).feTurn = s.feTurn := rfl
@[simp] theorem State.setReg_partTurn (s : State) (a b : Nat) (v : Word) : (s.setReg a b v).partTurn = s.partTurn := rfl
@[simp] theorem State.setReg_nwrite (s : State) (a b : Nat) (v : Word) : (s.setReg a b v).nwrite = s.nwrite := rfl
@[simp] theorem State.setReg_pageWanted (s : State) (a b : Nat) (v : Word) : (s.setReg a b v).pageWanted = s.pageWanted := rfl
@[simp] theorem State.setReg_irqs (s : State) (a b : Nat) (v : Word) : (s.setReg a b v).irqs = s.irqs := rfl
@[simp] theorem State.setReg_msix (s : State) (a b : Nat) (v : Word) : (s.setReg a b v).msix = s.msix := rfl
@[simp] theorem State.setReg_msixPending (s : State) (a b : Nat) (v : Word) : (s.setReg a b v).msixPending = s.msixPending := rfl
@[simp] theorem State.setReg_hdmSize (s : State) (a b : Nat) (v : Word) : (s.setReg a b v).hdmSize = s.hdmSize := rfl
@[simp] theorem State.setReg_evGap (s : State) (a b : Nat) (v : Word) : (s.setReg a b v).evGap = s.evGap := rfl
@[simp] theorem State.setReg_spdm (s : State) (a b : Nat) (v : Word) : (s.setReg a b v).spdm = s.spdm := rfl
@[simp] theorem State.setReg_fuseSeed (s : State) (a b : Nat) (v : Word) : (s.setReg a b v).fuseSeed = s.fuseSeed := rfl
@[simp] theorem State.setReg_identity (s : State) (a b : Nat) (v : Word) : (s.setReg a b v).identity = s.identity := rfl
@[simp] theorem State.setReg_certs (s : State) (a b : Nat) (v : Word) : (s.setReg a b v).certs = s.certs := rfl
@[simp] theorem State.setReg_corrected (s : State) (a b : Nat) (v : Word) : (s.setReg a b v).corrected = s.corrected := rfl
@[simp] theorem State.setReg_banks (s : State) (a b : Nat) (v : Word) : (s.setReg a b v).banks = s.banks := rfl
@[simp] theorem State.setReg_activeBank (s : State) (a b : Nat) (v : Word) : (s.setReg a b v).activeBank = s.activeBank := rfl
@[simp] theorem State.setReg_fwuNew (s : State) (a b : Nat) (v : Word) : (s.setReg a b v).fwuNew = s.fwuNew := rfl
@[simp] theorem State.setReg_svnMin (s : State) (a b : Nat) (v : Word) : (s.setReg a b v).svnMin = s.svnMin := rfl
@[simp] theorem State.setReg_fuses (s : State) (a b : Nat) (v : Word) : (s.setReg a b v).fuses = s.fuses := rfl
@[simp] theorem State.setReg_arithClk (s : State) (a b : Nat) (v : Word) : (s.setReg a b v).arithClk = s.arithClk := rfl
@[simp] theorem State.setReg_wdogs (s : State) (a b : Nat) (v : Word) : (s.setReg a b v).wdogs = s.wdogs := rfl
@[simp] theorem State.setReg_errors (s : State) (a b : Nat) (v : Word) : (s.setReg a b v).errors = s.errors := rfl

@[simp] theorem State.setCode_cycle (s : State) (a b c : Nat) : (s.setCode a b c).cycle = s.cycle := rfl
@[simp] theorem State.setCode_clock (s : State) (a b c : Nat) : (s.setCode a b c).clock = s.clock := rfl
@[simp] theorem State.setCode_agenda (s : State) (a b c : Nat) : (s.setCode a b c).agenda = s.agenda := rfl
@[simp] theorem State.setCode_core (s : State) (a b c : Nat) : (s.setCode a b c).core = s.core := rfl
@[simp] theorem State.setCode_ctx (s : State) (a b c : Nat) : (s.setCode a b c).ctx = s.ctx := rfl
@[simp] theorem State.setCode_eng (s : State) (a b c : Nat) : (s.setCode a b c).eng = s.eng := rfl
@[simp] theorem State.setCode_rinkNo (s : State) (a b c : Nat) : (s.setCode a b c).rinkNo = s.rinkNo := rfl
@[simp] theorem State.setCode_fresh (s : State) (a b c : Nat) : (s.setCode a b c).fresh = s.fresh := rfl
@[simp] theorem State.setCode_landing (s : State) (a b c : Nat) : (s.setCode a b c).landing = s.landing := rfl
@[simp] theorem State.setCode_condition (s : State) (a b c : Nat) : (s.setCode a b c).condition = s.condition := rfl
@[simp] theorem State.setCode_ctxs (s : State) (a b c : Nat) : (s.setCode a b c).ctxs = s.ctxs := rfl
@[simp] theorem State.setCode_engs (s : State) (a b c : Nat) : (s.setCode a b c).engs = s.engs := rfl
@[simp] theorem State.setCode_vecs (s : State) (a b c : Nat) : (s.setCode a b c).vecs = s.vecs := rfl
@[simp] theorem State.setCode_frags (s : State) (a b c : Nat) : (s.setCode a b c).frags = s.frags := rfl
@[simp] theorem State.setCode_links (s : State) (a b c : Nat) : (s.setCode a b c).links = s.links := rfl
@[simp] theorem State.setCode_copies (s : State) (a b c : Nat) : (s.setCode a b c).copies = s.copies := rfl
@[simp] theorem State.setCode_cores (s : State) (a b c : Nat) : (s.setCode a b c).cores = s.cores := rfl
@[simp] theorem State.setCode_abuf (s : State) (a b c : Nat) : (s.setCode a b c).abuf = s.abuf := rfl
@[simp] theorem State.setCode_cbuf (s : State) (a b c : Nat) : (s.setCode a b c).cbuf = s.cbuf := rfl
@[simp] theorem State.setCode_wbuf (s : State) (a b c : Nat) : (s.setCode a b c).wbuf = s.wbuf := rfl
@[simp] theorem State.setCode_wkeys (s : State) (a b c : Nat) : (s.setCode a b c).wkeys = s.wkeys := rfl
@[simp] theorem State.setCode_holder (s : State) (a b c : Nat) : (s.setCode a b c).holder = s.holder := rfl
@[simp] theorem State.setCode_tasks (s : State) (a b c : Nat) : (s.setCode a b c).tasks = s.tasks := rfl
@[simp] theorem State.setCode_nodes (s : State) (a b c : Nat) : (s.setCode a b c).nodes = s.nodes := rfl
@[simp] theorem State.setCode_pool (s : State) (a b c : Nat) : (s.setCode a b c).pool = s.pool := rfl
@[simp] theorem State.setCode_nextTask (s : State) (a b c : Nat) : (s.setCode a b c).nextTask = s.nextTask := rfl
@[simp] theorem State.setCode_nextNode (s : State) (a b c : Nat) : (s.setCode a b c).nextNode = s.nextNode := rfl
@[simp] theorem State.setCode_nextGraph (s : State) (a b c : Nat) : (s.setCode a b c).nextGraph = s.nextGraph := rfl
@[simp] theorem State.setCode_mem (s : State) (a b c : Nat) : (s.setCode a b c).mem = s.mem := rfl
@[simp] theorem State.setCode_fcache (s : State) (a b c : Nat) : (s.setCode a b c).fcache = s.fcache := rfl
@[simp] theorem State.setCode_tiles (s : State) (a b c : Nat) : (s.setCode a b c).tiles = s.tiles := rfl
@[simp] theorem State.setCode_frames (s : State) (a b c : Nat) : (s.setCode a b c).frames = s.frames := rfl
@[simp] theorem State.setCode_metaFrames (s : State) (a b c : Nat) : (s.setCode a b c).metaFrames = s.metaFrames := rfl
@[simp] theorem State.setCode_kgens (s : State) (a b c : Nat) : (s.setCode a b c).kgens = s.kgens := rfl
@[simp] theorem State.setCode_sealDraws (s : State) (a b c : Nat) : (s.setCode a b c).sealDraws = s.sealDraws := rfl
@[simp] theorem State.setCode_sealDraw (s : State) (a b c : Nat) : (s.setCode a b c).sealDraw = s.sealDraw := rfl
@[simp] theorem State.setCode_watches (s : State) (a b c : Nat) : (s.setCode a b c).watches = s.watches := rfl
@[simp] theorem State.setCode_market (s : State) (a b c : Nat) : (s.setCode a b c).market = s.market := rfl
@[simp] theorem State.setCode_tables (s : State) (a b c : Nat) : (s.setCode a b c).tables = s.tables := rfl
@[simp] theorem State.setCode_bar (s : State) (a b c : Nat) : (s.setCode a b c).bar = s.bar := rfl
@[simp] theorem State.setCode_queues (s : State) (a b c : Nat) : (s.setCode a b c).queues = s.queues := rfl
@[simp] theorem State.setCode_graphs (s : State) (a b c : Nat) : (s.setCode a b c).graphs = s.graphs := rfl
@[simp] theorem State.setCode_gates (s : State) (a b c : Nat) : (s.setCode a b c).gates = s.gates := rfl
@[simp] theorem State.setCode_episodes (s : State) (a b c : Nat) : (s.setCode a b c).episodes = s.episodes := rfl
@[simp] theorem State.setCode_eptMap (s : State) (a b c : Nat) : (s.setCode a b c).eptMap = s.eptMap := rfl
@[simp] theorem State.setCode_nextArm (s : State) (a b c : Nat) : (s.setCode a b c).nextArm = s.nextArm := rfl
@[simp] theorem State.setCode_rinks (s : State) (a b c : Nat) : (s.setCode a b c).rinks = s.rinks := rfl
@[simp] theorem State.setCode_polgen (s : State) (a b c : Nat) : (s.setCode a b c).polgen = s.polgen := rfl
@[simp] theorem State.setCode_frozen (s : State) (a b c : Nat) : (s.setCode a b c).frozen = s.frozen := rfl
@[simp] theorem State.setCode_areas (s : State) (a b c : Nat) : (s.setCode a b c).areas = s.areas := rfl
@[simp] theorem State.setCode_trackAt (s : State) (a b c : Nat) : (s.setCode a b c).trackAt = s.trackAt := rfl
@[simp] theorem State.setCode_migRecs (s : State) (a b c : Nat) : (s.setCode a b c).migRecs = s.migRecs := rfl
@[simp] theorem State.setCode_princeKey (s : State) (a b c : Nat) : (s.setCode a b c).princeKey = s.princeKey := rfl
@[simp] theorem State.setCode_imports (s : State) (a b c : Nat) : (s.setCode a b c).imports = s.imports := rfl
@[simp] theorem State.setCode_exports (s : State) (a b c : Nat) : (s.setCode a b c).exports = s.exports := rfl
@[simp] theorem State.setCode_redwins (s : State) (a b c : Nat) : (s.setCode a b c).redwins = s.redwins := rfl
@[simp] theorem State.setCode_memberCount (s : State) (a b c : Nat) : (s.setCode a b c).memberCount = s.memberCount := rfl
@[simp] theorem State.setCode_fabReqs (s : State) (a b c : Nat) : (s.setCode a b c).fabReqs = s.fabReqs := rfl
@[simp] theorem State.setCode_crwWaiting (s : State) (a b c : Nat) : (s.setCode a b c).crwWaiting = s.crwWaiting := rfl
@[simp] theorem State.setCode_loading (s : State) (a b c : Nat) : (s.setCode a b c).loading = s.loading := rfl
@[simp] theorem State.setCode_arrivals (s : State) (a b c : Nat) : (s.setCode a b c).arrivals = s.arrivals := rfl
@[simp] theorem State.setCode_portUp (s : State) (a b c : Nat) : (s.setCode a b c).portUp = s.portUp := rfl
@[simp] theorem State.setCode_feTurn (s : State) (a b c : Nat) : (s.setCode a b c).feTurn = s.feTurn := rfl
@[simp] theorem State.setCode_partTurn (s : State) (a b c : Nat) : (s.setCode a b c).partTurn = s.partTurn := rfl
@[simp] theorem State.setCode_nwrite (s : State) (a b c : Nat) : (s.setCode a b c).nwrite = s.nwrite := rfl
@[simp] theorem State.setCode_pageWanted (s : State) (a b c : Nat) : (s.setCode a b c).pageWanted = s.pageWanted := rfl
@[simp] theorem State.setCode_irqs (s : State) (a b c : Nat) : (s.setCode a b c).irqs = s.irqs := rfl
@[simp] theorem State.setCode_msix (s : State) (a b c : Nat) : (s.setCode a b c).msix = s.msix := rfl
@[simp] theorem State.setCode_msixPending (s : State) (a b c : Nat) : (s.setCode a b c).msixPending = s.msixPending := rfl
@[simp] theorem State.setCode_hdmSize (s : State) (a b c : Nat) : (s.setCode a b c).hdmSize = s.hdmSize := rfl
@[simp] theorem State.setCode_evGap (s : State) (a b c : Nat) : (s.setCode a b c).evGap = s.evGap := rfl
@[simp] theorem State.setCode_spdm (s : State) (a b c : Nat) : (s.setCode a b c).spdm = s.spdm := rfl
@[simp] theorem State.setCode_fuseSeed (s : State) (a b c : Nat) : (s.setCode a b c).fuseSeed = s.fuseSeed := rfl
@[simp] theorem State.setCode_identity (s : State) (a b c : Nat) : (s.setCode a b c).identity = s.identity := rfl
@[simp] theorem State.setCode_certs (s : State) (a b c : Nat) : (s.setCode a b c).certs = s.certs := rfl
@[simp] theorem State.setCode_corrected (s : State) (a b c : Nat) : (s.setCode a b c).corrected = s.corrected := rfl
@[simp] theorem State.setCode_banks (s : State) (a b c : Nat) : (s.setCode a b c).banks = s.banks := rfl
@[simp] theorem State.setCode_activeBank (s : State) (a b c : Nat) : (s.setCode a b c).activeBank = s.activeBank := rfl
@[simp] theorem State.setCode_fwuNew (s : State) (a b c : Nat) : (s.setCode a b c).fwuNew = s.fwuNew := rfl
@[simp] theorem State.setCode_svnMin (s : State) (a b c : Nat) : (s.setCode a b c).svnMin = s.svnMin := rfl
@[simp] theorem State.setCode_fuses (s : State) (a b c : Nat) : (s.setCode a b c).fuses = s.fuses := rfl
@[simp] theorem State.setCode_arithClk (s : State) (a b c : Nat) : (s.setCode a b c).arithClk = s.arithClk := rfl
@[simp] theorem State.setCode_wdogs (s : State) (a b c : Nat) : (s.setCode a b c).wdogs = s.wdogs := rfl
@[simp] theorem State.setCode_errors (s : State) (a b c : Nat) : (s.setCode a b c).errors = s.errors := rfl

@[simp] theorem State.pokeByte_cycle (s : State) (a : Nat) (v : Byte) : (s.pokeByte a v).cycle = s.cycle := rfl
@[simp] theorem State.pokeByte_clock (s : State) (a : Nat) (v : Byte) : (s.pokeByte a v).clock = s.clock := rfl
@[simp] theorem State.pokeByte_agenda (s : State) (a : Nat) (v : Byte) : (s.pokeByte a v).agenda = s.agenda := rfl
@[simp] theorem State.pokeByte_core (s : State) (a : Nat) (v : Byte) : (s.pokeByte a v).core = s.core := rfl
@[simp] theorem State.pokeByte_ctx (s : State) (a : Nat) (v : Byte) : (s.pokeByte a v).ctx = s.ctx := rfl
@[simp] theorem State.pokeByte_eng (s : State) (a : Nat) (v : Byte) : (s.pokeByte a v).eng = s.eng := rfl
@[simp] theorem State.pokeByte_rinkNo (s : State) (a : Nat) (v : Byte) : (s.pokeByte a v).rinkNo = s.rinkNo := rfl
@[simp] theorem State.pokeByte_fresh (s : State) (a : Nat) (v : Byte) : (s.pokeByte a v).fresh = s.fresh := rfl
@[simp] theorem State.pokeByte_landing (s : State) (a : Nat) (v : Byte) : (s.pokeByte a v).landing = s.landing := rfl
@[simp] theorem State.pokeByte_condition (s : State) (a : Nat) (v : Byte) : (s.pokeByte a v).condition = s.condition := rfl
@[simp] theorem State.pokeByte_ctxs (s : State) (a : Nat) (v : Byte) : (s.pokeByte a v).ctxs = s.ctxs := rfl
@[simp] theorem State.pokeByte_engs (s : State) (a : Nat) (v : Byte) : (s.pokeByte a v).engs = s.engs := rfl
@[simp] theorem State.pokeByte_vecs (s : State) (a : Nat) (v : Byte) : (s.pokeByte a v).vecs = s.vecs := rfl
@[simp] theorem State.pokeByte_frags (s : State) (a : Nat) (v : Byte) : (s.pokeByte a v).frags = s.frags := rfl
@[simp] theorem State.pokeByte_links (s : State) (a : Nat) (v : Byte) : (s.pokeByte a v).links = s.links := rfl
@[simp] theorem State.pokeByte_copies (s : State) (a : Nat) (v : Byte) : (s.pokeByte a v).copies = s.copies := rfl
@[simp] theorem State.pokeByte_cores (s : State) (a : Nat) (v : Byte) : (s.pokeByte a v).cores = s.cores := rfl
@[simp] theorem State.pokeByte_abuf (s : State) (a : Nat) (v : Byte) : (s.pokeByte a v).abuf = s.abuf := rfl
@[simp] theorem State.pokeByte_cbuf (s : State) (a : Nat) (v : Byte) : (s.pokeByte a v).cbuf = s.cbuf := rfl
@[simp] theorem State.pokeByte_wbuf (s : State) (a : Nat) (v : Byte) : (s.pokeByte a v).wbuf = s.wbuf := rfl
@[simp] theorem State.pokeByte_wkeys (s : State) (a : Nat) (v : Byte) : (s.pokeByte a v).wkeys = s.wkeys := rfl
@[simp] theorem State.pokeByte_accown (s : State) (a : Nat) (v : Byte) : (s.pokeByte a v).accown = s.accown := rfl
@[simp] theorem State.pokeByte_holder (s : State) (a : Nat) (v : Byte) : (s.pokeByte a v).holder = s.holder := rfl
@[simp] theorem State.pokeByte_tasks (s : State) (a : Nat) (v : Byte) : (s.pokeByte a v).tasks = s.tasks := rfl
@[simp] theorem State.pokeByte_nodes (s : State) (a : Nat) (v : Byte) : (s.pokeByte a v).nodes = s.nodes := rfl
@[simp] theorem State.pokeByte_pool (s : State) (a : Nat) (v : Byte) : (s.pokeByte a v).pool = s.pool := rfl
@[simp] theorem State.pokeByte_nextTask (s : State) (a : Nat) (v : Byte) : (s.pokeByte a v).nextTask = s.nextTask := rfl
@[simp] theorem State.pokeByte_nextNode (s : State) (a : Nat) (v : Byte) : (s.pokeByte a v).nextNode = s.nextNode := rfl
@[simp] theorem State.pokeByte_nextGraph (s : State) (a : Nat) (v : Byte) : (s.pokeByte a v).nextGraph = s.nextGraph := rfl
@[simp] theorem State.pokeByte_mem (s : State) (a : Nat) (v : Byte) : (s.pokeByte a v).mem = s.mem := rfl
@[simp] theorem State.pokeByte_tiles (s : State) (a : Nat) (v : Byte) : (s.pokeByte a v).tiles = s.tiles := rfl
@[simp] theorem State.pokeByte_frames (s : State) (a : Nat) (v : Byte) : (s.pokeByte a v).frames = s.frames := rfl
@[simp] theorem State.pokeByte_metaFrames (s : State) (a : Nat) (v : Byte) : (s.pokeByte a v).metaFrames = s.metaFrames := rfl
@[simp] theorem State.pokeByte_kgens (s : State) (a : Nat) (v : Byte) : (s.pokeByte a v).kgens = s.kgens := rfl
@[simp] theorem State.pokeByte_sealDraws (s : State) (a : Nat) (v : Byte) : (s.pokeByte a v).sealDraws = s.sealDraws := rfl
@[simp] theorem State.pokeByte_sealDraw (s : State) (a : Nat) (v : Byte) : (s.pokeByte a v).sealDraw = s.sealDraw := rfl
@[simp] theorem State.pokeByte_watches (s : State) (a : Nat) (v : Byte) : (s.pokeByte a v).watches = s.watches := rfl
@[simp] theorem State.pokeByte_market (s : State) (a : Nat) (v : Byte) : (s.pokeByte a v).market = s.market := rfl
@[simp] theorem State.pokeByte_tables (s : State) (a : Nat) (v : Byte) : (s.pokeByte a v).tables = s.tables := rfl
@[simp] theorem State.pokeByte_bar (s : State) (a : Nat) (v : Byte) : (s.pokeByte a v).bar = s.bar := rfl
@[simp] theorem State.pokeByte_queues (s : State) (a : Nat) (v : Byte) : (s.pokeByte a v).queues = s.queues := rfl
@[simp] theorem State.pokeByte_graphs (s : State) (a : Nat) (v : Byte) : (s.pokeByte a v).graphs = s.graphs := rfl
@[simp] theorem State.pokeByte_gates (s : State) (a : Nat) (v : Byte) : (s.pokeByte a v).gates = s.gates := rfl
@[simp] theorem State.pokeByte_episodes (s : State) (a : Nat) (v : Byte) : (s.pokeByte a v).episodes = s.episodes := rfl
@[simp] theorem State.pokeByte_eptMap (s : State) (a : Nat) (v : Byte) : (s.pokeByte a v).eptMap = s.eptMap := rfl
@[simp] theorem State.pokeByte_nextArm (s : State) (a : Nat) (v : Byte) : (s.pokeByte a v).nextArm = s.nextArm := rfl
@[simp] theorem State.pokeByte_rinks (s : State) (a : Nat) (v : Byte) : (s.pokeByte a v).rinks = s.rinks := rfl
@[simp] theorem State.pokeByte_polgen (s : State) (a : Nat) (v : Byte) : (s.pokeByte a v).polgen = s.polgen := rfl
@[simp] theorem State.pokeByte_frozen (s : State) (a : Nat) (v : Byte) : (s.pokeByte a v).frozen = s.frozen := rfl
@[simp] theorem State.pokeByte_areas (s : State) (a : Nat) (v : Byte) : (s.pokeByte a v).areas = s.areas := rfl
@[simp] theorem State.pokeByte_trackAt (s : State) (a : Nat) (v : Byte) : (s.pokeByte a v).trackAt = s.trackAt := rfl
@[simp] theorem State.pokeByte_migRecs (s : State) (a : Nat) (v : Byte) : (s.pokeByte a v).migRecs = s.migRecs := rfl
@[simp] theorem State.pokeByte_princeKey (s : State) (a : Nat) (v : Byte) : (s.pokeByte a v).princeKey = s.princeKey := rfl
@[simp] theorem State.pokeByte_imports (s : State) (a : Nat) (v : Byte) : (s.pokeByte a v).imports = s.imports := rfl
@[simp] theorem State.pokeByte_exports (s : State) (a : Nat) (v : Byte) : (s.pokeByte a v).exports = s.exports := rfl
@[simp] theorem State.pokeByte_redwins (s : State) (a : Nat) (v : Byte) : (s.pokeByte a v).redwins = s.redwins := rfl
@[simp] theorem State.pokeByte_memberCount (s : State) (a : Nat) (v : Byte) : (s.pokeByte a v).memberCount = s.memberCount := rfl
@[simp] theorem State.pokeByte_fabReqs (s : State) (a : Nat) (v : Byte) : (s.pokeByte a v).fabReqs = s.fabReqs := rfl
@[simp] theorem State.pokeByte_crwWaiting (s : State) (a : Nat) (v : Byte) : (s.pokeByte a v).crwWaiting = s.crwWaiting := rfl
@[simp] theorem State.pokeByte_loading (s : State) (a : Nat) (v : Byte) : (s.pokeByte a v).loading = s.loading := rfl
@[simp] theorem State.pokeByte_arrivals (s : State) (a : Nat) (v : Byte) : (s.pokeByte a v).arrivals = s.arrivals := rfl
@[simp] theorem State.pokeByte_portUp (s : State) (a : Nat) (v : Byte) : (s.pokeByte a v).portUp = s.portUp := rfl
@[simp] theorem State.pokeByte_feTurn (s : State) (a : Nat) (v : Byte) : (s.pokeByte a v).feTurn = s.feTurn := rfl
@[simp] theorem State.pokeByte_partTurn (s : State) (a : Nat) (v : Byte) : (s.pokeByte a v).partTurn = s.partTurn := rfl
@[simp] theorem State.pokeByte_nwrite (s : State) (a : Nat) (v : Byte) : (s.pokeByte a v).nwrite = s.nwrite := rfl
@[simp] theorem State.pokeByte_pageWanted (s : State) (a : Nat) (v : Byte) : (s.pokeByte a v).pageWanted = s.pageWanted := rfl
@[simp] theorem State.pokeByte_irqs (s : State) (a : Nat) (v : Byte) : (s.pokeByte a v).irqs = s.irqs := rfl
@[simp] theorem State.pokeByte_msix (s : State) (a : Nat) (v : Byte) : (s.pokeByte a v).msix = s.msix := rfl
@[simp] theorem State.pokeByte_msixPending (s : State) (a : Nat) (v : Byte) : (s.pokeByte a v).msixPending = s.msixPending := rfl
@[simp] theorem State.pokeByte_hdmSize (s : State) (a : Nat) (v : Byte) : (s.pokeByte a v).hdmSize = s.hdmSize := rfl
@[simp] theorem State.pokeByte_evGap (s : State) (a : Nat) (v : Byte) : (s.pokeByte a v).evGap = s.evGap := rfl
@[simp] theorem State.pokeByte_spdm (s : State) (a : Nat) (v : Byte) : (s.pokeByte a v).spdm = s.spdm := rfl
@[simp] theorem State.pokeByte_fuseSeed (s : State) (a : Nat) (v : Byte) : (s.pokeByte a v).fuseSeed = s.fuseSeed := rfl
@[simp] theorem State.pokeByte_identity (s : State) (a : Nat) (v : Byte) : (s.pokeByte a v).identity = s.identity := rfl
@[simp] theorem State.pokeByte_certs (s : State) (a : Nat) (v : Byte) : (s.pokeByte a v).certs = s.certs := rfl
@[simp] theorem State.pokeByte_corrected (s : State) (a : Nat) (v : Byte) : (s.pokeByte a v).corrected = s.corrected := rfl
@[simp] theorem State.pokeByte_banks (s : State) (a : Nat) (v : Byte) : (s.pokeByte a v).banks = s.banks := rfl
@[simp] theorem State.pokeByte_activeBank (s : State) (a : Nat) (v : Byte) : (s.pokeByte a v).activeBank = s.activeBank := rfl
@[simp] theorem State.pokeByte_fwuNew (s : State) (a : Nat) (v : Byte) : (s.pokeByte a v).fwuNew = s.fwuNew := rfl
@[simp] theorem State.pokeByte_svnMin (s : State) (a : Nat) (v : Byte) : (s.pokeByte a v).svnMin = s.svnMin := rfl
@[simp] theorem State.pokeByte_fuses (s : State) (a : Nat) (v : Byte) : (s.pokeByte a v).fuses = s.fuses := rfl
@[simp] theorem State.pokeByte_arithClk (s : State) (a : Nat) (v : Byte) : (s.pokeByte a v).arithClk = s.arithClk := rfl
@[simp] theorem State.pokeByte_wdogs (s : State) (a : Nat) (v : Byte) : (s.pokeByte a v).wdogs = s.wdogs := rfl
@[simp] theorem State.pokeByte_errors (s : State) (a : Nat) (v : Byte) : (s.pokeByte a v).errors = s.errors := rfl

@[simp] theorem State.push_cycle (s : State) (d : Due) : (s.push d).cycle = s.cycle := rfl
@[simp] theorem State.push_clock (s : State) (d : Due) : (s.push d).clock = s.clock := rfl
@[simp] theorem State.push_core (s : State) (d : Due) : (s.push d).core = s.core := rfl
@[simp] theorem State.push_ctx (s : State) (d : Due) : (s.push d).ctx = s.ctx := rfl
@[simp] theorem State.push_eng (s : State) (d : Due) : (s.push d).eng = s.eng := rfl
@[simp] theorem State.push_rinkNo (s : State) (d : Due) : (s.push d).rinkNo = s.rinkNo := rfl
@[simp] theorem State.push_fresh (s : State) (d : Due) : (s.push d).fresh = s.fresh := rfl
@[simp] theorem State.push_landing (s : State) (d : Due) : (s.push d).landing = s.landing := rfl
@[simp] theorem State.push_condition (s : State) (d : Due) : (s.push d).condition = s.condition := rfl
@[simp] theorem State.push_ctxs (s : State) (d : Due) : (s.push d).ctxs = s.ctxs := rfl
@[simp] theorem State.push_engs (s : State) (d : Due) : (s.push d).engs = s.engs := rfl
@[simp] theorem State.push_vecs (s : State) (d : Due) : (s.push d).vecs = s.vecs := rfl
@[simp] theorem State.push_frags (s : State) (d : Due) : (s.push d).frags = s.frags := rfl
@[simp] theorem State.push_links (s : State) (d : Due) : (s.push d).links = s.links := rfl
@[simp] theorem State.push_copies (s : State) (d : Due) : (s.push d).copies = s.copies := rfl
@[simp] theorem State.push_cores (s : State) (d : Due) : (s.push d).cores = s.cores := rfl
@[simp] theorem State.push_abuf (s : State) (d : Due) : (s.push d).abuf = s.abuf := rfl
@[simp] theorem State.push_cbuf (s : State) (d : Due) : (s.push d).cbuf = s.cbuf := rfl
@[simp] theorem State.push_wbuf (s : State) (d : Due) : (s.push d).wbuf = s.wbuf := rfl
@[simp] theorem State.push_wkeys (s : State) (d : Due) : (s.push d).wkeys = s.wkeys := rfl
@[simp] theorem State.push_accown (s : State) (d : Due) : (s.push d).accown = s.accown := rfl
@[simp] theorem State.push_holder (s : State) (d : Due) : (s.push d).holder = s.holder := rfl
@[simp] theorem State.push_tasks (s : State) (d : Due) : (s.push d).tasks = s.tasks := rfl
@[simp] theorem State.push_nodes (s : State) (d : Due) : (s.push d).nodes = s.nodes := rfl
@[simp] theorem State.push_pool (s : State) (d : Due) : (s.push d).pool = s.pool := rfl
@[simp] theorem State.push_nextTask (s : State) (d : Due) : (s.push d).nextTask = s.nextTask := rfl
@[simp] theorem State.push_nextNode (s : State) (d : Due) : (s.push d).nextNode = s.nextNode := rfl
@[simp] theorem State.push_nextGraph (s : State) (d : Due) : (s.push d).nextGraph = s.nextGraph := rfl
@[simp] theorem State.push_mem (s : State) (d : Due) : (s.push d).mem = s.mem := rfl
@[simp] theorem State.push_fcache (s : State) (d : Due) : (s.push d).fcache = s.fcache := rfl
@[simp] theorem State.push_tiles (s : State) (d : Due) : (s.push d).tiles = s.tiles := rfl
@[simp] theorem State.push_frames (s : State) (d : Due) : (s.push d).frames = s.frames := rfl
@[simp] theorem State.push_metaFrames (s : State) (d : Due) : (s.push d).metaFrames = s.metaFrames := rfl
@[simp] theorem State.push_kgens (s : State) (d : Due) : (s.push d).kgens = s.kgens := rfl
@[simp] theorem State.push_sealDraws (s : State) (d : Due) : (s.push d).sealDraws = s.sealDraws := rfl
@[simp] theorem State.push_sealDraw (s : State) (d : Due) : (s.push d).sealDraw = s.sealDraw := rfl
@[simp] theorem State.push_watches (s : State) (d : Due) : (s.push d).watches = s.watches := rfl
@[simp] theorem State.push_market (s : State) (d : Due) : (s.push d).market = s.market := rfl
@[simp] theorem State.push_tables (s : State) (d : Due) : (s.push d).tables = s.tables := rfl
@[simp] theorem State.push_bar (s : State) (d : Due) : (s.push d).bar = s.bar := rfl
@[simp] theorem State.push_queues (s : State) (d : Due) : (s.push d).queues = s.queues := rfl
@[simp] theorem State.push_graphs (s : State) (d : Due) : (s.push d).graphs = s.graphs := rfl
@[simp] theorem State.push_gates (s : State) (d : Due) : (s.push d).gates = s.gates := rfl
@[simp] theorem State.push_episodes (s : State) (d : Due) : (s.push d).episodes = s.episodes := rfl
@[simp] theorem State.push_eptMap (s : State) (d : Due) : (s.push d).eptMap = s.eptMap := rfl
@[simp] theorem State.push_nextArm (s : State) (d : Due) : (s.push d).nextArm = s.nextArm := rfl
@[simp] theorem State.push_rinks (s : State) (d : Due) : (s.push d).rinks = s.rinks := rfl
@[simp] theorem State.push_polgen (s : State) (d : Due) : (s.push d).polgen = s.polgen := rfl
@[simp] theorem State.push_frozen (s : State) (d : Due) : (s.push d).frozen = s.frozen := rfl
@[simp] theorem State.push_areas (s : State) (d : Due) : (s.push d).areas = s.areas := rfl
@[simp] theorem State.push_trackAt (s : State) (d : Due) : (s.push d).trackAt = s.trackAt := rfl
@[simp] theorem State.push_migRecs (s : State) (d : Due) : (s.push d).migRecs = s.migRecs := rfl
@[simp] theorem State.push_princeKey (s : State) (d : Due) : (s.push d).princeKey = s.princeKey := rfl
@[simp] theorem State.push_imports (s : State) (d : Due) : (s.push d).imports = s.imports := rfl
@[simp] theorem State.push_exports (s : State) (d : Due) : (s.push d).exports = s.exports := rfl
@[simp] theorem State.push_redwins (s : State) (d : Due) : (s.push d).redwins = s.redwins := rfl
@[simp] theorem State.push_memberCount (s : State) (d : Due) : (s.push d).memberCount = s.memberCount := rfl
@[simp] theorem State.push_fabReqs (s : State) (d : Due) : (s.push d).fabReqs = s.fabReqs := rfl
@[simp] theorem State.push_crwWaiting (s : State) (d : Due) : (s.push d).crwWaiting = s.crwWaiting := rfl
@[simp] theorem State.push_loading (s : State) (d : Due) : (s.push d).loading = s.loading := rfl
@[simp] theorem State.push_arrivals (s : State) (d : Due) : (s.push d).arrivals = s.arrivals := rfl
@[simp] theorem State.push_portUp (s : State) (d : Due) : (s.push d).portUp = s.portUp := rfl
@[simp] theorem State.push_feTurn (s : State) (d : Due) : (s.push d).feTurn = s.feTurn := rfl
@[simp] theorem State.push_partTurn (s : State) (d : Due) : (s.push d).partTurn = s.partTurn := rfl
@[simp] theorem State.push_nwrite (s : State) (d : Due) : (s.push d).nwrite = s.nwrite := rfl
@[simp] theorem State.push_pageWanted (s : State) (d : Due) : (s.push d).pageWanted = s.pageWanted := rfl
@[simp] theorem State.push_irqs (s : State) (d : Due) : (s.push d).irqs = s.irqs := rfl
@[simp] theorem State.push_msix (s : State) (d : Due) : (s.push d).msix = s.msix := rfl
@[simp] theorem State.push_msixPending (s : State) (d : Due) : (s.push d).msixPending = s.msixPending := rfl
@[simp] theorem State.push_hdmSize (s : State) (d : Due) : (s.push d).hdmSize = s.hdmSize := rfl
@[simp] theorem State.push_evGap (s : State) (d : Due) : (s.push d).evGap = s.evGap := rfl
@[simp] theorem State.push_spdm (s : State) (d : Due) : (s.push d).spdm = s.spdm := rfl
@[simp] theorem State.push_fuseSeed (s : State) (d : Due) : (s.push d).fuseSeed = s.fuseSeed := rfl
@[simp] theorem State.push_identity (s : State) (d : Due) : (s.push d).identity = s.identity := rfl
@[simp] theorem State.push_certs (s : State) (d : Due) : (s.push d).certs = s.certs := rfl
@[simp] theorem State.push_corrected (s : State) (d : Due) : (s.push d).corrected = s.corrected := rfl
@[simp] theorem State.push_banks (s : State) (d : Due) : (s.push d).banks = s.banks := rfl
@[simp] theorem State.push_activeBank (s : State) (d : Due) : (s.push d).activeBank = s.activeBank := rfl
@[simp] theorem State.push_fwuNew (s : State) (d : Due) : (s.push d).fwuNew = s.fwuNew := rfl
@[simp] theorem State.push_svnMin (s : State) (d : Due) : (s.push d).svnMin = s.svnMin := rfl
@[simp] theorem State.push_fuses (s : State) (d : Due) : (s.push d).fuses = s.fuses := rfl
@[simp] theorem State.push_arithClk (s : State) (d : Due) : (s.push d).arithClk = s.arithClk := rfl
@[simp] theorem State.push_wdogs (s : State) (d : Due) : (s.push d).wdogs = s.wdogs := rfl
@[simp] theorem State.push_errors (s : State) (d : Due) : (s.push d).errors = s.errors := rfl

@[simp] theorem State.tickFresh_cycle (s : State) : (s.tickFresh).cycle = s.cycle := rfl
@[simp] theorem State.tickFresh_clock (s : State) : (s.tickFresh).clock = s.clock := rfl
@[simp] theorem State.tickFresh_agenda (s : State) : (s.tickFresh).agenda = s.agenda := rfl
@[simp] theorem State.tickFresh_core (s : State) : (s.tickFresh).core = s.core := rfl
@[simp] theorem State.tickFresh_ctx (s : State) : (s.tickFresh).ctx = s.ctx := rfl
@[simp] theorem State.tickFresh_eng (s : State) : (s.tickFresh).eng = s.eng := rfl
@[simp] theorem State.tickFresh_rinkNo (s : State) : (s.tickFresh).rinkNo = s.rinkNo := rfl
@[simp] theorem State.tickFresh_landing (s : State) : (s.tickFresh).landing = s.landing := rfl
@[simp] theorem State.tickFresh_condition (s : State) : (s.tickFresh).condition = s.condition := rfl
@[simp] theorem State.tickFresh_ctxs (s : State) : (s.tickFresh).ctxs = s.ctxs := rfl
@[simp] theorem State.tickFresh_engs (s : State) : (s.tickFresh).engs = s.engs := rfl
@[simp] theorem State.tickFresh_vecs (s : State) : (s.tickFresh).vecs = s.vecs := rfl
@[simp] theorem State.tickFresh_frags (s : State) : (s.tickFresh).frags = s.frags := rfl
@[simp] theorem State.tickFresh_links (s : State) : (s.tickFresh).links = s.links := rfl
@[simp] theorem State.tickFresh_copies (s : State) : (s.tickFresh).copies = s.copies := rfl
@[simp] theorem State.tickFresh_cores (s : State) : (s.tickFresh).cores = s.cores := rfl
@[simp] theorem State.tickFresh_abuf (s : State) : (s.tickFresh).abuf = s.abuf := rfl
@[simp] theorem State.tickFresh_cbuf (s : State) : (s.tickFresh).cbuf = s.cbuf := rfl
@[simp] theorem State.tickFresh_wbuf (s : State) : (s.tickFresh).wbuf = s.wbuf := rfl
@[simp] theorem State.tickFresh_wkeys (s : State) : (s.tickFresh).wkeys = s.wkeys := rfl
@[simp] theorem State.tickFresh_accown (s : State) : (s.tickFresh).accown = s.accown := rfl
@[simp] theorem State.tickFresh_holder (s : State) : (s.tickFresh).holder = s.holder := rfl
@[simp] theorem State.tickFresh_tasks (s : State) : (s.tickFresh).tasks = s.tasks := rfl
@[simp] theorem State.tickFresh_nodes (s : State) : (s.tickFresh).nodes = s.nodes := rfl
@[simp] theorem State.tickFresh_pool (s : State) : (s.tickFresh).pool = s.pool := rfl
@[simp] theorem State.tickFresh_nextTask (s : State) : (s.tickFresh).nextTask = s.nextTask := rfl
@[simp] theorem State.tickFresh_nextNode (s : State) : (s.tickFresh).nextNode = s.nextNode := rfl
@[simp] theorem State.tickFresh_nextGraph (s : State) : (s.tickFresh).nextGraph = s.nextGraph := rfl
@[simp] theorem State.tickFresh_mem (s : State) : (s.tickFresh).mem = s.mem := rfl
@[simp] theorem State.tickFresh_fcache (s : State) : (s.tickFresh).fcache = s.fcache := rfl
@[simp] theorem State.tickFresh_tiles (s : State) : (s.tickFresh).tiles = s.tiles := rfl
@[simp] theorem State.tickFresh_frames (s : State) : (s.tickFresh).frames = s.frames := rfl
@[simp] theorem State.tickFresh_metaFrames (s : State) : (s.tickFresh).metaFrames = s.metaFrames := rfl
@[simp] theorem State.tickFresh_kgens (s : State) : (s.tickFresh).kgens = s.kgens := rfl
@[simp] theorem State.tickFresh_sealDraws (s : State) : (s.tickFresh).sealDraws = s.sealDraws := rfl
@[simp] theorem State.tickFresh_sealDraw (s : State) : (s.tickFresh).sealDraw = s.sealDraw := rfl
@[simp] theorem State.tickFresh_watches (s : State) : (s.tickFresh).watches = s.watches := rfl
@[simp] theorem State.tickFresh_market (s : State) : (s.tickFresh).market = s.market := rfl
@[simp] theorem State.tickFresh_tables (s : State) : (s.tickFresh).tables = s.tables := rfl
@[simp] theorem State.tickFresh_bar (s : State) : (s.tickFresh).bar = s.bar := rfl
@[simp] theorem State.tickFresh_queues (s : State) : (s.tickFresh).queues = s.queues := rfl
@[simp] theorem State.tickFresh_graphs (s : State) : (s.tickFresh).graphs = s.graphs := rfl
@[simp] theorem State.tickFresh_gates (s : State) : (s.tickFresh).gates = s.gates := rfl
@[simp] theorem State.tickFresh_episodes (s : State) : (s.tickFresh).episodes = s.episodes := rfl
@[simp] theorem State.tickFresh_eptMap (s : State) : (s.tickFresh).eptMap = s.eptMap := rfl
@[simp] theorem State.tickFresh_nextArm (s : State) : (s.tickFresh).nextArm = s.nextArm := rfl
@[simp] theorem State.tickFresh_rinks (s : State) : (s.tickFresh).rinks = s.rinks := rfl
@[simp] theorem State.tickFresh_polgen (s : State) : (s.tickFresh).polgen = s.polgen := rfl
@[simp] theorem State.tickFresh_frozen (s : State) : (s.tickFresh).frozen = s.frozen := rfl
@[simp] theorem State.tickFresh_areas (s : State) : (s.tickFresh).areas = s.areas := rfl
@[simp] theorem State.tickFresh_trackAt (s : State) : (s.tickFresh).trackAt = s.trackAt := rfl
@[simp] theorem State.tickFresh_migRecs (s : State) : (s.tickFresh).migRecs = s.migRecs := rfl
@[simp] theorem State.tickFresh_princeKey (s : State) : (s.tickFresh).princeKey = s.princeKey := rfl
@[simp] theorem State.tickFresh_imports (s : State) : (s.tickFresh).imports = s.imports := rfl
@[simp] theorem State.tickFresh_exports (s : State) : (s.tickFresh).exports = s.exports := rfl
@[simp] theorem State.tickFresh_redwins (s : State) : (s.tickFresh).redwins = s.redwins := rfl
@[simp] theorem State.tickFresh_memberCount (s : State) : (s.tickFresh).memberCount = s.memberCount := rfl
@[simp] theorem State.tickFresh_fabReqs (s : State) : (s.tickFresh).fabReqs = s.fabReqs := rfl
@[simp] theorem State.tickFresh_crwWaiting (s : State) : (s.tickFresh).crwWaiting = s.crwWaiting := rfl
@[simp] theorem State.tickFresh_loading (s : State) : (s.tickFresh).loading = s.loading := rfl
@[simp] theorem State.tickFresh_arrivals (s : State) : (s.tickFresh).arrivals = s.arrivals := rfl
@[simp] theorem State.tickFresh_portUp (s : State) : (s.tickFresh).portUp = s.portUp := rfl
@[simp] theorem State.tickFresh_feTurn (s : State) : (s.tickFresh).feTurn = s.feTurn := rfl
@[simp] theorem State.tickFresh_partTurn (s : State) : (s.tickFresh).partTurn = s.partTurn := rfl
@[simp] theorem State.tickFresh_nwrite (s : State) : (s.tickFresh).nwrite = s.nwrite := rfl
@[simp] theorem State.tickFresh_pageWanted (s : State) : (s.tickFresh).pageWanted = s.pageWanted := rfl
@[simp] theorem State.tickFresh_irqs (s : State) : (s.tickFresh).irqs = s.irqs := rfl
@[simp] theorem State.tickFresh_msix (s : State) : (s.tickFresh).msix = s.msix := rfl
@[simp] theorem State.tickFresh_msixPending (s : State) : (s.tickFresh).msixPending = s.msixPending := rfl
@[simp] theorem State.tickFresh_hdmSize (s : State) : (s.tickFresh).hdmSize = s.hdmSize := rfl
@[simp] theorem State.tickFresh_evGap (s : State) : (s.tickFresh).evGap = s.evGap := rfl
@[simp] theorem State.tickFresh_spdm (s : State) : (s.tickFresh).spdm = s.spdm := rfl
@[simp] theorem State.tickFresh_fuseSeed (s : State) : (s.tickFresh).fuseSeed = s.fuseSeed := rfl
@[simp] theorem State.tickFresh_identity (s : State) : (s.tickFresh).identity = s.identity := rfl
@[simp] theorem State.tickFresh_certs (s : State) : (s.tickFresh).certs = s.certs := rfl
@[simp] theorem State.tickFresh_corrected (s : State) : (s.tickFresh).corrected = s.corrected := rfl
@[simp] theorem State.tickFresh_banks (s : State) : (s.tickFresh).banks = s.banks := rfl
@[simp] theorem State.tickFresh_activeBank (s : State) : (s.tickFresh).activeBank = s.activeBank := rfl
@[simp] theorem State.tickFresh_fwuNew (s : State) : (s.tickFresh).fwuNew = s.fwuNew := rfl
@[simp] theorem State.tickFresh_svnMin (s : State) : (s.tickFresh).svnMin = s.svnMin := rfl
@[simp] theorem State.tickFresh_fuses (s : State) : (s.tickFresh).fuses = s.fuses := rfl
@[simp] theorem State.tickFresh_arithClk (s : State) : (s.tickFresh).arithClk = s.arithClk := rfl
@[simp] theorem State.tickFresh_wdogs (s : State) : (s.tickFresh).wdogs = s.wdogs := rfl
@[simp] theorem State.tickFresh_errors (s : State) : (s.tickFresh).errors = s.errors := rfl

end Sys2Proof.Machine
end

