-- ==== Sys2Proof/Laws/Tables.lean ====
section
/-!
SUPPORT. Reading after writing: the sparse tables, sealed memory with its canonical form, and the registers of a context.
-/

namespace Sys2Proof

variable {α : Type}

@[simp] theorem Tbl.find?_nil (i : Nat) : Tbl.find? ([] : Tbl α) i = none := rfl

/-- A table read at the key just written. -/
@[simp] theorem Tbl.find?_set_same (t : Tbl α) (i : Nat) (v : α) : Tbl.find? (Tbl.set t i v) i = some v := by
  induction t with
  | nil => simp [Tbl.set, Tbl.find?]
  | cons p r ih =>
    obtain ⟨k, w⟩ := p
    simp only [Tbl.set]
    split
    · simp [Tbl.find?]
    · split
      · simp [Tbl.find?]
      · rename_i h _
        have : k ≠ i := fun e => h e.symm
        simp [Tbl.find?, this, ih]

/-- A table read at any other key. -/
theorem Tbl.find?_set_ne (t : Tbl α) {i j : Nat} (v : α) (h : j ≠ i) : Tbl.find? (Tbl.set t i v) j = Tbl.find? t j := by
  have h' : i ≠ j := fun e => h e.symm
  induction t with
  | nil => simp [Tbl.set, Tbl.find?, h']
  | cons p r ih =>
    obtain ⟨k, w⟩ := p
    simp only [Tbl.set]
    split
    · rename_i e; subst e; simp [Tbl.find?, h']
    · split
      · simp [Tbl.find?, h']
      · simp only [Tbl.find?, ih]

theorem Tbl.find?_set (t : Tbl α) (i j : Nat) (v : α) : Tbl.find? (Tbl.set t i v) j = if j = i then some v else Tbl.find? t j := by
  split
  · rename_i h; subst h; simp
  · rename_i h; exact Tbl.find?_set_ne t v h

@[simp] theorem Tbl.get_set_same (t : Tbl α) (d : α) (i : Nat) (v : α) : Tbl.get (Tbl.set t i v) d i = v := by simp [Tbl.get]
theorem Tbl.get_set_ne (t : Tbl α) (d : α) {i j : Nat} (v : α) (h : j ≠ i) : Tbl.get (Tbl.set t i v) d j = Tbl.get t d j := by
  simp [Tbl.get, Tbl.find?_set_ne t v h]
theorem Tbl.get_set (t : Tbl α) (d : α) (i j : Nat) (v : α) : Tbl.get (Tbl.set t i v) d j = if j = i then v else Tbl.get t d j := by
  simp only [Tbl.get, Tbl.find?_set]; split <;> rfl

/-- A second write to a key replaces the first. -/
@[simp] theorem Tbl.set_set (t : Tbl α) (i : Nat) (v w : α) : Tbl.set (Tbl.set t i v) i w = Tbl.set t i w := by
  induction t with
  | nil => simp [Tbl.set]
  | cons p r ih =>
    obtain ⟨k, x⟩ := p
    simp only [Tbl.set]
    split
    · simp [Tbl.set]
    · split
      · simp [Tbl.set]
      · rename_i h1 h2; simp [Tbl.set, h1, h2, ih]

/-- A deleted key is not listed. -/
theorem Tbl.find?_del (t : Tbl α) (i j : Nat) : Tbl.find? (Tbl.del t i) j = if j = i then none else Tbl.find? t j := by
  induction t with
  | nil => simp [Tbl.del, Tbl.find?]
  | cons p r ih =>
    obtain ⟨k, w⟩ := p
    have e : Tbl.del ((k, w) :: r) i = if k = i then Tbl.del r i else (k, w) :: Tbl.del r i := by
      by_cases h : k = i <;> simp [Tbl.del, h]
    rw [e]
    by_cases hk : k = i
    · subst hk
      by_cases hj : j = k
      · subst hj; simpa using ih
      · have hj' : ¬ k = j := fun e => hj e.symm
        simpa [Tbl.find?, hj, hj'] using ih
    · by_cases hj : j = i
      · subst hj
        simpa [Tbl.find?, hk] using ih
      · simp only [hk, if_false, Tbl.find?, ih, hj]

end Sys2Proof

namespace Sys2Proof.Machine

/-! ## Sealed memory -/

/-- A byte read where one was written, and anywhere else. -/
theorem memFind_memSet (l : List Host.Cell) (a b : Nat) (v : Byte) (h : memWf l = true) :
    memFind (memSet l a v) b = if b = a then v else memFind l b := by
  induction l with
  | nil =>
    simp only [memSet]
    split
    · rename_i hv; subst hv; simp [memFind]
    · by_cases hb : b = a
      · subst hb; simp [memFind]
      · have : ¬ a = b := fun e => hb e.symm
        simp [memFind, hb, this]
  | cons p r ih =>
    obtain ⟨k, w⟩ := p
    have hr : memWf r = true := by
      cases r with
      | nil => rfl
      | cons q r => obtain ⟨_, _⟩ := q; simp only [memWf, Bool.and_eq_true] at h; exact h.2
    have below : ∀ c, c ≤ k → memFind r c = 0 := by
      clear ih hr
      induction r generalizing k w with
      | nil => intros; rfl
      | cons q r ih =>
        obtain ⟨k2, w2⟩ := q
        intro c hc
        simp only [memWf, Bool.and_eq_true, decide_eq_true_eq] at h
        have hne : ¬ k2 = c := by omega
        simp only [memFind, hne, if_false]
        exact ih k2 w2 h.2 c (by omega)
    simp only [memSet]
    split
    · rename_i e; subst e
      split
      · rename_i hv; subst hv
        by_cases hb : b = a
        · subst hb; simp [below b (Nat.le_refl _)]
        · have : ¬ a = b := fun e => hb e.symm
          simp [memFind, hb, this]
      · by_cases hb : b = a
        · subst hb; simp [memFind]
        · have : ¬ a = b := fun e => hb e.symm
          simp [memFind, hb, this]
    · rename_i hne
      split
      · rename_i hlt
        split
        · rename_i hv; subst hv
          by_cases hb : b = a
          · subst hb
            have : ¬ k = b := by omega
            simp [memFind, this, below b (by omega)]
          · simp [hb]
        · by_cases hb : b = a
          · subst hb; simp [memFind]
          · have : ¬ a = b := fun e => hb e.symm
            simp [memFind, hb, this]
      · simp only [memFind, ih hr]
        by_cases hk : k = b
        · subst hk
          have : ¬ k = a := fun e => hne e.symm
          simp [this]
        · simp [hk]

/-- A list whose addresses all lie above one. -/
def above (a : Nat) (l : List Host.Cell) : Prop := ∀ p ∈ l, a < p.1

theorem memWf_cons (p : Host.Cell) (r : List Host.Cell) : memWf (p :: r) = true ↔ p.2 ≠ 0 ∧ above p.1 r ∧ memWf r = true := by
  induction r generalizing p with
  | nil => obtain ⟨a, v⟩ := p; simp [memWf, above]
  | cons q r ih =>
    obtain ⟨a, v⟩ := p
    obtain ⟨b, w⟩ := q
    simp only [memWf, Bool.and_eq_true, decide_eq_true_eq]
    constructor
    · rintro ⟨⟨hv, hab⟩, hr⟩
      refine ⟨hv, ?_, hr⟩
      intro x hx
      rcases List.mem_cons.mp hx with rfl | hx
      · exact hab
      · exact Nat.lt_trans hab (((ih (b, w)).mp hr).2.1 x hx)
    · rintro ⟨hv, ha, hr⟩
      exact ⟨⟨hv, ha (b, w) (List.mem_cons_self ..)⟩, hr⟩

theorem above_memSet {a k : Nat} {l : List Host.Cell} {v : Byte} (h : above k l) (hk : k < a) : above k (memSet l a v) := by
  induction l with
  | nil => simp only [memSet]; split <;> simp [above, hk]
  | cons p r ih =>
    obtain ⟨x, w⟩ := p
    have hx : k < x := h (x, w) (List.mem_cons_self ..)
    have hr : above k r := fun q hq => h q (List.mem_cons_of_mem _ hq)
    simp only [memSet]
    split
    · split
      · exact hr
      · intro q hq; rcases List.mem_cons.mp hq with rfl | hq; exacts [hk, hr q hq]
    · split
      · split
        · exact h
        · intro q hq; rcases List.mem_cons.mp hq with rfl | hq; exacts [hk, h q hq]
      · intro q hq; rcases List.mem_cons.mp hq with rfl | hq; exacts [hx, ih hr q hq]

/-- A write keeps the canonical form. -/
theorem memWf_memSet (l : List Host.Cell) (a : Nat) (v : Byte) (h : memWf l = true) : memWf (memSet l a v) = true := by
  induction l with
  | nil => simp only [memSet]; split <;> simp_all [memWf]
  | cons p r ih =>
    obtain ⟨k, w⟩ := p
    have hc := (memWf_cons (k, w) r).mp h
    simp only [memSet]
    split
    · rename_i e; subst e
      split
      · exact hc.2.2
      · rename_i hv; exact (memWf_cons _ _).mpr ⟨hv, hc.2.1, hc.2.2⟩
    · split
      · rename_i hlt
        split
        · exact h
        · rename_i hv
          refine (memWf_cons _ _).mpr ⟨hv, ?_, h⟩
          intro q hq
          rcases List.mem_cons.mp hq with rfl | hq
          · exact hlt
          · exact Nat.lt_trans hlt (hc.2.1 q hq)
      · rename_i h1 h2
        exact (memWf_cons _ _).mpr ⟨hc.1, above_memSet hc.2.1 (by simp only [Host.Cell] at *; omega), ih hc.2.2⟩

/-- A filter keeps the canonical form. -/
theorem memWf_filter (l : List Host.Cell) (f : Host.Cell → Bool) (h : memWf l = true) : memWf (l.filter f) = true := by
  induction l with
  | nil => rfl
  | cons p r ih =>
    have hc := (memWf_cons p r).mp h
    simp only [List.filter]
    split
    · exact (memWf_cons _ _).mpr ⟨hc.1, fun q hq => hc.2.1 q (List.mem_filter.mp hq).1, ih hc.2.2⟩
    · exact ih hc.2.2

/-- Dropping a range keeps the canonical form. -/
theorem memWf_memDrop (l : List Host.Cell) (lo hi : Nat) (h : memWf l = true) : memWf (memDrop l lo hi) = true := memWf_filter l _ h

/-- Any number of writes keeps the canonical form. -/
theorem memWf_foldl {β : Type} (xs : List β) (f : β → Nat) (g : β → Byte) (l : List Host.Cell) (h : memWf l = true) :
    memWf (xs.foldl (fun m x => memSet m (f x) (g x)) l) = true := by
  induction xs generalizing l with
  | nil => exact h
  | cons x xs ih => exact ih _ (memWf_memSet l _ _ h)

/-- Sealed memory right after reset is in its canonical form. -/
theorem memWf_reset : memWf State.reset.mem = true := rfl

/-! ## Contexts and registers -/

@[simp] theorem State.ctxOf_setCtx_same (s : State) (core ctx : Nat) (c : Ctx) : (s.setCtx core ctx c).ctxOf core ctx = c := by
  simp [State.ctxOf, State.setCtx]
theorem State.ctxOf_setCtx_ne (s : State) {core ctx core' ctx' : Nat} (c : Ctx) (h : core' * 8 + ctx' ≠ core * 8 + ctx) :
    (s.setCtx core ctx c).ctxOf core' ctx' = s.ctxOf core' ctx' := by
  simp [State.ctxOf, State.setCtx, Tbl.get_set_ne _ _ _ h]
@[simp] theorem State.cx_setCx (s : State) (c : Ctx) : (s.setCx c).cx = c := by
  show ((s.setCtx s.core s.ctx c).ctxOf s.core s.ctx) = c
  simp
@[simp] theorem State.setCx_setCx (s : State) (c d : Ctx) : (s.setCx c).setCx d = s.setCx d := by
  simp [State.setCx, State.setCtx]
@[simp] theorem State.setCtx_setCtx (s : State) (a b : Nat) (c d : Ctx) : (s.setCtx a b c).setCtx a b d = s.setCtx a b d := by
  simp [State.setCtx]

/-- A register read where one was written, s0 taking nothing (R157). -/
theorem Ctx.sreg_setS (c : Ctx) (r q : Nat) (v : Word) : (c.setS r v).sreg q = if q = r ∧ r ≠ 0 then v else c.sreg q := by
  unfold Ctx.setS Ctx.sreg
  by_cases hr : r = 0
  · simp [hr]
  · by_cases hq : q = 0
    · subst hq
      have : ¬ (0 = r) := fun e => hr e.symm
      simp [this]
    · by_cases h : q = r
      · subst h; simp [hq]
      · simp [hr, hq, h, Tbl.get_set_ne _ _ _ h]
theorem Ctx.breg_setB (c : Ctx) (r q : Nat) (v : Word) : (c.setB r v).breg q = if q = r then v else c.breg q := by
  simp [Ctx.setB, Ctx.breg, Tbl.get_set]
theorem Ctx.flag_setF (c : Ctx) (r q : Nat) (v : Bool) : (c.setF r v).flag q = if q = r then v else c.flag q := by
  simp [Ctx.setF, Ctx.flag, Tbl.get_set]

end Sys2Proof.Machine
end

