-- ==== Sys2Proof/Laws/Areas.lean ====
section
/-!
SUPPORT. What a write of bytes can do to a machine, and what the writes to a context area leave of memory.
-/

namespace Sys2Proof.Machine

/-- A write changes the far cache's bytes, reservations, watches and the agenda, and nothing else. -/
def State.WroteBytes (σ τ : State) : Prop :=
  ∃ f e w g, τ = { σ with fcache := f, episodes := e, watches := w, agenda := g }

theorem State.WroteBytes.refl (σ : State) : σ.WroteBytes σ := ⟨σ.fcache, σ.episodes, σ.watches, σ.agenda, rfl⟩

theorem State.poke_fold_shape (l : List (Nat × Byte)) (σ : State) :
    l.foldl (fun σ p => σ.pokeByte p.1 p.2) σ = { σ with fcache := l.foldl (fun t p => Tbl.set t p.1 p.2) σ.fcache } := by
  induction l generalizing σ with
  | nil => rfl
  | cons p l ih => rw [List.foldl_cons, ih]; rfl

theorem State.writeList_shape (σ : State) (l : List (Nat × Byte)) : σ.WroteBytes (σ.writeList l) := by
  unfold State.writeList State.writeQuiet State.retest
  rw [State.poke_fold_shape]
  exact ⟨_, _, _, _, rfl⟩

theorem State.areaPut_shape (σ : State) (l : List (Nat × Byte)) : σ.WroteBytes (σ.areaPut l) := σ.writeList_shape _

theorem State.writeArea_shape (σ : State) (t : Nat) : σ.WroteBytes (σ.writeArea t) := by
  unfold State.writeArea
  split
  · exact σ.areaPut_shape _
  · exact .refl σ

theorem State.writeFault_shape (σ : State) (core slot : Nat) (r : FaultRec) (pc : Bool) : σ.WroteBytes (σ.writeFault core slot r pc) := by
  unfold State.writeFault
  split
  · exact σ.areaPut_shape _
  · exact .refl σ

/-! ## Bytes -/

theorem State.writeList_fcache (σ : State) (l : List (Nat × Byte)) :
    (σ.writeList l).fcache = l.foldl (fun t p => Tbl.set t p.1 p.2) σ.fcache := by
  unfold State.writeList State.writeQuiet State.retest
  rw [State.poke_fold_shape]
  rfl

theorem State.writeList_mem' (σ : State) (l : List (Nat × Byte)) : (σ.writeList l).mem = σ.mem := by
  obtain ⟨f, e, w, g, h⟩ := σ.writeList_shape l
  rw [h]

theorem State.writeList_tile (σ : State) (l : List (Nat × Byte)) (n : Nat) : (σ.writeList l).tile n = σ.tile n := by
  obtain ⟨f, e, w, g, h⟩ := σ.writeList_shape l
  rw [h]
  rfl

theorem Tbl.find?_setAll_ne (l : List (Nat × Byte)) (t : Tbl Byte) (a : Nat) (h : ∀ p ∈ l, p.1 ≠ a) :
    Tbl.find? (l.foldl (fun t p => Tbl.set t p.1 p.2) t) a = Tbl.find? t a := by
  induction l generalizing t with
  | nil => rfl
  | cons p l ih =>
    rw [List.foldl_cons, ih _ fun q hq => h q (.tail _ hq), Tbl.find?_set_ne]
    exact fun e => h p (.head _) e.symm

theorem Tbl.find?_setAll (l : List (Nat × Byte)) (t : Tbl Byte) (a : Nat) (v : Byte) (h : (a, v) ∈ l) (hn : (l.map (·.1)).Nodup) :
    Tbl.find? (l.foldl (fun t p => Tbl.set t p.1 p.2) t) a = some v := by
  induction l generalizing t with
  | nil => cases h
  | cons p l ih =>
    rw [List.map_cons, List.nodup_cons] at hn
    rw [List.foldl_cons]
    rcases List.mem_cons.mp h with rfl | h
    · rw [Tbl.find?_setAll_ne, Tbl.find?_set_same]
      exact fun q hq e => hn.1 (List.mem_map.mpr ⟨q, hq, e⟩)
    · exact ih _ h hn.2

/-- A byte that a write does not name reads as before. -/
theorem State.writeList_memByte_ne (σ : State) (l : List (Nat × Byte)) (a : Nat) (h : ∀ p ∈ l, p.1 ≠ a) :
    (σ.writeList l).memByte a = σ.memByte a := by
  unfold State.memByte
  rw [State.writeList_fcache, State.writeList_mem', State.writeList_tile, Tbl.find?_setAll_ne l _ a h]

/-- A byte that a write names reads as written. -/
theorem State.writeList_memByte (σ : State) (l : List (Nat × Byte)) (a : Nat) (v : Byte) (h : (a, v) ∈ l) (hn : (l.map (·.1)).Nodup) :
    (σ.writeList l).memByte a = v := by
  unfold State.memByte
  rw [State.writeList_fcache, Tbl.find?_setAll l _ a v h hn]

theorem State.areaPut_memByte_ne (σ : State) (l : List (Nat × Byte)) (a : Nat) (h : ∀ p ∈ l, p.1 ≠ a) :
    (σ.areaPut l).memByte a = σ.memByte a :=
  σ.writeList_memByte_ne _ a fun p hp => h p (List.mem_filter.mp hp).1

/-- A byte of an area that firmware writes reads as written, below the top of memory. -/
theorem State.areaPut_memByte (σ : State) (l : List (Nat × Byte)) (a : Nat) (v : Byte) (h : (a, v) ∈ l) (hn : (l.map (·.1)).Nodup)
    (ha : a < physLimit) : (σ.areaPut l).memByte a = v := by
  unfold State.areaPut
  by_cases he : σ.memByte a = v
  · rw [State.writeList_memByte_ne, he]
    intro p hp e
    have hp := List.mem_filter.mp hp
    have := List.inj_on_of_nodup_map hn hp.1 h e
    simp_all
  · refine σ.writeList_memByte _ a v (List.mem_filter.mpr ⟨h, by simp [ha, he]⟩) ?_
    exact (hn.sublist ((List.filter_sublist).map _))

end Sys2Proof.Machine
end

