-- ==== Sys2Proof/Laws/Frame.lean ====
section
/-!
SUPPORT. Which shared operations leave sealed memory as it is: one lemma for each operation that answers a state.
-/

set_option linter.all false

namespace Sys2Proof.Machine

/-- A fold of updates that leave sealed memory as it is leaves it as it is. -/
@[simp] theorem foldl_mem {β : Type} (f : State → β → State) (h : ∀ σ b, (f σ b).mem = σ.mem) (l : List β) (σ : State) :
    (l.foldl f σ).mem = σ.mem := by
  induction l generalizing σ with
  | nil => rfl
  | cons b l ih => exact (ih _).trans (h σ b)

@[simp] theorem State.pushAll_mem (σ : State) (l : List Due) : (State.pushAll σ l).mem = σ.mem := by
  unfold State.pushAll
  simp
@[simp] theorem State.setTile_mem (σ : State) (t : Nat) (v : Tile) : (State.setTile σ t v).mem = σ.mem := by
  unfold State.setTile
  simp
@[simp] theorem State.fill_mem (σ : State) (pa : Nat) : (State.fill σ pa).mem = σ.mem := by
  unfold State.fill
  (repeat' split) <;> simp
@[simp] theorem State.setMeta_mem (σ : State) (t w : Nat) : (State.setMeta σ t w).mem = σ.mem := by
  first
  | (unfold State.setMeta; simp; done)
  | rfl
  | (unfold State.setMeta; (repeat' split) <;> simp <;> done)
  | (unfold State.setMeta; dsimp only; (repeat' split) <;> (try simp) <;> (repeat' split) <;> simp <;> done)
  | (unfold State.setMeta; dsimp only; (repeat' split) <;> first | (simp; done) | (rw [foldl_mem] <;> (try intro σ b) <;> (repeat' split) <;> simp <;> done))
  | (unfold State.setMeta; dsimp only; (repeat' split) <;> (try simp) <;> (try (rw [foldl_mem] <;> (try intro σ b))) <;> (repeat' split) <;> (try simp) <;> done)
@[simp] theorem State.metaWrite_mem (σ : State) (pa n v : Nat) : (State.metaWrite σ pa n v).mem = σ.mem := by
  first
  | (unfold State.metaWrite; simp; done)
  | rfl
  | (unfold State.metaWrite; (repeat' split) <;> simp <;> done)
  | (unfold State.metaWrite; dsimp only; (repeat' split) <;> (try simp) <;> (repeat' split) <;> simp <;> done)
  | (unfold State.metaWrite; dsimp only; (repeat' split) <;> first | (simp; done) | (rw [foldl_mem] <;> (try intro σ b) <;> (repeat' split) <;> simp <;> done))
  | (unfold State.metaWrite; dsimp only; (repeat' split) <;> (try simp) <;> (try (rw [foldl_mem] <;> (try intro σ b))) <;> (repeat' split) <;> (try simp) <;> done)
@[simp] theorem State.retest_mem (σ : State) (addrs : List Nat) : (State.retest σ addrs).mem = σ.mem := by
  unfold State.retest
  simp
@[simp] theorem State.markDirty_mem (σ : State) (f : Nat) : (State.markDirty σ f).mem = σ.mem := by
  unfold State.markDirty
  (repeat' split) <;> simp
@[simp] theorem State.writeQuiet_mem (σ : State) (l : List (Nat × Byte)) : (State.writeQuiet σ l).mem = σ.mem := by
  unfold State.writeQuiet
  dsimp only
  (repeat' split) <;> (try simp) <;> (try (rw [foldl_mem] <;> (try intro σ b))) <;> (repeat' split) <;> (try simp)
@[simp] theorem State.writeList_mem (σ : State) (l : List (Nat × Byte)) : (State.writeList σ l).mem = σ.mem := by
  unfold State.writeList
  simp
@[simp] theorem State.writeNat_mem (σ : State) (pa n v : Nat) : (State.writeNat σ pa n v).mem = σ.mem := by
  unfold State.writeNat
  simp
@[simp] theorem State.orderBytes_mem (σ : State) (core slot : Nat) (ls : List (Tbl Nat)) : (State.orderBytes σ core slot ls).mem = σ.mem := by
  first
  | (unfold State.orderBytes; simp; done)
  | rfl
  | (unfold State.orderBytes; (repeat' split) <;> simp <;> done)
  | (unfold State.orderBytes; dsimp only; (repeat' split) <;> (try simp) <;> (repeat' split) <;> simp <;> done)
  | (unfold State.orderBytes; dsimp only; (repeat' split) <;> first | (simp; done) | (rw [foldl_mem] <;> (try intro σ b) <;> (repeat' split) <;> simp <;> done))
  | (unfold State.orderBytes; dsimp only; (repeat' split) <;> (try simp) <;> (try (rw [foldl_mem] <;> (try intro σ b))) <;> (repeat' split) <;> (try simp) <;> done)
@[simp] theorem State.swapViews_mem (σ : State) (core slot : Nat) : (State.swapViews σ core slot).mem = σ.mem := by
  first
  | (unfold State.swapViews; simp; done)
  | rfl
  | (unfold State.swapViews; (repeat' split) <;> simp <;> done)
  | (unfold State.swapViews; dsimp only; (repeat' split) <;> (try simp) <;> (repeat' split) <;> simp <;> done)
  | (unfold State.swapViews; dsimp only; (repeat' split) <;> first | (simp; done) | (rw [foldl_mem] <;> (try intro σ b) <;> (repeat' split) <;> simp <;> done))
  | (unfold State.swapViews; dsimp only; (repeat' split) <;> (try simp) <;> (try (rw [foldl_mem] <;> (try intro σ b))) <;> (repeat' split) <;> (try simp) <;> done)
@[simp] theorem State.newPhase_mem (σ : State) (core slot : Nat) : (State.newPhase σ core slot).mem = σ.mem := by
  first
  | (unfold State.newPhase; simp; done)
  | rfl
  | (unfold State.newPhase; (repeat' split) <;> simp <;> done)
  | (unfold State.newPhase; dsimp only; (repeat' split) <;> (try simp) <;> (repeat' split) <;> simp <;> done)
  | (unfold State.newPhase; dsimp only; (repeat' split) <;> first | (simp; done) | (rw [foldl_mem] <;> (try intro σ b) <;> (repeat' split) <;> simp <;> done))
  | (unfold State.newPhase; dsimp only; (repeat' split) <;> (try simp) <;> (try (rw [foldl_mem] <;> (try intro σ b))) <;> (repeat' split) <;> (try simp) <;> done)
@[simp] theorem State.aWrite_mem (σ : State) (core slot off : Nat) (bs : List Byte) : (State.aWrite σ core slot off bs).mem = σ.mem := by
  unfold State.aWrite
  simp
@[simp] theorem State.wWrite_mem (σ : State) (core slot row col : Nat) (v : Word) : (State.wWrite σ core slot row col v).mem = σ.mem := by
  unfold State.wWrite
  simp
@[simp] theorem State.cWrite_mem (σ : State) (core off : Nat) (v : BitVec 32) : (State.cWrite σ core off v).mem = σ.mem := by
  unfold State.cWrite
  simp
@[simp] theorem State.zeroSlab_mem (σ : State) (core slab : Nat) : (State.zeroSlab σ core slab).mem = σ.mem := by
  unfold State.zeroSlab
  simp
@[simp] theorem State.orderRing_mem (σ : State) (core slot c n : Nat) : (State.orderRing σ core slot c n).mem = σ.mem := by
  first
  | (unfold State.orderRing; simp; done)
  | rfl
  | (unfold State.orderRing; (repeat' split) <;> simp <;> done)
  | (unfold State.orderRing; dsimp only; (repeat' split) <;> (try simp) <;> (repeat' split) <;> simp <;> done)
  | (unfold State.orderRing; dsimp only; (repeat' split) <;> first | (simp; done) | (rw [foldl_mem] <;> (try intro σ b) <;> (repeat' split) <;> simp <;> done))
  | (unfold State.orderRing; dsimp only; (repeat' split) <;> (try simp) <;> (try (rw [foldl_mem] <;> (try intro σ b))) <;> (repeat' split) <;> (try simp) <;> done)
@[simp] theorem State.raiseIrq_mem (σ : State) (vf v : Nat) : (State.raiseIrq σ vf v).mem = σ.mem := by
  first
  | (unfold State.raiseIrq; simp; done)
  | rfl
  | (unfold State.raiseIrq; (repeat' split) <;> simp <;> done)
  | (unfold State.raiseIrq; dsimp only; (repeat' split) <;> (try simp) <;> (repeat' split) <;> simp <;> done)
  | (unfold State.raiseIrq; dsimp only; (repeat' split) <;> first | (simp; done) | (rw [foldl_mem] <;> (try intro σ b) <;> (repeat' split) <;> simp <;> done))
  | (unfold State.raiseIrq; dsimp only; (repeat' split) <;> (try simp) <;> (try (rw [foldl_mem] <;> (try intro σ b))) <;> (repeat' split) <;> (try simp) <;> done)
@[simp] theorem State.ringPost_mem (σ : State) (b base rk : Nat) (place : Word → Chk Nat) (entry : Nat) (vf : Nat) : (State.ringPost σ b base rk place entry vf).mem = σ.mem := by
  unfold State.ringPost
  dsimp only
  (repeat' split) <;> (try simp) <;> (repeat' split) <;> simp
@[simp] theorem State.hyperNotice_mem (σ : State) (code vf detail : Nat) : (State.hyperNotice σ code vf detail).mem = σ.mem := by
  unfold State.hyperNotice
  simp
@[simp] theorem State.vfNotice_mem (σ : State) (vf code queue node detail : Nat) : (State.vfNotice σ vf code queue node detail).mem = σ.mem := by
  unfold State.vfNotice
  (repeat' split) <;> simp
@[simp] theorem State.sealNotice_mem (σ : State) (pa : Nat) : (State.sealNotice σ pa).mem = σ.mem := by
  unfold State.sealNotice
  simp
@[simp] theorem State.sealNotices_mem (σ : State) (pas : List Nat) : (State.sealNotices σ pas).mem = σ.mem := by
  unfold State.sealNotices
  simp
@[simp] theorem State.sealNoticeAt_mem (σ : State) (core ctx : Nat) (va : Word) : (State.sealNoticeAt σ core ctx va).mem = σ.mem := by
  unfold State.sealNoticeAt
  simp
@[simp] theorem State.feSealNotice_mem (σ : State) (vf : Nat) (va : Word) : (State.feSealNotice σ vf va).mem = σ.mem := by
  unfold State.feSealNotice
  simp
@[simp] theorem State.notice_mem (σ : State) (vf code queue node detail : Nat) : (State.notice σ vf code queue node detail).mem = σ.mem := by
  unfold State.notice
  dsimp only
  (repeat' split) <;> (try simp) <;> (repeat' split) <;> simp
@[simp] theorem State.pageWant_mem (σ : State) (vf kind : Nat) (va : Word) (cow : Bool) : (State.pageWant σ vf kind va cow).mem = σ.mem := by
  unfold State.pageWant
  dsimp only
  (repeat' split) <;> (try simp) <;> (repeat' split) <;> simp
@[simp] theorem State.areaPut_mem (σ : State) (l : List (Nat × Byte)) : (State.areaPut σ l).mem = σ.mem := by
  first
  | (unfold State.areaPut; simp; done)
  | rfl
  | (unfold State.areaPut; (repeat' split) <;> simp <;> done)
  | (unfold State.areaPut; dsimp only; (repeat' split) <;> (try simp) <;> (repeat' split) <;> simp <;> done)
  | (unfold State.areaPut; dsimp only; (repeat' split) <;> first | (simp; done) | (rw [foldl_mem] <;> (try intro σ b) <;> (repeat' split) <;> simp <;> done))
  | (unfold State.areaPut; dsimp only; (repeat' split) <;> (try simp) <;> (try (rw [foldl_mem] <;> (try intro σ b))) <;> (repeat' split) <;> (try simp) <;> done)
@[simp] theorem State.writeArea_mem (σ : State) (t : Nat) : (State.writeArea σ t).mem = σ.mem := by
  first
  | (unfold State.writeArea; simp; done)
  | rfl
  | (unfold State.writeArea; (repeat' split) <;> simp <;> done)
  | (unfold State.writeArea; dsimp only; (repeat' split) <;> (try simp) <;> (repeat' split) <;> simp <;> done)
  | (unfold State.writeArea; dsimp only; (repeat' split) <;> first | (simp; done) | (rw [foldl_mem] <;> (try intro σ b) <;> (repeat' split) <;> simp <;> done))
  | (unfold State.writeArea; dsimp only; (repeat' split) <;> (try simp) <;> (try (rw [foldl_mem] <;> (try intro σ b))) <;> (repeat' split) <;> (try simp) <;> done)
@[simp] theorem State.putTags_mem (σ : State) (core slot : Nat) (c : Ctx) : (State.putTags σ core slot c).mem = σ.mem := by
  first
  | (unfold State.putTags; simp; done)
  | rfl
  | (unfold State.putTags; (repeat' split) <;> simp <;> done)
  | (unfold State.putTags; dsimp only; (repeat' split) <;> (try simp) <;> (repeat' split) <;> simp <;> done)
  | (unfold State.putTags; dsimp only; (repeat' split) <;> first | (simp; done) | (rw [foldl_mem] <;> (try intro σ b) <;> (repeat' split) <;> simp <;> done))
  | (unfold State.putTags; dsimp only; (repeat' split) <;> (try simp) <;> (try (rw [foldl_mem] <;> (try intro σ b))) <;> (repeat' split) <;> (try simp) <;> done)
@[simp] theorem State.writeFault_mem (σ : State) (core slot : Nat) (r : FaultRec) (withPc : Bool) : (State.writeFault σ core slot r withPc).mem = σ.mem := by
  first
  | (unfold State.writeFault; simp; done)
  | rfl
  | (unfold State.writeFault; (repeat' split) <;> simp <;> done)
  | (unfold State.writeFault; dsimp only; (repeat' split) <;> (try simp) <;> (repeat' split) <;> simp <;> done)
  | (unfold State.writeFault; dsimp only; (repeat' split) <;> first | (simp; done) | (rw [foldl_mem] <;> (try intro σ b) <;> (repeat' split) <;> simp <;> done))
  | (unfold State.writeFault; dsimp only; (repeat' split) <;> (try simp) <;> (try (rw [foldl_mem] <;> (try intro σ b))) <;> (repeat' split) <;> (try simp) <;> done)
@[simp] theorem State.spillTo_mem (σ : State) (t slab : Nat) (l : List (BitVec 32)) : (State.spillTo σ t slab l).mem = σ.mem := by
  first
  | (unfold State.spillTo; simp; done)
  | rfl
  | (unfold State.spillTo; (repeat' split) <;> simp <;> done)
  | (unfold State.spillTo; dsimp only; (repeat' split) <;> (try simp) <;> (repeat' split) <;> simp <;> done)
  | (unfold State.spillTo; dsimp only; (repeat' split) <;> first | (simp; done) | (rw [foldl_mem] <;> (try intro σ b) <;> (repeat' split) <;> simp <;> done))
  | (unfold State.spillTo; dsimp only; (repeat' split) <;> (try simp) <;> (try (rw [foldl_mem] <;> (try intro σ b))) <;> (repeat' split) <;> (try simp) <;> done)
@[simp] theorem State.unspill_mem (σ : State) (t slab : Nat) : (State.unspill σ t slab).mem = σ.mem := by
  first
  | (unfold State.unspill; simp; done)
  | rfl
  | (unfold State.unspill; (repeat' split) <;> simp <;> done)
  | (unfold State.unspill; dsimp only; (repeat' split) <;> (try simp) <;> (repeat' split) <;> simp <;> done)
  | (unfold State.unspill; dsimp only; (repeat' split) <;> first | (simp; done) | (rw [foldl_mem] <;> (try intro σ b) <;> (repeat' split) <;> simp <;> done))
  | (unfold State.unspill; dsimp only; (repeat' split) <;> (try simp) <;> (try (rw [foldl_mem] <;> (try intro σ b))) <;> (repeat' split) <;> (try simp) <;> done)
@[simp] theorem State.clearWindows_mem (σ : State) (core slot : Nat) : (State.clearWindows σ core slot).mem = σ.mem := by
  unfold State.clearWindows
  simp
@[simp] theorem State.restoreWindows_mem (σ : State) (core slot : Nat) (as : Tbl Byte) (ws : Tbl Nat) : (State.restoreWindows σ core slot as ws).mem = σ.mem := by
  unfold State.restoreWindows
  simp
@[simp] theorem State.applyComb_mem (σ : State) (req : Nat) (pa : Nat) (k : Comb) : (State.applyComb σ req pa k).mem = σ.mem := by
  unfold State.applyComb
  (repeat' split) <;> simp
@[simp] theorem State.addPosted_mem (σ : State) (core slot : Nat) (r : FaultRec) : (State.addPosted σ core slot r).mem = σ.mem := by
  first
  | (unfold State.addPosted; simp; done)
  | rfl
  | (unfold State.addPosted; (repeat' split) <;> simp <;> done)
  | (unfold State.addPosted; dsimp only; (repeat' split) <;> (try simp) <;> (repeat' split) <;> simp <;> done)
  | (unfold State.addPosted; dsimp only; (repeat' split) <;> first | (simp; done) | (rw [foldl_mem] <;> (try intro σ b) <;> (repeat' split) <;> simp <;> done))
  | (unfold State.addPosted; dsimp only; (repeat' split) <;> (try simp) <;> (try (rw [foldl_mem] <;> (try intro σ b))) <;> (repeat' split) <;> (try simp) <;> done)
@[simp] theorem State.commit_mem (σ : State) (core ctx : Nat) : (State.commit σ core ctx).mem = σ.mem := by
  unfold State.commit
  dsimp only
  (repeat' split) <;> (try simp) <;> (repeat' split) <;> simp
@[simp] theorem State.takeSnapshot_mem (σ : State) (core slot : Nat) : (State.takeSnapshot σ core slot).mem = σ.mem := by
  first
  | (unfold State.takeSnapshot; simp; done)
  | rfl
  | (unfold State.takeSnapshot; (repeat' split) <;> simp <;> done)
  | (unfold State.takeSnapshot; dsimp only; (repeat' split) <;> (try simp) <;> (repeat' split) <;> simp <;> done)
  | (unfold State.takeSnapshot; dsimp only; (repeat' split) <;> first | (simp; done) | (rw [foldl_mem] <;> (try intro σ b) <;> (repeat' split) <;> simp <;> done))
  | (unfold State.takeSnapshot; dsimp only; (repeat' split) <;> (try simp) <;> (try (rw [foldl_mem] <;> (try intro σ b))) <;> (repeat' split) <;> (try simp) <;> done)
@[simp] theorem State.writeCheck_mem (σ : State) (core slot : Nat) : (State.writeCheck σ core slot).mem = σ.mem := by
  first
  | (unfold State.writeCheck; simp; done)
  | rfl
  | (unfold State.writeCheck; (repeat' split) <;> simp <;> done)
  | (unfold State.writeCheck; dsimp only; (repeat' split) <;> (try simp) <;> (repeat' split) <;> simp <;> done)
  | (unfold State.writeCheck; dsimp only; (repeat' split) <;> first | (simp; done) | (rw [foldl_mem] <;> (try intro σ b) <;> (repeat' split) <;> simp <;> done))
  | (unfold State.writeCheck; dsimp only; (repeat' split) <;> (try simp) <;> (try (rw [foldl_mem] <;> (try intro σ b))) <;> (repeat' split) <;> (try simp) <;> done)
@[simp] theorem State.startLot_mem (σ : State) (core slot t n : Nat) : (State.startLot σ core slot t n).mem = σ.mem := by
  unfold State.startLot
  simp
@[simp] theorem State.checkpoint_mem (σ : State) (core slot : Nat) (mask : Word) (kind : Nat) : (State.checkpoint σ core slot mask kind).mem = σ.mem := by
  unfold State.checkpoint
  simp
@[simp] theorem State.emptyLink_mem (σ : State) (core l : Nat) : (State.emptyLink σ core l).mem = σ.mem := by
  unfold State.emptyLink
  simp
@[simp] theorem State.loseLink_mem (σ : State) (core k : Nat) : (State.loseLink σ core k).mem = σ.mem := by
  unfold State.loseLink
  dsimp only
  (repeat' split) <;> (try simp) <;> (repeat' split) <;> simp
@[simp] theorem State.keepLinks_mem (σ : State) (core k : Nat) : (State.keepLinks σ core k).mem = σ.mem := by
  first
  | (unfold State.keepLinks; simp; done)
  | rfl
  | (unfold State.keepLinks; (repeat' split) <;> simp <;> done)
  | (unfold State.keepLinks; dsimp only; (repeat' split) <;> (try simp) <;> (repeat' split) <;> simp <;> done)
  | (unfold State.keepLinks; dsimp only; (repeat' split) <;> first | (simp; done) | (rw [foldl_mem] <;> (try intro σ b) <;> (repeat' split) <;> simp <;> done))
  | (unfold State.keepLinks; dsimp only; (repeat' split) <;> (try simp) <;> (try (rw [foldl_mem] <;> (try intro σ b))) <;> (repeat' split) <;> (try simp) <;> done)
@[simp] theorem State.fragFree_mem (σ : State) (core k : Nat) (dropLinks : Bool) : (State.fragFree σ core k dropLinks).mem = σ.mem := by
  unfold State.fragFree
  (repeat' split) <;> simp
@[simp] theorem State.returnFrag_mem (σ : State) (core k : Nat) : (State.returnFrag σ core k).mem = σ.mem := by
  unfold State.returnFrag
  dsimp only
  (repeat' split) <;> (try simp) <;> (repeat' split) <;> simp
@[simp] theorem State.copyFree_mem (σ : State) (core n : Nat) : (State.copyFree σ core n).mem = σ.mem := by
  first
  | (unfold State.copyFree; simp; done)
  | rfl
  | (unfold State.copyFree; (repeat' split) <;> simp <;> done)
  | (unfold State.copyFree; dsimp only; (repeat' split) <;> (try simp) <;> (repeat' split) <;> simp <;> done)
  | (unfold State.copyFree; dsimp only; (repeat' split) <;> first | (simp; done) | (rw [foldl_mem] <;> (try intro σ b) <;> (repeat' split) <;> simp <;> done))
  | (unfold State.copyFree; dsimp only; (repeat' split) <;> (try simp) <;> (try (rw [foldl_mem] <;> (try intro σ b))) <;> (repeat' split) <;> (try simp) <;> done)
@[simp] theorem State.returnCopy_mem (σ : State) (core n : Nat) : (State.returnCopy σ core n).mem = σ.mem := by
  unfold State.returnCopy
  dsimp only
  (repeat' split) <;> (try simp) <;> (repeat' split) <;> simp
@[simp] theorem State.drainCopy_mem (σ : State) (core n : Nat) : (State.drainCopy σ core n).mem = σ.mem := by
  first
  | (unfold State.drainCopy; simp; done)
  | rfl
  | (unfold State.drainCopy; (repeat' split) <;> simp <;> done)
  | (unfold State.drainCopy; dsimp only; (repeat' split) <;> (try simp) <;> (repeat' split) <;> simp <;> done)
  | (unfold State.drainCopy; dsimp only; (repeat' split) <;> first | (simp; done) | (rw [foldl_mem] <;> (try intro σ b) <;> (repeat' split) <;> simp <;> done))
  | (unfold State.drainCopy; dsimp only; (repeat' split) <;> (try simp) <;> (try (rw [foldl_mem] <;> (try intro σ b))) <;> (repeat' split) <;> (try simp) <;> done)
@[simp] theorem State.detach_mem (σ : State) (core slot : Nat) : (State.detach σ core slot).mem = σ.mem := by
  unfold State.detach; dsimp only
  rw [foldl_mem, foldl_mem]
  · intro σ b; (repeat' split) <;> simp
  · intro σ b; (repeat' split) <;> simp
@[simp] theorem State.returnLeases_mem (σ : State) (core slot : Nat) : (State.returnLeases σ core slot).mem = σ.mem := by
  unfold State.returnLeases
  simp
@[simp] theorem State.returnHeld_mem (σ : State) (t : Nat) : (State.returnHeld σ t).mem = σ.mem := by
  unfold State.returnHeld; dsimp only
  rw [foldl_mem, foldl_mem]
  · intro σ b; (repeat' split) <;> simp
  · intro σ b; (repeat' split) <;> simp
@[simp] theorem State.withdrawLeases_mem (σ : State) (t : Nat) : (State.withdrawLeases σ t).mem = σ.mem := by
  first
  | (unfold State.withdrawLeases; simp; done)
  | rfl
  | (unfold State.withdrawLeases; (repeat' split) <;> simp <;> done)
  | (unfold State.withdrawLeases; dsimp only; (repeat' split) <;> (try simp) <;> (repeat' split) <;> simp <;> done)
  | (unfold State.withdrawLeases; dsimp only; (repeat' split) <;> first | (simp; done) | (rw [foldl_mem] <;> (try intro σ b) <;> (repeat' split) <;> simp <;> done))
  | (unfold State.withdrawLeases; dsimp only; (repeat' split) <;> (try simp) <;> (try (rw [foldl_mem] <;> (try intro σ b))) <;> (repeat' split) <;> (try simp) <;> done)
@[simp] theorem State.recode_mem (σ : State) (core slot code : Nat) (holder : Option Nat) : (State.recode σ core slot code holder).mem = σ.mem := by
  unfold State.recode
  (repeat' split) <;> simp
@[simp] theorem State.freeHeld_mem (σ : State) (t : Nat) : (State.freeHeld σ t).mem = σ.mem := by
  unfold State.freeHeld
  dsimp only
  (repeat' split) <;> first | (simp) | (rw [foldl_mem] <;> (try intro σ b) <;> (repeat' split) <;> simp)
@[simp] theorem State.haltEngine_mem (σ : State) (core e : Nat) : (State.haltEngine σ core e).mem = σ.mem := by
  unfold State.haltEngine
  (repeat' split) <;> simp
@[simp] theorem State.haltEngines_mem (σ : State) (core slot : Nat) : (State.haltEngines σ core slot).mem = σ.mem := by
  unfold State.haltEngines
  simp
@[simp] theorem State.freeSlot_mem (σ : State) (core slot : Nat) : (State.freeSlot σ core slot).mem = σ.mem := by
  unfold State.freeSlot
  simp
@[simp] theorem State.takeArea_mem (σ : State) (vf i : Nat) : (State.takeArea σ vf i).mem = σ.mem := by
  unfold State.takeArea
  simp
@[simp] theorem State.dropArea_mem (σ : State) (vf i : Nat) : (State.dropArea σ vf i).mem = σ.mem := by
  unfold State.dropArea
  simp
@[simp] theorem State.releaseArea_mem (σ : State) (t : Nat) : (State.releaseArea σ t).mem = σ.mem := by
  unfold State.releaseArea
  dsimp only
  (repeat' split) <;> (try simp) <;> (repeat' split) <;> simp
@[simp] theorem State.poolAdd_mem (σ : State) (t : Nat) : (State.poolAdd σ t).mem = σ.mem := by
  unfold State.poolAdd
  simp
@[simp] theorem State.poolDel_mem (σ : State) (t : Nat) : (State.poolDel σ t).mem = σ.mem := by
  unfold State.poolDel
  simp
@[simp] theorem State.repool_mem (σ : State) (t : Nat) : (State.repool σ t).mem = σ.mem := by
  unfold State.repool
  dsimp only
  (repeat' split) <;> (try simp) <;> (repeat' split) <;> simp
@[simp] theorem State.dropLot_mem (σ : State) (core slot : Nat) : (State.dropLot σ core slot).mem = σ.mem := by
  unfold State.dropLot
  simp
@[simp] theorem State.discardLot_mem (σ : State) (core slot : Nat) (st : TaskState) : (State.discardLot σ core slot st).mem = σ.mem := by
  unfold State.discardLot
  (repeat' split) <;> simp
@[simp] theorem Node.qnotice_mem (nd : Node) (σ : State) (code detail : Nat) : (Node.qnotice nd σ code detail).mem = σ.mem := by
  unfold Node.qnotice
  simp
@[simp] theorem State.stopGraph_mem (σ : State) (g : Nat) : (State.stopGraph σ g).mem = σ.mem := by
  unfold State.stopGraph
  simp
@[simp] theorem State.killNode_mem (σ : State) (n cause : Nat) : (State.killNode σ n cause).mem = σ.mem := by
  unfold State.killNode
  dsimp only
  (repeat' split) <;> (try simp) <;> (repeat' split) <;> simp
@[simp] theorem State.killLot_mem (σ : State) (core slot cause : Nat) : (State.killLot σ core slot cause).mem = σ.mem := by
  unfold State.killLot
  (repeat' split) <;> simp
@[simp] theorem State.abortLot_mem (σ : State) (core slot : Nat) (page : Option (Word × Bool)) : (State.abortLot σ core slot page).mem = σ.mem := by
  unfold State.abortLot
  dsimp only
  (repeat' split) <;> (try simp) <;> (repeat' split) <;> simp
@[simp] theorem State.abortSaved_mem (σ : State) (t : Nat) (page : Option (Word × Bool)) : (State.abortSaved σ t page).mem = σ.mem := by
  unfold State.abortSaved
  simp
@[simp] theorem State.saveLot_mem (σ : State) (core slot : Nat) (heldFault : Bool) : (State.saveLot σ core slot heldFault).mem = σ.mem := by
  unfold State.saveLot
  dsimp only
  (repeat' split) <;> (try simp) <;> (repeat' split) <;> simp
@[simp] theorem State.saveHeld_mem (σ : State) (core slot : Nat) : (State.saveHeld σ core slot).mem = σ.mem := by
  first
  | (unfold State.saveHeld; simp; done)
  | rfl
  | (unfold State.saveHeld; (repeat' split) <;> simp <;> done)
  | (unfold State.saveHeld; dsimp only; (repeat' split) <;> (try simp) <;> (repeat' split) <;> simp <;> done)
  | (unfold State.saveHeld; dsimp only; (repeat' split) <;> first | (simp; done) | (rw [foldl_mem] <;> (try intro σ b) <;> (repeat' split) <;> simp <;> done))
  | (unfold State.saveHeld; dsimp only; (repeat' split) <;> (try simp) <;> (try (rw [foldl_mem] <;> (try intro σ b))) <;> (repeat' split) <;> (try simp) <;> done)
@[simp] theorem State.enqueueCont_mem (σ : State) (t : Nat) : (State.enqueueCont σ t).mem = σ.mem := by
  unfold State.enqueueCont
  dsimp only
  (repeat' split) <;> (try simp) <;> (repeat' split) <;> simp
@[simp] theorem State.endTask_mem (σ : State) (t : Nat) (st : TaskState) : (State.endTask σ t st).mem = σ.mem := by
  unfold State.endTask
  simp
@[simp] theorem State.setGate_mem (σ : State) (g : Nat) (v : Gate) : (State.setGate σ g v).mem = σ.mem := by
  unfold State.setGate
  simp
@[simp] theorem State.setEp_mem (σ : State) (vf ep : Nat) (v : Episode) : (State.setEp σ vf ep v).mem = σ.mem := by
  unfold State.setEp
  simp
@[simp] theorem State.setRink_mem (σ : State) (n : Nat) (v : Rink) : (State.setRink σ n v).mem = σ.mem := by
  unfold State.setRink
  simp
@[simp] theorem State.deliverMsg_mem (σ : State) (g t : Nat) (desc : Word) (m : Msg) : (State.deliverMsg σ g t desc m).mem = σ.mem := by
  unfold State.deliverMsg
  simp
@[simp] theorem State.serveGate_mem (σ : State) (g : Nat) : (State.serveGate σ g).mem = σ.mem := by
  unfold State.serveGate
  dsimp only
  (repeat' split) <;> (try simp) <;> (try (rw [foldl_mem] <;> (try intro σ b))) <;> (repeat' split) <;> (try simp)
@[simp] theorem State.descWrite_mem (σ : State) (vf ep word : Nat) (v : Nat) (n : Nat) : (State.descWrite σ vf ep word v n).mem = σ.mem := by
  unfold State.descWrite
  dsimp only
  (repeat' split) <;> (try simp) <;> (repeat' split) <;> simp
@[simp] theorem State.descRetry_mem (σ : State) (vf ep : Nat) : (State.descRetry σ vf ep).mem = σ.mem := by
  first
  | (unfold State.descRetry; simp; done)
  | rfl
  | (unfold State.descRetry; (repeat' split) <;> simp <;> done)
  | (unfold State.descRetry; dsimp only; (repeat' split) <;> (try simp) <;> (repeat' split) <;> simp <;> done)
  | (unfold State.descRetry; dsimp only; (repeat' split) <;> first | (simp; done) | (rw [foldl_mem] <;> (try intro σ b) <;> (repeat' split) <;> simp <;> done))
  | (unfold State.descRetry; dsimp only; (repeat' split) <;> (try simp) <;> (try (rw [foldl_mem] <;> (try intro σ b))) <;> (repeat' split) <;> (try simp) <;> done)
@[simp] theorem State.rinkPerform_mem (σ : State) (vf : Nat) (ws : List (Nat × Byte)) : (State.rinkPerform σ vf ws).mem = σ.mem := by
  first
  | (unfold State.rinkPerform; simp; done)
  | rfl
  | (unfold State.rinkPerform; (repeat' split) <;> simp <;> done)
  | (unfold State.rinkPerform; dsimp only; (repeat' split) <;> (try simp) <;> (repeat' split) <;> simp <;> done)
  | (unfold State.rinkPerform; dsimp only; (repeat' split) <;> first | (simp; done) | (rw [foldl_mem] <;> (try intro σ b) <;> (repeat' split) <;> simp <;> done))
  | (unfold State.rinkPerform; dsimp only; (repeat' split) <;> (try simp) <;> (try (rw [foldl_mem] <;> (try intro σ b))) <;> (repeat' split) <;> (try simp) <;> done)
@[simp] theorem State.rinkFlush_mem (σ : State) (n id : Nat) (keep : Bool) : (State.rinkFlush σ n id keep).mem = σ.mem := by
  first
  | (unfold State.rinkFlush; simp; done)
  | rfl
  | (unfold State.rinkFlush; (repeat' split) <;> simp <;> done)
  | (unfold State.rinkFlush; dsimp only; (repeat' split) <;> (try simp) <;> (repeat' split) <;> simp <;> done)
  | (unfold State.rinkFlush; dsimp only; (repeat' split) <;> first | (simp; done) | (rw [foldl_mem] <;> (try intro σ b) <;> (repeat' split) <;> simp <;> done))
  | (unfold State.rinkFlush; dsimp only; (repeat' split) <;> (try simp) <;> (try (rw [foldl_mem] <;> (try intro σ b))) <;> (repeat' split) <;> (try simp) <;> done)
@[simp] theorem State.rinkRoom_mem (σ : State) (n : Nat) : (State.rinkRoom σ n).mem = σ.mem := by
  first
  | (unfold State.rinkRoom; simp; done)
  | rfl
  | (unfold State.rinkRoom; (repeat' split) <;> simp <;> done)
  | (unfold State.rinkRoom; dsimp only; (repeat' split) <;> (try simp) <;> (repeat' split) <;> simp <;> done)
  | (unfold State.rinkRoom; dsimp only; (repeat' split) <;> first | (simp; done) | (rw [foldl_mem] <;> (try intro σ b) <;> (repeat' split) <;> simp <;> done))
  | (unfold State.rinkRoom; dsimp only; (repeat' split) <;> (try simp) <;> (try (rw [foldl_mem] <;> (try intro σ b))) <;> (repeat' split) <;> (try simp) <;> done)
@[simp] theorem State.rinkFill_mem (σ : State) (n id pa : Nat) : (State.rinkFill σ n id pa).mem = σ.mem := by
  first
  | (unfold State.rinkFill; simp; done)
  | rfl
  | (unfold State.rinkFill; (repeat' split) <;> simp <;> done)
  | (unfold State.rinkFill; dsimp only; (repeat' split) <;> (try simp) <;> (repeat' split) <;> simp <;> done)
  | (unfold State.rinkFill; dsimp only; (repeat' split) <;> first | (simp; done) | (rw [foldl_mem] <;> (try intro σ b) <;> (repeat' split) <;> simp <;> done))
  | (unfold State.rinkFill; dsimp only; (repeat' split) <;> (try simp) <;> (try (rw [foldl_mem] <;> (try intro σ b))) <;> (repeat' split) <;> (try simp) <;> done)
@[simp] theorem State.rinkStore_mem (σ : State) (n id : Nat) (ws : List (Nat × Byte)) : (State.rinkStore σ n id ws).mem = σ.mem := by
  first
  | (unfold State.rinkStore; simp; done)
  | rfl
  | (unfold State.rinkStore; (repeat' split) <;> simp <;> done)
  | (unfold State.rinkStore; dsimp only; (repeat' split) <;> (try simp) <;> (repeat' split) <;> simp <;> done)
  | (unfold State.rinkStore; dsimp only; (repeat' split) <;> first | (simp; done) | (rw [foldl_mem] <;> (try intro σ b) <;> (repeat' split) <;> simp <;> done))
  | (unfold State.rinkStore; dsimp only; (repeat' split) <;> (try simp) <;> (try (rw [foldl_mem] <;> (try intro σ b))) <;> (repeat' split) <;> (try simp) <;> done)
@[simp] theorem State.rinkDrain_mem (σ : State) (f : Nat) : (State.rinkDrain σ f).mem = σ.mem := by
  first
  | (unfold State.rinkDrain; simp; done)
  | rfl
  | (unfold State.rinkDrain; (repeat' split) <;> simp <;> done)
  | (unfold State.rinkDrain; dsimp only; (repeat' split) <;> (try simp) <;> (repeat' split) <;> simp <;> done)
  | (unfold State.rinkDrain; dsimp only; (repeat' split) <;> first | (simp; done) | (rw [foldl_mem] <;> (try intro σ b) <;> (repeat' split) <;> simp <;> done))
  | (unfold State.rinkDrain; dsimp only; (repeat' split) <;> (try simp) <;> (try (rw [foldl_mem] <;> (try intro σ b))) <;> (repeat' split) <;> (try simp) <;> done)
@[simp] theorem State.endEpisode_mem (σ : State) (vf ep reason value : Nat) : (State.endEpisode σ vf ep reason value).mem = σ.mem := by
  unfold State.endEpisode
  dsimp only
  (repeat' split) <;> (try simp) <;> (repeat' split) <;> simp
@[simp] theorem State.bumpPolgen_mem (σ : State) (vf : Nat) : (State.bumpPolgen σ vf).mem = σ.mem := by
  unfold State.bumpPolgen
  simp
@[simp] theorem State.unstop_mem (σ : State) (core : Nat) : (State.unstop σ core).mem = σ.mem := by
  first
  | (unfold State.unstop; simp; done)
  | rfl
  | (unfold State.unstop; (repeat' split) <;> simp <;> done)
  | (unfold State.unstop; dsimp only; (repeat' split) <;> (try simp) <;> (repeat' split) <;> simp <;> done)
  | (unfold State.unstop; dsimp only; (repeat' split) <;> first | (simp; done) | (rw [foldl_mem] <;> (try intro σ b) <;> (repeat' split) <;> simp <;> done))
  | (unfold State.unstop; dsimp only; (repeat' split) <;> (try simp) <;> (try (rw [foldl_mem] <;> (try intro σ b))) <;> (repeat' split) <;> (try simp) <;> done)
@[simp] theorem State.haltFirmware_mem (σ : State) (core : Nat) : (State.haltFirmware σ core).mem = σ.mem := by
  unfold State.haltFirmware
  simp
@[simp] theorem State.faultService_mem (σ : State) (core slot cause : Nat) : (State.faultService σ core slot cause).mem = σ.mem := by
  unfold State.faultService
  dsimp only
  (repeat' split) <;> (try simp) <;> (repeat' split) <;> simp
@[simp] theorem State.trapService_mem (σ : State) (core slot tcode : Nat) : (State.trapService σ core slot tcode).mem = σ.mem := by
  first
  | (unfold State.trapService; simp; done)
  | rfl
  | (unfold State.trapService; (repeat' split) <;> simp <;> done)
  | (unfold State.trapService; dsimp only; (repeat' split) <;> (try simp) <;> (repeat' split) <;> simp <;> done)
  | (unfold State.trapService; dsimp only; (repeat' split) <;> first | (simp; done) | (rw [foldl_mem] <;> (try intro σ b) <;> (repeat' split) <;> simp <;> done))
  | (unfold State.trapService; dsimp only; (repeat' split) <;> (try simp) <;> (try (rw [foldl_mem] <;> (try intro σ b))) <;> (repeat' split) <;> (try simp) <;> done)
@[simp] theorem State.trapCall_mem (σ : State) (core slot tcode : Nat) : (State.trapCall σ core slot tcode).mem = σ.mem := by
  unfold State.trapCall
  (repeat' split) <;> simp
@[simp] theorem State.raiseEvent_mem (σ : State) (core src cause : Nat) : (State.raiseEvent σ core src cause).mem = σ.mem := by
  unfold State.raiseEvent
  dsimp only
  (repeat' split) <;> (try simp) <;> (repeat' split) <;> simp
@[simp] theorem State.wantSlab_mem (σ : State) (core slot slab : Nat) : (State.wantSlab σ core slot slab).mem = σ.mem := by
  first
  | (unfold State.wantSlab; simp; done)
  | rfl
  | (unfold State.wantSlab; (repeat' split) <;> simp <;> done)
  | (unfold State.wantSlab; dsimp only; (repeat' split) <;> (try simp) <;> (repeat' split) <;> simp <;> done)
  | (unfold State.wantSlab; dsimp only; (repeat' split) <;> first | (simp; done) | (rw [foldl_mem] <;> (try intro σ b) <;> (repeat' split) <;> simp <;> done))
  | (unfold State.wantSlab; dsimp only; (repeat' split) <;> (try simp) <;> (try (rw [foldl_mem] <;> (try intro σ b))) <;> (repeat' split) <;> (try simp) <;> done)
@[simp] theorem State.noteFault_mem (σ : State) (core ctx : Nat) (r : FaultRec) : (State.noteFault σ core ctx r).mem = σ.mem := by
  first
  | (unfold State.noteFault; simp; done)
  | rfl
  | (unfold State.noteFault; (repeat' split) <;> simp <;> done)
  | (unfold State.noteFault; dsimp only; (repeat' split) <;> (try simp) <;> (repeat' split) <;> simp <;> done)
  | (unfold State.noteFault; dsimp only; (repeat' split) <;> first | (simp; done) | (rw [foldl_mem] <;> (try intro σ b) <;> (repeat' split) <;> simp <;> done))
  | (unfold State.noteFault; dsimp only; (repeat' split) <;> (try simp) <;> (try (rw [foldl_mem] <;> (try intro σ b))) <;> (repeat' split) <;> (try simp) <;> done)
@[simp] theorem State.enterFault_mem (σ : State) (core ctx : Nat) (r : FaultRec) : (State.enterFault σ core ctx r).mem = σ.mem := by
  unfold State.enterFault; dsimp only
  generalize hτ : State.raiseEvent _ _ _ _ = τ
  have h : τ.mem = σ.mem := by rw [← hτ]; simp
  (repeat' split) <;> simp [h]
@[simp] theorem State.takeTrap_mem (σ : State) (core ctx : Nat) (tr : Tr) : (State.takeTrap σ core ctx tr).mem = σ.mem := by
  unfold State.takeTrap
  (repeat' split) <;> simp
@[simp] theorem State.returnTrap_mem (σ : State) (core slot action : Nat) : (State.returnTrap σ core slot action).mem = σ.mem := by
  unfold State.returnTrap
  (repeat' split) <;> simp
@[simp] theorem State.postFault_mem (σ : State) (core slot src cause upc fcause : Nat) (detail : Word) : (State.postFault σ core slot src cause upc fcause detail).mem = σ.mem := by
  unfold State.postFault
  simp
@[simp] theorem State.remoteRead_mem (σ : State) (core ctx key n : Nat) : (State.remoteRead σ core ctx key n).2.mem = σ.mem := by
  first
  | (unfold State.remoteRead; simp; done)
  | rfl
  | (unfold State.remoteRead; (repeat' split) <;> simp <;> done)
  | (unfold State.remoteRead; dsimp only; (repeat' split) <;> (try simp) <;> (repeat' split) <;> simp <;> done)
  | (unfold State.remoteRead; dsimp only; (repeat' split) <;> first | (simp; done) | (rw [foldl_mem] <;> (try intro σ b) <;> (repeat' split) <;> simp <;> done))
  | (unfold State.remoteRead; dsimp only; (repeat' split) <;> (try simp) <;> (try (rw [foldl_mem] <;> (try intro σ b))) <;> (repeat' split) <;> (try simp) <;> done)
@[simp] theorem State.commitHere_mem (σ : State) : (State.commitHere σ).mem = σ.mem := by
  unfold State.commitHere
  (repeat' split) <;> simp
@[simp] theorem State.place_mem (σ : State) (core slot e : Nat) (held : Bool) (k : CmdKind) : (State.place σ core slot e held k).mem = σ.mem := by
  unfold State.place
  simp
@[simp] theorem State.releaseHeld_mem (σ : State) (core slot : Nat) : (State.releaseHeld σ core slot).mem = σ.mem := by
  unfold State.releaseHeld
  dsimp only
  (repeat' split) <;> first | (simp) | (rw [foldl_mem] <;> (try intro σ b) <;> (repeat' split) <;> simp)
@[simp] theorem State.suspend_mem (σ : State) (mask : Word) (t : Nat) : (State.suspend σ mask t).mem = σ.mem := by
  unfold State.suspend; simp only [State.freeSlot_mem, State.setTask_mem]; split <;> simp
@[simp] theorem State.seedLinks_mem (σ : State) (core slot mask : Nat) : (State.seedLinks σ core slot mask).mem = σ.mem := by
  unfold State.seedLinks
  dsimp only
  (repeat' split) <;> (try simp) <;> (try (rw [foldl_mem] <;> (try intro σ b))) <;> (repeat' split) <;> (try simp)
@[simp] theorem State.bindFrag_mem (σ : State) (core slot t : Nat) (a : Area) (k : Nat) : (State.bindFrag σ core slot t a k).mem = σ.mem := by
  unfold State.bindFrag
  dsimp only
  (repeat' split) <;> (try simp) <;> (try (rw [foldl_mem] <;> (try intro σ b))) <;> (repeat' split) <;> (try simp)
@[simp] theorem State.bindCopy_mem (σ : State) (core slot t : Nat) (a : Area) (n : Nat) : (State.bindCopy σ core slot t a n).mem = σ.mem := by
  unfold State.bindCopy
  dsimp only
  (repeat' split) <;> (try simp) <;> (repeat' split) <;> simp
@[simp] theorem State.bindUnits_mem (σ : State) (core slot t : Nat) (a : Area) : (State.bindUnits σ core slot t a).mem = σ.mem := by
  unfold State.bindUnits
  simp
@[simp] theorem State.reLease_mem (σ : State) (core t : Nat) : (State.reLease σ core t).mem = σ.mem := by
  unfold State.reLease
  simp
@[simp] theorem State.reSave_mem (σ : State) (core t : Nat) : (State.reSave σ core t).mem = σ.mem := by
  unfold State.reSave
  (repeat' split) <;> simp
@[simp] theorem State.reclaim_mem (σ : State) (core slot t : Nat) : (State.reclaim σ core slot t).mem = σ.mem := by
  unfold State.reclaim; exact foldl_mem _ (by intro σ b; (try dsimp only); (repeat' split) <;> simp) _ _
@[simp] theorem State.holdSpilled_mem (σ : State) (core t : Nat) : (State.holdSpilled σ core t).mem = σ.mem := by
  unfold State.holdSpilled
  dsimp only
  (repeat' split) <;> (try simp) <;> (try (rw [foldl_mem] <;> (try intro σ b))) <;> (repeat' split) <;> (try simp)
@[simp] theorem State.loadArea_mem (σ : State) (core slot t abase wbase : Nat) (a : Area) : (State.loadArea σ core slot t abase wbase a).mem = σ.mem := by
  unfold State.loadArea
  simp
@[simp] theorem State.moveWaits_mem (σ : State) (core slot old : Nat) (a : Area) : (State.moveWaits σ core slot old a).mem = σ.mem := by
  first
  | (unfold State.moveWaits; simp; done)
  | rfl
  | (unfold State.moveWaits; (repeat' split) <;> simp <;> done)
  | (unfold State.moveWaits; dsimp only; (repeat' split) <;> (try simp) <;> (repeat' split) <;> simp <;> done)
  | (unfold State.moveWaits; dsimp only; (repeat' split) <;> first | (simp; done) | (rw [foldl_mem] <;> (try intro σ b) <;> (repeat' split) <;> simp <;> done))
  | (unfold State.moveWaits; dsimp only; (repeat' split) <;> (try simp) <;> (try (rw [foldl_mem] <;> (try intro σ b))) <;> (repeat' split) <;> (try simp) <;> done)
@[simp] theorem State.reloadFails_mem (σ : State) (t : Nat) : (State.reloadFails σ t).mem = σ.mem := by
  first
  | (unfold State.reloadFails; simp; done)
  | rfl
  | (unfold State.reloadFails; (repeat' split) <;> simp <;> done)
  | (unfold State.reloadFails; dsimp only; (repeat' split) <;> (try simp) <;> (repeat' split) <;> simp <;> done)
  | (unfold State.reloadFails; dsimp only; (repeat' split) <;> first | (simp; done) | (rw [foldl_mem] <;> (try intro σ b) <;> (repeat' split) <;> simp <;> done))
  | (unfold State.reloadFails; dsimp only; (repeat' split) <;> (try simp) <;> (try (rw [foldl_mem] <;> (try intro σ b))) <;> (repeat' split) <;> (try simp) <;> done)
@[simp] theorem State.resume_mem (σ : State) (core slot t abase wbase : Nat) : (State.resume σ core slot t abase wbase).mem = σ.mem := by
  unfold State.resume; dsimp only
  rw [State.setTask_mem]; split <;> simp
@[simp] theorem State.popEvent_mem (σ : State) (core : Nat) : (State.popEvent σ core).2.mem = σ.mem := by
  unfold State.popEvent
  dsimp only
  (repeat' split) <;> (try simp) <;> (repeat' split) <;> simp
@[simp] theorem State.grantFrags_mem (σ : State) (core slot : Nat) (task : Option Nat) (r : LeaseReq) (ss : List Nat) : (State.grantFrags σ core slot task r ss).2.mem = σ.mem := by
  unfold State.grantFrags
  dsimp only
  (repeat' split) <;> (try simp) <;> (try (rw [foldl_mem] <;> (try intro σ b))) <;> (repeat' split) <;> (try simp)
@[simp] theorem State.grantCopies_mem (σ : State) (core slot : Nat) (task : Option Nat) (r : LeaseReq) (ns : List Nat) : (State.grantCopies σ core slot task r ns).2.mem = σ.mem := by
  unfold State.grantCopies
  dsimp only
  (repeat' split) <;> (try simp) <;> (try (rw [foldl_mem] <;> (try intro σ b))) <;> (repeat' split) <;> (try simp)
@[simp] theorem State.dropReq_mem (σ : State) (core : Nat) (r : LeaseReq) : (State.dropReq σ core r).mem = σ.mem := by
  unfold State.dropReq
  simp
@[simp] theorem State.granted_mem (σ : State) (core : Nat) (r : LeaseReq) (handle : Nat) : (State.granted σ core r handle).mem = σ.mem := by
  unfold State.granted
  dsimp only
  (repeat' split) <;> (try simp) <;> (repeat' split) <;> simp
@[simp] theorem State.fragDecide_mem (core : Nat) (l : List LeaseReq) (σ : State) : (σ.fragDecide core l).mem = σ.mem := by
  induction l with
  | nil => rfl
  | cons r l ih => unfold State.fragDecide; (repeat' split) <;> simp [ih]
@[simp] theorem State.copyDecide_mem (core : Nat) (l : List LeaseReq) (σ : State) : (σ.copyDecide core l).mem = σ.mem := by
  induction l with
  | nil => rfl
  | cons r l ih => unfold State.copyDecide; (repeat' split) <;> simp [ih]
@[simp] theorem State.allocate_mem (σ : State) (core : Nat) : (State.allocate σ core).mem = σ.mem := by
  unfold State.allocate; dsimp only
  split <;> split <;> simp
@[simp] theorem State.planChange_mem (σ : State) (core : Nat) : (State.planChange σ core).mem = σ.mem := by
  unfold State.planChange
  dsimp only
  (repeat' split) <;> (try simp) <;> (repeat' split) <;> simp
@[simp] theorem State.orderTags_mem (σ : State) (core slot : Nat) (ts : List Nat) : (State.orderTags σ core slot ts).mem = σ.mem := by
  first
  | (unfold State.orderTags; simp; done)
  | rfl
  | (unfold State.orderTags; (repeat' split) <;> simp <;> done)
  | (unfold State.orderTags; dsimp only; (repeat' split) <;> (try simp) <;> (repeat' split) <;> simp <;> done)
  | (unfold State.orderTags; dsimp only; (repeat' split) <;> first | (simp; done) | (rw [foldl_mem] <;> (try intro σ b) <;> (repeat' split) <;> simp <;> done))
  | (unfold State.orderTags; dsimp only; (repeat' split) <;> (try simp) <;> (try (rw [foldl_mem] <;> (try intro σ b))) <;> (repeat' split) <;> (try simp) <;> done)
@[simp] theorem State.orderCopies_mem (σ : State) (core slot : Nat) : (State.orderCopies σ core slot).mem = σ.mem := by
  first
  | (unfold State.orderCopies; simp; done)
  | rfl
  | (unfold State.orderCopies; (repeat' split) <;> simp <;> done)
  | (unfold State.orderCopies; dsimp only; (repeat' split) <;> (try simp) <;> (repeat' split) <;> simp <;> done)
  | (unfold State.orderCopies; dsimp only; (repeat' split) <;> first | (simp; done) | (rw [foldl_mem] <;> (try intro σ b) <;> (repeat' split) <;> simp <;> done))
  | (unfold State.orderCopies; dsimp only; (repeat' split) <;> (try simp) <;> (try (rw [foldl_mem] <;> (try intro σ b))) <;> (repeat' split) <;> (try simp) <;> done)
@[simp] theorem State.dropAfter_mem (σ : State) (core slot e : Nat) (m : BitVec 16) : (State.dropAfter σ core slot e m).mem = σ.mem := by
  unfold State.dropAfter
  dsimp only
  (repeat' split) <;> (try simp) <;> (repeat' split) <;> simp
@[simp] theorem State.cancelEngine_mem (σ : State) (core slot n : Nat) (mask : Word) : (State.cancelEngine σ core slot n mask).mem = σ.mem := by
  unfold State.cancelEngine
  simp
@[simp] theorem State.releaseFence_mem (σ : State) (core slot id : Nat) : (State.releaseFence σ core slot id).mem = σ.mem := by
  first
  | (unfold State.releaseFence; simp; done)
  | rfl
  | (unfold State.releaseFence; (repeat' split) <;> simp <;> done)
  | (unfold State.releaseFence; dsimp only; (repeat' split) <;> (try simp) <;> (repeat' split) <;> simp <;> done)
  | (unfold State.releaseFence; dsimp only; (repeat' split) <;> first | (simp; done) | (rw [foldl_mem] <;> (try intro σ b) <;> (repeat' split) <;> simp <;> done))
  | (unfold State.releaseFence; dsimp only; (repeat' split) <;> (try simp) <;> (try (rw [foldl_mem] <;> (try intro σ b))) <;> (repeat' split) <;> (try simp) <;> done)
@[simp] theorem State.releaseFences_mem (σ : State) (core slot : Nat) : (State.releaseFences σ core slot).mem = σ.mem := by
  first
  | (unfold State.releaseFences; simp; done)
  | rfl
  | (unfold State.releaseFences; (repeat' split) <;> simp <;> done)
  | (unfold State.releaseFences; dsimp only; (repeat' split) <;> (try simp) <;> (repeat' split) <;> simp <;> done)
  | (unfold State.releaseFences; dsimp only; (repeat' split) <;> first | (simp; done) | (rw [foldl_mem] <;> (try intro σ b) <;> (repeat' split) <;> simp <;> done))
  | (unfold State.releaseFences; dsimp only; (repeat' split) <;> (try simp) <;> (try (rw [foldl_mem] <;> (try intro σ b))) <;> (repeat' split) <;> (try simp) <;> done)
@[simp] theorem State.pruneFences_mem (σ : State) (core slot : Nat) : (State.pruneFences σ core slot).mem = σ.mem := by
  unfold State.pruneFences
  simp
@[simp] theorem State.fenceGrant_mem (σ : State) (core slot e : Nat) : (State.fenceGrant σ core slot e).mem = σ.mem := by
  first
  | (unfold State.fenceGrant; simp; done)
  | rfl
  | (unfold State.fenceGrant; (repeat' split) <;> simp <;> done)
  | (unfold State.fenceGrant; dsimp only; (repeat' split) <;> (try simp) <;> (repeat' split) <;> simp <;> done)
  | (unfold State.fenceGrant; dsimp only; (repeat' split) <;> first | (simp; done) | (rw [foldl_mem] <;> (try intro σ b) <;> (repeat' split) <;> simp <;> done))
  | (unfold State.fenceGrant; dsimp only; (repeat' split) <;> (try simp) <;> (try (rw [foldl_mem] <;> (try intro σ b))) <;> (repeat' split) <;> (try simp) <;> done)
@[simp] theorem State.setQueue_mem (σ : State) (vf q : Nat) (v : Queue) : (State.setQueue σ vf q v).mem = σ.mem := by
  unfold State.setQueue
  simp
@[simp] theorem State.tblStore_mem (σ : State) (v : Word) : (State.tblStore σ v).mem = σ.mem := by
  unfold State.tblStore
  dsimp only
  (repeat' split) <;> (try simp) <;> (repeat' split) <;> simp
@[simp] theorem State.setWin_mem (σ : State) (k : Nat) (w : RedWin) : (State.setWin σ k w).mem = σ.mem := by
  unfold State.setWin
  simp
@[simp] theorem State.feWrite_mem (σ : State) (vf : Nat) (va : Word) (n v : Nat) : (State.feWrite σ vf va n v).mem = σ.mem := by
  unfold State.feWrite
  (repeat' split) <;> simp
@[simp] theorem State.memberFail_mem (σ : State) (entry : Nat) (r : List Word) (reason : Nat) : (State.memberFail σ entry r reason).mem = σ.mem := by
  unfold State.memberFail
  dsimp only
  (repeat' split) <;> (try simp) <;> (repeat' split) <;> simp
@[simp] theorem State.answer_mem (σ : State) (key off cidx code reason : Nat) : (State.answer σ key off cidx code reason).mem = σ.mem := by
  unfold State.answer
  (repeat' split) <;> simp
@[simp] theorem State.failRound_mem (σ : State) (key off : Nat) (got : Tbl (BitVec 32)) (b' reason : Nat) : (State.failRound σ key off got b' reason).mem = σ.mem := by
  unfold State.failRound
  simp
theorem State.deliverMerge_mem {σ τ : State} {g : Nat} {w : RedWin} {off m : Nat} (h : σ.deliverMerge g w off m = .done τ) : τ.mem = σ.mem := by
  unfold State.deliverMerge at h; dsimp only at h
  (repeat' split at h) <;> first | contradiction | (cases h; simp)
@[simp] theorem State.closeRound_mem (σ : State) (key off reason : Nat) : (State.closeRound σ key off reason).mem = σ.mem := by
  unfold State.closeRound; dsimp only
  split
  · simp
  · split
    · rename_i h; simp [State.deliverMerge_mem h]
    · simp
    · simp
    · simp
@[simp] theorem State.joinRound_mem (σ : State) (key cidx off : Nat) (v : BitVec 32) : (State.joinRound σ key cidx off v).mem = σ.mem := by
  unfold State.joinRound
  dsimp only
  (repeat' split) <;> (try simp) <;> (repeat' split) <;> simp
@[simp] theorem State.settleWin_mem (σ : State) (key : Nat) : (State.settleWin σ key).mem = σ.mem := by
  unfold State.settleWin
  simp
@[simp] theorem State.contribute_mem (σ : State) (key cidx off : Nat) (v : BitVec 32) : (State.contribute σ key cidx off v).mem = σ.mem := by
  unfold State.contribute
  dsimp only
  (repeat' split) <;> (try simp) <;> (repeat' split) <;> simp
theorem State.rwSet_mem {σ τ : State} {v : Word} (h : σ.rwSet v = .next τ) : τ.mem = σ.mem := by
  unfold State.rwSet at h; dsimp only at h
  (repeat' split at h) <;> first | contradiction | (cases h; simp; done) | (cases h; split <;> simp; done)
@[simp] theorem State.rwRetry_mem (σ : State) : (State.rwRetry σ).mem = σ.mem := by
  unfold State.rwRetry
  split
  · rfl
  · split
    · rename_i h; exact State.rwSet_mem h
    · rfl
@[simp] theorem State.retryMerge_mem (σ : State) (key off : Nat) : (State.retryMerge σ key off).mem = σ.mem := by
  first
  | (unfold State.retryMerge; simp; done)
  | rfl
  | (unfold State.retryMerge; (repeat' split) <;> simp <;> done)
  | (unfold State.retryMerge; dsimp only; (repeat' split) <;> (try simp) <;> (repeat' split) <;> simp <;> done)
  | (unfold State.retryMerge; dsimp only; (repeat' split) <;> first | (simp; done) | (rw [foldl_mem] <;> (try intro σ b) <;> (repeat' split) <;> simp <;> done))
  | (unfold State.retryMerge; dsimp only; (repeat' split) <;> (try simp) <;> (try (rw [foldl_mem] <;> (try intro σ b))) <;> (repeat' split) <;> (try simp) <;> done)
@[simp] theorem State.retryMerges_mem (σ : State) (key : Nat) : (State.retryMerges σ key).mem = σ.mem := by
  unfold State.retryMerges
  simp
@[simp] theorem State.adopt_mem (σ : State) (k exp : Nat) : (State.adopt σ k exp).mem = σ.mem := by
  unfold State.adopt; dsimp only
  refine (foldl_mem _ (fun τ i => ?_) _ _).trans rfl
  split
  · rename_i h; exact State.deliverMerge_mem h
  · rfl
@[simp] theorem State.arrivedAtom_mem (σ : State) (a : Arrival) (pa : Nat) : (State.arrivedAtom σ a pa).mem = σ.mem := by
  first
  | (unfold State.arrivedAtom; simp; done)
  | rfl
  | (unfold State.arrivedAtom; (repeat' split) <;> simp <;> done)
  | (unfold State.arrivedAtom; dsimp only; (repeat' split) <;> (try simp) <;> (repeat' split) <;> simp <;> done)
  | (unfold State.arrivedAtom; dsimp only; (repeat' split) <;> first | (simp; done) | (rw [foldl_mem] <;> (try intro σ b) <;> (repeat' split) <;> simp <;> done))
  | (unfold State.arrivedAtom; dsimp only; (repeat' split) <;> (try simp) <;> (try (rw [foldl_mem] <;> (try intro σ b))) <;> (repeat' split) <;> (try simp) <;> done)
theorem State.serveRemote_mem {σ τ : State} {a : Arrival} (h : σ.serveRemote a = some τ) : τ.mem = σ.mem := by
  unfold State.serveRemote at h; dsimp only at h
  (repeat' split at h) <;> first | contradiction | (cases h; simp; done) | (cases h; split <;> simp; done)
@[simp] theorem State.arrivalRetry_mem (σ : State) : (State.arrivalRetry σ).mem = σ.mem := by
  unfold State.arrivalRetry
  have h : ∀ (l : List Arrival) (x : State × List Arrival), (l.foldl (fun x a =>
      if x.2.any fun b => decide (b.src = a.src) && decide (b.exp = a.exp) then (x.1, x.2 ++ [a]) else
      match x.1.serveRemote a with
      | some τ => (τ, x.2)
      | none => (x.1, x.2 ++ [a])) x).1.mem = x.1.mem := by
    intro l
    induction l with
    | nil => intro x; rfl
    | cons p l ih =>
      intro x
      rw [List.foldl_cons, ih]
      (repeat' split) <;> first | rfl | (rename_i h; exact State.serveRemote_mem h)
  exact h _ _
theorem State.crwPlace_mem {σ : State} {e : Nat} {m : List Byte} {p : Bool × State} (h : σ.crwPlace e m = some p) : p.2.mem = σ.mem := by
  unfold State.crwPlace at h; dsimp only at h
  (repeat' split at h) <;> first | contradiction | (cases h; simp)
@[simp] theorem State.crwRetry_mem (σ : State) : (State.crwRetry σ).mem = σ.mem := by
  unfold State.crwRetry
  have h : ∀ (l : List (Nat × List Byte × Nat)) (x : State × List (Nat × List Byte × Nat)), (l.foldl (fun x p =>
      if x.1.crwOver p then x
      else if x.2.any fun q => decide (q.1 = p.1) then (x.1, x.2 ++ [p])
      else match x.1.crwPlace p.1 p.2.1 with
        | some r => (r.2, x.2)
        | none => (x.1, x.2 ++ [p])) x).1.mem = x.1.mem := by
    intro l
    induction l with
    | nil => intro x; rfl
    | cons p l ih =>
      intro x
      rw [List.foldl_cons, ih]
      (repeat' split) <;> first | rfl | (rename_i h; exact State.crwPlace_mem h)
  exact h _ _
@[simp] theorem State.storeDone_mem (σ : State) (q : FabReq) (cause : Option Nat) : (State.storeDone σ q cause).mem = σ.mem := by
  first
  | (unfold State.storeDone; simp; done)
  | rfl
  | (unfold State.storeDone; (repeat' split) <;> simp <;> done)
  | (unfold State.storeDone; dsimp only; (repeat' split) <;> (try simp) <;> (repeat' split) <;> simp <;> done)
  | (unfold State.storeDone; dsimp only; (repeat' split) <;> first | (simp; done) | (rw [foldl_mem] <;> (try intro σ b) <;> (repeat' split) <;> simp <;> done))
  | (unfold State.storeDone; dsimp only; (repeat' split) <;> (try simp) <;> (try (rw [foldl_mem] <;> (try intro σ b))) <;> (repeat' split) <;> (try simp) <;> done)
@[simp] theorem State.fabricLate_mem (σ : State) : (State.fabricLate σ).mem = σ.mem := by
  first
  | (unfold State.fabricLate; simp; done)
  | rfl
  | (unfold State.fabricLate; (repeat' split) <;> simp <;> done)
  | (unfold State.fabricLate; dsimp only; (repeat' split) <;> (try simp) <;> (repeat' split) <;> simp <;> done)
  | (unfold State.fabricLate; dsimp only; (repeat' split) <;> first | (simp; done) | (rw [foldl_mem] <;> (try intro σ b) <;> (repeat' split) <;> simp <;> done))
  | (unfold State.fabricLate; dsimp only; (repeat' split) <;> (try simp) <;> (try (rw [foldl_mem] <;> (try intro σ b))) <;> (repeat' split) <;> (try simp) <;> done)
@[simp] theorem State.foreignBytes_mem (σ : State) (req : Nat) (c : Ctx) (pa n : Nat) : (State.foreignBytes σ req c pa n).1.mem = σ.mem := by
  unfold State.foreignBytes
  (repeat' split) <;> simp
@[simp] theorem State.setSlice_mem (σ : State) (n : Nat) (m : MkSlice) : (State.setSlice σ n m).mem = σ.mem := by
  unfold State.setSlice
  simp
@[simp] theorem State.deliverTuple_mem (σ : State) (r : Parked) (t : List Word) : (State.deliverTuple σ r t).mem = σ.mem := by
  unfold State.deliverTuple
  simp
@[simp] theorem State.mkDeposit_mem (σ : State) (n frame : Nat) (fields : List Word) (place : Nat) : (State.mkDeposit σ n frame fields place).mem = σ.mem := by
  unfold State.mkDeposit
  dsimp only
  (repeat' split) <;> (try simp) <;> (repeat' split) <;> simp
@[simp] theorem State.mkCompact_mem (σ : State) (n : Nat) : (State.mkCompact σ n).mem = σ.mem := by
  first
  | (unfold State.mkCompact; simp; done)
  | rfl
  | (unfold State.mkCompact; (repeat' split) <;> simp <;> done)
  | (unfold State.mkCompact; dsimp only; (repeat' split) <;> (try simp) <;> (repeat' split) <;> simp <;> done)
  | (unfold State.mkCompact; dsimp only; (repeat' split) <;> first | (simp; done) | (rw [foldl_mem] <;> (try intro σ b) <;> (repeat' split) <;> simp <;> done))
  | (unfold State.mkCompact; dsimp only; (repeat' split) <;> (try simp) <;> (try (rw [foldl_mem] <;> (try intro σ b))) <;> (repeat' split) <;> (try simp) <;> done)
@[simp] theorem State.mkReturn_mem (σ : State) (frame vf : Nat) (fields : List Word) : (State.mkReturn σ frame vf fields).mem = σ.mem := by
  unfold State.mkReturn
  simp
@[simp] theorem State.mkWithdraw_mem (σ : State) (t : Nat) : (State.mkWithdraw σ t).mem = σ.mem := by
  unfold State.mkWithdraw
  dsimp only
  (repeat' split) <;> (try simp) <;> (repeat' split) <;> simp
@[simp] theorem State.nodeTick_mem (σ : State) (n : Nat) : (State.nodeTick σ n).mem = σ.mem := by
  unfold State.nodeTick
  dsimp only
  (repeat' split) <;> (try simp) <;> (repeat' split) <;> simp
@[simp] theorem State.settleQueue_mem (σ : State) (vf q : Nat) : (State.settleQueue σ vf q).mem = σ.mem := by
  unfold State.settleQueue
  dsimp only
  (repeat' split) <;> (try simp) <;> (repeat' split) <;> simp
@[simp] theorem State.afterTask_mem (σ : State) (t : Nat) : (State.afterTask σ t).mem = σ.mem := by
  unfold State.afterTask
  simp
@[simp] theorem State.dropTask_mem (σ : State) (t : Nat) (st : TaskState) : (State.dropTask σ t st).mem = σ.mem := by
  unfold State.dropTask
  dsimp only
  (repeat' split) <;> (try simp) <;> (repeat' split) <;> simp
@[simp] theorem State.endAny_mem (σ : State) (t : Nat) (other : TaskState) (post : Ctx → Ctx) : (State.endAny σ t other post).mem = σ.mem := by
  unfold State.endAny
  dsimp only
  (repeat' split) <;> (try simp) <;> (repeat' split) <;> simp
@[simp] theorem State.startTask_mem (σ : State) (core slot t a w : Nat) : (State.startTask σ core slot t a w).mem = σ.mem := by
  unfold State.startTask
  simp
@[simp] theorem State.loadKey_mem (σ : State) (core slot vf : Nat) : (State.loadKey σ core slot vf).mem = σ.mem := by
  unfold State.loadKey
  simp
@[simp] theorem State.cancelPosted_mem (σ : State) (core slot t : Nat) : (State.cancelPosted σ core slot t).mem = σ.mem := by
  unfold State.cancelPosted
  (repeat' split) <;> simp
@[simp] theorem State.closeLot_mem (σ : State) (core slot t : Nat) : (State.closeLot σ core slot t).mem = σ.mem := by
  unfold State.closeLot
  simp
@[simp] theorem State.settleSlot_mem (σ : State) (core slot : Nat) : (State.settleSlot σ core slot).mem = σ.mem := by
  first
  | (unfold State.settleSlot; simp; done)
  | rfl
  | (unfold State.settleSlot; (repeat' split) <;> simp <;> done)
  | (unfold State.settleSlot; dsimp only; (repeat' split) <;> (try simp) <;> (repeat' split) <;> simp <;> done)
  | (unfold State.settleSlot; dsimp only; (repeat' split) <;> first | (simp; done) | (rw [foldl_mem] <;> (try intro σ b) <;> (repeat' split) <;> simp <;> done))
  | (unfold State.settleSlot; dsimp only; (repeat' split) <;> (try simp) <;> (try (rw [foldl_mem] <;> (try intro σ b))) <;> (repeat' split) <;> (try simp) <;> done)
@[simp] theorem State.preemptLot_mem (σ : State) (core slot : Nat) (why : Stop) : (State.preemptLot σ core slot why).mem = σ.mem := by
  unfold State.preemptLot; dsimp only; split <;> simp
@[simp] theorem State.fillSlab_mem (σ : State) (core slab : Nat) (l : List (BitVec 32)) : (State.fillSlab σ core slab l).mem = σ.mem := by
  unfold State.fillSlab
  simp
@[simp] theorem State.serveForeign_mem (σ : State) (core slab slot : Nat) : (State.serveForeign σ core slab slot).mem = σ.mem := by
  unfold State.serveForeign
  dsimp only
  (repeat' split) <;> (try simp) <;> (repeat' split) <;> simp
@[simp] theorem State.moveTask_mem (σ : State) (part but t : Nat) : (State.moveTask σ part but t).mem = σ.mem := by
  unfold State.moveTask
  dsimp only
  (repeat' split) <;> (try simp) <;> (repeat' split) <;> simp
@[simp] theorem State.moveRequest_mem (σ : State) (part but t : Nat) (r : LeaseReq) : (State.moveRequest σ part but t r).mem = σ.mem := by
  first
  | (unfold State.moveRequest; simp; done)
  | rfl
  | (unfold State.moveRequest; (repeat' split) <;> simp <;> done)
  | (unfold State.moveRequest; dsimp only; (repeat' split) <;> (try simp) <;> (repeat' split) <;> simp <;> done)
  | (unfold State.moveRequest; dsimp only; (repeat' split) <;> first | (simp; done) | (rw [foldl_mem] <;> (try intro σ b) <;> (repeat' split) <;> simp <;> done))
  | (unfold State.moveRequest; dsimp only; (repeat' split) <;> (try simp) <;> (try (rw [foldl_mem] <;> (try intro σ b))) <;> (repeat' split) <;> (try simp) <;> done)
@[simp] theorem State.rebind_mem (σ : State) (part but t : Nat) : (State.rebind σ part but t).mem = σ.mem := by
  first
  | (unfold State.rebind; simp; done)
  | rfl
  | (unfold State.rebind; (repeat' split) <;> simp <;> done)
  | (unfold State.rebind; dsimp only; (repeat' split) <;> (try simp) <;> (repeat' split) <;> simp <;> done)
  | (unfold State.rebind; dsimp only; (repeat' split) <;> first | (simp; done) | (rw [foldl_mem] <;> (try intro σ b) <;> (repeat' split) <;> simp <;> done))
  | (unfold State.rebind; dsimp only; (repeat' split) <;> (try simp) <;> (try (rw [foldl_mem] <;> (try intro σ b))) <;> (repeat' split) <;> (try simp) <;> done)
@[simp] theorem State.spillCore_mem (σ : State) (core : Nat) : (State.spillCore σ core).mem = σ.mem := by
  first
  | (unfold State.spillCore; simp; done)
  | rfl
  | (unfold State.spillCore; (repeat' split) <;> simp <;> done)
  | (unfold State.spillCore; dsimp only; (repeat' split) <;> (try simp) <;> (repeat' split) <;> simp <;> done)
  | (unfold State.spillCore; dsimp only; (repeat' split) <;> first | (simp; done) | (rw [foldl_mem] <;> (try intro σ b) <;> (repeat' split) <;> simp <;> done))
  | (unfold State.spillCore; dsimp only; (repeat' split) <;> (try simp) <;> (try (rw [foldl_mem] <;> (try intro σ b))) <;> (repeat' split) <;> (try simp) <;> done)
@[simp] theorem State.moveCore_mem (σ : State) (core : Nat) (v : Word) : (State.moveCore σ core v).mem = σ.mem := by
  first
  | (unfold State.moveCore; simp; done)
  | rfl
  | (unfold State.moveCore; (repeat' split) <;> simp <;> done)
  | (unfold State.moveCore; dsimp only; (repeat' split) <;> (try simp) <;> (repeat' split) <;> simp <;> done)
  | (unfold State.moveCore; dsimp only; (repeat' split) <;> first | (simp; done) | (rw [foldl_mem] <;> (try intro σ b) <;> (repeat' split) <;> simp <;> done))
  | (unfold State.moveCore; dsimp only; (repeat' split) <;> (try simp) <;> (try (rw [foldl_mem] <;> (try intro σ b))) <;> (repeat' split) <;> (try simp) <;> done)
@[simp] theorem State.settleCore_mem (σ : State) (core : Nat) : (State.settleCore σ core).mem = σ.mem := by
  first
  | (unfold State.settleCore; simp; done)
  | rfl
  | (unfold State.settleCore; (repeat' split) <;> simp <;> done)
  | (unfold State.settleCore; dsimp only; (repeat' split) <;> (try simp) <;> (repeat' split) <;> simp <;> done)
  | (unfold State.settleCore; dsimp only; (repeat' split) <;> first | (simp; done) | (rw [foldl_mem] <;> (try intro σ b) <;> (repeat' split) <;> simp <;> done))
  | (unfold State.settleCore; dsimp only; (repeat' split) <;> (try simp) <;> (try (rw [foldl_mem] <;> (try intro σ b))) <;> (repeat' split) <;> (try simp) <;> done)
@[simp] theorem State.removeCore_mem (σ : State) (core : Nat) (v : Word) : (State.removeCore σ core v).mem = σ.mem := by
  unfold State.removeCore; dsimp only
  rw [State.settleCore_mem, foldl_mem _ (fun σ b => by simp)]; simp
@[simp] theorem State.setRun_mem (σ : State) (r : Run) : (State.setRun σ r).mem = σ.mem := by
  unfold State.setRun
  simp
@[simp] theorem State.setCopyHere_mem (σ : State) (x : CopyEng) : (State.setCopyHere σ x).mem = σ.mem := by
  unfold State.setCopyHere
  simp
@[simp] theorem State.tagDone_mem (σ : State) (t err : Option Nat) : (State.tagDone σ t err).mem = σ.mem := by
  unfold State.tagDone
  (repeat' split) <;> simp
@[simp] theorem State.cancelSteps_mem (σ : State) : (State.cancelSteps σ).mem = σ.mem := by
  unfold State.cancelSteps
  simp
@[simp] theorem State.releaseQueued_mem (σ : State) : (State.releaseQueued σ).mem = σ.mem := by
  unfold State.releaseQueued
  simp
@[simp] theorem State.unreserve_mem (σ : State) (core slot : Nat) (p : Prog) : (State.unreserve σ core slot p).mem = σ.mem := by
  unfold State.unreserve
  simp
@[simp] theorem State.markRetired_mem (σ : State) (core e : Nat) (m : BitVec 16) (notify : Bool) : (State.markRetired σ core e m notify).mem = σ.mem := by
  unfold State.markRetired
  simp
@[simp] theorem State.land_mem (σ : State) : (State.land σ).mem = σ.mem := by
  unfold State.land; dsimp only
  rw [foldl_mem, foldl_mem]
  · intro σ b; (repeat' split) <;> simp
  · intro σ b; (repeat' split) <;> simp
@[simp] theorem State.fencePassed_mem (σ : State) (core slot e id : Nat) : (State.fencePassed σ core slot e id).mem = σ.mem := by
  unfold State.fencePassed
  (repeat' split) <;> simp
@[simp] theorem State.orderAfter_mem (σ : State) (core slot : Nat) (p : Prog) : (State.orderAfter σ core slot p).mem = σ.mem := by
  first
  | (unfold State.orderAfter; simp; done)
  | rfl
  | (unfold State.orderAfter; (repeat' split) <;> simp <;> done)
  | (unfold State.orderAfter; dsimp only; (repeat' split) <;> (try simp) <;> (repeat' split) <;> simp <;> done)
  | (unfold State.orderAfter; dsimp only; (repeat' split) <;> first | (simp; done) | (rw [foldl_mem] <;> (try intro σ b) <;> (repeat' split) <;> simp <;> done))
  | (unfold State.orderAfter; dsimp only; (repeat' split) <;> (try simp) <;> (try (rw [foldl_mem] <;> (try intro σ b))) <;> (repeat' split) <;> (try simp) <;> done)
@[simp] theorem State.takeSources_mem (σ : State) (srcs : List Opnd) : (State.takeSources σ srcs).mem = σ.mem := by
  first
  | (unfold State.takeSources; simp; done)
  | rfl
  | (unfold State.takeSources; (repeat' split) <;> simp <;> done)
  | (unfold State.takeSources; dsimp only; (repeat' split) <;> (try simp) <;> (repeat' split) <;> simp <;> done)
  | (unfold State.takeSources; dsimp only; (repeat' split) <;> first | (simp; done) | (rw [foldl_mem] <;> (try intro σ b) <;> (repeat' split) <;> simp <;> done))
  | (unfold State.takeSources; dsimp only; (repeat' split) <;> (try simp) <;> (try (rw [foldl_mem] <;> (try intro σ b))) <;> (repeat' split) <;> (try simp) <;> done)
@[simp] theorem State.cPoke_mem (σ : State) (core off v : Nat) : (State.cPoke σ core off v).mem = σ.mem := by
  unfold State.cPoke
  simp
@[simp] theorem State.cPut_mem (σ : State) (core off n v : Nat) : (State.cPut σ core off n v).mem = σ.mem := by
  unfold State.cPut
  simp
@[simp] theorem State.vReadIn_mem (z : Nat) (l : List (Nat × Word × Xl)) (σ : State) : (σ.vReadIn z l).1.mem = σ.mem := by
  induction l generalizing σ with
  | nil => rfl
  | cons p r ih =>
    unfold State.vReadIn
    dsimp only
    rw [ih]
    (repeat' split) <;> simp
@[simp] theorem State.vRead_mem (σ : State) (z : Nat) (l : List (Nat × Word × Xl)) : (State.vRead σ z l).1.mem = σ.mem := by
  first
  | (unfold State.vRead; simp; done)
  | rfl
  | (unfold State.vRead; (repeat' split) <;> simp <;> done)
  | (unfold State.vRead; dsimp only; (repeat' split) <;> (try simp) <;> (repeat' split) <;> simp <;> done)
  | (unfold State.vRead; dsimp only; (repeat' split) <;> first | (simp; done) | (rw [foldl_mem] <;> (try intro σ b) <;> (repeat' split) <;> simp <;> done))
  | (unfold State.vRead; dsimp only; (repeat' split) <;> (try simp) <;> (try (rw [foldl_mem] <;> (try intro σ b))) <;> (repeat' split) <;> (try simp) <;> done)
@[simp] theorem State.vFill_mem (σ : State) (l : List (Nat × Word × Xl)) : (State.vFill σ l).mem = σ.mem := by
  unfold State.vFill; exact foldl_mem _ (by intro σ b; (try dsimp only); (repeat' split) <;> simp) _ _
@[simp] theorem State.setMFrag_mem (σ : State) (f : Frag) : (State.setMFrag σ f).mem = σ.mem := by
  unfold State.setMFrag
  simp
@[simp] theorem State.startLoad_mem (σ : State) (b : Nat) : (State.startLoad σ b).mem = σ.mem := by
  unfold State.startLoad
  simp
@[simp] theorem State.issuePass_mem (σ : State) (p : Pass) : (State.issuePass σ p).mem = σ.mem := by
  unfold State.issuePass
  simp
@[simp] theorem State.mmaPass_mem (σ : State) (before : Redo) (b s0 mode : Nat) (fa : Nat) (xs : List (List Num)) : (State.mmaPass σ before b s0 mode fa xs).mem = σ.mem := by
  unfold State.mmaPass
  simp
@[simp] theorem State.applyWrites_mem (σ : State) (core : Nat) (ws : List PassWrite) : (State.applyWrites σ core ws).mem = σ.mem := by
  unfold State.applyWrites
  simp
@[simp] theorem State.feedLink_mem (σ : State) (core l : Nat) (vs : List (Nat × Nat × List Nat)) : (State.feedLink σ core l vs).1.mem = σ.mem := by
  unfold State.feedLink
  simp
@[simp] theorem State.retirePass_mem (σ : State) (core seq : Nat) (p : Pass) (rest : List Pass) : (State.retirePass σ core seq p rest).mem = σ.mem := by
  unfold State.retirePass
  dsimp only
  (repeat' split) <;> (try simp) <;> (repeat' split) <;> simp
@[simp] theorem State.fragFaulted_mem (σ : State) (core seq : Nat) (r : FaultRec) : (State.fragFaulted σ core seq r).mem = σ.mem := by
  unfold State.fragFaulted
  dsimp only
  (repeat' split) <;> (try simp) <;> (repeat' split) <;> simp
@[simp] theorem State.linkParams_mem (σ : State) (core k : Nat) (p : Link) : (State.linkParams σ core k p).mem = σ.mem := by
  unfold State.linkParams; exact foldl_mem _ (by intro σ b; (try dsimp only); (repeat' split) <;> simp) _ _
@[simp] theorem State.bufWrite_mem (σ : State) (core slot space esz : Nat) (a : Int) (v : Nat) : (State.bufWrite σ core slot space esz a v).mem = σ.mem := by
  unfold State.bufWrite
  (repeat' split) <;> simp
@[simp] theorem State.bufWriteAll_mem (σ : State) (core slot space esz : Nat) (as : List Int) (vs : List (Option Nat)) : (State.bufWriteAll σ core slot space esz as vs).mem = σ.mem := by
  unfold State.bufWriteAll; exact foldl_mem _ (by intro σ b; (try dsimp only); (repeat' split) <;> simp) _ _
@[simp] theorem State.gWrite_mem (σ : State) (slot esz : Nat) (tag : Option Nat) (xs : List Xl) (vs : List (Option Nat)) : (State.gWrite σ slot esz tag xs vs).mem = σ.mem := by
  unfold State.gWrite
  simp
@[simp] theorem State.fillSlot_mem (σ : State) (slot ring i esz : Nat) (vs : List (Option Nat)) : (State.fillSlot σ slot ring i esz vs).mem = σ.mem := by
  unfold State.fillSlot
  dsimp only
  (repeat' split) <;> first | (simp) | (rw [foldl_mem] <;> (try intro σ b) <;> (repeat' split) <;> simp)
@[simp] theorem State.fillRing_mem (σ : State) (slot ring i : Nat) : (State.fillRing σ slot ring i).mem = σ.mem := by
  unfold State.fillRing
  simp
@[simp] theorem State.multicast_mem (σ : State) (slot mask : Nat) (B : Shape) (vs : List (Option Nat)) : (State.multicast σ slot mask B vs).1.mem = σ.mem := by
  unfold State.multicast
  simp
@[simp] theorem State.keepAnswers_mem (σ : State) (idx : Nat) (a : Tbl Nat) : (State.keepAnswers σ idx a).mem = σ.mem := by
  unfold State.keepAnswers
  simp
@[simp] theorem State.endStep_mem (σ : State) (slot : Nat) (s : CopyStep) (err : Option (Nat × Word)) : (State.endStep σ slot s err).mem = σ.mem := by
  unfold State.endStep
  (repeat' split) <;> simp
@[simp] theorem State.followOn_mem (σ : State) (slot : Nat) (s : CopyStep) (ring k : Nat) (follow : BitVec 32) (err : Option (Nat × Word)) : (State.followOn σ slot s ring k follow err).mem = σ.mem := by
  unfold State.followOn
  dsimp only
  (repeat' split) <;> (try simp) <;> (repeat' split) <;> simp
@[simp] theorem State.asEngine_mem (σ : State) (core e : Nat) : (State.asEngine σ core e).mem = σ.mem := by
  unfold State.asEngine
  simp
@[simp] theorem State.rvSync_mem (σ : State) : (State.rvSync σ).mem = σ.mem := by
  first
  | (unfold State.rvSync; simp; done)
  | rfl
  | (unfold State.rvSync; (repeat' split) <;> simp <;> done)
  | (unfold State.rvSync; dsimp only; (repeat' split) <;> (try simp) <;> (repeat' split) <;> simp <;> done)
  | (unfold State.rvSync; dsimp only; (repeat' split) <;> first | (simp; done) | (rw [foldl_mem] <;> (try intro σ b) <;> (repeat' split) <;> simp <;> done))
  | (unfold State.rvSync; dsimp only; (repeat' split) <;> (try simp) <;> (try (rw [foldl_mem] <;> (try intro σ b))) <;> (repeat' split) <;> (try simp) <;> done)
@[simp] theorem State.fsDirty_mem (σ : State) : (State.fsDirty σ).mem = σ.mem := by
  first
  | (unfold State.fsDirty; simp; done)
  | rfl
  | (unfold State.fsDirty; (repeat' split) <;> simp <;> done)
  | (unfold State.fsDirty; dsimp only; (repeat' split) <;> (try simp) <;> (repeat' split) <;> simp <;> done)
  | (unfold State.fsDirty; dsimp only; (repeat' split) <;> first | (simp; done) | (rw [foldl_mem] <;> (try intro σ b) <;> (repeat' split) <;> simp <;> done))
  | (unfold State.fsDirty; dsimp only; (repeat' split) <;> (try simp) <;> (try (rw [foldl_mem] <;> (try intro σ b))) <;> (repeat' split) <;> (try simp) <;> done)
@[simp] theorem State.rinkSwitch_mem (σ : State) (n : Nat) : (State.rinkSwitch σ n).mem = σ.mem := by
  unfold State.rinkSwitch
  dsimp only
  (repeat' split) <;> (try simp) <;> (repeat' split) <;> simp
@[simp] theorem State.settleRink_mem (σ : State) (n : Nat) : (State.settleRink σ n).mem = σ.mem := by
  unfold State.settleRink; dsimp only
  split
  · exact State.rinkSwitch_mem σ n
  · rfl
@[simp] theorem State.epFault_mem (σ : State) (vf ep mcause : Nat) : (State.epFault σ vf ep mcause).mem = σ.mem := by
  unfold State.epFault
  simp
@[simp] theorem State.rinkTick_mem (σ : State) (k : Nat) : (State.rinkTick σ k).mem = σ.mem := by
  unfold State.rinkTick
  simp
@[simp] theorem State.rinkRetire_mem (σ : State) (vf ep k : Nat) (e : Episode) (reset : Bool) : (State.rinkRetire σ vf ep k e reset).mem = σ.mem := by
  unfold State.rinkRetire
  dsimp only
  (repeat' split) <;> (try simp) <;> (repeat' split) <;> simp
@[simp] theorem State.recordEpt_mem (σ : State) (vf : Nat) : (State.recordEpt σ vf).mem = σ.mem := by
  unfold State.recordEpt
  simp
@[simp] theorem State.feFill_mem (σ : State) (l : List Nat) : (State.feFill σ l).mem = σ.mem := by
  unfold State.feFill
  simp
@[simp] theorem State.putQueue_mem (σ : State) (vf q : Nat) (v : Queue) : (State.putQueue σ vf q v).mem = σ.mem := by
  unfold State.putQueue
  simp
@[simp] theorem State.haltQueue_mem (σ : State) (vf q code detail : Nat) : (State.haltQueue σ vf q code detail).mem = σ.mem := by
  unfold State.haltQueue
  simp
theorem State.feAsk_wait_mem {σ τ : State} {vf : Nat} {k : Kind} {va : Word} {n : Nat} (h : σ.feAsk vf k va n = .wait τ) : τ.mem = σ.mem := by
  unfold State.feAsk at h
  (repeat' split at h) <;> first | contradiction | (cases h; simp)
theorem State.feAsk_bad_mem {σ τ : State} {vf c : Nat} {k : Kind} {va : Word} {n : Nat} (h : σ.feAsk vf k va n = .bad c τ) : τ.mem = σ.mem := by
  unfold State.feAsk at h
  (repeat' split at h) <;> first | contradiction | (cases h; simp; done) | (cases h; split <;> simp)
@[simp] theorem State.readIndex_mem (σ : State) (vf q : Nat) : (State.readIndex σ vf q).mem = σ.mem := by
  unfold State.readIndex; dsimp only
  split
  · rfl
  · split
    · rename_i h; simp [State.feAsk_wait_mem h]
    · rename_i h; split <;> simp [State.feAsk_bad_mem h]
    · (repeat' split) <;> simp
@[simp] theorem State.setPacket_mem (σ : State) (vf q : Nat) (p : Packet) : (State.setPacket σ vf q p).mem = σ.mem := by
  unfold State.setPacket
  simp
@[simp] theorem State.dropPacket_mem (σ : State) (vf q idx : Nat) : (State.dropPacket σ vf q idx).mem = σ.mem := by
  unfold State.dropPacket
  simp
@[simp] theorem State.packetFault_mem (σ : State) (vf q idx cause : Nat) : (State.packetFault σ vf q idx cause).mem = σ.mem := by
  unfold State.packetFault
  simp
@[simp] theorem State.packetDone_mem (σ : State) (vf q : Nat) (p : Packet) : (State.packetDone σ vf q p).mem = σ.mem := by
  unfold State.packetDone
  simp
@[simp] theorem State.setGraph_mem (σ : State) (g : Nat) (v : Graph) : (State.setGraph σ g v).mem = σ.mem := by
  unfold State.setGraph
  simp
@[simp] theorem State.graphRefused_mem (σ : State) (vf q idx off : Nat) : (State.graphRefused σ vf q idx off).mem = σ.mem := by
  unfold State.graphRefused
  simp
@[simp] theorem State.graphEnd_mem (σ : State) (g : Nat) : (State.graphEnd σ g).mem = σ.mem := by
  unfold State.graphEnd; dsimp only
  split
  · rfl
  · split
    · split <;> (try split) <;> simp
    · split
      · rename_i h; simp [State.feAsk_wait_mem h]
      · rename_i h; (repeat' split) <;> simp [State.feAsk_bad_mem h]
      · (repeat' split) <;> simp
@[simp] theorem State.graphStop_mem (σ : State) (g code node detail : Nat) : (State.graphStop σ g code node detail).mem = σ.mem := by
  unfold State.graphStop
  simp
@[simp] theorem State.cancelTask_mem (σ : State) (t : Nat) : (State.cancelTask σ t).mem = σ.mem := by
  first
  | (unfold State.cancelTask; simp; done)
  | rfl
  | (unfold State.cancelTask; (repeat' split) <;> simp <;> done)
  | (unfold State.cancelTask; dsimp only; (repeat' split) <;> (try simp) <;> (repeat' split) <;> simp <;> done)
  | (unfold State.cancelTask; dsimp only; (repeat' split) <;> first | (simp; done) | (rw [foldl_mem] <;> (try intro σ b) <;> (repeat' split) <;> simp <;> done))
  | (unfold State.cancelTask; dsimp only; (repeat' split) <;> (try simp) <;> (try (rw [foldl_mem] <;> (try intro σ b))) <;> (repeat' split) <;> (try simp) <;> done)
@[simp] theorem State.cancelQueue_mem (σ : State) (vf q : Nat) : (State.cancelQueue σ vf q).mem = σ.mem := by
  unfold State.cancelQueue; dsimp only
  rw [State.settleQueue_mem, foldl_mem, foldl_mem]
  · simp
  · intro σ b; simp
  · intro σ b; simp
@[simp] theorem State.killVf_mem (σ : State) (vf detail : Nat) (episodes : Bool) : (State.killVf σ vf detail episodes).mem = σ.mem := by
  unfold State.killVf
  dsimp only
  (repeat' split) <;> (try simp) <;> (try (rw [foldl_mem] <;> (try intro σ b))) <;> (repeat' split) <;> (try simp)
@[simp] theorem State.writeNctl_mem (σ : State) (b off rk : Nat) (v : Word) : (State.writeNctl σ b off rk v).mem = σ.mem := by
  unfold State.writeNctl
  dsimp only
  (repeat' split) <;> (try simp) <;> (repeat' split) <;> simp
@[simp] theorem State.writePf_mem (σ : State) (off : Nat) (v : Word) : (State.writePf σ off v).mem = σ.mem := by
  unfold State.writePf
  (repeat' split) <;> simp
@[simp] theorem State.discardKeys_mem (σ : State) (vf : Nat) : (State.discardKeys σ vf).mem = σ.mem := by
  first
  | (unfold State.discardKeys; simp; done)
  | rfl
  | (unfold State.discardKeys; (repeat' split) <;> simp <;> done)
  | (unfold State.discardKeys; dsimp only; (repeat' split) <;> (try simp) <;> (repeat' split) <;> simp <;> done)
  | (unfold State.discardKeys; dsimp only; (repeat' split) <;> first | (simp; done) | (rw [foldl_mem] <;> (try intro σ b) <;> (repeat' split) <;> simp <;> done))
  | (unfold State.discardKeys; dsimp only; (repeat' split) <;> (try simp) <;> (try (rw [foldl_mem] <;> (try intro σ b))) <;> (repeat' split) <;> (try simp) <;> done)
@[simp] theorem State.writeMsix_mem (σ : State) (vf i : Nat) (v : BitVec 32) : (State.writeMsix σ vf i v).mem = σ.mem := by
  first
  | (unfold State.writeMsix; simp; done)
  | rfl
  | (unfold State.writeMsix; (repeat' split) <;> simp <;> done)
  | (unfold State.writeMsix; dsimp only; (repeat' split) <;> (try simp) <;> (repeat' split) <;> simp <;> done)
  | (unfold State.writeMsix; dsimp only; (repeat' split) <;> first | (simp; done) | (rw [foldl_mem] <;> (try intro σ b) <;> (repeat' split) <;> simp <;> done))
  | (unfold State.writeMsix; dsimp only; (repeat' split) <;> (try simp) <;> (try (rw [foldl_mem] <;> (try intro σ b))) <;> (repeat' split) <;> (try simp) <;> done)
@[simp] theorem State.gateStatus_mem (σ : State) (value : Word) (code : Nat) : (State.gateStatus σ value code).mem = σ.mem := by
  unfold State.gateStatus
  simp
@[simp] theorem State.setFrameRec_mem (σ : State) (f : Nat) (v : Frame) : (State.setFrameRec σ f v).mem = σ.mem := by
  unfold State.setFrameRec
  simp
@[simp] theorem State.dropDirty_mem (σ : State) (lo hi : Nat) : (State.dropDirty σ lo hi).mem = σ.mem := by
  unfold State.dropDirty
  simp
@[simp] theorem State.sealZero_mem (σ : State) (t ver kgen : Nat) : (State.sealZero σ t ver kgen).mem = σ.mem := by
  first
  | (unfold State.sealZero; simp; done)
  | rfl
  | (unfold State.sealZero; (repeat' split) <;> simp <;> done)
  | (unfold State.sealZero; dsimp only; (repeat' split) <;> (try simp) <;> (repeat' split) <;> simp <;> done)
  | (unfold State.sealZero; dsimp only; (repeat' split) <;> first | (simp; done) | (rw [foldl_mem] <;> (try intro σ b) <;> (repeat' split) <;> simp <;> done))
  | (unfold State.sealZero; dsimp only; (repeat' split) <;> (try simp) <;> (try (rw [foldl_mem] <;> (try intro σ b))) <;> (repeat' split) <;> (try simp) <;> done)
@[simp] theorem State.rotate_mem (σ : State) (vf : Nat) : (State.rotate σ vf).mem = σ.mem := by
  unfold State.rotate
  (repeat' split) <;> simp
@[simp] theorem State.retireGen_mem (σ : State) (vf : Nat) : (State.retireGen σ vf).mem = σ.mem := by
  unfold State.retireGen
  (repeat' split) <;> simp
@[simp] theorem State.evict_mem (σ : State) (t : Nat) : (State.evict σ t).mem = σ.mem := by
  unfold State.evict
  simp
@[simp] theorem State.ownRefused_mem (σ : State) : (State.ownRefused σ).mem = σ.mem := by
  unfold State.ownRefused
  simp
@[simp] theorem State.drawKeys_mem (σ : State) (vf : Nat) : (State.drawKeys σ vf).mem = σ.mem := by
  first
  | (unfold State.drawKeys; simp; done)
  | rfl
  | (unfold State.drawKeys; (repeat' split) <;> simp <;> done)
  | (unfold State.drawKeys; dsimp only; (repeat' split) <;> (try simp) <;> (repeat' split) <;> simp <;> done)
  | (unfold State.drawKeys; dsimp only; (repeat' split) <;> first | (simp; done) | (rw [foldl_mem] <;> (try intro σ b) <;> (repeat' split) <;> simp <;> done))
  | (unfold State.drawKeys; dsimp only; (repeat' split) <;> (try simp) <;> (try (rw [foldl_mem] <;> (try intro σ b))) <;> (repeat' split) <;> (try simp) <;> done)
@[simp] theorem State.refreshGframes_mem (σ : State) (vf : Nat) : (State.refreshGframes σ vf).mem = σ.mem := by
  unfold State.refreshGframes
  simp
@[simp] theorem State.ldRefused_mem (σ : State) (value : Word) (index : Nat) (x : LdFail) : (State.ldRefused σ value index x).mem = σ.mem := by
  unfold State.ldRefused
  (repeat' split) <;> simp
@[simp] theorem State.ldDone_mem (σ : State) (value : Word) (index op : Nat) : (State.ldDone σ value index op).mem = σ.mem := by
  unfold State.ldDone
  simp
@[simp] theorem State.abortHolders_mem (σ : State) (vf : Nat) (old : Table) (named : Nat → Bool) : (State.abortHolders σ vf old named).mem = σ.mem := by
  unfold State.abortHolders; dsimp only
  rw [foldl_mem, foldl_mem]
  · intro σ b; (repeat' split) <;> simp
  · intro σ b; (repeat' split) <;> simp
@[simp] theorem State.install_mem (σ : State) (vf kind : Nat) (t : Table) (changed : Nat → Bool) : (State.install σ vf kind t changed).mem = σ.mem := by
  unfold State.install
  (repeat' split) <;> simp
@[simp] theorem State.switchAll_mem (σ : State) (vf kind : Nat) (t : Table) : (State.switchAll σ vf kind t).mem = σ.mem := by
  unfold State.switchAll
  (repeat' split) <;> simp
@[simp] theorem State.switchEntry_mem (σ : State) (vf kind i : Nat) (e : BitVec 32) (guest : Nat) : (State.switchEntry σ vf kind i e guest).mem = σ.mem := by
  unfold State.switchEntry
  dsimp only
  (repeat' split) <;> (try simp) <;> (repeat' split) <;> simp
@[simp] theorem State.setTurn_mem (σ : State) (p : Nat) (u : Turn) : (State.setTurn σ p u).mem = σ.mem := by
  unfold State.setTurn
  simp
@[simp] theorem State.startTurn_mem (σ : State) (p vf : Nat) : (State.startTurn σ p vf).mem = σ.mem := by
  unfold State.startTurn
  simp
@[simp] theorem State.settleTurn_mem (σ : State) (p : Nat) : (State.settleTurn σ p).mem = σ.mem := by
  unfold State.settleTurn
  dsimp only
  (repeat' split) <;> (try simp) <;> (repeat' split) <;> simp
@[simp] theorem State.setMig_mem (σ : State) (vf st : Nat) : (State.setMig σ vf st).mem = σ.mem := by
  unfold State.setMig
  simp
@[simp] theorem State.migStatus_mem (σ : State) (value : Word) (code : Nat) : (State.migStatus σ value code).mem = σ.mem := by
  unfold State.migStatus
  simp
@[simp] theorem State.setMigLen_mem (σ : State) (n : Nat) : (State.setMigLen σ n).mem = σ.mem := by
  first
  | (unfold State.setMigLen; simp; done)
  | rfl
  | (unfold State.setMigLen; (repeat' split) <;> simp <;> done)
  | (unfold State.setMigLen; dsimp only; (repeat' split) <;> (try simp) <;> (repeat' split) <;> simp <;> done)
  | (unfold State.setMigLen; dsimp only; (repeat' split) <;> first | (simp; done) | (rw [foldl_mem] <;> (try intro σ b) <;> (repeat' split) <;> simp <;> done))
  | (unfold State.setMigLen; dsimp only; (repeat' split) <;> (try simp) <;> (try (rw [foldl_mem] <;> (try intro σ b))) <;> (repeat' split) <;> (try simp) <;> done)
@[simp] theorem State.exportBytes_mem (σ : State) (p : List Byte) : (State.exportBytes σ p).mem = σ.mem := by
  first
  | (unfold State.exportBytes; simp; done)
  | rfl
  | (unfold State.exportBytes; (repeat' split) <;> simp <;> done)
  | (unfold State.exportBytes; dsimp only; (repeat' split) <;> (try simp) <;> (repeat' split) <;> simp <;> done)
  | (unfold State.exportBytes; dsimp only; (repeat' split) <;> first | (simp; done) | (rw [foldl_mem] <;> (try intro σ b) <;> (repeat' split) <;> simp <;> done))
  | (unfold State.exportBytes; dsimp only; (repeat' split) <;> (try simp) <;> (try (rw [foldl_mem] <;> (try intro σ b))) <;> (repeat' split) <;> (try simp) <;> done)
@[simp] theorem State.spillHeld_mem (σ : State) (ts : List Nat) : (State.spillHeld σ ts).mem = σ.mem := by
  unfold State.spillHeld
  dsimp only
  (repeat' split) <;> (try simp) <;> (try (rw [foldl_mem] <;> (try intro σ b))) <;> (repeat' split) <;> (try simp)
@[simp] theorem State.giveArea_mem (σ : State) (vf t : Nat) : (State.giveArea σ vf t).mem = σ.mem := by
  unfold State.giveArea
  (repeat' split) <;> simp
@[simp] theorem State.importRecord_mem (σ : State) (vf : Nat) (r : MigRec) : (State.importRecord σ vf r).mem = σ.mem := by
  first
  | (unfold State.importRecord; simp; done)
  | rfl
  | (unfold State.importRecord; (repeat' split) <;> simp <;> done)
  | (unfold State.importRecord; dsimp only; (repeat' split) <;> (try simp) <;> (repeat' split) <;> simp <;> done)
  | (unfold State.importRecord; dsimp only; (repeat' split) <;> first | (simp; done) | (rw [foldl_mem] <;> (try intro σ b) <;> (repeat' split) <;> simp <;> done))
  | (unfold State.importRecord; dsimp only; (repeat' split) <;> (try simp) <;> (try (rw [foldl_mem] <;> (try intro σ b))) <;> (repeat' split) <;> (try simp) <;> done)
@[simp] theorem State.count_mem (σ : State) (part vf event n : Nat) : (State.count σ part vf event n).mem = σ.mem := by
  unfold State.count
  dsimp only
  (repeat' split) <;> (try simp) <;> (try (rw [foldl_mem] <;> (try intro σ b))) <;> (repeat' split) <;> (try simp)
@[simp] theorem State.evWrite_mem (σ : State) (part : Nat) (entry : Nat) : (State.evWrite σ part entry).mem = σ.mem := by
  unfold State.evWrite
  dsimp only
  (repeat' split) <;> (try simp) <;> (repeat' split) <;> simp
@[simp] theorem State.event_mem (σ : State) (part type src core slot vf payload : Nat) : (State.event σ part type src core slot vf payload).mem = σ.mem := by
  unfold State.event
  dsimp only
  (repeat' split) <;> (try simp) <;> (repeat' split) <;> simp
@[simp] theorem State.fatal_mem (σ : State) (code : Nat) : (State.fatal σ code).mem = σ.mem := by
  unfold State.fatal
  simp
@[simp] theorem State.fwuStatus_mem (σ : State) (value : Word) (code : Nat) : (State.fwuStatus σ value code).mem = σ.mem := by
  unfold State.fwuStatus
  simp
@[simp] theorem State.bootStage_mem (σ : State) (stage : Nat) : (State.bootStage σ stage).1.mem = σ.mem := by
  unfold State.bootStage
  dsimp only
  (repeat' split) <;> (try simp) <;> (repeat' split) <;> simp
@[simp] theorem State.setSpdm_mem (σ : State) (m : Nat) (v : Spdm) : (State.setSpdm σ m v).mem = σ.mem := by
  unfold State.setSpdm
  simp
@[simp] theorem State.dropLine_mem (σ : State) (pa : Nat) : (State.dropLine σ pa).mem = σ.mem := by
  unfold State.dropLine
  simp
@[simp] theorem State.lostSet_mem (σ : State) (slice set : Nat) : (State.lostSet σ slice set).mem = σ.mem := by
  unfold State.lostSet
  dsimp only
  (repeat' split) <;> (try simp) <;> (repeat' split) <;> simp
@[simp] theorem State.killFor_mem (σ : State) (vf unit addr : Nat) : (State.killFor σ vf unit addr).mem = σ.mem := by
  unfold State.killFor
  (repeat' split) <;> simp
@[simp] theorem State.issue_mem (σ : State) (core ctx : Nat) (counted : Bool) : (State.issue σ core ctx counted).mem = σ.mem := by
  unfold State.issue
  dsimp only
  (repeat' split) <;> (try simp) <;> (repeat' split) <;> simp
@[simp] theorem State.endLeft_mem (σ : State) : (State.endLeft σ).mem = σ.mem := by
  first
  | (unfold State.endLeft; simp; done)
  | rfl
  | (unfold State.endLeft; (repeat' split) <;> simp <;> done)
  | (unfold State.endLeft; dsimp only; (repeat' split) <;> (try simp) <;> (repeat' split) <;> simp <;> done)
  | (unfold State.endLeft; dsimp only; (repeat' split) <;> first | (simp; done) | (rw [foldl_mem] <;> (try intro σ b) <;> (repeat' split) <;> simp <;> done))
  | (unfold State.endLeft; dsimp only; (repeat' split) <;> (try simp) <;> (try (rw [foldl_mem] <;> (try intro σ b))) <;> (repeat' split) <;> (try simp) <;> done)
@[simp] theorem State.nextCycle_mem (σ : State) : (State.nextCycle σ).mem = σ.mem := by
  first
  | (unfold State.nextCycle; simp; done)
  | rfl
  | (unfold State.nextCycle; (repeat' split) <;> simp <;> done)
  | (unfold State.nextCycle; dsimp only; (repeat' split) <;> (try simp) <;> (repeat' split) <;> simp <;> done)
  | (unfold State.nextCycle; dsimp only; (repeat' split) <;> first | (simp; done) | (rw [foldl_mem] <;> (try intro σ b) <;> (repeat' split) <;> simp <;> done))
  | (unfold State.nextCycle; dsimp only; (repeat' split) <;> (try simp) <;> (try (rw [foldl_mem] <;> (try intro σ b))) <;> (repeat' split) <;> (try simp) <;> done)
@[simp] theorem State.addTally_mem (σ : State) (l : List Tally) : (State.addTally σ l).mem = σ.mem := by
  unfold State.addTally
  exact foldl_mem _ (fun τ x => by split <;> simp) _ _
@[simp] theorem State.addNotes_mem (σ : State) (l : List Note) : (State.addNotes σ l).mem = σ.mem := by
  first
  | (unfold State.addNotes; simp; done)
  | rfl
  | (unfold State.addNotes; (repeat' split) <;> simp <;> done)
  | (unfold State.addNotes; dsimp only; (repeat' split) <;> (try simp) <;> (repeat' split) <;> simp <;> done)
  | (unfold State.addNotes; dsimp only; (repeat' split) <;> first | (simp; done) | (rw [foldl_mem] <;> (try intro σ b) <;> (repeat' split) <;> simp <;> done))
  | (unfold State.addNotes; dsimp only; (repeat' split) <;> (try simp) <;> (try (rw [foldl_mem] <;> (try intro σ b))) <;> (repeat' split) <;> (try simp) <;> done)
@[simp] theorem State.pokeWord_mem (σ : State) (pa n w : Nat) : (State.pokeWord σ pa n w).mem = σ.mem := by
  unfold State.pokeWord; exact foldl_mem _ (by intro σ b; (try dsimp only); (repeat' split) <;> simp) _ _
@[simp] theorem State.mapFrame_mem (σ : State) (vf kind va : Nat) : (State.mapFrame σ vf kind va).mem = σ.mem := by
  unfold State.mapFrame
  simp
@[simp] theorem State.holdLot_mem (σ : State) : (State.holdLot σ).mem = σ.mem := by
  unfold State.holdLot
  (repeat' split) <;> simp
@[simp] theorem State.runProgram_mem (σ : State) (e : Nat) : (State.runProgram σ e).mem = σ.mem := by
  unfold State.runProgram
  simp
@[simp] theorem State.openSlot_mem (σ : State) : (State.openSlot σ).mem = σ.mem := by
  first
  | (unfold State.openSlot; simp; done)
  | rfl
  | (unfold State.openSlot; (repeat' split) <;> simp <;> done)
  | (unfold State.openSlot; dsimp only; (repeat' split) <;> (try simp) <;> (repeat' split) <;> simp <;> done)
  | (unfold State.openSlot; dsimp only; (repeat' split) <;> first | (simp; done) | (rw [foldl_mem] <;> (try intro σ b) <;> (repeat' split) <;> simp <;> done))
  | (unfold State.openSlot; dsimp only; (repeat' split) <;> (try simp) <;> (try (rw [foldl_mem] <;> (try intro σ b))) <;> (repeat' split) <;> (try simp) <;> done)
@[simp] theorem State.placeWord_mem (σ : State) (w : Nat) : (State.placeWord σ w).mem = σ.mem := by
  unfold State.placeWord
  (repeat' split) <;> simp

/-! ## What changes sealed memory and keeps its form -/

/-- A fold of updates that keep the canonical form keeps it. -/
theorem foldl_wf {β : Type} (f : State → β → State) (h : ∀ σ b, memWf σ.mem = true → memWf (f σ b).mem = true) (l : List β)
    {σ : State} (w : memWf σ.mem = true) : memWf (l.foldl f σ).mem = true := by
  induction l generalizing σ with
  | nil => exact w
  | cons b l ih => exact ih (h σ b w)

theorem State.merged_wf {σ : State} (n : Nat) (w : memWf σ.mem = true) : memWf (σ.merged n) = true := by
  unfold State.merged
  dsimp only
  refine memWf_foldl _ _ _ _ ?_
  split
  · exact memWf_memDrop _ _ _ w
  · exact w

theorem State.sealTile_wf {σ : State} (n ver kgen : Nat) (w : memWf σ.mem = true) : memWf (σ.sealTile n ver kgen).mem = true := by
  unfold State.sealTile
  dsimp only
  rw [State.dropDirty_mem]
  split
  · simpa using w
  · exact State.merged_wf n w

theorem State.copyTile_wf {σ : State} (s d ver gen : Nat) (w : memWf σ.mem = true) : memWf (σ.copyTile s d ver gen).mem = true := by
  unfold State.copyTile
  dsimp only
  split
  · simpa using w
  · exact memWf_foldl _ _ _ _ (memWf_memDrop _ _ _ (by simpa using w))

theorem State.zeroFrame_wf {σ : State} (f gen era : Nat) (wr : Bool) (w : memWf σ.mem = true) :
    memWf (σ.zeroFrame f gen era wr).mem = true := by
  unfold State.zeroFrame
  dsimp only
  rw [State.setFrameRec_mem, foldl_mem _ (fun σ b => by simp), State.dropDirty_mem]
  exact w

theorem State.flushTile_wf {σ : State} (t : Nat) (w : memWf σ.mem = true) : memWf (σ.flushTile t).mem = true := by
  unfold State.flushTile
  dsimp only
  (repeat' split)
  · exact w
  · simpa using w
  · exact w
  · rw [State.markDirty_mem]; exact State.sealTile_wf _ _ _ w

theorem State.flushFrame_wf {σ : State} (f : Nat) (w : memWf σ.mem = true) : memWf (σ.flushFrame f).mem = true :=
  foldl_wf _ (fun _ b w => State.flushTile_wf b w) _ w

theorem State.copyFrame_wf {σ : State} (vf src dst : Nat) (w : memWf σ.mem = true) : memWf (σ.copyFrame vf src dst).mem = true := by
  unfold State.copyFrame
  dsimp only
  rw [State.setFrameRec_mem, State.dropDirty_mem]
  refine foldl_wf _ (fun _ b w => State.copyTile_wf _ _ _ _ w) _ ?_
  rw [State.dropDirty_mem]
  exact State.flushFrame_wf src w

theorem State.reseal_wf {σ : State} (vf f : Nat) (w : memWf σ.mem = true) : memWf (σ.reseal vf f).mem = true := by
  unfold State.reseal
  dsimp only
  split
  · simpa using w
  · rw [State.markDirty_mem, State.setFrameRec_mem]
    refine foldl_wf _ (fun σ b w => ?_) _ w
    split
    · exact w
    · exact State.sealTile_wf _ _ _ w

theorem State.metaRoom_mem {σ τ : State} {f new : Nat} (h : σ.metaRoom f new = some τ) : τ.mem = σ.mem := by
  unfold State.metaRoom at h
  simp only [] at h
  split at h
  · cases h; rfl
  · split at h
    · cases h; rfl
    · split at h
      · contradiction
      · cases h; simp

theorem State.giveFrame_wf {σ : State} (f new : Nat) (w : memWf σ.mem = true) : memWf (σ.giveFrame f new).mem = true := by
  unfold State.giveFrame
  dsimp only
  split
  · exact w
  · split
    · simpa using w
    · split
      · simpa using w
      · rename_i h
        rw [State.setFrameRec_mem]
        exact State.zeroFrame_wf _ _ _ _ (by rw [State.drawKeys_mem, State.metaRoom_mem h]; exact w)

/-! ## What goes on by itself -/

theorem State.areaAtLast_mem {σ τ : State} {t : Nat} (h : σ.areaAtLast t = some τ) : τ.mem = σ.mem := by
  unfold State.areaAtLast at h
  dsimp only at h
  split at h
  · cases h; rfl
  · contradiction
  · split at h <;> (cases h; simp)
@[simp] theorem State.areaAtLast_getD_mem (σ : State) (t : Nat) : ((σ.areaAtLast t).getD σ).mem = σ.mem := by
  cases h : σ.areaAtLast t with
  | none => rfl
  | some τ => exact State.areaAtLast_mem h

/-- Of what goes on by itself only a loader command that waited (R363) can change sealed memory, by a page that moves, where no trap that
comes before a save does (R376). -/
theorem State.settleUnits_mem (σ : State) (save : ∀ (τ : State) (c k : Nat), (τ.settleSave c k).mem = τ.mem) :
    σ.settleUnits.mem = (if σ.arrivals.isEmpty then σ else σ.arrivalRetry).loadRetry.mem := by
  unfold State.settleUnits
  dsimp only
  rw [foldl_mem _ (fun σ b => by simp), foldl_mem _ (fun σ b => by simp), foldl_mem _ (fun σ b => save _ _ _), foldl_mem _ (fun σ b => by simp),
    foldl_mem _ (fun σ b => by simp), foldl_mem _ (fun σ b => by simp), State.rwRetry_mem]

theorem State.settle_mem (σ : State) (save : ∀ (τ : State) (c k : Nat), (τ.settleSave c k).mem = τ.mem) :
    σ.settle.mem = (if σ.endLeft.arrivals.isEmpty then σ.endLeft else σ.endLeft.arrivalRetry).loadRetry.mem := by
  unfold State.settle
  dsimp only
  rw [foldl_mem _ (fun σ b => by simp)]
  split
  · rw [foldl_mem _ (fun σ b => by split <;> simp), foldl_mem _ (fun σ b => by simp), foldl_mem _ (fun σ b => by simp), State.settleUnits_mem _ save]
  · rw [State.fabricLate_mem, foldl_mem _ (fun σ b => by split <;> simp), foldl_mem _ (fun σ b => by simp),
      foldl_mem _ (fun σ b => by simp), State.settleUnits_mem _ save]

/-- With no command waiting, the retry is nothing. -/
theorem State.loadRetry_none {σ : State} (h : σ.loading = none) : σ.loadRetry = σ := by
  unfold State.loadRetry
  rw [h]

/-- A partition's counts of a cycle. -/
theorem State.countThree_mem (l : List Nat) (p : Nat) (σ : State) :
    (l.foldl (fun (σ : State) e => σ.tickFresh.count p 0 e (Config.freeWord σ.fresh).toNat) σ).mem = σ.mem := by
  induction l generalizing σ with
  | nil => rfl
  | cons e l ih => rw [List.foldl_cons, ih, State.count_mem, State.tickFresh_mem]
theorem State.countCycle_mem (σ : State) : σ.countCycle.mem = σ.mem := by
  unfold State.countCycle
  generalize σ.observed = l
  induction l generalizing σ with
  | nil => rfl
  | cons p l ih => rw [List.foldl_cons, ih, State.countThree_mem, State.count_mem]

/-- What telemetry makes of a step leaves sealed memory as the step left it. -/
theorem State.observe_mem (old new : State) (a : Act) : (State.observe old a new).mem = new.mem := by
  unfold State.observe
  split
  · rfl
  · rw [State.addNotes_mem, State.addTally_mem]
theorem State.observeCycle_mem (old new : State) : (old.observeCycle new).mem = new.mem := by
  unfold State.observeCycle
  split
  · rfl
  · rw [State.addNotes_mem, State.addTally_mem, State.countCycle_mem]

/-! ## Checks that answer a state -/

theorem State.ownerTouch_mem {σ τ : State} {core slot slab : Nat} (h : σ.ownerTouch core slot slab = .ok τ) : τ.mem = σ.mem := by
  unfold State.ownerTouch at h
  dsimp only at h
  (repeat' split at h) <;> first | contradiction | (cases h; simp)

theorem State.touchAll_mem {core slot : Nat} {l : List Nat} {σ τ : State} (h : State.touchAll σ core slot l = .ok τ) : τ.mem = σ.mem := by
  induction l generalizing σ with
  | nil => cases h; rfl
  | cons j r ih =>
    unfold State.touchAll at h
    split at h
    · rename_i ht; exact (ih h).trans (State.ownerTouch_mem ht)
    · contradiction

theorem State.storeG_mem {σ τ : State} {core ctx n v : Nat} {va : Word} (h : σ.storeG core ctx va n v = .ok τ) : τ.mem = σ.mem := by
  unfold State.storeG at h
  (repeat' split at h) <;> first | contradiction | (cases h; simp)

/-- Everything a translation through a table can answer: a cause of R65, or the frame's byte of a valid, resident entry (R65). -/
theorem xlate_ok {t : Table} {va : Word} {kind : Kind} {op : GOp} {x : Xl} (h : xlate t va kind op = .ok x) :
    let e := Tbl.get t.entries 0 (va.toNat / 2 ^ granLog t)
    t.valid = true ∧ entV e = true ∧ entRes e = true
      ∧ x = { pa := entFrame e * 2 ^ 21 + va.toNat % 2 ^ granLog t, cls := entClass e, frame := entFrame e, off := va.toNat % 2 ^ granLog t } := by
  unfold xlate at h
  dsimp only at h ⊢
  (repeat' split at h) <;> first | contradiction | (cases h; simp_all)

/-- A store never reaches an entry without WR or with COW. -/
theorem xlate_write {t : Table} {va : Word} {op : GOp} {x : Xl} (h : xlate t va .write op = .ok x) :
    entWr (Tbl.get t.entries 0 (va.toNat / 2 ^ granLog t)) = true ∧ entCow (Tbl.get t.entries 0 (va.toNat / 2 ^ granLog t)) = false := by
  unfold xlate at h
  dsimp only at h
  (repeat' split at h) <;> first | contradiction | (cases h; simp_all)

/-- The trap of a firmware word halts the context and changes no user slot. -/
theorem State.takeTrap_fw (σ : State) (core : Nat) (tr : Tr) (h : tr.cause ≠ causeSealFail) :
    σ.takeTrap core Config.fwCtx tr = σ.haltFirmware core := by
  unfold State.takeTrap; simp [h]

/-- The accounting of a killed node's cause never stops the step: a trap is a next state. -/
theorem State.trap_next (σ : State) (tr : Tr) : σ.trap tr = .next (σ.takeTrap σ.core σ.ctx tr) := rfl
theorem State.trapWith_next (σ : State) (c : Nat) (d : Word) :
    σ.trapWith c d = .next (σ.takeTrap σ.core σ.ctx { cause := c, detail := d }) := rfl

end Sys2Proof.Machine
end

