-- ==== Sys2Proof/Laws/Records.lean ====
section
/-!
SUPPORT. An exported byte string (R411): where its sealed bytes stand in memory, opening them under the same key gives the string back.
-/

set_option linter.all false

namespace Sys2Proof.Machine

/-- Little-endian bytes read as a number give the number they were made of. -/
theorem foldr_bytes (n : Nat) : ∀ (f : Nat → Byte) (v : Nat), (∀ i < n, f i = BitVec.ofNat 8 (v / 256 ^ i)) →
    (List.range n).foldr (fun i a => (f i).toNat + 256 * a) 0 = v % 256 ^ n := by
  induction n with
  | zero => intro f v _; simp [Nat.mod_one]
  | succ n ih =>
    intro f v h
    rw [List.range_succ_eq_map, List.foldr_cons, List.foldr_map, ih (fun i => f (i + 1)) (v / 256)]
    · rw [h 0 (by omega), Nat.pow_succ', Nat.mod_mul]; simp
    · intro i hi
      show f (i + 1) = _
      rw [h (i + 1) (by omega), Nat.pow_succ', Nat.div_div_eq_div_mul]

theorem memNat_bytes (s : State) (a n v : Nat) (h : ∀ i < n, s.memByte (a + i) = BitVec.ofNat 8 (v / 256 ^ i)) : s.memNat a n = v % 256 ^ n :=
  foldr_bytes n (fun i => s.memByte (a + i)) v h

theorem gcmCrypt_length (ks : List (List Nat)) (nonce : BitVec 96) (l : List Byte) : (gcmCrypt ks nonce l).length = l.length := by simp [gcmCrypt]

/-- The stream of a key and a nonce, laid over a string twice, gives the string. -/
theorem gcmCrypt_twice (ks : List (List Nat)) (nonce : BitVec 96) (l : List Byte) : gcmCrypt ks nonce (gcmCrypt ks nonce l) = l := by
  apply List.ext_getElem (by simp [gcmCrypt])
  intro i h1 h2
  simp [gcmCrypt, BitVec.xor_assoc]

theorem natBytes_getD (n v i : Nat) (h : i < n) : (natBytes n v).getD i 0 = BitVec.ofNat 8 (v / 256 ^ i) := by
  simp [natBytes, List.getD, h]

/-- A state whose memory holds a sealed string at an address opens it there. -/
theorem openRecord_sealed (s : State) (key : BitVec 256) (nonce : BitVec 96) (p : List Byte) (a : Nat) (hp : p.length < 2 ^ 64)
    (h : ∀ i < p.length + 36, s.memByte (a + i) = (sealRecord key nonce p).getD i 0) : s.openRecord key a = (p.length + 36, some p) := by
  have lc : (gcmCrypt (roundKeys key) nonce p).length = p.length := gcmCrypt_length _ _ _
  have at' : ∀ i < p.length + 36, s.memByte (a + i) =
      if i < 8 then BitVec.ofNat 8 (p.length / 256 ^ i) else if i < 20 then BitVec.ofNat 8 (nonce.toNat / 256 ^ (i - 8))
      else if i < p.length + 20 then (gcmCrypt (roundKeys key) nonce p).getD (i - 20) 0
      else BitVec.ofNat 8 ((gcmTag (roundKeys key) nonce (gcmCrypt (roundKeys key) nonce p)).toNat / 256 ^ (i - 20 - p.length)) := by
    intro i hi
    rw [h i hi]
    have l8 : (natBytes 8 p.length).length = 8 := by simp [natBytes]
    have l12 : (natBytes 12 nonce.toNat).length = 12 := by simp [natBytes]
    simp only [sealRecord, lc]
    split_ifs with h1 h2 h3
    · rw [List.getD_append _ _ _ _ (by simp [l8, l12, lc]; omega), List.getD_append _ _ _ _ (by simp [l8, l12]; omega),
        List.getD_append _ _ _ _ (by omega), natBytes_getD _ _ _ h1]
    · rw [List.getD_append _ _ _ _ (by simp [l8, l12, lc]; omega), List.getD_append _ _ _ _ (by simp [l8, l12]; omega),
        List.getD_append_right _ _ _ _ (by omega), l8, natBytes_getD _ _ _ (by omega)]
    · rw [List.getD_append _ _ _ _ (by simp [l8, l12, lc]; omega), List.getD_append_right _ _ _ _ (by simp [l8, l12]; omega)]
      simp [l8, l12]
    · rw [List.getD_append_right _ _ _ _ (by simp [l8, l12, lc]; omega), natBytes_getD _ _ _ (by simp [l8, l12, lc]; omega)]
      simp [l8, l12, lc]
      congr 3
      omega
  have e8 : s.memNat a 8 = p.length := by
    rw [memNat_bytes s a 8 p.length fun i hi => by rw [at' i (by omega), if_pos hi]]
    exact Nat.mod_eq_of_lt hp
  have e12 : BitVec.ofNat 96 (s.memNat (a + 8) 12) = nonce := by
    rw [memNat_bytes s (a + 8) 12 nonce.toNat fun i hi => by
      rw [Nat.add_assoc, at' (8 + i) (by omega), if_neg (by omega), if_pos (by omega)]; congr 3; omega]
    rw [show (256 : Nat) ^ 12 = 2 ^ 96 by norm_num, Nat.mod_eq_of_lt nonce.isLt, BitVec.ofNat_toNat, BitVec.setWidth_eq]
  have ec : ((List.range p.length).map fun i => s.memByte (a + 20 + i)) = gcmCrypt (roundKeys key) nonce p := by
    apply List.ext_getElem (by simp [lc])
    intro i h1 h2
    have hi : i < p.length := by simpa using h1
    rw [List.getElem_map, List.getElem_range, Nat.add_assoc, at' (20 + i) (by omega), if_neg (by omega), if_neg (by omega), if_pos (by omega)]
    rw [show 20 + i - 20 = i by omega, List.getD_eq_getElem _ _ h2]
  have et : BitVec.ofNat 128 (s.memNat (a + 20 + p.length) 16) = gcmTag (roundKeys key) nonce (gcmCrypt (roundKeys key) nonce p) := by
    rw [memNat_bytes s (a + 20 + p.length) 16 (gcmTag (roundKeys key) nonce (gcmCrypt (roundKeys key) nonce p)).toNat fun i hi => by
      rw [show a + 20 + p.length + i = a + (20 + p.length + i) by omega, at' (20 + p.length + i) (by omega), if_neg (by omega), if_neg (by omega),
        if_neg (by omega)]
      congr 3; omega]
    rw [show (256 : Nat) ^ 16 = 2 ^ 128 by norm_num, Nat.mod_eq_of_lt (BitVec.isLt _), BitVec.ofNat_toNat, BitVec.setWidth_eq]
  simp only [State.openRecord, e8, e12, ec, et, if_true, gcmCrypt_twice]

end Sys2Proof.Machine
end

