-- ==== Sys2Proof/Tests/Slice0.lean ====
section
/-!
SUPPORT. Tests of the model: ill-formed instructions are refused, words written out from the spec's encodings decode to what they
stand for, single steps give what the spec's own examples give, and every statement's hypotheses are met by a concrete state.
-/

set_option linter.all false

open Sys2Proof Sys2Proof.Machine

namespace Sys2Proof.Tests

set_option Elab.async false

/-! ## Well-formedness: an ill-formed term for each check -/

theorem test_wf_control : [Instr.cmp 1 11 2 3, .cmpi 1 15 2 0, .xferL 0 1 0 1 31, .xferR 0 1 1 31, .atom 1 2 3 10 0 0 0 0, .atom 1 2 3 9 1 0 0 0,
    .atom 1 2 3 0 0 0 0 6, .acas 1 2 3 4 0 0 7, .mkdep 0 1, .mkrdT 0 1 1 2, .mkrdT 3 1 2 2, .mkrdW 1 2 3, .mktakeT 0 1 1 2, .mktakeT 3 1 4 2, .mktakeW 1 0 3,
    .mark 1 0 0, .rdvSet 1 2 0, .qdrop 1 0, .fenceX 0 1 0, .fenceX 1 0 0, .fenceX 1 1 6, .leaseW 1 2 5, .leaseT 1 7, .split 5].all (fun i => !i.wf) = true := by
  decide

theorem test_wf_vector : [Instr.vadd 1 2 3 1 0 0, .vsel 1 2 3 0 1 0, .vceq 0 1 2 0 0 0, .vcge 1 2 3 1 0 0, .vmov 1 2 1 0, .vcvt 1 2 5 0 0 0, .vcvt 1 2 0 11 0 0,
    .vcvt 1 2 0 0 1 0, .vqnt 1 2 5 0 0 0, .vshli 1 2 32 0, .vshri 1 2 511 0, .vsta 1 2 0 1 0, .vstc 1 2 0 1 0, .vscat 1 2 0 1 0, .vatom 1 2 10 3 0,
    .vshuf 1 2 6 0 0, .vshuf 1 2 3 1 0, .vred 1 2 6 0 0, .vscan 1 2 7 0 0, .vplog 0 1 2 3 0, .vplog 1 2 5 3 0, .vplog 1 2 4 3 0, .vfl 0 0 1, .vfl 1 0 6,
    .exp2 1 2 1 0, .vpopc 1 2 1 0].all (fun i => !i.wf) = true := by decide

theorem test_wf_steps : [Instr.mma 0 0 0 1 1 2 3 0, .mma 1 0 0 6 1 2 3 0, .mma 1 0 0 1 1 2 3 3, .conv 1 0 0 1 1 2 3 3 0, .accz 0 0 1 0 0, .swait 0 0 0 1 0,
    .swait 0 0 0 1 4097, .sadv 1 0 1 1 0, .linkcfg 0 0 0 4 0 0 1, .linkcfg 0 0 0 3 0 5 1, .matNop 0 1 7, .cld 0 0 0 0 1 0 2 3, .cld 1 0 0 1 1 6 2 3, .cstq 0 0 1 2 3 0 0,
    .cstq 0 1 1 2 3 5 0, .cmc 0 1 1 2 3 0, .cmc 0 0 1 2 3 1, .cga 0 0 1 1 2 3, .crw 0 0 1 1 2, .cldm 0 0 1 1 2 0 0, .cwt 0 0 0 0 1 0, .cadv 0 0 0 1 1 1,
    .cnop 0 0 0 2].all (fun i => !i.wf) = true := by decide

theorem test_wf_rink : (Instr.rv64gc 0x0000000B).wf = false := by decide

theorem test_wf_events : [Instr.stepBudget 0 1, .episodeArm 65 1, .quantumExpiry 128, .episodePlace 4, .taskDispatch 32 0, .lotComplete 0 4, .allocatorDecision 32,
    .fragmentDrained 0 4, .passRetire 32 0, .engineCommandStart 0 16, .copyStepComplete 0 8 0, .accForeign 0 2048 0, .hostMemAccess true 0 3 0, .queueKick 1 64,
    .queueCancel 0 1 0, .packetAccept 4, .polupd 65 0, .vfbindWrite 0 0, .corecfgWrite 32 0, .sliceTurnEnd 32, .evctlWrite 32 0, .linkUp 18 0,
    .tagParity 64 0 0 true, .tagParity 0 2048 0 true, .memUe 8 0 0 true, .watchdog 34, .spdmGetVersion 65, .spdmFinish 65].all (fun i => !i.wf) = true := by decide

/-! ## Decoding: words from the spec's encodings -/

/-- 07 "Encodings worked through". -/
theorem test_decode_worked : decode .ctl 0x0862FFFB = some (.addi 3 2 0xFFFB) ∧ decode .ctl 0x4086C005 = some (.ld 4 6 3 5)
    ∧ decode .vec 0x040828A8 = some (.vadd 1 2 0x45 0 1 0) ∧ decode .mat 0x0C2244B0 = some (.mma 1 0 0 1 1 2 300 0)
    ∧ decode .copy 0x08920A28 = some (.cldRing 0 0 0 1 9 0 2 5) ∧ decode .rink 0x00B5100B = some (.mbSend 11 10) ∧ decode .ctl 0x8862FFFB = none := by
  decide

/-- 08 R165 and its example of a call: the words of two kernels. -/
theorem test_decode_kernels : decode .ctl 0x1C400005 = some (.li 2 5) ∧ decode .ctl 0x30800001 = some (.prep 1 1) ∧ decode .ctl 0x2CA08001 = some (.cmpi 1 4 2 1)
    ∧ decode .ctl 0x34900000 = some (.xfer 1 1) ∧ decode .ctl 0x04631000 = some (.add 3 3 2) ∧ decode .ctl 0x0842FFFF = some (.addi 2 2 0xFFFF)
    ∧ decode .ctl 0x4C60C000 = some (.stl 3 0 3 0) ∧ decode .ctl 0xC8000001 = some .exit ∧ decode .ctl 0x3472F800 = some (.xferR 7 0 0 31)
    ∧ decode .ctl 0x37F1F800 = some (.xferL 7 7 0 0 31) ∧ decode .ctl 0x98050000 = some (.phase 5) := by decide

/-- R145 and R147, bit by bit: major 0x01, rd 7, rs 8, rt 9, each minor. -/
theorem test_decode_register : decode .ctl 0b000001_00111_01000_01001_00000000001 = some (.sub 7 8 9) ∧ decode .ctl 0b000001_00111_01000_01001_00000001000 = some (.sra 7 8 9)
    ∧ decode .ctl 0b000001_00111_01000_01001_00000010001 = some (.min 7 8 9) ∧ decode .ctl 0b000001_00111_01000_00000_00000010111 = some (.clz 7 8)
    ∧ decode .ctl 0b000001_00111_00000_10100_00000011110 = none ∧ decode .ctl 0b000001_00111_00000_00101_00000011110 = some (.movf 7 5)
    ∧ decode .ctl 0b000001_00111_00000_10100_00000100000 = none := by decide

/-- R142 to R144: words that are no instruction. -/
theorem test_decode_refuses : decode .ctl 0 = none ∧ decode .vec 0 = none ∧ decode .mat 0 = none ∧ decode .copy 0 = none ∧ decode .mat 0x0C2244B3 = none
    ∧ decode .rink 0x0200000B = none ∧ decode .rink 0x0000500B = none := by decide


/-! ## The states that meet the statements' hypotheses -/

/-- Slot 0 of core 0 runs a lot of VF 1, whose translation table maps four granules: 0 normal, 1 of the Market, 2 of the host
and 3 a fabric window. -/
def user (c : Ctx) : State :=
  { ctxs := [(0, { c with task := some 0 })], tasks := [(0, { node := 0, state := .running, next := 1, hi := 1 })],
    nodes := [(0, { vf := 1, veclen := 4, matlen := 4, xferlen := 4, lots := 1 })], nextTask := 1, nextNode := 1,
    tables := [(4, { valid := true, entries := [(0, 0x511E), (1, 0x615E), (2, 0x71DE), (3, 0x819E)] })],
    frames := [(5, { owner := 1 }), (6, { owner := 1 }), (7, { owner := 1 })], bar := [(0x3808, 8)], imports := [(8, [3])] }

/-- The same in the firmware context. -/
def firm (c : Ctx) : State := { ctx := 4, ctxs := [(4, c)] }

theorem witness_TransfersOfControl :
    (let c : Ctx := { b := [(1, 0x8000)], s := [(1, 0x8002)], f := [(1, true)] }
     let s := user c
     s.cx.pslots = 0 ∧ s.cx.flag 1 = true ∧ s.cx.flag 0 = false ∧ (s.cx.breg 1).toNat % 4 = 0 ∧ (s.cx.sreg 0).toNat % 4 = 0 ∧ (s.cx.sreg 1).toNat % 4 ≠ 0)
    ∧ (user { b := [(1, 0x8003)] }).cx.pslots = 0 ∧ ((user { b := [(1, 0x8003)] }).cx.breg 1).toNat % 4 ≠ 0
    ∧ (user { pslots := 2, npc := 64 }).cx.pslots = 2 ∧ (user { pslots := 1, npc := 64 }).cx.pslots = 1 ∧ (user { pslots := 1 }).cx.pslots ≠ 0 := by
  decide +kernel

theorem witness_FlagsAndVotes : (user {}).ctx < 4 ∧ ((user {}).engOf 0 0).queue = [] ∧ ((user {}).engOf 0 0).run = none
    ∧ (({ user {} with engs := [(0, { queue := [{ id := 0, kind := .marker 0 false }] })] } : State).engOf 0 0).queue ≠ []
    ∧ (({ user {} with engs := [(0, { run := some {} })] } : State).engOf 0 0).run.isSome = true := by decide +kernel

/-- A load of the first and of the last double word of the granule. -/
theorem witness_LoadFromG : ∀ a ∈ [0, 0x1FFFF8], let s := user { s := [(1, BitVec.ofNat 64 a)] }
    let x : Xl := { pa := 5 * 2 ^ 21 + a, cls := 0, frame := 5, off := a }
    (addrM s 1 3 0).toNat % 8 = 0 ∧ (s.translate 0 0 (addrM s 1 3 0) .read .plain).toOption = some x ∧ x.cls ≠ 2
      ∧ (s.accessCheck (s.vfOf 0 0) x.pa 8 (addrM s 1 3 0)).toOption = some () ∧ metaTile x.pa = none := by decide +kernel

theorem witness_StoreToMemory :
    (∀ l ∈ [[], [5 * 2 ^ 15]], let s := user { s := [(1, 8)], lines := l }
      let x : Xl := { pa := 5 * 2 ^ 21 + 8, cls := 0, frame := 5, off := 8 }
      s.ctx < 4 ∧ (addrM s 1 3 0).toNat % 8 = 0 ∧ (s.translate 0 0 (addrM s 1 3 0) .write .plain).toOption = some x ∧ x.cls ≠ 2
        ∧ (s.accessCheck (s.vfOf 0 0) x.pa 8 (addrM s 1 3 0)).toOption = some () ∧ (x.pa / 64 ∈ s.cx.lines ∨ s.cx.lines.length < 8192))
    ∧ metaTile (addrM (firm { s := [(1, 0x7F8000A008)] }) 1 3 0).toNat = some 2560
    ∧ ∀ a ∈ [0, 0x7FFFF8], let s := firm { s := [(1, BitVec.ofNat 64 a)] }
      s.ctx = 4 ∧ metaTile (addrM s 1 3 0).toNat = none ∧ (addrM s 1 3 0).toNat % 8 = 0 ∧ (addrM s 1 3 0).toNat < 2 ^ 41 ∧ (s.accessCheck 0 (addrM s 1 3 0).toNat 8 (addrM s 1 3 0)).toOption = some () := by
  decide +kernel

theorem witness_BufferAccess :
    (let s := user { s := [(1, 65528)] }; (addrM s 1 3 0).toNat % 8 = 0 ∧ (addrM s 1 3 0).toNat + 8 ≤ 65536)
    ∧ (let s := user { s := [(1, 65528)], asize := 65536 }; (addrM s 1 3 0).toNat % 8 = 0 ∧ (addrM s 1 3 0).toNat + 8 ≤ s.cx.asize ∧ s.cx.asize ≤ 2 ^ 24)
    ∧ ∀ own ∈ [0, 7], let s := { user { s := [(1, 0x7FFFFC)] } with accown := [(2047, own)] }
      let a := (s.cx.sreg 1 + (0 : BitVec 14).signExtend 64 * 4).toNat
      a % 4 = 0 ∧ a + 4 ≤ 2 ^ 23 ∧ s.ctx < 4 ∧ Tbl.get s.accown 7 (a / 4096) = own ∧ s.pendingAt 0 0 (a / 4096) s.cx.cmdNo = 0
        ∧ ({ s with frags := [(0, { state := 1 })], engs := [(4, { run := some {} })] }).pendingAt 0 0 0 (s.cx.cmdNo + 1) ≠ 0 := by
  decide +kernel

/-- Each way to be refused, at the first address beyond the table where there is one; and an access that is not refused. -/
theorem witness_AccessChecks :
    (let t : Table := { valid := true, entries := [(0, 0x511E), (1, 0x501E), (2, 0x515E), (3, 0x511C), (4, 0x5116), (5, 0x510E), (6, 0x511A), (7, 0x513E)] }
     let e (i : Nat) := Tbl.get t.entries 0 i
     32768 ≤ (32768 * 2 ^ 21 : Word).toNat / 2 ^ 21 ∧ ({} : Table).valid = false ∧ (e 1).getLsbD 8 = false ∧ classMismatch .plain ((e 2).toNat / 64 % 4) = true
      ∧ (e 3).getLsbD 1 = false ∧ (e 4).getLsbD 3 = false ∧ (e 5).getLsbD 4 = false ∧ ((e 6).getLsbD 4 = true ∧ (e 6).getLsbD 2 = false)
      ∧ ((e 7).getLsbD 4 = true ∧ (e 7).getLsbD 2 = true ∧ (e 7).getLsbD 5 = true)
      ∧ (t.valid = true ∧ (e 0).getLsbD 8 = true ∧ classMismatch .plain ((e 0).toNat / 64 % 4) = false ∧ (e 0).getLsbD 1 = true ∧ (e 0).getLsbD 3 = true
          ∧ (e 0).getLsbD 4 = true ∧ (e 0).getLsbD 2 = true ∧ (e 0).getLsbD 5 = false))
    ∧ (let s := user { s := [(1, 1), (2, 65536), (3, 2 ^ 23), (4, 4 * 2 ^ 21)] }
       (addrM s 1 3 0).toNat % 8 ≠ 0 ∧ (s.cx.sreg 1 + (0 : BitVec 14).signExtend 64 * 4).toNat % 4 ≠ 0
        ∧ ((addrM s 2 3 0).toNat % 8 = 0 ∧ 65536 < (addrM s 2 3 0).toNat + 8 ∧ s.cx.asize < (addrM s 2 3 0).toNat + 8)
        ∧ ((s.cx.sreg 3 + (0 : BitVec 14).signExtend 64 * 4).toNat % 4 = 0 ∧ 2 ^ 23 < (s.cx.sreg 3 + (0 : BitVec 14).signExtend 64 * 4).toNat + 4)
        ∧ ((addrM s 4 3 0).toNat % 8 = 0 ∧ (s.translate 0 0 (addrM s 4 3 0) .read .plain).toOption = none
            ∧ (s.translate 0 0 (addrM s 4 3 0) .write .plain).toOption = none))
    ∧ (let s := { user { s := [(1, 8)] } with frames := [(5, { owner := 2 })] }
       s.ctx < 4 ∧ (addrM s 1 3 0).toNat % 8 = 0
        ∧ (s.translate 0 0 (addrM s 1 3 0) .write .plain).toOption = some { pa := 5 * 2 ^ 21 + 8, cls := 0, frame := 5, off := 8 }
        ∧ ownerMatches (s.vfOf 0 0) (s.frameRec 5).owner = false ∧ (s.accessCheck (s.vfOf 0 0) (5 * 2 ^ 21 + 8) 8 (addrM s 1 3 0)).toOption = none) := by
  decide +kernel

theorem witness_SystemRegisters :
    (let s := firm { s := [(1, 0), (2, 4)] }
     (∀ n ∈ [0, 1, 2, 14, 15, 0x7FFF, 0x8000, 0x8002, 0x8005, 0x8007, 0x8008], (BitVec.ofNat 16 n).toNat = n) ∧ (s.coreOf 0).plan < 16 ∧ (s.coreOf 0).pend < 8
      ∧ s.ctx = 4 ∧ (user {}).ctx ≠ 4 ∧ (s.coreOf 0).events = [] ∧ ({ s with cores := [(0, { events := [(1, 10)] })] }.coreOf 0).events = (1, 10) :: []
      ∧ ∀ j < 16, s.accCode 0 (16 * 127 + j) < 16)
    ∧ (∀ v ∈ [(0x1008 : Nat), 0x4000 ||| 2 ^ 18], let v : Word := BitVec.ofNat 64 v
        let s := user { s := [(1, v)] }
        s.ctx < 4 ∧ (s.cx.sreg 1).toNat % 16 ≤ 12 ∧ v.toNat / 16 % 2 ^ 11 ≠ 0 ∧ v.toNat / 16 % 2 ^ 11 ≤ 1024 / (typeBits (v.toNat % 16) / 8) ∧ v.getLsbD 15 = false
          ∧ v.toNat / 2 ^ 16 ≤ 4 ∧ (s.engOf 0 0).queue.length < 16
          ∧ 16 ≤ (({ s with engs := [(0, { queue := List.replicate 16 { id := 0, kind := .marker 0 false } })] } : State).engOf 0 0).queue.length)
    ∧ ¬((0x1000D : Word).toNat % 16 ≤ 12)
    ∧ (∀ v ∈ [0, 32], (BitVec.ofNat 64 v : Word).toNat % 64 ≤ 32) ∧ 32 < (33 : Word).toNat % 64
    ∧ (∀ v ∈ [1, 2 ^ 40 - 1], 1 ≤ (BitVec.ofNat 64 v : Word).toNat ∧ (BitVec.ofNat 64 v : Word).toNat < 2 ^ 40)
    ∧ (∀ v ∈ [0xA0A, 0x1818, 0x181E], let v : Word := BitVec.ofNat 64 v
        10 ≤ v.toNat / 2 ^ 8 % 32 ∧ v.toNat / 2 ^ 8 % 32 ≤ 24 ∧ 10 ≤ v.toNat % 32 ∧ v.toNat % 32 ≤ 30) := by decide +kernel

theorem witness_Atomics :
    (∀ w ∈ [0, 1], ∀ l ∈ [[], [5 * 2 ^ 15]], let s := user { s := [(1, 8), (2, 3)], lines := l }
      let x : Xl := { pa := 5 * 2 ^ 21 + 8, cls := 0, frame := 5, off := 8 }
      s.ctx < 4 ∧ (5 : BitVec 3).toNat ≤ 5 ∧ (s.cx.sreg 1).toNat % (4 * (w + 1)) = 0 ∧ (s.translate 0 0 (s.cx.sreg 1) .rmw .near).toOption = some x
        ∧ x.pa + 4 * (w + 1) ≤ 2 ^ 41 ∧ ownerMatches (s.vfOf 0 0) (s.frameRec (x.pa / 2 ^ 21)).owner = true ∧ s.sealOk x.pa = true
        ∧ (x.pa / 64 ∈ s.cx.lines ∨ s.cx.lines.length < 8192)
        ∧ (9 : BitVec 4).toNat ≤ 9 ∧ ¬((9 : BitVec 4).toNat = 9 ∧ (0 : BitVec 1) = 1) ∧ ¬((8 : BitVec 4).toNat = 9 ∧ (1 : BitVec 1) = 1)
        ∧ ∀ i < 8, s.cx.combAt (x.pa + i) = none)
    ∧ (∀ w ∈ [0, 1], let s := user { s := [(1, 8), (2, 3)] }
      let x : Xl := { pa := 5 * 2 ^ 21 + 8, cls := 0, frame := 5, off := 8 }
      (s.translate 0 0 (s.cx.sreg 1) .rmw .plain).toOption = some x ∧ x.cls ≠ 2
        ∧ (s.commitHere.accessCheck (s.vfOf 0 0) x.pa (4 * (w + 1)) (s.cx.sreg 1)).toOption = some ()) := by decide +kernel

theorem witness_CommitAndEffects :
    (let c : Ctx := { held := [(5 * 2 ^ 21, 7)], lines := [5 * 2 ^ 15] }
     (5 * 2 ^ 21, (7 : Byte)) ∈ c.held ∧ (∀ p ∈ c.held, p.1 = 5 * 2 ^ 21 → p.2 = 7) ∧ 5 * 2 ^ 21 < 2 ^ 41
      ∧ (∀ p ∈ c.combs, 5 * 2 ^ 21 < p.1 ∨ p.1 + p.2.width ≤ 5 * 2 ^ 21) ∧ (user c).slotArea 0 0 = none
      ∧ ownerMatches 1 ((user c).frameRec 5).owner = true ∧ ownerMatches 1 (({ user c with frames := [(5, { owner := 2 })] } : State).frameRec 5).owner = false)
    ∧ (let s := user { s := [(1, 8), (2, 2 ^ 48 - 1), (3, 1), (4, 63 * 256 + 1)] }
       let x : Xl := { pa := 5 * 2 ^ 21 + 8, cls := 0, frame := 5, off := 8 }
       s.ctx < 4 ∧ (s.cx.sreg 2).toNat < 2 ^ 48 ∧ (s.cx.sreg 1).toNat % 8 = 0 ∧ x.pa < 2 ^ 41
        ∧ (s.translate 0 0 (s.cx.sreg 1) .write .near).toOption = some x ∧ (s.translate 0 0 (s.cx.sreg 1) .rmw .near).toOption = some x
        ∧ ownerMatches (s.vfOf 0 0) (s.commitHere.frameRec 5).owner = true ∧ (s.commitHere.accessCheck (s.vfOf 0 0) x.pa 8 (s.cx.sreg 1)).toOption = some ()
        ∧ (s.cx.sreg 4).toNat < 2 ^ 14 ∧ (s.cx.sreg 4).toNat % 256 ≠ 0 ∧ (s.cx.sreg 4).toNat % 256 ≤ 64
        ∧ ({ s with queues := [(127, { en := true })] } : State).commitHere.kickAllowed 1 1 63 = true
        ∧ (({ s with queues := [(127, { en := true })] } : State).commitHere.queueOf 1 63).en = true)
    ∧ 4 ≤ (({ user {} with gates := [(4095, { state := 2, acts := List.replicate 4 { hdr := 0, data := [] } })] } : State).gateOf 4095).acts.length
    ∧ (∀ st ∈ [2, 3], let s := { user { s := [(1, 4095), (2, 8 * 2 ^ 32)], asize := 65536 } with gates := [(4095, { state := st, vf := 1 })] }
       s.cx.gateStall = none ∧ (s.gateCheck (s.cx.sreg 1) (s.cx.sreg 2) true).toOption = some () ∧ (s.gateOf 4095).state = st ∧ (s.gateOf 4095).acts.length < 4) := by
  decide +kernel

theorem witness_WaitingInstructions :
    (user {}).cx.task = some 0
    ∧ (let s := { user { s := [(1, 8), (2, 2 ^ 21), (3, 2 ^ 48 - 1), (4, 8 * 2 ^ 32), (5, 4095)], asize := 65536 } with gates := [(4095, { state := 2, vf := 1 })] }
       let h := s.releaseHeld 0 0
       let x : Xl := { pa := 5 * 2 ^ 21 + 8, cls := 0, frame := 5, off := 8 }
       let y : Xl := { pa := 6 * 2 ^ 21, cls := 1, frame := 6, off := 0 }
       let u := h.suspend (s.cx.sreg 3) 0
       s.cx.task = some 0 ∧ s.cx.pslots = 0 ∧ (s.cx.sreg 3).toNat < 2 ^ 48 ∧ h.lotQuiet 0 0 = true ∧ h.areaReady 0 0 = true
        ∧ ¬(({ s with bar := [] } : State).releaseHeld 0 0).areaReady 0 0 = true
        ∧ (s.cx.sreg 1).toNat % 8 = 0 ∧ (s.translate 0 0 (s.cx.sreg 1) .read .near).toOption = some x
        ∧ (s.accessCheck (s.vfOf 0 0) x.pa 8 (s.cx.sreg 1)).toOption = some ()
        ∧ watchHolds 0 ((u.fill x.pa).memNat x.pa 8) 0 = true ∧ watchHolds 0 ((u.fill x.pa).memNat x.pa 8) 1 = false
        ∧ (4 : BitVec 5).toNat % 8 ≤ 4 ∧ (s.gateCheck (s.cx.sreg 5) (s.cx.sreg 4) false).toOption = some () ∧ (u.gateOf 4095).obs = []
        ∧ (({ s with gates := [(4095, { state := 2, vf := 1, obs := [{ hdr := 0, data := [] }] })] } : State).releaseHeld 0 0).lotQuiet 0 0 = true
        ∧ s.ctx < 4 ∧ (1 : BitVec 8).getLsbD 0 = true ∧ (s.translate 0 0 (s.cx.sreg 2) .read .market).toOption = some y
        ∧ (s.translate 0 0 (s.cx.sreg 2) .rmw .market).toOption = some y ∧ s.mkOwner y = true
        ∧ (s.sliceOf (mkSlice 6 0)).find 6 1 [] = none
        ∧ (s.sliceOf (mkSlice 6 0)).parked.length + ((s.sliceOf (mkSlice 6 0)).tuples.filter fun t => decide (t.place = 2)).length < 1024
        ∧ (let m := { s with market := [(mkSlice 6 0, { tuples := [{ frame := 6, fields := List.replicate 8 0, seq := 0 }] })] }
           let tp : Tuple := { frame := 6, fields := List.replicate 8 0, seq := 0 }
           (m.sliceOf (mkSlice 6 0)).find 6 1 (List.replicate 8 0) = some tp ∧ m.mkSeal tp = true)) := by decide +kernel

theorem witness_EngineCommands :
    let s := { user { s := [(1, 0xF0000), (2, 0x1010000)] } with frags := [(0, { state := 1 }), (1, { state := 1 }), (2, { state := 1 }), (3, { state := 1 })], copies := [(0, { leased := true })] }
    let hd := handleOf (s.cx.sreg 1)
    let hc := handleOf (s.cx.sreg 2)
    s.ctx < 4 ∧ 3 < (s.nodeAt 0 0).veclen ∧ 3 < (s.nodeAt 0 0).matlen ∧ 3 < (s.nodeAt 0 0).xferlen
      ∧ (hd.copy = false ∧ s.current 0 0 hd = true ∧ ∀ x ∈ hd.units.map (· + 4), (s.engOf 0 x).queue.length < 16)
      ∧ (hc.copy = true ∧ s.current 0 0 hc = true ∧ (∀ x ∈ hc.units.map (· + 8), (s.engOf 0 x).queue.length < 16)
          ∧ ∀ g < 64, s.cx.outOf g + s.cx.resOf g + hc.units.length ≤ 255)
      ∧ 16 ≤ (({ s with engs := [(0, { queue := List.replicate 16 { id := 0, kind := .marker 0 false } })] } : State).engOf 0 0).queue.length
      ∧ (∀ x ∈ ((List.range 13).filter fun i => (0b111110001 : BitVec 13).getLsbD i).map (qEngine 0), x ∈ s.enginesOf 0 0 → (s.engOf 0 x).queue.length < 16)
      ∧ (∀ x ∈ ((List.range 13).filter fun i => (0b100011111 : BitVec 13).getLsbD i).map (qEngine 0), (s.engOf 0 x).queue.length < 16)
      ∧ (∀ x ∈ ((List.range 13).filter fun i => (0b000111111 : BitVec 13).getLsbD i).map (qEngine 0), x ∈ s.enginesHeld 0 0)
      ∧ qEngine 0 6 ∉ s.enginesHeld 0 0
      ∧ s.fired 0 0 { mask := 0, marker := 0 } = true ∧ s.fired 0 0 { mask := 1, marker := 7 } = false := by decide +kernel

theorem witness_TagsAndRings :
    ((6 : Word) &&& 3 ≠ 0 ∧ (0x8000000000000000 : Word) &&& 0x8000000000000000 ≠ 0) ∧ ((2 : Word) ≠ 0 ∧ (1 : Word) &&& 2 = 0) ∧ (0 : Word) = 0
    ∧ ((3 : Word) &&& 2 = 2 ∧ (1 : Word) &&& 3 ≠ 3)
    ∧ (∀ p ∈ [(1, 1, 64), (1, 4096, 262144), (4095, 64, 16773120)], let v : Word := BitVec.ofNat 64 (p.2.1 * 2 ^ 36 + p.1 * 2 ^ 24)
        v.toNat / 2 ^ 36 ≠ 0 ∧ v.toNat / 2 ^ 36 ≤ 4096 ∧ v.toNat / 2 ^ 24 % 2 ^ 12 ≠ 0 ∧ v.toNat % 64 = 0
          ∧ v.toNat % 2 ^ 24 + v.toNat / 2 ^ 36 * 64 * (v.toNat / 2 ^ 24 % 2 ^ 12) ≤ p.2.2)
    ∧ ¬((0 : Word).toNat / 2 ^ 36 ≠ 0)
    ∧ (let r : Ring := { entry := BitVec.ofNat 64 (4 * 2 ^ 36 + 2 ^ 24), claim := 2, tail := 1, head := 0 }
       let full := (r.tail - r.head).toNat
       let used := (r.claim - r.head).toNat
       r.scount ≠ 0 ∧ (∀ n ∈ [1, 2], n ≤ r.scount ∧ used + n ≤ r.scount) ∧ (∀ n ∈ [3, 4], n ≤ r.scount ∧ r.scount < used + n)
        ∧ ((BitVec.ofNat 32 1 - r.tail).toNat < (r.claim - r.tail).toNat ∧ 1 % r.scount ∉ r.filled)
        ∧ 1 ≤ full ∧ full < 2 ∧ ¬(5 ≤ r.scount) ∧ ({} : Ring).scount = 0 ∧ 3 < (4 : Word).toNat) := by decide +kernel

theorem witness_Fences :
    let s := user { cmdNo := 1 }
    let b := { s with engs := [(0, { queue := [{ id := 0, kind := .marker 0 false }] })] }
    s.cx.fenceWait = none ∧ (∀ e ∈ s.enginesOf 0 0, (s.engOf 0 e).queue.length < 16) ∧ ¬((2 : BitVec 6).getLsbD 0 ∨ (2 : BitVec 6).getLsbD 3 ∨ (2 : BitVec 6).getLsbD 4)
      ∧ ((16 : BitVec 6).getLsbD 0 ∨ (16 : BitVec 6).getLsbD 3 ∨ (16 : BitVec 6).getLsbD 4)
      ∧ (∀ e ∈ (s.enginesOf 0 0).filter fun e => meets 63 (enginePaths e), s.hasBefore 0 e 1 = false)
      ∧ ∃ e ∈ (b.enginesOf 0 0).filter fun e => meets 63 (enginePaths e), b.hasBefore 0 e 1 = true := by decide +kernel

theorem witness_LeaseWords :
    let s := { user { s := [(1, 0x10000), (2, 0x20000)] } with frags := [(0, { state := 1 })] }
    let k := s.coreOf 0
    s.ctx < 4 ∧ (4 : BitVec 5).toNat % 8 ≤ 4 ∧ (28 : BitVec 5).toNat % 8 ≤ 4
      ∧ ({ k with fragCycle := 1 } : Core).fragCycle = s.cycle + 1 ∧ ({ k with copyCycle := 1 } : Core).copyCycle = s.cycle + 1
      ∧ s.current 0 0 (handleOf (s.cx.sreg 1)) = true ∧ s.current 0 0 (handleOf (s.cx.sreg 2)) = false
      ∧ k.plan = (0 : BitVec 3).toNat ∧ k.plan ≠ (4 : BitVec 3).toNat ∧ (4 : BitVec 3).toNat ≤ 4 ∧ k.pendv = false ∧ k.reqs = [] ∧ k.freeze = false ∧ (∀ i < 4, ((user {}).fragOf 0 i).state = 0)
      ∧ (({ user {} with cores := [(0, { allocctl := BitVec.ofNat 64 (18 * 2 ^ 8 + 20 + 2 ^ 16) })] } : State).coreOf 0).freeze = true
      ∧ 4 < (5 : BitVec 3).toNat := by decide +kernel

/-- A stream record, a convolution record, and granule counts that end the window and pass it by one. -/
theorem witness_RecordsAndGranules :
    (let s := user { s := [(1, 32), (2, 8)] }
     let x : Xl := { pa := 5 * 2 ^ 21 + 32, cls := 0, frame := 5, off := 32 }
     (s.cx.sreg 1).toNat % 32 = 0 ∧ (s.translate 0 0 (s.cx.sreg 1) .read .plain).toOption = some x ∧ x.cls ≠ 2 ∧ s.ctx ≠ 4
      ∧ (s.accessCheck (s.vfOf 0 0) x.pa 16 (s.cx.sreg 1)).toOption = some () ∧ (s.accessCheck (s.vfOf 0 0) x.pa 32 (s.cx.sreg 1)).toOption = some ()
      ∧ (s.cx.sreg 2).toNat % 16 ≠ 0 ∧ (s.cx.sreg 2).toNat % 32 ≠ 0)
    ∧ (let s := { user { rings := [(0, { entry := 0x1001000000 })] } with mem := [(0, 1), (2, 1), (4, 1)] }
       State.streamOk s.cx (BitVec.ofNat 128 (leNat (fun i => s.lotByte s.cx combView (64 + i)) 16)) = true
        ∧ cvOk (leNat (fun i => s.lotByte s.cx combView i) 32) = true
        ∧ State.streamOk (user {}).cx (BitVec.ofNat 128 (leNat (fun i => (user {}).lotByte (user {}).cx combView i) 16)) = false
        ∧ cvOk (leNat (fun i => (user {}).lotByte (user {}).cx combView i) 32) = false)
    ∧ (∀ n ∈ [1, 512], ∀ g ∈ [0, 7], let s := user { s := [(1, BitVec.ofNat 64 g)], asize := 65536 * (g + n), wsize := 32 * (g + n) }
       (s.cx.sreg 1).toNat + n ≤ s.cx.asize / 65536 ∧ (s.cx.sreg 1).toNat + n ≤ s.cx.wsize / 32)
    ∧ (let s := user { s := [(1, 1)], asize := 65536, wsize := 32 }
       s.cx.asize / 65536 < (s.cx.sreg 1).toNat + 1 ∧ s.cx.wsize / 32 < (s.cx.sreg 1).toNat + 1) := by decide +kernel

theorem witness_MarketAndObservations :
    (let key : List Word := List.replicate 8 3
     let n := mkSlice 6 3
     let r := (List.range 8).map fun i => (8 + i, (3 : Word))
     let s := user { s := (1, 2 ^ 21) :: r }
     let tp : Tuple := { frame := 6, fields := key, seq := 0 }
     let full := { s with market := [(n, { tuples := [{ tp with fields := [] }, tp] })] }
     let x : Xl := { pa := 6 * 2 ^ 21, cls := 1, frame := 6, off := 0 }
     s.ctx < 4 ∧ (1 : BitVec 2) ≠ 0 ∧ (255 : BitVec 8).getLsbD 0 = true ∧ (s.translate 0 0 (s.cx.sreg 1) .read .market).toOption = some x
      ∧ (s.translate 0 0 (s.cx.sreg 1) .rmw .market).toOption = some x ∧ s.commitHere.mkOwner x = true ∧ (List.range 8).map (fun i => s.cx.sreg (8 + i)) = key
      ∧ (s.commitHere.sliceOf n).tuples = [] ∧ (full.commitHere.sliceOf n).tuples = { tp with fields := [] } :: tp :: []
      ∧ ¬((255 : BitVec 8).getLsbD 0 = true → key.getD 0 0 = ([] : List Word).getD 0 0)
      ∧ (∀ i < 8, key.getD i 0 = tp.fields.getD i 0) ∧ full.commitHere.mkSeal tp = true
      ∧ ((full.commitHere.sliceOf n).tuples.filter fun t => decide (t.place = 0)).length < 65536
      ∧ (let pk := { s with market := [(n, { parked := [{ frame := 6, mask := 1, fields := key, take := true, seq := 0, task := 0 }] })] }
         ∀ p ∈ (pk.commitHere.sliceOf n).parked, p.frame = x.frame ∧ (∀ i < 8, p.mask.getLsbD i = true → p.fields.getD i 0 = key.getD i 0) ∧ p.take = true))
    ∧ (∀ o : List Msg, o.length ≤ 1 → o = [] ∨ ∃ m, o = m :: [])
    ∧ (let s := { user { s := [(1, 4095), (2, 256 * 2 ^ 32)], asize := 65536 } with gates := [(4095, { state := 2, vf := 1, obs := [{ hdr := 0, data := [1] }] })] }
       (s.gateCheck (s.cx.sreg 1) (s.cx.sreg 2) false).toOption = some () ∧ (s.gateOf 4095).obs = { hdr := 0, data := [1] } :: []) := by
  refine ⟨by decide +kernel, fun o h => ?_, by decide +kernel⟩
  match o, h with
  | [], _ => exact .inl rfl
  | [m], _ => exact .inr ⟨m, rfl⟩

theorem witness_GivingWay :
    (let s := user {}
     s.cx.pslots = 0 ∧ s.ctx < 4 ∧ (s.coreOf 0).ready.filter (· ≠ s.ctx) = [])
    ∧ (let s := { user {} with cores := [(0, { ready := [0, 3] })] }
       s.cx.pslots = 0 ∧ (s.coreOf 0).ready.filter (· ≠ s.ctx) ≠ [])
    ∧ (user { pslots := 1 }).cx.pslots ≠ 0 := by decide +kernel

theorem witness_TrapEntry : (user {}).hostMode 1 7 = false ∧ (∀ c ∈ [10, 14], ({ cause := c } : Tr).cause ≠ 9) ∧ isFatal 1 = true ∧ isFatal 19 = true ∧ ((user {}).ctxOf 0 0).task.isSome = true
    ∧ (∀ k ∈ [1, 2], ({ cause := 20, tcode := k } : Tr).cause ≠ 9) := by decide +kernel

theorem witness_FirmwareInstructions :
    ((user {}).ctx ≠ 4) ∧ (firm { pslots := 2 }).ctx = 4 ∧ (firm { pslots := 2 }).cx.pslots ≠ 0
    ∧ (let s := firm { s := [(1, 3), (2, 65536), (3, 0x50000 + 2047), (4, 0x100000), (5, 64), (6, 2 ^ 32 - 1)] }
       let run : State := { s with ctxs := s.ctxs ++ [(3, { task := some 0, stopped := some 1 })], tasks := [(0, { state := .running, ctxId := none })] }
       s.ctx = 4 ∧ s.cx.pslots = 0 ∧ (s.cx.sreg 1).toNat < 4 ∧ (s.ctxOf 0 3).task = none ∧ (run.ctxOf 0 3).task.isSome = true
        ∧ (run.ctxOf 0 3).stopped.isSome = true ∧ (run.ctxOf 0 3).stopping ≠ some .held ∧ run.stepsDone 0 3 = true
        ∧ ({ run with frags := [(0, { state := 1, slot := 3, passes := [{}] })] } : State).stepsDone 0 3 = false ∧ (s.cx.sreg 2).toNat % 65536 = 0
        ∧ (∀ r ∈ [3, 4], let x := (s.cx.sreg r).toNat; x < 2 ^ 21 ∧ x / 2 ^ 11 % 32 = 0 ∧ x / 2 ^ 19 % 2 = 0 ∧ x / 2 ^ 16 % 8 ≠ 6 ∧ s.passWrites 0 (x % 2048) = false)
        ∧ ((s.cx.sreg 3).toNat / 2 ^ 20 % 2 = 0 ∧ (s.cx.sreg 2).toNat ≠ 0 ∧ (s.cx.sreg 2).toNat % 4096 = 0 ∧ (s.cx.sreg 2).toNat < 2 ^ 41)
        ∧ (1 ≤ (s.cx.sreg 5).toNat ∧ (s.cx.sreg 5).toNat ≤ 64 ∧ (Tbl.get s.princeKey (0, true) 64).2 = true ∧ (Tbl.get [(64, (0, false))] ((0, true) : Nat × Bool) 64).2 = false)
        ∧ (s.cx.sreg 6).toNat < 2 ^ 32)
    ∧ (let s := { firm { s := [(1, 3), (2, 65536)] } with tasks := [(0, { state := .saved, areaAt := some 65536, cont := some { whole := true } })], nodes := [(0, { vf := 1, agran := 1 })] }
       (s.cx.sreg 1).toNat < 4 ∧ (s.cx.sreg 2).toNat % 65536 = 0 ∧ (s.ctxOf 0 3).task = none ∧ s.taskInArea 65536 = some 0 ∧ s.areaBad 65536 (s.readArea 0) = none ∧ (s.readArea 0).deliver = []
        ∧ s.placeWindows 0 3 65536 0 = some (0, 0) ∧ (s.taskOf 0).cont = some ({ whole := true } : Area)) := by decide +kernel

/-- The vector context of slot 0 runs a program under a shape: 16 elements of a type. -/
def vecAt (ty : Nat) (c : Ctx) (v : VecCtx) : State :=
  { user c with engs := [(0, { run := some { prog := { loops := [1, 1, 1, 1, 1, 1], body := some [0x0, 0xC0000000], vshape := BitVec.ofNat 64 (16 * 16 + ty) } } })], vecs := [(0, v)] }

/-- A ring entry of four slots of 1088 bytes, with one full slot. -/
def ring4 : Ring := { entry := BitVec.ofNat 64 (4 * 2 ^ 36 + 17 * 2 ^ 24), claim := 1, tail := 1 }

/-- Registers and channels as operands, on an integer type and on a floating one. -/
theorem witness_VectorArithmetic : ∀ t ∈ [2, 8], let s := vecAt t { asize := 65536, rings := [(0, ring4)] } {}
    vecGo s [opnd 1 0 (s.vN * s.vZ), opnd 2 0 (s.vN * s.vZ)] [opnd 3 0 (s.vN * s.vZ)]
    ∧ vecGo s [opnd 64 1 (s.vN * s.vZ), opnd 2 0 (s.vN * s.vZ)] [opnd 64 0 (s.vN * s.vZ)]
    ∧ (t = 2 → isInt s.vT = true) ∧ (t = 8 → (typeFmt s.vT).isSome = true) ∧ (opnd 3 0 64).chan = false ∧ (3 : BitVec 7).getLsbD 6 = false := by
  unfold vecGo; decide +kernel

theorem witness_VectorSinglesAndPredicates : ∀ t ∈ [2, 8], let s := vecAt t { asize := 65536, rings := [(0, ring4)] } {}
    vecGo s [] [opnd 3 0 (s.vN * s.vZ)] ∧ vecGo s [opnd 1 0 (s.vN * s.vZ)] [opnd 3 0 (s.vN * s.vZ)] ∧ vecGo s [opnd 64 0 (s.vN * s.vZ)] [opnd 3 0 (s.vN * s.vZ)]
    ∧ vecGo s [opnd 1 0 (s.vN * s.vZ), opnd 2 0 (s.vN * s.vZ)] [opnd 64 0 (s.vN * s.vZ)] ∧ vecGo s [opnd 1 0 (s.vN * s.vZ), opnd 2 0 (s.vN * s.vZ)] [] ∧ vecGo s [] []
    ∧ (t = 2 → isInt s.vT = true ∧ typeSigned s.vT = true) ∧ (t = 8 → isFloat s.vT = true ∧ (typeFmt s.vT).isSome = true)
    ∧ (0 : BitVec 9).toNat ≤ 31 ∧ (31 : BitVec 9).toNat ≤ 31 ∧ (1 : BitVec 3) ≠ 0 := by
  unfold vecGo; decide +kernel

theorem witness_VectorConversions :
    (∀ m ∈ [0, 4], ∀ ty ∈ [0, 10], (BitVec.ofNat 3 m).toNat ≤ 4 ∧ (BitVec.ofNat 4 ty).toNat ≤ 10 ∧ 16 * (typeBits (BitVec.ofNat 4 ty).toNat / 8) ≤ 1024)
    ∧ (∀ t ∈ [7, 8], let s := { vecAt t {} {} with engs := [(0, { run := some { prog := { vshape := BitVec.ofNat 64 (32 * 16 + t) } } })] }
        s.vT = t ∧ s.vN % 32 = 0 ∧ s.vN ≤ 1024 ∧ vecGo s [opnd 1 0 (s.vN * s.vZ)] [opnd 3 0 (512 + s.vN / 32)]
          ∧ vecGo s [opnd 1 0 (s.vN / 2), opnd 2 0 (512 + s.vN / 32)] [opnd 3 0 (s.vN * s.vZ)] ∧ activeAt s 0 (32 * 0) = true)
    ∧ (let s := vecAt 5 {} {}
       s.vN % 2 = 0 ∧ (∀ k < 6, (BitVec.ofNat 3 k).toNat ≤ 5) ∧ vecGo s [opnd 1 0 (s.vN * s.vZ)] [] ∧ (2 : BitVec 3).toNat ≤ 2 ∧ (5 : BitVec 3).toNat ≤ 5
        ∧ isInt s.vT = true ∧ vecGo s [opnd 1 0 (s.vN * s.vZ)] [opnd 3 0 (s.vN * s.vZ)] ∧ 0 < s.vN ∧ s.vN * s.vZ ≤ 1024) := by
  unfold vecGo activeAt; decide +kernel

/-- A run of 64 bytes at offset 0 of A and of C. -/
theorem witness_VectorMemory_runs :
    let s := { vecAt 8 { asize := 65536 } {} with accown := [(0, 0)] }
    (0 : Int) = (getBytes (s.vHere.reg 0) 0 4 : Int) + 64 * (0 : BitVec 7).toInt ∧ 0 % 64 = 0 ∧ 0 < s.vN * s.vZ ∧ s.vN * s.vZ ≤ 1024
      ∧ s.vN * s.vZ ≤ (s.ctxOf 0 0).asize ∧ (s.ctxOf 0 0).asize ≤ 2 ^ 24 ∧ s.vN * s.vZ ≤ 2 ^ 23 ∧ vecGo s [] [opnd 1 0 (s.vN * s.vZ)] ∧ vecGo s [opnd 1 0 (s.vN * s.vZ)] []
      ∧ (∀ j ∈ slabsOf 0 (s.vN * s.vZ), Tbl.get s.accown 7 j = s.eng) ∧ s.vPending (slabsOf 0 (s.vN * s.vZ)) = false := by
  unfold vecGo; decide +kernel

/-- The same with a write pending. -/
theorem witness_VectorMemory_pending :
    let s := { vecAt 8 {} {} with accown := [(0, 0)], frags := [(0, { state := 1 })], engs := [(0, { run := some { id := 1, prog := { vshape := 0x108 } } }), (4, { run := some {} })] }
    s.vPending (slabsOf 0 (s.vN * s.vZ)) = true ∧ vecGo s [] [opnd 1 0 (s.vN * s.vZ)] := by unfold vecGo; decide +kernel

/-- Two active lanes in the first granule of the lot's table: element addresses 0 and 4, the second from v1. -/
def lanesAt (w : Nat) : State := vecAt 2 {} { p := [(1, 3)], v := [(1, BitVec.ofNat 8192 (w * 2 ^ 32))] }
def lanes2 : List (Nat × Word × Xl) := [(0, 0, { pa := 5 * 2 ^ 21, cls := 0, frame := 5, off := 0 }), (1, 4, { pa := 5 * 2 ^ 21 + 4, cls := 0, frame := 5, off := 4 })]

theorem witness_VectorMemory_lanes :
    let s := lanesAt 1
    let act := (List.range s.vN).filter fun i => activeAt s 1 i
    act = [0, 1] ∧ s.vN * s.vZ ≤ 1024 ∧ s.vN ≤ 256 ∧ (∀ p ∈ lanes2, p.2.2.cls ≠ 2) ∧ vecGo s [] [opnd 2 0 (s.vN * s.vZ)] ∧ vecGo s [opnd 2 0 (s.vN * s.vZ)] []
      ∧ (s.vXlate s.vZ .read .plain (act.map fun i => (i, s.vAddr 1 0 i))).toOption = some lanes2 ∧ (∀ p ∈ lanes2, (s.accessCheck 1 p.2.2.pa s.vZ p.2.1).toOption = some ())
      ∧ (s.vXlate s.vZ .write .plain (act.map fun i => (i, s.vAddr 1 0 i))).toOption = some lanes2 ∧ (∀ p ∈ lanes2, s.ownerOk 1 p.2.2.pa = true)
      ∧ (s.ctxOf 0 0).lines.length + lanes2.length ≤ 8192
      ∧ (∀ p ∈ lanes2, ∀ q ∈ lanes2, p.1 ≠ q.1 → p.2.2.pa + s.vZ ≤ q.2.2.pa ∨ q.2.2.pa + s.vZ ≤ p.2.2.pa) := by
  unfold vecGo activeAt; decide +kernel

theorem witness_VectorMemory_atomics :
    let s := lanesAt (4 * 2 ^ 32)
    let lanes := ((List.range s.vN).filter fun i => activeAt s 1 i).map fun i => (i, BitVec.ofNat 64 (elemAt (s.vHere.reg 1) 8 i))
    vecGo s [] [] ∧ vatomOk s.vT s.vN 0 = true ∧ vatomOk s.vT s.vN 8 = true ∧ (s.vXlate s.vZ .rmw .near lanes).toOption = some lanes2
      ∧ (s.vXlate s.vZ .rmw .plain lanes).toOption = some lanes2 ∧ (∀ p ∈ lanes2, (s.accessCheck 1 p.2.2.pa s.vZ p.2.1).toOption = some ())
      ∧ ∀ p ∈ lanes2, s.sealOk p.2.2.pa = true := by
  unfold vecGo activeAt; decide +kernel

theorem witness_VectorControlAndFaults :
    (let s := vecAt 8 {} {}
     (s.engOf 0 0).run.isSome = true ∧ s.eng < 4 ∧ ((1 : BitVec 1) = 1 ∨ (0 : BitVec 1) = 1) ∧ (5 : BitVec 3).toNat < 6 ∧ s.prefixOk = true
      ∧ ¬((6 : BitVec 3).toNat < 6) ∧ isInt s.vT = false)
    ∧ isInt (vecAt 5 {} {}).vT = true ∧ (isInt (vecAt 5 {} {}).vT = true ∧ typeSigned (vecAt 5 {} {}).vT = false) ∧ (64 : BitVec 7).getLsbD 6 = true
    ∧ (vecAt 8 {} {}).runHere.pend = none ∧ 256 < ({ vecAt 0 {} {} with engs := [(0, { run := some { prog := { vshape := BitVec.ofNat 64 (257 * 16) } } })] } : State).vN := by
  decide +kernel

/-- A fragment of core 0 leased to slot 0 under a plan, at a step word; stream record 0 names ring 0, record 1 a tile of the W window at the
fragment's first column; the slot owns the first slab of that column. -/
def frag (plan k : Nat) (f : Frag) (r : Run) : State :=
  let q : Tbl (BitVec 128) := [(1, BitVec.ofNat 128 (16 + 128 * k * 2 ^ 30))]
  let p : Prog := { loops := [2, 1, 1, 1, 1, 1], q := q, cv := [(0, BitVec.ofNat 256 (1 + 2 ^ 16 + 2 ^ 32))] }
  { user { asize := 2 ^ 20, wsize := 64, rings := [(0, { entry := BitVec.ofNat 64 (4 * 2 ^ 36 + 64 * 2 ^ 24), claim := 1, tail := 1 })] } with
    eng := 4 + k, cores := [(0, { plan := plan })], frags := [(k, { f with state := 1 }), (1 - k, { state := 1 })], accown := [(0, 0), (1024, 0)],
    engs := [(4 + k, { run := some { r with prog := p } })] }

theorem witness_FragmentSteps_streams :
    let s := frag 1 0 {} {}
    let w := s.runHere.q 1
    let q := s.runHere.q 0
    matGo s 0 0 7 ∧ matGo s 1 0 5 ∧ (wTileOk (s.ctxOf 0 s.eSlot).wsize w 0 = true ∧ s.mCol ≤ q_wcol w ∧ q_wcol w + q_nt w ≤ s.mCol + s.mWidth ∧ q_kt w ≤ s.mDepth)
      ∧ q_w w = true ∧ (q_w q = false ∧ (s.mRing q).scount ≠ 0) ∧ 1 ≤ (s.mRing q).full ∧ (s.mRing q).full < 4 ∧ 4 ≤ (s.mRing q).scount
      ∧ s.mFrag.passes = [] ∧ s.landing = [] ∧ s.stepsIdle 0 4 = true ∧ (frag 0 0 { passes := [{}] } {}).stepsIdle 0 4 = false ∧ (frag 0 0 {} { idx := [1, 0, 0, 0, 0, 0] }).runHere.firstPass = false
      ∧ (frag 0 0 {} { idx := [1, 0, 0, 0, 0, 0] }).runHere.flagsIssue true false 0 = false := by unfold matGo; decide +kernel

theorem witness_FragmentSteps_links :
    let s := frag 1 0 {} {}
    let q := s.runHere.q 0
    let w := s.mWidth
    matGo s 0 0 0 ∧ s.runHere.curOf 0 < (s.mRing q).scount ∧ linkFrom 0 = s.mK ∧ 0 ∈ planLinks s.mPlan ∧ (s.fragOf 0 (linkTo 0)).state = 1
      ∧ (s.fragOf 0 (linkTo 0)).slot = s.mFrag.slot ∧ 8 * w + 5 ≤ 64 * (s.mRing q).ssz ∧ s.runHere.curOf 0 < (s.mRing q).full ∧ s.mFrag.passes = []
      ∧ ownsAll s [0] ∧ 4096 ≤ 64 * (s.mRing q).ssz ∧ (s.mRing q).free ≠ 0 := by unfold matGo ownsAll; decide +kernel

theorem witness_Convolutions :
    let s := frag 0 0 { act := { src := some (1, 0), record := 16, cols := [[0]] } } {}
    let r := s.runHere
    let qa := r.q 0
    let qb := r.q 1
    matGo s 0 0 0 ∧ q_w qb = true ∧ q_w qa = false ∧ (s.mRing qa).scount ≠ 0 ∧ cv_ih (r.cv 0) ≠ 0 ∧ r.curOf 0 < (s.mRing qa).scount
      ∧ r.curOf 0 < (s.mRing qa).full ∧ s.mFrag.passes.length < 2 ∧ s.mFrag.nxt.pending = false ∧ s.mFrag.act.stream = some 1 ∧ s.mCol ≤ q_wcol qb
      ∧ q_wcol qb + q_nt qb ≤ s.mCol + s.mWidth ∧ q_kt qb ≤ s.mDepth ∧ q_nt qa ≤ 256 ∧ (q_nt qa - 1) / 32 ≤ 255 ∧ pairOk (q_fmt qa) (q_fmt qb) = true ∧ q_fmt qa ≠ 5
      ∧ mapBytes (r.cv 0) qa ≤ 64 * (s.mRing qa).ssz ∧ ownsAll s [0]
      ∧ (((List.range (q_nt qa)).map fun i => q_nt qa * r.pixOf 0 + i).filter fun p => decide (p < cv_o (r.cv 0))) = [0] := by
  unfold matGo ownsAll; decide +kernel

theorem witness_MatrixPasses_ring :
    let s := frag 0 0 { act := { src := some (1, 0), record := 16, cols := [[0]] } } {}
    let r := s.runHere
    let qa := r.q 0
    let qb := r.q 1
    matGo s 0 0 0 ∧ q_w qb = true ∧ s.mFrag.passes.length < 2 ∧ s.mFrag.nxt.pending = false ∧ s.mFrag.act.stream = some 1 ∧ q_w qa = false
      ∧ (s.mRing qa).scount ≠ 0 ∧ r.curOf 0 < (s.mRing qa).scount ∧ s.mmaCheck 1 (q_nt qa) (q_fmt qa) (some (q_kt qa)) 0 0 false = none
      ∧ tileBytes qa ≤ 64 * (s.mRing qa).ssz ∧ ownsAll s (mmaSlabs (q_wcol qb) (q_nt qb) 0 (q_nt qa)) ∧ r.curOf 0 < (s.mRing qa).full := by
  unfold matGo ownsAll; decide +kernel

theorem witness_MatrixPasses_link :
    let s := frag 1 1 { waitsLink := true, act := { src := some (1, 0), record := 16, cols := [[0]] } } {}
    let t := { s with links := [(0, { queue := [(1, 0, [0x3F80])] })] }
    matGo s 0 0 0 ∧ s.mFrag.linkLost = false ∧ s.mFrag.waitsLink = true ∧ linkInto s.mPlan s.mK = some 0 ∧ (s.linkOf 0 0).queue = []
      ∧ (t.linkOf 0 0).queue = (1, 0, [0x3F80]) :: [] ∧ t.mmaCheck 1 1 0 none 1024 0 false = none
      ∧ ownsAll t (mmaSlabs (q_wcol (t.runHere.q 1)) (q_nt (t.runHere.q 1)) 0 1) ∧ 1 ≤ (t.linkOf 0 0).queue.length ∧ linkFrom 0 ≠ t.mK := by
  unfold matGo ownsAll; decide +kernel

theorem witness_MatrixPasses_retire :
    let w : PassWrite := { slab := 0, elem := 0, sum := plazaSum false [], accumulate := true }
    let s (c : Option Chain) := frag 1 0 { passes := [{ writes := [w], chain := c }] } {}
    (∀ c ∈ [none, some { link := 0, k0 := 0, vectors := 1, wcol := 0, nt := 1 }], ((s c).fragOf 0 0).passes = [{ writes := [w], chain := c }] ∧ [w] = [] ++ w :: [])
      ∧ 1 ≤ 64 - ((s none).linkOf 0 0).queue.length ∧ ((frag 0 0 {} {}).fragOf 0 0).passes = [] ∧ ((frag 0 0 {} {}).fragOf 0 0).faulting = none
      ∧ ((frag 0 0 { faulting := some {} } {}).fragOf 0 0).faulting = some {} ∧ ((frag 0 0 { faulting := some {} } {}).fragOf 0 0).state = 1
      ∧ ((frag 0 0 { nxt := { pending := true } } {}).fragOf 0 0).nxt.pending = true := by decide +kernel

/-- Copy engine 0 of core 0, leased to slot 0, at a word. Transfer register 0 is one 4-byte element of G at address 0, register 1 one of A, 2 one
of C at offset 0; 3 and 4 are the bytes of a Q4 block in G, 5 its 32 elements in A, and 6 an element of the fabric window. -/
def copier (e : CopyEng) (r : Run) (c : Ctx) : State :=
  let sh (base n z space : Nat) : BitVec 256 := BitVec.ofNat 256 (base + n * 2 ^ 64 + 2 ^ 80 + 2 ^ 96 + 2 ^ 112 + z * 2 ^ 224 + space * 2 ^ 226)
  let tx := [(0, sh 0 1 2 0), (1, sh 0 1 2 1), (2, sh 0 1 2 2), (3, sh 0 16 0 0), (4, sh 64 1 0 0), (5, sh 0 32 2 1), (6, sh (3 * 2 ^ 21) 1 2 0)]
  let p : Prog := { loops := [1, 1, 1, 1, 1, 1], body := some [0, 0, 0], tx := tx }
  { user { c with asize := 65536 } with
    eng := 8, accown := [(0, 0)], copies := [(0, { e with leased := true, steps := e.steps.map fun st => { st with bound := p } })],
    engs := [(8, { run := some { r with prog := p } })] }

/-- A ring of two slots of 64 bytes. -/
def ring2 (claim full : BitVec 32) : Ctx := { rings := [(0, { entry := BitVec.ofNat 64 (2 * 2 ^ 36 + 2 ^ 24), claim := claim, tail := full })] }

theorem witness_CopyWords_plain : ∀ b ∈ [1, 2], let s := copier {} {} {}
    let o := s.operands 0 s.runHere.prog (.cld 0 b)
    let o' := s.operands 0 s.runHere.prog (.cst 0 b)
    copyGo s 0 0 0 0 ∧ copyGo s 1 1 1 5 ∧ s.runHere.cancelledTag 1 63 = false ∧ s.stepFault 0 o = none ∧ s.stepFault 0 o' = none
      ∧ ∀ j ∈ (if o.bSpace = 2 then slabsOfElems o.bElems else []) ++ (if o.aSpace = 2 then slabsOfElems o.aElems else []),
          Tbl.get s.accown 7 (s.core * 2048 + j) = 0 ∧ s.pendingAt 0 0 j s.runHere.id = 0 := by
  unfold copyGo; decide +kernel

theorem witness_CopyWords_rings :
    (let s := copier {} {} (ring2 1 1)
     let f := copier {} {} (ring2 2 2)
     let r := (s.ctxOf 0 0).ring 0
     copyGo s 0 0 0 0 ∧ r.scount ≠ 0 ∧ r.free ≠ 0 ∧ s.stepFault 0 (s.operands 0 s.runHere.prog (.cldRing 0 0)) = none ∧ s.runHere.curOf 0 < r.full
      ∧ s.stepFault 0 (s.operands 0 s.runHere.prog (.cstRing 0 0)) = none ∧ copyGo f 0 0 0 0 ∧ ((f.ctxOf 0 0).ring 0).free = 0
      ∧ f.stepFault 0 (f.operands 0 f.runHere.prog (.cldRing 0 0)) = none ∧ 1 ≤ r.full ∧ r.full < 2 ∧ 2 ≤ r.scount)
    ∧ (let s := copier {} {} (ring2 0 0)
       let w := 0x0C2244B0
       s.landing = [] ∧ (decode .mat w).isSome = true ∧ decode .mat w ≠ some .matHalt ∧ s.runHere.upc + 1 < s.runHere.prog.bodyLen ∧ ((s.ctxOf 0 0).ring 0).free ≠ 0
        ∧ (let t := { s with frags := [(0, { state := 1 })] }; t.stepFault 0 (t.operands 0 t.runHere.prog (.cldm 0 0 0 0x0C2244B0)) = none)) := by
  unfold copyGo; decide +kernel

/-- The other moves: a quantizing store of a block, a multicast, a gather and a scatter by an index, a relayed write and a reduction; and an
engine with and without a step in flight. -/
theorem witness_CopyWords_steps : (∀ op ∈ [CopyOp.cstq 3 5 4 0, .cmc 0 1 1, .cga 0 1 1, .csc 0 1 1, .crw 1 7, .cred 1 6], let s := copier {} {} {}
      copyGo s 0 0 1 0 ∧ s.runHere.cancelledTag 1 63 = false ∧ s.stepFault 0 (s.operands 0 s.runHere.prog op) = none
        ∧ (s.operands 0 s.runHere.prog op).bSpace = 1 ∧ (s.operands 0 s.runHere.prog op).aSpace = 1)
    ∧ (4 : BitVec 3).toNat ≤ 4 ∧ (1 : BitVec 8) ≠ 0
    ∧ (copier {} {} {}).copyHere.steps = [] ∧ (copier { steps := [{ idx := 0, op := .cld 0 1 }] } {} {}).copyHere.steps ≠ []
    ∧ copyGo (copier { steps := [{ idx := 0, op := .cld 0 1 }] } {} {}) 0 0 0 0 ∧ 8 ≤ (copier {} {} {}).eng ∧ (copier {} {} {}).eng < 16 := by
  unfold copyGo; decide +kernel

theorem witness_CopyCompletion :
    let st : CopyStep := { idx := 0, op := .cld 0 1 }
    ∀ op ∈ [CopyOp.cld 0 1, .cst 0 1], let s := copier { steps := [{ st with op := op }] } {} {}
      let b := ((s.copyOf 0 0).steps.map fun q => q.bound).getD 0 {}
      let x : Xl := { pa := 5 * 2 ^ 21, cls := 0, frame := 5, off := 0 }
      (s.copyOf 0 0).steps.find? (fun q => decide (q.idx = 0)) = some { st with op := op, bound := b } ∧ (b.shape 1).space = 1
        ∧ (b.shape 1).count = (b.shape 0).count ∧ (b.shape 1).esz = (b.shape 0).esz ∧ (b.shape 0).count = 1 ∧ (b.shape 0).esz = 4
        ∧ (0 ≤ (b.shape 1).elem 0 ∧ (b.shape 1).elem 0 + 4 ≤ 2 ^ 24)
        ∧ (s.translate 0 0 (gAddr ((b.shape 0).elem 0)) .read .plain).toOption = some x ∧ (s.translate 0 0 (gAddr ((b.shape 0).elem 0)) .write .plain).toOption = some x
        ∧ x.cls ≠ 2 ∧ x.pa + 4 ≤ 2 ^ 41 ∧ s.lineCheck (s.vfOf 0 0) x.pa = none ∧ s.ownerOk (s.vfOf 0 0) x.pa = true ∧ s.trackAt = [] := by
  decide +kernel

theorem witness_CopyCompletion_follow :
    let st : CopyStep := { idx := 0, op := .cldm 0 0 0 0x0C2244B0, filled := true }
    let s := { copier { steps := [st] } {} {} with frags := [(0, { state := 1 })] }
    (s.copyOf 0 0).steps.map (fun q => (q.idx, q.op, q.filled)) = [(0, st.op, true)] ∧ (s.engOf 0 4).queue.length < 16
      ∧ (s.fragsOf 0 (s.copyOf 0 0).slot).contains 0 = true := by decide +kernel

theorem witness_CommandsStart :
    (∀ k ∈ [CmdKind.program {}, .vshape 0x1008], let s := { user {} with engs := [(0, { queue := [{ id := 0, kind := k }] })] }
      (s.engOf 0 0).queue = { id := 0, kind := k } :: [] ∧ s.startDue 0 0 = true)
    ∧ (user {}).startDue 0 0 = false
    ∧ (let s := { user {} with engs := [(0, { queue := [{ id := 0, kind := .marker 1 true }] })] }
       (s.engOf 0 0).queue = { id := 0, kind := .marker 1 true } :: [] ∧ s.markerDue 0 0 = true)
    ∧ ({ user {} with engs := [(0, { run := some { halted := true } })] } : State).canRetire 0 0 = true ∧ (user {}).canRetire 0 0 = false := by
  decide +kernel

/-- Episode 0 of VF 1 runs on Rink core 0: its window of 64 KiB lies at address 0 of the VF's Rink table; gate 5 is its gate. -/
def rinky (e : Episode) (g : Gate) : State :=
  { rinks := [(0, ({ current := some 4096, resident := [4096] } : Rink).enter { wsize := 65536 })], episodes := [(4096, { e with state := 2, wsize := 65536, gate := 5, stepb := e.stepb + State.reset.rinkCost })],
    gates := [(5, { g with state := 2, vf := 1 })], tables := [(6, { valid := true, entries := [(0, 0x511E)] })], frames := [(5, { owner := 1 })] }

def RvOut.holds {α : Type} (o : RvOut α) (p : α → Bool) : Bool :=
  match o with
  | .ok x _ => p x
  | _ => false

theorem witness_RinkWords_fits : ∀ e : Episode, e.stepCyc = 0 → ((rinky e {}).epOf 1 0).stepCyc + (rinky e {}).rinkCost ≤ ((rinky e {}).epOf 1 0).stepb := by
  intro e h
  show e.stepCyc + State.reset.rinkCost ≤ e.stepb + State.reset.rinkCost
  omega

/-- A word below the step's budget, and one that would pass it. -/
theorem witness_RinkWords_cut : let e : Episode := { stepb := 1 }
    ((rinky e {}).epOf 1 0).stepCyc + (rinky e {}).rinkCost < ((rinky e {}).epOf 1 0).stepb
      ∧ ¬ (((rinky { stepCyc := 1 } {}).epOf 1 0).stepCyc + (rinky { stepCyc := 1 } {}).rinkCost ≤ ((rinky { stepCyc := 1 } {}).epOf 1 0).stepb) := by
  refine ⟨?_, ?_⟩
  · show 0 + State.reset.rinkCost < 1 + State.reset.rinkCost
    omega
  · show ¬ 1 + State.reset.rinkCost ≤ 0 + State.reset.rinkCost
    omega

theorem witness_RinkWords :
    let m : Msg := { hdr := 0, data := [1] }
    let s := rinky { hart := { x := [(1, 8), (2, 256), (3, 0x8008)] } } { acts := [m] }
    let e := s.epOf 1 0
    (s.rinkOf 0).current = some 4096 ∧ (s.rinkOf 0).machine = false ∧ (s.rinkOf 0).lines.length + 256 ≤ rinkLines ∧ (∀ k ∈ (s.rinkOf 0).lines, k.ep = 4096 → k.dirty = 0) ∧ (e.totb = 0 ∨ e.steps + 1 ≠ e.totb) ∧ e.state = 2 ∧ (e.hart.xr 1).toNat % 8 = 0
      ∧ RvOut.holds (s.tickFresh.rvAccess 1 .write 8 256) (fun l => decide (l.length = 256)) = true
      ∧ s.stale 1 e = false ∧ (s.gateOf e.gate).acts = m :: [] ∧ (s.gateOf e.gate).obs.length < 4
      ∧ (e.hart.xr 2).toNat = (e.hart.xr 2).toNat % 2 ^ 9 ∧ (e.hart.xr 2).toNat ≤ 256
      ∧ RvOut.holds (s.tickFresh.rvAccess 1 .read 8 256) (fun l => decide (l.length = 256)) = true
      ∧ (e.hart.xr 3).toNat = 2 ^ 15 + 8 ∧ RvOut.holds (rvExec s.tickFresh 1 e.hart s.tickFresh.rinkNow 0x13) (fun _ => true) = true
      ∧ (0x13 : BitVec 32) = (0 : BitVec 12) ++ (0 : BitVec 5) ++ (0 : BitVec 3) ++ (0 : BitVec 5) ++ (0x13 : BitVec 7) := by decide +kernel

/-- The descriptor of episode 4095 of VF 64 lies at address 0 of its queue table. -/
def armable (fmt : Nat) : State :=
  { bar := [(64 * 2 ^ 24 + 0x30, BitVec.ofInt 64 (-(64 * 4095))), (64 * 2 ^ 24 + 0x38, 4096)],
    tables := [(257, { valid := true, entries := [(0, 0x511E)] }), (258, { valid := true, entries := [(0, 0x511E)] })], frames := [(5, { owner := 64 })],
    mem := [(5 * 2 ^ 21 + 18, 1), (5 * 2 ^ 21 + 33, 1), (5 * 2 ^ 21 + 40, 5), (5 * 2 ^ 21 + 44, BitVec.ofNat 8 fmt)], gates := [(5, { state := 1, vf := 64 })] }

theorem witness_EpisodeLife_arm : ∀ f ∈ [(0 : Nat), 1], let s := armable f
    (s.epOf 64 4095).state ≠ 1 ∧ (s.epOf 64 4095).state ≠ 2 ∧ (s.epOf 64 4095).owed = [] ∧ 4095 < (s.reg 64 0x38).toNat
      ∧ (s.feAddr 64 (s.reg 64 0x30 + BitVec.ofNat 64 (64 * 4095)) 64 .read).toOption = some (5 * 2 ^ 21)
      ∧ s.armRefusal 64 4095 (fun i => s.memNat (5 * 2 ^ 21 + 8 * i) 8) = if f = 1 then none else some 9 := by decide +kernel

theorem witness_EpisodeLife_absent : let s : State := { armable 1 with tables := [(257, { valid := true, entries := [(0, 0x510E)] })] }
    (s.epOf 64 4095).state = 0 ∧ (s.epOf 64 4095).owed = [] ∧ 4095 < (s.reg 64 0x38).toNat
      ∧ (match s.feAddr 64 (s.reg 64 0x30 + BitVec.ofNat 64 (64 * 4095)) 64 .read with
         | .error r => decide (r.cause = 5)
         | .ok _ => false) = true := by decide +kernel

theorem witness_EpisodeLife :
    (let s : State := { episodes := [(4096, { state := 1, gate := 5 })] }
     s.oldestArmed 0 = some (4096, { state := 1, gate := 5 }) ∧ s.placeCore 0 = some 0 ∧ (s.epOf 1 0).state = 1)
    ∧ (∀ h ∈ [(0 : Nat), 64], let s : State := { episodes := [(4096, { state := 2, stepb := 1, stepCyc := 1, quantum := 2 ^ 16 })], rinks := [(0, { current := some 4096, resident := [4096] })], bar := [(0x2000, BitVec.ofNat 64 h)] }
       (s.epOf 1 0).state = 2 ∧ (s.epOf 1 0).suspended = false ∧ (s.epOf 1 0).stepb ≤ (s.epOf 1 0).stepCyc ∧ s.hostMode 1 6 = decide (h = 64)
        ∧ (s.rinkOf 0).current = some 4096 ∧ 2 ^ 16 ≤ (Tbl.get s.episodes {} 4096).quantum)
    ∧ (let s : State := { episodes := [(4096, { state := 2, suspended := true })] }
       (s.epOf 1 0).suspended = true ∧ (0x10000 : Word).toNat % 4096 = 0 ∧ (0x10000 : Word).getLsbD 16 = true ∧ (0 : Word).getLsbD 16 = false)
    ∧ (1 : Word).getLsbD 0 = true ∧ (0 : Word).getLsbD 0 = false := by decide +kernel

theorem witness_AllocatorSteps :
    (let r : LeaseReq := { shape := 0, since := 0 }
     let s : State := { cycle := 2 ^ 30 - 1, cores := [(0, { reqs := [r], copyCycle := 2 ^ 30 })], tasks := [(0, { state := .waiting })] }
     let k := s.coreOf 0
     k.fragCycle ≠ s.cycle + 1 ∧ k.copyCycle = s.cycle + 1 ∧ s.reqsNow 0 false = r :: [] ∧ r.want = 0 ∧ (s.taskOf r.task).state = .waiting ∧ s.grantable 0 r = some [0]
      ∧ (∃ q ∈ k.reqs, q.copy = false ∧ q.shape = 0 ∧ q.since + 2 ^ (k.allocctl.toNat % 32) ≤ s.cycle) ∧ 0 < k.reqs.length)
    ∧ (State.reset.coreOf 0).copyCycle ≠ State.reset.cycle + 1 ∧ (State.reset.coreOf 0).reqs = [] ∧ (State.reset.coreOf 0).pendv = false
    ∧ (let s : State := { cores := [(0, { pendv := true, pend := 3 })] }
       (s.coreOf 0).pendReq = none ∧ (s.coreOf 0).freeze = false ∧ ∀ i < 4, (s.fragOf 0 i).state = 0)
    ∧ (({ cores := [(0, { allocctl := BitVec.ofNat 64 (18 * 2 ^ 8 + 20 + 2 ^ 16) })] } : State).coreOf 0).freeze = true
    ∧ (let r : LeaseReq := { shape := 1, since := 0 }
       let s : State := { cores := [(0, { pendv := true, pend := 1, pendReq := some r, reqs := [r] })], tasks := [(0, { state := .waiting })] }
       let k := s.coreOf 0
       k.pendv = true ∧ k.freeze = false ∧ k.pendReq = some r ∧ (∀ i < 4, (s.fragOf 0 i).state = 0) ∧ k.reqs.any r.same = true ∧ r.want = 0 ∧ (s.taskOf r.task).state = .waiting
        ∧ ((s.setCore 0 { k with plan := k.pend, pendv := false, pend := 0, pendReq := none }).grantable 0 r).isSome = true)
    ∧ (let s : State := { cores := [(0, { pendv := true, pend := 3 })], frags := [(0, { state := 2 }), (1, { state := 2 })], engs := [(5, { run := some {} })] }
       cells (s.coreOf 0).plan 0 ≠ cells (s.coreOf 0).pend 0 ∧ (s.fragOf 0 0).state ≠ 0 ∧ (s.fragOf 0 0).state = 2 ∧ s.drained 0 0 = true ∧ s.drained 0 1 = false) := by
  decide +kernel

/-- VF 1 is bound to partition 0, of core 0; a task of its node is pooled. -/
def pooled (t : Task) : State :=
  { bar := [(0x5100, 0x100)], tasks := [(0, t)], nodes := [(0, { vf := 1, agran := 1 })], pool := [0], nextTask := 1, nextNode := 1 }

theorem witness_TaskDispatch :
    (let s := pooled { hi := 2 }
     (s.ctxOf 0 3).task = none ∧ (s.coreOf 0).enabled = true ∧ (s.coreOf 0).leaving = none ∧ s.firstTake 0 3 true s.pool = none ∧ s.firstTake 0 3 false s.pool = some (0, 0, 0))
    ∧ (let s := pooled { cont := some {} }
       s.firstTake 0 0 true s.pool = some (0, 0, 0) ∧ ((s.areaOf 0).bind fun base => s.areaBad base ((s.taskOf 0).cont.getD {})).isSome = false)
    ∧ (let s : State := { pooled { cont := some {}, areaAt := some 65536 } with tiles := [(16, { bad := true })] }
       s.firstTake 0 0 true s.pool = some (0, 0, 0) ∧ ((s.areaOf 0).bind fun base => s.areaBad base ((s.taskOf 0).cont.getD {})).isSome = true)
    ∧ (user {}).ctxs ≠ [] ∧ ((user {}).ctxOf 0 0).task.isSome = true
    ∧ (let s := { pooled { state := .running, hi := 2, core := some 0 } with pool := [] }
       s.firstTake 0 1 true s.pool = none ∧ s.firstTake 0 1 false s.pool = none ∧ bestSplit (s.splittable 0) = some (0, 2, 0) ∧ bestSplit (State.reset.splittable 0) = none)
    ∧ (∀ tm ∈ [20000, 19999], let s := { pooled { state := .running, hi := 2, split := some (1, 0, 1, 0) } with clock := tm * tickParts }
       (s.taskOf 0).split = some (1, 0, 1, 0) ∧ 0 ≠ s.nextTask ∧ (if tm = 20000 then 0 + 20000 ≤ s.time else s.time < 0 + 20000)) := by decide +kernel

theorem witness_TaskEnds :
    (∀ tk ∈ [({ state := .running, next := 1, hi := 2 } : Task), { state := .running, next := 1, hi := 1 }], let s := { user { exited := true } with tasks := [(0, tk)] }
      let c := s.ctxOf 0 0
      c.task = some 0 ∧ c.exited = true ∧ c.stopped = none ∧ c.posted = [] ∧ c.stopping = none ∧ (∀ e ∈ s.enginesOf 0 0, s.engineBusy 0 e = false) ∧ (s.taskOf 0).split = none
        ∧ (s.taskOf 0).between = false ∧ ((s.taskOf 0).next < (s.taskOf 0).hi ∨ (s.taskOf 0).hi ≤ (s.taskOf 0).next))
    ∧ (let s := user {}
       (s.ctxOf 0 0).exited = false ∧ (s.taskOf 0).state = .running ∧ (s.tasks.filter fun p => decide (p.2.node = 0)).map (·.1) = [0]
        ∧ (s.taskOf 0).state.ended = false ∧ s.slotOf 0 = some (0, 0) ∧ (s.ctxOf 0 0).stopped = none ∧ (s.ctxOf 0 0).stall < (s.ctxOf 0 0).stallLim)
    ∧ ((user { stopped := some 1 }).ctxOf 0 0).stopped = some 1
    ∧ (let s := pooled { state := .waiting }
       (s.taskOf 0).state = .waiting ∧ (s.taskOf 0).state ≠ .running ∧ (s.tasks.filter fun p => decide (p.2.node = 0)).map (·.1) = [0] ∧ (s.taskOf 0).state.ended = false)
    ∧ ((user { exited := true }).ctxOf 0 0).exited = true ∧ ((user { postedAbort := some 0 }).ctxOf 0 0).endNow = true ∧ ((user { postedKill := some 0 }).ctxOf 0 0).endNow = true
    ∧ ((user {}).ctxOf 0 0).endNow = false ∧ firstFault ((user { posted := [{}] }).ctxOf 0 0).posted = some {}
    ∧ ((user { stall := 2 ^ 24 }).ctxOf 0 0).stallLim ≤ ((user { stall := 2 ^ 24 }).ctxOf 0 0).stall
    ∧ ((user { yieldTo := some (0, []) }).ctxOf 0 0).yieldTo = some (0, []) ∧ (0 ≤ (user {}).cycle ∨ ([] : List Nat) = []) := by decide +kernel

theorem witness_FirmwareServices_foreign :
    (let s : State := { user {} with ctxs := [(0, { task := some 0 }), (1, { task := some 1 })], tasks := [(0, { node := 0, state := .running }), (1, { node := 0, state := .running })], accown := [(5, 1)], cores := [(0, { foreign := [(5, 0, false)] })] }
     (s.coreOf 0).foreign.contains (5, 0, false) = true ∧ (s.coreOf 0).foreign.contains (5, 0, true) = false ∧ s.hostMode (s.vfOf 0 0) 7 = false ∧ (s.ctxOf 0 0).task = some 0 ∧ s.slabTask 0 5 = some 1 ∧ s.accCode 0 5 ≠ 0 ∧ s.accCode 0 5 ≠ 4 ∧ s.passWrites 0 5 = false
      ∧ Tbl.find? (s.taskOf 0).spilled 5 = none
      ∧ Tbl.find? (({ s with tasks := [(0, { node := 0, spilled := [(5, List.replicate 1024 0)] })] } : State).taskOf 0).spilled 5 = some (List.replicate 1024 0))
    ∧ (let s : State := { user {} with bar := [(0x2000, 0x80)], cores := [(0, { foreign := [(5, 0, true)] })] }
       s.hostMode (s.vfOf 0 0) 7 = true ∧ (s.coreOf 0).foreign.contains (5, 0, true) = true ∧ (s.coreOf 0).foreign.contains (6, 0, true) = false
        ∧ (s.coreOf 0).foreign.contains (5, 0, false) = false ∧ (∀ f ∈ (s.coreOf 0).foreign, f.1 ≠ 6 ∨ f.2.1 ≠ 0)
        ∧ ((5 : Word).toNat / 2 ^ 16 % 32 = 0 ∧ (5 : Word).toNat % 2048 = 5 ∧ (5 : Word).toNat / 2 ^ 24 % 8 = 0)) := by decide +kernel

theorem witness_FirmwareServices :
    (let s := { pooled { state := .waiting, heldFault := true, ctxId := some 3, cont := some {} } with pool := [] }
     let held (v : Word) := (List.find? (fun (p : Nat × Task) => p.2.heldFault && decide (p.2.ctxId = some (v.toNat % 2 ^ 16)) && decide ((s.nodeOf p.2.node).vf = 1)) s.tasks).map (·.1)
     held 3 = some 0 ∧ held 4 = none ∧ held 0x10003 = some 0 ∧ (0x10003 : Word).getLsbD 16 = true ∧ (3 : Word).getLsbD 16 = false
      ∧ ∃ a, (s.taskOf 0).cont = some a ∧ a.lease = 0)
    ∧ (let s := user { retryAt := some 0, stopped := some 14 }
       (s.ctxOf 0 0).retryAt = some 0 ∧ 0 ≤ s.time ∧ (s.ctxOf 0 0).stopped = some 14 ∧ ((user { retryAt := some 1 }).ctxOf 0 0).retryAt = some 1 ∧ (user {}).time < 1) := by
  refine ⟨⟨by decide +kernel, by decide +kernel, by decide +kernel, by decide +kernel, by decide +kernel, {}, by decide +kernel, rfl⟩, by decide +kernel⟩

theorem witness_HomeSlice :
    (let lo := 2560 * 4096
     let s (t : Tile) : State := { fcache := [(lo, 7)], tiles := [(2560, t)], frames := [(5, { owner := 1 })] }
     (∀ t ∈ [({} : Tile), { ver := maxVer, exhausted := true }, { ver := maxVer }, { bad := true }],
        0 < ((s t).fcache.filter fun p => decide (lo ≤ p.1) && decide (p.1 < lo + 4096)).length
          ∧ ((s t).fcache.filter fun p => decide (lo ≤ p.1) && decide (p.1 < lo + 4096)).length < 4096)
      ∧ ((s {}).tile 2560).bad = false ∧ ((s {}).tile 2560).ver < maxVer ∧ Tbl.find? (s {}).trackAt 1 = none ∧ ((s {}).fcache.map (·.1)).Nodup
      ∧ ((s { bad := true }).tile 2560).bad = true ∧ maxVer ≤ ((s { ver := maxVer }).tile 2560).ver ∧ ((s { ver := maxVer }).tile 2560).exhausted = false
      ∧ ((s { ver := maxVer, exhausted := true }).tile 2560).exhausted = true)
    ∧ ([] : Tbl Byte).length = 0
    ∧ (∀ pa ∈ [5 * 2 ^ 21, 2 ^ 39 - 8], let s : State := { frames := [(5, { owner := 1 })] }
       (linesOf pa 8).findSome? (fun l => s.lineCheck (s.frameRec (frameOf l)).owner l) = none ∧ pa + 8 ≤ min s.hdmSize (2 ^ 18) * 2 ^ 21)
    ∧ min State.reset.hdmSize (2 ^ 18) * 2 ^ 21 < 2 ^ 39 + 8
    ∧ (let s : State := { tiles := [(2560, { bad := true })], frames := [(5, { owner := 1 })] }
       (linesOf (5 * 2 ^ 21) 8).findSome? (fun l => s.lineCheck (s.frameRec (frameOf l)).owner l) = some 9
        ∧ (linesOf (6 * 2 ^ 21) 8).findSome? (fun l => s.lineCheck (s.frameRec (frameOf l)).owner l) = some 8) := by decide +kernel

theorem witness_HomeSlice_inv : ({ fcache := [(2560 * 4096, 7)], frames := [(5, { owner := 1 })] } : State).Inv := by
  show memWf _ = true; decide +kernel

/-! ## Witnesses: queues, graphs, registers, tables -/

def FeOut.okIs (o : FeOut) (p : List Nat → Bool) : Bool := match o with | .ok l => p l | _ => false
def FeOut.waits (o : FeOut) : Bool := match o with | .wait _ => true | _ => false
def FeOut.bads (o : FeOut) : Bool := match o with | .bad _ _ => true | _ => false

/-- Queue 0 of VF 1, of 16 slots at address 0, with its write index at 4096; the queue table's first entry is `e`. -/
def queued (x : Queue) (e : BitVec 32) (m : List Host.Cell) : State :=
  { tables := [(4, { valid := true, entries := [(0, 0x511E)] }), (5, { valid := true, entries := [(0, e)] })], frames := [(5, { owner := 1 })], queues := [(64, x)], mem := m,
    bar := [(0x5100, 0x100), (2 ^ 24 + 8, 0x101010101010), (2 ^ 24 + 0x1008, 8), (2 ^ 24 + 0x1010, 4096)] }

theorem witness_Queues :
    (queued {} 0x511E []).reg 1 0x1010 = 4096 ∧ ((queued {} 0x511E []).queueOf 1 0).en = false ∧ (queued {} 0x511E []).qLog 1 0 = 4
    ∧ (∀ p ∈ [(0, false), (1, false), (2, false), (3, true)], let s := queued { en := true, ridx := p.1, start := p.2 } 0x511E [(5 * 2 ^ 21 + 4096, 1)]
        FeOut.okIs (s.feAsk 1 .read (s.reg 1 0x1010) 1) (fun l => decide (((s.feWords l).headD 0).toNat = 1)) = true ∧ (s.queueOf 1 0).en = true)
    ∧ (let s := queued { en := true } 0x511E [(5 * 2 ^ 21 + 4096, 17)]
       FeOut.okIs (s.feAsk 1 .read (s.reg 1 0x1010) 1) (fun l => decide (0 + 2 ^ s.qLog 1 0 < ((s.feWords l).headD 0).toNat)) = true)
    ∧ (let s := queued { en := true } 0x510E []
       FeOut.waits (s.feAsk 1 .read (s.reg 1 0x1010) 1) = true)
    ∧ (let s := queued { en := true } 0 []
       FeOut.bads (s.feAsk 1 .read (s.reg 1 0x1010) 1) = true)
    ∧ ((9 : Word).getLsbD 0 = true ∧ 4 ≤ (9 : Word).toNat / 2 % 32 ∧ (0x21 : Word).toNat / 2 % 32 = 16 ∧ (0x23 : Word).toNat / 2 % 32 = 17 ∧ (7 : Word).toNat / 2 % 32 = 3)
    ∧ versionFails ((queued {} 0x511E []).reg 1 8) = [] ∧ versionFails 0 = (versionFails 0).headD 0 :: (versionFails 0).tail
    ∧ ((queued {} 0x511E []).fePlace 1 .read ((queued {} 0x511E []).reg 1 0x1010) 1).toOption.isSome = true
    ∧ (∃ j < 64, ((queued { en := true } 0x511E []).queueOf 1 j).en = true) ∧ (∀ j < 64, ((queued {} 0x511E []).queueOf 1 j).en = false) := by decide +kernel

/-- The slot at the read index holds a SIGNAL packet, or zeros, which are no packet. -/
theorem witness_Packets_accept :
    State.reset.feChoice 0 = none
    ∧ (∀ m ∈ [[(5 * 2 ^ 21, 2), (5 * 2 ^ 21 + 1, 16), (5 * 2 ^ 21 + 8, 64)], []], let s := queued { en := true, windex := 1 } 0x511E m
        (s.feChoice 0).map (·.1) = some (1, 0)
          ∧ (match s.nextPacket 1 0 with
             | some (o, ws) => FeOut.okIs o (fun _ => true) && (packetOk ws == !m.isEmpty)
             | none => false) = true) := by decide +kernel

theorem witness_Packets :
    (let p : Packet := { idx := 3, words := [] }
     let s := queued { packets := [p] } 0x511E []
     s.packetOf 1 0 3 = some p ∧ p.state = 0 ∧ p.state ≠ 1 ∧ FeOut.okIs (s.feAsk 1 .write 8 1) (fun l => decide (l = [5 * 2 ^ 21 + 8])) = true
      ∧ FeOut.okIs (s.feAsk 1 .rmw 8 1) (fun l => decide (l = [5 * 2 ^ 21 + 8])) = true ∧ FeOut.okIs (s.feAsk 1 .read 8 1) (fun l => decide (l = [5 * 2 ^ 21 + 8])) = true
      ∧ watchHolds 0 (s.memNat (5 * 2 ^ 21 + 8) 8) 0 = true ∧ watchHolds 0 (s.memNat (5 * 2 ^ 21 + 8) 8) 1 = false
      ∧ FeOut.okIs (s.feAsk 1 .write 8 2) (fun l => decide (l.length = 2)) = true ∧ (s.copyLines 1 0 64 0 1).2.2 = (none, false))
    ∧ pktIrq (0x20000 : Word) = true ∧ State.reset.msixMasked 1 0 = true ∧ ({ msix := [(256 + 3, 0)] } : State).msixMasked 1 0 = false
    ∧ (let s := queued { packets := [{ idx := 3, words := [], state := 1 }] } 0x510E []
       s.packetOf 1 0 3 = some { idx := 3, words := [], state := 1 } ∧ (∀ w ∈ s.watches, w.packet ≠ some (1, 0, 3))
        ∧ FeOut.waits (s.feAsk 1 .write 8 1) = true ∧ (s.copyLines 1 0 64 0 1).2.2 = (none, true))
    ∧ (let s := queued {} 0 []
       FeOut.bads (s.feAsk 1 .write 8 1) = true ∧ (s.copyLines 1 0 64 0 1).2.2.1.isSome = true) := by decide +kernel

/-- A launch graph of one node at address 0, with its launch header. -/
def graphMem : List Host.Cell := [(5 * 2 ^ 21, 0x10), (5 * 2 ^ 21 + 2, 1), (5 * 2 ^ 21 + 64 + 103, 0x10)]

theorem witness_Graphs_launch :
    let s := queued { packets := [{ idx := 3, words := [] }] } 0x511E graphMem
    s.packetOf 1 0 3 = some { idx := 3, words := [] } ∧ FeOut.okIs (s.feAsk 1 .write 8 1) (fun _ => true) = true
      ∧ FeOut.okIs (s.feAsk 1 .read 0 8) (fun l => decide (graphHeadBad (fun k => ((s.feWords l).getD k 0).toNat) = none
          ∧ bits ((s.feWords l).headD 0).toNat 31 16 = 1)
          && FeOut.okIs ((s.feFill l).feAsk 1 .read 0 40) (fun l' => decide (graphBad (s.feWords l') 1 = none))) = true := by decide +kernel

theorem witness_Graphs :
    (∀ k ∈ [(0 : Nat), 1], let s := { queued {} 0x511E [] with graphs := [(0, { vf := 1, nodes := 1, ready := [0], hdrs := [(0, (List.replicate 12 0) ++ [BitVec.ofNat 64 (k * 2 ^ 60), 0, 0, 0])] })] }
      let gr := s.graphOf 0
      gr.stopped = false ∧ gr.finished = false ∧ s.mayLaunch gr.vf = true ∧ gr.head = some 0 ∧ (s.headerBad gr.vf (Tbl.get gr.hdrs [] 0)).isNone = decide (k = 1))
    ∧ (let gr : Graph := { nodes := 2, counts := [(1, 1), (2, 2)], succ := [(0, [1])] }
       let s : State := { graphs := [(0, gr)], nodes := [(0, { finished := true, graph := some 0 })] }
       (s.graphOf 0).head = none ∧ (s.nodeOf 0).finished = true ∧ (s.nodeOf 0).counted = false ∧ (s.nodeOf 0).killed = false ∧ (s.nodeOf 0).graph = some 0 ∧ (s.nodeOf 1).finished = false
        ∧ ({ gr with done := gr.done ++ [0] } : Graph).decrements (Tbl.get gr.succ [] 0) = ({ gr with done := [0], counts := [(1, 0), (2, 2)], ready := [1] }, none)
        ∧ Tbl.get gr.counts 0 1 = 1 ∧ Tbl.get gr.counts 0 2 = 0 + 2)
    ∧ (let x : Graph := { vf := 1, assisted := true, nodes := 1 }
       let find (v : Word) := (List.find? (fun (p : Nat × Graph) => decide (p.2.vf = 1) && decide (p.2.queue = v.toNat / 2 ^ 16 % 64) && decide (p.2.packet % 2 ^ 32 = v.toNat / 2 ^ 32 % 2 ^ 32)
         && p.2.assisted && !p.2.finished && !p.2.stopped) [(0, x)]).map (·.1)
       find 0 = some 0 ∧ find 0x10000 = none ∧ (0 : Word).toNat % 2 ^ 16 < x.nodes ∧ Tbl.find? x.launched 0 = none ∧ 0 ∉ x.ready) := by decide +kernel

theorem witness_RegistersAndGates :
    (128 + 64 ≤ 192 ∧ 64 < 128 ∧ (7 : Nat) % 8 ≠ 0 ∧ 1020 < 1024 ∧ 1020 % 4 = 0) ∧ (∀ off ∈ [0x10, 0x20, 0x1000, 0x1FC0, 0x1FD0], off % 8 = 0 ∧ off ≠ 0x18 ∧ vfPlain off = true) ∧ vfPlain 0 = false
    ∧ (∀ off ∈ [0x2000, 0x21F8, 0x3000], off % 8 = 0 ∧ off < 0x8000 ∧ pfPlain off = true ∧ ¬(0x5500 ≤ off ∧ off < 0x5D00 ∧ off % 64 = 0))
    ∧ (∀ b ∈ [1, 64], 1 ≤ b ∧ b ≤ 64) ∧ (0x400FFF : Word).toNat / 2 ^ 16 % 256 = 64 ∧ (0x10000 : Word).toNat / 2 ^ 16 % 256 = 1 ∧ (0 : Word).toNat / 2 ^ 16 % 256 = 0
    ∧ 64 < (0x410000 : Word).toNat / 2 ^ 16 % 256 ∧ (State.reset.gateOf 4095).state = 0 ∧ (({ gates := [(0, { state := 1 })] } : State).gateOf 0).state ≠ 0 := by decide +kernel

/-- A loader command: GO, VF 64, KIND 1, INDEX 32767; the entry's image in LDSRC names guest frame 5, which the stage-two map or the
hypervisor's answer makes frame 5. -/
def ldCmd : Word := BitVec.ofNat 64 (1 + 64 + 64 * 2 ^ 16 + 32767 * 2 ^ 33)
def loader (src : Word) (mode : Word) : State := { bar := [(0x3000, src), (0x2000 + 8 * 63, mode)], frames := [(5, { owner := 64 }), (9, { owner := 64 })] }

theorem witness_TableCommands :
    (let n := ldCmd.toNat
     ldCmd.getLsbD 0 = true ∧ 1 ≤ ldVf n ∧ ldVf n ≤ 64 ∧ ldKind n ≠ 3 ∧ ldIndex n = 32767 ∧ ldGran n ≠ 3 ∧ (0 : Word).getLsbD 0 = false
      ∧ (1 : Word).getLsbD 0 = true ∧ ldVf (1 : Word).toNat = 0 ∧ 64 < ldVf (0x410001 : Word).toNat)
    ∧ ((loader 0x501E 1).reg 0 0x3000).toNat % 2 ^ 32 = 0x501E ∧ (0x501E : Nat).testBit 8 = false ∧ (0x511E : Nat).testBit 8 = true
    ∧ (((loader 0x511E 1).setReg 0 0x3008 (ldCmd &&& ~~~1)).resolveEntry 64 0 ((loader 0x511E 1).hostMode 64 0) 0x511E).toOption = some (0x511E, 5)
    ∧ (((loader 0x511E 0).setReg 0 0x3008 (ldCmd &&& ~~~1)).resolveEntry 64 0 ((loader 0x511E 0).hostMode 64 0) 0x511E).toOption = none
    ∧ (loader 1 0).hostMode 64 1 = false ∧ entV (Tbl.get ((loader 9 0).tableOf 64 1).entries 0 32767) = false
    ∧ (let s := { loader 9 0 with tables := [(257, { valid := true, entries := [(32767, 0x511E)] })] }
       let e := Tbl.get (s.tableOf 64 1).entries 0 32767
       entV e = true ∧ entClass e ≠ 2 ∧ (s.reg 0 0x3000).toNat % 2 ^ 20 = 9 ∧ granFrames (s.tableOf 64 1).gran = 1
        ∧ (s.frameRec 9).owner = 64 ∧ s.destWorn (entFrame e) 9 = false) := by decide +kernel

/-- An image of 32 pages of zeros in host memory the hypervisor maps directly, and one that is misaligned. -/
theorem witness_TableCommands_load :
    let s := loader (BitVec.ofNat 64 (2 ^ 39)) 1
    let z := s.setReg 0 0x3008 (ldCmd &&& ~~~1)
    (s.reg 0 0x3000).toNat % 4096 = 0 ∧ ((loader 1 0).reg 0 0x3000).toNat % 4096 ≠ 0
      ∧ (match z.imagePages 64 (s.hostMode 64 0) (2 ^ 39) (List.range 32) with
         | .ok pages => decide (pages.length = 32)
         | .error _ => false) = true := by decide +kernel

theorem witness_OwnersAndSeals :
    (let v : Word := BitVec.ofNat 64 (64 * 2 ^ 40 + 5)
     let n := v.toNat
     n / 2 ^ 48 % 2 ^ 15 = 0 ∧ n / 2 ^ 40 % 256 ≤ 64 ∧ n / 2 ^ 20 % 2 ^ 20 = 0 ∧ n % 2 ^ 20 < 2 ^ 18 - 1024 ∧ (State.reset.frameRec 5).owner ≠ 64 ∧ State.reset.frameWraps 5 = false ∧ (State.reset.frameRec 6).owner ≠ 64)
    ∧ ¬((65 * 2 ^ 40 : Nat) / 2 ^ 40 % 256 ≤ 64 ∨ (65 * 2 ^ 40 : Nat) / 2 ^ 40 % 256 = 0x7E ∨ (65 * 2 ^ 40 : Nat) / 2 ^ 40 % 256 = 0x7F)
    ∧ (2 ^ 18 - 1024 ≤ (2 ^ 18 - 1) % 2 ^ 20 ∧ (2 ^ 18 - 1) % 2 ^ 20 < 2 ^ 18)
    ∧ (let s : State := { kgens := [(64, [1, 0])], frames := [(5, { owner := 64 })] }
       let v : Word := BitVec.ofNat 64 (64 * 2 ^ 32 + 5)
       sealVf v.toNat = 64 ∧ v.toNat % 2 ^ 20 = 5 ∧ s.liveGens 64 = [1, 0] ∧ State.reset.liveGens 64 = [0] ∧ (s.frameRec 5).owner = 64 ∧ (s.frameRec 6).owner ≠ 64
        ∧ s.frameWraps 5 = false ∧ 5 ∈ s.ownedFrames 64 ∧ 2560 ∈ frameTiles 5 ∧ (s.tile 2560).kgen = 0 ∧ (s.tile 2560).bad = false
        ∧ ∀ k ∈ s.ownedFrames 64, ∀ t ∈ frameTiles k, (s.tile t).kgen ≠ 2) := by decide +kernel

theorem witness_FabricRecords :
    State.reset.rwBusy = false ∧ (({} : State).setReg 0 0x4030 (2 ^ 63)).rwBusy = true ∧ ((0x4000 : Word).toNat / 2 ^ 12 % 4 = 0 ∧ (0x4000 : Word).toNat / 2 ^ 14 % 4 = 1 ∧ (0xFFF : Word).toNat / 2 ^ 14 % 4 = 0 ∧ (∀ q ∈ State.reset.fabReqs, q.held = false)
      ∧ (0x1FFF : Word).toNat / 2 ^ 12 % 4 = 1 ∧ (0x5FFF : Word).toNat / 2 ^ 14 % 4 = 1 ∧ 2 ≤ (0x9000 : Word).toNat / 2 ^ 14 % 4)
    ∧ importOk [1, 0, 0, 0] = true ∧ importOk [8, 0, 0, 0] = false ∧ exportOk [1, 0, 0, 0] = true ∧ exportOk [16, 0, 0, 0] = false
    ∧ (let v (op oper : Nat) : Word := BitVec.ofNat 64 (3 + oper * 2 ^ 32 + 63 * 2 ^ 42 + op * 2 ^ 48)
       let k := rwWin (v 0 8)
       let s (w : RedWin) : State := { redwins := [(k, w)] }
       rwBad (v 0 9) = true ∧ rwBad (v 0 8) = false ∧ rwBad (v 1 8) = false ∧ rwBad (v 2 8) = false
        ∧ ((v 0 8).toNat / 2 ^ 48 % 4 = 0 ∧ (v 1 8).toNat / 2 ^ 48 % 4 = 1 ∧ (v 2 8).toNat / 2 ^ 48 % 4 = 2) ∧ rwWin (v 1 8) = k ∧ rwWin (v 2 8) = k
        ∧ ((s { live := true }).winOf k).live = true ∧ ((s { live := true }).winOf k).rounds = [] ∧ ((s { rounds := [(0, {})] }).winOf k).rounds ≠ []
        ∧ ((s {}).winOf k).live = false) := by decide +kernel

theorem witness_FabricArrivals_access :
    let s : State := { tables := [(4, { valid := true, entries := [(0, 0x511E)] })], frames := [(5, { owner := 1 })], exports := [(9, [BitVec.ofNat 64 (1 + 256 + 7 * 2 ^ 16), 0, 4096, 0])] }
    let r := s.exportRec' 9
    (expValid r = true ∧ expKind r = 0 ∧ expMoved r = false ∧ expSrc r = 7 ∧ 4095 < impWord r 2 ∧ ¬(4096 < impWord r 2))
      ∧ (xlate (s.lotTable (expVf r)) (BitVec.ofNat 64 (impWord r 1 + 4088)) .write .near).toOption = some { pa := 5 * 2 ^ 21 + 4088, cls := 0, frame := 5, off := 4088 }
      ∧ (xlate (s.lotTable (expVf r)) (BitVec.ofNat 64 (impWord r 1 + 4088)) .read .near).toOption = some { pa := 5 * 2 ^ 21 + 4088, cls := 0, frame := 5, off := 4088 }
      ∧ (∀ b ∈ s.arrivals, b.src ≠ 7 ∨ b.exp ≠ 9)
      ∧ (∃ b ∈ ({ s with arrivals := [{ src := 7, exp := 9, off := 0, wr := true, size := 8, v := 0 }] } : State).arrivals, ¬ (b.src ≠ 7 ∨ b.exp ≠ 9))
      ∧ (match xlate ({ valid := true, entries := [(0, 0x510E)] } : Table) 4088 .write .near with
         | .error e => decide (e.cause = 5)
         | .ok _ => false) = true
      ∧ s.ownerOk (expVf r) (5 * 2 ^ 21 + 4088) = true ∧ (s.accessCheck (expVf r) (5 * 2 ^ 21 + 4088) 8 4088).toOption = some () := by decide +kernel

theorem witness_FabricArrivals_ring : ∀ full ∈ [(1 : Nat), 2],
    let s := { user (ring2 (BitVec.ofNat 32 full) (BitVec.ofNat 32 full)) with exports := [(9, [BitVec.ofNat 64 (1 + 2 + 256 + 7 * 2 ^ 16), 0, 0, 0])] }
    let r := s.exportRec' 9
    let q := (s.ctxOf (impWord r 1 % 32) 0).ring (impWord r 1 / 2 ^ 8 % 64)
    expValid r = true ∧ expKind r = 1 ∧ expSrc r = 7 ∧ expMoved r = false ∧ s.crwWaiting = [] ∧ s.crwSlot r = some 0 ∧ 64 ≤ 64 * q.ssz ∧ 64 * q.ssz < 65
      ∧ (if full = 1 then q.free ≠ 0 else q.free = 0) ∧ ({ s with ctxs := [] } : State).crwSlot r = none := by decide +kernel

theorem witness_FabricArrivals_rounds :
    (let e := [BitVec.ofNat 64 (1 + 4 + 256), 0, 4096, 0]
     let s (w : RedWin) : State := { exports := [(0, e)], redwins := [(0, w)], tables := [(4, { valid := true, entries := [(0, 0x511E)] })], frames := [(5, { owner := 1 })] }
     let w : RedWin := { live := true, oper := 2, mask := 2 ^ 63 + 1 }
     let o : RedWin := { w with rounds := [(4092, { got := [(0, 7)] })] }
     let may (w : RedWin) (c off : Nat) := w.live = true ∧ w.mask.testBit c = true ∧ off < impWord ((s w).exportRec' w.expNo) 2
     may w 63 4092 ∧ ¬ may w 1 0 ∧ ¬ may w 0 4096 ∧ w.waiting = [] ∧ w.lost = false ∧ Tbl.find? w.rounds 4092 = none ∧ 0 < 64 ∧ 0 ≠ 63 ∧ w.mask.testBit 0 = true
      ∧ Tbl.find? o.rounds 4092 = some { got := [(0, 7)] } ∧ Tbl.find? [(0, (7 : BitVec 32))] 63 = none ∧ Tbl.find? o.heldMerge 4092 = none
      ∧ (∀ i < 64, o.mask.testBit i = true → i = 63 ∨ (Tbl.find? [(0, (7 : BitVec 32))] i).isSome = true)
      ∧ (s w).winOf (winKey 0 0) = w ∧ ({ w with live := false } : RedWin).live = false)
    ∧ (∀ tm ∈ [(99999999 : Nat), 100000000], let s : State := { clock := tm * tickParts }
       let w : RedWin := { rounds := [(0, {})] }
       (if tm < 100000000 then s.time < 0 + w.ticks else 0 + w.ticks ≤ s.time)) := by decide +kernel

/-- Every port carries traffic. -/
def allUp : Tbl Nat := (List.range 18).map fun p => (p, 1)
theorem ports_up (p : Fin 18) : decide (Tbl.get allUp 0 p.val = 1) = true := by revert p; decide

/-- Whatever the ports of a package, a group and a record are, they are up. -/
theorem witness_ports (s : State) (h : s.portUp = allUp) : (∀ n, s.packageUp n = true) ∧ (∀ n, s.groupUp n = true) ∧ ∀ r, s.portOk r = true := by
  refine ⟨fun n => ?_, fun n => ?_, fun r => ?_⟩
  · rw [State.packageUp, h]; exact ports_up _
  · rw [State.groupUp, h]; exact ports_up _
  · simp only [State.portOk, h]; exact ports_up _
theorem witness_ports_down : (∀ n, State.reset.packageUp n = false) ∧ ∀ r, State.reset.portOk r = false := ⟨fun _ => rfl, fun _ => rfl⟩

def mergeWin : RedWin := { live := true, oper := 2, mask := 2 ^ 63 + 1, rounds := [(4092, { got := [(0, 7)] })] }
/-- Window 0 of group 0 at home here, over the first granule of VF 1, with a round open. -/
def mergeHome : State :=
  { exports := [(0, [BitVec.ofNat 64 (1 + 4 + 256), 0, 4096, 0])], redwins := [(0, mergeWin)], tables := [(4, { valid := true, entries := [(0, 0x511E)] })],
    frames := [(5, { owner := 1 })], portUp := allUp }
theorem witness_FabricArrivals_merge : (match mergeHome.deliverMerge 0 mergeWin 4092 (mergeOf 2 [(0, 7), (63, 1)]) with
    | .done _ => true
    | _ => false) = true := by
  simp only [State.deliverMerge, (witness_ports mergeHome rfl).2.1]
  decide +kernel

theorem witness_FabricArrivals_requests : ∀ e ∈ [(none : Option Nat), some 8], let q : FabReq := { id := 1, core := 0, slot := 0, deadline := 0, engine := e }
    let s : State := { fabReqs := [q] }
    s.fabReqs.find? (fun q => decide (q.id = 1)) = some q ∧ q.round = none ∧ q.deadline ≤ s.time ∧ s.time < ({ q with deadline := 1 } : FabReq).deadline
      ∧ s.fabReqs.find? (fun q => decide (q.id = 2)) = none ∧ 17 < 18 := by decide +kernel

theorem resolve_zeros (σ : State) (vf g : Nat) (a : Bool) : ∀ l : List (Nat × Nat), (∀ p ∈ l, p.2 = 0) → σ.resolveImage vf g a l = .ok []
  | [], _ => rfl
  | (i, e) :: r, h => by
    have he : e = 0 := h (i, e) (by simp)
    subst he
    exact resolve_zeros σ vf g a r fun p hp => h p (by simp [hp])

/-- The image of zeros resolves to an empty table, whatever its pages. -/
theorem witness_TableCommands_image : ∀ (σ : State) (pages : List Nat), let s := loader (BitVec.ofNat 64 (2 ^ 39)) 1
    σ.resolveImage 64 0 (s.hostMode 64 0) ((pages.zipIdx).flatMap fun x => (List.range 1024).map fun j => (x.2 * 1024 + j, s.memNat (x.1 + 4 * j) 4)) = .ok [] := by
  intro σ pages s
  refine resolve_zeros σ 64 0 _ _ fun p hp => ?_
  simp only [List.mem_flatMap, List.mem_map] at hp
  obtain ⟨x, -, j, -, rfl⟩ := hp
  rfl

theorem witness_PartitionsAndTelemetry :
    (let bound (q : Queue) (u : Turn) (t : List (Nat × Task)) : State :=
       { bar := [(0x5100, 0x100), (0x5108, 0x100), (0x5500, 0x100)], queues := [(64, q)], partTurn := [(0, u)], tasks := t, nodes := [(0, { vf := 1 }), (1, { vf := 2 })],
         pool := t.map (·.1) }
     let s := bound {} {} []
     (s.coreOf 0).leaving = none ∧ (({ cores := [(0, { leaving := some 1 })] } : State).coreOf 0).leaving.isSome = true ∧ s.coreQuiet 0 = true
      ∧ ((1 : Word).toNat / 2 ^ 8 % 32 = s.partOf 0 ∧ (1 : Word).getLsbD 0 = (s.coreOf 0).enabled)
      ∧ (s.boundVfs (s.partOf 31) = [] ∧ (1 : Word).toNat / 2 ^ 8 % 32 ≠ s.partOf 31)
      ∧ ¬((0 : Word).toNat / 2 ^ 8 % 32 = s.partOf 0 ∧ (0 : Word).getLsbD 0 = true) ∧ (s.coreOf 0).enabled = true ∧ s.boundVfs (s.partOf 0) ≠ []
      ∧ (∀ c < 32, c ≠ 0 → s.partOf c ≠ s.partOf 0)
      ∧ (∃ q < 64, ((bound { en := true } {} []).queueOf 1 q).en = true) ∧ (∀ q < 64, (s.queueOf 64 q).en = false)
      ∧ s.turnDue 0 = false
      ∧ (let b := bound {} {} [(0, {}), (1, { node := 1 })]
         b.turnDue 0 = true ∧ b.nextVf 0 0 = some 1)
      ∧ (let b := bound {} { vf := 1 } [(0, { state := .running }), (1, { node := 1 })]
         b.turnDue 0 = true ∧ b.nextVf 0 1 = some 2 ∧ b.vfHolds 1 = true)
      ∧ (s.reg 0 (0x5500 + 64 * s.partOf 0)).getLsbD 8 = true ∧ (s.reg 0 (0x5500 + 64 * s.partOf 1)).getLsbD 8 = false
      ∧ (∃ k < 4, ((user {}).ctxOf 0 k).task.isSome = true)) := by decide +kernel

theorem witness_Migration :
    (let v : Word := 0x400000
     let s (st : Nat) (k : Bool) (r : Option MigRec) : State :=
       { frozen := [(64, st)], spdm := [(0, { session := k, bothKeys := k })], migRecs := r.toList }
     v.toNat / 2 ^ 16 % 256 = 64 ∧ (∀ st < 5, (s st true none).migState 64 = st ∧ (s st true none).migKey = true ∧ ¬(s st false none).migKey = true)
      ∧ (s 0 true (some { vf := 64 })).migRecs.map (·.vf) = [64] ∧ (s 0 true none).holder = [] ∧ (s 0 true none).migBusy = false
      ∧ ({ vf := 64 } : MigRec).tasks = [])
    ∧ (0 : Word).toNat / 2 ^ 16 % 256 = 0 ∧ 64 < (0x410000 : Word).toNat / 2 ^ 16 % 256 := by decide +kernel

theorem witness_Attestation :
    (∀ ph < 6, ∀ b ∈ [true, false], let s : State := { spdm := [(64, { phase := ph, session := b })] }
      (s.spdmOf 64).phase = ph ∧ (s.spdmOf 64).session = b) ∧ 7 < 8 ∧ (State.reset.measurement 64 7).isSome = true ∧ State.reset.measurement 64 0 = none := by
  decide +kernel

theorem witness_ErrorsAndPower :
    (∀ v ∈ [(3 : Nat), 13 + 256], let w : Word := BitVec.ofNat 64 v
      w.getLsbD 0 = true ∧ 1 ≤ w.toNat / 2 % 8 ∧ w.toNat / 2 % 8 ≤ 6) ∧ (0 : Word).getLsbD 0 = false ∧ ¬(1 ≤ (1 : Word).toNat / 2 % 8)
    ∧ (∀ n ∈ [(4096 : Nat), 2 ^ 26], let s : State := { bar := [(0x6008, BitVec.ofNat 64 n)] }
      4096 ≤ (s.reg 0 0x6008).toNat ∧ (s.reg 0 0x6008).toNat ≤ 2 ^ 26)
    ∧ (Tbl.get State.reset.fuses 0 6 < 64 ∧ ¬ Tbl.get ({ fuses := [(6, 64)] } : State).fuses 0 6 < 64)
    ∧ (∀ i < 7, Tbl.get State.reset.svnMin 0 i ≤ (State.reset.bankOf i 0).svn ∧ Tbl.get State.reset.svnMin 0 i ≤ (State.reset.bankOf i 1).svn ∧ State.reset.activeOf i ≤ 1)
    ∧ State.reset.classFirmware 63 = true
    ∧ (let s (o : Nat) : State := { frames := (List.range 16).map fun i => (Config.hostFrame - 1024 + 64 * i + 63, { owner := o }) }
       (s 0x7F).classFirmware (2047 / 32) = false ∧ (s 0x7F).classOwners (2047 / 32) = [] ∧ (s 64).classFirmware 63 = false ∧ (s 64).classOwners 63 = [64]) := by
  decide +kernel

/-- What the free values may be: each outcome of the two signature checks is one that nothing rules out, so the statement is about both. -/
theorem witness_ErrorsAndPower_free : (Config.freeBool 0 = true ∨ Config.freeBool 0 = false)
    ∧ ((Config.freeWord 0).toNat % 2 ^ 32 < (Config.freeWord 0).toNat % 2 ^ 32 + 1 ∧ 0 ≤ (Config.freeWord 0).toNat % 2 ^ 32) := by
  refine ⟨by cases Config.freeBool 0 <;> simp, by omega, by omega⟩

theorem witness_PrepAndPref : let s := user { s := [(1, 100)] }
    let a := addrM s 1 3 0
    let x : Xl := { pa := 5 * 2 ^ 21 + 64, cls := 0, frame := 5, off := 64 }
    (s.translate 0 0 (a &&& ~~~63) .read .plain).toOption = some x ∧ x.cls ≠ 2 ∧ (s.accessCheck (s.vfOf 0 0) x.pa 64 (a &&& ~~~63)).toOption = some () := by
  decide +kernel

/-- Each unit with a word before it: a context with LI s2, 5 and with zeros, an engine of each class, and a Rink core. -/
theorem witness_StepRunsDecodedInstruction :
    (let s := { user {} with agenda := [.ctl 0 0], mem := [(5 * 2 ^ 21, 5), (5 * 2 ^ 21 + 2, 0x40), (5 * 2 ^ 21 + 3, 0x1C)] }
     let z : State := { s with agenda := [] }
     s.condition = 0 ∧ z.ctxLive 0 0 = true ∧ (z.fetchCtl 0 0).toOption.map (·.1) = some 0x1C400005 ∧ decode .ctl 0x1C400005 = some (.li 2 5)
      ∧ ((user {}).fetchCtl 0 0).toOption.map (·.1) = some 0 ∧ decode .ctl 0 = none ∧ (z.wordTraps 0 0).isNone = true ∧ ((user {}).wordTraps 0 0).isSome = true)
    ∧ (let p (l : List (BitVec 32)) : Prog := { body := some l }
       let s (e : Nat) (l : List (BitVec 32)) : State :=
         { user {} with eng := e, engs := [(e, { run := some { prog := p l } })], frags := [(0, { state := 1 })], copies := [(0, { leased := true })] }
       let fetched (e : Nat) (l : List (BitVec 32)) (i : Nat) : Option Nat := match (s e l).fetchWord i with
         | .word w _ => some w
         | .stop _ => none
       fetched 0 [0x040828A8] 0 = some 0x040828A8 ∧ (decode .vec 0x040828A8).isSome = true ∧ (s 0 []).engLive 0 0 = true
        ∧ fetched 4 [0x0C2244B0] 0 = some 0x0C2244B0 ∧ (decode .mat 0x0C2244B0).isSome = true ∧ (s 4 []).engLive 0 4 = true
        ∧ fetched 8 [0x08920A28] 0 = some 0x08920A28 ∧ (decode .copy 0x08920A28).isSome = true ∧ (s 8 []).engLive 0 8 = true ∧ 0x08920A28 / 2 ^ 27 ≠ 9
        ∧ fetched 8 [0x48000000, 0x0C2244B0] 1 = some 0x0C2244B0 ∧ 0x48000000 / 2 ^ 27 = 9
        ∧ (s 0 []).engLive 0 0 = true ∧ fetched 0 [0] 0 = some 0 ∧ decode .vec 0 = none)
    ∧ RvOut.holds (((rinky {} {}).settleRink 0).rinkFetch 0) (fun w => decide (w = 0)) = true ∧ decode .rink 0x500B = none ∧ (decode .rink 0x13).isSome = true := by
  decide +kernel

theorem witness_WellFormedGoesOn : (Instr.add 31 31 31).wf = true ∧ (Instr.vadd 127 127 127 1 1 7).wf = true ∧ (Instr.taskDispatch 31 3).wf = true
    ∧ (Instr.tagParity 63 2047 0 true).wf = true ∧ (Instr.spdmFinish 64).wf = true := by decide +kernel

theorem witness_StepKeepsMemory : State.reset.Inv ∧ ∃ t, step State.reset = .next t := ⟨by show memWf [] = true; rfl, _, rfl⟩

/-! ## Small tests, each on one step or one computation of the spec's own examples -/

/-- R22, the example under it: under QUARTERS fragment s2 owns slab 428 and not slab 300, which is s0's. -/
theorem test_plan_quarters : ownsSlab 3 2 428 = true ∧ ownsSlab 3 2 300 = false ∧ ownsSlab 3 0 300 = true := by decide

/-- R33, the worked work-ID space: lot 7 starts with WID 0x01008000. -/
theorem test_wid : lotWid [4, 10, 6, 8, 0, 0] [3, 5, 64, 256, 1, 1] 2 7 = 0x01008000 := by decide

/-- R68, the worked address is homed on slice 6. -/
theorem test_home_slice : homeSlice 0x1234567000 = 6 := by decide

/-- R118, the worked block of E2M1: codes, scale byte 0x60 (TYPE 1), and what RUP makes of elements 0 and 2. -/
theorem test_q4_block :
    let xs := [Machine.Num.fin false 5 0, .fin true 697932185 (-29), .fin false 5 (-1), .fin false 858993459 (-32)] ++ List.replicate 28 Machine.Num.zero
    (q4encode xs 1 0 1).1.take 4 = [6, 11, 4, 0] ∧ (q4encode xs 1 0 1).2.1 = 0x60 := by decide +kernel

theorem test_adds_saturates : (match exec (.adds 3 1 2) (user { s := [(1, 0x7FFFFFFFFFFFFFFF), (2, 1)] }) with
    | .next t => t.cx.sreg 3
    | _ => 0) = 0x7FFFFFFFFFFFFFFF := by decide +kernel

theorem test_div_corner : (match exec (.div 3 1 2) (user { s := [(1, 7)] }) with
    | .next t => t.cx.sreg 3
    | _ => 0) = 0xFFFFFFFFFFFFFFFF := by decide +kernel

theorem test_sra_sign : (match exec (.sra 3 1 2) (user { s := [(1, 0x8000000000000000), (2, 68)] }) with
    | .next t => t.cx.sreg 3
    | _ => 0) = 0xF800000000000000 := by decide +kernel

theorem test_s0_discards : (match exec (.addi 0 1 5) (user { s := [(1, 7)] }) with
    | .next t => (t.cx.sreg 0, t.cx.pc)
    | _ => (1, 0)) = (0, 4) := by decide +kernel

/-- R97, the OR example: two near ORs of one lot combine, and its second result shows the first one's bit. -/
theorem test_near_or : (match exec (.atom 3 1 2 2 1 0 0 0) (user { s := [(1, 8), (2, 1)] }) with
    | .next t => (match exec (.atom 4 1 5 2 1 0 0 0) (t.setCx (t.cx.setS 5 4)) with
      | .next u => (u.cx.sreg 3, u.cx.sreg 4, ((u.commit 0 0).memNat (5 * 2 ^ 21 + 8) 8))
      | _ => (9, 9, 9))
    | _ => (9, 9, 9)) = (0, 1, 5) := by decide +kernel

/-- R85: a store is held until the commit. -/
theorem test_store_held : (match exec (.st 2 1 3 0) (user { s := [(1, 8), (2, 7)] }) with
    | .next t => (t.memNat (5 * 2 ^ 21 + 8) 8, (t.commit 0 0).memNat (5 * 2 ^ 21 + 8) 8)
    | _ => (9, 9)) = (0, 7) := by decide +kernel

/-- R143, R376: a transfer in a delay slot traps ILLEGAL at its word; the task ends with its node, whose cause it is. -/
theorem test_delay_slot : (match exec (.xferA 0) (user { pslots := 1, pc := 16 }) with
    | .next t => ((t.ctxOf 0 0).fault.cause, (t.ctxOf 0 0).fault.pc, (t.nodeOf 0).killed)
    | _ => (0, 0, false)) = (1, 16, true) := by decide +kernel

/-- R235, VLDA of 16 int32 elements at offset 0 of A: element 1 is the second word. -/
theorem test_vlda : (match exec (.vlda 1 0 0 0) { vecAt 2 { asize := 65536 } {} with abuf := [(4, 7)] } with
    | .next t => elemAt ((t.vecOf 0 0).reg 1) 4 1
    | _ => 0) = 7 := by decide +kernel

/-- R10, R360: the loader's invalid VF is refused with STATUS 2 and reason 5. -/
theorem test_table_refused : (match exec (.tableClear 1) State.reset with
    | .next t => t.reg 0 0x3010
    | _ => 0) = 0x502 := by decide +kernel

/-- A word placed for the next step runs as the first one: LI s2, 5. -/
theorem test_step_placed : (match step (State.reset.withFetchWord 32 0x1C400005) with
    | .next t => ((t.ctxOf 0 0).sreg 2, (t.ctxOf 0 0).pc)
    | _ => (0, 0)) = (5, 4) := by decide +kernel

/-! ## A word of every instruction, bit by bit as the tables of 07 R147 to R156 lay its fields out -/

theorem test_words_ctl_0 : decode .ctl 0b000001_10110_10011_01101_00000000000 = some (.add 22 19 13)
    ∧ decode .ctl 0b000001_10011_01101_11010_00000000001 = some (.sub 19 13 26)
    ∧ decode .ctl 0b000001_01101_11010_11101_00000000010 = some (.and 13 26 29)
    ∧ decode .ctl 0b000001_11010_11101_10001_00000000011 = some (.or 26 29 17)
    ∧ decode .ctl 0b000001_11101_10001_01011_00000000100 = some (.xor 29 17 11)
    ∧ decode .ctl 0b000001_10001_01011_01111_00000000101 = some (.andn 17 11 15)
    ∧ decode .ctl 0b000001_01011_01111_10110_00000000110 = some (.sll 11 15 22)
    ∧ decode .ctl 0b000001_01111_10110_10011_00000000111 = some (.srl 15 22 19)
    ∧ decode .ctl 0b000001_10110_10011_01101_00000001000 = some (.sra 22 19 13)
    ∧ decode .ctl 0b000001_10011_01101_11010_00000001001 = some (.ror 19 13 26)
    ∧ decode .ctl 0b000001_01101_11010_11101_00000001010 = some (.mul 13 26 29)
    ∧ decode .ctl 0b000001_11010_11101_10001_00000001011 = some (.mulh 26 29 17)
    ∧ decode .ctl 0b000001_11101_10001_01011_00000001100 = some (.mulhu 29 17 11)
    ∧ decode .ctl 0b000001_10001_01011_01111_00000001101 = some (.div 17 11 15)
    ∧ decode .ctl 0b000001_01011_01111_10110_00000001110 = some (.divu 11 15 22)
    ∧ decode .ctl 0b000001_01111_10110_10011_00000001111 = some (.rem 15 22 19)
    ∧ decode .ctl 0b000001_10110_10011_01101_00000010000 = some (.remu 22 19 13)
    ∧ decode .ctl 0b000001_10011_01101_11010_00000010001 = some (.min 19 13 26)
    ∧ decode .ctl 0b000001_01101_11010_11101_00000010010 = some (.max 13 26 29)
    ∧ decode .ctl 0b000001_11010_11101_10001_00000010011 = some (.minu 26 29 17)
    ∧ decode .ctl 0b000001_11101_10001_01011_00000010100 = some (.maxu 29 17 11)
    ∧ decode .ctl 0b000001_10001_01011_01111_00000010101 = some (.adds 17 11 15) := by decide

theorem test_words_ctl_1 : decode .ctl 0b000001_01011_01111_10110_00000010110 = some (.subs 11 15 22)
    ∧ decode .ctl 0b000001_01111_10110_0000000000010111 = some (.clz 15 22)
    ∧ decode .ctl 0b000001_10110_10011_0000000000011000 = some (.ctz 22 19)
    ∧ decode .ctl 0b000001_10011_01101_0000000000011001 = some (.popc 19 13)
    ∧ decode .ctl 0b000001_01101_11010_0000000000011010 = some (.sext8 13 26)
    ∧ decode .ctl 0b000001_11010_11101_0000000000011011 = some (.sext16 26 29)
    ∧ decode .ctl 0b000001_11101_10001_0000000000011100 = some (.sext32 29 17)
    ∧ decode .ctl 0b000001_10001_01011_0000000000011101 = some (.zext32 17 11)
    ∧ decode .ctl 0b000001_01011_0000000_111_00000011110 = some (.movf 11 7)
    ∧ decode .ctl 0b000001_01111_0000000_110_00000011111 = some (.movb 15 6)
    ∧ decode .ctl 0b000010_10110_10011_1000001001100011 = some (.addi 22 19 33379)
    ∧ decode .ctl 0b000011_10011_01101_0001001010001000 = some (.andi 19 13 4744)
    ∧ decode .ctl 0b000100_01101_11010_1010101101011111 = some (.ori 13 26 43871)
    ∧ decode .ctl 0b000101_11010_11101_1001100111111111 = some (.xori 26 29 39423)
    ∧ decode .ctl 0b000110_11101_10001_0000000000_101011 = some (.slli 29 17 43)
    ∧ decode .ctl 0b000110_10001_01011_0100000000_001111 = some (.srli 17 11 15)
    ∧ decode .ctl 0b000110_01011_01111_1000000000_010110 = some (.srai 11 15 22)
    ∧ decode .ctl 0b000110_01111_10110_1100000000_110011 = some (.rori 15 22 51)
    ∧ decode .ctl 0b000111_10110_00000_0010110100000101 = some (.li 22 11525)
    ∧ decode .ctl 0b001000_10011_00000_1000001010001101 = some (.lih 19 33421)
    ∧ decode .ctl 0b001001_01101_11010_1010101110000100 = some (.muli 13 26 43908)
    ∧ decode .ctl 0b001010_010_0110_10001_01011_000000000 = some (.cmp 2 6 17 11) := by decide

theorem test_words_ctl_2 : decode .ctl 0b001011_101_0100_01011_01000111110110 = some (.cmpi 5 4 11 4598)
    ∧ decode .ctl 0b001100_001_00000001111111000000001 = some (.prep 1 65025)
    ∧ decode .ctl 0b001101_011_111_00000000000000000000 = some (.xfer 3 7)
    ∧ decode .ctl 0b001101_111_110_10000000000000000000 = some (.xferN 7 6)
    ∧ decode .ctl 0b001101_110_00001000000000000000000 = some (.xferA 6)
    ∧ decode .ctl 0b001101_011_101_1_0_01_11010_00000000000 = some (.xferL 3 5 1 0 26)
    ∧ decode .ctl 0b001101000_101_1_0_10_11010_00000000000 = some (.xferR 5 1 0 26)
    ∧ decode .ctl 0b001110_010_0_101_0000000000000000000 = some (.vany 2 5)
    ∧ decode .ctl 0b001110_101_1_001_0000000000000000000 = some (.vall 5 1)
    ∧ decode .ctl 0b001111_001_011_111_00000000000000000 = some (.flagAnd 1 3 7)
    ∧ decode .ctl 0b001111_011_111_110_00000000000000001 = some (.flagOr 3 7 6)
    ∧ decode .ctl 0b001111_111_110_011_00000000000000010 = some (.flagXor 7 6 3)
    ∧ decode .ctl 0b001111_110_011_101_00000000000000011 = some (.flagAndn 6 3 5)
    ∧ decode .ctl 0b001111_011_101_00000000000000000100 = some (.flagNot 3 5)
    ∧ decode .ctl 0b001111_101_000000_0_0000000000000101 = some (.flagSet 5 0)
    ∧ decode .ctl 0b010000_11010_11101_01_11111001000010 = some (.ld 26 29 1 15938)
    ∧ decode .ctl 0b010001_11101_10001_11_01001001000000 = some (.st 29 17 3 4672)
    ∧ decode .ctl 0b010010_10001_01011_11_11101101111100 = some (.ldl 17 11 3 15228)
    ∧ decode .ctl 0b010011_01011_01111_10_10110101101010 = some (.stl 11 15 2 11626)
    ∧ decode .ctl 0b010100_01111_10110_11_00001011110011 = some (.lda 15 22 3 755)
    ∧ decode .ctl 0b010101_10110_10011_01_01001100010111 = some (.sta 22 19 1 4887)
    ∧ decode .ctl 0b010110_10011_01101_10_01001100011100 = some (.ldc 19 13 4892) := by decide

theorem test_words_ctl_3 : decode .ctl 0b010110_01101_11010_11_10101111110011 = some (.ldcNowait 13 26 11251)
    ∧ decode .ctl 0b01011100000_11010_01_01101010010011 = some (.pref 26 1 6803)
    ∧ decode .ctl 0b011000_11101_10001_01011_1000_1_0_10_101 = some (.atom 29 17 11 8 1 0 2 5)
    ∧ decode .ctl 0b011001_10001_01011_01111_0000_0_1_01_101 = some (.acas 17 11 15 0 1 1 5)
    ∧ decode .ctl 0b011010000_01_10010_0000000000000000 = some (.mkdep 1 18)
    ∧ decode .ctl 0b011010001_10_01001_00100001_011_00000 = some (.mkrdT 2 9 33 3)
    ∧ decode .ctl 0b01101001001_10110_10011001_000_01101 = some (.mkrdW 22 153 13)
    ∧ decode .ctl 0b011010011_10_01001_00100001_011_00000 = some (.mktakeT 2 9 33 3)
    ∧ decode .ctl 0b01101010001_01101_01000111_000_00101 = some (.mktakeW 13 71 5)
    ∧ decode .ctl 0b011011_11010_00000_1010110000011100 = some (.gets 26 44060)
    ∧ decode .ctl 0b01110000000_11101_1001101010111100 = some (.sets 29 39612)
    ∧ decode .ctl 0b10000000_1_00000_001111111010010101 = some (.forkVec 1 65173)
    ∧ decode .ctl 0b10000001_1_01111_011111101111001011 = some (.forkMat 1 15 129995)
    ∧ decode .ctl 0b10000010_1_10110_010010110110111001 = some (.forkCopy 1 22 77241)
    ∧ decode .ctl 0b100001_10110_1_0000000_0001101000001 = some (.mark 22 1 833)
    ∧ decode .ctl 0b10001000_011_01101_000_1001101100110 = some (.rdvSet 3 13 4966)
    ∧ decode .ctl 0b10001001_101_000000000000000000000 = some (.rdvWait 5)
    ∧ decode .ctl 0b10001010_010_00000_101_0000000000000 = some (.rdvTest 2 5)
    ∧ decode .ctl 0b100011_11101_00000000_1101011100001 = some (.qdrop 29 6881)
    ∧ decode .ctl 0b10010000000000_10001_0000000000000 = some (.twaitAny 17)
    ∧ decode .ctl 0b10010000100000_01011_0000000000000 = some (.twaitAll 11)
    ∧ decode .ctl 0b100100010_01111_10110_0000000000000 = some (.tffr 15 22) := by decide

theorem test_words_ctl_4 : decode .ctl 0b10010001100000_10110_0000000000000 = some (.tcancel 22)
    ∧ decode .ctl 0b1001010000_110011_00000_01101_000000 = some (.rset 51 13)
    ∧ decode .ctl 0b1001010001_101101_11010_11101_000000 = some (.rclaim 45 26 29)
    ∧ decode .ctl 0b1001010010_011010_00000_11101_000000 = some (.rdone 26 29)
    ∧ decode .ctl 0b1001010011_011101_00000_10001_000000 = some (.rwaitf 29 17)
    ∧ decode .ctl 0b1001010100_110001_00000_01011_000000 = some (.rwaite 49 11)
    ∧ decode .ctl 0b1001010101_101011_00000_01111_000000 = some (.radv 43 15)
    ∧ decode .ctl 0b1001010110_001111_10110_10011_000000 = some (.rget 15 22 19)
    ∧ decode .ctl 0b10011000000_10110_0000000000000000 = some (.phase 22)
    ∧ decode .ctl 0b100111_110001_001010_100_00000000000 = some (.fenceX 49 10 4)
    ∧ decode .ctl 0b10100000000_01101_11010_11101_000_011 = some (.waitc 13 26 29 3)
    ∧ decode .ctl 0b10100100000_11010_11101_00000000000 = some (.signalSet 26 29)
    ∧ decode .ctl 0b10100100000_11101_10001_00000000001 = some (.signalAdd 29 17)
    ∧ decode .ctl 0b101010000_10001_01011_00000000_00011 = some (.leaseW 17 11 3)
    ∧ decode .ctl 0b101010001_01011_0000000000000_00100 = some (.leaseT 11 4)
    ∧ decode .ctl 0b101010010_01111_10110_00000000_11_000 = some (.leasecW 15 22 3)
    ∧ decode .ctl 0b101010011_10110_0000000000000_11_000 = some (.leasecT 22 3)
    ∧ decode .ctl 0b10101010000000_10011_0000000000000 = some (.unlease 19)
    ∧ decode .ctl 0b10101100000000000000000000000_011 = some (.split 3)
    ∧ decode .ctl 0b10110000000_11010_0000000000000000 = some (.kick 26)
    ∧ decode .ctl 0b1011010000000_11101_10001_000000000 = some (.mbact 29 17)
    ∧ decode .ctl 0b1011010100000_10001_01011_01111_0000 = some (.mbobsW 17 11 15) := by decide

theorem test_words_ctl_5 : decode .ctl 0b10110110_01011_01111_10110_000000000 = some (.mbobsT 11 15 22)
    ∧ decode .ctl 0b101110_1111_0_10110_0000000000000000 = some (.strm 15 22)
    ∧ decode .ctl 0b101111_0110_0_10011_00000000000000_01 = some (.txset 6 19 1)
    ∧ decode .ctl 0b101111_0011_0_01101_1000000000000000 = some (.txsetM 3 13)
    ∧ decode .ctl 0b110000_101_00_11010_0000000000000000 = some (.cvset 5 26)
    ∧ decode .ctl 0b11000100000_11010_0000000_011010101 = some (.deadA 26 213)
    ∧ decode .ctl 0b11000110000_11101_0000000_101110101 = some (.deadW 29 373)
    ∧ decode .ctl 0b11001000000000000000000000000000 = some .yield
    ∧ decode .ctl 0b11001000000000000000000000000001 = some .exit
    ∧ decode .ctl 0b1100110000000000_1101001101010001 = some (.trap 54097)
    ∧ decode .ctl 0b11111000000_10110_10011_00000000000 = some (.eret 22 19)
    ∧ decode .ctl 0b111110_10011_01101_11010_00000000001 = some (.ctxsv 19 13 26)
    ∧ decode .ctl 0b111110_01101_11010_11101_00000000010 = some (.ctxld 13 26 29)
    ∧ decode .ctl 0b111110_11010_11101_10001_00000000011 = some (.accspill 26 29 17)
    ∧ decode .ctl 0b111110_11101_10001_01011_00000000100 = some (.keyld 29 17 11)
    ∧ decode .ctl 0b11111000000_10001_0000000000000101 = some (.wdog 17) := by decide

theorem test_words_vec_0 : decode .vec 0b000001_0101011_1001111_1010110_1_1_010 = some (.vadd 43 79 86 1 1 2)
    ∧ decode .vec 0b000010_1001111_1010110_0110011_1_0_101 = some (.vsub 79 86 51 1 0 5)
    ∧ decode .vec 0b000011_1010110_0110011_1101101_0_1_001 = some (.vmul 86 51 109 0 1 1)
    ∧ decode .vec 0b000100_0110011_1101101_1011010_1_1_011 = some (.vfma 51 109 90 1 1 3)
    ∧ decode .vec 0b000101_1101101_1011010_0011101_1_0_111 = some (.vadds 109 90 29 1 0 7)
    ∧ decode .vec 0b000110_1011010_0011101_1110001_0_1_110 = some (.vsubs 90 29 113 0 1 6)
    ∧ decode .vec 0b000111_0011101_1110001_0101011_1_0_011 = some (.vmin 29 113 43 1 0 3)
    ∧ decode .vec 0b001000_1110001_0101011_1001111_0_1_101 = some (.vmax 113 43 79 0 1 5)
    ∧ decode .vec 0b001001_0101011_1001111_1010110_1_1_010 = some (.vmulh 43 79 86 1 1 2)
    ∧ decode .vec 0b001010_1001111_1010110_0110011_1_0_101 = some (.vand 79 86 51 1 0 5)
    ∧ decode .vec 0b001011_1010110_0110011_1101101_0_1_001 = some (.vor 86 51 109 0 1 1)
    ∧ decode .vec 0b001100_0110011_1101101_1011010_1_1_011 = some (.vxor 51 109 90 1 1 3)
    ∧ decode .vec 0b001101_1101101_1011010_0011101_1_0_111 = some (.vshl 109 90 29 1 0 7)
    ∧ decode .vec 0b001110_1011010_0011101_1110001_0_1_110 = some (.vshr 90 29 113 0 1 6)
    ∧ decode .vec 0b001111_0011101_1110001_0101011_1_0_011 = some (.vhash 29 113 43 1 0 3)
    ∧ decode .vec 0b0100000000_001_0101011_1001111_0_1_101 = some (.vceq 1 43 79 0 1 5)
    ∧ decode .vec 0b0100010000_011_1001111_1010110_1_1_010 = some (.vcne 3 79 86 1 1 2)
    ∧ decode .vec 0b0100100000_111_1010110_0110011_1_0_101 = some (.vclt 7 86 51 1 0 5)
    ∧ decode .vec 0b0100110000_110_0110011_1101101_0_1_001 = some (.vcle 6 51 109 0 1 1)
    ∧ decode .vec 0b0101000000_011_1101101_1011010_1_1_011 = some (.vcgt 3 109 90 1 1 3)
    ∧ decode .vec 0b0101010000_101_1011010_0011101_1_0_111 = some (.vcge 5 90 29 1 0 7)
    ∧ decode .vec 0b010110_1011010_0011101_1110001_0_1_110 = some (.vsel 90 29 113 0 1 6) := by decide

theorem test_words_vec_1 : decode .vec 0b010111_0011101_1110001_0000000_1_0_111 = some (.vmov 29 113 1 7)
    ∧ decode .vec 0b011000_1110001_0101011_010_0111_0_0_101 = some (.vcvt 113 43 2 7 0 5)
    ∧ decode .vec 0b011001_0101011_1001111_011_00_01_1_0_010 = some (.vqnt 43 79 3 1 1 2)
    ∧ decode .vec 0b011010_1001111_1010110_0110011_1_0_101 = some (.vdq 79 86 51 1 0 5)
    ∧ decode .vec 0b100000_1010110_0110011_010001110_010 = some (.vaddi 86 51 142 2)
    ∧ decode .vec 0b100001_0110011_1101101_010110011_101 = some (.vmuli 51 109 179 5)
    ∧ decode .vec 0b100010_1101101_1011010_110001010_001 = some (.vandi 109 90 394 1)
    ∧ decode .vec 0b100011_1011010_0011101_000101010_011 = some (.vori 90 29 42 3)
    ∧ decode .vec 0b100100_0011101_1110001_000000010_111 = some (.vxori 29 113 2 7)
    ∧ decode .vec 0b100101_1110001_0101011_000010011_110 = some (.vshli 113 43 19 6)
    ∧ decode .vec 0b100110_0101011_1001111_000010101_011 = some (.vshri 43 79 21 3)
    ∧ decode .vec 0b100111_1001111_0000000_101000001_011 = some (.vsplat 79 321 3)
    ∧ decode .vec 0b101000_1010110_0110011_010110011_010 = some (.vmini 86 51 179 2)
    ∧ decode .vec 0b101001_0110011_1101101_011011000_101 = some (.vmaxi 51 109 216 5)
    ∧ decode .vec 0b110000_1101101_0_011010_0011101_00_001 = some (.vlda 109 26 29 1)
    ∧ decode .vec 0b1100010_011010_0011101_1110001_0_0_111 = some (.vsta 26 29 113 0 7)
    ∧ decode .vec 0b110010_0011101_0_110001_0101011_00_111 = some (.vldc 29 49 43 7)
    ∧ decode .vec 0b110010_1110001_0_101011_1001111_01_110 = some (.vldcNowait 113 43 79 6)
    ∧ decode .vec 0b1100110_101011_1001111_1010110_1_0_101 = some (.vstc 43 79 86 1 5)
    ∧ decode .vec 0b110100_1001111_0_010110_0_110011_00_101 = some (.vgath 79 22 51 5)
    ∧ decode .vec 0b1101010_010110_0110011_0_101101_0_0_101 = some (.vscat 22 51 45 0 5)
    ∧ decode .vec 0b1101100_110011_0_101101_0110_1_0000_001 = some (.vatom 51 45 6 1 1) := by decide

theorem test_words_vec_2 : decode .vec 0b110111_1101101_1011010_0011101_1_0_111 = some (.vperm 109 90 29 1 0 7)
    ∧ decode .vec 0b1110000_011010_0011101_011_000000_111 = some (.vshuf 26 29 3 0 7)
    ∧ decode .vec 0b111001_0011101_1110001_011_0000_1_0_110 = some (.vred 29 113 3 1 6)
    ∧ decode .vec 0b111010_1110001_0101011_010_0000_0_0_011 = some (.vscan 113 43 2 0 3)
    ∧ decode .vec 0b1110110000_011_0000_111_010_0_011_00_101 = some (.vplog 3 7 2 3 5)
    ∧ decode .vec 0b11110000000000000000000000000000 = some .vhalt
    ∧ decode .vec 0b111101_1_0_100_000000000000000000000 = some (.vfl 1 0 4)
    ∧ decode .vec 0b111111_0110011_1101101_0000000_0_0_101 = some (.exp2 51 109 0 5)
    ∧ decode .vec 0b111111_1101101_1011010_0000001_1_0_001 = some (.log2 109 90 1 1)
    ∧ decode .vec 0b111111_1011010_0011101_0000010_0_0_011 = some (.rcp 90 29 0 3)
    ∧ decode .vec 0b111111_0011101_1110001_0000011_1_0_111 = some (.rsq 29 113 1 7)
    ∧ decode .vec 0b111111_1110001_0101011_0000100_0_0_110 = some (.vabs 113 43 0 6)
    ∧ decode .vec 0b111111_0101011_1001111_0000101_0_0_011 = some (.vneg 43 79 0 3)
    ∧ decode .vec 0b111111_1001111_1010110_0000110_1_0_101 = some (.vclz 79 86 1 5)
    ∧ decode .vec 0b111111_1010110_0110011_0000111_0_0_010 = some (.vpopc 86 51 0 2) := by decide

theorem test_words_mat_0 : decode .mat 0b00001_1_1_0_100_0001_1011_10010000010_01 = some (.mma 1 1 0 4 1 11 1154 1)
    ∧ decode .mat 0b00010_1_0_1_011_011_1111_0110_10_00101100 = some (.conv 1 0 1 3 3 15 6 2 44)
    ∧ decode .mat 0b00011_1_1_0_100_10010010_10010001011_00 = some (.accz 1 1 4 146 1163)
    ∧ decode .mat 0b00100_1_0_0_010_1111_0_000_11110110001_00 = some (.accmv 1 0 2 15 0 1969)
    ∧ decode .mat 0b00101_1_1_0_011_0110_0000_0111110110110 = some (.swait 1 1 3 6 4022)
    ∧ decode .mat 0b00110_1_0_0_100_0011_0000_0010100111110 = some (.sadv 1 0 4 3 1342)
    ∧ decode .mat 0b00111_1_1_0_101_0000_1_0001010101100011 = some (.smark 1 1 5 1 5475)
    ∧ decode .mat 0b01000_1_0_0_001_010_1_011_0000_0000000000 = some (.linkcfg 1 0 1 2 1 3 0)
    ∧ decode .mat 0b01001_1_1_0_001_0000_1101_0000000000000 = some (.wld 1 1 1 13)
    ∧ decode .mat 0b01010_1_0_0_010_0001_0000_00010110010_00 = some (.accld 1 0 2 1 178)
    ∧ decode .mat 0b01011_1_1_0_011_1011_00000000000000000 = some (.srst 1 1 3 11)
    ∧ decode .mat 0b11110_1_0_0_100_000000000000000000000 = some (.matNop 1 0 4)
    ∧ decode .mat 0b11111000000000000000000000000000 = some .matHalt := by decide

theorem test_words_copy_0 : decode .copy 0b00001_1_0_0_1_101101_000_1101_000_0001_000 = some (.cld 1 0 0 1 45 0 13 1)
    ∧ decode .copy 0b00001_1_1_1_1_011010_001_0001_1_101011_000 = some (.cldRing 1 1 1 1 26 1 1 43)
    ∧ decode .copy 0b00010_1_0_1_1_011101_010_1011_000_1111_000 = some (.cst 1 0 1 1 29 2 11 15)
    ∧ decode .copy 0b00010_1_1_0_1_110001_011_1111_1_010110_000 = some (.cstRing 1 1 0 1 49 3 15 22)
    ∧ decode .copy 0b0001100_1_1_011101_0001_1011_011_10_0000 = some (.cstq 1 1 29 1 11 3 2)
    ∧ decode .copy 0b0010000_0_1_110001_1011_1111_00001101_0 = some (.cmc 0 1 49 11 15 13)
    ∧ decode .copy 0b0010100_1_1_101011_1111_0110_0011_00000 = some (.cga 1 1 43 15 6 3)
    ∧ decode .copy 0b0011000_1_1_001111_0110_0011_1101_00000 = some (.csc 1 1 15 6 3 13)
    ∧ decode .copy 0b0011100_1_1_010110_0011_1101_000000000 = some (.crw 1 1 22 3 13)
    ∧ decode .copy 0b0100000_1_1_110011_1101_1010_000000000 = some (.cred 1 1 51 13 10)
    ∧ decode .copy 0b01010_1_0_1_0000000_100_011101_00011111 = some (.cwt 1 0 1 4 29 31)
    ∧ decode .copy 0b01011_1_1_0_0000000_101_110001_11110111 = some (.cadv 1 1 0 5 49 247)
    ∧ decode .copy 0b0110000_1_0000000_0_1010111010001101 = some (.cmark 1 0 44685)
    ∧ decode .copy 0b11110_1_1_1_0000000_100_00000000000000 = some (.cnop 1 1 1 4)
    ∧ decode .copy 0b11111000000000000000000000000000 = some .chalt ∧ decode .copy 0b11111_0_0_1_000000000000000000000000 = some .chaltS := by decide

theorem test_words_rink_0 : decode .rink 0b000000000000_10001_000_01011_0001011 = some (.mbRecv 17 11)
    ∧ decode .rink 0b0000000_01011_01111_001000000001011 = some (.mbSend 11 15)
    ∧ decode .rink 0b00000000000000000010_01111_0001011 = some (.mbPoll 15)
    ∧ decode .rink 0b00000000000000000011000000001011 = some .epStep
    ∧ decode .rink 0b000000000000_10011_100000000001011 = some (.epExit 19) := by decide

/-- R155: CLDM, major 0x09, E 0, T 1, tag 42, shape 5, ring 33, sequencer 2, with the worked MMA word behind it. -/
theorem test_words_cldm : decode .copy (0b01001_00_0_1_101010_0101_100001_10_00000 + 2 ^ 32 * 0x0C2244B0) = some (.cldm 0 1 42 5 33 2 0x0C2244B0) := by decide

/-- R281, RV64GC: addi x1, x0, 5; c.li x10, 1. -/
theorem test_words_rv : decode .rink 0x00500093 = some (.rv64gc 0x00500093) ∧ decode .rink 0x4505 = some (.rv64gc 0x4505) := by decide

/-! ## Witnesses: windows of the fabric, metadata, pending combines -/

/-- The lot of `user` with its fourth granule a window through import record 8, whose first word is `r`, and every port up. -/
def windowed (r : Nat) (c : Ctx) (q : List FabReq) : State :=
  { user { c with s := [(1, 3 * 2 ^ 21), (2, 3)] } with imports := [(8, [BitVec.ofNat 64 r, 0])], fabReqs := q, portUp := allUp }
def windowXl (s : State) (k : Kind) : Option (Nat × Nat × Nat) := (s.translate 0 0 (addrM s 1 3 0) k .plain).toOption.map fun x => (x.cls, x.frame, x.off)

/-- A load, a store and a far atomic of a window: with every byte held, with nothing sent, and with each answer. -/
theorem witness_windows :
    (∀ r ∈ [0, 1, 3], windowXl (windowed r {} []) .read = some (2, 8, 0) ∧ windowXl (windowed r {} []) .write = some (2, 8, 0) ∧ windowXl (windowed r {} []) .rmw = some (2, 8, 0)
      ∧ (windowed r {} []).windowOk 8 = decide (r = 1) ∧ impValid ((windowed r {} []).importRec 8) = decide (r ≠ 0)
      ∧ (((windowed r {} []).importRec 8).getD 0 0).toNat / 2 % 4 = r / 2 ∧ (windowed r {} []).sentBy 0 0 none = none ∧ (windowed r {} []).ctx < 4)
    ∧ (addrM (windowed 1 {} []) 1 3 0).toNat % 8 = 0 ∧ (windowed 1 {} []).cx.hasAll (2 ^ 41 + 8 * 2 ^ 29) 8 = false
    ∧ (windowed 1 { held := (List.range 8).map fun i => (2 ^ 41 + 8 * 2 ^ 29 + i, 7) } []).cx.hasAll (2 ^ 41 + 8 * 2 ^ 29) 8 = true
    ∧ (∀ a ∈ [none, some 1, some 2, some 3], ∀ h ∈ [true, false], ∀ k ∈ [none, some (0, 0)],
        let q : FabReq := { id := 0, core := 0, slot := 0, deadline := 9, answer := a, held := h, round := k, record := [1, 0] }
        (windowed 1 {} [q]).sentBy 0 0 none = some q)
    ∧ ((windowed 3 {} []).winOf 0).live = false ∧ (({ windowed 3 {} [] with redwins := [(0, { live := true })] } : State).winOf 0).live = true
    ∧ (windowed 3 {} []).windowOper 8 = none ∧ (0, 2) ∈ [(9, 0), (0, 2), (4, 3), (5, 4), (6, 5), (7, 6), (1, 7), (2, 8)]
    ∧ (({ windowed 3 {} [] with redwins := [(0, { live := true, oper := 3 })] } : State).windowOper 8 = some 3)
    ∧ (windowed 1 {} []).portUp = allUp ∧ (0 / 64 ∈ (windowed 1 { lines := [0] } []).cx.lines ∧ (windowed 1 {} []).cx.lines.length < 8192) := by decide +kernel

/-- A commit buffer of 8,192 other lines. -/
theorem witness_StoreToMemory_full (l : List Nat) (h : l = List.replicate 8192 0) : (user { s := [(1, 8)], lines := l }).cx.lines = l
    ∧ ¬(5 * 2 ^ 15 ∈ l ∨ l.length < 8192) := by
  refine ⟨rfl, ?_⟩
  rw [h, List.length_replicate]
  rintro (h | h)
  · exact absurd (List.eq_of_mem_replicate h) (by decide)
  · omega

/-- LDC.NOWAIT of a free slab, and the metadata word of tile 2560, which is not in the far cache. -/
theorem witness_BufferAccess_free : let s := user { s := [(1, 0)] }
    Tbl.get s.accown 7 (s.core * 2048 + 0) = 7 ∧ s.ctx < 4 ∧ (s.cx.sreg 1 + (0 : BitVec 14).signExtend 64 * 4).toNat % 4 = 0 := by decide +kernel
theorem witness_StoreToMemory_meta : metaTile 0x7F8000A000 = some 2560 ∧ Tbl.find? (firm {}).fcache (2560 * 4096) = none
    ∧ 2560 * 4096 / 4096 = 2560 ∧ 2561 * 4096 / 4096 ≠ 2560 := by decide +kernel

theorem witness_SystemRegisters_ranges : (∀ v ∈ [0x090A, 0x190A, 0x0A09, 0x0A1F], let v : Word := BitVec.ofNat 64 v
      v.toNat / 2 ^ 8 % 32 < 10 ∨ 24 < v.toNat / 2 ^ 8 % 32 ∨ v.toNat % 32 < 10 ∨ 30 < v.toNat % 32)
    ∧ (0 : Word).toNat = 0 ∧ 2 ^ 40 ≤ (BitVec.ofNat 64 (2 ^ 40) : Word).toNat ∧ (firm {}).ctx = 4 ∧ (0x8001 : BitVec 16).toNat = 0x8001 ∧ 0x8007 ≤ (0xFFFF : BitVec 16).toNat := by
  decide +kernel

/-- A combine pending on the word of a near atomic, of its operation and of another; and an atomic that does not translate. -/
theorem witness_Atomics_pending : ∀ w ∈ [0, 1], let s := user { s := [(1, 8), (2, 3), (4, 2 ^ 21)], lines := [5 * 2 ^ 15], combs := [(5 * 2 ^ 21 + 8, { op := 0, width := 4 * (w + 1), operand := 1, base := 7 })] }
    (∀ i < 4 * (w + 1), (s.cx.combAt (5 * 2 ^ 21 + 8 + i)).map (fun x => (x.1, x.2.op, x.2.width)) = some (5 * 2 ^ 21 + 8, 0, 4 * (w + 1)) ∧ Tbl.find? s.cx.held (5 * 2 ^ 21 + 8 + i) = none)
      ∧ (∀ k, Tbl.find? s.cx.combs (5 * 2 ^ 21 + 8) = some k → k.op ≠ 8 ∨ k.width ≠ 4 * (w + 1)) ∧ (7 : Word).toNat < 256 ^ (4 * (w + 1))
      ∧ (s.translate 0 0 (s.cx.sreg 4) .rmw .near).toOption = none ∧ (s.translate 0 0 (s.cx.sreg 4) .rmw .plain).toOption = none ∧ (s.cx.sreg 4).toNat % (4 * (w + 1)) = 0 := by
  intro w hw
  refine ⟨by revert w; decide +kernel, ?_, by revert w; decide +kernel⟩
  intro k h
  have : k = { op := 0, width := 4 * (w + 1), operand := 1, base := 7 } := by
    simpa [user, State.cx, State.ctxOf, Tbl.get, Tbl.find?, eq_comm] using h
  exact .inl (by simp [this])

theorem witness_CommitAndEffects_more :
    (let k : Comb := { op := 4, width := 4, operand := 9, base := 0 }
     let c : Ctx := { combs := [(5 * 2 ^ 21, k)] }
     c.combs = [(5 * 2 ^ 21, k)] ∧ c.held = [] ∧ c.committed = false ∧ k.op ≤ 7 ∧ k.operand.toNat < 256 ^ k.width ∧ ownerMatches 1 ((user c).frameRec 5).owner = true)
    ∧ (let c : Ctx := { held := [(2 ^ 41 + 8 * 2 ^ 29, 7)], committed := true }
       (2 ^ 41 + 8 * 2 ^ 29, (7 : Byte)) ∈ c.held ∧ 2 ^ 41 ≤ 2 ^ 41 + 8 * 2 ^ 29 ∧ c.committed = true) := by decide +kernel

/-- WAITC with each condition the table gives, and with one it does not. -/
theorem witness_WaitingInstructions_cond : (3 : BitVec 3).toNat < 4 ∧ 4 ≤ (4 : BitVec 3).toNat := by decide

theorem witness_Fences_sent : let q : FabReq := { id := 0, core := 0, slot := 0, deadline := 9, store := some 0 }
    let s := { user {} with fabReqs := [q] }
    (16 : BitVec 6).getLsbD 4 = true ∧ (∃ q ∈ s.fabReqs, q.core = s.core ∧ q.slot = s.ctx ∧ q.store.isSome = true ∧ q.store = s.cx.task)
      ∧ ¬ ∃ q ∈ (user {}).fabReqs, q.core = s.core := by decide +kernel

/-- SPLIT to the plan that a pending change leaves, while another change stays pending, and with nothing pending. -/
theorem witness_LeaseWords_split :
    (let s := { user {} with cores := [(0, { pendv := true, pend := 3 })] }
     (((s.allocate 0).planChange 0).coreOf 0).plan = 3 ∧ (s.coreOf 0).plan ≠ 3)
    ∧ (let s := { user {} with cores := [(0, { pendv := true, pend := 3 })], frags := [(0, { state := 1 })] }
       (((s.allocate 0).planChange 0).coreOf 0).plan ≠ 3 ∧ (((s.allocate 0).planChange 0).coreOf 0).pendv = true)
    ∧ ((user {}).coreOf 0).plan = 0 ∧ ((user {}).coreOf 0).reqs = [] ∧ ((user {}).coreOf 0).pendv = false := by decide +kernel

/-- A tuple that the first of two parked takes receives, whose task holds a continuation. -/
theorem witness_MarketAndObservations_parked :
    let key : List Word := List.replicate 8 3
    let p (n : Nat) (m : BitVec 8) : Parked := { frame := 6, mask := m, fields := key, take := true, seq := n, task := n }
    let l : List Parked := [p 1 1, p 2 1]
    let hit (x : Parked) : Prop := x.frame = 6 ∧ (∀ i < 8, x.mask.getLsbD i = true → x.fields.getD i 0 = key.getD i 0)
    l = [] ++ p 1 1 :: [p 2 1] ∧ hit (p 1 1) ∧ (p 1 1).take = true ∧ (∀ q ∈ ([] : List Parked), ¬hit q) ∧ (∀ q ∈ [p 2 1], hit q → q.take = true)
      ∧ ¬hit { p 1 1 with frame := 7 } ∧ (({ tasks := [(1, { cont := some {} })] } : State).taskOf 1).cont = some {} := by decide +kernel

/-- A program in the firmware context, and none. -/
theorem witness_TrapEntry_program : ((user {}).coreOf 0).fwProgram = false ∧ (({ user {} with cores := [(0, { fwProgram := true })] } : State).coreOf 0).fwProgram = true := by
  decide +kernel

theorem witness_FirmwareInstructions_more :
    (let run (c : Ctx) : State := { firm { s := [(1, 3), (2, 65536)] } with ctxs := [(4, {}), (3, { c with task := some 0 })], tasks := [(0, { state := .running })] }
     ((run { stopping := some .tried }).ctxOf 0 3).stopping = some .tried ∧ (run {}).slotRuns 0 3 = true ∧ ((run {}).ctxOf 0 3).endNow = false
      ∧ ((run { stopping := some .held }).ctxOf 0 3).stopping = some .held ∧ ((run { postedKill := some 0 }).ctxOf 0 3).endNow = true
      ∧ ¬(((run {}).ctxOf 0 3).stopping = some .tried ∨ ((run {}).ctxOf 0 3).stopped.isSome = true ∨ ((run {}).ctxOf 0 3).exited = true ∨ (run {}).slotRuns 0 3 = false))
    ∧ (let s := firm { s := [(3, 0x140000), (4, 0x40000)] }
       (0x140000 : Nat) / 2 ^ 20 % 2 = 1 ∧ (0x40000 : Nat) / 2 ^ 20 % 2 = 0 ∧ metaTile 4096 = none ∧ (metaTile 0x7F80000000).isSome = true ∧ (0x7F80000000 : Nat) % 4096 = 0
        ∧ s.passWrites 0 0 = false ∧ (s.accessCheck 0 4096 4096 4096).toOption = some ())
    ∧ (∀ c ∈ [32, 33], 32 ≤ ({ firm {} with core := c } : State).core) ∧ (firm {}).core < 32 := by decide +kernel

/-! ## Witnesses: engines, the Rink, tasks, the home slice -/

/-- A ring with room and one without; a lane with a combine pending; VLDC.NOWAIT and VQNT into a channel are such rings' too. -/
theorem witness_VectorMemory_channel : (64 : BitVec 7).getLsbD 6 = true ∧ (64 : BitVec 7).toNat % 64 = 0 ∧ ring4.free ≠ 0
    ∧ ({ ring4 with claim := 4, tail := 4 } : Ring).free = 0
    ∧ (∀ t ∈ [2, 8], let s := vecAt t { asize := 65536, rings := [(0, ring4)] } {}
        vecGo s [opnd 1 0 (s.vN * s.vZ)] [opnd 64 0 (s.vN * s.vZ)])
    ∧ (let c : Ctx := { combs := [(5 * 2 ^ 21, { op := 0, width := 4, operand := 1, base := 0 })] }
       ∀ k, Tbl.find? c.combs (5 * 2 ^ 21) = some k → k.op ≠ 1 ∨ k.width ≠ 4) := by
  refine ⟨by decide, by decide, by decide +kernel, by decide +kernel, by unfold vecGo; decide +kernel, ?_⟩
  intro c k h
  have : k = { op := 0, width := 4, operand := 1, base := 0 } := by simpa [c, Tbl.find?, eq_comm] using h
  exact .inl (by simp [this])

/-- A loader command for the lot's VF that waits, and none. -/
theorem witness_CopyWords_load : noLoad (copier {} {} {}) ∧ ({ copier {} {} {} with loading := some (BitVec.ofNat 64 (2 ^ 16), 0) } : State).loadHolds (copier {} {} {}).eSlot = true := by
  unfold noLoad; decide +kernel

/-- The cache of the Rink core holds no line yet, and the buffer of MB.RECV lies in the VF's own frame. -/
theorem witness_RinkWords_lines : let s := rinky { hart := { x := [(1, 8)] } } {}
    (s.rinkOf 0).lines.length + 256 ≤ rinkLines
      ∧ RvOut.holds (s.tickFresh.rvAccess 1 .write 8 256) (fun l => decide (l = List.range' (5 * 2 ^ 21 + 8) 256) && l.all fun a => ownerMatches 1 (s.frameRec (frameOf a)).owner) = true
      ∧ (List.range' (5 * 2 ^ 21 + 8) 256).Nodup := by
  refine ⟨by decide +kernel, by decide +kernel, List.nodup_range'⟩

/-- A WHOLE request that has begun its hold, one that has not waited long enough, and one of another shape. -/
theorem witness_AllocatorSteps_hold : let w (h : Bool) (t : Nat) : LeaseReq := { shape := 0, since := t, holds := h }
    let s (l : List LeaseReq) : State := { cycle := 2 ^ 20, cores := [(0, { reqs := l })] }
    (∃ r ∈ ((s [w true (2 ^ 20)]).coreOf 0).reqs, r.holds = true) ∧ ¬(∃ r ∈ ((s [w false (2 ^ 20)]).coreOf 0).reqs, r.holds = true
        ∨ (r.copy = false ∧ r.shape = 0 ∧ r.since + 2 ^ (((s []).coreOf 0).allocctl.toNat % 32) ≤ (s []).cycle))
      ∧ (∃ r ∈ ((s [w false 0]).coreOf 0).reqs, r.copy = false ∧ r.shape = 0 ∧ r.since + 2 ^ (((s []).coreOf 0).allocctl.toNat % 32) ≤ (s []).cycle) := by decide +kernel

/-- The asker's slot is free for the part it gets, and is not: it is taken, its core leaves, the VF is frozen, there is no room. -/
theorem witness_TaskDispatch_takes :
    let s : State := { pooled { state := .running, hi := 2, split := some (1, 0, 1, 0) } with pool := [] }
    let takes (s : State) : Bool := (s.ctxOf 0 1).task.isNone && (s.coreOf 0).leaving.isNone && s.mayRun 0 1 && decide (Tbl.get s.frozen 0 1 < 2) && (s.placeWindows 0 1 0 0).isSome
    takes s = true ∧ takes { s with ctxs := [(1, { task := some 5 })] } = false ∧ takes { s with cores := [(0, { leaving := some 0 })] } = false
      ∧ takes { s with frozen := [(1, 2)] } = false ∧ takes { s with bar := [] } = false := by decide +kernel

/-- A lost owner whose range has a lot that has not begun; one whose last phase has committed. -/
theorem witness_TaskEnds_rest : let s := { user { exited := true } with tasks := [(0, { state := .running, next := 1, hi := 3 })] }
    (s.ctxOf 0 0).task = some 0 ∧ (s.ctxOf 0 0).exited = true ∧ (s.taskOf 0).next < (s.taskOf 0).hi ∧ 0 ≠ s.nextTask
      ∧ ((user {}).ctxOf 0 0).exited = false ∧ (s.taskOf 0).state = .running := by decide +kernel

theorem witness_FirmwareServices_program :
    (let s : State := { user {} with cores := [(0, { fwProgram := true })] }
     (∀ f ∈ (s.coreOf 0).foreign, f.1 ≠ 5 ∨ f.2.1 ≠ 0) ∧ s.hostMode (s.vfOf 0 0) 7 = false ∧ (s.coreOf 0).fwProgram = true ∧ ((user {}).coreOf 0).fwProgram = false)
    ∧ 31 < 32 := by decide +kernel

/-- Host accesses of tile metadata, and tiles with and without a byte that is not zero. -/
theorem witness_HomeSlice_meta :
    (let s : State := { frames := [(5, { owner := 1 })] }
     let pa := 0x7F8000A000
     (linesOf pa 8).findSome? (fun l => s.lineCheck (s.frameRec (frameOf l)).owner l) = none ∧ metaTile pa = some 2560 ∧ pa % 16 + 8 ≤ 16 ∧ pa + 8 ≤ min s.hdmSize (2 ^ 18) * 2 ^ 21)
    ∧ metaTile (5 * 2 ^ 21) = none
    ∧ (let s : State := { fcache := [(2560 * 4096, 7)] }
       s.memByte (2560 * 4096) = 7 ∧ 2560 * 4096 < 2560 * 4096 + 4096 ∧ State.reset.memByte (2560 * 4096) = 0) := by decide +kernel

/-- A packet whose number an earlier one still has; a vector withheld; accesses of each kind that wait. -/
theorem witness_Packets_more :
    (let s := queued { en := true, windex := 4, ridx := 3, packets := [{ idx := 3, words := [] }] } 0x511E []
     (s.queueOf 1 0).packetNo % 2 ^ 64 = (s.queueOf 1 0).ridx % 2 ^ 64 ∧ ∀ p ∈ (s.queueOf 1 0).packets, p.idx ≠ (s.queueOf 1 0).packetNo)
    ∧ (let s := queued { packets := [{ idx := 3, words := [] }] } 0x510E []
       s.packetOf 1 0 3 = some { idx := 3, words := [] } ∧ FeOut.waits (s.feAsk 1 .write 8 1) = true ∧ FeOut.waits (s.feAsk 1 .rmw 8 1) = true
        ∧ FeOut.waits (s.feAsk 1 .read 8 1) = true ∧ FeOut.waits (s.feAsk 1 .write 8 2) = true)
    ∧ State.reset.msixMasked 1 (State.reset.qVec 1 0) = true ∧ pktIrq (0x20000 : Word) = true := by decide +kernel

/-! ## Witnesses: tables, seals, the fabric, migration, power -/

/-- A command in progress; one for a lot table that waits for a copy step, and one that does not; a destination the caches have given up. -/
theorem witness_TableCommands_waits :
    (({} : State).setReg 0 0x3010 1).reg 0 0x3010 = 1 ∧ (1 : Word).getLsbD 0 = true ∧ (State.reset.reg 0 0x3010).getLsbD 0 = false
    ∧ (let v : Word := BitVec.ofNat 64 (1 + 2 ^ 16)
       ldVf v.toNat = 1 ∧ ldKind v.toNat = 0 ∧ ldGran v.toNat ≠ 3 ∧ v.getLsbD 0 = true)
    ∧ (user {}).past 1 = true ∧ (copier { steps := [{ idx := 0, op := .cld 0 1 }] } {} {}).past 1 = false
    ∧ (let s := { loader 9 0 with tables := [(257, { valid := true, entries := [(32767, 0x511E)] })] }
       ((List.range 1).foldl (fun (σ : State) k => σ.rinkDrain (5 + k)) s).destWorn 5 9 = false) := by decide +kernel

/-- REPOINT of a window that is not live here, and a held access of a rewritten record. -/
theorem witness_FabricRecords_more :
    (let v : Word := BitVec.ofNat 64 (2 * 2 ^ 48)
     rwBad v = false ∧ v.toNat / 2 ^ 48 % 4 = 2 ∧ (State.reset.winOf (rwWin v)).live = false)
    ∧ (let q : FabReq := { id := 0, core := 0, slot := 0, deadline := 9, entry := 4095, held := true }
       let s : State := { fabReqs := [q] }
       ∃ y ∈ s.fabReqs, y.entry = 4095 ∧ y.held = true) := by decide +kernel

theorem witness_FabricArrivals_more :
    (let w : RedWin := { live := true, mask := 3, rounds := [(0, { got := [(1, 7)] })] }
     let q : FabReq := { id := 0, core := 0, slot := 0, deadline := 0, round := some (0, 0), cidx := 1 }
     let s : State := { redwins := [(0, w)], fabReqs := [q] }
     (s.winOf (winKey 0 0)).live = true ∧ (s.winOf (winKey 0 0)).mask.testBit 0 = true ∧ (s.winOf (winKey 0 0)).mask.testBit 2 = false ∧ q ∈ s.fabReqs
      ∧ q.round = some (winKey 0 0, 0) ∧ q.answer = none ∧ q.slot ≠ noSlot ∧ Tbl.find? w.rounds 0 = some { got := [(1, 7)] } ∧ (Tbl.find? [(1, (7 : BitVec 32))] q.cidx).isSome = true
      ∧ ∀ y ∈ s.fabReqs, y = q)
    ∧ (∀ tm ∈ [(99999999 : Nat), 100000000], let s : State := { clock := tm * tickParts }
       let w : RedWin := { heldMerge := [(0, (0, 1))] }
       w.waiting = [] ∧ Tbl.find? w.heldMerge 0 = some (0, 1) ∧ (if tm < 100000000 then s.time < 0 + w.ticks else 0 + w.ticks ≤ s.time))
    ∧ (let q : FabReq := { id := 1, core := 0, slot := 0, deadline := 0, store := some 0 }
       let s := { user {} with fabReqs := [q] }
       s.fabReqs.find? (fun q => decide (q.id = 1)) = some q ∧ q.round = none ∧ q.deadline ≤ s.time ∧ (s.ctxOf 0 0).task = some 0
        ∧ (({ s with ctxs := [] } : State).ctxOf 0 0).task ≠ some 0)
    ∧ (let s : State := { tables := [(4, { valid := true, entries := [(0, 0x511E), (1, 0x510E)] })], frames := [(5, { owner := 1 })], exports := [(9, [BitVec.ofNat 64 (1 + 256 + 7 * 2 ^ 16), 0, 4096, 0])] }
       let r := s.exportRec' 9
       (xlate (s.lotTable (expVf r)) 8 .rmw .near).toOption.isSome = true ∧ (s.accessCheck (expVf r) (5 * 2 ^ 21 + 8) 8 8).toOption = some ()
        ∧ (match xlate (s.lotTable (expVf r)) (BitVec.ofNat 64 (2 ^ 21)) .rmw .near with
           | .error e => decide (e.cause = 5)
           | .ok _ => false) = true) := by decide +kernel

/-- A turn that has run late, by 1 and by none of its VF's own time. -/
theorem witness_PartitionsAndTelemetry_late : let u : Turn := { vf := 1, ends := 5, late := true, overrun := [(1, 3)] }
    (∀ n ∈ [1, 2], Tbl.get u.overrun 0 n + (if u.late = true ∧ n = u.vf then 9 - u.ends else 0) = if n = 1 then 7 else 0) ∧ 2 ≠ u.vf := by decide

/-- A state whose far cache holds a byte string sealed under the migration key at MIGADDR. -/
def sealedAt (s : State) (p : List Byte) : State :=
  { s with fcache := (sealRecord s.migrationKey 0 p).zipIdx.map fun x => (s.migAddr + x.2, x.1) }
theorem find_zipIdx (a i : Nat) : ∀ (l : List Byte) (k : Nat), i < l.length → Tbl.find? ((l.zipIdx k).map fun x => (a + x.2, x.1)) (a + k + i) = some (l.getD i 0)
  := by
  induction i with
  | zero =>
    intro l k h
    match l, h with
    | b :: r, _ => simp [Tbl.find?, List.zipIdx_cons]
  | succ i ih =>
    intro l k h
    match l, h with
    | b :: r, h =>
      have := ih r (k + 1) (by simpa using h)
      rw [show a + k + (i + 1) = a + (k + 1) + i by omega]
      simp only [List.zipIdx_cons, List.map_cons, Tbl.find?]
      rw [if_neg (by omega), this]
      simp
/-- Whatever the key is: each record that LOAD reads stands at MIGADDR of some state that is ready for it. -/
theorem witness_Migration_opens (p : List Byte) (hp : p.length < 2 ^ 64) :
    let s := sealedAt { spdm := [(0, { session := true, bothKeys := true })] } p
    s.migKey = true ∧ s.migBusy = false ∧ s.migState 1 = 0 ∧ (s.openRecord s.migrationKey s.migAddr).2 = some p := by
  intro s
  refine ⟨by rfl, by rfl, by rfl, ?_⟩
  have l : (sealRecord s.migrationKey 0 p).length = p.length + 36 := by simp [sealRecord, natBytes, gcmCrypt_length]; omega
  rw [openRecord_sealed s s.migrationKey 0 p s.migAddr hp fun i hi => ?_]
  have := find_zipIdx s.migAddr i (sealRecord s.migrationKey 0 p) 0 (by omega)
  have f : Tbl.find? s.fcache (s.migAddr + i) = some ((sealRecord s.migrationKey 0 p).getD i 0) := this
  simp [State.memByte, f]
/-- A record this device has exported is read back as itself. -/
theorem witness_Migration_record (r : MigRec) : ({ migRecs := [r] } : State).recordFrom (Config.recordBytes r) = some r := by simp [State.recordFrom]


theorem witness_Migration_busy : (∃ s : State, s.migBusy = true) ∧ State.reset.migBusy = false ∧ State.reset.recordFrom [] = Config.recordOf [] :=
  ⟨⟨{ user {} with bar := [(0x5400, 0x10001)], frozen := [(1, 2)] }, by decide +kernel⟩, by decide +kernel, rfl⟩

theorem witness_Attestation_more : (15 : Word).toNat % 16 = 15 ∧ (7 : Word).toNat % 16 ≠ 15 ∧ 1 ≠ 0 ∧ (0 : Nat) ≤ 64
    ∧ (({ bar := [(0x5100, 0x100)] } : State).vfPart 1) = some 0 := by decide +kernel

theorem witness_ErrorsAndPower_more :
    (let s (b : Bool) : State := { banks := [(2, { signed := b }), (3, { signed := b })] }
     (∀ b < 2, ((s false).bankOf 1 b).signed = false) ∧ ∀ b < 2, ((s true).bankOf 1 b).signed = true)
    ∧ (State.reset.lineDirty 0 = false ∧ ({ fcache := [(0, 7)] } : State).lineDirty 0 = true)
    ∧ (115 ≤ Config.junction 0 ∨ Config.junction 0 < 115) := by
  refine ⟨by decide +kernel, by decide +kernel, by omega⟩

/-- Steps that come due, each kind of clause: a launch behind another step and alone, and a posted fault of a slot with and without a word sent. -/
theorem witness_StepRunsDecodedInstruction_due :
    Due.Names (.lotComplete 0 1) (.lotComplete 0 1) ∧ Act.launch (.due (.nodeLaunch 0)) = true ∧ Act.launch (.due (.lotComplete 0 1)) = false
      ∧ (∀ a ∈ [Act.due (.nodeLaunch 1)], a.launch = true) ∧ (∃ a ∈ [Act.due (.nodeLaunch 1), .ctl 0 0], a.launch = false)
      ∧ (user {}).sentBy 0 0 none = none ∧ ({ user {} with fabReqs := [{ id := 0, core := 0, slot := 0, deadline := 9 }] } : State).sentBy 0 0 none ≠ none
      ∧ ((rinky {} {}).rinkOf 0).cycle ≤ (rinky {} {}).rinkTime := by
  refine ⟨rfl, by decide, by decide, by decide, by decide, by decide +kernel, by decide +kernel, by decide +kernel⟩

theorem witness_DecodeAfterEncode : (Instr.addi 3 2 0xFFFB).wf = true ∧ (Instr.addi 3 2 0xFFFB).cls ≠ .event ∧ encode (.addi 3 2 0xFFFB) = some 0x0862FFFB := by decide

end Sys2Proof.Tests
end

section
/-!
Family 08, PREP and PREF (R163, R172). A fill changes far-cache tile records only and reads the same bytes; PREF is such a fill, or
nothing, before it retires.
-/

namespace Sys2Proof.Machine

/-! ## The fill of a line -/

/-- A fill replaces the tile records and nothing else. -/
theorem State.fill_shape (s : State) (pa : Nat) : ∃ l, s.fill pa = { s with tiles := l } := by
  unfold State.fill
  split
  · exact ⟨s.tiles, rfl⟩
  · exact ⟨_, rfl⟩

/-- A fill changes no tile's Z, so a tile of zeros still reads as zeros (R70). -/
theorem State.tile_fill_z (s : State) (pa n : Nat) : ((s.fill pa).tile n).z = (s.tile n).z := by
  unfold State.fill
  split
  · rfl
  · by_cases h : n = tileOf pa <;> simp [State.tile, Tbl.get_set, h]

@[simp] theorem State.memByte_fill (s : State) (pa a : Nat) : (s.fill pa).memByte a = s.memByte a := by
  have hz := s.tile_fill_z pa (tileOf a)
  obtain ⟨l, hl⟩ := s.fill_shape pa
  rw [hl] at hz ⊢
  simp only [State.memByte, hz]

/-- A fill brings the whole tile's sectors, that of the address among them (R71). -/
@[simp] theorem State.sectorHeld_fill (s : State) (pa : Nat) : (s.fill pa).sectorHeld pa = true := by
  unfold State.fill
  split
  case isTrue held => exact held
  case isFalse =>
    have hsec : sectorOf pa < 64 := Nat.mod_lt _ (by decide)
    simp [State.sectorHeld, State.tile, hsec]

/-! ## What a context's write leaves -/

@[simp] theorem State.memByte_setCx (s : State) (c : Ctx) (a : Nat) : (s.setCx c).memByte a = s.memByte a := rfl
@[simp] theorem State.sectorHeld_setCx (s : State) (c : Ctx) (pa : Nat) : (s.setCx c).sectorHeld pa = s.sectorHeld pa := rfl

/-- Tile records and the acting context are no part of what `SameElse` holds fixed. -/
theorem State.sameElse_setCx_tiles (s : State) (l : Tbl Tile) (c : Ctx) : State.SameElse s (({ s with tiles := l } : State).setCx c) :=
  ⟨fun _ hk => Tbl.get_set_ne s.ctxs {} c hk, by simp⟩

/-! ## A word that retires after a fill -/

theorem State.cx_fill (s : State) (pa : Nat) : (s.fill pa).cx = s.cx := by
  obtain ⟨l, hl⟩ := s.fill_shape pa
  rw [hl]
  rfl

@[simp] theorem State.cx_retired (s : State) : s.retired.cx = s.cx.advance := s.cx_setCx _

/-- A word that gives its context nothing only retires. -/
theorem State.retire_cx (s : State) : s.retire s.cx = .next s.retired := rfl

theorem State.sameElse_fill_retired (s : State) (pa : Nat) : State.SameElse s (s.fill pa).retired := by
  obtain ⟨l, hl⟩ := s.fill_shape pa
  rw [hl]
  exact s.sameElse_setCx_tiles l _

/-! ## PREP and PREF -/

/-- PREP's distance, four times its signed offset (R163). -/
theorem sext_mul_four {w : Nat} (k : BitVec w) : sext k * 4 = BitVec.ofInt 64 (4 * k.toInt) := by
  rw [BitVec.ofInt_mul, BitVec.mul_comm]
  rfl

theorem exec_prep (s : State) (r : BitVec 3) (k : BitVec 23) :
    exec (.prep r k) s = .next (s.setCx (s.cx.setB r.toNat (s.cx.pc + BitVec.ofInt 64 (4 * k.toInt))).advance) := by
  rw [← sext_mul_four]
  rfl

/-- Every check of R172 passes for a line, which lies at the address pa. -/
def State.PrefFills (s : State) (line : Word) (pa : Nat) : Prop :=
  ∃ x, s.translate s.core s.ctx line .read .plain = .ok x ∧ x.cls ≠ 2 ∧ s.accessCheck (s.vfOf s.core s.ctx) x.pa 64 line = .ok () ∧ x.pa = pa

/-- PREF fills its line where every check passes, and only retires where one fails. -/
theorem exec_pref_cases (s : State) (b : BitVec 5) (z : BitVec 2) (o : BitVec 14) :
    let line : Word := addrM s b z o &&& ~~~63
    (∃ pa, s.PrefFills line pa ∧ exec (.pref b z o) s = .next (s.fill pa).retired)
    ∨ (∀ pa, ¬ s.PrefFills line pa) ∧ exec (.pref b z o) s = .next s.retired := by
  intro line
  show (∃ pa, _ ∧ execPref b z o s = _) ∨ _ ∧ execPref b z o s = _
  have hline : s.effAddr b z o &&& ~~~63 = line := rfl
  simp only [execPref, hline, State.PrefFills]
  cases ht : s.translate s.core s.ctx line .read .plain with
  | error e => exact .inr ⟨by simp, rfl⟩
  | ok x =>
    by_cases hr : x.cls = 2
    · exact .inr ⟨by simp [hr], by simp [Xl.remote, hr, State.retire_cx]⟩
    · cases ha : s.accessCheck (s.vfOf s.core s.ctx) x.pa 64 line with
      | error e => exact .inr ⟨by simp [ha], by simp [Xl.remote, hr, ha, State.retire_cx]⟩
      | ok u => exact .inl ⟨x.pa, ⟨x, rfl, hr, ha, rfl⟩, by simp [Xl.remote, hr, ha, State.retire_cx]⟩

/-- Settles O52: PREP by its equation; PREF by whether its checks pass. -/
theorem prepAndPref : Obligations.PrepAndPref := by
  intro s r k b z o a
  refine ⟨exec_prep s r k, ?_⟩
  obtain ⟨pa, ⟨y, hty, -, -, rfl⟩, he⟩ | ⟨hno, he⟩ := exec_pref_cases s b z o
  · refine ⟨_, he, by rw [State.cx_retired, State.cx_fill], ?_, s.sameElse_fill_retired y.pa, ?_⟩
    · exact fun p => s.memByte_fill y.pa p
    · intro x htx _ _
      obtain rfl : y = x := Except.ok.inj (hty.symm.trans htx)
      exact s.sectorHeld_fill y.pa
  · refine ⟨_, he, s.cx_retired, fun _ => rfl, s.sameElse_setCx_tiles s.tiles _, ?_⟩
    exact fun x htx hcls hacc => absurd ⟨x, htx, hcls, hacc, rfl⟩ (hno x.pa)

end Sys2Proof.Machine
end

section
/-!
The slice at which a key's tuples and parked requests live (R210).
-/

namespace Sys2Proof.Machine

theorem mkSlice_eq_foldl (f : Nat) (k : Word) :
    mkSlice f k = (List.range 11).foldl (fun s j => s ^^^ ((k.toNat ^^^ f) / 2 ^ (6 * j) % 64)) 0 := rfl

/-- R210's example: the 6-bit groups of `0x1_2346` are 6, 13 and 18, and no others. -/
theorem sixBitGroups_0x12346 :
    (List.range 11).map (fun j => 0x12346 / 2 ^ (6 * j) % 64) = [6, 13, 18] ++ List.replicate 8 0 := by decide

/-- R210's example: key 3 in frame `0x1_2345` lives at slice 25, the xor of those groups. -/
theorem mkSlice_frame_0x12345_key_3 : mkSlice 0x12345 3 = 25 := by
  have hxor : (3 : Word).toNat ^^^ 0x12345 = 0x12346 := by decide
  calc mkSlice 0x12345 3
      = (List.range 11).foldl (fun s j => s ^^^ (0x12346 / 2 ^ (6 * j) % 64)) 0 := by rw [mkSlice_eq_foldl, hxor]
    _ = ((List.range 11).map fun j => 0x12346 / 2 ^ (6 * j) % 64).foldl (· ^^^ ·) 0 := List.foldl_map.symm
    _ = 25 := by rw [sixBitGroups_0x12346]; decide

/-- Settles O53: the function by its definition, the example by its groups; slice 25 lies on die 1. -/
theorem marketSlice : Obligations.MarketSlice :=
  ⟨mkSlice_eq_foldl, mkSlice_frame_0x12345_key_3, by rw [mkSlice_frame_0x12345_key_3]⟩

end Sys2Proof.Machine
end

section
/-!
Reading back what the encoder writes, for every instruction: the words' lemmas of `Laws.Encodes` put together, and the steps without a word,
which have no encoding.
-/

namespace Sys2Proof.Laws.Encodes

/-- A step without a word has no encoding. -/
theorem encode_of_event {i : Instr} (h : i.cls = .event) : encode i = none := by
  cases i <;> cases h <;> rfl

/-- Every instruction that is a word has an encoding. -/
theorem encode_of_word {i : Instr} (h : i.cls ≠ .event) : ∃ w, encode i = some w := by
  cases i <;> (try exact absurd rfl h) <;> exact ⟨_, rfl⟩

/-- Every well-formed word is read back, by the lemma of its own constructor. -/
theorem statement_of_word {i : Instr} (h : i.cls ≠ .event) : Statement i := by
  cases i with
  | add => apply add
  | sub => apply sub
  | and => apply and
  | or => apply or
  | xor => apply xor
  | andn => apply andn
  | sll => apply sll
  | srl => apply srl
  | sra => apply sra
  | ror => apply ror
  | mul => apply mul
  | mulh => apply mulh
  | mulhu => apply mulhu
  | div => apply div
  | divu => apply divu
  | rem => apply rem
  | remu => apply remu
  | min => apply min
  | max => apply max
  | minu => apply minu
  | maxu => apply maxu
  | adds => apply adds
  | subs => apply subs
  | clz => apply clz
  | ctz => apply ctz
  | popc => apply popc
  | sext8 => apply sext8
  | sext16 => apply sext16
  | sext32 => apply sext32
  | zext32 => apply zext32
  | movf => apply movf
  | movb => apply movb
  | addi => apply addi
  | andi => apply andi
  | ori => apply ori
  | xori => apply xori
  | slli => apply slli
  | srli => apply srli
  | srai => apply srai
  | rori => apply rori
  | li => apply li
  | lih => apply lih
  | muli => apply muli
  | cmp => apply cmp
  | cmpi => apply cmpi
  | prep => apply prep
  | xfer => apply xfer
  | xferN => apply xferN
  | xferA => apply xferA
  | xferL => apply xferL
  | xferR => apply xferR
  | vany => apply vany
  | vall => apply vall
  | flagAnd => apply flagAnd
  | flagOr => apply flagOr
  | flagXor => apply flagXor
  | flagAndn => apply flagAndn
  | flagNot => apply flagNot
  | flagSet => apply flagSet
  | ld => apply ld
  | st => apply st
  | ldl => apply ldl
  | stl => apply stl
  | lda => apply lda
  | sta => apply sta
  | ldc => apply ldc
  | ldcNowait => apply ldcNowait
  | pref => apply pref
  | atom => apply atom
  | acas => apply acas
  | mkdep => apply mkdep
  | mkrdT => apply mkrdT
  | mkrdW => apply mkrdW
  | mktakeT => apply mktakeT
  | mktakeW => apply mktakeW
  | gets => apply gets
  | sets => apply sets
  | forkVec => apply forkVec
  | forkMat => apply forkMat
  | forkCopy => apply forkCopy
  | mark => apply mark
  | rdvSet => apply rdvSet
  | rdvWait => apply rdvWait
  | rdvTest => apply rdvTest
  | qdrop => apply qdrop
  | twaitAny => apply twaitAny
  | twaitAll => apply twaitAll
  | tffr => apply tffr
  | tcancel => apply tcancel
  | rset => apply rset
  | rclaim => apply rclaim
  | rdone => apply rdone
  | rwaitf => apply rwaitf
  | rwaite => apply rwaite
  | radv => apply radv
  | rget => apply rget
  | phase => apply phase
  | fenceX => apply fenceX
  | waitc => apply waitc
  | signalSet => apply signalSet
  | signalAdd => apply signalAdd
  | leaseW => apply leaseW
  | leaseT => apply leaseT
  | leasecW => apply leasecW
  | leasecT => apply leasecT
  | unlease => apply unlease
  | split => apply split
  | kick => apply kick
  | mbact => apply mbact
  | mbobsW => apply mbobsW
  | mbobsT => apply mbobsT
  | strm => apply strm
  | txset => apply txset
  | txsetM => apply txsetM
  | cvset => apply cvset
  | deadA => apply deadA
  | deadW => apply deadW
  | yield => apply yield
  | exit => apply exit
  | trap => apply trap
  | eret => apply eret
  | ctxsv => apply ctxsv
  | ctxld => apply ctxld
  | accspill => apply accspill
  | keyld => apply keyld
  | wdog => apply wdog
  | vadd => apply vadd
  | vsub => apply vsub
  | vmul => apply vmul
  | vfma => apply vfma
  | vadds => apply vadds
  | vsubs => apply vsubs
  | vmin => apply vmin
  | vmax => apply vmax
  | vmulh => apply vmulh
  | vand => apply vand
  | vor => apply vor
  | vxor => apply vxor
  | vshl => apply vshl
  | vshr => apply vshr
  | vhash => apply vhash
  | vceq => apply vceq
  | vcne => apply vcne
  | vclt => apply vclt
  | vcle => apply vcle
  | vcgt => apply vcgt
  | vcge => apply vcge
  | vsel => apply vsel
  | vmov => apply vmov
  | vcvt => apply vcvt
  | vqnt => apply vqnt
  | vdq => apply vdq
  | vaddi => apply vaddi
  | vmuli => apply vmuli
  | vandi => apply vandi
  | vori => apply vori
  | vxori => apply vxori
  | vshli => apply vshli
  | vshri => apply vshri
  | vsplat => apply vsplat
  | vmini => apply vmini
  | vmaxi => apply vmaxi
  | vlda => apply vlda
  | vsta => apply vsta
  | vldc => apply vldc
  | vldcNowait => apply vldcNowait
  | vstc => apply vstc
  | vgath => apply vgath
  | vscat => apply vscat
  | vatom => apply vatom
  | vperm => apply vperm
  | vshuf => apply vshuf
  | vred => apply vred
  | vscan => apply vscan
  | vplog => apply vplog
  | vhalt => apply vhalt
  | vfl => apply vfl
  | exp2 => apply exp2
  | log2 => apply log2
  | rcp => apply rcp
  | rsq => apply rsq
  | vabs => apply vabs
  | vneg => apply vneg
  | vclz => apply vclz
  | vpopc => apply vpopc
  | mma => apply mma
  | conv => apply conv
  | accz => apply accz
  | accmv => apply accmv
  | swait => apply swait
  | sadv => apply sadv
  | smark => apply smark
  | linkcfg => apply linkcfg
  | wld => apply wld
  | accld => apply accld
  | srst => apply srst
  | matNop => apply matNop
  | matHalt => apply matHalt
  | cld => apply cld
  | cldRing => apply cldRing
  | cst => apply cst
  | cstRing => apply cstRing
  | cstq => apply cstq
  | cmc => apply cmc
  | cga => apply cga
  | csc => apply csc
  | crw => apply crw
  | cred => apply cred
  | cldm => apply cldm
  | cwt => apply cwt
  | cadv => apply cadv
  | cmark => apply cmark
  | cnop => apply cnop
  | chalt => apply chalt
  | chaltS => apply chaltS
  | mbRecv => apply mbRecv
  | mbSend => apply mbSend
  | mbPoll => apply mbPoll
  | epStep => apply epStep
  | epExit => apply epExit
  | rv64gc => apply rv64gc
  | _ => exact absurd rfl h

theorem statement_of_event {i : Instr} (h : i.cls = .event) : Statement i := by
  intro _ w hw
  rw [encode_of_event h] at hw
  contradiction

/-- Settles O57: a word by its constructor's lemma, a step without a word because it has no encoding. -/
theorem decodeAfterEncode : Obligations.DecodeAfterEncode := by
  refine ⟨fun i => ?_, fun i _ => encode_of_word⟩
  by_cases h : i.cls = .event
  · exact statement_of_event h
  · exact statement_of_word h

end Sys2Proof.Laws.Encodes
end

section
/-!
What every step keeps (R58's canonical form is of sealed memory): a meaning goes on in a next state, whose sealed memory is in its
canonical form where that of the state before it was.
-/

namespace Sys2Proof.Machine

/-- The outcome is a next state, and its sealed memory is in its canonical form where the memory `m` is. -/
def Keeps (m : List Host.Cell) (o : Out) : Prop := ∃ t, o = .next t ∧ (memWf m = true → memWf t.mem = true)

@[simp] theorem keeps_next {m : List Host.Cell} {t : State} : Keeps m (.next t) ↔ (memWf m = true → memWf t.mem = true) := by
  simp [Keeps]

theorem keeps_of_mem {m : List Host.Cell} {t : State} (h : t.mem = m) : Keeps m (.next t) := by simp [h]

variable {σ : State} {m : List Host.Cell}

section
variable (h : σ.mem = m)
include h

@[simp] theorem State.retire_keeps (c : Ctx) : Keeps m (σ.retire c) := by simp [State.retire, h]
@[simp] theorem State.retireS_keeps (d : BitVec 5) (v : Word) : Keeps m (σ.retireS d v) := by simp [State.retireS, h]
@[simp] theorem State.retireF_keeps (d : BitVec 3) (v : Bool) : Keeps m (σ.retireF d v) := by simp [State.retireF, h]
@[simp] theorem State.stallHere_keeps : Keeps m σ.stallHere := by
  unfold State.stallHere
  dsimp only
  split <;> simp [h]
@[simp] theorem State.interlock_keeps : Keeps m σ.interlock := by simp [State.interlock, h]
@[simp] theorem State.trap_keeps (tr : Tr) : Keeps m (σ.trap tr) := by simp [State.trap, h]
@[simp] theorem State.trapWith_keeps (c : Nat) (d : Word) : Keeps m (σ.trapWith c d) := by simp [State.trapWith, h]
@[simp] theorem State.effectDone_keeps (c : Ctx) : Keeps m (σ.effectDone c) := by
  unfold State.effectDone
  dsimp only
  split <;> simp [h]
@[simp] theorem State.privileged_keeps {k : Out} (hk : Keeps m k) : Keeps m (σ.privileged k) := by
  unfold State.privileged
  split_ifs <;> simp [h, hk]
@[simp] theorem State.waitTask_keeps {mask : Word} {go : State → Nat → Out} (hgo : ∀ τ k, τ.mem = m → Keeps m (go τ k)) :
    Keeps m (σ.waitTask mask go) := by
  unfold State.waitTask
  split
  · simp [h]
  · dsimp only
    split_ifs
    · simp [h]
    · exact hgo _ _ (by simp [h])
@[simp] theorem State.vote_keeps (f p : BitVec 3) (all : Bool) : Keeps m (σ.vote f p all) := by
  unfold State.vote
  dsimp only
  split_ifs <;> simp [h]
end

end Sys2Proof.Machine
end

section
namespace Sys2Proof.Machine
variable {σ : State} {m : List Host.Cell}

/-! ## Answers that carry a state -/

/-- What an access to another package answers leaves sealed memory as `m`. -/
def FabAns.Leaves (m : List Host.Cell) : FabAns → Prop
  | .refused τ | .timeout τ | .wait τ | .reply τ => τ.mem = m
def FabAll.Leaves (m : List Host.Cell) : FabAll → Prop
  | .refused τ _ | .wait τ | .reply τ _ => τ.mem = m
def Loaded.Leaves (m : List Host.Cell) : Loaded → Prop
  | .waiting τ | .value _ τ => τ.mem = m
def RvOut.Leaves {α : Type} (m : List Host.Cell) : RvOut α → Prop
  | .ok _ τ | .exc _ τ | .wait τ => τ.mem = m
def RkOut.Leaves (m : List Host.Cell) : RkOut → Prop
  | .done _ _ τ | .blocked _ τ | .wait τ | .exc _ τ | .ended τ => τ.mem = m
def StepEnd.Leaves (m : List Host.Cell) : StepEnd → Prop
  | .done τ _ | .wait τ => τ.mem = m
  | .fault _ _ => True
/-- A check that passes leaves sealed memory as `m`. -/
def Chk.Leaves (m : List Host.Cell) : Chk Loaded → Prop
  | .ok x => x.Leaves m
  | .error _ => True

theorem RvOut.Leaves.of_eq {α : Type} {o x : RvOut α} (hl : o.Leaves m) (e : o = x) : x.Leaves m := e ▸ hl

theorem FabAns.Leaves.of_eq {o x : FabAns} (hl : o.Leaves m) (e : o = x) : x.Leaves m := e ▸ hl
theorem FabAll.Leaves.of_eq {o x : FabAll} (hl : o.Leaves m) (e : o = x) : x.Leaves m := e ▸ hl
theorem RkOut.Leaves.of_eq {o x : RkOut} (hl : o.Leaves m) (e : o = x) : x.Leaves m := e ▸ hl
theorem StepEnd.Leaves.of_eq {o x : StepEnd} (hl : o.Leaves m) (e : o = x) : x.Leaves m := e ▸ hl
theorem RvOut.Leaves.ite {α : Type} {c : Prop} [Decidable c] {a b : RvOut α} (ha : a.Leaves m) (hb : b.Leaves m) :
    (if c then a else b).Leaves m := by
  split
  · exact ha
  · exact hb

theorem RkOut.Leaves.ite {c : Prop} [Decidable c] {a b : RkOut} (ha : a.Leaves m) (hb : b.Leaves m) :
    (if c then a else b).Leaves m := by
  split
  · exact ha
  · exact hb

theorem State.fabricAsk_leaves (core slot : Nat) (eng : Option Nat) (i : Nat) (va : Word) :
    (σ.fabricAsk core slot eng i va).Leaves σ.mem := by
  unfold State.fabricAsk
  dsimp only
  (repeat' split) <;> simp [FabAns.Leaves]

@[simp] theorem State.fabricLook_mem (core slot : Nat) (l : List Nat) : (σ.fabricLook core slot l).mem = σ.mem := by
  induction l generalizing σ with
  | nil => rfl
  | cons n l ih =>
    simp only [State.fabricLook]
    rw [ih]
    (repeat' split) <;> simp

theorem State.fabricAskAll_leaves (core slot : Nat) (l : List (Nat × Nat × Word)) : (σ.fabricAskAll core slot l).Leaves σ.mem := by
  unfold State.fabricAskAll
  dsimp only
  (repeat' split) <;> simp [FabAll.Leaves]

@[simp] theorem State.contributeAsk_mem (core slot : Nat) (eng : Option Nat) (entry off : Nat) (va : Word) (v : BitVec 32) :
    (σ.contributeAsk core slot eng entry off va v).2.mem = σ.mem := by
  unfold State.contributeAsk
  dsimp only
  (repeat' split) <;> simp

@[simp] theorem State.touchRun_mem (core slot : Nat) (l : List Nat) : (σ.touchRun core slot l).1.mem = σ.mem := by
  induction l generalizing σ with
  | nil => rfl
  | cons j r ih =>
    simp only [State.touchRun]
    split
    next τ h => rw [ih, State.ownerTouch_mem h]
    next => rfl

theorem State.touchRun_mem_of_eq {τ : State} {core slot : Nat} {l : List Nat} {o : Option Nat} (h : σ.touchRun core slot l = (τ, o)) :
    τ.mem = σ.mem := by simpa [h] using σ.touchRun_mem core slot l

theorem State.contributeAsk_mem_of_eq {τ : State} {core slot : Nat} {eng : Option Nat} {entry off : Nat} {va : Word} {v : BitVec 32}
    {o : Option Nat} (h : σ.contributeAsk core slot eng entry off va v = (o, τ)) : τ.mem = σ.mem := by
  simpa [h] using σ.contributeAsk_mem core slot eng entry off va v

theorem State.pushSlot_mem {τ : State} {core slot ring : Nat} {bs : List (Nat × Byte)} (h : σ.pushSlot core slot ring bs = some τ) :
    τ.mem = σ.mem := by
  unfold State.pushSlot at h
  dsimp only at h
  split at h
  · contradiction
  · cases h; simp

theorem State.takeTile_mem {τ : State} {core l fa : Nat} {vs : List (List Nat)} (h : σ.takeTile core l = some (fa, vs, τ)) : τ.mem = σ.mem := by
  unfold State.takeTile at h
  dsimp only at h
  (repeat' split at h) <;> cases h <;> rfl

theorem State.loadG_leaves (core ctx : Nat) (va : Word) (n : Nat) : Chk.Leaves σ.mem (σ.loadG core ctx va n) := by
  have hf := fun i => σ.fabricAsk_leaves core ctx none i va
  unfold State.loadG
  split
  · trivial
  next x _ =>
    have hx := hf x.frame
    dsimp only
    (repeat' split) <;> simp_all [Chk.Leaves, Loaded.Leaves, FabAns.Leaves, failWith]

@[simp] theorem State.fragTry_mem (core slot : Nat) (mine : LeaseReq) (l : List LeaseReq) : (σ.fragTry core slot mine l).2.mem = σ.mem := by
  induction l with
  | nil => rfl
  | cons r l ih => unfold State.fragTry; dsimp only; (repeat' split) <;> simp [ih]

@[simp] theorem State.copyTry_mem (core slot : Nat) (mine : LeaseReq) (l : List LeaseReq) : (σ.copyTry core slot mine l).2.mem = σ.mem := by
  induction l with
  | nil => rfl
  | cons r l ih => unfold State.copyTry; dsimp only; (repeat' split) <;> simp [ih]

/-! ## The Rink's accesses -/

theorem State.rvAccess_leaves (vf : Nat) (k : Kind) (a n : Nat) : (σ.rvAccess vf k a n).Leaves σ.mem := by
  unfold State.rvAccess
  (repeat' split) <;> simp [RvOut.Leaves]
  rw [foldl_mem]
  intro τ pa
  split <;> simp

theorem State.rvRead_leaves (vf : Nat) (k : Kind) (a n : Nat) : (σ.rvRead vf k a n).Leaves σ.mem := by
  have h := σ.rvAccess_leaves vf k a n
  unfold State.rvRead
  (repeat' split) <;> simp_all [RvOut.Leaves]

theorem State.rvWrite_leaves (vf : Nat) (k : Kind) (a : Nat) (l : List Byte) : (σ.rvWrite vf k a l).Leaves σ.mem := by
  have h := σ.rvAccess_leaves vf k a l.length
  unfold State.rvWrite
  (repeat' split) <;> simp_all [RvOut.Leaves]

theorem State.rvAtom_leaves (vf : Nat) (k : Kind) (a n : Nat) (f : Nat → Nat → Option Nat) : (σ.rvAtom vf k a n f).Leaves σ.mem := by
  have h := σ.rvSync.rvAccess_leaves vf k a n
  unfold State.rvAtom
  dsimp only
  (repeat' split) <;> simp_all [RvOut.Leaves]

theorem rvSetX_leaves (h : Hart) (len w : Nat) (x : Option Word) : (rvSetX σ h len w x).Leaves σ.mem := by
  cases x <;> simp [rvSetX, rvIllegal, RvOut.Leaves]

theorem rvLoad_leaves (vf : Nat) (h : Hart) (w len : Nat) : (rvLoad σ vf h w len).Leaves σ.mem := by
  unfold rvLoad
  dsimp only
  split
  · rfl
  · split <;> rename_i heq <;> exact (σ.rvRead_leaves _ _ _ _).of_eq heq

theorem rvFload_leaves (vf : Nat) (h : Hart) (w len : Nat) : (rvFload σ vf h w len).Leaves σ.mem := by
  unfold rvFload
  dsimp only
  split
  · rfl
  · split <;> rename_i heq <;> exact (σ.rvRead_leaves _ _ _ _).of_eq heq

theorem rvStore_leaves (vf : Nat) (h : Hart) (a n : Nat) (v : Word) (len : Nat) : (rvStore σ vf h a n v len).Leaves σ.mem := by
  unfold rvStore
  split <;> rename_i heq <;> exact (σ.rvWrite_leaves _ _ _ _).of_eq heq

theorem rvAmo_leaves (vf : Nat) (h : Hart) (w len : Nat) : (rvAmo σ vf h w len).Leaves σ.mem := by
  unfold rvAmo
  dsimp only
  generalize (if rvF3 w = 2 then 4 else 8) = n
  split
  · rfl
  split
  · split
    · rfl
    · split
      · rfl
      · split <;> rename_i heq <;> exact (σ.rvAtom_leaves _ _ _ _ _).of_eq heq
  · split
    · split
      · rfl
      · split <;> rename_i heq <;> exact (σ.rvAtom_leaves _ _ _ _ _).of_eq heq
    · split
      · rfl
      · split
        · rfl
        · split <;> rename_i heq <;> exact (σ.rvAtom_leaves _ _ _ _ _).of_eq heq

theorem rvSetCsr_mem {h h' : Hart} {τ : State} {n : Nat} {w : Word} (e : rvSetCsr σ h n w = some (h', τ)) : τ.mem = σ.mem := by
  unfold rvSetCsr at e
  dsimp only at e
  split at e <;> cases e <;> simp

theorem rvSystem_leaves (h : Hart) (cycle w len : Nat) : (rvSystem σ h cycle w len).Leaves σ.mem := by
  unfold rvSystem
  dsimp only
  iterate 5
    split
    · rfl
  split
  · rfl
  · split
    · rfl
    next heq =>
      split at heq
      · exact rvSetCsr_mem heq
      · cases heq
        rfl

theorem rvOpFp_leaves (h : Hart) (w len : Nat) : (rvOpFp σ h w len).Leaves σ.mem := by
  unfold rvOpFp
  extract_lets dbl f op r2 f3 a b sfp rounded
  have hs : ∀ r, (sfp r).Leaves σ.mem := fun _ => rfl
  have hr : ∀ g, (∀ rm, (g rm).Leaves σ.mem) → (rounded g).Leaves σ.mem := fun g hg => by
    unfold rounded
    split
    · exact hg _
    · rfl
  have hx : ∀ r, (rvFlagX σ h len w r).Leaves σ.mem := fun _ => rfl
  have arith : ∀ g : Nat → Nat × Nat, (rounded fun rm => sfp (g rm)).Leaves σ.mem := fun g => hr _ fun rm => hs (g rm)
  exact .ite rfl <| .ite (arith _) <| .ite (arith _) <| .ite (arith _) <| .ite (arith _) <| .ite (arith _) <| .ite (hs _) <| .ite (hs _) <|
    .ite (arith _) <| .ite (hx _) <| .ite (hr _ fun _ => hx _) <| .ite (arith _) <| .ite (hx _) <| .ite (hx _) <| .ite (hs _) rfl

theorem rvFmaOp_leaves (h : Hart) (w len op : Nat) : (rvFmaOp σ h w len op).Leaves σ.mem := by
  unfold rvFmaOp
  dsimp only
  (repeat' split) <;> simp [RvOut.Leaves, rvIllegal, rvDone, rvSetF]

theorem rvExec32_leaves (vf : Nat) (h : Hart) (cycle w len : Nat) : (rvExec32 σ vf h cycle w len).Leaves σ.mem := by
  unfold rvExec32
  dsimp only
  split
  · rfl
  · rfl
  · rfl
  · exact .ite rfl rfl
  · split <;> rfl
  · exact rvLoad_leaves ..
  · exact .ite (rvStore_leaves ..) rfl
  · exact rvSetX_leaves ..
  · exact rvSetX_leaves ..
  · exact rvSetX_leaves ..
  · exact rvSetX_leaves ..
  · exact .ite (by simp [rvDone, RvOut.Leaves]) rfl
  · exact rvSystem_leaves ..
  · exact rvAmo_leaves ..
  · exact rvFload_leaves ..
  · exact .ite (rvStore_leaves ..) rfl
  · exact rvFmaOp_leaves ..
  · exact rvFmaOp_leaves ..
  · exact rvFmaOp_leaves ..
  · exact rvFmaOp_leaves ..
  · exact rvOpFp_leaves ..
  · rfl

theorem rvExecLen_leaves (vf : Nat) (h : Hart) (cycle w len : Nat) : (rvExecLen σ vf h cycle w len).Leaves σ.mem := by
  unfold rvExecLen
  split
  · rfl
  · split
    next heq =>
      have hτ := (rvExec32_leaves (σ := σ) vf h cycle w len).of_eq heq
      split
      · exact hτ
      · exact (State.fsDirty_mem _).trans hτ
    next heq => exact (rvExec32_leaves ..).of_eq heq
    next heq => exact (rvExec32_leaves ..).of_eq heq

theorem rvExec_leaves (vf : Nat) (h : Hart) (cycle w : Nat) : (rvExec σ vf h cycle w).Leaves σ.mem := by
  unfold rvExec
  split
  · exact rvExecLen_leaves ..
  · split
    · exact rvExecLen_leaves ..
    · rfl

theorem State.rinkFetchAt_leaves (vf pc : Nat) : (σ.rinkFetchAt vf pc).Leaves σ.mem := by
  unfold State.rinkFetchAt
  split
  next τ heq =>
    have hτ := (σ.rvRead_leaves ..).of_eq heq
    refine .ite hτ ?_
    split <;> rename_i heq' <;> exact ((τ.rvRead_leaves ..).of_eq heq').trans hτ
  next heq => exact (σ.rvRead_leaves ..).of_eq heq
  next heq => exact (σ.rvRead_leaves ..).of_eq heq

theorem State.rinkFetch_leaves (n : Nat) : (σ.rinkFetch n).Leaves σ.mem := by
  unfold State.rinkFetch
  refine .ite (σ.rinkFetchAt_leaves ..) ?_
  split
  · rfl
  · exact σ.rinkFetchAt_leaves ..

/-! ## Outcomes of the shared operations -/

section
variable (h : σ.mem = m)
include h
@[simp] theorem State.fwSleep_keeps : Keeps m σ.fwSleep := by
  unfold State.fwSleep
  simp [h]
@[simp] theorem State.ldcWith_keeps (d b : BitVec 5) (o : BitVec 14) (nowait : Bool) : Keeps m (σ.ldcWith d b o nowait) := by
  unfold State.ldcWith
  dsimp only
  split_ifs
  · simp [h]
  · simp [h]
  all_goals
    split
    next => simp [h]
    next τ ht =>
      have hτ : τ.mem = m := (State.ownerTouch_mem ht).trans h
      try split_ifs
      all_goals simp [hτ]
@[simp] theorem State.leaseWait_keeps (d k : BitVec 5) (copy : Bool) (shape cls : Nat) : Keeps m (σ.leaseWait d k copy shape cls) := by
  unfold State.leaseWait
  dsimp only
  split_ifs
  · simp [h]
  · exact State.waitTask_keeps h fun τ k hτ => by simp [hτ]
@[simp] theorem State.sendAction_keeps (g : Nat) (d : Word) : Keeps m (σ.sendAction g d) := by
  unfold State.sendAction
  dsimp only
  split_ifs <;> simp [h]
@[simp] theorem State.arrive_keeps (a : Arrival) : Keeps m (σ.arrive a) := by
  unfold State.arrive
  split_ifs
  · simp [h]
  · simp [h]
  · split
    next τ hτ => simp [State.serveRemote_mem hτ, h]
    next => simp [h]
end
end Sys2Proof.Machine
end

section
namespace Sys2Proof.Machine
variable {σ : State} {m : List Host.Cell}

theorem keeps_ite {c : Prop} [Decidable c] {a b : Out} (ha : Keeps m a) (hb : Keeps m b) : Keeps m (if c then a else b) := by
  split
  · exact ha
  · exact hb

section
variable (h : σ.mem = m)
include h

@[simp] theorem State.setVshape_keeps (v : Word) : Keeps m (σ.setVshape v) := by
  subst h
  unfold State.setVshape
  dsimp only
  (repeat' split) <;> simp
@[simp] theorem State.transfer_keeps (take : Bool) (tgt : Word) (link : Option (BitVec 5)) : Keeps m (σ.transfer take tgt link) := by
  subst h
  unfold State.transfer
  dsimp only
  (repeat' split) <;> simp
@[simp] theorem State.forkOn_keeps (es : List Nat) (hold : Bool) (p : Prog) : Keeps m (σ.forkOn es hold p) := by
  subst h
  unfold State.forkOn
  dsimp only
  (repeat' split) <;> simp
@[simp] theorem State.fenceCore_keeps (x y : BitVec 6) (id : Nat) : Keeps m (σ.fenceCore x y id) := by
  subst h
  unfold State.fenceCore
  dsimp only
  (repeat' split) <;> simp
@[simp] theorem State.signal_keeps (s t : BitVec 5) (add : Bool) : Keeps m (σ.signal s t add) := by
  subst h
  unfold State.signal
  dsimp only
  (repeat' split) <;> simp
theorem State.recordAt_keeps (a : Word) (n : Nat) {k : State → Nat → Out} (hk : ∀ τ v, τ.mem = m → Keeps m (k τ v)) :
    Keeps m (σ.recordAt a n k) := by
  have hl := σ.loadG_leaves σ.core σ.ctx a n
  rw [h] at hl
  unfold State.recordAt
  split
  · simp [h]
  · split <;> rename_i heq <;> rw [heq] at hl
    · simp [h]
    · exact State.interlock_keeps hl
    · exact hk _ _ hl
@[simp] theorem State.deadRange_keeps (s : BitVec 5) (c : BitVec 9) (limit : Nat) (k : List Nat → Ctx) :
    Keeps m (σ.deadRange s c limit k) := by
  subst h
  unfold State.deadRange
  dsimp only
  (repeat' split) <;> simp
@[simp] theorem State.rwSet_keeps (v : Word) : Keeps m (σ.rwSet v) := by
  subst h
  unfold State.rwSet
  dsimp only
  (repeat' split) <;> simp
@[simp] theorem State.nearAtom_keeps (d : BitVec 5) (a : Word) (n op v ord : Nat) (cmp : Option Nat) :
    Keeps m (σ.nearAtom d a n op v ord cmp) := by
  subst h
  unfold State.nearAtom
  dsimp only
  (repeat' split) <;> simp
@[simp] theorem State.farReduce_keeps (d : BitVec 5) (a : Word) (x : Xl) (v : Nat) : Keeps m (σ.farReduce d a x v) := by
  unfold State.farReduce
  split
  next heq => simp [State.contributeAsk_mem_of_eq heq, h]
  next heq => simp [State.contributeAsk_mem_of_eq heq, h]
  next heq => simp [State.contributeAsk_mem_of_eq heq, h]
@[simp] theorem State.farRemote_keeps (d : BitVec 5) (a : Word) (x : Xl) (n : Nat) : Keeps m (σ.farRemote d a x n) := by
  have hf := σ.fabricAsk_leaves σ.core σ.ctx none x.frame a
  rw [h] at hf
  unfold State.farRemote
  split <;> rename_i heq <;> rw [heq] at hf
  · exact State.trapWith_keeps hf ..
  · exact State.trapWith_keeps hf ..
  · exact State.interlock_keeps hf
  · exact State.effectDone_keeps ((State.tickFresh_mem _).trans hf) _
@[simp] theorem State.farAtom_keeps (d : BitVec 5) (a : Word) (n op v : Nat) (cmp : Option Nat) : Keeps m (σ.farAtom d a n op v cmp) := by
  subst h
  unfold State.farAtom
  dsimp only
  (repeat' split) <;> simp
@[simp] theorem State.mkBegin_keeps (b : BitVec 5) (kind : Kind) {k : State → Xl → Out} (hk : ∀ τ x, τ.mem = m → Keeps m (k τ x)) :
    Keeps m (σ.mkBegin b kind k) := by
  subst h
  unfold State.mkBegin
  dsimp only
  (repeat' split) <;> simp_all
@[simp] theorem State.mkTry_keeps (g : BitVec 2) (b : BitVec 5) (k : BitVec 8) (f : BitVec 3) (take : Bool) :
    Keeps m (σ.mkTry g b k f take) := by
  unfold State.mkTry
  split
  · simp [h]
  · refine State.mkBegin_keeps h _ _ fun τ x hτ => ?_
    dsimp only
    (repeat' split) <;> simp [hτ]
@[simp] theorem State.mkWait_keeps (b : BitVec 5) (k : BitVec 8) (r : BitVec 5) (take : Bool) : Keeps m (σ.mkWait b k r take) := by
  unfold State.mkWait
  split
  · simp [h]
  · refine State.mkBegin_keeps h _ _ fun τ x hτ => ?_
    dsimp only
    split
    · split
      · split <;> simp [hτ]
      split
      · split <;> simp [hτ]
      · refine State.waitTask_keeps hτ fun ρ t hρ => ?_
        split <;> simp [hρ]
    · split
      · split <;> simp [hτ]
      split
      · split <;> simp [hτ]
      · exact State.waitTask_keeps hτ fun ρ t hρ => by simp [hρ]
@[simp] theorem State.wordDone_keeps (n : Nat) : Keeps m (σ.wordDone n) := by simp [h, State.wordDone]
@[simp] theorem State.engineFault_keeps (cause : Nat) (detail : Word) : Keeps m (σ.engineFault cause detail) := by
  subst h
  unfold State.engineFault
  dsimp only
  (repeat' split) <;> simp
@[simp] theorem State.copyFault_keeps (cause : Nat) (detail : Word) : Keeps m (σ.copyFault cause detail) := by
  subst h
  unfold State.copyFault
  (repeat' split) <;> simp
@[simp] theorem State.fragFault_keeps (cause fcause : Nat) (detail : Word) : Keeps m (σ.fragFault cause fcause detail) := by
  subst h
  unfold State.fragFault
  dsimp only
  (repeat' split) <;> simp
@[simp] theorem State.badWord_keeps : Keeps m (σ.badWord) := by
  subst h
  unfold State.badWord
  (repeat' split) <;> simp
@[simp] theorem State.vecPush_keeps (ring : Nat) (bs : List (Nat × Byte)) : Keeps m (σ.vecPush ring bs) := by
  unfold State.vecPush
  split
  next heq => simp [State.pushSlot_mem heq, h]
  next => simp [h]
@[simp] theorem State.vecWord_keeps (legal : Bool) (srcs : List Opnd) (dst : Option Opnd) {go : List Nat → Out} (hgo : ∀ cs, Keeps m (go cs)) :
    Keeps m (σ.vecWord legal srcs dst go) := by
  subst h
  unfold State.vecWord
  dsimp only
  (repeat' split) <;> simp_all
@[simp] theorem State.vecRetire_keeps (srcs : List Opnd) (dst : Opnd) (parts : List VPart) (g : BitVec 32) :
    Keeps m (σ.vecRetire srcs dst parts g) := by
  subst h
  unfold State.vecRetire
  dsimp only
  (repeat' split) <;> simp
@[simp] theorem State.vecRetireP_keeps (srcs : List Opnd) (d : Nat) (on : List Nat) :
    Keeps m (σ.vecRetireP srcs d on) := by simp [h, State.vecRetireP]
@[simp] theorem State.vElem_keeps (legal : Bool) (d a b : BitVec 7) (x y : BitVec 1) (g : BitVec 3) (f : Nat → Nat → Nat → BitVec 32 → Nat × BitVec 32) :
    Keeps m (σ.vElem legal d a b x y g f) := by simp [h, State.vElem]
@[simp] theorem State.vElem1_keeps (legal : Bool) (d a : BitVec 7) (x : BitVec 1) (g : BitVec 3) (f : Nat → BitVec 32 → Nat × BitVec 32) :
    Keeps m (σ.vElem1 legal d a x g f) := by simp [h, State.vElem1]
@[simp] theorem State.vCmp_keeps (op : Nat) (d : BitVec 3) (a b : BitVec 7) (x y : BitVec 1) (g : BitVec 3) :
    Keeps m (σ.vCmp op d a b x y g) := by simp [h, State.vCmp]
@[simp] theorem State.vTrans_keeps (op : Nat) (d a : BitVec 7) (x : BitVec 1) (g : BitVec 3) :
    Keeps m (σ.vTrans op d a x g) := by simp [h, State.vTrans]
@[simp] theorem State.vecPopDone_keeps (srcs : List Opnd) : Keeps m (σ.vecPopDone srcs) := by simp [h, State.vecPopDone]
@[simp] theorem State.foreignWait_keeps (core slot slab : Nat) : Keeps m (σ.foreignWait core slot slab) := by
  subst h
  unfold State.foreignWait
  (repeat' split) <;> simp
@[simp] theorem State.vLoadC_keeps (nowait : Bool) (d : BitVec 7) (a : BitVec 6) (o : BitVec 7) (g : BitVec 3) :
    Keeps m (σ.vLoadC nowait d a o g) := by
  unfold State.vLoadC
  refine State.vecWord_keeps h _ _ _ fun cs => ?_
  split
  · simp [h]
  · dsimp only
    split
    next heq => simp [State.touchRun_mem_of_eq heq, h]
    next heq =>
      have hτ := (State.touchRun_mem_of_eq heq).trans h
      split
      · simp [hτ]
      · split <;> simp [hτ]
@[simp] theorem State.mFault_keeps (f : MFault) : Keeps m (σ.mFault f) := by simp [h, State.mFault]
@[simp] theorem State.matWord_keeps (f l : BitVec 1) (v : BitVec 3) (decodeOk : Bool) (check : Option MFault) {go : Out} (hgo : Keeps m go) :
    Keeps m (σ.matWord f l v decodeOk check go) := by
  subst h
  unfold State.matWord
  dsimp only
  (repeat' split) <;> simp_all
theorem State.mTouch_keeps (js : List Nat) {go : State → Out} (hgo : ∀ τ, τ.mem = m → Keeps m (go τ)) : Keeps m (σ.mTouch js go) := by
  unfold State.mTouch
  split
  next heq => simp [State.touchRun_mem_of_eq heq, h]
  next heq => exact hgo _ ((State.touchRun_mem_of_eq heq).trans h)
@[simp] theorem State.selectThen_keeps (b : Nat) (hold : Bool) {go : State → Out} (hgo : ∀ τ, τ.mem = m → Keeps m (go τ)) :
    Keeps m (σ.selectThen b hold go) := by
  subst h
  unfold State.selectThen
  dsimp only
  (repeat' split) <;> simp_all
@[simp] theorem State.mmaRing_keeps (f l : BitVec 1) (v : BitVec 3) (a b s0 mode : Nat) (hold : Bool) :
    Keeps m (σ.mmaRing f l v a b s0 mode hold) := by
  unfold State.mmaRing
  refine State.matWord_keeps h _ _ _ _ _ ?_
  split
  · simp [h]
  · exact State.mTouch_keeps h _ fun τ hτ => State.selectThen_keeps hτ _ _ fun ρ hρ => by simp [hρ]
@[simp] theorem State.mmaLink_keeps (f l : BitVec 1) (v : BitVec 3) (b s0 mode : Nat) (hold : Bool) :
    Keeps m (σ.mmaLink f l v b s0 mode hold) := by
  unfold State.mmaLink
  refine State.matWord_keeps h _ _ _ _ _ ?_
  split
  · simp [h]
  split
  · simp [h]
  dsimp only
  split
  · simp [h]
  split
  · simp [h]
  split
  · simp [h]
  split
  · simp [h]
  split
  · simp [h]
  refine State.mTouch_keeps (by simp [h]) _ fun τ hτ => State.selectThen_keeps hτ _ _ fun ρ hρ => ?_
  split
  · simp [hρ]
  next heq => simp [State.takeTile_mem heq, hρ]
@[simp] theorem State.copyWord_keeps (f l : BitVec 1) (v : BitVec 3) (ser : BitVec 1) (decodeOk : Bool) {go : Out} (hgo : Keeps m go) :
    Keeps m (σ.copyWord f l v ser decodeOk go) := by
  subst h
  unfold State.copyWord
  dsimp only
  (repeat' split) <;> simp_all
@[simp] theorem State.beginStep_keeps (t : BitVec 1) (x : BitVec 6) (op : CopyOp) (slotNo : Nat) (words : Nat) :
    Keeps m (σ.beginStep t x op slotNo words) := by
  subst h
  unfold State.beginStep
  dsimp only
  (repeat' split) <;> simp
@[simp] theorem State.cancelledStep_keeps (x : BitVec 6) (words : Nat) :
    Keeps m (σ.cancelledStep x words) := by simp [h, State.cancelledStep]
@[simp] theorem State.startStep_keeps (t : BitVec 1) (x : BitVec 6) (op : CopyOp) : Keeps m (σ.startStep t x op) := by
  unfold State.startStep
  dsimp only
  split
  · simp [h]
  split
  · simp [h]
  split
  · simp [h]
  · split
    next heq => simp [State.touchRun_mem_of_eq heq, h]
    next heq =>
      have hτ := (State.touchRun_mem_of_eq heq).trans h
      exact keeps_ite (by simp [hτ]) (by simp [hτ])
@[simp] theorem State.startFill_keeps (t : BitVec 1) (x : BitVec 6) (op : CopyOp) (ring words : Nat) :
    Keeps m (σ.startFill t x op ring words) := by
  unfold State.startFill
  dsimp only
  (repeat' split) <;> simp [h]
@[simp] theorem State.startDrain_keeps (t : BitVec 1) (x : BitVec 6) (op : CopyOp) (ring : Nat) : Keeps m (σ.startDrain t x op ring) := by
  subst h
  unfold State.startDrain
  dsimp only
  (repeat' split) <;> simp
@[simp] theorem State.copyEnd_keeps : Keeps m (σ.copyEnd) := by
  subst h
  unfold State.copyEnd
  dsimp only
  (repeat' split) <;> simp
theorem State.monitorWord_keeps {go : State → Nat → Hart → RvOut Hart} (hgo : ∀ τ vf k, τ.mem = m → (go τ vf k).Leaves m) :
    Keeps m (σ.monitorWord go) := by
  have hg := fun vf k => hgo σ.tickFresh vf k (by simp [h])
  unfold State.monitorWord
  dsimp only
  split <;> rename_i τ heq <;> have hτ : τ.mem = m := (hg _ _).of_eq heq
  · split
    · simp [hτ]
    · split <;> simp [hτ]
  · simp [hτ]
  · simp [hτ]
theorem State.rinkWord_keeps {go : State → Nat → Nat → Episode → RkOut} (hgo : ∀ τ vf ep e, τ.mem = m → (go τ vf ep e).Leaves m) :
    Keeps m (σ.rinkWord go) := by
  have hg := fun vf ep e => hgo σ.tickFresh vf ep e (by simp [h])
  unfold State.rinkWord
  split
  · exact State.monitorWord_keeps h fun τ _ _ hτ => hτ
  split
  · simp [h]
  next id _ =>
    extract_lets vf ep e k τ late spent
    have hs : Keeps m spent := by simp [spent, τ, h]
    split <;> rename_i ρ heq <;> have hρ : ρ.mem = m := (hg _ _ _).of_eq heq
    · simp [hρ]
    · simp [hρ]
    · exact keeps_ite hs (by simp [hρ])
    · exact keeps_ite hs (by simp [hρ])
    · refine keeps_ite hs ?_
      dsimp only
      split <;> simp [hρ]
@[simp] theorem State.rinkExc_keeps (c : Nat) : Keeps m (σ.rinkExc c) :=
  keeps_ite (State.monitorWord_keeps h fun _ _ _ hτ => hτ) (State.rinkWord_keeps h fun _ _ _ _ hτ => hτ)
@[simp] theorem State.rinkIllegal_keeps : Keeps m σ.rinkIllegal := State.rinkExc_keeps h 2
theorem State.withPacket_keeps (vf q idx : Nat) {k : Packet → Out} (hk : ∀ p, Keeps m (k p)) : Keeps m (σ.withPacket vf q idx k) := by
  unfold State.withPacket
  split
  · exact keeps_ite (hk _) (by simp [h])
  · simp [h]
theorem State.ldStart_keeps (v : Word) (gran : Bool) {k : State → Out} (hk : ∀ τ, τ.mem = m → Keeps m (k τ)) : Keeps m (σ.ldStart v gran k) := by
  unfold State.ldStart
  dsimp only
  split
  · simp [h]
  split
  · simp [h]
  split
  · simp [h]
  split
  · simp [h]
  split
  · simp [h]
  · exact hk _ (by simp [h])
theorem State.sealStart_keeps (v : Word) {k : State → Nat → Nat → State} (hk : ∀ τ vf f, τ.mem = m → memWf m = true → memWf (k τ vf f).mem = true) :
    Keeps m (σ.sealStart v k) := by
  unfold State.sealStart
  dsimp only
  split
  · simp [h]
  · exact keeps_next.mpr (hk _ _ _ (by simp [h]))
theorem State.migStart_keeps (v : Word) (states : List Nat) (key : Bool) {k : State → Nat → Out} (hk : ∀ τ vf, τ.mem = m → Keeps m (k τ vf)) :
    Keeps m (σ.migStart v states key k) := by
  unfold State.migStart
  dsimp only
  split
  · simp [h]
  split
  · simp [h]
  split
  · simp [h]
  · exact hk _ _ (by simp [h])
@[simp] theorem State.spdmFree_keeps (n : Nat) (s : Spdm) (resp k : Nat) : Keeps m (σ.spdmFree n s resp k) := by simp [State.spdmFree, h]
@[simp] theorem State.spdmError_keeps (n code : Nat) : Keeps m (σ.spdmError n code) := by simp [State.spdmError, h]
theorem State.spdmAt_keeps {n : Nat} (hn : n ≤ 64) (phase : Nat) {k : Spdm → Out} (hk : ∀ s, Keeps m (k s)) : Keeps m (σ.spdmAt n phase k) := by
  unfold State.spdmAt
  rw [if_neg (by omega)]
  exact keeps_ite (by simp [h]) (hk _)
end
end Sys2Proof.Machine
end

section
namespace Sys2Proof.Machine
section
variable {σ : State} {m : List Host.Cell}

theorem State.vRemote_leaves {l : List (Nat × Word × Xl)} {x : Loaded} (h : σ.vRemote l = .ok x) : x.Leaves σ.mem := by
  have ha := fun q => σ.fabricAskAll_leaves σ.core σ.eng q
  unfold State.vRemote at h
  dsimp only at h
  split at h <;> rename_i heq <;> have hτ := (ha _).of_eq heq
  · contradiction
  · cases h
    exact hτ
  · split at h
    · contradiction
    · cases h
      exact hτ

@[simp] theorem State.farLanes_mem (n op D z : Nat) (l : List (Nat × Word × Xl)) (σ : State) : (State.farLanes n op D z l σ).2.mem = σ.mem := by
  induction l generalizing σ with
  | nil => rfl
  | cons p r ih =>
    unfold State.farLanes
    split
    · exact (ih _).trans (by simp)
    · exact (ih _).trans (by simp)

theorem State.nearLanes_mem {req n op D z : Nat} {l : List (Nat × Word × Xl)} {σ : State} {c : Ctx} {r : List (Nat × Nat) × State × Ctx}
    (h : State.nearLanes req n op D z l σ c = .ok r) : r.2.1.mem = σ.mem := by
  induction l generalizing σ c r with
  | nil => cases h; rfl
  | cons p l ih =>
    unfold State.nearLanes at h
    dsimp only at h
    split at h
    · contradiction
    · split at h
      · contradiction
      next heq =>
        cases h
        rw [ih heq]
        split <;> simp

@[simp] theorem State.contributeAll_mem (slot idx : Nat) (l : List (Nat × Xl × Nat)) (a : Tbl Nat) (σ : State) :
    (σ.contributeAll slot idx l a).1.mem = σ.mem := by
  induction l generalizing σ a with
  | nil => rfl
  | cons p l ih =>
    unfold State.contributeAll
    split
    · exact ih _ _
    · split <;> rename_i heq <;> exact (ih _ _).trans (State.contributeAsk_mem_of_eq heq)

/-! ## The move of a copy step -/

theorem State.readSide_leaves (slot idx esz : Nat) (op : GOp) (vas : List Word) {k : State → List (Option Nat) → Option (Nat × Word) → StepEnd}
    (hk : ∀ τ vs e, τ.mem = σ.mem → (k τ vs e).Leaves σ.mem) : (σ.readSide slot idx esz op vas k).Leaves σ.mem := by
  unfold State.readSide
  dsimp only
  split
  · trivial
  · split <;> rename_i heq
    · trivial
    · exact (σ.fabricAskAll_leaves ..).of_eq heq
    · refine hk _ _ _ ?_
      have hτ : _ = σ.mem := (σ.fabricAskAll_leaves ..).of_eq heq
      split <;> simpa using hτ

theorem State.writeSide_leaves (slot idx esz : Nat) (op : GOp) (tag : Option Nat) (vas : List Word) (vs : List (Option Nat)) :
    (σ.writeSide slot idx esz op tag vas vs).Leaves σ.mem := by
  unfold State.writeSide
  dsimp only
  split
  · trivial
  · split <;> rename_i heq
    · trivial
    · exact (σ.fabricAskAll_leaves ..).of_eq heq
    · exact (State.gWrite_mem ..).trans ((σ.fabricAskAll_leaves ..).of_eq heq)

theorem State.sourceSide_leaves (slot idx : Nat) (A : Shape) {k : State → List (Option Nat) → Option (Nat × Word) → StepEnd}
    (hk : ∀ τ vs e, τ.mem = σ.mem → (k τ vs e).Leaves σ.mem) : (σ.sourceSide slot idx A k).Leaves σ.mem := by
  unfold State.sourceSide
  split
  · exact State.readSide_leaves _ _ _ _ _ hk
  · exact hk _ _ _ rfl

theorem State.sendMessage_leaves (slot idx ep : Nat) : (σ.sendMessage slot idx ep).Leaves σ.mem := by
  unfold State.sendMessage
  dsimp only
  split
  · rfl
  · split <;> rename_i heq <;> exact (σ.fabricAsk_leaves ..).of_eq heq

theorem State.moveStep_leaves (slot : Nat) (s : CopyStep) : (σ.moveStep slot s).Leaves σ.mem := by
  unfold State.moveStep
  dsimp only
  split
  · exact State.readSide_leaves _ _ _ _ _ fun τ vs e hτ => by simpa [StepEnd.Leaves] using hτ
  · exact State.readSide_leaves _ _ _ _ _ fun τ vs e hτ => by simpa [StepEnd.Leaves] using hτ
  · exact State.writeSide_leaves ..
  · split
    · rfl
    split
    · trivial
    split
    next heq =>
      have hτ : _ = σ.mem := (State.writeSide_leaves ..).of_eq heq
      split <;> simpa [StepEnd.Leaves] using hτ
    next => exact State.writeSide_leaves ..
  · split
    next heq =>
      have hτ : _ = σ.mem := (State.writeSide_leaves ..).of_eq heq
      simpa [StepEnd.Leaves] using hτ
    next => exact State.writeSide_leaves ..
  · exact State.sourceSide_leaves _ _ _ fun τ vs e hτ => by simpa [StepEnd.Leaves] using hτ
  · exact State.readSide_leaves _ _ _ _ _ fun τ vs e hτ => by simpa [StepEnd.Leaves] using hτ
  · exact State.writeSide_leaves ..
  · refine State.sourceSide_leaves _ _ _ fun τ vs e hτ => ?_
    split
    · exact hτ
    · exact hτ ▸ State.sendMessage_leaves ..
  · split
    · trivial
    · split
      · trivial
      · split <;> simp [StepEnd.Leaves]
  · split
    · rfl
    · exact State.readSide_leaves _ _ _ _ _ fun τ vs e hτ => by simpa [StepEnd.Leaves] using hτ

/-! ## The front end, records and boot -/

theorem State.nextPacket_bad_mem {τ : State} {vf q c : Nat} {ws : List Word} (h : σ.nextPacket vf q = some (.bad c τ, ws)) : τ.mem = σ.mem := by
  unfold State.nextPacket at h
  dsimp only at h
  split at h
  · contradiction
  split at h
  · contradiction
  split at h
  · cases h
  next heq => cases h; exact State.feAsk_bad_mem heq
  · split at h <;> cases h

theorem State.feWord_wait_mem {τ : State} {vf : Nat} {va : Word} (h : σ.feWord vf va = .wait τ) : τ.mem = σ.mem := by
  unfold State.feWord at h
  split at h
  · split at h
    · cases h
      simp
    · contradiction
  · split at h <;> contradiction

theorem State.feLine_wait_mem {τ : State} {vf n : Nat} {va : Word} (h : (σ.feLine vf va n).2 = some (.wait τ)) : τ.mem = σ.mem := by
  induction n generalizing va with
  | zero => cases h
  | succ n ih =>
    unfold State.feLine at h
    split at h
    · exact ih h
    · exact State.feWord_wait_mem (Option.some.inj h)

@[simp] theorem State.copyLines_mem (vf : Nat) (src dst : Word) (done n : Nat) (σ : State) : (σ.copyLines vf src dst done n).1.mem = σ.mem := by
  induction n generalizing σ done with
  | zero => rfl
  | succ n ih =>
    unfold State.copyLines
    split
    next heq => exact State.feAsk_wait_mem heq
    next heq => exact State.feAsk_bad_mem heq
    · dsimp only
      split
      next heq => exact (State.feLine_wait_mem heq).trans (State.feFill_mem _ _)
      · simp
      · exact (ih _ _).trans (by simp)

theorem State.importTiles_wf (vf n : Nat) (l : List Byte) {σ : State} (w : memWf σ.mem = true) : memWf (σ.importTiles vf n l).mem = true := by
  induction n generalizing σ l with
  | zero => exact w
  | succ n ih =>
    unfold State.importTiles
    split
    · exact w
    · dsimp only
      split
      · exact ih _ (by split <;> simpa using w)
      · exact ih _ (by split <;> simpa using w)

@[simp] theorem State.boot_mem (l : List Nat) (σ : State) : (State.boot l σ).mem = σ.mem := by
  induction l generalizing σ with
  | nil => rfl
  | cons s l ih =>
    unfold State.boot
    dsimp only
    split
    · exact (ih _).trans (by simp)
    · simp


@[simp] theorem State.writeBar4_mem (vf off : Nat) (v : Word) (wide : Bool) : (σ.writeBar4 vf off v wide).mem = σ.mem := by
  unfold State.writeBar4
  dsimp only
  (repeat' split) <;> simp

theorem State.sealExhaust_wf (t : Nat) (w : memWf σ.mem = true) : memWf (σ.sealExhaust t).mem = true := by
  unfold State.sealExhaust
  dsimp only
  split
  · simpa using w
  · rw [State.retireGen_mem]
    exact foldl_wf _ (fun τ f w => State.reseal_wf _ _ w) _ (by simpa using w)

end

/-! ## Every meaning -/

theorem execVany_keeps (f p : BitVec 3) (σ : State) : Keeps σ.mem (execVany f p σ) := by simp [execVany]
theorem execVall_keeps (f p : BitVec 3) (σ : State) : Keeps σ.mem (execVall f p σ) := by simp [execVall]
theorem execLd_keeps (d b : BitVec 5) (z : BitVec 2) (o : BitVec 14) (σ : State) : Keeps σ.mem (execLd d b z o σ) := by
  have hl := σ.loadG_leaves σ.core σ.ctx (σ.effAddr b z o) (sizeBytes z)
  unfold execLd
  dsimp only
  split
  · simp
  · split <;> (try rename_i heq; rw [heq] at hl)
    · simp
    · exact State.interlock_keeps hl
    · exact State.retireS_keeps hl ..
theorem execSt_keeps (d b : BitVec 5) (z : BitVec 2) (o : BitVec 14) (σ : State) : Keeps σ.mem (execSt d b z o σ) := by
  unfold execSt
  dsimp only
  split
  · simp
  · split
    · simp
    next heq => simp [State.storeG_mem heq]
theorem execLdl_keeps (d b : BitVec 5) (z : BitVec 2) (o : BitVec 14) (σ : State) : Keeps σ.mem (execLdl d b z o σ) := by
  unfold execLdl
  dsimp only
  (repeat' split) <;> simp
theorem execStl_keeps (d b : BitVec 5) (z : BitVec 2) (o : BitVec 14) (σ : State) : Keeps σ.mem (execStl d b z o σ) := by
  unfold execStl
  dsimp only
  (repeat' split) <;> simp
theorem execLda_keeps (d b : BitVec 5) (z : BitVec 2) (o : BitVec 14) (σ : State) : Keeps σ.mem (execLda d b z o σ) := by
  unfold execLda
  dsimp only
  (repeat' split) <;> simp
theorem execSta_keeps (d b : BitVec 5) (z : BitVec 2) (o : BitVec 14) (σ : State) : Keeps σ.mem (execSta d b z o σ) := by
  unfold execSta
  dsimp only
  (repeat' split) <;> simp
theorem execLdc_keeps (d b : BitVec 5) (o : BitVec 14) (σ : State) : Keeps σ.mem (execLdc d b o σ) := by simp [execLdc]
theorem execLdcNowait_keeps (d b : BitVec 5) (o : BitVec 14) (σ : State) : Keeps σ.mem (execLdcNowait d b o σ) := by simp [execLdcNowait]
theorem execPref_keeps (b : BitVec 5) (z : BitVec 2) (o : BitVec 14) (σ : State) : Keeps σ.mem (execPref b z o σ) := by
  unfold execPref
  dsimp only
  (repeat' split) <;> simp
theorem execGets_keeps (d : BitVec 5) (n : BitVec 16) (σ : State) : Keeps σ.mem (execGets d n σ) := by
  unfold execGets
  (repeat' split) <;> simp
theorem execSets_keeps (s : BitVec 5) (n : BitVec 16) (σ : State) : Keeps σ.mem (execSets s n σ) := by
  unfold execSets
  dsimp only
  split_ifs
  · simp
  · exact State.setVshape_keeps rfl _
  · simp
  · exact State.retire_keeps (by simp) _
  · simp
  · exact State.retire_keeps (by simp) _
  · simp
  · exact State.retire_keeps (by simp) _
  · simp
  · simp
theorem execAllocatorDecision_keeps (core : Nat) (σ : State) : Keeps σ.mem (execAllocatorDecision core σ) := by simp [execAllocatorDecision]
theorem execClassAging_keeps (core : Nat) (σ : State) : Keeps σ.mem (execClassAging core σ) := by simp [execClassAging]
theorem execWholeHold_keeps (core : Nat) (σ : State) : Keeps σ.mem (execWholeHold core σ) := by simp [execWholeHold]
theorem execPlanChange_keeps (core : Nat) (σ : State) : Keeps σ.mem (execPlanChange core σ) := by simp [execPlanChange]
theorem execFragmentDrained_keeps (core seq : Nat) (σ : State) : Keeps σ.mem (execFragmentDrained core seq σ) := by
  unfold execFragmentDrained
  split_ifs <;> simp
theorem execAdd_keeps (d s t : BitVec 5) (σ : State) : Keeps σ.mem (execAdd d s t σ) := by simp [execAdd]
theorem execSub_keeps (d s t : BitVec 5) (σ : State) : Keeps σ.mem (execSub d s t σ) := by simp [execSub]
theorem execAnd_keeps (d s t : BitVec 5) (σ : State) : Keeps σ.mem (execAnd d s t σ) := by simp [execAnd]
theorem execOr_keeps (d s t : BitVec 5) (σ : State) : Keeps σ.mem (execOr d s t σ) := by simp [execOr]
theorem execXor_keeps (d s t : BitVec 5) (σ : State) : Keeps σ.mem (execXor d s t σ) := by simp [execXor]
theorem execAndn_keeps (d s t : BitVec 5) (σ : State) : Keeps σ.mem (execAndn d s t σ) := by simp [execAndn]
theorem execSll_keeps (d s t : BitVec 5) (σ : State) : Keeps σ.mem (execSll d s t σ) := by simp [execSll]
theorem execSrl_keeps (d s t : BitVec 5) (σ : State) : Keeps σ.mem (execSrl d s t σ) := by simp [execSrl]
theorem execSra_keeps (d s t : BitVec 5) (σ : State) : Keeps σ.mem (execSra d s t σ) := by simp [execSra]
theorem execRor_keeps (d s t : BitVec 5) (σ : State) : Keeps σ.mem (execRor d s t σ) := by simp [execRor]
theorem execMul_keeps (d s t : BitVec 5) (σ : State) : Keeps σ.mem (execMul d s t σ) := by simp [execMul]
theorem execMulh_keeps (d s t : BitVec 5) (σ : State) : Keeps σ.mem (execMulh d s t σ) := by simp [execMulh]
theorem execMulhu_keeps (d s t : BitVec 5) (σ : State) : Keeps σ.mem (execMulhu d s t σ) := by simp [execMulhu]
theorem execDiv_keeps (d s t : BitVec 5) (σ : State) : Keeps σ.mem (execDiv d s t σ) := by simp [execDiv]
theorem execDivu_keeps (d s t : BitVec 5) (σ : State) : Keeps σ.mem (execDivu d s t σ) := by simp [execDivu]
theorem execRem_keeps (d s t : BitVec 5) (σ : State) : Keeps σ.mem (execRem d s t σ) := by simp [execRem]
theorem execRemu_keeps (d s t : BitVec 5) (σ : State) : Keeps σ.mem (execRemu d s t σ) := by simp [execRemu]
theorem execMin_keeps (d s t : BitVec 5) (σ : State) : Keeps σ.mem (execMin d s t σ) := by simp [execMin]
theorem execMax_keeps (d s t : BitVec 5) (σ : State) : Keeps σ.mem (execMax d s t σ) := by simp [execMax]
theorem execMinu_keeps (d s t : BitVec 5) (σ : State) : Keeps σ.mem (execMinu d s t σ) := by simp [execMinu]
theorem execMaxu_keeps (d s t : BitVec 5) (σ : State) : Keeps σ.mem (execMaxu d s t σ) := by simp [execMaxu]
theorem execAdds_keeps (d s t : BitVec 5) (σ : State) : Keeps σ.mem (execAdds d s t σ) := by simp [execAdds]
theorem execSubs_keeps (d s t : BitVec 5) (σ : State) : Keeps σ.mem (execSubs d s t σ) := by simp [execSubs]
theorem execClz_keeps (d s : BitVec 5) (σ : State) : Keeps σ.mem (execClz d s σ) := by simp [execClz]
theorem execCtz_keeps (d s : BitVec 5) (σ : State) : Keeps σ.mem (execCtz d s σ) := by simp [execCtz]
theorem execPopc_keeps (d s : BitVec 5) (σ : State) : Keeps σ.mem (execPopc d s σ) := by simp [execPopc]
theorem execSext8_keeps (d s : BitVec 5) (σ : State) : Keeps σ.mem (execSext8 d s σ) := by simp [execSext8]
theorem execSext16_keeps (d s : BitVec 5) (σ : State) : Keeps σ.mem (execSext16 d s σ) := by simp [execSext16]
theorem execSext32_keeps (d s : BitVec 5) (σ : State) : Keeps σ.mem (execSext32 d s σ) := by simp [execSext32]
theorem execZext32_keeps (d s : BitVec 5) (σ : State) : Keeps σ.mem (execZext32 d s σ) := by simp [execZext32]
theorem execMovf_keeps (d : BitVec 5) (f : BitVec 3) (σ : State) : Keeps σ.mem (execMovf d f σ) := by simp [execMovf]
theorem execMovb_keeps (d : BitVec 5) (b : BitVec 3) (σ : State) : Keeps σ.mem (execMovb d b σ) := by simp [execMovb]
theorem execAddi_keeps (d s : BitVec 5) (i : BitVec 16) (σ : State) : Keeps σ.mem (execAddi d s i σ) := by simp [execAddi]
theorem execAndi_keeps (d s : BitVec 5) (i : BitVec 16) (σ : State) : Keeps σ.mem (execAndi d s i σ) := by simp [execAndi]
theorem execOri_keeps (d s : BitVec 5) (i : BitVec 16) (σ : State) : Keeps σ.mem (execOri d s i σ) := by simp [execOri]
theorem execXori_keeps (d s : BitVec 5) (i : BitVec 16) (σ : State) : Keeps σ.mem (execXori d s i σ) := by simp [execXori]
theorem execMuli_keeps (d s : BitVec 5) (i : BitVec 16) (σ : State) : Keeps σ.mem (execMuli d s i σ) := by simp [execMuli]
theorem execSlli_keeps (d s : BitVec 5) (h : BitVec 6) (σ : State) : Keeps σ.mem (execSlli d s h σ) := by simp [execSlli]
theorem execSrli_keeps (d s : BitVec 5) (h : BitVec 6) (σ : State) : Keeps σ.mem (execSrli d s h σ) := by simp [execSrli]
theorem execSrai_keeps (d s : BitVec 5) (h : BitVec 6) (σ : State) : Keeps σ.mem (execSrai d s h σ) := by simp [execSrai]
theorem execRori_keeps (d s : BitVec 5) (h : BitVec 6) (σ : State) : Keeps σ.mem (execRori d s h σ) := by simp [execRori]
theorem execLi_keeps (d : BitVec 5) (i : BitVec 16) (σ : State) : Keeps σ.mem (execLi d i σ) := by simp [execLi]
theorem execLih_keeps (d : BitVec 5) (i : BitVec 16) (σ : State) : Keeps σ.mem (execLih d i σ) := by simp [execLih]
theorem execCmp_keeps (f : BitVec 3) (c : BitVec 4) (s t : BitVec 5) (σ : State) : Keeps σ.mem (execCmp f c s t σ) := by simp [execCmp]
theorem execCmpi_keeps (f : BitVec 3) (c : BitVec 4) (s : BitVec 5) (i : BitVec 14) (σ : State) : Keeps σ.mem (execCmpi f c s i σ) := by simp [execCmpi]
theorem execFlagAnd_keeps (d a b : BitVec 3) (σ : State) : Keeps σ.mem (execFlagAnd d a b σ) := by simp [execFlagAnd]
theorem execFlagOr_keeps (d a b : BitVec 3) (σ : State) : Keeps σ.mem (execFlagOr d a b σ) := by simp [execFlagOr]
theorem execFlagXor_keeps (d a b : BitVec 3) (σ : State) : Keeps σ.mem (execFlagXor d a b σ) := by simp [execFlagXor]
theorem execFlagAndn_keeps (d a b : BitVec 3) (σ : State) : Keeps σ.mem (execFlagAndn d a b σ) := by simp [execFlagAndn]
theorem execFlagNot_keeps (d a : BitVec 3) (σ : State) : Keeps σ.mem (execFlagNot d a σ) := by simp [execFlagNot]
theorem execFlagSet_keeps (d : BitVec 3) (v : BitVec 1) (σ : State) : Keeps σ.mem (execFlagSet d v σ) := by simp [execFlagSet]
theorem execPrep_keeps (b : BitVec 3) (o : BitVec 23) (σ : State) : Keeps σ.mem (execPrep b o σ) := by simp [execPrep]
theorem execXfer_keeps (b f : BitVec 3) (σ : State) : Keeps σ.mem (execXfer b f σ) := by simp [execXfer]
theorem execXferN_keeps (b f : BitVec 3) (σ : State) : Keeps σ.mem (execXferN b f σ) := by simp [execXferN]
theorem execXferA_keeps (b : BitVec 3) (σ : State) : Keeps σ.mem (execXferA b σ) := by simp [execXferA]
theorem execXferL_keeps (b f : BitVec 3) (n a : BitVec 1) (t : BitVec 5) (σ : State) : Keeps σ.mem (execXferL b f n a t σ) := by simp [execXferL]
theorem execXferR_keeps (f : BitVec 3) (n a : BitVec 1) (t : BitVec 5) (σ : State) : Keeps σ.mem (execXferR f n a t σ) := by simp [execXferR]
theorem execForkVec_keeps (h : BitVec 1) (e : BitVec 18) (σ : State) : Keeps σ.mem (execForkVec h e σ) := by
  unfold execForkVec
  dsimp only
  (repeat' split) <;> simp
theorem execForkMat_keeps (h : BitVec 1) (k : BitVec 5) (e : BitVec 18) (σ : State) : Keeps σ.mem (execForkMat h k e σ) := by
  unfold execForkMat
  dsimp only
  (repeat' split) <;> simp
theorem execForkCopy_keeps (h : BitVec 1) (k : BitVec 5) (e : BitVec 18) (σ : State) : Keeps σ.mem (execForkCopy h k e σ) := by
  unfold execForkCopy
  dsimp only
  (repeat' split) <;> simp
theorem execMark_keeps (s : BitVec 5) (n : BitVec 1) (q : BitVec 13) (σ : State) : Keeps σ.mem (execMark s n q σ) := by
  unfold execMark
  (repeat' split) <;> simp
theorem execRdvSet_keeps (v : BitVec 3) (s : BitVec 5) (q : BitVec 13) (σ : State) : Keeps σ.mem (execRdvSet v s q σ) := by
  unfold execRdvSet
  (repeat' split) <;> simp
theorem execRdvWait_keeps (v : BitVec 3) (σ : State) : Keeps σ.mem (execRdvWait v σ) := by
  unfold execRdvWait
  split_ifs <;> simp
theorem execRdvTest_keeps (v f : BitVec 3) (σ : State) : Keeps σ.mem (execRdvTest v f σ) := by simp [execRdvTest]
theorem execQdrop_keeps (s : BitVec 5) (q : BitVec 13) (σ : State) : Keeps σ.mem (execQdrop s q σ) := by
  unfold execQdrop
  (repeat' split) <;> simp
theorem execTwaitAny_keeps (s : BitVec 5) (σ : State) : Keeps σ.mem (execTwaitAny s σ) := by
  unfold execTwaitAny
  dsimp only
  (repeat' split) <;> simp
theorem execTwaitAll_keeps (s : BitVec 5) (σ : State) : Keeps σ.mem (execTwaitAll s σ) := by
  unfold execTwaitAll
  dsimp only
  (repeat' split) <;> simp
theorem execTffr_keeps (d s : BitVec 5) (σ : State) : Keeps σ.mem (execTffr d s σ) := by
  unfold execTffr
  dsimp only
  (repeat' split) <;> simp
theorem execTcancel_keeps (s : BitVec 5) (σ : State) : Keeps σ.mem (execTcancel s σ) := by simp [execTcancel]
theorem execRset_keeps (c : BitVec 6) (s : BitVec 5) (σ : State) : Keeps σ.mem (execRset c s σ) := by
  unfold execRset
  split_ifs <;> simp
theorem execRclaim_keeps (c : BitVec 6) (d s : BitVec 5) (σ : State) : Keeps σ.mem (execRclaim c d s σ) := by
  unfold execRclaim
  dsimp only
  (repeat' split) <;> simp
theorem execRdone_keeps (c : BitVec 6) (s : BitVec 5) (σ : State) : Keeps σ.mem (execRdone c s σ) := by
  unfold execRdone
  dsimp only
  (repeat' split) <;> simp
theorem execRwaitf_keeps (c : BitVec 6) (s : BitVec 5) (σ : State) : Keeps σ.mem (execRwaitf c s σ) := by
  unfold execRwaitf
  dsimp only
  (repeat' split) <;> simp
theorem execRwaite_keeps (c : BitVec 6) (s : BitVec 5) (σ : State) : Keeps σ.mem (execRwaite c s σ) := by
  unfold execRwaite
  dsimp only
  (repeat' split) <;> simp
theorem execRadv_keeps (c : BitVec 6) (s : BitVec 5) (σ : State) : Keeps σ.mem (execRadv c s σ) := by
  unfold execRadv
  dsimp only
  (repeat' split) <;> simp
theorem execRget_keeps (c : BitVec 6) (d s : BitVec 5) (σ : State) : Keeps σ.mem (execRget c d s σ) := by
  unfold execRget
  dsimp only
  (repeat' split) <;> simp
theorem execFenceX_keeps (x y : BitVec 6) (_s : BitVec 3) (σ : State) : Keeps σ.mem (execFenceX x y _s σ) := by
  unfold execFenceX
  dsimp only
  (repeat' split) <;> simp
theorem execPhase_keeps (r : BitVec 5) (σ : State) : Keeps σ.mem (execPhase r σ) := by
  unfold execPhase
  dsimp only
  (repeat' split) <;> simp
theorem execWaitc_keeps (s t m : BitVec 5) (c : BitVec 3) (σ : State) : Keeps σ.mem (execWaitc s t m c σ) := by
  unfold execWaitc
  dsimp only
  split
  · simp
  split
  · simp
  split
  · simp
  split
  · simp
  · exact State.waitTask_keeps rfl fun τ k hτ => keeps_ite (by simp [hτ]) (by simp [hτ])
theorem execSignalSet_keeps (s t : BitVec 5) (σ : State) : Keeps σ.mem (execSignalSet s t σ) := by simp [execSignalSet]
theorem execSignalAdd_keeps (s t : BitVec 5) (σ : State) : Keeps σ.mem (execSignalAdd s t σ) := by simp [execSignalAdd]
theorem execLeaseW_keeps (d m q : BitVec 5) (σ : State) : Keeps σ.mem (execLeaseW d m q σ) := by simp [execLeaseW]
theorem execLeasecW_keeps (d m : BitVec 5) (c : BitVec 2) (σ : State) : Keeps σ.mem (execLeasecW d m c σ) := by simp [execLeasecW]
theorem execLeaseT_keeps (d q : BitVec 5) (σ : State) : Keeps σ.mem (execLeaseT d q σ) := by
  unfold execLeaseT
  dsimp only
  (repeat' split) <;> simp
theorem execLeasecT_keeps (d : BitVec 5) (c : BitVec 2) (σ : State) : Keeps σ.mem (execLeasecT d c σ) := by
  unfold execLeasecT
  dsimp only
  (repeat' split) <;> simp
theorem execUnlease_keeps (s : BitVec 5) (σ : State) : Keeps σ.mem (execUnlease s σ) := by
  unfold execUnlease
  dsimp only
  (repeat' split) <;> simp
theorem execSplit_keeps (p : BitVec 3) (σ : State) : Keeps σ.mem (execSplit p σ) := by
  unfold execSplit
  dsimp only
  (repeat' split) <;> simp
theorem execKick_keeps (s : BitVec 5) (σ : State) : Keeps σ.mem (execKick s σ) := by
  unfold execKick
  dsimp only
  (repeat' split) <;> simp
theorem execMbact_keeps (s t : BitVec 5) (σ : State) : Keeps σ.mem (execMbact s t σ) := by
  unfold execMbact
  dsimp only
  (repeat' split) <;> simp
theorem execMbobsW_keeps (s t m : BitVec 5) (σ : State) : Keeps σ.mem (execMbobsW s t m σ) := by
  unfold execMbobsW
  dsimp only
  split
  · simp
  split
  · simp
  · refine State.waitTask_keeps rfl fun τ k hτ => ?_
    split <;> simp [hτ]
theorem execMbobsT_keeps (d s t : BitVec 5) (σ : State) : Keeps σ.mem (execMbobsT d s t σ) := by
  unfold execMbobsT
  dsimp only
  (repeat' split) <;> simp
theorem execStrm_keeps (q : BitVec 4) (s : BitVec 5) (σ : State) : Keeps σ.mem (execStrm q s σ) :=
  State.recordAt_keeps rfl _ _ fun τ v hτ => keeps_ite (by simp [hτ]) (by simp [hτ])
theorem execTxset_keeps (t : BitVec 4) (s : BitVec 5) (p : BitVec 2) (σ : State) : Keeps σ.mem (execTxset t s p σ) := by simp [execTxset]
theorem execTxsetM_keeps (q : BitVec 4) (s : BitVec 5) (σ : State) : Keeps σ.mem (execTxsetM q s σ) :=
  State.recordAt_keeps rfl _ _ fun τ v hτ => by simp [hτ]
theorem execCvset_keeps (v : BitVec 3) (s : BitVec 5) (σ : State) : Keeps σ.mem (execCvset v s σ) :=
  State.recordAt_keeps rfl _ _ fun τ w hτ => keeps_ite (by simp [hτ]) (by simp [hτ])
theorem execDeadA_keeps (s : BitVec 5) (c : BitVec 9) (σ : State) : Keeps σ.mem (execDeadA s c σ) := by simp [execDeadA]
theorem execDeadW_keeps (s : BitVec 5) (c : BitVec 9) (σ : State) : Keeps σ.mem (execDeadW s c σ) := by simp [execDeadW]
theorem execYield_keeps (σ : State) : Keeps σ.mem (execYield σ) := by
  unfold execYield
  dsimp only
  (repeat' split) <;> simp
theorem execExit_keeps (σ : State) : Keeps σ.mem (execExit σ) := by
  unfold execExit
  split_ifs <;> simp
theorem execTrap_keeps (c : BitVec 16) (σ : State) : Keeps σ.mem (execTrap c σ) := by simp [execTrap]
theorem execTblRead_keeps (v : Word) (σ : State) : Keeps σ.mem (execTblRead v σ) := by
  unfold execTblRead
  dsimp only
  (repeat' split) <;> simp
theorem execTblWrite_keeps (v : Word) (σ : State) : Keeps σ.mem (execTblWrite v σ) := by
  unfold execTblWrite
  split_ifs <;> simp
theorem execReductionContribution_keeps (group win cidx off : Nat) (v : BitVec 32) (σ : State) : Keeps σ.mem (execReductionContribution group win cidx off v σ) := by simp [execReductionContribution]
theorem execRoundTimeout_keeps (group win off : Nat) (σ : State) : Keeps σ.mem (execRoundTimeout group win off σ) := by
  unfold execRoundTimeout
  dsimp only
  (repeat' split) <;> simp
theorem execMemberLost_keeps (group win cidx : Nat) (σ : State) : Keeps σ.mem (execMemberLost group win cidx σ) := by
  unfold execMemberLost
  dsimp only
  (repeat' split) <;> simp
theorem execRwSet_keeps (v : Word) (σ : State) : Keeps σ.mem (execRwSet v σ) := by
  unfold execRwSet
  split_ifs <;> simp
theorem execRwClear_keeps (v : Word) (σ : State) : Keeps σ.mem (execRwClear v σ) := by
  unfold execRwClear
  dsimp only
  (repeat' split) <;> simp
theorem execRwRepoint_keeps (v : Word) (σ : State) : Keeps σ.mem (execRwRepoint v σ) := by
  unfold execRwRepoint
  dsimp only
  (repeat' split) <;> simp
theorem execRemoteAccess_keeps (src exp off : Nat) (wr : Bool) (size : Nat) (v : Word) (σ : State) : Keeps σ.mem (execRemoteAccess src exp off wr size v σ) := by simp [execRemoteAccess]
theorem execRemoteAtom_keeps (src exp off op size : Nat) (v : Word) (cmp : Option Word) (σ : State) : Keeps σ.mem (execRemoteAtom src exp off op size v cmp σ) := by simp [execRemoteAtom]
theorem execCrwArrival_keeps (src exp : Nat) (msg : List Byte) (σ : State) : Keeps σ.mem (execCrwArrival src exp msg σ) := by
  unfold execCrwArrival
  dsimp only
  split
  · simp
  split
  · simp
  split
  next heq => simp [State.crwPlace_mem heq]
  · simp
theorem execFabricTimeout_keeps (id : Nat) (σ : State) : Keeps σ.mem (execFabricTimeout id σ) := by
  unfold execFabricTimeout
  (repeat' split) <;> simp
theorem execMovedReply_keeps (id : Nat) (σ : State) : Keeps σ.mem (execMovedReply id σ) := by
  unfold execMovedReply
  (repeat' split) <;> simp
theorem execLinkUp_keeps {port : Nat} (hp : port < 18) (versions : Word) (σ : State) : Keeps σ.mem (execLinkUp port versions σ) := by
  unfold execLinkUp
  rw [if_neg (by omega)]
  simp
theorem execAtom_keeps (d b t : BitVec 5) (o : BitVec 4) (w f : BitVec 1) (r : BitVec 2) (s : BitVec 3) (σ : State) : Keeps σ.mem (execAtom d b t o w f r s σ) := by
  unfold execAtom
  dsimp only
  (repeat' split) <;> simp
theorem execAcas_keeps (d b t : BitVec 5) (w f : BitVec 1) (r : BitVec 2) (s : BitVec 3) (σ : State) : Keeps σ.mem (execAcas d b t w f r s σ) := by
  unfold execAcas
  dsimp only
  (repeat' split) <;> simp
theorem execMkdep_keeps (g : BitVec 2) (b : BitVec 5) (σ : State) : Keeps σ.mem (execMkdep g b σ) := by
  unfold execMkdep
  refine keeps_ite (by simp) (State.mkBegin_keeps rfl _ _ fun τ x hτ => ?_)
  dsimp only
  split
  · simp [hτ]
  · split
    · simp [hτ]
    · simp [hτ]
theorem execMkrdT_keeps (g : BitVec 2) (b : BitVec 5) (m : BitVec 8) (f : BitVec 3) (σ : State) : Keeps σ.mem (execMkrdT g b m f σ) := by simp [execMkrdT]
theorem execMktakeT_keeps (g : BitVec 2) (b : BitVec 5) (m : BitVec 8) (f : BitVec 3) (σ : State) : Keeps σ.mem (execMktakeT g b m f σ) := by simp [execMktakeT]
theorem execMkrdW_keeps (b : BitVec 5) (m : BitVec 8) (r : BitVec 5) (σ : State) : Keeps σ.mem (execMkrdW b m r σ) := by simp [execMkrdW]
theorem execMktakeW_keeps (b : BitVec 5) (m : BitVec 8) (r : BitVec 5) (σ : State) : Keeps σ.mem (execMktakeW b m r σ) := by simp [execMktakeW]
theorem execMkFullRetry_keeps (core slot : Nat) (σ : State) : Keeps σ.mem (execMkFullRetry core slot σ) := by
  unfold execMkFullRetry
  dsimp only
  (repeat' split) <;> simp
theorem execNodeKill_keeps (n : Nat) (σ : State) : Keeps σ.mem (execNodeKill n σ) := by simp [execNodeKill]
theorem execPostedAbort_keeps (core slot : Nat) (σ : State) : Keeps σ.mem (execPostedAbort core slot σ) := by
  unfold execPostedAbort
  dsimp only
  (repeat' split) <;> simp
theorem execTaskDispatch_keeps {core slot : Nat} (hc : core < 32) (hs : slot < 4) (σ : State) : Keeps σ.mem (execTaskDispatch core slot σ) := by
  unfold execTaskDispatch
  rw [if_neg (by omega)]
  split
  · simp
  split
  · split <;> simp
  · split
    · simp
    · split <;> simp
theorem execStealAck_keeps (t : Nat) (σ : State) : Keeps σ.mem (execStealAck t σ) := by
  unfold execStealAck
  dsimp only
  (repeat' split) <;> simp
theorem execStealWithdraw_keeps (t : Nat) (σ : State) : Keeps σ.mem (execStealWithdraw t σ) := by simp [execStealWithdraw]
theorem execStealTimeout_keeps (t : Nat) (σ : State) : Keeps σ.mem (execStealTimeout t σ) := by
  unfold execStealTimeout
  dsimp only
  (repeat' split) <;> simp
theorem execLotComplete_keeps (core slot : Nat) (σ : State) : Keeps σ.mem (execLotComplete core slot σ) := by
  unfold execLotComplete
  dsimp only
  (repeat' split) <;> simp
theorem execStealRecovery_keeps (core slot : Nat) (σ : State) : Keeps σ.mem (execStealRecovery core slot σ) := by
  unfold execStealRecovery
  dsimp only
  (repeat' split) <;> simp
theorem execContinuationEnqueue_keeps (t : Nat) (σ : State) : Keeps σ.mem (execContinuationEnqueue t σ) := by
  unfold execContinuationEnqueue
  dsimp only
  refine keeps_ite (keeps_ite (by simp) (keeps_ite (by simp) ?_)) (by simp)
  split
  · simp
  next heq =>
    have hτ := State.areaAtLast_mem heq
    exact keeps_ite (by simp [hτ]) (keeps_ite (by simp [hτ]) (keeps_ite (by simp [hτ]) (by simp [hτ])))
theorem execPostedFault_keeps (core slot : Nat) (σ : State) : Keeps σ.mem (execPostedFault core slot σ) := by
  unfold execPostedFault
  dsimp only
  (repeat' split) <;> simp
theorem execStallLimit_keeps (core slot : Nat) (σ : State) : Keeps σ.mem (execStallLimit core slot σ) := by
  unfold execStallLimit
  dsimp only
  (repeat' split) <;> simp
theorem execYieldExpiry_keeps (core slot : Nat) (σ : State) : Keeps σ.mem (execYieldExpiry core slot σ) := by
  unfold execYieldExpiry
  dsimp only
  (repeat' split) <;> simp
theorem execEret_keeps (s t : BitVec 5) (σ : State) : Keeps σ.mem (execEret s t σ) := by
  unfold execEret
  dsimp only
  (repeat' split) <;> simp
theorem execCtxsv_keeps (d s t : BitVec 5) (σ : State) : Keeps σ.mem (execCtxsv d s t σ) := by
  unfold execCtxsv
  refine State.privileged_keeps rfl (keeps_ite (by simp) ?_)
  split
  · simp
  · extract_lets c vf held fr σ₁ tk σ₂ tk₂ σ₃ nd σ₄
    have h₂ : σ₂.mem = σ.mem := by
      unfold σ₂
      split <;> simp [σ₁]
    have h₄ : σ₄.mem = σ.mem := by
      unfold σ₄
      split <;> simp [σ₃, h₂]
    split_ifs
    · simp
    · exact State.interlock_keeps (by simp)
    · exact State.retireS_keeps (by simp [h₄]) _ _
theorem execCtxld_keeps (d s t : BitVec 5) (σ : State) : Keeps σ.mem (execCtxld d s t σ) := by
  unfold execCtxld
  dsimp only
  (repeat' split) <;> simp
theorem execAccspill_keeps (d s t : BitVec 5) (σ : State) : Keeps σ.mem (execAccspill d s t σ) := by
  unfold execAccspill
  refine State.privileged_keeps rfl ?_
  extract_lets v a slab code load old done
  have hd : ∀ τ : State, τ.mem = σ.mem → Keeps σ.mem (done τ) := fun τ hτ => by
    refine State.retireS_keeps ?_ _ _
    split <;> simp [hτ]
  refine keeps_ite (by simp) (keeps_ite (by simp) (keeps_ite (hd _ ?_) ?_))
  · split <;> simp
  · split
    · simp
    · refine keeps_ite (keeps_ite (hd _ (by simp)) (hd _ (by simp))) (keeps_ite ?_ (hd _ (by simp)))
      split
      · simp
      · exact hd _ (by simp)
theorem execAccForeign_keeps (core slab slot : Nat) (σ : State) : Keeps σ.mem (execAccForeign core slab slot σ) := by
  unfold execAccForeign
  split_ifs <;> simp
theorem execAccrel_keeps (v : Word) (σ : State) : Keeps σ.mem (execAccrel v σ) := by
  unfold execAccrel
  dsimp only
  (repeat' split) <;> simp
theorem execFaultres_keeps (vf : Nat) (v : Word) (σ : State) : Keeps σ.mem (execFaultres vf v σ) := by
  unfold execFaultres
  dsimp only
  (repeat' split) <;> simp
theorem execKeyld_keeps (d s t : BitVec 5) (σ : State) : Keeps σ.mem (execKeyld d s t σ) := by
  unfold execKeyld
  dsimp only
  (repeat' split) <;> simp
theorem execWdog_keeps (s : BitVec 5) (σ : State) : Keeps σ.mem (execWdog s σ) := by
  unfold execWdog
  refine State.privileged_keeps rfl (keeps_ite (by simp) (State.retire_keeps ?_ _))
  split <;> simp
theorem execWatchdog_keeps {agent : Nat} (ha : agent < 34) (σ : State) : Keeps σ.mem (execWatchdog agent σ) := by
  unfold execWatchdog
  dsimp only
  split
  · simp
  split
  · simp
  · rw [if_pos (by omega)]
    simp
theorem execMarkerRetire_keeps (core e : Nat) (σ : State) : Keeps σ.mem (execMarkerRetire core e σ) := by
  unfold execMarkerRetire
  dsimp only
  (repeat' split) <;> simp
theorem execEngineCommandStart_keeps (core e : Nat) (σ : State) : Keeps σ.mem (execEngineCommandStart core e σ) := by
  unfold execEngineCommandStart
  dsimp only
  (repeat' split) <;> simp
theorem execProgramRetire_keeps (core e : Nat) (σ : State) : Keeps σ.mem (execProgramRetire core e σ) := by
  unfold execProgramRetire
  split_ifs <;> simp
theorem execVadd_keeps (d a b : BitVec 7) (x y : BitVec 1) (g : BitVec 3) (σ : State) : Keeps σ.mem (execVadd d a b x y g σ) := by simp [execVadd]
theorem execVsub_keeps (d a b : BitVec 7) (x y : BitVec 1) (g : BitVec 3) (σ : State) : Keeps σ.mem (execVsub d a b x y g σ) := by simp [execVsub]
theorem execVmul_keeps (d a b : BitVec 7) (x y : BitVec 1) (g : BitVec 3) (σ : State) : Keeps σ.mem (execVmul d a b x y g σ) := by simp [execVmul]
theorem execVfma_keeps (d a b : BitVec 7) (x y : BitVec 1) (g : BitVec 3) (σ : State) : Keeps σ.mem (execVfma d a b x y g σ) := by simp [execVfma]
theorem execVadds_keeps (d a b : BitVec 7) (x y : BitVec 1) (g : BitVec 3) (σ : State) : Keeps σ.mem (execVadds d a b x y g σ) := by simp [execVadds]
theorem execVsubs_keeps (d a b : BitVec 7) (x y : BitVec 1) (g : BitVec 3) (σ : State) : Keeps σ.mem (execVsubs d a b x y g σ) := by simp [execVsubs]
theorem execVmin_keeps (d a b : BitVec 7) (x y : BitVec 1) (g : BitVec 3) (σ : State) : Keeps σ.mem (execVmin d a b x y g σ) := by simp [execVmin]
theorem execVmax_keeps (d a b : BitVec 7) (x y : BitVec 1) (g : BitVec 3) (σ : State) : Keeps σ.mem (execVmax d a b x y g σ) := by simp [execVmax]
theorem execVmulh_keeps (d a b : BitVec 7) (x y : BitVec 1) (g : BitVec 3) (σ : State) : Keeps σ.mem (execVmulh d a b x y g σ) := by simp [execVmulh]
theorem execVand_keeps (d a b : BitVec 7) (x y : BitVec 1) (g : BitVec 3) (σ : State) : Keeps σ.mem (execVand d a b x y g σ) := by simp [execVand]
theorem execVor_keeps (d a b : BitVec 7) (x y : BitVec 1) (g : BitVec 3) (σ : State) : Keeps σ.mem (execVor d a b x y g σ) := by simp [execVor]
theorem execVxor_keeps (d a b : BitVec 7) (x y : BitVec 1) (g : BitVec 3) (σ : State) : Keeps σ.mem (execVxor d a b x y g σ) := by simp [execVxor]
theorem execVshl_keeps (d a b : BitVec 7) (x y : BitVec 1) (g : BitVec 3) (σ : State) : Keeps σ.mem (execVshl d a b x y g σ) := by simp [execVshl]
theorem execVshr_keeps (d a b : BitVec 7) (x y : BitVec 1) (g : BitVec 3) (σ : State) : Keeps σ.mem (execVshr d a b x y g σ) := by simp [execVshr]
theorem execVhash_keeps (d a b : BitVec 7) (x y : BitVec 1) (g : BitVec 3) (σ : State) : Keeps σ.mem (execVhash d a b x y g σ) := by simp [execVhash]
theorem execVceq_keeps (d : BitVec 3) (a b : BitVec 7) (x y : BitVec 1) (g : BitVec 3) (σ : State) : Keeps σ.mem (execVceq d a b x y g σ) := by simp [execVceq]
theorem execVcne_keeps (d : BitVec 3) (a b : BitVec 7) (x y : BitVec 1) (g : BitVec 3) (σ : State) : Keeps σ.mem (execVcne d a b x y g σ) := by simp [execVcne]
theorem execVclt_keeps (d : BitVec 3) (a b : BitVec 7) (x y : BitVec 1) (g : BitVec 3) (σ : State) : Keeps σ.mem (execVclt d a b x y g σ) := by simp [execVclt]
theorem execVcle_keeps (d : BitVec 3) (a b : BitVec 7) (x y : BitVec 1) (g : BitVec 3) (σ : State) : Keeps σ.mem (execVcle d a b x y g σ) := by simp [execVcle]
theorem execVcgt_keeps (d : BitVec 3) (a b : BitVec 7) (x y : BitVec 1) (g : BitVec 3) (σ : State) : Keeps σ.mem (execVcgt d a b x y g σ) := by simp [execVcgt]
theorem execVcge_keeps (d : BitVec 3) (a b : BitVec 7) (x y : BitVec 1) (g : BitVec 3) (σ : State) : Keeps σ.mem (execVcge d a b x y g σ) := by simp [execVcge]
theorem execVsel_keeps (d a b : BitVec 7) (x y : BitVec 1) (g : BitVec 3) (σ : State) : Keeps σ.mem (execVsel d a b x y g σ) := by simp [execVsel]
theorem execVmov_keeps (d a : BitVec 7) (x : BitVec 1) (g : BitVec 3) (σ : State) : Keeps σ.mem (execVmov d a x g σ) := by simp [execVmov]
theorem execVaddi_keeps (d a : BitVec 7) (i : BitVec 9) (g : BitVec 3) (σ : State) : Keeps σ.mem (execVaddi d a i g σ) := by simp [execVaddi]
theorem execVmuli_keeps (d a : BitVec 7) (i : BitVec 9) (g : BitVec 3) (σ : State) : Keeps σ.mem (execVmuli d a i g σ) := by simp [execVmuli]
theorem execVandi_keeps (d a : BitVec 7) (i : BitVec 9) (g : BitVec 3) (σ : State) : Keeps σ.mem (execVandi d a i g σ) := by simp [execVandi]
theorem execVori_keeps (d a : BitVec 7) (i : BitVec 9) (g : BitVec 3) (σ : State) : Keeps σ.mem (execVori d a i g σ) := by simp [execVori]
theorem execVxori_keeps (d a : BitVec 7) (i : BitVec 9) (g : BitVec 3) (σ : State) : Keeps σ.mem (execVxori d a i g σ) := by simp [execVxori]
theorem execVshli_keeps (d a : BitVec 7) (i : BitVec 9) (g : BitVec 3) (σ : State) : Keeps σ.mem (execVshli d a i g σ) := by simp [execVshli]
theorem execVshri_keeps (d a : BitVec 7) (i : BitVec 9) (g : BitVec 3) (σ : State) : Keeps σ.mem (execVshri d a i g σ) := by simp [execVshri]
theorem execVsplat_keeps (d : BitVec 7) (i : BitVec 9) (g : BitVec 3) (σ : State) : Keeps σ.mem (execVsplat d i g σ) := by simp [execVsplat]
theorem execVmini_keeps (d a : BitVec 7) (i : BitVec 9) (g : BitVec 3) (σ : State) : Keeps σ.mem (execVmini d a i g σ) := by simp [execVmini]
theorem execVmaxi_keeps (d a : BitVec 7) (i : BitVec 9) (g : BitVec 3) (σ : State) : Keeps σ.mem (execVmaxi d a i g σ) := by simp [execVmaxi]
theorem execExp2_keeps (d a : BitVec 7) (x : BitVec 1) (g : BitVec 3) (σ : State) : Keeps σ.mem (execExp2 d a x g σ) := by simp [execExp2]
theorem execLog2_keeps (d a : BitVec 7) (x : BitVec 1) (g : BitVec 3) (σ : State) : Keeps σ.mem (execLog2 d a x g σ) := by simp [execLog2]
theorem execRcp_keeps (d a : BitVec 7) (x : BitVec 1) (g : BitVec 3) (σ : State) : Keeps σ.mem (execRcp d a x g σ) := by simp [execRcp]
theorem execRsq_keeps (d a : BitVec 7) (x : BitVec 1) (g : BitVec 3) (σ : State) : Keeps σ.mem (execRsq d a x g σ) := by simp [execRsq]
theorem execVabs_keeps (d a : BitVec 7) (x : BitVec 1) (g : BitVec 3) (σ : State) : Keeps σ.mem (execVabs d a x g σ) := by simp [execVabs]
theorem execVneg_keeps (d a : BitVec 7) (x : BitVec 1) (g : BitVec 3) (σ : State) : Keeps σ.mem (execVneg d a x g σ) := by simp [execVneg]
theorem execVclz_keeps (d a : BitVec 7) (x : BitVec 1) (g : BitVec 3) (σ : State) : Keeps σ.mem (execVclz d a x g σ) := by simp [execVclz]
theorem execVpopc_keeps (d a : BitVec 7) (x : BitVec 1) (g : BitVec 3) (σ : State) : Keeps σ.mem (execVpopc d a x g σ) := by simp [execVpopc]
theorem execVcvt_keeps (d a : BitVec 7) (m : BitVec 3) (t : BitVec 4) (x : BitVec 1) (g : BitVec 3) (σ : State) : Keeps σ.mem (execVcvt d a m t x g σ) := by simp [execVcvt]
theorem execVqnt_keeps (d a : BitVec 7) (m : BitVec 3) (t : BitVec 2) (x : BitVec 1) (g : BitVec 3) (σ : State) : Keeps σ.mem (execVqnt d a m t x g σ) := by simp [execVqnt]
theorem execVdq_keeps (d a b : BitVec 7) (x y : BitVec 1) (g : BitVec 3) (σ : State) : Keeps σ.mem (execVdq d a b x y g σ) := by simp [execVdq]
theorem execVlda_keeps (d : BitVec 7) (a : BitVec 6) (o : BitVec 7) (g : BitVec 3) (σ : State) : Keeps σ.mem (execVlda d a o g σ) := by
  unfold execVlda
  dsimp only
  (repeat' split) <;> simp
theorem execVsta_keeps (d : BitVec 6) (a o : BitVec 7) (x : BitVec 1) (g : BitVec 3) (σ : State) : Keeps σ.mem (execVsta d a o x g σ) := by
  unfold execVsta
  refine State.vecWord_keeps rfl _ _ _ fun cs => ?_
  split
  · simp
  · simp
theorem execVldc_keeps (d : BitVec 7) (a : BitVec 6) (o : BitVec 7) (g : BitVec 3) (σ : State) : Keeps σ.mem (execVldc d a o g σ) := by simp [execVldc]
theorem execVldcNowait_keeps (d : BitVec 7) (a : BitVec 6) (o : BitVec 7) (g : BitVec 3) (σ : State) : Keeps σ.mem (execVldcNowait d a o g σ) := by simp [execVldcNowait]
theorem execVstc_keeps (d : BitVec 6) (a o : BitVec 7) (x : BitVec 1) (g : BitVec 3) (σ : State) : Keeps σ.mem (execVstc d a o x g σ) := by
  unfold execVstc
  refine State.vecWord_keeps rfl _ _ _ fun cs => ?_
  split
  · simp
  · dsimp only
    split
    next heq => simp [State.touchRun_mem_of_eq heq]
    next heq => exact keeps_ite (by simp [State.touchRun_mem_of_eq heq]) (by simp [State.touchRun_mem_of_eq heq])
theorem execVgath_keeps (d : BitVec 7) (a b : BitVec 6) (g : BitVec 3) (σ : State) : Keeps σ.mem (execVgath d a b g σ) := by
  unfold execVgath
  refine State.vecWord_keeps rfl _ _ _ fun cs => ?_
  split
  · simp
  dsimp only
  split
  · simp
  split
  · simp
  next heq => exact keeps_of_mem (State.vRemote_leaves heq)
  next heq =>
    have hτ := State.vRemote_leaves heq
    exact State.vecRetire_keeps ((State.vRead_mem _ _ _).trans hτ) ..
theorem execVscat_keeps (d : BitVec 6) (a : BitVec 7) (b : BitVec 6) (x : BitVec 1) (g : BitVec 3) (σ : State) : Keeps σ.mem (execVscat d a b x g σ) := by
  unfold execVscat
  refine State.vecWord_keeps rfl _ _ _ fun cs => ?_
  (repeat' split) <;> simp
theorem execVatom_keeps (d a : BitVec 6) (o : BitVec 4) (f : BitVec 1) (g : BitVec 3) (σ : State) : Keeps σ.mem (execVatom d a o f g σ) := by
  unfold execVatom
  refine State.vecWord_keeps rfl _ _ _ fun cs => ?_
  dsimp only
  split
  · simp
  split
  · split
    · simp
    split
    · simp
    next heq => exact keeps_of_mem (State.vRemote_leaves heq)
    next heq =>
      have hτ := State.vRemote_leaves heq
      exact State.vecRetire_keeps ((State.farLanes_mem ..).trans hτ) ..
  · split
    · simp
    · split
      · simp
      next heq => simp [State.nearLanes_mem heq]
theorem execVperm_keeps (d a b : BitVec 7) (x y : BitVec 1) (g : BitVec 3) (σ : State) : Keeps σ.mem (execVperm d a b x y g σ) := by simp [execVperm]
theorem execVshuf_keeps (d : BitVec 6) (a : BitVec 7) (k : BitVec 3) (h : BitVec 6) (g : BitVec 3) (σ : State) : Keeps σ.mem (execVshuf d a k h g σ) := by simp [execVshuf]
theorem execVred_keeps (d a : BitVec 7) (p : BitVec 3) (x : BitVec 1) (g : BitVec 3) (σ : State) : Keeps σ.mem (execVred d a p x g σ) := by simp [execVred]
theorem execVscan_keeps (d a : BitVec 7) (p : BitVec 3) (x : BitVec 1) (g : BitVec 3) (σ : State) : Keeps σ.mem (execVscan d a p x g σ) := by simp [execVscan]
theorem execVplog_keeps (d a o b g : BitVec 3) (σ : State) : Keeps σ.mem (execVplog d a o b g σ) := by simp [execVplog]
theorem execVhalt_keeps (σ : State) : Keeps σ.mem (execVhalt σ) := by
  unfold execVhalt
  dsimp only
  (repeat' split) <;> simp
theorem execVfl_keeps (f l : BitVec 1) (v : BitVec 3) (σ : State) : Keeps σ.mem (execVfl f l v σ) := by
  unfold execVfl
  split_ifs <;> simp
theorem execWld_keeps (f l : BitVec 1) (v : BitVec 3) (b : BitVec 4) (σ : State) : Keeps σ.mem (execWld f l v b σ) := by simp [execWld]
theorem execWeightLoadComplete_keeps (core seq : Nat) (σ : State) : Keeps σ.mem (execWeightLoadComplete core seq σ) := by
  unfold execWeightLoadComplete
  dsimp only
  (repeat' split) <;> simp
theorem execMma_keeps (f l h : BitVec 1) (v : BitVec 3) (a b : BitVec 4) (s : BitVec 11) (m : BitVec 2) (σ : State) : Keeps σ.mem (execMma f l h v a b s m σ) := by
  unfold execMma
  split_ifs <;> simp
theorem execConv_keeps (f l h : BitVec 1) (v c : BitVec 3) (a b : BitVec 4) (m : BitVec 2) (k : BitVec 8) (σ : State) : Keeps σ.mem (execConv f l h v c a b m k σ) := by
  unfold execConv
  refine State.matWord_keeps rfl _ _ _ _ _ (keeps_ite (by simp) ?_)
  exact State.mTouch_keeps rfl _ fun τ hτ => State.selectThen_keeps hτ _ _ fun ρ hρ => by simp [hρ]
theorem execPassRetire_keeps (core seq : Nat) (σ : State) : Keeps σ.mem (execPassRetire core seq σ) := by
  unfold execPassRetire
  dsimp only
  (repeat' split) <;> simp
theorem execAccz_keeps (f l : BitVec 1) (v : BitVec 3) (n : BitVec 8) (s : BitVec 11) (σ : State) : Keeps σ.mem (execAccz f l v n s σ) :=
  State.matWord_keeps rfl _ _ _ _ _ (keeps_ite (by simp) (State.mTouch_keeps rfl _ fun τ hτ => by simp [hτ]))
theorem execAccld_keeps (f l : BitVec 1) (v : BitVec 3) (q : BitVec 4) (s : BitVec 11) (σ : State) : Keeps σ.mem (execAccld f l v q s σ) :=
  State.matWord_keeps rfl _ _ _ _ _ (keeps_ite (by simp) (State.mTouch_keeps rfl _ fun τ hτ => by simp [hτ]))
theorem execAccmv_keeps (f l : BitVec 1) (v : BitVec 3) (q : BitVec 4) (c : BitVec 1) (s : BitVec 11) (σ : State) : Keeps σ.mem (execAccmv f l v q c s σ) := by
  refine State.matWord_keeps rfl _ _ _ _ _ (keeps_ite (by simp) (State.mTouch_keeps rfl _ fun τ hτ => ?_))
  extract_lets li k out ρ
  have hρ : ρ.mem = σ.mem := by
    unfold ρ
    split <;> simp [hτ]
  split
  next heq => simp [State.pushSlot_mem heq, hρ]
  · simp [hρ]
theorem execSwait_keeps (f l : BitVec 1) (v : BitVec 3) (q : BitVec 4) (n : BitVec 13) (σ : State) : Keeps σ.mem (execSwait f l v q n σ) := by
  unfold execSwait
  dsimp only
  (repeat' split) <;> simp
theorem execSadv_keeps (f l : BitVec 1) (v : BitVec 3) (q : BitVec 4) (n : BitVec 13) (σ : State) : Keeps σ.mem (execSadv f l v q n σ) := by
  unfold execSadv
  split_ifs <;> simp
theorem execSrst_keeps (f l : BitVec 1) (v : BitVec 3) (q : BitVec 4) (σ : State) : Keeps σ.mem (execSrst f l v q σ) := by simp [execSrst]
theorem execLinkcfg_keeps (f l : BitVec 1) (v k : BitVec 3) (c : BitVec 1) (m : BitVec 3) (q : BitVec 4) (σ : State) : Keeps σ.mem (execLinkcfg f l v k c m q σ) := by
  unfold execLinkcfg
  dsimp only
  (repeat' split) <;> simp
theorem execSmark_keeps (f l : BitVec 1) (v : BitVec 3) (n : BitVec 1) (m : BitVec 16) (σ : State) : Keeps σ.mem (execSmark f l v n m σ) := by
  unfold execSmark
  split_ifs <;> simp
theorem execMatNop_keeps (f l : BitVec 1) (v : BitVec 3) (σ : State) : Keeps σ.mem (execMatNop f l v σ) := by simp [execMatNop]
theorem execMatHalt_keeps (σ : State) : Keeps σ.mem (execMatHalt σ) := by
  unfold execMatHalt
  dsimp only
  (repeat' split) <;> simp
theorem execCld_keeps (f l e t : BitVec 1) (x : BitVec 6) (v : BitVec 3) (g b : BitVec 4) (σ : State) : Keeps σ.mem (execCld f l e t x v g b σ) := by simp [execCld]
theorem execCldRing_keeps (f l e t : BitVec 1) (x : BitVec 6) (v : BitVec 3) (g : BitVec 4) (c : BitVec 6) (σ : State) : Keeps σ.mem (execCldRing f l e t x v g c σ) := by simp [execCldRing]
theorem execCst_keeps (f l e t : BitVec 1) (x : BitVec 6) (v : BitVec 3) (g b : BitVec 4) (σ : State) : Keeps σ.mem (execCst f l e t x v g b σ) := by simp [execCst]
theorem execCstRing_keeps (f l e t : BitVec 1) (x : BitVec 6) (v : BitVec 3) (g : BitVec 4) (c : BitVec 6) (σ : State) : Keeps σ.mem (execCstRing f l e t x v g c σ) := by simp [execCstRing]
theorem execCstq_keeps (e t : BitVec 1) (x : BitVec 6) (g b : BitVec 4) (m : BitVec 3) (y : BitVec 2) (σ : State) : Keeps σ.mem (execCstq e t x g b m y σ) := by simp [execCstq]
theorem execCmc_keeps (e t : BitVec 1) (x : BitVec 6) (a b : BitVec 4) (k : BitVec 8) (σ : State) : Keeps σ.mem (execCmc e t x a b k σ) := by simp [execCmc]
theorem execCga_keeps (e t : BitVec 1) (x : BitVec 6) (g i b : BitVec 4) (σ : State) : Keeps σ.mem (execCga e t x g i b σ) := by simp [execCga]
theorem execCsc_keeps (e t : BitVec 1) (x : BitVec 6) (g i b : BitVec 4) (σ : State) : Keeps σ.mem (execCsc e t x g i b σ) := by simp [execCsc]
theorem execCrw_keeps (e t : BitVec 1) (x : BitVec 6) (a b : BitVec 4) (σ : State) : Keeps σ.mem (execCrw e t x a b σ) := by simp [execCrw]
theorem execCred_keeps (e t : BitVec 1) (x : BitVec 6) (a b : BitVec 4) (σ : State) : Keeps σ.mem (execCred e t x a b σ) := by simp [execCred]
theorem execCldm_keeps (e t : BitVec 1) (x : BitVec 6) (g : BitVec 4) (c : BitVec 6) (k : BitVec 2) (follow : BitVec 32) (σ : State) : Keeps σ.mem (execCldm e t x g c k follow σ) := by simp [execCldm]
theorem execCwt_keeps (f l e : BitVec 1) (v : BitVec 3) (c : BitVec 6) (n : BitVec 8) (σ : State) : Keeps σ.mem (execCwt f l e v c n σ) := by
  unfold execCwt
  dsimp only
  (repeat' split) <;> simp
theorem execCadv_keeps (f l e : BitVec 1) (v : BitVec 3) (c : BitVec 6) (n : BitVec 8) (σ : State) : Keeps σ.mem (execCadv f l e v c n σ) := by
  unfold execCadv
  dsimp only
  (repeat' split) <;> simp
theorem execCmark_keeps (e n : BitVec 1) (m : BitVec 16) (σ : State) : Keeps σ.mem (execCmark e n m σ) := by
  unfold execCmark
  split_ifs <;> simp
theorem execCnop_keeps (f l e : BitVec 1) (v : BitVec 3) (σ : State) : Keeps σ.mem (execCnop f l e v σ) := by simp [execCnop]
theorem execChalt_keeps (σ : State) : Keeps σ.mem (execChalt σ) := by simp [execChalt]
theorem execChaltS_keeps (σ : State) : Keeps σ.mem (execChaltS σ) := by
  unfold execChaltS
  split_ifs <;> simp
theorem execCopyStepComplete_keeps (core n idx : Nat) (σ : State) : Keeps σ.mem (execCopyStepComplete core n idx σ) := by
  unfold execCopyStepComplete
  dsimp only
  split
  · simp
  next s _ =>
    have hm := (σ.asEngine core (n + 8)).moveStep_leaves (σ.asEngine core (n + 8)).eSlot s
    rw [State.asEngine_mem] at hm
    split <;> rename_i heq <;> rw [heq] at hm
    · exact keeps_of_mem hm
    · simp
    · split
      · exact keeps_of_mem ((State.followOn_mem ..).trans hm)
      · exact keeps_of_mem ((State.endStep_mem ..).trans hm)
theorem execCldmFollowOn_keeps (core n idx : Nat) (σ : State) : Keeps σ.mem (execCldmFollowOn core n idx σ) := by
  unfold execCldmFollowOn
  dsimp only
  (repeat' split) <;> simp
theorem execMbRecv_keeps (s d : BitVec 5) (σ : State) : Keeps σ.mem (execMbRecv s d σ) := by
  refine State.rinkWord_keeps rfl fun τ vf ep e hτ => ?_
  dsimp only
  split
  · exact hτ
  split <;> rename_i heq <;> have hρ := ((State.rvAccess_leaves ..).of_eq heq).trans hτ
  · exact hρ
  · exact hρ
  · split
    · exact (State.endEpisode_mem ..).trans hρ
    · split
      · exact hρ
      · simp [RkOut.Leaves, hρ]
theorem execMbSend_keeps (t s : BitVec 5) (σ : State) : Keeps σ.mem (execMbSend t s σ) := by
  refine State.rinkWord_keeps rfl fun τ vf ep e hτ => ?_
  refine RkOut.Leaves.ite hτ ?_
  have hr : RvOut.Leaves σ.mem (if (bit (e.hart.xr t.toNat).toNat 15) = true then RvOut.ok (e.hart.xr s.toNat).toNat τ
      else τ.rvRead vf .read (e.hart.xr s.toNat).toNat (bits (e.hart.xr t.toNat).toNat 8 0)) :=
    .ite hτ (hτ ▸ τ.rvRead_leaves ..)
  split <;> rename_i heq <;> have hρ := hr.of_eq heq
  · exact hρ
  · exact hρ
  · refine RkOut.Leaves.ite ((State.rinkFlush_mem ..).trans hρ) ?_
    simpa [RkOut.Leaves] using show _ = _ from hρ
theorem execMbPoll_keeps (d : BitVec 5) (σ : State) : Keeps σ.mem (execMbPoll d σ) :=
  State.rinkWord_keeps rfl fun _ _ _ _ hτ => hτ
theorem execEpStep_keeps (σ : State) : Keeps σ.mem (execEpStep σ) := State.rinkWord_keeps rfl fun _ _ _ _ hτ => hτ
theorem execEpExit_keeps (s : BitVec 5) (σ : State) : Keeps σ.mem (execEpExit s σ) :=
  State.rinkWord_keeps rfl fun _ _ _ _ hτ => (State.endEpisode_mem ..).trans hτ
theorem execRv64gc_keeps (w : BitVec 32) (σ : State) : Keeps σ.mem (execRv64gc w σ) := by
  refine keeps_ite (State.monitorWord_keeps rfl fun τ vf k hτ => hτ ▸ rvExec_leaves ..) (State.rinkWord_keeps rfl fun τ vf ep e hτ => ?_)
  split <;> rename_i heq <;> exact ((rvExec_leaves ..).of_eq heq).trans hτ
theorem execStepBudget_keeps (vf ep : Nat) (σ : State) : Keeps σ.mem (execStepBudget vf ep σ) := by
  unfold execStepBudget
  dsimp only
  (repeat' split) <;> simp
theorem execQuantumExpiry_keeps (rink : Nat) (σ : State) : Keeps σ.mem (execQuantumExpiry rink σ) := by
  unfold execQuantumExpiry
  (repeat' split) <;> simp
theorem execEptbaseWrite_keeps (vf : Nat) (value : Word) (σ : State) : Keeps σ.mem (execEptbaseWrite vf value σ) := by simp [execEptbaseWrite]
theorem execEptcntWrite_keeps (vf : Nat) (value : Word) (σ : State) : Keeps σ.mem (execEptcntWrite vf value σ) := by simp [execEptcntWrite]
theorem execEpisodeArm_keeps (vf ep : Nat) (σ : State) : Keeps σ.mem (execEpisodeArm vf ep σ) := by
  unfold execEpisodeArm
  dsimp only
  (repeat' split) <;> simp
theorem execEpisodeCancel_keeps (vf ep : Nat) (σ : State) : Keeps σ.mem (execEpisodeCancel vf ep σ) := by
  unfold execEpisodeCancel
  split_ifs <;> simp
theorem execEpisodePlace_keeps (die : Nat) (σ : State) : Keeps σ.mem (execEpisodePlace die σ) := by
  unfold execEpisodePlace
  (repeat' split) <;> simp
theorem execEpres_keeps (vf : Nat) (value : Word) (σ : State) : Keeps σ.mem (execEpres vf value σ) := by
  unfold execEpres
  dsimp only
  (repeat' split) <;> simp
theorem execPolupd_keeps (vf : Nat) (value : Word) (σ : State) : Keeps σ.mem (execPolupd vf value σ) := by
  unfold execPolupd
  split_ifs <;> simp
theorem execQueueKick_keeps (vf q : Nat) (σ : State) : Keeps σ.mem (execQueueKick vf q σ) := by simp [execQueueKick]
theorem execVerselWrite_keeps (vf : Nat) (value : Word) (σ : State) : Keeps σ.mem (execVerselWrite vf value σ) := by
  unfold execVerselWrite
  split_ifs <;> simp
theorem execQueueCtlWrite_keeps (vf q : Nat) (value : Word) (σ : State) : Keeps σ.mem (execQueueCtlWrite vf q value σ) := by
  unfold execQueueCtlWrite
  dsimp only
  (repeat' split) <;> simp
theorem execPacketAccept_keeps (fe : Nat) (σ : State) : Keeps σ.mem (execPacketAccept fe σ) := by
  unfold execPacketAccept
  split
  · simp
  · dsimp only
    split
    · split <;> simp
    next heq => simp [State.nextPacket_bad_mem heq]
    · simp
theorem execPacketSignal_keeps (vf q idx : Nat) (addr val : Word) (add : Bool) (σ : State) : Keeps σ.mem (execPacketSignal vf q idx addr val add σ) := by
  refine State.withPacket_keeps rfl _ _ _ fun p => ?_
  split
  next heq => simp [State.feAsk_wait_mem heq]
  next heq => simp [State.feAsk_bad_mem heq]
  · simp
theorem execPacketWait_keeps (vf q idx : Nat) (addr val : Word) (cond : BitVec 2) (σ : State) : Keeps σ.mem (execPacketWait vf q idx addr val cond σ) := by
  refine State.withPacket_keeps rfl _ _ _ fun p => ?_
  split
  next heq => simp [State.feAsk_wait_mem heq]
  next heq => simp [State.feAsk_bad_mem heq]
  · exact keeps_ite (by simp) (by simp)
theorem execPacketMarker_keeps (vf q idx : Nat) (addr val : Word) (σ : State) : Keeps σ.mem (execPacketMarker vf q idx addr val σ) := by
  refine State.withPacket_keeps rfl _ _ _ fun p => ?_
  split
  next heq => simp [State.feAsk_wait_mem heq]
  next heq => simp [State.feAsk_bad_mem heq]
  · simp
theorem execPacketCopy_keeps (vf q idx : Nat) (src dst len : Word) (σ : State) : Keeps σ.mem (execPacketCopy vf q idx src dst len σ) := by
  refine State.withPacket_keeps rfl _ _ _ fun p => ?_
  dsimp only
  split
  · simp
  · exact keeps_ite (by simp) (by simp)
theorem execPacketComplete_keeps (vf q idx : Nat) (σ : State) : Keeps σ.mem (execPacketComplete vf q idx σ) := by
  unfold execPacketComplete
  (repeat' split) <;> simp
theorem execPacketLaunchGraph_keeps (vf q idx : Nat) (gtab csig cval : Word) (σ : State) : Keeps σ.mem (execPacketLaunchGraph vf q idx gtab csig cval σ) := by
  refine State.withPacket_keeps rfl _ _ _ fun p => ?_
  have asked : ∀ τ (c : Nat), (if csig = 0 then FeOut.ok [] else σ.feAsk vf .write csig 1) = .wait τ ∨
      (if csig = 0 then FeOut.ok [] else σ.feAsk vf .write csig 1) = .bad c τ → τ.mem = σ.mem := fun τ c h => by
    split at h
    · rcases h with h | h <;> cases h
    · exact h.elim State.feAsk_wait_mem State.feAsk_bad_mem
  split
  next heq => exact keeps_of_mem (asked _ 0 (.inl heq))
  next heq => simp [asked _ _ (.inr heq)]
  split
  next heq => simp [State.feAsk_wait_mem heq]
  next heq => simp [State.feAsk_bad_mem heq]
  dsimp only
  split
  · simp
  split
  next heq => simp [State.feAsk_wait_mem heq]
  next heq => simp [State.feAsk_bad_mem heq]
  split <;> simp
theorem execNodeLaunch_keeps (g : Nat) (σ : State) : Keeps σ.mem (execNodeLaunch g σ) := by
  unfold execNodeLaunch
  dsimp only
  (repeat' split) <;> simp
theorem execNodeComplete_keeps (node : Nat) (σ : State) : Keeps σ.mem (execNodeComplete node σ) := by
  unfold execNodeComplete
  dsimp only
  (repeat' split) <;> simp
theorem execNoderel_keeps (vf : Nat) (value : Word) (σ : State) : Keeps σ.mem (execNoderel vf value σ) := by
  unfold execNoderel
  dsimp only
  (repeat' split) <;> simp
theorem execQueueCancel_keeps (vf q : Nat) (value : Word) (σ : State) : Keeps σ.mem (execQueueCancel vf q value σ) := by
  unfold execQueueCancel
  split_ifs <;> simp
theorem execRegisterWrite_keeps (bar off : Nat) (value : Word) (wide : Bool) (σ : State) : Keeps σ.mem (execRegisterWrite bar off value wide σ) := by
  unfold execRegisterWrite
  split
  · simp
  split
  · simp
  split
  · split <;> simp
  (repeat' split) <;> simp
theorem execGateBind_keeps (value : Word) (σ : State) : Keeps σ.mem (execGateBind value σ) := by
  unfold execGateBind
  dsimp only
  (repeat' split) <;> simp
theorem execGateUnbind_keeps (value : Word) (σ : State) : Keeps σ.mem (execGateUnbind value σ) := by
  unfold execGateUnbind
  dsimp only
  (repeat' split) <;> simp
theorem execGateRead_keeps (value : Word) (σ : State) : Keeps σ.mem (execGateRead value σ) := by simp [execGateRead]
theorem execHostMemAccess_keeps (wr : Bool) (pa size : Nat) (value : Word) (σ : State) : Keeps σ.mem (execHostMemAccess wr pa size value σ) := by
  unfold execHostMemAccess
  (repeat' split) <;> simp
theorem execWriteback_keeps (tile : Nat) (σ : State) : Keeps σ.mem (execWriteback tile σ) := by
  unfold execWriteback
  dsimp only
  split
  · simp
  split
  · simp
  split
  · split
    · simp
    · exact keeps_next.mpr fun w => State.sealExhaust_wf _ ((State.setTile_mem ..).symm ▸ w)
  · simpa using fun w => State.sealTile_wf _ _ _ w
theorem execOwncmd_keeps (value : Word) (σ : State) : Keeps σ.mem (execOwncmd value σ) := by
  unfold execOwncmd
  dsimp only
  split
  · simp
  · rw [keeps_next, State.refreshGframes_mem]
    exact fun w => foldl_wf _ (fun τ i w => State.giveFrame_wf _ _ w) _ w
theorem execTableLoad_keeps (value : Word) (σ : State) : Keeps σ.mem (execTableLoad value σ) := by
  refine State.ldStart_keeps rfl _ _ fun τ hτ => ?_
  dsimp only
  split
  · simp [hτ]
  split
  · simp [hτ]
  split <;> simp [hτ]
theorem execTableEntry_keeps (value : Word) (σ : State) : Keeps σ.mem (execTableEntry value σ) := by
  refine State.ldStart_keeps rfl _ _ fun τ hτ => ?_
  dsimp only
  split
  · simp [hτ]
  split <;> simp [hτ]
theorem execTableClear_keeps (value : Word) (σ : State) : Keeps σ.mem (execTableClear value σ) :=
  State.ldStart_keeps rfl _ _ fun τ hτ => by simp [hτ]
theorem execTableMigrate_keeps (value : Word) (σ : State) : Keeps σ.mem (execTableMigrate value σ) := by
  refine State.ldStart_keeps rfl _ _ fun τ hτ => ?_
  extract_lets v vf i t e n dst ρ
  have hρ : ρ.mem = σ.mem := by
    unfold ρ
    split <;> simp [hτ]
  refine keeps_ite (by simp [hρ]) (keeps_ite (by simp [hρ]) (keeps_ite (by simp [hρ]) (keeps_ite (by simp [hρ]) ?_)))
  rw [keeps_next, State.ldDone_mem, State.switchEntry_mem]
  exact fun w => foldl_wf _ (fun τ k w => State.copyFrame_wf _ _ _ w) _ (((State.switchEntry_mem ..).trans hρ : State.mem _ = σ.mem) ▸ w)
theorem execSealRotate_keeps (value : Word) (σ : State) : Keeps σ.mem (execSealRotate value σ) :=
  State.sealStart_keeps rfl _ fun τ vf f hτ w => by simpa [hτ] using w
theorem execSealReseal_keeps (value : Word) (σ : State) : Keeps σ.mem (execSealReseal value σ) := by
  refine State.sealStart_keeps rfl _ fun τ vf f hτ w => ?_
  split
  · exact State.reseal_wf _ _ (by simpa [hτ] using w)
  · simpa [hτ] using w
theorem execSealRetire_keeps (value : Word) (σ : State) : Keeps σ.mem (execSealRetire value σ) :=
  State.sealStart_keeps rfl _ fun τ vf f hτ w => by simpa [hτ] using w
theorem execSealZero_keeps (value : Word) (σ : State) : Keeps σ.mem (execSealZero value σ) := by
  refine State.sealStart_keeps rfl _ fun τ vf f hτ w => ?_
  dsimp only
  split
  · simpa [hτ] using w
  split
  · simpa [hτ] using w
  · exact State.zeroFrame_wf _ _ _ _ (by simpa [hτ] using w)
theorem execCorecfgWrite_keeps {core : Nat} (hc : core < 32) (value : Word) (σ : State) : Keeps σ.mem (execCorecfgWrite core value σ) := by
  unfold execCorecfgWrite
  rw [if_neg (by omega)]
  exact keeps_ite (by simp) (keeps_ite (by simp) (keeps_ite (by simp) (keeps_ite (by simp) (by simp))))
theorem execVfbindWrite_keeps {vf : Nat} (h1 : 1 ≤ vf) (h2 : vf ≤ 64) (value : Word) (σ : State) : Keeps σ.mem (execVfbindWrite vf value σ) := by
  unfold execVfbindWrite
  rw [if_neg (by omega)]
  exact keeps_ite (by simp) (by simp)
theorem execSliceTurnEnd_keeps (part : Nat) (σ : State) : Keeps σ.mem (execSliceTurnEnd part σ) := by
  unfold execSliceTurnEnd
  dsimp only
  (repeat' split) <;> simp
theorem execMigTrack_keeps (value : Word) (σ : State) : Keeps σ.mem (execMigTrack value σ) :=
  State.migStart_keeps rfl _ _ _ fun τ vf hτ => by simp [hτ]
theorem execMigFreeze_keeps (value : Word) (σ : State) : Keeps σ.mem (execMigFreeze value σ) :=
  State.migStart_keeps rfl _ _ _ fun τ vf hτ => by simp [hτ]
theorem execMigCopy_keeps (value : Word) (σ : State) : Keeps σ.mem (execMigCopy value σ) :=
  State.migStart_keeps rfl _ _ _ fun τ vf hτ => by simp [hτ]
theorem execMigSave_keeps (value : Word) (σ : State) : Keeps σ.mem (execMigSave value σ) :=
  State.migStart_keeps rfl _ _ _ fun τ vf hτ => by simp [hτ]
theorem execMigAbort_keeps (value : Word) (σ : State) : Keeps σ.mem (execMigAbort value σ) :=
  State.migStart_keeps rfl _ _ _ fun τ vf hτ => by simp [hτ]
theorem execMigLoad_keeps (value : Word) (σ : State) : Keeps σ.mem (execMigLoad value σ) := by
  refine State.migStart_keeps rfl _ _ _ fun τ vf hτ => ?_
  dsimp only
  split
  · refine keeps_ite ?_ ?_
    · exact keeps_next.mpr fun w => State.importTiles_wf _ _ _ (by simpa [hτ] using w)
    · split
      · split <;> simp [hτ]
      · simp [hτ]
  · simp [hτ]
theorem execMigResume_keeps (value : Word) (σ : State) : Keeps σ.mem (execMigResume value σ) := by
  refine State.migStart_keeps rfl _ _ _ fun τ vf hτ => ?_
  dsimp only
  split <;> simp [hτ]
theorem execEvctlWrite_keeps {part : Nat} (hp : part < 32) (value : Word) (σ : State) : Keeps σ.mem (execEvctlWrite part value σ) := by
  unfold execEvctlWrite
  rw [if_neg (by omega)]
  dsimp only
  split <;> simp
theorem execPcSample_keeps {core : Nat} (hc : core < 32) (σ : State) : Keeps σ.mem (execPcSample core σ) := by
  unfold execPcSample
  rw [if_neg (by omega)]
  refine keeps_ite (by simp) ?_
  split <;> simp
theorem execFwuctlGo_keeps (value : Word) (σ : State) : Keeps σ.mem (execFwuctlGo value σ) := by
  unfold execFwuctlGo
  dsimp only
  (repeat' split) <;> simp
theorem execPackageReset_keeps (σ : State) : Keeps σ.mem (execPackageReset σ) := by
  unfold execPackageReset
  rw [keeps_next, State.boot_mem]
  exact memWf_filter _ _
theorem execSpdmGetVersion_keeps {m : Nat} (hm : m ≤ 64) (σ : State) : Keeps σ.mem (execSpdmGetVersion m σ) :=
  State.spdmAt_keeps rfl hm _ fun s => by simp
theorem execSpdmGetCapabilities_keeps {m : Nat} (hm : m ≤ 64) (σ : State) : Keeps σ.mem (execSpdmGetCapabilities m σ) :=
  State.spdmAt_keeps rfl hm _ fun s => by simp
theorem execSpdmNegotiateAlgorithms_keeps {m : Nat} (hm : m ≤ 64) (algs : Word) (σ : State) : Keeps σ.mem (execSpdmNegotiateAlgorithms m algs σ) :=
  State.spdmAt_keeps rfl hm _ fun s => keeps_ite (by simp) (by simp)
theorem execSpdmGetDigests_keeps {m : Nat} (hm : m ≤ 64) (σ : State) : Keeps σ.mem (execSpdmGetDigests m σ) :=
  State.spdmAt_keeps rfl hm _ fun s => by simp
theorem execSpdmGetCertificate_keeps {m : Nat} (hm : m ≤ 64) (slot : Nat) (σ : State) : Keeps σ.mem (execSpdmGetCertificate m slot σ) :=
  State.spdmAt_keeps rfl hm _ fun s => keeps_ite (by simp) (by simp)
theorem execSpdmChallenge_keeps {m : Nat} (hm : m ≤ 64) (nonce : Word) (σ : State) : Keeps σ.mem (execSpdmChallenge m nonce σ) :=
  State.spdmAt_keeps rfl hm _ fun s => by simp
theorem execSpdmGetMeasurements_keeps {m : Nat} (hm : m ≤ 64) (idx : Nat) (σ : State) : Keeps σ.mem (execSpdmGetMeasurements m idx σ) := by
  refine State.spdmAt_keeps rfl hm _ fun s => keeps_ite (by simp) ?_
  split <;> simp
theorem execSpdmKeyExchange_keeps {m : Nat} (hm : m ≤ 64) (both : Bool) (σ : State) : Keeps σ.mem (execSpdmKeyExchange m both σ) :=
  State.spdmAt_keeps rfl hm _ fun s => keeps_ite (by simp) (by simp)
theorem execSpdmFinish_keeps {m : Nat} (hm : m ≤ 64) (σ : State) : Keeps σ.mem (execSpdmFinish m σ) :=
  State.spdmAt_keeps rfl hm _ fun s => keeps_ite (by simp) (by simp)
theorem execSpdmEndSession_keeps {m : Nat} (hm : m ≤ 64) (σ : State) : Keeps σ.mem (execSpdmEndSession m σ) :=
  State.spdmAt_keeps rfl hm _ fun s => keeps_ite (by simp) (by simp)
theorem execSpdmUnsupported_keeps {m : Nat} (hm : m ≤ 64) (code : Nat) (σ : State) : Keeps σ.mem (execSpdmUnsupported m code σ) :=
  State.spdmAt_keeps rfl hm _ fun s => by simp
theorem execTagParity_keeps {slice set : Nat} (h1 : slice < 64) (h2 : set < 2048) (line : Nat) (dirty : Bool) (σ : State) :
    Keeps σ.mem (execTagParity slice set line dirty σ) := by
  unfold execTagParity
  rw [if_neg (by omega)]
  dsimp only
  split <;> simp
theorem execMemUe_keeps {place : Nat} (hp : place ≤ 7) (addr who : Nat) (dirty : Bool) (σ : State) : Keeps σ.mem (execMemUe place addr who dirty σ) := by
  unfold execMemUe
  dsimp only
  rw [if_neg (by omega), if_neg (by omega)]
  split
  · simp
  split
  · split <;> simp
  · split <;> simp
theorem execThermalTrip_keeps (σ : State) : Keeps σ.mem (execThermalTrip σ) := keeps_next.mpr (memWf_filter _ _)
theorem execGovernorEvaluation_keeps (σ : State) : Keeps σ.mem (execGovernorEvaluation σ) :=
  keeps_ite (keeps_next.mpr (memWf_filter _ _)) (by simp)
end Sys2Proof.Machine
end

section
namespace Sys2Proof.Machine

/-! ## Every instruction, and the units that the package does not have -/

/-- The meaning of the instruction keeps the form of sealed memory, or the instruction names a unit that the package does not have. -/
def KeepsOrFaults (i : Instr) (σ : State) : Prop := Keeps σ.mem (exec i σ) ∨ i.wf = false ∧ exec i σ = .fault .noSuchUnit

theorem keepsOrFaults_of {i : Instr} {σ : State} {p : Prop} [Decidable p] (hk : p → Keeps σ.mem (exec i σ))
    (hf : ¬ p → i.wf = false ∧ exec i σ = .fault .noSuchUnit) : KeepsOrFaults i σ :=
  if h : p then .inl (hk h) else .inr (hf h)

section
variable (σ : State)

theorem linkUp_keepsOrFaults (p : Nat) (v : Word) : KeepsOrFaults (.linkUp p v) σ :=
  keepsOrFaults_of (p := p < 18) (execLinkUp_keeps · _ _) fun h => ⟨decide_eq_false h, if_pos (by omega)⟩
theorem corecfgWrite_keepsOrFaults (c : Nat) (v : Word) : KeepsOrFaults (.corecfgWrite c v) σ :=
  keepsOrFaults_of (p := c < 32) (execCorecfgWrite_keeps · _ _) fun h => ⟨decide_eq_false h, if_pos (by omega)⟩
theorem evctlWrite_keepsOrFaults (p : Nat) (v : Word) : KeepsOrFaults (.evctlWrite p v) σ :=
  keepsOrFaults_of (p := p < 32) (execEvctlWrite_keeps · _ _) fun h => ⟨decide_eq_false h, if_pos (by omega)⟩
theorem pcSample_keepsOrFaults (c : Nat) : KeepsOrFaults (.pcSample c) σ :=
  keepsOrFaults_of (p := c < 32) (execPcSample_keeps · _) fun h => ⟨decide_eq_false h, if_pos (by omega)⟩
theorem vfbindWrite_keepsOrFaults (vf : Nat) (v : Word) : KeepsOrFaults (.vfbindWrite vf v) σ :=
  keepsOrFaults_of (p := 1 ≤ vf ∧ vf ≤ 64) (fun h => execVfbindWrite_keeps h.1 h.2 _ _) fun h => ⟨decide_eq_false h, if_pos (by omega)⟩
theorem taskDispatch_keepsOrFaults (c k : Nat) : KeepsOrFaults (.taskDispatch c k) σ :=
  keepsOrFaults_of (p := c < 32 ∧ k < 4) (fun h => execTaskDispatch_keeps h.1 h.2 _) fun h => ⟨decide_eq_false h, if_pos (by omega)⟩
theorem tagParity_keepsOrFaults (sl set line : Nat) (dirty : Bool) : KeepsOrFaults (.tagParity sl set line dirty) σ :=
  keepsOrFaults_of (p := sl < 64 ∧ set < 2048) (fun h => execTagParity_keeps h.1 h.2 _ _ _) fun h => ⟨decide_eq_false h, if_pos (by omega)⟩
theorem watchdog_keepsOrFaults (a : Nat) : KeepsOrFaults (.watchdog a) σ :=
  keepsOrFaults_of (p := a < 34) (execWatchdog_keeps · _) fun h =>
    ⟨decide_eq_false h, (if_neg (by omega)).trans ((if_neg (by omega)).trans (if_neg (by omega)))⟩
/-- Place 8 is the count of corrected errors, which no step's name carries. -/
theorem memUe_keepsOrFaults (place addr who : Nat) (dirty : Bool) : KeepsOrFaults (.memUe place addr who dirty) σ := by
  rcases (by omega : place ≤ 7 ∨ place = 8 ∨ 8 < place) with h | rfl | h
  · exact .inl (execMemUe_keeps h _ _ _ _)
  · exact .inl (keeps_of_mem rfl)
  · exact .inr ⟨decide_eq_false (by omega), if_pos h⟩
theorem spdmGetVersion_keepsOrFaults (m : Nat) : KeepsOrFaults (.spdmGetVersion m) σ :=
  keepsOrFaults_of (p := m ≤ 64) (execSpdmGetVersion_keeps · _) fun h => ⟨decide_eq_false h, if_pos (by omega)⟩
theorem spdmGetCapabilities_keepsOrFaults (m : Nat) : KeepsOrFaults (.spdmGetCapabilities m) σ :=
  keepsOrFaults_of (p := m ≤ 64) (execSpdmGetCapabilities_keeps · _) fun h => ⟨decide_eq_false h, if_pos (by omega)⟩
theorem spdmNegotiateAlgorithms_keepsOrFaults (m : Nat) (x : Word) : KeepsOrFaults (.spdmNegotiateAlgorithms m x) σ :=
  keepsOrFaults_of (p := m ≤ 64) (execSpdmNegotiateAlgorithms_keeps · _ _) fun h => ⟨decide_eq_false h, if_pos (by omega)⟩
theorem spdmGetDigests_keepsOrFaults (m : Nat) : KeepsOrFaults (.spdmGetDigests m) σ :=
  keepsOrFaults_of (p := m ≤ 64) (execSpdmGetDigests_keeps · _) fun h => ⟨decide_eq_false h, if_pos (by omega)⟩
theorem spdmGetCertificate_keepsOrFaults (m : Nat) (x : Nat) : KeepsOrFaults (.spdmGetCertificate m x) σ :=
  keepsOrFaults_of (p := m ≤ 64) (execSpdmGetCertificate_keeps · _ _) fun h => ⟨decide_eq_false h, if_pos (by omega)⟩
theorem spdmChallenge_keepsOrFaults (m : Nat) (x : Word) : KeepsOrFaults (.spdmChallenge m x) σ :=
  keepsOrFaults_of (p := m ≤ 64) (execSpdmChallenge_keeps · x σ) fun h => ⟨decide_eq_false h, if_pos (by omega)⟩
theorem spdmGetMeasurements_keepsOrFaults (m : Nat) (x : Nat) : KeepsOrFaults (.spdmGetMeasurements m x) σ :=
  keepsOrFaults_of (p := m ≤ 64) (execSpdmGetMeasurements_keeps · _ _) fun h => ⟨decide_eq_false h, if_pos (by omega)⟩
theorem spdmKeyExchange_keepsOrFaults (m : Nat) (x : Bool) : KeepsOrFaults (.spdmKeyExchange m x) σ :=
  keepsOrFaults_of (p := m ≤ 64) (execSpdmKeyExchange_keeps · _ _) fun h => ⟨decide_eq_false h, if_pos (by omega)⟩
theorem spdmFinish_keepsOrFaults (m : Nat) : KeepsOrFaults (.spdmFinish m) σ :=
  keepsOrFaults_of (p := m ≤ 64) (execSpdmFinish_keeps · _) fun h => ⟨decide_eq_false h, if_pos (by omega)⟩
theorem spdmEndSession_keepsOrFaults (m : Nat) : KeepsOrFaults (.spdmEndSession m) σ :=
  keepsOrFaults_of (p := m ≤ 64) (execSpdmEndSession_keeps · _) fun h => ⟨decide_eq_false h, if_pos (by omega)⟩
theorem spdmUnsupported_keepsOrFaults (m : Nat) (x : Nat) : KeepsOrFaults (.spdmUnsupported m x) σ :=
  keepsOrFaults_of (p := m ≤ 64) (execSpdmUnsupported_keeps · _ _) fun h => ⟨decide_eq_false h, if_pos (by omega)⟩
end

/-- Every instruction keeps the form of sealed memory, or names a unit that the package does not have. -/
theorem exec_keepsOrFaults (i : Instr) (σ : State) : KeepsOrFaults i σ := by
  cases i with
  | add => exact .inl (execAdd_keeps ..)
  | sub => exact .inl (execSub_keeps ..)
  | and => exact .inl (execAnd_keeps ..)
  | or => exact .inl (execOr_keeps ..)
  | xor => exact .inl (execXor_keeps ..)
  | andn => exact .inl (execAndn_keeps ..)
  | sll => exact .inl (execSll_keeps ..)
  | srl => exact .inl (execSrl_keeps ..)
  | sra => exact .inl (execSra_keeps ..)
  | ror => exact .inl (execRor_keeps ..)
  | mul => exact .inl (execMul_keeps ..)
  | mulh => exact .inl (execMulh_keeps ..)
  | mulhu => exact .inl (execMulhu_keeps ..)
  | div => exact .inl (execDiv_keeps ..)
  | divu => exact .inl (execDivu_keeps ..)
  | rem => exact .inl (execRem_keeps ..)
  | remu => exact .inl (execRemu_keeps ..)
  | min => exact .inl (execMin_keeps ..)
  | max => exact .inl (execMax_keeps ..)
  | minu => exact .inl (execMinu_keeps ..)
  | maxu => exact .inl (execMaxu_keeps ..)
  | adds => exact .inl (execAdds_keeps ..)
  | subs => exact .inl (execSubs_keeps ..)
  | clz => exact .inl (execClz_keeps ..)
  | ctz => exact .inl (execCtz_keeps ..)
  | popc => exact .inl (execPopc_keeps ..)
  | sext8 => exact .inl (execSext8_keeps ..)
  | sext16 => exact .inl (execSext16_keeps ..)
  | sext32 => exact .inl (execSext32_keeps ..)
  | zext32 => exact .inl (execZext32_keeps ..)
  | movf => exact .inl (execMovf_keeps ..)
  | movb => exact .inl (execMovb_keeps ..)
  | addi => exact .inl (execAddi_keeps ..)
  | andi => exact .inl (execAndi_keeps ..)
  | ori => exact .inl (execOri_keeps ..)
  | xori => exact .inl (execXori_keeps ..)
  | slli => exact .inl (execSlli_keeps ..)
  | srli => exact .inl (execSrli_keeps ..)
  | srai => exact .inl (execSrai_keeps ..)
  | rori => exact .inl (execRori_keeps ..)
  | li => exact .inl (execLi_keeps ..)
  | lih => exact .inl (execLih_keeps ..)
  | muli => exact .inl (execMuli_keeps ..)
  | cmp => exact .inl (execCmp_keeps ..)
  | cmpi => exact .inl (execCmpi_keeps ..)
  | prep => exact .inl (execPrep_keeps ..)
  | xfer => exact .inl (execXfer_keeps ..)
  | xferN => exact .inl (execXferN_keeps ..)
  | xferA => exact .inl (execXferA_keeps ..)
  | xferL => exact .inl (execXferL_keeps ..)
  | xferR => exact .inl (execXferR_keeps ..)
  | vany => exact .inl (execVany_keeps ..)
  | vall => exact .inl (execVall_keeps ..)
  | flagAnd => exact .inl (execFlagAnd_keeps ..)
  | flagOr => exact .inl (execFlagOr_keeps ..)
  | flagXor => exact .inl (execFlagXor_keeps ..)
  | flagAndn => exact .inl (execFlagAndn_keeps ..)
  | flagNot => exact .inl (execFlagNot_keeps ..)
  | flagSet => exact .inl (execFlagSet_keeps ..)
  | ld => exact .inl (execLd_keeps ..)
  | st => exact .inl (execSt_keeps ..)
  | ldl => exact .inl (execLdl_keeps ..)
  | stl => exact .inl (execStl_keeps ..)
  | lda => exact .inl (execLda_keeps ..)
  | sta => exact .inl (execSta_keeps ..)
  | ldc => exact .inl (execLdc_keeps ..)
  | ldcNowait => exact .inl (execLdcNowait_keeps ..)
  | pref => exact .inl (execPref_keeps ..)
  | atom => exact .inl (execAtom_keeps ..)
  | acas => exact .inl (execAcas_keeps ..)
  | mkdep => exact .inl (execMkdep_keeps ..)
  | mkrdT => exact .inl (execMkrdT_keeps ..)
  | mkrdW => exact .inl (execMkrdW_keeps ..)
  | mktakeT => exact .inl (execMktakeT_keeps ..)
  | mktakeW => exact .inl (execMktakeW_keeps ..)
  | gets => exact .inl (execGets_keeps ..)
  | sets => exact .inl (execSets_keeps ..)
  | forkVec => exact .inl (execForkVec_keeps ..)
  | forkMat => exact .inl (execForkMat_keeps ..)
  | forkCopy => exact .inl (execForkCopy_keeps ..)
  | mark => exact .inl (execMark_keeps ..)
  | rdvSet => exact .inl (execRdvSet_keeps ..)
  | rdvWait => exact .inl (execRdvWait_keeps ..)
  | rdvTest => exact .inl (execRdvTest_keeps ..)
  | qdrop => exact .inl (execQdrop_keeps ..)
  | twaitAny => exact .inl (execTwaitAny_keeps ..)
  | twaitAll => exact .inl (execTwaitAll_keeps ..)
  | tffr => exact .inl (execTffr_keeps ..)
  | tcancel => exact .inl (execTcancel_keeps ..)
  | rset => exact .inl (execRset_keeps ..)
  | rclaim => exact .inl (execRclaim_keeps ..)
  | rdone => exact .inl (execRdone_keeps ..)
  | rwaitf => exact .inl (execRwaitf_keeps ..)
  | rwaite => exact .inl (execRwaite_keeps ..)
  | radv => exact .inl (execRadv_keeps ..)
  | rget => exact .inl (execRget_keeps ..)
  | phase => exact .inl (execPhase_keeps ..)
  | fenceX x y s => exact .inl (execFenceX_keeps x y s σ)
  | waitc => exact .inl (execWaitc_keeps ..)
  | signalSet => exact .inl (execSignalSet_keeps ..)
  | signalAdd => exact .inl (execSignalAdd_keeps ..)
  | leaseW => exact .inl (execLeaseW_keeps ..)
  | leaseT => exact .inl (execLeaseT_keeps ..)
  | leasecW => exact .inl (execLeasecW_keeps ..)
  | leasecT => exact .inl (execLeasecT_keeps ..)
  | unlease => exact .inl (execUnlease_keeps ..)
  | split => exact .inl (execSplit_keeps ..)
  | kick => exact .inl (execKick_keeps ..)
  | mbact => exact .inl (execMbact_keeps ..)
  | mbobsW => exact .inl (execMbobsW_keeps ..)
  | mbobsT => exact .inl (execMbobsT_keeps ..)
  | strm => exact .inl (execStrm_keeps ..)
  | txset => exact .inl (execTxset_keeps ..)
  | txsetM => exact .inl (execTxsetM_keeps ..)
  | cvset => exact .inl (execCvset_keeps ..)
  | deadA => exact .inl (execDeadA_keeps ..)
  | deadW => exact .inl (execDeadW_keeps ..)
  | yield => exact .inl (execYield_keeps ..)
  | exit => exact .inl (execExit_keeps ..)
  | trap => exact .inl (execTrap_keeps ..)
  | eret => exact .inl (execEret_keeps ..)
  | ctxsv => exact .inl (execCtxsv_keeps ..)
  | ctxld => exact .inl (execCtxld_keeps ..)
  | accspill => exact .inl (execAccspill_keeps ..)
  | keyld => exact .inl (execKeyld_keeps ..)
  | wdog => exact .inl (execWdog_keeps ..)
  | vadd => exact .inl (execVadd_keeps ..)
  | vsub => exact .inl (execVsub_keeps ..)
  | vmul => exact .inl (execVmul_keeps ..)
  | vfma => exact .inl (execVfma_keeps ..)
  | vadds => exact .inl (execVadds_keeps ..)
  | vsubs => exact .inl (execVsubs_keeps ..)
  | vmin => exact .inl (execVmin_keeps ..)
  | vmax => exact .inl (execVmax_keeps ..)
  | vmulh => exact .inl (execVmulh_keeps ..)
  | vand => exact .inl (execVand_keeps ..)
  | vor => exact .inl (execVor_keeps ..)
  | vxor => exact .inl (execVxor_keeps ..)
  | vshl => exact .inl (execVshl_keeps ..)
  | vshr => exact .inl (execVshr_keeps ..)
  | vhash => exact .inl (execVhash_keeps ..)
  | vceq => exact .inl (execVceq_keeps ..)
  | vcne => exact .inl (execVcne_keeps ..)
  | vclt => exact .inl (execVclt_keeps ..)
  | vcle => exact .inl (execVcle_keeps ..)
  | vcgt => exact .inl (execVcgt_keeps ..)
  | vcge => exact .inl (execVcge_keeps ..)
  | vsel => exact .inl (execVsel_keeps ..)
  | vmov => exact .inl (execVmov_keeps ..)
  | vcvt => exact .inl (execVcvt_keeps ..)
  | vqnt => exact .inl (execVqnt_keeps ..)
  | vdq => exact .inl (execVdq_keeps ..)
  | vaddi => exact .inl (execVaddi_keeps ..)
  | vmuli => exact .inl (execVmuli_keeps ..)
  | vandi => exact .inl (execVandi_keeps ..)
  | vori => exact .inl (execVori_keeps ..)
  | vxori => exact .inl (execVxori_keeps ..)
  | vshli => exact .inl (execVshli_keeps ..)
  | vshri => exact .inl (execVshri_keeps ..)
  | vsplat => exact .inl (execVsplat_keeps ..)
  | vmini => exact .inl (execVmini_keeps ..)
  | vmaxi => exact .inl (execVmaxi_keeps ..)
  | vlda => exact .inl (execVlda_keeps ..)
  | vsta => exact .inl (execVsta_keeps ..)
  | vldc => exact .inl (execVldc_keeps ..)
  | vldcNowait => exact .inl (execVldcNowait_keeps ..)
  | vstc => exact .inl (execVstc_keeps ..)
  | vgath => exact .inl (execVgath_keeps ..)
  | vscat => exact .inl (execVscat_keeps ..)
  | vatom => exact .inl (execVatom_keeps ..)
  | vperm => exact .inl (execVperm_keeps ..)
  | vshuf => exact .inl (execVshuf_keeps ..)
  | vred => exact .inl (execVred_keeps ..)
  | vscan => exact .inl (execVscan_keeps ..)
  | vplog => exact .inl (execVplog_keeps ..)
  | vhalt => exact .inl (execVhalt_keeps ..)
  | vfl => exact .inl (execVfl_keeps ..)
  | exp2 => exact .inl (execExp2_keeps ..)
  | log2 => exact .inl (execLog2_keeps ..)
  | rcp => exact .inl (execRcp_keeps ..)
  | rsq => exact .inl (execRsq_keeps ..)
  | vabs => exact .inl (execVabs_keeps ..)
  | vneg => exact .inl (execVneg_keeps ..)
  | vclz => exact .inl (execVclz_keeps ..)
  | vpopc => exact .inl (execVpopc_keeps ..)
  | mma => exact .inl (execMma_keeps ..)
  | conv => exact .inl (execConv_keeps ..)
  | accz => exact .inl (execAccz_keeps ..)
  | accmv => exact .inl (execAccmv_keeps ..)
  | swait => exact .inl (execSwait_keeps ..)
  | sadv => exact .inl (execSadv_keeps ..)
  | smark => exact .inl (execSmark_keeps ..)
  | linkcfg => exact .inl (execLinkcfg_keeps ..)
  | wld => exact .inl (execWld_keeps ..)
  | accld => exact .inl (execAccld_keeps ..)
  | srst => exact .inl (execSrst_keeps ..)
  | matNop => exact .inl (execMatNop_keeps ..)
  | matHalt => exact .inl (execMatHalt_keeps ..)
  | cld => exact .inl (execCld_keeps ..)
  | cldRing => exact .inl (execCldRing_keeps ..)
  | cst => exact .inl (execCst_keeps ..)
  | cstRing => exact .inl (execCstRing_keeps ..)
  | cstq => exact .inl (execCstq_keeps ..)
  | cmc => exact .inl (execCmc_keeps ..)
  | cga => exact .inl (execCga_keeps ..)
  | csc => exact .inl (execCsc_keeps ..)
  | crw => exact .inl (execCrw_keeps ..)
  | cred => exact .inl (execCred_keeps ..)
  | cldm => exact .inl (execCldm_keeps ..)
  | cwt => exact .inl (execCwt_keeps ..)
  | cadv => exact .inl (execCadv_keeps ..)
  | cmark => exact .inl (execCmark_keeps ..)
  | cnop => exact .inl (execCnop_keeps ..)
  | chalt => exact .inl (execChalt_keeps ..)
  | chaltS => exact .inl (execChaltS_keeps ..)
  | mbRecv => exact .inl (execMbRecv_keeps ..)
  | mbSend => exact .inl (execMbSend_keeps ..)
  | mbPoll => exact .inl (execMbPoll_keeps ..)
  | epStep => exact .inl (execEpStep_keeps ..)
  | epExit => exact .inl (execEpExit_keeps ..)
  | rv64gc => exact .inl (execRv64gc_keeps ..)
  | stepBudget => exact .inl (execStepBudget_keeps ..)
  | quantumExpiry => exact .inl (execQuantumExpiry_keeps ..)
  | episodeArm => exact .inl (execEpisodeArm_keeps ..)
  | episodeCancel => exact .inl (execEpisodeCancel_keeps ..)
  | episodePlace => exact .inl (execEpisodePlace_keeps ..)
  | epres => exact .inl (execEpres_keeps ..)
  | eptbaseWrite => exact .inl (execEptbaseWrite_keeps ..)
  | eptcntWrite => exact .inl (execEptcntWrite_keeps ..)
  | polupd => exact .inl (execPolupd_keeps ..)
  | taskDispatch => exact taskDispatch_keepsOrFaults ..
  | stealAck => exact .inl (execStealAck_keeps ..)
  | stealWithdraw => exact .inl (execStealWithdraw_keeps ..)
  | stealTimeout => exact .inl (execStealTimeout_keeps ..)
  | stealRecovery => exact .inl (execStealRecovery_keeps ..)
  | lotComplete => exact .inl (execLotComplete_keeps ..)
  | continuationEnqueue => exact .inl (execContinuationEnqueue_keeps ..)
  | postedAbort => exact .inl (execPostedAbort_keeps ..)
  | nodeKill => exact .inl (execNodeKill_keeps ..)
  | postedFault => exact .inl (execPostedFault_keeps ..)
  | stallLimit => exact .inl (execStallLimit_keeps ..)
  | yieldExpiry => exact .inl (execYieldExpiry_keeps ..)
  | allocatorDecision => exact .inl (execAllocatorDecision_keeps ..)
  | classAging => exact .inl (execClassAging_keeps ..)
  | wholeHold => exact .inl (execWholeHold_keeps ..)
  | planChange => exact .inl (execPlanChange_keeps ..)
  | fragmentDrained => exact .inl (execFragmentDrained_keeps ..)
  | engineCommandStart => exact .inl (execEngineCommandStart_keeps ..)
  | passRetire => exact .inl (execPassRetire_keeps ..)
  | weightLoadComplete => exact .inl (execWeightLoadComplete_keeps ..)
  | copyStepComplete => exact .inl (execCopyStepComplete_keeps ..)
  | cldmFollowOn => exact .inl (execCldmFollowOn_keeps ..)
  | programRetire => exact .inl (execProgramRetire_keeps ..)
  | markerRetire => exact .inl (execMarkerRetire_keeps ..)
  | accForeign => exact .inl (execAccForeign_keeps ..)
  | accrel => exact .inl (execAccrel_keeps ..)
  | faultres => exact .inl (execFaultres_keeps ..)
  | mkFullRetry => exact .inl (execMkFullRetry_keeps ..)
  | writeback => exact .inl (execWriteback_keeps ..)
  | hostMemAccess => exact .inl (execHostMemAccess_keeps ..)
  | queueKick => exact .inl (execQueueKick_keeps ..)
  | queueCancel => exact .inl (execQueueCancel_keeps ..)
  | queueCtlWrite => exact .inl (execQueueCtlWrite_keeps ..)
  | verselWrite => exact .inl (execVerselWrite_keeps ..)
  | noderel => exact .inl (execNoderel_keeps ..)
  | registerWrite => exact .inl (execRegisterWrite_keeps ..)
  | packetAccept => exact .inl (execPacketAccept_keeps ..)
  | packetLaunchGraph => exact .inl (execPacketLaunchGraph_keeps ..)
  | packetSignal => exact .inl (execPacketSignal_keeps ..)
  | packetWait => exact .inl (execPacketWait_keeps ..)
  | packetCopy => exact .inl (execPacketCopy_keeps ..)
  | packetMarker => exact .inl (execPacketMarker_keeps ..)
  | nodeLaunch => exact .inl (execNodeLaunch_keeps ..)
  | nodeComplete => exact .inl (execNodeComplete_keeps ..)
  | sliceTurnEnd => exact .inl (execSliceTurnEnd_keeps ..)
  | tableLoad => exact .inl (execTableLoad_keeps ..)
  | tableEntry => exact .inl (execTableEntry_keeps ..)
  | tableClear => exact .inl (execTableClear_keeps ..)
  | tableMigrate => exact .inl (execTableMigrate_keeps ..)
  | owncmd => exact .inl (execOwncmd_keeps ..)
  | sealRotate => exact .inl (execSealRotate_keeps ..)
  | sealReseal => exact .inl (execSealReseal_keeps ..)
  | sealRetire => exact .inl (execSealRetire_keeps ..)
  | sealZero => exact .inl (execSealZero_keeps ..)
  | gateBind => exact .inl (execGateBind_keeps ..)
  | gateUnbind => exact .inl (execGateUnbind_keeps ..)
  | gateRead => exact .inl (execGateRead_keeps ..)
  | tblRead => exact .inl (execTblRead_keeps ..)
  | tblWrite => exact .inl (execTblWrite_keeps ..)
  | rwSet => exact .inl (execRwSet_keeps ..)
  | rwClear => exact .inl (execRwClear_keeps ..)
  | rwRepoint => exact .inl (execRwRepoint_keeps ..)
  | remoteAccess => exact .inl (execRemoteAccess_keeps ..)
  | remoteAtom => exact .inl (execRemoteAtom_keeps ..)
  | crwArrival => exact .inl (execCrwArrival_keeps ..)
  | reductionContribution => exact .inl (execReductionContribution_keeps ..)
  | roundTimeout => exact .inl (execRoundTimeout_keeps ..)
  | memberLost => exact .inl (execMemberLost_keeps ..)
  | fabricTimeout => exact .inl (execFabricTimeout_keeps ..)
  | movedReply => exact .inl (execMovedReply_keeps ..)
  | linkUp => exact linkUp_keepsOrFaults ..
  | corecfgWrite => exact corecfgWrite_keepsOrFaults ..
  | vfbindWrite => exact vfbindWrite_keepsOrFaults ..
  | migTrack => exact .inl (execMigTrack_keeps ..)
  | migFreeze => exact .inl (execMigFreeze_keeps ..)
  | migCopy => exact .inl (execMigCopy_keeps ..)
  | migSave => exact .inl (execMigSave_keeps ..)
  | migLoad => exact .inl (execMigLoad_keeps ..)
  | migResume => exact .inl (execMigResume_keeps ..)
  | migAbort => exact .inl (execMigAbort_keeps ..)
  | evctlWrite => exact evctlWrite_keepsOrFaults ..
  | pcSample => exact pcSample_keepsOrFaults ..
  | fwuctlGo => exact .inl (execFwuctlGo_keeps ..)
  | spdmGetVersion => exact spdmGetVersion_keepsOrFaults ..
  | spdmGetCapabilities => exact spdmGetCapabilities_keepsOrFaults ..
  | spdmNegotiateAlgorithms => exact spdmNegotiateAlgorithms_keepsOrFaults ..
  | spdmGetDigests => exact spdmGetDigests_keepsOrFaults ..
  | spdmGetCertificate => exact spdmGetCertificate_keepsOrFaults ..
  | spdmChallenge => exact spdmChallenge_keepsOrFaults ..
  | spdmGetMeasurements => exact spdmGetMeasurements_keepsOrFaults ..
  | spdmKeyExchange => exact spdmKeyExchange_keepsOrFaults ..
  | spdmFinish => exact spdmFinish_keepsOrFaults ..
  | spdmEndSession => exact spdmEndSession_keepsOrFaults ..
  | spdmUnsupported => exact spdmUnsupported_keepsOrFaults ..
  | tagParity => exact tagParity_keepsOrFaults ..
  | memUe => exact memUe_keepsOrFaults ..
  | watchdog => exact watchdog_keepsOrFaults ..
  | governorEvaluation => exact .inl (execGovernorEvaluation_keeps ..)
  | thermalTrip => exact .inl (execThermalTrip_keeps ..)
  | packageReset => exact .inl (execPackageReset_keeps ..)
  | packetComplete => exact .inl (execPacketComplete_keeps ..)

theorem exec_keeps {i : Instr} (h : i.wf = true) (σ : State) : Keeps σ.mem (exec i σ) :=
  (exec_keepsOrFaults i σ).resolve_right fun hf => Bool.noConfusion (h.symm.trans hf.1)

/-- Settles O58: a well-formed instruction goes on, for each arm of `exec` answers a next state where its units exist. -/
theorem wellFormedGoesOn : Obligations.WellFormedGoesOn := by
  intro i s h
  obtain ⟨t, ht, -⟩ := exec_keeps h s
  exact ⟨t, ht⟩
end Sys2Proof.Machine
end

section
/-! ## A step -/
namespace Sys2Proof.Machine

/-- Where the outcome is a next state, its sealed memory is in canonical form. -/
def OkNext (o : Out) : Prop := ∀ t, o = .next t → memWf t.mem = true

theorem okNext_of_keeps {m : List Host.Cell} {o : Out} (h : Keeps m o) (w : memWf m = true) : OkNext o := by
  obtain ⟨t, rfl, ht⟩ := h
  rintro _ ⟨⟩
  exact ht w

theorem okNext_next {t : State} (w : memWf t.mem = true) : OkNext (.next t) := by
  rintro _ ⟨⟩
  exact w

theorem okNext_fault (e : Fault) : OkNext (.fault e) := by rintro _ ⟨⟩

theorem okNext_ite {p : Prop} [Decidable p] {a b : Out} (ha : OkNext a) (hb : OkNext b) : OkNext (if p then a else b) := by
  split
  · exact ha
  · exact hb

theorem exec_okNext {σ : State} (w : memWf σ.mem = true) (i : Instr) : OkNext (exec i σ) := by
  rcases exec_keepsOrFaults i σ with h | ⟨-, h⟩
  · exact okNext_of_keeps h w
  · exact h ▸ okNext_fault _

/-! ### A word of a unit -/

theorem State.fetchCtl_mem {σ : State} {core ctx : Nat} {r : Nat × State} (h : σ.fetchCtl core ctx = .ok r) : r.2.mem = σ.mem := by
  unfold State.fetchCtl at h
  dsimp only at h
  split at h
  · contradiction
  split at h
  · cases h
    rfl
  split at h
  · contradiction
  · cases h
    simp

theorem State.ctlWord_okNext {σ : State} (w : memWf σ.mem = true) (core ctx : Nat) : OkNext (σ.ctlWord core ctx) := by
  unfold State.ctlWord
  refine okNext_ite (okNext_next w) ?_
  split
  · exact okNext_of_keeps (State.trap_keeps rfl _) w
  next heq =>
    have wm := (State.fetchCtl_mem heq).symm ▸ w
    split
    · exact exec_okNext wm _
    · exact okNext_of_keeps (State.trapWith_keeps rfl _ _) wm

/-- A fetch of an engine leaves sealed memory as `m`, and where it stops, its outcome keeps that. -/
def Fetched.Leaves (m : List Host.Cell) : Fetched → Prop
  | .stop o => Keeps m o
  | .word _ τ => τ.mem = m

theorem Fetched.Leaves.of_eq {m : List Host.Cell} {o x : Fetched} (h : o.Leaves m) (e : o = x) : x.Leaves m := e ▸ h
theorem Fetched.Leaves.ite {m : List Host.Cell} {p : Prop} [Decidable p] {a b : Fetched} (ha : a.Leaves m) (hb : b.Leaves m) :
    (if p then a else b).Leaves m := by
  split
  · exact ha
  · exact hb

theorem State.fetchWord_leaves (σ : State) (i : Nat) : (σ.fetchWord i).Leaves σ.mem := by
  unfold State.fetchWord
  refine .ite (State.badWord_keeps rfl) ?_
  split
  · rfl
  dsimp only
  split
  · rfl
  split
  · refine .ite (State.engineFault_keeps rfl _ _) ?_
    exact keeps_ite (State.fragFault_keeps rfl ..) (State.engineFault_keeps rfl ..)
  split
  · exact State.engineFault_keeps rfl ..
  · exact (State.setRun_mem ..).trans (State.fill_mem ..)

theorem State.runStep_okNext {σ : State} (w : memWf σ.mem = true) (c : Cls) (n : Nat) : OkNext (σ.runStep c n) := by
  unfold State.runStep
  split
  · exact exec_okNext w _
  · exact okNext_of_keeps (State.badWord_keeps rfl) w

theorem State.engWord_okNext {σ : State} (w : memWf σ.mem = true) (c : Cls) (core e : Nat) : OkNext (σ.engWord c core e) := by
  unfold State.engWord
  dsimp only
  split
  · exact okNext_next w
  next r _ =>
    refine okNext_ite (okNext_next w) ?_
    split <;> rename_i heq <;> have h₁ := (State.fetchWord_leaves ..).of_eq heq
    · exact okNext_of_keeps h₁ w
    next τ =>
    have wτ := (show τ.mem = σ.mem from h₁).symm ▸ w
    refine okNext_ite ?_ (State.runStep_okNext wτ _ _)
    split <;> rename_i heq' <;> have h₂ := (τ.fetchWord_leaves _).of_eq heq'
    · exact okNext_of_keeps h₂ wτ
    next υ => exact State.runStep_okNext ((show υ.mem = τ.mem from h₂).symm ▸ wτ) _ _

theorem State.rinkStep_okNext {σ : State} (w : memWf σ.mem = true) (n : Nat) : OkNext (σ.rinkStep n) := by
  unfold State.rinkStep
  dsimp only
  have hs : (({ σ with rinkNo := n } : State).settleRink n).mem = σ.mem := State.settleRink_mem ..
  split <;> rename_i heq <;> have hm := ((State.rinkFetch_leaves ..).of_eq heq).trans hs
  next τ => exact okNext_next (by rwa [State.rinkTick_mem, show τ.mem = σ.mem from hm])
  next => exact okNext_of_keeps (State.rinkExc_keeps hm _) w
  next τ =>
    split
    · exact exec_okNext ((show τ.mem = σ.mem from hm).symm ▸ w) _
    · exact okNext_of_keeps (State.rinkIllegal_keeps hm) w

/-! ### The selection of a cycle -/

theorem State.tryCtl_wf {σ : State} (w : memWf σ.mem = true) (core ctx : Nat) : memWf (σ.tryCtl core ctx).2.mem = true := by
  unfold State.tryCtl
  split
  next heq =>
    split
    · exact State.ctlWord_okNext w _ _ _ heq
    · exact w
  · exact w

theorem State.readySlots_wf {σ : State} (w : memWf σ.mem = true) (core : Nat) : memWf (σ.readySlots core).2.mem = true := by
  refine List.foldlRecOn (motive := fun a : List Nat × State => memWf a.2.mem = true) _ _ w fun a wa k _ => ?_
  dsimp only
  split
  · exact State.tryCtl_wf wa _ _
  · exact wa

theorem State.select_wf {σ : State} (w : memWf σ.mem = true) (core : Nat) : memWf (σ.select core).mem = true := by
  unfold State.select
  extract_lets k used r k' r' f σ'
  have wr : memWf r'.2.mem = true := by
    rw [show r'.2.mem = r.2.mem from State.setCore_mem ..]
    exact State.readySlots_wf w core
  have wf : memWf σ'.mem = true := by
    unfold σ' f
    split
    · exact State.tryCtl_wf wr _ _
    · exact wr
  split
  · rwa [State.issue_mem]
  · split
    · rwa [State.issue_mem]
    · split
      · rwa [State.issue_mem]
      · exact wf

theorem State.vecChoice_wf (core : Nat) (l : List Nat) {σ : State} (w : memWf σ.mem = true) : memWf (σ.vecChoice core l).2.mem = true := by
  induction l generalizing σ with
  | nil => exact w
  | cons j l ih =>
    unfold State.vecChoice
    split
    next heq =>
      split
      · exact ih (State.engWord_okNext w _ _ _ _ heq)
      · exact w
    · exact w

theorem State.selectVec_wf {σ : State} (w : memWf σ.mem = true) (core : Nat) : memWf (σ.selectVec core).mem = true := by
  unfold State.selectVec
  dsimp only
  have wr := State.vecChoice_wf core ([1, 2, 3, 4].map fun i => ((σ.coreOf core).vecLast + i) % 4) w
  split
  · exact wr
  · simpa using wr

/-! ### The steps of an agenda -/

/-- A step that has become due is the instruction of its own name. -/
theorem perform_eq_exec {d : Due} {i : Instr} (h : d.Names i) (σ : State) : perform d σ = exec i σ := by
  cases d <;> cases h <;> rfl

theorem Due.exists_names (d : Due) : ∃ i, d.Names i := by
  cases d <;> exact ⟨_, rfl⟩

theorem perform_okNext {σ : State} (w : memWf σ.mem = true) (d : Due) : OkNext (perform d σ) := by
  obtain ⟨i, h⟩ := d.exists_names
  exact perform_eq_exec h σ ▸ exec_okNext w i

theorem State.wordTraps_wf {σ τ : State} (w : memWf σ.mem = true) {core k : Nat} (h : σ.wordTraps core k = some τ) : memWf τ.mem = true := by
  unfold State.wordTraps at h
  dsimp only at h
  split at h
  · split at h
    · split at h
      next heq =>
        cases h
        exact State.ctlWord_okNext w _ _ _ heq
      · contradiction
    · contradiction
  · contradiction

theorem State.atBoundary_okNext {σ : State} (w : memWf σ.mem = true) (core k : Nat) (d : Due) : OkNext (σ.atBoundary core k d) := by
  unfold State.atBoundary
  refine okNext_ite (okNext_next w) ?_
  split
  next heq => exact okNext_next (State.wordTraps_wf w heq)
  · exact perform_okNext w d

theorem State.act_okNext {σ : State} (w : memWf σ.mem = true) (a : Act) : OkNext (σ.act a) := by
  unfold State.act
  refine okNext_ite (okNext_next w) (okNext_ite (okNext_next w) ?_)
  split
  · exact okNext_next (State.select_wf w _)
  · exact okNext_next (State.selectVec_wf w _)
  · exact State.ctlWord_okNext w _ _
  · exact State.engWord_okNext w _ _ _
  · exact State.engWord_okNext w _ _ _
  · exact State.engWord_okNext w _ _ _
  · exact okNext_ite (okNext_next w) (State.rinkStep_okNext w _)
  · exact State.atBoundary_okNext w _ _ _
  · exact State.atBoundary_okNext w _ _ _
  · exact perform_okNext w _
  · exact exec_okNext w _

/-! ### The next cycle -/

theorem State.settleSave_wf {σ : State} (w : memWf σ.mem = true) (core slot : Nat) : memWf (σ.settleSave core slot).mem = true := by
  unfold State.settleSave
  dsimp only
  split
  · simpa using w
  split
  · exact w
  split
  next heq =>
    have wt := State.wordTraps_wf ((State.setCtx_mem ..).symm ▸ w) heq
    split
    · simpa using wt
    · exact wt
  · simpa using w

theorem execTable_okNext {τ : State} (w : memWf τ.mem = true) (op : Nat) (v : Word) :
    OkNext (if op = 0 then execTableLoad v τ else if op = 1 then execTableEntry v τ else if op = 2 then execTableClear v τ else execTableMigrate v τ) :=
  okNext_ite (exec_okNext w (.tableLoad v)) <| okNext_ite (exec_okNext w (.tableEntry v)) <|
    okNext_ite (exec_okNext w (.tableClear v)) (exec_okNext w (.tableMigrate v))

theorem State.loadRetry_wf {σ : State} (w : memWf σ.mem = true) : memWf σ.loadRetry.mem = true := by
  unfold State.loadRetry
  split
  · exact w
  next value src _ =>
  split
  · exact w
  have wτ (x y : Word) : memWf ((({ σ with loading := none } : State).setReg 0 0x3010 x).setReg 0 0x3000 y).mem = true := by
    rwa [State.setReg_mem, State.setReg_mem]
  extract_lets τ op
  have ho := execTable_okNext (wτ _ _ : memWf τ.mem = true) op value
  split
  next heq =>
    rw [State.setReg_mem]
    exact ho _ heq
  · exact w

theorem State.settleUnits_wf {σ : State} (w : memWf σ.mem = true) : memWf σ.settleUnits.mem = true := by
  unfold State.settleUnits
  dsimp only
  rw [foldl_mem _ (fun σ b => by simp), foldl_mem _ (fun σ b => by simp)]
  refine foldl_wf _ (fun τ p w => State.settleSave_wf w _ _) _ ?_
  rw [foldl_mem _ (fun σ b => by simp), foldl_mem _ (fun σ b => by simp), foldl_mem _ (fun σ b => by simp), State.rwRetry_mem]
  refine State.loadRetry_wf ?_
  split
  · exact w
  · simpa using w

theorem State.settle_wf {σ : State} (w : memWf σ.mem = true) : memWf σ.settle.mem = true := by
  unfold State.settle
  extract_lets σ₁ σ₂ σ₃ σ₄ σ₅
  have w₁ : memWf σ₁.mem = true := State.settleUnits_wf (by simpa using w)
  have h₄ : σ₄.mem = σ₁.mem := by
    unfold σ₄ σ₃ σ₂
    rw [foldl_mem _ (fun σ b => by split <;> simp), foldl_mem _ (fun σ b => by simp), foldl_mem _ (fun σ b => by simp)]
  have h₅ : σ₅.mem = σ₁.mem := by
    unfold σ₅
    split
    · exact h₄
    · simpa using h₄
  rw [foldl_mem _ (fun σ b => by simp), h₅]
  exact w₁

theorem State.refill_wf {σ : State} (w : memWf σ.mem = true) : memWf σ.refill.mem = true := by
  unfold State.refill
  have wn : memWf σ.nextCycle.mem = true := σ.nextCycle_mem.symm ▸ w
  extract_lets before σ₁ σ₂ early late
  split
  · exact wn
  · have wl : memWf σ₁.land.mem = true := by rwa [State.land_mem]
    have ws : memWf σ₂.mem = true := State.settle_wf wl
    dsimp only
    exact ws

theorem mapNext_okNext {f : State → State} (hf : ∀ t, (f t).mem = t.mem) {o : Out} (h : OkNext o) : OkNext (mapNext f o) := by
  cases o with
  | next u => exact okNext_next ((hf u).symm ▸ h u rfl)
  | fault e => exact okNext_fault e
  | refused r => rintro _ ⟨⟩

/-- Settles O59: each meaning keeps the form of sealed memory (`exec_keepsOrFaults`), and so does what the agenda does around it. -/
theorem stepKeepsMemory : Obligations.StepKeepsMemory := by
  intro s t w
  suffices h : OkNext (step s) from h t
  unfold step
  split
  · exact okNext_next ((State.observeCycle_mem ..).symm ▸ State.refill_wf w)
  next a rest _ =>
    exact mapNext_okNext (fun t => State.observe_mem ..) (State.act_okNext (σ := { s with agenda := rest }) w a)
end Sys2Proof.Machine
end

section
/-! ## O1, O2: the results of the integer words, as numbers -/
namespace Sys2Proof.Machine

theorem State.retire_eq (s : State) (c : Ctx) : s.retire c = .next (s.setCx c.advance) := rfl
theorem State.retireS_eq (s : State) (d : BitVec 5) (v : Word) : s.retireS d v = .next (s.wrote d v) := rfl
theorem State.retireF_eq (s : State) (f : BitVec 3) (v : Bool) : s.retireF f v = .next (s.flagged f v) := rfl

/-- A word that writes rd retires with the value its row gives. -/
theorem State.retireS_of_eq {s : State} {d : BitVec 5} {v w : Word} (h : v = w) : s.retireS d v = .next (s.wrote d w) := h ▸ rfl

section
variable (x y : Word) (n : Nat)

theorem shiftLeft_eq_ofNat : x <<< n = BitVec.ofNat 64 (x.toNat * 2 ^ n) :=
  BitVec.eq_of_toNat_eq (by simp [Nat.shiftLeft_eq])
theorem ushiftRight_eq_ofNat : x >>> n = BitVec.ofNat 64 (x.toNat / 2 ^ n) := by
  refine BitVec.eq_of_toNat_eq ?_
  rw [BitVec.toNat_ushiftRight, Nat.shiftRight_eq_div_pow, BitVec.toNat_ofNat, Nat.mod_eq_of_lt (Nat.lt_of_le_of_lt (Nat.div_le_self _ _) x.isLt)]
theorem sshiftRight_eq_ofInt : x.sshiftRight n = BitVec.ofInt 64 (x.toInt / 2 ^ n) := by
  rw [BitVec.sshiftRight, Int.shiftRight_eq_div_pow]
  norm_cast
theorem rotateRight_eq_or (h : n < 64) : x.rotateRight n = x >>> n ||| x <<< (64 - n) := by
  rw [BitVec.rotateRight_eq_rotateRightAux_of_lt h, BitVec.rotateRightAux]
theorem mul_eq_ofNat : x * y = BitVec.ofNat 64 (x.toNat * y.toNat) :=
  BitVec.eq_of_toNat_eq (by simp)
theorem eq_zero_iff_toInt : y = 0 ↔ y.toInt = 0 :=
  ⟨fun h => h ▸ rfl, fun h => BitVec.eq_of_toInt_eq h⟩
theorem eq_zero_iff_toNat : y = 0 ↔ y.toNat = 0 :=
  ⟨fun h => h ▸ rfl, fun h => BitVec.eq_of_toNat_eq h⟩

/-- The one quotient that has no 64-bit value wraps to the least word, as R158 says. -/
theorem divS_eq : divS x y = if y.toInt = 0 then -1 else BitVec.ofInt 64 (x.toInt.tdiv y.toInt) := by
  unfold divS
  rw [if_congr (eq_zero_iff_toInt y) rfl rfl]
  split
  · rfl
  split
  next h => rw [h.1, h.2]; rfl
  · rfl
theorem remS_eq : remS x y = if y.toInt = 0 then x else BitVec.ofInt 64 (x.toInt.tmod y.toInt) := by
  unfold remS
  rw [if_congr (eq_zero_iff_toInt y) rfl rfl]
  split
  · rfl
  split
  next h => rw [h.1, h.2]; rfl
  · rfl
theorem divU_eq : divU x y = if y.toNat = 0 then BitVec.ofNat 64 (2 ^ 64 - 1) else BitVec.ofNat 64 (x.toNat / y.toNat) :=
  if_congr (eq_zero_iff_toNat y) rfl rfl
theorem remU_eq : remU x y = if y.toNat = 0 then x else BitVec.ofNat 64 (x.toNat % y.toNat) :=
  if_congr (eq_zero_iff_toNat y) rfl rfl

theorem minS_eq : (if x.sle y then x else y) = BitVec.ofInt 64 (min x.toInt y.toInt) := by
  simp only [BitVec.sle, decide_eq_true_eq]
  rw [min_def]
  split <;> simp
theorem maxS_eq : (if x.sle y then y else x) = BitVec.ofInt 64 (max x.toInt y.toInt) := by
  simp only [BitVec.sle, decide_eq_true_eq]
  rw [max_def]
  split <;> simp
theorem minU_eq : (if x.ule y then x else y) = BitVec.ofNat 64 (min x.toNat y.toNat) := by
  simp only [BitVec.ule, decide_eq_true_eq]
  rw [min_def]
  split <;> simp
theorem maxU_eq : (if x.ule y then y else x) = BitVec.ofNat 64 (max x.toNat y.toNat) := by
  simp only [BitVec.ule, decide_eq_true_eq]
  rw [max_def]
  split <;> simp

theorem satI64_eq (z : Int) : satI64 z = BitVec.ofInt 64 (max (-(2 ^ 63)) (min (2 ^ 63 - 1) z)) := by
  unfold satI64
  split
  · rw [show max (-(2 ^ 63)) (min (2 ^ 63 - 1) z) = -(2 ^ 63 : Int) by omega]
    rfl
  split
  · rw [show max (-(2 ^ 63)) (min (2 ^ 63 - 1) z) = (2 ^ 63 - 1 : Int) by omega]
    rfl
  · rw [show max (-(2 ^ 63)) (min (2 ^ 63 - 1) z) = z by omega]

theorem popCount_eq (k m : Nat) : popCount k m = (List.range k).countP fun i => m.testBit i := by
  induction k generalizing m with
  | zero => rfl
  | succ k ih =>
    rw [popCount, ih, List.range_succ_eq_map, List.countP_cons, List.countP_map]
    simp only [Function.comp_def, Nat.succ_eq_add_one, Nat.testBit_succ, Nat.testBit_zero]
    rcases Nat.mod_two_eq_zero_or_one m with h | h <;> simp [h, Nat.add_comm]

theorem trailZeros_spec (k m : Nat) : trailZeros k m ≤ k ∧ m % 2 ^ trailZeros k m = 0 ∧ (trailZeros k m < k → m.testBit (trailZeros k m) = true) := by
  induction k generalizing m with
  | zero => simp [trailZeros, Nat.mod_one]
  | succ k ih =>
    rw [trailZeros]
    split
    next h => simp [Nat.mod_one, h]
    · obtain ⟨h1, h2, h3⟩ := ih (m / 2)
      refine ⟨by omega, ?_, fun h => ?_⟩
      · rw [Nat.pow_succ', Nat.mod_mul, h2]
        omega
      · rw [Nat.testBit_succ]
        exact h3 (by omega)

theorem leadZeros_spec (m : Nat) (hm : m < 2 ^ 64) :
    leadZeros 64 m ≤ 64 ∧ m < 2 ^ (64 - leadZeros 64 m) ∧ (leadZeros 64 m < 64 → 2 ^ (63 - leadZeros 64 m) ≤ m) := by
  unfold leadZeros
  rw [Nat.mod_eq_of_lt hm]
  split
  next h => simp [h]
  next h =>
    have hl := (Nat.log2_lt h).mpr hm
    refine ⟨by omega, ?_, fun _ => ?_⟩
    · rw [show 64 - (64 - 1 - m.log2) = m.log2 + 1 by omega]
      exact Nat.lt_log2_self
    · rw [show 63 - (64 - 1 - m.log2) = m.log2 by omega]
      exact Nat.log2_self_le h
end

/-- Settles O1: each row's result is its word operation, in numbers. -/
theorem registerArithmetic : Obligations.RegisterArithmetic := by
  intro s d a b f g x y n
  have hn : n < 64 := Nat.mod_lt _ (by decide)
  refine ⟨rfl, rfl, rfl, rfl, rfl, rfl, ?_⟩
  refine ⟨State.retireS_of_eq (shiftLeft_eq_ofNat _ _), State.retireS_of_eq (ushiftRight_eq_ofNat _ _),
    State.retireS_of_eq (sshiftRight_eq_ofInt _ _), State.retireS_of_eq (rotateRight_eq_or _ _ hn), ?_⟩
  refine ⟨State.retireS_of_eq (mul_eq_ofNat _ _), rfl, rfl, State.retireS_of_eq (divS_eq _ _), State.retireS_of_eq (divU_eq _ _),
    State.retireS_of_eq (remS_eq _ _), State.retireS_of_eq (remU_eq _ _), ?_⟩
  refine ⟨State.retireS_of_eq (minS_eq _ _), State.retireS_of_eq (maxS_eq _ _), State.retireS_of_eq (minU_eq _ _), State.retireS_of_eq (maxU_eq _ _),
    State.retireS_of_eq (satI64_eq _), State.retireS_of_eq (satI64_eq _), ?_⟩
  refine ⟨⟨_, rfl, leadZeros_spec _ x.isLt⟩, ⟨_, rfl, trailZeros_spec 64 _⟩, State.retireS_of_eq (congrArg _ (popCount_eq 64 _)), ?_⟩
  refine ⟨State.retireS_of_eq ?_, State.retireS_of_eq ?_, State.retireS_of_eq ?_, State.retireS_of_eq ?_, rfl, rfl⟩
  · exact congrArg _ (BitVec.setWidth_eq_extractLsb' (by decide)).symm
  · exact congrArg _ (BitVec.setWidth_eq_extractLsb' (by decide)).symm
  · exact congrArg _ (BitVec.setWidth_eq_extractLsb' (by decide)).symm
  · exact BitVec.eq_of_toNat_eq (by simp [zext, State.rs, x])

theorem mul_eq_ofInt (x y : Word) : x * y = BitVec.ofInt 64 (x.toInt * y.toInt) := by
  rw [BitVec.ofInt_mul, BitVec.ofInt_toInt, BitVec.ofInt_toInt]

theorem zext_eq_ofNat {k : Nat} (i : BitVec k) : zext i = BitVec.ofNat 64 i.toNat := BitVec.eq_of_toNat_eq (by simp [zext])

theorem lih_eq (x : Word) (i : BitVec 16) : x &&& (0xFFFF : Word) ||| zext i <<< 16 = BitVec.ofNat 64 (x.toNat % 2 ^ 16 + i.toNat * 2 ^ 16) := by
  refine BitVec.eq_of_toNat_eq ?_
  have hl : (x &&& (0xFFFF : Word)).toNat = x.toNat % 2 ^ 16 := Nat.and_two_pow_sub_one_eq_mod x.toNat 16
  have hi : i.toNat * 2 ^ 16 < 2 ^ 64 := by omega
  have hh : (zext i <<< 16).toNat = 2 ^ 16 * i.toNat := by
    rw [zext_eq_ofNat, BitVec.toNat_shiftLeft, BitVec.toNat_ofNat, Nat.shiftLeft_eq]
    omega
  rw [BitVec.toNat_or, hl, hh, Nat.or_comm, ← Nat.two_pow_add_eq_or_of_lt (Nat.mod_lt _ (by decide)), BitVec.toNat_ofNat]
  omega

/-- Settles O2: as O1, with the immediate extended as its row says. -/
theorem immediateArithmetic : Obligations.ImmediateArithmetic := by
  intro s d a i h x
  refine ⟨rfl, State.retireS_of_eq ?_, State.retireS_of_eq ?_, State.retireS_of_eq ?_, State.retireS_of_eq ?_, ?_⟩
  · exact congrArg _ (zext_eq_ofNat i)
  · exact congrArg _ (zext_eq_ofNat i)
  · exact congrArg _ (zext_eq_ofNat i)
  · refine (mul_eq_ofInt _ _).trans ?_
    rw [sext, BitVec.toInt_signExtend_of_le (by decide)]
    rfl
  · refine ⟨State.retireS_of_eq (shiftLeft_eq_ofNat _ _), State.retireS_of_eq (ushiftRight_eq_ofNat _ _),
      State.retireS_of_eq (sshiftRight_eq_ofInt _ _), State.retireS_of_eq (rotateRight_eq_or _ _ h.isLt),
      State.retireS_of_eq (zext_eq_ofNat i), State.retireS_of_eq (lih_eq _ i)⟩

end Sys2Proof.Machine
end

section
/-! ## O3, O4: transfers, flags and votes -/
namespace Sys2Proof.Machine

theorem State.trapWith_eq (s : State) (c : Nat) (d : Word) : s.trapWith c d = .next (s.trapped c d) := rfl

theorem State.stallHere_eq (s : State) : s.stallHere = .next s.stalled := rfl

theorem setS_pc (c : Ctx) (r : Nat) (v : Word) : (c.setS r v).pc = c.pc := by
  unfold Ctx.setS
  split <;> rfl
theorem setS_pslots (c : Ctx) (r : Nat) (v : Word) : (c.setS r v).pslots = c.pslots := by
  unfold Ctx.setS
  split <;> rfl
theorem setS_npc (c : Ctx) (r : Nat) (v : Word) : (c.setS r v).npc = c.npc := by
  unfold Ctx.setS
  split <;> rfl

section
variable {s : State} {take : Bool} {tgt : Word} {link : Option (BitVec 5)}

theorem State.transfer_inSlot (h : s.cx.pslots ≠ 0) : s.transfer take tgt link = .next (s.trapped 1 0) :=
  if_pos (decide_eq_true h)

theorem State.inSlot_eq_false (h : s.cx.pslots = 0) : ¬ s.inSlot = true := by simp [State.inSlot, h]

theorem State.transfer_misaligned (h : s.cx.pslots = 0) (ht : take = true) (ha : tgt.toNat % 4 ≠ 0) :
    s.transfer take tgt link = .next (s.trapped 3 tgt) :=
  (if_neg (State.inSlot_eq_false h)).trans (if_pos ⟨ht, by simpa [aligned] using ha⟩)

theorem State.transfer_branches (h : s.cx.pslots = 0) (ha : take = true → tgt.toNat % 4 = 0) :
    s.transfer take tgt link = .next (branched s link take tgt) := by
  have hm : ¬ (take = true ∧ (!aligned tgt 4) = true) := fun hm => by simp [aligned, ha hm.1] at hm
  unfold State.transfer branched
  rw [if_neg (State.inSlot_eq_false h), if_neg hm]
  cases link with
  | none => rfl
  | some r => simp only [setS_pc]
end

/-! ### The five forms of XFER are one transfer -/

section
variable (s : State) (b f : BitVec 3) (n a : BitVec 1) (t : BitVec 5)

theorem exec_xfer : exec (.xfer b f) s = s.transfer (s.cx.flag f.toNat) (s.cx.breg b.toNat) none := rfl
theorem exec_xferN : exec (.xferN b f) s = s.transfer (!s.cx.flag f.toNat) (s.cx.breg b.toNat) none := rfl
theorem exec_xferA : exec (.xferA b) s = s.transfer true (s.cx.breg b.toNat) none := rfl
theorem exec_xferL : exec (.xferL b f n a t) s = s.transfer (a == 1 || (s.cx.flag f.toNat != (n == 1))) (s.cx.breg b.toNat) (some t) := rfl
theorem exec_xferR : exec (.xferR f n a t) s = s.transfer (a == 1 || (s.cx.flag f.toNat != (n == 1))) (s.cx.sreg t.toNat) none := rfl
end

theorem wrote_cx (s : State) (d : BitVec 5) (v : Word) : (s.wrote d v).cx = (s.cx.setS d.toNat v).advance := State.cx_setCx ..

/-- R165: what the advance of a word that writes rd makes of the PC and the delay slots. -/
theorem wrote_advance (s : State) (d : BitVec 5) (v : Word) :
    (s.cx.pslots = 2 → (s.wrote d v).cx.pc = s.cx.pc + 4 ∧ (s.wrote d v).cx.pslots = 1 ∧ (s.wrote d v).cx.npc = s.cx.npc)
    ∧ (s.cx.pslots = 1 → (s.wrote d v).cx.pc = s.cx.npc ∧ (s.wrote d v).cx.pslots = 0)
    ∧ (s.cx.pslots = 0 → (s.wrote d v).cx.pc = s.cx.pc + 4 ∧ (s.wrote d v).cx.pslots = 0) := by
  rw [wrote_cx]
  refine ⟨fun h => ?_, fun h => ?_, fun h => ?_⟩ <;> simp [Ctx.advance, setS_pc, setS_pslots, setS_npc, h]

/-- Settles O3: the transfers are the three branches of `State.transfer`. -/
theorem transfersOfControl : Obligations.TransfersOfControl := by
  refine ⟨?_, ?_, ?_⟩
  · intro s b f o n a t fl take tb tr
    rw [exec_xfer, exec_xferN, exec_xferA, exec_xferL, exec_xferR]
    exact ⟨exec_prep s b o, State.transfer_branches, fun h ha => State.transfer_branches h fun hn => ha (by simpa using hn),
      fun h ha => State.transfer_branches h fun _ => ha, State.transfer_branches, State.transfer_branches⟩
  · intro s b f n a t fl take tb tr
    rw [exec_xfer, exec_xferN, exec_xferA, exec_xferL, exec_xferR]
    exact ⟨fun h => ⟨State.transfer_inSlot h, State.transfer_inSlot h, State.transfer_inSlot h, State.transfer_inSlot h, State.transfer_inSlot h⟩,
      fun h ha => ⟨fun hf => State.transfer_misaligned h hf ha, fun hf => State.transfer_misaligned h (by simpa using hf) ha,
        State.transfer_misaligned h rfl ha, fun ht => State.transfer_misaligned h ht ha⟩, fun h ha ht => State.transfer_misaligned h ht ha⟩
  · intro s d a b t h
    rw [show exec (.add d a b) s = .next (s.wrote d _) from State.retireS_eq ..] at h
    injection h with h
    exact h ▸ wrote_advance ..

theorem condHolds_eq (c : BitVec 4) (x y : Word) : condHolds c.toNat x y = condOf c x y := by
  unfold condOf
  split
  case h_11 => simp_all [condHolds]
  all_goals
    next h =>
      rw [h]
      rfl

theorem VecCtx.pred_getLsbD (v : VecCtx) (p : BitVec 3) (i : Nat) :
    (v.pred p.toNat).getLsbD i = (decide (i < 1024) && (p == 0 || (Tbl.get v.p 0 p.toNat).getLsbD i)) := by
  unfold VecCtx.pred
  by_cases hp : p = 0
  · rw [if_pos (by simp [hp]), BitVec.getLsbD_allOnes]
    simp [hp]
  · rw [if_neg fun h : p.toNat = 0 => hp (BitVec.eq_of_toNat_eq h)]
    rw [beq_eq_false_iff_ne.mpr hp, Bool.false_or]
    by_cases hi : i < 1024
    · rw [decide_eq_true hi, Bool.true_and]
    · rw [BitVec.getLsbD_of_ge _ _ (Nat.le_of_not_lt hi), Bool.and_false]

section
variable {s : State} (f p : BitVec 3) (all : Bool) (h : s.ctx < 4)
include h

theorem State.vote_idle (hq : (s.engOf s.core s.ctx).queue = []) (hr : (s.engOf s.core s.ctx).run = none) :
    s.vote f p all = .next (s.flagged f (if all then
        (List.range (vsLen (s.vecOf s.core s.ctx).vshape)).all fun i => ((s.vecOf s.core s.ctx).pred p.toNat).getLsbD i
      else (List.range (vsLen (s.vecOf s.core s.ctx).vshape)).any fun i => ((s.vecOf s.core s.ctx).pred p.toNat).getLsbD i)) := by
  unfold State.vote
  rw [if_neg (by simp only [Config.fwCtx]; omega)]
  simp only [hq, hr, List.isEmpty_nil, Bool.not_true, Option.isSome_none, Bool.false_eq_true, or_self, if_false, List.all_map, List.any_map,
    Function.comp_def, id]
  rfl

theorem State.vote_busy (hb : (s.engOf s.core s.ctx).queue ≠ [] ∨ (s.engOf s.core s.ctx).run.isSome = true) : s.vote f p all = .next s.stalled := by
  unfold State.vote
  rw [if_neg (by simp only [Config.fwCtx]; omega)]
  exact if_pos (by simpa using hb)
end

/-- Settles O4: the condition codes case by case, and a vote by whether its vector context is idle. -/
theorem flagsAndVotes : Obligations.FlagsAndVotes := by
  refine ⟨?_, ?_⟩
  · intro s d p q c a b i v x fp fq
    exact ⟨congrArg (fun v => Host.Outcome.next (s.flagged d v)) (condHolds_eq ..), congrArg (fun v => Host.Outcome.next (s.flagged d v)) (condHolds_eq ..),
      rfl, rfl, rfl, rfl, rfl, rfl⟩
  · intro s f p h e v bit n
    have hb : (fun i => (v.pred p.toNat).getLsbD i) = bit := funext (v.pred_getLsbD p)
    refine ⟨fun hq hr => ?_, fun hq hr => ?_, fun hb => ⟨State.vote_busy f p _ h hb, State.vote_busy f p _ h hb⟩⟩
    · exact (State.vote_idle f p false h hq hr).trans (by rw [← hb]; rfl)
    · exact (State.vote_idle f p true h hq hr).trans (by rw [← hb]; rfl)
end Sys2Proof.Machine
end

section
/-! ## O8: the checks of an access, and the words that make it -/
namespace Sys2Proof.Machine

/-! ### Translation, refusal by refusal (R65) -/

/-- What makes translation answer OUTSIDE: an index beyond the table, an invalid entry, a class that does not take the operation, or a missing RD or EX. -/
abbrev Table.Outside (t : Table) (va : Word) (k : Kind) (op : GOp) : Prop :=
  let i := va.toNat / 2 ^ granLog t
  let e := Tbl.get t.entries 0 i
  32768 ≤ i ∨ t.valid = false ∨ entV e = false ∨ classMismatch op (entClass e) = true
    ∨ ((k = .read ∨ k = .rmw) ∧ entRd e = false) ∨ (k = .fetch ∧ entEx e = false)

theorem entClass_eq (e : BitVec 32) : entClass e = e.toNat / 64 % 4 := by simp [entClass, Nat.shiftRight_eq_div_pow]
theorem entFrame_eq (e : BitVec 32) : entFrame e = e.toNat / 4096 := by
  simp [entFrame, Nat.shiftRight_eq_div_pow]
  omega

theorem xlate_eq (t : Table) (va : Word) (k : Kind) (op : GOp) {e : BitVec 32} (he : Tbl.get t.entries 0 (va.toNat / 2 ^ granLog t) = e) :
    xlate t va k op = if t.Outside va k op then failWith 4 va
      else if entRes e = false then failWith 5 va
      else if (k = .write ∨ k = .rmw) ∧ entWr e = false then failWith 7 va
      else if (k = .write ∨ k = .rmw) ∧ entCow e = true then failWith 6 va
      else .ok { pa := e.toNat / 4096 * 2 ^ 21 + va.toNat % 2 ^ granLog t, cls := e.toNat / 64 % 4, frame := e.toNat / 4096, off := va.toNat % 2 ^ granLog t } := by
  rw [← entFrame_eq, ← entClass_eq]
  subst he
  unfold xlate
  simp only [← ite_or, Bool.not_eq_true', Bool.or_eq_true, or_assoc]
  rfl

/-! ### An access of a control-core word, by its first check -/

section
variable {a : Word} {n : Nat} {x y : Out}

theorem ite_aligned (h : a.toNat % n = 0) : (if !aligned a n then x else y) = y := if_neg (by simp [aligned, h])
theorem not_decide {p : Prop} [Decidable p] (h : ¬ p) : (!decide p) = true := by rw [decide_eq_false h, Bool.not_false]
theorem ite_misaligned (h : a.toNat % n ≠ 0) : (if !aligned a n then x else y) = x := if_pos (by simp [aligned, h])
end

section
variable {s : State} {d b : BitVec 5} {z : BitVec 2} {o : BitVec 14}

section
variable (h : (addrM s b z o).toNat % 2 ^ z.toNat ≠ 0)
include h
theorem exec_ld_misaligned : exec (.ld d b z o) s = .next (s.trapped 3 (addrM s b z o)) := ite_misaligned h
theorem exec_st_misaligned : exec (.st d b z o) s = .next (s.trapped 3 (addrM s b z o)) := ite_misaligned h
theorem exec_ldl_misaligned : exec (.ldl d b z o) s = .next (s.trapped 3 (addrM s b z o)) := ite_misaligned h
theorem exec_stl_misaligned : exec (.stl d b z o) s = .next (s.trapped 3 (addrM s b z o)) := ite_misaligned h
theorem exec_lda_misaligned : exec (.lda d b z o) s = .next (s.trapped 3 (addrM s b z o)) := ite_misaligned h
theorem exec_sta_misaligned : exec (.sta d b z o) s = .next (s.trapped 3 (addrM s b z o)) := ite_misaligned h
end

section
variable (h : (addrM s b z o).toNat % 2 ^ z.toNat = 0)
include h

theorem exec_ld_of_error {e : Tr} (hl : s.loadG s.core s.ctx (addrM s b z o) (2 ^ z.toNat) = .error e) :
    exec (.ld d b z o) s = .next (s.takeTrap s.core s.ctx e) := by
  refine (ite_aligned h).trans ?_
  rw [show s.loadG s.core s.ctx (s.effAddr b z o) (sizeBytes z) = .error e from hl]
  rfl
theorem exec_ld_of_waiting {t : State} (hl : s.loadG s.core s.ctx (addrM s b z o) (2 ^ z.toNat) = .ok (.waiting t)) :
    exec (.ld d b z o) s = .next t := by
  refine (ite_aligned h).trans ?_
  rw [show s.loadG s.core s.ctx (s.effAddr b z o) (sizeBytes z) = .ok (.waiting t) from hl]
  rfl
theorem exec_ld_of_value {v : Nat} {t : State} (hl : s.loadG s.core s.ctx (addrM s b z o) (2 ^ z.toNat) = .ok (.value v t)) :
    exec (.ld d b z o) s = .next (t.wrote d (BitVec.ofNat 64 v)) := by
  refine (ite_aligned h).trans ?_
  rw [show s.loadG s.core s.ctx (s.effAddr b z o) (sizeBytes z) = .ok (.value v t) from hl]
  rfl
theorem exec_st_of_error {e : Tr} (hl : s.storeG s.core s.ctx (addrM s b z o) (2 ^ z.toNat) ((s.cx.sreg d.toNat).toNat % 256 ^ 2 ^ z.toNat) = .error e) :
    exec (.st d b z o) s = .next (s.takeTrap s.core s.ctx e) := by
  refine (ite_aligned h).trans ?_
  rw [show s.storeG s.core s.ctx (s.effAddr b z o) (sizeBytes z) (lowBytes (s.rs d) (sizeBytes z)) = .error e from hl]
  rfl
theorem exec_st_of_ok {t : State} (hl : s.storeG s.core s.ctx (addrM s b z o) (2 ^ z.toNat) ((s.cx.sreg d.toNat).toNat % 256 ^ 2 ^ z.toNat) = .ok t) :
    exec (.st d b z o) s = .next t.retired := by
  refine (ite_aligned h).trans ?_
  rw [show s.storeG s.core s.ctx (s.effAddr b z o) (sizeBytes z) (lowBytes (s.rs d) (sizeBytes z)) = .ok t from hl]
  rfl

theorem exec_ldl_outside (hr : 65536 < (addrM s b z o).toNat + 2 ^ z.toNat) : exec (.ldl d b z o) s = .next (s.trapped 4 (addrM s b z o)) :=
  (ite_aligned h).trans (if_pos (not_decide (Nat.not_le.mpr hr)))
theorem exec_stl_outside (hr : 65536 < (addrM s b z o).toNat + 2 ^ z.toNat) : exec (.stl d b z o) s = .next (s.trapped 4 (addrM s b z o)) :=
  (ite_aligned h).trans (if_pos (not_decide (Nat.not_le.mpr hr)))
theorem exec_lda_outside (hr : s.cx.asize < (addrM s b z o).toNat + 2 ^ z.toNat) : exec (.lda d b z o) s = .next (s.trapped 4 (addrM s b z o)) :=
  (ite_aligned h).trans (if_pos (not_decide (Nat.not_le.mpr hr)))
theorem exec_sta_outside (hr : s.cx.asize < (addrM s b z o).toNat + 2 ^ z.toNat) : exec (.sta d b z o) s = .next (s.trapped 4 (addrM s b z o)) :=
  (ite_aligned h).trans (if_pos (not_decide (Nat.not_le.mpr hr)))
end
end

section
variable (s : State) (d b : BitVec 5) (o : BitVec 14) (nowait : Bool)

theorem ldcWith_misaligned (h : (s.cx.sreg b.toNat + o.signExtend 64 * 4).toNat % 4 ≠ 0) :
    s.ldcWith d b o nowait = .next (s.trapped 3 (s.cx.sreg b.toNat + o.signExtend 64 * 4)) := ite_misaligned h
theorem ldcWith_outside (h : (s.cx.sreg b.toNat + o.signExtend 64 * 4).toNat % 4 = 0) (hr : 2 ^ 23 < (s.cx.sreg b.toNat + o.signExtend 64 * 4).toNat + 4) :
    s.ldcWith d b o nowait = .next (s.trapped 4 (s.cx.sreg b.toNat + o.signExtend 64 * 4)) :=
  (ite_aligned h).trans (if_pos (not_decide (Nat.not_le.mpr hr)))
end

/-! ### Accesses of G, by their translation -/

section
variable {s : State} {core ctx : Nat} {va : Word} {n v : Nat}

theorem loadG_of_error {e : Tr} (h : s.translate core ctx va .read .plain = .error e) : s.loadG core ctx va n = .error e := by
  rw [State.loadG, h]
theorem storeG_of_error {e : Tr} (h : s.translate core ctx va .write .plain = .error e) : s.storeG core ctx va n v = .error e := by
  rw [State.storeG, h]

theorem storeG_of_refused {e : Tr} {x : Xl} (hc : ctx < 4) (h : s.translate core ctx va .write .plain = .ok x) (hx : x.cls ≠ 2)
    (ha : s.accessCheck (s.vfOf core ctx) x.pa n va = .error e) : s.storeG core ctx va n v = .error e := by
  have hf : ctx ≠ Config.fwCtx := Nat.ne_of_lt hc
  simp [State.storeG, h, hf, Xl.remote, hx, ha]

/-- The first line of an access is held to its owner first (R65). -/
theorem accessCheck_owner {req pa : Nat} (hn : 0 < n) (ho : ownerMatches req (s.frameRec (pa / 2 ^ 21)).owner = false) :
    s.accessCheck req pa n va = failWith 8 va := by
  have hline : s.lineCheck req (pa / 64 * 64) = some 8 := by
    have hfr : frameOf (pa / 64 * 64) = pa / 2 ^ 21 := by
      unfold frameOf
      omega
    unfold State.lineCheck
    simp only [hfr, ho, Bool.not_false, if_true]
    split <;> rfl
  have hl : linesOf pa n = pa / 64 * 64 :: ((List.range ((pa + n - 1) / 64 - pa / 64)).map fun i => (pa / 64 + (i + 1)) * 64) := by
    unfold linesOf
    rw [if_neg (by omega), List.range_succ_eq_map, List.map_cons, List.map_map]
    rfl
  rw [State.accessCheck, hl, List.filterMap_cons_some hline]
end

/-- Settles O8: translation by `xlate_eq`, and the words' checks in the order their meanings make them. -/
theorem accessChecks : Obligations.AccessChecks := by
  refine ⟨?_, ?_⟩
  · intro t va k op g i e bad write
    have hx := xlate_eq t va k op (e := e) rfl
    have hb : t.Outside va k op ↔ bad := by
      simp only [Table.Outside, entClass_eq]
      rfl
    refine ⟨fun h => hx.trans (if_pos (hb.mpr h)), fun h hr => ?_, fun h hr hw hp => ?_, fun h hr hw hp hc => ?_, fun h hr hw => ?_⟩
    all_goals rw [hx, if_neg (fun hn => h (hb.mp hn))]
    · exact if_pos hr
    all_goals rw [if_neg (show ¬ entRes e = false from Bool.not_eq_false _ ▸ hr)]
    · exact if_pos ⟨hw, hp⟩
    · rw [if_neg fun hn : write ∧ entWr e = false => Bool.noConfusion (hn.2.symm.trans hp)]
      exact if_pos ⟨hw, hc⟩
    · rw [if_neg fun hn : write ∧ entWr e = false => Bool.noConfusion (hn.2.symm.trans (hw hn.1).1),
        if_neg fun hn : write ∧ entCow e = true => Bool.noConfusion (hn.2.symm.trans (hw hn.1).2)]
      rfl
  · intro s d b z o n a c
    have hn : 0 < n := Nat.two_pow_pos _
    refine ⟨fun h => ⟨exec_ld_misaligned h, exec_st_misaligned h, exec_ldl_misaligned h, exec_stl_misaligned h, exec_lda_misaligned h,
        exec_sta_misaligned h⟩, fun h => ⟨ldcWith_misaligned s d b o _ h, ldcWith_misaligned s d b o _ h⟩,
      fun h hr => ⟨exec_ldl_outside h hr, exec_stl_outside h hr⟩, fun h hr => ⟨exec_lda_outside h hr, exec_sta_outside h hr⟩,
      fun h hr => ⟨ldcWith_outside s d b o _ h hr, ldcWith_outside s d b o _ h hr⟩, fun h e he => exec_ld_of_error h (loadG_of_error he),
      fun h e he => exec_st_of_error h (storeG_of_error he), fun h hc x hx hcls => ⟨fun e he => ?_, fun ho => ?_⟩⟩
    · exact exec_st_of_error h (storeG_of_refused hc hx hcls he)
    · exact exec_st_of_error h (storeG_of_refused hc hx hcls (accessCheck_owner hn ho))
end Sys2Proof.Machine
end

section
/-! ## O5: a load of G -/
namespace Sys2Proof.Machine

/-! ### Registers and frames of a word that writes rd -/

theorem Ctx.advance_shape (c : Ctx) : ∃ pc ps, c.advance = { c with pc := pc, pslots := ps, stall := 0 } := by
  unfold Ctx.advance
  split
  next h => exact ⟨_, _, by rw [h]⟩
  split
  · exact ⟨_, _, rfl⟩
  · exact ⟨_, _, rfl⟩

theorem Ctx.setS_shape (c : Ctx) (r : Nat) (v : Word) : ∃ l, c.setS r v = { c with s := l } := by
  unfold Ctx.setS
  split
  · exact ⟨_, rfl⟩
  · exact ⟨_, rfl⟩

@[simp] theorem Ctx.advance_sreg (c : Ctx) (r : Nat) : c.advance.sreg r = c.sreg r := by
  obtain ⟨pc, ps, h⟩ := c.advance_shape
  rw [h]
  rfl

/-- A word that writes rd changes that register, the PC and the stall count of its context. -/
theorem Ctx.sameBut_setS_advance (c : Ctx) (d : BitVec 5) (v : Word) : Ctx.SameBut c (c.setS d.toNat v).advance [d.toNat] [] [] := by
  have hs : ∀ r, r ∉ [d.toNat] → (c.setS d.toNat v).advance.sreg r = c.sreg r := fun r hr => by
    rw [Ctx.advance_sreg, Ctx.sreg_setS, if_neg fun h => hr (by simp [h.1])]
  obtain ⟨pc, ps, ha⟩ := (c.setS d.toNat v).advance_shape
  obtain ⟨l, hl⟩ := c.setS_shape d.toNat v
  rw [ha, hl] at hs ⊢
  exact ⟨hs, by simp [Ctx.breg, Ctx.flag]⟩

theorem Ctx.setS_advance_sreg (c : Ctx) (d : BitVec 5) (v : Word) :
    (c.setS d.toNat v).advance.sreg d.toNat = if d = 0 then 0 else v := by
  rw [Ctx.advance_sreg, Ctx.sreg_setS]
  by_cases h : d = 0
  · simp [h, Ctx.sreg]
  · rw [if_pos ⟨rfl, fun e => h (BitVec.eq_of_toNat_eq e)⟩, if_neg h]

theorem Ctx.setS_advance_pc (c : Ctx) (r : Nat) (v : Word) : (c.setS r v).advance.pc = c.advance.pc := by
  unfold Ctx.advance
  rw [setS_pslots, setS_pc, setS_npc]
  split_ifs <;> rfl

theorem State.SameElse.setCx {s t : State} (h : State.SameElse s t) (c : Ctx) : State.SameElse s (t.setCx c) := by
  obtain ⟨hk, h2, h3⟩ := h
  refine ⟨fun k hne => ?_, h2, h3⟩
  have hkey : k ≠ t.core * 8 + t.ctx := by rw [h2.1, h2.2.1]; exact hne
  exact (Tbl.get_set_ne t.ctxs {} c hkey).trans (hk k hne)

theorem State.wrote_setCx (s : State) (c : Ctx) (d : BitVec 5) (v : Word) : (s.setCx c).wrote d v = s.setCx (c.setS d.toNat v).advance := by
  unfold State.wrote
  rw [State.cx_setCx, State.setCx_setCx]

theorem State.setCx_cx_wrote (s : State) (d : BitVec 5) (v : Word) : (s.setCx s.cx).wrote d v = s.wrote d v := s.wrote_setCx s.cx d v

theorem leNat_congr {f g : Nat → Byte} {n : Nat} (h : ∀ i < n, f i = g i) : leNat f n = leNat g n := by
  unfold leNat
  refine List.foldr_ext _ _ _ fun i hi a => ?_
  rw [h i (List.mem_range.mp hi)]

/-! ### The lot view, and what a read keeps of it -/

/-- The reads that a context has noted are no part of what the rest of its state is. -/
def Ctx.NotedFrom (c d : Ctx) : Prop := ∃ m v, d = { c with seen := m, vseen := v }

theorem Ctx.NotedFrom.refl (c : Ctx) : c.NotedFrom c := ⟨_, _, rfl⟩
theorem Ctx.NotedFrom.trans {c d e : Ctx} (h : c.NotedFrom d) (h' : d.NotedFrom e) : c.NotedFrom e := by
  obtain ⟨m, v, rfl⟩ := h
  obtain ⟨m', v', rfl⟩ := h'
  exact ⟨m', v', rfl⟩

theorem Ctx.NotedFrom.sameBut {c d e : Ctx} {rs bs fs : List Nat} (h : c.NotedFrom d) (hd : d.SameBut e rs bs fs) : c.SameBut e rs bs fs := by
  obtain ⟨m, v, rfl⟩ := h
  exact hd

theorem Ctx.NotedFrom.advance_pc {c d : Ctx} (h : c.NotedFrom d) : d.advance.pc = c.advance.pc := by
  obtain ⟨m, v, rfl⟩ := h
  unfold Ctx.advance
  (repeat' split) <;> rfl

section
variable (c : Ctx) (p : Nat) (b : Byte)

theorem Ctx.noteRead_notedFrom : c.NotedFrom (c.noteRead p b) := by
  unfold Ctx.noteRead
  split
  · exact .refl c
  · exact ⟨_, _, rfl⟩

theorem Ctx.hasByte_noteRead (q : Nat) : (c.noteRead p b).hasByte q = (c.hasByte q || decide (q = p)) := by
  unfold Ctx.noteRead
  split
  next h =>
    by_cases hq : q = p
    · rw [hq, h]
      simp
    · simp [hq]
  next h =>
    simp only [Ctx.hasByte, Ctx.combAt, Tbl.find?_set]
    by_cases hq : q = p <;> simp [hq]

variable (s : State) (f : Comb → Nat)

/-- The lot view of a byte, by the layers that may hold it. -/
theorem State.lotByte_seen (m v : Tbl Byte) {q : Nat}
    (h : (Tbl.find? c.held q).isSome = true ∨ (c.combAt q).isSome = true ∨ Tbl.find? m q = Tbl.find? c.seen q) :
    s.lotByte { c with seen := m, vseen := v } f q = s.lotByte c f q := by
  have hc : ({ c with seen := m, vseen := v } : Ctx).combAt q = c.combAt q := rfl
  unfold State.lotByte
  rw [hc]
  cases h1 : Tbl.find? c.held q with
  | some b => rfl
  | none =>
    cases h2 : c.combAt q with
    | some k => rfl
    | none => simp [show Tbl.find? m q = Tbl.find? c.seen q by simpa [h1, h2] using h]

theorem State.lotByte_noteRead_of_hasByte {q : Nat} (h : c.hasByte q = true ∨ q ≠ p) : s.lotByte (c.noteRead p b) f q = s.lotByte c f q := by
  unfold Ctx.noteRead
  split
  · rfl
  next hp =>
    refine s.lotByte_seen c f _ _ ?_
    by_cases e : q = p
    · exact absurd (e ▸ h.resolve_right (· e)) hp
    · exact .inr (.inr (Tbl.find?_set_ne _ _ e))

theorem State.lotByte_noteRead_new (h : c.hasByte p = false) : s.lotByte (c.noteRead p b) f p = b := by
  unfold Ctx.noteRead
  rw [if_neg (by simp [h])]
  simp only [Ctx.hasByte, Bool.or_eq_false_iff, Option.isSome_eq_false_iff, Option.isNone_iff_eq_none] at h
  have hc (m v : Tbl Byte) : ({ c with seen := m, vseen := v } : Ctx).combAt p = none := h.1.2
  simp [State.lotByte, h.1.1, hc]
end

/-! ### A run of reads -/

/-- The context after it has noted the n bytes from k on, of which it keeps those it has already. -/
def Ctx.noteAll (c : Ctx) (k n : Nat) (b : Nat → Byte) : Ctx := (List.range n).foldl (fun c i => c.noteRead (k + i) (b i)) c

section
variable (s : State) (c : Ctx) (f : Comb → Nat) (k n : Nat) (b : Nat → Byte)

theorem Ctx.noteAll_succ : c.noteAll k (n + 1) b = (c.noteAll k n b).noteRead (k + n) (b n) := by
  simp [Ctx.noteAll, List.range_succ]

theorem Ctx.noteAll_notedFrom : c.NotedFrom (c.noteAll k n b) := by
  induction n with
  | zero => exact .refl c
  | succ n ih => exact c.noteAll_succ k n b ▸ ih.trans ((c.noteAll k n b).noteRead_notedFrom _ _)

theorem Ctx.hasByte_noteAll (q : Nat) : (c.noteAll k n b).hasByte q = true ↔ c.hasByte q = true ∨ (k ≤ q ∧ q < k + n) := by
  induction n with
  | zero => exact ⟨.inl, fun h => h.elim id fun h => by omega⟩
  | succ n ih =>
    rw [Ctx.noteAll_succ, Ctx.hasByte_noteRead, Bool.or_eq_true, ih, decide_eq_true_iff]
    constructor
    · rintro ((h | h) | h)
      · exact .inl h
      · exact .inr (by omega)
      · exact .inr (by omega)
    · rintro (h | h)
      · exact .inl (.inl h)
      · by_cases e : q = k + n
        · exact .inr e
        · exact .inl (.inr (by omega))

theorem State.lotByte_noteAll_of_hasByte {q : Nat} (h : c.hasByte q = true ∨ q < k ∨ k + n ≤ q) :
    s.lotByte (c.noteAll k n b) f q = s.lotByte c f q := by
  induction n with
  | zero => rfl
  | succ n ih =>
    rw [Ctx.noteAll_succ, State.lotByte_noteRead_of_hasByte, ih (h.imp_right (Or.imp_right (by omega)))]
    rcases h with h | h
    · exact .inl ((c.hasByte_noteAll k n b q).mpr (.inl h))
    · exact .inr (by omega)

/-- A byte that the context had not is the one it has noted. -/
theorem State.lotByte_noteAll_new {i : Nat} (hi : i < n) (h : c.hasByte (k + i) = false) : s.lotByte (c.noteAll k n b) f (k + i) = b i := by
  induction n with
  | zero => omega
  | succ n ih =>
    rw [Ctx.noteAll_succ]
    by_cases e : i = n
    · subst e
      refine State.lotByte_noteRead_new _ _ _ s f (Bool.eq_false_iff.mpr fun hb => ?_)
      rcases (c.hasByte_noteAll k i b _).mp hb with hb | hb
      · exact Bool.noConfusion (hb.symm.trans h)
      · omega
    · rw [State.lotByte_noteRead_of_hasByte _ _ _ _ _ (.inr (by omega))]
      exact ih (by omega)

/-- Noting what the lot view has already changes nothing of it. -/
theorem State.lotByte_noteAll_self (q : Nat) : s.lotByte (c.noteAll k n fun i => s.lotByte c f (k + i)) f q = s.lotByte c f q := by
  by_cases h : c.hasByte q = true ∨ q < k ∨ k + n ≤ q
  · exact s.lotByte_noteAll_of_hasByte c f k n _ h
  · obtain ⟨i, rfl⟩ : ∃ i, q = k + i := ⟨q - k, by omega⟩
    exact s.lotByte_noteAll_new c f k n (fun i => s.lotByte c f (k + i)) (by omega) (by simpa using fun hb => h (.inl hb))
end

/-- Only a context's stores, combines and reads, and memory, make its lot view. -/
theorem State.lotByte_setS_advance (s : State) (c : Ctx) (r : Nat) (v : Word) (f : Comb → Nat) (q : Nat) :
    s.lotByte (c.setS r v).advance f q = s.lotByte c f q := by
  obtain ⟨pc, ps, ha⟩ := (c.setS r v).advance_shape
  obtain ⟨l, hl⟩ := c.setS_shape r v
  rw [ha, hl]
  rfl
theorem State.lotByte_congr {s t : State} (h : SameMemory s t) (c : Ctx) (f : Comb → Nat) (q : Nat) : t.lotByte c f q = s.lotByte c f q := by
  unfold State.lotByte
  rw [h q]

/-! ### What a load leaves -/

section
variable {s τ : State} (d : BitVec 5) (v : Word) {c : Ctx}

/-- A load that has read leaves its register written, and what else it changed is in what it has noted. -/
theorem State.setCx_wrote_of_notedFrom (hc : s.cx.NotedFrom c) (he : State.SameElse s τ) (hm : SameMemory s τ) :
    let t := (τ.setCx c).wrote d v
    t.cx.sreg d.toNat = (if d = 0 then 0 else v) ∧ t.cx.pc = s.cx.advance.pc ∧ Ctx.SameBut s.cx t.cx [d.toNat] [] [] ∧ State.SameElse s t ∧ SameMemory s t
      ∧ ∀ q, t.lotByte t.cx combView q = s.lotByte c combView q := by
  intro t
  have ht : t = τ.setCx (c.setS d.toNat v).advance := τ.wrote_setCx c d v
  have hcx : t.cx = (c.setS d.toNat v).advance := by rw [ht, State.cx_setCx]
  rw [hcx, ht]
  refine ⟨c.setS_advance_sreg d v, (c.setS_advance_pc _ _).trans hc.advance_pc, hc.sameBut (c.sameBut_setS_advance d v), he.setCx _, hm, fun q => ?_⟩
  rw [State.lotByte_setS_advance]
  exact State.lotByte_congr (t := τ.setCx _) hm _ _ _
end

section
variable {s : State} {va : Word} {n : Nat} {x : Xl} (ht : s.translate s.core s.ctx va .read .plain = .ok x)
include ht

theorem loadG_held (hm : s.ctx = 4 → metaTile x.pa = none) (h : s.cx.hasAll (lotKey x) n = true) :
    s.loadG s.core s.ctx va n = .ok (.value (leNat (fun i => s.lotByte s.cx combView (lotKey x + i)) n) s) := by
  have hm' : ¬ (s.ctx = Config.fwCtx ∧ (metaTile x.pa).isSome = true) := fun h => by simp [hm h.1] at h
  have h' : (s.ctxOf s.core s.ctx).hasAll x.key n = true := h
  simp only [State.loadG, ht, if_neg hm', h', if_true]
  rfl

theorem loadG_checked (hm : s.ctx = 4 → metaTile x.pa = none) (h : s.cx.hasAll (lotKey x) n = false) (hx : x.cls ≠ 2)
    (ha : s.accessCheck (s.vfOf s.core s.ctx) x.pa n va = .ok ()) :
    ∃ c, s.cx.NotedFrom c ∧ (∀ q, s.lotByte c combView q = s.lotByte s.cx combView q)
      ∧ s.loadG s.core s.ctx va n = .ok (.value (leNat (fun i => s.lotByte s.cx combView (x.pa + i)) n) ((s.fill x.pa).setCx c)) := by
  have hm' : ¬ (s.ctx = Config.fwCtx ∧ (metaTile x.pa).isSome = true) := fun h => by simp [hm h.1] at h
  have h' : (s.ctxOf s.core s.ctx).hasAll x.key n = false := h
  have hl : s.loadG s.core s.ctx va n = .ok (.value (s.lotRead s.cx x.pa n).1
      ((s.fill x.pa).setCtx s.core s.ctx (if s.ctx = Config.fwCtx then s.cx else (s.lotRead s.cx x.pa n).2))) := by
    simp only [State.loadG, ht, if_neg hm', h', Bool.false_eq_true, if_false, show x.remote = false from decide_eq_false hx, ha]
    rfl
  have hfill : (s.fill x.pa).setCtx s.core s.ctx = (s.fill x.pa).setCx := by
    obtain ⟨l, hf⟩ := s.fill_shape x.pa
    rw [hf]
    rfl
  refine ⟨_, ?_, fun q => ?_, by rw [hl, hfill]; rfl⟩
  · split
    · exact .refl _
    · exact s.cx.noteAll_notedFrom ..
  · split
    · rfl
    · exact s.lotByte_noteAll_self ..
end

/-! ### A load of a fabric window -/

/-- What a load makes of its access's answer. -/
def FabAns.loaded (va : Word) (core ctx k n : Nat) : FabAns → Chk Loaded
  | .refused _ => failWith 4 va
  | .timeout _ => failWith 16 va
  | .wait τ => .ok (.waiting τ)
  | .reply τ => .ok (.value (τ.remoteRead core ctx k n).1 (τ.remoteRead core ctx k n).2)

theorem loadG_remote {s : State} {va : Word} {n : Nat} {x : Xl} (ht : s.translate s.core s.ctx va .read .plain = .ok x) (hu : s.ctx < 4)
    (hx : x.cls = 2) (h : s.cx.hasAll (lotKey x) n = false) :
    s.loadG s.core s.ctx va n = (s.fabricAsk s.core s.ctx none x.frame va).loaded va s.core s.ctx (lotKey x) n := by
  have h' : (s.ctxOf s.core s.ctx).hasAll x.key n = false := h
  have hf : ¬ (s.ctx = Config.fwCtx ∧ (metaTile x.pa).isSome = true) := fun h => Nat.ne_of_lt hu h.1
  simp only [State.loadG, ht, if_neg hf, h', Bool.false_eq_true, if_false, show x.remote = true from decide_eq_true hx, if_true]
  cases s.fabricAsk s.core s.ctx none x.frame va <;> rfl

/-- The state without the access q, which has been answered. -/
def State.answered (s : State) (q : FabReq) : State := { s with fabReqs := s.fabReqs.filter fun r => decide (r.id ≠ q.id) }

section
variable {s : State} {i : Nat} {va : Word}

theorem fabricAsk_unsent (hs : s.sentBy s.core s.ctx none = none) (h : s.windowOk i = true) :
    s.fabricAsk s.core s.ctx none i va = .wait { s with fresh := s.fresh + 1, fabReqs := s.fabReqs ++
        [{ id := s.fresh, core := s.core, slot := s.ctx, va := va, deadline := s.time + impTmo (s.importRec i), entry := i, record := s.importRec i }] } := by
  simp only [State.fabricAsk, hs, h, Bool.not_true, Bool.false_eq_true, if_false]
  rfl
theorem fabricAsk_noWindow (hs : s.sentBy s.core s.ctx none = none) (h : s.windowOk i = false) : s.fabricAsk s.core s.ctx none i va = .refused s := by
  simp only [State.fabricAsk, hs, h, Bool.not_false, if_true]

variable {q : FabReq} (hs : s.sentBy s.core s.ctx none = some q)
include hs

theorem fabricAsk_late (h : q.answer = some 3) : s.fabricAsk s.core s.ctx none i va = .timeout (s.answered q) := by
  simp only [State.fabricAsk, hs, h, if_true]
  rfl
theorem fabricAsk_refused (h : q.answer = some 1) : s.fabricAsk s.core s.ctx none i va = .refused (s.answered q) := by
  simp only [State.fabricAsk, hs, h, if_true]
  rfl
theorem fabricAsk_held (h3 : q.answer ≠ some 3) (h1 : q.answer ≠ some 1) (h : q.held = true ∨ s.portOk q.record = false) :
    s.fabricAsk s.core s.ctx none i va = .wait s := by
  simp only [State.fabricAsk, hs, if_neg h3, if_neg h1]
  exact if_pos (by simpa using h)
/-- What the remote package answers is a free value (log 5). -/
theorem fabricAsk_free (h3 : q.answer ≠ some 3) (h1 : q.answer ≠ some 1) (hh : q.held = false) (hp : s.portOk q.record = true) :
    s.fabricAsk s.core s.ctx none i va = if (Config.freeWord s.fresh).toNat % 4 = 1 then .refused (s.tickFresh.answered q)
      else if (Config.freeWord s.fresh).toNat % 4 = 2 then .wait { s with fresh := s.fresh + 1 } else .reply (s.tickFresh.answered q) := by
  simp only [State.fabricAsk, hs, if_neg h3, if_neg h1, hh, hp, Bool.not_true, Bool.false_eq_true, or_self, if_false]
  rfl
end

/-- The byte i of a reply at k: what the context has, else a free value (log 5). -/
def State.replyByte (s : State) (k i : Nat) : Byte :=
  if s.cx.hasByte (k + i) then s.lotByte s.cx combView (k + i) else Config.freeByte (s.fresh + 1 + i)

/-- The state that a reply of n bytes to the access q leaves, but for the context that has read them. -/
def State.replied (s : State) (q : FabReq) (n : Nat) : State := { s.answered q with fresh := s.fresh + 1 + n }

theorem State.remoteRead_answered (s : State) (q : FabReq) (k n : Nat) :
    (s.tickFresh.answered q).remoteRead s.core s.ctx k n
      = (leNat (s.replyByte k) n, (s.replied q n).setCx (s.cx.noteAll k n (s.replyByte k))) := rfl

theorem State.replied_sameElse (s : State) (q : FabReq) (n : Nat) : State.SameElse s (s.replied q n) :=
  ⟨fun _ _ => rfl, by simp [State.replied, State.answered]⟩

theorem State.lotByte_replied (s : State) (k n : Nat) {i : Nat} (hi : i < n) :
    s.lotByte (s.cx.noteAll k n (s.replyByte k)) combView (k + i) = s.replyByte k i := by
  cases h : s.cx.hasByte (k + i) with
  | true => rw [s.lotByte_noteAll_of_hasByte _ _ _ _ _ (.inl h), State.replyByte, if_pos h]
  | false => exact s.lotByte_noteAll_new _ _ _ _ _ hi h

theorem hasAll_noteAll (c : Ctx) (k n : Nat) (b : Nat → Byte) : (c.noteAll k n b).hasAll k n = true := by
  unfold Ctx.hasAll
  rw [List.all_eq_true]
  intro i hi
  exact (c.hasByte_noteAll k n b _).mpr (.inr (by have := List.mem_range.mp hi; omega))

/-- Only a context's stores, combines and reads say which bytes it has. -/
theorem hasAll_setS_advance (c : Ctx) (r : Nat) (v : Word) (k n : Nat) : (c.setS r v).advance.hasAll k n = c.hasAll k n := by
  obtain ⟨pc, ps, ha⟩ := (c.setS r v).advance_shape
  obtain ⟨l, hl⟩ := c.setS_shape r v
  rw [ha, hl]
  rfl

/-- Settles O5: a load that has its bytes, one that memory's checks pass, and one that another package answers. -/
theorem loadFromG : Obligations.LoadFromG := by
  refine ⟨?_, ?_⟩
  · intro s d b z o x n a hal ht hx ha hm
    cases hb : s.cx.hasAll (lotKey x) n with
    | true =>
      have hk : lotKey x = x.pa := if_neg hx
      have hl := loadG_held ht hm hb
      rw [hk] at hl
      obtain ⟨h1, h2, h3, h4, h5, h6⟩ := State.setCx_wrote_of_notedFrom d (BitVec.ofNat 64 (leNat (fun i => s.lotByte s.cx combView (x.pa + i)) n))
        (.refl s.cx) (τ := s) ⟨fun _ _ => rfl, by simp⟩ (fun _ => rfl)
      exact ⟨_, exec_ld_of_value hal hl, s.setCx_cx_wrote d _ ▸ ⟨h1, h2, h3, h4, h5, h6⟩⟩
    | false =>
      obtain ⟨c, hc, hv, hl⟩ := loadG_checked ht hm hb hx ha
      have hf : State.SameElse s (s.fill x.pa) := by
        obtain ⟨l, hf⟩ := s.fill_shape x.pa
        rw [hf]
        exact ⟨fun _ _ => rfl, by simp⟩
      obtain ⟨h1, h2, h3, h4, h5, h6⟩ := State.setCx_wrote_of_notedFrom d (BitVec.ofNat 64 (leNat (fun i => s.lotByte s.cx combView (x.pa + i)) n))
        hc hf (fun q => s.memByte_fill x.pa q)
      exact ⟨_, exec_ld_of_value hal hl, h1, h2, h3, h4, h5, fun q => (h6 q).trans (hv q)⟩
  · intro s d b z o x n a free hu hal ht
    have hm : s.ctx = 4 → metaTile x.pa = none := fun h => absurd h (Nat.ne_of_lt hu)
    refine ⟨fun hb => exec_ld_of_value hal (loadG_held ht hm hb), fun hb hx => ?_⟩
    have hr := loadG_remote ht hu hx hb
    refine ⟨fun hs => ⟨fun h => ?_, fun h => ?_⟩, fun q hs => ⟨fun e => ?_, fun e => ?_, fun e3 e1 => ⟨fun e => ?_, fun eh ep => ?_⟩⟩⟩
    · exact exec_ld_of_error hal (by rw [hr, fabricAsk_noWindow hs h]; rfl)
    · exact exec_ld_of_waiting hal (by rw [hr, fabricAsk_unsent hs h]; rfl)
    · exact exec_ld_of_error hal (by rw [hr, fabricAsk_late hs e]; rfl)
    · exact exec_ld_of_error hal (by rw [hr, fabricAsk_refused hs e]; rfl)
    · exact exec_ld_of_waiting hal (by rw [hr, fabricAsk_held hs e3 e1 e]; rfl)
    · rw [fabricAsk_free hs e3 e1 eh ep] at hr
      refine ⟨fun e => ?_, fun e => ?_, fun f1 f2 => ?_⟩
      · exact exec_ld_of_error hal (by rw [hr, if_pos e]; rfl)
      · exact exec_ld_of_waiting hal (by rw [hr, if_neg (by omega), if_pos e]; rfl)
      · rw [if_neg f1, if_neg f2] at hr
        let c := s.cx.noteAll (lotKey x) n (s.replyByte (lotKey x))
        obtain ⟨h1, h2, h3, h4, h5, h6⟩ := State.setCx_wrote_of_notedFrom d (BitVec.ofNat 64 (leNat (s.replyByte (lotKey x)) n))
          (s.cx.noteAll_notedFrom (lotKey x) n (s.replyByte (lotKey x))) (s.replied_sameElse q n) (fun _ => rfl)
        refine ⟨_, exec_ld_of_value hal (hr.trans (by rw [FabAns.loaded, s.remoteRead_answered q])), ?_, fun pa hpa => (h6 pa).trans ?_, ?_, ?_, h2, h3, h4, h5⟩
        · exact h1.trans (congrArg (fun v => if d = 0 then 0 else BitVec.ofNat 64 v)
            (leNat_congr fun i hi => ((h6 _).trans (s.lotByte_replied _ _ hi)).symm))
        · exact s.lotByte_noteAll_of_hasByte _ _ _ _ _ hpa
        · rw [State.wrote_setCx, State.cx_setCx, hasAll_setS_advance]
          exact hasAll_noteAll ..
        · intro r hmem
          exact of_decide_eq_true (List.mem_filter.mp hmem).2
end Sys2Proof.Machine
end

section
/-! ## O6: a combine whose address its width does not divide -/
namespace Sys2Proof.Machine

/-- A lot of VF 1 whose granule 0 is frame 5, and whose combine of eight bytes stands at an address that is a multiple of 4 alone. -/
def tornCombine : State :=
  { ctxs := [(0, { s := [(1, 12)], task := some 0,
                   combs := [(5 * 2 ^ 21 + 12, { op := 0, width := 8, operand := 0, base := BitVec.ofNat 64 (2 ^ 32) })] })],
    tasks := [(0, { node := 0, state := .running, next := 1, hi := 1 })], nodes := [(0, { vf := 1, lots := 1 })],
    tables := [(4, { valid := true, entries := [(0, 0x511E)] })], frames := [(5, { owner := 1 })] }

/-- What the lot view of the byte at pa is after the instruction. -/
def lotAfter (i : Instr) (s : State) (pa : Nat) : Option Byte :=
  match exec i s with
  | .next t => some (t.lotByte t.cx combView pa)
  | _ => none

theorem lotAfter_of_next {i : Instr} {s t : State} (h : exec i s = .next t) (pa : Nat) : lotAfter i s pa = some (t.lotByte t.cx combView pa) := by
  simp only [lotAfter, h]

/-- Refutes O6: the byte 4 behind the combine's word is no byte of the store and reads 0 before it; the store folds the whole combine into held bytes,
and it reads 1 afterwards. -/
theorem not_storeToMemory : ¬ Obligations.StoreToMemory := by
  intro h
  have hx : tornCombine.translate 0 0 (addrM tornCombine 1 0 0) .write .plain = .ok { pa := 5 * 2 ^ 21 + 12, cls := 0, frame := 5, off := 12 } := by
    rfl
  have ha : tornCombine.accessCheck (tornCombine.vfOf 0 0) (5 * 2 ^ 21 + 12) 1 (addrM tornCombine 1 0 0) = .ok () := by rfl
  obtain ⟨t, ht, -, hrest, -⟩ := ((h.1 tornCombine 0 1 0 0 _ (by decide) (by decide) hx).2 (by decide) fun _ => ha).2 (by decide)
  have hb := hrest (5 * 2 ^ 21 + 16) (by decide)
  have hafter : lotAfter (.st 0 1 0 0) tornCombine (5 * 2 ^ 21 + 16) = some 1 := by decide +kernel
  have hbefore : tornCombine.lotByte tornCombine.cx combView (5 * 2 ^ 21 + 16) = 0 := by decide +kernel
  rw [lotAfter_of_next ht, hb, hbefore] at hafter
  exact absurd hafter (by decide)
end Sys2Proof.Machine
end

section
/-! ## O7: accesses of L, A and C -/
namespace Sys2Proof.Machine

/-! ### What a word that retires leaves of its context -/

theorem State.SameElse.refl (s : State) : State.SameElse s s := ⟨fun _ _ => rfl, by simp⟩

theorem Ctx.advance_pc_congr {c d : Ctx} (h : c.pc = d.pc) (hp : c.pslots = d.pslots) (hn : c.npc = d.npc) : c.advance.pc = d.advance.pc := by
  unfold Ctx.advance
  rw [h, hp, hn]
  split_ifs <;> rfl

theorem Ctx.advance_flag (c : Ctx) (f : Nat) : c.advance.flag f = c.flag f := by
  obtain ⟨pc, ps, h⟩ := c.advance_shape
  rw [h]
  rfl
theorem Ctx.advance_lmem (c : Ctx) : c.advance.lmem = c.lmem := by
  obtain ⟨pc, ps, h⟩ := c.advance_shape
  rw [h]
theorem Ctx.advance_liveA (c : Ctx) : c.advance.liveA = c.liveA := by
  obtain ⟨pc, ps, h⟩ := c.advance_shape
  rw [h]
theorem Ctx.advance_abase (c : Ctx) : c.advance.abase = c.abase := by
  obtain ⟨pc, ps, h⟩ := c.advance_shape
  rw [h]

/-! ### Bytes set one after another -/

theorem Tbl.get_setAll_ne (l : List (Nat × Byte)) (t : Tbl Byte) (d : Byte) (a : Nat) (h : ∀ p ∈ l, p.1 ≠ a) :
    Tbl.get (l.foldl (fun t p => Tbl.set t p.1 p.2) t) d a = Tbl.get t d a := by
  rw [Tbl.get, Tbl.find?_setAll_ne l t a h, Tbl.get]
theorem Tbl.get_setAll (l : List (Nat × Byte)) (t : Tbl Byte) (d : Byte) (a : Nat) (v : Byte) (h : (a, v) ∈ l) (hn : (l.map (·.1)).Nodup) :
    Tbl.get (l.foldl (fun t p => Tbl.set t p.1 p.2) t) d a = v := by
  rw [Tbl.get, Tbl.find?_setAll l t a v h hn]
  rfl

theorem Tbl.find?_filter_none {α : Type} (t : Tbl α) (p : Nat × α → Bool) (i : Nat) (h : ∀ v, p (i, v) = false) : Tbl.find? (t.filter p) i = none := by
  induction t with
  | nil => rfl
  | cons q t ih =>
    rw [List.filter_cons]
    split
    next hq =>
      have hk : q.1 ≠ i := fun e => by subst e; exact Bool.noConfusion ((h q.2).symm.trans hq)
      exact (if_neg hk).trans ih
    · exact ih

theorem bytesAt_nodup (k n v : Nat) : ((bytesAt k n v).map (·.1)).Nodup := by
  rw [bytesAt, List.map_map]
  exact List.nodup_range.map fun i j h => Nat.add_left_cancel h
theorem mem_bytesAt {k n v i : Nat} (hi : i < n) : (k + i, BitVec.ofNat 8 (v / 256 ^ i)) ∈ bytesAt k n v :=
  List.mem_map.mpr ⟨i, List.mem_range.mpr hi, rfl⟩
theorem bytesAt_fst {k n v : Nat} {p : Nat × Byte} (h : p ∈ bytesAt k n v) : k ≤ p.1 ∧ p.1 < k + n := by
  obtain ⟨i, hi, rfl⟩ := List.mem_map.mp h
  exact ⟨Nat.le_add_right _ _, Nat.add_lt_add_left (List.mem_range.mp hi) k⟩

/-- A byte of the low bytes of a value is the value's. -/
theorem lowBytes_byte {v n i : Nat} (hi : i < n) : BitVec.ofNat 8 (v % 256 ^ n / 256 ^ i) = BitVec.ofNat 8 (v / 256 ^ i) := by
  refine BitVec.eq_of_toNat_eq ?_
  rw [BitVec.toNat_ofNat, BitVec.toNat_ofNat]
  obtain ⟨j, rfl⟩ : ∃ j, n = i + (j + 1) := ⟨n - i - 1, by omega⟩
  rw [Nat.pow_add, Nat.mod_mul_right_div_self, Nat.mod_mod_of_dvd _ (Dvd.intro_left (256 ^ j) (Nat.pow_succ ..).symm)]

/-! ### L -/

section
variable (c : Ctx) (a n v : Nat)

theorem Ctx.lWrite_same {i : Nat} (hi : i < n) : Tbl.get (c.lWrite a n (v % 256 ^ n)).lmem 0 (a + i) = BitVec.ofNat 8 (v / 256 ^ i) :=
  (Tbl.get_setAll _ _ _ _ _ (mem_bytesAt hi) (bytesAt_nodup ..)).trans (lowBytes_byte hi)
theorem Ctx.lWrite_other {p : Nat} (hp : p < a ∨ a + n ≤ p) : Tbl.get (c.lWrite a n v).lmem 0 p = Tbl.get c.lmem 0 p :=
  Tbl.get_setAll_ne _ _ _ _ fun q hq e => by have := bytesAt_fst hq; omega
end

section
variable {s : State} {d b : BitVec 5} {z : BitVec 2} {o : BitVec 14} (h : (addrM s b z o).toNat % 2 ^ z.toNat = 0)
include h

theorem exec_ldl_ok (hr : (addrM s b z o).toNat + 2 ^ z.toNat ≤ 65536) :
    exec (.ldl d b z o) s = .next (s.wrote d (BitVec.ofNat 64 (leNat (fun i => Tbl.get s.cx.lmem 0 ((addrM s b z o).toNat + i)) (2 ^ z.toNat)))) :=
  (ite_aligned h).trans (if_neg (by rw [show lRange (s.effAddr b z o) (sizeBytes z) = true from decide_eq_true hr]; decide))
theorem exec_stl_ok (hr : (addrM s b z o).toNat + 2 ^ z.toNat ≤ 65536) :
    exec (.stl d b z o) s = .next (s.setCx ((s.cx.lWrite (addrM s b z o).toNat (2 ^ z.toNat) ((s.cx.sreg d.toNat).toNat % 256 ^ 2 ^ z.toNat)).advance)) :=
  (ite_aligned h).trans (if_neg (by rw [show lRange (s.effAddr b z o) (sizeBytes z) = true from decide_eq_true hr]; decide))
theorem exec_lda_ok (hr : (addrM s b z o).toNat + 2 ^ z.toNat ≤ s.cx.asize) :
    exec (.lda d b z o) s = .next (s.wrote d (BitVec.ofNat 64 (leNat (fun i => s.aByte s.core s.ctx ((addrM s b z o).toNat + i)) (2 ^ z.toNat)))) :=
  (ite_aligned h).trans (if_neg (by rw [show s.aRange (s.effAddr b z o) (sizeBytes z) = true from decide_eq_true hr]; decide))
theorem exec_sta_ok (hr : (addrM s b z o).toNat + 2 ^ z.toNat ≤ s.cx.asize) :
    exec (.sta d b z o) s = .next (s.aWrite s.core s.ctx (addrM s b z o).toNat (natBytes (2 ^ z.toNat) (s.cx.sreg d.toNat).toNat)).retired :=
  (ite_aligned h).trans (if_neg (by rw [show s.aRange (s.effAddr b z o) (sizeBytes z) = true from decide_eq_true hr]; decide))
end

/-! ### A -/

theorem natBytes_places (off n v : Nat) : (natBytes n v).zipIdx.map (fun p => (off + p.2, p.1)) = bytesAt off n v := by
  refine List.ext_getElem (by simp [natBytes, bytesAt]) fun i h1 h2 => ?_
  simp [natBytes, bytesAt]

theorem mem_foldl_insertNat {α : Type} (f : α → Nat) (l : List α) (g : List Nat) (x : Nat) :
    x ∈ l.foldl (fun g p => insertNat g (f p)) g ↔ x ∈ g ∨ ∃ p ∈ l, f p = x := by
  induction l generalizing g with
  | nil => simp
  | cons p l ih =>
    have hi : x ∈ insertNat g (f p) ↔ x ∈ g ∨ f p = x := by
      unfold insertNat
      split
      next h =>
        refine ⟨.inl, fun hx => hx.elim id fun e => ?_⟩
        exact e ▸ List.contains_iff_mem.mp h
      · rw [List.mem_cons, or_comm, eq_comm]
    rw [List.foldl_cons, ih, hi, List.exists_mem_cons_iff, or_assoc]

section
variable (s : State) (core slot off n v : Nat)

/-- What a write into A leaves: its bytes in the slot's window, and the granules it touches live. -/
theorem State.aWrite_eq : s.aWrite core slot off (natBytes n v) =
    ({ s with abuf := ((bytesAt off n v).map fun p => (aKey core (s.ctxOf core slot) p.1, p.2)).foldl (fun t p => Tbl.set t p.1 p.2) s.abuf } : State).setCtx core slot
      { s.ctxOf core slot with liveA := (bytesAt off n v).foldl (fun g p => insertNat g (p.1 / 65536)) (s.ctxOf core slot).liveA } := by
  unfold State.aWrite
  simp only [natBytes_places, List.foldl_map]

theorem State.aWrite_aByte (p : Nat) : (s.aWrite core slot off (natBytes n v)).aByte core slot p =
    Tbl.get (((bytesAt off n v).map fun p => (aKey core (s.ctxOf core slot) p.1, p.2)).foldl (fun t p => Tbl.set t p.1 p.2) s.abuf) 0
      (aKey core (s.ctxOf core slot) p) := by
  rw [State.aWrite_eq]
  unfold State.aByte
  rw [State.ctxOf_setCtx_same]
  rfl

theorem aKey_inj {c : Ctx} {p q : Nat} (h : aKey core c p = aKey core c q) (hpq : p < 2 ^ 24) (hq : q < 2 ^ 24) : p = q := by
  unfold aKey at h
  omega

variable (h : off + n ≤ 2 ^ 24)
include h

theorem State.aWrite_aByte_same {i : Nat} (hi : i < n) :
    (s.aWrite core slot off (natBytes n v)).aByte core slot (off + i) = BitVec.ofNat 8 (v / 256 ^ i) := by
  rw [State.aWrite_aByte]
  refine Tbl.get_setAll _ _ _ _ _ (List.mem_map.mpr ⟨_, mem_bytesAt hi, rfl⟩) ?_
  rw [List.map_map]
  refine List.Nodup.map_on (fun p hp q hq e => ?_) (List.Nodup.of_map _ (bytesAt_nodup off n v))
  have hp' := bytesAt_fst hp
  have hq' := bytesAt_fst hq
  exact List.inj_on_of_nodup_map (bytesAt_nodup off n v) hp hq (aKey_inj core e (by omega) (by omega))

theorem State.aWrite_aByte_other {p : Nat} (hp : p < 2 ^ 24) (ho : p < off ∨ off + n ≤ p) :
    (s.aWrite core slot off (natBytes n v)).aByte core slot p = s.aByte core slot p := by
  rw [State.aWrite_aByte]
  refine Tbl.get_setAll_ne _ _ _ _ fun q hq e => ?_
  obtain ⟨r, hr, rfl⟩ := List.mem_map.mp hq
  have hr' := bytesAt_fst hr
  have := aKey_inj core e (by omega) hp
  omega
end

theorem State.aWrite_cx (s : State) (off n v : Nat) :
    (s.aWrite s.core s.ctx off (natBytes n v)).cx = { s.cx with liveA := (bytesAt off n v).foldl (fun g p => insertNat g (p.1 / 65536)) s.cx.liveA } := by
  rw [State.aWrite_eq]
  exact State.ctxOf_setCtx_same ..

theorem State.aWrite_liveA (s : State) (off n v g : Nat) :
    g ∈ (s.aWrite s.core s.ctx off (natBytes n v)).cx.liveA ↔ g ∈ s.cx.liveA ∨ ∃ i < n, (off + i) / 65536 = g := by
  rw [State.aWrite_cx, mem_foldl_insertNat]
  simp [bytesAt]

/-- An aligned access of 1, 2, 4 or 8 bytes stays in one granule of 64 KiB. -/
theorem granule_of_aligned {a i : Nat} (z : BitVec 2) (h : a % 2 ^ z.toNat = 0) (hi : i < 2 ^ z.toNat) : (a + i) / 65536 = a / 65536 := by
  have : z.toNat = 0 ∨ z.toNat = 1 ∨ z.toNat = 2 ∨ z.toNat = 3 := by omega
  rcases this with e | e | e | e <;> rw [e] at h hi <;> omega

/-! ### C -/

section
variable {s : State} {b : BitVec 5} {o : BitVec 14} (d : BitVec 5) (nowait : Bool)

theorem ldcWith_of_touch {τ : State} (h : (s.cx.sreg b.toNat + o.signExtend 64 * 4).toNat % 4 = 0)
    (hr : (s.cx.sreg b.toNat + o.signExtend 64 * 4).toNat + 4 ≤ 2 ^ 23)
    (ht : s.ownerTouch s.core s.ctx ((s.cx.sreg b.toNat + o.signExtend 64 * 4).toNat / 4096) = .ok τ) :
    let a := (s.cx.sreg b.toNat + o.signExtend 64 * 4).toNat
    let pend := τ.pendingAt τ.core τ.ctx (a / 4096) τ.cx.cmdNo
    let v := zext (τ.cElem τ.core a)
    s.ldcWith d b o nowait = if nowait then .next (τ.setCx ((τ.cx.setF 0 (decide (pend ≠ 0))).setS d.toNat v).advance)
      else if pend ≠ 0 then .next τ.stalled else .next (τ.wrote d v) := by
  intro a pend v
  refine (ite_aligned h).trans ((if_neg ?_).trans ?_)
  · rw [show cRange (s.rs b + sext o * 4) = true from decide_eq_true hr]
    decide
  · dsimp only
    rw [show s.ownerTouch s.core s.ctx ((s.rs b + sext o * 4).toNat / 4096) = .ok τ from ht]
    rfl
end

section
variable {s : State} {core slot slab : Nat}

theorem ownerTouch_own (h : Tbl.get s.accown 7 (core * 2048 + slab) = slot) : s.ownerTouch core slot slab = .ok s := if_pos h
theorem ownerTouch_free (h : Tbl.get s.accown 7 (core * 2048 + slab) = 7) (hs : slot < 4) :
    s.ownerTouch core slot slab = .ok ((s.zeroSlab core slab).setCode core slab slot) := by
  have hn : ¬ s.accCode core slab = slot := fun e => by rw [State.accCode, h] at e; omega
  exact (if_neg hn).trans (if_pos h)

/-- A slab made the slot's reads +0.0 everywhere. -/
theorem zeroSlab_elem {e : Nat} (he : e < 1024) : Tbl.get ((s.zeroSlab core slab).setCode core slab slot).cbuf 0 (core * 2 ^ 21 + slab * 1024 + e) = 0 := by
  show Tbl.get (s.cbuf.filter fun p => decide (p.1 / 1024 ≠ core * 2048 + slab)) 0 _ = 0
  have hk : (core * 2 ^ 21 + slab * 1024 + e) / 1024 = core * 2048 + slab := by omega
  rw [Tbl.get, Tbl.find?_filter_none _ _ _ fun v => decide_eq_false (not_not.mpr hk)]
  rfl
end

/-- A slab that was nobody's is the slot's, and reads +0.0. -/
def State.claimed (s : State) (slab : Nat) : State := (s.zeroSlab s.core slab).setCode s.core slab s.ctx

theorem ldcWith_free {s : State} {b : BitVec 5} {o : BitVec 14} (d : BitVec 5) (nowait : Bool) (h : (s.cx.sreg b.toNat + o.signExtend 64 * 4).toNat % 4 = 0)
    (hr : (s.cx.sreg b.toNat + o.signExtend 64 * 4).toNat + 4 ≤ 2 ^ 23)
    (hf : Tbl.get s.accown 7 (s.core * 2048 + (s.cx.sreg b.toNat + o.signExtend 64 * 4).toNat / 4096) = 7) (hs : s.ctx < 4) :
    let slab := (s.cx.sreg b.toNat + o.signExtend 64 * 4).toNat / 4096
    let pend := s.pendingAt s.core s.ctx slab s.cx.cmdNo
    let τ := s.claimed slab
    s.ldcWith d b o nowait = if nowait then .next (τ.setCx ((s.cx.setF 0 (decide (pend ≠ 0))).setS d.toNat 0).advance)
      else if pend ≠ 0 then .next τ.stalled else .next (τ.setCx (s.cx.setS d.toNat 0).advance) := by
  intro slab pend τ
  have hz : zext (τ.cElem τ.core (s.cx.sreg b.toNat + o.signExtend 64 * 4).toNat) = 0 := by
    have he := zeroSlab_elem (s := s) (core := s.core) (slot := s.ctx) (slab := slab) (Nat.mod_lt ((s.cx.sreg b.toNat + o.signExtend 64 * 4).toNat / 4) (by decide : 0 < 1024))
    rw [show s.core * 2 ^ 21 + slab * 1024 + (s.cx.sreg b.toNat + o.signExtend 64 * 4).toNat / 4 % 1024
      = cKey s.core (s.cx.sreg b.toNat + o.signExtend 64 * 4).toNat by unfold cKey slab; omega] at he
    exact (congrArg zext he).trans rfl
  have hl := ldcWith_of_touch (τ := τ) d nowait h hr (ownerTouch_free hf hs)
  refine hl.trans ?_
  rw [hz]
  rfl

theorem State.aByte_retired (s : State) (p : Nat) : s.retired.aByte s.core s.ctx p = s.aByte s.core s.ctx p := by
  unfold State.aByte aKey
  rw [show s.retired.ctxOf s.core s.ctx = s.cx.advance from s.cx_retired, Ctx.advance_abase]
  rfl

/-- Settles O7: each access by its equation, and what a write into a window leaves byte by byte. -/
theorem bufferAccess : Obligations.BufferAccess := by
  refine ⟨?_, ?_, ?_⟩
  · intro s d b z o n a hal hr
    refine ⟨exec_ldl_ok hal hr, _, exec_stl_ok hal hr, ?_⟩
    rw [State.cx_setCx, Ctx.advance_lmem]
    exact ⟨Ctx.advance_pc_congr rfl rfl rfl, fun i hi => s.cx.lWrite_same a n _ hi, fun p hp => s.cx.lWrite_other a n _ hp,
      fun r => Ctx.advance_sreg _ r, fun f => Ctx.advance_flag _ f, (State.SameElse.refl s).setCx _, fun _ => rfl⟩
  · intro s d b z o n a hal hr
    refine ⟨exec_lda_ok hal hr, fun hs => ⟨_, exec_sta_ok hal hr, ?_⟩⟩
    have ha : a + n ≤ 2 ^ 24 := hr.trans hs
    have hn : 0 < n := Nat.two_pow_pos _
    have hc := s.aWrite_cx a n (s.cx.sreg d.toNat).toNat
    have hsh := s.aWrite_eq s.core s.ctx a n (s.cx.sreg d.toNat).toNat
    have hliv (g : Nat) := s.aWrite_liveA a n (s.cx.sreg d.toNat).toNat g
    have hsame {i : Nat} (hi : i < n) := s.aWrite_aByte_same s.core s.ctx a n (s.cx.sreg d.toNat).toNat ha hi
    have hother {p : Nat} (hp : p < 2 ^ 24) (ho : p < a ∨ a + n ≤ p) := s.aWrite_aByte_other s.core s.ctx a n (s.cx.sreg d.toNat).toNat ha hp ho
    have hcore : (s.aWrite s.core s.ctx a (natBytes n (s.cx.sreg d.toNat).toNat)).core = s.core := by rw [hsh]; rfl
    have hctx : (s.aWrite s.core s.ctx a (natBytes n (s.cx.sreg d.toNat).toNat)).ctx = s.ctx := by rw [hsh]; rfl
    show (State.retired (s.aWrite s.core s.ctx a (natBytes n (s.cx.sreg d.toNat).toNat))).cx.pc = _ ∧ _
    generalize s.aWrite s.core s.ctx a (natBytes n (s.cx.sreg d.toNat).toNat) = τ at *
    have hby := τ.aByte_retired
    rw [hcore, hctx] at hby
    rw [State.cx_retired, Ctx.advance_liveA]
    refine ⟨?_, fun i hi => (hby _).trans (hsame hi), fun p hp ho => (hby p).trans (hother hp ho), (hliv _).mpr (.inr ⟨0, hn, rfl⟩), fun g hg => ?_,
      fun r => ?_, fun f => ?_, ?_, ?_, ?_⟩
    · rw [hc]
      exact Ctx.advance_pc_congr rfl rfl rfl
    · rw [hliv]
      exact or_iff_left fun ⟨i, hi, e⟩ => hg ((granule_of_aligned z hal hi).symm.trans e).symm
    · rw [Ctx.advance_sreg, hc]
      rfl
    · rw [Ctx.advance_flag, hc]
      rfl
    · exact fun q => by rw [show τ.retired.memByte q = τ.memByte q from rfl, hsh]; rfl
    · rw [show τ.retired.cbuf = τ.cbuf from rfl, hsh]; rfl
    · rw [show τ.retired.wbuf = τ.wbuf from rfl, hsh]; rfl
  · intro s d b o a slab pend v hal hr
    have hown (h : Tbl.get s.accown 7 (s.core * 2048 + slab) = s.ctx) := fun w => ldcWith_of_touch d w hal hr (ownerTouch_own h)
    refine ⟨fun h hp => ?_, fun h hp => ?_, fun h => hown h true, fun h hc hp => ?_, fun h hc => ?_⟩
    · exact (hown h false).trans (if_neg (not_not.mpr hp))
    · exact (hown h false).trans (if_pos hp)
    · have hl : exec (.ldc d b o) s = .next ((s.claimed slab).setCx (s.cx.setS d.toNat 0).advance) :=
        (ldcWith_free d false hal hr h hc).trans (if_neg (not_not.mpr hp))
      exact ⟨_, hl, State.cx_setCx .., Tbl.get_set_same .., fun e he => zeroSlab_elem (slot := s.ctx) he⟩
    · exact ⟨_, ldcWith_free d true hal hr h hc, State.cx_setCx .., Tbl.get_set_same .., fun e he => zeroSlab_elem (slot := s.ctx) he⟩
end Sys2Proof.Machine
end

section
/-! ## O9: system registers -/
namespace Sys2Proof.Machine

/-! ### GETS, by the register's answer -/

section
variable {s : State} {n : BitVec 16} (d : BitVec 5)

theorem exec_gets_user {v : Word} (h : n.toNat < 0x8000) (hv : s.userReg n.toNat = some v) : exec (.gets d n) s = .next (s.wrote d v) := by
  have h1 : ¬ (0x8000 ≤ n.toNat ∧ s.ctx ≠ Config.fwCtx) := by omega
  refine (if_neg h1).trans ((if_neg (by omega)).trans ?_)
  simp only [if_pos h, hv]
  rfl
theorem exec_gets_user_none (h : n.toNat < 0x8000) (hv : s.userReg n.toNat = none) : exec (.gets d n) s = .next (s.trapped 1 0) := by
  have h1 : ¬ (0x8000 ≤ n.toNat ∧ s.ctx ≠ Config.fwCtx) := by omega
  refine (if_neg h1).trans ((if_neg (by omega)).trans ?_)
  simp only [if_pos h, hv]
  rfl
theorem exec_gets_fw {v : Word} (hc : s.ctx = 4) (h : 0x8000 ≤ n.toNat) (h1 : n.toNat ≠ 0x8001) (hv : s.fwReg n.toNat = some v) :
    exec (.gets d n) s = .next (s.wrote d v) := by
  refine (if_neg fun hn => hn.2 hc).trans ((if_neg h1).trans ?_)
  simp only [if_neg (Nat.not_lt.mpr h), hv]
  rfl
theorem exec_gets_fw_none (hc : s.ctx = 4) (h : 0x8000 ≤ n.toNat) (h1 : n.toNat ≠ 0x8001) (hv : s.fwReg n.toNat = none) :
    exec (.gets d n) s = .next (s.trapped 1 0) := by
  refine (if_neg fun hn => hn.2 hc).trans ((if_neg h1).trans ?_)
  simp only [if_neg (Nat.not_lt.mpr h), hv]
  rfl
theorem exec_gets_event (hc : s.ctx = 4) (h : n.toNat = 0x8001) : exec (.gets d n) s = .next ((s.popEvent s.core).2.wrote d (s.popEvent s.core).1) :=
  (if_neg fun hn => hn.2 hc).trans (if_pos h)
theorem exec_gets_priv (hc : s.ctx ≠ 4) (h : 0x8000 ≤ n.toNat) : exec (.gets d n) s = .next (s.trapped 2 0) := if_pos ⟨h, hc⟩
end

/-- The oldest event, and the events behind it, which the next of its source may join (R378). -/
theorem State.popEvent_cons {s : State} {core src cause : Nat} {r : List (Nat × Nat)} (h : (s.coreOf core).events = (src, cause) :: r) :
    ∃ k : Core, (∃ l, k.events = r ++ l) ∧ s.popEvent core = (BitVec.ofNat 64 (2 ^ 63 + cause * 2 ^ 16 + src), s.setCore core k) := by
  unfold State.popEvent
  dsimp only
  rw [h]
  dsimp only
  split
  · exact ⟨_, ⟨[_], rfl⟩, rfl⟩
  · exact ⟨_, ⟨[], (List.append_nil r).symm⟩, rfl⟩

/-! ### Fields of a register -/

/-- A sum of digits has them: the digit i of base b. -/
theorem foldl_digits (b : Nat) (f : Nat → Nat) (n : Nat) (h : ∀ i < n, f i < b) :
    (List.range n).foldl (fun a i => a + f i * b ^ i) 0 < b ^ n ∧ ∀ i < n, (List.range n).foldl (fun a i => a + f i * b ^ i) 0 / b ^ i % b = f i := by
  induction n with
  | zero => exact ⟨Nat.one_pos, fun i hi => absurd hi (Nat.not_lt_zero i)⟩
  | succ n ih =>
    obtain ⟨hlt, hd⟩ := ih fun i hi => h i (Nat.lt_succ_of_lt hi)
    have hn := h n (Nat.lt_succ_self n)
    rw [List.range_succ, List.foldl_append, List.foldl_cons, List.foldl_nil]
    generalize (List.range n).foldl (fun a i => a + f i * b ^ i) 0 = S at *
    refine ⟨?_, fun i hi => ?_⟩
    · calc S + f n * b ^ n < b ^ n + f n * b ^ n := Nat.add_lt_add_right hlt _
        _ = (f n + 1) * b ^ n := by ring
        _ ≤ b * b ^ n := Nat.mul_le_mul_right _ hn
        _ = b ^ (n + 1) := (Nat.pow_succ' ..).symm
    · rcases Nat.lt_succ_iff_lt_or_eq.mp hi with hi | rfl
      · obtain ⟨j, rfl⟩ : ∃ j, n = i + (j + 1) := ⟨n - i - 1, by omega⟩
        have hb : 0 < b := by omega
        rw [show f (i + (j + 1)) * b ^ (i + (j + 1)) = b ^ i * (b * (f (i + (j + 1)) * b ^ j)) by ring,
          Nat.add_mul_div_left _ _ (Nat.pow_pos hb), Nat.add_mul_mod_self_left]
        exact hd i hi
      · rw [Nat.add_mul_div_right _ _ (by omega), Nat.div_eq_of_lt hlt, Nat.zero_add, Nat.mod_eq_of_lt hn]

/-- The bits of the sequencers leased, the lowest first. -/
theorem foldl_bits (p : Nat → Bool) : ([0, 1, 2, 3].filter p).foldl (fun a i => a + 2 ^ i) 0
    = (p 0).toNat + 2 * (p 1).toNat + 4 * (p 2).toNat + 8 * (p 3).toNat := by
  cases h0 : p 0 <;> cases h1 : p 1 <;> cases h2 : p 2 <;> cases h3 : p 3 <;> simp [List.filter, h0, h1, h2, h3]

theorem State.splitplan_fields (s : State) (core : Nat) (hp : (s.coreOf core).plan < 16) (hq : (s.coreOf core).pend < 8) :
    let k := s.coreOf core
    let v := s.splitplan core
    v.toNat % 16 = k.plan ∧ (∀ i < 4, v.getLsbD (4 + i) = true ↔ (s.fragOf core i).state = 1 ∨ (s.fragOf core i).state = 3)
      ∧ v.getLsbD 15 = k.pendv ∧ (k.pendv = true → v.toNat / 2 ^ 12 % 8 = k.pend) ∧ v.toNat < 2 ^ 16 := by
  intro k v
  let p (i : Nat) : Bool := decide ((s.fragOf core i).state = 1) || decide ((s.fragOf core i).state = 3)
  have hb (i : Nat) : (p i).toNat ≤ 1 := Bool.toNat_le _
  replace hp : k.plan < 16 := hp
  replace hq : k.pend < 8 := hq
  have hN : v.toNat = k.plan + ((p 0).toNat + 2 * (p 1).toNat + 4 * (p 2).toNat + 8 * (p 3).toNat) * 16
      + (if k.pendv then k.pend * 2 ^ 12 + 2 ^ 15 else 0) := by
    have hv : v = BitVec.ofNat 64 (k.plan + ((p 0).toNat + 2 * (p 1).toNat + 4 * (p 2).toNat + 8 * (p 3).toNat) * 16
        + (if k.pendv then k.pend * 2 ^ 12 + 2 ^ 15 else 0)) := by
      rw [← foldl_bits]
      rfl
    have := hb 0; have := hb 1; have := hb 2; have := hb 3
    rw [hv, BitVec.toNat_ofNat, Nat.mod_eq_of_lt]
    split <;> omega
  have := hb 0; have := hb 1; have := hb 2; have := hb 3
  have hbit (i : Nat) (hi : i < 4) : v.toNat / 2 ^ (4 + i) % 2 = (p i).toNat := by
    rw [hN]
    interval_cases i <;> split <;> omega
  refine ⟨?_, fun i hi => ?_, ?_, fun h => ?_, ?_⟩
  · rw [hN]
    split <;> omega
  · rw [BitVec.getLsbD, Nat.testBit_eq_decide_div_mod_eq, hbit i hi]
    simp [p]
  · rw [BitVec.getLsbD, Nat.testBit_eq_decide_div_mod_eq, hN]
    cases k.pendv <;> simp <;> omega
  · rw [hN, if_pos h]
    omega
  · rw [hN]
    split <;> omega

theorem State.accownReg_digits (s : State) (h : ∀ j < 16, s.accCode s.core (16 * (s.cx.accsel.toNat % 128) + j) < 16) :
    ∀ i < 16, s.accownReg.toNat / 16 ^ i % 16 = s.accCode s.core (16 * (s.cx.accsel.toNat % 128) + i) := by
  obtain ⟨hlt, hd⟩ := foldl_digits 16 (fun i => s.accCode s.core (16 * (s.cx.accsel.toNat % 128) + i)) 16 h
  intro i hi
  rw [show s.accownReg.toNat = (List.range 16).foldl (fun a i => a + s.accCode s.core (16 * (s.cx.accsel.toNat % 128) + i) * 16 ^ i) 0 from
    (BitVec.toNat_ofNat ..).trans (Nat.mod_eq_of_lt hlt)]
  exact hd i hi

/-! ### SETS, by the register -/

section
variable {s : State} {r : BitVec 5} {n : BitVec 16}

theorem exec_sets_priv (hc : s.ctx ≠ 4) (h : 0x8000 ≤ n.toNat) : exec (.sets r n) s = .next (s.trapped 2 0) := if_pos ⟨h, hc⟩

variable (hp : 0x8000 ≤ n.toNat → s.ctx = 4)
include hp

theorem exec_sets_eq : exec (.sets r n) s =
    if n.toNat = 5 then s.setVshape (s.cx.sreg r.toNat)
    else if n.toNat = 12 then s.retire { s.cx with accsel := s.cx.sreg r.toNat &&& 0x7F }
    else if n.toNat = 0x8000 then
      if (s.cx.sreg r.toNat).toNat % 64 ≤ 32 then
        .next (s.setCore s.core { s.coreOf s.core with fwshare := s.cx.sreg r.toNat &&& 0x3F }).retired
      else .next (s.trapped 1 0)
    else if 0x8002 ≤ n.toNat ∧ n.toNat ≤ 0x8005 then
      if 1 ≤ (s.cx.sreg r.toNat).toNat ∧ (s.cx.sreg r.toNat).toNat < 2 ^ 40 then
        .next (s.setCtx s.core (n.toNat - 0x8002) { s.ctxOf s.core (n.toNat - 0x8002) with stallLim := (s.cx.sreg r.toNat).toNat }).retired
      else .next (s.trapped 1 0)
    else if n.toNat = 0x8006 then
      if allocctlOk (s.cx.sreg r.toNat) then
        .next (s.setCore s.core { s.coreOf s.core with allocctl := s.cx.sreg r.toNat &&& 0x11F1F }).retired
      else .next (s.trapped 1 0)
    else .next (s.trapped 1 0) :=
  if_neg fun hn => hn.2 (hp hn.1)
end

theorem vshapeOk_iff (v : Word) : vshapeOk v = true ↔ v.toNat % 16 ≤ 12 ∧ v.toNat / 16 % 2 ^ 11 ≠ 0
    ∧ v.toNat / 16 % 2 ^ 11 ≤ 1024 / (typeBits (v.toNat % 16) / 8) ∧ v.getLsbD 15 = false ∧ v.toNat / 2 ^ 16 ≤ 4 := by
  have hr : vsRm v ≤ 4 ∧ v.toNat < 2 ^ 19 ↔ v.toNat / 2 ^ 16 ≤ 4 := by
    simp only [vsRm, bits]
    omega
  simp only [vshapeOk, Bool.and_eq_true, decide_eq_true_eq, Bool.not_eq_true']
  rw [← hr]
  simp only [vsType, vsLen, bits]
  constructor
  · rintro ⟨⟨⟨⟨⟨h1, h2⟩, h3⟩, h4⟩, h5⟩, h6⟩
    exact ⟨h1, h2, h3, h6, h4, h5⟩
  · rintro ⟨h1, h2, h3, h6, h4, h5⟩
    exact ⟨⟨⟨⟨⟨h1, h2⟩, h3⟩, h4⟩, h5⟩, h6⟩

theorem allocctlOk_iff (v : Word) : allocctlOk v = true ↔
    10 ≤ v.toNat / 2 ^ 8 % 32 ∧ v.toNat / 2 ^ 8 % 32 ≤ 24 ∧ 10 ≤ v.toNat % 32 ∧ v.toNat % 32 ≤ 30 := by
  simp only [allocctlOk, Bool.and_eq_true, decide_eq_true_eq]
  simp only [bits]
  omega

theorem State.ctxOf_retired_ne {s : State} {core i : Nat} (h : core * 8 + i ≠ s.core * 8 + s.ctx) : s.retired.ctxOf core i = s.ctxOf core i :=
  State.ctxOf_setCtx_ne _ _ h

section
variable {s : State} {v : Word} (hc : s.ctx < 4) (hs : vshapeOk v = true)
include hc hs

theorem setVshape_full (hq : 16 ≤ (s.engOf s.core s.ctx).queue.length) : s.setVshape v = .next s.stalled := by
  have h1 : ¬ (s.ctx = Config.fwCtx ∨ (!vshapeOk v) = true) := not_or.mpr ⟨Nat.ne_of_lt hc, by rw [hs]; decide⟩
  exact (if_neg h1).trans (if_pos (decide_eq_true hq))

/-- A shape is placed behind the vector context's commands, and bound for the words that follow. -/
theorem setVshape_places (hq : (s.engOf s.core s.ctx).queue.length < 16) : ∃ t : State, s.setVshape v = .next t
    ∧ t.cx = { s.cx with cmdNo := s.cx.cmdNo + 1, vshape := v }.advance
    ∧ ∃ q, (t.engOf s.core s.ctx).queue = q ++ [{ id := s.cx.cmdNo, held := false, kind := .vshape v }] ∧ q.length = (s.engOf s.core s.ctx).queue.length := by
  have h1 : ¬ (s.ctx = Config.fwCtx ∨ (!vshapeOk v) = true) := not_or.mpr ⟨Nat.ne_of_lt hc, by rw [hs]; decide⟩
  have h2 : ¬ s.queueFull s.core s.ctx = true := fun h => Nat.not_le.mpr hq (of_decide_eq_true h)
  refine ⟨_, (if_neg h1).trans (if_neg h2), ?_, ?_⟩
  · have hp : (s.place s.core s.ctx s.ctx false (.vshape v)).cx = { s.cx with cmdNo := s.cx.cmdNo + 1 } := State.ctxOf_setCtx_same ..
    rw [State.cx_setCx, hp]
  · exact ⟨plainMarkers (s.engOf s.core s.ctx).queue, congrArg Eng.queue (Tbl.get_set_same ..), List.length_map ..⟩
end

/-- Settles O9: each register by its row, and SETS by the register it names. -/
theorem systemRegisters : Obligations.SystemRegisters := by
  refine ⟨?_, ?_⟩
  · intro s d n c k vf
    have row {m : Nat} {v : Word} (hm : m < 0x8000) (hv : s.userReg m = some v) (e : n.toNat = m) : exec (.gets d n) s = .next (s.wrote d v) :=
      exec_gets_user d (e ▸ hm) (e ▸ hv)
    have fwrow {m : Nat} {v : Word} (hm : 0x8000 ≤ m) (h1 : m ≠ 0x8001) (hv : s.fwReg m = some v) (hc : s.ctx = 4) (e : n.toNat = m) :
        exec (.gets d n) s = .next (s.wrote d v) := exec_gets_fw d hc (e ▸ hm) (e ▸ h1) (e ▸ hv)
    refine ⟨row (by decide) rfl, row (by decide) rfl, fun e hp hq => ⟨_, row (by decide) rfl e, s.splitplan_fields s.core hp hq⟩,
      row (by decide) rfl, row (by decide) rfl, row (by decide) rfl, row (by decide) rfl, row (by decide) rfl, row (by decide) rfl,
      row (by decide) rfl, row (by decide) rfl, row (by decide) rfl, row (by decide) rfl,
      fun e => ⟨_, row (by decide) rfl e, fun i hi hj => s.accownReg_digits hj i hi⟩, row (by decide) rfl,
      fwrow (by decide) (by decide) rfl, fun hc e he => ?_, fun hc e src cause r he => ?_, fun i hi hc e => ?_,
      fwrow (by decide) (by decide) rfl, fwrow (by decide) (by decide) rfl, exec_gets_priv d, fun h1 h2 => ?_, fun hc h => ?_⟩
    · rw [exec_gets_event d hc e, State.popEvent, he]
    · obtain ⟨k', hk, hpop⟩ := State.popEvent_cons (core := s.core) he
      rw [exec_gets_event d hc e, hpop]
      refine ⟨_, rfl, (State.cx_setCx ..).trans (State.cx_setCx ..).symm, ?_⟩
      rwa [show ((s.setCore s.core k').wrote d _).coreOf s.core = k' from Tbl.get_set_same ..]
    · refine exec_gets_fw d hc (by omega) (by omega) ?_
      have hi' : n.toNat - 0x8002 = i := by omega
      rw [State.fwReg, if_neg (by omega), if_pos (by omega), hi']
    · refine exec_gets_user_none d h2 ?_
      simp only [State.userReg]
      iterate 15 rw [if_neg (by omega)]
    · refine exec_gets_fw_none d hc (by omega) (by omega) ?_
      simp only [State.fwReg]
      iterate 4 rw [if_neg (by omega)]
  · intro s r n v k bytes len shapeOk
    have hshape : vshapeOk v = true ↔ shapeOk := vshapeOk_iff v
    refine ⟨fun e => ?_, fun e hc hs hq => ?_, fun e hc hs hq => ?_, fun e hc hs => ?_, fun e hc => ?_, fun hc e hv => ?_, fun hc e hv => ?_,
      fun i hi hc e h1 h2 => ?_, fun hc e h1 h2 h3 h4 => ?_, fun hc e hv => ?_, fun i hi hc e hv => ?_, fun hc e => ?_, exec_sets_priv,
      fun h h5 h12 => ?_⟩
    · rw [exec_sets_eq (by omega), if_neg (by omega), if_pos e]
      rfl
    · rw [exec_sets_eq (by omega), if_pos e]
      exact setVshape_places hc (hshape.mpr hs) hq
    · rw [exec_sets_eq (by omega), if_pos e]
      exact setVshape_full hc (hshape.mpr hs) hq
    · rw [exec_sets_eq (by omega), if_pos e]
      exact if_pos (.inr (by simpa using fun h => hs (hshape.mp h)))
    · rw [exec_sets_eq (by omega), if_pos e]
      exact if_pos (.inl hc)
    · rw [exec_sets_eq fun _ => hc, if_neg (by omega), if_neg (by omega), if_pos e, if_pos hv]
    · rw [exec_sets_eq fun _ => hc, if_neg (by omega), if_neg (by omega), if_pos e, if_neg (Nat.not_le.mpr hv)]
    · rw [exec_sets_eq fun _ => hc, if_neg (by omega), if_neg (by omega), if_neg (by omega), if_pos (by omega), if_pos ⟨h1, h2⟩,
        show n.toNat - 0x8002 = i by omega]
      have hk : s.core * 8 + s.ctx ≠ s.core * 8 + i := by omega
      refine ⟨_, rfl, ?_, ?_⟩
      · exact (congrArg Ctx.stallLim (State.ctxOf_retired_ne (s := s.setCtx s.core i _) hk.symm)).trans
          (congrArg Ctx.stallLim (State.ctxOf_setCtx_same ..))
      · rw [State.cx_retired]
        exact congrArg Ctx.advance (State.ctxOf_setCtx_ne _ _ hk)
    · rw [exec_sets_eq fun _ => hc, if_neg (by omega), if_neg (by omega), if_neg (by omega), if_neg (by omega), if_pos e,
        if_pos ((allocctlOk_iff v).mpr ⟨h1, h2, h3, h4⟩)]
    · rw [exec_sets_eq fun _ => hc, if_neg (by omega), if_neg (by omega), if_neg (by omega), if_neg (by omega), if_pos e,
        if_neg fun h => by have := (allocctlOk_iff v).mp h; omega]
    · rw [exec_sets_eq fun _ => hc, if_neg (by omega), if_neg (by omega), if_neg (by omega), if_pos (by omega), if_neg]
      exact fun h => hv.elim (fun e => by have := h.1.trans_eq e; omega) fun e => Nat.not_lt.mpr e h.2
    · rw [exec_sets_eq fun _ => hc, if_neg (by omega), if_neg (by omega), if_neg (by omega), if_neg (by omega), if_neg (by omega)]
    · rw [exec_sets_eq (by omega), if_neg h5, if_neg h12, if_neg (by omega), if_neg (by omega), if_neg (by omega)]
end Sys2Proof.Machine
end

section
/-! ## O10: a near ACAS on a combine whose address its width does not divide -/
namespace Sys2Proof.Machine

/-- Refutes O10: in `tornCombine` the byte 4 behind the address of a 32-bit near ACAS is no byte of its word and reads 0 before it; the ACAS
folds the whole combine of eight bytes into held bytes, and it reads 1 afterwards. -/
theorem not_atomics : ¬ Obligations.Atomics := by
  intro h
  have hx : tornCombine.translate 0 0 12 .rmw .near = .ok { pa := 5 * 2 ^ 21 + 12, cls := 0, frame := 5, off := 12 } := by rfl
  obtain ⟨-, t, ht, -, hfree⟩ := (h.1 tornCombine 3 1 0 0 0 0 0 _ (by decide) (by decide) (by decide)).2 hx (by decide) (by rfl) (by rfl)
    (by decide)
  obtain ⟨-, hrest, -⟩ := hfree rfl
  have hb := hrest (5 * 2 ^ 21 + 16) (by decide)
  have hafter : lotAfter (.acas 3 1 0 0 0 0 0) tornCombine (5 * 2 ^ 21 + 16) = some 1 := by decide +kernel
  have hbefore : tornCombine.lotByte tornCombine.cx combView (5 * 2 ^ 21 + 16) = 0 := by decide +kernel
  rw [lotAfter_of_next ht, hb, hbefore] at hafter
  exact absurd hafter (by decide)
end Sys2Proof.Machine
end

section
/-! ## O11: what a commit leaves, and the instructions that commit and take effect -/
namespace Sys2Proof.Machine

/-! ### Writes of bytes -/

theorem State.WroteBytes.trans {σ τ ρ : State} (h : σ.WroteBytes τ) (g : τ.WroteBytes ρ) : σ.WroteBytes ρ := by
  obtain ⟨f, e, w, a, rfl⟩ := h
  obtain ⟨f', e', w', a', rfl⟩ := g
  exact ⟨f', e', w', a', rfl⟩

theorem State.WroteBytes.ctxOf {σ τ : State} (h : σ.WroteBytes τ) (core ctx : Nat) : τ.ctxOf core ctx = σ.ctxOf core ctx := by
  obtain ⟨f, e, w, a, rfl⟩ := h
  rfl

theorem State.WroteBytes.cx {σ τ : State} (h : σ.WroteBytes τ) : τ.cx = σ.cx := by
  obtain ⟨f, e, w, a, rfl⟩ := h
  rfl

theorem State.WroteBytes.slotArea {σ τ : State} (h : σ.WroteBytes τ) (core ctx : Nat) : τ.slotArea core ctx = σ.slotArea core ctx := by
  obtain ⟨f, e, w, a, rfl⟩ := h
  rfl

theorem State.WroteBytes.frameRec {σ τ : State} (h : σ.WroteBytes τ) (n : Nat) : τ.frameRec n = σ.frameRec n := by
  obtain ⟨f, e, w, a, rfl⟩ := h
  rfl

theorem State.WroteBytes.importRec {σ τ : State} (h : σ.WroteBytes τ) (n : Nat) : τ.importRec n = σ.importRec n := by
  obtain ⟨f, e, w, a, rfl⟩ := h
  rfl

theorem State.WroteBytes.time {σ τ : State} (h : σ.WroteBytes τ) : τ.time = σ.time := by
  obtain ⟨f, e, w, a, rfl⟩ := h
  rfl

theorem State.WroteBytes.fabReqs {σ τ : State} (h : σ.WroteBytes τ) : τ.fabReqs = σ.fabReqs := by
  obtain ⟨f, e, w, a, rfl⟩ := h
  rfl

/-- A table into which pairs are put one after the other answers the value of a key that all its pairs give alike. -/
theorem Tbl.find?_setAll_of_unique (l : List (Nat × Byte)) (t : Tbl Byte) (a : Nat) (v : Byte) (h : (a, v) ∈ l) (hu : ∀ v', (a, v') ∈ l → v' = v) :
    Tbl.find? (l.foldl (fun t p => Tbl.set t p.1 p.2) t) a = some v := by
  induction l generalizing t with
  | nil => cases h
  | cons p l ih =>
    rw [List.foldl_cons]
    by_cases hl : (a, v) ∈ l
    · exact ih _ hl fun v' hv => hu v' (.tail _ hv)
    · obtain rfl : (a, v) = p := (List.mem_cons.mp h).resolve_right hl
      rw [Tbl.find?_setAll_ne, Tbl.find?_set_same]
      rintro ⟨a', v'⟩ hq rfl
      exact hl (hu v' (.tail _ hq) ▸ hq)

theorem State.writeList_memByte_of_unique (σ : State) (l : List (Nat × Byte)) (a : Nat) (v : Byte) (h : (a, v) ∈ l) (hu : ∀ v', (a, v') ∈ l → v' = v) :
    (σ.writeList l).memByte a = v := by
  unfold State.memByte
  rw [State.writeList_fcache, Tbl.find?_setAll_of_unique l _ a v h hu]

theorem State.writeNat_shape (σ : State) (pa n v : Nat) : σ.WroteBytes (σ.writeNat pa n v) := σ.writeList_shape _

theorem State.writeNat_memByte (σ : State) (pa n v i : Nat) (h : i < n) : (σ.writeNat pa n v).memByte (pa + i) = BitVec.ofNat 8 (v / 256 ^ i) := by
  refine σ.writeList_memByte _ _ _ ?_ (bytesAt_nodup pa n v)
  exact List.mem_map.mpr ⟨i, List.mem_range.mpr h, rfl⟩

theorem State.writeNat_memByte_ne (σ : State) (pa n v a : Nat) (h : a < pa ∨ pa + n ≤ a) : (σ.writeNat pa n v).memByte a = σ.memByte a := by
  refine σ.writeList_memByte_ne _ _ fun p hp => ?_
  obtain ⟨i, hi, rfl⟩ := List.mem_map.mp hp
  have := List.mem_range.mp hi
  dsimp only
  omega

/-! ### Combined operations -/

theorem State.applyComb_shape (σ : State) (req pa : Nat) (k : Comb) : σ.WroteBytes (σ.applyComb req pa k) := by
  unfold State.applyComb
  split
  · exact σ.writeNat_shape ..
  · exact .refl σ

theorem State.applyComb_memByte_ne (σ : State) (req pa : Nat) (k : Comb) (a : Nat) (h : a < pa ∨ pa + k.width ≤ a) :
    (σ.applyComb req pa k).memByte a = σ.memByte a := by
  unfold State.applyComb
  split
  · exact σ.writeNat_memByte_ne _ _ _ _ h
  · rfl

theorem State.applyCombs_shape (l : List (Nat × Comb)) (σ : State) (req : Nat) : σ.WroteBytes (l.foldl (fun σ p => σ.applyComb req p.1 p.2) σ) := by
  induction l generalizing σ with
  | nil => exact .refl σ
  | cons p l ih => exact (σ.applyComb_shape req p.1 p.2).trans (ih _)

theorem State.applyCombs_memByte_ne (l : List (Nat × Comb)) (σ : State) (req a : Nat) (h : ∀ p ∈ l, a < p.1 ∨ p.1 + p.2.width ≤ a) :
    (l.foldl (fun σ p => σ.applyComb req p.1 p.2) σ).memByte a = σ.memByte a := by
  induction l generalizing σ with
  | nil => rfl
  | cons p l ih => exact (ih _ fun q hq => h q (.tail _ hq)).trans (σ.applyComb_memByte_ne req _ _ a (h p (.head _)))

/-- The sign that a comparison of words of n bits takes (R205). -/
theorem toInt_ofNat_of_lt {n x : Nat} (h : x < 2 ^ n) (hn : 0 < n) : (BitVec.ofNat n x).toInt = if x.testBit (n - 1) then (x : Int) - 2 ^ n else x := by
  rw [BitVec.toInt_eq_msb_cond, BitVec.msb_eq_getLsbD_last, BitVec.getLsbD_ofNat, BitVec.toNat_ofNat, Nat.mod_eq_of_lt h]
  have : n - 1 < n := by omega
  simp [this]

theorem atomicInt_eq_atomResult {op n old v : Nat} (hn : 0 < n) (ho : old < 2 ^ n) (hv : v < 2 ^ n) (hop : op ≤ 7) : atomicInt op n old v = atomResult op n old v := by
  unfold atomicInt atomResult
  simp only [toInt_ofNat_of_lt ho hn, toInt_ofNat_of_lt hv hn]
  interval_cases op <;> rfl

/-- The value a combine leaves is that of the table of R205. -/
theorem atomicVal_eq_atomResult {op n old v : Nat} (hn : 0 < n) (ho : old < 2 ^ n) (hv : v < 2 ^ n) (hop : op ≤ 7 ∨ op = 9) :
    atomicVal op n old v = atomResult op n old v := by
  unfold atomicVal
  rcases hop with hop | rfl
  · rw [if_neg (by omega), atomicInt_eq_atomResult hn ho hv hop]
  · rfl

theorem State.memNat_lt (σ : State) (pa n : Nat) : σ.memNat pa n < 256 ^ n := by
  unfold State.memNat
  suffices ∀ l : List Nat, l.foldr (fun i a => (σ.memByte (pa + i)).toNat + 256 * a) 0 < 256 ^ l.length by
    simpa using this (List.range n)
  intro l
  induction l with
  | nil => simp
  | cons i l ih =>
    have := (σ.memByte (pa + i)).isLt
    rw [List.foldr_cons, List.length_cons, pow_succ]
    omega

/-! ### Faults posted to a slot -/

theorem State.addPosted_ctxOf (σ : State) (core slot : Nat) (r : FaultRec) :
    (σ.addPosted core slot r).ctxOf core slot = { σ.ctxOf core slot with posted := (σ.ctxOf core slot).posted ++ [r] } :=
  (((σ.setCtx core slot _).writeFault_shape core slot r false).ctxOf core slot).trans (σ.ctxOf_setCtx_same core slot _)

theorem State.addPosted_slotArea (σ : State) (core slot : Nat) (r : FaultRec) : (σ.addPosted core slot r).slotArea core slot = σ.slotArea core slot := by
  refine (((σ.setCtx core slot _).writeFault_shape core slot r false).slotArea core slot).trans ?_
  unfold State.slotArea
  rw [σ.ctxOf_setCtx_same]
  rfl

theorem State.addPosted_fabReqs (σ : State) (core slot : Nat) (r : FaultRec) : (σ.addPosted core slot r).fabReqs = σ.fabReqs :=
  ((σ.setCtx core slot _).writeFault_shape core slot r false).fabReqs

/-- The places of a fault record in a context area lie between 0x100 and 0x180 (R377). -/
theorem faultFields_places (r : FaultRec) (c : Ctx) : ∀ f ∈ faultFields r ++ tagFields c, 0x100 ≤ f.1 ∧ f.1 + f.2.1 ≤ 0x180 := by
  intro f hf
  rcases List.mem_append.mp hf with hf | hf
  · simp only [faultFields, List.mem_cons, List.not_mem_nil, or_false] at hf
    obtain rfl | rfl | rfl | rfl | rfl | rfl | rfl | rfl | rfl := hf <;> simp only <;> omega
  · obtain ⟨t, ht, rfl⟩ := List.mem_map.mp hf
    have := List.mem_range.mp ht
    simp only
    omega

theorem State.writeFault_memByte_ne (σ : State) (core slot : Nat) (r : FaultRec) (pc : Bool) (a : Nat)
    (h : ∀ p, σ.slotArea core slot = some p → a < p + 0x100 ∨ p + 0x180 ≤ a) : (σ.writeFault core slot r pc).memByte a = σ.memByte a := by
  unfold State.writeFault
  split
  case h_1 base hb =>
    refine σ.areaPut_memByte_ne _ a fun p hp => ?_
    obtain ⟨f, hf, hp⟩ := List.mem_flatMap.mp hp
    have hf : f ∈ faultFields r ++ tagFields (σ.ctxOf core slot) := by
      rcases List.mem_append.mp hf with hf | hf
      · exact List.mem_append_left _ (List.mem_filter.mp hf).1
      · exact List.mem_append_right _ hf
    have hpl := faultFields_places _ _ f hf
    obtain ⟨i, hi, rfl⟩ := List.mem_map.mp hp
    have hi := List.mem_range.mp hi
    have := h base hb
    dsimp only
    omega
  case h_2 => rfl

theorem State.memByte_setCtx (σ : State) (core ctx : Nat) (c : Ctx) (a : Nat) : (σ.setCtx core ctx c).memByte a = σ.memByte a := rfl

theorem State.addPosted_memByte_ne (σ : State) (core slot : Nat) (r : FaultRec) (a : Nat)
    (h : ∀ p, σ.slotArea core slot = some p → a < p + 0x100 ∨ p + 0x180 ≤ a) : (σ.addPosted core slot r).memByte a = σ.memByte a := by
  refine (State.writeFault_memByte_ne _ core slot r false a fun p hp => h p ?_).trans (State.memByte_setCtx _ _ _ _ _)
  rw [← hp]
  unfold State.slotArea
  rw [σ.ctxOf_setCtx_same]
  rfl

/-- The faults of a list are posted to a slot, in their order. -/
def State.postAll (σ : State) (core slot : Nat) (l : List FaultRec) : State := l.foldl (fun σ r => σ.addPosted core slot r) σ

theorem State.postAll_ctxOf (l : List FaultRec) (σ : State) (core slot : Nat) :
    (σ.postAll core slot l).ctxOf core slot = { σ.ctxOf core slot with posted := (σ.ctxOf core slot).posted ++ l } := by
  unfold State.postAll
  induction l generalizing σ with
  | nil => simp
  | cons r l ih => rw [List.foldl_cons, ih, State.addPosted_ctxOf]; simp

theorem State.postAll_fabReqs (l : List FaultRec) (σ : State) (core slot : Nat) : (σ.postAll core slot l).fabReqs = σ.fabReqs := by
  unfold State.postAll
  induction l generalizing σ with
  | nil => rfl
  | cons r l ih => rw [List.foldl_cons, ih, State.addPosted_fabReqs]

theorem State.postAll_memByte_ne (l : List FaultRec) (σ : State) (core slot a : Nat)
    (h : ∀ p, σ.slotArea core slot = some p → a < p + 0x100 ∨ p + 0x180 ≤ a) : (σ.postAll core slot l).memByte a = σ.memByte a := by
  unfold State.postAll
  induction l generalizing σ with
  | nil => rfl
  | cons r l ih =>
    rw [List.foldl_cons, ih, σ.addPosted_memByte_ne core slot r a h]
    rwa [State.addPosted_slotArea]

/-! ### The commit -/

/-- The context whose held bytes and combines a commit performs: those of a lot whose last phase has been committed are dropped (R47). -/
def State.committing (σ : State) (core ctx : Nat) : Ctx :=
  let c := σ.ctxOf core ctx
  if c.committed then { c with held := [], combs := [] } else c

/-- A commit performs the held byte: its frame is the lot's VF's. -/
def State.mineAt (σ : State) (core ctx a : Nat) : Bool := ownerMatches (σ.vfOf core ctx) (σ.frameRec (frameOf a)).owner

/-- The state with the commit's bytes in memory. -/
def State.committedBytes (σ : State) (core ctx : Nat) : State :=
  (σ.committing core ctx).combs.foldl (fun σ' p => σ'.applyComb (σ.vfOf core ctx) p.1 p.2)
    (σ.writeList ((heldHere (σ.committing core ctx).held).filter fun p => σ.mineAt core ctx p.1))

/-- The lines of fabric windows that a commit sends, and the addresses it does not perform. -/
def fabricLines (c : Ctx) : List Nat := ((c.held.filter fun (p : Nat × Byte) => decide (physLimit ≤ p.1)).map fun p => p.1 / 64).eraseDups
def State.foreignAddrs (σ : State) (core ctx : Nat) : List Nat :=
  ((heldHere (σ.committing core ctx).held).filter (fun p => !σ.mineAt core ctx p.1)).map (·.1)
    ++ ((σ.committing core ctx).combs.filter fun p => !σ.mineAt core ctx p.1).map (·.1)

/-- The faults a commit posts: one for each line it does not perform. -/
def State.commitFaults (σ τ : State) (core ctx : Nat) : List FaultRec :=
  let bad := σ.foreignAddrs core ctx
  (bad.map fun a => a / 64).eraseDups.map fun l =>
    { cause := causeOwner, src := ctx, pc := (σ.committing core ctx).pc, time := τ.time,
      detail := (σ.committing core ctx).heldVa ((bad.find? fun a => decide (a / 64 = l)).getD (64 * l)) }

/-- A commit puts its bytes into memory, sends its fabric lines, empties the commit buffer and posts its faults. -/
theorem State.commit_eq (σ : State) (core ctx : Nat) : ∃ (τ : State) (l : List FaultRec), σ.commit core ctx = τ.postAll core ctx l
    ∧ l = σ.commitFaults τ core ctx
    ∧ (τ.fcache = (σ.committedBytes core ctx).fcache ∧ τ.mem = (σ.committedBytes core ctx).mem ∧ τ.tiles = (σ.committedBytes core ctx).tiles)
    ∧ (τ.tasks = (σ.committedBytes core ctx).tasks ∧ τ.nodes = (σ.committedBytes core ctx).nodes ∧ τ.bar = (σ.committedBytes core ctx).bar)
    ∧ τ.fabReqs = (σ.committedBytes core ctx).fabReqs ++ (fabricLines (σ.committing core ctx)).zipIdx.map (fun p =>
        (σ.committedBytes core ctx).storeReq core ctx (σ.committing core ctx) p.1 ((σ.committedBytes core ctx).fresh + p.2))
    ∧ ∃ fs, τ.ctxOf core ctx = { (σ.committedBytes core ctx).ctxOf core ctx with
        held := [], combs := [], seen := [], vseen := [], after := [], lines := [], lineVas := [], fences := fs } := by
  refine ⟨_, _, rfl, rfl, ⟨rfl, rfl, rfl⟩, ⟨rfl, rfl, rfl⟩, rfl, ?_⟩
  exact ⟨_, State.ctxOf_setCtx_same _ core ctx _⟩

theorem State.committedBytes_shape (σ : State) (core ctx : Nat) : σ.WroteBytes (σ.committedBytes core ctx) :=
  (σ.writeList_shape _).trans (State.applyCombs_shape _ _ _)

theorem State.memByte_congr {σ τ : State} (hf : τ.fcache = σ.fcache) (hm : τ.mem = σ.mem) (ht : τ.tiles = σ.tiles) (a : Nat) :
    τ.memByte a = σ.memByte a := by
  unfold State.memByte State.tile
  rw [hf, hm, ht]

/-- Outside the fault record of the slot's context area (R377). -/
def State.offFaultOf (σ : State) (core ctx a : Nat) : Prop := ∀ p, σ.slotArea core ctx = some p → a < p + 0x100 ∨ p + 0x180 ≤ a

theorem State.commit_memByte (σ : State) (core ctx a : Nat) (h : σ.offFaultOf core ctx a) :
    (σ.commit core ctx).memByte a = (σ.committedBytes core ctx).memByte a := by
  obtain ⟨τ, l, he, -, ⟨hf, hm, ht⟩, ⟨htk, hnd, hbar⟩, -, fs, hcx⟩ := σ.commit_eq core ctx
  rw [he, State.postAll_memByte_ne, State.memByte_congr hf hm ht]
  intro p hp
  refine h p ?_
  rw [← (σ.committedBytes_shape core ctx).slotArea, ← hp]
  unfold State.slotArea State.areaOf State.taskOf State.nodeOf State.areaPa State.reg
  rw [hcx, htk, hnd, hbar]

/-- What a commit leaves of its context. -/
theorem State.commit_ctxOf (σ : State) (core ctx : Nat) : ∃ fs ps, (σ.commit core ctx).ctxOf core ctx = { σ.ctxOf core ctx with
    held := [], combs := [], seen := [], vseen := [], after := [], lines := [], lineVas := [], fences := fs, posted := ps } := by
  obtain ⟨τ, l, he, -, -, -, -, fs, hcx⟩ := σ.commit_eq core ctx
  refine ⟨fs, (σ.ctxOf core ctx).posted ++ l, ?_⟩
  rw [he, State.postAll_ctxOf, hcx, (σ.committedBytes_shape core ctx).ctxOf]

theorem State.committedBytes_memByte_ne (σ : State) (core ctx a : Nat) (hc : ∀ p ∈ (σ.committing core ctx).combs, a < p.1 ∨ p.1 + p.2.width ≤ a)
    (hh : ∀ b, (a, b) ∈ (σ.committing core ctx).held → σ.mineAt core ctx a = false) : (σ.committedBytes core ctx).memByte a = σ.memByte a := by
  unfold State.committedBytes
  rw [State.applyCombs_memByte_ne _ _ _ _ hc, State.writeList_memByte_ne]
  rintro ⟨a', b⟩ hp rfl
  obtain ⟨hp, hm⟩ := List.mem_filter.mp hp
  rw [hh b (List.mem_filter.mp hp).1] at hm
  cases hm

theorem State.committedBytes_memByte_held (σ : State) (core ctx a : Nat) (b : Byte)
    (hc : ∀ p ∈ (σ.committing core ctx).combs, a < p.1 ∨ p.1 + p.2.width ≤ a) (hb : (a, b) ∈ (σ.committing core ctx).held)
    (hu : ∀ b', (a, b') ∈ (σ.committing core ctx).held → b' = b) (ha : a < 2 ^ 41) (hm : σ.mineAt core ctx a = true) :
    (σ.committedBytes core ctx).memByte a = b := by
  unfold State.committedBytes
  rw [State.applyCombs_memByte_ne _ _ _ _ hc, State.writeList_memByte_of_unique _ _ a b]
  · exact List.mem_filter.mpr ⟨List.mem_filter.mpr ⟨hb, decide_eq_true ha⟩, hm⟩
  · exact fun b' h => hu b' (List.mem_filter.mp (List.mem_filter.mp h).1).1

theorem State.committing_of_open {σ : State} {core ctx : Nat} (h : (σ.ctxOf core ctx).committed = false) :
    σ.committing core ctx = σ.ctxOf core ctx := by
  unfold State.committing
  simp [h]

theorem State.committing_of_committed {σ : State} {core ctx : Nat} (h : (σ.ctxOf core ctx).committed = true) :
    (σ.committing core ctx).held = [] ∧ (σ.committing core ctx).combs = [] := by
  unfold State.committing
  simp [h]

/-- What a commit drops or performs is of the context. -/
theorem State.committing_sub (σ : State) (core ctx : Nat) :
    (∀ p ∈ (σ.committing core ctx).held, p ∈ (σ.ctxOf core ctx).held) ∧ ∀ p ∈ (σ.committing core ctx).combs, p ∈ (σ.ctxOf core ctx).combs := by
  cases h : (σ.ctxOf core ctx).committed
  case false => rw [State.committing_of_open h]; exact ⟨fun _ => id, fun _ => id⟩
  case true => obtain ⟨hh, hc⟩ := State.committing_of_committed h; simp [hh, hc]

/-- A single combine is applied to its word in memory. -/
theorem State.committedBytes_memByte_comb (σ : State) (core ctx p i : Nat) (k : Comb) (hc : (σ.committing core ctx).combs = [(p, k)])
    (hh : (σ.committing core ctx).held = []) (hm : σ.mineAt core ctx p = true) (_ : k.width = 4 ∨ k.width = 8)
    (hop : k.op ≤ 7 ∨ k.op = 9) (hv : k.operand.toNat < 256 ^ k.width) (hi : i < k.width) : (σ.committedBytes core ctx).memByte (p + i) =
      BitVec.ofNat 8 (atomResult k.op (8 * k.width) (σ.memNat p k.width) k.operand.toNat / 256 ^ i) := by
  have hq : σ.committedBytes core ctx = (σ.writeList []).applyComb (σ.vfOf core ctx) p k := by
    unfold State.committedBytes
    rw [hc, hh]
    rfl
  have hf : ownerMatches (σ.vfOf core ctx) ((σ.writeList []).frameRec (frameOf p)).owner = true := by
    rw [(σ.writeList_shape []).frameRec]
    exact hm
  have hmem : (σ.writeList []).memNat p k.width = σ.memNat p k.width := by
    unfold State.memNat
    simp only [fun a => σ.writeList_memByte_ne [] a (by simp)]
  have hlt := σ.memNat_lt p k.width
  have hpow : 256 ^ k.width = 2 ^ (8 * k.width) := by rw [show 256 = 2 ^ 8 from rfl, ← pow_mul]
  rw [hpow] at hlt hv
  rw [hq, State.applyComb, if_pos hf, State.writeNat_memByte _ _ _ _ _ hi, hmem, Nat.mul_comm k.width 8, atomicVal_eq_atomResult (by omega) hlt hv hop]

/-- A held byte of a frame of another owner makes a fault of the commit. -/
theorem State.commit_posted (σ : State) (core ctx a : Nat) (b : Byte) (hb : (a, b) ∈ (σ.committing core ctx).held) (ha : a < 2 ^ 41)
    (hm : σ.mineAt core ctx a = false) : ∃ r ∈ ((σ.commit core ctx).ctxOf core ctx).posted, r.cause = 8 ∧ r.src = ctx := by
  obtain ⟨τ, l, he, rfl, -, -, -, fs, hcx⟩ := σ.commit_eq core ctx
  rw [he, State.postAll_ctxOf]
  have hbad : a ∈ σ.foreignAddrs core ctx := by
    refine List.mem_append_left _ (List.mem_map.mpr ⟨(a, b), List.mem_filter.mpr ⟨List.mem_filter.mpr ⟨hb, decide_eq_true ha⟩, ?_⟩, rfl⟩)
    rw [hm]
    rfl
  exact ⟨_, List.mem_append_right _ (List.mem_map.mpr ⟨a / 64, List.mem_eraseDups.mpr (List.mem_map.mpr ⟨a, hbad, rfl⟩), rfl⟩), rfl, rfl⟩

/-- A held byte of a fabric window is in a request of its line. -/
theorem State.commit_sends (σ : State) (core ctx a : Nat) (b : Byte) (hb : (a, b) ∈ (σ.committing core ctx).held) (ha : 2 ^ 41 ≤ a) :
    ∃ r ∈ (σ.commit core ctx).fabReqs, r.core = core ∧ r.slot = ctx ∧ r.store = (σ.committing core ctx).task ∧ r.entry = (a - 2 ^ 41) / 2 ^ 29
      ∧ r.record = σ.importRec r.entry ∧ r.deadline = σ.time + impTmo r.record := by
  obtain ⟨τ, l, he, -, -, -, hreq, -⟩ := σ.commit_eq core ctx
  have hline : a / 64 ∈ fabricLines (σ.committing core ctx) :=
    List.mem_eraseDups.mpr (List.mem_map.mpr ⟨(a, b), List.mem_filter.mpr ⟨hb, decide_eq_true ha⟩, rfl⟩)
  obtain ⟨n, hn, hget⟩ := List.mem_iff_getElem.mp hline
  have hz : (a / 64, n) ∈ (fabricLines (σ.committing core ctx)).zipIdx := by
    rw [List.mem_iff_getElem]
    exact ⟨n, by simpa using hn, by simp [hget]⟩
  have hs := σ.committedBytes_shape core ctx
  refine ⟨(σ.committedBytes core ctx).storeReq core ctx (σ.committing core ctx) (a / 64) ((σ.committedBytes core ctx).fresh + n), ?_, rfl, rfl, rfl, ?_, ?_, ?_⟩
  · rw [he, State.postAll_fabReqs, hreq]
    exact List.mem_append_right _ (List.mem_map.mpr ⟨(a / 64, n), hz, rfl⟩)
  · have hl : physLimit = 2 ^ 41 := rfl
    dsimp only [State.storeReq]
    rw [hl]
    omega
  · exact hs.importRec _
  · show (σ.committedBytes core ctx).time + _ = _
    rw [hs.time]
    rfl

theorem State.committing_task (σ : State) (core ctx : Nat) : (σ.committing core ctx).task = (σ.ctxOf core ctx).task := by
  unfold State.committing
  dsimp only
  split <;> rfl

/-- The lot view of a context that holds nothing is memory. -/
theorem State.lotByte_empty (σ : State) (c : Ctx) (f : Comb → Nat) (a : Nat) (hh : c.held = []) (hc : c.combs = []) (hs : c.seen = []) :
    σ.lotByte c f a = σ.memByte a := by
  unfold State.lotByte Ctx.combAt
  simp [hh, hc, hs]

/-! ### The instructions -/

theorem State.WroteBytes.acting {σ τ : State} (h : σ.WroteBytes τ) : τ.core = σ.core ∧ τ.ctx = σ.ctx := by
  obtain ⟨f, e, w, a, rfl⟩ := h
  exact ⟨rfl, rfl⟩

theorem State.postAll_acting (l : List FaultRec) (σ : State) (core slot : Nat) :
    (σ.postAll core slot l).core = σ.core ∧ (σ.postAll core slot l).ctx = σ.ctx := by
  unfold State.postAll
  induction l generalizing σ with
  | nil => exact ⟨rfl, rfl⟩
  | cons r l ih => rw [List.foldl_cons]; exact (ih _).imp (·.trans (State.writeFault_shape _ _ _ _ _).acting.1) (·.trans (State.writeFault_shape _ _ _ _ _).acting.2)

theorem State.commit_acting (σ : State) (core ctx : Nat) : (σ.commit core ctx).core = σ.core ∧ (σ.commit core ctx).ctx = σ.ctx := by
  have h := (σ.committedBytes_shape core ctx).acting
  exact (State.postAll_acting _ _ core ctx).imp (·.trans h.1) (·.trans h.2)

theorem State.commitHere_acting (s : State) : s.commitHere.core = s.core ∧ s.commitHere.ctx = s.ctx := by
  unfold State.commitHere
  split
  · exact ⟨rfl, rfl⟩
  · exact s.commit_acting _ _

theorem State.commitHere_gateStall (s : State) : s.commitHere.cx.gateStall = s.cx.gateStall := by
  show (s.commitHere.ctxOf s.commitHere.core s.commitHere.ctx).gateStall = _
  rw [s.commitHere_acting.1, s.commitHere_acting.2]
  unfold State.commitHere
  split
  · rfl
  · obtain ⟨fs, ps, h⟩ := s.commit_ctxOf s.core s.ctx
    rw [h]
    rfl

theorem Ctx.clear_gateStall {c : Ctx} (h : c.gateStall = none) : { c with gateStall := none } = c := by rw [← h]

theorem exec_phase_eq (s : State) (a : BitVec 5) (hm : (s.cx.sreg a.toNat).toNat < 2 ^ 48) (hs : s.ctx < 4) :
    exec (.phase a) s = .next ((s.commitHere.setCx s.commitHere.cx.advance).checkpoint s.core s.ctx (s.cx.sreg a.toNat) 1) := by
  have hk : maskOk (s.cx.sreg a.toNat) = true := decide_eq_true hm
  have he : exec (.phase a) s = if !maskOk (s.cx.sreg a.toNat) then s.trapWith causeIllegal else
      .next (if (s.commitHere.setCx s.commitHere.cx.advance).ctx = Config.fwCtx then s.commitHere.setCx s.commitHere.cx.advance
        else (s.commitHere.setCx s.commitHere.cx.advance).checkpoint (s.commitHere.setCx s.commitHere.cx.advance).core
          (s.commitHere.setCx s.commitHere.cx.advance).ctx (s.cx.sreg a.toNat) 1) := rfl
  have hc : (s.commitHere.setCx s.commitHere.cx.advance).ctx = s.ctx := s.commitHere_acting.2
  have hco : (s.commitHere.setCx s.commitHere.cx.advance).core = s.core := s.commitHere_acting.1
  rw [he, hk, if_neg (by simp), hc, hco, if_neg (by have : Config.fwCtx = 4 := rfl; omega)]

theorem exec_signalSet_eq (s : State) (a b : BitVec 5) : exec (.signalSet a b) s =
    if !aligned (s.cx.sreg a.toNat) 8 then s.trapWith causeAlign (s.cx.sreg a.toNat) else
    match s.translate s.core s.ctx (s.cx.sreg a.toNat) .write .near with
    | .error e => s.trap e
    | .ok x =>
      if !s.commitHere.ownerOk (s.vfOf s.core s.ctx) x.pa then s.commitHere.trapWith causeOwner (s.cx.sreg a.toNat)
      else (s.commitHere.writeNat x.pa 8 (s.cx.sreg b.toNat).toNat).effectDone (s.commitHere.writeNat x.pa 8 (s.cx.sreg b.toNat).toNat).cx := rfl

theorem exec_signalAdd_eq (s : State) (a b : BitVec 5) : exec (.signalAdd a b) s =
    if !aligned (s.cx.sreg a.toNat) 8 then s.trapWith causeAlign (s.cx.sreg a.toNat) else
    match s.translate s.core s.ctx (s.cx.sreg a.toNat) .rmw .near with
    | .error e => s.trap e
    | .ok x =>
      match s.commitHere.accessCheck (s.vfOf s.core s.ctx) x.pa 8 (s.cx.sreg a.toNat) with
      | .error e => s.commitHere.trap e
      | .ok _ =>
        let t := (s.commitHere.fill x.pa).writeNat x.pa 8 ((s.commitHere.memNat x.pa 8 + (s.cx.sreg b.toNat).toNat) % 2 ^ 64)
        t.effectDone t.cx := rfl

theorem aligned_of_mod {a : Word} (h : a.toNat % 8 = 0) : aligned a 8 = true := by
  unfold aligned
  simpa using h

/-- A byte of a 64-bit word is that of the number before its reduction. -/
theorem byte_mod_word {n i : Nat} (h : i < 8) : BitVec.ofNat 8 (n % 2 ^ 64 / 256 ^ i) = BitVec.ofNat 8 (n / 256 ^ i) := by
  apply BitVec.eq_of_toNat_eq
  rw [BitVec.toNat_ofNat, BitVec.toNat_ofNat]
  interval_cases i <;> omega

theorem signalSet_completes (s : State) (a b : BitVec 5) (x : Xl) (ha : (s.cx.sreg a.toNat).toNat % 8 = 0)
    (hx : s.translate s.core s.ctx (s.cx.sreg a.toNat) .write .near = .ok x) (hp : x.pa < 2 ^ 41)
    (ho : ownerMatches (s.vfOf s.core s.ctx) (s.commitHere.frameRec (x.pa / 2 ^ 21)).owner = true) :
    ∃ t : State, exec (.signalSet a b) s = .next (t.effected t.cx) ∧ t.cx = s.commitHere.cx
      ∧ (∀ i < 8, t.memByte (x.pa + i) = BitVec.ofNat 8 ((s.cx.sreg b.toNat).toNat / 256 ^ i))
      ∧ (∀ pa, pa < x.pa ∨ x.pa + 8 ≤ pa → t.memByte pa = s.commitHere.memByte pa) := by
  have hown : s.commitHere.ownerOk (s.vfOf s.core s.ctx) x.pa = true := by
    unfold State.ownerOk
    rw [show frameOf x.pa = x.pa / 2 ^ 21 from rfl, ho]
    exact decide_eq_true hp |>.symm ▸ rfl
  refine ⟨s.commitHere.writeNat x.pa 8 (s.cx.sreg b.toNat).toNat, ?_, (s.commitHere.writeNat_shape ..).cx, fun i hi => ?_, fun pa h => ?_⟩
  · rw [exec_signalSet_eq, aligned_of_mod ha, hx]
    simp only [hown, Bool.not_true, Bool.false_eq_true, if_false]
    rfl
  · exact s.commitHere.writeNat_memByte _ _ _ _ hi
  · exact s.commitHere.writeNat_memByte_ne _ _ _ _ h

theorem signalAdd_completes (s : State) (a b : BitVec 5) (x : Xl) (ha : (s.cx.sreg a.toNat).toNat % 8 = 0)
    (hx : s.translate s.core s.ctx (s.cx.sreg a.toNat) .rmw .near = .ok x)
    (hok : s.commitHere.accessCheck (s.vfOf s.core s.ctx) x.pa 8 (s.cx.sreg a.toNat) = .ok ()) :
    ∃ t : State, exec (.signalAdd a b) s = .next (t.effected t.cx) ∧ t.cx = s.commitHere.cx
      ∧ (∀ i < 8, t.memByte (x.pa + i) = BitVec.ofNat 8 ((s.commitHere.memNat x.pa 8 + (s.cx.sreg b.toNat).toNat) / 256 ^ i))
      ∧ (∀ pa, pa < x.pa ∨ x.pa + 8 ≤ pa → t.memByte pa = s.commitHere.memByte pa) := by
  refine ⟨(s.commitHere.fill x.pa).writeNat x.pa 8 ((s.commitHere.memNat x.pa 8 + (s.cx.sreg b.toNat).toNat) % 2 ^ 64), ?_, ?_, fun i hi => ?_, fun pa h => ?_⟩
  · rw [exec_signalAdd_eq, aligned_of_mod ha, hx]
    simp only [hok, Bool.not_true, Bool.false_eq_true, if_false]
    rfl
  · exact (State.writeNat_shape _ _ _ _).cx.trans (State.cx_fill _ _)
  · rw [State.writeNat_memByte _ _ _ _ _ hi, byte_mod_word hi]
  · rw [State.writeNat_memByte_ne _ _ _ _ _ h, State.memByte_fill]

theorem exec_kick_eq (s : State) (a : BitVec 5) (id : Nat) (hid : (s.cx.sreg a.toNat).toNat = id) (hlt : id < 2 ^ 14) (h0 : id % 256 ≠ 0) (h64 : id % 256 ≤ 64)
    (hk : s.commitHere.kickAllowed (s.vfOf s.core s.ctx) (id % 256) (id / 256 % 64) = true)
    (he : (s.commitHere.queueOf (id % 256) (id / 256 % 64)).en = true) :
    exec (.kick a) s = .next ((s.commitHere.push (.queueKick (id % 256) (id / 256 % 64))).effected s.commitHere.cx) := by
  subst hid
  have hq : bits (s.cx.sreg a.toNat).toNat 13 8 = (s.cx.sreg a.toNat).toNat / 256 % 64 := rfl
  show execKick a s = _
  unfold execKick
  simp only [State.rs, hq]
  rw [if_neg (by omega), if_pos ⟨hk, he⟩]
  rfl

/-- MBACT after its checks sends its action. -/
theorem exec_mbact_eq (s : State) (a b : BitVec 5) (hg : s.cx.gateStall = none)
    (hc : s.gateCheck (s.cx.sreg a.toNat) (s.cx.sreg b.toNat) true = .ok ()) :
    exec (.mbact a b) s = s.commitHere.sendAction (s.cx.sreg a.toNat).toNat (s.cx.sreg b.toNat) := by
  show execMbact a b s = _
  unfold execMbact
  simp only [State.rs, hg, hc, Option.isSome_none, Bool.false_eq_true, if_false]

/-- The message that MBACT makes, and the gate with it (R290). -/
def State.actionMsg (c : State) (g : Nat) (d : Word) : Msg :=
  { hdr := msgHeader (Tbl.get c.polgen 0 (c.vfOf c.core c.ctx)) (c.gateOf g).seqAct 1 0 (d.getLsbD 31) (descLen d),
    data := (List.range (descLen d)).map fun i => c.aByte c.core c.ctx (descOff d + i) }
def State.withAction (c : State) (g : Nat) (d : Word) : State :=
  c.setGate g { c.gateOf g with acts := (c.gateOf g).acts ++ [c.actionMsg g d], seqAct := ((c.gateOf g).seqAct + 1) % 256 }

theorem State.sendAction_eq (c : State) (g : Nat) (d : Word) : c.sendAction g d =
    if (c.gateOf g).state = 3 ∨ c.cx.gateStall = some (g, true) then c.effectDone { c.cx with gateStall := none }
    else if 4 ≤ (c.gateOf g).acts.length then (c.setCx { c.cx with gateStall := some (g, false) }).stallHere
    else (c.withAction g d).effectDone { c.cx with gateStall := none } := rfl

theorem State.sendAction_ended (c : State) (g : Nat) (d : Word) (hg : c.cx.gateStall = none) (h : (c.gateOf g).state = 3) :
    c.sendAction g d = .next (c.effected c.cx) := by
  rw [State.sendAction_eq, if_pos (.inl h), Ctx.clear_gateStall hg]
  rfl

theorem State.sendAction_full (c : State) (g : Nat) (d : Word) (hg : c.cx.gateStall = none) (h : (c.gateOf g).state = 2) (hl : 4 ≤ (c.gateOf g).acts.length) :
    c.sendAction g d = .next (c.setCx { c.cx with gateStall := some (g, false) }).stalled := by
  rw [State.sendAction_eq, if_neg (by simp [h, hg]), if_pos hl]
  exact State.stallHere_eq _

theorem State.sendAction_room (c : State) (g : Nat) (d : Word) (hg : c.cx.gateStall = none) (h : (c.gateOf g).state = 2) (hl : (c.gateOf g).acts.length < 4) :
    ∃ (m : Msg) (t : State), c.sendAction g d = .next (t.effected t.cx) ∧ t.cx = c.cx
      ∧ t.gateOf g = { c.gateOf g with acts := (c.gateOf g).acts ++ [m], seqAct := ((c.gateOf g).seqAct + 1) % 256 }
      ∧ m.data = (List.range (descLen d)).map fun i => c.aByte c.core c.ctx (descOff d + i) := by
  refine ⟨c.actionMsg g d, c.withAction g d, ?_, rfl, Tbl.get_set_same .., rfl⟩
  rw [State.sendAction_eq, if_neg (by simp [h, hg]), if_neg (by omega), Ctx.clear_gateStall hg]
  rfl

theorem descOff_eq (d : Word) : descOff d = d.toNat % 2 ^ 24 := by
  unfold descOff bits
  rw [pow_zero, Nat.div_one]

/-- Settles O11: the commit's bytes go through `commit_memByte`, its context through `commit_ctxOf`, and each instruction through its own
completion lemma. -/
theorem commitAndEffects : Obligations.CommitAndEffects := by
  unfold Obligations.CommitAndEffects
  refine ⟨?_, ?_⟩
  · intro s core ctx c t clear off mine
    have hcl : ∀ {a}, clear a → ∀ p ∈ (s.committing core ctx).combs, a < p.1 ∨ p.1 + p.2.width ≤ a :=
      fun h p hp => h p ((s.committing_sub core ctx).2 p hp)
    have hkeep : ∀ {a}, clear a → off a → (∀ b, (a, b) ∈ (s.committing core ctx).held → s.mineAt core ctx a = false) → t.memByte a = s.memByte a :=
      fun hc ho hh => (s.commit_memByte core ctx _ ho).trans (s.committedBytes_memByte_ne core ctx _ (hcl hc) hh)
    obtain ⟨fs, ps, hcx⟩ := s.commit_ctxOf core ctx
    refine ⟨fun hopen => ?_, fun hdone a ho => ?_, fun a hh hc ho => ?_, ?_, ?_, ?_, fun a => ?_, fun r => ?_, ?_⟩
    · have hc := State.committing_of_open hopen
      refine ⟨fun a b hb hu ha hm hcl' ho => ?_, fun a b hb ha hm => ⟨fun hcl' ho => hkeep hcl' ho fun _ _ => hm, ?_⟩,
        fun p k hk hh hm hw hop hv ho i hi => ?_, fun a b hb ha => ?_⟩
      · exact (s.commit_memByte core ctx a ho).trans (s.committedBytes_memByte_held core ctx a b (hcl hcl') (hc ▸ hb) (hc ▸ hu) ha hm)
      · exact s.commit_posted core ctx a b (hc ▸ hb) ha hm
      · refine (s.commit_memByte core ctx _ (ho i hi)).trans ?_
        exact s.committedBytes_memByte_comb core ctx p i k (hc ▸ hk) (hc ▸ hh) hm hw (hop.imp_right And.left) hv hi
      · obtain ⟨r, hr, h1, h2, h3, h4⟩ := s.commit_sends core ctx a b (hc ▸ hb) ha
        exact ⟨r, hr, h1, h2, h3.trans (s.committing_task core ctx), h4⟩
    · obtain ⟨hh, hc⟩ := State.committing_of_committed hdone
      refine (s.commit_memByte core ctx a ho).trans (s.committedBytes_memByte_ne core ctx a ?_ ?_)
      · rw [hc]; simp
      · rw [hh]; simp
    · exact hkeep hc ho fun b hb => absurd ((s.committing_sub core ctx).1 _ hb) (hh b)
    · rw [hcx]
    · rw [hcx]
    · rw [hcx]
    · exact State.lotByte_empty _ _ _ _ (by rw [hcx]) (by rw [hcx]) (by rw [hcx])
    · rw [hcx]; rfl
    · rw [hcx]
  · intro s a b x c va v vf old gt len off
    have hgs : s.cx.gateStall = none → c.cx.gateStall = none := fun h => s.commitHere_gateStall.trans h
    refine ⟨fun hm hs => exec_phase_eq s a hm hs, signalSet_completes s a b x, signalAdd_completes s a b x,
      fun hlt h0 h64 hk he => exec_kick_eq s a _ rfl hlt h0 h64 hk he, fun hg hc hst hl => ?_, fun hg hc hst => ?_, fun hg hc hst hl => ?_⟩
    · obtain ⟨m, t, ht, hcx, hgt, hd⟩ := State.sendAction_room c va.toNat v (hgs hg) hst hl
      refine ⟨m, t, (exec_mbact_eq s a b hg hc).trans ht, hcx, hgt, hd.trans ?_⟩
      rw [s.commitHere_acting.1, s.commitHere_acting.2, descOff_eq]
      rfl
    · exact (exec_mbact_eq s a b hg hc).trans (State.sendAction_ended c _ v (hgs hg) hst)
    · exact (exec_mbact_eq s a b hg hc).trans (State.sendAction_full c _ v (hgs hg) hst hl)

end Sys2Proof.Machine
end

section
/-! ## O13: commands placed behind engines -/
namespace Sys2Proof.Machine

theorem State.engOf_setEng_same (s : State) (core e : Nat) (v : Eng) : (s.setEng core e v).engOf core e = v := Tbl.get_set_same ..

theorem State.engOf_setEng_ne (s : State) (core : Nat) {e x : Nat} (v : Eng) (h : x ≠ e) : (s.setEng core e v).engOf core x = s.engOf core x :=
  Tbl.get_set_ne _ _ _ (by omega)

theorem State.engOf_setCtx (s : State) (core slot : Nat) (c : Ctx) (a b : Nat) : (s.setCtx core slot c).engOf a b = s.engOf a b := rfl

/-- A step that has changed contexts and engines alone. -/
def State.CtxsEngs (σ τ : State) : Prop := ∃ cs es, τ = { σ with ctxs := cs, engs := es }

theorem State.CtxsEngs.refl (σ : State) : σ.CtxsEngs σ := ⟨_, _, rfl⟩

theorem State.CtxsEngs.trans {σ τ ρ : State} (h : σ.CtxsEngs τ) (g : τ.CtxsEngs ρ) : σ.CtxsEngs ρ := by
  obtain ⟨_, _, rfl⟩ := h
  obtain ⟨_, _, rfl⟩ := g
  exact ⟨_, _, rfl⟩

theorem State.CtxsEngs.memByte {σ τ : State} (h : σ.CtxsEngs τ) (a : Nat) : τ.memByte a = σ.memByte a := by
  obtain ⟨_, _, rfl⟩ := h
  rfl

theorem State.CtxsEngs.acting {σ τ : State} (h : σ.CtxsEngs τ) : τ.core = σ.core ∧ τ.ctx = σ.ctx := by
  obtain ⟨_, _, rfl⟩ := h
  exact ⟨rfl, rfl⟩

theorem State.CtxsEngs.foldl {β : Type} {f : State → β → State} (h : ∀ (σ : State) b, σ.CtxsEngs (f σ b)) (l : List β) (σ : State) : σ.CtxsEngs (l.foldl f σ) := by
  induction l generalizing σ with
  | nil => exact .refl σ
  | cons b l ih => exact (h σ b).trans (ih _)

/-! ### One command, and one for each engine of a list -/

theorem State.place_ctxsEngs (σ : State) (core slot e : Nat) (held : Bool) (k : CmdKind) : σ.CtxsEngs (σ.place core slot e held k) := ⟨_, _, rfl⟩

theorem State.place_ctxOf (σ : State) (core slot e : Nat) (held : Bool) (k : CmdKind) :
    (σ.place core slot e held k).ctxOf core slot = { σ.ctxOf core slot with cmdNo := (σ.ctxOf core slot).cmdNo + 1 } := σ.ctxOf_setCtx_same core slot _

theorem State.place_queue (σ : State) (core slot e : Nat) (held : Bool) (k : CmdKind) : ((σ.place core slot e held k).engOf core e).queue =
    plainMarkers (σ.engOf core e).queue ++ [{ id := (σ.ctxOf core slot).cmdNo, held := held, kind := k }] := by
  unfold State.place
  rw [State.engOf_setEng_same]

theorem State.place_engOf_ne (σ : State) (core slot : Nat) {e x : Nat} (held : Bool) (k : CmdKind) (h : x ≠ e) :
    (σ.place core slot e held k).engOf core x = σ.engOf core x := by
  unfold State.place
  rw [State.engOf_setEng_ne _ _ _ h, State.engOf_setCtx]

/-- One command behind the queue of each engine of a list. -/
def State.placeEach (σ : State) (core slot : Nat) (held : Bool) (k : CmdKind) (es : List Nat) : State :=
  es.foldl (fun σ e => σ.place core slot e held k) σ

theorem State.placeEach_ctxsEngs (σ : State) (core slot : Nat) (held : Bool) (k : CmdKind) (es : List Nat) :
    σ.CtxsEngs (σ.placeEach core slot held k es) := .foldl (fun σ e => σ.place_ctxsEngs core slot e held k) es σ

theorem State.placeEach_ctxOf (es : List Nat) (σ : State) (core slot : Nat) (held : Bool) (k : CmdKind) :
    ∃ n, (σ.placeEach core slot held k es).ctxOf core slot = { σ.ctxOf core slot with cmdNo := n } := by
  unfold State.placeEach
  induction es generalizing σ with
  | nil => exact ⟨_, rfl⟩
  | cons e es ih =>
    obtain ⟨n, hn⟩ := ih (σ.place core slot e held k)
    exact ⟨n, by rw [List.foldl_cons, hn, State.place_ctxOf]⟩

theorem State.placeEach_engOf_ne (es : List Nat) (σ : State) (core slot : Nat) (held : Bool) (k : CmdKind) (x : Nat) (h : x ∉ es) :
    (σ.placeEach core slot held k es).engOf core x = σ.engOf core x := by
  unfold State.placeEach
  induction es generalizing σ with
  | nil => rfl
  | cons e es ih =>
    rw [List.mem_cons, not_or] at h
    rw [List.foldl_cons, ih _ h.2, State.place_engOf_ne _ _ _ _ _ h.1]

theorem State.placeEach_queue (es : List Nat) (σ : State) (core slot : Nat) (held : Bool) (k : CmdKind) (hn : es.Nodup) (x : Nat) (hx : x ∈ es) :
    ∃ id, (σ.ctxOf core slot).cmdNo ≤ id
      ∧ ((σ.placeEach core slot held k es).engOf core x).queue = plainMarkers (σ.engOf core x).queue ++ [{ id := id, held := held, kind := k }] := by
  unfold State.placeEach
  induction es generalizing σ with
  | nil => cases hx
  | cons e es ih =>
    rw [List.nodup_cons] at hn
    rw [List.foldl_cons]
    by_cases he : x = e
    · subst he
      exact ⟨_, le_rfl, (congrArg Eng.queue (State.placeEach_engOf_ne es _ core slot held k x hn.1)).trans (σ.place_queue core slot x held k)⟩
    · obtain ⟨id, hid, h⟩ := ih (σ.place core slot e held k) hn.2 ((List.mem_cons.mp hx).resolve_left he)
      rw [State.place_ctxOf] at hid
      exact ⟨id, Nat.le_of_succ_le hid, by rw [h, State.place_engOf_ne _ _ _ _ _ he]⟩

theorem State.place_run (σ : State) (core slot e x : Nat) (held : Bool) (k : CmdKind) :
    ((σ.place core slot e held k).engOf core x).run = (σ.engOf core x).run := by
  by_cases he : x = e
  · subst he
    unfold State.place
    rw [State.engOf_setEng_same]
  · rw [State.place_engOf_ne _ _ _ _ _ he]

theorem State.placeEach_run (es : List Nat) (σ : State) (core slot x : Nat) (held : Bool) (k : CmdKind) :
    ((σ.placeEach core slot held k es).engOf core x).run = (σ.engOf core x).run := by
  unfold State.placeEach
  induction es generalizing σ with
  | nil => rfl
  | cons e es ih => rw [List.foldl_cons, ih, State.place_run]

theorem plainMarkers_length (q : List Cmd) : (plainMarkers q).length = q.length := List.length_map ..

theorem placedOn_placeEach (s σ : State) (es : List Nat) (held : Bool) (k : CmdKind) (ok : Cmd → Prop) (hn : es.Nodup)
    (hq : ∀ e ∈ es, (σ.engOf s.core e).queue = (s.engOf s.core e).queue) (hok : ∀ id, ok { id := id, held := held, kind := k }) :
    placedOn s (σ.placeEach s.core s.ctx held k es) es ok := by
  intro e he
  obtain ⟨id, -, h⟩ := State.placeEach_queue es σ s.core s.ctx held k hn e he
  exact ⟨_, _, h, by rw [plainMarkers_length, hq e he], hok id⟩

/-! ### The release of held commands -/

theorem State.releaseHeld_ctxsEngs (σ : State) (core slot : Nat) : σ.CtxsEngs (σ.releaseHeld core slot) :=
  .foldl (f := fun σ e => σ.setEng core e { σ.engOf core e with queue := releaseCmds (σ.engOf core e).queue }) (fun _ _ => ⟨_, _, rfl⟩) _ σ

/-- The engines of a list let go of their held commands. -/
def State.releaseEach (σ : State) (core : Nat) (es : List Nat) : State :=
  es.foldl (fun σ e => σ.setEng core e { σ.engOf core e with queue := releaseCmds (σ.engOf core e).queue }) σ

theorem State.releaseHeld_eq (σ : State) (core slot : Nat) : σ.releaseHeld core slot = σ.releaseEach core (σ.enginesOf core slot) := rfl

theorem releaseCmds_releaseCmds (q : List Cmd) : releaseCmds (releaseCmds q) = releaseCmds q := by
  unfold releaseCmds
  rw [List.map_map]
  rfl

theorem State.releaseEach_queue (es : List Nat) (σ : State) (core x : Nat) :
    ((σ.releaseEach core es).engOf core x).queue = if x ∈ es then releaseCmds (σ.engOf core x).queue else (σ.engOf core x).queue := by
  unfold State.releaseEach
  induction es generalizing σ with
  | nil => rfl
  | cons e es ih =>
    rw [List.foldl_cons, ih]
    by_cases he : x = e
    · subst he
      simp [State.engOf_setEng_same, releaseCmds_releaseCmds]
    · simp [he, State.engOf_setEng_ne _ _ _ he]

theorem State.releaseHeld_ctxOf (σ : State) (core slot a b : Nat) : (σ.releaseHeld core slot).ctxOf a b = σ.ctxOf a b := by
  rw [State.releaseHeld_eq]
  unfold State.releaseEach
  induction σ.enginesOf core slot generalizing σ with
  | nil => rfl
  | cons e es ih => rw [List.foldl_cons, ih]; rfl

/-- A command that is not held stands last after the release as before it. -/
theorem placedOn_releaseHeld {s τ : State} {es : List Nat} {ok : Cmd → Prop} (core slot : Nat) (h : placedOn s τ es ok) (hcore : core = s.core)
    (hok : ∀ k, ok k → ok { k with held := false }) : placedOn s (τ.releaseHeld core slot) es ok := by
  subst hcore
  intro e he
  obtain ⟨q, k, hq, hl, hk⟩ := h e he
  rw [State.releaseHeld_eq, State.releaseEach_queue]
  split
  · exact ⟨releaseCmds q, { k with held := false }, by rw [hq]; simp [releaseCmds], by simpa [releaseCmds] using hl, hok k hk⟩
  · exact ⟨q, k, hq, hl, hk⟩

theorem placedOn_setCx {s τ : State} {es : List Nat} {ok : Cmd → Prop} (h : placedOn s τ es ok) (c : Ctx) : placedOn s (τ.setCx c) es ok := h

/-! ### Tags -/

/-- A context that differs from another in its tags alone. -/
def Ctx.TagsFrom (c d : Ctx) : Prop := ∃ td te tc r o, d = { c with tagdone := td, tagerr := te, tagcause := tc, res := r, out := o }

theorem Ctx.TagsFrom.refl (c : Ctx) : c.TagsFrom c := ⟨_, _, _, _, _, rfl⟩

theorem Ctx.TagsFrom.trans {c d e : Ctx} (h : c.TagsFrom d) (g : d.TagsFrom e) : c.TagsFrom e := by
  obtain ⟨_, _, _, _, _, rfl⟩ := h
  obtain ⟨_, _, _, _, _, rfl⟩ := g
  exact ⟨_, _, _, _, _, rfl⟩

theorem Ctx.TagsFrom.foldl {β : Type} {f : Ctx → β → Ctx} (h : ∀ (c : Ctx) b, c.TagsFrom (f c b)) (l : List β) (c : Ctx) : c.TagsFrom (l.foldl f c) := by
  induction l generalizing c with
  | nil => exact .refl c
  | cons b l ih => exact (h c b).trans (ih _)

theorem Ctx.reserveTag_tagsFrom (c : Ctx) (t : Nat) : c.TagsFrom (c.reserveTag t) := by
  unfold Ctx.reserveTag Ctx.settleTag
  dsimp only
  split <;> exact ⟨_, _, _, _, _, rfl⟩

theorem Ctx.unreserveTag_tagsFrom (c : Ctx) (t : Nat) : c.TagsFrom (c.unreserveTag t) := ⟨_, _, _, _, _, rfl⟩

theorem Ctx.TagsFrom.advance_pc {c d : Ctx} (h : c.TagsFrom d) : d.advance.pc = c.advance.pc := by
  obtain ⟨_, _, _, _, _, rfl⟩ := h
  exact Ctx.advance_pc_congr rfl rfl rfl

theorem Ctx.TagsFrom.task {c d : Ctx} (h : c.TagsFrom d) : d.task = c.task := by
  obtain ⟨_, _, _, _, _, rfl⟩ := h
  rfl

theorem Ctx.advance_pc_cmdNo (c : Ctx) (n : Nat) : ({ c with cmdNo := n } : Ctx).advance.pc = c.advance.pc := Ctx.advance_pc_congr rfl rfl rfl

/-- What a change of the tags leaves: the context, the engines, and memory outside the slot's fault record (R377). -/
theorem State.putTags_shape (σ : State) (core slot : Nat) (c : Ctx) : (σ.setCtx core slot c).WroteBytes (σ.putTags core slot c) := by
  unfold State.putTags
  dsimp only
  split
  · exact .refl _
  · split
    · exact State.areaPut_shape _ _
    · exact .refl _

theorem State.WroteBytes.engOf {σ τ : State} (h : σ.WroteBytes τ) (core e : Nat) : τ.engOf core e = σ.engOf core e := by
  obtain ⟨f, e, w, a, rfl⟩ := h
  rfl

theorem tagFields_places (c : Ctx) : ∀ f ∈ tagFields c, 0x140 ≤ f.1 ∧ f.1 + f.2.1 ≤ 0x180 := by
  intro f hf
  obtain ⟨t, ht, rfl⟩ := List.mem_map.mp hf
  have := List.mem_range.mp ht
  dsimp only
  omega

theorem State.putTags_memByte_ne (σ : State) (core slot : Nat) (c : Ctx) (ht : c.task = (σ.ctxOf core slot).task) (a : Nat)
    (h : σ.offFaultOf core slot a) : (σ.putTags core slot c).memByte a = σ.memByte a := by
  unfold State.putTags
  dsimp only
  split
  · rfl
  · split
    · rename_i base hb
      refine (State.areaPut_memByte_ne _ _ a fun p hp => ?_).trans (State.memByte_setCtx _ _ _ _ _)
      obtain ⟨f, hf, hp⟩ := List.mem_flatMap.mp hp
      have hpl := tagFields_places _ f hf
      obtain ⟨i, hi, rfl⟩ := List.mem_map.mp hp
      have hi := List.mem_range.mp hi
      have := h base (by
        rw [← hb]
        unfold State.slotArea
        rw [σ.ctxOf_setCtx_same, ht]
        rfl)
      dsimp only
      omega
    · rfl

theorem State.putTags_same_memByte (σ : State) (core slot : Nat) (a : Nat) : (σ.putTags core slot (σ.ctxOf core slot)).memByte a = σ.memByte a := by
  unfold State.putTags
  rw [if_pos rfl]
  rfl

/-! ### FORK -/

/-- The context with the tags of the program reserved for each of n engines. -/
def Ctx.reserveAll (c : Ctx) (tags : List Nat) (n : Nat) : Ctx := (List.range n).foldl (fun c _ => tags.foldl Ctx.reserveTag c) c

theorem Ctx.reserveAll_tagsFrom (c : Ctx) (tags : List Nat) (n : Nat) : c.TagsFrom (c.reserveAll tags n) :=
  .foldl (fun c _ => .foldl Ctx.reserveTag_tagsFrom tags c) _ c

theorem Ctx.reserveAll_nil (c : Ctx) (n : Nat) : c.reserveAll [] n = c := by
  unfold Ctx.reserveAll
  induction List.range n generalizing c with
  | nil => rfl
  | cons i l ih => exact ih c

/-- The state with a program placed behind the engines of a list. -/
def State.forked (s : State) (es : List Nat) (hold : Bool) (p : Prog) : State :=
  let t := (s.putTags s.core s.ctx (s.cx.reserveAll p.tags es.length)).placeEach s.core s.ctx hold (.program p) es
  if hold then t else t.releaseHeld s.core s.ctx

theorem State.forkOn_eq (s : State) (es : List Nat) (hold : Bool) (p : Prog) : s.forkOn es hold p =
    if es.any (s.queueFull s.core) ∨ p.tags.any (fun t => decide (255 < s.cx.outOf t + s.cx.resOf t + es.length)) then s.stallHere
    else (s.forked es hold p).retire (s.forked es hold p).cx := rfl

theorem State.forked_ctxsEngs (s : State) (es : List Nat) (hold : Bool) (p : Prog) :
    (s.putTags s.core s.ctx (s.cx.reserveAll p.tags es.length)).CtxsEngs (s.forked es hold p) := by
  unfold State.forked
  dsimp only
  split
  · exact State.placeEach_ctxsEngs ..
  · exact (State.placeEach_ctxsEngs ..).trans (State.releaseHeld_ctxsEngs ..)

theorem State.forked_cx (s : State) (es : List Nat) (hold : Bool) (p : Prog) :
    ∃ n, (s.forked es hold p).cx = { s.cx.reserveAll p.tags es.length with cmdNo := n } := by
  have hput := s.putTags_shape s.core s.ctx (s.cx.reserveAll p.tags es.length)
  have hact := (s.forked_ctxsEngs es hold p).acting
  have hcore := hact.1.trans hput.acting.1
  have hctx := hact.2.trans hput.acting.2
  obtain ⟨n, hn⟩ := State.placeEach_ctxOf es (s.putTags s.core s.ctx (s.cx.reserveAll p.tags es.length)) s.core s.ctx hold (.program p)
  refine ⟨n, ?_⟩
  show (s.forked es hold p).ctxOf (s.forked es hold p).core (s.forked es hold p).ctx = _
  rw [hcore, hctx]
  show (s.forked es hold p).ctxOf s.core s.ctx = _
  rw [hput.ctxOf, s.ctxOf_setCtx_same] at hn
  unfold State.forked
  dsimp only
  split
  · exact hn
  · rw [State.releaseHeld_ctxOf, hn]

/-- The conditions on the command that a FORK places. -/
def IsProgram (p : Prog) (hold : Bool) (k : Cmd) : Prop := k.kind = .program p ∧ k.held = hold

theorem State.forked_placed (s : State) (es : List Nat) (hold : Bool) (p : Prog) (hn : es.Nodup) :
    placedOn s (s.forked es hold p) es (IsProgram p hold) := by
  have h := placedOn_placeEach s (s.putTags s.core s.ctx (s.cx.reserveAll p.tags es.length)) es hold (.program p) (IsProgram p hold) hn
    (fun e _ => by rw [(s.putTags_shape _ _ _).engOf]; rfl) (fun _ => ⟨rfl, rfl⟩)
  cases hold
  case false => exact placedOn_releaseHeld s.core s.ctx h rfl fun k hk => ⟨hk.1, rfl⟩
  case true => exact h

/-- A FORK with room for its program on every engine, and for its tags, completes. -/
theorem State.forkOn_completes (s : State) (es : List Nat) (hold : Bool) (p : Prog) (hn : es.Nodup) (hr : ∀ x ∈ es, (s.engOf s.core x).queue.length < 16)
    (ht : ∀ g ∈ p.tags, s.cx.outOf g + s.cx.resOf g + es.length ≤ 255) : ∃ t, s.forkOn es hold p = .next t ∧ placedOn s t es (IsProgram p hold)
      ∧ t.cx.pc = s.cx.advance.pc ∧ (p.tags = [] → SameMemory s t) ∧ ∀ pa, offFault s pa → t.memByte pa = s.memByte pa := by
  have hfull : ¬(es.any (s.queueFull s.core) = true ∨ p.tags.any (fun t => decide (255 < s.cx.outOf t + s.cx.resOf t + es.length)) = true) := by
    rintro (h | h)
    · obtain ⟨e, he, hq⟩ := List.any_eq_true.mp h
      have : 16 ≤ (s.engOf s.core e).queue.length := of_decide_eq_true hq
      have := hr e he
      omega
    · obtain ⟨g, hg, hq⟩ := List.any_eq_true.mp h
      have := of_decide_eq_true hq
      have := ht g hg
      omega
  have htags := s.cx.reserveAll_tagsFrom p.tags es.length
  obtain ⟨n, hcx⟩ := s.forked_cx es hold p
  have hmem : ∀ pa, (s.forked es hold p).memByte pa = (s.putTags s.core s.ctx (s.cx.reserveAll p.tags es.length)).memByte pa :=
    (s.forked_ctxsEngs es hold p).memByte
  refine ⟨(s.forked es hold p).setCx (s.forked es hold p).cx.advance, ?_, s.forked_placed es hold p hn, ?_, fun h0 pa => ?_, fun pa hpa => ?_⟩
  · rw [State.forkOn_eq, if_neg hfull]
    rfl
  · rw [State.cx_setCx, hcx]
    exact (Ctx.advance_pc_cmdNo _ n).trans htags.advance_pc
  · refine (hmem pa).trans ?_
    rw [h0, Ctx.reserveAll_nil]
    exact s.putTags_same_memByte s.core s.ctx pa
  · exact (hmem pa).trans (s.putTags_memByte_ne s.core s.ctx _ htags.task pa hpa)

theorem placedOn_mono {s t : State} {es : List Nat} {ok ok' : Cmd → Prop} (h : placedOn s t es ok) (hok : ∀ k, ok k → ok' k) : placedOn s t es ok' :=
  fun e he => let ⟨q, k, hq, hl, hk⟩ := h e he; ⟨q, k, hq, hl, hok k hk⟩

/-- The handle of a lease that is current names its engines. -/
theorem State.handleEngines_of_current {s : State} {v : Word} {copy : Bool} (hc : (handleOf v).copy = copy) (h : s.current s.core s.ctx (handleOf v) = true) :
    s.handleEngines v copy = some ((handleOf v).units.map (· + if copy then 8 else 4)) := by
  unfold State.handleEngines
  simp [hc, h]

theorem Handle.units_map_nodup (h : Handle) (base : Nat) : (h.units.map (· + base)).Nodup :=
  ((List.nodup_range.filter _).map fun _ _ e => Nat.add_right_cancel e)

theorem mem_insertNat {l : List Nat} {x y : Nat} (h : y ∈ insertNat l x) : y = x ∨ y ∈ l := by
  unfold insertNat at h
  split_ifs at h
  · exact .inr h
  · exact List.mem_cons.mp h

/-- The tags that a copy program names are six bits of its words. -/
theorem State.scanTags_lt (s : State) (core slot n : Nat) (va : Word) : ∀ g ∈ s.scanTags core slot n va, g < 64 := by
  induction n generalizing va with
  | zero => simp [State.scanTags]
  | succ n ih =>
    intro g hg
    unfold State.scanTags at hg
    split at hg
    · cases hg
    · dsimp only at hg
      generalize hva : (va + if _ = 9 then 8 else 4 : Word) = next at hg
      split_ifs at hg with hend hw
      · cases hg
      · rcases mem_insertNat hg with rfl | hg
        · exact Nat.mod_lt _ (by decide)
        · exact ih _ g hg
      · exact ih _ g hg

/-- The engines that a mask of 13 bits names, and the two answers of its check. -/
def qEngines (slot : Nat) (q : BitVec 13) : List Nat := ((List.range 13).filter fun i => q.getLsbD i).map (qEngine slot)

theorem State.qmaskEngines_of_mine {s : State} {q : BitVec 13} (h : ∀ x ∈ qEngines s.ctx q, x ∈ s.enginesHeld s.core s.ctx) :
    s.qmaskEngines s.core s.ctx q = some (qEngines s.ctx q) := by
  unfold State.qmaskEngines
  refine if_pos (List.all_eq_true.mpr fun x hx => ?_)
  simpa using h x hx

theorem State.qmaskEngines_of_not_mine {s : State} {q : BitVec 13} (h : ¬∀ x ∈ qEngines s.ctx q, x ∈ s.enginesHeld s.core s.ctx) :
    s.qmaskEngines s.core s.ctx q = none := by
  unfold State.qmaskEngines
  refine if_neg fun hall => h fun x hx => ?_
  simpa using List.all_eq_true.mp hall x hx

theorem qEngine_injective {slot : Nat} (h : slot < 4) : Function.Injective (qEngine slot) := by
  intro a b hab
  unfold qEngine at hab
  split_ifs at hab <;> omega

theorem qEngines_nodup {slot : Nat} (h : slot < 4) (q : BitVec 13) : (qEngines slot q).Nodup := (List.nodup_range.filter _).map (qEngine_injective h)

/-! ### QDROP -/

theorem State.dropAfter_ctxsEngs (σ : State) (core slot e : Nat) (m : BitVec 16) : σ.CtxsEngs (σ.dropAfter core slot e m) := by
  unfold State.dropAfter
  dsimp only
  split
  · exact .refl σ
  · exact ⟨_, _, rfl⟩

theorem State.dropAfter_tagsFrom (σ : State) (core slot e : Nat) (m : BitVec 16) : (σ.ctxOf core slot).TagsFrom ((σ.dropAfter core slot e m).ctxOf core slot) := by
  unfold State.dropAfter
  dsimp only
  split
  · exact .refl _
  · rename_i n _
    have h := Ctx.TagsFrom.foldl Ctx.unreserveTag_tagsFrom (droppedTags n (σ.engOf core e).queue) (σ.ctxOf core slot)
    rw [← σ.ctxOf_setCtx_same core slot (List.foldl _ _ _)] at h
    exact h

/-- No program and no marker that stands behind the placed marker is left. -/
def Eng.Dropped (v : Eng) (m : BitVec 16) : Prop :=
  ∀ n, Tbl.find? v.placed m.toNat = some n → ∀ k ∈ v.queue, n < k.id → (∀ p, k.kind ≠ .program p) ∧ ∀ m' b, k.kind ≠ .marker m' b

theorem State.dropAfter_same (σ : State) (core slot e : Nat) (m : BitVec 16) : ((σ.dropAfter core slot e m).engOf core e).Dropped m
    ∧ ((σ.dropAfter core slot e m).engOf core e).placed = (σ.engOf core e).placed := by
  unfold State.dropAfter
  dsimp only
  split
  case h_1 hnone => exact ⟨fun n hn => absurd (hnone.symm.trans hn) (by simp), rfl⟩
  case h_2 n hsome =>
    rw [State.engOf_setEng_same]
    refine ⟨fun n' hn k hk hlt => ?_, rfl⟩
    obtain rfl : n = n' := Option.some.inj (hsome.symm.trans hn)
    obtain ⟨-, hd⟩ := List.mem_filter.mp hk
    unfold dropped at hd
    rw [decide_eq_true hlt] at hd
    exact ⟨fun p hp => by simp [hp] at hd, fun m' b hp => by simp [hp] at hd⟩

theorem State.dropAfter_ne (σ : State) (core slot : Nat) {e x : Nat} (m : BitVec 16) (h : x ≠ e) : (σ.dropAfter core slot e m).engOf core x = σ.engOf core x := by
  unfold State.dropAfter
  dsimp only
  split
  · rfl
  · rw [State.engOf_setEng_ne _ _ _ h, State.engOf_setCtx]

/-- The commands behind the marker dropped on each engine of a list. -/
def State.dropEach (σ : State) (core slot : Nat) (m : BitVec 16) (es : List Nat) : State := es.foldl (fun σ e => σ.dropAfter core slot e m) σ

theorem State.dropEach_ctxsEngs (σ : State) (core slot : Nat) (m : BitVec 16) (es : List Nat) : σ.CtxsEngs (σ.dropEach core slot m es) :=
  .foldl (fun σ e => σ.dropAfter_ctxsEngs core slot e m) es σ

theorem State.dropEach_tagsFrom (es : List Nat) (σ : State) (core slot : Nat) (m : BitVec 16) :
    (σ.ctxOf core slot).TagsFrom ((σ.dropEach core slot m es).ctxOf core slot) := by
  unfold State.dropEach
  induction es generalizing σ with
  | nil => exact .refl _
  | cons e es ih => exact (σ.dropAfter_tagsFrom core slot e m).trans (ih _)

theorem State.dropEach_placed (es : List Nat) (σ : State) (core slot : Nat) (m : BitVec 16) (x : Nat) :
    ((σ.dropEach core slot m es).engOf core x).placed = (σ.engOf core x).placed := by
  unfold State.dropEach
  induction es generalizing σ with
  | nil => rfl
  | cons e es ih =>
    rw [List.foldl_cons, ih]
    by_cases hx : x = e
    · exact hx ▸ (σ.dropAfter_same core slot x m).2
    · rw [State.dropAfter_ne _ _ _ _ hx]

theorem State.dropEach_dropped (es : List Nat) (σ : State) (core slot : Nat) (m : BitVec 16) (x : Nat) (h : x ∈ es ∨ (σ.engOf core x).Dropped m) :
    ((σ.dropEach core slot m es).engOf core x).Dropped m := by
  unfold State.dropEach
  induction es generalizing σ with
  | nil => exact h.resolve_left (by simp)
  | cons e es ih =>
    rw [List.foldl_cons]
    refine ih _ ?_
    by_cases hx : x = e
    · exact .inr (hx ▸ (σ.dropAfter_same core slot x m).1)
    · rw [State.dropAfter_ne _ _ _ _ hx]
      exact h.imp_left fun h => (List.mem_cons.mp h).resolve_left hx

/-! ### The instructions -/

theorem State.queueFull_any_eq_false {s : State} {core : Nat} {es : List Nat} (h : ∀ x ∈ es, (s.engOf core x).queue.length < 16) :
    es.any (s.queueFull core) = false := by
  rw [List.any_eq_false]
  intro x hx hf
  have : 16 ≤ (s.engOf core x).queue.length := of_decide_eq_true hf
  have := h x hx
  omega

theorem decide_eq_one (h : BitVec 1) : decide (h = 1) = (h == 1) := rfl

theorem exec_forkVec_eq (s : State) (h : BitVec 1) (e : BitVec 18) (hs : s.ctx < 4) (he : e.toNat < (s.nodeAt s.core s.ctx).veclen) :
    exec (.forkVec h e) s = s.forkOn [s.ctx] (h == 1) (s.progAt s.core s.ctx (s.nodeAt s.core s.ctx).vec (s.nodeAt s.core s.ctx).veclen e.toNat []) := by
  have hfw : ¬(s.ctx = Config.fwCtx ∨ (s.nodeAt s.core s.ctx).veclen ≤ e.toNat) := by
    have : Config.fwCtx = 4 := rfl
    omega
  exact if_neg hfw

theorem exec_forkMat_eq (s : State) (h : BitVec 1) (r : BitVec 5) (e : BitVec 18) (hc : (handleOf (s.cx.sreg r.toNat)).copy = false)
    (hcur : s.current s.core s.ctx (handleOf (s.cx.sreg r.toNat)) = true) (he : e.toNat < (s.nodeAt s.core s.ctx).matlen) :
    exec (.forkMat h r e) s = s.forkOn ((handleOf (s.cx.sreg r.toNat)).units.map (· + 4)) (h == 1)
      (s.progAt s.core s.ctx (s.nodeAt s.core s.ctx).mat (s.nodeAt s.core s.ctx).matlen e.toNat []) := by
  show execForkMat h r e s = _
  unfold execForkMat
  have hh : s.handleEngines (s.rs r) false = _ := State.handleEngines_of_current hc hcur
  simp only [hh]
  exact if_neg (by omega)

theorem exec_forkCopy_eq (s : State) (h : BitVec 1) (r : BitVec 5) (e : BitVec 18) (hc : (handleOf (s.cx.sreg r.toNat)).copy = true)
    (hcur : s.current s.core s.ctx (handleOf (s.cx.sreg r.toNat)) = true) (he : e.toNat < (s.nodeAt s.core s.ctx).xferlen) :
    ∃ tags, (∀ g ∈ tags, g < 64) ∧ exec (.forkCopy h r e) s = s.forkOn ((handleOf (s.cx.sreg r.toNat)).units.map (· + 8)) (h == 1)
      (s.progAt s.core s.ctx (s.nodeAt s.core s.ctx).xfer (s.nodeAt s.core s.ctx).xferlen e.toNat tags) := by
  let nd := s.nodeAt s.core s.ctx
  refine ⟨_, s.scanTags_lt s.core s.ctx (if nd.xferlen - e.toNat ≤ Config.bodyWords then nd.xferlen - e.toNat else Config.bodyWords)
    (nd.xfer + BitVec.ofNat 64 (4 * e.toNat)), ?_⟩
  show execForkCopy h r e s = _
  unfold execForkCopy
  have hh : s.handleEngines (s.rs r) true = _ := State.handleEngines_of_current hc hcur
  simp only [hh]
  exact if_neg (by omega)

theorem exec_mark_completes (s : State) (r : BitVec 5) (nf : BitVec 1) (q : BitVec 13) (hs : s.ctx < 4)
    (hm : ∀ x ∈ qEngines s.ctx q, x ∈ s.enginesHeld s.core s.ctx) (hr : ∀ x ∈ qEngines s.ctx q, (s.engOf s.core x).queue.length < 16) :
    ∃ t, exec (.mark r nf q) s = .next t
      ∧ placedOn s t (qEngines s.ctx q) (fun k => k.kind = .marker (BitVec.ofNat 16 (s.cx.sreg r.toNat).toNat) (nf == 1) ∧ k.held = false)
      ∧ t.cx.pc = s.cx.advance.pc ∧ SameMemory s t := by
  let k : CmdKind := .marker (BitVec.ofNat 16 (s.cx.sreg r.toNat).toNat) (nf == 1)
  have hshape := s.placeEach_ctxsEngs s.core s.ctx false k (qEngines s.ctx q)
  refine ⟨(s.placeEach s.core s.ctx false k (qEngines s.ctx q)).setCx (s.placeEach s.core s.ctx false k (qEngines s.ctx q)).cx.advance, ?_, ?_, ?_, hshape.memByte⟩
  · show execMark r nf q s = _
    unfold execMark
    rw [State.qmaskEngines_of_mine hm]
    dsimp only
    rw [State.queueFull_any_eq_false hr, if_neg Bool.false_ne_true]
    rfl
  · exact placedOn_placeEach s s _ false k _ (qEngines_nodup hs q) (fun _ _ => rfl) fun _ => ⟨rfl, rfl⟩
  · obtain ⟨n, hn⟩ := s.placeEach_ctxOf (qEngines s.ctx q) s.core s.ctx false k
    rw [State.cx_setCx]
    show ((s.placeEach s.core s.ctx false k (qEngines s.ctx q)).ctxOf (s.placeEach s.core s.ctx false k (qEngines s.ctx q)).core
      (s.placeEach s.core s.ctx false k (qEngines s.ctx q)).ctx).advance.pc = _
    rw [hshape.acting.1, hshape.acting.2, hn]
    exact Ctx.advance_pc_congr rfl rfl rfl

theorem exec_qdrop_completes (s : State) (r : BitVec 5) (q : BitVec 13) (hm : ∀ x ∈ qEngines s.ctx q, x ∈ s.enginesHeld s.core s.ctx) :
    ∃ t, exec (.qdrop r q) s = .next t ∧ t.cx.pc = s.cx.advance.pc ∧ SameMemory s t ∧ ∀ x ∈ qEngines s.ctx q,
      (t.engOf s.core x).Dropped (BitVec.ofNat 16 (s.cx.sreg r.toNat).toNat) ∧ (t.engOf s.core x).placed = (s.engOf s.core x).placed := by
  let m : BitVec 16 := BitVec.ofNat 16 (s.cx.sreg r.toNat).toNat
  have hshape := s.dropEach_ctxsEngs s.core s.ctx m (qEngines s.ctx q)
  refine ⟨(s.dropEach s.core s.ctx m (qEngines s.ctx q)).setCx (s.dropEach s.core s.ctx m (qEngines s.ctx q)).cx.advance, ?_, ?_, hshape.memByte, fun x hx => ?_⟩
  · show execQdrop r q s = _
    unfold execQdrop
    rw [State.qmaskEngines_of_mine hm]
    rfl
  · rw [State.cx_setCx]
    show ((s.dropEach s.core s.ctx m (qEngines s.ctx q)).ctxOf (s.dropEach s.core s.ctx m (qEngines s.ctx q)).core
      (s.dropEach s.core s.ctx m (qEngines s.ctx q)).ctx).advance.pc = _
    rw [hshape.acting.1, hshape.acting.2]
    exact (State.dropEach_tagsFrom _ _ _ _ _).advance_pc
  · exact ⟨State.dropEach_dropped _ s s.core s.ctx m x (.inl hx), State.dropEach_placed _ s s.core s.ctx m x⟩

theorem exec_rdvSet_eq (s : State) (v : BitVec 3) (r : BitVec 5) (q : BitVec 13) (hm : ∀ x ∈ qEngines s.ctx q, x ∈ s.enginesHeld s.core s.ctx) :
    exec (.rdvSet v r q) s = .next (s.setCx
      { s.cx with rv := Tbl.set s.cx.rv v.toNat { mask := q, marker := BitVec.ofNat 16 (s.cx.sreg r.toNat).toNat } }.advance) := by
  show execRdvSet v r q s = _
  unfold execRdvSet
  rw [State.qmaskEngines_of_mine hm]
  rfl

theorem Ctx.advance_rvreg (c : Ctx) (i : Nat) : c.advance.rvreg i = c.rvreg i := by
  unfold Ctx.advance
  split_ifs <;> rfl

/-- The words of a mask that names an engine not of the slot trap LEASE_BAD. -/
theorem exec_queue_refused (s : State) (v : BitVec 3) (r : BitVec 5) (nf : BitVec 1) (q : BitVec 13)
    (hm : ¬∀ x ∈ qEngines s.ctx q, x ∈ s.enginesHeld s.core s.ctx) : exec (.mark r nf q) s = .next (s.trapped 19 0)
      ∧ exec (.rdvSet v r q) s = .next (s.trapped 19 0) ∧ exec (.qdrop r q) s = .next (s.trapped 19 0) := by
  have h := State.qmaskEngines_of_not_mine hm
  refine ⟨?_, ?_, ?_⟩
  · show execMark r nf q s = _
    unfold execMark
    rw [h]
    rfl
  · show execRdvSet v r q s = _
    unfold execRdvSet
    rw [h]
    rfl
  · show execQdrop r q s = _
    unfold execQdrop
    rw [h]
    rfl

/-- Settles O13: a FORK goes through `State.forkOn_completes`, MARK through `placedOn_placeEach`, QDROP through `State.dropEach_dropped`. -/
theorem engineCommands : Obligations.EngineCommands := by
  unfold Obligations.EngineCommands
  intro s h e r q nf v f nd es mine room hd units m prog
  have hprog : ∀ base len tags k, IsProgram (s.progAt s.core s.ctx base len e.toNat tags) (h == 1) k → prog base len k :=
    fun base len tags k hk => ⟨_, hk.1, rfl, rfl, rfl, rfl, rfl, rfl, rfl, hk.2⟩
  refine ⟨fun hs he hr => ?_, fun hc hcur he hr => ?_, fun hc hcur he hr ht => ?_, fun hs he hfull => ?_, fun hs hm hr => exec_mark_completes s r nf q hs hm hr,
    fun hm => ⟨_, exec_rdvSet_eq s v r q hm, ?_, ?_, fun i hi => ?_, fun _ => rfl⟩, rfl, fun hf => ?_, fun hf => ?_, fun hm => ?_,
    fun hm => exec_queue_refused s v r nf q hm⟩
  · rw [exec_forkVec_eq s h e hs he]
    obtain ⟨t, ht, hp, hpc, hmem, -⟩ := s.forkOn_completes [s.ctx] (h == 1) (s.progAt s.core s.ctx nd.vec nd.veclen e.toNat []) (List.nodup_singleton _) hr
      (by intro g hg; cases hg)
    exact ⟨t, ht, placedOn_mono hp (hprog _ _ _), hpc, hmem rfl⟩
  · rw [exec_forkMat_eq s h r e hc hcur he]
    obtain ⟨t, ht, hp, hpc, hmem, -⟩ := s.forkOn_completes (units 4) (h == 1) (s.progAt s.core s.ctx nd.mat nd.matlen e.toNat []) (hd.units_map_nodup 4) hr
      (by intro g hg; cases hg)
    exact ⟨t, ht, placedOn_mono hp (hprog _ _ _), hpc, hmem rfl⟩
  · obtain ⟨tags, hlt, he⟩ := exec_forkCopy_eq s h r e hc hcur he
    obtain ⟨t, hnext, hp, hpc, -, hmem⟩ := s.forkOn_completes (units 8) (h == 1) (s.progAt s.core s.ctx nd.xfer nd.xferlen e.toNat tags) (hd.units_map_nodup 8) hr
      fun g hg => (ht g (hlt g hg)).trans' (by rw [List.length_map])
    exact ⟨t, he.trans hnext, placedOn_mono hp (hprog _ _ _), hpc, hmem⟩
  · rw [exec_forkVec_eq s h e hs he, State.forkOn_eq, if_pos]
    · rfl
    · refine .inl (List.any_eq_true.mpr ⟨s.ctx, List.mem_singleton.mpr rfl, ?_⟩)
      exact decide_eq_true hfull
  · rw [State.cx_setCx, Ctx.advance_rvreg]
    exact Tbl.get_set_same ..
  · rw [State.cx_setCx]
    exact Ctx.advance_pc_congr rfl rfl rfl
  · rw [State.cx_setCx, Ctx.advance_rvreg]
    exact Tbl.get_set_ne _ _ _ hi
  · exact if_pos hf
  · exact if_neg (by rw [hf]; exact Bool.false_ne_true)
  · obtain ⟨t, ht, hpc, hmem, hdrop⟩ := exec_qdrop_completes s r q hm
    refine ⟨t, ht, hpc, hmem, fun x hx n hn => ?_⟩
    obtain ⟨hd, hpl⟩ := hdrop x hx
    exact hd n (by rw [hpl]; exact hn)

end Sys2Proof.Machine
end

section
/-! ## O14: tags and rings of the control core -/
namespace Sys2Proof.Machine

/-! ### What an acquire of marks leaves -/

/-- A context that differs from another in what its acquires and marks have noted, and in the bases of its combines. -/
def Ctx.MarksFrom (c d : Ctx) : Prop :=
  (∃ a sn cb tl rg, d = { c with after := a, seen := sn, combs := cb, tagLines := tl, rings := rg })
    ∧ ∀ i, { d.ring i with marks := [] } = { c.ring i with marks := [] }

theorem Ctx.MarksFrom.refl (c : Ctx) : c.MarksFrom c := ⟨⟨_, _, _, _, _, rfl⟩, fun _ => rfl⟩

theorem Ctx.MarksFrom.advance_pc {c d : Ctx} (h : c.MarksFrom d) : d.advance.pc = c.advance.pc := by
  obtain ⟨⟨_, _, _, _, _, rfl⟩, -⟩ := h
  exact Ctx.advance_pc_congr rfl rfl rfl

theorem Ctx.MarksFrom.sreg {c d : Ctx} (h : c.MarksFrom d) (r : Nat) : d.sreg r = c.sreg r := by
  obtain ⟨⟨_, _, _, _, _, rfl⟩, -⟩ := h
  rfl

theorem Ctx.MarksFrom.tagdone {c d : Ctx} (h : c.MarksFrom d) : d.tagdone = c.tagdone := by
  obtain ⟨⟨_, _, _, _, _, rfl⟩, -⟩ := h
  rfl

theorem Tbl.get_map_value {α : Type} (t : Tbl α) (f : α → α) (d : α) (i : Nat) (h : f d = d) :
    Tbl.get (t.map fun p => (p.1, f p.2)) d i = f (Tbl.get t d i) := by
  unfold Tbl.get
  induction t with
  | nil => simpa [Tbl.find?] using h.symm
  | cons p t ih =>
    rw [List.map_cons, Tbl.find?, Tbl.find?]
    split
    · rfl
    · exact ih

/-- The acting state with the context c, of the slot that orders. -/
theorem State.orderBytes_shape (s : State) (core slot : Nat) (ls : List (Tbl Nat)) :
    ∃ c, (s.ctxOf core slot).MarksFrom c ∧ (s.orderBytes core slot ls = s.setCtx core slot c ∨ s.orderBytes core slot ls = s ∧ c = s.ctxOf core slot) := by
  by_cases hu : (ls.foldl maskJoin []).isEmpty = true
  · exact ⟨_, .refl _, .inr ⟨by unfold State.orderBytes; exact if_pos hu, rfl⟩⟩
  · refine ⟨_, ⟨⟨_, _, _, _, _, rfl⟩, fun i => ?_⟩, .inl (by unfold State.orderBytes; exact if_neg hu)⟩
    unfold Ctx.ring
    dsimp only
    rw [Tbl.get_map_value (s.ctxOf core slot).rings (fun r : Ring => { r with
      marks := (r.marks.map fun p => (p.1, maskLess p.2 (ls.foldl maskJoin []))).filter fun p => !p.2.isEmpty }) _ i rfl]

/-- What an acquire leaves of the acting state: it changes the context alone. -/
theorem State.orderBytes_acting (s : State) (ls : List (Tbl Nat)) : ∃ c, s.cx.MarksFrom c ∧ (s.orderBytes s.core s.ctx ls).cx = c
    ∧ SameMemory s (s.orderBytes s.core s.ctx ls) := by
  obtain ⟨c, hc, h | ⟨h, rfl⟩⟩ := s.orderBytes_shape s.core s.ctx ls
  · exact ⟨c, hc, by rw [h]; exact s.cx_setCx c, fun a => by rw [h]; rfl⟩
  · exact ⟨s.cx, .refl _, by rw [h], fun a => by rw [h]⟩

theorem State.orderTags_acting (s : State) (ts : List Nat) : s.cx.MarksFrom (s.orderTags s.core s.ctx ts).cx
    ∧ SameMemory s (s.orderTags s.core s.ctx ts) := by
  obtain ⟨c, hc, he, hm⟩ := (s.setCx { s.cx with after := _ }).orderBytes_acting ((s.cx.tagLines.filter fun p => ts.contains (p.1 % 65)).map (·.2))
  rw [s.cx_setCx] at hc
  refine ⟨?_, hm⟩
  have hx : (s.orderTags s.core s.ctx ts).cx = c := he
  rw [hx]
  obtain ⟨⟨_, _, _, _, _, rfl⟩, hr⟩ := hc
  exact ⟨⟨_, _, _, _, _, rfl⟩, hr⟩

/-- A word that waited retires after its acquire. -/
theorem MarksFrom_retired {s t : State} (hc : s.cx.MarksFrom t.cx) (hm : SameMemory s t) :
    (t.setCx t.cx.advance).cx.pc = s.cx.advance.pc ∧ SameMemory s (t.setCx t.cx.advance) ∧ (∀ r, (t.setCx t.cx.advance).cx.sreg r = s.cx.sreg r)
      ∧ (t.setCx t.cx.advance).cx.tagdone = s.cx.tagdone := by
  rw [State.cx_setCx]
  refine ⟨hc.advance_pc, hm, fun r => by rw [Ctx.advance_sreg, hc.sreg], ?_⟩
  obtain ⟨pc, ps, h⟩ := t.cx.advance_shape
  rw [h, ← hc.tagdone]

/-! ### TCANCEL -/

theorem Ctx.completeTag_tagsFrom (c : Ctx) (t : Nat) (err : Option Nat) : c.TagsFrom (c.completeTag t err) := by
  unfold Ctx.completeTag Ctx.settleTag
  cases err <;> exact ⟨_, _, _, _, _, rfl⟩

theorem Ctx.TagsFrom.sreg {c d : Ctx} (h : c.TagsFrom d) (r : Nat) : d.sreg r = c.sreg r := by
  obtain ⟨_, _, _, _, _, rfl⟩ := h
  rfl

/-- The context with the steps of the cancelled tags completed. -/
def State.cancelledCtx (s : State) (core slot n : Nat) (mask : Word) : Ctx :=
  ((s.copyOf core n).steps.filter (CopyStep.hit mask)).foldl (fun c st => c.completeTag (st.tag.getD 0) (some causeCancelled)) (s.ctxOf core slot)

theorem State.cancelledCtx_tagsFrom (s : State) (core slot n : Nat) (mask : Word) : (s.ctxOf core slot).TagsFrom (s.cancelledCtx core slot n mask) :=
  .foldl (fun c _ => c.completeTag_tagsFrom _ _) _ _

/-- What the cancel of tags on one engine leaves. -/
theorem State.cancelEngine_eq (s : State) (core slot n : Nat) (mask : Word) : ∃ v, s.cancelEngine core slot n mask =
    ((s.setEng core (n + 8) v).putTags core slot (s.cancelledCtx core slot n mask)).setCopy core n
      { s.copyOf core n with steps := (s.copyOf core n).steps.filter fun st => !st.hit mask } := ⟨_, rfl⟩

theorem State.WroteBytes.copyOf {σ τ : State} (h : σ.WroteBytes τ) (core n : Nat) : τ.copyOf core n = σ.copyOf core n := by
  obtain ⟨f, e, w, a, rfl⟩ := h
  rfl

theorem State.copyOf_setCopy_same (s : State) (core n : Nat) (v : CopyEng) : (s.setCopy core n v).copyOf core n = v := Tbl.get_set_same ..

theorem State.copyOf_setCopy_ne (s : State) (core : Nat) {n m : Nat} (v : CopyEng) (h : m ≠ n) : (s.setCopy core n v).copyOf core m = s.copyOf core m :=
  Tbl.get_set_ne _ _ _ (by omega)

theorem State.cancelEngine_ctxOf (s : State) (core slot n : Nat) (mask : Word) :
    (s.cancelEngine core slot n mask).ctxOf core slot = s.cancelledCtx core slot n mask := by
  obtain ⟨v, h⟩ := s.cancelEngine_eq core slot n mask
  rw [h]
  exact ((State.putTags_shape _ core slot _).ctxOf core slot).trans (State.ctxOf_setCtx_same _ core slot _)

theorem State.cancelEngine_acting (s : State) (core slot n : Nat) (mask : Word) :
    (s.cancelEngine core slot n mask).core = s.core ∧ (s.cancelEngine core slot n mask).ctx = s.ctx := by
  obtain ⟨v, h⟩ := s.cancelEngine_eq core slot n mask
  rw [h]
  exact (State.putTags_shape _ core slot _).acting

theorem State.cancelEngine_slotArea (s : State) (core slot n : Nat) (mask : Word) :
    (s.cancelEngine core slot n mask).slotArea core slot = s.slotArea core slot := by
  obtain ⟨v, h⟩ := s.cancelEngine_eq core slot n mask
  rw [h]
  refine ((State.putTags_shape (s.setEng core (n + 8) v) core slot _).slotArea core slot).trans ?_
  unfold State.slotArea
  rw [State.ctxOf_setCtx_same, (s.cancelledCtx_tagsFrom core slot n mask).task]
  rfl

theorem State.cancelEngine_memByte_ne (s : State) (core slot n : Nat) (mask : Word) (a : Nat) (h : s.offFaultOf core slot a) :
    (s.cancelEngine core slot n mask).memByte a = s.memByte a := by
  obtain ⟨v, he⟩ := s.cancelEngine_eq core slot n mask
  rw [he]
  exact (s.setEng core (n + 8) v).putTags_memByte_ne core slot _ (s.cancelledCtx_tagsFrom core slot n mask).task a h

/-- The engine has no step in flight of a tag of the mask. -/
def CopyEng.Clear (v : CopyEng) (mask : Word) : Prop := ∀ st ∈ v.steps, ∀ g, st.tag = some g → mask.getLsbD g = false

theorem CopyEng.clear_filter (v : CopyEng) (mask : Word) : CopyEng.Clear { v with steps := v.steps.filter fun st => !st.hit mask } mask := by
  intro st hst g hg
  have h := (List.mem_filter.mp hst).2
  unfold CopyStep.hit at h
  rw [hg] at h
  simpa using h

theorem State.cancelEngine_clear (s : State) (core slot n : Nat) (mask : Word) (m : Nat) (h : m = n ∨ (s.copyOf core m).Clear mask) :
    ((s.cancelEngine core slot n mask).copyOf core m).Clear mask := by
  obtain ⟨v, he⟩ := s.cancelEngine_eq core slot n mask
  rw [he]
  by_cases hm : m = n
  · subst hm
    rw [State.copyOf_setCopy_same]
    exact CopyEng.clear_filter _ mask
  · rw [State.copyOf_setCopy_ne _ _ _ hm, (State.putTags_shape _ core slot _).copyOf]
    exact h.resolve_left hm

/-- The tags of the mask cancelled on each engine of a list. -/
def State.cancelEach (s : State) (core slot : Nat) (mask : Word) (ns : List Nat) : State := ns.foldl (fun σ n => σ.cancelEngine core slot n mask) s

theorem State.cancelEach_spec (ns : List Nat) (s : State) (core slot : Nat) (mask : Word) :
    (s.ctxOf core slot).TagsFrom ((s.cancelEach core slot mask ns).ctxOf core slot)
      ∧ ((s.cancelEach core slot mask ns).core = s.core ∧ (s.cancelEach core slot mask ns).ctx = s.ctx)
      ∧ (∀ a, s.offFaultOf core slot a → (s.cancelEach core slot mask ns).memByte a = s.memByte a)
      ∧ ∀ m, m ∈ ns ∨ (s.copyOf core m).Clear mask → ((s.cancelEach core slot mask ns).copyOf core m).Clear mask := by
  unfold State.cancelEach
  induction ns generalizing s with
  | nil => exact ⟨.refl _, ⟨rfl, rfl⟩, fun _ _ => rfl, fun m h => h.resolve_left (by simp)⟩
  | cons n ns ih =>
    obtain ⟨hc, hact, hm, hcl⟩ := ih (s.cancelEngine core slot n mask)
    have hact' := s.cancelEngine_acting core slot n mask
    rw [List.foldl_cons]
    refine ⟨?_, ⟨hact.1.trans hact'.1, hact.2.trans hact'.2⟩, fun a ha => ?_, fun m h => hcl m ?_⟩
    · rw [State.cancelEngine_ctxOf] at hc
      exact (s.cancelledCtx_tagsFrom core slot n mask).trans hc
    · rw [hm a fun p hp => ha p (by rwa [State.cancelEngine_slotArea] at hp), s.cancelEngine_memByte_ne core slot n mask a ha]
    · rcases h with h | h
      · rcases List.mem_cons.mp h with rfl | h
        · exact .inr (s.cancelEngine_clear core slot m mask m (.inl rfl))
        · exact .inl h
      · exact .inr (s.cancelEngine_clear core slot n mask m (.inr h))

theorem State.cx_of_acting {σ τ : State} (h : τ.core = σ.core ∧ τ.ctx = σ.ctx) : τ.cx = τ.ctxOf σ.core σ.ctx := by
  rw [← h.1, ← h.2]
  rfl

theorem exec_tcancel_completes (s : State) (a : BitVec 5) : ∃ t, exec (.tcancel a) s = .next t ∧ t.cx.pc = s.cx.advance.pc
    ∧ (∀ pa, offFault s pa → t.memByte pa = s.memByte pa) ∧ (∀ r, t.cx.sreg r = s.cx.sreg r)
    ∧ ∀ n ∈ s.copiesWith s.core s.ctx, (t.copyOf s.core n).Clear (s.cx.sreg a.toNat) := by
  obtain ⟨hc, hact, hm, hcl⟩ := s.cancelEach_spec (s.copiesWith s.core s.ctx) s.core s.ctx (s.cx.sreg a.toNat)
  rw [← State.cx_of_acting hact] at hc
  refine ⟨_, rfl, ?_, hm, fun r => ?_, fun n hn => hcl n (.inl hn)⟩
  · exact (congrArg Ctx.pc (State.cx_setCx _ _)).trans hc.advance_pc
  · exact (congrArg (·.sreg r) (State.cx_setCx _ _)).trans ((Ctx.advance_sreg _ r).trans (hc.sreg r))

/-! ### TFFR -/

/-- The lowest set bit of a word. -/
theorem trailZeros_word (v : Word) (h : v ≠ 0) : v.getLsbD (trailZeros 64 v.toNat) = true ∧ ∀ i < trailZeros 64 v.toNat, v.getLsbD i = false := by
  obtain ⟨hle, hmod, htest⟩ := trailZeros_spec 64 v.toNat
  have hlt : trailZeros 64 v.toNat < 64 := by
    refine lt_of_le_of_ne hle fun he => h (BitVec.eq_of_toNat_eq ?_)
    rw [he, Nat.mod_eq_of_lt v.isLt] at hmod
    exact hmod
  refine ⟨htest hlt, fun i hi => ?_⟩
  rw [← BitVec.testBit_toNat, ← Nat.div_add_mod v.toNat (2 ^ trailZeros 64 v.toNat), hmod, Nat.add_zero, Nat.testBit_two_pow_mul]
  simp [hi]

/-! ### Rings -/

theorem Ring.settle_spec (n : Nat) (r : Ring) : (Ring.settle n r).claim = r.claim ∧ (Ring.settle n r).head = r.head ∧ (Ring.settle n r).entry = r.entry
    ∧ ∃ j ≤ n, (Ring.settle n r).tail = r.tail + BitVec.ofNat 32 j ∧ (j = 0 → (Ring.settle n r).filled = r.filled) := by
  induction n generalizing r with
  | zero => exact ⟨rfl, rfl, rfl, 0, le_rfl, by simp [Ring.settle], fun _ => rfl⟩
  | succ n ih =>
    rw [Ring.settle]
    split
    · obtain ⟨hc, hh, he, j, hj, ht, -⟩ := ih { r with filled := r.filled.filter (fun i => decide (i ≠ r.tail.toNat % r.scount)), tail := r.tail + 1 }
      refine ⟨hc, hh, he, j + 1, by omega, ?_, by omega⟩
      rw [ht, BitVec.add_assoc, Nat.add_comm j 1, BitVec.ofNat_add]
      rfl
    · exact ⟨rfl, rfl, rfl, 0, by omega, by simp, fun _ => rfl⟩

theorem Ring.scount_lt (r : Ring) : r.scount < 2 ^ 13 := Nat.mod_lt _ (by decide)

/-- A slot that is filled stands in the filled slots, or the tail has passed it. -/
theorem Ring.fillDone_spec (r : Ring) (i : Nat) : (r.fillDone i).claim = r.claim ∧ (r.fillDone i).head = r.head ∧ (r.fillDone i).entry = r.entry
    ∧ (i % r.scount ∈ (r.fillDone i).filled ∨ (r.fillDone i).tail ≠ r.tail) := by
  unfold Ring.fillDone Ring.fillWith
  obtain ⟨hc, hh, he, j, hj, ht, hf⟩ := Ring.settle_spec r.scount { r with
    filled := insertNat r.filled (i % r.scount), marks := Tbl.del r.marks (i % r.scount), vmarks := Tbl.del r.vmarks (i % r.scount) }
  refine ⟨hc, hh, he, ?_⟩
  by_cases h0 : j = 0
  · left
    refine (hf h0).symm ▸ ?_
    unfold insertNat
    split
    · exact List.contains_iff_mem.mp ‹_›
    · exact .head _
  · right
    intro hsame
    have htail : r.tail = r.tail + BitVec.ofNat 32 j := hsame.symm.trans ht
    have := r.scount_lt
    have hn := congrArg BitVec.toNat htail
    have hlt := r.tail.isLt
    rw [BitVec.toNat_add, BitVec.toNat_ofNat] at hn
    omega

/-- Fewer slots are free than a count asks for. -/
theorem Ring.free_lt_iff (r : Ring) {n : Nat} (h : 1 ≤ n) : r.free < n ↔ r.scount < (r.claim - r.head).toNat + n := by
  unfold Ring.free
  omega

theorem ringCountOk_iff (r : Ring) (n : Nat) : ringCountOk r n = true ↔ r.scount ≠ 0 ∧ 1 ≤ n ∧ n ≤ r.scount := by
  unfold ringCountOk Ring.configured
  rw [Bool.and_eq_true, Bool.and_eq_true, decide_eq_true_eq, decide_eq_true_eq, decide_eq_true_eq, and_assoc]

/-- The rules of R75 on a ring entry; a slot count above 4,096 is refused (log 81). -/
theorem ringEntryOk_iff (v : Word) (asize : Nat) : ringEntryOk v.toNat asize = true ↔ v.toNat / 2 ^ 36 ≠ 0 ∧ v.toNat / 2 ^ 36 ≤ 4096
    ∧ v.toNat / 2 ^ 24 % 2 ^ 12 ≠ 0 ∧ v.toNat % 64 = 0
    ∧ v.toNat % 2 ^ 24 + v.toNat / 2 ^ 36 * 64 * (v.toNat / 2 ^ 24 % 2 ^ 12) ≤ asize := by
  have hlt := v.isLt
  have h63 : bits v.toNat 63 49 = v.toNat / 2 ^ 49 % 2 ^ 15 := rfl
  have h48 : bits v.toNat 48 36 = v.toNat / 2 ^ 36 % 2 ^ 13 := rfl
  have h35 : bits v.toNat 35 24 = v.toNat / 2 ^ 24 % 2 ^ 12 := rfl
  have h5 : bits v.toNat 5 0 = v.toNat % 64 := by simp [bits]
  have h23 : bits v.toNat 23 0 = v.toNat % 2 ^ 24 := by simp [bits]
  unfold ringEntryOk
  simp only [h63, h48, h35, h5, h23, Bool.and_eq_true, decide_eq_true_eq, and_assoc]
  constructor
  · rintro ⟨h1, h2, h3, h4, h5, h6⟩
    have he : v.toNat / 2 ^ 36 % 2 ^ 13 = v.toNat / 2 ^ 36 := by omega
    rw [he] at h2 h3 h6
    exact ⟨h2, h3, h4, h5, h6⟩
  · rintro ⟨h2, h3, h4, h5, h6⟩
    have he : v.toNat / 2 ^ 36 % 2 ^ 13 = v.toNat / 2 ^ 36 := by omega
    rw [he]
    exact ⟨by omega, h2, h3, h4, h5, h6⟩

/-- What each ring word does with a count that its entry allows. -/
theorem exec_rclaim_eq (s : State) (g : BitVec 6) (d a : BitVec 5) : exec (.rclaim g d a) s =
    if !ringCountOk (s.cx.ring g.toNat) (count32 (s.cx.sreg a.toNat)) then s.trapWith causeIllegal
    else if (s.cx.ring g.toNat).free < count32 (s.cx.sreg a.toNat) then s.stallHere
    else s.retire ((s.cx.setRing g.toNat ((s.cx.ring g.toNat).doClaim (count32 (s.cx.sreg a.toNat)))).setS d.toNat (zext (s.cx.ring g.toNat).claim)) := rfl

theorem exec_rwaitf_eq (s : State) (g : BitVec 6) (a : BitVec 5) : exec (.rwaitf g a) s =
    if !ringCountOk (s.cx.ring g.toNat) (count32 (s.cx.sreg a.toNat)) then s.trapWith causeIllegal
    else if (s.cx.ring g.toNat).full < count32 (s.cx.sreg a.toNat) then s.stallHere
    else (s.orderRing s.core s.ctx g.toNat (count32 (s.cx.sreg a.toNat))).retire (s.orderRing s.core s.ctx g.toNat (count32 (s.cx.sreg a.toNat))).cx := rfl

theorem exec_rwaite_eq (s : State) (g : BitVec 6) (a : BitVec 5) : exec (.rwaite g a) s =
    if !ringCountOk (s.cx.ring g.toNat) (count32 (s.cx.sreg a.toNat)) then s.trapWith causeIllegal
    else if (s.cx.ring g.toNat).free < count32 (s.cx.sreg a.toNat) then s.stallHere else s.retire s.cx := rfl

theorem exec_radv_eq (s : State) (g : BitVec 6) (a : BitVec 5) : exec (.radv g a) s =
    if !ringCountOk (s.cx.ring g.toNat) (count32 (s.cx.sreg a.toNat)) ∨ (s.cx.ring g.toNat).full < count32 (s.cx.sreg a.toNat) then s.trapWith causeIllegal
    else s.retire (s.cx.setRing g.toNat ((s.cx.ring g.toNat).doAdvance (count32 (s.cx.sreg a.toNat)))) := rfl

theorem exec_rget_eq (s : State) (g : BitVec 6) (d a : BitVec 5) : exec (.rget g d a) s =
    if !(s.cx.ring g.toNat).configured then s.trapWith causeIllegal
    else if s.cx.sreg a.toNat = 0 then s.retireS d (zext (s.cx.ring g.toNat).claim)
    else if s.cx.sreg a.toNat = 1 then s.retireS d (zext (s.cx.ring g.toNat).tail)
    else if s.cx.sreg a.toNat = 2 then s.retireS d (zext (s.cx.ring g.toNat).head)
    else if s.cx.sreg a.toNat = 3 then s.retireS d (s.cx.ring g.toNat).entry
    else s.trapWith causeIllegal := rfl

theorem exec_rdone_eq (s : State) (g : BitVec 6) (a : BitVec 5) : exec (.rdone g a) s =
    if !(s.cx.ring g.toNat).configured
        ∨ ((s.cx.ring g.toNat).claim - (s.cx.ring g.toNat).tail).toNat ≤ (BitVec.ofNat 32 (count32 (s.cx.sreg a.toNat)) - (s.cx.ring g.toNat).tail).toNat
        ∨ (s.cx.ring g.toNat).filled.contains ((BitVec.ofNat 32 (count32 (s.cx.sreg a.toNat))).toNat % (s.cx.ring g.toNat).scount) then s.trapWith causeIllegal
    else s.retire (s.cx.setRing g.toNat ((s.cx.ring g.toNat).fillDone (BitVec.ofNat 32 (count32 (s.cx.sreg a.toNat))).toNat)) := rfl

theorem Ctx.advance_ring (c : Ctx) (i : Nat) : c.advance.ring i = c.ring i := by
  unfold Ctx.advance
  split_ifs <;> rfl

theorem exec_rdone_completes (s : State) (g : BitVec 6) (a : BitVec 5) (n : Nat) (hn : count32 (s.cx.sreg a.toNat) = n)
    (hc : (s.cx.ring g.toNat).scount ≠ 0)
    (hr : (BitVec.ofNat 32 n - (s.cx.ring g.toNat).tail).toNat < ((s.cx.ring g.toNat).claim - (s.cx.ring g.toNat).tail).toNat)
    (hf : n % (s.cx.ring g.toNat).scount ∉ (s.cx.ring g.toNat).filled) :
    exec (.rdone g a) s = .next (s.setCx (s.cx.setRing g.toNat ((s.cx.ring g.toNat).fillDone n)).advance) := by
  have hi : (BitVec.ofNat 32 (count32 (s.cx.sreg a.toNat))).toNat = n := by
    rw [hn, BitVec.toNat_ofNat]
    exact Nat.mod_eq_of_lt (hn ▸ Nat.mod_lt _ (by decide))
  rw [exec_rdone_eq, hi, hn, if_neg]
  · rfl
  · unfold Ring.configured
    rintro (h | h | h)
    · simp [hc] at h
    · omega
    · exact hf (by simpa using h)

/-- Settles O14: the waits go through `State.orderBytes_acting`, TCANCEL through `State.cancelEach_spec`, RDONE through `Ring.fillDone_spec`. -/
theorem tagsAndRings : Obligations.TagsAndRings := by
  unfold Obligations.TagsAndRings
  refine ⟨?_, ?_⟩
  · intro s d a m done
    have hw := s.orderTags_acting (tagsOf done)
    refine ⟨fun hd => ?_, fun hm hd => ?_, fun hm => ?_, fun hd => ?_, fun hd => ?_, fun hd => ?_, fun hd => ?_, exec_tcancel_completes s a⟩
    · have hm : s.rs a ≠ 0 := fun h => hd (show s.cx.tagdone &&& s.rs a = 0 by simp [h])
      exact ⟨_, (if_neg hm).trans (if_pos hd), MarksFrom_retired hw.1 hw.2⟩
    · exact (if_neg hm).trans (if_neg (not_not.mpr hd))
    · exact if_pos hm
    · exact ⟨_, if_pos hd, MarksFrom_retired hw.1 hw.2⟩
    · exact if_neg hd
    · exact if_pos hd
    · obtain ⟨hbit, hlow⟩ := trailZeros_word done hd
      refine ⟨_, _, if_neg hd, hbit, hlow, ?_, fun r hr => ?_, hw.2⟩
      · exact (congrArg (·.sreg d.toNat) (State.cx_setCx _ _)).trans (Ctx.setS_advance_sreg _ d _)
      · refine (congrArg (·.sreg r) (State.cx_setCx _ _)).trans ?_
        rw [Ctx.advance_sreg, Ctx.sreg_setS, if_neg (fun h => hr h.1)]
        exact hw.1.sreg r
  · intro s g d a r v n cnt full used ok entryOk
    have hn : count32 (s.cx.sreg a.toNat) = n := rfl
    have hok : ok → (!ringCountOk r n) = false := fun h => by rw [(ringCountOk_iff r n).mpr h]; rfl
    have hbad : ¬ok → (!ringCountOk r n) = true := fun h => by
      rw [Bool.eq_false_iff.mpr fun h' => h ((ringCountOk_iff r n).mp h')]
      rfl
    have hconf : cnt ≠ 0 → (!r.configured) = false := fun h => by
      rw [Ring.configured, decide_eq_true h]
      rfl
    refine ⟨fun h => ?_, fun h => ?_, fun h hu => ?_, fun h hu => ?_, fun hc hr hf => ?_, fun h hu => ?_, fun h hu => ?_, fun h hu => ?_, fun h hu => ?_, fun h hu => ?_,
      fun h hu => ?_, fun h hv => ?_, fun h hv => ?_, fun h hv => ?_, fun h hv => ?_, fun h => ?_, fun h => ?_⟩
    · exact if_pos ((ringEntryOk_iff v s.cx.asize).mpr h)
    · exact if_neg fun h' => h ((ringEntryOk_iff v s.cx.asize).mp h')
    · rw [exec_rclaim_eq, hn, hok h, if_neg Bool.false_ne_true, if_neg fun h' => absurd ((r.free_lt_iff h.2.1).mp h') (not_lt.mpr hu)]
      rfl
    · rw [exec_rclaim_eq, hn, hok h, if_neg Bool.false_ne_true, if_pos ((r.free_lt_iff h.2.1).mpr hu)]
      rfl
    · obtain ⟨h1, h2, h3, h4⟩ := r.fillDone_spec n
      refine ⟨_, _, exec_rdone_completes s g a n hn hc hr hf, rfl, ?_⟩
      rw [State.cx_setCx, Ctx.advance_ring, show (s.cx.setRing g.toNat (r.fillDone n)).ring g.toNat = r.fillDone n from Tbl.get_set_same ..]
      exact ⟨h1, h2, h3, h4, Ctx.advance_pc_congr rfl rfl rfl, fun _ => rfl, fun q => Ctx.advance_sreg _ q⟩
    · obtain ⟨c, hc, hcx, hm⟩ := s.orderBytes_acting ((s.cx.ring g.toNat).marked n)
      have hcx' : (s.orderRing s.core s.ctx g.toNat n).cx = c := hcx
      rw [exec_rwaitf_eq, hn, hok h, if_neg Bool.false_ne_true, if_neg (show ¬(s.cx.ring g.toNat).full < n from not_lt.mpr hu)]
      refine ⟨_, rfl, ?_, fun i => ?_, hm, fun q => ?_⟩
      · rw [State.cx_setCx, hcx']
        exact hc.advance_pc
      · rw [State.cx_setCx, hcx', Ctx.advance_ring]
        exact hc.2 i
      · rw [State.cx_setCx, hcx', Ctx.advance_sreg]
        exact hc.sreg q
    · rw [exec_rwaitf_eq, hn, hok h, if_neg Bool.false_ne_true, if_pos (show (s.cx.ring g.toNat).full < n from hu)]
      rfl
    · rw [exec_rwaite_eq, hn, hok h, if_neg Bool.false_ne_true, if_neg fun h' => absurd ((r.free_lt_iff h.2.1).mp h') (not_lt.mpr hu)]
      rfl
    · rw [exec_rwaite_eq, hn, hok h, if_neg Bool.false_ne_true, if_pos ((r.free_lt_iff h.2.1).mpr hu)]
      rfl
    · rw [exec_radv_eq, hn, hok h, if_neg (show ¬(false = true ∨ (s.cx.ring g.toNat).full < n) from not_or.mpr ⟨Bool.false_ne_true, not_lt.mpr hu⟩)]
      rfl
    · rw [exec_radv_eq, hn, if_pos (.inr hu)]
      rfl
    · rw [exec_rget_eq, hconf h, if_neg Bool.false_ne_true, if_pos hv]
      rfl
    · rw [exec_rget_eq, hconf h, if_neg Bool.false_ne_true, show s.cx.sreg a.toNat = _ from hv]
      rfl
    · rw [exec_rget_eq, hconf h, if_neg Bool.false_ne_true, show s.cx.sreg a.toNat = _ from hv]
      rfl
    · rw [exec_rget_eq, hconf h, if_neg Bool.false_ne_true, show s.cx.sreg a.toNat = _ from hv]
      rfl
    · rw [exec_rget_eq]
      by_cases hc : cnt = 0
      · rw [if_pos (by rw [Ring.configured, decide_eq_false (not_not.mpr hc)]; rfl)]
        rfl
      · have hv := h.resolve_left hc
        rw [hconf hc, if_neg Bool.false_ne_true, if_neg, if_neg, if_neg, if_neg]
        · rfl
        all_goals intro he; rw [show v = _ from he] at hv; exact absurd hv (by decide)
    · have hb := hbad h
      refine ⟨?_, ?_, ?_, ?_⟩
      · rw [exec_rclaim_eq, hn, if_pos hb]; rfl
      · rw [exec_rwaitf_eq, hn, if_pos hb]; rfl
      · rw [exec_rwaite_eq, hn, if_pos hb]; rfl
      · rw [exec_radv_eq, hn, if_pos (.inl hb)]; rfl

end Sys2Proof.Machine
end

section
/-! ## O15: fences -/
namespace Sys2Proof.Machine

/-- A context that differs from another in its fences and its numbers of commands alone. -/
def Ctx.FencesFrom (c d : Ctx) : Prop := ∃ fs n w, d = { c with fences := fs, cmdNo := n, fenceWait := w }

theorem Ctx.FencesFrom.trans {c d e : Ctx} (h : c.FencesFrom d) (g : d.FencesFrom e) : c.FencesFrom e := by
  obtain ⟨_, _, _, rfl⟩ := h
  obtain ⟨_, _, _, rfl⟩ := g
  exact ⟨_, _, _, rfl⟩

theorem Ctx.FencesFrom.advance_pc {c d : Ctx} (h : c.FencesFrom d) : d.advance.pc = c.advance.pc := by
  obtain ⟨_, _, _, rfl⟩ := h
  exact Ctx.advance_pc_congr rfl rfl rfl

theorem Ctx.FencesFrom.sreg {c d : Ctx} (h : c.FencesFrom d) (r : Nat) : d.sreg r = c.sreg r := by
  obtain ⟨_, _, _, rfl⟩ := h
  rfl

theorem Ctx.FencesFrom.pc {c d : Ctx} (h : c.FencesFrom d) : d.pc = c.pc := by
  obtain ⟨_, _, _, rfl⟩ := h
  rfl

/-! ### Commands before a number -/

theorem plainMarkers_any_id (q : List Cmd) (n : Nat) : (plainMarkers q).any (fun k => decide (k.id < n)) = q.any fun k => decide (k.id < n) := by
  unfold plainMarkers
  rw [List.any_map]
  congr 1
  funext k
  obtain ⟨id, held, kind⟩ := k
  cases kind <;> rfl

theorem State.placeEach_hasBefore (es : List Nat) (s : State) (core slot : Nat) (held : Bool) (k : CmdKind) (hn : es.Nodup) (x b : Nat)
    (hb : b ≤ (s.ctxOf core slot).cmdNo) : (s.placeEach core slot held k es).hasBefore core x b = s.hasBefore core x b := by
  have hq : ((s.placeEach core slot held k es).engOf core x).queue.any (fun k => decide (k.id < b)) = (s.engOf core x).queue.any fun k => decide (k.id < b) := by
    by_cases hx : x ∈ es
    · obtain ⟨id, hid, h⟩ := State.placeEach_queue es s core slot held k hn x hx
      rw [h, List.any_append, plainMarkers_any_id]
      simp [show ¬id < b by omega]
    · rw [State.placeEach_engOf_ne _ _ _ _ _ _ _ hx]
  have hcf : (s.placeEach core slot held k es).fragOf core (x - 4) = s.fragOf core (x - 4)
      ∧ (s.placeEach core slot held k es).copyOf core (x - 8) = s.copyOf core (x - 8) := by
    obtain ⟨_, _, h⟩ := s.placeEach_ctxsEngs core slot held k es
    rw [h]
    exact ⟨rfl, rfl⟩
  unfold State.hasBefore
  dsimp only
  rw [hq, State.placeEach_run, hcf.1, hcf.2]

/-! ### The fence in its context -/

/-- The engines of the acting slot on a path of a mask, and the fence that waits for those on a path of x. -/
def State.enginesOn (s : State) (m : BitVec 6) : List Nat := (s.enginesOf s.core s.ctx).filter fun e => meets m (enginePaths e)
def State.newFence (s : State) (x y : BitVec 6) : Fence :=
  { id := s.cx.cmdNo, x := x, y := y, waits := (s.enginesOn x).map (fun e => (e, s.cx.cmdNo)), lines := [] }
/-- The fences of a context with a new one of a number. -/
def withFence (fs : List Fence) (f : Fence) : List Fence := (fs.filter fun g => decide (g.id ≠ f.id)) ++ [f]

/-- The state with the fence noted, and with its tokens behind their engines. -/
def State.fenced (s : State) (x y : BitVec 6) : State :=
  let p := s.pruneFences s.core s.ctx
  p.setCx { p.cx with fences := withFence p.cx.fences (s.newFence x y), cmdNo := s.cx.cmdNo + 1 }
def State.tokens (s : State) (x y : BitVec 6) : State :=
  (s.fenced x y).placeEach s.core s.ctx false (.fence s.cx.cmdNo) (s.enginesOn y)

theorem State.cx_pruneFences (s : State) : ∃ fs, (s.pruneFences s.core s.ctx).cx = { s.cx with fences := fs } := ⟨_, s.cx_setCx _⟩

theorem exec_fenceX_eq (s : State) (x y : BitVec 6) (c : BitVec 3) (hw : s.cx.fenceWait = none)
    (hr : ∀ e ∈ s.enginesOn y, (s.engOf s.core e).queue.length < 16) :
    exec (.fenceX x y c) s = if meets y [0, 3, 4] then (s.tokens x y).fenceCore x y s.cx.cmdNo
      else ((s.tokens x y).releaseFence s.core s.ctx s.cx.cmdNo).retire ((s.tokens x y).releaseFence s.core s.ctx s.cx.cmdNo).cx := by
  show execFenceX x y c s = _
  unfold execFenceX
  rw [hw]
  dsimp only
  rw [show ((s.enginesOf s.core s.ctx).filter fun e => meets y (enginePaths e)).any (s.queueFull s.core) = false from State.queueFull_any_eq_false hr,
    if_neg Bool.false_ne_true]
  obtain ⟨fs, hp⟩ := s.cx_pruneFences
  have hn : (s.pruneFences s.core s.ctx).cx.cmdNo = s.cx.cmdNo := by rw [hp]
  rw [hn]
  rfl

/-- What the tokens leave: contexts and engines alone, and of the acting context its fences and its number of commands. -/
theorem State.tokens_ctxsEngs (s : State) (x y : BitVec 6) : s.CtxsEngs (s.tokens x y) :=
  State.CtxsEngs.trans ⟨_, _, rfl⟩ (State.placeEach_ctxsEngs _ _ _ _ _ _)

theorem State.fenced_cx (s : State) (x y : BitVec 6) : ∃ fs, (s.fenced x y).cx =
    { s.cx with fences := withFence fs (s.newFence x y), cmdNo := s.cx.cmdNo + 1 } := by
  obtain ⟨fs, hp⟩ := s.cx_pruneFences
  refine ⟨fs, (State.cx_setCx _ _).trans ?_⟩
  rw [hp]

theorem State.tokens_cx (s : State) (x y : BitVec 6) : ∃ fs n, (s.tokens x y).cx = { s.cx with fences := withFence fs (s.newFence x y), cmdNo := n } := by
  obtain ⟨fs, hp⟩ := s.fenced_cx x y
  obtain ⟨n, hn⟩ := State.placeEach_ctxOf (s.enginesOn y) (s.fenced x y) s.core s.ctx false (.fence s.cx.cmdNo)
  refine ⟨fs, n, ?_⟩
  rw [State.cx_of_acting (s.tokens_ctxsEngs x y).acting]
  refine hn.trans ?_
  rw [show (s.fenced x y).ctxOf s.core s.ctx = _ from hp]

/-- The engines of a slot are at three lists' places. -/
theorem State.enginesOf_nodup (s : State) (core slot : Nat) : (s.enginesOf core slot).Nodup := by
  have h4 : ∀ k ∈ s.fragsWith core slot, k < 4 := fun k hk => by
    have := (List.mem_filter.mp hk).1
    simp only [List.mem_cons, List.not_mem_nil, or_false] at this
    omega
  have hf : ((s.fragsWith core slot).map (· + 4)).Nodup := ((by decide : [0, 1, 2, 3].Nodup).filter _).map fun _ _ e => Nat.add_right_cancel e
  have hc : ((s.copiesWith core slot).map (· + 8)).Nodup :=
    ((by decide : [0, 1, 2, 3, 4, 5, 6, 7].Nodup).filter _).map fun _ _ e => Nat.add_right_cancel e
  have hv : (if slot < 4 then [slot] else []).Nodup := by split <;> simp
  have hvmem : ∀ e ∈ (if slot < 4 then [slot] else []), e < 4 := by
    intro e he
    split at he
    · obtain rfl := List.mem_singleton.mp he; assumption
    · cases he
  unfold State.enginesOf
  refine List.nodup_append'.mpr ⟨List.nodup_append'.mpr ⟨hv, hf, fun e he hm => ?_⟩, hc, fun e he hm => ?_⟩
  · obtain ⟨k, -, rfl⟩ := List.mem_map.mp hm
    have := hvmem _ he
    omega
  · obtain ⟨k, -, rfl⟩ := List.mem_map.mp hm
    rcases List.mem_append.mp he with he | he
    · have := hvmem _ he
      omega
    · obtain ⟨j, hj, hjk⟩ := List.mem_map.mp he
      have := h4 j hj
      omega

theorem State.tokens_hasBefore (s : State) (x y : BitVec 6) (e : Nat) : (s.tokens x y).hasBefore s.core e s.cx.cmdNo = s.hasBefore s.core e s.cx.cmdNo := by
  unfold State.tokens
  rw [State.placeEach_hasBefore _ _ _ _ _ _ (show (s.enginesOn y).Nodup from (s.enginesOf_nodup _ _).filter _)]
  · rfl
  · obtain ⟨fs, hp⟩ := s.fenced_cx x y
    rw [show (s.fenced x y).ctxOf s.core s.ctx = _ from hp]
    exact Nat.le_succ _

theorem State.tokens_enginesOf (s : State) (x y : BitVec 6) : (s.tokens x y).enginesOf s.core s.ctx = s.enginesOf s.core s.ctx := by
  have hact := (s.tokens_ctxsEngs x y).acting
  have htask : ((s.tokens x y).ctxOf s.core s.ctx).task = (s.ctxOf s.core s.ctx).task := by
    obtain ⟨fs, n, hcx⟩ := s.tokens_cx x y
    rw [State.cx_of_acting hact] at hcx
    rw [hcx]
    rfl
  have hf : (s.tokens x y).frags = s.frags ∧ (s.tokens x y).copies = s.copies := by
    obtain ⟨_, _, h⟩ := s.tokens_ctxsEngs x y
    rw [h]
    exact ⟨rfl, rfl⟩
  unfold State.enginesOf State.fragsWith State.copiesWith State.servesStill State.fragOf State.copyOf
  rw [htask, hf.1, hf.2]

/-- The acting fence is free: no engine it waits for has a command before it, and no store it waits for is under way. -/
theorem State.tokens_fenceFree (s : State) (x y : BitVec 6) : (s.tokens x y).fenceFree s.core s.ctx (s.newFence x y) = true ↔
    (∀ e ∈ s.enginesOn x, s.hasBefore s.core e s.cx.cmdNo = false)
    ∧ ¬(x.getLsbD 4 = true ∧ ∃ q ∈ s.fabReqs, q.core = s.core ∧ q.slot = s.ctx ∧ q.store.isSome = true ∧ q.store = s.cx.task) := by
  have hfr : (s.tokens x y).fabReqs = s.fabReqs := by
    obtain ⟨_, _, h⟩ := s.tokens_ctxsEngs x y
    rw [h]
  have htask : ((s.tokens x y).ctxOf s.core s.ctx).task = s.cx.task := by
    obtain ⟨fs, n, hcx⟩ := s.tokens_cx x y
    rw [State.cx_of_acting (s.tokens_ctxsEngs x y).acting] at hcx
    rw [hcx]
  unfold State.fenceFree State.newFence
  dsimp only
  rw [Bool.and_eq_true, State.tokens_enginesOf, hfr, htask, List.all_map, List.all_eq_true]
  refine and_congr (forall₂_congr fun e he => ?_) ?_
  · dsimp only [Function.comp]
    have hin : (s.enginesOf s.core s.ctx).contains e = true := List.contains_iff_mem.mpr (List.mem_filter.mp he).1
    rw [State.tokens_hasBefore, hin]
    simp
  · cases x.getLsbD 4
    · simp
    · simp [and_assoc]

/-- A fence after the release of its number. -/
def State.releasedFence (s : State) (id : Nat) (f : Fence) : Fence :=
  if f.id = id ∧ !f.released ∧ s.fenceFree s.core s.ctx f then { f with released := true, lines := if f.x.getLsbD 0 then s.cx.lines else [] } else f

theorem State.releaseFence_cx (s : State) (id : Nat) : (s.releaseFence s.core s.ctx id).cx = { s.cx with fences := s.cx.fences.map (s.releasedFence id) } :=
  s.cx_setCx _

theorem State.releasedFence_id (s : State) (id : Nat) (f : Fence) : (s.releasedFence id f).id = f.id := by
  unfold State.releasedFence
  split <;> rfl

theorem find?_withFence (fs : List Fence) (f : Fence) : (withFence fs f).find? (fun g => decide (g.id = f.id)) = some f := by
  unfold withFence
  rw [List.find?_append, List.find?_eq_none.mpr]
  · simp
  · intro g hg hp
    have := (List.mem_filter.mp hg).2
    simp_all

/-- A fence that is placed is over when it is free. -/
theorem State.tokens_fenceOver (s : State) (x y : BitVec 6) : ((s.tokens x y).releaseFence s.core s.ctx s.cx.cmdNo).fenceOver s.core s.ctx s.cx.cmdNo =
    (s.tokens x y).fenceFree s.core s.ctx (s.newFence x y) := by
  have hact := (s.tokens_ctxsEngs x y).acting
  obtain ⟨fs, n, hcx⟩ := s.tokens_cx x y
  have hr := (s.tokens x y).releaseFence_cx s.cx.cmdNo
  rw [hact.1, hact.2, State.cx_of_acting (σ := s) (τ := (s.tokens x y).releaseFence s.core s.ctx s.cx.cmdNo) hact] at hr
  unfold State.fenceOver State.fenceById
  rw [hr, hcx, List.find?_map]
  have hfun : ((fun f : Fence => decide (f.id = s.cx.cmdNo)) ∘ (s.tokens x y).releasedFence s.cx.cmdNo) = fun g => decide (g.id = (s.newFence x y).id) := by
    funext f
    exact congrArg (fun i => decide (i = s.cx.cmdNo)) (State.releasedFence_id _ _ f)
  rw [hfun, find?_withFence]
  show ((s.tokens x y).releasedFence s.cx.cmdNo (s.newFence x y)).released = _
  unfold State.releasedFence
  rw [hact.1, hact.2]
  cases (s.tokens x y).fenceFree s.core s.ctx (s.newFence x y)
  · rw [if_neg fun h => Bool.false_ne_true h.2.2]
    rfl
  · rw [if_pos ⟨rfl, rfl, rfl⟩]

/-! ### The word -/

theorem meets_core (y : BitVec 6) : meets y [0, 3, 4] = true ↔ y.getLsbD 0 = true ∨ y.getLsbD 3 = true ∨ y.getLsbD 4 = true := by
  simp [meets]

theorem State.stalled_cx (s : State) : ∃ n, s.stalled.cx = { s.cx with stall := n } := by
  unfold State.stalled
  dsimp only
  split
  · exact ⟨_, s.cx_setCx _⟩
  · exact ⟨_, s.cx_setCx _⟩

theorem State.stalled_memByte (s : State) (a : Nat) : s.stalled.memByte a = s.memByte a := by
  unfold State.stalled
  dsimp only
  split <;> rfl

theorem State.stalled_engOf (s : State) (core e : Nat) : s.stalled.engOf core e = s.engOf core e := by
  unfold State.stalled
  dsimp only
  split <;> rfl

/-- What a fence's own step changes besides: contexts alone. -/
theorem State.orderBytes_engOf (s : State) (core slot : Nat) (ls : List (Tbl Nat)) (c e : Nat) : (s.orderBytes core slot ls).engOf c e = s.engOf c e := by
  obtain ⟨d, -, h | ⟨h, -⟩⟩ := s.orderBytes_shape core slot ls <;> rw [h]
  rfl

/-- The state when the fence is passed. -/
def State.passedFence (s : State) (x y : BitVec 6) : State := if x.getLsbD 1 ∧ y.getLsbD 0 then s.orderCopies s.core s.ctx else s

theorem State.passedFence_acting (s : State) (x y : BitVec 6) : s.cx.MarksFrom (s.passedFence x y).cx ∧ SameMemory s (s.passedFence x y)
    ∧ ∀ c e, (s.passedFence x y).engOf c e = s.engOf c e := by
  unfold State.passedFence
  split
  · obtain ⟨c, hc, hcx, hm⟩ := s.orderBytes_acting (s.cx.tagLines.map (·.2))
    exact ⟨hcx ▸ hc, hm, fun c e => s.orderBytes_engOf _ _ _ c e⟩
  · exact ⟨.refl _, fun _ => rfl, fun _ _ => rfl⟩

theorem State.fenceCore_eq (s : State) (x y : BitVec 6) (id : Nat) : s.fenceCore x y id =
    if !(s.releaseFence s.core s.ctx id).fenceOver (s.releaseFence s.core s.ctx id).core (s.releaseFence s.core s.ctx id).ctx id then
      ((s.releaseFence s.core s.ctx id).setCx { (s.releaseFence s.core s.ctx id).cx with fenceWait := some id }).stallHere
    else ((s.releaseFence s.core s.ctx id).passedFence x y).retire
      { ((s.releaseFence s.core s.ctx id).passedFence x y).cx with fenceWait := none } := rfl

/-- The state with the tokens placed and the fence released where it is free. -/
def State.fenceReleased (s : State) (x y : BitVec 6) : State := (s.tokens x y).releaseFence s.core s.ctx s.cx.cmdNo

theorem State.fenceReleased_ctxsEngs (s : State) (x y : BitVec 6) : s.CtxsEngs (s.fenceReleased x y) :=
  (s.tokens_ctxsEngs x y).trans ⟨_, _, rfl⟩

theorem State.fenceReleased_cx (s : State) (x y : BitVec 6) : s.cx.FencesFrom (s.fenceReleased x y).cx := by
  have hact := (s.tokens_ctxsEngs x y).acting
  obtain ⟨fs, n, hcx⟩ := s.tokens_cx x y
  have hr := (s.tokens x y).releaseFence_cx s.cx.cmdNo
  rw [hact.1, hact.2] at hr
  unfold State.fenceReleased
  rw [hr, hcx]
  exact ⟨_, _, _, rfl⟩

/-- The tokens stand behind the engines on a path of y. -/
theorem State.fenceReleased_placed (s t : State) (x y : BitVec 6) (h : ∀ e, t.engOf s.core e = (s.fenceReleased x y).engOf s.core e) :
    placedOn s t (s.enginesOn y) (fun k => k.kind = .fence s.cx.cmdNo ∧ k.held = false) := by
  have hp := placedOn_placeEach s (s.fenced x y) (s.enginesOn y) false (.fence s.cx.cmdNo) (fun k => k.kind = .fence s.cx.cmdNo ∧ k.held = false)
    ((s.enginesOf_nodup _ _).filter _) (fun _ _ => rfl) fun _ => ⟨rfl, rfl⟩
  intro e he
  rw [h e]
  exact hp e he

/-- What the fence's step leaves where it stalls, and where it retires. -/
theorem State.fenceCore_free (s : State) (x y : BitVec 6) (hf : (s.tokens x y).fenceFree s.core s.ctx (s.newFence x y) = true) :
    (s.tokens x y).fenceCore x y s.cx.cmdNo = .next (((s.fenceReleased x y).passedFence x y).setCx
      { ((s.fenceReleased x y).passedFence x y).cx with fenceWait := none }.advance) := by
  have hact := (s.tokens_ctxsEngs x y).acting
  rw [State.fenceCore_eq]
  rw [hact.1, hact.2]
  change (if (!(s.fenceReleased x y).fenceOver (s.fenceReleased x y).core (s.fenceReleased x y).ctx s.cx.cmdNo) = true then _ else _) = _
  rw [(s.fenceReleased_ctxsEngs x y).acting.1, (s.fenceReleased_ctxsEngs x y).acting.2, State.fenceReleased, State.tokens_fenceOver, hf]
  rfl

theorem State.fenceCore_held (s : State) (x y : BitVec 6) (hf : (s.tokens x y).fenceFree s.core s.ctx (s.newFence x y) = false) :
    (s.tokens x y).fenceCore x y s.cx.cmdNo = .next ((s.fenceReleased x y).setCx { (s.fenceReleased x y).cx with fenceWait := some s.cx.cmdNo }).stalled := by
  have hact := (s.tokens_ctxsEngs x y).acting
  rw [State.fenceCore_eq]
  rw [hact.1, hact.2]
  change (if (!(s.fenceReleased x y).fenceOver (s.fenceReleased x y).core (s.fenceReleased x y).ctx s.cx.cmdNo) = true then _ else _) = _
  rw [(s.fenceReleased_ctxsEngs x y).acting.1, (s.fenceReleased_ctxsEngs x y).acting.2, State.fenceReleased, State.tokens_fenceOver, hf]
  rfl

theorem Ctx.advance_pc_fenceWait (c : Ctx) (w : Option Nat) : ({ c with fenceWait := w } : Ctx).advance.pc = c.advance.pc := Ctx.advance_pc_congr rfl rfl rfl

/-- Settles O15: the word's three ends are the retirement without a wait, `State.fenceCore_free` and `State.fenceCore_held`. -/
theorem fences : Obligations.Fences := by
  unfold Obligations.Fences
  intro s x y c es dest src onCore sent hw hr
  have hcx := s.fenceReleased_cx x y
  have hmem := (s.fenceReleased_ctxsEngs x y).memByte
  have hfree := s.tokens_fenceFree x y
  rw [exec_fenceX_eq s x y c hw hr]
  by_cases hon : meets y [0, 3, 4] = true
  · have hcore : onCore := (meets_core y).mp hon
    rw [if_pos hon]
    cases hf : (s.tokens x y).fenceFree s.core s.ctx (s.newFence x y)
    case false =>
      rw [State.fenceCore_held s x y hf]
      obtain ⟨n, hst⟩ := ((s.fenceReleased x y).setCx { (s.fenceReleased x y).cx with fenceWait := some s.cx.cmdNo }).stalled_cx
      rw [State.cx_setCx] at hst
      refine ⟨_, rfl, fun a => (State.stalled_memByte _ a).trans (hmem a), fun r => ?_, s.fenceReleased_placed _ x y fun e => State.stalled_engOf _ _ e,
        fun h => absurd hcore h, fun _ h1 h2 => ?_, fun _ _ => ?_⟩
      · rw [hst]; exact hcx.sreg r
      · rw [hfree.mpr ⟨h1, h2⟩] at hf; cases hf
      · rw [hst]; exact ⟨hcx.pc, rfl⟩
    case true =>
      rw [State.fenceCore_free s x y hf]
      obtain ⟨hpm, hpmem, hpe⟩ := (s.fenceReleased x y).passedFence_acting x y
      refine ⟨_, rfl, fun a => (hpmem a).trans (hmem a), fun r => ?_, s.fenceReleased_placed _ x y fun e => hpe _ e, fun h => absurd hcore h, fun _ _ _ => ?_,
        fun _ h => ?_⟩
      · rw [State.cx_setCx, Ctx.advance_sreg]
        exact (hpm.sreg r).trans (hcx.sreg r)
      · rw [State.cx_setCx]
        refine ⟨(Ctx.advance_pc_fenceWait _ none).trans (hpm.advance_pc.trans hcx.advance_pc), ?_⟩
        unfold Ctx.advance
        split_ifs <;> rfl
      · obtain ⟨h1, h2⟩ := hfree.mp hf
        rcases h with ⟨e, he, hb⟩ | h
        · rw [h1 e he] at hb; cases hb
        · exact absurd h h2
  · have hcore : ¬onCore := fun h => hon ((meets_core y).mpr h)
    rw [if_neg hon]
    refine ⟨_, rfl, hmem, fun r => ?_, s.fenceReleased_placed _ x y fun _ => rfl, fun _ => ?_, fun h => absurd h hcore, fun h => absurd h hcore⟩
    · rw [State.cx_setCx, Ctx.advance_sreg]
      exact hcx.sreg r
    · rw [State.cx_setCx]
      exact hcx.advance_pc

end Sys2Proof.Machine
end

section
/-! ## O16: leases and the split plan -/
namespace Sys2Proof.Machine

/-! ### What the allocator's operations change -/

/-- A context that differs from another in its fences and its link generations alone. -/
def Ctx.LeaseFrom (c d : Ctx) : Prop := ∃ fs lg, d = { c with fences := fs, linkGens := lg }

theorem Ctx.LeaseFrom.refl (c : Ctx) : c.LeaseFrom c := ⟨_, _, rfl⟩

theorem Ctx.LeaseFrom.trans {c d e : Ctx} (h : c.LeaseFrom d) (g : d.LeaseFrom e) : c.LeaseFrom e := by
  obtain ⟨_, _, rfl⟩ := h
  obtain ⟨_, _, rfl⟩ := g
  exact ⟨_, _, rfl⟩

theorem Ctx.LeaseFrom.advance_pc {c d : Ctx} (h : c.LeaseFrom d) : d.advance.pc = c.advance.pc := by
  obtain ⟨_, _, rfl⟩ := h
  exact Ctx.advance_pc_congr rfl rfl rfl

theorem Ctx.LeaseFrom.sreg {c d : Ctx} (h : c.LeaseFrom d) (r : Nat) : d.sreg r = c.sreg r := by
  obtain ⟨_, _, rfl⟩ := h
  rfl

theorem Ctx.LeaseFrom.sameBut {c d : Ctx} (h : c.LeaseFrom d) : Ctx.SameBut c d.advance [] [] [] := by
  obtain ⟨_, _, rfl⟩ := h
  obtain ⟨pc, ps, ha⟩ := Ctx.advance_shape { c with fences := _, linkGens := _ }
  rw [ha]
  exact ⟨fun _ _ => rfl, fun _ _ => rfl, fun _ _ => rfl, ⟨rfl, rfl, rfl, rfl, rfl, rfl, rfl⟩, ⟨rfl, rfl, rfl, rfl, rfl, rfl⟩, ⟨rfl, rfl, rfl, rfl, rfl, rfl⟩,
    rfl, rfl, rfl, rfl⟩

/-- A step of the allocator: it changes cores, units and the tasks that wait for them, and of contexts their fences and link generations. -/
structure State.LeaseStep (σ τ : State) : Prop where
  shape : ∃ c e f l y x t p g,
    τ = { σ with cores := c, engs := e, frags := f, links := l, copies := y, ctxs := x, tasks := t, pool := p, gates := g }
  ctxs : ∀ core slot, (σ.ctxOf core slot).LeaseFrom (τ.ctxOf core slot)

theorem State.LeaseStep.refl (σ : State) : σ.LeaseStep σ := ⟨⟨_, _, _, _, _, _, _, _, _, rfl⟩, fun _ _ => .refl _⟩

theorem State.LeaseStep.trans {σ τ ρ : State} (h : σ.LeaseStep τ) (g : τ.LeaseStep ρ) : σ.LeaseStep ρ := by
  refine ⟨?_, fun core slot => (h.ctxs core slot).trans (g.ctxs core slot)⟩
  obtain ⟨_, _, _, _, _, _, _, _, _, rfl⟩ := h.shape
  obtain ⟨_, _, _, _, _, _, _, _, _, rfl⟩ := g.shape
  exact ⟨_, _, _, _, _, _, _, _, _, rfl⟩

theorem State.LeaseStep.foldl {β : Type} {f : State → β → State} (h : ∀ (σ : State) b, σ.LeaseStep (f σ b)) (l : List β) (σ : State) :
    σ.LeaseStep (l.foldl f σ) := by
  induction l generalizing σ with
  | nil => exact .refl σ
  | cons b l ih => exact (h σ b).trans (ih _)

theorem State.LeaseStep.memByte {σ τ : State} (h : σ.LeaseStep τ) (a : Nat) : τ.memByte a = σ.memByte a := by
  obtain ⟨_, _, _, _, _, _, _, _, _, rfl⟩ := h.shape
  rfl

theorem State.LeaseStep.acting {σ τ : State} (h : σ.LeaseStep τ) : τ.core = σ.core ∧ τ.ctx = σ.ctx := by
  obtain ⟨_, _, _, _, _, _, _, _, _, rfl⟩ := h.shape
  exact ⟨rfl, rfl⟩

theorem State.LeaseStep.cx {σ τ : State} (h : σ.LeaseStep τ) : σ.cx.LeaseFrom τ.cx := by
  rw [State.cx_of_acting h.acting]
  exact h.ctxs _ _

theorem State.leaseStep_setCore (σ : State) (n : Nat) (k : Core) : σ.LeaseStep (σ.setCore n k) := ⟨⟨_, _, _, _, _, _, _, _, _, rfl⟩, fun _ _ => .refl _⟩
theorem State.leaseStep_setEng (σ : State) (a b : Nat) (v : Eng) : σ.LeaseStep (σ.setEng a b v) := ⟨⟨_, _, _, _, _, _, _, _, _, rfl⟩, fun _ _ => .refl _⟩
theorem State.leaseStep_setFrag (σ : State) (a b : Nat) (v : Frag) : σ.LeaseStep (σ.setFrag a b v) := ⟨⟨_, _, _, _, _, _, _, _, _, rfl⟩, fun _ _ => .refl _⟩
theorem State.leaseStep_setLink (σ : State) (a b : Nat) (v : Link) : σ.LeaseStep (σ.setLink a b v) := ⟨⟨_, _, _, _, _, _, _, _, _, rfl⟩, fun _ _ => .refl _⟩
theorem State.leaseStep_setCopy (σ : State) (a b : Nat) (v : CopyEng) : σ.LeaseStep (σ.setCopy a b v) := ⟨⟨_, _, _, _, _, _, _, _, _, rfl⟩, fun _ _ => .refl _⟩
theorem State.leaseStep_setTask (σ : State) (a : Nat) (v : Task) : σ.LeaseStep (σ.setTask a v) := ⟨⟨_, _, _, _, _, _, _, _, _, rfl⟩, fun _ _ => .refl _⟩
theorem State.leaseStep_poolAdd (σ : State) (a : Nat) : σ.LeaseStep (σ.poolAdd a) := ⟨⟨_, _, _, _, _, _, _, _, _, rfl⟩, fun _ _ => .refl _⟩

/-- A context that takes other fences or link generations. -/
theorem State.leaseStep_setCtx (σ : State) (core slot : Nat) (c : Ctx) (h : (σ.ctxOf core slot).LeaseFrom c) : σ.LeaseStep (σ.setCtx core slot c) := by
  refine ⟨⟨_, _, _, _, _, _, _, _, _, rfl⟩, fun a b => ?_⟩
  by_cases hk : a * 8 + b = core * 8 + slot
  · unfold State.ctxOf State.setCtx
    dsimp only
    rw [hk, Tbl.get_set_same]
    exact h
  · rw [σ.ctxOf_setCtx_ne c hk]
    exact .refl _

theorem State.leaseStep_enqueueCont (σ : State) (t : Nat) : σ.LeaseStep (σ.enqueueCont t) := by
  unfold State.enqueueCont
  dsimp only
  split
  · refine .trans ?_ (State.leaseStep_poolAdd _ t)
    refine .trans ?_ (State.leaseStep_setTask _ t _)
    split
    · split
      · exact ⟨⟨_, _, _, _, _, _, _, _, _, rfl⟩, fun _ _ => .refl _⟩
      · exact .refl σ
    · exact .refl σ
  · exact .refl σ

theorem State.leaseStep_bindFrag (σ : State) (core slot t : Nat) (a : Area) (k : Nat) : σ.LeaseStep (σ.bindFrag core slot t a k) := by
  unfold State.bindFrag
  dsimp only
  split
  · exact ((σ.leaseStep_setFrag _ _ _).trans (State.leaseStep_setEng _ _ _ _)).trans (.foldl (fun τ l => τ.leaseStep_setLink core l _) _ _)
  · exact .refl σ

theorem State.leaseStep_bindCopy (σ : State) (core slot t : Nat) (a : Area) (n : Nat) : σ.LeaseStep (σ.bindCopy core slot t a n) := by
  unfold State.bindCopy
  dsimp only
  split
  · exact (σ.leaseStep_setCopy _ _ _).trans (State.leaseStep_setEng _ _ _ _)
  · exact .refl σ

theorem State.leaseStep_bindUnits (σ : State) (core slot t : Nat) (a : Area) : σ.LeaseStep (σ.bindUnits core slot t a) :=
  (State.LeaseStep.foldl (fun τ k => τ.leaseStep_bindFrag core slot t a k) _ σ).trans (.foldl (fun τ n => τ.leaseStep_bindCopy core slot t a n) _ _)

theorem State.leaseStep_moveWaits (σ : State) (core slot old : Nat) (a : Area) : σ.LeaseStep (σ.moveWaits core slot old a) :=
  σ.leaseStep_setCtx core slot _ ⟨_, _, rfl⟩

theorem State.leaseStep_granted (σ : State) (core : Nat) (r : LeaseReq) (h : Nat) : σ.LeaseStep (σ.granted core r h) := by
  unfold State.granted
  dsimp only
  split
  · exact (σ.leaseStep_setTask _ _).trans (State.leaseStep_enqueueCont _ _)
  · generalize (if r.want ≠ 0 then σ.taskOf r.task else _) = tk
    split
    · exact σ.leaseStep_setTask _ _
    · refine (σ.leaseStep_setTask r.task tk).trans ?_
      split
      · split
        · exact ((State.leaseStep_bindUnits _ _ _ _ _).trans (State.leaseStep_moveWaits _ _ _ _ _)).trans (State.leaseStep_setTask _ _ _)
        · exact State.leaseStep_poolAdd _ _
      · exact State.leaseStep_enqueueCont _ _

theorem State.leaseStep_dropReq (σ : State) (core : Nat) (r : LeaseReq) : σ.LeaseStep (σ.dropReq core r) := σ.leaseStep_setCore _ _

theorem State.leaseStep_grantFrags (σ : State) (core slot : Nat) (task : Option Nat) (r : LeaseReq) (ss : List Nat) :
    σ.LeaseStep (σ.grantFrags core slot task r ss).2 := by
  unfold State.grantFrags
  dsimp only
  refine .trans ?_ (.foldl (fun τ i => (τ.leaseStep_setEng _ _ _).trans (State.leaseStep_setFrag _ _ _ _)) ss _)
  split
  · exact σ.leaseStep_setCore _ _
  · exact .refl σ

theorem State.leaseStep_grantCopies (σ : State) (core slot : Nat) (task : Option Nat) (r : LeaseReq) (ns : List Nat) :
    σ.LeaseStep (σ.grantCopies core slot task r ns).2 := by
  unfold State.grantCopies
  dsimp only
  refine .trans ?_ (.foldl (fun τ i => (τ.leaseStep_setCopy _ _ _).trans (State.leaseStep_setEng _ _ _ _)) ns _)
  split
  · exact σ.leaseStep_setCore _ _
  · exact .refl σ

theorem State.leaseStep_fragDecide (l : List LeaseReq) (σ : State) (core : Nat) : σ.LeaseStep (σ.fragDecide core l) := by
  induction l with
  | nil => exact .refl σ
  | cons r l ih =>
    unfold State.fragDecide
    split
    · exact ((σ.leaseStep_dropReq _ _).trans (State.leaseStep_grantFrags _ _ _ _ _ _)).trans (State.leaseStep_granted _ _ _ _)
    · split
      · exact σ.leaseStep_setCore _ _
      · exact ih

theorem State.leaseStep_copyDecide (l : List LeaseReq) (σ : State) (core : Nat) : σ.LeaseStep (σ.copyDecide core l) := by
  induction l with
  | nil => exact .refl σ
  | cons r l ih =>
    unfold State.copyDecide
    split
    · exact ((σ.leaseStep_dropReq _ _).trans (State.leaseStep_grantCopies _ _ _ _ _ _)).trans (State.leaseStep_granted _ _ _ _)
    · exact ih

theorem State.leaseStep_seedLinks (σ : State) (core slot mask : Nat) : σ.LeaseStep (σ.seedLinks core slot mask) :=
  .foldl (fun τ l => τ.leaseStep_setLink core l _) _ σ

theorem State.leaseStep_fenceGrant (σ : State) (core slot e : Nat) : σ.LeaseStep (σ.fenceGrant core slot e) := by
  unfold State.fenceGrant
  dsimp only
  split
  · exact .refl σ
  · exact σ.leaseStep_setEng _ _ _

/-! ### A handle and its units -/

theorem handleOf_handleWord (copy : Bool) (mask gen : Nat) (h : mask < 256) :
    handleOf (handleWord copy mask gen) = { copy := copy, mask := mask, gen := gen % 2 ^ 16 } := by
  have hv : (handleWord copy mask gen).toNat = (if copy then 2 ^ 24 else 0) + mask * 2 ^ 16 + gen % 2 ^ 16 := by
    unfold handleWord
    rw [BitVec.toNat_ofNat, Nat.mod_eq_of_lt]
    split <;> omega
  have hm : bits (handleWord copy mask gen).toNat 23 16 = mask := by
    show (handleWord copy mask gen).toNat / 2 ^ 16 % 2 ^ 8 = mask
    rw [hv]
    split <;> omega
  have hc : (handleWord copy mask gen).getLsbD 24 = copy := by
    rw [← BitVec.testBit_toNat, Nat.testBit_eq_decide_div_mod_eq, hv]
    cases copy
    · exact decide_eq_false (by rw [if_neg Bool.false_ne_true]; omega)
    · exact decide_eq_true (by rw [if_pos rfl]; omega)
  unfold handleOf
  rw [hm, hc, hv]
  congr 1
  split <;> omega

theorem State.fragOf_setFrag_same (s : State) (core i : Nat) (v : Frag) : (s.setFrag core i v).fragOf core i = v := Tbl.get_set_same ..
theorem State.fragOf_setFrag_ne (s : State) (core : Nat) {i j : Nat} (v : Frag) (h : j ≠ i) : (s.setFrag core i v).fragOf core j = s.fragOf core j := by
  unfold State.fragOf State.setFrag
  dsimp only
  rw [Tbl.get_set_ne]
  omega

/-- The fragments of a list after each takes the value v. -/
theorem State.fragOf_grantAll (ss : List Nat) (σ : State) (core : Nat) (f : State → Nat → State) (hf : ∀ τ i j, (f τ i).fragOf core j = τ.fragOf core j)
    (v : Frag) (i : Nat) : (ss.foldl (fun σ i => (f σ i).setFrag core i v) σ).fragOf core i = if i ∈ ss then v else σ.fragOf core i := by
  induction ss generalizing σ with
  | nil => rfl
  | cons j ss ih =>
    rw [List.foldl_cons, ih]
    by_cases hij : i = j
    · subst hij
      simp [State.fragOf_setFrag_same]
    · rw [State.fragOf_setFrag_ne _ _ _ hij, hf]
      simp [hij]

/-! ### Grants to the acting slot -/

/-- The fragments that a new request can be granted: one, or both of plan HALVES. -/
theorem State.grantable_new {s : State} {core : Nat} {r : LeaseReq} {ss : List Nat} (hw : r.want = 0) (h : s.grantable core r = some ss) :
    ss ∈ [[0], [1], [2], [3], [0, 1]] := by
  unfold State.grantable at h
  dsimp only at h
  split at h
  · cases h
  rw [if_neg (not_not.mpr hw)] at h
  split at h
  · cases h
  · rename_i p hp
    have hp := List.mem_of_find?_eq_some hp
    split at h
    · rename_i hs
      rw [hs] at hp
      obtain rfl : p = (1, [0, 1]) := by simpa [shapePlans] using hp
      split at h
      · rename_i hl
        rw [List.filter_eq_self.mpr (List.length_filter_eq_length_iff.mp hl)] at h
        cases h
        decide
      · cases h
    · have hmem : ∀ i ∈ p.2, i < 4 := by
        unfold shapePlans at hp
        split_ifs at hp <;> simp only [List.mem_cons, List.not_mem_nil, or_false] at hp <;> grind
      split at h
      · cases h
      · rename_i i l hl
        cases h
        have hi := hmem i (List.mem_filter.mp (hl ▸ List.mem_cons_self)).1
        interval_cases i <;> decide

theorem State.copyGrantable_new {s : State} {core : Nat} {r : LeaseReq} {ns : List Nat} (hw : r.want = 0) (h : s.copyGrantable core r = some ns) :
    ∃ n < 8, ns = [n] := by
  unfold State.copyGrantable at h
  dsimp only at h
  split at h
  · cases h
  rw [if_neg (not_not.mpr hw)] at h
  split at h
  · rename_i n hn
    cases h
    exact ⟨n, List.mem_range.mp (List.mem_of_find?_eq_some hn), rfl⟩
  · cases h

/-- The mask that a list of units makes, and the units that a mask names. -/
def unitMask (ss : List Nat) : Nat := ss.foldl (fun a i => a + 2 ^ i) 0
def maskUnits (m : Nat) : List Nat := (List.range 8).filter fun i => m.testBit i

theorem maskUnits_frags : ∀ ss ∈ [[0], [1], [2], [3], [0, 1]], maskUnits (unitMask ss) = ss ∧ unitMask ss ≠ 0 ∧ unitMask ss < 256 ∧ ∀ i ∈ ss, i < 4 := by decide
theorem maskUnits_copy : ∀ n < 8, maskUnits (unitMask [n]) = [n] ∧ unitMask [n] ≠ 0 ∧ unitMask [n] < 256 := by decide

theorem State.grantFrags_handle (σ : State) (core slot : Nat) (task : Option Nat) (r : LeaseReq) (ss : List Nat) :
    (σ.grantFrags core slot task r ss).1 = (handleWord false (unitMask ss) ((σ.coreOf core).fragGen + 1).toNat).toNat := rfl

theorem State.grantFrags_fragOf (σ : State) (core slot : Nat) (task : Option Nat) (r : LeaseReq) (ss : List Nat) (hw : r.want = 0) (i : Nat) (hi : i ∈ ss) :
    (σ.grantFrags core slot task r ss).2.fragOf core i = { state := 1, slot := slot, gen := ((σ.coreOf core).fragGen + 1).toNat, lot := task } := by
  unfold State.grantFrags
  dsimp only
  rw [if_pos hw]
  simp only [if_pos hw]
  exact (State.fragOf_grantAll ss _ core (fun σ i => σ.setEng core (i + 4) ((σ.engOf core (i + 4)).forGrant (σ.lotName core slot)))
    (fun _ _ _ => rfl) _ i).trans (if_pos hi)

theorem State.seedLinks_fragOf (σ : State) (core slot mask a b : Nat) : (σ.seedLinks core slot mask).fragOf a b = σ.fragOf a b := by
  unfold State.seedLinks
  dsimp only
  generalize σ.ctxOf core slot = c
  induction [0, 1, 2, 3].filter fun l => mask.testBit (linkFrom l) generalizing σ with
  | nil => rfl
  | cons l ls ih => rw [List.foldl_cons, ih]; rfl

theorem State.fenceGrants_units (ss : List Nat) (σ : State) (core slot base a b : Nat) :
    (ss.foldl (fun σ i => σ.fenceGrant core slot (i + base)) σ).fragOf a b = σ.fragOf a b
      ∧ (ss.foldl (fun σ i => σ.fenceGrant core slot (i + base)) σ).copyOf a b = σ.copyOf a b := by
  induction ss generalizing σ with
  | nil => exact ⟨rfl, rfl⟩
  | cons i ss ih =>
    have h : (σ.fenceGrant core slot (i + base)).fragOf a b = σ.fragOf a b ∧ (σ.fenceGrant core slot (i + base)).copyOf a b = σ.copyOf a b := by
      unfold State.fenceGrant
      dsimp only
      split <;> exact ⟨rfl, rfl⟩
    rw [List.foldl_cons]
    exact ⟨(ih _).1.trans h.1, (ih _).2.trans h.2⟩

theorem State.current_frags {s : State} {core slot gen : Nat} {ss : List Nat} (hss : ss ∈ [[0], [1], [2], [3], [0, 1]])
    (h : ∀ i ∈ ss, (s.fragOf core i).state = 1 ∧ (s.fragOf core i).slot = slot ∧ (s.fragOf core i).gen = gen) :
    s.current core slot { copy := false, mask := unitMask ss, gen := gen } = true := by
  obtain ⟨hu, h0, -, hlt⟩ := maskUnits_frags ss hss
  unfold State.current
  rw [show ({ copy := false, mask := unitMask ss, gen := gen } : Handle).units = ss from hu, Bool.and_eq_true, List.all_eq_true]
  refine ⟨decide_eq_true h0, fun i hi => ?_⟩
  obtain ⟨h1, h2, h3⟩ := h i hi
  simp [h1, h2, h3, hlt i hi]

/-- A word of the allocator that answers a handle of the acting slot's, or 0. -/
def State.Answers (s : State) (r : Nat × State) (copy : Bool) : Prop :=
  s.LeaseStep r.2 ∧ (r.1 = 0 ∨ ∃ mask gen, mask < 256 ∧ gen < 2 ^ 16 ∧ r.1 = (handleWord copy mask gen).toNat
    ∧ r.2.current s.core s.ctx { copy := copy, mask := mask, gen := gen } = true)

theorem State.fragTry_answers (l : List LeaseReq) (s : State) (mine : LeaseReq) (hw : mine.want = 0) : s.Answers (s.fragTry s.core s.ctx mine l) false := by
  induction l with
  | nil => exact ⟨.refl s, .inl rfl⟩
  | cons r l ih =>
    unfold State.fragTry
    split
    next hr =>
      subst hr
      split
      · rename_i ss hg
        have hss := State.grantable_new hw hg
        refine ⟨((s.leaseStep_grantFrags _ _ _ _ _).trans (State.leaseStep_seedLinks _ _ _ _)).trans (.foldl (fun τ i => τ.leaseStep_fenceGrant _ _ _) _ _), .inr ?_⟩
        refine ⟨unitMask ss, ((s.coreOf s.core).fragGen + 1).toNat, ?_, BitVec.isLt _, rfl, State.current_frags hss fun i hi => ?_⟩
        · exact (maskUnits_frags ss hss).2.2.1
        · rw [(State.fenceGrants_units ss _ _ _ 4 _ _).1, State.seedLinks_fragOf, State.grantFrags_fragOf _ _ _ _ _ _ hw i hi]
          exact ⟨rfl, rfl, rfl⟩
      · exact ih
    · split
      · exact ih
      · exact ⟨s.leaseStep_fragDecide _ _, .inl rfl⟩

theorem State.grantCopies_copyOf (σ : State) (core slot : Nat) (task : Option Nat) (r : LeaseReq) (n : Nat) (hw : r.want = 0) :
    ((σ.grantCopies core slot task r [n]).2.copyOf core n).leased = true ∧ ((σ.grantCopies core slot task r [n]).2.copyOf core n).slot = slot
      ∧ ((σ.grantCopies core slot task r [n]).2.copyOf core n).gen = ((σ.coreOf core).copyGen + 1).toNat := by
  unfold State.grantCopies
  dsimp only
  simp only [if_pos hw]
  rw [List.foldl_cons, List.foldl_nil]
  dsimp only [State.copyOf, State.setEng, State.setCopy]
  rw [Tbl.get_set_same]
  exact ⟨rfl, rfl, rfl⟩

theorem State.copyTry_answers (l : List LeaseReq) (s : State) (mine : LeaseReq) (hw : mine.want = 0) : s.Answers (s.copyTry s.core s.ctx mine l) true := by
  induction l with
  | nil => exact ⟨.refl s, .inl rfl⟩
  | cons r l ih =>
    unfold State.copyTry
    split
    · split
      · rename_i ns hg hr
        subst hr
        obtain ⟨n, hn, rfl⟩ := State.copyGrantable_new hw hg
        refine ⟨(s.leaseStep_grantCopies _ _ _ _ _).trans (.foldl (fun τ i => τ.leaseStep_fenceGrant _ _ _) _ _), .inr ?_⟩
        obtain ⟨h1, h2, h3⟩ := s.grantCopies_copyOf s.core s.ctx ((s.ctxOf s.core s.ctx).task) r n hw
        refine ⟨unitMask [n], ((s.coreOf s.core).copyGen + 1).toNat, ?_, BitVec.isLt _, rfl, ?_⟩
        · exact (maskUnits_copy n hn).2.2
        · obtain ⟨hu, h0, -⟩ := maskUnits_copy n hn
          unfold State.current
          rw [show ({ copy := true, mask := unitMask [n], gen := ((s.coreOf s.core).copyGen + 1).toNat } : Handle).units = [n] from hu,
            Bool.and_eq_true, List.all_eq_true]
          refine ⟨decide_eq_true h0, fun i hi => ?_⟩
          obtain rfl := List.mem_singleton.mp hi
          rw [if_pos rfl, (State.fenceGrants_units [i] _ _ _ 8 _ _).2]
          simp [h1, h2, h3]
      · exact ⟨s.leaseStep_copyDecide _ _, .inl rfl⟩
    · exact ih

/-! ### UNLEASE -/

/-- The unit is none of a handle's: returned, draining or free. -/
def State.Unleased (s : State) (core : Nat) (copy : Bool) (i : Nat) : Prop :=
  if copy then (s.copyOf core i).leased = false else (s.fragOf core i).state ≠ 1 ∧ (s.fragOf core i).state ≠ 3

theorem State.leaseStep_keepLinks (σ : State) (core k : Nat) : σ.LeaseStep (σ.keepLinks core k) := by
  unfold State.keepLinks
  dsimp only
  split
  · exact σ.leaseStep_setCtx _ _ _ ⟨_, _, rfl⟩
  · exact .refl σ

theorem State.keepLinks_fragOf (σ : State) (core k a b : Nat) : (σ.keepLinks core k).fragOf a b = σ.fragOf a b := by
  unfold State.keepLinks
  dsimp only
  split <;> rfl

theorem State.leaseStep_loseLink (σ : State) (core k : Nat) : σ.LeaseStep (σ.loseLink core k) := by
  unfold State.loseLink
  dsimp only
  split
  · split
    · exact σ.leaseStep_setFrag _ _ _
    · exact .refl σ
  · exact .refl σ

theorem State.loseLink_state (σ : State) (core k b : Nat) : ((σ.loseLink core k).fragOf core b).state = (σ.fragOf core b).state := by
  unfold State.loseLink
  dsimp only
  split
  · rename_i l _
    split
    · by_cases hb : b = linkTo l
      · subst hb
        rw [State.fragOf_setFrag_same]
      · rw [State.fragOf_setFrag_ne _ _ _ hb]
    · rfl
  · rfl

theorem State.emptyLinks_fragOf (ls : List Nat) (σ : State) (core a b : Nat) : (ls.foldl (fun σ l => σ.emptyLink core l) σ).fragOf a b = σ.fragOf a b := by
  induction ls generalizing σ with
  | nil => rfl
  | cons l ls ih => rw [List.foldl_cons, ih]; rfl

theorem State.leaseStep_fragFree (σ : State) (core k : Nat) (b : Bool) : σ.LeaseStep (σ.fragFree core k b) := by
  unfold State.fragFree
  dsimp only
  refine .trans ?_ (State.leaseStep_loseLink _ _ _)
  refine .trans ?_ (State.leaseStep_setFrag _ _ _ _)
  refine ((σ.leaseStep_keepLinks core k).trans (State.leaseStep_setEng _ core (k + 4) ((σ.keepLinks core k).engOf core (k + 4)).emptied)).trans ?_
  split
  · exact .foldl (fun τ l => τ.leaseStep_setLink _ _ _) _ _
  · exact .refl _

/-- A fragment that becomes free, and the others' states. -/
theorem State.fragFree_state (σ : State) (core k : Nat) (b : Bool) (j : Nat) :
    ((σ.fragFree core k b).fragOf core j).state = if j = k then 0 else (σ.fragOf core j).state := by
  unfold State.fragFree
  dsimp only
  rw [State.loseLink_state]
  by_cases hj : j = k
  · subst hj
    rw [State.fragOf_setFrag_same, if_pos rfl]
  · rw [State.fragOf_setFrag_ne _ _ _ hj, if_neg hj]
    split
    · rw [State.emptyLinks_fragOf]
      exact congrArg Frag.state (State.keepLinks_fragOf σ core k core j)
    · exact congrArg Frag.state (State.keepLinks_fragOf σ core k core j)

theorem State.leaseStep_returnFrag (σ : State) (core k : Nat) : σ.LeaseStep (σ.returnFrag core k) := by
  unfold State.returnFrag
  dsimp only
  split_ifs
  · exact σ.leaseStep_fragFree _ _ _
  · exact σ.leaseStep_fragFree _ _ _
  · exact σ.leaseStep_setFrag _ _ _
  · exact .refl σ

theorem State.returnFrag_unleased (σ : State) (core k j : Nat) (h : j = k ∨ σ.Unleased core false j) : (σ.returnFrag core k).Unleased core false j := by
  unfold State.Unleased at h ⊢
  rw [if_neg Bool.false_ne_true] at h ⊢
  unfold State.returnFrag
  dsimp only
  split_ifs with h3 h1 hd
  · rw [State.fragFree_state]
    split
    · decide
    · exact h.resolve_left ‹_›
  · rw [State.fragFree_state]
    split
    · decide
    · exact h.resolve_left ‹_›
  · by_cases hj : j = k
    · subst hj
      rw [State.fragOf_setFrag_same]
      exact (by decide : (2 : Nat) ≠ 1 ∧ (2 : Nat) ≠ 3)
    · rw [State.fragOf_setFrag_ne _ _ _ hj]
      exact h.resolve_left hj
  · rcases h with rfl | h
    · exact ⟨h1, h3⟩
    · exact h

theorem State.leaseStep_returnCopy (σ : State) (core n : Nat) : σ.LeaseStep (σ.returnCopy core n) := by
  unfold State.returnCopy
  dsimp only
  split_ifs
  · exact .refl σ
  · exact (σ.leaseStep_setEng _ _ _).trans (State.leaseStep_setCopy _ _ _ _)
  · exact σ.leaseStep_setCopy _ _ _

theorem State.returnCopy_unleased (σ : State) (core n j : Nat) (h : j = n ∨ σ.Unleased core true j) : (σ.returnCopy core n).Unleased core true j := by
  unfold State.Unleased at h ⊢
  rw [if_pos rfl] at h ⊢
  unfold State.returnCopy
  dsimp only
  split_ifs with hl hi
  · rcases h with rfl | h
    · simpa using hl
    · exact h
  · unfold State.copyFree
    by_cases hj : j = n
    · subst hj
      rw [State.copyOf_setCopy_same]
    · rw [State.copyOf_setCopy_ne _ _ _ hj]
      exact h.resolve_left hj
  · by_cases hj : j = n
    · subst hj
      rw [State.copyOf_setCopy_same]
    · rw [State.copyOf_setCopy_ne _ _ _ hj]
      exact h.resolve_left hj

/-- The units of a list returned. -/
def State.returnEach (s : State) (core : Nat) (copy : Bool) (l : List Nat) : State :=
  l.foldl (fun σ i => if copy then σ.returnCopy core i else σ.returnFrag core i) s

theorem State.leaseStep_returnEach (s : State) (core : Nat) (copy : Bool) (l : List Nat) : s.LeaseStep (s.returnEach core copy l) := by
  refine .foldl (fun σ i => ?_) l s
  split
  · exact σ.leaseStep_returnCopy core i
  · exact σ.leaseStep_returnFrag core i

theorem State.returnEach_unleased (l : List Nat) (s : State) (core : Nat) (copy : Bool) (j : Nat) (h : j ∈ l ∨ s.Unleased core copy j) :
    (s.returnEach core copy l).Unleased core copy j := by
  unfold State.returnEach
  induction l generalizing s with
  | nil => exact h.resolve_left (by simp)
  | cons i l ih =>
    rw [List.foldl_cons]
    refine ih _ ?_
    rcases h with h | h
    · rcases List.mem_cons.mp h with rfl | h
      · right
        cases copy
        · exact s.returnFrag_unleased core j j (.inl rfl)
        · exact s.returnCopy_unleased core j j (.inl rfl)
      · exact .inl h
    · right
      cases copy
      · exact s.returnFrag_unleased core i j (.inr h)
      · exact s.returnCopy_unleased core i j (.inr h)

theorem handle_units_ne_nil (v : Word) (h : (handleOf v).mask ≠ 0) : ∃ i, i ∈ (handleOf v).units := by
  have hlt : (handleOf v).mask < 2 ^ 8 := Nat.mod_lt _ (by decide)
  obtain ⟨i, hi⟩ := Nat.exists_testBit_of_ne_zero h
  refine ⟨i, List.mem_filter.mpr ⟨List.mem_range.mpr ?_, hi⟩⟩
  by_contra hge
  rw [Nat.testBit_lt_two_pow (lt_of_lt_of_le hlt (Nat.pow_le_pow_right (by decide) (not_lt.mp hge)))] at hi
  cases hi

theorem State.current_false_of_unleased {s : State} {core slot : Nat} {h : Handle} {i : Nat} (hi : i ∈ h.units) (hu : s.Unleased core h.copy i) :
    s.current core slot h = false := by
  unfold State.current
  rw [Bool.and_eq_false_iff]
  right
  rw [List.all_eq_false]
  refine ⟨i, hi, ?_⟩
  unfold State.Unleased at hu
  cases hc : h.copy <;> rw [hc] at hu
  · simp_all
  · simp_all

theorem exec_unlease_completes (s : State) (a : BitVec 5) (h : s.current s.core s.ctx (handleOf (s.cx.sreg a.toNat)) = true) :
    ∃ t, exec (.unlease a) s = .next t ∧ t.current s.core s.ctx (handleOf (s.cx.sreg a.toNat)) = false
      ∧ t.cx.pc = s.cx.advance.pc ∧ Ctx.SameBut s.cx t.cx [] [] [] ∧ SameMemory s t := by
  have hstep := s.leaseStep_returnEach s.core (handleOf (s.cx.sreg a.toNat)).copy (handleOf (s.cx.sreg a.toNat)).units
  have hm : (handleOf (s.cx.sreg a.toNat)).mask ≠ 0 := by
    unfold State.current at h
    exact of_decide_eq_true (Bool.and_eq_true_iff.mp h).1
  obtain ⟨i, hi⟩ := handle_units_ne_nil _ hm
  refine ⟨(s.returnEach s.core (handleOf (s.cx.sreg a.toNat)).copy (handleOf (s.cx.sreg a.toNat)).units).setCx
    (s.returnEach s.core (handleOf (s.cx.sreg a.toNat)).copy (handleOf (s.cx.sreg a.toNat)).units).cx.advance, ?_, ?_, ?_, ?_, hstep.memByte⟩
  · show execUnlease a s = _
    unfold execUnlease
    dsimp only
    rw [show s.current s.core s.ctx (handleOf (s.rs a)) = true from h]
    rfl
  · exact State.current_false_of_unleased hi (State.returnEach_unleased _ s s.core _ i (.inl hi))
  · rw [State.cx_setCx]
    exact hstep.cx.advance_pc
  · rw [State.cx_setCx]
    exact hstep.cx.sameBut

/-! ### LEASE.T and LEASEC.T -/

/-- A word that writes an answer of the allocator into rd. -/
theorem State.Answers.retireS {s : State} {r : Nat × State} {copy : Bool} (h : s.Answers r copy) (d : BitVec 5) :
    ∃ t, r.2.retireS d (BitVec.ofNat 64 r.1) = .next t ∧ t.cx.pc = s.cx.advance.pc ∧ SameMemory s t ∧ (∀ q, q ≠ d.toNat → t.cx.sreg q = s.cx.sreg q)
      ∧ (d ≠ 0 → t.cx.sreg d.toNat ≠ 0 → t.current s.core s.ctx (handleOf (t.cx.sreg d.toNat)) = true
        ∧ (handleOf (t.cx.sreg d.toNat)).copy = copy) := by
  obtain ⟨hstep, hans⟩ := h
  refine ⟨_, rfl, ?_, hstep.memByte, fun q hq => ?_, fun hd hne => ?_⟩
  · rw [State.cx_setCx, Ctx.setS_advance_pc]
    exact hstep.cx.advance_pc
  · rw [State.cx_setCx, Ctx.advance_sreg, Ctx.sreg_setS, if_neg fun h => hq h.1]
    exact hstep.cx.sreg q
  · rw [State.cx_setCx, Ctx.setS_advance_sreg, if_neg hd] at hne ⊢
    rcases hans with h0 | ⟨mask, gen, hm, hg, hr, hcur⟩
    · rw [h0] at hne
      exact absurd rfl hne
    · rw [hr, BitVec.ofNat_toNat, BitVec.setWidth_eq, handleOf_handleWord copy mask gen hm, Nat.mod_eq_of_lt hg]
      exact ⟨hcur, rfl⟩

theorem exec_leaseT_eq (s : State) (d q : BitVec 5) (hs : s.ctx < 4) (hq : q.toNat % 8 ≤ 4) : exec (.leaseT d q) s =
    if (s.coreOf s.core).fragCycle = s.cycle + 1 then s.retireS d 0 else
      let mine : LeaseReq := { shape := reqShape q, cls := reqClass q, eff := reqClass q, since := s.cycle, task := (s.cx.task.getD 0) }
      let r := (s.setCore s.core { s.coreOf s.core with fragCycle := s.cycle + 1 }).fragTry s.core s.ctx mine (insertReq mine (s.reqsNow s.core false))
      r.2.retireS d (BitVec.ofNat 64 r.1) := by
  have h : ¬(4 < reqShape q ∨ s.ctx = Config.fwCtx) := by
    have : Config.fwCtx = 4 := rfl
    have : reqShape q = q.toNat % 8 := rfl
    omega
  exact if_neg h

theorem exec_leasecT_eq (s : State) (d : BitVec 5) (c : BitVec 2) (hs : s.ctx < 4) : exec (.leasecT d c) s =
    if (s.coreOf s.core).copyCycle = s.cycle + 1 then s.retireS d 0 else
      let mine : LeaseReq := { copy := true, cls := c.toNat, eff := c.toNat, since := s.cycle, task := (s.cx.task.getD 0) }
      let r := (s.setCore s.core { s.coreOf s.core with copyCycle := s.cycle + 1 }).copyTry s.core s.ctx mine (insertReq mine (s.reqsNow s.core true))
      r.2.retireS d (BitVec.ofNat 64 r.1) := by
  have h : ¬s.ctx = Config.fwCtx := by
    have : Config.fwCtx = 4 := rfl
    omega
  exact if_neg h

theorem State.Answers.zero (s : State) (copy : Bool) : s.Answers (0, s) copy := ⟨.refl s, .inl rfl⟩

theorem State.Answers.of_setCore {s : State} {k : Core} {r : Nat × State} {copy : Bool} (h : (s.setCore s.core k).Answers r copy) : s.Answers r copy :=
  ⟨(s.leaseStep_setCore s.core k).trans h.1, h.2⟩

/-! ### SPLIT -/

theorem State.leaseStep_planChange (s : State) (core : Nat) : s.LeaseStep (s.planChange core) := by
  unfold State.planChange
  dsimp only
  split
  · refine (s.leaseStep_setCore core { s.coreOf core with plan := (s.coreOf core).pend, pendv := false, pend := 0, pendReq := none }).trans ?_
    split
    · exact .refl _
    · split
      · split
        · exact ((State.leaseStep_dropReq _ _ _).trans (State.leaseStep_grantFrags _ _ _ _ _ _)).trans (State.leaseStep_granted _ _ _ _)
        · exact .refl _
      · exact .refl _
  · exact .refl s

theorem State.leaseStep_allocate (s : State) (core : Nat) : s.LeaseStep (s.allocate core) := by
  have hf : s.LeaseStep (if (s.coreOf core).fragCycle = s.cycle + 1 then s
      else (s.setCore core { s.coreOf core with fragCycle := s.cycle + 1 }).fragDecide core (s.reqsNow core false)) := by
    split
    · exact .refl s
    · exact (s.leaseStep_setCore _ _).trans (State.leaseStep_fragDecide _ _ _)
  unfold State.allocate
  dsimp only
  refine hf.trans ?_
  generalize (if (s.coreOf core).fragCycle = s.cycle + 1 then s else _) = τ
  split
  · exact .refl τ
  · exact (τ.leaseStep_setCore core _).trans (State.leaseStep_copyDecide _ _ _)

/-- The state after the allocator's steps of the cycle. -/
def State.afterAllocator (s : State) : State := (s.allocate s.core).planChange s.core

theorem State.leaseStep_afterAllocator (s : State) : s.LeaseStep s.afterAllocator := (s.leaseStep_allocate _).trans (State.leaseStep_planChange _ _)

theorem exec_split_eq (s : State) (p : BitVec 3) (hp : p.toNat ≤ 4) : exec (.split p) s =
    if (s.afterAllocator.coreOf s.core).plan = p.toNat then
      (if (s.coreOf s.core).plan = p.toNat then s.retire s.cx else s.afterAllocator.retire s.afterAllocator.cx)
    else if !(s.afterAllocator.coreOf s.core).pendv ∧ !(s.afterAllocator.coreOf s.core).freeze
        ∧ (changed (s.afterAllocator.coreOf s.core).plan p.toNat).all (fun i => decide (s.afterAllocator.fragState s.core i = 0)) then
      (s.afterAllocator.setCore s.core { s.afterAllocator.coreOf s.core with plan := p.toNat }).retire s.afterAllocator.cx
    else s.stallHere := by
  have h : exec (.split p) s = if 4 < p.toNat then s.trapWith causeIllegal else
      if (s.afterAllocator.coreOf s.afterAllocator.core).plan = p.toNat then
        (if (s.coreOf s.core).plan = p.toNat then s.retire s.cx else s.afterAllocator.retire s.afterAllocator.cx)
      else if !(s.afterAllocator.coreOf s.afterAllocator.core).pendv ∧ !(s.afterAllocator.coreOf s.afterAllocator.core).freeze
          ∧ (changed (s.afterAllocator.coreOf s.afterAllocator.core).plan p.toNat).all
            (fun i => decide (s.afterAllocator.fragState s.afterAllocator.core i = 0)) then
        (s.afterAllocator.setCore s.afterAllocator.core { s.afterAllocator.coreOf s.afterAllocator.core with plan := p.toNat }).retire s.afterAllocator.cx
      else s.stallHere := rfl
  rw [h, if_neg (by omega), s.leaseStep_afterAllocator.acting.1]

/-- Where no decision is to be made the allocator changes nothing but the marks of its cycle. -/
def State.OnlyCore (s t : State) (core : Nat) : Prop := ∃ k, t = s.setCore core k ∧ k.plan = (s.coreOf core).plan ∧ k.pendv = (s.coreOf core).pendv
  ∧ k.freeze = (s.coreOf core).freeze ∧ k.reqs = (s.coreOf core).reqs ∧ k.hold = (s.coreOf core).hold

theorem State.coreOf_setCore_same (s : State) (core : Nat) (k : Core) : (s.setCore core k).coreOf core = k := Tbl.get_set_same ..

theorem State.setCore_setCore (s : State) (core : Nat) (k l : Core) : (s.setCore core k).setCore core l = s.setCore core l := by
  simp [State.setCore]

/-- A list of requests that none can be granted and none accepted changes nothing. -/
theorem State.fragDecide_none (l : List LeaseReq) (s : State) (core : Nat) (hg : ∀ r ∈ l, s.grantable core r = none) (ha : ∀ r ∈ l, s.acceptable core r = none) :
    s.fragDecide core l = s := by
  induction l with
  | nil => rfl
  | cons r l ih =>
    unfold State.fragDecide
    rw [hg r (.head _), ha r (.head _)]
    exact ih (fun q hq => hg q (.tail _ hq)) fun q hq => ha q (.tail _ hq)

theorem State.copyDecide_none (l : List LeaseReq) (s : State) (core : Nat) (hg : ∀ r ∈ l, s.copyGrantable core r = none) : s.copyDecide core l = s := by
  induction l with
  | nil => rfl
  | cons r l ih =>
    unfold State.copyDecide
    rw [hg r (.head _)]
    exact ih fun q hq => hg q (.tail _ hq)

theorem State.grantable_frozen {s : State} {core : Nat} (h : (s.coreOf core).freeze = true) (r : LeaseReq) : s.grantable core r = none := by
  unfold State.grantable
  exact if_pos (.inl h)

theorem State.acceptable_frozen {s : State} {core : Nat} (h : (s.coreOf core).freeze = true) (r : LeaseReq) : s.acceptable core r = none := by
  unfold State.acceptable
  exact if_pos (.inl h)

theorem State.copyGrantable_frozen {s : State} {core : Nat} (h : (s.coreOf core).freeze = true) (r : LeaseReq) : s.copyGrantable core r = none := by
  unfold State.copyGrantable
  exact if_pos h

theorem State.reqsNow_nil {s : State} {core : Nat} (h : (s.coreOf core).reqs = []) (copy : Bool) : s.reqsNow core copy = [] := by
  unfold State.reqsNow
  dsimp only
  rw [h]
  rfl

/-- The core's state after the allocator's decisions of a cycle in which there is nothing to decide. -/
theorem State.allocate_idle (s : State) (core : Nat) (h : (s.coreOf core).reqs = [] ∨ (s.coreOf core).freeze = true) :
    s.allocate core = s ∨ ∃ k, s.allocate core = s.setCore core k ∧ k.plan = (s.coreOf core).plan ∧ k.pendv = (s.coreOf core).pendv
      ∧ k.freeze = (s.coreOf core).freeze := by
  have hfrag : ∀ k : Core, k.reqs = (s.coreOf core).reqs → k.freeze = (s.coreOf core).freeze →
      (s.setCore core k).fragDecide core (s.reqsNow core false) = s.setCore core k := by
    intro k hk hf
    rcases h with h | h
    · rw [State.reqsNow_nil h]
      rfl
    · have hfz : ((s.setCore core k).coreOf core).freeze = true := by rw [State.coreOf_setCore_same, hf, h]
      exact State.fragDecide_none _ _ _ (fun r _ => State.grantable_frozen hfz r) fun r _ => State.acceptable_frozen hfz r
  have hcopy : ∀ (τ : State) (k : Core), ((τ.coreOf core).reqs = [] ∨ (τ.coreOf core).freeze = true) → k.freeze = (τ.coreOf core).freeze →
      (τ.setCore core k).copyDecide core (τ.reqsNow core true) = τ.setCore core k := by
    intro τ k hk hf
    rcases hk with h | h
    · rw [State.reqsNow_nil h]
      rfl
    · exact State.copyDecide_none _ _ _ fun r _ => State.copyGrantable_frozen (by rw [State.coreOf_setCore_same, hf, h]) r
  unfold State.allocate
  dsimp only
  by_cases hfc : (s.coreOf core).fragCycle = s.cycle + 1
  · rw [if_pos hfc]
    split
    · exact .inl rfl
    · rw [hcopy s { s.coreOf core with copyCycle := s.cycle + 1 } h rfl]
      exact .inr ⟨_, rfl, rfl, rfl, rfl⟩
  · rw [if_neg hfc, hfrag { s.coreOf core with fragCycle := s.cycle + 1 } rfl rfl]
    split
    · exact .inr ⟨_, rfl, rfl, rfl, rfl⟩
    · rw [hcopy, State.setCore_setCore, State.coreOf_setCore_same]
      · exact .inr ⟨_, rfl, rfl, rfl, rfl⟩
      · rw [State.coreOf_setCore_same]
        exact h
      · rfl

theorem State.planChange_idle (s : State) (core : Nat) (h : (s.coreOf core).pendv = false ∨ (s.coreOf core).freeze = true) : s.planChange core = s := by
  unfold State.planChange
  dsimp only
  refine if_neg ?_
  rintro ⟨h1, h2, -⟩
  rcases h with h | h
  · rw [h] at h1; cases h1
  · rw [h] at h2; cases h2

/-- The allocator's steps where there is nothing to decide and no change can come into force. -/
theorem State.afterAllocator_idle (s : State) (h : (s.coreOf s.core).reqs = [] ∨ (s.coreOf s.core).freeze = true)
    (hp : (s.coreOf s.core).pendv = false ∨ (s.coreOf s.core).freeze = true) : s.afterAllocator = s ∨ ∃ k, s.afterAllocator = s.setCore s.core k
      ∧ k.plan = (s.coreOf s.core).plan ∧ k.pendv = (s.coreOf s.core).pendv ∧ k.freeze = (s.coreOf s.core).freeze := by
  unfold State.afterAllocator
  rcases s.allocate_idle s.core h with ha | ⟨k, ha, h1, h2, h3⟩
  · rw [ha, s.planChange_idle s.core hp]
    exact .inl rfl
  · rw [ha, State.planChange_idle _ _ (by rw [State.coreOf_setCore_same, h2, h3]; exact hp)]
    exact .inr ⟨k, rfl, h1, h2, h3⟩

/-- The plan, the pending change and FREEZE are then as before, and so are the contexts and the fragments. -/
theorem State.afterAllocator_idle_core (s : State) (h : (s.coreOf s.core).reqs = [] ∨ (s.coreOf s.core).freeze = true)
    (hp : (s.coreOf s.core).pendv = false ∨ (s.coreOf s.core).freeze = true) :
    ((s.afterAllocator.coreOf s.core).plan = (s.coreOf s.core).plan ∧ (s.afterAllocator.coreOf s.core).pendv = (s.coreOf s.core).pendv
      ∧ (s.afterAllocator.coreOf s.core).freeze = (s.coreOf s.core).freeze)
    ∧ (s.afterAllocator.cx = s.cx ∧ ∀ i, s.afterAllocator.fragOf s.core i = s.fragOf s.core i) := by
  rcases s.afterAllocator_idle h hp with ha | ⟨k, ha, h1, h2, h3⟩
  · rw [ha]
    exact ⟨⟨rfl, rfl, rfl⟩, rfl, fun _ => rfl⟩
  · rw [ha, State.coreOf_setCore_same]
    exact ⟨⟨h1, h2, h3⟩, rfl, fun _ => rfl⟩

/-- What a change of the plan leaves. -/
theorem State.withPlan (τ : State) (core p : Nat) :
    let t := (τ.setCore core { τ.coreOf core with plan := p }).setCx τ.cx.advance
    (t.coreOf core).plan = p ∧ (t.coreOf core).pendv = (τ.coreOf core).pendv ∧ (∀ i, (t.fragOf core i).state = (τ.fragOf core i).state)
      ∧ ∀ pa, t.memByte pa = τ.memByte pa := by
  intro t
  have h : t.coreOf core = { τ.coreOf core with plan := p } := τ.coreOf_setCore_same core _
  rw [h]
  exact ⟨rfl, rfl, fun _ => rfl, fun _ => rfl⟩

/-- Settles O16: the grants go through `State.fragTry_answers` and `State.copyTry_answers`, UNLEASE through `State.returnEach_unleased`, SPLIT
through `State.afterAllocator_idle_core`. -/
theorem leaseWords : Obligations.LeaseWords := by
  unfold Obligations.LeaseWords
  intro s d a q c p hd k made leased
  have hbool : ∀ {b : Bool}, b = false → (!b) = true := fun h => by rw [h]; rfl
  refine ⟨fun hs hq => ?_, fun hs => ?_, fun hs hq hc => ?_, fun hs hc => ?_, exec_unlease_completes s a, fun h => ?_, fun hpl hp hr hv => ?_, fun hp hpl => ?_,
    fun hp hpl' hv => ?_, fun hpl hp hr hv hf hfree => ?_, fun hpl hp hf => ?_, fun hp => if_pos hp⟩
  · rw [exec_leaseT_eq s d q hs hq]
    split
    · exact (State.Answers.zero s false).retireS d
    · exact (State.Answers.of_setCore (State.fragTry_answers _ _ _ rfl)).retireS d
  · rw [exec_leasecT_eq s d c hs]
    split
    · exact (State.Answers.zero s true).retireS d
    · exact (State.Answers.of_setCore (State.copyTry_answers _ _ _ rfl)).retireS d
  · rw [exec_leaseT_eq s d q hs hq, if_pos hc]
    rfl
  · rw [exec_leasecT_eq s d c hs, if_pos hc]
    rfl
  · show execUnlease a s = _
    unfold execUnlease
    dsimp only
    rw [show s.current s.core s.ctx (handleOf (s.rs a)) = false from h]
    rfl
  · obtain ⟨⟨h1, -, -⟩, -⟩ := s.afterAllocator_idle_core (.inl hr) (.inl hv)
    rw [exec_split_eq s p hp, if_pos (h1.trans hpl), if_pos hpl]
    rfl
  · have hpl : (s.afterAllocator.coreOf s.core).plan = p.toNat := hpl
    rw [exec_split_eq s p hp, if_pos hpl]
    by_cases hk : k.plan = p.toNat
    · rw [if_pos hk, if_pos hk]
      rfl
    · rw [if_neg hk, if_neg hk]
      rfl
  · have hpl : (s.afterAllocator.coreOf s.core).plan ≠ p.toNat := hpl'
    rw [exec_split_eq s p hp, if_neg hpl, if_neg]
    · rfl
    · rintro ⟨h, -⟩
      rw [show (s.afterAllocator.coreOf s.core).pendv = true from hv] at h
      cases h
  · obtain ⟨⟨h1, h2, h3⟩, hcx, hfr⟩ := s.afterAllocator_idle_core (.inl hr) (.inl hv)
    have hstate : ∀ i < 4, (s.afterAllocator.fragOf s.core i).state = 0 := fun i hi => by rw [hfr]; exact hfree i hi
    have hall : (changed (s.afterAllocator.coreOf s.core).plan p.toNat).all (fun i => decide (s.afterAllocator.fragState s.core i = 0)) = true := by
      rw [List.all_eq_true]
      intro i hi
      have hi := (List.mem_filter.mp hi).1
      exact decide_eq_true (hstate i (by simp only [List.mem_cons, List.not_mem_nil, or_false] at hi; omega))
    have hex : exec (.split p) s = .next ((s.afterAllocator.setCore s.core { s.afterAllocator.coreOf s.core with plan := p.toNat }).setCx
        s.afterAllocator.cx.advance) := by
      rw [exec_split_eq s p hp, if_neg (fun h => hpl (h1.symm.trans h)), if_pos ⟨hbool (h2.trans hv), hbool (h3.trans hf), hall⟩]
      rfl
    obtain ⟨t1, t2, t3, t4⟩ := s.afterAllocator.withPlan s.core p.toNat
    exact ⟨_, hex, (State.cx_setCx _ _).trans (by rw [hcx]), t1, t2.trans (h2.trans hv), fun i hi => (t3 i).trans (hstate i hi),
      fun pa => (t4 pa).trans (s.leaseStep_afterAllocator.memByte pa)⟩
  · obtain ⟨⟨h1, h2, h3⟩, -⟩ := s.afterAllocator_idle_core (.inr hf) (.inr hf)
    rw [exec_split_eq s p hp, if_neg (fun h => hpl (h1.symm.trans h)), if_neg]
    · rfl
    · rintro ⟨-, h, -⟩
      rw [show (s.afterAllocator.coreOf s.core).freeze = true from h3.trans hf] at h
      cases h

end Sys2Proof.Machine
end

section
/-! ## O17: records and granules -/
namespace Sys2Proof.Machine

/-- A record that can be read as LD reads it is handed on, in a state whose context has noted its bytes. -/
theorem recordAt_read (s : State) (va : Word) (n : Nat) (x : Xl) (k : State → Nat → Out) (hal : va.toNat % n = 0)
    (ht : s.translate s.core s.ctx va .read .plain = .ok x) (hx : x.cls ≠ 2) (ha : s.accessCheck (s.vfOf s.core s.ctx) x.pa n va = .ok ())
    (hm : s.ctx = 4 → metaTile x.pa = none) : ∃ τ : State, s.recordAt va n k = k τ (leNat (fun i => s.lotByte s.cx combView (x.pa + i)) n)
      ∧ s.cx.NotedFrom τ.cx ∧ (τ.core = s.core ∧ τ.ctx = s.ctx) ∧ SameMemory s τ := by
  have hk : lotKey x = x.pa := if_neg hx
  have ha' : aligned va n = true := decide_eq_true hal
  have hr : s.recordAt va n k = match s.loadG s.core s.ctx va n with
      | .error e => s.trap e
      | .ok (.waiting σ') => σ'.interlock
      | .ok (.value v σ') => k σ' v := by
    unfold State.recordAt
    rw [ha']
    rfl
  cases hb : s.cx.hasAll (lotKey x) n with
  | true =>
    rw [hr, loadG_held ht hm hb, hk]
    exact ⟨s, rfl, .refl _, ⟨rfl, rfl⟩, fun _ => rfl⟩
  | false =>
    obtain ⟨c, hc, -, hl⟩ := loadG_checked ht hm hb hx ha
    rw [hr, hl]
    have hf := s.sameElse_fill_retired
    refine ⟨(s.fill x.pa).setCx c, rfl, (State.cx_setCx _ c).symm ▸ hc, ?_, fun a => (State.memByte_fill s x.pa a)⟩
    unfold State.fill
    split <;> exact ⟨rfl, rfl⟩

/-- What a word leaves that retires with a context that has noted bytes and taken a record. -/
theorem recordAt_same {s τ : State} (hc : s.cx.NotedFrom τ.cx) (hm : SameMemory s τ) (d : Ctx) (hpc : d.pc = τ.cx.pc) (hps : d.pslots = τ.cx.pslots)
    (hn : d.npc = τ.cx.npc) (hs : d.s = τ.cx.s) (hf : d.f = τ.cx.f) : (τ.setCx d.advance).cx.pc = s.cx.advance.pc ∧ SameMemory s (τ.setCx d.advance)
      ∧ (∀ r, (τ.setCx d.advance).cx.sreg r = s.cx.sreg r) ∧ ∀ f, (τ.setCx d.advance).cx.flag f = s.cx.flag f := by
  obtain ⟨m, v, hτ⟩ := hc
  rw [State.cx_setCx]
  refine ⟨(Ctx.advance_pc_congr hpc hps hn).trans (hτ ▸ Ctx.advance_pc_congr rfl rfl rfl), hm, fun r => ?_, fun f => ?_⟩
  · rw [Ctx.advance_sreg]
    unfold Ctx.sreg
    rw [hs, hτ]
  · rw [Ctx.advance_flag]
    unfold Ctx.flag
    rw [hf, hτ]

theorem Ctx.advance_records (c : Ctx) : c.advance.q = c.q ∧ c.advance.tx = c.tx ∧ c.advance.cv = c.cv := by
  obtain ⟨pc, ps, h⟩ := c.advance_shape
  rw [h]
  exact ⟨rfl, rfl, rfl⟩

theorem Ctx.NotedFrom.records {c d : Ctx} (h : c.NotedFrom d) : d.q = c.q ∧ d.tx = c.tx ∧ d.cv = c.cv ∧ d.pc = c.pc
    ∧ ∀ v, State.streamOk d v = State.streamOk c v := by
  obtain ⟨m, v, rfl⟩ := h
  exact ⟨rfl, rfl, rfl, rfl, fun _ => rfl⟩

/-- A part of 64 bits put into a record register replaces that part alone. -/
theorem txset_parts (old v p j : Nat) (ho : old < 2 ^ 256) (hv : v < 2 ^ 64) (hp : p < 4) (hj : j < 4) :
    (old - old / 2 ^ (64 * p) % 2 ^ 64 * 2 ^ (64 * p) + v * 2 ^ (64 * p)) % 2 ^ 256 / 2 ^ (64 * j) % 2 ^ 64 =
      if j = p then v else old / 2 ^ (64 * j) % 2 ^ 64 := by
  rcases eq_or_ne j p with rfl | h
  · rw [if_pos rfl]
    interval_cases j <;> simp only [Nat.reduceMul, Nat.reducePow, pow_zero, Nat.div_one, mul_one] <;> omega
  · rw [if_neg h]
    interval_cases p <;> interval_cases j <;> simp only [Nat.reduceMul, Nat.reducePow, pow_zero, Nat.div_one, mul_one] <;> omega

/-- The granules of a range that a window has are dead; others are not named. -/
theorem State.deadRange_eq (s : State) (a : BitVec 5) (c : BitVec 9) (limit : Nat) (k : List Nat → Ctx) : s.deadRange a c limit k =
    if limit < (s.cx.sreg a.toNat).toNat + (c.toNat + 1) then s.trapWith causeOutside (s.cx.sreg a.toNat)
    else s.retire (k ((List.range (c.toNat + 1)).map ((s.cx.sreg a.toNat).toNat + ·))) := rfl

theorem filter_range_map (l : List Nat) (g n : Nat) :
    (l.filter fun x => !((List.range n).map (g + ·)).contains x) = l.filter fun x => decide (x < g ∨ g + n ≤ x) := by
  refine List.filter_congr fun x _ => ?_
  have hmem : ((List.range n).map (g + ·)).contains x = true ↔ g ≤ x ∧ x < g + n := by
    rw [List.contains_iff_mem, List.mem_map]
    constructor
    · rintro ⟨i, hi, rfl⟩
      have := List.mem_range.mp hi
      omega
    · rintro ⟨h1, h2⟩
      exact ⟨x - g, List.mem_range.mpr (by omega), by omega⟩
  rw [Bool.eq_iff_iff, decide_eq_true_iff, Bool.not_eq_true', Bool.eq_false_iff, ne_eq, hmem]
  omega

theorem leNat_lt (f : Nat → Byte) (n : Nat) : leNat f n < 256 ^ n := by
  unfold leNat
  suffices ∀ l : List Nat, l.foldr (fun i a => (f i).toNat + 256 * a) 0 < 256 ^ l.length by simpa using this (List.range n)
  intro l
  induction l with
  | nil => simp
  | cons i l ih =>
    have := (f i).isLt
    rw [List.foldr_cons, List.length_cons, pow_succ]
    omega

/-- A register file's entries after one is put. -/
theorem Tbl.get_set_both {α : Type} (t : Tbl α) (d : α) (i : Nat) (v : α) : Tbl.get (Tbl.set t i v) d i = v ∧ ∀ j, j ≠ i → Tbl.get (Tbl.set t i v) d j = Tbl.get t d j :=
  ⟨Tbl.get_set_same t d i v, fun _ h => Tbl.get_set_ne t d v h⟩

/-- The word TXSET leaves in its register. -/
def txPart (c : Ctx) (u : BitVec 4) (v : Word) (p : BitVec 2) : BitVec 256 :=
  BitVec.ofNat 256 ((c.txreg u.toNat).toNat - (c.txreg u.toNat).toNat / 2 ^ (64 * p.toNat) % 2 ^ 64 * 2 ^ (64 * p.toNat) + v.toNat * 2 ^ (64 * p.toNat))

theorem exec_txset_eq (s : State) (u : BitVec 4) (a : BitVec 5) (p : BitVec 2) :
    exec (.txset u a p) s = s.retire { s.cx with tx := Tbl.set s.cx.tx u.toNat (txPart s.cx u (s.cx.sreg a.toNat) p) } := rfl

/-- Settles O17: the records go through `recordAt_read`, TXSET through `txset_parts`, the granules through `filter_range_map`. -/
theorem recordsAndGranules : Obligations.RecordsAndGranules := by
  unfold Obligations.RecordsAndGranules
  refine ⟨?_, ?_⟩
  · intro s a b u cv p x va ok rec' same refused
    have hmis : ∀ (n : Nat) (k : State → Nat → Out), va.toNat % n ≠ 0 → s.recordAt va n k = .next (s.trapped 3 va) := by
      intro n k h
      have ha : aligned va n = false := decide_eq_false h
      unfold State.recordAt
      rw [ha]
      rfl
    refine ⟨fun ⟨h1, h2, h3, h4, h5⟩ hq => ?_, fun ⟨h1, h2, h3, h4, h5⟩ => ?_, fun ⟨h1, h2, h3, h4, h5⟩ hq => ?_, ?_, fun ⟨h1, h2, h3, h4, h5⟩ hq => ?_,
      fun ⟨h1, h2, h3, h4, h5⟩ hq => ?_, hmis 16 _, fun h => ⟨hmis 32 _ h, hmis 32 _ h⟩⟩
    · obtain ⟨τ, hr, hc, hact, hm⟩ := recordAt_read s va 16 x (fun σ v => if State.streamOk σ.cx (BitVec.ofNat 128 v) then
        σ.retire { σ.cx with q := Tbl.set σ.cx.q b.toNat (BitVec.ofNat 128 v) } else σ.trapWith causeIllegal) h1 h2 h3 h4 h5
      obtain ⟨hrq, -, -, -, hok⟩ := hc.records
      have hset := Tbl.get_set_both τ.cx.q 0 b.toNat (BitVec.ofNat 128 (rec' 16))
      refine ⟨_, hr.trans (if_pos ((hok _).trans hq)), recordAt_same hc hm _ rfl rfl rfl rfl rfl, ?_, fun i hi => ?_⟩
      · rw [State.cx_setCx, Ctx.qreg, (Ctx.advance_records _).1]
        exact hset.1
      · rw [State.cx_setCx, Ctx.qreg, (Ctx.advance_records _).1]
        exact (hset.2 i hi).trans (by rw [hrq]; rfl)
    · obtain ⟨τ, hr, hc, hact, hm⟩ := recordAt_read s va 32 x (fun σ v =>
        σ.retire { σ.cx with tx := Tbl.set σ.cx.tx u.toNat (BitVec.ofNat 256 v) }) h1 h2 h3 h4 h5
      obtain ⟨-, hrt, -⟩ := hc.records
      have hset := Tbl.get_set_both τ.cx.tx 0 u.toNat (BitVec.ofNat 256 (rec' 32))
      refine ⟨_, hr, recordAt_same hc hm _ rfl rfl rfl rfl rfl, ?_, fun i hi => ?_⟩
      · rw [State.cx_setCx, Ctx.txreg, (Ctx.advance_records _).2.1]
        exact hset.1
      · rw [State.cx_setCx, Ctx.txreg, (Ctx.advance_records _).2.1]
        exact (hset.2 i hi).trans (by rw [hrt]; rfl)
    · obtain ⟨τ, hr, hc, hact, hm⟩ := recordAt_read s va 32 x (fun σ v => if cvOk v then
        σ.retire { σ.cx with cv := Tbl.set σ.cx.cv cv.toNat (BitVec.ofNat 256 v) } else σ.trapWith causeIllegal) h1 h2 h3 h4 h5
      obtain ⟨-, -, hrc, -⟩ := hc.records
      have hset := Tbl.get_set_both τ.cx.cv 0 cv.toNat (BitVec.ofNat 256 (rec' 32))
      refine ⟨_, hr.trans (if_pos hq), recordAt_same hc hm _ rfl rfl rfl rfl rfl, ?_, fun i hi => ?_⟩
      · rw [State.cx_setCx, Ctx.cvreg, (Ctx.advance_records _).2.2]
        exact hset.1
      · rw [State.cx_setCx, Ctx.cvreg, (Ctx.advance_records _).2.2]
        exact (hset.2 i hi).trans (by rw [hrc]; rfl)
    · have hset := Tbl.get_set_both s.cx.tx 0 u.toNat (txPart s.cx u va p)
      refine ⟨_, exec_txset_eq s u a p, recordAt_same (.refl _) (fun _ => rfl) _ rfl rfl rfl rfl rfl, fun j hj => ?_, fun i hi => ?_⟩
      · rw [State.cx_setCx, Ctx.txreg, (Ctx.advance_records _).2.1]
        dsimp only
        rw [show s.cx.sreg a.toNat = va from rfl, hset.1, txPart, BitVec.toNat_ofNat]
        exact txset_parts _ _ _ _ (BitVec.isLt _) va.isLt p.isLt hj
      · rw [State.cx_setCx, Ctx.txreg, (Ctx.advance_records _).2.1]
        exact hset.2 i hi
    · obtain ⟨τ, hr, hc, hact, hm⟩ := recordAt_read s va 16 x (fun σ v => if State.streamOk σ.cx (BitVec.ofNat 128 v) then
        σ.retire { σ.cx with q := Tbl.set σ.cx.q b.toNat (BitVec.ofNat 128 v) } else σ.trapWith causeIllegal) h1 h2 h3 h4 h5
      obtain ⟨hrq, -, hrc, hpc, hok⟩ := hc.records
      exact ⟨τ, hr.trans (if_neg (by rw [hok]; exact hq ▸ Bool.false_ne_true)), hact.1, hact.2, hpc, hm, fun i => by unfold Ctx.qreg; rw [hrq],
        fun i => by unfold Ctx.cvreg; rw [hrc]⟩
    · obtain ⟨τ, hr, hc, hact, hm⟩ := recordAt_read s va 32 x (fun σ v => if cvOk v then
        σ.retire { σ.cx with cv := Tbl.set σ.cx.cv cv.toNat (BitVec.ofNat 256 v) } else σ.trapWith causeIllegal) h1 h2 h3 h4 h5
      obtain ⟨hrq, -, hrc, hpc, -⟩ := hc.records
      exact ⟨τ, hr.trans (if_neg (hq ▸ Bool.false_ne_true)), hact.1, hact.2, hpc, hm, fun i => by unfold Ctx.qreg; rw [hrq],
        fun i => by unfold Ctx.cvreg; rw [hrc]⟩
  · intro s a c g n
    refine ⟨fun h => ?_, fun h => ?_, fun h => if_pos h, fun h => if_pos h⟩
    · rw [← filter_range_map]
      exact if_neg (not_lt.mpr h)
    · rw [← filter_range_map]
      exact if_neg (not_lt.mpr h)

end Sys2Proof.Machine
end

section
/-! ## O18 and O19: the Market, observations, giving way -/
namespace Sys2Proof.Machine

/-! ### The checkpoint that an effect takes -/

theorem Checkpoint.words_length (k : Checkpoint) : k.words.length ≤ 40 := by
  have h1 : (((List.range 32).filter fun i => decide (1 ≤ i) && k.mask.getLsbD i).map fun i => (Tbl.get k.s 0 i).toNat).length ≤ 31 := by
    rw [List.length_map]
    calc ((List.range 32).filter fun i => decide (1 ≤ i) && k.mask.getLsbD i).length
        ≤ ((List.range 32).filter fun i => decide (1 ≤ i)).length := List.Sublist.length_le (List.monotone_filter_right _ fun i h => (Bool.and_eq_true_iff.mp h).1)
      _ = 31 := rfl
  have h2 : (((List.range 8).filter fun i => k.mask.getLsbD (32 + i)).map fun i => (Tbl.get k.b 0 i).toNat).length ≤ 8 := by
    rw [List.length_map]
    exact (List.length_filter_le _ _).trans (by simp)
  unfold Checkpoint.words
  dsimp only
  rw [List.length_append, List.length_append]
  split <;> simp only [List.length_nil, List.length_singleton] <;> omega

theorem checkFields_places (k : Checkpoint) : ∀ f ∈ checkFields k, 0x180 ≤ f.1 ∧ f.1 + f.2.1 ≤ 0x300 := by
  intro f hf
  rcases List.mem_append.mp hf with hf | hf
  · simp only [List.mem_cons, List.not_mem_nil, or_false] at hf
    obtain rfl | rfl | rfl | rfl | rfl | rfl := hf <;> simp only <;> omega
  · obtain ⟨⟨w, i⟩, hi, rfl⟩ := List.mem_map.mp hf
    have hi : i < k.words.length := by simpa using List.snd_lt_of_mem_zipIdx hi
    have := k.words_length
    dsimp only
    omega

theorem State.writeCheck_memByte_ne (σ : State) (core slot a : Nat)
    (h : ∀ p, σ.slotArea core slot = some p → a < p + 0x180 ∨ p + 0x300 ≤ a) : (σ.writeCheck core slot).memByte a = σ.memByte a := by
  unfold State.writeCheck
  split
  case h_1 base hb =>
    refine σ.areaPut_memByte_ne _ a fun p hp => ?_
    obtain ⟨f, hf, hp⟩ := List.mem_flatMap.mp hp
    have hpl := checkFields_places _ f hf
    obtain ⟨i, hi, rfl⟩ := List.mem_map.mp hp
    have hi := List.mem_range.mp hi
    have := h base hb
    dsimp only
    omega
  case h_2 => rfl

theorem State.writeCheck_shape (σ : State) (core slot : Nat) : σ.WroteBytes (σ.writeCheck core slot) := by
  unfold State.writeCheck
  split
  · exact σ.areaPut_shape _
  · exact .refl σ

/-- The context that the effect of a word leaves: the one given, at the next word, with its checkpoint taken. -/
theorem State.effected_shape (σ : State) (c : Ctx) : ∃ k sn, (σ.setCx { c.advance with check := k, snap := sn }).WroteBytes (σ.effected c) := by
  unfold State.effected
  split
  · exact ⟨c.advance.check, c.advance.snap, .refl _⟩
  · refine ⟨((σ.setCx c.advance).ctxOf σ.core σ.ctx).record fullMask 2, (σ.setCx c.advance).snapshot σ.core σ.ctx, ?_⟩
    have h : (σ.setCx c.advance).setCtx σ.core σ.ctx { (σ.setCx c.advance).ctxOf σ.core σ.ctx with
        check := ((σ.setCx c.advance).ctxOf σ.core σ.ctx).record fullMask 2, snap := (σ.setCx c.advance).snapshot σ.core σ.ctx } =
        σ.setCx { c.advance with check := ((σ.setCx c.advance).ctxOf σ.core σ.ctx).record fullMask 2, snap := (σ.setCx c.advance).snapshot σ.core σ.ctx } := by
      rw [show (σ.setCx c.advance).ctxOf σ.core σ.ctx = c.advance from σ.cx_setCx _]
      exact σ.setCtx_setCtx _ _ _ _
    rw [← h]
    exact State.writeCheck_shape _ _ _

theorem State.effected_cx (σ : State) (c : Ctx) : ∃ k sn, (σ.effected c).cx = { c.advance with check := k, snap := sn } := by
  obtain ⟨k, sn, h⟩ := σ.effected_shape c
  exact ⟨k, sn, h.cx.trans (σ.cx_setCx _)⟩

theorem State.slotArea_setCx (σ : State) (c : Ctx) (h : c.task = σ.cx.task) : (σ.setCx c).slotArea σ.core σ.ctx = σ.slotArea σ.core σ.ctx := by
  unfold State.slotArea
  rw [show (σ.setCx c).ctxOf σ.core σ.ctx = c from σ.cx_setCx c, h]
  rfl

theorem State.effected_memByte_ne (σ : State) (c : Ctx) (hc : c.task = σ.cx.task) (a : Nat)
    (h : ∀ p, σ.slotArea σ.core σ.ctx = some p → a < p + 0x180 ∨ p + 0x300 ≤ a) : (σ.effected c).memByte a = σ.memByte a := by
  have htask : c.advance.task = σ.cx.task := by
    obtain ⟨pc, ps, ha⟩ := c.advance_shape
    rw [ha]
    exact hc
  unfold State.effected
  split
  · rfl
  · refine (State.writeCheck_memByte_ne _ σ.core σ.ctx a fun p hp => h p ?_).trans rfl
    rw [← hp]
    have hcx : (σ.setCx c.advance).ctxOf σ.core σ.ctx = c.advance := σ.cx_setCx _
    unfold State.slotArea
    rw [State.ctxOf_setCtx_same, hcx]
    dsimp only
    rw [htask]
    rfl

/-! ### What a commit leaves of the state -/

theorem State.commit_slotArea (σ : State) (core ctx : Nat) : (σ.commit core ctx).slotArea core ctx = σ.slotArea core ctx := by
  obtain ⟨τ, l, he, -, -, ⟨htk, hnd, hbar⟩, -, fs, hcx⟩ := σ.commit_eq core ctx
  have hpost : ∀ (l : List FaultRec) (τ : State), (τ.postAll core ctx l).slotArea core ctx = τ.slotArea core ctx := by
    intro l
    unfold State.postAll
    induction l with
    | nil => intro τ; rfl
    | cons r l ih => intro τ; rw [List.foldl_cons, ih, State.addPosted_slotArea]
  rw [he, hpost, ← (σ.committedBytes_shape core ctx).slotArea]
  unfold State.slotArea State.areaOf State.taskOf State.nodeOf State.areaPa State.reg
  rw [hcx, htk, hnd, hbar]

theorem State.commitHere_slotArea (s : State) : s.commitHere.slotArea s.core s.ctx = s.slotArea s.core s.ctx := by
  unfold State.commitHere
  split
  · rfl
  · exact s.commit_slotArea _ _

/-- What a commit leaves of its context. -/
theorem State.commitHere_cx (s : State) : ∃ h cb sn vs af ls lv fs ps, s.commitHere.cx = { s.cx with
    held := h, combs := cb, seen := sn, vseen := vs, after := af, lines := ls, lineVas := lv, fences := fs, posted := ps } := by
  rw [State.cx_of_acting s.commitHere_acting]
  unfold State.commitHere
  split
  · exact ⟨_, _, _, _, _, _, _, _, _, rfl⟩
  · obtain ⟨fs, ps, h⟩ := s.commit_ctxOf s.core s.ctx
    exact ⟨_, _, _, _, _, _, _, _, _, h⟩

theorem State.commitHere_sreg (s : State) (r : Nat) : s.commitHere.cx.sreg r = s.cx.sreg r := by
  obtain ⟨_, _, _, _, _, _, _, _, _, h⟩ := s.commitHere_cx
  rw [h]
  rfl

theorem State.commitHere_advance_pc (s : State) : s.commitHere.cx.advance.pc = s.cx.advance.pc := by
  obtain ⟨_, _, _, _, _, _, _, _, _, h⟩ := s.commitHere_cx
  rw [h]
  exact Ctx.advance_pc_congr rfl rfl rfl

theorem State.commitHere_group (s : State) (g : BitVec 2) : s.commitHere.group g = s.group g := by
  unfold State.group
  simp only [State.commitHere_sreg]

/-! ### Market words -/

theorem mkMatch_iff (frame : Nat) (mask : BitVec 8) (vals : List Word) (t : Tuple) :
    mkMatch frame mask vals t = true ↔ t.frame = frame ∧ ∀ i < 8, mask.getLsbD i = true → vals.getD i 0 = t.fields.getD i 0 := by
  unfold mkMatch
  rw [Bool.and_eq_true, decide_eq_true_iff, List.all_eq_true]
  refine and_congr_right fun _ => ⟨fun h i hi hb => ?_, fun h i hi => ?_⟩
  · have := h i (List.mem_range.mpr hi)
    rw [hb] at this
    simpa using this
  · cases hb : mask.getLsbD i
    · rfl
    · simpa using h i (List.mem_range.mp hi) hb

/-- What MKRD.T and MKTAKE.T do once their address is translated and their region is the slot's VF's. -/
def State.mkAnswer (c : State) (g : BitVec 2) (b : BitVec 5) (m : BitVec 8) (f : BitVec 3) (take : Bool) (frame : Nat) : Out :=
  let n := mkSlice frame ((c.group g).getD 0 0)
  match (c.sliceOf n).find frame m (c.group g) with
  | none => c.effectDone (c.cx.setF f.toNat false)
  | some t =>
    if !c.mkSeal t then c.trapWith causeSealFail (c.rs b) else
    let τ := if take then c.setSlice n { c.sliceOf n with tuples := (c.sliceOf n).tuples.erase t } else c
    τ.effectDone (((t.fields.zipIdx).foldl (fun c p => c.setS (8 * g.toNat + p.2) p.1) τ.cx).setF f.toNat true)

theorem State.mkTry_eq (s : State) (g : BitVec 2) (b : BitVec 5) (m : BitVec 8) (f : BitVec 3) (take : Bool) (x : Xl) (hs : s.ctx < 4) (hg : g ≠ 0)
    (hm : m.getLsbD 0 = true) (hx : s.translate s.core s.ctx (s.cx.sreg b.toNat) (if take then .rmw else .read) .market = .ok x)
    (ho : s.commitHere.mkOwner x = true) : s.mkTry g b m f take = s.commitHere.mkAnswer g b m f take x.frame := by
  have hf : s.ctx ≠ Config.fwCtx := by
    have : Config.fwCtx = 4 := rfl
    omega
  unfold State.mkTry State.mkBegin
  rw [if_neg (not_or.mpr ⟨hg, by rw [hm]; exact Bool.false_ne_true⟩)]
  dsimp only
  rw [if_neg hf, show s.translate s.core s.ctx (s.rs b) (if take then .rmw else .read) .market = .ok x from hx]
  dsimp only
  rw [ho, if_neg (by simp)]
  rfl

theorem Ctx.setF_advance_shape (c : Ctx) (r : Nat) (v : Bool) : (c.setF r v).advance.flag r = v ∧ (∀ q, (c.setF r v).advance.sreg q = c.sreg q)
    ∧ (c.setF r v).advance.pc = c.advance.pc := by
  refine ⟨?_, fun q => Ctx.advance_sreg _ q, Ctx.advance_pc_congr rfl rfl rfl⟩
  rw [Ctx.advance_flag, Ctx.flag_setF, if_pos rfl]

theorem State.effectDone_eq (s : State) (c : Ctx) : s.effectDone c = .next (s.effected c) := rfl

/-- The registers of a group after a tuple's fields are put into them. -/
theorem Ctx.setGroup_shape (l : List (Word × Nat)) (c : Ctx) (k : Nat) : ∃ ss, l.foldl (fun c p => c.setS (k + p.2) p.1) c = { c with s := ss } := by
  induction l generalizing c with
  | nil => exact ⟨_, rfl⟩
  | cons p l ih =>
    rw [List.foldl_cons]
    obtain ⟨l', hl⟩ := c.setS_shape (k + p.2) p.1
    obtain ⟨ss, h⟩ := ih (c.setS (k + p.2) p.1)
    rw [h, hl]
    exact ⟨_, rfl⟩

theorem Ctx.setGroup_sreg (l : List Word) (n : Nat) (c : Ctx) (k : Nat) (hk : 0 < k) (r : Nat) :
    ((l.zipIdx n).foldl (fun c p => c.setS (k + p.2) p.1) c).sreg r = if k + n ≤ r ∧ r < k + n + l.length then l.getD (r - k - n) 0 else c.sreg r := by
  induction l generalizing n c with
  | nil =>
    rw [if_neg (by simp only [List.length_nil]; omega)]
    rfl
  | cons v l ih =>
    rw [List.zipIdx_cons, List.foldl_cons, ih, Ctx.sreg_setS]
    dsimp only
    by_cases hr : r = k + n
    · subst hr
      rw [if_neg (by omega), if_pos ⟨rfl, by omega⟩, if_pos (by simp only [List.length_cons]; omega), show k + n - k - n = 0 by omega]
      rfl
    · by_cases hin : k + (n + 1) ≤ r ∧ r < k + (n + 1) + l.length
      · rw [if_pos hin, if_pos (by simp only [List.length_cons]; omega), show r - k - n = (r - k - (n + 1)) + 1 by omega]
        rfl
      · rw [if_neg hin, if_neg (fun h => hr h.1), if_neg (by simp only [List.length_cons]; omega)]

theorem Ctx.setGroup_advance_pc (l : List (Word × Nat)) (c : Ctx) (k r : Nat) (v : Bool) :
    ((l.foldl (fun c p => c.setS (k + p.2) p.1) c).setF r v).advance.pc = c.advance.pc := by
  obtain ⟨ss, h⟩ := Ctx.setGroup_shape l c k
  rw [h]
  exact Ctx.advance_pc_congr rfl rfl rfl

/-- A state that a Market word's effect starts from: the commit's, but for the Market. -/
def State.MarketFrom (c τ : State) : Prop := ∃ mk, τ = { c with market := mk }

theorem MarketFrom_effected {s τ : State} (h : s.commitHere.MarketFrom τ) (d : Ctx) (hd : d.task = τ.cx.task) :
    (∀ pa, offRecord s pa → (τ.effected d).memByte pa = s.commitHere.memByte pa) ∧ (τ.effected d).market = τ.market := by
  obtain ⟨mk, rfl⟩ := h
  have hact := s.commitHere_acting
  refine ⟨fun pa hpa => ?_, ?_⟩
  · refine State.effected_memByte_ne { s.commitHere with market := mk } d hd pa fun p hp => hpa p ?_
    rw [← s.commitHere_slotArea, ← hact.1, ← hact.2]
    exact hp
  · obtain ⟨k, sn, f, e, w, a, h⟩ := State.effected_shape { s.commitHere with market := mk } d
    rw [h]
    rfl

/-- A Market word that finds no tuple leaves its flag clear. -/
theorem State.mkAnswer_none (s : State) (g : BitVec 2) (b : BitVec 5) (m : BitVec 8) (f : BitVec 3) (take : Bool) (frame : Nat)
    (h : (s.commitHere.sliceOf (mkSlice frame ((s.group g).getD 0 0))).find frame m (s.group g) = none) :
    ∃ t, s.commitHere.mkAnswer g b m f take frame = .next t ∧ t.cx.flag f.toNat = false ∧ t.cx.pc = s.cx.advance.pc ∧ (∀ r, t.cx.sreg r = s.cx.sreg r)
      ∧ t.market = s.commitHere.market ∧ ∀ pa, offRecord s pa → t.memByte pa = s.commitHere.memByte pa := by
  obtain ⟨hmem, hmk⟩ := MarketFrom_effected ⟨_, rfl⟩ (s.commitHere.cx.setF f.toNat false) rfl
  obtain ⟨k, sn, hcx⟩ := s.commitHere.effected_cx (s.commitHere.cx.setF f.toNat false)
  obtain ⟨hf, hs, hpc⟩ := s.commitHere.cx.setF_advance_shape f.toNat false
  refine ⟨s.commitHere.effected (s.commitHere.cx.setF f.toNat false), ?_, ?_, ?_, fun r => ?_, hmk, hmem⟩
  · unfold State.mkAnswer
    dsimp only
    rw [State.commitHere_group, h]
    rfl
  · rw [hcx]; exact hf
  · rw [hcx]; exact hpc.trans s.commitHere_advance_pc
  · rw [hcx]; exact (hs r).trans (s.commitHere_sreg r)

/-- A Market word that finds a tuple whose tile verifies takes its fields into the group. -/
theorem State.mkAnswer_some (s : State) (g : BitVec 2) (b : BitVec 5) (m : BitVec 8) (f : BitVec 3) (take : Bool) (frame : Nat) (tp : Tuple) (hg : g ≠ 0)
    (h : (s.commitHere.sliceOf (mkSlice frame ((s.group g).getD 0 0))).find frame m (s.group g) = some tp) (hseal : s.commitHere.mkSeal tp = true) :
    ∃ t, s.commitHere.mkAnswer g b m f take frame = .next t ∧ (t.cx.flag f.toNat = true ∧ t.cx.pc = s.cx.advance.pc
      ∧ (∀ pa, offRecord s pa → t.memByte pa = s.commitHere.memByte pa)
      ∧ (tp.fields.length = 8 → ∀ i < 8, t.cx.sreg (8 * g.toNat + i) = tp.fields.getD i 0)
      ∧ (tp.fields.length = 8 → ∀ r, (r < 8 * g.toNat ∨ 8 * g.toNat + 8 ≤ r) → t.cx.sreg r = s.cx.sreg r))
      ∧ t.market = if take then Tbl.set s.commitHere.market (mkSlice frame ((s.group g).getD 0 0))
          { s.commitHere.sliceOf (mkSlice frame ((s.group g).getD 0 0)) with
            tuples := (s.commitHere.sliceOf (mkSlice frame ((s.group g).getD 0 0))).tuples.erase tp } else s.commitHere.market := by
  have hg0 : 0 < 8 * g.toNat := by
    have : g.toNat ≠ 0 := fun h => hg (BitVec.eq_of_toNat_eq h)
    omega
  let n := mkSlice frame ((s.group g).getD 0 0)
  let τ : State := if take then s.commitHere.setSlice n { s.commitHere.sliceOf n with tuples := (s.commitHere.sliceOf n).tuples.erase tp } else s.commitHere
  have hτ : s.commitHere.MarketFrom τ := by
    cases take
    · exact ⟨_, rfl⟩
    · exact ⟨_, rfl⟩
  have hcxτ : τ.cx = s.commitHere.cx := by
    obtain ⟨mk, h⟩ := hτ
    rw [h]
    rfl
  let d := (tp.fields.zipIdx).foldl (fun c p => c.setS (8 * g.toNat + p.2) p.1) τ.cx
  have hsreg : ∀ r, d.sreg r = if 8 * g.toNat ≤ r ∧ r < 8 * g.toNat + tp.fields.length then tp.fields.getD (r - 8 * g.toNat) 0 else s.cx.sreg r := by
    intro r
    rw [← s.commitHere_sreg, ← hcxτ]
    exact Ctx.setGroup_sreg tp.fields 0 τ.cx (8 * g.toNat) hg0 r
  have hd : (d.setF f.toNat true).task = τ.cx.task := by
    obtain ⟨ss, hss⟩ := Ctx.setGroup_shape tp.fields.zipIdx τ.cx (8 * g.toNat)
    show d.task = _
    rw [show d = _ from hss]
  obtain ⟨hmem, hmk⟩ := MarketFrom_effected hτ (d.setF f.toNat true) hd
  obtain ⟨k, sn, hcx⟩ := τ.effected_cx (d.setF f.toNat true)
  obtain ⟨hf, hs, -⟩ := d.setF_advance_shape f.toNat true
  refine ⟨τ.effected (d.setF f.toNat true), ?_, ⟨?_, ?_, hmem, fun hl i hi => ?_, fun hl r hr => ?_⟩, ?_⟩
  · unfold State.mkAnswer
    dsimp only
    rw [State.commitHere_group, h]
    dsimp only
    rw [hseal]
    rfl
  · rw [hcx]; exact hf
  · rw [hcx]
    refine (Ctx.setGroup_advance_pc _ _ _ _ _).trans ?_
    rw [hcxτ]
    exact s.commitHere_advance_pc
  · rw [hcx]
    refine (hs _).trans ?_
    rw [hsreg, if_pos (by omega), Nat.add_sub_cancel_left]
  · rw [hcx]
    refine (hs r).trans ?_
    rw [hsreg, if_neg (by omega)]
  · rw [hmk]
    cases take <;> rfl

/-- The tuple a Market word finds. -/
theorem MkSlice.find_eq_some (sl : MkSlice) (frame : Nat) (m : BitVec 8) (key : List Word) (l r : List Tuple) (tp : Tuple) (h : sl.tuples = l ++ tp :: r)
    (hl : ∀ u ∈ l, mkMatch frame m key u = false) (ht : mkMatch frame m key tp = true) :
    sl.find frame m key = some tp ∧ sl.tuples.erase tp = l ++ r := by
  have hnot : tp ∉ l := fun hm => by rw [hl tp hm] at ht; cases ht
  unfold MkSlice.find
  rw [h]
  refine ⟨?_, ?_⟩
  · rw [List.find?_append, List.find?_eq_none.mpr fun u hu => by rw [hl u hu]; exact Bool.false_ne_true, List.find?_cons, ht]
    rfl
  · rw [List.erase_append_right _ hnot, List.erase_cons_head]

/-! ### Tuples delivered to parked readers -/

/-- What deliveries of tuples leave: continuations of tasks changed, and what is due behind what was. -/
structure State.Delivered (σ τ : State) : Prop where
  shape : ∃ t a, τ = { σ with tasks := t, agenda := σ.agenda ++ a }
  tasks : ∀ n, { τ.taskOf n with cont := none } = { σ.taskOf n with cont := none }

theorem State.Delivered.refl (σ : State) : σ.Delivered σ := ⟨⟨σ.tasks, [], by rw [List.append_nil]⟩, fun _ => rfl⟩

theorem State.Delivered.trans {σ τ ρ : State} (h : σ.Delivered τ) (g : τ.Delivered ρ) : σ.Delivered ρ := by
  refine ⟨?_, fun n => (g.tasks n).trans (h.tasks n)⟩
  obtain ⟨t, a, rfl⟩ := h.shape
  obtain ⟨t', a', rfl⟩ := g.shape
  exact ⟨t', a ++ a', by simp only [List.append_assoc]⟩

theorem State.deliverTuple_delivered (σ : State) (p : Parked) (l : List Word) : σ.Delivered (σ.deliverTuple p l) := by
  refine ⟨⟨_, _, rfl⟩, fun n => ?_⟩
  unfold State.deliverTuple
  dsimp only
  show { Tbl.get (Tbl.set σ.tasks p.task _) {} n with cont := none } = _
  rw [Tbl.get_set]
  split
  case isTrue h => rw [h]
  case isFalse => rfl

theorem State.deliverTuples_delivered (ps : List Parked) (l : List Word) (σ : State) : σ.Delivered (ps.foldl (fun σ p => σ.deliverTuple p l) σ) := by
  induction ps generalizing σ with
  | nil => exact .refl σ
  | cons p ps ih => exact (σ.deliverTuple_delivered p l).trans (ih _)

theorem State.Delivered.slotArea {σ τ : State} (h : σ.Delivered τ) (core slot : Nat) : τ.slotArea core slot = σ.slotArea core slot := by
  have ht (n : Nat) : τ.areaOf n = σ.areaOf n := by
    have hn := h.tasks n
    injection hn
    obtain ⟨t, a, rfl⟩ := h.shape
    unfold State.areaOf State.areaPa State.reg State.nodeOf
    simp only [*]
  unfold State.slotArea
  rw [show τ.areaOf = σ.areaOf from funext ht]
  obtain ⟨t, a, rfl⟩ := h.shape
  rfl

/-- The fields of a delivered tuple, as the reader's continuation will have them. -/
theorem deliver_get (l : List Word) (n : Nat) (d : Tbl Word) (i : Nat) (hi : n ≤ i) (hl : i < n + l.length) :
    Tbl.get ((l.zipIdx n).foldl (fun d p => Tbl.set d (8 + p.2) p.1) d) 0 (8 + i) = l.getD (i - n) 0 := by
  have hlow (l : List Word) : ∀ (n : Nat) (d : Tbl Word) (i : Nat), i < n → Tbl.get ((l.zipIdx n).foldl (fun d p => Tbl.set d (8 + p.2) p.1) d) 0 (8 + i) = Tbl.get d 0 (8 + i) := by
    induction l with
    | nil => intro n d i _; rfl
    | cons v l ih =>
      intro n d i hi
      rw [List.zipIdx_cons, List.foldl_cons, ih (n + 1) _ i (by omega), Tbl.get_set_ne]
      omega
  induction l generalizing n d with
  | nil => simp only [List.length_nil] at hl; omega
  | cons v l ih =>
    rw [List.length_cons] at hl
    rw [List.zipIdx_cons, List.foldl_cons]
    obtain rfl | hin := Nat.eq_or_lt_of_le hi
    · rw [hlow l _ _ _ (Nat.lt_succ_self n), Tbl.get_set_same, Nat.sub_self]
      rfl
    · rw [ih (n + 1) _ hin (by omega), show i - n = i - (n + 1) + 1 by omega]
      rfl

theorem State.deliverTuple_cont (σ : State) (p : Parked) (l : List Word) (ar : Area) (h : (σ.taskOf p.task).cont = some ar) (hl : l.length = 8) :
    ∃ ar', ((σ.deliverTuple p l).taskOf p.task).cont = some ar' ∧ ∀ i < 8, Tbl.get ar'.deliver 0 (8 + i) = l.getD i 0 := by
  have hc : ((σ.deliverTuple p l).taskOf p.task).cont = (σ.taskOf p.task).cont.map fun a =>
      { a with deliver := (l.zipIdx).foldl (fun d p => Tbl.set d (8 + p.2) p.1) a.deliver, took := if p.take then some (p.frame, l) else none } :=
    congrArg Task.cont (Tbl.get_set_same σ.tasks {} p.task _)
  rw [h] at hc
  exact ⟨_, hc, fun i hi => deliver_get l 0 ar.deliver i (Nat.zero_le i) (by omega)⟩

theorem State.deliverTuple_agenda (σ : State) (p : Parked) (l : List Word) : .due (.continuationEnqueue p.task) ∈ (σ.deliverTuple p l).agenda :=
  List.mem_append_right _ (List.mem_singleton.mpr rfl)

theorem State.writeList_agenda (σ : State) (l : List (Nat × Byte)) : ∃ a, (σ.writeList l).agenda = σ.agenda ++ a := by
  unfold State.writeList State.writeQuiet State.retest
  rw [State.poke_fold_shape]
  exact ⟨_, List.append_assoc _ _ _⟩

theorem State.effected_agenda (σ : State) (c : Ctx) : ∃ a, (σ.effected c).agenda = σ.agenda ++ a := by
  unfold State.effected
  split
  · exact ⟨[], (List.append_nil _).symm⟩
  · have h (τ : State) : ∃ a, (τ.writeCheck σ.core σ.ctx).agenda = τ.agenda ++ a := by
      unfold State.writeCheck
      split
      · exact State.writeList_agenda _ _
      · exact ⟨[], (List.append_nil _).symm⟩
    exact h _

/-! ### MKDEP -/

/-- The parked word matches the tuple of a region. -/
def Parked.takes (p : Parked) (frame : Nat) (key : List Word) : Bool :=
  decide (p.frame = frame) && mkMatch frame p.mask p.fields { frame := frame, fields := key, seq := 0 }

theorem Parked.takes_iff (p : Parked) (frame : Nat) (key : List Word) :
    p.takes frame key = true ↔ p.frame = frame ∧ ∀ i < 8, p.mask.getLsbD i = true → p.fields.getD i 0 = key.getD i 0 := by
  unfold Parked.takes
  rw [Bool.and_eq_true, decide_eq_true_iff, mkMatch_iff]
  exact and_congr_right fun _ => and_iff_right rfl

/-- The slice that a deposit without a taker leaves. -/
def MkSlice.stored (m : MkSlice) (frame : Nat) (key : List Word) : MkSlice :=
  { m with parked := m.parked.filter fun p => p.take || !p.takes frame key, tuples := m.tuples ++ [{ frame := frame, fields := key, seq := m.seq }], seq := m.seq + 1 }

theorem State.mkDeposit_eq (c : State) (n frame : Nat) (key : List Word) : c.mkDeposit n frame key 0 =
    match ((c.sliceOf n).parked.filter fun p => p.take || !p.takes frame key).find? fun p => p.take && p.takes frame key with
    | some k => ((((c.sliceOf n).parked.filter fun p => !p.take && p.takes frame key).foldl (fun σ p => σ.deliverTuple p key) c).deliverTuple k key).setSlice n
        { c.sliceOf n with parked := ((c.sliceOf n).parked.filter fun p => p.take || !p.takes frame key).erase k }
    | none => (((c.sliceOf n).parked.filter fun p => !p.take && p.takes frame key).foldl (fun σ p => σ.deliverTuple p key) c).setSlice n
        ((c.sliceOf n).stored frame key) := rfl

theorem State.mkDeposit_shape (c : State) (n frame : Nat) (key : List Word) : ∃ τ sl, c.Delivered τ ∧ c.mkDeposit n frame key 0 = τ.setSlice n sl := by
  rw [State.mkDeposit_eq]
  split
  · exact ⟨_, _, (State.deliverTuples_delivered _ _ c).trans (State.deliverTuple_delivered _ _ _), rfl⟩
  · exact ⟨_, _, State.deliverTuples_delivered _ _ c, rfl⟩

theorem State.mkDeposit_stored (c : State) (n frame : Nat) (key : List Word) (h : ∀ p ∈ (c.sliceOf n).parked, p.takes frame key = true → p.take = false) :
    (c.mkDeposit n frame key 0).sliceOf n = (c.sliceOf n).stored frame key := by
  rw [State.mkDeposit_eq, List.find?_eq_none.mpr]
  · exact Tbl.get_set_same _ _ _ _
  · intro p hp
    have hp := (List.mem_filter.mp hp).1
    rw [Bool.and_eq_true]
    rintro ⟨ht, hm⟩
    rw [h p hp hm] at ht
    cases ht

theorem State.mkDeposit_taken (c : State) (n frame : Nat) (key : List Word) (l r : List Parked) (p : Parked) (h : (c.sliceOf n).parked = l ++ p :: r)
    (hp : p.takes frame key = true) (ht : p.take = true) (hl : ∀ q ∈ l, q.takes frame key = false) (hr : ∀ q ∈ r, q.takes frame key = true → q.take = true) :
    c.mkDeposit n frame key 0 = (c.deliverTuple p key).setSlice n { c.sliceOf n with parked := l ++ r } := by
  have hall : ∀ q ∈ (c.sliceOf n).parked, q.takes frame key = true → q.take = true := by
    intro q hq hm
    rw [h, List.mem_append, List.mem_cons] at hq
    obtain hq | rfl | hq := hq
    · rw [hl q hq] at hm; cases hm
    · exact ht
    · exact hr q hq hm
  have hkeep : ((c.sliceOf n).parked.filter fun p => p.take || !p.takes frame key) = l ++ p :: r := by
    rw [← h]
    refine List.filter_eq_self.mpr fun q hq => ?_
    cases hm : q.takes frame key
    · rw [Bool.not_false, Bool.or_true]
    · rw [hall q hq hm, Bool.true_or]
  have hnone : ((c.sliceOf n).parked.filter fun p => !p.take && p.takes frame key) = [] := by
    refine List.filter_eq_nil_iff.mpr fun q hq => ?_
    rw [Bool.and_eq_true]
    rintro ⟨hn, hm⟩
    rw [hall q hq hm] at hn
    cases hn
  have hnot : p ∉ l := fun hm => by rw [hl p hm] at hp; cases hp
  have hfind : (l ++ p :: r).find? (fun p => p.take && p.takes frame key) = some p := by
    rw [List.find?_append, List.find?_eq_none.mpr fun q hq => by rw [hl q hq, Bool.and_false]; exact Bool.false_ne_true, List.find?_cons, ht, hp]
    rfl
  have herase : (l ++ p :: r).erase p = l ++ r := by rw [List.erase_append_right _ hnot, List.erase_cons_head]
  rw [State.mkDeposit_eq, hkeep, hnone, hfind, ← herase]
  rfl

/-- What a deposit's effect leaves of the state that the deposit left. -/
theorem State.mkDeposit_effected (s : State) (n frame : Nat) (key : List Word) :
    let d := s.commitHere.mkDeposit n frame key 0
    (d.effected d.cx).cx.pc = s.cx.advance.pc ∧ (∀ r, (d.effected d.cx).cx.sreg r = s.cx.sreg r)
      ∧ (∀ pa, offRecord s pa → (d.effected d.cx).memByte pa = s.commitHere.memByte pa)
      ∧ (∀ j, j ≠ n → (d.effected d.cx).sliceOf j = s.commitHere.sliceOf j) ∧ (d.effected d.cx).sliceOf n = d.sliceOf n
      ∧ (d.effected d.cx).tasks = d.tasks ∧ ∀ a ∈ d.agenda, a ∈ (d.effected d.cx).agenda := by
  intro d
  obtain ⟨τ, sl, hτ, hd⟩ := s.commitHere.mkDeposit_shape n frame key
  have harea : d.slotArea d.core d.ctx = s.slotArea s.core s.ctx := by
    have hact := s.commitHere_acting
    rw [← s.commitHere_slotArea, ← hact.1, ← hact.2, ← hτ.slotArea, show d = τ.setSlice n sl from hd]
    obtain ⟨t, a, rfl⟩ := hτ.shape
    rfl
  have hcx : d.cx = s.commitHere.cx := by
    rw [show d = τ.setSlice n sl from hd]
    obtain ⟨t, a, rfl⟩ := hτ.shape
    rfl
  have hmem (pa : Nat) : d.memByte pa = s.commitHere.memByte pa := by
    rw [show d = τ.setSlice n sl from hd]
    obtain ⟨t, a, rfl⟩ := hτ.shape
    rfl
  have hmk (j : Nat) (hj : j ≠ n) : d.sliceOf j = s.commitHere.sliceOf j := by
    rw [show d = τ.setSlice n sl from hd]
    obtain ⟨t, a, rfl⟩ := hτ.shape
    exact Tbl.get_set_ne _ _ _ hj
  obtain ⟨k, sn, hecx⟩ := d.effected_cx d.cx
  obtain ⟨a, hag⟩ := d.effected_agenda d.cx
  have hsh : (d.effected d.cx).market = d.market ∧ (d.effected d.cx).tasks = d.tasks := by
    obtain ⟨k, sn, f, e, w, g, h⟩ := d.effected_shape d.cx
    rw [h]
    exact ⟨rfl, rfl⟩
  have hslice (j : Nat) : (d.effected d.cx).sliceOf j = d.sliceOf j := by
    unfold State.sliceOf
    rw [hsh.1]
  refine ⟨?_, fun r => ?_, fun pa hpa => (d.effected_memByte_ne d.cx rfl pa fun p hp => hpa p (harea ▸ hp)).trans (hmem pa), fun j hj => (hslice j).trans (hmk j hj),
    hslice n, hsh.2, fun b hb => ?_⟩
  · rw [hecx, hcx]
    exact s.commitHere_advance_pc
  · rw [hecx, hcx]
    exact (Ctx.advance_sreg _ r).trans (s.commitHere_sreg r)
  · rw [hag]
    exact List.mem_append_left _ hb

theorem exec_mkdep (s : State) (g : BitVec 2) (b : BitVec 5) (x : Xl) (hs : s.ctx < 4) (hg : g ≠ 0)
    (hx : s.translate s.core s.ctx (s.cx.sreg b.toNat) .rmw .market = .ok x) (ho : s.commitHere.mkOwner x = true)
    (hroom : ((s.commitHere.sliceOf (mkSlice x.frame ((s.group g).getD 0 0))).tuples.filter fun t => decide (t.place = 0)).length < 65536) :
    exec (.mkdep g b) s = .next ((s.commitHere.mkDeposit (mkSlice x.frame ((s.group g).getD 0 0)) x.frame (s.group g) 0).effected
      (s.commitHere.mkDeposit (mkSlice x.frame ((s.group g).getD 0 0)) x.frame (s.group g) 0).cx) := by
  have hf : s.ctx ≠ Config.fwCtx := by
    have : Config.fwCtx = 4 := rfl
    omega
  have hplace (vf : Nat) (tk : Bool) : (if tk then some 0 else s.commitHere.mkPlace (mkSlice x.frame ((s.group g).getD 0 0)) x.frame vf) = some 0 := by
    cases tk
    · exact if_pos hroom
    · rfl
  rw [show exec (.mkdep g b) s = execMkdep g b s from rfl]
  unfold execMkdep State.mkBegin
  rw [if_neg hg]
  dsimp only
  rw [if_neg hf, show s.translate s.core s.ctx (s.rs b) .rmw .market = .ok x from hx]
  dsimp only
  rw [ho, State.commitHere_group, if_neg (by simp), hplace]
  rfl

/-! ### Observations -/

/-- The places a list of bytes takes in a window. -/
def placesAt (off : Nat) (bs : List Byte) : List (Nat × Byte) := bs.zipIdx.map fun p => (off + p.2, p.1)

theorem placesAt_fst (off : Nat) (bs : List Byte) : ∀ p ∈ placesAt off bs, off ≤ p.1 ∧ p.1 < off + bs.length := by
  intro p hp
  obtain ⟨⟨v, i⟩, hi, rfl⟩ := List.mem_map.mp hp
  have := List.snd_lt_of_mem_zipIdx hi
  dsimp only at this ⊢
  omega

theorem placesAt_nodup (off : Nat) (bs : List Byte) : ((placesAt off bs).map (·.1)).Nodup := by
  have h : (placesAt off bs).map (·.1) = (List.range' 0 bs.length).map (off + ·) := by
    unfold placesAt
    rw [List.map_map, ← List.zipIdx_map_snd 0 bs, List.map_map]
    rfl
  rw [h]
  exact List.Nodup.map (fun a b h => Nat.add_left_cancel h) List.nodup_range'

theorem mem_placesAt (off : Nat) (bs : List Byte) (i : Nat) (hi : i < bs.length) : (off + i, bs.getD i 0) ∈ placesAt off bs := by
  refine List.mem_map.mpr ⟨(bs[i], i), ?_, by rw [List.getD_eq_getElem _ _ hi]⟩
  rw [List.mk_mem_zipIdx_iff_getElem?]
  exact List.getElem?_eq_getElem hi

theorem State.aWrite_places (s : State) (core slot off : Nat) (bs : List Byte) : s.aWrite core slot off bs =
    ({ s with abuf := ((placesAt off bs).map fun p => (aKey core (s.ctxOf core slot) p.1, p.2)).foldl (fun t p => Tbl.set t p.1 p.2) s.abuf } : State).setCtx core slot
      { s.ctxOf core slot with liveA := (placesAt off bs).foldl (fun g p => insertNat g (p.1 / 65536)) (s.ctxOf core slot).liveA } := by
  unfold State.aWrite placesAt
  simp only [List.foldl_map]

theorem abuf_setPlaces (s : State) (core slot off : Nat) (bs : List Byte) (hfit : off + bs.length ≤ 2 ^ 24) (i : Nat) (hi : i < bs.length) :
    Tbl.get (((placesAt off bs).map fun p => (aKey core (s.ctxOf core slot) p.1, p.2)).foldl (fun t p => Tbl.set t p.1 p.2) s.abuf) 0
      (aKey core (s.ctxOf core slot) (off + i)) = bs.getD i 0 := by
  refine Tbl.get_setAll _ _ _ _ _ (List.mem_map.mpr ⟨_, mem_placesAt off bs i hi, rfl⟩) ?_
  rw [List.map_map]
  refine List.Nodup.map_on (fun p hp q hq e => ?_) (List.Nodup.of_map _ (placesAt_nodup off bs))
  have hp' := placesAt_fst off bs p hp
  have hq' := placesAt_fst off bs q hq
  exact List.inj_on_of_nodup_map (placesAt_nodup off bs) hp hq (aKey_inj core e (by omega) (by omega))

/-- The state in which a context has taken the oldest observation of a gate. -/
def State.afterObs (s : State) (g v : Word) (gt : Gate) (m : Msg) : State :=
  let σ := (s.setGate g.toNat gt).aWrite s.core s.ctx (descOff v) (m.data.take (descLen v))
  if s.ctx = Config.fwCtx then σ else σ.newPhase s.core s.ctx

theorem State.newPhase_shape (σ : State) (core slot : Nat) : ∃ f : Nat × Comb → Comb, (∀ p, (f p).width = p.2.width) ∧
    σ.newPhase core slot = σ.setCtx core slot { σ.ctxOf core slot with
      seen := [], vseen := [], combs := (σ.ctxOf core slot).combs.map fun p => (p.1, f p) } :=
  ⟨fun p => { p.2 with base := BitVec.ofNat 64 (σ.memNat p.1 p.2.width), vbase := BitVec.ofNat 64 (σ.memNat p.1 p.2.width) }, fun _ => rfl, rfl⟩

theorem State.afterObs_shape (s : State) (g v : Word) (gt : Gate) (m : Msg) : ∃ la sn vs cb,
    let c := { s.cx with liveA := la, seen := sn, vseen := vs, combs := cb }
    s.afterObs g v gt m = ({ s with gates := Tbl.set s.gates g.toNat gt, abuf := (((placesAt (descOff v) (m.data.take (descLen v))).map fun p =>
      (aKey s.core s.cx p.1, p.2)).foldl (fun t p => Tbl.set t p.1 p.2) s.abuf) } : State).setCx c
    ∧ (s.ctx ≠ Config.fwCtx → sn = [] ∧ ∃ f : Nat × Comb → Comb, (∀ p, (f p).width = p.2.width) ∧ cb = s.cx.combs.map fun p => (p.1, f p)) := by
  unfold State.afterObs
  dsimp only
  rw [State.aWrite_places]
  split
  next h => exact ⟨_, s.cx.seen, s.cx.vseen, s.cx.combs, rfl, fun hn => absurd h hn⟩
  next h =>
    obtain ⟨f, hf, he⟩ := State.newPhase_shape (State.setCtx _ s.core s.ctx _) s.core s.ctx
    rw [he, State.ctxOf_setCtx_same, State.setCtx_setCtx]
    exact ⟨_, _, _, _, rfl, fun _ => ⟨rfl, f, hf, rfl⟩⟩

theorem Tbl.find?_map_pair {α : Type} (l : Tbl α) (f : Nat × α → α) (k : Nat) :
    Tbl.find? (l.map fun p => (p.1, f p)) k = (Tbl.find? l k).map fun v => f (k, v) := by
  induction l with
  | nil => rfl
  | cons p l ih =>
    rw [List.map_cons]
    unfold Tbl.find?
    split
    next h => rw [← h]; rfl
    next => exact ih

theorem Ctx.combAt_map_none (c : Ctx) (f : Nat × Comb → Comb) (hf : ∀ p, (f p).width = p.2.width) (pa : Nat) (h : c.combAt pa = none) :
    ({ c with combs := c.combs.map fun p => (p.1, f p) } : Ctx).combAt pa = none := by
  unfold Ctx.combAt at h ⊢
  dsimp only
  rw [Tbl.find?_map_pair, Tbl.find?_map_pair]
  cases h8 : Tbl.find? c.combs (pa / 8 * 8) with
  | none =>
    rw [h8] at h
    rw [Option.map_eq_none_iff.mp h]
    rfl
  | some k =>
    rw [h8] at h
    dsimp only [Option.map_some] at h ⊢
    rw [hf]
    split at h
    · cases h
    next hw =>
      rw [if_neg hw, Option.map_eq_none_iff.mp h]
      rfl

/-- MBOBS.T with an observation queued. -/
theorem exec_mbobsT_some (s : State) (d a b : BitVec 5) (h : s.gateCheck (s.cx.sreg a.toNat) (s.cx.sreg b.toNat) false = .ok ()) (m : Msg) (r : List Msg)
    (hg : (s.gateOf (s.cx.sreg a.toNat).toNat).obs = m :: r) : exec (.mbobsT d a b) s =
      (s.afterObs (s.cx.sreg a.toNat) (s.cx.sreg b.toNat) (if Msg.kind m ≠ 1 then { s.gateOf (s.cx.sreg a.toNat).toNat with state := 1, acts := [], obs := [] }
        else { s.gateOf (s.cx.sreg a.toNat).toNat with obs := r }) m).retireS d m.hdr := by
  rw [show exec (.mbobsT d a b) s = execMbobsT d a b s from rfl]
  unfold execMbobsT
  dsimp only
  rw [show s.gateCheck (s.rs a) (s.rs b) false = .ok () from h]
  dsimp only
  rw [show (s.gateOf (s.rs a).toNat).obs = m :: r from hg]
  rfl

theorem gateCheck_fits (s : State) (g v : Word) (act : Bool) (h : s.gateCheck g v act = .ok ()) : descOff v + descLen v ≤ s.cx.asize := by
  unfold State.gateCheck failWith at h
  dsimp only at h
  split at h
  · cases h
  split at h
  · cases h
  split at h
  · cases h
  next hs => exact Nat.le_of_not_lt hs

/-- Settles O18: a Market word answers from its slice after the commit, a deposit feeds the parked words that match, and an observation is
taken from its gate into the window of A. -/
theorem marketAndObservations : Obligations.MarketAndObservations := by
  unfold Obligations.MarketAndObservations
  refine ⟨?_, ?_, ?_⟩
  · intro s g b m f x c key n hit ok kept got missed
    have hhit (tp : Tuple) : mkMatch x.frame m key tp = true ↔ hit tp := mkMatch_iff x.frame m key tp
    have hnot (tp : Tuple) (h : ¬hit tp) : mkMatch x.frame m key tp = false := Bool.eq_false_iff.mpr fun hm => h ((hhit tp).mp hm)
    have hnone (h : ∀ tp ∈ (c.sliceOf n).tuples, ¬hit tp) : (c.sliceOf n).find x.frame m key = none :=
      List.find?_eq_none.mpr fun tp ht => by rw [hnot tp (h tp ht)]; exact Bool.false_ne_true
    have hrd (h : ok .read) : exec (.mkrdT g b m f) s = c.mkAnswer g b m f false x.frame := by
      obtain ⟨hs, hg, hm, hx, ho⟩ := h
      exact s.mkTry_eq g b m f false x hs hg hm hx ho
    have htk (h : ok .rmw) : exec (.mktakeT g b m f) s = c.mkAnswer g b m f true x.frame := by
      obtain ⟨hs, hg, hm, hx, ho⟩ := h
      exact s.mkTry_eq g b m f true x hs hg hm hx ho
    refine ⟨fun h hno => ?_, fun h hno => ?_, fun l tp r hl hno ht hseal => ?_⟩
    · rw [hrd h]
      exact s.mkAnswer_none g b m f false x.frame (hnone hno)
    · rw [htk h]
      exact s.mkAnswer_none g b m f true x.frame (hnone hno)
    · obtain ⟨hfind, herase⟩ := MkSlice.find_eq_some (c.sliceOf n) x.frame m key l r tp hl (fun u hu => hnot u (hno u hu)) ((hhit tp).mpr ht)
      refine ⟨fun h => ?_, fun h => ?_⟩
      · obtain ⟨t, he, hgot, hmk⟩ := s.mkAnswer_some g b m f false x.frame tp h.2.1 hfind hseal
        exact ⟨t, (hrd h).trans he, hgot, hmk⟩
      · obtain ⟨t, he, hgot, hmk⟩ := s.mkAnswer_some g b m f true x.frame tp h.2.1 hfind hseal
        rw [if_pos rfl] at hmk
        refine ⟨t, (htk h).trans he, hgot, ?_, fun j hj => ?_⟩
        · rw [← herase]
          unfold State.sliceOf at hmk ⊢
          rw [hmk]
          exact Tbl.get_set_same _ _ _ _
        · unfold State.sliceOf at hmk ⊢
          rw [hmk]
          exact Tbl.get_set_ne _ _ _ hj
  · intro s g b x c key n hit hs hg hx ho hroom
    have hhit (p : Parked) : p.takes x.frame key = true ↔ hit p := p.takes_iff x.frame key
    have hnot (p : Parked) (h : ¬hit p) : p.takes x.frame key = false := Bool.eq_false_iff.mpr fun hm => h ((hhit p).mp hm)
    obtain ⟨hpc, hsreg, hmem, hother, hown, htasks, hag⟩ := s.mkDeposit_effected n x.frame key
    refine ⟨(s.commitHere.mkDeposit n x.frame key 0).effected (s.commitHere.mkDeposit n x.frame key 0).cx, exec_mkdep s g b x hs hg hx ho hroom, hpc, hsreg, hmem, hother, fun h => ?_, fun l p r hl hp ht hno hr => ?_⟩
    · have hst := c.mkDeposit_stored n x.frame key fun p hp hm => h p hp ((hhit p).mp hm)
      refine ⟨⟨_, (congrArg MkSlice.tuples (hown.trans hst)), rfl, rfl⟩, fun p => ?_, fun hno => ?_⟩
      · rw [show _ = (c.sliceOf n).stored x.frame key from hown.trans hst]
        refine List.mem_filter.trans (and_congr_right fun hp => ?_)
        rw [← hhit]
        cases hm : p.takes x.frame key
        · simp
        · rw [h p hp ((hhit p).mp hm)]
          simp
      · rw [show _ = (c.sliceOf n).stored x.frame key from hown.trans hst]
        refine List.filter_eq_self.mpr fun p hp => ?_
        rw [hnot p (hno p hp), Bool.not_false, Bool.or_true]
    · have htk := c.mkDeposit_taken n x.frame key l r p hl ((hhit p).mpr hp) ht (fun q hq => hnot q (hno q hq)) fun q hq hm => hr q hq ((hhit q).mp hm)
      have hsl : (c.mkDeposit n x.frame key 0).sliceOf n = { c.sliceOf n with parked := l ++ r } := by
        rw [htk]
        exact Tbl.get_set_same _ _ _ _
      refine ⟨(congrArg MkSlice.tuples hown).trans (by rw [hsl]), (congrArg MkSlice.parked hown).trans (by rw [hsl]), hag _ ?_, fun ar har => ?_⟩
      · rw [htk]
        exact c.deliverTuple_agenda p key
      · obtain ⟨ar', hc, hd⟩ := c.deliverTuple_cont p key ar har (by simp [key])
        refine ⟨ar', ?_, hd⟩
        rw [← hc]
        unfold State.taskOf
        rw [show _ = (c.mkDeposit n x.frame key 0).tasks from htasks, htk]
        rfl
  · intro s d a b g v gt len off h
    refine ⟨fun he => ?_, fun m r hm => ?_⟩
    · rw [show exec (.mbobsT d a b) s = execMbobsT d a b s from rfl]
      unfold execMbobsT
      dsimp only
      rw [show s.gateCheck (s.rs a) (s.rs b) false = .ok () from h]
      dsimp only
      rw [show (s.gateOf (s.rs a).toNat).obs = [] from he]
      rfl
    · obtain ⟨la, sn, vs, cb, hsh, huser⟩ := s.afterObs_shape g v (if Msg.kind m ≠ 1 then { gt with state := 1, acts := [], obs := [] } else { gt with obs := r }) m
      have hfit := gateCheck_fits s g v false h
      refine ⟨_, exec_mbobsT_some s d a b h m r hm, ?_⟩
      generalize hgt : (if Msg.kind m ≠ 1 then { gt with state := 1, acts := [], obs := [] } else { gt with obs := r }) = gt' at hsh
      rw [show s.cx.sreg b.toNat = v from rfl, hsh, State.setCx_setCx, State.cx_setCx, State.cx_setCx]
      obtain ⟨pc, ps, ha⟩ := Ctx.advance_shape ({ s.cx with liveA := la, seen := sn, vseen := vs, combs := cb }.setS d.toNat m.hdr)
      obtain ⟨ss, hss⟩ := Ctx.setS_shape { s.cx with liveA := la, seen := sn, vseen := vs, combs := cb } d.toNat m.hdr
      have hgate (t : State) (ht : t.gates = Tbl.set s.gates g.toNat gt') : t.gateOf g.toNat = gt' := by
        unfold State.gateOf
        rw [ht]
        exact Tbl.get_set_same _ _ _ _
      refine ⟨Ctx.setS_advance_sreg _ d m.hdr, (Ctx.setS_advance_pc _ _ _).trans (Ctx.advance_pc_congr rfl rfl rfl), fun _ => rfl, fun q hq => ?_,
        fun hw i hi hl => ?_, fun hs pa hh hc => ?_, fun hk => ?_, fun hk => ?_⟩
      · rw [Ctx.advance_sreg, Ctx.sreg_setS, if_neg fun hr => hq hr.1]
        rfl
      · rw [ha, hss]
        refine (congrArg (fun c => Tbl.get _ 0 (aKey s.core c (off + i))) (State.cx_setCx _ _)).trans ?_
        have hlen : i < (m.data.take (descLen v)).length := by
          rw [List.length_take]
          exact lt_min hl hi
        have hp := abuf_setPlaces s s.core s.ctx (descOff v) (m.data.take (descLen v))
          (by have := List.length_take_le (descLen v) m.data; omega) i hlen
        rw [descOff_eq] at hp ⊢
        refine hp.trans ?_
        rw [List.getD_eq_getElem _ _ hlen, List.getD_eq_getElem _ _ hi, List.getElem_take]
      · obtain ⟨rfl, f, hf, rfl⟩ := huser (by have : Config.fwCtx = 4 := rfl; omega)
        rw [ha, hss]
        have hcomb := Ctx.combAt_map_none s.cx f hf pa hc
        unfold State.lotByte
        rw [show Tbl.find? s.cx.held pa = none from hh]
        unfold Ctx.combAt at hcomb ⊢
        rw [hcomb]
        rfl
      · exact (hgate _ rfl).trans (hgt.symm.trans (if_neg (not_not.mpr hk)))
      · exact (hgate _ rfl).trans (hgt.symm.trans (if_pos hk))

/-- Settles O19, from the branches of the three words. -/
theorem givingWay : Obligations.GivingWay := by
  unfold Obligations.GivingWay
  intro s c others
  have hf (h : s.ctx < 4) : s.ctx ≠ Config.fwCtx := by
    have : Config.fwCtx = 4 := rfl
    omega
  refine ⟨fun hp hs ho => ?_, fun hp hs ho => ?_, fun hp hs => ?_, rfl, fun hp => ⟨?_, ?_⟩⟩
  · exact (if_neg (State.inSlot_eq_false hp)).trans ((if_neg (hf hs)).trans (if_pos ho))
  · exact (if_neg (State.inSlot_eq_false hp)).trans ((if_neg (hf hs)).trans (if_neg ho))
  · refine ((if_neg (State.inSlot_eq_false hp)).trans (if_neg (hf hs)) : exec .exit s = _).trans ?_
    dsimp only
    rw [s.commitHere_acting.1, s.commitHere_acting.2]
  · exact if_pos (decide_eq_true hp)
  · exact if_pos (decide_eq_true hp)

end Sys2Proof.Machine
end

section
/-! ## O54 to O56: the step, what reset leaves, the spec's worked words -/
namespace Sys2Proof.Machine

/-- Settles O56: the decoder is run on the words. -/
theorem decodeWords : Obligations.DecodeWords := by
  unfold Obligations.DecodeWords
  decide +kernel

/-! ### Reset -/

theorem reset_reg (b off : Nat) : State.reset.reg b off = barReset b off := rfl

/-- A table that holds nothing refuses every address as OUTSIDE. -/
theorem reset_xlate (vf k : Nat) (va : Word) (kind : Kind) (op : GOp) : xlate (State.reset.tableOf vf k) va kind op = failWith 4 va := by
  unfold xlate
  dsimp only
  split
  · rfl
  · exact if_pos rfl

theorem reset_scount : ({} : Ring).scount = 0 := by decide

/-- Settles O55: each table of the reset state is empty, so every unit has its default. -/
theorem resetState : Obligations.ResetState := by
  unfold Obligations.ResetState
  refine ⟨rfl, rfl, fun _ _ => ⟨rfl, rfl, rfl, rfl, rfl, fun _ => reset_scount, fun _ => rfl, rfl⟩, fun _ => ⟨rfl, rfl, rfl, rfl, rfl, rfl, rfl⟩, fun _ _ => rfl,
    fun _ _ => rfl, fun _ _ => ⟨rfl, rfl⟩, fun _ => rfl, reset_xlate, fun f => ?_, fun _ _ => ⟨rfl, rfl⟩, fun vf hvf => ?_, fun c hc => ?_, fun i hi => ?_,
    rfl, rfl, rfl, rfl, rfl⟩
  · show Frame.owner (if Config.hostFrame - 1024 ≤ f ∧ f < Config.hostFrame then { owner := 0 } else {}) = _
    rw [show Config.hostFrame = 2 ^ 18 from rfl]
    split <;> rfl
  · have hne : vf ≠ 0 := by omega
    simp only [reset_reg, barReset, if_neg hne]
    exact ⟨rfl, rfl, rfl⟩
  · rw [reset_reg, barReset, if_pos rfl, if_neg (by omega), if_pos (by omega), show (0x5000 + 8 * c - 0x5000) / 8 = c by omega]
  · rw [reset_reg, barReset, if_pos rfl, if_neg (by omega), if_neg (by omega), if_pos (by omega)]

/-! ### The step -/

section
variable {s : State} {rest : List Act}

/-- What an act does while the package runs and nothing holds it back. -/
def State.actNow (σ : State) : Act → Out
  | .select c => .next (σ.select c)
  | .selectVec c => .next (σ.selectVec c)
  | .ctl c k => σ.ctlWord c k
  | .vec c k => σ.engWord .vec c k
  | .mat c k => σ.engWord .mat c (k + 4)
  | .copy c n => σ.engWord .copy c (n + 8)
  | .rink n => if σ.rinkTime < (σ.rinkOf n).cycle then .next σ else σ.rinkStep n
  | .due d => match d with
    | .postedFault c k => σ.atBoundary c k d
    | .postedAbort c k => σ.atBoundary c k d
    | _ => perform d σ
  | .event i => exec i σ

theorem State.actNow_mat (σ : State) (c k : Nat) : σ.actNow (.mat c k) = σ.engWord .mat c (k + 4) := rfl
theorem State.actNow_copy (σ : State) (c k : Nat) : σ.actNow (.copy c k) = σ.engWord .copy c (k + 8) := rfl

/-- While the package runs, an act that is no launch, or a launch with nothing but launches behind it, is done. -/
theorem act_eq {σ : State} {a : Act} (h : σ.condition = 0) (hl : a.launch = true → ∀ b ∈ σ.agenda, b.launch = true) : σ.act a = σ.actNow a := by
  have hany : ¬((a.launch : Prop) ∧ (σ.agenda.any fun b => !b.launch) = true) := by
    rintro ⟨ha, hb⟩
    obtain ⟨b, hb, hn⟩ := List.any_eq_true.mp hb
    rw [hl ha b hb] at hn
    cases hn
  unfold State.act
  rw [if_neg (fun hc => hc.1 h), if_neg hany]
  cases a with
  | due d => cases d <;> rfl
  | _ => rfl

theorem step_eq {a : Act} (hc : s.condition = 0) (h : s.agenda = a :: rest) (hl : a.launch = true → ∀ b ∈ rest, b.launch = true) :
    step s = mapNext (State.observe s a) (({ s with agenda := rest } : State).actNow a) := by
  rw [← act_eq (σ := { s with agenda := rest }) hc hl]
  unfold step
  rw [h]

/-- The step of a control core's word. -/
theorem step_ctl {core ctx w : Nat} {s' : State} (hc : s.condition = 0) (h : s.agenda = .ctl core ctx :: rest)
    (hl : ({ s with agenda := rest, core := core, ctx := ctx } : State).ctxLive core ctx = true)
    (hw : ({ s with agenda := rest, core := core, ctx := ctx } : State).fetchCtl core ctx = .ok (w, s')) :
    step s = mapNext (State.observe s (.ctl core ctx)) (match decode .ctl w with
      | some i => exec i s'
      | none => s'.trapWith (badCtlCause ctx w)) := by
  rw [step_eq hc h (fun hn => by cases hn)]
  unfold State.actNow State.ctlWord
  dsimp only
  rw [hl, hw]
  rfl

/-- The step of an engine's word. -/
theorem step_engine {c : Cls} {core e w : Nat} {a : Act} {s' : State} {r : Run} (hc : s.condition = 0)
    (ha : c = .vec ∧ a = Act.vec core e ∨ c = .mat ∧ 4 ≤ e ∧ a = Act.mat core (e - 4) ∨ c = .copy ∧ 8 ≤ e ∧ a = Act.copy core (e - 8)) (h : s.agenda = a :: rest)
    (hr : (({ s with agenda := rest, core := core, eng := e } : State).engOf core e).run = some r) (hh : r.halted = false)
    (hl : ({ s with agenda := rest, core := core, eng := e } : State).engLive core e = true)
    (hw : ({ s with agenda := rest, core := core, eng := e } : State).fetchWord r.upc = .word w s') :
    step s = mapNext (State.observe s a) (if c = .copy ∧ w / 2 ^ 27 = 9 then
        (match s'.fetchWord (r.upc + 1) with
        | .stop o => o
        | .word f σ'' => σ''.runStep c (w + 2 ^ 32 * f))
      else s'.runStep c w) := by
  have hword : ({ s with agenda := rest } : State).engWord c core e = (if c = .copy ∧ w / 2 ^ 27 = 9 then
        (match s'.fetchWord (r.upc + 1) with
        | .stop o => o
        | .word f σ'' => σ''.runStep c (w + 2 ^ 32 * f))
      else s'.runStep c w) := by
    unfold State.engWord
    dsimp only
    rw [hr]
    dsimp only
    rw [hh, hl, hw]
    rfl
  obtain ⟨rfl, rfl⟩ | ⟨rfl, he, rfl⟩ | ⟨rfl, he, rfl⟩ := ha
  · exact (step_eq hc h (fun hn => by cases hn)).trans (congrArg _ hword)
  · rw [step_eq hc h (fun hn => by cases hn), ← hword, State.actNow_mat, Nat.sub_add_cancel he]
  · rw [step_eq hc h (fun hn => by cases hn), ← hword, State.actNow_copy, Nat.sub_add_cancel he]

theorem runStep_some {c : Cls} {w : Nat} {σ : State} {i : Instr} (h : decode c w = some i) : σ.runStep c w = exec i σ := by
  unfold State.runStep
  rw [h]

theorem runStep_none {c : Cls} {w : Nat} {σ : State} (h : decode c w = none) : σ.runStep c w = σ.badWord := by
  unfold State.runStep
  rw [h]

/-- The step of a Rink core's word. -/
theorem step_rink {n w : Nat} {s' : State} (hc : s.condition = 0) (h : s.agenda = .rink n :: rest) (ht : (s.rinkOf n).cycle ≤ s.rinkTime)
    (hw : (({ s with agenda := rest, rinkNo := n } : State).settleRink n).rinkFetch n = .ok w s') :
    step s = mapNext (State.observe s (.rink n)) (match decode .rink w with
      | some i => exec i s'
      | none => s'.rinkIllegal) := by
  rw [step_eq hc h (fun hn => by cases hn), show ({ s with agenda := rest } : State).actNow (.rink n) = _ from if_neg (Nat.not_lt.mpr ht)]
  unfold State.rinkStep
  dsimp only
  rw [hw] <;> rfl

/-- The step of what has become due, but for what is posted to a boundary. -/
theorem step_due {d : Due} {i : Instr} (hc : s.condition = 0) (hd : d.Names i) (h : s.agenda = .due d :: rest) (hp : ∀ c k, d ≠ .postedFault c k ∧ d ≠ .postedAbort c k)
    (hl : (Act.due d).launch = true → ∀ a ∈ rest, a.launch = true) : step s = mapNext (State.observe s (.due d)) (exec i { s with agenda := rest }) := by
  rw [step_eq hc h hl, ← perform_eq_exec hd]
  cases d with
  | postedFault c k => exact absurd rfl (hp c k).1
  | postedAbort c k => exact absurd rfl (hp c k).2
  | _ => rfl

/-- The step of what is posted to a boundary. -/
theorem step_posted {d : Due} {c k : Nat} (hc : s.condition = 0) (hd : d = .postedFault c k ∨ d = .postedAbort c k) (h : s.agenda = .due d :: rest) :
    step s = mapNext (State.observe s (.due d)) (({ s with agenda := rest } : State).atBoundary c k d) := by
  obtain rfl | rfl := hd
  · exact step_eq hc h (fun hn => by cases hn)
  · exact step_eq hc h (fun hn => by cases hn)

/-- A launch with something else behind it goes behind everything. -/
theorem step_launch_waits {g : Nat} (hc : s.condition = 0) (h : s.agenda = .due (.nodeLaunch g) :: rest) (hr : ∃ a ∈ rest, a.launch = false) :
    step s = .next (State.observe s (.due (.nodeLaunch g)) { s with agenda := rest ++ [.due (.nodeLaunch g)] }) := by
  obtain ⟨a, ha, hl⟩ := hr
  have hany : rest.any (fun b => !b.launch) = true := List.any_eq_true.mpr ⟨a, ha, by rw [hl]; rfl⟩
  unfold step State.act
  rw [h]
  dsimp only
  rw [if_neg (fun hn => hn.1 hc), if_pos ⟨rfl, hany⟩]
  rfl

end

/-- Settles O54: the step unfolds to the act at the head of the agenda, and that to the word's meaning, in each kind of act. -/
theorem stepRunsDecodedInstruction : Obligations.StepRunsDecodedInstruction := by
  unfold Obligations.StepRunsDecodedInstruction
  intro s rest hc
  refine ⟨?_, ?_, fun n w s' h ht hw => ?_, fun d i hd h hp hl => step_due hc hd h hp hl,
    fun g h hr => step_launch_waits hc h hr, ?_, fun i h => step_eq hc h (fun hn => by cases hn), fun h => ?_⟩
  · intro core ctx w s' h z hl hw
    have hs := step_ctl hc h hl hw
    refine ⟨fun i hi => ?_, fun hn => ?_⟩
    · rw [hi] at hs
      exact hs
    · rw [hn] at hs
      exact hs
  · intro core e w s' c a r ha h z hr hh hl hw
    have hs := step_engine hc ha h hr hh hl hw
    refine ⟨fun i hne hi => ?_, fun hne hn => ?_, fun i f s'' hcp h9 hf hi => ?_⟩
    · rw [if_neg hne, runStep_some hi] at hs
      exact hs
    · rw [if_neg hne, runStep_none hn] at hs
      exact hs
    · subst hcp
      rw [if_pos ⟨rfl, h9⟩, hf] at hs
      exact hs.trans (congrArg _ (runStep_some hi))
  · have hs := step_rink hc h ht hw
    refine ⟨fun i hi => ?_, fun hn => ?_⟩
    · rw [hi] at hs
      exact hs
    · rw [hn] at hs
      exact hs
  · intro d i c k hd hp h z see
    have hs := step_posted hc hp h
    refine ⟨fun hsent => ?_, fun hsent => ⟨fun hw => ?_, fun t ht => ?_⟩⟩
    · refine hs.trans (congrArg _ (if_pos ?_))
      exact Option.isSome_iff_ne_none.mpr hsent
    · refine hs.trans (congrArg _ ((if_neg ?_).trans ?_))
      · rw [show z.sentBy c k none = none from hsent]
        exact Bool.false_ne_true
      · rw [show ({ s with agenda := rest } : State).wordTraps c k = none from hw]
        exact perform_eq_exec hd z
    · have hb : z.atBoundary c k d = .next t := by
        refine (if_neg ?_).trans ?_
        · rw [show z.sentBy c k none = none from hsent]
          exact Bool.false_ne_true
        · rw [ht]
      rw [hs, hb]
      rfl
  · unfold step
    rw [h]

end Sys2Proof.Machine
end

section
/-! ## O50: the SPDM responder -/
namespace Sys2Proof.Machine

@[simp] theorem State.spdmOf_setSpdm (σ : State) (m : Nat) (v : Spdm) : (σ.setSpdm m v).spdmOf m = v := Tbl.get_set_same ..

/-- A request before its turn is answered with the error UnexpectedRequest. -/
theorem State.spdmAt_early {σ : State} {m phase : Nat} {k : Spdm → Out} (hm : m ≤ 64) (h : (σ.spdmOf m).phase < phase) :
    ∃ t, σ.spdmAt m phase k = .next t ∧ (t.spdmOf m).resp = 0x7F ∧ (t.spdmOf m).data = [4] ∧ (t.spdmOf m).phase = (σ.spdmOf m).phase := by
  refine ⟨_, (if_neg (Nat.not_lt.mpr hm)).trans (if_pos h), ?_⟩
  rw [State.spdmOf_setSpdm]
  exact ⟨rfl, rfl, rfl⟩

/-- A request in its turn is served. -/
theorem State.spdmAt_turn {σ : State} {m phase : Nat} {k : Spdm → Out} (hm : m ≤ 64) (h : phase ≤ (σ.spdmOf m).phase) :
    σ.spdmAt m phase k = k (σ.spdmOf m) :=
  (if_neg (Nat.not_lt.mpr hm)).trans (if_neg (Nat.not_lt.mpr h))

/-! ### The requests, each as a request in its turn -/

theorem exec_spdmGetVersion (σ : State) (m : Nat) :
    exec (.spdmGetVersion m) σ =
    σ.spdmAt m 0 fun _ => .next (σ.setSpdm m { phase := 1, resp := 0x04, data := [0x1400] }) := rfl

theorem exec_spdmGetCapabilities (σ : State) (m : Nat) :
    exec (.spdmGetCapabilities m) σ =
    σ.spdmAt m 1 fun s => .next (σ.setSpdm m { s with phase := max s.phase 2, resp := 0x61, data := [spdmCaps] }) := rfl

theorem exec_spdmNegotiateAlgorithms (σ : State) (m : Nat) (algs : Word) :
    exec (.spdmNegotiateAlgorithms m algs) σ =
    σ.spdmAt m 2 fun s =>
    if algs &&& spdmAlgs ≠ spdmAlgs then σ.spdmError m 1
    else .next (σ.setSpdm m { s with phase := max s.phase 3, algs := spdmAlgs, resp := 0x63, data := [spdmAlgs] }) := rfl

theorem exec_spdmGetDigests (σ : State) (m : Nat) :
    exec (.spdmGetDigests m) σ =
    σ.spdmAt m 3 fun s => .next (σ.setSpdm m { s with resp := 0x01, data := digestWords (Config.chainDigest σ.certs) }) := rfl

theorem exec_spdmGetCertificate (σ : State) (m slot : Nat) :
    exec (.spdmGetCertificate m slot) σ =
    σ.spdmAt m 3 fun s => if slot = 0 then .next (σ.setSpdm m { s with resp := 0x02, data := σ.certs.flatten }) else σ.spdmError m 1 := rfl

theorem exec_spdmChallenge (σ : State) (m : Nat) (_nonce : Word) :
    exec (.spdmChallenge m _nonce) σ =
    σ.spdmAt m 3 fun s => σ.spdmFree m s 0x03 8 := rfl

theorem exec_spdmGetMeasurements (σ : State) (m idx : Nat) :
    exec (.spdmGetMeasurements m idx) σ =
    σ.spdmAt m 3 fun s =>
    if idx = 255 then
      .next (σ.setSpdm m { s with resp := 0x60, data := ([1, 2, 3, 4, 5, 6, 7, 8, 16].filterMap (σ.measurement m)).flatten })
    else
      match σ.measurement m idx with
      | some l => .next (σ.setSpdm m { s with resp := 0x60, data := l })
      | none => σ.spdmError m 1 := rfl

theorem exec_spdmKeyExchange (σ : State) (m : Nat) (both : Bool) :
    exec (.spdmKeyExchange m both) σ =
    σ.spdmAt m 3 fun s =>
    if s.session ∨ 4 ≤ s.phase then σ.spdmError m 4 else σ.spdmFree m { s with phase := 4, bothKeys := both, keyNo := σ.fresh } 0x64 8 := rfl

theorem exec_spdmFinish (σ : State) (m : Nat) :
    exec (.spdmFinish m) σ =
    σ.spdmAt m 4 fun s => if s.session then σ.spdmError m 4 else .next (σ.setSpdm m { s with session := true, resp := 0x65, data := [] }) := rfl

theorem exec_spdmEndSession (σ : State) (m : Nat) :
    exec (.spdmEndSession m) σ =
    σ.spdmAt m 4 fun s =>
    if s.session then .next (σ.setSpdm m { s with phase := 3, session := false, bothKeys := false, resp := 0x6C, data := [] })
    else σ.spdmError m 4 := rfl

theorem exec_spdmUnsupported (σ : State) (m code : Nat) :
    exec (.spdmUnsupported m code) σ = σ.spdmAt m 0 fun _ => σ.spdmError m (7 + code % 256 * 256) := rfl

/-- What an answer leaves in the mailbox. -/
theorem State.spdm_answer (σ : State) (m : Nat) (v : Spdm) {o : Out} (h : o = .next (σ.setSpdm m v)) {P : Spdm → Prop} (hP : P v) :
    ∃ t, o = .next t ∧ P (t.spdmOf m) :=
  ⟨_, h, by rw [State.spdmOf_setSpdm]; exact hP⟩

theorem and_algs_eq (a : Word) : a &&& spdmAlgs = spdmAlgs ↔ a.toNat % 16 = 15 := by
  have h : (a &&& spdmAlgs).toNat = a.toNat % 16 := Nat.and_two_pow_sub_one_eq_mod a.toNat 4
  rw [← BitVec.toNat_inj, h]
  rfl

theorem digestWords_getD (d : BitVec 512) (i : Nat) (hi : i < 8) : (digestWords d).getD i 0 = BitVec.ofNat 64 (d.toNat / 2 ^ (64 * i)) := by
  unfold digestWords
  rw [List.getD_eq_getElem _ _ (by simpa using hi), List.getElem_map, List.getElem_range]

theorem measurement_vf (s : State) (m pt : Nat) (hm : m ≠ 0) (h : s.vfPart m = some pt) :
    s.measurement m 16 = some ([s.reg 0 (0x5100 + 8 * (m - 1)), s.reg 0 (0x2000 + 8 * (m - 1)), s.reg m 8]
      ++ ((List.range 32).filter fun c => (s.coreOf c).enabled && decide (s.partOf c = pt)).map fun c => s.reg 0 (0x5000 + 8 * c)) := by
  unfold State.measurement
  rw [if_neg (by omega), if_neg (by omega), if_neg (by omega), if_pos ⟨rfl, hm⟩, h]
  rfl

/-- Settles O50: each request is answered as its turn says, and what it measures is read from the state. -/
theorem attestation : Obligations.Attestation := by
  unfold Obligations.Attestation
  intro s m idx code algs nonce both hm p turn early
  have hearly {phase : Nat} {k : Spdm → Out} {i : Instr} (hi : exec i s = s.spdmAt m phase k) (h : p.phase < phase) : early i := by
    obtain ⟨t, ht, hr⟩ := s.spdmAt_early (k := k) hm h
    exact ⟨t, hi.trans ht, hr⟩
  have hturn {phase : Nat} {k : Spdm → Out} {i : Instr} (hi : exec i s = s.spdmAt m phase k) (h : phase ≤ p.phase) : exec i s = k p :=
    hi.trans (State.spdmAt_turn hm h)
  refine ⟨?_, fun h => ?_, fun h => ?_, fun h => ⟨?_, ?_, ?_, ?_, ?_⟩, fun h => ⟨?_, ?_⟩, fun h => ?_, fun h => ⟨fun ha => ?_, fun ha => ?_⟩,
    fun h => ⟨?_, ?_, fun hi => ?_, ?_, fun l hi hl => ?_, fun hi => ?_, fun hi hl => ?_⟩,
    rfl, fun hm => ?_, fun hm => ?_, fun pt hm hp => measurement_vf s m pt hm hp, fun h3 hs => ?_, fun h4 hs => ?_, fun h4 hs => ?_, ?_⟩
  · obtain ⟨t, he, hr, hd, hp, hs⟩ := s.spdm_answer m _ (hturn (exec_spdmGetVersion s m) (Nat.zero_le _))
      (P := fun v => v.resp = 4 ∧ v.data = [0x1400] ∧ v.phase = 1 ∧ v.session = false) ⟨rfl, rfl, rfl, rfl⟩
    exact ⟨t, ⟨he, hr, by rw [hd]; rfl⟩, hp, hs, hd⟩
  · exact hearly (exec_spdmGetCapabilities s m) h
  · exact hearly (exec_spdmNegotiateAlgorithms s m algs) h
  · exact hearly (exec_spdmGetDigests s m) h
  · exact hearly (exec_spdmGetCertificate s m idx) h
  · exact hearly (exec_spdmChallenge s m nonce) h
  · exact hearly (exec_spdmGetMeasurements s m idx) h
  · exact hearly (exec_spdmKeyExchange s m both) h
  · exact hearly (exec_spdmFinish s m) h
  · exact hearly (exec_spdmEndSession s m) h
  · obtain ⟨t, he, hr, hd, hp⟩ := s.spdm_answer m _ (hturn (exec_spdmGetCapabilities s m) h)
      (P := fun v => v.resp = 0x61 ∧ v.data = [0x3D6] ∧ 2 ≤ v.phase) ⟨rfl, rfl, le_max_right _ _⟩
    exact ⟨t, ⟨he, hr, by rw [hd]; rfl⟩, hp, hd⟩
  · obtain ⟨t, he, hr, hd, hp, hg⟩ := s.spdm_answer m _ ((hturn (exec_spdmNegotiateAlgorithms s m algs) h).trans (if_neg (not_not.mpr ((and_algs_eq algs).mpr ha))))
      (P := fun v => v.resp = 0x63 ∧ v.data = [15] ∧ 3 ≤ v.phase ∧ v.algs = 15) ⟨rfl, rfl, le_max_right _ _, rfl⟩
    exact ⟨t, ⟨he, hr, by rw [hd]; rfl⟩, hp, hd, hg⟩
  · obtain ⟨t, he, hr, hd, hp⟩ := s.spdm_answer m _ ((hturn (exec_spdmNegotiateAlgorithms s m algs) h).trans (if_pos (mt (and_algs_eq algs).mp ha)))
      (P := fun v => v.resp = 0x7F ∧ v.data = [1] ∧ v.phase = p.phase) ⟨rfl, rfl, rfl⟩
    exact ⟨t, ⟨he, hr, by rw [hd]; rfl⟩, hd, hp⟩
  · obtain ⟨t, he, hr, hd⟩ := s.spdm_answer m _ (hturn (exec_spdmGetDigests s m) h)
      (P := fun v => v.resp = 1 ∧ v.data = digestWords (Config.chainDigest s.certs)) ⟨rfl, rfl⟩
    exact ⟨t, ⟨he, hr, by rw [hd]; simp [digestWords]⟩, fun i hi => by rw [hd, digestWords_getD _ i hi]⟩
  · exact s.spdm_answer m _ ((hturn (exec_spdmGetCertificate s m 0) h).trans (if_pos rfl)) (P := fun v => v.resp = 2 ∧ v.data = s.certs.flatten) ⟨rfl, rfl⟩
  · obtain ⟨t, he, hr, hd⟩ := s.spdm_answer m _ ((hturn (exec_spdmGetCertificate s m idx) h).trans (if_neg hi)) (P := fun v => v.resp = 0x7F ∧ v.data = [1]) ⟨rfl, rfl⟩
    exact ⟨t, ⟨he, hr, by rw [hd]; rfl⟩, hd⟩
  · exact State.spdm_answer _ m _ (hturn (exec_spdmChallenge s m nonce) h) (P := fun v => v.resp = 3 ∧ v.data.length = 8) ⟨rfl, by simp⟩
  · refine s.spdm_answer m { p with resp := 0x60, data := l } ((hturn (exec_spdmGetMeasurements s m idx) h).trans ((if_neg hi).trans ?_))
      (P := fun v => v.resp = 0x60 ∧ v.data = l) ⟨rfl, rfl⟩
    rw [hl]
  · exact s.spdm_answer m _ ((hturn (exec_spdmGetMeasurements s m idx) h).trans (if_pos hi)) (P := fun v => v.resp = 0x60) rfl
  · refine s.spdm_answer m { p with resp := 0x7F, data := [1] } ((hturn (exec_spdmGetMeasurements s m idx) h).trans ((if_neg hi).trans ?_)) (P := fun v => v.resp = 0x7F) rfl
    rw [hl]
    rfl
  · exact (if_neg (by omega)).trans ((if_neg (by omega)).trans ((if_neg fun h => hm h.2).trans (if_neg (by omega))))
  · exact (if_neg (by omega)).trans ((if_neg (by omega)).trans ((if_neg (by omega)).trans (if_neg fun h => h.2 hm)))
  · obtain ⟨t, he, hr, hd, hp⟩ := State.spdm_answer _ m _ ((hturn (exec_spdmKeyExchange s m both) (le_of_eq h3.symm)).trans
      (if_neg (show ¬((p.session : Prop) ∨ 4 ≤ p.phase) by rw [hs, h3]; decide)))
      (P := fun v => v.resp = 0x64 ∧ v.data.length = 8 ∧ v.phase = 4 ∧ v.bothKeys = both ∧ v.session = false) ⟨rfl, by simp, rfl, rfl, hs⟩
    exact ⟨t, ⟨he, hr, hd⟩, hp⟩
  · obtain ⟨t, he, hr, hd, hp⟩ := s.spdm_answer m _ ((hturn (exec_spdmFinish s m) h4).trans (if_neg (show ¬(p.session : Prop) by rw [hs]; decide)))
      (P := fun v => v.resp = 0x65 ∧ v.data.length = 0 ∧ v.session = true ∧ v.bothKeys = p.bothKeys) ⟨rfl, rfl, rfl, rfl⟩
    exact ⟨t, ⟨he, hr, hd⟩, hp⟩
  · obtain ⟨t, he, hr, hd, hp⟩ := s.spdm_answer m _ ((hturn (exec_spdmEndSession s m) h4).trans (if_pos hs))
      (P := fun v => v.resp = 0x6C ∧ v.data.length = 0 ∧ v.session = false ∧ v.bothKeys = false) ⟨rfl, rfl, rfl, rfl⟩
    exact ⟨t, ⟨he, hr, hd⟩, hp⟩
  · exact s.spdm_answer m _ (hturn (exec_spdmUnsupported s m code) (Nat.zero_le _))
      (P := fun v => v.resp = 0x7F ∧ v.data = [BitVec.ofNat 64 (7 + code % 256 * 256)]) ⟨rfl, rfl⟩

end Sys2Proof.Machine
end

section
/-! ## O43: registers and gates -/
namespace Sys2Proof.Machine

/-! ### Notices -/

/-- What notices change: bytes written to rings, the rings' registers and counts, interrupts. -/
def State.Noticed (σ τ : State) : Prop :=
  ∃ f e w g b nw mp iq pw, τ = { σ with fcache := f, episodes := e, watches := w, agenda := g, bar := b, nwrite := nw, msixPending := mp, irqs := iq, pageWanted := pw }

theorem State.Noticed.refl (σ : State) : σ.Noticed σ := ⟨_, _, _, _, _, _, _, _, _, rfl⟩

theorem State.Noticed.trans {σ τ ρ : State} (h : σ.Noticed τ) (g : τ.Noticed ρ) : σ.Noticed ρ := by
  obtain ⟨_, _, _, _, _, _, _, _, _, rfl⟩ := h
  obtain ⟨_, _, _, _, _, _, _, _, _, rfl⟩ := g
  exact ⟨_, _, _, _, _, _, _, _, _, rfl⟩

theorem State.Noticed.pageWanted {σ τ : State} (h : σ.Noticed τ) (l : List (Nat × Nat × Nat)) : σ.Noticed { τ with pageWanted := l } := by
  obtain ⟨_, _, _, _, _, _, _, _, _, rfl⟩ := h
  exact ⟨_, _, _, _, _, _, _, _, _, rfl⟩

theorem State.WroteBytes.noticed {σ τ : State} (h : σ.WroteBytes τ) : σ.Noticed τ := by
  obtain ⟨_, _, _, _, rfl⟩ := h
  exact ⟨_, _, _, _, _, _, _, _, _, rfl⟩

theorem State.noticed_setReg (σ : State) (b off : Nat) (v : Word) : σ.Noticed (σ.setReg b off v) := ⟨_, _, _, _, _, _, _, _, _, rfl⟩

theorem State.noticed_raiseIrq (σ : State) (vf v : Nat) : σ.Noticed (σ.raiseIrq vf v) := by
  unfold State.raiseIrq
  split
  · exact ⟨_, _, _, _, _, _, _, _, _, rfl⟩
  · exact ⟨_, _, _, _, _, _, _, _, _, rfl⟩

theorem State.noticed_ringPost (σ : State) (b base rk : Nat) (place : Word → Chk Nat) (entry vf : Nat) : σ.Noticed (σ.ringPost b base rk place entry vf) := by
  unfold State.ringPost
  dsimp only
  split
  · exact .refl σ
  split
  · exact σ.noticed_setReg _ _ _
  split
  · exact σ.noticed_setReg _ _ _
  next pa _ =>
    have hw := (σ.writeNat_shape pa 32 entry).noticed
    refine (hw.trans ?_).trans (State.noticed_raiseIrq _ _ _)
    exact ⟨_, _, _, _, _, _, _, _, _, rfl⟩

theorem State.noticed_hyperNotice (σ : State) (code vf detail : Nat) : σ.Noticed (σ.hyperNotice code vf detail) := σ.noticed_ringPost ..

theorem State.noticed_vfNotice (σ : State) (vf code queue node detail : Nat) : σ.Noticed (σ.vfNotice vf code queue node detail) := by
  unfold State.vfNotice
  split
  · exact σ.noticed_ringPost ..
  · exact .refl σ

theorem State.noticed_foldl {β : Type} {f : State → β → State} (h : ∀ (σ : State) b, σ.Noticed (f σ b)) (l : List β) (σ : State) : σ.Noticed (l.foldl f σ) := by
  induction l generalizing σ with
  | nil => exact .refl σ
  | cons b l ih => exact (h σ b).trans (ih _)

theorem State.noticed_sealNotices (σ : State) (l : List Nat) : σ.Noticed (σ.sealNotices l) := by
  refine State.noticed_foldl (fun σ pa => ?_) _ σ
  exact (σ.noticed_hyperNotice _ _ _).trans (State.noticed_vfNotice _ _ _ _ _ _)

theorem State.noticed_notice (σ : State) (vf code queue node detail : Nat) : σ.Noticed (σ.notice vf code queue node detail) := by
  unfold State.notice
  have hv := σ.noticed_vfNotice vf code queue node detail
  dsimp only
  split
  · exact hv
  split
  · split
    · exact hv.trans (State.noticed_sealNotices _ _)
    · exact hv
  · exact hv

theorem State.noticed_pageWant (σ : State) (vf kind : Nat) (va : Word) (cow : Bool) : σ.Noticed (σ.pageWant vf kind va cow) := by
  unfold State.pageWant
  dsimp only
  split
  · exact .refl σ
  · exact (σ.noticed_notice _ _ _ _ _).pageWanted _

/-! ### The nodes that tasks are of -/

/-- Every node that was killed is, and every task is of the node it was of. -/
structure State.KeepsKills (σ τ : State) : Prop where
  killed : ∀ n, (σ.nodeOf n).killed = true → (τ.nodeOf n).killed = true
  node : ∀ t, (τ.taskOf t).node = (σ.taskOf t).node

theorem State.KeepsKills.refl (σ : State) : σ.KeepsKills σ := ⟨fun _ h => h, fun _ => rfl⟩

theorem State.KeepsKills.trans {σ τ ρ : State} (h : σ.KeepsKills τ) (g : τ.KeepsKills ρ) : σ.KeepsKills ρ :=
  ⟨fun n hn => g.killed n (h.killed n hn), fun t => (g.node t).trans (h.node t)⟩

theorem State.KeepsKills.of_eq {σ τ : State} (hn : τ.nodes = σ.nodes) (ht : τ.tasks = σ.tasks) : σ.KeepsKills τ := by
  refine ⟨fun n h => ?_, fun t => ?_⟩
  · unfold State.nodeOf at h ⊢
    rwa [hn]
  · unfold State.taskOf
    rw [ht]

theorem State.KeepsKills.then_eq {σ τ ρ : State} (h : σ.KeepsKills τ) (hn : ρ.nodes = τ.nodes) (ht : ρ.tasks = τ.tasks) : σ.KeepsKills ρ := h.trans (.of_eq hn ht)

theorem State.Noticed.keepsKills {σ τ : State} (h : σ.Noticed τ) : σ.KeepsKills τ := by
  obtain ⟨_, _, _, _, _, _, _, _, _, rfl⟩ := h
  exact .of_eq rfl rfl

theorem State.keepsKills_foldl {β : Type} {f : State → β → State} (h : ∀ (σ : State) b, σ.KeepsKills (f σ b)) (l : List β) (σ : State) : σ.KeepsKills (l.foldl f σ) := by
  induction l generalizing σ with
  | nil => exact .refl σ
  | cons b l ih => exact (h σ b).trans (ih _)

theorem State.keepsKills_setTask (σ : State) (t : Nat) (v : Task) (h : v.node = (σ.taskOf t).node) : σ.KeepsKills (σ.setTask t v) := by
  refine ⟨fun _ h => h, fun n => ?_⟩
  show (Tbl.get (Tbl.set σ.tasks t v) {} n).node = _
  rw [Tbl.get_set]
  split
  next hn => rw [hn, h]
  next => rfl

theorem State.keepsKills_setNode (σ : State) (n : Nat) (v : Node) (h : (σ.nodeOf n).killed = true → v.killed = true) : σ.KeepsKills (σ.setNode n v) := by
  refine ⟨fun m hm => ?_, fun _ => rfl⟩
  show (Tbl.get (Tbl.set σ.nodes n v) {} m).killed = _
  rw [Tbl.get_set]
  split
  next hn => exact h (hn ▸ hm)
  next => exact hm

theorem State.killNode_keepsKills (σ : State) (n cause : Nat) : σ.KeepsKills (σ.killNode n cause) ∧ ((σ.killNode n cause).nodeOf n).killed = true
    ∧ (σ.killNode n cause).gates = σ.gates := by
  unfold State.killNode
  dsimp only
  split
  next h => exact ⟨.refl σ, h, rfl⟩
  next h =>
    have hset := σ.keepsKills_setNode n { σ.nodeOf n with killed := true, cause := cause } fun _ => rfl
    have hn : ((σ.setNode n { σ.nodeOf n with killed := true, cause := cause }).nodeOf n).killed = true := congrArg Node.killed (Tbl.get_set_same ..)
    generalize hτ : σ.setNode n { σ.nodeOf n with killed := true, cause := cause } = τ at hset hn
    have hg : τ.gates = σ.gates := by rw [← hτ]; rfl
    have hnot : τ.Noticed ((σ.nodeOf n).qnotice τ 9 cause) := τ.noticed_notice ..
    obtain ⟨_, _, _, _, _, _, _, _, _, he⟩ := hnot
    rw [he]
    split
    · exact ⟨hset.trans (.of_eq rfl rfl), hn, hg⟩
    · exact ⟨hset.trans (.of_eq rfl rfl), hn, hg⟩

/-- Kills of the nodes of tasks, one after the other. -/
theorem State.killNodes (l : List Nat) (cause : Nat) (σ : State) :
    (l.foldl (fun σ t => σ.killNode (σ.taskOf t).node cause) σ).gates = σ.gates
      ∧ σ.KeepsKills (l.foldl (fun σ t => σ.killNode (σ.taskOf t).node cause) σ)
      ∧ ∀ t ∈ l, ((l.foldl (fun σ t => σ.killNode (σ.taskOf t).node cause) σ).nodeOf (σ.taskOf t).node).killed = true := by
  induction l generalizing σ with
  | nil => exact ⟨rfl, .refl σ, fun t ht => by cases ht⟩
  | cons u l ih =>
    obtain ⟨hk, hdead, hg⟩ := σ.killNode_keepsKills (σ.taskOf u).node cause
    obtain ⟨hg', hk', hall⟩ := ih (σ.killNode (σ.taskOf u).node cause)
    rw [List.foldl_cons]
    refine ⟨hg'.trans hg, hk.trans hk', fun t ht => ?_⟩
    obtain rfl | ht := List.mem_cons.mp ht
    · exact hk'.killed _ hdead
    · rw [← hk.node t]
      exact hall t ht

theorem State.keepsKills_serveGate (σ : State) (g : Nat) : σ.KeepsKills (σ.serveGate g) := by
  refine State.keepsKills_foldl (fun σ w => ?_) _ σ
  dsimp only
  split
  · exact .refl σ
  · refine State.KeepsKills.then_eq (τ := State.deliverMsg (State.setGate σ g _) g w.1 w.2 _) ?_ rfl rfl
    exact State.KeepsKills.trans (τ := State.setGate σ g _) (.of_eq rfl rfl) (State.keepsKills_setTask _ _ _ rfl)

theorem State.keepsKills_writeList (σ : State) (l : List (Nat × Byte)) : σ.KeepsKills (σ.writeList l) := (σ.writeList_shape l).noticed.keepsKills

theorem State.keepsKills_rinkPerform (σ : State) (vf : Nat) (l : List (Nat × Byte)) : σ.KeepsKills (σ.rinkPerform vf l) := by
  unfold State.rinkPerform
  dsimp only
  split
  · exact .refl σ
  · refine State.KeepsKills.trans ?_ (State.keepsKills_writeList _ _)
    exact .of_eq rfl rfl

theorem State.keepsKills_rinkFlush (σ : State) (n id : Nat) (keep : Bool) : σ.KeepsKills (σ.rinkFlush n id keep) := by
  unfold State.rinkFlush
  dsimp only
  split
  · exact .refl σ
  · exact State.KeepsKills.trans (τ := σ.setRink n _) (.of_eq rfl rfl) (State.keepsKills_rinkPerform _ _ _)

theorem State.writeQuiet_shape (σ : State) (l : List (Nat × Byte)) : σ.WroteBytes (σ.writeQuiet l) := by
  unfold State.writeQuiet State.retest
  rw [State.poke_fold_shape]
  exact ⟨_, _, _, _, rfl⟩

theorem State.noticed_descWrite (σ : State) (vf ep word v n : Nat) : σ.Noticed (σ.descWrite vf ep word v n) := by
  unfold State.descWrite
  dsimp only
  split
  · refine State.Noticed.trans ?_ (State.writeQuiet_shape _ _).noticed
    exact ⟨_, _, _, _, _, _, _, _, _, rfl⟩
  split
  · refine State.Noticed.trans ?_ (State.noticed_pageWant _ _ _ _ _)
    exact ⟨_, _, _, _, _, _, _, _, _, rfl⟩
  · exact ⟨_, _, _, _, _, _, _, _, _, rfl⟩

theorem State.keepsKills_endEpisode (σ : State) (vf ep reason value : Nat) : σ.KeepsKills (σ.endEpisode vf ep reason value) := by
  unfold State.endEpisode
  dsimp only
  split
  · exact .refl σ
  · refine State.KeepsKills.then_eq (τ := State.serveGate _ _) (.trans ?_ (State.keepsKills_serveGate _ _)) rfl rfl
    refine State.KeepsKills.then_eq (τ := State.descWrite _ _ _ _ _ _) ?_ rfl rfl
    refine State.KeepsKills.trans ?_ ((State.noticed_descWrite _ _ _ _ _ _).trans (State.noticed_descWrite _ _ _ _ _ _)).keepsKills
    have hset (τ : State) (c : Prop) [Decidable c] (n : Nat) (k : Rink) : τ.KeepsKills (if c then τ else τ.setRink n k) := by
      split
      · exact .refl τ
      · exact .of_eq rfl rfl
    refine State.KeepsKills.trans ?_ (hset _ _ _ _)
    refine State.KeepsKills.trans (τ := if (σ.epOf vf ep).state = 2 then σ.rinkFlush (σ.epOf vf ep).rink (vf * 4096 + ep) false else σ) ?_ (.of_eq rfl rfl)
    split
    · exact σ.keepsKills_rinkFlush _ _ _
    · exact .refl σ

/-! ### Registers -/

theorem State.reg_setReg_same (s : State) (b off : Nat) (v : Word) : (s.setReg b off v).reg b off = v &&& BitVec.ofNat 64 (regBits b off) :=
  Tbl.get_set_same ..

theorem State.reg_setReg_ne (s : State) (b off b' off' : Nat) (v : Word) (h : b * 2 ^ 24 + off ≠ b' * 2 ^ 24 + off') : (s.setReg b off v).reg b' off' = s.reg b' off' := by
  show Tbl.get (Tbl.set s.bar (b * 2 ^ 24 + off) _) (barReset b' off') (b' * 2 ^ 24 + off') = _
  exact Tbl.get_set_ne _ _ _ h.symm

theorem and_allOnes64 (v : Word) : v &&& BitVec.ofNat 64 (2 ^ 64 - 1) = v := BitVec.and_allOnes

/-- What NCTL takes: the low half of the value written, as far as its bits exist, under the count it had. -/
theorem State.reg_writeNctl (s : State) (bar rk : Nat) (v : Word) (hb : bar ≠ 0) : ((s.writeNctl bar 0x18 rk v).reg bar 0x18).toNat / 2 ^ 32 = (s.reg bar 0x18).toNat / 2 ^ 32
    ∧ ((s.writeNctl bar 0x18 rk v).reg bar 0x18).getLsbD 0 = v.getLsbD 0 := by
  have hbits : regBits bar 0x18 = 0xFFFFFFFF0003F01F := by
    unfold regBits
    rw [if_neg hb]
    rfl
  have hold := (s.reg bar 0x18).isLt
  unfold State.writeNctl
  dsimp only
  rw [State.reg_setReg_same, hbits]
  refine ⟨?_, ?_⟩
  · rw [BitVec.toNat_and, Nat.and_div_two_pow, BitVec.toNat_ofNat, BitVec.toNat_ofNat,
      show 0xFFFFFFFF0003F01F % 2 ^ 64 / 2 ^ 32 = 2 ^ 32 - 1 from rfl, Nat.and_two_pow_sub_one_eq_mod]
    omega
  · rw [BitVec.getLsbD_and, BitVec.getLsbD_ofNat, show (BitVec.ofNat 64 0xFFFFFFFF0003F01F).getLsbD 0 = true from rfl, Bool.and_true,
      show v.getLsbD 0 = v.toNat.testBit 0 from rfl, Nat.testBit_zero, Nat.testBit_zero, show decide (0 < 64) = true from rfl, Bool.true_and]
    exact decide_eq_decide.mpr (by omega)

theorem exec_registerWrite_vf (s : State) (bar off : Nat) (v : Word) (h1 : 1 ≤ bar) (h2 : bar ≤ 64) (h : off % 8 = 0) :
    exec (.registerWrite bar off v true) s = if off = 0x18 then .next (s.writeNctl bar off bar v) else if vfPlain off then .next (s.setReg bar off v) else .next s := by
  refine (if_neg (by omega)).trans ((if_neg (by omega)).trans ((if_neg (by omega)).trans ((if_neg ?_).trans (if_neg (by omega)))))
  rintro (hw | hb | ho)
  · cases hw
  · omega
  · exact ho h

theorem exec_registerWrite_misaligned (s : State) (bar off : Nat) (v : Word) (h2 : bar ≤ 64) (h : off % 8 ≠ 0) :
    exec (.registerWrite bar off v true) s = .next s :=
  (if_neg (by omega)).trans ((if_neg (by omega)).trans ((if_neg (by omega)).trans (if_pos (.inr (.inr h)))))

theorem exec_registerWrite_pf (s : State) (off : Nat) (v : Word) (h : off % 8 = 0) : exec (.registerWrite 0 off v true) s = .next (s.writePf off v) := by
  have hw : ¬((!true) = true ∨ 64 < 0 ∨ off % 8 ≠ 0) := by simp [h]
  show execRegisterWrite 0 off v true s = _
  unfold execRegisterWrite
  rw [if_neg (by decide), if_neg (by decide), if_neg (by decide), if_neg hw, if_pos rfl]

theorem writePf_plain (s : State) (off : Nat) (v : Word) (h8 : off < 0x8000) (hp : pfPlain off = true) (hn : ¬(0x5500 ≤ off ∧ off < 0x5D00 ∧ off % 64 = 0)) :
    s.writePf off v = s.setReg 0 off v := by
  have hne (o : Nat) (h : pfPlain o = false) : off ≠ o := fun e => by rw [e, h] at hp; cases hp
  have h1 := hne 0x3048 rfl
  have h2 := hne 0x6100 rfl
  have h3 := hne 0x2400 rfl
  have h4 := hne 0x4008 rfl
  have h5 := hne 0x4030 rfl
  have h6 := hne 0x5400 rfl
  unfold State.writePf
  dsimp only
  rw [if_neg h1, if_neg h2, if_neg (fun h => h3 h.1), if_neg (fun h => h4 h.1), if_neg (fun h => h5 h.1), if_neg (fun h => h6 h.1), hp, if_neg (by simp),
    if_neg (by omega), if_neg (by omega), if_neg fun h => hn ⟨h.1, h.2.1, h.2.2.1⟩]

/-! ### Gates -/

/-- UNBIND of a bound gate. -/
theorem exec_gateUnbind_bound (s : State) (v : Word) (h : (s.gateOf (v.toNat % 4096)).state ≠ 0) : ∃ t, exec (.gateUnbind v) s = .next t ∧ t.gateOf (v.toNat % 4096) = {}
    ∧ ∀ w ∈ (s.gateOf (v.toNat % 4096)).waiters, (t.nodeOf (s.taskOf w.1).node).killed = true := by
  let gt := s.gateOf (v.toNat % 4096)
  let σ := s.setGate (v.toNat % 4096) { gt with waiters := [] }
  let τ := if gt.state = 2 then σ.endEpisode gt.vf gt.episode 5 0 else σ
  let ρ := τ.setGate (v.toNat % 4096) {}
  have hτ : s.KeepsKills τ := by
    refine State.KeepsKills.trans (τ := σ) (.of_eq rfl rfl) ?_
    show σ.KeepsKills (if gt.state = 2 then σ.endEpisode gt.vf gt.episode 5 0 else σ)
    split
    · exact σ.keepsKills_endEpisode _ _ _ _
    · exact .refl σ
  have hρ : s.KeepsKills ρ := hτ.then_eq rfl rfl
  obtain ⟨hg, -, hall⟩ := State.killNodes (gt.waiters.map (·.1)) causeGateClosed ρ
  refine ⟨_, if_neg h, ?_, fun w hw => ?_⟩
  · refine (congrArg (fun g => Tbl.get g {} (v.toNat % 4096)) hg).trans ?_
    exact Tbl.get_set_same ..
  · rw [← hρ.node]
    exact hall w.1 (List.mem_map.mpr ⟨w, hw, rfl⟩)

/-- Settles O43: a register write goes by its BAR, its width and its offset; the gate commands by the gate's state. -/
theorem registersAndGates : Obligations.RegistersAndGates := by
  unfold Obligations.RegistersAndGates
  intro s bar off v
  refine ⟨fun h => ?_, fun h => ?_, fun h h8 => ?_, fun h1 h2 => ?_, fun hb ho h4 => ?_, fun h1 h2 h8 hne hp => ?_, fun h1 h2 hne hp => ?_, fun h8 hlt hp hn => ?_,
    fun h => ?_, s.reg_setReg_same bar off v, fun h1 h2 => ?_, ?_⟩
  · exact (if_neg (by omega)).trans ((if_neg (by omega)).trans ((if_neg (by omega)).trans (if_pos (.inl rfl))))
  · exact (if_neg (by omega)).trans (if_pos (.inl rfl))
  · exact (if_neg (by omega)).trans (if_pos (.inr (.inl h8)))
  · have hb : regBits bar 0x10 = 2 ^ 64 - 1 := by
      unfold regBits
      rw [if_neg (by omega)]
      rfl
    have hw : ¬((!true) = true ∨ 0x10 % 8 ≠ 0 ∨ 64 < bar) := by simp [h2]
    unfold State.readReg State.readVf
    rw [if_neg (by omega), if_neg hw, if_neg (by omega), if_neg (by decide), if_neg (by decide), if_neg (by decide), State.reg_setReg_same, hb]
    exact and_allOnes64 v
  · refine (if_pos (by omega)).trans (congrArg _ ((if_neg (by omega)).trans ((if_neg fun hw => Bool.false_ne_true hw.1).trans ?_)))
    rw [Nat.add_sub_cancel_left]
  · rw [exec_registerWrite_vf s bar off v h1 h2 h8, if_neg hne, if_pos hp]
  · by_cases h8 : off % 8 = 0
    · rw [exec_registerWrite_vf s bar off v h1 h2 h8, if_neg hne, hp]
      rfl
    · exact exec_registerWrite_misaligned s bar off v h2 h8
  · rw [exec_registerWrite_pf s off v h8, writePf_plain s off v hlt hp hn]
  · obtain rfl | rfl := h
    · rfl
    · rfl
  · obtain ⟨hu, hl⟩ := s.reg_writeNctl bar bar v (by omega)
    refine ⟨_, (exec_registerWrite_vf s bar 0x18 v h1 h2 rfl).trans (if_pos rfl), hu, hl, ?_⟩
    unfold State.writeNctl
    dsimp only
    split
    · exact Tbl.get_set_same ..
    · rfl
  · intro g vf gt
    have hvf : bits v.toNat 23 16 = vf := rfl
    refine ⟨fun h1 h2 h0 => ?_, fun h1 h2 h0 => ?_, fun h => if_pos h, fun h => if_pos h, fun h => exec_gateUnbind_bound s v h, _, rfl, ?_, fun _ => rfl⟩
    · exact (if_neg (by omega)).trans (if_neg (not_not.mpr h0))
    · exact (if_neg (by omega)).trans (if_pos h0)
    · refine (State.reg_setReg_ne _ _ _ _ _ _ (by decide)).trans ((State.reg_setReg_same _ _ _ _).trans ?_)
      exact and_allOnes64 _

end Sys2Proof.Machine
end

section
/-! ## O40: queues -/
namespace Sys2Proof.Machine

/-! ### What the ends of lots and tasks change -/

/-- A step of the scheduler: it changes contexts, units and their leases, tasks, nodes, Market slices, gates and what is due, and nothing of
memory, tables, registers, queues and graphs. -/
def State.LotStep (σ τ : State) : Prop := ∃ c e v f l y x t p g ld fr ao ho ar mk wt ag nd nt fs,
  τ = { σ with cores := c, engs := e, vecs := v, frags := f, links := l, copies := y, ctxs := x, tasks := t, pool := p, gates := g, landing := ld, fabReqs := fr, accown := ao, holder := ho, areas := ar, market := mk, watches := wt, agenda := ag, nodes := nd, nextTask := nt, fresh := fs }

theorem State.LotStep.of {σ : State} {c e v f l y x t p g ld fr ao ho ar mk wt ag nd nt fs} :
    σ.LotStep { σ with cores := c, engs := e, vecs := v, frags := f, links := l, copies := y, ctxs := x, tasks := t, pool := p, gates := g, landing := ld, fabReqs := fr, accown := ao, holder := ho, areas := ar, market := mk, watches := wt, agenda := ag, nodes := nd, nextTask := nt, fresh := fs } :=
  ⟨_, _, _, _, _, _, _, _, _, _, _, _, _, _, _, _, _, _, _, _, _, rfl⟩

theorem State.LotStep.refl (σ : State) : σ.LotStep σ := .of

theorem State.LotStep.trans {σ τ ρ : State} (h : σ.LotStep τ) (g : τ.LotStep ρ) : σ.LotStep ρ := by
  obtain ⟨_, _, _, _, _, _, _, _, _, _, _, _, _, _, _, _, _, _, _, _, _, rfl⟩ := h
  obtain ⟨_, _, _, _, _, _, _, _, _, _, _, _, _, _, _, _, _, _, _, _, _, rfl⟩ := g
  exact .of

theorem State.LotStep.foldl {β : Type} {f : State → β → State} (h : ∀ (σ : State) b, σ.LotStep (f σ b)) (l : List β) (σ : State) : σ.LotStep (l.foldl f σ) := by
  induction l generalizing σ with
  | nil => exact .refl σ
  | cons b l ih => exact (h σ b).trans (ih _)

theorem State.LeaseStep.lotStep {σ τ : State} (h : σ.LeaseStep τ) : σ.LotStep τ := by
  obtain ⟨_, _, _, _, _, _, _, _, _, rfl⟩ := h.shape
  exact .of

theorem State.LotStep.memByte {σ τ : State} (h : σ.LotStep τ) (a : Nat) : τ.memByte a = σ.memByte a := by
  obtain ⟨_, _, _, _, _, _, _, _, _, _, _, _, _, _, _, _, _, _, _, _, _, rfl⟩ := h
  rfl

theorem State.lotStep_ite {σ τ ρ : State} {c : Prop} [Decidable c] (h : σ.LotStep τ) (g : σ.LotStep ρ) : σ.LotStep (if c then τ else ρ) := by
  split
  · exact h
  · exact g

theorem State.lotStep_haltEngine (σ : State) (core e : Nat) : σ.LotStep (σ.haltEngine core e) := by
  unfold State.haltEngine
  dsimp only
  split
  · exact .of
  split
  · refine State.LotStep.trans (τ := List.foldl (fun σ l => State.emptyLink σ core l) _ _) (.trans ?_ (.foldl (fun σ l => .of) _ _)) .of
    exact .of
  · exact .of

theorem State.lotStep_haltEngines (σ : State) (core slot : Nat) : σ.LotStep (σ.haltEngines core slot) := by
  unfold State.haltEngines
  dsimp only
  exact State.LotStep.trans (.foldl (fun σ e => σ.lotStep_haltEngine core e) (σ.enginesOf core slot) σ) .of

theorem State.lotStep_drainCopy (σ : State) (core n : Nat) : σ.LotStep (σ.drainCopy core n) := by
  unfold State.drainCopy
  split
  · exact .of
  · exact .refl σ

theorem State.lotStep_detach (σ : State) (core slot : Nat) : σ.LotStep (σ.detach core slot) := by
  unfold State.detach
  dsimp only
  refine .trans (.foldl (fun σ k => ?_) _ σ) (.foldl (fun σ n => ?_) _ _)
  · exact State.lotStep_ite (State.lotStep_ite (State.leaseStep_fragFree _ _ _ _).lotStep .of) (.refl σ)
  · exact State.lotStep_ite (.trans .of (State.lotStep_drainCopy _ _ _)) (.refl σ)

theorem State.lotStep_returnLeases (σ : State) (core slot : Nat) : σ.LotStep (σ.returnLeases core slot) := by
  unfold State.returnLeases
  refine .trans (.trans ?_ (.foldl (fun σ n => (σ.leaseStep_returnCopy core n).lotStep) _ _)) (State.lotStep_detach _ _ _)
  exact .foldl (fun σ k => (σ.leaseStep_returnFrag core k).lotStep) _ _

theorem State.lotStep_recode (σ : State) (core slot code : Nat) (holder : Option Nat) : σ.LotStep (σ.recode core slot code holder) := by
  unfold State.recode
  refine .foldl (fun σ p => ?_) _ σ
  cases holder with
  | none => exact .of
  | some t => exact .of

theorem State.lotStep_freeSlot (σ : State) (core slot : Nat) : σ.LotStep (σ.freeSlot core slot) := .of

theorem State.lotStep_dropLot (σ : State) (core slot : Nat) : σ.LotStep (σ.dropLot core slot) := by
  unfold State.dropLot
  dsimp only
  exact .trans (.trans .of (State.lotStep_haltEngines _ core slot)) (State.lotStep_returnLeases _ core slot)

theorem State.lotStep_mkDeposit (σ : State) (n frame : Nat) (fields : List Word) (place : Nat) : σ.LotStep (σ.mkDeposit n frame fields place) := by
  unfold State.mkDeposit
  dsimp only
  have hall (ps : List Parked) : σ.LotStep (ps.foldl (fun σ p => σ.deliverTuple p fields) σ) := .foldl (fun σ p => .of) _ _
  split
  · exact (hall _).trans .of
  · exact State.LotStep.trans (τ := if place = 1 then State.tickFresh _ else _) (State.lotStep_ite (.trans (hall _) .of) (hall _)) .of

theorem State.lotStep_mkWithdraw (σ : State) (t : Nat) : σ.LotStep (σ.mkWithdraw t) := by
  unfold State.mkWithdraw
  dsimp only
  split
  · exact .trans .of (State.lotStep_mkDeposit _ _ _ _ _)
  · exact .of

theorem State.lotStep_copyFree (σ : State) (core n : Nat) : σ.LotStep (σ.copyFree core n) := .of

theorem State.lotStep_returnHeld (σ : State) (t : Nat) : σ.LotStep (σ.returnHeld t) := by
  unfold State.returnHeld
  dsimp only
  refine .trans (.foldl (fun σ p => ?_) _ σ) (.foldl (fun σ p => ?_) _ _)
  · exact State.lotStep_ite (State.leaseStep_fragFree _ _ _ _).lotStep (.refl σ)
  · exact State.lotStep_ite .of (.refl σ)

theorem State.lotStep_withdrawLeases (σ : State) (t : Nat) : σ.LotStep (σ.withdrawLeases t) := .trans .of (State.lotStep_returnHeld _ t)

theorem State.lotStep_freeHeld (σ : State) (t : Nat) : σ.LotStep (σ.freeHeld t) := by
  unfold State.freeHeld
  dsimp only
  refine .trans (.foldl (fun σ p => ?_) (σ.holder.filter fun p => decide (p.2 = t)) σ) .of
  exact State.lotStep_ite .of (.refl σ)

theorem State.lotStep_releaseArea (σ : State) (t : Nat) : σ.LotStep (σ.releaseArea t) := by
  unfold State.releaseArea
  dsimp only
  split
  · exact .of
  · exact .of

theorem State.lotStep_endTask (σ : State) (t : Nat) (st : TaskState) : σ.LotStep (σ.endTask t st) := by
  unfold State.endTask
  dsimp only
  refine .trans ?_ .of
  refine .trans ?_ (State.lotStep_releaseArea _ _)
  refine .trans ?_ (State.lotStep_freeHeld _ _)
  refine State.LotStep.trans (τ := State.withdrawLeases _ t) (.trans .of (State.lotStep_withdrawLeases _ _)) .of

theorem State.lotStep_serveGate (σ : State) (g : Nat) : σ.LotStep (σ.serveGate g) := by
  refine .foldl (fun σ w => ?_) _ σ
  dsimp only
  split
  · exact .refl σ
  · exact .of

theorem State.lotStep_nodeTick (σ : State) (n : Nat) : σ.LotStep (σ.nodeTick n) := by
  unfold State.nodeTick
  exact State.lotStep_ite (.refl σ) .of

/-! ### What queues and graphs keep -/

/-- Graphs and queues are as before, but for the notice that a queue's cancel has to give. -/
structure State.KeepsQueues (σ τ : State) : Prop where
  graphs : τ.graphs = σ.graphs
  queues : ∀ vf q, { τ.queueOf vf q with cancelAt := none } = { σ.queueOf vf q with cancelAt := none }

theorem State.KeepsQueues.of_eq {σ τ : State} (hg : τ.graphs = σ.graphs) (hq : τ.queues = σ.queues) : σ.KeepsQueues τ := by
  refine ⟨hg, fun vf q => ?_⟩
  unfold State.queueOf
  rw [hq]

theorem State.KeepsQueues.refl (σ : State) : σ.KeepsQueues σ := .of_eq rfl rfl

theorem State.KeepsQueues.trans {σ τ ρ : State} (h : σ.KeepsQueues τ) (g : τ.KeepsQueues ρ) : σ.KeepsQueues ρ :=
  ⟨g.graphs.trans h.graphs, fun vf q => (g.queues vf q).trans (h.queues vf q)⟩

theorem State.LotStep.keepsQueues {σ τ : State} (h : σ.LotStep τ) : σ.KeepsQueues τ := by
  obtain ⟨_, _, _, _, _, _, _, _, _, _, _, _, _, _, _, _, _, _, _, _, _, rfl⟩ := h
  exact .of_eq rfl rfl

theorem State.Noticed.keepsQueues {σ τ : State} (h : σ.Noticed τ) : σ.KeepsQueues τ := by
  obtain ⟨_, _, _, _, _, _, _, _, _, rfl⟩ := h
  exact .of_eq rfl rfl

theorem State.keepsQueues_foldl {β : Type} {f : State → β → State} (h : ∀ (σ : State) b, σ.KeepsQueues (f σ b)) (l : List β) (σ : State) :
    σ.KeepsQueues (l.foldl f σ) := by
  induction l generalizing σ with
  | nil => exact .refl σ
  | cons b l ih => exact (h σ b).trans (ih _)

theorem State.keepsQueues_settleQueue (σ : State) (vf q : Nat) : σ.KeepsQueues (σ.settleQueue vf q) := by
  unfold State.settleQueue
  dsimp only
  split
  · exact .refl σ
  split
  · refine State.KeepsQueues.trans (τ := σ.setQueue vf q { σ.queueOf vf q with cancelAt := none }) ⟨rfl, fun vf' q' => ?_⟩ (State.noticed_notice _ _ _ _ _ _).keepsQueues
    show { Tbl.get (Tbl.set σ.queues (vf * 64 + q) { σ.queueOf vf q with cancelAt := none }) {} (vf' * 64 + q') with cancelAt := none } = _
    rw [Tbl.get_set]
    split
    next h => unfold State.queueOf; rw [h]
    next => rfl
  · exact .refl σ

theorem State.keepsQueues_afterTask (σ : State) (t : Nat) : σ.KeepsQueues (σ.afterTask t) :=
  (σ.lotStep_nodeTick _).keepsQueues.trans (State.keepsQueues_settleQueue _ _ _)

theorem State.lotStep_endSlot (σ : State) (c k : Nat) : σ.LotStep ((((σ.haltEngines c k).returnLeases c k).recode c k 7 none).freeSlot c k) :=
  (((σ.lotStep_haltEngines c k).trans (State.lotStep_returnLeases _ c k)).trans (State.lotStep_recode _ c k 7 none)).trans (State.lotStep_freeSlot _ c k)

theorem State.keepsQueues_dropTask (σ : State) (t : Nat) (st : TaskState) : σ.KeepsQueues (σ.dropTask t st) := by
  unfold State.dropTask
  dsimp only
  refine .trans (State.LotStep.keepsQueues ?_) (State.keepsQueues_afterTask _ t)
  have hend := (σ.lotStep_mkWithdraw t).trans (State.lotStep_endTask (σ.mkWithdraw t) t st)
  generalize (σ.mkWithdraw t).endTask t st = ρ at hend ⊢
  have hslot (τ : State) (h : σ.LotStep τ) : σ.LotStep (match τ.slotOf t with
      | some (c, k) => (((τ.haltEngines c k).returnLeases c k).recode c k 7 none).freeSlot c k
      | none => τ) := by
    split
    · exact h.trans (State.lotStep_endSlot _ _ _)
    · exact h
  cases ((σ.taskOf t).cont.bind Area.msg).map (·.1) with
  | none => exact hslot ρ hend
  | some g => exact hslot _ (hend.trans (State.lotStep_serveGate ρ g))

theorem State.keepsQueues_cancelTask (σ : State) (t : Nat) : σ.KeepsQueues (σ.cancelTask t) := by
  unfold State.cancelTask State.endAny
  dsimp only
  split
  · exact .refl σ
  split
  · exact .refl σ
  split
  · split
    · exact .of_eq rfl rfl
    · exact σ.keepsQueues_dropTask _ _
  · exact σ.keepsQueues_dropTask _ _

theorem State.queueOf_setQueue_same (σ : State) (vf q : Nat) (x : Queue) : (σ.setQueue vf q x).queueOf vf q = x := Tbl.get_set_same ..

theorem State.queueOf_notice (σ : State) (vf q a b c d e : Nat) : (σ.notice a b c d e).queueOf vf q = σ.queueOf vf q := by
  obtain ⟨_, _, _, _, _, _, _, _, _, h⟩ := σ.noticed_notice a b c d e
  rw [h]
  rfl

theorem State.queueOf_haltQueue (σ : State) (vf q code detail : Nat) :
    (σ.haltQueue vf q code detail).queueOf vf q = ({ σ.queueOf vf q with halted := true } : Queue).update σ.nextGraph := by
  unfold State.haltQueue State.putQueue
  rw [State.queueOf_notice, State.queueOf_setQueue_same]

theorem State.feFill_shape (l : List Nat) (σ : State) : ∃ ts, σ.feFill l = { σ with tiles := ts } := by
  unfold State.feFill
  induction l generalizing σ with
  | nil => exact ⟨_, rfl⟩
  | cons pa l ih =>
    obtain ⟨ts, h⟩ := σ.fill_shape pa
    obtain ⟨ts', h'⟩ := ih (σ.fill pa)
    rw [List.foldl_cons, h', h]
    exact ⟨_, rfl⟩

theorem State.feFill_memByte (l : List Nat) (σ : State) (a : Nat) : (σ.feFill l).memByte a = σ.memByte a := by
  unfold State.feFill
  induction l generalizing σ with
  | nil => rfl
  | cons pa l ih => rw [List.foldl_cons, ih, State.memByte_fill]

/-! ### A queue's index and its commands -/

theorem State.memNat_congr {σ τ : State} (h : ∀ a, τ.memByte a = σ.memByte a) (pa n : Nat) : τ.memNat pa n = σ.memNat pa n := by
  unfold State.memNat
  rw [show τ.memByte = σ.memByte from funext h]

theorem State.feWords_congr {σ τ : State} (h : ∀ a, τ.memByte a = σ.memByte a) (l : List Nat) : τ.feWords l = σ.feWords l := by
  unfold State.feWords
  simp only [State.memNat_congr h]

theorem State.fePlace_bar (s : State) (b : Tbl Word) (k : Tbl Queue) (vf : Nat) (kind : Kind) (n : Nat) (va : Word) :
    ({ s with bar := b, queues := k } : State).fePlace vf kind va n = s.fePlace vf kind va n := by
  induction n generalizing va with
  | zero => rfl
  | succ n ih =>
    unfold State.fePlace
    rw [ih]
    rfl

theorem State.feAsk_ok {s : State} {vf : Nat} {kind : Kind} {va : Word} {n : Nat} {l : List Nat} : s.feAsk vf kind va n = .ok l ↔ s.fePlace vf kind va n = .ok l := by
  unfold State.feAsk
  cases s.fePlace vf kind va n with
  | ok m => simp
  | error e =>
    dsimp only
    split <;> simp

/-- What a read of the write index does with the word it found. -/
theorem State.readIndex_ok {s : State} {vf q : Nat} {l : List Nat} (he : (s.queueOf vf q).en = true)
    (h : s.feAsk vf .read (s.reg vf (qReg q 0x10)) 1 = .ok l) :
    let w := ((s.feWords l).headD 0).toNat
    let x := { s.queueOf vf q with kick := false }
    s.readIndex vf q = if x.start then (s.feFill l).putQueue vf q { x with start := false, ridx := w, windex := w }
      else if w < x.ridx ∨ x.ridx + 2 ^ s.qLog vf q < w then ((s.feFill l).setQueue vf q x).haltQueue vf q 4 x.ridx
      else (s.feFill l).setQueue vf q { x with windex := w } := by
  have hw : (s.feFill l).feWords l = s.feWords l := State.feWords_congr (s.feFill_memByte l) l
  have hl : (s.feFill l).qLog vf q = s.qLog vf q := by
    obtain ⟨ts, ht⟩ := s.feFill_shape l
    rw [ht]
    rfl
  unfold State.readIndex
  dsimp only
  rw [he, h, if_neg (by decide)]
  dsimp only
  rw [hw, hl]

theorem State.putQueue_spec (s : State) (vf q : Nat) (x : Queue) : (s.putQueue vf q x).queueOf vf q = x.update s.nextGraph ∧ SameMemory s (s.putQueue vf q x) :=
  ⟨State.queueOf_setQueue_same .., fun _ => rfl⟩

theorem qReg_ne_version (vf q off : Nat) : vf * 2 ^ 24 + qReg q off ≠ vf * 2 ^ 24 + 8 := by
  unfold qReg
  omega

/-- A queue that is enabled takes the write index for its read index, where it can be read. -/
theorem exec_queueCtlWrite_enable (s : State) (vf q : Nat) (v : Word) (l : List Nat) (hb : v.getLsbD 0 = true) (h4 : 4 ≤ v.toNat / 2 % 32) (h16 : v.toNat / 2 % 32 ≤ 16)
    (he : (s.queueOf vf q).en = false) (hv : versionFails (s.reg vf 8) = []) (ha : s.feAsk vf .read (s.reg vf (qReg q 0x10)) 1 = .ok l) :
    ∃ u, exec (.queueCtlWrite vf q v) s = .next u ∧ (u.queueOf vf q).en = true ∧ (u.queueOf vf q).start = false
      ∧ (u.queueOf vf q).ridx = ((s.feWords l).headD 0).toNat ∧ (u.queueOf vf q).windex = ((s.feWords l).headD 0).toNat := by
  let τ := (s.setReg vf (qReg q 8) (v &&& ~~~0x80001)).putQueue vf q
    { s.queueOf vf q with halted := (s.queueOf vf q).halted && !v.getLsbD 19, en := true, start := true }
  have hq : (τ.queueOf vf q).en = true ∧ (τ.queueOf vf q).start = true := by
    rw [(State.putQueue_spec _ vf q _).1]
    exact ⟨rfl, rfl⟩
  have hreg : τ.reg vf (qReg q 0x10) = s.reg vf (qReg q 0x10) := s.reg_setReg_ne _ _ _ _ _ (by unfold qReg; omega)
  have hask : τ.feAsk vf .read (τ.reg vf (qReg q 0x10)) 1 = .ok l := by
    rw [hreg]
    exact State.feAsk_ok.mpr ((s.fePlace_bar _ _ _ _ _ _).trans (State.feAsk_ok.mp ha))
  have hread := State.readIndex_ok hq.1 hask
  refine ⟨τ.readIndex vf q, ?_, ?_⟩
  · show execQueueCtlWrite vf q v s = _
    unfold execQueueCtlWrite
    dsimp only
    rw [hb, if_neg (by decide), State.reg_setReg_ne _ _ _ _ _ _ (qReg_ne_version vf q 8), hv]
    dsimp only
    rw [if_neg (by unfold bits; omega), he, if_neg (by decide)]
  · rw [hread]
    dsimp only
    rw [if_pos hq.2, (State.putQueue_spec _ vf q _).1]
    exact ⟨hq.1, rfl, rfl, rfl⟩

theorem Packet.afterCancel_spec {y p : Packet} (h : y.afterCancel = some p) :
    pktType (p.words.headD 0) ≠ 3 ∧ y.idx = p.idx ∧ y.words = p.words ∧ (pktType (p.words.headD 0) ≠ 1 → y = p) := by
  unfold Packet.afterCancel at h
  dsimp only at h
  split at h
  · cases h
  next h3 =>
    injection h with h
    subst h
    split
    next h1 => exact ⟨h3, rfl, rfl, fun hne => absurd h1.1 hne⟩
    next => exact ⟨h3, rfl, rfl, fun _ => rfl⟩

/-- A graph as the cancel of its queue leaves it. -/
def Graph.afterCancel (vf q : Nat) (p : Nat × Graph) : Nat × Graph :=
  if p.2.vf = vf ∧ p.2.queue = q ∧ !p.2.finished then (p.1, { p.2 with stopped := true, cancelled := true, ready := [] }) else p

/-- The write index that a cancel takes, none where it has to be read later. -/
def State.cancelIndex (s : State) (vf q : Nat) : Option Nat :=
  match s.fePlace vf .read (s.reg vf (qReg q 0x10)) 1 with
  | .ok l => some ((s.feWords l).headD 0).toNat
  | .error e => if e.cause = causeNonresident ∧ (s.queueOf vf q).en then none else some (s.queueOf vf q).windex

/-- A cancelled queue. -/
def Queue.cancelled (x : Queue) (w : Option Nat) : Queue :=
  { x with ridx := w.getD x.ridx, windex := w.getD x.ridx, kick := false, start := x.start || w.isNone, cancelAt := some x.ridx,
           packets := x.packets.filterMap Packet.afterCancel }

/-- The state of a cancel, before it reaches the queue's tasks. -/
def State.withCancel (s : State) (vf q : Nat) : State :=
  let σ := s.putQueue vf q ((s.queueOf vf q).cancelled (s.cancelIndex vf q))
  let waits := (s.queueOf vf q).packets.filter fun p => decide (pktType (p.words.headD 0) = 3)
  { σ with watches := σ.watches.filter (fun v => !(waits.any fun p => decide (v.packet = some (vf, q, p.idx)))), graphs := σ.graphs.map (Graph.afterCancel vf q) }

theorem State.keepsQueues_cancelQueue (s : State) (vf q : Nat) : (s.withCancel vf q).KeepsQueues (s.cancelQueue vf q) := by
  have hnodes (ns : List Nat) (σ : State) : σ.KeepsQueues (ns.foldl (fun σ n => σ.setNode n { σ.nodeOf n with cancelled := true }) σ) :=
    State.keepsQueues_foldl (fun σ n => .of_eq (τ := σ.setNode n { σ.nodeOf n with cancelled := true }) rfl rfl) ns σ
  have htasks (ts : List Nat) (σ : State) : σ.KeepsQueues (ts.foldl (fun σ t => σ.cancelTask t) σ) :=
    State.keepsQueues_foldl (fun σ t => σ.keepsQueues_cancelTask t) ts σ
  exact (hnodes _ _).trans ((htasks _ _).trans (State.keepsQueues_settleQueue _ vf q))

/-- What a cancel leaves of the queue and of the graphs. -/
theorem State.cancelQueue_spec (s : State) (vf q : Nat) :
    ((s.cancelQueue vf q).queueOf vf q).windex = (s.cancelIndex vf q).getD (s.queueOf vf q).ridx
    ∧ ((s.cancelQueue vf q).queueOf vf q).ridx = (s.cancelIndex vf q).getD (s.queueOf vf q).ridx ∧ ((s.cancelQueue vf q).queueOf vf q).kick = false
    ∧ ((s.cancelQueue vf q).queueOf vf q).packets = (s.queueOf vf q).packets.filterMap Packet.afterCancel
    ∧ (s.cancelQueue vf q).graphs = s.graphs.map (Graph.afterCancel vf q) := by
  have hk := s.keepsQueues_cancelQueue vf q
  have h := hk.queues vf q
  rw [show (s.withCancel vf q).queueOf vf q = ((s.queueOf vf q).cancelled (s.cancelIndex vf q)).update s.nextGraph from Tbl.get_set_same ..] at h
  injection h with h1 h2 h3 h4 h5 h6 h7
  exact ⟨h2, h4, h7, h1, hk.graphs⟩

/-- Settles O40: a kick and an enabling go by what the read of the write index answers; a cancel keeps what has started. -/
theorem queues : Obligations.Queues := by
  unfold Obligations.Queues
  intro s vf q v h1 h2 hq x ask
  refine ⟨fun he => ?_, fun l w he ha hw => ⟨fun hs hl hu => ?_, fun hs hn => ?_, fun hs => ?_⟩, fun u he ha => ?_, fun c u he ha => ?_, ?_, fun h => ?_, fun h => ?_,
    fun hb => ?_, fun hb => ?_⟩
  · show Host.Outcome.next (s.readIndex vf q) = _
    unfold State.readIndex
    dsimp only
    rw [show (s.queueOf vf q).en = false from he]
    rfl
  · have hr := State.readIndex_ok he ha
    dsimp only at hr
    rw [← hw, if_neg (by rw [hs]; decide), if_neg (not_or.mpr ⟨Nat.not_lt.mpr hl, Nat.not_lt.mpr hu⟩)] at hr
    refine ⟨_, congrArg Host.Outcome.next hr, ?_⟩
    rw [State.queueOf_setQueue_same]
    exact ⟨rfl, rfl, rfl, rfl, s.feFill_memByte l⟩
  · have hr := State.readIndex_ok he ha
    dsimp only at hr
    rw [← hw, if_neg (by rw [hs]; decide), if_pos hn] at hr
    refine ⟨_, congrArg Host.Outcome.next hr, ?_⟩
    rw [State.queueOf_haltQueue, State.queueOf_setQueue_same]
    exact ⟨rfl, rfl⟩
  · have hr := State.readIndex_ok he ha
    dsimp only at hr
    rw [← hw, if_pos hs] at hr
    refine ⟨_, congrArg Host.Outcome.next hr, ?_⟩
    rw [(State.putQueue_spec _ vf q _).1]
    exact ⟨rfl, rfl, rfl, s.feFill_memByte l⟩
  · show Host.Outcome.next (s.readIndex vf q) = _
    unfold State.readIndex
    dsimp only
    rw [show (s.queueOf vf q).en = true from he, show s.feAsk vf .read (s.reg vf (qReg q 0x10)) 1 = .wait u from ha]
    rfl
  · refine ⟨_, rfl, ?_⟩
    unfold State.readIndex
    dsimp only
    rw [show (s.queueOf vf q).en = true from he, show s.feAsk vf .read (s.reg vf (qReg q 0x10)) 1 = .bad c u from ha]
    dsimp only
    rw [if_neg (show ¬(!true) = true from by decide)]
    show if x.start then _ else _
    split
    next hs =>
      rw [State.queueOf_notice, (State.putQueue_spec _ vf q _).1]
      rfl
    next hs =>
      rw [State.queueOf_haltQueue]
      rfl
  · intro n agree
    have hlg : bits v.toNat 5 1 = n := rfl
    have hver : (s.setReg vf (qReg q 8) (v &&& ~~~0x80001)).reg vf 8 = s.reg vf 8 := s.reg_setReg_ne _ _ _ _ _ (qReg_ne_version vf q 8)
    let off : Queue := { x with halted := x.halted && !v.getLsbD 19, en := false, start := false, kick := false }
    have hoff := State.putQueue_spec (s.setReg vf (qReg q 8) (v &&& ~~~0x80001)) vf q off
    refine ⟨fun h => ⟨(s.setReg vf (qReg q 8) (v &&& ~~~0x80001)).putQueue vf q off, ?_, ?_, ?_, hoff.2⟩, fun hb h4 h16 hv he => ?_, fun b r hb hv => ?_,
      fun l hb h4 h16 he hv ha => exec_queueCtlWrite_enable s vf q v l hb h4 h16 he hv ha⟩
    · show execQueueCtlWrite vf q v s = _
      unfold execQueueCtlWrite
      dsimp only
      rw [hver]
      obtain hb | ⟨hn, hv⟩ := h
      · rw [hb]
        rfl
      · rw [show versionFails (s.reg vf 8) = [] from hv]
        dsimp only
        split
        · rfl
        · exact if_pos hn
    · rw [hoff.1]
      rfl
    · rw [hoff.1]
      rfl
    · refine ⟨(s.setReg vf (qReg q 8) (v &&& ~~~0x80001)).putQueue vf q { x with halted := x.halted && !v.getLsbD 19 }, ?_, ?_⟩
      · show execQueueCtlWrite vf q v s = _
        unfold execQueueCtlWrite
        dsimp only
        rw [hver, show versionFails (s.reg vf 8) = [] from hv, hb, if_neg (by decide)]
        dsimp only
        rw [if_neg (by omega), if_pos (show (s.queueOf vf q).en = true from he)]
      · obtain ⟨hx, hm⟩ := State.putQueue_spec (s.setReg vf (qReg q 8) (v &&& ~~~0x80001)) vf q { x with halted := x.halted && !v.getLsbD 19 }
        rw [hx]
        exact ⟨he, rfl, rfl, hm⟩
    · refine ⟨_, (s.setReg vf (qReg q 8) (v &&& ~~~0x80001)).putQueue vf q off, ?_, ?_, rfl, hoff.2⟩
      · show execQueueCtlWrite vf q v s = _
        unfold execQueueCtlWrite
        dsimp only
        rw [hver, hv, hb, if_neg (by decide)]
      · rw [State.queueOf_notice, hoff.1]
        rfl
  · exact if_pos (List.any_eq_true.mpr (h.imp fun j hj => ⟨List.mem_range.mpr hj.1, hj.2⟩))
  · refine if_neg fun hany => ?_
    obtain ⟨j, hj, he⟩ := List.any_eq_true.mp hany
    rw [h j (List.mem_range.mp hj)] at he
    cases he
  · show Host.Outcome.next (if v.getLsbD 0 then _ else s) = _
    rw [hb]
    rfl
  · obtain ⟨hwi, hri, hk, hp, hg⟩ := s.cancelQueue_spec vf q
    refine ⟨s.cancelQueue vf q, congrArg _ (if_pos hb), hwi.trans hri.symm, hk, fun l hl => ?_, fun p hm => ?_, fun p hm hvf hqq hf => ?_⟩
    · rw [hri]
      unfold State.cancelIndex
      rw [show s.fePlace vf .read (s.reg vf (qReg q 0x10)) 1 = .ok l from hl]
      rfl
    · rw [hp] at hm
      obtain ⟨y, hy, hyp⟩ := List.mem_filterMap.mp hm
      obtain ⟨h3, hrest⟩ := Packet.afterCancel_spec hyp
      exact ⟨h3, y, hy, hrest⟩
    · rw [hg] at hm
      obtain ⟨y, -, rfl⟩ := List.mem_map.mp hm
      unfold Graph.afterCancel at hvf hqq hf ⊢
      split at hvf
      next h => rw [if_pos h]; exact ⟨rfl, rfl⟩
      next h =>
        rw [if_neg h] at hqq hf
        exact absurd ⟨hvf, hqq, by rw [hf]; rfl⟩ h

end Sys2Proof.Machine
end

section
/-! ## O41: a notice that a watch waits for -/
namespace Sys2Proof.Machine

/-- VF 1 has its notice ring in granule 0 of its queue table, where a word is watched, and a WAIT packet on granule 1, which is not resident. -/
def watchedRing : State :=
  { tables := [(5, { valid := true, entries := [(0, 0x5116), (1, 0x6106)] })], frames := [(5, { owner := 1 })], bar := [(2 ^ 24 + 0x18, 9)],
    queues := [(64, { packets := [{ idx := 0, words := [] }] })], watches := [{ pa := 5 * 2 ^ 21, cond := 1, value := 0 }] }

/-- Refutes O41: the WAIT's access waits for its page, and the PAGE_WANTED notice is written to the word that the watch is on, which ends
the watch: the watches are not as before. -/
theorem not_packets : ¬ Obligations.Packets := by
  intro h
  obtain ⟨-, -, hp, -⟩ := h watchedRing 0 1 0 0 (2 ^ 21) 0 0
  obtain ⟨-, -, -, -, -, hwait, -⟩ := hp { idx := 0, words := [] } rfl rfl
  have hask : watchedRing.feAsk 1 .read (2 ^ 21) 1 = .wait (watchedRing.pageWant 1 1 (2 ^ 21) false) := by rfl
  obtain ⟨-, -, hw⟩ := hwait 0 _ hask
  exact absurd hw (by decide +kernel)

end Sys2Proof.Machine
end

section
/-! ## O42: graphs -/
namespace Sys2Proof.Machine

@[simp] theorem State.graphOf_setGraph_same (s : State) (g : Nat) (v : Graph) : (s.setGraph g v).graphOf g = v := Tbl.get_set_same ..

theorem State.graphOf_setNode (s : State) (n g : Nat) (v : Node) : (s.setNode n v).graphOf g = s.graphOf g := rfl

/-- A graph that goes on is not ended. -/
theorem State.graphEnd_running {s : State} {g : Nat} (h : (s.graphOf g).done.length ≠ (s.graphOf g).nodes) (hs : (s.graphOf g).stopped = false) : s.graphEnd g = s := by
  unfold State.graphEnd
  dsimp only
  rw [if_pos]
  refine .inr ?_
  rw [hs, decide_eq_false h]
  rfl

theorem State.graphEnd_new (τ : State) (g n : Nat) (gr : Graph) (hd : gr.done.length ≠ gr.nodes) (hs : gr.stopped = false) :
    ({ τ.setGraph g gr with nextGraph := n } : State).graphEnd g = { τ.setGraph g gr with nextGraph := n }
    ∧ ({ τ.setGraph g gr with nextGraph := n } : State).graphOf g = gr := by
  have hg : ({ τ.setGraph g gr with nextGraph := n } : State).graphOf g = gr := Tbl.get_set_same ..
  exact ⟨State.graphEnd_running (by rwa [hg]) (by rwa [hg]), hg⟩

theorem State.packetOf_setPacket {s : State} {vf q idx : Nat} {p r : Packet} (h : s.packetOf vf q idx = some p) (hr : r.idx = idx) :
    (s.setPacket vf q r).packetOf vf q idx = some r := by
  unfold State.packetOf State.setPacket at *
  rw [State.queueOf_setQueue_same]
  dsimp only
  generalize (s.queueOf vf q).packets = l at h ⊢
  induction l with
  | nil => cases h
  | cons y l ih =>
    rw [List.map_cons]
    by_cases hy : y.idx = idx
    · rw [if_pos (hy.trans hr.symm), List.find?_cons, decide_eq_true hr]
    · rw [if_neg (fun e => hy (e.trans hr)), List.find?_cons, decide_eq_false hy]
      rw [List.find?_cons, decide_eq_false hy] at h
      exact ih h

theorem State.packetOf_idx {s : State} {vf q idx : Nat} {p : Packet} (h : s.packetOf vf q idx = some p) : p.idx = idx := by
  unfold State.packetOf at h
  simpa using List.find?_some h

/-- A graph's head is a node count of at least one. -/
theorem graphHeadBad_none {w : Nat → Nat} (h : graphHeadBad w = none) : bits (w 0) 31 16 ≠ 0 := by
  unfold graphHeadBad at h
  split at h
  · cases h
  split at h
  · cases h
  split at h
  · cases h
  next hn => exact fun h0 => hn (.inl h0)

theorem State.feFill_nextGraph (s : State) (l : List Nat) : (s.feFill l).nextGraph = s.nextGraph ∧ (s.feFill l).hostMode = s.hostMode ∧ (s.feFill l).queues = s.queues := by
  obtain ⟨ts, h⟩ := s.feFill_shape l
  rw [h]
  exact ⟨rfl, rfl, rfl⟩

/-- A LAUNCH_GRAPH whose tables are there and pass their checks. -/
theorem exec_packetLaunchGraph_ok {s : State} {vf q idx : Nat} {gtab csig cval : Word} {p : Packet} {l l' : List Nat} (hp : s.packetOf vf q idx = some p)
    (h0 : p.state = 0) (hc : csig = 0 ∨ ∃ k, s.feAsk vf .write csig 1 = .ok k) (hl : s.feAsk vf .read gtab 8 = .ok l)
    (hh : graphHeadBad (fun k => ((s.feWords l).getD k 0).toNat) = none)
    (hl' : (s.feFill l).feAsk vf .read gtab (8 + 32 * bits ((s.feWords l).headD 0).toNat 31 16) = .ok l')
    (hb : graphBad (s.feWords l') (bits ((s.feWords l).headD 0).toNat 31 16) = none) :
    let τ := (s.feFill l).feFill l'
    let gr := makeGraph vf q idx gtab csig cval (s.hostMode vf 3) (s.feWords l') (bits ((s.feWords l).headD 0).toNat 31 16)
    exec (.packetLaunchGraph vf q idx gtab csig cval) s = .next (({ ((τ.setPacket vf q { p with state := 2, graph := some s.nextGraph }).setGraph s.nextGraph gr) with
      nextGraph := s.nextGraph + 1 } : State).graphEnd s.nextGraph) := by
  intro τ gr
  have hw : (s.feFill l).feWords l = s.feWords l := State.feWords_congr (s.feFill_memByte l) l
  have hw' : τ.feWords l' = s.feWords l' := State.feWords_congr (fun a => (State.feFill_memByte l' _ a).trans (s.feFill_memByte l a)) l'
  have hn : τ.nextGraph = s.nextGraph := (State.feFill_nextGraph _ l').1.trans (s.feFill_nextGraph l).1
  have hm : τ.hostMode vf 3 = s.hostMode vf 3 := congrFun (congrFun ((State.feFill_nextGraph _ l').2.1.trans (s.feFill_nextGraph l).2.1) vf) 3
  have hask : ∃ k, (if csig = 0 then FeOut.ok [] else s.feAsk vf .write csig 1) = .ok k := by
    split
    next => exact ⟨_, rfl⟩
    next h => exact hc.resolve_left h
  obtain ⟨k, hk⟩ := hask
  show execPacketLaunchGraph vf q idx gtab csig cval s = _
  unfold execPacketLaunchGraph State.withPacket
  rw [hp]
  dsimp only
  rw [if_pos h0, hk]
  dsimp only
  rw [hl]
  dsimp only
  rw [hw, hh]
  dsimp only
  rw [hl']
  dsimp only
  rw [show ((s.feFill l).feFill l').feWords l' = s.feWords l' from hw', hb]
  dsimp only
  rw [show ((s.feFill l).feFill l').nextGraph = s.nextGraph from hn, show ((s.feFill l).feFill l').hostMode vf 3 = s.hostMode vf 3 from hm]

/-- The launch of the head of a graph's ready queue. -/
theorem exec_nodeLaunch_head {s : State} {g i : Nat} (hs : (s.graphOf g).stopped = false) (hf : (s.graphOf g).finished = false)
    (hm : s.mayLaunch (s.graphOf g).vf = true) (hi : (s.graphOf g).head = some i) :
    exec (.nodeLaunch g) s =
      (let gr := s.graphOf g
       let ws := Tbl.get gr.hdrs [] i
       let gr := { gr with ready := gr.ready.filter fun j => decide (j ≠ i) }
       match s.headerBad gr.vf ws with
       | some off => .next (((s.setGraph g gr).graphStop g 1 i off).graphEnd g)
       | none =>
        let n := s.nextNode
        let t := s.nextTask
        let nd := { headerNode ws with vf := gr.vf, queue := gr.queue, prio := Tbl.get gr.prio 0 i, graph := some g, index := i }
        let nd := { nd with lots := nd.lotCount }
        let σ := (s.setGraph g { gr with launched := Tbl.set gr.launched i n }).setNode n nd
        let σ := (σ.setTask t { node := n, hi := nd.lots }).poolAdd t
        .next { σ with nextNode := n + 1, nextTask := t + 1 }) := by
  show execNodeLaunch g s = _
  unfold execNodeLaunch
  dsimp only
  rw [hs, hf, hm, if_neg (by decide), hi] <;> rfl

/-- The node that the launch of a graph's node makes. -/
def Graph.nodeAt (gr : Graph) (g i : Nat) : Node :=
  let nd := { headerNode (Tbl.get gr.hdrs [] i) with vf := gr.vf, queue := gr.queue, prio := Tbl.get gr.prio 0 i, graph := some g, index := i }
  { nd with lots := nd.lotCount }

/-- The graph after the launch. -/
def Graph.launchedAt (gr : Graph) (i n : Nat) : Graph := { gr with ready := gr.ready.filter (fun j => decide (j ≠ i)), launched := Tbl.set gr.launched i n }

theorem exec_nodeLaunch_ok {s : State} {g i : Nat} (hs : (s.graphOf g).stopped = false) (hf : (s.graphOf g).finished = false)
    (hm : s.mayLaunch (s.graphOf g).vf = true) (hi : (s.graphOf g).head = some i) (hb : s.headerBad (s.graphOf g).vf (Tbl.get (s.graphOf g).hdrs [] i) = none) :
    ∃ u, exec (.nodeLaunch g) s = .next u ∧ u.graphs = Tbl.set s.graphs g ((s.graphOf g).launchedAt i s.nextNode)
      ∧ u.nodes = Tbl.set s.nodes s.nextNode ((s.graphOf g).nodeAt g i)
      ∧ u.tasks = Tbl.set s.tasks s.nextTask { node := s.nextNode, hi := ((s.graphOf g).nodeAt g i).lots } ∧ u.pool = s.pool ++ [s.nextTask]
      ∧ u.nextNode = s.nextNode + 1 ∧ u.nextTask = s.nextTask + 1 ∧ SameMemory s u := by
  have he := exec_nodeLaunch_head hs hf hm hi
  dsimp only at he
  rw [hb] at he
  dsimp only at he
  refine ⟨_, he, rfl, rfl, rfl, rfl, rfl, rfl, fun a => State.memByte_congr ?_ ?_ ?_ a⟩
  · rfl
  · rfl
  · rfl

/-- The end of a graph leaves the graph stopped where it is, and starts nothing. -/
theorem State.graphEnd_stopped (s : State) (g : Nat) (hs : (s.graphOf g).stopped = true) :
    ((s.graphEnd g).graphOf g).stopped = true ∧ (s.graphEnd g).nextTask = s.nextTask := by
  unfold State.graphEnd
  dsimp only
  split
  · exact ⟨hs, rfl⟩
  · rw [if_pos (.inr (.inr hs))]
    have hset : ((s.setGraph g { s.graphOf g with finished := true }).graphOf g).stopped = true := by
      rw [State.graphOf_setGraph_same]
      exact hs
    split
    · split
      · exact ⟨hset, rfl⟩
      · exact ⟨hset, rfl⟩
    · exact ⟨hset, rfl⟩

theorem Graph.decrement_shape {gr x : Graph} {k : Nat} (h : gr.decrement k = some x) : ∃ c r, x = { gr with counts := c, ready := r } := by
  unfold Graph.decrement at h
  split at h
  · cases h
  · injection h with h
    exact ⟨_, _, h.symm⟩

theorem Graph.decrements_shape (l : List Nat) {gr x : Graph} {o : Option Nat} (h : gr.decrements l = (x, o)) : ∃ c r, x = { gr with counts := c, ready := r } := by
  induction l generalizing gr with
  | nil =>
    injection h with h
    exact ⟨_, _, h.symm⟩
  | cons k l ih =>
    unfold Graph.decrements at h
    cases hd : gr.decrement k with
    | none =>
      rw [hd] at h
      injection h with h
      exact ⟨_, _, h.symm⟩
    | some y =>
      rw [hd] at h
      obtain ⟨c, r, rfl⟩ := Graph.decrement_shape hd
      obtain ⟨c', r', rfl⟩ := ih h
      exact ⟨c', r', rfl⟩

/-- Settles O42, from what each step does with its graph. -/
theorem graphs : Obligations.Graphs := by
  unfold Obligations.Graphs
  intro s vf q idx g n gtab csig cval v gr nd
  refine ⟨fun p l l' hp h0 hc hl hh hl' hb => ?_, fun i hs hf hm hi hb => ?_, fun i off hs hf hm hi hb => ?_, fun h => ?_, fun h => ?_,
    fun gr' hf hc hk hg hs hfin has hd hlen => ?_, fun k hk => ?_, fun k m hk => ?_, ?_⟩
  · have he := exec_packetLaunchGraph_ok (cval := cval) hp h0 hc hl hh hl' hb
    dsimp only at he
    have hne : bits ((s.feWords l).headD 0).toNat 31 16 ≠ 0 := by
      have := graphHeadBad_none hh
      rwa [show (s.feWords l).getD 0 0 = (s.feWords l).headD 0 by cases s.feWords l <;> rfl] at this
    obtain ⟨hend, hgr⟩ := State.graphEnd_new (((s.feFill l).feFill l').setPacket vf q { p with state := 2, graph := some s.nextGraph }) s.nextGraph (s.nextGraph + 1)
      (makeGraph vf q idx gtab csig cval (s.hostMode vf 3) (s.feWords l') (bits ((s.feWords l).headD 0).toNat 31 16)) (fun h => hne h.symm) rfl
    rw [hend] at he
    refine ⟨_, he, rfl, fun a => ?_, ?_, hgr⟩
    · refine Eq.trans ?_ ((State.feFill_memByte l' (s.feFill l) a).trans (s.feFill_memByte l a))
      refine State.memByte_congr ?_ ?_ ?_ a
      · rfl
      · rfl
      · rfl
    · have hidx := State.packetOf_idx hp
      refine State.packetOf_setPacket (s := (s.feFill l).feFill l') (p := p) ?_ hidx
      unfold State.packetOf State.queueOf
      rw [(State.feFill_nextGraph _ l').2.2, (s.feFill_nextGraph l).2.2]
      exact hp
  · obtain ⟨u, he, hgr, hnd, htk, hpool, hnn, hnt, hmem⟩ := exec_nodeLaunch_ok hs hf hm hi hb
    have htask : u.taskOf s.nextTask = { node := s.nextNode, hi := ((s.graphOf g).nodeAt g i).lots } := by
      unfold State.taskOf
      rw [htk]
      exact Tbl.get_set_same ..
    have hnode : u.nodeOf s.nextNode = (s.graphOf g).nodeAt g i := by
      unfold State.nodeOf
      rw [hnd]
      exact Tbl.get_set_same ..
    have hgraph : u.graphOf g = (s.graphOf g).launchedAt i s.nextNode := by
      unfold State.graphOf
      rw [hgr]
      exact Tbl.get_set_same ..
    refine ⟨u, he, ?_, ?_⟩
    · rw [hpool]
      exact List.mem_append_right _ (List.mem_singleton.mpr rfl)
    · rw [htask, hnode, hgraph]
      refine ⟨rfl, rfl, rfl, rfl, rfl, rfl, ?_, hnt, hnn, hmem⟩
      simp [Graph.launchedAt]
  · have he := exec_nodeLaunch_head hs hf hm hi
    dsimp only at he
    rw [show s.headerBad (s.graphOf g).vf (Tbl.get (s.graphOf g).hdrs [] i) = some off from hb] at he
    refine ⟨_, he, ?_⟩
    generalize { s.graphOf g with ready := (s.graphOf g).ready.filter fun j => decide (j ≠ i) } = gr1
    have hstop : (((s.setGraph g gr1).graphStop g 1 i off).graphOf g).stopped = true ∧ ((s.setGraph g gr1).graphStop g 1 i off).nextTask = s.nextTask := by
      unfold State.graphStop
      dsimp only
      obtain ⟨_, _, _, _, _, _, _, _, _, hn⟩ := State.noticed_notice ((s.setGraph g gr1).stopGraph g) ((s.setGraph g gr1).graphOf g).vf 1 ((s.setGraph g gr1).graphOf g).queue i off
      rw [hn]
      exact ⟨congrArg Graph.stopped (Tbl.get_set_same ..), rfl⟩
    obtain ⟨h1, h2⟩ := State.graphEnd_stopped _ g hstop.1
    exact ⟨h1, h2.trans hstop.2⟩
  · show execNodeLaunch g s = _
    unfold execNodeLaunch
    dsimp only
    by_cases hst : (s.graphOf g).stopped = true ∨ (s.graphOf g).finished = true ∨ (!s.mayLaunch (s.graphOf g).vf) = true
    · rw [if_pos hst]
    · rw [if_neg hst]
      obtain h | h | h | h := h
      · exact absurd (.inl h) hst
      · exact absurd (.inr (.inl h)) hst
      · exact absurd (.inr (.inr (by rw [show s.mayLaunch (s.graphOf g).vf = false from h]; rfl))) hst
      · rw [show (s.graphOf g).head = none from h]
  · refine if_pos ?_
    obtain h | h := h
    · exact .inl (by rw [show (s.nodeOf n).finished = false from h]; rfl)
    · exact .inr h
  · have hshape := Graph.decrements_shape _ hd
    have he : exec (.nodeComplete n) s = .next (((s.setNode n { nd with counted := true }).setGraph g { gr with done := gr.done ++ [nd.index] }).setGraph g gr' |>.graphEnd g) := by
      show execNodeComplete n s = _
      unfold execNodeComplete
      dsimp only
      rw [show (s.nodeOf n).finished = true from hf, show (s.nodeOf n).counted = false from hc, if_neg (by decide), show (s.nodeOf n).graph = some g from hg]
      dsimp only
      have hgo : ¬((s.graphOf g).stopped = true ∨ (s.nodeOf n).killed = true) := by
        rw [show (s.graphOf g).stopped = false from hs, show (s.nodeOf n).killed = false from hk]
        decide
      have hdev : ¬(s.graphOf g).assisted = true := by
        rw [show (s.graphOf g).assisted = false from has]
        decide
      rw [State.graphOf_setNode, if_neg hgo, if_neg hdev, show ({ s.graphOf g with done := (s.graphOf g).done ++ [(s.nodeOf n).index] } : Graph).decrements
        (Tbl.get (s.graphOf g).succ [] (s.nodeOf n).index) = (gr', none) from hd]
    rw [State.graphEnd_running] at he
    · exact ⟨_, he, State.graphOf_setGraph_same .., congrArg Node.counted (Tbl.get_set_same ..), fun _ => rfl⟩
    · rwa [State.graphOf_setGraph_same]
    · rw [State.graphOf_setGraph_same]
      obtain ⟨c, r, rfl⟩ := hshape
      exact hs
  · unfold Graph.decrement
    rw [hk]
    exact ⟨_, rfl, List.mem_append_right _ (List.mem_singleton.mpr rfl), Tbl.get_set_same ..⟩
  · unfold Graph.decrement
    rw [hk]
    exact ⟨_, rfl, rfl, Tbl.get_set_same ..⟩
  · intro w hit
    have hw : bits v.toNat 15 0 = w := by
      show v.toNat / 2 ^ 0 % 2 ^ 16 = _
      rw [pow_zero, Nat.div_one]
    have hfind : List.find? (fun (p : Nat × Graph) => decide (p.2.vf = vf) && decide (p.2.queue = bits v.toNat 21 16) && decide (p.2.packet % 2 ^ 32 = bits v.toNat 63 32)
        && p.2.assisted && !p.2.finished && !p.2.stopped) s.graphs = hit := rfl
    refine ⟨fun h => ?_, fun gn x h hlt hn hr => ?_⟩
    · show execNoderel vf v s = _
      unfold execNoderel
      dsimp only
      rw [hfind, h]
    · show execNoderel vf v s = _
      unfold execNoderel
      dsimp only
      rw [hfind, h, hw]
      dsimp only
      rw [if_neg]
      rintro (h | h | h)
      · omega
      · rw [hn] at h
        cases h
      · exact hr (List.contains_iff_mem.mp h)

end Sys2Proof.Machine
end

section
/-! ## O34: the life of an episode -/
namespace Sys2Proof.Machine

/-! ### What holds of a write and of the registers holds of a notice -/

/-- A relation that every write of bytes keeps, and every change of registers, counts, interrupts and what is due. -/
structure NoticeRel (R : State → State → Prop) : Prop where
  refl : ∀ σ, R σ σ
  trans : ∀ {σ τ ρ}, R σ τ → R τ ρ → R σ ρ
  write : ∀ (σ : State) l, R σ (σ.writeQuiet l)
  plain : ∀ (σ : State) b nw mp iq pw ag, R σ { σ with bar := b, nwrite := nw, msixPending := mp, irqs := iq, pageWanted := pw, agenda := ag }

namespace NoticeRel
variable {R : State → State → Prop} (h : NoticeRel R)
include h

theorem writeList (σ : State) (l : List (Nat × Byte)) : R σ (σ.writeList l) := h.trans (h.write σ l) (h.plain _ _ _ _ _ _ _)

theorem raiseIrq (σ : State) (vf v : Nat) : R σ (σ.raiseIrq vf v) := by
  unfold State.raiseIrq
  split
  · exact h.plain σ _ _ _ _ _ _
  · exact h.plain σ _ _ _ _ _ _

theorem ringPost (σ : State) (b base rk : Nat) (place : Word → Chk Nat) (entry vf : Nat) : R σ (σ.ringPost b base rk place entry vf) := by
  unfold State.ringPost
  dsimp only
  split
  · exact h.refl σ
  split
  · exact h.plain σ _ _ _ _ _ _
  split
  · exact h.plain σ _ _ _ _ _ _
  next pa _ =>
    have hn (τ : State) (nw : Tbl Nat) : R τ { τ with nwrite := nw } := h.plain τ _ nw _ _ _ _
    exact h.trans (h.trans (h.writeList σ (bytesAt pa 32 entry)) (hn _ _)) (h.raiseIrq _ _ _)

theorem vfNotice (σ : State) (vf code queue node detail : Nat) : R σ (σ.vfNotice vf code queue node detail) := by
  unfold State.vfNotice
  split
  · exact h.ringPost ..
  · exact h.refl σ

theorem hyperNotice (σ : State) (code vf detail : Nat) : R σ (σ.hyperNotice code vf detail) := h.ringPost ..

theorem foldl {β : Type} {f : State → β → State} (hf : ∀ (σ : State) b, R σ (f σ b)) (l : List β) (σ : State) : R σ (l.foldl f σ) := by
  induction l generalizing σ with
  | nil => exact h.refl σ
  | cons b l ih => exact h.trans (hf σ b) (ih _)

theorem sealNotices (σ : State) (l : List Nat) : R σ (σ.sealNotices l) :=
  h.foldl (fun σ _ => h.trans (h.hyperNotice σ _ _ _) (h.vfNotice _ _ _ _ _ _)) _ σ

theorem notice (σ : State) (vf code queue node detail : Nat) : R σ (σ.notice vf code queue node detail) := by
  unfold State.notice
  have hv := h.vfNotice σ vf code queue node detail
  dsimp only
  split
  · exact hv
  split
  · split
    · exact h.trans hv (h.sealNotices _ _)
    · exact hv
  · exact hv

theorem pageWant (σ : State) (vf kind : Nat) (va : Word) (cow : Bool) : R σ (σ.pageWant vf kind va cow) := by
  unfold State.pageWant
  dsimp only
  split
  · exact h.refl σ
  · have hp (τ : State) (l : List (Nat × Nat × Nat)) : R τ { τ with pageWanted := l } := h.plain τ _ _ _ _ l _
    exact h.trans (h.notice _ _ _ _ _ _) (hp _ _)

end NoticeRel

/-! ### What writes and switches leave of an episode and of a gate -/

/-- An episode as writes, switches and rewritten descriptor words leave it. -/
def Episode.From (e f : Episode) : Prop :=
  ∃ o r q, f = { e with owed := o, quantum := q, hart := { e.hart with res := r } } ∧ (r = none ∨ r = e.hart.res) ∧ (q = 0 ∨ q = e.quantum)

theorem Episode.From.refl (e : Episode) : e.From e := ⟨e.owed, e.hart.res, e.quantum, rfl, .inr rfl, .inr rfl⟩

theorem Episode.From.trans {e f g : Episode} (h : e.From f) (k : f.From g) : e.From g := by
  obtain ⟨o, r, q, rfl, hr, hq⟩ := h
  obtain ⟨o', r', q', rfl, hr', hq'⟩ := k
  exact ⟨o', r', q', rfl, hr'.elim .inl fun h => h ▸ hr, hq'.elim .inl fun h => h ▸ hq⟩

/-- Episodes and gates as writes, switches and deliveries leave them. -/
structure State.EpsFrom (σ τ : State) : Prop where
  eps : ∀ k, (Tbl.get σ.episodes {} k).From (Tbl.get τ.episodes {} k)
  gates : ∀ g, ∃ o w, τ.gateOf g = { σ.gateOf g with obs := o, waiters := w }
  polgen : τ.polgen = σ.polgen

theorem State.EpsFrom.of_eq {σ τ : State} (he : τ.episodes = σ.episodes) (hg : τ.gates = σ.gates) (hp : τ.polgen = σ.polgen) : σ.EpsFrom τ := by
  refine ⟨fun k => ?_, fun g => ⟨(σ.gateOf g).obs, (σ.gateOf g).waiters, ?_⟩, hp⟩
  · rw [he]
    exact .refl _
  · unfold State.gateOf
    rw [hg]

theorem State.EpsFrom.refl (σ : State) : σ.EpsFrom σ := .of_eq rfl rfl rfl

theorem State.EpsFrom.trans {σ τ ρ : State} (h : σ.EpsFrom τ) (k : τ.EpsFrom ρ) : σ.EpsFrom ρ := by
  refine ⟨fun n => (h.eps n).trans (k.eps n), fun g => ?_, k.polgen.trans h.polgen⟩
  obtain ⟨o, w, hg⟩ := h.gates g
  obtain ⟨o', w', hg'⟩ := k.gates g
  exact ⟨o', w', by rw [hg', hg]⟩

theorem Hart.unreserve_shape (x : Hart) (l : List Nat) : ∃ r, x.unreserve l = { x with res := r } ∧ (r = none ∨ r = x.res) := by
  unfold Hart.unreserve
  split
  · split
    · exact ⟨none, rfl, .inl rfl⟩
    · exact ⟨x.res, rfl, .inr rfl⟩
  · exact ⟨x.res, rfl, .inr rfl⟩

theorem Tbl.get_map_pair {α : Type} (l : Tbl α) (f : α → α) (d : α) (hd : f d = d) (k : Nat) :
    Tbl.get (l.map fun p => (p.1, f p.2)) d k = f (Tbl.get l d k) := by
  unfold Tbl.get
  rw [Tbl.find?_map_pair]
  cases Tbl.find? l k with
  | none => exact hd.symm
  | some v => rfl

theorem State.epsFrom_writeQuiet (σ : State) (l : List (Nat × Byte)) : σ.EpsFrom (σ.writeQuiet l) := by
  have hep : (σ.writeQuiet l).episodes = σ.episodes.map fun (p : Nat × Episode) => (p.1, { p.2 with hart := p.2.hart.unreserve (l.map (·.1)) }) := by
    unfold State.writeQuiet State.retest
    rw [State.poke_fold_shape]
    rfl
  have hrest : (σ.writeQuiet l).gates = σ.gates ∧ (σ.writeQuiet l).polgen = σ.polgen := by
    obtain ⟨_, _, _, _, h⟩ := σ.writeQuiet_shape l
    rw [h]
    exact ⟨rfl, rfl⟩
  refine ⟨fun k => ?_, fun g => ⟨(σ.gateOf g).obs, (σ.gateOf g).waiters, ?_⟩, hrest.2⟩
  · rw [hep, Tbl.get_map_pair σ.episodes (fun e => { e with hart := e.hart.unreserve (l.map (·.1)) }) {} rfl]
    obtain ⟨r, hr, hres⟩ := (Tbl.get σ.episodes {} k).hart.unreserve_shape (l.map (·.1))
    exact ⟨_, r, _, by rw [hr], hres, .inr rfl⟩
  · unfold State.gateOf
    rw [hrest.1]

theorem epsFrom_noticeRel : NoticeRel State.EpsFrom where
  refl := .refl
  trans := .trans
  write := State.epsFrom_writeQuiet
  plain _ _ _ _ _ _ _ := .of_eq rfl rfl rfl

theorem State.epsFrom_setEpKey (σ : State) (k : Nat) (e : Episode) (h : (Tbl.get σ.episodes {} k).From e) : σ.EpsFrom { σ with episodes := Tbl.set σ.episodes k e } := by
  refine ⟨fun n => ?_, (State.EpsFrom.refl σ).gates, rfl⟩
  show (Tbl.get σ.episodes {} n).From (Tbl.get (Tbl.set σ.episodes k e) {} n)
  rw [Tbl.get_set]
  split
  next hn => rw [hn]; exact h
  next => exact .refl _

theorem State.epsFrom_setEp (σ : State) (vf ep : Nat) (e : Episode) (h : (σ.epOf vf ep).From e) : σ.EpsFrom (σ.setEp vf ep e) := σ.epsFrom_setEpKey _ e h

theorem State.epsFrom_descWrite (σ : State) (vf ep word v n : Nat) : σ.EpsFrom (σ.descWrite vf ep word v n) := by
  have hset (o : Tbl (Nat × Nat)) : σ.EpsFrom (σ.setEp vf ep { σ.epOf vf ep with owed := o }) := σ.epsFrom_setEp vf ep _ ⟨o, _, _, rfl, .inr rfl, .inr rfl⟩
  unfold State.descWrite
  dsimp only
  split
  · exact (hset _).trans (State.epsFrom_writeQuiet _ _)
  split
  · exact (hset _).trans (epsFrom_noticeRel.pageWant _ _ _ _ _)
  · exact hset _

theorem State.epsFrom_rinkSwitch (σ : State) (n : Nat) : σ.EpsFrom (σ.rinkSwitch n) := by
  unfold State.rinkSwitch
  dsimp only
  split
  · exact .of_eq rfl rfl rfl
  · exact State.EpsFrom.trans (τ := σ.setRink n _) (.of_eq rfl rfl rfl) (State.epsFrom_setEpKey _ _ _ ⟨_, _, 0, rfl, .inr rfl, .inl rfl⟩)

theorem State.epsFrom_settleRink (σ : State) (n : Nat) : σ.EpsFrom (σ.settleRink n) := by
  unfold State.settleRink
  dsimp only
  split
  · exact σ.epsFrom_rinkSwitch n
  · exact .refl σ

theorem State.epsFrom_foldl {β : Type} {f : State → β → State} (h : ∀ (σ : State) b, σ.EpsFrom (f σ b)) (l : List β) (σ : State) : σ.EpsFrom (l.foldl f σ) :=
  epsFrom_noticeRel.foldl h l σ

theorem State.epsFrom_setGate (σ : State) (g : Nat) (o : List Msg) (w : List (Nat × Word)) : σ.EpsFrom (σ.setGate g { σ.gateOf g with obs := o, waiters := w }) := by
  refine ⟨fun _ => .refl _, fun n => ?_, rfl⟩
  show ∃ o' w', Tbl.get (Tbl.set σ.gates g _) {} n = _
  rw [Tbl.get_set]
  split
  next hn => rw [hn]; exact ⟨o, w, rfl⟩
  next => exact ⟨_, _, rfl⟩

theorem State.epsFrom_serveGate (σ : State) (g : Nat) : σ.EpsFrom (σ.serveGate g) := by
  refine State.epsFrom_foldl (fun σ w => ?_) _ σ
  dsimp only
  split
  · exact .refl σ
  · exact (σ.epsFrom_setGate g _ _).trans (.of_eq rfl rfl rfl)

theorem State.EpsFrom.then_eq {σ τ ρ : State} (h : σ.EpsFrom τ) (he : ρ.episodes = τ.episodes) (hg : ρ.gates = τ.gates) (hp : ρ.polgen = τ.polgen) : σ.EpsFrom ρ :=
  h.trans (.of_eq he hg hp)

theorem State.EpsFrom.epOf {σ τ : State} (h : σ.EpsFrom τ) (vf ep : Nat) : (σ.epOf vf ep).From (τ.epOf vf ep) := h.eps _

theorem State.epOf_setEp_same (σ : State) (vf ep : Nat) (e : Episode) : (σ.setEp vf ep e).epOf vf ep = e := Tbl.get_set_same ..

/-! ### The end of an episode -/

theorem State.epsFrom_rinkPerform (σ : State) (vf : Nat) (l : List (Nat × Byte)) : σ.EpsFrom (σ.rinkPerform vf l) := by
  unfold State.rinkPerform
  dsimp only
  split
  · exact .refl σ
  · refine State.EpsFrom.trans ?_ (epsFrom_noticeRel.writeList _ _)
    exact .of_eq rfl rfl rfl

theorem State.epsFrom_rinkFlush (σ : State) (n id : Nat) (keep : Bool) : σ.EpsFrom (σ.rinkFlush n id keep) := by
  unfold State.rinkFlush
  dsimp only
  split
  · exact .refl σ
  · exact State.EpsFrom.trans (τ := σ.setRink n _) (.of_eq rfl rfl rfl) (State.epsFrom_rinkPerform _ _ _)

/-- An episode that ends, and its gate; the others go on as they were. -/
theorem State.endEpisode_spec (σ : State) (vf ep reason value : Nat) (h : (σ.epOf vf ep).state = 1 ∨ (σ.epOf vf ep).state = 2) :
    ((σ.endEpisode vf ep reason value).epOf vf ep).state = 3 ∧ ((σ.endEpisode vf ep reason value).gateOf (σ.epOf vf ep).gate).state = 3
      ∧ ((σ.endEpisode vf ep reason value).gateOf (σ.epOf vf ep).gate).acts = [] ∧ (σ.endEpisode vf ep reason value).polgen = σ.polgen := by
  have hnot : ¬((σ.epOf vf ep).state ≠ 1 ∧ (σ.epOf vf ep).state ≠ 2) := fun hn => h.elim hn.1 hn.2
  suffices hτ : ∃ τ : State, τ.EpsFrom (σ.endEpisode vf ep reason value) ∧ (τ.epOf vf ep).state = 3 ∧ (τ.gateOf (σ.epOf vf ep).gate).state = 3
      ∧ (τ.gateOf (σ.epOf vf ep).gate).acts = [] ∧ τ.polgen = σ.polgen by
    obtain ⟨τ, hτ, h3, g3, ga, hp⟩ := hτ
    obtain ⟨o, r, q, hr, -⟩ := hτ.epOf vf ep
    obtain ⟨o', w', hw⟩ := hτ.gates (σ.epOf vf ep).gate
    rw [hr, hw]
    exact ⟨h3, g3, ga, hτ.polgen.trans hp⟩
  have hflush : ∀ c : Prop, ∀ _ : Decidable c, (if c then σ.rinkFlush (σ.epOf vf ep).rink (vf * 4096 + ep) false else σ).polgen = σ.polgen := by
    intro c _
    split
    · exact (σ.epsFrom_rinkFlush _ _ _).polgen
    · rfl
  have hset (τ : State) (c : Prop) [Decidable c] (n : Nat) (k : Rink) : τ.EpsFrom (if c then τ else τ.setRink n k) := by
    split
    · exact .refl τ
    · exact .of_eq rfl rfl rfl
  unfold State.endEpisode
  dsimp only
  rw [if_neg hnot]
  have hclose (τ ρ : State) (e : Episode) (gt : Gate) (h : ((τ.setGate (σ.epOf vf ep).gate gt).setEp vf ep e).EpsFrom ρ) (h3 : e.state = 3) (g3 : gt.state = 3)
      (ga : gt.acts = []) (hp : τ.polgen = σ.polgen) : ∃ τ : State, τ.EpsFrom ρ ∧ (τ.epOf vf ep).state = 3 ∧ (τ.gateOf (σ.epOf vf ep).gate).state = 3
        ∧ (τ.gateOf (σ.epOf vf ep).gate).acts = [] ∧ τ.polgen = σ.polgen :=
    ⟨_, h, (congrArg Episode.state (Tbl.get_set_same ..)).trans h3, (congrArg Gate.state (Tbl.get_set_same ..)).trans g3,
      (congrArg Gate.acts (Tbl.get_set_same ..)).trans ga, hp⟩
  refine hclose ?τ _ ?e ?gt ?_ ?_ ?_ ?_ ?_
  rotate_left 3
  · refine .then_eq (τ := State.serveGate _ _) (.trans ?_ (State.epsFrom_serveGate _ _)) rfl rfl rfl
    refine .then_eq (τ := State.descWrite _ _ _ _ _ _) (.trans ?_ ((State.epsFrom_descWrite _ _ _ _ _ _).trans (State.epsFrom_descWrite _ _ _ _ _ _))) rfl rfl rfl
    exact hset _ ((σ.epOf vf ep).state ≠ 2) _ _
  · rfl
  · rfl
  · rfl
  · exact hflush _ _


theorem sameGates_noticeRel : NoticeRel fun σ τ => τ.gates = σ.gates ∧ τ.rinks = σ.rinks where
  refl _ := ⟨rfl, rfl⟩
  trans h k := ⟨k.1.trans h.1, k.2.trans h.2⟩
  write σ l := by
    obtain ⟨_, _, _, _, h⟩ := σ.writeQuiet_shape l
    rw [h]
    exact ⟨rfl, rfl⟩
  plain _ _ _ _ _ _ _ := ⟨rfl, rfl⟩

theorem State.descWrite_gates (σ : State) (vf ep word v n : Nat) : (σ.descWrite vf ep word v n).gates = σ.gates ∧ (σ.descWrite vf ep word v n).rinks = σ.rinks := by
  unfold State.descWrite
  dsimp only
  split
  · exact sameGates_noticeRel.write (σ.setEp vf ep _) _
  split
  · exact sameGates_noticeRel.pageWant (σ.setEp vf ep _) _ _ _ _
  · exact ⟨rfl, rfl⟩

theorem State.descRetry_nil {σ : State} {vf ep : Nat} (h : (σ.epOf vf ep).owed = []) : σ.descRetry vf ep = σ := by
  unfold State.descRetry
  rw [h]
  rfl

theorem State.EpsFrom.state {σ τ : State} (h : σ.EpsFrom τ) (vf ep : Nat) : (τ.epOf vf ep).state = (σ.epOf vf ep).state ∧ (τ.epOf vf ep).suspended = (σ.epOf vf ep).suspended := by
  obtain ⟨o, r, q, hr, -⟩ := h.epOf vf ep
  rw [hr]
  exact ⟨rfl, rfl⟩

theorem State.EpsFrom.gate {σ τ : State} (h : σ.EpsFrom τ) (g : Nat) : (τ.gateOf g).state = (σ.gateOf g).state := by
  obtain ⟨o, w, hr⟩ := h.gates g
  rw [hr]

theorem State.armRefusal_congr {σ τ : State} (hg : τ.gates = σ.gates) (he : τ.episodes = σ.episodes) (ht : τ.tables = σ.tables) (vf ep : Nat) (w : Nat → Nat) :
    τ.armRefusal vf ep w = σ.armRefusal vf ep w := by
  unfold State.armRefusal State.gateOf State.windowOverlaps State.windowMapped State.rinkTable
  rw [hg, he, ht]

/-- A descriptor that can be read is armed or refused by its words; reading it fills its tile. -/
theorem exec_episodeArm_read {s : State} {vf ep pa : Nat} (h1 : (s.epOf vf ep).state ≠ 1) (h2 : (s.epOf vf ep).state ≠ 2) (ho : (s.epOf vf ep).owed = [])
    (hc : ep < (s.reg vf 0x38).toNat) (hpa : s.feAddr vf (s.reg vf 0x30 + BitVec.ofNat 64 (64 * ep)) 64 .read = .ok pa) :
    (∀ w, w = (fun i => s.memNat (pa + 8 * i) 8) → s.armRefusal vf ep w = none → ∃ τ : State, τ.polgen = s.polgen ∧ τ.nextArm = s.nextArm
      ∧ exec (.episodeArm vf ep) s = .next (((({ τ.setGate (descEpisode w).gate { τ.gateOf (descEpisode w).gate with state := 2, episode := ep, acts := [], obs := [], seqAct := 1, seqObs := 1 } with nextArm := s.nextArm + 1 }).setEp vf ep
          { descEpisode w with state := 1, armed := s.nextArm, pin := Tbl.get s.polgen 0 vf, owed := [] }).descWrite vf ep 0 1 1).push (.episodePlace (gateDie (descEpisode w).gate))))
    ∧ ∀ c, s.armRefusal vf ep (fun i => s.memNat (pa + 8 * i) 8) = some c → ∃ τ : State, τ.gates = s.gates ∧ exec (.episodeArm vf ep) s = .next ((τ.setEp vf ep { state := 3, owed := [] }).descWrite vf ep 0 (3 + c * 256) 2) := by
  have hguard : ¬((s.epOf vf ep).state = 1 ∨ (s.epOf vf ep).state = 2 ∨ (s.reg vf 0x38).toNat ≤ ep) := by omega
  obtain ⟨l, hl⟩ := s.fill_shape pa
  have hw : (fun i => (s.fill pa).memNat (pa + 8 * i) 8) = fun i => s.memNat (pa + 8 * i) 8 := funext fun i => State.memNat_congr (s.memByte_fill pa) _ _
  have hr (w) : (s.fill pa).armRefusal vf ep w = s.armRefusal vf ep w := by
    rw [hl]
    exact State.armRefusal_congr rfl rfl rfl vf ep w
  refine ⟨fun w hwe hn => ⟨s.fill pa, by rw [hl], by rw [hl], ?_⟩, fun c hn => ⟨s.fill pa, by rw [hl], ?_⟩⟩
  · show execEpisodeArm vf ep s = _
    unfold execEpisodeArm
    dsimp only
    rw [if_neg hguard, State.descRetry_nil ho, hpa]
    dsimp only
    rw [hw, hr, ← hwe, hn, ho, hl]
    rfl
  · show execEpisodeArm vf ep s = _
    unfold execEpisodeArm
    dsimp only
    rw [if_neg hguard, State.descRetry_nil ho, hpa]
    dsimp only
    rw [hw, hr, hn, ho]

theorem exec_episodeArm_nonresident {s : State} {vf ep : Nat} {r : Tr} (h1 : (s.epOf vf ep).state ≠ 1) (h2 : (s.epOf vf ep).state ≠ 2) (ho : (s.epOf vf ep).owed = [])
    (hc : ep < (s.reg vf 0x38).toNat) (hr : s.feAddr vf (s.reg vf 0x30 + BitVec.ofNat 64 (64 * ep)) 64 .read = .error r) (h5 : r.cause = 5) :
    exec (.episodeArm vf ep) s = .next ((s.pageWant vf 1 r.detail false).setEp vf ep { s.epOf vf ep with armWait := true }) := by
  have hguard : ¬((s.epOf vf ep).state = 1 ∨ (s.epOf vf ep).state = 2 ∨ (s.reg vf 0x38).toNat ≤ ep) := by omega
  show execEpisodeArm vf ep s = _
  unfold execEpisodeArm
  dsimp only
  rw [if_neg hguard, State.descRetry_nil ho, hr]
  dsimp only
  rw [if_pos (show r.cause = causeNonresident from h5)]

theorem State.mem_pageWanted (σ : State) (vf kind : Nat) (va : Word) (cow : Bool) :
    (vf, kind, va.toNat / 2 ^ granLog (Tbl.get σ.tables {} (vf * 4 + kind))) ∈ (σ.pageWant vf kind va cow).pageWanted := by
  unfold State.pageWant
  dsimp only
  split
  next h => exact List.contains_iff_mem.1 h
  next => exact List.mem_cons_self

theorem State.rinkOf_setRink_same (σ : State) (n : Nat) (k : Rink) : (σ.setRink n k).rinkOf n = k := Tbl.get_set_same ..

theorem State.settleRink_resident (σ : State) (n : Nat) : ((σ.settleRink n).rinkOf n).resident = (σ.rinkOf n).resident := by
  unfold State.settleRink
  dsimp only
  split
  next h =>
    unfold State.rinkSwitch
    dsimp only
    rw [h.1]
    dsimp only
    split
    · exact (congrArg Rink.resident (State.rinkOf_setRink_same ..)).trans rfl
    · exact (congrArg Rink.resident (State.rinkOf_setRink_same σ n _)).trans rfl
  next => rfl

theorem State.epsFrom_placed (τ : State) (id n : Nat) (e : Episode) (h : Tbl.get τ.episodes {} id = e) :
    e.From (Tbl.get ((τ.descWrite (id / 4096) (id % 4096) 0 2 1).settleRink n).episodes {} id) := by
  have h1 := ((τ.epsFrom_descWrite (id / 4096) (id % 4096) 0 2 1).trans (State.epsFrom_settleRink _ n)).eps id
  rw [h] at h1
  exact h1

theorem State.placed_resident (τ : State) (id n : Nat) : (((τ.descWrite (id / 4096) (id % 4096) 0 2 1).settleRink n).rinkOf n).resident = (τ.rinkOf n).resident := by
  rw [State.settleRink_resident]
  unfold State.rinkOf
  rw [(State.descWrite_gates _ _ _ _ _ _).2]

theorem exec_episodePlace {s : State} {die id n : Nat} {q : Episode} (ho : s.oldestArmed die = some (id, q)) (hn : s.placeCore die = some n) :
    exec (.episodePlace die) s = .next (((((s.setEp (id / 4096) (id % 4096) { q with state := 2, rink := n, hart := q.entryHart }).setRink n
      { s.rinkOf n with resident := (s.rinkOf n).resident ++ [id] }).descWrite (id / 4096) (id % 4096) 0 2 1)).settleRink n) := by
  show execEpisodePlace die s = _
  unfold execEpisodePlace
  rw [ho, hn]

/-- Placing makes the episode RUNNING on its core, with the registers of an entry. -/
theorem exec_episodePlace_spec {s : State} {die id n : Nat} {q : Episode} (ho : s.oldestArmed die = some (id, q)) (hn : s.placeCore die = some n) :
    ∃ t, exec (.episodePlace die) s = .next t ∧ ({ q with state := 2, rink := n, hart := q.entryHart } : Episode).From (Tbl.get t.episodes {} id)
      ∧ (t.rinkOf n).resident = (s.rinkOf n).resident ++ [id] := by
  have hid : id / 4096 * 4096 + id % 4096 = id := Nat.div_add_mod' ..
  refine ⟨_, exec_episodePlace ho hn, State.epsFrom_placed _ id n _ ?_, (State.placed_resident _ id n).trans ?_⟩
  · show Tbl.get (Tbl.set _ (id / 4096 * 4096 + id % 4096) _) _ _ = _
    rw [hid]
    exact Tbl.get_set_same ..
  · rw [State.rinkOf_setRink_same]

theorem State.endEpisode_settled (σ : State) (vf ep reason value n : Nat) (h : (σ.epOf vf ep).state = 1 ∨ (σ.epOf vf ep).state = 2) :
    (((σ.endEpisode vf ep reason value).settleRink n).epOf vf ep).state = 3 ∧ (((σ.endEpisode vf ep reason value).settleRink n).gateOf (σ.epOf vf ep).gate).state = 3 := by
  have hs := (σ.endEpisode vf ep reason value).epsFrom_settleRink n
  obtain ⟨he, hg, -⟩ := σ.endEpisode_spec vf ep reason value h
  exact ⟨(hs.state vf ep).1.trans he, (hs.gate _).trans hg⟩

theorem exec_episodeCancel_spec {s : State} {vf ep : Nat} (h : (s.epOf vf ep).state = 1 ∨ (s.epOf vf ep).state = 2) :
    ∃ t, exec (.episodeCancel vf ep) s = .next t ∧ (t.epOf vf ep).state = 3 ∧ (t.gateOf (s.epOf vf ep).gate).state = 3 := by
  refine ⟨_, rfl, ?_⟩
  split
  · exact s.endEpisode_settled vf ep 5 0 _ h
  · have hs := s.endEpisode_spec vf ep 5 0 h
    exact ⟨hs.1, hs.2.1⟩

theorem exec_stepBudget_spec {s : State} {vf ep : Nat} (h2 : (s.epOf vf ep).state = 2) (hsus : (s.epOf vf ep).suspended = false) (hb : (s.epOf vf ep).stepb ≤ (s.epOf vf ep).stepCyc) :
    ∃ t, exec (.stepBudget vf ep) s = .next t ∧ (s.hostMode vf 6 = false → (t.epOf vf ep).state = 3)
      ∧ (s.hostMode vf 6 = true → (t.epOf vf ep).suspended = true ∧ (t.epOf vf ep).state = 2) := by
  have hguard : ¬((s.epOf vf ep).state ≠ 2 ∨ (s.epOf vf ep).suspended ∨ (s.epOf vf ep).stepCyc < (s.epOf vf ep).stepb) := by simp [h2, hsus, hb]
  cases hm : s.hostMode vf 6 with
  | false =>
    refine ⟨(s.endEpisode vf ep 1 (s.epOf vf ep).stepb).settleRink (s.epOf vf ep).rink, ?_, fun _ => (s.endEpisode_settled vf ep 1 _ _ (.inr h2)).1, fun h => absurd h (by decide)⟩
    show execStepBudget vf ep s = _
    unfold execStepBudget
    dsimp only
    rw [if_neg hguard, hm]
    rfl
  | true =>
    refine ⟨_, by
      show execStepBudget vf ep s = _
      unfold execStepBudget
      dsimp only
      rw [if_neg hguard, if_pos hm], fun h => absurd h (by decide), fun _ => ?_⟩
    have h (τ : State) (e : Episode) (k : Rink) (n m d : Nat) : ((((τ.setEp vf ep e).setRink n k).notice vf 32 0xFF 0xFFFF d).settleRink m |>.epOf vf ep).state = e.state
        ∧ ((((τ.setEp vf ep e).setRink n k).notice vf 32 0xFF 0xFFFF d).settleRink m |>.epOf vf ep).suspended = e.suspended := by
      have h1 := ((epsFrom_noticeRel.notice ((τ.setEp vf ep e).setRink n k) vf 32 0xFF 0xFFFF d).trans (State.epsFrom_settleRink _ m)).state vf ep
      have h0 : ((τ.setEp vf ep e).setRink n k).epOf vf ep = e := τ.epOf_setEp_same vf ep e
      rw [h0] at h1
      exact h1
    obtain ⟨ha, hb⟩ := h s { s.epOf vf ep with suspended := true } _ _ _ _
    exact ⟨hb, ha.trans h2⟩

theorem Rink.enter_current (k : Rink) (e : Episode) : (k.enter e).current = k.current := rfl

/-- A switch gives the core to a ready episode among its own, and moves no byte of memory. -/
theorem State.rinkSwitch_spec (σ : State) (n : Nat) : SameMemory σ (σ.rinkSwitch n)
    ∧ ∀ c', ((σ.rinkSwitch n).rinkOf n).current = some c' → σ.epReady c' = true ∧ (Tbl.get (σ.rinkSwitch n).episodes {} c').quantum = 0 ∧ c' ∈ (σ.rinkOf n).resident := by
  unfold State.rinkSwitch
  dsimp only
  split
  next =>
    refine ⟨fun a => State.memByte_congr ?_ ?_ ?_ a, fun c' hc => ?_⟩ <;> try rfl
    rw [show (σ.setRink n _).rinkOf n = _ from Tbl.get_set_same ..] at hc
    cases hc
  next id hf =>
    refine ⟨fun a => State.memByte_congr ?_ ?_ ?_ a, fun c' hc => ?_⟩ <;> try rfl
    have hid : id = c' := Option.some.inj ((congrArg Rink.current (Tbl.get_set_same ..)).symm.trans hc)
    subst hid
    refine ⟨List.find?_some hf, congrArg Episode.quantum (Tbl.get_set_same ..), ?_⟩
    have hm := List.mem_of_find?_eq_some hf
    split at hm
    · exact (List.mem_append.1 hm).elim List.mem_of_mem_drop List.mem_of_mem_take
    · exact hm

theorem State.endEpisode_polgen (σ : State) (vf ep reason value : Nat) : (σ.endEpisode vf ep reason value).polgen = σ.polgen := by
  by_cases h : (σ.epOf vf ep).state = 1 ∨ (σ.epOf vf ep).state = 2
  · exact (σ.endEpisode_spec vf ep reason value h).2.2.2
  · unfold State.endEpisode
    dsimp only
    rw [if_pos (not_or.1 h)]

theorem State.bumpPolgen_polgen (σ : State) (vf : Nat) : Tbl.get (σ.bumpPolgen vf).polgen 0 vf = (Tbl.get σ.polgen 0 vf + 1) % 2 ^ 32 := by
  have hfold (l : List (Nat × Episode)) (τ : State) : (l.foldl (fun σ p => σ.endEpisode vf (p.1 % 4096) 3 0) τ).polgen = τ.polgen := by
    induction l generalizing τ with
    | nil => rfl
    | cons p l ih => exact (ih _).trans (τ.endEpisode_polgen _ _ _ _)
  unfold State.bumpPolgen
  dsimp only
  rw [hfold]
  exact Tbl.get_set_same ..

/-- EPTBASE and EPTCNT are registers of all 64 bits. -/
theorem regBits_ept {vf : Nat} (h : 1 ≤ vf) : regBits vf 0x30 = 2 ^ 64 - 1 ∧ regBits vf 0x38 = 2 ^ 64 - 1 := by
  have h0 : vf ≠ 0 := by omega
  constructor
  · simp [regBits, h0]
  · simp [regBits, h0]

/-- Settles O34: what ends, places and switches an episode, through what writes, notices and switches leave of the episodes and gates. -/
theorem episodeLife : Obligations.EpisodeLife := by
  unfold Obligations.EpisodeLife
  intro s vf ep die n id v h1 h64 hep e fresh after
  refine ⟨?_, ?_, ?_, ?_, ?_, ?_, ?_, ?_, ?_, ?_, ?_, ?_⟩
  · intro ⟨hs1, hs2, ho, hc⟩ pa hpa w hn
    obtain ⟨τ, hp, ha, hex⟩ := (exec_episodeArm_read hs1 hs2 ho hc hpa).1 w rfl hn
    refine ⟨_, hex, ?_, ?_⟩
    · have h (ρ : State) (e : Episode) (hres : e.hart.res = none) (hq : e.quantum = 0) : ∃ o, ((ρ.setEp vf ep e).descWrite vf ep 0 1 1).epOf vf ep = { e with owed := o } := by
        obtain ⟨o, r, q, hr, hr0, hq0⟩ := ((ρ.setEp vf ep e).epsFrom_descWrite vf ep 0 1 1).epOf vf ep
        rw [ρ.epOf_setEp_same] at hr hr0 hq0
        have hrr : r = e.hart.res := hr0.elim (fun h => h.trans hres.symm) fun h => h
        have hqq : q = e.quantum := hq0.elim (fun h => h.trans hq.symm) fun h => h
        refine ⟨o, hr.trans ?_⟩
        rw [hrr, hqq]
      exact h _ _ rfl rfl
    · have h (ρ : State) (e : Episode) (gt : Gate) (m : Nat) : (((({ ρ.setGate m gt with nextArm := s.nextArm + 1 }).setEp vf ep e).descWrite vf ep 0 1 1).push (.episodePlace (gateDie m))).gateOf m = gt := by
        show Tbl.get (State.descWrite _ _ _ _ _ _).gates {} m = gt
        rw [(State.descWrite_gates _ _ _ _ _ _).1]
        exact Tbl.get_set_same ..
      rw [h]
      exact ⟨rfl, rfl, rfl, rfl⟩
  · intro ⟨hs1, hs2, ho, hc⟩ pa c hpa hn
    obtain ⟨τ, hg, hex⟩ := (exec_episodeArm_read hs1 hs2 ho hc hpa).2 c hn
    refine ⟨_, hex, ?_, (State.descWrite_gates _ _ _ _ _ _).1.trans hg⟩
    have h := ((τ.setEp vf ep { state := 3, owed := [] }).epsFrom_descWrite vf ep 0 (3 + c * 256) 2).state vf ep
    rw [τ.epOf_setEp_same] at h
    exact h.1
  · intro ⟨hs1, hs2, ho, hc⟩ r hr h5
    exact ⟨_, exec_episodeArm_nonresident hs1 hs2 ho hc hr h5, State.epOf_setEp_same .., s.mem_pageWanted vf 1 r.detail false⟩
  · intro q ho hn
    obtain ⟨t, hex, ⟨o, r, qq, hr, -⟩, hres⟩ := exec_episodePlace_spec ho hn
    refine ⟨t, hex, ?_⟩
    rw [hr]
    exact ⟨rfl, rfl, rfl, rfl, rfl, rfl, hres⟩
  · exact exec_episodeCancel_spec
  · exact exec_stepBudget_spec
  · intro c hc hq
    refine ⟨s.rinkSwitch n, ?_, s.rinkSwitch_spec n⟩
    show execQuantumExpiry n s = _
    unfold execQuantumExpiry
    rw [hc]
    dsimp only
    rw [if_pos hq]
  · intro h2 hsus hv
    have hguard : ¬((s.epOf vf ep).state ≠ 2 ∨ (!(s.epOf vf ep).suspended) = true) := by
      rw [show (s.epOf vf ep).state = 2 from h2, show (s.epOf vf ep).suspended = true from hsus]
      decide
    refine ⟨fun hb => ?_, fun hb => ⟨s.endEpisode vf ep 1 (s.epOf vf ep).stepb, ?_, (s.endEpisode_spec vf ep 1 _ (.inr h2)).1⟩⟩
    · show execEpres vf v s = _
      unfold execEpres
      dsimp only
      rw [hv, if_neg hguard, if_pos hb]
    · show execEpres vf v s = _
      unfold execEpres
      dsimp only
      rw [hv, if_neg hguard, hb]
      rfl
  · refine ⟨_, rfl, (s.reg_setReg_same vf 0x30 _).trans ?_, fun a => State.memByte_congr ?_ ?_ ?_ a⟩ <;> try rfl
    rw [(regBits_ept h1).1]
    exact and_allOnes64 _
  · refine ⟨_, rfl, (s.reg_setReg_same vf 0x38 _).trans ?_, fun a => State.memByte_congr ?_ ?_ ?_ a⟩ <;> try rfl
    rw [(regBits_ept h1).2]
    exact and_allOnes64 _
  · intro hb
    refine ⟨s.bumpPolgen vf, ?_, s.bumpPolgen_polgen vf⟩
    show execPolupd vf v s = _
    unfold execPolupd
    rw [if_pos hb]
  · intro hb
    show execPolupd vf v s = _
    unfold execPolupd
    rw [hb]
    rfl

end Sys2Proof.Machine
end

section
/-! ## O33: the words of an episode -/
namespace Sys2Proof.Machine

/-! ### The hart -/

theorem Hart.xr_step (h : Hart) (n r : Nat) : (h.step n).xr r = h.xr r := rfl

theorem Hart.xr_setX_same (h : Hart) {r : Nat} (v : Word) (hr : r ≠ 0) : (h.setX r v).xr r = v := by
  unfold Hart.xr Hart.setX
  rw [if_neg hr, if_neg hr]
  exact Tbl.get_set_same ..

theorem Hart.xr_setX_ne (h : Hart) {r d : Nat} (v : Word) (hr : r ≠ d) : (h.setX d v).xr r = h.xr r := by
  unfold Hart.xr Hart.setX
  by_cases hd : d = 0
  · rw [if_pos hd]
  · rw [if_neg hd]
    dsimp only
    rw [Tbl.get_set_ne _ _ _ hr]

theorem Hart.setX_pc (h : Hart) (d : Nat) (v : Word) : (h.setX d v).pc = h.pc ∧ (h.setX d v).instret = h.instret := by
  unfold Hart.setX
  split
  · exact ⟨rfl, rfl⟩
  · exact ⟨rfl, rfl⟩

/-! ### The word of an episode that retires, and one that does not fit -/

theorem Tbl.key_split (id : Nat) : id / 4096 * 4096 + id % 4096 = id := Nat.div_add_mod' ..

/-- A word of the core's current episode. -/
structure State.InEpisode (s : State) (id : Nat) : Prop where
  current : (s.rinkOf s.rinkNo).current = some id
  user : (s.rinkOf s.rinkNo).machine = false

theorem State.InEpisode.inMonitor {s : State} {id : Nat} (h : s.InEpisode id) : s.inMonitor = false := by
  unfold State.inMonitor
  rw [h.user]
  rfl

theorem State.InEpisode.rinkId {s : State} {id : Nat} (h : s.InEpisode id) : s.rinkId = id := by
  unfold State.rinkId
  rw [h.current]
  rfl

theorem State.InEpisode.rvMonitor {s : State} {id : Nat} (h : s.InEpisode id) (k : Kind) : s.rvMonitor k = false := by
  unfold State.rvMonitor
  dsimp only
  rw [h.user]
  rfl

section
variable {s : State} {id : Nat} (h : s.InEpisode id) {go : State → Nat → Nat → Episode → RkOut}
include h

theorem rinkWord_done {e' : Episode} {reset : Bool} {τ : State} (hfit : (s.epOf (id / 4096) (id % 4096)).stepCyc + s.rinkCost ≤ (s.epOf (id / 4096) (id % 4096)).stepb)
    (hgo : go s.tickFresh (id / 4096) (id % 4096) (s.epOf (id / 4096) (id % 4096)) = .done e' reset τ)
    (hend : ¬(reset ∧ e'.totb ≠ 0 ∧ e'.steps = e'.totb ∧ e'.steps ≠ (s.epOf (id / 4096) (id % 4096)).steps)) :
    s.rinkWord go = .next (τ.rinkRetire (id / 4096) (id % 4096) s.rinkCost e' reset) := by
  unfold State.rinkWord
  rw [h.inMonitor, if_neg (by decide), h.current]
  dsimp only
  rw [hgo]
  dsimp only
  rw [if_neg (by simpa using hfit), if_neg hend]

theorem rinkWord_late {e' : Episode} {reset : Bool} {τ : State} (hfit : ¬(s.epOf (id / 4096) (id % 4096)).stepCyc + s.rinkCost ≤ (s.epOf (id / 4096) (id % 4096)).stepb)
    (hgo : go s.tickFresh (id / 4096) (id % 4096) (s.epOf (id / 4096) (id % 4096)) = .done e' reset τ) :
    s.rinkWord go = .next (((s.tickFresh.rinkTick s.rinkCost).setEp (id / 4096) (id % 4096)
      { s.epOf (id / 4096) (id % 4096) with stepCyc := (s.epOf (id / 4096) (id % 4096)).stepb }).push (.stepBudget (id / 4096) (id % 4096))) := by
  unfold State.rinkWord
  rw [h.inMonitor, if_neg (by decide), h.current]
  dsimp only
  rw [hgo]
  dsimp only
  rw [if_pos (by simpa using hfit)]

theorem rinkWord_ended {τ : State} (hfit : (s.epOf (id / 4096) (id % 4096)).stepCyc + s.rinkCost ≤ (s.epOf (id / 4096) (id % 4096)).stepb)
    (hgo : go s.tickFresh (id / 4096) (id % 4096) (s.epOf (id / 4096) (id % 4096)) = .ended τ) :
    s.rinkWord go = .next ((τ.rinkTick s.rinkCost).settleRink τ.rinkNo) := by
  unfold State.rinkWord
  rw [h.inMonitor, if_neg (by decide), h.current]
  dsimp only
  rw [hgo]
  dsimp only
  rw [if_neg (by simpa using hfit)]

end

/-- What stands after a retired word: its episode as the word left it, with the counters moved on, and the rest as the word left it. -/
structure State.Retired (τ : State) (vf ep k : Nat) (e : Episode) (reset : Bool) (t : State) : Prop where
  mem : SameMemory τ t
  gates : t.gates = τ.gates
  lines : ∀ n, (t.rinkOf n).lines = (τ.rinkOf n).lines
  hart : (t.epOf vf ep).hart = { e.hart with instret := e.hart.instret + 1 }
  state : (t.epOf vf ep).state = e.state
  steps : (t.epOf vf ep).steps = e.steps
  cut : reset = true → e.stepCyc + k < e.stepb → (t.epOf vf ep).stepCyc = 0

theorem State.rinkOf_setRink (σ : State) (n m : Nat) (k : Rink) : (σ.setRink n k).rinkOf m = if m = n then k else σ.rinkOf m := Tbl.get_set ..

theorem State.rinkTick_lines (τ : State) (k n : Nat) : ((τ.rinkTick k).rinkOf n).lines = (τ.rinkOf n).lines := by
  unfold State.rinkTick
  rw [State.rinkOf_setRink]
  split
  next h => rw [h]
  next => rfl

theorem State.rinkRetire_spec (τ : State) (vf ep k : Nat) (e : Episode) (reset : Bool) : τ.Retired vf ep k e reset (τ.rinkRetire vf ep k e reset) := by
  suffices h : ∀ (ρ : State) (e' : Episode) (b c : Prop) [Decidable b] [Decidable c] (x y : Due), SameMemory τ ρ → ρ.gates = τ.gates → (∀ n, (ρ.rinkOf n).lines = (τ.rinkOf n).lines) →
      e'.hart = { e.hart with instret := e.hart.instret + 1 } → e'.state = e.state → e'.steps = e.steps → (reset = true → e.stepCyc + k < e.stepb → e'.stepCyc = 0) →
      τ.Retired vf ep k e reset (if c then (if b then (ρ.setEp vf ep e').push x else ρ.setEp vf ep e').push y else if b then (ρ.setEp vf ep e').push x else ρ.setEp vf ep e') by
    unfold State.rinkRetire
    refine h (τ.rinkTick k) _ _ _ _ _ (fun a => State.memByte_congr ?_ ?_ ?_ a) ?_ (τ.rinkTick_lines k) ?_ ?_ ?_ fun hr hc => if_pos ⟨hr, hc⟩
    all_goals rfl
  intro ρ e' b c _ _ x y hm hg hl h1 h2 h3 h4
  have hep : (ρ.setEp vf ep e').epOf vf ep = e' := ρ.epOf_setEp_same vf ep e'
  have base : τ.Retired vf ep k e reset (ρ.setEp vf ep e') := by
    refine ⟨hm, hg, hl, ?_, ?_, ?_, ?_⟩ <;> rw [hep] <;> assumption
  have hpush {ρ : State} (d : Due) (h : τ.Retired vf ep k e reset ρ) : τ.Retired vf ep k e reset (ρ.push d) :=
    ⟨h.mem, h.gates, h.lines, h.hart, h.state, h.steps, h.cut⟩
  split
  · split
    · exact hpush _ (hpush _ base)
    · exact hpush _ base
  · split
    · exact hpush _ base
    · exact base

/-! ### Words that touch no memory -/

theorem exec_mbPoll_spec {s : State} {id : Nat} (h : s.InEpisode id) (d : BitVec 5)
    (hfit : (s.epOf (id / 4096) (id % 4096)).stepCyc + s.rinkCost ≤ (s.epOf (id / 4096) (id % 4096)).stepb) :
    exec (.mbPoll d) s = .next (s.tickFresh.rinkRetire (id / 4096) (id % 4096) s.rinkCost ((s.epOf (id / 4096) (id % 4096)).next ((s.epOf (id / 4096) (id % 4096)).hart.setX d.toNat
      (BitVec.ofNat 64 ((s.gateOf (s.epOf (id / 4096) (id % 4096)).gate).acts.length + (4 - (s.gateOf (s.epOf (id / 4096) (id % 4096)).gate).obs.length) * 8
        + if s.stale (id / 4096) (s.epOf (id / 4096) (id % 4096)) then 64 else 0)))) false) := by
  show execMbPoll d s = _
  unfold execMbPoll
  refine rinkWord_done h hfit ?_ (by simp)
  rfl

theorem exec_epStep_spec {s : State} {id : Nat} (h : s.InEpisode id) (hfit : (s.epOf (id / 4096) (id % 4096)).stepCyc + s.rinkCost ≤ (s.epOf (id / 4096) (id % 4096)).stepb)
    (hgoes : (s.epOf (id / 4096) (id % 4096)).totb = 0 ∨ (s.epOf (id / 4096) (id % 4096)).steps + 1 ≠ (s.epOf (id / 4096) (id % 4096)).totb) :
    exec .epStep s = .next (s.tickFresh.rinkRetire (id / 4096) (id % 4096) s.rinkCost ((s.epOf (id / 4096) (id % 4096)).endStep.next (s.epOf (id / 4096) (id % 4096)).hart) true) := by
  show execEpStep s = _
  unfold execEpStep
  refine rinkWord_done h hfit rfl fun ⟨_, h0, h1, _⟩ => hgoes.elim h0 fun hn => hn h1

theorem exec_epExit_spec {s : State} {id : Nat} (h : s.InEpisode id) (r : BitVec 5) (hfit : (s.epOf (id / 4096) (id % 4096)).stepCyc + s.rinkCost ≤ (s.epOf (id / 4096) (id % 4096)).stepb)
    (h2 : (s.epOf (id / 4096) (id % 4096)).state = 2) :
    ∃ t, exec (.epExit r) s = .next t ∧ (t.epOf (id / 4096) (id % 4096)).state = 3 ∧ (t.gateOf (s.epOf (id / 4096) (id % 4096)).gate).state = 3
      ∧ (t.gateOf (s.epOf (id / 4096) (id % 4096)).gate).acts = [] := by
  refine ⟨_, (rinkWord_ended (go := fun σ vf ep e => .ended (σ.endEpisode vf ep 0 (e.hart.xr r.toNat).toNat)) h hfit rfl : execEpExit r s = _), ?_⟩
  obtain ⟨he, hg, ha, -⟩ := s.tickFresh.endEpisode_spec (id / 4096) (id % 4096) 0 ((s.epOf (id / 4096) (id % 4096)).hart.xr r.toNat).toNat (.inr h2)
  have hs (τ : State) (k n : Nat) : τ.EpsFrom ((τ.rinkTick k).settleRink n) := State.EpsFrom.trans (τ := τ.rinkTick k) (.of_eq rfl rfl rfl) (State.epsFrom_settleRink _ n)
  have hE := hs (s.tickFresh.endEpisode (id / 4096) (id % 4096) 0 ((s.epOf (id / 4096) (id % 4096)).hart.xr r.toNat).toNat) s.rinkCost
  refine ⟨((hE _).state _ _).1.trans he, ((hE _).gate _).trans hg, ?_⟩
  obtain ⟨o, w, hr⟩ := (hE _).gates (s.epOf (id / 4096) (id % 4096)).gate
  rw [hr]
  exact ha

theorem exec_rv64gc_ok {s τ : State} {id : Nat} {h' : Hart} (h : s.InEpisode id) (w : BitVec 32)
    (hfit : (s.epOf (id / 4096) (id % 4096)).stepCyc + s.rinkCost ≤ (s.epOf (id / 4096) (id % 4096)).stepb)
    (hx : rvExec s.tickFresh (id / 4096) (s.epOf (id / 4096) (id % 4096)).hart s.tickFresh.rinkNow w.toNat = .ok h' τ) :
    exec (.rv64gc w) s = .next (τ.rinkRetire (id / 4096) (id % 4096) s.rinkCost { s.epOf (id / 4096) (id % 4096) with hart := h' } false) := by
  show execRv64gc w s = _
  unfold execRv64gc
  rw [h.inMonitor, if_neg (by decide)]
  refine rinkWord_done h hfit ?_ (by simp)
  dsimp only
  rw [hx]

/-- The fields of an I-type word. -/
theorem rvFields (imm : BitVec 12) (r1 d : BitVec 5) (f : BitVec 3) (op : BitVec 7) (w : Nat) (hw : w = (imm ++ r1 ++ f ++ d ++ op).toNat) :
    w % 128 = op.toNat ∧ rvRd w = d.toNat ∧ rvRs1 w = r1.toNat ∧ rvF3 w = f.toNat ∧ bits w 31 20 = imm.toNat := by
  have hn : w = (((imm.toNat * 32 + r1.toNat) * 8 + f.toNat) * 32 + d.toNat) * 128 + op.toNat := by
    rw [hw]
    simp only [BitVec.toNat_append]
    rw [← Nat.shiftLeft_add_eq_or_of_lt op.isLt, ← Nat.shiftLeft_add_eq_or_of_lt d.isLt, ← Nat.shiftLeft_add_eq_or_of_lt f.isLt, ← Nat.shiftLeft_add_eq_or_of_lt r1.isLt]
    simp only [Nat.shiftLeft_eq]
  have h1 := imm.isLt
  have h2 := r1.isLt
  have h3 := f.isLt
  have h4 := d.isLt
  have h5 := op.isLt
  unfold rvRd rvRs1 rvF3 bits
  norm_num at h1 h2 h3 h4 h5 ⊢
  omega

/-- ADDI adds its sign-extended immediate. -/
theorem rvExec_addi (u : State) (vf : Nat) (x : Hart) (c : Nat) (imm : BitVec 12) (r1 d : BitVec 5) :
    rvExec u vf x c (imm ++ r1 ++ (0 : BitVec 3) ++ d ++ (0x13 : BitVec 7)).toNat = .ok ((x.setX d.toNat (x.xr r1.toNat + imm.signExtend 64)).step 4) u := by
  generalize hw : (imm ++ r1 ++ (0 : BitVec 3) ++ d ++ (0x13 : BitVec 7)).toNat = w
  obtain ⟨hop, hd, hr1, hf, him⟩ := rvFields imm r1 d 0 0x13 w hw.symm
  have hop : w % 128 = 0x13 := hop
  have hfp : rvIsFp w = false := by
    unfold rvIsFp
    rw [hop]
    rfl
  have himm : rvImmI w = imm.signExtend 64 := by
    unfold rvImmI rvSext
    rw [him, BitVec.ofNat_toNat, BitVec.setWidth_eq]
  have hval : rvOpImm w 64 (x.xr r1.toNat) = some (x.xr r1.toNat + imm.signExtend 64) := by
    unfold rvOpImm
    rw [show rvF3 w = 0 from hf, himm]
    simp [rvAlu]
  have h32 : rvExec32 u vf x c w 4 = .ok ((x.setX d.toNat (x.xr r1.toNat + imm.signExtend 64)).step 4) u := by
    unfold rvExec32
    dsimp only
    rw [hop, hr1, hval]
    unfold rvSetX
    rw [hd]
    rfl
  unfold rvExec
  rw [if_pos (by omega)]
  unfold rvExecLen
  rw [hfp, if_neg (by simp), h32]
  dsimp only
  rw [if_pos]
  unfold Hart.setX
  split
  · exact ⟨rfl, rfl⟩
  · exact ⟨rfl, rfl⟩


/-! ### Bytes and numbers -/

theorem natBytes_succ (n v : Nat) : natBytes (n + 1) v = BitVec.ofNat 8 v :: natBytes n (v / 256) := by
  unfold natBytes
  rw [List.range_succ_eq_map, List.map_cons, List.map_map]
  refine congrArg₂ List.cons (by simp) (List.map_congr_left fun i _ => ?_)
  show BitVec.ofNat 8 (v / 256 ^ (i + 1)) = _
  rw [Nat.pow_succ', Nat.div_div_eq_div_mul]

/-- The bytes of a number made of bytes, the lowest first. -/
theorem natBytes_foldr {α : Type} (f : α → Byte) (l : List α) : natBytes l.length (l.foldr (fun x v => (f x).toNat + 256 * v) 0) = l.map f := by
  induction l with
  | nil => rfl
  | cons x l ih =>
    have hx := (f x).isLt
    rw [List.length_cons, natBytes_succ, List.foldr_cons, List.map_cons]
    refine congrArg₂ List.cons (BitVec.eq_of_toNat_eq ?_) ?_
    · rw [BitVec.toNat_ofNat]
      norm_num at hx ⊢
      omega
    · rw [show ((f x).toNat + 256 * l.foldr (fun x v => (f x).toNat + 256 * v) 0) / 256 = l.foldr (fun x v => (f x).toNat + 256 * v) 0 by
        norm_num at hx
        omega]
      exact ih

theorem State.memNat_byte (σ : State) (pa : Nat) {n i : Nat} (h : i < n) : BitVec.ofNat 8 (σ.memNat pa n / 256 ^ i) = σ.memByte (pa + i) := by
  have hb := natBytes_foldr (fun i => σ.memByte (pa + i)) (List.range n)
  rw [List.length_range] at hb
  have hi : (natBytes n (σ.memNat pa n)).getD i 0 = _ := congrArg (fun l => l.getD i 0) hb
  rw [natBytes_getD _ _ _ h] at hi
  refine hi.trans ?_
  simp [List.getD, h]

/-! ### A line of a Rink core's cache -/

theorem RLine.snoop_ep (l : RLine) (ws : List (Nat × Byte)) : (l.snoop ws).ep = l.ep := by
  unfold RLine.snoop
  induction ws generalizing l with
  | nil => rfl
  | cons p ws ih =>
    rw [List.foldl_cons, ih]
    split
    · rfl
    · rfl

theorem RLine.byte_put (l : RLine) {i j : Nat} (b : Byte) (d : Bool) (hi : i < 64) (hj : j < 64) : (l.put i b d).byte j = if j = i then b else l.byte j := by
  have hb := b.isLt
  have h255 (k : Nat) : Nat.testBit 255 k = decide (k < 8) := Nat.testBit_two_pow_sub_one 8 k
  have hbit (k : Nat) (hk : 8 ≤ k) : b.toNat.testBit k = false := Nat.testBit_lt_two_pow (lt_of_lt_of_le hb (Nat.pow_le_pow_right (by decide) hk))
  refine BitVec.eq_of_getLsbD_eq fun k hk => ?_
  have hin : 8 * j + k < 512 := by omega
  unfold RLine.byte RLine.put
  simp only [BitVec.getLsbD_extractLsb', BitVec.getLsbD_or, BitVec.getLsbD_and, BitVec.getLsbD_not, BitVec.getLsbD_ofNat, Nat.testBit_mul_two_pow, hk, hin, decide_true, Bool.true_and, h255]
  by_cases hji : j = i
  · subst hji
    rw [if_pos rfl]
    simp [hk, BitVec.testBit_toNat]
  · rw [if_neg hji]
    by_cases hle : 8 * i ≤ 8 * j + k
    · have h8 : 8 ≤ 8 * j + k - 8 * i := by omega
      simp [hk, hbit _ h8, Nat.not_lt.mpr h8]
    · simp [hk, hle]

theorem RLine.dirty_put (l : RLine) {i j : Nat} (b : Byte) (hj : j < 64) : (l.put i b true).dirty.getLsbD j = (l.dirty.getLsbD j || decide (j = i)) := by
  unfold RLine.put
  simp only [if_true, BitVec.getLsbD_or, BitVec.getLsbD_ofNat, hj, decide_true, Bool.true_and, Nat.testBit_two_pow]
  rw [show decide (i = j) = decide (j = i) from decide_eq_decide.2 eq_comm]

theorem RLine.mem_dirtyBytes {l : RLine} {p : Nat × Byte} : p ∈ l.dirtyBytes ↔ ∃ i < 64, l.dirty.getLsbD i = true ∧ p = (64 * l.line + i, l.byte i) := by
  unfold RLine.dirtyBytes
  simp only [List.mem_map, List.mem_filter, List.mem_range]
  exact ⟨fun ⟨i, ⟨hi, hd⟩, hp⟩ => ⟨i, hi, hd, hp.symm⟩, fun ⟨i, hi, hd, hp⟩ => ⟨i, ⟨hi, hd⟩, hp.symm⟩⟩

theorem RLine.hits_iff {id pa : Nat} {l : RLine} : RLine.hits id pa l = true ↔ l.ep = id ∧ l.line = pa / 64 := by simp [RLine.hits]

/-! ### What an access to the cache leaves of gates and of the core's place -/

/-- Gates, and what each Rink core runs, stand as they did. -/
structure State.RinkKept (σ τ : State) : Prop where
  gates : τ.gates = σ.gates
  rinkNo : τ.rinkNo = σ.rinkNo
  current : ∀ n, (τ.rinkOf n).current = (σ.rinkOf n).current

theorem State.RinkKept.refl (σ : State) : σ.RinkKept σ := ⟨rfl, rfl, fun _ => rfl⟩

theorem State.RinkKept.trans {σ τ ρ : State} (h : σ.RinkKept τ) (k : τ.RinkKept ρ) : σ.RinkKept ρ :=
  ⟨k.gates.trans h.gates, k.rinkNo.trans h.rinkNo, fun n => (k.current n).trans (h.current n)⟩

theorem State.RinkKept.rinkId {σ τ : State} (h : σ.RinkKept τ) : τ.rinkId = σ.rinkId := by
  unfold State.rinkId
  rw [h.rinkNo, h.current]

theorem State.RinkKept.gateOf {σ τ : State} (h : σ.RinkKept τ) (g : Nat) : τ.gateOf g = σ.gateOf g := by
  unfold State.gateOf
  rw [h.gates]

theorem State.rinkKept_setRink (σ : State) (n : Nat) (k : Rink) (h : k.current = (σ.rinkOf n).current) : σ.RinkKept (σ.setRink n k) := by
  refine ⟨rfl, rfl, fun m => ?_⟩
  rw [State.rinkOf_setRink]
  split
  next hm => rw [hm, h]
  next => rfl

theorem State.rinkKept_lines (σ τ : State) (n : Nat) (ls : List RLine) (h : σ.RinkKept τ) : σ.RinkKept (τ.setRink n { τ.rinkOf n with lines := ls }) :=
  h.trans (State.rinkKept_setRink _ _ _ rfl)

theorem State.writeList_rinks (σ : State) (l : List (Nat × Byte)) : (σ.writeList l).rinks = σ.rinks := by
  obtain ⟨_, _, _, _, h⟩ := σ.writeList_shape l
  rw [h]

theorem State.rinkPerform_rinkOf (σ : State) (vf : Nat) (ws : List (Nat × Byte)) (n : Nat) :
    (∃ l, (σ.rinkPerform vf ws).rinkOf n = { σ.rinkOf n with lines := (σ.rinkOf n).lines.map fun k => k.snoop l }) ∨ σ.rinkPerform vf ws = σ := by
  unfold State.rinkPerform
  dsimp only
  split
  · exact .inr rfl
  · refine .inl ⟨ws.filter fun p => ownerMatches vf (σ.frameRec (frameOf p.1)).owner, ?_⟩
    unfold State.rinkOf
    rw [State.writeList_rinks]
    generalize ws.filter _ = l
    exact Tbl.get_map_pair σ.rinks (fun k => { k with lines := k.lines.map fun j => j.snoop l }) {} rfl n

theorem State.rinkKept_rinkPerform (σ : State) (vf : Nat) (ws : List (Nat × Byte)) : σ.RinkKept (σ.rinkPerform vf ws) := by
  refine ⟨?_, ?_, fun n => ?_⟩
  · unfold State.rinkPerform
    dsimp only
    split
    · rfl
    · exact (sameGates_noticeRel.writeList _ _).1
  · unfold State.rinkPerform
    dsimp only
    split
    · rfl
    · rename_i h
      generalize ws.filter _ = l
      obtain ⟨_, _, _, _, hw⟩ := State.writeList_shape { σ with rinks := σ.rinks.map fun (p : Nat × Rink) => (p.1, { p.2 with lines := p.2.lines.map fun k => k.snoop l }) } l
      rw [hw]
  · obtain ⟨l, hl⟩ | hl := σ.rinkPerform_rinkOf vf ws n
    · rw [hl]
    · rw [hl]

theorem State.rinkKept_rinkRoom (σ : State) (n : Nat) : σ.RinkKept (σ.rinkRoom n) := by
  unfold State.rinkRoom
  dsimp only
  split
  · exact .refl σ
  split
  · exact .refl σ
  · exact (State.rinkKept_lines σ σ.tickFresh n _ ⟨rfl, rfl, fun _ => rfl⟩).trans (State.rinkKept_rinkPerform _ _ _)

theorem State.rinkKept_rinkFill (σ : State) (n id pa : Nat) : σ.RinkKept (σ.rinkFill n id pa) := by
  unfold State.rinkFill
  split
  · exact .refl σ
  · exact (σ.rinkKept_rinkRoom n).trans (State.rinkKept_setRink _ _ _ rfl)

theorem State.rinkKept_foldl {β : Type} {f : State → β → State} (h : ∀ σ b, State.RinkKept σ (f σ b)) (l : List β) (σ : State) : σ.RinkKept (l.foldl f σ) := by
  induction l generalizing σ with
  | nil => exact .refl σ
  | cons b l ih => exact (h σ b).trans (ih _)

/-- One byte more is stored. -/
def State.rinkPut (σ : State) (n id : Nat) (p : Nat × Byte) : State :=
  (σ.rinkFill n id p.1).setRink n { (σ.rinkFill n id p.1).rinkOf n with
    lines := ((σ.rinkFill n id p.1).rinkOf n).lines.map fun l => if l.hits id p.1 then l.put (p.1 % 64) p.2 true else l }

theorem State.rinkStore_eq (σ : State) (n id : Nat) (ws : List (Nat × Byte)) : σ.rinkStore n id ws = ws.foldl (fun σ p => σ.rinkPut n id p) σ := rfl

theorem State.rinkKept_rinkStore (σ : State) (n id : Nat) (ws : List (Nat × Byte)) : σ.RinkKept (σ.rinkStore n id ws) := by
  rw [State.rinkStore_eq]
  exact State.rinkKept_foldl (fun σ p => State.rinkKept_lines σ _ n _ (σ.rinkKept_rinkFill n id p.1)) ws σ

theorem State.rinkKept_rinkFlush (σ : State) (n id : Nat) (keep : Bool) : σ.RinkKept (σ.rinkFlush n id keep) := by
  unfold State.rinkFlush
  dsimp only
  split
  · exact .refl σ
  · exact (State.rinkKept_lines σ σ n _ (.refl σ)).trans (State.rinkKept_rinkPerform _ _ _)

/-- A flush that does not keep leaves the episode no line. -/
theorem State.rinkFlush_lines (σ : State) (n id : Nat) : ∀ k ∈ ((σ.rinkFlush n id false).rinkOf n).lines, k.ep ≠ id := by
  have hrest : ∀ k ∈ (σ.rinkOf n).lines.filter fun l => decide (l.ep ≠ id), k.ep ≠ id := fun k hk => by simpa using (List.mem_filter.1 hk).2
  unfold State.rinkFlush
  dsimp only
  split
  next he =>
    intro k hk hep
    have hm : k ∈ (σ.rinkOf n).lines.filter fun l => decide (l.ep = id) := List.mem_filter.2 ⟨hk, by simpa using hep⟩
    rw [List.isEmpty_iff.1 he] at hm
    cases hm
  next =>
    generalize (List.flatMap _ _) = ws
    have hset : ((σ.setRink n { σ.rinkOf n with lines := if false = true then (((σ.rinkOf n).lines.filter fun l => decide (l.ep = id)).map fun l => { l with dirty := 0 }) ++ (σ.rinkOf n).lines.filter fun l => decide (l.ep ≠ id) else (σ.rinkOf n).lines.filter fun l => decide (l.ep ≠ id) }).rinkOf n).lines
        = (σ.rinkOf n).lines.filter fun l => decide (l.ep ≠ id) := congrArg Rink.lines (State.rinkOf_setRink_same ..)
    obtain ⟨l, hl⟩ | hl := State.rinkPerform_rinkOf (σ.setRink n { σ.rinkOf n with lines := if false = true then (((σ.rinkOf n).lines.filter fun l => decide (l.ep = id)).map fun l => { l with dirty := 0 }) ++ (σ.rinkOf n).lines.filter fun l => decide (l.ep ≠ id) else (σ.rinkOf n).lines.filter fun l => decide (l.ep ≠ id) }) (id / 4096) ws n
    · rw [hl]
      dsimp only
      rw [hset]
      intro k hk
      obtain ⟨k', hk', rfl⟩ := List.mem_map.1 hk
      rw [k'.snoop_ep]
      exact hrest k' hk'
    · rw [hl, hset]
      exact hrest

/-! ### Bytes stored into a cache that has room -/

/-- What stands in a core's cache for an episode when the bytes of a list have been stored into it, one after the other, and nothing else was dirty. -/
structure State.Stored (σ : State) (n id : Nat) (ws : List (Nat × Byte)) (τ : State) : Prop where
  shape : ∃ rs, τ = { σ with rinks := rs }
  count : (τ.rinkOf n).lines.length ≤ (σ.rinkOf n).lines.length + ws.length
  dirty : ∀ k ∈ (τ.rinkOf n).lines, k.ep = id → ∀ i < 64, k.dirty.getLsbD i = true → ∃ p ∈ ws, p.1 = 64 * k.line + i
  byte : ∀ k ∈ (τ.rinkOf n).lines, k.ep = id → ∀ p ∈ ws, p.1 / 64 = k.line → k.dirty.getLsbD (p.1 % 64) = true ∧ k.byte (p.1 % 64) = p.2
  held : ∀ p ∈ ws, ∃ k ∈ (τ.rinkOf n).lines, k.ep = id ∧ k.line = p.1 / 64

theorem State.rinkRoom_of_room {σ : State} {n : Nat} (h : (σ.rinkOf n).lines.length < rinkLines) : σ.rinkRoom n = σ := by
  unfold State.rinkRoom
  dsimp only
  rw [if_pos h]

/-- The line that an access to an address brings. -/
def State.rinkNew (σ : State) (id pa : Nat) : RLine := { ep := id, line := pa / 64, data := BitVec.ofNat 512 (σ.memNat (pa / 64 * 64) 64) }

theorem State.rinkFill_cases {σ : State} {n : Nat} (id pa : Nat) (h : (σ.rinkOf n).lines.length < rinkLines) :
    (σ.rinkFill n id pa = σ ∧ ∃ k ∈ (σ.rinkOf n).lines, k.ep = id ∧ k.line = pa / 64)
    ∨ (σ.rinkFill n id pa = σ.setRink n { σ.rinkOf n with lines := σ.rinkNew id pa :: (σ.rinkOf n).lines } ∧ ∀ k ∈ (σ.rinkOf n).lines, ¬(k.ep = id ∧ k.line = pa / 64)) := by
  unfold State.rinkFill State.rinkLine
  split
  next hs =>
    obtain ⟨k, hk⟩ := Option.isSome_iff_exists.1 hs
    exact .inl ⟨rfl, k, List.mem_of_find?_eq_some hk, RLine.hits_iff.1 (List.find?_some hk)⟩
  next hs =>
    refine .inr ⟨?_, fun k hk hh => ?_⟩
    · dsimp only
      rw [State.rinkRoom_of_room h]
      rfl
    · exact List.find?_eq_none.1 (Option.not_isSome_iff_eq_none.1 hs) k hk (RLine.hits_iff.2 hh)

theorem State.rinkStore_append (σ : State) (n id : Nat) (ws : List (Nat × Byte)) (p : Nat × Byte) : σ.rinkStore n id (ws ++ [p]) = (σ.rinkStore n id ws).rinkPut n id p := by
  rw [State.rinkStore_eq, List.foldl_append]
  rfl

/-- The lines that a byte is put into: those there were, or one more that is clean. -/
theorem State.rinkPut_lines {σ : State} {n : Nat} (id : Nat) (p : Nat × Byte) (h : (σ.rinkOf n).lines.length < rinkLines) :
    ∃ ls : List RLine, (∃ rs, σ.rinkPut n id p = { σ with rinks := rs }) ∧ ((σ.rinkPut n id p).rinkOf n).lines = ls.map (fun l => if l.hits id p.1 then l.put (p.1 % 64) p.2 true else l)
      ∧ (∃ k ∈ ls, k.ep = id ∧ k.line = p.1 / 64) ∧ (∀ k ∈ (σ.rinkOf n).lines, k ∈ ls) ∧ ls.length ≤ (σ.rinkOf n).lines.length + 1
      ∧ ∀ k ∈ ls, k ∈ (σ.rinkOf n).lines ∨ (k.dirty = 0 ∧ k.ep = id ∧ k.line = p.1 / 64 ∧ ∀ k ∈ (σ.rinkOf n).lines, ¬(k.ep = id ∧ k.line = p.1 / 64)) := by
  have hput (k : Rink) : (σ.setRink n k).rinkOf n = k := σ.rinkOf_setRink_same n k
  unfold State.rinkPut
  obtain ⟨he, hk⟩ | ⟨he, hn⟩ := State.rinkFill_cases id p.1 h
  · rw [he]
    exact ⟨(σ.rinkOf n).lines, ⟨_, rfl⟩, congrArg Rink.lines (State.rinkOf_setRink_same ..), hk, fun _ h => h, Nat.le_succ _, fun _ h => .inl h⟩
  · rw [he, hput]
    refine ⟨σ.rinkNew id p.1 :: (σ.rinkOf n).lines, ⟨_, rfl⟩, congrArg Rink.lines (State.rinkOf_setRink_same ..), ⟨_, List.mem_cons_self, rfl, rfl⟩,
      fun _ h => List.mem_cons_of_mem _ h, Nat.le_refl _, fun k hk => ?_⟩
    obtain rfl | hk := List.mem_cons.1 hk
    · exact .inr ⟨rfl, rfl, rfl, hn⟩
    · exact .inl hk

theorem State.Stored.put {σ τ : State} {n id : Nat} {ws : List (Nat × Byte)} (h : σ.Stored n id ws τ) (p : Nat × Byte) (hp : ∀ q ∈ ws, q.1 ≠ p.1)
    (hroom : (τ.rinkOf n).lines.length < rinkLines) : σ.Stored n id (ws ++ [p]) (τ.rinkPut n id p) := by
  obtain ⟨ls, ⟨rs, hs⟩, hl, ⟨k0, hk0, he0, hl0⟩, hsub, hlen, hnew⟩ := State.rinkPut_lines (σ := τ) (n := n) id p hroom
  obtain ⟨rs', hs'⟩ := h.shape
  have hmem {k : RLine} (hk : k ∈ ((τ.rinkPut n id p).rinkOf n).lines) : ∃ l ∈ ls, k = if l.hits id p.1 then l.put (p.1 % 64) p.2 true else l := by
    rw [hl] at hk
    obtain ⟨l, hl, rfl⟩ := List.mem_map.1 hk
    exact ⟨l, hl, rfl⟩
  have hm64 : p.1 % 64 < 64 := Nat.mod_lt _ (by decide)
  refine ⟨⟨rs, hs.trans (by rw [hs'])⟩, ?_, fun k hk hep i hi hd => ?_, fun k hk hep q hq hql => ?_, fun q hq => ?_⟩
  · rw [hl, List.length_map, List.length_append]
    have := h.count
    simp only [List.length_singleton]
    omega
  · obtain ⟨l, hll, rfl⟩ := hmem hk
    by_cases hh : l.hits id p.1
    · rw [if_pos hh] at hd ⊢
      obtain ⟨hle, hln⟩ := RLine.hits_iff.1 hh
      rw [RLine.dirty_put _ _ hi, Bool.or_eq_true, decide_eq_true_iff] at hd
      show ∃ q ∈ ws ++ [p], q.1 = 64 * l.line + i
      obtain hd | rfl := hd
      · obtain hl' | ⟨h0, -⟩ := hnew l hll
        · obtain ⟨q, hq, hqe⟩ := h.dirty l hl' hle i hi hd
          exact ⟨q, List.mem_append_left _ hq, hqe⟩
        · rw [h0] at hd
          simp at hd
      · exact ⟨p, by simp, by omega⟩
    · rw [if_neg hh] at hep hd ⊢
      obtain hl' | ⟨h0, -⟩ := hnew l hll
      · obtain ⟨q, hq, hqe⟩ := h.dirty l hl' hep i hi hd
        exact ⟨q, List.mem_append_left _ hq, hqe⟩
      · rw [h0] at hd
        simp at hd
  · obtain ⟨l, hll, rfl⟩ := hmem hk
    have hq64 : q.1 % 64 < 64 := Nat.mod_lt _ (by decide)
    by_cases hh : l.hits id p.1
    · rw [if_pos hh] at hql
      rw [if_pos hh, RLine.dirty_put _ _ hq64, RLine.byte_put _ _ _ hm64 hq64]
      obtain ⟨hle, hln⟩ := RLine.hits_iff.1 hh
      have hqline : q.1 / 64 = l.line := hql
      obtain hq | hq := List.mem_append.1 hq
      · have hne : q.1 % 64 ≠ p.1 % 64 := fun hme => hp q hq (by omega)
        rw [if_neg hne]
        obtain hl' | ⟨-, -, -, hno⟩ := hnew l hll
        · obtain ⟨hd, hb⟩ := h.byte l hl' hle q hq hqline
          exact ⟨by rw [hd, Bool.true_or], hb⟩
        · obtain ⟨k', hk', hke, hkl⟩ := h.held q hq
          exact absurd ⟨hke, by omega⟩ (hno k' hk')
      · obtain rfl : q = p := List.mem_singleton.1 hq
        exact ⟨by simp, if_pos rfl⟩
    · rw [if_neg hh] at hep hql ⊢
      obtain hq | hq := List.mem_append.1 hq
      · obtain hl' | ⟨-, -, hln, hno⟩ := hnew l hll
        · exact h.byte l hl' hep q hq hql
        · obtain ⟨k', hk', hke, hkl⟩ := h.held q hq
          exact absurd ⟨hke, by omega⟩ (hno k' hk')
      · obtain rfl : q = p := List.mem_singleton.1 hq
        exact absurd (RLine.hits_iff.2 ⟨hep, hql.symm⟩) hh
  · have hof {l : RLine} (hll : l ∈ ls) (he : l.ep = id) (hline : l.line = q.1 / 64) : ∃ k ∈ ((τ.rinkPut n id p).rinkOf n).lines, k.ep = id ∧ k.line = q.1 / 64 := by
      rw [hl]
      refine ⟨_, List.mem_map_of_mem hll, ?_⟩
      split
      · exact ⟨he, hline⟩
      · exact ⟨he, hline⟩
    obtain hq | hq := List.mem_append.1 hq
    · obtain ⟨k', hk', hke, hkl⟩ := h.held q hq
      exact hof (hsub k' hk') hke hkl
    · obtain rfl : q = p := List.mem_singleton.1 hq
      exact hof hk0 he0 hl0

theorem State.rinkStore_stored (σ : State) (n id : Nat) (ws : List (Nat × Byte)) (hclean : ∀ k ∈ (σ.rinkOf n).lines, k.ep = id → k.dirty = 0) (hnd : (ws.map (·.1)).Nodup)
    (hroom : (σ.rinkOf n).lines.length + ws.length ≤ rinkLines) : σ.Stored n id ws (σ.rinkStore n id ws) := by
  induction ws using List.reverseRecOn with
  | nil =>
    refine ⟨⟨σ.rinks, rfl⟩, Nat.le_refl _, fun k hk he i _ hd => ?_, fun _ _ _ _ hp => (nomatch hp), fun _ hp => (nomatch hp)⟩
    rw [hclean k hk he] at hd
    simp at hd
  | append_singleton ws p ih =>
    rw [List.length_append, List.length_singleton] at hroom
    rw [List.map_append, List.nodup_append] at hnd
    have hst := ih hnd.1 (by omega)
    rw [State.rinkStore_append]
    exact hst.put p (fun q hq => hnd.2.2 q.1 (List.mem_map_of_mem hq) p.1 (by simp)) (by have := hst.count; omega)

/-! ### The flush of what was stored -/

theorem State.memByte_setRink (σ : State) (n : Nat) (k : Rink) (a : Nat) : (σ.setRink n k).memByte a = σ.memByte a := rfl

theorem State.rinkPerform_memByte (σ : State) (vf : Nat) (ws : List (Nat × Byte)) (ho : ∀ p ∈ ws, ownerMatches vf (σ.frameRec (frameOf p.1)).owner = true) :
    (∀ p ∈ ws, (∀ v, (p.1, v) ∈ ws → v = p.2) → (σ.rinkPerform vf ws).memByte p.1 = p.2) ∧ ∀ a, (∀ p ∈ ws, p.1 ≠ a) → (σ.rinkPerform vf ws).memByte a = σ.memByte a := by
  have hf : (ws.filter fun p => ownerMatches vf (σ.frameRec (frameOf p.1)).owner) = ws := List.filter_eq_self.2 ho
  unfold State.rinkPerform
  dsimp only
  rw [hf]
  split
  next he =>
    rw [List.isEmpty_iff.1 he]
    exact ⟨fun _ hp => (nomatch hp), fun _ _ => rfl⟩
  next =>
    refine ⟨fun p hp hu => State.writeList_memByte_of_unique _ _ _ _ hp hu, fun a ha => (State.writeList_memByte_ne _ _ _ ha).trans ?_⟩
    refine State.memByte_congr ?_ ?_ ?_ a
    · rfl
    · rfl
    · rfl

/-- Stored bytes of frames that are the VF's go to memory, and nothing else does. -/
theorem State.Stored.flush {σ τ : State} {n id : Nat} {ws : List (Nat × Byte)} (h : σ.Stored n id ws τ) (hnd : (ws.map (·.1)).Nodup)
    (ho : ∀ p ∈ ws, ownerMatches (id / 4096) (σ.frameRec (frameOf p.1)).owner = true) :
    (∀ p ∈ ws, (τ.rinkFlush n id false).memByte p.1 = p.2) ∧ ∀ a, (∀ p ∈ ws, p.1 ≠ a) → (τ.rinkFlush n id false).memByte a = σ.memByte a := by
  obtain ⟨rs, hs⟩ := h.shape
  have hmine {k : RLine} : k ∈ ((τ.rinkOf n).lines.filter fun l => decide (l.ep = id)) ↔ k ∈ (τ.rinkOf n).lines ∧ k.ep = id := by simp
  have hbytes {p : Nat × Byte} : p ∈ (((τ.rinkOf n).lines.filter fun l => decide (l.ep = id)).flatMap RLine.dirtyBytes) ↔ p ∈ ws := by
    rw [List.mem_flatMap]
    constructor
    · rintro ⟨k, hk, hp⟩
      obtain ⟨hk, he⟩ := hmine.1 hk
      obtain ⟨i, hi, hd, rfl⟩ := RLine.mem_dirtyBytes.1 hp
      obtain ⟨q, hq, hqe⟩ := h.dirty k hk he i hi hd
      have hb := (h.byte k hk he q hq (by omega)).2
      rw [show q.1 % 64 = i by omega] at hb
      rw [hb, ← hqe]
      exact hq
    · intro hp
      obtain ⟨k, hk, he, hl⟩ := h.held p hp
      obtain ⟨hd, hb⟩ := h.byte k hk he p hp hl.symm
      refine ⟨k, hmine.2 ⟨hk, he⟩, RLine.mem_dirtyBytes.2 ⟨p.1 % 64, Nat.mod_lt _ (by decide), hd, Prod.ext ?_ hb.symm⟩⟩
      show p.1 = 64 * k.line + p.1 % 64
      omega
  have hm (a : Nat) : τ.memByte a = σ.memByte a := by
    rw [hs]
    rfl
  unfold State.rinkFlush
  dsimp only
  split
  next he =>
    have hnil : ws = [] := by
      refine List.eq_nil_iff_forall_not_mem.2 fun p hp => ?_
      have hpm := hbytes.2 hp
      rw [List.isEmpty_iff.1 he] at hpm
      cases hpm
    rw [hnil]
    exact ⟨fun _ hp => (nomatch hp), fun a _ => hm a⟩
  next =>
    have hown : ∀ (k : Rink), ∀ p ∈ (((τ.rinkOf n).lines.filter fun l => decide (l.ep = id)).flatMap RLine.dirtyBytes),
        ownerMatches (id / 4096) ((τ.setRink n k).frameRec (frameOf p.1)).owner = true := fun k p hp => by
      rw [hs]
      exact ho p (hbytes.1 hp)
    obtain ⟨h1, h2⟩ := State.rinkPerform_memByte _ _ _ (hown _)
    refine ⟨fun p hp => h1 p (hbytes.2 hp) fun v hv => ?_, fun a ha => (h2 a fun p hp => ha p (hbytes.1 hp)).trans ((State.memByte_setRink _ _ _ a).trans (hm a))⟩
    have hv := hbytes.1 hv
    have := List.inj_on_of_nodup_map hnd hv hp rfl
    exact congrArg Prod.snd this


/-! ### Bytes read through a cache that has room -/

/-- A core's cache when more lines of an episode have been brought into it: the episode reads the same bytes through it. -/
structure State.Filled (σ : State) (n id c : Nat) (τ : State) : Prop where
  shape : ∃ rs, τ = { σ with rinks := rs }
  count : (τ.rinkOf n).lines.length ≤ (σ.rinkOf n).lines.length + c
  clean : (∀ k ∈ (σ.rinkOf n).lines, k.ep = id → k.dirty = 0) → ∀ k ∈ (τ.rinkOf n).lines, k.ep = id → k.dirty = 0
  byte : ∀ a, τ.rinkByte n id a = σ.rinkByte n id a

theorem State.Filled.refl (σ : State) (n id : Nat) : σ.Filled n id 0 σ := ⟨⟨σ.rinks, rfl⟩, Nat.le_refl _, fun h => h, fun _ => rfl⟩

theorem State.Filled.trans {σ τ ρ : State} {n id c d : Nat} (h : σ.Filled n id c τ) (k : τ.Filled n id d ρ) : σ.Filled n id (c + d) ρ := by
  obtain ⟨rs, hs⟩ := h.shape
  obtain ⟨rs', hs'⟩ := k.shape
  have hc := h.count
  have hd := k.count
  exact ⟨⟨rs', hs'.trans (by rw [hs])⟩, by omega, fun hq => k.clean (h.clean hq), fun a => (k.byte a).trans (h.byte a)⟩

theorem State.rinkNew_byte (σ : State) (id pa a : Nat) (h : a / 64 = pa / 64) : (σ.rinkNew id pa).byte (a % 64) = σ.memByte a := by
  have hi : a % 64 < 64 := Nat.mod_lt _ (by decide)
  have hb := σ.memNat_byte (pa / 64 * 64) (n := 64) hi
  rw [show pa / 64 * 64 + a % 64 = a by omega] at hb
  rw [← hb]
  refine BitVec.eq_of_toNat_eq ?_
  unfold RLine.byte State.rinkNew
  have hlt : σ.memNat (pa / 64 * 64) 64 < 2 ^ 512 := lt_of_lt_of_eq (σ.memNat_lt _ 64) (Nat.pow_mul 2 8 64).symm
  rw [BitVec.extractLsb'_toNat, BitVec.toNat_ofNat, BitVec.toNat_ofNat, Nat.mod_eq_of_lt hlt, Nat.shiftRight_eq_div_pow, Nat.pow_mul]

theorem State.rinkFill_filled (σ : State) (n id pa : Nat) (h : (σ.rinkOf n).lines.length < rinkLines) : σ.Filled n id 1 (σ.rinkFill n id pa) := by
  obtain ⟨he, -⟩ | ⟨he, hno⟩ := State.rinkFill_cases id pa h
  · rw [he]
    exact ⟨⟨σ.rinks, rfl⟩, Nat.le_succ _, fun h => h, fun _ => rfl⟩
  · rw [he]
    have hl : ((σ.setRink n { σ.rinkOf n with lines := σ.rinkNew id pa :: (σ.rinkOf n).lines }).rinkOf n).lines = σ.rinkNew id pa :: (σ.rinkOf n).lines :=
      congrArg Rink.lines (State.rinkOf_setRink_same ..)
    refine ⟨⟨_, rfl⟩, (congrArg List.length hl).le, fun hc k hk hep => ?_, fun a => ?_⟩
    · rw [hl] at hk
      obtain rfl | hk := List.mem_cons.1 hk
      · rfl
      · exact hc k hk hep
    · unfold State.rinkByte State.rinkLine
      rw [hl, List.find?_cons]
      by_cases ha : a / 64 = pa / 64
      · rw [show RLine.hits id a (σ.rinkNew id pa) = true from RLine.hits_iff.2 ⟨rfl, ha.symm⟩]
        dsimp only
        rw [σ.rinkNew_byte id pa a ha, List.find?_eq_none.2 fun k hk hh => hno k hk (ha ▸ RLine.hits_iff.1 hh)]
      · rw [show RLine.hits id a (σ.rinkNew id pa) = false from Bool.eq_false_iff.2 fun hh => ha (RLine.hits_iff.1 hh).2.symm]
        rfl

theorem State.rinkFills_filled (l : List Nat) (σ : State) (n id : Nat) (h : (σ.rinkOf n).lines.length + l.length ≤ rinkLines) :
    σ.Filled n id l.length (l.foldl (fun (σ : State) pa => σ.rinkFill n id pa) σ) := by
  induction l generalizing σ with
  | nil => exact .refl σ n id
  | cons pa l ih =>
    rw [List.length_cons] at h
    have h1 := σ.rinkFill_filled n id pa (by omega)
    have hc := h1.count
    rw [List.length_cons, Nat.add_comm]
    exact h1.trans (ih _ (by omega))

theorem State.rinkFlush_clean {σ : State} {n id : Nat} (keep : Bool) (h : ∀ k ∈ (σ.rinkOf n).lines, k.ep = id → k.dirty = 0) : SameMemory σ (σ.rinkFlush n id keep) := by
  have hnil : ((σ.rinkOf n).lines.filter fun l => decide (l.ep = id)).flatMap RLine.dirtyBytes = [] := by
    refine List.flatMap_eq_nil_iff.2 fun k hk => List.eq_nil_iff_forall_not_mem.2 fun p hp => ?_
    obtain ⟨hk, he⟩ := List.mem_filter.1 hk
    obtain ⟨i, -, hd, -⟩ := RLine.mem_dirtyBytes.1 hp
    rw [h k hk (of_decide_eq_true he)] at hd
    simp at hd
  unfold State.rinkFlush
  dsimp only
  split
  · exact fun _ => rfl
  · rw [hnil]
    exact fun _ => rfl

/-- An access that goes on fills tiles alone, and answers as many addresses as it has bytes. -/
theorem State.rvAccess_ok {σ σ' : State} {vf a n : Nat} {kind : Kind} {l : List Nat} (h : σ.rvAccess vf kind a n = .ok l σ') :
    (∃ ts, σ' = { σ with tiles := ts }) ∧ SameMemory σ σ' ∧ l.length = n := by
  have hplace : ∀ (n a : Nat) (l : List Nat), σ.rvPlace vf kind a n = .ok l → l.length = n := by
    intro n
    induction n with
    | zero =>
      intro a l hl
      cases hl
      rfl
    | succ n ih =>
      intro a l hl
      unfold State.rvPlace at hl
      dsimp only at hl
      split at hl
      · cases hl
      split at hl
      · cases hl
      split at hl
      · cases hl
      next l' hl' =>
        cases hl
        rw [List.length_cons, ih _ _ hl']
  have hfold : ∀ (l : List Nat) (τ : State), (∃ ts, l.foldl (fun σ pa => if σ.rinkHit pa then σ else σ.fill pa) τ = { τ with tiles := ts })
      ∧ SameMemory τ (l.foldl (fun σ pa => if σ.rinkHit pa then σ else σ.fill pa) τ) := by
    intro l
    induction l with
    | nil => exact fun τ => ⟨⟨τ.tiles, rfl⟩, fun _ => rfl⟩
    | cons pa l ih =>
      intro τ
      rw [List.foldl_cons]
      split
      · exact ih τ
      · obtain ⟨⟨ts, hts⟩, hm⟩ := ih (τ.fill pa)
        obtain ⟨ts', hts'⟩ := τ.fill_shape pa
        refine ⟨⟨ts, hts.trans (by rw [hts'])⟩, fun b => (hm b).trans (τ.memByte_fill pa b)⟩
  unfold State.rvAccess at h
  split at h
  · cases h
  split at h
  · split at h
    · cases h
    · cases h
  next l' hl' =>
    split at h
    · cases h
    · cases h
      exact ⟨(hfold l σ).1, (hfold l σ).2, hplace _ _ _ hl'⟩

/-- A read of an episode through the cache. -/
theorem State.rvRead_ok {σ σ' : State} {vf a n : Nat} {l : List Nat} (hm : σ.rvMonitor .read = false) (h : σ.rvAccess vf .read a n = .ok l σ') :
    ∃ v, σ.rvRead vf .read a n = .ok v (l.foldl (fun (σ : State) pa => σ.rinkFill σ'.rinkNo σ'.rinkId pa) σ')
      ∧ natBytes n v = l.map ((l.foldl (fun (σ : State) pa => σ.rinkFill σ'.rinkNo σ'.rinkId pa) σ').rinkByte σ'.rinkNo σ'.rinkId) := by
  have hk : ∀ (l : List Nat) (τ : State), σ'.RinkKept τ → l.foldl (fun (σ : State) pa => σ.rinkFill σ.rinkNo σ.rinkId pa) τ = l.foldl (fun (σ : State) pa => σ.rinkFill σ'.rinkNo σ'.rinkId pa) τ := by
    intro l
    induction l with
    | nil => exact fun _ _ => rfl
    | cons pa l ih =>
      intro τ hτ
      rw [List.foldl_cons, List.foldl_cons, hτ.rinkNo, hτ.rinkId]
      exact ih _ (hτ.trans (τ.rinkKept_rinkFill _ _ _))
  have hkept := State.rinkKept_foldl (fun σ pa => State.rinkKept_rinkFill σ σ'.rinkNo σ'.rinkId pa) l σ'
  unfold State.rvRead
  rw [hm, if_neg (by decide), h]
  dsimp only
  rw [hk l σ' (.refl σ'), hkept.rinkNo, hkept.rinkId]
  refine ⟨_, rfl, ?_⟩
  have hlen := (State.rvAccess_ok h).2.2
  rw [← hlen]
  exact natBytes_foldr _ l

/-! ### MB.RECV and MB.SEND -/

section
variable {s : State} {id : Nat} (h : s.InEpisode id) (hfit : (s.epOf (id / 4096) (id % 4096)).stepCyc + s.rinkCost ≤ (s.epOf (id / 4096) (id % 4096)).stepb)
include h hfit

theorem exec_mbRecv_ok {r1 d : BitVec 5} {l : List Nat} {u' : State} {m : Msg} {rest : List Msg} (ha : ((s.epOf (id / 4096) (id % 4096)).hart.xr r1.toNat).toNat % 8 = 0)
    (hacc : s.tickFresh.rvAccess (id / 4096) .write ((s.epOf (id / 4096) (id % 4096)).hart.xr r1.toNat).toNat 256 = .ok l u')
    (hst : s.stale (id / 4096) (s.epOf (id / 4096) (id % 4096)) = false) (hm : (s.gateOf (s.epOf (id / 4096) (id % 4096)).gate).acts = m :: rest) :
    let e := s.epOf (id / 4096) (id % 4096)
    let w := (u'.setGate e.gate { s.gateOf e.gate with acts := rest })
    exec (.mbRecv r1 d) s = .next (((w.rinkStore s.rinkNo id (l.zip m.data)).rinkFlush s.rinkNo id false).rinkRetire (id / 4096) (id % 4096) s.rinkCost
      ({ e with lastGen := m.gen, received := true }.next (e.hart.setX d.toNat m.hdr)) true) := by
  intro e w
  obtain ⟨⟨ts, hts⟩, -, -⟩ := State.rvAccess_ok hacc
  have hg : u'.gateOf e.gate = s.gateOf e.gate := by
    rw [hts]
    rfl
  have hno : u'.rinkNo = s.rinkNo ∧ u'.rinkId = id := by
    rw [hts]
    exact ⟨rfl, h.rinkId⟩
  have hstale : u'.stale (id / 4096) e = false := by
    rw [hts]
    exact hst
  have hsync (w : State) (h1 : w.rinkNo = s.rinkNo) (h2 : w.rinkId = id) :
      (w.rinkStore w.rinkNo w.rinkId (l.zip m.data)).rvSync = (w.rinkStore s.rinkNo id (l.zip m.data)).rinkFlush s.rinkNo id false := by
    have hk := w.rinkKept_rinkStore s.rinkNo id (l.zip m.data)
    unfold State.rvSync
    rw [h1, h2, hk.rinkNo, hk.rinkId, h1, h2]
  show execMbRecv r1 d s = _
  unfold execMbRecv
  refine rinkWord_done h hfit ?_ fun ⟨_, _, _, hne⟩ => hne rfl
  dsimp only
  rw [if_neg (not_not.2 ha), hacc]
  dsimp only
  rw [hstale, if_neg (by decide), hg, hm]
  dsimp only
  exact congrArg _ (hsync _ hno.1 hno.2)

theorem exec_mbSend_ok {r1 r2 : BitVec 5} {τ : State} {len v : Nat} {ptr : Bool}
    (hgoes : (s.epOf (id / 4096) (id % 4096)).totb = 0 ∨ (s.epOf (id / 4096) (id % 4096)).steps + 1 ≠ (s.epOf (id / 4096) (id % 4096)).totb)
    (hdepth : (s.gateOf (s.epOf (id / 4096) (id % 4096)).gate).obs.length < 4) (hx : ((s.epOf (id / 4096) (id % 4096)).hart.xr r2.toNat).toNat = len + if ptr then 2 ^ 15 else 0)
    (hlen : len ≤ 256) (hptr : ptr = true → len = 8)
    (hread : (if ptr then .ok ((s.epOf (id / 4096) (id % 4096)).hart.xr r1.toNat).toNat s.tickFresh
      else s.tickFresh.rvRead (id / 4096) .read ((s.epOf (id / 4096) (id % 4096)).hart.xr r1.toNat).toNat len) = RvOut.ok v τ) (hτ : s.RinkKept τ) :
    let e := s.epOf (id / 4096) (id % 4096)
    let ρ := τ.rinkFlush s.rinkNo id true
    let m : Msg := { hdr := msgHeader e.stamp (s.gateOf e.gate).seqObs 1 0 ptr len, data := natBytes len v }
    ∃ t, exec (.mbSend r2 r1) s = .next t ∧ State.Retired ((ρ.setGate e.gate { s.gateOf e.gate with obs := (s.gateOf e.gate).obs ++ [m], seqObs := ((s.gateOf e.gate).seqObs + 1) % 256 }).serveGate e.gate)
      (id / 4096) (id % 4096) s.rinkCost (e.endStep.next e.hart) true t := by
  intro e ρ m
  refine ⟨_, ?_, State.rinkRetire_spec ..⟩
  have hb : bits (e.hart.xr r2.toNat).toNat 8 0 = len ∧ bit (e.hart.xr r2.toNat).toNat 15 = ptr := by
    rw [hx]
    cases ptr with
    | false =>
      refine ⟨?_, Nat.testBit_lt_two_pow (by norm_num; omega)⟩
      simp [bits]
      omega
    | true =>
      rw [hptr rfl]
      exact ⟨by decide, by decide⟩
  have hguard : ¬((e.hart.xr r2.toNat).toNat ≠ len + (if ptr then 2 ^ 15 else 0) ∨ 256 < len ∨ (ptr = true ∧ len ≠ 8)) := by
    rintro (hn | hn | ⟨hp, hn⟩)
    · exact hn hx
    · omega
    · exact hn (hptr hp)
  have hk := hτ.trans (τ.rinkKept_rinkFlush s.rinkNo id true)
  show execMbSend r2 r1 s = _
  unfold execMbSend
  refine rinkWord_done h hfit ?_ fun ⟨_, h0, h1, _⟩ => hgoes.elim h0 fun hn => hn h1
  dsimp only
  rw [hb.1, hb.2, if_neg hguard, hread]
  dsimp only
  rw [hτ.rinkNo, hτ.rinkId, h.rinkId, hk.gateOf, if_neg (show ¬Config.gateDepth ≤ _ from Nat.not_le.mpr hdepth)]

end

theorem zip_places (l : List Nat) (ds : List Byte) : (l.zip ds).map (·.1) = l.take ds.length := by
  induction l generalizing ds with
  | nil => simp
  | cons a l ih =>
    cases ds with
    | nil => rfl
    | cons b ds => exact congrArg (a :: ·) (ih ds)

/-- A word that moves its hart on leaves the registers it does not write. -/
theorem State.Retired.moved {τ t : State} {vf ep k : Nat} {e : Episode} {reset : Bool} {x : Hart} {d : Nat} {v : Word}
    (h : τ.Retired vf ep k e reset t) (hx : e.hart = (x.setX d v).step 4) :
    (t.epOf vf ep).hart.pc = x.pc + 4 ∧ (t.epOf vf ep).hart.instret = x.instret + 1 ∧ (∀ r, r ∉ [d] → (t.epOf vf ep).hart.xr r = x.xr r)
      ∧ (d ≠ 0 → (t.epOf vf ep).hart.xr d = v) := by
  have hp := x.setX_pc d v
  rw [h.hart, hx]
  refine ⟨?_, ?_, fun r hr => x.xr_setX_ne v (by simpa using hr), fun hd => x.xr_setX_same v hd⟩
  · show (x.setX d v).pc + 4 = _
    rw [hp.1]
  · show (x.setX d v).instret + 1 = _
    rw [hp.2]

/-- A word that moves its hart on and writes no register. -/
theorem State.Retired.movedOn {τ t : State} {vf ep k : Nat} {e : Episode} {reset : Bool} {x : Hart} (h : τ.Retired vf ep k e reset t) (hx : e.hart = x.step 4) :
    (t.epOf vf ep).hart.pc = x.pc + 4 ∧ (t.epOf vf ep).hart.instret = x.instret + 1 ∧ ∀ r, (t.epOf vf ep).hart.xr r = x.xr r := by
  rw [h.hart, hx]
  exact ⟨rfl, rfl, fun _ => rfl⟩

theorem State.Retired.noLines {σ t : State} {vf ep n id k : Nat} {e : Episode} {reset : Bool} (h : (σ.rinkFlush n id false).Retired vf ep k e reset t) :
    ∀ l ∈ (t.rinkOf n).lines, l.ep ≠ id := by
  rw [h.lines]
  exact σ.rinkFlush_lines n id

theorem State.serveGate_empty {σ : State} {g : Nat} (h : (σ.gateOf g).waiters = []) : σ.serveGate g = σ := by
  unfold State.serveGate
  rw [h]
  rfl

theorem State.Retired.gateOf {τ t : State} {vf ep k : Nat} {e : Episode} {reset : Bool} (h : τ.Retired vf ep k e reset t) (g : Nat) : t.gateOf g = τ.gateOf g := by
  unfold State.gateOf
  rw [h.gates]

/-- A gate at which nobody waits keeps its observations. -/
theorem State.Retired.served {σ t : State} {vf ep g k : Nat} {v : Gate} {e : Episode} {reset : Bool} (h : ((σ.setGate g v).serveGate g).Retired vf ep k e reset t)
    (hw : v.waiters = []) : t.gateOf g = v := by
  have hg : (σ.setGate g v).gateOf g = v := Tbl.get_set_same ..
  rw [h.gateOf, State.serveGate_empty (by rw [hg, hw]), hg]

/-- Settles O33: what each word leaves through `rinkRetire_spec`, MB.RECV's bytes through `Stored` and its flush, MB.SEND's through `Filled`. -/
theorem rinkWords : Obligations.RinkWords := by
  unfold Obligations.RinkWords
  intro s d r1 r2 w imm id vf ep e gt u fits goes x after moved same v len cut room clean owned hcur hmach
  have h : s.InEpisode id := ⟨hcur, hmach⟩
  have hd0 : d ≠ 0 → d.toNat ≠ 0 := fun hd hn => hd (BitVec.eq_of_toNat_eq hn)
  refine ⟨fun hfit => ?_, fun hfit hgoes => ?_, fun hfit => ?_, fun hfit h2 => exec_epExit_spec h r1 hfit h2, fun hfit ha l u' hacc hst m rest hm => ?_,
    fun hfit hgoes hdepth hv hlen l u' hacc => ?_, fun hfit hgoes hdepth hv => ?_, fun hfit h' u' hx => ?_, fun hfit hw => ?_⟩
  · have hr := s.tickFresh.rinkRetire_spec vf ep s.rinkCost (e.next (e.hart.setX d.toNat (BitVec.ofNat 64 (gt.acts.length + (4 - gt.obs.length) * 8 + if s.stale vf e then 64 else 0)))) false
    obtain ⟨hp, hi, hsame, hd⟩ := hr.moved rfl
    exact ⟨_, exec_mbPoll_spec h d hfit, ⟨hp, hi, hr.state⟩, hsame, hr.mem, hr.steps, fun h => hd (hd0 h)⟩
  · have hr := s.tickFresh.rinkRetire_spec vf ep s.rinkCost (e.endStep.next e.hart) true
    obtain ⟨hp, hi, hsame⟩ := hr.movedOn rfl
    exact ⟨_, exec_epStep_spec h hfit hgoes, ⟨hp, hi, hr.state⟩, fun r _ => hsame r, hr.mem, hr.steps, hr.cut rfl⟩
  · show execEpStep s = _
    unfold execEpStep
    exact rinkWord_late h hfit rfl
  · have hr := State.rinkRetire_spec (((u'.setGate e.gate { gt with acts := rest }).rinkStore s.rinkNo id (l.zip m.data)).rinkFlush s.rinkNo id false) vf ep s.rinkCost
      ({ e with lastGen := m.gen, received := true }.next (e.hart.setX d.toNat m.hdr)) true
    obtain ⟨hp, hi, hsame, hd⟩ := hr.moved rfl
    obtain ⟨⟨ts, hts⟩, hmem, -⟩ := State.rvAccess_ok hacc
    have hlines := hr.noLines
    refine ⟨_, exec_mbRecv_ok h hfit ha hacc hst hm, ⟨hp, hi, hr.state⟩, hsame, fun h => hd (hd0 h), hr.cut rfl, ?_, hlines, fun hroom hclean hnd howned => ?_⟩
    · have hk := ((u'.setGate e.gate { gt with acts := rest }).rinkKept_rinkStore s.rinkNo id (l.zip m.data)).trans (State.rinkKept_rinkFlush _ s.rinkNo id false)
      exact (hr.gateOf e.gate).trans ((hk.gateOf e.gate).trans (Tbl.get_set_same ..))
    · have hplaces := zip_places l m.data
      have hws : ((l.zip m.data).map (·.1)).Nodup := by
        rw [hplaces]
        exact hnd.sublist (List.take_sublist _ _)
      have hin {p : Nat × Byte} (hp : p ∈ l.zip m.data) : p.1 ∈ l := List.mem_of_mem_take (hplaces ▸ List.mem_map_of_mem hp)
      have hlen256 : (l.zip m.data).length ≤ 256 := by
        have := (State.rvAccess_ok hacc).2.2
        rw [List.length_zip]
        omega
      have hrk : (u'.setGate e.gate { gt with acts := rest }).rinkOf s.rinkNo = s.rinkOf s.rinkNo := by
        rw [hts]
        rfl
      have hst := State.rinkStore_stored (u'.setGate e.gate { gt with acts := rest }) s.rinkNo id (l.zip m.data) (by rw [hrk]; exact hclean) hws
        (by rw [hrk]; exact le_trans (Nat.add_le_add_left hlen256 _) hroom)
      obtain ⟨h1, h2⟩ := hst.flush hws fun p hp => by
        rw [hts]
        exact howned p.1 (hin hp)
      refine ⟨fun i hi hid => ?_, fun a ha => ?_⟩
      · have hpm : (l.getD i 0, m.data.getD i 0) ∈ l.zip m.data := by
          rw [List.getD_eq_getElem _ _ hi, List.getD_eq_getElem _ _ hid]
          exact List.mem_iff_getElem.2 ⟨i, by rw [List.length_zip]; omega, List.getElem_zip⟩
        have hb := (hr.mem (l.getD i 0)).trans (h1 _ hpm)
        refine ⟨?_, hb⟩
        unfold State.rinkByte State.rinkLine
        rw [List.find?_eq_none.2 fun k hk hh => hlines k hk (RLine.hits_iff.1 hh).1]
        exact hb
      · refine (hr.mem a).trans ((h2 a fun p hp hpa => ha ?_).trans ((State.memByte_congr ?_ ?_ ?_ a).trans (hmem a)))
        · rw [← hplaces, ← hpa]
          exact List.mem_map_of_mem hp
        · rfl
        · rfl
        · rfl
  · obtain ⟨⟨ts, hts⟩, hmem, hll⟩ := State.rvAccess_ok hacc
    have hno : u'.rinkNo = s.rinkNo ∧ u'.rinkId = id := by
      rw [hts]
      exact ⟨rfl, h.rinkId⟩
    obtain ⟨n, hread, hbytes⟩ := State.rvRead_ok (σ := s.tickFresh) (h.rvMonitor .read) hacc
    rw [hno.1, hno.2] at hread hbytes
    have hk : s.RinkKept (l.foldl (fun (σ : State) pa => σ.rinkFill s.rinkNo id pa) u') := by
      refine State.RinkKept.trans (τ := u') ?_ (State.rinkKept_foldl (fun σ pa => σ.rinkKept_rinkFill _ _ _) l u')
      rw [hts]
      exact ⟨rfl, rfl, fun _ => rfl⟩
    obtain ⟨t, hex, hr⟩ := exec_mbSend_ok (ptr := false) (r1 := r1) (r2 := r2) h hfit hgoes hdepth hv hlen (fun h => nomatch h) hread hk
    obtain ⟨hp, hi, hsame⟩ := hr.movedOn rfl
    refine ⟨t, { hdr := msgHeader e.stamp gt.seqObs 1 0 false len, data := natBytes len n }, hex, ⟨hp, hi, hr.state⟩, fun r _ => hsame r, hr.steps, fun hroom => ?_, fun hwt => ?_⟩
    · have hf := State.rinkFills_filled l u' s.rinkNo id (by
        rw [hts, hll]
        exact le_trans (Nat.add_le_add_left hlen _) hroom)
      have hub (a : Nat) : u'.rinkByte s.rinkNo id a = s.rinkByte s.rinkNo id a := by
        have hrl : u'.rinkLine s.rinkNo id a = s.rinkLine s.rinkNo id a := by
          rw [hts]
          rfl
        unfold State.rinkByte
        rw [hrl, hmem a]
        rfl
      refine ⟨hbytes.trans (List.map_congr_left fun a _ => (hf.byte a).trans (hub a)), fun hclean a => ?_⟩
      refine (hr.mem a).trans ((State.lotStep_serveGate _ _).memByte a |>.trans ?_)
      refine Eq.trans (State.memByte_congr ?_ ?_ ?_ a) ((State.rinkFlush_clean true (hf.clean ?_) a).trans ?_)
      · rfl
      · rfl
      · rfl
      · rw [hts]
        exact hclean
      · obtain ⟨rs, hs⟩ := hf.shape
        rw [hs]
        refine Eq.trans (State.memByte_congr ?_ ?_ ?_ a) (hmem a)
        · rfl
        · rfl
        · rfl
    · exact congrArg Gate.obs (hr.served hwt)
  · have hv8 : (e.hart.xr r2.toNat).toNat = 8 + if true = true then 2 ^ 15 else 0 := hv.trans (by decide)
    obtain ⟨t, hex, hr⟩ := exec_mbSend_ok (ptr := true) (r1 := r1) (r2 := r2) (τ := s.tickFresh) (v := (e.hart.xr r1.toNat).toNat) h hfit hgoes hdepth hv8 (by decide) (fun _ => rfl) rfl ⟨rfl, rfl, fun _ => rfl⟩
    obtain ⟨hp, hi, hsame⟩ := hr.movedOn rfl
    refine ⟨t, { hdr := msgHeader e.stamp gt.seqObs 1 0 true 8, data := natBytes 8 (e.hart.xr r1.toNat).toNat }, hex, ⟨hp, hi, hr.state⟩, rfl, fun hwt => ?_⟩
    exact congrArg Gate.obs (hr.served hwt)
  · have hr := u'.rinkRetire_spec vf ep s.rinkCost { e with hart := h' } false
    exact ⟨_, exec_rv64gc_ok h w hfit hx, hr.steps, hr.hart⟩
  · have hx := rvExec_addi s.tickFresh vf e.hart s.tickFresh.rinkNow imm r1 d
    rw [← hw] at hx
    have hr := s.tickFresh.rinkRetire_spec vf ep s.rinkCost { e with hart := (e.hart.setX d.toNat (e.hart.xr r1.toNat + imm.signExtend 64)).step 4 } false
    obtain ⟨hp, hi, hsame, hd⟩ := hr.moved rfl
    exact ⟨_, exec_rv64gc_ok h w hfit hx, ⟨hp, hi, hr.state⟩, hsame, hr.mem, fun h => hd (hd0 h)⟩

end Sys2Proof.Machine
end

section
/-! ## O48: partitions, slices and telemetry -/
namespace Sys2Proof.Machine

/-- VFs 1 and 2 are bound to partition 0, whose turn is VF 1's and over; VF 1 alone has work, a pooled task, and another of its tasks runs. -/
def loneReadyVf : State :=
  { bar := [(0x5100, 0x100), (0x5108, 0x100)], nodes := [(1, { vf := 1 })], tasks := [(1, { node := 1 }), (2, { node := 1, state := .running })], pool := [1],
    partTurn := [(0, { vf := 1 })] }

/-- Refutes O48: where the only VF with work is the one whose turn is over, and it still holds a task, the next turn is its own, but the step makes it
wait for its own tasks to end instead of beginning the turn. -/
theorem not_partitionsAndTelemetry : ¬ Obligations.PartitionsAndTelemetry := by
  intro h
  obtain ⟨-, -, -, ⟨-, hturn, -⟩, -⟩ := h loneReadyVf 0 0 1 0 (by decide) (by decide) (by decide) (by decide)
  obtain ⟨t, ht, -, hprev, -⟩ := hturn 1 (by decide +kernel) (by decide +kernel) (.inl rfl)
  have hex : exec (.sliceTurnEnd 0) loneReadyVf = .next (loneReadyVf.setTurn 0 { vf := 1, prev := some 1 }) := rfl
  cases Host.Outcome.next.inj (hex.symm.trans ht)
  exact absurd hprev (by decide)

end Sys2Proof.Machine
end

section
/-! ## O49: live migration -/
namespace Sys2Proof.Machine

/-! ### What the end of an episode keeps -/

/-- A relation that what writes and notices do keeps, and every change of episodes, gates, tasks, Rink cores and of the gate at which a context stalls. -/
structure EpisodeRel (R : State → State → Prop) : Prop extends NoticeRel R where
  eps : ∀ (σ : State) e r g t ag, R σ { σ with episodes := e, rinks := r, gates := g, tasks := t, agenda := ag }
  stall : ∀ (σ : State) (f : Ctx → Ctx), (∀ c, ∃ g, f c = { c with gateStall := g }) → f {} = {} → R σ { σ with ctxs := σ.ctxs.map fun (p : Nat × Ctx) => (p.1, f p.2) }

namespace EpisodeRel
variable {R : State → State → Prop} (h : EpisodeRel R)
include h

theorem ep (σ : State) (vf n : Nat) (e : Episode) : R σ (σ.setEp vf n e) := h.eps σ _ _ _ _ _

theorem rink (σ : State) (n : Nat) (k : Rink) : R σ (σ.setRink n k) := h.eps σ _ _ _ _ _

theorem gate (σ : State) (n : Nat) (v : Gate) : R σ (σ.setGate n v) := h.eps σ _ _ _ _ _

theorem descWrite (σ : State) (vf n word v k : Nat) : R σ (σ.descWrite vf n word v k) := by
  unfold State.descWrite
  dsimp only
  split
  · exact h.trans (h.ep σ vf n _) (h.write _ _)
  split
  · exact h.trans (h.ep σ vf n _) (h.toNoticeRel.pageWant _ _ _ _ _)
  · exact h.ep σ vf n _

theorem rinkPerform (σ : State) (vf : Nat) (ws : List (Nat × Byte)) : R σ (σ.rinkPerform vf ws) := by
  unfold State.rinkPerform
  dsimp only
  split
  · exact h.refl σ
  · exact h.trans (h.eps σ σ.episodes _ σ.gates σ.tasks σ.agenda) (h.toNoticeRel.writeList _ _)

theorem rinkFlush (σ : State) (n id : Nat) (keep : Bool) : R σ (σ.rinkFlush n id keep) := by
  unfold State.rinkFlush
  dsimp only
  split
  · exact h.refl σ
  · exact h.trans (h.rink σ n _) (h.rinkPerform _ _ _)

theorem serveGate (σ : State) (g : Nat) : R σ (σ.serveGate g) := by
  refine h.toNoticeRel.foldl (fun σ w => ?_) _ σ
  dsimp only
  split
  · exact h.refl σ
  · exact h.eps σ σ.episodes σ.rinks _ _ _

theorem endEpisode (σ : State) (vf n reason value : Nat) : R σ (σ.endEpisode vf n reason value) := by
  have hite {σ τ ρ : State} {c : Prop} [Decidable c] (h1 : R σ τ) (h2 : R σ ρ) : R σ (if c then τ else ρ) := by
    split
    · exact h1
    · exact h2
  have hended (g : Nat) (c : Ctx) : ∃ st, (if c.gateStall = some (g, false) then { c with gateStall := some (g, true) } else c) = { c with gateStall := st } := by
    split
    · exact ⟨_, rfl⟩
    · exact ⟨c.gateStall, rfl⟩
  have hpush (τ : State) (d : Due) : R τ (τ.push d) := h.eps τ _ _ _ _ _
  unfold State.endEpisode
  dsimp only
  refine hite (h.refl σ) ?_
  refine h.trans (h.trans ?_ (h.serveGate _ _)) (hpush _ _)
  refine h.trans ?_ (h.stall _ (fun c => if c.gateStall = some ((σ.epOf vf n).gate, false) then { c with gateStall := some ((σ.epOf vf n).gate, true) } else c) (hended _) rfl)
  refine h.trans (h.trans ?_ (h.descWrite _ _ _ _ _ _)) (h.descWrite _ _ _ _ _ _)
  have hbase : R σ (if (σ.epOf vf n).state = 2 then σ.rinkFlush (σ.epOf vf n).rink (vf * 4096 + n) false else σ) := hite (h.rinkFlush σ _ _ _) (h.refl σ)
  generalize (if (σ.epOf vf n).state = 2 then σ.rinkFlush (σ.epOf vf n).rink (vf * 4096 + n) false else σ) = τ at hbase ⊢
  have hset := h.trans (h.trans hbase (h.gate τ (σ.epOf vf n).gate { τ.gateOf (σ.epOf vf n).gate with state := 3, acts := [], obs := (τ.gateOf (σ.epOf vf n).gate).obs ++ [{ hdr := msgHeader (σ.epOf vf n).stamp (τ.gateOf (σ.epOf vf n).gate).seqObs (if reason = 3 then 3 else 2) reason false 16, data := natBytes 8 (if reason = 3 then Tbl.get τ.polgen 0 vf else value) ++ natBytes 8 (if reason = 3 then (σ.epOf vf n).pin else (σ.epOf vf n).steps) }], seqObs := ((τ.gateOf (σ.epOf vf n).gate).seqObs + 1) % 256 })) (h.ep _ vf n { σ.epOf vf n with state := 3, suspended := false, blocked := 0 })
  exact hite hset (h.trans hset (h.rink _ _ _))

end EpisodeRel

theorem sameFrozen_episodeRel : EpisodeRel fun σ τ => τ.frozen = σ.frozen where
  refl _ := rfl
  trans h k := k.trans h
  write σ l := by
    obtain ⟨_, _, _, _, h⟩ := σ.writeQuiet_shape l
    rw [h]
  plain _ _ _ _ _ _ _ := rfl
  eps _ _ _ _ _ _ := rfl
  stall _ _ _ _ := rfl

/-! ### Steps that leave registers, tables and records of migration -/

/-- A step that changes bytes through the far cache, and what a step of the scheduler does. -/
def State.BodyStep (σ τ : State) : Prop := ∃ c e v f l y x t p g ld fr ao ho ar mk wt ag nd nt fs fc ep,
  τ = { σ with cores := c, engs := e, vecs := v, frags := f, links := l, copies := y, ctxs := x, tasks := t, pool := p, gates := g, landing := ld, fabReqs := fr, accown := ao, holder := ho, areas := ar, market := mk, watches := wt, agenda := ag, nodes := nd, nextTask := nt, fresh := fs, fcache := fc, episodes := ep }

theorem State.LotStep.body {σ τ : State} (h : σ.LotStep τ) : σ.BodyStep τ := by
  obtain ⟨_, _, _, _, _, _, _, _, _, _, _, _, _, _, _, _, _, _, _, _, _, rfl⟩ := h
  exact ⟨_, _, _, _, _, _, _, _, _, _, _, _, _, _, _, _, _, _, _, _, _, _, _, rfl⟩

theorem State.WroteBytes.body {σ τ : State} (h : σ.WroteBytes τ) : σ.BodyStep τ := by
  obtain ⟨_, _, _, _, rfl⟩ := h
  exact ⟨_, _, _, _, _, _, _, _, _, _, _, _, _, _, _, _, _, _, _, _, _, _, _, rfl⟩

theorem State.BodyStep.refl (σ : State) : σ.BodyStep σ := (State.LotStep.refl σ).body

theorem State.BodyStep.trans {σ τ ρ : State} (h : σ.BodyStep τ) (k : τ.BodyStep ρ) : σ.BodyStep ρ := by
  obtain ⟨_, _, _, _, _, _, _, _, _, _, _, _, _, _, _, _, _, _, _, _, _, _, _, rfl⟩ := h
  obtain ⟨_, _, _, _, _, _, _, _, _, _, _, _, _, _, _, _, _, _, _, _, _, _, _, rfl⟩ := k
  exact ⟨_, _, _, _, _, _, _, _, _, _, _, _, _, _, _, _, _, _, _, _, _, _, _, rfl⟩

theorem State.BodyStep.foldl {β : Type} {f : State → β → State} (h : ∀ (σ : State) b, σ.BodyStep (f σ b)) (l : List β) (σ : State) : σ.BodyStep (l.foldl f σ) := by
  induction l generalizing σ with
  | nil => exact .refl σ
  | cons b l ih => exact (h σ b).trans (ih _)

/-- What such a step leaves, as the operations of migration need it. -/
theorem State.BodyStep.kept {σ τ : State} (h : σ.BodyStep τ) : τ.bar = σ.bar ∧ τ.spdm = σ.spdm ∧ τ.exports = σ.exports ∧ τ.migRecs = σ.migRecs ∧ τ.polgen = σ.polgen ∧ τ.frozen = σ.frozen := by
  obtain ⟨_, _, _, _, _, _, _, _, _, _, _, _, _, _, _, _, _, _, _, _, _, _, _, rfl⟩ := h
  exact ⟨rfl, rfl, rfl, rfl, rfl, rfl⟩

theorem State.bodyStep_areaPut (σ : State) (l : List (Nat × Byte)) : σ.BodyStep (σ.areaPut l) := (State.writeList_shape σ _).body

theorem State.bodyStep_spillTo (σ : State) (t slab : Nat) (l : List (BitVec 32)) : σ.BodyStep (σ.spillTo t slab l) := by
  have hset : σ.BodyStep (σ.setTask t { σ.taskOf t with spilled := Tbl.set (σ.taskOf t).spilled slab l }) := State.LotStep.body .of
  unfold State.spillTo
  dsimp only
  split
  · exact hset.trans (State.bodyStep_areaPut _ _)
  · exact hset

theorem State.bodyStep_spillHeld (σ : State) (ts : List Nat) : σ.BodyStep (σ.spillHeld ts) :=
  .foldl (fun σ _ => (σ.bodyStep_spillTo _ _ _).trans (State.LotStep.body .of)) _ σ

theorem State.bodyStep_writeArea (σ : State) (t : Nat) : σ.BodyStep (σ.writeArea t) := by
  unfold State.writeArea
  split
  · exact σ.bodyStep_areaPut _
  · exact .refl σ

theorem State.bodyStep_giveArea (σ : State) (vf t : Nat) : σ.BodyStep (σ.giveArea vf t) := by
  unfold State.giveArea
  split
  · exact (State.LotStep.body .of).trans (State.bodyStep_writeArea _ _)
  · exact .refl σ

theorem State.lotStep_repool (σ : State) (t : Nat) : σ.LotStep (σ.repool t) := by
  have hset (τ : State) (t : Nat) (v : Task) : τ.LotStep (τ.setTask t v) := (τ.leaseStep_setTask t v).lotStep
  have hadd (τ : State) (t : Nat) : τ.LotStep (τ.poolAdd t) := (τ.leaseStep_poolAdd t).lotStep
  have hnext (τ : State) (n : Nat) : τ.LotStep { τ with nextTask := n } := .of
  unfold State.repool
  dsimp only
  split
  · exact ((hset _ _ _).trans ((hset _ _ _).trans (hadd _ _))).trans (hnext _ _)
  · exact hset _ _ _

theorem State.lotStep_moveRequest (σ : State) (part but t : Nat) (r : LeaseReq) : σ.LotStep (σ.moveRequest part but t r) := by
  have h : σ.LotStep ((σ.withdrawLeases t).poolDel t) := (σ.lotStep_withdrawLeases t).trans .of
  unfold State.moveRequest
  dsimp only
  split
  · exact h.trans .of
  · exact h.trans .of

theorem State.lotStep_moveTask (σ : State) (part but t : Nat) : σ.LotStep (σ.moveTask part but t) := by
  have h : σ.LotStep (((σ.withdrawLeases t).repool t).poolDel t) := ((σ.lotStep_withdrawLeases t).trans (State.lotStep_repool _ t)).trans .of
  unfold State.moveTask
  dsimp only
  exact State.lotStep_ite (State.lotStep_ite (h.trans .of) ((h.trans .of).trans .of)) (State.lotStep_ite ((h.trans .of).trans .of) (h.trans .of))

theorem State.lotStep_rebind (σ : State) (part but t : Nat) : σ.LotStep (σ.rebind part but t) := by
  unfold State.rebind
  dsimp only
  split
  · exact σ.lotStep_moveRequest _ _ _ _
  · exact State.lotStep_ite (σ.lotStep_moveTask _ _ _) (State.lotStep_ite .of (.refl σ))

theorem State.lotStep_retest (σ : State) (l : List Nat) : σ.LotStep (σ.retest l) := .of

/-! ### Records in memory -/

/-- The bytes of a list laid out from an address. -/
theorem State.writeQuiet_bytes (σ : State) (a : Nat) (bs : List Byte) :
    (∀ i < bs.length, (σ.writeQuiet (bs.zipIdx.map fun x => (a + x.2, x.1))).memByte (a + i) = bs.getD i 0)
    ∧ ∀ b, (b < a ∨ a + bs.length ≤ b) → (σ.writeQuiet (bs.zipIdx.map fun x => (a + x.2, x.1))).memByte b = σ.memByte b := by
  have hl (l : List (Nat × Byte)) (b : Nat) : (σ.writeQuiet l).memByte b = (σ.writeList l).memByte b := rfl
  have hmem {p : Nat × Byte} : p ∈ (bs.zipIdx.map fun x => (a + x.2, x.1)) ↔ ∃ i < bs.length, p = (a + i, bs.getD i 0) := by
    simp only [List.mem_map, Prod.exists]
    constructor
    · rintro ⟨b, i, hx, rfl⟩
      rw [List.mk_mem_zipIdx_iff_getElem?] at hx
      obtain ⟨hi, hb⟩ := List.getElem?_eq_some_iff.1 hx
      exact ⟨i, hi, by rw [List.getD_eq_getElem _ _ hi, hb]⟩
    · rintro ⟨i, hi, rfl⟩
      exact ⟨bs.getD i 0, i, by rw [List.mk_mem_zipIdx_iff_getElem?, List.getD_eq_getElem _ _ hi, List.getElem?_eq_getElem hi], rfl⟩
  refine ⟨fun i hi => ?_, fun b hb => ?_⟩
  · rw [hl]
    refine State.writeList_memByte_of_unique _ _ _ _ (hmem.2 ⟨i, hi, rfl⟩) fun v hv => ?_
    obtain ⟨j, -, hj⟩ := hmem.1 hv
    obtain ⟨h1, rfl⟩ := Prod.mk.inj hj
    rw [show i = j by omega]
  · rw [hl]
    refine State.writeList_memByte_ne _ _ _ fun p hp => ?_
    obtain ⟨i, hi, rfl⟩ := hmem.1 hp
    show a + i ≠ b
    omega

theorem sealRecord_length (key : BitVec 256) (nonce : BitVec 96) (p : List Byte) : (sealRecord key nonce p).length = p.length + 36 := by
  simp only [sealRecord, List.length_append, gcmCrypt_length, natBytes, List.length_map, List.length_range]
  omega

theorem State.openRecord_congr {σ τ : State} (h : ∀ a, τ.memByte a = σ.memByte a) (key : BitVec 256) (a : Nat) : τ.openRecord key a = σ.openRecord key a := by
  unfold State.openRecord
  simp only [State.memNat_congr h, h]

/-- A record exported opens where it was put, and MIGLEN has its length; nothing else of memory changes. -/
theorem State.exportBytes_spec (σ : State) (p : List Byte) (hp : p.length < 2 ^ 64) : (σ.exportBytes p).openRecord σ.migrationKey σ.migAddr = (p.length + 36, some p)
    ∧ (σ.exportBytes p).reg 0 0x5418 = BitVec.ofNat 64 (p.length + 36)
    ∧ ∀ a, (a < σ.migAddr ∨ σ.migAddr + (p.length + 36) ≤ a) → (σ.exportBytes p).memByte a = σ.memByte a := by
  have hlen := sealRecord_length σ.migrationKey ((Config.freeWord σ.fresh ++ Config.freeWord (σ.fresh + 1)).truncate 96) p
  obtain ⟨hin, hout⟩ := State.writeQuiet_bytes { σ with fresh := σ.fresh + 2 } σ.migAddr (sealRecord σ.migrationKey ((Config.freeWord σ.fresh ++ Config.freeWord (σ.fresh + 1)).truncate 96) p)
  rw [hlen] at hin hout
  refine ⟨openRecord_sealed _ _ _ p _ hp hin, ?_, hout⟩
  refine (State.reg_setReg_same ..).trans ?_
  rw [hlen]
  exact and_allOnes64 _

theorem State.exportBytes_kept (σ : State) (p : List Byte) : (σ.exportBytes p).frozen = σ.frozen ∧ (σ.exportBytes p).exports = σ.exports ∧ (σ.exportBytes p).migRecs = σ.migRecs := by
  obtain ⟨_, _, _, _, h⟩ := State.writeQuiet_shape { σ with fresh := σ.fresh + 2 } ((sealRecord σ.migrationKey ((Config.freeWord σ.fresh ++ Config.freeWord (σ.fresh + 1)).truncate 96) p).zipIdx.map fun x => (σ.migAddr + x.2, x.1))
  unfold State.exportBytes
  dsimp only
  rw [h]
  exact ⟨rfl, rfl, rfl⟩


/-! ### Whether an operation starts -/

section
variable {s : State} {v : Word} {l : List Nat} {key : Bool} {k : State → Nat → Out}

theorem migStart_busy (h : s.migBusy = true) : s.migStart v l key k = .next s := by
  unfold State.migStart
  dsimp only
  rw [if_pos h]

theorem migStart_refused (h : s.migBusy = false) (hr : v.toNat / 2 ^ 16 % 256 = 0 ∨ 64 < v.toNat / 2 ^ 16 % 256 ∨ l.contains (s.migState (v.toNat / 2 ^ 16 % 256)) = false) :
    s.migStart v l key k = .next ((s.setMigLen 0).migStatus v 1) := by
  unfold State.migStart
  dsimp only
  rw [h, if_neg (by decide), if_pos]
  rcases hr with h0 | h64 | hl
  · exact .inl h0
  · exact .inr (.inl h64)
  · exact .inr (.inr (by rw [Bool.not_eq_true']; exact hl))

theorem migStart_admitted (h : s.migBusy = false) (h1 : 1 ≤ v.toNat / 2 ^ 16 % 256) (h64 : v.toNat / 2 ^ 16 % 256 ≤ 64)
    (hl : l.contains (s.migState (v.toNat / 2 ^ 16 % 256)) = true) :
    s.migStart v l key k = if key = true ∧ s.migKey = false then .next ((s.setMigLen 0).migStatus v 2) else k ((s.setMigLen 0).migStatus v 0) (v.toNat / 2 ^ 16 % 256) := by
  unfold State.migStart
  dsimp only
  rw [h, if_neg (by decide), if_neg]
  · refine ite_congr (propext ?_) (fun _ => rfl) fun _ => rfl
    rw [Bool.not_eq_true']
    rfl
  · rintro (h0 | h0 | h0)
    · exact absurd h0 (Nat.one_le_iff_ne_zero.1 h1)
    · exact absurd h64 (Nat.not_le.mpr h0)
    · rw [Bool.not_eq_true'] at h0
      exact absurd (hl.symm.trans h0) (by decide)

theorem migStart_runs (h : s.migBusy = false) (h1 : 1 ≤ v.toNat / 2 ^ 16 % 256) (h64 : v.toNat / 2 ^ 16 % 256 ≤ 64)
    (hl : l.contains (s.migState (v.toNat / 2 ^ 16 % 256)) = true) (hk : key = true → s.migKey = true) :
    s.migStart v l key k = k ((s.setMigLen 0).migStatus v 0) (v.toNat / 2 ^ 16 % 256) := by
  rw [migStart_admitted h h1 h64 hl, if_neg]
  rintro ⟨h0, hn⟩
  rw [hk h0] at hn
  cases hn

end

theorem State.migStarted_reg (s : State) (v : Word) (off : Nat) (h1 : off ≠ 0x5418) (h2 : off ≠ 0x5400) : ((s.setMigLen 0).migStatus v 0).reg 0 off = s.reg 0 off :=
  (State.reg_setReg_ne _ _ _ _ _ _ (by omega)).trans (State.reg_setReg_ne _ _ _ _ _ _ (by omega))

theorem State.migAddr_started (s : State) (v : Word) : ((s.setMigLen 0).migStatus v 0).migAddr = s.migAddr :=
  congrArg BitVec.toNat (s.migStarted_reg v 0x5408 (by decide) (by decide))

/-! ### TRACK -/

theorem memFind_mem {l : List Host.Cell} {a : Nat} (h : memFind l a ≠ 0) : (a, memFind l a) ∈ l := by
  induction l with
  | nil => exact absurd rfl h
  | cons p l ih =>
    obtain ⟨k, v⟩ := p
    unfold memFind at h ⊢
    split
    next he =>
      subst he
      exact List.mem_cons_self
    next he =>
      rw [if_neg he] at h
      exact List.mem_cons_of_mem _ (ih h)

theorem Tbl.mem_of_find? {α : Type} {t : Tbl α} {k : Nat} {v : α} (h : Tbl.find? t k = some v) : (k, v) ∈ t := by
  induction t with
  | nil => cases h
  | cons p t ih =>
    obtain ⟨k', v'⟩ := p
    unfold Tbl.find? at h
    split at h
    next he =>
      cases h
      exact he ▸ List.mem_cons_self
    next => exact List.mem_cons_of_mem _ (ih h)

/-- A byte of a range whose cells are none of them the byte's reads as zero. -/
theorem State.memByte_of_no_cell {σ : State} {lo hi a : Nat} (hlo : lo ≤ a) (hhi : a < hi) (h : ∀ p ∈ σ.cellsIn lo hi, p.1 ≠ a) : σ.memByte a = 0 := by
  have hnear : (decide (lo ≤ a) && decide (a < hi)) = true := by simp [hlo, hhi]
  have hf : Tbl.find? σ.fcache a = none := by
    refine Option.eq_none_iff_forall_not_mem.2 fun b hb => ?_
    have hm : (a, b) ∈ σ.fcache := Tbl.mem_of_find? hb
    exact h (a, b) (List.mem_append_left _ (List.mem_filter.2 ⟨hm, hnear⟩)) rfl
  have hm : memFind σ.mem a = 0 := by
    by_contra hne
    refine h _ (List.mem_append_right _ (List.mem_filter.2 ⟨memFind_mem hne, ?_⟩)) rfl
    rw [hnear, Bool.true_and]
    exact Option.isNone_iff_eq_none.2 hf
  unfold State.memByte
  rw [hf]
  dsimp only
  rw [hm, if_neg fun hh => hh.1 rfl]

theorem State.writeQuiet_zeros (σ : State) (lo hi : Nat) : (∀ a, lo ≤ a → a < hi → (σ.writeQuiet ((σ.cellsIn lo hi).map fun p => (p.1, 0))).memByte a = 0)
    ∧ ∀ a, (a < lo ∨ hi ≤ a) → (σ.writeQuiet ((σ.cellsIn lo hi).map fun p => (p.1, 0))).memByte a = σ.memByte a := by
  have hl (l : List (Nat × Byte)) (b : Nat) : (σ.writeQuiet l).memByte b = (σ.writeList l).memByte b := rfl
  have hrange : ∀ p ∈ σ.cellsIn lo hi, lo ≤ p.1 ∧ p.1 < hi := fun p hp => by
    unfold State.cellsIn at hp
    rcases List.mem_append.1 hp with hp | hp
    · simpa using (List.mem_filter.1 hp).2
    · have h := (List.mem_filter.1 hp).2
      rw [Bool.and_eq_true] at h
      simpa using h.1
  refine ⟨fun a h1 h2 => ?_, fun a ha => ?_⟩
  · rw [hl]
    by_cases hc : ∃ p ∈ σ.cellsIn lo hi, p.1 = a
    · obtain ⟨p, hp, rfl⟩ := hc
      refine State.writeList_memByte_of_unique _ _ _ 0 (List.mem_map.2 ⟨p, hp, rfl⟩) fun v hv => ?_
      obtain ⟨q, -, hq⟩ := List.mem_map.1 hv
      exact (Prod.mk.inj hq).2.symm
    · rw [State.writeList_memByte_ne]
      · exact State.memByte_of_no_cell h1 h2 fun p hp hpa => hc ⟨p, hp, hpa⟩
      · intro p hp hpa
        obtain ⟨q, hq, rfl⟩ := List.mem_map.1 hp
        exact hc ⟨q, hq, hpa⟩
  · rw [hl]
    refine State.writeList_memByte_ne _ _ _ fun p hp => ?_
    obtain ⟨q, hq, rfl⟩ := List.mem_map.1 hp
    have := hrange q hq
    show q.1 ≠ a
    omega

/-! ### COPY and SAVE -/

theorem State.tileRecord_length (s : State) (t : Nat) : (s.tileRecord t).length ≤ 4105 := by
  unfold State.tileRecord
  split
  · exact Nat.zero_le _
  split
  · simp [natBytes]
  · simp [natBytes]

theorem length_flatMap_le {α β : Type} (l : List α) (f : α → List β) (n : Nat) (h : ∀ x ∈ l, (f x).length ≤ n) : (l.flatMap f).length ≤ l.length * n := by
  rw [List.length_flatMap]
  refine (List.sum_le_card_nsmul _ n fun k hk => ?_).trans (by simp)
  obtain ⟨x, hx, rfl⟩ := List.mem_map.1 hk
  exact h x hx

theorem State.copyRecord_length (s : State) (vf first n : Nat) : (s.copyRecord vf first n).length ≤ n * (512 * 4105) := by
  unfold State.copyRecord
  refine (length_flatMap_le _ _ (512 * 4105) fun f _ => ?_).trans (Nat.mul_le_mul_right _ ?_)
  · refine (length_flatMap_le _ _ 4105 fun t _ => s.tileRecord_length t).trans (Nat.mul_le_mul_right _ ?_)
    simp [frameTiles]
  · refine (List.length_filter_le _ _).trans ?_
    simp

theorem exec_migCopy_spec {s : State} {v : Word} (hb : s.migBusy = false) (h1 : 1 ≤ v.toNat / 2 ^ 16 % 256) (h64 : v.toNat / 2 ^ 16 % 256 ≤ 64)
    (hst : s.migState (v.toNat / 2 ^ 16 % 256) = 1 ∨ s.migState (v.toNat / 2 ^ 16 % 256) = 2) (hk : s.migKey = true) :
    let g := (s.reg 0 0x5410).toNat
    let p := 1 :: s.copyRecord (v.toNat / 2 ^ 16 % 256) (g % 2 ^ 20) (g / 2 ^ 20 % 2 ^ 20 + 1)
    ∃ t, exec (.migCopy v) s = .next t ∧ (t.openRecord s.migrationKey s.migAddr = (p.length + 36, some p) ∧ t.reg 0 0x5418 = BitVec.ofNat 64 (p.length + 36))
      ∧ (∀ a, (a < s.migAddr ∨ s.migAddr + (p.length + 36) ≤ a) → t.memByte a = s.memByte a)
      ∧ t.migState (v.toNat / 2 ^ 16 % 256) = s.migState (v.toNat / 2 ^ 16 % 256) := by
  intro g p
  have hex : exec (.migCopy v) s = .next (((s.setMigLen 0).migStatus v 0).exportBytes p) := by
    show execMigCopy v s = _
    unfold execMigCopy
    rw [migStart_runs hb h1 h64 (by rcases hst with h | h <;> rw [h] <;> rfl) fun _ => hk]
    dsimp only
    rw [s.migStarted_reg v 0x5410 (by decide) (by decide)]
    rfl
  have hp : p.length < 2 ^ 64 := by
    have hlen := s.copyRecord_length (v.toNat / 2 ^ 16 % 256) (g % 2 ^ 20) (g / 2 ^ 20 % 2 ^ 20 + 1)
    have hg : g / 2 ^ 20 % 2 ^ 20 < 2 ^ 20 := Nat.mod_lt _ (by decide)
    show (s.copyRecord _ _ _).length + 1 < 2 ^ 64
    have := Nat.mul_le_mul_right (512 * 4105) hg
    omega
  obtain ⟨ho, hr, hm⟩ := ((s.setMigLen 0).migStatus v 0).exportBytes_spec p hp
  rw [s.migAddr_started] at ho hm
  refine ⟨_, hex, ⟨ho, hr⟩, hm, ?_⟩
  unfold State.migState
  rw [(State.exportBytes_kept _ p).1]
  rfl


/-- A record of what the VF exports says MOVED. -/
def movedExport (vf : Nat) (r : List Word) : List Word := if expVf r = vf then (r.headD 0 ||| 8) :: r.tail else r

theorem movedExport_moved {vf : Nat} {r : List Word} (h : expVf (movedExport vf r) = vf) : expMoved (movedExport vf r) = true := by
  unfold movedExport at h ⊢
  split
  next he =>
    show (r.headD 0 ||| 8).toNat.testBit 3 = true
    rw [BitVec.toNat_or, Nat.testBit_or]
    simp [Nat.testBit]
  next he =>
    rw [if_neg he] at h
    exact absurd h he

/-- The tasks of a VF. -/
def State.tasksOf (s : State) (vf : Nat) : List Nat := (s.tasks.filter fun (p : Nat × Task) => decide ((s.nodeOf p.2.node).vf = vf)).map (·.1)

theorem exec_migSave_spec {s : State} {v : Word} (hb : s.migBusy = false) (h1 : 1 ≤ v.toNat / 2 ^ 16 % 256) (h64 : v.toNat / 2 ^ 16 % 256 ≤ 64)
    (hst : s.migState (v.toNat / 2 ^ 16 % 256) = 2) (hk : s.migKey = true) :
    let vf := v.toNat / 2 ^ 16 % 256
    ∃ t r, exec (.migSave v) s = .next t ∧ t.migState vf = 3 ∧ (∀ p ∈ t.exports, expVf p.2 = vf → expMoved p.2 = true) ∧ t.migRecs = s.migRecs ++ [r] ∧ r.vf = vf
      ∧ r.polgen = Tbl.get s.polgen 0 vf ∧ ((0 :: Config.recordBytes r).length < 2 ^ 60 →
        (t.openRecord s.migrationKey s.migAddr = ((0 :: Config.recordBytes r).length + 36, some (0 :: Config.recordBytes r))
          ∧ t.reg 0 0x5418 = BitVec.ofNat 64 ((0 :: Config.recordBytes r).length + 36))
        ∧ (s.holder = [] → ∀ a, (a < s.migAddr ∨ s.migAddr + ((0 :: Config.recordBytes r).length + 36) ≤ a) → t.memByte a = s.memByte a)) := by
  intro vf
  have hex : exec (.migSave v) s = (fun (σ : State) => Host.Outcome.next (((((σ.tasksOf vf).foldl (fun σ t => σ.withdrawLeases t)
      ({ { σ with exports := σ.exports.map fun (p : Nat × List Word) => (p.1, movedExport vf p.2) }.spillHeld (σ.tasksOf vf) with
        migRecs := ({ σ with exports := σ.exports.map fun (p : Nat × List Word) => (p.1, movedExport vf p.2) }.spillHeld (σ.tasksOf vf)).migRecs
          ++ [({ σ with exports := σ.exports.map fun (p : Nat × List Word) => (p.1, movedExport vf p.2) }.spillHeld (σ.tasksOf vf)).migRecord vf],
        trackAt := Tbl.del ({ σ with exports := σ.exports.map fun (p : Nat × List Word) => (p.1, movedExport vf p.2) }.spillHeld (σ.tasksOf vf)).trackAt vf } : State)).setMig vf 3).exportBytes
          (0 :: Config.recordBytes (({ σ with exports := σ.exports.map fun (p : Nat × List Word) => (p.1, movedExport vf p.2) }.spillHeld (σ.tasksOf vf)).migRecord vf)))))
      ((s.setMigLen 0).migStatus v 0) := by
    show execMigSave v s = _
    unfold execMigSave
    rw [migStart_runs hb h1 h64 (by rw [hst]; rfl) fun _ => hk]
    rfl
  dsimp only at hex
  generalize hz : (s.setMigLen 0).migStatus v 0 = z at hex
  have hzf : z.migrationKey = s.migrationKey ∧ z.migAddr = s.migAddr ∧ z.polgen = s.polgen ∧ z.migRecs = s.migRecs ∧ z.holder = s.holder ∧ ∀ a, z.memByte a = s.memByte a := by
    subst hz
    exact ⟨rfl, s.migAddr_started v, rfl, rfl, rfl, fun _ => rfl⟩
  obtain ⟨hzk, hza, hzp, hzr, hzh, hzm⟩ := hzf
  generalize hy : ({ z with exports := z.exports.map fun (p : Nat × List Word) => (p.1, movedExport vf p.2) } : State) = y at hex
  have hyx : ∀ p ∈ y.exports, expVf p.2 = vf → expMoved p.2 = true := by
    intro p hp he
    rw [← hy] at hp
    obtain ⟨q, -, rfl⟩ := List.mem_map.1 hp
    exact movedExport_moved he
  have hyf : y.migrationKey = z.migrationKey ∧ y.migAddr = z.migAddr ∧ y.polgen = z.polgen ∧ y.migRecs = z.migRecs ∧ y.holder = z.holder ∧ ∀ a, y.memByte a = z.memByte a := by
    subst hy
    exact ⟨rfl, rfl, rfl, rfl, rfl, fun _ => rfl⟩
  obtain ⟨hyk, hya, hyp, hyr, hyh, hym⟩ := hyf
  have hspill := y.bodyStep_spillHeld (z.tasksOf vf)
  obtain ⟨hxbar, hxspdm, hxexp, hxrec, hxpol, hxfr⟩ := hspill.kept
  have hxmem : s.holder = [] → ∀ a, (y.spillHeld (z.tasksOf vf)).memByte a = s.memByte a := fun hh a => by
    have hnil : y.spillHeld (z.tasksOf vf) = y := by
      unfold State.spillHeld
      rw [hyh, hzh, hh]
      rfl
    rw [hnil, hym, hzm]
  generalize y.spillHeld (z.tasksOf vf) = x at hex hxbar hxspdm hxexp hxrec hxpol hxfr hxmem
  generalize hw : ({ x with migRecs := x.migRecs ++ [x.migRecord vf], trackAt := Tbl.del x.trackAt vf } : State) = w at hex
  have hwf : w.bar = x.bar ∧ w.spdm = x.spdm ∧ w.exports = x.exports ∧ w.migRecs = x.migRecs ++ [x.migRecord vf] ∧ ∀ a, w.memByte a = x.memByte a := by
    subst hw
    exact ⟨rfl, rfl, rfl, rfl, fun _ => rfl⟩
  obtain ⟨hwbar, hwspdm, hwexp, hwrec, hwmem⟩ := hwf
  have hlot : w.LotStep ((z.tasksOf vf).foldl (fun σ t => σ.withdrawLeases t) w) := .foldl (fun σ t => σ.lotStep_withdrawLeases t) _ w
  obtain ⟨hubar, huspdm, huexp, hurec, hupol, hufr⟩ := hlot.body.kept
  have humem := hlot.memByte
  generalize (z.tasksOf vf).foldl (fun σ t => σ.withdrawLeases t) w = u at hex hubar huspdm huexp hurec hupol hufr humem
  have haddr : (u.setMig vf 3).migAddr = s.migAddr := by
    rw [← hza, ← hya]
    unfold State.migAddr State.reg
    rw [show (u.setMig vf 3).bar = u.bar from rfl, hubar, hwbar, hxbar]
  have hkey : (u.setMig vf 3).migrationKey = s.migrationKey := by
    rw [← hzk, ← hyk]
    unfold State.migrationKey
    rw [show (u.setMig vf 3).spdm = u.spdm from rfl, huspdm, hwspdm, hxspdm]
  obtain ⟨hkf, hke, hkr⟩ := (u.setMig vf 3).exportBytes_kept (0 :: Config.recordBytes (x.migRecord vf))
  refine ⟨_, x.migRecord vf, hex, ?_, ?_, ?_, rfl, ?_, fun hlen => ?_⟩
  · unfold State.migState
    rw [hkf]
    exact Tbl.get_set_same ..
  · rw [hke, show (u.setMig vf 3).exports = u.exports from rfl, huexp, hwexp, hxexp]
    exact hyx
  · rw [hkr, show (u.setMig vf 3).migRecs = u.migRecs from rfl, hurec, hwrec, hxrec, hyr, hzr]
  · show Tbl.get x.polgen 0 vf = _
    rw [hxpol, hyp, hzp]
  · obtain ⟨ho, hr, hm⟩ := (u.setMig vf 3).exportBytes_spec (0 :: Config.recordBytes (x.migRecord vf)) (lt_trans hlen (by decide))
    rw [haddr, hkey] at ho
    rw [haddr] at hm
    refine ⟨⟨ho, hr⟩, fun hh a ha => (hm a ha).trans ?_⟩
    rw [show (u.setMig vf 3).memByte a = u.memByte a from rfl, humem, hwmem]
    exact hxmem hh a


/-! ### LOAD -/

/-- The number whose bytes a list begins with. -/
theorem natBytes_read (n : Nat) (rest : List Byte) (h : n < 2 ^ 64) : ((natBytes 8 n ++ rest).take 8).foldr (fun b a => b.toNat + 256 * a) 0 = n := by
  have hlen : (natBytes 8 n).length = 8 := by simp [natBytes]
  rw [List.take_left' hlen]
  have hf := foldr_bytes 8 (fun i => BitVec.ofNat 8 (n / 256 ^ i)) n fun _ _ => rfl
  rw [Nat.mod_eq_of_lt (lt_of_lt_of_eq h (by norm_num))] at hf
  unfold natBytes
  rw [List.foldr_map]
  exact hf

theorem State.importTiles_data (σ : State) (vf n f : Nat) (d : List Byte) (hn : n < 2 ^ 64) (hd : d.length = 4096) (ho : (σ.frameRec (n / 512)).owner = vf) :
    σ.importTiles vf (f + 2) (natBytes 8 n ++ 0 :: d) = σ.writeQuiet (d.zipIdx.map fun x => (n * 4096 + x.2, x.1)) := by
  have hlen : (natBytes 8 n).length = 8 := by simp [natBytes]
  have hz : ((natBytes 8 n ++ 0 :: d).getD 8 0).getLsbD 0 = false := by
    rw [List.getD_append_right _ _ _ _ (by omega), hlen]
    simp
  have hdrop : (natBytes 8 n ++ 0 :: d).drop 9 = d := by
    rw [List.drop_append, hlen, List.drop_eq_nil_of_le (by omega)]
    rfl
  have hdrop' : (natBytes 8 n ++ 0 :: d).drop 4105 = [] := List.drop_eq_nil_of_le (by simp [hlen, hd])
  unfold State.importTiles
  rw [if_neg (by simp [hlen, hd])]
  dsimp only
  rw [natBytes_read n _ hn, hz, if_neg (by decide), hdrop, hdrop', ho, List.take_of_length_le (by omega)]
  simp [State.importTiles]

theorem State.importTiles_zero (σ : State) (vf n f : Nat) (hn : n < 2 ^ 64) (ho : (σ.frameRec (n / 512)).owner = vf) :
    σ.importTiles vf (f + 2) (natBytes 8 n ++ [1]) = (σ.dropDirty (n * 4096) (n * 4096 + 4096)).sealZero n ((σ.tile n).ver + 1) (σ.newGen vf) := by
  have hlen : (natBytes 8 n).length = 8 := by simp [natBytes]
  have hz : ((natBytes 8 n ++ [1]).getD 8 0).getLsbD 0 = true := by
    rw [List.getD_append_right _ _ _ _ (by omega), hlen]
    rfl
  have hdrop : (natBytes 8 n ++ [(1 : Byte)]).drop 9 = [] := List.drop_eq_nil_of_le (by simp [hlen])
  unfold State.importTiles
  rw [if_neg (by simp [hlen])]
  dsimp only
  rw [natBytes_read n _ hn, hz, if_pos rfl, hdrop, ho]
  simp [State.importTiles]

theorem Tbl.find?_filter_all {α : Type} (t : Tbl α) (p : Nat × α → Bool) (i : Nat) (h : ∀ v, p (i, v) = true) : Tbl.find? (t.filter p) i = Tbl.find? t i := by
  have hcons (k : Nat) (v : α) (l : Tbl α) : Tbl.find? ((k, v) :: l) i = if k = i then some v else Tbl.find? l i := rfl
  induction t with
  | nil => rfl
  | cons q l ih =>
    obtain ⟨k, v⟩ := q
    by_cases hk : k = i
    · subst hk
      rw [List.filter_cons_of_pos (h v), hcons, hcons, if_pos rfl, if_pos rfl]
    · rw [hcons, if_neg hk, ← ih, List.filter_cons]
      split
      · rw [hcons, if_neg hk]
      · rfl

/-- A tile made zero reads as zeros, and no byte outside it changes. -/
theorem State.zeroTile_memByte (σ : State) (n ver g : Nat) : (((σ.dropDirty (n * 4096) (n * 4096 + 4096)).sealZero n ver g).tile n).z = true
    ∧ (∀ i < 4096, ((σ.dropDirty (n * 4096) (n * 4096 + 4096)).sealZero n ver g).memByte (n * 4096 + i) = 0)
    ∧ ∀ a, a / 4096 ≠ n → ((σ.dropDirty (n * 4096) (n * 4096 + 4096)).sealZero n ver g).memByte a = σ.memByte a := by
  have htile (m : Nat) : ((σ.dropDirty (n * 4096) (n * 4096 + 4096)).sealZero n ver g).tile m
      = if m = n then { ver := ver, kgen := g, z := true, under := some ((σ.dropDirty (n * 4096) (n * 4096 + 4096)).cipherOf n), spoiled := ((σ.dropDirty (n * 4096) (n * 4096 + 4096)).tile n).spoiled } else σ.tile m :=
    Tbl.get_set ..
  have hz : (((σ.dropDirty (n * 4096) (n * 4096 + 4096)).sealZero n ver g).tile n).z = true := by rw [htile, if_pos rfl]
  refine ⟨hz, fun i hi => ?_, fun a ha => ?_⟩
  · have hf : Tbl.find? ((σ.dropDirty (n * 4096) (n * 4096 + 4096)).sealZero n ver g).fcache (n * 4096 + i) = none :=
      Tbl.find?_filter_none _ _ _ fun v => by
        dsimp only
        rw [decide_eq_true (show n * 4096 ≤ n * 4096 + i by omega), decide_eq_true (show n * 4096 + i < n * 4096 + 4096 by omega)]
        rfl
    unfold State.memByte
    rw [hf]
    dsimp only
    rw [show tileOf (n * 4096 + i) = n by unfold tileOf; omega, hz]
    split
    · rfl
    next h => exact not_not.1 fun hb => h ⟨hb, rfl⟩
  · have hf : Tbl.find? ((σ.dropDirty (n * 4096) (n * 4096 + 4096)).sealZero n ver g).fcache a = Tbl.find? σ.fcache a := by
      refine Tbl.find?_filter_all _ _ _ fun v => ?_
      simp
      omega
    unfold State.memByte
    rw [hf, htile, if_neg (show ¬tileOf a = n from ha)]
    rfl

theorem State.openRecord_started (s : State) (v : Word) : ((s.setMigLen 0).migStatus v 0).openRecord ((s.setMigLen 0).migStatus v 0).migrationKey ((s.setMigLen 0).migStatus v 0).migAddr
    = s.openRecord s.migrationKey s.migAddr := by
  rw [s.migAddr_started]
  exact State.openRecord_congr (fun _ => rfl) _ _

section
variable {s : State} {v : Word} (hb : s.migBusy = false) (h1 : 1 ≤ v.toNat / 2 ^ 16 % 256) (h64 : v.toNat / 2 ^ 16 % 256 ≤ 64)
    (hst : s.migState (v.toNat / 2 ^ 16 % 256) = 0) (hk : s.migKey = true)
include hb h1 h64 hst hk

/-- What LOAD makes of the record that it has opened. -/
theorem exec_migLoad_eq {w : State} (hw : w = ((s.setMigLen 0).migStatus v 0).setMigLen (s.openRecord s.migrationKey s.migAddr).1) : exec (.migLoad v) s =
    match (s.openRecord s.migrationKey s.migAddr).2 with
    | some (k :: p) =>
      if k = 1 then .next (w.importTiles (v.toNat / 2 ^ 16 % 256) p.length p) else
      (match w.recordFrom p with
       | some r => .next (if r.vf = v.toNat / 2 ^ 16 % 256 then (w.importRecord (v.toNat / 2 ^ 16 % 256) r).setMig (v.toNat / 2 ^ 16 % 256) 4 else w.migStatus v 3)
       | none => .next (w.migStatus v 3))
    | _ => .next (w.migStatus v 3) := by
  show execMigLoad v s = _
  unfold execMigLoad
  rw [migStart_runs hb h1 h64 (by rw [hst]; rfl) fun _ => hk]
  dsimp only
  rw [s.openRecord_started, ← hw] <;> rfl

end

/-- Importing a record without tasks changes no byte of memory, and it leaves the VF the record's policy generation. -/
theorem State.importRecord_spec (σ : State) (vf : Nat) (r : MigRec) : Tbl.get (σ.importRecord vf r).polgen 0 vf = r.polgen ∧ (r.tasks = [] → SameMemory σ (σ.importRecord vf r)) := by
  have hfold (l : List LeaseReq) (τ : State) : (l.foldl (fun (σ : State) (q : LeaseReq) =>
      σ.setTask q.task { σ.taskOf q.task with cont := (σ.taskOf q.task).cont.map fun a => { a with asked := some q } }) τ).polgen = τ.polgen
      ∧ SameMemory τ (l.foldl (fun (σ : State) (q : LeaseReq) => σ.setTask q.task { σ.taskOf q.task with cont := (σ.taskOf q.task).cont.map fun a => { a with asked := some q } }) τ) := by
    have h : τ.LotStep (l.foldl (fun (σ : State) (q : LeaseReq) => σ.setTask q.task { σ.taskOf q.task with cont := (σ.taskOf q.task).cont.map fun a => { a with asked := some q } }) τ) :=
      .foldl (fun σ q => (σ.leaseStep_setTask _ _).lotStep) l τ
    exact ⟨h.body.kept.2.2.2.2.1, h.memByte⟩
  have hgive (l : Tbl Task) (τ : State) : (l.foldl (fun σ p => State.giveArea σ vf p.1) τ).polgen = τ.polgen :=
    (State.BodyStep.foldl (fun σ p => σ.bodyStep_giveArea vf p.1) l τ).kept.2.2.2.2.1
  unfold State.importRecord
  dsimp only
  refine ⟨(congrArg (fun t => Tbl.get t 0 vf) ((hfold _ _).1.trans (hgive _ _))).trans (Tbl.get_set_same ..), fun hr a => ((hfold _ _).2 a).trans ?_⟩
  have hnil (a b c : Nat) : (r.shift a b c).tasks = [] := by
    show r.tasks.map _ = []
    rw [hr]
    rfl
  rw [hnil]
  rfl


/-! ### TRACK, FREEZE and RESUME -/

theorem exec_migTrack_spec {s : State} {v : Word} (hb : s.migBusy = false) (h1 : 1 ≤ v.toNat / 2 ^ 16 % 256) (h64 : v.toNat / 2 ^ 16 % 256 ≤ 64)
    (hst : s.migState (v.toNat / 2 ^ 16 % 256) = 0) : ∃ t, exec (.migTrack v) s = .next t ∧ t.migState (v.toNat / 2 ^ 16 % 256) = 1
      ∧ Tbl.get t.trackAt 0 (v.toNat / 2 ^ 16 % 256) = s.migAddr ∧ t.reg 0 0x5418 = 131072 ∧ (∀ a, s.migAddr ≤ a → a < s.migAddr + 131072 → t.memByte a = 0)
      ∧ ∀ a, (a < s.migAddr ∨ s.migAddr + 131072 ≤ a) → t.memByte a = s.memByte a := by
  obtain ⟨hin, hout⟩ := ((s.setMigLen 0).migStatus v 0).writeQuiet_zeros s.migAddr (s.migAddr + 131072)
  generalize hw : ((s.setMigLen 0).migStatus v 0).writeQuiet ((((s.setMigLen 0).migStatus v 0).cellsIn s.migAddr (s.migAddr + 131072)).map fun p => (p.1, 0)) = w at hin hout
  have hex : exec (.migTrack v) s = .next (({ w.setMigLen 131072 with trackAt := Tbl.set (w.setMigLen 131072).trackAt (v.toNat / 2 ^ 16 % 256) s.migAddr } : State).setMig (v.toNat / 2 ^ 16 % 256) 1) := by
    show execMigTrack v s = _
    unfold execMigTrack
    rw [migStart_runs hb h1 h64 (by rw [hst]; rfl) (by simp)]
    dsimp only
    rw [s.migAddr_started, hw]
  exact ⟨_, hex, Tbl.get_set_same .., Tbl.get_set_same .., (w.reg_setReg_same 0 0x5418 (BitVec.ofNat 64 131072)).trans (and_allOnes64 _), hin, hout⟩

theorem exec_migFreeze_spec {s : State} {v : Word} (hb : s.migBusy = false) (h1 : 1 ≤ v.toNat / 2 ^ 16 % 256) (h64 : v.toNat / 2 ^ 16 % 256 ≤ 64)
    (hst : s.migState (v.toNat / 2 ^ 16 % 256) = 0 ∨ s.migState (v.toNat / 2 ^ 16 % 256) = 1) :
    ∃ t, exec (.migFreeze v) s = .next t ∧ t.migState (v.toNat / 2 ^ 16 % 256) = 2 := by
  have hpre (σ : State) (c k : Nat) (w : Stop) : (σ.preemptLot c k w).frozen = σ.frozen := by
    unfold State.preemptLot
    dsimp only
    split
    · rfl
    · rfl
  refine ⟨_, by
    show execMigFreeze v s = _
    unfold execMigFreeze
    rw [migStart_runs hb h1 h64 (by rcases hst with h | h <;> rw [h] <;> rfl) (by simp)], ?_⟩
  unfold State.migState
  rw [sameFrozen_episodeRel.toNoticeRel.foldl (fun σ i => sameFrozen_episodeRel.endEpisode σ _ _ _ _),
    sameFrozen_episodeRel.toNoticeRel.foldl (fun σ (x : Nat × Nat) => hpre σ x.1 x.2 .freeze)]
  exact Tbl.get_set_same ..

theorem exec_migResume_spec {s : State} {v : Word} (hb : s.migBusy = false) (h1 : 1 ≤ v.toNat / 2 ^ 16 % 256) (h64 : v.toNat / 2 ^ 16 % 256 ≤ 64)
    (hst : s.migState (v.toNat / 2 ^ 16 % 256) = 4) : ∃ t, exec (.migResume v) s = .next t ∧ t.migState (v.toNat / 2 ^ 16 % 256) = 0 ∧ SameMemory s t := by
  have hlot (z τ : State) (h : (z.setMig (v.toNat / 2 ^ 16 % 256) 0).LotStep τ) (hz : SameMemory s z) : τ.migState (v.toNat / 2 ^ 16 % 256) = 0 ∧ SameMemory s τ := by
    refine ⟨?_, fun a => (h.memByte a).trans (hz a)⟩
    unfold State.migState
    rw [h.body.kept.2.2.2.2.2]
    exact Tbl.get_set_same ..
  have hex : exec (.migResume v) s = (fun (σ : State) => match σ.vfPart (v.toNat / 2 ^ 16 % 256) with
      | none => Host.Outcome.next σ
      | some part => .next (((σ.tasks.filter fun (p : Nat × Task) => decide ((σ.nodeOf p.2.node).vf = v.toNat / 2 ^ 16 % 256) && !p.2.state.ended).map (·.1)).foldl (fun σ t => σ.rebind part 32 t) σ))
        ((((s.setMigLen 0).migStatus v 0).setMig (v.toNat / 2 ^ 16 % 256) 0).retest ((((s.setMigLen 0).migStatus v 0).setMig (v.toNat / 2 ^ 16 % 256) 0).watches.map (·.pa))) := by
    show execMigResume v s = _
    unfold execMigResume
    rw [migStart_runs hb h1 h64 (by rw [hst]; rfl) (by simp)] <;> rfl
  rw [hex]
  dsimp only
  have hr := State.lotStep_retest (((s.setMigLen 0).migStatus v 0).setMig (v.toNat / 2 ^ 16 % 256) 0) ((((s.setMigLen 0).migStatus v 0).setMig (v.toNat / 2 ^ 16 % 256) 0).watches.map (·.pa))
  split
  · exact ⟨_, rfl, hlot _ _ hr fun _ => rfl⟩
  · exact ⟨_, rfl, hlot _ _ (hr.trans (.foldl (fun σ t => σ.lotStep_rebind _ _ t) _ _)) fun _ => rfl⟩

/-- The seven operations start alike. -/
theorem exec_mig_eq (v : Word) (s : State) : (∃ k, exec (.migTrack v) s = s.migStart v [0] false k) ∧ (∃ k, exec (.migFreeze v) s = s.migStart v [0, 1] false k)
    ∧ (∃ k, exec (.migCopy v) s = s.migStart v [1, 2] true k) ∧ (∃ k, exec (.migSave v) s = s.migStart v [2] true k) ∧ (∃ k, exec (.migLoad v) s = s.migStart v [0] true k)
    ∧ (∃ k, exec (.migResume v) s = s.migStart v [4] false k)
    ∧ exec (.migAbort v) s = s.migStart v [1, 2] false fun σ vf => .next ({ σ with trackAt := Tbl.del σ.trackAt vf }.setMig vf 0) :=
  ⟨⟨_, by show execMigTrack v s = _; unfold execMigTrack; rfl⟩, ⟨_, by show execMigFreeze v s = _; unfold execMigFreeze; rfl⟩,
    ⟨_, by show execMigCopy v s = _; unfold execMigCopy; rfl⟩, ⟨_, by show execMigSave v s = _; unfold execMigSave; rfl⟩,
    ⟨_, by show execMigLoad v s = _; unfold execMigLoad; rfl⟩, ⟨_, by show execMigResume v s = _; unfold execMigResume; rfl⟩, rfl⟩

/-- What LOAD makes of each kind of record. -/
theorem exec_migLoad_spec {s w : State} {v : Word} (hb : s.migBusy = false) (h1 : 1 ≤ v.toNat / 2 ^ 16 % 256) (h64 : v.toNat / 2 ^ 16 % 256 ≤ 64)
    (h0 : s.migState (v.toNat / 2 ^ 16 % 256) = 0) (hk : s.migKey = true) (hw : w = ((s.setMigLen 0).migStatus v 0).setMigLen (s.openRecord s.migrationKey s.migAddr).1) :
    let vf := v.toNat / 2 ^ 16 % 256
    let x := s.openRecord s.migrationKey s.migAddr
    ((x.2 = none ∨ x.2 = some []) → exec (.migLoad v) s = .next (w.migStatus v 3))
    ∧ (∀ p, x.2 = some (0 :: p) → (∀ r, s.recordFrom p = some r → r.vf ≠ vf) → exec (.migLoad v) s = .next (w.migStatus v 3))
    ∧ (∀ p r, x.2 = some (0 :: p) → s.recordFrom p = some r → r.vf = vf → ∃ t, exec (.migLoad v) s = .next t ∧ t.migState vf = 4
        ∧ Tbl.get t.polgen 0 vf = r.polgen ∧ (r.tasks = [] → SameMemory s t))
    ∧ (∀ n d, x.2 = some (1 :: (natBytes 8 n ++ 0 :: d)) → n < 2 ^ 64 → d.length = 4096 → (s.frameRec (n / 512)).owner = vf →
        ∃ t, exec (.migLoad v) s = .next t ∧ t.migState vf = 0 ∧ (∀ i < 4096, t.memByte (n * 4096 + i) = d.getD i 0) ∧ ∀ a, a / 4096 ≠ n → t.memByte a = s.memByte a)
    ∧ (∀ n, x.2 = some (1 :: (natBytes 8 n ++ [1])) → n < 2 ^ 64 → (s.frameRec (n / 512)).owner = vf →
        ∃ t, exec (.migLoad v) s = .next t ∧ t.migState vf = 0 ∧ (t.tile n).z = true ∧ (∀ i < 4096, t.memByte (n * 4096 + i) = 0) ∧ ∀ a, a / 4096 ≠ n → t.memByte a = s.memByte a) := by
  intro vf x
  have hload := exec_migLoad_eq hb h1 h64 h0 hk hw
  have hwm (a : Nat) : w.memByte a = s.memByte a := by
    rw [hw]
    rfl
  have hrec (p : List Byte) : w.recordFrom p = s.recordFrom p := by
    rw [hw]
    rfl
  have hst : w.migState vf = 0 := by
    rw [hw]
    exact h0
  have hown (n : Nat) : w.frameRec n = s.frameRec n := by
    rw [hw]
    rfl
  refine ⟨fun hx => ?_, fun p hx hr => ?_, fun p r hx hr hv => ?_, fun n d hx hn hd ho => ?_, fun n hx hn ho => ?_⟩
  · rw [hload]
    rcases hx with hx | hx
    · rw [show (s.openRecord s.migrationKey s.migAddr).2 = none from hx]
    · rw [show (s.openRecord s.migrationKey s.migAddr).2 = some [] from hx]
  · rw [hload, show (s.openRecord s.migrationKey s.migAddr).2 = some (0 :: p) from hx]
    dsimp only
    rw [if_neg (by decide), hrec]
    cases hrec : s.recordFrom p with
    | none => rfl
    | some r => exact congrArg Host.Outcome.next (if_neg (hr r hrec))
  · have hex : exec (.migLoad v) s = .next ((w.importRecord vf r).setMig vf 4) := by
      rw [hload, show (s.openRecord s.migrationKey s.migAddr).2 = some (0 :: p) from hx]
      dsimp only
      rw [if_neg (by decide), hrec, hr]
      exact congrArg Host.Outcome.next (if_pos hv)
    obtain ⟨hp, hm⟩ := w.importRecord_spec vf r
    exact ⟨_, hex, Tbl.get_set_same .., hp, fun hr a => (hm hr a).trans (hwm a)⟩
  · have hex : exec (.migLoad v) s = .next (w.importTiles vf (natBytes 8 n ++ 0 :: d).length (natBytes 8 n ++ 0 :: d)) := by
      rw [hload, show (s.openRecord s.migrationKey s.migAddr).2 = some (1 :: (natBytes 8 n ++ 0 :: d)) from hx]
      exact if_pos rfl
    have hlen : (natBytes 8 n ++ 0 :: d).length = 4103 + 2 := by simp [natBytes, hd]
    rw [hlen, w.importTiles_data vf n 4103 d hn hd (by rw [hown, ho])] at hex
    obtain ⟨hin, hout⟩ := w.writeQuiet_bytes (n * 4096) d
    rw [hd] at hin hout
    refine ⟨_, hex, ?_, hin, fun a ha => (hout a (by omega)).trans (hwm a)⟩
    obtain ⟨_, _, _, _, hs⟩ := w.writeQuiet_shape (d.zipIdx.map fun x => (n * 4096 + x.2, x.1))
    rw [hs]
    exact hst
  · have hex : exec (.migLoad v) s = .next (w.importTiles vf (natBytes 8 n ++ [1]).length (natBytes 8 n ++ [1])) := by
      rw [hload, show (s.openRecord s.migrationKey s.migAddr).2 = some (1 :: (natBytes 8 n ++ [1])) from hx]
      exact if_pos rfl
    have hlen : (natBytes 8 n ++ [(1 : Byte)]).length = 7 + 2 := by simp [natBytes]
    rw [hlen, w.importTiles_zero vf n 7 hn (by rw [hown, ho])] at hex
    obtain ⟨hz, hin, hout⟩ := w.zeroTile_memByte n ((w.tile n).ver + 1) (w.newGen vf)
    exact ⟨_, hex, hst, hz, hin, fun a ha => (hout a ha).trans (hwm a)⟩

/-- Settles O49: `migStart` decides whether an operation runs, and each that runs has its lemma above. -/
theorem migration : Obligations.Migration := by
  unfold Obligations.Migration
  intro s v vf st y z keyed at' x holds outside
  obtain ⟨⟨kt, ht⟩, ⟨kf, hf⟩, ⟨kc, hc⟩, ⟨ks, hs⟩, ⟨kl, hl⟩, ⟨kr, hr⟩, ha⟩ := exec_mig_eq v s
  refine ⟨fun hb => ?_, fun hb h0 => ?_, fun hb h1 h64 => ?_⟩
  · rw [ht, hf, hc, hs, hl, hr, ha]
    exact ⟨migStart_busy hb, migStart_busy hb, migStart_busy hb, migStart_busy hb, migStart_busy hb, migStart_busy hb, migStart_busy hb⟩
  · rw [ht, hf]
    exact ⟨migStart_refused hb (h0.imp_right .inl), migStart_refused hb (h0.imp_right .inl)⟩
  have hno {l : List Nat} (h : ∀ n ∈ l, st ≠ n) {key : Bool} {k : State → Nat → Out} : s.migStart v l key k = .next (y.migStatus v 1) := by
    refine migStart_refused hb (.inr (.inr ?_))
    rw [← Bool.not_eq_true, List.contains_iff_mem]
    exact fun hm => h _ hm rfl
  refine ⟨fun h0 => ?_, fun hn1 hn2 => ?_, fun hn2 => ?_, fun hn4 => ?_, fun hk => ?_, exec_migTrack_spec hb h1 h64, exec_migFreeze_spec hb h1 h64, fun hst hk => ?_, exec_migSave_spec hb h1 h64,
    fun h0 hk => ?_, exec_migResume_spec hb h1 h64, fun hst => ?_⟩
  · rw [ht, hl]
    exact ⟨hno (by simpa using h0), hno (by simpa using h0)⟩
  · rw [hc, ha]
    exact ⟨hno (by simp [hn1, hn2]), hno (by simp [hn1, hn2])⟩
  · rw [hs]
    exact hno (by simpa using hn2)
  · rw [hr]
    exact hno (by simpa using hn4)
  · have hkey : s.migKey = false := by simpa [keyed] using hk
    rw [hs, hl]
    refine ⟨fun h2 => (migStart_admitted hb h1 h64 ?_).trans (if_pos ⟨rfl, hkey⟩), fun h0 => (migStart_admitted hb h1 h64 ?_).trans (if_pos ⟨rfl, hkey⟩)⟩
    · rw [show s.migState _ = 2 from h2]
      rfl
    · rw [show s.migState _ = 0 from h0]
      rfl
  · obtain ⟨t, hex, hh, hm, hkept⟩ := exec_migCopy_spec hb h1 h64 hst hk
    exact ⟨t, hex, hh, hm, hkept⟩
  · intro w
    exact exec_migLoad_spec hb h1 h64 h0 hk rfl
  · rw [ha]
    exact migStart_runs hb h1 h64 (by rcases hst with h | h <;> rw [show s.migState _ = _ from h] <;> rfl) (by simp)

end Sys2Proof.Machine
end

section
/-! ## O51: firmware update, reset, errors and power -/
namespace Sys2Proof.Machine

/-! ### FWUCTL -/

/-- The STATUS field of a word with the bits of FWUCTL. -/
theorem fwuctl_status (n c : Nat) (hn : n < 2 ^ 60) (hc : c < 8) : (BitVec.ofNat 64 (n + c * 2 ^ 60) &&& BitVec.ofNat 64 (regBits 0 0x6010)).toNat / 2 ^ 60 % 8 = c := by
  have hm : regBits 0 0x6010 = 0xF00000000000010E := by decide
  rw [hm, BitVec.toNat_and, BitVec.toNat_ofNat, BitVec.toNat_ofNat, Nat.mod_eq_of_lt (show n + c * 2 ^ 60 < 2 ^ 64 by omega)]
  refine Nat.eq_of_testBit_eq fun i => ?_
  rw [show 8 = 2 ^ 3 from rfl, Nat.testBit_mod_two_pow, Nat.testBit_div_two_pow, Nat.testBit_and, show n + c * 2 ^ 60 = 2 ^ 60 * c + n by omega, Nat.testBit_two_pow_mul_add _ hn]
  rw [if_neg (by omega), Nat.add_sub_cancel]
  by_cases hi : i < 3
  · have : (0xF00000000000010E % 2 ^ 64).testBit (i + 60) = true := by
      interval_cases i <;> decide
    rw [this, Bool.and_true, decide_eq_true hi, Bool.true_and]
  · rw [decide_eq_false hi, Bool.false_and, Nat.testBit_lt_two_pow (lt_of_lt_of_le (show c < 2 ^ 3 from hc) (Nat.pow_le_pow_right Nat.two_pos (Nat.not_lt.1 hi)))]

theorem State.fwuStatus_status (σ : State) (v : Word) (c : Nat) (hc : c < 8) : ((σ.fwuStatus v c).reg 0 0x6010).toNat / 2 ^ 60 % 8 = c := by
  unfold State.fwuStatus
  rw [State.reg_setReg_same]
  exact fwuctl_status _ c (by omega) hc

theorem State.bankOf_set_inactive (s : State) (stage : Nat) (b : Bank) (σ : State) (h : σ.banks = Tbl.set s.banks (stage * 2 + (1 - s.activeOf stage)) b) :
    σ.bankOf stage (1 - s.activeOf stage) = b ∧ (s.activeOf stage ≤ 1 → σ.bankOf stage (s.activeOf stage) = s.bankOf stage (s.activeOf stage)) := by
  unfold State.bankOf
  rw [h]
  refine ⟨Tbl.get_set_same .., fun ha => Tbl.get_set_ne _ _ _ (by omega)⟩

/-- An image that passes FWUCTL's first checks. -/
theorem exec_fwuctlGo_go {s : State} {v : Word} (hgo : v.getLsbD 0 = true) (hg : 1 ≤ v.toNat / 2 % 8 ∧ v.toNat / 2 % 8 ≤ 6 ∧ 4096 ≤ (s.reg 0 0x6008).toNat ∧ (s.reg 0 0x6008).toNat ≤ 2 ^ 26)
    (hr : v.getLsbD 8 = true → Tbl.get s.fuses 0 (v.toNat / 2 % 8) < 64) : exec (.fwuctlGo v) s =
      if Config.freeBool s.fresh = false then .next (s.tickFresh.fwuStatus v 1)
      else if (Config.freeWord s.fresh).toNat % 2 ^ 32 < Tbl.get s.svnMin 0 (v.toNat / 2 % 8) then .next (s.tickFresh.fwuStatus v 2)
      else if Config.freeBool (s.fresh + 1) then .next (({ s.tickFresh.tickFresh with banks := Tbl.set s.banks (v.toNat / 2 % 8 * 2 + (1 - s.activeOf (v.toNat / 2 % 8))) { svn := (Config.freeWord s.fresh).toNat % 2 ^ 32, image := s.fresh + 8, signed := Config.freeBool (s.fresh + 1 + 1) } } : State).fwuStatus v 4)
      else .next (({ s.tickFresh with banks := Tbl.set s.banks (v.toNat / 2 % 8 * 2 + (1 - s.activeOf (v.toNat / 2 % 8))) { svn := (Config.freeWord s.fresh).toNat % 2 ^ 32, image := s.fresh + 8 }, fwuNew := Tbl.set s.fwuNew (v.toNat / 2 % 8) (v.getLsbD 8) } : State).fwuStatus v 0) := by
  obtain ⟨h1, h6, h4, h26⟩ := hg
  have hb : bits v.toNat 3 1 = v.toNat / 2 % 8 := rfl
  show execFwuctlGo v s = _
  unfold execFwuctlGo
  dsimp only
  rw [hgo, if_neg (by decide), hb, if_neg (by omega), if_neg fun h => absurd (hr h.1) (Nat.not_lt.mpr h.2)]
  cases Config.freeBool s.fresh with
  | false => rfl
  | true => rfl

/-! ### Reset and boot -/

theorem memFind_filter {l : List Host.Cell} {a lo : Nat} : memFind (l.filter fun c => decide (lo ≤ c.1)) a = if lo ≤ a then memFind l a else 0 := by
  have hcons (k : Nat) (v : Byte) (l : List Host.Cell) : memFind ((k, v) :: l) a = if k = a then v else memFind l a := rfl
  induction l with
  | nil => simp [memFind]
  | cons p l ih =>
    obtain ⟨k, v⟩ := p
    rw [List.filter_cons]
    split
    next h =>
      have hk : lo ≤ k := of_decide_eq_true h
      rw [hcons, hcons, ih]
      by_cases he : k = a
      · rw [if_pos he, if_pos he, if_pos (he ▸ hk)]
      · rw [if_neg he, if_neg he]
    next h =>
      have hk : ¬lo ≤ k := by simpa using h
      rw [ih, hcons]
      by_cases he : k = a
      · rw [if_neg (he ▸ hk), if_neg (he ▸ hk)]
      · rw [if_neg he]

/-- What a stage of the boot chain changes, and when it runs. -/
theorem State.bootStage_spec (σ : State) (stage : Nat) : (∃ n a m f, (σ.bootStage stage).1 = { σ with fwuNew := n, activeBank := a, svnMin := m, fuses := f }
      ∧ ∀ k, k ≠ stage → Tbl.get a 0 k = Tbl.get σ.activeBank 0 k ∧ Tbl.get m 0 k = Tbl.get σ.svnMin 0 k)
    ∧ ((∀ b, (σ.bankOf stage b).signed = false) → (σ.bootStage stage).2 = false)
    ∧ ((∀ b ≤ 1, (σ.bankOf stage b).signed = true ∧ Tbl.get σ.svnMin 0 stage ≤ (σ.bankOf stage b).svn) → σ.activeOf stage ≤ 1 → (σ.bootStage stage).2 = true) := by
  have hset {α : Type} (t : Tbl α) (d v : α) (k : Nat) (h : k ≠ stage) : Tbl.get (Tbl.set t stage v) d k = Tbl.get t d k := Tbl.get_set_ne _ _ _ h
  unfold State.bootStage
  dsimp only
  generalize hf : (if (Tbl.find? σ.fwuNew stage).isSome = true then 1 - σ.activeOf stage else σ.activeOf stage) = first
  refine ⟨?_, fun hno => ?_, fun hyes hact => ?_⟩
  · split
    · split
      · exact ⟨_, _, _, _, rfl, fun k hk => ⟨hset _ _ _ _ hk, hset _ _ _ _ hk⟩⟩
      · exact ⟨_, _, _, _, rfl, fun k hk => ⟨hset _ _ _ _ hk, rfl⟩⟩
    · split
      · exact ⟨_, _, _, _, rfl, fun k hk => ⟨hset _ _ _ _ hk, rfl⟩⟩
      · exact ⟨_, _, _, _, rfl, fun k hk => ⟨rfl, rfl⟩⟩
  · simp only [hno, Bool.false_and, Bool.false_eq_true, if_false]
  · have hfirst : first ≤ 1 := by
      rw [← hf]
      split
      · omega
      · exact hact
    obtain ⟨h1, h2⟩ := hyes first hfirst
    simp only [h1, decide_eq_true h2, Bool.true_and, if_true]
    split
    · rfl
    · rfl

/-- The stages boot one after the other. -/
theorem State.boot_spec (l : List Nat) (σ : State) (hl : l.Nodup) : (∃ n a m f c, State.boot l σ = { σ with fwuNew := n, activeBank := a, svnMin := m, fuses := f, condition := c } ∧ (c = σ.condition ∨ c = 1))
    ∧ ((∃ i ∈ l, ∀ b, (σ.bankOf i b).signed = false) → (State.boot l σ).condition = 1)
    ∧ ((∀ i ∈ l, (∀ b ≤ 1, (σ.bankOf i b).signed = true ∧ Tbl.get σ.svnMin 0 i ≤ (σ.bankOf i b).svn) ∧ σ.activeOf i ≤ 1) → (State.boot l σ).condition = σ.condition) := by
  induction l generalizing σ with
  | nil => exact ⟨⟨_, _, _, _, _, rfl, .inl rfl⟩, fun ⟨_, h, _⟩ => (nomatch h), fun _ => rfl⟩
  | cons k l ih =>
    obtain ⟨hk, hl⟩ := List.nodup_cons.1 hl
    obtain ⟨⟨n, a, m, f, hs, hrest⟩, hno, hyes⟩ := σ.bootStage_spec k
    unfold State.boot
    dsimp only
    cases hr : (σ.bootStage k).2 with
    | false =>
      rw [if_neg (by decide), hs]
      refine ⟨⟨n, a, m, f, 1, rfl, .inr rfl⟩, fun _ => rfl, fun hall => ?_⟩
      rw [hyes (hall k List.mem_cons_self).1 (hall k List.mem_cons_self).2] at hr
      cases hr
    | true =>
      rw [if_pos rfl]
      obtain ⟨⟨n', a', m', f', c, hs', hc⟩, hno', hyes'⟩ := ih (σ.bootStage k).1 hl
      rw [hs] at hs' hc hno' hyes' ⊢
      refine ⟨⟨n', a', m', f', c, hs', hc⟩, fun ⟨i, hi, hb⟩ => ?_, fun hall => ?_⟩
      · obtain rfl | hi := List.mem_cons.1 hi
        · rw [hno hb] at hr
          cases hr
        · exact hno' ⟨i, hi, hb⟩
      · refine hyes' fun i hi => ?_
        have hik : i ≠ k := fun h => hk (h ▸ hi)
        obtain ⟨ha, hm⟩ := hrest i hik
        obtain ⟨hb, hact⟩ := hall i (List.mem_cons_of_mem _ hi)
        refine ⟨fun b h1 => ⟨(hb b h1).1, ?_⟩, ?_⟩
        · show Tbl.get m 0 i ≤ _
          rw [hm]
          exact (hb b h1).2
        · show Tbl.get a 0 i ≤ 1
          rw [ha]
          exact hact

/-- Every unit as a package reset leaves it, before the boot chain runs. -/
def State.resetUnits (s : State) : State :=
  { State.reset with
    fresh := s.fresh + 1, mem := s.mem.filter fun c => decide (2 ^ 39 ≤ c.1), sealDraw := s.fresh + 1, fuseSeed := s.fuseSeed, identity := Config.identityKeys s.fuseSeed,
    certs := s.certs, banks := s.banks, activeBank := s.activeBank, fwuNew := s.fwuNew, svnMin := s.svnMin, fuses := s.fuses, errors := s.errors }

theorem exec_packageReset_spec (s : State) : ∃ t, exec .packageReset s = .next t ∧ t.ctxs = [] ∧ t.tasks = [] ∧ t.tables = [] ∧ t.bar = [] ∧ t.agenda = [] ∧ t.clock = 0
      ∧ (∀ a, a < 2 ^ 39 → t.memByte a = 0) ∧ (∀ a, 2 ^ 39 ≤ a → t.memByte a = memFind s.mem a)
      ∧ t.fuseSeed = s.fuseSeed ∧ t.identity = Config.identityKeys s.fuseSeed ∧ t.certs = s.certs ∧ t.banks = s.banks
      ∧ (t.condition = 0 ∨ t.condition = 1)
      ∧ ((∃ i, 1 ≤ i ∧ i ≤ 6 ∧ ∀ b, (s.bankOf i b).signed = false) → t.condition = 1)
      ∧ ((∀ i, 1 ≤ i → i ≤ 6 → (s.bankOf i 0).signed = true ∧ (s.bankOf i 1).signed = true ∧ Tbl.get s.svnMin 0 i ≤ (s.bankOf i 0).svn ∧ Tbl.get s.svnMin 0 i ≤ (s.bankOf i 1).svn ∧ s.activeOf i ≤ 1) → t.condition = 0) := by
  have hstages (i : Nat) : i ∈ [1, 2, 3, 4, 5, 6] ↔ 1 ≤ i ∧ i ≤ 6 := by
    simp only [List.mem_cons, List.not_mem_nil, or_false]
    omega
  have hbyte (σ : State) (hf : σ.fcache = []) (ht : σ.tiles = []) (hm : σ.mem = s.mem.filter fun c => decide (2 ^ 39 ≤ c.1)) (a : Nat) : σ.memByte a = if 2 ^ 39 ≤ a then memFind s.mem a else 0 := by
    have hz : ¬(Tbl.get ([] : Tbl Tile) {} (tileOf a)).z = true := by
      rw [show Tbl.get ([] : Tbl Tile) {} (tileOf a) = {} from rfl]
      decide
    unfold State.memByte State.tile
    rw [hf, ht, hm, memFind_filter]
    exact if_neg fun h => hz h.2
  obtain ⟨⟨n, a, m, f, c, hs, hc⟩, hno, hyes⟩ := State.boot_spec [1, 2, 3, 4, 5, 6] s.resetUnits (by decide)
  refine ⟨State.boot [1, 2, 3, 4, 5, 6] s.resetUnits, rfl, ?_⟩
  have hcond := congrArg State.condition hs
  refine ⟨by rw [hs]; rfl, by rw [hs]; rfl, by rw [hs]; rfl, by rw [hs]; rfl, by rw [hs]; rfl, by rw [hs]; rfl, fun b hb => ?_, fun b hb => ?_, by rw [hs]; rfl, by rw [hs]; rfl, by rw [hs]; rfl, by rw [hs]; rfl,
    ?_, fun ⟨i, h1, h6, hb⟩ => hno ⟨i, (hstages i).2 ⟨h1, h6⟩, hb⟩, fun h => hyes fun i hi => ?_⟩
  · rw [hs]
    exact (hbyte _ rfl rfl rfl b).trans (if_neg (Nat.not_le.mpr hb))
  · rw [hs]
    exact (hbyte _ rfl rfl rfl b).trans (if_pos hb)
  · exact hc.elim (fun h => .inl (hcond.trans h)) fun h => .inr (hcond.trans h)
  · obtain ⟨h1, h6⟩ := (hstages i).1 hi
    obtain ⟨hs0, hs1, hv0, hv1, ha⟩ := h i h1 h6
    refine ⟨fun b hb => ?_, ha⟩
    obtain rfl | rfl : b = 0 ∨ b = 1 := by omega
    · exact ⟨hs0, hv0⟩
    · exact ⟨hs1, hv1⟩

/-! ### The governor -/

theorem governorStep_spec (power : Nat → Nat) (temp cap : Nat) : 10 ≤ governorStep power temp cap ∧ governorStep power temp cap ≤ 30
    ∧ (105 ≤ temp → governorStep power temp cap = 10) ∧ (temp < 105 → power (governorStep power temp cap) ≤ cap ∨ governorStep power temp cap = 10)
    ∧ (temp < 105 → ∀ i, i ≤ 30 → governorStep power temp cap < i → cap < power i) := by
  have hget (j : Nat) (hj : j < ((List.range 21).map fun i => 30 - i).length) : ((List.range 21).map fun i => 30 - i)[j] = 30 - j := by simp
  have hlen : ((List.range 21).map fun i => 30 - i).length = 21 := by simp
  unfold governorStep
  split
  next ht =>
    split
    next f hf =>
      obtain ⟨hp, j, hj, hn, hbefore⟩ := List.find?_eq_some_iff_getElem.1 hf
      rw [hget] at hn
      rw [hlen] at hj
      refine ⟨by omega, by omega, fun h => absurd ht (Nat.not_lt.mpr h), fun _ => .inl (of_decide_eq_true hp), fun _ i hi hfi => ?_⟩
      have hb := hbefore (30 - i) (by omega)
      rw [hget, show 30 - (30 - i) = i by omega] at hb
      simpa using hb
    next hf =>
      refine ⟨Nat.le_refl _, by decide, fun _ => rfl, fun _ => .inr rfl, fun _ i hi hfi => ?_⟩
      have hb := List.find?_eq_none.1 hf i (List.mem_map.2 ⟨30 - i, List.mem_range.2 (by omega), by omega⟩)
      simpa using hb
  next ht => exact ⟨Nat.le_refl _, by decide, fun _ => rfl, fun h => absurd h ht, fun h => absurd h ht⟩

/-- The step field of the power register. -/
theorem power_step (f v : Nat) (hf : f < 2 ^ 8) : (BitVec.ofNat 64 (f * 2 ^ 24 + v % 2 ^ 24) &&& BitVec.ofNat 64 (regBits 0 0x6100)).toNat / 2 ^ 24 % 2 ^ 8 = f := by
  have hm : regBits 0 0x6100 = 0xFF000FFF := by decide
  have hv : v % 2 ^ 24 < 2 ^ 24 := Nat.mod_lt _ (by decide)
  rw [hm, BitVec.toNat_and, BitVec.toNat_ofNat, BitVec.toNat_ofNat, Nat.mod_eq_of_lt (show f * 2 ^ 24 + v % 2 ^ 24 < 2 ^ 64 by omega)]
  refine Nat.eq_of_testBit_eq fun i => ?_
  rw [Nat.testBit_mod_two_pow, Nat.testBit_div_two_pow, Nat.testBit_and, show f * 2 ^ 24 + v % 2 ^ 24 = 2 ^ 24 * f + v % 2 ^ 24 by omega, Nat.testBit_two_pow_mul_add _ hv]
  rw [if_neg (by omega), Nat.add_sub_cancel]
  by_cases hi : i < 8
  · have : (0xFF000FFF % 2 ^ 64).testBit (i + 24) = true := by
      interval_cases i <;> decide
    rw [this, Bool.and_true, decide_eq_true hi, Bool.true_and]
  · rw [decide_eq_false hi, Bool.false_and, Nat.testBit_lt_two_pow (lt_of_lt_of_le hf (Nat.pow_le_pow_right Nat.two_pos (Nat.not_lt.1 hi)))]

/-! ### Errors -/

theorem sameFrames_noticeRel : NoticeRel fun σ τ => τ.frames = σ.frames ∧ τ.condition = σ.condition where
  refl _ := ⟨rfl, rfl⟩
  trans h k := ⟨k.1.trans h.1, k.2.trans h.2⟩
  write σ l := by
    obtain ⟨_, _, _, _, h⟩ := σ.writeQuiet_shape l
    rw [h]
    exact ⟨rfl, rfl⟩
  plain _ _ _ _ _ _ _ := ⟨rfl, rfl⟩

theorem State.raiseEvent_shape (σ : State) (core src cause : Nat) : ∃ c, σ.raiseEvent core src cause = { σ with cores := c } := by
  unfold State.raiseEvent
  dsimp only
  split
  · exact ⟨σ.cores, rfl⟩
  split
  · exact ⟨_, rfl⟩
  · exact ⟨_, rfl⟩

/-- What is told of a tag error. -/
def State.parityTold (s : State) (sl row line : Nat) : State :=
  ((s.raiseEvent (sl / 16 * 8) 32 34).setCore (sl / 16 * 8) { (s.raiseEvent (sl / 16 * 8) 32 34).coreOf (sl / 16 * 8) with parityAt := some (sl + row * 2 ^ 16) }).hyperNotice 31 (s.frameRec (frameOf line)).owner line

theorem State.parityTold_frames (s : State) (sl row line : Nat) : (s.parityTold sl row line).frames = s.frames ∧ (s.parityTold sl row line).condition = s.condition := by
  obtain ⟨c, hc⟩ := s.raiseEvent_shape (sl / 16 * 8) 32 34
  have h := sameFrames_noticeRel.hyperNotice ((s.raiseEvent (sl / 16 * 8) 32 34).setCore (sl / 16 * 8) { (s.raiseEvent (sl / 16 * 8) 32 34).coreOf (sl / 16 * 8) with parityAt := some (sl + row * 2 ^ 16) }) 31 (s.frameRec (frameOf line)).owner line
  unfold State.parityTold
  refine ⟨h.1.trans ?_, h.2.trans ?_⟩
  · rw [hc]
    rfl
  · rw [hc]
    rfl

theorem exec_tagParity_eq {s : State} {sl row line : Nat} {dirty : Bool} (h1 : sl < 64) (h2 : row < 2048) : exec (.tagParity sl row line dirty) s =
    .next (if dirty = true ∨ s.lineDirty line = true then ((s.parityTold sl row line).dropLine line).lostSet sl row else (s.parityTold sl row line).dropLine line) := by
  obtain ⟨c, hc⟩ := s.raiseEvent_shape (sl / 16 * 8) 32 causeTagParity
  have ho : ∀ k, (((s.raiseEvent (sl / 16 * 8) 32 causeTagParity).setCore (sl / 16 * 8) k).frameRec (frameOf line)).owner = (s.frameRec (frameOf line)).owner := fun k => by
    rw [hc]
    rfl
  show execTagParity sl row line dirty s = _
  unfold execTagParity
  dsimp only
  rw [if_neg (by omega), ho]
  simp only [Bool.or_eq_true]
  rfl

theorem State.dropLine_gone (σ : State) (line : Nat) : (∀ a, a / 64 = line / 64 → Tbl.find? (σ.dropLine line).fcache a = none)
    ∧ (sectorOf line ∉ ((σ.dropLine line).tile (tileOf line)).present) ∧ (∀ a, a / 64 ≠ line / 64 → (σ.dropLine line).memByte a = σ.memByte a)
    ∧ (σ.dropLine line).frames = σ.frames ∧ (σ.dropLine line).condition = σ.condition := by
  have htile (m : Nat) : (σ.dropLine line).tile m = if m = tileOf line then { σ.tile (tileOf line) with present := (σ.tile (tileOf line)).present.filter fun s => decide (s ≠ sectorOf line) } else σ.tile m := Tbl.get_set ..
  refine ⟨fun a ha => ?_, ?_, fun a ha => ?_, rfl, rfl⟩
  · refine Tbl.find?_filter_none _ _ _ fun v => ?_
    dsimp only
    rw [decide_eq_true (show line / 64 * 64 ≤ a by omega), decide_eq_true (show a < line / 64 * 64 + 64 by omega)]
    rfl
  · rw [htile, if_pos rfl]
    simp
  · have hf : Tbl.find? (σ.dropLine line).fcache a = Tbl.find? σ.fcache a := Tbl.find?_filter_all _ _ _ fun v => by
      simp
      omega
    have hz : ((σ.dropLine line).tile (tileOf a)).z = (σ.tile (tileOf a)).z := by
      rw [htile]
      split
      next h => rw [h]
      next => rfl
    unfold State.memByte
    rw [hf, hz]
    rfl

theorem State.classOwners_congr {σ τ : State} (h : τ.frames = σ.frames) (k : Nat) : τ.classOwners k = σ.classOwners k ∧ τ.classFirmware k = σ.classFirmware k := by
  unfold State.classOwners State.classFirmware State.frameRec
  rw [h]
  exact ⟨rfl, rfl⟩


/-- Settles O51: FWUCTL by `exec_fwuctlGo_go`, the reset by `State.boot_spec`, the governor by `governorStep_spec`, a tag error by `exec_tagParity_eq`. -/
theorem errorsAndPower : Obligations.ErrorsAndPower := by
  unfold Obligations.ErrorsAndPower
  intro s v sl row line addr who place dirty hsl hrow
  refine ⟨?_, exec_packageReset_spec s, ⟨_, rfl, rfl, rfl, rfl, rfl, rfl⟩, fun h => if_pos h, fun h => ?_, ?_, ⟨_, rfl, ?_⟩, fun hd => ?_, ⟨_, rfl, rfl, rfl⟩, fun h2 h5 => ?_, rfl⟩
  · intro stage len good svn room inactive kept
    refine ⟨fun hgo => ?_, fun hgo hg => ?_, fun hgo hg hr => ?_, fun hgo hg hr hf => ?_, fun hgo hg hr hf hv => ?_, fun hgo hg hr hf hv hn => ?_, fun hgo hg hr hf hv hn => ?_⟩
    · refine ⟨s.setReg 0 0x6010 (BitVec.ofNat 64 (v.toNat % 2 ^ 60 + bits (s.reg 0 0x6010).toNat 62 60 * 2 ^ 60)), ?_, rfl, rfl, ?_⟩
      · show execFwuctlGo v s = _
        unfold execFwuctlGo
        dsimp only
        rw [hgo]
        rfl
      · rw [State.reg_setReg_same]
        exact fwuctl_status _ _ (Nat.mod_lt _ (by decide)) (Nat.mod_lt _ (by decide))
    · show execFwuctlGo v s = _
      unfold execFwuctlGo
      dsimp only
      rw [hgo, if_neg (by decide), if_pos]
      show stage = 0 ∨ stage = 7 ∨ len < 4096 ∨ 2 ^ 26 < len
      have : stage < 8 := Nat.mod_lt _ (by decide)
      have hg : ¬(1 ≤ stage ∧ stage ≤ 6 ∧ 4096 ≤ len ∧ len ≤ 2 ^ 26) := hg
      omega
    · have hng : ¬(stage = 0 ∨ stage = 7 ∨ len < 4096 ∨ 2 ^ 26 < len) := by
        obtain ⟨h1, h6, h4, h26⟩ := hg
        omega
      show execFwuctlGo v s = _
      unfold execFwuctlGo
      dsimp only
      rw [hgo, if_neg (by decide), if_neg (show ¬(bits v.toNat 3 1 = 0 ∨ bits v.toNat 3 1 = 7 ∨ _ ∨ _) from hng), if_pos]
      obtain ⟨hv8, hlt⟩ := Classical.not_imp.1 hr
      exact ⟨hv8, Nat.not_lt.1 hlt⟩
    · exact (exec_fwuctlGo_go hgo hg hr).trans (if_pos hf)
    · rw [exec_fwuctlGo_go hgo hg hr, hf, if_neg (by decide), if_pos hv]
    · have hex := exec_fwuctlGo_go hgo hg hr
      rw [hf, if_neg (by decide), if_neg (Nat.not_lt.mpr hv), if_pos hn] at hex
      refine ⟨_, hex, State.fwuStatus_status _ _ _ (by decide), (s.bankOf_set_inactive stage _ _ rfl).2, rfl, rfl, rfl⟩
    · have hex := exec_fwuctlGo_go hgo hg hr
      rw [hf, if_neg (by decide), if_neg (Nat.not_lt.mpr hv), hn, if_neg (by decide)] at hex
      obtain ⟨hb, hkept⟩ := s.bankOf_set_inactive stage { svn := svn, image := s.fresh + 8 } (({ s.tickFresh with banks := Tbl.set s.banks (stage * 2 + (1 - s.activeOf stage)) { svn := svn, image := s.fresh + 8 }, fwuNew := Tbl.set s.fwuNew stage (v.getLsbD 8) } : State).fwuStatus v 0) rfl
      refine ⟨_, hex, congrArg Bank.svn hb, congrArg Bank.signed hb, hkept, State.fwuStatus_status _ _ _ (by decide), Tbl.find?_set_same .., rfl, rfl⟩
  · obtain ⟨h10, h30, hhot, hcap, hmax⟩ := governorStep_spec (fun n => Config.packagePower n s.fresh) (Config.junction s.fresh) ((s.reg 0 0x6100).toNat % 4096)
    refine ⟨_, if_neg (Nat.not_le.mpr h), h10, h30, ?_, hhot, hcap, hmax, rfl, rfl, rfl, fun _ => rfl⟩
    refine Eq.trans ?_ (power_step _ (s.reg 0 0x6100).toNat (lt_of_le_of_lt h30 (by decide)))
    exact congrArg (fun w : Word => w.toNat / 2 ^ 24 % 2 ^ 8) (State.reg_setReg_same ..)
  · intro core z told lost gone
    have hex := exec_tagParity_eq (s := s) (line := line) (dirty := dirty) hsl hrow
    obtain ⟨hgone, hpres, hmem, hfr, hcond⟩ := (s.parityTold sl row line).dropLine_gone line
    obtain ⟨htf, htc⟩ := s.parityTold_frames sl row line
    obtain ⟨hown, hfirm⟩ := State.classOwners_congr (hfr.trans htf) (row / 32)
    refine ⟨fun hl => ?_, fun hl hf => ?_, fun hl hf ho => ?_, fun w hl hf ho => ?_⟩
    · rw [if_neg hl] at hex
      exact ⟨_, hex, hpres, hgone, hmem, hcond.trans htc⟩
    · rw [if_pos hl] at hex
      unfold State.lostSet at hex
      dsimp only at hex
      rw [hfirm, hf] at hex
      exact ⟨_, hex, rfl, rfl⟩
    · rw [if_pos hl] at hex
      unfold State.lostSet at hex
      dsimp only at hex
      rw [hfirm, hf, hown, ho] at hex
      exact ⟨_, hex, hgone, hcond.trans htc⟩
    · rw [if_pos hl] at hex
      unfold State.lostSet at hex
      dsimp only at hex
      rw [hfirm, hf, hown, ho, Nat.mod_eq_of_lt hsl, Nat.mod_eq_of_lt hrow, if_neg Bool.false_ne_true, List.foldl_cons, List.foldl_nil] at hex
      exact hex
  · exact congrArg Tile.bad (Tbl.get_set_same ..)
  · show execMemUe 1 addr who false s = _
    unfold execMemUe
    dsimp only
    rw [hd]
    rfl
  · show execMemUe place addr who dirty s = _
    unfold execMemUe
    dsimp only
    have hp : ¬place ≤ 1 ∧ place ≤ 5 ∧ ¬8 < place ∧ place ≠ 8 ∧ place ≠ 0 ∧ place ≠ 1 ∧ place ≤ 6 := by omega
    obtain ⟨h1, h5, h8, he, h0, hne, h6⟩ := hp
    rw [if_neg h1, if_pos h5, if_neg h8, if_neg he, if_neg h0, if_neg hne, if_pos h6]

end Sys2Proof.Machine
end

section
/-! ## O46 and O47: the fabric's records, its reduction windows and what arrives over it -/
namespace Sys2Proof.Machine

/-! ### What the steps of a window leave of the windows -/

@[simp] theorem State.winOf_setWin_same (σ : State) (k : Nat) (w : RedWin) : (σ.setWin k w).winOf k = w := Tbl.get_set_same ..

theorem State.winOf_setWin_ne (σ : State) {k j : Nat} (w : RedWin) (h : j ≠ k) : (σ.setWin k w).winOf j = σ.winOf j := Tbl.get_set_ne _ _ _ h

theorem State.winOf_congr {σ τ : State} (h : τ.redwins = σ.redwins) (k : Nat) : τ.winOf k = σ.winOf k := by
  unfold State.winOf
  rw [h]

theorem State.Noticed.redwins {σ τ : State} (h : σ.Noticed τ) : τ.redwins = σ.redwins := by
  obtain ⟨_, _, _, _, _, _, _, _, _, rfl⟩ := h
  rfl

theorem State.Noticed.fabReqs {σ τ : State} (h : σ.Noticed τ) : τ.fabReqs = σ.fabReqs := by
  obtain ⟨_, _, _, _, _, _, _, _, _, rfl⟩ := h
  rfl

theorem State.Noticed.arrivals {σ τ : State} (h : σ.Noticed τ) : τ.arrivals = σ.arrivals := by
  obtain ⟨_, _, _, _, _, _, _, _, _, rfl⟩ := h
  rfl

theorem State.noticed_feWrite (σ : State) (vf : Nat) (va : Word) (n v : Nat) : σ.Noticed (σ.feWrite vf va n v) := by
  unfold State.feWrite
  split
  · exact (σ.writeNat_shape _ _ _).noticed
  · exact .refl σ

/-- A member's failure counts it and writes its status word. -/
theorem State.memberFail_noticed (σ : State) (entry : Nat) (r : List Word) (reason : Nat) : ∃ m, State.Noticed { σ with memberCount := m } (σ.memberFail entry r reason) := by
  refine ⟨Tbl.set σ.memberCount entry (satCount (Tbl.get σ.memberCount 0 entry)), ?_⟩
  unfold State.memberFail
  dsimp only
  split
  · exact .refl _
  · exact State.noticed_feWrite _ _ _ _ _

theorem State.memberFail_kept (σ : State) (entry : Nat) (r : List Word) (reason : Nat) :
    (σ.memberFail entry r reason).redwins = σ.redwins ∧ (σ.memberFail entry r reason).fabReqs = σ.fabReqs := by
  obtain ⟨m, h⟩ := σ.memberFail_noticed entry r reason
  exact ⟨h.redwins, h.fabReqs⟩

/-- An answer takes the first contribution of the member that waits, and answers it or, where its lot has gone, drops it. -/
theorem State.answer_fabReqs (σ : State) (key off cidx code reason : Nat) : (σ.answer key off cidx code reason).redwins = σ.redwins
    ∧ ((∀ q ∈ σ.fabReqs, ¬(q.round = some (key, off) ∧ q.cidx = cidx ∧ q.answer = none)) ∧ (σ.answer key off cidx code reason).fabReqs = σ.fabReqs
      ∨ ∃ q ∈ σ.fabReqs, q.round = some (key, off) ∧ q.cidx = cidx ∧ q.answer = none
        ∧ (q.slot = noSlot ∧ (σ.answer key off cidx code reason).fabReqs = σ.fabReqs.filter (fun x => decide (x.id ≠ q.id))
          ∨ q.slot ≠ noSlot ∧ (σ.answer key off cidx code reason).fabReqs = σ.fabReqs.map fun x => if x.id = q.id then { x with answer := some code } else x)) := by
  unfold State.answer
  split
  next hf =>
    rw [List.find?_eq_none] at hf
    exact ⟨rfl, .inl ⟨fun q hq h => hf q hq (by simp [h]), rfl⟩⟩
  next q hf =>
    have hp := List.find?_some hf
    simp only [Bool.and_eq_true, decide_eq_true_eq] at hp
    obtain ⟨⟨h1, h2⟩, h3⟩ := hp
    have hk : (if code = 2 then σ.memberFail q.entry q.record reason else σ).redwins = σ.redwins
        ∧ (if code = 2 then σ.memberFail q.entry q.record reason else σ).fabReqs = σ.fabReqs := by
      split
      · exact σ.memberFail_kept _ _ _
      · exact ⟨rfl, rfl⟩
    dsimp only
    by_cases hs : q.slot = noSlot
    · rw [if_pos hs, ← hk.2]
      exact ⟨hk.1, .inr ⟨q, hk.2 ▸ List.mem_of_find?_eq_some hf, h1, h2, h3, .inl ⟨hs, rfl⟩⟩⟩
    · rw [if_neg hs, ← hk.2]
      exact ⟨hk.1, .inr ⟨q, hk.2 ▸ List.mem_of_find?_eq_some hf, h1, h2, h3, .inr ⟨hs, rfl⟩⟩⟩

theorem State.answer_redwins (σ : State) (key off cidx code reason : Nat) : (σ.answer key off cidx code reason).redwins = σ.redwins :=
  (σ.answer_fabReqs ..).1

theorem State.answers_redwins {β : Type} (l : List β) (f : β → Nat) (g : β → Nat) (key code reason : Nat) (σ : State) :
    (l.foldl (fun σ p => σ.answer key (f p) (g p) code reason) σ).redwins = σ.redwins := by
  induction l generalizing σ with
  | nil => rfl
  | cons p l ih => exact (ih _).trans (σ.answer_redwins ..)

/-- The state in which the INCOMPLETE close of a round answers its members. -/
def State.failNoticed (σ : State) (key off : Nat) (got : Tbl (BitVec 32)) (part reason : Nat) : State :=
  let w := σ.winOf key
  let n := satCount w.incomplete
  let r := σ.exportRec' w.expNo
  let arrived := got.foldl (fun a p => a + 2 ^ p.1) 0
  let frec := 1 + reason * 256 + n * 2 ^ 32 + off * 2 ^ 64 + part % 2 ^ 64 * 2 ^ 128 + arrived % 2 ^ 64 * 2 ^ 192 + σ.time % 2 ^ 64 * 2 ^ 256
  ((σ.setWin key { w with incomplete := n }).feWrite (expVf r) (r.getD 3 0) 64 frec).notice (expVf r) 27 0xFF 0xFFFF off

theorem State.failRound_eq (σ : State) (key off : Nat) (got : Tbl (BitVec 32)) (part reason : Nat) :
    σ.failRound key off got part reason = got.foldl (fun σ p => σ.answer key off p.1 2 reason) (σ.failNoticed key off got part reason) := rfl

theorem State.noticed_failNoticed (σ : State) (key off : Nat) (got : Tbl (BitVec 32)) (part reason : Nat) :
    (σ.setWin key { σ.winOf key with incomplete := satCount (σ.winOf key).incomplete }).Noticed (σ.failNoticed key off got part reason) :=
  (State.noticed_feWrite _ _ _ _ _).trans (State.noticed_notice _ _ _ _ _ _)

theorem State.failRound_redwins (σ : State) (key off : Nat) (got : Tbl (BitVec 32)) (part reason : Nat) : (σ.failRound key off got part reason).redwins
    = (σ.setWin key { σ.winOf key with incomplete := satCount (σ.winOf key).incomplete }).redwins := by
  rw [State.failRound_eq]
  exact (State.answers_redwins got (fun _ => off) (·.1) key 2 reason _).trans (σ.noticed_failNoticed ..).redwins

/-- An INCOMPLETE close takes the round away and counts it. -/
theorem State.closeRound_failed (σ : State) (key off reason : Nat) (h : reason ≠ 0) : (σ.closeRound key off reason).winOf key
    = { σ.winOf key with rounds := Tbl.del (σ.winOf key).rounds off, incomplete := satCount (σ.winOf key).incomplete } := by
  unfold State.closeRound
  dsimp only
  rw [if_pos h, State.winOf_congr (State.failRound_redwins ..), State.winOf_setWin_same, State.winOf_setWin_same]

/-! ### A delivery -/

theorem State.deliverMerge_done {σ d : State} {g off m : Nat} {w : RedWin} (h : σ.deliverMerge g w off m = .done d) :
    expMoved (σ.exportRec' w.expNo) = false ∧ ¬((!expValid (σ.exportRec' w.expNo)) = true ∨ expKind (σ.exportRec' w.expNo) ≠ 2 ∨ impWord (σ.exportRec' w.expNo) 2 ≤ off)
    ∧ σ.groupUp g = true ∧ ∃ x, xlate (σ.lotTable (expVf (σ.exportRec' w.expNo))) (BitVec.ofNat 64 (impWord (σ.exportRec' w.expNo) 1 + off)) .rmw .near = .ok x
      ∧ σ.accessCheck (expVf (σ.exportRec' w.expNo)) x.pa w.esize (BitVec.ofNat 64 (impWord (σ.exportRec' w.expNo) 1 + off)) = .ok ()
      ∧ d = (σ.fill x.pa).writeNat x.pa w.esize (redOp w.oper (σ.memNat x.pa w.esize) m) := by
  unfold State.deliverMerge at h
  dsimp only at h
  split at h
  · exact nomatch h
  next hm =>
    split at h
    · exact nomatch h
    next hv =>
      split at h
      · exact nomatch h
      next hg =>
        split at h
        · split at h <;> exact nomatch h
        next x hx =>
          split at h
          · exact nomatch h
          next hc =>
            refine ⟨by simpa using hm, hv, by simpa using hg, x, hx, hc, ?_⟩
            injection h with h
            exact h.symm

theorem State.deliverMerge_eq {σ : State} {g off m : Nat} {w : RedWin} {x : Xl} (hm : expMoved (σ.exportRec' w.expNo) = false)
    (hv : ¬((!expValid (σ.exportRec' w.expNo)) = true ∨ expKind (σ.exportRec' w.expNo) ≠ 2 ∨ impWord (σ.exportRec' w.expNo) 2 ≤ off)) (hg : σ.groupUp g = true)
    (hx : xlate (σ.lotTable (expVf (σ.exportRec' w.expNo))) (BitVec.ofNat 64 (impWord (σ.exportRec' w.expNo) 1 + off)) .rmw .near = .ok x)
    (hc : σ.accessCheck (expVf (σ.exportRec' w.expNo)) x.pa w.esize (BitVec.ofNat 64 (impWord (σ.exportRec' w.expNo) 1 + off)) = .ok ()) :
    σ.deliverMerge g w off m = .done ((σ.fill x.pa).writeNat x.pa w.esize (redOp w.oper (σ.memNat x.pa w.esize) m)) := by
  unfold State.deliverMerge
  dsimp only
  rw [if_neg (by simp [hm]), if_neg hv, if_neg (by simp [hg]), hx]
  dsimp only
  rw [hc]

theorem State.deliverMerge_redwins {σ d : State} {g off m : Nat} {w : RedWin} (h : σ.deliverMerge g w off m = .done d) :
    d.redwins = σ.redwins ∧ d.fabReqs = σ.fabReqs ∧ d.bar = σ.bar := by
  obtain ⟨_, _, _, x, _, _, rfl⟩ := State.deliverMerge_done h
  obtain ⟨_, hf⟩ := σ.fill_shape x.pa
  obtain ⟨_, _, _, _, hw⟩ := (σ.fill x.pa).writeNat_shape x.pa w.esize (redOp w.oper (σ.memNat x.pa w.esize) m)
  rw [hw, hf]
  exact ⟨rfl, rfl, rfl⟩

/-! ### What a window keeps through its rounds -/

/-- The fields of a window that RWCMD sets. -/
def RedWin.SetAs (w u : RedWin) : Prop := u.live = w.live ∧ u.oper = w.oper ∧ u.mask = w.mask ∧ u.expNo = w.expNo

theorem RedWin.SetAs.refl (w : RedWin) : w.SetAs w := ⟨rfl, rfl, rfl, rfl⟩

theorem RedWin.SetAs.trans {w u v : RedWin} (h : w.SetAs u) (k : u.SetAs v) : w.SetAs v :=
  ⟨k.1.trans h.1, k.2.1.trans h.2.1, k.2.2.1.trans h.2.2.1, k.2.2.2.trans h.2.2.2⟩

/-- Every window stands as it was set. -/
structure State.WinsSet (σ τ : State) : Prop where
  win : ∀ k, (σ.winOf k).SetAs (τ.winOf k)

theorem State.WinsSet.of_eq {σ τ : State} (h : τ.redwins = σ.redwins) : σ.WinsSet τ := ⟨fun k => by
  rw [State.winOf_congr h]
  exact .refl _⟩

theorem State.WinsSet.trans {σ τ ρ : State} (h : σ.WinsSet τ) (k : τ.WinsSet ρ) : σ.WinsSet ρ := ⟨fun n => (h.win n).trans (k.win n)⟩

theorem State.WinsSet.foldl {β : Type} {f : State → β → State} (h : ∀ (σ : State) b, σ.WinsSet (f σ b)) (l : List β) (σ : State) : σ.WinsSet (l.foldl f σ) := by
  induction l generalizing σ with
  | nil => exact .of_eq rfl
  | cons b l ih => exact (h σ b).trans (ih _)

theorem State.winsSet_setWin (σ : State) (k : Nat) (w : RedWin) (h : (σ.winOf k).SetAs w) : σ.WinsSet (σ.setWin k w) := ⟨fun j => by
  by_cases hj : j = k
  · rw [hj, State.winOf_setWin_same]
    exact h
  · rw [State.winOf_setWin_ne σ w hj]
    exact .refl _⟩

theorem State.winsSet_failRound (σ : State) (key off : Nat) (got : Tbl (BitVec 32)) (part reason : Nat) : σ.WinsSet (σ.failRound key off got part reason) :=
  (σ.winsSet_setWin key { σ.winOf key with incomplete := satCount (σ.winOf key).incomplete } ⟨rfl, rfl, rfl, rfl⟩).trans (.of_eq (σ.failRound_redwins ..))

theorem State.winsSet_closeRound (σ : State) (key off reason : Nat) : σ.WinsSet (σ.closeRound key off reason) := by
  unfold State.closeRound
  dsimp only
  refine (σ.winsSet_setWin key { σ.winOf key with rounds := Tbl.del (σ.winOf key).rounds off } ⟨rfl, rfl, rfl, rfl⟩).trans ?_
  generalize σ.setWin key { σ.winOf key with rounds := Tbl.del (σ.winOf key).rounds off } = τ
  split
  · exact τ.winsSet_failRound ..
  split
  next d hd => exact .of_eq ((State.answers_redwins (Tbl.get (σ.winOf key).rounds {} off).got (fun _ => off) (fun p => p.1) key 0 0 d).trans (State.deliverMerge_redwins hd).1)
  · exact τ.winsSet_failRound ..
  · exact τ.winsSet_setWin _ _ ⟨rfl, rfl, rfl, rfl⟩
  · exact τ.winsSet_setWin _ _ ⟨rfl, rfl, rfl, rfl⟩

theorem State.winsSet_setWin_closeRound (σ : State) (key off reason : Nat) (w : RedWin) (h : (σ.winOf key).SetAs w) : σ.WinsSet ((σ.setWin key w).closeRound key off reason) :=
  (σ.winsSet_setWin key w h).trans (State.winsSet_closeRound ..)

theorem State.winsSet_joinRound (σ : State) (key cidx off : Nat) (v : BitVec 32) : σ.WinsSet (σ.joinRound key cidx off v) := by
  unfold State.joinRound
  dsimp only
  split
  · split
    · exact σ.winsSet_setWin _ _ ⟨rfl, rfl, rfl, rfl⟩
    split
    · exact σ.winsSet_setWin_closeRound _ _ _ _ ⟨rfl, rfl, rfl, rfl⟩
    · exact σ.winsSet_setWin _ _ ⟨rfl, rfl, rfl, rfl⟩
  · split
    · exact σ.winsSet_setWin_closeRound _ _ _ _ ⟨rfl, rfl, rfl, rfl⟩
    split
    · exact σ.winsSet_setWin_closeRound _ _ _ _ ⟨rfl, rfl, rfl, rfl⟩
    · exact σ.winsSet_setWin _ _ ⟨rfl, rfl, rfl, rfl⟩

theorem State.winsSet_settleWin (σ : State) (key : Nat) : σ.WinsSet (σ.settleWin key) :=
  (σ.winsSet_setWin key { σ.winOf key with waiting := [] } ⟨rfl, rfl, rfl, rfl⟩).trans
    (.foldl (f := fun (τ : State) (p : Nat × Nat × BitVec 32) => τ.joinRound key p.2.1 p.1 p.2.2) (fun τ p => τ.winsSet_joinRound key p.2.1 p.1 p.2.2) _ _)

theorem State.winsSet_retryMerges (σ : State) (key : Nat) : σ.WinsSet (σ.retryMerges key) :=
  .trans (.foldl (f := fun (τ : State) (p : Nat × Nat × BitVec 32) => τ.retryMerge key p.1) (fun τ p => τ.winsSet_setWin_closeRound key p.1 0 _ ⟨rfl, rfl, rfl, rfl⟩) _ _)
    (State.winsSet_settleWin ..)

theorem State.foldl_sameWins {β : Type} {f : State → β → State} (l : List β) (h : ∀ (σ : State) b, (f σ b).redwins = σ.redwins ∧ (f σ b).bar = σ.bar) (σ : State) :
    (l.foldl f σ).redwins = σ.redwins ∧ (l.foldl f σ).bar = σ.bar := by
  induction l generalizing σ with
  | nil => exact ⟨rfl, rfl⟩
  | cons b l ih => exact ⟨(ih _).1.trans (h σ b).1, (ih _).2.trans (h σ b).2⟩

/-- The window as adopted: its operation, mask and timeout free values. -/
def State.adoptedWin (σ : State) (exp : Nat) : RedWin :=
  let f (i : Nat) : Nat := (Config.freeWord (σ.fresh + i)).toNat
  { live := true, oper := f 1 % 9, mask := f 2, tmo := f 3 % 2 ^ 32, expNo := exp }

/-- Adopting a window writes the merged values it delivers, and sets that window alone. -/
theorem State.adopt_spec (σ : State) (k exp : Nat) : (σ.adopt k exp).redwins = (σ.setWin k (σ.adoptedWin exp)).redwins ∧ (σ.adopt k exp).bar = σ.bar := by
  refine State.foldl_sameWins _ (fun τ i => ?_) (State.setWin { σ with fresh := _ } k (σ.adoptedWin exp))
  dsimp only
  split
  next d hd => exact ⟨(State.deliverMerge_redwins hd).1, (State.deliverMerge_redwins hd).2.2⟩
  · exact ⟨rfl, rfl⟩


/-! ### Records -/

theorem State.memByte_setReg (s : State) (b off : Nat) (v : Word) (a : Nat) : (s.setReg b off v).memByte a = s.memByte a := rfl

theorem State.reg_setReg_pf (s : State) (off off' : Nat) (v : Word) (h : off ≠ off') : (s.setReg 0 off v).reg 0 off' = s.reg 0 off' :=
  s.reg_setReg_ne _ _ _ _ _ (by omega)

theorem State.reg_setReg_full (s : State) (off : Nat) (v : Word) (h : regBits 0 off = 2 ^ 64 - 1) : (s.setReg 0 off v).reg 0 off = v := by
  rw [State.reg_setReg_same, h, and_allOnes64]

theorem exec_tblRead_kind {s : State} {v : Word} {t : Nat} (h0 : v.toNat / 2 ^ 12 % 4 = 0) (ht : v.toNat / 2 ^ 14 % 4 = t) (h1 : t = 0 ∨ t = 1)
    (hh : t = 0 → ∀ q ∈ s.fabReqs, q.entry = v.toNat % 4096 → q.held = false) : ∃ u, exec (.tblRead v) s = .next u
      ∧ [u.reg 0 0x4010, u.reg 0 0x4018, u.reg 0 0x4020, u.reg 0 0x4028]
        = [0, 1, 2, 3].map (fun j => (if t = 0 then s.importRec (v.toNat % 4096) else s.exportRec' (v.toNat % 4096)).getD j 0) ∧ SameMemory s u := by
  have hb : bits v.toNat 13 12 = 0 := h0
  have hk : bits v.toNat 15 14 = t := ht
  have hheld : (if t = 0 ∧ s.fabReqs.any (fun q => decide (q.entry = v.toNat % 4096) && q.held) then BitVec.ofNat 64 (2 ^ 16) else 0) = 0#64 := by
    refine if_neg fun ⟨ht0, ha⟩ => ?_
    obtain ⟨q, hq, hp⟩ := List.any_eq_true.mp ha
    simp only [Bool.and_eq_true, decide_eq_true_eq] at hp
    rw [hh ht0 q hq hp.1] at hp
    exact absurd hp.2 (by simp)
  refine ⟨?next, ?eq, ?_, ?_⟩
  case eq =>
    show execTblRead v s = _
    unfold execTblRead
    dsimp only
    rw [if_neg (by omega), hk, hheld]
  case refine_2 =>
    intro a
    simp only [State.memByte_setReg]
  simp only [List.map_cons, List.map_nil]
  simp only [State.reg_setReg_pf _ _ _ _ (show 0x4018 ≠ 0x4010 by decide), State.reg_setReg_pf _ _ _ _ (show 0x4020 ≠ 0x4010 by decide),
    State.reg_setReg_pf _ _ _ _ (show 0x4028 ≠ 0x4010 by decide), State.reg_setReg_pf _ _ _ _ (show 0x4020 ≠ 0x4018 by decide),
    State.reg_setReg_pf _ _ _ _ (show 0x4028 ≠ 0x4018 by decide), State.reg_setReg_pf _ _ _ _ (show 0x4028 ≠ 0x4020 by decide), State.reg_setReg_full _ 0x4010 _ rfl,
    State.reg_setReg_full _ 0x4018 _ rfl, State.reg_setReg_full _ 0x4020 _ rfl, State.reg_setReg_full _ 0x4028 _ rfl, BitVec.or_zero]

theorem exec_tblWrite_eq {s : State} {v : Word} (h : v.toNat / 2 ^ 12 % 4 = 1) : exec (.tblWrite v) s = .next ((s.setReg 0 0x4008 (v &&& 0xFFFF)).tblStore v) :=
  congrArg Host.Outcome.next (if_pos (show bits v.toNat 13 12 = 1 from h))

theorem exec_tblWrite_import {s : State} {v : Word} (h1 : v.toNat / 2 ^ 12 % 4 = 1) (h0 : v.toNat / 2 ^ 14 % 4 = 0)
    (hok : importOk [(s.reg 0 0x4010) &&& ~~~(BitVec.ofNat 64 (2 ^ 16)), s.reg 0 0x4018, s.reg 0 0x4020, s.reg 0 0x4028] = true) :
    exec (.tblWrite v) s = .next { s.setReg 0 0x4008 (v &&& 0xFFFF) with
      imports := Tbl.set s.imports (v.toNat % 4096) [(s.reg 0 0x4010) &&& ~~~(BitVec.ofNat 64 (2 ^ 16)), s.reg 0 0x4018, s.reg 0 0x4020, s.reg 0 0x4028],
      fabReqs := s.fabReqs.map fun q => if q.entry = v.toNat % 4096 ∧ q.held then
        q.resend [(s.reg 0 0x4010) &&& ~~~(BitVec.ofNat 64 (2 ^ 16)), s.reg 0 0x4018, s.reg 0 0x4020, s.reg 0 0x4028] else q } := by
  rw [exec_tblWrite_eq h1]
  unfold State.tblStore
  dsimp only
  rw [if_pos (show bits v.toNat 15 14 = 0 from h0), s.reg_setReg_pf _ 0x4010 _ (by decide), s.reg_setReg_pf _ 0x4018 _ (by decide), s.reg_setReg_pf _ 0x4020 _ (by decide),
    s.reg_setReg_pf _ 0x4028 _ (by decide), if_pos hok]
  rfl

theorem exec_tblWrite_export {s : State} {v : Word} (h1 : v.toNat / 2 ^ 12 % 4 = 1) (h0 : v.toNat / 2 ^ 14 % 4 = 1)
    (hok : exportOk [s.reg 0 0x4010, s.reg 0 0x4018, s.reg 0 0x4020, s.reg 0 0x4028] = true) :
    exec (.tblWrite v) s = .next { s.setReg 0 0x4008 (v &&& 0xFFFF) with
      exports := Tbl.set s.exports (v.toNat % 4096) [s.reg 0 0x4010, s.reg 0 0x4018, s.reg 0 0x4020, s.reg 0 0x4028] } := by
  rw [exec_tblWrite_eq h1]
  unfold State.tblStore
  dsimp only
  have hk : bits v.toNat 15 14 = 1 := h0
  rw [if_neg (by omega), if_pos hk, s.reg_setReg_pf _ 0x4010 _ (by decide), s.reg_setReg_pf _ 0x4018 _ (by decide), s.reg_setReg_pf _ 0x4020 _ (by decide),
    s.reg_setReg_pf _ 0x4028 _ (by decide), if_pos hok]
  rfl

theorem exec_tblWrite_refused {s : State} {v : Word} (h1 : v.toNat / 2 ^ 12 % 4 = 1)
    (h : v.toNat / 2 ^ 14 % 4 = 0 ∧ importOk [(s.reg 0 0x4010) &&& ~~~(BitVec.ofNat 64 (2 ^ 16)), s.reg 0 0x4018, s.reg 0 0x4020, s.reg 0 0x4028] = false
      ∨ v.toNat / 2 ^ 14 % 4 = 1 ∧ exportOk [s.reg 0 0x4010, s.reg 0 0x4018, s.reg 0 0x4020, s.reg 0 0x4028] = false ∨ 2 ≤ v.toNat / 2 ^ 14 % 4) :
    exec (.tblWrite v) s = .next (s.setReg 0 0x4008 (v &&& 0xFFFF)) := by
  rw [exec_tblWrite_eq h1]
  unfold State.tblStore
  dsimp only
  rw [s.reg_setReg_pf _ 0x4010 _ (by decide), s.reg_setReg_pf _ 0x4018 _ (by decide), s.reg_setReg_pf _ 0x4020 _ (by decide), s.reg_setReg_pf _ 0x4028 _ (by decide)]
  obtain ⟨hk, ho⟩ | ⟨hk, ho⟩ | hk := h
  · rw [if_pos (show bits v.toNat 15 14 = 0 from hk), if_neg (by rw [ho]; decide)]
  · have hk' : bits v.toNat 15 14 = 1 := hk
    rw [if_neg (by omega), if_pos hk', if_neg (by simp [ho])]
  · have hk' : 2 ≤ bits v.toNat 15 14 := hk
    rw [if_neg (by omega), if_neg (by omega)]

/-! ### Commands on windows -/

section
variable {s : State} {v : Word}

theorem exec_rw_busy (h : s.rwBusy = true) : exec (.rwSet v) s = .next s ∧ exec (.rwClear v) s = .next s ∧ exec (.rwRepoint v) s = .next s :=
  ⟨if_pos h, if_pos h, if_pos h⟩

theorem exec_rwSet_eq (h : s.rwBusy = false) : exec (.rwSet v) s = s.rwSet v := if_neg (by simp [h])

theorem exec_rw_bad (h : s.rwBusy = false) (hb : rwBad v = true) : exec (.rwSet v) s = .next (s.setReg 0 0x4030 (rwStatus v 3))
    ∧ exec (.rwClear v) s = .next (s.setReg 0 0x4030 (rwStatus v 3)) ∧ exec (.rwRepoint v) s = .next (s.setReg 0 0x4030 (rwStatus v 3)) :=
  ⟨(exec_rwSet_eq h).trans (if_pos (.inl hb)), (if_neg (by simp [h])).trans (if_pos (.inl hb)), (if_neg (by simp [h])).trans (if_pos (.inl hb))⟩

theorem State.rwAnswer_live (h : (s.winOf (rwWin v)).live = true) : s.rwAnswer v = 0 := if_pos h

theorem exec_rwSet_open (h : s.rwBusy = false) (hb : rwBad v = false) (ho : v.toNat / 2 ^ 48 % 4 = 0) (hl : (s.winOf (rwWin v)).live = true)
    (hr : (s.winOf (rwWin v)).rounds ≠ []) : exec (.rwSet v) s = .next (s.setReg 0 0x4030 (v ||| BitVec.ofNat 64 (2 ^ 63))) := by
  have hop : bits v.toNat 49 48 = 0 := ho
  rw [exec_rwSet_eq h]
  unfold State.rwSet
  dsimp only
  rw [if_neg (by simp [hb, hop]), if_neg (by simp [State.rwAnswer_live hl]), if_pos ⟨hl, hr⟩]

theorem exec_rwSet_done (h : s.rwBusy = false) (hb : rwBad v = false) (ho : v.toNat / 2 ^ 48 % 4 = 0) (hl : (s.winOf (rwWin v)).live = true)
    (hr : (s.winOf (rwWin v)).rounds = []) : ∃ t, exec (.rwSet v) s = .next t ∧ t.winOf (rwWin v) =
      { live := true, oper := v.toNat / 2 ^ 32 % 16, mask := (s.reg 0 0x4038).toNat, tmo := (s.reg 0 0x4040).toNat % 2 ^ 32, expNo := v.toNat / 2 ^ 16 % 4096,
        incomplete := (s.winOf (rwWin v)).incomplete } := by
  have hop : bits v.toNat 49 48 = 0 := ho
  refine ⟨?next, ?eq, ?_⟩
  case eq =>
    rw [exec_rwSet_eq h]
    unfold State.rwSet
    dsimp only
    rw [if_neg (by simp [hb, hop]), if_neg (by simp [State.rwAnswer_live hl]), if_neg (by simp [hr])]
  exact State.winOf_setWin_same ..

theorem exec_rwClear_done (h : s.rwBusy = false) (hb : rwBad v = false) (ho : v.toNat / 2 ^ 48 % 4 = 1) (hl : (s.winOf (rwWin v)).live = true) :
    ∃ t, exec (.rwClear v) s = .next t ∧ (t.winOf (rwWin v)).live = false ∧ (t.winOf (rwWin v)).rounds = [] := by
  have hop : bits v.toNat 49 48 = 1 := ho
  refine ⟨?next, ?eq, ?_, ?_⟩
  case eq =>
    show execRwClear v s = _
    unfold execRwClear
    dsimp only
    rw [if_neg (by simp [h]), if_neg (by simp [hb, hop]), if_neg (by simp [hl])]
  · exact congrArg RedWin.live (State.winOf_setWin_same _ _ _)
  · exact congrArg RedWin.rounds (State.winOf_setWin_same _ _ _)

theorem exec_rwClear_elsewhere (h : s.rwBusy = false) (hb : rwBad v = false) (ho : v.toNat / 2 ^ 48 % 4 = 1) (hl : (s.winOf (rwWin v)).live = false) :
    exec (.rwClear v) s = .next ((s.tickFresh).setReg 0 0x4030 (rwStatus v (s.rwAnswer v))) := by
  have hop : bits v.toNat 49 48 = 1 := ho
  show execRwClear v s = _
  unfold execRwClear
  dsimp only
  rw [if_neg (by simp [h]), if_neg (by simp [hb, hop]), if_pos (by simp [hl])]

theorem exec_rwRepoint_done (h : s.rwBusy = false) (hb : rwBad v = false) (ho : v.toNat / 2 ^ 48 % 4 = 2) (hl : (s.winOf (rwWin v)).live = true) :
    ∃ t, exec (.rwRepoint v) s = .next t ∧ (t.winOf (rwWin v)).live = true ∧ (t.winOf (rwWin v)).expNo = v.toNat / 2 ^ 16 % 4096
      ∧ (t.winOf (rwWin v)).oper = (s.winOf (rwWin v)).oper ∧ (t.winOf (rwWin v)).mask = (s.winOf (rwWin v)).mask := by
  have hop : bits v.toNat 49 48 = 2 := ho
  refine ⟨?next, ?eq, ?_⟩
  case eq =>
    show execRwRepoint v s = _
    unfold execRwRepoint
    dsimp only
    rw [if_neg (by simp [h]), if_neg (by simp [hb, hop]), if_neg (by simp [hl])]
  have hk := ((s.setWin (rwWin v) { s.winOf (rwWin v) with expNo := bits v.toNat 27 16, moved := [] }).winsSet_retryMerges (rwWin v)).win (rwWin v)
  rw [State.winOf_setWin_same] at hk
  obtain ⟨h1, h2, h3, h4⟩ := hk
  exact ⟨h1.trans hl, h4, h2, h3⟩

theorem exec_rwRepoint_elsewhere (h : s.rwBusy = false) (hb : rwBad v = false) (ho : v.toNat / 2 ^ 48 % 4 = 2) (hl : (s.winOf (rwWin v)).live = false) :
    exec (.rwRepoint v) s = .next ((if s.rwAnswer v = 0 then s.adopt (rwWin v) (bits v.toNat 27 16) else s.tickFresh).setReg 0 0x4030 (rwStatus v (s.rwAnswer v))) := by
  have hop : bits v.toNat 49 48 = 2 := ho
  show execRwRepoint v s = _
  unfold execRwRepoint
  dsimp only
  rw [if_neg (by simp [h]), if_neg (by simp [hb, hop]), if_pos (by simp [hl])]

theorem exec_rwRepoint_adopted (h : s.rwBusy = false) (hb : rwBad v = false) (ho : v.toNat / 2 ^ 48 % 4 = 2) (hl : (s.winOf (rwWin v)).live = false) (ha : s.rwAnswer v = 0) :
    ∃ t, exec (.rwRepoint v) s = .next t ∧ (t.winOf (rwWin v)).live = true ∧ (t.winOf (rwWin v)).expNo = v.toNat / 2 ^ 16 % 4096
      ∧ t.reg 0 0x4030 = (s.setReg 0 0x4030 (rwStatus v 0)).reg 0 0x4030 ∧ ∀ j, j ≠ rwWin v → t.winOf j = s.winOf j := by
  refine ⟨_, exec_rwRepoint_elsewhere h hb ho hl, ?_⟩
  rw [ha, if_pos rfl]
  have hw (j : Nat) : ((s.adopt (rwWin v) (bits v.toNat 27 16)).setReg 0 0x4030 (rwStatus v 0)).winOf j = (s.setWin (rwWin v) (s.adoptedWin (bits v.toNat 27 16))).winOf j :=
    State.winOf_congr (s.adopt_spec _ _).1 j
  refine ⟨?_, ?_, ?_, fun j hj => ?_⟩
  · rw [hw, State.winOf_setWin_same]
    rfl
  · rw [hw, State.winOf_setWin_same]
    rfl
  · rw [State.reg_setReg_same, State.reg_setReg_same]
  · rw [hw, State.winOf_setWin_ne _ _ hj]

end

/-- Settles O46: the registers and tables each command writes, and, of a window that stays, that its rounds keep what RWCMD has set. -/
theorem fabricRecords : Obligations.FabricRecords := by
  unfold Obligations.FabricRecords
  intro s v
  dsimp only
  refine ⟨fun h0 h1 => exec_tblRead_kind h0 h1 (.inr rfl) (by simp), fun h0 h1 hh => ?_, fun h1 h0 hok => ?_, fun h1 h0 hok => ?_, fun h1 h => ?_, exec_rw_busy,
    fun hb => ⟨exec_rw_bad hb, exec_rwSet_done hb, exec_rwSet_open hb, exec_rwClear_done hb, exec_rwRepoint_done hb, fun hx ho hl => ⟨fun ha => ?_, ?_⟩,
      exec_rwClear_elsewhere hb⟩⟩
  · obtain ⟨t, ht, hr, -⟩ := exec_tblRead_kind h0 h1 (.inl rfl) (fun _ => hh)
    exact ⟨t, ht, hr⟩
  · refine ⟨_, exec_tblWrite_import h1 h0 hok, Tbl.get_set_same .., fun q hq he => ?_, fun q hq he hheld => ?_, fun j hj => Tbl.get_set_ne _ _ _ hj, rfl⟩
    · obtain ⟨p, -, rfl⟩ := List.mem_map.mp hq
      by_cases hp : p.entry = v.toNat % 4096 ∧ p.held = true
      · rw [if_pos hp]
        rfl
      · rw [if_neg hp] at he ⊢
        simpa [he] using hp
    · exact List.mem_map.mpr ⟨q, hq, if_pos ⟨he, hheld⟩⟩
  · exact ⟨_, exec_tblWrite_export h1 h0 hok, Tbl.get_set_same .., fun j hj => Tbl.get_set_ne _ _ _ hj, rfl⟩
  · exact ⟨_, exec_tblWrite_refused h1 h, rfl, rfl⟩
  · rw [exec_rwRepoint_elsewhere hb hx ho hl, if_neg ha]
  · exact exec_rwRepoint_adopted hb hx ho hl

end Sys2Proof.Machine
end

section
namespace Sys2Proof.Machine

/-! ### Accesses of other packages (R393) -/

/-- A record of exported memory takes an access of a package at an offset. -/
def ExportTakes (r : List Word) (src off : Nat) : Prop :=
  expValid r = true ∧ expKind r = 0 ∧ expMoved r = false ∧ (expSrc r = 0xFFFF ∨ expSrc r = src) ∧ off < impWord r 2

theorem not_exportTakes_iff (r : List Word) (src off : Nat) :
    ¬ExportTakes r src off ↔ (expMoved r = true ∨ (!expValid r) = true ∨ expKind r ≠ 0 ∨ (expSrc r ≠ 0xFFFF ∧ expSrc r ≠ src) ∨ impWord r 2 ≤ off) := by
  unfold ExportTakes
  cases expMoved r with
  | true => simp
  | false =>
    cases expValid r with
    | false => simp
    | true =>
      simp only [Bool.not_true, Bool.false_eq_true, true_and, false_or]
      omega

section
variable {s : State} {a : Arrival}

theorem State.arrive_down (h : s.packageUp a.src = false) : s.arrive a = .next s := if_pos (by simp [h])

theorem State.arrive_behind (h : s.packageUp a.src = true) (hf : ¬∀ b ∈ s.arrivals, b.src ≠ a.src ∨ b.exp ≠ a.exp) :
    s.arrive a = .next { s with arrivals := s.arrivals ++ [a] } := by
  unfold State.arrive
  rw [if_neg (by simp [h]), if_pos]
  push Not at hf
  obtain ⟨b, hb, h1, h2⟩ := hf
  exact List.any_eq_true.mpr ⟨b, hb, by simp [h1, h2]⟩

theorem State.arrive_first (h : s.packageUp a.src = true) (hf : ∀ b ∈ s.arrivals, b.src ≠ a.src ∨ b.exp ≠ a.exp) {τ : State} (hs : s.serveRemote a = some τ) :
    s.arrive a = .next τ := by
  unfold State.arrive
  rw [if_neg (by simp [h]), if_neg, hs]
  simp only [List.any_eq_true, Bool.and_eq_true, decide_eq_true_eq, not_exists, not_and]
  exact fun b hb h1 h2 => (hf b hb).elim (absurd h1) (absurd h2)

theorem State.arrive_waits (h : s.packageUp a.src = true) (hf : ∀ b ∈ s.arrivals, b.src ≠ a.src ∨ b.exp ≠ a.exp) (hs : s.serveRemote a = none) :
    ∃ t, s.arrive a = .next t ∧ t.arrivals = s.arrivals ++ [a] := by
  unfold State.arrive
  rw [if_neg (by simp [h]), if_neg, hs]
  · exact ⟨_, rfl, (State.noticed_pageWant ..).arrivals⟩
  · simp only [List.any_eq_true, Bool.and_eq_true, decide_eq_true_eq, not_exists, not_and]
    exact fun b hb h1 h2 => (hf b hb).elim (absurd h1) (absurd h2)

theorem State.serveRemote_refused (h : ¬ExportTakes (s.exportRec' a.exp) a.src a.off) : s.serveRemote a = some s :=
  if_pos ((not_exportTakes_iff _ _ _).mp h)

theorem State.serveRemote_nonresident {e : Tr} (h : ExportTakes (s.exportRec' a.exp) a.src a.off)
    (hx : xlate (s.lotTable (expVf (s.exportRec' a.exp))) (BitVec.ofNat 64 (impWord (s.exportRec' a.exp) 1 + a.off)) a.kind .near = .error e) (hc : e.cause = 5) :
    s.serveRemote a = none := by
  unfold State.serveRemote
  dsimp only
  rw [if_neg (fun hn => (not_exportTakes_iff _ _ _).mpr hn h), hx]
  exact if_pos (.inl hc)

theorem State.serveRemote_write {p : Xl} (h : ExportTakes (s.exportRec' a.exp) a.src a.off) (ha : a.atom = none) (hw : a.wr = true)
    (hx : xlate (s.lotTable (expVf (s.exportRec' a.exp))) (BitVec.ofNat 64 (impWord (s.exportRec' a.exp) 1 + a.off)) a.kind .near = .ok p)
    (ho : s.ownerOk (expVf (s.exportRec' a.exp)) p.pa = true) : s.serveRemote a = some (s.writeNat p.pa a.size (a.v.toNat % 256 ^ a.size)) := by
  unfold State.serveRemote
  dsimp only
  rw [if_neg (fun hn => (not_exportTakes_iff _ _ _).mpr hn h), hx]
  dsimp only
  rw [if_neg (by simp [ha]), if_pos hw, if_pos ho]

theorem State.serveRemote_read {p : Xl} (h : ExportTakes (s.exportRec' a.exp) a.src a.off) (ha : a.atom = none) (hw : a.wr = false)
    (hx : xlate (s.lotTable (expVf (s.exportRec' a.exp))) (BitVec.ofNat 64 (impWord (s.exportRec' a.exp) 1 + a.off)) a.kind .near = .ok p)
    (hc : s.accessCheck (expVf (s.exportRec' a.exp)) p.pa a.size (BitVec.ofNat 64 (impWord (s.exportRec' a.exp) 1 + a.off)) = .ok ()) :
    s.serveRemote a = some (s.fill p.pa) := by
  unfold State.serveRemote
  dsimp only
  rw [if_neg (fun hn => (not_exportTakes_iff _ _ _).mpr hn h), hx]
  dsimp only
  rw [if_neg (by simp [ha]), if_neg (by simp [hw]), hc]

theorem State.serveRemote_atom {p : Xl} (h : ExportTakes (s.exportRec' a.exp) a.src a.off) (ha : a.atom.isSome = true)
    (hx : xlate (s.lotTable (expVf (s.exportRec' a.exp))) (BitVec.ofNat 64 (impWord (s.exportRec' a.exp) 1 + a.off)) a.kind .near = .ok p)
    (hc : s.accessCheck (expVf (s.exportRec' a.exp)) p.pa a.size (BitVec.ofNat 64 (impWord (s.exportRec' a.exp) 1 + a.off)) = .ok ()) :
    s.serveRemote a = some ((s.fill p.pa).arrivedAtom a p.pa) := by
  unfold State.serveRemote
  dsimp only
  rw [if_neg (fun hn => (not_exportTakes_iff _ _ _).mpr hn h), hx]
  dsimp only
  rw [if_pos ha, hc]

end

theorem State.memNat_writeNat (σ : State) (pa n v : Nat) : (σ.writeNat pa n v).memNat pa n = v % 256 ^ n := by
  induction n generalizing pa v σ with
  | zero => simp [State.memNat, Nat.mod_one]
  | succ n ih =>
    have hstep (τ : State) (q m : Nat) : τ.memNat q (m + 1) = (τ.memByte q).toNat + 256 * τ.memNat (q + 1) m := by
      unfold State.memNat
      rw [List.range_succ_eq_map, List.foldr_cons, List.foldr_map]
      simp only [Nat.add_zero, Nat.succ_eq_add_one, Nat.add_assoc, Nat.add_comm 1]
    have h0 : (σ.writeNat pa (n + 1) v).memByte pa = BitVec.ofNat 8 v := by simpa using σ.writeNat_memByte pa (n + 1) v 0 (by omega)
    have hrest : (σ.writeNat pa (n + 1) v).memNat (pa + 1) n = (σ.writeNat (pa + 1) n (v / 256)).memNat (pa + 1) n := by
      unfold State.memNat
      refine List.foldr_ext _ _ _ fun i hi x => ?_
      have hi := List.mem_range.mp hi
      rw [State.writeNat_memByte _ _ _ _ _ hi, show pa + 1 + i = pa + (i + 1) by omega, State.writeNat_memByte _ _ _ _ _ (by omega), Nat.pow_succ',
        Nat.div_div_eq_div_mul]
    rw [hstep, hrest, ih, h0, BitVec.toNat_ofNat, show 256 ^ (n + 1) = 256 * 256 ^ n from Nat.pow_succ', Nat.mod_mul (a := 256)]

theorem State.writeNat_sameMemory {σ τ : State} (h : SameMemory σ τ) (pa n v : Nat) : SameMemory (σ.writeNat pa n v) (τ.writeNat pa n v) := fun a => by
  by_cases ha : a < pa ∨ pa + n ≤ a
  · rw [State.writeNat_memByte_ne _ _ _ _ _ ha, State.writeNat_memByte_ne _ _ _ _ _ ha, h a]
  · obtain ⟨i, rfl⟩ : ∃ i, a = pa + i := ⟨a - pa, by omega⟩
    rw [State.writeNat_memByte _ _ _ _ _ (by omega), State.writeNat_memByte _ _ _ _ _ (by omega)]

/-- A far atomic at its home writes its word, and no other byte. -/
theorem State.arrivedAtom_spec (σ : State) (a : Arrival) (pa op : Nat) (c : Option Word) (ha : a.atom = some (op, c)) :
    (∀ b, (b < pa ∨ pa + a.size ≤ b) → (σ.arrivedAtom a pa).memByte b = σ.memByte b)
    ∧ (c = none → (σ.arrivedAtom a pa).memNat pa a.size = atomicVal op (8 * a.size) (σ.memNat pa a.size) (a.v.toNat % 256 ^ a.size) % 256 ^ a.size)
    ∧ ∀ y : Word, c = some y → (σ.arrivedAtom a pa).memNat pa a.size =
        if y.toNat % 256 ^ a.size = σ.memNat pa a.size then a.v.toNat % 256 ^ a.size else σ.memNat pa a.size := by
  unfold State.arrivedAtom
  rw [ha]
  cases c with
  | none => exact ⟨fun b hb => State.writeNat_memByte_ne _ _ _ _ _ hb, fun _ => State.memNat_writeNat .., fun y hy => nomatch hy⟩
  | some y =>
    dsimp only
    refine ⟨fun b hb => ?_, (nomatch ·), fun z hz => ?_⟩
    · split
      · exact State.writeNat_memByte_ne _ _ _ _ _ hb
      · rfl
    · obtain rfl := Option.some.inj hz
      split
      · rw [State.memNat_writeNat, Nat.mod_mod]
      · rfl

/-! ### Messages (R394) -/

section
variable {s : State} {src ex : Nat} {msg : List Byte} (hup : s.packageUp src = true) (hv : expValid (s.exportRec' ex) = true) (hk : expKind (s.exportRec' ex) = 1)
    (hsrc : expSrc (s.exportRec' ex) = 0xFFFF ∨ expSrc (s.exportRec' ex) = src) (hm : expMoved (s.exportRec' ex) = false) (hw : ∀ p ∈ s.crwWaiting, p.1 ≠ ex)
include hup hv hk hsrc hm hw

theorem exec_crwArrival_eq : exec (.crwArrival src ex msg) s = .next (match s.crwPlace ex msg with
    | some p => p.2
    | none => { s.tickFresh with crwWaiting := s.crwWaiting ++ [(ex, msg, s.crwDeadline)] }) := by
  show execCrwArrival src ex msg s = _
  unfold execCrwArrival
  dsimp only
  rw [if_neg (by simp only [hup, hv, hk, hm]; simp; omega), if_neg fun ha => ?_]
  · cases s.crwPlace ex msg <;> rfl
  · obtain ⟨p, hp, he⟩ := List.any_eq_true.mp ha
    exact hw p hp (by simpa using he)

theorem exec_crwArrival_slot {k : Nat} (hs : s.crwSlot (s.exportRec' ex) = some k) :
    let q := (s.ctxOf (impWord (s.exportRec' ex) 1 % 32) k).ring (impWord (s.exportRec' ex) 1 / 2 ^ 8 % 64)
    let t := s.aWrite (impWord (s.exportRec' ex) 1 % 32) k (q.slotAt q.claim.toNat) msg
    (msg.length ≤ 64 * q.ssz → q.free ≠ 0 → exec (.crwArrival src ex msg) s =
        .next (t.setCtx (impWord (s.exportRec' ex) 1 % 32) k ((t.ctxOf (impWord (s.exportRec' ex) 1 % 32) k).setRing (impWord (s.exportRec' ex) 1 / 2 ^ 8 % 64)
          ((q.doClaim 1).fillDone q.claim.toNat))))
    ∧ (64 * q.ssz < msg.length → exec (.crwArrival src ex msg) s = .next s)
    ∧ (msg.length ≤ 64 * q.ssz → q.free = 0 → exec (.crwArrival src ex msg) s = .next { s.tickFresh with crwWaiting := s.crwWaiting ++ [(ex, msg, s.crwDeadline)] }) := by
  have hcore : bits (impWord (s.exportRec' ex) 1) 4 0 = impWord (s.exportRec' ex) 1 % 32 := by simp [bits]
  have hring : bits (impWord (s.exportRec' ex) 1) 13 8 = impWord (s.exportRec' ex) 1 / 2 ^ 8 % 64 := rfl
  intro q t
  have hp : s.crwPlace ex msg = if 64 * q.ssz < msg.length then some (false, s) else if q.free = 0 then none else
      some (true, t.setCtx (impWord (s.exportRec' ex) 1 % 32) k ((t.ctxOf (impWord (s.exportRec' ex) 1 % 32) k).setRing (impWord (s.exportRec' ex) 1 / 2 ^ 8 % 64)
          ((q.doClaim 1).fillDone q.claim.toNat))) := by
    unfold State.crwPlace
    dsimp only
    rw [hs, hcore, hring]
  refine ⟨fun hl hf => ?_, fun hl => ?_, fun hl hf => ?_⟩
  · rw [exec_crwArrival_eq hup hv hk hsrc hm hw, hp, if_neg (by omega), if_neg hf]
  · rw [exec_crwArrival_eq hup hv hk hsrc hm hw, hp, if_pos hl]
  · rw [exec_crwArrival_eq hup hv hk hsrc hm hw, hp, if_neg (by omega), if_pos hf]

theorem exec_crwArrival_none (hs : s.crwSlot (s.exportRec' ex) = none) :
    exec (.crwArrival src ex msg) s = .next { s.tickFresh with crwWaiting := s.crwWaiting ++ [(ex, msg, s.crwDeadline)] } := by
  rw [exec_crwArrival_eq hup hv hk hsrc hm hw]
  unfold State.crwPlace
  dsimp only
  rw [hs]

end

/-! ### Rounds (R396) -/

theorem State.settleWin_idle {σ : State} {key : Nat} (h : (σ.winOf key).waiting = []) :
    σ.settleWin key = σ.setWin key { σ.winOf key with waiting := [] } := by
  unfold State.settleWin
  dsimp only
  rw [h]
  rfl

theorem State.settleWin_idle_winOf {σ : State} {key : Nat} (h : (σ.winOf key).waiting = []) : (σ.settleWin key).winOf key = σ.winOf key := by
  rw [State.settleWin_idle h, State.winOf_setWin_same]
  generalize σ.winOf key = w at h
  cases w
  cases h
  rfl

theorem State.sameMemory_setWin (σ : State) (k : Nat) (w : RedWin) : SameMemory σ (σ.setWin k w) := fun _ => rfl

theorem State.settleWin_idle_memory {σ : State} {key : Nat} (h : (σ.winOf key).waiting = []) : SameMemory σ (σ.settleWin key) := by
  rw [State.settleWin_idle h]
  exact σ.sameMemory_setWin _ _

section
variable {s : State} {g w cidx off : Nat} {x : BitVec 32}

theorem exec_contribution_refused (h : ¬((s.winOf (winKey g w)).live = true ∧ (s.winOf (winKey g w)).mask.testBit cidx = true
      ∧ off < impWord (s.exportRec' (s.winOf (winKey g w)).expNo) 2)) :
    exec (.reductionContribution g w cidx off x) s = .next (s.answer (winKey g w) off cidx 1 0) := by
  refine congrArg Host.Outcome.next (if_pos ?_)
  rw [not_and_or, not_and_or] at h
  simpa using h

theorem exec_contribution_eq (h : (s.winOf (winKey g w)).live = true ∧ (s.winOf (winKey g w)).mask.testBit cidx = true
      ∧ off < impWord (s.exportRec' (s.winOf (winKey g w)).expNo) 2) :
    exec (.reductionContribution g w cidx off x) s = .next ((s.joinRound (winKey g w) cidx off x).settleWin (winKey g w)) := by
  refine congrArg Host.Outcome.next (if_neg ?_)
  simpa using h

/-- The first contribution opens a round, which waits for the others. -/
theorem State.joinRound_opens {key : Nat} (hl : (s.winOf key).lost = false) (hr : Tbl.find? (s.winOf key).rounds off = none)
    (hm : ∃ i < 64, i ≠ cidx ∧ (s.winOf key).mask.testBit i = true) :
    s.joinRound key cidx off x = s.setWin key { s.winOf key with rounds := Tbl.set (s.winOf key).rounds off { opened := s.time, got := [(cidx, x)] } } := by
  unfold State.joinRound
  dsimp only
  rw [hr]
  dsimp only
  rw [if_neg (by simp [hl]), if_neg]
  obtain ⟨i, hi, hne, hb⟩ := hm
  intro hall
  have := List.all_eq_true.mp hall i (List.mem_range.mpr hi)
  simp [hb, hne] at this

/-- The contribution that completes the mask closes the round. -/
theorem State.joinRound_completes {key : Nat} {r : Round} (hr : Tbl.find? (s.winOf key).rounds off = some r) (hg : Tbl.find? r.got cidx = none)
    (hh : Tbl.find? (s.winOf key).heldMerge off = none) (hm : ∀ i < 64, (s.winOf key).mask.testBit i = true → i = cidx ∨ (Tbl.find? r.got i).isSome = true) :
    s.joinRound key cidx off x =
      (s.setWin key { s.winOf key with rounds := Tbl.set (s.winOf key).rounds off { r with got := Tbl.set r.got cidx x } }).closeRound key off 0 := by
  unfold State.joinRound
  dsimp only
  rw [hr]
  dsimp only
  rw [if_neg (by simp [hg, hh]), if_pos]
  refine List.all_eq_true.mpr fun i hi => ?_
  cases hb : (s.winOf key).mask.testBit i with
  | false => rfl
  | true =>
    rw [Tbl.find?_set]
    split
    · simp
    next hne => simpa using (hm i (List.mem_range.mp hi) hb).resolve_left hne

/-- A round whose merge is delivered: memory as the delivery leaves it, and the round is gone. -/
theorem State.closeRound_delivered {σ d : State} {key : Nat} {r : Round} (hr : Tbl.find? (σ.winOf key).rounds off = some r)
    (hd : (σ.setWin key { σ.winOf key with rounds := Tbl.del (σ.winOf key).rounds off }).deliverMerge (key / 64) (σ.winOf key) off (mergeOf (σ.winOf key).oper r.got) = .done d) :
    σ.closeRound key off 0 = r.got.foldl (fun σ p => σ.answer key off p.1 0 0) d := by
  unfold State.closeRound
  dsimp only
  rw [show Tbl.get (σ.winOf key).rounds {} off = r by rw [Tbl.get, hr]; rfl, if_neg (by simp), hd]

theorem State.answer_memory (σ : State) (key off cidx code reason : Nat) (h : code ≠ 2) : SameMemory σ (σ.answer key off cidx code reason) := by
  unfold State.answer
  split
  · exact fun _ => rfl
  · dsimp only
    rw [if_neg h]
    split <;> exact fun _ => rfl

theorem State.answers_memory (got : Tbl (BitVec 32)) (key off code reason : Nat) (h : code ≠ 2) (σ : State) :
    SameMemory σ (got.foldl (fun σ p => σ.answer key off p.1 code reason) σ) := by
  induction got generalizing σ with
  | nil => exact fun _ => rfl
  | cons p l ih => exact fun a => (ih _ a).trans (σ.answer_memory key off p.1 code reason h a)

/-- A delivery does not look at the windows. -/
theorem State.deliverMerge_setWin {s d : State} {n key m : Nat} {u v y : RedWin} (h : s.deliverMerge n u off m = .done d) (he : v.expNo = u.expNo) (ho : v.oper = u.oper) :
    ∃ d', (s.setWin key y).deliverMerge n v off m = .done d' ∧ SameMemory d d' := by
  obtain ⟨hm, hv, hg, p, hx, hc, rfl⟩ := State.deliverMerge_done h
  have hs : v.esize = u.esize := by unfold RedWin.esize; rw [ho]
  refine ⟨_, State.deliverMerge_eq (x := p) (by rw [he]; exact hm) (by rw [he]; exact hv) hg (by rw [he]; exact hx) (by rw [he, hs]; exact hc), ?_⟩
  rw [ho, hs]
  refine State.writeNat_sameMemory (fun a => ?_) p.pa u.esize _
  rw [State.memByte_fill, State.memByte_fill]
  rfl

end


/-! ### Rounds that end without their merge (R396, R397) -/

section
variable {s : State} {g w cidx off : Nat} {x : BitVec 32}

/-- What a time-out or a loss leaves of its window. -/
theorem State.failed_winOf {σ : State} {key reason : Nat} (h : reason ≠ 0) (hw : (σ.winOf key).waiting = []) :
    ((σ.closeRound key off reason).settleWin key).winOf key
      = { σ.winOf key with rounds := Tbl.del (σ.winOf key).rounds off, incomplete := satCount (σ.winOf key).incomplete } := by
  have hc := σ.closeRound_failed key off reason h
  rw [State.settleWin_idle_winOf (by rw [hc]; exact hw), hc]

theorem Tbl.find?_del_same {α : Type} (t : Tbl α) (i : Nat) : Tbl.find? (Tbl.del t i) i = none := by rw [Tbl.find?_del, if_pos rfl]

theorem exec_contribution_opens (h : (s.winOf (winKey g w)).live = true ∧ (s.winOf (winKey g w)).mask.testBit cidx = true
      ∧ off < impWord (s.exportRec' (s.winOf (winKey g w)).expNo) 2) (hw : (s.winOf (winKey g w)).waiting = []) (hl : (s.winOf (winKey g w)).lost = false)
    (hr : Tbl.find? (s.winOf (winKey g w)).rounds off = none) (hm : ∃ i < 64, i ≠ cidx ∧ (s.winOf (winKey g w)).mask.testBit i = true) :
    ∃ t, exec (.reductionContribution g w cidx off x) s = .next t ∧ SameMemory s t
      ∧ Tbl.find? (t.winOf (winKey g w)).rounds off = some { opened := s.time, got := [(cidx, x)] } := by
  refine ⟨_, exec_contribution_eq h, ?_⟩
  rw [State.joinRound_opens hl hr hm]
  generalize hy : ({ s.winOf (winKey g w) with rounds := Tbl.set (s.winOf (winKey g w)).rounds off { opened := s.time, got := [(cidx, x)] } } : RedWin) = y
  have hidle : ((s.setWin (winKey g w) y).winOf (winKey g w)).waiting = [] := by rw [State.winOf_setWin_same, ← hy]; exact hw
  refine ⟨State.settleWin_idle_memory hidle, ?_⟩
  rw [State.settleWin_idle_winOf hidle, State.winOf_setWin_same, ← hy]
  exact Tbl.find?_set_same ..

theorem exec_contribution_merges {r : Round} {d : State} (h : (s.winOf (winKey g w)).live = true ∧ (s.winOf (winKey g w)).mask.testBit cidx = true
      ∧ off < impWord (s.exportRec' (s.winOf (winKey g w)).expNo) 2) (hw : (s.winOf (winKey g w)).waiting = [])
    (hr : Tbl.find? (s.winOf (winKey g w)).rounds off = some r) (hg : Tbl.find? r.got cidx = none) (hh : Tbl.find? (s.winOf (winKey g w)).heldMerge off = none)
    (hm : ∀ i < 64, (s.winOf (winKey g w)).mask.testBit i = true → i = cidx ∨ (Tbl.find? r.got i).isSome = true)
    (hd : s.deliverMerge (winKey g w / 64) (s.winOf (winKey g w)) off (mergeOf (s.winOf (winKey g w)).oper (Tbl.set r.got cidx x)) = .done d) :
    ∃ t, exec (.reductionContribution g w cidx off x) s = .next t ∧ SameMemory d t ∧ Tbl.find? (t.winOf (winKey g w)).rounds off = none := by
  refine ⟨_, exec_contribution_eq h, ?_⟩
  rw [State.joinRound_completes hr hg hh hm]
  generalize hy : ({ s.winOf (winKey g w) with rounds := Tbl.set (s.winOf (winKey g w)).rounds off { r with got := Tbl.set r.got cidx x } } : RedWin) = y
  generalize winKey g w = key at *
  have hyw : y.waiting = [] := by rw [← hy]; exact hw
  have hye : y.expNo = (s.winOf key).expNo := by rw [← hy]
  have hyo : y.oper = (s.winOf key).oper := by rw [← hy]
  have hyr : Tbl.find? y.rounds off = some { r with got := Tbl.set r.got cidx x } := by rw [← hy]; exact Tbl.find?_set_same ..
  have hwin : (s.setWin key y).winOf key = y := State.winOf_setWin_same ..
  obtain ⟨d₁, hd₁, hs₁⟩ := State.deliverMerge_setWin (key := key) (v := y) (y := y) hd hye hyo
  obtain ⟨d₂, hd₂, hs₂⟩ := State.deliverMerge_setWin (key := key) (v := y) (y := { y with rounds := Tbl.del y.rounds off }) hd₁ rfl rfl
  have hc : (s.setWin key y).closeRound key off 0 = (Tbl.set r.got cidx x).foldl (fun σ p => σ.answer key off p.1 0 0) d₂ := by
    refine State.closeRound_delivered (r := { r with got := Tbl.set r.got cidx x }) (by rw [hwin]; exact hyr) ?_
    rw [hwin, hyo]
    exact hd₂
  have hwins : ((s.setWin key y).closeRound key off 0).winOf key = { y with rounds := Tbl.del y.rounds off } := by
    rw [hc, State.winOf_congr (State.answers_redwins (Tbl.set r.got cidx x) (fun _ => off) (fun p => p.1) key 0 0 d₂), State.winOf_congr (State.deliverMerge_redwins hd₂).1, State.winOf_setWin_same]
  have hidle : (((s.setWin key y).closeRound key off 0).winOf key).waiting = [] := by rw [hwins]; exact hyw
  refine ⟨fun a => (State.settleWin_idle_memory hidle a).trans ?_, ?_⟩
  · rw [hc]
    exact (State.answers_memory _ key off 0 0 (by decide) d₂ a).trans ((hs₂ a).trans (hs₁ a))
  · rw [State.settleWin_idle_winOf hidle, hwins]
    exact Tbl.find?_del_same ..

theorem exec_roundTimeout_open {r : Round} (hw : (s.winOf (winKey g w)).waiting = []) (hh : Tbl.find? (s.winOf (winKey g w)).heldMerge off = none)
    (hr : Tbl.find? (s.winOf (winKey g w)).rounds off = some r) :
    (r.opened + (s.winOf (winKey g w)).ticks ≤ s.time → ∃ t, exec (.roundTimeout g w off) s = .next t ∧ Tbl.find? (t.winOf (winKey g w)).rounds off = none
        ∧ (t.winOf (winKey g w)).incomplete = satCount (s.winOf (winKey g w)).incomplete)
    ∧ (s.time < r.opened + (s.winOf (winKey g w)).ticks → exec (.roundTimeout g w off) s = .next s) := by
  have hex : exec (.roundTimeout g w off) s = .next (if r.opened + (s.winOf (winKey g w)).ticks ≤ s.time then (s.closeRound (winKey g w) off 1).settleWin (winKey g w) else s) := by
    show execRoundTimeout g w off s = _
    unfold execRoundTimeout
    dsimp only
    rw [hh]
    dsimp only
    rw [hr]
  refine ⟨fun ht => ⟨_, hex.trans (by rw [if_pos ht]), ?_⟩, fun ht => hex.trans (by rw [if_neg (by omega)])⟩
  rw [State.failed_winOf (by decide) hw]
  exact ⟨Tbl.find?_del_same .., rfl⟩

theorem exec_roundTimeout_held {h : Nat × BitVec 32} (hw : (s.winOf (winKey g w)).waiting = []) (hh : Tbl.find? (s.winOf (winKey g w)).heldMerge off = some h) :
    (h.1 + (s.winOf (winKey g w)).ticks ≤ s.time → ∃ t, exec (.roundTimeout g w off) s = .next t ∧ Tbl.find? (t.winOf (winKey g w)).rounds off = none
        ∧ Tbl.find? (t.winOf (winKey g w)).heldMerge off = none ∧ (t.winOf (winKey g w)).incomplete = satCount (s.winOf (winKey g w)).incomplete)
    ∧ (s.time < h.1 + (s.winOf (winKey g w)).ticks → exec (.roundTimeout g w off) s = .next s) := by
  have hex : exec (.roundTimeout g w off) s = if s.time < h.1 + (s.winOf (winKey g w)).ticks then .next s else
      .next (((s.setWin (winKey g w) { s.winOf (winKey g w) with heldMerge := Tbl.del (s.winOf (winKey g w)).heldMerge off, moved := (s.winOf (winKey g w)).moved.filter (· ≠ off) }).closeRound
        (winKey g w) off (if (s.winOf (winKey g w)).moved.contains off then 3 else 1)).settleWin (winKey g w)) := by
    show execRoundTimeout g w off s = _
    unfold execRoundTimeout
    dsimp only
    rw [hh]
  refine ⟨fun ht => ⟨_, hex.trans (if_neg (by omega)), ?_⟩, fun ht => hex.trans (if_pos ht)⟩
  rw [State.failed_winOf (by split <;> decide) (by rw [State.winOf_setWin_same]; exact hw), State.winOf_setWin_same]
  exact ⟨Tbl.find?_del_same .., Tbl.find?_del_same .., rfl⟩

end

/-! ### The loss of a member -/

/-- Closing rounds INCOMPLETE one after the other takes them away and counts each. -/
theorem State.closeRounds_winOf (l : Tbl Round) (key reason : Nat) (h : reason ≠ 0) (σ : State) : (l.foldl (fun σ p => σ.closeRound key p.1 reason) σ).winOf key
    = { σ.winOf key with rounds := l.foldl (fun t p => Tbl.del t p.1) (σ.winOf key).rounds, incomplete := satCount^[l.length] (σ.winOf key).incomplete } := by
  induction l generalizing σ with
  | nil => rfl
  | cons p l ih =>
    rw [List.foldl_cons, ih, σ.closeRound_failed key p.1 reason h]
    rfl

theorem Tbl.foldl_del_subset {α β : Type} (l : Tbl β) (t : Tbl α) : ∀ q ∈ l.foldl (fun t p => Tbl.del t p.1) t, q ∈ t ∧ ∀ p ∈ l, q.1 ≠ p.1 := by
  induction l generalizing t with
  | nil => simp
  | cons p l ih =>
    intro q hq
    obtain ⟨h1, h2⟩ := ih _ q hq
    obtain ⟨h1, h3⟩ := List.mem_filter.mp h1
    exact ⟨h1, List.forall_mem_cons.mpr ⟨by simpa using h3, h2⟩⟩

theorem Tbl.foldl_del_self {α : Type} (t : Tbl α) : t.foldl (fun t p => Tbl.del t p.1) t = [] :=
  List.eq_nil_iff_forall_not_mem.mpr fun q hq => (Tbl.foldl_del_subset t t q hq).2 q (Tbl.foldl_del_subset t t q hq).1 rfl

/-- A contribution to a window that has lost a member opens a round that closes INCOMPLETE at once. -/
theorem State.joinRound_lost {σ : State} {key cidx off : Nat} {x : BitVec 32} (hl : (σ.winOf key).lost = true) (hr : (σ.winOf key).rounds = []) :
    σ.joinRound key cidx off x = (σ.setWin key { σ.winOf key with rounds := [(off, { opened := σ.time, got := [(cidx, x)] })] }).closeRound key off 2 := by
  unfold State.joinRound
  dsimp only
  rw [hr]
  exact if_pos hl

theorem State.joinRound_lost_winOf {σ : State} {key cidx off : Nat} {x : BitVec 32} (hl : (σ.winOf key).lost = true) (hr : (σ.winOf key).rounds = []) :
    (σ.joinRound key cidx off x).winOf key = { σ.winOf key with incomplete := satCount (σ.winOf key).incomplete } := by
  rw [State.joinRound_lost hl hr, State.closeRound_failed _ _ _ _ (by decide), State.winOf_setWin_same]
  have hd : Tbl.del [(off, ({ opened := σ.time, got := [(cidx, x)] } : Round))] off = (σ.winOf key).rounds := by
    rw [hr]
    simp [Tbl.del]
  dsimp only
  rw [hd]

theorem State.joinRounds_lost_winOf (l : List (Nat × Nat × BitVec 32)) (key : Nat) {σ : State} (hl : (σ.winOf key).lost = true) (hr : (σ.winOf key).rounds = []) :
    (l.foldl (fun (σ : State) (p : Nat × Nat × BitVec 32) => σ.joinRound key p.2.1 p.1 p.2.2) σ).winOf key = { σ.winOf key with incomplete := satCount^[l.length] (σ.winOf key).incomplete } := by
  induction l generalizing σ with
  | nil => rfl
  | cons p l ih =>
    have h := State.joinRound_lost_winOf (σ := σ) (key := key) (cidx := p.2.1) (off := p.1) (x := p.2.2) hl hr
    rw [List.foldl_cons, ih (by rw [h]; exact hl) (by rw [h]; exact hr), h]
    rfl

/-- The state in which a window that has lost a member has closed its open rounds. -/
def State.lostRounds (s : State) (key : Nat) : State :=
  (s.winOf key).rounds.foldl (fun σ p => σ.closeRound key p.1 2) (s.setWin key { s.winOf key with lost := true, heldMerge := [], moved := [] })

theorem exec_memberLost_eq {s : State} {g w cidx : Nat} (hl : (s.winOf (winKey g w)).live = true) (hb : (s.winOf (winKey g w)).mask.testBit cidx = true) :
    exec (.memberLost g w cidx) s = .next ((s.lostRounds (winKey g w)).settleWin (winKey g w)) := if_neg (by simp [hl, hb])

theorem State.lostRounds_winOf (s : State) (key : Nat) : (s.lostRounds key).winOf key =
    { s.winOf key with lost := true, heldMerge := [], moved := [], rounds := [], incomplete := satCount^[(s.winOf key).rounds.length] (s.winOf key).incomplete } := by
  unfold State.lostRounds
  rw [State.closeRounds_winOf _ _ _ (by decide), State.winOf_setWin_same, Tbl.foldl_del_self]

theorem State.settleWin_lost_winOf {σ : State} {key : Nat} (hl : (σ.winOf key).lost = true) (hr : (σ.winOf key).rounds = []) : (σ.settleWin key).winOf key =
    { σ.winOf key with waiting := [], incomplete := satCount^[(σ.winOf key).waiting.length] (σ.winOf key).incomplete } := by
  unfold State.settleWin
  dsimp only
  rw [State.joinRounds_lost_winOf _ _ (by rw [State.winOf_setWin_same]; exact hl) (by rw [State.winOf_setWin_same]; exact hr), State.winOf_setWin_same]

/-! ### The members that wait -/

/-- A contribution is answered INCOMPLETE, and nothing else goes by its number. -/
def State.AnsweredTwo (σ : State) (id : Nat) : Prop :=
  (∃ y ∈ σ.fabReqs, y.id = id ∧ y.answer = some 2) ∧ ∀ y ∈ σ.fabReqs, y.id = id → y.answer = some 2

/-- A contribution waits, and nothing else goes by its number or its place in its round. -/
def State.Awaits (σ : State) (q : FabReq) : Prop :=
  q ∈ σ.fabReqs ∧ ∀ y ∈ σ.fabReqs, y.id = q.id ∨ (y.round = q.round ∧ y.cidx = q.cidx ∧ y.answer = none) → y = q

theorem State.AnsweredTwo.congr {σ τ : State} {id : Nat} (h : σ.AnsweredTwo id) (hf : τ.fabReqs = σ.fabReqs) : τ.AnsweredTwo id := by
  unfold State.AnsweredTwo at h ⊢
  rw [hf]
  exact h

theorem State.AnsweredTwo.answer {σ : State} {id : Nat} (h : σ.AnsweredTwo id) (key off cidx code reason : Nat) : (σ.answer key off cidx code reason).AnsweredTwo id := by
  obtain ⟨⟨y, hy, hid, ha⟩, hall⟩ := h
  obtain ⟨-, ⟨-, hf⟩ | ⟨p, hp, -, -, hn, ⟨-, hf⟩ | ⟨-, hf⟩⟩⟩ := σ.answer_fabReqs key off cidx code reason
  · exact .congr ⟨⟨y, hy, hid, ha⟩, hall⟩ hf
  · have hne : p.id ≠ id := fun he => by rw [hall p hp he] at hn; exact nomatch hn
    unfold State.AnsweredTwo
    rw [hf]
    exact ⟨⟨y, List.mem_filter.mpr ⟨hy, by simpa [hid] using hne.symm⟩, hid, ha⟩, fun z hz => hall z (List.mem_filter.mp hz).1⟩
  · have hne : p.id ≠ id := fun he => by rw [hall p hp he] at hn; exact nomatch hn
    unfold State.AnsweredTwo
    rw [hf]
    refine ⟨⟨y, List.mem_map.mpr ⟨y, hy, if_neg (by omega)⟩, hid, ha⟩, fun z hz hzi => ?_⟩
    obtain ⟨v, hv, rfl⟩ := List.mem_map.mp hz
    by_cases hvp : v.id = p.id
    · rw [if_pos hvp] at hzi
      exact absurd (hvp.symm.trans hzi) hne
    · rw [if_neg hvp] at hzi ⊢
      exact hall v hv hzi

/-- An INCOMPLETE answer reaches the contribution that waits, or leaves it waiting where it is another's. -/
theorem State.Awaits.answer {σ : State} {q : FabReq} (h : σ.Awaits q) {key o : Nat} (hr : q.round = some (key, o)) (hn : q.answer = none) (hs : q.slot ≠ noSlot) (off cidx reason : Nat) :
    (σ.answer key off cidx 2 reason).AnsweredTwo q.id ∨ ¬(off = o ∧ cidx = q.cidx) ∧ (σ.answer key off cidx 2 reason).Awaits q := by
  obtain ⟨hq, hall⟩ := h
  obtain ⟨-, ⟨hnone, hf⟩ | ⟨p, hp, hpr, hpc, hpn, hcase⟩⟩ := σ.answer_fabReqs key off cidx 2 reason
  · refine .inr ⟨fun ⟨h1, h2⟩ => hnone q hq ⟨by rw [hr, h1], h2.symm, hn⟩, ?_⟩
    unfold State.Awaits
    rw [hf]
    exact ⟨hq, hall⟩
  · by_cases hpq : p = q
    · subst hpq
      obtain ⟨hslot, -⟩ | ⟨-, hf⟩ := hcase
      · exact absurd hslot hs
      · left
        unfold State.AnsweredTwo
        rw [hf]
        refine ⟨⟨{ p with answer := some 2 }, List.mem_map.mpr ⟨p, hp, if_pos rfl⟩, rfl, rfl⟩, fun z hz hzi => ?_⟩
        obtain ⟨v, hv, rfl⟩ := List.mem_map.mp hz
        by_cases hvp : v.id = p.id
        · rw [if_pos hvp]
        · rw [if_neg hvp] at hzi
          exact absurd hzi hvp
    · have hid : p.id ≠ q.id := fun he => hpq (hall p hp (.inl he))
      refine .inr ⟨fun ⟨h1, h2⟩ => hpq (hall p hp (.inr ⟨by rw [hpr, hr, h1], by rw [hpc, h2], hpn⟩)), ?_⟩
      unfold State.Awaits
      obtain ⟨-, hf⟩ | ⟨-, hf⟩ := hcase
      · rw [hf]
        exact ⟨List.mem_filter.mpr ⟨hq, by simpa using hid.symm⟩, fun y hy => hall y (List.mem_filter.mp hy).1⟩
      · rw [hf]
        refine ⟨List.mem_map.mpr ⟨q, hq, if_neg (Ne.symm hid)⟩, fun z hz hzi => ?_⟩
        obtain ⟨v, hv, rfl⟩ := List.mem_map.mp hz
        by_cases hvp : v.id = p.id
        · rw [if_pos hvp] at hzi
          exact hzi.elim (fun he => absurd (hvp.symm.trans he) hid) fun he => nomatch he.2.2
        · rw [if_neg hvp] at hzi ⊢
          exact hall v hv hzi

theorem State.AnsweredTwo.answers {id : Nat} (got : Tbl (BitVec 32)) (key off code reason : Nat) {σ : State} (h : σ.AnsweredTwo id) :
    (got.foldl (fun σ p => σ.answer key off p.1 code reason) σ).AnsweredTwo id := by
  induction got generalizing σ with
  | nil => exact h
  | cons p l ih => exact ih (h.answer key off p.1 code reason)

theorem State.Awaits.answers {q : FabReq} {key o : Nat} (hr : q.round = some (key, o)) (hn : q.answer = none) (hs : q.slot ≠ noSlot) (got : Tbl (BitVec 32)) (off reason : Nat) {σ : State}
    (h : σ.Awaits q) : (got.foldl (fun σ p => σ.answer key off p.1 2 reason) σ).AnsweredTwo q.id
      ∨ ¬(off = o ∧ (Tbl.find? got q.cidx).isSome = true) ∧ (got.foldl (fun σ p => σ.answer key off p.1 2 reason) σ).Awaits q := by
  induction got generalizing σ with
  | nil => exact .inr ⟨by simp, h⟩
  | cons p l ih =>
    obtain ⟨h1⟩ | ⟨hne, h1⟩ := h.answer hr hn hs off p.1 reason
    · exact .inl (State.AnsweredTwo.answers l key off 2 reason ‹_›)
    · refine (ih h1).imp id fun ⟨h2, h3⟩ => ⟨fun ⟨ho, hg⟩ => h2 ⟨ho, ?_⟩, h3⟩
      obtain ⟨i, v⟩ := p
      unfold Tbl.find? at hg
      rwa [if_neg fun hi => hne ⟨ho, hi⟩] at hg

theorem State.failNoticed_fabReqs (σ : State) (key off : Nat) (got : Tbl (BitVec 32)) (part reason : Nat) : (σ.failNoticed key off got part reason).fabReqs = σ.fabReqs :=
  (σ.noticed_failNoticed ..).fabReqs

theorem State.closeRound_answers (σ : State) (key off reason : Nat) (h : reason ≠ 0) : ∃ τ : State, τ.fabReqs = σ.fabReqs
    ∧ σ.closeRound key off reason = (Tbl.get (σ.winOf key).rounds {} off).got.foldl (fun σ p => σ.answer key off p.1 2 reason) τ := by
  refine ⟨State.failNoticed (σ.setWin key { σ.winOf key with rounds := Tbl.del (σ.winOf key).rounds off }) key off (Tbl.get (σ.winOf key).rounds {} off).got
    (mergeOf (σ.winOf key).oper (Tbl.get (σ.winOf key).rounds {} off).got) reason, State.failNoticed_fabReqs .., ?_⟩
  unfold State.closeRound
  dsimp only
  rw [if_pos h, State.failRound_eq]

theorem State.AnsweredTwo.closeRound {σ : State} {id : Nat} (h : σ.AnsweredTwo id) (key off : Nat) {reason : Nat} (hz : reason ≠ 0) : (σ.closeRound key off reason).AnsweredTwo id := by
  obtain ⟨τ, hf, hτ⟩ := σ.closeRound_answers key off reason hz
  rw [hτ]
  exact .answers _ key off 2 reason (h.congr hf)

/-- Closing every open round of a window answers each member that waits in one of them. -/
theorem State.Awaits.closeRounds {q : FabReq} {key o : Nat} {r : Round} (hr : q.round = some (key, o)) (hn : q.answer = none) (hs : q.slot ≠ noSlot)
    (hc : (Tbl.find? r.got q.cidx).isSome = true) (l : Tbl Round) {σ : State} (hl : (Tbl.find? l o).isSome = true)
    (h : σ.AnsweredTwo q.id ∨ σ.Awaits q ∧ Tbl.find? (σ.winOf key).rounds o = some r) : (l.foldl (fun σ p => σ.closeRound key p.1 2) σ).AnsweredTwo q.id := by
  have hkeep (l : Tbl Round) (τ : State) (h : τ.AnsweredTwo q.id) : (l.foldl (fun σ p => σ.closeRound key p.1 2) τ).AnsweredTwo q.id := by
    induction l generalizing τ with
    | nil => exact h
    | cons p l ih => exact ih _ (h.closeRound key p.1 (by decide))
  induction l generalizing σ with
  | nil => exact nomatch hl
  | cons p l ih =>
    obtain h | ⟨hq, hround⟩ := h
    · exact hkeep _ _ h
    obtain ⟨τ, hf, hτ⟩ := σ.closeRound_answers key p.1 2 (by decide)
    have hqτ : τ.Awaits q := by
      unfold State.Awaits at hq ⊢
      rw [hf]
      exact hq
    obtain h1 | ⟨hne, h1⟩ := hqτ.answers hr hn hs (Tbl.get (σ.winOf key).rounds {} p.1).got p.1 2
    · rw [← hτ] at h1
      exact hkeep l _ h1
    · rw [← hτ] at h1
      have hpo : p.1 ≠ o := fun he => hne ⟨he, by rw [he, Tbl.get, hround]; exact hc⟩
      refine ih ?_ (.inr ⟨h1, ?_⟩)
      · obtain ⟨i, v⟩ := p
        unfold Tbl.find? at hl
        rwa [if_neg hpo] at hl
      · rw [σ.closeRound_failed key p.1 2 (by decide)]
        exact (Tbl.find?_del ..).trans ((if_neg (Ne.symm hpo)).trans hround)

theorem State.AnsweredTwo.joinRounds {id key : Nat} (l : List (Nat × Nat × BitVec 32)) {σ : State} (hl : (σ.winOf key).lost = true) (hr : (σ.winOf key).rounds = [])
    (h : σ.AnsweredTwo id) : (l.foldl (fun (σ : State) (p : Nat × Nat × BitVec 32) => σ.joinRound key p.2.1 p.1 p.2.2) σ).AnsweredTwo id := by
  induction l generalizing σ with
  | nil => exact h
  | cons p l ih =>
    have hw := State.joinRound_lost_winOf (σ := σ) (key := key) (cidx := p.2.1) (off := p.1) (x := p.2.2) hl hr
    refine ih (by rw [hw]; exact hl) (by rw [hw]; exact hr) ?_
    dsimp only
    rw [State.joinRound_lost hl hr]
    exact State.AnsweredTwo.closeRound (h.congr (by rfl)) key p.1 (by decide)

theorem exec_memberLost_spec {s : State} {g w cidx : Nat} (hl : (s.winOf (winKey g w)).live = true) (hb : (s.winOf (winKey g w)).mask.testBit cidx = true) :
    ∃ t, exec (.memberLost g w cidx) s = .next t
      ∧ (t.winOf (winKey g w) = { s.winOf (winKey g w) with lost := true, heldMerge := [], moved := [], rounds := [], waiting := [], incomplete := satCount^[(s.winOf (winKey g w)).rounds.length + (s.winOf (winKey g w)).waiting.length] (s.winOf (winKey g w)).incomplete })
      ∧ ∀ q r o, q.round = some (winKey g w, o) → q.answer = none → q.slot ≠ noSlot → Tbl.find? (s.winOf (winKey g w)).rounds o = some r →
          (Tbl.find? r.got q.cidx).isSome = true → s.Awaits q → t.AnsweredTwo q.id := by
  refine ⟨_, exec_memberLost_eq hl hb, ?_, fun q r o hq hn hs hr hg ha => ?_⟩
  · rw [State.settleWin_lost_winOf (by rw [State.lostRounds_winOf]) (by rw [State.lostRounds_winOf]), State.lostRounds_winOf, Nat.add_comm, Function.iterate_add_apply]
  · have h1 : (s.lostRounds (winKey g w)).AnsweredTwo q.id :=
      State.Awaits.closeRounds hq hn hs hg _ (by rw [hr]; rfl) (.inr ⟨ha, by rw [State.winOf_setWin_same]; exact hr⟩)
    unfold State.settleWin
    dsimp only
    refine State.AnsweredTwo.joinRounds _ ?_ ?_ (h1.congr rfl)
    · rw [State.winOf_setWin_same, State.lostRounds_winOf]
    · rw [State.winOf_setWin_same, State.lostRounds_winOf]

/-! ### Time-outs, MOVED and links -/

section
variable {s : State} {id : Nat} {q : FabReq} (hq : s.fabReqs.find? (fun q => decide (q.id = id)) = some q)
include hq

theorem exec_fabricTimeout_early (h : s.time < q.deadline ∨ q.round.isSome = true) : exec (.fabricTimeout id) s = .next s := by
  show execFabricTimeout id s = _
  unfold execFabricTimeout
  rw [hq]
  exact if_pos h.symm

theorem exec_fabricTimeout_due (hr : q.round = none) (hd : q.deadline ≤ s.time) : exec (.fabricTimeout id) s =
    if q.store.isSome then .next (s.storeDone q (some causeFabTimeout)) else (match q.engine with
      | none => .next (({ s with fabReqs := s.fabReqs.filter fun x => decide (x.id ≠ id) } : State).takeTrap q.core q.slot { cause := causeFabTimeout, detail := q.va })
      | some _ => .next { s with fabReqs := s.fabReqs.map fun x => if x.id = id then { x with answer := some 3, held := false } else x }) := by
  show execFabricTimeout id s = _
  unfold execFabricTimeout
  rw [hq]
  dsimp only
  rw [if_neg (by simp [hr]; omega)] <;> rfl

theorem exec_fabricTimeout_store {k : Nat} (hr : q.round = none) (hd : q.deadline ≤ s.time) (hs : q.store = some k) : ∃ t, exec (.fabricTimeout id) s = .next t
    ∧ (∀ y ∈ t.fabReqs, y.id ≠ id)
    ∧ ((s.ctxOf q.core q.slot).task = some k → ∃ f, (t.ctxOf q.core q.slot).posted = (s.ctxOf q.core q.slot).posted ++ [f] ∧ f.cause = 16 ∧ f.detail = q.va ∧ f.src = q.slot)
    ∧ ((s.ctxOf q.core q.slot).task ≠ some k → (t.ctxOf q.core q.slot).posted = (s.ctxOf q.core q.slot).posted ∧ SameMemory s t) := by
  have hid : q.id = id := by simpa using List.find?_some hq
  refine ⟨s.storeDone q (some causeFabTimeout), ?_, ?_⟩
  · rw [exec_fabricTimeout_due hq hr hd, hs]
    rfl
  unfold State.storeDone
  dsimp only
  rw [hs]
  generalize hσ : ({ s with fabReqs := s.fabReqs.filter fun x => decide (x.id ≠ q.id) } : State) = σ
  have hfab : σ.fabReqs = s.fabReqs.filter fun x => decide (x.id ≠ q.id) := by rw [← hσ]
  have hctx (a b : Nat) : σ.ctxOf a b = s.ctxOf a b := by rw [← hσ]; rfl
  have hmem : SameMemory s σ := by rw [← hσ]; exact fun _ => rfl
  have hgone : ∀ y ∈ σ.fabReqs, y.id ≠ id := by
    rw [hfab]
    intro y hy
    have := (List.mem_filter.mp hy).2
    simpa [hid] using this
  rw [hctx]
  by_cases ht : (s.ctxOf q.core q.slot).task = some k
  · rw [if_neg (by simp [ht])]
    refine ⟨by rw [State.addPosted_fabReqs]; exact hgone, fun _ => ⟨_, (congrArg Ctx.posted (σ.addPosted_ctxOf ..)).trans (by rw [hctx]), rfl, rfl, rfl⟩, fun h => absurd ht h⟩
  · rw [if_pos ht]
    exact ⟨hgone, fun h => absurd h ht, fun _ => ⟨by rw [hctx], hmem⟩⟩

theorem exec_movedReply_found : exec (.movedReply id) s =
    .next (({ s with fabReqs := s.fabReqs.map fun y => if y.id = id then { y with held := true } else y } : State).hyperNotice 28 (impVf (s.importRec q.entry)) q.entry) := by
  show execMovedReply id s = _
  unfold execMovedReply
  rw [hq] <;> rfl

end

/-- Settles O47: what each arrival, round, loss and time-out leaves, by the equation of its step. -/
theorem fabricArrivals : Obligations.FabricArrivals := by
  unfold Obligations.FabricArrivals
  intro s src ex off size g w cidx id port op v vs x msg
  refine ⟨fun h => ⟨fun b => State.arrive_down h, fun c => State.arrive_down h, if_pos (.inl (by simp [h]))⟩, ?_, ?_, ?_, ?_, fun h => ?_, fun h => ?_⟩
  · dsimp only
    intro hup
    refine ⟨fun p hf hok hx ho => ?_, fun p hf hok hx hc => ?_, fun c p hf hok hx hc => ?_, fun c e hf hok hx hc => ?_, fun b c hf hok => ⟨?_, ?_⟩, fun b e hf hok hx hc => ?_,
      fun b hf => State.arrive_behind (a := { src := src, exp := ex, off := off, wr := b, size := size, v := v }) hup hf⟩
    · refine ⟨_, State.arrive_first hup hf (State.serveRemote_write hok rfl rfl hx ho), fun i hi => ?_, fun a ha => State.writeNat_memByte_ne _ _ _ _ _ ha⟩
      rw [State.writeNat_memByte _ _ _ _ _ hi]
      refine BitVec.eq_of_toNat_eq ?_
      rw [BitVec.toNat_ofNat, BitVec.toNat_ofNat, show 256 ^ size = 256 ^ i * 256 ^ (size - i) by rw [← Nat.pow_add]; congr 1; omega, Nat.mod_mul_right_div_self,
        Nat.mod_mod_of_dvd]
      exact dvd_pow_self 256 (by omega)
    · exact ⟨_, State.arrive_first hup hf (State.serveRemote_read hok rfl rfl hx hc), fun a => State.memByte_fill ..⟩
    · obtain ⟨h1, h2, h3⟩ := (s.fill p.pa).arrivedAtom_spec { src := src, exp := ex, off := off, wr := true, size := size, v := v, atom := some (op, c) } p.pa op c rfl
      rw [State.memNat_congr (s.memByte_fill p.pa)] at h2
      refine ⟨_, State.arrive_first hup hf (State.serveRemote_atom hok rfl hx hc), fun a ha => (h1 a ha).trans (State.memByte_fill ..), h2, fun y hy => ?_⟩
      rw [h3 y hy, State.memNat_congr (s.memByte_fill p.pa)]
    · exact State.arrive_waits hup hf (State.serveRemote_nonresident hok hx hc)
    · exact State.arrive_first hup hf (State.serveRemote_refused hok)
    · exact State.arrive_first hup hf (State.serveRemote_refused hok)
    · refine State.arrive_waits hup hf (State.serveRemote_nonresident hok ?_ hc)
      cases b <;> exact hx
  · dsimp only
    exact fun hup hv hk hsrc hm hw => ⟨fun k hs => exec_crwArrival_slot hup hv hk hsrc hm hw hs, exec_crwArrival_none hup hv hk hsrc hm hw⟩
  · dsimp only
    refine ⟨exec_contribution_refused, exec_contribution_opens, fun r d => exec_contribution_merges, fun r => exec_roundTimeout_open, fun h => exec_roundTimeout_held,
      fun h => if_pos (by simpa using h), fun hl hb => ?_⟩
    obtain ⟨t, ht, hwin, hq⟩ := exec_memberLost_spec hl hb
    refine ⟨t, ht, ?_, fun q r o hmem hr hn hs hround hg hall => (hq q r o hr hn hs hround hg ⟨hmem, hall⟩).1⟩
    show (t.winOf (winKey g w)).lost = true ∧ (t.winOf (winKey g w)).rounds = [] ∧ (t.winOf (winKey g w)).heldMerge = [] ∧ (t.winOf (winKey g w)).waiting = []
      ∧ (t.winOf (winKey g w)).incomplete = _
    rw [hwin]
    exact ⟨rfl, rfl, rfl, rfl, by rw [List.foldl_const, List.length_range]⟩
  · intro q hq
    refine ⟨fun hr hd hs he => ?_, fun k => exec_fabricTimeout_store hq, fun e hr hd hs he => ?_, exec_fabricTimeout_early hq, exec_movedReply_found hq⟩
    · rw [exec_fabricTimeout_due hq hr hd, hs, he]
      rfl
    · rw [exec_fabricTimeout_due hq hr hd, hs, he]
      rfl
  · constructor
    · show execFabricTimeout id s = _
      unfold execFabricTimeout
      rw [h]
    · show execMovedReply id s = _
      unfold execMovedReply
      rw [h]
  · show execLinkUp port vs s = _
    unfold execLinkUp
    rw [if_neg (by omega)]
    have hb (i : Nat) : bits vs.toNat (8 * i + 7) (8 * i + 4) = vs.toNat / 2 ^ (8 * i + 4) % 16 := by
      unfold bits
      rw [show 8 * i + 7 + 1 - (8 * i + 4) = 4 by omega]
      rfl
    simp only [hb]

end Sys2Proof.Machine
end

section
/-! ## O44: the loader's commands -/
namespace Sys2Proof.Machine

/-! ### What leaves the tables as they are -/

theorem sameTables_episodeRel : EpisodeRel fun σ τ => τ.tables = σ.tables where
  refl _ := rfl
  trans h k := k.trans h
  write σ l := by
    obtain ⟨_, _, _, _, h⟩ := σ.writeQuiet_shape l
    rw [h]
  plain _ _ _ _ _ _ _ := rfl
  eps _ _ _ _ _ _ := rfl
  stall _ _ _ _ := rfl

theorem State.BodyStep.tables {σ τ : State} (h : σ.BodyStep τ) : τ.tables = σ.tables := by
  obtain ⟨_, _, _, _, _, _, _, _, _, _, _, _, _, _, _, _, _, _, _, _, _, _, _, rfl⟩ := h
  rfl

/-- A lot that aborts goes into the task's context area, into a free one, or stays held in its slot. -/
theorem State.bodyStep_settleAborting (σ : State) (core slot vf t : Nat) (tk : Task) (c : Ctx) :
    σ.BodyStep (match tk.ctxId with
      | some _ => ((σ.setTask t tk).writeArea t).freeSlot core slot
      | none => match σ.freeArea vf with
        | some i => (((σ.takeArea vf i).setTask t { tk with ctxId := some i }).writeArea t).freeSlot core slot
        | none => (σ.setTask t tk).setCtx core slot c) := by
  have harea (τ : State) (h : σ.LotStep τ) : σ.BodyStep ((τ.writeArea t).freeSlot core slot) :=
    (h.body.trans (τ.bodyStep_writeArea t)).trans ((τ.writeArea t).lotStep_freeSlot core slot).body
  split
  · exact harea _ .of
  split
  · exact harea _ .of
  · exact State.LotStep.body .of

theorem State.bodyStep_abortLot (σ : State) (core slot : Nat) (page : Option (Word × Bool)) : σ.BodyStep (σ.abortLot core slot page) := by
  unfold State.abortLot
  split
  · exact .refl σ
  next t _ =>
    extract_lets area vf τ₁ τ₂ τ₃ tk tk'
    have h : σ.LotStep τ₃ :=
      (((lotStep_ite (.refl σ) (σ.lotStep_withdrawLeases t)).trans (State.lotStep_dropLot _ core slot)).trans (State.lotStep_recode _ core slot 5 (some t))).trans (State.lotStep_repool _ t)
    clear_value tk' τ₃
    exact h.body.trans (τ₃.bodyStep_settleAborting core slot vf t tk' _)

theorem State.bodyStep_abortSaved (σ : State) (t : Nat) (page : Option (Word × Bool)) : σ.BodyStep (σ.abortSaved t page) := by
  have h : σ.LotStep (((σ.withdrawLeases t).poolDel t).repool t) := ((σ.lotStep_withdrawLeases t).trans .of).trans (State.lotStep_repool _ t)
  exact (h.body.trans (State.LotStep.body .of)).trans (State.bodyStep_writeArea _ t)

theorem State.tables_foldl {β : Type} {f : State → β → State} (h : ∀ (σ : State) b, (f σ b).tables = σ.tables) (l : List β) (σ : State) : (l.foldl f σ).tables = σ.tables :=
  sameTables_episodeRel.toNoticeRel.foldl h l σ

theorem State.pageWant_tables (σ : State) (vf kind : Nat) (va : Word) (cow : Bool) : (σ.pageWant vf kind va cow).tables = σ.tables :=
  sameTables_episodeRel.toNoticeRel.pageWant σ vf kind va cow

theorem State.abortHolders_tables (σ : State) (vf : Nat) (old : Table) (named : Nat → Bool) : (σ.abortHolders vf old named).tables = σ.tables := by
  unfold State.abortHolders
  extract_lets page want slots τ
  have hτ : τ.tables = σ.tables := State.tables_foldl (fun τ x => ?slot) slots σ
  · refine (State.tables_foldl (fun τ t => ?_) _ τ).trans hτ
    dsimp only
    split
    · split
      · simp only [want, State.pageWant_tables, State.push_tables, (τ.bodyStep_abortSaved t _).tables]
      · rfl
    · rfl
  case slot =>
    dsimp only
    split
    · rfl
    split
    · split
      · simp only [want, State.pageWant_tables, State.push_tables, (τ.bodyStep_abortLot x.1 x.2 _).tables]
      · rfl
    · rfl

theorem State.install_tables (σ : State) (vf kind : Nat) (t : Table) (changed : Nat → Bool) : (σ.install vf kind t changed).tables = Tbl.set σ.tables (vf * 4 + kind) t := by
  unfold State.install
  dsimp only
  split <;> rfl

theorem State.switchAll_tables (σ : State) (vf kind : Nat) (t : Table) : (σ.switchAll vf kind t).tables = Tbl.set σ.tables (vf * 4 + kind) t := by
  unfold State.switchAll
  dsimp only
  split
  · rw [State.abortHolders_tables, State.install_tables]
  · exact σ.install_tables ..

/-- A table with one entry replaced. -/
def Table.put (t : Table) (i : Nat) (e : BitVec 32) (guest : Nat) : Table :=
  { t with valid := true, entries := Tbl.set t.entries i e, guest := Tbl.set t.guest i guest }

theorem State.switchEntry_tables (σ : State) (vf kind i : Nat) (e : BitVec 32) (guest : Nat) :
    (σ.switchEntry vf kind i e guest).tables = Tbl.set σ.tables (vf * 4 + kind) ((σ.tableOf vf kind).put i e guest) := by
  unfold State.switchEntry
  dsimp only
  split
  · rw [State.abortHolders_tables, State.install_tables]
    rfl
  · exact σ.install_tables ..

theorem State.ldDone_tables (σ : State) (v : Word) (i op : Nat) : (σ.ldDone v i op).tables = σ.tables :=
  sameTables_episodeRel.toNoticeRel.notice (σ.setReg 0 0x3010 _) _ _ _ _ _

theorem State.tableOf_congr {σ τ : State} (h : τ.tables = σ.tables) (vf kind : Nat) : τ.tableOf vf kind = σ.tableOf vf kind := by
  unfold State.tableOf
  rw [h]

theorem State.tableOf_switchAll (σ : State) (vf kind : Nat) (t : Table) : (σ.switchAll vf kind t).tableOf vf kind = t
    ∧ ∀ k, k ≠ kind → (σ.switchAll vf kind t).tableOf vf k = σ.tableOf vf k := by
  unfold State.tableOf
  rw [State.switchAll_tables]
  exact ⟨Tbl.get_set_same .., fun k hk => Tbl.get_set_ne _ _ _ (by omega)⟩

theorem State.tableOf_switchEntry (σ : State) (vf kind i : Nat) (e : BitVec 32) (guest : Nat) : (σ.switchEntry vf kind i e guest).tableOf vf kind = (σ.tableOf vf kind).put i e guest := by
  show Tbl.get (σ.switchEntry vf kind i e guest).tables {} (vf * 4 + kind) = _
  rw [State.switchEntry_tables]
  exact Tbl.get_set_same ..

theorem Table.put_entries (t : Table) (i : Nat) (e : BitVec 32) (guest : Nat) : Tbl.get (t.put i e guest).entries 0 i = e ∧ Tbl.get (t.put i e guest).guest 0 i = guest
    ∧ ∀ j, j ≠ i → Tbl.get (t.put i e guest).entries 0 j = Tbl.get t.entries 0 j :=
  ⟨Tbl.get_set_same .., Tbl.get_set_same .., fun _ hj => Tbl.get_set_ne _ _ _ hj⟩

/-! ### What a migration does besides -/

theorem State.rinkPerform_shape (σ : State) (vf : Nat) (ws : List (Nat × Byte)) : ∃ f e w g r, σ.rinkPerform vf ws = { σ with fcache := f, episodes := e, watches := w, agenda := g, rinks := r } := by
  unfold State.rinkPerform
  dsimp only
  split
  · exact ⟨_, _, _, _, _, rfl⟩
  · obtain ⟨_, _, _, _, h⟩ := State.writeList_shape
      ({ σ with rinks := σ.rinks.map fun (p : Nat × Rink) => (p.1, { p.2 with lines := p.2.lines.map fun l => l.snoop (ws.filter fun p => ownerMatches vf (σ.frameRec (frameOf p.1)).owner) }) } : State)
      (ws.filter fun p => ownerMatches vf (σ.frameRec (frameOf p.1)).owner)
    rw [h]
    exact ⟨_, _, _, _, _, rfl⟩

theorem State.rinkPerforms_shape {β : Type} (l : List β) (f : β → Nat) (g : β → List (Nat × Byte)) (σ : State) :
    ∃ fc e w ag r, l.foldl (fun σ b => σ.rinkPerform (f b) (g b)) σ = { σ with fcache := fc, episodes := e, watches := w, agenda := ag, rinks := r } := by
  induction l generalizing σ with
  | nil => exact ⟨_, _, _, _, _, rfl⟩
  | cons b l ih =>
    obtain ⟨_, _, _, _, _, h⟩ := σ.rinkPerform_shape (f b) (g b)
    obtain ⟨_, _, _, _, _, h'⟩ := ih (σ.rinkPerform (f b) (g b))
    rw [List.foldl_cons, h', h]
    exact ⟨_, _, _, _, _, rfl⟩

/-- What the Rink cores give up reaches memory; registers, tables and frames are as before. -/
theorem State.rinkDrain_kept (σ : State) (f : Nat) : (σ.rinkDrain f).bar = σ.bar ∧ (σ.rinkDrain f).tables = σ.tables ∧ (σ.rinkDrain f).frames = σ.frames := by
  unfold State.rinkDrain
  dsimp only
  split
  · exact ⟨rfl, rfl, rfl⟩
  · obtain ⟨_, _, _, _, _, h⟩ := State.rinkPerforms_shape (σ.rinks.flatMap fun (p : Nat × Rink) => p.2.lines.filter fun l => decide (l.line / 2 ^ 15 = f)) (fun l => l.ep / 4096)
      RLine.dirtyBytes ({ σ with rinks := σ.rinks.map fun (p : Nat × Rink) => (p.1, { p.2 with lines := p.2.lines.filter fun l => !decide (l.line / 2 ^ 15 = f) }) } : State)
    rw [h]
    exact ⟨rfl, rfl, rfl⟩

theorem State.rinkDrains_kept (l : List Nat) (b : Nat) (σ : State) : (l.foldl (fun (σ : State) k => σ.rinkDrain (b + k)) σ).bar = σ.bar
    ∧ (l.foldl (fun (σ : State) k => σ.rinkDrain (b + k)) σ).tables = σ.tables ∧ (l.foldl (fun (σ : State) k => σ.rinkDrain (b + k)) σ).frames = σ.frames := by
  induction l generalizing σ with
  | nil => exact ⟨rfl, rfl, rfl⟩
  | cons k l ih =>
    obtain ⟨h1, h2, h3⟩ := ih (σ.rinkDrain (b + k))
    obtain ⟨g1, g2, g3⟩ := σ.rinkDrain_kept (b + k)
    exact ⟨h1.trans g1, h2.trans g2, h3.trans g3⟩

theorem State.sealNotice_tables (σ : State) (pa : Nat) : (σ.sealNotice pa).tables = σ.tables :=
  (sameTables_episodeRel.toNoticeRel.vfNotice _ _ _ _ _ _).trans (sameTables_episodeRel.toNoticeRel.hyperNotice σ _ _ _)

theorem State.markDirty_tables (σ : State) (f : Nat) : (σ.markDirty f).tables = σ.tables := by
  unfold State.markDirty
  split <;> rfl

theorem State.sealTile_tables (σ : State) (t ver g : Nat) : (σ.sealTile t ver g).tables = σ.tables := by
  unfold State.sealTile
  dsimp only
  split <;> rfl

theorem State.flushTile_tables (σ : State) (t : Nat) : (σ.flushTile t).tables = σ.tables := by
  unfold State.flushTile
  dsimp only
  split
  · rfl
  split
  · exact State.sealNotice_tables ..
  split
  · rfl
  · exact (State.markDirty_tables ..).trans (State.sealTile_tables ..)

theorem State.copyTile_tables (σ : State) (a d ver g : Nat) : (σ.copyTile a d ver g).tables = σ.tables := by
  unfold State.copyTile
  dsimp only
  split <;> rfl

theorem State.flushFrame_tables (σ : State) (f : Nat) : (σ.flushFrame f).tables = σ.tables := State.tables_foldl (fun τ t => τ.flushTile_tables t) _ σ

theorem State.dropDirty_tables (σ : State) (lo hi : Nat) : (σ.dropDirty lo hi).tables = σ.tables := rfl

theorem State.setFrameRec_tables (σ : State) (f : Nat) (v : Frame) : (σ.setFrameRec f v).tables = σ.tables := rfl

theorem State.copyFrame_tables (σ : State) (vf a d : Nat) : (σ.copyFrame vf a d).tables = σ.tables := by
  unfold State.copyFrame
  generalize List.range 512 = l
  dsimp only
  rw [State.setFrameRec_tables, State.dropDirty_tables, State.tables_foldl (fun τ i => τ.copyTile_tables _ _ _ _), State.dropDirty_tables, State.flushFrame_tables]

/-! ### The start of a command -/

section
variable {s : State} {v : Word} {gran : Bool} {k : State → Out}

theorem ldStart_noGo (h : v.getLsbD 0 = false) : s.ldStart v gran k = .next (s.setReg 0 0x3008 (v &&& ~~~1)) := by
  unfold State.ldStart
  dsimp only
  rw [if_neg (by rw [h]; simp), if_pos (by rw [h]; rfl)]

theorem ldStart_busy (h : v.getLsbD 0 = true) (hb : ¬(s.reg 0 0x3010).getLsbD 0 = false) : s.ldStart v gran k = .next s := if_pos ⟨by simpa using hb, h⟩

theorem ldStart_vf (h : v.getLsbD 0 = true) (hi : (s.reg 0 0x3010).getLsbD 0 = false) (hv : ldVf v.toNat = 0 ∨ 64 < ldVf v.toNat) :
    s.ldStart v gran k = .next ((s.setReg 0 0x3008 (v &&& ~~~1)).setReg 0 0x3010 (BitVec.ofNat 64 (2 + 5 * 256))) := by
  unfold State.ldStart
  dsimp only
  rw [if_neg (by rw [hi]; simp), if_neg (by rw [h]; simp), if_pos hv]

variable (h : v.getLsbD 0 = true) (hi : (s.reg 0 0x3010).getLsbD 0 = false) (h1 : 1 ≤ ldVf v.toNat) (h64 : ldVf v.toNat ≤ 64) (hk : ldKind v.toNat ≠ 3)
  (hg : gran = true → ldGran v.toNat ≠ 3)
include h hi h1 h64 hk hg

theorem ldStart_waits (h0 : ldKind v.toNat = 0) (hp : s.past (ldVf v.toNat) = false) : s.ldStart v gran k =
    .next { (s.setReg 0 0x3008 (v &&& ~~~1)).setReg 0 0x3010 ((s.setReg 0 0x3008 (v &&& ~~~1)).reg 0 0x3010 ||| 1) with
      loading := some (v, (s.setReg 0 0x3008 (v &&& ~~~1)).reg 0 0x3000) } := by
  have hp' : (s.setReg 0 0x3008 (v &&& ~~~1)).past (ldVf v.toNat) = false := hp
  unfold State.ldStart
  dsimp only
  rw [if_neg (by rw [hi]; simp), if_neg (by rw [h]; simp), if_neg (by omega), if_neg (fun hn => hn.elim hk fun x => hg x.1 x.2), if_pos ⟨h0, by rw [hp']; rfl⟩]

theorem ldStart_goes (h0 : ldKind v.toNat = 0 → s.past (ldVf v.toNat) = true) : s.ldStart v gran k = k (s.setReg 0 0x3008 (v &&& ~~~1)) := by
  unfold State.ldStart
  dsimp only
  rw [if_neg (by rw [hi]; simp), if_neg (by rw [h]; simp), if_neg (by omega), if_neg (fun hn => hn.elim hk fun x => hg x.1 x.2), if_neg]
  rintro ⟨hk0, hp⟩
  rw [show (s.setReg 0 0x3008 (v &&& ~~~1)).past (ldVf v.toNat) = true from h0 hk0] at hp
  exact absurd hp (by simp)

end

theorem State.reg_started (s : State) (v : Word) (off : Nat) (h : off ≠ 0x3008) : (s.setReg 0 0x3008 v).reg 0 off = s.reg 0 off := s.reg_setReg_pf _ _ _ h.symm

/-! ### The commands -/

/-- What TABLE_LOAD does once it goes. -/
def tableLoadRun (value : Word) (σ : State) : Out :=
  let v := value.toNat
  let vf := ldVf v
  let src := (σ.reg 0 0x3000).toNat
  let assisted := σ.hostMode vf 0
  if src % 4096 ≠ 0 then .next (σ.ldRefused value 0 { reason := 6 })
  else
    match σ.imagePages vf assisted src (List.range 32) with
    | .error (p, a, ls) => .next ((σ.sealNotices ls).ldRefused value (1024 * p) { reason := 6, guest := a })
    | .ok pages =>
      let image := (pages.zipIdx).flatMap fun x => (List.range 1024).map fun j => (x.2 * 1024 + j, σ.memNat (x.1 + 4 * j) 4)
      let σ := pages.foldl (fun σ pa => σ.fill pa) σ
      match σ.resolveImage vf (ldGran v) assisted image with
      | .error (i, x) => .next (σ.ldRefused value i x)
      | .ok l =>
        let t : Table := { valid := true, gran := ldGran v, entries := l.map fun x => (x.1, x.2.1), guest := l.map fun x => (x.1, x.2.2) }
        .next ((σ.switchAll vf (ldKind v) t).ldDone value 0 0)

/-- What TABLE_ENTRY does once it goes. -/
def tableEntryRun (value : Word) (σ : State) : Out :=
  let v := value.toNat
  let vf := ldVf v
  let i := ldIndex v
  let e := (σ.reg 0 0x3000).toNat % 2 ^ 32
  if !e.testBit 8 then .next ((σ.switchEntry vf (ldKind v) i (BitVec.ofNat 32 e) 0).ldDone value i 1)
  else
    match σ.resolveEntry vf (σ.tableOf vf (ldKind v)).gran (σ.hostMode vf 0) e with
    | .error x => .next (σ.ldRefused value i x)
    | .ok (e, guest) => .next ((σ.switchEntry vf (ldKind v) i e guest).ldDone value i 1)

/-- What TABLE_CLEAR does once it goes. -/
def tableClearRun (value : Word) (σ : State) : Out :=
  let vf := ldVf value.toNat
  let kind := ldKind value.toNat
  .next ((σ.switchAll vf kind { valid := true, gran := (σ.tableOf vf kind).gran }).ldDone value 0 2)

/-- The frames of an entry leave the Rink cores' caches. -/
def State.drainFrames (σ : State) (n : Nat) (e : BitVec 32) : State := (List.range n).foldl (fun (σ : State) k => σ.rinkDrain (entFrame e + k)) σ

/-- What TABLE_MIGRATE does once it goes. -/
def tableMigrateRun (value : Word) (σ : State) : Out :=
  let v := value.toNat
  let vf := ldVf v
  let i := ldIndex v
  let t := σ.tableOf vf (ldKind v)
  let e := Tbl.get t.entries 0 i
  let n := granFrames t.gran
  let dst := (σ.reg 0 0x3000).toNat % 2 ^ 20
  let σ := if entV e then σ.drainFrames n e else σ
  if σ.hostMode vf 1 then .next (σ.ldRefused value 0 { reason := 7 })
  else if !entV e ∨ entClass e = 2 then .next (σ.ldRefused value i { reason := 5 })
  else if dst % n ≠ 0 then .next (σ.ldRefused value i { reason := 2 })
  else if (List.range n).any fun k => decide ((σ.frameRec (dst + k)).owner ≠ vf) || σ.destWorn (entFrame e + k) (dst + k) then
    .next (σ.ldRefused value i { reason := 4 })
  else
    let guest := Tbl.get t.guest 0 i
    let σ := σ.switchEntry vf (ldKind v) i (e &&& ~~~0x10) guest
    let σ := (List.range n).foldl (fun σ k => σ.copyFrame vf (entFrame e + k) (dst + k)) σ
    let e' := BitVec.ofNat 32 (dst * 4096 + e.toNat % 4096) ||| 0x10
    .next ((σ.switchEntry vf (ldKind v) i e' guest).ldDone value i 3)

theorem exec_table_eq (v : Word) (s : State) : exec (.tableLoad v) s = s.ldStart v true (tableLoadRun v) ∧ exec (.tableEntry v) s = s.ldStart v false (tableEntryRun v)
    ∧ exec (.tableClear v) s = s.ldStart v false (tableClearRun v) ∧ exec (.tableMigrate v) s = s.ldStart v false (tableMigrateRun v) := ⟨rfl, rfl, rfl, rfl⟩

theorem State.entry_done (s : State) (v : Word) (i op : Nat) (e : BitVec 32) (guest : Nat) :
    let t := ((s.setReg 0 0x3008 (v &&& ~~~1)).switchEntry (ldVf v.toNat) (ldKind v.toNat) i e guest).ldDone v i op
    Tbl.get (t.tableOf (ldVf v.toNat) (ldKind v.toNat)).entries 0 i = e ∧ Tbl.get (t.tableOf (ldVf v.toNat) (ldKind v.toNat)).guest 0 i = guest
      ∧ ∀ j, j ≠ i → Tbl.get (t.tableOf (ldVf v.toNat) (ldKind v.toNat)).entries 0 j = Tbl.get (s.tableOf (ldVf v.toNat) (ldKind v.toNat)).entries 0 j := by
  intro t
  have ht : t.tableOf (ldVf v.toNat) (ldKind v.toNat) = ((s.setReg 0 0x3008 (v &&& ~~~1)).tableOf (ldVf v.toNat) (ldKind v.toNat)).put i e guest :=
    (State.tableOf_congr (State.ldDone_tables ..) _ _).trans (State.tableOf_switchEntry ..)
  rw [ht]
  exact Table.put_entries ..

theorem State.hostMode_started (s τ : State) (v : Word) (vf n : Nat) (hv : vf ≤ 64) (hb : τ.bar = (s.setReg 0 0x3008 v).bar) : τ.hostMode vf n = s.hostMode vf n := by
  unfold State.hostMode
  rw [← s.reg_started v _ (show 0x2000 + 8 * (vf - 1) ≠ 0x3008 by omega)]
  unfold State.reg
  rw [hb]

section
variable {s : State} {v : Word} (h : v.getLsbD 0 = true) (hi : (s.reg 0 0x3010).getLsbD 0 = false) (h1 : 1 ≤ ldVf v.toNat) (h64 : ldVf v.toNat ≤ 64) (hk : ldKind v.toNat ≠ 3)
  (h0 : ldKind v.toNat = 0 → s.past (ldVf v.toNat) = true)
include h hi h1 h64 hk h0

theorem exec_tableClear_spec : ∃ t, exec (.tableClear v) s = .next t ∧ t.tableOf (ldVf v.toNat) (ldKind v.toNat) = { valid := true, gran := (s.tableOf (ldVf v.toNat) (ldKind v.toNat)).gran }
    ∧ ∀ k, k < 4 → k ≠ ldKind v.toNat → t.tableOf (ldVf v.toNat) k = s.tableOf (ldVf v.toNat) k := by
  refine ⟨_, (exec_table_eq v s).2.2.1.trans (ldStart_goes h hi h1 h64 hk (by simp) h0), ?_⟩
  obtain ⟨ha, hb⟩ := (s.setReg 0 0x3008 (v &&& ~~~1)).tableOf_switchAll (ldVf v.toNat) (ldKind v.toNat)
    { valid := true, gran := ((s.setReg 0 0x3008 (v &&& ~~~1)).tableOf (ldVf v.toNat) (ldKind v.toNat)).gran }
  exact ⟨(State.tableOf_congr (State.ldDone_tables ..) _ _).trans ha, fun k _ hne => (State.tableOf_congr (State.ldDone_tables ..) _ _).trans (hb k hne)⟩

theorem exec_tableEntry_eq : exec (.tableEntry v) s =
    if !((s.reg 0 0x3000).toNat % 2 ^ 32).testBit 8 then
      .next (((s.setReg 0 0x3008 (v &&& ~~~1)).switchEntry (ldVf v.toNat) (ldKind v.toNat) (ldIndex v.toNat) (BitVec.ofNat 32 ((s.reg 0 0x3000).toNat % 2 ^ 32)) 0).ldDone v (ldIndex v.toNat) 1)
    else
      match (s.setReg 0 0x3008 (v &&& ~~~1)).resolveEntry (ldVf v.toNat) (s.tableOf (ldVf v.toNat) (ldKind v.toNat)).gran (s.hostMode (ldVf v.toNat) 0) ((s.reg 0 0x3000).toNat % 2 ^ 32) with
      | .error x => .next ((s.setReg 0 0x3008 (v &&& ~~~1)).ldRefused v (ldIndex v.toNat) x)
      | .ok (e, guest) => .next (((s.setReg 0 0x3008 (v &&& ~~~1)).switchEntry (ldVf v.toNat) (ldKind v.toNat) (ldIndex v.toNat) e guest).ldDone v (ldIndex v.toNat) 1) := by
  have hm : (s.setReg 0 0x3008 (v &&& ~~~1)).hostMode (ldVf v.toNat) 0 = s.hostMode (ldVf v.toNat) 0 := by
    unfold State.hostMode
    rw [State.reg_started _ _ _ (by omega)]
  refine (exec_table_eq v s).2.1.trans ((ldStart_goes h hi h1 h64 hk (by simp) h0).trans ?_)
  unfold tableEntryRun
  dsimp only
  rw [State.reg_started _ _ _ (by decide), hm] <;> rfl

theorem exec_tableLoad_misaligned (hg : ldGran v.toNat ≠ 3) (hs : (s.reg 0 0x3000).toNat % 4096 ≠ 0) :
    exec (.tableLoad v) s = .next ((s.setReg 0 0x3008 (v &&& ~~~1)).ldRefused v 0 { reason := 6 }) := by
  refine (exec_table_eq v s).1.trans ((ldStart_goes h hi h1 h64 hk (fun _ => hg) h0).trans ?_)
  unfold tableLoadRun
  dsimp only
  rw [State.reg_started _ _ _ (by decide)]
  exact if_pos hs

theorem exec_tableLoad_done (hg : ldGran v.toNat ≠ 3) (hs : (s.reg 0 0x3000).toNat % 4096 = 0) {pages : List Nat} {l : List (Nat × BitVec 32 × Nat)}
    (hp : (s.setReg 0 0x3008 (v &&& ~~~1)).imagePages (ldVf v.toNat) (s.hostMode (ldVf v.toNat) 0) (s.reg 0 0x3000).toNat (List.range 32) = .ok pages)
    (hl : (pages.foldl (fun σ pa => σ.fill pa) (s.setReg 0 0x3008 (v &&& ~~~1))).resolveImage (ldVf v.toNat) (ldGran v.toNat) (s.hostMode (ldVf v.toNat) 0)
      ((pages.zipIdx).flatMap fun x => (List.range 1024).map fun j => (x.2 * 1024 + j, s.memNat (x.1 + 4 * j) 4)) = .ok l) :
    ∃ t, exec (.tableLoad v) s = .next t ∧ t.tableOf (ldVf v.toNat) (ldKind v.toNat) =
      { valid := true, gran := ldGran v.toNat, entries := l.map fun x => (x.1, x.2.1), guest := l.map fun x => (x.1, x.2.2) } := by
  have hm : (s.setReg 0 0x3008 (v &&& ~~~1)).hostMode (ldVf v.toNat) 0 = s.hostMode (ldVf v.toNat) 0 := by
    unfold State.hostMode
    rw [State.reg_started _ _ _ (by omega)]
  have himg (a : Nat) : (s.setReg 0 0x3008 (v &&& ~~~1)).memNat a 4 = s.memNat a 4 := State.memNat_congr (s.memByte_setReg 0 0x3008 _) a 4
  refine ⟨?next, (exec_table_eq v s).1.trans ((ldStart_goes h hi h1 h64 hk (fun _ => hg) h0).trans ?eq), ?_⟩
  case eq =>
    unfold tableLoadRun
    dsimp only
    rw [State.reg_started _ _ _ (by decide), hm, if_neg (by omega), hp]
    dsimp only
    simp only [himg]
    rw [hl]
  exact (State.tableOf_congr (State.ldDone_tables ..) _ _).trans (State.tableOf_switchAll ..).1

theorem exec_tableMigrate_invalid (hm : s.hostMode (ldVf v.toNat) 1 = false) (he : entV (Tbl.get (s.tableOf (ldVf v.toNat) (ldKind v.toNat)).entries 0 (ldIndex v.toNat)) = false) :
    exec (.tableMigrate v) s = .next ((s.setReg 0 0x3008 (v &&& ~~~1)).ldRefused v (ldIndex v.toNat) { reason := 5 }) := by
  have he' : entV (Tbl.get ((s.setReg 0 0x3008 (v &&& ~~~1)).tableOf (ldVf v.toNat) (ldKind v.toNat)).entries 0 (ldIndex v.toNat)) = false := he
  refine (exec_table_eq v s).2.2.2.trans ((ldStart_goes h hi h1 h64 hk (by simp) h0).trans ?_)
  unfold tableMigrateRun
  dsimp only
  rw [he', if_neg (show ¬false = true by simp), if_neg (by rw [s.hostMode_started _ _ _ _ h64 rfl, hm]; simp)]
  exact if_pos (.inl rfl)

theorem exec_tableMigrate_done {e : BitVec 32} {t : Table} {dst : Nat} (ht : s.tableOf (ldVf v.toNat) (ldKind v.toNat) = t) (het : Tbl.get t.entries 0 (ldIndex v.toNat) = e)
    (hd : (s.reg 0 0x3000).toNat % 2 ^ 20 = dst) (hm : s.hostMode (ldVf v.toNat) 1 = false)
    (he : entV e = true) (hc : entClass e ≠ 2) (ha : dst % granFrames t.gran = 0)
    (hf : ∀ k < granFrames t.gran, (s.frameRec (dst + k)).owner = ldVf v.toNat ∧ ((s.setReg 0 0x3008 (v &&& ~~~1)).drainFrames (granFrames t.gran) e).destWorn (entFrame e + k) (dst + k) = false) :
    ∃ u, exec (.tableMigrate v) s = .next u ∧ Tbl.get (u.tableOf (ldVf v.toNat) (ldKind v.toNat)).entries 0 (ldIndex v.toNat) = BitVec.ofNat 32 (dst * 4096 + e.toNat % 4096) ||| 0x10
      ∧ ∀ j, j ≠ ldIndex v.toNat → Tbl.get (u.tableOf (ldVf v.toNat) (ldKind v.toNat)).entries 0 j = Tbl.get t.entries 0 j := by
  obtain ⟨hbar, htab, hfr⟩ := State.rinkDrains_kept (List.range (granFrames t.gran)) (entFrame e) (s.setReg 0 0x3008 (v &&& ~~~1))
  change ((s.setReg 0 0x3008 (v &&& ~~~1)).drainFrames (granFrames t.gran) e).bar = _ at hbar
  change ((s.setReg 0 0x3008 (v &&& ~~~1)).drainFrames (granFrames t.gran) e).tables = _ at htab
  change ((s.setReg 0 0x3008 (v &&& ~~~1)).drainFrames (granFrames t.gran) e).frames = _ at hfr
  have ht' : (s.setReg 0 0x3008 (v &&& ~~~1)).tableOf (ldVf v.toNat) (ldKind v.toNat) = t := ht
  have hany : ((List.range (granFrames t.gran)).any fun k => decide ((((s.setReg 0 0x3008 (v &&& ~~~1)).drainFrames (granFrames t.gran) e).frameRec (dst + k)).owner ≠ ldVf v.toNat)
      || ((s.setReg 0 0x3008 (v &&& ~~~1)).drainFrames (granFrames t.gran) e).destWorn (entFrame e + k) (dst + k)) = false := by
    rw [List.any_eq_false]
    intro k hkr
    obtain ⟨ho, hw⟩ := hf k (List.mem_range.mp hkr)
    have hfk : ((s.setReg 0 0x3008 (v &&& ~~~1)).drainFrames (granFrames t.gran) e).frameRec (dst + k) = s.frameRec (dst + k) := by
      unfold State.frameRec
      rw [hfr]
      rfl
    rw [hfk, ho, hw]
    simp
  refine ⟨?next, (exec_table_eq v s).2.2.2.trans ((ldStart_goes h hi h1 h64 hk (by simp) h0).trans ?eq), ?_⟩
  case eq =>
    unfold tableMigrateRun
    dsimp only
    rw [State.reg_started _ _ _ (by decide), ht', het, hd, if_pos he]
    rw [if_neg (by rw [s.hostMode_started _ _ _ _ h64 hbar, hm]; simp), if_neg (by simp [he, hc]), if_neg (by omega), if_neg (by rw [hany]; simp)]
  generalize (s.setReg 0 0x3008 (v &&& ~~~1)).drainFrames (granFrames t.gran) e = ρ at htab
  have hρ : ρ.tableOf (ldVf v.toNat) (ldKind v.toNat) = t := (State.tableOf_congr htab _ _).trans ht'
  have hcopy (τ : State) : ((List.range (granFrames t.gran)).foldl (fun σ k => σ.copyFrame (ldVf v.toNat) (entFrame e + k) (dst + k)) τ).tableOf (ldVf v.toNat) (ldKind v.toNat)
      = τ.tableOf (ldVf v.toNat) (ldKind v.toNat) := State.tableOf_congr (State.tables_foldl (fun σ k => σ.copyFrame_tables ..) _ τ) _ _
  have hu (τ : State) (e' : BitVec 32) (g op : Nat) : ((τ.switchEntry (ldVf v.toNat) (ldKind v.toNat) (ldIndex v.toNat) e' g).ldDone v (ldIndex v.toNat) op).tableOf (ldVf v.toNat) (ldKind v.toNat)
      = (τ.tableOf (ldVf v.toNat) (ldKind v.toNat)).put (ldIndex v.toNat) e' g := (State.tableOf_congr (State.ldDone_tables ..) _ _).trans (State.tableOf_switchEntry ..)
  rw [hu, hcopy, State.tableOf_switchEntry, hρ]
  obtain ⟨h1, -, h2⟩ := Table.put_entries (t.put (ldIndex v.toNat) (e &&& ~~~0x10) (Tbl.get t.guest 0 (ldIndex v.toNat))) (ldIndex v.toNat)
    (BitVec.ofNat 32 (dst * 4096 + e.toNat % 4096) ||| 0x10) (Tbl.get t.guest 0 (ldIndex v.toNat))
  exact ⟨h1, fun j hj => (h2 j hj).trans ((Table.put_entries ..).2.2 j hj)⟩

end

/-- Settles O44: the rule of a command's start, and what each switch leaves of the tables. -/
theorem tableCommands : Obligations.TableCommands := by
  unfold Obligations.TableCommands
  intro s v
  dsimp only
  obtain ⟨el, ee, ec, em⟩ := exec_table_eq v s
  refine ⟨fun h => ?_, fun h hb => ?_, ?_, fun h hi hv => ec.trans (ldStart_vf h hi hv), ?_, ?_, ?_, ?_⟩
  · exact ⟨el.trans (ldStart_noGo h), ee.trans (ldStart_noGo h), ec.trans (ldStart_noGo h), em.trans (ldStart_noGo h)⟩
  · exact ⟨el.trans (ldStart_busy h hb), ee.trans (ldStart_busy h hb), ec.trans (ldStart_busy h hb), em.trans (ldStart_busy h hb)⟩
  · rintro ⟨h, hi, h1, h64, hk⟩ h0 hp
    exact ⟨fun hg => el.trans (ldStart_waits h hi h1 h64 hk (fun _ => hg) h0 hp), ee.trans (ldStart_waits h hi h1 h64 hk (by simp) h0 hp),
      ec.trans (ldStart_waits h hi h1 h64 hk (by simp) h0 hp), em.trans (ldStart_waits h hi h1 h64 hk (by simp) h0 hp)⟩
  · rintro ⟨⟨h, hi, h1, h64, hk⟩, h0⟩
    exact exec_tableClear_spec h hi h1 h64 hk h0
  · rintro ⟨⟨h, hi, h1, h64, hk⟩, h0⟩
    have hex := exec_tableEntry_eq h hi h1 h64 hk h0
    refine ⟨fun he => ?_, fun e' gu he hr => ?_, fun x he hr => ?_⟩
    · rw [if_pos (by simp only [he]; rfl)] at hex
      obtain ⟨a, -, b⟩ := s.entry_done v (ldIndex v.toNat) 1 (BitVec.ofNat 32 ((s.reg 0 0x3000).toNat % 2 ^ 32)) 0
      exact ⟨_, hex, a, b⟩
    · rw [if_neg (by simp only [he]; decide), hr] at hex
      exact ⟨_, hex, s.entry_done v (ldIndex v.toNat) 1 e' gu⟩
    · rw [if_neg (by simp only [he]; decide), hr] at hex
      exact hex
  · rintro ⟨⟨h, hi, h1, h64, hk⟩, h0⟩ hg
    exact ⟨exec_tableLoad_misaligned h hi h1 h64 hk h0 hg, fun pages l hs hp hl => exec_tableLoad_done h hi h1 h64 hk h0 hg hs hp hl⟩
  · rintro ⟨⟨h, hi, h1, h64, hk⟩, h0⟩ hm
    exact ⟨exec_tableMigrate_invalid h hi h1 h64 hk h0 hm, fun he hc ha hf => exec_tableMigrate_done h hi h1 h64 hk h0 rfl rfl rfl hm he hc ha hf⟩

end Sys2Proof.Machine
end

section
/-! ## O45: owners and seals -/
namespace Sys2Proof.Machine

/-! ### Tiles one after the other -/

theorem State.foldl_tiles {f : State → Nat → State} {Q : Tile → Tile → Prop} (hne : ∀ (σ : State) t n, n ≠ t → (f σ t).tile n = σ.tile n)
    (hQ : ∀ (σ : State) t, Q (σ.tile t) ((f σ t).tile t)) (l : List Nat) (hl : l.Nodup) (σ : State) (n : Nat) :
    (n ∈ l → Q (σ.tile n) ((l.foldl f σ).tile n)) ∧ (n ∉ l → (l.foldl f σ).tile n = σ.tile n) := by
  induction l generalizing σ with
  | nil => simp
  | cons t l ih =>
    obtain ⟨hnot, hl⟩ := List.nodup_cons.mp hl
    obtain ⟨h1, h2⟩ := ih hl (f σ t)
    rw [List.foldl_cons]
    by_cases hn : n = t
    · subst hn
      exact ⟨fun _ => by rw [h2 hnot]; exact hQ σ n, fun h => absurd List.mem_cons_self h⟩
    · rw [hne σ t n hn] at h1 h2
      exact ⟨fun h => h1 ((List.mem_cons.mp h).resolve_left hn), fun h => h2 fun hm => h (List.mem_cons_of_mem _ hm)⟩

theorem mem_frameTiles (f n : Nat) : n ∈ frameTiles f ↔ n / 512 = f := by
  unfold frameTiles
  rw [List.mem_map]
  constructor
  · rintro ⟨i, hi, rfl⟩
    have := List.mem_range.mp hi
    omega
  · exact fun h => ⟨n % 512, List.mem_range.mpr (Nat.mod_lt _ (by decide)), by omega⟩

theorem nodup_frameTiles (f : Nat) : (frameTiles f).Nodup := List.nodup_range.map fun _ _ h => Nat.add_left_cancel h

theorem State.tile_setTile (σ : State) (t : Nat) (v : Tile) (n : Nat) : (σ.setTile t v).tile n = if n = t then v else σ.tile n := Tbl.get_set ..

/-- What sealing as zero tiles leaves besides the tiles. -/
theorem State.sealZeros_kept (l : List Nat) (ver : State → Nat → Nat) (g : Nat) (σ : State) : ∃ ts, l.foldl (fun σ t => σ.sealZero t (ver σ t) g) σ = { σ with tiles := ts } := by
  induction l generalizing σ with
  | nil => exact ⟨_, rfl⟩
  | cons t l ih =>
    obtain ⟨_, h⟩ := ih (σ.sealZero t (ver σ t) g)
    rw [List.foldl_cons, h]
    exact ⟨_, rfl⟩

/-! ### A frame of zero tiles -/

/-- The frame's tiles as zero tiles, its dirty bytes dropped. -/
def State.zeroTiles (σ : State) (f gen : Nat) : State :=
  (frameTiles f).foldl (fun σ t => σ.sealZero t ((σ.tile t).ver + 1) gen) (σ.dropDirty (f * 2 ^ 21) ((f + 1) * 2 ^ 21))

theorem State.zeroFrame_eq (σ : State) (f gen era : Nat) : σ.zeroFrame f gen era false = (σ.zeroTiles f gen).setFrameRec f { (σ.zeroTiles f gen).frameRec f with era := era, kg7 := gen / 128 } := by
  unfold State.zeroFrame State.zeroTiles
  rfl

theorem State.zeroTiles_tile (σ : State) (f gen n : Nat) : (n / 512 = f → ((σ.zeroTiles f gen).tile n).ver = (σ.tile n).ver + 1 ∧ ((σ.zeroTiles f gen).tile n).kgen = gen
    ∧ ((σ.zeroTiles f gen).tile n).z = true) ∧ (n / 512 ≠ f → (σ.zeroTiles f gen).tile n = σ.tile n) := by
  have h := State.foldl_tiles (f := fun σ t => σ.sealZero t ((σ.tile t).ver + 1) gen) (Q := fun x y => y.ver = x.ver + 1 ∧ y.kgen = gen ∧ y.z = true)
    (fun σ t n hn => (σ.tile_setTile t _ n).trans (if_neg hn)) (fun σ t => by dsimp only [State.sealZero]; rw [State.tile_setTile, if_pos rfl]; exact ⟨rfl, rfl, rfl⟩)
    (frameTiles f) (nodup_frameTiles f) (σ.dropDirty (f * 2 ^ 21) ((f + 1) * 2 ^ 21)) n
  rw [mem_frameTiles] at h
  exact h

theorem State.zeroTiles_kept (σ : State) (f gen : Nat) : ∃ ts, σ.zeroTiles f gen = { σ.dropDirty (f * 2 ^ 21) ((f + 1) * 2 ^ 21) with tiles := ts } :=
  State.sealZeros_kept (frameTiles f) (fun σ t => (σ.tile t).ver + 1) gen _

theorem State.zeroTiles_frames (σ : State) (f gen : Nat) : (σ.zeroTiles f gen).frames = σ.frames ∧ (σ.zeroTiles f gen).tables = σ.tables := by
  obtain ⟨ts, hts⟩ := σ.zeroTiles_kept f gen
  rw [hts]
  exact ⟨rfl, rfl⟩

/-- The frame reads as zeros, and no byte outside it changes. -/
theorem State.zeroTiles_memByte (σ : State) (f gen a : Nat) : (a / 2 ^ 21 = f → (σ.zeroTiles f gen).memByte a = 0) ∧ (a / 2 ^ 21 ≠ f → (σ.zeroTiles f gen).memByte a = σ.memByte a) := by
  obtain ⟨hin, hout⟩ := σ.zeroTiles_tile f gen (tileOf a)
  obtain ⟨ts, hts⟩ := σ.zeroTiles_kept f gen
  have hc : (σ.zeroTiles f gen).fcache = σ.fcache.filter fun p => !(decide (f * 2 ^ 21 ≤ p.1) && decide (p.1 < (f + 1) * 2 ^ 21)) := by rw [hts]; rfl
  have hm : (σ.zeroTiles f gen).mem = σ.mem := by rw [hts]; rfl
  have htile : tileOf a / 512 = a / 2 ^ 21 := by
    unfold tileOf
    omega
  refine ⟨fun ha => ?_, fun ha => ?_⟩
  · have hf : Tbl.find? (σ.zeroTiles f gen).fcache a = none := by
      rw [hc]
      refine Tbl.find?_filter_none _ _ _ fun v => ?_
      dsimp only
      rw [decide_eq_true (show f * 2 ^ 21 ≤ a by omega), decide_eq_true (show a < (f + 1) * 2 ^ 21 by omega)]
      rfl
    unfold State.memByte
    rw [hf]
    dsimp only
    rw [(hin (htile.trans ha)).2.2]
    split
    · rfl
    next h => exact not_not.1 fun hb => h ⟨hb, rfl⟩
  · have hf : Tbl.find? (σ.zeroTiles f gen).fcache a = Tbl.find? σ.fcache a := by
      rw [hc]
      refine Tbl.find?_filter_all _ _ _ fun v => ?_
      simp
      omega
    unfold State.memByte
    rw [hf, hm, hout (by omega)]

/-! ### OWNCMD -/

section
variable {s : State} {v : Word}

theorem State.frameRec_setFrameRec (σ : State) (f : Nat) (v : Frame) (g : Nat) : (σ.setFrameRec f v).frameRec g = if g = f then v else σ.frameRec g := by
  unfold State.frameRec State.setFrameRec
  dsimp only
  rw [Tbl.get_set]

theorem State.drawKeys_kept (σ : State) (vf : Nat) : (σ.drawKeys vf).frames = σ.frames ∧ (σ.drawKeys vf).tiles = σ.tiles ∧ (σ.drawKeys vf).fcache = σ.fcache ∧ (σ.drawKeys vf).mem = σ.mem
    ∧ (σ.drawKeys vf).tables = σ.tables := by
  unfold State.drawKeys
  split <;> exact ⟨rfl, rfl, rfl, rfl, rfl⟩

/-- A frame of device memory that takes another owner, none of its tiles worn. -/
theorem State.giveFrame_eq {σ : State} {f new : Nat} (ho : (σ.frameRec f).owner ≠ new) (hf : f < Config.hostFrame) (hw : σ.frameWraps f = false) :
    ∃ w : Frame, w.owner = new ∧ σ.giveFrame f new = ((σ.drawKeys new).zeroTiles f ((σ.drawKeys new).curGen new)).setFrameRec f w := by
  have hroom : σ.metaRoom f new = some σ := if_pos (.inl hf)
  have hset (τ : State) (a b : Frame) : (τ.setFrameRec f a).setFrameRec f b = τ.setFrameRec f b := by
    unfold State.setFrameRec
    dsimp only
    rw [Tbl.set_set]
  unfold State.giveFrame
  dsimp only
  rw [if_neg ho, hw, if_neg (by simp), hroom]
  dsimp only
  rw [if_neg (by simp), State.zeroFrame_eq, hset]
  exact ⟨_, rfl, rfl⟩

theorem State.find?_refreshGframes (σ : State) (vf g : Nat) :
    Tbl.find? (σ.refreshGframes vf).frames g = (Tbl.find? σ.frames g).map fun v => if v.owner = vf then { v with gframe := σ.gframeOf vf g } else v := by
  have h := Tbl.find?_map_pair σ.frames (fun p => if p.2.owner = vf then { p.2 with gframe := σ.gframeOf vf p.1 } else p.2) g
  rw [← h]
  refine congrArg (fun l => Tbl.find? l g) (List.map_congr_left fun p _ => ?_)
  dsimp only
  split <;> rfl

theorem State.frameRec_refreshGframes (σ : State) (vf g : Nat) : (σ.refreshGframes vf).frameRec g = { σ.frameRec g with gframe := ((σ.refreshGframes vf).frameRec g).gframe }
    ∧ ((σ.frameRec g).owner ≠ vf → (σ.refreshGframes vf).frameRec g = σ.frameRec g) := by
  unfold State.frameRec Tbl.get
  rw [State.find?_refreshGframes]
  cases Tbl.find? σ.frames g with
  | none => exact ⟨rfl, fun _ => rfl⟩
  | some x =>
    dsimp only [Option.map_some, Option.getD_some]
    by_cases hx : x.owner = vf
    · rw [if_pos hx]
      exact ⟨rfl, fun h => absurd hx h⟩
    · rw [if_neg hx]
      exact ⟨rfl, fun _ => rfl⟩

theorem State.gframe_refreshGframes (σ : State) (vf g : Nat) (h : ∃ x, Tbl.find? σ.frames g = some x ∧ x.owner = vf) : ((σ.refreshGframes vf).frameRec g).gframe = σ.gframeOf vf g := by
  obtain ⟨x, hx, ho⟩ := h
  unfold State.frameRec Tbl.get
  rw [State.find?_refreshGframes, hx]
  dsimp only [Option.map_some, Option.getD_some]
  rw [if_pos ho]

theorem State.memByte_refreshGframes (σ : State) (vf a : Nat) : (σ.refreshGframes vf).memByte a = σ.memByte a := rfl
theorem State.memByte_setFrameRec (σ : State) (f : Nat) (v : Frame) (a : Nat) : (σ.setFrameRec f v).memByte a = σ.memByte a := rfl
theorem State.tile_refreshGframes (σ : State) (vf n : Nat) : (σ.refreshGframes vf).tile n = σ.tile n := rfl
theorem State.tile_setFrameRec (σ : State) (f : Nat) (v : Frame) (n : Nat) : (σ.setFrameRec f v).tile n = σ.tile n := rfl
theorem State.setFrameRec_frames (σ : State) (f : Nat) (v : Frame) : (σ.setFrameRec f v).frames = Tbl.set σ.frames f v := rfl
theorem State.frameRec_congr {σ τ : State} (h : τ.frames = σ.frames) (f : Nat) : τ.frameRec f = σ.frameRec f := by
  unfold State.frameRec
  rw [h]

theorem State.gframeOf_congr {σ τ : State} (h : τ.tables = σ.tables) (vf f : Nat) : τ.gframeOf vf f = σ.gframeOf vf f := by
  unfold State.gframeOf
  rw [h]

/-- A frame given to a new owner, and its GFRAME after it. -/
theorem State.give_spec {σ : State} {f new : Nat} (ho : (σ.frameRec f).owner ≠ new) (hf : f < Config.hostFrame) (hw : σ.frameWraps f = false) :
    let t := (σ.giveFrame f new).refreshGframes new
    (t.frameRec f).owner = new ∧ (t.frameRec f).gframe = σ.gframeOf new f
      ∧ (∀ a, a / 2 ^ 21 = f → t.memByte a = 0) ∧ (∀ a, a / 2 ^ 21 ≠ f → t.memByte a = σ.memByte a)
      ∧ (∀ i < 512, (t.tile (f * 512 + i)).ver = (σ.tile (f * 512 + i)).ver + 1 ∧ (t.tile (f * 512 + i)).kgen = (σ.drawKeys new).curGen new ∧ (t.tile (f * 512 + i)).z = true)
      ∧ ∀ g, g ≠ f → t.frameRec g = { σ.frameRec g with gframe := (t.frameRec g).gframe } ∧ ((σ.frameRec g).owner ≠ new → t.frameRec g = σ.frameRec g) := by
  intro t
  obtain ⟨w, hw', hg⟩ := State.giveFrame_eq ho hf hw
  obtain ⟨hfr, hti, hfc, hme, hta⟩ := σ.drawKeys_kept new
  generalize hδ : σ.drawKeys new = δ at hg hfr hti hfc hme hta
  have hzf := (δ.zeroTiles_frames f (δ.curGen new)).1.trans hfr
  have hzt := (δ.zeroTiles_frames f (δ.curGen new)).2.trans hta
  have hmem (a : Nat) : t.memByte a = (δ.zeroTiles f (δ.curGen new)).memByte a := by
    rw [State.memByte_refreshGframes, hg, State.memByte_setFrameRec]
  have hδm (a : Nat) : δ.memByte a = σ.memByte a := State.memByte_congr hfc hme hti a
  have htile (n : Nat) : t.tile n = (δ.zeroTiles f (δ.curGen new)).tile n := by
    rw [State.tile_refreshGframes, hg, State.tile_setFrameRec]
  have hδt (n : Nat) : δ.tile n = σ.tile n := by
    unfold State.tile
    rw [hti]
  have hfind : Tbl.find? (σ.giveFrame f new).frames f = some w := by
    rw [hg, State.setFrameRec_frames, Tbl.find?_set_same]
  have hframe (g : Nat) (hgf : g ≠ f) : (σ.giveFrame f new).frameRec g = σ.frameRec g := by
    rw [hg, State.frameRec_setFrameRec, if_neg hgf, State.frameRec_congr hzf]
  refine ⟨?_, ?_, fun a ha => ?_, fun a ha => ?_, fun i hi => ?_, fun g hgf => ?_⟩
  · have hf' : (σ.giveFrame f new).frameRec f = w := by rw [hg, State.frameRec_setFrameRec, if_pos rfl]
    show (((σ.giveFrame f new).refreshGframes new).frameRec f).owner = new
    rw [((σ.giveFrame f new).frameRec_refreshGframes new f).1, hf']
    exact hw'
  · refine ((σ.giveFrame f new).gframe_refreshGframes new f ⟨w, hfind, hw'⟩).trans (State.gframeOf_congr ?_ new f)
    rw [hg, State.setFrameRec_tables, hzt]
  · rw [hmem]
    exact (δ.zeroTiles_memByte f _ a).1 ha
  · rw [hmem, (δ.zeroTiles_memByte f _ a).2 ha, hδm]
  · rw [htile, ← hδt]
    exact (δ.zeroTiles_tile f _ _).1 (by omega)
  · rw [← hframe g hgf]
    exact (σ.giveFrame f new).frameRec_refreshGframes new g

theorem State.curGen_drawKeys_setReg (s : State) (b off : Nat) (w : Word) (vf : Nat) : ((s.setReg b off w).drawKeys vf).curGen vf = (s.drawKeys vf).curGen vf := by
  have hk : (s.setReg b off w).kgens = s.kgens := rfl
  unfold State.drawKeys
  rw [hk]
  split <;> rfl

theorem exec_owncmd_eq : exec (.owncmd v) s =
    if bits v.toNat 62 48 ≠ 0 ∨ (!(decide (v.toNat / 2 ^ 40 % 256 ≤ 64) || decide (v.toNat / 2 ^ 40 % 256 = 0x7E) || decide (v.toNat / 2 ^ 40 % 256 = 0x7F))) = true
      ∨ (decide (v.toNat % 2 ^ 20 < Config.hostFrame) && decide (Config.hostFrame - 1024 < v.toNat % 2 ^ 20 + (v.toNat / 2 ^ 20 % 2 ^ 20 + 1))) = true
      ∨ Config.numFrames < v.toNat % 2 ^ 20 + (v.toNat / 2 ^ 20 % 2 ^ 20 + 1) then .next (s.setReg 0 0x3060 (v &&& ~~~(BitVec.ofNat 64 (2 ^ 63)))).ownRefused
    else .next (((List.range (v.toNat / 2 ^ 20 % 2 ^ 20 + 1)).foldl (fun σ i => σ.giveFrame (v.toNat % 2 ^ 20 + i) (v.toNat / 2 ^ 40 % 256))
      (s.setReg 0 0x3060 (v &&& ~~~(BitVec.ofNat 64 (2 ^ 63))))).refreshGframes (v.toNat / 2 ^ 40 % 256)) := by
  have h0 : bits v.toNat 19 0 = v.toNat % 2 ^ 20 := by simp [bits]
  show execOwncmd v s = _
  unfold execOwncmd
  dsimp only
  rw [h0]
  rfl

theorem exec_owncmd_unlisted (h : ¬(v.toNat / 2 ^ 40 % 256 ≤ 64 ∨ v.toNat / 2 ^ 40 % 256 = 0x7E ∨ v.toNat / 2 ^ 40 % 256 = 0x7F)) :
    exec (.owncmd v) s = .next (s.setReg 0 0x3060 (v &&& ~~~(BitVec.ofNat 64 (2 ^ 63)))).ownRefused := by
  rw [exec_owncmd_eq, if_pos]
  exact .inr (.inl (by simpa [and_assoc] using h))

theorem exec_owncmd_carved (hn : v.toNat / 2 ^ 20 % 2 ^ 20 = 0) (h1 : 2 ^ 18 - 1024 ≤ v.toNat % 2 ^ 20) (h2 : v.toNat % 2 ^ 20 < 2 ^ 18) :
    exec (.owncmd v) s = .next (s.setReg 0 0x3060 (v &&& ~~~(BitVec.ofNat 64 (2 ^ 63)))).ownRefused := by
  rw [exec_owncmd_eq, if_pos]
  refine .inr (.inr (.inl ?_))
  rw [hn, decide_eq_true (show v.toNat % 2 ^ 20 < Config.hostFrame from h2), decide_eq_true (show Config.hostFrame - 1024 < v.toNat % 2 ^ 20 + (0 + 1) by unfold Config.hostFrame; omega)]
  rfl

theorem exec_owncmd_one (h0 : v.toNat / 2 ^ 48 % 2 ^ 15 = 0) (hl : v.toNat / 2 ^ 40 % 256 ≤ 64 ∨ v.toNat / 2 ^ 40 % 256 = 0x7E ∨ v.toNat / 2 ^ 40 % 256 = 0x7F)
    (hn : v.toNat / 2 ^ 20 % 2 ^ 20 = 0) (hf : v.toNat % 2 ^ 20 < 2 ^ 18 - 1024) : exec (.owncmd v) s =
      .next (((s.setReg 0 0x3060 (v &&& ~~~(BitVec.ofNat 64 (2 ^ 63)))).giveFrame (v.toNat % 2 ^ 20) (v.toNat / 2 ^ 40 % 256)).refreshGframes (v.toNat / 2 ^ 40 % 256)) := by
  have hb : bits v.toNat 62 48 = 0 := h0
  rw [exec_owncmd_eq, hb, hn, if_neg]
  · rfl
  · rintro (h | h | h | h)
    · exact h rfl
    · simp only [Bool.not_eq_true', Bool.or_eq_false_iff, decide_eq_false_iff_not] at h
      omega
    · simp [Config.hostFrame] at h
      omega
    · unfold Config.numFrames at h
      omega

end

/-! ### SEALCMD -/

section
variable {s : State} {v : Word} (h1 : 1 ≤ sealVf v.toNat) (h64 : sealVf v.toNat ≤ 64)
include h1 h64

theorem sealStart_goes (k : State → Nat → Nat → State) :
    s.sealStart v k = .next (k (s.setReg 0 0x3070 (v &&& ~~~(BitVec.ofNat 64 (2 ^ 63)))) (sealVf v.toNat) (v.toNat % 2 ^ 20)) := if_neg (by omega)

omit h1 h64 in
theorem exec_seal_eq : exec (.sealRotate v) s = s.sealStart v (fun σ vf _ => σ.rotate vf) ∧ exec (.sealRetire v) s = s.sealStart v (fun σ vf _ => σ.retireGen vf)
    ∧ exec (.sealReseal v) s = s.sealStart v (fun σ vf f => if (σ.frameRec f).owner = vf then σ.reseal vf f else σ)
    ∧ exec (.sealZero v) s = s.sealStart v (fun σ vf f => if (σ.frameRec f).owner ≠ vf then σ else if σ.frameWraps f ∧ (σ.frameRec f).era = 7 then σ.hyperNotice 33 vf f
      else σ.zeroFrame f (σ.newGen vf) (if σ.frameWraps f then (σ.frameRec f).era + 1 else (σ.frameRec f).era) (σ.frameWraps f)) := ⟨rfl, rfl, rfl, rfl⟩

theorem exec_sealRotate_one {g : Nat} (h : s.liveGens (sealVf v.toNat) = [g]) : exec (.sealRotate v) s =
    .next { (s.setReg 0 0x3070 (v &&& ~~~(BitVec.ofNat 64 (2 ^ 63)))).tickFresh with kgens := Tbl.set s.kgens (sealVf v.toNat) [(g + 1) % 256, g], sealDraws := Tbl.set s.sealDraws (sealVf v.toNat * 256 + (g + 1) % 256) (s.fresh + 1) } := by
  have h' : (s.setReg 0 0x3070 (v &&& ~~~(BitVec.ofNat 64 (2 ^ 63)))).liveGens (sealVf v.toNat) = [g] := h
  refine exec_seal_eq.1.trans ((sealStart_goes h1 h64 _).trans ?_)
  unfold State.rotate
  rw [h'] <;> rfl

theorem exec_sealRotate_two {g o : Nat} (h : s.liveGens (sealVf v.toNat) = [g, o]) : exec (.sealRotate v) s = .next (s.setReg 0 0x3070 (v &&& ~~~(BitVec.ofNat 64 (2 ^ 63)))) := by
  have h' : (s.setReg 0 0x3070 (v &&& ~~~(BitVec.ofNat 64 (2 ^ 63)))).liveGens (sealVf v.toNat) = [g, o] := h
  refine exec_seal_eq.1.trans ((sealStart_goes h1 h64 _).trans ?_)
  unfold State.rotate
  rw [h']

theorem exec_sealRetire_one {g : Nat} (h : s.liveGens (sealVf v.toNat) = [g]) : exec (.sealRetire v) s = .next (s.setReg 0 0x3070 (v &&& ~~~(BitVec.ofNat 64 (2 ^ 63)))) := by
  have h' : (s.setReg 0 0x3070 (v &&& ~~~(BitVec.ofNat 64 (2 ^ 63)))).liveGens (sealVf v.toNat) = [g] := h
  refine exec_seal_eq.2.1.trans ((sealStart_goes h1 h64 _).trans ?_)
  unfold State.retireGen
  rw [h']

theorem exec_sealRetire_two {g o : Nat} (h : s.liveGens (sealVf v.toNat) = [g, o]) : exec (.sealRetire v) s =
    .next (if (s.ownedFrames (sealVf v.toNat)).any fun f => (frameTiles f).any fun t => decide ((s.tile t).kgen = o) then s.setReg 0 0x3070 (v &&& ~~~(BitVec.ofNat 64 (2 ^ 63)))
      else { s.setReg 0 0x3070 (v &&& ~~~(BitVec.ofNat 64 (2 ^ 63))) with kgens := Tbl.set s.kgens (sealVf v.toNat) [g] }) := by
  have h' : (s.setReg 0 0x3070 (v &&& ~~~(BitVec.ofNat 64 (2 ^ 63)))).liveGens (sealVf v.toNat) = [g, o] := h
  refine exec_seal_eq.2.1.trans ((sealStart_goes h1 h64 _).trans ?_)
  unfold State.retireGen
  rw [h'] <;> rfl

theorem exec_seal_foreign (ho : (s.frameRec (v.toNat % 2 ^ 20)).owner ≠ sealVf v.toNat) :
    exec (.sealReseal v) s = .next (s.setReg 0 0x3070 (v &&& ~~~(BitVec.ofNat 64 (2 ^ 63)))) ∧ exec (.sealZero v) s = .next (s.setReg 0 0x3070 (v &&& ~~~(BitVec.ofNat 64 (2 ^ 63)))) :=
  ⟨exec_seal_eq.2.2.1.trans ((sealStart_goes h1 h64 _).trans (congrArg Host.Outcome.next (if_neg ho))),
    exec_seal_eq.2.2.2.trans ((sealStart_goes h1 h64 _).trans (congrArg Host.Outcome.next (if_pos ho)))⟩

theorem exec_sealZero_own (ho : (s.frameRec (v.toNat % 2 ^ 20)).owner = sealVf v.toNat) (hw : s.frameWraps (v.toNat % 2 ^ 20) = false) :
    ∃ t, exec (.sealZero v) s = .next t ∧ (∀ a, a / 2 ^ 21 = v.toNat % 2 ^ 20 → t.memByte a = 0) ∧ (∀ a, a / 2 ^ 21 ≠ v.toNat % 2 ^ 20 → t.memByte a = s.memByte a)
      ∧ ∀ i < 512, (t.tile (v.toNat % 2 ^ 20 * 512 + i)).ver = (s.tile (v.toNat % 2 ^ 20 * 512 + i)).ver + 1 := by
  have ho' : ((s.setReg 0 0x3070 (v &&& ~~~(BitVec.ofNat 64 (2 ^ 63)))).frameRec (v.toNat % 2 ^ 20)).owner = sealVf v.toNat := ho
  have hw' : (s.setReg 0 0x3070 (v &&& ~~~(BitVec.ofNat 64 (2 ^ 63)))).frameWraps (v.toNat % 2 ^ 20) = false := hw
  have hm (a : Nat) : (s.setReg 0 0x3070 (v &&& ~~~(BitVec.ofNat 64 (2 ^ 63)))).memByte a = s.memByte a := s.memByte_setReg ..
  have ht (n : Nat) : (s.setReg 0 0x3070 (v &&& ~~~(BitVec.ofNat 64 (2 ^ 63)))).tile n = s.tile n := rfl
  refine ⟨?next, exec_seal_eq.2.2.2.trans ((sealStart_goes h1 h64 _).trans ?eq), ?_⟩
  case eq => rw [if_neg (not_not.mpr ho'), hw', if_neg (by simp), if_neg (by simp), State.zeroFrame_eq]
  generalize s.setReg 0 0x3070 (v &&& ~~~(BitVec.ofNat 64 (2 ^ 63))) = z at hm ht
  simp only [State.memByte_setFrameRec, State.tile_setFrameRec]
  refine ⟨fun a ha => (z.zeroTiles_memByte _ _ a).1 ha, fun a ha => ((z.zeroTiles_memByte _ _ a).2 ha).trans (hm a), fun i hi => ?_⟩
  rw [← ht]
  exact ((z.zeroTiles_tile _ _ _).1 (by omega)).1

omit h1 h64 in
theorem State.sealTile_tile (σ : State) (t ver g : Nat) : ((σ.sealTile t ver g).tile t).ver = ver ∧ ((σ.sealTile t ver g).tile t).kgen = g
    ∧ ∀ n, n ≠ t → (σ.sealTile t ver g).tile n = σ.tile n := by
  have hdrop (τ : State) (lo hi n : Nat) : (τ.dropDirty lo hi).tile n = τ.tile n := rfl
  unfold State.sealTile
  dsimp only
  split
  · refine ⟨?_, ?_, fun n hn => ?_⟩
    · rw [hdrop]; exact congrArg Tile.ver ((State.tile_setTile ..).trans (if_pos rfl))
    · rw [hdrop]; exact congrArg Tile.kgen ((State.tile_setTile ..).trans (if_pos rfl))
    · rw [hdrop]; exact (State.tile_setTile ..).trans (if_neg hn)
  · refine ⟨?_, ?_, fun n hn => ?_⟩
    · rw [hdrop]; exact congrArg Tile.ver ((State.tile_setTile ..).trans (if_pos rfl))
    · rw [hdrop]; exact congrArg Tile.kgen ((State.tile_setTile ..).trans (if_pos rfl))
    · rw [hdrop]; exact (State.tile_setTile ..).trans (if_neg hn)

end

theorem State.markDirty_tile (σ : State) (f n : Nat) : (σ.markDirty f).tile n = σ.tile n := by
  unfold State.markDirty
  split <;> rfl

/-- The step of a RESEAL on one tile of a frame that is not worn. -/
def State.resealTile (σ : State) (g t : Nat) : State :=
  let x := σ.tile t
  if x.bad ∨ (!false && decide (x.kgen = g)) then σ else σ.sealTile t (if false then 0 else x.ver + 1) g

theorem State.reseal_eq {σ : State} {vf f : Nat} (hw : σ.frameWraps f = false) : ∃ fr, σ.reseal vf f =
    (((frameTiles f).foldl (fun σ' t => σ'.resealTile (σ.newGen vf) t) σ).setFrameRec f fr).markDirty f := by
  have hw' : ((frameTiles f).any fun t => decide (maxVer ≤ (σ.tile t).ver)) = false := hw
  refine ⟨?fr, ?eq⟩
  case eq =>
    unfold State.reseal
    dsimp only
    rw [hw', if_neg (by simp)]
    rfl

theorem State.resealTile_tile (σ : State) (g t : Nat) : ((σ.tile t).bad = false → ((σ.resealTile g t).tile t).kgen = g ∧ ((σ.tile t).kgen ≠ g → ((σ.resealTile g t).tile t).ver = (σ.tile t).ver + 1))
    ∧ ∀ n, n ≠ t → (σ.resealTile g t).tile n = σ.tile n := by
  obtain ⟨hv, hk, hn⟩ := σ.sealTile_tile t ((σ.tile t).ver + 1) g
  unfold State.resealTile
  dsimp only
  by_cases h : (σ.tile t).bad = true ∨ (!false && decide ((σ.tile t).kgen = g)) = true
  · rw [if_pos h]
    refine ⟨fun hb => ?_, fun _ _ => rfl⟩
    have hg : (σ.tile t).kgen = g := by simpa [hb] using h
    exact ⟨hg, fun hne => absurd hg hne⟩
  · rw [if_neg h, if_neg (by simp)]
    exact ⟨fun _ => ⟨hk, fun _ => hv⟩, hn⟩

theorem exec_sealReseal_own {s : State} {v : Word} (h1 : 1 ≤ sealVf v.toNat) (h64 : sealVf v.toNat ≤ 64) (ho : (s.frameRec (v.toNat % 2 ^ 20)).owner = sealVf v.toNat)
    (hw : s.frameWraps (v.toNat % 2 ^ 20) = false) : ∃ t, exec (.sealReseal v) s = .next t
      ∧ ∀ i < 512, (s.tile (v.toNat % 2 ^ 20 * 512 + i)).bad = false → (t.tile (v.toNat % 2 ^ 20 * 512 + i)).kgen = s.newGen (sealVf v.toNat)
        ∧ ((s.tile (v.toNat % 2 ^ 20 * 512 + i)).kgen ≠ s.newGen (sealVf v.toNat) → (t.tile (v.toNat % 2 ^ 20 * 512 + i)).ver = (s.tile (v.toNat % 2 ^ 20 * 512 + i)).ver + 1) := by
  have ht (n : Nat) : (s.setReg 0 0x3070 (v &&& ~~~(BitVec.ofNat 64 (2 ^ 63)))).tile n = s.tile n := rfl
  have hg : (s.setReg 0 0x3070 (v &&& ~~~(BitVec.ofNat 64 (2 ^ 63)))).newGen (sealVf v.toNat) = s.newGen (sealVf v.toNat) := rfl
  have ho' : ((s.setReg 0 0x3070 (v &&& ~~~(BitVec.ofNat 64 (2 ^ 63)))).frameRec (v.toNat % 2 ^ 20)).owner = sealVf v.toNat := ho
  have hw' : (s.setReg 0 0x3070 (v &&& ~~~(BitVec.ofNat 64 (2 ^ 63)))).frameWraps (v.toNat % 2 ^ 20) = false := hw
  have hex := exec_seal_eq.2.2.1.trans (sealStart_goes (s := s) h1 h64 fun σ vf f => if (σ.frameRec f).owner = vf then σ.reseal vf f else σ)
  generalize s.setReg 0 0x3070 (v &&& ~~~(BitVec.ofNat 64 (2 ^ 63))) = z at *
  rw [if_pos ho'] at hex
  obtain ⟨fr, hr⟩ := State.reseal_eq (vf := sealVf v.toNat) hw'
  refine ⟨_, hex, fun i hi hb => ?_⟩
  rw [hr, State.markDirty_tile, State.tile_setFrameRec, hg]
  have h := (State.foldl_tiles (f := fun σ t => σ.resealTile (s.newGen (sealVf v.toNat)) t)
    (Q := fun x y => x.bad = false → y.kgen = s.newGen (sealVf v.toNat) ∧ (x.kgen ≠ s.newGen (sealVf v.toNat) → y.ver = x.ver + 1))
    (fun σ t n hn => (σ.resealTile_tile _ t).2 n hn) (fun σ t => (σ.resealTile_tile _ t).1) (frameTiles (v.toNat % 2 ^ 20)) (nodup_frameTiles _) z
    (v.toNat % 2 ^ 20 * 512 + i)).1 ((mem_frameTiles _ _).mpr (by omega))
  rw [ht] at h
  exact h hb

/-- Settles O45: what a frame's new owner, its zeroing and its re-sealing leave, tile by tile. -/
theorem ownersAndSeals : Obligations.OwnersAndSeals := by
  unfold Obligations.OwnersAndSeals
  intro s v
  dsimp only
  refine ⟨⟨fun h0 hl hn hf ho hw => ⟨_, exec_owncmd_one h0 hl hn hf, ?_⟩, exec_owncmd_unlisted, exec_owncmd_carved⟩, fun h1 h64 => ⟨fun g => exec_sealRotate_one h1 h64, fun g o h =>
    ⟨exec_sealRotate_two h1 h64 h, fun hall => ?_, fun k t hk ht hko => ?_⟩, fun g => exec_sealRetire_one h1 h64, exec_sealReseal_own h1 h64, exec_seal_foreign h1 h64,
    exec_sealZero_own h1 h64⟩⟩
  · obtain ⟨g1, g2, g3, g4, g5, g6⟩ := State.give_spec (σ := s.setReg 0 0x3060 (v &&& ~~~(BitVec.ofNat 64 (2 ^ 63)))) ho (by unfold Config.hostFrame; omega) hw
    refine ⟨g1, g2.trans (State.gframeOf_congr rfl _ _), g3, fun a ha => (g4 a ha).trans (s.memByte_setReg ..), fun i hi => ?_, g6⟩
    obtain ⟨k1, k2, k3⟩ := g5 i hi
    exact ⟨k1, k2.trans (s.curGen_drawKeys_setReg ..), k3⟩
  · rw [exec_sealRetire_two h1 h64 h, if_neg]
    simp only [List.any_eq_true, decide_eq_true_eq, not_exists, not_and]
    exact hall
  · rw [exec_sealRetire_two h1 h64 h, if_pos]
    exact List.any_eq_true.mpr ⟨k, hk, List.any_eq_true.mpr ⟨t, ht, decide_eq_true hko⟩⟩

end Sys2Proof.Machine
end

section
/-! ## O39: the home slice -/
namespace Sys2Proof.Machine

/-! ### Sealed memory with a tile's dirty bytes merged -/

theorem memFind_filter_key (l : List Host.Cell) (p : Nat → Bool) (a : Nat) : memFind (l.filter fun c => p c.1) a = if p a then memFind l a else 0 := by
  have hcons (k : Nat) (v : Byte) (l : List Host.Cell) : memFind ((k, v) :: l) a = if k = a then v else memFind l a := rfl
  induction l with
  | nil => simp [memFind]
  | cons c l ih =>
    obtain ⟨k, v⟩ := c
    rw [List.filter_cons, hcons]
    by_cases hk : k = a
    · subst hk
      by_cases hp : p k = true
      · rw [if_pos hp, hcons, if_pos rfl, if_pos rfl, if_pos hp]
      · rw [if_neg hp, ih, if_neg hp, if_neg hp]
    · rw [if_neg hk]
      split
      · rw [hcons, if_neg hk, ih]
      · exact ih

/-- A table of distinct keys written over memory: each key reads its value, the others what they did. -/
theorem memFind_foldl_memSet (L : Tbl Byte) (l : List Host.Cell) (h : memWf l = true) (hL : (L.map (·.1)).Nodup) (a : Nat) :
    memFind (L.foldl (fun m p => memSet m p.1 p.2) l) a = (Tbl.find? L a).getD (memFind l a) := by
  have hcons (k : Nat) (v : Byte) (l : Tbl Byte) : Tbl.find? ((k, v) :: l) a = if k = a then some v else Tbl.find? l a := rfl
  induction L generalizing l with
  | nil => rfl
  | cons p L ih =>
    obtain ⟨k, v⟩ := p
    obtain ⟨hk, hL⟩ := List.nodup_cons.mp hL
    rw [List.foldl_cons, ih _ (memWf_memSet l k v h) hL, hcons, memFind_memSet l k a v h]
    by_cases ha : k = a
    · subst ha
      rw [if_pos rfl, if_pos rfl]
      have hn : Tbl.find? L k = none := by
        cases hf : Tbl.find? L k with
        | none => rfl
        | some w => exact absurd (List.mem_map.mpr ⟨_, Tbl.mem_of_find? hf, rfl⟩) hk
      rw [hn]
      rfl
    · rw [if_neg ha, if_neg (Ne.symm ha)]

/-- What the merged memory reads as: the tile's bytes as they read, the others as sealed. -/
theorem State.memFind_merged {σ : State} (hw : memWf σ.mem = true) (hn : (σ.fcache.map (·.1)).Nodup) (t a : Nat) :
    memFind (σ.merged t) a = if a / 4096 = t then σ.memByte a else memFind σ.mem a := by
  have hsub : ((σ.fcache.filter fun p => decide (t * 4096 ≤ p.1) && decide (p.1 < t * 4096 + 4096)).map (·.1)).Nodup := hn.sublist (List.filter_sublist.map _)
  have hbw : memWf (if (σ.tile t).z then memDrop σ.mem (t * 4096) (t * 4096 + 4096) else σ.mem) = true := by
    split
    · exact memWf_memDrop _ _ _ hw
    · exact hw
  have hdrop : memFind (memDrop σ.mem (t * 4096) (t * 4096 + 4096)) a = if a / 4096 = t then 0 else memFind σ.mem a := by
    refine (memFind_filter_key σ.mem (fun k => !(decide (t * 4096 ≤ k) && decide (k < t * 4096 + 4096))) a).trans ?_
    by_cases ha : a / 4096 = t
    · rw [if_pos ha, if_neg (by simp; omega)]
    · rw [if_neg ha, if_pos (by simp; omega)]
  refine (memFind_foldl_memSet _ _ hbw hsub a).trans ?_
  by_cases ha : a / 4096 = t
  · rw [if_pos ha, Tbl.find?_filter_all _ _ _ fun v => by simp; omega]
    unfold State.memByte
    cases Tbl.find? σ.fcache a with
    | some b => rfl
    | none =>
      dsimp only [Option.getD_none]
      rw [show tileOf a = t from ha]
      by_cases hz : (σ.tile t).z = true
      · rw [if_pos hz, hdrop, if_pos ha]
        split
        · rfl
        next h => exact (not_not.1 fun hb => h ⟨hb, hz⟩).symm
      · rw [if_neg hz, if_neg (fun h => hz h.2)]
  · rw [if_neg ha, Tbl.find?_filter_none _ _ _ fun v => by simp; omega, Option.getD_none]
    split
    · rw [hdrop, if_neg ha]
    · rfl

theorem zeroIn_iff {l : List Host.Cell} (h : memWf l = true) (t : Nat) : zeroIn l t = true ↔ ∀ a, a / 4096 = t → memFind l a = 0 := by
  unfold zeroIn
  rw [List.all_eq_true]
  constructor
  · intro hall a ha
    by_contra hne
    have := hall _ (memFind_mem hne)
    simp at this
    omega
  · intro hz c hc
    induction l with
    | nil => exact nomatch hc
    | cons d l ih =>
      obtain ⟨hd, habove, hw⟩ := (memWf_cons d l).mp h
      have hcons (a : Nat) : memFind (d :: l) a = if d.1 = a then d.2 else memFind l a := rfl
      obtain rfl | hm := List.mem_cons.mp hc
      · by_contra hin
        refine hd ?_
        have := hz c.1 (by simp at hin; omega)
        rwa [hcons, if_pos rfl] at this
      · refine ih hw (fun a ha => ?_) hm
        have := hz a ha
        rw [hcons] at this
        by_cases hda : d.1 = a
        · rw [if_pos hda] at this
          exact absurd this hd
        · rwa [if_neg hda] at this

/-- A tile sealed with its dirty bytes: every byte reads as before, and none of the tile is dirty any more. -/
theorem State.sealTile_spec {σ : State} (hw : memWf σ.mem = true) (hn : (σ.fcache.map (·.1)).Nodup) (t ver g : Nat) : SameMemory σ (σ.sealTile t ver g)
    ∧ ((σ.sealTile t ver g).tile t).bad = false
    ∧ (((σ.sealTile t ver g).tile t).z = true ↔ ∀ a, t * 4096 ≤ a → a < t * 4096 + 4096 → σ.memByte a = 0)
    ∧ ∀ a, t * 4096 ≤ a → a < t * 4096 + 4096 → Tbl.find? (σ.sealTile t ver g).fcache a = none := by
  have hM := σ.memFind_merged hw hn t
  have hz := zeroIn_iff (σ.merged_wf t hw) t
  have hread : (∀ a, a / 4096 = t → memFind (σ.merged t) a = 0) ↔ ∀ a, t * 4096 ≤ a → a < t * 4096 + 4096 → σ.memByte a = 0 := by
    constructor
    · intro h a h1 h2
      have ha : a / 4096 = t := by omega
      rw [← h a ha, hM, if_pos ha]
    · intro h a ha
      rw [hM, if_pos ha]
      exact h a (by omega) (by omega)
  have hfc : (σ.sealTile t ver g).fcache = σ.fcache.filter fun p => !(decide (t * 4096 ≤ p.1) && decide (p.1 < t * 4096 + 4096)) := by
    unfold State.sealTile
    dsimp only
    split <;> rfl
  have hin (a : Nat) (ha : a / 4096 = t) : Tbl.find? (σ.sealTile t ver g).fcache a = none := by
    rw [hfc]
    exact Tbl.find?_filter_none _ _ _ fun v => by simp; omega
  have hout (a : Nat) (ha : a / 4096 ≠ t) : Tbl.find? (σ.sealTile t ver g).fcache a = Tbl.find? σ.fcache a := by
    rw [hfc]
    exact Tbl.find?_filter_all _ _ _ fun v => by simp; omega
  have htout (n : Nat) (hn : n ≠ t) := (σ.sealTile_tile t ver g).2.2 n hn
  by_cases hzero : zeroIn (σ.merged t) t = true
  · have htile : ((σ.sealTile t ver g).tile t).z = true ∧ ((σ.sealTile t ver g).tile t).bad = false := by
      unfold State.sealTile
      dsimp only
      rw [if_pos hzero]
      have ht : ((σ.sealZero t ver g).dropDirty (t * 4096) (t * 4096 + 4096)).tile t = (σ.sealZero t ver g).tile t := rfl
      rw [ht]
      unfold State.sealZero
      rw [State.tile_setTile, if_pos rfl]
      exact ⟨rfl, rfl⟩
    have hmem : (σ.sealTile t ver g).mem = σ.mem := by
      unfold State.sealTile
      dsimp only
      rw [if_pos hzero]
      rfl
    refine ⟨fun a => ?_, htile.2, ⟨fun _ => hread.mp (hz.mp hzero), fun _ => htile.1⟩, fun a h1 h2 => hin a (by omega)⟩
    by_cases ha : a / 4096 = t
    · rw [hread.mp (hz.mp hzero) a (by omega) (by omega)]
      unfold State.memByte
      rw [hin a ha]
      dsimp only
      rw [show tileOf a = t from ha, htile.1]
      split
      · rfl
      next h => exact not_not.1 fun hb => h ⟨hb, rfl⟩
    · unfold State.memByte
      rw [hout a ha, hmem, htout _ (show tileOf a ≠ t from ha)]
  · have htile : ((σ.sealTile t ver g).tile t).z = false ∧ ((σ.sealTile t ver g).tile t).bad = false := by
      unfold State.sealTile
      dsimp only
      rw [if_neg hzero]
      have ht (τ : State) (x : Tile) : ((τ.setTile t x).dropDirty (t * 4096) (t * 4096 + 4096)).tile t = (τ.setTile t x).tile t := rfl
      rw [ht, State.tile_setTile, if_pos rfl]
      exact ⟨rfl, rfl⟩
    have hmem : (σ.sealTile t ver g).mem = σ.merged t := by
      unfold State.sealTile
      dsimp only
      rw [if_neg hzero]
      rfl
    refine ⟨fun a => ?_, htile.2, ⟨fun h => ?_, fun h => absurd (hz.mpr (hread.mpr h)) hzero⟩, fun a h1 h2 => hin a (by omega)⟩
    · by_cases ha : a / 4096 = t
      · rw [State.memByte, hin a ha]
        dsimp only
        rw [show tileOf a = t from ha, htile.1, hmem, hM, if_pos ha, if_neg (by simp)]
      · unfold State.memByte
        rw [hout a ha, hmem, htout _ (show tileOf a ≠ t from ha), hM, if_neg ha]
    · rw [htile.1] at h
      exact nomatch h

/-! ### Metadata words -/

theorem State.cipherOf_setMeta (σ : State) (t w : Nat) : (σ.setMeta t w).cipherOf t = σ.cipherOf t := by
  unfold State.setMeta
  extract_lets x live gen ver z tag c
  unfold State.cipherOf
  rw [State.tile_setTile, if_pos rfl]
  dsimp only
  by_cases hc : c = σ.cipherAt t ver gen
  · rw [if_pos hc]
    exact hc.symm
  · rw [if_neg hc]
    rfl

theorem State.tagOf_setMeta (σ : State) (t w ver g : Nat) (z : Bool) : (σ.setMeta t w).tagOf t ver g z = σ.tagOf t ver g z := by
  have hc : (σ.setMeta t w).cipherAt t ver g = σ.cipherAt t ver g := rfl
  have ht : (σ.setMeta t w).cipherText t = σ.cipherText t := by
    unfold State.cipherText
    rw [State.cipherOf_setMeta]
    rfl
  unfold State.tagOf
  rw [hc, ht]

/-- A metadata word reads back as it was written. -/
theorem State.metaWord_setMeta (σ : State) (t w : Nat) (h : w < 2 ^ 128) : (σ.setMeta t w).metaWord t = w := by
  have hgen : ((((σ.liveGens (σ.frameRec (t / 512)).owner).find? fun g => decide (g % 128 = bits w 7 1)).getD (bits w 7 1))) % 128 = w / 2 % 128 := by
    cases hf : (σ.liveGens (σ.frameRec (t / 512)).owner).find? fun g => decide (g % 128 = bits w 7 1) with
    | none => exact Nat.mod_mod _ _
    | some g =>
      have h := List.find?_some hf
      exact of_decide_eq_true h
  have htile : (σ.setMeta t w).tile t = _ := (σ.tile_setTile t _ t).trans (if_pos rfl)
  unfold State.metaWord
  dsimp only
  rw [State.tagOf_setMeta, htile]
  dsimp only
  rw [hgen]
  have hv : bits w 63 8 % 2 ^ 56 = w / 256 % 2 ^ 56 := Nat.mod_mod _ _
  have hz : (if w.testBit 0 = true then 1 else 0) = w % 2 := by
    rw [Nat.testBit_zero]
    rcases Nat.mod_two_eq_zero_or_one w with h | h <;> rw [h] <;> rfl
  have htag (b : Bool) (g : BitVec 64) (hb : b = false → BitVec.ofNat 64 (w / 2 ^ 64) = g) :
      (if b = true then BitVec.ofNat 64 (w / 2 ^ 64) else g).toNat = w / 2 ^ 64 := by
    have ht : (BitVec.ofNat 64 (w / 2 ^ 64)).toNat = w / 2 ^ 64 := by
      rw [BitVec.toNat_ofNat]
      exact Nat.mod_eq_of_lt (by omega)
    cases b with
    | true => rw [if_pos rfl, ht]
    | false => rw [if_neg (by simp), ← hb rfl, ht]
  rw [htag _ _ fun hb => ?_, hv, hz]
  · omega
  · rw [Bool.not_eq_false', Bool.and_eq_true, Bool.and_eq_true] at hb
    exact of_decide_eq_true hb.1.2

theorem State.metaWord_lt (σ : State) (t : Nat) : σ.metaWord t < 2 ^ 128 := by
  unfold State.metaWord
  dsimp only
  have h1 := (if (σ.tile t).bad then (σ.tile t).tag else σ.tagOf t (σ.tile t).ver (σ.tile t).kgen (σ.tile t).z).isLt
  have h2 := Nat.mod_lt (σ.tile t).ver (show 2 ^ 56 > 0 by decide)
  have h3 := Nat.mod_lt (σ.tile t).kgen (show 128 > 0 by decide)
  have h4 : (if (σ.tile t).z = true then 1 else 0) < 2 := by split <;> decide
  omega

/-- Bytes lo to lo + n - 1 of a word replaced. -/
theorem part_of_word (w v lo n : Nat) : (w / 256 ^ (lo + n) * 256 ^ (lo + n) + (v * 256 ^ lo % 256 ^ (lo + n) / 256 ^ lo) * 256 ^ lo + w % 256 ^ lo) / 256 ^ lo % 256 ^ n = v % 256 ^ n := by
  have hp : 0 < 256 ^ lo := by positivity
  have hv : v * 256 ^ lo % 256 ^ (lo + n) / 256 ^ lo = v % 256 ^ n := by
    rw [Nat.pow_add, Nat.mul_comm v, Nat.mul_mod_mul_left, Nat.mul_div_cancel_left _ hp]
  have hsum : w / 256 ^ (lo + n) * 256 ^ (lo + n) + v % 256 ^ n * 256 ^ lo + w % 256 ^ lo = w % 256 ^ lo + (w / 256 ^ (lo + n) * 256 ^ n + v % 256 ^ n) * 256 ^ lo := by
    rw [Nat.pow_add]
    ring
  rw [hv, hsum, Nat.add_mul_div_right _ _ hp, Nat.div_eq_of_lt (Nat.mod_lt _ hp), Nat.zero_add, Nat.add_comm, Nat.add_mul_mod_self_right, Nat.mod_mod]

theorem part_of_word_lt (w v lo n : Nat) (hw : w < 2 ^ 128) (h : lo + n ≤ 16) :
    w / 256 ^ (lo + n) * 256 ^ (lo + n) + (v * 256 ^ lo % 256 ^ (lo + n) / 256 ^ lo) * 256 ^ lo + w % 256 ^ lo < 2 ^ 128 := by
  have hp : 0 < 256 ^ lo := by positivity
  have hq : 0 < 256 ^ (lo + n) := by positivity
  have h1 : (v * 256 ^ lo % 256 ^ (lo + n) / 256 ^ lo) * 256 ^ lo + w % 256 ^ lo < 256 ^ (lo + n) := by
    have hlt : v * 256 ^ lo % 256 ^ (lo + n) / 256 ^ lo < 256 ^ n := Nat.div_lt_of_lt_mul (by rw [← Nat.pow_add]; exact Nat.mod_lt _ hq)
    have hm := Nat.mod_lt w hp
    calc _ < (v * 256 ^ lo % 256 ^ (lo + n) / 256 ^ lo) * 256 ^ lo + 256 ^ lo := by omega
      _ = (v * 256 ^ lo % 256 ^ (lo + n) / 256 ^ lo + 1) * 256 ^ lo := by ring
      _ ≤ 256 ^ n * 256 ^ lo := Nat.mul_le_mul_right _ hlt
      _ = 256 ^ (lo + n) := by rw [Nat.add_comm, Nat.pow_add]
  have h2 : w / 256 ^ (lo + n) < 256 ^ (16 - (lo + n)) := by
    refine Nat.div_lt_of_lt_mul ?_
    rw [← Nat.pow_add, Nat.add_sub_cancel' h]
    exact lt_of_lt_of_eq hw (by norm_num)
  calc _ < w / 256 ^ (lo + n) * 256 ^ (lo + n) + 256 ^ (lo + n) := by omega
    _ = (w / 256 ^ (lo + n) + 1) * 256 ^ (lo + n) := by ring
    _ ≤ 256 ^ (16 - (lo + n)) * 256 ^ (lo + n) := Nat.mul_le_mul_right _ h2
    _ = 2 ^ 128 := by rw [← Nat.pow_add, Nat.sub_add_cancel h]; norm_num

/-- A write within one metadata word puts its bytes there and leaves the metadata of every other tile. -/
theorem State.metaWrite_spec (σ : State) {pa n m : Nat} (v : Nat) (hm : metaTile pa = some m) (h : pa % 16 + n ≤ 16) :
    (σ.metaWrite pa n v).metaWord m / 256 ^ (pa % 16) % 256 ^ n = v % 256 ^ n ∧ ∀ j, j ≠ m → (σ.metaWrite pa n v).tile j = σ.tile j := by
  have ht : (pa - metaBase) / 16 = m := by
    unfold metaTile at hm
    split at hm
    · exact Option.some.inj hm
    · exact nomatch hm
  unfold State.metaWrite
  dsimp only
  rw [ht]
  by_cases h0 : (pa % 16 + n + 15) / 16 = 0
  · rw [h0, show n = 0 by omega]
    exact ⟨by simp [Nat.mod_one], fun _ _ => rfl⟩
  · rw [show (pa % 16 + n + 15) / 16 = 1 by omega, List.range_one, List.foldl_cons, List.foldl_nil]
    simp only [Nat.add_zero, if_true, Nat.mul_zero, Nat.sub_zero, Nat.pow_zero, Nat.div_one, Nat.min_eq_right h]
    refine ⟨?_, fun j hj => (σ.tile_setTile m _ j).trans (if_neg hj)⟩
    rw [State.metaWord_setMeta _ _ _ (part_of_word_lt _ _ _ _ (σ.metaWord_lt m) h)]
    exact part_of_word ..

/-! ### The steps -/

section
variable {s : State} {tile : Nat}

theorem exec_writeback_clean (h : (s.fcache.filter fun p => decide (tile * 4096 ≤ p.1) && decide (p.1 < tile * 4096 + 4096)).length = 0) :
    exec (.writeback tile) s = .next (s.setTile tile { s.tile tile with present := [], owner := none }) := if_pos h

variable (hd : 0 < (s.fcache.filter fun p => decide (tile * 4096 ≤ p.1) && decide (p.1 < tile * 4096 + 4096)).length)
include hd

theorem exec_writeback_spoiled (h : (s.fcache.filter fun p => decide (tile * 4096 ≤ p.1) && decide (p.1 < tile * 4096 + 4096)).length < 4096) (hb : (s.tile tile).bad = true) :
    exec (.writeback tile) s = .next (((s.dropDirty (tile * 4096) (tile * 4096 + 4096)).evict tile).sealNotice (tile * 4096)) :=
  (if_neg (by omega)).trans (if_pos ⟨h, hb⟩)

variable (hok : 4096 ≤ (s.fcache.filter fun p => decide (tile * 4096 ≤ p.1) && decide (p.1 < tile * 4096 + 4096)).length ∨ (s.tile tile).bad = false)
include hok

theorem exec_writeback_worn (h : maxVer ≤ (s.tile tile).ver) : exec (.writeback tile) s =
    if (s.tile tile).exhausted then .next s else .next ((s.setTile tile { s.tile tile with exhausted := true }).sealExhaust tile) :=
  (if_neg (by omega)).trans ((if_neg fun hn => hok.elim (fun h => by omega) fun hb => by rw [hb] at hn; exact nomatch hn.2).trans (if_pos h))

theorem exec_writeback_dirty (h : (s.tile tile).ver < maxVer) : exec (.writeback tile) s =
    .next ((s.sealTile tile ((s.tile tile).ver + 1) (s.newGen (s.frameRec (tile / 512)).owner)).markDirty (tile / 512)) :=
  (if_neg (by omega)).trans ((if_neg fun hn => hok.elim (fun h => by omega) fun hb => by rw [hb] at hn; exact nomatch hn.2).trans (if_neg (by omega)))

end

theorem State.sealNotice_tile (σ : State) (tile : Nat) : σ.sealNotice (tile * 4096) = (σ.hyperNotice 18 (σ.frameRec (tile / 512)).owner (tile * 4096)).vfNotice (σ.frameRec (tile / 512)).owner 18 0xFF 0xFFFF
    ((σ.frameRec (tile / 512)).gframe * 2 ^ 21 + tile % 512 * 4096) := by
  have h1 : frameOf (tile * 4096) = tile / 512 := by unfold frameOf; omega
  unfold State.sealNotice
  dsimp only
  rw [h1, Nat.mul_div_cancel _ (by decide : 0 < 4096)]

section
variable {s : State} {pa size : Nat} {v : Word}

theorem exec_hostMemAccess_out (h : 8 < size ∨ min s.hdmSize (2 ^ 18) * 2 ^ 21 < pa + size) (w : Bool) : exec (.hostMemAccess w pa size v) s = .next s := if_pos h.symm

variable (h1 : pa + size ≤ min s.hdmSize (2 ^ 18) * 2 ^ 21) (h8 : size ≤ 8)
include h1 h8

theorem exec_hostMemAccess_in (w : Bool) : exec (.hostMemAccess w pa size v) s =
    match (linesOf pa size).findSome? fun l => s.lineCheck (s.frameRec (frameOf l)).owner l with
    | some c => .next (if c = causeSealFail then s.sealNotices (linesOf pa size) else s)
    | none => .next (if (metaTile pa).isSome then (if w then s.metaWrite pa size v.toNat else s) else if w then (s.fill pa).writeNat pa size v.toNat else s.fill pa) := by
  refine (if_neg ?_).trans ?_
  · unfold Config.hostFrame
    omega
  · rfl

end

/-- Settles O39: the sealing of a tile over merged memory, and the metadata word as it reads back. -/
theorem Settled.homeSlice : Obligations.HomeSlice := by
  unfold Obligations.HomeSlice
  intro s tile pa size v
  dsimp only
  refine ⟨fun hd hok hver htr hinv hnd => ?_, exec_writeback_clean, fun hd h hb => ?_, fun hd hok hver he => ?_, fun hd hok hver he => ?_, exec_hostMemAccess_out, fun h1 h8 => ?_⟩
  · have hex := exec_writeback_dirty hd (hok.elim (fun h => .inl (by omega)) id) hver
    have hmark : (s.sealTile tile ((s.tile tile).ver + 1) (s.newGen (s.frameRec (tile / 512)).owner)).markDirty (tile / 512)
        = s.sealTile tile ((s.tile tile).ver + 1) (s.newGen (s.frameRec (tile / 512)).owner) := by
      unfold State.markDirty
      have ht : (s.sealTile tile ((s.tile tile).ver + 1) (s.newGen (s.frameRec (tile / 512)).owner)).trackAt = s.trackAt
          ∧ (s.sealTile tile ((s.tile tile).ver + 1) (s.newGen (s.frameRec (tile / 512)).owner)).frameRec (tile / 512) = s.frameRec (tile / 512) := by
        unfold State.sealTile
        dsimp only
        split <;> exact ⟨rfl, rfl⟩
      rw [ht.1, ht.2, htr]
    rw [hmark] at hex
    obtain ⟨hm, hb, hz, hf⟩ := State.sealTile_spec hinv hnd tile ((s.tile tile).ver + 1) (s.newGen (s.frameRec (tile / 512)).owner)
    obtain ⟨hv, hk, -⟩ := s.sealTile_tile tile ((s.tile tile).ver + 1) (s.newGen (s.frameRec (tile / 512)).owner)
    exact ⟨_, hex, hm, State.sealTile_wf _ _ _ hinv, hv, hk, hb, hz, hf⟩
  · rw [exec_writeback_spoiled hd h hb, State.sealNotice_tile]
    rfl
  · rw [exec_writeback_worn hd hok hver, if_pos he]
  · rw [exec_writeback_worn hd hok hver, if_neg (by rw [he]; simp)]
  · have hin := exec_hostMemAccess_in (v := v) h1 h8
    refine ⟨fun hr hm => ⟨?_, ?_⟩, fun hr m hm hp => s.metaWrite_spec v.toNat hm hp, fun hr hm => ⟨⟨(s.fill pa).writeNat pa size v.toNat, ?_, ?_, ?_⟩, ⟨s.fill pa, ?_, s.memByte_fill pa⟩⟩,
      fun w c hr hc => ?_, fun w hr => ?_⟩
    · rw [hin, hr]
      dsimp only
      rw [if_pos hm, if_pos rfl]
    · rw [hin, hr]
      dsimp only
      rw [if_pos hm, if_neg (by simp)]
    · rw [hin, hr]
      dsimp only
      rw [if_neg (by rw [hm]; simp), if_pos rfl]
    · exact fun i hi => State.writeNat_memByte _ _ _ _ _ hi
    · exact fun a ha => (State.writeNat_memByte_ne _ _ _ _ _ ha).trans (s.memByte_fill pa a)
    · rw [hin, hr]
      dsimp only
      rw [if_neg (by rw [hm]; simp), if_neg (by simp)]
    · rw [hin, hr]
      exact congrArg Host.Outcome.next (if_neg hc)
    · rw [hin, hr]
      rfl

end Sys2Proof.Machine
end

section
/-! ## O35: the allocator's steps -/
namespace Sys2Proof.Machine

/-! ### Grants to a task that waits -/

theorem State.enqueueCont_units (σ : State) (t : Nat) : (σ.enqueueCont t).cores = σ.cores ∧ (σ.enqueueCont t).frags = σ.frags := by
  unfold State.enqueueCont
  dsimp only
  split
  · split
    · split <;> exact ⟨rfl, rfl⟩
    · exact ⟨rfl, rfl⟩
  · exact ⟨rfl, rfl⟩

/-- A grant that a waiting task gets completes its continuation, and changes no unit. -/
theorem State.granted_waiting {σ : State} {core : Nat} {r : LeaseReq} (h : (σ.taskOf r.task).state = .waiting) (handle : Nat) :
    (σ.granted core r handle).cores = σ.cores ∧ (σ.granted core r handle).frags = σ.frags := by
  unfold State.granted
  dsimp only
  rw [if_pos h]
  exact State.enqueueCont_units _ _

theorem State.coreOf_congr {σ τ : State} (h : τ.cores = σ.cores) (n : Nat) : τ.coreOf n = σ.coreOf n := by
  unfold State.coreOf
  rw [h]

theorem State.fragOf_congr {σ τ : State} (h : τ.frags = σ.frags) (n k : Nat) : τ.fragOf n k = σ.fragOf n k := by
  unfold State.fragOf
  rw [h]

/-- A grant of new fragments changes of its core the generation alone, and no task. -/
theorem State.grantFrags_core {σ : State} {core slot : Nat} {task : Option Nat} {r : LeaseReq} (hw : r.want = 0) (ss : List Nat) :
    (σ.grantFrags core slot task r ss).2.coreOf core = { σ.coreOf core with fragGen := (σ.coreOf core).fragGen + 1 } ∧ (σ.grantFrags core slot task r ss).2.tasks = σ.tasks := by
  have hfold (l : List Nat) (τ : State) (g : Nat) : (l.foldl (fun σ i => (σ.setEng core (i + 4) ((σ.engOf core (i + 4)).forGrant (σ.lotName core slot))).setFrag core i
      { state := 1, slot := slot, gen := if r.want = 0 then g else Tbl.get r.gens 0 (i + 4), lot := task }) τ).cores = τ.cores
      ∧ (l.foldl (fun σ i => (σ.setEng core (i + 4) ((σ.engOf core (i + 4)).forGrant (σ.lotName core slot))).setFrag core i
      { state := 1, slot := slot, gen := if r.want = 0 then g else Tbl.get r.gens 0 (i + 4), lot := task }) τ).tasks = τ.tasks := by
    induction l generalizing τ with
    | nil => exact ⟨rfl, rfl⟩
    | cons i l ih => exact ih _
  unfold State.grantFrags
  dsimp only
  obtain ⟨h1, h2⟩ := hfold ss (if r.want = 0 then σ.setCore core { σ.coreOf core with fragGen := (σ.coreOf core).fragGen + 1 } else σ) ((σ.coreOf core).fragGen + 1).toNat
  rw [if_pos hw] at h1 h2
  refine ⟨(State.coreOf_congr ((congrArg State.cores (by rw [if_pos hw])).trans h1) core).trans (State.coreOf_setCore_same ..), (congrArg State.tasks (by rw [if_pos hw])).trans h2⟩

/-- The grant of fragments to a request that waits. -/
def State.grantTo (σ : State) (core : Nat) (r : LeaseReq) (ss : List Nat) : State :=
  ((σ.dropReq core r).grantFrags core noSlot (some r.task) r ss).2.granted core r ((σ.dropReq core r).grantFrags core noSlot (some r.task) r ss).1

theorem State.fragDecide_grants {σ : State} {core : Nat} {r : LeaseReq} {ss : List Nat} (h : σ.grantable core r = some ss) (l : List LeaseReq) :
    σ.fragDecide core (r :: l) = σ.grantTo core r ss := by
  unfold State.fragDecide
  rw [h] <;> rfl

/-- The grant of a request of a waiting task: its fragments, and of its core the generation and the request. -/
theorem State.grant_spec {σ : State} {core : Nat} {r : LeaseReq} (hw : r.want = 0) (ht : (σ.taskOf r.task).state = .waiting) (ss : List Nat) :
    (σ.grantTo core r ss).coreOf core = { (σ.coreOf core).withReqs ((σ.coreOf core).reqs.filter fun q => !r.same q) with fragGen := (σ.coreOf core).fragGen + 1 }
      ∧ ∀ i ∈ ss, ((σ.grantTo core r ss).fragOf core i).state = 1 ∧ ((σ.grantTo core r ss).fragOf core i).gen = ((σ.coreOf core).fragGen + 1).toNat
        ∧ ((σ.grantTo core r ss).fragOf core i).lot = some r.task := by
  have hdrop : (σ.dropReq core r).coreOf core = (σ.coreOf core).withReqs ((σ.coreOf core).reqs.filter fun q => !r.same q) := State.coreOf_setCore_same ..
  have hgen : ((σ.dropReq core r).coreOf core).fragGen = (σ.coreOf core).fragGen := by
    rw [hdrop]
    rfl
  obtain ⟨hc, htk⟩ := State.grantFrags_core (σ := σ.dropReq core r) (core := core) (slot := noSlot) (task := some r.task) hw ss
  have hwait : (((σ.dropReq core r).grantFrags core noSlot (some r.task) r ss).2.taskOf r.task).state = .waiting := by
    unfold State.taskOf at ht ⊢
    rw [htk]
    exact ht
  obtain ⟨h1, h2⟩ := State.granted_waiting (core := core) hwait ((σ.dropReq core r).grantFrags core noSlot (some r.task) r ss).1
  unfold State.grantTo
  refine ⟨?_, fun i hi => ?_⟩
  · rw [State.coreOf_congr h1, hc, hgen, hdrop]
  · rw [State.fragOf_congr h2, State.grantFrags_fragOf _ _ _ _ _ _ hw i hi, hgen]
    exact ⟨rfl, rfl, rfl⟩

theorem State.leaseStep_grantTo (σ : State) (core : Nat) (r : LeaseReq) (ss : List Nat) : σ.LeaseStep (σ.grantTo core r ss) :=
  ((σ.leaseStep_dropReq core r).trans (State.leaseStep_grantFrags ..)).trans (State.leaseStep_granted ..)

/-! ### The steps -/

section
variable {s : State} {core : Nat}

theorem exec_allocatorDecision_none (hf : (s.coreOf core).fragCycle ≠ s.cycle + 1) (hc : (s.coreOf core).copyCycle ≠ s.cycle + 1) (hr : (s.coreOf core).reqs = []) :
    exec (.allocatorDecision core) s = .next (s.setCore core { s.coreOf core with fragCycle := s.cycle + 1, copyCycle := s.cycle + 1 }) := by
  have hreq (τ : State) (b : Bool) (h : (τ.coreOf core).reqs = []) : τ.reqsNow core b = [] := by
    unfold State.reqsNow
    dsimp only
    rw [h]
    rfl
  have hset (k k' : Core) : (s.setCore core k).setCore core k' = s.setCore core k' := by
    unfold State.setCore
    dsimp only
    rw [Tbl.set_set]
  refine congrArg Host.Outcome.next ?_
  unfold State.allocate
  dsimp only
  rw [if_neg hf, hreq s false hr]
  unfold State.fragDecide
  have hk : (s.setCore core { s.coreOf core with fragCycle := s.cycle + 1 }).coreOf core = { s.coreOf core with fragCycle := s.cycle + 1 } := State.coreOf_setCore_same ..
  rw [if_neg (by rw [hk]; exact hc), hreq _ true (by rw [hk]; exact hr)]
  unfold State.copyDecide
  rw [hk, hset]
  rfl

theorem State.grantable_setCore (k : Core) (hk : k.freeze = (s.coreOf core).freeze ∧ k.pendv = (s.coreOf core).pendv ∧ k.hold = (s.coreOf core).hold ∧ k.plan = (s.coreOf core).plan)
    (r : LeaseReq) : (s.setCore core k).grantable core r = s.grantable core r := by
  obtain ⟨h1, h2, h3, h4⟩ := hk
  unfold State.grantable
  dsimp only
  rw [State.coreOf_setCore_same, h1, h2, h3, h4] <;> rfl

theorem State.allocate_frag {t : State} (hf : (s.coreOf core).fragCycle ≠ s.cycle + 1)
    (ht : (s.setCore core { s.coreOf core with fragCycle := s.cycle + 1 }).fragDecide core (s.reqsNow core false) = t) (hc : (t.coreOf core).copyCycle = t.cycle + 1) :
    s.allocate core = t := by
  unfold State.allocate
  dsimp only
  rw [if_neg hf, ht, if_pos hc]

theorem exec_allocatorDecision_grants {r : LeaseReq} {rest : List LeaseReq} {ss : List Nat} (hf : (s.coreOf core).fragCycle ≠ s.cycle + 1) (hc : (s.coreOf core).copyCycle = s.cycle + 1)
    (hr : s.reqsNow core false = r :: rest) (hw : r.want = 0) (ht : (s.taskOf r.task).state = .waiting) (hg : s.grantable core r = some ss) :
    ∃ t, exec (.allocatorDecision core) s = .next t ∧ SameMemory s t ∧ (t.coreOf core).fragGen = (s.coreOf core).fragGen + 1 ∧ (t.coreOf core).fragCycle = s.cycle + 1
      ∧ ∀ i ∈ ss, (t.fragOf core i).state = 1 ∧ (t.fragOf core i).gen = ((s.coreOf core).fragGen + 1).toNat ∧ (t.fragOf core i).lot = some r.task := by
  have hk : (s.setCore core { s.coreOf core with fragCycle := s.cycle + 1 }).coreOf core = { s.coreOf core with fragCycle := s.cycle + 1 } := State.coreOf_setCore_same ..
  have ht' : ((s.setCore core { s.coreOf core with fragCycle := s.cycle + 1 }).taskOf r.task).state = .waiting := ht
  have hg' : (s.setCore core { s.coreOf core with fragCycle := s.cycle + 1 }).grantable core r = some ss := by
    rw [State.grantable_setCore { s.coreOf core with fragCycle := s.cycle + 1 } ⟨rfl, rfl, rfl, rfl⟩ r, hg]
  obtain ⟨h1, h2⟩ := State.grant_spec (core := core) hw ht' ss
  have hlease := State.leaseStep_grantTo (s.setCore core { s.coreOf core with fragCycle := s.cycle + 1 }) core r ss
  have hdec := State.fragDecide_grants hg' rest
  rw [hk] at h1 h2
  refine ⟨(s.setCore core { s.coreOf core with fragCycle := s.cycle + 1 }).grantTo core r ss, congrArg Host.Outcome.next (State.allocate_frag hf ?_ ?_), fun a => ?_, ?_, ?_, ?_⟩
  · rw [hr, hdec]
  · obtain ⟨_, _, _, _, _, _, _, _, _, hs⟩ := hlease.shape
    rw [h1, hs]
    exact hc
  · exact hlease.memByte a
  · rw [h1]
  · rw [h1]
    rfl
  · exact h2

theorem LeaseReq.reached_eq (r : LeaseReq) (cycle age : Nat) : r.reached cycle age = min 3 (r.cls + (cycle - r.since) / 2 ^ age) := by
  unfold LeaseReq.reached
  dsimp only
  split <;> omega

theorem exec_classAging_spec : ∃ t, exec (.classAging core) s = .next t ∧ (t.coreOf core).reqs.length = (s.coreOf core).reqs.length ∧ SameMemory s t
    ∧ ∀ i (h : i < (s.coreOf core).reqs.length), ∃ r, (t.coreOf core).reqs[i]? = some r ∧ r.task = (s.coreOf core).reqs[i].task
      ∧ r.eff = max (s.coreOf core).reqs[i].eff (min 3 ((s.coreOf core).reqs[i].cls + (s.cycle - (s.coreOf core).reqs[i].since) / 2 ^ ((s.coreOf core).allocctl.toNat / 256 % 32))) := by
  have hage : (s.coreOf core).age = (s.coreOf core).allocctl.toNat / 256 % 32 := rfl
  refine ⟨_, rfl, ?_, fun _ => rfl, fun i h => ?_⟩
  · rw [State.coreOf_setCore_same]
    exact List.length_map _
  · rw [State.coreOf_setCore_same, ← hage, ← LeaseReq.reached_eq]
    refine ⟨_, (List.getElem?_map).trans (by rw [List.getElem?_eq_getElem h]; rfl), ?_, ?_⟩
    · dsimp only
      split <;> rfl
    · dsimp only
      split
      next hlt => exact (Nat.max_eq_right hlt.le).symm
      next hle => exact (Nat.max_eq_left (by omega)).symm

theorem exec_wholeHold_spec : ∃ t, exec (.wholeHold core) s = .next t ∧ SameMemory s t ∧ (t.coreOf core).plan = (s.coreOf core).plan ∧ (t.coreOf core).fragGen = (s.coreOf core).fragGen
    ∧ ((t.coreOf core).hold = true ↔ ∃ r ∈ (s.coreOf core).reqs, r.holds = true ∨ (r.copy = false ∧ r.shape = 0 ∧ r.since + 2 ^ ((s.coreOf core).allocctl.toNat % 32) ≤ s.cycle))
    ∧ (t.coreOf core).reqs.length = (s.coreOf core).reqs.length ∧ ∀ i (h : i < (s.coreOf core).reqs.length), ∃ b, (t.coreOf core).reqs[i]? = some { (s.coreOf core).reqs[i] with holds := b } := by
  have hcyc : (s.coreOf core).holdCycles = 2 ^ ((s.coreOf core).allocctl.toNat % 32) := by simp [Core.holdCycles, bits]
  refine ⟨_, rfl, fun _ => rfl, ?_⟩
  rw [State.coreOf_setCore_same]
  refine ⟨rfl, rfl, ?_, List.length_map _, fun i h => ?_⟩
  · show ((s.coreOf core).reqs.map _).any LeaseReq.holds = true ↔ _
    rw [List.any_map, List.any_eq_true, ← hcyc]
    refine exists_congr fun r => and_congr_right fun _ => ?_
    dsimp only [Function.comp]
    split
    next hd =>
      simp only [Bool.and_eq_true, Bool.not_eq_true', decide_eq_true_eq] at hd
      exact iff_of_true rfl (.inr ⟨hd.1.1, hd.1.2, hd.2⟩)
    next hd =>
      simp only [Bool.and_eq_true, Bool.not_eq_true', decide_eq_true_eq] at hd
      exact ⟨.inl, fun h => h.resolve_right fun ⟨h1, h2, h3⟩ => hd ⟨⟨h1, h2⟩, h3⟩⟩
  · have hkeep (c : Bool) (r : LeaseReq) : ∃ b, (if c = true then { r with holds := true } else r) = { r with holds := b } := by
      cases c
      · exact ⟨r.holds, rfl⟩
      · exact ⟨true, rfl⟩
    obtain ⟨b, hb⟩ := hkeep (!(s.coreOf core).reqs[i].copy && decide ((s.coreOf core).reqs[i].shape = 0) && decide ((s.coreOf core).reqs[i].since + (s.coreOf core).holdCycles ≤ s.cycle))
      (s.coreOf core).reqs[i]
    exact ⟨b, (List.getElem?_map).trans (by rw [List.getElem?_eq_getElem h]; exact congrArg some hb)⟩

theorem changed_all_iff (p q : Nat) (f : Nat → Nat) : ((changed p q).all fun i => decide (f i = 0)) = true ↔ ∀ i < 4, cells p i ≠ cells q i → f i = 0 := by
  unfold changed
  rw [List.all_eq_true]
  simp only [List.mem_filter, decide_eq_true_eq]
  constructor
  · intro h i hi hc
    exact h i ⟨by interval_cases i <;> simp, hc⟩
  · rintro h i ⟨hi, hc⟩
    exact h i (by simp at hi; omega) hc

theorem State.planChange_none (h : (s.coreOf core).pendv = false ∨ (s.coreOf core).freeze = true ∨ ∃ i < 4, cells (s.coreOf core).plan i ≠ cells (s.coreOf core).pend i ∧ (s.fragOf core i).state ≠ 0) :
    s.planChange core = s := by
  unfold State.planChange
  dsimp only
  refine if_neg ?_
  rintro ⟨hp, hf, ha⟩
  obtain h | h | ⟨i, hi, hc, hs⟩ := h
  · rw [h] at hp
    exact nomatch hp
  · rw [h] at hf
    exact nomatch hf
  · exact hs ((changed_all_iff _ _ fun i => (s.fragOf core i).state).mp ha i hi hc)

variable (hp : (s.coreOf core).pendv = true) (hf : (s.coreOf core).freeze = false)
  (ha : ∀ i < 4, cells (s.coreOf core).plan i ≠ cells (s.coreOf core).pend i → (s.fragOf core i).state = 0)
include hp hf ha

theorem exec_planChange_none (hr : (s.coreOf core).pendReq = none) :
    exec (.planChange core) s = .next (s.setCore core { s.coreOf core with plan := (s.coreOf core).pend, pendv := false, pend := 0, pendReq := none }) := by
  refine congrArg Host.Outcome.next ?_
  unfold State.planChange
  dsimp only
  rw [if_pos ⟨hp, by rw [hf]; rfl, (changed_all_iff _ _ fun i => (s.fragOf core i).state).mpr ha⟩, hr]

theorem exec_planChange_grants {r : LeaseReq} {ss : List Nat} (hr : (s.coreOf core).pendReq = some r) (hs : (s.coreOf core).reqs.any r.same = true) (hw : r.want = 0)
    (ht : (s.taskOf r.task).state = .waiting)
    (hg : (s.setCore core { s.coreOf core with plan := (s.coreOf core).pend, pendv := false, pend := 0, pendReq := none }).grantable core r = some ss) :
    ∃ t, exec (.planChange core) s = .next t ∧ (t.coreOf core).plan = (s.coreOf core).pend ∧ (t.coreOf core).pendv = false
      ∧ ∀ i ∈ ss, (t.fragOf core i).state = 1 ∧ (t.fragOf core i).gen = ((s.coreOf core).fragGen + 1).toNat ∧ (t.fragOf core i).lot = some r.task := by
  have hk : (s.setCore core { s.coreOf core with plan := (s.coreOf core).pend, pendv := false, pend := 0, pendReq := none }).coreOf core
      = { s.coreOf core with plan := (s.coreOf core).pend, pendv := false, pend := 0, pendReq := none } := State.coreOf_setCore_same ..
  have ht' : ((s.setCore core { s.coreOf core with plan := (s.coreOf core).pend, pendv := false, pend := 0, pendReq := none }).taskOf r.task).state = .waiting := ht
  obtain ⟨h1, h2⟩ := State.grant_spec (core := core) hw ht' ss
  rw [hk] at h1 h2
  refine ⟨State.grantTo (s.setCore core { s.coreOf core with plan := (s.coreOf core).pend, pendv := false, pend := 0, pendReq := none }) core r ss, congrArg Host.Outcome.next ?eq, ?_, ?_, h2⟩
  case eq =>
    unfold State.planChange
    dsimp only
    rw [if_pos ⟨hp, by rw [hf]; rfl, (changed_all_iff _ _ fun i => (s.fragOf core i).state).mpr ha⟩, hr]
    dsimp only
    rw [if_pos hs, hg] <;> rfl
  · rw [h1]
    rfl
  · rw [h1]
    rfl

end

theorem State.loseLink_gen (σ : State) (core k b : Nat) : ((σ.loseLink core k).fragOf core b).gen = (σ.fragOf core b).gen := by
  unfold State.loseLink
  dsimp only
  split
  next l _ =>
    split
    · by_cases hb : b = linkTo l
      · subst hb
        rw [State.fragOf_setFrag_same]
      · rw [State.fragOf_setFrag_ne _ _ _ hb]
    · rfl
  · rfl

theorem State.fragFree_gen (σ : State) (core k : Nat) (b : Bool) : ((σ.fragFree core k b).fragOf core k).gen = (σ.fragOf core k).gen := by
  unfold State.fragFree
  dsimp only
  rw [State.loseLink_gen, State.fragOf_setFrag_same]
  dsimp only
  split
  · rw [State.emptyLinks_fragOf]
    exact congrArg Frag.gen (State.keepLinks_fragOf σ core k core k)
  · exact congrArg Frag.gen (State.keepLinks_fragOf σ core k core k)

/-- Settles O35: each step of the allocator by the requests, the plan and the fragments it finds. -/
theorem allocatorSteps : Obligations.AllocatorSteps := by
  unfold Obligations.AllocatorSteps
  intro s core seq p
  dsimp only
  refine ⟨exec_allocatorDecision_none, fun hf hc r rest ss => exec_allocatorDecision_grants hf hc, exec_classAging_spec, exec_wholeHold_spec, fun hp hf hr ha => exec_planChange_none hp hf ha hr,
    fun r ss hp hf hr ha => exec_planChange_grants hp hf ha hr, fun h => ?_, fun i hi hp hc hs => ?_, fun h2 hd => ?_, fun h2 hd => ?_⟩
  · exact congrArg Host.Outcome.next (State.planChange_none (h.imp id .inl))
  · exact congrArg Host.Outcome.next (State.planChange_none (.inr (.inr ⟨i, hi, hc, hs⟩)))
  · refine ⟨s.fragFree core seq false, congrArg Host.Outcome.next (if_pos ⟨h2, hd⟩), ?_, s.fragFree_gen core seq false, fun a => (s.leaseStep_fragFree core seq false).memByte a⟩
    rw [State.fragFree_state, if_pos rfl]
  · exact congrArg Host.Outcome.next (if_neg fun h => by rw [hd] at h; exact nomatch h.2)

end Sys2Proof.Machine
end

section
/-! ## O37: the ends of lots and tasks -/
namespace Sys2Proof.Machine

/-! ### What leaves the tasks and the nodes as they are -/

structure State.KeepsTasks (σ τ : State) : Prop where
  tasks : τ.tasks = σ.tasks
  nodes : τ.nodes = σ.nodes
  pool : τ.pool = σ.pool
  nextTask : τ.nextTask = σ.nextTask

namespace State.KeepsTasks
variable {σ τ ρ : State}

theorem refl (σ : State) : σ.KeepsTasks σ := ⟨rfl, rfl, rfl, rfl⟩

theorem trans (h : σ.KeepsTasks τ) (g : τ.KeepsTasks ρ) : σ.KeepsTasks ρ :=
  ⟨g.tasks.trans h.tasks, g.nodes.trans h.nodes, g.pool.trans h.pool, g.nextTask.trans h.nextTask⟩

theorem foldl {β : Type} {f : State → β → State} (h : ∀ (σ : State) b, σ.KeepsTasks (f σ b)) (l : List β) (σ : State) : σ.KeepsTasks (l.foldl f σ) := by
  induction l generalizing σ with
  | nil => exact .refl σ
  | cons b l ih => exact (h σ b).trans (ih _)

theorem ite {c : Prop} [Decidable c] (h : σ.KeepsTasks τ) (g : σ.KeepsTasks ρ) : σ.KeepsTasks (if c then τ else ρ) := by
  split
  · exact h
  · exact g

theorem taskOf (h : σ.KeepsTasks τ) (t : Nat) : τ.taskOf t = σ.taskOf t := congrArg (fun x : Tbl Task => x.get {} t) h.tasks

theorem nodeOf (h : σ.KeepsTasks τ) (n : Nat) : τ.nodeOf n = σ.nodeOf n := congrArg (fun x : Tbl Node => x.get {} n) h.nodes

end State.KeepsTasks

/-- A step that sets tables other than the four. -/
theorem State.keepsTasks_of {σ τ : State} (ht : τ.tasks = σ.tasks) (hn : τ.nodes = σ.nodes) (hp : τ.pool = σ.pool) (hx : τ.nextTask = σ.nextTask) :
    σ.KeepsTasks τ := ⟨ht, hn, hp, hx⟩

theorem State.WroteBytes.keepsTasks {σ τ : State} (h : σ.WroteBytes τ) : σ.KeepsTasks τ := by
  obtain ⟨_, _, _, _, rfl⟩ := h
  exact ⟨rfl, rfl, rfl, rfl⟩

theorem State.Noticed.keepsTasks {σ τ : State} (h : σ.Noticed τ) : σ.KeepsTasks τ := by
  obtain ⟨_, _, _, _, _, _, _, _, _, rfl⟩ := h
  exact ⟨rfl, rfl, rfl, rfl⟩

theorem State.keepsTasks_keepLinks (σ : State) (core k : Nat) : σ.KeepsTasks (σ.keepLinks core k) := by
  unfold State.keepLinks
  exact .ite ⟨rfl, rfl, rfl, rfl⟩ (.refl σ)

theorem State.keepsTasks_loseLink (σ : State) (core k : Nat) : σ.KeepsTasks (σ.loseLink core k) := by
  unfold State.loseLink
  split
  · exact .ite ⟨rfl, rfl, rfl, rfl⟩ (.refl σ)
  · exact .refl σ

theorem State.keepsTasks_emptyLinks (σ : State) (core : Nat) (ls : List Nat) : σ.KeepsTasks (ls.foldl (fun σ l => σ.emptyLink core l) σ) :=
  .foldl (fun σ l => (⟨rfl, rfl, rfl, rfl⟩ : σ.KeepsTasks (σ.emptyLink core l))) ls σ

theorem State.keepsTasks_setEng (σ : State) (core e : Nat) (v : Eng) : σ.KeepsTasks (σ.setEng core e v) := ⟨rfl, rfl, rfl, rfl⟩

theorem State.keepsTasks_setFrag (σ : State) (core k : Nat) (v : Frag) : σ.KeepsTasks (σ.setFrag core k v) := ⟨rfl, rfl, rfl, rfl⟩

theorem State.keepsTasks_setCopy (σ : State) (core n : Nat) (v : CopyEng) : σ.KeepsTasks (σ.setCopy core n v) := ⟨rfl, rfl, rfl, rfl⟩

theorem State.keepsTasks_setCtx (σ : State) (core slot : Nat) (c : Ctx) : σ.KeepsTasks (σ.setCtx core slot c) := ⟨rfl, rfl, rfl, rfl⟩

theorem State.keepsTasks_fragFree (σ : State) (core k : Nat) (b : Bool) : σ.KeepsTasks (σ.fragFree core k b) := by
  unfold State.fragFree
  extract_lets σ₁ σ₂ σ₃
  have h₂ : σ.KeepsTasks σ₂ := (σ.keepsTasks_keepLinks core k).trans (State.keepsTasks_setEng ..)
  have h₃ : σ.KeepsTasks σ₃ := .ite (h₂.trans (State.keepsTasks_emptyLinks ..)) h₂
  exact (h₃.trans (State.keepsTasks_setFrag ..)).trans (State.keepsTasks_loseLink ..)

theorem State.keepsTasks_returnFrag (σ : State) (core k : Nat) : σ.KeepsTasks (σ.returnFrag core k) := by
  unfold State.returnFrag
  dsimp only
  exact .ite (σ.keepsTasks_fragFree ..) (.ite (.ite (σ.keepsTasks_fragFree ..) (σ.keepsTasks_setFrag ..)) (.refl σ))

theorem State.keepsTasks_copyFree (σ : State) (core n : Nat) : σ.KeepsTasks (σ.copyFree core n) := ⟨rfl, rfl, rfl, rfl⟩

theorem State.keepsTasks_returnCopy (σ : State) (core n : Nat) : σ.KeepsTasks (σ.returnCopy core n) := by
  unfold State.returnCopy
  dsimp only
  exact .ite (.refl σ) (.ite (σ.keepsTasks_copyFree ..) (σ.keepsTasks_setCopy ..))

theorem State.keepsTasks_drainCopy (σ : State) (core n : Nat) : σ.KeepsTasks (σ.drainCopy core n) := by
  unfold State.drainCopy
  exact .ite (σ.keepsTasks_copyFree ..) (.refl σ)

theorem State.keepsTasks_detach (σ : State) (core slot : Nat) : σ.KeepsTasks (σ.detach core slot) := by
  unfold State.detach
  dsimp only
  refine .trans (.foldl (fun σ k => ?_) _ σ) (.foldl (fun σ n => ?_) _ _)
  · exact .ite (.ite (σ.keepsTasks_fragFree ..) (σ.keepsTasks_setFrag ..)) (.refl σ)
  · exact .ite ((σ.keepsTasks_setCopy ..).trans (State.keepsTasks_drainCopy ..)) (.refl σ)

theorem State.keepsTasks_returnLeases (σ : State) (core slot : Nat) : σ.KeepsTasks (σ.returnLeases core slot) := by
  unfold State.returnLeases
  refine .trans (.trans ?_ (.foldl (fun σ n => σ.keepsTasks_returnCopy core n) _ _)) (State.keepsTasks_detach _ _ _)
  exact .foldl (fun σ k => σ.keepsTasks_returnFrag core k) _ _

theorem State.keepsTasks_haltEngine (σ : State) (core e : Nat) : σ.KeepsTasks (σ.haltEngine core e) := by
  unfold State.haltEngine
  extract_lets v σ₁ σ₂ f σ₃ x
  have h₂ : σ.KeepsTasks σ₂ := ⟨rfl, rfl, rfl, rfl⟩
  have h₃ : σ.KeepsTasks σ₃ := h₂.trans (State.keepsTasks_emptyLinks ..)
  exact .ite h₂ (.ite (h₃.trans (State.keepsTasks_setFrag ..)) (h₂.trans (State.keepsTasks_setCopy ..)))

theorem State.keepsTasks_haltEngines (σ : State) (core slot : Nat) : σ.KeepsTasks (σ.haltEngines core slot) := by
  unfold State.haltEngines
  dsimp only
  exact State.KeepsTasks.trans (.foldl (fun σ e => σ.keepsTasks_haltEngine core e) (σ.enginesOf core slot) σ) ⟨rfl, rfl, rfl, rfl⟩

theorem State.keepsTasks_recode (σ : State) (core slot code : Nat) (holder : Option Nat) : σ.KeepsTasks (σ.recode core slot code holder) := by
  unfold State.recode
  refine .foldl (fun σ p => ?_) _ σ
  cases holder with
  | none => exact ⟨rfl, rfl, rfl, rfl⟩
  | some t => exact ⟨rfl, rfl, rfl, rfl⟩

theorem State.keepsTasks_freeHeld (σ : State) (t : Nat) : σ.KeepsTasks (σ.freeHeld t) := by
  unfold State.freeHeld
  dsimp only
  refine .trans (.foldl (fun σ p => ?_) (σ.holder.filter fun p => decide (p.2 = t)) σ) ⟨rfl, rfl, rfl, rfl⟩
  exact .ite ⟨rfl, rfl, rfl, rfl⟩ (.refl σ)

theorem State.keepsTasks_dropLot (σ : State) (core slot : Nat) : σ.KeepsTasks (σ.dropLot core slot) := by
  unfold State.dropLot
  dsimp only
  exact .trans (.trans (State.keepsTasks_setCtx ..) (State.keepsTasks_haltEngines _ core slot)) (State.keepsTasks_returnLeases _ core slot)

theorem State.keepsTasks_freeSlot (σ : State) (core slot : Nat) : σ.KeepsTasks (σ.freeSlot core slot) := ⟨rfl, rfl, rfl, rfl⟩

theorem State.keepsTasks_returnHeld (σ : State) (t : Nat) : σ.KeepsTasks (σ.returnHeld t) := by
  unfold State.returnHeld
  dsimp only
  refine .trans (.foldl (fun σ p => ?_) _ σ) (.foldl (fun σ p => ?_) _ _)
  · exact .ite (σ.keepsTasks_fragFree ..) (.refl σ)
  · exact .ite (σ.keepsTasks_copyFree ..) (.refl σ)

theorem State.keepsTasks_withdrawLeases (σ : State) (t : Nat) : σ.KeepsTasks (σ.withdrawLeases t) :=
  State.KeepsTasks.trans (τ := { σ with cores := σ.cores.map fun (p : Nat × Core) => (p.1, p.2.withReqs (p.2.reqs.filter fun r => decide (r.task ≠ t))) })
    ⟨rfl, rfl, rfl, rfl⟩ (State.keepsTasks_returnHeld _ t)

theorem State.keepsTasks_areaPut (σ : State) (l : List (Nat × Byte)) : σ.KeepsTasks (σ.areaPut l) := (σ.areaPut_shape l).keepsTasks

theorem State.keepsTasks_writeArea (σ : State) (t : Nat) : σ.KeepsTasks (σ.writeArea t) := by
  unfold State.writeArea
  split
  · exact σ.keepsTasks_areaPut _
  · exact .refl σ

theorem State.keepsTasks_writeCheck (σ : State) (core slot : Nat) : σ.KeepsTasks (σ.writeCheck core slot) := (σ.writeCheck_shape core slot).keepsTasks

theorem State.keepsTasks_settleQueue (σ : State) (vf q : Nat) : σ.KeepsTasks (σ.settleQueue vf q) := by
  unfold State.settleQueue
  dsimp only
  split
  · exact .refl σ
  · refine .ite (State.KeepsTasks.trans (τ := σ.setQueue vf q { σ.queueOf vf q with cancelAt := none }) ⟨rfl, rfl, rfl, rfl⟩ ?_) (.refl σ)
    exact (State.noticed_notice _ _ _ _ _ _).keepsTasks

/-! ### Contexts and the parts of a lot's end -/

theorem State.taskOf_setTask_same (σ : State) (t : Nat) (v : Task) : (σ.setTask t v).taskOf t = v := Tbl.get_set_same ..

theorem State.taskOf_setTask_ne (σ : State) {t x : Nat} (v : Task) (h : x ≠ t) : (σ.setTask t v).taskOf x = σ.taskOf x := Tbl.get_set_ne _ _ _ h

theorem State.nodeOf_setNode_same (σ : State) (n : Nat) (v : Node) : (σ.setNode n v).nodeOf n = v := Tbl.get_set_same ..

theorem State.settleQueue_ctxs (σ : State) (vf q : Nat) : (σ.settleQueue vf q).ctxs = σ.ctxs := by
  unfold State.settleQueue
  dsimp only
  split
  · rfl
  split
  · obtain ⟨_, _, _, _, _, _, _, _, _, he⟩ := State.noticed_notice (σ.setQueue vf q _) vf 6 q 0xFFFF _
    rw [he]
    rfl
  · rfl

/-- What the end of a task of a node leaves: the tasks, and the contexts, as they are. -/
theorem State.settleNode_kept (σ : State) (n vf q : Nat) :
    ((σ.nodeTick n).settleQueue vf q).tasks = σ.tasks ∧ ((σ.nodeTick n).settleQueue vf q).pool = σ.pool ∧ ((σ.nodeTick n).settleQueue vf q).ctxs = σ.ctxs := by
  have hτ : (σ.nodeTick n).tasks = σ.tasks ∧ (σ.nodeTick n).pool = σ.pool ∧ (σ.nodeTick n).ctxs = σ.ctxs := by
    unfold State.nodeTick
    dsimp only
    split <;> exact ⟨rfl, rfl, rfl⟩
  generalize σ.nodeTick n = τ at hτ
  have h := τ.keepsTasks_settleQueue vf q
  exact ⟨h.tasks.trans hτ.1, h.pool.trans hτ.2.1, (τ.settleQueue_ctxs vf q).trans hτ.2.2⟩

theorem State.afterTask_kept (σ : State) (t : Nat) :
    (σ.afterTask t).tasks = σ.tasks ∧ (σ.afterTask t).pool = σ.pool ∧ (σ.afterTask t).ctxs = σ.ctxs :=
  σ.settleNode_kept ..

theorem State.taskOf_afterTask (σ : State) (t x : Nat) : (σ.afterTask t).taskOf x = σ.taskOf x := congrArg (fun l : Tbl Task => l.get {} x) (σ.afterTask_kept t).1

theorem State.ctxOf_afterTask (σ : State) (t core slot : Nat) : (σ.afterTask t).ctxOf core slot = σ.ctxOf core slot :=
  congrArg (fun x => State.ctxOf { σ with ctxs := x } core slot) (σ.afterTask_kept t).2.2

theorem State.ctxOf_freeSlot (σ : State) (core slot : Nat) : ((σ.freeSlot core slot).ctxOf core slot).task = none := by
  unfold State.freeSlot
  rw [State.ctxOf_setCtx_same]
  rfl

/-- A task whose lot is over: without a context area, a record to go on from and spilled slabs. -/
def Task.overLot (tk : Task) : Task := { tk with ctxId := none, areaAt := none, cont := none, between := true, spilled := [] }

theorem State.releaseArea_spec (σ : State) (t : Nat) :
    (σ.releaseArea t).tasks = Tbl.set σ.tasks t { σ.taskOf t with ctxId := none, areaAt := none, cont := none } ∧ (σ.releaseArea t).nodes = σ.nodes
      ∧ (σ.releaseArea t).pool = σ.pool ∧ (σ.releaseArea t).nextTask = σ.nextTask := by
  unfold State.releaseArea
  dsimp only
  split
  · exact ⟨rfl, rfl, rfl, rfl⟩
  next h =>
    refine ⟨?_, rfl, rfl, rfl⟩
    show Tbl.set σ.tasks t { σ.taskOf t with areaAt := none, cont := none } = _
    rw [← h]

theorem State.nodeOf_counted {σ : State} {n m : Nat} {v : Node} (h : σ.nodeOf n = v) (hm : n = m) :
    (σ.setNode n { σ.nodeOf n with done := (σ.nodeOf n).done + 1 }).nodeOf m = { v with done := v.done + 1 } := by
  subst h hm
  exact σ.nodeOf_setNode_same ..

theorem State.closeLot_spec (σ : State) (core slot t : Nat) :
    (σ.closeLot core slot t).taskOf t = (σ.taskOf t).overLot
      ∧ ((σ.closeLot core slot t).nodeOf (σ.taskOf t).node) = { σ.nodeOf (σ.taskOf t).node with done := (σ.nodeOf (σ.taskOf t).node).done + 1 }
      ∧ (σ.closeLot core slot t).pool = σ.pool ∧ (σ.closeLot core slot t).nextTask = σ.nextTask := by
  unfold State.closeLot
  extract_lets τ₁ τ₂ tk τ₃ n
  have h₁ : σ.KeepsTasks τ₁ := (σ.keepsTasks_returnLeases core slot).trans (State.keepsTasks_recode ..)
  obtain ⟨hrt, hrn, hrp, hrx⟩ := τ₁.releaseArea_spec t
  have h₂ : (τ₁.releaseArea t).KeepsTasks τ₂ := State.keepsTasks_freeHeld ..
  have ht : τ₂.taskOf t = { σ.taskOf t with ctxId := none, areaAt := none, cont := none } := by
    rw [h₂.taskOf t, ← h₁.taskOf t]
    unfold State.taskOf
    rw [hrt]
    exact Tbl.get_set_same ..
  have hnode (m : Nat) : τ₂.nodeOf m = σ.nodeOf m := (h₂.nodeOf m).trans ((congrArg (fun x : Tbl Node => x.get {} m) hrn).trans (h₁.nodeOf m))
  have hp : τ₂.pool = σ.pool := h₂.pool.trans (hrp.trans h₁.pool)
  have hx : τ₂.nextTask = σ.nextTask := h₂.nextTask.trans (hrx.trans h₁.nextTask)
  clear h₂ hrt hrn hrp hrx h₁
  clear_value τ₂
  have ht₃ : τ₃.taskOf t = (σ.taskOf t).overLot := by
    unfold τ₃ tk
    rw [State.taskOf_setTask_same, ht]
    rfl
  have hn : n = (σ.taskOf t).node := (congrArg Task.node ht₃ :)
  refine ⟨ht₃, ?_, hp, hx⟩
  have hn₃ : τ₃.nodeOf n = σ.nodeOf (σ.taskOf t).node := (hnode n).trans (congrArg σ.nodeOf hn)
  exact State.nodeOf_counted hn₃ hn

theorem State.ctxOf_setTask (σ : State) (t core slot : Nat) (v : Task) : (σ.setTask t v).ctxOf core slot = σ.ctxOf core slot := rfl


/-! ### The lots of a range that have not begun -/

theorem State.repool_spec (σ : State) (t : Nat) :
    (σ.repool t).taskOf t = { σ.taskOf t with hi := if (σ.taskOf t).next < (σ.taskOf t).hi then (σ.taskOf t).next else (σ.taskOf t).hi, split := none }
      ∧ ((σ.taskOf t).next < (σ.taskOf t).hi → t ≠ σ.nextTask → σ.nextTask ∈ (σ.repool t).pool
        ∧ (σ.repool t).taskOf σ.nextTask = { node := (σ.taskOf t).node, next := (σ.taskOf t).next, hi := (σ.taskOf t).hi }) := by
  unfold State.repool
  dsimp only
  split
  next h =>
    refine ⟨State.taskOf_setTask_same .., fun _ hne => ⟨List.mem_append_right _ (List.mem_singleton_self _), ?_⟩⟩
    exact (State.taskOf_setTask_ne _ _ (Ne.symm hne)).trans (State.taskOf_setTask_same ..)
  next h => exact ⟨State.taskOf_setTask_same .., fun hlt => absurd hlt h⟩

theorem State.repool_nodes (σ : State) (t : Nat) : (σ.repool t).nodes = σ.nodes := by
  unfold State.repool
  dsimp only
  split <;> rfl

/-- The part of the range of `t` that has not begun has become a range task of the pool. -/
def State.RestPooled (s : State) (t : Nat) (u : State) : Prop :=
  (s.taskOf t).next < (s.taskOf t).hi → t ≠ s.nextTask → s.nextTask ∈ u.pool ∧ (u.taskOf s.nextTask).node = (s.taskOf t).node
    ∧ (u.taskOf s.nextTask).next = (s.taskOf t).next ∧ (u.taskOf s.nextTask).hi = (s.taskOf t).hi ∧ (u.taskOf t).hi = (s.taskOf t).next
    ∧ (u.taskOf t).split = none

/-- Before the range is parted, and after, only what says nothing of it may change. -/
theorem State.restPooled_of_repool {s σ u : State} {t : Nat} (hnode : (σ.taskOf t).node = (s.taskOf t).node) (hnext : (σ.taskOf t).next = (s.taskOf t).next)
    (hhi : (σ.taskOf t).hi = (s.taskOf t).hi) (hx : σ.nextTask = s.nextTask) (hpool : u.pool = (σ.repool t).pool)
    (hut : (u.taskOf t).hi = ((σ.repool t).taskOf t).hi ∧ (u.taskOf t).split = ((σ.repool t).taskOf t).split)
    (hne : ∀ x, x ≠ t → u.taskOf x = (σ.repool t).taskOf x) : s.RestPooled t u := by
  intro hlt hnew
  obtain ⟨hself, hrest⟩ := σ.repool_spec t
  rw [hnext, hhi] at hself hrest
  rw [hx] at hrest
  obtain ⟨hmem, hn⟩ := hrest hlt hnew
  obtain ⟨huh, hus⟩ := hut
  refine ⟨by rwa [hpool], ?_, ?_, ?_, ?_, ?_⟩
  · rw [hne _ (Ne.symm hnew), hn]
    exact hnode
  · rw [hne _ (Ne.symm hnew), hn]
  · rw [hne _ (Ne.symm hnew), hn]
  · rw [huh, hself]
    exact if_pos hlt
  · rw [hus, hself]

/-- What an aborted lot's task holds from then on. -/
theorem State.settleAborting_spec (σ : State) (core slot vf t : Nat) (tk : Task) (c : Ctx) (u : State)
    (hu : u = match tk.ctxId with
      | some _ => ((σ.setTask t tk).writeArea t).freeSlot core slot
      | none => match σ.freeArea vf with
        | some i => (((σ.takeArea vf i).setTask t { tk with ctxId := some i }).writeArea t).freeSlot core slot
        | none => (σ.setTask t tk).setCtx core slot c) :
    (∃ i, u.taskOf t = { tk with ctxId := i }) ∧ (∀ x, x ≠ t → u.taskOf x = σ.taskOf x) ∧ u.pool = σ.pool := by
  have hput (τ : State) (v : Task) (hτ : τ.tasks = Tbl.set σ.tasks t v ∧ τ.pool = σ.pool) :
      ((τ.writeArea t).freeSlot core slot).taskOf t = v ∧ (∀ x, x ≠ t → ((τ.writeArea t).freeSlot core slot).taskOf x = σ.taskOf x)
        ∧ ((τ.writeArea t).freeSlot core slot).pool = σ.pool := by
    have h := (τ.keepsTasks_writeArea t).trans (State.keepsTasks_freeSlot _ core slot)
    have ht (x : Nat) : τ.taskOf x = if x = t then v else σ.taskOf x := (congrArg (fun l : Tbl Task => l.get {} x) hτ.1).trans (Tbl.get_set ..)
    exact ⟨(h.taskOf t).trans ((ht t).trans (if_pos rfl)), fun x hx => (h.taskOf x).trans ((ht x).trans (if_neg hx)), h.pool.trans hτ.2⟩
  cases hi : tk.ctxId with
  | some i =>
    simp only [hi] at hu
    obtain ⟨h₁, h₂, h₃⟩ := hput (σ.setTask t tk) tk ⟨rfl, rfl⟩
    subst hu
    exact ⟨⟨some i, by rw [h₁, ← hi]⟩, h₂, h₃⟩
  | none =>
    simp only [hi] at hu
    cases hf : σ.freeArea vf with
    | some i =>
      simp only [hf] at hu
      obtain ⟨h₁, h₂, h₃⟩ := hput ((σ.takeArea vf i).setTask t { tk with ctxId := some i }) _ ⟨rfl, rfl⟩
      subst hu
      exact ⟨⟨some i, h₁⟩, h₂, h₃⟩
    | none =>
      simp only [hf] at hu
      subst hu
      exact ⟨⟨none, (State.taskOf_setTask_same ..).trans (by rw [← hi])⟩, fun x hx => State.taskOf_setTask_ne _ _ hx, rfl⟩

theorem State.abortLot_spec (σ : State) (core slot : Nat) (page : Option (Word × Bool)) {t : Nat} (ht : (σ.ctxOf core slot).task = some t) :
    ((σ.abortLot core slot page).taskOf t).state = .aborting ∧ ((σ.abortLot core slot page).taskOf t).cont = some (σ.areaAbort core slot)
      ∧ σ.RestPooled t (σ.abortLot core slot page) := by
  generalize hu : σ.abortLot core slot page = u
  unfold State.abortLot at hu
  split at hu
  next hn => exact absurd (hn.symm.trans ht) (by simp)
  next t' ht' =>
  obtain rfl : t' = t := Option.some.inj (ht'.symm.trans ht)
  extract_lets area vf τ₁ τ₂ τ₃ tk tk' c at hu
  have h₂ : σ.KeepsTasks τ₂ := by
    refine State.KeepsTasks.trans ?_ (State.keepsTasks_recode ..)
    exact State.KeepsTasks.trans (.ite (.refl σ) (σ.keepsTasks_withdrawLeases t')) (State.keepsTasks_dropLot ..)
  have hτ₃ : τ₃ = τ₂.repool t' := rfl
  have htk : tk = τ₃.taskOf t' := rfl
  clear_value tk τ₃ τ₂
  have hst : tk'.state = .aborting ∧ tk'.cont = some area ∧ tk'.hi = tk.hi ∧ tk'.split = tk.split := ⟨rfl, rfl, rfl, rfl⟩
  clear_value tk'
  obtain ⟨hstate, hcont, hhi, hsplit⟩ := hst
  have h := τ₃.settleAborting_spec core slot vf t' tk' { c with stopped := some causeNonresident, stopping := none } u hu.symm
  obtain ⟨⟨i, hi⟩, hne, hp⟩ := h
  refine ⟨by rw [hi]; exact hstate, by rw [hi]; exact hcont, ?_⟩
  subst hτ₃ htk
  refine State.restPooled_of_repool (σ := τ₂) ?_ ?_ ?_ h₂.nextTask hp ?_ hne
  · rw [h₂.taskOf]
  · rw [h₂.taskOf]
  · rw [h₂.taskOf]
  · rw [hi]
    exact ⟨hhi, hsplit⟩

/-! ### The next lot -/

theorem State.startLot_spec (σ : State) (core slot t n : Nat) :
    (∃ snap, (σ.startLot core slot t n).ctxOf core slot = { lotCtx (σ.ctxOf core slot) (σ.nodeOf (σ.taskOf t).node) t n with snap := snap })
      ∧ (σ.startLot core slot t n).tasks = Tbl.set σ.tasks t { σ.taskOf t with state := .running, next := n + 1, core := some core, slot := slot, lot := n }
      ∧ (σ.startLot core slot t n).nodes = σ.nodes ∧ (σ.startLot core slot t n).pool = σ.pool ∧ (σ.startLot core slot t n).nextTask = σ.nextTask := by
  unfold State.startLot
  extract_lets tk nd c τ₁ τ₂ τ₃ τ₄
  have h := (State.keepsTasks_setCtx τ₄ core slot { τ₄.ctxOf core slot with snap := τ₄.snapshot core slot }).trans (State.keepsTasks_writeCheck _ core slot)
  refine ⟨⟨τ₄.snapshot core slot, ?_⟩, h.tasks, h.nodes, h.pool, h.nextTask⟩
  obtain ⟨_, _, _, _, he⟩ := (τ₄.takeSnapshot core slot).writeCheck_shape core slot
  rw [he]
  show ((τ₄.setCtx core slot { τ₄.ctxOf core slot with snap := τ₄.snapshot core slot }).ctxOf core slot) = _
  rw [State.ctxOf_setCtx_same]
  have hc : τ₄.ctxOf core slot = c := Tbl.get_set_same ..
  rw [hc]


/-! ### A task that is ended -/

theorem State.serveGate_state (σ : State) (g x : Nat) : ((σ.serveGate g).taskOf x).state = (σ.taskOf x).state := by
  unfold State.serveGate
  generalize (σ.gateOf g).waiters = ws
  induction ws generalizing σ with
  | nil => rfl
  | cons w ws ih =>
    rw [List.foldl_cons, ih]
    dsimp only
    split
    · rfl
    · show ((State.deliverMsg _ g w.1 w.2 _).taskOf x).state = _
      unfold State.deliverMsg
      dsimp only
      by_cases hx : x = w.1
      · subst hx
        rw [State.taskOf_setTask_same]
        rfl
      · rw [State.taskOf_setTask_ne _ _ hx]
        rfl

theorem State.endTask_state (σ : State) (t : Nat) (st : TaskState) : ((σ.endTask t st).taskOf t).state = st := by
  unfold State.endTask
  dsimp only
  rw [State.taskOf_setTask_same]

theorem State.endSlot_keepsTasks (σ : State) (c k : Nat) : σ.KeepsTasks ((((σ.haltEngines c k).returnLeases c k).recode c k 7 none).freeSlot c k) :=
  (((σ.keepsTasks_haltEngines c k).trans (State.keepsTasks_returnLeases _ c k)).trans (State.keepsTasks_recode _ c k 7 none)).trans (State.keepsTasks_freeSlot _ c k)

theorem State.dropTask_state (σ : State) (t : Nat) (st : TaskState) : ((σ.dropTask t st).taskOf t).state = st := by
  unfold State.dropTask
  extract_lets gate σ₁ σ₂ σ₃
  rw [State.taskOf_afterTask]
  have h₁ : (σ₁.taskOf t).state = st := State.endTask_state ..
  clear_value σ₁
  clear_value gate
  have h₂ : (σ₂.taskOf t).state = st := by
    cases gate with
    | some g => exact (State.serveGate_state ..).trans h₁
    | none => exact h₁
  clear_value σ₂
  unfold σ₃
  split
  · rw [(σ₂.endSlot_keepsTasks _ _).taskOf, h₂]
  · exact h₂

/-! ### The steps at a lot's end -/

section Lot
variable {s : State} {core slot t : Nat} (ht : (s.ctxOf core slot).task = some t)
include ht

theorem State.slotRuns_of_running (hrun : (s.taskOf t).state = .running) : s.slotRuns core slot = true := by
  unfold State.slotRuns
  rw [ht]
  simp [hrun]

/-- The lot in the slot has run to its end, and nothing of it is left to wait for. -/
structure State.LotOver (s : State) (core slot t : Nat) : Prop where
  exited : (s.ctxOf core slot).exited = true
  stopped : (s.ctxOf core slot).stopped = none
  posted : (s.ctxOf core slot).posted = []
  stopping : (s.ctxOf core slot).stopping = none
  engines : ∀ e ∈ s.enginesOf core slot, s.engineBusy core e = false
  running : (s.taskOf t).state = .running
  split : (s.taskOf t).split = none
  between : (s.taskOf t).between = false

theorem exec_lotComplete_over (h : s.LotOver core slot t) {u : State} (hu : s.closeLot core slot t = u) (hut : u.taskOf t = (s.taskOf t).overLot) :
    exec (.lotComplete core slot) s =
      .next (if (s.taskOf t).next < (s.taskOf t).hi then (u.setTask t { (s.taskOf t).overLot with between := false }).startLot core slot t (s.taskOf t).next
        else ((u.setTask t { (s.taskOf t).overLot with state := .done }).freeSlot core slot).afterTask t) := by
  have hsplit : (s.taskOf t).overLot.split = none := h.split
  have hbusy : (s.enginesOf core slot).any (s.engineBusy core) = false := by
    rw [List.any_eq_false]
    intro e he
    rw [h.engines e he]
    simp
  show execLotComplete core slot s = _
  unfold execLotComplete
  simp only [ht, State.slotRuns_of_running ht h.running, h.exited, h.stopped, h.stopping, h.posted, hbusy, h.between]
  simp only [Bool.not_true, Bool.false_eq_true, Option.isSome_none, ne_eq, not_true_eq_false, or_self, if_false, hu, hut, hsplit]
  exact (apply_ite Host.Outcome.next ((s.taskOf t).next < (s.taskOf t).hi) _ _).symm

theorem lotComplete_next (h : s.LotOver core slot t) (hlt : (s.taskOf t).next < (s.taskOf t).hi) :
    ∃ u, exec (.lotComplete core slot) s = .next u ∧ (u.ctxOf core slot).task = some t ∧ (u.ctxOf core slot).lotno = BitVec.ofNat 64 (s.taskOf t).next
      ∧ (u.ctxOf core slot).exited = false ∧ (u.taskOf t).next = (s.taskOf t).next + 1 ∧ (u.nodeOf (s.taskOf t).node).done = (s.nodeOf (s.taskOf t).node).done + 1
      ∧ (u.ctxOf core slot).pc = (s.nodeOf (s.taskOf t).node).ctl + BitVec.ofNat 64 (4 * (s.nodeOf (s.taskOf t).node).entry) := by
  obtain ⟨hct, hcn, _, _⟩ := s.closeLot_spec core slot t
  generalize hu : s.closeLot core slot t = u at hct hcn
  refine ⟨_, exec_lotComplete_over ht h hu hct, ?_⟩
  rw [if_pos hlt]
  generalize hv : u.setTask t _ = v
  have hvt : v.taskOf t = { (s.taskOf t).overLot with between := false } := by rw [← hv]; exact State.taskOf_setTask_same ..
  have hvn : v.nodeOf (s.taskOf t).node = u.nodeOf (s.taskOf t).node := by rw [← hv]; rfl
  obtain ⟨⟨snap, hc⟩, hts, hns, _, _⟩ := v.startLot_spec core slot t (s.taskOf t).next
  generalize v.startLot core slot t (s.taskOf t).next = w at hc hts hns
  have hwt : (w.taskOf t).next = (s.taskOf t).next + 1 := by
    unfold State.taskOf
    rw [hts, Tbl.get_set_same]
    rfl
  have hwn : w.nodeOf (s.taskOf t).node = u.nodeOf (s.taskOf t).node := (congrArg (fun l : Tbl Node => l.get {} _) hns).trans hvn
  rw [hc, hwn, hcn, hvt]
  dsimp only [Task.overLot]
  rw [hvn, hcn]
  exact ⟨rfl, rfl, rfl, hwt, rfl, rfl⟩

theorem lotComplete_last (h : s.LotOver core slot t) (hle : (s.taskOf t).hi ≤ (s.taskOf t).next) :
    ∃ u, exec (.lotComplete core slot) s = .next u ∧ (u.ctxOf core slot).task = none ∧ (u.taskOf t).state = .done := by
  refine ⟨_, exec_lotComplete_over ht h rfl (s.closeLot_spec core slot t).1, ?_⟩
  rw [if_neg (Nat.not_lt.mpr hle), State.ctxOf_afterTask, State.ctxOf_freeSlot, State.taskOf_afterTask, (State.keepsTasks_freeSlot ..).taskOf,
    State.taskOf_setTask_same]
  exact ⟨rfl, rfl⟩

theorem lotComplete_runs (hx : (s.ctxOf core slot).exited = false) : exec (.lotComplete core slot) s = .next s := by
  show execLotComplete core slot s = _
  unfold execLotComplete
  simp [ht, hx]

theorem stealRecovery_over (hx : (s.ctxOf core slot).exited = true) :
    ∃ u, exec (.stealRecovery core slot) s = .next u ∧ (u.taskOf t).state = .done ∧ (u.ctxOf core slot).task = none ∧ s.RestPooled t u := by
  refine ⟨?u, ?eq, ?_⟩
  case eq =>
    show execStealRecovery core slot s = _
    unfold execStealRecovery
    simp only [ht, hx, if_true]
    rfl
  have hd := s.keepsTasks_dropLot core slot
  generalize s.dropLot core slot = σ at hd
  have hσ : ∃ v : State, v = (if (σ.taskOf t).between then σ else σ.closeLot core slot t) ∧ (v.taskOf t).node = (s.taskOf t).node ∧ (v.taskOf t).next = (s.taskOf t).next
      ∧ (v.taskOf t).hi = (s.taskOf t).hi ∧ v.nextTask = s.nextTask := by
    obtain ⟨hct, _, _, hcx⟩ := σ.closeLot_spec core slot t
    refine ⟨_, rfl, ?_⟩
    split
    · rw [hd.taskOf]
      exact ⟨rfl, rfl, rfl, hd.nextTask⟩
    · rw [hct, hd.taskOf]
      exact ⟨rfl, rfl, rfl, hcx.trans hd.nextTask⟩
  obtain ⟨v, hv, hnode, hnext, hhi, hvx⟩ := hσ
  rw [← hv]
  generalize hρ : (v.repool t).setTask t _ = ρ
  have hρt : ρ.taskOf t = { (v.repool t).taskOf t with state := .done } := by rw [← hρ]; exact State.taskOf_setTask_same ..
  have hρne (x : Nat) (hx : x ≠ t) : ρ.taskOf x = (v.repool t).taskOf x := by rw [← hρ]; exact State.taskOf_setTask_ne _ _ hx
  have hρp : ρ.pool = (v.repool t).pool := by rw [← hρ]; rfl
  have hu (x : Nat) : ((ρ.freeSlot core slot).afterTask t).taskOf x = ρ.taskOf x := by
    rw [State.taskOf_afterTask]
    exact (State.keepsTasks_freeSlot ..).taskOf x
  refine ⟨by rw [hu, hρt], by rw [State.ctxOf_afterTask, State.ctxOf_freeSlot], ?_⟩
  refine State.restPooled_of_repool hnode hnext hhi hvx ?_ ?_ fun x hx => (hu x).trans (hρne x hx)
  · exact (State.afterTask_kept ..).2.1.trans hρp
  · rw [hu, hρt]
    exact ⟨rfl, rfl⟩

theorem stealRecovery_begun (hx : (s.ctxOf core slot).exited = false) :
    ∃ u, exec (.stealRecovery core slot) s = .next u ∧ (u.taskOf t).state = .aborting
      ∧ (∃ ar, (u.taskOf t).cont = some ar ∧ ar.ctx.pc = (s.ctxOf core slot).check.pc) ∧ s.RestPooled t u := by
  refine ⟨(s.abortLot core slot none).push (.continuationEnqueue t), ?_, ?_⟩
  · show execStealRecovery core slot s = _
    unfold execStealRecovery
    simp only [ht, hx]
    rfl
  obtain ⟨hst, hc, hrest⟩ := s.abortLot_spec core slot none ht
  exact ⟨hst, ⟨_, hc, rfl⟩, hrest⟩

theorem postedAbort_ends (he : (s.ctxOf core slot).endNow = true) :
    ∃ u, exec (.postedAbort core slot) s = .next u ∧ (u.ctxOf core slot).task = none
      ∧ (u.taskOf t).state = (if (s.ctxOf core slot).postedKill.isSome then .killed else .cancelledRunning) := by
  generalize hst : (if (s.ctxOf core slot).postedKill.isSome then TaskState.killed else .cancelledRunning) = st
  refine ⟨(s.discardLot core slot st).afterTask t, ?_, ?_⟩
  · show execPostedAbort core slot s = _
    unfold execPostedAbort
    simp only [ht, he, if_true]
    rw [← hst]
  rw [State.ctxOf_afterTask, State.taskOf_afterTask]
  unfold State.discardLot
  rw [ht]
  dsimp only
  rw [State.ctxOf_freeSlot, (State.keepsTasks_freeSlot ..).taskOf, State.taskOf_setTask_same]
  exact ⟨rfl, rfl⟩

end Lot

/-! ### Kills -/

theorem State.push_taskOf (σ : State) (d : Due) (t : Nat) : (σ.push d).taskOf t = σ.taskOf t := rfl

section Kill
variable {s : State} {n t : Nat} (hmine : ((s.tasks.filter fun p => decide (p.2.node = n)).map (·.1)) = [t])
include hmine

theorem exec_nodeKill_one :
    exec (.nodeKill n) s = .next (((s.endAny t .killed fun x => { x with postedKill := some (s.nodeOf n).cause }).nodeTick n).settleQueue (s.nodeOf n).vf (s.nodeOf n).queue) := by
  show execNodeKill n s = _
  unfold execNodeKill
  dsimp only
  rw [hmine]
  rfl

theorem nodeKill_elsewhere (hend : (s.taskOf t).state.ended = false) (hrun : (s.taskOf t).state ≠ .running) :
    ∃ u, exec (.nodeKill n) s = .next u ∧ (u.taskOf t).state = .killed := by
  refine ⟨_, exec_nodeKill_one hmine, ?_⟩
  unfold State.taskOf
  rw [(State.settleNode_kept ..).1]
  unfold State.endAny
  dsimp only
  rw [if_neg (by rw [hend]; simp), if_neg hrun]
  exact s.dropTask_state t .killed

theorem nodeKill_running {core slot : Nat} (hrun : (s.taskOf t).state = .running) (hs : s.slotOf t = some (core, slot)) :
    ∃ u, exec (.nodeKill n) s = .next u ∧ (u.ctxOf core slot).postedKill = some (s.nodeOf n).cause ∧ (u.taskOf t).state = .running := by
  refine ⟨_, exec_nodeKill_one hmine, ?_⟩
  have hend : (s.taskOf t).state.ended = false := by rw [hrun]; rfl
  obtain ⟨ht, _, hc⟩ := (s.endAny t .killed fun x => { x with postedKill := some (s.nodeOf n).cause }).settleNode_kept n (s.nodeOf n).vf (s.nodeOf n).queue
  have he : (s.endAny t .killed fun x => { x with postedKill := some (s.nodeOf n).cause })
      = (s.setCtx core slot { s.ctxOf core slot with postedKill := some (s.nodeOf n).cause }).push (.postedAbort core slot) := by
    unfold State.endAny
    dsimp only
    rw [if_neg (by rw [hend]; simp), if_pos hrun, hs]
  rw [he] at ht hc
  rw [he]
  refine ⟨?_, ?_⟩
  · refine (congrArg (fun l => (State.ctxOf { s with ctxs := l } core slot).postedKill) hc).trans ?_
    exact congrArg Ctx.postedKill (State.ctxOf_setCtx_same ..)
  · exact (congrArg (fun l : Tbl Task => (l.get {} t).state) ht).trans hrun

end Kill

/-! ### Continuations and limits -/

theorem State.enqueueCont_waiting {s : State} {t : Nat} (hw : (s.taskOf t).state = .waiting) :
    ((s.enqueueCont t).taskOf t).state = .pooled ∧ t ∈ (s.enqueueCont t).pool := by
  unfold State.enqueueCont
  dsimp only
  rw [if_pos (.inl hw)]
  exact ⟨congrArg Task.state (State.taskOf_setTask_same ..), List.mem_append_right _ (List.mem_singleton_self _)⟩

theorem continuationEnqueue_waiting {s : State} {t : Nat} (hw : (s.taskOf t).state = .waiting) :
    ∃ u, exec (.continuationEnqueue t) s = .next u ∧ (u.taskOf t).state = .pooled ∧ t ∈ u.pool ∧ SameMemory s u := by
  refine ⟨s.enqueueCont t, ?_, ?_⟩
  · show execContinuationEnqueue t s = _
    unfold execContinuationEnqueue
    simp [hw]
  obtain ⟨hst, hp⟩ := State.enqueueCont_waiting hw
  exact ⟨hst, hp, (s.leaseStep_enqueueCont t).memByte⟩

theorem continuationEnqueue_running {s : State} {t : Nat} (hr : (s.taskOf t).state = .running) : exec (.continuationEnqueue t) s = .next s := by
  show execContinuationEnqueue t s = _
  unfold execContinuationEnqueue State.enqueueCont
  simp [hr]

theorem exec_postedFault {s : State} {core slot t : Nat} {r : FaultRec} (hr : firstFault (s.ctxOf core slot).posted = some r) (hs : (s.ctxOf core slot).stopped = none)
    (ht : (s.ctxOf core slot).task = some t) (hrun : (s.taskOf t).state = .running) :
    exec (.postedFault core slot) s =
      .next ((s.setCtx core slot { s.ctxOf core slot with posted := (s.ctxOf core slot).posted.erase r }).enterFault core slot { r with pc := (s.ctxOf core slot).pc }) := by
  show execPostedFault core slot s = _
  unfold execPostedFault
  simp only [hr, hs, State.slotRuns_of_running ht hrun]
  rfl


/-- Settles O37: the end of a lot leaves its task's record but for the lot's own fields, so the next lot starts at the entry or the task is done;
an aborted lot's record is its checkpoint, and what of its range has not begun is parted from it. -/
theorem taskEnds : Obligations.TaskEnds := by
  unfold Obligations.TaskEnds
  intro s core slot t n _ c tk isOver rest
  have hover (h : isOver) : c.task = some t ∧ s.LotOver core slot t := by
    obtain ⟨ht, hx, hs, hp, hg, he, hr, hsp, hb⟩ := h
    exact ⟨ht, hx, hs, hp, hg, he, hr, hsp, hb⟩
  refine ⟨?_, ?_, ?_, continuationEnqueue_waiting, continuationEnqueue_running, ?_, ?_, ?_, ?_, ?_, ?_, ?_, ?_, ?_⟩
  · intro h hlt
    exact lotComplete_next (hover h).1 (hover h).2 hlt
  · intro h hle
    exact lotComplete_last (hover h).1 (hover h).2 hle
  · exact lotComplete_runs
  · exact stealRecovery_over
  · exact stealRecovery_begun
  · intro hmine hend
    exact ⟨nodeKill_elsewhere hmine hend, fun hr hs _ => nodeKill_running hmine hr hs⟩
  · exact postedAbort_ends
  · intro ht he
    show execPostedAbort core slot s = _
    unfold execPostedAbort
    dsimp only
    rw [show (s.ctxOf core slot).task = some t from ht]
    dsimp only
    rw [if_neg (by rw [show (s.ctxOf core slot).endNow = false from he]; simp)]
  · intro r hr hs ht hrun
    exact exec_postedFault hr hs ht hrun
  · intro hle ht hs
    show execStallLimit core slot s = _
    unfold execStallLimit
    dsimp only
    rw [if_pos ⟨hle, by rw [show (s.ctxOf core slot).task = some t from ht]; rfl, by rw [show (s.ctxOf core slot).stopped = none from hs]; rfl⟩]
    rfl
  · intro hlt
    show execStallLimit core slot s = _
    unfold execStallLimit
    dsimp only
    rw [if_neg fun h => absurd h.1 (Nat.not_le.mpr hlt)]
  · intro at' l hy hdue
    show execYieldExpiry core slot s = _
    unfold execYieldExpiry
    dsimp only
    rw [show (s.ctxOf core slot).yieldTo = some (at', l) from hy]
    dsimp only
    rw [if_pos hdue]

end Sys2Proof.Machine
end

section
/-! ## O36: dispatch and splits -/
namespace Sys2Proof.Machine

/-! ### A continuation that comes back into a slot -/

/-- Tasks, nodes and pool are as before, and the slot holds the task it held. -/
structure State.KeepsTaskIn (core slot : Nat) (σ τ : State) : Prop where
  kept : σ.KeepsTasks τ
  task : (τ.ctxOf core slot).task = (σ.ctxOf core slot).task

namespace State.KeepsTaskIn
variable {core slot : Nat} {σ τ ρ : State}

theorem refl (σ : State) : State.KeepsTaskIn core slot σ σ := ⟨.refl σ, rfl⟩

theorem trans (h : State.KeepsTaskIn core slot σ τ) (g : State.KeepsTaskIn core slot τ ρ) : State.KeepsTaskIn core slot σ ρ :=
  ⟨h.kept.trans g.kept, g.task.trans h.task⟩

theorem foldl {β : Type} {f : State → β → State} (h : ∀ (σ : State) b, State.KeepsTaskIn core slot σ (f σ b)) (l : List β) (σ : State) :
    State.KeepsTaskIn core slot σ (l.foldl f σ) := by
  induction l generalizing σ with
  | nil => exact .refl σ
  | cons b l ih => exact (h σ b).trans (ih _)

/-- A step that leaves the contexts alone. -/
theorem of (h : σ.KeepsTasks τ) (hc : τ.ctxs = σ.ctxs) : State.KeepsTaskIn core slot σ τ :=
  ⟨h, congrArg (fun x => (State.ctxOf { σ with ctxs := x } core slot).task) hc⟩

theorem setCtx (σ : State) (c : Ctx) (h : c.task = (σ.ctxOf core slot).task) : State.KeepsTaskIn core slot σ (σ.setCtx core slot c) :=
  ⟨σ.keepsTasks_setCtx .., (congrArg Ctx.task (State.ctxOf_setCtx_same ..)).trans h⟩

end State.KeepsTaskIn

theorem Ctx.deliverReg_task (c : Ctx) (n : Nat) (v : Word) : (c.deliverReg n v).task = c.task := by
  have hs : (c.setS n v).task = c.task := by
    unfold Ctx.setS
    split <;> rfl
  unfold Ctx.deliverReg
  dsimp only
  split
  · exact hs
  · exact hs

theorem Area.ctxAt_task (a : Area) (old : Ctx) (t abase wbase : Nat) : (a.ctxAt old t abase wbase).task = some t := by
  unfold Area.ctxAt
  dsimp only
  generalize hc : ({ a.ctx with abase := abase, wbase := wbase, task := some t, stopped := none, retryAt := none, stall := 0, fault := old.fault, stallLim := old.stallLim, stopping := none, gateStall := none } : Ctx) = c
  have h : c.task = some t := by rw [← hc]
  clear hc
  generalize a.deliver = l
  induction l generalizing c with
  | nil => exact h
  | cons p l ih => exact ih _ ((c.deliverReg_task p.1 p.2).trans h)

theorem State.keepsTaskIn_setCode (core slot : Nat) (σ : State) (c j v : Nat) : State.KeepsTaskIn core slot σ (σ.setCode c j v) := .of ⟨rfl, rfl, rfl, rfl⟩ rfl

theorem State.keepsTaskIn_holdSpilled (σ : State) (core slot t : Nat) : State.KeepsTaskIn core slot σ (σ.holdSpilled core t) := by
  unfold State.holdSpilled
  refine .foldl (fun σ p => ?_) _ σ
  split
  · exact .of ⟨rfl, rfl, rfl, rfl⟩ rfl
  · exact .refl σ

theorem State.keepsTaskIn_aWrite (σ : State) (core slot off : Nat) (bs : List Byte) : State.KeepsTaskIn core slot σ (σ.aWrite core slot off bs) := by
  unfold State.aWrite
  extract_lets c l τ
  have h : State.KeepsTaskIn core slot σ τ := .of ⟨rfl, rfl, rfl, rfl⟩ rfl
  exact h.trans (.setCtx _ _ rfl)

theorem State.loadArea_spec (σ : State) (core slot t abase wbase : Nat) (a : Area) :
    σ.KeepsTasks (σ.loadArea core slot t abase wbase a) ∧ ((σ.loadArea core slot t abase wbase a).ctxOf core slot).task = some t := by
  unfold State.loadArea
  extract_lets c σ₁ c₁ σ₂ σ₃ σ₄ tk seed σ₅
  have h₀ : State.KeepsTaskIn core slot (σ.setCtx core slot c) σ₁ := .of ⟨rfl, rfl, rfl, rfl⟩ rfl
  have h₂ : State.KeepsTaskIn core slot σ₁ σ₂ := .setCtx _ _ rfl
  have h₃ : State.KeepsTaskIn core slot σ₂ σ₃ := .foldl (fun σ (p : Nat × Byte) => σ.keepsTaskIn_aWrite core slot p.1 [p.2]) _ _
  have h₅ : State.KeepsTaskIn core slot σ₃ σ₅ := .of ⟨rfl, rfl, rfl, rfl⟩ rfl
  have h₆ : State.KeepsTaskIn core slot σ₅ (σ₅.reclaim core slot t) := .foldl (fun σ j => State.keepsTaskIn_setCode core slot σ core j slot) _ _
  have h := ((((h₀.trans h₂).trans h₃).trans h₅).trans h₆).trans (State.keepsTaskIn_holdSpilled _ core slot t)
  refine ⟨(σ.keepsTasks_setCtx core slot c).trans h.kept, h.task.trans ?_⟩
  rw [State.ctxOf_setCtx_same]
  exact a.ctxAt_task ..

theorem State.keepsTaskIn_bindFrag (σ : State) (core slot t : Nat) (a : Area) (k : Nat) : State.KeepsTaskIn core slot σ (σ.bindFrag core slot t a k) := by
  unfold State.bindFrag
  dsimp only
  split
  · refine State.KeepsTaskIn.trans ?_ (State.KeepsTaskIn.foldl (fun τ l => ?_) _ _)
    · exact .of ⟨rfl, rfl, rfl, rfl⟩ rfl
    · exact .of ⟨rfl, rfl, rfl, rfl⟩ rfl
  · exact .refl σ

theorem State.keepsTaskIn_bindUnits (σ : State) (core slot t : Nat) (a : Area) : State.KeepsTaskIn core slot σ (σ.bindUnits core slot t a) := by
  unfold State.bindUnits
  refine .trans (.foldl (fun σ k => σ.keepsTaskIn_bindFrag core slot t a k) _ σ) (.foldl (fun σ n => ?_) _ _)
  unfold State.bindCopy
  dsimp only
  split
  · exact .of ⟨rfl, rfl, rfl, rfl⟩ rfl
  · exact .refl σ

theorem State.keepsTaskIn_moveWaits (σ : State) (core slot old : Nat) (a : Area) : State.KeepsTaskIn core slot σ (σ.moveWaits core slot old a) :=
  .setCtx _ _ rfl

theorem State.keepsTaskIn_firstCheck (σ : State) (core slot : Nat) : State.KeepsTaskIn core slot σ ((σ.takeSnapshot core slot).writeCheck core slot) := by
  have h : State.KeepsTaskIn core slot (σ.takeSnapshot core slot) ((σ.takeSnapshot core slot).writeCheck core slot) := by
    refine .of (State.keepsTasks_writeCheck ..) ?_
    obtain ⟨_, _, _, _, he⟩ := (σ.takeSnapshot core slot).writeCheck_shape core slot
    rw [he]
  exact (State.KeepsTaskIn.setCtx σ { σ.ctxOf core slot with snap := σ.snapshot core slot } rfl).trans h

theorem State.resume_spec (σ : State) (core slot t abase wbase : Nat) :
    ((σ.resume core slot t abase wbase).ctxOf core slot).task = some t ∧ ((σ.resume core slot t abase wbase).taskOf t).state = .running
      ∧ ((σ.resume core slot t abase wbase).taskOf t).cont = none ∧ (σ.resume core slot t abase wbase).pool = σ.pool := by
  unfold State.resume
  extract_lets a tk σ₁ σ₂ σ₃
  have ⟨hk, ht⟩ := σ₁.loadArea_spec core slot t abase wbase a
  have h₂ : State.KeepsTaskIn core slot (σ₁.loadArea core slot t abase wbase a) σ₂ := (State.keepsTaskIn_bindUnits _ core slot t a).trans (State.keepsTaskIn_moveWaits _ core slot _ a)
  have h₃ : State.KeepsTaskIn core slot σ₂ σ₃ := by
    unfold σ₃
    split
    · exact σ₂.keepsTaskIn_firstCheck core slot
    · exact .refl σ₂
  have hall := h₂.trans h₃
  clear_value σ₃
  refine ⟨hall.task.trans ht, ?_, ?_, hall.kept.pool.trans hk.pool⟩
  · rw [State.taskOf_setTask_same]
  · rw [State.taskOf_setTask_same]

theorem State.cancelPosted_spec (σ : State) (core slot t : Nat) :
    (∃ p, (σ.cancelPosted core slot t).ctxOf core slot = { σ.ctxOf core slot with postedAbort := p }) ∧ (σ.cancelPosted core slot t).tasks = σ.tasks
      ∧ (σ.cancelPosted core slot t).pool = σ.pool := by
  unfold State.cancelPosted
  split
  · exact ⟨⟨some 0, State.ctxOf_setCtx_same ..⟩, rfl, rfl⟩
  · exact ⟨⟨(σ.ctxOf core slot).postedAbort, rfl⟩, rfl, rfl⟩

theorem State.poolDel_not_mem (σ : State) (t : Nat) : t ∉ (σ.poolDel t).pool := by
  unfold State.poolDel
  simp

/-! ### A range task that begins -/

theorem State.startTask_spec (σ : State) (core slot t a w : Nat) {tk : Task} {nd : Node} (htk : σ.taskOf t = tk) (hnd : σ.nodeOf tk.node = nd) :
    (∃ old snap, (σ.startTask core slot t a w).ctxOf core slot = { lotCtx old nd t tk.next with snap := snap })
      ∧ (σ.startTask core slot t a w).taskOf t = { tk with state := .running, next := tk.next + 1, core := some core, slot := slot, lot := tk.next }
      ∧ (∀ x, x ≠ t → (σ.startTask core slot t a w).taskOf x = σ.taskOf x)
      ∧ (σ.startTask core slot t a w).pool = σ.pool ∧ (σ.startTask core slot t a w).nextTask = σ.nextTask := by
  unfold State.startTask
  extract_lets nd' c σ₁
  have h : σ.KeepsTasks (σ₁.clearWindows core slot) := ⟨rfl, rfl, rfl, rfl⟩
  generalize σ₁.clearWindows core slot = τ at h
  rw [show (σ₁.taskOf t).next = tk.next from congrArg Task.next htk]
  obtain ⟨⟨snap, hc⟩, hts, _, hp, hx⟩ := τ.startLot_spec core slot t tk.next
  rw [h.taskOf, htk] at hc hts
  rw [h.nodeOf, hnd] at hc
  have ht (x : Nat) : (τ.startLot core slot t tk.next).taskOf x = if x = t then { tk with state := .running, next := tk.next + 1, core := some core, slot := slot, lot := tk.next } else σ.taskOf x := by
    rw [← h.taskOf x]
    exact (congrArg (fun l : Tbl Task => l.get {} x) hts).trans (Tbl.get_set ..)
  refine ⟨⟨_, snap, hc⟩, (ht t).trans (if_pos rfl), fun x hx => (ht x).trans (if_neg hx), hp.trans h.pool, hx.trans h.nextTask⟩

section Dispatch
variable {s : State} {core slot : Nat} (hcore : core < 32) (hslot : slot < 4)
  (hfree : (s.ctxOf core slot).task = none ∧ (s.coreOf core).enabled = true ∧ (s.coreOf core).leaving = none)
include hcore hslot hfree

theorem exec_taskDispatch_free : exec (.taskDispatch core slot) s =
    match s.firstTake core slot true s.pool with
    | some (t, a, w) =>
      if ((s.areaOf t).bind fun base => s.areaBad base ((s.taskOf t).cont.getD {})).isSome then .next (s.reloadFails t)
      else .next ((((s.poolDel t).loadKey core slot (s.nodeOf (s.taskOf t).node).vf).resume core slot t a w).cancelPosted core slot t)
    | none =>
      match s.firstTake core slot false s.pool with
      | some (t, a, w) => .next ((((s.poolDel t).startTask core slot t a w).loadKey core slot (s.nodeOf (s.taskOf t).node).vf).cancelPosted core slot t)
      | none =>
        match bestSplit (s.splittable core) with
        | none => .next s
        | some (t, m, _) => .next ((s.setTask t { s.taskOf t with split := some ((s.taskOf t).next + (m + 1) / 2, core, slot, s.time) }).push (.stealAck t)) := by
  obtain ⟨ht, he, hl⟩ := hfree
  show execTaskDispatch core slot s = _
  unfold execTaskDispatch
  rw [if_neg (by omega), if_neg (by rw [ht, he, hl]; simp)] <;> rfl

theorem taskDispatch_continuation {t a w : Nat} (hfirst : s.firstTake core slot true s.pool = some (t, a, w))
    (hbad : ((s.areaOf t).bind fun base => s.areaBad base ((s.taskOf t).cont.getD {})).isSome = false) :
    ∃ u, exec (.taskDispatch core slot) s = .next u ∧ (u.ctxOf core slot).task = some t ∧ (u.taskOf t).state = .running ∧ t ∉ u.pool
      ∧ (u.taskOf t).cont = none := by
  refine ⟨?u, ?eq, ?_⟩
  case eq =>
    rw [exec_taskDispatch_free hcore hslot hfree, hfirst]
    dsimp only
    rw [if_neg (by rw [hbad]; simp)]
  obtain ⟨htask, hrun, hcont, hp⟩ := ((s.poolDel t).loadKey core slot (s.nodeOf (s.taskOf t).node).vf).resume_spec core slot t a w
  generalize State.resume _ core slot t a w = σ at htask hrun hcont hp
  obtain ⟨⟨p, hc⟩, ht, hq⟩ := σ.cancelPosted_spec core slot t
  have htt : (σ.cancelPosted core slot t).taskOf t = σ.taskOf t := congrArg (fun l : Tbl Task => l.get {} t) ht
  refine ⟨by rw [hc]; exact htask, by rw [htt, hrun], ?_, by rw [htt, hcont]⟩
  rw [hq, hp]
  exact s.poolDel_not_mem t

theorem taskDispatch_range {t a w : Nat} (hnone : s.firstTake core slot true s.pool = none) (hfirst : s.firstTake core slot false s.pool = some (t, a, w)) :
    ∃ u, exec (.taskDispatch core slot) s = .next u
      ∧ (∃ old snap p, u.ctxOf core slot = { lotCtx old (s.nodeOf (s.taskOf t).node) t (s.taskOf t).next with snap := snap, postedAbort := p })
      ∧ u.taskOf t = { s.taskOf t with state := .running, next := (s.taskOf t).next + 1, core := some core, slot := slot, lot := (s.taskOf t).next }
      ∧ t ∉ u.pool := by
  refine ⟨?u, ?eq, ?_⟩
  case eq =>
    rw [exec_taskDispatch_free hcore hslot hfree, hnone]
    dsimp only
    rw [hfirst]
  obtain ⟨⟨old, snap, hc⟩, ht, _, hp, _⟩ := (s.poolDel t).startTask_spec core slot t a w (tk := s.taskOf t) (nd := s.nodeOf (s.taskOf t).node) rfl rfl
  generalize State.startTask _ core slot t a w = σ at hc ht hp
  obtain ⟨⟨p, hc'⟩, ht', hq⟩ := (σ.loadKey core slot (s.nodeOf (s.taskOf t).node).vf).cancelPosted_spec core slot t
  refine ⟨⟨old, snap, p, ?_⟩, ?_, ?_⟩
  · rw [hc', show (σ.loadKey core slot (s.nodeOf (s.taskOf t).node).vf).ctxOf core slot = σ.ctxOf core slot from rfl, hc]
  · exact (congrArg (fun l : Tbl Task => l.get {} t) ht').trans ht
  · rw [hq, show (σ.loadKey core slot (s.nodeOf (s.taskOf t).node).vf).pool = σ.pool from rfl, hp]
    exact s.poolDel_not_mem t

end Dispatch

/-! ### Splits -/

/-- The state in which the owner has given the upper part of its range away, to task `n`. -/
def State.parted (s : State) (t q : Nat) : State :=
  let tk := s.taskOf t
  { (s.setTask s.nextTask { node := tk.node, next := q, hi := tk.hi }).setTask t { tk with hi := q, split := none } with nextTask := s.nextTask + 1 }

theorem State.parted_new (s : State) {t q : Nat} (hne : t ≠ s.nextTask) :
    (s.parted t q).taskOf s.nextTask = { node := (s.taskOf t).node, next := q, hi := (s.taskOf t).hi } :=
  (Tbl.get_set_ne _ _ _ (Ne.symm hne)).trans (Tbl.get_set_same ..)

theorem State.parted_old (s : State) (t q : Nat) : (s.parted t q).taskOf t = { s.taskOf t with hi := q, split := none } := Tbl.get_set_same ..

/-- The asker's slot can take the part it asked for. -/
def State.TakesPart (s : State) (core slot : Nat) (nd : Node) : Prop :=
  (s.ctxOf core slot).task = none ∧ (s.coreOf core).leaving = none ∧ s.mayRun core nd.vf = true ∧ Tbl.get s.frozen 0 nd.vf < 2
    ∧ (s.placeWindows core slot (nd.agran * 65536) nd.wrows).isSome = true

theorem exec_stealAck_split {s : State} {t q core slot tm : Nat} (hs : (s.taskOf t).split = some (q, core, slot, tm)) :
    exec (.stealAck t) s = match (if !((s.ctxOf core slot).task.isNone && (s.coreOf core).leaving.isNone && s.mayRun core (s.nodeOf (s.taskOf t).node).vf
        && decide (Tbl.get s.frozen (0 : Nat) (s.nodeOf (s.taskOf t).node).vf < 2)) then none
      else s.placeWindows core slot ((s.nodeOf (s.taskOf t).node).agran * 65536) (s.nodeOf (s.taskOf t).node).wrows) with
    | some (a, w) => .next (((s.parted t q).startTask core slot s.nextTask a w).loadKey core slot (s.nodeOf (s.taskOf t).node).vf)
    | none => .next ((s.parted t q).poolAdd s.nextTask) := by
  show execStealAck t s = _
  unfold execStealAck
  dsimp only
  rw [hs] <;> rfl

section Split
variable {s : State} {t q core slot tm : Nat} (hs : (s.taskOf t).split = some (q, core, slot, tm)) (hne : t ≠ s.nextTask)
include hs

theorem stealAck_takes {a w : Nat} (h : s.TakesPart core slot (s.nodeOf (s.taskOf t).node))
    (hw : s.placeWindows core slot ((s.nodeOf (s.taskOf t).node).agran * 65536) (s.nodeOf (s.taskOf t).node).wrows = some (a, w)) :
    exec (.stealAck t) s = .next (((s.parted t q).startTask core slot s.nextTask a w).loadKey core slot (s.nodeOf (s.taskOf t).node).vf) := by
  obtain ⟨ht, hl, hm, hf, _⟩ := h
  rw [exec_stealAck_split hs, ht, hl, hm, decide_eq_true hf, hw]
  rfl

theorem stealAck_pooled (h : ¬ s.TakesPart core slot (s.nodeOf (s.taskOf t).node)) :
    exec (.stealAck t) s = .next ((s.parted t q).poolAdd s.nextTask) := by
  have hnone : (if !((s.ctxOf core slot).task.isNone && (s.coreOf core).leaving.isNone && s.mayRun core (s.nodeOf (s.taskOf t).node).vf
        && decide (Tbl.get s.frozen (0 : Nat) (s.nodeOf (s.taskOf t).node).vf < 2)) then none
      else s.placeWindows core slot ((s.nodeOf (s.taskOf t).node).agran * 65536) (s.nodeOf (s.taskOf t).node).wrows) = none := by
    split
    next => rfl
    next hall =>
      rw [Option.eq_none_iff_forall_ne_some]
      intro x hx
      simp only [Bool.not_eq_true, Bool.not_eq_false', Bool.and_eq_true, Option.isNone_iff_eq_none, decide_eq_true_eq] at hall
      obtain ⟨⟨⟨ht, hl⟩, hm⟩, hf⟩ := hall
      exact h ⟨ht, hl, hm, hf, by rw [hx]; rfl⟩
  rw [exec_stealAck_split hs, hnone]

include hne

theorem stealAck_spec : ∃ u, exec (.stealAck t) s = .next u ∧ (u.taskOf t).hi = q ∧ (u.taskOf t).split = none
    ∧ (u.taskOf s.nextTask).node = (s.taskOf t).node ∧ (u.taskOf s.nextTask).hi = (s.taskOf t).hi ∧ u.nextTask = s.nextTask + 1
    ∧ (s.TakesPart core slot (s.nodeOf (s.taskOf t).node) → (u.ctxOf core slot).task = some s.nextTask ∧ (u.taskOf s.nextTask).next = q + 1
        ∧ (u.ctxOf core slot).lotno = BitVec.ofNat 64 q)
    ∧ (¬ s.TakesPart core slot (s.nodeOf (s.taskOf t).node) → s.nextTask ∈ u.pool ∧ (u.taskOf s.nextTask).next = q) := by
  by_cases h : s.TakesPart core slot (s.nodeOf (s.taskOf t).node)
  · obtain ⟨⟨a, w⟩, hw⟩ := Option.isSome_iff_exists.mp h.2.2.2.2
    refine ⟨_, stealAck_takes hs h hw, ?_⟩
    obtain ⟨⟨old, snap, hc⟩, hn, ho, _, hx⟩ := (s.parted t q).startTask_spec core slot s.nextTask a w (s.parted_new hne) rfl
    have ho' := (ho t hne).trans (s.parted_old t q)
    generalize (s.parted t q).startTask core slot s.nextTask a w = σ at hc hn ho' hx
    have hl (x : Nat) : (σ.loadKey core slot (s.nodeOf (s.taskOf t).node).vf).taskOf x = σ.taskOf x := rfl
    have hlc : (σ.loadKey core slot (s.nodeOf (s.taskOf t).node).vf).ctxOf core slot = σ.ctxOf core slot := rfl
    rw [hl, hl, hlc, ho', hn, hc]
    exact ⟨rfl, rfl, rfl, rfl, hx, fun _ => ⟨rfl, rfl, rfl⟩, fun hn => absurd h hn⟩
  · refine ⟨_, stealAck_pooled hs h, ?_⟩
    have hp (x : Nat) : ((s.parted t q).poolAdd s.nextTask).taskOf x = (s.parted t q).taskOf x := rfl
    rw [hp, hp, s.parted_old, s.parted_new hne]
    exact ⟨rfl, rfl, rfl, rfl, rfl, fun ht => absurd ht h, fun _ => ⟨List.mem_append_right _ (List.mem_singleton_self _), rfl⟩⟩

end Split

/-- Settles O36: dispatch takes the oldest task that the slot can take, and a split parts a range at the place it proposed. -/
theorem taskDispatch : Obligations.TaskDispatch := by
  unfold Obligations.TaskDispatch
  intro s core slot t a w hcore hslot tk nd free bad
  refine ⟨?_, ?_, ?_, ?_, ?_, ?_, ?_, rfl, ?_⟩
  · intro ht
    show execTaskDispatch core slot s = _
    unfold execTaskDispatch
    rw [if_neg (by omega), if_pos (.inl ht)]
  · intro hfree hfirst hbad
    rw [exec_taskDispatch_free hcore hslot hfree, hfirst]
    exact if_pos hbad
  · intro hfree hfirst hbad
    exact taskDispatch_continuation hcore hslot hfree hfirst hbad
  · intro hfree hnone hfirst
    obtain ⟨u, he, ⟨old, snap, p, hc⟩, ht, hp⟩ := taskDispatch_range hcore hslot hfree hnone hfirst
    refine ⟨u, he, ?_⟩
    rw [hc, ht]
    exact ⟨⟨rfl, rfl, rfl, rfl, rfl, fun r => ite_self _, fun r => rfl, fun f => rfl, rfl, rfl, rfl⟩, rfl, rfl, rfl, hp⟩
  · intro hfree hnone hnone' hbest
    rw [exec_taskDispatch_free hcore hslot hfree, hnone]
    dsimp only
    rw [hnone']
    dsimp only
    rw [hbest]
  · intro hfree hnone hnone' m o hbest
    rw [exec_taskDispatch_free hcore hslot hfree, hnone]
    dsimp only
    rw [hnone']
    dsimp only
    rw [hbest]
  · intro q tm hs hne
    exact stealAck_spec hs hne
  · intro q c k at' hs
    have he : exec (.stealTimeout t) s = .next (if at' + 20000 ≤ s.time then s.setTask t { tk with split := none } else s) := by
      show execStealTimeout t s = _
      unfold execStealTimeout
      dsimp only
      rw [show (s.taskOf t).split = some (q, c, k, at') from hs]
      rfl
    refine ⟨fun h => ?_, fun h => ?_⟩
    · rw [he, if_pos h]
    · rw [he, if_neg (Nat.not_le.mpr h)]

end Sys2Proof.Machine
end

section
/-! ## O38: services of firmware -/
namespace Sys2Proof.Machine

/-! ### Spilled slabs in a context area -/

theorem State.areaOf_congr {σ τ : State} {t : Nat} (ha : (τ.taskOf t).areaAt = (σ.taskOf t).areaAt) (hi : (τ.taskOf t).ctxId = (σ.taskOf t).ctxId)
    (hn : (τ.taskOf t).node = (σ.taskOf t).node) (hnodes : τ.nodes = σ.nodes) (hbar : τ.bar = σ.bar) : τ.areaOf t = σ.areaOf t := by
  have hreg (vf off : Nat) : τ.reg vf off = σ.reg vf off := by
    unfold State.reg
    rw [hbar]
  unfold State.areaOf State.areaPa State.nodeOf
  dsimp only
  rw [ha, hi, hn, hnodes]
  simp only [hreg]

theorem State.areaOf_setSpilled (σ : State) (y x : Nat) (sp : Tbl (List (BitVec 32))) :
    (σ.setTask y { σ.taskOf y with spilled := sp }).areaOf x = σ.areaOf x := by
  have h : ∃ sp', (σ.setTask y { σ.taskOf y with spilled := sp }).taskOf x = { σ.taskOf x with spilled := sp' } := by
    by_cases hx : x = y
    · subst hx
      exact ⟨sp, State.taskOf_setTask_same ..⟩
    · exact ⟨(σ.taskOf x).spilled, State.taskOf_setTask_ne _ _ hx⟩
  obtain ⟨sp', h⟩ := h
  exact State.areaOf_congr (by rw [h]) (by rw [h]) (by rw [h]) rfl rfl

theorem State.areaOf_areaPut (σ : State) (l : List (Nat × Byte)) (x : Nat) : (σ.areaPut l).areaOf x = σ.areaOf x := by
  obtain ⟨_, _, _, _, h⟩ := σ.areaPut_shape l
  rw [h]
  rfl

theorem State.areaPut_memByte_of_unique (σ : State) (l : List (Nat × Byte)) (a : Nat) (v : Byte) (h : (a, v) ∈ l) (hu : ∀ v', (a, v') ∈ l → v' = v)
    (ha : a < physLimit) : (σ.areaPut l).memByte a = v := by
  unfold State.areaPut
  by_cases he : σ.memByte a = v
  · rw [State.writeList_memByte_ne, he]
    intro p hp e
    obtain ⟨hm, hp⟩ := List.mem_filter.mp hp
    have hv : p.2 = v := hu p.2 (e ▸ hm)
    simp only [Bool.and_eq_true, decide_eq_true_eq] at hp
    exact hp.2 (by rw [e, he, hv])
  · refine σ.writeList_memByte_of_unique _ a v (List.mem_filter.mpr ⟨h, by simp [ha, he]⟩) fun v' hv' => hu v' (List.mem_filter.mp hv').1

/-- The byte of the spill bitmap that stands for the eight slabs from `8 * i` on. -/
def spillByte (sp : Tbl (List (BitVec 32))) (i : Nat) : Nat :=
  (List.range 8).foldl (fun n k => n + if (Tbl.find? sp (8 * i + k)).isSome then 2 ^ k else 0) 0

theorem mem_spillBytes {base : Nat} {sp : Tbl (List (BitVec 32))} {p : Nat × Byte} :
    p ∈ fieldBytes base (spillFields sp) ↔ ∃ i < 256, p = (base + (0x1F00 + i), BitVec.ofNat 8 (spillByte sp i)) := by
  have hb (a v : Nat) : bytesAt a 1 v = [(a, BitVec.ofNat 8 v)] := by simp [bytesAt]
  unfold fieldBytes spillFields
  rw [List.mem_flatMap]
  constructor
  · rintro ⟨f, hf, hp⟩
    obtain ⟨i, hi, rfl⟩ := List.mem_map.mp hf
    rw [hb, List.mem_singleton] at hp
    exact ⟨i, List.mem_range.mp hi, hp⟩
  · rintro ⟨i, hi, rfl⟩
    refine ⟨_, List.mem_map.mpr ⟨i, List.mem_range.mpr hi, rfl⟩, ?_⟩
    rw [hb, List.mem_singleton]
    rfl

theorem mem_slabBytes {base slab : Nat} {l : List (BitVec 32)} {p : Nat × Byte} :
    p ∈ slabBytes base slab l ↔ ∃ e < l.length, ∃ i < 4, p = (base + 0x30000 + 4096 * slab + 4 * e + i, BitVec.ofNat 8 ((l.getD e 0).toNat / 256 ^ i)) := by
  unfold slabBytes bytesAt
  simp only [List.mem_flatMap, List.mem_map, List.mem_range, Prod.exists]
  constructor
  · rintro ⟨x, e, hx, i, hi, rfl⟩
    obtain ⟨he, hxe⟩ := List.mem_zipIdx' hx
    refine ⟨e, he, i, hi, ?_⟩
    rw [hxe, List.getD_eq_getElem _ _ he]
  · rintro ⟨e, he, i, hi, rfl⟩
    refine ⟨l[e], e, ?_, i, hi, ?_⟩
    · rw [List.mem_zipIdx_iff_getElem?]
      exact List.getElem?_eq_getElem he
    · rw [List.getD_eq_getElem _ _ he]

theorem bitmap_testBit : ∀ b₀ b₁ b₂ b₃ b₄ b₅ b₆ b₇ : Bool, ∀ k : Fin 8,
    ((0 + (if b₀ then 1 else 0) + (if b₁ then 2 else 0) + (if b₂ then 4 else 0) + (if b₃ then 8 else 0) + (if b₄ then 16 else 0) + (if b₅ then 32 else 0)
      + (if b₆ then 64 else 0) + if b₇ then 128 else 0).testBit k) = [b₀, b₁, b₂, b₃, b₄, b₅, b₆, b₇].getD k false := by decide

theorem spillByte_bit (sp : Tbl (List (BitVec 32))) (slab : Nat) :
    (BitVec.ofNat 8 (spillByte sp (slab / 8))).getLsbD (slab % 8) = (Tbl.find? sp slab).isSome := by
  have hk : slab % 8 < 8 := Nat.mod_lt _ (by decide)
  have h := bitmap_testBit (Tbl.find? sp (8 * (slab / 8) + 0)).isSome (Tbl.find? sp (8 * (slab / 8) + 1)).isSome (Tbl.find? sp (8 * (slab / 8) + 2)).isSome
    (Tbl.find? sp (8 * (slab / 8) + 3)).isSome (Tbl.find? sp (8 * (slab / 8) + 4)).isSome (Tbl.find? sp (8 * (slab / 8) + 5)).isSome
    (Tbl.find? sp (8 * (slab / 8) + 6)).isSome (Tbl.find? sp (8 * (slab / 8) + 7)).isSome ⟨slab % 8, hk⟩
  rw [BitVec.getLsbD_ofNat, decide_eq_true hk, Bool.true_and]
  refine Eq.trans h ?_
  have hs : slab = 8 * (slab / 8) + slab % 8 := (Nat.div_add_mod slab 8).symm
  conv_rhs => rw [hs]
  dsimp only
  generalize slab / 8 = q at *
  generalize slab % 8 = k at *
  interval_cases k <;> rfl

/-- A slab that is spilled for a task. -/
theorem State.spillTo_spec (σ : State) (y slab : Nat) (l : List (BitVec 32)) :
    (σ.spillTo y slab l).tasks = Tbl.set σ.tasks y { σ.taskOf y with spilled := Tbl.set (σ.taskOf y).spilled slab l }
      ∧ (σ.spillTo y slab l).cbuf = σ.cbuf ∧ (σ.spillTo y slab l).accown = σ.accown ∧ (∀ x, (σ.spillTo y slab l).areaOf x = σ.areaOf x)
      ∧ (∀ pa, (∀ b, σ.areaOf y = some b → (pa < b + 0x1F00 ∨ b + 0x2000 ≤ pa) ∧ (pa < b + 0x30000 + 4096 * slab ∨ b + 0x30000 + 4096 * slab + 4 * l.length ≤ pa)) →
          (σ.spillTo y slab l).memByte pa = σ.memByte pa)
      ∧ (∀ b, σ.areaOf y = some b → slab < 2048 → l.length ≤ 1024 → b + 0x830000 ≤ physLimit →
          ((σ.spillTo y slab l).memByte (b + 0x1F00 + slab / 8)).getLsbD (slab % 8) = true
          ∧ ∀ e < l.length, ∀ i < 4, (σ.spillTo y slab l).memByte (b + 0x30000 + 4096 * slab + 4 * e + i) = BitVec.ofNat 8 ((l.getD e 0).toNat / 256 ^ i)) := by
  unfold State.spillTo
  dsimp only
  have harea (x : Nat) := σ.areaOf_setSpilled y x (Tbl.set (σ.taskOf y).spilled slab l)
  rw [harea]
  generalize hτ : σ.setTask y { σ.taskOf y with spilled := Tbl.set (σ.taskOf y).spilled slab l } = τ at harea
  have ht : τ.tasks = Tbl.set σ.tasks y { σ.taskOf y with spilled := Tbl.set (σ.taskOf y).spilled slab l } := by rw [← hτ]; rfl
  have hc : τ.cbuf = σ.cbuf := by rw [← hτ]; rfl
  have ho : τ.accown = σ.accown := by rw [← hτ]; rfl
  have hm (a : Nat) : τ.memByte a = σ.memByte a := by rw [← hτ]; rfl
  clear hτ
  cases ha : σ.areaOf y with
  | none => exact ⟨ht, hc, ho, harea, fun pa _ => hm pa, fun b hb => by cases hb⟩
  | some base =>
    dsimp only
    generalize hsp : Tbl.set (σ.taskOf y).spilled slab l = sp
    have hplace {p : Nat × Byte} (hp : p ∈ fieldBytes base (spillFields sp) ++ slabBytes base slab l) :
        (∃ i < 256, p = (base + (0x1F00 + i), BitVec.ofNat 8 (spillByte sp i)))
          ∨ ∃ e < l.length, ∃ i < 4, p = (base + 0x30000 + 4096 * slab + 4 * e + i, BitVec.ofNat 8 ((l.getD e 0).toNat / 256 ^ i)) := by
      rcases List.mem_append.mp hp with h | h
      · exact .inl (mem_spillBytes.mp h)
      · exact .inr (mem_slabBytes.mp h)
    have hput := τ.areaPut_shape (fieldBytes base (spillFields sp) ++ slabBytes base slab l)
    obtain ⟨_, _, _, _, hshape⟩ := hput
    refine ⟨by rw [hshape]; exact hsp ▸ ht, by rw [hshape]; exact hc, by rw [hshape]; exact ho, fun x => (State.areaOf_areaPut ..).trans (harea x), ?_, ?_⟩
    · intro pa hpa
      obtain ⟨h₁, h₂⟩ := hpa base rfl
      refine (State.areaPut_memByte_ne _ _ pa fun p hp => ?_).trans (hm pa)
      rcases hplace hp with ⟨i, hi, rfl⟩ | ⟨e, he, i, hi, rfl⟩
      · dsimp only
        omega
      · dsimp only
        omega
    · intro b hb hslab hlen htop
      obtain rfl : base = b := Option.some.inj hb
      constructor
      · have hat : (base + 0x1F00 + slab / 8, BitVec.ofNat 8 (spillByte sp (slab / 8))) ∈ fieldBytes base (spillFields sp) ++ slabBytes base slab l :=
          List.mem_append_left _ (mem_spillBytes.mpr ⟨slab / 8, by omega, by rw [Nat.add_assoc]⟩)
        rw [State.areaPut_memByte_of_unique τ _ _ _ hat ?_ (by omega), spillByte_bit, ← hsp, Tbl.find?_set_same]
        · rfl
        · intro v hv
          rcases hplace hv with ⟨i, hi, he⟩ | ⟨e, he, i, hi, hx⟩
          · obtain ⟨ha, rfl⟩ := Prod.mk.inj he
            rw [show slab / 8 = i by omega]
          · have := (Prod.mk.inj hx).1
            omega
      · intro e he i hi
        have hat : (base + 0x30000 + 4096 * slab + 4 * e + i, BitVec.ofNat 8 ((l.getD e 0).toNat / 256 ^ i)) ∈ fieldBytes base (spillFields sp) ++ slabBytes base slab l :=
          List.mem_append_right _ (mem_slabBytes.mpr ⟨e, he, i, hi, rfl⟩)
        refine State.areaPut_memByte_of_unique τ _ _ _ hat ?_ (by omega)
        intro v hv
        rcases hplace hv with ⟨j, hj, hx⟩ | ⟨e', he', j, hj, hx⟩
        · have := (Prod.mk.inj hx).1
          omega
        · obtain ⟨ha, rfl⟩ := Prod.mk.inj hx
          obtain ⟨rfl, rfl⟩ : e' = e ∧ j = i := by omega
          rfl

/-- A slab that is spilled for a task no longer. -/
theorem State.unspill_spec (σ : State) (t slab : Nat) :
    (σ.unspill t slab).tasks = Tbl.set σ.tasks t { σ.taskOf t with spilled := Tbl.del (σ.taskOf t).spilled slab }
      ∧ (σ.unspill t slab).cbuf = σ.cbuf ∧ (σ.unspill t slab).accown = σ.accown
      ∧ (∀ pa, (∀ b, σ.areaOf t = some b → pa < b + 0x1F00 ∨ b + 0x2000 ≤ pa) → (σ.unspill t slab).memByte pa = σ.memByte pa) := by
  unfold State.unspill
  dsimp only
  rw [σ.areaOf_setSpilled t t]
  cases ha : σ.areaOf t with
  | none => exact ⟨rfl, rfl, rfl, fun _ _ => rfl⟩
  | some base =>
    dsimp only
    generalize Tbl.del (σ.taskOf t).spilled slab = sp
    obtain ⟨_, _, _, _, hshape⟩ := (σ.setTask t { σ.taskOf t with spilled := sp }).areaPut_shape (fieldBytes base (spillFields sp))
    refine ⟨by rw [hshape]; rfl, by rw [hshape]; rfl, by rw [hshape]; rfl, fun pa hpa => ?_⟩
    refine (State.areaPut_memByte_ne _ _ pa fun p hp => ?_).trans rfl
    obtain ⟨i, hi, rfl⟩ := mem_spillBytes.mp hp
    have := hpa base rfl
    dsimp only
    omega


/-! ### A slab filled from a list -/

theorem State.cWrites_cElem (core slab : Nat) (l : List (BitVec 32)) (k e : Nat) (σ : State) :
    ((l.zipIdx k).foldl (fun σ p => σ.cWrite core (slab * 4096 + 4 * p.2) p.1) σ).cElem core (slab * 4096 + 4 * e)
      = if k ≤ e ∧ e < k + l.length then l.getD (e - k) 0 else σ.cElem core (slab * 4096 + 4 * e) := by
  induction l generalizing k σ with
  | nil => rw [if_neg (by simp only [List.length_nil]; omega)]; rfl
  | cons v l ih =>
    have hw : (σ.cWrite core (slab * 4096 + 4 * k) v).cElem core (slab * 4096 + 4 * e) = if e = k then v else σ.cElem core (slab * 4096 + 4 * e) := by
      show Tbl.get (Tbl.set σ.cbuf (cKey core (slab * 4096 + 4 * k)) v) 0 (cKey core (slab * 4096 + 4 * e)) = _
      rw [Tbl.get_set]
      refine if_congr ?_ rfl rfl
      unfold cKey
      omega
    rw [List.zipIdx_cons, List.foldl_cons, ih, hw]
    simp only [List.length_cons]
    by_cases he : e = k
    · subst he
      rw [if_neg (by omega), if_pos rfl, if_pos (by omega), Nat.sub_self]
      rfl
    · rw [if_neg he]
      by_cases hin : k + 1 ≤ e ∧ e < k + 1 + l.length
      · rw [if_pos hin, if_pos (by omega), show e - k = (e - (k + 1)) + 1 by omega, List.getD_cons_succ]
      · rw [if_neg hin, if_neg (by omega)]

theorem State.zeroSlab_cElem (σ : State) (core slab : Nat) {e : Nat} (he : e < 1024) : (σ.zeroSlab core slab).cElem core (slab * 4096 + 4 * e) = 0 := by
  have hk : cKey core (slab * 4096 + 4 * e) = core * 2 ^ 21 + slab * 1024 + e := by
    unfold cKey
    omega
  unfold State.cElem
  rw [hk]
  exact zeroSlab_elem (s := σ) (slot := 0) he

theorem State.fillSlab_cElem (σ : State) (core slab : Nat) {l : List (BitVec 32)} (hl : l.length = 1024) {e : Nat} (he : e < 1024) :
    (σ.fillSlab core slab l).cElem core (slab * 4096 + 4 * e) = l.getD e 0 := by
  unfold State.fillSlab
  rw [State.cWrites_cElem, if_pos (by omega)]
  rfl

theorem State.fillSlab_other (σ : State) (core slab : Nat) (l : List (BitVec 32)) :
    (σ.fillSlab core slab l).tasks = σ.tasks ∧ (σ.fillSlab core slab l).nodes = σ.nodes ∧ (σ.fillSlab core slab l).bar = σ.bar
      ∧ (σ.fillSlab core slab l).accown = σ.accown ∧ ∀ a, (σ.fillSlab core slab l).memByte a = σ.memByte a := by
  unfold State.fillSlab
  generalize l.zipIdx = z
  have h : ∀ τ : State, (z.foldl (fun σ p => σ.cWrite core (slab * 4096 + 4 * p.2) p.1) τ).tasks = τ.tasks
      ∧ (z.foldl (fun σ p => σ.cWrite core (slab * 4096 + 4 * p.2) p.1) τ).nodes = τ.nodes
      ∧ (z.foldl (fun σ p => σ.cWrite core (slab * 4096 + 4 * p.2) p.1) τ).bar = τ.bar
      ∧ (z.foldl (fun σ p => σ.cWrite core (slab * 4096 + 4 * p.2) p.1) τ).accown = τ.accown
      ∧ ∀ a, (z.foldl (fun σ p => σ.cWrite core (slab * 4096 + 4 * p.2) p.1) τ).memByte a = τ.memByte a := by
    induction z with
    | nil => exact fun τ => ⟨rfl, rfl, rfl, rfl, fun _ => rfl⟩
    | cons p z ih => exact fun τ => ih (τ.cWrite core (slab * 4096 + 4 * p.2) p.1)
  exact h (σ.zeroSlab core slab)

/-! ### A touched slab is served -/

/-- What the toucher's slab is filled with, and what that leaves of its task and its area. -/
def State.giveSlab (σ : State) (core slab t : Nat) : State :=
  match Tbl.find? (σ.taskOf t).spilled slab with
  | some l => (σ.fillSlab core slab l).unspill t slab
  | none => σ.zeroSlab core slab

theorem State.giveSlab_spec (σ : State) (core slab t : Nat) :
    (∀ x, x ≠ t → (σ.giveSlab core slab t).taskOf x = σ.taskOf x) ∧ (σ.giveSlab core slab t).accown = σ.accown
      ∧ (Tbl.find? (σ.taskOf t).spilled slab = none → ∀ i < 1024, (σ.giveSlab core slab t).cElem core (slab * 4096 + 4 * i) = 0)
      ∧ (∀ l, Tbl.find? (σ.taskOf t).spilled slab = some l → l.length = 1024 → ∀ i < 1024, (σ.giveSlab core slab t).cElem core (slab * 4096 + 4 * i) = l.getD i 0)
      ∧ (∀ pa, (∀ b, σ.areaOf t = some b → pa < b + 0x1F00 ∨ b + 0x2000 ≤ pa) → (σ.giveSlab core slab t).memByte pa = σ.memByte pa) := by
  unfold State.giveSlab
  cases hf : Tbl.find? (σ.taskOf t).spilled slab with
  | none => exact ⟨fun _ _ => rfl, rfl, fun _ i hi => σ.zeroSlab_cElem core slab hi, (by simp), fun _ _ => rfl⟩
  | some l =>
    dsimp only
    obtain ⟨htasks, hnodes, hbar, hacc, hmem⟩ := σ.fillSlab_other core slab l
    have hval (hl : l.length = 1024) {i : Nat} (hi : i < 1024) := σ.fillSlab_cElem core slab hl hi
    generalize σ.fillSlab core slab l = τ at htasks hnodes hbar hacc hmem hval
    have ht (x : Nat) : τ.taskOf x = σ.taskOf x := congrArg (fun l : Tbl Task => l.get {} x) htasks
    have harea : τ.areaOf t = σ.areaOf t := State.areaOf_congr (by rw [ht]) (by rw [ht]) (by rw [ht]) hnodes hbar
    obtain ⟨hut, huc, hua, hum⟩ := τ.unspill_spec t slab
    refine ⟨fun x hx => ?_, hua.trans hacc, (by simp), fun l' hl' hlen i hi => ?_, fun pa hpa => ?_⟩
    · refine Eq.trans ?_ (ht x)
      exact (congrArg (fun l : Tbl Task => l.get {} x) hut).trans (Tbl.get_set_ne _ _ _ hx)
    · obtain rfl : l = l' := Option.some.inj hl'
      refine Eq.trans ?_ (hval hlen hi)
      unfold State.cElem
      rw [huc]
    · rw [← harea] at hpa
      exact (hum pa hpa).trans (hmem pa)

/-- The slab is the slot's now, and a slot that stopped for it goes on. -/
def State.handOver (σ : State) (core slab slot : Nat) : State :=
  let σ : State := { σ.setCode core slab slot with holder := Tbl.del σ.holder (core * 2048 + slab) }
  let c := σ.ctxOf core slot
  if c.stopped = some causeAccForeign ∧ c.fault.detail.toNat = slab then σ.returnTrap core slot 0 else σ

theorem State.handOver_spec (σ : State) (core slab slot : Nat) :
    (σ.handOver core slab slot).tasks = σ.tasks ∧ (σ.handOver core slab slot).cbuf = σ.cbuf
      ∧ (σ.handOver core slab slot).accown = Tbl.set σ.accown (core * 2048 + slab) slot ∧ ∀ a, (σ.handOver core slab slot).memByte a = σ.memByte a := by
  unfold State.handOver
  dsimp only
  split
  · exact ⟨rfl, rfl, rfl, fun _ => rfl⟩
  · exact ⟨rfl, rfl, rfl, fun _ => rfl⟩

/-- A slab that another task holds is spilled for that task and given to the toucher's. -/
theorem State.serveForeign_held {s : State} {core slab slot t y : Nat} (ht : (s.ctxOf core slot).task = some t) (hy : s.slabTask core slab = some y) (hne : y ≠ t)
    (hslot : s.accCode core slab ≠ slot) (hfree : s.accCode core slab ≠ 4) (hw : s.passWrites core slab = false) {done : State}
    (hdone : s.setCore core { s.coreOf core with foreign := (s.coreOf core).foreign.filter fun f => !(decide (f.1 = slab) && decide (f.2.1 = slot)) } = done) :
    s.serveForeign core slab slot = ((done.spillTo y slab (s.slabData core slab)).giveSlab core slab t).handOver core slab slot := by
  unfold State.serveForeign
  have hx : done.slabTask core slab = some y := hdone ▸ hy
  have hd : done.slabData core slab = s.slabData core slab := by rw [← hdone]; rfl
  have hno : ¬ (s.accCode core slab = 4 ∨ s.passWrites core slab = true) := by
    rw [hw]
    simp [hfree]
  dsimp only
  rw [hdone]
  simp only [ht, hx, hd, if_neg hno, if_pos hne, if_neg hslot] <;> rfl


section Foreign
variable {s : State} {core slab slot : Nat}

theorem accForeign_noted (h : (s.coreOf core).foreign.contains (slab, slot, false) = true) : exec (.accForeign core slab slot) s = .next (s.serveForeign core slab slot) := by
  show execAccForeign core slab slot s = _
  unfold execAccForeign
  rw [if_pos h]

theorem accForeign_waits (h : (s.coreOf core).foreign.contains (slab, slot, false) = false) (hw : (s.coreOf core).foreign.contains (slab, slot, true) = true) :
    exec (.accForeign core slab slot) s = .next s := by
  show execAccForeign core slab slot s = _
  unfold execAccForeign
  rw [if_neg (by rw [h]; simp), if_pos hw]

theorem accForeign_new (h : ∀ f ∈ (s.coreOf core).foreign, f.1 ≠ slab ∨ f.2.1 ≠ slot) : exec (.accForeign core slab slot) s = .next (s.wantSlab core slot slab) := by
  have hno (b : Bool) : (s.coreOf core).foreign.contains (slab, slot, b) = false := by
    rw [List.contains_eq_mem, decide_eq_false_iff_not]
    intro hm
    rcases h _ hm with h | h
    · exact h rfl
    · exact h rfl
  show execAccForeign core slab slot s = _
  unfold execAccForeign
  rw [if_neg (by rw [hno]; simp), if_neg (by rw [hno]; simp)]

theorem wantSlab_new (h : ∀ f ∈ (s.coreOf core).foreign, f.1 ≠ slab ∨ f.2.1 ≠ slot) :
    s.wantSlab core slot slab =
      if s.hostMode (s.vfOf core slot) 7 then (s.setCore core { s.coreOf core with foreign := (s.coreOf core).foreign ++ [(slab, slot, s.hostMode (s.vfOf core slot) 7 || (s.coreOf core).fwProgram)] }).hyperNotice
          24 (s.vfOf core slot) (slab + core * 2 ^ 16 + slot * 2 ^ 24)
      else if (s.coreOf core).fwProgram then s.setCore core { s.coreOf core with foreign := (s.coreOf core).foreign ++ [(slab, slot, s.hostMode (s.vfOf core slot) 7 || (s.coreOf core).fwProgram)] }
      else (s.setCore core { s.coreOf core with foreign := (s.coreOf core).foreign ++ [(slab, slot, s.hostMode (s.vfOf core slot) 7 || (s.coreOf core).fwProgram)] }).push (.accForeign core slab slot) := by
  have hany : ((s.coreOf core).foreign.any fun f => decide (f.1 = slab) && decide (f.2.1 = slot)) = false := by
    rw [List.any_eq_false]
    intro f hf
    rcases h f hf with h | h
    · simp [h]
    · simp [h]
  unfold State.wantSlab
  dsimp only
  rw [if_neg (by rw [hany]; simp)]
  rfl

theorem State.slabData_length (s : State) (core slab : Nat) : (s.slabData core slab).length = 1024 := by
  unfold State.slabData
  rw [List.length_map, List.length_range]

theorem State.slabData_getD (s : State) (core slab : Nat) {e : Nat} (he : e < 1024) : (s.slabData core slab).getD e 0 = s.cElem core (slab * 4096 + 4 * e) := by
  rw [List.getD_eq_getElem _ _ (by rw [State.slabData_length]; exact he)]
  simp [State.slabData]

/-- A touch of a slab that another task holds: what each of the two tasks is left with, and their areas. -/
theorem accForeign_served {t y : Nat} (hc : (s.coreOf core).foreign.contains (slab, slot, false) = true) (ht : (s.ctxOf core slot).task = some t)
    (hy : s.slabTask core slab = some y) (hne : y ≠ t) (hslot : s.accCode core slab ≠ slot) (hfree : s.accCode core slab ≠ 4) (hw : s.passWrites core slab = false) :
    ∃ u, exec (.accForeign core slab slot) s = .next u ∧ u.accCode core slab = slot
        ∧ Tbl.get (u.taskOf y).spilled [] slab = s.slabData core slab
        ∧ (Tbl.find? (s.taskOf t).spilled slab = none → slab < 2048 → ∀ i < 1024, u.cElem core (slab * 4096 + 4 * i) = 0)
        ∧ (∀ l, Tbl.find? (s.taskOf t).spilled slab = some l → l.length = 1024 → slab < 2048 → ∀ i < 1024, u.cElem core (slab * 4096 + 4 * i) = l.getD i 0)
        ∧ (∀ j, j ≠ slab → u.accCode core j = s.accCode core j)
        ∧ (∀ pa, (∀ x b, (x = y ∨ x = t) → s.areaOf x = some b → (pa < b + 0x1F00 ∨ b + 0x2000 ≤ pa)
            ∧ (pa < b + 0x30000 + 4096 * slab ∨ b + 0x31000 + 4096 * slab ≤ pa)) → u.memByte pa = s.memByte pa)
        ∧ (∀ b, s.areaOf y = some b → (∀ b', s.areaOf t = some b' → b' + 0x2000 ≤ b ∨ b + 0x830000 ≤ b') → slab < 2048 → b + 0x830000 ≤ physLimit →
            (u.memByte (b + 0x1F00 + slab / 8)).getLsbD (slab % 8) = true
            ∧ ∀ e < 1024, ∀ i < 4, u.memByte (b + 0x30000 + 4096 * slab + 4 * e + i) =
                BitVec.ofNat 8 ((s.cElem core (slab * 4096 + 4 * e)).toNat / 256 ^ i)) := by
  generalize hdone : s.setCore core { s.coreOf core with foreign := (s.coreOf core).foreign.filter fun f => !(decide (f.1 = slab) && decide (f.2.1 = slot)) } = done
  refine ⟨((done.spillTo y slab (s.slabData core slab)).giveSlab core slab t).handOver core slab slot, ?_, ?_⟩
  · rw [accForeign_noted hc, State.serveForeign_held ht hy hne hslot hfree hw hdone]
  have hdt (x : Nat) : done.taskOf x = s.taskOf x := by rw [← hdone]; rfl
  have hda (x : Nat) : done.areaOf x = s.areaOf x := by rw [← hdone]; rfl
  have hdm (a : Nat) : done.memByte a = s.memByte a := by rw [← hdone]; rfl
  have hdo : done.accown = s.accown := by rw [← hdone]; rfl
  clear hdone
  obtain ⟨h₁t, _, h₁o, h₁a, h₁m, h₁w⟩ := done.spillTo_spec y slab (s.slabData core slab)
  rw [State.slabData_length] at h₁m h₁w
  generalize done.spillTo y slab (s.slabData core slab) = σ₁ at h₁t h₁o h₁a h₁m h₁w
  have h₁y : (σ₁.taskOf y).spilled = Tbl.set (s.taskOf y).spilled slab (s.slabData core slab) := by
    rw [← hdt]
    exact congrArg Task.spilled ((congrArg (fun l : Tbl Task => l.get {} y) h₁t).trans (Tbl.get_set_same ..))
  have h₁s : σ₁.taskOf t = s.taskOf t := by
    rw [← hdt]
    exact (congrArg (fun l : Tbl Task => l.get {} t) h₁t).trans (Tbl.get_set_ne _ _ _ (Ne.symm hne))
  obtain ⟨h₂t, h₂o, h₂z, h₂l, h₂m⟩ := σ₁.giveSlab_spec core slab t
  generalize σ₁.giveSlab core slab t = σ₂ at h₂t h₂o h₂z h₂l h₂m
  obtain ⟨h₃t, h₃c, h₃o, h₃m⟩ := σ₂.handOver_spec core slab slot
  generalize σ₂.handOver core slab slot = u at h₃t h₃c h₃o h₃m
  have hcode (j : Nat) : u.accCode core j = if j = slab then slot else s.accCode core j := by
    unfold State.accCode
    rw [h₃o, Tbl.get_set, h₂o, h₁o, hdo]
    exact if_congr (by omega) rfl rfl
  have helem (off : Nat) : u.cElem core off = σ₂.cElem core off := by
    unfold State.cElem
    rw [h₃c]
  have hmem (a : Nat) (ha : ∀ b, s.areaOf t = some b → a < b + 0x1F00 ∨ b + 0x2000 ≤ a) : u.memByte a = σ₁.memByte a :=
    (h₃m a).trans (h₂m a fun b hb => ha b (by rwa [h₁a, hda] at hb))
  refine ⟨(hcode slab).trans (if_pos rfl), ?_, ?_, ?_, fun j hj => (hcode j).trans (if_neg hj), ?_, ?_⟩
  · have huy : u.taskOf y = σ₁.taskOf y := (congrArg (fun l : Tbl Task => l.get {} y) h₃t).trans (h₂t y hne)
    rw [huy, h₁y, Tbl.get_set_same]
  · intro hf _ i hi
    rw [helem]
    exact h₂z (by rw [h₁s, hf]) i hi
  · intro l hf hl _ i hi
    rw [helem]
    exact h₂l l (by rw [h₁s, hf]) hl i hi
  · intro pa hpa
    rw [hmem pa fun b hb => (hpa t b (.inr rfl) hb).1, ← hdm]
    refine h₁m pa fun b hb => ?_
    obtain ⟨hb₁, hb₂⟩ := hpa y b (.inl rfl) (by rwa [hda] at hb)
    exact ⟨hb₁, by omega⟩
  · intro b hb hapart hslab htop
    obtain ⟨hbit, hbytes⟩ := h₁w b (by rw [hda]; exact hb) hslab (Nat.le_refl _) htop
    have hfar (a : Nat) (ha : b ≤ a ∧ a < b + 0x830000) : u.memByte a = σ₁.memByte a := by
      refine hmem a fun b' hb' => ?_
      have := hapart b' hb'
      omega
    refine ⟨by rw [hfar _ (by omega)]; exact hbit, fun e he i hi => ?_⟩
    rw [hfar _ (by omega), hbytes e he i hi, State.slabData_getD _ _ _ he]

end Foreign

/-! ### The host's answer to a held fault -/

theorem State.taskOf_killNode (σ : State) (n cause t : Nat) : (σ.killNode n cause).taskOf t = σ.taskOf t := by
  unfold State.killNode
  dsimp only
  split
  · rfl
  · have hn : (σ.setNode n { σ.nodeOf n with killed := true, cause := cause }).KeepsTasks
        ((σ.nodeOf n).qnotice (σ.setNode n { σ.nodeOf n with killed := true, cause := cause }) 9 cause) := (State.noticed_notice ..).keepsTasks
    refine Eq.trans ?_ (hn.taskOf t)
    split <;> rfl

section Held
variable {s : State} {vf t : Nat} {v : Word} {tk : Task}
  (hheld : List.find? (fun (p : Nat × Task) => p.2.heldFault && decide (p.2.ctxId = some (v.toNat % 2 ^ 16)) && decide ((s.nodeOf p.2.node).vf = vf)) s.tasks = some (t, tk))
include hheld

theorem faultres_restores (hv : v.getLsbD 16 = true) {a : Area} (ha : tk.cont = some a) (hl : a.lease = 0) :
    ∃ u, exec (.faultres vf v) s = .next u ∧ t ∈ u.pool ∧ (u.taskOf t).heldFault = false ∧ (u.taskOf t).cont = tk.cont ∧ SameMemory s u := by
  refine ⟨(s.setTask t { tk with heldFault := false }).reSave (tk.core.getD 0) t, ?_, ?_⟩
  · show execFaultres vf v s = _
    unfold execFaultres
    dsimp only
    rw [hheld]
    dsimp only
    rw [if_pos hv]
  generalize hτ : s.setTask t { tk with heldFault := false } = τ
  have ht : τ.taskOf t = { tk with heldFault := false } := by rw [← hτ]; exact State.taskOf_setTask_same ..
  have hless : ((τ.taskOf t).cont.getD {}).leaseless = true := by
    rw [ht]
    dsimp only
    rw [ha]
    exact decide_eq_true hl
  have hm (a : Nat) : τ.memByte a = s.memByte a := by rw [← hτ]; rfl
  unfold State.reSave
  rw [if_pos hless]
  split
  next hin => exact ⟨by rwa [List.contains_iff_mem] at hin, by rw [ht], by rw [ht], hm⟩
  next =>
    have hp (x : Nat) : (τ.poolAdd t).taskOf x = τ.taskOf x := rfl
    exact ⟨List.mem_append_right _ (List.mem_singleton_self _), by rw [hp, ht], by rw [hp, ht], hm⟩

theorem faultres_kills (hv : v.getLsbD 16 = false) :
    ∃ u, exec (.faultres vf v) s = .next u ∧ (u.taskOf t).state = .killed ∧ (u.nodeOf tk.node).killed = true := by
  refine ⟨(s.dropTask t .killed).killNode tk.node ((tk.cont.map fun a => a.ctx.fault.cause).getD 0), ?_, ?_⟩
  · show execFaultres vf v s = _
    unfold execFaultres
    dsimp only
    rw [hheld]
    dsimp only
    rw [if_neg (by rw [hv]; simp)]
  refine ⟨?_, (State.killNode_keepsKills ..).2.1⟩
  rw [State.taskOf_killNode]
  exact s.dropTask_state t .killed

end Held

/-- Settles O38: a touched slab is spilled for its holder's task and given to the toucher's, and each of firmware's other services changes its own
record alone. -/
theorem firmwareServices : Obligations.FirmwareServices := by
  unfold Obligations.FirmwareServices
  intro s core slab slot vf v k asks h
  refine ⟨?_, ?_, ?_, ⟨?_, ?_⟩, ⟨?_, ?_⟩, ?_, ?_, ?_, ?_⟩
  · intro t y hc ht hy hne hslot hfree hw _
    exact accForeign_served hc ht hy hne hslot hfree hw
  · intro hnew noted
    have he := (accForeign_new hnew).trans (congrArg Host.Outcome.next (wantSlab_new hnew))
    refine ⟨fun ha => ?_, fun ha hp => ?_, fun ha hp => ?_⟩
    · exact he.trans (congrArg Host.Outcome.next (if_pos ha))
    · exact he.trans (congrArg Host.Outcome.next ((if_neg (Bool.not_eq_true _ ▸ ha)).trans (if_pos hp)))
    · exact he.trans (congrArg Host.Outcome.next ((if_neg (Bool.not_eq_true _ ▸ ha)).trans (if_neg (Bool.not_eq_true _ ▸ hp))))
  · exact accForeign_waits
  · intro hc
    show execAccrel v s = _
    unfold execAccrel bits
    dsimp only
    exact congrArg Host.Outcome.next (if_pos hc)
  · intro hc
    show execAccrel v s = _
    unfold execAccrel bits
    dsimp only
    exact congrArg Host.Outcome.next (if_neg (Bool.not_eq_true _ ▸ hc))
  · intro hheld
    show execFaultres vf v s = _
    unfold execFaultres
    dsimp only
    rw [hheld]
  · intro t tk hheld
    exact ⟨fun hv ⟨a, ha, hl⟩ => faultres_restores hheld hv ha hl, fun hv => faultres_kills hheld hv⟩
  · intro tm hr
    have he : exec (.mkFullRetry core slot) s = .next (if tm ≤ s.time ∧ (s.ctxOf core slot).stopped = some 14 then s.returnTrap core slot 0 else s) := by
      show execMkFullRetry core slot s = _
      unfold execMkFullRetry
      dsimp only
      rw [hr]
      rfl
    refine ⟨fun hle hs => ?_, fun hlt => ?_⟩
    · rw [he, if_pos ⟨hle, hs⟩]
      rfl
    · rw [he, if_neg fun h => absurd h.1 (Nat.not_le.mpr hlt)]
  · intro hlt
    show execWatchdog core s = _
    unfold execWatchdog
    dsimp only
    rw [if_pos hlt]
    rfl
  · rintro rfl
    rfl
  · rintro rfl
    rfl

end Sys2Proof.Machine
end

section
/-! ## O20: taking a trap -/
namespace Sys2Proof.Machine

/-! ### The fault record in a context area -/

theorem mem_fieldBytes {base : Nat} {l : List (Nat × Nat × Nat)} {p : Nat × Byte} :
    p ∈ fieldBytes base l ↔ ∃ f ∈ l, ∃ i < f.2.1, p = (base + f.1 + i, BitVec.ofNat 8 (f.2.2 / 256 ^ i)) := by
  unfold fieldBytes bytesAt
  simp only [List.mem_flatMap, List.mem_map, List.mem_range]
  constructor
  · rintro ⟨f, hf, i, hi, rfl⟩
    exact ⟨f, hf, i, hi, rfl⟩
  · rintro ⟨f, hf, i, hi, rfl⟩
    exact ⟨f, hf, i, hi, rfl⟩

/-- The places and widths of the fields of a fault record (R377). -/
def faultPlaces : List (Nat × Nat) := [(0x100, 8), (0x108, 8), (0x110, 8), (0x118, 8), (0x120, 2), (0x122, 2), (0x124, 4), (0x128, 8), (0x130, 16)]

theorem mem_faultPlaces {r : FaultRec} {f : Nat × Nat × Nat} (hf : f ∈ faultFields r) : (f.1, f.2.1) ∈ faultPlaces :=
  (List.mem_map.mpr ⟨f, hf, rfl⟩ : (f.1, f.2.1) ∈ (faultFields r).map fun f => (f.1, f.2.1))

theorem faultPlaces_apart : ∀ x ∈ faultPlaces, x.1 + x.2 ≤ 0x140 ∧ ∀ y ∈ faultPlaces, x.1 < y.1 + y.2 → y.1 < x.1 + x.2 → x = y := by decide

theorem faultFields_unique {r : FaultRec} {c : Ctx} {f g : Nat × Nat × Nat} (hf : f ∈ faultFields r) (hg : g ∈ faultFields r ++ tagFields c) {i j : Nat}
    (hi : i < f.2.1) (hj : j < g.2.1) (h : f.1 + i = g.1 + j) : g = f := by
  obtain ⟨htop, hapart⟩ := faultPlaces_apart _ (mem_faultPlaces hf)
  dsimp only at htop
  rcases List.mem_append.mp hg with hg | hg
  · have hp := hapart _ (mem_faultPlaces hg) (by dsimp only; omega) (by dsimp only; omega)
    have hnd : ((faultFields r).map fun f => f.1).Nodup := (by decide : (faultPlaces.map fun x => x.1).Nodup)
    exact List.inj_on_of_nodup_map hnd hg hf (Prod.mk.inj hp).1.symm
  · obtain ⟨t, _, rfl⟩ := List.mem_map.mp hg
    dsimp only at h
    omega

/-- A field of the record stands in the slot's area, below the top of memory. -/
theorem State.writeFault_field (σ : State) (core slot : Nat) (r : FaultRec) {b : Nat} (hb : σ.slotArea core slot = some b) (htop : b + 0x180 ≤ physLimit)
    {off n v : Nat} (hf : (off, n, v) ∈ faultFields r) : (σ.writeFault core slot r true).memNat (b + off) n = v % 256 ^ n := by
  have htop' := (faultPlaces_apart _ (mem_faultPlaces hf)).1
  dsimp only at htop'
  unfold State.writeFault
  rw [hb]
  dsimp only
  have hall : (faultFields r).filter (fun f => true || decide (f.1 ≠ 0x108)) = faultFields r := List.filter_eq_self.mpr fun _ _ => rfl
  rw [hall]
  refine memNat_bytes _ _ _ _ fun i hi => ?_
  refine State.areaPut_memByte_of_unique _ _ _ _ (mem_fieldBytes.mpr ⟨_, List.mem_append_left _ hf, i, hi, rfl⟩) (fun v' hv' => ?_) (by omega)
  obtain ⟨g, hg, j, hj, he⟩ := mem_fieldBytes.mp hv'
  obtain ⟨ha, rfl⟩ := Prod.mk.inj he
  obtain rfl := faultFields_unique hf hg hi hj (by dsimp only at ha ⊢; omega)
  rw [show i = j by dsimp only at ha; omega]

/-! ### What stops with a trap -/

/-- The slot stands stopped at its word with the record, which its area and firmware have been given. -/
def State.faulted (s : State) (core ctx : Nat) (r : FaultRec) : State :=
  ((s.setCtx core ctx { s.ctxOf core ctx with fault := r, stopped := some r.cause, stall := 0 }).writeFault core ctx r true).raiseEvent core r.src r.cause

theorem State.raiseEvent_cores (σ : State) (core src cause : Nat) :
    ∃ cs, σ.raiseEvent core src cause = { σ with cores := cs } ∧ ((σ.raiseEvent core src cause).coreOf core).fwProgram = (σ.coreOf core).fwProgram := by
  unfold State.raiseEvent
  dsimp only
  split
  · exact ⟨_, rfl, rfl⟩
  split
  · exact ⟨_, rfl, (congrArg Core.fwProgram (State.coreOf_setCore_same ..)).trans rfl⟩
  · exact ⟨_, rfl, (congrArg Core.fwProgram (State.coreOf_setCore_same ..)).trans rfl⟩

theorem State.faulted_spec (s : State) (core ctx : Nat) (r : FaultRec) :
    (s.faulted core ctx r).ctxOf core ctx = { s.ctxOf core ctx with fault := r, stopped := some r.cause, stall := 0 }
      ∧ ((s.faulted core ctx r).coreOf core).fwProgram = (s.coreOf core).fwProgram ∧ (s.faulted core ctx r).vfOf core ctx = s.vfOf core ctx
      ∧ (∀ vf n, (s.faulted core ctx r).hostMode vf n = s.hostMode vf n) ∧ (s.faulted core ctx r).polgen = s.polgen
      ∧ sameButRecord s (s.faulted core ctx r) core ctx
      ∧ ∀ b, s.slotArea core ctx = some b → b + 0x180 ≤ physLimit → ∀ off n v, (off, n, v) ∈ faultFields r → (s.faulted core ctx r).memNat (b + off) n = v % 256 ^ n := by
  unfold State.faulted
  generalize hτ : s.setCtx core ctx { s.ctxOf core ctx with fault := r, stopped := some r.cause, stall := 0 } = τ
  have hc : τ.ctxOf core ctx = { s.ctxOf core ctx with fault := r, stopped := some r.cause, stall := 0 } := by rw [← hτ]; exact State.ctxOf_setCtx_same ..
  have hcore : τ.coreOf core = s.coreOf core := by rw [← hτ]; rfl
  have hmode (vf n : Nat) : τ.hostMode vf n = s.hostMode vf n := by rw [← hτ]; rfl
  have hpol : τ.polgen = s.polgen := by rw [← hτ]; rfl
  have hm (a : Nat) : τ.memByte a = s.memByte a := by rw [← hτ]; rfl
  have harea : τ.slotArea core ctx = s.slotArea core ctx := by
    unfold State.slotArea
    rw [hc]
    have h (t : Nat) : τ.areaOf t = s.areaOf t := by rw [← hτ]; rfl
    exact congrArg (Option.bind (s.ctxOf core ctx).task) (funext h)
  have hvf : τ.vfOf core ctx = s.vfOf core ctx := by
    unfold State.vfOf
    rw [hc]
    have h (t : Nat) : τ.nodeOf (τ.taskOf t).node = s.nodeOf (s.taskOf t).node := by rw [← hτ]; rfl
    simp only [h]
  clear hτ
  have hframe (a : Nat) (ha : ∀ b, s.slotArea core ctx = some b → a < b + 0x100 ∨ b + 0x180 ≤ a) : (τ.writeFault core ctx r true).memByte a = s.memByte a :=
    (State.writeFault_memByte_ne τ core ctx r true a fun p hp => ha p (harea ▸ hp)).trans (hm a)
  have hfield {b : Nat} (hb : s.slotArea core ctx = some b) (htop : b + 0x180 ≤ physLimit) {off n v : Nat} (hf : (off, n, v) ∈ faultFields r) :=
    τ.writeFault_field core ctx r (harea.trans hb) htop hf
  obtain ⟨_, _, _, _, hshape⟩ := τ.writeFault_shape core ctx r true
  generalize τ.writeFault core ctx r true = ρ at hframe hfield hshape
  have hρc : ρ.ctxOf core ctx = τ.ctxOf core ctx := by rw [hshape]; rfl
  have hρcore : ρ.coreOf core = τ.coreOf core := by rw [hshape]; rfl
  have hρvf : ρ.vfOf core ctx = τ.vfOf core ctx := by rw [hshape]; rfl
  have hρmode (vf n : Nat) : ρ.hostMode vf n = τ.hostMode vf n := by rw [hshape]; rfl
  have hρpol : ρ.polgen = τ.polgen := by rw [hshape]
  clear hshape
  obtain ⟨cs, he, hfw⟩ := ρ.raiseEvent_cores core r.src r.cause
  refine ⟨?_, hfw.trans (by rw [hρcore, hcore]), ?_, fun vf n => ?_, ?_, fun pa hpa => ?_, fun b hb htop off n v hf => ?_⟩
  · rw [he]
    exact hρc.trans hc
  · rw [he]
    exact hρvf.trans hvf
  · rw [he]
    exact (hρmode vf n).trans (hmode vf n)
  · rw [he]
    exact hρpol.trans hpol
  · rw [he]
    exact hframe pa hpa
  · rw [he]
    exact hfield hb htop hf

/-! ### What a service leaves of the slot's context -/

/-- A context at the same word, with the same record and the same task. -/
structure Ctx.AtSame (c d : Ctx) : Prop where
  pc : d.pc = c.pc
  npc : d.npc = c.npc
  pslots : d.pslots = c.pslots
  task : d.task = c.task
  fault : d.fault = c.fault
  stopped : d.stopped = c.stopped

theorem Ctx.AtSame.refl (c : Ctx) : c.AtSame c := ⟨rfl, rfl, rfl, rfl, rfl, rfl⟩

theorem Ctx.AtSame.trans {c d e : Ctx} (h : c.AtSame d) (g : d.AtSame e) : c.AtSame e :=
  ⟨g.pc.trans h.pc, g.npc.trans h.npc, g.pslots.trans h.pslots, g.task.trans h.task, g.fault.trans h.fault, g.stopped.trans h.stopped⟩

theorem Ctx.AtSame.of_eq {c d : Ctx} (h : d = c) : c.AtSame d := h ▸ .refl c

theorem Ctx.AtSame.advance_pc {c d : Ctx} (h : c.AtSame d) : d.advance.pc = c.advance.pc := Ctx.advance_pc_congr h.pc h.pslots h.npc

theorem atSame_episodeRel (core ctx : Nat) : EpisodeRel fun σ τ => (σ.ctxOf core ctx).AtSame (τ.ctxOf core ctx) where
  refl _ := .refl _
  trans := .trans
  write σ l := by
    obtain ⟨_, _, _, _, h⟩ := σ.writeQuiet_shape l
    rw [h]
    exact .refl _
  plain _ _ _ _ _ _ _ := .refl _
  eps _ _ _ _ _ _ := .refl _
  stall σ f hf hd := by
    obtain ⟨g, hg⟩ := hf (σ.ctxOf core ctx)
    have h : State.ctxOf { σ with ctxs := σ.ctxs.map fun (p : Nat × Ctx) => (p.1, f p.2) } core ctx = f (σ.ctxOf core ctx) := Tbl.get_map_pair _ f {} hd _
    rw [h, hg]
    exact ⟨rfl, rfl, rfl, rfl, rfl, rfl⟩

theorem State.commit_polgen (σ : State) (core ctx : Nat) : (σ.commit core ctx).polgen = σ.polgen := by
  have hpost (l : List FaultRec) (τ : State) : (τ.postAll core ctx l).polgen = τ.polgen := by
    unfold State.postAll
    induction l generalizing τ with
    | nil => rfl
    | cons r l ih =>
      rw [List.foldl_cons, ih]
      obtain ⟨_, _, _, _, h⟩ := (τ.setCtx core ctx { τ.ctxOf core ctx with posted := (τ.ctxOf core ctx).posted ++ [r] }).writeFault_shape core ctx r false
      unfold State.addPosted
      dsimp only
      rw [h]
      rfl
  obtain ⟨_, _, _, _, h⟩ := σ.committedBytes_shape core ctx
  refine (hpost (σ.commitFaults _ core ctx) _).trans ?_
  show (σ.committedBytes core ctx).polgen = σ.polgen
  rw [h]

theorem State.commit_atSame (σ : State) (core ctx : Nat) : (σ.ctxOf core ctx).AtSame ((σ.commit core ctx).ctxOf core ctx) := by
  obtain ⟨fs, ps, h⟩ := σ.commit_ctxOf core ctx
  rw [h]
  exact ⟨rfl, rfl, rfl, rfl, rfl, rfl⟩

theorem State.bumpPolgen_atSame (σ : State) (vf core ctx : Nat) : (σ.ctxOf core ctx).AtSame ((σ.bumpPolgen vf).ctxOf core ctx) := by
  have h := (atSame_episodeRel core ctx).toNoticeRel.foldl (f := fun σ (p : Nat × Episode) => σ.endEpisode vf (p.1 % 4096) 3 0)
    fun σ p => (atSame_episodeRel core ctx).endEpisode σ vf (p.1 % 4096) 3 0
  exact h _ { σ with polgen := Tbl.set σ.polgen vf ((Tbl.get σ.polgen 0 vf + 1) % 2 ^ 32) }

theorem State.trapService_atSame (σ : State) (core ctx tcode : Nat) : (σ.ctxOf core ctx).AtSame ((σ.trapService core ctx tcode).ctxOf core ctx) := by
  unfold State.trapService
  split
  · exact (σ.commit_atSame core ctx).trans (State.bumpPolgen_atSame ..)
  split
  · exact (atSame_episodeRel core ctx).toNoticeRel.notice σ _ _ _ _ _
  · exact .refl _

theorem State.wantSlab_atSame (σ : State) (core slot slab ctx : Nat) : (σ.ctxOf core ctx).AtSame ((σ.wantSlab core slot slab).ctxOf core ctx) := by
  unfold State.wantSlab
  dsimp only
  split
  · exact .refl _
  split
  · exact (atSame_episodeRel core ctx).toNoticeRel.hyperNotice (σ.setCore core _) _ _ _
  split
  · exact .refl _
  · exact .refl _

/-- Where the hypervisor is not asked, a wanted slab changes no memory. -/
theorem State.wantSlab_memByte (σ : State) (core slot slab a : Nat) (h : σ.hostMode (σ.vfOf core slot) 7 = false) : (σ.wantSlab core slot slab).memByte a = σ.memByte a := by
  unfold State.wantSlab
  dsimp only
  rw [if_neg (by rw [h]; simp : ¬ σ.hostMode (σ.vfOf core slot) 7 = true)]
  split
  · rfl
  split
  · rfl
  · rfl

theorem State.noteFault_atSame (σ : State) (core ctx : Nat) (r : FaultRec) : (σ.ctxOf core ctx).AtSame ((σ.noteFault core ctx r).ctxOf core ctx) := by
  unfold State.noteFault
  split
  · exact (atSame_episodeRel core ctx).toNoticeRel.pageWant σ _ _ _ _
  split
  · exact σ.trapService_atSame _ _ _
  split
  · exact σ.wantSlab_atSame _ _ _ _
  · exact .refl _


/-! ### A lot that a fatal trap ends -/

theorem State.foldl_ctxs {β : Type} {f : State → β → State} (h : ∀ (σ : State) b, (f σ b).ctxs = σ.ctxs) (l : List β) (σ : State) : (l.foldl f σ).ctxs = σ.ctxs := by
  induction l generalizing σ with
  | nil => rfl
  | cons b l ih => exact (ih _).trans (h σ b)

theorem State.haltEngine_ctxs (σ : State) (core e : Nat) : (σ.haltEngine core e).ctxs = σ.ctxs := by
  unfold State.haltEngine
  extract_lets v σ₁ σ₂ f σ₃ x
  have h₃ : σ₃.ctxs = σ.ctxs := State.foldl_ctxs (f := fun σ l => σ.emptyLink core l) (fun _ _ => rfl) _ σ₂
  split
  · rfl
  split
  · exact h₃
  · rfl

theorem State.haltEngines_ctxs (σ : State) (core slot : Nat) : (σ.haltEngines core slot).ctxs = σ.ctxs :=
  State.foldl_ctxs (fun σ e => σ.haltEngine_ctxs core e) (σ.enginesOf core slot) σ

theorem State.recode_ctxs (σ : State) (core slot code : Nat) (holder : Option Nat) : (σ.recode core slot code holder).ctxs = σ.ctxs := by
  unfold State.recode
  refine State.foldl_ctxs (fun σ p => ?_) _ σ
  cases holder with
  | none => rfl
  | some t => rfl

theorem State.freeHeld_ctxs (σ : State) (t : Nat) : (σ.freeHeld t).ctxs = σ.ctxs := by
  unfold State.freeHeld
  refine State.foldl_ctxs (fun σ p => ?_) (σ.holder.filter fun p => decide (p.2 = t)) σ
  split <;> rfl

theorem State.releaseArea_ctxs (σ : State) (t : Nat) : (σ.releaseArea t).ctxs = σ.ctxs := by
  unfold State.releaseArea
  dsimp only
  split <;> rfl

theorem State.killNode_ctxs (σ : State) (n cause : Nat) : (σ.killNode n cause).ctxs = σ.ctxs := by
  unfold State.killNode
  dsimp only
  split
  · rfl
  · obtain ⟨_, _, _, _, _, _, _, _, _, he⟩ : (σ.setNode n { σ.nodeOf n with killed := true, cause := cause }).Noticed
        ((σ.nodeOf n).qnotice (σ.setNode n { σ.nodeOf n with killed := true, cause := cause }) 9 cause) := State.noticed_notice ..
    rw [he]
    split <;> rfl

theorem State.leaseStep_copyFree (σ : State) (core n : Nat) : σ.LeaseStep (σ.copyFree core n) :=
  (σ.leaseStep_setEng _ _ _).trans (State.leaseStep_setCopy _ _ _ _)

theorem State.leaseStep_drainCopy (σ : State) (core n : Nat) : σ.LeaseStep (σ.drainCopy core n) := by
  unfold State.drainCopy
  split
  · exact σ.leaseStep_copyFree _ _
  · exact .refl σ

theorem State.leaseStep_detach (σ : State) (core slot : Nat) : σ.LeaseStep (σ.detach core slot) := by
  unfold State.detach
  dsimp only
  refine .trans (.foldl (fun σ k => ?_) _ σ) (.foldl (fun σ n => ?_) _ _)
  · split
    · split
      · exact σ.leaseStep_fragFree _ _ _
      · exact σ.leaseStep_setFrag _ _ _
    · exact .refl σ
  · split
    · refine (σ.leaseStep_setCopy core n _).trans (State.leaseStep_drainCopy _ core n)
    · exact .refl σ

theorem State.leaseStep_returnLeases (σ : State) (core slot : Nat) : σ.LeaseStep (σ.returnLeases core slot) := by
  unfold State.returnLeases
  refine .trans (.trans ?_ (.foldl (fun σ n => σ.leaseStep_returnCopy core n) _ _)) (State.leaseStep_detach _ _ _)
  exact .foldl (fun σ k => σ.leaseStep_returnFrag core k) _ _

theorem State.ctxOf_eq_of_ctxs {σ τ : State} (h : τ.ctxs = σ.ctxs) (core slot : Nat) : τ.ctxOf core slot = σ.ctxOf core slot :=
  congrArg (fun l : Tbl Ctx => l.get {} (core * 8 + slot)) h

theorem State.dropLot_fault (σ : State) (core slot : Nat) : ((σ.dropLot core slot).ctxOf core slot).fault = (σ.ctxOf core slot).fault := by
  unfold State.dropLot
  extract_lets c τ
  have hτ : (τ.ctxOf core slot).fault = (σ.ctxOf core slot).fault := (congrArg Ctx.fault (State.ctxOf_setCtx_same ..)).trans rfl
  obtain ⟨_, _, h⟩ := ((τ.haltEngines core slot).leaseStep_returnLeases core slot).ctxs core slot
  rw [h, State.ctxOf_eq_of_ctxs (τ.haltEngines_ctxs core slot)]
  exact hτ

theorem State.discardLot_spec (σ : State) (core slot : Nat) (st : TaskState) {t : Nat} (ht : (σ.ctxOf core slot).task = some t) :
    ((σ.discardLot core slot st).ctxOf core slot).task = none ∧ ((σ.discardLot core slot st).ctxOf core slot).fault = (σ.ctxOf core slot).fault := by
  unfold State.discardLot
  split
  next hn => rw [hn] at ht; cases ht
  next t' _ =>
    extract_lets τ₁ τ₂ tk τ₃
    have h₁ : τ₁.ctxs = (σ.dropLot core slot).ctxs := State.recode_ctxs (σ.dropLot core slot) core slot 7 none
    have h₂ : τ₂.ctxs = τ₁.ctxs := (State.freeHeld_ctxs (τ₁.releaseArea t') t').trans (τ₁.releaseArea_ctxs t')
    clear_value τ₁ τ₂
    have h₃ : (τ₃.ctxOf core slot).fault = (σ.ctxOf core slot).fault := by
      rw [← σ.dropLot_fault core slot, ← State.ctxOf_eq_of_ctxs (h₂.trans h₁) core slot]
      exact congrArg Ctx.fault (State.ctxOf_setTask τ₂ t' core slot _)
    clear_value τ₃
    refine ⟨State.ctxOf_freeSlot .., ?_⟩
    unfold State.freeSlot
    rw [State.ctxOf_setCtx_same]
    exact h₃

theorem State.killLot_spec (σ : State) (core slot cause : Nat) :
    ((σ.killLot core slot cause).ctxOf core slot).fault = (σ.ctxOf core slot).fault
      ∧ ((σ.ctxOf core slot).task.isSome = true → ((σ.killLot core slot cause).ctxOf core slot).task = none) := by
  unfold State.killLot
  split
  next hn => exact ⟨rfl, fun h => absurd h (by rw [hn]; simp)⟩
  next t ht =>
    obtain ⟨htask, hfault⟩ := σ.discardLot_spec core slot .killed ht
    dsimp only
    rw [State.ctxOf_eq_of_ctxs (State.killNode_ctxs ..)]
    exact ⟨hfault, fun _ => htask⟩

/-! ### Taking a trap -/

/-- The record of a user slot's trap. -/
def State.trapRecord (s : State) (core ctx : Nat) (tr : Tr) : FaultRec :=
  { cause := tr.cause, fatal := isFatal tr.cause || (decide (tr.cause = causeTrapCall) && decide (tr.tcode ≠ 1) && decide (tr.tcode ≠ 2)), src := ctx,
    pc := (s.ctxOf core ctx).pc, detail := tr.detail, tcode := tr.tcode, time := s.time }

section Trap
variable {s : State} {core ctx : Nat} {tr : Tr} (hcause : tr.cause ≠ 9) (hctx : ctx < 4)
include hcause hctx

/-- What the service of the cause does in a slot that has stopped. -/
theorem State.takeTrap_user : s.takeTrap core ctx tr =
    let τ := s.faulted core ctx (s.trapRecord core ctx tr)
    if (τ.coreOf core).fwProgram then τ.noteFault core ctx (s.trapRecord core ctx tr)
    else if tr.cause = causeNonresident ∨ tr.cause = causeCow then
      (τ.pageWant (τ.vfOf core ctx) 0 tr.detail (tr.cause = causeCow)).abortLot core ctx (some (tr.detail, decide (tr.cause = causeCow)))
    else if isFaultService tr.cause then τ.faultService core ctx tr.cause
    else if tr.cause = causeAccForeign then τ.wantSlab core ctx tr.detail.toNat
    else if tr.cause = causeMkFull then τ.setCtx core ctx { τ.ctxOf core ctx with retryAt := some (τ.time + Config.mkRetryTicks) }
    else if tr.cause = causeTrapCall then τ.trapCall core ctx tr.tcode
    else τ.killLot core ctx tr.cause := by
  unfold State.takeTrap
  dsimp only
  have hslot : ¬ ctx = Config.fwCtx := by
    show ¬ ctx = 4
    omega
  have hseal : ¬ tr.cause = causeSealFail := hcause
  rw [if_neg hseal, if_neg hslot]
  rfl

/-- A touched slab, or a full Market index: the slot stands stopped. -/
theorem takeTrap_waits (hc : tr.cause = 10 ∨ tr.cause = 14) :
    let τ := s.faulted core ctx (s.trapRecord core ctx tr)
    (τ.ctxOf core ctx).AtSame ((s.takeTrap core ctx tr).ctxOf core ctx)
      ∧ ((tr.cause = 10 → τ.hostMode (τ.vfOf core ctx) 7 = false) → ∀ a, (s.takeTrap core ctx tr).memByte a = τ.memByte a) := by
  have hn (c : Nat) (h : c ≠ 10 ∧ c ≠ 14) : ¬ tr.cause = c := by omega
  have hpage : ¬ (tr.cause = causeNonresident ∨ tr.cause = causeCow) := not_or.mpr ⟨hn _ (by decide), hn _ (by decide)⟩
  have hcall : ¬ tr.cause = causeTrapCall := hn _ (by decide)
  have hserv : ¬ isFaultService tr.cause = true := by
    rcases hc with hc | hc
    · rw [hc]; decide
    · rw [hc]; decide
  rw [State.takeTrap_user hcause hctx]
  have hrc : (s.trapRecord core ctx tr).cause = tr.cause := rfl
  have hrd : (s.trapRecord core ctx tr).detail = tr.detail := rfl
  generalize s.trapRecord core ctx tr = r at hrc hrd
  generalize s.faulted core ctx r = τ
  unfold State.noteFault
  simp only [hrc, hrd, if_neg hpage, if_neg hcall, if_neg hserv]
  rcases hc with hc | hc
  · have hacc : tr.cause = causeAccForeign := hc
    simp only [if_pos hacc, ite_self]
    exact ⟨τ.wantSlab_atSame .., fun hm a => τ.wantSlab_memByte _ _ _ a (hm hc)⟩
  · have hacc : ¬ tr.cause = causeAccForeign := by rw [hc]; decide
    have hfull : tr.cause = causeMkFull := hc
    simp only [if_neg hacc, if_pos hfull]
    split
    · exact ⟨.refl _, fun _ _ => rfl⟩
    · refine ⟨?_, fun _ _ => rfl⟩
      rw [State.ctxOf_setCtx_same]
      exact ⟨rfl, rfl, rfl, rfl, rfl, rfl⟩

/-- While a program runs in the firmware context, every trap stops its slot. -/
theorem takeTrap_program (hfw : (s.coreOf core).fwProgram = true) :
    ((s.faulted core ctx (s.trapRecord core ctx tr)).ctxOf core ctx).AtSame ((s.takeTrap core ctx tr).ctxOf core ctx) := by
  have hf := (s.faulted_spec core ctx (s.trapRecord core ctx tr)).2.1
  rw [State.takeTrap_user hcause hctx]
  dsimp only
  rw [if_pos (hf.trans hfw)]
  exact State.noteFault_atSame ..

/-- A fatal trap where no program runs. -/
theorem takeTrap_fatal (hfw : (s.coreOf core).fwProgram = false) (hfatal : isFatal tr.cause = true) :
    s.takeTrap core ctx tr = (s.faulted core ctx (s.trapRecord core ctx tr)).killLot core ctx tr.cause := by
  have hf := (s.faulted_spec core ctx (s.trapRecord core ctx tr)).2.1
  have hn : ∀ c, isFatal c = false → ¬ tr.cause = c := by
    intro c h e
    rw [e, h] at hfatal
    cases hfatal
  have hserv : ¬ isFaultService tr.cause = true := by
    unfold isFaultService
    rw [List.contains_eq_mem, decide_eq_true_eq]
    intro hm
    have : ∀ c ∈ [causeWritePerm, causeOwner, causeSealFail, causeFabTimeout, causeStallLimit], isFatal c = false := by decide
    exact hn _ (this _ hm) rfl
  rw [State.takeTrap_user hcause hctx]
  dsimp only
  rw [if_neg (by rw [hf, hfw]; simp), if_neg (not_or.mpr ⟨hn _ (by decide), hn _ (by decide)⟩), if_neg hserv, if_neg (hn _ (by decide)), if_neg (hn _ (by decide)),
    if_neg (hn _ (by decide))]

/-- TRAP_CALL 1 and 2 where no program runs. -/
theorem takeTrap_call (hfw : (s.coreOf core).fwProgram = false) (hc : tr.cause = 20) (ht : tr.tcode = 1 ∨ tr.tcode = 2) :
    let τ := s.faulted core ctx (s.trapRecord core ctx tr)
    s.takeTrap core ctx tr = (τ.trapService core ctx tr.tcode).setCtx core ctx { ((τ.trapService core ctx tr.tcode).ctxOf core ctx).advance with stopped := none } := by
  have hf := (s.faulted_spec core ctx (s.trapRecord core ctx tr)).2.1
  rw [State.takeTrap_user hcause hctx]
  dsimp only
  rw [if_neg (by rw [hf, hfw]; simp), hc, if_neg (by decide), if_neg (by decide), if_neg (by decide), if_neg (by decide), if_pos (by decide)]
  exact if_pos ht

end Trap


theorem State.trapService_polgen (σ : State) (core ctx : Nat) :
    Tbl.get (σ.trapService core ctx 1).polgen 0 (σ.vfOf core ctx) = (Tbl.get σ.polgen 0 (σ.vfOf core ctx) + 1) % 2 ^ 32 := by
  unfold State.trapService
  rw [if_pos rfl, State.bumpPolgen_polgen, State.commit_polgen]

/-- Firmware's own trap: a pre-emption that it had begun ends, and its context halts. -/
theorem State.unstop_spec (σ : State) (core : Nat) :
    (σ.unstop core).ctxOf core 4 = σ.ctxOf core 4 ∧ (σ.unstop core).errors = σ.errors ∧ SameMemory σ (σ.unstop core)
      ∧ ∀ j, { Tbl.get (σ.unstop core).ctxs {} j with stopping := none } = { Tbl.get σ.ctxs {} j with stopping := none } := by
  unfold State.unstop
  have h (l : List Nat) (hl : ∀ k ∈ l, k < 4) (τ : State) :
      let u := l.foldl (fun (σ : State) k =>
        if (σ.ctxOf core k).stopping = some .ctxsv ∨ (σ.ctxOf core k).stopping = some .tried then σ.setCtx core k { σ.ctxOf core k with stopping := none } else σ) τ
      u.ctxOf core 4 = τ.ctxOf core 4 ∧ u.errors = τ.errors ∧ SameMemory τ u
        ∧ ∀ j, { Tbl.get u.ctxs {} j with stopping := none } = { Tbl.get τ.ctxs {} j with stopping := none } := by
    induction l generalizing τ with
    | nil => exact ⟨rfl, rfl, fun _ => rfl, fun _ => rfl⟩
    | cons k l ih =>
      obtain ⟨h₁, h₂, h₃, h₄⟩ := ih (fun k hk => hl k (List.mem_cons_of_mem _ hk))
        (if (τ.ctxOf core k).stopping = some .ctxsv ∨ (τ.ctxOf core k).stopping = some .tried then τ.setCtx core k { τ.ctxOf core k with stopping := none } else τ)
      have hk : k < 4 := hl k List.mem_cons_self
      rw [List.foldl_cons]
      refine ⟨h₁.trans ?_, h₂.trans ?_, fun a => (h₃ a).trans ?_, fun j => (h₄ j).trans ?_⟩
      · split
        · exact Tbl.get_set_ne _ _ _ (by omega)
        · rfl
      · split <;> rfl
      · split <;> rfl
      · split
        · show { Tbl.get (Tbl.set τ.ctxs (core * 8 + k) { τ.ctxOf core k with stopping := none }) {} j with stopping := none } = _
          rw [Tbl.get_set]
          split
          next hj => rw [hj]; rfl
          next => rfl
        · rfl
  exact h [0, 1, 2, 3] (by decide) σ

theorem takeTrap_firmware (s : State) (core : Nat) {tr : Tr} (hcause : tr.cause ≠ 9) : s.takeTrap core 4 tr = s.haltFirmware core := by
  unfold State.takeTrap
  have hseal : ¬ tr.cause = causeSealFail := hcause
  rw [if_neg hseal]
  exact if_pos rfl

theorem haltFirmware_spec (s : State) (core : Nat) :
    ((s.haltFirmware core).ctxOf core 4).halted = true ∧ (s.haltFirmware core).errors = s.errors ++ [(33, core)]
      ∧ (∀ j, j ≠ core * 8 + 4 → { Tbl.get (s.haltFirmware core).ctxs {} j with stopping := none } = { Tbl.get s.ctxs {} j with stopping := none })
      ∧ SameMemory s (s.haltFirmware core) := by
  unfold State.haltFirmware
  dsimp only
  generalize hX : ({ s.setCtx core 4 { s.ctxOf core 4 with halted := true } with errors := s.errors ++ [(causeWatchdog, core)] } : State) = X
  have hc : X.ctxs = Tbl.set s.ctxs (core * 8 + 4) { s.ctxOf core 4 with halted := true } := by rw [← hX]; rfl
  have he : X.errors = s.errors ++ [(33, core)] := by rw [← hX]; rfl
  have hm (a : Nat) : X.memByte a = s.memByte a := by rw [← hX]; rfl
  obtain ⟨h₁, h₂, h₃, h₄⟩ := X.unstop_spec core
  refine ⟨?_, h₂.trans he, fun j hj => (h₄ j).trans ?_, fun a => (h₃ a).trans (hm a)⟩
  · rw [h₁]
    exact congrArg Ctx.halted ((congrArg (fun l : Tbl Ctx => l.get {} (core * 8 + 4)) hc).trans (Tbl.get_set_same ..))
  · rw [hc, Tbl.get_set_ne _ _ _ hj]

/-- The fields of the record that R377 places. -/
theorem mem_faultFields (r : FaultRec) :
    (0x100, 8, r.cause % 256 + (if r.fatal then 2 ^ 8 else 0) + (if r.held then 2 ^ 9 else 0) + r.src % 256 * 2 ^ 16) ∈ faultFields r
      ∧ (0x108, 8, r.pc.toNat) ∈ faultFields r ∧ (0x118, 8, r.detail.toNat) ∈ faultFields r ∧ (0x128, 8, r.time) ∈ faultFields r := by
  simp [faultFields]

/-- Settles O20: the slot stands stopped with the record of its trap, and what serves the cause leaves that record; a fatal trap ends the lot. -/
theorem trapEntry : Obligations.TrapEntry := by
  unfold Obligations.TrapEntry
  intro s core ctx tr hcause c t
  have hτ := s.faulted_spec core ctx (s.trapRecord core ctx tr)
  obtain ⟨hctx, _, hvf, hmode, hpol, hbut, hfields⟩ := hτ
  refine ⟨?_, ?_, ?_, ?_, ?_⟩
  · intro hlt hc f
    obtain ⟨hsame, hmem⟩ := takeTrap_waits hcause hlt hc
    rw [hctx] at hsame
    obtain ⟨hpc, _, _, _, hf, hst⟩ := hsame
    have hnf : (s.trapRecord core ctx tr).fatal = false := by
      unfold State.trapRecord
      rcases hc with hc | hc
      · rw [hc]; rfl
      · rw [hc]; rfl
    refine ⟨hst, hpc, by rw [show f = _ from hf]; rfl, by rw [show f = _ from hf]; rfl, by rw [show f = _ from hf]; rfl, by rw [show f = _ from hf]; rfl,
      by rw [show f = _ from hf]; rfl, by rw [show f = _ from hf]; exact hnf, fun hask => ?_⟩
    have hm := hmem fun h => by rw [hvf, hmode]; exact hask h
    refine ⟨fun pa hpa => (hm pa).trans (hbut pa hpa), fun b hb htop => ?_⟩
    obtain ⟨h₁, h₂, h₃, h₄⟩ := mem_faultFields (s.trapRecord core ctx tr)
    have hread {off n v : Nat} (h : (off, n, v) ∈ faultFields (s.trapRecord core ctx tr)) : t.memNat (b + off) n = v % 256 ^ n :=
      (State.memNat_congr hm _ _).trans (hfields b hb htop _ _ _ h)
    refine ⟨(hread h₁).trans ?_, (hread h₂).trans ?_, (hread h₃).trans ?_, (hread h₄).trans ?_⟩
    · rw [hnf]
      simp only [State.trapRecord, Bool.false_eq_true, if_false]
      omega
    · exact Nat.mod_eq_of_lt c.pc.isLt
    · exact Nat.mod_eq_of_lt tr.detail.isLt
    · rfl
  · intro hlt hfw f
    have hsame := takeTrap_program hcause hlt hfw
    rw [hctx] at hsame
    obtain ⟨hpc, _, _, htask, hf, hst⟩ := hsame
    exact ⟨hst, hpc, htask, by rw [show f = _ from hf]; rfl, by rw [show f = _ from hf]; rfl, by rw [show f = _ from hf]; rfl, by rw [show f = _ from hf]; rfl,
      by rw [show f = _ from hf]; rfl⟩
  · intro hlt hfw hfatal
    have he : t = _ := takeTrap_fatal hcause hlt hfw hfatal
    obtain ⟨hf, htask⟩ := (s.faulted core ctx (s.trapRecord core ctx tr)).killLot_spec core ctx tr.cause
    rw [← he, hctx] at hf htask
    refine ⟨hf.trans ?_, htask⟩
    show s.trapRecord core ctx tr = _
    unfold State.trapRecord
    rw [hfatal, Bool.true_or]
  · intro hlt hfw hc ht
    have he : t = _ := takeTrap_call hcause hlt hfw hc ht
    have hsame := (s.faulted core ctx (s.trapRecord core ctx tr)).trapService_atSame core ctx tr.tcode
    rw [hctx] at hsame
    have hpc := hsame.advance_pc
    refine ⟨by rw [he, State.ctxOf_setCtx_same], ?_, fun h => ?_⟩
    · rw [he, State.ctxOf_setCtx_same]
      exact hpc.trans (Ctx.advance_pc_congr rfl rfl rfl)
    · have hset (σ : State) (d : Ctx) : (σ.setCtx core ctx d).polgen = σ.polgen := rfl
      rw [he, hset, h]
      have hp := (s.faulted core ctx (s.trapRecord core ctx tr)).trapService_polgen core ctx
      rw [hvf, hpol] at hp
      exact hp
  · rintro rfl
    have he : t = _ := takeTrap_firmware s core hcause
    rw [he]
    exact haltFirmware_spec s core

end Sys2Proof.Machine
end

section
/-! ## O12: waiting words -/
namespace Sys2Proof.Machine

/-! ### What a context area holds after it has been written -/

/-- A byte that stands already is not written again. -/
theorem State.areaPut_memByte_stands (σ : State) (l : List (Nat × Byte)) (a : Nat) {v : Byte} (hu : ∀ v', (a, v') ∈ l → v' = v) (h : σ.memByte a = v) :
    (σ.areaPut l).memByte a = v := by
  unfold State.areaPut
  rw [State.writeList_memByte_ne, h]
  intro p hp e
  obtain ⟨hm, hp⟩ := List.mem_filter.mp hp
  rw [Bool.and_eq_true, decide_eq_true_eq, decide_eq_true_eq] at hp
  exact hp.2 (by rw [e, h, hu p.2 (e ▸ hm)])

/-- A byte that does not read as zero stands in the far cache or in sealed memory. -/
theorem State.cellsIn_of_memByte {σ : State} {a lo hi : Nat} (h : σ.memByte a ≠ 0) (hlo : lo ≤ a) (hhi : a < hi) : ∃ v, (a, v) ∈ σ.cellsIn lo hi := by
  unfold State.cellsIn
  simp only [List.mem_append, List.mem_filter, hlo, hhi, decide_true, Bool.and_self, and_true, Bool.true_and]
  unfold State.memByte at h
  cases hf : Tbl.find? σ.fcache a with
  | some b => exact ⟨b, .inl (Tbl.mem_of_find? hf)⟩
  | none =>
    rw [hf] at h
    have hm : memFind σ.mem a ≠ 0 := by
      intro h0
      rw [h0] at h
      exact h rfl
    exact ⟨_, .inr ⟨memFind_mem hm, rfl⟩⟩

/-- The cells of a record among the first 0x700 bytes of its area read as the record has them. -/
theorem State.writeArea_memByte (σ : State) (t : Nat) {base : Nat} {ar : Area} (hb : σ.areaOf t = some base) (hc : (σ.taskOf t).cont = some ar) {off : Nat} {v : Byte}
    (hv : (base + off, v) ∈ ar.cells base (σ.taskOf t).slot (σ.taskOf t).spilled)
    (hu : ∀ v', (base + off, v') ∈ ar.cells base (σ.taskOf t).slot (σ.taskOf t).spilled → v' = v) (hoff : off < 0x700) (htop : base + off < physLimit) :
    (σ.writeArea t).memByte (base + off) = v := by
  unfold State.writeArea
  rw [hb, hc]
  dsimp only
  generalize ar.cells base (σ.taskOf t).slot (σ.taskOf t).spilled = cells at hv hu
  have hlive {v' : Byte} (h : (base + off, v') ∈ cells.filter fun c => decide (c.2 ≠ 0)) : v' = v ∧ v ≠ 0 := by
    obtain ⟨hm, hne⟩ := List.mem_filter.mp h
    have := hu v' hm
    exact ⟨this, this ▸ of_decide_eq_true hne⟩
  by_cases h0 : v = 0
  · subst h0
    have hdead : (cells.filter fun c => decide (c.2 ≠ 0)).any (fun c => decide (c.1 = base + off)) = false := by
      rw [List.any_eq_false]
      intro c hc he
      have he := of_decide_eq_true he
      exact (hlive (v' := c.2) (by rw [← he]; exact hc)).2 rfl
    by_cases hold : σ.memByte (base + off) = 0
    · refine σ.areaPut_memByte_stands _ _ (fun v' hv' => ?_) hold
      rcases List.mem_append.mp hv' with h | h
      · obtain ⟨x, _, hx⟩ := List.mem_map.mp h
        exact (Prod.mk.inj hx).2.symm
      · exact absurd rfl (hlive h).2
    · obtain ⟨w, hw⟩ := σ.cellsIn_of_memByte hold (lo := base) (hi := base + 0x8C0000 + ar.ctx.asize + 2048 * ar.ctx.wsize) (by omega) (by omega)
      refine σ.areaPut_memByte_of_unique _ _ _ (List.mem_append_left _ (List.mem_map.mpr ⟨_, List.mem_filter.mpr ⟨hw, ?_⟩, rfl⟩)) (fun v' hv' => ?_) htop
      · rw [hdead, Bool.not_false, Bool.and_true, List.any_eq_true]
        refine ⟨(0, 0x700), List.mem_append_left _ List.mem_cons_self, ?_⟩
        simp only [Bool.and_eq_true, decide_eq_true_eq]
        omega
      · rcases List.mem_append.mp hv' with h | h
        · obtain ⟨x, _, hx⟩ := List.mem_map.mp h
          exact (Prod.mk.inj hx).2.symm
        · exact absurd rfl (hlive h).2
  · have hin : (base + off, v) ∈ cells.filter fun c => decide (c.2 ≠ 0) := List.mem_filter.mpr ⟨hv, decide_eq_true h0⟩
    refine σ.areaPut_memByte_of_unique _ _ _ (List.mem_append_right _ hin) (fun v' hv' => ?_) htop
    rcases List.mem_append.mp hv' with h | h
    · obtain ⟨x, hx, he⟩ := List.mem_map.mp h
      have hdead := (Bool.and_eq_true_iff.mp (List.mem_filter.mp hx).2).2
      rw [Bool.not_eq_true', List.any_eq_false] at hdead
      exact absurd (decide_eq_true (Prod.mk.inj he).1.symm) (hdead _ hin)
    · exact (hlive h).1


/-- The places and widths of the fixed fields of a checkpoint record (R325). -/
def checkPlaces : List (Nat × Nat) := [(0x180, 8), (0x188, 8), (0x190, 8), (0x198, 1), (0x199, 1), (0x19A, 6)]

/-- The fixed fields of a checkpoint record. -/
def checkHead (k : Checkpoint) : List (Nat × Nat × Nat) :=
  [(0x180, 8, k.pc.toNat), (0x188, 8, k.npc.toNat), (0x190, 8, k.mask.toNat), (0x198, 1, k.pslots), (0x199, 1, k.kind), (0x19A, 6, 0)]

theorem mem_checkPlaces {k : Checkpoint} {f : Nat × Nat × Nat} (hf : f ∈ checkHead k) : (f.1, f.2.1) ∈ checkPlaces :=
  (List.mem_map.mpr ⟨f, hf, rfl⟩ : (f.1, f.2.1) ∈ (checkHead k).map fun f => (f.1, f.2.1))

theorem checkPlaces_apart : ∀ x ∈ checkPlaces, 0x180 ≤ x.1 ∧ x.1 + x.2 ≤ 0x1A0 ∧ ∀ y ∈ checkPlaces, x.1 < y.1 + y.2 → y.1 < x.1 + x.2 → x = y := by decide

theorem checkHead_unique {k : Checkpoint} {f g : Nat × Nat × Nat} (hf : f ∈ checkHead k) (hg : g ∈ checkHead k) {i j : Nat} (hi : i < f.2.1) (hj : j < g.2.1)
    (h : f.1 + i = g.1 + j) : g = f := by
  have hp := (checkPlaces_apart _ (mem_checkPlaces hf)).2.2 _ (mem_checkPlaces hg) (by dsimp only; omega) (by dsimp only; omega)
  have hnd : ((checkHead k).map fun f => f.1).Nodup := (by decide : (checkPlaces.map fun x => x.1).Nodup)
  exact List.inj_on_of_nodup_map hnd hg hf (Prod.mk.inj hp).1.symm

/-- What stands in an area between its offsets 0x180 and 0x1A0, where it holds the record of a wait, is the record's head alone. -/
theorem Area.cells_head {a : Area} (hw : a.whole = false) (hk : a.ctx.check.kind ≠ 4) {base slot : Nat} {sp : Tbl (List (BitVec 32))} {p : Nat × Byte}
    (hlo : base + 0x180 ≤ p.1) (hhi : p.1 < base + 0x1A0) : p ∈ a.cells base slot sp ↔ p ∈ fieldBytes base (checkHead a.ctx.check) := by
  have hsnap : (a.whole || decide (a.ctx.check.kind = 4)) = false := by rw [hw, decide_eq_false hk]; rfl
  unfold Area.cells
  rw [hsnap, hw]
  simp only [Bool.false_eq_true, if_false, List.append_nil]
  constructor
  · intro hp
    simp only [List.mem_append] at hp
    rcases hp with ((hp | hp) | hp) | hp
    · obtain ⟨f, hf, i, hi, rfl⟩ := mem_fieldBytes.mp hp
      dsimp only at hlo hhi
      simp only [List.mem_append] at hf
      rcases hf with ((((hf | hf) | hf) | hf) | hf) | hf
      · simp only [Area.headerFields, List.mem_cons, List.not_mem_nil, or_false] at hf
        rcases hf with rfl | rfl | rfl | rfl | rfl | rfl | rfl <;> dsimp only at hlo hhi hi <;> omega
      · have := (faultPlaces_apart _ (mem_faultPlaces hf)).1
        dsimp only at this
        omega
      · obtain ⟨t, ht, rfl⟩ := List.mem_map.mp hf
        have := List.mem_range.mp ht
        dsimp only at hlo hhi hi
        omega
      · unfold checkFields at hf
        rcases List.mem_append.mp hf with hf | hf
        · exact mem_fieldBytes.mpr ⟨f, hf, i, hi, rfl⟩
        · obtain ⟨x, _, rfl⟩ := List.mem_map.mp hf
          dsimp only at hlo hhi
          omega
      · have hreg : 0x300 ≤ f.1 := by
          unfold regFields at hf
          simp only [List.mem_append, List.mem_map, List.mem_range, List.mem_cons, List.not_mem_nil, or_false] at hf
          rcases hf with (⟨x, _, rfl⟩ | ⟨x, _, rfl⟩) | rfl | rfl | rfl | rfl | rfl | rfl <;> dsimp only <;> omega
        omega
      · obtain ⟨x, _, rfl⟩ := List.mem_map.mp hf
        dsimp only at hlo hhi
        omega
    · obtain ⟨x, _, hx⟩ := List.mem_flatMap.mp hp
      obtain ⟨e, _, i, _, rfl⟩ := mem_slabBytes.mp hx
      dsimp only at hlo hhi
      omega
    · obtain ⟨x, _, rfl⟩ := List.mem_map.mp hp
      dsimp only at hlo hhi
      omega
    · obtain ⟨x, _, hx⟩ := List.mem_flatMap.mp hp
      have := (bytesAt_fst hx).1
      omega
  · intro hp
    refine List.mem_append_left _ (List.mem_append_left _ (List.mem_append_left _ ?_))
    obtain ⟨f, hf, i, hi, rfl⟩ := mem_fieldBytes.mp hp
    exact mem_fieldBytes.mpr ⟨f, by simp only [List.mem_append]; exact .inl (.inl (.inr (List.mem_append_left _ hf))), i, hi, rfl⟩

/-- A field of the head of a wait's record stands in the area. -/
theorem State.writeArea_head (σ : State) (t : Nat) {base : Nat} {ar : Area} (hb : σ.areaOf t = some base) (hc : (σ.taskOf t).cont = some ar) (hw : ar.whole = false)
    (hk : ar.ctx.check.kind ≠ 4) (htop : base + 0x300 ≤ physLimit) {off n v : Nat} (hf : (off, n, v) ∈ checkHead ar.ctx.check) :
    (σ.writeArea t).memNat (base + off) n = v % 256 ^ n := by
  obtain ⟨hlo, hhi, _⟩ := checkPlaces_apart _ (mem_checkPlaces hf)
  dsimp only at hlo hhi
  refine memNat_bytes _ _ _ _ fun i hi => ?_
  rw [Nat.add_assoc]
  refine σ.writeArea_memByte t hb hc ?_ (fun v' hv' => ?_) (by omega) (by omega)
  · refine (Area.cells_head hw hk (by dsimp only; omega) (by dsimp only; omega)).mpr (mem_fieldBytes.mpr ⟨_, hf, i, hi, ?_⟩)
    dsimp only
    rw [Nat.add_assoc]
  · have hm := (Area.cells_head hw hk (by dsimp only; omega) (by dsimp only; omega)).mp hv'
    obtain ⟨g, hg, j, hj, he⟩ := mem_fieldBytes.mp hm
    obtain ⟨ha, rfl⟩ := Prod.mk.inj he
    obtain rfl := checkHead_unique hf hg hi hj (by dsimp only at ha ⊢; omega)
    rw [show i = j by dsimp only at ha; omega]

/-! ### A lot that suspends -/

/-- The registers of a record are those that its mask names. -/
theorem Ctx.record_regs (c : Ctx) (mask : Word) (kind : Nat) :
    (∀ r < 32, Tbl.get (c.record mask kind).s 0 r = if r = 0 then 0 else if mask.getLsbD r then Tbl.get c.s 0 r else 0)
      ∧ (∀ b < 8, Tbl.get (c.record mask kind).b 0 b = if mask.getLsbD (32 + b) then Tbl.get c.b 0 b else 0)
      ∧ (∀ f < 8, Tbl.get (c.record mask kind).f false f = if mask.getLsbD (40 + f) then Tbl.get c.f false f else false) := by
  have hget {α : Type} (t : Tbl α) (d : α) (keep : Nat → Bool) (i : Nat) : Tbl.get (t.filter fun p => keep p.1) d i = if keep i then Tbl.get t d i else d := by
    unfold Tbl.get
    by_cases hk : keep i = true
    · rw [Tbl.find?_filter_all _ _ _ fun _ => hk, if_pos hk]
    · rw [Tbl.find?_filter_none _ _ _ fun _ => Bool.not_eq_true _ ▸ hk, if_neg hk]
      rfl
  refine ⟨fun r hr => ?_, fun b hb => ?_, fun f hf => ?_⟩
  · refine (hget c.s 0 (fun r => decide (1 ≤ r) && mask.getLsbD r && decide (r < 32)) r).trans ?_
    by_cases h0 : r = 0
    · subst h0
      rfl
    · simp only [show 1 ≤ r by omega, hr, decide_true, Bool.true_and, Bool.and_true, if_neg h0]
  · refine (hget c.b 0 (fun b => mask.getLsbD (32 + b) && decide (b < 8)) b).trans ?_
    simp only [hb, decide_true, Bool.and_true]
  · refine (hget c.f false (fun f => mask.getLsbD (40 + f) && decide (f < 8)) f).trans ?_
    simp only [hf, decide_true, Bool.and_true]

/-- The state in which a lot's leases are back and its commit is made. -/
def State.settled (s : State) : State := (s.commit s.core s.ctx).returnLeases s.core s.ctx

/-- The record a lot that suspends leaves. -/
def State.waitArea (s : State) (mask : Word) : Area :=
  let c := (s.settled.ctxOf s.core s.ctx).advance
  (s.settled.setCtx s.core s.ctx c).areaWait s.core s.ctx (c.record mask 3)

theorem State.settled_ctxOf (s : State) : ∃ fs lg ps, s.settled.ctxOf s.core s.ctx = { s.cx with
    held := [], combs := [], seen := [], vseen := [], after := [], lines := [], lineVas := [], fences := fs, linkGens := lg, posted := ps } := by
  obtain ⟨_, lg, h⟩ := ((s.commit s.core s.ctx).leaseStep_returnLeases s.core s.ctx).ctxs s.core s.ctx
  obtain ⟨_, ps, hc⟩ := s.commit_ctxOf s.core s.ctx
  unfold State.settled
  rw [h, hc]
  exact ⟨_, lg, ps, rfl⟩

theorem State.waitArea_spec (s : State) (mask : Word) :
    (s.waitArea mask).whole = false ∧ (s.waitArea mask).ctx.check.kind = 3 ∧ (s.waitArea mask).ctx.check.mask = mask
      ∧ (s.waitArea mask).ctx.check.pc = s.cx.advance.pc ∧ (s.waitArea mask).ctx.pc = s.cx.advance.pc
      ∧ (∀ r < 32, (s.waitArea mask).ctx.sreg r = if mask.getLsbD r then s.cx.sreg r else 0)
      ∧ (∀ b < 8, (s.waitArea mask).ctx.breg b = if mask.getLsbD (32 + b) then s.cx.breg b else 0)
      ∧ (∀ f < 8, (s.waitArea mask).ctx.flag f = if mask.getLsbD (40 + f) then s.cx.flag f else false) := by
  obtain ⟨fs, lg, ps, h⟩ := s.settled_ctxOf
  unfold State.waitArea
  extract_lets c
  have hpc : c.pc = s.cx.advance.pc := by
    show (s.settled.ctxOf s.core s.ctx).advance.pc = _
    rw [h]
    exact Ctx.advance_pc_congr rfl rfl rfl
  have hregs : c.s = s.cx.s ∧ c.b = s.cx.b ∧ c.f = s.cx.f := by
    obtain ⟨pc, ps', ha⟩ := (s.settled.ctxOf s.core s.ctx).advance_shape
    show (s.settled.ctxOf s.core s.ctx).advance.s = _ ∧ (s.settled.ctxOf s.core s.ctx).advance.b = _ ∧ (s.settled.ctxOf s.core s.ctx).advance.f = _
    rw [ha, h]
    exact ⟨rfl, rfl, rfl⟩
  clear_value c
  obtain ⟨hs, hb, hf⟩ := hregs
  obtain ⟨hrs, hrb, hrf⟩ := c.record_regs mask 3
  rw [hs] at hrs
  rw [hb] at hrb
  rw [hf] at hrf
  refine ⟨rfl, rfl, rfl, hpc, hpc, fun r hr => ?_, hrb, hrf⟩
  show (if r = 0 then 0 else Tbl.get (c.record mask 3).s 0 r) = if mask.getLsbD r then (if r = 0 then 0 else Tbl.get s.cx.s 0 r) else 0
  rw [hrs r hr]
  by_cases h0 : r = 0
  · simp [h0]
  · simp only [if_neg h0]

theorem State.BodyStep.acting {σ τ : State} (h : σ.BodyStep τ) : τ.core = σ.core ∧ τ.ctx = σ.ctx := by
  obtain ⟨_, _, _, _, _, _, _, _, _, _, _, _, _, _, _, _, _, _, _, _, _, _, _, rfl⟩ := h
  exact ⟨rfl, rfl⟩

theorem State.BodyStep.cycle {σ τ : State} (h : σ.BodyStep τ) : τ.cycle = σ.cycle := by
  obtain ⟨_, _, _, _, _, _, _, _, _, _, _, _, _, _, _, _, _, _, _, _, _, _, _, rfl⟩ := h
  rfl

theorem State.suspend_bodyStep (s : State) (mask : Word) (k : Nat) : (s.commit s.core s.ctx).BodyStep (s.suspend mask k) := by
  unfold State.suspend
  extract_lets core slot σ₁ vf σ₂ c area σ₃ σ₄ tk i σ₅ pinned σ₆
  have h₄ : σ₁.BodyStep σ₄ := ((((State.lotStep_returnLeases σ₁ core slot).trans (State.lotStep_recode _ core slot 5 (some k)))).trans (State.lotStep_repool _ k)).body
  have h₅ : σ₄.BodyStep σ₅ := (State.lotStep_ite (.refl σ₄) .of).body
  have h₆ : σ₅.BodyStep σ₆ := State.LotStep.body .of
  exact (((h₄.trans h₅).trans h₆).trans (State.bodyStep_writeArea σ₆ k)).trans (State.lotStep_freeSlot _ core slot).body

theorem State.suspend_acting (s : State) (mask : Word) (k : Nat) : (s.suspend mask k).core = s.core ∧ (s.suspend mask k).ctx = s.ctx :=
  ((s.suspend_bodyStep mask k).acting).imp (·.trans (s.commit_acting s.core s.ctx).1) (·.trans (s.commit_acting s.core s.ctx).2)

/-- What a lot that suspends leaves: its task waits in an area with the record, and its slot is free. -/
theorem State.suspend_spec (s : State) (mask : Word) (k : Nat) :
    (∃ i, ((s.suspend mask k).taskOf k).state = .waiting ∧ ((s.suspend mask k).taskOf k).ctxId = some i
        ∧ ((s.suspend mask k).taskOf k).cont = some (s.waitArea mask)) ∧ (s.suspend mask k).cx.task = none
      ∧ ∀ p, (s.suspend mask k).areaOf k = some p → p + 0x300 ≤ physLimit →
          (s.suspend mask k).memNat (p + 0x180) 8 = s.cx.advance.pc.toNat ∧ (s.suspend mask k).memNat (p + 0x190) 8 = mask.toNat
          ∧ (s.suspend mask k).memNat (p + 0x199) 1 = 3 := by
  have hact : (s.suspend mask k).core = s.core ∧ (s.suspend mask k).ctx = s.ctx := s.suspend_acting mask k
  obtain ⟨hw, hkind, hmask, hcpc, _⟩ := s.waitArea_spec mask
  generalize har : s.waitArea mask = ar at hw hkind hmask hcpc
  have hsus : ∃ (τ : State) (i : Nat), s.suspend mask k = (τ.writeArea k).freeSlot s.core s.ctx ∧ (τ.taskOf k).state = .waiting ∧ (τ.taskOf k).ctxId = some i
      ∧ (τ.taskOf k).cont = some ar := by
    unfold State.suspend
    extract_lets core slot σ₁ vf σ₂ c area σ₃ σ₄ tk i σ₅ pinned σ₆
    refine ⟨σ₆, i, rfl, ?_⟩
    have h : σ₆.taskOf k = _ := State.taskOf_setTask_same σ₅ k _
    rw [h]
    exact ⟨rfl, rfl, congrArg some har⟩
  obtain ⟨τ, i, he, hst, hid, hc⟩ := hsus
  have hkept := (τ.keepsTasks_writeArea k).trans (State.keepsTasks_freeSlot _ s.core s.ctx)
  have ht : (s.suspend mask k).taskOf k = τ.taskOf k := by rw [he]; exact hkept.taskOf k
  refine ⟨⟨i, by rw [ht, hst], by rw [ht, hid], by rw [ht, hc]⟩, ?_, fun p hp htop => ?_⟩
  · unfold State.cx
    rw [hact.1, hact.2, he]
    exact State.ctxOf_freeSlot ..
  · have hbar : (s.suspend mask k).bar = τ.bar := by
      rw [he]
      exact ((τ.bodyStep_writeArea k).trans (State.lotStep_freeSlot _ s.core s.ctx).body).kept.1
    have hpa : τ.areaOf k = some p := by
      rw [← hp]
      exact (State.areaOf_congr (by rw [ht]) (by rw [ht]) (by rw [ht]) (by rw [he]; exact hkept.nodes) hbar).symm
    have hm (a n : Nat) : (s.suspend mask k).memNat a n = (τ.writeArea k).memNat a n := by rw [he]; rfl
    have hread {off n v : Nat} (hf : (off, n, v) ∈ checkHead ar.ctx.check) : (s.suspend mask k).memNat (p + off) n = v % 256 ^ n :=
      (hm _ _).trans (τ.writeArea_head k hpa hc hw (by rw [hkind]; decide) htop hf)
    refine ⟨(hread (by simp [checkHead] : (0x180, 8, ar.ctx.check.pc.toNat) ∈ _)).trans ?_, (hread (by simp [checkHead] : (0x190, 8, ar.ctx.check.mask.toNat) ∈ _)).trans ?_,
      (hread (by simp [checkHead] : (0x199, 1, ar.ctx.check.kind) ∈ _)).trans ?_⟩
    · rw [hcpc]
      exact Nat.mod_eq_of_lt s.cx.advance.pc.isLt
    · rw [hmask]
      exact Nat.mod_eq_of_lt mask.isLt
    · rw [hkind]
      rfl


/-- The state in which task `k` waits for the allocator of its core, with the request `r`. -/
def State.asked (σ : State) (core k : Nat) (r : LeaseReq) : State :=
  (σ.setCore core { σ.coreOf core with reqs := (σ.coreOf core).reqs ++ [r] }).setTask k { σ.taskOf k with core := some core }

theorem State.asked_spec (σ : State) (core k : Nat) (r : LeaseReq) :
    ((σ.asked core k r).coreOf core).reqs = (σ.coreOf core).reqs ++ [r] ∧ (σ.asked core k r).taskOf k = { σ.taskOf k with core := some core } := by
  refine ⟨?_, State.taskOf_setTask_same ..⟩
  have h : (σ.asked core k r).coreOf core = _ := State.coreOf_setCore_same σ core { σ.coreOf core with reqs := (σ.coreOf core).reqs ++ [r] }
  rw [h]

theorem State.foldl_cycle {β : Type} {f : State → β → State} (h : ∀ (σ : State) b, (f σ b).cycle = σ.cycle) (l : List β) (σ : State) : (l.foldl f σ).cycle = σ.cycle := by
  induction l generalizing σ with
  | nil => rfl
  | cons b l ih => exact (ih _).trans (h σ b)

theorem State.releaseHeld_cycle (σ : State) (core slot : Nat) : (σ.releaseHeld core slot).cycle = σ.cycle := by
  unfold State.releaseHeld
  exact State.foldl_cycle (f := fun σ e => σ.setEng core e { σ.engOf core e with queue := releaseCmds (σ.engOf core e).queue }) (fun _ _ => rfl) _ σ

theorem State.WroteBytes.cycle {σ τ : State} (h : σ.WroteBytes τ) : τ.cycle = σ.cycle := by
  obtain ⟨_, _, _, _, rfl⟩ := h
  rfl

theorem State.commit_cycle (σ : State) (core ctx : Nat) : (σ.commit core ctx).cycle = σ.cycle :=
  (State.foldl_cycle (fun τ r => (State.writeFault_shape (τ.setCtx core ctx _) core ctx r false).cycle) (σ.commitFaults _ core ctx) _).trans
    (σ.committedBytes_shape core ctx).cycle

theorem State.suspend_cycle (σ : State) (mask : Word) (k : Nat) : (σ.suspend mask k).cycle = σ.cycle :=
  (σ.suspend_bodyStep mask k).cycle.trans (σ.commit_cycle ..)

/-! ### The waiting words -/

/-- Every engine of the lot has completed, and there is an area for its record. -/
def State.canSuspend (h : State) (core slot : Nat) : Prop := h.lotQuiet core slot = true ∧ h.areaReady core slot = true

theorem State.releaseHeld_leaseStep (s : State) (core slot : Nat) : s.LeaseStep (s.releaseHeld core slot) :=
  .foldl (fun σ _ => σ.leaseStep_setEng _ _ _) _ s

section Waits
variable {s : State} {k : Nat} (hk : s.cx.task = some k)
include hk

theorem waitTask_waits (mask : Word) (go : State → Nat → Out) :
    (¬ (s.releaseHeld s.core s.ctx).canSuspend s.core s.ctx → s.waitTask mask go = .next (s.releaseHeld s.core s.ctx).stalled)
      ∧ ((s.releaseHeld s.core s.ctx).canSuspend s.core s.ctx → s.waitTask mask go = go ((s.releaseHeld s.core s.ctx).suspend mask k) k) := by
  obtain ⟨hcore, hctx⟩ := (s.releaseHeld_leaseStep s.core s.ctx).acting
  unfold State.waitTask
  rw [hk]
  dsimp only
  generalize s.releaseHeld s.core s.ctx = h at hcore hctx
  rw [hcore, hctx]
  unfold State.canSuspend
  constructor
  · intro hn
    rw [if_pos]
    · rfl
    · by_contra hc
      rw [not_or] at hc
      exact hn ⟨by simpa using hc.1, by simpa using hc.2⟩
  · rintro ⟨hq, ha⟩
    rw [if_neg (by rw [hq, ha]; simp)]

/-- A waiting word whose own checks have passed is its wait. -/
theorem waits_of_eq {i : Instr} {mask : Word} {go : State → Nat → Out} (h : exec i s = s.waitTask mask go) :
    (¬ (s.releaseHeld s.core s.ctx).canSuspend s.core s.ctx → exec i s = .next (s.releaseHeld s.core s.ctx).stalled)
      ∧ ((s.releaseHeld s.core s.ctx).canSuspend s.core s.ctx → exec i s = go ((s.releaseHeld s.core s.ctx).suspend mask k) k) := by
  rw [h]
  exact waitTask_waits hk mask go

variable (hp : s.cx.pslots = 0)
include hp

omit hk in
theorem inSlot_false : s.inSlot = false := by
  unfold State.inSlot
  rw [hp]
  rfl

omit hk in
theorem exec_waitc_waits {a b m : BitVec 5} {c : BitVec 3} {x : Xl} (hm : maskOk (s.cx.sreg m.toNat) = true) (hc : c.toNat < 4) (ha : (s.cx.sreg a.toNat).toNat % 8 = 0)
    (ht : s.translate s.core s.ctx (s.cx.sreg a.toNat) .read .near = .ok x)
    (hx : s.accessCheck (s.vfOf s.core s.ctx) x.pa 8 (s.cx.sreg a.toNat) = .ok ()) :
    exec (.waitc a b m c) s = s.waitTask (s.cx.sreg m.toNat) fun σ k =>
      if watchHolds c.toNat ((σ.fill x.pa).memNat x.pa 8) (s.cx.sreg b.toNat).toNat then .next ((σ.fill x.pa).enqueueCont k)
      else .next { σ.fill x.pa with watches := (σ.fill x.pa).watches ++ [{ pa := x.pa, cond := c.toNat, value := s.cx.sreg b.toNat, task := some k }] } := by
  show execWaitc a b m c s = _
  unfold execWaitc State.rs aligned
  dsimp only
  rw [inSlot_false hp, if_neg (by simp [hm, hc]), if_neg (by simp [ha]), ht]
  dsimp only
  rw [hx]

omit hk in
theorem exec_leaseWait_waits {d m : BitVec 5} {copy : Bool} {shape cls : Nat} (hm : maskOk (s.cx.sreg m.toNat) = true) (hs : shape ≤ 4) :
    s.leaseWait d m copy shape cls = s.waitTask (s.cx.sreg m.toNat) fun σ k =>
      .next (σ.asked s.core k { copy := copy, shape := shape, cls := cls, eff := cls, since := σ.cycle + 1, task := k, rd := d.toNat }) := by
  unfold State.leaseWait State.rs
  dsimp only
  rw [inSlot_false hp, if_neg (by rw [hm]; simp [hs])]
  rfl

omit hk in
theorem exec_mbobsW_waits {a b m : BitVec 5} (hm : maskOk (s.cx.sreg m.toNat) = true)
    (hg : s.gateCheck (s.cx.sreg a.toNat) (s.cx.sreg b.toNat) false = .ok ()) :
    exec (.mbobsW a b m) s = s.waitTask (s.cx.sreg m.toNat) fun σ k =>
      match (σ.gateOf (s.cx.sreg a.toNat).toNat).obs with
      | m :: r => .next (((σ.setGate (s.cx.sreg a.toNat).toNat { σ.gateOf (s.cx.sreg a.toNat).toNat with obs := r }).deliverMsg
          (s.cx.sreg a.toNat).toNat k (s.cx.sreg b.toNat) m).enqueueCont k)
      | [] => .next (σ.setGate (s.cx.sreg a.toNat).toNat
          { σ.gateOf (s.cx.sreg a.toNat).toNat with waiters := (σ.gateOf (s.cx.sreg a.toNat).toNat).waiters ++ [(k, s.cx.sreg b.toNat)] }) := by
  show execMbobsW a b m s = _
  unfold execMbobsW State.rs
  dsimp only
  rw [inSlot_false hp, if_neg (by simp [hm]), hg] <;> rfl

section Market
variable {b r : BitVec 5} {fm : BitVec 8} {take : Bool} {x : Xl} {key : List Word} {n : Nat} (hkey : s.group 1 = key) (hn : mkSlice x.frame (key.getD 0 0) = n) (hm : maskOk (s.cx.sreg r.toNat) = true) (hctx : s.ctx < 4) (hf : fm.getLsbD 0 = true)
  (ht : s.translate s.core s.ctx (s.cx.sreg b.toNat) (if take then .rmw else .read) .market = .ok x) (ho : s.mkOwner x = true)
include hkey hn hm hctx hf ht ho
omit hk

theorem mkWait_parks (hnone : (s.sliceOf n).find x.frame fm key = none)
    (hroom : (s.sliceOf n).parked.length
      + ((s.sliceOf n).tuples.filter fun t => decide (t.place = 2)).length < 1024) :
    s.mkWait b fm r take = s.waitTask (s.cx.sreg r.toNat) fun σ k =>
      .next (σ.setSlice n { σ.sliceOf n with
        parked := (σ.sliceOf n).parked ++
          [{ frame := x.frame, mask := fm, fields := key, take := take, seq := (σ.sliceOf n).seq, task := k }],
        seq := (σ.sliceOf n).seq + 1 }) := by
  have hfw : ¬ s.ctx = Config.fwCtx := by
    show ¬ s.ctx = 4
    omega
  unfold State.mkWait State.mkBegin State.rs
  dsimp only
  rw [inSlot_false hp, if_neg (by rw [hf]; simp [hm]), if_neg hfw, ht]
  dsimp only
  rw [hkey, hn, hnone]
  dsimp only
  rw [if_neg (by rw [ho]; simp), if_neg (Nat.not_le.mpr hroom)]

theorem mkWait_found {tp : Tuple} (hfound : (s.sliceOf n).find x.frame fm key = some tp) (hseal : s.mkSeal tp = true) :
    ∃ (d : State → Nat → State) (v : State → Nat → Task), s.mkWait b fm r take = s.waitTask (s.cx.sreg r.toNat) (fun σ k => .next (((d σ k).setTask k (v σ k)).enqueueCont k))
      ∧ ∀ σ k, (v σ k).state = (σ.taskOf k).state := by
  have hfw : ¬ s.ctx = Config.fwCtx := by
    show ¬ s.ctx = 4
    omega
  unfold State.mkWait State.mkBegin State.rs
  dsimp only
  rw [inSlot_false hp, if_neg (by rw [hf]; simp [hm]), if_neg hfw, ht]
  dsimp only
  rw [hkey, hn, hfound]
  dsimp only
  rw [if_neg (by rw [ho]; simp), if_neg (by rw [hseal]; simp)]
  refine ⟨_, _, rfl, fun σ k => ?_⟩
  unfold State.deliverTuple
  show (State.taskOf (State.setTask _ k _) k).state = _
  rw [State.taskOf_setTask_same]
  dsimp only
  split
  · rfl
  · rfl

end Market

end Waits

theorem State.enqueueCont_of_state {σ : State} {t : Nat} {v : Task} (h : v.state = .waiting) :
    (((σ.setTask t v).enqueueCont t).taskOf t).state = .pooled ∧ t ∈ ((σ.setTask t v).enqueueCont t).pool :=
  State.enqueueCont_waiting ((congrArg Task.state (State.taskOf_setTask_same ..)).trans h)

theorem State.sliceOf_setSlice_same (σ : State) (n : Nat) (m : MkSlice) : (σ.setSlice n m).sliceOf n = m := Tbl.get_set_same ..

/-- Settles O12: a lot suspends with the registers its mask names, once it is quiet and an area is free, and its word registers with the unit it waits for. -/
theorem waitingInstructions : Obligations.WaitingInstructions := by
  unfold Obligations.WaitingInstructions
  refine ⟨?_, ?_⟩
  · intro s mask k _ t
    obtain ⟨⟨i, hst, hid, hc⟩, htask, hmem⟩ := s.suspend_spec mask k
    obtain ⟨_, _, _, _, hpc, hs, hb, hf⟩ := s.waitArea_spec mask
    exact ⟨hst, by rw [show t.taskOf k = _ from rfl, hid]; rfl, htask, _, hc, hpc, hs, hb, hf, hmem⟩
  intro s a b d m c c2 q fm x k h va v mask u filled ready waits key n found mkPre room parkedAs hk hp hlt
  have hm : maskOk mask = true := decide_eq_true hlt
  have hkey : s.group 1 = key := rfl
  have hn : mkSlice x.frame (key.getD 0 0) = n := rfl
  clear_value n key
  have hst : (u.taskOf k).state = .waiting := by
    obtain ⟨⟨_, hst, _, _⟩, _, _⟩ := h.suspend_spec mask k
    exact hst
  have hwait {i : Instr} {pre go : Prop} {f : State → Nat → Out} (he : pre → exec i s = s.waitTask mask f) (hgo : exec i s = f u k → go) : waits i pre go := by
    intro hpre
    obtain ⟨hn, hy⟩ := waits_of_eq hk (he hpre)
    exact ⟨hn, fun hr => hgo (hy hr)⟩
  have hcyc : u.cycle + 1 = s.cycle + 1 := congrArg (· + 1) ((h.suspend_cycle mask k).trans (s.releaseHeld_cycle s.core s.ctx))
  clear_value u
  have hpark {i : Instr} {kind : Kind} {take : Bool} (hi : exec i s = s.mkWait a fm m take) (hkind : kind = if take then .rmw else .read) :
      waits i (mkPre kind ∧ (s.sliceOf n).find x.frame fm key = none ∧ room) (∃ t, exec i s = .next t ∧ parkedAs take t) := by
    subst hkind
    refine hwait (fun ⟨⟨hctx, hf, ht, ho⟩, hnone, hroom⟩ => hi.trans (mkWait_parks hp hkey hn hm hctx hf ht ho hnone hroom)) fun he => ⟨_, he, ?_, hst⟩
    rw [State.sliceOf_setSlice_same]
  have htake {i : Instr} {kind : Kind} {take : Bool} (hi : exec i s = s.mkWait a fm m take) (hkind : kind = if take then .rmw else .read) :
      waits i (mkPre kind ∧ found) (∃ t, exec i s = .next t ∧ (t.taskOf k).state = .pooled ∧ k ∈ t.pool) := by
    subst hkind
    intro hpre
    obtain ⟨⟨hctx, hf, ht, ho⟩, tp, hfound, hseal⟩ := hpre
    obtain ⟨σ, w, he, hw⟩ := mkWait_found hp hkey hn hm hctx hf ht ho hfound hseal
    exact hwait (pre := True) (fun _ => hi.trans he) (fun he => ⟨_, he, State.enqueueCont_of_state ((hw u k).trans hst)⟩) trivial
  refine ⟨?_, ?_, ?_, ?_, ?_, hpark rfl rfl, hpark rfl rfl, htake rfl rfl, htake rfl rfl⟩
  · intro hc
    show execWaitc a b m c s = _
    unfold execWaitc
    dsimp only
    rw [if_pos (.inr (.inl hc))]
    rfl
  · refine hwait (fun ⟨hc, ha, ht, hx⟩ => exec_waitc_waits hp hm hc ha ht hx) fun he => ⟨fun hw => ?_, fun hw => ?_⟩
    · exact he.trans (if_pos hw)
    · exact he.trans (if_neg (Bool.not_eq_true _ ▸ hw))
  · refine hwait (fun hs => (exec_leaseWait_waits hp hm hs : s.leaseWait d m false (q.toNat % 8) (q.toNat / 8) = _)) fun he => ?_
    obtain ⟨hreqs, htask⟩ := u.asked_spec s.core k { copy := false, shape := q.toNat % 8, cls := q.toNat / 8, eff := q.toNat / 8, since := u.cycle + 1, task := k, rd := d.toNat }
    exact ⟨_, _, he, hreqs, rfl, rfl, rfl, hcyc, rfl, by rw [htask]; exact hst, by rw [htask]⟩
  · refine hwait (fun _ => (exec_leaseWait_waits hp hm (Nat.zero_le 4) : s.leaseWait d m true 0 c2.toNat = _)) fun he => ?_
    obtain ⟨hreqs, htask⟩ := u.asked_spec s.core k { copy := true, shape := 0, cls := c2.toNat, eff := c2.toNat, since := u.cycle + 1, task := k, rd := d.toNat }
    exact ⟨_, _, he, hreqs, rfl, rfl, hcyc, rfl, by rw [htask]; exact hst⟩
  · refine hwait (fun hg => exec_mbobsW_waits hp hm hg) fun he => ⟨fun hobs => ?_, fun msg r hobs => ?_⟩
    · rw [he]
      dsimp only
      rw [show (u.gateOf (s.cx.sreg a.toNat).toNat).obs = [] from hobs]
    · rw [he]
      dsimp only
      rw [show (u.gateOf (s.cx.sreg a.toNat).toNat).obs = msg :: r from hobs]

end Sys2Proof.Machine
end

section
/-! ## O32: the commands of an engine's queue -/
namespace Sys2Proof.Machine



/-- What a vector program's order behind a copy of the lot leaves. -/
theorem State.orderAfter_kept (σ : State) (core slot : Nat) (p : Prog) (c e : Nat) :
    (σ.orderAfter core slot p).engOf c e = σ.engOf c e ∧ SameMemory σ (σ.orderAfter core slot p) := by
  have hbytes (τ : State) (ls : List (Tbl Nat)) : (τ.orderBytes core slot ls).engOf c e = τ.engOf c e ∧ SameMemory τ (τ.orderBytes core slot ls) := by
    obtain ⟨d, -, h | ⟨h, -⟩⟩ := τ.orderBytes_shape core slot ls
    · rw [h]
      exact ⟨rfl, fun _ => rfl⟩
    · rw [h]
      exact ⟨rfl, fun _ => rfl⟩
  unfold State.orderAfter
  dsimp only
  split
  · exact ⟨rfl, fun _ => rfl⟩
  · exact hbytes (σ.swapViews core slot) _

section Start
variable {s : State} {core e : Nat}

theorem engineCommandStart_program {id : Nat} {held : Bool} {p : Prog} {rest : List Cmd} (hq : (s.engOf core e).queue = ⟨id, held, .program p⟩ :: rest)
    (hd : s.startDue core e = true) : ∃ t u, exec (.engineCommandStart core e) s = .next t ∧ (t.engOf core e).queue = rest ∧ (t.engOf core e).run = some u
      ∧ u.prog = p ∧ u.id = id ∧ u.upc = 0 ∧ u.idx = p.loops.map (fun _ => 0) ∧ u.halted = false ∧ SameMemory s t := by
  generalize hrun : ({ id := id, prog := p, idx := p.loops.map fun _ => 0, start := s.time } : Run) = u
  have hu : u.prog = p ∧ u.id = id ∧ u.upc = 0 ∧ u.idx = p.loops.map (fun _ => 0) ∧ u.halted = false := by
    rw [← hrun]
    exact ⟨rfl, rfl, rfl, rfl, rfl⟩
  refine ⟨?t, u, ?eq, ?_⟩
  case eq =>
    show execEngineCommandStart core e s = _
    unfold execEngineCommandStart
    rw [if_neg (by rw [hd]; simp)]
    dsimp only
    rw [hq]
  rw [hrun]
  generalize hτ : s.setEng core e { s.engOf core e with queue := rest, run := some u } = τ
  have he : τ.engOf core e = { s.engOf core e with queue := rest, run := some u } := by rw [← hτ]; exact State.engOf_setEng_same ..
  have hm (a : Nat) : τ.memByte a = s.memByte a := by rw [← hτ]; rfl
  have hthen (ρ : State) (h : ρ.engOf core e = τ.engOf core e ∧ SameMemory τ ρ) : (ρ.engOf core e).queue = rest ∧ (ρ.engOf core e).run = some u
      ∧ u.prog = p ∧ u.id = id ∧ u.upc = 0 ∧ u.idx = p.loops.map (fun _ => 0) ∧ u.halted = false ∧ SameMemory s ρ := by
    obtain ⟨h₁, h₂, h₃, h₄, h₅⟩ := hu
    rw [h.1, he]
    exact ⟨rfl, rfl, h₁, h₂, h₃, h₄, h₅, fun a => (h.2 a).trans (hm a)⟩
  refine hthen _ ?_
  split
  · exact ⟨rfl, fun _ => rfl⟩
  split
  · exact τ.orderAfter_kept core e p core e
  · exact ⟨rfl, fun _ => rfl⟩

theorem engineCommandStart_vshape {id : Nat} {held : Bool} {x : Word} {rest : List Cmd} (hq : (s.engOf core e).queue = ⟨id, held, .vshape x⟩ :: rest)
    (hd : s.startDue core e = true) : ∃ t, exec (.engineCommandStart core e) s = .next t ∧ (t.engOf core e).queue = rest ∧ (t.vecOf core e).vshape = x
      ∧ (t.vecOf core e).v = (s.vecOf core e).v := by
  refine ⟨?t, ?eq, ?_⟩
  case eq =>
    show execEngineCommandStart core e s = _
    unfold execEngineCommandStart
    rw [if_neg (by rw [hd]; simp)]
    dsimp only
    rw [hq]
  generalize hτ : s.setEng core e { s.engOf core e with queue := rest } = τ
  have he : (τ.engOf core e).queue = rest := by rw [← hτ]; exact congrArg Eng.queue (State.engOf_setEng_same ..)
  have hv : τ.vecOf core e = s.vecOf core e := by rw [← hτ]; rfl
  have hset : (τ.setVec core e { τ.vecOf core e with vshape := x }).vecOf core e = { τ.vecOf core e with vshape := x } := Tbl.get_set_same ..
  refine ⟨he, by rw [hset], by rw [hset, hv]⟩

theorem markerRetire_due {id : Nat} {held : Bool} {m : BitVec 16} {nf : Bool} {rest : List Cmd} (hq : (s.engOf core e).queue = ⟨id, held, .marker m nf⟩ :: rest)
    (hd : s.markerDue core e = true) : ∃ t, exec (.markerRetire core e) s = .next t ∧ (t.engOf core e).queue = rest ∧ (t.engOf core e).last = some m
      ∧ (t.engOf core e).notified = nf ∧ SameMemory s t := by
  refine ⟨(s.setEng core e { s.engOf core e with queue := rest }).markRetired core e m nf, ?_, ?_⟩
  · show execMarkerRetire core e s = _
    unfold execMarkerRetire
    dsimp only
    rw [if_neg (by rw [hd]; simp), hq]
  unfold State.markRetired
  dsimp only
  rw [State.engOf_setEng_same, State.engOf_setEng_same]
  exact ⟨rfl, rfl, rfl, fun _ => rfl⟩

theorem programRetire_done (hd : s.canRetire core e = true) :
    ∃ t, exec (.programRetire core e) s = .next t ∧ (t.engOf core e).run = none ∧ (t.engOf core e).queue = (s.engOf core e).queue ∧ SameMemory s t := by
  refine ⟨?t, ?eq, ?_⟩
  case eq =>
    show execProgramRetire core e s = _
    unfold execProgramRetire
    rw [if_neg (by rw [hd]; simp)]
  generalize hτ : s.setEng core e { s.engOf core e with run := none } = τ
  have he : τ.engOf core e = { s.engOf core e with run := none } := by rw [← hτ]; exact State.engOf_setEng_same ..
  have hm (a : Nat) : τ.memByte a = s.memByte a := by rw [← hτ]; rfl
  have hthen (ρ : State) (h : ρ.engOf core e = τ.engOf core e ∧ SameMemory τ ρ) :
      (ρ.engOf core e).run = none ∧ (ρ.engOf core e).queue = (s.engOf core e).queue ∧ SameMemory s ρ := by
    rw [h.1, he]
    exact ⟨rfl, rfl, fun a => (h.2 a).trans (hm a)⟩
  refine hthen _ ?_
  split
  · exact ⟨rfl, fun _ => rfl⟩
  · exact ⟨rfl, fun _ => rfl⟩

end Start

/-- Settles O32: the head of a queue that can go leaves it, and the engine holds its program, its shape or its marker. -/
theorem commandsStart : Obligations.CommandsStart := by
  unfold Obligations.CommandsStart
  intro s core e c rest v
  obtain ⟨id, held, kind⟩ := c
  refine ⟨?_, ?_, ?_, ?_, programRetire_done, ?_⟩
  · rintro hq hd p rfl
    exact engineCommandStart_program hq hd
  · rintro hq hd x rfl
    exact engineCommandStart_vshape hq hd
  · intro hd
    show execEngineCommandStart core e s = _
    unfold execEngineCommandStart
    rw [if_pos (by rw [hd]; rfl)]
  · rintro hq hd m nf rfl
    exact markerRetire_due hq hd
  · intro hd
    show execProgramRetire core e s = _
    unfold execProgramRetire
    rw [if_pos (by rw [hd]; rfl)]

end Sys2Proof.Machine
end

section
/-! ## O25: a scatter onto a combine whose address its width does not divide -/
namespace Sys2Proof.Machine

/-- `tornCombine` as its vector engine meets it: one 32-bit element of v0 to scatter, at the address in v1, and the index 0 in v2. -/
def tornScatter : State :=
  { tornCombine with
    ctxs := [(0, { task := some 0,
                   combs := [(5 * 2 ^ 21 + 12, { op := 0, width := 8, operand := 0, base := BitVec.ofNat 64 (2 ^ 32), vbase := BitVec.ofNat 64 (2 ^ 32) })] })],
    engs := [(0, { run := some { prog := { vshape := 0x12 } } })], vecs := [(0, { v := [(1, 12)] })] }

/-- What the vector engine of slot 0 sees of the byte at pa after the instruction. -/
def vecViewAfter (i : Instr) (s : State) (pa : Nat) : Option Byte :=
  match exec i s with
  | .next t => some (t.lotByte (t.ctxOf s.core s.eng).swapViews combView pa)
  | _ => none

theorem vecViewAfter_of_next {i : Instr} {s t : State} (h : exec i s = .next t) (pa : Nat) :
    vecViewAfter i s pa = some (t.lotByte (t.ctxOf s.core s.eng).swapViews combView pa) := by
  simp only [vecViewAfter, h]

/-- The element of `tornScatter` with its address and translation. -/
def tornLane : Nat × Word × Xl := (0, 12, { pa := 5 * 2 ^ 21 + 12, cls := 0, frame := 5, off := 12 })

/-- Refutes O25: in `tornScatter` the byte 4 behind the element's address is no byte of the element and reads 0 before the scatter; the scatter
folds the whole combine of eight bytes into held bytes, and it reads 1 afterwards. -/
theorem not_vectorMemory : ¬ Obligations.VectorMemory := by
  intro h
  have hact : (((List.range tornScatter.vN).filter fun i => activeAt tornScatter 0 i).map fun i => (i, tornScatter.vAddr 2 1 i)) = [(0, 12)] := by
    decide +kernel
  obtain ⟨-, hscat, -⟩ := h.2 tornScatter 0 0 2 1 0 0 0 [tornLane] (by decide) (by decide) (by decide)
  have hgo : vecGo tornScatter [opnd 0 0 (tornScatter.vN * tornScatter.vZ)] [] := by unfold vecGo; decide +kernel
  obtain ⟨t, ht, -, -, hrest⟩ := hscat hgo (by rw [hact]; rfl) (by decide +kernel) (by decide +kernel) (by decide +kernel)
  have hb := hrest (by decide) (5 * 2 ^ 21 + 16) (by decide)
  have hafter : vecViewAfter (.vscat 2 0 1 0 0) tornScatter (5 * 2 ^ 21 + 16) = some 1 := by decide +kernel
  have hbefore : tornScatter.lotByte tornScatter.vCtx combView (5 * 2 ^ 21 + 16) = 0 := by decide +kernel
  rw [vecViewAfter_of_next ht, hb, hbefore] at hafter
  exact absurd hafter (by decide)
end Sys2Proof.Machine
end

section
/-! ## O26: the halt word, VFL, and what a vector context does not take -/
namespace Sys2Proof.Machine

/-! ### The run of the acting engine -/

theorem State.setRun_eHere (σ : State) (r : Run) : (σ.setRun r).eHere = { σ.eHere with run := some r } := State.engOf_setEng_same ..

theorem State.setRun_runHere (σ : State) (r : Run) : (σ.setRun r).runHere = r := by
  unfold State.runHere
  rw [State.setRun_eHere]
  rfl

theorem State.setRun_run (σ : State) (r : Run) : ((σ.setRun r).engOf σ.core σ.eng).run = some r :=
  congrArg Eng.run (σ.setRun_eHere r)

theorem State.runHere_of_run {σ : State} {r : Run} (h : (σ.engOf σ.core σ.eng).run = some r) : σ.runHere = r := by
  unfold State.runHere State.eHere
  rw [h]
  rfl

theorem State.eSlot_of_vec {σ : State} (h : σ.eng < 4) : σ.eSlot = σ.eng := by
  unfold State.eSlot State.slotOfEng
  exact if_pos h

/-! ### A posted fault -/

/-- The record of a fault that an engine posts. -/
def postedRec (σ : State) (src cause upc fcause : Nat) (detail : Word) : FaultRec :=
  { cause := cause, src := src, upc := upc, fcause := fcause, detail := detail, time := σ.time, fatal := isFatal cause }

theorem State.slotArea_setCtx (σ : State) (core slot : Nat) {d : Ctx} (h : d.task = (σ.ctxOf core slot).task) :
    (σ.setCtx core slot d).slotArea core slot = σ.slotArea core slot := by
  unfold State.slotArea
  rw [State.ctxOf_setCtx_same, h]
  rfl

theorem State.postFault_spec (σ : State) (core slot src cause upc fcause : Nat) (detail : Word) :
    ((σ.postFault core slot src cause upc fcause detail).ctxOf core slot).posted =
        (σ.ctxOf core slot).posted ++ [postedRec σ src cause upc fcause detail]
      ∧ sameButRecord σ (σ.postFault core slot src cause upc fcause detail) core slot
      ∧ (σ.postFault core slot src cause upc fcause detail).engs = σ.engs ∧ (σ.postFault core slot src cause upc fcause detail).vecs = σ.vecs
      ∧ (σ.postFault core slot src cause upc fcause detail).frags = σ.frags := by
  let c := σ.ctxOf core slot
  let τ := σ.setCtx core slot { c with posted := c.posted ++ [postedRec σ src cause upc fcause detail] }
  have harea : τ.slotArea core slot = σ.slotArea core slot := σ.slotArea_setCtx core slot rfl
  have hframe (a : Nat) (ha : ∀ b, σ.slotArea core slot = some b → a < b + 0x100 ∨ b + 0x180 ≤ a) :
      (τ.writeFault core slot (postedRec σ src cause upc fcause detail) false).memByte a = σ.memByte a :=
    τ.writeFault_memByte_ne core slot _ false a fun b hb => ha b (harea ▸ hb)
  have heq : σ.postFault core slot src cause upc fcause detail =
      (τ.writeFault core slot (postedRec σ src cause upc fcause detail) false).push (.postedFault core slot) := rfl
  rw [heq]
  obtain ⟨_, _, _, _, hshape⟩ := τ.writeFault_shape core slot (postedRec σ src cause upc fcause detail) false
  refine ⟨?_, fun pa hpa => hframe pa hpa, ?_⟩
  · rw [hshape]
    exact congrArg Ctx.posted (State.ctxOf_setCtx_same ..)
  · rw [hshape]
    exact ⟨rfl, rfl, rfl⟩

/-- A vector context that faults stops, and posts its fault to its slot. -/
theorem engineFault_vec {s : State} (he : s.eng < 4) {cause : Nat} (hc : cause ≠ causeSealFail) (detail : Word) :
    ∃ t fr, s.engineFault cause detail = .next t ∧ (t.engOf s.core s.eng).stopped = true ∧ sameButRecord s t s.core s.eng ∧ t.vecs = s.vecs
      ∧ (t.ctxOf s.core s.eng).posted = (s.ctxOf s.core s.eng).posted ++ [fr] ∧ fr.cause = cause ∧ fr.src = 24 ∧ fr.upc = s.runHere.upc
      ∧ fr.fatal = isFatal cause := by
  generalize hτ : s.setEng s.core s.eng { s.eHere with stopped := true } = τ
  have heq : s.engineFault cause detail = .next (τ.postFault s.core s.eng 24 cause s.runHere.upc 0 detail) := by
    unfold State.engineFault
    dsimp only
    rw [if_neg hc, State.eSlot_of_vec he, hτ, show engSrc τ.eng = 24 by rw [← hτ]; exact if_pos he]
  have hs : (τ.engOf s.core s.eng).stopped = true := by rw [← hτ]; exact congrArg Eng.stopped (State.engOf_setEng_same ..)
  have hctx : τ.ctxOf s.core s.eng = s.ctxOf s.core s.eng := by rw [← hτ]; rfl
  have harea : τ.slotArea s.core s.eng = s.slotArea s.core s.eng := by rw [← hτ]; rfl
  have hm (a : Nat) : τ.memByte a = s.memByte a := by rw [← hτ]; rfl
  have hv : τ.vecs = s.vecs := by rw [← hτ]; rfl
  obtain ⟨hposted, hmem, hengs, hvecs, -⟩ := τ.postFault_spec s.core s.eng 24 cause s.runHere.upc 0 detail
  refine ⟨_, _, heq, ?_, fun pa hpa => (hmem pa (by rw [harea]; exact hpa)).trans (hm pa), hvecs.trans hv, by rw [hposted, hctx], rfl, rfl, rfl, rfl⟩
  unfold State.engOf
  rw [hengs]
  exact hs

/-- A word that is not legal under the bound shape faults its context. -/
theorem vecWord_illegal {s : State} {legal : Bool} (hl : legal = false) (hp : s.runHere.pend = none) (srcs : List Opnd) (dst : Option Opnd)
    (go : List Nat → Out) : s.vecWord legal srcs dst go = s.engineFault causeStepIllegal := by
  unfold State.vecWord
  dsimp only
  rw [hp, hl]
  rfl

section Illegal
variable {s : State} {g : BitVec 3}

theorem vElem_illegal {legal : Bool} (hl : legal = false) (hp : s.runHere.pend = none) (d a b : BitVec 7) (x y : BitVec 1)
    (f : Nat → Nat → Nat → BitVec 32 → Nat × BitVec 32) : s.vElem legal d a b x y g f = s.engineFault causeStepIllegal := by
  unfold State.vElem
  exact vecWord_illegal hl hp _ _ _

theorem vElem1_illegal {legal : Bool} (hl : legal = false) (hp : s.runHere.pend = none) (d a : BitVec 7) (x : BitVec 1)
    (f : Nat → BitVec 32 → Nat × BitVec 32) : s.vElem1 legal d a x g f = s.engineFault causeStepIllegal := by
  unfold State.vElem1
  exact vecWord_illegal hl hp _ _ _

end Illegal

/-! ### Types by their codes -/

/-- A type with a floating format has one of the codes 6 to 10. -/
theorem typeFmt_isSome {t : Nat} (h : isInt t = false) : t = 6 ∨ t = 7 ∨ t = 8 ∨ t = 9 ∨ t = 10 := by
  unfold isInt typeFmt at h
  grind

theorem not_float_of_isInt {t : Nat} (h : isInt t = true) : isFloat t = false := by
  unfold isFloat
  have : t ≠ 6 ∧ t ≠ 7 ∧ t ≠ 8 := by
    refine ⟨?_, ?_, ?_⟩ <;> rintro rfl <;> exact absurd h (by decide)
  simp [this]

theorem hash_type {t : Nat} (h : isInt t = false) : (decide (t = 2) || decide (t = 5)) = false := by
  rcases typeFmt_isSome h with rfl | rfl | rfl | rfl | rfl <;> rfl

/-! ### The halt word and VFL -/

theorem vhalt_spec {s : State} {r : Run} (hr : (s.engOf s.core s.eng).run = some r) :
    ∃ t, exec .vhalt s = .next t ∧ SameMemory s t ∧ ∃ u, (t.engOf s.core s.eng).run = some u ∧ u.idx = (stepIdx r.idx r.prog.loops).1
      ∧ u.halted = (stepIdx r.idx r.prog.loops).2 ∧ ((stepIdx r.idx r.prog.loops).2 = false → u.upc = 0 ∧ t.agenda = s.agenda)
      ∧ ((stepIdx r.idx r.prog.loops).2 = true → u.upc = r.upc ∧ t.agenda = s.agenda ++ [.due (.programRetire s.core s.eng)]) := by
  have hrun := s.setRun_run r.endBody
  refine ⟨?t, ?eq, ?_⟩
  case eq =>
    show execVhalt s = _
    unfold execVhalt
    dsimp only
    rw [State.runHere_of_run hr]
  cases hn : (stepIdx r.idx r.prog.loops).2 with
  | false =>
    have hh : r.endBody.halted = false := hn
    rw [if_neg (by rw [hh]; simp)]
    exact ⟨fun _ => rfl, _, hrun, rfl, hn, fun _ => ⟨by simp only [Run.endBody, hn]; rfl, rfl⟩, by simp⟩
  | true =>
    have hh : r.endBody.halted = true := hn
    rw [if_pos hh]
    exact ⟨fun _ => rfl, _, hrun, rfl, hn, by simp, fun _ => ⟨by simp only [Run.endBody, hn]; rfl, rfl⟩⟩

theorem vfl_takes_hold {s : State} {r : Run} (hr : (s.engOf s.core s.eng).run = some r) {f l : BitVec 1} {v : BitVec 3} (hfl : f = 1 ∨ l = 1)
    (hv : v.toNat < 6) (hok : s.prefixOk = true) : ∃ t, exec (.vfl f l v) s = .next t ∧ SameMemory s t
      ∧ t.agenda = .vec s.core s.eng :: s.agenda ∧ ∃ u, (t.engOf s.core s.eng).run = some u ∧ u.upc = r.upc + 1 ∧ u.vfl = some (f == 1, l == 1, v.toNat) := by
  refine ⟨?t, ?eq, ?_⟩
  case eq =>
    show execVfl f l v s = _
    unfold execVfl
    rw [if_neg (by rw [hok]; rcases hfl with rfl | rfl <;> simp <;> omega)]
  have hu : s.runHere.upc + 1 = r.upc + 1 := by rw [State.runHere_of_run hr]
  exact ⟨fun _ => rfl, rfl, _, s.setRun_run _, hu, rfl⟩

theorem vfl_faults {s : State} {f l : BitVec 1} {v : BitVec 3} (h : ¬((f = 1 ∨ l = 1) ∧ v.toNat < 6 ∧ s.prefixOk = true)) :
    exec (.vfl f l v) s = s.engineFault 12 := by
  show execVfl f l v s = _
  unfold execVfl
  refine if_pos ?_
  have hbit (b : BitVec 1) : b = 0 ∨ b = 1 := by revert b; decide
  rcases hbit f with rfl | rfl <;> rcases hbit l with rfl | rfl <;> simp at h ⊢ <;> grind

/-- Settles O26. -/
theorem vectorControlAndFaults : Obligations.VectorControlAndFaults := by
  unfold Obligations.VectorControlAndFaults
  refine ⟨fun s f l v r hr he => ⟨vhalt_spec hr, fun hfl hv hok => vfl_takes_hold hr hfl hv hok, vfl_faults⟩, fun s d a b x y g he hp => ?_⟩
  have stops {i : Instr} (f : State → Out) (hi : exec i s = f s) (h : f s = s.engineFault causeStepIllegal) :
      ∃ t fr, exec i s = .next t ∧ (t.engOf s.core s.eng).stopped = true ∧ sameButRecord s t s.core s.eng ∧ t.vecs = s.vecs
        ∧ (t.ctxOf s.core s.eng).posted = (s.ctxOf s.core s.eng).posted ++ [fr] ∧ fr.cause = 12 ∧ fr.src = 24 ∧ fr.upc = s.runHere.upc ∧ fr.fatal = true := by
    obtain ⟨t, fr, ht, hrest⟩ := engineFault_vec he (cause := causeStepIllegal) (by decide) 0
    exact ⟨t, fr, (hi.trans h).trans ht, hrest⟩
  dsimp only
  refine ⟨fun hT => ?_, fun hT => ?_, fun hT hu => ?_, fun hd => ?_, ?_, fun hn b6 e6 => ?_⟩
  · exact ⟨stops (execVadds d a b x y g) rfl (vElem_illegal hT hp ..), stops (execVsubs d a b x y g) rfl (vElem_illegal hT hp ..),
      stops (execVmulh d a b x y g) rfl (vElem_illegal hT hp ..), stops (execVhash d a b x y g) rfl (vElem_illegal (hash_type hT) hp ..),
      stops (execVclz d a x g) rfl (vElem1_illegal hT hp ..), stops (execVpopc d a x g) rfl (vElem1_illegal hT hp ..)⟩
  · have hf := not_float_of_isInt hT
    have hblock : s.blockOk = false := by
      unfold isFloat at hf
      simp only [Bool.or_eq_false_iff] at hf
      unfold State.blockOk
      rw [hf.1.2, hf.2]
      rfl
    have htrans (op : Nat) : s.vTrans op d a x g = s.engineFault causeStepIllegal := by
      unfold State.vTrans
      exact vElem1_illegal hf hp ..
    have hdq : execVdq d a b x y g s = s.engineFault causeStepIllegal := by
      unfold execVdq
      extract_lets n z srcs dst
      exact vecWord_illegal hblock hp _ _ _
    exact ⟨stops (execExp2 d a x g) rfl (htrans 0), stops (execLog2 d a x g) rfl (htrans 1),
      stops (execRcp d a x g) rfl (htrans 2), stops (execRsq d a x g) rfl (htrans 3),
      stops (execVdq d a b x y g) rfl hdq⟩
  · have hl : (typeSigned s.vT || !isInt s.vT) = false := by rw [hu, hT]; rfl
    exact ⟨stops (execVabs d a x g) rfl (vElem1_illegal hl hp ..), stops (execVneg d a x g) rfl (vElem1_illegal hl hp ..)⟩
  · exact stops (execVfma d a b x y g) rfl (vElem_illegal (by rw [hd]; rfl) hp ..)
  · have h0 : decide ((0 : BitVec 3) ≠ 0) = false := rfl
    have hcmp (op : Nat) : s.vCmp op 0 a b x y g = s.engineFault causeStepIllegal := by
      unfold State.vCmp
      exact vecWord_illegal h0 hp _ _ _
    exact ⟨stops (execVceq 0 a b x y g) rfl (hcmp 0), stops (execVcne 0 a b x y g) rfl (hcmp 1), stops (execVclt 0 a b x y g) rfl (hcmp 2),
      stops (execVcle 0 a b x y g) rfl (hcmp 3), stops (execVcgt 0 a b x y g) rfl (hcmp 4), stops (execVcge 0 a b x y g) rfl (hcmp 5)⟩
  · have hl : decide (s.vN ≤ 256) = false := decide_eq_false (by omega)
    exact ⟨stops (execVgath d b6 e6 g) rfl (by unfold execVgath; exact vecWord_illegal hl hp _ _ _), stops (execVscat b6 a e6 x g) rfl (by unfold execVscat; exact vecWord_illegal hl hp _ _ _)⟩

end Sys2Proof.Machine
end

section
/-! ## O30: the words of a copy program -/
namespace Sys2Proof.Machine

/-! ### One bit of the tag flags -/

theorem setBit_getLsbD (w : Word) (v : Bool) {t g : Nat} (hg : g < 64) :
    (setBit w t v).getLsbD g = if g = t then v else w.getLsbD g := by
  have hbit : (BitVec.ofNat 64 (2 ^ t)).getLsbD g = decide (g = t) := by
    rw [BitVec.getLsbD_ofNat, Nat.testBit_two_pow]
    simp [hg, eq_comm]
  cases v with
  | true =>
    show (w ||| BitVec.ofNat 64 (2 ^ t)).getLsbD g = _
    rw [BitVec.getLsbD_or, hbit]
    by_cases hgt : g = t <;> simp [hgt]
  | false =>
    show (w &&& ~~~(BitVec.ofNat 64 (2 ^ t))).getLsbD g = _
    rw [BitVec.getLsbD_and, BitVec.getLsbD_not, hbit]
    by_cases hgt : g = t <;> simp [hgt, hg]

/-! ### The run that a state of the same engine is given -/

theorem State.run_setRun {σ : State} {core e : Nat} (hc : σ.core = core) (he : σ.eng = e) (r : Run) : ((σ.setRun r).engOf core e).run = some r := by
  subst hc he
  exact σ.setRun_run r

theorem State.queue_setRun {σ : State} {core e : Nat} (hc : σ.core = core) (he : σ.eng = e) (r : Run) :
    ((σ.setRun r).engOf core e).queue = (σ.engOf core e).queue := by
  subst hc he
  exact (congrArg Eng.queue (σ.setRun_eHere r)).trans rfl

/-- The slot's context once a step has been accepted under its tag, if it has one. -/
def Ctx.accepting (c : Ctx) (t : BitVec 1) (x : BitVec 6) : Ctx := if t = 1 then c.acceptTag x.toNat else c

theorem Ctx.accepting_ring (c : Ctx) (t : BitVec 1) (x : BitVec 6) (i : Nat) : (c.accepting t x).ring i = c.ring i := by
  unfold Ctx.accepting
  split
  · rfl
  · rfl

theorem Ctx.acceptTag_outOf (c : Ctx) (k g : Nat) : (c.acceptTag k).outOf g = if g = k then c.outOf k + 1 else c.outOf g :=
  Tbl.get_set ..

theorem Ctx.acceptTag_tagdone (c : Ctx) {k g : Nat} (hg : g < 64) :
    (c.acceptTag k).tagdone.getLsbD g = if g = k then false else c.tagdone.getLsbD g := by
  have hout : ({ c with out := Tbl.set c.out k (c.outOf k + 1) } : Ctx).outOf k = c.outOf k + 1 := Tbl.get_set_same ..
  show (setBit c.tagdone k (decide (({ c with out := Tbl.set c.out k (c.outOf k + 1) } : Ctx).outOf k = 0) && _)).getLsbD g = _
  rw [setBit_getLsbD _ _ hg, hout, decide_eq_false (Nat.succ_ne_zero _), Bool.false_and]

theorem Ctx.accepting_tag (c : Ctx) {t : BitVec 1} (x : BitVec 6) (ht : t = 1) :
    (c.accepting t x).outOf x.toNat = c.outOf x.toNat + 1 ∧ (c.accepting t x).tagdone.getLsbD x.toNat = false := by
  rw [Ctx.accepting, if_pos ht, Ctx.acceptTag_outOf, if_pos rfl, Ctx.acceptTag_tagdone c x.isLt, if_pos rfl]
  exact ⟨rfl, rfl⟩

theorem Ctx.accepting_other (c : Ctx) {t : BitVec 1} {x : BitVec 6} {g : Nat} (hg : g < 64) (h : t = 0 ∨ g ≠ x.toNat) :
    (c.accepting t x).outOf g = c.outOf g ∧ (c.accepting t x).tagdone.getLsbD g = c.tagdone.getLsbD g := by
  unfold Ctx.accepting
  split
  next ht =>
    have hne : g ≠ x.toNat := h.resolve_left (by rw [ht]; decide)
    rw [Ctx.acceptTag_outOf, if_neg hne, Ctx.acceptTag_tagdone c hg, if_neg hne]
    exact ⟨rfl, rfl⟩
  · exact ⟨rfl, rfl⟩

/-! ### A step begins -/

/-- What the engine has in flight of a step that begins. -/
def State.newStep (s : State) (t : BitVec 1) (x : BitVec 6) (op : CopyOp) (slotNo : Nat) : CopyStep :=
  { idx := s.copyHere.nextStep, op := op, tag := if t = 1 then some x.toNat else none, prog := s.runHere.id, upc := s.runHere.upc,
    bound := { s.runHere.prog with body := none, tags := [] }, slotNo := slotNo }

theorem beginStep_spec (s : State) (t : BitVec 1) (x : BitVec 6) (op : CopyOp) (slotNo words : Nat) :
    ∃ τ, s.beginStep t x op slotNo words = .next τ ∧ (τ.copyOf s.core s.cNo).steps = s.copyHere.steps ++ [s.newStep t x op slotNo]
      ∧ τ.ctxOf s.core s.eSlot = (s.ctxOf s.core s.eSlot).accepting t x ∧ (τ.engOf s.core s.eng).run = some (s.runHere.after words)
      ∧ SameMemory s τ ∧ τ.abuf = s.abuf ∧ τ.cbuf = s.cbuf ∧ τ.core = s.core ∧ τ.eng = s.eng := by
  unfold State.beginStep Ctx.accepting
  by_cases ht : t = 1
  · simp only [if_pos ht]
    refine ⟨_, rfl, ?_, State.ctxOf_setCtx_same .., State.setRun_run .., fun _ => rfl, rfl, rfl, rfl, rfl⟩
    exact (congrArg CopyEng.steps (State.copyOf_setCopy_same ..)).trans (by unfold State.newStep; rw [if_pos ht]; rfl)
  · simp only [if_neg ht]
    refine ⟨_, rfl, ?_, rfl, State.setRun_run .., fun _ => rfl, rfl, rfl, rfl, rfl⟩
    exact (congrArg CopyEng.steps (State.copyOf_setCopy_same ..)).trans (by unfold State.newStep; rw [if_neg ht])

/-- A step that begins after the slot's rings or the engine's cursors have moved on has started in the state before. -/
theorem stepStarted_of_begin {s σ : State} {t : BitVec 1} {x : BitVec 6} {op : CopyOp} {slotNo words : Nat} {c : Ctx} {r : Run}
    (hcore : σ.core = s.core) (heng : σ.eng = s.eng) (hslot : σ.eSlot = s.eSlot) (hcopy : σ.copyHere = s.copyHere) (hr : σ.runHere = r)
    (hupc : r.upc = s.runHere.upc) (hc : σ.ctxOf s.core s.eSlot = c) (hout : c.out = (s.ctxOf s.core s.eSlot).out)
    (hdone : c.tagdone = (s.ctxOf s.core s.eSlot).tagdone) (hm : SameMemory s σ) (ha : σ.abuf = s.abuf) :
    ∃ τ, σ.beginStep t x op slotNo words = .next τ ∧ stepStarted s τ t x op slotNo words ∧ τ.cbuf = σ.cbuf
      ∧ τ.ctxOf s.core s.eSlot = c.accepting t x ∧ τ.runHere = r.after words := by
  have hno : σ.cNo = s.cNo := by unfold State.cNo; rw [heng]
  obtain ⟨τ, hτ, hsteps, hctx, hrun, hmem, habuf, hcbuf, htcore, hteng⟩ := beginStep_spec σ t x op slotNo words
  rw [hcore, hno, hcopy] at hsteps
  rw [hcore, hslot, hc] at hctx
  rw [hcore, heng, hr] at hrun
  have hout' (d : Ctx) (g : Nat) (hd : d.out = c.out) : d.outOf g = (s.ctxOf s.core s.eSlot).outOf g := by
    unfold Ctx.outOf
    rw [hd, hout]
  refine ⟨τ, hτ, ⟨⟨_, hsteps, rfl, rfl, ?_, rfl⟩, fun ht => ?_, fun g hg h => ?_, ⟨_, hrun, ?_⟩, fun a => (hmem a).trans (hm a), habuf.trans ha⟩, hcbuf, hctx, ?_⟩
  · show σ.runHere.upc = _
    rw [hr, hupc]
  · rw [hctx]
    obtain ⟨h1, h2⟩ := c.accepting_tag x ht
    exact ⟨h1.trans (congrArg (· + 1) (hout' c _ rfl)), h2⟩
  · rw [hctx]
    obtain ⟨h1, h2⟩ := c.accepting_other hg h
    exact ⟨h1.trans (hout' c _ rfl), h2.trans (congrArg (fun w : Word => w.getLsbD g) hdone)⟩
  · show r.upc + words = _
    rw [hupc]
  · exact State.runHere_of_run (by rw [htcore, hteng, hcore, heng]; exact hrun)

/-! ### The course of a copy word -/

section Words
variable {s : State} {f l e : BitVec 1} {v : BitVec 3}

theorem copyWord_go (h : copyGo s f l e v) {ok : Bool} (hok : ok = true) (go : Out) : s.copyWord f l v e ok go = go := by
  obtain ⟨-, -, hlevel, hissue, hser⟩ := h
  have hissue' : s.runHere.flagsIssue (decide (f = 1)) (decide (l = 1)) v.toNat = true := hissue
  unfold State.copyWord
  dsimp only
  rw [if_neg (by rw [hok]; simpa using hlevel), if_neg (by rw [hissue']; simp), if_neg]
  rintro ⟨he, hs⟩
  rcases hser with h | h
  · rw [h] at he
    exact absurd he (by decide)
  · rw [h] at hs
    exact absurd hs (by decide)

theorem touchRun_own {core slot : Nat} : ∀ (js : List Nat), (∀ j ∈ js, Tbl.get s.accown 7 (core * 2048 + j) = slot) → s.touchRun core slot js = (s, none)
  | [], _ => rfl
  | j :: js, h => by
    rw [State.touchRun, ownerTouch_own (h j List.mem_cons_self)]
    exact touchRun_own js fun k hk => h k (List.mem_cons_of_mem _ hk)

variable {t : BitVec 1} {x : BitVec 6} {op : CopyOp}

section Checks
variable (hload : noLoad s) (hcancel : s.runHere.cancelledTag t x = false)
  (hfault : s.stepFault s.eSlot (s.operands s.eSlot s.runHere.prog op) = none)
include hload hcancel hfault

/-- A step without a ring starts once its slabs are the slot's and have no write pending. -/
theorem startStep_starts (hslabs : let o := s.operands s.eSlot s.runHere.prog op
      ∀ j ∈ (if o.bSpace = 2 then slabsOfElems o.bElems else []) ++ (if o.aSpace = 2 then slabsOfElems o.aElems else []),
        Tbl.get s.accown 7 (s.core * 2048 + j) = s.eSlot ∧ s.pendingAt s.core s.eSlot j s.runHere.id = 0) :
    ∃ τ, s.startStep t x op = .next τ ∧ stepStarted s τ t x op 0 1 ∧ τ.cbuf = s.cbuf := by
  obtain ⟨τ, hτ, hstart, hc, -⟩ := stepStarted_of_begin (s := s) (σ := s) (t := t) (x := x) (op := op) (slotNo := 0) (words := 1)
    rfl rfl rfl rfl rfl rfl rfl rfl rfl (fun _ => rfl) rfl
  refine ⟨τ, ?_, hstart, hc⟩
  have hload' : s.loadHolds s.eSlot = false := hload
  unfold State.startStep
  dsimp only at hslabs ⊢
  rw [hcancel, hload', hfault]
  simp only [Bool.false_eq_true, if_false]
  rw [touchRun_own _ fun j hj => (hslabs j hj).1]
  dsimp only
  rw [if_neg ?_, hτ]
  rw [List.any_eq_true]
  rintro ⟨j, hj, hp⟩
  exact absurd (hslabs j hj).2 (of_decide_eq_true hp)

/-- A fill starts when its ring has a free slot, which it claims. -/
theorem startFill_starts {c : Nat} (words : Nat) (hfree : ((s.ctxOf s.core s.eSlot).ring c).free ≠ 0) :
    ∃ τ, s.startFill t x op c words = .next τ ∧ stepStarted s τ t x op ((s.ctxOf s.core s.eSlot).ring c).claim.toNat words
      ∧ (τ.ctxOf s.core s.eSlot).ring c = { (s.ctxOf s.core s.eSlot).ring c with claim := ((s.ctxOf s.core s.eSlot).ring c).claim + 1 } := by
  have hctx := State.ctxOf_setCtx_same s s.core s.eSlot ((s.ctxOf s.core s.eSlot).setRing c (((s.ctxOf s.core s.eSlot).ring c).doClaim 1))
  obtain ⟨τ, hτ, hstart, -, hring, -⟩ := stepStarted_of_begin (s := s)
    (σ := s.setCtx s.core s.eSlot ((s.ctxOf s.core s.eSlot).setRing c (((s.ctxOf s.core s.eSlot).ring c).doClaim 1))) (t := t) (x := x) (op := op)
    (slotNo := ((s.ctxOf s.core s.eSlot).ring c).claim.toNat) (words := words) rfl rfl rfl rfl rfl rfl hctx rfl rfl (fun _ => rfl) rfl
  refine ⟨τ, ?_, hstart, ?_⟩
  · have hload' : s.loadHolds s.eSlot = false := hload
    unfold State.startFill
    dsimp only
    rw [hcancel, hload', hfault]
    exact (if_neg hfree).trans hτ
  · rw [hring, Ctx.accepting_ring]
    exact Tbl.get_set_same ..

omit hload in
theorem startFill_full {c words : Nat} (hfree : ((s.ctxOf s.core s.eSlot).ring c).free = 0) : s.startFill t x op c words = .next s := by
  unfold State.startFill
  dsimp only
  rw [hcancel, hfault]
  simp only [Bool.false_eq_true, if_false]
  rw [if_pos hfree, ite_self]

/-- A drain starts when the slot at its cursor is full. -/
theorem startDrain_starts {c : Nat} (hfull : s.runHere.curOf c < ((s.ctxOf s.core s.eSlot).ring c).full) :
    ∃ τ, s.startDrain t x op c = .next τ
      ∧ stepStarted s τ t x op (((s.ctxOf s.core s.eSlot).ring c).head + BitVec.ofNat 32 (s.runHere.curOf c)).toNat 1
      ∧ τ.runHere.curOf c = s.runHere.curOf c + 1 := by
  obtain ⟨τ, hτ, hstart, -, -, hr⟩ := stepStarted_of_begin (s := s) (σ := s.setRun (s.runHere.setCur c (s.runHere.curOf c + 1))) (t := t) (x := x)
    (op := op) (slotNo := (((s.ctxOf s.core s.eSlot).ring c).head + BitVec.ofNat 32 (s.runHere.curOf c)).toNat) (words := 1)
    rfl rfl rfl rfl (s.setRun_runHere _) rfl rfl rfl rfl (fun _ => rfl) rfl
  refine ⟨τ, ?_, hstart, ?_⟩
  · have hload' : s.loadHolds s.eSlot = false := hload
    unfold State.startDrain
    dsimp only
    rw [hcancel, hload', hfault]
    exact (if_neg (Nat.not_le.mpr hfull)).trans hτ
  · rw [hr]
    exact Tbl.get_set_same ..

end Checks

/-- No step starts while a loader command waits for those in flight. -/
theorem startStep_held (hload : s.loadHolds s.eSlot = true) (hcancel : s.runHere.cancelledTag t x = false) : s.startStep t x op = .next s := by
  unfold State.startStep
  dsimp only
  rw [hcancel, hload]
  rfl

end Words

/-! ### The words that move nothing -/

section Nothing
variable {s : State} {f l e : BitVec 1} {v : BitVec 3}

theorem wordBehind_setRun (s : State) {r : Run} (hu : r.upc = s.runHere.upc + 1) (hi : r.idx = s.runHere.idx) {τ : State}
    (h : (τ.engOf s.core s.eng).run = some r) : wordBehind s τ := ⟨r, h, hu, hi⟩

theorem cadv_spec (hgo : copyGo s f l e v) (c : BitVec 6) (n : BitVec 8) (hring : ((s.ctxOf s.core s.eSlot).ring c.toNat).scount ≠ 0) (hn : n ≠ 0)
    (hfull : n.toNat ≤ ((s.ctxOf s.core s.eSlot).ring c.toNat).full) : ∃ t, exec (.cadv f l e v c n) s = .next t ∧ SameMemory s t ∧ wordBehind s t
      ∧ (t.ctxOf s.core s.eSlot).ring c.toNat = { (s.ctxOf s.core s.eSlot).ring c.toNat with
          head := ((s.ctxOf s.core s.eSlot).ring c.toNat).head + BitVec.ofNat 32 n.toNat }
      ∧ t.runHere.curOf c.toNat = s.runHere.curOf c.toNat - n.toNat := by
  have hok : (s.ringOk c && decide (n ≠ 0)) = true := by
    rw [decide_eq_true hn, Bool.and_true]
    exact decide_eq_true hring
  refine ⟨?t, ?eq, ?_⟩
  case eq =>
    show execCadv f l e v c n s = _
    unfold execCadv
    dsimp only
    rw [copyWord_go hgo hok, if_neg (by omega)]
    unfold State.wordDone
    rw [State.setRun_runHere]
  generalize hτ : s.setCtx s.core s.eSlot ((s.ctxOf s.core s.eSlot).setRing c.toNat (((s.ctxOf s.core s.eSlot).ring c.toNat).doAdvance n.toNat)) = τ
  refine ⟨fun _ => by rw [← hτ]; rfl, wordBehind_setRun s (r := (s.runHere.setCur c.toNat (s.runHere.curOf c.toNat - n.toNat)).after 1) rfl rfl ?_, ?_, ?_⟩
  · exact State.run_setRun (by rw [← hτ]; rfl) (by rw [← hτ]; rfl) _
  · rw [← hτ]
    exact (congrArg (fun d : Ctx => d.ring c.toNat) (State.ctxOf_setCtx_same ..)).trans (Tbl.get_set_same ..)
  · rw [State.setRun_runHere]
    exact Tbl.get_set_same ..

/-- A marker that is the only one to land is its engine's last one. -/
theorem marked_lands {s : State} (hl : s.landing = []) (core slot : Nat) (m : BitVec 16) (nf : Bool) (r : Run) :
    let t := ({ s with landing := s.landing ++ [.mark core slot s.eng m nf] } : State).setRun r
    s.core = core → (t.land.engOf core s.eng).last = some m ∧ (t.land.engOf core s.eng).notified = (nf && s.eHere.queue.isEmpty) := by
  intro t hc
  subst hc
  have hland : t.land = ({ t with landing := [] } : State).markRetired s.core s.eng m (nf && (t.engOf s.core s.eng).queue.isEmpty) := by
    unfold State.land
    rw [show t.landing = [.mark s.core slot s.eng m nf] by show s.landing ++ _ = _; rw [hl]; rfl]
    rfl
  have hq : (t.engOf s.core s.eng).queue = s.eHere.queue := State.queue_setRun rfl rfl r
  have he : (({ t with landing := [] } : State).markRetired s.core s.eng m (nf && (t.engOf s.core s.eng).queue.isEmpty)).engOf s.core s.eng
      = { t.engOf s.core s.eng with last := some m, notified := nf && (t.engOf s.core s.eng).queue.isEmpty } := State.engOf_setEng_same ..
  rw [hland, he, hq]
  exact ⟨rfl, rfl⟩

theorem cmark_spec (hgo : copyGo s 0 0 e 0) (nf : BitVec 1) (m : BitVec 16) (hs : s.copyHere.steps = []) :
    ∃ t, exec (.cmark e nf m) s = .next t ∧ SameMemory s t ∧ wordBehind s t
      ∧ t = ({ s with landing := s.landing ++ [.mark s.core s.eSlot s.eng m (nf == 1)] } : State).setRun (s.runHere.after 1)
      ∧ (s.landing = [] → (t.land.engOf s.core s.eng).last = some m ∧ (t.land.engOf s.core s.eng).notified = (nf == 1 && s.eHere.queue.isEmpty)) := by
  refine ⟨({ s with landing := s.landing ++ [.mark s.core s.eSlot s.eng m (nf == 1)] } : State).setRun (s.runHere.after 1), ?_, fun _ => rfl,
    wordBehind_setRun s (r := s.runHere.after 1) rfl rfl (by exact State.run_setRun rfl rfl _), rfl, fun hl => marked_lands hl s.core s.eSlot m (nf == 1) _ rfl⟩
  show execCmark e nf m s = _
  unfold execCmark
  rw [copyWord_go hgo rfl, hs]
  rfl

/-- The halt word of a copy program ends the body at this point of the loop space. -/
theorem copyEnd_spec (s : State) : ∃ t u, s.copyEnd = .next t ∧ SameMemory s t ∧ (t.engOf s.core s.eng).run = some u
    ∧ u.idx = (stepIdx s.runHere.idx s.runHere.prog.loops).1 ∧ u.halted = (stepIdx s.runHere.idx s.runHere.prog.loops).2
    ∧ ((stepIdx s.runHere.idx s.runHere.prog.loops).2 = false → u.upc = 0) := by
  refine ⟨_, s.runHere.endBody, rfl, fun a => ?_, ?_, rfl, rfl, fun hn => by simp only [Run.endBody, hn]; rfl⟩
  · split
    · rfl
    · rfl
  · split
    · exact s.setRun_run _
    · exact s.setRun_run _

end Nothing

/-- Settles O30. -/
theorem copyWords : Obligations.CopyWords := by
  unfold Obligations.CopyWords
  refine ⟨?_, ?_⟩
  · intro s f l e tg x v a b d c k m y fr w r slot ring cur checks ready starts
    have start {i : Instr} {op : CopyOp} (hi : exec i s = s.startStep tg x op) : starts i op := by
      rintro ⟨⟨hload, hcancel, hfault⟩, hslabs⟩
      obtain ⟨t, ht, hrest⟩ := startStep_starts hload hcancel hfault hslabs
      exact ⟨t, hi.trans ht, hrest⟩
    have hring (h : ring.scount ≠ 0) : s.ringOk c = true := decide_eq_true h
    refine ⟨fun hgo => ⟨start (copyWord_go hgo rfl _), start (copyWord_go hgo rfl _)⟩, fun hgo => ?_, fun hgo hs hfree ⟨hload, hcancel, hfault⟩ => ?_,
      fun hgo hs hfree ⟨_, hcancel, hfault⟩ => ?_, fun hgo hs hfull ⟨hload, hcancel, hfault⟩ => ?_,
      fun hgo hs hfree ⟨i, hi, hne⟩ hbody ⟨hload, hcancel, hfault⟩ => ?_, fun hgo hload hcancel _ => ?_⟩
    · exact ⟨fun hm => start (copyWord_go hgo (decide_eq_true hm) _), fun hk => start (copyWord_go hgo (decide_eq_true hk) _),
        start (copyWord_go hgo rfl _), start (copyWord_go hgo rfl _), start (copyWord_go hgo rfl _), start (copyWord_go hgo rfl _)⟩
    · obtain ⟨t, ht, hrest⟩ := startFill_starts hload hcancel hfault 1 hfree
      exact ⟨t, (copyWord_go hgo (hring hs) _).trans ht, hrest⟩
    · exact (copyWord_go hgo (hring hs) _).trans (startFill_full hcancel hfault hfree)
    · obtain ⟨t, ht, hrest⟩ := startDrain_starts hload hcancel hfault hfull
      exact ⟨t, (copyWord_go hgo (hring hs) _).trans ht, hrest⟩
    · obtain ⟨t, ht, hrest, -⟩ := startFill_starts hload hcancel hfault 2 hfree
      refine ⟨t, (copyWord_go hgo ?_ _).trans ht, hrest⟩
      rw [hi, hring hs]
      simp [hne, hbody, r]
    · exact (copyWord_go hgo rfl _).trans (startStep_held hload hcancel)
  · intro s f l e nf v c n m r ring done ends
    have hring (hs : ring.scount ≠ 0) (hn : n ≠ 0) : (s.ringOk c && decide (n ≠ 0)) = true := by
      rw [decide_eq_true hn, Bool.and_true]
      exact decide_eq_true hs
    refine ⟨fun hgo => copyWord_go hgo rfl _, fun hgo hs hn hle => ?_, fun hgo hs hn hfull => cadv_spec hgo c n hs hn hfull,
      fun hgo hs => cmark_spec hgo nf m hs, fun hgo hs => ?_, fun _ _ => ⟨copyEnd_spec s, fun hs => ?_⟩, fun hs => ?_⟩
    · have hcwt := copyWord_go hgo (hring hs hn)
      have hin : ¬ ring.scount < n.toNat := Nat.not_lt.mpr hle
      exact ⟨fun hf => (hcwt _).trans ((if_neg hin).trans (if_neg (Nat.not_lt.mpr hf))), fun hf => (hcwt _).trans ((if_neg hin).trans (if_pos hf))⟩
    · exact (copyWord_go hgo rfl _).trans (if_pos (by simpa using hs))
    · obtain ⟨t, u, ht, hrest⟩ := copyEnd_spec s
      exact ⟨t, u, (if_pos (by rw [hs]; rfl) : execChaltS s = s.copyEnd).trans ht, hrest⟩
    · exact (if_neg (by simpa using hs) : execChaltS s = .next s)

end Sys2Proof.Machine
end

section
/-! ## O27: the step words of a fragment without a pass, and the accumulator steps -/
namespace Sys2Proof.Machine

/-! ### Numbers made of bytes -/

theorem leNat_succ (f : Nat → Byte) (n : Nat) : leNat f (n + 1) = (f 0).toNat + 256 * leNat (fun i => f (i + 1)) n := by
  unfold leNat
  rw [List.range_succ_eq_map, List.foldr_cons, List.foldr_map]

theorem leNat_add (f : Nat → Byte) (k m : Nat) : leNat f (k + m) = leNat f k + 256 ^ k * leNat (fun i => f (k + i)) m := by
  induction k generalizing f with
  | zero => simp [leNat]
  | succ k ih =>
    have hs : (fun i => f (k + 1 + i)) = fun i => f (k + i + 1) := funext fun i => congrArg f (by omega)
    rw [show k + 1 + m = k + m + 1 by omega, leNat_succ, ih, leNat_succ f k, hs, Nat.pow_succ]
    ring

/-- The number that n bytes at an offset make. -/
theorem leNat_slice (f : Nat → Byte) {N k n : Nat} (h : k + n ≤ N) : leNat f N / 256 ^ k % 256 ^ n = leNat (fun i => f (k + i)) n := by
  obtain ⟨m, rfl⟩ : ∃ m, N = k + (n + m) := ⟨N - k - n, by omega⟩
  rw [leNat_add f k, Nat.add_comm, Nat.mul_add_div (Nat.two_pow_pos 8 |> fun h => Nat.pow_pos h), Nat.div_eq_of_lt (leNat_lt f k), Nat.add_zero, leNat_add,
    Nat.add_mul_mod_self_left, Nat.mod_eq_of_lt (leNat_lt _ n)]

/-- Bytes of what a window holds. -/
theorem getBytes_aNat (σ : State) (core slot off : Nat) {N k n : Nat} (h : k + n ≤ N) :
    getBytes (σ.aNat core slot off N) k n = leNat (fun i => σ.aByte core slot (off + k + i)) n := by
  refine (leNat_slice (fun i => σ.aByte core slot (off + i)) h).trans (leNat_congr fun i _ => ?_)
  rw [Nat.add_assoc]

/-! ### A slot of a ring is pushed -/

/-- Bytes written one by one into a slot's window. -/
theorem aWrites_spec (core slot base : Nat) (bs : List (Nat × Byte)) (σ : State) :
    let τ := bs.foldl (fun (σ : State) (p : Nat × Byte) => σ.aWrite core slot (base + p.1) [p.2]) σ
    (∃ a x, τ = { σ with abuf := a, ctxs := x }) ∧ (∃ la, τ.ctxOf core slot = { σ.ctxOf core slot with liveA := la })
      ∧ τ.abuf = (bs.map fun p => (aKey core (σ.ctxOf core slot) (base + p.1), p.2)).foldl (fun t p => Tbl.set t p.1 p.2) σ.abuf := by
  induction bs generalizing σ with
  | nil => exact ⟨⟨_, _, rfl⟩, ⟨_, rfl⟩, rfl⟩
  | cons p bs ih =>
    obtain ⟨⟨a, x, hs⟩, ⟨la, hc⟩, ha⟩ := ih (σ.aWrite core slot (base + p.1) [p.2])
    have hctx : (σ.aWrite core slot (base + p.1) [p.2]).ctxOf core slot =
        { σ.ctxOf core slot with liveA := insertNat (σ.ctxOf core slot).liveA ((base + p.1) / 65536) } := State.ctxOf_setCtx_same ..
    rw [hctx] at hc ha
    exact ⟨⟨a, x, hs⟩, ⟨la, hc⟩, ha⟩

theorem Ring.ssz_lt (r : Ring) : r.ssz < 4096 := by
  unfold Ring.ssz bits
  exact Nat.mod_lt _ (by decide)

/-- What a push leaves: the slot claimed and due to be filled, its bytes at its place in the window. -/
theorem pushSlot_spec (σ : State) (core slot ring : Nat) (bs : List (Nat × Byte)) (hfree : ((σ.ctxOf core slot).ring ring).free ≠ 0) :
    ∃ τ a x, σ.pushSlot core slot ring bs = some τ
      ∧ τ = { σ with abuf := a, ctxs := x, landing := σ.landing ++ [.fill core slot ring ((σ.ctxOf core slot).ring ring).claim.toNat] }
      ∧ (∃ la, τ.ctxOf core slot = { (σ.ctxOf core slot).setRing ring (((σ.ctxOf core slot).ring ring).doClaim 1) with liveA := la })
      ∧ ((bs.map fun p => p.1).Nodup → (∀ p ∈ bs, p.1 < 64 * ((σ.ctxOf core slot).ring ring).ssz) → ∀ p ∈ bs,
          τ.aByte core slot (((σ.ctxOf core slot).ring ring).slotAt ((σ.ctxOf core slot).ring ring).claim.toNat + p.1) = p.2) := by
  generalize hr : (σ.ctxOf core slot).ring ring = r at hfree ⊢
  generalize hρ : σ.setCtx core slot ((σ.ctxOf core slot).setRing ring (r.doClaim 1)) = ρ
  have hρc : ρ.ctxOf core slot = (σ.ctxOf core slot).setRing ring (r.doClaim 1) := by rw [← hρ]; exact State.ctxOf_setCtx_same ..
  have hρs : ∃ x, ρ = { σ with ctxs := x } := ⟨_, hρ.symm⟩
  generalize hl : bs.filter (fun p => decide (p.1 < 64 * r.ssz)) = l
  obtain ⟨⟨a, x, hs⟩, ⟨la, hc⟩, ha⟩ := aWrites_spec core slot (r.slotAt r.claim.toNat) l ρ
  have heq : σ.pushSlot core slot ring bs = some { l.foldl (fun (σ : State) (p : Nat × Byte) => σ.aWrite core slot (r.slotAt r.claim.toNat + p.1) [p.2]) ρ with
      landing := (l.foldl (fun (σ : State) (p : Nat × Byte) => σ.aWrite core slot (r.slotAt r.claim.toNat + p.1) [p.2]) ρ).landing
        ++ [.fill core slot ring r.claim.toNat] } := by
    unfold State.pushSlot
    dsimp only
    rw [hr, if_neg hfree, hρ, hl]
  generalize l.foldl (fun (σ : State) (p : Nat × Byte) => σ.aWrite core slot (r.slotAt r.claim.toNat + p.1) [p.2]) ρ = τ at hs hc ha heq
  refine ⟨_, a, x, heq, ?_, ⟨la, ?_⟩, fun hnd hfit p hp => ?_⟩
  · obtain ⟨y, hy⟩ := hρs
    rw [hs, hy]
  · exact hc.trans (by rw [hρc])
  · have hall : l = bs := by rw [← hl]; exact List.filter_eq_self.mpr fun q hq => decide_eq_true (hfit q hq)
    have hkey : aKey core (τ.ctxOf core slot) (r.slotAt r.claim.toNat + p.1) = aKey core (ρ.ctxOf core slot) (r.slotAt r.claim.toNat + p.1) := by
      rw [hc]
      rfl
    show Tbl.get τ.abuf 0 (aKey core (τ.ctxOf core slot) (r.slotAt r.claim.toNat + p.1)) = p.2
    rw [hkey, ha, hall]
    refine Tbl.get_setAll _ _ _ _ _ (List.mem_map.mpr ⟨p, hp, rfl⟩) ?_
    rw [List.map_map]
    refine List.Nodup.map_on (fun u hu v hv e => ?_) (List.Nodup.of_map _ hnd)
    have hu' := hfit u hu
    have hv' := hfit v hv
    have hsz := r.ssz_lt
    refine List.inj_on_of_nodup_map hnd hu hv ?_
    simp only [Function.comp_apply] at e
    unfold aKey at e
    omega

/-! ### The course of a step word -/

section Words
variable {s : State} {f l : BitVec 1} {v : BitVec 3}

theorem matWord_go (h : matGo s f l v) {ok : Bool} (hok : ok = true) {check : Option MFault} (hcheck : check = none) (go : Out) :
    s.matWord f l v ok check go = go := by
  obtain ⟨-, -, hlevel, hissue, hblocked⟩ := h
  have hissue' : s.runHere.flagsIssue (decide (f = 1)) (decide (l = 1)) v.toNat = true := hissue
  unfold State.matWord
  dsimp only
  rw [if_neg (by rw [hok]; simpa using hlevel), if_neg (by rw [hissue']; simp), hcheck]
  exact if_neg (by rw [hblocked]; simp)

/-- A word that its flags do not issue is passed over, whatever else it says. -/
theorem matWord_skips (hfirst : s.runHere.firstPass = false) (hissue : s.runHere.flagsIssue (f == 1) (l == 1) v.toNat = false) (hv : v.toNat < 6)
    (ok : Bool) (check : Option MFault) (go : Out) : s.matWord f l v ok check go = s.wordDone := by
  have hissue' : s.runHere.flagsIssue (decide (f = 1)) (decide (l = 1)) v.toNat = false := hissue
  unfold State.matWord
  dsimp only
  rw [if_neg (by rw [hfirst, hissue']; simp; omega), if_pos (by rw [hissue']; rfl)]

theorem wordDone_setRun (σ : State) (r : Run) : (σ.setRun r).wordDone = .next ((σ.setRun r).setRun (r.after 1)) := by
  unfold State.wordDone
  rw [State.setRun_runHere]

theorem wordBehind_of_run {σ : State} (hc : σ.core = s.core) (he : σ.eng = s.eng) {r : Run} (hu : r.upc = s.runHere.upc) (hi : r.idx = s.runHere.idx) :
    wordBehind s ((σ.setRun r).setRun (r.after 1)) :=
  wordBehind_setRun s (r := r.after 1) (congrArg (· + 1) hu) hi (State.run_setRun (σ := σ.setRun r) hc he _)

theorem firstOf_none {c : List (Bool × MFault)} (h : ∀ p ∈ c, p.1 = false) : firstOf c = none := by
  unfold firstOf
  rw [List.find?_eq_none.mpr fun p hp => by rw [h p hp]; exact Bool.false_ne_true]
  rfl

theorem ownerCheck_none {js : List Nat} (h : s.mForeign js = none) : s.ownerCheck js = none := by
  unfold State.ownerCheck
  rw [h]
  rfl

theorem mTouch_own {js : List Nat} (h : ownsAll s js) (go : State → Out) : s.mTouch js go = go s := by
  unfold State.mTouch
  rw [touchRun_own js h.2]

theorem ownsAll_lt {js : List Nat} (h : ownsAll s js) {j : Nat} (hj : j ∈ js) : j < 2048 := by
  have := List.find?_eq_none.mp h.1 j hj
  simp only [Bool.or_eq_true, decide_eq_true_eq, not_or] at this
  omega

/-! ### The words without a pass -/

theorem wld_spec (hgo : matGo s f l v) {b : BitVec 4} (hw : q_w (s.runHere.q b.toNat) = true)
    (hfits : wTileOk (s.ctxOf s.core s.eSlot).wsize (s.runHere.q b.toNat) (s.runHere.curOf b.toNat) = true ∧ s.mCol ≤ q_wcol (s.runHere.q b.toNat)
      ∧ q_wcol (s.runHere.q b.toNat) + q_nt (s.runHere.q b.toNat) ≤ s.mCol + s.mWidth ∧ q_kt (s.runHere.q b.toNat) ≤ s.mDepth) :
    ∃ t, exec (.wld f l v b) s = .next t ∧ SameMemory s t ∧ wordBehind s t
      ∧ (t.fragOf s.core s.mK) = { s.mFrag with nxt :=
          { s.readTile s.core s.eSlot b.toNat (s.runHere.q b.toNat) (s.runHere.curOf b.toNat) with pending := true, ready := false } }
      ∧ t.runHere.curOf b.toNat = s.runHere.curOf b.toNat + 1 := by
  obtain ⟨htile, hcol, hwidth, hdepth⟩ := hfits
  refine ⟨?t, ?eq, fun _ => ?_, ?_, ?_, ?_⟩
  case eq =>
    show execWld f l v b s = _
    unfold execWld
    dsimp only
    rw [matWord_go hgo hw (firstOf_none fun p hp => ?_)]
    · exact wordDone_setRun ..
    · simp only [List.mem_cons, List.not_mem_nil, or_false] at hp
      rcases hp with rfl | rfl | rfl
      · simp [htile]
      · simp only [Bool.or_eq_false_iff, decide_eq_false_iff_not]; omega
      · simp only [decide_eq_false_iff_not]; omega
  · rfl
  · exact wordBehind_of_run rfl rfl rfl rfl
  · exact State.fragOf_setFrag_same ..
  · rw [State.setRun_runHere]
    exact Tbl.get_set_same ..

theorem sadv_spec (hgo : matGo s f l v) {b : BitVec 4} {n : BitVec 13}
    (hring : q_w (s.runHere.q b.toNat) = false ∧ (s.mRing (s.runHere.q b.toNat)).scount ≠ 0) (hn : n ≠ 0)
    (hfull : n.toNat ≤ (s.mRing (s.runHere.q b.toNat)).full) (hp : s.mFrag.passes = []) :
    ∃ t, exec (.sadv f l v b n) s = .next t ∧ SameMemory s t ∧ wordBehind s t
      ∧ (t.ctxOf s.core s.eSlot).ring (q_ch (s.runHere.q b.toNat)) = { s.mRing (s.runHere.q b.toNat) with
          head := (s.mRing (s.runHere.q b.toNat)).head + BitVec.ofNat 32 n.toNat }
      ∧ t.runHere.curOf b.toNat = s.runHere.curOf b.toNat - n.toNat := by
  generalize hτ : s.setCtx s.core s.eSlot ((s.ctxOf s.core s.eSlot).setRing (q_ch (s.runHere.q b.toNat))
    ((s.mRing (s.runHere.q b.toNat)).doAdvance n.toNat)) = τ
  have hc : τ.core = s.core ∧ τ.eng = s.eng ∧ SameMemory s τ := by rw [← hτ]; exact ⟨rfl, rfl, fun _ => rfl⟩
  have hctx : τ.ctxOf s.core s.eSlot = (s.ctxOf s.core s.eSlot).setRing (q_ch (s.runHere.q b.toNat)) ((s.mRing (s.runHere.q b.toNat)).doAdvance n.toNat) := by
    rw [← hτ]
    exact State.ctxOf_setCtx_same ..
  refine ⟨?t, ?eq, ?_, ?_, ?_, ?_⟩
  case eq =>
    show execSadv f l v b n s = _
    unfold execSadv
    dsimp only
    rw [matWord_go hgo ?_ (if_neg (by omega)), if_neg, hτ]
    · exact wordDone_setRun ..
    · unfold State.passesDone
      rw [hp]
      simp
    · unfold State.ringStream Ring.configured
      rw [hring.1, decide_eq_true hring.2, decide_eq_true hn]
      rfl
  · exact hc.2.2
  · exact wordBehind_of_run hc.1 hc.2.1 rfl rfl
  · exact (congrArg (fun d : Ctx => d.ring (q_ch (s.runHere.q b.toNat))) hctx).trans (Tbl.get_set_same ..)
  · rw [State.setRun_runHere]
    exact Tbl.get_set_same ..

theorem srst_spec (hgo : matGo s f l v) {b : BitVec 4}
    (hring : q_w (s.runHere.q b.toNat) = true ∨ q_w (s.runHere.q b.toNat) = false ∧ (s.mRing (s.runHere.q b.toNat)).scount ≠ 0) :
    ∃ t, exec (.srst f l v b) s = .next t ∧ SameMemory s t ∧ wordBehind s t ∧ t.runHere.curOf b.toNat = 0 := by
  refine ⟨?t, ?eq, fun _ => ?_, ?_, ?_⟩
  case eq =>
    show execSrst f l v b s = _
    unfold execSrst
    dsimp only
    rw [matWord_go hgo ?_ rfl]
    · exact wordDone_setRun ..
    · unfold State.ringStream Ring.configured
      rcases hring with h | ⟨h, hs⟩
      · rw [h]
        rfl
      · rw [h, decide_eq_true hs]
        rfl
  · rfl
  · exact wordBehind_of_run rfl rfl rfl rfl
  · rw [State.setRun_runHere]
    exact Tbl.get_set_same ..

end Words

section Links
variable (core : Nat) (p : Link)

theorem State.linkOf_setLink (σ : State) (l i : Nat) (v : Link) : (σ.setLink core l v).linkOf core i = if i = l then v else σ.linkOf core i := by
  show Tbl.get (Tbl.set σ.links (core * 4 + l) v) {} (core * 4 + i) = _
  rw [Tbl.get_set]
  exact if_congr (by omega) rfl rfl

/-- Links given parameters keep their queues and generators. -/
theorem setParams_spec (ls : List Nat) (σ : State) :
    let τ := ls.foldl (fun (σ : State) l => σ.setLink core l { p with queue := (σ.linkOf core l).queue, gen := (σ.linkOf core l).gen }) σ
    (∃ x, τ = { σ with links := x })
      ∧ ∀ i, τ.linkOf core i = if i ∈ ls then { p with queue := (σ.linkOf core i).queue, gen := (σ.linkOf core i).gen } else σ.linkOf core i := by
  induction ls generalizing σ with
  | nil => exact ⟨⟨_, rfl⟩, fun i => (if_neg List.not_mem_nil).symm⟩
  | cons l ls ih =>
    obtain ⟨⟨x, hx⟩, hl⟩ := ih (σ.setLink core l { p with queue := (σ.linkOf core l).queue, gen := (σ.linkOf core l).gen })
    refine ⟨⟨x, hx⟩, fun i => (hl i).trans ?_⟩
    rw [State.linkOf_setLink]
    by_cases hil : i = l
    · subst hil
      rw [if_pos rfl, if_pos List.mem_cons_self, ite_self]
    · rw [if_neg hil]
      exact if_congr (by simp [hil]) rfl rfl

end Links

theorem mem_linksOut : ∀ k < 4, k ∈ linksOut (linkFrom k) := by decide

section Words
variable {s : State} {f l : BitVec 1} {v : BitVec 3}

/-- The parameters that LINKCFG takes from the slot at the cursor (R257). -/
def linkParamsOf (s : State) (c : BitVec 1) (md : BitVec 3) (b : BitVec 4) : Link :=
  let q := s.runHere.q b.toNat
  let x := s.slotContent q (s.runHere.curOf b.toNat)
  let word (o : Nat) : BitVec 32 := BitVec.ofNat 32 (getBytes x o 4)
  { scale := (List.range s.mWidth).map fun j => word (4 * j), bias := (List.range s.mWidth).map fun j => word (4 * s.mWidth + 4 * j),
    bound := word (8 * s.mWidth), clamp := decide (c = 1), mode := md.toNat, fmt := q_fmt q, qtype := getBytes x (8 * s.mWidth + 4) 1 % 4 }

theorem linkcfg_spec (hgo : matGo s f l v) {b : BitVec 4} (k md : BitVec 3) (c : BitVec 1)
    (hring : q_w (s.runHere.q b.toNat) = false ∧ (s.mRing (s.runHere.q b.toNat)).scount ≠ 0) (hk : k.toNat ≤ 3) (hmd : md.toNat ≤ 4)
    (hcur : s.runHere.curOf b.toNat < (s.mRing (s.runHere.q b.toNat)).scount) (hfrom : linkFrom k.toNat = s.mK) (hplan : k.toNat ∈ planLinks s.mPlan)
    (hto : (s.fragOf s.core (linkTo k.toNat)).state = 1 ∨ (s.fragOf s.core (linkTo k.toNat)).state = 3)
    (hslot : (s.fragOf s.core (linkTo k.toNat)).slot = s.mFrag.slot) (hssz : 8 * s.mWidth + 5 ≤ 64 * (s.mRing (s.runHere.q b.toNat)).ssz)
    (hfull : s.runHere.curOf b.toNat < (s.mRing (s.runHere.q b.toNat)).full) (hp : s.mFrag.passes = []) :
    ∃ t q g, exec (.linkcfg f l v k c md b) s = .next t ∧ SameMemory s t ∧ wordBehind s t ∧ (t.fragOf s.core s.mK).linked = true
      ∧ t.linkOf s.core k.toNat = { linkParamsOf s c md b with queue := q, gen := g } ∧ t.runHere.curOf b.toNat = s.runHere.curOf b.toNat + 1 := by
  obtain ⟨⟨x, hx⟩, hl⟩ := setParams_spec s.core (linkParamsOf s c md b) (linksOut (linkFrom k.toNat)) s
  have hρ : s.linkParams s.core (linkFrom k.toNat) (linkParamsOf s c md b) = (linksOut (linkFrom k.toNat)).foldl
    (fun (σ : State) l => σ.setLink s.core l { linkParamsOf s c md b with queue := (σ.linkOf s.core l).queue, gen := (σ.linkOf s.core l).gen }) s := rfl
  rw [← hρ] at hx hl
  have hl := (hl k.toNat).trans (if_pos (mem_linksOut _ (by omega)))
  have heq (ρ : State) (h : s.linkParams s.core (linkFrom k.toNat) (linkParamsOf s c md b) = ρ) : exec (.linkcfg f l v k c md b) s =
      ((ρ.setMFrag { ρ.mFrag with linked := true }).setRun (s.runHere.setCur b.toNat (s.runHere.curOf b.toNat + 1))).wordDone := by
    subst h
    show execLinkcfg f l v k c md b s = _
    unfold execLinkcfg
    dsimp only
    rw [matWord_go hgo ?_ ?_, if_neg ?_]
    · rfl
    · unfold State.passesDone
      rw [hp]
      simpa using hfull
    · unfold State.ringStream Ring.configured
      rw [hring.1, decide_eq_true hring.2, decide_eq_true hk, decide_eq_true hmd]
      rfl
    · rw [if_neg (by omega)]
      refine firstOf_none fun p hp => ?_
      simp only [List.mem_cons, List.not_mem_nil, or_false] at hp
      rcases hp with rfl | rfl
      · simp only [hfrom, hslot, List.contains_iff_mem.mpr hplan]
        rcases hto with h | h <;> simp [h]
      · exact decide_eq_false (by omega)
  generalize s.linkParams s.core (linkFrom k.toNat) (linkParamsOf s c md b) = ρ at hx hl heq
  have hc : ρ.core = s.core ∧ ρ.eng = s.eng ∧ (∀ a, ρ.memByte a = s.memByte a) ∧ ρ.mK = s.mK := by rw [hx]; exact ⟨rfl, rfl, fun _ => rfl, rfl⟩
  obtain ⟨hcore, heng, hm, hmK⟩ := hc
  refine ⟨_, _, _, (heq ρ rfl).trans (wordDone_setRun ..), hm, wordBehind_of_run hcore heng rfl rfl, ?_, hl, ?_⟩
  · rw [← hcore, ← hmK]
    exact congrArg Frag.linked (State.fragOf_setFrag_same ..)
  · rw [State.setRun_runHere]
    exact Tbl.get_set_same ..

theorem smark_spec (hgo : matGo s f l v) (nf : BitVec 1) (m : BitVec 16) (hi : s.stepsIdle s.core s.eng = true) :
    ∃ t, exec (.smark f l v nf m) s = .next t ∧ SameMemory s t ∧ wordBehind s t
      ∧ t = ({ s with landing := s.landing ++ [.mark s.core s.eSlot s.eng m (nf == 1)] } : State).setRun (s.runHere.after 1)
      ∧ (s.landing = [] → (t.land.engOf s.core s.eng).last = some m ∧ (t.land.engOf s.core s.eng).notified = (nf == 1 && s.eHere.queue.isEmpty)) := by
  refine ⟨({ s with landing := s.landing ++ [.mark s.core s.eSlot s.eng m (nf == 1)] } : State).setRun (s.runHere.after 1), ?_, fun _ => rfl,
    wordBehind_setRun s (r := s.runHere.after 1) rfl rfl (by exact State.run_setRun rfl rfl _), rfl, fun hl => marked_lands hl s.core s.eSlot m (nf == 1) _ rfl⟩
  show execSmark f l v nf m s = _
  unfold execSmark
  rw [matWord_go hgo rfl rfl, hi]
  rfl

theorem matHalt_spec (hb : s.mBlocked = false) : ∃ t u, exec .matHalt s = .next t ∧ SameMemory s t ∧ (t.engOf s.core s.eng).run = some u
    ∧ u.idx = (stepIdx s.runHere.idx s.runHere.prog.loops).1 ∧ u.halted = (stepIdx s.runHere.idx s.runHere.prog.loops).2
    ∧ ((stepIdx s.runHere.idx s.runHere.prog.loops).2 = false → u.upc = 0) := by
  obtain ⟨t, u, ht, hrest⟩ := copyEnd_spec s
  have hhalt : execMatHalt s = s.copyEnd := if_neg (by rw [hb]; exact Bool.false_ne_true)
  exact ⟨t, u, hhalt.trans ht, hrest⟩

end Words

/-! ### Elements of the accumulators -/

theorem State.cWrite_slabElem (σ : State) (j e : Nat) (w : BitVec 32) (i e' : Nat) (he : e < 1024) (he' : e' < 1024) :
    slabElem (σ.cWrite σ.core (j * 4096 + 4 * e) w) i e' = if i = j ∧ e' = e then w else slabElem σ i e' := by
  have hk : cKey σ.core (j * 4096 + 4 * e) = σ.core * 2 ^ 21 + j * 1024 + e := by unfold cKey; omega
  show Tbl.get (Tbl.set σ.cbuf (cKey σ.core (j * 4096 + 4 * e)) w) 0 (σ.core * 2 ^ 21 + i * 1024 + e') = _
  rw [hk, Tbl.get_set]
  exact if_congr (by omega) rfl rfl

theorem slabElem_setRun (σ : State) (r : Run) (i e : Nat) : slabElem (σ.setRun r) i e = slabElem σ i e := rfl

theorem State.zeroSlab_slabElem (σ : State) (j i e : Nat) (he : e < 1024) : slabElem (σ.zeroSlab σ.core j) i e = if i = j then 0 else slabElem σ i e := by
  have hk : (σ.core * 2 ^ 21 + i * 1024 + e) / 1024 = σ.core * 2048 + i := by omega
  show Tbl.get (σ.cbuf.filter fun p => decide (p.1 / 1024 ≠ σ.core * 2048 + j)) 0 (σ.core * 2 ^ 21 + i * 1024 + e) = _
  unfold Tbl.get
  by_cases hij : i = j
  · rw [if_pos hij, Tbl.find?_filter_none _ _ _ fun v => decide_eq_false (not_not.mpr (hij ▸ hk))]
    rfl
  · rw [if_neg hij, Tbl.find?_filter_all _ _ _ fun v => decide_eq_true (by dsimp only; omega)]
    rfl

/-- Slabs cleared one by one. -/
theorem zeroSlabs_spec (js : List Nat) (σ : State) :
    let τ := js.foldl (fun (σ : State) j => σ.zeroSlab σ.core j) σ
    (∃ c, τ = { σ with cbuf := c }) ∧ ∀ i, ∀ e < 1024, slabElem τ i e = if i ∈ js then 0 else slabElem σ i e := by
  induction js generalizing σ with
  | nil => exact ⟨⟨_, rfl⟩, fun i e _ => (if_neg List.not_mem_nil).symm⟩
  | cons j js ih =>
    obtain ⟨⟨c, hc⟩, hi⟩ := ih (σ.zeroSlab σ.core j)
    refine ⟨⟨c, hc⟩, fun i e he => (hi i e he).trans ?_⟩
    rw [State.zeroSlab_slabElem _ _ _ _ he]
    by_cases hij : i = j
    · subst hij
      rw [if_pos rfl, if_pos List.mem_cons_self, ite_self]
    · rw [if_neg hij]
      exact if_congr (by simp [hij]) rfl rfl

/-- A slab filled element by element. -/
theorem fillElems_spec (j : Nat) (w : Nat → BitVec 32) (σ : State) : ∀ n ≤ 1024,
    let τ := (List.range n).foldl (fun (σ : State) e => σ.cWrite σ.core (j * 4096 + 4 * e) (w e)) σ
    (∃ c, τ = { σ with cbuf := c }) ∧ ∀ i, ∀ e < 1024, slabElem τ i e = if i = j ∧ e < n then w e else slabElem σ i e
  | 0, _ => ⟨⟨_, rfl⟩, fun i e _ => (if_neg (by omega)).symm⟩
  | n + 1, hn => by
    obtain ⟨⟨c, hc⟩, hi⟩ := fillElems_spec j w σ n (by omega)
    rw [List.range_succ, List.foldl_append]
    generalize (List.range n).foldl (fun (σ : State) e => σ.cWrite σ.core (j * 4096 + 4 * e) (w e)) σ = ρ at hc hi
    refine ⟨⟨_, by rw [hc]; rfl⟩, fun i e he => (State.cWrite_slabElem ρ j n (w n) i e (by omega) he).trans ?_⟩
    rw [hi i e he]
    by_cases hen : e = n
    · subst hen
      by_cases hij : i = j
      · rw [if_pos ⟨hij, rfl⟩, if_pos ⟨hij, by omega⟩]
      · rw [if_neg (by omega), if_neg (by omega), if_neg (by omega)]
    · rw [if_neg (by omega)]
      exact if_congr (by omega) rfl rfl

section Words
variable {s : State} {f l : BitVec 1} {v : BitVec 3}

theorem accz_spec (hgo : matGo s f l v) (hp : s.mFrag.passes = []) {n : BitVec 8} {j : BitVec 11}
    (hown : ownsAll s ((List.range (n.toNat + 1)).map fun i => j.toNat + i)) :
    ∃ t, exec (.accz f l v n j) s = .next t ∧ SameMemory s t ∧ wordBehind s t
      ∧ ∀ i, ∀ e < 1024, slabElem t i e = if i ∈ (List.range (n.toNat + 1)).map (fun i => j.toNat + i) then 0 else slabElem s i e := by
  have hdone : s.passesDone = true := by unfold State.passesDone; rw [hp]; rfl
  have heq : exec (.accz f l v n j) s =
      (((List.range (n.toNat + 1)).map fun i => j.toNat + i).foldl (fun (σ : State) j => σ.zeroSlab σ.core j) s).wordDone := by
    show execAccz f l v n j s = _
    unfold execAccz
    dsimp only
    rw [matWord_go hgo rfl (ownerCheck_none hown.1), hdone]
    exact mTouch_own hown _
  obtain ⟨⟨c, hc⟩, hi⟩ := zeroSlabs_spec ((List.range (n.toNat + 1)).map fun i => j.toNat + i) s
  generalize (((List.range (n.toNat + 1)).map fun i => j.toNat + i).foldl (fun (σ : State) j => σ.zeroSlab σ.core j) s) = τ at heq hc hi
  have hr : τ.core = s.core ∧ τ.eng = s.eng ∧ (∀ a, τ.memByte a = s.memByte a) ∧ τ.runHere = s.runHere := by
    rw [hc]
    exact ⟨rfl, rfl, fun _ => rfl, rfl⟩
  obtain ⟨hcore, heng, hm, hrun⟩ := hr
  exact ⟨_, heq, hm, wordBehind_setRun s (r := τ.runHere.after 1) (by rw [hrun]; rfl) (by rw [hrun]; rfl) (State.run_setRun hcore heng _), hi⟩

/-- The cursor of a stream stands at a slot. -/
def cursorOn (a cur : Nat) (σ : State) : State := σ.setRun (σ.runHere.setCur a cur)

theorem accld_spec (hgo : matGo s f l v) (hp : s.mFrag.passes = []) {b : BitVec 4} {j : BitVec 11}
    (hring : q_w (s.runHere.q b.toNat) = false ∧ (s.mRing (s.runHere.q b.toNat)).scount ≠ 0) (hown : ownsAll s [j.toNat])
    (hcur : s.runHere.curOf b.toNat < (s.mRing (s.runHere.q b.toNat)).scount) (hssz : 4096 ≤ 64 * (s.mRing (s.runHere.q b.toNat)).ssz)
    (hfull : s.runHere.curOf b.toNat < (s.mRing (s.runHere.q b.toNat)).full) :
    ∃ t, exec (.accld f l v b j) s = .next t ∧ SameMemory s t ∧ wordBehind s t ∧ t.runHere.curOf b.toNat = s.runHere.curOf b.toNat + 1
      ∧ ∀ i, ∀ e < 1024, slabElem t i e = if i = j.toNat then BitVec.ofNat 32 (leNat (fun i => s.aByte s.core s.eSlot
          ((s.mRing (s.runHere.q b.toNat)).slotAt ((s.mRing (s.runHere.q b.toNat)).head + BitVec.ofNat 32 (s.runHere.curOf b.toNat)).toNat + 4 * e + i)) 4)
        else slabElem s i e := by
  have hdone : s.passesDone = true := by unfold State.passesDone; rw [hp]; rfl
  let w (e : Nat) : BitVec 32 := BitVec.ofNat 32 (getBytes (s.slotContent (s.runHere.q b.toNat) (s.runHere.curOf b.toNat)) (4 * e) 4)
  have hw (e : Nat) (he : e < 1024) : w e = BitVec.ofNat 32 (leNat (fun i => s.aByte s.core s.eSlot
      ((s.mRing (s.runHere.q b.toNat)).slotAt ((s.mRing (s.runHere.q b.toNat)).head + BitVec.ofNat 32 (s.runHere.curOf b.toNat)).toNat + 4 * e + i)) 4) :=
    congrArg (BitVec.ofNat 32) (getBytes_aNat s s.core s.eSlot _ (by omega))
  have heq : exec (.accld f l v b j) s = (cursorOn b.toNat (s.runHere.curOf b.toNat + 1)
      ((List.range 1024).foldl (fun (σ : State) e => σ.cWrite σ.core (j.toNat * 4096 + 4 * e) (w e)) s)).wordDone := by
    show execAccld f l v b j s = _
    unfold execAccld
    dsimp only
    rw [matWord_go hgo ?_ ?_, if_neg ?_]
    · exact mTouch_own hown _
    · rw [hdone]
      simpa using hfull
    · unfold State.ringStream Ring.configured
      rw [hring.1, decide_eq_true hring.2]
      rfl
    · rw [if_neg (by omega), if_neg (by omega)]
      exact ownerCheck_none hown.1
  obtain ⟨⟨c, hc⟩, hi⟩ := fillElems_spec j.toNat w s 1024 (Nat.le_refl _)
  generalize (List.range 1024).foldl (fun (σ : State) e => σ.cWrite σ.core (j.toNat * 4096 + 4 * e) (w e)) s = τ at heq hc hi
  have hr : τ.core = s.core ∧ τ.eng = s.eng ∧ (∀ a, τ.memByte a = s.memByte a) ∧ τ.runHere = s.runHere := by
    rw [hc]
    exact ⟨rfl, rfl, fun _ => rfl, rfl⟩
  obtain ⟨hcore, heng, hm, hrun⟩ := hr
  rw [cursorOn, wordDone_setRun, hrun] at heq
  refine ⟨_, heq, fun a => by rw [hc]; rfl, wordBehind_of_run hcore heng rfl rfl, ?_, fun i e he => ?_⟩
  · rw [State.setRun_runHere]
    exact Tbl.get_set_same ..
  · rw [slabElem_setRun, slabElem_setRun, hi i e he, hw e he]
    exact if_congr (by omega) rfl rfl

/-- The places of elements laid one behind the other. -/
theorem places_range (z : Nat) (b : Nat → Nat → Byte) : ∀ n : Nat,
    ((List.range n).flatMap fun i => (List.range z).map fun j => (i * z + j, b i j)).map (fun p => p.1) = List.range (n * z)
  | 0 => by rw [Nat.zero_mul]; rfl
  | n + 1 => by
    rw [List.range_succ, List.flatMap_append, List.map_append, places_range z b n, Nat.succ_mul, List.range_add]
    simp only [List.flatMap_cons, List.flatMap_nil, List.append_nil, List.map_map]
    rfl

theorem accmv_spec (hgo : matGo s f l v) (hp : s.mFrag.passes = []) {b : BitVec 4} {j : BitVec 11}
    (hring : q_w (s.runHere.q b.toNat) = false ∧ (s.mRing (s.runHere.q b.toNat)).scount ≠ 0) (hown : ownsAll s [j.toNat])
    (hssz : 4096 ≤ 64 * (s.mRing (s.runHere.q b.toNat)).ssz) (hfree : (s.mRing (s.runHere.q b.toNat)).free ≠ 0) :
    ∃ t, exec (.accmv f l v b 0 j) s = .next t ∧ SameMemory s t ∧ wordBehind s t ∧ t.cbuf = s.cbuf
      ∧ (t.ctxOf s.core s.eSlot).ring (q_ch (s.runHere.q b.toNat)) = { s.mRing (s.runHere.q b.toNat) with claim := (s.mRing (s.runHere.q b.toNat)).claim + 1 }
      ∧ t.landing = s.landing ++ [.fill s.core s.eSlot (q_ch (s.runHere.q b.toNat)) (s.mRing (s.runHere.q b.toNat)).claim.toNat]
      ∧ ∀ e < 1024, ∀ i < 4, t.aByte s.core s.eSlot
          ((s.mRing (s.runHere.q b.toNat)).slotAt (s.mRing (s.runHere.q b.toNat)).claim.toNat + 4 * e + i) = BitVec.ofNat 8 ((slabElem s j.toNat e).toNat / 256 ^ i) := by
  have hdone : s.passesDone = true := by unfold State.passesDone; rw [hp]; rfl
  let val (e i : Nat) : Byte := BitVec.ofNat 8 ((slabElem s j.toNat e).toNat / 256 ^ i)
  let bs : List (Nat × Byte) := (List.range 1024).flatMap fun e => (List.range 4).map fun i => (e * 4 + i, val e i)
  have hbs : ((List.range 1024).flatMap fun e => bytesAt (4 * e) 4 (s.cElem s.core (j.toNat * 4096 + 4 * e)).toNat) = bs := by
    refine List.flatMap_congr fun e he => List.map_congr_left fun i _ => ?_
    have hk : cKey s.core (j.toNat * 4096 + 4 * e) = s.core * 2 ^ 21 + j.toNat * 1024 + e := by unfold cKey; omega
    rw [Nat.mul_comm 4 e]
    refine congrArg (fun x : BitVec 32 => (e * 4 + i, BitVec.ofNat 8 (x.toNat / 256 ^ i))) ?_
    unfold State.cElem
    rw [Nat.mul_comm e 4, hk]
    rfl
  obtain ⟨τ, a, x, hpush, hτ, ⟨la, hctx⟩, hbytes⟩ := pushSlot_spec s s.core s.eSlot (q_ch (s.runHere.q b.toNat)) bs hfree
  have hplaces : bs.map (fun p => p.1) = List.range 4096 := places_range 4 val 1024
  have heq : exec (.accmv f l v b 0 j) s = τ.wordDone := by
    show execAccmv f l v b 0 j s = _
    unfold execAccmv
    dsimp only
    rw [matWord_go hgo ?_ ?_, if_neg ?_]
    · rw [mTouch_own hown]
      simp only [if_true]
      rw [hbs, hpush]
    · rw [hdone]
      simpa using hfree
    · unfold State.ringStream Ring.configured
      rw [hring.1, decide_eq_true hring.2]
      rfl
    · rw [firstOf_none fun p hp => ?_]
      · exact ownerCheck_none hown.1
      · simp only [List.mem_cons, List.not_mem_nil, or_false] at hp
        rcases hp with rfl | rfl
        · rfl
        · exact decide_eq_false (by simp only [if_true]; omega)
  have hr : τ.core = s.core ∧ τ.eng = s.eng ∧ (∀ a, τ.memByte a = s.memByte a) ∧ τ.runHere = s.runHere ∧ τ.cbuf = s.cbuf
      ∧ τ.landing = s.landing ++ [.fill s.core s.eSlot (q_ch (s.runHere.q b.toNat)) (s.mRing (s.runHere.q b.toNat)).claim.toNat] := by
    rw [hτ]
    exact ⟨rfl, rfl, fun _ => rfl, rfl, rfl, rfl⟩
  obtain ⟨hcore, heng, hm, hrun, hcbuf, hland⟩ := hr
  refine ⟨_, heq, hm, wordBehind_setRun s (r := τ.runHere.after 1) (by rw [hrun]; rfl) (by rw [hrun]; rfl) (State.run_setRun hcore heng _), hcbuf, ?_, hland,
    fun e he i hi => ?_⟩
  · exact (congrArg (fun d : Ctx => d.ring (q_ch (s.runHere.q b.toNat))) hctx).trans (Tbl.get_set_same ..)
  · refine Eq.trans ?_ (hbytes ?_ ?_ (e * 4 + i, val e i) ?_)
    · rw [Nat.mul_comm e 4, ← Nat.add_assoc]
      rfl
    · rw [hplaces]
      exact List.nodup_range
    · intro p hp
      have : p.1 ∈ List.range 4096 := hplaces ▸ List.mem_map_of_mem hp
      have h4096 := List.mem_range.mp this
      exact Nat.lt_of_lt_of_le h4096 hssz
    · exact List.mem_flatMap.mpr ⟨e, List.mem_range.mpr he, List.mem_map.mpr ⟨i, List.mem_range.mpr hi, rfl⟩⟩

end Words

/-- Settles O27. -/
theorem fragmentSteps : Obligations.FragmentSteps := by
  unfold Obligations.FragmentSteps
  refine ⟨?_, ?_⟩
  · intro s f l v b n nf c m k md r q ring cur fr fits to' word w isRing
    have hstream (h : isRing) : (s.ringStream q && decide (n ≠ 0)) = decide (n ≠ 0) := by
      unfold State.ringStream Ring.configured
      rw [h.1, decide_eq_true h.2]
      rfl
    refine ⟨fun hgo => matWord_go hgo rfl rfl _, fun hgo hw hfits => ?_, fun hgo hr hn hle => ?_, fun hgo hr hn hfull hp => sadv_spec hgo hr hn hfull hp,
      fun hgo hw => srst_spec hgo hw, fun hgo hi => smark_spec hgo nf m hi, fun hgo hi => ?_,
      fun hgo hr hk hmd hcur hfrom hplan hto hslot hssz hfull hp => ?_, fun _ _ hb => matHalt_spec hb, fun hfirst hissue hv => ?_⟩
    · obtain ⟨t, ht, hm, hbehind, hfrag, hcur⟩ := wld_spec hgo hw hfits
      refine ⟨t, ht, hm, hbehind, ?_, ?_, ?_, ?_, hcur⟩
      · rw [hfrag]
        rfl
      · rw [hfrag]
      · rw [hfrag]
      · rw [hfrag]
        exact List.map_map
    · have hgo' := matWord_go hgo ((hstream hr).trans (decide_eq_true hn)) (if_neg (Nat.not_lt.mpr hle) : (if ring.scount < n.toNat then some stepIllegal else none) = none)
      exact ⟨fun hf => (hgo' _).trans (if_neg (Nat.not_lt.mpr hf)), fun hf => (hgo' _).trans (if_pos hf)⟩
    · exact (matWord_go hgo rfl rfl _).trans (if_pos (by rw [hi]; rfl))
    · obtain ⟨t, q', g, ht, hm, hbehind, hlinked, hl, hcur'⟩ := linkcfg_spec hgo k md c hr hk hmd hcur hfrom hplan hto hslot hssz hfull hp
      refine ⟨t, ht, hm, hbehind, hlinked, ?_⟩
      rw [hl]
      exact ⟨rfl, rfl, rfl, rfl, rfl, rfl, hcur'⟩
    · exact ⟨matWord_skips hfirst hissue hv .., matWord_skips hfirst hissue hv .., matWord_skips hfirst hissue hv true none _⟩
  · intro s f l v n b j q ring cur js isRing hgo hp
    refine ⟨fun hown => ?_, fun hr hown hcur hssz hfull => ?_, fun hr hown hssz hfree => accmv_spec hgo hp hr hown hssz hfree⟩
    · obtain ⟨t, ht, hm, hbehind, hi⟩ := accz_spec hgo hp hown
      exact ⟨t, ht, hm, hbehind, fun i hj e he => (hi i e he).trans (if_pos hj), fun i _ hj e he => (hi i e he).trans (if_neg hj)⟩
    · obtain ⟨t, ht, hm, hbehind, hcur', hi⟩ := accld_spec hgo hp hr hown hcur hssz hfull
      exact ⟨t, ht, hm, hbehind, hcur', fun e he => (hi _ e he).trans (if_pos rfl), fun i _ hij e he => (hi i e he).trans (if_neg hij)⟩

end Sys2Proof.Machine
end

section
/-! ## O31: a copy step completes -/
namespace Sys2Proof.Machine

/-! ### Bytes of numbers -/

/-- A byte of the number that bytes make. -/
theorem leNat_byte (f : Nat → Byte) {n i : Nat} (h : i < n) : BitVec.ofNat 8 (leNat f n / 256 ^ i) = f i := by
  have hs := leNat_slice f (N := n) (k := i) (n := 1) (by omega)
  refine BitVec.eq_of_toNat_eq ?_
  rw [BitVec.toNat_ofNat]
  exact hs.trans (by simp [leNat])

/-! ### The engine that acts -/

section Acting
variable (s : State) (core n : Nat)

theorem State.asEngine_cNo : (s.asEngine core (n + 8)).cNo = n := by
  unfold State.cNo State.asEngine
  exact Nat.add_sub_cancel ..

theorem State.asEngine_eSlot : (s.asEngine core (n + 8)).eSlot = (s.copyOf core n).slot := by
  unfold State.eSlot State.slotOfEng
  rw [show (s.asEngine core (n + 8)).eng = n + 8 from rfl, if_neg (by omega), if_neg (by omega), Nat.add_sub_cancel]
  rfl

theorem State.asEngine_copyHere : (s.asEngine core (n + 8)).copyHere = s.copyOf core n := by
  unfold State.copyHere
  rw [State.asEngine_cNo]
  rfl

end Acting

/-! ### The end of a step without an error -/

theorem Ctx.completeTag_rings (c : Ctx) (t : Nat) : (c.completeTag t none).rings = c.rings ∧ (c.completeTag t none).abase = c.abase
    ∧ (c.completeTag t none).tagcause = c.tagcause := ⟨rfl, rfl, rfl⟩

theorem putTags_sameCause (σ : State) (core slot : Nat) {c : Ctx} (h : c.tagcause = (σ.ctxOf core slot).tagcause) :
    σ.putTags core slot c = σ.setCtx core slot c := by
  unfold State.putTags
  exact if_pos h

/-- A context whose rings and A window stand as before. -/
def Ctx.SameRings (c d : Ctx) : Prop := d.rings = c.rings ∧ d.abase = c.abase

/-- The engine's steps in flight without one. -/
def State.stepGone (σ : State) (st : CopyStep) : State :=
  σ.setCopyHere { σ.copyHere with steps := σ.copyHere.steps.filter fun q => decide (q.idx ≠ st.idx) }

/-- A step without an error leaves its engine, and its tag completes. -/
theorem endStep_eq (σ : State) (slot : Nat) (st : CopyStep) : ∃ en, (∀ e, e ≠ σ.eng → Tbl.get en {} (σ.core * 16 + e) = σ.engOf σ.core e)
    ∧ (st.tag = none → σ.endStep slot st none = ({ σ with engs := en } : State).stepGone st)
    ∧ ∀ k, st.tag = some k → σ.endStep slot st none = (({ σ with engs := en } : State).stepGone st).tagDone (some k) none := by
  unfold State.endStep
  cases hr : σ.eHere.run with
  | none => exact ⟨_, fun _ _ => rfl, fun h => by rw [h]; rfl, fun k h => by rw [h]; rfl⟩
  | some r => exact ⟨_, fun e he => σ.engOf_setEng_ne σ.core _ he, fun h => by rw [h]; rfl, fun k h => by rw [h]; rfl⟩

/-- What the end of a step without an error leaves. -/
theorem endStep_spec (σ : State) (slot : Nat) (st : CopyStep) (hslot : σ.eSlot = slot) :
    ∃ x cs en, σ.endStep slot st none = { σ with ctxs := x, copies := cs, engs := en }
      ∧ ((σ.endStep slot st none).copyOf σ.core σ.cNo).steps = σ.copyHere.steps.filter (fun q => decide (q.idx ≠ st.idx))
      ∧ (σ.ctxOf σ.core slot).SameRings ((σ.endStep slot st none).ctxOf σ.core slot)
      ∧ ∀ e, e ≠ σ.eng → (σ.endStep slot st none).engOf σ.core e = σ.engOf σ.core e := by
  obtain ⟨en, hother, hnone, hsome⟩ := endStep_eq σ slot st
  generalize hρ : ({ σ with engs := en } : State).stepGone st = ρ at hnone hsome
  have hshape : ∃ cs, ρ = { σ with copies := cs, engs := en } := ⟨_, hρ.symm⟩
  have hcopy : ρ.copyOf σ.core σ.cNo = { σ.copyHere with steps := σ.copyHere.steps.filter fun q => decide (q.idx ≠ st.idx) } := by
    rw [← hρ]
    exact State.copyOf_setCopy_same ..
  obtain ⟨cs, hcs⟩ := hshape
  cases ht : st.tag with
  | none =>
    rw [hnone ht]
    exact ⟨_, _, _, hcs, congrArg CopyEng.steps hcopy, by rw [hcs]; exact ⟨rfl, rfl⟩, fun e he => by rw [hcs]; exact hother e he⟩
  | some k =>
    have hslotEq (τ : State) (hc : τ.core = σ.core) (he : τ.eng = σ.eng) (hf : τ.frags = σ.frags)
        (hcp : (τ.copyOf σ.core σ.cNo).slot = (σ.copyOf σ.core σ.cNo).slot) : τ.eSlot = slot := by
      rw [← hslot]
      unfold State.eSlot State.slotOfEng State.fragOf
      rw [hc, he, hf]
      unfold State.cNo at hcp
      rw [hcp]
    have hρslot : ρ.eSlot = slot := hslotEq ρ (by rw [hcs]) (by rw [hcs]) (by rw [hcs]) (by rw [hcopy]; rfl)
    have hctx : ρ.ctxOf σ.core slot = σ.ctxOf σ.core slot := by rw [hcs]; rfl
    have hdone : ρ.tagDone (some k) none = ρ.setCtx σ.core slot ((σ.ctxOf σ.core slot).completeTag k none) := by
      show ρ.putTags ρ.core ρ.eSlot ((ρ.ctxOf ρ.core ρ.eSlot).completeTag k none) = _
      rw [hρslot, show ρ.core = σ.core by rw [hcs], hctx]
      exact putTags_sameCause ρ σ.core slot (by rw [hctx]; rfl)
    rw [hsome k ht, hdone, State.ctxOf_setCtx_same]
    exact ⟨_, _, _, by rw [hcs]; rfl, congrArg CopyEng.steps hcopy, ⟨rfl, rfl⟩, fun e he => by rw [hcs]; exact hother e he⟩

/-! ### Elements of G that are in memory -/

/-- The n-th elements of a shape of G translate to memory. -/
def localAt (e : State) (slot : Nat) (kind : Kind) (va : Nat → Word) (X : Nat → Xl) (N : Nat) : Prop :=
  ∀ j < N, e.translate e.core slot (va j) kind .plain = .ok (X j) ∧ (X j).cls ≠ 2

section Sides
variable {e : State} {slot idx esz N : Nat} {va : Nat → Word} {X : Nat → Xl} {kind : Kind}

theorem gXlate_local (h : localAt e slot kind va X N) :
    e.gXlate slot kind .plain ((List.range N).map va) = (List.range N).map fun j => (va j, .ok (X j)) := by
  unfold State.gXlate
  rw [List.map_map]
  refine List.map_congr_left fun j hj => ?_
  simp only [Function.comp_apply, (h j (List.mem_range.mp hj)).1]

theorem xlateFault_ok : xlateFault ((List.range N).map fun j => (va j, .ok (X j))) = none := by
  unfold xlateFault
  refine List.findSome?_eq_none_iff.mpr fun p hp => ?_
  obtain ⟨j, _, rfl⟩ := List.mem_map.mp hp
  rfl

theorem xlOk_ok : xlOk ((List.range N).map fun j => (va j, .ok (X j))) = (List.range N).map X := by
  unfold xlOk
  rw [List.filterMap_map]
  exact congrFun List.filterMap_eq_map' (List.range N)

theorem remoteLines_local (h : ∀ j < N, (X j).cls ≠ 2) : remoteLines ((List.range N).map fun j => (va j, X j)) = [] := by
  have hnone : ∀ p ∈ ((List.range N).map fun j => (va j, X j)).zipIdx, p.1.2.remote = false := by
    rintro ⟨⟨a, x⟩, i⟩ hp
    obtain ⟨j, hj, he⟩ := List.mem_map.mp (List.fst_mem_of_mem_zipIdx hp)
    obtain ⟨-, rfl⟩ := Prod.mk.inj he
    exact decide_eq_false (h j (List.mem_range.mp hj))
  unfold remoteLines
  generalize ((List.range N).map fun j => (va j, X j)).zipIdx = l at hnone
  suffices ∀ a, l.foldl (fun (a : List (Nat × Word × Xl)) p =>
      if p.1.2.remote ∧ !a.any (fun q => decide (q.2.2.frame = p.1.2.frame) && decide (q.2.2.off / 64 = p.1.2.off / 64)) then a ++ [(p.2, p.1)] else a) a = a from this []
  induction l with
  | nil => exact fun _ => rfl
  | cons p l ih =>
    intro a
    rw [List.foldl_cons, if_neg (by rw [hnone p List.mem_cons_self]; simp)]
    exact ih (fun q hq => hnone q (List.mem_cons_of_mem _ hq)) a

theorem lateElem_local (eng : Nat) (late : List Nat) (lines : List (Nat × Word × Xl)) {x : Xl} (h : x.cls ≠ 2) : lateElem eng idx late lines x = false := by
  unfold lateElem Xl.remote
  rw [decide_eq_false h]
  rfl

theorem gRemote_local (h : ∀ j < N, (X j).cls ≠ 2) : e.gRemote slot idx ((List.range N).map fun j => (va j, X j)) = .reply e [] := by
  unfold State.gRemote
  rw [remoteLines_local h]
  rfl

/-- A read of elements in memory whose lines pass their checks goes on with their bytes. -/
theorem readSide_local (h : localAt e slot .read va X N) (hline : ∀ j < N, e.lineCheck (e.vfOf e.core slot) (X j).pa = none)
    (k : State → List (Option Nat) → Option (Nat × Word) → StepEnd) : e.readSide slot idx esz .plain ((List.range N).map va) k
      = k e ((List.range N).map fun j => some (leNat (fun i => e.copyByte slot ((X j).pa + i)) esz)) none := by
  have hcls : ∀ x ∈ (List.range N).map X, x.remote = false := by
    intro x hx
    obtain ⟨j, hj, rfl⟩ := List.mem_map.mp hx
    exact decide_eq_false (h j (List.mem_range.mp hj)).2
  have hcheck : ∀ x ∈ (List.range N).map X, e.lineCheck (e.vfOf e.core slot) x.pa = none := by
    intro x hx
    obtain ⟨j, hj, rfl⟩ := List.mem_map.mp hx
    exact hline j (List.mem_range.mp hj)
  have helems : e.gElems slot esz ((List.range N).map X) = (List.range N).map fun j => some (leNat (fun i => e.copyByte slot ((X j).pa + i)) esz) := by
    unfold State.gElems
    refine (List.map_congr_left (g := (fun x : Xl => some (leNat (fun i => e.copyByte slot (x.pa + i)) esz)) ∘ Prod.fst) fun p hp => ?_).trans ?_
    · have hx := List.fst_mem_of_mem_zipIdx hp
      rw [hcls _ hx, hcheck _ hx]
      rfl
    · rw [← List.map_map, List.zipIdx_map_fst, List.map_map]
      rfl
  unfold State.readSide
  dsimp only
  rw [gXlate_local h, xlateFault_ok, xlOk_ok, List.zip_map']
  dsimp only
  rw [gRemote_local fun j hj => (h j hj).2, remoteLines_local fun j hj => (h j hj).2]
  dsimp only
  have hany : ((List.range N).map X).any Xl.remote = false := List.any_eq_false.mpr fun x hx => by rw [hcls x hx]; exact Bool.false_ne_true
  have hnotices : ((List.range N).map X).filter (fun x => !x.remote && decide (e.lineCheck (e.vfOf e.core slot) x.pa = some causeSealFail)) = [] :=
    List.filter_eq_nil_iff.mpr fun x hx => by rw [hcheck x hx]; simp
  have herr : e.gReadErr slot ((List.range N).map fun j => (va j, X j)) = none := by
    refine List.findSome?_eq_none_iff.mpr fun p hp => ?_
    obtain ⟨j, hj, rfl⟩ := List.mem_map.mp hp
    dsimp only
    rw [hline j (List.mem_range.mp hj)]
    split <;> rfl
  have hlost : ((List.range N).map fun j => (va j, X j)).find? (fun p => lateElem e.eng idx [] [] p.2) = none := by
    refine List.find?_eq_none.mpr fun p hp => ?_
    obtain ⟨j, hj, rfl⟩ := List.mem_map.mp hp
    rw [lateElem_local _ _ _ (h j (List.mem_range.mp hj)).2]
    exact Bool.false_ne_true
  rw [hnotices, herr, hlost, helems, List.zip_map', hany]
  refine congrArg (fun vs => k e vs none) ?_
  rw [List.map_map]
  refine List.map_congr_left fun j hj => ?_
  simp only [Function.comp_apply, lateElem_local _ _ _ (h j (List.mem_range.mp hj)).2]
  rfl

/-- A write of elements in memory whose frames are the slot's is performed. -/
theorem writeSide_local (h : localAt e slot .write va X N) (hown : ∀ j < N, e.ownerOk (e.vfOf e.core slot) (X j).pa = true) (tag : Option Nat)
    (vs : List (Option Nat)) : e.writeSide slot idx esz .plain tag ((List.range N).map va) vs = .done (e.gWrite slot esz tag ((List.range N).map X) vs) none := by
  unfold State.writeSide
  dsimp only
  rw [gXlate_local h, xlateFault_ok, xlOk_ok, List.zip_map']
  dsimp only
  rw [gRemote_local fun j hj => (h j hj).2, remoteLines_local fun j hj => (h j hj).2]
  dsimp only
  have herr : e.gWriteErr slot ((List.range N).map fun j => (va j, X j)) = none := by
    refine List.findSome?_eq_none_iff.mpr fun p hp => ?_
    obtain ⟨j, hj, rfl⟩ := List.mem_map.mp hp
    exact if_pos (.inr (hown j (List.mem_range.mp hj)))
  have hlost : ((List.range N).map fun j => (va j, X j)).find? (fun p => lateElem e.eng idx [] [] p.2) = none := by
    refine List.find?_eq_none.mpr fun p hp => ?_
    obtain ⟨j, hj, rfl⟩ := List.mem_map.mp hp
    rw [lateElem_local _ _ _ (h j (List.mem_range.mp hj)).2]
    exact Bool.false_ne_true
  rw [herr, hlost]
  rfl

end Sides

/-- Elements of n bytes written into a window one after the other, at places of their own. -/
theorem aWriteElems_spec (core slot n : Nat) (a v : Nat → Nat) (σ : State) : ∀ N, (∀ j < N, a j + n ≤ 2 ^ 24) →
    (∀ i < N, ∀ j < N, i ≠ j → a i + n ≤ a j ∨ a j + n ≤ a i) →
    let τ := (List.range N).foldl (fun (σ : State) j => σ.aWrite core slot (a j) (natBytes n (v j))) σ
    (∃ b x, τ = { σ with abuf := b, ctxs := x }) ∧ (σ.ctxOf core slot).SameRings (τ.ctxOf core slot)
      ∧ (∀ j < N, ∀ i < n, τ.aByte core slot (a j + i) = BitVec.ofNat 8 (v j / 256 ^ i))
      ∧ ∀ p < 2 ^ 24, (∀ j < N, p < a j ∨ a j + n ≤ p) → τ.aByte core slot p = σ.aByte core slot p
  | 0, _, _ => ⟨⟨_, _, rfl⟩, ⟨rfl, rfl⟩, fun _ h => absurd h (Nat.not_lt_zero _), fun _ _ _ => rfl⟩
  | N + 1, hfit, hapart => by
    obtain ⟨⟨b, x, hs⟩, ⟨hrings, hbase⟩, hsame, hother⟩ :=
      aWriteElems_spec core slot n a v σ N (fun j hj => hfit j (by omega)) (fun i hi j hj => hapart i (by omega) j (by omega))
    rw [List.range_succ, List.foldl_append, List.foldl_cons, List.foldl_nil]
    generalize (List.range N).foldl (fun (σ : State) j => σ.aWrite core slot (a j) (natBytes n (v j))) σ = ρ at hs hrings hbase hsame hother
    have hN := hfit N (Nat.lt_succ_self N)
    obtain ⟨la, hctx⟩ : ∃ la, (ρ.aWrite core slot (a N) (natBytes n (v N))).ctxOf core slot = { ρ.ctxOf core slot with liveA := la } :=
      ⟨_, State.ctxOf_setCtx_same ..⟩
    refine ⟨⟨_, _, by rw [hs]; rfl⟩, by rw [hctx]; exact ⟨hrings, hbase⟩, fun j hj i hi => ?_, fun p hp ho => ?_⟩
    · by_cases hjN : j = N
      · subst hjN
        exact ρ.aWrite_aByte_same core slot _ _ _ hN hi
      · have := hapart j (by omega) N (by omega) hjN
        have := hfit j (by omega)
        rw [ρ.aWrite_aByte_other core slot _ _ _ hN (by omega) (by omega)]
        exact hsame j (by omega) i hi
    · rw [ρ.aWrite_aByte_other core slot _ _ _ hN hp (ho N (by omega))]
      exact hother p hp fun j hj => ho j (by omega)

/-- A byte of a window reads as before where the window and its bytes do. -/
theorem aByte_of_sameRings {σ τ : State} {core slot : Nat} (h : (σ.ctxOf core slot).SameRings (τ.ctxOf core slot)) (ha : τ.abuf = σ.abuf) (p : Nat) :
    τ.aByte core slot p = σ.aByte core slot p := by
  unfold State.aByte aKey
  rw [ha, h.2]

theorem markDirty_untracked {σ : State} (h : σ.trackAt = []) (fs : List Nat) : fs.foldl (fun σ f => σ.markDirty f) σ = σ := by
  have hone (f : Nat) : σ.markDirty f = σ := by
    unfold State.markDirty
    rw [h]
    rfl
  induction fs with
  | nil => rfl
  | cons f fs ih => rw [List.foldl_cons, hone, ih]

/-- What a write of elements to memory leaves, where nobody tracks the frames' writes. -/
theorem gWrite_spec {e : State} {slot n N : Nat} {X : Nat → Xl} (hcls : ∀ j < N, (X j).cls ≠ 2) (hown : ∀ j < N, e.ownerOk (e.vfOf e.core slot) (X j).pa = true)
    (htrack : e.trackAt = []) (tag : Option Nat) (v : Nat → Nat) :
    let τ := e.gWrite slot n tag ((List.range N).map X) ((List.range N).map fun j => some (v j))
    (∃ f x w g y, τ = { e with fcache := f, episodes := x, watches := w, agenda := g, ctxs := y })
      ∧ (e.ctxOf e.core slot).SameRings (τ.ctxOf e.core slot)
      ∧ ∀ pa, τ.memByte pa = (e.writeList ((List.range N).flatMap fun j => bytesAt (X j).pa n (v j))).memByte pa := by
  have hok : (((List.range N).map X).zip ((List.range N).map fun j => some (v j))).filter
        (fun p => !p.1.remote && p.2.isSome && e.ownerOk (e.vfOf e.core slot) p.1.pa) = (List.range N).map fun j => (X j, some (v j)) := by
    rw [List.zip_map']
    refine List.filter_eq_self.mpr fun p hp => ?_
    obtain ⟨j, hj, rfl⟩ := List.mem_map.mp hp
    have hj := List.mem_range.mp hj
    simp only [hown j hj, Xl.remote, decide_eq_false (hcls j hj)]
    rfl
  have hbytes : ((List.range N).map fun j => (X j, some (v j))).flatMap (fun p => bytesAt p.1.pa n (p.2.getD 0))
      = (List.range N).flatMap fun j => bytesAt (X j).pa n (v j) := List.flatMap_map ..
  obtain ⟨f, x, w, g, hw⟩ := e.writeList_shape ((List.range N).flatMap fun j => bytesAt (X j).pa n (v j))
  unfold State.gWrite
  dsimp only
  rw [hok, hbytes, markDirty_untracked (by rw [hw]; exact htrack)]
  have hctx : (e.writeList ((List.range N).flatMap fun j => bytesAt (X j).pa n (v j))).ctxOf e.core slot = e.ctxOf e.core slot := by rw [hw]; rfl
  have hcore : (e.writeList ((List.range N).flatMap fun j => bytesAt (X j).pa n (v j))).core = e.core := by rw [hw]
  refine ⟨⟨f, x, w, g, _, by rw [hw]; rfl⟩, ?_, fun pa => rfl⟩
  rw [hcore, State.ctxOf_setCtx_same, hctx]
  exact ⟨rfl, rfl⟩

/-! ### COPY_STEP_COMPLETE -/

section Complete
variable {s : State} {core n idx : Nat} {st : CopyStep}

theorem step_found (hfind : (s.copyOf core n).steps.find? (fun q => decide (q.idx = idx)) = some st) : st.idx = idx := by
  have := List.find?_some hfind
  exact of_decide_eq_true this

/-- A step that has moved its data without an error leaves its engine. -/
theorem copyStepComplete_done (hfind : (s.copyOf core n).steps.find? (fun q => decide (q.idx = idx)) = some st)
    (hop : ∀ g c k w, st.op ≠ .cldm g c k w) {τ : State}
    (hmove : (s.asEngine core (n + 8)).moveStep (s.copyOf core n).slot st = .done τ none) :
    exec (.copyStepComplete core n idx) s = .next (τ.endStep (s.copyOf core n).slot st none) := by
  show execCopyStepComplete core n idx s = _
  unfold execCopyStepComplete
  dsimp only
  rw [State.asEngine_copyHere, State.asEngine_eSlot, hfind]
  dsimp only
  rw [hmove]
  dsimp only
  split
  next g c k w h => exact absurd h (hop g c k w)
  · rfl

/-- What the end of the step leaves where its move has changed no engine. -/
theorem copyStep_gone {τ : State} (hfind : (s.copyOf core n).steps.find? (fun q => decide (q.idx = idx)) = some st) (hcore : τ.core = core)
    (heng : τ.eng = n + 8) (hcopies : τ.copies = s.copies) :
    (∀ q ∈ ((τ.endStep (s.copyOf core n).slot st none).copyOf core n).steps, q.idx ≠ idx)
      ∧ (∀ a, (τ.endStep (s.copyOf core n).slot st none).memByte a = τ.memByte a) ∧ (τ.endStep (s.copyOf core n).slot st none).abuf = τ.abuf
      ∧ (τ.ctxOf core (s.copyOf core n).slot).SameRings ((τ.endStep (s.copyOf core n).slot st none).ctxOf core (s.copyOf core n).slot)
      ∧ ∀ e, e ≠ n + 8 → (τ.endStep (s.copyOf core n).slot st none).engOf core e = τ.engOf core e := by
  have hno : τ.cNo = n := by unfold State.cNo; rw [heng]; exact Nat.add_sub_cancel ..
  have hslot : τ.eSlot = (s.copyOf core n).slot := by
    unfold State.eSlot State.slotOfEng State.copyOf
    rw [heng, if_neg (by omega), if_neg (by omega), Nat.add_sub_cancel, hcopies, hcore]
  obtain ⟨x, cs, en, hs, hsteps, hrings, hengs⟩ := endStep_spec τ (s.copyOf core n).slot st hslot
  rw [hcore, hno] at hsteps
  rw [hcore] at hrings hengs
  rw [heng] at hengs
  refine ⟨fun q hq => ?_, fun a => by rw [hs]; rfl, by rw [hs], hrings, hengs⟩
  rw [hsteps] at hq
  have := of_decide_eq_true (List.mem_filter.mp hq).2
  rwa [step_found hfind] at this

variable {g b : Nat} {X : Nat → Xl}

theorem shape_gAddrs (G : Shape) : G.gAddrs = (List.range G.count).map fun j => gAddr (G.elem j) := by
  unfold Shape.gAddrs Shape.elems
  rw [List.map_map]
  rfl

theorem copyStep_cld (hfind : (s.copyOf core n).steps.find? (fun q => decide (q.idx = idx)) = some st) (hop : st.op = .cld g b)
    (hspace : (st.bound.shape b).space = 1) (hcount : (st.bound.shape b).count = (st.bound.shape g).count)
    (hesz : (st.bound.shape b).esz = (st.bound.shape g).esz)
    (hfit : ∀ j < (st.bound.shape g).count, 0 ≤ (st.bound.shape b).elem j ∧ (st.bound.shape b).elem j + (st.bound.shape g).esz ≤ 2 ^ 24)
    (hx : localAt (s.asEngine core (n + 8)) (s.copyOf core n).slot .read (fun j => gAddr ((st.bound.shape g).elem j)) X (st.bound.shape g).count)
    (hline : ∀ j < (st.bound.shape g).count, s.lineCheck (s.vfOf core (s.copyOf core n).slot) (X j).pa = none)
    (hapart : ∀ i < (st.bound.shape g).count, ∀ j < (st.bound.shape g).count, i ≠ j →
      ((st.bound.shape b).elem i).toNat + (st.bound.shape g).esz ≤ ((st.bound.shape b).elem j).toNat
        ∨ ((st.bound.shape b).elem j).toNat + (st.bound.shape g).esz ≤ ((st.bound.shape b).elem i).toNat) :
    ∃ t, exec (.copyStepComplete core n idx) s = .next t ∧ (∀ q ∈ (t.copyOf core n).steps, q.idx ≠ idx) ∧ SameMemory s t
      ∧ (∀ j < (st.bound.shape g).count, ∀ i < (st.bound.shape g).esz, t.aByte core (s.copyOf core n).slot (((st.bound.shape b).elem j).toNat + i)
          = (s.asEngine core (n + 8)).copyByte (s.copyOf core n).slot ((X j).pa + i))
      ∧ ∀ p < 2 ^ 24, (∀ j < (st.bound.shape g).count, p < ((st.bound.shape b).elem j).toNat ∨ ((st.bound.shape b).elem j).toNat + (st.bound.shape g).esz ≤ p) →
          t.aByte core (s.copyOf core n).slot p = s.aByte core (s.copyOf core n).slot p := by
  let val (j : Nat) : Nat := leNat (fun i => (s.asEngine core (n + 8)).copyByte (s.copyOf core n).slot ((X j).pa + i)) (st.bound.shape g).esz
  have hmove : (s.asEngine core (n + 8)).moveStep (s.copyOf core n).slot st = .done ((List.range (st.bound.shape g).count).foldl (fun (σ : State) j =>
      σ.aWrite core (s.copyOf core n).slot ((st.bound.shape b).elem j).toNat (natBytes (st.bound.shape g).esz (val j))) (s.asEngine core (n + 8))) none := by
    unfold State.moveStep
    rw [hop]
    dsimp only
    rw [shape_gAddrs, readSide_local hx hline]
    refine congrArg (fun σ => StepEnd.done σ none) ?_
    unfold State.bufWriteAll Shape.elems
    rw [hcount, List.zip_map', List.foldl_map]
    simp only [State.bufWrite, hspace, if_true, hesz]
    rfl
  obtain ⟨⟨ab, x, hs⟩, hrings, hsame, hother⟩ := aWriteElems_spec core (s.copyOf core n).slot (st.bound.shape g).esz
    (fun j => ((st.bound.shape b).elem j).toNat) val (s.asEngine core (n + 8)) (st.bound.shape g).count (fun j hj => by have := hfit j hj; omega) hapart
  generalize (List.range (st.bound.shape g).count).foldl (fun (σ : State) j =>
      σ.aWrite core (s.copyOf core n).slot ((st.bound.shape b).elem j).toNat (natBytes (st.bound.shape g).esz (val j))) (s.asEngine core (n + 8)) = τ
    at hmove hs hrings hsame hother
  have hm (a : Nat) : τ.memByte a = s.memByte a := by rw [hs]; rfl
  obtain ⟨hgone, hmem, habuf, hr, -⟩ := copyStep_gone (τ := τ) hfind (by rw [hs]; rfl) (by rw [hs]; rfl) (by rw [hs]; rfl)
  refine ⟨_, copyStepComplete_done hfind (by rw [hop]; simp) hmove, hgone, fun a => (hmem a).trans (hm a), fun j hj i hi => ?_, fun p hp ho => ?_⟩
  · exact (aByte_of_sameRings hr habuf _).trans ((hsame j hj i hi).trans (leNat_byte _ hi))
  · exact (aByte_of_sameRings hr habuf _).trans (hother p hp ho)

theorem copyStep_cst (hfind : (s.copyOf core n).steps.find? (fun q => decide (q.idx = idx)) = some st) (hop : st.op = .cst g b)
    (hspace : (st.bound.shape b).space = 1) (hcount : (st.bound.shape b).count = (st.bound.shape g).count)
    (hesz : (st.bound.shape b).esz = (st.bound.shape g).esz)
    (hx : localAt (s.asEngine core (n + 8)) (s.copyOf core n).slot .write (fun j => gAddr ((st.bound.shape g).elem j)) X (st.bound.shape g).count)
    (hown : ∀ j < (st.bound.shape g).count, s.ownerOk (s.vfOf core (s.copyOf core n).slot) (X j).pa = true) (htrack : s.trackAt = [])
    (hapart : ∀ i < (st.bound.shape g).count, ∀ j < (st.bound.shape g).count, i ≠ j →
      (X i).pa + (st.bound.shape g).esz ≤ (X j).pa ∨ (X j).pa + (st.bound.shape g).esz ≤ (X i).pa) :
    ∃ t, exec (.copyStepComplete core n idx) s = .next t ∧ (∀ q ∈ (t.copyOf core n).steps, q.idx ≠ idx) ∧ t.abuf = s.abuf
      ∧ (∀ j < (st.bound.shape g).count, ∀ i < (st.bound.shape g).esz, t.memByte ((X j).pa + i)
          = s.aByte core (s.copyOf core n).slot (((st.bound.shape b).elem j).toNat + i))
      ∧ ∀ pa, (∀ j < (st.bound.shape g).count, pa < (X j).pa ∨ (X j).pa + (st.bound.shape g).esz ≤ pa) → t.memByte pa = s.memByte pa := by
  let val (j : Nat) : Nat := leNat (fun i => s.aByte core (s.copyOf core n).slot (((st.bound.shape b).elem j).toNat + i)) (st.bound.shape g).esz
  have hmove : (s.asEngine core (n + 8)).moveStep (s.copyOf core n).slot st = .done ((s.asEngine core (n + 8)).gWrite (s.copyOf core n).slot
      (st.bound.shape g).esz st.tag ((List.range (st.bound.shape g).count).map X) ((List.range (st.bound.shape g).count).map fun j => some (val j))) none := by
    unfold State.moveStep
    rw [hop]
    dsimp only
    rw [shape_gAddrs, writeSide_local hx hown]
    refine congrArg (fun vs => StepEnd.done (State.gWrite _ _ _ _ _ vs) none) ?_
    unfold Shape.elems
    rw [hcount, List.map_map]
    refine List.map_congr_left fun j _ => ?_
    simp only [Function.comp_apply, State.bufRead, hspace, if_true, hesz]
    rfl
  obtain ⟨⟨f, x, w, ag, y, hs⟩, hrings, hmem⟩ := gWrite_spec (e := s.asEngine core (n + 8)) (fun j hj => (hx j hj).2) hown htrack st.tag val (n := (st.bound.shape g).esz)
  generalize (s.asEngine core (n + 8)).gWrite (s.copyOf core n).slot (st.bound.shape g).esz st.tag ((List.range (st.bound.shape g).count).map X)
    ((List.range (st.bound.shape g).count).map fun j => some (val j)) = τ at hmove hs hrings hmem
  obtain ⟨hgone, hend, habuf, -, -⟩ := copyStep_gone (τ := τ) hfind (by rw [hs]; rfl) (by rw [hs]; rfl) (by rw [hs]; rfl)
  refine ⟨_, copyStepComplete_done hfind (by rw [hop]; simp) hmove, hgone, habuf.trans (by rw [hs]; rfl), fun j hj i hi => ?_, fun pa ho => ?_⟩
  · refine (hend _).trans ((hmem _).trans ((State.writeList_memByte_of_unique _ _ _ (BitVec.ofNat 8 (val j / 256 ^ i)) ?_ fun v' hv' => ?_).trans (leNat_byte _ hi)))
    · exact List.mem_flatMap.mpr ⟨j, List.mem_range.mpr hj, mem_bytesAt hi⟩
    · obtain ⟨k, hk, hv⟩ := List.mem_flatMap.mp hv'
      have hk := List.mem_range.mp hk
      obtain ⟨q, hq, he⟩ := List.mem_map.mp hv
      have hq := List.mem_range.mp hq
      obtain ⟨he1, rfl⟩ := Prod.mk.inj he
      by_cases hkj : k = j
      · subst hkj
        rw [show q = i by omega]
      · have := hapart k hk j hj hkj
        omega
  · refine (hend _).trans ((hmem _).trans ((State.writeList_memByte_ne _ _ _ fun p hp => ?_).trans rfl))
    obtain ⟨k, hk, hv⟩ := List.mem_flatMap.mp hp
    obtain ⟨q, hq, rfl⟩ := List.mem_map.mp hv
    have hq := List.mem_range.mp hq
    have := ho k (List.mem_range.mp hk)
    dsimp only
    omega

/-! ### CLDM_FOLLOW_ON -/

theorem Ring.fillWith_claim (r : Ring) (i : Nat) (m : Tbl Nat) : (r.fillWith i m).claim = r.claim := by
  unfold Ring.fillWith
  exact (Ring.settle_spec ..).1

theorem cldmFollowOn_spec {g c k : Nat} {w : BitVec 32} (hk : k < 4)
    (hfind : (s.copyOf core n).steps.find? (fun q => decide (q.idx = idx)) = some st)
    (hop : st.op = .cldm g c k w) (hfilled : st.filled = true) (hroom : (s.engOf core (k + 4)).queue.length < 16)
    (hfrag : (s.fragsOf core (s.copyOf core n).slot).contains k = true) :
    ∃ t q cmd p, exec (.cldmFollowOn core n idx) s = .next t
      ∧ (t.engOf core (k + 4)).queue = q ++ [cmd] ∧ q.length = (s.engOf core (k + 4)).queue.length ∧ cmd.held = false ∧ cmd.kind = .program p
      ∧ p.body = some [w, 0xF8000000] ∧ p.q = st.bound.q ∧ p.cv = st.bound.cv ∧ (∀ x ∈ (t.copyOf core n).steps, x.idx ≠ idx) ∧ SameMemory s t
      ∧ ((t.ctxOf core (s.copyOf core n).slot).ring c).claim = ((s.ctxOf core (s.copyOf core n).slot).ring c).claim := by
  let e := s.asEngine core (n + 8)
  let ρ := e.fillRing (s.copyOf core n).slot c st.slotNo
  let τ := ρ.place core (s.copyOf core n).slot (k + 4) false (.program (followProg st.bound w))
  have hfull : e.queueFull core (k + 4) = false := decide_eq_false (Nat.not_le.mpr hroom)
  have heq : exec (.cldmFollowOn core n idx) s = .next (τ.endStep (s.copyOf core n).slot st none) := by
    show execCldmFollowOn core n idx s = _
    unfold execCldmFollowOn
    dsimp only
    rw [State.asEngine_copyHere, State.asEngine_eSlot, hfind]
    dsimp only
    rw [hop]
    dsimp only
    rw [if_pos hfilled]
    refine congrArg Host.Outcome.next ?_
    unfold State.followOn
    refine (if_neg (by simp)).trans ((if_neg fun h => Bool.false_ne_true (hfull.symm.trans h)).trans ?_)
    exact congrArg (fun σ : State => σ.endStep (s.copyOf core n).slot st none) (if_pos hfrag)
  have hρctx : ρ.ctxOf core (s.copyOf core n).slot = (s.ctxOf core (s.copyOf core n).slot).setRing c _ := State.ctxOf_setCtx_same ..
  have hqueue := ρ.place_queue core (s.copyOf core n).slot (k + 4) false (.program (followProg st.bound w))
  have hctx := ρ.place_ctxOf core (s.copyOf core n).slot (k + 4) false (.program (followProg st.bound w))
  obtain ⟨hgone, hmem, -, ⟨hrings, -⟩, hengs⟩ := copyStep_gone (τ := τ) hfind rfl rfl rfl
  refine ⟨_, plainMarkers (s.engOf core (k + 4)).queue,
    { id := (ρ.ctxOf core (s.copyOf core n).slot).cmdNo, held := false, kind := .program (followProg st.bound w) }, followProg st.bound w, heq, ?_, List.length_map .., rfl, rfl, rfl, rfl, rfl, hgone,
    fun a => hmem a, ?_⟩
  · rw [hengs (k + 4) (by omega)]
    exact hqueue
  · unfold Ctx.ring
    rw [hrings, hctx, hρctx]
    exact (congrArg Ring.claim (Tbl.get_set_same ..)).trans (Ring.fillWith_claim ..)

end Complete

/-- Settles O31. -/
theorem copyCompletion : Obligations.CopyCompletion := by
  unfold Obligations.CopyCompletion
  refine ⟨?_, fun s core n idx g c k w st _ hk hfind hop hfilled hroom hfrag => cldmFollowOn_spec hk hfind hop hfilled hroom hfrag⟩
  intro s core n idx st g b X hn e slot G B at' xl gone hfind hspace hcount hesz hfit
  refine ⟨fun hop hx hline hapart => ?_, fun hop hx hown htrack hapart => ?_⟩
  · exact copyStep_cld hfind hop hspace hcount hesz hfit (fun j hj => ⟨(hx j hj).1, (hx j hj).2.1⟩) hline hapart
  · exact copyStep_cst hfind hop hspace hcount hesz (fun j hj => ⟨(hx j hj).1, (hx j hj).2.1⟩) hown htrack hapart

end Sys2Proof.Machine
end

section
/-! ## O29: the passes of a fragment -/
namespace Sys2Proof.Machine

/-! ### The writes of a pass -/

theorem writesOf_mem (w : Weights) (wide : Bool) (wcol nt : Nat) (acc : Bool) {xs : List (Nat × List Num)} (place : Nat → Nat → Nat × Nat) {x : Nat × List Num}
    (hx : x ∈ xs) {j : Nat} (hj : j < nt) : ∃ p ∈ writesOf w wide wcol nt acc xs place, p.slab = (place x.1 (wcol + j)).1 ∧ p.elem = (place x.1 (wcol + j)).2
      ∧ p.accumulate = acc ∧ p.sum = plazaSum wide (x.2.zipIdx.map fun a => Num.mul a.1 (w.cell (wcol + j) a.2)) :=
  ⟨_, List.mem_flatMap.mpr ⟨x, hx, List.mem_map.mpr ⟨j, List.mem_range.mpr hj, rfl⟩⟩, rfl, rfl, rfl, rfl⟩

theorem mem_numbered {α : Type} (xs : List α) (d : α) {i : Nat} (h : i < xs.length) : (i, xs.getD i d) ∈ xs.zipIdx.map fun p => (p.2, p.1) := by
  refine List.mem_map.mpr ⟨(xs[i], i), ?_, by rw [List.getD_eq_getElem _ _ h]⟩
  rw [List.mk_mem_zipIdx_iff_getElem?]
  exact List.getElem?_eq_getElem h

/-- What joins the fragment's passes, and what that leaves of the fragment and of the run. -/
theorem issuePass_spec (σ : State) (p : Pass) : ∃ en fs, σ.issuePass p = { σ with engs := en, frags := fs }
    ∧ (σ.issuePass p).fragOf σ.core σ.mK = { σ.mFrag with passes := σ.mFrag.passes ++ [p], waitsLink := false, linkLost := false }
    ∧ (σ.issuePass p).runHere = { σ.runHere with passes := σ.runHere.passes + 1 } :=
  ⟨_, _, rfl, State.fragOf_setFrag_same .., State.setRun_runHere ..⟩

/-- The pass of an MMA: for each vector and each column of the tile one element of the slab the word names (R252). -/
theorem mmaPass_spec (σ : State) (before : Redo) (b s0 mode fa : Nat) (xs : List (List Num)) : ∃ p en fs, σ.mmaPass before b s0 mode fa xs = { σ with engs := en, frags := fs }
    ∧ (σ.mmaPass before b s0 mode fa xs).fragOf σ.core σ.mK = { σ.mFrag with passes := σ.mFrag.passes ++ [p], waitsLink := false, linkLost := false }
    ∧ (σ.mmaPass before b s0 mode fa xs).runHere = { σ.runHere with passes := σ.runHere.passes + 1 } ∧ p.applied = false
    ∧ ∀ i < xs.length, ∀ cc < q_nt (σ.runHere.q b), ∃ w ∈ p.writes, w.slab = 256 * ((q_wcol (σ.runHere.q b) + cc) / 32) + s0 % 256 + i / 32
        ∧ w.elem = 32 * (i % 32) + (q_wcol (σ.runHere.q b) + cc) % 32 ∧ w.accumulate = decide (mode ≠ 1)
        ∧ w.sum = plazaSum (decide (fa < 2)) ((xs.getD i []).zipIdx.map fun e => Num.mul e.1 (σ.mFrag.act.cell (q_wcol (σ.runHere.q b) + cc) e.2)) := by
  obtain ⟨en, fs, hs, hfrag, hrun⟩ := issuePass_spec σ _
  refine ⟨_, en, fs, hs, hfrag, hrun, rfl, fun i hi cc hcc => ?_⟩
  obtain ⟨w, hw, hslab, helem, hacc, hsum⟩ := writesOf_mem σ.mFrag.act (decide (fa < 2)) (q_wcol (σ.runHere.q b)) (q_nt (σ.runHere.q b)) (decide (mode ≠ 1))
    (fun m c => (256 * (c / 32) + s0 % 256 + m / 32, 32 * (m % 32) + c % 32)) (mem_numbered xs [] hi) hcc
  exact ⟨w, hw, hslab, helem, hacc, hsum⟩

/-! ### MMA -/

section Mma
variable {s : State} {f l : BitVec 1} {v : BitVec 3}

/-- The weights of stream b are selected as they stand in ACT. -/
def selects (s : State) (b : Nat) (hold : Bool) : Prop := hold = true ∨ (s.mFrag.nxt.pending = false ∧ s.mFrag.act.stream = some b)

theorem selectThen_go {b : Nat} {hold : Bool} (h : selects s b hold) (go : State → Out) : s.selectThen b hold go = go s := by
  unfold State.selectThen
  dsimp only
  rcases h with h | ⟨hp, hs⟩
  · exact if_pos h
  · split
    case isTrue => rfl
    case isFalse =>
      rw [hp]
      exact if_neg Bool.false_ne_true

theorem mmaRing_spec (hgo : matGo s f l v) {a b s0 mode : Nat} {hold : Bool} (hmode : mode ≤ 2) (hw : q_w (s.runHere.q b) = true)
    (hroom : s.mFrag.passes.length < 2) (hsel : selects s b hold) (hqa : q_w (s.runHere.q a) = false) (hring : (s.mRing (s.runHere.q a)).scount ≠ 0)
    (hcur : s.runHere.curOf a < (s.mRing (s.runHere.q a)).scount)
    (hcheck : s.mmaCheck b (q_nt (s.runHere.q a)) (q_fmt (s.runHere.q a)) (some (q_kt (s.runHere.q a))) s0 mode hold = none)
    (hbytes : tileBytes (s.runHere.q a) ≤ 64 * (s.mRing (s.runHere.q a)).ssz)
    (hown : ownsAll s (mmaSlabs (q_wcol (s.runHere.q b)) (q_nt (s.runHere.q b)) (s0 % 256) (q_nt (s.runHere.q a))))
    (hfull : s.runHere.curOf a < (s.mRing (s.runHere.q a)).full) :
    ∃ t p, s.mmaRing f l v a b s0 mode hold = .next t ∧ SameMemory s t ∧ wordBehind s t ∧ t.cbuf = s.cbuf ∧ t.runHere.curOf a = s.runHere.curOf a + 1
      ∧ (t.fragOf s.core s.mK).passes = s.mFrag.passes ++ [p] ∧ p.applied = false
      ∧ ∀ i < q_nt (s.runHere.q a), ∀ cc < q_nt (s.runHere.q b), ∃ w ∈ p.writes,
          w.slab = 256 * ((q_wcol (s.runHere.q b) + cc) / 32) + s0 % 256 + i / 32
          ∧ w.elem = 32 * (i % 32) + (q_wcol (s.runHere.q b) + cc) % 32 ∧ w.accumulate = decide (mode ≠ 1)
          ∧ w.sum = plazaSum (decide (q_fmt (s.runHere.q a) < 2)) (((tileVectors (s.runHere.q a) (s.slotContent (s.runHere.q a) (s.runHere.curOf a))).getD i []).zipIdx.map
              fun e => Num.mul e.1 (s.mFrag.act.cell (q_wcol (s.runHere.q b) + cc) e.2)) := by
  obtain ⟨p, en, fs, hs, hfrag, hrun, happlied, hwrites⟩ := mmaPass_spec s s.redoHere b s0 mode (q_fmt (s.runHere.q a))
    (tileVectors (s.runHere.q a) (s.slotContent (s.runHere.q a) (s.runHere.curOf a)))
  have heq : s.mmaRing f l v a b s0 mode hold = (cursorOn a (s.runHere.curOf a + 1) (s.mmaPass s.redoHere b s0 mode (q_fmt (s.runHere.q a))
        (tileVectors (s.runHere.q a) (s.slotContent (s.runHere.q a) (s.runHere.curOf a))))).wordDone := by
    unfold State.mmaRing
    dsimp only
    rw [matWord_go hgo ?_ ?_, if_neg ?_, mTouch_own hown, selectThen_go hsel]
    · rfl
    · unfold State.passRoom
      rw [decide_eq_true hroom]
      simpa using hfull
    · unfold State.ringStream Ring.configured
      rw [hqa, hw, decide_eq_true hring, decide_eq_true hmode]
      rfl
    · rw [if_neg (by omega), hcheck]
      dsimp only
      rw [if_neg (by omega)]
      exact ownerCheck_none hown.1
  generalize s.mmaPass s.redoHere b s0 mode (q_fmt (s.runHere.q a))
    (tileVectors (s.runHere.q a) (s.slotContent (s.runHere.q a) (s.runHere.curOf a))) = τ at hs hfrag hrun heq
  rw [cursorOn, wordDone_setRun, hrun] at heq
  have hlen : (tileVectors (s.runHere.q a) (s.slotContent (s.runHere.q a) (s.runHere.curOf a))).length = q_nt (s.runHere.q a) := by
    unfold tileVectors
    simp
  refine ⟨_, p, heq, fun m => by rw [hs]; rfl, wordBehind_of_run (by rw [hs]) (by rw [hs]) rfl rfl, by rw [hs]; rfl, ?_, congrArg Frag.passes hfrag, happlied,
    fun i hi cc hcc => hwrites i (by rw [hlen]; exact hi) cc hcc⟩
  rw [State.setRun_runHere]
  exact Tbl.get_set_same ..

end Mma

/-! ### MMA from a link -/

section Link
variable {s : State} {f l : BitVec 1} {v : BitVec 3}

/-- The fragment whose pass waits for the link's tile. -/
def State.waiting (s : State) : State := s.setMFrag { s.mFrag with waitsLink := true }

@[simp] theorem State.waiting_mFrag (s : State) : s.waiting.mFrag = { s.mFrag with waitsLink := true } := State.fragOf_setFrag_same ..

/-- Tasks, cores and the slot of the acting engine are as before. -/
theorem State.waiting_eSlot (s : State) : s.waiting.eSlot = s.eSlot := by
  have hslot : (s.waiting.fragOf s.core (s.eng - 4)).slot = (s.fragOf s.core (s.eng - 4)).slot :=
    (congrArg Frag.slot s.waiting_mFrag).trans rfl
  show (if s.eng < 4 then _ else if s.eng < 8 then (s.waiting.fragOf s.core (s.eng - 4)).slot else _) = (if s.eng < 4 then _ else _)
  rw [hslot]
  rfl

theorem State.waiting_mmaCheck (s : State) (b m fa : Nat) (ka : Option Nat) (s0 mode : Nat) (hold : Bool) :
    s.waiting.mmaCheck b m fa ka s0 mode hold = s.mmaCheck b m fa ka s0 mode hold := by
  have hneeds : s.waiting.needsLoad b hold = s.needsLoad b hold := by
    unfold State.needsLoad
    rw [State.waiting_mFrag]
  unfold State.mmaCheck
  rw [hneeds, State.waiting_mFrag, State.waiting_eSlot]
  rfl

theorem State.waiting_passRoom (h : s.mFrag.passes.length < 2) : s.waiting.passRoom = true := by
  unfold State.passRoom
  rw [State.waiting_mFrag]
  exact decide_eq_true h

theorem State.waiting_selects {b : Nat} {hold : Bool} (h : selects s b hold) : selects s.waiting b hold := by
  unfold selects
  rw [State.waiting_mFrag]
  exact h

theorem State.waiting_ownsAll {js : List Nat} (h : ownsAll s js) : ownsAll s.waiting js :=
  ⟨h.1 ▸ rfl, fun j hj => (h.2 j hj).trans s.waiting_eSlot.symm⟩

/-- The oldest vectors of a link's queue are a tile; they leave the queue, and no other fragment than the producer changes (R258). -/
theorem takeTile_spec (σ : State) (core i : Nat) {m fa : Nat} {x : List Nat} {rest : List (Nat × Nat × List Nat)} (hq : (σ.linkOf core i).queue = (m, fa, x) :: rest)
    (hm : m ≤ (σ.linkOf core i).queue.length) : ∃ li fs, σ.takeTile core i = some (fa, ((σ.linkOf core i).queue.take m).map fun y => y.2.2, { σ with links := li, frags := fs })
      ∧ (({ σ with links := li, frags := fs } : State).linkOf core i).queue = (σ.linkOf core i).queue.drop m
      ∧ ∀ k, k ≠ linkFrom i → ({ σ with links := li, frags := fs } : State).fragOf core k = σ.fragOf core k := by
  unfold State.takeTile
  generalize hk : σ.linkOf core i = k at hq hm ⊢
  have hqueue : ((σ.setLink core i { k with queue := k.queue.drop m }).linkOf core i).queue = k.queue.drop m := congrArg Link.queue (Tbl.get_set_same ..)
  dsimp only
  rw [hq]
  dsimp only
  rw [← hq]
  cases hp : (σ.fragOf core (linkFrom i)).passes with
  | nil => exact ⟨_, _, rfl, hqueue, fun _ _ => rfl⟩
  | cons h ps =>
    have hnone : h.vectors.take (m - ((k.queue.take m).map fun y => y.2.2).length) = [] := by
      rw [List.length_map, List.length_take, Nat.min_eq_left hm, Nat.sub_self]
      rfl
    dsimp only
    rw [hnone, List.map_nil, ite_self, List.append_nil]
    exact ⟨_, _, rfl, hqueue, fun j hj => State.fragOf_setFrag_ne _ core _ hj⟩

/-- The link a pass of the acting fragment takes its tile from feeds it: a pass waits already, or its producer is the lot's (R258, R263). -/
def feeds (s : State) (i : Nat) : Prop := s.mFrag.linkLost = false ∧ linkInto s.mPlan s.mK = some i ∧ (s.mFrag.waitsLink = true
  ∨ (((s.fragOf s.core (linkFrom i)).state = 1 ∨ (s.fragOf s.core (linkFrom i)).state = 3) ∧ (s.fragOf s.core (linkFrom i)).slot = s.mFrag.slot))

theorem feeds.producer {i : Nat} (h : feeds s i) : ¬((!s.mFrag.waitsLink) = true
    ∧ ¬(((s.fragOf s.core (linkFrom i)).state = 1 ∨ (s.fragOf s.core (linkFrom i)).state = 3) ∧ (s.fragOf s.core (linkFrom i)).slot = s.mFrag.slot)) := by
  rintro ⟨hwait, hstate⟩
  rcases h.2.2 with h | h
  · rw [h] at hwait
    exact absurd hwait Bool.false_ne_true
  · exact hstate h

variable {b s0 mode i : Nat} {hold : Bool}

theorem mmaLink_waits (hgo : matGo s f l v) (hmode : mode ≤ 2) (hw : q_w (s.runHere.q b) = true) (hlink : feeds s i) (hq : (s.linkOf s.core i).queue = []) :
    s.mmaLink f l v b s0 mode hold = .next s.waiting := by
  have hq' : ((s.setMFrag { s.mFrag with waitsLink := true }).linkOf s.core i).queue = [] := hq
  unfold State.mmaLink
  dsimp only
  rw [matWord_go hgo (by rw [hw, decide_eq_true hmode]; rfl) rfl, if_neg (by rw [hlink.1]; exact Bool.false_ne_true), hlink.2.1]
  dsimp only
  rw [if_neg hlink.producer]
  split
  case h_1 => rfl
  case h_2 h => exact absurd (hq.symm.trans h) (List.cons_ne_nil _ _).symm

theorem mmaLink_spec (hgo : matGo s f l v) (hmode : mode ≤ 2) (hw : q_w (s.runHere.q b) = true) (hlink : feeds s i) (hroom : s.mFrag.passes.length < 2)
    (hsel : selects s b hold) {m fa : Nat} {x : List Nat} {rest : List (Nat × Nat × List Nat)} (hq : (s.linkOf s.core i).queue = (m, fa, x) :: rest)
    (hcheck : s.mmaCheck b m fa none s0 mode hold = none) (hown : ownsAll s (mmaSlabs (q_wcol (s.runHere.q b)) (q_nt (s.runHere.q b)) (s0 % 256) m))
    (hm : m ≤ (s.linkOf s.core i).queue.length) (hother : linkFrom i ≠ s.mK) :
    ∃ t p, s.mmaLink f l v b s0 mode hold = .next t ∧ SameMemory s t ∧ wordBehind s t ∧ t.cbuf = s.cbuf
      ∧ (t.linkOf s.core i).queue = (s.linkOf s.core i).queue.drop m ∧ (t.fragOf s.core s.mK).passes = s.mFrag.passes ++ [p] ∧ p.applied = false
      ∧ ∀ i' < m, ∀ cc < q_nt (s.runHere.q b), ∃ w ∈ p.writes,
          w.slab = 256 * ((q_wcol (s.runHere.q b) + cc) / 32) + s0 % 256 + i' / 32
          ∧ w.elem = 32 * (i' % 32) + (q_wcol (s.runHere.q b) + cc) % 32 ∧ w.accumulate = decide (mode ≠ 1)
          ∧ w.sum = plazaSum (decide (fa < 2)) ((((((s.linkOf s.core i).queue.map fun y => y.2.2).getD i' []).take (q_kt (s.runHere.q b))).map
              (linkNum fa)).zipIdx.map fun e => Num.mul e.1 (s.mFrag.act.cell (q_wcol (s.runHere.q b) + cc) e.2)) := by
  obtain ⟨li, fs, htake, hqueue, hfrags⟩ := takeTile_spec s.waiting s.core i hq hm
  have hfrag : ({ s.waiting with links := li, frags := fs } : State).mFrag = { s.mFrag with waitsLink := true } :=
    (hfrags s.mK (Ne.symm hother)).trans s.waiting_mFrag
  obtain ⟨p, en, fs', hs, hpass, hrun, happlied, hwrites⟩ := mmaPass_spec { s.waiting with links := li, frags := fs } s.redoHere b s0 mode fa
    ((((s.linkOf s.core i).queue.take m).map fun y => y.2.2).map fun x => (x.take (q_kt (s.runHere.q b))).map (linkNum fa))
  have heq : s.mmaLink f l v b s0 mode hold = (({ s.waiting with links := li, frags := fs } : State).mmaPass s.redoHere b s0 mode fa
      ((((s.linkOf s.core i).queue.take m).map fun y => y.2.2).map fun x => (x.take (q_kt (s.runHere.q b))).map (linkNum fa))).wordDone := by
    unfold State.mmaLink
    dsimp only
    rw [matWord_go hgo (by rw [hw, decide_eq_true hmode]; rfl) rfl, if_neg (by rw [hlink.1]; exact Bool.false_ne_true), hlink.2.1]
    dsimp only
    rw [if_neg hlink.producer]
    split
    case h_1 h => exact absurd (h.symm.trans hq) (List.cons_ne_nil _ _).symm
    case h_2 h =>
      cases h.symm.trans hq
      show (match s.waiting.mmaCheck b m fa none s0 mode hold with | some e => s.waiting.mFault e | none => _) = _
      rw [(s.waiting_mmaCheck b m fa none s0 mode hold).trans hcheck]
      show (match s.waiting.ownerCheck (mmaSlabs (q_wcol (s.runHere.q b)) (q_nt (s.runHere.q b)) (s0 % 256) m) with
        | some e => s.waiting.mFault e | none => if (!s.waiting.passRoom) = true then _ else s.waiting.mTouch _ _) = _
      rw [ownerCheck_none (State.waiting_ownsAll hown).1, State.waiting_passRoom hroom]
      dsimp only
      rw [if_neg (by decide), mTouch_own (State.waiting_ownsAll hown), selectThen_go (State.waiting_selects hsel)]
      show (match s.waiting.takeTile s.core i with | none => _ | some (fa, vs, σ) => _) = _
      rw [htake]
      rfl
  generalize State.mmaPass _ s.redoHere b s0 mode fa _ = τ at hs hpass hrun heq
  rw [State.wordDone] at heq
  have hupc : τ.runHere.upc = s.runHere.upc := (congrArg Run.upc hrun).trans rfl
  have hidx : τ.runHere.idx = s.runHere.idx := (congrArg Run.idx hrun).trans rfl
  have hcore : τ.core = s.core := by rw [hs]; rfl
  have heng : τ.eng = s.eng := by rw [hs]; rfl
  refine ⟨_, p, heq, fun a => by rw [hs]; rfl, wordBehind_setRun s (r := τ.runHere.after 1) (congrArg (· + 1) hupc) hidx (State.run_setRun hcore heng _), by rw [hs]; rfl,
    (by rw [hs]; exact hqueue), ?_, happlied, fun i' hi cc hcc => ?_⟩
  · exact (congrArg Frag.passes hpass).trans (congrArg (·.passes ++ [p]) hfrag)
  · have hlen : i' < (s.linkOf s.core i).queue.length := lt_of_lt_of_le hi hm
    have hrow : (((((s.linkOf s.core i).queue.take m).map fun y => y.2.2).map fun x => (x.take (q_kt (s.runHere.q b))).map (linkNum fa)).getD i' [])
        = ((((s.linkOf s.core i).queue.map fun y => y.2.2).getD i' []).take (q_kt (s.runHere.q b))).map (linkNum fa) := by
      rw [List.getD_eq_getElem _ _ (by simp; omega), List.getD_eq_getElem _ _ (by simpa using hlen)]
      simp
    obtain ⟨w, hmem, hslab, helem, hacc, hsum⟩ := hwrites i' (by simp; omega) cc hcc
    exact ⟨w, hmem, hslab, helem, hacc, by rw [hsum, hrow, hfrag]; rfl⟩

end Link

/-! ### The writes of a pass when it retires -/

/-- The element of core `core` that stands at a place of C. -/
def cAt (s : State) (core q : Nat) : BitVec 32 := Tbl.get s.cbuf 0 (core * 2 ^ 21 + q)

/-- The place of C a write names. -/
def PassWrite.place (w : PassWrite) : Nat := w.slab * 1024 + w.elem

/-- What one write makes of its element. -/
def PassWrite.value (w : PassWrite) (old : BitVec 32) : BitVec 32 := BitVec.ofNat 32 (plazaAdd (if w.accumulate then old.toNat else 0) w.sum)

theorem cKey_place (core : Nat) (w : PassWrite) : cKey core (w.slab * 4096 + 4 * w.elem) = core * 2 ^ 21 + w.place := by
  unfold cKey PassWrite.place
  omega

theorem State.applyWrites_cons (σ : State) (core : Nat) (w : PassWrite) (ws : List PassWrite) : σ.applyWrites core (w :: ws)
    = ({ σ with cbuf := Tbl.set σ.cbuf (core * 2 ^ 21 + w.place) (w.value (cAt σ core w.place)) } : State).applyWrites core ws := by
  unfold PassWrite.value cAt
  rw [← cKey_place]
  rfl

theorem State.applyWrites_shape (core : Nat) : ∀ (ws : List PassWrite) (σ : State), ∃ cb, σ.applyWrites core ws = { σ with cbuf := cb }
  | [], _ => ⟨_, rfl⟩
  | w :: ws, σ => by
    rw [State.applyWrites_cons]
    obtain ⟨cb, h⟩ := State.applyWrites_shape core ws { σ with cbuf := Tbl.set σ.cbuf (core * 2 ^ 21 + w.place) (w.value (cAt σ core w.place)) }
    exact ⟨cb, h⟩

theorem State.applyWrites_other (core q : Nat) : ∀ (ws : List PassWrite) (σ : State), (∀ w ∈ ws, w.place ≠ q) → cAt (σ.applyWrites core ws) core q = cAt σ core q
  | [], _, _ => rfl
  | w :: ws, σ, h => by
    rw [State.applyWrites_cons, State.applyWrites_other core q ws _ fun w' hw => h w' (List.mem_cons_of_mem _ hw)]
    have := h w List.mem_cons_self
    exact Tbl.get_set_ne _ _ _ (by omega)

theorem State.applyWrites_append (σ : State) (core : Nat) (l r : List PassWrite) : σ.applyWrites core (l ++ r) = (σ.applyWrites core l).applyWrites core r :=
  List.foldl_append ..

/-- The element that one write alone names becomes that write's value on the element as it was. -/
theorem State.applyWrites_place (σ : State) (core : Nat) (l r : List PassWrite) (w : PassWrite) (h : ∀ w' ∈ l ++ r, w'.place ≠ w.place) :
    cAt (σ.applyWrites core (l ++ w :: r)) core w.place = w.value (cAt σ core w.place) := by
  rw [State.applyWrites_append, State.applyWrites_cons, State.applyWrites_other core w.place r _ fun w' hw => h w' (List.mem_append_right _ hw),
    State.applyWrites_other core w.place l σ fun w' hw => h w' (List.mem_append_left _ hw)]
  exact Tbl.get_set_same ..

/-! ### What a pass sends -/

theorem State.sendVectors_length (σ : State) (core : Nat) (c : Chain) (col0 width : Nat) : ∀ (ms : List Nat) (g : BitVec 32),
    (σ.sendVectors core c col0 width ms g).1.length = ms.length
  | [], _ => rfl
  | _ :: ms, _ => congrArg (· + 1) (State.sendVectors_length σ core c col0 width ms _)

theorem State.retirePass_writes (s : State) (core seq : Nat) {p : Pass} (rest : List Pass) (h : p.applied = false) :
    ∃ li fs, s.retirePass core seq p rest = { s.applyWrites core p.writes with links := li, frags := fs } := by
  obtain ⟨cb, hcb⟩ := State.applyWrites_shape core p.writes s
  unfold State.retirePass
  dsimp only
  rw [if_neg (by rw [h]; exact Bool.false_ne_true), hcb]
  split
  case h_1 => exact ⟨_, _, rfl⟩
  case h_2 c _ =>
    generalize (if p.applied = true then _ else _ : List (Nat × Nat × List Nat) × BitVec 32) = made
    unfold State.feedLink
    dsimp only
    split
    · exact ⟨_, _, rfl⟩
    · exact ⟨_, _, rfl⟩

theorem State.retirePass_unlinked (s : State) (core seq : Nat) {p : Pass} (rest : List Pass) (h : p.applied = false) (hchain : p.chain = none) :
    ((s.retirePass core seq p rest).fragOf core seq).passes = rest ∧ (s.retirePass core seq p rest).links = s.links := by
  obtain ⟨cb, hcb⟩ := State.applyWrites_shape core p.writes s
  unfold State.retirePass
  dsimp only
  rw [if_neg (by rw [h]; exact Bool.false_ne_true), hcb, hchain]
  exact ⟨congrArg Frag.passes (State.fragOf_setFrag_same ..), rfl⟩

theorem State.feedLink_spec (σ : State) (core l : Nat) (vs : List (Nat × Nat × List Nat)) :
    (σ.feedLink core l vs).2 = vs.drop (64 - (σ.linkOf core l).queue.length)
      ∧ ((σ.feedLink core l vs).1.linkOf core l).queue = (σ.linkOf core l).queue ++ vs.take (64 - (σ.linkOf core l).queue.length) :=
  ⟨rfl, congrArg Link.queue (Tbl.get_set_same ..)⟩

theorem State.retirePass_linked (s : State) (core seq : Nat) {p : Pass} (rest : List Pass) (h : p.applied = false) {c : Chain} (hchain : p.chain = some c) :
    (∃ vs, ((s.retirePass core seq p rest).linkOf core c.link).queue = (s.linkOf core c.link).queue ++ vs
        ∧ vs.length = min c.vectors (64 - (s.linkOf core c.link).queue.length))
      ∧ (c.vectors ≤ 64 - (s.linkOf core c.link).queue.length → ((s.retirePass core seq p rest).fragOf core seq).passes = rest) := by
  obtain ⟨cb, hcb⟩ := State.applyWrites_shape core p.writes s
  unfold State.retirePass
  dsimp only
  rw [if_neg (by rw [h]; exact Bool.false_ne_true), hcb, hchain]
  dsimp only
  generalize hmade : (if p.applied = true then _ else _ : List (Nat × Nat × List Nat) × BitVec 32) = made
  have hlen : made.1.length = c.vectors := by
    rw [← hmade, if_neg (by rw [h]; exact Bool.false_ne_true)]
    exact (State.sendVectors_length ..).trans List.length_range
  obtain ⟨hrest, hqueue⟩ := State.feedLink_spec (({ s with cbuf := cb } : State).setLink core c.link { s.linkOf core c.link with gen := made.2 }) core c.link made.1
  have hsame : ((({ s with cbuf := cb } : State).setLink core c.link { s.linkOf core c.link with gen := made.2 }).linkOf core c.link).queue
      = (s.linkOf core c.link).queue :=
    (congrArg Link.queue (Tbl.get_set_same ..)).trans rfl
  rw [hsame] at hrest hqueue
  constructor
  · refine ⟨made.1.take (64 - (s.linkOf core c.link).queue.length), ?_, by rw [List.length_take, hlen, Nat.min_comm]⟩
    split
    · exact hqueue
    · exact hqueue
  · intro hroom
    have hempty := hrest.trans (List.drop_eq_nil_of_le (by omega))
    split
    case isTrue => exact congrArg Frag.passes (State.fragOf_setFrag_same ..)
    case isFalse h => exact absurd (congrArg List.isEmpty hempty) h

/-! ### A fault that waits for its passes -/

theorem State.fragFaulted_posts (s : State) (core seq : Nat) (r : FaultRec) (h : (s.fragOf core seq).state = 1) :
    ((s.fragFaulted core seq r).fragOf core seq).state = 3 ∧ ((s.fragFaulted core seq r).fragOf core seq).faulting = none
      ∧ ((s.fragFaulted core seq r).ctxOf core (s.fragOf core seq).slot).posted
        = (s.ctxOf core (s.fragOf core seq).slot).posted ++ [postedRec s r.src r.cause r.upc r.fcause r.detail] := by
  unfold State.fragFaulted
  dsimp only
  rw [if_neg (by omega)]
  obtain ⟨hposted, -, -, -, hfrags⟩ := State.postFault_spec (s.setFrag core seq { s.fragOf core seq with state := 3, faulting := none }) core
    (s.fragOf core seq).slot r.src r.cause r.upc r.fcause r.detail
  have hfrag := (State.fragOf_congr hfrags core seq).trans (State.fragOf_setFrag_same s core seq { s.fragOf core seq with state := 3, faulting := none })
  exact ⟨congrArg Frag.state hfrag, congrArg Frag.faulting hfrag, hposted⟩

/-- Settles O29: a pass that starts is issued with its writes (`mmaPass_spec`), and the writes of a pass that retires are folded into C one by one. -/
theorem matrixPasses : Obligations.MatrixPasses := by
  unfold Obligations.MatrixPasses
  refine ⟨?_, ?_⟩
  · intro s f l h v a b j md r qa qb ring cur fr k0 vs js sel full hgo hmd hw hroom hsel
    have hmode : decide (md.toNat ≠ 1) = decide (md ≠ 1) := decide_eq_decide.mpr (not_congr ⟨fun h => BitVec.eq_of_toNat_eq h, fun h => h ▸ rfl⟩)
    have hsel' : selects s b.toNat (decide (h = 1)) := hsel.imp_left decide_eq_true
    refine ⟨fun hab hqa hscount hcur hcheck hbytes hown hfull => ?_, fun hlost i hlink hfrom => ⟨fun hq => ?_, fun m fa x rest hq hcheck hown hm hother => ?_⟩⟩
    · obtain ⟨t, p, heq, hmem, hbehind, hc, hcursor, hpasses, happlied, hwrites⟩ := mmaRing_spec hgo (a := a.toNat) hmd hw hroom hsel' hqa hscount hcur hcheck hbytes hown hfull
      refine ⟨t, (if_neg hab).trans heq, hmem, hbehind, hc, hcursor, p, hpasses, happlied, fun i hi cc hcc => ?_⟩
      rw [← hmode]
      exact hwrites i hi cc hcc
    · exact (if_pos rfl).trans (mmaLink_waits hgo hmd hw ⟨hlost, hlink, hfrom⟩ hq)
    · obtain ⟨t, p, heq, hmem, hbehind, hc, hqueue, hpasses, happlied, hwrites⟩ :=
        mmaLink_spec hgo hmd hw ⟨hlost, hlink, hfrom⟩ hroom hsel' hq hcheck hown hm hother
      refine ⟨t, (if_pos rfl).trans heq, hmem, hbehind, hc, hqueue, p, hpasses, happlied, fun i' hi cc hcc => ?_⟩
      rw [← hmode]
      exact hwrites i' hi cc hcc
  · intro s core seq fr at'
    have hexec (p : Pass) (rest : List Pass) (hp : fr.passes = p :: rest) : exec (.passRetire core seq) s = .next (s.retirePass core seq p rest) := by
      show execPassRetire core seq s = _
      unfold execPassRetire
      dsimp only
      rw [show (s.fragOf core seq).passes = p :: rest from hp]
    refine ⟨fun p rest hp happlied => ⟨_, hexec p rest hp, ?_, ?_, ?_, State.retirePass_unlinked s core seq rest happlied,
      fun c hc => State.retirePass_linked s core seq rest happlied hc⟩, fun hp hnone => ?_, fun hp hstate r hr => ?_, fun hpend => ?_⟩
    · obtain ⟨li, fs, hs⟩ := State.retirePass_writes s core seq rest happlied
      obtain ⟨cb, hcb⟩ := State.applyWrites_shape core p.writes s
      intro q
      rw [hs, hcb]
      rfl
    · obtain ⟨li, fs, hs⟩ := State.retirePass_writes s core seq rest happlied
      intro l w r hsplit hothers
      rw [hs, hsplit]
      exact State.applyWrites_place s core l r w hothers
    · obtain ⟨li, fs, hs⟩ := State.retirePass_writes s core seq rest happlied
      intro q hothers
      rw [hs]
      exact State.applyWrites_other core q p.writes s hothers
    · show execPassRetire core seq s = _
      unfold execPassRetire
      dsimp only
      rw [show (s.fragOf core seq).passes = [] from hp, show (s.fragOf core seq).faulting = none from hnone]
    · obtain ⟨hthree, hfaulting, hposted⟩ := State.fragFaulted_posts s core seq r hstate
      refine ⟨_, ?_, hthree, hfaulting, _, hposted, rfl, rfl, rfl, rfl⟩
      show execPassRetire core seq s = _
      unfold execPassRetire
      dsimp only
      rw [show (s.fragOf core seq).passes = [] from hp, show (s.fragOf core seq).faulting = some r from hr]
    · exact congrArg Host.Outcome.next (if_pos hpend)

end Sys2Proof.Machine
end

section
/-! ## O28: convolutions -/
namespace Sys2Proof.Machine

section Conv
variable {s : State} {f l h : BitVec 1} {v c : BitVec 3}

/-- The pixels of one CONV: as many as the activation tile's rows, from the cursor on, within the output image (R255). -/
def pixels (s : State) (qa : BitVec 128) (c : Nat) : List Nat :=
  ((List.range (q_nt qa)).map fun i => q_nt qa * s.runHere.pixOf c + i).filter fun p => decide (p < cv_o (s.runHere.cv c))

/-- The slabs that the pixels and the tile's columns name. -/
def convSlabs (qb : BitVec 128) (k : Nat) (ps : List Nat) : List Nat :=
  (ps.map fun p => p / 32).eraseDups.flatMap fun i =>
    ((List.range ((q_wcol qb + q_nt qb - 1) / 32 - q_wcol qb / 32 + 1)).map fun g => q_wcol qb / 32 + g).map fun g => 256 * g + k + i

/-- The writes of a CONV's pass. -/
def convWrites (s : State) (qa qb : BitVec 128) (cv cur k : Nat) (acc : Bool) (ps : List Nat) : List PassWrite :=
  writesOf s.mFrag.act (decide (q_fmt qa < 2)) (q_wcol qb) (q_nt qb) acc
    (ps.map fun p => (p, (List.range (q_kt qb)).map fun i => convElem cv qa (s.slotContent qa cur) (q_kt qb) s.mFrag.act.tile p i))
    fun p cc => (256 * (cc / 32) + k + p / 32, 32 * (p % 32) + cc % 32)

/-- A pass that feeds no link. -/
def plainPass (s : State) (ws : List PassWrite) : Pass := { writes := ws, redo := s.redoHere }

/-- The pixel cursor of a convolution stands at a step. -/
def pixelOn (c n : Nat) (σ : State) : State := σ.setRun { σ.runHere with pix := Tbl.set σ.runHere.pix c n }

/-- The checks of R263 that a CONV makes on its tiles. -/
def convFits (s : State) (qa qb : BitVec 128) (cv k : Nat) : Prop :=
  (s.mCol ≤ q_wcol qb ∧ q_wcol qb + q_nt qb ≤ s.mCol + s.mWidth) ∧ (q_kt qb ≤ s.mDepth ∧ q_nt qa ≤ 256 ∧ k + (q_nt qa - 1) / 32 ≤ 255)
    ∧ pairOk (q_fmt qa) (q_fmt qb) = true ∧ (q_fmt qa = 5 → cv_ic cv % 32 = 0) ∧ mapBytes cv qa ≤ 64 * (s.mRing qa).ssz

theorem exec_conv {a b : BitVec 4} {md : BitVec 2} {k : BitVec 8} (hgo : matGo s f l v) (hmd : md.toNat ≤ 1) (hqb : q_w (s.runHere.q b.toNat) = true)
    (hqa : q_w (s.runHere.q a.toNat) = false) (hring : (s.mRing (s.runHere.q a.toNat)).scount ≠ 0) (hcv : cv_ih (s.runHere.cv c.toNat) ≠ 0)
    (hcur : s.runHere.curOf a.toNat < (s.mRing (s.runHere.q a.toNat)).scount) (hfull : s.runHere.curOf a.toNat < (s.mRing (s.runHere.q a.toNat)).full)
    (hroom : s.mFrag.passes.length < 2) (hsel : selects s b.toNat (decide (h = 1))) (hact : s.mFrag.act.stream = some b.toNat)
    (hfits : convFits s (s.runHere.q a.toNat) (s.runHere.q b.toNat) (s.runHere.cv c.toNat) k.toNat)
    (hown : ownsAll s (convSlabs (s.runHere.q b.toNat) k.toNat (pixels s (s.runHere.q a.toNat) c.toNat))) :
    exec (.conv f l h v c a b md k) s = (pixelOn c.toNat (if cv_o (s.runHere.cv c.toNat) ≤ q_nt (s.runHere.q a.toNat) * (s.runHere.pixOf c.toNat + 1) then 0
      else s.runHere.pixOf c.toNat + 1) (s.issuePass (plainPass s (convWrites s (s.runHere.q a.toNat) (s.runHere.q b.toNat) (s.runHere.cv c.toNat)
        (s.runHere.curOf a.toNat) k.toNat (decide (md.toNat ≠ 1)) (pixels s (s.runHere.q a.toNat) c.toNat))))).wordDone := by
  have hload : s.needsLoad b.toNat (decide (h = 1)) = false := by
    unfold State.needsLoad
    simp [hact]
  obtain ⟨⟨hlo, hhi⟩, ⟨hdepth, hmm, hk⟩, hpair, hq4, hmap⟩ := hfits
  show execConv f l h v c a b md k s = _
  unfold execConv
  dsimp only
  rw [matWord_go hgo ?_ ?_, if_neg ?_]
  · refine (mTouch_own hown _).trans ((selectThen_go hsel _).trans ?_)
    rw [if_neg (by omega : ¬md.toNat = 2)]
    rfl
  · unfold State.passRoom
    rw [decide_eq_true hroom]
    simpa using hfull
  · rw [hqb, decide_eq_true hcv, decide_eq_true (by omega)]
    unfold State.ringStream Ring.configured
    rw [hqa, decide_eq_true hring]
    rfl
  · rw [if_neg (by omega), firstOf_none]
    · exact ownerCheck_none hown.1
    · have hmd2 : md ≠ 2 := by
        rintro rfl
        exact absurd hmd (by decide)
      have hshape : ¬ s.mDepth < q_kt (s.runHere.q b.toNat) ∧ ¬ 256 < q_nt (s.runHere.q a.toNat)
          ∧ ¬ 255 < k.toNat + (q_nt (s.runHere.q a.toNat) - 1) / 32 := ⟨by omega, by omega, by omega⟩
      rw [hload, hpair]
      simp only [List.forall_mem_cons, hmd2, hact]
      refine ⟨rfl, by simp; omega, by simp [hshape], rfl, ?_, by simp, by simp, by simpa using hmap⟩
      by_cases h5 : q_fmt (s.runHere.q a.toNat) = 5
      · simp [hq4 h5]
      · simp [h5]

/-- Settles O28: the pixels are the ones R255 counts, and their pass is issued with its writes. -/
theorem convolutions : Obligations.Convolutions := by
  unfold Obligations.Convolutions
  intro s f l h v c a b md k r qa qb cv ring cur fr mm p0 px js sel hgo hmd hqb hqa hring hcv hcur hfull hroom hsel hact1 hact0 hlo hhi hdepth hmm hk hpair hq4 hmap hown
  have hact : fr.act.stream = some b.toNat := hsel.elim hact1 fun h => h.2
  have heq := exec_conv hgo hmd hqb hqa hring hcv hcur hfull hroom (hsel.imp_left decide_eq_true) hact ⟨⟨hlo, hhi⟩, ⟨hdepth, hmm, hk⟩, hpair, hq4, hmap⟩ hown
  obtain ⟨en, fs, hs, hpass, hrun⟩ := issuePass_spec s (plainPass s (convWrites s qa qb cv cur k.toNat (decide (md.toNat ≠ 1)) (pixels s qa c.toNat)))
  generalize State.issuePass s _ = τ at heq hs hpass hrun
  rw [pixelOn, wordDone_setRun, hrun] at heq
  refine ⟨_, _, heq, fun m => by rw [hs]; rfl, wordBehind_of_run (by rw [hs]) (by rw [hs]) rfl rfl, by rw [hs]; rfl, congrArg Frag.passes hpass, ?_, fun i hi hp cc hcc => ?_⟩
  · rw [State.setRun_runHere]
    exact Tbl.get_set_same ..
  · have hpixel : p0 + i ∈ pixels s qa c.toNat :=
      List.mem_filter.mpr ⟨List.mem_map.mpr ⟨i, List.mem_range.mpr hi, rfl⟩, decide_eq_true hp⟩
    have hmode : decide (md.toNat ≠ 1) = decide (md ≠ 1) := decide_eq_decide.mpr (not_congr ⟨fun h => BitVec.eq_of_toNat_eq h, fun h => h ▸ rfl⟩)
    obtain ⟨w, hw, hslab, helem, hacc, hsum⟩ := writesOf_mem fr.act (decide (q_fmt qa < 2)) (q_wcol qb) (q_nt qb) (decide (md.toNat ≠ 1))
      (fun p cc => (256 * (cc / 32) + k.toNat + p / 32, 32 * (p % 32) + cc % 32))
      (List.mem_map.mpr ⟨_, hpixel, rfl⟩ : _ ∈ (pixels s qa c.toNat).map fun p => (p, (List.range (q_kt qb)).map fun i =>
        convElem cv qa (s.slotContent qa cur) (q_kt qb) fr.act.tile p i)) hcc
    exact ⟨w, hw, hslab, helem, hacc.trans hmode, hsum⟩

end Conv
end Sys2Proof.Machine
end

section
/-! ## O21: firmware words -/
namespace Sys2Proof.Machine

/-! ### Who may run them -/

theorem privileged_user {s : State} (h : s.ctx ≠ 4) (k : Out) : s.privileged k = .next (s.trapped 2 0) := by
  unfold State.privileged
  exact if_pos h

theorem privileged_inSlot {s : State} (h : s.ctx = 4) (hp : s.cx.pslots ≠ 0) (k : Out) : s.privileged k = .next (s.trapped 1 0) := by
  unfold State.privileged
  refine (if_neg (not_not_intro h)).trans (if_pos ?_)
  unfold State.inSlot
  simpa using hp

theorem privileged_go {s : State} (h : s.ctx = 4) (hp : s.cx.pslots = 0) (k : Out) : s.privileged k = k := by
  unfold State.privileged
  refine (if_neg (not_not_intro h)).trans (if_neg ?_)
  unfold State.inSlot
  simpa using hp

/-- What each firmware word does where it may run. -/
theorem firmware_exec {s : State} {d a b : BitVec 5} {i : Instr} (hi : i ∈ [Instr.eret a b, .ctxsv d a b, .ctxld d a b, .accspill d a b, .keyld d a b, .wdog a]) :
    ∃ k, exec i s = s.privileged k := by
  simp only [List.mem_cons, List.not_mem_nil, or_false] at hi
  rcases hi with rfl | rfl | rfl | rfl | rfl | rfl
  · exact ⟨_, rfl⟩
  · exact ⟨_, rfl⟩
  · exact ⟨_, rfl⟩
  · exact ⟨_, rfl⟩
  · exact ⟨_, rfl⟩
  · exact ⟨_, rfl⟩

section Firmware
variable {s : State} {d a b : BitVec 5}

/-! ### ERET, KEYLD, WDOG -/

theorem eret_spec (h4 : s.ctx = 4) (hp : s.cx.pslots = 0) (hx : (s.cx.sreg a.toNat).toNat < 4) (hy : (s.cx.sreg b.toNat).toNat < 4)
    (hstop : (s.ctxOf s.core (s.cx.sreg a.toNat).toNat).stopped.isSome = true) :
    exec (.eret a b) s = .next ((s.returnTrap s.core (s.cx.sreg a.toNat).toNat (s.cx.sreg b.toNat).toNat).retired) := by
  refine (privileged_go h4 hp _).trans (if_neg ?_)
  rintro (h | h | h)
  · exact absurd hx (Nat.not_lt.mpr h)
  · exact absurd hy (Nat.not_lt.mpr h)
  · rw [Option.isNone_iff_eq_none] at h
    exact absurd (hstop.symm.trans (congrArg Option.isSome h)) (by decide)

theorem keyld_places {x y : Nat} (hx : x < 4) (hy : 1 ≤ y) (hy' : y ≤ 64) : ¬(4 ≤ x ∨ y = 0 ∨ 64 < y) := by omega

theorem keyld_none (h4 : s.ctx = 4) (hp : s.cx.pslots = 0) (hx : (s.cx.sreg a.toNat).toNat < 4) (hy : 1 ≤ (s.cx.sreg b.toNat).toNat)
    (hy' : (s.cx.sreg b.toNat).toNat ≤ 64) (hkey : (Tbl.get s.princeKey (0, true) (s.cx.sreg b.toNat).toNat).2 = false) :
    exec (.keyld d a b) s = .next (s.wrote d 1) := by
  refine (privileged_go h4 hp _).trans ((if_neg (keyld_places hx hy hy')).trans (if_pos ?_))
  show (!(Tbl.get s.princeKey (0, true) (s.cx.sreg b.toNat).toNat).2) = true
  rw [hkey]
  rfl

theorem keyld_spec (h4 : s.ctx = 4) (hp : s.cx.pslots = 0) (hx : (s.cx.sreg a.toNat).toNat < 4) (hy : 1 ≤ (s.cx.sreg b.toNat).toNat)
    (hy' : (s.cx.sreg b.toNat).toNat ≤ 64) (hkey : (Tbl.get s.princeKey (0, true) (s.cx.sreg b.toNat).toNat).2 = true) :
    ∃ t, exec (.keyld d a b) s = .next t
      ∧ Tbl.get (t.coreOf s.core).keys (0, 0) (s.cx.sreg a.toNat).toNat
        = ((s.cx.sreg b.toNat).toNat, (Tbl.get s.princeKey (0, true) (s.cx.sreg b.toNat).toNat).1) ∧ t.cx = (s.cx.setS d.toNat 0).advance := by
  refine ⟨_, (privileged_go h4 hp _).trans ((if_neg (keyld_places hx hy hy')).trans (if_neg ?_)), ?_, State.cx_setCx ..⟩
  · show ¬(!(Tbl.get s.princeKey (0, true) (s.cx.sreg b.toNat).toNat).2) = true
    rw [hkey]
    decide
  · show Tbl.get ((s.loadKey s.core (s.cx.sreg a.toNat).toNat (s.cx.sreg b.toNat).toNat).coreOf s.core).keys (0, 0) _ = _
    unfold State.loadKey
    dsimp only
    rw [State.coreOf_setCore_same, if_pos hkey]
    exact Tbl.get_set_same ..

theorem wdog_processor (h4 : s.ctx = 4) (hp : s.cx.pslots = 0) (hx : (s.cx.sreg a.toNat).toNat < 2 ^ 32) (hc : 32 ≤ s.core) :
    exec (.wdog a) s = .next
      (State.retired { s with wdogs := if (s.cx.sreg a.toNat).toNat = 0 then Tbl.del s.wdogs s.core else Tbl.set s.wdogs s.core (s.time + (s.cx.sreg a.toNat).toNat) }) := by
  refine (privileged_go h4 hp _).trans ((if_neg (Nat.not_le.mpr hx)).trans ?_)
  show State.retire (if Config.numCores ≤ s.core then _ else _) _ = _
  rw [if_pos (show Config.numCores ≤ s.core from hc)]
  rfl

theorem wdog_core (h4 : s.ctx = 4) (hp : s.cx.pslots = 0) (hx : (s.cx.sreg a.toNat).toNat < 2 ^ 32) (hc : s.core < 32) :
    exec (.wdog a) s = .next
      ((s.setCore s.core { s.coreOf s.core with wdogAt := if (s.cx.sreg a.toNat).toNat = 0 then none else some (s.time + (s.cx.sreg a.toNat).toNat) }).retired) := by
  refine (privileged_go h4 hp _).trans ((if_neg (Nat.not_le.mpr hx)).trans ?_)
  show State.retire (if Config.numCores ≤ s.core then _ else _) _ = _
  rw [if_neg (show ¬Config.numCores ≤ s.core from Nat.not_le.mpr hc)]
  rfl

end Firmware

/-! ### What a save and a reload leave of the contexts of the core -/

/-- A context at the same word of the same task, with the same scalar registers. -/
structure Ctx.SameWord (c d : Ctx) : Prop where
  pc : d.pc = c.pc
  npc : d.npc = c.npc
  pslots : d.pslots = c.pslots
  task : d.task = c.task
  regs : d.s = c.s

theorem Ctx.SameWord.refl (c : Ctx) : c.SameWord c := ⟨rfl, rfl, rfl, rfl, rfl⟩

theorem Ctx.SameWord.trans {c d e : Ctx} (h : c.SameWord d) (g : d.SameWord e) : c.SameWord e :=
  ⟨g.pc.trans h.pc, g.npc.trans h.npc, g.pslots.trans h.pslots, g.task.trans h.task, g.regs.trans h.regs⟩

theorem Ctx.LeaseFrom.sameWord {c d : Ctx} (h : c.LeaseFrom d) : c.SameWord d := by
  obtain ⟨_, _, rfl⟩ := h
  exact ⟨rfl, rfl, rfl, rfl, rfl⟩

/-- The acting unit is the same one, and one context stands at the word it stood at. -/
structure State.HoldsCtx (core slot : Nat) (σ τ : State) : Prop where
  acting : τ.core = σ.core ∧ τ.ctx = σ.ctx
  word : (σ.ctxOf core slot).SameWord (τ.ctxOf core slot)

namespace State.HoldsCtx
variable {core slot : Nat} {σ τ ρ : State}

theorem refl (σ : State) : State.HoldsCtx core slot σ σ := ⟨⟨rfl, rfl⟩, .refl _⟩

theorem trans (h : State.HoldsCtx core slot σ τ) (g : State.HoldsCtx core slot τ ρ) : State.HoldsCtx core slot σ ρ :=
  ⟨⟨g.acting.1.trans h.acting.1, g.acting.2.trans h.acting.2⟩, h.word.trans g.word⟩

theorem foldl {β : Type} {f : State → β → State} (h : ∀ (σ : State) b, State.HoldsCtx core slot σ (f σ b)) (l : List β) (σ : State) :
    State.HoldsCtx core slot σ (l.foldl f σ) := by
  induction l generalizing σ with
  | nil => exact .refl σ
  | cons b l ih => exact (h σ b).trans (ih _)

/-- A step that leaves the contexts alone. -/
theorem of (ha : τ.core = σ.core ∧ τ.ctx = σ.ctx) (h : τ.ctxs = σ.ctxs) : State.HoldsCtx core slot σ τ :=
  ⟨ha, by rw [State.ctxOf_eq_of_ctxs h]; exact .refl _⟩

theorem of_leaseStep (h : σ.LeaseStep τ) : State.HoldsCtx core slot σ τ := ⟨h.acting, (h.ctxs core slot).sameWord⟩

theorem of_wroteBytes (h : σ.WroteBytes τ) : State.HoldsCtx core slot σ τ := by
  obtain ⟨_, _, _, _, rfl⟩ := h
  exact .of ⟨rfl, rfl⟩ rfl

theorem of_noticed (h : σ.Noticed τ) : State.HoldsCtx core slot σ τ := by
  obtain ⟨_, _, _, _, _, _, _, _, _, rfl⟩ := h
  exact .of ⟨rfl, rfl⟩ rfl

theorem setCtx (σ : State) (c : Ctx) (h : (σ.ctxOf core slot).SameWord c) : State.HoldsCtx core slot σ (σ.setCtx core slot c) :=
  ⟨⟨rfl, rfl⟩, by rw [State.ctxOf_setCtx_same]; exact h⟩

/-- Another context of the core changes. -/
theorem setOther (σ : State) {x : Nat} (c : Ctx) (h : slot ≠ x) : State.HoldsCtx core slot σ (σ.setCtx core x c) :=
  ⟨⟨rfl, rfl⟩, by rw [σ.ctxOf_setCtx_ne c (by omega)]; exact .refl _⟩

theorem ite {c : Prop} [Decidable c] (h : State.HoldsCtx core slot σ τ) (g : State.HoldsCtx core slot σ ρ) : State.HoldsCtx core slot σ (if c then τ else ρ) := by
  split
  · exact h
  · exact g

end State.HoldsCtx

theorem State.leaseStep_withdrawLeases (σ : State) (t : Nat) : σ.LeaseStep (σ.withdrawLeases t) := by
  unfold State.withdrawLeases State.returnHeld
  refine .trans (.trans (τ := { σ with cores := σ.cores.map fun (p : Nat × Core) => (p.1, p.2.withReqs (p.2.reqs.filter fun r => decide (r.task ≠ t))) }) ?_
    (.foldl (fun σ p => ?_) _ _)) (.foldl (fun σ p => ?_) _ _)
  · exact ⟨⟨_, _, _, _, _, _, _, _, _, rfl⟩, fun _ _ => .refl _⟩
  · split
    · exact σ.leaseStep_fragFree _ _ _
    · exact .refl σ
  · split
    · exact σ.leaseStep_copyFree _ _
    · exact .refl σ

theorem State.haltEngines_acting (σ : State) (core slot : Nat) : (σ.haltEngines core slot).core = σ.core ∧ (σ.haltEngines core slot).ctx = σ.ctx := by
  obtain ⟨_, _, _, _, _, _, _, _, _, _, _, _, _, _, _, _, _, _, _, _, _, h⟩ := σ.lotStep_haltEngines core slot
  rw [h]
  exact ⟨rfl, rfl⟩

theorem State.recode_acting (σ : State) (core slot code : Nat) (holder : Option Nat) :
    (σ.recode core slot code holder).core = σ.core ∧ (σ.recode core slot code holder).ctx = σ.ctx := by
  obtain ⟨_, _, _, _, _, _, _, _, _, _, _, _, _, _, _, _, _, _, _, _, _, h⟩ := σ.lotStep_recode core slot code holder
  rw [h]
  exact ⟨rfl, rfl⟩

/-! ### CTXSV -/

/-- A slot whose lot does not run gives up the units its task waits for. -/
def State.unleased (σ : State) (core x k : Nat) : State := if σ.slotRuns core x then σ else σ.withdrawLeases k

theorem State.unleased_spec (σ : State) (core x k : Nat) : σ.LeaseStep (σ.unleased core x k) ∧ σ.KeepsTasks (σ.unleased core x k) := by
  unfold State.unleased
  split
  · exact ⟨.refl σ, .refl σ⟩
  · exact ⟨σ.leaseStep_withdrawLeases k, σ.keepsTasks_withdrawLeases k⟩

/-- The lot's fences, engines, leases and slabs are the slot's no more. -/
def State.cleared (σ : State) (core x k : Nat) : State :=
  (((σ.setCtx core x { σ.ctxOf core x with fences := [], fenceWait := none }).haltEngines core x).returnLeases core x).recode core x 5 (some k)

theorem State.cleared_holds (σ : State) (core x k : Nat) {slot : Nat} (h : slot ≠ x) : State.HoldsCtx core slot σ (σ.cleared core x k) := by
  refine (State.HoldsCtx.setOther σ { σ.ctxOf core x with fences := [], fenceWait := none } h).trans ?_
  refine (State.HoldsCtx.of (State.haltEngines_acting _ core x) (State.haltEngines_ctxs _ core x)).trans ?_
  exact (State.HoldsCtx.of_leaseStep (State.leaseStep_returnLeases _ core x)).trans (.of (State.recode_acting ..) (State.recode_ctxs ..))

theorem State.cleared_keepsTasks (σ : State) (core x k : Nat) : σ.KeepsTasks (σ.cleared core x k) :=
  (σ.keepsTasks_setCtx core x _).trans (((State.keepsTasks_haltEngines _ core x).trans (State.keepsTasks_returnLeases _ core x)).trans (State.keepsTasks_recode ..))

/-- An area of the VF is taken for a task that has none. -/
def State.areaFor (σ : State) (tk : Task) (vf : Nat) : State :=
  match tk.ctxId, σ.freeArea vf with
  | none, some i => σ.takeArea vf i
  | _, _ => σ

theorem State.areaFor_shape (σ : State) (tk : Task) (vf : Nat) : ∃ ar, σ.areaFor tk vf = { σ with areas := ar } := by
  unfold State.areaFor
  split
  · exact ⟨_, rfl⟩
  · exact ⟨_, rfl⟩

theorem State.saveLot_eq (σ : State) (core x : Nat) (held : Bool) {k : Nat} (hk : (σ.ctxOf core x).task = some k) :
    ∃ v : Task, v.state = .saved ∧ v.areaAt = (((σ.unleased core x k).cleared core x k).taskOf k).areaAt ∧ σ.saveLot core x held =
      ((((((σ.unleased core x k).cleared core x k).areaFor (((σ.unleased core x k).cleared core x k).taskOf k) (σ.vfOf core x)).setTask k v).writeArea k).freeSlot core x) := by
  unfold State.saveLot
  split
  case h_1 hn => exact absurd (hn.symm.trans hk) (Option.some_ne_none k).symm
  case h_2 t ht =>
    cases ht.symm.trans hk
    extract_lets area vf σ₁ c σ₂ σ₃ tk i σ₄
    have e₁ : σ.unleased core x k = σ₁ := rfl
    have e₃ : σ₁.cleared core x k = σ₃ := rfl
    have et : σ₃.taskOf k = tk := rfl
    have ev : σ.vfOf core x = vf := rfl
    rw [e₁, e₃, et, ev]
    clear_value σ₃ tk vf
    have e₄ : σ₃.areaFor tk vf = σ₄ := by
      unfold State.areaFor
      rfl
    rw [e₄]
    clear_value σ₄
    exact ⟨{ tk with state := .saved, core := some core, slot := x, cont := some area, heldFault := held, ctxId := tk.ctxId.orElse fun _ => i }, rfl, rfl, rfl⟩

/-- A save leaves every other context of the core at its word; the slot is free, and its task is saved where it was to be. -/
theorem State.saveLot_spec (σ : State) (core x : Nat) (held : Bool) {k : Nat} (hk : (σ.ctxOf core x).task = some k) :
    (∀ slot, slot ≠ x → State.HoldsCtx core slot σ (σ.saveLot core x held)) ∧ ((σ.saveLot core x held).ctxOf core x).task = none
      ∧ ((σ.saveLot core x held).taskOf k).state = .saved ∧ ((σ.saveLot core x held).taskOf k).areaAt = (σ.taskOf k).areaAt := by
  obtain ⟨v, hstate, hat, heq⟩ := σ.saveLot_eq core x held hk
  obtain ⟨hlease, hkeep⟩ := σ.unleased_spec core x k
  have harea : v.areaAt = (σ.taskOf k).areaAt := hat.trans (congrArg Task.areaAt ((hkeep.trans (State.cleared_keepsTasks _ core x k)).taskOf k))
  obtain ⟨ar, hshape⟩ := State.areaFor_shape ((σ.unleased core x k).cleared core x k) (((σ.unleased core x k).cleared core x k).taskOf k) (σ.vfOf core x)
  rw [heq]
  generalize State.areaFor _ _ _ = τ at hshape
  have hv : (((τ.setTask k v).writeArea k).freeSlot core x).taskOf k = v := (((τ.setTask k v).keepsTasks_writeArea k).taskOf k).trans (State.taskOf_setTask_same ..)
  refine ⟨fun slot hslot => ?_, State.ctxOf_freeSlot .., (congrArg Task.state hv).trans hstate, (congrArg Task.areaAt hv).trans harea⟩
  have h₁ := (State.HoldsCtx.of_leaseStep (core := core) (slot := slot) hlease).trans (State.cleared_holds _ core x k hslot)
  have h₂ : State.HoldsCtx core slot ((σ.unleased core x k).cleared core x k) (τ.setTask k v) := by
    rw [hshape]
    generalize (σ.unleased core x k).cleared core x k = ρ
    exact .of ⟨rfl, rfl⟩ rfl
  have h₃ : State.HoldsCtx core slot (τ.setTask k v) ((τ.setTask k v).writeArea k) := .of_wroteBytes (State.writeArea_shape ..)
  refine ((h₁.trans h₂).trans h₃).trans ?_
  generalize (τ.setTask k v).writeArea k = ρ
  unfold State.freeSlot
  generalize hσ : ({ ρ with fabReqs := _ } : State) = σ'
  have h₄ : State.HoldsCtx core slot ρ σ' := hσ ▸ .of ⟨rfl, rfl⟩ rfl
  exact h₄.trans (.setOther σ' _ hslot)

theorem State.HoldsCtx.setTask {core slot : Nat} (σ : State) (k : Nat) (v : Task) : State.HoldsCtx core slot σ (σ.setTask k v) := .of ⟨rfl, rfl⟩ rfl

/-- A task with an index of its own when the area is one of its VF's. -/
def State.indexed (σ : State) (k vf pa : Nat) : State :=
  match (σ.taskOf k).ctxId, σ.areaIndex vf pa with
  | none, some i => (σ.takeArea vf i).setTask k { σ.taskOf k with ctxId := some i }
  | _, _ => σ

theorem State.indexed_holds {core slot : Nat} (σ : State) (k vf pa : Nat) : State.HoldsCtx core slot σ (σ.indexed k vf pa) := by
  unfold State.indexed
  split
  · exact .of ⟨rfl, rfl⟩ rfl
  · exact .refl σ

/-- A retiring word of the firmware context writes its register there and leaves the other contexts alone. -/
theorem State.retired_firmware {core : Nat} (σ : State) (d : BitVec 5) (v : Word) (hcore : σ.core = core) (hctx : σ.ctx = 4) {x : Nat} (hx : x < 4) :
    (σ.wrote d v).ctxOf core x = σ.ctxOf core x ∧ (σ.wrote d v).cx.pc = σ.cx.advance.pc := by
  subst hcore
  refine ⟨σ.ctxOf_setCtx_ne _ (by rw [hctx]; omega), ?_⟩
  unfold State.wrote
  rw [State.cx_setCx]
  exact Ctx.setS_advance_pc ..

section Save
variable {s : State} {d a b : BitVec 5}

/-- What CTXSV saves, before its answer: the lot of slot x, in the area at a place. -/
def State.savedTo (s : State) (x k pa : Nat) (c : Ctx) (held : Bool) : State :=
  let σ := (s.setCtx s.core x c).indexed k (s.vfOf s.core x) pa
  (σ.setTask k { σ.taskOf k with areaAt := some pa }).saveLot σ.core x held

theorem State.savedTo_spec (s : State) {x k : Nat} (hx : x < 4) (pa : Nat) {c : Ctx} (hc : c.task = some k) (held : Bool) :
    State.HoldsCtx s.core 4 s (s.savedTo x k pa c held) ∧ ((s.savedTo x k pa c held).ctxOf s.core x).task = none
      ∧ ((s.savedTo x k pa c held).taskOf k).state = .saved ∧ ((s.savedTo x k pa c held).taskOf k).areaAt = some pa := by
  unfold State.savedTo
  dsimp only
  have h₁ : State.HoldsCtx s.core 4 s (s.setCtx s.core x c) := .setOther s c (by omega)
  have h₂ (slot : Nat) := State.indexed_holds (core := s.core) (slot := slot) (s.setCtx s.core x c) k (s.vfOf s.core x) pa
  have htask : (((s.setCtx s.core x c).indexed k (s.vfOf s.core x) pa).ctxOf s.core x).task = some k :=
    ((h₂ x).word.task.trans (congrArg Ctx.task (State.ctxOf_setCtx_same ..))).trans hc
  have h₃ := h₁.trans (h₂ 4)
  generalize State.indexed _ k _ pa = σ at htask h₃
  rw [show σ.core = s.core from h₃.acting.1]
  obtain ⟨hothers, hnone, hstate, hat⟩ := State.saveLot_spec (σ.setTask k { σ.taskOf k with areaAt := some pa }) s.core x held
    (k := k) ((State.HoldsCtx.setTask (core := s.core) (slot := x) σ k _).word.task.trans htask)
  refine ⟨(h₃.trans (.setTask σ k _)).trans (hothers 4 (by omega)), hnone, hstate, hat.trans ?_⟩
  exact congrArg Task.areaAt (State.taskOf_setTask_same ..)

theorem saves_at {x : Nat} {w : Word} (hx : x < 4) (hy : w.toNat % 65536 = 0) : ¬(4 ≤ x ∨ (!aligned w 65536) = true) := by
  rintro (h | h)
  · omega
  · simp [aligned, hy] at h

theorem ctxsv_none (h4 : s.ctx = 4) (hp : s.cx.pslots = 0) (hx : (s.cx.sreg a.toNat).toNat < 4) (hy : (s.cx.sreg b.toNat).toNat % 65536 = 0)
    (hn : (s.ctxOf s.core (s.cx.sreg a.toNat).toNat).task = none) : exec (.ctxsv d a b) s = .next (s.wrote d 0) := by
  refine (privileged_go h4 hp _).trans ((if_neg (saves_at hx hy)).trans ?_)
  show (match (s.ctxOf s.core (s.cx.sreg a.toNat).toNat).task with | none => _ | some k => _) = _
  rw [hn]
  rfl

theorem ctxsv_held (h4 : s.ctx = 4) (hp : s.cx.pslots = 0) (hx : (s.cx.sreg a.toNat).toNat < 4) (hy : (s.cx.sreg b.toNat).toNat % 65536 = 0)
    (ht : (s.ctxOf s.core (s.cx.sreg a.toNat).toNat).task.isSome = true)
    (hheld : (s.ctxOf s.core (s.cx.sreg a.toNat).toNat).stopping = some .held ∨ (s.ctxOf s.core (s.cx.sreg a.toNat).toNat).endNow = true) :
    exec (.ctxsv d a b) s = .next s := by
  obtain ⟨k, hk⟩ := Option.isSome_iff_exists.mp ht
  refine (privileged_go h4 hp _).trans ((if_neg (saves_at hx hy)).trans ?_)
  show (match (s.ctxOf s.core (s.cx.sreg a.toNat).toNat).task with | none => _ | some k => _) = _
  rw [hk]
  exact if_pos hheld

theorem ctxsv_waits (h4 : s.ctx = 4) (hp : s.cx.pslots = 0) (hx : (s.cx.sreg a.toNat).toNat < 4) (hy : (s.cx.sreg b.toNat).toNat % 65536 = 0)
    (ht : (s.ctxOf s.core (s.cx.sreg a.toNat).toNat).task.isSome = true)
    (hheld : ¬((s.ctxOf s.core (s.cx.sreg a.toNat).toNat).stopping = some .held ∨ (s.ctxOf s.core (s.cx.sreg a.toNat).toNat).endNow = true))
    (hready : s.ctxsvReady s.core (s.cx.sreg a.toNat).toNat = false) :
    exec (.ctxsv d a b) s = .next (s.setCtx s.core (s.cx.sreg a.toNat).toNat { s.ctxOf s.core (s.cx.sreg a.toNat).toNat with
      stopping := some ((s.ctxOf s.core (s.cx.sreg a.toNat).toNat).stopping.getD .ctxsv) }) := by
  obtain ⟨k, hk⟩ := Option.isSome_iff_exists.mp ht
  refine (privileged_go h4 hp _).trans ((if_neg (saves_at hx hy)).trans ?_)
  show (match (s.ctxOf s.core (s.cx.sreg a.toNat).toNat).task with | none => _ | some k => _) = _
  rw [hk]
  refine (if_neg hheld).trans (if_pos ?_)
  show (!s.ctxsvReady s.core (s.cx.sreg a.toNat).toNat) = true
  rw [hready]
  rfl

theorem ctxsv_saves (h4 : s.ctx = 4) (hp : s.cx.pslots = 0) (hx : (s.cx.sreg a.toNat).toNat < 4) (hy : (s.cx.sreg b.toNat).toNat % 65536 = 0)
    {k : Nat} (hk : (s.ctxOf s.core (s.cx.sreg a.toNat).toNat).task = some k)
    (hheld : ¬((s.ctxOf s.core (s.cx.sreg a.toNat).toNat).stopping = some .held ∨ (s.ctxOf s.core (s.cx.sreg a.toNat).toNat).endNow = true))
    (hready : s.ctxsvReady s.core (s.cx.sreg a.toNat).toNat = true) :
    ∃ t, exec (.ctxsv d a b) s = .next t ∧ (t.ctxOf s.core (s.cx.sreg a.toNat).toNat).task = none ∧ t.cx.pc = s.cx.advance.pc
      ∧ (t.taskOf k).state = .saved ∧ (t.taskOf k).areaAt = some (s.cx.sreg b.toNat).toNat := by
  generalize hxx : (s.cx.sreg a.toNat).toNat = x at hx hk hheld hready
  generalize hc : s.ctxOf s.core x = c at hk hheld
  let held : Bool := c.stopped.any isFaultService && s.hostMode (s.vfOf s.core x) 2
  let saved := s.savedTo x k (s.cx.sreg b.toNat).toNat { c with stopping := none, fault := { c.fault with held := c.fault.held || held } } held
  have heq : ∃ τ, saved.Noticed τ ∧ exec (.ctxsv d a b) s = .next (τ.tickFresh.wrote d (Config.freeWord τ.fresh)) := by
    refine ⟨if held then saved.notice (s.vfOf s.core x) 23 (saved.nodeOf (saved.taskOf k).node).queue (saved.nodeOf (saved.taskOf k).node).index
      (c.fault.cause + (saved.taskOf k).ctxId.getD 0 * 2 ^ 16) else saved, ?_, ?_⟩
    · split
      · exact State.noticed_notice ..
      · exact .refl _
    · refine (privileged_go h4 hp _).trans ((if_neg (by exact saves_at (hxx ▸ hx) hy)).trans ?_)
      show (match (s.ctxOf s.core (s.cx.sreg a.toNat).toNat).task with | none => _ | some k => _) = _
      rw [hxx, hc, hk]
      have hrs : (s.rs a).toNat = x := hxx
      refine (if_neg (by rw [hrs, hc]; exact hheld)).trans ((if_neg (by rw [hrs, hready]; decide)).trans ?_)
      rw [hrs, hc]
      unfold saved State.savedTo State.indexed
      rfl
  obtain ⟨τ, hnoticed, heq⟩ := heq
  obtain ⟨hfw, hnone, hstate, hat⟩ := s.savedTo_spec hx (s.cx.sreg b.toNat).toNat
    (c := { c with stopping := none, fault := { c.fault with held := c.fault.held || held } }) hk held
  have hkept := hnoticed.keepsTasks
  have hn4 : State.HoldsCtx s.core 4 saved τ := .of_noticed hnoticed
  have hnx : State.HoldsCtx s.core x saved τ := .of_noticed hnoticed
  have hall := hfw.trans hn4
  obtain ⟨hkeep, hpc⟩ := State.retired_firmware τ.tickFresh d (Config.freeWord τ.fresh) hall.acting.1 (hall.acting.2.trans h4) hx
  refine ⟨_, heq, (congrArg Ctx.task hkeep).trans (hnx.word.task.trans hnone), hpc.trans ?_, ?_, ?_⟩
  · have hcx : τ.tickFresh.cx = τ.ctxOf s.core 4 := by
      unfold State.cx
      rw [← h4]
      exact congrArg₂ τ.ctxOf hall.acting.1 hall.acting.2
    have hcx' : s.cx = s.ctxOf s.core 4 := congrArg (s.ctxOf s.core) h4
    rw [hcx, hcx']
    exact Ctx.advance_pc_congr hall.word.pc hall.word.pslots hall.word.npc
  · exact (congrArg Task.state (hkept.taskOf k)).trans hstate
  · exact (congrArg Task.areaAt (hkept.taskOf k)).trans hat

end Save


/-! ### ACCSPILL -/

/-- A slab takes its code; a program of the firmware context that gives it away has served its foreign touches. -/
def State.coded (σ : State) (slab code : Nat) : State :=
  let σ := σ.setCode σ.core slab code
  let k := σ.coreOf σ.core
  if k.fwProgram ∧ code ≠ 4 then σ.setCore σ.core { k with foreign := k.foreign.filter fun f => decide (f.1 ≠ slab) } else σ

theorem State.coded_shape (σ : State) (slab code : Nat) : ∃ cs, σ.coded slab code = { σ.setCode σ.core slab code with cores := cs } := by
  unfold State.coded
  dsimp only
  split
  · exact ⟨_, rfl⟩
  · exact ⟨_, rfl⟩

/-- What the last step of an ACCSPILL leaves: the code, rd with the old one, the slabs, the tiles and memory as they stand. -/
theorem State.coded_wrote (σ : State) (slab code : Nat) (d : BitVec 5) (old : Word) :
    ((σ.coded slab code).wrote d old).accCode σ.core slab = code ∧ ((σ.coded slab code).wrote d old).cx = (σ.cx.setS d.toNat old).advance
      ∧ ((σ.coded slab code).wrote d old).cbuf = σ.cbuf ∧ ((σ.coded slab code).wrote d old).tiles = σ.tiles
      ∧ ∀ pa, ((σ.coded slab code).wrote d old).memByte pa = σ.memByte pa := by
  obtain ⟨cs, h⟩ := σ.coded_shape slab code
  rw [h]
  exact ⟨Tbl.get_set_same .., State.cx_setCx .., rfl, rfl, fun _ => rfl⟩

theorem State.fillSlab_cbuf (σ : State) (core slab : Nat) (l : List (BitVec 32)) : ∃ c, σ.fillSlab core slab l = { σ with cbuf := c } := by
  unfold State.fillSlab
  have h (z : List (BitVec 32 × Nat)) (τ : State) : ∃ c, z.foldl (fun σ p => σ.cWrite core (slab * 4096 + 4 * p.2) p.1) τ = { τ with cbuf := c } := by
    induction z generalizing τ with
    | nil => exact ⟨_, rfl⟩
    | cons p z ih =>
      obtain ⟨c, hc⟩ := ih (τ.cWrite core (slab * 4096 + 4 * p.2) p.1)
      exact ⟨c, hc⟩
  obtain ⟨c, hc⟩ := h l.zipIdx (σ.zeroSlab core slab)
  exact ⟨c, hc⟩

theorem State.metaWrite_shape (σ : State) (pa n v : Nat) : ∃ tl, σ.metaWrite pa n v = { σ with tiles := tl } := by
  unfold State.metaWrite
  dsimp only
  generalize List.range ((pa % 16 + n + 15) / 16) = l
  suffices h : ∀ τ : State, (∃ tl, τ = { σ with tiles := tl }) → ∃ tl, l.foldl (fun (σ : State) k =>
      σ.setMeta ((pa - metaBase) / 16 + k) (σ.metaWord ((pa - metaBase) / 16 + k) / 256 ^ min 16 (pa % 16 + n - 16 * k) * 256 ^ min 16 (pa % 16 + n - 16 * k)
        + v * 256 ^ (pa % 16) / 2 ^ (128 * k) % 256 ^ min 16 (pa % 16 + n - 16 * k) / 256 ^ (if k = 0 then pa % 16 else 0) * 256 ^ (if k = 0 then pa % 16 else 0)
        + σ.metaWord ((pa - metaBase) / 16 + k) % 256 ^ (if k = 0 then pa % 16 else 0))) τ = { σ with tiles := tl } from h σ ⟨_, rfl⟩
  induction l with
  | nil => exact fun τ h => h
  | cons k l ih =>
    rintro τ ⟨tl, rfl⟩
    exact ih _ ⟨_, rfl⟩

section Spill
variable {s : State} {d a b : BitVec 5}

/-- The word names a slab and a code that a slab can have. -/
def spillWord (v : Nat) : Prop := v < 2 ^ 21 ∧ v / 2 ^ 11 % 32 = 0 ∧ v / 2 ^ 19 % 2 = 0 ∧ v / 2 ^ 16 % 8 ≠ 6

/-- The end of an ACCSPILL whose word is v: the slab has its code, and rd the old one. -/
def State.spillDone (s : State) (d : BitVec 5) (v : Nat) (σ : State) : Out :=
  .next ((σ.coded (v % 2048) (v / 2 ^ 16 % 8)).wrote d (BitVec.ofNat 64 (s.accCode s.core (v % 2048))))

/-- What a legal ACCSPILL does with its slab at an address: by bit 20 of its word it loads the slab or stores it. -/
def State.spills (s : State) (d : BitVec 5) (v : Nat) (y : Word) : Out :=
  if y = 0 then s.spillDone d v (if v.testBit 20 then s.zeroSlab s.core (v % 2048) else s)
  else
    match s.translate s.core Config.fwCtx y (if v.testBit 20 then .read else .write) .plain with
    | .error e => s.trap e
    | .ok x =>
      if (metaTile x.pa).isSome then
        if v.testBit 20 then s.spillDone d v (s.fillSlab s.core (v % 2048) ((List.range 1024).map fun i => BitVec.ofNat 32 (s.metaRead x.pa 4096 / 2 ^ (32 * i))))
        else s.spillDone d v (s.metaWrite x.pa 4096 ((s.slabData s.core (v % 2048)).foldr (fun v n => v.toNat + 2 ^ 32 * n) 0))
      else if v.testBit 20 then
        match s.accessCheck 0 x.pa 4096 y with
        | .error e => s.trap e
        | .ok _ => s.spillDone d v ((s.fill x.pa).fillSlab s.core (v % 2048) ((List.range 1024).map fun i => BitVec.ofNat 32 (s.memNat (x.pa + 4 * i) 4)))
      else
        s.spillDone d v (s.writeList ((s.slabData s.core (v % 2048)).zipIdx.flatMap fun p => bytesAt (x.pa + 4 * p.2) 4 p.1.toNat))

theorem accspill_go (h4 : s.ctx = 4) (hp : s.cx.pslots = 0) (hv : spillWord (s.cx.sreg a.toNat).toNat) (hy : (s.cx.sreg b.toNat).toNat % 4096 = 0)
    (hw : s.passWrites s.core ((s.cx.sreg a.toNat).toNat % 2048) = false) :
    exec (.accspill d a b) s = s.spills d (s.cx.sreg a.toNat).toNat (s.cx.sreg b.toNat) := by
  obtain ⟨hv1, hv2, hv3, hv4⟩ := hv
  refine (privileged_go h4 hp _).trans ((if_neg ?_).trans ((if_neg ?_).trans rfl))
  · rintro (h | h | h | h | h)
    · exact absurd hv1 (Nat.not_lt.mpr h)
    · exact h hv2
    · rw [Nat.testBit_eq_decide_div_mod_eq] at h
      have h1 : (s.cx.sreg a.toNat).toNat / 2 ^ 19 % 2 = 1 := of_decide_eq_true h
      omega
    · exact hv4 h
    · simp [aligned, State.rs, hy] at h
  · show ¬ s.passWrites s.core ((s.cx.sreg a.toNat).toNat % 2048) = true
    rw [hw]
    exact Bool.false_ne_true

theorem bit20_iff (v : Nat) : v.testBit 20 = decide (v / 2 ^ 20 % 2 = 1) := Nat.testBit_eq_decide_div_mod_eq ..

theorem bit20_set {v : Nat} (h : v / 2 ^ 20 % 2 = 1) : v.testBit 20 = true := (bit20_iff v).trans (decide_eq_true h)

theorem bit20_clear {v : Nat} (h : v / 2 ^ 20 % 2 = 0) : v.testBit 20 = false := (bit20_iff v).trans (decide_eq_false (by omega))

/-- A physical address of the firmware context (log 3). -/
theorem translate_firmware {y : Word} (hy : y.toNat < 2 ^ 41) (k : Kind) :
    ∃ x, s.translate s.core Config.fwCtx y k .plain = .ok x ∧ x.pa = y.toNat :=
  ⟨_, (if_pos rfl).trans (if_pos hy), rfl⟩

theorem spills_code {v : Nat} (s : State) (d : BitVec 5) : s.spills d v 0 = s.spillDone d v (if v.testBit 20 then s.zeroSlab s.core (v % 2048) else s) := if_pos rfl

variable {v : Nat} {y : Word}

theorem spills_loadMeta (hy0 : y ≠ 0) (hy : y.toNat < 2 ^ 41) (hm : (metaTile y.toNat).isSome = true) (hl : v.testBit 20 = true) :
    s.spills d v y = s.spillDone d v (s.fillSlab s.core (v % 2048) ((List.range 1024).map fun i => BitVec.ofNat 32 (s.metaRead y.toNat 4096 / 2 ^ (32 * i)))) := by
  obtain ⟨x, hx, hpa⟩ := translate_firmware (s := s) hy (if v.testBit 20 = true then .read else .write)
  unfold State.spills
  rw [if_neg hy0, hx]
  dsimp only
  rw [hpa, if_pos hm, if_pos hl]

theorem spills_storeMeta (hy0 : y ≠ 0) (hy : y.toNat < 2 ^ 41) (hm : (metaTile y.toNat).isSome = true) (hl : v.testBit 20 = false) :
    s.spills d v y = s.spillDone d v (s.metaWrite y.toNat 4096 ((s.slabData s.core (v % 2048)).foldr (fun v n => v.toNat + 2 ^ 32 * n) 0)) := by
  obtain ⟨x, hx, hpa⟩ := translate_firmware (s := s) hy (if v.testBit 20 = true then .read else .write)
  unfold State.spills
  rw [if_neg hy0, hx]
  dsimp only
  rw [hpa, if_pos hm, if_neg (by rw [hl]; exact Bool.false_ne_true)]

theorem spills_load (hy0 : y ≠ 0) (hy : y.toNat < 2 ^ 41) (hm : metaTile y.toNat = none) (hl : v.testBit 20 = true) (hc : s.accessCheck 0 y.toNat 4096 y = .ok ()) :
    s.spills d v y = s.spillDone d v ((s.fill y.toNat).fillSlab s.core (v % 2048) ((List.range 1024).map fun i => BitVec.ofNat 32 (s.memNat (y.toNat + 4 * i) 4))) := by
  obtain ⟨x, hx, hpa⟩ := translate_firmware (s := s) hy (if v.testBit 20 = true then .read else .write)
  unfold State.spills
  rw [if_neg hy0, hx]
  dsimp only
  rw [hpa, if_neg (by rw [hm]; exact Bool.false_ne_true), if_pos hl, hc]

theorem spills_store (hy0 : y ≠ 0) (hy : y.toNat < 2 ^ 41) (hm : metaTile y.toNat = none) (hl : v.testBit 20 = false) :
    s.spills d v y = s.spillDone d v (s.writeList ((s.slabData s.core (v % 2048)).zipIdx.flatMap fun p => bytesAt (y.toNat + 4 * p.2) 4 p.1.toNat)) := by
  obtain ⟨x, hx, hpa⟩ := translate_firmware (s := s) hy (if v.testBit 20 = true then .read else .write)
  unfold State.spills
  rw [if_neg hy0, hx]
  dsimp only
  rw [hpa, if_neg (by rw [hm]; exact Bool.false_ne_true), if_neg (by rw [hl]; exact Bool.false_ne_true)]

/-- The bytes of a stored slab, element by element. -/
theorem mem_storedBytes {base : Nat} {l : List (BitVec 32)} {p : Nat × Byte} : p ∈ (l.zipIdx.flatMap fun p => bytesAt (base + 4 * p.2) 4 p.1.toNat)
    ↔ ∃ e < l.length, ∃ i < 4, p = (base + 4 * e + i, BitVec.ofNat 8 ((l.getD e 0).toNat / 256 ^ i)) := by
  unfold bytesAt
  simp only [List.mem_flatMap, List.mem_map, List.mem_range, Prod.exists]
  constructor
  · rintro ⟨x, e, hx, i, hi, rfl⟩
    obtain ⟨he, hxe⟩ := List.mem_zipIdx' hx
    refine ⟨e, he, i, hi, ?_⟩
    rw [hxe, List.getD_eq_getElem _ _ he]
  · rintro ⟨e, he, i, hi, rfl⟩
    refine ⟨l[e], e, ?_, i, hi, ?_⟩
    · rw [List.mem_zipIdx_iff_getElem?]
      exact List.getElem?_eq_getElem he
    · rw [List.getD_eq_getElem _ _ he]

theorem storedSlab_memByte (s : State) (core slab base : Nat) :
    (∀ e < 1024, ∀ i < 4, (s.writeList ((s.slabData core slab).zipIdx.flatMap fun p => bytesAt (base + 4 * p.2) 4 p.1.toNat)).memByte (base + 4 * e + i)
        = BitVec.ofNat 8 ((s.cElem core (slab * 4096 + 4 * e)).toNat / 256 ^ i))
      ∧ ∀ pa, (pa < base ∨ base + 4096 ≤ pa) →
        (s.writeList ((s.slabData core slab).zipIdx.flatMap fun p => bytesAt (base + 4 * p.2) 4 p.1.toNat)).memByte pa = s.memByte pa := by
  refine ⟨fun e he i hi => ?_, fun pa hpa => ?_⟩
  · refine State.writeList_memByte_of_unique _ _ _ _ (mem_storedBytes.mpr ⟨e, by rw [State.slabData_length]; exact he, i, hi, ?_⟩) fun v hv => ?_
    · rw [State.slabData_getD s core slab he]
    · obtain ⟨e', he', i', hi', heq⟩ := mem_storedBytes.mp hv
      obtain ⟨ha, rfl⟩ := Prod.mk.inj heq
      obtain rfl : e' = e := by omega
      rw [State.slabData_getD s core slab he, show i' = i by omega]
  · refine State.writeList_memByte_ne _ _ _ fun p hp => ?_
    obtain ⟨e, he, i, hi, rfl⟩ := mem_storedBytes.mp hp
    rw [State.slabData_length] at he
    dsimp only
    omega

end Spill
/-! ### CTXLD -/

/-- A context that takes the place of one at the same word. -/
theorem State.HoldsCtx.setSame {core : Nat} (slot : Nat) (σ : State) {x : Nat} (c : Ctx) (h : (σ.ctxOf core x).SameWord c) :
    State.HoldsCtx core slot σ (σ.setCtx core x c) := by
  by_cases hs : slot = x
  · subst hs
    exact .setCtx σ c h
  · exact .setOther σ c hs

theorem State.HoldsCtx.aWrite {core : Nat} (slot : Nat) (σ : State) (x off : Nat) (bs : List Byte) : State.HoldsCtx core slot σ (σ.aWrite core x off bs) := by
  unfold State.aWrite
  extract_lets c l τ
  exact .trans (τ := τ) (.of ⟨rfl, rfl⟩ rfl) (.setSame slot τ _ ⟨rfl, rfl, rfl, rfl, rfl⟩)

theorem State.HoldsCtx.setCode {core slot : Nat} (σ : State) (c j v : Nat) : State.HoldsCtx core slot σ (σ.setCode c j v) := .of ⟨rfl, rfl⟩ rfl

theorem State.HoldsCtx.holdSpilled {core slot : Nat} (σ : State) (c t : Nat) : State.HoldsCtx core slot σ (σ.holdSpilled c t) := by
  unfold State.holdSpilled
  refine .foldl (fun σ p => ?_) _ σ
  split
  · exact .of ⟨rfl, rfl⟩ rfl
  · exact .refl σ

/-- Beyond the context that it puts into its slot, a reload leaves every context of the core at its word. -/
theorem State.loadArea_holds (σ : State) (core slot x t abase wbase : Nat) (a : Area) :
    State.HoldsCtx core slot (σ.setCtx core x (a.ctxAt (σ.ctxOf core x) t abase wbase)) (σ.loadArea core x t abase wbase a) := by
  unfold State.loadArea
  extract_lets c σ₁ c₁ σ₂ σ₃ σ₄ tk seed σ₅
  have h₁ : State.HoldsCtx core slot (σ.setCtx core x c) σ₁ := .of ⟨rfl, rfl⟩ rfl
  have h₂ : State.HoldsCtx core slot σ₁ σ₂ := .setSame slot σ₁ _ ⟨rfl, rfl, rfl, rfl, rfl⟩
  have h₃ : State.HoldsCtx core slot σ₂ σ₃ := .foldl (fun σ (p : Nat × Byte) => .aWrite slot σ x p.1 [p.2]) _ _
  have h₅ : State.HoldsCtx core slot σ₃ σ₅ := .of ⟨rfl, rfl⟩ rfl
  have h₆ : State.HoldsCtx core slot σ₅ (σ₅.reclaim core x t) := .foldl (fun σ j => .setCode σ core j x) _ _
  exact ((((h₁.trans h₂).trans h₃).trans h₅).trans h₆).trans (.holdSpilled _ core t)

theorem Area.ctxAt_undelivered (a : Area) (old : Ctx) (t abase wbase : Nat) (h : a.deliver = []) :
    (a.ctxAt old t abase wbase).pc = a.ctx.pc ∧ (a.ctxAt old t abase wbase).s = a.ctx.s := by
  unfold Area.ctxAt
  rw [h]
  exact ⟨rfl, rfl⟩

section Load
variable {s : State} {d a b : BitVec 5}

theorem ctxld_busy (h4 : s.ctx = 4) (hp : s.cx.pslots = 0) (hx : (s.cx.sreg a.toNat).toNat < 4) (hy : (s.cx.sreg b.toNat).toNat % 65536 = 0)
    (ht : (s.ctxOf s.core (s.cx.sreg a.toNat).toNat).task.isSome = true) : exec (.ctxld d a b) s = .next (s.wrote d 1) :=
  (privileged_go h4 hp _).trans ((if_neg (saves_at hx hy)).trans (if_pos ht))

/-- The task's record, brought into the slot, and its waits; what it waits for on units is seen to behind it. -/
def State.reloaded (s : State) (x k ab wb : Nat) : State :=
  let tk := s.taskOf k
  let ar := s.readArea k
  let σ := (s.setTask k { tk with spilled := s.readSpilled k, cont := some ar }).poolDel k
  let σ := (σ.loadArea s.core x k ab wb ar).moveWaits s.core x tk.slot { ar with moved := [] }
  σ.setTask k { σ.taskOf k with core := some s.core, slot := x, areaAt := none, heldFault := false }

/-- The units of a reloaded task: its leases, taken up again or asked for anew. -/
def State.withUnits (σ : State) (core x k : Nat) (was : Option Nat) (ar : Area) : State :=
  let σ := if was = some core ∨ ar.leaseless then σ
    else (σ.withdrawLeases k).setTask k { σ.taskOf k with cont := some { ar with byShape := true, moved := [] } }
  let mine := (σ.coreOf core).reqs.any fun r => decide (r.task = k)
  if ar.leaseless ∨ (σ.fragsOf core noSlot).any (fun j => decide ((σ.fragOf core j).lot = some k)) ∨
      (σ.copiesOf core noSlot).any (fun j => decide ((σ.copyOf core j).holder = some k)) then
      let now := (σ.taskOf k).cont.getD {}
      let σ := (σ.bindUnits core x k now).moveWaits core x x now
      if mine then σ else σ.setTask k { σ.taskOf k with state := .running, cont := none }
    else if mine then σ else σ.reLease core k

theorem ctxld_go (h4 : s.ctx = 4) (hp : s.cx.pslots = 0) (hx : (s.cx.sreg a.toNat).toNat < 4) (hy : (s.cx.sreg b.toNat).toNat % 65536 = 0)
    (ht : (s.ctxOf s.core (s.cx.sreg a.toNat).toNat).task = none) {k : Nat} (hk : s.taskInArea (s.cx.sreg b.toNat).toNat = some k)
    (hgood : s.areaBad (s.cx.sreg b.toNat).toNat (s.readArea k) = none) {ab wb : Nat}
    (hw : s.placeWindows s.core (s.cx.sreg a.toNat).toNat ((s.nodeOf (s.taskOf k).node).agran * 65536) (s.nodeOf (s.taskOf k).node).wrows = some (ab, wb)) :
    exec (.ctxld d a b) s = .next (((s.reloaded (s.cx.sreg a.toNat).toNat k ab wb).withUnits s.core (s.cx.sreg a.toNat).toNat k (s.taskOf k).core (s.readArea k)).wrote d 0) := by
  refine (privileged_go h4 hp _).trans ((if_neg (saves_at hx hy)).trans ((if_neg ?_).trans ?_))
  · show ¬(s.ctxOf s.core (s.cx.sreg a.toNat).toNat).task.isSome = true
    rw [ht]
    exact Bool.false_ne_true
  · show (match s.taskInArea (s.cx.sreg b.toNat).toNat with | none => _ | some k => _) = _
    rw [hk]
    refine (if_neg ?_).trans ?_
    · show ¬(s.areaBad (s.cx.sreg b.toNat).toNat (s.readArea k)).isSome = true
      rw [hgood]
      exact Bool.false_ne_true
    · show (match s.placeWindows s.core (s.cx.sreg a.toNat).toNat ((s.nodeOf (s.taskOf k).node).agran * 65536) (s.nodeOf (s.taskOf k).node).wrows with
        | none => _ | some (ab, wb) => _) = _
      rw [hw]
      unfold State.reloaded State.withUnits
      rfl

theorem State.withUnits_holds (σ : State) (core slot x k : Nat) (was : Option Nat) (ar : Area) : State.HoldsCtx core slot σ (σ.withUnits core x k was ar) := by
  unfold State.withUnits
  extract_lets _ τ mine now ρ
  have hτ : State.HoldsCtx core slot σ τ := .ite (.refl σ) (.trans (.of_leaseStep (σ.leaseStep_withdrawLeases k)) (.setTask _ k _))
  have hρ : State.HoldsCtx core slot τ ρ := .of_leaseStep ((τ.leaseStep_bindUnits core x k now).trans (State.leaseStep_moveWaits _ core x x now))
  have hlease : State.HoldsCtx core slot τ (τ.reLease core k) := .of ⟨rfl, rfl⟩ rfl
  clear_value ρ
  exact hτ.trans (.ite (hρ.trans (.ite (.refl ρ) (.setTask ρ k _))) (.ite (.refl τ) hlease))

theorem State.reloaded_holds (s : State) (slot x k ab wb : Nat) :
    State.HoldsCtx s.core slot (s.setCtx s.core x ((s.readArea k).ctxAt (s.ctxOf s.core x) k ab wb)) (s.reloaded x k ab wb) := by
  unfold State.reloaded
  extract_lets tk ar σ τ
  have h₀ : State.HoldsCtx s.core slot (s.setCtx s.core x (ar.ctxAt (s.ctxOf s.core x) k ab wb)) (σ.setCtx s.core x (ar.ctxAt (σ.ctxOf s.core x) k ab wb)) :=
    .of ⟨rfl, rfl⟩ rfl
  exact ((h₀.trans (σ.loadArea_holds s.core slot x k ab wb ar)).trans (.of_leaseStep (State.leaseStep_moveWaits _ s.core x tk.slot { ar with moved := [] }))).trans
    (.setTask τ k _)

/-- CTXLD of a saved context: the slot holds its task at the word and with the registers its area gives. -/
theorem ctxld_reloads (h4 : s.ctx = 4) (hp : s.cx.pslots = 0) (hx : (s.cx.sreg a.toNat).toNat < 4) (hy : (s.cx.sreg b.toNat).toNat % 65536 = 0)
    (ht : (s.ctxOf s.core (s.cx.sreg a.toNat).toNat).task = none) {k : Nat} (hk : s.taskInArea (s.cx.sreg b.toNat).toNat = some k)
    (hgood : s.areaBad (s.cx.sreg b.toNat).toNat (s.readArea k) = none) {ab wb : Nat}
    (hw : s.placeWindows s.core (s.cx.sreg a.toNat).toNat ((s.nodeOf (s.taskOf k).node).agran * 65536) (s.nodeOf (s.taskOf k).node).wrows = some (ab, wb)) :
    ∃ t, exec (.ctxld d a b) s = .next t ∧ (t.ctxOf s.core (s.cx.sreg a.toNat).toNat).task = some k ∧ t.cx.sreg d.toNat = 0 ∧ t.cx.pc = s.cx.advance.pc
      ∧ ((s.readArea k).deliver = [] → (t.ctxOf s.core (s.cx.sreg a.toNat).toNat).pc = (s.readArea k).ctx.pc
          ∧ ∀ r, (t.ctxOf s.core (s.cx.sreg a.toNat).toNat).sreg r = (s.readArea k).ctx.sreg r) := by
  refine ⟨_, ctxld_go h4 hp hx hy ht hk hgood hw, ?_⟩
  generalize (s.cx.sreg a.toNat).toNat = x at hx
  have hall (slot : Nat) := (s.reloaded_holds slot x k ab wb).trans
    ((s.reloaded x k ab wb).withUnits_holds s.core slot x k (s.taskOf k).core (s.readArea k))
  generalize (s.reloaded x k ab wb).withUnits s.core x k (s.taskOf k).core (s.readArea k) = τ at hall
  have hword := (hall x).word
  rw [State.ctxOf_setCtx_same] at hword
  have hfw : State.HoldsCtx s.core 4 s τ := .trans (.setOther s _ (by omega)) (hall 4)
  obtain ⟨hkeep, hpc⟩ := State.retired_firmware τ d 0 hfw.acting.1 (hfw.acting.2.trans h4) hx
  have hcx : τ.cx = τ.ctxOf s.core 4 := (congrArg₂ τ.ctxOf hfw.acting.1 (hfw.acting.2.trans h4) : τ.ctxOf τ.core τ.ctx = _)
  have hcx' : s.cx = s.ctxOf s.core 4 := congrArg (s.ctxOf s.core) h4
  rw [hkeep]
  refine ⟨hword.task.trans (Area.ctxAt_task ..), ?_, hpc.trans ?_, fun hd => ⟨hword.pc.trans (Area.ctxAt_undelivered _ _ _ _ _ hd).1, fun r => ?_⟩⟩
  · unfold State.wrote
    rw [State.cx_setCx, Ctx.setS_advance_sreg, ite_self]
  · rw [hcx, hcx']
    exact Ctx.advance_pc_congr hfw.word.pc hfw.word.pslots hfw.word.npc
  · unfold Ctx.sreg
    rw [hword.regs, (Area.ctxAt_undelivered _ _ _ _ _ hd).2]

end Load

theorem range_map_getD {f : Nat → BitVec 32} {e : Nat} (he : e < 1024) : ((List.range 1024).map f).getD e 0 = f e := by
  rw [List.getD_eq_getElem _ _ (by simpa using he)]
  simp

/-- A slab filled by an ACCSPILL, and what that leaves. -/
theorem spillDone_fill (s σ : State) (d : BitVec 5) (v : Nat) (f : Nat → BitVec 32) (hcore : σ.core = s.core) :
    ∃ t, s.spillDone d v (σ.fillSlab s.core (v % 2048) ((List.range 1024).map f)) = .next t ∧ t.accCode s.core (v % 2048) = v / 2 ^ 16 % 8
      ∧ t.tiles = σ.tiles ∧ (∀ pa, t.memByte pa = σ.memByte pa) ∧ ∀ e < 1024, t.cElem s.core (v % 2048 * 4096 + 4 * e) = f e := by
  have hlen : ((List.range 1024).map f).length = 1024 := by rw [List.length_map, List.length_range]
  have hfill (e : Nat) (he : e < 1024) := (State.fillSlab_cElem σ s.core (v % 2048) hlen he).trans (range_map_getD he)
  have hm := (State.fillSlab_other σ s.core (v % 2048) ((List.range 1024).map f)).2.2.2.2
  obtain ⟨c, hc⟩ := State.fillSlab_cbuf σ s.core (v % 2048) ((List.range 1024).map f)
  generalize State.fillSlab σ s.core (v % 2048) ((List.range 1024).map f) = τ at hfill hm hc
  have hτ : τ.core = s.core := by rw [hc]; exact hcore
  have htiles : τ.tiles = σ.tiles := by rw [hc]
  obtain ⟨hcode, -, hcbuf, htl, hmem⟩ := τ.coded_wrote (v % 2048) (v / 2 ^ 16 % 8) d (BitVec.ofNat 64 (s.accCode s.core (v % 2048)))
  rw [hτ] at hcode
  refine ⟨_, rfl, hcode, htl.trans htiles, fun pa => (hmem pa).trans (hm pa), fun e he => ?_⟩
  exact (congrArg (fun l : Tbl (BitVec 32) => l.get 0 (cKey s.core (v % 2048 * 4096 + 4 * e))) hcbuf).trans (hfill e he)

/-- Settles O21: a word's guard is `privileged`; a save and a reload keep the firmware context at its word (`HoldsCtx`). -/
theorem firmwareInstructions : Obligations.FirmwareInstructions := by
  unfold Obligations.FirmwareInstructions
  refine ⟨fun s d a b i hi => ?_, ?_, fun s d a b k w h4 hp hx hy ht hk hgood hw => ctxld_reloads h4 hp hx hy ht hk hgood hw⟩
  · obtain ⟨k, hk⟩ := firmware_exec (s := s) hi
    rw [hk]
    exact ⟨fun h => privileged_user h k, fun h hp => privileged_inSlot h hp k⟩
  · intro s d a b x y slab code cs saves codeOk h4 hp
    have hready (hs : saves) : s.ctxsvReady s.core x = true := by
      unfold State.ctxsvReady
      simpa [or_assoc] using hs
    refine ⟨eret_spec h4 hp, ctxsv_none h4 hp, fun hx hy ht hheld hend hs => ?_, fun hx hy ht hheld hend hs => ?_, ctxsv_held h4 hp, ctxld_busy h4 hp,
      fun hv hy hw => ?_, fun hv hy0 hy hlim hm hl hw hc => ?_, fun hv hy0 hy hlim hm hl hw => ?_, fun hv hy0 hy hlim hm hw => ?_,
      keyld_none h4 hp, keyld_spec h4 hp, wdog_processor h4 hp, wdog_core h4 hp⟩
    · obtain ⟨k, hk⟩ := Option.isSome_iff_exists.mp ht
      have hend' : ¬(cs.stopping = some .held ∨ cs.endNow = true) := by
        rintro (h | h)
        · exact hheld h
        · exact absurd (hend.symm.trans h) Bool.false_ne_true
      obtain ⟨t, heq, hnone, hpc, hstate, hat⟩ := ctxsv_saves (d := d) h4 hp hx hy hk hend' (hready hs)
      refine ⟨t, heq, hnone, hpc, fun k' hk' => ?_⟩
      cases hk.symm.trans hk'
      exact ⟨hstate, hat⟩
    · have hend' : ¬(cs.stopping = some .held ∨ cs.endNow = true) := by
        rintro (h | h)
        · exact hheld h
        · exact absurd (hend.symm.trans h) Bool.false_ne_true
      refine ctxsv_waits h4 hp hx hy ht hend' (Bool.eq_false_iff.mpr fun h => hs ?_)
      unfold State.ctxsvReady at h
      simpa [or_assoc] using h
    · have hy0 : s.cx.sreg b.toNat = 0 := BitVec.eq_of_toNat_eq hy
      have hgo := accspill_go (d := d) h4 hp hv (show y % 4096 = 0 by rw [hy]) hw
      rw [hy0, spills_code] at hgo
      by_cases hl : x / 2 ^ 20 % 2 = 1
      · rw [if_pos (bit20_set hl)] at hgo
        obtain ⟨hcode, hcx, hcbuf, -, hmem⟩ := (s.zeroSlab s.core slab).coded_wrote slab code d (BitVec.ofNat 64 (s.accCode s.core slab))
        refine ⟨_, hgo, hcode, hcx, hmem, fun _ e he => ?_, fun h => absurd (h.symm.trans hl) (by decide)⟩
        exact (congrArg (fun l : Tbl (BitVec 32) => l.get 0 (cKey s.core (slab * 4096 + 4 * e))) hcbuf).trans (State.zeroSlab_cElem s s.core slab he)
      · have hl0 : x / 2 ^ 20 % 2 = 0 := by omega
        rw [bit20_clear hl0, if_neg Bool.false_ne_true] at hgo
        obtain ⟨hcode, hcx, hcbuf, -, hmem⟩ := s.coded_wrote slab code d (BitVec.ofNat 64 (s.accCode s.core slab))
        exact ⟨_, hgo, hcode, hcx, hmem, fun h => absurd h hl, fun _ => hcbuf⟩
    · have hgo := (accspill_go (d := d) h4 hp hv hy hw).trans (spills_load (fun h => hy0 (congrArg BitVec.toNat h)) hlim hm (bit20_set hl) hc)
      have hfill : (s.fill y).core = s.core := by
        obtain ⟨l, h⟩ := s.fill_shape y
        rw [h]
      obtain ⟨t, heq, hcode, -, hmem, helems⟩ := spillDone_fill s (s.fill y) d x (fun i => BitVec.ofNat 32 (s.memNat (y + 4 * i) 4)) hfill
      exact ⟨t, hgo.trans heq, hcode, fun pa => (hmem pa).trans (State.memByte_fill ..), helems⟩
    · have hgo := (accspill_go (d := d) h4 hp hv hy hw).trans (spills_store (fun h => hy0 (congrArg BitVec.toNat h)) hlim hm (bit20_clear hl))
      obtain ⟨hbytes, hothers⟩ := storedSlab_memByte s s.core slab y
      obtain ⟨_, _, _, _, hshape⟩ := s.writeList_shape ((s.slabData s.core slab).zipIdx.flatMap fun p => bytesAt (y + 4 * p.2) 4 p.1.toNat)
      obtain ⟨hcode, -, hcbuf, -, hmem⟩ := State.coded_wrote
        (s.writeList ((s.slabData s.core slab).zipIdx.flatMap fun p => bytesAt (y + 4 * p.2) 4 p.1.toNat)) slab code d (BitVec.ofNat 64 (s.accCode s.core slab))
      have hcore := (congrArg State.core hshape).trans (rfl : _ = s.core)
      rw [hcore] at hcode
      exact ⟨_, hgo, hcode, hcbuf.trans ((congrArg State.cbuf hshape).trans rfl), fun e he i hi => (hmem _).trans (hbytes e he i hi), fun pa hpa => (hmem pa).trans (hothers pa hpa)⟩
    · have hy0' : s.cx.sreg b.toNat ≠ 0 := fun h => hy0 (congrArg BitVec.toNat h)
      by_cases hl : x / 2 ^ 20 % 2 = 1
      · have hgo := (accspill_go (d := d) h4 hp hv hy hw).trans (spills_loadMeta hy0' hlim hm (bit20_set hl))
        obtain ⟨t, heq, hcode, htiles, -, helems⟩ := spillDone_fill s s d x (fun i => BitVec.ofNat 32 (s.metaRead y 4096 / 2 ^ (32 * i))) rfl
        exact ⟨t, hgo.trans heq, hcode, fun _ => ⟨htiles, helems⟩, fun h => absurd (h.symm.trans hl) (by decide)⟩
      · have hgo := (accspill_go (d := d) h4 hp hv hy hw).trans (spills_storeMeta hy0' hlim hm (bit20_clear (by omega)))
        obtain ⟨tl, hshape⟩ := s.metaWrite_shape y 4096 ((s.slabData s.core slab).foldr (fun v n => v.toNat + 2 ^ 32 * n) 0)
        obtain ⟨hcode, -, hcbuf, htiles, -⟩ := State.coded_wrote (s.metaWrite y 4096 ((s.slabData s.core slab).foldr (fun v n => v.toNat + 2 ^ 32 * n) 0))
          slab code d (BitVec.ofNat 64 (s.accCode s.core slab))
        have hcore := (congrArg State.core hshape).trans (rfl : _ = s.core)
        rw [hcore] at hcode
        exact ⟨_, hgo, hcode, fun h => absurd h hl, fun _ => ⟨hcbuf.trans ((congrArg State.cbuf hshape).trans rfl), htiles⟩⟩

end Sys2Proof.Machine
end

section
/-! ## Vector words: what a word takes and what it leaves -/
namespace Sys2Proof.Machine

/-! ### Bytes of a wide number -/

theorem getBytes_mod {w off z m : Nat} (h : off + z ≤ m) : getBytes (w % 256 ^ m) off z = getBytes w off z := by
  unfold getBytes
  rw [← Nat.mod_mul_right_div_self, ← Nat.mod_mul_right_div_self, ← Nat.pow_add, Nat.mod_mod_of_dvd _ (Nat.pow_dvd_pow 256 h)]

theorem getBytes_div {w off z m : Nat} (h : m ≤ off) : getBytes w off z = getBytes (w / 256 ^ m) (off - m) z := by
  unfold getBytes
  rw [Nat.div_div_eq_div_mul, ← Nat.pow_add, Nat.add_sub_cancel' h]

theorem getBytes_lt (w off z : Nat) : getBytes w off z < 256 ^ z := Nat.mod_lt _ (by positivity)

/-- A number whose bytes from off on are replaced: what is below them, the new ones, and what is above them. -/
theorem putBytes_eq (w off z v : Nat) : putBytes w off z v = w % 256 ^ off + (v % 256 ^ z + w / 256 ^ (off + z) * 256 ^ z) * 256 ^ off := by
  have h1 : w = w % 256 ^ off + (getBytes w off z + w / 256 ^ (off + z) * 256 ^ z) * 256 ^ off := by
    have ha := Nat.mod_add_div w (256 ^ off)
    have hb := Nat.mod_add_div (w / 256 ^ off) (256 ^ z)
    rw [Nat.div_div_eq_div_mul, ← Nat.pow_add] at hb
    calc w = w % 256 ^ off + 256 ^ off * (w / 256 ^ off) := ha.symm
      _ = _ := by
        rw [← hb]
        unfold getBytes
        ring
  unfold putBytes
  generalize getBytes w off z = g at h1
  generalize hh : w / 256 ^ (off + z) * 256 ^ z = q at h1
  have hsub : w - g * 256 ^ off = w % 256 ^ off + q * 256 ^ off := by
    rw [Nat.add_mul] at h1
    omega
  rw [hsub, Nat.add_mul]
  omega

theorem getBytes_putBytes_same (w off z v : Nat) : getBytes (putBytes w off z v) off z = v % 256 ^ z := by
  have hp : 0 < 256 ^ off := by positivity
  rw [putBytes_eq, getBytes, Nat.add_mul_div_right _ _ hp, Nat.div_eq_of_lt (Nat.mod_lt _ hp), Nat.zero_add, Nat.add_mul_mod_self_right, Nat.mod_mod]

theorem getBytes_putBytes_below {w off z v off' z' : Nat} (h : off' + z' ≤ off) : getBytes (putBytes w off z v) off' z' = getBytes w off' z' := by
  rw [← getBytes_mod h, putBytes_eq, Nat.add_mul_mod_self_right, Nat.mod_mod, getBytes_mod h]

theorem getBytes_putBytes_above {w off z v off' z' : Nat} (h : off + z ≤ off') : getBytes (putBytes w off z v) off' z' = getBytes w off' z' := by
  have hp : 0 < 256 ^ off := by positivity
  have hz : 0 < 256 ^ z := by positivity
  rw [getBytes_div h, getBytes_div (w := w) h]
  congr 1
  rw [putBytes_eq, Nat.pow_add 256 off z, ← Nat.div_div_eq_div_mul, Nat.add_mul_div_right _ _ hp, Nat.div_eq_of_lt (Nat.mod_lt _ hp), Nat.zero_add,
    Nat.add_mul_div_right _ _ hz, Nat.div_eq_of_lt (Nat.mod_lt _ hz), Nat.zero_add]

/-! ### The parts of a destination -/

/-- Parts that share no byte. -/
def apart (p q : VPart) : Prop := p.1 + p.2.1 ≤ q.1 ∨ q.1 + q.2.1 ≤ p.1

/-- A register's number when a part is written. -/
def putPart (w : Nat) (p : VPart) : Nat := match p.2.2 with | some x => putBytes w p.1 p.2.1 x | none => w

/-- A register's number when its parts are written. -/
def putParts (w : Nat) (parts : List VPart) : Nat := parts.foldl putPart w

/-- What stands in a part of z bytes: its value, or what stood there. -/
def stored (z : Nat) (r : Option Nat) (old : Nat) : Nat := (r.map fun x => x % 256 ^ z).getD old

theorem getBytes_putPart_apart {p : VPart} {off k : Nat} (w : Nat) (h : p.1 + p.2.1 ≤ off ∨ off + k ≤ p.1) : getBytes (putPart w p) off k = getBytes w off k := by
  unfold putPart
  split
  · exact h.elim getBytes_putBytes_above getBytes_putBytes_below
  · rfl

theorem getBytes_putPart (w : Nat) (p : VPart) : getBytes (putPart w p) p.1 p.2.1 = stored p.2.1 p.2.2 (getBytes w p.1 p.2.1) := by
  unfold putPart
  split
  case h_1 x hx =>
    rw [hx]
    exact getBytes_putBytes_same ..
  case h_2 hx =>
    rw [hx]
    rfl

theorem getBytes_putParts_apart {off k : Nat} : ∀ (parts : List VPart) (w : Nat), (∀ p ∈ parts, p.1 + p.2.1 ≤ off ∨ off + k ≤ p.1) →
    getBytes (putParts w parts) off k = getBytes w off k
  | [], _, _ => rfl
  | p :: parts, w, h => (getBytes_putParts_apart parts _ fun q hq => h q (List.mem_cons_of_mem _ hq)).trans (getBytes_putPart_apart w (h p List.mem_cons_self))

/-- Each part of a list whose parts share no byte holds what is stored there. -/
theorem getBytes_putParts : ∀ (parts : List VPart) (w : Nat), parts.Pairwise apart → ∀ p ∈ parts,
    getBytes (putParts w parts) p.1 p.2.1 = stored p.2.1 p.2.2 (getBytes w p.1 p.2.1)
  | [], _, _, _, hp => absurd hp List.not_mem_nil
  | q :: parts, w, h, p, hp => by
    obtain ⟨hq, hparts⟩ := List.pairwise_cons.mp h
    rcases List.mem_cons.mp hp with rfl | hp
    · exact (getBytes_putParts_apart parts _ fun r hr => (hq r hr).symm).trans (getBytes_putPart w p)
    · exact (getBytes_putParts parts _ hparts p hp).trans (congrArg _ (getBytes_putPart_apart w (hq p hp)))

/-- The bytes of parts, each at its place. -/
def placedBytes (parts : List VPart) : List (Nat × Byte) := parts.flatMap fun p => bytesAt p.1 p.2.1 (p.2.2.getD 0)

theorem bytesAt_places (off n v : Nat) : (bytesAt off n v).map (fun b => b.1) = (List.range n).map (off + ·) := by
  unfold bytesAt
  rw [List.map_map]
  rfl

theorem placedBytes_nodup {parts : List VPart} (h : parts.Pairwise apart) : ((placedBytes parts).map fun b => b.1).Nodup := by
  unfold placedBytes
  rw [List.map_flatMap]
  refine List.nodup_flatMap.mpr ⟨fun p _ => ?_, h.imp fun {p q} hpq => ?_⟩
  · rw [bytesAt_places]
    exact List.nodup_range.map (add_right_injective p.1)
  · show List.Disjoint ((bytesAt p.1 p.2.1 _).map fun b => b.1) ((bytesAt q.1 q.2.1 _).map fun b => b.1)
    rw [bytesAt_places, bytesAt_places]
    intro x hx hy
    obtain ⟨i, hi, rfl⟩ := List.mem_map.mp hx
    obtain ⟨j, hj, heq⟩ := List.mem_map.mp hy
    rw [List.mem_range] at hi hj
    unfold apart at hpq
    omega

theorem placedBytes_lt {parts : List VPart} {n : Nat} (h : ∀ p ∈ parts, p.1 + p.2.1 ≤ n) : ∀ b ∈ placedBytes parts, b.1 < n := by
  intro b hb
  obtain ⟨p, hp, hb⟩ := List.mem_flatMap.mp hb
  obtain ⟨j, hj, rfl⟩ := List.mem_map.mp hb
  exact lt_of_lt_of_le (Nat.add_lt_add_left (List.mem_range.mp hj) p.1) (h p hp)

theorem mem_placedBytes {parts : List VPart} {p : VPart} (hp : p ∈ parts) {j : Nat} (hj : j < p.2.1) :
    (p.1 + j, BitVec.ofNat 8 (p.2.2.getD 0 / 256 ^ j)) ∈ placedBytes parts :=
  List.mem_flatMap.mpr ⟨p, hp, List.mem_map.mpr ⟨j, List.mem_range.mpr hj, rfl⟩⟩

/-- The parts of n elements of z bytes, of which those with a value are written. -/
def partsOf (n z : Nat) (res : Nat → Option Nat) : List VPart := (List.range n).map fun i => (i * z, z, res i)

theorem mem_partsOf {n z : Nat} {res : Nat → Option Nat} {i : Nat} (hi : i < n) : (i * z, z, res i) ∈ partsOf n z res :=
  List.mem_map.mpr ⟨i, List.mem_range.mpr hi, rfl⟩

theorem partsOf_le {n z : Nat} {res : Nat → Option Nat} : ∀ p ∈ partsOf n z res, p.1 + p.2.1 ≤ n * z := by
  intro p hp
  obtain ⟨i, hi, rfl⟩ := List.mem_map.mp hp
  exact (Nat.succ_mul i z).symm.trans_le (Nat.mul_le_mul_right z (List.mem_range.mp hi))

theorem partsOf_apart (n z : Nat) (res : Nat → Option Nat) : (partsOf n z res).Pairwise apart :=
  List.pairwise_map.mpr (List.pairwise_lt_range.imp fun {i _} hij => .inl ((Nat.succ_mul i z).symm.trans_le (Nat.mul_le_mul_right z hij)))

theorem register_bytes : (2 : Nat) ^ 8192 = 256 ^ 1024 := by rw [show (256 : Nat) = 2 ^ 8 from rfl, ← Nat.pow_mul]

theorem VecCtx.setReg_reg (v : VecCtx) (k w : Nat) {off z : Nat} (h : off + z ≤ 1024) : getBytes ((v.setReg k w).reg k) off z = getBytes w off z := by
  have hreg : (v.setReg k w).reg k = w % 256 ^ 1024 := by
    unfold VecCtx.reg VecCtx.setReg
    rw [Tbl.get_set_same, BitVec.toNat_ofNat, register_bytes]
  rw [hreg, getBytes_mod h]

theorem VecCtx.reg_above (v : VecCtx) (k : Nat) {off z : Nat} (h : 1024 ≤ off) : getBytes (v.reg k) off z = 0 := by
  have hlt : v.reg k < 256 ^ off := by
    refine lt_of_lt_of_le (Tbl.get v.v 0 k).isLt ?_
    rw [register_bytes]
    exact Nat.pow_le_pow_right (by decide) h
  unfold getBytes
  rw [Nat.div_eq_of_lt hlt, Nat.zero_mod]

theorem VecCtx.setReg_other (v : VecCtx) (k w : Nat) {j : Nat} (h : j ≠ k) : (v.setReg k w).reg j = v.reg j :=
  congrArg BitVec.toNat (Tbl.get_set_ne _ _ _ h)

/-! ### What a word takes -/

/-- The rings are as before, but for what the vector engine has not met (R94). -/
def Ctx.SameRingsV (c d : Ctx) : Prop := ∀ i, { d.ring i with vmarks := [] } = { c.ring i with vmarks := [] }

/-- The rings are as before, but for what the control core has not met (R94). -/
def Ctx.SameRingsM (c d : Ctx) : Prop := ∀ i, { d.ring i with marks := [] } = { c.ring i with marks := [] }

theorem Ctx.swapViews_ring (c : Ctx) (i : Nat) : c.swapViews.ring i = { c.ring i with marks := (c.ring i).vmarks, vmarks := (c.ring i).marks } :=
  Tbl.get_map_value c.rings (fun r : Ring => { r with marks := r.vmarks, vmarks := r.marks }) _ i rfl

theorem Ctx.SameRingsM.swapViews {c d : Ctx} (h : c.swapViews.SameRingsM d) : c.SameRingsV d.swapViews := by
  intro i
  have hi := h i
  rw [Ctx.swapViews_ring] at hi ⊢
  generalize d.ring i = q at hi ⊢
  generalize c.ring i = r at hi ⊢
  obtain ⟨⟩ := q
  obtain ⟨⟩ := r
  simp only [Ring.mk.injEq] at hi ⊢
  obtain ⟨hentry, hclaim, htail, hhead, hfilled, -, hmarks⟩ := hi
  exact ⟨hentry, hclaim, htail, hhead, hfilled, hmarks, trivial⟩

theorem Ctx.SameRingsV.setRing {c d : Ctx} (h : c.SameRingsV d) (k n : Nat) :
    (c.setRing k ((c.ring k).doAdvance n)).SameRingsV (d.setRing k ((d.ring k).doAdvance n)) := by
  intro i
  unfold Ctx.ring Ctx.setRing
  dsimp only
  by_cases hi : i = k
  · subst hi
    rw [Tbl.get_set_same, Tbl.get_set_same]
    exact congrArg (fun r : Ring => r.doAdvance n) (h i)
  · rw [Tbl.get_set_ne _ _ _ hi, Tbl.get_set_ne _ _ _ hi]
    exact h i

theorem Ctx.SameRingsV.popRings {c d : Ctx} (srcs : List Opnd) (h : c.SameRingsV d) : (Machine.popRings c srcs).SameRingsV (Machine.popRings d srcs) := by
  unfold Machine.popRings
  induction srcs generalizing c d with
  | nil => exact h
  | cons o srcs ih =>
    rw [List.foldl_cons, List.foldl_cons]
    split
    · exact ih (h.setRing _ 1)
    · exact ih h

theorem State.orderBytes_rings (s : State) (ls : List (Tbl Nat)) :
    (∃ x, s.orderBytes s.core s.eng ls = { s with ctxs := x }) ∧ (s.ctxOf s.core s.eng).SameRingsM ((s.orderBytes s.core s.eng ls).ctxOf s.core s.eng) := by
  obtain ⟨c, ⟨-, hc⟩, h | ⟨h, rfl⟩⟩ := s.orderBytes_shape s.core s.eng ls
  · rw [h, State.ctxOf_setCtx_same]
    exact ⟨⟨_, rfl⟩, hc⟩
  · rw [h]
    exact ⟨⟨_, rfl⟩, fun _ => rfl⟩

/-- The slots of the sources are acquired one by one. -/
def State.orderSlots (σ : State) (ps : List (Opnd × Nat)) (s : State) : State :=
  ps.foldl (fun (s : State) p => if p.1.chan then s.orderRing σ.core σ.eng p.1.idx (p.2 + 1) else s) s

theorem State.orderSlots_rings (σ : State) (ps : List (Opnd × Nat)) : ∀ s : State, s.core = σ.core → s.eng = σ.eng →
    (∃ x, σ.orderSlots ps s = { s with ctxs := x }) ∧ (s.ctxOf σ.core σ.eng).SameRingsM ((σ.orderSlots ps s).ctxOf σ.core σ.eng) := by
  induction ps with
  | nil => exact fun s _ _ => ⟨⟨_, rfl⟩, fun _ => rfl⟩
  | cons p ps ih =>
    intro s hcore heng
    by_cases hp : p.1.chan = true
    · obtain ⟨⟨x, hx⟩, hr⟩ := s.orderBytes_rings (((s.ctxOf s.core s.eng).ring p.1.idx).marked (p.2 + 1))
      have heq : σ.orderSlots (p :: ps) s = σ.orderSlots ps (s.orderBytes s.core s.eng (((s.ctxOf s.core s.eng).ring p.1.idx).marked (p.2 + 1))) := by
        unfold State.orderSlots
        rw [List.foldl_cons, if_pos hp, ← hcore, ← heng]
        rfl
      rw [heq]
      generalize State.orderBytes s s.core s.eng _ = τ at hx hr
      obtain ⟨⟨y, hy⟩, hq⟩ := ih τ (by rw [hx]; exact hcore) (by rw [hx]; exact heng)
      rw [hcore, heng] at hr
      refine ⟨⟨y, by rw [hy, hx]⟩, fun i => (hq i).trans (hr i)⟩
    · have heq : σ.orderSlots (p :: ps) s = σ.orderSlots ps s := by
        unfold State.orderSlots
        rw [List.foldl_cons, if_neg hp]
      rw [heq]
      exact ih s hcore heng

/-- A word takes its sources: it changes its context alone, and of the rings it pops them and what the vector engine has not met. -/
theorem State.takeSources_spec (s : State) (srcs : List Opnd) :
    (∃ x, s.takeSources srcs = { s with ctxs := x }) ∧ tookSources s srcs ((s.takeSources srcs).ctxOf s.core s.eng) := by
  obtain ⟨⟨x, hx⟩, hr⟩ := s.orderSlots_rings (srcSlots [] srcs) (s.swapViews s.core s.eng) rfl rfl
  have hswap : (s.swapViews s.core s.eng).ctxOf s.core s.eng = (s.ctxOf s.core s.eng).swapViews := State.ctxOf_setCtx_same ..
  rw [hswap] at hr
  have htake : ∃ τ, (∃ y, τ = { s with ctxs := y }) ∧ (s.ctxOf s.core s.eng).SameRingsV (τ.ctxOf s.core s.eng)
      ∧ s.takeSources srcs = τ.setCtx s.core s.eng (popRings (τ.ctxOf s.core s.eng) srcs) := by
    unfold State.takeSources
    by_cases hc : srcs.any Opnd.chan = true
    · refine ⟨(s.orderSlots (srcSlots [] srcs) (s.swapViews s.core s.eng)).swapViews s.core s.eng, ⟨_, by rw [hx]; rfl⟩, ?_, ?_⟩
      · unfold State.swapViews
        rw [State.ctxOf_setCtx_same]
        exact hr.swapViews
      · dsimp only
        rw [if_pos hc]
        rfl
    · refine ⟨s, ⟨_, rfl⟩, fun _ => rfl, ?_⟩
      dsimp only
      rw [if_neg hc]
  obtain ⟨τ, ⟨y, hy⟩, hsame, heq⟩ := htake
  refine ⟨⟨_, by rw [heq, hy]; rfl⟩, rfl, ?_⟩
  rw [heq, State.ctxOf_setCtx_same]
  exact hsame.popRings srcs


/-! ### What a word leaves in its destination -/

theorem popRings_entry (c : Ctx) (srcs : List Opnd) (i : Nat) : ((popRings c srcs).ring i).entry = (c.ring i).entry := by
  unfold popRings
  induction srcs generalizing c with
  | nil => rfl
  | cons o srcs ih =>
    rw [List.foldl_cons, ih]
    split
    · unfold Ctx.ring Ctx.setRing
      dsimp only
      rw [Tbl.get_set]
      split
      case isTrue h => rw [h]; rfl
      case isFalse => rfl
    · rfl

theorem tookSources_entry {s : State} {srcs : List Opnd} {c : Ctx} (h : tookSources s srcs c) (i : Nat) : (c.ring i).entry = ((s.ctxOf s.core s.eng).ring i).entry :=
  (congrArg Ring.entry (h.2 i)).trans (popRings_entry _ srcs i)

/-- A slot that an operand uses holds the operand's bytes. -/
theorem slotOk_need {d : BitVec 7} {x : BitVec 1} {need : Nat} {c : Ctx} (hok : (opnd d x need).slotOk c = true) (hch : d.getLsbD 6 = true) :
    need ≤ 64 * (c.ring (d.toNat % 64)).ssz := by
  unfold Opnd.slotOk at hok
  rw [show (opnd d x need).chan = true from hch] at hok
  exact of_decide_eq_true (Bool.and_eq_true_iff.mp hok).2

theorem byte_mod (x : Nat) {z j : Nat} (hj : j < z) : (BitVec.ofNat 8 (x % 256 ^ z / 256 ^ j) : Byte) = BitVec.ofNat 8 (x / 256 ^ j) := by
  refine BitVec.eq_of_toNat_eq ?_
  rw [BitVec.toNat_ofNat, BitVec.toNat_ofNat]
  exact getBytes_mod (z := 1) hj

/-- A word retires with parts that share no byte and lie in its destination: it takes its sources; its register holds the parts, or they are
written into the slot it claims, or they wait for a slot. -/
theorem State.vecRetire_parts (s : State) (srcs : List Opnd) (d : BitVec 7) (need : Nat) (parts : List VPart) (g : BitVec 32)
    (hok : (opnd d 0 need).slotOk (s.ctxOf s.core s.eng) = true) (hapart : parts.Pairwise apart) (hneed : ∀ p ∈ parts, p.1 + p.2.1 ≤ need) :
    let c := (s.takeSources srcs).ctxOf s.core s.eng
    let k := d.toNat % 64
    let r := c.ring k
    ∃ t, s.vecRetire srcs (opnd d 0 need) parts g = .next t ∧ SameMemory s t ∧ tookSources s srcs c
      ∧ (d.getLsbD 6 = false → t.ctxOf s.core s.eng = c ∧ t.vecOf s.core s.eng = s.vHere.setReg k (putParts (s.vHere.reg k) parts)
          ∧ ∃ u, (t.engOf s.core s.eng).run = some u ∧ u.upc = s.runHere.upc + 1)
      ∧ (d.getLsbD 6 = true → r.free ≠ 0 → t.vecOf s.core s.eng = s.vHere ∧ ((t.ctxOf s.core s.eng).ring k).claim = r.claim + 1
          ∧ ((t.ctxOf s.core s.eng).ring k).head = r.head ∧ t.landing = s.landing ++ [.fill s.core s.eng k r.claim.toNat]
          ∧ (∃ u, (t.engOf s.core s.eng).run = some u ∧ u.upc = s.runHere.upc + 1)
          ∧ ∀ p ∈ parts, ∀ j < p.2.1, t.aByte s.core s.eng (r.slotAt r.claim.toNat + p.1 + j) = BitVec.ofNat 8 (p.2.2.getD 0 / 256 ^ j))
      ∧ (d.getLsbD 6 = true → r.free = 0 → t.vecOf s.core s.eng = s.vHere ∧ t.ctxOf s.core s.eng = c
          ∧ ∃ u, (t.engOf s.core s.eng).run = some u ∧ u.upc = s.runHere.upc ∧ u.pend.isSome = true) := by
  dsimp only
  obtain ⟨⟨x, hx⟩, htook⟩ := s.takeSources_spec srcs
  generalize hc : (s.takeSources srcs).ctxOf s.core s.eng = c at htook ⊢
  generalize hσ : (s.takeSources srcs).setEng (s.takeSources srcs).core s.eng { (s.takeSources srcs).eHere with gen := g } = σ
  have hshape : ∃ en, σ = { s with ctxs := x, engs := en } := ⟨_, by rw [← hσ, hx]; rfl⟩
  have hσc : σ.ctxOf s.core s.eng = c := by rw [← hc, ← hσ]; rfl
  have he : σ.eHere = { s.eHere with gen := g } := by
    rw [← hσ, hx]
    exact State.engOf_setEng_same ..
  have hrun : σ.runHere = s.runHere := (congrArg (fun e : Eng => e.run.getD {}) he).trans rfl
  have heq : s.vecRetire srcs (opnd d 0 need) parts g = if (opnd d 0 need).chan then
        σ.vecPush (opnd d 0 need).idx (parts.flatMap fun p => (natBytes p.2.1 (p.2.2.getD 0)).zipIdx.map fun b => (p.1 + b.2, b.1))
      else (σ.setVec σ.core s.eng (σ.vHere.setReg (opnd d 0 need).idx (putParts (σ.vHere.reg (opnd d 0 need).idx) parts))).wordDone := by
    rw [← hσ]
    rfl
  clear hσ
  obtain ⟨en, hs⟩ := hshape
  have hcore : σ.core = s.core := by rw [hs]
  have heng : σ.eng = s.eng := by rw [hs]
  have hv : σ.vHere = s.vHere := by rw [hs]; rfl
  have hmem (τ : State) (h : τ.memByte = σ.memByte) : SameMemory s τ := fun a => by rw [h, hs]; rfl
  simp only [natBytes_places] at heq
  by_cases hch : d.getLsbD 6 = true
  · have hpush : s.vecRetire srcs (opnd d 0 need) parts g = σ.vecPush (d.toNat % 64) (placedBytes parts) := heq.trans (if_pos hch)
    unfold State.vecPush at hpush
    rw [hcore, heng] at hpush
    by_cases hfree : (c.ring (d.toNat % 64)).free = 0
    · have hnone : σ.pushSlot s.core s.eng (d.toNat % 64) (placedBytes parts) = none := by
        unfold State.pushSlot
        rw [hσc]
        exact if_pos hfree
      rw [hnone, hrun] at hpush
      refine ⟨_, hpush, hmem _ rfl, htook, fun h => absurd (h.symm.trans hch) Bool.false_ne_true, fun _ h => absurd hfree h, fun _ _ => ⟨?_, ?_, ?_⟩⟩
      · rw [hs]
        rfl
      · exact hσc
      · exact ⟨_, State.run_setRun hcore heng _, rfl, rfl⟩
    · obtain ⟨τ, a, x', hsome, hτ, ⟨la, hctx⟩, hbytes⟩ := pushSlot_spec σ s.core s.eng (d.toNat % 64) (placedBytes parts) (by rw [hσc]; exact hfree)
      rw [hsome] at hpush
      have hτcore : τ.core = s.core := by rw [hτ]; exact hcore
      have hτeng : τ.eng = s.eng := by rw [hτ]; exact heng
      have hτrun : τ.runHere = s.runHere := by rw [← hrun, hτ]; rfl
      rw [hσc] at hctx hbytes
      have hring : ((τ.ctxOf s.core s.eng).ring (d.toNat % 64)) = (c.ring (d.toNat % 64)).doClaim 1 := by
        rw [hctx]
        exact Tbl.get_set_same ..
      have hslot : need ≤ 64 * (c.ring (d.toNat % 64)).ssz := by
        unfold Ring.ssz
        rw [tookSources_entry htook]
        exact slotOk_need hok hch
      refine ⟨_, hpush, hmem _ (by rw [hτ]; rfl), htook, fun h => absurd (h.symm.trans hch) Bool.false_ne_true, fun _ _ => ⟨?_, ?_, ?_, ?_, ?_, ?_⟩,
        fun _ h => absurd h hfree⟩
      · rw [hτ, hs]
        rfl
      · exact (congrArg Ring.claim hring).trans rfl
      · exact (congrArg Ring.head hring).trans rfl
      · show τ.landing = _
        rw [hτ, hσc, hs]
      · exact ⟨_, State.run_setRun hτcore hτeng _, congrArg (·.upc + 1) hτrun⟩
      · intro p hp j hj
        rw [Nat.add_assoc]
        exact hbytes (placedBytes_nodup hapart) (fun b hb => lt_of_lt_of_le (placedBytes_lt hneed b hb) hslot) _ (mem_placedBytes hp hj)
  · have hset := heq.trans (if_neg hch)
    rw [hcore, hv] at hset
    have hvec (r : Run) : ((σ.setVec s.core s.eng (s.vHere.setReg (d.toNat % 64) (putParts (s.vHere.reg (d.toNat % 64)) parts))).setRun r).vecOf s.core s.eng
        = s.vHere.setReg (d.toNat % 64) (putParts (s.vHere.reg (d.toNat % 64)) parts) := Tbl.get_set_same ..
    exact ⟨_, hset, hmem _ rfl, htook, fun _ => ⟨hσc, hvec _, ⟨_, State.run_setRun (σ := σ.setVec s.core s.eng _) hcore heng _, congrArg (·.upc + 1) hrun⟩⟩,
      fun h => absurd h hch, fun h => absurd h hch⟩

/-- A word retires with elements of z bytes. -/
theorem State.vecRetire_spec (s : State) (srcs : List Opnd) (d : BitVec 7) (n z : Nat) (res : Nat → Option Nat) (g : BitVec 32) (P : Nat → Nat → Nat → Prop)
    (hok : (opnd d 0 (n * z)).slotOk (s.ctxOf s.core s.eng) = true)
    (hreg : d.getLsbD 6 = false → ∀ i < n, i * z + z ≤ 1024 → P i (elemAt (s.vHere.reg (d.toNat % 64)) z i) (stored z (res i) (elemAt (s.vHere.reg (d.toNat % 64)) z i)))
    (hslot : d.getLsbD 6 = true → n * z ≤ 1024 → ∀ i < n, P i 0 ((res i).getD 0 % 256 ^ z)) :
    ∃ t, s.vecRetire srcs (opnd d 0 (n * z)) (partsOf n z res) g = .next t ∧ vecLeaves s t srcs d n z P := by
  obtain ⟨t, ht, hmem, htook, hregister, hfree, hfull⟩ := s.vecRetire_parts srcs d (n * z) (partsOf n z res) g hok (partsOf_apart ..) partsOf_le
  refine ⟨t, ht, hmem, htook, fun hch => ?_, fun hch hf => ?_, hfull⟩
  · obtain ⟨hctx, hvec, hrun⟩ := hregister hch
    rw [hvec]
    refine ⟨hctx, rfl, rfl, fun j hj => VecCtx.setReg_other _ _ _ hj, fun i hi hfit => ?_, fun b hb => ?_, hrun⟩
    · unfold elemAt
      rw [VecCtx.setReg_reg _ _ _ hfit, getBytes_putParts _ _ (partsOf_apart ..) _ (mem_partsOf hi)]
      exact hreg hch i hi hfit
    · rcases Nat.lt_or_ge b 1024 with hlt | hge
      · exact (VecCtx.setReg_reg _ _ _ (by omega)).trans (getBytes_putParts_apart _ _ fun p hp => .inl ((partsOf_le p hp).trans hb))
      · exact (VecCtx.reg_above _ _ hge).trans (VecCtx.reg_above _ _ hge).symm
  · obtain ⟨hvec, hclaim, hhead, hland, hrun, hbytes⟩ := hfree hch hf
    refine ⟨hvec, hclaim, hhead, hland, hrun, fun hfit i hi => ⟨_, hslot hch hfit i hi, fun j hj => ?_⟩⟩
    rw [byte_mod _ hj]
    exact hbytes _ (mem_partsOf hi) j hj

/-! ### A word that issues -/

/-- A word that can issue takes the contents of its sources. -/
theorem vecWord_go {s : State} {srcs dst : List Opnd} (h : vecGo s srcs dst) {legal : Bool} (hlegal : legal = true) {o : Option Opnd} (ho : ∀ d, o = some d → d ∈ dst)
    (go : List Nat → Out) : s.vecWord legal srcs o go = go ((srcSlots [] srcs).map s.srcContent) := by
  obtain ⟨-, hvfl, hpend, hslots, hbeyond, hfull⟩ := h
  have hsrcs : srcs.all (fun q => q.slotOk (s.ctxOf s.core s.eng)) = true := List.all_eq_true.mpr fun q hq => hslots q (List.mem_append_left _ hq)
  unfold State.vecWord
  dsimp only
  rw [hpend, hlegal, hvfl]
  dsimp only
  rw [if_neg (by decide), if_neg (by decide), if_neg, if_pos hfull]
  rw [hbeyond, not_or]
  refine ⟨fun hn => ?_, Bool.false_ne_true⟩
  rw [hsrcs, Bool.true_and] at hn
  cases o with
  | none => exact Bool.false_ne_true hn
  | some d =>
    dsimp only at hn
    rw [hslots d (List.mem_append_right _ (ho d rfl))] at hn
    exact absurd hn (by decide)

theorem vecGo_dst {s : State} {srcs : List Opnd} {d : Opnd} (h : vecGo s srcs [d]) : d.slotOk (s.ctxOf s.core s.eng) = true := by
  obtain ⟨-, -, -, hslots, -, -⟩ := h
  exact hslots d (List.mem_append_right _ (List.mem_singleton_self d))

/-- The results over the active elements: for each of them one value, at some state of the generator. -/
theorem overActive_find (f : Nat → BitVec 32 → Nat × BitVec 32) (l : List Nat) (i : Nat) (g : BitVec 32) :
    (i ∈ l → ∃ k, Tbl.find? (overActive f l g).1 i = some (f i k).1) ∧ (i ∉ l → Tbl.find? (overActive f l g).1 i = none) := by
  induction l generalizing g with
  | nil => exact ⟨fun h => absurd h List.not_mem_nil, fun _ => rfl⟩
  | cons j l ih =>
    have hstep : Tbl.find? (overActive f (j :: l) g).1 i = if j = i then some (f j g).1 else Tbl.find? (overActive f l (f j g).2).1 i := rfl
    rw [hstep]
    obtain ⟨hin, hout⟩ := ih (f j g).2
    by_cases hj : j = i
    · subst hj
      rw [if_pos rfl]
      exact ⟨fun _ => ⟨g, rfl⟩, fun h => absurd List.mem_cons_self h⟩
    · rw [if_neg hj]
      exact ⟨fun h => hin ((List.mem_cons.mp h).resolve_left (Ne.symm hj)), fun h => hout fun hm => h (List.mem_cons_of_mem _ hm)⟩

theorem mem_actives {s : State} {g : BitVec 3} {i : Nat} (hi : i < s.vN) (hfit : i < 1024) : i ∈ s.actives g ↔ activeAt s g i = true := by
  unfold State.actives activeAt VecCtx.pred
  rw [List.mem_filter, List.mem_range]
  by_cases hg : g = 0
  · subst hg
    exact ⟨fun _ => rfl, fun _ => ⟨hi, (BitVec.getLsbD_allOnes ..).trans (decide_eq_true hfit)⟩⟩
  · have hg' : ¬g.toNat = 0 := fun h => hg (BitVec.eq_of_toNat_eq h)
    rw [if_neg hg', beq_eq_false_iff_ne.mpr hg, Bool.false_or]
    exact and_iff_right hi

theorem typeBytes_pos (t : Nat) : 0 < typeBits t / 8 := by
  unfold typeBits
  split
  · decide
  split
  · decide
  split
  · decide
  · decide

/-- A word retires with results for its active elements: each leaves its result, taken with its old value. -/
theorem vecRetire_found (s : State) (srcs : List Opnd) (d : BitVec 7) (g : BitVec 3) {z : Nat} (hz : 0 < z) (res : List (Nat × Nat)) (F : Nat → Nat → Nat → Prop)
    (hok : (opnd d 0 (s.vN * z)).slotOk (s.ctxOf s.core s.eng) = true)
    (hin : ∀ i, i < 1024 → i ∈ s.actives g → ∃ x, Tbl.find? res i = some x ∧ F i (elemAt (if d.getLsbD 6 then 0 else s.vHere.reg (d.toNat % 64)) z i) x)
    (hout : ∀ i, i ∉ s.actives g → Tbl.find? res i = none) (k : BitVec 32) :
    ∃ t, s.vecRetire srcs (opnd d 0 (s.vN * z)) (elemParts s.vN z res) k = .next t ∧ vecLeaves s t srcs d s.vN z (onActive s g z F) := by
  refine State.vecRetire_spec s srcs d s.vN z (fun i => Tbl.find? res i) k _ hok (fun hd i hi hfit => ?_) (fun hd hfit i hi => ?_)
  · rw [hd] at hin
    have hi1024 : i < 1024 := by
      have := Nat.le_mul_of_pos_right i hz
      omega
    unfold onActive
    split
    case isTrue ha =>
      obtain ⟨q, hq, hF⟩ := hin i hi1024 ((mem_actives hi hi1024).mpr ha)
      exact ⟨_, hF, by rw [hq]; rfl⟩
    case isFalse ha => rw [hout i fun h => ha ((mem_actives hi hi1024).mp h)]; rfl
  · rw [hd] at hin
    have hi1024 : i < 1024 := by
      have := Nat.le_mul_of_pos_right s.vN hz
      omega
    have hzero : elemAt 0 z i = 0 := by simp [elemAt, getBytes]
    unfold onActive
    split
    case isTrue ha =>
      obtain ⟨q, hq, hF⟩ := hin i hi1024 ((mem_actives hi hi1024).mpr ha)
      exact ⟨_, hzero ▸ hF, by rw [hq]; rfl⟩
    case isFalse ha =>
      rw [hout i fun h => ha ((mem_actives hi hi1024).mp h)]
      exact Nat.zero_mod _

/-- What an element-wise word leaves: the value of each active element, taken with the old one. -/
theorem vecRetire_active (s : State) (srcs : List Opnd) (d : BitVec 7) (g : BitVec 3) {z : Nat} (hz : 0 < z) (f : Nat → BitVec 32 → Nat × BitVec 32) (F : Nat → Nat → Nat → Prop)
    (hok : (opnd d 0 (s.vN * z)).slotOk (s.ctxOf s.core s.eng) = true)
    (hF : ∀ i k, F i (elemAt (if d.getLsbD 6 then 0 else s.vHere.reg (d.toNat % 64)) z i) (f i k).1) (gen k : BitVec 32) :
    ∃ t, s.vecRetire srcs (opnd d 0 (s.vN * z)) (elemParts s.vN z (overActive f (s.actives g) gen).1) k = .next t
      ∧ vecLeaves s t srcs d s.vN z (onActive s g z F) := by
  refine vecRetire_found s srcs d g hz _ F hok (fun i _ hi => ?_) (fun i => (overActive_find f _ i gen).2) k
  obtain ⟨q, hq⟩ := (overActive_find f _ i gen).1 hi
  exact ⟨_, hq, hF i q⟩

section Elem
variable {s : State} {d a b : BitVec 7} {x y : BitVec 1} {g : BitVec 3}

/-- An element-wise word of two sources. -/
theorem vElem_spec (hgo : vecGo s [opnd a x (s.vN * s.vZ), opnd b y (s.vN * s.vZ)] [opnd d 0 (s.vN * s.vZ)]) {legal : Bool} (hlegal : legal = true)
    (f : Nat → Nat → Nat → BitVec 32 → Nat × BitVec 32) (F : Nat → Nat → Nat → Prop)
    (hF : ∀ i k, F i (elemAt (if d.getLsbD 6 then 0 else s.vHere.reg (d.toNat % 64)) s.vZ i)
      (f (srcElem s [opnd a x (s.vN * s.vZ), opnd b y (s.vN * s.vZ)] 0 s.vZ i) (srcElem s [opnd a x (s.vN * s.vZ), opnd b y (s.vN * s.vZ)] 1 s.vZ i)
        (elemAt (if d.getLsbD 6 then 0 else s.vHere.reg (d.toNat % 64)) s.vZ i) k).1) :
    ∃ t, s.vElem legal d a b x y g f = .next t ∧ vecLeaves s t [opnd a x (s.vN * s.vZ), opnd b y (s.vN * s.vZ)] d s.vN s.vZ (onActive s g s.vZ F) := by
  unfold State.vElem
  dsimp only
  rw [vecWord_go hgo hlegal fun o ho => Option.some.inj ho ▸ List.mem_singleton_self _]
  exact vecRetire_active s _ d g (typeBytes_pos s.vT) _ F (vecGo_dst hgo) hF s.eHere.gen _

/-- An element-wise word of one source. -/
theorem vElem1_spec (hgo : vecGo s [opnd a x (s.vN * s.vZ)] [opnd d 0 (s.vN * s.vZ)]) {legal : Bool} (hlegal : legal = true)
    (f : Nat → BitVec 32 → Nat × BitVec 32) (F : Nat → Nat → Prop) (hF : ∀ i k, F i (f (srcElem s [opnd a x (s.vN * s.vZ)] 0 s.vZ i) k).1) :
    ∃ t, s.vElem1 legal d a x g f = .next t ∧ vecLeaves s t [opnd a x (s.vN * s.vZ)] d s.vN s.vZ (onActive s g s.vZ (fun i _ v => F i v)) := by
  unfold State.vElem1
  dsimp only
  rw [vecWord_go hgo hlegal fun o ho => Option.some.inj ho ▸ List.mem_singleton_self _]
  exact vecRetire_active s _ d g (typeBytes_pos s.vT) _ (fun i _ v => F i v) (vecGo_dst hgo) hF s.eHere.gen _

end Elem

end Sys2Proof.Machine
end

section
/-! ## O22: element-wise words of two sources -/
namespace Sys2Proof.Machine

/-! ### What the operations give on integer and on floating elements -/

section Ops
variable {t rm a b d : Nat} {f : FFmt} (g : BitVec 32)

theorem not_isInt (h : typeFmt t = some f) : ¬ isInt t = true := by
  unfold isInt
  rw [h]
  exact Bool.false_ne_true

theorem typeFmt_none (h : isInt t = true) : typeFmt t = none := Option.isNone_iff_eq_none.mp h

theorem elemNum_float (h : typeFmt t = some f) (w : Nat) : elemNum t w = f.decode w := by
  unfold elemNum
  rw [h]

theorem roundElem_float (h : typeFmt t = some f) (x : Num) : roundElem t rm x g = f.round x rm g := by
  unfold roundElem
  rw [h]

theorem addElem_int (h : isInt t = true) (sub : Bool) :
    (addElem sub t rm a b g).1 = wrapTo t (if sub then intOf t a - intOf t b else intOf t a + intOf t b) := congrArg Prod.fst (if_pos h)

theorem addElem_float (h : typeFmt t = some f) (sub : Bool) :
    addElem sub t rm a b g = f.round (Num.add rm (f.decode a) (if sub then (f.decode b).neg else f.decode b)) rm g := by
  unfold addElem
  rw [if_neg (not_isInt h), roundElem_float g h, elemNum_float h, elemNum_float h]

theorem mulElem_int (h : isInt t = true) : (mulElem t rm a b g).1 = wrapTo t (intOf t a * intOf t b) := congrArg Prod.fst (if_pos h)

theorem mulElem_float (h : typeFmt t = some f) : mulElem t rm a b g = f.round (Num.mul (f.decode a) (f.decode b)) rm g := by
  unfold mulElem
  rw [if_neg (not_isInt h), roundElem_float g h, elemNum_float h, elemNum_float h]

theorem fmaElem_int (h : isInt t = true) : (fmaElem t rm a b d g).1 = wrapTo t (intOf t a * intOf t b + intOf t d) := congrArg Prod.fst (if_pos h)

theorem fmaElem_float (h : typeFmt t = some f) : fmaElem t rm a b d g = f.round (Num.fma rm (f.decode a) (f.decode b) (f.decode d)) rm g := by
  unfold fmaElem
  rw [if_neg (not_isInt h), roundElem_float g h, elemNum_float h, elemNum_float h, elemNum_float h]

theorem minMaxElem_float (h : typeFmt t = some f) (isMin : Bool) : minMaxElem isMin t a b = f.rne (Num.minMax isMin (f.decode a) (f.decode b)) := by
  unfold minMaxElem
  rw [h]

theorem minElem_int (h : isInt t = true) : minMaxElem true t a b = if intOf t a ≤ intOf t b then a else b := by
  unfold minMaxElem
  rw [typeFmt_none h]
  simp

theorem maxElem_int (h : isInt t = true) : minMaxElem false t a b = if intOf t a ≤ intOf t b then b else a := by
  unfold minMaxElem
  rw [typeFmt_none h]
  by_cases hab : intOf t a ≤ intOf t b
  · simp [hab]
  · simp [hab]

end Ops

/-- An element-wise word of two sources, by the function that runs it. -/
theorem elementWise {s : State} {d a b : BitVec 7} {x y : BitVec 1} {g : BitVec 3} (hgo : vecGo s [opnd a x (s.vN * s.vZ), opnd b y (s.vN * s.vZ)] [opnd d 0 (s.vN * s.vZ)])
    {i : Instr} (run : State → Out) (hrun : exec i s = run s) {legal : Bool} {f : Nat → Nat → Nat → BitVec 32 → Nat × BitVec 32}
    (hword : run s = s.vElem legal d a b x y g f) (hlegal : legal = true) {F : Nat → Nat → Nat → Prop}
    (hF : ∀ i k, F i (elemAt (if d.getLsbD 6 then 0 else s.vHere.reg (d.toNat % 64)) s.vZ i)
      (f (srcElem s [opnd a x (s.vN * s.vZ), opnd b y (s.vN * s.vZ)] 0 s.vZ i) (srcElem s [opnd a x (s.vN * s.vZ), opnd b y (s.vN * s.vZ)] 1 s.vZ i)
        (elemAt (if d.getLsbD 6 then 0 else s.vHere.reg (d.toNat % 64)) s.vZ i) k).1) :
    ∃ t, exec i s = .next t ∧ vecLeaves s t [opnd a x (s.vN * s.vZ), opnd b y (s.vN * s.vZ)] d s.vN s.vZ (onActive s g s.vZ F) := by
  rw [hrun, hword]
  exact vElem_spec hgo hlegal f F hF

/-- Settles O22: each word is the element-wise word of its operation (`elementWise`). -/
theorem vectorArithmetic : Obligations.VectorArithmetic := by
  unfold Obligations.VectorArithmetic
  intro s d a b x y g z n T srcs A B gives int hgo
  refine ⟨fun hT => ?_, fun fm hfm => ?_, ?_, ?_, ?_, ?_, ?_, fun hT => ?_⟩
  · refine ⟨?_, ?_, ?_, ?_, ?_, ?_, ?_, ?_, fun hd => ?_⟩
    · exact elementWise hgo (execVadd d a b x y g) rfl rfl rfl fun i k => addElem_int k hT false
    · exact elementWise hgo (execVsub d a b x y g) rfl rfl rfl fun i k => addElem_int k hT true
    · exact elementWise hgo (execVmul d a b x y g) rfl rfl rfl fun i k => mulElem_int k hT
    · exact elementWise hgo (execVadds d a b x y g) rfl rfl hT fun i k => rfl
    · exact elementWise hgo (execVsubs d a b x y g) rfl rfl hT fun i k => rfl
    · exact elementWise hgo (execVmulh d a b x y g) rfl rfl hT fun i k => rfl
    · exact elementWise hgo (execVmin d a b x y g) rfl rfl rfl fun i k => minElem_int hT
    · exact elementWise hgo (execVmax d a b x y g) rfl rfl rfl fun i k => maxElem_int hT
    · exact elementWise hgo (execVfma d a b x y g) rfl rfl (by rw [hd]; rfl) fun i k => fmaElem_int k hT
  · refine ⟨?_, ?_, ?_, ?_, ?_, fun hd => ?_⟩
    · exact elementWise hgo (execVadd d a b x y g) rfl rfl rfl fun i k => ⟨k, congrArg Prod.fst (addElem_float k hfm false)⟩
    · exact elementWise hgo (execVsub d a b x y g) rfl rfl rfl fun i k => ⟨k, congrArg Prod.fst (addElem_float k hfm true)⟩
    · exact elementWise hgo (execVmul d a b x y g) rfl rfl rfl fun i k => ⟨k, congrArg Prod.fst (mulElem_float k hfm)⟩
    · exact elementWise hgo (execVmin d a b x y g) rfl rfl rfl fun i k => minMaxElem_float hfm true
    · exact elementWise hgo (execVmax d a b x y g) rfl rfl rfl fun i k => minMaxElem_float hfm false
    · exact elementWise hgo (execVfma d a b x y g) rfl rfl (by rw [hd]; rfl) fun i k => ⟨k, congrArg Prod.fst (fmaElem_float k hfm)⟩
  · exact elementWise hgo (execVand d a b x y g) rfl rfl rfl fun i k => rfl
  · exact elementWise hgo (execVor d a b x y g) rfl rfl rfl fun i k => rfl
  · exact elementWise hgo (execVxor d a b x y g) rfl rfl rfl fun i k => rfl
  · exact elementWise hgo (execVshl d a b x y g) rfl rfl rfl fun i k => rfl
  · exact elementWise hgo (execVshr d a b x y g) rfl rfl rfl fun i k => rfl
  · exact elementWise hgo (execVhash d a b x y g) rfl rfl (by rcases hT with h | h <;> simp [show s.vT = _ from h]) fun i k => rfl

end Sys2Proof.Machine
end

section
/-! ## O23: words of one source, immediates, selections, compares and predicates -/
namespace Sys2Proof.Machine

/-! ### Words whose elements draw nothing from the generator -/

theorem overActive_map (val : Nat → Nat) (l : List Nat) (g : BitVec 32) : (overActive (fun i k => (val i, k)) l g).1 = l.map fun i => (i, val i) := by
  induction l generalizing g with
  | nil => rfl
  | cons i l ih => exact congrArg (List.cons _) (ih g)

/-- What a word leaves whose value for each active element is given. -/
theorem vecRetire_mapped (s : State) (srcs : List Opnd) (d : BitVec 7) (g : BitVec 3) {z : Nat} (hz : 0 < z) (val : Nat → Nat)
    (hok : (opnd d 0 (s.vN * z)).slotOk (s.ctxOf s.core s.eng) = true) (gen : BitVec 32) :
    ∃ t, s.vecRetire srcs (opnd d 0 (s.vN * z)) (elemParts s.vN z ((s.actives g).map fun i => (i, val i))) gen = .next t
      ∧ vecLeaves s t srcs d s.vN z (onActive s g z (fun i _ v => v = val i)) := by
  rw [← overActive_map val (s.actives g) gen]
  exact vecRetire_active s srcs d g hz _ _ hok (fun i k => rfl) gen gen

/-- A word that can issue and whose value for each active element is given by the contents of its sources. -/
theorem mappedWord {s : State} {srcs : List Opnd} {d : BitVec 7} {g : BitVec 3} {z : Nat} {legal : Bool} {o : Option Opnd} (hz : 0 < z) (hlegal : legal = true)
    {dst : List Opnd} (ho : ∀ q, o = some q → q ∈ dst) (val : List Nat → Nat → Nat) (hgo : vecGo s srcs dst)
    (hok : (opnd d 0 (s.vN * z)).slotOk (s.ctxOf s.core s.eng) = true) :
    ∃ t, s.vecWord legal srcs o (fun cs => s.vecRetire srcs (opnd d 0 (s.vN * z)) (elemParts s.vN z ((s.actives g).map fun i => (i, val cs i))) s.eHere.gen) = .next t
      ∧ vecLeaves s t srcs d s.vN z (onActive s g z (fun i _ v => v = val ((srcSlots [] srcs).map s.srcContent) i)) := by
  rw [vecWord_go hgo hlegal ho]
  exact vecRetire_mapped s srcs d g hz _ hok _

theorem some_mem_singleton {q o : Opnd} (h : some o = some q) : q ∈ [o] := Option.some.inj h ▸ List.mem_singleton_self _

/-! ### The predicate of a word -/

theorem pred_activeAt (s : State) (g : BitVec 3) {j : Nat} (hj : j < 1024) : (s.vHere.pred g.toNat).getLsbD j = activeAt s g j := by
  unfold VecCtx.pred activeAt
  by_cases hg : g = 0
  · subst hg
    exact (BitVec.getLsbD_allOnes ..).trans (decide_eq_true hj)
  · have hg' : ¬g.toNat = 0 := fun h => hg (BitVec.eq_of_toNat_eq h)
    rw [if_neg hg', beq_eq_false_iff_ne.mpr hg, Bool.false_or]

/-- VSEL: every element takes one of its sources by the predicate. -/
theorem vselWord {s : State} {d a b : BitVec 7} {x y : BitVec 1} {g : BitVec 3}
    (hgo : vecGo s [opnd a x (s.vN * s.vZ), opnd b y (s.vN * s.vZ)] [opnd d 0 (s.vN * s.vZ)]) :
    ∃ t, exec (.vsel d a b x y g) s = .next t ∧ vecLeaves s t [opnd a x (s.vN * s.vZ), opnd b y (s.vN * s.vZ)] d s.vN s.vZ
      (fun i _ v => v = if activeAt s g i then srcElem s [opnd a x (s.vN * s.vZ), opnd b y (s.vN * s.vZ)] 0 s.vZ i
        else srcElem s [opnd a x (s.vN * s.vZ), opnd b y (s.vN * s.vZ)] 1 s.vZ i) := by
  have hz : 0 < s.vZ := typeBytes_pos s.vT
  have hval (cs : List Nat) (i : Nat) (hi : i < 1024) : elemAt (if (s.vHere.pred g.toNat).getLsbD i then cs.getD 0 0 else cs.getD 1 0) s.vZ i % 256 ^ s.vZ
      = if activeAt s g i then elemAt (cs.getD 0 0) s.vZ i else elemAt (cs.getD 1 0) s.vZ i := by
    rw [pred_activeAt s g hi]
    refine (Nat.mod_eq_of_lt (getBytes_lt ..)).trans ?_
    split <;> rfl
  show ∃ t, execVsel d a b x y g s = .next t ∧ _
  unfold execVsel
  dsimp only
  rw [vecWord_go hgo rfl fun _ => some_mem_singleton]
  refine s.vecRetire_spec _ d s.vN s.vZ _ s.eHere.gen _ (vecGo_dst hgo) (fun _ i hi hfit => hval _ i ?_) (fun _ hfit i hi => hval _ i ?_)
  · have := Nat.le_mul_of_pos_right i hz
    omega
  · have := Nat.le_mul_of_pos_right s.vN hz
    omega

/-- The number whose bits are the listed elements below n. -/
theorem listedBits (f : Nat → Bool) (n : Nat) :
    ((List.range n).filter f).foldl (fun a i => a + 2 ^ i) 0 < 2 ^ n
      ∧ ∀ j, (((List.range n).filter f).foldl (fun a i => a + 2 ^ i) 0).testBit j = (decide (j < n) && f j) := by
  induction n with
  | zero => exact ⟨Nat.one_pos, fun j => by simp⟩
  | succ n ih =>
    obtain ⟨hlt, hbit⟩ := ih
    rw [List.range_succ, List.filter_append, List.foldl_append]
    generalize ((List.range n).filter f).foldl (fun a i => a + 2 ^ i) 0 = w at hlt hbit
    cases hf : f n with
    | false =>
      rw [List.filter_cons_of_neg (by simp [hf])]
      refine ⟨hlt.trans (Nat.pow_lt_pow_right (by decide) (Nat.lt_succ_self n)), fun j => (hbit j).trans ?_⟩
      by_cases hj : j = n
      · rw [hj, hf, Bool.and_false, Bool.and_false]
      · rw [decide_eq_decide.mpr (show j < n ↔ j < n + 1 by omega)]
    | true =>
      rw [List.filter_cons_of_pos hf]
      have hsum : [n].foldl (fun a i => a + 2 ^ i) w = 2 ^ n + w := Nat.add_comm ..
      show ([n].foldl _ w) < _ ∧ _
      refine ⟨by rw [hsum, Nat.pow_succ]; omega, fun j => ?_⟩
      show ([n].foldl _ w).testBit j = _
      rw [hsum]
      rcases Nat.lt_trichotomy j n with hj | rfl | hj
      · rw [Nat.testBit_two_pow_add_gt hj, hbit, decide_eq_decide.mpr (show j < n ↔ j < n + 1 by omega)]
      · rw [Nat.testBit_two_pow_add_eq, Nat.testBit_lt_two_pow hlt, hf]
        simp
      · rw [Nat.testBit_lt_two_pow, decide_eq_false (by omega), Bool.false_and]
        exact lt_of_lt_of_le (by rw [Nat.pow_succ]; omega) (Nat.pow_le_pow_right (by decide) (show n + 1 ≤ j from hj))

/-- A word with a predicate for its destination: the tests of the active elements below LEN, every other bit clear. -/
theorem predicateWord {s : State} {srcs : List Opnd} (hgo : vecGo s srcs []) {d : BitVec 3} (hd : d ≠ 0) (g : BitVec 3) {i : Instr} (run : State → Out) (hrun : exec i s = run s)
    {legal : Bool} {h : List Nat → Nat → Bool} (hword : run s = s.vecWord legal srcs none fun cs => s.vecRetireP srcs d.toNat ((s.actives g).filter (h cs)))
    (hlegal : legal = true) {f : Nat → Bool} (hf : ∀ j < 1024, h ((srcSlots [] srcs).map s.srcContent) j = f j) :
    ∃ t, exec i s = .next t ∧ SameMemory s t ∧ tookSources s srcs (t.ctxOf s.core s.eng) ∧ (t.vecOf s.core s.eng).v = s.vHere.v
      ∧ (∀ j < 1024, (Tbl.get (t.vecOf s.core s.eng).p 0 d.toNat).getLsbD j = (decide (j < s.vN) && activeAt s g j && f j))
      ∧ (∀ r, r ≠ d.toNat → Tbl.get (t.vecOf s.core s.eng).p 0 r = Tbl.get s.vHere.p 0 r)
      ∧ ∃ u, (t.engOf s.core s.eng).run = some u ∧ u.upc = s.runHere.upc + 1 := by
  have hd0 : d.toNat ≠ 0 := fun h => hd (BitVec.eq_of_toNat_eq h)
  obtain ⟨⟨x, hx⟩, htook⟩ := s.takeSources_spec srcs
  rw [hrun, hword, vecWord_go hgo hlegal fun _ ho => absurd ho (by simp)]
  unfold State.vecRetireP State.actives
  rw [List.filter_filter]
  obtain ⟨-, hbit⟩ := listedBits (fun i => h ((srcSlots [] srcs).map s.srcContent) i && (s.vHere.pred g.toNat).getLsbD i) s.vN
  generalize List.foldl _ 0 _ = w at hbit ⊢
  generalize s.takeSources srcs = τ at hx htook
  have hcore : τ.core = s.core := by rw [hx]
  have heng : τ.eng = s.eng := by rw [hx]
  have hv : τ.vHere = s.vHere := by rw [hx]; rfl
  have hr : τ.runHere = s.runHere := by rw [hx]; rfl
  have hset : s.vHere.setPred d.toNat w = { s.vHere with p := Tbl.set s.vHere.p d.toNat (BitVec.ofNat 1024 w) } := if_neg hd0
  dsimp only
  rw [hv, hset, hcore]
  have hvec (r : Run) : ((τ.setVec s.core s.eng { s.vHere with p := Tbl.set s.vHere.p d.toNat (BitVec.ofNat 1024 w) }).setRun r).vecOf s.core s.eng
      = { s.vHere with p := Tbl.set s.vHere.p d.toNat (BitVec.ofNat 1024 w) } := Tbl.get_set_same ..
  refine ⟨_, rfl, fun a => ?_, htook, (congrArg VecCtx.v (hvec _)).trans rfl, fun j hj => ?_, fun r hr => ?_, ?_⟩
  · rw [hx]
    rfl
  · rw [congrArg VecCtx.p (hvec _)]
    show (Tbl.get (Tbl.set s.vHere.p d.toNat (BitVec.ofNat 1024 w)) 0 d.toNat).getLsbD j = _
    rw [Tbl.get_set_same, BitVec.getLsbD_ofNat, hbit, pred_activeAt s g hj, hf j hj, decide_eq_true hj, Bool.true_and, Bool.and_assoc, Bool.and_comm (f j)]
  · rw [congrArg VecCtx.p (hvec _)]
    exact Tbl.get_set_ne _ _ _ hr
  · exact ⟨_, State.run_setRun (σ := τ.setVec s.core s.eng _) hcore heng _, congrArg (·.upc + 1) hr⟩

/-! ### What the operations of one source give -/

section Ops
variable {t : Nat} {f : FFmt}

theorem immSigned_int (h : isInt t = true) (m : BitVec 9) : immSigned t m = wrapTo t m.toInt := by
  unfold immSigned
  rw [typeFmt_none h]

theorem immSigned_float (h : typeFmt t = some f) (m : BitVec 9) : immSigned t m = f.rne (.ofInt m.toInt 0) := by
  unfold immSigned
  rw [h]

theorem signElem_int (h : isInt t = true) (negate : Bool) (a : Nat) :
    signElem negate t a = wrapTo t (if negate then -(intOf t a) else ((intOf t a).natAbs : Int)) := by
  unfold signElem
  rw [typeFmt_none h]

theorem signElem_float (h : typeFmt t = some f) (negate : Bool) (a : Nat) :
    signElem negate t a = if (f.decode a).isNaN then f.canonNaN else if negate then a ^^^ 2 ^ (f.width - 1) else a % 2 ^ (f.width - 1) := by
  unfold signElem
  rw [h]

/-- The count of leading zero bits says between which powers of two the pattern lies. -/
theorem clzBits_spec (k a : Nat) : clzBits k a ≤ k ∧ (a < 2 ^ k → a < 2 ^ (k - clzBits k a) ∧ (clzBits k a < k → 2 ^ (k - clzBits k a - 1) ≤ a)) := by
  unfold clzBits
  by_cases ha : a = 0
  · rw [if_pos ha]
    exact ⟨Nat.le_refl k, fun _ => ⟨ha ▸ Nat.two_pow_pos _, fun h => absurd h (Nat.lt_irrefl k)⟩⟩
  · rw [if_neg ha]
    refine ⟨by omega, fun hlt => ?_⟩
    have hlog : a.log2 < k := (Nat.log2_lt ha).mpr hlt
    have hleft : k - (k - 1 - a.log2) = a.log2 + 1 := by omega
    rw [hleft]
    exact ⟨Nat.lt_log2_self, fun _ => Nat.log2_self_le ha⟩

theorem popBits_countP (k a : Nat) : popBits k a = (List.range k).countP fun j => a.testBit j := List.countP_eq_length_filter.symm

end Ops

/-- An element-wise word of one source, by the function that runs it. -/
theorem elementWise1 {s : State} {d a : BitVec 7} {x : BitVec 1} {g : BitVec 3} {i : Instr} (run : State → Out) (hrun : exec i s = run s) {legal : Bool}
    {f : Nat → BitVec 32 → Nat × BitVec 32} (hword : run s = s.vElem1 legal d a x g f) (hlegal : legal = true) {F : Nat → Nat → Prop}
    (hF : ∀ i k, F i (f (srcElem s [opnd a x (s.vN * s.vZ)] 0 s.vZ i) k).1) (hgo : vecGo s [opnd a x (s.vN * s.vZ)] [opnd d 0 (s.vN * s.vZ)]) :
    ∃ t, exec i s = .next t ∧ vecLeaves s t [opnd a x (s.vN * s.vZ)] d s.vN s.vZ (onActive s g s.vZ (fun i _ v => F i v)) := by
  rw [hrun, hword]
  exact vElem1_spec hgo hlegal f F hF

/-- EXP2, LOG2, RCP and RSQ. -/
theorem transcends {s : State} {d a : BitVec 7} {x : BitVec 1} {g : BitVec 3} {i : Instr} (op : Nat) (hrun : exec i s = s.vTrans op d a x g) (hT : isFloat s.vT = true)
    (hgo : vecGo s [opnd a x (s.vN * s.vZ)] [opnd d 0 (s.vN * s.vZ)]) :
    ∃ t, exec i s = .next t ∧ vecLeaves s t [opnd a x (s.vN * s.vZ)] d s.vN s.vZ
      (onActive s g s.vZ (fun i _ v => v = transcendental op s.vT (srcElem s [opnd a x (s.vN * s.vZ)] 0 s.vZ i))) := by
  rw [hrun]
  exact vElem1_spec hgo hT _ _ fun i k => rfl

/-- VSPLAT: every active element takes the immediate. -/
theorem splats {s : State} {d : BitVec 7} {m : BitVec 9} {g : BitVec 3} {q : Nat} (hq : immSigned s.vT m = q) (hgo : vecGo s [] [opnd d 0 (s.vN * s.vZ)]) :
    ∃ t, exec (.vsplat d m g) s = .next t ∧ vecLeaves s t [] d s.vN s.vZ (onActive s g s.vZ (fun _ _ v => v = q)) := by
  subst hq
  exact mappedWord (typeBytes_pos s.vT) rfl (fun _ => some_mem_singleton) (fun _ _ => immSigned s.vT m) hgo (vecGo_dst hgo)

/-- A compare sets its predicate to the test of each active element. -/
theorem compares {s : State} {d g : BitVec 3} {a b : BitVec 7} {x y : BitVec 1} {i : Instr} (hd : d ≠ 0)
    (hgo : vecGo s [opnd a x (s.vN * s.vZ), opnd b y (s.vN * s.vZ)] []) (op : Nat) (hrun : exec i s = s.vCmp op d a b x y g) {f : Nat → Bool}
    (hf : ∀ j, cmpNum op (elemNum s.vT (srcElem s [opnd a x (s.vN * s.vZ), opnd b y (s.vN * s.vZ)] 0 s.vZ j))
      (elemNum s.vT (srcElem s [opnd a x (s.vN * s.vZ), opnd b y (s.vN * s.vZ)] 1 s.vZ j)) = f j) :
    ∃ t, exec i s = .next t ∧ SameMemory s t ∧ tookSources s [opnd a x (s.vN * s.vZ), opnd b y (s.vN * s.vZ)] (t.ctxOf s.core s.eng)
      ∧ (t.vecOf s.core s.eng).v = s.vHere.v
      ∧ (∀ j < 1024, (Tbl.get (t.vecOf s.core s.eng).p 0 d.toNat).getLsbD j = (decide (j < s.vN) && activeAt s g j && f j))
      ∧ (∀ r, r ≠ d.toNat → Tbl.get (t.vecOf s.core s.eng).p 0 r = Tbl.get s.vHere.p 0 r)
      ∧ ∃ u, (t.engOf s.core s.eng).run = some u ∧ u.upc = s.runHere.upc + 1 :=
  predicateWord hgo hd g (fun s => s.vCmp op d a b x y g) hrun (legal := decide (d ≠ 0))
    (h := fun cs i => cmpNum op (elemNum s.vT (elemAt (cs.getD 0 0) s.vZ i)) (elemNum s.vT (elemAt (cs.getD 1 0) s.vZ i))) rfl (decide_eq_true hd) fun j _ => hf j

/-- VPLOG sets its predicate to the operation on its sources at each active element. -/
theorem predicateOp {s : State} {d p q g : BitVec 3} (hd : d ≠ 0) (hgo : vecGo s [] []) (o : BitVec 3) (ho : o.toNat ≤ 4) (hq : o.toNat ≠ 4 ∨ q = 0) {f : Nat → Bool}
    (hf : ∀ j, plogBit o.toNat (activeAt s p j) (activeAt s q j) = f j) :
    ∃ t, exec (.vplog d p o q g) s = .next t ∧ SameMemory s t ∧ tookSources s [] (t.ctxOf s.core s.eng) ∧ (t.vecOf s.core s.eng).v = s.vHere.v
      ∧ (∀ j < 1024, (Tbl.get (t.vecOf s.core s.eng).p 0 d.toNat).getLsbD j = (decide (j < s.vN) && activeAt s g j && f j))
      ∧ (∀ r, r ≠ d.toNat → Tbl.get (t.vecOf s.core s.eng).p 0 r = Tbl.get s.vHere.p 0 r)
      ∧ ∃ u, (t.engOf s.core s.eng).run = some u ∧ u.upc = s.runHere.upc + 1 := by
  have hlegal : (decide (d ≠ 0) && decide (o.toNat ≤ 4) && (decide (o.toNat ≠ 4) || decide (q = 0))) = true := by
    rw [decide_eq_true hd, decide_eq_true ho, Bool.true_and, Bool.true_and, Bool.or_eq_true]
    exact hq.imp decide_eq_true decide_eq_true
  refine predicateWord hgo hd g (execVplog d p o q g) rfl
    (h := fun _ i => plogBit o.toNat ((s.vHere.pred p.toNat).getLsbD i) ((s.vHere.pred q.toNat).getLsbD i)) rfl hlegal fun j hj => ?_
  rw [pred_activeAt s p hj, pred_activeAt s q hj]
  exact hf j

/-- The element that a VPERM picks: the one of a that b names, or 0. -/
def picked (n z : Nat) (cs : List Nat) (i : Nat) : Nat := if elemAt (cs.getD 1 0) z i < n then elemAt (cs.getD 0 0) z (elemAt (cs.getD 1 0) z i) else 0

/-- VPERM: every active element takes the one it names. -/
theorem permutes {s : State} {d a b : BitVec 7} {x y : BitVec 1} {g : BitVec 3}
    (hgo : vecGo s [opnd a x (s.vN * s.vZ), opnd b y (s.vN * s.vZ)] [opnd d 0 (s.vN * s.vZ)]) :
    ∃ t, exec (.vperm d a b x y g) s = .next t ∧ vecLeaves s t [opnd a x (s.vN * s.vZ), opnd b y (s.vN * s.vZ)] d s.vN s.vZ (onActive s g s.vZ
      (fun i _ v => v = if srcElem s [opnd a x (s.vN * s.vZ), opnd b y (s.vN * s.vZ)] 1 s.vZ i < s.vN
        then srcElem s [opnd a x (s.vN * s.vZ), opnd b y (s.vN * s.vZ)] 0 s.vZ (srcElem s [opnd a x (s.vN * s.vZ), opnd b y (s.vN * s.vZ)] 1 s.vZ i) else 0)) :=
  mappedWord (typeBytes_pos s.vT) rfl (fun _ => some_mem_singleton) (picked s.vN s.vZ) hgo (vecGo_dst hgo)

/-- Settles O23: the element-wise words by `elementWise1`, the others by `mappedWord`, `vselWord`, `compares` and `predicateOp`. -/
theorem vectorSinglesAndPredicates : Obligations.VectorSinglesAndPredicates := by
  unfold Obligations.VectorSinglesAndPredicates
  refine ⟨?_, ?_⟩
  · intro s d a b x y g m z n T one imm two A I A2 B2 gives k
    refine ⟨?_, fun hT => ⟨?_, ?_, ?_, ?_⟩, fun hT hsigned => ⟨?_, ?_⟩, fun fm hfm => ⟨?_, ?_⟩, fun hT => ⟨?_, ?_, ?_, ?_, ?_, ?_, ?_⟩,
      fun fm hfm => ⟨?_, ?_, ?_, ?_, ?_⟩, ?_, ?_, ?_, fun hm => ⟨?_, ?_⟩, ?_, vselWord⟩
    · exact elementWise1 (execVmov d a x g) rfl rfl rfl fun i k => rfl
    · exact transcends 0 rfl hT
    · exact transcends 1 rfl hT
    · exact transcends 2 rfl hT
    · exact transcends 3 rfl hT
    · exact elementWise1 (execVabs d a x g) rfl rfl (Bool.or_eq_true_iff.mpr (.inl hsigned)) fun i k => signElem_int hT false _
    · exact elementWise1 (execVneg d a x g) rfl rfl (Bool.or_eq_true_iff.mpr (.inl hsigned)) fun i k => signElem_int hT true _
    · exact elementWise1 (execVabs d a x g) rfl rfl (Bool.or_eq_true_iff.mpr (.inr (by simpa using not_isInt hfm))) fun i k => signElem_float hfm false _
    · exact elementWise1 (execVneg d a x g) rfl rfl (Bool.or_eq_true_iff.mpr (.inr (by simpa using not_isInt hfm))) fun i k => signElem_float hfm true _
    · exact elementWise1 (execVclz d a x g) rfl rfl hT fun i k => clzBits_spec (typeBits s.vT) (A i)
    · exact elementWise1 (execVpopc d a x g) rfl rfl hT fun i k => popBits_countP _ _
    · exact elementWise1 (execVaddi d a m g) rfl rfl rfl fun i k => (addElem_int k hT false).trans (by rw [immSigned_int hT]; rfl)
    · exact elementWise1 (execVmuli d a m g) rfl rfl rfl fun i k => (mulElem_int k hT).trans (by rw [immSigned_int hT])
    · exact elementWise1 (execVmini d a m g) rfl rfl rfl fun i k => (minElem_int hT).trans (by rw [immSigned_int hT])
    · exact elementWise1 (execVmaxi d a m g) rfl rfl rfl fun i k => (maxElem_int hT).trans (by rw [immSigned_int hT])
    · exact splats (immSigned_int hT m)
    · exact elementWise1 (execVaddi d a m g) rfl rfl rfl fun i k => ⟨k, congrArg Prod.fst ((addElem_float k hfm false).trans (by rw [immSigned_float hfm]; rfl))⟩
    · exact elementWise1 (execVmuli d a m g) rfl rfl rfl fun i k => ⟨k, congrArg Prod.fst ((mulElem_float k hfm).trans (by rw [immSigned_float hfm]))⟩
    · exact elementWise1 (execVmini d a m g) rfl rfl rfl fun i k => (minMaxElem_float hfm true).trans (by rw [immSigned_float hfm])
    · exact elementWise1 (execVmaxi d a m g) rfl rfl rfl fun i k => (minMaxElem_float hfm false).trans (by rw [immSigned_float hfm])
    · exact splats (immSigned_float hfm m)
    · exact elementWise1 (execVandi d a m g) rfl rfl rfl fun i k => rfl
    · exact elementWise1 (execVori d a m g) rfl rfl rfl fun i k => rfl
    · exact elementWise1 (execVxori d a m g) rfl rfl rfl fun i k => rfl
    · exact elementWise1 (execVshli d a m g) rfl rfl (decide_eq_true hm) fun i k => rfl
    · exact elementWise1 (execVshri d a m g) rfl rfl (decide_eq_true hm) fun i k => rfl
    · exact permutes
  · intro s d p q g a b x y z n T srcs A B pb sets hd
    refine ⟨fun hgo => ?_, fun hgo => ?_⟩
    · refine ⟨?_, ?_, ?_, ?_, ?_, ?_⟩
      · exact compares hd hgo 0 rfl fun j => rfl
      · exact compares hd hgo 1 rfl fun j => rfl
      · exact compares hd hgo 2 rfl fun j => rfl
      · exact compares hd hgo 3 rfl fun j => rfl
      · exact compares hd hgo 4 rfl fun j => rfl
      · exact compares hd hgo 5 rfl fun j => rfl
    · refine ⟨?_, ?_, ?_, ?_, ?_⟩
      · exact predicateOp hd hgo 0 (by decide) (.inl (by decide)) fun j => rfl
      · exact predicateOp hd hgo 1 (by decide) (.inl (by decide)) fun j => rfl
      · exact predicateOp hd hgo 2 (by decide) (.inl (by decide)) fun j => rfl
      · exact predicateOp hd hgo 3 (by decide) (.inl (by decide)) fun j => rfl
      · exact predicateOp hd hgo 4 (by decide) (.inr rfl) fun j => rfl

end Sys2Proof.Machine
end

section
/-! ## O24: folds over elements -/
namespace Sys2Proof.Machine

/-! ### Integer elements -/

theorem typeBits_bytes (t : Nat) : 256 ^ (typeBits t / 8) = 2 ^ typeBits t := by
  unfold typeBits
  split
  · decide
  split
  · decide
  split
  · decide
  · decide

theorem typeBits_pos (t : Nat) : 0 < typeBits t := by
  have := typeBytes_pos t
  omega

theorem typeFmt_width {t : Nat} {f : FFmt} (h : typeFmt t = some f) : f.width = typeBits t := by
  unfold typeFmt at h
  split at h
  case isTrue ht => rw [← Option.some.inj h, ht]; rfl
  split at h
  case isTrue ht => rw [← Option.some.inj h, ht]; rfl
  split at h
  case isTrue ht => rw [← Option.some.inj h, ht]; rfl
  split at h
  case isTrue ht => rw [← Option.some.inj h, ht]; rfl
  split at h
  case isTrue ht => rw [← Option.some.inj h, ht]; rfl
  case isFalse => exact absurd h (by simp)

theorem wrapTo_congr {t : Nat} {x y : Int} (h : x % 2 ^ typeBits t = y % 2 ^ typeBits t) : wrapTo t x = wrapTo t y := congrArg Int.toNat h

/-- The integer of a pattern stands for the pattern. -/
theorem wrapTo_intOf (t w : Nat) : wrapTo t (intOf t w) = w % 2 ^ typeBits t := by
  have h : intOf t w % 2 ^ typeBits t = ((w % 2 ^ typeBits t : Nat) : Int) % 2 ^ typeBits t := by
    unfold intOf
    dsimp only
    split
    · exact Int.sub_emod_right ..
    · rfl
  unfold wrapTo
  rw [h]
  norm_cast
  exact Nat.mod_mod ..

theorem wrapTo_mod (t : Nat) (x : Int) : wrapTo t x % 2 ^ typeBits t = wrapTo t x := by
  refine Nat.mod_eq_of_lt ?_
  have hlt : x % 2 ^ typeBits t < 2 ^ typeBits t := Int.emod_lt_of_pos x (by positivity)
  unfold wrapTo
  zify
  rw [Int.toNat_of_nonneg (Int.emod_nonneg x (by positivity))]
  exact hlt

theorem intOf_emod (t : Nat) {w : Nat} {x : Int} (h : wrapTo t (intOf t w) = wrapTo t x) : intOf t w % 2 ^ typeBits t = x % 2 ^ typeBits t := by
  unfold wrapTo at h
  have hp : (0 : Int) < 2 ^ typeBits t := by positivity
  have h1 := Int.emod_nonneg (intOf t w) hp.ne'
  have h2 := Int.emod_nonneg x hp.ne'
  omega

/-- The integers of a type lie between its bounds. -/
theorem intOf_bounds (t w : Nat) : typeMin t ≤ intOf t w ∧ intOf t w ≤ typeMax t := by
  obtain ⟨k, hk⟩ : ∃ k, typeBits t = k + 1 := ⟨typeBits t - 1, (Nat.succ_pred_eq_of_pos (typeBits_pos t)).symm⟩
  unfold intOf typeMin typeMax
  dsimp only
  rw [hk, Nat.add_sub_cancel]
  have hlt := Nat.mod_lt w (Nat.two_pow_pos (k + 1))
  generalize w % 2 ^ (k + 1) = v at hlt
  have hpow : (2 : Int) ^ (k + 1) = 2 * 2 ^ k := by ring
  have hlt' : (v : Int) < 2 * 2 ^ k := by rw [← hpow]; exact_mod_cast hlt
  rw [hpow]
  generalize hp : (2 : Int) ^ k = p at hlt'
  cases hs : typeSigned t with
  | false => simp; omega
  | true =>
    cases hb : v.testBit k with
    | true =>
      have hge : p ≤ v := by rw [← hp]; exact_mod_cast Nat.ge_two_pow_of_testBit hb
      simp only [true_and, if_true]
      omega
    | false =>
      have hlo : (v : Int) < p := by
        rw [← hp]
        by_contra hge
        have hge' : 2 ^ k ≤ v := by
          have : (2 : Int) ^ k ≤ v := by omega
          exact_mod_cast this
        obtain ⟨r, rfl⟩ := Nat.exists_eq_add_of_le hge'
        rw [Nat.testBit_two_pow_add_eq, Nat.testBit_lt_two_pow (by rw [Nat.pow_succ] at hlt; omega)] at hb
        exact Bool.noConfusion hb
      simp
      omega

/-! ### Folds of integers -/

/-- The fold of integers: their sum, or the least or the greatest of them. -/
def intFold (t p : Nat) (l : List Int) : Int :=
  match p with
  | 0 => l.sum
  | 1 => l.foldl min (typeMax t)
  | _ => l.foldl max (typeMin t)

/-- One step of a fold of integers. -/
def intStep (p : Nat) (x a : Int) : Int :=
  match p with
  | 0 => x + a
  | 1 => min x a
  | _ => max x a

theorem intFold_append (t p : Nat) (l : List Int) (a : Int) : intFold t p (l ++ [a]) = intStep p (intFold t p l) a := by
  match p with
  | 0 => exact List.sum_append.trans (congrArg (l.sum + ·) List.sum_singleton)
  | 1 => exact List.foldl_append
  | _ + 2 => exact List.foldl_append

/-- An element that stands for the fold of integers: a sum by its pattern, the others by their values. -/
def standsFor (t p w : Nat) (x : Int) : Prop :=
  match p with
  | 0 => wrapTo t (intOf t w) = wrapTo t x
  | _ => intOf t w = x

theorem standsFor_pattern {t p w : Nat} {x : Int} (h : standsFor t p w x) : w % 256 ^ (typeBits t / 8) = wrapTo t x := by
  rw [typeBits_bytes, ← wrapTo_intOf]
  match p, h with
  | 0, h => exact h
  | _ + 1, h => exact congrArg (wrapTo t) h

theorem standsFor_first (t p a : Nat) : standsFor t p a (intFold t p [intOf t a]) := by
  obtain ⟨hlo, hhi⟩ := intOf_bounds t a
  match p with
  | 0 => exact congrArg (wrapTo t) List.sum_singleton.symm
  | 1 => exact (min_eq_right hhi).symm
  | _ + 2 => exact (max_eq_right hlo).symm

theorem standsFor_step {s : State} (hT : isInt s.vT = true) {p acc a v : Nat} (hp : p ≤ 2) {x : Int} (hv : foldsTo s p acc a v) (h : standsFor s.vT p acc x) :
    standsFor s.vT p v (intStep p x (intOf s.vT a)) := by
  unfold foldsTo at hv
  rw [typeFmt_none hT] at hv
  match p, hp, hv, h with
  | 0, _, hv, h =>
    show wrapTo s.vT (intOf s.vT v) = wrapTo s.vT (x + intOf s.vT a)
    rw [wrapTo_intOf, show v = _ from hv, wrapTo_mod]
    exact wrapTo_congr (by rw [Int.add_emod, intOf_emod s.vT h, ← Int.add_emod])
  | 1, _, hv, h =>
    show intOf s.vT v = min x (intOf s.vT a)
    have h' : intOf s.vT acc = x := h
    rw [show v = _ from hv, ← h', min_def]
    split <;> rfl
  | 2, _, hv, h =>
    show intOf s.vT v = max x (intOf s.vT a)
    have h' : intOf s.vT acc = x := h
    rw [show v = _ from hv, ← h', max_def]
    split <;> rfl

/-- The running values of a fold of integers. -/
theorem foldsOver_int {s : State} (hT : isInt s.vT = true) {p : Nat} (hp : p ≤ 2) {l : List Nat} {run : Nat → Nat} (h : foldsOver s p l run) :
    ∀ k < l.length, standsFor s.vT p (run k) (intFold s.vT p ((l.take (k + 1)).map (intOf s.vT)))
  | 0, hk => by
    obtain ⟨h0, -⟩ := h
    rw [h0]
    match l, hk with
    | a :: l, _ => exact standsFor_first s.vT p a
  | k + 1, hk => by
    have ih := foldsOver_int hT hp h k (Nat.lt_of_succ_lt hk)
    obtain ⟨-, hstep⟩ := h
    have hget : l.getD (k + 1) 0 = l[k + 1] := List.getD_eq_getElem l 0 hk
    rw [← List.take_append_getElem hk, List.map_append, List.map_singleton, intFold_append, ← hget]
    exact standsFor_step hT hp (hstep k hk) ih

theorem foldNone_int {t p : Nat} (hT : isInt t = true) (hp : p ≤ 2) : foldNone t p % 256 ^ (typeBits t / 8) = wrapTo t (intFold t p []) := by
  unfold foldNone
  rw [typeFmt_none hT, typeBits_bytes]
  match p, hp with
  | 0, _ => exact (Nat.zero_mod _).trans (by simp [intFold, wrapTo])
  | 1, _ => exact wrapTo_mod ..
  | 2, _ => exact wrapTo_mod ..

/-! ### The folds of the model -/

theorem foldOp_foldsTo (s : State) (p acc a : Nat) (g : BitVec 32) : foldsTo s p acc a (foldOp p s.vT s.vRm acc a g).1 := by
  unfold foldsTo
  match p with
  | 0 =>
    show match typeFmt s.vT with | none => _ | some fm => _
    split
    case h_1 h => exact addElem_int g (Option.isNone_iff_eq_none.mpr h) false
    case h_2 fm h => exact ⟨g, congrArg Prod.fst (addElem_float g h false)⟩
  | 1 =>
    show match typeFmt s.vT with | none => _ | some fm => _
    split
    case h_1 h => exact minElem_int (Option.isNone_iff_eq_none.mpr h)
    case h_2 fm h => exact minMaxElem_float h true
  | 2 =>
    show match typeFmt s.vT with | none => _ | some fm => _
    split
    case h_1 h => exact maxElem_int (Option.isNone_iff_eq_none.mpr h)
    case h_2 fm h => exact minMaxElem_float h false
  | 3 => rfl
  | 4 => rfl
  | _ + 5 => rfl

theorem foldUnit_none (t p : Nat) : foldUnit p t = foldNone t p := by
  unfold foldUnit foldNone
  split
  case h_1 f h =>
    rw [h, typeFmt_width h]
    match p with
    | 0 => rfl
    | 1 => rfl
    | 2 => rfl
    | 3 => rfl
    | _ + 4 => rfl
  case h_2 h =>
    rw [h]
    match p with
    | 0 => rfl
    | 1 => rfl
    | 2 => rfl
    | 3 => rfl
    | _ + 4 => rfl

/-- The elements of a list with the running values of a fold. -/
def runPairs (l : List Nat) (run : Nat → Nat) : List (Nat × Nat) := l.mapIdx fun k i => (i, run k)

/-- The running values with a new first one. -/
def runCons (x : Nat) (run : Nat → Nat) : Nat → Nat
  | 0 => x
  | k + 1 => run k

/-- The folds that go on from a value. -/
theorem runFolds_from (s : State) (p : Nat) (A : Nat → Nat) : ∀ (l : List Nat) (acc : Nat) (g : BitVec 32),
    ∃ run, (∀ k < l.length, foldsTo s p (runCons acc run k) (A (l.getD k 0)) (run k))
      ∧ (runFolds p s.vT s.vRm (l.map fun i => (i, A i)) (some acc) g).1 = runPairs l run
  | [], acc, g => ⟨fun _ => 0, fun k hk => absurd hk (Nat.not_lt_zero k), rfl⟩
  | i :: l, acc, g => by
    obtain ⟨run, hrun, heq⟩ := runFolds_from s p A l (foldOp p s.vT s.vRm acc (A i) g).1 (foldOp p s.vT s.vRm acc (A i) g).2
    refine ⟨runCons (foldOp p s.vT s.vRm acc (A i) g).1 run, fun k hk => ?_, ?_⟩
    · match k with
      | 0 => exact foldOp_foldsTo s p acc (A i) g
      | k + 1 => exact hrun k (Nat.lt_of_succ_lt_succ hk)
    · unfold runPairs
      rw [List.mapIdx_cons]
      exact congrArg (List.cons _) heq

/-- The folds over the elements of a list are their running values. -/
theorem runFolds_spec (s : State) (p : Nat) (A : Nat → Nat) (l : List Nat) (g : BitVec 32) :
    ∃ run, foldsOver s p (l.map A) run ∧ (runFolds p s.vT s.vRm (l.map fun i => (i, A i)) none g).1 = runPairs l run := by
  match l with
  | [] => exact ⟨fun _ => 0, ⟨rfl, fun k hk => absurd hk (Nat.not_lt_zero _)⟩, rfl⟩
  | i :: l =>
    obtain ⟨run, hrun, heq⟩ := runFolds_from s p A l (A i) g
    refine ⟨runCons (A i) run, ⟨rfl, fun k hk => ?_⟩, ?_⟩
    · have hk' : k < l.length := by simpa using hk
      have hget : ((i :: l).map A).getD (k + 1) 0 = A (l.getD k 0) := by
        rw [List.getD_eq_getElem _ _ hk, List.getD_eq_getElem _ _ hk']
        simp
      rw [hget]
      exact hrun k hk'
    · unfold runPairs
      rw [List.mapIdx_cons]
      exact congrArg (List.cons _) heq

theorem runPairs_last (l : List Nat) (run : Nat → Nat) : (runPairs l run).getLast?.map (fun q => q.2) = if l = [] then none else some (run (l.length - 1)) := by
  unfold runPairs
  rw [List.getLast?_eq_getElem?, List.length_mapIdx, List.getElem?_mapIdx]
  match l with
  | [] => rfl
  | i :: l => simp

/-- In a rising list an element has the running value of its place. -/
theorem runPairs_find : ∀ (l : List Nat) (run : Nat → Nat), l.Pairwise (· < ·) → ∀ i,
    Tbl.find? (runPairs l run) i = if i ∈ l then some (run (l.filter (· < i)).length) else none
  | [], _, _, _ => rfl
  | a :: l, run, h, i => by
    obtain ⟨ha, hl⟩ := List.pairwise_cons.mp h
    have hstep : Tbl.find? (runPairs (a :: l) run) i = if a = i then some (run 0) else Tbl.find? (runPairs l fun k => run (k + 1)) i := by
      unfold runPairs
      rw [List.mapIdx_cons]
      rfl
    rw [hstep, runPairs_find l _ hl i]
    by_cases hi : a = i
    · subst hi
      have hnone : (a :: l).filter (· < a) = [] := List.filter_eq_nil_iff.mpr fun x hx => by
        rcases List.mem_cons.mp hx with rfl | hx
        · simp
        · simpa using (ha x hx).le
      rw [if_pos rfl, if_pos List.mem_cons_self, hnone]
      rfl
    · rw [if_neg hi]
      by_cases hm : i ∈ l
      · rw [if_pos hm, if_pos (List.mem_cons_of_mem _ hm), List.filter_cons_of_pos (by simpa using ha i hm)]
        rfl
      · rw [if_neg hm, if_neg fun h => (List.mem_cons.mp h).elim (fun h => hi h.symm) hm]

/-- In a rising list the elements up to one are those before it and itself. -/
theorem rising_take : ∀ (l : List Nat), l.Pairwise (· < ·) → ∀ i ∈ l,
    (l.filter (· < i)).length < l.length ∧ l.take ((l.filter (· < i)).length + 1) = l.filter (· ≤ i)
  | [], _, _, hi => absurd hi List.not_mem_nil
  | a :: l, h, i, hi => by
    obtain ⟨ha, hl⟩ := List.pairwise_cons.mp h
    rcases List.mem_cons.mp hi with rfl | hi
    · have hnone : (i :: l).filter (· < i) = [] := List.filter_eq_nil_iff.mpr fun x hx => by
        rcases List.mem_cons.mp hx with rfl | hx
        · simp
        · simpa using (ha x hx).le
      have hrest : l.filter (· ≤ i) = [] := List.filter_eq_nil_iff.mpr fun x hx => by simpa using ha x hx
      rw [hnone, List.filter_cons_of_pos (by simp), hrest]
      exact ⟨Nat.succ_pos _, rfl⟩
    · obtain ⟨hlen, htake⟩ := rising_take l hl i hi
      rw [List.filter_cons_of_pos (by simpa using ha i hi), List.filter_cons_of_pos (by simpa using (ha i hi).le)]
      exact ⟨Nat.succ_lt_succ hlen, congrArg (List.cons a) htake⟩

end Sys2Proof.Machine
end

section
/-! ## O24: conversions, blocks, shuffles, reductions and scans -/
namespace Sys2Proof.Machine

/-! ### Codes of a block -/

theorem q4floor_le {t m : Nat} {k : Int} (h : magLe (q4max t) (-3) m k = false) : q4floor t m k ≤ 6 := by
  have hsplit : ([1, 2, 3, 4, 5, 6, 7] : List Nat) = [1, 2, 3, 4, 5, 6] ++ [7] := rfl
  have hlast : ([7] : List Nat).filter (fun c => magLe (q4mag8 t c) (-3) m k) = [] := List.filter_cons_of_neg (by
    rw [show magLe (q4mag8 t 7) (-3) m k = false from h]
    decide)
  unfold q4floor
  rw [hsplit, List.filter_append, hlast, List.append_nil]
  exact List.length_filter_le ..

theorem signedCode_lt (neg : Bool) (t : Nat) {c : Nat} (hc : c ≤ 7) : (if c = 0 then 0 else if neg then (if t = 0 then 16 - c else 8 + c) else c) < 16 := by
  split
  · decide
  split
  · split <;> omega
  · omega

theorem ite_fst_lt {c : Prop} [Decidable c] {a b : Nat × BitVec 32} {n : Nat} (ha : c → a.1 < n) (hb : ¬c → b.1 < n) : (if c then a else b).1 < n := by
  split
  · exact ha ‹_›
  · exact hb ‹_›

theorem ite_le {c : Prop} [Decidable c] {a b n : Nat} (ha : a ≤ n) (hb : b ≤ n) : (if c then a else b) ≤ n := by
  split
  · exact ha
  · exact hb

theorem q4code_lt (t e mode : Nat) (x : Num) (g : BitVec 32) : (q4code t e mode x g).1 < 16 := by
  cases x with
  | nan => exact Nat.zero_lt_succ _
  | inf neg =>
    show (if neg then (if t = 0 then 9 else 15) else 7) < 16
    split
    · split <;> decide
    · decide
  | fin neg m f =>
    unfold q4code
    refine ite_fst_lt (fun _ => Nat.zero_lt_succ 15) fun _ => ite_fst_lt (fun _ => Nat.zero_lt_succ 15) fun _ => ite_fst_lt (fun _ => signedCode_lt neg t (Nat.le_refl 7)) fun hmax => ?_
    have hle := q4floor_le (Bool.eq_false_iff.mpr hmax)
    refine ite_fst_lt (fun _ => signedCode_lt neg t (hle.trans (by decide))) fun _ => signedCode_lt neg t (ite_le (Nat.succ_le_succ hle) (hle.trans (by decide)))

theorem q4codes_lt (t e mode : Nat) : ∀ (xs : List Num) (g : BitVec 32), ∀ c ∈ (q4codes t e mode xs g).1, c < 16
  | [], _, _, hc => absurd hc List.not_mem_nil
  | x :: xs, g, c, hc => by
    have hcons : (q4codes t e mode (x :: xs) g).1 = (q4code t e mode x g).1 :: (q4codes t e mode xs (q4code t e mode x g).2).1 := rfl
    rw [hcons] at hc
    rcases List.mem_cons.mp hc with rfl | hc
    · exact q4code_lt ..
    · exact q4codes_lt t e mode xs _ c hc

/-- The codes of a block, four bits each, the first lowest. -/
def codesOf (l : List Nat) : Nat := l.zipIdx.foldl (fun a p => a + p.1 * 16 ^ p.2) 0

theorem codesOf_eq (l : List Nat) : codesOf l = Nat.ofDigits 16 l := by
  have h : ∀ (l : List Nat) (n a : Nat), (l.zipIdx n).foldl (fun a p => a + p.1 * 16 ^ p.2) a = a + 16 ^ n * Nat.ofDigits 16 l := by
    intro l
    induction l with
    | nil => intro n a; simp [Nat.ofDigits]
    | cons x l ih =>
      intro n a
      rw [List.zipIdx_cons, List.foldl_cons, ih, Nat.ofDigits_cons, Nat.pow_succ]
      push_cast
      ring
  exact (h l 0 0).trans (by simp)

/-- Each code stands at its place. -/
theorem codesOf_digit {l : List Nat} (h : ∀ c ∈ l, c < 16) : ∀ i, codesOf l / 16 ^ i % 16 = l.getD i 0 := by
  rw [codesOf_eq]
  induction l with
  | nil => intro i; simp [Nat.ofDigits]
  | cons x l ih =>
    obtain ⟨hx, hl⟩ := List.forall_mem_cons.mp h
    intro i
    rw [Nat.ofDigits_cons]
    match i with
    | 0 =>
      rw [pow_zero, Nat.div_one, Nat.add_mul_mod_self_left, Nat.mod_eq_of_lt hx]
      rfl
    | i + 1 =>
      rw [Nat.pow_succ, Nat.mul_comm (16 ^ i) 16, ← Nat.div_div_eq_div_mul, Nat.add_mul_div_left _ _ (by decide), Nat.div_eq_of_lt hx, Nat.zero_add]
      exact ih hl i

/-- A byte of codes holds two of them. -/
theorem codesOf_byte {l : List Nat} (h : ∀ c ∈ l, c < 16) (i : Nat) :
    BitVec.ofNat 8 (codesOf l / 256 ^ i) = BitVec.ofNat 8 (l.getD (2 * i) 0 % 16 + 16 * (l.getD (2 * i + 1) 0 % 16)) := by
  rw [← codesOf_digit h, ← codesOf_digit h, show (256 : Nat) ^ i = 16 ^ (2 * i) by rw [Nat.pow_mul], Nat.pow_succ, ← Nat.div_div_eq_div_mul]
  generalize codesOf l / 16 ^ (2 * i) = w
  refine BitVec.eq_of_toNat_eq ?_
  rw [BitVec.toNat_ofNat, BitVec.toNat_ofNat]
  omega

theorem nibble_mod (w : Nat) {i m : Nat} (h : i < m) : w % 16 ^ m / 16 ^ i % 16 = w / 16 ^ i % 16 := by
  obtain ⟨r, rfl⟩ := Nat.exists_eq_add_of_lt h
  rw [show i + r + 1 = i + (r + 1) from rfl, Nat.pow_add, Nat.mod_mul_right_div_self, Nat.mod_mod_of_dvd _ (dvd_pow_self 16 (Nat.succ_ne_zero r))]

/-- The code i of the block j of a register. -/
theorem register_nibble (w : Nat) (j : Nat) {i : Nat} (hi : i < 32) : w / 16 ^ (32 * j + i) % 16 = getBytes w (16 * j) 16 / 16 ^ i % 16 := by
  unfold getBytes
  rw [show (256 : Nat) ^ 16 = 16 ^ 32 by decide, nibble_mod _ hi, Nat.div_div_eq_div_mul, Nat.pow_add, show (256 : Nat) ^ (16 * j) = 16 ^ (32 * j) by
    rw [show (256 : Nat) = 16 ^ 2 by decide, ← Nat.pow_mul]
    congr 1
    omega]

/-! ### The blocks of VQNT -/

/-- The encoding of the block j at a state of the generator. -/
def blockCode (t z A q mode j : Nat) (k : BitVec 32) : List Nat × Nat × BitVec 32 := q4encode ((List.range 32).map fun i => elemNum t (elemAt A z (32 * j + i))) q mode k

theorem blockCode_lt (t z A q mode j : Nat) (k : BitVec 32) : ∀ c ∈ (blockCode t z A q mode j k).1, c < 16 := by
  unfold blockCode q4encode
  exact q4codes_lt _ _ _ _ _

/-- The encoded blocks: each listed one with its codes and its scale, at some state of the generator. -/
theorem qntBlocks_find (t z A q mode : Nat) : ∀ (l : List Nat) (g : BitVec 32) (j : Nat),
    (j ∈ l → ∃ k, Tbl.find? (qntBlocks t z A q mode l g).1 j = some (codesOf (blockCode t z A q mode j k).1, (blockCode t z A q mode j k).2.1))
      ∧ (j ∉ l → Tbl.find? (qntBlocks t z A q mode l g).1 j = none)
  | [], _, _ => ⟨fun h => absurd h List.not_mem_nil, fun _ => rfl⟩
  | i :: l, g, j => by
    have hstep : Tbl.find? (qntBlocks t z A q mode (i :: l) g).1 j = if i = j then some (codesOf (blockCode t z A q mode i g).1, (blockCode t z A q mode i g).2.1)
        else Tbl.find? (qntBlocks t z A q mode l (blockCode t z A q mode i g).2.2).1 j := rfl
    rw [hstep]
    obtain ⟨hin, hout⟩ := qntBlocks_find t z A q mode l (blockCode t z A q mode i g).2.2 j
    by_cases hj : i = j
    · subst hj
      rw [if_pos rfl]
      exact ⟨fun _ => ⟨g, rfl⟩, fun h => absurd List.mem_cons_self h⟩
    · rw [if_neg hj]
      exact ⟨fun h => hin ((List.mem_cons.mp h).resolve_left (Ne.symm hj)), fun h => hout fun hm => h (List.mem_cons_of_mem _ hm)⟩

/-- The parts of n blocks: the codes of each, and its scale. -/
def blockParts (m : Nat) (res : Nat → Option (Nat × Nat)) : List VPart :=
  (List.range m).flatMap fun j => [(16 * j, 16, (res j).map fun r => r.1), (512 + j, 1, (res j).map fun r => r.2)]

theorem mem_blockParts {m j : Nat} (res : Nat → Option (Nat × Nat)) (hj : j < m) :
    (16 * j, 16, (res j).map fun r => r.1) ∈ blockParts m res ∧ (512 + j, 1, (res j).map fun r => r.2) ∈ blockParts m res :=
  ⟨List.mem_flatMap.mpr ⟨j, List.mem_range.mpr hj, List.mem_cons_self⟩,
    List.mem_flatMap.mpr ⟨j, List.mem_range.mpr hj, List.mem_cons_of_mem _ (List.mem_singleton_self _)⟩⟩

theorem blockParts_le {m : Nat} (hm : m ≤ 32) (res : Nat → Option (Nat × Nat)) : ∀ p ∈ blockParts m res, p.1 + p.2.1 ≤ 512 + m := by
  intro p hp
  obtain ⟨j, hj, hp⟩ := List.mem_flatMap.mp hp
  rw [List.mem_range] at hj
  rcases List.mem_cons.mp hp with rfl | hp
  · show 16 * j + 16 ≤ 512 + m
    omega
  · rw [List.mem_singleton.mp hp]
    show 512 + j + 1 ≤ 512 + m
    omega

theorem blockParts_apart {m : Nat} (hm : m ≤ 32) (res : Nat → Option (Nat × Nat)) : (blockParts m res).Pairwise apart := by
  refine List.pairwise_flatMap.mpr ⟨fun j hj => ?_, ?_⟩
  · rw [List.mem_range] at hj
    refine List.pairwise_pair.mpr (.inl ?_)
    show 16 * j + 16 ≤ 512 + j
    omega
  · refine (List.pairwise_lt_range.imp_of_mem fun {i j} hi hj hij => ?_)
    rw [List.mem_range] at hi hj
    intro p hp q hq
    rcases List.mem_cons.mp hp with rfl | hp <;> rcases List.mem_cons.mp hq with rfl | hq
    · exact .inl (show 16 * i + 16 ≤ 16 * j by omega)
    · rw [List.mem_singleton.mp hq]
      exact .inl (show 16 * i + 16 ≤ 512 + j by omega)
    · rw [List.mem_singleton.mp hp]
      exact .inr (show 16 * j + 16 ≤ 512 + i by omega)
    · rw [List.mem_singleton.mp hp, List.mem_singleton.mp hq]
      exact .inl (show 512 + i + 1 ≤ 512 + j by omega)

end Sys2Proof.Machine
end

section
/-! ## O24: what each conversion, shuffle, reduction and scan leaves -/
namespace Sys2Proof.Machine

/-! ### VCVT and VDQ -/

/-- VCVT: every active element is converted. -/
theorem converts {s : State} {d a : BitVec 7} {m g : BitVec 3} {ty : BitVec 4} {x : BitVec 1} (hm : m.toNat ≤ 4) (hty : ty.toNat ≤ 10)
    (hfit : s.vN * (typeBits ty.toNat / 8) ≤ 1024) (hgo : vecGo s [opnd a x (s.vN * s.vZ)] [opnd d 0 (s.vN * (typeBits ty.toNat / 8))]) :
    ∃ t, exec (.vcvt d a m ty x g) s = .next t ∧ vecLeaves s t [opnd a x (s.vN * s.vZ)] d s.vN (typeBits ty.toNat / 8)
      (onActive s g (typeBits ty.toNat / 8) (fun i _ v => ∃ k, v = (convert s.vT ty.toNat (srcElem s [opnd a x (s.vN * s.vZ)] 0 s.vZ i) m.toNat k).1)) := by
  have hlegal : (decide (m.toNat ≤ 4) && decide (ty.toNat ≤ 10) && decide (s.vN * (typeBits ty.toNat / 8) ≤ 1024)) = true := by
    rw [decide_eq_true hm, decide_eq_true hty, decide_eq_true hfit]
    rfl
  show ∃ t, execVcvt d a m ty x g s = .next t ∧ _
  unfold execVcvt
  dsimp only
  rw [vecWord_go hgo hlegal fun _ => some_mem_singleton]
  exact vecRetire_active s _ d g (typeBytes_pos _) _ _ (vecGo_dst hgo) (fun i k => ⟨k, rfl⟩) _ _

theorem brainOrSingle {t : Nat} (h : t = 7 ∨ t = 8) : ∃ f, typeFmt t = some f := by
  rcases h with rfl | rfl
  · exact ⟨bf16, rfl⟩
  · exact ⟨fp32, rfl⟩

theorem blockOk_of {s : State} (hT : s.vT = 7 ∨ s.vT = 8) (hn : s.vN % 32 = 0) : s.blockOk = true := by
  unfold State.blockOk
  rw [decide_eq_true hn, Bool.and_true, Bool.or_eq_true]
  exact hT.symm.imp decide_eq_true decide_eq_true

/-- The value of an element of a block, from the contents of codes and scales. -/
def blockValue (f : FFmt) (cs : List Nat) (i : Nat) : Nat := f.rne (q4num (getBytes (cs.getD 1 0) (512 + i / 32) 1) (cs.getD 0 0 / 16 ^ i % 16))

/-- VDQ: every active element takes the exact value of its code and scale. -/
theorem decodes {s : State} {d a b : BitVec 7} {x y : BitVec 1} {g : BitVec 3} (hT : s.vT = 7 ∨ s.vT = 8) (hn : s.vN % 32 = 0)
    (hgo : vecGo s [opnd a x (s.vN / 2), opnd b y (512 + s.vN / 32)] [opnd d 0 (s.vN * s.vZ)]) :
    ∃ t, exec (.vdq d a b x y g) s = .next t ∧ vecLeaves s t [opnd a x (s.vN / 2), opnd b y (512 + s.vN / 32)] d s.vN s.vZ (onActive s g s.vZ (fun i _ v =>
      ∃ f, typeFmt s.vT = some f ∧ v = blockValue f ((srcSlots [] [opnd a x (s.vN / 2), opnd b y (512 + s.vN / 32)]).map s.srcContent) i)) := by
  obtain ⟨f, hf⟩ := brainOrSingle hT
  show ∃ t, execVdq d a b x y g s = .next t ∧ _
  unfold execVdq
  dsimp only
  rw [vecWord_go hgo (blockOk_of hT hn) fun _ => some_mem_singleton, hf]
  refine vecRetire_found s _ d g (typeBytes_pos _) _ _ (vecGo_dst hgo) (fun i _ hi => ?_) (fun i hi => ?_) _
  · refine ⟨_, ?_, f, rfl, rfl⟩
    obtain ⟨k, hk⟩ := (overActive_find _ (s.actives g) i 0).1 hi
    exact (congrArg (Tbl.find? · i) (overActive_map _ _ 0).symm).trans hk
  · exact (congrArg (Tbl.find? · i) (overActive_map _ _ 0).symm).trans ((overActive_find _ (s.actives g) i 0).2 hi)

/-! ### VSHUF -/

theorem vecRetire_regOpnd (s : State) (srcs : List Opnd) (d6 : BitVec 6) (need : Nat) (parts : List VPart) (k : BitVec 32) :
    s.vecRetire srcs (regOpnd d6) parts k = s.vecRetire srcs (opnd (d6.zeroExtend 7) 0 need) parts k := by
  have hch : (opnd (d6.zeroExtend 7) 0 need).chan = (regOpnd d6).chan := by
    show (d6.zeroExtend 7).getLsbD 6 = false
    rw [BitVec.zeroExtend, BitVec.getLsbD_setWidth, BitVec.getLsbD_of_ge _ _ (Nat.le_refl 6), Bool.and_false]
  have hidx : (opnd (d6.zeroExtend 7) 0 need).idx = (regOpnd d6).idx := by
    show (d6.zeroExtend 7).toNat % 64 = d6.toNat
    have := d6.isLt
    rw [BitVec.zeroExtend, BitVec.toNat_setWidth]
    omega
  unfold State.vecRetire
  rw [hch, hidx]

/-- The element that a shuffle of a kind takes (R241). -/
def shuffled (P D : Nat → Nat) (n k h i : Nat) : Nat :=
  if k = 0 then (if i % 2 = 0 then P (i / 2) else D (i / 2))
  else if k = 1 then (if i % 2 = 0 then P (n / 2 + i / 2) else D (n / 2 + i / 2))
  else if k = 2 then (if i < n / 2 then P (2 * i) else D (2 * i - n))
  else if k = 3 then (if i < n / 2 then P (2 * i + 1) else D (2 * i + 1 - n))
  else if k = 4 then P ((i + h) % n)
  else P (n - 1 - i)

theorem shufElem_shuffled {k n : Nat} (h z A D i : Nat) (hk : 4 ≤ k ∨ n % 2 = 0) : shufElem k h n z A D i = shuffled (elemAt A z) (elemAt D z) n k h i := by
  unfold shufElem shuffled
  by_cases h3 : k = 3
  · subst h3
    by_cases hi : i < n / 2
    · simp [hi]
    · have heq : 2 * i - n + 1 = 2 * i + 1 - n := by omega
      simp [hi, heq]
  · rw [if_neg h3, if_neg h3]

/-- VSHUF: every active element takes the one of its kind. -/
theorem shuffles {s : State} {d6 h : BitVec 6} {a : BitVec 7} {k g : BitVec 3} (hk : k.toNat ≤ 5) (heven : 4 ≤ k.toNat ∨ s.vN % 2 = 0) (hrot : k.toNat = 4 ∨ h = 0)
    (hgo : vecGo s [opnd a 0 (s.vN * s.vZ)] []) :
    ∃ t, exec (.vshuf d6 a k h g) s = .next t ∧ vecLeaves s t [opnd a 0 (s.vN * s.vZ)] (d6.zeroExtend 7) s.vN s.vZ (onActive s g s.vZ (fun i _ v =>
      v = shuffled (srcElem s [opnd a 0 (s.vN * s.vZ)] 0 s.vZ) (elemAt (s.vHere.reg d6.toNat) s.vZ) s.vN k.toNat h.toNat i)) := by
  have hlegal : (decide (k.toNat ≤ 5) && (decide (4 ≤ k.toNat) || decide (s.vN % 2 = 0)) && (decide (k.toNat = 4) || decide (h = 0))) = true := by
    rw [decide_eq_true hk, Bool.true_and, Bool.and_eq_true, Bool.or_eq_true, Bool.or_eq_true]
    exact ⟨heven.imp decide_eq_true decide_eq_true, hrot.imp decide_eq_true decide_eq_true⟩
  have hok : (opnd (d6.zeroExtend 7) 0 (s.vN * s.vZ)).slotOk (s.ctxOf s.core s.eng) = true := by
    have hch : (opnd (d6.zeroExtend 7) 0 (s.vN * s.vZ)).chan = false := by
      show (d6.zeroExtend 7).getLsbD 6 = false
      rw [BitVec.zeroExtend, BitVec.getLsbD_setWidth, BitVec.getLsbD_of_ge _ _ (Nat.le_refl 6), Bool.and_false]
    unfold Opnd.slotOk
    rw [hch]
    rfl
  show ∃ t, execVshuf d6 a k h g s = .next t ∧ _
  unfold execVshuf
  dsimp only
  rw [vecWord_go hgo hlegal fun _ ho => absurd ho (by simp), vecRetire_regOpnd _ _ _ (s.vN * s.vZ)]
  simp only [fun A i => shufElem_shuffled h.toNat s.vZ A (s.vHere.reg d6.toNat) i heven]
  exact vecRetire_mapped s _ _ g (typeBytes_pos _) _ hok _

/-! ### VRED and VSCAN -/

theorem actives_rising (s : State) (g : BitVec 3) : (s.actives g).Pairwise (· < ·) := List.pairwise_lt_range.filter _

/-- The listed elements that are active are those below 1,024. -/
theorem actives_upto (s : State) (g : BitVec 3) {i : Nat} (hi : i < 1024) : (s.actives g).filter (· ≤ i) = ((List.range s.vN).filter fun j => activeAt s g j).filter (· ≤ i) := by
  unfold State.actives
  rw [List.filter_filter, List.filter_filter]
  refine List.filter_congr fun j _ => ?_
  by_cases hj : j ≤ i
  · rw [pred_activeAt s g (lt_of_le_of_lt hj hi)]
  · simp [hj]

theorem actives_eq {s : State} (g : BitVec 3) (hn : s.vN ≤ 1024) : s.actives g = (List.range s.vN).filter fun j => activeAt s g j := by
  unfold State.actives
  exact List.filter_congr fun j hj => pred_activeAt s g (lt_of_lt_of_le (List.mem_range.mp hj) hn)

section Fold
variable {s : State} {d a : BitVec 7} {p g : BitVec 3} {x : BitVec 1}

/-- The value a reduction puts into element 0. -/
def reduced (T p : Nat) (l : List Nat) (run : Nat → Nat) : Nat := if l = [] then foldNone T p else run (l.length - 1)

/-- VRED retires with the fold of its active elements. -/
theorem vred_retires (hp : p.toNat ≤ 5) (hgo : vecGo s [opnd a x (s.vN * s.vZ)] [opnd d 0 (s.vN * s.vZ)]) :
    ∃ run k, foldsOver s p.toNat ((s.actives g).map fun i => srcElem s [opnd a x (s.vN * s.vZ)] 0 s.vZ i) run
      ∧ exec (.vred d a p x g) s = s.vecRetire [opnd a x (s.vN * s.vZ)] (opnd d 0 (s.vN * s.vZ)) (elemParts s.vN s.vZ [(0, reduced s.vT p.toNat (s.actives g) run)]) k := by
  obtain ⟨run, hover, hrun⟩ := runFolds_spec s p.toNat (fun i => srcElem s [opnd a x (s.vN * s.vZ)] 0 s.vZ i) (s.actives g) s.eHere.gen
  refine ⟨run, (runFolds p.toNat s.vT s.vRm ((s.actives g).map fun i => (i, srcElem s [opnd a x (s.vN * s.vZ)] 0 s.vZ i)) none s.eHere.gen).2, hover, ?_⟩
  have hlast := runPairs_last (s.actives g) run
  rw [← hrun] at hlast
  have hred : reduced s.vT p.toNat (s.actives g) run = (((runFolds p.toNat s.vT s.vRm ((s.actives g).map fun i => (i, srcElem s [opnd a x (s.vN * s.vZ)] 0 s.vZ i)) none s.eHere.gen).1.getLast?).map
      fun q => q.2).getD (foldUnit p.toNat s.vT) := by
    rw [hlast, foldUnit_none]
    unfold reduced
    split <;> rfl
  rw [hred]
  show execVred d a p x g s = _
  unfold execVred
  dsimp only
  rw [vecWord_go hgo (decide_eq_true hp) fun _ => some_mem_singleton]
  rfl

/-- VSCAN retires with the running folds of its active elements. -/
theorem vscan_retires (hp : p.toNat ≤ 5) (hgo : vecGo s [opnd a x (s.vN * s.vZ)] [opnd d 0 (s.vN * s.vZ)]) :
    ∃ run k, foldsOver s p.toNat ((s.actives g).map fun i => srcElem s [opnd a x (s.vN * s.vZ)] 0 s.vZ i) run
      ∧ exec (.vscan d a p x g) s = s.vecRetire [opnd a x (s.vN * s.vZ)] (opnd d 0 (s.vN * s.vZ)) (elemParts s.vN s.vZ (runPairs (s.actives g) run)) k := by
  obtain ⟨run, hover, hrun⟩ := runFolds_spec s p.toNat (fun i => srcElem s [opnd a x (s.vN * s.vZ)] 0 s.vZ i) (s.actives g) s.eHere.gen
  refine ⟨run, (runFolds p.toNat s.vT s.vRm ((s.actives g).map fun i => (i, srcElem s [opnd a x (s.vN * s.vZ)] 0 s.vZ i)) none s.eHere.gen).2, hover, ?_⟩
  rw [← hrun]
  show execVscan d a p x g s = _
  unfold execVscan
  dsimp only
  rw [vecWord_go hgo (decide_eq_true hp) fun _ => some_mem_singleton]
  rfl

/-- VRED: element 0 takes the fold, and in a slot every other element is cleared. -/
theorem reduces (hp : p.toNat ≤ 5) (hgo : vecGo s [opnd a x (s.vN * s.vZ)] [opnd d 0 (s.vN * s.vZ)]) :
    ∃ t run, exec (.vred d a p x g) s = .next t ∧ foldsOver s p.toNat ((s.actives g).map fun i => srcElem s [opnd a x (s.vN * s.vZ)] 0 s.vZ i) run
      ∧ vecLeaves s t [opnd a x (s.vN * s.vZ)] d s.vN s.vZ (fun i old v => v = if i = 0 then reduced s.vT p.toNat (s.actives g) run % 256 ^ s.vZ else old) := by
  obtain ⟨run, k, hover, heq⟩ := vred_retires (g := g) hp hgo
  have hfind (i : Nat) : Tbl.find? [(0, reduced s.vT p.toNat (s.actives g) run)] i = if 0 = i then some (reduced s.vT p.toNat (s.actives g) run) else none := rfl
  obtain ⟨t, ht, hleaves⟩ := s.vecRetire_spec [opnd a x (s.vN * s.vZ)] d s.vN s.vZ (fun i => Tbl.find? [(0, reduced s.vT p.toNat (s.actives g) run)] i) k
    (fun i old v => v = if i = 0 then reduced s.vT p.toNat (s.actives g) run % 256 ^ s.vZ else old) (vecGo_dst hgo)
    (fun _ i _ _ => by
      rw [hfind]
      by_cases hi : i = 0
      · rw [if_pos hi.symm, if_pos hi]
        rfl
      · rw [if_neg (Ne.symm hi), if_neg hi]
        rfl)
    (fun _ _ i _ => by
      rw [hfind]
      by_cases hi : i = 0
      · rw [if_pos hi.symm, if_pos hi]
        rfl
      · rw [if_neg (Ne.symm hi), if_neg hi]
        exact Nat.zero_mod _)
  exact ⟨t, run, heq.trans ht, hover, hleaves⟩

/-- The fold of integers that a reduction puts into element 0. -/
theorem reduced_int (hT : isInt s.vT = true) {q : Nat} (hq : q ≤ 2) {l : List Nat} {A run : Nat → Nat} (h : foldsOver s q (l.map A) run) :
    reduced s.vT q l run % 256 ^ s.vZ = wrapTo s.vT (intFold s.vT q (l.map fun i => intOf s.vT (A i))) := by
  unfold reduced
  split
  case isTrue hl =>
    rw [hl]
    exact foldNone_int hT hq
  case isFalse hl =>
    have hpos := List.length_pos_iff.mpr hl
    refine (standsFor_pattern (foldsOver_int hT hq h (l.length - 1) (by rw [List.length_map]; omega))).trans ?_
    rw [Nat.sub_add_cancel hpos, List.take_of_length_le (by rw [List.length_map]), List.map_map]
    rfl

/-- A byte string is settled by its bytes. -/
theorem getBytes_ext {v w off : Nat} : ∀ z : Nat, (∀ b, off ≤ b → b < off + z → getBytes v b 1 = getBytes w b 1) → getBytes v off z = getBytes w off z
  | 0, _ => by simp [getBytes, Nat.mod_one]
  | z + 1, h => by
    have hsplit (u : Nat) : getBytes u off (z + 1) = getBytes u off z + 256 ^ z * getBytes u (off + z) 1 := by
      unfold getBytes
      rw [Nat.pow_succ, Nat.mod_mul, Nat.div_div_eq_div_mul, ← Nat.pow_add, pow_one]
    rw [hsplit, hsplit, getBytes_ext z fun b hb hlt => h b hb (by omega), h (off + z) (by omega) (by omega)]

/-- VRED on integers: element 0 of a register is the fold, every other one is as before. -/
theorem reduces_int (hp : p.toNat ≤ 2) (hT : isInt s.vT = true) (hgo : vecGo s [opnd a x (s.vN * s.vZ)] [opnd d 0 (s.vN * s.vZ)]) (hd : d.getLsbD 6 = false)
    (hn : 0 < s.vN) (hfit : s.vN * s.vZ ≤ 1024) :
    ∃ t, exec (.vred d a p x g) s = .next t ∧ SameMemory s t
      ∧ elemAt ((t.vecOf s.core s.eng).reg (d.toNat % 64)) s.vZ 0 = wrapTo s.vT (intFold s.vT p.toNat ((s.actives g).map fun i => intOf s.vT (srcElem s [opnd a x (s.vN * s.vZ)] 0 s.vZ i)))
      ∧ ∀ i, 0 < i → elemAt ((t.vecOf s.core s.eng).reg (d.toNat % 64)) s.vZ i = elemAt (s.vHere.reg (d.toNat % 64)) s.vZ i := by
  obtain ⟨t, run, ht, hover, hmem, -, hregister, -, -⟩ := reduces (g := g) (hp.trans (by decide)) hgo
  obtain ⟨-, -, -, -, helem, habove, -⟩ := hregister hd
  have hle (i : Nat) (hi : i < s.vN) : i * s.vZ + s.vZ ≤ 1024 := ((Nat.succ_mul i s.vZ).symm.trans_le (Nat.mul_le_mul_right s.vZ hi)).trans hfit
  refine ⟨t, ht, hmem, ((helem 0 hn (hle 0 hn)).trans (if_pos rfl)).trans (reduced_int hT hp hover), fun i hi => ?_⟩
  rcases Nat.lt_or_ge i s.vN with hlt | hge
  · exact (helem i hlt (hle i hlt)).trans (if_neg hi.ne')
  · exact getBytes_ext s.vZ fun b hb _ => habove b ((Nat.mul_le_mul_right s.vZ hge).trans hb)

/-- VSCAN: every active element takes the fold up to it. -/
theorem scans (hp : p.toNat ≤ 5) (hgo : vecGo s [opnd a x (s.vN * s.vZ)] [opnd d 0 (s.vN * s.vZ)]) :
    ∃ t run, exec (.vscan d a p x g) s = .next t ∧ foldsOver s p.toNat ((s.actives g).map fun i => srcElem s [opnd a x (s.vN * s.vZ)] 0 s.vZ i) run
      ∧ vecLeaves s t [opnd a x (s.vN * s.vZ)] d s.vN s.vZ (onActive s g s.vZ (fun i _ v => v = run ((s.actives g).filter (· < i)).length)) := by
  obtain ⟨run, k, hover, heq⟩ := vscan_retires (g := g) hp hgo
  have hfind := runPairs_find (s.actives g) run (actives_rising s g)
  obtain ⟨t, ht, hleaves⟩ := vecRetire_found s [opnd a x (s.vN * s.vZ)] d g (typeBytes_pos s.vT) (runPairs (s.actives g) run)
    (fun i _ v => v = run ((s.actives g).filter (· < i)).length) (vecGo_dst hgo) (fun i _ hi => ⟨_, (hfind i).trans (if_pos hi), rfl⟩)
    (fun i hi => (hfind i).trans (if_neg hi)) k
  exact ⟨t, run, heq.trans ht, hover, hleaves⟩

/-- VSCAN on integers: every active element takes the fold of the integers up to it. -/
theorem scans_int (hp : p.toNat ≤ 2) (hT : isInt s.vT = true) (hgo : vecGo s [opnd a x (s.vN * s.vZ)] [opnd d 0 (s.vN * s.vZ)]) :
    ∃ t, exec (.vscan d a p x g) s = .next t ∧ vecLeaves s t [opnd a x (s.vN * s.vZ)] d s.vN s.vZ (onActive s g s.vZ (fun i _ v => v % 256 ^ s.vZ
      = wrapTo s.vT (intFold s.vT p.toNat ((((List.range s.vN).filter fun j => activeAt s g j).filter (· ≤ i)).map fun j => intOf s.vT (srcElem s [opnd a x (s.vN * s.vZ)] 0 s.vZ j))))) := by
  obtain ⟨run, k, hover, heq⟩ := vscan_retires (g := g) (hp.trans (by decide)) hgo
  have hfind := runPairs_find (s.actives g) run (actives_rising s g)
  rw [heq]
  refine vecRetire_found s [opnd a x (s.vN * s.vZ)] d g (typeBytes_pos s.vT) (runPairs (s.actives g) run) _ (vecGo_dst hgo)
    (fun i hi1024 hi => ⟨_, (hfind i).trans (if_pos hi), ?_⟩) (fun i hi => (hfind i).trans (if_neg hi)) k
  obtain ⟨hlen, htake⟩ := rising_take (s.actives g) (actives_rising s g) i hi
  refine (standsFor_pattern (foldsOver_int hT hp hover _ (by rw [List.length_map]; exact hlen))).trans ?_
  rw [← List.map_take, htake, actives_upto s g hi1024, List.map_map]
  rfl

end Fold

end Sys2Proof.Machine
end

section
/-! ## O24: VQNT, and the conversions together -/
namespace Sys2Proof.Machine

theorem stored_some (z x old : Nat) : stored z (some x) old = x % 256 ^ z := rfl

section Quantize
variable {s : State} {d a : BitVec 7} {m g : BitVec 3} {q : BitVec 2} {x : BitVec 1}

/-- The blocks that VQNT encodes: those whose first element is active. -/
def quantized (s : State) (g : BitVec 3) : List Nat := (List.range (s.vN / 32)).filter fun j => (s.vHere.pred g.toNat).getLsbD (32 * j)

theorem mem_quantized (hn : s.vN ≤ 1024) {j : Nat} (hj : j < s.vN / 32) : j ∈ quantized s g ↔ activeAt s g (32 * j) = true := by
  unfold quantized
  rw [List.mem_filter, List.mem_range, pred_activeAt s g (by omega)]
  exact and_iff_right hj

/-- VQNT retires with the parts of its blocks. -/
theorem vqnt_retires (hT : s.vT = 7 ∨ s.vT = 8) (h32 : s.vN % 32 = 0) (hm : m.toNat ≤ 4) (hgo : vecGo s [opnd a x (s.vN * s.vZ)] [opnd d 0 (512 + s.vN / 32)]) :
    ∃ k, exec (.vqnt d a m q x g) s = s.vecRetire [opnd a x (s.vN * s.vZ)] (opnd d 0 (512 + s.vN / 32)) (blockParts (s.vN / 32) fun j =>
      Tbl.find? (qntBlocks s.vT s.vZ (((srcSlots [] [opnd a x (s.vN * s.vZ)]).map s.srcContent).getD 0 0) q.toNat m.toNat (quantized s g) s.eHere.gen).1 j) k := by
  have hlegal : (s.blockOk && decide (m.toNat ≤ 4)) = true := by
    rw [blockOk_of hT h32, decide_eq_true hm]
    rfl
  refine ⟨(qntBlocks s.vT s.vZ (((srcSlots [] [opnd a x (s.vN * s.vZ)]).map s.srcContent).getD 0 0) q.toNat m.toNat (quantized s g) s.eHere.gen).2, ?_⟩
  show execVqnt d a m q x g s = _
  unfold execVqnt
  dsimp only
  rw [vecWord_go hgo hlegal fun _ => some_mem_singleton]
  refine congrArg (fun parts => s.vecRetire _ _ parts _) (List.flatMap_congr fun j _ => ?_)
  unfold quantized
  dsimp only
  cases Tbl.find? (qntBlocks _ _ _ _ _ _ _).1 j <;> rfl

/-- What VQNT leaves of a block: its codes and its scale where its first element is active, else nothing. -/
theorem vqnt_block (hn : s.vN ≤ 1024) (A : Nat) {j : Nat} (hj : j < s.vN / 32) :
    (activeAt s g (32 * j) = false → Tbl.find? (qntBlocks s.vT s.vZ A q.toNat m.toNat (quantized s g) s.eHere.gen).1 j = none)
      ∧ (activeAt s g (32 * j) = true → ∃ k, Tbl.find? (qntBlocks s.vT s.vZ A q.toNat m.toNat (quantized s g) s.eHere.gen).1 j
          = some (codesOf (blockCode s.vT s.vZ A q.toNat m.toNat j k).1, (blockCode s.vT s.vZ A q.toNat m.toNat j k).2.1)) := by
  obtain ⟨hin, hout⟩ := qntBlocks_find s.vT s.vZ A q.toNat m.toNat (quantized s g) s.eHere.gen j
  exact ⟨fun h => hout fun hmem => Bool.false_ne_true (h.symm.trans ((mem_quantized hn hj).mp hmem)), fun h => hin ((mem_quantized hn hj).mpr h)⟩

/-- The blocks in the slot that VQNT has claimed. -/
def blocksInSlot (s t : State) (g : BitVec 3) (q m A : Nat) (r : Ring) : Prop :=
  ∀ j < s.vN / 32, (activeAt s g (32 * j) = false → t.aByte s.core s.eng (r.slotAt r.claim.toNat + (512 + j)) = 0
      ∧ ∀ i < 16, t.aByte s.core s.eng (r.slotAt r.claim.toNat + (16 * j + i)) = 0)
    ∧ (activeAt s g (32 * j) = true → ∃ k, t.aByte s.core s.eng (r.slotAt r.claim.toNat + (512 + j)) = BitVec.ofNat 8 (blockCode s.vT s.vZ A q m j k).2.1
      ∧ ∀ i < 16, t.aByte s.core s.eng (r.slotAt r.claim.toNat + (16 * j + i))
        = BitVec.ofNat 8 ((blockCode s.vT s.vZ A q m j k).1.getD (2 * i) 0 % 16 + 16 * ((blockCode s.vT s.vZ A q m j k).1.getD (2 * i + 1) 0 % 16)))

/-- The blocks in the register that VQNT has written. -/
def blocksInRegister (s t : State) (d : BitVec 7) (g : BitVec 3) (q m A : Nat) : Prop :=
  ∀ j < s.vN / 32, activeAt s g (32 * j) = true → ∃ k, getBytes ((t.vecOf s.core s.eng).reg (d.toNat % 64)) (512 + j) 1 = (blockCode s.vT s.vZ A q m j k).2.1 % 256
    ∧ ∀ i < 32, (t.vecOf s.core s.eng).reg (d.toNat % 64) / 16 ^ (32 * j + i) % 16 = (blockCode s.vT s.vZ A q m j k).1.getD i 0 % 16

/-- The results of blocks: the codes and the scale of each whose first element is active, at some state of the generator. -/
def blocksFound (s : State) (g : BitVec 3) (q m A : Nat) (res : Nat → Option (Nat × Nat)) : Prop :=
  ∀ j < s.vN / 32, (activeAt s g (32 * j) = false → res j = none)
    ∧ (activeAt s g (32 * j) = true → ∃ k, res j = some (codesOf (blockCode s.vT s.vZ A q m j k).1, (blockCode s.vT s.vZ A q m j k).2.1))

/-- What a slot holds whose bytes are those of the parts of blocks. -/
theorem blocksInSlot_of {t : State} {q m A : Nat} {res : Nat → Option (Nat × Nat)} {r : Ring} (hres : blocksFound s g q m A res)
    (hbytes : ∀ p ∈ blockParts (s.vN / 32) res, ∀ j < p.2.1, t.aByte s.core s.eng (r.slotAt r.claim.toNat + p.1 + j) = BitVec.ofNat 8 (p.2.2.getD 0 / 256 ^ j)) :
    blocksInSlot s t g q m A r := by
  intro j hj
  obtain ⟨hmcodes, hmscale⟩ := mem_blockParts res hj
  obtain ⟨hoff, hon⟩ := hres j hj
  have hscale := hbytes _ hmscale 0 Nat.one_pos
  have hcodes := hbytes _ hmcodes
  dsimp only at hscale hcodes
  rw [Nat.add_zero, pow_zero, Nat.div_one] at hscale
  simp only [Nat.add_assoc] at hscale hcodes
  refine ⟨fun h => ?_, fun h => ?_⟩
  · rw [hoff h] at hscale hcodes
    exact ⟨hscale, fun i hi => (hcodes i hi).trans (congrArg (BitVec.ofNat 8) (Nat.zero_div _))⟩
  · obtain ⟨k, hk⟩ := hon h
    have hlt := blockCode_lt s.vT s.vZ A q m j k
    refine ⟨k, ?_⟩
    generalize blockCode s.vT s.vZ A q m j k = e at hk hlt ⊢
    have hbyte := codesOf_byte hlt
    generalize codesOf e.1 = w at hk hbyte
    rw [hk] at hscale hcodes
    refine ⟨hscale, fun i hi => ?_⟩
    rw [hcodes i hi, Option.map_some, Option.getD_some]
    exact hbyte i

/-- What a register holds into which the parts of blocks are written. -/
theorem blocksInRegister_of {t : State} {q m A : Nat} {res : Nat → Option (Nat × Nat)} (hres : blocksFound s g q m A res) (hn : s.vN / 32 ≤ 32)
    (hvec : t.vecOf s.core s.eng = s.vHere.setReg (d.toNat % 64) (putParts (s.vHere.reg (d.toNat % 64)) (blockParts (s.vN / 32) res))) :
    blocksInRegister s t d g q m A := by
  intro j hj h
  obtain ⟨hmcodes, hmscale⟩ := mem_blockParts res hj
  obtain ⟨k, hk⟩ := (hres j hj).2 h
  have hscale := getBytes_putParts _ (s.vHere.reg (d.toNat % 64)) (blockParts_apart hn res) _ hmscale
  have hcodes := getBytes_putParts _ (s.vHere.reg (d.toNat % 64)) (blockParts_apart hn res) _ hmcodes
  dsimp only at hscale hcodes
  rw [hk, Option.map_some, stored_some] at hscale hcodes
  refine ⟨k, ?_, fun i hi => ?_⟩
  · rw [hvec, VecCtx.setReg_reg _ _ _ (by omega), hscale, pow_one]
  · rw [register_nibble _ _ hi, hvec, VecCtx.setReg_reg _ _ _ (by omega), hcodes, show (256 : Nat) ^ 16 = 16 ^ 32 by decide, nibble_mod _ hi,
      ← codesOf_digit (blockCode_lt _ _ _ _ _ _ _), Nat.mod_mod]

/-- VQNT: the codes and the scale of every block whose first element is active. -/
theorem quantizes (hT : s.vT = 7 ∨ s.vT = 8) (h32 : s.vN % 32 = 0) (hn : s.vN ≤ 1024) (hm : m.toNat ≤ 4) (hgo : vecGo s [opnd a x (s.vN * s.vZ)] [opnd d 0 (512 + s.vN / 32)]) :
    let A := ((srcSlots [] [opnd a x (s.vN * s.vZ)]).map s.srcContent).getD 0 0
    let r := ((s.takeSources [opnd a x (s.vN * s.vZ)]).ctxOf s.core s.eng).ring (d.toNat % 64)
    ∃ t, exec (.vqnt d a m q x g) s = .next t ∧ SameMemory s t
      ∧ (d.getLsbD 6 = true → r.free ≠ 0 → ((t.ctxOf s.core s.eng).ring (d.toNat % 64)).claim = r.claim + 1
          ∧ t.landing = s.landing ++ [.fill s.core s.eng (d.toNat % 64) r.claim.toNat] ∧ t.vecOf s.core s.eng = s.vHere ∧ blocksInSlot s t g q.toNat m.toNat A r)
      ∧ (d.getLsbD 6 = false → blocksInRegister s t d g q.toNat m.toNat A) := by
  dsimp only
  obtain ⟨k, heq⟩ := vqnt_retires (q := q) (g := g) hT h32 hm hgo
  generalize ((srcSlots [] [opnd a x (s.vN * s.vZ)]).map s.srcContent).getD 0 0 = A at heq ⊢
  have hres : blocksFound s g q.toNat m.toNat A fun j => Tbl.find? (qntBlocks s.vT s.vZ A q.toNat m.toNat (quantized s g) s.eHere.gen).1 j :=
    fun j hj => vqnt_block hn A hj
  generalize (fun j => Tbl.find? (qntBlocks s.vT s.vZ A q.toNat m.toNat (quantized s g) s.eHere.gen).1 j) = res at heq hres
  have hblocks : s.vN / 32 ≤ 32 := by omega
  obtain ⟨t, ht, hmem, -, hregister, hfree, -⟩ := s.vecRetire_parts [opnd a x (s.vN * s.vZ)] d (512 + s.vN / 32) (blockParts (s.vN / 32) res) k
    (vecGo_dst hgo) (blockParts_apart hblocks res) (blockParts_le hblocks res)
  refine ⟨t, heq.trans ht, hmem, fun hch hf => ?_, fun hch => ?_⟩
  · obtain ⟨hvec, hclaim, -, hland, -, hbytes⟩ := hfree hch hf
    exact ⟨hclaim, hland, hvec, blocksInSlot_of hres hbytes⟩
  · obtain ⟨-, hvec, -⟩ := hregister hch
    exact blocksInRegister_of hres hblocks hvec

end Quantize

/-- Settles O24: each conversion, shuffle, reduction and scan by the lemma of its word. -/
theorem vectorConversions : Obligations.VectorConversions := by
  unfold Obligations.VectorConversions
  intro s d a b d6 h x y g p m ty q z n T zd one peek codes A reg D act int fold
  have hfold (l : List Nat) : fold l = intFold T p.toNat (l.map fun i => intOf T (A i)) := by
    show (match p.toNat with | 0 => _ | 1 => _ | _ => _) = _
    unfold intFold
    rfl
  have hreg (hd : d.getLsbD 6 = false) : d.toNat % 64 = d.toNat := by
    refine Nat.mod_eq_of_lt ?_
    have hbit : d.toNat.testBit 6 = false := hd
    have := d.isLt
    rw [Nat.testBit_eq_decide_div_mod_eq] at hbit
    have := of_decide_eq_false hbit
    omega
  refine ⟨converts, fun hT h32 hn hm hgo => ?_, decodes, fun k hk heven hrot hgo => shuffles hk heven hrot hgo, fun hp hT hgo hd hn hfit => ?_, fun hp hn hgo => ?_,
    fun hp hn hgo => ?_, fun hp hT hgo => ?_⟩
  · obtain ⟨t, ht, hmem, hslot, hregister⟩ := quantizes (q := q) (g := g) hT h32 hn hm hgo
    refine ⟨t, ht, hmem, hslot, fun hd => ?_⟩
    have hblocks := hregister hd
    unfold blocksInRegister at hblocks
    rw [hreg hd] at hblocks
    exact hblocks
  · have hnz : n ≤ 1024 := (Nat.le_mul_of_pos_right n (typeBytes_pos s.vT)).trans hfit
    obtain ⟨t, ht, hmem, hfirst, hrest⟩ := reduces_int (g := g) hp hT hgo hd hn hfit
    rw [hreg hd] at hfirst hrest
    refine ⟨t, ht, hmem, ?_, hrest⟩
    rw [hfold, hfirst, actives_eq g hnz]
  · have hact := actives_eq g hn
    obtain ⟨t, run, hr⟩ := reduces (g := g) hp hgo
    rw [hact] at hr
    exact ⟨t, run, hr⟩
  · have hact := actives_eq g hn
    obtain ⟨t, run, hr⟩ := scans (g := g) hp hgo
    rw [hact] at hr
    exact ⟨t, run, hr⟩
  · simp only [hfold]
    exact scans_int hp hT hgo

end Sys2Proof.Machine
end
